-- ==== Sys2Proof/Word.lean ====
section
/-! DEFINITION. The plain types the model is written in: bytes, the numbers of ports, stalls and
channels, the shapes of a Ledger object (R382, R383), and the operands that commands carry. -/

namespace Sys2Proof

abbrev Byte := BitVec 8

/-- A data lane and a pointer of a stall are 24 bits wide (R212). -/
abbrev Lane := BitVec 24

/-- A fibre port F0 to F7 (R6). -/
abbrev Port := Fin 8

/-- A stall 0 to 131 (R5). -/
abbrev StallId := Fin 132

/-- An epoch stamp in fine LSBs: 256 times the count of root ticks plus the fine field (R12). -/
abbrev Stamp := Nat

/-! ## Ledger objects -/

/-- The types of R382. -/
inductive Ty where
  | u8 | u16 | u32 | u64 | i8 | i16 | i32 | i64 | f32 | epoch | vis | blob | enum8 | bits32
deriving DecidableEq, Repr

/-- Access of an object (R383). -/
inductive Acc where
  | ro | rwp | rw | wo
deriving DecidableEq, Repr

/-- The width of a type's values in bytes; 0 for the two types of varying length (R382). -/
def Ty.bytes : Ty → Nat
  | .u8 | .i8 | .enum8 => 1
  | .u16 | .i16 => 2
  | .u32 | .i32 | .f32 | .bits32 => 4
  | .u64 | .i64 => 8
  | .epoch => 9
  | .vis | .blob => 0

/-- The type codes of R382. -/
def Ty.code : Ty → Nat
  | .u8 => 0x01 | .u16 => 0x02 | .u32 => 0x03 | .u64 => 0x04
  | .i8 => 0x05 | .i16 => 0x06 | .i32 => 0x07 | .i64 => 0x08
  | .f32 => 0x09 | .epoch => 0x0A | .vis => 0x0B | .blob => 0x0C
  | .enum8 => 0x0D | .bits32 => 0x0E

/-- Whether a type's range is read as two's complement (R7). -/
def Ty.signed : Ty → Bool
  | .i8 | .i16 | .i32 | .i64 => true
  | _ => false

/-- A register of the Ledger: its key (index × 256 + subindex), its width in bits and its default. -/
structure Reg where
  key : Nat
  width : Nat
  dflt : Nat
deriving DecidableEq, Repr

/-- One row of an object table: subindex, repetition, type, access, write level (R383), default,
the range a written value must lie in, one further value the row allows, the bits that are not
reserved (R9) and the bits a write of 1 clears. -/
structure ObjRow where
  sub : Nat
  rep : Nat := 1
  stride : Nat := 1
  ty : Ty
  acc : Acc
  level : Nat := 2
  dflt : Nat := 0
  range : Option (Int × Int) := none
  also : Option Nat := none
  mask : Option Nat := none
  w1c : Nat := 0
deriving DecidableEq, Repr

/-- Subindex 00h reads a record's number of entries. -/
def rowCount (n : Nat) : ObjRow := { sub := 0x00, ty := .u8, acc := .ro, dflt := n }

/-- FEh APPLY of a staged group (R387). -/
def rowApply : ObjRow := { sub := 0xFE, ty := .u8, acc := .wo }

/-- FFh STATE of a staged group (R387). -/
def rowState : ObjRow := { sub := 0xFF, ty := .u8, acc := .ro }

/-! ## Operands of commands -/

/-- The path a Ledger or stream message came by (R400): a UDP source with the E port it came in on, a channel of
the CAN port, or a forwarding device with the Aggon link its frames came by (log entry 122). -/
inductive Path where
  | udp (addr : BitVec 128) (port : BitVec 16) (p : Fin 4)
  | can (chan : Fin 16)
  | fwd (dev : BitVec 11) (link : Fin 4)
deriving DecidableEq, Repr

/-- Whether two messages came by one path (R400): of UDP the source address and port alone count. -/
def Path.same : Path → Path → Bool
  | .udp a p _, .udp b q _ => a == b && p == q
  | x, y => x == y

/-- The head of a Ledger request (R391): session, request number, path and the 16-byte TAG. -/
structure Req where
  session : BitVec 32
  seq : BitVec 32
  path : Path
  tag : List Byte
deriving DecidableEq, Repr

/-- The slot point offered at a commit point (R30, R33, R37). -/
inductive SlotPoint where
  | time (k : Int)
  | mains (cycle : Nat) (j : Nat)
  | line
deriving DecidableEq, Repr

/-- One Raman record (R153, R154): the Stokes and anti-Stokes samples of the record window, and of each input the 128 samples before
the launch that its baseline is taken over. -/
structure RamanRecord where
  stokes : List (BitVec 16)
  anti : List (BitVec 16)
  preS : List (BitVec 16)
  preA : List (BitVec 16)
deriving DecidableEq, Repr

/-- A raw sample of a receive input (R71, R76): its 12-bit code, and whether its sub-converter flagged it as overrange. -/
structure RxRaw where
  code : BitVec 12
  flagged : Bool := false
deriving DecidableEq, Repr

/-- A bell message (R277). -/
structure BellMsg where
  type : BitVec 8
  group : BitVec 8
  origin : BitVec 11
  seq : BitVec 32
  epoch : BitVec 64
  fine : BitVec 8
  region : BitVec 8
  condMask : BitVec 8
  armMode : BitVec 8
  boundarySeq : BitVec 32
deriving DecidableEq, Repr

/-- The haggle body of a SUBSCRIBE (R359). -/
structure Haggle where
  session : BitVec 32
  req : BitVec 32
  kind : BitVec 8
  port : BitVec 8
  slot : BitVec 8
  output : BitVec 8
  sel : BitVec 64
  pFirst : BitVec 32
  pCount : BitVec 32
  decimT : BitVec 16
  baleMs : BitVec 16
  toll : BitVec 32
  tollMin : BitVec 32
  compress : BitVec 8
  credit : BitVec 8
  maxDgram : BitVec 16
  lease : BitVec 16
  destPort : BitVec 16
  dest : BitVec 128
  tag : List Byte
deriving DecidableEq, Repr

/-- What a transfer meets on its path (R199, R324): nothing, a single-bit error that the consumer corrects, or an error that breaks it. -/
inductive PathCheck where
  | clean
  | single
  | broken
deriving DecidableEq, Repr

/-- How a frame comes over an Aggon link: the fields of its header that every receiver takes (R424), the single errors corrected in its payload
words and the words delivered poisoned (R425). -/
structure Arrival where
  link : Fin 4
  fseq : BitVec 16
  ack : BitVec 16
  credit : BitVec 32
  ce : Nat := 0
  poisoned : List Nat := []
deriving DecidableEq, Repr

/-- A haggle payload of an Aggon link (R422). -/
structure LinkHaggle where
  version : BitVec 8
  link : BitVec 8
  deviceId : BitVec 11
  cluster : BitVec 16
  lanes : BitVec 8
  fwMajor : BitVec 8
  serialCrc : BitVec 32
  twinPeer : BitVec 16
deriving DecidableEq, Repr

/-- A TOPO frame (R430): sender, serial CRC, sequence, neighbours by link with mean delay in ps,
and the root rank fields (R432). -/
structure TopoFrame where
  deviceId : BitVec 11
  serialCrc : BitVec 32
  seq : BitVec 32
  hops : Nat
  links : List (Option (BitVec 11) × Nat)
  privileged : Bool
  originTai : Bool
  rootPri : BitVec 16
deriving DecidableEq, Repr

/-- A crier payload (R448). -/
structure CrierMsg where
  role : BitVec 8
  cflags : BitVec 8
  claim : BitVec 24
  cseq : BitVec 16
  epoch : BitVec 64
deriving DecidableEq, Repr

/-- The two paths of twin criers (R448). -/
inductive TwinPath where
  | aggon
  | eth
deriving DecidableEq, Repr

/-- What an Announce message says (R351): the grandmaster's quality and identity, the steps removed from it, and the identity and port number
of the parent that sends the message, with the domain and the transport it came in (R350). -/
structure PtpMaster where
  domain : BitVec 8
  transport : BitVec 8
  priority1 : BitVec 8
  clockClass : BitVec 8
  accuracy : BitVec 8
  variance : BitVec 16
  priority2 : BitVec 8
  grandmaster : BitVec 64
  steps : BitVec 16
  identity : BitVec 64
  port : BitVec 16
deriving DecidableEq, Repr

/-- A Sync with what follows it (R350, R352): its domain and transport, the master's time in ns from the TAI epoch, the correction in 1/65,536
ns, and the stamp of its arrival at the balls. -/
structure PtpSyncMsg where
  domain : BitVec 8
  transport : BitVec 8
  origin : Nat
  corr : Int
  stamp : Stamp
deriving DecidableEq, Repr

/-- The messages of a path-delay measurement (R350): the stamps of the request's departure and, peer-to-peer, of the response's arrival; the
request's arrival in ns at the other end, or the ns the peer held it; and the correction in 1/65,536 ns. -/
structure PathDelayMsg where
  sent : Stamp
  back : Stamp
  arrival : Nat
  turn : Nat
  corr : Int
deriving DecidableEq, Repr

/-- The redundancy control trailer of a received frame with the frame's source address (R347): its sequence number and LAN identifier. -/
structure PrpTrailer where
  src : BitVec 48
  seq : BitVec 16
  lan : BitVec 4
deriving DecidableEq, Repr

/-- A sensor conversion's measured resistance in 1/65,536 ohm, demodulated peak as a share of full
scale in 1/1,000, quadrature over in-phase in 1/256 and the epoch of the middle of the
integration (R464, R465, R467). -/
structure SfeSample where
  res : BitVec 32
  peak : Nat
  quad : Nat
  stamp : Stamp
deriving DecidableEq, Repr

/-- The trims of one VGA step of an input (R494): gain and delay codes, and the digital phase in 0.01°. -/
structure VgaTrim where
  gain : Int
  delay : Int
  phase : Int
deriving DecidableEq, Repr, Inhabited

/-- What a calibration measured that the state does not hold (R483, R487, R491, R492): whether the reference readings or the density tables
pass the pre-check, the quality in the unit of R483 and whether the figures beside it lie within their limits, the codes of SFE_EXC or of
LOOP_DRV, and the digital trims that no object shows. A receive calibration measures from the records it holds. -/
structure CalMeasure where
  pass : Bool
  quality : Int
  within : Bool
  codes : List Int
  tables : List Byte
deriving DecidableEq, Repr

/-- A target of the debug port (R525). -/
inductive DbgTarget where
  | stall (st : StallId)
  | clerks
  | memory
  | other (code : BitVec 8)
deriving DecidableEq, Repr

/-- A source that can be rate-limited (R406). -/
inductive Source where
  | addr (a : BitVec 128)
  | can (chan : Fin 16)
  | session (id : BitVec 32)
  | fabric
deriving DecidableEq, Repr

/-- The summary keys of R539: SHOT_CROWD of a port (R51), OVERRUN of a port (R144), ignored
triggers of a region by cause (R261), decode errors by use and code (R379). -/
inductive SummaryKey where
  | crowd (n : Port)
  | overrun (n : Port)
  | profile (n : Port)
  | trigEarly (r : Fin 64)
  | trigRearm (r : Fin 64)
  | decode (use : Fin 3) (code : Fin 9)
deriving DecidableEq, Repr

/-- A mirrored group commit (R441): the group's index, the values of its objects, and the boundary it is tagged with: for a port's
group the sequence number of the first shot after it. -/
structure MirrorCommit where
  index : BitVec 16
  values : List (Nat × Nat)
  blobs : List (Nat × List Byte)
  boundary : BitVec 32
deriving DecidableEq, Repr

/-- A bale mark (R445). -/
structure BaleMarkMsg where
  stream : Fin 256
  bale : BitVec 32
  firstSeq : BitVec 32
  frags : BitVec 16
  compLen : BitVec 32
  check : BitVec 32
deriving DecidableEq, Repr

end Sys2Proof
end

