-- ==== Sys2Proof/Syntax.lean ====
section
/-! DEFINITION. The commands of the block: one constructor per row of the table of operations and events
(spec/opcode_table.json), in table order, with the operands each carries. A host command carries the head of
its Ledger request (R391); an event carries what the event itself brings: a stamp, a level, a message, a
measured quantity. A stall instruction carries the stall that issues it and its encoded fields (R249). -/

namespace Sys2Proof

/-- A command: a row of the table of operations and events. -/
inductive Instr where
  /-- EPOCH_CORRECTION_OVERFLOW (R16). -/
  | epochCorrectionOverflow
  /-- EPOCH_SECOND (R21). -/
  | epochSecond
  /-- PPS_EDGE (R20). -/
  | ppsEdge (stamp : Stamp)
  /-- PPS_TIMEOUT (R20). -/
  | ppsTimeout
  /-- SEC_LABEL (R19). -/
  | secLabel (r : Req) (v : BitVec 64)
  /-- STEP_LOAD (R24). -/
  | stepLoad
  /-- SLEW_END (R28). -/
  | slewEnd
  /-- HOLDOVER_ERR_GROWTH (R26). -/
  | holdoverErrGrowth
  /-- MAINS_EDGE (R31). -/
  | mainsEdge (stamp : Stamp)
  /-- MAINS_SYNTHETIC_EDGE (R32). -/
  | mainsSyntheticEdge
  /-- ENC_LEVEL_ACCEPT (R35). -/
  | encLevelAccept (a b z : Bool)
  /-- ENC_PRESET (R36). -/
  | encPreset (r : Req) (v : BitVec 32)
  /-- LINE_RATE_UPDATE (R62). -/
  | lineRateUpdate
  /-- COMMIT_POINT (R47). -/
  | commitPoint (n : Port) (slot : SlotPoint)
  /-- TONE_LOAD (R57). -/
  | toneLoad (n : Port)
  /-- GATE_ASSERT (R89). -/
  | gateAssert (n : Port)
  /-- LAUNCH (R57). -/
  | launch (n : Port)
  /-- MON_STAMP (R90). -/
  | monStamp (n : Port) (stamp : Stamp)
  /-- STAMP_MISS (R59). -/
  | stampMiss (n : Port)
  /-- RECORD_WINDOW_OPEN (R57). -/
  | recordWindowOpen (n : Port) (x y : List RxRaw)
  /-- GATE_RELEASE (R89). -/
  | gateRelease (n : Port)
  /-- RECORD_WINDOW_CLOSE (R57). -/
  | recordWindowClose (n : Port) (raman : Option RamanRecord)
  /-- LSI_RELEASE (R53). -/
  | lsiRelease (ch : Fin 2)
  /-- LSI_HOLD (R54). -/
  | lsiHold (ch : Fin 2)
  /-- LSI_RESUME (R54). -/
  | lsiResume
  /-- LSI_DISCORD (R55). -/
  | lsiDiscord
  /-- CREST_COMPUTATION_END (R85). -/
  | crestComputationEnd (n : Port) (set : Fin 16)
  /-- COMMON_MODE_FAULT (R96). -/
  | commonModeFault (n : Port) (y out : Bool) (mv : BitVec 16)
  /-- TX_CHECK (R96). -/
  | txCheck (n : Port) (isOpen isShort : Bool)
  /-- SEND (R94). -/
  | send (r : Req) (n : Port) (w : BitVec 32)
  /-- FCTL_WORD_END (R92). -/
  | fctlWordEnd (n : Port)
  /-- SCHEDULED_WORD_START (R93). -/
  | scheduledWordStart (n : Port)
  /-- STATE_WORD_ARRIVAL (R118). -/
  | stateWordArrival (n : Port) (set : Fin 16) (p : Nat) (poisoned : Bool)
  /-- GRID_POINT (R123). -/
  | gridPoint (n : Port) (p : Nat)
  /-- DAS_SHOT_END (R138). -/
  | dasShotEnd (n : Port)
  /-- RELEARN (R149). -/
  | relearn (r : Req) (n : Port) (v : BitVec 8)
  /-- QUEUE_DRAIN (R143). -/
  | queueDrain (n : Port) (words : Nat)
  /-- AVERAGE_COMPLETE (R157). -/
  | averageComplete (n : Port) (set : Fin 8)
  /-- PROFILE_DELIVERY (R167). -/
  | profileDelivery (n : Port)
  /-- BRIL_SHOT_ADD (R172). -/
  | brilShotAdd (n : Port)
  /-- RELEASE (R178). -/
  | release (r : Req) (n : Port) (buf : BitVec 8)
  /-- DELIVERY_COMPLETE (R183). -/
  | deliveryComplete (n : Port)
  /-- MIGRATION_COPY_END (R199). -/
  | migrationCopyEnd (st : StallId)
  /-- STL_TEST_END (R199). -/
  | stlTestEnd (st : StallId) (pass : Bool)
  /-- IMAGE (R203). -/
  | image (r : Req) (g : Fin 16) (bytes : List Byte)
  /-- PROGRAM_LOAD_END (R207). -/
  | programLoadEnd (st : StallId)
  /-- INQ_POP (R193). -/
  | inqPop (st : StallId) (pd : Fin 16)
  /-- GET (R187). -/
  | get (st : StallId) (tag : Fin 16) (path : PathCheck)
  /-- PUT (R187). -/
  | put (st : StallId) (tag : Fin 16) (path : PathCheck)
  /-- GET2D (R187). -/
  | get2d (st : StallId) (tag : Fin 16) (path : PathCheck)
  /-- PUT2D (R187). -/
  | put2d (st : StallId) (tag : Fin 16) (path : PathCheck)
  /-- DONE (R191). -/
  | done (st : StallId) (tag : Fin 16)
  /-- TRIG (R234). -/
  | trig (st : StallId) (tag : Fin 16)
  /-- MAIL (R234). -/
  | mail (st : StallId) (tag : Fin 16)
  /-- NOP (R250). -/
  | nop (st : StallId)
  /-- VADD (R252). -/
  | vadd (st : StallId) (dd da db : Fin 64)
  /-- VSUB (R252). -/
  | vsub (st : StallId) (dd da db : Fin 64)
  /-- VADDS (R252). -/
  | vadds (st : StallId) (dd da db : Fin 64)
  /-- VSUBS (R252). -/
  | vsubs (st : StallId) (dd da db : Fin 64)
  /-- VAND (R252). -/
  | vand (st : StallId) (dd da db : Fin 64)
  /-- VOR (R252). -/
  | vor (st : StallId) (dd da db : Fin 64)
  /-- VXOR (R252). -/
  | vxor (st : StallId) (dd da db : Fin 64)
  /-- VMIN (R252). -/
  | vmin (st : StallId) (dd da db : Fin 64)
  /-- VMAX (R252). -/
  | vmax (st : StallId) (dd da db : Fin 64)
  /-- VABS (R252). -/
  | vabs (st : StallId) (dd da db : Fin 64)
  /-- VNEG (R252). -/
  | vneg (st : StallId) (dd da db : Fin 64)
  /-- VSHL (R252). -/
  | vshl (st : StallId) (dd da db : Fin 64)
  /-- VSRA (R252). -/
  | vsra (st : StallId) (dd da db : Fin 64)
  /-- VCGT (R252). -/
  | vcgt (st : StallId) (dd da db : Fin 64)
  /-- VCEQ (R252). -/
  | vceq (st : StallId) (dd da db : Fin 64)
  /-- VMOV (R252). -/
  | vmov (st : StallId) (dd da db : Fin 64)
  /-- VSHLI (R251). -/
  | vshli (st : StallId) (dd da : Fin 64) (imm : BitVec 6)
  /-- VSRAI (R251). -/
  | vsrai (st : StallId) (dd da : Fin 64) (imm : BitVec 6)
  /-- VSRLI (R251). -/
  | vsrli (st : StallId) (dd da : Fin 64) (imm : BitVec 6)
  /-- VSWZ (R251). -/
  | vswz (st : StallId) (dd da : Fin 64) (sel : BitVec 8)
  /-- MPY (R217). -/
  | mpy (st : StallId) (an : Fin 8) (da db : Fin 64) (sm : BitVec 2) (bc : BitVec 3)
  /-- MAC (R218). -/
  | mac (st : StallId) (an : Fin 8) (da db : Fin 64) (sm : BitVec 2) (bc : BitVec 3)
  /-- MSU (R218). -/
  | msu (st : StallId) (an : Fin 8) (da db : Fin 64) (sm : BitVec 2) (bc : BitVec 3)
  /-- CMAC (R251). -/
  | cmac (st : StallId) (an : Fin 8) (da db : Fin 64) (sm : BitVec 2) (bc : BitVec 3) (cj : Bool)
  /-- CLRA (R253). -/
  | clra (st : StallId) (an am : Fin 8) (dx : Fin 64) (imm : BitVec 6)
  /-- MOVA (R253). -/
  | mova (st : StallId) (an am : Fin 8) (dx : Fin 64) (imm : BitVec 6)
  /-- ADDA (R253). -/
  | adda (st : StallId) (an am : Fin 8) (dx : Fin 64) (imm : BitVec 6)
  /-- SUBA (R253). -/
  | suba (st : StallId) (an am : Fin 8) (dx : Fin 64) (imm : BitVec 6)
  /-- SHLA (R221). -/
  | shla (st : StallId) (an am : Fin 8) (dx : Fin 64) (imm : BitVec 6)
  /-- SRAA (R221). -/
  | sraa (st : StallId) (an am : Fin 8) (dx : Fin 64) (imm : BitVec 6)
  /-- NORM (R220). -/
  | norm (st : StallId) (an am : Fin 8) (dx : Fin 64) (imm : BitVec 6)
  /-- EXP (R220). -/
  | exp (st : StallId) (an am : Fin 8) (dx : Fin 64) (imm : BitVec 6)
  /-- REDA (R221). -/
  | reda (st : StallId) (an am : Fin 8) (dx : Fin 64) (imm : BitVec 6)
  /-- LDA (R221). -/
  | lda (st : StallId) (an am : Fin 8) (dx : Fin 64) (imm : BitVec 6)
  /-- NEGA (R253). -/
  | nega (st : StallId) (an am : Fin 8) (dx : Fin 64) (imm : BitVec 6)
  /-- ABSA (R253). -/
  | absa (st : StallId) (an am : Fin 8) (dx : Fin 64) (imm : BitVec 6)
  /-- STA (R219). -/
  | sta (st : StallId) (an : Fin 8) (dx : Fin 64) (imm : BitVec 6)
  /-- LD (R224). -/
  | ld (st : StallId) (dr : Fin 64) (pn : Fin 16) (mm : Fin 8) (amode : BitVec 2) (ef : BitVec 3) (imm : BitVec 8)
  /-- ST (R224). -/
  | st (st : StallId) (dr : Fin 64) (pn : Fin 16) (mm : Fin 8) (amode : BitVec 2) (ef : BitVec 3) (imm : BitVec 8)
  /-- LDP (R251). -/
  | ldp (st : StallId) (pd pn : Fin 16) (mm : Fin 8) (amode : BitVec 2) (imm : BitVec 8)
  /-- STP (R251). -/
  | stp (st : StallId) (pd pn : Fin 16) (mm : Fin 8) (amode : BitVec 2) (imm : BitVec 8)
  /-- LDAM (R251). -/
  | ldam (st : StallId) (an : Fin 8) (pn : Fin 16) (mm : Fin 8) (amode : BitVec 2) (imm : BitVec 8)
  /-- STAM (R251). -/
  | stam (st : StallId) (an : Fin 8) (pn : Fin 16) (mm : Fin 8) (amode : BitVec 2) (imm : BitVec 8)
  /-- LIP (R251). -/
  | lip (st : StallId) (pd : Fin 16) (imm : BitVec 22)
  /-- ADDPI (R251). -/
  | addpi (st : StallId) (pd ps : Fin 16) (imm : BitVec 18)
  /-- ADD (R254). -/
  | add (st : StallId) (pd ps pt : Fin 16) (imm : BitVec 5)
  /-- SUB (R254). -/
  | sub (st : StallId) (pd ps pt : Fin 16) (imm : BitVec 5)
  /-- AND (R254). -/
  | and (st : StallId) (pd ps pt : Fin 16) (imm : BitVec 5)
  /-- OR (R254). -/
  | or (st : StallId) (pd ps pt : Fin 16) (imm : BitVec 5)
  /-- XOR (R254). -/
  | xor (st : StallId) (pd ps pt : Fin 16) (imm : BitVec 5)
  /-- SHL (R254). -/
  | shl (st : StallId) (pd ps pt : Fin 16) (imm : BitVec 5)
  /-- SHR (R254). -/
  | shr (st : StallId) (pd ps pt : Fin 16) (imm : BitVec 5)
  /-- SRA (R254). -/
  | sra (st : StallId) (pd ps pt : Fin 16) (imm : BitVec 5)
  /-- SHLI (R254). -/
  | shli (st : StallId) (pd ps pt : Fin 16) (imm : BitVec 5)
  /-- SHRI (R254). -/
  | shri (st : StallId) (pd ps pt : Fin 16) (imm : BitVec 5)
  /-- SRAI (R254). -/
  | srai (st : StallId) (pd ps pt : Fin 16) (imm : BitVec 5)
  /-- MUL (R254). -/
  | mul (st : StallId) (pd ps pt : Fin 16) (imm : BitVec 5)
  /-- SLT (R254). -/
  | slt (st : StallId) (pd ps pt : Fin 16) (imm : BitVec 5)
  /-- SLTU (R254). -/
  | sltu (st : StallId) (pd ps pt : Fin 16) (imm : BitVec 5)
  /-- MIN (R254). -/
  | min (st : StallId) (pd ps pt : Fin 16) (imm : BitVec 5)
  /-- MAX (R254). -/
  | max (st : StallId) (pd ps pt : Fin 16) (imm : BitVec 5)
  /-- BR (R237). -/
  | br (st : StallId) (off : BitVec 14)
  /-- BCC (R237). -/
  | bcc (st : StallId) (pa pb : Fin 16) (cc : BitVec 3) (off : BitVec 14)
  /-- CALL (R238). -/
  | call (st : StallId) (off : BitVec 14)
  /-- RET (R238). -/
  | ret (st : StallId)
  /-- LOOP (R239). -/
  | loop (st : StallId) (rot src : Bool) (cnt body : BitVec 12)
  /-- TRAPRET (R246). -/
  | trapret (st : StallId)
  /-- ISSUE (R232). -/
  | issue (st : StallId) (tt pn : Fin 16)
  /-- WAIT (R235). -/
  | wait (st : StallId) (tt pd : Fin 16)
  /-- MFS (R248). -/
  | mfs (st : StallId) (pd : Fin 16) (sel : BitVec 8)
  /-- MTS (R248). -/
  | mts (st : StallId) (sel : BitVec 8) (ps : Fin 16)
  /-- MOVDP (R251). -/
  | movdp (st : StallId) (pd : Fin 16) (da : Fin 64) (sel : BitVec 8)
  /-- MOVPD (R251). -/
  | movpd (st : StallId) (dd : Fin 64) (ps : Fin 16) (sel : BitVec 8)
  /-- MFM (R228). -/
  | mfm (st : StallId) (pd : Fin 16) (mm : Fin 8) (fld : BitVec 8)
  /-- MTM (R228). -/
  | mtm (st : StallId) (mm : Fin 8) (fld : BitVec 8) (ps : Fin 16)
  /-- MFRB (R242). -/
  | mfrb (st : StallId) (pd : Fin 16)
  /-- MTRB (R242). -/
  | mtrb (st : StallId) (ps : Fin 16)
  /-- ROTB (R242). -/
  | rotb (st : StallId)
  /-- VDUP (R251). -/
  | vdup (st : StallId) (dd : Fin 64) (ps : Fin 16)
  /-- POINT_CONDITION (R264). -/
  | pointCondition (rg : Fin 64)
  /-- STALL_TRIG_REQUEST (R272). -/
  | stallTrigRequest
  /-- CAN_FRAME (R267). -/
  | canFrame (id : BitVec 29) (ext : Bool) (data : List Byte) (stamp : Stamp)
  /-- RECORD_WRITTEN (R273). -/
  | recordWritten (rg : Fin 64)
  /-- REARM_END (R262). -/
  | rearmEnd (rg : Fin 64)
  /-- BELL_ARM (R279). -/
  | bellArm (a : Arrival) (hops : BitVec 8) (m : BellMsg)
  /-- BELL_DISARM (R279). -/
  | bellDisarm (a : Arrival) (hops : BitVec 8) (m : BellMsg)
  /-- BELL_FIRE (R279). -/
  | bellFire (a : Arrival) (hops : BitVec 8) (m : BellMsg)
  /-- ARM_AT_EPOCH (R279). -/
  | armAtEpoch
  /-- FIRE_GROUP (R279). -/
  | fireGroup (r : Req) (v : BitVec 8)
  /-- ARM_GROUP (R279). -/
  | armGroup (r : Req) (v : BitVec 16)
  /-- ARM_GROUP_DISARM (R279). -/
  | armGroupDisarm (r : Req) (v : BitVec 8)
  /-- REF_EDGE_LOSS (R289). -/
  | refEdgeLoss (ref : Fin 3)
  /-- COAST_ACQUIRE (R298). -/
  | coastAcquire
  /-- PLL_LOCK (R284). -/
  | pllLock
  /-- COAST_EXIT (R300). -/
  | coastExit
  /-- PLL_LOCK_LOSS (R284). -/
  | pllLockLoss
  /-- QUAL_WINDOW_END (R286). -/
  | qualWindowEnd (ref : Fin 3) (offset : Int)
  /-- OVEN_RDY_RISE (R287). -/
  | ovenRdyRise
  /-- OVEN_RDY_FALL (R289). -/
  | ovenRdyFall
  /-- OVEN_HOLD_EXPIRY (R287). -/
  | ovenHoldExpiry
  /-- AGE_LEARN_TICK (R291). -/
  | ageLearnTick
  /-- XTAL_TRIM_SAVE (R292). -/
  | xtalTrimSave
  /-- DOMAIN_SOURCE_LOSS (R296). -/
  | domainSourceLoss (dom : Fin 16)
  /-- ROOT_STOP (R297). -/
  | rootStop
  /-- TDC_STAMP (R305). -/
  | tdcStamp (ch : Fin 21) (stamp : Stamp)
  /-- UNIT_EVENT (R312). -/
  | unitEvent (u : Fin 8)
  /-- PAIR_WIN_EXPIRY (R315). -/
  | pairWinExpiry (u : Fin 8)
  /-- SCRUB (R344). -/
  | scrub (addr : Nat) (err : BitVec 137)
  /-- REPAIR (R334). -/
  | repair (r : Req) (ch : Fin 2) (lane : BitVec 8)
  /-- CHANNEL_SECOND (R334). -/
  | channelSecond (ch : Fin 2) (counts : List Nat) (uncorr : Nat)
  /-- REPAIR_PASS_END (R335). -/
  | repairPassEnd (ch : Fin 2)
  /-- DRAM_REFRESH (R333). -/
  | dramRefresh (ch : Fin 2)
  /-- TIMING_TRACKING (R332). -/
  | timingTracking (ch : Fin 2)
  /-- ZQ_CALIBRATION (R332). -/
  | zqCalibration (ch : Fin 2)
  /-- PEER_RESET_CLEAR (R342). -/
  | peerResetClear (x : Fin 9)
  /-- AN_TIMEOUT (R345). -/
  | anTimeout (p : Fin 4)
  /-- RATE_TRY_TIMEOUT (R345). -/
  | rateTryTimeout (p : Fin 4)
  /-- LINK_UP (R345). -/
  | linkUp (p : Fin 4)
  /-- LINK_DOWN (R346). -/
  | linkDown (p : Fin 4)
  /-- PRP_SUPERVISION (R347). -/
  | prpSupervision (k : Fin 2)
  /-- PRP_PATH_TIMEOUT (R348). -/
  | prpPathTimeout (p : Fin 4)
  /-- ARP_REQUEST (R349). -/
  | arpRequest (p : Fin 4) (target : BitVec 32) (sender : List Byte)
  /-- NEIGHBOR_SOLICITATION (R349). -/
  | neighborSolicitation (p : Fin 4) (target : BitVec 128) (sender : List Byte)
  /-- ICMP_ECHO (R349). -/
  | icmpEcho (p : Fin 4) (payload : List Byte)
  /-- PTP_ANNOUNCE (R351). -/
  | ptpAnnounce (p : Fin 4) (m : PtpMaster)
  /-- PTP_SYNC (R352). -/
  | ptpSync (p : Fin 4) (m : PtpSyncMsg)
  /-- PATH_DELAY_MEASUREMENT (R352). -/
  | pathDelayMeasurement (p : Fin 4) (m : PathDelayMsg)
  /-- ANNOUNCE_RECEIPT_TIMEOUT (R352). -/
  | announceReceiptTimeout
  /-- SYNC_MISSED (R352). -/
  | syncMissed
  /-- SUBSCRIBE (R360). -/
  | subscribe (p : Fin 4) (src : Path) (m : Haggle) (dgram : List Byte)
  /-- STREAM_KEEPALIVE (R361). -/
  | streamKeepalive (src : Path) (s : Fin 256) (req : BitVec 32) (dgram : List Byte)
  /-- CREDIT (R364). -/
  | credit (src : Path) (s : Fin 256) (count : BitVec 16) (dgram : List Byte)
  /-- STREAM_CLOSE (R361). -/
  | streamClose (src : Path) (s : Fin 256) (dgram : List Byte)
  /-- LEASE_EXPIRY (R361). -/
  | leaseExpiry (s : Fin 256)
  /-- BALE_TIMEOUT (R357). -/
  | baleTimeout (s : Fin 256)
  /-- BALE_COMPRESSED (R375). -/
  | baleCompressed
  /-- DATAGRAM_SEND (R362). -/
  | datagramSend (s : Fin 256)
  /-- DECODE_START (R380). -/
  | decodeStart
  /-- DECODE_END (R378). -/
  | decodeEnd (lane : Fin 8)
  /-- OPEN (R398). -/
  | openSession (r : Req) (slot level : BitVec 8) (nonceC nonceD : List Byte) (id : BitVec 32)
  /-- AUTH (R398). -/
  | auth (r : Req) (proof : List Byte)
  /-- CLOSE (R400). -/
  | closeSession (r : Req)
  /-- KEEPALIVE (R400). -/
  | keepalive (r : Req)
  /-- READ (R392). -/
  | readObj (r : Req) (index : BitVec 16) (sub : BitVec 8) (staged : Bool)
  /-- WRITE (R386). -/
  | writeObj (r : Req) (index : BitVec 16) (sub : BitVec 8) (ty : BitVec 8) (value : List Byte)
  /-- SEG_BEGIN (R395). -/
  | segBegin (r : Req) (index : BitVec 16) (sub : BitVec 8) (bale : Bool) (total : BitVec 32)
  /-- SEG_DATA (R395). -/
  | segData (r : Req) (offset : BitVec 32) (bytes : List Byte)
  /-- SEG_END (R395). -/
  | segEnd (r : Req) (crc : BitVec 32)
  /-- SEG_READ (R397). -/
  | segRead (r : Req) (index : BitVec 16) (sub : BitVec 8) (offset : BitVec 32) (max : BitVec 16)
  /-- W1C_CLEAR (R383). -/
  | w1cClear (r : Req) (index : BitVec 16) (sub : BitVec 8) (value : BitVec 32)
  /-- APPLY (R387). -/
  | apply (r : Req) (index : BitVec 16)
  /-- KEY (R402). -/
  | key (r : Req) (k : Fin 16) (masked : List Byte)
  /-- KILL (R400). -/
  | kill (r : Req) (id : BitVec 32)
  /-- FROM (R415). -/
  | fromPos (r : Req) (v : BitVec 32)
  /-- ENTRIES (R415). -/
  | entries (r : Req)
  /-- SESSION_EXPIRY (R400). -/
  | sessionExpiry (ses : BitVec 32)
  /-- AUTH_TIMEOUT (R398). -/
  | authTimeout (ses : BitVec 32)
  /-- SEG_IDLE_TIMEOUT (R395). -/
  | segIdleTimeout (ses : BitVec 32)
  /-- RATE_LIMIT_END (R406). -/
  | rateLimitEnd (src : Source)
  /-- LEDGER_FORWARD (R403). -/
  | ledgerForward (path : Path) (target : BitVec 11) (msg : List Byte)
  /-- FORWARD_RESPONSE (R403). -/
  | forwardResponse (target : BitVec 11) (seq : BitVec 32) (msg : List Byte)
  /-- FORWARD_TIMEOUT (R403). -/
  | forwardTimeout (target : BitVec 11) (seq : BitVec 32)
  /-- CAN_LEDGER_FRAME (R412). -/
  | canLedgerFrame (id : BitVec 29) (classical : Bool) (data : List Byte)
  /-- CAN_SEGMENT_TIMEOUT (R412). -/
  | canSegmentTimeout (chan : Fin 16)
  /-- BUS_OFF (R409). -/
  | busOff
  /-- BUS_OFF_RECOVERY (R409). -/
  | busOffRecovery
  /-- SUMMARY_ENTRY (R539). -/
  | summaryEntry (key : SummaryKey)
  /-- TRAINING_TIMEOUT (R420). -/
  | trainingTimeout (k : Fin 4)
  /-- RETRAIN (R420). -/
  | retrain (k : Fin 4)
  /-- ALIGNMENT_MARKER (R419). -/
  | alignmentMarker (k : Fin 4) (lane phys : Fin 5) (logical : Option (Fin 4)) (map : List (Fin 5)) (failed : Option (Fin 5))
  /-- LANE_FAILURE (R421). -/
  | laneFailure (k : Fin 4) (lane : Fin 5)
  /-- HAGGLE_SEND (R422). -/
  | haggleSend (k : Fin 4)
  /-- HAGGLE (R423). -/
  | haggle (k : Fin 4) (h : LinkHaggle)
  /-- LINK_FRAME (R428). -/
  | linkFrame (k : Fin 4) (nak : Bool) (ack : BitVec 16) (credit : BitVec 32)
  /-- REPLAY_TIMEOUT (R428). -/
  | replayTimeout (k : Fin 4)
  /-- LINK_CRIER_SEND (R429). -/
  | linkCrierSend (k : Fin 4)
  /-- LINK_SILENT (R429). -/
  | linkSilent (k : Fin 4)
  /-- TOPO_SEND (R430). -/
  | topoSend
  /-- TOPO (R430). -/
  | topo (a : Arrival) (t : TopoFrame)
  /-- TOPO_AGE_OUT (R430). -/
  | topoAgeOut (dev : BitVec 11)
  /-- ROOT_SELECTION (R432). -/
  | rootSelection
  /-- CLUSTER_SOURCE_LOSS (R433). -/
  | clusterSourceLoss
  /-- TIMING_MARKER (R434). -/
  | timingMarker (k : Fin 4) (stamp : Stamp)
  /-- TIME (R434). -/
  | timeFrame (a : Arrival) (sent received : Stamp) (err : BitVec 32)
  /-- MIRROR_FRAME (R443). -/
  | mirrorFrame (a : Arrival) (n : Port) (deliv : BitVec 32) (index : Nat) (isLast : Bool) (payload : List Byte)
  /-- MIRRORED_COMMIT (R441). -/
  | mirroredCommit (a : Arrival) (m : MirrorCommit)
  /-- BALE_MARK (R445). -/
  | baleMark (a : Arrival) (m : BaleMarkMsg)
  /-- PEER_STREAM_BALE (R439). -/
  | peerStreamBale (a : Arrival) (stream : Fin 256) (dest : BitVec 128) (port : BitVec 16) (dgrams : List (List Byte))
  /-- TWIN_CRIER_SEND (R448). -/
  | twinCrierSend (path : TwinPath)
  /-- CRIER (R448). -/
  | crier (link : Option Arrival) (m : Option CrierMsg)
  /-- CRIER_TIMEOUT (R449). -/
  | crierTimeout (path : TwinPath)
  /-- CLAIM_FRAME (R450). -/
  | claimFrame (frame : BitVec 40)
  /-- CLAIM_STALE (R451). -/
  | claimStale
  /-- YIELD (R453). -/
  | yield (r : Req) (v : BitVec 8)
  /-- CONVERSION_END (R467). -/
  | conversionEnd (ch : Fin 8) (x : SfeSample) (second : Option SfeSample)
  /-- EXC_COMPLIANCE (R468). -/
  | excCompliance (ch : Fin 8) (stamp : Stamp)
  /-- TONE_CHECK (R469). -/
  | toneCheck (ch : Fin 8) (code : Nat)
  /-- SFE_CYCLE_END (R461). -/
  | sfeCycleEnd (slot8 : BitVec 32)
  /-- LOOP_CONTROL (R471). -/
  | loopControl (o : Fin 8) (meas : BitVec 16)
  /-- SRC_AGE_EXPIRY (R472). -/
  | srcAgeExpiry (o : Fin 8)
  /-- LOOP_OPEN (R473). -/
  | loopOpen (o : Fin 8)
  /-- LOOP_DEV (R473). -/
  | loopDev (o : Fin 8)
  /-- PLANT_MAIL (R474). -/
  | plantMail
  /-- SINK_POWER_AVERAGE (R477). -/
  | sinkPowerAverage (power : Nat)
  /-- SINK_PIN_SAMPLE (R478). -/
  | sinkPinSample (k : Fin 16) (mv vs : Nat)
  /-- SINK_TEST_PULSE (R479). -/
  | sinkTestPulse (k : Fin 16) (mv vs : Nat)
  /-- CLEAR_SHORT (R478). -/
  | clearShort (r : Req) (mask : BitVec 16)
  /-- CHAIN_IMAGE (R480). -/
  | chainImage (r : Req) (bits : List Byte)
  /-- CHAIN_REFRESH (R480). -/
  | chainRefresh
  /-- CHAIN_FRAME_END (R481). -/
  | chainFrameEnd (returned : List Byte)
  /-- CAL_START (R484). -/
  | calStart (r : Req) (k : Fin 20)
  /-- CAL_STOP (R485). -/
  | calStop (r : Req) (k : Fin 20)
  /-- CAL_COMPUTATION_END (R487). -/
  | calComputationEnd (k : Fin 20) (m : CalMeasure)
  /-- CAL_TIMEOUT (R485). -/
  | calTimeout (k : Fin 20)
  /-- CAL_AUTO_START (R493). -/
  | calAutoStart (k : Fin 20)
  /-- TDC_SHADOW_SWAP (R491). -/
  | tdcShadowSwap
  /-- JOURNAL_WRITE (R497). -/
  | journalWrite (j : Fin 18)
  /-- FLASH_OPERATION_END (R497). -/
  | flashOperationEnd (j : Fin 18) (ok : Bool)
  /-- EARLY_WARN (R518). -/
  | earlyWarn (rails : BitVec 32)
  /-- EARLY_WARN_CLEAR (R518). -/
  | earlyWarnClear
  /-- RAIL_OVERVOLTAGE (R518). -/
  | railOvervoltage (rails : BitVec 32)
  /-- PORST_N (R503). -/
  | porstN
  /-- SRST_N (R503). -/
  | srstN
  /-- SUPPLY_RESET (R504). -/
  | supplyReset
  /-- THERMAL_RESET (R504). -/
  | thermalReset
  /-- RESET (R504). -/
  | reset (r : Req) (v : BitVec 8)
  /-- ZEROIZE_PIN (R520). -/
  | zeroizePin
  /-- ZEROIZE (R520). -/
  | zeroize (r : Req) (v : BitVec 32)
  /-- ZEROIZE_ERASE_END (R520). -/
  | zeroizeEraseEnd
  /-- LOCKSTEP_MISMATCH (R505). -/
  | lockstepMismatch
  /-- WATCHDOG_EXPIRY (R505). -/
  | watchdogExpiry
  /-- CLERK_POISON_READ (R505). -/
  | clerkPoisonRead
  /-- CLERK_RESTART_END (R505). -/
  | clerkRestartEnd
  /-- LOADER_START (R507). -/
  | loaderStart
  /-- CLERKS_START (R507). -/
  | clerksStart
  /-- DRAM_TRAINING_END (R332). -/
  | dramTrainingEnd (ch : Fin 2) (capacity : Nat) (failed : List Nat)
  /-- DRAM_CLEAR_END (R507). -/
  | dramClearEnd
  /-- SCHEDULER_START (R508). -/
  | schedulerStart
  /-- FW_PROGRAMMING_END (R513). -/
  | fwProgrammingEnd
  /-- SWITCH_LIVE (R514). -/
  | switchLive (r : Req)
  /-- SWITCH_RESET (R514). -/
  | switchReset (r : Req)
  /-- CONFIRM (R515). -/
  | confirm (r : Req)
  /-- TRIAL_TIMEOUT (R515). -/
  | trialTimeout
  /-- TEMPERATURE_READ (R517). -/
  | temperatureRead (digital analogue flash : Int)
  /-- EXTEST (R522). -/
  | extest
  /-- IDCODE (R522). -/
  | idcode
  /-- SAMPLE_PRELOAD (R522). -/
  | samplePreload
  /-- CLAMP (R522). -/
  | clamp
  /-- BYPASS (R522). -/
  | bypass
  /-- EXTEST_EXIT (R504). -/
  | extestExit
  /-- CHAL (R524). -/
  | chal (nonce : List Byte)
  /-- RESP (R524). -/
  | resp (level : BitVec 8) (bytes : List Byte)
  /-- CHAL_LOCKOUT_END (R524). -/
  | chalLockoutEnd
  /-- TRST_N (R524). -/
  | trstN
  /-- DBG_LOCK (R524). -/
  | dbgLock (r : Req) (v : BitVec 8)
  /-- DBGREG (R525). -/
  | dbgreg (cmd target : BitVec 8) (arg : BitVec 40) (data : BitVec 128)
  /-- MEM_READ (R525). -/
  | memRead (addr : BitVec 40)
  /-- MEM_WRITE (R525). -/
  | memWrite (addr : BitVec 40) (value : BitVec 128)
  /-- HALT (R527). -/
  | halt (t : DbgTarget)
  /-- RESUME (R525). -/
  | resume (t : DbgTarget)
  /-- STEP (R527). -/
  | step (st : StallId)
  /-- BP_SET (R525). -/
  | bpSet (st : StallId) (slot : Fin 4) (pc : BitVec 13)
  /-- BP_CLEAR (R525). -/
  | bpClear (st : StallId) (slot : Fin 4)
  /-- WATCH_SET (R525). -/
  | watchSet (st : StallId) (slot : Fin 2) (addr : BitVec 18) (rd wr : Bool)
  /-- REG_READ (R525). -/
  | regRead (st : StallId) (file index : BitVec 8)
  /-- REG_WRITE (R525). -/
  | regWrite (st : StallId) (file index : BitVec 8) (value : BitVec 128)
  /-- STATUS (R525). -/
  | status (t : DbgTarget)
  /-- REF_EDGES_PRESENT (R286). -/
  | refEdgesPresent (ref : Fin 3)
  /-- AN_DONE (R345). -/
  | anDone (p : Fin 4) (rate : BitVec 8) (fec : BitVec 8)
  /-- BLOCK_LOCK (R420). -/
  | blockLock (k : Fin 4) (lane : Fin 5)
  /-- ALIGNMENT_MARKER_SEND (R421). -/
  | alignmentMarkerSend (k : Fin 4)
  /-- FORWARDED_FRAME (R438). -/
  | forwardedFrame (k : Fin 4) (frame : List Byte) (ce : Nat) (poisoned : List Nat)
  /-- FORWARDED_FRAME_TIMEOUT (R438). -/
  | forwardedFrameTimeout (src : BitVec 11) (msg : BitVec 32)
  /-- BAD_FRAME (R428). -/
  | badFrame (k : Fin 4)
  /-- MALFORMED_MESSAGE (R393). -/
  | malformedMessage (path : Path) (bytes : List Byte)
  /-- STREAM_VIOLATION (R353). -/
  | streamViolation (src : Path) (bytes : List Byte)
  /-- BELL_TYPE_VIOLATION (R277). -/
  | bellTypeViolation (a : Arrival) (hops : BitVec 8) (m : BellMsg)
  /-- SNAPSHOT_EXPIRY (R397). -/
  | snapshotExpiry (ses : BitVec 32)
  /-- PRP_DUPLICATE (R347). -/
  | prpDuplicate (p : Fin 4) (f : PrpTrailer)
  /-- IP_FRAGMENT (R349). -/
  | ipFragment (k : Fin 2)
  /-- ILLEGAL_OPCODE (R250). -/
  | illegalOpcode (st : StallId)
  /-- QUEUE_PEAK (R149). -/
  | queuePeak (r : Req) (n : Port)
  /-- COMP_LAT_MAX (R381). -/
  | compLatMax (r : Req)
  /-- T_MAX (R528). -/
  | tMax (r : Req)
deriving DecidableEq, Repr

end Sys2Proof
end

