-- ==== Sys2Proof/Decode.lean ====
section
/-! DEFINITION. The commands that a word of the table's bits spells: none, since the table gives no row any bits. -/

namespace Sys2Proof

/-- No row of spec/opcode_table.json has bits: the block takes commands, not words. -/
def decodeTableWord (_nbits _w : Nat) : Option Instr := none

end Sys2Proof
end

