-- ==== Sys2Proof/Config.lean ====
section
/-! DEFINITION. The free values of the model: results the spec gives no value or no rounding for.
Each is a constant with no body, so nothing can be proved about what it holds (the log entries named below). -/

namespace Sys2Proof.Config

/-- The errors a CAN port sees on its bus about a frame, by draw number: the bus is no part of the model (R409; log entry 66). -/
opaque busErrors : Nat → Nat

/-- Which way a quotient whose rounding the spec does not state is rounded (log entry 2):
true rounds up. -/
opaque roundUp : Int → Int → Bool

/-- The value a counter takes after its largest value, where the spec does not say (log entry 3),
by the key of the counter. -/
opaque rollover : Nat → Nat

/-- The fractional bits the device carries of a value that is no whole number, where the spec states no width (log entry 4). -/
opaque fracBits : Nat

/-- The argument of the complex value 0 in LSB of 2π/2²⁰, which the spec does not state (log entry 5). -/
opaque zeroArg : BitVec 20

/-- The coefficients of stage 1's low-pass filter, from its centre outward (R109: bounds only, which Machine/Signal.lean holds them to; log
entry 86). -/
opaque lowPass : List Rat

/-- The coefficients of the inverse-sinc equaliser, from its centre outward, by SILICON (R88: bounds only, which Machine/Signal.lean holds them
to; log entry 86). -/
opaque sincTaps : Nat → List Rat

/-- The hop of the overlap-save blocks and the place of their valid samples, by FFT size and filter length (R110; log entry 86). -/
opaque hop : Nat → Nat → Nat
opaque lead : Nat → Nat → Nat

/-- The level of FDA outside a word, which the spec does not state (R92; log entry 89). -/
opaque fdaIdle : Bool

/-- CREST of a tone set whose waveform is 0 throughout, which the spec does not state (log entry 86). -/
opaque noCrest : Nat

/-- The draws of the stochastic rounding of R123, by draw number (log entry 6). -/
opaque random : Nat → Nat

/-- An IEEE 754 binary32 value nearest to a number, where the spec states no rounding (log entry 4). -/
opaque toF32 : Rat → BitVec 32

/-- The number the device takes for a binary32 infinity or NaN written to an object (log entry 4). -/
opaque notANumber : Nat → Rat

/-- The field a value takes that falls outside its number format, where the spec states no result (log entry 4). -/
opaque beyond : Int → Nat

/-- The baselines and deviation of an averaging set that has no valid baseline yet (R154; log entry 13). -/
opaque noBaseline : Int × Int × Nat × Nat

/-- The frequency the device tracks for a source and the correction it applies to remove an offset;
the spec bounds the correction and states no further law (log entry 7). -/
opaque trackedFreq : Nat → Int
opaque slewRate : Int → Int

/-- The step of the 32-bit fractional accumulator for a correction in parts in 10¹² (log entry 7). -/
opaque accStep : Int → BitVec 32

/-- The blocks the compressor cuts an original into at a level: the bytes of each, and its fixed-Huffman and dynamic-Huffman bits behind BFINAL
and the type (R373); the match search is not stated (log entry 8). -/
opaque deflate : Nat → List Byte → List (Nat × List Bool × List Bool)

/-- The fused keys of the device: Floteric signing keys 0 to 3 and the Floteric debug key
(R511, R524) (log entry 9). -/
opaque signingKey : Nat → List Byte
opaque debugKey : List Byte

/-- The commissioning key of slot 0 (R519) (log entry 9). -/
opaque commissioningKey : List Byte

/-- The temperature the device finds for a curve, its coefficients and a resistance, in °C for curves 1 to 11 and in K for 12 and 13; the
spec fixes it to within 0.1 mK (R466; log entry 10). -/
opaque curve : Nat → List Nat → Nat → Rat

/-- The check resistor's value before its first calibration, in 1/65,536 ohm (R462; log entry 105). -/
opaque checkResistor : Nat

/-- A value the spec leaves undefined after an operation that goes on, by draw number
(destination words of a STALE transfer, R188) (log entry 11). -/
opaque undefinedByte : Nat → Byte

/-- A count of a stall's core cycles, by draw number: the model keeps no core clock (log entry 14). -/
opaque cycles : Nat → Nat

/-- Where the device places an allocation in DRAM (R337: granules need not be contiguous):
the byte address of an owner's area (log entry 12). -/
opaque place : Nat → Nat

/-- A branch's noise power at a VGA step never yet measured, from the recorded floor's density (R124); the bandwidth
it is taken over is not stated (log entry 5). -/
opaque noiseFloor : Nat → Nat → Rat

/-- The bandwidth in MHz that a recorded noise density is taken over, the density before the first record, and how SKEW follows from the codes
in force and the differences of the correlations (R487, R488; log entry 106). -/
opaque noiseBand : Rat
opaque defaultNoise : Nat
opaque skewFrom : List Int → List Rat → List Int
opaque stepTrim : VgaTrim → List (List Int) → List (List Int) → VgaTrim
opaque stepError : VgaTrim → List (List Int) → List (List Int) → Int × Bool
opaque worstSpur : Nat → List (List Int) → Int

/-- What the branch status reads for a mean SNR of 0, whose logarithm the spec does not state (log entry 5). -/
opaque noSnr : BitVec 16

/-- The launch stamp of a delivery that neither the awning nor the port's ring holds any more (R268, R270), by DELIV (log entry 15). -/
opaque lostStamp : Nat → Nat

/-- A quantity the device measures for itself and no command carries (the floor frequency of R299, the gap of R297, a BOOT_TIME), by draw
number (log entry 16). -/
opaque measured : Nat → Nat

/-- The bytes the overrange marks of an averaging set take, by record samples (R158; log entry 12). -/
opaque markBytes : Nat → Nat

/-- FIBRE_END of a port none of whose cells exceeds END_THRESH (R140), by draw number (log entry 39). -/
opaque noFibreEnd : Nat → Nat

/-- BRL_FIT's Lorentzian through the powers of some steps by their frequencies in kHz: its centre in kHz and its full width in 10 kHz; the
weights of the least squares are not stated (R177; log entry 94). -/
opaque lorentz : List (Int × Rat) → Nat × Nat

/-- How many bytes the stream engine reads in a cycle and of which stream, by draw number: the spec bounds its rate and orders no streams
(R365; log entry 98). -/
opaque engineReads : Nat → Nat
opaque engineTurn : Nat → Nat

/-- Whether the value of a point word in COMPLEX mode is signed, which the spec does not state (R274; log entry 119). -/
opaque complexSigned : Bool

/-- The syndromes of the 128 data bits of a codeword (R322: it lists none; Machine/Code.lean holds them to its words), and a word of a memory
with some of its 137 bits that turn over in a root cycle, by epoch count and draw number (log entry 120). -/
opaque columns : List (BitVec 8)
opaque upset : Nat → Nat → Option (Nat × BitVec 137)

/-- The four sums of a 16-byte word of an accumulation buffer as it holds them, and back (R158; log entry 121). -/
opaque sumBits : List Int → BitVec 128
opaque bitSums : BitVec 128 → List Int

/-- What BRL_FIT takes a step's power for to which no shot was added (log entry 94). -/
opaque noShots : Nat → Rat

/-- BRL_FIT's quality over a floor of 0 or of no steps (log entry 94). -/
opaque zeroFloor : BitVec 8

/-- The payload bytes of a frame body whose layout the spec does not give, by KIND and what the body holds, and the frames of buffer a receiver
of the device has for a virtual channel (R424, R427; log entry 70). -/
opaque layout : Nat → List Nat → List Byte
opaque linkBuffers : Nat → Nat

/-- What the spec leaves open of a library program's image in the flash die (R209, R495), by LIB_ID (log entry 26). -/
opaque library : Nat → List Byte

end Sys2Proof.Config
end

