-- ==== Sys2Proof/Machine/Code.lean ====
section
/-! DEFINITION. The 137/128 code (R322, R323): a codeword's check bits, what a word read is found to be, and the poison marker. -/

namespace Sys2Proof.Machine

/-- How many bits of a word are set. -/
def weight {n : Nat} (v : BitVec n) : Nat := (List.range n).countP (fun i => v.getLsbD i)

/-- Whether some syndromes identify the 128 data bits beside the eight Hamming bits (R322): all different, and none that of a Hamming bit. -/
def columnsFit (l : List (BitVec 8)) : Bool := l.length == 128 && decide l.Nodup && l.all (fun v => decide (2 ≤ weight v))

/-- The syndromes of the data bits: the device's, which the spec does not list (log entry 120). -/
def columns : List (BitVec 8) :=
  if columnsFit Config.columns then Config.columns
  else (((List.range 256).map (BitVec.ofNat 8)).filter (fun v => decide (2 ≤ weight v))).take 128

/-- The syndrome of bit `i` of a codeword with 128 data bits below c[7:0]; c[8] has none. -/
def column (i : Nat) : BitVec 8 := if i < 128 then columns.getD i 0 else BitVec.ofNat 8 (2 ^ (i - 128))

/-- The syndrome of a word (R322). -/
def syndrome (w : BitVec 137) : BitVec 8 :=
  (List.range 136).foldl (fun x i => if w.getLsbD i then x ^^^ column i else x) 0

/-- Whether the parity over all 137 bits is odd. -/
def oddParity (w : BitVec 137) : Bool := weight w % 2 == 1

/-- A word with its check bits (R322): c[7:0] bring the syndrome to 0, c[8] the parity to even. -/
def encodeWord (d : BitVec 128) : BitVec 137 :=
  let h := d.setWidth 137 ||| ((syndrome (d.setWidth 137)).setWidth 137 <<< 128)
  h ||| (if oddParity h then 1#137 <<< 136 else 0)

/-- Check bits XOR 003h: the poison marker (R323). -/
def poisonMark : BitVec 137 := 3#137 <<< 128

/-- What a word read is found to be (R322, R323): whole, corrected in one bit, or uncorrectable with a syndrome. -/
inductive Found where
  | clean (d : BitVec 128)
  | single (d : BitVec 128)
  | bad (syndrome : BitVec 9)
deriving DecidableEq, Repr

/-- The decoder (R322, R323): odd parity is one bit in error, which the syndrome names; else a syndrome other than 0 is uncorrectable. The
ninth bit of a syndrome is the parity. -/
def decodeWord (w : BitVec 137) : Found :=
  let y := syndrome w
  if !oddParity w then (if y = 0 then .clean (w.setWidth 128) else .bad (y.setWidth 9))
  else if y = 0 then .single (w.setWidth 128)
  else match (List.range 136).find? (fun i => column i == y) with
    | some i => .single ((w ^^^ (1#137 <<< i)).setWidth 128)
    | none => .bad (y.setWidth 9 ||| 0x100#9)

/-- The codeword stored for some data, poisoned or not, with the bits in error. -/
def storedWord (d : BitVec 128) (poisoned : Bool) (e : BitVec 137) : BitVec 137 :=
  encodeWord d ^^^ (if poisoned then poisonMark else 0) ^^^ e

/-- What a read finds in a stored word; a word with no bit in error is what was written, poisoned words having the syndrome 003h (R323). -/
def readWord (d : BitVec 128) (poisoned : Bool) : Option (BitVec 137) → Found
  | none => if poisoned then .bad 3 else .clean d
  | some e => decodeWord (storedWord d poisoned e)

/-- The bits in error of the word at an address, by a list of them. -/
def flipAt (l : List (Nat × BitVec 137)) (a : Nat) : Option (BitVec 137) := (l.find? (fun e => e.1 == a)).map (·.2)

/-- More bits of a word are in error. -/
def addFlip (l : List (Nat × BitVec 137)) (a : Nat) (e : BitVec 137) : List (Nat × BitVec 137) :=
  let x := (flipAt l a).getD 0 ^^^ e
  (if x = 0 then [] else [(a, x)]) ++ l.filter (fun f => f.1 != a)

end Sys2Proof.Machine
end

