-- ==== Sys2Proof/Machine/Objects.lean ====
section
/-! DEFINITION. The Ledger's object registers: one register per row of the object tables of
spec/01 to spec/17 (key = index * 256 + subindex), the flag bits of the bit maps, and the rows
that say each object's type, access, level, default and range (R382, R383, R390). -/

namespace Sys2Proof

/-! 1000h IDENTITY (13_ledger.md). -/
def Obj.IDENTITY.PART : Reg := ⟨0x1000 * 256 + 0x01, 16, 0x8816⟩
def Obj.IDENTITY.SILICON : Reg := ⟨0x1000 * 256 + 0x02, 16, 0⟩
def Obj.IDENTITY.FIRMWARE : Reg := ⟨0x1000 * 256 + 0x03, 32, 0⟩
def Obj.IDENTITY.SERIAL : Nat := 0x1000 * 256 + 0x04
/-! 1100h ETH_PORT (11_streams_and_ethernet.md). -/
def Obj.ETH_PORT.RATE_MASK (p : Nat) : Reg := ⟨(0x1100 + p) * 256 + 0x01, 32, 7⟩
def Obj.ETH_PORT.AN_EN (p : Nat) : Reg := ⟨(0x1100 + p) * 256 + 0x02, 8, 1⟩
def Obj.ETH_PORT.FEC (p : Nat) : Reg := ⟨(0x1100 + p) * 256 + 0x03, 8, 0⟩
def Obj.ETH_PORT.RATE (p : Nat) : Reg := ⟨(0x1100 + p) * 256 + 0x04, 8, 0⟩
def Obj.ETH_PORT.FEC_USED (p : Nat) : Reg := ⟨(0x1100 + p) * 256 + 0x05, 8, 0⟩
def Obj.ETH_PORT.FLAGS (p : Nat) : Reg := ⟨(0x1100 + p) * 256 + 0x06, 32, 0⟩
def Obj.ETH_PORT.RX_FRAMES (p : Nat) : Reg := ⟨(0x1100 + p) * 256 + 0x07, 64, 0⟩
def Obj.ETH_PORT.TX_FRAMES (p : Nat) : Reg := ⟨(0x1100 + p) * 256 + 0x08, 64, 0⟩
def Obj.ETH_PORT.LINK_DOWNS (p : Nat) : Reg := ⟨(0x1100 + p) * 256 + 0x09, 32, 0⟩
def Obj.ETH_PORT.RX_ERRORS (p : Nat) : Reg := ⟨(0x1100 + p) * 256 + 0x0A, 32, 0⟩
/-! 1110h INTERFACE (11_streams_and_ethernet.md). -/
def Obj.INTERFACE.PRP_MODE (k : Nat) : Reg := ⟨(0x1110 + k) * 256 + 0x01, 8, 1⟩
def Obj.INTERFACE.MAC (k : Nat) : Reg := ⟨(0x1110 + k) * 256 + 0x02, 64, 0⟩
def Obj.INTERFACE.MTU (k : Nat) : Reg := ⟨(0x1110 + k) * 256 + 0x03, 16, 0x5DC⟩
def Obj.INTERFACE.IPV4_A (k : Nat) : Reg := ⟨(0x1110 + k) * 256 + 0x04, 32, 0⟩
def Obj.INTERFACE.IPV4_B (k : Nat) : Reg := ⟨(0x1110 + k) * 256 + 0x05, 32, 0⟩
def Obj.INTERFACE.IPV4_PREFIX (k : Nat) : Reg := ⟨(0x1110 + k) * 256 + 0x06, 8, 0x18⟩
def Obj.INTERFACE.IPV4_GW (k : Nat) : Reg := ⟨(0x1110 + k) * 256 + 0x07, 32, 0⟩
def Obj.INTERFACE.IPV6_A (k : Nat) : Nat := (0x1110 + k) * 256 + 0x08
def Obj.INTERFACE.IPV6_B (k : Nat) : Nat := (0x1110 + k) * 256 + 0x09
def Obj.INTERFACE.IPV6_PREFIX (k : Nat) : Reg := ⟨(0x1110 + k) * 256 + 0x0A, 8, 0x40⟩
def Obj.INTERFACE.TOLL_CAP (k : Nat) : Reg := ⟨(0x1110 + k) * 256 + 0x0B, 8, 0x5F⟩
def Obj.INTERFACE.TOLL_SUM (k : Nat) : Reg := ⟨(0x1110 + k) * 256 + 0x0C, 32, 0⟩
def Obj.INTERFACE.PRP_FLAGS (k : Nat) : Reg := ⟨(0x1110 + k) * 256 + 0x0D, 32, 0⟩
def Obj.INTERFACE.PRP_DUP (k : Nat) : Reg := ⟨(0x1110 + k) * 256 + 0x0E, 32, 0⟩
def Obj.INTERFACE.DISCARDS (k : Nat) : Reg := ⟨(0x1110 + k) * 256 + 0x0F, 32, 0⟩
/-! 1120h PTP (11_streams_and_ethernet.md). -/
def Obj.PTP.DOMAIN : Reg := ⟨0x1120 * 256 + 0x01, 8, 0⟩
def Obj.PTP.TRANSPORT : Reg := ⟨0x1120 * 256 + 0x02, 8, 1⟩
def Obj.PTP.DELAY_MECH : Reg := ⟨0x1120 * 256 + 0x03, 8, 0⟩
def Obj.PTP.ASYMMETRY : Reg := ⟨0x1120 * 256 + 0x04, 32, 0⟩
def Obj.PTP.PTP_STATE : Reg := ⟨0x1120 * 256 + 0x05, 8, 0⟩
def Obj.PTP.PTP_PORT : Reg := ⟨0x1120 * 256 + 0x06, 8, 0xFF⟩
def Obj.PTP.MEAN_PATH_DELAY : Reg := ⟨0x1120 * 256 + 0x07, 64, 0⟩
def Obj.PTP.MASTER_ID : Nat := 0x1120 * 256 + 0x08
def Obj.PTP.SYNC_MISSED : Reg := ⟨0x1120 * 256 + 0x09, 32, 0⟩
def Obj.PTP.LOSSES : Reg := ⟨0x1120 * 256 + 0x0A, 32, 0⟩
/-! 1130h LEDGER_UDP (13_ledger.md). -/
def Obj.LEDGER_UDP.UDP_EN : Reg := ⟨0x1130 * 256 + 0x01, 32, 3⟩
def Obj.LEDGER_UDP.TIMEOUT : Reg := ⟨0x1130 * 256 + 0x02, 16, 0x3C⟩
def Obj.LEDGER_UDP.ANON_OBSERVE : Reg := ⟨0x1130 * 256 + 0x03, 8, 1⟩
def Obj.LEDGER_UDP.MSGS : Reg := ⟨0x1130 * 256 + 0x04, 32, 0⟩
def Obj.LEDGER_UDP.VIOLATIONS : Reg := ⟨0x1130 * 256 + 0x05, 32, 0⟩
def Obj.LEDGER_UDP.RATE_LIMITED : Reg := ⟨0x1130 * 256 + 0x06, 32, 0⟩
def Obj.LEDGER_UDP.AUTH_FAIL : Reg := ⟨0x1130 * 256 + 0x07, 32, 0⟩
/-! 1140h CAN (13_ledger.md). -/
def Obj.CAN.CAN_EN : Reg := ⟨0x1140 * 256 + 0x01, 8, 0⟩
def Obj.CAN.DATA_RATE : Reg := ⟨0x1140 * 256 + 0x02, 8, 3⟩
def Obj.CAN.SP_ARB : Reg := ⟨0x1140 * 256 + 0x03, 8, 0x50⟩
def Obj.CAN.SP_DATA : Reg := ⟨0x1140 * 256 + 0x04, 8, 0x4B⟩
def Obj.CAN.CAN_BASE : Reg := ⟨0x1140 * 256 + 0x05, 8, 0x1C⟩
def Obj.CAN.LEDGER_EN : Reg := ⟨0x1140 * 256 + 0x06, 8, 1⟩
def Obj.CAN.RX_DELAY : Reg := ⟨0x1140 * 256 + 0x07, 16, 0⟩
def Obj.CAN.BUS_STATE : Reg := ⟨0x1140 * 256 + 0x08, 8, 0⟩
def Obj.CAN.TEC : Reg := ⟨0x1140 * 256 + 0x09, 8, 0⟩
def Obj.CAN.REC : Reg := ⟨0x1140 * 256 + 0x0A, 8, 0⟩
def Obj.CAN.BUS_OFFS : Reg := ⟨0x1140 * 256 + 0x0B, 32, 0⟩
def Obj.CAN.RX_FRAMES : Reg := ⟨0x1140 * 256 + 0x0C, 32, 0⟩
def Obj.CAN.TX_DROP : Reg := ⟨0x1140 * 256 + 0x0D, 32, 0⟩
def Obj.CAN.SEQ_ERR : Reg := ⟨0x1140 * 256 + 0x0E, 32, 0⟩
/-! 1200h KEY_SLOT (13_ledger.md). -/
def Obj.KEY_SLOT.KEY (k : Nat) : Nat := (0x1200 + k) * 256 + 0x01
def Obj.KEY_SLOT.LEVEL (k : Nat) : Reg := ⟨(0x1200 + k) * 256 + 0x02, 8, (if k = 0 then 3 else 0)⟩
def Obj.KEY_SLOT.ENABLE (k : Nat) : Reg := ⟨(0x1200 + k) * 256 + 0x03, 8, (if k = 0 then 1 else 0)⟩
def Obj.KEY_SLOT.USES (k : Nat) : Reg := ⟨(0x1200 + k) * 256 + 0x04, 32, 0⟩
/-! 1280h SESSIONS (13_ledger.md). -/
def Obj.SESSIONS.OPEN : Reg := ⟨0x1280 * 256 + 0x01, 8, 0⟩
def Obj.SESSIONS.OWN : Reg := ⟨0x1280 * 256 + 0x02, 32, 0⟩
def Obj.SESSIONS.KILL : Reg := ⟨0x1280 * 256 + 0x03, 32, 0⟩
/-! 1281h SESSION (13_ledger.md). -/
def Obj.SESSION.ID (i : Nat) : Reg := ⟨(0x1281 + i) * 256 + 0x01, 32, 0⟩
def Obj.SESSION.LEVEL (i : Nat) : Reg := ⟨(0x1281 + i) * 256 + 0x02, 8, 0⟩
def Obj.SESSION.PATH (i : Nat) : Reg := ⟨(0x1281 + i) * 256 + 0x03, 8, 0⟩
def Obj.SESSION.SLOT (i : Nat) : Reg := ⟨(0x1281 + i) * 256 + 0x04, 8, 0xFF⟩
def Obj.SESSION.IDLE (i : Nat) : Reg := ⟨(0x1281 + i) * 256 + 0x05, 32, 0⟩
def Obj.SESSION.VIOLATIONS (i : Nat) : Reg := ⟨(0x1281 + i) * 256 + 0x06, 32, 0⟩
/-! 2000h CLOCKS (08_clocks.md). -/
def Obj.CLOCKS.REF_ORDER : Reg := ⟨0x2000 * 256 + 0x01, 32, 0x21⟩
def Obj.CLOCKS.REF_KIND : Reg := ⟨0x2000 * 256 + 0x02, 8, 0⟩
def Obj.CLOCKS.AGGON_LINK : Reg := ⟨0x2000 * 256 + 0x03, 8, 0xFF⟩
def Obj.CLOCKS.QUAL_PPM : Reg := ⟨0x2000 * 256 + 0x04, 16, 0x64⟩
def Obj.CLOCKS.QUAL_TIME : Reg := ⟨0x2000 * 256 + 0x05, 16, 0x3E8⟩
def Obj.CLOCKS.OVEN_HOLD : Reg := ⟨0x2000 * 256 + 0x06, 16, 0xA⟩
def Obj.CLOCKS.XTAL_TRIM : Reg := ⟨0x2000 * 256 + 0x07, 32, 0⟩
def Obj.CLOCKS.AGE_LEARN : Reg := ⟨0x2000 * 256 + 0x08, 8, 1⟩
def Obj.CLOCKS.SERDES_REF : Reg := ⟨0x2000 * 256 + 0x09, 8, 0⟩
def Obj.CLOCKS.CLKMON_SRC : Reg := ⟨0x2000 * 256 + 0x0A, 8, 0⟩
def Obj.CLOCKS.CLKMON_DIV : Reg := ⟨0x2000 * 256 + 0x0B, 16, 1⟩
def Obj.CLOCKS.REF_IN_USE : Reg := ⟨0x2000 * 256 + 0x0C, 8, 0⟩
def Obj.CLOCKS.PLL_STATE : Reg := ⟨0x2000 * 256 + 0x0D, 8, 0⟩
def Obj.CLOCKS.FLAGS : Reg := ⟨0x2000 * 256 + 0x0E, 32, 0⟩
def Obj.CLOCKS.QUAL_OFFSET : Reg := ⟨0x2000 * 256 + 0x0F, 32, 0⟩
def Obj.CLOCKS.COASTS : Reg := ⟨0x2000 * 256 + 0x10, 32, 0⟩
def Obj.CLOCKS.COAST_LAST : Reg := ⟨0x2000 * 256 + 0x11, 32, 0⟩
def Obj.CLOCKS.SWITCHES : Reg := ⟨0x2000 * 256 + 0x12, 32, 0⟩
def Obj.CLOCKS.UNCLEAN : Reg := ⟨0x2000 * 256 + 0x13, 32, 0⟩
def Obj.CLOCKS.AGE_RATE : Reg := ⟨0x2000 * 256 + 0x14, 32, 0⟩
def Obj.CLOCKS.VCO_FLOOR : Reg := ⟨0x2000 * 256 + 0x15, 32, 0⟩
/-! 2100h EPOCH (01_epoch_and_shots.md). -/
def Obj.EPOCH.NOW : Reg := ⟨0x2100 * 256 + 0x01, 72, 0⟩
def Obj.EPOCH.SOURCE : Reg := ⟨0x2100 * 256 + 0x02, 8, 0⟩
def Obj.EPOCH.ORIGIN : Reg := ⟨0x2100 * 256 + 0x03, 8, 0⟩
def Obj.EPOCH.FLAGS : Reg := ⟨0x2100 * 256 + 0x04, 32, 0⟩
def Obj.EPOCH.OFFSET : Reg := ⟨0x2100 * 256 + 0x05, 64, 0⟩
def Obj.EPOCH.HOLDOVER_ERR : Reg := ⟨0x2100 * 256 + 0x06, 32, 0⟩
def Obj.EPOCH.STEPS : Reg := ⟨0x2100 * 256 + 0x07, 32, 0⟩
def Obj.EPOCH.FREQ_ADJ : Reg := ⟨0x2100 * 256 + 0x08, 32, 0⟩
def Obj.EPOCH.SEC_LABEL : Reg := ⟨0x2100 * 256 + 0x09, 64, 0⟩
/-! 2101h EPOCH_SOURCE (01_epoch_and_shots.md). -/
def Obj.EPOCH_SOURCE.SOURCE_ORDER : Reg := ⟨0x2101 * 256 + 0x01, 32, 0x213⟩
def Obj.EPOCH_SOURCE.STEP_THRESH : Reg := ⟨0x2101 * 256 + 0x02, 32, 0x3E8⟩
def Obj.EPOCH_SOURCE.SLEW_MAX : Reg := ⟨0x2101 * 256 + 0x03, 32, 0x2710⟩
def Obj.EPOCH_SOURCE.PTP_PORTMASK : Reg := ⟨0x2101 * 256 + 0x04, 32, 0xF⟩
def Obj.EPOCH_SOURCE.HOLD_ERR_MAX : Reg := ⟨0x2101 * 256 + 0x05, 32, 0x3E8⟩
def Obj.EPOCH_SOURCE.PPS_EDGE : Reg := ⟨0x2101 * 256 + 0x06, 8, 0⟩
def Obj.EPOCH_SOURCE.PPS_DELAY : Reg := ⟨0x2101 * 256 + 0x07, 32, 0⟩
/-! 2102h AXIS_CONFIG (01_epoch_and_shots.md). -/
def Obj.AXIS_CONFIG.MAINS_EDGE : Reg := ⟨0x2102 * 256 + 0x01, 8, 0⟩
def Obj.AXIS_CONFIG.MAINS_DELAY : Reg := ⟨0x2102 * 256 + 0x02, 32, 0⟩
def Obj.AXIS_CONFIG.MAINS_BW : Reg := ⟨0x2102 * 256 + 0x03, 8, 1⟩
def Obj.AXIS_CONFIG.ENC_FILTER : Reg := ⟨0x2102 * 256 + 0x04, 8, 0x10⟩
def Obj.AXIS_CONFIG.ENC_INDEX : Reg := ⟨0x2102 * 256 + 0x06, 8, 0⟩
def Obj.AXIS_CONFIG.ENC_PRESET : Reg := ⟨0x2102 * 256 + 0x07, 32, 0⟩
/-! 2103h AXIS_STATUS (01_epoch_and_shots.md). -/
def Obj.AXIS_STATUS.MAINS_POS : Reg := ⟨0x2103 * 256 + 0x01, 64, 0⟩
def Obj.AXIS_STATUS.MAINS_PERIOD : Reg := ⟨0x2103 * 256 + 0x02, 32, 0⟩
def Obj.AXIS_STATUS.MAINS_RESID : Reg := ⟨0x2103 * 256 + 0x03, 32, 0⟩
def Obj.AXIS_STATUS.MAINS_LOCK : Reg := ⟨0x2103 * 256 + 0x04, 8, 0⟩
def Obj.AXIS_STATUS.LINE_POS : Reg := ⟨0x2103 * 256 + 0x05, 32, 0⟩
def Obj.AXIS_STATUS.LINE_INDEX : Reg := ⟨0x2103 * 256 + 0x06, 32, 0⟩
def Obj.AXIS_STATUS.LINE_RATE : Reg := ⟨0x2103 * 256 + 0x07, 32, 0⟩
def Obj.AXIS_STATUS.ENC_ILLEGAL : Reg := ⟨0x2103 * 256 + 0x08, 32, 0⟩
def Obj.AXIS_STATUS.MAINS_REJECT : Reg := ⟨0x2103 * 256 + 0x09, 32, 0⟩
/-! 2200h TDC (09_time_interval_unit.md). -/
def Obj.TDC.TBASE : Reg := ⟨0x2200 * 256 + 0x01, 8, 0⟩
def Obj.TDC.FLAGS : Reg := ⟨0x2200 * 256 + 0x02, 32, 0⟩
def Obj.TDC.COARSE_STAMPS : Reg := ⟨0x2200 * 256 + 0x03, 32, 0⟩
/-! 2210h MEASURE (09_time_interval_unit.md). -/
def Obj.MEASURE.ENABLE (u : Nat) : Reg := ⟨(0x2210 + u) * 256 + 0x01, 8, 0⟩
def Obj.MEASURE.START (u : Nat) : Reg := ⟨(0x2210 + u) * 256 + 0x02, 8, 8⟩
def Obj.MEASURE.STOP (u : Nat) : Reg := ⟨(0x2210 + u) * 256 + 0x03, 8, 0⟩
def Obj.MEASURE.MODE (u : Nat) : Reg := ⟨(0x2210 + u) * 256 + 0x04, 8, 0⟩
def Obj.MEASURE.PAIR_WIN (u : Nat) : Reg := ⟨(0x2210 + u) * 256 + 0x05, 32, 0xC80⟩
def Obj.MEASURE.STOPS_MAX (u : Nat) : Reg := ⟨(0x2210 + u) * 256 + 0x06, 8, 1⟩
def Obj.MEASURE.N (u : Nat) : Reg := ⟨(0x2210 + u) * 256 + 0x07, 32, 0x40⟩
def Obj.MEASURE.SCALE (u : Nat) : Reg := ⟨(0x2210 + u) * 256 + 0x08, 8, 0⟩
def Obj.MEASURE.LAST (u : Nat) : Reg := ⟨(0x2210 + u) * 256 + 0x09, 64, 0⟩
def Obj.MEASURE.MEAN (u : Nat) : Reg := ⟨(0x2210 + u) * 256 + 0x0A, 64, 0⟩
def Obj.MEASURE.STDEV (u : Nat) : Reg := ⟨(0x2210 + u) * 256 + 0x0B, 32, 0⟩
def Obj.MEASURE.MIN (u : Nat) : Reg := ⟨(0x2210 + u) * 256 + 0x0C, 64, 0⟩
def Obj.MEASURE.MAX (u : Nat) : Reg := ⟨(0x2210 + u) * 256 + 0x0D, 64, 0⟩
def Obj.MEASURE.BLOCKS (u : Nat) : Reg := ⟨(0x2210 + u) * 256 + 0x0E, 32, 0⟩
def Obj.MEASURE.MFLAGS (u : Nat) : Reg := ⟨(0x2210 + u) * 256 + 0x0F, 32, 0⟩
def Obj.MEASURE.PAIRED (u : Nat) : Reg := ⟨(0x2210 + u) * 256 + 0x10, 32, 0⟩
def Obj.MEASURE.UNPAIRED (u : Nat) : Reg := ⟨(0x2210 + u) * 256 + 0x11, 32, 0⟩
def Obj.MEASURE.START_LOST (u : Nat) : Reg := ⟨(0x2210 + u) * 256 + 0x12, 32, 0⟩
def Obj.MEASURE.TIMEOUTS (u : Nat) : Reg := ⟨(0x2210 + u) * 256 + 0x13, 32, 0⟩
def Obj.MEASURE.PROGRESS (u : Nat) : Reg := ⟨(0x2210 + u) * 256 + 0x14, 32, 0⟩
def Obj.MEASURE.BFLAGS (u : Nat) : Reg := ⟨(0x2210 + u) * 256 + 0x15, 32, 0⟩
/-! 2220h CHANNEL (09_time_interval_unit.md). -/
def Obj.CHANNEL.LAST (c : Nat) : Reg := ⟨(0x2220 + c) * 256 + 0x01, 72, 0⟩
def Obj.CHANNEL.EVENTS (c : Nat) : Reg := ⟨(0x2220 + c) * 256 + 0x02, 32, 0⟩
def Obj.CHANNEL.DEAD_MISS (c : Nat) : Reg := ⟨(0x2220 + c) * 256 + 0x03, 32, 0⟩
/-! 3000h RECEIVE (02_fibre_ports.md). -/
def Obj.RECEIVE.INPUT_EN (n : Nat) : Reg := ⟨(0x3000 + 0x100 * n) * 256 + 0x01, 32, 3⟩
def Obj.RECEIVE.AGC_HI (n : Nat) : Reg := ⟨(0x3000 + 0x100 * n) * 256 + 0x02, 16, 0x726⟩
def Obj.RECEIVE.AGC_INIT (n : Nat) : Reg := ⟨(0x3000 + 0x100 * n) * 256 + 0x03, 8, 4⟩
def Obj.RECEIVE.AGC_MIN (n : Nat) : Reg := ⟨(0x3000 + 0x100 * n) * 256 + 0x04, 8, 0⟩
def Obj.RECEIVE.AGC_MAX (n : Nat) : Reg := ⟨(0x3000 + 0x100 * n) * 256 + 0x05, 8, 7⟩
def Obj.RECEIVE.AGC_SKIP (n : Nat) : Reg := ⟨(0x3000 + 0x100 * n) * 256 + 0x06, 32, 0⟩
/-! 3001h PORT_STATUS (02_fibre_ports.md). -/
def Obj.PORT_STATUS.FLAGS (n : Nat) : Reg := ⟨(0x3001 + 0x100 * n) * 256 + 0x01, 32, 0⟩
def Obj.PORT_STATUS.STEP (n : Nat) : Reg := ⟨(0x3001 + 0x100 * n) * 256 + 0x02, 8, 0⟩
def Obj.PORT_STATUS.PEAK_X (n : Nat) : Reg := ⟨(0x3001 + 0x100 * n) * 256 + 0x03, 16, 0⟩
def Obj.PORT_STATUS.PEAK_Y (n : Nat) : Reg := ⟨(0x3001 + 0x100 * n) * 256 + 0x04, 16, 0⟩
def Obj.PORT_STATUS.OVR_X (n : Nat) : Reg := ⟨(0x3001 + 0x100 * n) * 256 + 0x05, 32, 0⟩
def Obj.PORT_STATUS.OVR_Y (n : Nat) : Reg := ⟨(0x3001 + 0x100 * n) * 256 + 0x06, 32, 0⟩
def Obj.PORT_STATUS.GAIN_CHANGES (n : Nat) : Reg := ⟨(0x3001 + 0x100 * n) * 256 + 0x07, 32, 0⟩
def Obj.PORT_STATUS.CM_X (n : Nat) : Reg := ⟨(0x3001 + 0x100 * n) * 256 + 0x08, 16, 0⟩
def Obj.PORT_STATUS.CM_Y (n : Nat) : Reg := ⟨(0x3001 + 0x100 * n) * 256 + 0x09, 16, 0⟩
def Obj.PORT_STATUS.STUCK_LANES (n : Nat) : Reg := ⟨(0x3001 + 0x100 * n) * 256 + 0x0A, 16, 0⟩
def Obj.PORT_STATUS.MON_LAT (n : Nat) : Reg := ⟨(0x3001 + 0x100 * n) * 256 + 0x0B, 32, 0⟩
def Obj.PORT_STATUS.CLIPS (n : Nat) : Reg := ⟨(0x3001 + 0x100 * n) * 256 + 0x0C, 32, 0⟩
/-! 3002h LAUNCH (02_fibre_ports.md). -/
def Obj.LAUNCH.INV_SINC (n : Nat) : Reg := ⟨(0x3002 + 0x100 * n) * 256 + 0x01, 8, 1⟩
def Obj.LAUNCH.MON_THRESH (n : Nat) : Reg := ⟨(0x3002 + 0x100 * n) * 256 + 0x02, 16, 0x64⟩
def Obj.LAUNCH.MON_HYST (n : Nat) : Reg := ⟨(0x3002 + 0x100 * n) * 256 + 0x03, 8, 0xA⟩
def Obj.LAUNCH.MON_EDGE (n : Nat) : Reg := ⟨(0x3002 + 0x100 * n) * 256 + 0x04, 8, 0⟩
def Obj.LAUNCH.MON_DELAY (n : Nat) : Reg := ⟨(0x3002 + 0x100 * n) * 256 + 0x05, 32, 0⟩
def Obj.LAUNCH.TX_CHECK (n : Nat) : Reg := ⟨(0x3002 + 0x100 * n) * 256 + 0x06, 8, 1⟩
/-! 3003h FCTL (02_fibre_ports.md). -/
def Obj.FCTL.FCK_DIV (n : Nat) : Reg := ⟨(0x3003 + 0x100 * n) * 256 + 0x01, 8, 2⟩
def Obj.FCTL.WORD_BITS (n : Nat) : Reg := ⟨(0x3003 + 0x100 * n) * 256 + 0x02, 8, 0x20⟩
def Obj.FCTL.MODE (n : Nat) : Reg := ⟨(0x3003 + 0x100 * n) * 256 + 0x03, 8, 0⟩
def Obj.FCTL.FCK_POL (n : Nat) : Reg := ⟨(0x3003 + 0x100 * n) * 256 + 0x04, 8, 0⟩
def Obj.FCTL.SEND (n : Nat) : Reg := ⟨(0x3003 + 0x100 * n) * 256 + 0x05, 32, 0⟩
def Obj.FCTL.QUEUED (n : Nat) : Reg := ⟨(0x3003 + 0x100 * n) * 256 + 0x06, 8, 0⟩
def Obj.FCTL.SENT (n : Nat) : Reg := ⟨(0x3003 + 0x100 * n) * 256 + 0x07, 32, 0⟩
def Obj.FCTL.LATE (n : Nat) : Reg := ⟨(0x3003 + 0x100 * n) * 256 + 0x08, 32, 0⟩
def Obj.FCTL.LATE_MAX (n : Nat) : Reg := ⟨(0x3003 + 0x100 * n) * 256 + 0x09, 32, 0⟩
/-! 3010h TONE_SET (02_fibre_ports.md). -/
def Obj.TONE_SET.TONE_MASK (n s : Nat) : Reg := ⟨((0x3010 + 0x100 * n) + s) * 256 + 0x01, 32, 1⟩
def Obj.TONE_SET.CREST_MODE (n s : Nat) : Reg := ⟨((0x3010 + 0x100 * n) + s) * 256 + 0x02, 8, 0⟩
def Obj.TONE_SET.LEVEL (n s : Nat) : Reg := ⟨((0x3010 + 0x100 * n) + s) * 256 + 0x03, 16, 0x1CCD⟩
def Obj.TONE_SET.SCALE (n s : Nat) : Reg := ⟨((0x3010 + 0x100 * n) + s) * 256 + 0x04, 16, 0⟩
def Obj.TONE_SET.CREST (n s : Nat) : Reg := ⟨((0x3010 + 0x100 * n) + s) * 256 + 0x05, 16, 0⟩
def Obj.TONE_SET.DURATION (n s : Nat) : Reg := ⟨((0x3010 + 0x100 * n) + s) * 256 + 0x06, 32, 320⟩
def Obj.TONE_SET.BW_SUM (n s : Nat) : Reg := ⟨((0x3010 + 0x100 * n) + s) * 256 + 0x07, 32, 20000⟩
def Obj.TONE_SET.PEAK_RAW (n s : Nat) : Reg := ⟨((0x3010 + 0x100 * n) + s) * 256 + 0x08, 16, 0⟩
/-! 3020h SCHEDULER (01_epoch_and_shots.md). -/
def Obj.SCHEDULER.ENABLE (n : Nat) : Reg := ⟨(0x3020 + 0x100 * n) * 256 + 0x01, 8, 0⟩
def Obj.SCHEDULER.AXIS (n : Nat) : Reg := ⟨(0x3020 + 0x100 * n) * 256 + 0x02, 8, 0⟩
def Obj.SCHEDULER.T_PERIOD (n : Nat) : Reg := ⟨(0x3020 + 0x100 * n) * 256 + 0x03, 32, 0x30D400⟩
def Obj.SCHEDULER.T_ORIGIN (n : Nat) : Reg := ⟨(0x3020 + 0x100 * n) * 256 + 0x04, 64, 0⟩
def Obj.SCHEDULER.M_PHASE (n : Nat) : Reg := ⟨(0x3020 + 0x100 * n) * 256 + 0x05, 16, 0⟩
def Obj.SCHEDULER.M_SLOTS (n : Nat) : Reg := ⟨(0x3020 + 0x100 * n) * 256 + 0x06, 16, 1⟩
def Obj.SCHEDULER.M_DIVIDE (n : Nat) : Reg := ⟨(0x3020 + 0x100 * n) * 256 + 0x07, 16, 1⟩
def Obj.SCHEDULER.L_SPACING (n : Nat) : Reg := ⟨(0x3020 + 0x100 * n) * 256 + 0x08, 32, 0x3E8⟩
def Obj.SCHEDULER.L_START (n : Nat) : Reg := ⟨(0x3020 + 0x100 * n) * 256 + 0x09, 32, 0⟩
def Obj.SCHEDULER.L_DIR (n : Nat) : Reg := ⟨(0x3020 + 0x100 * n) * 256 + 0x0A, 8, 2⟩
def Obj.SCHEDULER.L_DELAY (n : Nat) : Reg := ⟨(0x3020 + 0x100 * n) * 256 + 0x0B, 32, 0x3E80⟩
def Obj.SCHEDULER.TABLE_LEN (n : Nat) : Reg := ⟨(0x3020 + 0x100 * n) * 256 + 0x0C, 8, 1⟩
def Obj.SCHEDULER.MON_WINDOW (n : Nat) : Reg := ⟨(0x3020 + 0x100 * n) * 256 + 0x0D, 32, 0x640⟩
def Obj.SCHEDULER.SEQ (n : Nat) : Reg := ⟨(0x3020 + 0x100 * n) * 256 + 0x0E, 32, 0⟩
def Obj.SCHEDULER.LAUNCHED (n : Nat) : Reg := ⟨(0x3020 + 0x100 * n) * 256 + 0x0F, 32, 0⟩
def Obj.SCHEDULER.SHOT_CROWD (n : Nat) : Reg := ⟨(0x3020 + 0x100 * n) * 256 + 0x10, 32, 0⟩
def Obj.SCHEDULER.SHOT_LSI (n : Nat) : Reg := ⟨(0x3020 + 0x100 * n) * 256 + 0x11, 32, 0⟩
def Obj.SCHEDULER.SHOT_CLAIM (n : Nat) : Reg := ⟨(0x3020 + 0x100 * n) * 256 + 0x12, 32, 0⟩
def Obj.SCHEDULER.SHOT_AXIS (n : Nat) : Reg := ⟨(0x3020 + 0x100 * n) * 256 + 0x13, 32, 0⟩
def Obj.SCHEDULER.SHOT_COAST (n : Nat) : Reg := ⟨(0x3020 + 0x100 * n) * 256 + 0x14, 32, 0⟩
def Obj.SCHEDULER.SHOT_CAL (n : Nat) : Reg := ⟨(0x3020 + 0x100 * n) * 256 + 0x15, 32, 0⟩
def Obj.SCHEDULER.STAMP_MISS (n : Nat) : Reg := ⟨(0x3020 + 0x100 * n) * 256 + 0x16, 32, 0⟩
def Obj.SCHEDULER.LAUNCH_CUT (n : Nat) : Reg := ⟨(0x3020 + 0x100 * n) * 256 + 0x17, 32, 0⟩
/-! 3040h SHOT_ENTRY (01_epoch_and_shots.md). -/
def Obj.SHOT_ENTRY.KIND (n e : Nat) : Reg := ⟨((0x3040 + 0x100 * n) + e) * 256 + 0x01, 8, 0⟩
def Obj.SHOT_ENTRY.REPEAT (n e : Nat) : Reg := ⟨((0x3040 + 0x100 * n) + e) * 256 + 0x02, 16, 1⟩
def Obj.SHOT_ENTRY.OFFSET (n e : Nat) : Reg := ⟨((0x3040 + 0x100 * n) + e) * 256 + 0x03, 32, 0⟩
def Obj.SHOT_ENTRY.WIN_START (n e : Nat) : Reg := ⟨((0x3040 + 0x100 * n) + e) * 256 + 0x04, 32, 0⟩
def Obj.SHOT_ENTRY.WIN_LEN (n e : Nat) : Reg := ⟨((0x3040 + 0x100 * n) + e) * 256 + 0x05, 32, 0x27100⟩
def Obj.SHOT_ENTRY.TONE_SET (n e : Nat) : Reg := ⟨((0x3040 + 0x100 * n) + e) * 256 + 0x06, 8, 0⟩
def Obj.SHOT_ENTRY.GATE_LEAD (n e : Nat) : Reg := ⟨((0x3040 + 0x100 * n) + e) * 256 + 0x07, 16, 0x140⟩
def Obj.SHOT_ENTRY.GATE_TAIL (n e : Nat) : Reg := ⟨((0x3040 + 0x100 * n) + e) * 256 + 0x08, 16, 0⟩
def Obj.SHOT_ENTRY.SINK_MASK (n e : Nat) : Reg := ⟨((0x3040 + 0x100 * n) + e) * 256 + 0x09, 16, 0⟩
def Obj.SHOT_ENTRY.AUX (n e : Nat) : Reg := ⟨((0x3040 + 0x100 * n) + e) * 256 + 0x0A, 8, 0⟩
def Obj.SHOT_ENTRY.GAIN (n e : Nat) : Reg := ⟨((0x3040 + 0x100 * n) + e) * 256 + 0x0B, 8, 0xFF⟩
/-! 3080h TONE (02_fibre_ports.md). -/
def Obj.TONE.CENTRE (n st : Nat) : Reg := ⟨((0x3080 + 0x100 * n) + st) * 256 + 0x01, 32, 0x30D40⟩
def Obj.TONE.BANDWIDTH (n st : Nat) : Reg := ⟨((0x3080 + 0x100 * n) + st) * 256 + 0x02, 32, 0⟩
def Obj.TONE.DURATION (n st : Nat) : Reg := ⟨((0x3080 + 0x100 * n) + st) * 256 + 0x03, 32, 0x140⟩
def Obj.TONE.SWEEP (n st : Nat) : Reg := ⟨((0x3080 + 0x100 * n) + st) * 256 + 0x04, 8, 0⟩
def Obj.TONE.AMPLITUDE (n st : Nat) : Reg := ⟨((0x3080 + 0x100 * n) + st) * 256 + 0x05, 16, 0xFFFF⟩
def Obj.TONE.PHASE (n st : Nat) : Reg := ⟨((0x3080 + 0x100 * n) + st) * 256 + 0x06, 16, 0⟩
def Obj.TONE.PHASE_USED (n st : Nat) : Reg := ⟨((0x3080 + 0x100 * n) + st) * 256 + 0x07, 16, 0⟩
def Obj.TONE.TAPER (n st : Nat) : Reg := ⟨((0x3080 + 0x100 * n) + st) * 256 + 0x08, 16, 0⟩
/-! 3800h PIPELINE (03_front_pipeline.md). -/
def Obj.PIPELINE.DECIM (n : Nat) : Reg := ⟨(0x3800 + 0x100 * n) * 256 + 0x01, 8, 8⟩
def Obj.PIPELINE.GAUGE (n : Nat) : Reg := ⟨(0x3800 + 0x100 * n) * 256 + 0x02, 16, 0x10⟩
def Obj.PIPELINE.OUT_MODE (n : Nat) : Reg := ⟨(0x3800 + 0x100 * n) * 256 + 0x03, 8, 0⟩
def Obj.PIPELINE.DECIM_MODE (n : Nat) : Reg := ⟨(0x3800 + 0x100 * n) * 256 + 0x04, 8, 0⟩
def Obj.PIPELINE.WINDOW (n : Nat) : Reg := ⟨(0x3800 + 0x100 * n) * 256 + 0x05, 8, 1⟩
def Obj.PIPELINE.ZERO_DELAY (n : Nat) : Reg := ⟨(0x3800 + 0x100 * n) * 256 + 0x06, 32, 0⟩
def Obj.PIPELINE.DAS_SETS (n : Nat) : Reg := ⟨(0x3800 + 0x100 * n) * 256 + 0x07, 32, 1⟩
def Obj.PIPELINE.BRANCH_MASK (n : Nat) : Reg := ⟨(0x3800 + 0x100 * n) * 256 + 0x08, 32, 0xFFFF⟩
def Obj.PIPELINE.COMPLEX_SHIFT (n : Nat) : Reg := ⟨(0x3800 + 0x100 * n) * 256 + 0x09, 8, 3⟩
def Obj.PIPELINE.UNWRAP_ORDER (n : Nat) : Reg := ⟨(0x3800 + 0x100 * n) * 256 + 0x0A, 8, 0⟩
def Obj.PIPELINE.AMB_MARGIN (n : Nat) : Reg := ⟨(0x3800 + 0x100 * n) * 256 + 0x0B, 8, 0x10⟩
def Obj.PIPELINE.QMIN (n : Nat) : Reg := ⟨(0x3800 + 0x100 * n) * 256 + 0x0C, 8, 0x18⟩
def Obj.PIPELINE.PHASE_SIGN (n : Nat) : Reg := ⟨(0x3800 + 0x100 * n) * 256 + 0x0D, 8, 0⟩
/-! 3801h COMBINING (03_front_pipeline.md). -/
def Obj.COMBINING.ALIGN_SHIFT (n : Nat) : Reg := ⟨(0x3801 + 0x100 * n) * 256 + 0x01, 8, 4⟩
def Obj.COMBINING.BRANCH_MIN (n : Nat) : Reg := ⟨(0x3801 + 0x100 * n) * 256 + 0x02, 16, 0⟩
def Obj.COMBINING.NOISE_SRC (n : Nat) : Reg := ⟨(0x3801 + 0x100 * n) * 256 + 0x03, 8, 0⟩
def Obj.COMBINING.NOISE_MIN_PTS (n : Nat) : Reg := ⟨(0x3801 + 0x100 * n) * 256 + 0x04, 16, 0x100⟩
def Obj.COMBINING.QCAP_GAIN (n : Nat) : Reg := ⟨(0x3801 + 0x100 * n) * 256 + 0x05, 8, 0xC8⟩
def Obj.COMBINING.QCAP_AMBIG (n : Nat) : Reg := ⟨(0x3801 + 0x100 * n) * 256 + 0x06, 8, 0x28⟩
def Obj.COMBINING.QCAP_RELEARN (n : Nat) : Reg := ⟨(0x3801 + 0x100 * n) * 256 + 0x07, 8, 0x50⟩
def Obj.COMBINING.DARK_FRAC (n : Nat) : Reg := ⟨(0x3801 + 0x100 * n) * 256 + 0x08, 8, 0x80⟩
def Obj.COMBINING.RELEARN (n : Nat) : Reg := ⟨(0x3801 + 0x100 * n) * 256 + 0x09, 8, 0⟩
/-! 3802h TRACKING (03_front_pipeline.md). -/
def Obj.TRACKING.END_THRESH (n : Nat) : Reg := ⟨(0x3802 + 0x100 * n) * 256 + 0x01, 8, 0xC⟩
def Obj.TRACKING.END_GUARD (n : Nat) : Reg := ⟨(0x3802 + 0x100 * n) * 256 + 0x02, 32, 0x100⟩
def Obj.TRACKING.BREAK_MIN (n : Nat) : Reg := ⟨(0x3802 + 0x100 * n) * 256 + 0x03, 32, 0x280⟩
def Obj.TRACKING.BREAK_CONFIRM (n : Nat) : Reg := ⟨(0x3802 + 0x100 * n) * 256 + 0x04, 16, 0x10⟩
def Obj.TRACKING.REF_END (n : Nat) : Reg := ⟨(0x3802 + 0x100 * n) * 256 + 0x05, 32, 0⟩
def Obj.TRACKING.TRACK_EN (n : Nat) : Reg := ⟨(0x3802 + 0x100 * n) * 256 + 0x06, 8, 1⟩
/-! 3803h PIPE_STATUS (03_front_pipeline.md). -/
def Obj.PIPE_STATUS.FLAGS (n : Nat) : Reg := ⟨(0x3803 + 0x100 * n) * 256 + 0x01, 32, 0⟩
def Obj.PIPE_STATUS.FIBRE_END (n : Nat) : Reg := ⟨(0x3803 + 0x100 * n) * 256 + 0x02, 32, 0⟩
def Obj.PIPE_STATUS.REF_END_USED (n : Nat) : Reg := ⟨(0x3803 + 0x100 * n) * 256 + 0x03, 32, 0⟩
def Obj.PIPE_STATUS.BREAK_POINT (n : Nat) : Reg := ⟨(0x3803 + 0x100 * n) * 256 + 0x04, 32, 0⟩
def Obj.PIPE_STATUS.BUDGET (n : Nat) : Reg := ⟨(0x3803 + 0x100 * n) * 256 + 0x05, 32, 0⟩
def Obj.PIPE_STATUS.QUEUE_PEAK (n : Nat) : Reg := ⟨(0x3803 + 0x100 * n) * 256 + 0x06, 32, 0⟩
def Obj.PIPE_STATUS.OVERRUN_SHOTS (n : Nat) : Reg := ⟨(0x3803 + 0x100 * n) * 256 + 0x07, 32, 0⟩
def Obj.PIPE_STATUS.FADED_POINTS (n : Nat) : Reg := ⟨(0x3803 + 0x100 * n) * 256 + 0x08, 64, 0⟩
def Obj.PIPE_STATUS.DARK_SHOTS (n : Nat) : Reg := ⟨(0x3803 + 0x100 * n) * 256 + 0x09, 32, 0⟩
def Obj.PIPE_STATUS.AMBIG_POINTS (n : Nat) : Reg := ⟨(0x3803 + 0x100 * n) * 256 + 0x0A, 64, 0⟩
def Obj.PIPE_STATUS.STATE_LATE (n : Nat) : Reg := ⟨(0x3803 + 0x100 * n) * 256 + 0x0B, 32, 0⟩
def Obj.PIPE_STATUS.STATE_POISON (n : Nat) : Reg := ⟨(0x3803 + 0x100 * n) * 256 + 0x0C, 32, 0⟩
def Obj.PIPE_STATUS.RELEARNS (n : Nat) : Reg := ⟨(0x3803 + 0x100 * n) * 256 + 0x0D, 32, 0⟩
def Obj.PIPE_STATUS.SUSPECT_POINTS (n : Nat) : Reg := ⟨(0x3803 + 0x100 * n) * 256 + 0x0E, 64, 0⟩
def Obj.PIPE_STATUS.LATENCY (n : Nat) : Reg := ⟨(0x3803 + 0x100 * n) * 256 + 0x0F, 32, 0⟩
/-! 3810h TONE_PLAN (03_front_pipeline.md). -/
def Obj.TONE_PLAN.DAS_OK (n s : Nat) : Reg := ⟨((0x3810 + 0x100 * n) + s) * 256 + 0x01, 8, 0⟩
def Obj.TONE_PLAN.BRANCHES (n s : Nat) : Reg := ⟨((0x3810 + 0x100 * n) + s) * 256 + 0x02, 8, 0⟩
def Obj.TONE_PLAN.L_M (n s : Nat) : Reg := ⟨((0x3810 + 0x100 * n) + s) * 256 + 0x03, 16, 0⟩
def Obj.TONE_PLAN.N_FFT (n s : Nat) : Reg := ⟨((0x3810 + 0x100 * n) + s) * 256 + 0x04, 16, 0⟩
def Obj.TONE_PLAN.RES_MIN (n s : Nat) : Reg := ⟨((0x3810 + 0x100 * n) + s) * 256 + 0x05, 32, 0⟩
def Obj.TONE_PLAN.TBP_MAX (n s : Nat) : Reg := ⟨((0x3810 + 0x100 * n) + s) * 256 + 0x06, 16, 0⟩
def Obj.TONE_PLAN.LATENCY (n s : Nat) : Reg := ⟨((0x3810 + 0x100 * n) + s) * 256 + 0x07, 32, 0⟩
def Obj.TONE_PLAN.FAIL (n s : Nat) : Reg := ⟨((0x3810 + 0x100 * n) + s) * 256 + 0x08, 8, 0⟩
/-! 3820h BRANCH (03_front_pipeline.md). -/
def Obj.BRANCH.NOISE (n b : Nat) : Reg := ⟨((0x3820 + 0x100 * n) + b) * 256 + 0x01, 32, 0⟩
def Obj.BRANCH.SNR_MEAN (n b : Nat) : Reg := ⟨((0x3820 + 0x100 * n) + b) * 256 + 0x02, 16, 0⟩
def Obj.BRANCH.SHARE (n b : Nat) : Reg := ⟨((0x3820 + 0x100 * n) + b) * 256 + 0x03, 8, 0⟩
def Obj.BRANCH.FADE_FRAC (n b : Nat) : Reg := ⟨((0x3820 + 0x100 * n) + b) * 256 + 0x04, 16, 0⟩
def Obj.BRANCH.EXCLUDED (n b : Nat) : Reg := ⟨((0x3820 + 0x100 * n) + b) * 256 + 0x05, 8, 0⟩
/-! 4000h RAMAN (04_raman_and_brillouin.md). -/
def Obj.RAMAN.DTS_BIN (n : Nat) : Reg := ⟨(0x4000 + 0x100 * n) * 256 + 0x01, 8, 2⟩
def Obj.RAMAN.RZERO (n : Nat) : Reg := ⟨(0x4000 + 0x100 * n) * 256 + 0x02, 16, 0⟩
def Obj.RAMAN.OUT_MODE (n : Nat) : Reg := ⟨(0x4000 + 0x100 * n) * 256 + 0x03, 8, 0⟩
def Obj.RAMAN.GAMMA (n : Nat) : Reg := ⟨(0x4000 + 0x100 * n) * 256 + 0x04, 32, 0x441E6000⟩
def Obj.RAMAN.LNC (n : Nat) : Reg := ⟨(0x4000 + 0x100 * n) * 256 + 0x05, 32, 0⟩
def Obj.RAMAN.DALPHA (n : Nat) : Reg := ⟨(0x4000 + 0x100 * n) * 256 + 0x06, 32, 0⟩
def Obj.RAMAN.REF_MODE (n : Nat) : Reg := ⟨(0x4000 + 0x100 * n) * 256 + 0x07, 8, 0⟩
def Obj.RAMAN.REF1_START (n : Nat) : Reg := ⟨(0x4000 + 0x100 * n) * 256 + 0x08, 32, 0⟩
def Obj.RAMAN.REF1_END (n : Nat) : Reg := ⟨(0x4000 + 0x100 * n) * 256 + 0x09, 32, 0⟩
def Obj.RAMAN.REF1_SFE (n : Nat) : Reg := ⟨(0x4000 + 0x100 * n) * 256 + 0x0A, 8, 0xFF⟩
def Obj.RAMAN.REF2_START (n : Nat) : Reg := ⟨(0x4000 + 0x100 * n) * 256 + 0x0B, 32, 0⟩
def Obj.RAMAN.REF2_END (n : Nat) : Reg := ⟨(0x4000 + 0x100 * n) * 256 + 0x0C, 32, 0⟩
def Obj.RAMAN.REF2_SFE (n : Nat) : Reg := ⟨(0x4000 + 0x100 * n) * 256 + 0x0D, 8, 0xFF⟩
def Obj.RAMAN.REF_AGE (n : Nat) : Reg := ⟨(0x4000 + 0x100 * n) * 256 + 0x0E, 16, 0x7D0⟩
def Obj.RAMAN.REF_FILT (n : Nat) : Reg := ⟨(0x4000 + 0x100 * n) * 256 + 0x0F, 8, 1⟩
def Obj.RAMAN.REF_HOLD_MAX (n : Nat) : Reg := ⟨(0x4000 + 0x100 * n) * 256 + 0x10, 16, 8⟩
def Obj.RAMAN.QMIN_R (n : Nat) : Reg := ⟨(0x4000 + 0x100 * n) * 256 + 0x11, 8, 0x18⟩
def Obj.RAMAN.DUAL_PORT (n : Nat) : Reg := ⟨(0x4000 + 0x100 * n) * 256 + 0x12, 8, 0xFF⟩
def Obj.RAMAN.LOOP_PTS (n : Nat) : Reg := ⟨(0x4000 + 0x100 * n) * 256 + 0x13, 32, 0⟩
def Obj.RAMAN.PAIR_AGE (n : Nat) : Reg := ⟨(0x4000 + 0x100 * n) * 256 + 0x14, 32, 0xEA60⟩
/-! 4001h RAMAN_STATUS (04_raman_and_brillouin.md). -/
def Obj.RAMAN_STATUS.FLAGS (n : Nat) : Reg := ⟨(0x4001 + 0x100 * n) * 256 + 0x01, 32, 0⟩
def Obj.RAMAN_STATUS.LNC_USED (n : Nat) : Reg := ⟨(0x4001 + 0x100 * n) * 256 + 0x02, 32, 0⟩
def Obj.RAMAN_STATUS.DALPHA_USED (n : Nat) : Reg := ⟨(0x4001 + 0x100 * n) * 256 + 0x03, 32, 0⟩
def Obj.RAMAN_STATUS.REF1_T (n : Nat) : Reg := ⟨(0x4001 + 0x100 * n) * 256 + 0x04, 32, 0⟩
def Obj.RAMAN_STATUS.REF2_T (n : Nat) : Reg := ⟨(0x4001 + 0x100 * n) * 256 + 0x05, 32, 0⟩
def Obj.RAMAN_STATUS.BASE_S (n : Nat) : Reg := ⟨(0x4001 + 0x100 * n) * 256 + 0x06, 32, 0⟩
def Obj.RAMAN_STATUS.BASE_A (n : Nat) : Reg := ⟨(0x4001 + 0x100 * n) * 256 + 0x07, 32, 0⟩
def Obj.RAMAN_STATUS.NOISE_A (n : Nat) : Reg := ⟨(0x4001 + 0x100 * n) * 256 + 0x08, 32, 0⟩
def Obj.RAMAN_STATUS.OVR_S (n : Nat) : Reg := ⟨(0x4001 + 0x100 * n) * 256 + 0x09, 32, 0⟩
def Obj.RAMAN_STATUS.OVR_A (n : Nat) : Reg := ⟨(0x4001 + 0x100 * n) * 256 + 0x0A, 32, 0⟩
def Obj.RAMAN_STATUS.HELD_RUN (n : Nat) : Reg := ⟨(0x4001 + 0x100 * n) * 256 + 0x0B, 32, 0⟩
def Obj.RAMAN_STATUS.OVERRUN (n : Nat) : Reg := ⟨(0x4001 + 0x100 * n) * 256 + 0x0C, 32, 0⟩
/-! 4010h AVG_SET (04_raman_and_brillouin.md). -/
def Obj.AVG_SET.N_AVG (n a : Nat) : Reg := ⟨((0x4010 + 0x100 * n) + a) * 256 + 0x01, 32, 0x400⟩
def Obj.AVG_SET.PROGRESS (n a : Nat) : Reg := ⟨((0x4010 + 0x100 * n) + a) * 256 + 0x02, 32, 0⟩
def Obj.AVG_SET.PROFILES (n a : Nat) : Reg := ⟨((0x4010 + 0x100 * n) + a) * 256 + 0x03, 32, 0⟩
def Obj.AVG_SET.DONE (n a : Nat) : Reg := ⟨((0x4010 + 0x100 * n) + a) * 256 + 0x04, 72, 0⟩
def Obj.AVG_SET.DROPPED (n a : Nat) : Reg := ⟨((0x4010 + 0x100 * n) + a) * 256 + 0x05, 32, 0⟩
def Obj.AVG_SET.MEM (n a : Nat) : Reg := ⟨((0x4010 + 0x100 * n) + a) * 256 + 0x06, 32, 0⟩
/-! 4800h BRILLOUIN (04_raman_and_brillouin.md). -/
def Obj.BRILLOUIN.BR_BIN (n : Nat) : Reg := ⟨(0x4800 + 0x100 * n) * 256 + 0x01, 16, 0x10⟩
def Obj.BRILLOUIN.P_SHIFT (n : Nat) : Reg := ⟨(0x4800 + 0x100 * n) * 256 + 0x02, 8, 8⟩
def Obj.BRILLOUIN.BR_BRANCH (n : Nat) : Reg := ⟨(0x4800 + 0x100 * n) * 256 + 0x03, 32, 0xFFFF⟩
def Obj.BRILLOUIN.LO_SETTLE (n : Nat) : Reg := ⟨(0x4800 + 0x100 * n) * 256 + 0x04, 32, 0x7D0⟩
def Obj.BRILLOUIN.RELEASE (n : Nat) : Reg := ⟨(0x4800 + 0x100 * n) * 256 + 0x05, 8, 0⟩
/-! 4801h BRIL_STATUS (04_raman_and_brillouin.md). -/
def Obj.BRIL_STATUS.FLAGS (n : Nat) : Reg := ⟨(0x4801 + 0x100 * n) * 256 + 0x01, 32, 0⟩
def Obj.BRIL_STATUS.SWEEPS (n : Nat) : Reg := ⟨(0x4801 + 0x100 * n) * 256 + 0x02, 32, 0⟩
def Obj.BRIL_STATUS.STEP (n : Nat) : Reg := ⟨(0x4801 + 0x100 * n) * 256 + 0x03, 16, 0⟩
def Obj.BRIL_STATUS.SHOT_IN_STEP (n : Nat) : Reg := ⟨(0x4801 + 0x100 * n) * 256 + 0x04, 16, 0⟩
def Obj.BRIL_STATUS.BUF_HELD (n : Nat) : Reg := ⟨(0x4801 + 0x100 * n) * 256 + 0x05, 8, 0⟩
def Obj.BRIL_STATUS.BUF0_ADDR (n : Nat) : Reg := ⟨(0x4801 + 0x100 * n) * 256 + 0x06, 64, 0⟩
def Obj.BRIL_STATUS.BUF1_ADDR (n : Nat) : Reg := ⟨(0x4801 + 0x100 * n) * 256 + 0x07, 64, 0⟩
def Obj.BRIL_STATUS.SWEEP_SKIPPED (n : Nat) : Reg := ⟨(0x4801 + 0x100 * n) * 256 + 0x08, 32, 0⟩
def Obj.BRIL_STATUS.SWEEP_ABORT (n : Nat) : Reg := ⟨(0x4801 + 0x100 * n) * 256 + 0x09, 32, 0⟩
def Obj.BRIL_STATUS.LO_LATE (n : Nat) : Reg := ⟨(0x4801 + 0x100 * n) * 256 + 0x0A, 32, 0⟩
def Obj.BRIL_STATUS.SPEC_SAT (n : Nat) : Reg := ⟨(0x4801 + 0x100 * n) * 256 + 0x0B, 32, 0⟩
/-! 4810h SWEEP_PROGRAM (04_raman_and_brillouin.md). -/
def Obj.SWEEP_PROGRAM.F_START (n p : Nat) : Reg := ⟨((0x4810 + 0x100 * n) + p) * 256 + 0x01, 32, 0xA344E0⟩
def Obj.SWEEP_PROGRAM.F_STEP (n p : Nat) : Reg := ⟨((0x4810 + 0x100 * n) + p) * 256 + 0x02, 32, 0x7D0⟩
def Obj.SWEEP_PROGRAM.N_STEPS (n p : Nat) : Reg := ⟨((0x4810 + 0x100 * n) + p) * 256 + 0x03, 16, 0x65⟩
def Obj.SWEEP_PROGRAM.SHOTS_PER_STEP (n p : Nat) : Reg := ⟨((0x4810 + 0x100 * n) + p) * 256 + 0x04, 16, 0x40⟩
def Obj.SWEEP_PROGRAM.DISCARD (n p : Nat) : Reg := ⟨((0x4810 + 0x100 * n) + p) * 256 + 0x05, 8, 2⟩
def Obj.SWEEP_PROGRAM.W_BASE (n p : Nat) : Reg := ⟨((0x4810 + 0x100 * n) + p) * 256 + 0x06, 32, 0⟩
def Obj.SWEEP_PROGRAM.W_INC (n p : Nat) : Reg := ⟨((0x4810 + 0x100 * n) + p) * 256 + 0x07, 32, 0⟩
/-! 5000h ARRAY (05_stall_array.md). -/
def Obj.ARRAY.IN_SERVICE : Reg := ⟨0x5000 * 256 + 0x01, 8, 0⟩
def Obj.ARRAY.SPARES : Reg := ⟨0x5000 * 256 + 0x02, 8, 0x84⟩
def Obj.ARRAY.FAILED : Reg := ⟨0x5000 * 256 + 0x03, 8, 0⟩
def Obj.ARRAY.MIGRATIONS : Reg := ⟨0x5000 * 256 + 0x04, 32, 0⟩
def Obj.ARRAY.YARD_FREE : Reg := ⟨0x5000 * 256 + 0x05, 32, 0⟩
def Obj.ARRAY.LOAD : Reg := ⟨0x5000 * 256 + 0x06, 16, 0⟩
def Obj.ARRAY.RING_SHOTS : Reg := ⟨0x5000 * 256 + 0x07, 8, 4⟩
def Obj.ARRAY.FLAGS : Reg := ⟨0x5000 * 256 + 0x08, 32, 0⟩
/-! 5010h STALL (05_stall_array.md). -/
def Obj.STALL.STATE (s : Nat) : Reg := ⟨(0x5010 + s) * 256 + 0x01, 8, 0⟩
def Obj.STALL.SLOT (s : Nat) : Reg := ⟨(0x5010 + s) * 256 + 0x02, 8, 0xFF⟩
def Obj.STALL.FLAGS (s : Nat) : Reg := ⟨(0x5010 + s) * 256 + 0x03, 32, 0⟩
def Obj.STALL.CYCLES_LAST (s : Nat) : Reg := ⟨(0x5010 + s) * 256 + 0x04, 32, 0⟩
def Obj.STALL.CYCLES_MAX (s : Nat) : Reg := ⟨(0x5010 + s) * 256 + 0x05, 32, 0⟩
def Obj.STALL.TAG_HOLD (s : Nat) : Reg := ⟨(0x5010 + s) * 256 + 0x06, 32, 0⟩
def Obj.STALL.TRAPS (s : Nat) : Reg := ⟨(0x5010 + s) * 256 + 0x07, 32, 0⟩
def Obj.STALL.TEST_RESULT (s : Nat) : Reg := ⟨(0x5010 + s) * 256 + 0x08, 8, 0⟩
/-! 5110h PROGRAM_SLOT (05_stall_array.md). -/
def Obj.PROGRAM_SLOT.IMAGE (g : Nat) : Nat := (0x5110 + g) * 256 + 0x01
def Obj.PROGRAM_SLOT.LIB_ID (g : Nat) : Reg := ⟨(0x5110 + g) * 256 + 0x02, 32, 0⟩
def Obj.PROGRAM_SLOT.PROG_ID (g : Nat) : Reg := ⟨(0x5110 + g) * 256 + 0x03, 32, 0⟩
def Obj.PROGRAM_SLOT.VERSION (g : Nat) : Reg := ⟨(0x5110 + g) * 256 + 0x04, 32, 0⟩
def Obj.PROGRAM_SLOT.YARD_ALLOC (g : Nat) : Reg := ⟨(0x5110 + g) * 256 + 0x05, 32, 0⟩
def Obj.PROGRAM_SLOT.DRAM_ALLOC (g : Nat) : Reg := ⟨(0x5110 + g) * 256 + 0x06, 32, 0⟩
def Obj.PROGRAM_SLOT.USERS (g : Nat) : Reg := ⟨(0x5110 + g) * 256 + 0x07, 8, 0⟩
def Obj.PROGRAM_SLOT.LOAD_STATUS (g : Nat) : Reg := ⟨(0x5110 + g) * 256 + 0x08, 16, 0⟩
def Obj.PROGRAM_SLOT.SIGNED (g : Nat) : Reg := ⟨(0x5110 + g) * 256 + 0x09, 8, 0⟩
/-! 5140h PITCH (05_stall_array.md). -/
def Obj.PITCH.ENABLE (k : Nat) : Reg := ⟨(0x5140 + k) * 256 + 0x01, 8, 0⟩
def Obj.PITCH.PORT (k : Nat) : Reg := ⟨(0x5140 + k) * 256 + 0x02, 8, 0⟩
def Obj.PITCH.SOURCE (k : Nat) : Reg := ⟨(0x5140 + k) * 256 + 0x03, 8, 0⟩
def Obj.PITCH.SET_MASK (k : Nat) : Reg := ⟨(0x5140 + k) * 256 + 0x04, 32, 1⟩
def Obj.PITCH.FIRST (k : Nat) : Reg := ⟨(0x5140 + k) * 256 + 0x05, 32, 0⟩
def Obj.PITCH.PCOUNT (k : Nat) : Reg := ⟨(0x5140 + k) * 256 + 0x06, 32, 0x400⟩
def Obj.PITCH.HALO_LO (k : Nat) : Reg := ⟨(0x5140 + k) * 256 + 0x07, 16, 0⟩
def Obj.PITCH.HALO_HI (k : Nat) : Reg := ⟨(0x5140 + k) * 256 + 0x08, 16, 0⟩
def Obj.PITCH.PROGRAM (k : Nat) : Reg := ⟨(0x5140 + k) * 256 + 0x09, 8, 0⟩
def Obj.PITCH.PARAM (k : Nat) : Nat := (0x5140 + k) * 256 + 0x0A
def Obj.PITCH.HOST (k : Nat) : Reg := ⟨(0x5140 + k) * 256 + 0x0B, 16, 0xFFFF⟩
def Obj.PITCH.LAG (k : Nat) : Reg := ⟨(0x5140 + k) * 256 + 0x0C, 8, 0⟩
def Obj.PITCH.OFFERED (k : Nat) : Reg := ⟨(0x5140 + k) * 256 + 0x0D, 32, 0⟩
def Obj.PITCH.DECIMATED (k : Nat) : Reg := ⟨(0x5140 + k) * 256 + 0x0E, 32, 0⟩
def Obj.PITCH.SKIPPED (k : Nat) : Reg := ⟨(0x5140 + k) * 256 + 0x0F, 32, 0⟩
def Obj.PITCH.LATE (k : Nat) : Reg := ⟨(0x5140 + k) * 256 + 0x10, 32, 0⟩
def Obj.PITCH.LATE_DROP (k : Nat) : Reg := ⟨(0x5140 + k) * 256 + 0x11, 32, 0⟩
def Obj.PITCH.PFLAGS (k : Nat) : Reg := ⟨(0x5140 + k) * 256 + 0x12, 32, 0⟩
def Obj.PITCH.STALE (k : Nat) : Reg := ⟨(0x5140 + k) * 256 + 0x13, 32, 0⟩
/-! 5200h REGION (07_capture_and_triggers.md). -/
def Obj.REGION.ARM_MODE (r : Nat) : Reg := ⟨(0x5200 + r) * 256 + 0x01, 8, 0⟩
def Obj.REGION.PORT (r : Nat) : Reg := ⟨(0x5200 + r) * 256 + 0x02, 8, 0⟩
def Obj.REGION.SOURCE (r : Nat) : Reg := ⟨(0x5200 + r) * 256 + 0x03, 8, 0⟩
def Obj.REGION.SET_MASK (r : Nat) : Reg := ⟨(0x5200 + r) * 256 + 0x04, 32, 1⟩
def Obj.REGION.P_FIRST (r : Nat) : Reg := ⟨(0x5200 + r) * 256 + 0x05, 32, 0⟩
def Obj.REGION.P_COUNT (r : Nat) : Reg := ⟨(0x5200 + r) * 256 + 0x06, 32, 0x100⟩
def Obj.REGION.AWN_SHOTS (r : Nat) : Reg := ⟨(0x5200 + r) * 256 + 0x07, 16, 0x40⟩
def Obj.REGION.REARM_US (r : Nat) : Reg := ⟨(0x5200 + r) * 256 + 0x08, 32, 0⟩
def Obj.REGION.BELL_RX (r : Nat) : Reg := ⟨(0x5200 + r) * 256 + 0x09, 8, 0xFF⟩
def Obj.REGION.BELL_TX (r : Nat) : Reg := ⟨(0x5200 + r) * 256 + 0x0A, 8, 0xFF⟩
def Obj.REGION.FIRE_OFFSET (r : Nat) : Reg := ⟨(0x5200 + r) * 256 + 0x0B, 32, 0⟩
def Obj.REGION.BELL_PRE (r : Nat) : Reg := ⟨(0x5200 + r) * 256 + 0x0C, 16, 0⟩
def Obj.REGION.BELL_POST (r : Nat) : Reg := ⟨(0x5200 + r) * 256 + 0x0D, 16, 1⟩
def Obj.REGION.MEAS_LEVEL (r : Nat) : Reg := ⟨(0x5200 + r) * 256 + 0x0E, 32, 0⟩
def Obj.REGION.RSTATE (r : Nat) : Reg := ⟨(0x5200 + r) * 256 + 0x0F, 8, 0⟩
def Obj.REGION.FLAGS (r : Nat) : Reg := ⟨(0x5200 + r) * 256 + 0x10, 32, 0⟩
def Obj.REGION.RECORDS (r : Nat) : Reg := ⟨(0x5200 + r) * 256 + 0x11, 32, 0⟩
def Obj.REGION.TRIG_EARLY (r : Nat) : Reg := ⟨(0x5200 + r) * 256 + 0x12, 32, 0⟩
def Obj.REGION.TRIG_REARM (r : Nat) : Reg := ⟨(0x5200 + r) * 256 + 0x13, 32, 0⟩
def Obj.REGION.MERGED (r : Nat) : Reg := ⟨(0x5200 + r) * 256 + 0x14, 32, 0⟩
def Obj.REGION.TRIG_LATE (r : Nat) : Reg := ⟨(0x5200 + r) * 256 + 0x15, 32, 0⟩
def Obj.REGION.AWN_FILL (r : Nat) : Reg := ⟨(0x5200 + r) * 256 + 0x16, 16, 0⟩
def Obj.REGION.AWN_SPAN (r : Nat) : Reg := ⟨(0x5200 + r) * 256 + 0x17, 32, 0⟩
def Obj.REGION.LAST_SEQ (r : Nat) : Reg := ⟨(0x5200 + r) * 256 + 0x18, 32, 0⟩
/-! 5280h CAPTURE (07_capture_and_triggers.md). -/
def Obj.CAPTURE.STORE_LEN : Reg := ⟨0x5280 * 256 + 0x01, 32, 0x40⟩
def Obj.CAPTURE.RECORDS : Reg := ⟨0x5280 * 256 + 0x02, 32, 0⟩
def Obj.CAPTURE.STORE_LOST : Reg := ⟨0x5280 * 256 + 0x03, 32, 0⟩
def Obj.CAPTURE.BELL_WORST : Reg := ⟨0x5280 * 256 + 0x04, 32, 0⟩
def Obj.CAPTURE.TRIG_QFULL : Reg := ⟨0x5280 * 256 + 0x05, 32, 0⟩
def Obj.CAPTURE.BELL_IN : Reg := ⟨0x5280 * 256 + 0x06, 32, 0⟩
def Obj.CAPTURE.BELL_OUT : Reg := ⟨0x5280 * 256 + 0x07, 32, 0⟩
def Obj.CAPTURE.FIRE_GROUP : Reg := ⟨0x5280 * 256 + 0x08, 8, 0⟩
def Obj.CAPTURE.ARM_GROUP : Reg := ⟨0x5280 * 256 + 0x09, 16, 0⟩
def Obj.CAPTURE.COND_POINTS : Reg := ⟨0x5280 * 256 + 0x0A, 32, 0⟩
def Obj.CAPTURE.FLAGS : Reg := ⟨0x5280 * 256 + 0x0B, 32, 0⟩
def Obj.CAPTURE.TRIG_BAD : Reg := ⟨0x5280 * 256 + 0x0C, 32, 0⟩
/-! 5300h CONDITIONS (07_capture_and_triggers.md). -/
def Obj.CONDITIONS.C_TYPE (r c : Nat) : Reg := ⟨(0x5300 + r) * 256 + (0x01 + 16 * c), 8, 0⟩
def Obj.CONDITIONS.C_POL (r c : Nat) : Reg := ⟨(0x5300 + r) * 256 + (0x02 + 16 * c), 8, 0⟩
def Obj.CONDITIONS.C_FIRST (r c : Nat) : Reg := ⟨(0x5300 + r) * 256 + (0x03 + 16 * c), 32, 0⟩
def Obj.CONDITIONS.C_COUNT (r c : Nat) : Reg := ⟨(0x5300 + r) * 256 + (0x04 + 16 * c), 16, 1⟩
def Obj.CONDITIONS.LEVEL_A (r c : Nat) : Reg := ⟨(0x5300 + r) * 256 + (0x05 + 16 * c), 32, 0⟩
def Obj.CONDITIONS.LEVEL_B (r c : Nat) : Reg := ⟨(0x5300 + r) * 256 + (0x06 + 16 * c), 32, 0⟩
def Obj.CONDITIONS.TIME_A (r c : Nat) : Reg := ⟨(0x5300 + r) * 256 + (0x07 + 16 * c), 32, 1⟩
def Obj.CONDITIONS.TIME_B (r c : Nat) : Reg := ⟨(0x5300 + r) * 256 + (0x08 + 16 * c), 32, 1⟩
def Obj.CONDITIONS.C_QMIN (r c : Nat) : Reg := ⟨(0x5300 + r) * 256 + (0x09 + 16 * c), 8, 0x18⟩
def Obj.CONDITIONS.C_PRE (r c : Nat) : Reg := ⟨(0x5300 + r) * 256 + (0x0A + 16 * c), 16, 0⟩
def Obj.CONDITIONS.C_POST (r c : Nat) : Reg := ⟨(0x5300 + r) * 256 + (0x0B + 16 * c), 16, 1⟩
def Obj.CONDITIONS.C_OFFSET (r c : Nat) : Reg := ⟨(0x5300 + r) * 256 + (0x0C + 16 * c), 32, 0⟩
def Obj.CONDITIONS.C_CAN_ID (r c : Nat) : Reg := ⟨(0x5300 + r) * 256 + (0x0D + 16 * c), 32, 0⟩
def Obj.CONDITIONS.C_CAN_MASK (r c : Nat) : Reg := ⟨(0x5300 + r) * 256 + (0x0E + 16 * c), 32, 0x1FFFFFFF⟩
def Obj.CONDITIONS.C_CAN_FIELD (r c : Nat) : Reg := ⟨(0x5300 + r) * 256 + (0x0F + 16 * c), 16, 0⟩
def Obj.CONDITIONS.MET (r c : Nat) : Reg := ⟨(0x5300 + r) * 256 + (0x81 + c), 32, 0⟩
/-! 6000h STREAM (11_streams_and_ethernet.md). -/
def Obj.STREAM.ENABLE (s : Nat) : Reg := ⟨(0x6000 + s) * 256 + 0x01, 8, 0⟩
def Obj.STREAM.KIND (s : Nat) : Reg := ⟨(0x6000 + s) * 256 + 0x02, 8, 0⟩
def Obj.STREAM.PORT (s : Nat) : Reg := ⟨(0x6000 + s) * 256 + 0x03, 8, 0⟩
def Obj.STREAM.SLOT (s : Nat) : Reg := ⟨(0x6000 + s) * 256 + 0x04, 8, 0⟩
def Obj.STREAM.OUTPUT (s : Nat) : Reg := ⟨(0x6000 + s) * 256 + 0x05, 8, 0⟩
def Obj.STREAM.SEL (s : Nat) : Reg := ⟨(0x6000 + s) * 256 + 0x06, 64, 1⟩
def Obj.STREAM.P_FIRST (s : Nat) : Reg := ⟨(0x6000 + s) * 256 + 0x07, 32, 0⟩
def Obj.STREAM.P_COUNT (s : Nat) : Reg := ⟨(0x6000 + s) * 256 + 0x08, 32, 0⟩
def Obj.STREAM.DECIM_T (s : Nat) : Reg := ⟨(0x6000 + s) * 256 + 0x09, 16, 1⟩
def Obj.STREAM.BALE_MS (s : Nat) : Reg := ⟨(0x6000 + s) * 256 + 0x0A, 16, 0x64⟩
def Obj.STREAM.COMPRESS (s : Nat) : Reg := ⟨(0x6000 + s) * 256 + 0x0B, 8, 0⟩
def Obj.STREAM.TOLL (s : Nat) : Reg := ⟨(0x6000 + s) * 256 + 0x0C, 32, 0⟩
def Obj.STREAM.ADMIT_MS (s : Nat) : Reg := ⟨(0x6000 + s) * 256 + 0x0D, 16, 0x14⟩
def Obj.STREAM.CREDIT (s : Nat) : Reg := ⟨(0x6000 + s) * 256 + 0x0E, 8, 0⟩
def Obj.STREAM.MAX_DGRAM (s : Nat) : Reg := ⟨(0x6000 + s) * 256 + 0x0F, 16, 0x5C0⟩
def Obj.STREAM.DEST (s : Nat) : Nat := (0x6000 + s) * 256 + 0x10
def Obj.STREAM.DEST_PORT (s : Nat) : Reg := ⟨(0x6000 + s) * 256 + 0x11, 16, 0xBA01⟩
def Obj.STREAM.IFACE (s : Nat) : Reg := ⟨(0x6000 + s) * 256 + 0x12, 8, 0⟩
def Obj.STREAM.LEASE (s : Nat) : Reg := ⟨(0x6000 + s) * 256 + 0x13, 16, 0⟩
def Obj.STREAM.TWIN (s : Nat) : Reg := ⟨(0x6000 + s) * 256 + 0x14, 8, 0⟩
def Obj.STREAM.SSTATE (s : Nat) : Reg := ⟨(0x6000 + s) * 256 + 0x15, 8, 0⟩
def Obj.STREAM.SEQ (s : Nat) : Reg := ⟨(0x6000 + s) * 256 + 0x16, 32, 0⟩
def Obj.STREAM.BALES (s : Nat) : Reg := ⟨(0x6000 + s) * 256 + 0x17, 32, 0⟩
def Obj.STREAM.DROPPED (s : Nat) : Reg := ⟨(0x6000 + s) * 256 + 0x18, 32, 0⟩
def Obj.STREAM.BACKLOG (s : Nat) : Reg := ⟨(0x6000 + s) * 256 + 0x19, 32, 0⟩
def Obj.STREAM.TOLL_USE (s : Nat) : Reg := ⟨(0x6000 + s) * 256 + 0x1A, 32, 0⟩
def Obj.STREAM.LOST (s : Nat) : Reg := ⟨(0x6000 + s) * 256 + 0x1B, 32, 0⟩
def Obj.STREAM.POISON_WORDS (s : Nat) : Reg := ⟨(0x6000 + s) * 256 + 0x1C, 32, 0⟩
def Obj.STREAM.OWNER (s : Nat) : Reg := ⟨(0x6000 + s) * 256 + 0x1D, 32, 0⟩
/-! 6100h COMPRESSION (12_bale_compression.md). -/
def Obj.COMPRESSION.LEVEL : Reg := ⟨0x6100 * 256 + 0x01, 8, 2⟩
def Obj.COMPRESSION.BALES_IN : Reg := ⟨0x6100 * 256 + 0x02, 32, 0⟩
def Obj.COMPRESSION.ORIG_BYTES : Reg := ⟨0x6100 * 256 + 0x03, 64, 0⟩
def Obj.COMPRESSION.COMP_BYTES : Reg := ⟨0x6100 * 256 + 0x04, 64, 0⟩
def Obj.COMPRESSION.FALLBACKS : Reg := ⟨0x6100 * 256 + 0x05, 32, 0⟩
def Obj.COMPRESSION.COMP_LAT_MAX : Reg := ⟨0x6100 * 256 + 0x06, 32, 0⟩
def Obj.COMPRESSION.DECODE_OK : Reg := ⟨0x6100 * 256 + 0x07, 32, 0⟩
def Obj.COMPRESSION.DECODE_ERR : Reg := ⟨0x6100 * 256 + 0x08, 32, 0⟩
def Obj.COMPRESSION.BALE_STATUS : Reg := ⟨0x6100 * 256 + 0x09, 8, 0⟩
def Obj.COMPRESSION.LAST_ERROR : Reg := ⟨0x6100 * 256 + 0x0A, 8, 0⟩
def Obj.COMPRESSION.QUEUE_FULL : Reg := ⟨0x6100 * 256 + 0x0B, 32, 0⟩
def Obj.COMPRESSION.DZ_COUNT (c : Nat) : Reg := ⟨0x6100 * 256 + (0x10 + c), 32, 0⟩
/-! 6200h AGGON (14_aggon_and_twins.md). -/
def Obj.AGGON.DEVICE_ID : Reg := ⟨0x6200 * 256 + 0x01, 16, 0⟩
def Obj.AGGON.CLUSTER : Reg := ⟨0x6200 * 256 + 0x02, 16, 0⟩
def Obj.AGGON.ROOT_PRI : Reg := ⟨0x6200 * 256 + 0x03, 16, 0⟩
def Obj.AGGON.LINK_EN : Reg := ⟨0x6200 * 256 + 0x04, 32, 0xF⟩
def Obj.AGGON.GATEWAY : Reg := ⟨0x6200 * 256 + 0x05, 16, 0⟩
def Obj.AGGON.ROOT_ID : Reg := ⟨0x6200 * 256 + 0x06, 16, 0⟩
def Obj.AGGON.ROOT_HOPS : Reg := ⟨0x6200 * 256 + 0x07, 8, 0⟩
def Obj.AGGON.UPSTREAM : Reg := ⟨0x6200 * 256 + 0x08, 8, 0xFF⟩
def Obj.AGGON.CLUSTER_SIZE : Reg := ⟨0x6200 * 256 + 0x09, 16, 1⟩
def Obj.AGGON.MAX_HOPS : Reg := ⟨0x6200 * 256 + 0x0A, 8, 0⟩
def Obj.AGGON.CLUSTER_ERR : Reg := ⟨0x6200 * 256 + 0x0B, 32, 0⟩
def Obj.AGGON.FLAGS : Reg := ⟨0x6200 * 256 + 0x0C, 32, 0⟩
def Obj.AGGON.ASYMMETRY (c : Nat) : Reg := ⟨0x6200 * 256 + (0x21 + 16 * c), 32, 0⟩
def Obj.AGGON.LSTATE (c : Nat) : Reg := ⟨0x6200 * 256 + (0x22 + 16 * c), 8, 0⟩
def Obj.AGGON.PEER (c : Nat) : Reg := ⟨0x6200 * 256 + (0x23 + 16 * c), 16, 0xFFFF⟩
def Obj.AGGON.LANES (c : Nat) : Reg := ⟨0x6200 * 256 + (0x24 + 16 * c), 8, 0⟩
def Obj.AGGON.HAGGLE_CAUSE (c : Nat) : Reg := ⟨0x6200 * 256 + (0x25 + 16 * c), 8, 0⟩
def Obj.AGGON.MEAN_DELAY (c : Nat) : Reg := ⟨0x6200 * 256 + (0x26 + 16 * c), 32, 0⟩
def Obj.AGGON.OFFSET (c : Nat) : Reg := ⟨0x6200 * 256 + (0x27 + 16 * c), 64, 0⟩
def Obj.AGGON.REPLAYS (c : Nat) : Reg := ⟨0x6200 * 256 + (0x28 + 16 * c), 32, 0⟩
def Obj.AGGON.RETRAINS (c : Nat) : Reg := ⟨0x6200 * 256 + (0x29 + 16 * c), 32, 0⟩
def Obj.AGGON.LANE_SWITCHES (c : Nat) : Reg := ⟨0x6200 * 256 + (0x2A + 16 * c), 32, 0⟩
def Obj.AGGON.CE (c : Nat) : Reg := ⟨0x6200 * 256 + (0x2B + 16 * c), 32, 0⟩
def Obj.AGGON.LFLAGS (c : Nat) : Reg := ⟨0x6200 * 256 + (0x2C + 16 * c), 32, 0⟩
/-! 6300h TWIN (14_aggon_and_twins.md). -/
def Obj.TWIN.TWIN_EN : Reg := ⟨0x6300 * 256 + 0x01, 8, 0⟩
def Obj.TWIN.PEER_ID : Reg := ⟨0x6300 * 256 + 0x02, 16, 0⟩
def Obj.TWIN.TWIN_PORTS : Reg := ⟨0x6300 * 256 + 0x03, 32, 0⟩
def Obj.TWIN.TWIN_LINKS : Reg := ⟨0x6300 * 256 + 0x04, 32, 0⟩
def Obj.TWIN.TWIN_IFACE : Reg := ⟨0x6300 * 256 + 0x05, 8, 0⟩
def Obj.TWIN.PEER_MAC : Reg := ⟨0x6300 * 256 + 0x06, 64, 0⟩
def Obj.TWIN.PRIORITY : Reg := ⟨0x6300 * 256 + 0x07, 16, 1⟩
def Obj.TWIN.FAILOVER_US : Reg := ⟨0x6300 * 256 + 0x08, 16, 0x1F4⟩
def Obj.TWIN.MAP_REVERSE : Reg := ⟨0x6300 * 256 + 0x09, 32, 0⟩
def Obj.TWIN.PLANT_MODE : Reg := ⟨0x6300 * 256 + 0x0A, 8, 1⟩
def Obj.TWIN.RESYNC : Reg := ⟨0x6300 * 256 + 0x0B, 32, 0x400⟩
def Obj.TWIN.YIELD : Reg := ⟨0x6300 * 256 + 0x0C, 8, 0⟩
def Obj.TWIN.ROLE : Reg := ⟨0x6300 * 256 + 0x0D, 8, 0⟩
def Obj.TWIN.CLAIM : Reg := ⟨0x6300 * 256 + 0x0E, 32, 0⟩
def Obj.TWIN.PEER_CLAIM : Reg := ⟨0x6300 * 256 + 0x0F, 32, 0⟩
def Obj.TWIN.FLAGS : Reg := ⟨0x6300 * 256 + 0x10, 32, 0⟩
def Obj.TWIN.TAKEOVERS : Reg := ⟨0x6300 * 256 + 0x11, 32, 0⟩
def Obj.TWIN.LAST_TAKEOVER : Reg := ⟨0x6300 * 256 + 0x12, 72, 0⟩
def Obj.TWIN.MIRROR_RATE : Reg := ⟨0x6300 * 256 + 0x13, 32, 0⟩
def Obj.TWIN.MIRROR_DROP : Reg := ⟨0x6300 * 256 + 0x14, 32, 0⟩
def Obj.TWIN.MIRROR_LOST : Reg := ⟨0x6300 * 256 + 0x15, 32, 0⟩
def Obj.TWIN.WITHHELD : Reg := ⟨0x6300 * 256 + 0x16, 32, 0⟩
def Obj.TWIN.MAP_PTS (c : Nat) : Reg := ⟨0x6300 * 256 + (0x30 + c), 32, 0⟩
/-! 7000h SFE (15_plant_interfaces.md). -/
def Obj.SFE.CH_EN : Reg := ⟨0x7000 * 256 + 0x01, 32, 0⟩
def Obj.SFE.CONV_MODE : Reg := ⟨0x7000 * 256 + 0x02, 8, 0⟩
def Obj.SFE.EXC_FREQ : Reg := ⟨0x7000 * 256 + 0x03, 8, 1⟩
def Obj.SFE.N_PER : Reg := ⟨0x7000 * 256 + 0x04, 8, 8⟩
def Obj.SFE.SETTLE : Reg := ⟨0x7000 * 256 + 0x05, 8, 2⟩
def Obj.SFE.TONE_PERIOD : Reg := ⟨0x7000 * 256 + 0x06, 16, 0x3E8⟩
def Obj.SFE.PLAUS_TOL : Reg := ⟨0x7000 * 256 + 0x07, 16, 0xC8⟩
def Obj.SFE.QUAD_MAX : Reg := ⟨0x7000 * 256 + 0x08, 8, 0x40⟩
def Obj.SFE.FLAGS : Reg := ⟨0x7000 * 256 + 0x09, 32, 0⟩
def Obj.SFE.CYCLE_TIME : Reg := ⟨0x7000 * 256 + 0x0A, 32, 0⟩
def Obj.SFE.PLAUS_FAILS : Reg := ⟨0x7000 * 256 + 0x0B, 32, 0⟩
def Obj.SFE.CURVE (c : Nat) : Reg := ⟨0x7000 * 256 + (0x10 + c), 8, 1⟩
def Obj.SFE.EXC_I (c : Nat) : Reg := ⟨0x7000 * 256 + (0x18 + c), 8, 0⟩
def Obj.SFE.GAIN (c : Nat) : Reg := ⟨0x7000 * 256 + (0x20 + c), 8, 0xFF⟩
def Obj.SFE.EXC_MODE (c : Nat) : Reg := ⟨0x7000 * 256 + (0x28 + c), 8, 2⟩
def Obj.SFE.VALUE (c : Nat) : Reg := ⟨0x7000 * 256 + (0x30 + c), 32, 0⟩
def Obj.SFE.RES (c : Nat) : Reg := ⟨0x7000 * 256 + (0x38 + c), 32, 0⟩
def Obj.SFE.STAMP (c : Nat) : Reg := ⟨0x7000 * 256 + (0x40 + c), 72, 0⟩
def Obj.SFE.CSTAT (c : Nat) : Reg := ⟨0x7000 * 256 + (0x48 + c), 16, 0⟩
def Obj.SFE.FAULTS (c : Nat) : Reg := ⟨0x7000 * 256 + (0x50 + c), 32, 0⟩
def Obj.SFE.REPEATS (c : Nat) : Reg := ⟨0x7000 * 256 + (0x58 + c), 32, 0⟩
def Obj.SFE.CVD_R0 (c : Nat) : Reg := ⟨0x7000 * 256 + (0x60 + 4 * c), 32, 0x42C80000⟩
def Obj.SFE.CVD_A (c : Nat) : Reg := ⟨0x7000 * 256 + (0x61 + 4 * c), 32, 0x3B801132⟩
def Obj.SFE.CVD_B (c : Nat) : Reg := ⟨0x7000 * 256 + (0x62 + 4 * c), 32, 0xB51B057F⟩
def Obj.SFE.CVD_C (c : Nat) : Reg := ⟨0x7000 * 256 + (0x63 + 4 * c), 32, 0xAC932D1D⟩
def Obj.SFE.SH_A (c : Nat) : Reg := ⟨0x7000 * 256 + (0x70 + 3 * c), 32, 0⟩
def Obj.SFE.SH_B (c : Nat) : Reg := ⟨0x7000 * 256 + (0x71 + 3 * c), 32, 0⟩
def Obj.SFE.SH_C (c : Nat) : Reg := ⟨0x7000 * 256 + (0x72 + 3 * c), 32, 0⟩
/-! 7100h LOOP (15_plant_interfaces.md). -/
def Obj.LOOP.MAIL_BAD : Reg := ⟨0x7100 * 256 + 0x01, 32, 0⟩
def Obj.LOOP.SOURCE (c : Nat) : Reg := ⟨0x7100 * 256 + (0x10 + c), 8, 0⟩
def Obj.LOOP.SRC_INDEX (c : Nat) : Reg := ⟨0x7100 * 256 + (0x18 + c), 8, 0⟩
def Obj.LOOP.VAL_LO (c : Nat) : Reg := ⟨0x7100 * 256 + (0x20 + c), 32, 0⟩
def Obj.LOOP.VAL_HI (c : Nat) : Reg := ⟨0x7100 * 256 + (0x28 + c), 32, 0x64000⟩
def Obj.LOOP.FAULT_MODE (c : Nat) : Reg := ⟨0x7100 * 256 + (0x30 + c), 8, 0⟩
def Obj.LOOP.SRC_AGE (c : Nat) : Reg := ⟨0x7100 * 256 + (0x38 + c), 16, 0x3E8⟩
def Obj.LOOP.HOST_UA (c : Nat) : Reg := ⟨0x7100 * 256 + (0x40 + c), 16, 0xFA0⟩
def Obj.LOOP.RS (c : Nat) : Reg := ⟨0x7100 * 256 + (0x48 + c), 16, 0x1388⟩
def Obj.LOOP.I_SET (c : Nat) : Reg := ⟨0x7100 * 256 + (0x50 + c), 16, 0⟩
def Obj.LOOP.I_MEAS (c : Nat) : Reg := ⟨0x7100 * 256 + (0x58 + c), 16, 0⟩
def Obj.LOOP.LSTAT (c : Nat) : Reg := ⟨0x7100 * 256 + (0x60 + c), 8, 0⟩
def Obj.LOOP.TRIPS (c : Nat) : Reg := ⟨0x7100 * 256 + (0x68 + c), 32, 0⟩
/-! 7200h SINK (15_plant_interfaces.md). -/
def Obj.SINK.GLOBAL : Reg := ⟨0x7200 * 256 + 0x01, 16, 0xFFFF⟩
def Obj.SINK.TEST_MA : Reg := ⟨0x7200 * 256 + 0x02, 8, 2⟩
def Obj.SINK.TEST_PERIOD : Reg := ⟨0x7200 * 256 + 0x03, 16, 0x3E8⟩
def Obj.SINK.FLAGS : Reg := ⟨0x7200 * 256 + 0x04, 32, 0⟩
def Obj.SINK.SCALE_NOW : Reg := ⟨0x7200 * 256 + 0x05, 16, 0xFFFF⟩
def Obj.SINK.P_TOTAL : Reg := ⟨0x7200 * 256 + 0x06, 16, 0⟩
def Obj.SINK.CLEAR_SHORT : Reg := ⟨0x7200 * 256 + 0x07, 32, 0⟩
def Obj.SINK.SET (c : Nat) : Reg := ⟨0x7200 * 256 + (0x10 + c), 16, 0⟩
def Obj.SINK.MODE (c : Nat) : Reg := ⟨0x7200 * 256 + (0x20 + c), 8, 0⟩
def Obj.SINK.LCLASS (c : Nat) : Reg := ⟨0x7200 * 256 + (0x30 + c), 8, 1⟩
def Obj.SINK.TEST_EN (c : Nat) : Reg := ⟨0x7200 * 256 + (0x40 + c), 8, 0⟩
def Obj.SINK.SSTAT (c : Nat) : Reg := ⟨0x7200 * 256 + (0x50 + c), 8, 0⟩
def Obj.SINK.I_MEAS (c : Nat) : Reg := ⟨0x7200 * 256 + (0x60 + c), 16, 0⟩
def Obj.SINK.V_PIN (c : Nat) : Reg := ⟨0x7200 * 256 + (0x70 + c), 16, 0⟩
def Obj.SINK.OPENS (c : Nat) : Reg := ⟨0x7200 * 256 + (0x80 + c), 32, 0⟩
def Obj.SINK.SHORTS (c : Nat) : Reg := ⟨0x7200 * 256 + (0x90 + c), 32, 0⟩
/-! 7300h CHAIN (15_plant_interfaces.md). -/
def Obj.CHAIN.CH_EN : Reg := ⟨0x7300 * 256 + 0x01, 8, 0⟩
def Obj.CHAIN.LENGTH : Reg := ⟨0x7300 * 256 + 0x02, 16, 8⟩
def Obj.CHAIN.LCLK_DIV : Reg := ⟨0x7300 * 256 + 0x03, 8, 4⟩
def Obj.CHAIN.REFRESH : Reg := ⟨0x7300 * 256 + 0x04, 16, 0x64⟩
def Obj.CHAIN.RETRIES : Reg := ⟨0x7300 * 256 + 0x05, 8, 2⟩
def Obj.CHAIN.IMAGE : Nat := 0x7300 * 256 + 0x06
def Obj.CHAIN.MAIL_MASK : Nat := 0x7300 * 256 + 0x07
def Obj.CHAIN.LATCHED : Nat := 0x7300 * 256 + 0x08
def Obj.CHAIN.CFLAGS : Reg := ⟨0x7300 * 256 + 0x09, 32, 0⟩
def Obj.CHAIN.FRAMES : Reg := ⟨0x7300 * 256 + 0x0A, 32, 0⟩
def Obj.CHAIN.MISMATCHES : Reg := ⟨0x7300 * 256 + 0x0B, 32, 0⟩
def Obj.CHAIN.FAILS : Reg := ⟨0x7300 * 256 + 0x0C, 32, 0⟩
/-! 7800h CALIBRATION (16_calibration_and_flash.md). -/
def Obj.CALIBRATION.AUTO_EN : Reg := ⟨0x7800 * 256 + 0x01, 32, 0⟩
def Obj.CALIBRATION.CAL_DT : Reg := ⟨0x7800 * 256 + 0x02, 8, 0xA⟩
def Obj.CALIBRATION.CAL_EVERY : Reg := ⟨0x7800 * 256 + 0x03, 16, 0⟩
def Obj.CALIBRATION.CAL_TIMEOUT : Reg := ⟨0x7800 * 256 + 0x04, 32, 0x2710⟩
def Obj.CALIBRATION.CAL_SET : Reg := ⟨0x7800 * 256 + 0x05, 8, 0⟩
def Obj.CALIBRATION.CAL_WIN : Reg := ⟨0x7800 * 256 + 0x06, 32, 0x27100⟩
def Obj.CALIBRATION.FLAGS : Reg := ⟨0x7800 * 256 + 0x07, 32, 0⟩
/-! 7810h CAL_TARGET (16_calibration_and_flash.md). -/
def Obj.CAL_TARGET.START (k : Nat) : Reg := ⟨(0x7810 + k) * 256 + 0x01, 8, 0⟩
def Obj.CAL_TARGET.RESULT (k : Nat) : Reg := ⟨(0x7810 + k) * 256 + 0x02, 8, 0⟩
def Obj.CAL_TARGET.QUALITY (k : Nat) : Reg := ⟨(0x7810 + k) * 256 + 0x03, 32, 0⟩
def Obj.CAL_TARGET.CAL_TIME (k : Nat) : Reg := ⟨(0x7810 + k) * 256 + 0x04, 32, 0⟩
def Obj.CAL_TARGET.DONE (k : Nat) : Reg := ⟨(0x7810 + k) * 256 + 0x05, 72, 0⟩
def Obj.CAL_TARGET.RUNS (k : Nat) : Reg := ⟨(0x7810 + k) * 256 + 0x06, 32, 0⟩
def Obj.CAL_TARGET.FAILS (k : Nat) : Reg := ⟨(0x7810 + k) * 256 + 0x07, 32, 0⟩
def Obj.CAL_TARGET.TEMP (k : Nat) : Reg := ⟨(0x7810 + k) * 256 + 0x08, 16, 0⟩
def Obj.CAL_TARGET.PHASE (k : Nat) : Reg := ⟨(0x7810 + k) * 256 + 0x09, 8, 0⟩
/-! 7840h RX_TRIMS (16_calibration_and_flash.md). -/
def Obj.RX_TRIMS.SKEW (n : Nat) : Nat := (0x7840 + n) * 256 + 0x01
def Obj.RX_TRIMS.OFFSET (n : Nat) : Nat := (0x7840 + n) * 256 + 0x02
def Obj.RX_TRIMS.GAIN (n : Nat) : Nat := (0x7840 + n) * 256 + 0x03
def Obj.RX_TRIMS.VGA (n : Nat) : Nat := (0x7840 + n) * 256 + 0x04
def Obj.RX_TRIMS.NOISE (n : Nat) : Nat := (0x7840 + n) * 256 + 0x05
def Obj.RX_TRIMS.SOURCE (n : Nat) : Reg := ⟨(0x7840 + n) * 256 + 0x06, 8, 0⟩
/-! 7900h FLASH (16_calibration_and_flash.md). -/
def Obj.FLASH.FLAGS : Reg := ⟨0x7900 * 256 + 0x01, 32, 0⟩
def Obj.FLASH.CAL_SEQ : Reg := ⟨0x7900 * 256 + 0x02, 32, 0⟩
def Obj.FLASH.LEDGER_SEQ : Reg := ⟨0x7900 * 256 + 0x03, 32, 0⟩
def Obj.FLASH.WRITES : Reg := ⟨0x7900 * 256 + 0x04, 32, 0⟩
def Obj.FLASH.ERASE_MAX : Reg := ⟨0x7900 * 256 + 0x05, 32, 0⟩
def Obj.FLASH.TORN : Reg := ⟨0x7900 * 256 + 0x06, 32, 0⟩
def Obj.FLASH.WARNINGS : Reg := ⟨0x7900 * 256 + 0x07, 32, 0⟩
def Obj.FLASH.ABANDONED : Reg := ⟨0x7900 * 256 + 0x08, 32, 0⟩
def Obj.FLASH.PENDING : Reg := ⟨0x7900 * 256 + 0x09, 32, 0⟩
def Obj.FLASH.BOOT_SLOTS : Reg := ⟨0x7900 * 256 + 0x0A, 32, 0⟩
def Obj.FLASH.LAST_WRITE : Reg := ⟨0x7900 * 256 + 0x0B, 72, 0⟩
/-! 7A00h HEALTH (17_startup_security_debug.md). -/
def Obj.HEALTH.FLAGS : Reg := ⟨0x7A00 * 256 + 0x01, 32, 0⟩
def Obj.HEALTH.BOOT_STATE : Reg := ⟨0x7A00 * 256 + 0x02, 8, 0⟩
def Obj.HEALTH.RESET_CAUSE : Reg := ⟨0x7A00 * 256 + 0x03, 8, 0⟩
def Obj.HEALTH.RESETS : Reg := ⟨0x7A00 * 256 + 0x04, 32, 0⟩
def Obj.HEALTH.BOOT_TIME : Reg := ⟨0x7A00 * 256 + 0x05, 32, 0⟩
def Obj.HEALTH.T_DIGITAL : Reg := ⟨0x7A00 * 256 + 0x06, 16, 0⟩
def Obj.HEALTH.T_ANALOGUE : Reg := ⟨0x7A00 * 256 + 0x07, 16, 0⟩
def Obj.HEALTH.T_FLASH : Reg := ⟨0x7A00 * 256 + 0x08, 16, 0⟩
def Obj.HEALTH.T_MAX : Reg := ⟨0x7A00 * 256 + 0x09, 16, 0⟩
def Obj.HEALTH.T_WARN : Reg := ⟨0x7A00 * 256 + 0x0A, 16, 0x41A⟩
def Obj.HEALTH.RAIL_UV : Reg := ⟨0x7A00 * 256 + 0x0B, 32, 0⟩
def Obj.HEALTH.RAIL_OV : Reg := ⟨0x7A00 * 256 + 0x0C, 32, 0⟩
def Obj.HEALTH.CLERK_RESTARTS : Reg := ⟨0x7A00 * 256 + 0x0D, 32, 0⟩
def Obj.HEALTH.LOCKSTEP_ERR : Reg := ⟨0x7A00 * 256 + 0x0E, 32, 0⟩
def Obj.HEALTH.BANK_IN_USE : Reg := ⟨0x7A00 * 256 + 0x0F, 8, 0⟩
def Obj.HEALTH.BANK_A_VER : Reg := ⟨0x7A00 * 256 + 0x10, 32, 0⟩
def Obj.HEALTH.BANK_B_VER : Reg := ⟨0x7A00 * 256 + 0x11, 32, 0⟩
def Obj.HEALTH.BANK_STATE : Reg := ⟨0x7A00 * 256 + 0x12, 16, 0⟩
def Obj.HEALTH.FW_IMAGE : Nat := 0x7A00 * 256 + 0x13
def Obj.HEALTH.FW_STATUS : Reg := ⟨0x7A00 * 256 + 0x14, 8, 0⟩
def Obj.HEALTH.SWITCH : Reg := ⟨0x7A00 * 256 + 0x15, 8, 0⟩
def Obj.HEALTH.CONFIRM : Reg := ⟨0x7A00 * 256 + 0x16, 8, 0⟩
def Obj.HEALTH.TRIAL_S : Reg := ⟨0x7A00 * 256 + 0x17, 16, 0x258⟩
def Obj.HEALTH.ROLLBACK : Reg := ⟨0x7A00 * 256 + 0x18, 8, 0⟩
def Obj.HEALTH.RESET : Reg := ⟨0x7A00 * 256 + 0x19, 8, 0⟩
def Obj.HEALTH.ZEROIZE : Reg := ⟨0x7A00 * 256 + 0x1A, 32, 0⟩
def Obj.HEALTH.DBG_KEY : Nat := 0x7A00 * 256 + 0x1B
def Obj.HEALTH.DBG_STATE : Reg := ⟨0x7A00 * 256 + 0x1C, 8, 0⟩
def Obj.HEALTH.DBG_FAILS : Reg := ⟨0x7A00 * 256 + 0x1D, 32, 0⟩
def Obj.HEALTH.DBG_LOCK : Reg := ⟨0x7A00 * 256 + 0x1E, 8, 0⟩
def Obj.HEALTH.POWER : Reg := ⟨0x7A00 * 256 + 0x1F, 32, 0⟩
/-! 7A40h MEMORY (10_memory_and_integrity.md). -/
def Obj.MEMORY.FLAGS : Reg := ⟨0x7A40 * 256 + 0x01, 32, 0⟩
def Obj.MEMORY.POOL_SIZE : Reg := ⟨0x7A40 * 256 + 0x02, 64, 0⟩
def Obj.MEMORY.POOL_FREE : Reg := ⟨0x7A40 * 256 + 0x03, 64, 0⟩
def Obj.MEMORY.SCRUB_DRAM : Reg := ⟨0x7A40 * 256 + 0x04, 32, 0xE10⟩
def Obj.MEMORY.SCRUB_SRAM : Reg := ⟨0x7A40 * 256 + 0x05, 32, 0xA⟩
def Obj.MEMORY.YARD_CE : Reg := ⟨0x7A40 * 256 + 0x06, 32, 0⟩
def Obj.MEMORY.SRAM_CE : Reg := ⟨0x7A40 * 256 + 0x07, 32, 0⟩
def Obj.MEMORY.PATH_CE : Reg := ⟨0x7A40 * 256 + 0x08, 32, 0⟩
def Obj.MEMORY.UNCORR : Reg := ⟨0x7A40 * 256 + 0x09, 32, 0⟩
def Obj.MEMORY.POISON_SEEN : Reg := ⟨0x7A40 * 256 + 0x0A, 32, 0⟩
def Obj.MEMORY.LAST_UNCORR : Reg := ⟨0x7A40 * 256 + 0x0B, 64, 0⟩
def Obj.MEMORY.REFRESH_2X : Reg := ⟨0x7A40 * 256 + 0x0C, 8, 0⟩
/-! 7A41h DRAM_CHANNEL (10_memory_and_integrity.md). -/
def Obj.DRAM_CHANNEL.STATE (c : Nat) : Reg := ⟨(0x7A41 + c) * 256 + 0x01, 8, 0⟩
def Obj.DRAM_CHANNEL.CAPACITY (c : Nat) : Reg := ⟨(0x7A41 + c) * 256 + 0x02, 64, 0⟩
def Obj.DRAM_CHANNEL.RATE (c : Nat) : Reg := ⟨(0x7A41 + c) * 256 + 0x03, 16, 0⟩
def Obj.DRAM_CHANNEL.SPARES_FREE (c : Nat) : Reg := ⟨(0x7A41 + c) * 256 + 0x04, 8, 7⟩
def Obj.DRAM_CHANNEL.REPAIR_MAP (c : Nat) : Reg := ⟨(0x7A41 + c) * 256 + 0x05, 64, 0xFFFFFFFFFFFFFF⟩
def Obj.DRAM_CHANNEL.LANE_CE_MAX (c : Nat) : Reg := ⟨(0x7A41 + c) * 256 + 0x06, 16, 0x100⟩
def Obj.DRAM_CHANNEL.REPAIR (c : Nat) : Reg := ⟨(0x7A41 + c) * 256 + 0x07, 8, 0⟩
def Obj.DRAM_CHANNEL.PROGRESS (c : Nat) : Reg := ⟨(0x7A41 + c) * 256 + 0x08, 16, 0⟩
def Obj.DRAM_CHANNEL.CE (c : Nat) : Reg := ⟨(0x7A41 + c) * 256 + 0x09, 32, 0⟩
def Obj.DRAM_CHANNEL.UNCORR (c : Nat) : Reg := ⟨(0x7A41 + c) * 256 + 0x0A, 32, 0⟩
def Obj.DRAM_CHANNEL.WORST_LANE (c : Nat) : Reg := ⟨(0x7A41 + c) * 256 + 0x0B, 8, 0xFF⟩
def Obj.DRAM_CHANNEL.REPAIRS (c : Nat) : Reg := ⟨(0x7A41 + c) * 256 + 0x0C, 32, 0⟩
/-! 7A48h CROSSINGS (10_memory_and_integrity.md). -/
def Obj.CROSSINGS.PEER_RESET : Reg := ⟨0x7A48 * 256 + 0x01, 32, 0⟩
def Obj.CROSSINGS.DRAINED (c : Nat) : Reg := ⟨0x7A48 * 256 + (0x02 + c), 32, 0⟩
/-! 7F00h DAYBOOK (13_ledger.md). -/
def Obj.DAYBOOK.DB_LEN : Reg := ⟨0x7F00 * 256 + 0x01, 32, 0x10000⟩
def Obj.DAYBOOK.HEAD : Reg := ⟨0x7F00 * 256 + 0x02, 32, 0⟩
def Obj.DAYBOOK.HELD : Reg := ⟨0x7F00 * 256 + 0x03, 32, 0⟩
def Obj.DAYBOOK.FROM : Reg := ⟨0x7F00 * 256 + 0x04, 32, 0⟩
def Obj.DAYBOOK.ENTRIES : Nat := 0x7F00 * 256 + 0x05
def Obj.DAYBOOK.LOST : Reg := ⟨0x7F00 * 256 + 0x06, 32, 0⟩
def Obj.DAYBOOK.DROPPED : Reg := ⟨0x7F00 * 256 + 0x07, 32, 0⟩
def Obj.DAYBOOK.FLAGS : Reg := ⟨0x7F00 * 256 + 0x08, 32, 0⟩

/-! Flag bits, by record, object and field (the bit maps of the object tables). -/
def Bit.ETH_PORT.FLAGS.LINK : Nat := 0
def Bit.ETH_PORT.FLAGS.AN_DONE : Nat := 1
def Bit.ETH_PORT.FLAGS.HI_BER : Nat := 2
def Bit.ETH_PORT.FLAGS.LINK_LOST : Nat := 3
def Bit.INTERFACE.PRP_FLAGS.PATH_A : Nat := 0
def Bit.INTERFACE.PRP_FLAGS.PATH_B : Nat := 1
def Bit.INTERFACE.PRP_FLAGS.WRONG_LAN : Nat := 2
def Bit.CLOCKS.FLAGS.DISAGREE : Nat := 12
def Bit.CLOCKS.FLAGS.SERDES_XTAL : Nat := 11
def Bit.CLOCKS.FLAGS.WOSC_BAD : Nat := 10
def Bit.CLOCKS.FLAGS.AGE_ALERT : Nat := 9
def Bit.CLOCKS.FLAGS.OVEN_WAIT : Nat := 8
def Bit.CLOCKS.FLAGS.AGGON_BAD : Nat := 7
def Bit.CLOCKS.FLAGS.REF10_BAD : Nat := 6
def Bit.CLOCKS.FLAGS.XTAL_BAD : Nat := 5
def Bit.CLOCKS.FLAGS.QUAL_SINGLE : Nat := 4
def Bit.CLOCKS.FLAGS.REF_FAIL : Nat := 3
def Bit.CLOCKS.FLAGS.SWITCH_UNCLEAN : Nat := 2
def Bit.CLOCKS.FLAGS.CLK_COAST : Nat := 1
def Bit.CLOCKS.FLAGS.LOCKED : Nat := 0
def Bit.EPOCH.FLAGS.PPS_UNLABELLED : Nat := 7
def Bit.EPOCH.FLAGS.RETAKEN : Nat := 6
def Bit.EPOCH.FLAGS.ORIGIN_TAI : Nat := 5
def Bit.EPOCH.FLAGS.SOURCE_CHANGE : Nat := 4
def Bit.EPOCH.FLAGS.UNCERTAIN : Nat := 3
def Bit.EPOCH.FLAGS.DEGRADED : Nat := 2
def Bit.EPOCH.FLAGS.STEPPED : Nat := 1
def Bit.EPOCH.FLAGS.HOLDOVER : Nat := 0
def Bit.TDC.FLAGS.COARSE : Nat := 0
def Bit.TDC.FLAGS.PRIVILEGED : Nat := 1
def Bit.TDC.FLAGS.TBASE_CHANGE : Nat := 2
def Bit.MEASURE.MFLAGS.COARSE : Nat := 4
def Bit.MEASURE.MFLAGS.TBASE_CHANGE : Nat := 3
def Bit.MEASURE.MFLAGS.STEPPED : Nat := 2
def Bit.MEASURE.MFLAGS.ORDER_REV : Nat := 1
def Bit.MEASURE.MFLAGS.SUBRES : Nat := 0
def Bit.PORT_STATUS.FLAGS.TX_SHORT : Nat := 11
def Bit.PORT_STATUS.FLAGS.TX_OPEN : Nat := 10
def Bit.PORT_STATUS.FLAGS.MON_LOST : Nat := 9
def Bit.PORT_STATUS.FLAGS.CLIP : Nat := 8
def Bit.PORT_STATUS.FLAGS.STUCK_Y : Nat := 7
def Bit.PORT_STATUS.FLAGS.STUCK_X : Nat := 6
def Bit.PORT_STATUS.FLAGS.CM_Y : Nat := 5
def Bit.PORT_STATUS.FLAGS.CM_X : Nat := 4
def Bit.PORT_STATUS.FLAGS.SAT_Y : Nat := 3
def Bit.PORT_STATUS.FLAGS.SAT_X : Nat := 2
def Bit.PORT_STATUS.FLAGS.OVR_Y : Nat := 1
def Bit.PORT_STATUS.FLAGS.OVR_X : Nat := 0
def Bit.PIPE_STATUS.FLAGS.AMBIG : Nat := 9
def Bit.PIPE_STATUS.FLAGS.STATE_POISON : Nat := 8
def Bit.PIPE_STATUS.FLAGS.STATE_LATE : Nat := 7
def Bit.PIPE_STATUS.FLAGS.RELEARN_ACTIVE : Nat := 6
def Bit.PIPE_STATUS.FLAGS.NOISE_HELD : Nat := 5
def Bit.PIPE_STATUS.FLAGS.END_BEYOND : Nat := 4
def Bit.PIPE_STATUS.FLAGS.BREAK : Nat := 3
def Bit.PIPE_STATUS.FLAGS.DARK : Nat := 2
def Bit.PIPE_STATUS.FLAGS.OVERRUN : Nat := 1
def Bit.PIPE_STATUS.FLAGS.BUDGET_OVER : Nat := 0
def Bit.RAMAN_STATUS.FLAGS.DUAL_MISS : Nat := 7
def Bit.RAMAN_STATUS.FLAGS.OVERRUN : Nat := 6
def Bit.RAMAN_STATUS.FLAGS.BASE_OLD : Nat := 5
def Bit.RAMAN_STATUS.FLAGS.REF_HELD : Nat := 4
def Bit.RAMAN_STATUS.FLAGS.REF_BAD : Nat := 3
def Bit.RAMAN_STATUS.FLAGS.SAT_A : Nat := 2
def Bit.RAMAN_STATUS.FLAGS.SAT_S : Nat := 1
def Bit.RAMAN_STATUS.FLAGS.RESTARTED : Nat := 0
def Bit.BRIL_STATUS.FLAGS.LO_LATE : Nat := 4
def Bit.BRIL_STATUS.FLAGS.SPEC_SAT : Nat := 3
def Bit.BRIL_STATUS.FLAGS.SKIPPED : Nat := 2
def Bit.BRIL_STATUS.FLAGS.ABORTED : Nat := 1
def Bit.BRIL_STATUS.FLAGS.SWEEP_ACTIVE : Nat := 0
def Bit.ARRAY.FLAGS.SPARE_NONE : Nat := 0
def Bit.ARRAY.FLAGS.OVERLOAD : Nat := 1
def Bit.ARRAY.FLAGS.HALTED : Nat := 2
def Bit.STALL.FLAGS.SLOW : Nat := 0
def Bit.STALL.FLAGS.OVERLOAD : Nat := 1
def Bit.PITCH.PFLAGS.OVERLOAD : Nat := 0
def Bit.PITCH.PFLAGS.HALTED : Nat := 1
def Bit.PITCH.PFLAGS.MIGRATED : Nat := 2
def Bit.REGION.FLAGS.SHALLOW : Nat := 5
def Bit.REGION.FLAGS.RING_TRIM : Nat := 4
def Bit.REGION.FLAGS.PRE_SHORT : Nat := 3
def Bit.REGION.FLAGS.LATE : Nat := 2
def Bit.REGION.FLAGS.TRIG_REARM : Nat := 1
def Bit.REGION.FLAGS.TRIG_EARLY : Nat := 0
def Bit.CAPTURE.FLAGS.RING_TRIM : Nat := 0
def Bit.AGGON.FLAGS.IS_ROOT : Nat := 0
def Bit.AGGON.FLAGS.NO_ROOT : Nat := 1
def Bit.AGGON.FLAGS.DUP_ID : Nat := 2
def Bit.AGGON.FLAGS.DIAM_LIMIT : Nat := 3
def Bit.AGGON.LFLAGS.LINK_SILENT : Nat := 0
def Bit.AGGON.LFLAGS.TWIN_LINK : Nat := 1
def Bit.TWIN.FLAGS.IN_STEP : Nat := 0
def Bit.TWIN.FLAGS.CLAIM_STALE : Nat := 1
def Bit.TWIN.FLAGS.PATH_AGGON : Nat := 2
def Bit.TWIN.FLAGS.PATH_ETH : Nat := 3
def Bit.TWIN.FLAGS.MIRROR_OVER : Nat := 4
def Bit.SFE.FLAGS.PLAUS_ALARM : Nat := 0
def Bit.SFE.CSTAT.CHOP : Nat := 4
def Bit.SFE.CSTAT.REPEAT : Nat := 3
def Bit.SFE.CSTAT.CHECKED : Nat := 2
def Bit.SFE.CSTAT.LOWPOWER : Nat := 1
def Bit.LOOP.LSTAT.FAULT_LEVEL : Nat := 0
def Bit.LOOP.LSTAT.OPEN : Nat := 1
def Bit.LOOP.LSTAT.DEV : Nat := 2
def Bit.SINK.FLAGS.SINK_LIMIT : Nat := 0
def Bit.SINK.SSTAT.ON : Nat := 0
def Bit.SINK.SSTAT.OPEN : Nat := 1
def Bit.SINK.SSTAT.SHORT : Nat := 2
def Bit.SINK.SSTAT.LIMITED : Nat := 3
def Bit.SINK.SSTAT.UNTESTED : Nat := 4
def Bit.CHAIN.CFLAGS.VERIFIED : Nat := 0
def Bit.CHAIN.CFLAGS.CHAIN_FAULT : Nat := 1
def Bit.CALIBRATION.AUTO_EN.RX_INTERLEAVE : Nat := 0
def Bit.CALIBRATION.AUTO_EN.RX_GAIN : Nat := 1
def Bit.CALIBRATION.AUTO_EN.TDC_LINEAR : Nat := 2
def Bit.CALIBRATION.AUTO_EN.SFE : Nat := 3
def Bit.CALIBRATION.AUTO_EN.LOOP : Nat := 4
def Bit.CALIBRATION.FLAGS.CAL_RUNNING : Nat := 0
def Bit.CALIBRATION.FLAGS.CAL_DUE : Nat := 1
def Bit.FLASH.FLAGS.WRITE_BLOCKED : Nat := 0
def Bit.FLASH.FLAGS.JOURNAL_EMPTY : Nat := 1
def Bit.FLASH.FLAGS.FLASH_FAULT : Nat := 2
def Bit.FLASH.FLAGS.WEAR_ALERT : Nat := 3
def Bit.HEALTH.FLAGS.DEBUG_UNLOCKED : Nat := 8
def Bit.HEALTH.FLAGS.ZEROIZE_PENDING : Nat := 7
def Bit.HEALTH.FLAGS.TRIAL : Nat := 6
def Bit.HEALTH.FLAGS.CLERK_RESTART : Nat := 5
def Bit.HEALTH.FLAGS.OV : Nat := 4
def Bit.HEALTH.FLAGS.UV : Nat := 3
def Bit.HEALTH.FLAGS.THERM_TRIPPED : Nat := 2
def Bit.HEALTH.FLAGS.THERM_WARN : Nat := 1
def Bit.HEALTH.FLAGS.EARLY_WARN : Nat := 0
def Bit.MEMORY.FLAGS.DRAM_FAILED : Nat := 5
def Bit.MEMORY.FLAGS.REPAIR_ACTIVE : Nat := 4
def Bit.MEMORY.FLAGS.SPARES_LOW : Nat := 3
def Bit.MEMORY.FLAGS.CH_FAULT_M1 : Nat := 2
def Bit.MEMORY.FLAGS.CH_FAULT_M0 : Nat := 1
def Bit.MEMORY.FLAGS.UNCORR : Nat := 0
def Bit.DAYBOOK.FLAGS.RING_TRIM : Nat := 0

end Sys2Proof
end

