-- ==== Sys2Proof/Machine/Dictionary.lean ====
section
/-! DEFINITION. The Ledger's dictionary: the rows of every record, the index map of R390 and the
lookup of an object by index and subindex. -/

namespace Sys2Proof

/-- The rows of 1000h IDENTITY (13_ledger.md). -/
def Obj.IDENTITY.rows : List ObjRow :=
  [
    rowCount 4,
    { sub := 0x01, ty := .u16, acc := .ro, dflt := 0x8816 },
    { sub := 0x02, ty := .u16, acc := .ro },
    { sub := 0x03, ty := .u32, acc := .ro },
    { sub := 0x04, ty := .vis, acc := .ro }]

/-- The rows of 1100h ETH_PORT (11_streams_and_ethernet.md). -/
def Obj.ETH_PORT.rows : List ObjRow :=
  [
    rowCount 0xA,
    { sub := 0x01, ty := .bits32, acc := .rwp, dflt := 7, mask := some 7 },
    { sub := 0x02, ty := .enum8, acc := .rwp, dflt := 1, range := some (0, 1) },
    { sub := 0x03, ty := .enum8, acc := .rwp, range := some (0, 2) },
    { sub := 0x04, ty := .enum8, acc := .ro },
    { sub := 0x05, ty := .enum8, acc := .ro },
    { sub := 0x06, ty := .bits32, acc := .ro, w1c := 8 },
    { sub := 0x07, ty := .u64, acc := .ro },
    { sub := 0x08, ty := .u64, acc := .ro },
    { sub := 0x09, ty := .u32, acc := .ro },
    { sub := 0x0A, ty := .u32, acc := .ro },
    rowApply,
    rowState]

/-- The rows of 1110h INTERFACE (11_streams_and_ethernet.md). -/
def Obj.INTERFACE.rows : List ObjRow :=
  [
    rowCount 0xF,
    { sub := 0x01, ty := .enum8, acc := .rwp, dflt := 1, range := some (0, 1) },
    { sub := 0x02, ty := .u64, acc := .ro },
    { sub := 0x03, ty := .u16, acc := .rwp, dflt := 0x5DC, range := some (1280, 9000) },
    { sub := 0x04, ty := .u32, acc := .rwp },
    { sub := 0x05, ty := .u32, acc := .rwp },
    { sub := 0x06, ty := .u8, acc := .rwp, dflt := 0x18, range := some (0, 32) },
    { sub := 0x07, ty := .u32, acc := .rwp },
    { sub := 0x08, ty := .blob, acc := .rwp },
    { sub := 0x09, ty := .blob, acc := .rwp },
    { sub := 0x0A, ty := .u8, acc := .rwp, dflt := 0x40, range := some (0, 128) },
    { sub := 0x0B, ty := .u8, acc := .rwp, dflt := 0x5F, range := some (50, 100) },
    { sub := 0x0C, ty := .u32, acc := .ro },
    { sub := 0x0D, ty := .bits32, acc := .ro, w1c := 4 },
    { sub := 0x0E, ty := .u32, acc := .ro },
    { sub := 0x0F, ty := .u32, acc := .ro },
    rowApply,
    rowState]

/-- The rows of 1120h PTP (11_streams_and_ethernet.md). -/
def Obj.PTP.rows : List ObjRow :=
  [
    rowCount 0xA,
    { sub := 0x01, ty := .u8, acc := .rwp },
    { sub := 0x02, ty := .enum8, acc := .rwp, dflt := 1, range := some (0, 2) },
    { sub := 0x03, ty := .enum8, acc := .rwp, range := some (0, 1) },
    { sub := 0x04, ty := .i32, acc := .rwp },
    { sub := 0x05, ty := .enum8, acc := .ro },
    { sub := 0x06, ty := .u8, acc := .ro, dflt := 0xFF },
    { sub := 0x07, ty := .i64, acc := .ro },
    { sub := 0x08, ty := .blob, acc := .ro },
    { sub := 0x09, ty := .u32, acc := .ro },
    { sub := 0x0A, ty := .u32, acc := .ro },
    rowApply,
    rowState]

/-- The rows of 1130h LEDGER_UDP (13_ledger.md). -/
def Obj.LEDGER_UDP.rows : List ObjRow :=
  [
    rowCount 7,
    { sub := 0x01, ty := .bits32, acc := .rwp, dflt := 3, mask := some 3 },
    { sub := 0x02, ty := .u16, acc := .rwp, dflt := 0x3C, range := some (10, 3600) },
    { sub := 0x03, ty := .enum8, acc := .rwp, dflt := 1, range := some (0, 1) },
    { sub := 0x04, ty := .u32, acc := .ro },
    { sub := 0x05, ty := .u32, acc := .ro },
    { sub := 0x06, ty := .u32, acc := .ro },
    { sub := 0x07, ty := .u32, acc := .ro },
    rowApply,
    rowState]

/-- The rows of 1140h CAN (13_ledger.md). -/
def Obj.CAN.rows : List ObjRow :=
  [
    rowCount 0xE,
    { sub := 0x01, ty := .enum8, acc := .rwp, range := some (0, 2) },
    { sub := 0x02, ty := .enum8, acc := .rwp, dflt := 3, range := some (0, 3) },
    { sub := 0x03, ty := .u8, acc := .rwp, dflt := 0x50, range := some (50, 90) },
    { sub := 0x04, ty := .u8, acc := .rwp, dflt := 0x4B, range := some (50, 90) },
    { sub := 0x05, ty := .u8, acc := .rwp, dflt := 0x1C, range := some (0, 31) },
    { sub := 0x06, ty := .enum8, acc := .rwp, dflt := 1, range := some (0, 1) },
    { sub := 0x07, ty := .u16, acc := .rwp, range := some (0, 1000) },
    { sub := 0x08, ty := .enum8, acc := .ro },
    { sub := 0x09, ty := .u8, acc := .ro },
    { sub := 0x0A, ty := .u8, acc := .ro },
    { sub := 0x0B, ty := .u32, acc := .ro },
    { sub := 0x0C, ty := .u32, acc := .ro },
    { sub := 0x0D, ty := .u32, acc := .ro },
    { sub := 0x0E, ty := .u32, acc := .ro },
    rowApply,
    rowState]

/-- The rows of 1200h KEY_SLOT (13_ledger.md). -/
def Obj.KEY_SLOT.rows : List ObjRow :=
  [
    rowCount 4,
    { sub := 0x01, ty := .blob, acc := .wo, level := 3 },
    { sub := 0x02, ty := .u8, acc := .rwp, level := 3, range := some (0, 3) },
    { sub := 0x03, ty := .enum8, acc := .rwp, range := some (0, 1) },
    { sub := 0x04, ty := .u32, acc := .ro },
    rowApply,
    rowState]

/-- The rows of 1280h SESSIONS (13_ledger.md). -/
def Obj.SESSIONS.rows : List ObjRow :=
  [
    rowCount 3,
    { sub := 0x01, ty := .u8, acc := .ro },
    { sub := 0x02, ty := .u32, acc := .ro },
    { sub := 0x03, ty := .u32, acc := .wo, level := 3 }]

/-- The rows of 1281h SESSION (13_ledger.md). -/
def Obj.SESSION.rows : List ObjRow :=
  [
    rowCount 6,
    { sub := 0x01, ty := .u32, acc := .ro },
    { sub := 0x02, ty := .u8, acc := .ro },
    { sub := 0x03, ty := .enum8, acc := .ro },
    { sub := 0x04, ty := .u8, acc := .ro, dflt := 0xFF },
    { sub := 0x05, ty := .u32, acc := .ro },
    { sub := 0x06, ty := .u32, acc := .ro }]

/-- The rows of 2000h CLOCKS (08_clocks.md). -/
def Obj.CLOCKS.rows : List ObjRow :=
  [
    rowCount 0x15,
    { sub := 0x01, ty := .u32, acc := .rwp, dflt := 0x21 },
    { sub := 0x02, ty := .enum8, acc := .rwp, range := some (0, 1) },
    { sub := 0x03, ty := .u8, acc := .rwp, dflt := 0xFF, range := some (0, 3), also := some 255 },
    { sub := 0x04, ty := .u16, acc := .rwp, dflt := 0x64, range := some (1, 1000) },
    { sub := 0x05, ty := .u16, acc := .rwp, dflt := 0x3E8, range := some (100, 10000) },
    { sub := 0x06, ty := .u16, acc := .rwp, dflt := 0xA, range := some (0, 3600) },
    { sub := 0x07, ty := .i32, acc := .rwp, level := 3, range := some (-50000000, 50000000) },
    { sub := 0x08, ty := .enum8, acc := .rwp, dflt := 1, range := some (0, 1) },
    { sub := 0x09, ty := .enum8, acc := .rwp, range := some (0, 1) },
    { sub := 0x0A, ty := .enum8, acc := .rwp, range := some (0, 7) },
    { sub := 0x0B, ty := .u16, acc := .rwp, dflt := 1, range := some (1, 65535) },
    { sub := 0x0C, ty := .enum8, acc := .ro },
    { sub := 0x0D, ty := .enum8, acc := .ro },
    { sub := 0x0E, ty := .bits32, acc := .ro, w1c := 0x20C },
    { sub := 0x0F, ty := .i32, acc := .ro },
    { sub := 0x10, ty := .u32, acc := .ro },
    { sub := 0x11, ty := .u32, acc := .ro },
    { sub := 0x12, ty := .u32, acc := .ro },
    { sub := 0x13, ty := .u32, acc := .ro },
    { sub := 0x14, ty := .i32, acc := .ro },
    { sub := 0x15, ty := .u32, acc := .ro },
    rowApply,
    rowState]

/-- The rows of 2100h EPOCH (01_epoch_and_shots.md). -/
def Obj.EPOCH.rows : List ObjRow :=
  [
    rowCount 9,
    { sub := 0x01, ty := .epoch, acc := .ro },
    { sub := 0x02, ty := .enum8, acc := .ro },
    { sub := 0x03, ty := .enum8, acc := .ro },
    { sub := 0x04, ty := .bits32, acc := .ro, w1c := 0x52 },
    { sub := 0x05, ty := .i64, acc := .ro },
    { sub := 0x06, ty := .u32, acc := .ro },
    { sub := 0x07, ty := .u32, acc := .ro },
    { sub := 0x08, ty := .i32, acc := .ro },
    { sub := 0x09, ty := .u64, acc := .wo }]

/-- The rows of 2101h EPOCH_SOURCE (01_epoch_and_shots.md). -/
def Obj.EPOCH_SOURCE.rows : List ObjRow :=
  [
    rowCount 7,
    { sub := 0x01, ty := .u32, acc := .rwp, dflt := 0x213 },
    { sub := 0x02, ty := .u32, acc := .rwp, dflt := 0x3E8 },
    { sub := 0x03, ty := .u32, acc := .rwp, dflt := 0x2710 },
    { sub := 0x04, ty := .bits32, acc := .rwp, dflt := 0xF, mask := some 0xF },
    { sub := 0x05, ty := .u32, acc := .rwp, dflt := 0x3E8 },
    { sub := 0x06, ty := .enum8, acc := .rwp, range := some (0, 1) },
    { sub := 0x07, ty := .i32, acc := .rwp },
    rowApply,
    rowState]

/-- The rows of 2102h AXIS_CONFIG (01_epoch_and_shots.md). -/
def Obj.AXIS_CONFIG.rows : List ObjRow :=
  [
    rowCount 7,
    { sub := 0x01, ty := .enum8, acc := .rwp, range := some (0, 1) },
    { sub := 0x02, ty := .i32, acc := .rwp },
    { sub := 0x03, ty := .enum8, acc := .rwp, dflt := 1, range := some (0, 2) },
    { sub := 0x04, ty := .u8, acc := .rwp, dflt := 0x10, range := some (1, 128) },
    { sub := 0x05, ty := .u8, acc := .ro },
    { sub := 0x06, ty := .enum8, acc := .rwp, range := some (0, 2) },
    { sub := 0x07, ty := .i32, acc := .wo },
    rowApply,
    rowState]

/-- The rows of 2103h AXIS_STATUS (01_epoch_and_shots.md). -/
def Obj.AXIS_STATUS.rows : List ObjRow :=
  [
    rowCount 9,
    { sub := 0x01, ty := .u64, acc := .ro },
    { sub := 0x02, ty := .u32, acc := .ro },
    { sub := 0x03, ty := .i32, acc := .ro },
    { sub := 0x04, ty := .u8, acc := .ro },
    { sub := 0x05, ty := .i32, acc := .ro },
    { sub := 0x06, ty := .u32, acc := .ro },
    { sub := 0x07, ty := .i32, acc := .ro },
    { sub := 0x08, ty := .u32, acc := .ro },
    { sub := 0x09, ty := .u32, acc := .ro }]

/-- The rows of 2200h TDC (09_time_interval_unit.md). -/
def Obj.TDC.rows : List ObjRow :=
  [
    rowCount 3,
    { sub := 0x01, ty := .enum8, acc := .ro },
    { sub := 0x02, ty := .bits32, acc := .ro, w1c := 4 },
    { sub := 0x03, ty := .u32, acc := .ro }]

/-- The rows of 2210h MEASURE (09_time_interval_unit.md). -/
def Obj.MEASURE.rows : List ObjRow :=
  [
    rowCount 0x15,
    { sub := 0x01, ty := .u8, acc := .rwp, range := some (0, 1) },
    { sub := 0x02, ty := .u8, acc := .rwp, dflt := 8, range := some (0, 20) },
    { sub := 0x03, ty := .u8, acc := .rwp, range := some (0, 20) },
    { sub := 0x04, ty := .enum8, acc := .rwp, range := some (0, 1) },
    { sub := 0x05, ty := .u32, acc := .rwp, dflt := 0xC80, range := some (16, 4000000000) },
    { sub := 0x06, ty := .u8, acc := .rwp, dflt := 1, range := some (1, 255) },
    { sub := 0x07, ty := .u32, acc := .rwp, dflt := 0x40, range := some (1, 65536) },
    { sub := 0x08, ty := .enum8, acc := .rwp, range := some (0, 1) },
    { sub := 0x09, ty := .i64, acc := .ro },
    { sub := 0x0A, ty := .i64, acc := .ro },
    { sub := 0x0B, ty := .u32, acc := .ro },
    { sub := 0x0C, ty := .i64, acc := .ro },
    { sub := 0x0D, ty := .i64, acc := .ro },
    { sub := 0x0E, ty := .u32, acc := .ro },
    { sub := 0x0F, ty := .bits32, acc := .ro, w1c := 0x1F },
    { sub := 0x10, ty := .u32, acc := .ro },
    { sub := 0x11, ty := .u32, acc := .ro },
    { sub := 0x12, ty := .u32, acc := .ro },
    { sub := 0x13, ty := .u32, acc := .ro },
    { sub := 0x14, ty := .u32, acc := .ro },
    { sub := 0x15, ty := .bits32, acc := .ro },
    rowApply,
    rowState]

/-- The rows of 2220h CHANNEL (09_time_interval_unit.md). -/
def Obj.CHANNEL.rows : List ObjRow :=
  [
    rowCount 3,
    { sub := 0x01, ty := .epoch, acc := .ro },
    { sub := 0x02, ty := .u32, acc := .ro },
    { sub := 0x03, ty := .u32, acc := .ro }]

/-- The rows of 3000h RECEIVE (02_fibre_ports.md). -/
def Obj.RECEIVE.rows : List ObjRow :=
  [
    rowCount 6,
    { sub := 0x01, ty := .bits32, acc := .rwp, dflt := 3, mask := some 3 },
    { sub := 0x02, ty := .u16, acc := .rwp, dflt := 0x726, range := some (64, 2047) },
    { sub := 0x03, ty := .u8, acc := .rwp, dflt := 4, range := some (0, 7) },
    { sub := 0x04, ty := .u8, acc := .rwp, range := some (0, 7) },
    { sub := 0x05, ty := .u8, acc := .rwp, dflt := 7, range := some (0, 7) },
    { sub := 0x06, ty := .u32, acc := .rwp, range := some (0, 2560000) },
    rowApply,
    rowState]

/-- The rows of 3001h PORT_STATUS (02_fibre_ports.md). -/
def Obj.PORT_STATUS.rows : List ObjRow :=
  [
    rowCount 0xC,
    { sub := 0x01, ty := .bits32, acc := .ro, w1c := 0x10F },
    { sub := 0x02, ty := .u8, acc := .ro },
    { sub := 0x03, ty := .u16, acc := .ro },
    { sub := 0x04, ty := .u16, acc := .ro },
    { sub := 0x05, ty := .u32, acc := .ro },
    { sub := 0x06, ty := .u32, acc := .ro },
    { sub := 0x07, ty := .u32, acc := .ro },
    { sub := 0x08, ty := .i16, acc := .ro },
    { sub := 0x09, ty := .i16, acc := .ro },
    { sub := 0x0A, ty := .u16, acc := .ro },
    { sub := 0x0B, ty := .i32, acc := .ro },
    { sub := 0x0C, ty := .u32, acc := .ro }]

/-- The rows of 3002h LAUNCH (02_fibre_ports.md). -/
def Obj.LAUNCH.rows : List ObjRow :=
  [
    rowCount 6,
    { sub := 0x01, ty := .enum8, acc := .rwp, dflt := 1, range := some (0, 1) },
    { sub := 0x02, ty := .i16, acc := .rwp, dflt := 0x64, range := some (-400, 400) },
    { sub := 0x03, ty := .u8, acc := .rwp, dflt := 0xA, range := some (0, 50) },
    { sub := 0x04, ty := .enum8, acc := .rwp, range := some (0, 1) },
    { sub := 0x05, ty := .i32, acc := .rwp },
    { sub := 0x06, ty := .enum8, acc := .rwp, dflt := 1, range := some (0, 1) },
    rowApply,
    rowState]

/-- The rows of 3003h FCTL (02_fibre_ports.md). -/
def Obj.FCTL.rows : List ObjRow :=
  [
    rowCount 9,
    { sub := 0x01, ty := .u8, acc := .rwp, dflt := 2, range := some (1, 64) },
    { sub := 0x02, ty := .u8, acc := .rwp, dflt := 0x20, range := some (8, 32) },
    { sub := 0x03, ty := .enum8, acc := .rwp, range := some (0, 1) },
    { sub := 0x04, ty := .enum8, acc := .rwp, range := some (0, 1) },
    { sub := 0x05, ty := .u32, acc := .wo },
    { sub := 0x06, ty := .u8, acc := .ro },
    { sub := 0x07, ty := .u32, acc := .ro },
    { sub := 0x08, ty := .u32, acc := .ro },
    { sub := 0x09, ty := .u32, acc := .ro },
    rowApply,
    rowState]

/-- The rows of 3010h TONE_SET (02_fibre_ports.md). -/
def Obj.TONE_SET.rows : List ObjRow :=
  [
    rowCount 8,
    { sub := 0x01, ty := .bits32, acc := .rwp, dflt := 1, mask := some 0xFF },
    { sub := 0x02, ty := .enum8, acc := .rwp, range := some (0, 1) },
    { sub := 0x03, ty := .u16, acc := .rwp, dflt := 0x1CCD, range := some (1, 8191) },
    { sub := 0x04, ty := .u16, acc := .ro },
    { sub := 0x05, ty := .u16, acc := .ro },
    { sub := 0x06, ty := .u32, acc := .ro },
    { sub := 0x07, ty := .u32, acc := .ro },
    { sub := 0x08, ty := .u16, acc := .ro },
    rowApply,
    rowState]

/-- The rows of 3020h SCHEDULER (01_epoch_and_shots.md). -/
def Obj.SCHEDULER.rows : List ObjRow :=
  [
    rowCount 0x17,
    { sub := 0x01, ty := .u8, acc := .rwp, range := some (0, 1) },
    { sub := 0x02, ty := .enum8, acc := .rwp, range := some (0, 2) },
    { sub := 0x03, ty := .u32, acc := .rwp, dflt := 0x30D400, range := some (12800, 4294967295) },
    { sub := 0x04, ty := .u64, acc := .rwp },
    { sub := 0x05, ty := .u16, acc := .rwp },
    { sub := 0x06, ty := .u16, acc := .rwp, dflt := 1, range := some (1, 256) },
    { sub := 0x07, ty := .u16, acc := .rwp, dflt := 1, range := some (1, 65535) },
    { sub := 0x08, ty := .u32, acc := .rwp, dflt := 0x3E8, range := some (1, 2147483647) },
    { sub := 0x09, ty := .i32, acc := .rwp },
    { sub := 0x0A, ty := .enum8, acc := .rwp, dflt := 2, range := some (0, 2) },
    { sub := 0x0B, ty := .u32, acc := .rwp, dflt := 0x3E80 },
    { sub := 0x0C, ty := .u8, acc := .rwp, dflt := 1, range := some (1, 64) },
    { sub := 0x0D, ty := .u32, acc := .rwp, dflt := 0x640, range := some (32, 3200000) },
    { sub := 0x0E, ty := .u32, acc := .ro },
    { sub := 0x0F, ty := .u32, acc := .ro },
    { sub := 0x10, ty := .u32, acc := .ro },
    { sub := 0x11, ty := .u32, acc := .ro },
    { sub := 0x12, ty := .u32, acc := .ro },
    { sub := 0x13, ty := .u32, acc := .ro },
    { sub := 0x14, ty := .u32, acc := .ro },
    { sub := 0x15, ty := .u32, acc := .ro },
    { sub := 0x16, ty := .u32, acc := .ro },
    { sub := 0x17, ty := .u32, acc := .ro },
    rowApply,
    rowState]

/-- The rows of 3040h SHOT_ENTRY (01_epoch_and_shots.md). -/
def Obj.SHOT_ENTRY.rows : List ObjRow :=
  [
    rowCount 0xB,
    { sub := 0x01, ty := .enum8, acc := .rwp, range := some (0, 3) },
    { sub := 0x02, ty := .u16, acc := .rwp, dflt := 1, range := some (1, 65535) },
    { sub := 0x03, ty := .u32, acc := .rwp, range := some (0, 2147483647) },
    { sub := 0x04, ty := .u32, acc := .rwp },
    { sub := 0x05, ty := .u32, acc := .rwp, dflt := 0x27100, range := some (1, 2560000) },
    { sub := 0x06, ty := .u8, acc := .rwp, range := some (0, 15) },
    { sub := 0x07, ty := .u16, acc := .rwp, dflt := 0x140, range := some (0, 6400) },
    { sub := 0x08, ty := .u16, acc := .rwp, range := some (0, 6400) },
    { sub := 0x09, ty := .u16, acc := .rwp },
    { sub := 0x0A, ty := .u8, acc := .rwp },
    { sub := 0x0B, ty := .u8, acc := .rwp, dflt := 0xFF, range := some (0, 7), also := some 255 },
    rowApply,
    rowState]

/-- The rows of 3080h TONE (02_fibre_ports.md). -/
def Obj.TONE.rows : List ObjRow :=
  [
    rowCount 8,
    { sub := 0x01, ty := .u32, acc := .rwp, dflt := 0x30D40, range := some (0, 1500000) },
    { sub := 0x02, ty := .u32, acc := .rwp, range := some (0, 640000) },
    { sub := 0x03, ty := .u32, acc := .rwp, dflt := 0x140, range := some (16, 64000) },
    { sub := 0x04, ty := .enum8, acc := .rwp, range := some (0, 1) },
    { sub := 0x05, ty := .u16, acc := .rwp, dflt := 0xFFFF },
    { sub := 0x06, ty := .u16, acc := .rwp },
    { sub := 0x07, ty := .u16, acc := .ro },
    { sub := 0x08, ty := .u16, acc := .rwp }]

/-- The rows of 3800h PIPELINE (03_front_pipeline.md). -/
def Obj.PIPELINE.rows : List ObjRow :=
  [
    rowCount 0xD,
    { sub := 0x01, ty := .u8, acc := .rwp, dflt := 8, range := some (4, 160) },
    { sub := 0x02, ty := .u16, acc := .rwp, dflt := 0x10, range := some (1, 400) },
    { sub := 0x03, ty := .enum8, acc := .rwp, range := some (0, 3) },
    { sub := 0x04, ty := .enum8, acc := .rwp, range := some (0, 1) },
    { sub := 0x05, ty := .enum8, acc := .rwp, dflt := 1, range := some (0, 2) },
    { sub := 0x06, ty := .i32, acc := .rwp, range := some (0, 2000000) },
    { sub := 0x07, ty := .bits32, acc := .rwp, dflt := 1, mask := some 0xFFFF },
    { sub := 0x08, ty := .bits32, acc := .rwp, dflt := 0xFFFF, mask := some 0xFFFF },
    { sub := 0x09, ty := .u8, acc := .rwp, dflt := 3, range := some (0, 15) },
    { sub := 0x0A, ty := .enum8, acc := .rwp, range := some (0, 1) },
    { sub := 0x0B, ty := .u8, acc := .rwp, dflt := 0x10, range := some (0, 128) },
    { sub := 0x0C, ty := .u8, acc := .rwp, dflt := 0x18, range := some (1, 255) },
    { sub := 0x0D, ty := .enum8, acc := .rwp, range := some (0, 1) },
    rowApply,
    rowState]

/-- The rows of 3801h COMBINING (03_front_pipeline.md). -/
def Obj.COMBINING.rows : List ObjRow :=
  [
    rowCount 9,
    { sub := 0x01, ty := .u8, acc := .rwp, dflt := 4, range := some (1, 8) },
    { sub := 0x02, ty := .i16, acc := .rwp, range := some (-40, 80) },
    { sub := 0x03, ty := .enum8, acc := .rwp, range := some (0, 1) },
    { sub := 0x04, ty := .u16, acc := .rwp, dflt := 0x100, range := some (256, 65535) },
    { sub := 0x05, ty := .u8, acc := .rwp, dflt := 0xC8, range := some (1, 255) },
    { sub := 0x06, ty := .u8, acc := .rwp, dflt := 0x28, range := some (1, 255) },
    { sub := 0x07, ty := .u8, acc := .rwp, dflt := 0x50, range := some (1, 255) },
    { sub := 0x08, ty := .u8, acc := .rwp, dflt := 0x80, range := some (1, 255) },
    { sub := 0x09, ty := .u8, acc := .wo },
    rowApply,
    rowState]

/-- The rows of 3802h TRACKING (03_front_pipeline.md). -/
def Obj.TRACKING.rows : List ObjRow :=
  [
    rowCount 6,
    { sub := 0x01, ty := .u8, acc := .rwp, dflt := 0xC },
    { sub := 0x02, ty := .u32, acc := .rwp, dflt := 0x100 },
    { sub := 0x03, ty := .u32, acc := .rwp, dflt := 0x280, range := some (64, 640000) },
    { sub := 0x04, ty := .u16, acc := .rwp, dflt := 0x10, range := some (1, 65535) },
    { sub := 0x05, ty := .u32, acc := .rwp },
    { sub := 0x06, ty := .enum8, acc := .rwp, dflt := 1, range := some (0, 1) },
    rowApply,
    rowState]

/-- The rows of 3803h PIPE_STATUS (03_front_pipeline.md). -/
def Obj.PIPE_STATUS.rows : List ObjRow :=
  [
    rowCount 0xF,
    { sub := 0x01, ty := .bits32, acc := .ro, w1c := 0x382 },
    { sub := 0x02, ty := .u32, acc := .ro },
    { sub := 0x03, ty := .u32, acc := .ro },
    { sub := 0x04, ty := .u32, acc := .ro },
    { sub := 0x05, ty := .u32, acc := .ro },
    { sub := 0x06, ty := .u32, acc := .ro },
    { sub := 0x07, ty := .u32, acc := .ro },
    { sub := 0x08, ty := .u64, acc := .ro },
    { sub := 0x09, ty := .u32, acc := .ro },
    { sub := 0x0A, ty := .u64, acc := .ro },
    { sub := 0x0B, ty := .u32, acc := .ro },
    { sub := 0x0C, ty := .u32, acc := .ro },
    { sub := 0x0D, ty := .u32, acc := .ro },
    { sub := 0x0E, ty := .u64, acc := .ro },
    { sub := 0x0F, ty := .u32, acc := .ro }]

/-- The rows of 3810h TONE_PLAN (03_front_pipeline.md). -/
def Obj.TONE_PLAN.rows : List ObjRow :=
  [
    rowCount 8,
    { sub := 0x01, ty := .u8, acc := .ro },
    { sub := 0x02, ty := .u8, acc := .ro },
    { sub := 0x03, ty := .u16, acc := .ro },
    { sub := 0x04, ty := .u16, acc := .ro },
    { sub := 0x05, ty := .u32, acc := .ro },
    { sub := 0x06, ty := .u16, acc := .ro },
    { sub := 0x07, ty := .u32, acc := .ro },
    { sub := 0x08, ty := .u8, acc := .ro }]

/-- The rows of 3820h BRANCH (03_front_pipeline.md). -/
def Obj.BRANCH.rows : List ObjRow :=
  [
    rowCount 5,
    { sub := 0x01, ty := .u32, acc := .ro },
    { sub := 0x02, ty := .i16, acc := .ro },
    { sub := 0x03, ty := .u8, acc := .ro },
    { sub := 0x04, ty := .u16, acc := .ro },
    { sub := 0x05, ty := .u8, acc := .ro }]

/-- The rows of 4000h RAMAN (04_raman_and_brillouin.md). -/
def Obj.RAMAN.rows : List ObjRow :=
  [
    rowCount 0x14,
    { sub := 0x01, ty := .u8, acc := .rwp, dflt := 2, range := some (1, 64) },
    { sub := 0x02, ty := .u16, acc := .rwp, range := some (0, 1000) },
    { sub := 0x03, ty := .enum8, acc := .rwp, range := some (0, 1) },
    { sub := 0x04, ty := .f32, acc := .rwp, dflt := 0x441E6000 },
    { sub := 0x05, ty := .f32, acc := .rwp },
    { sub := 0x06, ty := .f32, acc := .rwp },
    { sub := 0x07, ty := .enum8, acc := .rwp, range := some (0, 2) },
    { sub := 0x08, ty := .u32, acc := .rwp },
    { sub := 0x09, ty := .u32, acc := .rwp },
    { sub := 0x0A, ty := .u8, acc := .rwp, dflt := 0xFF, range := some (0, 7), also := some 255 },
    { sub := 0x0B, ty := .u32, acc := .rwp },
    { sub := 0x0C, ty := .u32, acc := .rwp },
    { sub := 0x0D, ty := .u8, acc := .rwp, dflt := 0xFF, range := some (0, 7), also := some 255 },
    { sub := 0x0E, ty := .u16, acc := .rwp, dflt := 0x7D0, range := some (10, 60000) },
    { sub := 0x0F, ty := .u8, acc := .rwp, dflt := 1, range := some (1, 64) },
    { sub := 0x10, ty := .u16, acc := .rwp, dflt := 8, range := some (1, 65535) },
    { sub := 0x11, ty := .u8, acc := .rwp, dflt := 0x18 },
    { sub := 0x12, ty := .u8, acc := .rwp, dflt := 0xFF },
    { sub := 0x13, ty := .u32, acc := .rwp },
    { sub := 0x14, ty := .u32, acc := .rwp, dflt := 0xEA60 },
    rowApply,
    rowState]

/-- The rows of 4001h RAMAN_STATUS (04_raman_and_brillouin.md). -/
def Obj.RAMAN_STATUS.rows : List ObjRow :=
  [
    rowCount 0xC,
    { sub := 0x01, ty := .bits32, acc := .ro, w1c := 0xE7 },
    { sub := 0x02, ty := .f32, acc := .ro },
    { sub := 0x03, ty := .f32, acc := .ro },
    { sub := 0x04, ty := .i32, acc := .ro },
    { sub := 0x05, ty := .i32, acc := .ro },
    { sub := 0x06, ty := .i32, acc := .ro },
    { sub := 0x07, ty := .i32, acc := .ro },
    { sub := 0x08, ty := .u32, acc := .ro },
    { sub := 0x09, ty := .u32, acc := .ro },
    { sub := 0x0A, ty := .u32, acc := .ro },
    { sub := 0x0B, ty := .u32, acc := .ro },
    { sub := 0x0C, ty := .u32, acc := .ro }]

/-- The rows of 4010h AVG_SET (04_raman_and_brillouin.md). -/
def Obj.AVG_SET.rows : List ObjRow :=
  [
    rowCount 6,
    { sub := 0x01, ty := .u32, acc := .rwp, dflt := 0x400, range := some (1, 65536) },
    { sub := 0x02, ty := .u32, acc := .ro },
    { sub := 0x03, ty := .u32, acc := .ro },
    { sub := 0x04, ty := .epoch, acc := .ro },
    { sub := 0x05, ty := .u32, acc := .ro },
    { sub := 0x06, ty := .u32, acc := .ro },
    rowApply,
    rowState]

/-- The rows of 4800h BRILLOUIN (04_raman_and_brillouin.md). -/
def Obj.BRILLOUIN.rows : List ObjRow :=
  [
    rowCount 5,
    { sub := 0x01, ty := .u16, acc := .rwp, dflt := 0x10, range := some (2, 1024) },
    { sub := 0x02, ty := .u8, acc := .rwp, dflt := 8, range := some (0, 31) },
    { sub := 0x03, ty := .bits32, acc := .rwp, dflt := 0xFFFF, mask := some 0xFFFF },
    { sub := 0x04, ty := .u32, acc := .rwp, dflt := 0x7D0, range := some (0, 4000) },
    { sub := 0x05, ty := .u8, acc := .wo },
    rowApply,
    rowState]

/-- The rows of 4801h BRIL_STATUS (04_raman_and_brillouin.md). -/
def Obj.BRIL_STATUS.rows : List ObjRow :=
  [
    rowCount 0xB,
    { sub := 0x01, ty := .bits32, acc := .ro, w1c := 0x1E },
    { sub := 0x02, ty := .u32, acc := .ro },
    { sub := 0x03, ty := .u16, acc := .ro },
    { sub := 0x04, ty := .u16, acc := .ro },
    { sub := 0x05, ty := .u8, acc := .ro },
    { sub := 0x06, ty := .u64, acc := .ro },
    { sub := 0x07, ty := .u64, acc := .ro },
    { sub := 0x08, ty := .u32, acc := .ro },
    { sub := 0x09, ty := .u32, acc := .ro },
    { sub := 0x0A, ty := .u32, acc := .ro },
    { sub := 0x0B, ty := .u32, acc := .ro }]

/-- The rows of 4810h SWEEP_PROGRAM (04_raman_and_brillouin.md). -/
def Obj.SWEEP_PROGRAM.rows : List ObjRow :=
  [
    rowCount 7,
    { sub := 0x01, ty := .u32, acc := .rwp, dflt := 0xA344E0 },
    { sub := 0x02, ty := .i32, acc := .rwp, dflt := 0x7D0 },
    { sub := 0x03, ty := .u16, acc := .rwp, dflt := 0x65, range := some (1, 1024) },
    { sub := 0x04, ty := .u16, acc := .rwp, dflt := 0x40, range := some (1, 65535) },
    { sub := 0x05, ty := .u8, acc := .rwp, dflt := 2, range := some (0, 255) },
    { sub := 0x06, ty := .u32, acc := .rwp },
    { sub := 0x07, ty := .u32, acc := .rwp },
    rowApply,
    rowState]

/-- The rows of 5000h ARRAY (05_stall_array.md). -/
def Obj.ARRAY.rows : List ObjRow :=
  [
    rowCount 8,
    { sub := 0x01, ty := .u8, acc := .ro },
    { sub := 0x02, ty := .u8, acc := .ro, dflt := 0x84 },
    { sub := 0x03, ty := .u8, acc := .ro },
    { sub := 0x04, ty := .u32, acc := .ro },
    { sub := 0x05, ty := .u32, acc := .ro },
    { sub := 0x06, ty := .u16, acc := .ro },
    { sub := 0x07, ty := .u8, acc := .rwp, dflt := 4, range := some (4, 16) },
    { sub := 0x08, ty := .bits32, acc := .ro },
    rowApply,
    rowState]

/-- The rows of 5010h STALL (05_stall_array.md). -/
def Obj.STALL.rows : List ObjRow :=
  [
    rowCount 8,
    { sub := 0x01, ty := .enum8, acc := .ro },
    { sub := 0x02, ty := .u8, acc := .ro, dflt := 0xFF },
    { sub := 0x03, ty := .bits32, acc := .ro },
    { sub := 0x04, ty := .u32, acc := .ro },
    { sub := 0x05, ty := .u32, acc := .ro },
    { sub := 0x06, ty := .u32, acc := .ro },
    { sub := 0x07, ty := .u32, acc := .ro },
    { sub := 0x08, ty := .u8, acc := .ro }]

/-- The rows of 5110h PROGRAM_SLOT (05_stall_array.md). -/
def Obj.PROGRAM_SLOT.rows : List ObjRow :=
  [
    rowCount 9,
    { sub := 0x01, ty := .blob, acc := .wo },
    { sub := 0x02, ty := .u32, acc := .rwp },
    { sub := 0x03, ty := .u32, acc := .ro },
    { sub := 0x04, ty := .u32, acc := .ro },
    { sub := 0x05, ty := .u32, acc := .rwp },
    { sub := 0x06, ty := .u32, acc := .rwp },
    { sub := 0x07, ty := .u8, acc := .ro },
    { sub := 0x08, ty := .u16, acc := .ro },
    { sub := 0x09, ty := .u8, acc := .ro },
    rowApply,
    rowState]

/-- The rows of 5140h PITCH (05_stall_array.md). -/
def Obj.PITCH.rows : List ObjRow :=
  [
    rowCount 0x13,
    { sub := 0x01, ty := .u8, acc := .rwp, range := some (0, 1) },
    { sub := 0x02, ty := .u8, acc := .rwp, range := some (0, 7) },
    { sub := 0x03, ty := .enum8, acc := .rwp, range := some (0, 2) },
    { sub := 0x04, ty := .bits32, acc := .rwp, dflt := 1, mask := some 0xFFFF },
    { sub := 0x05, ty := .u32, acc := .rwp },
    { sub := 0x06, ty := .u32, acc := .rwp, dflt := 0x400, range := some (1, 65536) },
    { sub := 0x07, ty := .u16, acc := .rwp },
    { sub := 0x08, ty := .u16, acc := .rwp },
    { sub := 0x09, ty := .u8, acc := .rwp, range := some (0, 15) },
    { sub := 0x0A, ty := .blob, acc := .rwp },
    { sub := 0x0B, ty := .u16, acc := .ro, dflt := 0xFFFF },
    { sub := 0x0C, ty := .u8, acc := .ro },
    { sub := 0x0D, ty := .u32, acc := .ro },
    { sub := 0x0E, ty := .u32, acc := .ro },
    { sub := 0x0F, ty := .u32, acc := .ro },
    { sub := 0x10, ty := .u32, acc := .ro },
    { sub := 0x11, ty := .u32, acc := .ro },
    { sub := 0x12, ty := .bits32, acc := .ro },
    { sub := 0x13, ty := .u32, acc := .ro },
    rowApply,
    rowState]

/-- The rows of 5200h REGION (07_capture_and_triggers.md). -/
def Obj.REGION.rows : List ObjRow :=
  [
    rowCount 0x18,
    { sub := 0x01, ty := .enum8, acc := .rwp, range := some (0, 2) },
    { sub := 0x02, ty := .u8, acc := .rwp, range := some (0, 7) },
    { sub := 0x03, ty := .enum8, acc := .rwp, range := some (0, 1) },
    { sub := 0x04, ty := .bits32, acc := .rwp, dflt := 1, mask := some 0xFFFF },
    { sub := 0x05, ty := .u32, acc := .rwp },
    { sub := 0x06, ty := .u32, acc := .rwp, dflt := 0x100, range := some (1, 65536) },
    { sub := 0x07, ty := .u16, acc := .rwp, dflt := 0x40, range := some (2, 4096) },
    { sub := 0x08, ty := .u32, acc := .rwp, range := some (0, 60000000) },
    { sub := 0x09, ty := .u8, acc := .rwp, dflt := 0xFF },
    { sub := 0x0A, ty := .u8, acc := .rwp, dflt := 0xFF },
    { sub := 0x0B, ty := .i32, acc := .rwp },
    { sub := 0x0C, ty := .u16, acc := .rwp, range := some (0, 4095) },
    { sub := 0x0D, ty := .u16, acc := .rwp, dflt := 1, range := some (1, 65535) },
    { sub := 0x0E, ty := .i32, acc := .rwp },
    { sub := 0x0F, ty := .enum8, acc := .ro },
    { sub := 0x10, ty := .bits32, acc := .ro, w1c := 0x1F },
    { sub := 0x11, ty := .u32, acc := .ro },
    { sub := 0x12, ty := .u32, acc := .ro },
    { sub := 0x13, ty := .u32, acc := .ro },
    { sub := 0x14, ty := .u32, acc := .ro },
    { sub := 0x15, ty := .u32, acc := .ro },
    { sub := 0x16, ty := .u16, acc := .ro },
    { sub := 0x17, ty := .u32, acc := .ro },
    { sub := 0x18, ty := .u32, acc := .ro },
    rowApply,
    rowState]

/-- The rows of 5280h CAPTURE (07_capture_and_triggers.md). -/
def Obj.CAPTURE.rows : List ObjRow :=
  [
    rowCount 0xC,
    { sub := 0x01, ty := .u32, acc := .rwp, dflt := 0x40, range := some (1, 4096) },
    { sub := 0x02, ty := .u32, acc := .ro },
    { sub := 0x03, ty := .u32, acc := .ro },
    { sub := 0x04, ty := .u32, acc := .ro },
    { sub := 0x05, ty := .u32, acc := .ro },
    { sub := 0x06, ty := .u32, acc := .ro },
    { sub := 0x07, ty := .u32, acc := .ro },
    { sub := 0x08, ty := .u8, acc := .wo },
    { sub := 0x09, ty := .u16, acc := .wo },
    { sub := 0x0A, ty := .u32, acc := .ro },
    { sub := 0x0B, ty := .bits32, acc := .ro, w1c := 1 },
    { sub := 0x0C, ty := .u32, acc := .ro },
    rowApply,
    rowState]

/-- The rows of 5300h CONDITIONS (07_capture_and_triggers.md). -/
def Obj.CONDITIONS.rows : List ObjRow :=
  [
    rowCount 0x88,
    { sub := 0x01, ty := .enum8, acc := .rwp, rep := 8, stride := 16, range := some (0, 7) },
    { sub := 0x02, ty := .u8, acc := .rwp, rep := 8, stride := 16, mask := some 0x83 },
    { sub := 0x03, ty := .u32, acc := .rwp, rep := 8, stride := 16 },
    { sub := 0x04, ty := .u16, acc := .rwp, rep := 8, stride := 16, dflt := 1, range := some (1, 4096) },
    { sub := 0x05, ty := .i32, acc := .rwp, rep := 8, stride := 16 },
    { sub := 0x06, ty := .i32, acc := .rwp, rep := 8, stride := 16 },
    { sub := 0x07, ty := .u32, acc := .rwp, rep := 8, stride := 16, dflt := 1 },
    { sub := 0x08, ty := .u32, acc := .rwp, rep := 8, stride := 16, dflt := 1 },
    { sub := 0x09, ty := .u8, acc := .rwp, rep := 8, stride := 16, dflt := 0x18, range := some (1, 255) },
    { sub := 0x0A, ty := .u16, acc := .rwp, rep := 8, stride := 16, range := some (0, 4095) },
    { sub := 0x0B, ty := .u16, acc := .rwp, rep := 8, stride := 16, dflt := 1, range := some (1, 65535) },
    { sub := 0x0C, ty := .i32, acc := .rwp, rep := 8, stride := 16 },
    { sub := 0x0D, ty := .u32, acc := .rwp, rep := 8, stride := 16, mask := some 0x1FFFFFFF },
    { sub := 0x0E, ty := .u32, acc := .rwp, rep := 8, stride := 16, dflt := 0x1FFFFFFF, mask := some 0x1FFFFFFF },
    { sub := 0x0F, ty := .u16, acc := .rwp, rep := 8, stride := 16, mask := some 0x7FFF },
    { sub := 0x81, ty := .u32, acc := .ro, rep := 8 },
    rowApply,
    rowState]

/-- The rows of 6000h STREAM (11_streams_and_ethernet.md). -/
def Obj.STREAM.rows : List ObjRow :=
  [
    rowCount 0x1D,
    { sub := 0x01, ty := .u8, acc := .rwp, level := 1, range := some (0, 1) },
    { sub := 0x02, ty := .enum8, acc := .rwp, level := 1, range := some (0, 3) },
    { sub := 0x03, ty := .u8, acc := .rwp, level := 1, range := some (0, 7) },
    { sub := 0x04, ty := .u8, acc := .rwp, level := 1, range := some (0, 15) },
    { sub := 0x05, ty := .u8, acc := .rwp, level := 1, range := some (0, 3) },
    { sub := 0x06, ty := .u64, acc := .rwp, level := 1, dflt := 1 },
    { sub := 0x07, ty := .u32, acc := .rwp, level := 1 },
    { sub := 0x08, ty := .u32, acc := .rwp, level := 1 },
    { sub := 0x09, ty := .u16, acc := .rwp, level := 1, dflt := 1, range := some (1, 65535) },
    { sub := 0x0A, ty := .u16, acc := .rwp, level := 1, dflt := 0x64, range := some (1, 10000) },
    { sub := 0x0B, ty := .enum8, acc := .rwp, level := 1, range := some (0, 2) },
    { sub := 0x0C, ty := .u32, acc := .rwp, level := 1 },
    { sub := 0x0D, ty := .u16, acc := .rwp, level := 1, dflt := 0x14, range := some (1, 1000) },
    { sub := 0x0E, ty := .enum8, acc := .rwp, level := 1, range := some (0, 1) },
    { sub := 0x0F, ty := .u16, acc := .rwp, level := 1, dflt := 0x5C0 },
    { sub := 0x10, ty := .blob, acc := .rwp, level := 1 },
    { sub := 0x11, ty := .u16, acc := .rwp, level := 1, dflt := 0xBA01 },
    { sub := 0x12, ty := .u8, acc := .rwp, level := 1, range := some (0, 3), also := some 255 },
    { sub := 0x13, ty := .u16, acc := .ro },
    { sub := 0x14, ty := .u8, acc := .ro },
    { sub := 0x15, ty := .enum8, acc := .ro },
    { sub := 0x16, ty := .u32, acc := .ro },
    { sub := 0x17, ty := .u32, acc := .ro },
    { sub := 0x18, ty := .u32, acc := .ro },
    { sub := 0x19, ty := .u32, acc := .ro },
    { sub := 0x1A, ty := .u32, acc := .ro },
    { sub := 0x1B, ty := .u32, acc := .ro },
    { sub := 0x1C, ty := .u32, acc := .ro },
    { sub := 0x1D, ty := .u32, acc := .ro }] ++ [
    { sub := 0xFE, ty := .u8, acc := .wo, level := 1 },
    rowState]

/-- The rows of 6100h COMPRESSION (12_bale_compression.md). -/
def Obj.COMPRESSION.rows : List ObjRow :=
  [
    rowCount 0x17,
    { sub := 0x01, ty := .u8, acc := .rwp, dflt := 2, range := some (1, 4) },
    { sub := 0x02, ty := .u32, acc := .ro },
    { sub := 0x03, ty := .u64, acc := .ro },
    { sub := 0x04, ty := .u64, acc := .ro },
    { sub := 0x05, ty := .u32, acc := .ro },
    { sub := 0x06, ty := .u32, acc := .ro },
    { sub := 0x07, ty := .u32, acc := .ro },
    { sub := 0x08, ty := .u32, acc := .ro },
    { sub := 0x09, ty := .enum8, acc := .ro },
    { sub := 0x0A, ty := .enum8, acc := .ro },
    { sub := 0x0B, ty := .u32, acc := .ro },
    { sub := 0x0C, ty := .u32, acc := .ro, rep := 4 },
    { sub := 0x10, ty := .u32, acc := .ro, rep := 8 },
    rowApply,
    rowState]

/-- The rows of 6200h AGGON (14_aggon_and_twins.md). -/
def Obj.AGGON.rows : List ObjRow :=
  [
    rowCount 0x5C,
    { sub := 0x01, ty := .u16, acc := .rwp, range := some (0, 2047) },
    { sub := 0x02, ty := .u16, acc := .rwp },
    { sub := 0x03, ty := .u16, acc := .rwp },
    { sub := 0x04, ty := .bits32, acc := .rwp, dflt := 0xF, mask := some 0xF },
    { sub := 0x05, ty := .u16, acc := .rwp },
    { sub := 0x06, ty := .u16, acc := .ro },
    { sub := 0x07, ty := .u8, acc := .ro },
    { sub := 0x08, ty := .u8, acc := .ro, dflt := 0xFF },
    { sub := 0x09, ty := .u16, acc := .ro, dflt := 1 },
    { sub := 0x0A, ty := .u8, acc := .ro },
    { sub := 0x0B, ty := .u32, acc := .ro },
    { sub := 0x0C, ty := .bits32, acc := .ro },
    { sub := 0x21, ty := .i32, acc := .rwp, rep := 4, stride := 16 },
    { sub := 0x22, ty := .enum8, acc := .ro, rep := 4, stride := 16 },
    { sub := 0x23, ty := .u16, acc := .ro, rep := 4, stride := 16, dflt := 0xFFFF },
    { sub := 0x24, ty := .u8, acc := .ro, rep := 4, stride := 16 },
    { sub := 0x25, ty := .u8, acc := .ro, rep := 4, stride := 16 },
    { sub := 0x26, ty := .u32, acc := .ro, rep := 4, stride := 16 },
    { sub := 0x27, ty := .i64, acc := .ro, rep := 4, stride := 16 },
    { sub := 0x28, ty := .u32, acc := .ro, rep := 4, stride := 16 },
    { sub := 0x29, ty := .u32, acc := .ro, rep := 4, stride := 16 },
    { sub := 0x2A, ty := .u32, acc := .ro, rep := 4, stride := 16 },
    { sub := 0x2B, ty := .u32, acc := .ro, rep := 4, stride := 16 },
    { sub := 0x2C, ty := .bits32, acc := .ro, rep := 4, stride := 16, w1c := 1 },
    rowApply,
    rowState]

/-- The rows of 6300h TWIN (14_aggon_and_twins.md). -/
def Obj.TWIN.rows : List ObjRow :=
  [
    rowCount 0x37,
    { sub := 0x01, ty := .enum8, acc := .rwp, range := some (0, 1) },
    { sub := 0x02, ty := .u16, acc := .rwp },
    { sub := 0x03, ty := .bits32, acc := .rwp, mask := some 0xFF },
    { sub := 0x04, ty := .bits32, acc := .rwp, mask := some 0xF },
    { sub := 0x05, ty := .u8, acc := .rwp, range := some (0, 1) },
    { sub := 0x06, ty := .u64, acc := .rwp },
    { sub := 0x07, ty := .u16, acc := .rwp, dflt := 1, range := some (1, 4095) },
    { sub := 0x08, ty := .u16, acc := .rwp, dflt := 0x1F4, range := some (200, 10000) },
    { sub := 0x09, ty := .bits32, acc := .rwp, mask := some 0xFF },
    { sub := 0x0A, ty := .enum8, acc := .rwp, dflt := 1, range := some (0, 1) },
    { sub := 0x0B, ty := .u32, acc := .rwp, dflt := 0x400, range := some (1, 1000000) },
    { sub := 0x0C, ty := .u8, acc := .wo },
    { sub := 0x0D, ty := .enum8, acc := .ro },
    { sub := 0x0E, ty := .u32, acc := .ro },
    { sub := 0x0F, ty := .u32, acc := .ro },
    { sub := 0x10, ty := .bits32, acc := .ro },
    { sub := 0x11, ty := .u32, acc := .ro },
    { sub := 0x12, ty := .epoch, acc := .ro },
    { sub := 0x13, ty := .u32, acc := .ro },
    { sub := 0x14, ty := .u32, acc := .ro },
    { sub := 0x15, ty := .u32, acc := .ro },
    { sub := 0x16, ty := .u32, acc := .ro },
    { sub := 0x30, ty := .u32, acc := .rwp, rep := 8 },
    rowApply,
    rowState]

/-- The rows of 7000h SFE (15_plant_interfaces.md). -/
def Obj.SFE.rows : List ObjRow :=
  [
    rowCount 0x75,
    { sub := 0x01, ty := .bits32, acc := .rwp, mask := some 0xFF },
    { sub := 0x02, ty := .enum8, acc := .rwp, range := some (0, 1) },
    { sub := 0x03, ty := .enum8, acc := .rwp, dflt := 1, range := some (0, 2) },
    { sub := 0x04, ty := .u8, acc := .rwp, dflt := 8, range := some (1, 64) },
    { sub := 0x05, ty := .u8, acc := .rwp, dflt := 2, range := some (1, 16) },
    { sub := 0x06, ty := .u16, acc := .rwp, dflt := 0x3E8, range := some (100, 60000), also := some 0 },
    { sub := 0x07, ty := .u16, acc := .rwp, dflt := 0xC8, range := some (10, 10000) },
    { sub := 0x08, ty := .u8, acc := .rwp, dflt := 0x40 },
    { sub := 0x09, ty := .bits32, acc := .ro },
    { sub := 0x0A, ty := .u32, acc := .ro },
    { sub := 0x0B, ty := .u32, acc := .ro },
    { sub := 0x10, ty := .enum8, acc := .rwp, rep := 8, dflt := 1, range := some (0, 13) },
    { sub := 0x18, ty := .enum8, acc := .rwp, rep := 8, range := some (0, 2) },
    { sub := 0x20, ty := .u8, acc := .rwp, rep := 8, dflt := 0xFF, range := some (0, 7), also := some 255 },
    { sub := 0x28, ty := .enum8, acc := .rwp, rep := 8, dflt := 2, range := some (0, 2) },
    { sub := 0x30, ty := .i32, acc := .ro, rep := 8 },
    { sub := 0x38, ty := .u32, acc := .ro, rep := 8 },
    { sub := 0x40, ty := .epoch, acc := .ro, rep := 8 },
    { sub := 0x48, ty := .u16, acc := .ro, rep := 8 },
    { sub := 0x50, ty := .u32, acc := .ro, rep := 8 },
    { sub := 0x58, ty := .u32, acc := .ro, rep := 8 },
    { sub := 0x60, ty := .f32, acc := .rwp, rep := 4, stride := 4, dflt := 0x42C80000 },
    { sub := 0x61, ty := .f32, acc := .rwp, rep := 4, stride := 4, dflt := 0x3B801132 },
    { sub := 0x62, ty := .f32, acc := .rwp, rep := 4, stride := 4, dflt := 0xB51B057F },
    { sub := 0x63, ty := .f32, acc := .rwp, rep := 4, stride := 4, dflt := 0xAC932D1D },
    { sub := 0x70, ty := .f32, acc := .rwp, rep := 2, stride := 3 },
    { sub := 0x71, ty := .f32, acc := .rwp, rep := 2, stride := 3 },
    { sub := 0x72, ty := .f32, acc := .rwp, rep := 2, stride := 3 },
    rowApply] ++ [
    rowState]

/-- The rows of 7100h LOOP (15_plant_interfaces.md). -/
def Obj.LOOP.rows : List ObjRow :=
  [
    rowCount 0x6F,
    { sub := 0x01, ty := .u32, acc := .ro },
    { sub := 0x10, ty := .enum8, acc := .rwp, rep := 8, range := some (0, 3) },
    { sub := 0x18, ty := .u8, acc := .rwp, rep := 8, range := some (0, 7) },
    { sub := 0x20, ty := .i32, acc := .rwp, rep := 8 },
    { sub := 0x28, ty := .i32, acc := .rwp, rep := 8, dflt := 0x64000 },
    { sub := 0x30, ty := .enum8, acc := .rwp, rep := 8, range := some (0, 2) },
    { sub := 0x38, ty := .u16, acc := .rwp, rep := 8, dflt := 0x3E8, range := some (10, 60000) },
    { sub := 0x40, ty := .u16, acc := .rwp, rep := 8, dflt := 0xFA0, range := some (3600, 21000) },
    { sub := 0x48, ty := .u16, acc := .rwp, rep := 8, dflt := 0x1388, range := some (1000, 25000) },
    { sub := 0x50, ty := .u16, acc := .ro, rep := 8 },
    { sub := 0x58, ty := .u16, acc := .ro, rep := 8 },
    { sub := 0x60, ty := .u8, acc := .ro, rep := 8 },
    { sub := 0x68, ty := .u32, acc := .ro, rep := 8 },
    rowApply,
    rowState]

/-- The rows of 7200h SINK (15_plant_interfaces.md). -/
def Obj.SINK.rows : List ObjRow :=
  [
    rowCount 0x9F,
    { sub := 0x01, ty := .u16, acc := .rwp, dflt := 0xFFFF },
    { sub := 0x02, ty := .u8, acc := .rwp, dflt := 2, range := some (1, 20) },
    { sub := 0x03, ty := .u16, acc := .rwp, dflt := 0x3E8, range := some (100, 60000) },
    { sub := 0x04, ty := .bits32, acc := .ro },
    { sub := 0x05, ty := .u16, acc := .ro, dflt := 0xFFFF },
    { sub := 0x06, ty := .u16, acc := .ro },
    { sub := 0x07, ty := .bits32, acc := .wo, mask := some 0xFFFF },
    { sub := 0x10, ty := .u16, acc := .rwp, rep := 16, range := some (0, 50000) },
    { sub := 0x20, ty := .enum8, acc := .rwp, rep := 16, range := some (0, 2) },
    { sub := 0x30, ty := .enum8, acc := .rwp, rep := 16, dflt := 1, range := some (0, 1) },
    { sub := 0x40, ty := .enum8, acc := .rwp, rep := 16, range := some (0, 1) },
    { sub := 0x50, ty := .u8, acc := .ro, rep := 16 },
    { sub := 0x60, ty := .u16, acc := .ro, rep := 16 },
    { sub := 0x70, ty := .u16, acc := .ro, rep := 16 },
    { sub := 0x80, ty := .u32, acc := .ro, rep := 16 },
    { sub := 0x90, ty := .u32, acc := .ro, rep := 16 },
    rowApply,
    rowState]

/-- The rows of 7300h CHAIN (15_plant_interfaces.md). -/
def Obj.CHAIN.rows : List ObjRow :=
  [
    rowCount 0xC,
    { sub := 0x01, ty := .enum8, acc := .rwp, range := some (0, 1) },
    { sub := 0x02, ty := .u16, acc := .rwp, dflt := 8, range := some (8, 1024) },
    { sub := 0x03, ty := .u8, acc := .rwp, dflt := 4, range := some (2, 255) },
    { sub := 0x04, ty := .u16, acc := .rwp, dflt := 0x64, range := some (10, 60000), also := some 0 },
    { sub := 0x05, ty := .u8, acc := .rwp, dflt := 2, range := some (0, 7) },
    { sub := 0x06, ty := .blob, acc := .rwp },
    { sub := 0x07, ty := .blob, acc := .rwp },
    { sub := 0x08, ty := .blob, acc := .ro },
    { sub := 0x09, ty := .bits32, acc := .ro },
    { sub := 0x0A, ty := .u32, acc := .ro },
    { sub := 0x0B, ty := .u32, acc := .ro },
    { sub := 0x0C, ty := .u32, acc := .ro },
    rowApply,
    rowState]

/-- The rows of 7800h CALIBRATION (16_calibration_and_flash.md). -/
def Obj.CALIBRATION.rows : List ObjRow :=
  [
    rowCount 7,
    { sub := 0x01, ty := .bits32, acc := .rwp, mask := some 0x1F },
    { sub := 0x02, ty := .u8, acc := .rwp, dflt := 0xA, range := some (2, 50) },
    { sub := 0x03, ty := .u16, acc := .rwp, range := some (0, 8760) },
    { sub := 0x04, ty := .u32, acc := .rwp, dflt := 0x2710, range := some (1000, 600000) },
    { sub := 0x05, ty := .u8, acc := .rwp, range := some (0, 15) },
    { sub := 0x06, ty := .u32, acc := .rwp, dflt := 0x27100, range := some (16000, 2560000) },
    { sub := 0x07, ty := .bits32, acc := .ro },
    rowApply,
    rowState]

/-- The rows of 7810h CAL_TARGET (16_calibration_and_flash.md). -/
def Obj.CAL_TARGET.rows : List ObjRow :=
  [
    rowCount 9,
    { sub := 0x01, ty := .u8, acc := .wo },
    { sub := 0x02, ty := .enum8, acc := .ro },
    { sub := 0x03, ty := .i32, acc := .ro },
    { sub := 0x04, ty := .u32, acc := .ro },
    { sub := 0x05, ty := .epoch, acc := .ro },
    { sub := 0x06, ty := .u32, acc := .ro },
    { sub := 0x07, ty := .u32, acc := .ro },
    { sub := 0x08, ty := .i16, acc := .ro },
    { sub := 0x09, ty := .enum8, acc := .ro }]

/-- The rows of 7840h RX_TRIMS (16_calibration_and_flash.md). -/
def Obj.RX_TRIMS.rows : List ObjRow :=
  [
    rowCount 6,
    { sub := 0x01, ty := .blob, acc := .ro },
    { sub := 0x02, ty := .blob, acc := .ro },
    { sub := 0x03, ty := .blob, acc := .ro },
    { sub := 0x04, ty := .blob, acc := .ro },
    { sub := 0x05, ty := .blob, acc := .ro },
    { sub := 0x06, ty := .enum8, acc := .ro }]

/-- The rows of 7900h FLASH (16_calibration_and_flash.md). -/
def Obj.FLASH.rows : List ObjRow :=
  [
    rowCount 0xB,
    { sub := 0x01, ty := .bits32, acc := .ro, w1c := 4 },
    { sub := 0x02, ty := .u32, acc := .ro },
    { sub := 0x03, ty := .u32, acc := .ro },
    { sub := 0x04, ty := .u32, acc := .ro },
    { sub := 0x05, ty := .u32, acc := .ro },
    { sub := 0x06, ty := .u32, acc := .ro },
    { sub := 0x07, ty := .u32, acc := .ro },
    { sub := 0x08, ty := .u32, acc := .ro },
    { sub := 0x09, ty := .bits32, acc := .ro },
    { sub := 0x0A, ty := .bits32, acc := .ro },
    { sub := 0x0B, ty := .epoch, acc := .ro }]

/-- The rows of 7A00h HEALTH (17_startup_security_debug.md). -/
def Obj.HEALTH.rows : List ObjRow :=
  [
    rowCount 0x1F,
    { sub := 0x01, ty := .bits32, acc := .ro, w1c := 0x34 },
    { sub := 0x02, ty := .enum8, acc := .ro },
    { sub := 0x03, ty := .enum8, acc := .ro },
    { sub := 0x04, ty := .u32, acc := .ro },
    { sub := 0x05, ty := .u32, acc := .ro },
    { sub := 0x06, ty := .i16, acc := .ro },
    { sub := 0x07, ty := .i16, acc := .ro },
    { sub := 0x08, ty := .i16, acc := .ro },
    { sub := 0x09, ty := .i16, acc := .ro },
    { sub := 0x0A, ty := .i16, acc := .rwp, dflt := 0x41A, range := some (700, 1200) },
    { sub := 0x0B, ty := .bits32, acc := .ro },
    { sub := 0x0C, ty := .bits32, acc := .ro, w1c := 0xFF },
    { sub := 0x0D, ty := .u32, acc := .ro },
    { sub := 0x0E, ty := .u32, acc := .ro },
    { sub := 0x0F, ty := .enum8, acc := .ro },
    { sub := 0x10, ty := .u32, acc := .ro },
    { sub := 0x11, ty := .u32, acc := .ro },
    { sub := 0x12, ty := .u16, acc := .ro },
    { sub := 0x13, ty := .blob, acc := .wo, level := 3 },
    { sub := 0x14, ty := .enum8, acc := .ro },
    { sub := 0x15, ty := .enum8, acc := .wo, level := 3, range := some (1, 2) },
    { sub := 0x16, ty := .u8, acc := .wo, level := 3 },
    { sub := 0x17, ty := .u16, acc := .rwp, dflt := 0x258, range := some (10, 3600), also := some 0 },
    { sub := 0x18, ty := .u8, acc := .ro },
    { sub := 0x19, ty := .u8, acc := .wo, level := 3 },
    { sub := 0x1A, ty := .u32, acc := .wo, level := 3 },
    { sub := 0x1B, ty := .blob, acc := .rwp, level := 3 },
    { sub := 0x1C, ty := .enum8, acc := .ro },
    { sub := 0x1D, ty := .u32, acc := .ro }] ++ [
    { sub := 0x1E, ty := .u8, acc := .wo },
    { sub := 0x1F, ty := .u32, acc := .ro },
    rowApply,
    rowState]

/-- The rows of 7A40h MEMORY (10_memory_and_integrity.md). -/
def Obj.MEMORY.rows : List ObjRow :=
  [
    rowCount 0xC,
    { sub := 0x01, ty := .bits32, acc := .ro, w1c := 1 },
    { sub := 0x02, ty := .u64, acc := .ro },
    { sub := 0x03, ty := .u64, acc := .ro },
    { sub := 0x04, ty := .u32, acc := .rwp, dflt := 0xE10, range := some (60, 86400) },
    { sub := 0x05, ty := .u32, acc := .rwp, dflt := 0xA, range := some (1, 3600) },
    { sub := 0x06, ty := .u32, acc := .ro },
    { sub := 0x07, ty := .u32, acc := .ro },
    { sub := 0x08, ty := .u32, acc := .ro },
    { sub := 0x09, ty := .u32, acc := .ro },
    { sub := 0x0A, ty := .u32, acc := .ro },
    { sub := 0x0B, ty := .u64, acc := .ro },
    { sub := 0x0C, ty := .enum8, acc := .rwp, range := some (0, 1) },
    rowApply,
    rowState]

/-- The rows of 7A41h DRAM_CHANNEL (10_memory_and_integrity.md). -/
def Obj.DRAM_CHANNEL.rows : List ObjRow :=
  [
    rowCount 0xC,
    { sub := 0x01, ty := .enum8, acc := .ro },
    { sub := 0x02, ty := .u64, acc := .ro },
    { sub := 0x03, ty := .u16, acc := .ro },
    { sub := 0x04, ty := .u8, acc := .ro, dflt := 7 },
    { sub := 0x05, ty := .u64, acc := .ro, dflt := 0xFFFFFFFFFFFFFF },
    { sub := 0x06, ty := .u16, acc := .rwp, dflt := 0x100, range := some (16, 65535) },
    { sub := 0x07, ty := .u8, acc := .wo, level := 3, range := some (0, 136) },
    { sub := 0x08, ty := .u16, acc := .ro },
    { sub := 0x09, ty := .u32, acc := .ro },
    { sub := 0x0A, ty := .u32, acc := .ro },
    { sub := 0x0B, ty := .u8, acc := .ro, dflt := 0xFF },
    { sub := 0x0C, ty := .u32, acc := .ro },
    rowApply,
    rowState]

/-- The rows of 7A48h CROSSINGS (10_memory_and_integrity.md). -/
def Obj.CROSSINGS.rows : List ObjRow :=
  [
    rowCount 0xA,
    { sub := 0x01, ty := .bits32, acc := .ro },
    { sub := 0x02, ty := .u32, acc := .ro, rep := 9 }]

/-- The rows of 7F00h DAYBOOK (13_ledger.md). -/
def Obj.DAYBOOK.rows : List ObjRow :=
  [
    rowCount 8,
    { sub := 0x01, ty := .u32, acc := .rwp, dflt := 0x10000, range := some (1024, 1048576) },
    { sub := 0x02, ty := .u32, acc := .ro },
    { sub := 0x03, ty := .u32, acc := .ro },
    { sub := 0x04, ty := .u32, acc := .rw, level := 0 },
    { sub := 0x05, ty := .blob, acc := .ro },
    { sub := 0x06, ty := .u32, acc := .ro },
    { sub := 0x07, ty := .u32, acc := .ro },
    { sub := 0x08, ty := .bits32, acc := .ro, w1c := 1 },
    rowApply,
    rowState]

/-- The index map of R390: the base of the record that holds an index, the number of the record in
its family, and the record's rows. Every index outside the map has no record. -/
def Obj.record (idx : Nat) : Option (Nat × List ObjRow) :=
  if idx = 0x1000 then some (0x1000, Obj.IDENTITY.rows) else
  if 0x1100 ≤ idx ∧ idx < 0x1100 + 4 then some (0x1100, Obj.ETH_PORT.rows) else
  if 0x1110 ≤ idx ∧ idx < 0x1110 + 2 then some (0x1110, Obj.INTERFACE.rows) else
  if idx = 0x1120 then some (0x1120, Obj.PTP.rows) else
  if idx = 0x1130 then some (0x1130, Obj.LEDGER_UDP.rows) else
  if idx = 0x1140 then some (0x1140, Obj.CAN.rows) else
  if 0x1200 ≤ idx ∧ idx < 0x1200 + 16 then some (0x1200, Obj.KEY_SLOT.rows) else
  if idx = 0x1280 then some (0x1280, Obj.SESSIONS.rows) else
  if 0x1281 ≤ idx ∧ idx < 0x1281 + 32 then some (0x1281, Obj.SESSION.rows) else
  if idx = 0x2000 then some (0x2000, Obj.CLOCKS.rows) else
  if idx = 0x2100 then some (0x2100, Obj.EPOCH.rows) else
  if idx = 0x2101 then some (0x2101, Obj.EPOCH_SOURCE.rows) else
  if idx = 0x2102 then some (0x2102, Obj.AXIS_CONFIG.rows) else
  if idx = 0x2103 then some (0x2103, Obj.AXIS_STATUS.rows) else
  if idx = 0x2200 then some (0x2200, Obj.TDC.rows) else
  if 0x2210 ≤ idx ∧ idx < 0x2210 + 8 then some (0x2210, Obj.MEASURE.rows) else
  if 0x2220 ≤ idx ∧ idx < 0x2220 + 21 then some (0x2220, Obj.CHANNEL.rows) else
  if 0x3000 ≤ idx ∧ idx < 0x3000 + 0x800 ∧ (idx - 0x3000) % 0x100 < 1 then some (0x3000, Obj.RECEIVE.rows) else
  if 0x3001 ≤ idx ∧ idx < 0x3001 + 0x800 ∧ (idx - 0x3001) % 0x100 < 1 then some (0x3001, Obj.PORT_STATUS.rows) else
  if 0x3002 ≤ idx ∧ idx < 0x3002 + 0x800 ∧ (idx - 0x3002) % 0x100 < 1 then some (0x3002, Obj.LAUNCH.rows) else
  if 0x3003 ≤ idx ∧ idx < 0x3003 + 0x800 ∧ (idx - 0x3003) % 0x100 < 1 then some (0x3003, Obj.FCTL.rows) else
  if 0x3010 ≤ idx ∧ idx < 0x3010 + 0x800 ∧ (idx - 0x3010) % 0x100 < 16 then some (0x3010, Obj.TONE_SET.rows) else
  if 0x3020 ≤ idx ∧ idx < 0x3020 + 0x800 ∧ (idx - 0x3020) % 0x100 < 1 then some (0x3020, Obj.SCHEDULER.rows) else
  if 0x3040 ≤ idx ∧ idx < 0x3040 + 0x800 ∧ (idx - 0x3040) % 0x100 < 64 then some (0x3040, Obj.SHOT_ENTRY.rows) else
  if 0x3080 ≤ idx ∧ idx < 0x3080 + 0x800 ∧ (idx - 0x3080) % 0x100 < 128 then some (0x3080, Obj.TONE.rows) else
  if 0x3800 ≤ idx ∧ idx < 0x3800 + 0x800 ∧ (idx - 0x3800) % 0x100 < 1 then some (0x3800, Obj.PIPELINE.rows) else
  if 0x3801 ≤ idx ∧ idx < 0x3801 + 0x800 ∧ (idx - 0x3801) % 0x100 < 1 then some (0x3801, Obj.COMBINING.rows) else
  if 0x3802 ≤ idx ∧ idx < 0x3802 + 0x800 ∧ (idx - 0x3802) % 0x100 < 1 then some (0x3802, Obj.TRACKING.rows) else
  if 0x3803 ≤ idx ∧ idx < 0x3803 + 0x800 ∧ (idx - 0x3803) % 0x100 < 1 then some (0x3803, Obj.PIPE_STATUS.rows) else
  if 0x3810 ≤ idx ∧ idx < 0x3810 + 0x800 ∧ (idx - 0x3810) % 0x100 < 16 then some (0x3810, Obj.TONE_PLAN.rows) else
  if 0x3820 ≤ idx ∧ idx < 0x3820 + 0x800 ∧ (idx - 0x3820) % 0x100 < 16 then some (0x3820, Obj.BRANCH.rows) else
  if 0x4000 ≤ idx ∧ idx < 0x4000 + 0x800 ∧ (idx - 0x4000) % 0x100 < 1 then some (0x4000, Obj.RAMAN.rows) else
  if 0x4001 ≤ idx ∧ idx < 0x4001 + 0x800 ∧ (idx - 0x4001) % 0x100 < 1 then some (0x4001, Obj.RAMAN_STATUS.rows) else
  if 0x4010 ≤ idx ∧ idx < 0x4010 + 0x800 ∧ (idx - 0x4010) % 0x100 < 8 then some (0x4010, Obj.AVG_SET.rows) else
  if 0x4800 ≤ idx ∧ idx < 0x4800 + 0x800 ∧ (idx - 0x4800) % 0x100 < 1 then some (0x4800, Obj.BRILLOUIN.rows) else
  if 0x4801 ≤ idx ∧ idx < 0x4801 + 0x800 ∧ (idx - 0x4801) % 0x100 < 1 then some (0x4801, Obj.BRIL_STATUS.rows) else
  if 0x4810 ≤ idx ∧ idx < 0x4810 + 0x800 ∧ (idx - 0x4810) % 0x100 < 8 then some (0x4810, Obj.SWEEP_PROGRAM.rows) else
  if idx = 0x5000 then some (0x5000, Obj.ARRAY.rows) else
  if 0x5010 ≤ idx ∧ idx < 0x5010 + 132 then some (0x5010, Obj.STALL.rows) else
  if 0x5110 ≤ idx ∧ idx < 0x5110 + 16 then some (0x5110, Obj.PROGRAM_SLOT.rows) else
  if 0x5140 ≤ idx ∧ idx < 0x5140 + 192 then some (0x5140, Obj.PITCH.rows) else
  if 0x5200 ≤ idx ∧ idx < 0x5200 + 64 then some (0x5200, Obj.REGION.rows) else
  if idx = 0x5280 then some (0x5280, Obj.CAPTURE.rows) else
  if 0x5300 ≤ idx ∧ idx < 0x5300 + 64 then some (0x5300, Obj.CONDITIONS.rows) else
  if 0x6000 ≤ idx ∧ idx < 0x6000 + 256 then some (0x6000, Obj.STREAM.rows) else
  if idx = 0x6100 then some (0x6100, Obj.COMPRESSION.rows) else
  if idx = 0x6200 then some (0x6200, Obj.AGGON.rows) else
  if idx = 0x6300 then some (0x6300, Obj.TWIN.rows) else
  if idx = 0x7000 then some (0x7000, Obj.SFE.rows) else
  if idx = 0x7100 then some (0x7100, Obj.LOOP.rows) else
  if idx = 0x7200 then some (0x7200, Obj.SINK.rows) else
  if idx = 0x7300 then some (0x7300, Obj.CHAIN.rows) else
  if idx = 0x7800 then some (0x7800, Obj.CALIBRATION.rows) else
  if 0x7810 ≤ idx ∧ idx < 0x7810 + 20 then some (0x7810, Obj.CAL_TARGET.rows) else
  if 0x7840 ≤ idx ∧ idx < 0x7840 + 8 then some (0x7840, Obj.RX_TRIMS.rows) else
  if idx = 0x7900 then some (0x7900, Obj.FLASH.rows) else
  if idx = 0x7A00 then some (0x7A00, Obj.HEALTH.rows) else
  if idx = 0x7A40 then some (0x7A40, Obj.MEMORY.rows) else
  if 0x7A41 ≤ idx ∧ idx < 0x7A41 + 2 then some (0x7A41, Obj.DRAM_CHANNEL.rows) else
  if idx = 0x7A48 then some (0x7A48, Obj.CROSSINGS.rows) else
  if idx = 0x7F00 then some (0x7F00, Obj.DAYBOOK.rows) else
  none

/-- The row of subindex `sub` in a record's rows, and its number in an array row. -/
def Obj.rowOf (rows : List ObjRow) (sub : Nat) : Option (ObjRow × Nat) :=
  rows.findSome? fun r =>
    if r.sub ≤ sub ∧ (sub - r.sub) % r.stride = 0 ∧ (sub - r.sub) / r.stride < r.rep then
      some (r, (sub - r.sub) / r.stride)
    else none

end Sys2Proof
end

