-- ==== Sys2Proof/Machine/ArrayTypes.lean ====
section
/-! DEFINITION. The parts of State that spec/05 and spec/06 give the machine: a stall's architectural state
(R212), its porter tags and transactions (R188, R232), pitches, reorder buffers and program slots. -/

namespace Sys2Proof.Machine

/-- Four lanes, lane 0 first. -/
structure Quad (α : Type) where
  l0 : α
  l1 : α
  l2 : α
  l3 : α
deriving DecidableEq, Repr

/-- A lane of a data register with its poison bit (R212). -/
structure DLane where
  v : BitVec 24 := 0
  poison : Bool := false
deriving DecidableEq, Repr

/-- A lane of an accumulator with its OVS and poison bits (R212, R218). -/
structure ALane where
  v : BitVec 56 := 0
  ovs : Bool := false
  poison : Bool := false
deriving DecidableEq, Repr

abbrev DReg := Quad DLane
abbrev AReg := Quad ALane

/-- A modifier (R228). -/
structure Modifier where
  base : BitVec 24 := 0
  len : BitVec 24 := 0
  step : BitVec 24 := 0
  staged : BitVec 24 := 0
  prevLen : BitVec 24 := 0
  lost : BitVec 24 := 0
  trim : Bool := false
deriving DecidableEq, Repr

/-- An active level of the loop stack (R212, R239 to R241): the address of the body's first instruction and
of its last, the passes still to make, the ROT bit and the return-stack depth at the LOOP. -/
structure LoopLevel where
  start : BitVec 13
  last : Nat
  remaining : Nat
  rot : Bool
  depth : Nat
deriving DecidableEq, Repr

/-- The states of R180. -/
inductive StallState where
  | spare | service | loading | test | failed | halted
deriving DecidableEq, Repr

/-- A transaction the porter holds for a tag: the descriptor as copied at issue (R232) and, for TRIG and MAIL,
its 16-byte payload. -/
structure Transaction where
  desc : List Byte
  payload : List Byte := []
  serial : Nat := 0
deriving DecidableEq, Repr

/-- A porter tag (R188): its 4-bit status, the transaction in flight, if any, and the descriptors of the GETs issued on it since a WAIT on
it last returned, whose destination words are undefined (R225). -/
structure Tag where
  status : BitVec 4 := 0
  flight : Option Transaction := none
  gets : List (List Byte) := []
deriving DecidableEq, Repr

/-- A breakpoint's address, and a watchpoint: its first byte, length and whether it watches loads and stores (R527). -/
abbrev Breakpoint := Option (BitVec 13)
abbrev Watchpoint := Option (BitVec 18 × BitVec 18 × BitVec 2)

/-- A stall (R212, R208): registers, flow state, flags, tags, the descriptor slots waiting (oldest first) and the one last popped, the
snapshots of R11, the debugger's halt, breakpoints and watchpoints, the two ends of a migration or replacement and the offers it
holds back. Its memories lie in State's memory under R343. -/
structure Stall where
  state : StallState := .spare
  slot : Option (Fin 16) := none
  pitches : List (Fin 192) := []
  d : Vector DReg 64 := Vector.replicate 64 ⟨{}, {}, {}, {}⟩
  a : Vector AReg 8 := Vector.replicate 8 ⟨{}, {}, {}, {}⟩
  p : Vector (BitVec 24) 16 := Vector.replicate 16 0
  m : Vector Modifier 8 := Vector.replicate 8 {}
  t : Vector Tag 16 := Vector.replicate 16 {}
  rb : BitVec 5 := 0
  pc : BitVec 13 := 0
  rets : List (BitVec 13) := []
  loops : List LoopLevel := []
  flags : BitVec 6 := 0
  trapEn : BitVec 6 := 0
  trapCause : BitVec 11 := 0
  masked : Bool := false
  pend : Option (Fin 6) := none
  entryTrap : BitVec 13 := 0
  inq : List (Fin 4) := []
  lastPop : Option (Fin 4) := none
  snapCycle : BitVec 48 := 0
  snapIdle : BitVec 48 := 0
  snapEpoch : BitVec 64 := 0
  debugHalt : Bool := false
  skipBp : Bool := false
  bps : Vector Breakpoint 4 := Vector.replicate 4 none
  watches : Vector Watchpoint 2 := Vector.replicate 2 none
  slow : Bool := false
  overload : Bool := false
  moveTo : Option StallId := none
  moveFrom : Option StallId := none
  replacing : Bool := false
  ready : Bool := false
  reload : Bool := false
  held : List (Fin 192 × BitVec 32 × Nat) := []
deriving DecidableEq, Repr

/-- A pitch in service (R183, R194 to R200): its stall and local number, the deliveries offered and not DONE, the alternation of
R194, the run of R195, whether its next offer carries MIGRATED, and the deliveries completed since its first migration (R200). -/
structure PitchPart where
  host : Option (StallId × Fin 4) := none
  offers : List (BitVec 32) := []
  skipNext : Bool := true
  lagRun : Nat := 0
  migrated : Bool := false
  sinceMove : Option Nat := none
  halted : Bool := false
deriving DecidableEq, Repr

/-- How a pitch stands to a delivery that an output's reorder buffer holds (R197): not resolved, its DONE with the EMIT and RELEASE bits,
skipped, or halted. -/
inductive Resolved where
  | open | done (emit : BitVec 4) (release : Bool) | skipped | haltedNow
deriving DecidableEq, Repr

/-- A block a RESULT PUT has written, with the 16-byte words that came poisoned. -/
structure ResultBlock where
  pitch : Fin 192
  output : Fin 4
  bytes : List Byte
  poisoned : List Nat
deriving DecidableEq, Repr

/-- A delivery in the reorder buffers of a program slot and port (R197): the pitches that take it with how
each has resolved it, and the blocks their PUTs wrote. -/
structure ReorderRec where
  slot : Fin 16
  port : Port
  deliv : BitVec 32
  kind : Nat
  header : List Byte
  trailer : List Byte
  pitches : List (Fin 192 × Resolved)
  blocks : List ResultBlock
deriving DecidableEq, Repr

/-- A program slot (R202 to R207): the image in force, and whether the next one is still being placed in service beside the
image it replaces. -/
structure ProgramPart where
  image : List Byte := []
  placing : Bool := false
  old : List Byte := []
deriving DecidableEq, Repr

/-- The array and the porter beside the stalls: reorder buffers, released sweeps whose Brillouin buffer waits (R210), the clerks' MAIL queue (256 messages) and
the capture engine's queue of trigger requests with the stall of each, the serial of the
next transaction. -/
structure ArrayPart where
  reorder : List ReorderRec := []
  sweeps : List ReorderRec := []
  mail : List (StallId × List Byte) := []
  trig : List (StallId × List Byte) := []
  serial : Nat := 0
deriving DecidableEq, Repr

end Sys2Proof.Machine
end

