-- ==== Sys2Proof/Machine/BootTypes.lean ====
section
/-! DEFINITION. The parts of State that spec/17 gives the machine: bring-up, firmware banks, fuses, zeroize and the debug port. -/

namespace Sys2Proof.Machine

/-- A firmware bank (R495, R510): the image it holds, empty when erased, and whether it was found valid. -/
structure BankPart where
  image : List Byte := []
  valid : Bool := false
deriving DecidableEq, Repr

/-- The image bank A holds as it leaves the factory (log entry 27): a header of R510 with VERSION 0 and no body, found valid. -/
def factoryBank : BankPart := { image := [0x57, 0x44, 0x52, 0x46, 1, 0] ++ List.replicate 250 0, valid := true }

/-- The TAP instruction in force (R522). -/
inductive Tap where
  | extest | idcode | sample | clamp | chal | resp | dbgreg | bypass
deriving DecidableEq, Repr

/-- Bring-up, firmware, fuses and debug (R503 to R527): the steps of R507 passed, the boot record (confirmed bank, one-shot trial bank), whether
the trial at hand is live, the image that waits to be programmed, a live switch that waits for journal writes, fuses, whether the clerks are
restarting or halted, the epochs of clerk restarts, the reset held for temperature or by the TAP, the pending zeroize, the debug challenge,
failures in a row, the lockout, and what the debug command register will show. -/
structure BootPart where
  loader : Bool := false
  clerks : Bool := false
  served : Bool := false
  trained : List Nat := []
  banks : Vector BankPart 2 := Vector.replicate 2 {}
  inUse : Fin 2 := 0
  confirmed : Fin 2 := 0
  trialBank : Option (Fin 2) := none
  trial : Bool := false
  trialLive : Bool := false
  programming : Option (List Byte) := none
  switching : Bool := false
  revoked : BitVec 4 := 0
  rollback : Nat := 0
  restarting : Bool := false
  halted : Bool := false
  restarts : List Int := []
  held : Bool := false
  zeroize : Bool := false
  tap : Tap := .idcode
  challenge : Option (List Byte) := none
  badRun : Nat := 0
  lockout : Bool := false
deriving DecidableEq, Repr

end Sys2Proof.Machine
end

