-- ==== Sys2Proof/Machine/CaptureTypes.lean ====
section
/-! DEFINITION. The parts of State that spec/07 gives the machine: awnings, condition state, triggers and records in hand, the record store
and the bell. -/

namespace Sys2Proof.Machine

/-- An awning entry (R259): the sample's shot sequence number, launch stamp, DELIV, header and point words once its delivery is in the
ring, whether its conditions were tested, whether its delivery carried OVERRUN, its mode, its place in the ring and the 16-byte words of
its points that lie poisoned. -/
structure AwnEntry where
  seq : BitVec 32
  stamp : Stamp
  deliv : BitVec 32 := 0
  header : List Byte := []
  words : List (BitVec 32) := []
  full : Bool := false
  tested : Bool := false
  overrun : Bool := false
  outMode : Nat := 0
  place : Nat := 0
  poisoned : List Nat := []
deriving DecidableEq, Repr

/-- The state of a condition at one point (R264): the previous valid value, and the run at hand with whether T(v, B) held in it. -/
structure PointState where
  prev : Option Int := none
  run : Nat := 0
  runB : Bool := false
deriving DecidableEq, Repr

/-- A condition's state (R264, R267): its points that hold any, and whether T held on the previous matching CAN frame. -/
structure CondPart where
  points : List (Nat × PointState) := []
  lastCan : Option Bool := none
deriving DecidableEq, Repr

/-- A trigger (R268): its target in fine LSBs with and without the region's offsets, its condition or none for a fire, its SOURCES bit, the
lengths it asks for, its origin and BELL_SEQ, the lowest point that met it, and whether the sample it names has left the awning. -/
structure Trigger where
  x : Int
  raw : Int
  cond : Option (Fin 8) := none
  source : Fin 4
  pre : Nat
  post : Nat
  origin : BitVec 11 := 0
  bellSeq : BitVec 32 := 0
  point : Option Nat := none
  gone : Bool := false
deriving DecidableEq, Repr

/-- A record in hand (R269 to R273), with the port and points its region watched when its boundary was fixed. -/
structure RecordPart where
  first : Trigger
  condMask : BitVec 8
  sources : BitVec 4
  trigPoint : Option Nat := none
  merged : Bool := false
  late : Bool := false
  preShort : Bool := false
  wantPre : Nat
  wantPost : Nat
  pre : List AwnEntry
  post : List AwnEntry
  boundary : AwnEntry
  freeze : Nat
  closed : Bool := false
  port : Nat := 0
  pFirst : Nat := 0
  pCount : Nat := 0
deriving DecidableEq, Repr

/-- A capture region beside its Ledger records (R258 to R270): the awning, oldest sample first, its write pointer, its length in force and
one that waits for the wrap, the stamp of the sample that left last, condition state, triggers whose boundary is not yet stamped, the
record in POST and the next RECORD_SEQ. -/
structure RegionPart where
  ring : List AwnEntry := []
  pos : Nat := 0
  len : Nat := 64
  lenStaged : Option Nat := none
  lastLeft : Option Stamp := none
  conds : Vector CondPart 8 := Vector.replicate 8 {}
  waiting : List Trigger := []
  record : Option RecordPart := none
  recordSeq : BitVec 32 := 0
deriving DecidableEq, Repr

/-- A record in the record store (R275), with those of its 16-byte words that lie poisoned. -/
structure StoredRecord where
  region : Fin 64
  seq : BitVec 32
  place : Nat
  bytes : List Byte
  poisoned : List Nat := []
deriving DecidableEq, Repr

/-- The capture engine: regions, the record store with its write pointer, the next BELL_SEQ, the bell messages seen with when (R277, R437)
and the ARM and DISARM messages whose epoch is still to come (epoch, group, ARM_MODE). -/
structure CapturePart where
  regions : Vector RegionPart 64 := Vector.replicate 64 {}
  store : List StoredRecord := []
  storePos : Nat := 0
  bellSeq : BitVec 32 := 0
  seen : List (BitVec 11 × BitVec 32 × Int) := []
  arms : List (Nat × Nat × Nat) := []
deriving DecidableEq, Repr

end Sys2Proof.Machine
end

