-- ==== Sys2Proof/Machine/ClockTypes.lean ====
section
/-! DEFINITION. The parts of State that spec/08 to spec/10 give the machine: references and the root PLL, domains, the
measurement units of the TDC, and the DRAM channels. -/

namespace Sys2Proof.Machine

/-- A reference (R286 to R289): whether its edges are present, and whether its last window passed. -/
structure RefPart where
  present : Bool := false
  passed : Bool := false
deriving DecidableEq, Repr

/-- The root PLL, its references and the crystal's ageing (R283 to R302): whether OVEN_RDY has fallen since, whether OVEN_HOLD has passed, the reference being
acquired while coasting and whether acquisition may begin, whether it locked at the floor, whether the root is stopped, the epoch at which
the coast began, which domains run on their bypass and whether a clean switch of them waits, the integral of FREQ_ADJ since the last learning step, the trim last journalled and
the trim at the last daily save, and CLKMON's source and divisor in force. -/
structure ClockPart where
  refs : Vector RefPart 3 := Vector.replicate 3 {}
  ovenLow : Bool := false
  ovenHeld : Bool := false
  acquiring : Nat := 0
  mayAcquire : Bool := false
  atFloor : Bool := false
  stopped : Bool := false
  coastAt : Int := 0
  onBypass : Vector Bool 16 := Vector.replicate 16 true
  switchDue : Bool := false
  adjSum : Int := 0
  adjSince : Int := 0
  adjStart : Int := 0
  trimSaved : Int := 0
  trimDaily : Int := 0
  clkmon : Nat × Nat := (0, 1)
deriving DecidableEq, Repr

/-- An event a measurement unit holds (R312): start, stop or both, its stamp, the ticks the corrector had added by
then (R313) and whether the stamp is coarse (R310). -/
structure UnitEv where
  isStart : Bool
  isStop : Bool
  stamp : Stamp
  corr : Int
  coarse : Bool
deriving DecidableEq, Repr

/-- A measurement unit beside its Ledger record (R312 to R320): events held, the open start with the stops paired to
it, held stops, and the sums of the block in progress. -/
structure MeasurePart where
  events : List UnitEv := []
  start : Option (UnitEv × Nat) := none
  held : List UnitEv := []
  sum : Int := 0
  sumSq : Nat := 0
  lo : Int := 0
  hi : Int := 0
  count : Nat := 0
  flags : BitVec 5 := 0
deriving DecidableEq, Repr

/-- A lane repair in progress or waiting (R335). -/
structure RepairPart where
  lane : Nat
  spare : Nat
  began : Int := 0
deriving DecidableEq, Repr

/-- A DRAM channel (R330 to R336): the repair whose pass runs, the lanes that wait for it to end, and the repairs whose pass has ended, which the
next refresh completes. -/
structure DramChannel where
  trained : Bool := false
  failed : Bool := false
  repair : Option RepairPart := none
  waiting : List Nat := []
  passed : List RepairPart := []
deriving DecidableEq, Repr

end Sys2Proof.Machine
end

