-- ==== Sys2Proof/Machine/ShotTypes.lean ====
section
/-! DEFINITION. The parts of State that spec/01 to spec/04 give the machine beside its Ledger registers:
the epoch counter, the three schedule axes, the laser interlock, and for each fibre port its scheduler, shots
in hand, auto-gain, FCTL output, front pipeline, Raman engine and Brillouin controller. -/

namespace Sys2Proof.Machine

/-! ## Epoch (spec/01) -/

/-- A step of the epoch in progress (R24): the ticks to add when the corrected count is loaded, and whether it steps to TAI (R22). -/
structure EpochStep where
  ticks : Int
  tai : Bool := false
deriving DecidableEq, Repr

/-- REF.PPS qualification (R18 to R20): the last accepted edge, the number of consecutive edges within
1 microsecond of prediction (held at 4) and the TAI second of the next edge as the host's label gives it. -/
structure PpsPart where
  last : Option Stamp := none
  run : Nat := 0
  label : Option Nat := none
deriving DecidableEq, Repr

/-- The epoch counter and its discipline (R15 to R28); `phase` is the root phase PH of R285, `ptpOffset` the epoch minus PTP time in ps at
the last Sync, as the epoch stands, `recent` the counts at which the corrector last acted, with the ticks (R313). -/
structure EpochPart where
  running : Bool := false
  count : BitVec 64 := 0
  acc : BitVec 32 := 0
  phase : BitVec 7 := 0
  coastPhase : BitVec 2 := 0
  track : Int := 0
  slew : Int := 0
  slewing : Bool := false
  step : Option EpochStep := none
  ptpOffset : Int := 0
  reacquire : Bool := false
  uncertainHeld : Bool := false
  served : Nat := 0
  corrected : Int := 0
  recent : List (Nat × Int) := []
  pps : PpsPart := {}
  clusterUsable : Bool := false
  clusterTai : Bool := false
  ptpUsable : Bool := false
deriving DecidableEq, Repr

/-! ## Axes (spec/01) -/

/-- The mains tracker (R31 to R34): the last edge and the period in fine LSBs, exact. -/
structure MainsPart where
  last : Option Rat := none
  period : Option Rat := none
  cycle : BitVec 32 := 0
  good : Nat := 0
  bad : Nat := 0
  synth : Nat := 0
deriving DecidableEq, Repr

/-- The encoder decoder (R35 to R37): the filtered levels of A, B and ENC_Z, whether any sample was taken,
whether the first index edge is still to zero the count (ENC_INDEX 2), the count at the last 10 ms boundary, and a preset that
waits for the next filtered sample. -/
structure EncPart where
  taken : Bool := false
  a : Bool := false
  b : Bool := false
  z : Bool := false
  zeroNext : Bool := false
  at10ms : BitVec 32 := 0
  preset : Option Nat := none
deriving DecidableEq, Repr

/-- A LINE slot point offered (R37): the raw edge's stamp plus L_DELAY, the count and index count at the edge, and whether an illegal
transition came before it (R35). -/
structure LineOffer where
  stamp : Stamp
  count : BitVec 32
  index : BitVec 32
  bad : Bool
deriving DecidableEq, Repr

/-- The laser interlock (R53 to R55): the levels of the two channels, whether the 100 ms since both were
found held have passed, the latched LSI_DISCORD and whether both channels have been found released since. -/
structure LsiPart where
  a : Bool := false
  b : Bool := false
  resumed : Bool := false
  discord : Bool := false
  sawReleased : Bool := false
deriving DecidableEq, Repr

/-! ## Shots (spec/01, spec/02) -/

/-- An enabled tone of the set a shot launches, as its commit fixed it (R80, R81, R541): its number, centre and span in kHz, its length and
edge in root ticks, its sweep, amplitude and the start phase in force. -/
structure ToneSpec where
  t : Nat
  centre : Nat
  band : Nat
  dur : Nat
  down : Bool
  amp : Nat
  phase : Nat
  taper : Nat
deriving DecidableEq, Repr

/-- A raw sample of a record (R68, R74): its converter code, whether it is an overrange sample, and the normalised sample. -/
structure RxSample where
  code : Int
  ovr : Bool
  norm : Int
deriving DecidableEq, Repr

/-- The record of a calibration shot (R486, R487): both inputs' samples and their steps. -/
structure CalRecord where
  x : List RxSample
  y : List RxSample
  stepX : Nat
  stepY : Nat
deriving DecidableEq, Repr

/-- A waveform on the launch DAC (R87): the tick of its first code, and its codes. -/
structure DacRun where
  start : Int
  codes : List Int
deriving DecidableEq, Repr

/-- What the clerks found for a tone set (R84): the candidate chosen, its unscaled peak in codes and CREST. -/
structure CrestResult where
  cand : Nat
  peak : Rat
  crest : Nat
deriving DecidableEq, Repr

/-- The front pipeline's configuration as a shot's commit fixed it (R120). -/
structure PipeCfg where
  decim : Nat := 8
  decimMode : Nat := 0
  window : Nat := 1
  gauge : Nat := 16
  outMode : Nat := 0
  zeroDelay : Int := 0
  branchMask : BitVec 16 := 0
  complexShift : Nat := 3
  unwrapOrder : Nat := 0
  ambMargin : Nat := 16
  qmin : Nat := 24
  phaseSign : Nat := 0
  alignShift : Nat := 4
  branchMin : Int := 0
  noiseSrc : Nat := 0
  noiseMinPts : Nat := 256
  qcapGain : Nat := 200
  qcapAmbig : Nat := 40
  qcapRelearn : Nat := 80
  darkFrac : Nat := 128
  mapped : Option Nat := none
deriving DecidableEq, Repr

/-- A committed shot of a port, until all its parts are done (R57). -/
structure Shot where
  entry : Nat := 0
  kind : Nat := 0
  launchAt : Nat := 0
  seq : BitVec 32 := 0
  cal : Bool := false
  toneSet : Nat := 0
  toneMask : BitVec 8 := 0
  branches : List Nat := []
  inputs : Nat := 0
  tones : List ToneSpec := []
  scale : Rat := 1
  invSinc : Bool := false
  das : Bool := false
  recX : List RxSample := []
  recY : List RxSample := []
  stuck : BitVec 16 := 0
  stepX : Nat := 0
  stepY : Nat := 0
  auto : Bool := false
  agcOld : Bool := false
  winStart : Nat := 0
  winLen : Nat := 0
  gateLead : Nat := 0
  gateTail : Nat := 0
  sinkMask : BitVec 16 := 0
  aux : Nat := 0
  monWindow : Nat := 0
  duration : Nat := 0
  axis : Nat := 0
  posA : BitVec 32 := 0
  posB : BitVec 32 := 0
  mainsCycle : BitVec 32 := 0
  mainsLast : Rat := 0
  mainsPeriod : Rat := 0
  loStep : BitVec 16 := 0
  gap : Bool := false
  invalid : Bool := false
  cut : Bool := false
  epochStep : Bool := false
  degraded : Bool := false
  holdover : Bool := false
  gainChange : Bool := false
  miss : Bool := false
  stamp : Option Stamp := none
  loaded : Bool := false
  gateOn : Bool := false
  gateOff : Bool := false
  gateForced : Bool := false
  launched : Bool := false
  winOpen : Bool := false
  winClosed : Bool := false
  dataDone : Bool := false
  cfg : PipeCfg := {}
  pFirst : Nat := 0
  pLast : Nat := 0
  relearn : Nat := 0
  gaugeReset : Bool := false
  clearPrev : Bool := false
  stateGen : Nat := 0
  avgGen : Nat := 0
  prevWin : Option (Nat × Nat) := none
  groupShot : Nat := 0
  relDiscard : Bool := false
  group : Nat := 0
  sweepGen : Nat := 0
  dark : Bool := false
  trimAfter : Bool := false
deriving DecidableEq, Repr

/-- One launched shot's peak that auto-gain has not used (R71, R73). -/
structure PeakRec where
  peak : Nat
  ovr : Bool
  step : Nat
deriving DecidableEq, Repr

/-- Auto-gain's state for one entry and input (R71 to R73): the step auto-gain last set, the entry's last
fixed step, and the unused peaks, latest first. -/
structure AgcInput where
  step : Option Nat := none
  fixed : Option Nat := none
  peaks : List PeakRec := []
deriving DecidableEq, Repr

structure AgcEntry where
  entry : Nat
  x : AgcInput := {}
  y : AgcInput := {}
deriving DecidableEq, Repr

/-- A scheduled FCTL word of the Brillouin controller (R92, R170). -/
structure SchedWord where
  value : BitVec 32
  epoch : Nat
  group : Nat
  gen : Nat
deriving DecidableEq, Repr

/-- The FCTL output (R92 to R94): host words, scheduled words, the word in progress and the tick it began at, the group and generation of a scheduled one, and
whether the group 3003h waits for the end of a word. -/
structure FctlPart where
  host : List (BitVec 32) := []
  sched : List SchedWord := []
  busy : Option (BitVec 32) := none
  since : Nat := 0
  busyGroup : Option (Nat × Nat) := none
  lateCommit : Bool := false
deriving DecidableEq, Repr

/-- The scheduler and launch state of a fibre port. -/
structure FibrePort where
  pos : Nat := 0
  left : Option Nat := none
  shots : List Shot := []
  clearAt : Option Nat := none
  gap : Bool := false
  stepped : Bool := false
  lineBad : Bool := false
  lineOffers : List LineOffer := []
  lastGain : Option (Nat × Nat) := none
  missRun : Nat := 0
  agc : List AgcEntry := []
  lastWin : Option (Nat × Nat) := none
  crestDone : List (Nat × CrestResult) := []
  fctl : FctlPart := {}
  gateHigh : Bool := false
  dac : Option DacRun := none
  configured : Bool := false
  live : Bool := false
  relearnReq : Bool := false
deriving DecidableEq, Repr

/-! ## Deliveries (spec/05) -/

/-- A delivery of a fibre port (R182, R183): its DELIV, kind (1 DAS, 2 DTS, 3 BRIL), tone set or averaging
set, 32-byte header, body words, 16-byte trailer, first point, end of the points emitted, launch epoch, whether the trailer has
been queued, the words not yet drained by the porter, its shot sequence number, the 16-byte words of its ring slot that lie poisoned,
whether its header still waits for the launch stamp (R59), the 32-bit words of its slot that were changed since they were
written, and MAP_PTS where its points are written in reverse (R442). -/
structure Delivery where
  deliv : BitVec 32 := 0
  kind : Nat := 0
  set : Nat := 0
  header : List Byte := []
  body : List (BitVec 32) := []
  trailer : List Byte := []
  first : Nat := 0
  validEnd : Nat := 0
  last : Nat := 0
  epoch : Nat := 0
  outMode : Nat := 0
  closed : Bool := false
  left : Nat := 0
  shotSeq : BitVec 32 := 0
  poisoned : List Nat := []
  unheaded : Bool := false
  changed : List (Nat × BitVec 32) := []
  rev : Option Nat := none
deriving DecidableEq, Repr

/-! ## Front pipeline (spec/03) -/

/-- What stage 4 has found at a grid point of the shot in hand, kept until the points that use it as a gauge
end are formed (R123, R127). -/
structure GridRec where
  p : Nat
  cOld : Rat × Rat
  cNew : Rat × Rat
  q : Nat
  dark : Bool
  late : Bool
  poisoned : Bool
  suspect : Bool
  word : BitVec 128
  align : List (BitVec 5)
  old : BitVec 128
deriving DecidableEq, Repr

/-- The sums a DAS shot gathers for its noise, darkness and fibre-end tracking (R124, R138, R140). -/
structure ShotSums where
  dark : Nat := 0
  darkToEnd : Nat := 0
  late : Bool := false
  suspect : Bool := false
  noise : List (Nat × Rat) := []
  noisePts : Nat := 0
  cells : List (Nat × Rat × Nat) := []
  share : List (Nat × Rat × Rat × Nat) := []
  toEnd : Nat := 0
  pts : Nat := 0
  overrun : Option Nat := none
deriving DecidableEq, Repr

/-- The front pipeline of a port (R117 to R144): `gen` counts the resets of the branch state (R120), `older` holds the words of earlier
generations for shots committed under them, `clearSets` the tone sets whose next shot finds PREV_VALID and RATE_VALID clear, `bad` the keys of
the words that lie poisoned. -/
structure PipePart where
  words : List (Nat × BitVec 128) := []
  gen : Nat := 0
  older : List (Nat × List (Nat × BitVec 128)) := []
  clearSets : List Nat := []
  arrived : List (Nat × Bool) := []
  grid : List GridRec := []
  sums : ShotSums := {}
  noise : List (Nat × Rat) := []
  relearn : List (Nat × Nat) := []
  gaugeReset : Bool := false
  cells : List (Nat × Rat) := []
  darkRun : Nat := 0
  shortRun : Nat := 0
  longRun : Nat := 0
  ends : List Nat := []
  stateBytes : Nat := 0
  queue : List Delivery := []
  queued : Nat := 0
  nextDeliv : BitVec 32 := 0
  ring : List Delivery := []
  ringLen : Nat := 4
  bad : List Nat := []
deriving DecidableEq, Repr

/-! ## Raman (spec/04) -/

/-- A shot's baseline (R154): mean and standard deviation of each input in 1/16 code. -/
structure Baseline where
  meanS : Int
  meanA : Int
  devS : Nat
  devA : Nat
deriving DecidableEq, Repr

/-- An average being gathered or computed (R157 to R159): sums by position index from 0, the marked positions, the sums of the
baselines and of the anti-Stokes baseline deviation in 1/16 code, the last shot added, the completion epoch and the 16-byte words of the sums
that lie poisoned. -/
structure Average where
  stokes : List Int := []
  anti : List Int := []
  marked : List Nat := []
  baseS : Int := 0
  baseA : Int := 0
  sigma : Nat := 0
  shots : Nat := 0
  firstSeq : BitVec 32 := 0
  restarted : Bool := false
  baseOld : Bool := false
  sat : Bool := false
  last : Shot := {}
  epoch : Nat := 0
  bad : List Nat := []
deriving DecidableEq, Repr

/-- One point of a completed average: the sums S and A and the quality of R161. -/
structure RamanPoint where
  s : Rat
  a : Rat
  q : Nat
deriving DecidableEq, Repr

/-- The completed average of a set that a dual-ended partner reads (R165). -/
structure DonePart where
  epoch : Nat
  bin : Nat
  first : Nat
  points : List RamanPoint
deriving DecidableEq, Repr

/-- An averaging set (R156 to R159); `swapped` says which of its two buffers the average being gathered lies in (R158), `bytes` what is
allocated for it, `gen` counts its restarts. -/
structure AvgSet where
  cur : Average := {}
  bytes : Nat := 0
  gen : Nat := 0
  computing : Option Average := none
  lastBase : Option Baseline := none
  restart : Bool := false
  done : Option DonePart := none
  swapped : Bool := false
deriving DecidableEq, Repr

/-- The Raman engine of a port: its eight averaging sets, the set whose profile is ready to be delivered
first, and the reference constants in use (R162). -/
structure RamanPart where
  sets : Vector AvgSet 8 := Vector.replicate 8 {}
  ready : List (Fin 8) := []
  lnc : Rat := 0
  dalpha : Rat := 0
deriving DecidableEq, Repr

/-! ## Brillouin (spec/04) -/

/-- The Brillouin controller of a port (R169 to R176): the number of the sweep at hand, the group at hand numbered from the first of
the generation, the shots counted in it, the group whose step word was scheduled last and when words ended, whether the sweep is
skipped, the flags its descriptor will carry, the buffers' sizes, and a count of the sweeps abandoned. -/
structure BrilPart where
  active : Bool := false
  sweep : BitVec 32 := 0
  group : Nat := 0
  shot : Nat := 0
  wordFor : Option Nat := none
  wordEnds : List (Nat × Nat) := []
  skip : Bool := false
  bufFlags : BitVec 16 := 0
  sizes : List Nat := [0, 0]
  program : Nat := 0
  gen : Nat := 0
deriving DecidableEq, Repr

end Sys2Proof.Machine
end

