-- ==== Sys2Proof/Machine/FlashTypes.lean ====
section
/-! DEFINITION. The parts of State that spec/16 gives the machine: the flash journals, calibration runs and the TDC's interpolator tables. -/

namespace Sys2Proof.Machine

/-- What a journal holds (R495): register values and blobs by key. -/
structure JournalData where
  regs : List (Nat × Nat) := []
  blobs : List (Nat × List Byte) := []
deriving DecidableEq, Repr

/-- A journal write in progress (R497): its step (0 erase, 1 data, 2 verify, 3 commit word), whether it writes once more, whether early
warning stopped it (R500), and what it writes. -/
structure WriteJob where
  step : Nat := 0
  again : Bool := false
  held : Bool := false
  data : JournalData := {}
deriving DecidableEq, Repr

/-- A journal (R496, R497): whether a commit exists, its SEQ, slot and position, the data in force, the erases of its two slots, the write
in progress, and the tick at which the last one began. -/
structure JournalPart where
  valid : Bool := false
  seq : BitVec 32 := 0
  slot : Nat := 1
  position : Nat := 15
  data : JournalData := {}
  erases : List Nat := [0, 0]
  job : Option WriteJob := none
  began : Option Int := none
deriving DecidableEq, Repr

/-- The flash die's journals (R495). -/
structure FlashPart where
  journals : Vector JournalPart 18 := Vector.replicate 18 {}
deriving DecidableEq, Repr

/-- A calibration target's run (R483 to R493): whether it runs, when it started, shots used in the phase at hand, computations
made, calibration slots refused in a row, the records of those shots, whether a computation is due, the trims as they stood at START, receive trims that wait for
R490, whether the result waits for its journal write and a write that carries it has begun, the trims in force that no Ledger object shows
(targets 16 to 19), the worst step error found so far with whether all is within the limits beside it, and RX_TRIMS.SOURCE at START. -/
structure CalRun where
  running : Bool := false
  started : Int := 0
  used : Nat := 0
  comps : Nat := 0
  refused : Nat := 0
  records : List CalRecord := []
  computing : Bool := false
  saved : List (Nat × List Byte) := []
  newTrims : List (Nat × List Byte) := []
  journalling : Bool := false
  inForce : List Byte := []
  carried : Bool := false
  quality : Int := 0
  within : Bool := true
  source : Nat := 0
deriving DecidableEq, Repr

/-- A raw edge of an encoder input (R308): its channel, the level it leads to, its stamp, the corrector's ticks at it and whether the stamp
is coarse. -/
structure RawEdge where
  ch : Fin 21
  level : Bool
  stamp : Stamp
  corr : Int
  coarse : Bool
deriving DecidableEq, Repr

/-- The TDC: the interpolator tables (R491) in service by channel, the shadows calibrated and not yet swapped in; the instant of each
channel's last stamped edge (R307); and of the encoder inputs the levels at the balls and the last edge into each level (R308). -/
structure TdcPart where
  tables : Vector (List Byte) 21 := Vector.replicate 21 []
  shadow : List (Fin 21 × List Byte) := []
  lastEdge : Vector (Option Int) 21 := Vector.replicate 21 none
  levels : Vector Bool 21 := Vector.replicate 21 false
  raw : List RawEdge := []
deriving DecidableEq, Repr

end Sys2Proof.Machine
end

