-- ==== Sys2Proof/Machine/LinkTypes.lean ====
section
/-! DEFINITION. The parts of State that spec/14 gives the machine: Aggon links and their frames, the cluster table and the twin. -/

namespace Sys2Proof.Machine

/-! ## Frames (R424 to R428) -/

/-- What a frame carries: nothing, data words with those of them that are poisoned, or one of the bodies whose fields the spec lists; of a
commit it is the part of some number. -/
inductive AggonBody where
  | empty
  | words (bytes : List Byte) (poisoned : List Nat)
  | bell (m : BellMsg)
  | crier (m : Option CrierMsg)
  | time (sent received : Stamp) (err : Nat)
  | haggle (h : LinkHaggle)
  | topo (t : TopoFrame)
  | mirror (n : Port) (deliv : BitVec 32) (index : Nat) (isLast : Bool) (data : List Byte) (poisoned : List Nat)
  | commit (m : MirrorCommit) (part : Nat)
  | mark (m : BaleMarkMsg)
deriving DecidableEq, Repr

/-- A frame's header fields (R424) and its body; `credit` is the frames of buffer returned for VC1 to VC4. -/
structure AggonFrame where
  vc : Nat
  kind : Nat
  isFirst : Bool := true
  isLast : Bool := true
  bcast : Bool := false
  nak : Bool := false
  dest : BitVec 11 := 0
  src : BitVec 11
  hops : Nat := 64
  fseq : BitVec 16 := 0
  ack : BitVec 16 := 0
  msg : BitVec 32 := 0
  credit : List Nat := []
  body : AggonBody
deriving DecidableEq, Repr

/-! ## Links (R417 to R429, R434) -/

/-- A link beside its Ledger record: whether it waits the second before step 1, the physical lanes with block lock and those aligned, the
lanes that carry logical lanes 0 to 3 and the spare in each direction, the failed lane named to the neighbour and the one it named, frame
sequence numbers, the frames not yet acknowledged with their replays, and the exchanges of R434 (at most 16 counted), their sums and the
stamps of the last timing markers sent and received, and the TWIN_PEER that the neighbour's haggle named. For R427: the frames that wait, in
the order they came, the credit held for VC1 to VC4, the buffers to return to the neighbour, and the virtual channel served last. Of the lanes
coming in `crossed` holds the sender's physical lane by the receiver's (R419); of those going out the scramblers and the logical lane that takes
the next block (R418). Whether frames are discarded until a replay (R428), and the haggle cause entered since the link started (R423). -/
structure LinkPart where
  waiting : Bool := false
  locked : List (Fin 5) := []
  aligned : List (Fin 5) := []
  tx : List (Fin 5) := []
  spare : Option (Fin 5) := none
  rx : List (Fin 5) := []
  rxSpare : Option (Fin 5) := none
  failed : Option (Fin 5) := none
  move : Option (Fin 5) := none
  fseq : BitVec 16 := 0
  last : BitVec 16 := 0xFFFF
  unacked : List (AggonFrame × Nat) := []
  exchanges : Nat := 0
  inMean : Nat := 0
  sumDelay : Int := 0
  sumOffset : Int := 0
  sent : Stamp := 0
  marker : Stamp := 0
  peerTwin : BitVec 16 := 0x8000
  vcq : List AggonFrame := []
  credit : List Nat := [0, 0, 0, 0]
  owed : List Nat := [0, 0, 0, 0]
  turn : Nat := 0
  crossed : List (Fin 5 × Fin 5) := []
  scramblers : Vector (BitVec 58) 5 := Vector.replicate 5 0
  nextLane : Nat := 0
  discarding : Bool := false
  told : Nat := 0
deriving DecidableEq, Repr

/-! ## The cluster (R430 to R438) -/

/-- A device of the cluster table: its latest TOPO frame and the TOPO_SEQ values already forwarded. -/
structure TopoRec where
  frame : TopoFrame
  seen : List (BitVec 32) := []
deriving DecidableEq, Repr

/-- The cluster as a device knows it: the other devices of the table, IDs held twice, the TOPO_SEQ values forwarded under its own ID, the root, the next TOPO_SEQ and MSG, and the
forwarded messages whose frames have not all arrived. -/
structure ClusterPart where
  table : List TopoRec := []
  dups : List (BitVec 11) := []
  ownSeen : List (BitVec 32) := []
  root : Option (BitVec 11) := none
  topoSeq : BitVec 32 := 0
  msg : BitVec 32 := 0
  partials : List (BitVec 11 × BitVec 32 × List Byte) := []
deriving DecidableEq, Repr

/-! ## Twins (R440 to R455) -/

/-- A mirrored delivery in arrival (R443, R444): its port and DELIV, the pieces by word index, the number of its words once its trailer
has come, the poisoned words and the links that carried it. -/
structure MirrorPart where
  port : Port
  deliv : BitVec 32
  pieces : List (Nat × List Byte) := []
  total : Option Nat := none
  poisoned : List Nat := []
  links : List (Fin 4) := []
deriving DecidableEq, Repr

/-- A delivery on its way to the standby (R443): the 16-byte words of it that have been sent, and whether it was dropped. -/
structure MirrorSend where
  port : Port
  deliv : BitVec 32
  sent : Nat := 0
  dropped : Bool := false
deriving DecidableEq, Repr

/-- The twin beside its Ledger record (R447 to R455): the role last heard from the peer and its IN_STEP, whether PEER_CLAIM is fresh, a YIELD that waits for the commit point, intact deliveries in a row by port, deliveries in arrival, the
active's mirror queue while no twin link is UP, the link whose turn it is, the next CSEQ, the bytes mirrored in the second at hand, and the
commits of ports' groups received with the boundaries they wait for; at a gateway the number of the last bale of each peer stream, by origin and
stream (R439). `lateAggon` and `lateEth` say that a path brought no crier for FAILOVER_US; `outbox` holds the commits and marks that no twin link
takes yet, `sending` the deliveries on their way, `met` the ports whose mirror has begun, `passed` those whose commit point 6300h waits for no more
(R456), and `wireOld` and `wireSince` the claim of the CLAIM frame in progress at the last change of the own, and when that was (R450). -/
structure TwinPart where
  peerRole : Option Nat := none
  peerInStep : Bool := false
  fresh : Bool := false
  yieldReq : Bool := false
  runs : Vector Nat 8 := Vector.replicate 8 0
  arriving : List MirrorPart := []
  queue : List AggonBody := []
  queued : Nat := 0
  turn : Nat := 0
  cseq : BitVec 16 := 0
  mirrored : Nat := 0
  tags : List (Nat × BitVec 32) := []
  peers : List ((BitVec 11 × Fin 256) × BitVec 32) := []
  lateAggon : Bool := false
  lateEth : Bool := false
  outbox : List AggonBody := []
  sending : List MirrorSend := []
  met : List Port := []
  passed : List Port := []
  wireOld : BitVec 24 := 0
  wireSince : Int := 0
deriving DecidableEq, Repr

end Sys2Proof.Machine
end

