-- ==== Sys2Proof/Machine/NetTypes.lean ====
section
/-! DEFINITION. The parts of State that spec/11 to spec/13 give the machine: Ethernet ports, PTP, streams and
their bales, the decompressor, Ledger sessions and transfers, the CAN port and the day book. -/

namespace Sys2Proof.Machine

/-! ## Ethernet and PTP (spec/11) -/

/-- An E port (R345 to R348): whether its link is up, whether Clause 73 runs, the rate tried, whether Clause 73 chose it and the FEC it
resolved, the rate last up, and whether nothing is heard from a PRP partner. With an interface's first port stand the sequence number of its
next redundancy control trailer and the trailers received, newest first, with their epochs (R347). -/
structure EthPort where
  up : Bool := false
  anRunning : Bool := true
  trying : Nat := 0
  viaAn : Bool := false
  fec : Nat := 0
  lastUp : Nat := 0
  silent : Bool := false
  prpSeq : BitVec 16 := 0
  seen : List (PrpTrailer × Int) := []
deriving DecidableEq, Repr

/-- The PTP clock (R350 to R352): the masters heard on each E port, the bound port, whether a path-delay
measurement has completed since it was bound, the run of missing Syncs, the last Sync since it was bound, and the number of the next delay
request. -/
structure PtpPart where
  heard : List (Fin 4 × PtpMaster) := []
  bound : Option (Fin 4) := none
  measured : Bool := false
  missing : Nat := 0
  sync : Option PtpSyncMsg := none
  request : BitVec 16 := 0
deriving DecidableEq, Repr

/-! ## Streams (spec/11, spec/12) -/

/-- An item a stream takes in (R354, R355): kind, source, item number, data, the epoch that R357 measures
by, where words of its data were replaced as poisoned (R366), and where the engine meets each poisoned 16-byte word (R323). -/
structure Item where
  kind : Nat
  src : Nat
  item : BitVec 32
  data : List Byte
  epoch : Nat
  shot : Bool
  poisoned : List Nat := []
  truncated : Bool := false
  seen : List Nat := []
deriving DecidableEq, Repr

/-- A bale under construction (R357): the chunks' bytes and the epoch of its first shot item, or of the first chunk's
arrival. -/
structure OpenBale where
  bytes : List Byte
  first : Nat
  firstShot : Nat
deriving DecidableEq, Repr

/-- A closed bale on its way through the compressor (R375): its stream, original, FIRST_EPOCH, form and level, and when it closed. -/
structure ClosedBale where
  stream : Fin 256
  original : List Byte
  first : Nat
  form : Nat
  level : Nat
  closedAt : Int
deriving DecidableEq, Repr

/-- A fragment waiting in a stream's queue (R358, R362): a whole stream datagram, whether it is the first fragment of its bale, and the bytes
of all its bale's datagrams. -/
structure Fragment where
  bytes : List Byte
  firstFrag : Bool
  seq : BitVec 32
  total : Nat := 0
deriving DecidableEq, Repr

/-- A stream beside its Ledger record (R357 to R367): for one opened by SUBSCRIBE the session and request, the path and GRANT body, and where
its DATA goes; the open bale and the next bale's number, its queue and credit, the toll bucket in bytes times root ticks per second with the epoch
it was filled at, bytes built in the second at hand, and on a standby the bales closed and the marks received that have not met (R445): a
bale's bytes and FIRST_EPOCH. `unread` holds the items it takes that the stream engine has not read to their end, oldest first, and `readOff` the
bytes read of the first: its read pointer (R340, R365). -/
structure StreamPart where
  isOpen : Bool := false
  bySubscribe : Bool := false
  session : BitVec 32 := 0
  req : BitVec 32 := 0
  peer : Path := .fwd 0 0
  grant : List Byte := []
  dest : BitVec 128 := 0
  destPort : Nat := 0
  bale : Option OpenBale := none
  baleNo : BitVec 32 := 0
  queue : List Fragment := []
  credit : Nat := 0
  bucket : Nat := 0
  filled : Int := 0
  droppedFlag : Bool := false
  built : Nat := 0
  marks : List BaleMarkMsg := []
  held : List (List Byte × Nat) := []
  unread : List Item := []
  readOff : Nat := 0
deriving DecidableEq, Repr

/-- A bale waiting to be decoded (R377, R380): the use that brought it, its transfer by session and serial number, bytes, the lane that
decodes it, its number in the object and, for a peer stream's bale, its stream and where its datagrams go (R439). -/
structure DecodeReq where
  use : Fin 3
  owner : BitVec 32
  transfer : Nat := 0
  bytes : List Byte
  peer : Option (Fin 256 × BitVec 128 × Nat × List (List Byte)) := none
  lane : Option (Fin 8) := none
  number : Nat := 0
deriving DecidableEq, Repr

structure BalePart where
  waiting : List ClosedBale := []
  decode : List DecodeReq := []
deriving DecidableEq, Repr

/-! ## Ledger (spec/13) -/

/-- A segmented transfer (R395): its serial number, the object, BALE, TOTAL and the bytes received, those of them already cut into bales and
the number of those, how many of them the decoder has ended, the originals decoded by number, the code that will refuse SEG_END, and the SEG_END
that waits for the decoder. -/
structure Transfer where
  serial : Nat := 0
  key : Nat
  bale : Bool
  total : Nat
  bytes : List Byte := []
  seen : Nat := 0
  bales : Nat := 0
  ended : Nat := 0
  decoded : List (Nat × List Byte) := []
  failed : Option Nat := none
  requested : Option Req := none
deriving DecidableEq, Repr

/-- A session (R398 to R401): key slot, level asked and granted, nonces, session key, path, whether it is
authenticated or anonymous, the highest SEQ answered, the kept responses, and its transfer, snapshot, day book
position and LOST. -/
structure Session where
  id : BitVec 32
  slot : BitVec 8
  asked : Nat
  level : Nat := 0
  nonceC : List Byte := []
  nonceD : List Byte := []
  key : List Byte := []
  path : Path
  authed : Bool := false
  anon : Bool := false
  seq : Nat := 0
  kept : List (BitVec 32 × List Byte) := []
  transfer : Option Transfer := none
  snapshot : Option (Nat × List Byte) := none
  frm : Option (BitVec 32) := none
  lost : Nat := 0
  violations : Nat := 0
  index : Nat := 0
  last : Int := 0
deriving DecidableEq, Repr

/-- A source of R406: the epochs of its violations in the last second (17 at most), whether it is limited and when a message of its was
handled last, and when it was last answered 0503h. -/
structure SourceRec where
  src : Source
  recent : List Int := []
  limited : Bool := false
  lastServed : Option Int := none
  last0503 : Option Int := none
deriving DecidableEq, Repr

/-- A message forwarded and not yet answered (R403): its target, operation, SESSION and SEQ, and the path it came by. -/
structure ForwardRec where
  target : BitVec 11
  op : Nat
  session : BitVec 32
  seq : BitVec 32
  path : Path
deriving DecidableEq, Repr

/-- A staged group whose APPLY is pending, with the session and source that applied it (R387, R540). -/
structure Applying where
  index : Nat
  session : BitVec 32
  source : BitVec 32
deriving DecidableEq, Repr

/-- The Ledger beside its records: `serial` numbers its transfers, and `arrived` counts the requests that came in the root cycle `cycle`
(R404). -/
structure LedgerPart where
  sessions : List Session := []
  sources : List SourceRec := []
  forwards : List ForwardRec := []
  applying : List Applying := []
  keys : List (Nat × List Byte) := []
  serial : Nat := 0
  arrived : Nat := 0
  cycle : Nat := 0
deriving DecidableEq, Repr

/-- The CAN port (R408 to R412): the partial message of each channel with the count its next frame must carry, the frames that wait to be
sent, whether the port is bus-off, and the epoch of the last frame seen on the bus. -/
structure CanPart where
  partials : List (Fin 16 × List Byte × Nat) := []
  txQueue : List (BitVec 29 × List Byte) := []
  busOff : Bool := false
  lastFrame : Option Int := none
deriving DecidableEq, Repr

/-! ## The day book (spec/13) -/

/-- A day book entry (R413), with its position in the ring and those of its two 16-byte words that lie poisoned. -/
structure DbEntry where
  epoch : Nat
  source : BitVec 16
  code : BitVec 16
  seq : BitVec 32
  index : BitVec 16
  sub : BitVec 8
  bit : BitVec 8
  count : BitVec 32
  detail : BitVec 64
  place : Nat := 0
  bad : List Nat := []
deriving DecidableEq, Repr

/-- The state of a summary key (R539): the events counted since its last entry and the epoch of the first. -/
structure SummaryRec where
  key : SummaryKey
  count : Nat := 0
  first : Nat := 0
deriving DecidableEq, Repr

/-- The day book ring (R339, R414): the entries held, oldest first, the ring's length in force and a length
that waits for the wrap, the position of the write pointer, the epoch second at hand and its entries, the next
SEQ, the entries of classes FAULT and START still to be written to flash and those in its cells, and those no DAYBOOK stream has read yet. -/
structure DayBook where
  entries : List DbEntry := []
  len : Nat := 65536
  staged : Option Nat := none
  pos : Nat := 0
  second : Nat := 0
  inSecond : Nat := 0
  seq : BitVec 32 := 0
  summaries : List SummaryRec := []
  unjournalled : List DbEntry := []
  cells : List DbEntry := []
  unread : List DbEntry := []
deriving DecidableEq, Repr

/-! ## What the block sends -/

/-- What leaves the block, in order: Ledger responses, stream datagrams, Ethernet frames of the device's own by EtherType or protocol,
CAN frames, Aggon frames with the blocks that go over each physical lane, alignment and timing markers, FCTL words, the EPOCH_SEC pulse of CLKMON, twin criers on Ethernet, the CLAIM frame from which on a changed claim is sent, chain frames,
test pulses of sinks, and what the debug port shows. Of a frame on Ethernet `rct` is the sequence number of its redundancy control trailer,
none where it has none (R347). -/
inductive Out where
  | ledger (path : Path) (bytes : List Byte) (rct : Option (BitVec 16))
  | stream (iface : Nat) (dest : BitVec 128) (port : Nat) (bytes : List Byte) (rct : Option (BitVec 16))
  | eth (port : Fin 4) (kind : Nat) (bytes : List Byte) (rct : Option (BitVec 16))
  | can (id : BitVec 29) (bytes : List Byte)
  | frame (k : Fin 4) (f : AggonFrame) (blocks : List (Fin 5 × BitVec 66))
  | marker (k : Fin 4) (lane : Fin 5) (logical : Option Nat) (map : List (Fin 5)) (failed : Option (Fin 5))
  | timing (k : Fin 4)
  | fctl (n : Port) (w : BitVec 32) (bits : Nat)
  | clkmonPulse
  | crier (p : Fin 4) (mac : Nat) (payload : List Byte) (rct : Option (BitVec 16))
  | claim (frame : BitVec 40)
  | chainFrame (bits : List Byte) (length : Nat)
  | chainLatch
  | sinkPulse (k : Fin 16) (ma : Nat)
  | debug (status : Nat) (value : BitVec 128)
  | tap (bits : List Byte)
deriving DecidableEq, Repr

/-- What waits at the crossing to the Ethernet SerDes for its items to be taken again (R342), with the E ports it leaves on. -/
structure NetHeld where
  ports : List (Fin 4)
  out : Out
deriving DecidableEq, Repr

end Sys2Proof.Machine
end

