-- ==== Sys2Proof/Machine/PlantTypes.lean ====
section
/-! DEFINITION. The parts of State that spec/15 gives the machine: the sensor front end, loop outputs, emitter sinks and the latch chain. -/

namespace Sys2Proof.Machine

/-- A sensor channel beside its Ledger record (R464 to R469): the autorange step, whether the next conversion repeats an overrange one,
whether excitation is chopped, the run of conversions with much quadrature, whether the last sine conversion taken while chopped was low in
it and the run of chopped conversions since, the fault that holds until a tone check passes, and whether the channel has a
result, and one of the cycle at hand. -/
structure SfeChannel where
  step : Nat := 0
  repeating : Bool := false
  chopped : Bool := false
  quadRun : Nat := 0
  quadLow : Bool := false
  goodRun : Nat := 0
  held : Option Nat := none
  hasResult : Bool := false
  taken : Bool := false
deriving DecidableEq, Repr

/-- A loop output (R471 to R474): the value of the last plant mail, whether that mail carried FAULT, whether the source's value is older
than SRC_AGE, and the last good current. -/
structure LoopPart where
  mail : Option Int := none
  mailFault : Bool := false
  aged : Bool := false
  good : Nat := 0
deriving DecidableEq, Repr

/-- The latch chain (R480, R481): whether a frame is in progress, what it shifts, the image last shifted, whether the next frame is the
first after enable, retries made, whether the chain waits for REFRESH after a failure, and the bits that plant mail has set. -/
structure ChainPart where
  busy : Bool := false
  shifting : List Byte := []
  shifted : List Byte := []
  fresh : Bool := true
  tries : Nat := 0
  resting : Bool := false
  mail : List Byte := List.replicate 128 0
deriving DecidableEq, Repr

/-- The plant interfaces: the sensor channels, the cycle count, the pair of slot-4 resistances of the cycle, the runs of R461, loops, the tests
missed in a row by each emitter sink, the chain, and whether the groups have taken their journalled configuration since reset. -/
structure PlantPart where
  sfe : Vector SfeChannel 8 := Vector.replicate 8 {}
  cycle : Nat := 0
  pair : Option (Fin 8 × Nat × Nat) := none
  failRun : Nat := 0
  passRun : Nat := 0
  loops : Vector LoopPart 8 := Vector.replicate 8 {}
  tests : Vector Nat 16 := Vector.replicate 16 0
  chain : ChainPart := {}
  live : Bool := false
deriving DecidableEq, Repr

end Sys2Proof.Machine
end

