-- ==== Sys2Proof/Machine/State.lean ====
section
/-! DEFINITION. State: everything the spec gives the block, as plain data; the outcomes that are no next state;
and the state after reset. -/

namespace Sys2Proof.Machine

/-- The reasons a command stops the block: none. The spec gives every command of the table an effect, a refusal message of the
Ledger is an answer and not a stop, so no constructor stands here. -/
inductive Fault where
deriving DecidableEq, Repr

/-- Why the model gives a command no meaning. -/
inductive Refusal where
  /-- Raised by Dispatch for a command whose meaning is not written; safe: nothing is claimed of it. -/
  | notModelled (mnemonic : String)
deriving DecidableEq, Repr

structure State where
  regs : List (Nat × Nat) := []
  blobs : List (Nat × List Byte) := []
  staged : List (Nat × Nat) := []
  stagedBlobs : List (Nat × List Byte) := []
  ep : EpochPart := {}
  mains : MainsPart := {}
  enc : EncPart := {}
  lsi : LsiPart := {}
  ports : Vector FibrePort 8 := Vector.replicate 8 {}
  pipes : Vector PipePart 8 := Vector.replicate 8 {}
  raman : Vector RamanPart 8 := Vector.replicate 8 {}
  bril : Vector BrilPart 8 := Vector.replicate 8 {}
  stalls : Vector Stall 132 := Vector.replicate 132 {}
  pitches : Vector PitchPart 192 := Vector.replicate 192 {}
  programs : Vector ProgramPart 16 := Vector.replicate 16 {}
  array : ArrayPart := {}
  capture : CapturePart := {}
  clk : ClockPart := {}
  units : Vector MeasurePart 8 := Vector.replicate 8 {}
  dram : Vector DramChannel 2 := Vector.replicate 2 {}
  mem : List Host.Cell := []
  poison : List Nat := []
  flips : List (Nat × BitVec 137) := []
  eth : Vector EthPort 4 := Vector.replicate 4 {}
  ptp : PtpPart := {}
  streams : Vector StreamPart 256 := Vector.replicate 256 {}
  bale : BalePart := {}
  ledger : LedgerPart := {}
  can : CanPart := {}
  book : DayBook := {}
  cal : Vector CalRun 20 := Vector.replicate 20 {}
  flash : FlashPart := {}
  tdc : TdcPart := {}
  links : Vector LinkPart 4 := Vector.replicate 4 {}
  cluster : ClusterPart := {}
  twin : TwinPart := {}
  plant : PlantPart := {}
  boot : BootPart := {}
  netHeld : List NetHeld := []
  out : List Out := []
  fresh : Nat := 0
  pending : List Instr := []
deriving DecidableEq, Repr

/-- The machine right after power-on (R503, R507 step 1): every register at its default, the serial number "000000000000" (log entry 28), the
factory firmware in bank A (log entry 27), the commissioning key in slot 0 (R519), journals as manufactured, nothing in memory. -/
def State.reset : State :=
  { blobs := [(0x1000 * 256 + 0x04, List.replicate 12 0x30)],
    ledger := { keys := [(0, Config.commissioningKey)] },
    boot := { banks := (Vector.replicate 2 {}).set 0 factoryBank } }

end Sys2Proof.Machine
end

