-- ==== Sys2Proof/Machine/Ops.lean ====
section
/-! DEFINITION. The named operations over State: registers of the Ledger, bytes and numbers, memory, ports and
parts, and rounding where the spec states it. -/

namespace Sys2Proof.Machine

abbrev Result := Host.Outcome State Fault Refusal

/-- The state an outcome gives; one that gives none changes nothing. -/
def nextOf (s : State) (r : Result) : State :=
  match r with
  | .next t => t
  | _ => s

/-! ## Numbers -/

/-- `n` little-endian bytes of a number (R8). -/
def le : Nat → Nat → List Byte
  | 0, _ => []
  | n + 1, v => BitVec.ofNat 8 v :: le n (v / 256)

/-- The number that little-endian bytes spell (R8). -/
def fromLe : List Byte → Nat
  | [] => 0
  | b :: r => b.toNat + 256 * fromLe r

/-- Two's complement of width `w` (R7). -/
def toSigned (w v : Nat) : Int := if v < 2 ^ (w - 1) then v else (v : Int) - 2 ^ w

def ofSigned (w : Nat) (v : Int) : Nat := (v % (2 ^ w : Int)).toNat

/-- A quotient whose rounding the spec does not state: an exact one as it is, another one rounded down or up
as the device does (log entry 2). -/
def freeRound (num den : Int) : Int :=
  if num % den = 0 then num / den
  else if Config.roundUp num den then num / den + 1 else num / den

/-- Round half to even. -/
def roundEven (q : Rat) : Int :=
  let f := q.floor
  let r := q - f
  if r < 1 / 2 then f else if 1 / 2 < r then f + 1 else if f % 2 = 0 then f else f + 1

/-- The root of a number in whole units: exact where there is one, else the nearest below or above as the device rounds (log entry 2). -/
def rootFree (q : Rat) : Nat :=
  let r := Nat.sqrt q.floor.toNat
  if (r : Rat) * r = q then r else if Config.roundUp q.num q.den then r + 1 else r

def ceilDiv (a b : Nat) : Nat := (a + b - 1) / b


def bit8 (x : Bool) (b : Nat) : Nat := if x then 2 ^ b else 0

/-- Root ticks of 312.5 ps per second (R12). -/
def ticksPerSecond : Nat := 3200000000

/-- Picoseconds of a time in fine LSBs: one LSB is 312.5 / 256 = 625 / 512 ps (R12). -/
def psOfFine (t : Int) : Int := freeRound (t * 625) 512

/-- The bytes with index `a` to `a + n - 1`. -/
def slice (l : List Byte) (a n : Nat) : List Byte := (l.drop a).take n

/-- A list of bytes cut or filled with zeros to `n` bytes. -/
def padTo (n : Nat) (l : List Byte) : List Byte := l.take n ++ List.replicate (n - l.length) 0

/-- CRC-32C as R369 places it: reflected polynomial 82F6_3B78h, initial and final XOR FFFF_FFFFh. -/
def crcStep : Nat → BitVec 32 → BitVec 32
  | 0, c => c
  | k + 1, c => crcStep k (if c.getLsbD 0 then (c >>> 1) ^^^ 0x82F63B78#32 else c >>> 1)

def crc32c (l : List Byte) : BitVec 32 :=
  l.foldl (fun c b => crcStep 8 (c ^^^ b.setWidth 32)) 0xFFFFFFFF#32 ^^^ 0xFFFFFFFF#32

/-- The number an F32 value spells (IEEE 754 binary32, R382); a value that is no number stays open (log entry 4). -/
def f32Val (v : Nat) : Rat :=
  let e : Nat := v / 2 ^ 23 % 256
  let m : Nat := v % 2 ^ 23
  let x : Rat := if e = 0 then (m : Rat) / 2 ^ 149
    else if e = 255 then Config.notANumber v
    else ((2 ^ 23 + m : Nat) : Rat) * 2 ^ e / 2 ^ 150
  if v.testBit 31 then -x else x

/-! ## Ledger registers -/

/-- The value a sorted list of pairs gives a key; `d` where it lists none. -/
def rf : List (Nat × Nat) → Nat → Nat → Nat
  | [], _, d => d
  | (a, v) :: r, k, d => if a = k then v else if k < a then d else rf r k d

def rfSet : List (Nat × Nat) → Nat → Nat → List (Nat × Nat)
  | [], k, v => [(k, v)]
  | (a, x) :: r, k, v =>
    if a = k then (k, v) :: r else if k < a then (k, v) :: (a, x) :: r else (a, x) :: rfSet r k v

/-- The value of a register (R382), unsigned. -/
def State.u (s : State) (r : Reg) : Nat := rf s.regs r.key r.dflt

/-- The value of a register as two's complement of its width. -/
def State.i (s : State) (r : Reg) : Int := toSigned r.width (s.u r)

def State.put (s : State) (r : Reg) (v : Nat) : State :=
  { s with regs := rfSet s.regs r.key (v % 2 ^ r.width) }

def State.puti (s : State) (r : Reg) (v : Int) : State := s.put r (ofSigned r.width v)

/-- The value of a counter after one more event: where it would pass its largest value, the spec states no
result for most counters (log entry 3). -/
def counted (r : Reg) (v n : Nat) : Nat :=
  if v + n < 2 ^ r.width then v + n else Config.rollover r.key

def State.add (s : State) (r : Reg) (n : Nat) : State := s.put r (counted r (s.u r) n)

def State.bump (s : State) (r : Reg) : State := s.add r 1

/-- The value of a word with bit `b` set, or clear. -/
def withBit (v b : Nat) (x : Bool) : Nat :=
  if v.testBit b = x then v else if x then v + 2 ^ b else v - 2 ^ b

def State.bit (s : State) (r : Reg) (b : Nat) : Bool := (s.u r).testBit b

def State.putBit (s : State) (r : Reg) (b : Nat) (x : Bool) : State := s.put r (withBit (s.u r) b x)

def State.setBit (s : State) (r : Reg) (b : Nat) : State := s.putBit r b true

def State.clrBit (s : State) (r : Reg) (b : Nat) : State := s.putBit r b false

/-- The value a register's staged copy holds (R386). -/
def State.us (s : State) (r : Reg) : Nat := rf s.staged r.key (s.u r)

def State.is (s : State) (r : Reg) : Int := toSigned r.width (s.us r)

/-- A VIS or BLOB object's bytes. -/
def blobOf (l : List (Nat × List Byte)) (k : Nat) : Option (List Byte) :=
  (l.find? (fun e => e.1 == k)).map (·.2)

def State.blob (s : State) (k : Nat) : List Byte := (blobOf s.blobs k).getD []

def State.blobStaged (s : State) (k : Nat) : List Byte := (blobOf s.stagedBlobs k).getD (s.blob k)

def blobSet (l : List (Nat × List Byte)) (k : Nat) (v : List Byte) : List (Nat × List Byte) :=
  (k, v) :: l.filter (fun e => e.1 != k)

def State.putBlob (s : State) (k : Nat) (v : List Byte) : State := { s with blobs := blobSet s.blobs k v }

/-! ## Time and output -/

/-- The epoch count (R12). -/
def State.now (s : State) : Nat := s.ep.count.toNat

/-- An EPOCH value (R382): the count in its first 8 bytes, the fine field in the ninth. -/
def epochVal (t : Stamp) : Nat := t / 256 % 2 ^ 64 + t % 256 * 2 ^ 64

def stampOf (v : Nat) : Stamp := v % 2 ^ 64 * 256 + v / 2 ^ 64 % 256

def State.emit (s : State) (o : Out) : State := { s with out := s.out ++ [o] }

/-- The number of the next free value drawn. -/
def State.drawn (s : State) : State := { s with fresh := s.fresh + 1 }

/-- The device's own ID (R417). -/
def ownId (s : State) : BitVec 11 := BitVec.ofNat 11 (s.u Obj.AGGON.DEVICE_ID)

/-- Whether the clerks run: neither restarting nor halted (R506). -/
def clerksUp (s : State) : Bool := !s.boot.restarting && !s.boot.halted

/-! ## Parts by number -/

def State.modPort (s : State) (n : Port) (f : FibrePort → FibrePort) : State :=
  { s with ports := s.ports.set n (f s.ports[n]) }

def State.modPipe (s : State) (n : Port) (f : PipePart → PipePart) : State :=
  { s with pipes := s.pipes.set n (f s.pipes[n]) }

def State.modRaman (s : State) (n : Port) (f : RamanPart → RamanPart) : State :=
  { s with raman := s.raman.set n (f s.raman[n]) }

def State.modBril (s : State) (n : Port) (f : BrilPart → BrilPart) : State :=
  { s with bril := s.bril.set n (f s.bril[n]) }

def State.modStall (s : State) (t : StallId) (f : Stall → Stall) : State :=
  { s with stalls := s.stalls.set t (f s.stalls[t]) }

def State.modPitch (s : State) (k : Fin 192) (f : PitchPart → PitchPart) : State :=
  { s with pitches := s.pitches.set k (f s.pitches[k]) }

def State.modProgram (s : State) (g : Fin 16) (f : ProgramPart → ProgramPart) : State :=
  { s with programs := s.programs.set g (f s.programs[g]) }

def State.modRegion (s : State) (r : Fin 64) (f : RegionPart → RegionPart) : State :=
  { s with capture := { s.capture with regions := s.capture.regions.set r (f s.capture.regions[r]) } }

def State.modStream (s : State) (k : Fin 256) (f : StreamPart → StreamPart) : State :=
  { s with streams := s.streams.set k (f s.streams[k]) }

def State.modEth (s : State) (p : Fin 4) (f : EthPort → EthPort) : State :=
  { s with eth := s.eth.set p (f s.eth[p]) }

/-- A change over every number of a finite range, in order. -/
def overAll {n : Nat} (s : State) (f : State → Fin n → State) : State := (List.finRange n).foldl f s

def State.modJournal (s : State) (j : Fin 18) (f : JournalPart → JournalPart) : State :=
  { s with flash := { s.flash with journals := s.flash.journals.set j (f s.flash.journals[j]) } }

def State.modCal (s : State) (k : Nat) (f : CalRun → CalRun) : State :=
  { s with cal := if h : k < 20 then s.cal.set k (f s.cal[k]) else s.cal }

def State.calOf (s : State) (k : Nat) : CalRun := s.cal.toList.getD k {}

def State.modUnit (s : State) (u : Fin 8) (f : MeasurePart → MeasurePart) : State :=
  { s with units := s.units.set u (f s.units[u]) }

/-- Every pending start and held stop of every measurement unit is discarded, and the block in progress carries
STEPPED (R319). -/
def State.discardEvents (s : State) : State :=
  overAll s (fun t u =>
    (t.modUnit u (fun m => { m with events := [], start := none, held := [], flags := m.flags ||| 4#5 })).setBit
      (Obj.MEASURE.MFLAGS u) Bit.MEASURE.MFLAGS.STEPPED)

/-- A side of some crossings is reset (R342): the other sees PEER_RESET, and the items in flight, how many the device knows for itself, are
discarded and count (log entry 60). -/
def State.peerReset (s : State) (xs : List Nat) : State :=
  xs.foldl (fun t x =>
    ((t.setBit Obj.CROSSINGS.PEER_RESET x).add (Obj.CROSSINGS.DRAINED x) (Config.measured t.fresh)).drawn) s

/-- Whether a crossing refuses items: a side of it was reset not long ago (R342). -/
def refuses (s : State) (x : Fin 9) : Bool := s.bit Obj.CROSSINGS.PEER_RESET x

/-! ## Memory -/

/-- What an address of memory that nothing has written reads as (log entry 20). -/
def unwritten : Byte := 0

/-- The byte a memory gives an address. -/
def Memory.read : List Host.Cell → Nat → Byte
  | [], _ => unwritten
  | (a, v) :: r, k => if a = k then v else if k < a then unwritten else Memory.read r k

/-- A memory with one byte written; an entry equal to what an unlisted address reads as is left out. -/
def Memory.write : List Host.Cell → Nat → Byte → List Host.Cell
  | [], k, v => if v = unwritten then [] else [(k, v)]
  | (a, x) :: r, k, v =>
    if a = k then (if v = unwritten then r else (k, v) :: r)
    else if k < a then (if v = unwritten then (a, x) :: r else (k, v) :: (a, x) :: r)
    else (a, x) :: Memory.write r k v

/-- The canonical form: addresses strictly rising, no entry that reads as an unlisted address. -/
def Memory.wf : List Host.Cell → Bool
  | [] => true
  | [(_, v)] => v != unwritten
  | (a, v) :: (b, w) :: r => v != unwritten && decide (a < b) && Memory.wf ((b, w) :: r)

def Memory.readBytes (m : List Host.Cell) : Nat → Nat → List Byte
  | _, 0 => []
  | a, n + 1 => Memory.read m a :: Memory.readBytes m (a + 1) n

def Memory.writeBytes (m : List Host.Cell) : Nat → List Byte → List Host.Cell
  | _, [] => m
  | a, b :: r => Memory.writeBytes (Memory.write m a b) (a + 1) r

/-- A memory with `n` bytes from an address on zeroed. -/
def Memory.clear (m : List Host.Cell) (a n : Nat) : List Host.Cell :=
  m.filter (fun c => decide (c.1 < a) || decide (a + n ≤ c.1))

/-- The cells that list some bytes from an address on. -/
def cellsAt (a : Nat) (l : List Byte) : List Host.Cell :=
  (l.zipIdx a).filterMap (fun e => if e.1 = unwritten then none else some (e.2, e.1))

/-- A memory with a whole range replaced by some bytes. -/
def Memory.place (m : List Host.Cell) (a : Nat) (l : List Byte) : List Host.Cell :=
  m.filter (fun c => decide (c.1 < a)) ++ cellsAt a l ++ m.filter (fun c => decide (a + l.length ≤ c.1))

/-- A memory in which `n` bytes from `b` on are a copy of those from `a` on. -/
def Memory.copy (m : List Host.Cell) (a b n : Nat) : List Host.Cell :=
  m.filter (fun c => decide (c.1 < b)) ++
  (m.filter (fun c => decide (a ≤ c.1) && decide (c.1 < a + n))).map (fun c => (c.1 - a + b, c.2)) ++
  m.filter (fun c => decide (b + n ≤ c.1))

/-- The debug addresses of R343. -/
def yardBase : Nat := 0
def yardBytes : Nat := 32 * 1024 * 1024
def dramBase : Nat := 0x1000000000
def stallData (t : StallId) : Nat := 0x10000000 + t.val * 0x40000
def stallProg (t : StallId) : Nat := 0x10030000 + t.val * 0x40000
def stallDataBytes : Nat := 0x30000
def stallProgBytes : Nat := 0x8000

/-- Whether the 16-byte word that holds an address is poisoned (R323). -/
def State.poisoned (s : State) (a : Nat) : Bool := s.poison.contains (a / 16 * 16)

def insertSorted (a : Nat) : List Nat → List Nat
  | [] => [a]
  | b :: r => if a = b then b :: r else if a < b then a :: b :: r else b :: insertSorted a r

/-- Marks or clears the poison of a word (R323, R325). -/
def State.setPoison (s : State) (a : Nat) (x : Bool) : State :=
  { s with poison := if x then insertSorted (a / 16 * 16) s.poison
                     else s.poison.filter (fun w => w != a / 16 * 16) }

/-- The memory a debug address lies in (R343). -/
inductive MemKind where
  | yard | stall | dram | outside
deriving DecidableEq, Repr

/-- Bytes of DRAM fitted. -/
def fitted (s : State) : Nat := s.u (Obj.DRAM_CHANNEL.CAPACITY 0) + s.u (Obj.DRAM_CHANNEL.CAPACITY 1)

def memKind (s : State) (a : Nat) : MemKind :=
  if a < yardBytes then .yard
  else if 0x10000000 ≤ a ∧ a < 0x10000000 + 132 * 0x40000 ∧ (a - 0x10000000) % 0x40000 < 0x38000 then .stall
  else if dramBase ≤ a ∧ a < dramBase + fitted s then .dram
  else .outside

/-- The channel that holds a DRAM address (R331). -/
def channelOf (a : Nat) : Nat := a / 256 % 2

/-- The bits in error of some words leave with what is written over them. -/
def State.dropFlips (s : State) (a n : Nat) : State :=
  { s with flips := s.flips.filter (fun e => decide (e.1 < a) || decide (a + n ≤ e.1)) }

/-- Zeros stored over whole 16-byte words: their poison clears (R325). -/
def State.clearWords (s : State) (a n : Nat) : State :=
  State.dropFlips
    { s with mem := Memory.clear s.mem a n,
             poison := s.poison.filter (fun w => decide (w < a) || decide (a + n ≤ w)) } a n

/-- Bytes stored over whole 16-byte words, clearing their poison (R325). -/
def State.placeWords (s : State) (a : Nat) (l : List Byte) : State :=
  State.dropFlips
    { s with mem := Memory.place s.mem a l,
             poison := s.poison.filter (fun w => decide (w < a) || decide (a + l.length ≤ w)) } a l.length

def State.load (s : State) (a n : Nat) : List Byte := Memory.readBytes s.mem a n

/-! ## Words read (R322 to R324) -/

/-- A single-bit error corrected (R324). -/
def State.countSingle (s : State) (a : Nat) : State :=
  match memKind s a with
  | .yard => s.bump Obj.MEMORY.YARD_CE
  | .stall => s.bump Obj.MEMORY.SRAM_CE
  | .dram => s.bump (Obj.DRAM_CHANNEL.CE (channelOf a))
  | .outside => s

/-- An uncorrectable word is met (R323): poison counts by the reader's own count; any other syndrome counts in UNCORR. -/
def State.countUncorr (s : State) (a : Nat) (syn : BitVec 9) : State :=
  if syn = 3 then s
  else
    let t := (s.bump Obj.MEMORY.UNCORR).put Obj.MEMORY.LAST_UNCORR (a / 16 * 16)
    let t := t.setBit Obj.MEMORY.FLAGS Bit.MEMORY.FLAGS.UNCORR
    if memKind s a = .dram then t.bump (Obj.DRAM_CHANNEL.UNCORR (channelOf a)) else t

/-- Where a 16-byte word is held: its data, whether it is poisoned, and how both are put. -/
structure Holder where
  word : BitVec 128
  bad : Bool
  put : BitVec 128 → Bool → State → State

/-- What a read of a word finds. -/
def State.finds (s : State) (a : Nat) (h : Holder) : Found := readWord h.word h.bad (flipAt s.flips a)

/-- A read meets the bits in error of a word (R323, R324): the word is written back corrected, or with the poison marker. -/
def State.meet (s : State) (a : Nat) (h : Holder) : State :=
  match flipAt s.flips a with
  | none => s
  | some e =>
    let t := { s with flips := s.flips.filter (fun f => f.1 != a) }
    match s.finds a h with
    | .clean d => h.put d false t
    | .single d => (h.put d false t).countSingle a
    | .bad y => (h.put (h.word ^^^ e.setWidth 128) true t).countUncorr a y

/-- Whether a read of a word finds the poison marker (R323). -/
def State.findsPoison (s : State) (a : Nat) (h : Holder) : Bool := s.finds a h == .bad 3

/-- A word is read: the poison marker counts (R323), and bits in error are met. -/
def State.readAt (s : State) (a : Nat) (h : Holder) : State :=
  (if s.findsPoison a h then s.bump Obj.MEMORY.POISON_SEEN else s).meet a h

/-- A word of the memories that State.mem lists. -/
def plainHolder (s : State) (a : Nat) : Holder :=
  ⟨BitVec.ofNat 128 (fromLe (s.load a 16)), s.poisoned a,
   fun d x t => State.setPoison { t with mem := Memory.writeBytes t.mem a (le 16 d.toNat) } a x⟩

/-- A read of some bytes meets the bits in error of their words. -/
def State.meetWords (s : State) (a n : Nat) : State :=
  (s.flips.filter (fun e => decide (a < e.1 + 16) && decide (e.1 < a + n))).foldl
    (fun (t : State) e => t.meet e.1 (plainHolder t e.1)) s

/-- The poisoned words that a read of some bytes finds (R323). -/
def State.poisonIn (s : State) (a n : Nat) : Nat :=
  let hit := fun (w : Nat) => decide (a < w + 16) && decide (w < a + n)
  (s.poison.filter (fun w => hit w && !s.flips.any (fun e => e.1 == w))).length +
  (s.flips.filter (fun e => hit e.1 && s.findsPoison e.1 (plainHolder s e.1))).length

/-- A read of some bytes (R323, R324): the poisoned words among them count, and bits in error are corrected or marked. -/
def State.seePoison (s : State) (a n : Nat) : State :=
  let c := s.poisonIn a n
  (if c = 0 then s else s.add Obj.MEMORY.POISON_SEEN c).meetWords a n

/-- Whole 16-byte words copied with their poison, as they are read. -/
def State.copyWords (s : State) (a b n : Nat) : State :=
  let s := s.seePoison a n
  State.dropFlips
    { s with mem := Memory.copy s.mem a b n,
             poison := s.poison.filter (fun w => decide (w < b)) ++
               (s.poison.filter (fun w => decide (a ≤ w) && decide (w < a + n))).map (fun w => w - a + b) ++
               s.poison.filter (fun w => decide (b + n ≤ w)) } b n

/-- A store inside one 16-byte word (R325): a whole word clears its poison; a part of one merges with the word read, and a word that was
poisoned stays so. -/
def State.store (s : State) (a : Nat) (b : List Byte) : State :=
  if a % 16 = 0 && b.length == 16 then
    (State.setPoison { s with mem := Memory.writeBytes s.mem a b } a false).dropFlips a 16
  else
    let t := s.seePoison a b.length
    { t with mem := Memory.writeBytes t.mem a b }

/-- A store of whole 16-byte words with their poison marks (R326: a porter destination stays poisoned). -/
def State.storeWords (s : State) : Nat → List (List Byte × Bool) → State
  | _, [] => s
  | a, (w, x) :: r => (((s.store a (padTo 16 w)).setPoison a x)).storeWords (a + 16) r

/-- The 16-byte words of a range, with their poison marks. -/
def State.loadWords (s : State) : Nat → Nat → List (List Byte × Bool)
  | _, 0 => []
  | a, n + 1 => (s.load a 16, s.poisoned a) :: s.loadWords (a + 16) n

end Sys2Proof.Machine
end

