-- ==== Sys2Proof/Machine/Coding.lean ====
section
/-! DEFINITION. Aggon frames as they travel: the layouts of payloads (R277, R422, R448), the header and the payload words with their check bits
(R424, R425), and the 64b/66b blocks on the lanes (R418). -/

namespace Sys2Proof.Machine

/-! ## Payloads -/

/-- A bell message in its 32 bytes (R277). -/
def bellBytes (m : BellMsg) : List Byte :=
  [m.type, m.group] ++ le 2 m.origin.toNat ++ le 4 m.seq.toNat ++ le 8 m.epoch.toNat ++ [m.fine, m.region, m.condMask, m.armMode] ++
  le 4 m.boundarySeq.toNat ++ List.replicate 8 0

/-- The bell message that 32 bytes hold (R277); reserved bits and bytes are passed over. -/
def bellOf (l : List Byte) : BellMsg :=
  { type := l.getD 0 0, group := l.getD 1 0, origin := BitVec.ofNat 11 (fromLe (slice l 2 2)), seq := BitVec.ofNat 32 (fromLe (slice l 4 4)),
    epoch := BitVec.ofNat 64 (fromLe (slice l 8 8)), fine := l.getD 16 0, region := l.getD 17 0, condMask := l.getD 18 0,
    armMode := l.getD 19 0, boundarySeq := BitVec.ofNat 32 (fromLe (slice l 20 4)) }

/-- A link's haggle payload in its 16 bytes (R422). -/
def linkHaggleBytes (h : LinkHaggle) : List Byte :=
  [h.version, h.link] ++ le 2 h.deviceId.toNat ++ le 2 h.cluster.toNat ++ [h.lanes, h.fwMajor] ++ le 4 h.serialCrc.toNat ++
  le 2 h.twinPeer.toNat ++ le 2 0

/-- The haggle payload that 16 bytes hold (R422). -/
def linkHaggleOf (l : List Byte) : LinkHaggle :=
  { version := l.getD 0 0, link := l.getD 1 0, deviceId := BitVec.ofNat 11 (fromLe (slice l 2 2)),
    cluster := BitVec.ofNat 16 (fromLe (slice l 4 2)), lanes := l.getD 6 0, fwMajor := l.getD 7 0,
    serialCrc := BitVec.ofNat 32 (fromLe (slice l 8 4)), twinPeer := BitVec.ofNat 16 (fromLe (slice l 12 2)) }

/-- A crier in its 16 bytes (R448). -/
def crierBytes (m : CrierMsg) : List Byte :=
  [m.role, m.cflags] ++ le 3 m.claim.toNat ++ le 1 0 ++ le 2 m.cseq.toNat ++ le 8 m.epoch.toNat

/-- The crier that 16 bytes hold (R448). -/
def crierFrom (l : List Byte) : CrierMsg :=
  { role := l.getD 0 0, cflags := l.getD 1 0, claim := BitVec.ofNat 24 (fromLe (slice l 2 3)), cseq := BitVec.ofNat 16 (fromLe (slice l 6 2)),
    epoch := BitVec.ofNat 64 (fromLe (slice l 8 8)) }

/-- The whole message of a mirrored commit, whose layout the spec does not give (R441; log entry 70). -/
def commitBytes (m : MirrorCommit) : List Byte :=
  Config.layout 5 ([m.index.toNat, m.boundary.toNat, m.values.length] ++ m.values.flatMap (fun e => [e.1, e.2]) ++
    m.blobs.flatMap (fun e => e.1 :: e.2.length :: e.2.map BitVec.toNat))

/-- How many frames a mirrored commit takes: each has 16 words at most (R424). -/
def commitParts (m : MirrorCommit) : Nat := max 1 (ceilDiv (commitBytes m).length 256)

/-- The payload bytes of a frame. -/
def bodyBytes : AggonBody → List Byte
  | .empty => []
  | .words l _ => l
  | .bell m => bellBytes m
  | .crier none => []
  | .crier (some m) => crierBytes m
  | .time sent received err => Config.layout 3 [sent, received, err]
  | .haggle h => linkHaggleBytes h
  | .topo t => Config.layout 8 ([t.deviceId.toNat, t.serialCrc.toNat, t.seq.toNat, bit8 t.privileged 0 + bit8 t.originTai 1, t.rootPri.toNat] ++
      t.links.flatMap (fun e => [(e.1.map BitVec.toNat).getD 0xFFFF, e.2]))
  | .mirror n deliv index _ data _ => padTo 16 (Config.layout 5 [n.val, deliv.toNat, index]) ++ data
  | .commit m part => slice (commitBytes m) (256 * part) 256
  | .mark m => Config.layout 5 [m.stream.val, m.bale.toNat, m.firstSeq.toNat, m.frags.toNat, m.compLen.toNat, m.check.toNat]

/-- The payload words of a frame that leave poisoned (R425). -/
def poisonedWords : AggonBody → List Nat
  | .words _ p => p
  | .mirror _ _ index _ _ p => p.map (fun w => w - index + 1)
  | _ => []

/-- The payload words of a frame, LEN: at most 16 (R424). -/
def bodyWords (f : AggonFrame) : Nat := min 16 (ceilDiv (bodyBytes f.body).length 16)

/-! ## The frame (R424, R425) -/

/-- A frame's header as it travels (R424). -/
def frameHeader (f : AggonFrame) : List Byte :=
  let h := le 1 (f.vc + 8 * f.kind) ++ le 1 (bit8 f.isFirst 0 + bit8 f.isLast 1 + bit8 f.bcast 2 + bit8 f.nak 3) ++ le 2 f.dest.toNat ++
    le 2 f.src.toNat ++ le 1 f.hops ++ le 1 (bodyWords f) ++ le 2 f.fseq.toNat ++ le 2 f.ack.toNat ++ le 4 f.msg.toNat ++
    (List.range 4).flatMap (fun v => le 1 (f.credit.getD v 0))
  h ++ le 4 (crc32c h).toNat

/-- Whether a received header's HCRC is right (R424, R428). -/
def headerGood (l : List Byte) : Bool := fromLe (slice l 20 4) == (crc32c (l.take 20)).toNat

/-- A payload word in its 18 bytes (R425): the data, then c[8:0] of the code of R322 in a U16. -/
def payloadWord (d : List Byte) (poisoned : Bool) : List Byte :=
  let w := storedWord (BitVec.ofNat 128 (fromLe d)) poisoned 0
  padTo 16 d ++ le 2 (w >>> 128).toNat

/-- A frame's bytes. -/
def frameWire (f : AggonFrame) : List Byte :=
  let l := bodyBytes f.body
  frameHeader f ++ (List.range (bodyWords f)).flatMap (fun i => payloadWord (padTo 16 (slice l (16 * i) 16)) ((poisonedWords f.body).contains i))

/-- The bytes a frame takes: 24 of header and 18 for each payload word. -/
def frameBytes (f : AggonFrame) : Nat := 24 + 18 * bodyWords f

/-! ## The lanes (R418) -/

/-- The self-synchronising scrambler x⁵⁸ + x³⁹ + 1 over a block of 64 bits, the least significant first; bit 0 of its state is the bit it put out
last. -/
def scramble (st : BitVec 58) (b : BitVec 64) : BitVec 58 × BitVec 64 :=
  (List.range 64).foldl (fun (a : BitVec 58 × BitVec 64) i =>
    let o := b.getLsbD i ^^ a.1.getLsbD 38 ^^ a.1.getLsbD 57
    ((a.1 <<< 1) ||| (if o then 1 else 0), if o then a.2 ||| (1#64 <<< i) else a.2)) (st, 0)

/-- A 64b/66b data block: the sync header 01, its first bit 0, and 64 scrambled bits (IEEE 802.3 Clause 49). -/
def dataBlock (v : BitVec 64) : BitVec 66 := (v.setWidth 66 <<< 2) ||| 2

/-- A frame's bytes as 64-bit blocks, the last filled with 0. -/
def blocksOf (l : List Byte) : List (BitVec 64) :=
  (List.range (ceilDiv l.length 8)).map (fun i => BitVec.ofNat 64 (fromLe (slice l (8 * i) 8)))

/-- Consecutive blocks go to the logical lanes in turn, each by the physical lane that carries it and through that lane's scrambler. -/
def stripe : List (BitVec 64) → LinkPart → LinkPart × List (Fin 5 × BitVec 66)
  | [], x => (x, [])
  | b :: r, x =>
    let lane := x.tx.getD x.nextLane 0
    let e := scramble x.scramblers[lane] b
    let out := stripe r { x with scramblers := x.scramblers.set lane e.1, nextLane := (x.nextLane + 1) % 4 }
    (out.1, (lane, dataBlock e.2) :: out.2)

end Sys2Proof.Machine
end

