-- ==== Sys2Proof/Machine/Links.lean ====
section
/-! DEFINITION. Sending over Aggon (R424 to R428) and what a twin mirrors (R441, R445). -/

namespace Sys2Proof.Machine

/-! ## Frames sent -/

def State.modLink (s : State) (k : Fin 4) (f : LinkPart → LinkPart) : State := { s with links := s.links.set k (f s.links[k]) }

def linkUp (s : State) (k : Fin 4) : Bool := s.u (Obj.AGGON.LSTATE k) == 5

/-- A frame goes over a link's lanes as it stands (R418). -/
def State.putFrame (s : State) (k : Fin 4) (f : AggonFrame) : State :=
  let e := stripe (blocksOf (frameWire f)) s.links[k]
  (s.modLink k (fun _ => e.1)).emit (.frame k f e.2)

/-- Whether the replay buffer of 128 KiB has room for a frame beside those not acknowledged (R428). -/
def replayRoom (x : LinkPart) (f : AggonFrame) : Bool :=
  decide ((x.unacked.map (fun e => frameBytes e.1)).sum + frameBytes f ≤ 131072)

/-- The frame sent at a frame boundary (R427): a waiting frame of VC0, else that of the next of VC1 to VC4 in turn that has one and holds
credit. -/
def nextFrame (x : LinkPart) : Option AggonFrame :=
  match x.vcq.find? (fun f => f.vc == 0) with
  | some f => some f
  | none => [1, 2, 3, 4].findSome? (fun i =>
      let v := (x.turn + i - 1) % 4 + 1
      if 0 < x.credit.getD (v - 1) 0 then x.vcq.find? (fun f => f.vc == v) else none)

/-- Whether a frame is a LINK frame (R426), which takes no FSEQ of its own and is not replayed (log entry 70). -/
def AggonFrame.isLink (f : AggonFrame) : Bool := f.vc == 0 && f.kind == 0

/-- A frame leaves a link's queue, with the next FSEQ, the ACK of what has arrived, the buffers it returns, and a copy kept until it is
acknowledged (R424, R427, R428). -/
def State.sendNow (s : State) (k : Fin 4) (f : AggonFrame) : State :=
  let l := s.links[k]
  let g := { f with fseq := l.fseq, ack := l.last, credit := l.owed.map (min 255) }
  (s.modLink k (fun x => { x with
    fseq := if f.isLink then x.fseq else x.fseq + 1, unacked := if f.isLink then x.unacked else x.unacked ++ [(g, 0)],
    vcq := x.vcq.erase f, owed := x.owed.map (fun n => n - 255),
    credit := if f.vc = 0 then x.credit else x.credit.set (f.vc - 1) (x.credit.getD (f.vc - 1) 0 - 1),
    turn := if f.vc = 0 then x.turn else f.vc % 4 })).putFrame k g

/-- What may leave a link leaves, frame by frame. -/
def State.pump : Nat → State → Fin 4 → State
  | 0, s, _ => s
  | n + 1, s, k =>
    match nextFrame s.links[k] with
    | none => s
    | some f => if replayRoom s.links[k] f then State.pump n (s.sendNow k f) k else s

/-- What may leave a link leaves, unless the crossing to the Aggon SerDes refuses it (R342). -/
def State.pumpLink (s : State) (k : Fin 4) : State := if refuses s 7 then s else State.pump s.links[k].vcq.length s k

/-- A frame is to leave on a link that is UP: it waits for its turn, its channel's credit and room in the replay buffer (R427, R428). -/
def State.sendFrame (s : State) (k : Fin 4) (f : AggonFrame) : State :=
  if !linkUp s k then s else (s.modLink k (fun x => { x with vcq := x.vcq ++ [f] })).pumpLink k

/-- The device at the other end of a link. -/
def neighbour (s : State) (k : Fin 4) : BitVec 11 := BitVec.ofNat 11 (s.u (Obj.AGGON.PEER k))

/-- A LINK frame to the neighbour (R426): it acknowledges and returns buffers. -/
def State.sendLink (s : State) (k : Fin 4) (nak : Bool) : State :=
  s.sendFrame k { vc := 0, kind := 0, src := ownId s, dest := neighbour s k, nak := nak, body := .empty }

/-- A bad frame is discarded, with every later one until the replay, and a NAK asks for that (R428). -/
def State.discardFrame (s : State) (k : Fin 4) : State := (s.modLink k (fun x => { x with discarding := true })).sendLink k true

/-- Whether an FSEQ is at or before another. -/
def seqLe (a b : BitVec 16) : Bool := decide ((b - a).toNat < 2 ^ 15)

/-- The credit held after a CREDIT field has come: byte v - 1 returns buffers of VC v (R424). -/
def withCredit (l : List Nat) (c : BitVec 32) : List Nat := (List.range 4).map (fun v => l.getD v 0 + c.toNat / 256 ^ v % 256)

/-- What a neighbour acknowledges leaves the replay buffer, and the credit it returns is held (R427, R428). -/
def LinkPart.acked (x : LinkPart) (ack : BitVec 16) (credit : BitVec 32) : LinkPart :=
  { x with unacked := x.unacked.filter (fun e => !seqLe e.1.fseq ack), credit := withCredit x.credit credit }

/-- A frame of a virtual channel is accepted (R428): its FSEQ is the last received in order, its buffer is to be returned (R427), what it
acknowledges and returns is taken, and its corrected and its poisoned words count (R323, R425). -/
def State.acceptFrame (s : State) (a : Arrival) (vc : Nat) : State :=
  let t := s.modLink a.link (fun x => { x.acked a.ack a.credit with
    last := a.fseq, discarding := false,
    owed := if vc = 0 then x.owed else x.owed.set (vc - 1) (x.owed.getD (vc - 1) 0 + 1) })
  ((t.add (Obj.AGGON.CE a.link) a.ce).add Obj.MEMORY.POISON_SEEN a.poisoned.length).pumpLink a.link

/-- A frame comes over a link that is UP (R428): the next in order is accepted and has its effect; one accepted before is passed over; any other
is discarded, with a NAK unless one has asked for the replay already. -/
def State.receive (s : State) (a : Arrival) (vc : Nat) (act : State → State) : State :=
  let x := s.links[a.link]
  if !linkUp s a.link then s
  else if a.fseq = x.last + 1 then act (s.acceptFrame a vc)
  else if seqLe a.fseq x.last ∨ x.discarding then s
  else s.discardFrame a.link

/-- What a received frame does to its consumer where none of its words is poisoned; of a poisoned one its consumer takes nothing
(log entry 125). -/
def ifClean (a : Arrival) (act : State → State) (s : State) : State := if a.poisoned.isEmpty then act s else s

/-- A broadcast frame leaves on every UP link but one (R430, R437). -/
def State.flood (s : State) (except : Option (Fin 4)) (f : AggonFrame) : State :=
  overAll s (fun t k => if except = some k then t else t.sendFrame k { f with bcast := true })

/-! ## The twin link (R423, R441) -/

def active (s : State) : Bool := s.u Obj.TWIN.TWIN_EN == 1 && s.u Obj.TWIN.ROLE == 2
def standby (s : State) : Bool := s.u Obj.TWIN.TWIN_EN == 1 && s.u Obj.TWIN.ROLE == 1

/-- The links that carry twin traffic: those UP between the twins. -/
def twinLinks (s : State) : List (Fin 4) :=
  (List.finRange 4).filter (fun k => linkUp s k && s.bit (Obj.AGGON.LFLAGS k) Bit.AGGON.LFLAGS.TWIN_LINK)

/-- A VC2 frame to the twin. -/
def mirrorFrame (s : State) (body : AggonBody) : AggonFrame :=
  let ends : Bool × Bool := match body with
    | .commit m i => (i == 0, i + 1 == commitParts m)
    | _ => (true, true)
  { vc := 2, kind := 5, src := ownId s, isFirst := ends.1, isLast := ends.2, dest := BitVec.ofNat 11 (s.u Obj.TWIN.PEER_ID), body := body }

/-- A commit or a mark leaves on the first twin link (R441, R445); while none is UP it waits. -/
def State.sendMirror (s : State) (body : AggonBody) : State :=
  match twinLinks s with
  | k :: _ => s.sendFrame k (mirrorFrame s body)
  | [] => { s with twin := { s.twin with outbox := s.twin.outbox ++ [body] } }

/-- A mirrored commit leaves, in frames of 16 words flagged FIRST and LAST (R424, R441). -/
def State.sendCommit (s : State) (m : MirrorCommit) : State :=
  (List.range (commitParts m)).foldl (fun t i => t.sendMirror (.commit m i)) s

/-- What waited for a twin link leaves. -/
def State.flushOutbox (s : State) : State :=
  s.twin.outbox.foldl (fun t b => t.sendMirror b) { s with twin := { s.twin with outbox := [] } }

/-- The port of a per-port group. -/
def portOfGroup (idx : Nat) : Nat := idx / 256 % 8

/-- Whether a group is mirrored (R441). -/
def mirrored (s : State) (idx : Nat) : Bool :=
  let o := idx % 256
  let port := s.bit Obj.TWIN.TWIN_PORTS (portOfGroup idx)
  if 0x3000 ≤ idx ∧ idx < 0x3800 then port && ((decide (0x10 ≤ o) && decide (o ≤ 0x20)) || decide (0x40 ≤ o))
  else if 0x3800 ≤ idx ∧ idx < 0x4000 then port && decide (o ≤ 2)
  else if 0x4000 ≤ idx ∧ idx < 0x5000 then port && decide (o ≤ 0x17)
  else if 0x6000 ≤ idx ∧ idx < 0x6100 then s.u (Obj.STREAM.KIND (idx - 0x6000)) != 3
  else (decide (0x5110 ≤ idx) && decide (idx ≤ 0x51FF)) || (decide (0x5200 ≤ idx) && decide (idx ≤ 0x533F)) || idx == 0x6100

/-- The objects of a mirrored group that stay each device's own (R441): ZERO_DELAY and PHASE_SIGN. -/
def ownObject (key : Nat) : Bool :=
  decide (0x3800 ≤ key / 256) && decide (key / 256 < 0x4000) && key / 256 % 256 == 0 && (key % 256 == 0x06 || key % 256 == 0x0D)

end Sys2Proof.Machine
end

