-- ==== Sys2Proof/Machine/Book.lean ====
section
/-! DEFINITION. The shared operations of streams and the day book: an item entering a stream's open bale
(R354 to R357), a bale's close, a day book entry (R413, R414, R539, R540) and the commit of a staged group (R387). -/

namespace Sys2Proof.Machine

/-! ## Items and bales -/

/-- The chunk header of R354. -/
def chunkHeader (it : Item) (off len : Nat) (isLast : Bool) : List Byte :=
  let p := it.poisoned.any (fun w => decide (off ≤ w) && decide (w < off + len))
  le 1 it.kind ++
  le 1 (bit8 (off == 0) 0 + bit8 isLast 1 + bit8 p 2 + bit8 (isLast && it.truncated) 3) ++
  le 1 it.src ++ le 1 0 ++ le 4 it.item.toNat ++ le 4 off ++ le 4 len

/-! ## The day book -/

/-- What a day book entry says beside its SEQ (R413): class, subsystem and instance, refusal code, object and
bit, count, DETAIL, the epoch where it is not the present one, and whether R539 keeps it beyond the drop of R414. -/
structure Ev where
  cls : Nat
  sub : Nat
  inst : Nat := 0xFF
  code : Nat := 0
  index : Nat := 0
  osub : Nat := 0
  bit : Nat := 0xFF
  count : Nat := 1
  detail : Nat := 0
  epoch : Option Nat := none
  keep : Bool := false
deriving DecidableEq, Repr

/-- The 32 bytes of an entry (R413). -/
def DbEntry.bytes (e : DbEntry) : List Byte :=
  le 8 e.epoch ++ le 2 e.source.toNat ++ le 2 e.code.toNat ++ le 4 e.seq.toNat ++ le 2 e.index.toNat ++
  le 1 e.sub.toNat ++ le 1 e.bit.toNat ++ le 4 e.count.toNat ++ le 8 e.detail.toNat

/-- Whether an entry that would follow 4,096 others of its epoch second is dropped (R414). -/
def dropped (b : DayBook) (now : Nat) (e : Ev) : Bool :=
  !e.keep && (e.cls == 0 || e.cls == 4) && b.second == now / ticksPerSecond && decide (4096 ≤ b.inSecond)

/-- The wrap of the day book ring (R339): a staged length takes effect, and entries past a nearer end leave. -/
def wrapBook (b : DayBook) : DayBook :=
  if b.pos < b.len then b
  else match b.staged with
    | none => { b with pos := 0 }
    | some n => { b with pos := 0, len := n, staged := none, entries := b.entries.filter (fun e => decide (e.place < n)) }

/-- The entries that a shortening wrap due now takes from the ring: those beyond its new end (R339). -/
def bookTrims (b : DayBook) : List DbEntry :=
  match b.staged with
  | some n => if b.len ≤ b.pos then b.entries.filter (fun e => decide (n ≤ e.place)) else []
  | none => []

/-- The entry that the next one overwrites (R340). -/
def bookOvers (b : DayBook) : List DbEntry := (wrapBook b).entries.filter (fun e => e.place == (wrapBook b).pos)

/-- One more entry in the ring, over the one at the write pointer (R340). -/
def pushBook (b : DayBook) (e : DbEntry) (now : Nat) : DayBook :=
  let w := wrapBook b
  { w with entries := w.entries.filter (fun x => x.place != w.pos) ++ [{ e with place := w.pos }],
           pos := w.pos + 1, seq := b.seq + 1, second := now / ticksPerSecond,
           inSecond := if b.second = now / ticksPerSecond then b.inSecond + 1 else 1,
           unjournalled := if e.code.toNat / 4096 = 5 ∨ e.code.toNat / 4096 = 6
                           then b.unjournalled ++ [e] else b.unjournalled,
           unread := b.unread ++ [e] }

def entryOf (s : State) (e : Ev) : DbEntry :=
  { epoch := e.epoch.getD s.now, source := BitVec.ofNat 16 (e.sub * 256 + e.inst),
    code := BitVec.ofNat 16 (e.cls * 4096 + e.code), seq := s.book.seq, index := BitVec.ofNat 16 e.index,
    sub := BitVec.ofNat 8 e.osub, bit := BitVec.ofNat 8 e.bit, count := BitVec.ofNat 32 e.count,
    detail := BitVec.ofNat 64 e.detail }

/-- Whether a SEQ lies before another, in serial order. -/
def seqBefore (a b : BitVec 32) : Bool := decide (2 ^ 31 ≤ (a - b).toNat)

/-- A session's read pointer as the next entry is written. At a shortening wrap one beyond the new end moves to entry 0, which takes that
entry, and what it had not read counts in its LOST (R339); one overtaken moves to the oldest entry then held, and the entry passed counts
(R340). -/
def moveReader (b : DayBook) (x : Session) : Session :=
  match x.frm with
  | none => x
  | some f =>
    let cut := (bookTrims b).filter (fun e => !seqBefore e.seq f)
    let beyond := (bookTrims b).any (fun e => e.seq == f)
    let f1 := if beyond then b.seq else f
    let passed := ((bookOvers b).filter (fun e => !seqBefore e.seq f1)).length
    let held := (wrapBook b).entries.filter (fun e => e.place != (wrapBook b).pos)
    { x with frm := some (if passed = 0 then f1 else (held.head?.map (·.seq)).getD b.seq),
             lost := x.lost + (if beyond then cut.length else 0) + passed }

/-! ## Items overtaken (R340, R365) -/

/-- What is left of an item whose slot, record or entry is overwritten when some bytes of it have been read: its start, TRUNCATED; a day
book entry, or a record not begun, is lost whole. -/
def Item.cutAt (it : Item) (read : Nat) : Option Item :=
  if it.kind = 4 ∨ (it.kind = 3 ∧ read = 0) then none
  else
    let upTo := fun (l : List Nat) => l.filter (fun w => decide (w < read))
    some { it with data := it.data.take read, truncated := true, poisoned := upTo it.poisoned, seen := upTo it.seen }

/-- The bytes read of a stream's unread item by its place. -/
def StreamPart.readOf (x : StreamPart) (i : Nat) : Nat := if i = 0 then x.readOff else 0

/-- A stream's unread items after some of them are overwritten. -/
def StreamPart.overtake (x : StreamPart) (gone : Item → Bool) : StreamPart :=
  { x with
    unread := x.unread.zipIdx.filterMap (fun e => if gone e.1 then e.1.cutAt (x.readOf e.2) else some e.1),
    readOff := match x.unread.head? with
      | some it => if gone it && (it.cutAt x.readOff).isNone then 0 else x.readOff
      | none => 0 }

/-- The records among the items overwritten that no reading had begun. -/
def StreamPart.recordsLost (x : StreamPart) (gone : Item → Bool) : Nat :=
  x.unread.zipIdx.countP (fun e => gone e.1 && e.1.kind == 3 && x.readOf e.2 == 0)

/-- Ring slots, records or entries are overwritten: every stream loses what it had not read of them, counted in LOST, records not begun in
STORE_LOST as well (R275, R365). Of records and entries that a shortened ring drops, a reader that stands before its new end counts none
(R339). -/
def State.overtake (s : State) (gone : Item → Bool) : State :=
  overAll s (fun t k =>
    let x := t.streams[k]
    let n := x.unread.countP gone
    if n = 0 then t
    else
      let u := t.modStream k (fun y => y.overtake gone)
      if x.unread.head?.any (fun it => gone it || decide (it.kind < 3)) then
        (u.add (Obj.STREAM.LOST k) n).add Obj.CAPTURE.STORE_LOST (x.recordsLost gone)
      else u)

/-- What a stream has still to read of some unread items is read anew from where they lie: words there were changed or poisoned. -/
def State.refresh (s : State) (lies : Item → Bool) (now : Fin 256 → Item) : State :=
  overAll s (fun t k =>
    if t.streams[k].unread.any lies then
      t.modStream k (fun x => { x with unread := x.unread.zipIdx.map (fun e =>
        if lies e.1 && !e.1.truncated then
          let r := x.readOf e.2
          let join := fun (a b : List Nat) => a.filter (fun w => decide (w < r)) ++ b.filter (fun w => decide (r ≤ w))
          { e.1 with data := e.1.data.take r ++ (now k).data.drop r, poisoned := join e.1.poisoned (now k).poisoned,
                     seen := join e.1.seen (now k).seen }
        else e.1) })
    else t)

/-- The 32-bit words of an item that were replaced (R366): of a POINTS item each alone, of others whole 16-byte words. -/
def Item.replaced (it : Item) : Nat := if it.kind = 1 then it.poisoned.length else 4 * it.poisoned.length

/-- Entries of classes FAULT and START go to the day book cells of the flash while writes are not blocked (R414, R499, R500). -/
def State.flushCells (s : State) : State :=
  if s.bit Obj.FLASH.FLAGS Bit.FLASH.FLAGS.WRITE_BLOCKED ∨ s.book.unjournalled.isEmpty then s
  else
    let c := s.book.cells ++ s.book.unjournalled
    { s with book := { s.book with cells := c.drop (c.length - 65536), unjournalled := [] } }

/-- Where the day book ring lies: in the clerks' reserve at the top of DRAM, or without DRAM at the top of the yard (R337, R338; log entry 12). -/
def bookArea (s : State) : Nat :=
  (if s.bit Obj.MEMORY.FLAGS Bit.MEMORY.FLAGS.DRAM_FAILED then yardBytes - 4 * 1048576 else dramBase + fitted s - 512 * 1048576) +
    Config.place Obj.DAYBOOK.DB_LEN.key

/-- An entry of the ring is written over. -/
def State.dropBookFlips (s : State) (pos : Nat) : State := s.dropFlips (bookArea s + 32 * pos) 32

/-- An entry is appended to the ring, or dropped (R413, R414). -/
def State.logRaw (s : State) (e : Ev) : State :=
  if dropped s.book s.now e then s.bump Obj.DAYBOOK.DROPPED
  else
    let b := pushBook s.book (entryOf s e) s.now
    let trim := decide (s.book.len ≤ s.book.pos) && (match s.book.staged with
      | some n => decide (n < s.book.len) | none => false)
    let gone := bookTrims s.book ++ bookOvers s.book
    let s := s.dropBookFlips (wrapBook s.book).pos
    let t := { s with book := b,
                      ledger := { s.ledger with sessions := s.ledger.sessions.map (moveReader s.book) } }
    let t := if gone.isEmpty then t else t.overtake (fun it => it.kind == 4 && gone.any (fun x => x.seq == it.item))
    let t := t.put Obj.DAYBOOK.HELD b.entries.length
    let t := t.put Obj.DAYBOOK.HEAD (entryOf s e).seq.toNat
    let t := t.flushCells
    if trim then t.setBit Obj.DAYBOOK.FLAGS 0 else t

/-! ## Commits of staged groups -/

/-- The records whose staged copy a group's commit takes (R386, R98, R44). -/
def groupIndices (idx : Nat) : List Nat :=
  if 0x3000 ≤ idx ∧ idx < 0x3800 then
    let b := idx / 256 * 256
    let o := idx % 256
    if o = 0x20 then idx :: (List.range 64).map (fun e => b + 0x40 + e)
    else if 0x10 ≤ o ∧ o < 0x20 then idx :: (List.range 8).map (fun t => b + 0x80 + 8 * (o - 0x10) + t)
    else [idx]
  else [idx]

/-- The subsystem that owns a group and its instance (R540; log entry 21). -/
def groupOwner (idx : Nat) : Nat × Nat :=
  if idx < 0x1110 then (16, idx - 0x1100)
  else if idx < 0x1120 then (15, 0xFF)
  else if idx < 0x1130 then (16, 0xFF)
  else if idx < 0x1140 then (18, 0xFF)
  else if idx < 0x1200 then (19, 0xFF)
  else if idx < 0x1280 then (18, 0xFF)
  else if idx < 0x2100 then (13, 0xFF)
  else if idx < 0x2200 then (12, 0xFF)
  else if idx < 0x3000 then (11, 0xFF)
  else if idx < 0x3800 then
    let o := idx % 256
    (if o = 0x20 ∨ (0x40 ≤ o ∧ o < 0x80) then 12 else if o = 2 ∨ o = 3 ∨ 0x10 ≤ o then 2 else 1, (idx - 0x3000) / 256)
  else if idx < 0x4000 then (3, (idx - 0x3800) / 256)
  else if idx < 0x4800 then (4, (idx - 0x4000) / 256)
  else if idx < 0x5000 then (5, (idx - 0x4800) / 256)
  else if idx < 0x5010 then (6, 0xFF)
  else if idx < 0x5110 then (6, idx - 0x5010)
  else if idx < 0x5140 then (6, idx - 0x5110)
  else if idx < 0x5200 then (6, idx - 0x5140)
  else if idx < 0x5240 then (10, idx - 0x5200)
  else if idx < 0x5300 then (10, 0xFF)
  else if idx < 0x6000 then (10, idx - 0x5300)
  else if idx < 0x6100 then (15, idx - 0x6000)
  else if idx < 0x6200 then (14, 0xFF)
  else if idx < 0x7000 then (17, 0xFF)
  else if idx < 0x7100 then (20, 0xFF)
  else if idx < 0x7200 then (21, 0xFF)
  else if idx < 0x7300 then (22, 0xFF)
  else if idx < 0x7800 then (23, 0xFF)
  else if idx < 0x7900 then (24, 0xFF)
  else if idx < 0x7A00 then (25, 0xFF)
  else if idx < 0x7A40 then (26, 0xFF)
  else if idx < 0x7F00 then (9, 0xFF)
  else (18, 0xFF)

def State.isApplying (s : State) (idx : Nat) : Bool := s.ledger.applying.any (fun a => a.index == idx)

/-- The staged copies of some records become the values in force (R386). -/
def State.takeStaged (s : State) (idxs : List Nat) : State :=
  { s with regs := (s.staged.filter (fun e => idxs.contains (e.1 / 256))).foldl (fun l e => rfSet l e.1 e.2) s.regs,
           staged := s.staged.filter (fun e => !idxs.contains (e.1 / 256)),
           blobs := (s.stagedBlobs.filter (fun e => idxs.contains (e.1 / 256))).foldl
                      (fun l e => blobSet l e.1 e.2) s.blobs,
           stagedBlobs := s.stagedBlobs.filter (fun e => !idxs.contains (e.1 / 256)) }

/-- The groups whose commit the standby takes at the boundary it is tagged with (R441): a port's, a pitch's, a region's and a stream's. -/
def tagged (idx : Nat) : Bool :=
  decide (idx < 0x5000) || (decide (0x5140 ≤ idx) && decide (idx < 0x5240)) || (decide (0x5300 ≤ idx) && decide (idx < 0x5340)) ||
  (decide (0x6000 ≤ idx) && decide (idx < 0x6100))

/-- The port a pitch's or a region's group watches, by the values in force or the staged ones. -/
def watchedPort (u : Reg → Nat) (idx : Nat) : Nat :=
  if idx < 0x5200 then u (Obj.PITCH.PORT (idx - 0x5140))
  else if idx < 0x5300 then u (Obj.REGION.PORT (idx - 0x5200)) else u (Obj.REGION.PORT (idx - 0x5300))

/-- The number of the bale that a stream closes next: those closed and not yet numbered lie before it. -/
def nextBale (s : State) (k : Nat) : BitVec 32 :=
  match s.streams.toList[k]? with
  | none => 0
  | some x => x.baleNo + BitVec.ofNat 32 ((s.bale.waiting.filter (fun b => b.stream.val == k)).length + x.held.length)

/-- The boundary that a commit made now stands at (R441): for a port's group the sequence number of the first shot after it, for a pitch's or a
region's the DELIV of the last delivery completed with it, for a stream's the number of the first bale after it. -/
def boundaryNow (s : State) (idx : Nat) : BitVec 32 :=
  if idx < 0x5000 then
    let p := s.ports.toList.getD (portOfGroup idx) {}
    BitVec.ofNat 32 (s.u (Obj.SCHEDULER.SEQ (portOfGroup idx)) + 1 + (p.shots.filter (fun x => !x.launched && !x.cal)).length)
  else if idx < 0x6000 then
    match s.pipes.toList[watchedPort s.u idx]? with
    | none => 0
    | some p => (match p.queue.head? with
      | some d => d.deliv
      | none => p.nextDeliv) - 1
  else nextBale s (idx - 0x6000)

/-- A group's values as its commit goes to the standby, tagged with the boundary (R441). -/
def recordOf (s : State) (idx : Nat) : MirrorCommit :=
  let mine := fun (k : Nat) => (groupIndices idx).contains (k / 256) && !ownObject k
  { index := BitVec.ofNat 16 idx, values := s.regs.filter (fun e => mine e.1), blobs := s.blobs.filter (fun e => mine e.1),
    boundary := if tagged idx then boundaryNow s idx else 0 }

/-- The active sends its standby the commit of a mirrored group. -/
def State.mirrorCommit (s : State) (idx : Nat) : State :=
  if active s && mirrored s idx then s.sendCommit (recordOf s idx) else s

/-- The commit of a group at its boundary (R387): its staged copy takes effect, STATE reads 0 again, and a COMMIT entry
is made with the session and source that applied it; journal 1 awaits a write (R384), and a twin's standby is told (R441). -/
def State.commitRaw (s : State) (idx : Nat) : State :=
  let a := s.ledger.applying.find? (fun a => a.index == idx)
  let t := (s.takeStaged (groupIndices idx)).setBit Obj.FLASH.PENDING 1
  let t := { t with ledger := { t.ledger with applying := t.ledger.applying.filter (fun a => a.index != idx) } }
  let t := t.mirrorCommit idx
  t.logRaw { cls := 4, sub := (groupOwner idx).1, inst := (groupOwner idx).2, index := idx, osub := 0xFE,
             detail := match a with | some a => a.session.toNat + a.source.toNat * 2 ^ 32 | none => 0 }

/-! ## Bales and items -/

/-- The header of a stream datagram (R353). -/
def streamHeader (s : State) (type dflags stream seq bale frag frags len epoch : Nat) : List Byte :=
  le 1 1 ++ le 1 type ++ le 2 dflags ++ le 1 stream ++ le 1 0 ++ le 2 (ownId s).toNat ++ le 4 seq ++ le 4 bale ++
  le 2 frag ++ le 2 frags ++ le 2 len ++ le 2 0 ++ le 8 epoch

/-- The E ports that send for an interface (R347): every port of a PRP pair that has link, or the one port. -/
def sendingPorts (s : State) (p : Nat) : List (Fin 4) :=
  (List.finRange 4).filter (fun q => s.eth[q].up &&
    (q.val == p || (q.val / 2 == p / 2 && s.u (Obj.INTERFACE.PRP_MODE (p / 2)) == 1)))

/-- The first port of an interface of two. -/
def firstPort (p : Nat) : Fin 4 := if p / 2 = 0 then 0 else 2

/-- The sequence number of the redundancy control trailer that the next frame of an E port's interface carries; none without PRP (R347). -/
def rctOf (s : State) (p : Nat) : Option (BitVec 16) :=
  if s.u (Obj.INTERFACE.PRP_MODE (p / 2)) = 1 then some s.eth[firstPort p].prpSeq else none

/-- A frame with a trailer has been sent: the interface's one sequence counter moves (R347). -/
def State.nextRct (s : State) (p : Nat) : State :=
  if s.u (Obj.INTERFACE.PRP_MODE (p / 2)) = 1 then s.modEth (firstPort p) (fun e => { e with prpSeq := e.prpSeq + 1 }) else s

/-- What is sent on some ports, counted on each; with no port there is nothing to send on. -/
def State.sentOn (s : State) (qs : List (Fin 4)) (o : Out) : State :=
  if qs.isEmpty then s else (qs.foldl (fun t q => t.bump (Obj.ETH_PORT.TX_FRAMES q)) s).emit o

/-- A frame leaves on some ports; while the crossing to the Ethernet SerDes refuses items it is kept and offered again (R342; log entry 60). -/
def State.leave (s : State) (qs : List (Fin 4)) (o : Out) : State :=
  if refuses s 6 then { s with netHeld := s.netHeld ++ (if qs.isEmpty then [] else [⟨qs, o⟩]) } else s.sentOn qs o

/-- A frame is sent for the interface of an E port (R347): on every port that sends for it, with the interface's next trailer. -/
def State.sendOn (s : State) (p : Nat) (frame : Option (BitVec 16) → Out) : State :=
  (s.leave (sendingPorts s p) (frame (rctOf s p))).nextRct p

/-- What waited at the crossing leaves. -/
def State.netFlush (s : State) : State :=
  s.netHeld.foldl (fun t h => t.sentOn h.ports h.out) { s with netHeld := [] }

/-- What waited for a port whose link goes down is discarded (R346). -/
def State.dropHeld (s : State) (p : Fin 4) : State :=
  { s with netHeld := (s.netHeld.map (fun h => { h with ports := h.ports.filter (· != p) })).filter (fun h => !h.ports.isEmpty) }

/-- The E port that names an interface: the first of a PRP pair, or the port itself (R347). -/
def ifaceOf (s : State) (p : Nat) : Nat := if s.u (Obj.INTERFACE.PRP_MODE (p / 2)) = 1 then 2 * (p / 2) else p

/-- A control datagram leaves for the path a request came by, on the interface where it arrived (R361, R407). -/
def State.sendControl (s : State) (p : Path) (dgram : List Byte) : State :=
  match p with
  | .udp a port q => s.sendOn q (fun r => .stream (ifaceOf s q) a port.toNat dgram r)
  | _ => s

/-- The streams of an interface (R360): the pair, or with PRP_MODE 0 the port, that IFACE names. -/
def sameInterface (s : State) (a b : Nat) : Bool :=
  a == b || (decide (a < 4) && decide (b < 4) && a / 2 == b / 2 && s.u (Obj.INTERFACE.PRP_MODE (a / 2)) == 1)

/-- TOLL_SUM of both interfaces. -/
def State.tollSums (s : State) : State :=
  [0, 1].foldl (fun t k => t.put (Obj.INTERFACE.TOLL_SUM k) (((List.range 256).map (fun n =>
    if s.streams.toList[n]?.any (·.isOpen) ∧ s.u (Obj.STREAM.IFACE n) / 2 = k then s.u (Obj.STREAM.TOLL n) else 0)).sum)) s

/-- A stream closes (R361): one opened by SUBSCRIBE is sent CLOSED; its queue is discarded and its record freed. -/
def State.closeStream (s : State) (k : Fin 256) : State :=
  let x := s.streams[k]
  if !x.isOpen then s
  else
    let t := if x.bySubscribe then s.sendControl x.peer (streamHeader s 8 0 k x.req.toNat 0 0 0 0 0) else s
    let t := { t with bale := { t.bale with waiting := t.bale.waiting.filter (fun b => b.stream != k) } }
    let t := t.modStream k (fun _ => {})
    let t := [Obj.STREAM.ENABLE k, Obj.STREAM.LEASE k, Obj.STREAM.TWIN k, Obj.STREAM.SSTATE k, Obj.STREAM.BACKLOG k,
      Obj.STREAM.TOLL_USE k, Obj.STREAM.OWNER k].foldl (fun u r => u.put r 0) t
    t.tollSums.setBit Obj.FLASH.PENDING 1

/-- A byte of the toll bucket, which fills by TOLL in each root tick (R362). -/
def bucketByte : Nat := 3200000000

/-- What the toll bucket has taken in by now. -/
def bucketFilled (s : State) (k : Fin 256) : Nat :=
  s.streams[k].bucket + s.u (Obj.STREAM.TOLL k) * ((s.now : Int) - s.streams[k].filled).toNat

/-- What the toll bucket holds for a datagram: at most its whole bale (R362). -/
def bucketNow (s : State) (k : Fin 256) (f : Fragment) : Nat := min (f.total * bucketByte) (bucketFilled s k)

/-- The toll bucket up to now: what it fills from here on is the TOLL's in force from here on (R363). -/
def State.settleBucket (s : State) (k : Fin 256) : State :=
  let b := match s.streams[k].queue with
    | [] => bucketFilled s k
    | f :: _ => bucketNow s k f
  s.modStream k (fun x => { x with bucket := b, filled := s.now })

/-- Whether a standby's bale close is the one that a stream's commit is tagged with (R441); any is where there is no tag. -/
def baleDueFor (s : State) (k : Fin 256) : Bool :=
  match s.twin.tags.find? (fun e => e.1 == 0x6000 + k.val) with
  | some e => !standby s || decide ((nextBale s k - e.2).toNat < 2 ^ 31)
  | none => true

/-- A bale close is the boundary of a stream's group (R363): its staged copy takes effect, and ENABLE 0 closes the stream. -/
def State.streamBoundary (s : State) (k : Fin 256) : State :=
  if s.isApplying (0x6000 + k) && baleDueFor s k then
    let t := (s.settleBucket k).commitRaw (0x6000 + k)
    if t.u (Obj.STREAM.ENABLE k) = 0 then t.closeStream k else t.tollSums
  else s

/-- A stream's open bale closes (R357): its original goes to the compressor with the form and level in force. -/
def State.closeBale (s : State) (k : Fin 256) : State :=
  match s.streams[k].bale with
  | none => s
  | some b =>
    let c : ClosedBale := ⟨k, b.bytes, b.firstShot, s.u (Obj.STREAM.COMPRESS k), s.u Obj.COMPRESSION.LEVEL, s.now⟩
    let t := { s with bale := { s.bale with waiting := s.bale.waiting ++ [c] } }
    State.streamBoundary
      ((t.modStream k (fun x => { x with bale := none })).bump (Obj.STREAM.BALES k)) k

/-- The stream's open bale, or a new one that an item opens. -/
def openFor (x : StreamPart) (it : Item) : OpenBale :=
  x.bale.getD ⟨[], it.epoch, if it.shot then it.epoch else 0⟩

/-- An item enters a stream from byte `off` on (R354, R355, R371): whole where the bale has room, else its
first part that is a multiple of 16 bytes, the rest going to the next bale. -/
def feed : Nat → State → Fin 256 → Item → Nat → State
  | 0, s, _, _, _ => s
  | f + 1, s, k, it, off =>
    let b := openFor s.streams[k] it
    let room := 65536 - b.bytes.length
    let rest := it.data.length - off
    if !s.streams[k].isOpen then s
    else if rest + 16 ≤ room then
      let c := chunkHeader it off rest true ++ slice it.data off rest
      let t := s.modStream k (fun x => { x with bale := some { b with bytes := b.bytes ++ c } })
      if b.first + s.u (Obj.STREAM.BALE_MS k) * 3200000 ≤ it.epoch then t.closeBale k else t
    else
      let n := (room - 16) / 16 * 16
      if n = 0 then feed f (s.closeBale k) k it off
      else
        let c := chunkHeader it off n false ++ slice it.data off n
        let t := s.modStream k (fun x => { x with bale := some { b with bytes := b.bytes ++ c } })
        feed f (t.closeBale k) k it (off + n)

def State.appendItem (s : State) (k : Fin 256) (it : Item) : State := feed (it.data.length + 2) s k it 0

/-- An item is a stream's to read. -/
def State.takeItem (s : State) (k : Fin 256) (it : Item) : State :=
  s.modStream k (fun x => { x with unread := x.unread ++ [it] })

/-- Every open stream of a kind that `takes` an item has it to read (R355, R356). -/
def State.toStreams (s : State) (kind : Nat) (takes : Fin 256 → Bool) (it : Fin 256 → Item) : State :=
  overAll s (fun t k =>
    if s.streams[k].isOpen && s.u (Obj.STREAM.KIND k) == kind && takes k then t.takeItem k (it k) else t)

/-- The stream engine reads some bytes of a stream's items: one read to its end enters the open bale, a record or a day book entry with the
epoch it arrives at (R357, R365); the poisoned words it met count (R323, R366). -/
def readOn : Nat → State → Fin 256 → Nat → State
  | 0, s, _, _ => s
  | f + 1, s, k, n =>
    match s.streams[k].unread with
    | [] => s
    | it :: rest =>
      let left := it.data.length - s.streams[k].readOff
      if n < left then s.modStream k (fun x => { x with readOff := x.readOff + n })
      else
        let t := s.modStream k (fun x => { x with unread := rest, readOff := 0 })
        let t := if it.poisoned.isEmpty then t else t.add (Obj.STREAM.POISON_WORDS k) it.replaced
        let t := if it.seen.isEmpty then t else t.add Obj.MEMORY.POISON_SEEN it.seen.length
        readOn f (t.appendItem k (if it.shot then it else { it with epoch := s.now })) k (n - left)

/-! ## Entries read by DAYBOOK streams; flags -/

/-- An entry as the item of a DAYBOOK stream (R355); its poisoned 16-byte words are zeros (R366). -/
def bookItem (s : State) (e : DbEntry) : Item :=
  ⟨4, 0, e.seq, e.bytes.zipIdx.map (fun b => if e.bad.contains (b.2 / 16) then 0 else b.1), s.now, false, e.bad.map (16 * ·), false,
    e.bad.map (16 * ·)⟩

/-- DAYBOOK streams have the entries made to read (R355, R415), each entry as one item. -/
def State.readBook (s : State) : State :=
  s.book.unread.foldl (fun t e => t.toStreams 3 (fun _ => true) (fun _ => bookItem s e))
    { s with book := { s.book with unread := [] } }

/-- An entry whose 16-byte word `i` holds some data. -/
def DbEntry.withWord (e : DbEntry) (i : Nat) (d : BitVec 128) (x : Bool) : DbEntry :=
  let b := (if i = 0 then [] else e.bytes.take 16) ++ le 16 d.toNat ++ (if i = 0 then e.bytes.drop 16 else [])
  let f := fun (o n : Nat) => fromLe (slice b o n)
  { e with epoch := f 0 8, source := BitVec.ofNat 16 (f 8 2), code := BitVec.ofNat 16 (f 10 2), seq := BitVec.ofNat 32 (f 12 4),
           index := BitVec.ofNat 16 (f 16 2), sub := BitVec.ofNat 8 (f 18 1), bit := BitVec.ofNat 8 (f 19 1),
           count := BitVec.ofNat 32 (f 20 4), detail := BitVec.ofNat 64 (f 24 8),
           bad := (if x then [i] else []) ++ e.bad.filter (· != i) }

/-- A word of the day book ring. -/
def bookHolder (s : State) (a : Nat) : Option Holder :=
  let o := a - bookArea s
  if a < bookArea s then none
  else (s.book.entries.find? (fun e => e.place == o / 32)).map (fun e =>
    ⟨BitVec.ofNat 128 (fromLe (slice e.bytes (o % 32) 16)), e.bad.contains (o % 32 / 16),
      fun d x t =>
        let e' := e.withWord (o % 32 / 16) d x
        State.refresh { t with book := { t.book with entries := t.book.entries.map (fun y => if y.place = e.place then e' else y) } }
          (fun it => it.kind == 4 && it.item == e.seq) (fun _ => bookItem t e')⟩)

/-- The bytes the stream engine reads in a root cycle: up to four, which is 12.8 GB/s (R365), of a stream that has some to read, which the spec
does not name (log entry 98). -/
def State.engineRead (s : State) : State :=
  let l := (List.finRange 256).filter (fun k => !s.streams[k].unread.isEmpty)
  match l[Config.engineTurn s.fresh % l.length]? with
  | none => s
  | some k => (readOn 5 s.drawn k (Config.engineReads s.fresh % 5)).readBook

/-- The commit of 7F00h takes effect with the ring's wrap (R339). -/
def State.settleBook (s : State) : State :=
  if s.isApplying 0x7F00 && s.book.staged.isNone then s.commitRaw 0x7F00 else s

def State.log (s : State) (e : Ev) : State := (s.logRaw e).settleBook.readBook

/-- An entry for a flag that sets or clears (R540), with the flag's change; nothing when it has that value already. -/
def State.logFlag (s : State) (r : Reg) (b : Nat) (x : Bool) (sub : Nat) (inst : Nat := 0xFF)
    (fault : Bool := false) : State :=
  if s.bit r b = x then s
  else
    let t := s.putBit r b x
    t.log { cls := if fault then 5 else if x then 1 else 2, sub := sub, inst := inst, index := r.key / 256,
            osub := r.key % 256, bit := b, detail := t.u r }

/-- An event with an entry for each time it happens sets its flag; the entry of one that finds the flag standing is no change of it. -/
def State.logEvent (s : State) (r : Reg) (b : Nat) (sub : Nat) : State :=
  let t := s.setBit r b
  t.log { cls := if s.bit r b then 0 else 1, sub := sub, index := r.key / 256, osub := r.key % 256, bit := b, detail := t.u r }

/-! ## Summary entries (R539) -/

/-- The counter that counts a summary key's events, and the subsystem and instance of its entries (R540). -/
def summaryObj : SummaryKey → Reg × Nat × Nat
  | .crowd n => (Obj.SCHEDULER.SHOT_CROWD n, 12, n)
  | .overrun n => (Obj.PIPE_STATUS.OVERRUN_SHOTS n, 3, n)
  | .trigEarly r => (Obj.REGION.TRIG_EARLY r, 10, r)
  | .trigRearm r => (Obj.REGION.TRIG_REARM r, 10, r)
  | .profile n => (Obj.RAMAN_STATUS.OVERRUN n, 4, n)
  | .decode _ c => (Obj.COMPRESSION.DZ_COUNT (c.val - 1), 14, 0xFF)

def summaryEntry (s : State) (k : SummaryKey) (count epoch : Nat) : State :=
  let o := summaryObj k
  s.log { cls := 0, sub := o.2.1, inst := o.2.2, index := o.1.key / 256, osub := o.1.key % 256, count := count,
          detail := s.u o.1, epoch := some epoch, keep := true }

def summaryOf (s : State) (k : SummaryKey) : Option SummaryRec := s.book.summaries.find? (fun r => r.key == k)

def setSummary (s : State) (k : SummaryKey) (r : Option SummaryRec) : State :=
  let l := s.book.summaries.filter (fun x => x.key != k)
  { s with book := { s.book with summaries := match r with | none => l | some x => x :: l } }

/-- An event of a summary key: entered at once with COUNT 1 when its second is not running, else counted. -/
def State.summary (s : State) (k : SummaryKey) : State :=
  match summaryOf s k with
  | none => setSummary (summaryEntry s k 1 s.now) k (some ⟨k, 0, 0⟩)
  | some r => setSummary s k (some ⟨k, r.count + 1, if r.count = 0 then s.now else r.first⟩)

/-! ## Commits -/

def State.commit (s : State) (idx : Nat) : State := (s.commitRaw idx).settleBook.readBook

/-- The commit of a group whose APPLY is pending; nothing otherwise. -/
def State.commitIf (s : State) (idx : Nat) : State := if s.isApplying idx then s.commit idx else s

end Sys2Proof.Machine
end

