-- ==== Sys2Proof/Machine/Epoch.lean ====
section
/-! DEFINITION. The epoch counter, its sources and its discipline (R15 to R28), the mains tracker (R31, R32),
the encoder (R35 to R37) and the laser interlock (R53 to R55). -/

namespace Sys2Proof.Machine

/-! ## The counter -/

def State.coasting (s : State) : Bool := s.bit Obj.CLOCKS.FLAGS Bit.CLOCKS.FLAGS.CLK_COAST

/-- The count moves by `n` ticks in one root cycle; PH moves by one (R16, R341). -/
def EpochPart.advance (e : EpochPart) (n : Nat) : EpochPart :=
  { e with count := e.count + BitVec.ofNat 64 n, phase := e.phase + 1 }

/-- The root cycle in which the fractional accumulator overflows (R16): one extra tick, or one withheld. Nothing
happens while the counter does not run, while it coasts (R27) or when no correction is in force. -/
def execEpochCorrectionOverflow (s : State) : Result :=
  let c := s.i Obj.EPOCH.FREQ_ADJ
  .next (if s.ep.running && !s.coasting && c != 0 then
    { s with ep := { s.ep.advance (if 0 < c then 2 else 0) with
      acc := s.ep.acc + Config.accStep c, corrected := s.ep.corrected + (if 0 < c then 1 else -1),
      recent := ((s.now, if 0 < c then 1 else -1) :: s.ep.recent).take 128 } }
  else s)

/-- The ticks the corrector had added by an edge (R313): what it has added since, up to the 40 ns a stamp may take (R306), does not count. -/
def State.correctedAt (s : State) (stamp : Stamp) : Int :=
  s.ep.corrected - ((s.ep.recent.filter (fun e => decide (stamp / 256 ≤ e.1))).map (·.2)).sum

/-! ## Source selection (R18 to R21) -/

/-- Whether REF.PPS is qualified but for its label (R18): four edges in time, and the root on REF 10 MHz. -/
def State.ppsQualified (s : State) : Bool :=
  decide (4 ≤ s.ep.pps.run) && s.bit Obj.CLOCKS.FLAGS Bit.CLOCKS.FLAGS.LOCKED && s.u Obj.CLOCKS.REF_IN_USE == 2

/-- Whether the next PPS edge can be labelled with a TAI second (R19). -/
def State.ppsLabelled (s : State) : Bool := s.ep.ptpUsable || s.ep.pps.label.isSome

/-- Whether the source of a code can be selected (R18, the table of epoch sources); a code without a meaning names none (log entry 111). -/
def State.usable (s : State) (code : Nat) : Bool :=
  match code with
  | 1 => s.ep.ptpUsable
  | 2 => s.ppsQualified && s.ppsLabelled
  | 3 => s.ep.clusterUsable
  | _ => false

/-- PPS_UNLABELLED follows R19. -/
def State.ppsFlag (s : State) : State :=
  s.putBit Obj.EPOCH.FLAGS Bit.EPOCH.FLAGS.PPS_UNLABELLED (s.ppsQualified && !s.ppsLabelled)

/-- The source R18 selects (log entry 22 for a lost source that was not TAI-traceable). -/
def State.selected (s : State) : Nat :=
  let o := s.u Obj.EPOCH_SOURCE.SOURCE_ORDER
  match [o % 16, o / 16 % 16, o / 256 % 16].find? s.usable with
  | some c => c
  | none => if s.u Obj.EPOCH.SOURCE = 0 then 0 else 4

/-- Whether a source is TAI-traceable (R22): CLUSTER only while the root's ORIGIN is TAI. -/
def State.traceable (s : State) (code : Nat) : Bool :=
  code == 1 || code == 2 || (code == 3 && s.ep.clusterTai)

/-- The integral of FREQ_ADJ over the epoch, for the mean of R291. -/
def State.integrateAdj (s : State) : State :=
  { s with clk := { s.clk with
    adjSum := s.clk.adjSum + s.i Obj.EPOCH.FREQ_ADJ * ((s.now : Int) - s.clk.adjSince), adjSince := s.now } }

/-- The correction in force is the tracked frequency plus the slew term (R23, R26), held to SLEW_MAX. -/
def State.putCorrection (s : State) : State :=
  let m : Int := s.u Obj.EPOCH_SOURCE.SLEW_MAX * 1000
  s.integrateAdj.puti Obj.EPOCH.FREQ_ADJ (max (-m) (min m (s.ep.track + s.ep.slew)))

def State.degradedFlag (s : State) : State :=
  s.putBit Obj.EPOCH.FLAGS Bit.EPOCH.FLAGS.DEGRADED
    (s.u Obj.EPOCH.SOURCE == 4 && decide (s.u Obj.EPOCH_SOURCE.HOLD_ERR_MAX < s.u Obj.EPOCH.HOLDOVER_ERR))

/-- Entry to HOLDOVER (R26): the slew term stops and the error bound starts at the last offset in whole ns. -/
def State.enterHoldover (s : State) : State :=
  let t := { s with ep := { s.ep with slew := 0, slewing := false } }
  let t := t.putCorrection
  let t := t.put Obj.EPOCH.HOLDOVER_ERR (ceilDiv (s.i Obj.EPOCH.OFFSET).natAbs 1000)
  t.degradedFlag

/-- A change of the selected source takes effect (R21), one to HOLDOVER as any other (log entry 108); outside HOLDOVER the error bound reads
0 (log entry 81). -/
def State.changeSource (s : State) : State :=
  let c := s.selected
  if c = s.u Obj.EPOCH.SOURCE then s
  else
    let t := s.put Obj.EPOCH.SOURCE c
    let t := t.putBit Obj.EPOCH.FLAGS Bit.EPOCH.FLAGS.HOLDOVER (c == 4)
    let t := if c = 4 then t.enterHoldover else (t.put Obj.EPOCH.HOLDOVER_ERR 0).degradedFlag
    let t := t.setBit Obj.EPOCH.FLAGS Bit.EPOCH.FLAGS.SOURCE_CHANGE
    t.log { cls := 1, sub := 12, index := 0x2100, osub := 4, bit := 4, detail := t.u Obj.EPOCH.FLAGS }

/-! ## Offsets (R22 to R24, R28) -/

/-- UNCERTAIN clears when the offset taken up after coasting has been removed (R28). -/
def State.removedOffset (s : State) : State :=
  if s.ep.reacquire then
    ({ s with ep := { s.ep with reacquire := false } }).clrBit Obj.EPOCH.FLAGS Bit.EPOCH.FLAGS.UNCERTAIN
  else s

/-- The offset of the selected source, epoch minus source in ps, enters R22 to R24; a measurement made while
coasting or while a step is in progress is discarded (R28). -/
def State.measure (s : State) (code : Nat) (off : Int) : State :=
  if s.coasting || s.ep.step.isSome || s.u Obj.EPOCH.SOURCE != code then s
  else
    let t := s.puti Obj.EPOCH.OFFSET off
    let re := s.bit Obj.EPOCH.FLAGS Bit.EPOCH.FLAGS.UNCERTAIN && !s.ep.uncertainHeld
    let t := { t with ep := { t.ep with reacquire := re } }
    let tai := s.traceable code && s.u Obj.EPOCH.ORIGIN == 0
    if tai ∨ (s.u Obj.EPOCH_SOURCE.STEP_THRESH : Int) * 1000 < off.natAbs then
      { t with ep := { t.ep with step := some ⟨-(freeRound (off * 2) 625), tai⟩, slew := 0, slewing := false } }.putCorrection
    else
      let t := { t with ep := { t.ep with track := Config.trackedFreq t.fresh,
                                          slew := if off = 0 then 0 else Config.slewRate off,
                                          slewing := off != 0 } }
      let t := t.drawn.putCorrection
      if off = 0 then t.removedOffset else t

/-- An instant in fine LSBs, or in ticks, of the old count as the corrected epoch counts it. -/
def moved (d : Int) (t : Nat) : Nat := ((t : Int) + d).toNat

/-- A port after an epoch step: its next shot is the first after the step; the slot points offered, the launches whose MON window is still
open, the last record window and the earliest launch that R50 leaves free stand in the corrected epoch (log entry 23). -/
def FibrePort.restated (ticks : Int) (p : FibrePort) : FibrePort :=
  { p with stepped := true, lineOffers := p.lineOffers.map (fun o => { o with stamp := moved (ticks * 256) o.stamp }),
           clearAt := p.clearAt.map (moved ticks), lastWin := p.lastWin.map (fun w => (moved ticks w.1, moved ticks w.2)),
           shots := p.shots.map (fun (x : Shot) => { x with launchAt := moved ticks x.launchAt }) }

/-- The stamps of a link's last markers (R434), in the corrected epoch. -/
def LinkPart.restated (d : Int) (x : LinkPart) : LinkPart := { x with sent := moved d x.sent, marker := moved d x.marker }

/-- The stamp of the last Sync (R350), in the corrected epoch. -/
def PtpPart.restated (d : Int) (p : PtpPart) : PtpPart :=
  { p with sync := p.sync.map (fun (y : PtpSyncMsg) => { y with stamp := moved d y.stamp }) }

/-- The epochs that intervals of the clocks are counted from (R291, R300), in the corrected epoch. -/
def ClockPart.restated (ticks : Int) (c : ClockPart) : ClockPart :=
  { c with adjSince := c.adjSince + ticks, adjStart := c.adjStart + ticks, coastAt := c.coastAt + ticks }

/-- The epochs that intervals of the clerks are counted from (R485, R497, R504), in the corrected epoch. -/
def BootPart.restated (ticks : Int) (b : BootPart) : BootPart := { b with restarts := b.restarts.map (· + ticks) }
def DramChannel.restated (ticks : Int) (d : DramChannel) : DramChannel :=
  { d with repair := d.repair.map (fun r => { r with began := r.began + ticks }) }
def CalRun.restated (ticks : Int) (c : CalRun) : CalRun := { c with started := c.started + ticks }
def FlashPart.restated (ticks : Int) (f : FlashPart) : FlashPart :=
  { f with journals := f.journals.map (fun (j : JournalPart) => { j with began := j.began.map (· + ticks) }) }

/-- The epochs that the rate limits and idle times of R400 and R406 are counted from, in the corrected epoch. -/
def Session.restated (ticks : Int) (x : Session) : Session := { x with last := x.last + ticks }
def SourceRec.restated (ticks : Int) (x : SourceRec) : SourceRec :=
  { x with recent := x.recent.map (· + ticks), lastServed := x.lastServed.map (· + ticks), last0503 := x.last0503.map (· + ticks) }
def LedgerPart.restated (ticks : Int) (l : LedgerPart) : LedgerPart :=
  { l with sessions := l.sessions.map (Session.restated ticks), sources := l.sources.map (SourceRec.restated ticks) }

/-- The epochs that network intervals are counted from (R347, R362, R381, R437), in the corrected epoch. -/
def CanPart.restated (ticks : Int) (c : CanPart) : CanPart := { c with lastFrame := c.lastFrame.map (· + ticks) }
def EthPort.restated (ticks : Int) (e : EthPort) : EthPort := { e with seen := e.seen.map (fun x => (x.1, x.2 + ticks)) }
def StreamPart.restated (ticks : Int) (x : StreamPart) : StreamPart := { x with filled := x.filled + ticks }
def BalePart.restated (ticks : Int) (b : BalePart) : BalePart :=
  { b with waiting := b.waiting.map (fun (c : ClosedBale) => { c with closedAt := c.closedAt + ticks }) }
def CapturePart.restated (ticks : Int) (c : CapturePart) : CapturePart :=
  { c with seen := c.seen.map (fun x => (x.1, x.2.1, x.2.2 + ticks)) }

/-- The instants of the TDC's edges (R307, R308), in the corrected epoch. -/
def TdcPart.restated (fine : Int) (t : TdcPart) : TdcPart :=
  { t with lastEdge := t.lastEdge.map (fun x => x.map (· + fine)), raw := t.raw.map (fun (e : RawEdge) => { e with stamp := moved fine e.stamp }) }

/-- When the own claim changed last (R450), in the corrected epoch. -/
def TwinPart.restated (ticks : Int) (x : TwinPart) : TwinPart := { x with wireSince := x.wireSince + ticks }

/-- An epoch step starts a new epoch second of the day book (R414). -/
def DayBook.stepped (b : DayBook) (now : Nat) : DayBook := { b with second := now / ticksPerSecond, inSecond := 0 }

/-- STEP_LOAD (R24): the corrected count is loaded once every committed shot's window has closed; what the device keeps to measure
intervals of its own is restated in the corrected epoch, and a second that the step skips is still to be served (R17; log entry 23). A
step to TAI sets the origin (R22). -/
def execStepLoad (s : State) : Result :=
  .next (match s.ep.step with
  | none => s
  | some st =>
    if s.ports.toList.any (fun p => p.shots.any (fun x => !x.winClosed)) then s
    else
      let fine := st.ticks * 256
      let s := s.integrateAdj
      let e := { s.ep with
        count := BitVec.ofInt 64 ((s.ep.count.toNat : Int) + st.ticks), step := none,
        recent := s.ep.recent.map (fun c => (moved st.ticks c.1, c.2)),
        pps := { s.ep.pps with last := s.ep.pps.last.map (moved fine) }, ptpOffset := s.ep.ptpOffset + psOfFine fine,
        served := min s.ep.served ((BitVec.ofInt 64 ((s.ep.count.toNat : Int) + st.ticks)).toNat / ticksPerSecond) }
      let t := { s with ep := e,
                        mains := { s.mains with last := s.mains.last.map (fun x => x + fine) },
                        links := s.links.map (LinkPart.restated fine),
                        ptp := s.ptp.restated fine,
                        ports := s.ports.map (FibrePort.restated st.ticks), clk := s.clk.restated st.ticks,
                        boot := s.boot.restated st.ticks, cal := s.cal.map (CalRun.restated st.ticks),
                        flash := s.flash.restated st.ticks, can := s.can.restated st.ticks, ledger := s.ledger.restated st.ticks,
                        eth := s.eth.map (EthPort.restated st.ticks), streams := s.streams.map (StreamPart.restated st.ticks),
                        bale := s.bale.restated st.ticks, capture := s.capture.restated st.ticks, book := s.book.stepped e.count.toNat,
                        tdc := s.tdc.restated fine, dram := s.dram.map (DramChannel.restated st.ticks),
                        twin := s.twin.restated st.ticks }
      let t := t.setBit Obj.EPOCH.FLAGS Bit.EPOCH.FLAGS.STEPPED
      let t := t.bump Obj.EPOCH.STEPS
      let t := if st.tai then (t.put Obj.EPOCH.ORIGIN 1).setBit Obj.EPOCH.FLAGS Bit.EPOCH.FLAGS.ORIGIN_TAI else t
      let t := t.discardEvents
      t.removedOffset)

/-- SLEW_END: the measured offset has been removed (R23, R28). -/
def execSlewEnd (s : State) : Result :=
  .next (if s.ep.slewing then
    (({ s with ep := { s.ep with slew := 0, slewing := false } }).putCorrection).removedOffset
  else s)

/-- HOLDOVER_ERR grows by 1 ns per second of holdover (R26). -/
def execHoldoverErrGrowth (s : State) : Result :=
  .next (if s.u Obj.EPOCH.SOURCE = 4 then (s.bump Obj.EPOCH.HOLDOVER_ERR).degradedFlag else s)

/-! ## PPS (R19, R20) -/

/-- One second and one microsecond in fine LSBs. -/
def secondFine : Nat := ticksPerSecond * 256
def microFine : Nat := 3200 * 256

/-- An instant of the epoch in PTP time, in ps, by the offset of the last Sync (R19, R352). -/
def State.ptpTime (s : State) (t : Int) : Int := psOfFine t - s.ep.ptpOffset

/-- The TAI second that labels an edge (R19): the host's label, or the nearest second of PTP time while PTP is usable. -/
def State.edgeSecond (s : State) (t : Int) : Option Nat :=
  match s.ep.pps.label with
  | some l => some l
  | none => if s.ep.ptpUsable then some ((s.ptpTime t + 500000000000) / 1000000000000).toNat else none

/-- A stamped edge of REF.PPS (R19, R20): it is accepted when it lies within 1 microsecond of prediction, and qualifies the source
after four; another one loses the source. The offset of a labelled edge enters R23 or R24. A host's label counts on with every edge
(log entry 82). -/
def State.ppsEdge (s : State) (stamp : Stamp) : State :=
  let t : Int := (stamp : Int) - freeRound (s.i Obj.EPOCH_SOURCE.PPS_DELAY * 512) 625
  let good := match s.ep.pps.last with
    | none => false
    | some l => decide (((stamp : Int) - l - secondFine).natAbs ≤ microFine)
  let lab := s.edgeSecond t
  let u := { s with ep := { s.ep with pps :=
    { last := some stamp, run := if good then min 4 (s.ep.pps.run + 1) else 0, label := s.ep.pps.label.map (· + 1) } } }
  let u := u.ppsFlag
  match lab with
  | none => u
  | some sec => if u.usable 2 then u.measure 2 (psOfFine (t - sec * secondFine)) else u

/-- PPS_TIMEOUT (R20): no edge within 1.1 s of the last accepted edge; a label written is dropped with the source (log entry 82). -/
def execPpsTimeout (s : State) : Result :=
  .next ({ s with ep := { s.ep with pps := { last := none, run := 0, label := none } } }).ppsFlag

/-- The effect of a write of SEC_LABEL (R19): the TAI second of the next PPS edge. -/
def secLabelEff (s : State) (v : Nat) : State :=
  ({ s with ep := { s.ep with pps := { s.ep.pps with label := some v } } }).ppsFlag

/-! ## The mains tracker (R31, R32) -/

/-- 10.714 ms, 14.286 ms and 25.000 ms in fine LSBs (R31). -/
def mainsMin : Rat := 3200000 * 256 * 10714 / 1000
def periodMin : Rat := 3200000 * 256 * 14286 / 1000
def periodMax : Rat := 3200000 * 256 * 25

def mainsN (s : State) : Rat :=
  match s.u Obj.AXIS_CONFIG.MAINS_BW with | 0 => 8 | 1 => 32 | _ => 128

/-- Nanoseconds of a time in fine LSBs, rounded half to even. -/
def nsOfFine (t : Rat) : Int := roundEven (t * 625 / 512 / 1000)

/-- The tracker loses lock (R32). -/
def State.mainsUnlock (s : State) : State :=
  let t := { s with mains := { s.mains with good := 0, bad := 0, synth := 0 } }
  if s.u Obj.AXIS_STATUS.MAINS_LOCK = 1 then
    (t.put Obj.AXIS_STATUS.MAINS_LOCK 0).log
      { cls := 2, sub := 12, index := 0x2103, osub := 4, bit := 0 }
  else t

def State.mainsReject (s : State) : State := s.bump Obj.AXIS_STATUS.MAINS_REJECT

/-- An accepted edge with a computed residual `r` against the period `p`: the estimate moves by r/n and the edge is judged
for lock and for its loss. -/
def State.mainsAccept (s : State) (t l p : Rat) : State :=
  let r := t - (l + p)
  let q := p + r / mainsN s
  let ok := decide (|r| < p / 200) && decide (periodMin ≤ q) && decide (q ≤ periodMax)
  let m : MainsPart := { s.mains with
    last := some t, period := some q, cycle := s.mains.cycle + 1, synth := 0,
    good := if ok then min 8 (s.mains.good + 1) else 0,
    bad := if p / 50 < |r| then s.mains.bad + 1 else 0 }
  let u := { s with mains := m }
  let u := u.put Obj.AXIS_STATUS.MAINS_PERIOD (nsOfFine q).toNat
  let u := u.puti Obj.AXIS_STATUS.MAINS_RESID (nsOfFine r)
  if 4 ≤ m.bad then u.mainsUnlock
  else if 8 ≤ m.good then u.put Obj.AXIS_STATUS.MAINS_LOCK 1 else u

/-- A stamped mains edge (R31): its stamp less MAINS_DELAY is rejected or accepted. -/
def State.mainsEdge (s : State) (stamp : Stamp) : State :=
  let t : Rat := stamp - (s.i Obj.AXIS_CONFIG.MAINS_DELAY : Rat) * 512 / 625
  match s.mains.last, s.mains.period with
  | none, _ => { s with mains := { s.mains with last := some t, cycle := s.mains.cycle + 1, synth := 0 } }
  | some l, none =>
    if t - l < mainsMin then s.mainsReject
    else ({ s with mains := { s.mains with
      last := some t, period := some (t - l), cycle := s.mains.cycle + 1, synth := 0 } }).put Obj.AXIS_STATUS.MAINS_PERIOD (nsOfFine (t - l)).toNat
  | some l, some p => if t - l < p * 3 / 4 then s.mainsReject else s.mainsAccept t l p

/-- MAINS_SYNTHETIC_EDGE: 1.25 periods have passed without an edge; the fourth in a row loses the lock (R32). -/
def execMainsSyntheticEdge (s : State) : Result :=
  .next (match s.mains.last, s.mains.period with
  | some l, some p =>
    let m : MainsPart := { s.mains with last := some (l + p), cycle := s.mains.cycle + 1, good := 0, synth := s.mains.synth + 1 }
    let u := { s with mains := m }
    if 4 ≤ m.synth then u.mainsUnlock else u
  | _, _ => s)

/-! ## The encoder (R35 to R37) -/

/-- The move of the count for a step of the two bits A then B: +1 along 00b, 10b, 11b, 01b, 00b (R36). -/
def encMove (a b a' b' : Bool) : Int :=
  if a != a' && b != b' then 0
  else if a != a' then (if a' = b then -1 else 1)
  else if b != b' then (if b' = a then 1 else -1)
  else 0

/-- Whether a count is a slot position of a port's LINE axis, reached in an allowed direction (R37). -/
def lineSlot (s : State) (n : Port) (count : Int) (mv : Int) : Bool :=
  let dir := s.u (Obj.SCHEDULER.L_DIR n)
  s.u (Obj.SCHEDULER.AXIS n) == 2 && mv != 0 &&
  (count - s.i (Obj.SCHEDULER.L_START n)) % (max 1 (s.u (Obj.SCHEDULER.L_SPACING n)) : Int) == 0 &&
  (if 0 < mv then dir == 0 || dir == 2 else dir == 1 || dir == 2)

/-- The count after an edge, wrapped to 32 bits. -/
def State.lineCount (s : State) : BitVec 32 := BitVec.ofNat 32 (s.u Obj.AXIS_STATUS.LINE_POS)

/-- The slot points that an accepted edge offers (R37); the first after an illegal transition will be refused (R35). -/
def State.offerLine (s : State) (mv : Int) (stamp : Stamp) : State :=
  overAll s (fun t n =>
    if lineSlot s n s.lineCount.toInt mv then
      t.modPort n (fun p => { p with lineBad := false, lineOffers := p.lineOffers ++
        [⟨stamp + s.u (Obj.SCHEDULER.L_DELAY n) * 256, s.lineCount, BitVec.ofNat 32 (s.u Obj.AXIS_STATUS.LINE_INDEX), p.lineBad⟩] })
    else t)

/-- An accepted rising edge of ENC_Z (R36). -/
def State.indexEdge (s : State) : State :=
  let t := s.bump Obj.AXIS_STATUS.LINE_INDEX
  match s.u Obj.AXIS_CONFIG.ENC_INDEX with
  | 1 => t.put Obj.AXIS_STATUS.LINE_POS 0
  | 2 => if s.enc.zeroNext then
      ({ t with enc := { t.enc with zeroNext := false } }).put Obj.AXIS_STATUS.LINE_POS 0 else t
  | _ => t

/-- An illegal transition (R35): it marks the ports that are on LINE (log entry 109). -/
def State.encIllegal (s : State) : State :=
  let t := s.bump Obj.AXIS_STATUS.ENC_ILLEGAL
  overAll t (fun u n => if s.u (Obj.SCHEDULER.AXIS n) = 2 then u.modPort n (fun p => { p with lineBad := true }) else u)

/-- A preset written takes effect at a filtered sample, after its moves and zeroing (R36). -/
def State.takePreset (s : State) : State :=
  match s.enc.preset with
  | none => s
  | some v => ({ s with enc := { s.enc with preset := none } }).put Obj.AXIS_STATUS.LINE_POS v

/-- The effect of a write of ENC_PRESET (R36): the next filtered sample takes the count (log entry 24). -/
def encPresetEff (s : State) (v : Nat) : State := { s with enc := { s.enc with preset := some v } }

/-- LINE_RATE_UPDATE: the net count change over the 10 ms just ended, times 100 (R62). -/
def execLineRateUpdate (s : State) : Result :=
  let d := (s.lineCount - s.enc.at10ms).toInt
  .next ((({ s with enc := { s.enc with at10ms := s.lineCount } })).puti Obj.AXIS_STATUS.LINE_RATE (d * 100))

end Sys2Proof.Machine
end

