-- ==== Sys2Proof/Machine/Signal.lean ====
section
/-! DEFINITION. The samples of a fibre port: the launch waveform (R80 to R88, R541), the normalised receive samples (R68, R74, R77), and
stages 1 to 3 of the front pipeline (R109 to R116). Numbers are exact rationals; a root, a logarithm or an angle is found to within 2 to the
power -60, and a value that is no whole number is carried in the device's own word (log entries 4 and 86). -/

namespace Sys2Proof.Machine

/-! ## Numbers -/

/-- A value as the device's words hold it: cut to its fractional bits, up or down as the device rounds (log entry 4). -/
def narrow (q : Rat) : Rat := (freeRound (q.num * 2 ^ Config.fracBits) q.den : Rat) / 2 ^ Config.fracBits

/-- The square root of a number that is not negative: exact where it is rational, else within 2 to the power -64. -/
def sqrtQ (q : Rat) : Rat :=
  let a := Nat.sqrt q.num.toNat
  let b := Nat.sqrt q.den
  if a * a = q.num.toNat ∧ b * b = q.den then (a : Rat) / b
  else (Nat.sqrt (q.num.toNat * 2 ^ 128 / q.den) : Rat) / 2 ^ 64

/-- The ratio of a circle's length to its diameter, to 49 decimals. -/
def piQ : Rat := 31415926535897932384626433832795028841971693993751 / 10 ^ 49

/-- The cosine's series in the square of the angle, from its term `k` on. -/
def cosFrom (x2 : Rat) : Nat → Nat → Rat
  | 0, _ => 1
  | n + 1, k => 1 - x2 / (((2 * k + 1) * (2 * k + 2) : Nat) : Rat) * cosFrom x2 n (k + 1)

/-- The cosine of an angle in turns; exact at the quarter turns. -/
def cosTurn (t : Rat) : Rat :=
  let f := |t - (t + 1 / 2).floor|
  if f = 0 then 1 else if f = 1 / 4 then 0 else if f = 1 / 2 then -1 else cosFrom ((2 * piQ * f) ^ 2) 30 0

def sinTurn (t : Rat) : Rat := cosTurn (t - 1 / 4)

/-- The series of the inverse tangent (sign -1) or its hyperbolic twin (sign 1) in the square of its argument, from term `k` on. -/
def atanFrom (sign u2 : Rat) : Nat → Nat → Rat
  | 0, _ => 0
  | n + 1, k => 1 / ((2 * k + 1 : Nat) : Rat) + sign * u2 * atanFrom sign u2 n (k + 1)

def atanSmall (u : Rat) : Rat := u * atanFrom (-1) (u * u) 60 0

def atanhSmall (u : Rat) : Rat := u * atanFrom 1 (u * u) 60 0

/-- The natural logarithm of a positive number. -/
def lnQ (q : Rat) : Rat :=
  let e : Int := (Nat.log2 q.num.toNat : Int) - Nat.log2 q.den
  let m := if 0 ≤ e then q / 2 ^ e.toNat else q * 2 ^ (-e).toNat
  2 * e * atanhSmall (1 / 3) + 2 * atanhSmall ((m - 1) / (m + 1))

/-- The inverse tangent, in turns, of a number from 0 to 1. -/
def atanTurn (z : Rat) : Rat :=
  if 5 * z ≤ 2 then atanSmall z / (2 * piQ) else 1 / 8 - atanSmall ((1 - z) / (1 + z)) / (2 * piQ)

/-! ## Complex values -/

abbrev Cx := Rat × Rat

def cAdd (x y : Cx) : Cx := (x.1 + y.1, x.2 + y.2)
def cMul (x y : Cx) : Cx := (x.1 * y.1 - x.2 * y.2, x.1 * y.2 + x.2 * y.1)
def cConj (x : Cx) : Cx := (x.1, -x.2)
def cScale (k : Rat) (x : Cx) : Cx := (k * x.1, k * x.2)
def cSum (l : List Cx) : Cx := l.foldr cAdd (0, 0)
def cPower (x : Cx) : Rat := x.1 * x.1 + x.2 * x.2
def phasor (turns : Rat) : Cx := (cosTurn turns, sinTurn turns)
def cNarrow (x : Cx) : Cx := (narrow x.1, narrow x.2)

/-- The argument of a complex value other than 0, in turns from -1/2 to 1/2. -/
def argTurn (z : Cx) : Rat :=
  let a := |z.1|
  let b := |z.2|
  let q := if b ≤ a then atanTurn (b / a) else 1 / 4 - atanTurn (a / b)
  let h := if z.1 < 0 then 1 / 2 - q else q
  if z.2 < 0 then -h else h

/-- The argument in LSB of 2π/2²⁰ (R127), rounded up or down as the device does; that of 0 is open (log entry 5). -/
def arg20 (z : Cx) : BitVec 20 :=
  if z = (0, 0) then Config.zeroArg
  else
    let t := argTurn z * 2 ^ 20
    BitVec.ofInt 20 (freeRound t.num t.den)

/-! ## The launch waveform (R80, R81, R84, R88, R541) -/

/-- The samples of a filter given from its centre outward, its centre on sample 0. -/
def symmetric (taps : List Rat) (f : Int → Rat) : Rat :=
  ((taps.zipIdx).map (fun e => if e.2 = 0 then e.1 * f 0 else e.1 * (f e.2 + f (-(e.2 : Int))))).sum

/-- The gain of such a filter at a frequency in kHz, for a sample rate in kS/s. -/
def gainAt (taps : List Rat) (rate : Nat) (freq : Rat) : Rat := symmetric taps (fun j => cosTurn (freq * j / (rate : Rat)))

/-- Whether a power ratio lies within a bound about 1, as `10 ^ (-1 / n)` to `10 ^ (1 / n)`. -/
def nearUnity (n : Nat) (q : Rat) : Bool := decide (q ^ n ≤ 10) && decide (1 ≤ 10 * q ^ n)

/-- The zero-order hold's roll-off at a frequency in kHz (R88: 3.4 dB at 1,500 MHz). -/
def holdGain (freq : Nat) : Rat := if freq = 0 then 1 else sinTurn ((freq : Rat) / 6400000) / (piQ * freq / 3200000)

/-- What R88 states of the equaliser's taps: unit gain at DC, and the roll-off corrected to within 0.1 dB from DC to 1,500 MHz, at every kHz. -/
def equaliserGood (taps : List Rat) : Bool :=
  gainAt taps 3200000 0 == 1 && (List.range 1500001).all (fun f => nearUnity 100 ((gainAt taps 3200000 (f : Nat) * holdGain f) ^ 2))

/-- What R109 states of stage 1's low-pass filter, at every kHz: flat within 0.05 dB over 210 MHz, 80 dB down beyond 390 MHz. -/
def lowPassGood (taps : List Rat) : Bool :=
  let power := fun (f : Nat) => (gainAt taps 1600000 f / gainAt taps 1600000 0) ^ 2
  gainAt taps 1600000 0 != 0 && (List.range 210001).all (fun f => nearUnity 200 (power f)) &&
  (List.range 410001).all (fun f => decide (10 ^ 8 * power (390000 + f) ≤ 1))

/-- The equaliser's taps, by SILICON (R88: not stated): the device's own, where they meet the bounds, else some that do (log entry 86). -/
def sincTaps (silicon : Nat) : List Rat :=
  if equaliserGood (Config.sincTaps silicon) then Config.sincTaps silicon
  else ([76282, -6856, 2111, -927, 482, -262, 150, -71] : List Int).map (fun c => (c : Rat) / 65536)

/-- The low-pass filter's taps (R109: not stated): the device's own, where they meet the bounds, else some that do (log entry 86). -/
def lowPass : List Rat :=
  if lowPassGood Config.lowPass then Config.lowPass
  else ([393206, 306315, 114895, -40087, -74946, -21586, 30829, 31559, 0, -19589, -11764, 4959, 9991, 2910, -4028, -3870, 0, 1950, 1014,
    -358, -582, -130, 127, 76] : List Int).map (fun c => (c : Rat) / 1048576)

/-- taper_t(k) (R541). -/
def taperAt (t : ToneSpec) (k : Nat) : Rat :=
  let m := min k (t.dur - 1 - k)
  if m < t.taper then (1 - cosTurn ((m : Rat) / (2 * t.taper))) / 2 else 1

/-- The phase of a tone at its sample `k`, in turns (R80): start phase, f₀ k / fs and the sweep's half square. -/
def phaseAt (t : ToneSpec) (k : Nat) : Rat :=
  let sweep : Rat := if t.down then -(t.band : Rat) else t.band
  (t.phase : Rat) / 65536 + ((t.centre : Rat) - sweep / 2) * k / 3200000 +
    sweep * (k * k) / (2 * 3200000 * (max 1 t.dur : Nat))

/-- The phase as the 48-bit accumulator holds it (R80), up or down as the device rounds (log entry 2). -/
def heldPhase (t : ToneSpec) (k : Nat) : Rat :=
  let q := phaseAt t k * 2 ^ 48
  (freeRound q.num q.den : Rat) / 2 ^ 48

/-- A tone's share of sample `k` (R80): amplitude, taper and cosine. -/
def toneAt (t : ToneSpec) (k : Int) : Rat :=
  if 0 ≤ k ∧ k < t.dur then (t.amp : Rat) / 65535 * taperAt t k.toNat * cosTurn (heldPhase t k.toNat) else 0

def tonesAt (l : List ToneSpec) (k : Int) : Rat := (l.map (fun t => toneAt t k)).sum

/-- The reach of the equaliser on each side, in samples; 0 without it (R88). -/
def sincReach (inv : Bool) (silicon : Nat) : Nat := if inv then (sincTaps silicon).length - 1 else 0

/-- Sample `k` of a set's waveform with scale 1, through the equaliser when INV_SINC is 1 (R84, R88). -/
def waveAt (l : List ToneSpec) (inv : Bool) (silicon : Nat) (k : Int) : Rat :=
  if inv then symmetric (sincTaps silicon) (fun j => tonesAt l (k + j)) else tonesAt l k

def setLength (l : List ToneSpec) : Nat := (l.map (·.dur)).foldl max 0

/-- The complete waveform, from the first sample the equaliser reaches to the last. -/
def waveform (l : List ToneSpec) (inv : Bool) (silicon : Nat) : List Rat :=
  let r := sincReach inv silicon
  if l.isEmpty then [] else (List.range (setLength l + 2 * r)).map (fun i => waveAt l inv silicon ((i : Int) - r))

/-- The peak magnitude of a waveform in codes (R84). -/
def peakCodes (w : List Rat) : Rat := 8191 * (w.map (|·|)).foldl max 0

/-- CREST (R84): 20 log10 of peak over rms in 0.01 dB, rounded to the nearest; the ratio of their squares is `q`. -/
def crestOf (w : List Rat) : Nat :=
  let p := (w.map (fun x => x * x)).foldl max 0
  let e := (w.map (fun x => x * x)).sum
  if e = 0 then Config.noCrest
  else
    let q := p * w.length / e
    ((List.range 65535).filter (fun n => 10 ^ (2 * n + 1) * q.den ^ 2000 < q.num.toNat ^ 2000)).length

/-- SCALE as the synthesiser applies it (R84, R541). -/
def scaleValue (scale : Nat) : Rat := if scale = 65535 then 1 else (scale : Rat) / 65536

/-- The DAC codes before clipping (R80). -/
def rawCodes (l : List ToneSpec) (inv : Bool) (silicon : Nat) (scale : Rat) : List Int :=
  (waveform l inv silicon).map (fun x => roundEven (scale * 8191 * x))

def clipCode (c : Int) : Int := max (-8191) (min 8191 c)

/-- The samples that a launch clips (R86). -/
def clipCount (l : List Int) : Nat := l.countP (fun c => decide (8191 < c.natAbs))

/-! ## Receive samples (R68, R71, R74, R75, R77) -/

/-- A converter code with its sub-converter's offset and gain correction (R75), 12 bits; offset in 1/16 code, gain in 1/32,768. -/
def corrected (code offset : Int) (gain : Nat) : Int :=
  max (-2048) (min 2047 (freeRound ((16 * code - offset) * gain) (16 * 32768)))

/-- A raw sample as the receive path hands it on at step `s` (R68, R71, R74). -/
def rxSample (offset : Nat → Int) (gain : Nat → Nat) (s i : Nat) (r : RxRaw) : RxSample :=
  let c := r.code.toInt
  ⟨c, r.flagged || decide (c ≤ -2048) || decide (2047 ≤ c), corrected c (offset (i % 8)) (gain (i % 8)) * 2 ^ (7 - s)⟩

/-- The samples of sub-converter `k` in a record. -/
def laneOf (l : List RxSample) (k : Nat) : List Int := ((l.zipIdx).filter (fun e => e.2 % 8 == k)).map (fun e => e.1.code)

/-- The sub-converters of an input that returned a single code for all of at least 1,024 samples (R77). -/
def laneStuck (l : List RxSample) (k : Nat) : Bool :=
  match laneOf l k with
  | [] => false
  | c :: r => decide (1024 ≤ r.length + 1) && r.all (· == c)

/-- The sub-converters that returned at least two codes. -/
def laneMoves (l : List RxSample) (k : Nat) : Bool :=
  match laneOf l k with
  | [] => false
  | c :: r => r.any (· != c)

/-- The lanes of both inputs that satisfy a test, X in bits 7-0, Y in 15-8. -/
def laneBits (x y : List RxSample) (f : List RxSample → Nat → Bool) : BitVec 16 :=
  BitVec.ofNat 16 ((List.range 8).map (fun k => bit8 (f x k) k + bit8 (f y k) (8 + k))).sum

/-- The peak of a record after its first AGC_SKIP samples (R71). -/
def rxPeak (l : List RxSample) (skip : Nat) : Nat := ((l.drop skip).map (fun e => e.code.natAbs)).foldl max 0

def overCount (l : List RxSample) : Nat := l.countP (·.ovr)

/-! ## Stage 1 (R78, R109) -/

/-- The half tick h in ps (R78). -/
def halfTick (x : Shot) : Rat := if x.launchAt % 2 = 0 then 0 else 625 / 2

def inputOf (x : Shot) (b : Nat) : List RxSample := if b % 2 = 0 then x.recX else x.recY

/-- The tone of branch `b` (R100). -/
def toneOf (x : Shot) (b : Nat) : Option ToneSpec := x.tones.find? (fun t => t.t == b / 2)

/-- The normalised sample at `r` raw samples from L (R78); only samples of the record window reach the pipeline. -/
def sampleAt (x : Shot) (b : Nat) (r : Int) : Int :=
  if (x.winStart : Int) ≤ r then (((inputOf x b)[(r - x.winStart).toNat]?).map (·.norm)).getD 0 else 0

/-- The oscillator at -CENTRE, at phase 0 at L (R109), at the instant of raw sample `r` (R78). -/
def oscAt (x : Shot) (centre : Nat) (r : Int) : Cx := phasor (-((centre : Rat) * (r * 625 + halfTick x) / 10 ^ 9))

def mixedAt (x : Shot) (b : Nat) (t : ToneSpec) (r : Int) : Cx := cScale (sampleAt x b r) (oscAt x t.centre r)

/-- Branch sample `m` of stage 1, at raw sample 2 m: filtered and decimated by 2. -/
def stage1 (x : Shot) (b : Nat) (t : ToneSpec) (m : Int) : Cx :=
  (symmetric lowPass (fun j => (mixedAt x b t (2 * m + j)).1), symmetric lowPass (fun j => (mixedAt x b t (2 * m + j)).2))

/-! ## Stage 2 (R110 to R112) -/

def powerOf2 : Nat → Nat → Nat → Nat
  | 0, p, _ => p
  | f + 1, p, x => if x ≤ p then p else powerOf2 f (2 * p) x

/-- L_m and N_FFT of a set's longest tone (R110). -/
def filterTaps (duration : Nat) : Nat := ceilDiv duration 4
def fftLength (duration : Nat) : Nat := powerOf2 10 1024 (2 * filterTaps duration)

/-- A tone's ideal analytic waveform with unit amplitude, at DAC sample `k`. -/
def idealAt (t : ToneSpec) (k : Int) : Cx :=
  if 0 ≤ k ∧ k < t.dur then cScale (taperAt t k.toNat) (phasor (phaseAt t k.toNat)) else (0, 0)

/-- Sample `j` of the filter, at baseband in steps of 1.25 ns, with the equaliser when INV_SINC was on at the shot's commit (log entry 114). -/
def filterAt (x : Shot) (silicon : Nat) (t : ToneSpec) (j : Nat) : Cx :=
  let k : Int := 4 * j
  let w := if x.invSinc then
      (symmetric (sincTaps silicon) (fun i => (idealAt t (k + i)).1), symmetric (sincTaps silicon) (fun i => (idealAt t (k + i)).2))
    else idealAt t k
  cMul w (phasor (-((t.centre : Rat) * k / 3200000)))

/-- Frequency `f` of a spectrum of `n` samples at 800 MS/s, in kHz. -/
def binFreq (n f : Nat) : Rat := ((if 2 * f < n then (f : Int) else (f : Int) - n) : Rat) * 800000 / n

def toneSpectrum (x : Shot) (silicon : Nat) (t : ToneSpec) (n f : Nat) : Cx :=
  cSum ((List.range (filterTaps x.duration)).map (fun j => cMul (filterAt x silicon t j) (phasor (-(((f * j : Nat) : Rat) / n)))))

/-- A tone's band in kHz: a plain pulse's is its main lobe 2 / DURATION (R83, R106). -/
def bandOf (t : ToneSpec) : Rat := if t.band = 0 then (6400000 : Rat) / (max 1 t.dur : Nat) else t.band

/-- The band mask: zero beyond 10 MHz outside the tone's band. -/
def inBand (t : ToneSpec) (freq : Rat) : Bool := decide (|freq| ≤ bandOf t / 2 + 10000)

/-- The parameter of the Taylor weighting for sidelobes of -35 dB (log entry 87). -/
def taylorA : Rat := let r := sqrtQ (10 ^ 3 * sqrtQ 10); lnQ (r + sqrtQ (r * r - 1)) / piQ

/-- Coefficient `m` of the Taylor weighting with n̄ = 4. -/
def taylorF (m : Nat) : Rat :=
  let a2 := taylorA ^ 2
  let s2 := 16 / (a2 + 49 / 4)
  let num := ([1, 2, 3].map (fun (i : Nat) => 1 - (m * m : Nat) / s2 / (a2 + ((i : Rat) - 1 / 2) ^ 2))).foldl (· * ·) 1
  let den := (([1, 2, 3].filter (· != m)).map (fun (i : Nat) => 1 - ((m * m : Nat) : Rat) / ((i * i : Nat) : Rat))).foldl (· * ·) 1
  (if m % 2 = 1 then 1 else -1) / 2 * num / den

/-- The window over a tone's band (R111), `u` the frequency over the band's width, held to the band's edges (log entry 87). -/
def windowAt (mode : Nat) (u : Rat) : Rat :=
  let v := max (-(1 / 2)) (min (1 / 2) u)
  match mode with
  | 0 => 1
  | 1 => 1 + 2 * ([1, 2, 3].map (fun m => taylorF m * cosTurn (m * v))).sum
  | _ => (1 + cosTurn v) / 2

/-- The delay of R102 in whole ps (R112): ZERO_DELAY less the half tick that the sampling instants already carry (log entry 86). -/
def delayPs (x : Shot) : Int := let d := (x.cfg.zeroDelay : Rat) - halfTick x; freeRound d.num d.den

/-- The correlator's output scale (R112): a matching echo of amplitude `a`, which reaches it as `a / 2` through stage 1's filter, peaks at `a`
without a window. -/
def outScale (x : Shot) (silicon : Nat) (t : ToneSpec) : Rat :=
  let n := fftLength x.duration
  2 * n / ((List.range n).map (fun f =>
    if inBand t (binFreq n f) then cPower (toneSpectrum x silicon t n f) * gainAt lowPass 1600000 (binFreq n f) else 0)).sum

/-- The multiplication of R111 and R112 at frequency `f`, for a shift of `d` ps. -/
def response (x : Shot) (silicon : Nat) (t : ToneSpec) (d : Int) (f : Nat) : Cx :=
  let n := fftLength x.duration
  let fr := binFreq n f
  if inBand t fr then
    cScale (outScale x silicon t * windowAt x.cfg.window (fr / bandOf t))
      (cMul (cConj (toneSpectrum x silicon t n f)) (phasor (fr * d / 10 ^ 9)))
  else (0, 0)

/-- The first input sample and the hop of the overlap-save block that yields output sample `m` (R110; log entry 86). -/
def blockStart (duration : Nat) (m : Int) : Int :=
  let n := fftLength duration
  let l := filterTaps duration
  let hop := 1 + Config.hop n l % (n + 1 - l)
  m / hop * hop - (Config.lead n l % (n + 2 - l - hop) : Nat)

/-- Compressed sample `m` of branch `b`, its fraction of a branch sample `d` in ps (R110 to R112). -/
def stage2 (x : Shot) (silicon b : Nat) (t : ToneSpec) (d m : Int) : Cx :=
  let n := fftLength x.duration
  let s := blockStart x.duration m
  let spec := fun (f : Nat) => cSum ((List.range n).map (fun (i : Nat) =>
    cMul (stage1 x b t (s + i)) (phasor (-(((f * i : Nat) : Rat) / n)))))
  cScale (1 / n) (cSum ((List.range n).map (fun f =>
    cMul (cMul (spec f) (response x silicon t d f)) (phasor ((((f : Int) * (m - s) : Int) : Rat) / n)))))

/-! ## Stage 3 (R102, R116) -/

/-- Branch `b` at grid point `p`: PICK takes the branch sample at the point's delay, BOX the mean of DECIM/2 from it on. -/
def gridValue (x : Shot) (silicon p b : Nat) : Cx :=
  match toneOf x b with
  | none => (0, 0)
  | some t =>
    let d := delayPs x
    let m : Int := p * (x.cfg.decim / 2 : Nat) + d / 1250
    let at' := fun (i : Nat) => stage2 x silicon b t (d % 1250) (m + i)
    cNarrow (if x.cfg.decimMode = 0 then at' 0
      else cScale (1 / (max 1 (x.cfg.decim / 2) : Nat)) (cSum ((List.range (x.cfg.decim / 2)).map at')))

/-! ## Suspect samples (R113) -/

/-- Whether a suspect sample of an input lies in the response span of point `p`: from ZERO_DELAY + p DECIM on, D + DECIM raw samples; a
stuck sub-converter marks every point. -/
def suspectAt (x : Shot) (p b : Nat) : Bool :=
  (x.stuck >>> (b % 2 * 8)).setWidth 8 != 0#8 ||
  ((inputOf x b).zipIdx).any (fun e =>
    let r : Rat := ((x.winStart + e.2 : Nat) : Rat) - (x.cfg.zeroDelay : Rat) / 625 - (p * x.cfg.decim : Nat)
    e.1.ovr && decide (0 ≤ r) && decide (r ≤ (x.duration : Rat) / 2 + x.cfg.decim))

/-! ## Bins of a BRIL shot (R148, R172) -/

/-- The mean power of bin `j` on one branch: of the stage-3 grid values when the tone set is in DAS_SETS, else of the stage-1 samples from
the bin's start on. -/
def binPower (x : Shot) (silicon brBin j b : Nat) : Rat :=
  match toneOf x b with
  | none => 0
  | some t =>
    if x.das then
      let k := brBin / max 1 x.cfg.decim
      ((List.range k).map (fun i => cPower (gridValue x silicon (j * k + i) b))).sum / (max 1 k : Nat)
    else
      let k := brBin / 2
      let z : Rat := ((x.cfg.zeroDelay : Rat) + (j * brBin * 625 : Nat) - halfTick x) / 1250
      ((List.range k).map (fun i => cPower (cNarrow (stage1 x b t (-((-z).floor) + i))))).sum / (max 1 k : Nat)

end Sys2Proof.Machine
end

