-- ==== Sys2Proof/Machine/Source.lean ====
section
/-! DEFINITION. Protocol violations and the rate limits of their sources (R406), and frames on the CAN port (R408 to R411). -/

namespace Sys2Proof.Machine

/-! ## Violations (R406) -/

/-- The source of a path (R406): a UDP address or a CAN channel; the Aggon fabric is rate-limited by neither. -/
def sourceOf : Path → Source
  | .udp a _ _ => .addr a
  | .can c => .can c
  | .fwd _ _ => .fabric

/-- The source as DETAIL names it (R413): IPv4 address, low 32 bits of the IPv6 address, or CAN channel. -/
def sourceWord : Path → Nat
  | .udp a _ _ => a.toNat % 2 ^ 32
  | .can c => c.val
  | .fwd _ _ => 0

def sourceRec (s : State) (x : Source) : SourceRec := (s.ledger.sources.find? (fun r => r.src == x)).getD { src := x }

def State.putSource (s : State) (r : SourceRec) : State :=
  { s with ledger := { s.ledger with sources := r :: s.ledger.sources.filter (fun x => x.src != r.src) } }

/-- A violation of one source: the seventeenth within 1 s limits it, with one entry (R406, R540). -/
def State.watch (s : State) (x : Source) (detail : Nat) : State :=
  if x = .fabric then s
  else
    let r := sourceRec s x
    let l := ((s.now : Int) :: r.recent.filter (fun e => decide ((s.now : Int) < e + ticksPerSecond))).take 17
    if 16 < l.length ∧ !r.limited then
      let t := (s.putSource { r with recent := l, limited := true, lastServed := none }).bump Obj.LEDGER_UDP.RATE_LIMITED
      t.log { cls := 3, sub := 18, index := 0x1130, osub := 6, count := l.length, detail := detail }
    else s.putSource { r with recent := l }

def sessionById (s : State) (id : BitVec 32) : Option Session := s.ledger.sessions.find? (fun x => x.id == id)

def State.modSession (s : State) (id : BitVec 32) (f : Session → Session) : State :=
  { s with ledger := { s.ledger with sessions := s.ledger.sessions.map (fun x => if x.id = id then f x else x) } }

/-- A message refused or ignored (R406): VIOLATIONS, the session's count where its message was verified, a day book entry of class VIOLATION,
and the watch on its sources. -/
def State.violate (s : State) (sub : Nat) (p : Path) (ses : Option (BitVec 32)) (code : Nat) : State :=
  let detail := (ses.map (·.toNat)).getD 0 + sourceWord p * 2 ^ 32
  let x := ses.bind (sessionById s)
  let t := s.bump Obj.LEDGER_UDP.VIOLATIONS
  let t := match x with
    | some y => t.modSession y.id (fun z => { z with violations := z.violations + 1 })
    | none => t
  let t := t.log { cls := 3, sub := sub, inst := (x.map (·.index)).getD 0xFF, code := code, detail := detail }
  let t := t.watch (sourceOf p) detail
  match ses with
  | some id => t.watch (.session id) detail
  | none => t

/-- Whether a source under its limit has a message handled now: at most one per 100 ms (R406). -/
def State.served (s : State) (x : Source) : Bool :=
  let r := sourceRec s x
  !r.limited || (match r.lastServed with
    | none => true
    | some l => decide (l + 320000000 ≤ s.now))

/-- A message of some sources is handled: those under a limit wait 100 ms for their next. -/
def State.serve (s : State) (l : List Source) : State :=
  l.foldl (fun t x => if (sourceRec t x).limited then t.putSource { sourceRec t x with lastServed := some s.now } else t) s

/-- The sources of a message (R406): its path's and the session it names. -/
def sourcesOf (p : Path) (ses : BitVec 32) : List Source := if ses = 0 then [sourceOf p] else [sourceOf p, .session ses]

/-- Whether a request finds the clerks' queue of 64 full (R404): none that came in this root cycle has been served yet (log entry 103). -/
def clerksFull (s : State) : Bool := s.ledger.cycle == s.now && decide (64 ≤ s.ledger.arrived)

/-- A request is taken up (R404, R406): its sources are served, it counts in MSGS, and it takes a place in the clerks' queue. -/
def State.takeUp (s : State) (p : Path) (ses : BitVec 32) : State :=
  let t := (s.serve (sourcesOf p ses)).bump Obj.LEDGER_UDP.MSGS
  { t with ledger := { t.ledger with arrived := if t.ledger.cycle = t.now then t.ledger.arrived + 1 else 1, cycle := t.now } }

/-- RATE_LIMIT_END (R406). -/
def execRateLimitEnd (x : Source) (s : State) : Result :=
  .next (if (sourceRec s x).limited then s.putSource { sourceRec s x with limited := false, recent := [], lastServed := none } else s)

/-! ## The CAN port's transmitter -/

/-- Whether CANCLK runs from WOSC (R294): on its bypass with no crystal. -/
def canOnWosc (s : State) : Bool := s.clk.onBypass[6] && !s.clk.refs[0].present

/-- Whether the port transmits (R294, R299, R409) and the crossing to its clock takes what it sends (R342). -/
def canTx (s : State) : Bool :=
  s.u Obj.CAN.CAN_EN == 1 && !s.can.busOff && !refuses s 4 && !s.bit Obj.CLOCKS.FLAGS Bit.CLOCKS.FLAGS.CLK_COAST && !canOnWosc s

/-- A data length of CAN FD that holds `n` bytes. -/
def canLength (n : Nat) : Nat := (([0, 1, 2, 3, 4, 5, 6, 7, 8, 12, 16, 20, 24, 32, 48, 64].find? (fun k => decide (n ≤ k))).getD 64)

/-- A message cut into frames of up to 63 bytes behind their PCI (R412). -/
def canFrames : Nat → Nat → List Byte → List (List Byte)
  | 0, _, _ => []
  | f + 1, k, l =>
    let isLast := decide (l.length ≤ 63)
    let pci := bit8 (k == 0) 7 + bit8 isLast 6 + k % 64
    let d := BitVec.ofNat 8 pci :: l.take 63
    padTo (canLength d.length) d :: (if isLast then [] else canFrames f (k + 1) (l.drop 63))

/-- The identifier of a response (R411). -/
def canId (s : State) (chan : Fin 16) : BitVec 29 :=
  BitVec.ofNat 29 (s.u Obj.CAN.CAN_BASE * 2 ^ 24 + 2 ^ 23 + chan.val * 2 ^ 19 + (ownId s).toNat)

/-- An error count of ISO 11898-1 after a frame: the errors seen on the bus, which no command brings, raise it, and the frame lowers it by one
(R409; log entry 66). -/
def errorCount (count errors weight : Nat) : Nat := min 255 (count + weight * errors - 1)

/-- A frame passes on the bus: the error count of the port's transmitter or receiver moves from at most
`most`, and the bus is no longer idle. -/
def State.canPassed (s : State) (r : Reg) (most weight : Nat) : State :=
  ({ s.put r (errorCount (min most (s.u r)) (Config.busErrors s.fresh) weight) with can := { s.can with lastFrame := some s.now } }).drawn

/-- Frames that wait leave when the port transmits again. -/
def State.canFlush (s : State) : State :=
  if canTx s then
    let t := s.can.txQueue.foldl (fun u e => (u.canPassed Obj.CAN.TEC 255 8).emit (.can e.1 e.2)) s
    { t with can := { t.can with txQueue := [] } }
  else s

/-- Whether the bus has been idle for 11 bits at 1 Mbit/s (R408, R416). -/
def busIdle (s : State) : Bool :=
  match s.can.lastFrame with
  | none => true
  | some e => decide (e + 35200 ≤ s.now)

/-- The objects of 1140h that wait for an idle bus (R416). -/
def canTimed (key : Nat) : Bool := [Obj.CAN.CAN_EN, Obj.CAN.DATA_RATE, Obj.CAN.SP_ARB, Obj.CAN.SP_DATA].any (fun r => r.key == key)

/-- The commit of 1140h (R416): CAN_EN and the data phase wait until the bus is next idle for 11 bits, the rest takes effect at once. -/
def State.canApplied (s : State) : State :=
  if busIdle s then (s.commit 0x1140).canFlush
  else
    let now := s.staged.filter (fun e => e.1 / 256 == 0x1140 && !canTimed e.1)
    { s with regs := now.foldl (fun l e => rfSet l e.1 e.2) s.regs, staged := s.staged.filter (fun e => !now.contains e) }

/-- The bus has come to rest while a commit of 1140h waits for it. -/
def State.canRest (s : State) : State := if s.isApplying 0x1140 && busIdle s then (s.commit 0x1140).canFlush else s

/-- A response in frames (R412): one whose frames do not all fit the queue of 32 is discarded whole. -/
def State.canSend (s : State) (chan : Fin 16) (msg : List Byte) : State :=
  let l := (canFrames (msg.length + 1) 0 msg).map (fun d => (canId s chan, d))
  if 32 < s.can.txQueue.length + l.length then s.bump Obj.CAN.TX_DROP
  else ({ s with can := { s.can with txQueue := s.can.txQueue ++ l } }).canFlush

end Sys2Proof.Machine
end

