-- ==== Sys2Proof/Machine/Shots.lean ====
section
/-! DEFINITION. The shot scheduler and the launch of a shot (R30 to R60, R70 to R73, R86 to R91), and the laser
interlock (R53 to R56). -/

namespace Sys2Proof.Machine

/-! ## Shots in hand -/

/-- The first shot of a list that satisfies `p`, changed by `f`. -/
def changeFirst (p : Shot → Bool) (f : Shot → Shot) : List Shot → List Shot
  | [] => []
  | x :: r => if p x then f x :: r else x :: changeFirst p f r

def firstShot (s : State) (n : Port) (p : Shot → Bool) : Option Shot := s.ports[n].shots.find? p

def State.modShot (s : State) (n : Port) (p : Shot → Bool) (f : Shot → Shot) : State :=
  s.modPort n (fun q => { q with shots := changeFirst p f q.shots })

/-- A shot leaves the port when its window has closed, its gate has fallen, its stamp is settled and its data are done. -/
def Shot.over (x : Shot) : Bool := x.winClosed && x.gateOff && x.stamp.isSome && x.dataDone

def State.dropOver (s : State) (n : Port) : State :=
  s.modPort n (fun q => { q with shots := q.shots.filter (fun x => !x.over) })

/-! ## Domains (R293 to R296, R29) -/

/-- A shot whose record window is open carries INVALID. -/
def Shot.spoil (x : Shot) : Shot := if x.winOpen ∧ !x.winClosed then { x with invalid := true } else x

/-- Shots whose record window is open carry INVALID (R29, R298). -/
def State.invalidateOpen (s : State) : State :=
  overAll s (fun t n => t.modPort n (fun p => { p with shots := p.shots.map Shot.spoil }))

/-- The domains with a bypass (R293): CORE, PER, CANCLK and SLOW, numbered in the table's order. -/
def bypassDomains : List (Fin 16) := [2, 5, 6, 7]

/-- The crossings a domain is a side of (R341). -/
def crossingsOf (d : Fin 16) : List Nat :=
  if d = 2 then List.range 9 else if d = 5 then [3] else if d = 6 then [4] else if d = 7 then [5] else []

/-- Switches of domains to or from their bypass (R295, R296): SWITCHES and, unclean, UNCLEAN, SWITCH_UNCLEAN and R29. -/
def State.switchDomains (s : State) (l : List (Fin 16)) (bypass unclean : Bool) : State :=
  let t := { s with clk := { s.clk with onBypass := l.foldl (fun v (d : Fin 16) => v.set d bypass) s.clk.onBypass } }
  let t := (t.add Obj.CLOCKS.SWITCHES l.length).canFlush
  if unclean then
    let t := t.peerReset (l.flatMap crossingsOf)
    (((t.add Obj.CLOCKS.UNCLEAN l.length).setBit Obj.CLOCKS.FLAGS Bit.CLOCKS.FLAGS.SWITCH_UNCLEAN).setBit Obj.EPOCH.FLAGS
      Bit.EPOCH.FLAGS.RETAKEN).invalidateOpen.discardEvents
  else t

/-- Whether a record window is open on any port. -/
def State.anyWindow (s : State) : Bool := s.ports.toList.any (fun p => p.shots.any (fun x => x.winOpen && !x.winClosed))

/-- A clean switch of the domains with a bypass to their divisions waits for every record window to close (R295). -/
def State.cleanSwitch (s : State) : State :=
  if s.anyWindow then { s with clk := { s.clk with switchDue := true } } else s.switchDomains bypassDomains false false

/-- A record window has closed: a clean switch that waited is made with the last. -/
def State.settleSwitch (s : State) : State :=
  if s.clk.switchDue && !s.anyWindow then
    ({ s with clk := { s.clk with switchDue := false } }).switchDomains bypassDomains false false
  else s

/-- The record round trip and the 1 microsecond gap of R50, in root ticks from the launch epoch. -/
def Shot.clear (x : Shot) : Nat := x.launchAt + 2 * (x.winStart + x.winLen) + 3200

/-- The earliest launch epoch R50 leaves free on a port: behind the last shot committed and still to launch, else behind the last launched. -/
def State.clearAt (s : State) (n : Port) : Nat :=
  match (s.ports[n].shots.filter (fun x => !x.launched)).getLast? with
  | some x => x.clear
  | none => s.ports[n].clearAt.getD 0

/-! ## The point grid (R103) -/

/-- `ceil ((WIN_START - Z) / D)` and `floor ((WIN_START + WIN_LEN - Z - D') / D)` of R103, the lengths in raw samples, the delay in ps
and the duration in root ticks, all taken to 1/1,250 raw sample. -/
def gridFirst (winStart : Nat) (zero : Int) (decim : Nat) : Nat :=
  (-((-(1250 * (winStart : Int) - 2 * zero)) / (1250 * (max 1 decim) : Int))).toNat

def gridLast (winStart winLen : Nat) (zero : Int) (duration decim : Nat) : Int :=
  (1250 * ((winStart : Int) + winLen) - 2 * zero - 625 * duration) / (1250 * (max 1 decim) : Int)

/-! ## The table (R40, R45, R49) -/

def State.entryAt (s : State) (n : Port) : Nat := s.ports[n].pos

/-- A slot point is consumed: the entry holds for REPEAT slot points, then the table moves on and wraps. An entry that the table reaches
has its repeats from then on (R45; log entry 83); `left` is none only while no slot point has been consumed since reset. -/
def State.advanceTable (s : State) (n : Port) : State :=
  let p := s.ports[n]
  let k := p.left.getD (s.u (Obj.SHOT_ENTRY.REPEAT n p.pos))
  if 1 < k then s.modPort n (fun q => { q with left := some (k - 1) })
  else s.modPort n (fun q =>
    let nxt := if p.pos + 1 < s.u (Obj.SCHEDULER.TABLE_LEN n) then p.pos + 1 else 0
    { q with pos := nxt, left := some (s.u (Obj.SHOT_ENTRY.REPEAT n nxt)) })

/-! ## Slot points (R30, R33, R37) -/

/-- The phase of a MAINS slot (R33). -/
def mainsPhase (s : State) (n : Port) (j : Nat) : Nat :=
  (s.u (Obj.SCHEDULER.M_PHASE n) + j * 65536 / max 1 (s.u (Obj.SCHEDULER.M_SLOTS n))) % 65536

/-- The predicted epoch of a phase of a cycle, in fine LSBs (R33). -/
def predict (m : MainsPart) (c phi : Nat) : Rat :=
  match m.last, m.period with
  | some l, some p => l + ((c : Rat) - (m.cycle.toNat : Rat) + (phi : Rat) / 65536) * p
  | _, _ => 0

/-- What a slot point gives a shot: its launch epoch, axis and position (R30, R33, R37, R60). -/
structure SlotInfo where
  launchAt : Nat
  axis : Nat
  posA : BitVec 32
  posB : BitVec 32
deriving DecidableEq, Repr

/-- The slot point as the port's axis offers it, with the entry's OFFSET; none when the port's axis offers no such point.
The launch epoch of a MAINS slot is the prediction placed on a root tick (R39; log entry 2). -/
def slotInfo (s : State) (n : Port) (offset : Nat) : SlotPoint → Option SlotInfo
  | .time k =>
    if s.u (Obj.SCHEDULER.AXIS n) = 0 then
      some ⟨((s.u (Obj.SCHEDULER.T_ORIGIN n) : Int) + k * s.u (Obj.SCHEDULER.T_PERIOD n) + offset).toNat, 0,
        BitVec.ofInt 32 k, 0⟩
    else none
  | .mains c j =>
    if s.u (Obj.SCHEDULER.AXIS n) = 1 ∧ j < s.u (Obj.SCHEDULER.M_SLOTS n) ∧
        c % max 1 (s.u (Obj.SCHEDULER.M_DIVIDE n)) = 0 then
      let t := predict s.mains c (mainsPhase s n j) / 256
      some ⟨(freeRound t.num t.den).toNat + offset, 1, BitVec.ofNat 32 c, BitVec.ofNat 32 (mainsPhase s n j)⟩
    else none
  | .line =>
    match s.ports[n].lineOffers with
    | [] => none
    | o :: _ => some ⟨ceilDiv o.stamp 256 + offset, 2, o.count, o.index⟩

/-! ## The enable decision (R47) -/

def State.lsiHeld (s : State) : Bool := s.lsi.a && s.lsi.b && s.lsi.resumed && !s.lsi.discord

def State.twinned (s : State) (n : Port) : Bool := s.u Obj.TWIN.TWIN_EN == 1 && s.bit Obj.TWIN.TWIN_PORTS n

/-- A twin that is not ACTIVE commits no shot on a twinned port (R447). -/
def State.withheld (s : State) (n : Port) : Bool := s.twinned n && s.u Obj.TWIN.ROLE != 2

/-- Cause 4 of R47 (R451). -/
def State.claimBars (s : State) (n : Port) : Bool :=
  s.twinned n && decide (s.u Obj.TWIN.CLAIM ≤ s.u Obj.TWIN.PEER_CLAIM)

/-- Cause 5 of R47. -/
def State.axisBars (s : State) (n : Port) : Bool :=
  (s.u (Obj.SCHEDULER.AXIS n) == 1 && s.u Obj.AXIS_STATUS.MAINS_LOCK == 0) ||
  (s.u (Obj.SCHEDULER.AXIS n) == 2 && (s.ports[n].lineOffers.head?.map (·.bad)).getD false) || s.ep.step.isSome

/-- Whether a receive calibration holds the port (R486): target n or n + 8 runs. -/
def State.calHolds (s : State) (n : Port) : Bool :=
  (s.calOf n.val).running || (s.calOf (n.val + 8)).running

/-- The first cause of R47 that holds for a shot with launch epoch `l`, as its number; 0 for none. -/
def State.refusal (s : State) (n : Port) (l : Nat) : Nat :=
  if !s.lsiHeld then 1
  else if s.coasting then 2
  else if s.calHolds n then 3
  else if s.claimBars n then 4
  else if s.axisBars n then 5
  else if l < s.clearAt n then 6
  else 0

def causeCounter (n : Port) : Nat → Reg
  | 1 => Obj.SCHEDULER.SHOT_LSI n
  | 2 => Obj.SCHEDULER.SHOT_COAST n
  | 3 => Obj.SCHEDULER.SHOT_CAL n
  | 4 => Obj.SCHEDULER.SHOT_CLAIM n
  | 5 => Obj.SCHEDULER.SHOT_AXIS n
  | _ => Obj.SCHEDULER.SHOT_CROWD n

/-- A refused slot (R47): its cause is counted, GAP will be set in the next launched header, and a crowded one enters the
day book by summary (R51). -/
def State.refuseShot (s : State) (n : Port) (cause : Nat) : State :=
  let t := (s.bump (causeCounter n cause)).modPort n (fun q => { q with gap := true })
  if cause = 6 then t.summary (.crowd n) else t

/-! ## Auto-gain (R71 to R73) -/

def agcOf (p : FibrePort) (e : Nat) : AgcEntry := (p.agc.find? (fun a => a.entry == e)).getD { entry := e }

def setAgc (p : FibrePort) (a : AgcEntry) : FibrePort :=
  { p with agc := a :: p.agc.filter (fun b => b.entry != a.entry) }

/-- The step of one input at the commit of an auto-gain shot, and the input's state after it. -/
def agcStep (s : State) (n : Port) (a : AgcInput) : Nat × AgcInput :=
  let hi := s.u (Obj.RECEIVE.AGC_HI n)
  let now := a.step.getD (a.fixed.getD (s.u (Obj.RECEIVE.AGC_INIT n)))
  match a.peaks.find? (fun r => r.step == now) with
  | none => (now, { a with step := some now })
  | some r =>
    let next := if r.ovr ∨ hi ≤ r.peak then max (now - 1) (s.u (Obj.RECEIVE.AGC_MIN n))
                else if 4 * r.peak < hi then min (now + 1) (s.u (Obj.RECEIVE.AGC_MAX n)) else now
    (next, { a with step := some next, peaks := a.peaks.erase r })

/-- The steps of a shot of entry `e` and the port's auto-gain state after its commit; an input that is disabled reads 0 (R79). -/
def gainOf (s : State) (n : Port) (e : Nat) : Nat × Nat × FibrePort :=
  let p := s.ports[n]
  let a := agcOf p e
  let g := s.u (Obj.SHOT_ENTRY.GAIN n e)
  let en := s.u (Obj.RECEIVE.INPUT_EN n)
  let r := if g = 0xFF then
      let x := agcStep s n a.x
      let y := agcStep s n a.y
      (x.1, y.1, { a with x := x.2, y := y.2 })
    else (g, g, { a with x := { a.x with fixed := some g }, y := { a.y with fixed := some g } })
  (if en.testBit 0 then r.1 else 0, if en.testBit 1 then r.2.1 else 0, setAgc p r.2.2)

/-! ## Commit (R43 to R48, R57 step 2) -/

/-- The tones a set enables. -/
def tonesOn (g : Reg → Nat) (n : Port) (k : Nat) : List Nat :=
  (List.range 8).filter (fun t => (g (Obj.TONE_SET.TONE_MASK n k)).testBit t)

/-- A tone record's number t of set k stands at 3080h + 100h n + 8 k + t (R98). -/
def tone (k t : Nat) : Nat := 8 * k + t

/-- The tones of set k that the synthesiser plays, with the start phases `phase` gives (R80, R84). -/
def toneSpecs (g : Reg → Nat) (n : Port) (k : Nat) (phase : Nat → Nat) : List ToneSpec :=
  (tonesOn g n k).map (fun t =>
    { t := t, centre := g (Obj.TONE.CENTRE n (tone k t)), band := g (Obj.TONE.BANDWIDTH n (tone k t)),
      dur := g (Obj.TONE.DURATION n (tone k t)), down := g (Obj.TONE.SWEEP n (tone k t)) == 1,
      amp := g (Obj.TONE.AMPLITUDE n (tone k t)), phase := phase t, taper := g (Obj.TONE.TAPER n (tone k t)) })

/-- A shot with the waveform its tone set and the port's launch group give it (R80, R84, R88). -/
def withTones (s : State) (n : Port) (k : Nat) (x : Shot) : Shot :=
  { x with
    tones := toneSpecs s.u n k (fun t => s.u (Obj.TONE.PHASE_USED n (tone k t))),
    scale := scaleValue (s.u (Obj.TONE_SET.SCALE n k)), invSinc := s.u (Obj.LAUNCH.INV_SINC n) == 1,
    inputs := s.u (Obj.RECEIVE.INPUT_EN n) % 4 }

/-- The pipeline configuration in force, fixed for the shot (R120). -/
def pipeCfg (s : State) (n : Port) : PipeCfg :=
  { decim := s.u (Obj.PIPELINE.DECIM n), decimMode := s.u (Obj.PIPELINE.DECIM_MODE n), window := s.u (Obj.PIPELINE.WINDOW n), gauge := s.u (Obj.PIPELINE.GAUGE n), outMode := s.u (Obj.PIPELINE.OUT_MODE n),
    zeroDelay := s.i (Obj.PIPELINE.ZERO_DELAY n), branchMask := BitVec.ofNat 16 (s.u (Obj.PIPELINE.BRANCH_MASK n)),
    complexShift := s.u (Obj.PIPELINE.COMPLEX_SHIFT n), unwrapOrder := s.u (Obj.PIPELINE.UNWRAP_ORDER n),
    ambMargin := s.u (Obj.PIPELINE.AMB_MARGIN n), qmin := s.u (Obj.PIPELINE.QMIN n),
    phaseSign := s.u (Obj.PIPELINE.PHASE_SIGN n), alignShift := s.u (Obj.COMBINING.ALIGN_SHIFT n),
    branchMin := s.i (Obj.COMBINING.BRANCH_MIN n), noiseSrc := s.u (Obj.COMBINING.NOISE_SRC n),
    noiseMinPts := s.u (Obj.COMBINING.NOISE_MIN_PTS n), qcapGain := s.u (Obj.COMBINING.QCAP_GAIN n),
    qcapAmbig := s.u (Obj.COMBINING.QCAP_AMBIG n), qcapRelearn := s.u (Obj.COMBINING.QCAP_RELEARN n),
    darkFrac := s.u (Obj.COMBINING.DARK_FRAC n),
    mapped := if s.bit Obj.TWIN.MAP_REVERSE n then some (s.u (Obj.TWIN.MAP_PTS n)) else none }

/-- The branches a shot has (R100): tone t on X is 2t, on Y 2t + 1. -/
def branchList (mask inputs : Nat) : List Nat :=
  (List.range 16).filter (fun b => mask.testBit (b / 2) && inputs.testBit (b % 2))

/-- The BRIL shots of the sweep at hand that the controller has not yet counted. -/
def brilWaiting (s : State) (n : Port) : Nat :=
  (s.ports[n].shots.filter (fun x => x.kind == 3 && !x.cal && !x.dataDone && x.sweepGen == s.bril[n].gen)).length

def steps (s : State) (n : Port) : Nat := max 1 (s.u (Obj.SWEEP_PROGRAM.N_STEPS n s.bril[n].program))

def perStep (s : State) (n : Port) : Nat := max 1 (s.u (Obj.SWEEP_PROGRAM.SHOTS_PER_STEP n s.bril[n].program))

/-- A shot with everything its commit fixes. -/
def newShot (s : State) (n : Port) (e : Nat) (i : SlotInfo) (seq : BitVec 32) (gx gy : Nat) : Shot :=
  let kind := s.u (Obj.SHOT_ENTRY.KIND n e)
  let ts := s.u (Obj.SHOT_ENTRY.TONE_SET n e)
  let mask := s.u (Obj.TONE_SET.TONE_MASK n ts) % 256
  let cfg := pipeCfg s n
  let dur := s.u (Obj.TONE_SET.DURATION n ts)
  let ws := s.u (Obj.SHOT_ENTRY.WIN_START n e)
  let wl := s.u (Obj.SHOT_ENTRY.WIN_LEN n e)
  let grid := if kind = 3 then s.u (Obj.BRILLOUIN.BR_BIN n) else cfg.decim
  let at' := s.bril[n].shot + brilWaiting s n
  withTones s n ts
  { entry := e, kind := kind, launchAt := i.launchAt, seq := seq, toneSet := ts, toneMask := BitVec.ofNat 8 mask,
    branches := branchList mask (s.u (Obj.RECEIVE.INPUT_EN n)),
    stepX := if kind = 2 then 0 else gx, stepY := if kind = 2 then 0 else gy,
    auto := s.u (Obj.SHOT_ENTRY.GAIN n e) == 0xFF, winStart := ws, winLen := wl,
    gateLead := s.u (Obj.SHOT_ENTRY.GATE_LEAD n e), gateTail := s.u (Obj.SHOT_ENTRY.GATE_TAIL n e),
    sinkMask := BitVec.ofNat 16 (s.u (Obj.SHOT_ENTRY.SINK_MASK n e)), aux := s.u (Obj.SHOT_ENTRY.AUX n e),
    monWindow := s.u (Obj.SCHEDULER.MON_WINDOW n), duration := dur, axis := i.axis, posA := i.posA, posB := i.posB,
    mainsCycle := s.mains.cycle, mainsLast := s.mains.last.getD 0, mainsPeriod := s.mains.period.getD 0,
    loStep := if kind = 3 then BitVec.ofNat 16 ((s.bril[n].group + at' / perStep s n) % steps s n) else 0,
    epochStep := s.ports[n].stepped,
    degraded := s.bit Obj.EPOCH.FLAGS Bit.EPOCH.FLAGS.DEGRADED,
    holdover := s.bit Obj.EPOCH.FLAGS Bit.EPOCH.FLAGS.HOLDOVER,
    cfg := cfg, pFirst := gridFirst ws cfg.zeroDelay grid, pLast := (gridLast ws wl cfg.zeroDelay dur grid).toNat,
    das := (s.u (Obj.PIPELINE.DAS_SETS n)).testBit ts, stateGen := s.pipes[n].gen,
    gaugeReset := kind == 1 && s.pipes[n].gaugeReset, clearPrev := kind == 1 && s.pipes[n].clearSets.contains ts,
    avgGen := (s.raman[n].sets.toList.getD (s.u (Obj.SHOT_ENTRY.AUX n e) % 8) {}).gen,
    groupShot := at' % perStep s n, group := s.bril[n].group + at' / perStep s n, sweepGen := s.bril[n].gen }

/-- Whether a group still lacks its step word: groups are sent in order, so one at or below the last scheduled has had its own (R170). -/
def wordDue (last : Option Nat) (g : Nat) : Bool := match last with | none => true | some w => decide (w < g)

/-- The FCTL step word of a BRIL shot's group (R170): scheduled once, with its first slot that passes. -/
def State.stepWord (s : State) (n : Port) (x : Shot) : State :=
  if x.kind = 3 ∧ wordDue s.bril[n].wordFor x.group then
    let p := s.bril[n].program
    let k := x.group % steps s n
    let w := (s.u (Obj.SWEEP_PROGRAM.W_BASE n p) + k * s.u (Obj.SWEEP_PROGRAM.W_INC n p)) %
      2 ^ s.u (Obj.FCTL.WORD_BITS n)
    (s.modBril n (fun b => { b with wordFor := some x.group })).modPort n (fun q =>
      { q with fctl := { q.fctl with sched :=
          q.fctl.sched ++ [⟨BitVec.ofNat 32 w, x.launchAt - 12800, x.group, x.sweepGen⟩] } })
  else s

/-- The sequence number a shot is assigned at commit (R48): after those of shots committed and not yet launched. -/
def nextSeq (s : State) (n : Port) : BitVec 32 :=
  BitVec.ofNat 32 (s.u (Obj.SCHEDULER.SEQ n) + 1 + (s.ports[n].shots.filter (fun x => !x.launched && !x.cal)).length)

/-- The shot is committed. -/
def State.commitShot (s : State) (n : Port) (e : Nat) (i : SlotInfo) : State :=
  let g := gainOf s n e
  let x := newShot s n e i (nextSeq s n) g.1 g.2.1
  let t := if x.kind = 2 then s else { s with ports := s.ports.set n g.2.2 }
  let t := t.stepWord n x
  let t := t.modPort n (fun q => { q with shots := q.shots ++ [x], stepped := false })
  if x.kind = 1 then
    t.modPipe n (fun q => { q with gaugeReset := false, clearSets := q.clearSets.filter (fun k => k != x.toneSet) })
  else t

/-- The receive calibration that runs on a port: target n or n + 8 (R484). -/
def calTarget (s : State) (n : Port) : Nat := if (s.calOf n.val).running then n.val else n.val + 8

/-- The used shots that the phase at hand of a receive calibration takes (R487), by computations made. -/
def calNeed (k comps : Nat) : Nat :=
  if comps = 0 then 16
  else if k < 8 then (if comps ≤ 3 then 64 else 48)
  else if comps ≤ 7 then 32 else 64

/-- The step of the calibration's next shot (R486, R487): auto-gain's step for entry 0, or, in RX_GAIN, a step of the pair at hand, or
the step whose dark shots are taken. -/
def calStep (s : State) (n : Port) (own : Nat) : Nat :=
  let k := calTarget s n
  let c := s.calOf k
  let i := c.used + (s.ports[n].shots.filter (fun x => x.cal && !x.winClosed && !x.relDiscard)).length
  if k < 8 ∨ c.comps = 0 then own
  else if c.comps ≤ 7 then c.comps - 1 + i % 2
  else i / 8 % 8

/-- The share of the launch that a shot of an RX_GAIN pair takes (R487): 2^(s₀ - s) for the step s₀ of its PRE shots, of the X input where
the two inputs differ (log entry 86). -/
def calScale (s : State) (n : Port) (own st : Nat) : Rat :=
  let c := s.calOf (calTarget s n)
  if 8 ≤ calTarget s n ∧ 1 ≤ c.comps ∧ c.comps ≤ 7 then (2 : Rat) ^ own / 2 ^ st else 1

/-- The calibration's own shot (R486): tone set CAL_SET, a window of CAL_WIN raw samples, no header or sequence number; it
obeys R50 and the claim. Dark shots keep the DAC at code 0 and GATE low (R487). -/
def State.calShot (s : State) (n : Port) (i : SlotInfo) : State :=
  let a := (agcOf s.ports[n] 0)
  let ts := s.u Obj.CALIBRATION.CAL_SET
  let init := s.u (Obj.RECEIVE.AGC_INIT n)
  let k := calTarget s n
  let st := calStep s n (a.x.step.getD init)
  let y := withTones s n ts {
    cal := true, launchAt := i.launchAt, toneSet := ts, kind := 1,
    stepX := st, stepY := calStep s n (a.y.step.getD init),
    winLen := s.u Obj.CALIBRATION.CAL_WIN, monWindow := s.u (Obj.SCHEDULER.MON_WINDOW n),
    duration := s.u (Obj.TONE_SET.DURATION n ts), axis := i.axis,
    dark := decide (8 ≤ k) && decide (8 ≤ (s.calOf k).comps) }
  let x := { y with scale := y.scale * calScale s n (a.x.step.getD init) st }
  let t := s.modCal k (fun c => { c with refused := 0 })
  t.modPort n (fun q => { q with shots := q.shots ++ [x] })

/-! ## The launch sequence (R57) -/

/-- The steps in force take a shot's committed steps once it is loaded and no earlier window is open (R70). -/
def State.gainInForce (s : State) (n : Port) : State :=
  match s.ports[n].shots.find? (fun x => !x.winClosed) with
  | some x => if x.loaded && x.kind != 2 then s.put (Obj.PORT_STATUS.STEP n) (x.stepY * 16 + x.stepX) else s
  | none => s

/-- TONE_LOAD, L - 3 microseconds (R57 step 3). -/
def execToneLoad (n : Port) (s : State) : Result :=
  .next ((s.modShot n (fun x => !x.loaded) (fun x => { x with loaded := true })).gainInForce n)

/-- The shot of a list for which a time is least, the first of equals. -/
def earliest (f : Shot → Int) (l : List Shot) : Option Shot :=
  l.foldl (fun m x => match m with
    | none => some x
    | some y => if f x < f y then some x else some y) none

/-- The tick at which a shot's gate rises, L - GATE_LEAD (R89). -/
def Shot.gateStart (x : Shot) : Int := (x.launchAt : Int) - x.gateLead

/-- The loaded shot whose gate rises first of those whose gate has not. -/
def riseNext (l : List Shot) : Option Shot := earliest Shot.gateStart (l.filter (fun x => x.loaded && !x.gateOn))

/-- GATE_ASSERT, L - GATE_LEAD (R57 step 4, R89): a cut shot's gate stays low. -/
def execGateAssert (n : Port) (s : State) : Result :=
  .next (match riseNext s.ports[n].shots with
  | none => s
  | some y =>
    let t := s.modShot n (fun x => x.loaded && !x.gateOn && x.gateStart == y.gateStart) (fun x => { x with gateOn := true })
    if y.cut || y.dark then t else t.modPort n (fun q => { q with gateHigh := true }))

/-- The tick at which a shot's gate falls, L + D + GATE_TAIL (R89). -/
def Shot.gateEnd (x : Shot) : Nat := x.launchAt + x.duration + x.gateTail

/-- The launched shot whose gate falls first of those whose gate has not. -/
def gateNext (l : List Shot) : Option Shot :=
  earliest (fun x => x.gateEnd) (l.filter (fun x => x.launched && !x.gateOff))

/-- Whether a port's gate is held high by a shot between its two edges; where the spans of two shots overlap the spec gives one pin and two
edges, and the gate stays high until the later falls (log entry 88). A gate that a cut has forced low stays so for that shot (R53, R89). -/
def Shot.holdsGate (x : Shot) : Bool := x.gateOn && !x.gateOff && !x.gateForced && !x.cut && !x.dark

/-- GATE_RELEASE, L + D + GATE_TAIL (R57 step 9, R89). -/
def execGateRelease (n : Port) (s : State) : Result :=
  .next (match gateNext s.ports[n].shots with
  | none => s
  | some y =>
    let t := s.modShot n (fun x => x.launched && !x.gateOff && x.gateEnd == y.gateEnd) (fun x => { x with gateOff := true })
    (t.modPort n (fun q => { q with gateHigh := q.shots.any Shot.holdsGate })).dropOver n)

/-- Whether a shot's GAIN differs from that of the port's previous launched DAS or BRIL shot (R60); a DTS shot, which has no VGA step, does
not carry it (log entry 84). -/
def gainChanged (p : FibrePort) (x : Shot) : Bool :=
  x.kind != 2 && !x.cal && (match p.lastGain with | none => false | some g => g != (x.stepX, x.stepY))

/-- The codes a launch sends to the DAC before clipping (R80, R86): none of a cut shot, nor of a dark one of a calibration (R487). -/
def launchCodes (s : State) (x : Shot) : List Int :=
  if x.cut || x.dark then [] else rawCodes x.tones x.invSinc (s.u Obj.IDENTITY.SILICON) x.scale

/-- The waveform on the DAC from a launch on (R87): its sample 0 leaves at L, those before it that the equaliser reaches ahead of L. -/
def launchRun (s : State) (x : Shot) : DacRun :=
  ⟨(x.launchAt : Int) - sincReach x.invSinc (s.u Obj.IDENTITY.SILICON), (launchCodes s x).map clipCode⟩

/-- A launched shot's samples beyond 8,191 are clipped and counted (R86). -/
def State.clipped (s : State) (n : Port) (k : Nat) : State :=
  if k = 0 then s
  else (s.add (Obj.PORT_STATUS.CLIPS n) k).setBit (Obj.PORT_STATUS.FLAGS n) Bit.PORT_STATUS.FLAGS.CLIP

/-- What a shot takes at its launch: its place in its set's relearn `j`, GAIN_CHANGE, GAP where slots were refused since the last header
(R47), and the previous shot's record window (R154). -/
def launchedShot (p : FibrePort) (j : Nat) (x : Shot) : Shot :=
  { x with launched := true, gainChange := gainChanged p x, relearn := j, gap := p.gap && !x.cal, prevWin := p.lastWin }

/-- LAUNCH, at L (R57 step 6): the shot is launched, takes its sequence number for good, and its waveform streams. -/
def execLaunch (n : Port) (s : State) : Result :=
  .next (match firstShot s n (fun x => x.loaded && !x.launched) with
  | none => s
  | some x =>
    let p := s.ports[n]
    let das := x.kind == 1 && !x.cal
    let j := if das then ((s.pipes[n].relearn.find? (fun e => e.1 == x.toneSet)).map (·.2)).getD 33 else 0
    let t := s.modPort n (fun q =>
      { q with shots := changeFirst (fun z => z.loaded && !z.launched) (fun _ => launchedShot p j x) q.shots,
               clearAt := some x.clear, gap := q.gap && x.cal,
               lastWin := some (x.launchAt + 2 * x.winStart, x.launchAt + 2 * (x.winStart + x.winLen)),
               dac := some (launchRun s x),
               lastGain := if x.kind != 2 && !x.cal then some (x.stepX, x.stepY) else q.lastGain })
    let t := if das then t.modPipe n (fun q =>
      { q with relearn := (x.toneSet, min 33 (j + 1)) :: q.relearn.filter (fun e => e.1 != x.toneSet) }) else t
    let t := if x.cal then t else (t.put (Obj.SCHEDULER.SEQ n) x.seq.toNat).bump (Obj.SCHEDULER.LAUNCHED n)
    let t := if gainChanged p x then t.bump (Obj.PORT_STATUS.GAIN_CHANGES n) else t
    t.clipped n (clipCount (launchCodes s x)))

/-- The digital corrections of an input's eight sub-converters (R75): offset in 1/16 code, gain in 1/32,768; a lane that no trim names is
taken uncorrected (log entry 86). -/
def laneOffset (s : State) (n : Port) (y k : Nat) : Int :=
  toSigned 16 (fromLe (slice (s.blob (Obj.RX_TRIMS.OFFSET n)) (16 * y + 2 * k) 2))
def laneGain (s : State) (n : Port) (y k : Nat) : Nat :=
  let b := slice (s.blob (Obj.RX_TRIMS.GAIN n)) (16 * y + 2 * k) 2
  if b.length = 2 then fromLe b else 32768

/-- The record of one input (R68, R78, R79): WIN_LEN samples at the shot's step, none of an input that is disabled. -/
def rxRecord (s : State) (n : Port) (x : Shot) (y : Nat) (l : List RxRaw) : List RxSample :=
  if x.kind != 2 && x.inputs.testBit y then
    ((l.take x.winLen).zipIdx).map (fun e =>
      rxSample (laneOffset s n y) (laneGain s n y) (if y = 0 then x.stepX else x.stepY) e.2 e.1)
  else []

/-- RECORD_WINDOW_OPEN, L + WIN_START x 625 ps (R57 step 8), with the samples that the port's converters take over the window (log entry 86).
The lanes whose samples are suspect are those that STUCK_LANES names and those that stick in this window (R77, R113). -/
def execRecordWindowOpen (n : Port) (x y : List RxRaw) (s : State) : Result :=
  .next (s.modShot n (fun z => z.launched && !z.winOpen) (fun z =>
    let a := rxRecord s n z 0 x
    let b := rxRecord s n z 1 y
    { z with winOpen := true, recX := a, recY := b,
             stuck := BitVec.ofNat 16 (s.u (Obj.PORT_STATUS.STUCK_LANES n)) ||| laneBits a b laneStuck }))

/-- Whether a launched shot still waits for its MON edge. -/
def Shot.waitsMon (x : Shot) : Bool := x.launched && x.stamp.isNone

/-- Whether a MON edge with a stamp is the shot's: the first one within MON_WINDOW of L (R57 step 7, R59). -/
def Shot.takesMon (stamp : Stamp) (x : Shot) : Bool :=
  x.waitsMon && decide (x.launchAt * 256 ≤ stamp) && decide (stamp ≤ (x.launchAt + x.monWindow) * 256)

/-- An accepted MON stamp (R59, R90, R91): `stamp - MON_DELAY` goes to the header, `stamp - L` to MON_LAT. -/
def State.monStamp (s : State) (n : Port) (x : Shot) (stamp : Stamp) : State :=
  let st := ((stamp : Int) - freeRound (s.i (Obj.LAUNCH.MON_DELAY n) * 512) 625).toNat
  let t := s.modPort n (fun q =>
    { q with shots := changeFirst (Shot.takesMon stamp) (fun z => { z with stamp := some st }) q.shots,
             missRun := if x.cal then q.missRun else 0 })
  let t := t.puti (Obj.PORT_STATUS.MON_LAT n) (psOfFine ((stamp : Int) - x.launchAt * 256))
  if x.cal then t
  else t.logFlag (Obj.PORT_STATUS.FLAGS n) Bit.PORT_STATUS.FLAGS.MON_LOST false 1 n

/-- The tick at which a shot's MON window ends (R59). -/
def Shot.monEnd (x : Shot) : Int := ((x.launchAt + x.monWindow : Nat) : Int)

/-- The shot whose MON window ends first of those that wait for their edge. -/
def missNext (l : List Shot) : Option Shot := earliest Shot.monEnd (l.filter Shot.waitsMon)

/-- A window without a MON edge (R59, R91): the header takes L with fine field 0; the sixteenth miss in a row sets MON_LOST. -/
def State.stampMiss (s : State) (n : Port) (x : Shot) : State :=
  let t := s.modPort n (fun q =>
    { q with shots := changeFirst (fun z => z.waitsMon && z.monEnd == x.monEnd)
               (fun z => { z with stamp := some (x.launchAt * 256), miss := true }) q.shots,
             missRun := if x.cal then q.missRun else min 16 (q.missRun + 1) })
  if x.cal then t
  else
    let t := t.bump (Obj.SCHEDULER.STAMP_MISS n)
    if 16 ≤ t.ports[n].missRun then
      t.logFlag (Obj.PORT_STATUS.FLAGS n) Bit.PORT_STATUS.FLAGS.MON_LOST true 1 n else t

/-! ## Headers (R34, R60) -/

/-- A MAINS shot's position: cycle and phase of the launch stamp against the tracker as it stood at commit (R34). -/
def mainsPos (x : Shot) (stamp : Stamp) : BitVec 32 × BitVec 32 :=
  if x.mainsPeriod ≤ 0 then (x.posA, x.posB)
  else
    let f := ((stamp : Rat) - x.mainsLast) / x.mainsPeriod
    (x.mainsCycle + BitVec.ofInt 32 f.floor, BitVec.ofInt 32 ((f - f.floor) * 65536).floor)

/-- The 32-byte shot header (R60). -/
def header (n : Port) (x : Shot) : List Byte :=
  let st := x.stamp.getD (x.launchAt * 256)
  let pos := if x.axis = 1 then mainsPos x st else (x.posA, x.posB)
  let flags := x.kind * 2 ^ 14 + bit8 x.gap 7 + bit8 x.invalid 6 + bit8 x.cut 5 + bit8 x.epochStep 4 +
    bit8 x.degraded 3 + bit8 x.holdover 2 + bit8 x.gainChange 1 + bit8 x.miss 0
  le 1 n ++ le 1 x.entry ++ le 1 (x.stepY * 16 + x.stepX) ++ le 1 x.toneMask.toNat ++ le 4 x.seq.toNat ++
  le 8 (st / 256) ++ le 1 (st % 256) ++ le 1 x.axis ++ le 2 flags ++ le 4 pos.1.toNat ++ le 4 pos.2.toNat ++
  le 2 x.loStep.toNat ++ le 2 0

/-! ## The laser interlock (R53 to R56) -/

/-- Whether a shot's launch can still be cut: between its commit point and the end of its waveform (R56). -/
def Shot.cuttable (now : Nat) (x : Shot) : Bool :=
  !x.cut && (!x.launched || (!x.gateOff && decide (now < x.launchAt + x.duration)))

/-- A shot as a cut of its port's launch leaves it: cut where it can be, and its gate, where it stands, forced low. -/
def Shot.cutNow (now : Nat) (x : Shot) : Shot :=
  { x with cut := x.cut || x.cuttable now, gateForced := x.gateForced || (x.gateOn && !x.gateOff) }

/-- A cut of one port's launch (R53, R56, R95): DAC at mid-scale, GATE low, LAUNCH_CUT in the header and counted. -/
def State.cutPort (s : State) (n : Port) : State :=
  let k := (s.ports[n].shots.filter (fun x => x.cuttable s.now && !x.cal)).length
  (s.modPort n (fun q =>
    { q with shots := q.shots.map (Shot.cutNow s.now),
             gateHigh := false, dac := none })).add (Obj.SCHEDULER.LAUNCH_CUT n) k

/-- LSI_RELEASE (R53 to R56): a channel is released; with both held until then, every port's launch is cut. -/
def execLsiRelease (ch : Fin 2) (s : State) : Result :=
  let l := s.lsi
  let a := if ch = 0 then false else l.a
  let b := if ch = 1 then false else l.b
  let t := { s with lsi := { l with a := a, b := b, resumed := false,
                                    sawReleased := l.sawReleased || (l.discord && !a && !b) } }
  .next (if l.a && l.b then
    overAll (t.log { cls := 1, sub := 12 }) State.cutPort
  else t)

/-- LSI_HOLD: a channel is held again; LSI_DISCORD clears when both are found held after both were found released (R55). -/
def execLsiHold (ch : Fin 2) (s : State) : Result :=
  let l := s.lsi
  let a := if ch = 0 then true else l.a
  let b := if ch = 1 then true else l.b
  let clr := a && b && l.discord && l.sawReleased
  .next { s with lsi := { l with a := a, b := b, discord := l.discord && !clr,
                                 sawReleased := l.sawReleased && !clr } }

/-- LSI_RESUME: both channels have been held continuously for 100 ms (R54). -/
def execLsiResume (s : State) : Result :=
  .next (if s.lsi.a && s.lsi.b && !s.lsi.discord && !s.lsi.resumed then
    ({ s with lsi := { s.lsi with resumed := true } }).log { cls := 2, sub := 12 }
  else s)

/-- LSI_DISCORD: the channels have disagreed for more than 1 ms (R55); one that is latched keeps what it has seen since. -/
def execLsiDiscord (s : State) : Result :=
  .next (if s.lsi.a != s.lsi.b then
    { s with lsi := { s.lsi with discord := true, sawReleased := s.lsi.discord && s.lsi.sawReleased, resumed := false } }
  else s)

end Sys2Proof.Machine
end

