-- ==== Sys2Proof/Machine/Pipe.lean ====
section
/-! DEFINITION. The front pipeline (R113 to R147): a grid point's combining, phase, rate and quality, the branch state
words, the point queue, and what the end of a DAS shot updates. -/

namespace Sys2Proof.Machine

/-! ## Quarter decibels -/

/-- `floor (40 log10 x)` for a ratio, as R135 states it, held to `n`; 0 for a ratio of at most 1. -/
def quarterDb (n : Nat) (x : Rat) : Nat :=
  if x ≤ 1 then 0
  else ((List.range n).filter (fun q => 10 ^ (q + 1) * x.den ^ 40 ≤ x.num.toNat ^ 40)).length

/-- Whether 10 log10 of a ratio lies below `m` quarter decibels (R121). -/
def belowDb (x : Rat) (m : Int) : Bool :=
  if x ≤ 0 then true
  else if 0 ≤ m then decide (x.num.toNat ^ 40 < 10 ^ m.toNat * x.den ^ 40)
  else decide (x.num.toNat ^ 40 * 10 ^ (-m).toNat < x.den ^ 40)

/-! ## Branch state words (R117, R118) -/

def wordKey (set p : Nat) : Nat := set * 2 ^ 22 + p

def wordIn (l : List (Nat × BitVec 128)) (set pt : Nat) : BitVec 128 :=
  ((l.find? (fun e => e.1 == wordKey set pt)).map (·.2)).getD 0

def stateWord (p : PipePart) (set pt : Nat) : BitVec 128 := wordIn p.words set pt

/-- The word a shot finds (R120): of the branch state it was committed under. -/
def wordFor (p : PipePart) (x : Shot) (pt : Nat) : BitVec 128 :=
  if x.stateGen = p.gen then stateWord p x.toneSet pt
  else wordIn (((p.older.find? (fun e => e.1 == x.stateGen)).map (·.2)).getD []) x.toneSet pt

def putWord (p : PipePart) (set pt : Nat) (w : BitVec 128) : PipePart :=
  { p with words := (wordKey set pt, w) :: p.words.filter (fun e => e.1 != wordKey set pt),
           bad := p.bad.filter (· != wordKey set pt) }

/-- Where a port's branch state lies in DRAM (R117; log entry 12), each set's words by its number and point. -/
def branchArea (n : Port) : Nat := dramBase + Config.place (Obj.PIPELINE.DAS_SETS n).key

def branchAddr (n : Port) (set pt : Nat) : Nat := branchArea n + 16 * wordKey set pt

/-- A branch state word. -/
def branchHolder (s : State) (n : Port) (key : Nat) : Holder :=
  ⟨wordIn s.pipes[n].words (key / 2 ^ 22) (key % 2 ^ 22), s.pipes[n].bad.contains key,
    fun d x t => t.modPipe n (fun p =>
      let q := putWord p (key / 2 ^ 22) (key % 2 ^ 22) d
      if x then { q with bad := key :: q.bad } else q)⟩

def wAlign (w : BitVec 128) (b : Nat) : BitVec 5 := w.extractLsb' (48 + 5 * b) 5
def wGauge (w : BitVec 128) : BitVec 20 := w.extractLsb' 28 20
def wRate (w : BitVec 128) : BitVec 16 := w.extractLsb' 12 16
def wQ (w : BitVec 128) : BitVec 8 := w.extractLsb' 4 8
def wPrevValid (w : BitVec 128) : Bool := w.getLsbD 3
def wRateValid (w : BitVec 128) : Bool := w.getLsbD 2
def wDark (w : BitVec 128) : BitVec 2 := w.extractLsb' 0 2

def alignBits : List (BitVec 5) → Nat
  | [] => 0
  | t :: r => t.toNat + 32 * alignBits r

/-- A state word from its fields (R117). -/
def mkWord (align : List (BitVec 5)) (gauge : BitVec 20) (rate : BitVec 16) (q : Nat) (pv rv : Bool)
    (dark : Nat) : BitVec 128 :=
  BitVec.ofNat 128 (alignBits align * 2 ^ 48 + gauge.toNat * 2 ^ 28 + rate.toNat * 2 ^ 12 + q % 256 * 16 +
    bit8 pv 3 + bit8 rv 2 + dark % 4)

/-- A word with PREV_VALID and RATE_VALID clear (R120, R126). -/
def clearValid (w : BitVec 128) : BitVec 128 := w &&& ~~~(12#128)

/-- A set's words with PREV_VALID and RATE_VALID clear (R120, R126). -/
def clearSet (set : Nat) (l : List (Nat × BitVec 128)) : List (Nat × BitVec 128) :=
  l.map (fun e => if e.1 / 2 ^ 22 = set then (e.1, clearValid e.2) else e)

/-! ## Combining (R121 to R125) -/

/-- The noise power of a branch at the step in force for its input (R124). -/
def noiseOf (s : State) (n : Port) (x : Shot) (b : Nat) : Rat :=
  let st := if b % 2 = 0 then x.stepX else x.stepY
  let floor := Config.noiseFloor (fromLe (slice (s.blob (Obj.RX_TRIMS.NOISE n)) (4 * (b % 2 * 8 + st)) 4)) x.toneSet
  if x.cfg.noiseSrc = 1 then floor
  else ((s.pipes[n].noise.find? (fun e => e.1 == b * 8 + st)).map (·.2)).getD floor

/-- A branch at a grid point: its number, value, noise, SNR and stored alignment. -/
structure BranchVal where
  b : Nat
  z : Cx
  noise : Rat
  snr : Rat
  theta : BitVec 5
  used : Bool
deriving DecidableEq, Repr

/-- snr_b; 0 for a branch without noise power (log entry 113). -/
def snrOf (z : Cx) (noise : Rat) : Rat := if noise ≤ 0 then 0 else max (cPower z / noise - 1) 0

/-- The branches of a shot at a grid point, with the values stage 3 gives them (R116) and whether they are included (R113, R121). -/
def branchVals (s : State) (n : Port) (x : Shot) (w : BitVec 128) (p : Nat) : List BranchVal :=
  x.branches.map (fun b =>
    let z := gridValue x (s.u Obj.IDENTITY.SILICON) p b
    let nz := noiseOf s n x b
    let snr := snrOf z nz
    ⟨b, z, nz, snr, wAlign w b, x.cfg.branchMask.getLsbD b && !suspectAt x p b && !belowDb snr x.cfg.branchMin⟩)

/-- The weight of a branch (R122); 0 for one without noise power (log entry 113). -/
def weightOf (v : BranchVal) : Rat := narrow (sqrtQ (cPower v.z) / v.noise)

/-- The combined value of R122: the weighted sum of the branches, each turned by its alignment, over the sum of the weights. -/
def combined (l : List BranchVal) (theta : BranchVal → BitVec 5) : Cx :=
  let u := l.filter (·.used)
  cNarrow (cScale (1 / (u.map weightOf).sum)
    (cSum (u.map (fun v => cScale (weightOf v) (cMul v.z (phasor (((theta v).toNat : Rat) / 32)))))))

/-- The included branch with the largest SNR, the first of equals (R125). -/
def strongest (l : List BranchVal) : Option BranchVal :=
  (l.filter (·.used)).foldl (fun m v => match m with
    | none => some v
    | some w => if w.snr < v.snr then some v else some w) none

/-- The alignment of shot 1 of a relearn (R125), to the nearest of 32 steps, a tie upward (log entry 116). -/
def learnAlign (l : List BranchVal) (v : BranchVal) : BitVec 5 :=
  match strongest l with
  | none => v.theta
  | some m => BitVec.ofInt 5 (((arg20 (cMul v.z (cConj m.z))).toInt + 2 ^ 14) / 2 ^ 15)

/-- The averaging shift of shot j of a relearn (R125). -/
def shiftOf (x : Shot) : Nat :=
  if x.relearn ≤ 8 then min 1 x.cfg.alignShift
  else if x.relearn ≤ 16 then min 2 x.cfg.alignShift
  else if x.relearn ≤ 24 then min 3 x.cfg.alignShift
  else x.cfg.alignShift

/-- The update of one branch's alignment (R123), `draw` numbering the random draw of its stochastic rounding. -/
def moveAlign (cOld : Cx) (shift draw : Nat) (v : BranchVal) : BitVec 5 :=
  let d : BitVec 20 := arg20 (cMul (cMul v.z (phasor ((v.theta.toNat : Rat) / 32))) (cConj cOld))
  let den : Int := 2 ^ (shift + 15)
  let up : Int := if Config.random draw % den.toNat < (d.toInt % den).toNat then 1 else 0
  v.theta - BitVec.ofInt 5 (d.toInt / den + up)

/-- The alignments after the point, by branch number; a branch that is not included keeps its own. -/
def newAligns (w : BitVec 128) (l : List BranchVal) (f : Nat → BranchVal → BitVec 5) : List (BitVec 5) :=
  (List.range 16).map (fun b =>
    match l.find? (fun v => v.b == b && v.used) with
    | some v => f b v
    | none => wAlign w b)

/-! ## Words (R127 to R136) -/

def recAt (l : List GridRec) (p : Nat) : Option GridRec := l.find? (fun r => r.p == p)

/-- A quality below QMIN becomes 0; another is limited by the caps in force (R135). -/
def capped (x : Shot) (ambig : Bool) (q : Nat) : Nat :=
  if q < x.cfg.qmin then 0
  else
    let q := if x.gainChange then min q x.cfg.qcapGain else q
    let q := if ambig then min q x.cfg.qcapAmbig else q
    if 1 ≤ x.relearn ∧ x.relearn ≤ 32 then min q x.cfg.qcapRelearn else q

def forced0 (x : Shot) (r : GridRec) : Bool := x.cut || x.invalid || r.late || r.poisoned

/-- The quality-0 word of an output mode (R136, R192). -/
def zeroWord (mode : Nat) : BitVec 32 := if mode = 3 then 0x80008000#32 else 0#32

def valueWord (v : Int) (q : Nat) : BitVec 32 := BitVec.ofNat 32 (ofSigned 24 v * 256 + q % 256)

/-- What an output point gives: its word, the state word to write, whether it counts in AMBIG_POINTS and whether its residual was
ambiguous. -/
structure PointOut where
  word : BitVec 32
  state : BitVec 128
  counts : Bool
  ambig : Bool
deriving DecidableEq, Repr

/-- A point of AMPLITUDE or COMPLEX mode (R136): stages 5 and 6 do not run. In COMPLEX mode the quality that marks a point is that of AMPLITUDE
mode (log entry 112). A poisoned word of a dark point is written back with PREV_VALID clear (R119, R137; log entry 115). -/
def plainPoint (x : Shot) (r : GridRec) : PointOut :=
  let q := if forced0 x r then 0 else capped x false r.q
  let st := mkWord r.align (wGauge r.word) (wRate r.word) (wQ r.word).toNat
    (r.poisoned && !r.dark && !(x.cut || x.invalid)) false (wDark r.word).toNat
  if x.cfg.outMode = 2 then
    let m := sqrtQ (cPower r.cOld)
    ⟨BitVec.ofNat 32 (min (freeRound m.num m.den).toNat (2 ^ 24 - 1) * 256 + q), st, false, false⟩
  else
    let c := fun (v : Rat) => max (-32767) (min 32767 (roundEven (v / 2 ^ x.cfg.complexShift)))
    ⟨if q = 0 then zeroWord 3 else BitVec.ofNat 32 (ofSigned 16 (c r.cOld.1) * 65536 + ofSigned 16 (c r.cOld.2)), st, false, false⟩

def wrap20 (v : Int) : Int := (BitVec.ofInt 20 v).toInt

def gaugePhase (x : Shot) (a b : Cx) : BitVec 20 :=
  if x.cfg.phaseSign = 1 then -(arg20 (cMul b (cConj a))) else arg20 (cMul b (cConj a))

/-- The prediction of R130, 0 where there is none. -/
def predOf (x : Shot) (r : GridRec) : Int :=
  if wRateValid r.word && x.cfg.unwrapOrder == 1 then (wRate r.word).toInt * 256 else 0

/-- A point of PHASE_RATE or PHASE mode (R127 to R135), from its own record and those of its gauge ends where they lie in the shot; `free` is
the value of a PHASE word without a gauge phase, which the spec does not state (log entry 41). A residual is judged under R131 and R132 only at a
point that differences against a valid PREV_GAUGE; a poisoned word of a dark point is written back with PREV_VALID clear (log entry 115); a late point's word carries the prediction of the word that lies in memory; a clamped rate is
stored, and its word, of quality 0, carries what R134 gives (log entry 90). -/
def phasePoint (x : Shot) (r : GridRec) (ea eb : Option GridRec) (free : BitVec 24) : PointOut :=
  match ea, eb with
  | some a, some b =>
    let delta := gaugePhase x a.cOld b.cOld
    let stored := gaugePhase x a.cNew b.cNew
    let qg := min a.q b.q
    let pred := predOf x r
    let e := wrap20 (delta.toInt - (wGauge r.word).toInt - pred)
    let amb := decide (2 ^ 19 * (256 - x.cfg.ambMargin) < 256 * e.natAbs)
    let raw := pred + e
    let ovf := decide (2 ^ 23 - 1 < raw.natAbs)
    let rate := max (-(2 ^ 23 - 1)) (min (2 ^ 23 - 1) raw)
    let live := !forced0 x r
    let known := live && wPrevValid r.word
    let q0 := if x.cfg.outMode = 1 then qg else min qg (wQ r.word).toNat
    let ok := live && (x.cfg.outMode == 1 || (wPrevValid r.word && !ovf))
    let q := if ok then capped x (known && amb) q0 else 0
    let pv := !(x.cut || x.invalid) && !r.dark && (decide (x.cfg.qmin ≤ qg) || r.poisoned)
    let rv := x.cfg.outMode == 0 && q != 0
    let st := mkWord r.align (if x.cut || x.invalid then wGauge r.word else stored)
      (BitVec.ofInt 16 (rate / 256)) qg pv rv (wDark r.word).toNat
    let w := if x.cfg.outMode = 1 then valueWord delta.toInt q
      else if q = 0 then valueWord pred 0 else valueWord rate q
    ⟨w, st, known && (amb || ovf), known && amb⟩
  | _, _ =>
    ⟨if x.cfg.outMode = 1 then BitVec.ofNat 32 (free.toNat * 256) else valueWord (predOf x r) 0,
      clearValid (mkWord r.align (wGauge r.word) (wRate r.word) 0 false false (wDark r.word).toNat), false, false⟩

/-! ## The point queue (R143, R144) -/

def queueWords : Nat := 262144

/-- The delivery a port's pipeline is handing over: the last in its queue that has no trailer yet. -/
def openDelivery (p : PipePart) : Option Delivery := p.queue.find? (fun d => !d.closed)

def changeOpen (f : Delivery → Delivery) : List Delivery → List Delivery
  | [] => []
  | d :: r => if d.closed then d :: changeOpen f r else f d :: r

/-- The points of a delivery as it opens, none of them there yet: first, end and last, in reverse from the end that MAP_PTS sets (R442). -/
def openPoints (rev : Option Nat) (first last : Nat) : Nat × Nat × Nat :=
  match rev with
  | none => (first, first, last)
  | some m => (m - first, m - first, m - first - 1)

/-- A delivery's header enters the queue (8 words) and takes the port's next DELIV. -/
def PipePart.openQueue (p : PipePart) (kind set first : Nat) (x : Shot) : PipePart :=
  let rev := if kind = 1 then x.cfg.mapped else none
  let ps := openPoints rev first x.pLast
  { p with
    queue := p.queue ++ [{
      deliv := p.nextDeliv, kind := kind, set := set, first := ps.1, validEnd := ps.2.1,
      last := ps.2.2, epoch := x.launchAt, outMode := x.cfg.outMode, left := 8, shotSeq := x.seq, rev := rev }],
    nextDeliv := p.nextDeliv + 1, queued := p.queued + 8 }

/-- A point's word joins its delivery, at MAP_PTS - 1 - p where the port maps its points in reverse (R442). -/
def Delivery.addWord (d : Delivery) (pt : Nat) (w : BitVec 32) : Delivery :=
  match d.rev with
  | none => { d with body := d.body ++ [w], validEnd := pt + 1, left := d.left + 1 }
  | some m => { d with body := w :: d.body, first := m - 1 - pt, left := d.left + 1 }

/-- A point word is offered: admitted when at least 12 words stay free after it (R144). -/
def PipePart.offerWord (p : PipePart) (pt : Nat) (w : BitVec 32) : PipePart :=
  if p.sums.overrun.isSome then p
  else if p.queued + 13 ≤ queueWords then
    { p with
      queue := changeOpen (fun d => d.addWord pt w) p.queue,
      queued := p.queued + 1 }
  else { p with sums := { p.sums with overrun := some pt } }

/-- The trailer closes the delivery (4 words). -/
def PipePart.closeQueue (p : PipePart) (f : Delivery → Delivery) : PipePart :=
  { p with
    queue := changeOpen (fun d => { f d with closed := true, left := d.left + 4 }) p.queue,
    queued := p.queued + 4 }

/-- The porter takes words from the front of the queue. -/
def drain : Nat → List Delivery → List Delivery
  | _, [] => []
  | k, d :: r => { d with left := d.left - k } :: drain (k - d.left) r

def queuePeak (s : State) (n : Port) : State :=
  if s.u (Obj.PIPE_STATUS.QUEUE_PEAK n) < s.pipes[n].queued then
    s.put (Obj.PIPE_STATUS.QUEUE_PEAK n) s.pipes[n].queued else s

/-! ## STATE_WORD_ARRIVAL and GRID_POINT -/

/-- The DAS shot whose points a port's pipeline forms. -/
def dasShot (s : State) (n : Port) : Option Shot :=
  firstShot s n (fun x => x.launched && x.kind == 1 && !x.cal && !x.dataDone)

/-- STATE_WORD_ARRIVAL (R118, R119, R323, R324): a branch state word is read and reaches the pipeline, whole or poisoned, in memory or on its
way; one that comes after its point
was formed is discarded. -/
def execStateWordArrival (n : Port) (set : Fin 16) (p : Nat) (poisoned : Bool) (s : State) : Result :=
  let late := s.pipes[n].grid.any (fun r => r.p == p) && (match dasShot s n with
    | some x => x.toneSet == set.val | none => false)
  let s := if poisoned then s.bump Obj.MEMORY.POISON_SEEN
    else s.readAt (branchAddr n set p) (branchHolder s n (wordKey set p))
  let poisoned := poisoned || s.pipes[n].bad.contains (wordKey set p)
  .next (if late then s
  else s.modPipe n (fun q =>
    { q with arrived := (wordKey set p, poisoned) :: q.arrived.filter (fun e => e.1 != wordKey set p) }))

/-- The alignments stage 4 rotates by where no usable state word is there (R118, R119): open (log entry 40). -/
def strayAlign (w : BitVec 128) (draw : Nat) : BitVec 128 :=
  (w &&& ~~~(BitVec.ofNat 128 ((2 ^ 80 - 1) * 2 ^ 48))) |||
    BitVec.ofNat 128 (alignBits ((List.range 16).map (fun b => (Config.undefinedByte (draw + b)).setWidth 5)) * 2 ^ 48)

/-- Whether a point is marked (R113): a branch's input has a suspect sample in its span. -/
def pointMarked (x : Shot) (p : Nat) : Bool :=
  (x.inputs.testBit 0 && suspectAt x p 0) || (x.inputs.testBit 1 && suspectAt x p 1)

/-- Stage 4 at a grid point (R121 to R125, R137): its record, and the branches it used. A point of a LAUNCH_CUT or INVALID shot that returns
from three dark shots is not relearnt, as R115 lets such a shot update no alignment, and its DARK returns to 0 (log entry 90). -/
def gridRecord (s : State) (n : Port) (x : Shot) (p : Nat) : GridRec × List BranchVal :=
  let q := s.pipes[n]
  let arr := (q.arrived.find? (fun e => e.1 == wordKey x.toneSet p)).map (·.2)
  let late := arr.isNone
  let pois := arr == some true
  let old := wordFor q x p
  let w0 := if pois then 0 else old
  let w := if x.relearn = 1 ∨ x.clearPrev then clearValid w0 else w0
  let w := if late || pois then strayAlign w s.fresh else w
  let vals := branchVals s n x w p
  let cOld := combined vals (·.theta)
  let snr := ((vals.filter (·.used)).map (·.snr)).sum
  let qp := quarterDb 255 snr
  let dark := !(vals.any (·.used)) || decide (qp < x.cfg.qmin)
  let fresh := pois || x.relearn == 1 || (!dark && wDark w == 3#2)
  let keep := dark || x.cut || x.invalid
  let al := newAligns w vals (fun b v =>
    if keep then v.theta else if fresh then learnAlign vals v else moveAlign cOld (shiftOf x) (s.fresh + b) v)
  let cNew := combined vals (fun v => al.getD v.b 0)
  let dk := if dark then min 3 ((wDark w).toNat + 1) else 0
  let w' := (w &&& ~~~(3#128)) ||| BitVec.ofNat 128 dk
  (⟨p, cOld, cNew, qp, dark, late, pois, pointMarked x p, w', al, old⟩, vals)

/-- The sums of R124, R138 and R140 after a grid point. -/
def addSums (s : State) (n : Port) (x : Shot) (r : GridRec) (vals : List BranchVal) (m : ShotSums) : ShotSums :=
  let fe := s.u (Obj.PIPE_STATUS.FIBRE_END n)
  let snr := ((vals.filter (·.used)).map (·.snr)).sum
  let quiet := decide (fe + s.u (Obj.TRACKING.END_GUARD n) < r.p)
  let cell := (r.p - x.pFirst) / 64
  let old := ((m.cells.find? (fun c => c.1 == cell)).map (·.2)).getD (0, 0)
  let wsum := ((vals.filter (·.used)).map weightOf).sum
  { m with
    dark := m.dark + (if r.dark then 1 else 0),
    darkToEnd := m.darkToEnd + (if r.dark && decide (r.p ≤ fe) then 1 else 0),
    toEnd := m.toEnd + (if r.p ≤ fe then 1 else 0),
    late := m.late || r.late, suspect := m.suspect || r.suspect,
    noise := if quiet then vals.map (fun v =>
      (v.b, ((m.noise.find? (fun e => e.1 == v.b)).map (·.2)).getD 0 + cPower v.z)) else m.noise,
    noisePts := m.noisePts + (if quiet then 1 else 0),
    cells := (cell, old.1 + snr, old.2 + 1) :: m.cells.filter (fun c => c.1 != cell),
    share := vals.map (fun v =>
      let o := ((m.share.find? (fun e => e.1 == v.b)).map (·.2)).getD (0, 0, 0)
      (v.b, o.1 + (if r.p ≤ fe then v.snr else 0),
        o.2.1 + (if v.used ∧ wsum ≠ 0 then weightOf v / wsum else 0),
        o.2.2 + (if v.used then 0 else 1))),
    pts := m.pts + 1 }

/-- The state word a point writes back (R118): byte 0 alone of a late word, nothing when a resetting change has been committed
since the shot (R120). -/
def PipePart.writeBack (p : PipePart) (x : Shot) (r : GridRec) (w : BitVec 128) : PipePart :=
  if x.stateGen ≠ p.gen then p
  else if r.late then putWord p x.toneSet r.p (stateWord p x.toneSet r.p &&& ~~~(0xFF#128))
  else putWord p x.toneSet r.p w

/-- An output point is formed: its word is offered to the queue and its state word written back. -/
def State.formPoint (s : State) (n : Port) (x : Shot) (o : Nat) : State :=
  match recAt s.pipes[n].grid o with
  | none => s
  | some r =>
    let g := s.pipes[n].grid
    let a : Int := (o : Int) - (x.cfg.gauge / 2 : Nat)
    let out := if 2 ≤ x.cfg.outMode then plainPoint x r
      else phasePoint x r (if a < 0 then none else recAt g a.toNat) (recAt g (a + x.cfg.gauge).toNat)
        (Config.undefinedByte s.fresh ++ Config.undefinedByte (s.fresh + 1) ++ Config.undefinedByte (s.fresh + 2))
    let t := s.modPipe n (fun p => (p.offerWord o out.word).writeBack x r out.state)
    let t := t.dropFlips (branchAddr n x.toneSet o) 16
    let t := { t with fresh := t.fresh + 3 }
    let t := if out.counts then t.bump (Obj.PIPE_STATUS.AMBIG_POINTS n) else t
    if out.ambig then t.setBit (Obj.PIPE_STATUS.FLAGS n) Bit.PIPE_STATUS.FLAGS.AMBIG else t

/-- The output points that grid point `p` lets be formed: itself in AMPLITUDE and COMPLEX modes; else the one whose far gauge end it
is, and at the last grid point all those still waiting. -/
def formedBy (x : Shot) (p : Nat) : List Nat :=
  if 2 ≤ x.cfg.outMode then [p]
  else
    let lead := x.cfg.gauge - x.cfg.gauge / 2
    let one := if x.pFirst + lead ≤ p then [p - lead] else []
    if p = x.pLast then
      one ++ (List.range (min lead (p + 1 - x.pFirst))).map (fun i => p + 1 - min lead (p + 1 - x.pFirst) + i)
    else one

/-- GRID_POINT (R109 to R137): stages 1 to 7 at one grid point of the port's DAS shot. -/
def execGridPoint (n : Port) (p : Nat) (s : State) : Result :=
  .next (match dasShot s n with
  | none => s
  | some x =>
    if p < x.pFirst ∨ x.pLast < p ∨ (recAt s.pipes[n].grid p).isSome then s
    else
      let r := gridRecord s n x p
      let t := if s.pipes[n].grid.isEmpty then s.modPipe n (fun q => q.openQueue 1 x.toneSet x.pFirst x) else s
      let t := t.modPipe n (fun q => { q with grid := q.grid ++ [r.1], sums := addSums s n x r.1 r.2 q.sums })
      let t := { t with fresh := t.fresh + 17 }
      let t := if r.1.dark then t.bump (Obj.PIPE_STATUS.FADED_POINTS n) else t
      let t := if r.1.suspect then t.bump (Obj.PIPE_STATUS.SUSPECT_POINTS n) else t
      let t := if r.1.late then
          (t.bump (Obj.PIPE_STATUS.STATE_LATE n)).setBit (Obj.PIPE_STATUS.FLAGS n) Bit.PIPE_STATUS.FLAGS.STATE_LATE
        else t
      let t := if r.1.poisoned then
          (t.bump (Obj.PIPE_STATUS.STATE_POISON n)).setBit (Obj.PIPE_STATUS.FLAGS n) Bit.PIPE_STATUS.FLAGS.STATE_POISON
        else t
      queuePeak ((formedBy x p).foldl (fun u o => u.formPoint n x o) t) n)

/-! ## DAS_SHOT_END (R124, R138 to R147) -/

/-- A relearn of a tone set starts (R125, R126): shots are counted from 1 again and no previous value stays valid. -/
def State.startRelearn (s : State) (n : Port) (set : Nat) : State :=
  let t := s.modPipe n (fun p =>
    { p with
      relearn := (set, 1) :: p.relearn.filter (fun e => e.1 != set),
      words := clearSet set p.words })
  (t.bump (Obj.PIPE_STATUS.RELEARNS n)).setBit (Obj.PIPE_STATUS.FLAGS n) Bit.PIPE_STATUS.FLAGS.RELEARN_ACTIVE

/-- The tone sets DAS_SETS names. -/
def dasSets (s : State) (n : Port) : List Nat :=
  (List.range 16).filter (fun k => (s.u (Obj.PIPELINE.DAS_SETS n)).testBit k)

def State.relearnAll (s : State) (n : Port) : State := (dasSets s n).foldl (fun t k => t.startRelearn n k) s

/-- Noise estimates move by 1/16 of the difference, or are held (R124). -/
def State.moveNoise (s : State) (n : Port) (x : Shot) : State :=
  let m := s.pipes[n].sums
  let frozen := s.bit (Obj.PIPE_STATUS.FLAGS n) Bit.PIPE_STATUS.FLAGS.DARK
  if x.cfg.noiseSrc = 0 ∧ x.cfg.noiseMinPts ≤ m.noisePts ∧ ¬ frozen then
    let l := m.noise.map (fun e =>
      let k := e.1 * 8 + (if e.1 % 2 = 0 then x.stepX else x.stepY)
      let old := noiseOf s n x e.1
      (k, old + (e.2 / m.noisePts - old) / 16))
    (s.modPipe n (fun p => { p with noise := l ++ p.noise.filter (fun e => !(l.any (fun f => f.1 == e.1))) })).clrBit
      (Obj.PIPE_STATUS.FLAGS n) Bit.PIPE_STATUS.FLAGS.NOISE_HELD
  else if x.cfg.noiseSrc = 0 then s.setBit (Obj.PIPE_STATUS.FLAGS n) Bit.PIPE_STATUS.FLAGS.NOISE_HELD
  else s.clrBit (Obj.PIPE_STATUS.FLAGS n) Bit.PIPE_STATUS.FLAGS.NOISE_HELD

/-- Whether a shot is dark (R138). -/
def shotDark (x : Shot) (m : ShotSums) : Bool :=
  m.toEnd != 0 && decide (x.cfg.darkFrac * m.toEnd ≤ 256 * m.darkToEnd)

/-- The DARK flag follows runs of dark shots (R139). -/
def State.trackDark (s : State) (n : Port) (dark : Bool) : State :=
  let t := s.modPipe n (fun p => { p with darkRun := if dark then min 8 (p.darkRun + 1) else 0 })
  let t := if dark then t.bump (Obj.PIPE_STATUS.DARK_SHOTS n) else t
  if dark then
    if 8 ≤ t.pipes[n].darkRun then t.logFlag (Obj.PIPE_STATUS.FLAGS n) Bit.PIPE_STATUS.FLAGS.DARK true 3 n else t
  else t.logFlag (Obj.PIPE_STATUS.FLAGS n) Bit.PIPE_STATUS.FLAGS.DARK false 3 n

/-- The cells' smoothed values after a shot (R140). -/
def smoothCells (p : PipePart) : List (Nat × Rat) :=
  p.sums.cells.map (fun c =>
    let old := ((p.cells.find? (fun e => e.1 == c.1)).map (·.2)).getD 0
    (c.1, old + (c.2.1 / c.2.2 - old) / 16))

/-- The last cell whose smoothed value exceeds END_THRESH. -/
def lastBright (l : List (Nat × Rat)) (thresh : Nat) : Option Nat :=
  ((l.filter (fun c => 0 < c.2 && !belowDb c.2 thresh && decide (10 ^ thresh * c.2.den ^ 40 < c.2.num.toNat ^ 40))).map
    (·.1)).max?

/-- FIBRE_END of a shot by its cells (R140); with no cell above the threshold it is open (log entry 39), with TRACK_EN 0 it is p_last. -/
def fibreEnd (s : State) (n : Port) (x : Shot) (cells : List (Nat × Rat)) : Nat :=
  if s.u (Obj.TRACKING.TRACK_EN n) = 0 then x.pLast
  else match lastBright cells (s.u (Obj.TRACKING.END_THRESH n)) with
    | none => Config.noFibreEnd s.fresh % 2 ^ 32
    | some c => if c = (x.pLast - x.pFirst) / 64 then x.pLast else x.pFirst + 64 * c + 63

/-- Whether the last cell of the window is bright, so that the fibre ends beyond it. -/
def endBeyond (s : State) (n : Port) (x : Shot) (cells : List (Nat × Rat)) : Bool :=
  s.u (Obj.TRACKING.TRACK_EN n) != 0 &&
  lastBright cells (s.u (Obj.TRACKING.END_THRESH n)) == some ((x.pLast - x.pFirst) / 64)

/-- FIBRE_END, REF_END_USED and BREAK after a shot (R140 to R142); while the port's DARK flag stands the tracker is frozen (R139), and with
TRACK_EN 0 no break is declared. The value taken of a steady run is its last shot's, and shots that do not move the tracker are passed over
in the run (log entry 117). -/
def State.trackEnd (s : State) (n : Port) (x : Shot) : State :=
  let fl := Obj.PIPE_STATUS.FLAGS n
  if s.bit fl Bit.PIPE_STATUS.FLAGS.DARK then
    (if s.u (Obj.TRACKING.TRACK_EN n) = 0 then s.put (Obj.PIPE_STATUS.FIBRE_END n) x.pLast else s)
  else
    let cells := smoothCells s.pipes[n]
    let fe := fibreEnd s n x cells
    let t := s.drawn.put (Obj.PIPE_STATUS.FIBRE_END n) fe
    let t := t.putBit fl Bit.PIPE_STATUS.FLAGS.END_BEYOND (endBeyond s n x cells)
    let bm := s.u (Obj.TRACKING.BREAK_MIN n)
    let p := s.pipes[n]
    let ends := (fe :: p.ends).take 64
    let lo := ends.foldl min fe
    let steady := ends.length == 64 && decide (ends.foldl max fe - lo < bm)
    let ref0 := s.u (Obj.PIPE_STATUS.REF_END_USED n)
    let setRef := s.u (Obj.TRACKING.REF_END n)
    let ref := if setRef ≠ 0 then setRef
      else if steady ∧ (ref0 = 0 ∨ ref0 + bm < lo) then fe else ref0
    let short := ref != 0 && decide (fe + bm < ref)
    let cf := max 1 (s.u (Obj.TRACKING.BREAK_CONFIRM n))
    let sr := if short && s.u (Obj.TRACKING.TRACK_EN n) != 0 then min cf (p.shortRun + 1) else 0
    let lr := if short then 0 else min cf (p.longRun + 1)
    let t := t.put (Obj.PIPE_STATUS.REF_END_USED n) ref
    let t := t.modPipe n (fun q =>
      { q with
        cells := cells ++ q.cells.filter (fun e => !(cells.any (fun f => f.1 == e.1))),
        ends := ends, shortRun := sr, longRun := lr })
    if sr = cf ∧ ¬ s.bit fl Bit.PIPE_STATUS.FLAGS.BREAK then
      (t.put (Obj.PIPE_STATUS.BREAK_POINT n) fe).logFlag fl Bit.PIPE_STATUS.FLAGS.BREAK true 3 n
    else if lr = cf then t.logFlag fl Bit.PIPE_STATUS.FLAGS.BREAK false 3 n
    else t

/-- A quotient as a fraction of `k`, where its rounding is open. -/
def fraction (q : Rat) (k : Nat) : Nat := (freeRound (q * k).num (q * k).den).toNat

/-- SNR_MEAN in quarter decibels (log entry 5). -/
def meanDb (q : Rat) : Nat :=
  if q ≤ 0 then Config.noSnr.toNat
  else if 1 ≤ q then quarterDb 32767 q else ofSigned 16 (-(quarterDb 32767 (1 / q) : Int))

/-- Branch status at the end of a DAS shot (R150); a branch that the shot does not have is excluded at every point with weight 0 (R121), and
its noise and mean SNR stay. -/
def State.branchStatus (s : State) (n : Port) (x : Shot) : State :=
  let m := s.pipes[n].sums
  let t := m.share.foldl (fun t e =>
    let b := e.1
    let t := t.put (Obj.BRANCH.NOISE n b) (fraction (sqrtQ (noiseOf s n x b)) 256)
    let t := t.put (Obj.BRANCH.SNR_MEAN n b) (meanDb (e.2.1 / max 1 m.toEnd))
    let t := t.put (Obj.BRANCH.SHARE n b) (min 255 (fraction (e.2.2.1 / max 1 m.pts) 256))
    let t := t.put (Obj.BRANCH.FADE_FRAC n b) (min 65535 (fraction ((e.2.2.2 : Rat) / max 1 m.pts) 65536))
    t.put (Obj.BRANCH.EXCLUDED n b) (if e.2.2.2 = m.pts then 1 else 0)) s
  (List.range 16).foldl (fun t b => if x.branches.contains b then t
    else ((t.put (Obj.BRANCH.SHARE n b) 0).put (Obj.BRANCH.FADE_FRAC n b) 65535).put (Obj.BRANCH.EXCLUDED n b) 1) t

/-- The point trailer (R147), its points mirrored where the port maps them in reverse (R442). -/
def pointTrailer (seq first last faded flags set : Nat) : List Byte :=
  le 4 seq ++ le 4 first ++ le 4 last ++ le 2 (min 65535 faded) ++ le 1 flags ++ le 1 set

/-- The state words a LAUNCH_CUT or INVALID shot leaves (R115): PREV_VALID is clear at every point of its set, and where the shot formed a
point before it was spoilt, the word it found comes back but for DARK (R137). -/
def spoiltWords (p : PipePart) (x : Shot) : List (Nat × BitVec 128) :=
  let back := fun (e : Nat × BitVec 128) =>
    match p.grid.find? (fun r => wordKey x.toneSet r.p == e.1 && !r.late) with
    | some r => (e.1, (r.old &&& ~~~(15#128)) ||| (wDark r.word).setWidth 128)
    | none => (e.1, e.2 &&& ~~~(8#128))
  if x.stateGen ≠ p.gen then p.words
  else p.words.map (fun e => if e.1 / 2 ^ 22 = x.toneSet then back e else e)

/-- A point word of a shot that turns out LAUNCH_CUT or INVALID, with quality 0 (R115, R134, R136). -/
def spoiltWord (x : Shot) (r : Option GridRec) (w : BitVec 32) : BitVec 32 :=
  match x.cfg.outMode with
  | 0 => match r with
    | some r => valueWord (predOf x r) 0
    | none => w &&& ~~~(0xFF#32)
  | 3 => zeroWord 3
  | _ => w &&& ~~~(0xFF#32)

/-- The words of a shot's delivery as its header lets them stand (R115). -/
def shotWords (p : PipePart) (x : Shot) (l : List (BitVec 32)) : List (BitVec 32) :=
  if x.cut || x.invalid then (l.zipIdx x.pFirst).map (fun e => spoiltWord x (recAt p.grid e.2) e.1) else l

/-- RELEARN_ACTIVE (R125): a set is in shots 1 to 32 of its relearn, the shots whose data are still to come among them. -/
def relearning (s : State) (n : Port) : Bool :=
  s.pipes[n].relearn.any (fun e => decide (e.2 ≤ 32)) ||
  s.ports[n].shots.any (fun x => x.launched && !x.dataDone && decide (1 ≤ x.relearn) && decide (x.relearn ≤ 32))

/-- The DAS shot whose end is due. -/
def endingShot (x : Shot) : Bool := x.winClosed && x.kind == 1 && !x.cal && !x.dataDone

/-- P_FIRST, VALID_END and the last point of a delivery's slot, whose shot's points end before `ve` (R144, R442; below index 0: log
entry 127). -/
def closePoints (rev : Option Nat) (x : Shot) (ve : Nat) : Nat × Nat × Nat :=
  match rev with
  | none => (x.pFirst, ve, x.pLast)
  | some m => (m - ve, m - x.pFirst, m - x.pFirst - 1)

/-- The trailer of a DAS shot closes its delivery (R143, R147). -/
def State.closeShot (s : State) (n : Port) (x : Shot) (dark : Bool) : State :=
  let m := s.pipes[n].sums
  let rl := decide (1 ≤ x.relearn) && decide (x.relearn ≤ 32)
  let fl := bit8 x.gaugeReset 6 + bit8 rl 5 + bit8 m.overrun.isSome 4 + bit8 m.late 3 + bit8 m.suspect 2 +
    bit8 (x.cut || x.invalid) 1 + bit8 dark 0
  let s1 := if s.pipes[n].grid.isEmpty then s.modPipe n (fun q => q.openQueue 1 x.toneSet x.pFirst x) else s
  let ve := m.overrun.getD (x.pLast + 1)
  s1.modPipe n (fun q => q.closeQueue (fun d =>
    let ps := closePoints d.rev x ve
    { d with
      header := header n x, unheaded := x.stamp.isNone, first := ps.1, validEnd := ps.2.1, last := ps.2.2,
      body := if d.rev.isSome then (shotWords q x d.body.reverse).reverse else shotWords q x d.body,
      trailer := pointTrailer x.seq.toNat ps.1 ps.2.1 m.dark fl x.toneSet }))

/-- Whether a set's words are to lose PREV_VALID and RATE_VALID at every point (R120), with `l` the DAS shots whose data are still to come: a
change has been committed since, and no shot committed before it is among them. -/
def clearDue (p : PipePart) (l : List Shot) (set : Nat) : Bool :=
  match l.find? (fun x => x.toneSet == set) with
  | some y => y.clearPrev
  | none => p.clearSets.contains set

/-- The shots whose data are still to come. -/
def shotsUnderway (p : FibrePort) : List Shot := p.shots.filter (fun x => x.kind == 1 && !x.cal && !x.dataDone)

/-- What a DAS shot leaves for the shots after it: nothing of its grid, and of its set's words those that R115 lets stand; a change of the
gauge committed behind it clears what they remember (R120). -/
def State.clearShot (s : State) (n : Port) (x : Shot) : State :=
  let rest := (shotsUnderway s.ports[n]).drop 1
  s.modPipe n (fun q =>
    let words := if x.cut || x.invalid then spoiltWords q x else q.words
    { q with
      grid := [], sums := {}, arrived := q.arrived.filter (fun e => e.1 / 2 ^ 22 != x.toneSet),
      words := if clearDue q rest x.toneSet then clearSet x.toneSet words else words })

/-- DAS_SHOT_END (R124, R138 to R147): the trailer is queued, and noise, darkness, fibre end and branch status are updated; a LAUNCH_CUT or
INVALID shot updates neither noise nor tracking (R115). -/
def execDasShotEnd (n : Port) (s : State) : Result :=
  .next (match firstShot s n endingShot with
  | none => s
  | some x =>
    let m := s.pipes[n].sums
    let dark := shotDark x m
    let t := s.closeShot n x dark
    let t := if m.overrun.isSome then
        (((t.bump (Obj.PIPE_STATUS.OVERRUN_SHOTS n)).setBit (Obj.PIPE_STATUS.FLAGS n)
          Bit.PIPE_STATUS.FLAGS.OVERRUN)).summary (.overrun n)
      else t
    let t := t.trackDark n dark
    let t := if x.cut || x.invalid then t else (t.moveNoise n x).trackEnd n x
    let t := t.branchStatus n x
    let t := t.put (Obj.PIPE_STATUS.LATENCY n)
      (freeRound (((s.now : Int) - (x.launchAt + 2 * (x.winStart + x.winLen) : Nat)) * 5) 16).toNat
    let t := (t.clearShot n x).modShot n endingShot (fun z => { z with dataDone := true })
    let t := t.putBit (Obj.PIPE_STATUS.FLAGS n) Bit.PIPE_STATUS.FLAGS.RELEARN_ACTIVE (relearning t n)
    queuePeak (t.dropOver n) n)

end Sys2Proof.Machine
end

