-- ==== Sys2Proof/Machine/Raman.lean ====
section
/-! DEFINITION. The Raman engine (R151 to R167): averaging, ratio, temperature, reference sections, dual-ended
correction and the delivery of a profile. -/

namespace Sys2Proof.Machine

/-! ## Averaging (R154 to R159) -/

def addInts : List Int → List Int → List Int
  | [], l => l
  | l, [] => l
  | x :: r, y :: t => (x + y) :: addInts r t

/-- A sample at either end of the converter's range (R155). -/
def overrange (x : Int) : Bool := decide (x ≤ -32768) || decide (32767 ≤ x)

def overAt (l : List Int) : List Nat := ((l.zipIdx).filter (fun e => overrange e.1)).map (·.2)

/-- One input's record samples (R42, R152): floor (WIN_LEN / 8) of them. -/
def ramanSamples (x : Shot) (l : List (BitVec 16)) : List Int := (l.take (x.winLen / 8)).map BitVec.toInt

/-- Samples of a record whose first has position index `i`, by position index from 0: those below 0 are not used (R153). -/
def byPosition (i : Int) (l : List Int) : List Int :=
  if i < 0 then l.drop (-i).toNat else List.replicate i.toNat 0 ++ l

def setOf (s : State) (n : Port) (a : Fin 8) : AvgSet := s.raman[n].sets[a]

def State.modSet (s : State) (n : Port) (a : Fin 8) (f : AvgSet → AvgSet) : State :=
  s.modRaman n (fun r => { r with sets := r.sets.set a (f r.sets[a]) })

/-- The mean of some samples in 1/16 code, and their standard deviation (R154), rounded as the device does (log entry 2). -/
def meanDev (l : List Int) : Int × Nat :=
  let k : Rat := (max 1 l.length : Nat)
  let m : Rat := (l.sum : Rat) / k
  let v : Rat := ((l.map (fun x => ((x : Rat) - m) * (x - m))).sum / k) * 256
  (freeRound (16 * m).num (16 * m).den, rootFree v)

/-- The baseline the 128 samples before a launch give (R154). -/
def baselineOf (r : RamanRecord) : Baseline :=
  let a := meanDev ((r.preS.take 128).map BitVec.toInt)
  let b := meanDev ((r.preA.take 128).map BitVec.toInt)
  ⟨a.1, b.1, a.2, b.2⟩

/-- Whether the baseline span of a shot, 128 samples of 5 ns ending at L - GATE_LEAD - 50 ns, overlaps the record window of the port's
previous shot (R154). -/
def baseOverlaps (x : Shot) : Bool :=
  let stop : Int := (x.launchAt : Int) - x.gateLead - 160
  match x.prevWin with
  | none => false
  | some w => decide ((w.1 : Int) < stop) && decide (stop - 2048 < w.2)

/-- The baseline of a shot (R154): its own, or the last valid one of the set where the span overlapped a record window; a set
without one stays open (log entry 13). -/
def baseline (v : AvgSet) (x : Shot) (r : RamanRecord) : Baseline :=
  if baseOverlaps x then
    let f := Config.noBaseline
    v.lastBase.getD ⟨f.1, f.2.1, f.2.2.1, f.2.2.2⟩
  else baselineOf r

/-- The corrected mean of one input at position index `j` in codes: the sum and the baseline sum over the shots added. -/
def meanAt (l : List Int) (base : Int) (shots j : Nat) : Rat :=
  ((l.getD j 0 : Rat) - (base : Rat) / 16) / (max 1 shots : Nat)

/-- The position index of record sample 0 of a shot (R153). -/
def index0 (s : State) (n : Port) (x : Shot) : Int := (x.winStart / 8 : Nat) - (s.u (Obj.RAMAN.RZERO n) : Int)

def ramanBin (s : State) (n : Port) : Nat := max 1 (s.u (Obj.RAMAN.DTS_BIN n))

/-- The first profile point, all of whose positions are used (R153). -/
def firstPoint (s : State) (n : Port) (v : Average) : Nat :=
  ceilDiv (index0 s n v.last).toNat (ramanBin s n)

/-- One past the last profile point that lies wholly within the record, of floor (WIN_LEN / 8) samples (R42). -/
def endPoint (s : State) (n : Port) (v : Average) : Nat :=
  (index0 s n v.last + (v.last.winLen / 8 : Nat)).toNat / ramanBin s n

/-- The noise of R161 in 1/16 code. -/
def sigmaOf (v : Average) : Rat := (v.sigma : Rat) / (max 1 v.shots : Nat)

/-- The quality of R161 before QMIN_R; with no noise at all the spec states no result (log entry 5). -/
def ramanQuality (bin shots : Nat) (sigma a : Rat) : Nat :=
  let m := a / bin
  let d := sigma * sigma * bin * shots
  if d = 0 then Config.noSnr.toNat % 256 else quarterDb 255 (m * m / d)

/-- A point of a completed average: its sums and its quality by R155 and R161. -/
def ramanPoint (s : State) (n : Port) (v : Average) (k : Nat) : RamanPoint :=
  let b := ramanBin s n
  let js := (List.range b).map (fun i => k * b + i)
  let sk := (js.map (fun j => meanAt v.stokes v.baseS v.shots j)).sum
  let ak := (js.map (fun j => meanAt v.anti v.baseA v.shots j)).sum
  let q := ramanQuality b v.shots (sigmaOf v / 16) ak
  let bad := js.any v.marked.contains || js.any (fun j => v.bad.contains (j / 2)) || decide (sk ≤ 0) || decide (ak ≤ 0) || decide (q < s.u (Obj.RAMAN.QMIN_R n))
  ⟨sk, ak, if bad then 0 else q⟩

def ramanPoints (s : State) (n : Port) (v : Average) : List RamanPoint :=
  (List.range (endPoint s n v - firstPoint s n v)).map (fun i => ramanPoint s n v (firstPoint s n v + i))

def State.dropAverage (s : State) (n : Port) (a : Fin 8) : State := s.bump (Obj.AVG_SET.DROPPED n a)

/-- Where a set's accumulation buffers stand in DRAM (R158; log entry 12). -/
def sumsArea (n : Port) (a : Fin 8) : Nat := dramBase + Config.place (Obj.AVG_SET.MEM n a).key

/-- The bytes of one accumulation buffer (R158), of which the second follows the first. -/
def sumsBytes (x : AvgSet) : Nat :=
  ceilDiv (8 * max x.cur.stokes.length ((x.computing.map (fun v => v.stokes.length)).getD 0)) 16 * 16

/-- The sums of both inputs at the two record samples that a 16-byte word holds. -/
def Average.sums (v : Average) (i : Nat) : List Int :=
  [v.stokes.getD (2 * i) 0, v.anti.getD (2 * i) 0, v.stokes.getD (2 * i + 1) 0, v.anti.getD (2 * i + 1) 0]

/-- An average with a word of its sums as it is read back, poisoned or not (R326). -/
def Average.withWord (v : Average) (i : Nat) (d : BitVec 128) (x : Bool) : Average :=
  let l := if d = Config.sumBits (v.sums i) then v.sums i else Config.bitSums d
  { v with stokes := (v.stokes.set (2 * i) (l.getD 0 0)).set (2 * i + 1) (l.getD 2 0),
           anti := (v.anti.set (2 * i) (l.getD 1 0)).set (2 * i + 1) (l.getD 3 0),
           bad := (if x then [i] else []) ++ v.bad.filter (· != i) }

/-- A word of a set's accumulation buffers. -/
def sumsHolder (s : State) (n : Port) (a : Fin 8) (addr : Nat) : Option Holder :=
  let x := setOf s n a
  let z := sumsBytes x
  let o := addr - sumsArea n a
  let i := o % z / 16
  if addr < sumsArea n a ∨ 2 * z ≤ o then none
  else if decide (z ≤ o) = x.swapped then
    some ⟨Config.sumBits (x.cur.sums i), x.cur.bad.contains i, fun d b t => t.modSet n a (fun y => { y with cur := y.cur.withWord i d b })⟩
  else x.computing.map (fun v =>
    ⟨Config.sumBits (v.sums i), v.bad.contains i,
      fun d b t => t.modSet n a (fun y => { y with computing := y.computing.map (fun w => w.withWord i d b) })⟩)

/-- The words of the average being gathered are read, as each shot is added and for the profile (R323, R324). -/
def State.readSums (s : State) (n : Port) (a : Fin 8) : State :=
  let x := setOf s n a
  let z := sumsBytes x
  let base := sumsArea n a + (if x.swapped then z else 0)
  let words := x.cur.bad.map (fun i => base + 16 * i) ++
    (s.flips.map (·.1)).filter (fun w => decide (base ≤ w) && decide (w < base + z) && !x.cur.bad.contains ((w - base) / 16))
  words.foldl (fun (t : State) w => match sumsHolder t n a w with
    | some h => t.readAt w h
    | none => t) s

/-- An average is complete (R157, R158): the buffers swap and its profile is computed, or, while the set's last computation still
runs, it is discarded and counted. -/
def State.completeAverage (s : State) (n : Port) (a : Fin 8) : State :=
  let s := if (setOf s n a).computing.isSome then s else s.readSums n a
  let v := (setOf s n a).cur
  let t := (s.modSet n a (fun x => { x with cur := {} })).put (Obj.AVG_SET.PROGRESS n a) 0
  if (setOf s n a).computing.isSome then t.dropAverage n a
  else
    let d : DonePart := ⟨s.now, ramanBin s n, firstPoint s n v, ramanPoints s n v⟩
    let t := t.modSet n a (fun x => { x with computing := some { v with epoch := s.now }, done := some d, swapped := !x.swapped })
    let t := t.modRaman n (fun r => { r with ready := r.ready ++ [a] })
    let t := t.put (Obj.AVG_SET.DONE n a) (epochVal (s.now * 256))
    t.put (Obj.RAMAN_STATUS.NOISE_A n) (freeRound (sigmaOf v).num (sigmaOf v).den).toNat

/-- AVERAGE_COMPLETE: the set has N_AVG shots. -/
def execAverageComplete (n : Port) (a : Fin 8) (s : State) : Result :=
  .next (if s.u (Obj.AVG_SET.N_AVG n a) ≤ (setOf s n a).cur.shots then s.completeAverage n a else s)

/-- A shot as an average keeps it: without its samples. -/
def Shot.bare (x : Shot) : Shot := { x with recX := [], recY := [] }

/-- The sums of an average after one more shot (R157), whose record starts at position index `i`. -/
def addedTo (v : AvgSet) (x : Shot) (i : Int) (r : RamanRecord) : AvgSet :=
  let c := v.cur
  let b := baseline v x r
  let st := byPosition i (ramanSamples x r.stokes)
  let an := byPosition i (ramanSamples x r.anti)
  let marks := overAt st ++ overAt an
  let sat := !(overAt (ramanSamples x r.stokes) ++ overAt (ramanSamples x r.anti)).isEmpty
  { v with
    cur := { c with
      stokes := addInts c.stokes st, anti := addInts c.anti an,
      marked := c.marked ++ marks.filter (fun j => !c.marked.contains j),
      baseS := c.baseS + b.meanS, baseA := c.baseA + b.meanA, sigma := c.sigma + b.devA,
      shots := c.shots + 1, firstSeq := if c.shots = 0 then x.seq else c.firstSeq,
      restarted := c.restarted || v.restart, baseOld := c.baseOld || baseOverlaps x,
      sat := c.sat || sat, last := x.bare },
    restart := false }

/-- The record of a DTS shot whose window has closed (R154, R155, R157). A shot committed before a restart of its set is no shot of the new
average (R159; log entry 91). -/
def State.addDts (s : State) (n : Port) (x : Shot) (r : RamanRecord) : State :=
  let a : Fin 8 := ⟨x.aux % 8, Nat.mod_lt _ (by decide)⟩
  let fl := Obj.RAMAN_STATUS.FLAGS n
  let ovS := (overAt (ramanSamples x r.stokes)).length
  let ovA := (overAt (ramanSamples x r.anti)).length
  let b := baseline (setOf s n a) x r
  let t := s.puti (Obj.RAMAN_STATUS.BASE_S n) b.meanS
  let t := t.puti (Obj.RAMAN_STATUS.BASE_A n) b.meanA
  let t := if ovS = 0 then t else (t.add (Obj.RAMAN_STATUS.OVR_S n) ovS).setBit fl Bit.RAMAN_STATUS.FLAGS.SAT_S
  let t := if ovA = 0 then t else (t.add (Obj.RAMAN_STATUS.OVR_A n) ovA).setBit fl Bit.RAMAN_STATUS.FLAGS.SAT_A
  if x.cut || x.invalid then t.dropAverage n a
  else if x.avgGen ≠ (setOf t n a).gen then t
  else
    let t := if s.u (Obj.AVG_SET.N_AVG n a) ≤ (setOf t n a).cur.shots then t.completeAverage n a else t
    let t := if baseOverlaps x then t.setBit fl Bit.RAMAN_STATUS.FLAGS.BASE_OLD else t
    let t := if (setOf t n a).cur.shots = 0 then t else t.readSums n a
    let t := t.modSet n a (fun v =>
      { addedTo v x (index0 s n x) r with lastBase := if baseOverlaps x then v.lastBase else some (baselineOf r) })
    t.put (Obj.AVG_SET.PROGRESS n a) (setOf t n a).cur.shots

/-- A commit of the Raman group, or of a set, discards the average in progress (R159). -/
def State.restartSet (s : State) (n : Port) (a : Fin 8) : State :=
  if (setOf s n a).cur.shots = 0 then s
  else
    let t := s.modSet n a (fun v => { v with cur := {}, restart := true, gen := v.gen + 1 })
    (t.put (Obj.AVG_SET.PROGRESS n a) 0).setBit (Obj.RAMAN_STATUS.FLAGS n) Bit.RAMAN_STATUS.FLAGS.RESTARTED

/-- The stamp of an average's last shot, settled after its window closed, enters the header its profile will carry (R59, R167). -/
def settle (x : Shot) (v : Average) : Average :=
  if v.last.seq = x.seq ∧ v.shots ≠ 0 then { v with last := { v.last with stamp := x.stamp, miss := x.miss } } else v

/-- A delivery whose header waited for the stamp of its shot takes it (R59, R60). -/
def takeHeader (n : Port) (x : Shot) (d : Delivery) : Delivery :=
  if d.unheaded ∧ d.shotSeq = x.seq ∧ d.kind = x.kind then { d with header := header n x, unheaded := false } else d

def State.settleHeader (s : State) (n : Port) (x : Shot) : State :=
  (s.modRaman n (fun r => { r with sets := r.sets.map (fun v =>
    { v with cur := settle x v.cur, computing := v.computing.map (settle x) }) })).modPipe n (fun p =>
    { p with queue := p.queue.map (takeHeader n x) })

/-! ## Reference sections (R162 to R164) -/

/-- The log ratio of a point (R160). -/
def logRatio (p : RamanPoint) : Rat := lnQ (p.a / p.s)

/-- The distance of a point in metres. -/
def pointDistance (bin k : Nat) : Rat := ((k : Rat) + 1 / 2) * bin * 51083 / 100000

/-- What a usable section gives (R162): mean log ratio, mean distance and reference temperature in 1/4,096 K. -/
structure RefSection where
  rho : Rat
  dist : Rat
  temp : Int
deriving DecidableEq, Repr

/-- A section of points `a` to `b` read by SFE channel `c`, or none where R163 calls it unusable. -/
def refSection (s : State) (n : Port) (d : DonePart) (a b c : Nat) : Option RefSection :=
  let age := s.u (Obj.RAMAN.REF_AGE n) * 3200000
  let st := stampOf (s.u (Obj.SFE.STAMP c)) / 256
  let pts := (d.points.drop (a - d.first)).take (b + 1 - a)
  if c ≤ 7 ∧ d.first ≤ a ∧ a ≤ b ∧ b < d.first + d.points.length ∧ d.epoch ≤ st + age ∧
      s.u (Obj.SFE.CSTAT c) / 256 = 0 ∧ s.u (Obj.SFE.CURVE c) ≠ 0 ∧
      pts.all (fun p => p.q != 0) then
    let k := pts.length
    some ⟨(pts.map logRatio).sum / k,
      ((List.range k).map (fun i => pointDistance d.bin (a + i))).sum / k, s.i (Obj.SFE.VALUE c)⟩
  else none

def section1 (s : State) (n : Port) (d : DonePart) : Option RefSection :=
  refSection s n d (s.u (Obj.RAMAN.REF1_START n)) (s.u (Obj.RAMAN.REF1_END n)) (s.u (Obj.RAMAN.REF1_SFE n))

def section2 (s : State) (n : Port) (d : DonePart) : Option RefSection :=
  refSection s n d (s.u (Obj.RAMAN.REF2_START n)) (s.u (Obj.RAMAN.REF2_END n)) (s.u (Obj.RAMAN.REF2_SFE n))

def gammaOf (s : State) (n : Port) : Rat := f32Val (s.u (Obj.RAMAN.GAMMA n))

/-- GAMMA over a reference temperature. -/
def gammaOver (s : State) (n : Port) (t : Int) : Rat := gammaOf s n * 4096 / t

/-- The reference mode in force: in dual-ended operation 1 and 2 both act as 1 (R165). -/
def refMode (s : State) (n : Port) : Nat :=
  let m := s.u (Obj.RAMAN.REF_MODE n)
  if s.u (Obj.RAMAN.DUAL_PORT n) ≠ 0xFF ∧ m = 2 then 1 else m

/-- DALPHA where no section sets it: 0 in dual-ended operation with a reference (R165). -/
def fixedAlpha (s : State) (n : Port) : Rat :=
  if s.u (Obj.RAMAN.DUAL_PORT n) ≠ 0xFF ∧ refMode s n ≠ 0 then 0 else f32Val (s.u (Obj.RAMAN.DALPHA n))

/-- The constants an average's sections aim at (R162), with their temperatures; none where a required section is unusable. -/
def refTarget (s : State) (n : Port) (d : DonePart) : Option (Rat × Rat) :=
  match refMode s n with
  | 0 => some (f32Val (s.u (Obj.RAMAN.LNC n)), fixedAlpha s n)
  | 1 => (section1 s n d).map (fun a =>
      (a.rho + gammaOver s n a.temp + fixedAlpha s n * a.dist, fixedAlpha s n))
  | _ =>
    match section1 s n d, section2 s n d with
    | some a, some b =>
      let al := (a.rho - b.rho + gammaOver s n a.temp - gammaOver s n b.temp) / (b.dist - a.dist)
      some (a.rho + gammaOver s n a.temp + al * a.dist, al)
    | _, _ => none

/-- REFERENCE_UPDATE (R162, R163): the constants move toward their targets by 1/REF_FILT, or are held. -/
def State.moveReference (s : State) (n : Port) (d : DonePart) : State :=
  let fl := Obj.RAMAN_STATUS.FLAGS n
  let t1 := (section1 s n d).map (·.temp)
  let t2 := (section2 s n d).map (·.temp)
  let t := if refMode s n = 0 then s else match t1 with | some v => s.puti (Obj.RAMAN_STATUS.REF1_T n) v | none => s
  let t := if refMode s n ≤ 1 then t else match t2 with | some v => t.puti (Obj.RAMAN_STATUS.REF2_T n) v | none => t
  match refTarget s n d with
  | none => ((t.setBit fl Bit.RAMAN_STATUS.FLAGS.REF_BAD).setBit fl Bit.RAMAN_STATUS.FLAGS.REF_HELD).bump
      (Obj.RAMAN_STATUS.HELD_RUN n)
  | some g =>
    let k : Rat := (max 1 (s.u (Obj.RAMAN.REF_FILT n)) : Nat)
    let r := s.raman[n]
    let l := if refMode s n = 0 then g.1 else r.lnc + (g.1 - r.lnc) / k
    let al := if refMode s n ≤ 1 then g.2 else r.dalpha + (g.2 - r.dalpha) / k
    let t := t.modRaman n (fun r => { r with lnc := l, dalpha := al })
    let t := t.put (Obj.RAMAN_STATUS.LNC_USED n) (Config.toF32 l).toNat
    let t := t.put (Obj.RAMAN_STATUS.DALPHA_USED n) (Config.toF32 al).toNat
    ((t.clrBit fl Bit.RAMAN_STATUS.FLAGS.REF_BAD).clrBit fl Bit.RAMAN_STATUS.FLAGS.REF_HELD).put
      (Obj.RAMAN_STATUS.HELD_RUN n) 0

/-! ## Profile (R160, R165 to R167) -/

/-- The partner average of a dual-ended port that lies within PAIR_AGE (R165). -/
def partner (s : State) (n : Port) (a : Fin 8) (d : DonePart) : Option DonePart :=
  let m := s.u (Obj.RAMAN.DUAL_PORT n)
  if h : m < 8 then
    match s.raman[m].sets[a].done with
    | some e =>
      if ((e.epoch : Int) - d.epoch).natAbs ≤ s.u (Obj.RAMAN.PAIR_AGE n) * 3200000 then some e else none
    | none => none
  else none

/-- A 24-bit field with its quality; a value beyond the field stays open (log entry 4). -/
def field24 (v : Int) (q : Nat) : BitVec 32 :=
  if -(2 ^ 23) ≤ v ∧ v < 2 ^ 23 then valueWord v q else BitVec.ofNat 32 (Config.beyond v % 2 ^ 24 * 256 + q)

/-- A profile word from ln R, the partner's part of it, the distance and the quality (R160, R165). -/
def profileWord (s : State) (n : Port) (lnr dist : Rat) (q : Nat) : BitVec 32 :=
  if s.u (Obj.RAMAN.OUT_MODE n) = 1 then field24 (freeRound (lnr * 2 ^ 20).num (lnr * 2 ^ 20).den) q
  else
    let den := s.raman[n].lnc - lnr - s.raman[n].dalpha * dist
    let tk := gammaOf s n / den
    if den = 0 ∨ tk < 0 ∨ 2047 < tk then 0 else field24 (roundEven (tk * 4096)) q

/-- The word of point `k`; in LOG_RATIO mode it carries the port's own ln R. -/
def pointWord (s : State) (n : Port) (d : DonePart) (e : Option DonePart) (zero : Bool) (k : Nat) : BitVec 32 :=
  let p := d.points.getD (k - d.first) ⟨0, 0, 0⟩
  let z := pointDistance d.bin k
  if p.s ≤ 0 ∨ p.a ≤ 0 then 0
  else match e with
  | none => profileWord s n (logRatio p) z (if zero then 0 else p.q)
  | some m =>
    let j := s.u (Obj.RAMAN.LOOP_PTS n) - 1 - k
    let w := if s.u (Obj.RAMAN.LOOP_PTS n) ≤ k ∨ j < m.first then ⟨0, 0, 0⟩ else m.points.getD (j - m.first) ⟨0, 0, 0⟩
    if w.s ≤ 0 ∨ w.a ≤ 0 then 0
    else
      let own := s.u (Obj.RAMAN.OUT_MODE n) == 1
      profileWord s n (if own then logRatio p else (logRatio p + logRatio w) / 2) (if own then z else 0)
        (if zero then 0 else min p.q w.q)

/-- The profile trailer (R167). -/
def profileTrailer (v : Average) (first last flags set : Nat) : List Byte :=
  le 4 v.firstSeq.toNat ++ le 4 first ++ le 4 last ++
  le 2 (if v.shots < 65536 then v.shots else Config.beyond v.shots) ++ le 1 flags ++ le 1 set

/-- A whole delivery enters the point queue behind what waits there. -/
def PipePart.pushWhole (p : PipePart) (d : Delivery) : PipePart :=
  let w := 8 + d.body.length + 4
  { p with queue := p.queue ++ [{ d with deliv := p.nextDeliv, closed := true, left := w }],
           nextDeliv := p.nextDeliv + 1, queued := p.queued + w }

/-- The set that completed first hands over its profile (R160 to R167). -/
def State.handProfile (s : State) (n : Port) : State :=
  match s.raman[n].ready with
  | [] => s
  | a :: rest =>
    match (setOf s n a).computing, (setOf s n a).done with
    | some v, some d =>
      let t := s.moveReference n d
      let fl := Obj.RAMAN_STATUS.FLAGS n
      let held := t.bit fl Bit.RAMAN_STATUS.FLAGS.REF_HELD
      let e := partner t n a d
      let dual := s.u (Obj.RAMAN.DUAL_PORT n) != 0xFF
      let miss := dual && e.isNone
      let zero := held && decide (t.u (Obj.RAMAN.REF_HOLD_MAX n) < t.u (Obj.RAMAN_STATUS.HELD_RUN n))
      let room := queueWords - 12 - (s.pipes[n].queued + 8)
      let k := min room d.points.length
      let over' := decide (k < d.points.length)
      let body := (List.range k).map (fun i => pointWord t n d e zero (d.first + i))
      let flags := bit8 v.restarted 6 + bit8 v.baseOld 5 + bit8 v.sat 4 + bit8 miss 3 + bit8 (dual && !miss) 2 +
        bit8 held 1 + bit8 over' 0
      let dl : Delivery := {
        kind := 2, set := a, header := header n v.last, unheaded := v.last.stamp.isNone, body := body,
        trailer := profileTrailer v d.first (d.first + k) flags a, first := d.first, validEnd := d.first + k,
        last := d.first + d.points.length - 1, epoch := v.last.launchAt, shotSeq := v.last.seq }
      let t := t.modPipe n (fun p => p.pushWhole dl)
      let t := t.modSet n a (fun x => { x with computing := none })
      let t := t.modRaman n (fun r => { r with ready := rest })
      let t := t.bump (Obj.AVG_SET.PROFILES n a)
      let t := if miss then t.setBit fl Bit.RAMAN_STATUS.FLAGS.DUAL_MISS else t
      let t := if over' then
          ((t.bump (Obj.RAMAN_STATUS.OVERRUN n)).setBit fl Bit.RAMAN_STATUS.FLAGS.OVERRUN).summary (.profile n)
        else t
      queuePeak t n
    | _, _ => s.modRaman n (fun r => { r with ready := rest })

end Sys2Proof.Machine
end

