-- ==== Sys2Proof/Machine/Brillouin.lean ====
section
/-! DEFINITION. The Brillouin controller (R168 to R178): the spectrum of a sweep, its buffers and its descriptor. -/

namespace Sys2Proof.Machine

/-- The buffer a sweep uses (R173). -/
def bufferOf (b : BrilPart) : Nat := b.sweep.toNat % 2

def bufferAddr (s : State) (n : Port) (k : Nat) : Nat :=
  if k = 0 then s.u (Obj.BRIL_STATUS.BUF0_ADDR n) else s.u (Obj.BRIL_STATUS.BUF1_ADDR n)

/-- The bytes of ADDED with its padding (R173). -/
def addedBytes (stepsN : Nat) : Nat := ceilDiv (2 * stepsN) 16 * 16

/-- The length of a spectrum buffer (R173). -/
def spectrumBytes (bins stepsN : Nat) : Nat := 32 + addedBytes stepsN + 4 * bins * stepsN

def brilBins (x : Shot) : Nat := x.pLast + 1 - x.pFirst

/-- The sweep program of a port: the AUX of its BRIL entries (R168). -/
def sweepProgram (s : State) (n : Port) : Nat :=
  match (List.range 64).find? (fun e => s.u (Obj.SHOT_ENTRY.KIND n e) == 3) with
  | some e => s.u (Obj.SHOT_ENTRY.AUX n e) % 8
  | none => 0

/-- The head of a spectrum buffer (R173). -/
def spectrumHead (s : State) (n : Port) (x : Shot) : List Byte :=
  let b := s.bril[n]
  let p := b.program
  le 4 b.sweep.toNat ++ le 1 p ++ le 1 0 ++ le 2 (s.u (Obj.SWEEP_PROGRAM.N_STEPS n p)) ++ le 4 (brilBins x) ++
  le 4 (s.u (Obj.SWEEP_PROGRAM.F_START n p)) ++ le 4 (s.u (Obj.SWEEP_PROGRAM.F_STEP n p)) ++ le 4 x.pFirst ++
  le 2 (s.u (Obj.BRILLOUIN.BR_BIN n)) ++ le 2 0 ++ le 4 0

def State.bufHeld (s : State) (n : Port) (k : Nat) : Bool := s.bit (Obj.BRIL_STATUS.BUF_HELD n) k

/-- A sweep starts (R173, R175): its buffer is zeroed, or the sweep is skipped while that buffer is still held. -/
def State.startSweep (s : State) (n : Port) (x : Shot) : State :=
  let b := s.bril[n]
  let fl := Obj.BRIL_STATUS.FLAGS n
  let t := s.setBit fl Bit.BRIL_STATUS.FLAGS.SWEEP_ACTIVE
  let held := s.bufHeld n (bufferOf b)
  let t := t.modBril n (fun b => { b with active := true, skip := held, bufFlags := 0 })
  if held then (t.bump (Obj.BRIL_STATUS.SWEEP_SKIPPED n)).setBit fl Bit.BRIL_STATUS.FLAGS.SKIPPED
  else
    let a := bufferAddr s n (bufferOf b)
    let t := t.clearWords a (spectrumBytes (brilBins x) (steps s n))
    let h := spectrumHead s n x
    (t.store a (h.take 16)).store (a + 16) (h.drop 16)

/-- One bin's power enters its 32-bit sum, which holds at its limit (R172). -/
def State.addBin (s : State) (n : Port) (base k : Nat) (shift : Nat) (j : Nat) (power : Rat) : State :=
  let a := base + 32 + addedBytes (steps s n) + (j * steps s n + k) * 4
  let s := s.meetWords a 4
  let v := fromLe (s.load a 4) + (roundEven (power / 2 ^ shift)).toNat
  if v < 2 ^ 32 then s.store a (le 4 v)
  else
    let t := (s.store a (le 4 (2 ^ 32 - 1))).bump (Obj.BRIL_STATUS.SPEC_SAT n)
    let t := t.setBit (Obj.BRIL_STATUS.FLAGS n) Bit.BRIL_STATUS.FLAGS.SPEC_SAT
    t.modBril n (fun b => { b with bufFlags := b.bufFlags ||| 1 })

def addBins (n : Port) (base k shift : Nat) : State → Nat → List Rat → State
  | s, _, [] => s
  | s, j, p :: r => addBins n base k shift (s.addBin n base k shift j p) (j + 1) r

/-- Whether the step word of a shot's group ended later than L - LO_SETTLE, or has not ended (R171). -/
def wordLate (s : State) (n : Port) (x : Shot) : Bool :=
  match s.bril[n].wordEnds.find? (fun e => e.1 == x.group) with
  | none => true
  | some e => decide ((x.launchAt : Rat) - (s.u (Obj.BRILLOUIN.LO_SETTLE n) : Rat) * 16 / 5 < (e.2 : Rat))

/-- The power of each bin of a shot (R172), summed over the branches of BR_BRANCH. -/
def binPowers (s : State) (n : Port) (x : Shot) : List Rat :=
  let bs := x.branches.filter (fun b => (s.u (Obj.BRILLOUIN.BR_BRANCH n)).testBit b)
  (List.range (brilBins x)).map (fun i =>
    (bs.map (fun b => binPower x (s.u Obj.IDENTITY.SILICON) (s.u (Obj.BRILLOUIN.BR_BIN n)) (x.pFirst + i) b)).sum)

/-- A shot's powers are added to the sweep's spectrum at its group's step (R172, R173). -/
def State.addSpectrum (s : State) (n : Port) (x : Shot) : State :=
  let b := s.bril[n]
  let k := b.group % steps s n
  let base := bufferAddr s n (bufferOf b)
  let t := addBins n base k (s.u (Obj.BRILLOUIN.P_SHIFT n)) s 0 (binPowers s n x)
  let t := t.meetWords (base + 32 + 2 * k) 2
  t.store (base + 32 + 2 * k) (le 2 (fromLe (t.load (base + 32 + 2 * k) 2) + 1))

/-- The sweep descriptor (R174). -/
def sweepDescriptor (s : State) (n : Port) (x : Shot) : List Byte :=
  let b := s.bril[n]
  le 4 b.sweep.toNat ++ le 1 (bufferOf b) ++ le 1 b.program ++ le 2 b.bufFlags.toNat ++ le 4 (brilBins x) ++
  le 2 (s.u (Obj.SWEEP_PROGRAM.N_STEPS n b.program)) ++ le 2 0

/-- The end of a sweep (R174): its header and descriptor are queued and its buffer is held; a skipped sweep hands over nothing. -/
def State.endSweep (s : State) (n : Port) (x : Shot) : State :=
  let b := s.bril[n]
  let t := s.clrBit (Obj.BRIL_STATUS.FLAGS n) Bit.BRIL_STATUS.FLAGS.SWEEP_ACTIVE
  let t := if b.skip then t else
    let t := t.store (bufferAddr s n (bufferOf b) + 26) (le 2 b.bufFlags.toNat)
    let t := t.setBit (Obj.BRIL_STATUS.BUF_HELD n) (bufferOf b)
    let t := t.bump (Obj.BRIL_STATUS.SWEEPS n)
    let d : Delivery := {
      kind := 3, set := b.program, header := header n x, unheaded := x.stamp.isNone, trailer := sweepDescriptor s n x,
      epoch := x.launchAt, shotSeq := x.seq }
    t.modPipe n (fun p => p.pushWhole d)
  queuePeak (t.modBril n (fun b => { b with active := false, skip := false, sweep := b.sweep + 1 })) n

/-- The group at hand has one more launched shot (R169). -/
def State.countShot (s : State) (n : Port) (x : Shot) : State :=
  let b := s.bril[n]
  let full := decide (perStep s n ≤ b.shot + 1)
  let t := s.modBril n (fun b =>
    { b with
      shot := if full then 0 else b.shot + 1, group := if full then b.group + 1 else b.group,
      wordEnds := if full then b.wordEnds.filter (fun e => e.1 != b.group) else b.wordEnds })
  let t := if full ∧ (b.group + 1) % steps s n = 0 then t.endSweep n x else t
  let t := t.put (Obj.BRIL_STATUS.STEP n) (t.bril[n].group % steps s n)
  t.put (Obj.BRIL_STATUS.SHOT_IN_STEP n) t.bril[n].shot

/-- BRIL_SHOT_ADD (R169, R171 to R175): a launched BRIL shot counts toward its group and, unless R171 excludes it, is added to the
spectrum. A shot of a sweep abandoned since its commit does neither (R176). -/
def execBrilShotAdd (n : Port) (s : State) : Result :=
  let p := fun (x : Shot) => x.winClosed && x.kind == 3 && !x.cal && !x.dataDone
  .next (match firstShot s n p with
  | none => s
  | some x =>
    let t := (s.modShot n p (fun z => { z with dataDone := true })).dropOver n
    if x.sweepGen ≠ s.bril[n].gen then t
    else
      let t := if t.bril[n].active then t else t.startSweep n x
      let late := wordLate t n x
      let t := if late then
          ((t.bump (Obj.BRIL_STATUS.LO_LATE n)).setBit (Obj.BRIL_STATUS.FLAGS n) Bit.BRIL_STATUS.FLAGS.LO_LATE).modBril n
            (fun b => { b with bufFlags := b.bufFlags ||| 2 })
        else t
      let skipped := late || x.cut || x.invalid || decide (t.bril[n].shot < s.u (Obj.SWEEP_PROGRAM.DISCARD n t.bril[n].program)) ||
        t.bril[n].skip
      (if skipped then t else t.addSpectrum n x).countShot n x)

/-- A sweep is abandoned (R176): counted, ABORTED set, its buffer free; the next BRIL shot starts a new sweep at step 0. -/
def State.abortSweep (s : State) (n : Port) : State :=
  let b := s.bril[n]
  let busy := b.active || b.wordFor.isSome
  let t := if b.active then
      ((s.bump (Obj.BRIL_STATUS.SWEEP_ABORT n)).setBit (Obj.BRIL_STATUS.FLAGS n) Bit.BRIL_STATUS.FLAGS.ABORTED).clrBit
        (Obj.BRIL_STATUS.FLAGS n) Bit.BRIL_STATUS.FLAGS.SWEEP_ACTIVE
    else s
  let t := t.modBril n (fun b =>
    { b with
      active := false, skip := false, group := 0, shot := 0, wordFor := none, wordEnds := [],
      sweep := if b.active then b.sweep + 1 else b.sweep, gen := if busy then b.gen + 1 else b.gen })
  (t.put (Obj.BRIL_STATUS.STEP n) 0).put (Obj.BRIL_STATUS.SHOT_IN_STEP n) 0

/-- The effect of a write of RELEASE (R174, R178), and of a consuming stall's release (R191). -/
def releaseEff (s : State) (n : Port) (buf : Nat) : State :=
  if buf < 2 then s.clrBit (Obj.BRIL_STATUS.BUF_HELD n) buf else s

end Sys2Proof.Machine
end

