-- ==== Sys2Proof/Machine/Pool.lean ====
section
/-! DEFINITION. The DRAM pool and what is allocated in it (R117, R158, R173, R205, R265, R275, R336 to R338), and the yard's rings (R182). -/

namespace Sys2Proof.Machine

/-- A size in whole granules of 64 KiB (R337). -/
def granules (n : Nat) : Nat := ceilDiv n 65536 * 65536

/-- A register's signed value through a reader. -/
def signedOf (g : Reg → Nat) (r : Reg) : Int := toSigned r.width (g r)

/-- The entries of a port's table, by kind; those beyond TABLE_LEN count among them (R104, R105, R156, R168). -/
def entriesOfKind (g : Reg → Nat) (n : Port) (kind : Nat) : List Nat :=
  (List.range 64).filter (fun e => g (Obj.SHOT_ENTRY.KIND n e) == kind)

/-- The last point of an entry on a grid of `decim` samples (R103). -/
def entryLast (g : Reg → Nat) (n : Port) (e decim : Nat) : Int :=
  gridLast (g (Obj.SHOT_ENTRY.WIN_START n e)) (g (Obj.SHOT_ENTRY.WIN_LEN n e)) (signedOf g (Obj.PIPELINE.ZERO_DELAY n))
    (g (Obj.TONE_SET.DURATION n (g (Obj.SHOT_ENTRY.TONE_SET n e)))) decim

def entryFirst (g : Reg → Nat) (n : Port) (e decim : Nat) : Nat :=
  gridFirst (g (Obj.SHOT_ENTRY.WIN_START n e)) (signedOf g (Obj.PIPELINE.ZERO_DELAY n)) decim

/-- Bits set below 16. -/
def bits16 (v : Nat) : Nat := (List.range 16).countP v.testBit

/-- Branch state of a port (R117): 16 bytes for each point up to the largest last point, for each set of DAS_SETS. -/
def branchBytes (g : Reg → Nat) (n : Port) : Nat :=
  let lasts := (entriesOfKind g n 1).map (fun e => (entryLast g n e (g (Obj.PIPELINE.DECIM n)) + 1).toNat)
  bits16 (g (Obj.PIPELINE.DAS_SETS n)) * granules (16 * lasts.foldl max 0)

/-- Raman buffers of a set (R158): two of 8 bytes per record sample, and the overrange marks (log entry 12). -/
def ramanBytes (g : Reg → Nat) (n : Port) (a : Nat) : Nat :=
  let es := (entriesOfKind g n 2).filter (fun e => g (Obj.SHOT_ENTRY.AUX n e) == a)
  let samples := (es.map (fun e => g (Obj.SHOT_ENTRY.WIN_LEN n e) / 8)).foldl max 0
  if samples = 0 then 0 else 16 * samples + Config.markBytes samples

/-- The sweep program of a port's BRIL entries, through a reader (R168). -/
def programOf (g : Reg → Nat) (n : Port) : Option Nat :=
  (entriesOfKind g n 3).head?.map (fun e => g (Obj.SHOT_ENTRY.AUX n e) % 8)

/-- One spectrum buffer of a port (R171, R173). -/
def brilBytes (g : Reg → Nat) (n : Port) : Nat :=
  match programOf g n with
  | none => 0
  | some p =>
    let w := g (Obj.BRILLOUIN.BR_BIN n)
    let bins := (entriesOfKind g n 3).map (fun e => (entryLast g n e w + 1 - entryFirst g n e w).toNat)
    spectrumBytes (bins.foldl max 0) (g (Obj.SWEEP_PROGRAM.N_STEPS n p))

/-- The awning of a region (R259). -/
def awnBytes (g : Reg → Nat) (r : Nat) : Nat :=
  g (Obj.REGION.AWN_SHOTS r) * (ceilDiv (32 + 4 * g (Obj.REGION.P_COUNT r)) 16 * 16)

def storeBytes (g : Reg → Nat) : Nat := g Obj.CAPTURE.STORE_LEN * 1048576

/-! ## The pool -/

def State.dramFailed (s : State) : Bool := s.bit Obj.MEMORY.FLAGS Bit.MEMORY.FLAGS.DRAM_FAILED

/-- POOL_SIZE (R336, R337): 0 until both channels are in service. -/
def poolSize (s : State) : Nat :=
  if s.dramFailed ∨ !s.dram[0].trained ∨ !s.dram[1].trained then 0
  else s.u (Obj.DRAM_CHANNEL.CAPACITY 0) + s.u (Obj.DRAM_CHANNEL.CAPACITY 1) - 512 * 1048576

/-- What the values in force have allocated (R337). -/
def poolHeld (s : State) : Nat :=
  ((List.finRange 8).map (fun (n : Port) =>
    s.pipes[n].stateBytes + (s.bril[n].sizes.map granules).sum +
    (s.raman[n].sets.toList.map (fun a => granules a.bytes)).sum)).sum +
  ((List.range 16).map (fun p => granules (s.u (Obj.PROGRAM_SLOT.DRAM_ALLOC p)))).sum +
  ((List.range 64).map (fun r => granules (awnBytes s.u r))).sum + granules (storeBytes s.u)

/-- The allocations a group's commit makes, new and old, through the reader of the values it would put in force. -/
def allocations (s : State) (g : Reg → Nat) (idx : Nat) : List (Nat × Nat) :=
  let n : Port := ⟨idx / 256 % 8, Nat.mod_lt _ (by decide)⟩
  let o := idx % 256
  if 0x3800 ≤ idx ∧ idx < 0x4000 ∧ o = 0 then [(branchBytes g n, s.pipes[n].stateBytes)]
  else if 0x4000 ≤ idx ∧ idx < 0x4800 ∧ 0x10 ≤ o ∧ o < 0x18 then
    [(granules (ramanBytes g n (o - 0x10)), granules (s.raman[n].sets.toList.getD (o - 0x10) {}).bytes)]
  else if 0x4800 ≤ idx ∧ idx < 0x5000 ∧ (o = 0 ∨ programOf g n = some (o - 0x10)) then
    s.bril[n].sizes.map (fun b => (granules (brilBytes g n), granules b))
  else if 0x5110 ≤ idx ∧ idx < 0x5120 then
    [(granules (g (Obj.PROGRAM_SLOT.DRAM_ALLOC (idx - 0x5110))), granules (s.u (Obj.PROGRAM_SLOT.DRAM_ALLOC (idx - 0x5110))))]
  else if 0x5200 ≤ idx ∧ idx < 0x5240 then
    [(granules (awnBytes g (idx - 0x5200)), granules (awnBytes s.u (idx - 0x5200)))]
  else if idx = 0x5280 then [(granules (storeBytes g), granules (storeBytes s.u))]
  else []

/-- A register as a group's commit would leave it, with the commits already pending; a tone set whose APPLY is pending is judged and used by
others as the set in force (R85). -/
def groupReader (s : State) (idx : Nat) (r : Reg) : Nat :=
  let toneGroup := fun (i : Nat) => decide (0x3000 ≤ i) && decide (i < 0x3800) && decide (0x10 ≤ i % 256) && decide (i % 256 < 0x20)
  let l := groupIndices idx ++ (s.ledger.applying.filter (fun a => !toneGroup a.index)).flatMap (fun a => groupIndices a.index)
  if l.contains (r.key / 256) then s.us r else s.u r

/-- What a list of allocations takes anew: each one that changes, in full. -/
def takenAnew (l : List (Nat × Nat)) : Nat := ((l.filter (fun e => e.1 != e.2)).map (·.1)).sum

/-- What the accepted APPLYs that still wait for their boundary have allocated beside what they are to replace (R117, R158, R173, R337). -/
def pendingBytes (s : State) : Nat :=
  (s.ledger.applying.map (fun a => takenAnew (allocations s (groupReader s a.index) a.index))).sum

def poolUsed (s : State) : Nat := poolHeld s + pendingBytes s

def poolFree (s : State) : Nat := poolSize s - poolUsed s

/-- Whether the pool holds a group's allocations (R336, R337): each one that changes is taken in full before the old one is freed. -/
def poolHolds (s : State) (g : Reg → Nat) (idx : Nat) : Bool :=
  let l := allocations s g idx
  if s.dramFailed then l.all (fun e => e.1 == 0) && !(decide (0x5140 ≤ idx) && decide (idx < 0x5200))
  else decide (takenAnew l ≤ poolFree s)

/-! ## The yard -/

/-- The words of the largest delivery of a port (R182). -/
def ringWords (g : Reg → Nat) (n : Port) : Nat :=
  let das := (entriesOfKind g n 1).map (fun e =>
    12 + (entryLast g n e (g (Obj.PIPELINE.DECIM n)) + 1 - entryFirst g n e (g (Obj.PIPELINE.DECIM n))).toNat)
  let dts := (entriesOfKind g n 2).map (fun e => 12 + g (Obj.SHOT_ENTRY.WIN_LEN n e) / 8 / max 1 (g (Obj.RAMAN.DTS_BIN n)))
  let bril := (entriesOfKind g n 3).map (fun _ => 12)
  (das ++ dts ++ bril).foldl max 0

/-- The rings of enabled ports and the programs' yard areas (R182). -/
def yardUsed (g : Reg → Nat) : Nat :=
  ((List.finRange 8).map (fun (n : Port) =>
    if g (Obj.SCHEDULER.ENABLE n) = 1 then g Obj.ARRAY.RING_SHOTS * (4 * ringWords g n) else 0)).sum +
  ((List.range 16).map (fun p => g (Obj.PROGRAM_SLOT.YARD_ALLOC p))).sum

/-- The yard bytes that may be allocated; the fallback reserve takes its top 4 MiB (R338). -/
def yardCapacity (s : State) : Nat := if s.dramFailed then yardBytes - 4 * 1048576 else yardBytes

def yardFree (s : State) : Nat := yardCapacity s - yardUsed s.u

end Sys2Proof.Machine
end

