-- ==== Sys2Proof/Machine/Array.lean ====
section
/-! DEFINITION. The stall array (R179 to R211): stalls and pitches, point rings, offers, the reorder buffers, migration and the program
slots. -/

namespace Sys2Proof.Machine

/-! ## Stalls (R179 to R181) -/

def stallCode : StallState → Nat
  | .spare => 0 | .service => 1 | .loading => 2 | .test => 3 | .failed => 4 | .halted => 5

def countState (s : State) (p : StallState → Bool) : Nat := s.stalls.toList.countP (fun x => p x.state)

/-- IN_SERVICE, SPARES and FAILED follow the stalls' states. -/
def State.countStalls (s : State) : State :=
  let t := s.put Obj.ARRAY.IN_SERVICE (countState s (fun x => x == .service || x == .halted))
  let t := t.put Obj.ARRAY.SPARES (countState s (fun x => x == .spare))
  t.put Obj.ARRAY.FAILED (countState s (fun x => x == .failed))

def State.setStall (s : State) (t : StallId) (st : StallState) : State :=
  ((s.modStall t (fun x => { x with state := st })).put (Obj.STALL.STATE t)
    (if s.stalls[t].debugHalt then 5 else stallCode st)).countStalls

/-- The lowest-numbered spare (R179). -/
def firstSpare (s : State) : Option StallId := (List.finRange 132).find? (fun t => s.stalls[t].state == .spare)

def hosting (s : State) : Nat := s.stalls.toList.countP (fun x => !x.pitches.isEmpty)

/-! ## Images (R202) -/

def imageField (l : List Byte) (off n : Nat) : Nat := fromLe (slice l off n)

def State.img (s : State) (g : Fin 16) (off n : Nat) : Nat := imageField s.programs[g].image off n

def codeLen (l : List Byte) : Nat := imageField l 16 4
def stateId (l : List Byte) : Nat := imageField l 12 4
def outputs (s : State) (g : Fin 16) : Nat := s.img g 46 1
def fillWord (s : State) (g : Fin 16) (o : Nat) : Nat := s.img g (52 + 8 * o) 4

def pitchSlot (s : State) (k : Nat) : Fin 16 := ⟨s.u (Obj.PITCH.PROGRAM k) % 16, Nat.mod_lt _ (by decide)⟩

/-- The bytes of a pitch's result block for an output (R202). -/
def blockBytes (s : State) (k : Nat) (o : Nat) : Nat :=
  let g := pitchSlot s k
  4 * s.img g (48 + 8 * o) 2 * (if s.img g (50 + 8 * o) 1 % 2 = 1 then s.u (Obj.PITCH.PCOUNT k) else 1)

/-- The state bytes of a pitch under an image (R204). -/
def pitchState (s : State) (l : List Byte) (k : Nat) : Nat :=
  imageField l 20 4 + imageField l 24 4 *
    (s.u (Obj.PITCH.PCOUNT k) + s.u (Obj.PITCH.HALO_LO k) + s.u (Obj.PITCH.HALO_HI k))

/-- Whether some pitches fit one stall's data memory (R204). -/
def fits (s : State) (l : List Byte) (ks : List (Fin 192)) : Bool :=
  decide ((ks.map (fun k => pitchState s l k)).sum + imageField l 28 4 ≤ 195328)

/-- The program memory an image loads (R236). -/
def programBytes (l : List Byte) : List Byte :=
  let c := slice l 80 (codeLen l)
  c ++ List.replicate (stallProgBytes - c.length) 0xFF

/-! ## Library images (R202, R209) -/

/-- The KINDS a library program accepts (R209). -/
def libraryKinds (id : Nat) : Nat := if id < 0x10 then 1 else if id < 0x20 then 2 else if id < 0x30 then 4 else 0

/-- The image of a library program: its header as R202 lays it out, with what R209 and R177 state of the program; the rest, its code among
it, stays open (log entry 26). -/
def libraryImage (id : Nat) : List Byte :=
  let raw := Config.library id
  let code := let c := (raw.drop 80).take 32768; c.take (c.length / 4 * 4)
  let out := fun (i : Nat) =>
    if id = 0x20 ∧ i = 0 then le 2 2 ++ le 1 1 ++ le 1 0 ++ le 4 (imageField raw 52 4)
    else le 2 (imageField raw (48 + 8 * i) 2) ++ le 1 (imageField raw (50 + 8 * i) 1 % 2) ++ le 1 0 ++ le 4 (imageField raw (52 + 8 * i) 4)
  let outputs := imageField raw 46 1 % 5
  let head := le 2 1 ++ le 2 0 ++ padTo 12 (slice raw 4 12) ++ le 4 code.length ++ padTo 4 (slice raw 20 4) ++
    le 4 (if id = 0x02 then 72 else imageField raw 24 4) ++ padTo 18 (slice raw 28 18) ++
    le 1 (if id = 0x20 then max 1 outputs else outputs) ++ le 1 (libraryKinds id) ++
    out 0 ++ out 1 ++ out 2 ++ out 3
  let l := head ++ code
  l ++ le 4 (crc32c l).toNat

/-! ## Entry (R204, R214) -/

/-- Whether a stall reloads in place (R207 step 4): its unread descriptors stay. -/
def Stall.reloads (x : Stall) : Bool := x.state == .loading && x.replacing && x.moveFrom.isNone

/-- A stall's registers at ENTRY_INIT or ENTRY_RESUME (R214). -/
def Stall.entered (x : Stall) (img : List Byte) (resume : Bool) : Stall :=
  { x with
    d := Vector.replicate 64 ⟨{}, {}, {}, {}⟩, a := Vector.replicate 8 ⟨{}, {}, {}, {}⟩, trapCause := 0,
    snapCycle := 0, snapIdle := 0, snapEpoch := 0,
    p := ((Vector.replicate 16 0).set 15 0x2FC00#24).set 14 (if resume then 1 else 0),
    m := Vector.replicate 8 {}, t := Vector.replicate 16 {}, rb := 0,
    pc := BitVec.ofNat 13 (imageField img (if resume then 42 else 40) 2), rets := [], loops := [], flags := 0,
    trapEn := 0, masked := false, pend := none, entryTrap := BitVec.ofNat 13 (imageField img 44 2),
    inq := if x.reloads then x.inq else [], lastPop := none,
    skipBp := false, slow := false, ready := false, reload := false, moveTo := none, moveFrom := none, replacing := false }

/-- The parameter blocks of a stall's pitches (R204, R206). -/
def State.writeParams (s : State) (t : StallId) : State :=
  (s.stalls[t].pitches.zipIdx).foldl (fun u e =>
    u.placeWords (stallData t + 0x2FC00 + 256 * e.2) (padTo 256 (u.blob (Obj.PITCH.PARAM e.1)))) s

/-- Local pitch numbers of a stall's pitches. -/
def State.writeHosts (s : State) (t : StallId) : State :=
  (s.stalls[t].pitches.zipIdx).foldl (fun u e =>
    (u.modPitch e.1 (fun k => { k with host := some (t, ⟨e.2 % 4, Nat.mod_lt _ (by decide)⟩) })).put
      (Obj.PITCH.HOST e.1) (t * 256 + e.2)) s

/-- Undone offers of a pitch are abandoned (R199): its lag is 0 again. -/
def State.abandon (s : State) (k : Fin 192) : State :=
  (s.modPitch k (fun x => { x with offers := [], skipNext := true, lagRun := 0 })).put (Obj.PITCH.LAG k) 0

/-- A delivery descriptor is written to a free slot of a stall in service (R193). -/
def descriptorSlot (x : Stall) : Option (Fin 4) :=
  (List.finRange 4).find? (fun i => !x.inq.contains i && x.lastPop != some i)

def descriptorAddr (i : Fin 4) : Nat := 0x2FB00 + 64 * i.val

/-- A delivery of a port's ring, by DELIV. -/
def inRing (p : PipePart) (d : BitVec 32) : Option Delivery := p.ring.find? (fun x => x.deliv == d)

/-- The 64 bytes of a delivery descriptor (R193). -/
def descriptor (d : Delivery) (loc flags : Nat) : List Byte :=
  padTo 32 d.header ++ padTo 16 d.trailer ++ le 4 d.deliv.toNat ++
  le 4 (if d.kind = 3 then 0 else d.first) ++
  le 4 (if d.kind = 3 then fromLe (slice d.trailer 8 4) else d.validEnd) ++ le 1 loc ++ le 1 flags ++ le 2 0

def State.writeDescriptor (s : State) (t : StallId) (k : Fin 192) (d : Delivery) (flags : Nat) : State :=
  match descriptorSlot s.stalls[t], s.pitches[k].host with
  | some i, some h =>
    (s.placeWords (stallData t + descriptorAddr i) (descriptor d h.2 flags)).modStall t (fun x => { x with inq := x.inq ++ [i] })
  | _, _ => s

/-- A stall enters SERVICE with the pitches it holds, at ENTRY_INIT or ENTRY_RESUME; the offers held back for it are written. -/
def State.enterService (s : State) (t : StallId) (img : List Byte) (resume : Bool) : State :=
  let held := s.stalls[t].held
  let u := s.modStall t (fun x => { x.entered img resume with held := [] })
  let u := ((u.writeParams t).put (Obj.STALL.FLAGS t) (if s.stalls[t].overload then 2 else 0)).setStall t .service
  held.foldl (fun v e =>
    let n : Port := ⟨v.u (Obj.PITCH.PORT e.1) % 8, Nat.mod_lt _ (by decide)⟩
    match inRing v.pipes[n] e.2.1 with
    | some d => v.writeDescriptor t e.1 d e.2.2
    | none => v) u

/-- A stall with no pitches and no program: a spare. -/
def State.vacate (s : State) (t : StallId) : State :=
  let u := s.modStall t (fun x => { bps := x.bps, watches := x.watches })
  ((u.put (Obj.STALL.SLOT t) 0xFF).put (Obj.STALL.FLAGS t) 0).setStall t .spare

/-- Pitches are given to a stall. -/
def State.give (s : State) (t : StallId) (g : Fin 16) (ks : List (Fin 192)) : State :=
  ((s.modStall t (fun x => { x with slot := some g, pitches := ks })).put (Obj.STALL.SLOT t) g).writeHosts t

/-- USERS of every program slot (R205). -/
def State.countUsers (s : State) : State :=
  (List.finRange 16).foldl (fun t g =>
    t.put (Obj.PROGRAM_SLOT.USERS g) ((List.finRange 192).countP (fun (k : Fin 192) =>
      s.pitches[k].host.isSome && pitchSlot s k == g))) s

/-! ## ARRAY flags and halted pitches (R200, R201) -/

def State.arrayFlags (s : State) : State :=
  let over' := (List.range 192).any (fun k => s.bit (Obj.PITCH.PFLAGS k) Bit.PITCH.PFLAGS.OVERLOAD)
  let t := s.putBit Obj.ARRAY.FLAGS Bit.ARRAY.FLAGS.OVERLOAD over'
  t.putBit Obj.ARRAY.FLAGS Bit.ARRAY.FLAGS.HALTED (s.pitches.toList.any (·.halted))

/-! ## Reorder buffers (R197, R198) -/

def Resolved.isOpen : Resolved → Bool
  | .open => true
  | _ => false

def Resolved.emits (r : Resolved) (o : Nat) : Bool :=
  match r with
  | .done e _ => e.getLsbD o
  | _ => false

def recFor (g : Fin 16) (n : Port) (d : BitVec 32) (r : ReorderRec) : Bool := r.slot == g && r.port == n && r.deliv == d

/-- A change of one pitch's standing in its slot's record of a delivery. -/
def State.resolve (s : State) (g : Fin 16) (n : Port) (d : BitVec 32) (k : Fin 192) (v : Resolved) : State :=
  let f := fun (r : ReorderRec) => if recFor g n d r then
      { r with pitches := r.pitches.map (fun e => if e.1 = k ∧ e.2.isOpen then (k, v) else e) }
    else r
  { s with array := { s.array with reorder := s.array.reorder.map f, sweeps := s.array.sweeps.map f } }

/-- Bytes the spec states no contents for, from a free value on. -/
def openBytes (base n : Nat) : List Byte := (List.range n).map (fun i => Config.undefinedByte (base + i))

/-- A pitch's block at the release of an output: its PUT result, or the FILL word repeated (R197); the 16-byte words that came
poisoned become FILL (R366). What no PUT wrote, and the block of a DONE without this output's EMIT bit, stay open (log entry 50). -/
def blockAt (s : State) (r : ReorderRec) (k : Fin 192) (v : Resolved) (o : Fin 4) (base : Nat) : List Byte × List Nat :=
  let n := blockBytes s k o
  let fill := (List.replicate (n / 4) (le 4 (fillWord s r.slot o))).flatten
  match v with
  | .done e _ =>
    if e.getLsbD o then
      match r.blocks.find? (fun b => b.pitch == k && b.output == o) with
      | none => (openBytes base n, [])
      | some b =>
        let l := padTo n b.bytes
        ((l.zipIdx).map (fun e => if b.poisoned.contains (e.2 / 16) then fill.getD e.2 0 else e.1), b.poisoned)
    else (openBytes base n, [])
  | _ => (fill, [])

def resultItem (s : State) (r : ReorderRec) (o : Fin 4) : Item :=
  let sorted := r.pitches.insertionSort (fun a b => s.u (Obj.PITCH.FIRST a.1) ≤ s.u (Obj.PITCH.FIRST b.1))
  let bs := sorted.foldl (fun (acc : List (List Byte × List Nat)) e =>
    acc ++ [blockAt s r e.1 e.2 o (s.fresh + (acc.map (·.1.length)).sum)]) []
  let offs := bs.foldl (fun (acc : Nat × List Nat) b =>
    (acc.1 + b.1.length, acc.2 ++ b.2.map (fun w => acc.1 + 16 * w))) (32, [])
  ⟨2, r.port, r.deliv, padTo 32 r.header ++ (bs.map (·.1)).flatten, fromLe (slice r.header 8 8), true, offs.2, false, offs.2⟩

/-- The results of one output of a released delivery reach its streams (R197, R355). -/
def State.releaseOutput (s : State) (r : ReorderRec) (o : Fin 4) : State :=
  if outputs s r.slot ≤ o ∨ ¬ r.pitches.any (fun e => e.2.emits o) then s
  else
    let it := resultItem s r o
    let takes := fun (k : Fin 256) => s.u (Obj.STREAM.PORT k) == r.port.val && s.u (Obj.STREAM.SLOT k) == r.slot.val &&
      s.u (Obj.STREAM.OUTPUT k) == o.val
    let drawn := { s with fresh := s.fresh + it.data.length }
    let t := drawn.toStreams 1 takes (fun _ => it)
    (r.pitches.filter (fun e => e.2.isOpen)).foldl (fun u e => u.bump (Obj.PITCH.LATE e.1)) t

/-- How far a DELIV lies behind another, in serial order. -/
def behind (d now : BitVec 32) : Nat := (now - d).toNat

def releasable (now : BitVec 32) (r : ReorderRec) : Bool :=
  !(r.pitches.any (fun e => e.2.isOpen)) || (decide (16 ≤ behind r.deliv now) && decide (behind r.deliv now < 2 ^ 31))

/-- A released sweep's record stays for R210 until its buffer takes another sweep. -/
def keepSweep (l : List ReorderRec) (r : ReorderRec) : List ReorderRec :=
  if r.kind = 3 then
    { r with blocks := [] } :: l.filter (fun x =>
      !(x.slot == r.slot && x.port == r.port && imageField x.trailer 4 1 == imageField r.trailer 4 1))
  else l

/-- REORDER_RELEASE (R197): a slot's and port's buffers release their oldest deliveries while those may go. -/
def releaseFrom : Nat → State → Fin 16 → Port → BitVec 32 → State
  | 0, s, _, _, _ => s
  | f + 1, s, g, n, now =>
    match s.array.reorder.find? (fun r => r.slot == g && r.port == n) with
    | none => s
    | some r =>
      if releasable now r then
        let t := (List.finRange 4).foldl (fun u o => u.releaseOutput r o) s
        releaseFrom f { t with array := { t.array with reorder := t.array.reorder.erase r, sweeps := keepSweep t.array.sweeps r } } g n now
      else s

def lastDeliv (s : State) (n : Port) : BitVec 32 := (s.pipes[n].ring.head?.map (·.deliv)).getD 0

def State.release (s : State) (g : Fin 16) (n : Port) : State :=
  releaseFrom s.array.reorder.length s g n (lastDeliv s n)

def State.releasePort (s : State) (n : Port) : State := (List.finRange 16).foldl (fun t g => t.release g n) s

/-- A pitch's part of a record becomes halted where it is not resolved. -/
def ReorderRec.halt (k : Fin 192) (r : ReorderRec) : ReorderRec :=
  { r with pitches := r.pitches.map (fun e => if e.1 = k ∧ e.2.isOpen then (k, .haltedNow) else e) }

/-- A pitch's unresolved deliveries become halted ones (R197, R200). -/
def State.haltPitch (s : State) (k : Fin 192) : State :=
  let t := (s.abandon k).modPitch k (fun x => { x with halted := true })
  let t := { t with array := { t.array with reorder := t.array.reorder.map (ReorderRec.halt k) } }
  let t := t.setBit (Obj.PITCH.PFLAGS k) Bit.PITCH.PFLAGS.HALTED
  t.releasePort ⟨s.u (Obj.PITCH.PORT k) % 8, Nat.mod_lt _ (by decide)⟩

/-- A slot's image is placed in service when no stall waits for it (R203, R207). -/
def State.placedCheck (s : State) (g : Fin 16) : State :=
  if s.stalls.toList.any (fun x => x.slot == some g && (x.replacing || x.reload)) then s
  else s.modProgram g (fun p => { p with placing := false, old := [] })

/-- The spares that load a new image for a stall whose pitches leave it or stop become free again. -/
def State.dropLoads (s : State) (t : StallId) : State :=
  let u := (List.finRange 132).foldl (fun v p =>
    if v.stalls[p].replacing ∧ v.stalls[p].moveFrom = some t then v.vacate p else v) s
  (u.modStall t (fun x => { x with reload := false })).placedCheck (s.stalls[t].slot.getD 0)

/-- The stall that a stall's pitches were still moving from goes to its test. -/
def State.endMove (s : State) (t : StallId) : State :=
  match s.stalls[t].moveFrom, s.stalls[t].replacing with
  | some a, false => (s.vacate a).setStall a .test
  | _, _ => s

/-- Whether a stall still runs the image that its slot's new one replaces (R207). -/
def runsOld (s : State) (t : StallId) : Bool :=
  s.stalls[t].reload || s.stalls.toList.any (fun y => y.replacing && y.moveFrom == some t)

def State.imageAt (s : State) (t : StallId) (g : Fin 16) : List Byte :=
  if s.programs[g].placing && runsOld s t then s.programs[g].old else s.programs[g].image

/-- A stall's program is halted with its pitches (R200, R201). -/
def State.haltStall (s : State) (t : StallId) : State :=
  let u := s.stalls[t].pitches.foldl (fun v k => v.haltPitch k) s
  ((u.dropLoads t).setStall t .halted).arrayFlags

/-! ## Migration and replacement (R199 to R201, R207) -/

/-- Transactions in flight end with ABORT (R188, R199). -/
def Stall.aborted (x : Stall) : Stall :=
  { x with t := x.t.map (fun g => if g.flight.isSome then { g with status := 5, flight := none } else g) }

/-- Whether a migration of a stall's pitches would be their second within 1,024 completed deliveries (R200). -/
def secondMove (s : State) (t : StallId) : Bool :=
  s.stalls[t].pitches.any (fun k => s.pitches[k].sinceMove.isSome)

/-- A stall's pitches move to a spare, which loads (R199 steps 1 to 3). -/
def State.startMove (s : State) (t spare : StallId) : State :=
  let x := s.stalls[t]
  let ks := x.pitches
  let g := x.slot.getD 0
  let u := s.modStall t (fun y => { y.aborted with pitches := [], moveTo := some spare })
  let u := (u.give spare g ks).modStall spare (fun y => { y with moveFrom := some t, held := [], reload := x.reload })
  let u := { u with stalls := u.stalls.map (fun (y : Stall) =>
    if y.replacing && y.moveFrom == some t then { y with moveFrom := some spare } else y) }
  let u := ks.foldl (fun v k => ((v.abandon k).modPitch k (fun y =>
    { y with migrated := true, sinceMove := some 0 })).setBit (Obj.PITCH.PFLAGS k) Bit.PITCH.PFLAGS.MIGRATED) u
  (u.setStall spare .loading).bump Obj.ARRAY.MIGRATIONS

/-- A day book entry about a stall. -/
def State.stallEvent (s : State) (cls : Nat) (t : StallId) : State :=
  s.log { cls := cls, sub := 6, inst := t, index := 0x5010 + t, osub := 1, detail := stallCode s.stalls[t].state }

/-- FATAL_FAULT (R199 to R201): the stall's pitches migrate, or are halted. -/
def State.fatalFault (s : State) (t : StallId) : State :=
  let u := s.modStall t Stall.aborted
  if s.stalls[t].pitches.isEmpty then u
  else match firstSpare s with
    | some p => if secondMove s t then u.haltStall t else u.startMove t p
    | none => (u.haltStall t).stallEvent 5 t

/-- The migration of a SLOW stall (R195, R200). -/
def State.slowMove (s : State) (t : StallId) : State :=
  if secondMove s t then
    let u := s.stalls[t].pitches.foldl (fun v k => v.setBit (Obj.PITCH.PFLAGS k) Bit.PITCH.PFLAGS.OVERLOAD) s
    let u := u.modStall t (fun x => { x with overload := true, slow := false })
    (u.setBit (Obj.STALL.FLAGS t) Bit.STALL.FLAGS.OVERLOAD).arrayFlags
  else match firstSpare s with
    | some p => s.startMove t p
    | none => s.setBit Obj.ARRAY.FLAGS Bit.ARRAY.FLAGS.SPARE_NONE

/-- The program, state regions, parameter blocks and descriptor slots of one stall copied to another (R199 step 3). -/
def State.copyStall (s : State) (a b : StallId) (stateLen : Nat) : State :=
  let t := s.copyWords (stallProg a) (stallProg b) stallProgBytes
  let t := t.copyWords (stallData a) (stallData b) (min 195328 (ceilDiv stateLen 16 * 16))
  t.copyWords (stallData a + 0x2FB00) (stallData b + 0x2FB00) 0x500

def stateBytesOf (s : State) (img : List Byte) (ks : List (Fin 192)) : Nat := (ks.map (fun k => pitchState s img k)).sum

/-- MIGRATION_COPY_END (R199 steps 4 and 5): the spare enters SERVICE at ENTRY_RESUME, and the old stall goes to TEST. -/
def execMigrationCopyEnd (t : StallId) (s : State) : Result :=
  let x := s.stalls[t]
  .next (match x.moveFrom, x.replacing with
  | some a, false =>
    let img := s.imageAt t (x.slot.getD 0)
    let u := s.copyStall a t (stateBytesOf s img x.pitches)
    let u := (u.enterService t img true).modStall t (fun y => { y with reload := x.reload })
    (u.vacate a).setStall a .test
  | _, _ => s)

/-- STL_TEST_END (R199 step 5): the stall becomes a spare, or FAILED with a day book entry. -/
def execStlTestEnd (t : StallId) (pass : Bool) (s : State) : Result :=
  let u := s.put (Obj.STALL.TEST_RESULT t) (if pass then 1 else 2)
  .next (if s.stalls[t].state = .test ∨ s.stalls[t].state = .spare then
    if pass then u.setStall t .spare else (u.setStall t .failed).stallEvent 5 t
  else s)

/-- Whether a stall hosts pitches that wait, halted, for the host (R200). -/
def hostsHalted (s : State) (t : StallId) : Bool := s.stalls[t].pitches.any (fun k => s.pitches[k].halted)

/-- A stall whose pitches are halted stays HALTED under its new image (R200). -/
def State.keepHalted (s : State) (t : StallId) : State := if hostsHalted s t then s.setStall t .halted else s

/-- The next offer of a stall's pitches is their first after a migration or replacement (R193). -/
def State.markMoved (s : State) (ks : List (Fin 192)) : State :=
  ks.foldl (fun v k => (v.modPitch k (fun y => { y with migrated := true })).setBit
    (Obj.PITCH.PFLAGS k) Bit.PITCH.PFLAGS.MIGRATED) s

/-- A stall reloads in place (R207 step 4). -/
def State.reloadInPlace (s : State) (t : StallId) : State :=
  (((s.modStall t (fun x => { x with reload := false, replacing := true })).markMoved s.stalls[t].pitches)).setStall t .loading

/-- The new image of a slot in use is loaded beside each of its stalls (R207 steps 1 and 4); with no spare free a halted stall, which has no
next DONE, reloads at once. -/
def State.startReplacement (s : State) (g : Fin 16) : State :=
  (List.finRange 132).foldl (fun u t =>
    if u.stalls[t].slot = some g ∧ ¬ u.stalls[t].pitches.isEmpty then
      match firstSpare u with
      | some p =>
        let v := u.modStall p (fun y => { y with moveFrom := some t, replacing := true, ready := false, slot := some g })
        v.setStall p .loading
      | none => if u.stalls[t].state = .halted then u.reloadInPlace t else u.modStall t (fun y => { y with reload := true })
    else u) s

/-- The pitches of a replaced stall move to the spare that holds the new image (R207 steps 2 and 3). -/
def State.finishReplacement (s : State) (p a : StallId) : State :=
  let g := s.stalls[p].slot.getD 0
  let img := s.programs[g].image
  let old := s.programs[g].old
  let resume := stateId img == stateId old
  let ks := s.stalls[a].pitches
  let u := if resume then s.copyWords (stallData a) (stallData p) (min 195328 (ceilDiv (stateBytesOf s img ks) 16 * 16)) else s
  let u := u.placeWords (stallProg p) (programBytes img)
  let u := u.modStall a (fun y => { y.aborted with pitches := [] })
  let u := (u.give p g ks).modStall p (fun y => { y with held := [] })
  let u := (ks.foldl (fun v k => v.abandon k) u).markMoved ks
  (((u.enterService p img resume).keepHalted p).vacate a).placedCheck g

/-- The deliveries a stall's unread descriptors stand for, with their local pitches (R193). -/
def unreadOffers (s : State) (t : StallId) : List (Nat × Nat) :=
  s.stalls[t].inq.map (fun i =>
    (fromLe (s.load (stallData t + descriptorAddr i + 60) 1), fromLe (s.load (stallData t + descriptorAddr i + 48) 4)))

/-- Of a stall's offers, those that its program has read are lost with its registers; the unread and the held ones stay (R207 step 4). -/
def State.keepUnread (s : State) (t : StallId) : State :=
  (s.stalls[t].pitches.zipIdx).foldl (fun u e =>
    let stays := fun (v : BitVec 32) => (unreadOffers s t).contains (e.2, v.toNat) || s.stalls[t].held.any (fun h => h.1 == e.1 && h.2.1 == v)
    let w := u.modPitch e.1 (fun x => { x with offers := x.offers.filter stays })
    w.put (Obj.PITCH.LAG e.1) w.pitches[e.1].offers.length) s

/-- PROGRAM_LOAD_END (R207): the image is on the spare, whose pitches move at the next completed delivery; or on the stall that reloads in
place, which starts again. -/
def execProgramLoadEnd (t : StallId) (s : State) : Result :=
  let x := s.stalls[t]
  .next (if x.state = .loading ∧ x.replacing ∧ x.moveFrom.isSome then s.modStall t (fun y => { y with ready := true })
  else if x.state = .loading ∧ x.replacing then
    let g := x.slot.getD 0
    let img := s.programs[g].image
    let resume := stateId img == stateId s.programs[g].old
    let u := (s.keepUnread t).placeWords (stallProg t) (programBytes img)
    ((u.enterService t img resume).keepHalted t).placedCheck g
  else s)

/-- A stall that must reload in place halts at its DONE (R207 step 4). -/
def State.reloadAtDone (s : State) (t : StallId) : State :=
  if s.stalls[t].reload then s.reloadInPlace t else s

/-! ## Pitches (R179, R181, R206, R211) -/

/-- A stall starts with a pitch set at ENTRY_INIT (R206). -/
def State.startStall (s : State) (t : StallId) (g : Fin 16) (ks : List (Fin 192)) : State :=
  let img := s.programs[g].image
  let s := (s.dropLoads t).endMove t
  let u := ks.foldl (fun v j => v.abandon j) (s.give t g ks)
  let u := u.placeWords (stallProg t) (programBytes img)
  let u := u.modStall t (fun x => { x with overload := ks.any (fun k => s.bit (Obj.PITCH.PFLAGS k) Bit.PITCH.PFLAGS.OVERLOAD) })
  (u.enterService t img false).placedCheck g

/-- A pitch leaves its stall: the others start anew as the stall's pitch set, and an empty stall becomes a spare. -/
def State.leaveStall (s : State) (k : Fin 192) : State :=
  match s.pitches[k].host with
  | none => s
  | some h =>
    let t := h.1
    let ks := s.stalls[t].pitches.filter (fun j => j != k)
    let u := ((s.abandon k).modPitch k (fun x => { x with host := none })).put (Obj.PITCH.HOST k) 0xFFFF
    if ks.isEmpty then (((u.dropLoads t).endMove t).vacate t).placedCheck (s.stalls[t].slot.getD 0)
    else u.startStall t (s.stalls[t].slot.getD 0) ks

/-- The stall a new pitch goes to: the lowest spare while fewer than 128 stalls host, else the lowest stall of its program with room. -/
def stallFor (s : State) (k : Fin 192) : Option StallId :=
  let g := pitchSlot s k
  let img := s.programs[g].image
  if hosting s < 128 ∧ (firstSpare s).isSome ∧ fits s img [k] then firstSpare s
  else (List.finRange 132).find? (fun t =>
    s.stalls[t].state == .service && s.stalls[t].slot == some g && !s.stalls[t].pitches.isEmpty &&
    decide (s.stalls[t].pitches.length < 4) && fits s img (s.stalls[t].pitches ++ [k]))

/-- What a pitch's APPLY may change without a restart leaves these as they are (R206). -/
def pitchKeys (s : State) (k : Nat) : List Nat :=
  [s.u (Obj.PITCH.ENABLE k), s.u (Obj.PITCH.PORT k), s.u (Obj.PITCH.SOURCE k), s.u (Obj.PITCH.SET_MASK k),
   s.u (Obj.PITCH.FIRST k), s.u (Obj.PITCH.PCOUNT k), s.u (Obj.PITCH.HALO_LO k), s.u (Obj.PITCH.HALO_HI k),
   s.u (Obj.PITCH.PROGRAM k)]

/-- A pitch's APPLY takes effect at the next completed delivery of its port (R206, R211). -/
def State.applyPitch (s : State) (k : Fin 192) : State :=
  let was := s.pitches[k]
  let t := s.commit (0x5140 + k)
  match was.host with
  | some h =>
    if pitchKeys t k = pitchKeys s k ∧ ¬ was.halted then
      t.placeWords (stallData h.1 + 0x2FC00 + 256 * h.2) (padTo 256 (t.blob (Obj.PITCH.PARAM k)))
    else
      let t := t.modPitch k (fun x => { x with halted := false, sinceMove := none, migrated := false })
      let t := (t.clrBit (Obj.PITCH.PFLAGS k) Bit.PITCH.PFLAGS.HALTED).clrBit (Obj.PITCH.PFLAGS k) Bit.PITCH.PFLAGS.OVERLOAD
      let stay := t.u (Obj.PITCH.ENABLE k) == 1 && t.u (Obj.PITCH.PROGRAM k) == s.u (Obj.PITCH.PROGRAM k) &&
        fits t t.programs[pitchSlot t k].image t.stalls[h.1].pitches
      let t := if stay then t.startStall h.1 (pitchSlot t k) t.stalls[h.1].pitches
        else
          let u := t.leaveStall k
          if u.u (Obj.PITCH.ENABLE k) = 1 then
            match stallFor u k with
            | some d => u.startStall d (pitchSlot u k) (u.stalls[d].pitches ++ [k])
            | none => u
          else u
      (t.arrayFlags).countUsers
  | none =>
    if t.u (Obj.PITCH.ENABLE k) = 1 then
      match stallFor t k with
      | some d => (t.startStall d (pitchSlot t k) (t.stalls[d].pitches ++ [k])).countUsers
      | none => t
    else t

/-! ## Offers (R183, R193 to R195) -/

/-- Whether a pitch takes a delivery (R183). -/
def takes (s : State) (n : Port) (d : Delivery) (k : Fin 192) : Bool :=
  s.pitches[k].host.isSome && s.u (Obj.PITCH.PORT k) == n.val && s.u (Obj.PITCH.SOURCE k) + 1 == d.kind &&
  (d.kind == 3 || (s.u (Obj.PITCH.SET_MASK k)).testBit d.set)

/-- A delivery is skipped for a pitch (R194). -/
def State.skipFor (s : State) (n : Port) (d : Delivery) (k : Fin 192) : State :=
  (s.bump (Obj.PITCH.SKIPPED k)).resolve (pitchSlot s k) n d.deliv k .skipped

/-- A delivery is offered to a pitch (R193, R194): its descriptor is written, or held back while the stall loads. -/
def State.offerTo (s : State) (n : Port) (d : Delivery) (k : Fin 192) (t : StallId) (decim : Bool) : State :=
  let x := s.stalls[t]
  if 4 ≤ x.inq.length + x.held.length + (if x.lastPop.isSome then 1 else 0) then s.skipFor n d k
  else
    let standby := s.twinned n && s.u Obj.TWIN.ROLE != 2
    let flags := bit8 decim 0 + bit8 s.pitches[k].migrated 1 + bit8 standby 2
    let u := if x.state = .loading then s.modStall t (fun y => { y with held := y.held ++ [(k, d.deliv, flags)] })
      else s.writeDescriptor t k d flags
    let u := u.modPitch k (fun y => { y with offers := y.offers ++ [d.deliv], migrated := false })
    let u := (u.bump (Obj.PITCH.OFFERED k)).put (Obj.PITCH.LAG k) u.pitches[k].offers.length
    if decim then u.bump (Obj.PITCH.DECIMATED k) else u

/-- SLOW (R195). -/
def State.markSlow (s : State) (t : StallId) : State :=
  if s.stalls[t].slow ∨ s.stalls[t].overload then s
  else (s.modStall t (fun x => { x with slow := true })).logFlag (Obj.STALL.FLAGS t) Bit.STALL.FLAGS.SLOW true 6 t

/-- OFFER (R194, R195, R527): a completed delivery meets one pitch that takes it; one of a halted stall has it resolved as halted. -/
def State.offer (s : State) (n : Port) (d : Delivery) (k : Fin 192) : State :=
  let x := s.pitches[k]
  match x.host with
  | none => s
  | some h =>
    if x.halted ∨ s.stalls[h.1].debugHalt then s.resolve (pitchSlot s k) n d.deliv k .haltedNow
    else
      let lag := x.offers.length
      let run := if 3 ≤ lag then min 16 (x.lagRun + 1) else 0
      let skip := decide (3 ≤ lag) && x.skipNext
      let t := s.modPitch k (fun y =>
        { y with
          skipNext := if 3 ≤ lag then !x.skipNext else true, lagRun := run,
          sinceMove := match x.sinceMove with
            | some c => if c + 1 < 1024 then some (c + 1) else none
            | none => none })
      let t := if skip then t.skipFor n d k else t.offerTo n d k h.1 (decide (3 ≤ lag))
      if run = 16 then t.markSlow h.1 else t

/-! ## Brillouin buffers (R210) -/

/-- Whether a program slot runs the library's BRL_FIT. -/
def runsFit (s : State) (g : Fin 16) : Bool :=
  s.u (Obj.PROGRAM_SLOT.LIB_ID g) == 0x20 && s.u (Obj.PROGRAM_SLOT.SIGNED g) == 1

/-- A Brillouin buffer is released when every BRL_FIT pitch of the port has resolved the sweep's delivery with RELEASE set or by skip
(R210); where no slot that takes it runs BRL_FIT, the pitches that take it count (log entry 51). -/
def State.releaseBuffer (s : State) (n : Port) (d : BitVec 32) : State :=
  let rs := (s.array.reorder ++ s.array.sweeps).filter (fun r => r.port == n && r.deliv == d && r.kind == 3)
  let fits := rs.filter (fun r => runsFit s r.slot)
  let ok := fun (r : Resolved) => match r with
    | .done _ rel => rel
    | .skipped => true
    | _ => false
  match rs with
  | [] => s
  | r :: _ =>
    if (if fits.isEmpty then rs else fits).all (fun r => r.pitches.all (fun e => ok e.2)) then
      let t := releaseEff s n (imageField r.trailer 4 1)
      { t with array := { t.array with sweeps := t.array.sweeps.filter (fun x => !(x.port == n && x.deliv == d)) } }
    else s

/-- The mean of a list of powers. -/
def meanOf (l : List Rat) : Rat := l.sum / l.length

/-- The powers of a bin at the steps of a sweep (R173, R177): each step's sum over its ADDED count, from a buffer's address and N_STEPS. A step
to which no shot was added has no stated power (log entry 94). -/
def binSteps (s : State) (a steps bin : Nat) : List Rat :=
  (List.range steps).map (fun k =>
    let added := fromLe (s.load (a + 32 + 2 * k) 2)
    let sum := fromLe (s.load (a + 32 + addedBytes steps + (bin * steps + k) * 4) 4)
    if added = 0 then Config.noShots k else (sum : Rat) / added)

/-- The step of largest power. -/
def peakStep (ps : List Rat) : Nat := (ps.zipIdx).foldl (fun b e => if ps.getD b 0 < e.1 then e.2 else b) 0

/-- The contiguous steps about the peak at or above half of it (R177). -/
def fitSteps (ps : List Rat) (m : Nat) : List Nat :=
  let high := fun (k : Nat) => decide (ps.getD m 0 ≤ 2 * ps.getD k 0)
  (((List.range m).reverse).takeWhile high).reverse ++ ((List.range' m (ps.length - m)).takeWhile high)

/-- The floor: the mean power over the quarter of the steps farthest from the peak (R177). -/
def floorOf (ps : List Rat) (m : Nat) : Rat :=
  let far := (List.range ps.length).insertionSort (fun a b => (max b m - min b m) ≤ (max a m - min a m))
  meanOf ((far.take (ps.length / 4)).map (fun k => ps.getD k 0))

/-- The two words of a bin that BRL_FIT emits (R177): the shift in kHz and the width in 10 kHz that the fit gives, and quality; shift 0 and
quality 0 over fewer than 5 steps or with the peak at an end. -/
def fitWords (ps : List Rat) (fStart fStep : Int) : Nat × Nat :=
  let m := peakStep ps
  let ks := fitSteps ps m
  let fit := Config.lorentz (ks.map (fun (k : Nat) => (fStart + (k : Int) * fStep, ps.getD k 0)))
  if ks.length < 5 ∨ m = 0 ∨ m + 1 = ps.length then (0, 2 ^ 16 * (fit.2 % 2 ^ 16))
  else
    let fl := floorOf ps m
    let q := if fl ≤ 0 then (Config.zeroFloor.toNat) else quarterDb 255 (ps.getD m 0 / fl)
    (fit.1 % 2 ^ 32, 2 ^ 16 * (fit.2 % 2 ^ 16) + q)

/-- Whether some words that a bin's fit reads are poisoned: the ADDED counts or its own sums. -/
def binBad (s : State) (a steps bin : Nat) : Bool :=
  let hit := fun (b n w : Nat) => decide (b < w + 16) && decide (w < b + n)
  s.poison.any (fun w => hit (a + 32) (2 * steps) w || hit (a + 32 + addedBytes steps + bin * steps * 4) (4 * steps) w)

/-- The result block of a BRL_FIT pitch: two words for each of its bins, from the spectrum buffer of the sweep (R177); a bin with a
poisoned word has shift 0 and quality 0 (R326). -/
def fitBytes (s : State) (n : Port) (k : Fin 192) (trailer : List Byte) : List Byte :=
  let a := bufferAddr s n (imageField trailer 4 1)
  let bins := imageField trailer 8 4
  let steps := imageField trailer 12 2
  let fStart : Int := imageField (s.load a 16) 12 4
  let fStep : Int := toSigned 32 (fromLe (s.load (a + 16) 4))
  ((List.range (s.u (Obj.PITCH.PCOUNT k))).map (fun i =>
    let b := s.u (Obj.PITCH.FIRST k) + i
    let w := fitWords (if b < bins ∧ !binBad s a steps b then binSteps s a steps b else []) fStart fStep
    le 4 w.1 ++ le 4 w.2)).flatten

/-- The porter reads the words of a sweep's buffer that a BRL_FIT pitch fits (R323, R324). -/
def State.readSpectrum (s : State) (n : Port) (d : BitVec 32) (k : Fin 192) (g : Fin 16) : State :=
  match s.array.reorder.find? (fun r => recFor g n d r && r.kind == 3) with
  | none => s
  | some r =>
    let a := bufferAddr s n (imageField r.trailer 4 1)
    let steps := imageField r.trailer 12 2
    let sums := a + 32 + addedBytes steps
    (s.seePoison a (32 + addedBytes steps)).seePoison (sums + s.u (Obj.PITCH.FIRST k) * steps * 4) (s.u (Obj.PITCH.PCOUNT k) * steps * 4)

/-- The block that the library's BRL_FIT has put for a sweep by its DONE (R177): the program's code is not given, its words are (log
entry 94). -/
def State.fitBlock (s : State) (g : Fin 16) (n : Port) (d : BitVec 32) (k : Fin 192) : State :=
  if runsFit s g then
    let s := s.readSpectrum n d k g
    { s with array := { s.array with reorder := s.array.reorder.map (fun (r : ReorderRec) =>
      if recFor g n d r && r.kind == 3 then
        { r with blocks := ⟨k, 0, fitBytes s n k r.trailer, []⟩ :: r.blocks.filter (fun b => !(b.pitch == k && b.output == 0)) }
      else r) } }
  else s

/-! ## A delivery is complete (R182, R183) -/

/-- Where a port's ring stands in the yard (log entry 12). -/
def ringArea (n : Port) : Nat := yardBase + Config.place (Obj.SCHEDULER.ENABLE n).key

/-- The bytes a ring slot takes, in whole words (R182). -/
def slotBytes (s : State) (n : Port) : Nat := 16 * ceilDiv (ringWords s.u n) 4

/-- The slot of a ring that a delivery occupies (R182). -/
def slotOf (len : Nat) (d : BitVec 32) : Nat := d.toNat % max 1 len

/-- What the slots of a ring hold of some deliveries, newest first: each slot the newest that occupies it (R182). -/
def ringKeep (len : Nat) (l : List Delivery) : List Delivery :=
  l.foldl (fun acc d => if acc.any (fun e => slotOf len e.deliv == slotOf len d.deliv) then acc else acc ++ [d]) []

/-- A delivery takes its slot of the port's ring (R182); streams lose what they had not read of the delivery it held (R365). -/
def State.ringPut (s : State) (n : Port) (d : Delivery) : State :=
  let kept := ringKeep s.pipes[n].ringLen (d :: s.pipes[n].ring)
  let gone := s.pipes[n].ring.filter (fun e => !kept.any (fun x => x.deliv == e.deliv))
  let t := (s.modPipe n (fun p => { p with ring := kept })).dropFlips
    (ringArea n + slotOf s.pipes[n].ringLen d.deliv * slotBytes s n) (slotBytes s n)
  if gone.isEmpty then t
  else t.overtake (fun it => it.kind == 1 && it.src == n.val && gone.any (fun e => e.deliv == it.item))

/-- The reorder records of a completed delivery (R197). -/
def State.openRecords (s : State) (n : Port) (d : Delivery) : State :=
  (List.finRange 16).foldl (fun t g =>
    let ks := (List.finRange 192).filter (fun k => takes s n d k && pitchSlot s k == g)
    if ks.isEmpty then t
    else { t with array := { t.array with reorder := t.array.reorder ++
      [⟨g, n, d.deliv, d.kind, d.header, d.trailer, ks.map (fun k => (k, .open)), []⟩] } }) s

/-- The word that was written at a word index of a delivery (R192); none outside its contents. -/
def writtenWord (d : Delivery) (i : Nat) : Option (BitVec 32) :=
  let n := if d.kind = 3 then 0 else d.last + 1 - d.first
  let ofBytes := fun (l : List Byte) (j : Nat) => BitVec.ofNat 32 (fromLe (slice l (4 * j) 4))
  if i < 8 then some (ofBytes d.header i)
  else if i - 8 < n then some (if d.first + (i - 8) < d.validEnd then d.body.getD (i - 8) 0 else zeroWord (if d.kind = 1 then d.outMode else 0))
  else if i - 8 - n < 4 then some (ofBytes d.trailer (i - 8 - n))
  else none

/-- The word the ring gives at a word index of a delivery (R192); none outside the slot's contents. A word of the slot that was changed since it
was written reads as it stands. -/
def ringWord (d : Delivery) (i : Nat) : Option (BitVec 32) :=
  match d.changed.find? (fun e => e.1 == i) with
  | some e => some e.2
  | none => writtenWord d i

/-- A point's word of a delivery, the quality-0 word outside P_FIRST to VALID_END - 1 (R192). -/
def pointOf (d : Delivery) (p : Nat) : BitVec 32 :=
  if d.first ≤ p ∧ p ≤ d.last then (ringWord d (8 + (p - d.first))).getD 0 else zeroWord (if d.kind = 1 then d.outMode else 0)

/-- The point words of a poisoned 16-byte word read as quality 0 (R326). -/
def pointClean (d : Delivery) (p : Nat) : BitVec 32 :=
  if d.first ≤ p ∧ d.poisoned.contains ((8 + (p - d.first)) / 4) then zeroWord (if d.kind = 1 then d.outMode else 0) else pointOf d p

/-- The points a POINTS stream takes of a delivery (R355): the whole body with P_COUNT 0. -/
def streamPoints (s : State) (d : Delivery) (k : Fin 256) : List Nat :=
  let c := s.u (Obj.STREAM.P_COUNT k)
  if d.kind = 3 then []
  else if c = 0 then (List.range (d.last + 1 - d.first)).map (d.first + ·)
  else (List.range c).map (s.u (Obj.STREAM.P_FIRST k) + ·)

/-- Whether a 32-bit word of a ring slot, by index, lies in a poisoned 16-byte word. -/
def Delivery.badWord (d : Delivery) (i : Nat) : Bool := d.poisoned.contains (i / 4)

/-- Where a delivery's trailer begins in its slot, in words (R182). -/
def Delivery.trailerAt (d : Delivery) : Nat := 8 + (if d.kind = 3 then 0 else d.last + 1 - d.first)

/-- Words of a header or trailer as a stream takes them, from a word of the slot on: zeros where they lie poisoned (R366). -/
def Delivery.cleanWords (d : Delivery) (at' n : Nat) : List Byte :=
  (List.range n).flatMap (fun i => if d.badWord (at' + i) then le 4 0 else le 4 ((ringWord d (at' + i)).getD 0).toNat)

/-- The header and trailer words of a delivery that a stream finds poisoned, as offsets in an item with some points. -/
def Delivery.badOffsets (d : Delivery) (points : Nat) : List Nat :=
  ((List.range 8).filter d.badWord).map (4 * ·) ++
  ((List.range 4).filter (fun j => d.badWord (d.trailerAt + j))).map (fun j => 32 + 4 * points + 4 * j)

/-- Where an item with some points meets the poisoned 16-byte words of a slot, each at the first word it takes of it (R323). -/
def Delivery.seenAt (d : Delivery) (ps : List Nat) : List Nat :=
  let pts := ps.zipIdx.filterMap (fun e => if d.first ≤ e.1 ∧ e.1 ≤ d.last then some (8 + (e.1 - d.first), 32 + 4 * e.2) else none)
  let ws := (List.range 8).map (fun i => (i, 4 * i)) ++ pts ++
    (List.range 4).map (fun j => (d.trailerAt + j, 32 + 4 * ps.length + 4 * j))
  ((ws.filter (fun w => d.badWord w.1)).foldl (fun acc w => if acc.any (fun x => x.1 == w.1 / 4) then acc else acc ++ [(w.1 / 4, w.2)]) []).map
    (·.2)

/-- A POINTS item (R355, R366). -/
def pointsItem (s : State) (n : Port) (d : Delivery) (k : Fin 256) : Item :=
  let ps := streamPoints s d k
  ⟨1, n, d.deliv, d.cleanWords 0 8 ++ (ps.map (fun p => le 4 (pointClean d p).toNat)).flatten ++ d.cleanWords d.trailerAt 4,
    fromLe (slice d.header 8 8), true, d.badOffsets ps.length, false, if d.poisoned.isEmpty then [] else d.seenAt ps⟩

/-- A delivery with a 16-byte word of its slot changed, poisoned or not. -/
def Delivery.withWord (d : Delivery) (i : Nat) (v : BitVec 128) (x : Bool) : Delivery :=
  let new := (List.range 4).filterMap (fun j =>
    let w := v.extractLsb' (32 * j) 32
    if (writtenWord d (4 * i + j)).isSome && ringWord d (4 * i + j) != some w then some (4 * i + j, w) else none)
  { d with changed := new ++ d.changed.filter (fun e => !new.any (fun f => f.1 == e.1)),
           poisoned := (if x then [i] else []) ++ d.poisoned.filter (· != i) }

/-- A word of a port's ring, in a slot that holds a delivery; words that none has written stay open. -/
def ringHolder (s : State) (n : Port) (a : Nat) : Option Holder :=
  let z := slotBytes s n
  let o := a - ringArea n
  let p := s.pipes[n]
  if a < ringArea n ∨ p.ringLen * z ≤ o then none
  else (p.ring.find? (fun d => slotOf p.ringLen d.deliv == o / z)).map (fun d =>
    let i := o % z / 16
    ⟨(List.range 4).foldr (fun j (acc : BitVec 128) => acc <<< 32 |||
        ((ringWord d (4 * i + j)).getD (BitVec.ofNat 32 (fromLe (openBytes s.fresh 4)))).setWidth 128) 0, d.poisoned.contains i,
      fun v x t =>
        let d' := d.withWord i v x
        (t.modPipe n (fun q => { q with ring := q.ring.map (fun e => if e.deliv = d.deliv then d' else e) })).refresh
          (fun it => it.kind == 1 && it.src == n.val && it.item == d.deliv) (fun k => pointsItem t n d' k)⟩)

/-- STREAM_ITEM of a completed delivery (R355, R356). -/
def State.streamDelivery (s : State) (n : Port) (d : Delivery) : State :=
  let takes := fun (k : Fin 256) => s.u (Obj.STREAM.PORT k) == n.val &&
    d.deliv.toNat % max 1 (s.u (Obj.STREAM.DECIM_T k)) == 0 &&
    (d.kind == 3 || (s.u (Obj.STREAM.SEL k)).testBit d.set)
  s.toStreams 0 takes (pointsItem s n d)

/-- The stalls whose pitches' move waits for a completed delivery that one of them takes (R195, R207). -/
def State.movesDue (s : State) (n : Port) (d : Delivery) : State :=
  (List.finRange 132).foldl (fun u t =>
    let x := u.stalls[t]
    match x.moveFrom with
    | some a =>
      if x.replacing ∧ x.ready ∧ (u.stalls[a].state = .service ∨ u.stalls[a].state = .halted) ∧
          u.stalls[a].pitches.any (fun k => takes u n d k) then u.finishReplacement t a else u
    | none => if x.slow ∧ x.state = .service ∧ !x.debugHalt ∧ x.pitches.any (fun k => takes u n d k) then u.slowMove t else u) s

/-- What a completed delivery does to the array (R182, R183, R194 to R199, R206, R207). -/
def State.completeDelivery (s : State) (n : Port) (d : Delivery) : State :=
  let t := s.commitIf 0x5000
  let t := t.modPipe n (fun p => { p with ringLen := t.u Obj.ARRAY.RING_SHOTS })
  let t := (List.finRange 192).foldl (fun u k =>
    if u.isApplying (0x5140 + k) && u.us (Obj.PITCH.PORT k) == n.val then u.applyPitch k else u) t
  let t := t.ringPut n d
  let t := t.movesDue n d
  let t := t.openRecords n d
  let t := (List.finRange 192).foldl (fun u k => if takes t n d k then u.offer n d k else u) t
  let t := (if d.kind = 3 then t.releaseBuffer n d.deliv else t).releasePort n
  t.streamDelivery n d

/-! ## IMAGE (R202, R203, R205, R207) -/

/-- The refusal of an image whose allocations the yard or the pool does not hold (R182, R337), or of any while there is no program store (R338). -/
def imageSpare (s : State) (g : Fin 16) (l : List Byte) : Nat :=
  let inUse := s.u (Obj.PROGRAM_SLOT.USERS g) != 0
  let yard := Obj.PROGRAM_SLOT.YARD_ALLOC g
  let dram := Obj.PROGRAM_SLOT.DRAM_ALLOC g
  let next := fun (r : Reg) (off : Nat) => max (if inUse then s.u r else 0) (imageField l off 4)
  let reader := fun (r : Reg) => if r.key = yard.key then next yard 32 else s.u r
  let old := granules (s.u dram)
  let new := granules (next dram 36)
  if s.dramFailed ∨ (yardCapacity s < yardUsed reader ∧ yardUsed reader ≠ yardUsed s.u) ∨ (new ≠ old ∧ poolFree s < new) then 0x0601 else 0

/-- Whether an image passes the checks of R203. -/
def imageGood (l : List Byte) : Bool :=
  decide (84 ≤ l.length) && imageField l 0 2 == 1 && codeLen l % 4 == 0 && decide (codeLen l ≤ 32768) &&
  l.length == 84 + codeLen l && fromLe (l.drop (80 + codeLen l)) == (crc32c (l.take (80 + codeLen l))).toNat

/-- The effect of an image that is accepted: the slot takes it, and one in use is replaced in service. -/
def imageEff (s : State) (g : Fin 16) (l : List Byte) (signed : Bool) : State :=
  let inUse := s.u (Obj.PROGRAM_SLOT.USERS g) != 0
  let t := s.modProgram g (fun p => { p with image := l, old := p.image, placing := inUse })
  let t := t.put (Obj.PROGRAM_SLOT.PROG_ID g) (imageField l 4 4)
  let t := t.put (Obj.PROGRAM_SLOT.VERSION g) (imageField l 8 4)
  let t := t.put (Obj.PROGRAM_SLOT.YARD_ALLOC g) (max (if inUse then s.u (Obj.PROGRAM_SLOT.YARD_ALLOC g) else 0) (imageField l 32 4))
  let t := t.put (Obj.PROGRAM_SLOT.DRAM_ALLOC g) (max (if inUse then s.u (Obj.PROGRAM_SLOT.DRAM_ALLOC g) else 0) (imageField l 36 4))
  let t := t.put (Obj.PROGRAM_SLOT.LOAD_STATUS g) 0
  let t := t.put (Obj.PROGRAM_SLOT.SIGNED g) (if signed then 1 else 0)
  if inUse then (t.startReplacement g).placedCheck g else t

end Sys2Proof.Machine
end

