-- ==== Sys2Proof/Machine/Porter.lean ====
section
/-! DEFINITION. The porter (R185 to R193, R232 to R235): descriptors, spaces, the seven transactions; the flags and traps of a stall
(R243 to R246). -/

namespace Sys2Proof.Machine

/-! ## Flags and traps (R208, R243 to R246) -/

/-- Whether a stall issues instructions: in SERVICE or TEST, and neither leaving its pitches nor halted by the debugger. -/
def Stall.running (x : Stall) : Bool :=
  (x.state == .service || x.state == .test) && !x.debugHalt && x.moveTo.isNone

/-- The copy of a stall's FLAGS in its Ledger record. -/
def State.syncFlags (s : State) (t : StallId) : State :=
  s.put (Obj.STALL.FLAGS t) (s.u (Obj.STALL.FLAGS t) % 4 + 4 * s.stalls[t].flags.toNat)

/-- TRAP (R246): the cause is recorded, the return address pushed, traps masked and ENTRY_TRAP entered; FATAL_FAULT without a handler,
in the handler, or when the push would overflow. -/
def State.takeTrap (s : State) (t : StallId) (cause : Nat) : State :=
  let x := s.stalls[t]
  if x.entryTrap = 0 ∨ x.masked ∨ 8 ≤ x.rets.length then s.fatalFault t
  else (s.modStall t (fun y =>
    { y with
      trapCause := BitVec.ofNat 11 (2 ^ cause), rets := y.pc :: y.rets, masked := true, pend := none,
      pc := y.entryTrap })).bump (Obj.STALL.TRAPS t)

/-- A trap that a flag owes at the next instruction boundary. -/
def State.takePending (s : State) (t : StallId) : State :=
  match s.stalls[t].pend with
  | none => s
  | some b => if s.stalls[t].masked then s.modStall t (fun x => { x with pend := none }) else s.takeTrap t b

/-- Hardware sets a sticky flag (R243, R244): one that read 0, is enabled and not masked traps at the instruction boundary. -/
def State.raiseFlag (s : State) (t : StallId) (b : Fin 6) : State :=
  let x := s.stalls[t]
  let fresh := !x.flags.getLsbD b && x.trapEn.getLsbD b && !x.masked
  let u := (s.modStall t (fun y =>
    { y with flags := y.flags ||| BitVec.ofNat 6 (2 ^ b.val), pend := if fresh then some b else y.pend })).syncFlags t
  if fresh && x.running then u.takePending t else u

/-! ## Descriptors (R232) -/

def dKind (d : List Byte) : Nat := imageField d 0 1
def dSpace (d : List Byte) : Nat := imageField d 1 1
def dLen (d : List Byte) : Nat := imageField d 2 2
def dLocal (d : List Byte) : Nat := imageField d 4 4
def dRemote (d : List Byte) : Nat := imageField d 8 8
def dIndex (d : List Byte) : Nat := imageField d 16 4
def dRows (d : List Byte) : Nat := imageField d 20 2
def dFlags (d : List Byte) : Nat := imageField d 22 1
def dLStride (d : List Byte) : Int := toSigned 32 (imageField d 24 4)
def dRStride (d : List Byte) : Int := toSigned 32 (imageField d 28 4)
def dDeliv (d : List Byte) : BitVec 32 := BitVec.ofNat 32 (dRemote d)

def is2d (d : List Byte) : Bool := dKind d == 2 || dKind d == 3

/-- The rows of a transfer: their local offset, and their distance from the remote start, in bytes. -/
def dRowList (d : List Byte) : List (Int × Int) :=
  (List.range (if is2d d then dRows d else 1)).map (fun r => ((dLocal d : Int) + r * dLStride d, (r : Int) * dRStride d))

/-- Whether a descriptor's sizes, strides and local span are in order (R233), of whatever kind it is. -/
def localGood (d : List Byte) : Bool :=
  decide (1 ≤ dLen d) && decide (dLen d ≤ 4096) && dLocal d % 16 == 0 && dLStride d % 16 == 0 && dRStride d % 16 == 0 &&
  (!is2d d || (decide (1 ≤ dRows d) && decide (dRows d ≤ 1024))) &&
  (dRowList d).all (fun r => decide (0 ≤ r.1) && decide (r.1 + 16 * dLen d ≤ 0x2FB00))

/-! ## Spaces (R186) -/

/-- Where a program slot's shared areas stand (R186; log entry 12). -/
def yardArea (g : Fin 16) : Nat := yardBase + Config.place ((0x5110 + g) * 256 + 5)
def dramArea (g : Fin 16) : Nat := dramBase + Config.place ((0x5110 + g) * 256 + 6)

/-- The start of `n` bytes at an offset of an area of `limit` bytes; none outside it. -/
def inArea (base limit : Nat) (off : Int) (n : Nat) : Option Nat :=
  if 0 ≤ off ∧ off + n ≤ limit then some (base + off.toNat) else none

/-- An absolute address inside a Brillouin buffer held for the port of one of the stall's pitches (R232). -/
def inBuffer (s : State) (t : StallId) (a : Int) (n : Nat) : Option Nat :=
  let held := s.stalls[t].pitches.any (fun k =>
    let p : Port := ⟨s.u (Obj.PITCH.PORT k) % 8, Nat.mod_lt _ (by decide)⟩
    [0, 1].any (fun b => s.bufHeld p b && decide ((bufferAddr s p b : Int) ≤ a) &&
      decide (a + n ≤ (bufferAddr s p b + s.bril[p].sizes.getD b 0 : Nat))))
  if held then some a.toNat else none

/-- The address of one row of a YARD or DRAM transfer. -/
def remoteRow (s : State) (t : StallId) (d : List Byte) (off : Int) : Option Nat :=
  let g := s.stalls[t].slot.getD 0
  let n := 16 * dLen d
  if dSpace d = 1 then
    if dRemote d % 16 = 0 then inArea (yardArea g) (s.u (Obj.PROGRAM_SLOT.YARD_ALLOC g)) ((dRemote d : Int) + off) n else none
  else if dRemote d % 16 ≠ 0 then none
  else if dRemote d < 2 ^ 63 then inArea (dramArea g) (s.u (Obj.PROGRAM_SLOT.DRAM_ALLOC g)) ((dRemote d : Int) + off) n
  else inBuffer s t ((dRemote d % 2 ^ 63 : Nat) + off) n

def allSome {α : Type} : List (Option α) → Option (List α)
  | [] => some []
  | none :: _ => none
  | some a :: r => (allSome r).map (a :: ·)

/-! ## Completion (R188) -/

/-- The sticky flag of a status (R243): POISON 2, STALE 3, FAULT 4, FULL 6. -/
def flagOfStatus : Nat → Option (Fin 6)
  | 2 => some 2
  | 3 => some 3
  | 4 => some 4
  | 6 => some 5
  | _ => none

/-- A transaction completes with a status, and its flag is set (R188, R235). -/
def State.completeTag (s : State) (t : StallId) (g : Fin 16) (st : Nat) : State :=
  let u := s.modStall t (fun x => { x with t := x.t.set g { x.t[g] with status := BitVec.ofNat 4 st, flight := none } })
  match flagOfStatus st with
  | none => u
  | some b => u.raiseFlag t b

/-- The transaction in flight on a tag, when it is of the kind named. -/
def inFlight (s : State) (t : StallId) (g : Fin 16) (kind : Nat) : Option Transaction :=
  match s.stalls[t].t[g].flight with
  | none => none
  | some tr => if dKind tr.desc = kind then some tr else none

/-! ## GET, PUT (R187 to R192) -/

/-- Whether a local byte lies in the destination of a GET whose tag no WAIT has returned for (R225). -/
def unsettled (x : Stall) (a : Nat) : Bool :=
  x.t.toList.any (fun g => g.gets.any (fun d => localGood d &&
    (dRowList d).any (fun r => decide (r.1 ≤ (a : Int)) && decide ((a : Int) < r.1 + 16 * dLen d))))

/-- Whether every GET of a stall has been waited for. -/
def settled (x : Stall) : Bool := x.t.toList.all (fun g => g.gets.isEmpty)

/-- Bytes the stall's own instructions and transactions find in local memory: free ones, from draw `base` on, in words that are undefined
under R225. -/
def State.localBytes (s : State) (t : StallId) (a n base : Nat) : List Byte :=
  if settled s.stalls[t] then s.load (stallData t + a) n
  else ((s.load (stallData t + a) n).zipIdx).map (fun e =>
    if unsettled s.stalls[t] (a + e.2) then Config.undefinedByte (s.fresh + base + e.2) else e.1)

/-- Whether a local word is found poisoned; free where the word is undefined. -/
def State.localPoison (s : State) (t : StallId) (a base : Nat) : Bool :=
  if settled s.stalls[t] then s.poisoned (stallData t + a)
  else if unsettled s.stalls[t] a then (Config.undefinedByte (s.fresh + base)).getLsbD 0 else s.poisoned (stallData t + a)

def State.localWords (s : State) (t : StallId) : Nat → Nat → Nat → List (List Byte × Bool)
  | _, 0, _ => []
  | a, n + 1, base => (s.localBytes t a 16 base, s.localPoison t a (base + 16)) :: s.localWords t (a + 16) n (base + 17)

/-- The draws of a local access pass, where it could meet undefined words. -/
def State.drewLocal (s : State) (t : StallId) (n : Nat) : State :=
  if settled s.stalls[t] then s else { s with fresh := s.fresh + n }

def undefinedBytes (s : State) (n : Nat) : List Byte := (List.range n).map (fun i => Config.undefinedByte (s.fresh + i))

def State.drewMany (s : State) (n : Nat) : State := { s with fresh := s.fresh + n }

/-- The 16-byte word at word index `i` of a ring slot, with its poison mark; contents no delivery has written stay open. -/
def ringBytes (s : State) (d : Option Delivery) (i : Nat) : List Byte × Bool :=
  match d with
  | none => (undefinedBytes s 16, false)
  | some v =>
    (((List.range 4).map (fun j => match ringWord v (i + j) with
      | some w => le 4 w.toNat
      | none => undefinedBytes s 4)).flatten, v.poisoned.contains (i / 4))

/-- What a RING read finds in the slot of a delivery: the delivery itself, a later one (none), or other contents. -/
inductive RingFind where
  | held (d : Delivery) | later | other (d : Option Delivery)
deriving DecidableEq, Repr

def ringFind (p : PipePart) (d : BitVec 32) : RingFind :=
  match inRing p d with
  | some x => .held x
  | none =>
    match p.ring.find? (fun x => slotOf p.ringLen x.deliv == slotOf p.ringLen d) with
    | none => .other none
    | some x => if 1 ≤ behind d x.deliv ∧ behind d x.deliv < 2 ^ 31 then .later else .other (some x)

/-- The stall's first pitch on a port, whose STALE counter a RING read of that port moves. -/
def pitchOnPort (s : State) (t : StallId) (n : Nat) : Option (Fin 192) :=
  s.stalls[t].pitches.find? (fun k => s.u (Obj.PITCH.PORT k) == n)

def storeRows (t : StallId) : State → List ((Int × Int) × List (List Byte × Bool)) → State
  | s, [] => s
  | s, (r, ws) :: rest => storeRows t (s.storeWords (stallData t + r.1.toNat) ws) rest

/-- The word of a slot at which a row of a RING read begins; the row strides are signed (R187). -/
def ringRow (d : List Byte) (r : Int × Int) : Nat := ((dIndex d : Int) + r.2 / 4).toNat

/-- Whether a RING read meets poisoned words in a slot's contents (R188). -/
def ringBad (v : Option Delivery) (d : List Byte) : Bool :=
  match v with
  | none => false
  | some v => (dRowList d).any (fun r => (List.range (dLen d)).any (fun i => v.poisoned.contains (ringRow d r / 4 + i)))

/-- The words of a delivery's slot that a RING read takes are read (R323, R324). -/
def State.readSlot (s : State) (n : Port) (d : List Byte) (v : Delivery) : State :=
  if v.poisoned.isEmpty && s.flips.isEmpty then s
  else
    let base := ringArea n + slotOf s.pipes[n].ringLen v.deliv * slotBytes s n
    (dRowList d).foldl (fun u r => (List.range (dLen d)).foldl (fun (w : State) i =>
      let a := base + 16 * (ringRow d r / 4 + i)
      match ringHolder w n a with
      | some h => w.readAt a h
      | none => w) u) s

/-- The delivery of a port's ring that has some DELIV. -/
def ringNow (s : State) (n : Port) (v : Delivery) : Delivery := (inRing s.pipes[n] v.deliv).getD v

/-- A RING read (R186, R188, R192). -/
def State.getRing (s : State) (t : StallId) (g : Fin 16) (d : List Byte) : State :=
  let n := dRemote d / 2 ^ 32 % 8
  let n' : Port := ⟨n, Nat.mod_lt _ (by decide)⟩
  let p := s.pipes[n']
  let lim : Int := 4 * ringWords s.u ⟨n, Nat.mod_lt _ (by decide)⟩
  let rows := dRowList d
  let good := dIndex d % 4 == 0 && rows.all (fun r =>
    decide (0 ≤ 4 * (dIndex d : Int) + r.2) && decide (4 * (dIndex d : Int) + r.2 + 16 * dLen d ≤ lim))
  if !good then s.completeTag t g 4
  else
    let put := fun (s : State) (f : Nat → List Byte × Bool) => storeRows t s (rows.map (fun r =>
      (r, (List.range (dLen d)).map (fun i => f (ringRow d r + 4 * i)))))
    let take := fun (v : Delivery) =>
      let s := s.readSlot n' d v
      let v := ringNow s n' v
      ((put s (ringBytes s (some v))).drewMany 16).completeTag t g (if ringBad (some v) d then 2 else 1)
    match ringFind p (dDeliv d) with
    | .held v => take v
    | .other (some v) => take v
    | .other none => ((put s (ringBytes s none)).drewMany 16).completeTag t g 1
    | .later =>
      let u := (put s (fun i => ((List.range 16).map (fun j => Config.undefinedByte (s.fresh + 4 * i + j)), false))).drewMany
        (4 * ringWords s.u ⟨n, Nat.mod_lt _ (by decide)⟩ + 16)
      let u := match pitchOnPort s t n with
        | some k => u.bump (Obj.PITCH.STALE k)
        | none => u
      u.completeTag t g 3

/-- The words of some rows are read (R323, R324). -/
def State.readRows (s : State) (n : Nat) (l : List Nat) : State := l.foldl (fun (u : State) a => u.seePoison a (16 * n)) s

/-- GET and GET2D: words from YARD, DRAM or RING to local memory; the poison of a word travels with it (R326). -/
def State.doGet (s : State) (t : StallId) (g : Fin 16) (d : List Byte) : State :=
  if !localGood d then s.completeTag t g 4
  else if dSpace d = 3 then s.getRing t g d
  else if dSpace d = 1 ∨ dSpace d = 2 then
    match allSome ((dRowList d).map (fun r => (remoteRow s t d r.2).map (fun a => (r, a)))) with
    | none => s.completeTag t g 4
    | some l =>
      let s := s.readRows (dLen d) (l.map (·.2))
      let rows := l.map (fun r => (r.1, s.loadWords r.2 (dLen d)))
      let ps := rows.any (fun r => r.2.any (·.2))
      (storeRows t s rows).completeTag t g (if ps then 2 else 1)
  else s.completeTag t g 4

/-- The words of a transfer's local rows. -/
def localRows (s : State) (t : StallId) (d : List Byte) : List ((Int × Int) × List (List Byte × Bool)) :=
  ((dRowList d).zipIdx).map (fun e => (e.1, s.localWords t e.1.1.toNat (dLen d) (17 * dLen d * e.2)))

def storeRemote : State → List (Nat × List (List Byte × Bool)) → State
  | s, [] => s
  | s, (a, ws) :: rest => storeRemote (s.storeWords a ws) rest

/-- The pitch whose block a RESULT PUT writes: the stall's first that was offered the delivery and has not seen its DONE. -/
def resultPitch (s : State) (t : StallId) (v : BitVec 32) : Option (Fin 192) :=
  s.stalls[t].pitches.find? (fun k => s.pitches[k].offers.contains v)

/-- Bytes laid into a block from an offset on. -/
def overlay (l : List Byte) (off : Nat) (b : List Byte) (n : Nat) : List Byte :=
  let base := padTo n l
  base.take off ++ b ++ base.drop (off + b.length)

def writeBlock (r : ReorderRec) (k : Fin 192) (o : Fin 4) (off n : Nat) (ws : List (List Byte × Bool)) (base : Nat) : ReorderRec :=
  let old := (r.blocks.find? (fun b => b.pitch == k && b.output == o)).getD ⟨k, o, openBytes base n, []⟩
  let bytes := overlay old.bytes off ((ws.map (fun w => padTo 16 w.1)).flatten) n
  let hit := (List.range ws.length).map (off / 16 + ·)
  let ps := old.poisoned.filter (fun i => !hit.contains i) ++
    ((ws.zipIdx (off / 16)).filter (fun e => e.1.2)).map (·.2)
  { r with blocks := ⟨k, o, bytes, ps⟩ :: r.blocks.filter (fun b => !(b.pitch == k && b.output == o)) }

def stallPort (s : State) (k : Fin 192) : Port := ⟨s.u (Obj.PITCH.PORT k) % 8, Nat.mod_lt _ (by decide)⟩

/-- A PUT to RESULT (R186, R197): the block of the pitch for the output; a delivery already released takes it no longer (R198). -/
def State.putResult (s : State) (t : StallId) (g : Fin 16) (d : List Byte) : State :=
  let o : Fin 4 := ⟨dRemote d / 2 ^ 32 % 4, Nat.mod_lt _ (by decide)⟩
  let slot := s.stalls[t].slot.getD 0
  match resultPitch s t (dDeliv d) with
  | none => s.completeTag t g 4
  | some k =>
    let n := blockBytes s k o
    if outputs s slot ≤ o ∨ dIndex d % 16 ≠ 0 ∨ n < dIndex d + 16 * dLen d then s.completeTag t g 4
    else
      let s := s.seePoison (stallData t + dLocal d) (16 * dLen d)
      let ws := s.localWords t (dLocal d) (dLen d) n
      let u := { s with array := { s.array with reorder := s.array.reorder.map (fun r =>
        if recFor slot (stallPort s k) (dDeliv d) r then writeBlock r k o (dIndex d) n ws s.fresh else r) }, fresh := s.fresh + (n + 17 * dLen d) }
      u.completeTag t g (if ws.any (·.2) then 2 else 1)

/-- PUT and PUT2D: words from local memory to YARD, DRAM or RESULT. -/
def State.doPut (s : State) (t : StallId) (g : Fin 16) (d : List Byte) : State :=
  if !localGood d then s.completeTag t g 4
  else if dSpace d = 4 ∧ dKind d = 1 then s.putResult t g d
  else if dSpace d = 1 ∨ dSpace d = 2 then
    match allSome ((dRowList d).map (fun r => remoteRow s t d r.2)) with
    | none => s.completeTag t g 4
    | some l =>
      let s := s.readRows (dLen d) ((dRowList d).map (fun r => stallData t + r.1.toNat))
      let ws := l.zip ((localRows s t d).map (·.2))
      let ps := ws.any (fun r => r.2.any (·.2))
      (storeRemote (s.drewLocal t (17 * dLen d * l.length)) ws).completeTag t g (if ps then 2 else 1)
  else s.completeTag t g 4

def withFlight (s : State) (t : StallId) (g : Fin 16) (kind : Nat) (f : Transaction → State) : Result :=
  .next (match inFlight s t g kind with
  | none => s
  | some tr => f tr)

/-- A porter transfer of the stall ends as its descriptor has it; a single-bit error of the path is corrected and counts in PATH_CE (R324), a
porter error on the stall's port is a fatal fault and ends the transactions in flight with ABORT (R199; log entry 95). -/
def withPorter (s : State) (t : StallId) (g : Fin 16) (kind : Nat) (path : PathCheck) (f : State → List Byte → State) : Result :=
  withFlight s t g kind (fun tr => match path with
    | .clean => f s tr.desc
    | .single => f (s.bump Obj.MEMORY.PATH_CE) tr.desc
    | .broken => s.fatalFault t)

/-- GET (R187, R188): the transaction in flight on the tag completes. -/
def execGet (t : StallId) (g : Fin 16) (path : PathCheck) (s : State) : Result := withPorter s t g 0 path (fun u d => u.doGet t g d)
/-- PUT (R187, R188). -/
def execPut (t : StallId) (g : Fin 16) (path : PathCheck) (s : State) : Result := withPorter s t g 1 path (fun u d => u.doPut t g d)
/-- GET2D (R187, R188). -/
def execGet2d (t : StallId) (g : Fin 16) (path : PathCheck) (s : State) : Result := withPorter s t g 2 path (fun u d => u.doGet t g d)
/-- PUT2D (R187, R188). -/
def execPut2d (t : StallId) (g : Fin 16) (path : PathCheck) (s : State) : Result := withPorter s t g 3 path (fun u d => u.doPut t g d)

/-! ## DONE (R191, R197, R198, R210, R233) -/

/-- Whether an earlier RESULT PUT of the stall is still in flight (R191). -/
def resultPutPending (x : Stall) (serial : Nat) : Bool :=
  x.t.toList.any (fun g => match g.flight with
    | some tr => dKind tr.desc == 1 && dSpace tr.desc == 4 && decide (tr.serial < serial)
    | none => false)

/-- A pitch sees the DONE of one of its offers: its lag falls, and CYCLES_LAST and CYCLES_MAX move (log entry 14). -/
def State.seeDone (s : State) (t : StallId) (k : Fin 192) (v : BitVec 32) : State :=
  let u := s.modPitch k (fun x => { x with offers := x.offers.erase v })
  let u := u.put (Obj.PITCH.LAG k) u.pitches[k].offers.length
  let c := Config.cycles s.fresh % 2 ^ 32
  let u := (u.put (Obj.STALL.CYCLES_LAST t) c).put (Obj.STALL.CYCLES_MAX t) (max (s.u (Obj.STALL.CYCLES_MAX t)) c)
  u.drawn

/-- A DONE of the stall's local pitch for a delivery (R191, R198, R233). -/
def State.doDone (s : State) (t : StallId) (g : Fin 16) (d : List Byte) : State :=
  let v := dDeliv d
  if !localGood d then s.completeTag t g 4
  else match s.stalls[t].pitches[dFlags d / 32 % 4]? with
  | none => s.completeTag t g 4
  | some k =>
    let n := stallPort s k
    let slot := pitchSlot s k
    let live := s.array.reorder.any (recFor slot n v)
    if s.pitches[k].offers.contains v then
      let u := s.seeDone t k v
      let u := if live then
          (((u.fitBlock slot n v k).resolve slot n v k (.done (BitVec.ofNat 4 (dFlags d)) (dFlags d / 16 % 2 == 1))).releaseBuffer n v).release
            slot n
        else ((u.bump (Obj.PITCH.LATE_DROP k)).resolve slot n v k
          (.done (BitVec.ofNat 4 (dFlags d)) (dFlags d / 16 % 2 == 1))).releaseBuffer n v
      (u.completeTag t g 1).reloadAtDone t
    else if !live && decide (behind v (lastDeliv s n) < 2 ^ 31) && !s.pipes[n].ring.isEmpty then
      ((s.bump (Obj.PITCH.LATE_DROP k)).completeTag t g 1).reloadAtDone t
    else s.completeTag t g 4

/-- DONE: it completes only after every earlier RESULT PUT of the stall. -/
def execDone (t : StallId) (g : Fin 16) (s : State) : Result :=
  withFlight s t g 4 (fun tr => if resultPutPending s.stalls[t] tr.serial then s else s.doDone t g tr.desc)

/-! ## TRIG and MAIL (R187, R234, R272) -/

/-- TRIG: the request enters the capture engine's queue of 64, or the tag ends FULL. -/
def execTrig (t : StallId) (g : Fin 16) (s : State) : Result :=
  withFlight s t g 5 (fun tr =>
    if !localGood tr.desc then s.completeTag t g 4
    else if 64 ≤ s.array.trig.length then (s.bump Obj.CAPTURE.TRIG_QFULL).completeTag t g 6
    else ({ s with array := { s.array with trig := s.array.trig ++ [(t, tr.payload)] } }).completeTag t g 1)

/-- MAIL: the message enters the clerks' queue of 256, or the tag ends FULL. -/
def execMail (t : StallId) (g : Fin 16) (s : State) : Result :=
  withFlight s t g 6 (fun tr =>
    if !localGood tr.desc then s.completeTag t g 4
    else if 256 ≤ s.array.mail.length then s.completeTag t g 6
    else ({ s with array := { s.array with mail := s.array.mail ++ [(t, tr.payload)] } }).completeTag t g 1)

end Sys2Proof.Machine
end

