-- ==== Sys2Proof/Machine/StallCore.lean ====
section
/-! DEFINITION. The shared operations of a stall's instructions (R212 to R222, R227 to R231, R236 to R247): naming of registers, lane
arithmetic, addressing, and the issue of one instruction with its loops, traps, breakpoints and watchpoints. -/

namespace Sys2Proof.Machine

/-! ## Lanes -/

variable {α β γ : Type}

def Quad.map (f : α → β) (q : Quad α) : Quad β := ⟨f q.l0, f q.l1, f q.l2, f q.l3⟩

def Quad.zip (f : α → β → γ) (p : Quad α) (q : Quad β) : Quad γ := ⟨f p.l0 q.l0, f p.l1 q.l1, f p.l2 q.l2, f p.l3 q.l3⟩

def Quad.get (q : Quad α) (i : Nat) : α := match i % 4 with | 0 => q.l0 | 1 => q.l1 | 2 => q.l2 | _ => q.l3

def Quad.set (q : Quad α) (i : Nat) (v : α) : Quad α :=
  match i % 4 with
  | 0 => { q with l0 := v }
  | 1 => { q with l1 := v }
  | 2 => { q with l2 := v }
  | _ => { q with l3 := v }

def Quad.any (p : α → Bool) (q : Quad α) : Bool := p q.l0 || p q.l1 || p q.l2 || p q.l3

def Quad.build (f : Nat → α) : Quad α := ⟨f 0, f 1, f 2, f 3⟩

/-! ## Registers (R212, R213) -/

/-- The physical register a name stands for (R213). -/
def physical (rb : BitVec 5) (n : Fin 64) : Fin 64 :=
  if n.val < 32 then n else ⟨32 + (n.val - 32 + rb.toNat) % 32, by omega⟩

def Stall.getD (x : Stall) (n : Fin 64) : DReg := x.d[physical x.rb n]

def Stall.setD (x : Stall) (n : Fin 64) (v : DReg) : Stall := { x with d := x.d.set (physical x.rb n) v }

def Stall.getA (x : Stall) (n : Fin 8) : AReg := x.a[n]

def Stall.setA (x : Stall) (n : Fin 8) (v : AReg) : Stall := { x with a := x.a.set n v }

def Stall.getP (x : Stall) (n : Fin 16) : BitVec 24 := x.p[n]

def Stall.setP (x : Stall) (n : Fin 16) (v : BitVec 24) : Stall := { x with p := x.p.set n v }

def Stall.getM (x : Stall) (n : Fin 8) : Modifier := x.m[n]

def Stall.setM (x : Stall) (n : Fin 8) (v : Modifier) : Stall := { x with m := x.m.set n v }

/-! ## Arithmetic (R216 to R221) -/

/-- A value held to 24 bits (R216). -/
def sat24 (v : Int) : BitVec 24 := BitVec.ofInt 24 (max (-8388608) (min 8388607 v))

def inRange24 (v : Int) : Bool := decide (-8388608 ≤ v) && decide (v ≤ 8388607)

def accMax : Int := 2 ^ 55 - 1
def accMin : Int := -(2 ^ 55)

def accFits (v : Int) : Bool := decide (accMin ≤ v) && decide (v ≤ accMax)

/-- A lane that takes an exact result, or the limit of its sign with OVS (R218). -/
def accResult (v : Int) (ovs poison : Bool) : ALane :=
  if accFits v then ⟨BitVec.ofInt 56 v, ovs, poison⟩
  else ⟨BitVec.ofInt 56 (if v < 0 then accMin else accMax), true, poison⟩

/-- A lane that an accumulating instruction adds to: it stays at its limit while OVS is set (R218). -/
def accAdd (l : ALane) (v : Int) (poison : Bool) : ALane :=
  if l.ovs then { l with poison := l.poison || poison } else accResult (l.v.toInt + v) false (l.poison || poison)

/-- Whether an accumulating instruction overflows a lane. -/
def addOverflows (l : ALane) (v : Int) : Bool := !l.ovs && !accFits (l.v.toInt + v)

/-- The leading bits below bit 55 that equal it (R220). -/
def signBits (v : BitVec 56) : Nat :=
  ((List.range 55).takeWhile (fun i => v.getLsbD (54 - i) == v.getLsbD 55)).length

/-- An exact quotient by a power of two rounded half to even (R219). -/
def shiftEven (v : Int) (n : Nat) : Int := roundEven ((v : Rat) / 2 ^ n)

/-! ## Addressing (R223, R227 to R231) -/

/-- Bits reversed within a width. -/
def reverseBits (n v : Nat) : Nat := (List.range n).foldl (fun r i => 2 * r + v / 2 ^ i % 2) 0

def powerOfTwo (v : Nat) : Bool := v != 0 && v.log2 == (2 * v - 1).log2

/-- What a MOD or BREV access finds: the offset it uses and its modifier, brought back to BASE where the pointer lay outside (R230). -/
def pullIn (m : Modifier) (o : Int) : Int × Modifier :=
  if 0 ≤ o ∧ o < m.len.toNat then (o, m)
  else
    let step := m.step.toInt.natAbs
    let skip := if 0 ≤ o ∧ o < m.prevLen.toNat then ceilDiv (m.prevLen.toNat - o.toNat) (max 1 step) else 0
    (0, { m with lost := BitVec.ofNat 24 (min (2 ^ 24 - 1) (m.lost.toNat + skip)), trim := true })

/-- A staged length takes effect (R229). -/
def Modifier.takeStaged (m : Modifier) : Modifier :=
  if m.staged = 0 then m else { m with prevLen := m.len, len := m.staged, staged := 0 }

/-- The modulo step (R229): the new offset and modifier. -/
def modStep (m : Modifier) (o : Int) (isStore : Bool) : Int × Modifier :=
  let n := o + m.step.toInt
  if 0 ≤ n ∧ n < m.len.toNat then (n, m)
  else
    let m' := if isStore then m.takeStaged else m
    (n % m.len.toNat % m'.len.toNat, m')

/-- The bit-reversed step (R231): the offset's index in units of |STEP| moves on in bit-reversed order. -/
def brevStep (m : Modifier) (o : Int) (isStore : Bool) : Int × Modifier :=
  let st := m.step.toInt.natAbs
  let w := m.len.toNat.log2 - st.log2
  let i := o.toNat / st
  let j := reverseBits w ((reverseBits w i + 1) % 2 ^ w)
  let n := j * st + o.toNat % st
  (n, if isStore ∧ n = 0 then m.takeStaged else m)

/-- What addressing yields: the access address, and the pointer and modifier after it. -/
structure Addressed where
  addr : Nat
  p : BitVec 24
  m : Modifier
deriving DecidableEq, Repr

/-- The address of an access by R227, none where the access raises ILLEGAL. -/
def address (x : Stall) (pn : Fin 16) (mm : Fin 8) (amode : BitVec 2) (size : Nat) (k : BitVec 8) (isStore : Bool) :
    Option Addressed :=
  let p := x.getP pn
  let m := x.getM mm
  let off := p + BitVec.ofInt 24 (k.toInt * size)
  match amode.toNat with
  | 0 => some ⟨off.toNat, p, m⟩
  | 1 => some ⟨p.toNat, off, m⟩
  | a =>
    let st := m.step.toInt.natAbs
    if m.len = 0 ∨ m.step = 0 then none
    else if a = 3 ∧ ¬ (powerOfTwo m.len.toNat ∧ powerOfTwo st ∧ st < m.len.toNat) then none
    else
      let q := pullIn m ((p.toNat : Int) - m.base.toNat)
      let r := if a = 2 then modStep q.2 q.1 isStore else brevStep q.2 q.1 isStore
      some ⟨(m.base + BitVec.ofInt 24 q.1).toNat, m.base + BitVec.ofInt 24 r.1, r.2⟩

/-- An address with the bits below its element size ignored (R223). -/
def aligned (a size : Nat) : Nat := a / size * size

/-- Whether an access stays in local memory, and a store off the descriptor slots and parameter blocks (R223). -/
def localOk (a n : Nat) (isStore : Bool) : Bool :=
  decide (a + n ≤ 0x30000) && (!isStore || decide (a + n ≤ 0x2FB00))

/-! ## Issue (R236, R240, R241, R244 to R247, R527) -/

/-- Where a stall goes after an instruction. -/
inductive Flow where
  | next | jump (pc : BitVec 13) | trap (cause : Nat) | hold
deriving DecidableEq, Repr

/-- What an instruction gives: the state, the flag it sets, where it goes, and the bytes it touched in local memory. -/
structure StallOut where
  st : State
  flag : Option (Fin 6) := none
  flow : Flow := .next
  touch : Option (Nat × Nat × Bool) := none
deriving DecidableEq, Repr

def causeIllegal : Nat := 8
def causeRange : Nat := 9
def causeStack : Nat := 10

def trapOut (s : State) (c : Nat) : StallOut := { st := s, flow := .trap c }

/-- Whether the instruction at the PC ends the body of the innermost loop (R241). -/
def Stall.lastOfBody (x : Stall) : Bool :=
  match x.loops with
  | [] => false
  | l :: _ => l.depth == x.rets.length && l.last == x.pc.toNat

/-- The PC after an instruction that does not jump, with the loop's pass, rotation and end (R239). -/
def Stall.advance (x : Stall) : Stall :=
  match x.loops with
  | l :: r =>
    if x.lastOfBody then
      let y := if l.rot then { x with rb := x.rb - 1 } else x
      if 1 < l.remaining then { y with pc := l.start, loops := { l with remaining := l.remaining - 1 } :: r }
      else { y with pc := x.pc + 1, loops := r }
    else { x with pc := x.pc + 1 }
  | [] => { x with pc := x.pc + 1 }

/-- Whether an instruction that does not jump runs past the last word (R236). -/
def Stall.runsOut (x : Stall) : Bool :=
  x.pc == 0x1FFF#13 && (match x.loops with
    | l :: _ => !(x.lastOfBody && decide (1 < l.remaining))
    | [] => true)

/-- A jump at a loop's depth to outside its body ends that level (R241). -/
def endLoops (x : Stall) (target : BitVec 13) : List LoopLevel :=
  x.loops.filter (fun l => !(l.depth == x.rets.length &&
    (decide (target.toNat < l.start.toNat) || decide (l.last < target.toNat))))

/-- A stall becomes HALTED by the debugger (R527): what its pitches have not resolved counts as halted (R197). -/
def State.debugHaltStall (s : State) (t : StallId) : State :=
  let u := (s.modStall t (fun x => { x with debugHalt := true })).put (Obj.STALL.STATE t) 5
  s.stalls[t].pitches.foldl (fun (v : State) (k : Fin 192) =>
    let w := { v with array := { v.array with reorder := v.array.reorder.map (ReorderRec.halt k) } }
    w.releasePort ⟨s.u (Obj.PITCH.PORT k) % 8, Nat.mod_lt _ (by decide)⟩) u

def watchHit (x : Stall) (a n : Nat) (isStore : Bool) : Bool :=
  x.watches.toList.any (fun w => match w with
    | none => false
    | some v => decide (a < v.1.toNat + v.2.1.toNat) && decide (v.1.toNat < a + n) && v.2.2.getLsbD (if isStore then 1 else 0))

/-- The effect of an instruction's outcome on the stall's flow. -/
def State.finish (s : State) (t : StallId) (before : Stall) (o : StallOut) : State :=
  match o.flow with
  | .hold => o.st
  | .trap c => s.takeTrap t c
  | f =>
    let u := match f with
      | .jump a => o.st.modStall t (fun x => { x with pc := a })
      | _ => o.st.modStall t (fun x => { x.advance with skipBp := false })
    let u := match o.flag with
      | some b => u.raiseFlag t b
      | none => u
    let u := if f = .next ∧ before.runsOut then u.takeTrap t causeIllegal else u
    match o.touch with
    | some (a, n, w) => if watchHit before a n w then u.debugHaltStall t else u
    | none => u

/-- A stall issues one instruction: `control` marks those that may not end a loop's body (R240), `f` is what the instruction does.
A fetch is corrected, and an uncorrectable one a fatal fault (R236, R329); a breakpoint stops the stall before the instruction (R527). -/
def State.issue (s : State) (t : StallId) (control : Bool) (f : State → Stall → StallOut) : Result :=
  let x := s.stalls[t]
  .next (if !x.running then s
  else if x.bps.toList.any (fun b => b == some x.pc) && !x.skipBp then s.debugHaltStall t
  else
    let s := s.seePoison (stallProg t + 4 * x.pc.toNat) 4
    if s.poisoned (stallProg t + 4 * x.pc.toNat) then s.fatalFault t
    else
    let s := s.modStall t (fun y => { y with skipBp := false })
    if control && x.lastOfBody then s.takeTrap t causeIllegal else s.finish t x (f s x))

/-- An instruction that only changes the stall's registers. -/
def regOp (t : StallId) (f : Stall → Stall) (s : State) : Result :=
  s.issue t false (fun s _ => { st := s.modStall t f })

end Sys2Proof.Machine
end

