-- ==== Sys2Proof/Machine/Accum.lean ====
section
/-! DEFINITION. The accumulator instructions of a stall (R217 to R222, R251, R253): products, ACC functions and STA. -/

namespace Sys2Proof.Machine

/-- A lane of a product's operand as a number. -/
def operand (uns : Bool) (v : BitVec 24) : Int := if uns then v.toNat else v.toInt

/-- Whether the sign mode and the broadcast field are legal for MPY, MAC and MSU (R217, R250). -/
def productLegal (sm : BitVec 2) (bc : BitVec 3) : Bool := sm != 3#2 && (bc == 0#3 || bc.getLsbD 2)

/-- The lane of DB that lane i multiplies by (R217). -/
def broadcast (bc : BitVec 3) (b : DReg) (i : Nat) : DLane := if bc.getLsbD 2 then b.get (bc.toNat % 4) else b.get i

/-- The exact product of two lanes, and whether either is poisoned (R217, R222). -/
def product (sm : BitVec 2) (a b : DLane) : Int × Bool :=
  (operand (sm != 0#2) a.v * operand (sm == 2#2) b.v, a.poison || b.poison)

def products (x : Stall) (da db : Fin 64) (sm : BitVec 2) (bc : BitVec 3) : Quad (Int × Bool) :=
  Quad.build (fun i => product sm ((x.getD da).get i) (broadcast bc (x.getD db) i))

/-- The complex products of R251's CMAC: lane 2k the imaginary part, lane 2k+1 the real part of pair k. -/
def complexProducts (x : Stall) (da db : Fin 64) (bc : BitVec 3) (cj : Bool) : Quad (Int × Bool) :=
  Quad.build (fun i =>
    let k := i / 2
    let kb := if bc.getLsbD 2 then bc.toNat % 4 / 2 else k
    let a := x.getD da
    let b := x.getD db
    let ai := a.get (2 * k)
    let ar := a.get (2 * k + 1)
    let bi := b.get (2 * kb)
    let br := b.get (2 * kb + 1)
    let vi : Int := if cj then -bi.v.toInt else bi.v.toInt
    let v := if i % 2 = 1 then ar.v.toInt * br.v.toInt - ai.v.toInt * vi else ar.v.toInt * vi + ai.v.toInt * br.v.toInt
    (v, ai.poison || ar.poison || bi.poison || br.poison))

/-- An instruction that writes an accumulator, and sets OVF where it says so; an illegal form raises ILLEGAL. -/
def accWrite (t : StallId) (an : Fin 8) (legal : Bool) (f : Stall → AReg × Bool) (s : State) : Result :=
  s.issue t false (fun s x =>
    if legal then
      let r := f x
      { st := s.modStall t (fun y => y.setA an r.1), flag := if r.2 then some 0 else none }
    else trapOut s causeIllegal)

/-- Exact values added lane by lane to an accumulator (R218). -/
def accumulate (l : AReg) (v : Quad (Int × Bool)) : AReg × Bool :=
  (l.zip (fun a p => accAdd a p.1 p.2) v, (l.zip (fun a p => addOverflows a p.1) v).any id)

def negated (v : Quad (Int × Bool)) : Quad (Int × Bool) := v.map (fun p => (-p.1, p.2))

def laneValues (a : AReg) : Quad (Int × Bool) := a.map (fun l => (l.v.toInt, l.poison))

/-- A new value computed from each lane of an accumulator, which keeps its OVS and poison (R218). -/
def rescale (l : AReg) (f : Int → Int) : AReg × Bool :=
  (l.map (fun a => accResult (f a.v.toInt) a.ovs a.poison), l.any (fun a => !accFits (f a.v.toInt)))

/-- MPY (R217). -/
def execMpy (t : StallId) (an : Fin 8) (da db : Fin 64) (sm : BitVec 2) (bc : BitVec 3) (s : State) : Result :=
  accWrite t an (productLegal sm bc) (fun x => ((products x da db sm bc).map (fun p => accResult p.1 false p.2), false)) s

/-- MAC (R217, R218). -/
def execMac (t : StallId) (an : Fin 8) (da db : Fin 64) (sm : BitVec 2) (bc : BitVec 3) (s : State) : Result :=
  accWrite t an (productLegal sm bc) (fun x => accumulate (x.getA an) (products x da db sm bc)) s

/-- MSU (R217, R218). -/
def execMsu (t : StallId) (an : Fin 8) (da db : Fin 64) (sm : BitVec 2) (bc : BitVec 3) (s : State) : Result :=
  accWrite t an (productLegal sm bc) (fun x => accumulate (x.getA an) (negated (products x da db sm bc))) s

/-- CMAC (R217, R218, R251). -/
def execCmac (t : StallId) (an : Fin 8) (da db : Fin 64) (sm : BitVec 2) (bc : BitVec 3) (cj : Bool) (s : State) : Result :=
  accWrite t an (sm == 0#2 && (bc == 0#3 || bc == 4#3 || bc == 6#3))
    (fun x => accumulate (x.getA an) (complexProducts x da db bc cj)) s

/-- CLRA (R253). -/
def execClra (t : StallId) (an _am : Fin 8) (_dx : Fin 64) (_imm : BitVec 6) (s : State) : Result :=
  accWrite t an true (fun _ => (Quad.build (fun _ => ⟨0, false, false⟩), false)) s

/-- MOVA (R253). -/
def execMova (t : StallId) (an am : Fin 8) (_dx : Fin 64) (_imm : BitVec 6) (s : State) : Result :=
  accWrite t an true (fun x => (x.getA am, false)) s

/-- ADDA (R218, R253). -/
def execAdda (t : StallId) (an am : Fin 8) (_dx : Fin 64) (_imm : BitVec 6) (s : State) : Result :=
  accWrite t an true (fun x => accumulate (x.getA an) (laneValues (x.getA am))) s

/-- SUBA (R218, R253). -/
def execSuba (t : StallId) (an am : Fin 8) (_dx : Fin 64) (_imm : BitVec 6) (s : State) : Result :=
  accWrite t an true (fun x => accumulate (x.getA an) (negated (laneValues (x.getA am)))) s

/-- SHLA (R221: by 0 to 55). -/
def execShla (t : StallId) (an _am : Fin 8) (_dx : Fin 64) (imm : BitVec 6) (s : State) : Result :=
  accWrite t an (decide (imm.toNat ≤ 55)) (fun x => rescale (x.getA an) (fun v => v * 2 ^ imm.toNat)) s

/-- SRAA (R221: by 0 to 55, toward minus infinity). -/
def execSraa (t : StallId) (an _am : Fin 8) (_dx : Fin 64) (imm : BitVec 6) (s : State) : Result :=
  accWrite t an (decide (imm.toNat ≤ 55)) (fun x => rescale (x.getA an) (fun v => v / 2 ^ imm.toNat)) s

/-- REDA (R221: the sum of the four lanes of AM in lane 0, zeros in the others). -/
def execReda (t : StallId) (an am : Fin 8) (_dx : Fin 64) (_imm : BitVec 6) (s : State) : Result :=
  accWrite t an true (fun x =>
    let q := x.getA am
    let v := q.l0.v.toInt + q.l1.v.toInt + q.l2.v.toInt + q.l3.v.toInt
    (⟨accResult v (q.any (·.ovs)) (q.any (·.poison)), {}, {}, {}⟩, !accFits v)) s

/-- LDA (R221: by 0 to 32). -/
def execLda (t : StallId) (an _am : Fin 8) (dx : Fin 64) (imm : BitVec 6) (s : State) : Result :=
  accWrite t an (decide (imm.toNat ≤ 32)) (fun x =>
    ((x.getD dx).map (fun l => accResult (l.v.toInt * 2 ^ imm.toNat) false l.poison), false)) s

/-- NEGA (R218, R253). -/
def execNega (t : StallId) (an _am : Fin 8) (_dx : Fin 64) (_imm : BitVec 6) (s : State) : Result :=
  accWrite t an true (fun x => rescale (x.getA an) (fun v => -v)) s

/-- ABSA (R218, R253). -/
def execAbsa (t : StallId) (an _am : Fin 8) (_dx : Fin 64) (_imm : BitVec 6) (s : State) : Result :=
  accWrite t an true (fun x => rescale (x.getA an) (fun v => v.natAbs)) s

/-- The counts of R220, with the poison of each lane. -/
def counts (a : AReg) : DReg := a.map (fun l => ⟨BitVec.ofNat 24 (signBits l.v), l.poison⟩)

/-- NORM (R220): each lane shifted left by its own count, the counts to DX; it never sets OVF. -/
def execNorm (t : StallId) (an _am : Fin 8) (dx : Fin 64) (_imm : BitVec 6) (s : State) : Result :=
  regOp t (fun x => (x.setA an ((x.getA an).map (fun l => { l with v := l.v <<< signBits l.v }))).setD dx (counts (x.getA an))) s

/-- EXP (R220). -/
def execExp (t : StallId) (an _am : Fin 8) (dx : Fin 64) (_imm : BitVec 6) (s : State) : Result :=
  regOp t (fun x => x.setD dx (counts (x.getA an))) s

/-- The lane STA stores and whether it saturates (R219). -/
def staLane (sh : Nat) (l : ALane) : DLane × Bool :=
  if l.ovs then (⟨if l.v.msb then 0x800000#24 else 0x7FFFFF#24, l.poison⟩, true)
  else
    let q := shiftEven l.v.toInt sh
    (⟨sat24 q, l.poison⟩, !inRange24 q)

/-- STA (R219): sh from 0 to 47. -/
def execSta (t : StallId) (an : Fin 8) (dx : Fin 64) (imm : BitVec 6) (s : State) : Result :=
  s.issue t false (fun s x =>
    if 47 < imm.toNat then trapOut s causeIllegal
    else
      let r := (x.getA an).map (staLane imm.toNat)
      { st := s.modStall t (fun y => y.setD dx (r.map (·.1))), flag := if r.any (·.2) then some 1 else none })

end Sys2Proof.Machine
end

