-- ==== Sys2Proof/Machine/Mirror.lean ====
section
/-! DEFINITION. The mirror stream as an active twin sends it (R443). -/

namespace Sys2Proof.Machine

/-- The bytes of a delivery as its slot holds them: header, point words, trailer. -/
def deliveryBytes (d : Delivery) : List Byte :=
  let ps := if d.kind = 3 then [] else (List.range (d.last + 1 - d.first)).map (fun i => le 4 (pointOf d (d.first + i)).toNat)
  padTo 32 d.header ++ ps.flatten ++ padTo 16 d.trailer

/-- A delivery cut into frames of 15 words of 16 bytes; `i` is the index of the first word. -/
def mirrorPieces (n : Port) (deliv : BitVec 32) (poisoned : List Nat) : Nat → Nat → List Byte → List AggonBody
  | 0, _, _ => []
  | f + 1, i, l =>
    let isLast := decide (l.length ≤ 240)
    .mirror n deliv i isLast (l.take 240) (poisoned.filter (fun w => decide (i ≤ w) && decide (w < i + 15))) ::
      (if isLast then [] else mirrorPieces n deliv poisoned f (i + 15) (l.drop 240))

/-- A mirror frame leaves; with two twin links the frames alternate between them. -/
def State.sendPiece (s : State) (b : AggonBody) : State :=
  let ls := twinLinks s
  match ls[s.twin.turn % max 1 ls.length]? with
  | some k => ({ s with twin := { s.twin with turn := s.twin.turn + 1 } }).sendFrame k (mirrorFrame s b)
  | none => s

/-- The bytes of deliveries that wait in the mirror queue: those of no link yet, and those that a twin link has not sent (R443). -/
def mirrorHeld (s : State) : Nat :=
  s.twin.queued + ((List.finRange 4).map (fun (k : Fin 4) => (s.links[k].vcq.map (fun f => match f.body with
    | .mirror _ _ _ _ d _ => d.length
    | _ => 0)).sum)).sum

/-- The 16-byte words of a delivery that stand in its slot and may be sent: none before its header is known. -/
def wordsWritten (d : Delivery) : Nat := if d.closed && !d.unheaded then (12 + d.body.length - d.left) / 4 else 0

/-- How far a delivery has been sent. -/
def sendingOf (s : State) (n : Port) (d : Delivery) : MirrorSend :=
  (s.twin.sending.find? (fun e => e.port == n && e.deliv == d.deliv)).getD { port := n, deliv := d.deliv }

def State.putSending (s : State) (e : MirrorSend) : State :=
  { s with twin := { s.twin with sending := e :: s.twin.sending.filter (fun x => !(x.port == e.port && x.deliv == e.deliv)) } }

/-- Pieces leave on the twin links, or wait for one. -/
def State.sendPieces (s : State) (ps : List AggonBody) (bytes : Nat) : State :=
  let t := { s with twin := { s.twin with mirrored := s.twin.mirrored + bytes } }
  if (twinLinks s).isEmpty then { t with twin := { t.twin with queue := t.twin.queue ++ ps, queued := t.twin.queued + bytes } }
  else ps.foldl State.sendPiece t

/-- An active twin sends what has been written of a delivery of a twinned port (R443): whole frames of 15 words, the last frame when all is
written. A delivery that the 4 MiB queue does not hold whole is not sent. -/
def State.mirrorWords (s : State) (n : Port) (d : Delivery) (whole : Bool) : State :=
  if !(active s && s.twinned n) then s
  else
    let e := sendingOf s n d
    let l := deliveryBytes d
    let ps := mirrorPieces n d.deliv d.poisoned (l.length + 1) 0 l
    let upTo := if whole then ps.length else min (wordsWritten d / 15) (ps.length - 1)
    let due := (ps.take upTo).drop e.sent
    if due.isEmpty ∨ e.dropped then s
    else if e.sent = 0 ∧ 4194304 < mirrorHeld s + l.length then
      (s.putSending { e with dropped := true }).bump Obj.TWIN.MIRROR_DROP
    else
      (s.putSending { e with sent := upTo }).sendPieces due (if whole then l.length - 240 * e.sent else 240 * due.length)

/-- The written words of the deliveries in a port's queue leave (R443). -/
def State.mirrorQueue (s : State) (n : Port) : State := s.pipes[n].queue.foldl (fun t d => t.mirrorWords n d false) s

/-- A delivery is complete: the rest of it leaves (R443). -/
def State.mirrorDelivery (s : State) (n : Port) (d : Delivery) : State :=
  let t := s.mirrorWords n d true
  { t with twin := { t.twin with sending := t.twin.sending.filter (fun e => !(e.port == n && e.deliv == d.deliv)) } }

/-- What waited for a twin link leaves when one comes UP: commits and marks, then the mirror queue. -/
def State.drainMirror (s : State) : State :=
  if (twinLinks s).isEmpty then s
  else
    let t := s.flushOutbox
    t.twin.queue.foldl State.sendPiece { t with twin := { t.twin with queue := [], queued := 0 } }

/-- MIRROR_RATE and MIRROR_OVER (R443) for the second that has passed, in kB. -/
def State.mirrorRate (s : State) : State :=
  let n := (twinLinks s).length
  let b := s.twin.mirrored
  let t := { s with twin := { s.twin with mirrored := 0 } }
  let t := t.put Obj.TWIN.MIRROR_RATE (b / 1000)
  t.putBit Obj.TWIN.FLAGS Bit.TWIN.FLAGS.MIRROR_OVER (active s && decide (4660000000 * n < b))

end Sys2Proof.Machine
end

