-- ==== Sys2Proof/Machine/Route.lean ====
section
/-! DEFINITION. Paths through the cluster (R431), the cluster's root and what follows from its table
(R430 to R436), and forwarded messages (R438). -/

namespace Sys2Proof.Machine

/-! ## Paths (R431) -/

/-- A device reached: hops, the own link its path leaves on, and the mean delay of the path's links in ps. -/
structure Hop where
  dev : BitVec 11
  hops : Nat
  link : Fin 4
  delay : Nat
deriving DecidableEq, Repr

/-- A device's links in order, with the neighbour and mean delay of each that is UP: the own ones, or those its TOPO frame names. -/
def linksOf (s : State) (d : BitVec 11) : List (Option (BitVec 11) × Nat) :=
  if d = ownId s then
    (List.finRange 4).map (fun k => (if linkUp s k then some (neighbour s k) else none, s.u (Obj.AGGON.MEAN_DELAY k)))
  else match s.cluster.table.find? (fun r => r.frame.deviceId == d) with
    | some r => r.frame.links
    | none => []

/-- The neighbours of a device with the mean delay to each, in the order of its links. -/
def neighbours (s : State) (d : BitVec 11) : List (BitVec 11 × Nat) := (linksOf s d).filterMap (fun e => e.1.map (fun x => (x, e.2)))

/-- A device joins those reached unless it is the source or among them. -/
def addHop (src : BitVec 11) (l : List Hop) (h : Hop) : List Hop :=
  if h.dev = src ∨ l.any (fun x => x.dev == h.dev) then l else l ++ [h]

/-- The neighbours of some devices join those reached; paths that leave on a lower link come first. -/
def nextHops (s : State) (src : BitVec 11) (done : List Hop) (frontier : List Hop) : List Hop :=
  frontier.foldl (fun new h => (neighbours s h.dev).foldl (fun new e =>
    if done.any (fun x => x.dev == e.1) then new else addHop src new ⟨e.1, h.hops + 1, h.link, h.delay + e.2⟩) new) []

def reachFrom (s : State) (src : BitVec 11) : Nat → List Hop → List Hop → List Hop
  | 0, done, _ => done
  | f + 1, done, frontier =>
    let new := nextHops s src done frontier
    if new.isEmpty then done else reachFrom s src f (done ++ new) new

/-- The devices a device reaches in at most 64 hops, each on a path of fewest hops, of equal ones that over the lower links (R431). -/
def reachOf (s : State) (src : BitVec 11) : List Hop :=
  let first := (linksOf s src).zipIdx.foldl (fun l e =>
    match e.1.1 with
    | some d => addHop src l ⟨d, 1, Fin.ofNat 4 e.2, e.1.2⟩
    | none => l) []
  reachFrom s src 63 first first

/-- The devices this device reaches. -/
def reach (s : State) : List Hop := reachOf s (ownId s)

/-- The link a unicast frame to a device leaves on (R431); none where it is not reached, or its ID is held twice. -/
def route (s : State) (d : BitVec 11) : Option (Fin 4) :=
  if s.cluster.dups.contains d then none else ((reach s).find? (fun h => h.dev == d)).map (·.link)

/-- Whether the cluster holds a device (R403). -/
def holds (s : State) (d : BitVec 11) : Bool := (route s d).isSome

def State.sendTo (s : State) (d : BitVec 11) (f : AggonFrame) : State :=
  match route s d with
  | some k => s.sendFrame k { f with dest := d }
  | none => s

/-- A message's bytes cut into frames of up to 16 words (R438). -/
def cutFrames : Nat → Bool → List Byte → List (Bool × Bool × List Byte)
  | 0, _, _ => []
  | f + 1, isFirst, l =>
    let isLast := decide (l.length ≤ 256)
    (isFirst, isLast, padTo (ceilDiv (min 256 l.length) 16 * 16) (l.take 256)) :: (if isLast then [] else cutFrames f false (l.drop 256))

/-- A message of several frames on a channel toward a device. -/
def State.sendMessage (s : State) (vc kind : Nat) (d : BitVec 11) (bytes : List Byte) : State :=
  let m := s.cluster.msg
  let t := { s with cluster := { s.cluster with msg := m + 1 } }
  (cutFrames (bytes.length + 1) true bytes).foldl (fun u e =>
    u.sendTo d { vc := vc, kind := kind, src := ownId s, isFirst := e.1, isLast := e.2.1, msg := m, body := .words e.2.2 [] }) t

/-- A Ledger message travels on VC1 (R438). -/
def State.sendLedger (s : State) (d : BitVec 11) (msg : List Byte) : State := s.sendMessage 1 4 d msg

/-! ## The root (R432, R433) and what follows from the table -/

/-- The root rank of a device (R432): PRIVILEGED, ORIGIN_TAI, ROOT_PRI and its ID. -/
structure Rank where
  privileged : Bool
  tai : Bool
  pri : Nat
  dev : BitVec 11
deriving DecidableEq, Repr

def Rank.better (a b : Rank) : Bool :=
  if a.privileged != b.privileged then a.privileged
  else if a.tai != b.tai then a.tai
  else if a.pri ≠ b.pri then decide (b.pri < a.pri)
  else decide (a.dev.toNat < b.dev.toNat)

def ownRank (s : State) : Rank :=
  ⟨s.bit Obj.TDC.FLAGS Bit.TDC.FLAGS.PRIVILEGED, s.bit Obj.EPOCH.FLAGS Bit.EPOCH.FLAGS.ORIGIN_TAI, s.u Obj.AGGON.ROOT_PRI, ownId s⟩

def rankOf (f : TopoFrame) : Rank := ⟨f.privileged, f.originTai, f.rootPri.toNat, f.deviceId⟩

/-- The eligible devices of the table, this one among them. -/
def eligible (s : State) : List Rank :=
  (ownRank s :: s.cluster.table.map (fun r => rankOf r.frame)).filter (fun r => decide (0 < r.pri) && !s.cluster.dups.contains r.dev)

def bestRank : List Rank → Option Rank
  | [] => none
  | r :: l => match bestRank l with
    | none => some r
    | some b => some (if r.better b then r else b)

/-- Whether a device stands in the table. -/
def inTable (s : State) (d : BitVec 11) : Bool := d == ownId s || s.cluster.table.any (fun r => r.frame.deviceId == d)

/-- A root that has left the table, or none eligible, acts at once (R432). -/
def rootNow (s : State) : Option (BitVec 11) :=
  match s.cluster.root with
  | none => none
  | some r =>
    if (eligible s).isEmpty then none
    else if inTable s r then some r else (bestRank (eligible s)).map (·.dev)

/-- The link toward the root; none where this device is the root or has none. -/
def upstream (s : State) : Option Hop :=
  match s.cluster.root with
  | none => none
  | some r => if r = ownId s then none else (reach s).find? (fun h => h.dev == r)

/-- Whether the CLUSTER source meets R433. -/
def clusterReady (s : State) : Bool :=
  match upstream s with
  | some h => decide (16 ≤ s.links[h.link].exchanges)
  | none => false

/-- The path from a device of the table to this one (R436). -/
def pathFrom (s : State) (d : BitVec 11) : Option Hop := (reachOf s d).find? (fun h => h.dev == ownId s)

/-- The worst fire delivery (R436) in ns: over the paths from the devices of the table. -/
def bellWorst (s : State) : Nat :=
  (s.cluster.table.filterMap (fun r => pathFrom s r.frame.deviceId)).foldl (fun m h => max m ((freeRound h.delay 1000).toNat + 400 * h.hops)) 0

/-- Whether a region reads SHALLOW (R280). -/
def shallow (s : State) (r : Fin 64) : Bool :=
  let fill := s.u (Obj.REGION.AWN_FILL r)
  let span : Rat := s.u (Obj.REGION.AWN_SPAN r)
  let back : Rat := (max 0 (-s.i (Obj.REGION.FIRE_OFFSET r)) : Int)
  let need : Rat := (s.u Obj.CAPTURE.BELL_WORST : Rat) + back * 5 / 16 + (s.u (Obj.REGION.BELL_PRE r) : Rat) * span / ((fill : Rat) - 1)
  s.u (Obj.REGION.BELL_RX r) != 0xFF && (decide (fill ≤ 1) || decide (span < need))

def State.putShallow (s : State) (r : Fin 64) : State := s.putBit (Obj.REGION.FLAGS r) Bit.REGION.FLAGS.SHALLOW (shallow s r)

/-- The flags and figures that follow from the table and the links (R280, R430 to R436). -/
def State.clusterFigures (s : State) : State :=
  let isRoot := decide (s.cluster.root = some (ownId s))
  let up := upstream s
  let hs := (reach s).filter (fun h => inTable s h.dev)
  let maxHops := hs.foldl (fun m h => max m h.hops) 0
  let t := s.put Obj.AGGON.ROOT_ID ((s.cluster.root.map (·.toNat)).getD 0)
  let t := t.put Obj.AGGON.ROOT_HOPS ((up.map (·.hops)).getD 0)
  let t := t.put Obj.AGGON.UPSTREAM ((up.map (fun h => h.link.val)).getD 0xFF)
  let t := t.put Obj.AGGON.CLUSTER_SIZE (1 + s.cluster.table.length)
  let t := t.put Obj.AGGON.MAX_HOPS maxHops
  let t := if isRoot then t.put Obj.AGGON.CLUSTER_ERR 0 else t
  let t := t.putBit Obj.AGGON.FLAGS Bit.AGGON.FLAGS.IS_ROOT isRoot
  let t := t.putBit Obj.AGGON.FLAGS Bit.AGGON.FLAGS.NO_ROOT (eligible s).isEmpty
  let t := t.putBit Obj.AGGON.FLAGS Bit.AGGON.FLAGS.DIAM_LIMIT (maxHops == 64)
  overAll (t.put Obj.CAPTURE.BELL_WORST (bellWorst s)) State.putShallow

/-- The table, a link or a rank has changed: the root and the CLUSTER source follow. -/
def State.clusterUpdate (s : State) : State :=
  let t := { s with cluster := { s.cluster with root := rootNow s } }
  let t := t.clusterFigures
  let own := t.cluster.root = none ∨ t.cluster.root = some (ownId t)
  let tai := match t.cluster.root with
    | some r => (t.cluster.table.find? (fun x => x.frame.deviceId == r)).any (fun x => x.frame.originTai)
    | none => false
  { t with ep := { t.ep with clusterUsable := !decide own && (t.ep.clusterUsable || clusterReady t), clusterTai := tai } }

/-! ## This device's TOPO frame (R430) -/

def ownTopo (s : State) : TopoFrame :=
  { deviceId := ownId s, serialCrc := crc32c (s.blob Obj.IDENTITY.SERIAL), seq := s.cluster.topoSeq, hops := 64,
    links := linksOf s (ownId s),
    privileged := (ownRank s).privileged, originTai := (ownRank s).tai, rootPri := BitVec.ofNat 16 (s.u Obj.AGGON.ROOT_PRI) }

end Sys2Proof.Machine
end

