-- ==== Sys2Proof/Machine/Tdc.lean ====
section
/-! DEFINITION. The time-interval unit (R304 to R321): stamps, and the pairing and statistics of its measurement units. -/

namespace Sys2Proof.Machine

/-! ## Stamps (R305 to R310) -/

/-- Events of a unit stand in stamp order, a start before a stop of the same stamp (R312). -/
def insertEvent (e : UnitEv) : List UnitEv → List UnitEv
  | [] => [e]
  | x :: r => if e.stamp < x.stamp ∨ (e.stamp = x.stamp ∧ e.isStart ∧ !x.isStart) then e :: x :: r else x :: insertEvent e r

/-- A stamp reaches a unit that runs and names its channel, with the corrector's ticks at its edge. -/
def State.toUnit (s : State) (ch : Nat) (stamp : Stamp) (coarse : Bool) (corr : Int) (u : Fin 8) : State :=
  let a := s.u (Obj.MEASURE.START u) == ch
  let b := s.u (Obj.MEASURE.STOP u) == ch
  if s.u (Obj.MEASURE.ENABLE u) = 1 ∧ (a ∨ b) then
    s.modUnit u (fun m => { m with events := insertEvent ⟨a, b, stamp, corr, coarse⟩ m.events })
  else s

/-- The dead time of a channel: 2.5 ns in fine LSBs (R307). -/
def deadFine : Nat := 8 * 256

/-- Whether an edge falls into a channel's dead time, which runs from the last edge it stamped (R307). -/
def inDead (s : State) (ch : Fin 21) (stamp : Stamp) : Bool :=
  match s.tdc.lastEdge[ch] with
  | some l => decide (l ≤ (stamp : Int)) && decide ((stamp : Int) < l + deadFine)
  | none => false

/-- The dead time of a channel runs from an edge. -/
def State.edgeAt (s : State) (ch : Fin 21) (stamp : Stamp) : State :=
  { s with tdc := { s.tdc with lastEdge := s.tdc.lastEdge.set ch (some (stamp : Int)) } }

/-- Whether stamps are coarse, and a stamp as it is then (R310). -/
def coarseNow (s : State) : Bool := s.u Obj.CLOCKS.PLL_STATE != 2

def stampNow (s : State) (stamp : Stamp) : Stamp := if coarseNow s then stamp / 256 * 256 else stamp

/-- A stamp counts and is handed to the measurement units (R304, R310). -/
def State.countStamp (s : State) (ch : Fin 21) (st : Stamp) (coarse : Bool) (corr : Int) : State :=
  let t := (s.put (Obj.CHANNEL.LAST ch) (epochVal st)).bump (Obj.CHANNEL.EVENTS ch)
  let t := if coarse then t.bump Obj.TDC.COARSE_STAMPS else t
  overAll t (fun v u => v.toUnit ch st coarse corr u)

/-- A channel's edge (R304 to R310): one in the dead time only counts; otherwise it is stamped, coarsely while the PLL is not LOCKED, and
handed to the measurement units and to its consumer. -/
def State.stampChannel (s : State) (ch : Fin 21) (stamp : Stamp) (consumer : Stamp → State → State) : State :=
  if inDead s ch stamp then s.bump (Obj.CHANNEL.DEAD_MISS ch)
  else
    let st := stampNow s stamp
    consumer st ((s.edgeAt ch stamp).countStamp ch st (coarseNow s) (s.correctedAt stamp))

/-! ## The encoder's channels (R35 to R37, R308) -/

/-- A raw edge of an encoder input: its stamp is kept as the last into its level until the filter accepts that level. ENC_Z is stamped at
rising edges only (R304). -/
def State.rawEdge (s : State) (ch : Fin 21) (stamp : Stamp) : State :=
  let lv := ch.val == 12 || !s.tdc.levels[ch]
  let t := { s with tdc := { s.tdc with levels := s.tdc.levels.set ch lv } }
  if inDead s ch stamp then t.bump (Obj.CHANNEL.DEAD_MISS ch)
  else
    let u := t.edgeAt ch stamp
    let e : RawEdge := ⟨ch, lv, stampNow s stamp, s.correctedAt stamp, coarseNow s⟩
    { u with tdc := { u.tdc with raw := e :: u.tdc.raw.filter (fun x => !(x.ch == ch && x.level == lv)) } }

/-- The last raw edge of an input into a level. -/
def rawOf (s : State) (ch : Fin 21) (lv : Bool) : Option RawEdge := s.tdc.raw.find? (fun e => e.ch == ch && e.level == lv)

/-- The filter accepts a level: the stamp of the last raw edge into it counts, and those of bounces are discarded without count (R308; log
entry 101). -/
def State.acceptEdge (s : State) (ch : Fin 21) (lv : Bool) : State :=
  match rawOf s ch lv with
  | none => s
  | some e => ({ s with tdc := { s.tdc with raw := s.tdc.raw.filter (fun x => x.ch != ch) } }).countStamp ch e.stamp e.coarse e.corr

/-- The levels that the first filtered sample finds. -/
def State.firstLevels (s : State) (a b z : Bool) : State :=
  { s with tdc := { s.tdc with levels := ((s.tdc.levels.set 10 a).set 11 b).set 12 z, raw := [] } }

/-- ENC_LEVEL_ACCEPT (R35 to R37, R308): a filtered sample with the accepted levels; the first after reset moves nothing. The decoder takes
the stamp of the last raw edge into the level of the input that changed; an input without one leaves it open (log entry 101). -/
def execEncLevelAccept (a b z : Bool) (s : State) : Result :=
  let e := s.enc
  let raw := if e.a != a then rawOf s 10 a else rawOf s 11 b
  let stamp := (raw.map (·.stamp)).getD (Config.measured s.fresh)
  let t := { s with enc := { e with taken := true, a := a, b := b, z := z } }
  .next (if !e.taken then (t.firstLevels a b z).takePreset
  else
    let t := if raw.isNone then t.drawn else t
    let t := if e.a != a then t.acceptEdge 10 a else t
    let t := if e.b != b then t.acceptEdge 11 b else t
    let t := if z && !e.z then t.acceptEdge 12 true else t
    let t := if e.a != a && e.b != b then t.encIllegal
      else
        let mv := encMove e.a e.b a b
        (t.put Obj.AXIS_STATUS.LINE_POS (ofSigned 32 (s.lineCount.toInt + mv))).offerLine mv stamp
    (if z && !e.z then t.indexEdge else t).takePreset)

/-- PPS_EDGE (R20, R304): an edge of REF.PPS, channel 8. -/
def execPpsEdge (stamp : Stamp) (s : State) : Result := .next (s.stampChannel 8 stamp (fun st t => t.ppsEdge st))

/-- MAINS_EDGE (R31, R304): an edge of REF.MAINS of the selected polarity, channel 9. -/
def execMainsEdge (stamp : Stamp) (s : State) : Result := .next (s.stampChannel 9 stamp (fun st t => t.mainsEdge st))

/-! ## Intervals and blocks (R313, R314, R318) -/

/-- A block's standard deviation in 1/256 LSB. -/
def blockDev (sum : Int) (sq n : Nat) : Nat :=
  if n ≤ 1 then 0 else min 0xFFFFFFFF (rootFree (((sq : Rat) / n - ((sum : Rat) / n) ^ 2) * 65536))

/-- A block that has its N intervals is written out, and a new one starts. -/
def State.closeBlock (s : State) (u : Fin 8) : State :=
  let m := s.units[u]
  if m.count < s.u (Obj.MEASURE.N u) then s.put (Obj.MEASURE.PROGRESS u) m.count
  else
    let t := s.puti (Obj.MEASURE.MEAN u) (roundEven ((m.sum : Rat) * 256 / m.count))
    let t := t.put (Obj.MEASURE.STDEV u) (blockDev m.sum m.sumSq m.count)
    let t := (t.puti (Obj.MEASURE.MIN u) m.lo).puti (Obj.MEASURE.MAX u) m.hi
    let t := (t.put (Obj.MEASURE.BFLAGS u) m.flags.toNat).bump (Obj.MEASURE.BLOCKS u)
    let t := t.put (Obj.MEASURE.PROGRESS u) 0
    t.modUnit u (fun m => { m with sum := 0, sumSq := 0, lo := 0, hi := 0, count := 0, flags := 0 })

/-- The interval between a start and a stop (R313). -/
def interval (s : State) (u : Fin 8) (a b : UnitEv) : Int :=
  (b.stamp : Int) - a.stamp - (if s.u (Obj.MEASURE.SCALE u) = 0 then (b.corr - a.corr) * 256 else 0)

/-- A start and a stop pair (R313, R314, R318). -/
def State.pair (s : State) (u : Fin 8) (a b : UnitEv) (rev : Bool) : State :=
  let x := interval s u a b
  let f : BitVec 5 := BitVec.ofNat 5 (bit8 (a.coarse || b.coarse) 4 + bit8 rev 1 + bit8 (x == 0) 0)
  let t := s.modUnit u (fun m =>
    { m with
      sum := m.sum + x, sumSq := m.sumSq + x.natAbs ^ 2, lo := if m.count = 0 then x else min m.lo x,
      hi := if m.count = 0 then x else max m.hi x, count := m.count + 1, flags := m.flags ||| f })
  let t := (t.puti (Obj.MEASURE.LAST u) x).bump (Obj.MEASURE.PAIRED u)
  let t := t.put (Obj.MEASURE.MFLAGS u) (Nat.lor (t.u (Obj.MEASURE.MFLAGS u)) f.toNat)
  t.closeBlock u

/-! ## Pairing (R315 to R317) -/

/-- PAIR_WIN in fine LSBs. -/
def pairFine (s : State) (u : Fin 8) : Nat := s.u (Obj.MEASURE.PAIR_WIN u) * 256

def State.setStart (s : State) (u : Fin 8) (x : Option (UnitEv × Nat)) : State := s.modUnit u (fun m => { m with start := x })

/-- START equals STOP: periods (R317); a gap that PAIR_WIN_EXPIRY has counted has left no start. -/
def State.periodEvent (s : State) (u : Fin 8) (e : UnitEv) : State :=
  match s.units[u].start with
  | none => s.setStart u (some (e, 0))
  | some (a, _) =>
    if a.stamp + pairFine s u < e.stamp then (s.bump (Obj.MEASURE.TIMEOUTS u)).setStart u (some (e, 0))
    else (s.pair u a e false).setStart u (some (e, 0))

/-- Held stops meet a start (R315). -/
def meetHeld (u : Fin 8) (e : UnitEv) : List UnitEv → State → State
  | [], s => s
  | h :: r, s =>
    let c := (s.units[u].start.map (·.2)).getD 0
    if e.stamp ≤ h.stamp + pairFine s u ∧ c < s.u (Obj.MEASURE.STOPS_MAX u) then
      meetHeld u e r ((s.pair u e h true).setStart u (some (e, c + 1)))
    else meetHeld u e r (s.bump (Obj.MEASURE.UNPAIRED u))

/-- MODE 0, ONE_MANY (R315). -/
def State.oneMany (s : State) (u : Fin 8) (e : UnitEv) : State :=
  if e.isStart then
    let h := s.units[u].held
    meetHeld u e h ((s.modUnit u (fun m => { m with held := [] })).setStart u (some (e, 0)))
  else
    let hold := s.modUnit u (fun m => { m with held := m.held ++ [e] })
    match s.units[u].start with
    | none => hold
    | some (a, c) =>
      if e.stamp ≤ a.stamp + pairFine s u then
        if c < s.u (Obj.MEASURE.STOPS_MAX u) then (s.pair u a e false).setStart u (some (a, c + 1))
        else s.bump (Obj.MEASURE.UNPAIRED u)
      else hold.setStart u none

/-- MODE 1, ONE_ONE (R316). -/
def State.oneOne (s : State) (u : Fin 8) (e : UnitEv) : State :=
  match s.units[u].start with
  | none => if e.isStart then s.setStart u (some (e, 0)) else s.bump (Obj.MEASURE.UNPAIRED u)
  | some (a, _) =>
    let late := decide (a.stamp + pairFine s u < e.stamp)
    if e.isStart then (s.bump (if late then Obj.MEASURE.TIMEOUTS u else Obj.MEASURE.START_LOST u)).setStart u (some (e, 0))
    else if late then ((s.bump (Obj.MEASURE.TIMEOUTS u)).bump (Obj.MEASURE.UNPAIRED u)).setStart u none
    else if e.stamp < a.stamp then s.bump (Obj.MEASURE.UNPAIRED u)
    else (s.pair u a e false).setStart u none

/-- The time a unit holds an event before it pairs it: 64 ns in fine LSBs (R312). -/
def holdFine : Nat := 52429

/-- UNIT_EVENT (R312, R315 to R317): the earliest event, held its 64 ns, is paired. -/
def execUnitEvent (u : Fin 8) (s : State) : Result :=
  .next (match s.units[u].events with
  | [] => s
  | e :: r =>
    if s.now * 256 < e.stamp + holdFine then s
    else
    let t := s.modUnit u (fun m => { m with events := r })
    if e.isStart && e.isStop then t.periodEvent u e
    else if s.u (Obj.MEASURE.MODE u) = 0 then t.oneMany u e
    else t.oneOne u e)

/-- PAIR_WIN_EXPIRY (R315 to R317): held stops and the start whose PAIR_WIN has passed; not while an event of that time still waits to be
paired (R312). -/
def execPairWinExpiry (u : Fin 8) (s : State) : Result :=
  let m := s.units[u]
  let over' := fun (e : UnitEv) => decide (e.stamp + pairFine s u < s.now * 256) &&
    !(m.events.any (fun v => decide (v.stamp ≤ e.stamp + pairFine s u)))
  let gone := m.held.filter over'
  let t := s.modUnit u (fun m => { m with held := m.held.filter (fun e => !over' e) })
  let t := if gone.isEmpty then t else t.add (Obj.MEASURE.UNPAIRED u) gone.length
  .next (match m.start with
  | none => t
  | some (a, _) =>
    if !over' a then t
    else if !(a.isStart && a.isStop) ∧ s.u (Obj.MEASURE.MODE u) = 0 then t.setStart u none
    else (t.bump (Obj.MEASURE.TIMEOUTS u)).setStart u none)

/-- The commit of a unit's group (R320). -/
def State.commitUnit (s : State) (u : Fin 8) : State :=
  let t := s.commit (0x2210 + u)
  (t.modUnit u (fun _ => {})).put (Obj.MEASURE.PROGRESS u) 0

end Sys2Proof.Machine
end

