-- ==== Sys2Proof/Machine/Capture.lean ====
section
/-! DEFINITION. Capture regions, their conditions, triggers and records, the record store, and the bell (R258 to R281); and the two events
that open samples (MON_STAMP, PROFILE_DELIVERY) and the two that move deliveries to the ring (QUEUE_DRAIN, DELIVERY_COMPLETE). -/

namespace Sys2Proof.Machine

/-! ## Regions (R258 to R263, R280) -/

def regionOf (s : State) (r : Fin 64) : RegionPart := s.capture.regions[r]

def State.regionFlag (s : State) (r : Fin 64) (b : Nat) : State := s.setBit (Obj.REGION.FLAGS r) b

/-- Whether a sample of a port, delivery kind and set is one of the region's (R258). -/
def watches (s : State) (r : Fin 64) (n : Port) (kind set : Nat) : Bool :=
  s.u (Obj.REGION.PORT r) == n.val && s.u (Obj.REGION.SOURCE r) + 1 == kind && (s.u (Obj.REGION.SET_MASK r)).testBit set

/-- The time from the oldest to the newest stamp in an awning, in fine LSBs. -/
def spanFine (l : List AwnEntry) : Nat :=
  match l.head?, l.getLast? with
  | some a, some b => b.stamp - a.stamp
  | _, _ => 0

/-- AWN_FILL, AWN_SPAN and SHALLOW follow the awning. -/
def State.awnStatus (s : State) (r : Fin 64) : State :=
  let l := (regionOf s r).ring
  let t := s.put (Obj.REGION.AWN_FILL r) l.length
  (t.put (Obj.REGION.AWN_SPAN r) (freeRound (spanFine l * 5) 4096).toNat).putShallow r

/-- FILLING or ARMED of an armed region by its fill, DISARMED otherwise (R260). -/
def idleState (s : State) (r : Fin 64) : Nat :=
  if s.u (Obj.REGION.ARM_MODE r) = 0 then 0
  else if (regionOf s r).ring.length < (regionOf s r).len then 1 else 2

/-- A region outside POST and REARM takes the state its mode and fill give it; triggers that wait are dropped when it is disarmed. -/
def State.settleRegion (s : State) (r : Fin 64) : State :=
  if 3 ≤ s.u (Obj.REGION.RSTATE r) then s
  else
    let t := s.put (Obj.REGION.RSTATE r) (idleState s r)
    if idleState s r = 2 then t else t.modRegion r (fun x => { x with waiting := [] })

/-- A record in POST is closed early: it keeps the blocks recorded so far (R263, R273). -/
def State.closeRecord (s : State) (r : Fin 64) : State :=
  s.modRegion r (fun x => { x with record := x.record.map (fun c =>
    { c with closed := true, preShort := c.preShort || c.pre.any (fun e => !e.full), pre := c.pre.filter (·.full),
             post := c.post.filter (·.full) }) })

/-- The awning is emptied (R263). -/
def State.emptyAwning (s : State) (r : Fin 64) : State :=
  let t := s.closeRecord r
  let t := t.modRegion r (fun x =>
    { x with
      ring := [], pos := 0, lastLeft := (x.ring.getLast?.map (·.stamp)).or x.lastLeft,
      len := x.lenStaged.getD x.len, lenStaged := none })
  ((t.regionFlag r Bit.REGION.FLAGS.RING_TRIM).awnStatus r).settleRegion r

/-- ARM_MODE is written (R279): an armed region fills or is armed; disarming closes a record in POST and ends a REARM. -/
def State.armRegion (s : State) (r : Fin 64) (mode : Nat) : State :=
  let t := s.put (Obj.REGION.ARM_MODE r) mode
  if mode ≠ 0 then t.settleRegion r
  else if s.u (Obj.REGION.RSTATE r) = 3 then t.closeRecord r
  else (t.put (Obj.REGION.RSTATE r) 0).settleRegion r

/-! ## The bell (R277 to R279) -/

/-- A bell message of the device's own leaves with the next BELL_SEQ. -/
def State.sendBell (s : State) (m : BellMsg) : State :=
  let t := s.flood none { vc := 0, kind := 1, src := ownId s, body := .bell { m with origin := ownId s, seq := s.capture.bellSeq } }
  ({ t with capture := { t.capture with bellSeq := t.capture.bellSeq + 1 } }).bump Obj.CAPTURE.BELL_OUT

def fireMessage (tr : Trigger) (group r mask : Nat) (seq : BitVec 32) : BellMsg :=
  ⟨3, BitVec.ofNat 8 group, 0, 0, BitVec.ofInt 64 (tr.raw / 256), BitVec.ofInt 8 tr.raw, BitVec.ofNat 8 r, BitVec.ofNat 8 mask, 0, seq⟩

/-! ## Triggers and boundaries (R261, R268 to R271) -/

/-- An ignored trigger (R261): counted, flagged and summarised. -/
def State.ignoreTrigger (s : State) (r : Fin 64) (early : Bool) : State :=
  if early then
    ((s.bump (Obj.REGION.TRIG_EARLY r)).regionFlag r Bit.REGION.FLAGS.TRIG_EARLY).summary (.trigEarly r)
  else ((s.bump (Obj.REGION.TRIG_REARM r)).regionFlag r Bit.REGION.FLAGS.TRIG_REARM).summary (.trigRearm r)

/-- The boundary a target finds in an awning (R268, R270): its index and whether it is late; none while no sample is stamped at or after
it. -/
def boundaryOf (x : RegionPart) (tr : Trigger) : Option (Nat × Bool) :=
  let left := match x.lastLeft with
    | some l => decide (tr.x ≤ l)
    | none => false
  if tr.gone || left then some (0, true)
  else (x.ring.findIdx? (fun e => decide (tr.x ≤ e.stamp))).map (fun i => (i, false))

def condBit (c : Option (Fin 8)) : BitVec 8 := match c with | some k => BitVec.ofNat 8 (2 ^ k.val) | none => 0

def sourceBit (k : Fin 4) : BitVec 4 := BitVec.ofNat 4 (2 ^ k.val)

def lastN {α : Type} (n : Nat) (l : List α) : List α := l.drop (l.length - n)

/-- The entries of an awning before, and after, the one with a sequence number; none once that one has left. -/
def entriesBefore (l : List AwnEntry) (q : BitVec 32) : List AwnEntry :=
  if l.any (fun e => e.seq == q) then l.takeWhile (fun e => e.seq != q) else []
def entriesAfter (l : List AwnEntry) (q : BitVec 32) : List AwnEntry := (l.dropWhile (fun e => e.seq != q)).drop 1

/-- A record takes the lengths of a further trigger (R269): blocks that the awning still holds are added on both sides. -/
def RecordPart.extend (c : RecordPart) (ring : List AwnEntry) (pre post : Nat) : RecordPart :=
  let p := max c.wantPre pre
  let q := max c.wantPost post
  let first := ((c.pre ++ c.post).head?.map (·.seq)).getD c.boundary.seq
  let stop' := (c.post.getLast?.map (·.seq)).getD c.boundary.seq
  let pre' := lastN (p - c.pre.length) (entriesBefore ring first) ++ c.pre
  { c with wantPre := p, wantPost := q, pre := pre', post := (c.post ++ entriesAfter ring stop').take q,
           preShort := c.preShort || decide (pre'.length < p) }

/-- A trigger merges into the record in POST (R269). -/
def State.mergeTrigger (s : State) (r : Fin 64) (tr : Trigger) (late : Bool) : State :=
  let ring := (regionOf s r).ring
  let t := s.modRegion r (fun x => { x with record := x.record.map (fun c =>
    { c.extend ring tr.pre tr.post with
      condMask := c.condMask ||| condBit tr.cond, sources := c.sources ||| sourceBit tr.source, merged := true,
      late := c.late || late, preShort := (c.extend ring tr.pre tr.post).preShort || late,
      trigPoint := c.trigPoint.or tr.point }) })
  let t := if late then (t.bump (Obj.REGION.TRIG_LATE r)).regionFlag r Bit.REGION.FLAGS.LATE else t
  t.bump (Obj.REGION.MERGED r)

/-- A trigger that finds a region in POST (R261, R269). -/
def State.triggerInPost (s : State) (r : Fin 64) (tr : Trigger) : State :=
  let x := regionOf s r
  match x.record, boundaryOf x tr with
  | some c, some (i, late) =>
    if !c.closed && (x.ring[i]?.map (·.seq)) == some c.boundary.seq then s.mergeTrigger r tr late else s.ignoreTrigger r false
  | _, _ => s.ignoreTrigger r false

/-- A boundary is fixed (R268, R270, R271, R278): the region goes to POST with the blocks the awning holds, a FIRE is sent for a trigger
that is no fire, and the triggers still waiting merge or are ignored. -/
def State.fixBoundary (s : State) (r : Fin 64) (tr : Trigger) (i : Nat) (late : Bool) : State :=
  let x := regionOf s r
  match x.ring[i]? with
  | none => s
  | some b =>
    let pre := lastN tr.pre (x.ring.take i)
    let c : RecordPart := {
      first := tr, condMask := condBit tr.cond, sources := sourceBit tr.source, trigPoint := tr.point, late := late,
      preShort := late || decide (pre.length < tr.pre), wantPre := tr.pre, wantPost := tr.post, pre := pre,
      post := (x.ring.drop i).take tr.post, boundary := b, freeze := s.now,
      port := s.u (Obj.REGION.PORT r), pFirst := s.u (Obj.REGION.P_FIRST r), pCount := s.u (Obj.REGION.P_COUNT r) }
    let t := s.modRegion r (fun y => { y with record := some c, waiting := [] })
    let t := t.put (Obj.REGION.RSTATE r) 3
    let t := if late then (t.bump (Obj.REGION.TRIG_LATE r)).regionFlag r Bit.REGION.FLAGS.LATE else t
    let g := s.u (Obj.REGION.BELL_TX r)
    let t := if g ≠ 0xFF ∧ tr.source ≠ 3 then t.sendBell (fireMessage tr g r c.condMask.toNat b.seq) else t
    (x.waiting.erase tr).foldl (fun u w => u.triggerInPost r w) t

/-- A trigger reaches a region (R260, R261, R268). -/
def State.trigger (s : State) (r : Fin 64) (tr : Trigger) : State :=
  match s.u (Obj.REGION.RSTATE r) with
  | 0 => s
  | 1 => s.ignoreTrigger r true
  | 2 =>
    match boundaryOf (regionOf s r) tr with
    | none => s.modRegion r (fun x => { x with waiting := x.waiting ++ [tr] })
    | some (i, late) => s.fixBoundary r tr i late
  | 3 => s.triggerInPost r tr
  | _ => s.ignoreTrigger r false

/-! ## The awning (R259, R263) -/

/-- Where a region's awning stands in DRAM (log entry 12), and the bytes of an entry (R259). -/
def awnArea (r : Fin 64) : Nat := dramBase + Config.place (Obj.REGION.AWN_SHOTS r).key
def awnEntryBytes (s : State) (r : Fin 64) : Nat := ceilDiv (32 + 4 * s.u (Obj.REGION.P_COUNT r)) 16 * 16

/-- The bytes of an entry. -/
def AwnEntry.bytes (e : AwnEntry) : List Byte :=
  let b := padTo 32 e.header ++ e.words.flatMap (fun w => le 4 w.toNat)
  padTo (ceilDiv b.length 16 * 16) b

/-- An entry whose 16-byte word `i` holds some data. -/
def AwnEntry.withWord (e : AwnEntry) (i : Nat) (d : BitVec 128) (x : Bool) : AwnEntry :=
  let b := e.bytes.take (16 * i) ++ le 16 d.toNat ++ e.bytes.drop (16 * i + 16)
  { e with header := if i < 2 then b.take 32 else e.header,
           words := if i < 2 then e.words else (List.range e.words.length).map (fun j => BitVec.ofNat 32 (fromLe (slice b (32 + 4 * j) 4))),
           poisoned := (if x then [i] else []) ++ e.poisoned.filter (· != i) }

/-- A word of a region's awning; a record in hand that takes the entry takes it as it is. -/
def awnHolder (s : State) (r : Fin 64) (a : Nat) : Option Holder :=
  let z := awnEntryBytes s r
  let o := a - awnArea r
  let i := o % z / 16
  if a < awnArea r then none
  else ((regionOf s r).ring.find? (fun e => e.place == o / z)).map (fun e =>
    ⟨BitVec.ofNat 128 (fromLe (slice e.bytes (16 * i) 16)), e.poisoned.contains i,
      fun d x t =>
        let f := fun (y : AwnEntry) => if y.seq = e.seq then y.withWord i d x else y
        t.modRegion r (fun y =>
          { y with
            ring := y.ring.map f,
            record := y.record.map (fun c => { c with pre := c.pre.map f, post := c.post.map f, boundary := f c.boundary }) })⟩)

/-- The write pointer's wrap: a staged length takes effect with its group's commit, and the awning is emptied (R263, R339). -/
def State.wrapAwning (s : State) (r : Fin 64) : State :=
  let x := regionOf s r
  if x.pos < x.len then s
  else if x.lenStaged.isSome then (s.commitIf (0x5200 + r)).emptyAwning r
  else s.modRegion r (fun y => { y with pos := 0 })

/-- A sample's entry opens (R259): the oldest leaves a full awning, a record in POST takes it, and a waiting trigger finds its boundary. -/
def State.pushAwning (s : State) (r : Fin 64) (e : AwnEntry) : State :=
  let s := s.wrapAwning r
  let x := regionOf s r
  let isFull := decide (x.len ≤ x.ring.length)
  let e := { e with place := x.pos }
  let s := s.dropFlips (awnArea r + x.pos * awnEntryBytes s r) (awnEntryBytes s r)
  let t := s.modRegion r (fun y =>
    { y with
      ring := (if isFull then y.ring.drop 1 else y.ring) ++ [e], pos := y.pos + 1,
      lastLeft := if isFull then (y.ring.head?.map (·.stamp)).or y.lastLeft else y.lastLeft,
      record := y.record.map (fun c => if !c.closed && decide (c.post.length < c.wantPost) then { c with post := c.post ++ [e] } else c) })
  let t := (t.awnStatus r).settleRegion r
  match (regionOf t r).waiting.find? (fun w => decide (w.x ≤ (e.stamp : Int))) with
  | none => t
  | some w => t.fixBoundary r w ((regionOf t r).ring.length - 1) false

/-- A sample of a port opens its entries (R258, R259). -/
def State.openSample (s : State) (n : Port) (kind set : Nat) (seq : BitVec 32) (stamp : Stamp) : State :=
  overAll s (fun t r => if watches t r n kind set then t.pushAwning r { seq := seq, stamp := stamp } else t)

/-- Whether the trailer of a delivery carries OVERRUN (R147, R167). -/
def carriesOverrun (d : Delivery) : Bool := (imageField d.trailer 14 1).testBit (if d.kind = 1 then 4 else 0)

/-- An entry takes its delivery's header and words (R259), with the poison of those that a mirrored delivery brings. -/
def fillEntry (first count : Nat) (d : Delivery) (e : AwnEntry) : AwnEntry :=
  if e.seq = d.shotSeq ∧ !e.full then
    { e with
      deliv := d.deliv, header := d.header, words := (List.range count).map (fun i => pointOf d (first + i)), full := true,
      overrun := carriesOverrun d, outMode := if d.kind = 1 then d.outMode else 0,
      poisoned := if d.poisoned.isEmpty then [] else
        (List.range 2).filter (fun i => d.poisoned.contains i) ++
        ((List.range count).filter (fun i => decide (d.first ≤ first + i) && decide (first + i ≤ d.last) &&
          d.badWord (8 + (first + i - d.first)))).map (fun i => 2 + i / 4) |>.dedup }
  else e

/-- The words of a delivery that is wholly in the ring are in the awnings that hold its sample. -/
def State.fillSamples (s : State) (n : Port) (d : Delivery) : State :=
  overAll s (fun t r =>
    if watches t r n d.kind d.set then
      let f := fillEntry (t.u (Obj.REGION.P_FIRST r)) (t.u (Obj.REGION.P_COUNT r)) d
      t.modRegion r (fun x =>
        { x with
          ring := x.ring.map f,
          record := x.record.map (fun c => { c with pre := c.pre.map f, post := c.post.map f, boundary := f c.boundary }) })
    else t)

/-! ## MON_STAMP, STAMP_MISS, PROFILE_DELIVERY -/

/-- Whether a delivery's words are all in its ring slot, its header among them (R59). -/
def Delivery.inRingWhole (d : Delivery) : Bool := d.closed && d.left == 0 && !d.unheaded

/-- The deliveries of a queue that have become whole in the ring fill the awnings' entries. -/
def State.fillNew (s : State) (n : Port) (old new : List Delivery) : State :=
  ((old.zip new).filter (fun e => !e.1.inRingWhole && e.2.inRingWhole)).foldl (fun u e => u.fillSamples n e.2) s

/-- The launch stamp of a shot is known: headers and averages that wait for it take it, and a DAS sample's entry opens. -/
def State.stamped (s : State) (n : Port) (x : Shot) : State :=
  match firstShot s n (fun z => z.seq == x.seq && z.cal == x.cal && z.launchAt == x.launchAt && z.stamp.isSome) with
  | none => s
  | some z =>
    let t := if z.cal then s else s.settleHeader n z
    let t := t.fillNew n s.pipes[n].queue t.pipes[n].queue
    let t := if z.kind = 1 ∧ !z.cal then t.openSample n 1 z.toneSet z.seq (z.stamp.getD 0) else t
    t.dropOver n

/-- A stamped edge of Fn.MON (R59, R90, R91, R259); one outside every window is ignored. -/
def State.monEdge (s : State) (n : Port) (stamp : Stamp) : State :=
  match firstShot s n (Shot.takesMon stamp) with
  | none => s
  | some x => (s.monStamp n x stamp).stamped n x

/-- MON_STAMP (R90, R304): an edge of Fn.MON, channel n. -/
def execMonStamp (n : Port) (stamp : Stamp) (s : State) : Result :=
  .next (s.stampChannel ⟨n.val, by omega⟩ stamp (fun st t => t.monEdge n st))

/-- STAMP_MISS (R59, R91, R259). -/
def execStampMiss (n : Port) (s : State) : Result :=
  .next (match missNext s.ports[n].shots with
  | none => s
  | some x => (s.stampMiss n x).stamped n x)

/-- PROFILE_DELIVERY (R160 to R167, R259): the profile is handed over, and its sample's entries open. -/
def execProfileDelivery (n : Port) (s : State) : Result :=
  let t := s.handProfile n
  .next (if t.pipes[n].nextDeliv = s.pipes[n].nextDeliv then t
  else match t.pipes[n].queue.getLast? with
    | none => t
    | some d => t.openSample n 2 d.set d.shotSeq (imageField d.header 8 8 * 256 + imageField d.header 16 1))

/-! ## QUEUE_DRAIN, DELIVERY_COMPLETE (R143, R182, R183) -/

/-- QUEUE_DRAIN (R143): the porter takes words from the front of the queue to the ring and to the awnings (R259), none while the crossing to the
memory refuses them (R342); a twin's active sends its standby what is written (R443). -/
def execQueueDrain (n : Port) (words : Nat) (s : State) : Result :=
  let p := s.pipes[n]
  let k := if refuses s 2 then 0 else min words (p.queue.map (·.left)).sum
  let q := drain k p.queue
  .next (((s.modPipe n (fun p => { p with queue := q, queued := p.queued - k })).fillNew n p.queue q).mirrorQueue n)

/-- A region's groups, 5200h and 5300h, at a delivery of its port (R263, R266, R281). -/
def condRegs (r c : Nat) : List Reg :=
  [Obj.CONDITIONS.C_TYPE r c, Obj.CONDITIONS.C_POL r c, Obj.CONDITIONS.C_FIRST r c, Obj.CONDITIONS.C_COUNT r c,
   Obj.CONDITIONS.LEVEL_A r c, Obj.CONDITIONS.LEVEL_B r c, Obj.CONDITIONS.TIME_A r c, Obj.CONDITIONS.TIME_B r c,
   Obj.CONDITIONS.C_QMIN r c, Obj.CONDITIONS.C_PRE r c, Obj.CONDITIONS.C_POST r c, Obj.CONDITIONS.C_OFFSET r c,
   Obj.CONDITIONS.C_CAN_ID r c, Obj.CONDITIONS.C_CAN_MASK r c, Obj.CONDITIONS.C_CAN_FIELD r c]

/-- Whether a condition is one of types 1 to 5. -/
def pointType (v : Nat) : Bool := decide (1 ≤ v) && decide (v ≤ 5)

/-- The condition state in use, in points (R265). -/
def condPoints (s : State) : Nat :=
  ((List.range 64).map (fun r => ((List.range 8).map (fun c =>
    if pointType (s.u (Obj.CONDITIONS.C_TYPE r c)) then s.u (Obj.CONDITIONS.C_COUNT r c) else 0)).sum)).sum

/-- A committed change of a condition clears its state (R266). -/
def State.commitConditions (s : State) (r : Fin 64) : State :=
  let t := s.commitIf (0x5300 + r)
  let changed := fun (c : Fin 8) => (condRegs r c).any (fun k => s.u k != t.u k)
  let t := t.modRegion r (fun x =>
    { x with conds := Vector.ofFn (fun (c : Fin 8) => if changed c then {} else x.conds[c]) })
  t.put Obj.CAPTURE.COND_POINTS (condPoints t)

/-- The staged values of a record but one become the values in force, and its APPLY goes on waiting. -/
def State.takeBut (s : State) (idx : Nat) (but : Reg) : State :=
  let kept := s.staged.filter (fun e => e.1 == but.key)
  let t := ({ s with staged := s.staged.filter (fun e => e.1 != but.key) }).takeStaged [idx]
  { t with staged := kept.foldl (fun l e => rfSet l e.1 e.2) t.staged }

/-- The commit of a region's group (R263, R281, R339): a change of what it watches empties the awning with it; otherwise a change of AWN_SHOTS
waits for the wrap, and the group with it, while its other values take effect (log entry 97). -/
def State.commitRegion (s : State) (r : Fin 64) : State :=
  let moved := [Obj.REGION.PORT r, Obj.REGION.SOURCE r, Obj.REGION.SET_MASK r, Obj.REGION.P_FIRST r, Obj.REGION.P_COUNT r].any
    (fun k => s.u k != s.us k)
  let l := s.us (Obj.REGION.AWN_SHOTS r)
  let waits := !moved && (regionOf s r).len != l
  let t := if waits then s.takeBut (0x5200 + r) (Obj.REGION.AWN_SHOTS r) else s.commitIf (0x5200 + r)
  let t := t.modRegion r (fun x => { x with lenStaged := if x.len = l then none else some l })
  let t := if moved then t.emptyAwning r else t
  let a := t.u (Obj.REGION.ARM_MODE r)
  let t := if s.u (Obj.REGION.ARM_MODE r) = a then t else t.armRegion r a
  t.putShallow r

/-- The region groups whose APPLY waits for a delivery of the port (R281). -/
def State.regionsAt (s : State) (n : Port) : State :=
  overAll s (fun t r =>
    let t := if t.isApplying (0x5200 + r) && t.us (Obj.REGION.PORT r) == n.val then t.commitRegion r else t
    if t.isApplying (0x5300 + r) && t.u (Obj.REGION.PORT r) == n.val then t.commitConditions r else t)

/-- DELIVERY_COMPLETE (R183): the front delivery of the queue, its trailer written to its slot; a twin's active sends it to the standby
(R443). -/
def execDeliveryComplete (n : Port) (s : State) : Result :=
  .next (match s.pipes[n].queue with
  | [] => s
  | d :: q =>
    if !d.inRingWhole then s
    else (((s.modPipe n (fun p => { p with queue := q })).regionsAt n).completeDelivery n d).mirrorDelivery n d)

/-! ## Conditions (R264 to R267) -/

/-- The test T(v, X) of a condition's C_POL. -/
def polTest (pol : Nat) (v x : Int) : Bool :=
  match pol % 4 with
  | 0 => decide (x ≤ v)
  | 1 => decide (v ≤ x)
  | 2 => decide (x.natAbs ≤ v.natAbs)
  | _ => decide (v.natAbs < x.natAbs)

/-- The value of a point word (R264): signed, but unsigned in AMPLITUDE mode; in COMPLEX mode the spec does not say (log entry 119). -/
def wordValue (outMode : Nat) (w : BitVec 32) : Int :=
  if outMode = 2 ∨ (outMode = 3 ∧ !Config.complexSigned) then (w.toNat / 256 : Nat) else toSigned 24 (w.toNat / 256)

def wordQuality (w : BitVec 32) : Nat := w.toNat % 256

/-- Whether a word is invalid for a condition of some C_QMIN (R264); of COMPLEX words, which have no quality, 8000_8000h is (log entry 119). -/
def wordBad (outMode qmin : Nat) (w : BitVec 32) : Bool :=
  if outMode = 3 then w == 0x80008000#32 else decide (wordQuality w < qmin)

/-- A condition as it is in force. -/
structure Cond where
  type : Nat
  pol : Nat
  a : Int
  b : Int
  ta : Nat
  tb : Nat
  qmin : Nat
deriving DecidableEq, Repr

def condOf (s : State) (r c : Nat) : Cond :=
  ⟨s.u (Obj.CONDITIONS.C_TYPE r c), s.u (Obj.CONDITIONS.C_POL r c), s.i (Obj.CONDITIONS.LEVEL_A r c), s.i (Obj.CONDITIONS.LEVEL_B r c),
   s.u (Obj.CONDITIONS.TIME_A r c), s.u (Obj.CONDITIONS.TIME_B r c), s.u (Obj.CONDITIONS.C_QMIN r c)⟩

/-- Whether a point meets a condition on a sample of value `v` (R264). -/
def metAt (k : Cond) (p : PointState) (v : Int) : Bool :=
  let on := polTest k.pol v k.a
  match k.type with
  | 1 => on && (match p.prev with | some u => !polTest k.pol u k.a | none => true)
  | 2 =>
    match p.prev with
    | none => false
    | some u =>
      match k.pol % 4 with
      | 0 => decide (k.a ≤ v - u)
      | 1 => decide (v - u ≤ -k.a)
      | _ => decide (k.a ≤ (v - u).natAbs)
  | 3 => !on && decide (0 < p.run) && ((decide (k.ta ≤ p.run) && decide (p.run ≤ k.tb)) != k.pol.testBit 7)
  | 4 => !on && decide (0 < p.run) && !p.runB
  | 5 => on && p.run + 1 == k.ta
  | _ => false

/-- The state of a point after a sample: an invalid word ends its run and leaves no previous value. -/
def stepPoint (k : Cond) (p : PointState) (v : Int) : PointState :=
  if polTest k.pol v k.a then ⟨some v, p.run + 1, p.runB || polTest k.pol v k.b⟩ else ⟨some v, 0, false⟩

/-- The words of the delivery whose sample is tested, and how many of them the ring holds. -/
def sampleDelivery (s : State) (n : Port) (kind : Nat) (q : BitVec 32) : Option Delivery :=
  (s.pipes[n].ring ++ s.pipes[n].queue).find? (fun d => d.kind == kind && d.shotSeq == q)

/-- Whether a point's word of a delivery has reached the ring, or will not be emitted. -/
def wordKnown (d : Delivery) (p : Nat) : Bool :=
  let drained := 8 + d.body.length + (if d.closed then 4 else 0) - d.left
  match d.rev with
  | none => decide (p < d.first) || (decide (p < d.validEnd) && decide (8 + (p - d.first) < drained)) || (d.closed && decide (d.validEnd ≤ p))
  | some _ => decide (d.validEnd ≤ p) || (decide (d.first ≤ p) && decide (8 + (d.validEnd - 1 - p) < drained)) || (d.closed && decide (p < d.first))

/-- One condition tested on a sample: its new state and the lowest point that met it. -/
def testCond (s : State) (r : Fin 64) (c : Fin 8) (d : Delivery) (old : CondPart) : CondPart × Option Nat :=
  let k := condOf s r c
  let ps := (List.range (s.u (Obj.CONDITIONS.C_COUNT r c))).map (s.u (Obj.CONDITIONS.C_FIRST r c) + ·)
  let each := ps.map (fun p =>
    let w := pointClean d p
    let st := ((old.points.find? (fun e => e.1 == p)).map (·.2)).getD {}
    if wordBad (if d.kind = 1 then d.outMode else 0) k.qmin w then (p, ({} : PointState), false)
    else
      let v := wordValue (if d.kind = 1 then d.outMode else 0) w
      (p, stepPoint k st v, metAt k st v))
  ({ old with points := (each.filter (fun e => e.2.1 != {})).map (fun e => (e.1, e.2.1)) },
   (each.find? (fun e => e.2.2)).map (·.1))

/-- A condition met at an epoch becomes a trigger (R268). -/
def condTrigger (s : State) (r : Fin 64) (c : Fin 8) (source : Fin 4) (raw off : Int) (point : Option Nat) (gone : Bool) : Trigger :=
  { x := raw + off * 256, raw := raw, cond := some c, source := source, pre := s.u (Obj.CONDITIONS.C_PRE r c),
    post := s.u (Obj.CONDITIONS.C_POST r c), origin := ownId s, point := point, gone := gone }

/-- The point conditions of a region tested on one sample: the conditions met, in order, become triggers (R264, R268, R269). -/
def State.testSample (s : State) (r : Fin 64) (e : AwnEntry) (d : Delivery) : State :=
  (List.finRange 8).foldl (fun (t : State) (c : Fin 8) =>
    if pointType (t.u (Obj.CONDITIONS.C_TYPE r c)) then
      let res := testCond t r c d (regionOf t r).conds[c]
      let u := t.modRegion r (fun x => { x with conds := x.conds.set c res.1 })
      match res.2 with
      | none => u
      | some p => (u.bump (Obj.CONDITIONS.MET r c)).trigger r (condTrigger u r c 0 e.stamp 0 (some p) false)
    else t) s

/-- POINT_CONDITION (R264): the region's oldest sample not yet tested, once the words its conditions test are there. -/
def execPointCondition (r : Fin 64) (s : State) : Result :=
  let n : Port := ⟨s.u (Obj.REGION.PORT r) % 8, Nat.mod_lt _ (by decide)⟩
  .next (match (regionOf s r).ring.find? (fun e => !e.tested) with
  | none => s
  | some e =>
    match sampleDelivery s n (s.u (Obj.REGION.SOURCE r) + 1) e.seq with
    | none => s
    | some d =>
      let known := (List.range 8).all (fun c => !pointType (s.u (Obj.CONDITIONS.C_TYPE r c)) ||
        (List.range (s.u (Obj.CONDITIONS.C_COUNT r c))).all (fun i => wordKnown d (s.u (Obj.CONDITIONS.C_FIRST r c) + i)))
      if known then
        (s.modRegion r (fun x => { x with ring := x.ring.map (fun y => if y.seq = e.seq then { y with tested := true } else y) })).testSample
          r e d
      else s)

/-! ## Stall requests (R272) -/

/-- The epoch a STALL request names: its own, or the launch stamp of its delivery with whether that has left the awning. -/
def requestStamp (s : State) (r : Fin 64) (q : List Byte) : Int × Bool :=
  if (imageField q 2 1).testBit 0 then ((imageField q 8 8 : Int) * 256, false)
  else
    let v := BitVec.ofNat 32 (imageField q 4 4)
    match (regionOf s r).ring.find? (fun e => e.full && e.deliv == v) with
    | some e => (e.stamp, false)
    | none =>
      let n : Port := ⟨s.u (Obj.REGION.PORT r) % 8, Nat.mod_lt _ (by decide)⟩
      match inRing s.pipes[n] v with
      | some d =>
        let l : Nat := imageField d.header 8 8 * 256 + imageField d.header 16 1
        (l, watches s r n d.kind d.set && (match (regionOf s r).lastLeft with | some e => decide (l ≤ e) | none => false))
      | none => (Config.lostStamp v.toNat, true)

/-- Whether a stall hosts a pitch of the region's port. -/
def requestPort (s : State) (t : StallId) (r : Fin 64) : Bool :=
  s.stalls[t].pitches.any (fun k => s.u (Obj.PITCH.PORT k) == s.u (Obj.REGION.PORT r))

/-- STALL_TRIG_REQUEST (R272): the request at the head of the queue. -/
def execStallTrigRequest (s : State) : Result :=
  .next (match s.array.trig with
  | [] => s
  | (t, q) :: rest =>
    let u := { s with array := { s.array with trig := rest } }
    if h : imageField q 0 1 < 64 ∧ imageField q 1 1 < 8 then
      let r : Fin 64 := ⟨_, h.1⟩
      let c : Fin 8 := ⟨_, h.2⟩
      if s.u (Obj.CONDITIONS.C_TYPE r c) ≠ 7 ∨ !requestPort s t r then u.bump Obj.CAPTURE.TRIG_BAD
      else if s.u (Obj.REGION.RSTATE r) = 0 then u
      else
        let x := requestStamp s r q
        (u.bump (Obj.CONDITIONS.MET r c)).trigger r
          (condTrigger u r c 1 x.1 (s.i (Obj.CONDITIONS.C_OFFSET r c)) none x.2)
    else u.bump Obj.CAPTURE.TRIG_BAD)

/-! ## CAN conditions (R267, R410) -/

/-- The field a CAN condition reads, none where it extends beyond the frame's data. -/
def canField (fld : Nat) (data : List Byte) : Option Int :=
  let start := fld % 512
  let len := fld / 512 % 32 + 1
  if start + len ≤ 8 * data.length then
    let v := fromLe data / 2 ^ start % 2 ^ len
    some (if fld.testBit 14 then toSigned len v else v)
  else none

/-- One CAN condition against a frame (R267). -/
def State.canCond (s : State) (id : Nat) (data : List Byte) (stamp : Int) (r : Fin 64) (c : Fin 8) : State :=
  let m := s.u (Obj.CONDITIONS.C_CAN_MASK r c) % 2 ^ 29
  if s.u (Obj.CONDITIONS.C_TYPE r c) ≠ 6 ∨ Nat.land id m ≠ Nat.land (s.u (Obj.CONDITIONS.C_CAN_ID r c) % 2 ^ 29) m then s
  else match canField (s.u (Obj.CONDITIONS.C_CAN_FIELD r c)) data with
  | none => s
  | some v =>
    let on := polTest (s.u (Obj.CONDITIONS.C_POL r c)) v (s.i (Obj.CONDITIONS.LEVEL_A r c))
    let met := on && (regionOf s r).conds[c].lastCan != some true
    let t := s.modRegion r (fun x => { x with conds := x.conds.set c { x.conds[c] with lastCan := some on } })
    if met then
      (t.bump (Obj.CONDITIONS.MET r c)).trigger r (condTrigger t r c 2 stamp (s.i (Obj.CONDITIONS.C_OFFSET r c)) none false)
    else t

/-- One period of CANCLK, 20 ns, in fine LSBs: what a CAN stamp resolves (R410). -/
def canStep : Nat := 16384

/-- CAN_FRAME (R267, R409, R410): a received frame, stamped less RX_DELAY, meets the CAN conditions; 11-bit identifiers match none. -/
def execCanFrame (id : BitVec 29) (ext : Bool) (data : List Byte) (stamp : Stamp) (s : State) : Result :=
  .next (if s.u Obj.CAN.CAN_EN = 0 ∨ s.can.busOff then s
  else
    let st : Int := (stamp / canStep * canStep : Nat) - freeRound (s.u Obj.CAN.RX_DELAY * 1000 * 512) 625
    let t := (s.bump Obj.CAN.RX_FRAMES).canPassed Obj.CAN.REC 128 1
    if ext then
      overAll t (fun u r => (List.finRange 8).foldl (fun (w : State) (c : Fin 8) => w.canCond id.toNat data st r c) u)
    else t)

/-! ## Records and the record store (R273 to R275) -/

/-- The words of an entry as a record takes them: those of a poisoned 16-byte word are the quality-0 word (R326); the first two hold the header. -/
def recordWords (e : AwnEntry) : List (BitVec 32) :=
  e.words.zipIdx.map (fun w => if e.poisoned.contains (2 + w.2 / 4) then zeroWord e.outMode else w.1)

/-- Whether a word has quality 0 (R274): in COMPLEX mode, which gives words no quality, 8000_8000h has (R136). -/
def qualityZero (outMode : Nat) (w : BitVec 32) : Bool := if outMode = 3 then w == 0x80008000#32 else wordQuality w == 0

/-- A shot block: the header and the words, padded to a multiple of 16 bytes (R259, R273). -/
def blockOf (e : AwnEntry) : List Byte :=
  AwnEntry.bytes { e with words := recordWords e }

/-- A measured value: block relative to the boundary, point, value, and whether the port ran in AMPLITUDE mode. -/
structure Measured where
  block : Int
  point : Nat
  v : Int
  amp : Bool
deriving DecidableEq, Repr

def measuredOf (first : Nat) (pre : Nat) (l : List AwnEntry) : List Measured :=
  l.zipIdx.flatMap (fun e => (recordWords e.1).zipIdx.filterMap (fun w =>
    if qualityZero e.1.outMode w.1 then none
    else some ⟨(e.2 : Int) - pre, first + w.2, wordValue e.1.outMode w.1, e.1.outMode == 2⟩))

/-- The value of largest magnitude, the earliest on a tie (R273, R274). -/
def peakOf : List Measured → Option Measured
  | [] => none
  | m :: r => some (r.foldl (fun b x => if (if x.amp then decide (b.v < x.v) else decide (b.v.natAbs < x.v.natAbs)) then x else b) m)

/-- A root mean square rounded half to even (R273). -/
def rmsOf (l : List Int) : Nat :=
  let n := l.length
  let q := (l.map (fun v => v.natAbs ^ 2)).sum
  if n = 0 then 0
  else
    let r := Nat.sqrt (q / n)
    if n * (2 * r + 1) ^ 2 < 4 * q ∨ (n * (2 * r + 1) ^ 2 = 4 * q ∧ r % 2 = 1) then r + 1 else r

def noPoint : Nat := 0xFFFFFFFF

/-- The 128-byte header of a record but for its CRC (R273, R274). -/
def recordHead (s : State) (r : Fin 64) (c : RecordPart) : List Byte :=
  let n := c.port
  let first := c.pFirst
  let all := c.pre ++ c.post
  let ms := measuredOf first c.pre.length all
  let lim := (s.i (Obj.REGION.MEAS_LEVEL r)).natAbs
  let ext := (ms.filter (fun m => decide (lim ≤ m.v.natAbs))).map (·.point)
  let over' := ms.filter (fun m => decide (0 ≤ m.block) && decide (lim ≤ m.v.natAbs))
  let pk := peakOf ms
  let words := (all.map (fun e => e.words.length)).sum
  let rflags := bit8 (all.any (·.overrun)) 5 + bit8 (all.any (fun e => (imageField e.header 18 1).testBit 7)) 4 + bit8 c.late 3 +
    bit8 c.merged 2 + bit8 (decide (c.post.length < c.wantPost)) 1 + bit8 c.preShort 0
  le 2 1 ++ le 1 r ++ le 1 n ++ le 4 (regionOf s r).recordSeq.toNat ++ le 1 c.condMask.toNat ++ le 1 c.sources.toNat ++ le 2 rflags ++
  le 2 c.pre.length ++ le 2 c.post.length ++ le 4 first ++ le 4 c.pCount ++
  le 8 (ofSigned 64 (c.first.x / 256)) ++ le 1 (ofSigned 8 c.first.x) ++ le 1 0 ++ le 2 c.first.origin.toNat ++
  le 4 c.first.bellSeq.toNat ++ le 4 c.boundary.seq.toNat ++ le 4 c.boundary.deliv.toNat ++ le 8 c.freeze ++
  le 4 (c.trigPoint.getD noPoint) ++ le 4 ((pk.map (·.point)).getD noPoint) ++ le 4 (ofSigned 32 ((pk.map (·.v)).getD 0)) ++
  le 2 (ofSigned 16 ((pk.map (·.block)).getD 0)) ++ le 2 (over'.map (·.block)).dedup.length ++
  le 4 (ofSigned 32 (((ms.map (·.v)).min?).getD 0)) ++ le 4 (ext.min?.getD noPoint) ++ le 4 (ext.max?.getD noPoint) ++
  le 4 (rmsOf (ms.map (·.v))) ++ le 4 (words - ms.length) ++ le 4 words ++ le 28 0

/-- A whole record: header with CRC, and the blocks. -/
def recordBytes (s : State) (r : Fin 64) (c : RecordPart) : List Byte :=
  let h := recordHead s r c
  let b := (c.pre ++ c.post).flatMap blockOf
  h ++ le 4 (crc32c (h ++ b)).toNat ++ b

/-- Where the record store stands in DRAM (log entry 12). -/
def storeArea : Nat := dramBase + Config.place Obj.CAPTURE.STORE_LEN.key

def StoredRecord.stop (e : StoredRecord) : Nat := e.place + e.bytes.length

/-- The records that do not stay leave the store; streams that had still to read them lose them (R275, R365). -/
def State.keepRecords (s : State) (stays : StoredRecord → Bool) : State :=
  let gone := s.capture.store.filter (fun e => !stays e)
  let t := { s with capture := { s.capture with store := s.capture.store.filter stays } }
  if gone.isEmpty then t
  else t.overtake (fun it => it.kind == 3 && gone.any (fun e => e.region.val == it.src && e.seq == it.item))

/-- The record store's wrap: a staged STORE_LEN takes effect, and records beyond a nearer end leave (R275, R339). -/
def State.wrapStore (s : State) : State :=
  let t := s.commitIf 0x5280
  let n := t.u Obj.CAPTURE.STORE_LEN * 2 ^ 20
  let short := decide (t.u Obj.CAPTURE.STORE_LEN < s.u Obj.CAPTURE.STORE_LEN)
  let t := t.keepRecords (fun e => decide (e.stop ≤ min n s.capture.storePos))
  let t := { t with capture := { t.capture with storePos := 0 } }
  if short then t.setBit Obj.CAPTURE.FLAGS 0 else t

/-- A record enters the store: it overwrites the oldest (R275). -/
def State.storeRecord (s : State) (r : Fin 64) (b : List Byte) : State :=
  let t := if s.capture.storePos + b.length ≤ s.u Obj.CAPTURE.STORE_LEN * 2 ^ 20 then s else s.wrapStore
  let p := t.capture.storePos
  let t := t.keepRecords (fun e => decide (e.stop ≤ p) || decide (p + b.length ≤ e.place))
  State.dropFlips { t with capture := { t.capture with
    store := t.capture.store ++ [⟨r, (regionOf s r).recordSeq, p, b, []⟩], storePos := p + b.length } } (storeArea + p) b.length

/-- A record as the item of a RECORDS stream; its poisoned 16-byte words are zeros (R366). -/
def recordItem (e : StoredRecord) (epoch : Nat) : Item :=
  ⟨3, e.region, e.seq, e.bytes.zipIdx.map (fun b => if e.poisoned.contains (b.2 / 16) then 0 else b.1), epoch, false,
    e.poisoned.map (16 * ·), false, e.poisoned.map (16 * ·)⟩

/-- A word of the record store. -/
def storeHolder (s : State) (a : Nat) : Option Holder :=
  let o := a - storeArea
  if a < storeArea then none
  else (s.capture.store.find? (fun e => decide (e.place ≤ o) && decide (o < e.stop))).map (fun e =>
    let i := (o - e.place) / 16
    ⟨BitVec.ofNat 128 (fromLe (slice e.bytes (16 * i) 16)), e.poisoned.contains i,
      fun d x t =>
        let e' := { e with bytes := e.bytes.take (16 * i) ++ le 16 d.toNat ++ e.bytes.drop (16 * i + 16),
                           poisoned := (if x then [i] else []) ++ e.poisoned.filter (· != i) }
        State.refresh { t with capture := { t.capture with store := t.capture.store.map (fun y => if y.place = e.place then e' else y) } }
          (fun it => it.kind == 3 && it.src == e.region.val && it.item == e.seq) (fun _ => recordItem e' t.now)⟩)

/-- The words of a record's entries are read from the awning (R323, R324). -/
def State.readAwning (s : State) (r : Fin 64) (c : RecordPart) : State :=
  let z := awnEntryBytes s r
  let words := (c.pre ++ c.post).flatMap (fun e =>
    e.poisoned.map (fun i => awnArea r + e.place * z + 16 * i) ++
    (s.flips.map (·.1)).filter (fun w => decide (awnArea r + e.place * z ≤ w) && decide (w < awnArea r + (e.place + 1) * z) &&
      !e.poisoned.contains ((w - (awnArea r + e.place * z)) / 16)))
  words.foldl (fun (t : State) w => match awnHolder t r w with
    | some h => t.readAt w h
    | none => t) s

/-- Whether a record's last block is there. -/
def RecordPart.complete (c : RecordPart) : Bool :=
  (c.closed || decide (c.wantPost ≤ c.post.length)) && (c.pre ++ c.post).all (·.full)

/-- RECORD_WRITTEN (R260, R273, R355): the record becomes readable, its counters move, streams take it, and REARM starts. -/
def execRecordWritten (r : Fin 64) (s : State) : Result :=
  .next (match (regionOf s r).record with
  | none => s
  | some c =>
    if !c.complete then s
    else
      let s := s.readAwning r c
      let c := (regionOf s r).record.getD c
      let b := recordBytes s r c
      let q := (regionOf s r).recordSeq
      let t := s.storeRecord r b
      let t := t.modRegion r (fun x => { x with record := none, recordSeq := x.recordSeq + 1 })
      let t := (t.bump (Obj.REGION.RECORDS r)).bump Obj.CAPTURE.RECORDS
      let t := t.put (Obj.REGION.LAST_SEQ r) q.toNat
      let t := if c.preShort then t.regionFlag r Bit.REGION.FLAGS.PRE_SHORT else t
      let t := if t.u (Obj.REGION.ARM_MODE r) = 0 then t.put (Obj.REGION.RSTATE r) 0 else t.put (Obj.REGION.RSTATE r) 4
      t.toStreams 2 (fun k => (s.u (Obj.STREAM.SEL k)).testBit r) (fun _ => recordItem ⟨r, q, 0, b, []⟩ s.now))

/-- REARM_END (R262). -/
def execRearmEnd (r : Fin 64) (s : State) : Result :=
  .next (if s.u (Obj.REGION.RSTATE r) ≠ 4 then s
  else
    let t := if s.u (Obj.REGION.ARM_MODE r) = 1 then s.put (Obj.REGION.ARM_MODE r) 0 else s
    (t.put (Obj.REGION.RSTATE r) 0).settleRegion r)

/-! ## Bell messages (R277, R279) -/

/-- The bell messages remembered: those of the last 1 s, up to 4,096 (R437). -/
def State.remembered (s : State) : List (BitVec 11 × BitVec 32 × Int) :=
  (s.capture.seen.filter (fun e => decide ((s.now : Int) < e.2.2 + ticksPerSecond))).take 4096

/-- A received message is acted on once, and not when it is the device's own; it goes on once to every other UP link while hops
remain (R277, R437). -/
def State.bellOnce (s : State) (k : Fin 4) (hops : BitVec 8) (m : BellMsg) (f : State → State) : State :=
  let seen := s.remembered
  if m.origin = ownId s ∨ seen.any (fun e => e.1 == m.origin && e.2.1 == m.seq) then s
  else
    let t := { s with capture := { s.capture with seen := ((m.origin, m.seq, (s.now : Int)) :: seen).take 4096 } }
    let t := if 1 < hops.toNat then
      t.flood (some k) { vc := 0, kind := 1, src := m.origin, hops := hops.toNat - 1, body := .bell m } else t
    f t

/-- A BELL frame comes over a link. -/
def State.bellIn (s : State) (a : Arrival) (hops : BitVec 8) (m : BellMsg) (f : State → State) : Result :=
  .next (s.receive a 0 (ifClean a (fun t => t.bellOnce a.link hops m f)))

/-- The regions of a bell group. -/
def State.onGroup (s : State) (g : Nat) (f : State → Fin 64 → State) : State :=
  overAll s (fun t r => if s.u (Obj.REGION.BELL_RX r) = g ∧ g ≠ 0xFF then f t r else t)

/-- A FIRE acts on a group (R268, R279). -/
def State.fire (s : State) (g : Nat) (raw : Int) (origin : BitVec 11) (seq : BitVec 32) : State :=
  s.onGroup g (fun t r => t.trigger r
    { x := raw + s.i (Obj.REGION.FIRE_OFFSET r) * 256, raw := raw, source := 3, pre := s.u (Obj.REGION.BELL_PRE r),
      post := s.u (Obj.REGION.BELL_POST r), origin := origin, bellSeq := seq })

/-- An ARM or DISARM acts on a group at its epoch, or at once when that has passed (R279). -/
def State.armGroup (s : State) (g mode epoch : Nat) : State :=
  if epoch ≤ s.now then s.onGroup g (fun t r => t.armRegion r mode)
  else { s with capture := { s.capture with arms := s.capture.arms ++ [(epoch, g, mode)] } }

/-- BELL_ARM (R277, R279): ARM_MODE 1 or 2. -/
def execBellArm (a : Arrival) (hops : BitVec 8) (m : BellMsg) (s : State) : Result :=
  s.bellIn a hops m (fun t => (if m.armMode = 1 ∨ m.armMode = 2 then t.armGroup m.group.toNat m.armMode.toNat m.epoch.toNat else t).bump Obj.CAPTURE.BELL_IN)

/-- BELL_DISARM (R279). -/
def execBellDisarm (a : Arrival) (hops : BitVec 8) (m : BellMsg) (s : State) : Result :=
  s.bellIn a hops m (fun t => (t.armGroup m.group.toNat 0 m.epoch.toNat).bump Obj.CAPTURE.BELL_IN)

/-- BELL_FIRE (R279). -/
def execBellFire (a : Arrival) (hops : BitVec 8) (m : BellMsg) (s : State) : Result :=
  s.bellIn a hops m (fun t =>
    (t.fire m.group.toNat ((m.epoch.toNat : Int) * 256 + m.fine.toNat) m.origin m.seq).bump Obj.CAPTURE.BELL_IN)

/-- ARM_AT_EPOCH (R279): the messages whose epoch has come. -/
def execArmAtEpoch (s : State) : Result :=
  let due := s.capture.arms.filter (fun a => decide (a.1 ≤ s.now))
  let t := { s with capture := { s.capture with arms := s.capture.arms.filter (fun a => decide (s.now < a.1)) } }
  .next ((due.insertionSort (fun a b => a.1 ≤ b.1)).foldl (fun u a => u.onGroup a.2.1 (fun v r => v.armRegion r a.2.2)) t)

/-- BELL_TYPE_VIOLATION (R277): ignored, and entered as a violation. -/
def execBellTypeViolation (a : Arrival) (hops : BitVec 8) (m : BellMsg) (s : State) : Result :=
  s.bellIn a hops m (fun t => t.violate 10 (.fwd m.origin a.link) none 0)

def hostMessage (type group : Nat) (epoch : Nat) (mode : Nat) : BellMsg :=
  ⟨BitVec.ofNat 8 type, BitVec.ofNat 8 group, 0, 0, BitVec.ofNat 64 epoch, 0, 0xFF, 0, BitVec.ofNat 8 mode, 0⟩

/-- The effect of a write of FIRE_GROUP (R279). -/
def fireGroupEff (s : State) (g : Nat) : State :=
  (s.sendBell (hostMessage 3 g s.now 0)).fire g ((s.now : Int) * 256) (ownId s) s.capture.bellSeq

/-- The effect of a write of ARM_GROUP (R279): [7:0] group, [9:8] ARM_MODE, 0 for a DISARM. -/
def armGroupEff (s : State) (v : Nat) : State :=
  let g := v % 256
  let m := v / 256 % 4
  let t := s.sendBell (hostMessage (if m = 0 then 2 else 1) g s.now m)
  if m = 3 then t else t.armGroup g m s.now

end Sys2Proof.Machine
end

