-- ==== Sys2Proof/Machine/Flash.lean ====
section
/-! DEFINITION. The flash journals (R495 to R500): what each carries, the steps of a write, and early warning. -/

namespace Sys2Proof.Machine

/-! ## What the journals carry (R495) -/

/-- Whether a key is an RWP object of the Ledger (R383, R384). -/
def rwpKey (k : Nat) : Bool :=
  match Obj.record (k / 256) with
  | none => false
  | some r =>
    match Obj.rowOf r.2 (k % 256) with
    | some w => w.1.acc == .rwp
    | none => false

def trimKey : Nat := Obj.CLOCKS.XTAL_TRIM.key

/-- Whether a key is a receive trim (7840h + n, 01h to 05h). -/
def rxTrimKey (k : Nat) : Bool := decide (0x7840 ≤ k / 256) && decide (k / 256 < 0x7848) && decide (k % 256 ≤ 5)

/-- The key under which journal 0 keeps the trims of a target that no Ledger object shows, and those under which journals 2 to 17 keep an
image. -/
def hiddenTrim (k : Nat) : Nat := 0x1000000 + k
def imageKey : Nat := 0x2000000

/-- The receive target that sets a trim (R483). -/
def trimTarget (key : Nat) : Nat := key / 256 - 0x7840 + (if key % 256 ≤ 3 then 0 else 8)

/-- A receive trim as a calibration has proved it (R485, R489): while its target runs the value of the START, else the one that takes effect next,
or the one in force. -/
def provedTrim (s : State) (key : Nat) : List Byte :=
  let c := s.calOf (trimTarget key)
  (((if c.running then c.saved else c.newTrims).find? (fun e => e.1 == key)).map (·.2)).getD (s.blob key)

/-- The trims that no object shows, as proved. -/
def provedHidden (s : State) (k : Nat) : List Byte :=
  let c := s.calOf k
  if c.running then ((c.saved.head?).map (·.2)).getD c.inForce else c.inForce

/-- The receive trims of all ports that are not at their defaults. -/
def provedTrims (s : State) : List (Nat × List Byte) :=
  ((List.range 40).map (fun i => (0x7840 + i / 5) * 256 + 1 + i % 5)).filterMap (fun k =>
    if (provedTrim s k).isEmpty then none else some (k, provedTrim s k))

/-- What a write of a journal carries: 0 proved trims and XTAL_TRIM, 1 RWP values, 2 to 17 the image of a program slot. -/
def journalData (s : State) (j : Fin 18) : JournalData :=
  match j.val with
  | 0 => ⟨s.regs.filter (fun e => e.1 == trimKey), provedTrims s ++ (List.range 4).map (fun i => (hiddenTrim (16 + i), provedHidden s (16 + i)))⟩
  | 1 => ⟨s.regs.filter (fun e => rwpKey e.1 && e.1 != trimKey), s.blobs.filter (fun e => rwpKey e.1)⟩
  | k + 2 => ⟨[], [(imageKey, s.programs[(⟨k % 16, Nat.mod_lt _ (by decide)⟩ : Fin 16)].image)]⟩

/-- A journal awaits a write (R497). -/
def State.journal (s : State) (j : Nat) : State := s.setBit Obj.FLASH.PENDING j

def writeBlocked (s : State) : Bool := s.bit Obj.FLASH.FLAGS Bit.FLASH.FLAGS.WRITE_BLOCKED

/-! ## A journal write (R497) -/

/-- Whether journal 1 has begun a write within the last 250 ms (R497). -/
def writtenLately (s : State) (j : Fin 18) : Bool :=
  j.val == 1 && (match s.flash.journals[j].began with
    | none => false
    | some b => decide (b ≤ s.now) && decide (s.now < b + 800000000))

/-- The calibrations whose results a write of journal 0 that begins now carries (R498). -/
def State.calCarried (s : State) (j : Fin 18) : State :=
  if j = 0 then { s with cal := s.cal.map (fun c => { c with carried := c.journalling }) } else s

/-- JOURNAL_WRITE: the write of a journal's pending changes begins with the erase of the inactive slot or position; none starts while the
clerks are halted or restarting, or wait to restart on another bank (R506, R514), and none of journal 1 within 250 ms of its last. -/
def execJournalWrite (j : Fin 18) (s : State) : Result :=
  .next (if s.flash.journals[j].job.isSome || !s.bit Obj.FLASH.PENDING j || writeBlocked s || !clerksUp s || s.boot.switching ||
    writtenLately s j then s
  else ((s.clrBit Obj.FLASH.PENDING j).modJournal j (fun x => { x with job := some { data := journalData s j }, began := some s.now })).calCarried j)

/-- The slot and position the next write of a journal takes (R496). -/
def nextPlace (j : Fin 18) (x : JournalPart) : Nat × Nat :=
  if j.val = 1 then (if x.position < 15 then (x.slot, x.position + 1) else (1 - x.slot, 0)) else (1 - x.slot, x.position)

/-- An erase ends: the slot's count, ERASE_MAX and WEAR_ALERT (R495). -/
def State.countErase (s : State) (j : Fin 18) : State :=
  let p := nextPlace j s.flash.journals[j]
  let n := (s.flash.journals[j].erases.getD p.1 0) + 1
  let t := s.modJournal j (fun x => { x with erases := x.erases.set p.1 n })
  let t := t.put Obj.FLASH.ERASE_MAX (max (s.u Obj.FLASH.ERASE_MAX) n)
  t.putBit Obj.FLASH.FLAGS Bit.FLASH.FLAGS.WEAR_ALERT (decide (80000 < t.u Obj.FLASH.ERASE_MAX))

/-- A calibration whose trims the commit holds is done (R498). -/
def State.calCommitted (s : State) : State :=
  (List.range 20).foldl (fun t k =>
    if (t.calOf k).carried then
      let u := t.modCal k (fun c => { c with journalling := false, carried := false })
      let u := ((u.put (Obj.CAL_TARGET.RESULT k) 0).put (Obj.CAL_TARGET.DONE k) (epochVal (u.now * 256))).put (Obj.CAL_TARGET.PHASE k) 0
      u.put (Obj.CAL_TARGET.TEMP k) (u.u Obj.HEALTH.T_ANALOGUE)
    else t) s

/-- The commit word is complete (R496, R497). -/
def State.commitJournal (s : State) (j : Fin 18) (w : WriteJob) : State :=
  let p := nextPlace j s.flash.journals[j]
  let q := s.flash.journals[j].seq + 1
  let t := s.modJournal j (fun x => { x with valid := true, seq := q, slot := p.1, position := p.2, data := w.data, job := none })
  let t := (t.bump Obj.FLASH.WRITES).put Obj.FLASH.LAST_WRITE (epochVal (s.now * 256))
  match j.val with
  | 0 => ({ t with clk := { t.clk with trimSaved := toSigned 32 (rf w.data.regs trimKey 0) } }.put Obj.FLASH.CAL_SEQ q.toNat).calCommitted
  | 1 => t.put Obj.FLASH.LEDGER_SEQ q.toNat
  | _ => t

/-- The end of a flash operation (R497, R500): the step at hand of a journal's write ends; a failed verify erases and writes once more, a second one
sets FLASH_FAULT. -/
def State.flashEnd (s : State) (j : Fin 18) (ok : Bool) : State :=
  match s.flash.journals[j].job with
  | none => s
  | some w =>
    if w.held then s
    else
      let move := fun (t : State) (v : WriteJob) => t.modJournal j (fun x => { x with job := some { v with held := writeBlocked t } })
      match w.step with
      | 0 => move (s.countErase j) { w with step := 1 }
      | 1 => move s { w with step := 2 }
      | 2 =>
        if ok then move s { w with step := 3 }
        else if w.again then
          ((s.modJournal j (fun x => { x with job := none })).setBit Obj.FLASH.FLAGS Bit.FLASH.FLAGS.FLASH_FAULT).log
            { cls := 5, sub := 25, inst := j, index := 0x7900, osub := 1, bit := 2, detail := s.u Obj.FLASH.FLAGS }
        else move s { w with step := 0, again := true }
      | _ => s.commitJournal j w

/-! ## Early warning (R500, R518) -/

/-- An erase in progress is abandoned. -/
def State.abandonErase (s : State) (j : Fin 18) : State :=
  match s.flash.journals[j].job with
  | some w =>
    if w.step = 0 ∧ !w.held then
      (s.bump Obj.FLASH.ABANDONED).modJournal j (fun x => { x with job := some { w with held := true } })
    else s
  | none => s

/-- The rails of this device (R529). -/
def railMask (rails : BitVec 32) : Nat := rails.toNat % 256

/-- EARLY_WARN: rails below 95 %; writes are blocked, and an erase in progress is abandoned. -/
def execEarlyWarn (rails : BitVec 32) (s : State) : Result :=
  let t := (s.put Obj.HEALTH.RAIL_UV (s.u Obj.HEALTH.RAIL_UV ||| railMask rails)).setBit Obj.HEALTH.FLAGS Bit.HEALTH.FLAGS.UV
  .next (if s.bit Obj.HEALTH.FLAGS Bit.HEALTH.FLAGS.EARLY_WARN then t
  else
    let t := (t.setBit Obj.FLASH.FLAGS Bit.FLASH.FLAGS.WRITE_BLOCKED).setBit Obj.HEALTH.FLAGS Bit.HEALTH.FLAGS.EARLY_WARN
    overAll (t.bump Obj.FLASH.WARNINGS) State.abandonErase)

/-- An interrupted write starts again at its erase. -/
def State.resumeWrite (s : State) (j : Fin 18) : State :=
  match s.flash.journals[j].job with
  | some w => if w.held then s.modJournal j (fun x => { x with job := some { w with held := false, step := 0 } }) else s
  | none => s

/-- EARLY_WARN_CLEAR: every rail has been above 96 % for 10 ms; writes go on. -/
def execEarlyWarnClear (s : State) : Result :=
  let t := s.clrBit Obj.FLASH.FLAGS Bit.FLASH.FLAGS.WRITE_BLOCKED
  let t := (t.put Obj.HEALTH.RAIL_UV 0).clrBit Obj.HEALTH.FLAGS Bit.HEALTH.FLAGS.UV
  let t := t.clrBit Obj.HEALTH.FLAGS Bit.HEALTH.FLAGS.EARLY_WARN
  .next (overAll t.flushCells State.resumeWrite)

end Sys2Proof.Machine
end

