-- ==== Sys2Proof/Machine/Ports.lean ====
section
/-! DEFINITION. The fibre ports (R65 to R98): the close of a record window, tone sets, port faults, the FCTL output, and the commit of a
port's configuration groups. -/

namespace Sys2Proof.Machine

/-! ## RECORD_WINDOW_CLOSE (R57, R70, R71, R74, R77, R155, R157, R487, R490) -/

def openWindow (x : Shot) : Bool := x.winOpen && !x.winClosed

/-- New receive trims of a port take effect (R490). -/
def State.applyTrims (s : State) (n : Port) : State :=
  [n.val, n.val + 8].foldl (fun t k =>
    let c := t.calOf k
    let u := c.newTrims.foldl (fun u e => u.putBlob e.1 e.2) t
    u.modCal k (fun c => { c with newTrims := [] })) s

/-- A port's pending trims at its commit point: at once where no earlier window is still to close, else with the last of those. -/
def State.trimsAtCommit (s : State) (n : Port) : State :=
  if (s.calOf n.val).newTrims.isEmpty && (s.calOf (n.val + 8)).newTrims.isEmpty then s
  else if s.ports[n].shots.any (fun x => !x.winClosed) then
    let k := (s.ports[n].shots.filter (fun x => !x.winClosed)).length
    s.modPort n (fun q => { q with shots :=
      ((q.shots.zipIdx).map (fun e =>
        if (q.shots.take (e.2 + 1)).countP (fun x => !x.winClosed) = k ∧ !e.1.winClosed then { e.1 with trimAfter := true }
        else e.1)) })
  else s.applyTrims n

/-- An auto-gain input's peak record of a window (R71): the peak after the first AGC_SKIP samples, and whether an overrange sample stands
among those it is taken over. -/
def peakRec (l : List RxSample) (skip step : Nat) : PeakRec := ⟨rxPeak l skip, decide (overCount (l.drop skip) ≠ 0), step⟩

/-- The peaks of a shot that auto-gain may use (R73), of the inputs that recorded it. -/
def keepPeak (x : Shot) (skip : Nat) (p : FibrePort) : FibrePort :=
  let a := agcOf p x.entry
  setAgc p { a with
    x := if x.inputs.testBit 0 then { a.x with peaks := peakRec x.recX skip x.stepX :: a.x.peaks } else a.x,
    y := if x.inputs.testBit 1 then { a.y with peaks := peakRec x.recY skip x.stepY :: a.y.peaks } else a.y }

/-- OVERRANGE (R74, R96). -/
def State.overrangeIn (s : State) (r : Reg) (fl : Reg) (anyBit satBit : Nat) (count step : Nat) : State :=
  if count = 0 then s
  else
    let t := (s.add r count).setBit fl anyBit
    if step = 0 then t.setBit fl satBit else t

/-- STUCK_LANES (R77): a lane with a single code over the window sets its bit, one with two codes clears it. -/
def State.stuckLanes (s : State) (n : Port) (x : Shot) : State :=
  let old := BitVec.ofNat 16 (s.u (Obj.PORT_STATUS.STUCK_LANES n))
  let new := (old ||| laneBits x.recX x.recY laneStuck) &&& ~~~(laneBits x.recX x.recY laneMoves)
  let t := s.put (Obj.PORT_STATUS.STUCK_LANES n) new.toNat
  let t := t.logFlag (Obj.PORT_STATUS.FLAGS n) Bit.PORT_STATUS.FLAGS.STUCK_X (new.toNat % 256 != 0) 1 n
  t.logFlag (Obj.PORT_STATUS.FLAGS n) Bit.PORT_STATUS.FLAGS.STUCK_Y (new.toNat / 256 != 0) 1 n

/-- The peaks of the inputs that recorded a window (R71, R97); an input that is disabled has none (R79). -/
def State.putPeaks (s : State) (n : Port) (x : Shot) : State :=
  let skip := s.u (Obj.RECEIVE.AGC_SKIP n)
  let t := if x.inputs.testBit 0 then s.put (Obj.PORT_STATUS.PEAK_X n) (rxPeak x.recX skip) else s
  if x.inputs.testBit 1 then t.put (Obj.PORT_STATUS.PEAK_Y n) (rxPeak x.recY skip) else t

/-- What the coherent receive path finds over a window. -/
def State.coherentWindow (s : State) (n : Port) (x : Shot) : State :=
  let fl := Obj.PORT_STATUS.FLAGS n
  let t := s.overrangeIn (Obj.PORT_STATUS.OVR_X n) fl Bit.PORT_STATUS.FLAGS.OVR_X Bit.PORT_STATUS.FLAGS.SAT_X (overCount x.recX) x.stepX
  let t := t.overrangeIn (Obj.PORT_STATUS.OVR_Y n) fl Bit.PORT_STATUS.FLAGS.OVR_Y Bit.PORT_STATUS.FLAGS.SAT_Y (overCount x.recY) x.stepY
  let t := t.stuckLanes n x
  if x.cal then t
  else
    let t := t.putPeaks n x
    if x.auto && !x.cut && !x.invalid && !x.agcOld then t.modPort n (keepPeak x (s.u (Obj.RECEIVE.AGC_SKIP n))) else t

/-- A calibration shot is used, or discarded (R487); the last one of a phase makes a computation due. -/
def State.calWindow (s : State) (n : Port) (x : Shot) : State :=
  let k := calTarget s n
  let c := s.calOf k
  if x.cut || x.invalid || x.relDiscard || c.computing || !c.running then s
  else s.modCal k (fun c => { c with used := c.used + 1, records := c.records ++ [⟨x.recX, x.recY, x.stepX, x.stepY⟩], computing := decide (calNeed k c.comps ≤ c.used + 1) })

/-- RECORD_WINDOW_CLOSE: the record window of the port's earliest open shot closes. -/
def execRecordWindowClose (n : Port) (raman : Option RamanRecord) (s : State) : Result :=
  .next (match firstShot s n openWindow with
  | none => s
  | some x =>
    let t := s.modShot n openWindow (fun z =>
      { z with winClosed := true, dataDone := z.dataDone || z.cal || z.kind == 2 })
    let t := if x.kind = 2 then t else t.coherentWindow n x
    let t := if x.cal then t.calWindow n x else t
    let t := match x.kind, raman with
      | 2, some r => t.addDts n x r
      | _, _ => t
    let t := if x.trimAfter then t.applyTrims n else t
    ((t.gainInForce n).dropOver n).settleSwitch)

/-! ## Tone sets (R83 to R85) -/

/-- The aggregate bandwidth in kHz (R83): a chirp at its BANDWIDTH, a plain pulse at 2 / DURATION. -/
def bwSum (g : Reg → Nat) (n : Port) (k : Nat) : Rat :=
  ((tonesOn g n k).map (fun t =>
    let b := g (Obj.TONE.BANDWIDTH n (tone k t))
    if b = 0 then (6400000 : Rat) / (max 1 (g (Obj.TONE.DURATION n (tone k t))) : Nat) else (b : Rat))).sum

def setDuration (g : Reg → Nat) (n : Port) (k : Nat) : Nat :=
  ((tonesOn g n k).map (fun t => g (Obj.TONE.DURATION n (tone k t)))).foldl max 0

/-- The index of the lowest of some peaks, the first of equals (R84). -/
def lowestPeak : List Rat → Nat × Rat
  | [] => (0, 0)
  | p :: r => (r.zipIdx 1).foldl (fun b e => if e.1 < b.2 then (e.2, e.1) else b) (0, p)

/-- The start phase of tone t under candidate c (R84). -/
def phaseOf (phase c t : Nat) : Nat := (phase + c * (2 * t + 1) * 40503) % 65536

/-- SCALE for a target LEVEL and an unscaled peak (R84). -/
def scaleOf (level : Nat) (peak : Rat) : Nat :=
  if peak ≤ level then 65535 else min (65536 * (level : Rat) / peak).floor.toNat 65534

/-- The candidate phase sets of a tone set (R84). -/
def candidates (g : Reg → Nat) (n : Port) (k : Nat) : Nat := if g (Obj.TONE_SET.CREST_MODE n k) = 1 then 256 else 1

/-- A tone set's waveform under candidate c, scale 1 (R84). -/
def candidateWave (g : Reg → Nat) (n : Port) (k c : Nat) : List Rat :=
  waveform (toneSpecs g n k (fun t => phaseOf (g (Obj.TONE.PHASE n (tone k t))) c t)) (g (Obj.LAUNCH.INV_SINC n) == 1)
    (g Obj.IDENTITY.SILICON)

/-- The clerks' computation for a tone set (R84). -/
def crestResult (g : Reg → Nat) (n : Port) (k : Nat) : CrestResult :=
  let best := lowestPeak ((List.range (candidates g n k)).map (fun c => peakCodes (candidateWave g n k c)))
  ⟨best.1, best.2, crestOf (candidateWave g n k best.1)⟩

/-- The figures of a tone set in force (R83, R84). -/
def State.putFigures (s : State) (n : Port) (k : Nat) (res : CrestResult) : State :=
  let t := (List.range 8).foldl (fun v i =>
    v.put (Obj.TONE.PHASE_USED n (tone k i)) (phaseOf (v.u (Obj.TONE.PHASE n (tone k i))) res.cand i)) s
  let t := t.put (Obj.TONE_SET.SCALE n k) (scaleOf (t.u (Obj.TONE_SET.LEVEL n k)) res.peak)
  let t := t.put (Obj.TONE_SET.CREST n k) res.crest
  let t := t.put (Obj.TONE_SET.DURATION n k) (setDuration t.u n k)
  let t := t.put (Obj.TONE_SET.BW_SUM n k) (freeRound (bwSum t.u n k).num (bwSum t.u n k).den).toNat
  t.put (Obj.TONE_SET.PEAK_RAW n k) (min 65535 res.peak.ceil.toNat)

/-- TONE_SET_COMMIT (R85): the set whose computation has ended takes effect, with the figures computed for it; a DAS set relearns (R124). -/
def State.commitTones (s : State) (n : Port) (k : Nat) (res : CrestResult) : State :=
  let t := (s.commit (0x3010 + 0x100 * n + k)).putFigures n k res
  let t := t.modPort n (fun q => { q with crestDone := q.crestDone.filter (fun e => e.1 != k) })
  if k ∈ dasSets t n then t.startRelearn n k else t

/-- CREST_COMPUTATION_END (R84, R85): the figures of the applied set are known, and it waits for the port's next commit point. The computation
reads INV_SINC as in force at its end (log entry 86). -/
def execCrestComputationEnd (n : Port) (set : Fin 16) (s : State) : Result :=
  .next (if s.isApplying (0x3010 + 0x100 * n + set) && !(s.ports[n].crestDone.any (fun e => e.1 == set.val)) then
    s.modPort n (fun q => { q with crestDone := q.crestDone ++ [(set.val, crestResult (stagedSet s n set) n set)] })
  else s)
where
  stagedSet (s : State) (n : Port) (k : Nat) (r : Reg) : Nat :=
    if (groupIndices (0x3010 + 0x100 * n + k)).contains (r.key / 256) then s.us r else s.u r

/-! ## Port faults (R96) -/

/-- COMMON_MODE_FAULT: an input's common mode has been out of range, or back in range, for 1 ms. -/
def execCommonModeFault (n : Port) (y out : Bool) (mv : BitVec 16) (s : State) : Result :=
  let t := s.put (if y then Obj.PORT_STATUS.CM_Y n else Obj.PORT_STATUS.CM_X n) mv.toNat
  .next (t.logFlag (Obj.PORT_STATUS.FLAGS n) (if y then Bit.PORT_STATUS.FLAGS.CM_Y else Bit.PORT_STATUS.FLAGS.CM_X) out 1 n)

/-- TX_CHECK: the open and short check between shots, while TX_CHECK is 1. -/
def execTxCheck (n : Port) (isOpen isShort : Bool) (s : State) : Result :=
  .next (if s.u (Obj.LAUNCH.TX_CHECK n) = 1 then
    let t := s.logFlag (Obj.PORT_STATUS.FLAGS n) Bit.PORT_STATUS.FLAGS.TX_OPEN isOpen 1 n
    t.logFlag (Obj.PORT_STATUS.FLAGS n) Bit.PORT_STATUS.FLAGS.TX_SHORT isShort 1 n
  else s)

/-! ## FCTL (R92 to R94) -/

/-- One FCK period and one frame in root ticks: FCK is 50 MHz / FCK_DIV, a frame WORD_BITS + 2 periods. -/
def fckTicks (s : State) (n : Port) : Nat := 64 * max 1 (s.u (Obj.FCTL.FCK_DIV n))
def frameTicks (s : State) (n : Port) : Nat := (s.u (Obj.FCTL.WORD_BITS n) + 2) * fckTicks s n

def State.modFctl (s : State) (n : Port) (f : FctlPart → FctlPart) : State :=
  s.modPort n (fun q => { q with fctl := f q.fctl })

def State.countQueued (s : State) (n : Port) : State := s.put (Obj.FCTL.QUEUED n) s.ports[n].fctl.host.length

/-- A word leaves on FCTL, right-aligned in WORD_BITS. -/
def State.sendWord (s : State) (n : Port) (w : BitVec 32) : State :=
  let bits := s.u (Obj.FCTL.WORD_BITS n)
  s.emit (.fctl n (BitVec.ofNat 32 (w.toNat % 2 ^ bits)) bits)

/-- The next host word starts when the port's outputs are released (R66), FCTL is free and the word would not still
be in progress at the next scheduled word's epoch (R93). -/
def State.startHost (s : State) (n : Port) : State :=
  let f := s.ports[n].fctl
  match f.busy, f.host with
  | none, w :: rest =>
    let clear := s.ports[n].live && (match f.sched with
      | [] => true
      | v :: _ => decide (s.now + frameTicks s n ≤ v.epoch))
    if clear then
      ((s.modFctl n (fun f => { f with host := rest, busy := some w, since := s.now, busyGroup := none })).sendWord n w).countQueued n
    else s.countQueued n
  | _, _ => s.countQueued n

/-- The effect of a SEND that is not refused (R92, R94). -/
def sendEff (s : State) (n : Port) (w : BitVec 32) : State :=
  (s.modFctl n (fun f => { f with host := f.host ++ [w] })).startHost n

/-- FCTL_WORD_END (R92, R94, R170): the frame in progress ends; a group that waited for it takes effect, and the next host word starts. -/
def execFctlWordEnd (n : Port) (s : State) : Result :=
  let f := s.ports[n].fctl
  .next (match f.busy with
  | none => s
  | some _ =>
    let t := (s.modFctl n (fun f => { f with busy := none, busyGroup := none, lateCommit := false })).bump (Obj.FCTL.SENT n)
    let t := match f.busyGroup with
      | some g => if g.2 = s.bril[n].gen then t.modBril n (fun b => { b with wordEnds := b.wordEnds ++ [(g.1, s.now)] }) else t
      | none => t
    let t := if f.lateCommit then t.commitIf (0x3003 + 0x100 * n) else t
    t.startHost n)

/-- SCHEDULED_WORD_START (R92, R93): the first scheduled word starts, not before its epoch; a start more than one FCK period after its epoch is late. -/
def execScheduledWordStart (n : Port) (s : State) : Result :=
  let f := s.ports[n].fctl
  .next (match f.busy, f.sched with
  | none, w :: rest =>
    if s.now < w.epoch then s else
    let t := (s.modFctl n (fun f =>
      { f with sched := rest, busy := some w.value, since := s.now, busyGroup := some (w.group, w.gen) })).sendWord n w.value
    if fckTicks s n < s.now - w.epoch then
      let ns := (freeRound (((s.now - w.epoch : Nat) : Int) * 5) 16).toNat
      (t.bump (Obj.FCTL.LATE n)).put (Obj.FCTL.LATE_MAX n) (max (s.u (Obj.FCTL.LATE_MAX n)) ns)
    else t
  | _, _ => s)

/-! ## RELEARN (R149) -/

/-- The effect of a write of 1 to RELEARN: it acts at the next commit point. -/
def relearnEff (s : State) (n : Port) (v : Nat) : State :=
  if v = 1 then s.modPort n (fun q => { q with relearnReq := true }) else s

/-! ## The commit of a port's groups (R43 to R46, R85, R94, R120, R149, R159, R176) -/

/-- An entry's APPLY takes effect (R71, R73): shots before it serve auto-gain no longer, and a fixed GAIN it had is kept in mind. -/
def entryTaken (old : Nat) (e : Nat) (p : FibrePort) : FibrePort :=
  let a := agcOf p e
  let f := fun (i : AgcInput) => { i with peaks := [], fixed := if old = 0xFF then i.fixed else some old }
  let q := setAgc p { a with x := f a.x, y := f a.y }
  { q with shots := q.shots.map (fun x => if x.entry = e then { x with agcOld := true } else x) }

/-- A shorter table continues at entry 0 with its repeats anew; else the position and the repeats left of the entry at hand stay (R45). A new
axis drops the offers of the old one (R46). -/
def State.tableTaken (s : State) (n : Port) (oldAxis : Nat) : State :=
  let t := if s.u (Obj.SCHEDULER.TABLE_LEN n) ≤ s.ports[n].pos then
    s.modPort n (fun q => { q with pos := 0, left := some (s.u (Obj.SHOT_ENTRY.REPEAT n 0)) }) else s
  if t.u (Obj.SCHEDULER.AXIS n) = oldAxis then t
  else t.modPort n (fun q => { q with lineOffers := [], lineBad := false })

/-- Whether a group's staged copy holds anything. -/
def State.hasStaged (s : State) (idx : Nat) : Bool := s.staged.any (fun e => e.1 / 256 == idx)

/-- The shot table's groups (R43, R44): an APPLY of 3020h commits every staged entry, and is the last APPLY of those alone (R73). -/
def State.commitTable (s : State) (n : Port) : State :=
  let b := 0x3000 + 0x100 * n.val
  let t := if s.isApplying (b + 0x20) then
      let u := s.commit (b + 0x20)
      let u := (List.range 64).foldl (fun v e =>
        if s.hasStaged (b + 0x40 + e) then v.modPort n (entryTaken (s.u (Obj.SHOT_ENTRY.GAIN n e)) e) else v) u
      u.tableTaken n (s.u (Obj.SCHEDULER.AXIS n))
    else s
  (List.range 64).foldl (fun v e =>
    if v.isApplying (b + 0x40 + e) then
      (v.commit (b + 0x40 + e)).modPort n (entryTaken (v.u (Obj.SHOT_ENTRY.GAIN n e)) e)
    else v) t

/-- The objects whose change resets the branch state, and those whose change clears what the gauge remembers (R120). -/
def resetKeys (s : State) (n : Port) : List Nat :=
  [s.u (Obj.PIPELINE.DECIM n), s.u (Obj.PIPELINE.DECIM_MODE n), s.u (Obj.PIPELINE.WINDOW n),
   s.u (Obj.PIPELINE.ZERO_DELAY n), s.u (Obj.PIPELINE.DAS_SETS n)]

def gaugeKeys (s : State) (n : Port) : List Nat :=
  [s.u (Obj.PIPELINE.GAUGE n), s.u (Obj.PIPELINE.OUT_MODE n), s.u (Obj.PIPELINE.UNWRAP_ORDER n), s.u (Obj.PIPELINE.PHASE_SIGN n)]

/-- The pipeline group takes effect, with the branch state it needs (R117). -/
def State.pipelineTaken (s : State) (n : Port) : State :=
  let b := 0x3800 + 0x100 * n.val
  if s.isApplying b then
    let t := s.commit b
    t.modPipe n (fun p => { p with stateBytes := branchBytes t.u n })
  else s

/-- The branch state of every set is reset (R120): shots committed before keep the words they were committed under, to read only. -/
def State.resetBranches (s : State) (n : Port) : State :=
  let l := shotsUnderway s.ports[n]
  s.modPipe n (fun p =>
    { p with
      words := [], gen := p.gen + 1, clearSets := [], arrived := if l.isEmpty then [] else p.arrived,
      older := ((p.gen, p.words) :: p.older).filter (fun e => l.any (fun x => x.stateGen == e.1)) })

/-- The sets that a committed change of DAS_SETS dropped read 0 in 02h to 07h of their tone-plan status (R150). -/
def State.dropPlans (s : State) (n : Port) : State :=
  (List.range 16).foldl (fun t k =>
    if k ∈ dasSets s n then t
    else [Obj.TONE_PLAN.BRANCHES n k, Obj.TONE_PLAN.L_M n k, Obj.TONE_PLAN.N_FFT n k, Obj.TONE_PLAN.RES_MIN n k,
      Obj.TONE_PLAN.TBP_MAX n k, Obj.TONE_PLAN.LATENCY n k].foldl (fun u r => u.put r 0) t) s

/-- The pipeline's groups (R120, R149). -/
def State.commitPipeline (s : State) (n : Port) : State :=
  let b := 0x3800 + 0x100 * n.val
  let t := if s.isApplying b then (s.pipelineTaken n).dropPlans n else s
  let t := if resetKeys t n ≠ resetKeys s n then (t.resetBranches n).relearnAll n else t
  let t := if gaugeKeys t n ≠ gaugeKeys s n then
      t.modPipe n (fun p =>
        { p with
          clearSets := List.range 16, gaugeReset := true,
          words := (List.range 16).foldl (fun l k =>
            if (shotsUnderway t.ports[n]).any (fun x => x.toneSet == k) then l else clearSet k l) p.words })
    else t
  let t := (t.commitIf (b + 1)).commitIf (b + 2)
  if t.ports[n].relearnReq then (t.modPort n (fun q => { q with relearnReq := false })).relearnAll n else t

/-- The Raman groups (R159, R178). -/
def State.commitRaman (s : State) (n : Port) : State :=
  let b := 0x4000 + 0x100 * n.val
  let t := if s.isApplying b then
      (List.finRange 8).foldl (fun v a => v.restartSet n a) (s.commit b)
    else s
  (List.finRange 8).foldl (fun v (a : Fin 8) =>
    if v.isApplying (b + 0x10 + a) then
      let u := v.commit (b + 0x10 + a)
      ((u.modSet n a (fun x => { x with bytes := ramanBytes u.u n a })).put (Obj.AVG_SET.MEM n a) (ramanBytes u.u n a)).restartSet n a
    else v) t

/-- The spectrum buffers of a port are allocated (R173). -/
def State.allocSpectrum (s : State) (n : Port) : State :=
  let t := s.put (Obj.BRIL_STATUS.BUF0_ADDR n) (dramBase + Config.place (Obj.BRIL_STATUS.BUF0_ADDR n).key)
  let t := t.put (Obj.BRIL_STATUS.BUF1_ADDR n) (dramBase + Config.place (Obj.BRIL_STATUS.BUF1_ADDR n).key)
  t.modBril n (fun b => { b with sizes := [brilBytes s.u n, brilBytes s.u n] })

/-- The Brillouin groups (R168, R173, R176, R178): an APPLY of the group or of the program in use abandons the sweep and places its buffers;
so does a table that names another program. -/
def State.commitBrillouin (s : State) (n : Port) : State :=
  let b := 0x4800 + 0x100 * n.val
  let old := s.bril[n].program
  let p := sweepProgram s n
  let due := s.isApplying b || s.isApplying (b + 0x10 + old) || s.isApplying (b + 0x10 + p) || p != old
  let t := (List.range 8).foldl (fun v q => v.commitIf (b + 0x10 + q)) (s.commitIf b)
  if due then ((t.allocSpectrum n).abortSweep n).modBril n (fun b => { b with program := p }) else t

/-- Whether a group is one of a port's. -/
def portGroup (n : Port) (idx : Nat) : Bool := decide (0x3000 ≤ idx) && decide (idx < 0x5000) && idx / 256 % 8 == n.val

/-- The port's outputs are released at the first commit point at which it is configured (R66; log entry 89). -/
def State.goLive (s : State) (n : Port) (now : Bool) : State :=
  if s.ports[n].live then s
  else if now || s.ports[n].configured then (s.modPort n (fun q => { q with live := true })).startHost n
  else s

/-- The groups of a port at its commit point (R43). -/
def State.commitPort (s : State) (n : Port) : State :=
  let b := 0x3000 + 0x100 * n.val
  let now := s.ledger.applying.any (fun a => portGroup n a.index)
  let t := (s.commitIf b).commitIf (b + 2)
  let t := if t.isApplying (b + 3) && t.ports[n].fctl.busy.isSome then t.modFctl n (fun f => { f with lateCommit := true })
    else t.commitIf (b + 3)
  let t := t.ports[n].crestDone.foldl (fun v e => v.commitTones n e.1 e.2) t
  let t := t.commitTable n
  let t := t.commitPipeline n
  let t := t.commitRaman n
  let t := t.commitBrillouin n
  (t.trimsAtCommit n).goLive n now

end Sys2Proof.Machine
end

