-- ==== Sys2Proof/Machine/Calib.lean ====
section
/-! DEFINITION. Calibrations (R483 to R494): their start and end, the phases of a receive calibration and what takes its trims. -/

namespace Sys2Proof.Machine

/-! ## Start (R484) -/

/-- The port of a receive target. -/
def calPort (k : Nat) : Port := ⟨k % 8, Nat.mod_lt _ (by decide)⟩

/-- Whether a calibration is in hand, its journal write included. -/
def calBusy (s : State) (k : Nat) : Bool := (s.calOf k).running || (s.calOf k).journalling

/-- The refusal code of START (R484); 0 for none. -/
def calRefusal (s : State) (k : Nat) : Nat :=
  let n := calPort k
  let set := s.u Obj.CALIBRATION.CAL_SET
  if k < 16 ∧ (!(s.u (Obj.PIPELINE.DAS_SETS n)).testBit set ∨ bwSum s.u n set < 100000) then 0x0302
  else if calBusy s k ∨ s.coasting then 0x0401
  else if k < 16 ∧ (calBusy s (if k < 8 then k + 8 else k - 8) ∨ s.withheld n) then 0x0401
  else 0

/-- The trims a target sets, as they stand, those still to take effect under R490 among them. -/
def trimsOf (s : State) (k : Nat) : List (Nat × List Byte) :=
  let n := k % 8
  let now := fun (b : Nat) => (b, (((s.calOf k).newTrims.find? (fun e => e.1 == b)).map (·.2)).getD (s.blob b))
  if k < 8 then [Obj.RX_TRIMS.SKEW n, Obj.RX_TRIMS.OFFSET n, Obj.RX_TRIMS.GAIN n].map now
  else if k < 16 then [Obj.RX_TRIMS.VGA n, Obj.RX_TRIMS.NOISE n].map now
  else [(hiddenTrim k, (s.calOf k).inForce)]

def State.calFlag (s : State) : State :=
  s.putBit Obj.CALIBRATION.FLAGS Bit.CALIBRATION.FLAGS.CAL_RUNNING ((List.range 20).any (calBusy s))

/-- A calibration begins (R484). -/
def calStartEff (s : State) (k : Nat) : State :=
  let t := s.modCal k (fun c =>
    { c with running := true, started := s.now, used := 0, comps := 0, records := [], refused := 0, computing := false, saved := trimsOf s k,
             quality := 0, within := true, source := s.u (Obj.RX_TRIMS.SOURCE (k % 8)) })
  ((t.bump (Obj.CAL_TARGET.RUNS k)).put (Obj.CAL_TARGET.PHASE k) 1).calFlag

/-! ## End (R485, R489) -/

/-- Trims are to take effect: those of a receive target under R490, others at once. -/
def State.giveTrims (s : State) (k : Nat) (l : List (Nat × List Byte)) : State :=
  if k < 16 then s.modCal k (fun c => { c with newTrims := l ++ c.newTrims.filter (fun e => !l.any (fun x => x.1 == e.1)) })
  else s.modCal k (fun c => { c with inForce := ((l.find? (fun e => e.1 == hiddenTrim k)).map (·.2)).getD c.inForce })

/-- The milliseconds a run has taken. -/
def calTime (s : State) (k : Nat) : Nat := (freeRound ((s.now : Int) - (s.calOf k).started) 3200000).toNat

/-- The calibration shots of a port that were committed before a computation or the run ended are discarded (R487). -/
def State.discardCalShots (s : State) (k : Nat) : State :=
  if 16 ≤ k then s
  else s.modPort (calPort k) (fun p => { p with shots := p.shots.map (fun x => if x.cal ∧ !x.winClosed then { x with relDiscard := true } else x) })

/-- The result of a run is known: the port is no longer held. -/
def State.calEnd (s : State) (k : Nat) : State :=
  let t := ((s.discardCalShots k).put (Obj.CAL_TARGET.CAL_TIME k) (calTime s k)).put (Obj.CAL_TARGET.PHASE k) 0
  (t.modCal k (fun c => { c with running := false, computing := false, records := [], journalling := false, carried := false })).calFlag

/-- The shadow tables of TDC_LINEAR wait for their channels' dead times (R491): one twenty-first of the bytes each. -/
def shadowsOf (b : List Byte) : List (Fin 21 × List Byte) :=
  let n := b.length / 21
  (List.finRange 21).map (fun c => (c, slice b (c.val * n) n))

/-- The trims of a run that waits for its journal are taken back (R485): what a write of journal 0 has carried of them, the next one puts right. -/
def State.takeBack (s : State) (k : Nat) : State :=
  let t := if k = 16 then { s with tdc := { s.tdc with shadow := shadowsOf (((s.calOf k).saved.head?.map (·.2)).getD []) } } else s
  let t := if k < 16 then t.put (Obj.RX_TRIMS.SOURCE (k % 8)) (s.calOf k).source else t
  t.journal 0

/-- A run that is not done: its result, its trims restored, FAILS (R485, R489). -/
def State.calFail (s : State) (k result : Nat) : State :=
  let c := s.calOf k
  let t := if c.comps = 0 ∧ !c.journalling then s else s.giveTrims k c.saved
  let t := if c.journalling then t.takeBack k else t
  ((t.put (Obj.CAL_TARGET.RESULT k) result).bump (Obj.CAL_TARGET.FAILS k)).calEnd k

/-- CAL_ABORTED (R485), also of a run whose result waits for its journal write. -/
def State.calAbort (s : State) (k : Nat) : State := if calBusy s k then s.calFail k 4 else s

def State.abortCals (s : State) : State := (List.range 20).foldl (fun t k => t.calAbort k) s

/-- A calibration slot of a port is refused under causes 1, 2 or 4 of R47 or under R50: the sixteenth in a row aborts (R485). -/
def State.calSlotRefused (s : State) (n : Port) : State :=
  let k := calTarget s n
  let t := s.modCal k (fun c => { c with refused := c.refused + 1 })
  if 16 ≤ (t.calOf k).refused then t.calAbort k else t

/-! ## The records of a receive calibration (R487, R488) -/

def samplesOf (r : CalRecord) (y : Bool) : List RxSample := if y then r.y else r.x
def stepOf (r : CalRecord) (y : Bool) : Nat := if y then r.stepY else r.stepX

def avgOf (l : List Rat) : Rat := l.sum / (max 1 l.length : Nat)
def meanPower (l : List Int) : Rat := avgOf (l.map (fun v => ((v * v : Int) : Rat)))

/-- The noise floor last recorded for a step of an input, in normalised LSB² over the receive band (log entry 106). -/
def floorPower (s : State) (n : Nat) (y : Bool) (st : Nat) : Rat :=
  let b := s.blob (Obj.RX_TRIMS.NOISE n)
  let d := if b.isEmpty then Config.defaultNoise else fromLe (slice b (4 * (bit8 y 3 + st)) 4)
  (d : Rat) / 256 * Config.noiseBand

/-- The kurtosis of the whole blocks of 1,024 samples, each normalised by its own rms. -/
def blockKurtosis (l : List Int) : Rat :=
  avgOf ((List.range (l.length / 1024)).map (fun i =>
    let b := (l.drop (1024 * i)).take 1024
    avgOf (b.map (fun v => ((v ^ 4 : Int) : Rat))) / meanPower b ^ 2))

/-- The codes of a sub-converter of an input over some records. -/
def laneCodes (l : List CalRecord) (y : Bool) (k : Nat) : List Int := l.flatMap (fun r => laneOf (samplesOf r y) k)

/-- Whether the eight sub-converters' powers agree within 3 dB of their mean (log entry 106). -/
def lanesAgree (l : List CalRecord) (y : Bool) : Bool :=
  let p := (List.range 8).map (fun k => meanPower (laneCodes l y k))
  let m := avgOf p
  p.all (fun v => decide (v ^ 10 ≤ 1000 * m ^ 10) && decide (m ^ 10 ≤ 1000 * v ^ 10))

/-- The pre-check of one input (R488); 0 dBFS is the power of a full-scale sine (log entry 106). -/
def inputPasses (s : State) (n : Nat) (l : List CalRecord) (y : Bool) : Bool :=
  let x := l.flatMap (fun r => samplesOf r y)
  let full : Rat := 2 * meanPower (x.map (·.code)) / 2048 ^ 2
  let kurt := avgOf (l.map (fun r => blockKurtosis ((samplesOf r y).map (·.norm))))
  decide (10 * floorPower s n y ((l.head?.map (fun r => stepOf r y)).getD 0) ≤ meanPower (x.map (·.norm))) &&
  x.all (fun e => !e.ovr) && decide (1 ≤ 10000 * full) && decide (1000 * full ^ 5 ≤ 1) &&
  decide (27 / 10 ≤ kurt) && decide (kurt ≤ 33 / 10) && s.u (Obj.PORT_STATUS.STUCK_LANES n) == 0 && lanesAgree l y

/-- The dark shots' power of a step of an input (R487). -/
def darkPower (l : List CalRecord) (y : Bool) (st : Nat) : Rat :=
  meanPower (((l.filter (fun r => stepOf r y == st)).flatMap (fun r => samplesOf r y)).map (·.norm))

/-- The dark shots lie no more than 6 dB above the floors last recorded (R488). -/
def darkPasses (s : State) (n : Nat) (l : List CalRecord) : Bool :=
  [false, true].all (fun y => (List.range 8).all (fun st => decide (darkPower l y st ^ 5 ≤ 1000 * floorPower s n y st ^ 5)))

/-! ## Computations (R487 to R492) -/

/-- The trims that a computation asks for (R494): receive codes by input and sub-converter or step, and those of the other targets. -/
structure CalTrims where
  skew : List Int := []
  offset : List Int := []
  gain : List Int := []
  vga : List VgaTrim := []
  noise : List Nat := []
  codes : List Int := []
  tables : List Byte := []

/-- The means, in codes, and the gains of an input's sub-converters (R487 ADJUST). -/
def laneMean (l : List CalRecord) (y : Bool) (k : Nat) : Rat := avgOf ((laneCodes l y k).map (fun v => (v : Rat)))

def laneRms (l : List CalRecord) (y : Bool) (k : Nat) : Rat :=
  sqrtQ (avgOf ((laneCodes l y k).map (fun v => ((v : Rat) - laneMean l y k) ^ 2)))

def calGain (l : List CalRecord) (y : Bool) (k : Nat) : Rat :=
  avgOf ((List.range 8).map (laneRms l y)) / laneRms l y k

/-- E[x_i x_(i+1)] of an input with its new offsets and gains. -/
def laneCorr (l : List CalRecord) (y : Bool) (k : Nat) : Rat :=
  let v := fun (e : RxSample × Nat) => ((e.1.code : Rat) - laneMean l y (e.2 % 8)) * calGain l y (e.2 % 8)
  avgOf (l.flatMap (fun r =>
    let z := (samplesOf r y).zipIdx
    ((z.zip (z.drop 1)).filter (fun e => e.1.2 % 8 == k)).map (fun e => v e.1 * v e.2)))

/-- The differences between the adjacent-pair correlations and their mean. -/
def corrOffsets (l : List CalRecord) (y : Bool) : List Rat :=
  let c := (List.range 8).map (laneCorr l y)
  c.map (· - avgOf c)

/-- SKEW in force. -/
def skewCodes (s : State) (n : Nat) (y : Bool) : List Int :=
  (List.range 8).map (fun k => toSigned 8 (fromLe (slice (s.blob (Obj.RX_TRIMS.SKEW n)) (bit8 y 3 + k) 1)))

/-- The trims of an ADJUST phase (R487). How SKEW follows from the correlations is not stated (log entry 106). -/
def adjustTrims (s : State) (n : Nat) (l : List CalRecord) : CalTrims :=
  let both := fun (f : Bool → Nat → Int) => [false, true].flatMap (fun y => (List.range 8).map (f y))
  let nearest := fun (q : Rat) => freeRound q.num q.den
  { skew := both (fun y k => (Config.skewFrom (skewCodes s n y) (corrOffsets l y)).getD k 0)
    offset := both (fun y k => nearest (16 * laneMean l y k))
    gain := both (fun y k => nearest (32768 * calGain l y k)) }

/-- The VGA trims of a port, X steps 0 to 7 and Y steps 0 to 7 (R501). -/
def vgaTrims (s : State) (n : Nat) : List VgaTrim :=
  let b := s.blob (Obj.RX_TRIMS.VGA n)
  (List.range 16).map (fun i => ⟨toSigned 8 (fromLe (slice b (4 * i) 1)), toSigned 8 (fromLe (slice b (4 * i + 1) 1)),
    toSigned 16 (fromLe (slice b (4 * i + 2) 2))⟩)

/-- The normalised records of an input at one step. -/
def recordsAt (l : List CalRecord) (y : Bool) (st : Nat) : List (List Int) :=
  (l.filter (fun r => stepOf r y == st)).map (fun r => (samplesOf r y).map (·.norm))

/-- The trim of the upper step of a pair on one input, from the two steps' records (R487; log entry 106). -/
def pairTrim (s : State) (n : Nat) (l : List CalRecord) (y : Bool) (st : Nat) : VgaTrim :=
  Config.stepTrim ((vgaTrims s n).getD (bit8 y 3 + st) ⟨0, 0, 0⟩) (recordsAt l y (st - 1)) (recordsAt l y st)

/-- The VGA trims after the step pair that ends at a step. -/
def pairTrims (s : State) (n : Nat) (l : List CalRecord) (st : Nat) : List VgaTrim :=
  ((vgaTrims s n).set st (pairTrim s n l false st)).set (8 + st) (pairTrim s n l true st)

/-- What a step pair shows of the errors that R483 limits: the worst gain error so far, and whether phase and delay lie within. -/
def pairFigures (s : State) (n : Nat) (l : List CalRecord) (st : Nat) (c : CalRun) : Int × Bool :=
  [false, true].foldl (fun (a : Int × Bool) y =>
    let e := Config.stepError (pairTrim s n l y st) (recordsAt l y (st - 1)) (recordsAt l y st)
    (if a.1.natAbs < e.1.natAbs then e.1 else a.1, a.2 && e.2)) (c.quality, c.within)

/-- What a run has measured (R483, R487): a receive calibration from its records, of RX_INTERLEAVE the worst spur with the new trims and of RX_GAIN
the worst step; the others by their references. -/
def calFigures (s : State) (k : Nat) (m : CalMeasure) : CalMeasure :=
  let c := s.calOf k
  if k < 8 then { m with quality := Config.worstSpur (s.u Obj.CALIBRATION.CAL_SET) (c.records.flatMap (fun r => [r.x.map (·.norm), r.y.map (·.norm)])), within := true }
  else if k < 16 then { m with quality := c.quality, within := c.within }
  else m

/-- The noise densities that the dark shots give (R487). -/
def noiseTrims (l : List CalRecord) : CalTrims :=
  { noise := [false, true].flatMap (fun y => (List.range 8).map (fun st =>
      let d := 256 * darkPower l y st / Config.noiseBand
      (freeRound d.num d.den).toNat)) }

/-- The trims that the computation at hand of target `k` asks for. -/
def trimsAsked (s : State) (k : Nat) (m : CalMeasure) : CalTrims :=
  let c := s.calOf k
  if k < 8 then (if 1 ≤ c.comps ∧ c.comps ≤ 3 then adjustTrims s k c.records else {})
  else if k < 16 then (if c.comps = 0 then {} else if c.comps ≤ 7 then { vga := pairTrims s (k % 8) c.records c.comps } else noiseTrims c.records)
  else { codes := m.codes, tables := m.tables }

/-- Whether a trim lies beyond its range, or a digital one beyond its Ledger type (R489, R494). -/
def beyondRange (k : Nat) (t : CalTrims) : Bool :=
  let out := fun (lo hi v : Int) => decide (v < lo) || decide (hi < v)
  t.skew.any (out (-50) 50) || t.offset.any (out (-32768) 32767) || t.gain.any (out 0 65535) ||
  t.vga.any (fun v => out (-127) 127 v.gain || out (-31) 31 v.delay || out (-32768) 32767 v.phase) ||
  t.noise.any (fun v => decide (2 ^ 32 ≤ v)) || t.codes.any (if k < 19 then out 0 1023 else out (-127) 127)

/-- The bytes that hold the trims (R501), by the key of the object, or of the model for those that no object shows. -/
def trimBytes (k : Nat) (t : CalTrims) : List (Nat × List Byte) :=
  let n := k % 8
  let i8 := fun (v : Int) => le 1 (ofSigned 8 v)
  let i16 := fun (v : Int) => le 2 (ofSigned 16 v)
  (if t.skew.isEmpty then [] else [(Obj.RX_TRIMS.SKEW n, t.skew.flatMap i8), (Obj.RX_TRIMS.OFFSET n, t.offset.flatMap i16),
    (Obj.RX_TRIMS.GAIN n, t.gain.flatMap i16)]) ++
  (if t.vga.isEmpty then [] else
    [(Obj.RX_TRIMS.VGA n, padTo 64 (t.vga.flatMap (fun v => i8 v.gain ++ i8 v.delay ++ i16 v.phase)))]) ++
  (if t.noise.isEmpty then [] else [(Obj.RX_TRIMS.NOISE n, t.noise.flatMap (le 4))]) ++
  (if k < 16 then [] else [(hiddenTrim k, t.tables ++ t.codes.flatMap i16)])

/-- The pre-check of the computation at hand (R488, R491, R492). -/
def preCheck (s : State) (k : Nat) (m : CalMeasure) : Bool :=
  let c := s.calOf k
  if k < 16 then
    (if c.comps = 0 then inputPasses s (k % 8) c.records false && inputPasses s (k % 8) c.records true
    else if 8 ≤ k ∧ c.comps = 8 then darkPasses s (k % 8) c.records else true)
  else if k = 16 then m.pass && !s.bit Obj.CLOCKS.FLAGS Bit.CLOCKS.FLAGS.WOSC_BAD
  else m.pass

/-- Whether the computation at hand is a run's last (R487). -/
def lastComp (s : State) (k : Nat) : Bool :=
  if k < 8 then (s.calOf k).comps == 4 else if k < 16 then (s.calOf k).comps == 8 else true

/-- Whether QUALITY, or a figure beside it, lies beyond the limits of R483. -/
def qualityBad (k : Nat) (m : CalMeasure) : Bool :=
  let size := m.quality.natAbs
  !m.within || (if k < 8 then decide (-700 < m.quality)
    else if k < 16 then decide (10 < size)
    else if k = 16 then decide (300 < size)
    else if k < 19 then decide (100 < size)
    else decide (50 < size))

/-- The PHASE after a number of computations (R487). -/
def calPhase (k comps : Nat) : Nat :=
  if comps = 0 then 1 else if comps < (if k < 8 then 4 else 8) then 2 else 3

/-- A run's last computation has passed: its result waits for the journal (R489, R498). -/
def State.calDone (s : State) (k : Nat) (m : CalMeasure) : State :=
  let t := if k = 16 then { s with tdc := { s.tdc with shadow := shadowsOf m.tables } } else s
  let t := if k < 16 then t.put (Obj.RX_TRIMS.SOURCE (k % 8)) 2 else t
  let t := (t.calEnd k).modCal k (fun x => { x with journalling := true })
  ((t.put (Obj.CAL_TARGET.PHASE k) 4).journal 0).calFlag

/-- A run goes on to its next phase, with what a step pair of RX_GAIN has shown (R487). -/
def State.calNext (s : State) (k : Nat) : State :=
  let c := s.calOf k
  let fig := if 8 ≤ k ∧ k < 16 ∧ 1 ≤ c.comps then pairFigures s (k % 8) c.records c.comps c else (c.quality, c.within)
  s.modCal k (fun x => { x with comps := x.comps + 1, used := 0, records := [], computing := false, quality := fig.1, within := fig.2 })

/-- CAL_COMPUTATION_END (R487 to R492, R498): for a receive target only when the phase's shots have been used. -/
def execCalComputationEnd (k : Fin 20) (m : CalMeasure) (s : State) : Result :=
  let c := s.calOf k
  .next (if !c.running || (decide (k.val < 16) && !c.computing) then s
  else
    let asked := trimsAsked s k m
    let f := calFigures s k m
    let t := s.discardCalShots k
    if !preCheck s k m then t.calFail k 1
    else if beyondRange k asked then t.calFail k 3
    else if lastComp s k && qualityBad k f then (t.puti (Obj.CAL_TARGET.QUALITY k) f.quality).calFail k 2
    else
      let t := t.giveTrims k (trimBytes k asked)
      if lastComp s k then (t.puti (Obj.CAL_TARGET.QUALITY k) f.quality).calDone k m
      else (t.calNext k).put (Obj.CAL_TARGET.PHASE k) (calPhase k (c.comps + 1)))

/-- CAL_TIMEOUT (R485). -/
def execCalTimeout (k : Fin 20) (s : State) : Result := .next (s.calAbort k)

/-- The bit of AUTO_EN that a target obeys (R501). -/
def autoBit (k : Nat) : Nat := if k < 8 then 0 else if k < 16 then 1 else if k = 16 then 2 else if k < 19 then 3 else 4

/-- Whether a target's trims are due by temperature or age (R493; log entry 25 for the die). -/
def calDue (s : State) (k : Nat) : Bool :=
  let since := s.now - stampOf (s.u (Obj.CAL_TARGET.DONE k)) / 256
  s.u (Obj.CAL_TARGET.DONE k) != 0 &&
  (decide ((s.u Obj.CALIBRATION.CAL_DT : Int) * 10 < (s.i Obj.HEALTH.T_ANALOGUE - s.i (Obj.CAL_TARGET.TEMP k)).natAbs) ||
   (s.u Obj.CALIBRATION.CAL_EVERY != 0 && decide (s.u Obj.CALIBRATION.CAL_EVERY * 3600 * ticksPerSecond ≤ since)))

/-- Whether a receive target's port is enabled with no journalled trims (R493). -/
def untrimmed (s : State) (k : Nat) : Bool :=
  decide (k < 16) && s.u (Obj.SCHEDULER.ENABLE (k % 8)) == 1 && s.u (Obj.RX_TRIMS.SOURCE (k % 8)) == 0

/-- CAL_DUE (R493). -/
def State.dueFlag (s : State) : State :=
  s.putBit Obj.CALIBRATION.FLAGS Bit.CALIBRATION.FLAGS.CAL_DUE
    ((List.range 20).any (fun k => !s.bit Obj.CALIBRATION.AUTO_EN (autoBit k) && calDue s k))

/-- CAL_AUTO_START (R493). -/
def execCalAutoStart (k : Fin 20) (s : State) : Result :=
  .next (if s.bit Obj.CALIBRATION.AUTO_EN (autoBit k) && (calDue s k || untrimmed s k) && calRefusal s k == 0 then calStartEff s k else s)

/-- TDC_SHADOW_SWAP (R491): the next calibrated shadow goes into service. -/
def execTdcShadowSwap (s : State) : Result :=
  .next (match s.tdc.shadow with
  | [] => s
  | (c, b) :: r => { s with tdc := { s.tdc with tables := s.tdc.tables.set c b, shadow := r } })

end Sys2Proof.Machine
end

