-- ==== Sys2Proof/Machine/Clocks.lean ====
section
/-! DEFINITION. The root PLL and its references, coasting, domains and the crystal's ageing (R282 to R303). -/

namespace Sys2Proof.Machine

/-! ## References (R286 to R290) -/

/-- A reference by its code in REF_ORDER: 1 crystal, 2 REF.F10, 3 Aggon clock; none for 0. -/
def refOfCode (c : Nat) : Option (Fin 3) := if h : 1 ≤ c ∧ c ≤ 3 then some ⟨c - 1, by omega⟩ else none

def codeOf (r : Fin 3) : Nat := r.val + 1

def State.clkFlag (s : State) (b : Nat) : Bool := s.bit Obj.CLOCKS.FLAGS b

/-- Whether REF.F10 may qualify as to its oven (R287). -/
def ovenOk (s : State) : Bool := s.u Obj.CLOCKS.REF_KIND == 0 || s.clk.ovenHeld

def refQualified (s : State) (r : Fin 3) : Bool := s.clk.refs[r].passed && (r.val != 1 || ovenOk s)

/-- The references of REF_ORDER, in order. -/
def refOrder (s : State) : List (Fin 3) :=
  let o := s.u Obj.CLOCKS.REF_ORDER
  [o % 16, o / 16 % 16, o / 256 % 16].filterMap refOfCode

def bestRef (s : State) : Option (Fin 3) := (refOrder s).find? (refQualified s)

def State.modRef (s : State) (r : Fin 3) (f : RefPart → RefPart) : State :=
  { s with clk := { s.clk with refs := s.clk.refs.set r (f s.clk.refs[r]) } }

/-- The BAD flags and OVEN_WAIT (R287). -/
def State.refFlags (s : State) : State :=
  let t := s.putBit Obj.CLOCKS.FLAGS Bit.CLOCKS.FLAGS.XTAL_BAD (!refQualified s 0)
  let t := t.putBit Obj.CLOCKS.FLAGS Bit.CLOCKS.FLAGS.REF10_BAD (!refQualified s 1)
  let t := t.putBit Obj.CLOCKS.FLAGS Bit.CLOCKS.FLAGS.AGGON_BAD (!refQualified s 2)
  t.putBit Obj.CLOCKS.FLAGS Bit.CLOCKS.FLAGS.OVEN_WAIT (s.u Obj.CLOCKS.REF_KIND == 1 && !s.clk.ovenHeld)

/-- SERDES_XTAL (R301). -/
def State.serdesFlag (s : State) : State :=
  s.putBit Obj.CLOCKS.FLAGS Bit.CLOCKS.FLAGS.SERDES_XTAL (s.u Obj.CLOCKS.SERDES_REF == 1 && (s.coasting || s.clk.stopped))

/-- TBASE and the flags of 2200h follow the PLL (R311, R319). -/
def State.timeBase (s : State) : State :=
  let b := if s.u Obj.CLOCKS.PLL_STATE ≠ 2 then 0
    else match s.u Obj.CLOCKS.REF_IN_USE with
      | 1 => 1
      | 2 => if s.u Obj.CLOCKS.REF_KIND = 1 ∧ s.clk.ovenHeld then 3 else 2
      | _ => 4
  let t := s.putBit Obj.TDC.FLAGS 0 (s.u Obj.CLOCKS.PLL_STATE != 2)
  let t := (t.putBit Obj.TDC.FLAGS 1 (b == 3)).put Obj.TDC.TBASE b
  if b = s.u Obj.TDC.TBASE then t
  else overAll (t.setBit Obj.TDC.FLAGS 2) (fun v u =>
    (v.modUnit u (fun m => { m with flags := m.flags ||| 8#5 })).setBit (Obj.MEASURE.MFLAGS u) Bit.MEASURE.MFLAGS.TBASE_CHANGE)

/-- The PLL takes the first qualified reference (R289, R290): from bypass it begins to acquire it, locked it changes input without coasting,
coasting it acquires one once acquisition may begin (R298 step 6), and anew where that one ceases to be qualified. -/
def State.chooseRef (s : State) : State :=
  if s.u Obj.CLOCKS.PLL_STATE = 3 then
    let held : Bool := match refOfCode s.clk.acquiring with
      | some a => refQualified s a
      | none => false
    if s.clk.mayAcquire && !held then
      { s with clk := { s.clk with acquiring := ((bestRef s).map codeOf).getD 0, atFloor := false } }
    else s
  else match bestRef s with
    | none => s
    | some r =>
      let t := s.put Obj.CLOCKS.REF_IN_USE (codeOf r)
      match s.u Obj.CLOCKS.PLL_STATE with
      | 0 => t.put Obj.CLOCKS.PLL_STATE 1
      | 1 => t
      | _ => t.ppsFlag

def State.useRef (s : State) : State := s.chooseRef.timeBase

/-! ## Coasting (R27, R297 to R300) -/

/-- A port without the shots that were dropped: GAP and EPOCH_STEP go to the next launched header (R48, R60), and the gate of a shot still
to launch falls. -/
def dropFrom (gone : List Shot) (p : FibrePort) : FibrePort :=
  { p with
    shots := p.shots.filter (·.launched), gap := p.gap || gone.any (fun x => !x.cal),
    stepped := p.stepped || gone.any (·.epochStep),
    gateHigh := (p.shots.filter (·.launched)).any Shot.holdsGate }

/-- What a dropped shot was to tell of its pipeline stays to be told (R120). -/
def untold (gone : List Shot) (p : PipePart) : PipePart :=
  { p with
    gaugeReset := p.gaugeReset || gone.any (·.gaugeReset),
    clearSets := p.clearSets ++ ((gone.filter (·.clearPrev)).map (·.toneSet)).filter (fun k => !p.clearSets.contains k) }

/-- Committed shots not yet launched are dropped, count in SHOT_COAST and return their sequence numbers (R48, R298). -/
def State.dropShots (s : State) : State :=
  overAll s (fun t n =>
    let gone := s.ports[n].shots.filter (fun x => !x.launched)
    if gone.isEmpty then t
    else
      let u := t.add (Obj.SCHEDULER.SHOT_COAST n) (gone.filter (fun x => !x.cal)).length
      (u.modPort n (dropFrom gone)).modPipe n (untold gone))

/-- The rate of the channels in service (R298 step 5, R300 step 3). -/
def State.dramRate (s : State) (rate : Nat) : State :=
  overAll s (fun t (c : Fin 2) => if s.u (Obj.DRAM_CHANNEL.RATE c) = 0 then t else t.put (Obj.DRAM_CHANNEL.RATE c) rate)

/-- The coast entry (R298 steps 2 and 5; log entry 100 for the instant of step 5). -/
def State.enterCoast (s : State) : State :=
  let t := (s.setBit Obj.CLOCKS.FLAGS Bit.CLOCKS.FLAGS.CLK_COAST).clrBit Obj.CLOCKS.FLAGS Bit.CLOCKS.FLAGS.LOCKED
  let t := ((t.put Obj.CLOCKS.PLL_STATE 3).put Obj.CLOCKS.REF_IN_USE 0).bump Obj.CLOCKS.COASTS
  let t := t.setBit Obj.EPOCH.FLAGS Bit.EPOCH.FLAGS.UNCERTAIN
  let t := { t with clk := { t.clk with coastAt := s.now, acquiring := 0, mayAcquire := false, atFloor := false } }
  let t := { t with ep := { t.ep with coastPhase := 0, reacquire := false } }
  ((t.dropShots.invalidateOpen.abortCals).dramRate 2560).serdesFlag.ppsFlag.timeBase

/-- The reference in use fails (R289): REF_FAIL and a day book entry; a locked PLL coasts, one that was acquiring goes back to bypass. -/
def State.refFail (s : State) : State :=
  let t := s.logEvent Obj.CLOCKS.FLAGS Bit.CLOCKS.FLAGS.REF_FAIL 13
  if s.u Obj.CLOCKS.PLL_STATE = 2 then t.enterCoast
  else if s.u Obj.CLOCKS.PLL_STATE = 1 then (t.put Obj.CLOCKS.PLL_STATE 0).put Obj.CLOCKS.REF_IN_USE 0
  else t

def inUse (s : State) (r : Fin 3) : Bool := s.u Obj.CLOCKS.REF_IN_USE == codeOf r

/-- A reference ceases to be qualified: flags, its failure where it is in use, and the next choice. -/
def State.disqualify (s : State) (r : Fin 3) : State :=
  let t := (s.modRef r (fun x => { x with passed := false })).refFlags
  (if inUse s r then t.refFail else t).useRef

/-! ## Reference events -/

/-- REF_EDGES_PRESENT (R286): the edges come, and a qualification window opens. -/
def execRefEdgesPresent (r : Fin 3) (s : State) : Result :=
  .next (if s.clk.refs[r].present then s else s.modRef r (fun _ => { present := true, passed := false }))

/-- REF_EDGE_LOSS (R286, R289). -/
def execRefEdgeLoss (r : Fin 3) (s : State) : Result :=
  .next ((s.modRef r (fun x => { x with present := false })).disqualify r)

/-- The present reference a window compares with (R286). -/
def secondRef (s : State) (r : Fin 3) : Option (Fin 3) := [0, 1, 2].find? (fun k => k != r && s.clk.refs[k].present)

/-- The reference that stays qualified of two that disagree, no third being present (R288). -/
def keeper (s : State) (a b : Fin 3) : Fin 3 :=
  if inUse s a then a
  else if inUse s b then b
  else if a = 0 ∨ b = 0 then 0
  else ((refOrder s).find? (fun k => k == a || k == b)).getD 1

/-- A reference's window passes: it may be used, and is counted as qualified against WOSC alone where no second one is present. -/
def State.qualify (s : State) (r : Fin 3) (single : Bool) : State :=
  let t := (s.modRef r (fun x => { x with passed := true })).refFlags
  (t.putBit Obj.CLOCKS.FLAGS Bit.CLOCKS.FLAGS.QUAL_SINGLE single).useRef

/-- Whether WOSC lies outside 15 % of a reference that lies `offset` parts in 10⁹ from WOSC: WOSC is the reference over 1 + offset. -/
def woscBeyond (offset : Int) : Bool :=
  decide (100 * 1000000000 < 85 * (1000000000 + offset)) || decide (115 * (1000000000 + offset) < 100 * 1000000000)

/-- A locked reference measured against WOSC tells WOSC's own error against the root (R303). -/
def State.watchWosc (s : State) (r : Fin 3) (offset : Int) : State :=
  if inUse s r && s.u Obj.CLOCKS.PLL_STATE == 2 then
    s.putBit Obj.CLOCKS.FLAGS Bit.CLOCKS.FLAGS.WOSC_BAD (woscBeyond offset)
  else s

/-- Two references disagree, and no third is present (R288). -/
def State.disagree (s : State) (r k : Fin 3) : State :=
  let keep := keeper s r k
  let lose := if keep = r then k else r
  let t := s.setBit Obj.CLOCKS.FLAGS Bit.CLOCKS.FLAGS.DISAGREE
  let t := t.modRef lose (fun x => { x with passed := false })
  let t := if keep = r then t.modRef r (fun x => { x with passed := true }) else t
  t.refFlags.useRef

/-- QUAL_WINDOW_END (R286 to R289): the window's frequency offset against the second reference, or WOSC, in parts in 10⁹. -/
def execQualWindowEnd (r : Fin 3) (offset : Int) (s : State) : Result :=
  .next (if !s.clk.refs[r].present then s
  else match secondRef s r with
  | none =>
    let s := (s.clrBit Obj.CLOCKS.FLAGS Bit.CLOCKS.FLAGS.DISAGREE).watchWosc r offset
    if offset.natAbs ≤ 250000000 then s.qualify r true else s.disqualify r
  | some k =>
    let s := if inUse s r then s.puti Obj.CLOCKS.QUAL_OFFSET offset else s
    if offset.natAbs ≤ s.u Obj.CLOCKS.QUAL_PPM * 1000 then
      (s.clrBit Obj.CLOCKS.FLAGS Bit.CLOCKS.FLAGS.DISAGREE).qualify r false
    else if [0, 1, 2].any (fun j => j != r && j != k && s.clk.refs[j].present) then
      (s.clrBit Obj.CLOCKS.FLAGS Bit.CLOCKS.FLAGS.DISAGREE).disqualify r
    else s.disagree r k)

/-- OVEN_RDY_RISE (R287): OVEN_HOLD starts counting. -/
def execOvenRdyRise (s : State) : Result :=
  .next ({ s with clk := { s.clk with ovenLow := false, ovenHeld := false } }).refFlags

/-- OVEN_HOLD_EXPIRY (R287): OVEN_HOLD has passed since the last rise, or since step 1 of bring-up where OVEN_RDY was high then. -/
def execOvenHoldExpiry (s : State) : Result :=
  .next (if !s.clk.ovenLow then ({ s with clk := { s.clk with ovenHeld := true } }).refFlags.useRef else s)

/-- OVEN_RDY_FALL (R287, R289). -/
def execOvenRdyFall (s : State) : Result :=
  let t := ({ s with clk := { s.clk with ovenLow := true, ovenHeld := false } }).refFlags
  .next (if s.u Obj.CLOCKS.REF_KIND = 1 ∧ inUse s 1 then t.refFail.useRef else t.useRef)

/-! ## The PLL (R284, R297, R300) -/

/-- WOSC's frequency in kHz against the locked root, which no command brings, lies outside 15 % (R303; log entry 16). -/
def woscOff (f : Nat) : Bool := decide (f < 85000) || decide (115000 < f)

/-- The PLL is LOCKED and serves the domains. -/
def State.lockOn (s : State) : State :=
  let t := (s.put Obj.CLOCKS.PLL_STATE 2).setBit Obj.CLOCKS.FLAGS Bit.CLOCKS.FLAGS.LOCKED
  let t := (t.putBit Obj.CLOCKS.FLAGS Bit.CLOCKS.FLAGS.WOSC_BAD (woscOff (Config.measured t.fresh))).drawn
  t.ppsFlag.timeBase

/-- The end of coasting, or of a stop (R28, R300): COAST_LAST where a coast ends; when the source is FREE, UNCERTAIN stays until reset. -/
def State.leaveCoast (s : State) : State :=
  let s := if s.coasting then (s.put Obj.CLOCKS.COAST_LAST (freeRound ((s.now : Int) - s.clk.coastAt) 3200).toNat).dramRate 3200 else s
  let s := { s with ep := { s.ep with uncertainHeld := s.ep.uncertainHeld || s.u Obj.EPOCH.SOURCE == 0 } }
  let t := s.clrBit Obj.CLOCKS.FLAGS Bit.CLOCKS.FLAGS.CLK_COAST
  let t := { t with clk := { t.clk with acquiring := 0, mayAcquire := false, atFloor := false, stopped := false } }
  (t.lockOn).serdesFlag.useRef.discardEvents.canFlush

/-- COAST_ACQUIRE (R298 step 6). -/
def execCoastAcquire (s : State) : Result :=
  .next (if s.coasting then ({ s with clk := { s.clk with mayAcquire := true } }).useRef else s)

/-- COAST_EXIT (R300), but for the plant groups that wait for it. -/
def State.coastExit (s : State) : State :=
  if s.coasting && s.clk.atFloor then
    (s.put Obj.CLOCKS.REF_IN_USE s.clk.acquiring).leaveCoast
  else s

/-- The lock at the floor is lost before the coast ends (R284, R289): the reference acquired fails, and the PLL acquires anew. -/
def State.loseFloor (s : State) : State :=
  let t := { s with clk := { s.clk with atFloor := false, acquiring := 0 } }
  let t := match refOfCode s.clk.acquiring with
    | some r => (t.modRef r (fun x => { x with passed := false })).refFlags
    | none => t
  (t.logEvent Obj.CLOCKS.FLAGS Bit.CLOCKS.FLAGS.REF_FAIL 13).useRef

/-- PLL_LOCK_LOSS (R284): a failure of the reference in use, or of the one acquired at the floor. -/
def execPllLockLoss (s : State) : Result :=
  .next (if s.coasting && s.clk.atFloor then s.loseFloor
  else match refOfCode (s.u Obj.CLOCKS.REF_IN_USE) with
  | some r => if s.u Obj.CLOCKS.PLL_STATE = 2 then s.disqualify r else s
  | none => s)

/-- DOMAIN_SOURCE_LOSS (R29, R296): a domain with a bypass is frozen and switched uncleanly. -/
def execDomainSourceLoss (d : Fin 16) (s : State) : Result :=
  .next (if bypassDomains.contains d then s.switchDomains [d] true true else s)

/-- ROOT_STOP (R297): the epoch holds its count, and every domain with a bypass moves to it. -/
def execRootStop (s : State) : Result :=
  let t := { s with clk := { s.clk with stopped := true, switchDue := false } }
  let t := (t.clrBit Obj.CLOCKS.FLAGS Bit.CLOCKS.FLAGS.LOCKED).put Obj.CLOCKS.PLL_STATE 0
  let t := t.put Obj.CLOCKS.REF_IN_USE 0
  .next ((t.switchDomains bypassDomains true true).serdesFlag.ppsFlag.useRef)

/-! ## Ageing (R291, R292) -/

/-- A change of XTAL_TRIM of more than 100,000 parts in 10¹² since the last write is journalled. -/
def State.trimMoved (s : State) : State :=
  if 100000 < (s.i Obj.CLOCKS.XTAL_TRIM - s.clk.trimSaved).natAbs then s.journal 0 else s

/-- AGE_LEARN_TICK (R291): 1/16 of the mean of FREQ_ADJ over the interval is added to XTAL_TRIM. -/
def execAgeLearnTick (s : State) : Result :=
  let u := s.integrateAdj
  let t := { u with clk := { u.clk with adjSum := 0, adjStart := s.now } }
  let src := s.u Obj.EPOCH.SOURCE
  .next (if s.u Obj.CLOCKS.AGE_LEARN = 1 ∧ s.u Obj.CLOCKS.REF_IN_USE = 1 ∧ (src = 1 ∨ src = 2 ∨ src = 3) then
    let d := (s.now : Int) - s.clk.adjStart
    let step := if d ≤ 0 then freeRound (s.i Obj.EPOCH.FREQ_ADJ) 16 else freeRound u.clk.adjSum (16 * d)
    (t.puti Obj.CLOCKS.XTAL_TRIM (max (-50000000) (min 50000000 (s.i Obj.CLOCKS.XTAL_TRIM + step)))).trimMoved
  else t)

/-- XTAL_TRIM_SAVE (R292): the daily write, AGE_RATE and AGE_ALERT, with an entry each time. -/
def execXtalTrimSave (s : State) : Result :=
  let r := s.i Obj.CLOCKS.XTAL_TRIM - s.clk.trimDaily
  let t := (s.journal 0).puti Obj.CLOCKS.AGE_RATE r
  let t := { t with clk := { t.clk with trimDaily := s.i Obj.CLOCKS.XTAL_TRIM } }
  .next (if 500000 < r.natAbs then t.logEvent Obj.CLOCKS.FLAGS Bit.CLOCKS.FLAGS.AGE_ALERT 13 else t)

/-- The commit of 2000h (R302, R303): the references are judged anew; a changed CLKMON stays low until the next epoch second. -/
def State.commitClocks (s : State) : State :=
  let t := s.commit 0x2000
  let same := s.u Obj.CLOCKS.CLKMON_SRC == t.u Obj.CLOCKS.CLKMON_SRC && s.u Obj.CLOCKS.CLKMON_DIV == t.u Obj.CLOCKS.CLKMON_DIV
  let t := if same then t else { t with clk := { t.clk with clkmon := (0, 1) } }
  t.refFlags.useRef.serdesFlag.trimMoved

end Sys2Proof.Machine
end

