-- ==== Sys2Proof/Machine/Plant.lean ====
section
/-! DEFINITION. The plant interfaces (R457 to R482): the sensor front end, loop outputs, plant mail, emitter sinks and the latch chain. -/

namespace Sys2Proof.Machine

/-- Whether a twin is not the one that is ACTIVE (R446, R476). -/
def notActive (s : State) : Bool := s.u Obj.TWIN.TWIN_EN == 1 && s.u Obj.TWIN.ROLE != 2

/-- Whether the groups' outputs are held in their off state (R446, R458). -/
def plantOff (s : State) : Bool := !s.plant.live || (notActive s && s.u Obj.TWIN.PLANT_MODE == 1)

def State.modSfe (s : State) (c : Fin 8) (f : SfeChannel → SfeChannel) : State :=
  { s with plant := { s.plant with sfe := s.plant.sfe.set c (f s.plant.sfe[c]) } }

def State.modLoop (s : State) (o : Fin 8) (f : LoopPart → LoopPart) : State :=
  { s with plant := { s.plant with loops := s.plant.loops.set o (f s.plant.loops[o]) } }

def State.modChain (s : State) (f : ChainPart → ChainPart) : State :=
  { s with plant := { s.plant with chain := f s.plant.chain } }

/-! ## Loop outputs (R471 to R473) -/

/-- What a loop's source gives: nothing yet, a fault, or a value. -/
inductive LoopSource where
  | none
  | fault
  | value (v : Int)
deriving DecidableEq, Repr

/-- The fault code of a sensor channel's result (R467). -/
def sfeFault (s : State) (c : Nat) : Nat := s.u (Obj.SFE.CSTAT c) / 256

def loopSource (s : State) (o : Fin 8) : LoopSource :=
  let l := s.plant.loops[o]
  if l.aged then .fault
  else if s.u (Obj.LOOP.SOURCE o) = 1 then
    let c := s.u (Obj.LOOP.SRC_INDEX o) % 8
    if s.u (Obj.SFE.CURVE c) = 0 then .fault
    else if !(s.plant.sfe.toList.getD c {}).hasResult then .none
    else if sfeFault s c ≠ 0 then .fault
    else .value (s.i (Obj.SFE.VALUE c))
  else if l.mailFault then .fault
  else match l.mail with
    | some v => .value v
    | none => .none

/-- The setpoint in µA of a value (R471). -/
def setpoint (s : State) (o : Fin 8) (v : Int) : Nat :=
  let lo := s.i (Obj.LOOP.VAL_LO o)
  let d := s.i (Obj.LOOP.VAL_HI o) - lo
  let q := if d = 0 then 4000 else 4000 + freeRound (16000 * (v - lo) * (if d < 0 then -1 else 1)) (d.natAbs : Int)
  (max 3800 (min 20500 q)).toNat

/-- The fault level (R472). -/
def faultLevel (s : State) (o : Fin 8) : Nat :=
  match s.u (Obj.LOOP.FAULT_MODE o) with
  | 0 => 3600
  | 1 => 21000
  | _ => s.plant.loops[o].good

def State.loopLevel (s : State) (o : Fin 8) (fault : Bool) : State :=
  s.putBit (Obj.LOOP.LSTAT o) Bit.LOOP.LSTAT.FAULT_LEVEL fault

/-- A loop goes to its fault level; each entry counts in TRIPS (R472). -/
def State.loopTrip (s : State) (o : Fin 8) : State :=
  let t := if s.bit (Obj.LOOP.LSTAT o) Bit.LOOP.LSTAT.FAULT_LEVEL then s else s.bump (Obj.LOOP.TRIPS o)
  (t.put (Obj.LOOP.I_SET o) (faultLevel s o)).loopLevel o true

/-- A good current is set. -/
def State.loopGood (s : State) (o : Fin 8) (ua : Nat) : State :=
  ((s.modLoop o (fun l => { l with good := ua })).put (Obj.LOOP.I_SET o) ua).loopLevel o false

/-- A loop follows its source (R471, R472); with the clerks down only a faulted sensor moves it (R506). -/
def State.loopFollow (s : State) (o : Fin 8) : State :=
  let src := s.u (Obj.LOOP.SOURCE o)
  if plantOff s ∨ src = 0 then (s.put (Obj.LOOP.I_SET o) 0).loopLevel o false
  else if !clerksUp s then
    (if src = 1 ∧ (s.plant.sfe.toList.getD (s.u (Obj.LOOP.SRC_INDEX o) % 8) {}).hasResult ∧
        sfeFault s (s.u (Obj.LOOP.SRC_INDEX o) % 8) ≠ 0 then s.loopTrip o else s)
  else if src = 3 then s.loopGood o (s.u (Obj.LOOP.HOST_UA o))
  else match loopSource s o with
    | .none => s
    | .fault => s.loopTrip o
    | .value v => s.loopGood o (setpoint s o v)

def State.loopsFollow (s : State) : State := overAll s State.loopFollow

/-- The loops that take their value from a sensor channel meet its new result. -/
def State.loopsOfChannel (s : State) (c : Fin 8) : State :=
  overAll s (fun t o =>
    if t.u (Obj.LOOP.SOURCE o) = 1 ∧ t.u (Obj.LOOP.SRC_INDEX o) % 8 = c.val then
      (t.modLoop o (fun l => { l with aged := false })).loopFollow o
    else t)

/-- LOOP_CONTROL (R471, R473): the sense voltage gives the measured current; OPEN and DEV clear once it is back. -/
def execLoopControl (o : Fin 8) (meas : BitVec 16) (s : State) : Result :=
  let t := s.put (Obj.LOOP.I_MEAS o) meas.toNat
  let t := if 500 ≤ meas.toNat then t.logFlag (Obj.LOOP.LSTAT o) Bit.LOOP.LSTAT.OPEN false 21 o else t
  let d := ((meas.toNat : Int) - s.u (Obj.LOOP.I_SET o)).natAbs
  .next (if d ≤ 100 then t.logFlag (Obj.LOOP.LSTAT o) Bit.LOOP.LSTAT.DEV false 21 o else t)

/-- SRC_AGE_EXPIRY (R472): the source's value has become older than SRC_AGE. -/
def execSrcAgeExpiry (o : Fin 8) (s : State) : Result :=
  .next (if clerksUp s ∧ (s.u (Obj.LOOP.SOURCE o) = 1 ∨ s.u (Obj.LOOP.SOURCE o) = 2) then
    (s.modLoop o (fun l => { l with aged := true })).loopFollow o else s)

/-- LOOP_OPEN (R473). -/
def execLoopOpen (o : Fin 8) (s : State) : Result :=
  .next (if plantOff s ∨ s.u (Obj.LOOP.SOURCE o) = 0 then s else s.logFlag (Obj.LOOP.LSTAT o) Bit.LOOP.LSTAT.OPEN true 21 o)

/-- LOOP_DEV (R473). -/
def execLoopDev (o : Fin 8) (s : State) : Result :=
  .next (if plantOff s ∨ s.u (Obj.LOOP.SOURCE o) = 0 then s else s.logFlag (Obj.LOOP.LSTAT o) Bit.LOOP.LSTAT.DEV true 21 o)

/-! ## The sensor front end (R460 to R469) -/

/-- The coefficients a curve takes from the Ledger (R466). -/
def curveCoefs (s : State) (curve : Nat) : List Nat :=
  if 8 ≤ curve ∧ curve < 12 then
    let u := curve - 8
    [s.u (Obj.SFE.CVD_R0 u), s.u (Obj.SFE.CVD_A u), s.u (Obj.SFE.CVD_B u), s.u (Obj.SFE.CVD_C u)]
  else if 12 ≤ curve then
    let v := curve - 12
    [s.u (Obj.SFE.SH_A v), s.u (Obj.SFE.SH_B v), s.u (Obj.SFE.SH_C v)]
  else []

/-- The resistance of IEC 60751's equation at `t` °C. -/
def cvdOhms (r0 a b c t : Rat) : Rat := r0 * (1 + a * t + b * t * t + (if t < 0 then c * (t - 100) * t ^ 3 else 0))

/-- Whether a function takes the value `r` between two points, as its signs there show. -/
def crosses (f : Rat → Rat) (r a b : Rat) : Bool := decide ((f a - r) * (f b - r) ≤ 0)

/-- The crossing between two points, halved `n` times. -/
def bisect (f : Rat → Rat) (r : Rat) : Nat → Rat → Rat → Rat
  | 0, a, _ => a
  | n + 1, a, b =>
    let m := (a + b) / 2
    if crosses f r a m then bisect f r n a m else bisect f r n m b

/-- The device's solution `g` where the equation's own lies within 0.1 mK of it, else the equation's own; none outside -200 to 850 °C. -/
def solveCvd (f : Rat → Rat) (r g : Rat) : Option Rat :=
  if -200 ≤ g ∧ g ≤ 850 ∧ crosses f r (g - 1 / 10000) (g + 1 / 10000) then some g
  else if crosses f r (-200) 850 then some (bisect f r 40 (-200) 850)
  else none

/-- The same of Steinhart and Hart's equation, in K; its range is one of resistance. -/
def solveSh (a b c r g : Rat) : Option Rat :=
  let x := lnQ r
  let y := a + b * x + c * x ^ 3
  if r < 1 ∨ 40000 < r ∨ y = 0 then none
  else if |g - 1 / y| ≤ 1 / 10000 then some g
  else some (1 / y)

/-- The temperature of a resistance in K by a curve's equation (R466). -/
def kelvin (curve : Nat) (coefs : List Nat) (res : Nat) : Option Rat :=
  let r : Rat := (res : Rat) / 65536
  let g := Config.curve curve coefs res
  let q := fun (i : Nat) => f32Val (coefs.getD i 0)
  let pt := fun (r0 : Rat) => cvdOhms r0 (39083 / 10 ^ 7) (-5775 / 10 ^ 10) (-4183 / 10 ^ 15)
  let celsius := fun (f : Rat → Rat) => (solveCvd f r g).map (· + 27315 / 100)
  match curve with
  | 1 => celsius (pt 100)
  | 2 => celsius (pt 500)
  | 3 => celsius (pt 1000)
  | _ => if curve < 12 then celsius (cvdOhms (q 0) (q 1) (q 2) (q 3)) else solveSh (q 0) (q 1) (q 2) r g

/-- The temperature of a resistance in I24 LSB, or none outside the curve's range or 0 K to 2,047 K (R466). -/
def temperature (s : State) (c : Fin 8) (res : Nat) : Option Int :=
  let curve := s.u (Obj.SFE.CURVE c)
  match kelvin curve (curveCoefs s curve) res with
  | none => none
  | some t => if 0 ≤ t ∧ t ≤ 2047 then some (freeRound (t * 4096).num (t * 4096).den) else none

/-- A result is written whole (R467), with FAULTS, the entry of a transition (R469) and the loops that follow it. -/
def State.putReading (s : State) (c : Fin 8) (code value res : Nat) (stamp : Stamp) (flags : Nat) : State :=
  let was := sfeFault s c
  let t := s.put (Obj.SFE.VALUE c) (if code = 0 then value else 0x80000000 + code)
  let t := (t.put (Obj.SFE.RES c) res).put (Obj.SFE.STAMP c) (epochVal stamp)
  let t := t.put (Obj.SFE.CSTAT c) (code * 256 + flags)
  let t := if code = 0 then t else t.bump (Obj.SFE.FAULTS c)
  let t := if decide (was = 0) = decide (code = 0) then t
    else t.log { cls := 0, sub := 20, inst := c, index := 0x7000, osub := 0x48 + c, detail := t.u (Obj.SFE.CSTAT c) }
  let t := t.modSfe c (fun x => { x with hasResult := true, taken := true })
  t.loopsOfChannel c

/-- GAIN, CHOP, REPEAT and LOWPOWER of CSTAT. -/
def sfeFlags (s : State) (step : Nat) (chop rep : Bool) : Nat :=
  step * 32 + bit8 chop 4 + bit8 rep 3 + bit8 (s.u Obj.SFE.CONV_MODE == 1) 1

/-- The PGA step of a channel's conversion (R463, R464). -/
def sfeStep (s : State) (c : Fin 8) : Nat := if s.u (Obj.SFE.GAIN c) = 0xFF then s.plant.sfe[c].step else s.u (Obj.SFE.GAIN c)

/-- Whether a conversion is chopped (R465): while AUTO holds chopping, every 16th cycle takes a sine conversion. -/
def sfeChop (s : State) (c : Fin 8) : Bool :=
  match s.u (Obj.SFE.EXC_MODE c) with
  | 0 => false
  | 1 => true
  | _ => s.plant.sfe[c].chopped && s.plant.cycle % 16 != 0

/-- The excitation of the next conversions (R465). -/
def SfeChannel.choose (x : SfeChannel) (chop : Bool) (quad quadMax : Nat) : SfeChannel :=
  if x.chopped then
    (if chop then
      let run := if x.quadLow then x.goodRun + 1 else 0
      if 64 ≤ run then { x with chopped := false, quadLow := false, goodRun := 0, quadRun := 0 } else { x with goodRun := run }
    else { x with quadLow := decide (2 * quad < quadMax), goodRun := if 2 * quad < quadMax then x.goodRun else 0 })
  else
    let run := if quadMax < quad then x.quadRun + 1 else 0
    if 4 ≤ run then { x with chopped := true, quadRun := 0, quadLow := false, goodRun := 0 } else { x with quadRun := run }

/-- A conversion that is neither discarded nor over range: its result, the next step and excitation. -/
def State.convert (s : State) (c : Fin 8) (x : SfeSample) (second : Option SfeSample) : State :=
  let ch := s.plant.sfe[c]
  let step := sfeStep s c
  let chop := sfeChop s c
  let auto := s.u (Obj.SFE.GAIN c) == 0xFF
  let t := if s.u (Obj.SFE.CURVE c) = 0 then s.putReading c (ch.held.getD 0) 0 x.res.toNat x.stamp (sfeFlags s step chop ch.repeating)
    else match ch.held, temperature s c x.res.toNat with
      | some f, _ => s.putReading c f 0 x.res.toNat x.stamp (sfeFlags s step chop ch.repeating)
      | none, some v => s.putReading c 0 (ofSigned 32 v) x.res.toNat x.stamp (sfeFlags s step chop ch.repeating)
      | none, none => s.putReading c 5 0 x.res.toNat x.stamp (sfeFlags s step chop ch.repeating)
  let t := t.modSfe c (fun y =>
    let y := { y with repeating := false, step := if auto && decide (x.peak < 400) then min 7 (y.step + 1) else y.step }
    if s.u (Obj.SFE.EXC_MODE c) = 2 then y.choose chop x.quad (s.u Obj.SFE.QUAD_MAX) else y)
  match second with
  | some y => { t with plant := { t.plant with pair := some (c, x.res.toNat, y.res.toNat) } }
  | none => t

/-- Whether the converter of a channel is under calibration: its channels give no result meanwhile (R492). -/
def sfeHeld (s : State) (c : Fin 8) : Bool := (s.calOf (if c.val < 4 ∨ s.u Obj.SFE.CONV_MODE = 1 then 17 else 18)).running

/-- Whether a channel's results can come. -/
def sfeRuns (s : State) (c : Fin 8) : Bool := s.bit Obj.SFE.CH_EN c && s.plant.live && !sfeHeld s c

/-- Whether a conversion of a channel is that of slot 4, which both converters sense (R460). -/
def bothSense (s : State) (c : Fin 8) : Bool :=
  s.u Obj.SFE.CONV_MODE == 0 && s.plant.cycle % 8 == c.val && !(s.calOf 17).running && !(s.calOf 18).running

/-- CONVERSION_END: a channel's conversion ends; with autorange one beyond 97 % of full scale is repeated a step lower, and at step 0
ends as OVERRANGE (R464). `second` is the other converter's sample of slot 4 (R460). -/
def execConversionEnd (c : Fin 8) (x : SfeSample) (second : Option SfeSample) (s : State) : Result :=
  let auto := s.u (Obj.SFE.GAIN c) == 0xFF
  .next (if !sfeRuns s c then s
  else if auto && decide (970 < x.peak) then
    (if s.plant.sfe[c].step = 0 then
      (s.putReading c (s.plant.sfe[c].held.getD 3) 0 x.res.toNat x.stamp (sfeFlags s 0 (sfeChop s c) s.plant.sfe[c].repeating)).modSfe c
        (fun y => { y with repeating := false })
    else (s.modSfe c (fun y => { y with step := y.step - 1, repeating := true })).bump (Obj.SFE.REPEATS c))
  else s.convert c x (if bothSense s c then second else none))

/-- EXC_COMPLIANCE (R468): the conversion stops, and the fault holds until a tone check passes. Its resistance has no value. -/
def execExcCompliance (c : Fin 8) (stamp : Stamp) (s : State) : Result :=
  .next (if sfeRuns s c then
    let t := s.modSfe c (fun y => { y with held := some 1, repeating := false })
    (t.putReading c 1 0 (Config.measured s.fresh % 2 ^ 32) stamp (sfeFlags s (sfeStep s c) (sfeChop s c) false)).drawn
  else s)

/-- TONE_CHECK (R468, R469): it passes with code 0, or finds EXC_OPEN, SEN_OPEN or SHORT, which is the channel's result. With TONE_PERIOD 0
only a channel whose fault holds is checked. -/
def execToneCheck (c : Fin 8) (code : Nat) (s : State) : Result :=
  .next (if !sfeRuns s c ∨ (s.u Obj.SFE.TONE_PERIOD = 0 ∧ s.plant.sfe[c].held = none) then s
  else if code = 0 then s.modSfe c (fun y => { y with held := none })
  else if code = 1 ∨ code = 2 ∨ code = 6 then
    let t := s.modSfe c (fun y => { y with held := some code })
    (t.putReading c code 0 (Config.measured s.fresh % 2 ^ 32) (s.now * 256) (sfeFlags s (sfeStep s c) (sfeChop s c) false)).drawn
  else s)

/-- A channel's latest result carries PLAUS, or CHECKED (R461, R467). -/
def State.plausible (s : State) (c : Fin 8) (pass : Bool) : State :=
  if !s.plant.sfe[c].taken then s
  else if pass then s.setBit (Obj.SFE.CSTAT c) Bit.SFE.CSTAT.CHECKED
  else if sfeFault s c ≠ 0 then s
  else s.putReading c 4 0 (s.u (Obj.SFE.RES c)) (stampOf (s.u (Obj.SFE.STAMP c))) (s.u (Obj.SFE.CSTAT c) % 256)

/-- The check resistor's calibrated value in 1/65,536 ohm (R462, R483): the first four of the bytes that target 17 sets (log entry 105). -/
def checkValue (s : State) : Nat :=
  if (s.calOf 17).inForce.isEmpty then Config.checkResistor else fromLe ((s.calOf 17).inForce.take 4)

/-- The plausibility of a cycle (R461, R462): the channels it speaks of and whether it passes; none where the cycle had no check. -/
def cycleCheck (s : State) (slot8 : Nat) : Option (List (Fin 8) × Bool) :=
  let tol := s.u Obj.SFE.PLAUS_TOL
  if s.u Obj.SFE.CONV_MODE = 1 then
    some ((List.finRange 8).filter (fun (c : Fin 8) => s.plant.sfe[c].taken),
      decide (1000000 * ((slot8 : Int) - checkValue s).natAbs ≤ tol * checkValue s))
  else s.plant.pair.map (fun p =>
    ([p.1], decide (2 * 1000000 * ((p.2.1 : Int) - p.2.2).natAbs ≤ tol * (p.2.1 + p.2.2))))

/-- PLAUS_ALARM (R461): set after 3 failing cycles in a row, cleared after 8 that pass. -/
def State.plausAlarm (s : State) (pass : Bool) : State :=
  let p := s.plant
  let t := { s with plant := { p with failRun := if pass then 0 else min 3 (p.failRun + 1), passRun := if pass then min 8 (p.passRun + 1) else 0 } }
  if 3 ≤ t.plant.failRun then t.logFlag Obj.SFE.FLAGS Bit.SFE.FLAGS.PLAUS_ALARM true 20
  else if 8 ≤ t.plant.passRun then t.logFlag Obj.SFE.FLAGS Bit.SFE.FLAGS.PLAUS_ALARM false 20
  else t

/-- CYCLE_TIME in µs (R460, R462): the longer converter's slots, and slot 4 or the check slot. -/
def cycleTime (s : State) : Nat :=
  let en := fun (c : Nat) => s.bit Obj.SFE.CH_EN c
  let slots := if s.u Obj.SFE.CONV_MODE = 1 then ((List.range 8).filter en).length + 1
    else max ((List.range 4).filter en).length ((List.range 4).filter (fun c => en (c + 4))).length +
      (if en (s.plant.cycle % 8) then 1 else 0)
  slots * (s.u Obj.SFE.SETTLE + s.u Obj.SFE.N_PER) * (2560 / 2 ^ s.u Obj.SFE.EXC_FREQ)

/-- The SFE group commits at a cycle's start, unless the root coasts (R459, R482). -/
def State.sfeCommit (s : State) : State :=
  let t := if s.coasting then s else s.commitIf 0x7000
  (t.put Obj.SFE.CYCLE_TIME (cycleTime t)).loopsFollow

/-- The outputs leave their off state at start-up, and the conversion cycles begin (R458, R460). -/
def State.plantBegins (s : State) : State := { s with plant := { s.plant with live := true } }.put Obj.SFE.CYCLE_TIME (cycleTime s)

/-- A new cycle begins: no channel has converted in it. -/
def SfeChannel.untaken (x : SfeChannel) : SfeChannel := { x with taken := false }

def PlantPart.nextCycle (p : PlantPart) : PlantPart := { p with pair := none, cycle := p.cycle + 1, sfe := p.sfe.map SfeChannel.untaken }

/-- SFE_CYCLE_END (R461, R462): the cycle's plausibility is judged, and the next cycle starts. `slot8` is what slot 8 measured, in
1/65,536 ohm. -/
def execSfeCycleEnd (slot8 : BitVec 32) (s : State) : Result :=
  let t := match cycleCheck s slot8.toNat with
    | none => s
    | some e =>
      let t := e.1.foldl (fun (u : State) c => u.plausible c e.2) s
      let t := if e.2 then t else t.bump Obj.SFE.PLAUS_FAILS
      t.plausAlarm e.2
  let t := { t with plant := t.plant.nextCycle }
  .next (if s.plant.live then t.sfeCommit else s)

/-! ## The latch chain (R480, R481) -/

def bytesAnd (a b : List Byte) : List Byte := List.zipWith (· &&& ·) a b
def bytesOr (a b : List Byte) : List Byte := List.zipWith (· ||| ·) a b
def bytesNot (a : List Byte) : List Byte := a.map (~~~ ·)

def chainBlob (s : State) (k : Nat) : List Byte := padTo 128 (s.blob k)

/-- The bits of an image within LENGTH. -/
def within (s : State) (l : List Byte) : List Byte := l.take (s.u Obj.CHAIN.LENGTH / 8)

/-- The wanted image (R480): masked bits from plant mail, the others from IMAGE. -/
def wanted (s : State) : List Byte :=
  let m := chainBlob s Obj.CHAIN.MAIL_MASK
  bytesOr (bytesAnd m (padTo 128 s.plant.chain.mail)) (bytesAnd (bytesNot m) (chainBlob s Obj.CHAIN.IMAGE))

def chainLive (s : State) : Bool := s.u Obj.CHAIN.CH_EN == 1 && !plantOff s && clerksUp s

/-- A frame starts with the wanted image. -/
def State.chainStart (s : State) : State :=
  if chainLive s && !s.plant.chain.busy then
    let w := wanted s
    (s.modChain (fun x => { x with busy := true, shifting := w, resting := false })).emit (.chainFrame (within s w) (s.u Obj.CHAIN.LENGTH))
  else s

/-- A frame starts where the wanted image differs from LATCHED, unless the chain rests after a failure. -/
def State.chainFollow (s : State) : State :=
  if within s (wanted s) ≠ within s (chainBlob s Obj.CHAIN.LATCHED) ∧ !s.plant.chain.resting then s.chainStart else s

/-- The chain is enabled: its first frame latches without comparison. -/
def State.chainEnable (s : State) : State :=
  (s.modChain (fun x => { x with busy := false, fresh := true, tries := 0, resting := false })).chainStart

/-- CHAIN_REFRESH (R480). -/
def execChainRefresh (s : State) : Result := .next (if s.u Obj.CHAIN.REFRESH = 0 then s else s.chainStart)

/-- A frame latches (R481). -/
def State.chainLatch (s : State) : State :=
  let c := s.plant.chain
  let first := c.fresh || s.bit Obj.CHAIN.CFLAGS Bit.CHAIN.CFLAGS.CHAIN_FAULT
  let t := (s.putBlob Obj.CHAIN.LATCHED (padTo 128 (within s c.shifting))).bump Obj.CHAIN.FRAMES
  let t := if first then t.put Obj.CHAIN.CFLAGS 0 else t.setBit Obj.CHAIN.CFLAGS Bit.CHAIN.CFLAGS.VERIFIED
  (t.modChain (fun x => { x with busy := false, fresh := false, tries := 0, shifted := x.shifting })).emit .chainLatch

/-- A frame whose return does not match is sent again, up to RETRIES times; then the chain is at fault, with an entry at
each such failure. -/
def State.chainMiss (s : State) : State :=
  let c := s.plant.chain
  let t := (s.modChain (fun x => { x with shifted := x.shifting })).bump Obj.CHAIN.MISMATCHES
  if c.tries < s.u Obj.CHAIN.RETRIES then
    (t.modChain (fun x => { x with tries := x.tries + 1 })).emit (.chainFrame (within s c.shifting) (s.u Obj.CHAIN.LENGTH))
  else
    let t := (t.modChain (fun x => { x with busy := false, tries := 0, resting := true })).bump Obj.CHAIN.FAILS
    (t.clrBit Obj.CHAIN.CFLAGS Bit.CHAIN.CFLAGS.CHAIN_FAULT).logFlag Obj.CHAIN.CFLAGS Bit.CHAIN.CFLAGS.CHAIN_FAULT true 23

/-- CHAIN_FRAME_END (R481). -/
def execChainFrameEnd (returned : List Byte) (s : State) : Result :=
  let c := s.plant.chain
  .next (if !c.busy then s
  else if c.fresh ∨ within s (padTo 128 returned) = within s (padTo 128 c.shifted) then (s.chainLatch).chainFollow
  else s.chainMiss)

/-- The effect of a write of IMAGE (R480): bits of MAIL_MASK are ignored, and it acts at once. -/
def chainImageEff (s : State) (bits : List Byte) : State :=
  let m := chainBlob s Obj.CHAIN.MAIL_MASK
  let v := bytesOr (bytesAnd m (chainBlob s Obj.CHAIN.IMAGE)) (bytesAnd (bytesNot m) (padTo 128 bits))
  ((s.putBlob Obj.CHAIN.IMAGE v).setBit Obj.FLASH.PENDING 1).chainFollow

/-! ## Plant mail (R474) -/

/-- A bit of a 128-byte image set or cleared. -/
def imageBit (l : List Byte) (b : Nat) (x : Bool) : List Byte :=
  (padTo 128 l).modify (b / 8) (fun v => BitVec.ofNat 8 (withBit v.toNat (b % 8) x))

def imageHas (l : List Byte) (b : Nat) : Bool := (l.getD (b / 8) 0).getLsbD (b % 8)

/-- The effect of one plant mail. -/
def State.plantMail (s : State) (m : List Byte) : State :=
  let target := fromLe (m.take 1)
  let o : Fin 8 := ⟨fromLe (slice m 1 1) % 8, Nat.mod_lt _ (by decide)⟩
  let bit := fromLe (slice m 8 2)
  if target = 1 ∧ fromLe (slice m 1 1) < 8 ∧ s.u (Obj.LOOP.SOURCE o) = 2 then
    let fault := (m.getD 2 0).getLsbD 0
    (s.modLoop o (fun l => { l with mail := some (toSigned 32 (fromLe (slice m 4 4))), mailFault := fault, aged := false })).loopFollow o
  else if target = 2 ∧ bit < 1024 ∧ imageHas (chainBlob s Obj.CHAIN.MAIL_MASK) bit then
    (s.modChain (fun x => { x with mail := imageBit x.mail bit ((m.getD 10 0).getLsbD 0) })).chainFollow
  else s.bump Obj.LOOP.MAIL_BAD

/-- PLANT_MAIL: the clerks take the oldest mail of their queue. -/
def execPlantMail (s : State) : Result :=
  .next (match s.array.mail with
  | [] => s
  | m :: rest => if clerksUp s ∧ s.plant.live then ({ s with array := { s.array with mail := rest } }).plantMail m.2 else s)

/-! ## Emitter sinks (R475 to R479) -/

/-- Whether a shot's gate holds a sink on (R475, R89). -/
def gates (k : Fin 16) (x : Shot) : Bool := x.holdsGate && x.sinkMask.getLsbD k

/-- Whether a sink is launch-class (R476). -/
def launchClass (s : State) (k : Fin 16) : Bool := s.u (Obj.SINK.MODE k) == 2 || s.u (Obj.SINK.LCLASS k) == 1

/-- Whether a sink carries its current (R475, R476, R478). -/
def sinkOn (s : State) (k : Fin 16) : Bool :=
  !plantOff s && !s.bit (Obj.SINK.SSTAT k) Bit.SINK.SSTAT.SHORT && !(launchClass s k && notActive s) &&
  (match s.u (Obj.SINK.MODE k) with
    | 0 => false
    | 1 => !launchClass s k || s.lsiHeld
    | _ => s.ports.toList.any (fun p => p.gateHigh && p.shots.any (gates k)))

/-- SINK_POWER_AVERAGE (R477): the 1 ms mean in mW. A sum above 1.5 W is scaled to it; the factor rises by 1/16 per ms at most. -/
def execSinkPowerAverage (power : Nat) (s : State) : Result :=
  let now := s.u Obj.SINK.SCALE_NOW
  let allowed := if power = 0 then 65535 else (freeRound ((now * 1500 : Nat) : Int) power).toNat
  let f := if 1500 < power then allowed else min (min 65535 (now + 4096)) allowed
  let t := (s.put Obj.SINK.P_TOTAL power).put Obj.SINK.SCALE_NOW f
  .next (t.putBit Obj.SINK.FLAGS Bit.SINK.FLAGS.SINK_LIMIT (f != 65535))

/-- A pin voltage is judged (R478): below 0.4 V OPEN, within 0.2 V of the rail SHORT, which switches the sink off. -/
def State.judgePin (s : State) (k : Fin 16) (mv vs : Nat) : State :=
  let st := Obj.SINK.SSTAT k
  let t := (s.put (Obj.SINK.V_PIN k) mv).clrBit st Bit.SINK.SSTAT.UNTESTED
  let t := { t with plant := { t.plant with tests := t.plant.tests.set k 0 } }
  let t := if mv < 400 then (if t.bit st Bit.SINK.SSTAT.OPEN then t else (t.setBit st Bit.SINK.SSTAT.OPEN).bump (Obj.SINK.OPENS k))
    else t.clrBit st Bit.SINK.SSTAT.OPEN
  if vs ≤ mv + 200 then (if t.bit st Bit.SINK.SSTAT.SHORT then t else (t.setBit st Bit.SINK.SSTAT.SHORT).bump (Obj.SINK.SHORTS k)) else t

/-- SINK_PIN_SAMPLE: at the end of an on-interval of 200 ns or more. -/
def execSinkPinSample (k : Fin 16) (mv vs : Nat) (s : State) : Result :=
  .next (if plantOff s ∨ s.u (Obj.SINK.MODE k) = 0 ∨ s.bit (Obj.SINK.SSTAT k) Bit.SINK.SSTAT.SHORT then s else s.judgePin k mv vs)

/-- Whether an entry of a port's table, or a shot of it, names a sink. -/
def namesSink (s : State) (n : Port) (k : Fin 16) : Bool :=
  (List.range (s.u (Obj.SCHEDULER.TABLE_LEN n))).any (fun e => (s.u (Obj.SHOT_ENTRY.SINK_MASK n e)).testBit k) ||
  s.ports[n].shots.any (fun x => x.sinkMask.getLsbD k)

/-- Whether a test pulse may not be sent (R479), or a sink that SHORT keeps off cannot be tested. -/
def testBarred (s : State) (k : Fin 16) : Bool :=
  notActive s || s.bit (Obj.SINK.SSTAT k) Bit.SINK.SSTAT.SHORT || (launchClass s k && !s.lsiHeld) ||
  (List.finRange 8).any (fun n => s.ports[n].shots.any (fun x => x.winOpen && !x.winClosed) && namesSink s n k)

/-- SINK_TEST_PULSE: an idle sink's TEST_PERIOD has passed; it is tested, or after four in a row without a test is UNTESTED. A sink that is
on has its on-interval. -/
def execSinkTestPulse (k : Fin 16) (mv vs : Nat) (s : State) : Result :=
  .next (if !s.plant.live ∨ s.u (Obj.SINK.TEST_EN k) = 0 ∨ sinkOn s k then s
  else if testBarred s k then
    let n := min 4 (s.plant.tests[k] + 1)
    let t := { s with plant := { s.plant with tests := s.plant.tests.set k n } }
    if n = 4 then t.setBit (Obj.SINK.SSTAT k) Bit.SINK.SSTAT.UNTESTED else t
  else (s.emit (.sinkPulse k (s.u Obj.SINK.TEST_MA))).judgePin k mv vs)

/-- The effect of a write of CLEAR_SHORT (R478). -/
def clearShortEff (s : State) (mask : Nat) : State :=
  overAll s (fun t (k : Fin 16) => if mask.testBit k then t.clrBit (Obj.SINK.SSTAT k) Bit.SINK.SSTAT.SHORT else t)

/-! ## The groups' commits (R459, R482) -/

/-- A commit of 7100h, 7200h or 7300h. -/
def State.plantApplied (s : State) (idx : Nat) : State :=
  let was := s.u Obj.CHAIN.CH_EN
  let t := s.commit idx
  if idx = 0x7100 then
    overAll t (fun u o => (if s.u (Obj.LOOP.SOURCE o) ≠ u.u (Obj.LOOP.SOURCE o) ∨ s.u (Obj.LOOP.SRC_INDEX o) ≠ u.u (Obj.LOOP.SRC_INDEX o)
      then u.modLoop o (fun l => { l with mail := none, mailFault := false, aged := false }) else u).loopFollow o)
  else if idx = 0x7300 then
    (if t.u Obj.CHAIN.CH_EN = 0 then t.modChain (fun x => { x with busy := false })
    else if was = 0 then t.chainEnable else t.chainFollow)
  else t

/-- The outputs come out of their off state, or go into it (R446, R458). -/
def State.plantTurn (s : State) : State :=
  let t := s.loopsFollow
  if plantOff t then t.modChain (fun x => { x with busy := false })
  else if t.u Obj.CHAIN.CH_EN = 1 then t.chainEnable else t

end Sys2Proof.Machine
end

