-- ==== Sys2Proof/Machine/Eth.lean ====
section
/-! DEFINITION. The Ethernet ports and interfaces (R345 to R349) and PTP (R350 to R352). -/

namespace Sys2Proof.Machine

/-! ## Link start-up (R345, R346) -/

/-- Whether Ethernet has started (R507 step 9, R516). -/
def netUp (s : State) : Bool := s.boot.served || s.u Obj.HEALTH.BOOT_STATE == 4

/-- The rates allowed in RATE_MASK, fastest first, as RATE names them. -/
def allowedRates (s : State) (p : Nat) : List Nat :=
  [3, 2, 1].filter (fun r => (s.u (Obj.ETH_PORT.RATE_MASK p)).testBit (3 - r))

/-- The order in which a port tries its rates: the one last up first (R346). -/
def rateOrder (s : State) (p : Fin 4) : List Nat :=
  let l := allowedRates s p
  let u := s.eth[p].lastUp
  if l.contains u then u :: l.erase u else l

/-- A port begins R345: with Clause 73, or with the first rate. -/
def State.startUp (s : State) (p : Fin 4) : State :=
  let an := s.u (Obj.ETH_PORT.AN_EN p) == 1
  let t := s.modEth p (fun e => { e with
    up := false, anRunning := an, viaAn := false, fec := 0, trying := if an then 0 else (rateOrder s p).headD 0 })
  let t := (t.put (Obj.ETH_PORT.RATE p) 0).put (Obj.ETH_PORT.FEC_USED p) 0
  (t.clrBit (Obj.ETH_PORT.FLAGS p) Bit.ETH_PORT.FLAGS.LINK).clrBit (Obj.ETH_PORT.FLAGS p) Bit.ETH_PORT.FLAGS.AN_DONE

/-- PATH of a port of a PRP pair (R348): no link, or nothing heard from a partner. -/
def State.pathFlag (s : State) (p : Fin 4) : State :=
  let k := p.val / 2
  let prp := s.u (Obj.INTERFACE.PRP_MODE k) == 1
  s.logFlag (Obj.INTERFACE.PRP_FLAGS k) (p.val % 2) (prp && netUp s && (!s.eth[p].up || s.eth[p].silent)) 16 k

/-- Ethernet starts on every port. -/
def State.startEthernet (s : State) : State := overAll (overAll s State.startUp) State.pathFlag

/-- AN_TIMEOUT: Clause 73 gave no result within 500 ms. -/
def execAnTimeout (p : Fin 4) (s : State) : Result :=
  .next (if netUp s && !s.eth[p].up && s.eth[p].anRunning then
    s.modEth p (fun e => { e with anRunning := false, trying := (rateOrder s p).headD 0 })
  else s)

/-- AN_DONE: the partner completes Clause 73; the port takes the highest common rate, 25 or 10 Gb/s, and the FEC resolved. -/
def execAnDone (p : Fin 4) (rate fec : BitVec 8) (s : State) : Result :=
  let ok := (rate == 2 || rate == 3) && (allowedRates s p).contains rate.toNat
  .next (if netUp s && !s.eth[p].up && s.eth[p].anRunning && ok then
    (s.modEth p (fun e => { e with anRunning := false, trying := rate.toNat, viaAn := true, fec := fec.toNat })).setBit
      (Obj.ETH_PORT.FLAGS p) Bit.ETH_PORT.FLAGS.AN_DONE
  else s)

/-- The rate after one in the order; none past its end. -/
def rateAfter (l : List Nat) (r : Nat) : Option Nat := l[(l.idxOf r) + 1]?

/-- RATE_TRY_TIMEOUT: a rate is not up within 250 ms; the next is tried, and the sequence repeats at its end. -/
def execRateTryTimeout (p : Fin 4) (s : State) : Result :=
  let e := s.eth[p]
  .next (if !netUp s || e.up || e.anRunning then s
  else if e.viaAn then s.startUp p
  else match rateAfter (rateOrder s p) e.trying with
    | some r => s.modEth p (fun x => { x with trying := r })
    | none => s.startUp p)

/-- The FEC a link uses (R346): Clause 73's, or the one set in FEC; Clause 108 serves 25 Gb/s only. -/
def fecUsed (s : State) (p : Fin 4) : Nat :=
  let e := s.eth[p]
  let f := if e.viaAn then e.fec else s.u (Obj.ETH_PORT.FEC p)
  if e.trying = 1 ∨ (f = 2 ∧ e.trying ≠ 3) then 0 else f

/-- LINK_UP: the condition of the rate tried has held for 100 ms. -/
def execLinkUp (p : Fin 4) (s : State) : Result :=
  let e := s.eth[p]
  .next (if !netUp s || e.up || e.anRunning || e.trying == 0 then s
  else
    let t := s.modEth p (fun x => { x with up := true, lastUp := x.trying, silent := false })
    let t := (t.put (Obj.ETH_PORT.RATE p) e.trying).put (Obj.ETH_PORT.FEC_USED p) (fecUsed s p)
    (t.setBit (Obj.ETH_PORT.FLAGS p) Bit.ETH_PORT.FLAGS.LINK).pathFlag p)

/-- A link goes down (R346, R348): counted, what waits to be sent on it discarded, and R345 starts again with the rate last up. -/
def State.linkDown (s : State) (p : Fin 4) : State :=
  if s.eth[p].up then
    let t := ((s.dropHeld p).startUp p).setBit (Obj.ETH_PORT.FLAGS p) Bit.ETH_PORT.FLAGS.LINK_LOST
    (t.bump (Obj.ETH_PORT.LINK_DOWNS p)).pathFlag p
  else (s.startUp p).pathFlag p

/-- LINK_DOWN. -/
def execLinkDown (p : Fin 4) (s : State) : Result := .next (if s.eth[p].up then s.linkDown p else s)

/-- What a crossing's senders kept is offered again (R342). -/
def State.offerAgain (s : State) (x : Fin 9) : State :=
  if x = 4 then s.canFlush else if x = 6 then s.netFlush else if x = 7 then overAll s State.pumpLink else s

/-- PEER_RESET_CLEAR (R342): a reset side has been out of reset for 16 of its clocks, and the crossing takes items again. -/
def execPeerResetClear (x : Fin 9) (s : State) : Result := .next ((s.clrBit Obj.CROSSINGS.PEER_RESET x).offerAgain x)

/-! ## PRP (R347, R348) -/

/-- The MAC address of a port (R347): the interface's, and with single ports the second has MAC + 1. -/
def portMac (s : State) (p : Fin 4) : Nat :=
  let k := p.val / 2
  s.u (Obj.INTERFACE.MAC k) % 2 ^ 48 + (if s.u (Obj.INTERFACE.PRP_MODE k) = 0 ∧ p.val % 2 = 1 then 1 else 0)

/-- Bytes of a number in network order. -/
def net (n v : Nat) : List Byte := (le n v).reverse

/-- A frame of the device's own leaves on one port that has link. -/
def State.ethOut (s : State) (p : Fin 4) (kind : Nat) (bytes : List Byte) (rct : Option (BitVec 16)) : State :=
  if s.eth[p].up then s.leave [p] (.eth p kind bytes rct) else s

/-- PRP_SUPERVISION: every 2,000 ms a supervision frame leaves, without trailer, on both ports of a PRP pair. -/
def execPrpSupervision (k : Fin 2) (s : State) : Result :=
  .next (if s.u (Obj.INTERFACE.PRP_MODE k) = 1 then
    [(0 : Nat), 1].foldl (fun t j =>
      let p : Fin 4 := ⟨(2 * k.val + j) % 4, Nat.mod_lt _ (by decide)⟩
      t.ethOut p 0x88FB (net 6 (portMac s p)) none) s
  else s)

/-- PRP_PATH_TIMEOUT: nothing from a PRP partner on a port for 3 supervision intervals. -/
def execPrpPathTimeout (p : Fin 4) (s : State) : Result :=
  .next (if s.u (Obj.INTERFACE.PRP_MODE (p.val / 2)) = 1 then (s.modEth p (fun e => { e with silent := true })).pathFlag p else s)

/-- The identifier of a port's own LAN in a redundancy control trailer: Ah for LAN A, Bh for LAN B (log entry 63). -/
def lanOf (p : Fin 4) : BitVec 4 := if p.val % 2 = 0 then 0xA else 0xB

/-- The bytes that IP and UDP headers put before a datagram to an address, IPv4 in the form mapped into IPv6. -/
def ipBytes (addr : BitVec 128) : Nat := if (addr >>> 32).toNat = 0xFFFF then 28 else 48

/-- What a frame carries behind its Ethernet header, in bytes. -/
def Out.lsdu : Out → Nat
  | .ledger (.udp addr _ _) b _ => ipBytes addr + b.length
  | .stream _ dest _ b _ => ipBytes dest + b.length
  | .eth _ _ b _ => b.length
  | .crier _ _ b _ => b.length
  | _ => 0

/-- The redundancy control trailer of a frame on one port of a pair (R347): the sequence number, the LAN with the size counted to the trailer's
end, and 88FBh, in network order (log entry 63). -/
def prpTrailer (p : Fin 4) (seq : BitVec 16) (size : Nat) : List Byte :=
  net 2 seq.toNat ++ net 2 ((lanOf p).toNat * 4096 + (size + 6) % 4096) ++ net 2 0x88FB

/-- The trailer bytes of a frame as it leaves on a port; none without PRP. -/
def Out.trailer (o : Out) (p : Fin 4) : List Byte :=
  let rct := match o with
    | .ledger _ _ r => r
    | .stream _ _ _ _ r => r
    | .eth _ _ _ r => r
    | .crier _ _ _ r => r
    | _ => none
  match rct with
  | some q => prpTrailer p q o.lsdu
  | none => []

/-- How long a frame's entry in the duplicate table stays, 400 ms in root ticks, and how many an interface keeps (R347). -/
def prpForget : Nat := 1280000000
def prpEntries : Nat := 4096

/-- Whether an entry of the duplicate table is the first copy of a frame: its source and sequence number. -/
def sameFrame (f : PrpTrailer) (e : PrpTrailer × Int) : Bool := e.1.src == f.src && e.1.seq == f.seq

/-- The entries of an interface's duplicate table that are not forgotten. -/
def seenOf (s : State) (p : Fin 4) : List (PrpTrailer × Int) :=
  s.eth[firstPort p].seen.filter (fun e => decide ((s.now : Int) < e.2 + prpForget))

/-- PRP_DUPLICATE: a frame with a redundancy control trailer came on a port of a pair. The first copy is entered, and its own command brings
what it carries; the second is discarded and counted. The other LAN's identifier is counted in WRONG_LAN, and the partner is heard. -/
def execPrpDuplicate (p : Fin 4) (f : PrpTrailer) (s : State) : Result :=
  let k := p.val / 2
  .next (if s.u (Obj.INTERFACE.PRP_MODE k) = 1 ∧ s.eth[p].up then
    let t := if f.lan != lanOf p then s.setBit (Obj.INTERFACE.PRP_FLAGS k) Bit.INTERFACE.PRP_FLAGS.WRONG_LAN else s
    let t := (t.modEth p (fun e => { e with silent := false })).pathFlag p
    if (seenOf s p).any (sameFrame f) then (t.bump (Obj.ETH_PORT.RX_FRAMES p)).bump (Obj.INTERFACE.PRP_DUP k)
    else t.modEth (firstPort p) (fun e => { e with seen := ((f, (s.now : Int)) :: seenOf s p).take prpEntries })
  else s)

/-! ## Answers (R349) -/

/-- IP_FRAGMENT: a received fragment or tagged frame is discarded and counted. -/
def execIpFragment (k : Fin 2) (s : State) : Result := .next (s.bump (Obj.INTERFACE.DISCARDS k))

/-- Whether a port takes the B addresses (R347). -/
def takesB (s : State) (p : Fin 4) : Bool := p.val % 2 == 1 && s.u (Obj.INTERFACE.PRP_MODE (p.val / 2)) == 0

def portIpv4 (s : State) (p : Fin 4) : Nat :=
  s.u (if takesB s p then Obj.INTERFACE.IPV4_B (p.val / 2) else Obj.INTERFACE.IPV4_A (p.val / 2))

def portIpv6 (s : State) (p : Fin 4) : List Byte :=
  padTo 16 (s.blob (if takesB s p then Obj.INTERFACE.IPV6_B (p.val / 2) else Obj.INTERFACE.IPV6_A (p.val / 2)))

/-- An answer leaves on the port, or on both ports of a pair (R347). -/
def State.answerOn (s : State) (p : Fin 4) (kind : Nat) (bytes : List Byte) : State :=
  ((sendingPorts s p).foldl (fun t q => t.ethOut q kind bytes (rctOf s p)) s).nextRct p

/-- The Internet checksum's running sum over 16-bit words in network order. -/
def sum16 : List Byte → Nat
  | [] => 0
  | [a] => a.toNat * 256
  | a :: b :: r => a.toNat * 256 + b.toNat + sum16 r

def fold16 (n : Nat) : Nat := let m := n % 65536 + n / 65536; m % 65536 + m / 65536

/-- ARP_REQUEST: a request for the port's address is answered with its MAC; `sender` is the asker's MAC and address. -/
def execArpRequest (p : Fin 4) (target : BitVec 32) (sender : List Byte) (s : State) : Result :=
  let t := s.bump (Obj.ETH_PORT.RX_FRAMES p)
  .next (if s.eth[p].up && target.toNat == portIpv4 s p && target.toNat != 0 then
    t.answerOn p 0x0806 (net 2 1 ++ net 2 0x0800 ++ net 1 6 ++ net 1 4 ++ net 2 2 ++ net 6 (portMac s p) ++ net 4 target.toNat ++ padTo 10 sender)
  else if s.eth[p].up then t else s)

/-- NEIGHBOR_SOLICITATION: answered with a solicited advertisement; `sender` is the asker's address. -/
def execNeighborSolicitation (p : Fin 4) (target : BitVec 128) (sender : List Byte) (s : State) : Result :=
  let t := s.bump (Obj.ETH_PORT.RX_FRAMES p)
  let addr := net 16 target.toNat
  let body := net 4 0x60000000 ++ addr ++ net 1 2 ++ net 1 1 ++ net 6 (portMac s p)
  let sum := fold16 (sum16 (addr ++ padTo 16 sender ++ net 4 32 ++ net 4 58 ++ net 2 0x8800 ++ net 2 0 ++ body))
  .next (if s.eth[p].up && addr == portIpv6 s p && target != 0 then
    t.answerOn p 0x86DD (net 2 0x8800 ++ net 2 (65535 - sum) ++ body)
  else if s.eth[p].up then t else s)

/-- ICMP_ECHO: an echo request comes back as its reply, the checksum moved by the change of type. -/
def execIcmpEcho (p : Fin 4) (payload : List Byte) (s : State) : Result :=
  let t := s.bump (Obj.ETH_PORT.RX_FRAMES p)
  let kind := fromLe (payload.take 1)
  let reply := if kind = 8 then some 0 else if kind = 128 then some 129 else none
  .next (match reply with
  | none => if s.eth[p].up then t else s
  | some r =>
    let ck := sum16 (slice payload 2 2)
    let sum := fold16 ((65535 - ck) + (65535 - kind * 256) + r * 256)
    if s.eth[p].up then
      t.answerOn p (if r = 0 then 0x0800 else 0x86DD) (net 1 r ++ net 1 0 ++ net 2 (65535 - sum) ++ payload.drop 4)
    else s)

/-! ## PTP (R350 to R352) -/

/-- The figures by which the best master clock algorithm compares two masters, in order (R351; log entry 63): of one grandmaster the steps
removed and the sender, of two the grandmasters' quality. -/
def masterRanks (a b : PtpMaster) : List Nat :=
  if a.grandmaster = b.grandmaster then [a.steps.toNat, a.identity.toNat, a.port.toNat]
  else [a.priority1.toNat, a.clockClass.toNat, a.accuracy.toNat, a.variance.toNat, a.priority2.toNat, a.grandmaster.toNat]

/-- The comparison of the best master clock algorithm: the lower figure decides at the first difference. -/
def rankLess : List Nat → List Nat → Bool
  | [], [] => false
  | [], _ :: _ => true
  | _ :: _, [] => false
  | a :: r, b :: q => if a = b then rankLess r q else decide (a < b)

def betterMaster (a b : Fin 4 × PtpMaster) : Bool :=
  if masterRanks a.2 b.2 = masterRanks b.2 a.2 then decide (a.1.val < b.1.val) else rankLess (masterRanks a.2 b.2) (masterRanks b.2 a.2)

/-- The port of the best master heard; a tie goes to the lower port number (R351). -/
def bestMaster : List (Fin 4 × PtpMaster) → Option (Fin 4 × PtpMaster)
  | [] => none
  | m :: l => match bestMaster l with
    | none => some m
    | some b => some (if betterMaster m b then m else b)

/-- The PTP source is lost (R352). -/
def State.ptpLose (s : State) : State :=
  if s.ep.ptpUsable then (({ s with ep := { s.ep with ptpUsable := false } }).bump Obj.PTP.LOSSES).ppsFlag else s

/-- The clock binds its port to the best master's, or to none (R351). -/
def State.ptpBind (s : State) : State :=
  match bestMaster s.ptp.heard with
  | none =>
    let t := { s.ptpLose with ptp := { s.ptp with bound := none, measured := false, missing := 0, sync := none } }
    let t := (t.put Obj.PTP.PTP_PORT 0xFF).putBlob Obj.PTP.MASTER_ID (List.replicate 8 0)
    if t.u Obj.PTP.PTP_STATE = 0 then t else t.put Obj.PTP.PTP_STATE 1
  | some m =>
    let ident := net 8 m.2.identity.toNat
    if s.ptp.bound = some m.1 ∧ s.blob Obj.PTP.MASTER_ID = ident then s
    else
      let t := { s.ptpLose with ptp := { s.ptp with bound := some m.1, measured := false, missing := 0, sync := none } }
      ((t.put Obj.PTP.PTP_PORT m.1).putBlob Obj.PTP.MASTER_ID ident).put Obj.PTP.PTP_STATE 2

/-- Whether a PTP message is of the device's DOMAIN and TRANSPORT (R350). -/
def ptpOurs (s : State) (domain transport : BitVec 8) : Bool :=
  domain.toNat == s.u Obj.PTP.DOMAIN && transport.toNat == s.u Obj.PTP.TRANSPORT

/-- PTP_ANNOUNCE (R351): heard on a port of PTP_PORTMASK. -/
def execPtpAnnounce (p : Fin 4) (m : PtpMaster) (s : State) : Result :=
  let t := s.bump (Obj.ETH_PORT.RX_FRAMES p)
  .next (if !s.eth[p].up then s
  else if s.u Obj.PTP.PTP_STATE = 0 ∨ s.bit Obj.EPOCH_SOURCE.PTP_PORTMASK p = false ∨ !ptpOurs s m.domain m.transport then t
  else
    ({ t with ptp := { t.ptp with heard := (p, m) :: t.ptp.heard.filter (fun e => e.1 != p || e.2.identity != m.identity) } }).ptpBind)

/-- A PTP timestamp: the epoch count of a stamp, its fine field 0, in 1/65,536 ns (R350). -/
def ptpTime (t : Stamp) : Int := (t / 256 : Nat) * 20480

/-- Nanoseconds in 1/65,536 ns. -/
def scaled (ns : Nat) : Int := ns * 65536

/-- Picoseconds of a time in 1/65,536 ns, as the device rounds it (log entry 2). -/
def psOfScaled (t : Int) : Int := freeRound (t * 125) 8192

/-- How much later than its sending a Sync arrived, by the two clocks. -/
def syncLag (m : PtpSyncMsg) : Int := ptpTime m.stamp - scaled m.origin - m.corr

/-- The mean path delay in 1/65,536 ns (R350), doubled: from a Sync and a delay request, or from a peer's turn; delayAsymmetry cancels in it. -/
def pathTwice (s : State) (m : PathDelayMsg) : Option Int :=
  if s.u Obj.PTP.DELAY_MECH = 1 then some (ptpTime m.back - ptpTime m.sent - scaled m.turn - m.corr)
  else s.ptp.sync.map (fun y => syncLag y + (scaled m.arrival - ptpTime m.sent - m.corr))

/-- The offset of a Sync, epoch minus master in ps: its lag less the mean path delay and delayAsymmetry (R350, R352). -/
def syncOffset (s : State) (m : PtpSyncMsg) : Int :=
  psOfScaled (syncLag m) - s.i Obj.PTP.MEAN_PATH_DELAY - s.i Obj.PTP.ASYMMETRY

/-- The clock's identity: the EUI-64 of the port's MAC address (IEEE 1588). -/
def clockIdentity (s : State) (p : Fin 4) : List Byte :=
  let m := net 6 (portMac s p)
  m.take 3 ++ [0xFF, 0xFE] ++ m.drop 3

/-- The request that a path-delay measurement begins with (R350): Delay_Req, or Pdelay_Req of the peer-to-peer mechanism, in DOMAIN
(IEEE 1588-2019; log entry 63). -/
def delayRequest (s : State) (p : Fin 4) : List Byte :=
  let peer := s.u Obj.PTP.DELAY_MECH == 1
  let len := if peer then 54 else 44
  padTo len ([if peer then 2 else 1, 0x12] ++ net 2 len ++ net 1 (s.u Obj.PTP.DOMAIN) ++ List.replicate 15 0 ++ clockIdentity s p ++
    net 2 1 ++ net 2 s.ptp.request.toNat ++ [if peer then 5 else 1, 0x7F])

/-- The frame a PTP message travels in, by TRANSPORT (R350). -/
def ptpKind (s : State) : Nat := if s.u Obj.PTP.TRANSPORT = 0 then 0x88F7 else if s.u Obj.PTP.TRANSPORT = 1 then 0x0800 else 0x86DD

/-- A delay request leaves on a port, without trailer (R347, R350). -/
def State.askDelay (s : State) (p : Fin 4) : State :=
  let t := s.ethOut p (ptpKind s) (delayRequest s p) none
  { t with ptp := { t.ptp with request := t.ptp.request + 1 } }

/-- PATH_DELAY_MEASUREMENT (R352): the bound port's measurement, from its request on (R350), completes, and it is SLAVE; the end-to-end one
takes a Sync. -/
def execPathDelayMeasurement (p : Fin 4) (m : PathDelayMsg) (s : State) : Result :=
  .next (match s.ptp.bound, pathTwice s m with
  | some q, some d =>
    if q = p then
      let s := s.askDelay p
      (({ s with ptp := { s.ptp with measured := true } }).puti Obj.PTP.MEAN_PATH_DELAY (freeRound (d * 125) 16384)).put Obj.PTP.PTP_STATE 3
    else s
  | _, _ => s)

/-- PTP_SYNC (R352): the first Sync after a measurement makes the source usable, and its offset, epoch minus master in ps, enters
R23 or R24. -/
def execPtpSync (p : Fin 4) (m : PtpSyncMsg) (s : State) : Result :=
  let t := s.bump (Obj.ETH_PORT.RX_FRAMES p)
  let offset := syncOffset s m
  .next (if !s.eth[p].up then s
  else if s.ptp.bound ≠ some p ∨ !ptpOurs s m.domain m.transport then t
  else
    let t := { t with ptp := { t.ptp with missing := 0, sync := some m } }
    if t.u Obj.PTP.PTP_STATE = 3 ∧ t.ptp.measured then
      (({ t with ep := { t.ep with ptpUsable := true, ptpOffset := offset } }).ppsFlag).measure 1 offset
    else t)

/-- ANNOUNCE_RECEIPT_TIMEOUT (R352): the bound port's master is forgotten, and the clock binds to the best of the others. -/
def execAnnounceReceiptTimeout (s : State) : Result :=
  .next (match s.ptp.bound with
  | none => s
  | some p =>
    let gone := fun (e : Fin 4 × PtpMaster) => e.1 == p && net 8 e.2.identity.toNat == s.blob Obj.PTP.MASTER_ID
    (({ s with ptp := { s.ptp with heard := s.ptp.heard.filter (fun e => !gone e) } }).ptpLose).ptpBind)

/-- SYNC_MISSED (R352): an expected Sync is missing; the eighth in a row loses the source. -/
def execSyncMissed (s : State) : Result :=
  .next (match s.ptp.bound with
  | none => s
  | some _ =>
    let t := ({ s with ptp := { s.ptp with missing := min 8 (s.ptp.missing + 1) } }).bump Obj.PTP.SYNC_MISSED
    if 8 ≤ t.ptp.missing then t.ptpLose else t)

/-- A commit of PTP_PORTMASK (R352): masters heard on cleared ports are forgotten. -/
def State.ptpRemask (s : State) : State :=
  ({ s with ptp := { s.ptp with heard := s.ptp.heard.filter (fun e => s.bit Obj.EPOCH_SOURCE.PTP_PORTMASK e.1) } }).ptpBind

/-- A change of DOMAIN or TRANSPORT: no master is heard there yet. -/
def State.ptpRestart (s : State) : State := ({ s with ptp := { s.ptp with heard := [] } }).ptpBind

end Sys2Proof.Machine
end

