-- ==== Sys2Proof/Machine/Inflate.lean ====
section
/-! DEFINITION. Bales (R368 to R378): the predictor, the decoder of raw DEFLATE (RFC 1951) with the errors of R378 in the order they are
met, and the bale the compressor writes. -/

namespace Sys2Proof.Machine

/-! ## Bits -/

/-- The bits of some bytes, least significant first (RFC 1951). -/
def bitsOf (l : List Byte) : List Bool := l.flatMap (fun b => (List.range 8).map b.getLsbD)

/-- A number of `n` bits, least significant first; none where the payload is exhausted. -/
def takeBits : Nat → List Bool → Option (Nat × List Bool)
  | 0, l => some (0, l)
  | _ + 1, [] => none
  | n + 1, b :: r => (takeBits n r).map (fun e => (2 * e.1 + b.toNat, e.2))

/-- The errors of R378. -/
def dzHeader : Nat := 1
def dzBlockType : Nat := 2
def dzBadCode : Nat := 3
def dzFarDist : Nat := 4
def dzOverrun : Nat := 5
def dzUnderrun : Nat := 6
def dzStoredLen : Nat := 7
def dzCheck : Nat := 8

/-! ## Huffman codes -/

/-- A canonical code: how many codes have each length 1 to 15, and the symbols in code order. -/
structure Huff where
  counts : List Nat
  syms : List Nat
deriving DecidableEq, Repr

def huffOf (lens : List Nat) : Huff :=
  let ls := (List.range 15).map (· + 1)
  ⟨ls.map (fun n => lens.countP (· == n)),
   ls.flatMap (fun n => (lens.zipIdx.filter (fun e => e.1 == n)).map (·.2))⟩

/-- The code space left after each length in turn; none where a set is oversubscribed. -/
def spaceLeft : List Nat → Nat → Option Nat
  | [], left => some left
  | c :: r, left => if 2 * left < c then none else spaceLeft r (2 * left - c)

def complete (lens : List Nat) : Bool := spaceLeft (huffOf lens).counts 1 == some 0

/-- Whether a distance set is accepted: complete, of one code, or of none (R378). -/
def distGood (lens : List Nat) : Bool :=
  let used := lens.countP (· != 0)
  decide (used = 0) || decide (used = 1) || complete lens

def huffGo (syms : List Nat) : List Nat → Nat → Nat → Nat → List Bool → Except Nat (Nat × List Bool)
  | [], _, _, _, _ => .error dzBadCode
  | _ :: _, _, _, _, [] => .error dzUnderrun
  | c :: cs, code, first, index, b :: r =>
    let code := code + b.toNat
    if code < first + c then .ok (syms.getD (index + (code - first)) 0, r)
    else huffGo syms cs (2 * code) (2 * (first + c)) (index + c) r

/-- The next symbol. -/
def Huff.next (h : Huff) (l : List Bool) : Except Nat (Nat × List Bool) := huffGo h.syms h.counts 0 0 0 l

/-! ## Output -/

/-- The decoder at work: bits left, output newest first, its length and the length it may not pass. -/
structure Inf where
  bits : List Bool
  out : List Byte := []
  n : Nat := 0
  limit : Nat
deriving DecidableEq, Repr

def Inf.take (x : Inf) (k : Nat) : Except Nat (Nat × Inf) :=
  match takeBits k x.bits with
  | none => .error dzUnderrun
  | some e => .ok (e.1, { x with bits := e.2 })

def Inf.sym (x : Inf) (h : Huff) : Except Nat (Nat × Inf) :=
  match h.next x.bits with
  | .error e => .error e
  | .ok e => .ok (e.1, { x with bits := e.2 })

def Inf.put (x : Inf) (b : Byte) : Except Nat Inf :=
  if x.limit ≤ x.n then .error dzOverrun else .ok { x with out := b :: x.out, n := x.n + 1 }

/-- A match copied byte by byte from `dist` back. -/
def Inf.copy : Nat → Nat → Inf → Except Nat Inf
  | 0, _, x => .ok x
  | k + 1, dist, x => (x.put (x.out.getD (dist - 1) 0)).bind (Inf.copy k dist)

/-! ## Blocks -/

def lenBase (k : Nat) : Nat :=
  ([3, 4, 5, 6, 7, 8, 9, 10, 11, 13, 15, 17, 19, 23, 27, 31] ++ [35, 43, 51, 59, 67, 83, 99, 115, 131, 163, 195, 227, 258]).getD k 0

def lenExtra (k : Nat) : Nat := if k < 8 ∨ k = 28 then 0 else (k - 4) / 4

def distBase (k : Nat) : Nat := if k < 4 then k + 1 else (2 + k % 2) * 2 ^ (k / 2 - 1) + 1

def distExtra (k : Nat) : Nat := if k < 4 then 0 else k / 2 - 1

/-- The symbols of a compressed block, to its end. -/
def inflateSyms (hl hd : Huff) : Nat → Inf → Except Nat Inf
  | 0, _ => .error dzUnderrun
  | f + 1, x => do
    let (s, x) ← x.sym hl
    if s < 256 then
      let x ← x.put (BitVec.ofNat 8 s)
      inflateSyms hl hd f x
    else if s = 256 then .ok x
    else if 285 < s ∨ hd.syms.isEmpty then .error dzBadCode
    else
      let (e, x) ← x.take (lenExtra (s - 257))
      let (d, x) ← x.sym hd
      if 29 < d then .error dzBadCode
      else
        let (g, x) ← x.take (distExtra d)
        let dist := distBase d + g
        if x.n < dist then .error dzFarDist
        else
          let x ← Inf.copy (lenBase (s - 257) + e) dist x
          inflateSyms hl hd f x

/-- Bytes of a stored block. -/
def inflateStored : Nat → Inf → Except Nat Inf
  | 0, x => .ok x
  | n + 1, x => do
    let (b, x) ← x.take 8
    let x ← x.put (BitVec.ofNat 8 b)
    inflateStored n x

/-- The order of the code-length code's lengths. -/
def clOrder : List Nat := [16, 17, 18, 0, 8, 7, 9, 6, 10, 5, 11, 4, 12, 3, 13, 2, 14, 1, 15]

def readLens : Nat → Inf → Except Nat (List Nat × Inf)
  | 0, x => .ok ([], x)
  | n + 1, x => do
    let (v, x) ← x.take 3
    let (r, x) ← readLens n x
    .ok (v :: r, x)

/-- The code lengths of a dynamic block, newest first, up to `total`. -/
def readCodes (h : Huff) (total : Nat) : Nat → List Nat → Inf → Except Nat (List Nat × Inf)
  | 0, l, x => if l.length = total then .ok (l, x) else .error dzUnderrun
  | f + 1, l, x =>
    if l.length = total then .ok (l, x)
    else do
      let (s, x) ← x.sym h
      if s < 16 then readCodes h total f (s :: l) x
      else if s = 16 ∧ l.isEmpty then .error dzBadCode
      else
        let (e, x) ← x.take (if s = 16 then 2 else if s = 17 then 3 else 7)
        let n := e + (if s = 18 then 11 else 3)
        if total < l.length + n then .error dzBadCode
        else readCodes h total f (List.replicate n (if s = 16 then l.headD 0 else 0) ++ l) x

def fixedLens : List Nat :=
  List.replicate 144 8 ++ List.replicate 112 9 ++ List.replicate 24 7 ++ List.replicate 8 8

/-- A dynamic block after its type. -/
def inflateDynamic (fuel : Nat) (x : Inf) : Except Nat Inf := do
  let (hl, x) ← x.take 5
  if 286 < hl + 257 then .error dzBadCode
  else
    let (hd, x) ← x.take 5
    if 30 < hd + 1 then .error dzBadCode
    else
      let (hc, x) ← x.take 4
      let (cl, x) ← readLens (hc + 4) x
      let lens := (List.range 19).map (fun k => cl.getD (clOrder.findIdx (· == k)) 0)
      if !complete lens then .error dzBadCode
      else
        let (codes, x) ← readCodes (huffOf lens) (hl + 257 + hd + 1) fuel [] x
        let all := codes.reverse
        let ll := all.take (hl + 257)
        let dl := all.drop (hl + 257)
        if ll.getD 256 0 = 0 ∨ !complete ll ∨ !distGood dl then .error dzBadCode
        else inflateSyms (huffOf ll) (huffOf dl) fuel x

/-- The bits up to the next byte boundary dropped. -/
def Inf.align (x : Inf) : Inf := { x with bits := x.bits.drop (x.bits.length % 8) }

/-- A stored block after its type. -/
def inflateRaw (x : Inf) : Except Nat Inf := do
  let (n, x) ← x.align.take 16
  let (m, x) ← x.take 16
  if n + m = 65535 then inflateStored n x else .error dzStoredLen

def inflateBlocks : Nat → Nat → Inf → Except Nat Inf
  | 0, _, _ => .error dzUnderrun
  | f + 1, fuel, x => do
    let (fin, x) ← x.take 1
    let (ty, x) ← x.take 2
    let x ← (if ty = 0 then inflateRaw x
      else if ty = 1 then inflateSyms (huffOf fixedLens) (huffOf (List.replicate 32 5)) fuel x
      else if ty = 2 then inflateDynamic fuel x
      else .error dzBlockType)
    if fin = 1 then .ok x else inflateBlocks f fuel x

/-- The output of a raw DEFLATE payload of which `orig` bytes are wanted. -/
def inflate (orig : Nat) (payload : List Byte) : Except Nat (List Byte) :=
  let bits := bitsOf payload
  match inflateBlocks (bits.length + 1) (bits.length + 1) { bits := bits, limit := orig } with
  | .error e => .error e
  | .ok x =>
    if x.n < orig then .error dzUnderrun
    else if 8 ≤ x.bits.length then .error dzHeader
    else .ok x.out.reverse

/-! ## The predictor (R372) -/

/-- Differences of successive words, mod 2^32. -/
def diffs (prev : Nat) : List Nat → List Nat
  | [] => []
  | w :: r => (w + 2 ^ 32 - prev) % 2 ^ 32 :: diffs w r

/-- Running sums of words, mod 2^32. -/
def sums (prev : Nat) : List Nat → List Nat
  | [] => []
  | d :: r => (prev + d) % 2 ^ 32 :: sums ((prev + d) % 2 ^ 32) r

def wordsOf : List Byte → List Nat
  | a :: b :: c :: d :: r => fromLe [a, b, c, d] :: wordsOf r
  | _ => []

/-- A region of whole words through the predictor: differences, plane by plane. -/
def planes (region : List Byte) : List Byte :=
  let d := diffs 0 (wordsOf region)
  (List.range 4).flatMap (fun p => d.map (fun w => BitVec.ofNat 8 (w / 256 ^ p)))

/-- The inverse of `planes`. -/
def unplanes (region : List Byte) : List Byte :=
  let n := region.length / 4
  let d := (List.range n).map (fun k => fromLe ((List.range 4).map (fun p => region.getD (p * n + k) 0)))
  (sums 0 d).flatMap (fun w => le 4 w)

/-- A chunk's data with its predicted region through `f`: the part of a DELIVERY item at offset 32 or beyond, without the trailer. -/
def predictChunk (f : List Byte → List Byte) (h data : List Byte) : List Byte :=
  if fromLe (h.take 1) ≠ 1 then data
  else
    let off := fromLe (slice h 8 4)
    let start := 32 - off
    let stop := if (h.getD 1 0).getLsbD 1 then data.length - 16 else data.length
    let n := (stop - start) / 4 * 4
    data.take start ++ f (slice data start n) ++ data.drop (start + n)

/-- An original with every chunk through `f`; none where the chunk headers do not tile it. -/
def baleItems (f : List Byte → List Byte) : Nat → List Byte → Option (List Byte)
  | 0, l => if l.isEmpty then some [] else none
  | k + 1, l =>
    if l.isEmpty then some []
    else
      let n := fromLe (slice l 12 4)
      if l.length < 16 + n then none
      else (baleItems f k (l.drop (16 + n))).map (fun r => l.take 16 ++ predictChunk f (l.take 16) (slice l 16 n) ++ r)

/-! ## Whole bales -/

/-- The header of R368. -/
def baleHeader (form : Nat) (fallback : Bool) (orig comp : Nat) (check : Nat) : List Byte :=
  le 1 1 ++ le 1 form ++ le 2 (if fallback then 1 else 0) ++ le 4 orig ++ le 4 comp ++ le 4 check

/-- An original in stored blocks (RFC 1951): each at most 65,535 bytes, the last with BFINAL. -/
def storedBlocks (orig : List Byte) : List Byte :=
  let block := fun (isLast : Bool) (l : List Byte) => le 1 (if isLast then 1 else 0) ++ le 2 l.length ++ le 2 (65535 - l.length) ++ l
  if orig.length ≤ 65535 then block true orig else block false (orig.take 65535) ++ block true (orig.drop 65535)

/-- A row of bits as bytes, the first bit the least significant of the first byte, filled with 0. -/
def bytesOf (bits : List Bool) : List Byte :=
  (List.range (ceilDiv bits.length 8)).map (fun i =>
    BitVec.ofNat 8 ((List.range 8).map (fun j => if bits.getD (8 * i + j) false then 2 ^ j else 0)).sum)

/-- A block's stored form where `before` bits stand before it (RFC 1951). -/
def storedForm (isLast : Bool) (before : Nat) (piece : List Byte) : List Bool :=
  [isLast, false, false] ++ List.replicate ((8 - (before + 3) % 8) % 8) false ++
  bitsOf (le 2 piece.length ++ le 2 (65535 - piece.length) ++ piece)

/-- Whether a block's bits behind BFINAL yield its piece, `hist` being what the bale holds before it, newest first. -/
def yields (hist piece : List Byte) (form : List Bool) : Bool :=
  match inflateBlocks 1 (form.length + 1)
      { bits := true :: form, out := hist, n := hist.length, limit := hist.length + piece.length } with
  | .ok x => x.bits.isEmpty && x.out == piece.reverse ++ hist
  | .error _ => false

/-- The shortest of some rows of bits, of several alike the first. -/
def shortest : List (List Bool) → List Bool
  | [] => []
  | [a] => a
  | a :: l => if a.length ≤ (shortest l).length then a else shortest l

/-- A block in the smallest of its three forms (R373): stored, fixed-Huffman, dynamic-Huffman. -/
def smallestForm (isLast : Bool) (before : Nat) (hist piece : List Byte) (fixed dynamic : List Bool) : List Bool :=
  shortest ((if piece.length ≤ 65535 then [storedForm isLast before piece] else []) ++
    ([[true, false] ++ fixed, [false, true] ++ dynamic].filter (yields hist piece)).map (isLast :: ·))

/-- An original as a row of blocks, each in its smallest form, the last with BFINAL; none where the blocks do not make up the original. -/
def blockBits : List (Nat × List Bool × List Bool) → List Byte → List Bool → List Byte → Option (List Bool)
  | [], _, acc, rest => if rest.isEmpty then some acc else none
  | (n, f, d) :: bs, hist, acc, rest =>
    let piece := rest.take n
    blockBits bs (piece.reverse ++ hist) (acc ++ smallestForm bs.isEmpty acc.length hist piece f d) (rest.drop n)

/-- The payload the compressor writes (R373): where it cuts blocks and what its match search finds is open, but it decodes to the original (log
entry 8). -/
def deflated (level : Nat) (orig : List Byte) : List Byte :=
  match blockBits (Config.deflate level orig) [] [] orig with
  | some b => if inflate orig.length (bytesOf b) = .ok orig then bytesOf b else storedBlocks orig
  | none => storedBlocks orig

/-- The bale the compressor writes for an original (R370, R373, R374), and whether it fell back to NONE. -/
def compress (form level : Nat) (orig : List Byte) : List Byte × Bool :=
  let check := (crc32c orig).toNat
  let plain := (baleItems planes orig.length orig).getD orig
  let p := if form = 0 then orig else deflated level (if form = 2 then plain else orig)
  if form = 0 then (baleHeader 0 false orig.length orig.length check ++ orig, false)
  else if orig.length ≤ p.length then (baleHeader 0 true orig.length orig.length check ++ orig, true)
  else (baleHeader form false orig.length p.length check ++ p, false)

/-- A bale decoded (R377, R378): the bytes present are those from its start on; in a stream they are exactly the bale's. The error code, or the
original and the bytes after the bale. -/
def decodeBale (inStream : Bool) (l : List Byte) : Except Nat (List Byte × List Byte) :=
  let form := fromLe (slice l 1 1)
  let orig := fromLe (slice l 4 4)
  let comp := fromLe (slice l 8 4)
  let have' := l.length - 16
  if l.length < 16 ∨ fromLe (l.take 1) ≠ 1 ∨ 2 < form ∨ (form = 2 ∧ !inStream) ∨ orig = 0 ∨ 65536 < orig ∨ have' < comp ∨
      (inStream ∧ comp ≠ have') ∨ (form = 0 ∧ comp ≠ orig) then .error dzHeader
  else
    let payload := slice l 16 comp
    let rest := l.drop (16 + comp)
    let body : Except Nat (List Byte) := if form = 0 then .ok payload else inflate orig payload
    match body with
    | .error e => .error e
    | .ok b =>
      let o := if form = 2 then baleItems unplanes b.length b else some b
      match o with
      | none => .error dzCheck
      | some o => if (crc32c o).toNat = fromLe (slice l 12 4) then .ok (o, rest) else .error dzCheck

/-- Consecutive bales (R377), at most `k` of them. -/
def decodeBales : Nat → List Byte → Except Nat (List (List Byte))
  | 0, l => if l.isEmpty then .ok [] else .error dzHeader
  | k + 1, l =>
    if l.isEmpty then .ok []
    else match decodeBale false l with
      | .error e => .error e
      | .ok e => (decodeBales k e.2).map (fun r => e.1 :: r)

/-- The bytes of the first bale of an object, header included; the rest where its header is cut short or names more than remains. -/
def firstBale (l : List Byte) : List Byte :=
  if l.length < 16 then l else l.take (16 + fromLe (slice l 8 4))

/-- An object's bytes cut into its bales. -/
def splitBales : Nat → List Byte → List (List Byte)
  | 0, _ => []
  | k + 1, l => if l.isEmpty then [] else firstBale l :: splitBales k (l.drop (firstBale l).length)

end Sys2Proof.Machine
end

