-- ==== Sys2Proof/Machine/Session.lean ====
section
/-! DEFINITION. Ledger messages and sessions (R391 to R393, R398 to R401, R406): what is checked before a request is examined, and how it
is answered. -/

namespace Sys2Proof.Machine

/-! ## Messages -/

/-- TARGET of a message and its answer (R391): a forwarded one names this device. -/
def targetOf (s : State) (p : Path) : Nat :=
  match p with
  | .fwd _ _ => 0x8000 + (ownId s).toNat
  | _ => 0

/-- A message but for its TAG (R391). -/
def messageBytes (op mflags : Nat) (session seq : BitVec 32) (target : Nat) (body : List Byte) : List Byte :=
  le 1 1 ++ le 1 op ++ le 2 mflags ++ le 4 session.toNat ++ le 4 seq.toNat ++ le 2 target ++ le 2 body.length ++ body

def zeroTag : List Byte := List.replicate 16 0

/-- The TAG a request must carry under a session key (R391). -/
def requestTag (s : State) (key : List Byte) (op : Nat) (r : Req) (body : List Byte) : List Byte :=
  tagOf key (messageBytes op 0 r.session r.seq (targetOf s r.path) body ++ zeroTag)

/-- A response goes to the path its request came by (R403, R407, R411, R438). -/
def State.sendResponse (s : State) (p : Path) (msg : List Byte) : State :=
  match p with
  | .can c => s.canSend c msg
  | .fwd d _ => s.sendLedger d msg
  | .udp _ _ q => s.sendOn q (fun r => .ledger p msg r)

/-- A response with its TAG, zero where no session key applies. -/
def responseBytes (s : State) (p : Path) (op : Nat) (session seq : BitVec 32) (code : Nat) (rest : List Byte) (key : Option (List Byte)) :
    List Byte :=
  let m := messageBytes (op + 0x80) 0 session seq (targetOf s p) (le 2 code ++ rest)
  m ++ (match key with
    | some k => tagOf k (m ++ zeroTag)
    | none => zeroTag)

/-! ## Sessions -/

/-- The session key where a session's messages are checked (R398, R399). -/
def Session.tagKey (x : Session) : Option (List Byte) := if x.anon then none else some x.key

/-- A session ends (R400): its transfer goes with it, and the streams it opened close. Bales of its transfer that the decompressor holds keep
their places until they are decoded (R380). -/
def State.endSession (s : State) (id : BitVec 32) : State :=
  let t := { s with ledger := { s.ledger with sessions := s.ledger.sessions.filter (fun x => x.id != id) } }
  let t := t.put Obj.SESSIONS.OPEN t.ledger.sessions.length
  overAll t (fun u k => if u.streams[k].bySubscribe ∧ u.streams[k].session = id then u.closeStream k else u)

/-- An answer with 0503h leaves at most once per second for each source (R406). -/
def State.once0503 (s : State) (p : Path) (send : State → State) : State :=
  let r := sourceRec s (sourceOf p)
  let due := match r.last0503 with
    | none => true
    | some e => decide (e + ticksPerSecond ≤ s.now)
  if due then send (s.putSource { r with last0503 := some s.now }) else s

/-- 0503h, with TAG zero (R406). -/
def State.refuse0503 (s : State) (p : Path) (op : Nat) (session seq : BitVec 32) : State :=
  s.once0503 p (fun t => t.sendResponse p (responseBytes s p op session seq 0x0503 [] none))

/-! ## The gate (R393 steps 1 to 3) -/

/-- What becomes of a request: it is dealt with, or it goes on to its object checks as its session's. -/
inductive Gate where
  | stop (s : State)
  | go (s : State) (x : Session)

/-- Whether a UDP request's interface is enabled (R407). -/
def udpEnabled (s : State) (p : Path) : Bool :=
  match p with
  | .udp _ _ q => s.bit Obj.LEDGER_UDP.UDP_EN (q.val / 2)
  | _ => true

/-- Whether CAN carries Ledger messages (R411). -/
def canEnabled (s : State) (p : Path) : Bool :=
  match p with
  | .can _ => s.u Obj.CAN.LEDGER_EN == 1 && s.u Obj.CAN.CAN_EN != 0
  | _ => true

/-- Whether the clerks answer the Ledger: from step 9 of R507 on, and in RECOVERY on interface 0 over UDP alone (R516). -/
def ledgerServes (s : State) (p : Path) : Bool :=
  clerksUp s && (if s.u Obj.HEALTH.BOOT_STATE = 4 then
    (match p with
      | .udp _ _ q => q.val / 2 == 0
      | _ => false)
    else s.boot.served)

/-- Whether a message is taken up at all (R349, R406, R411). -/
def taken (s : State) (p : Path) (session : BitVec 32) : Bool :=
  ledgerServes s p && udpEnabled s p && canEnabled s p && (sourcesOf p session).all s.served

/-- A session verifies a request (R393 step 2): known, on its path, authenticated, with its TAG. -/
def Session.verifies (x : Session) (s : State) (op : Nat) (r : Req) (body : List Byte) : Bool :=
  x.path.same r.path && x.authed &&
  (match x.tagKey with
    | some k => requestTag s k op r body == r.tag
    | none => true)

/-- Whether a body has a size that its OP allows (R392, R393). -/
def bodyGood (op n : Nat) : Bool :=
  decide (n ≤ 1440) &&
  (match op with
    | 0x01 => n == 20
    | 0x02 => n == 32
    | 0x03 | 0x04 => n == 0
    | 0x10 | 0x14 => n == 4
    | 0x11 => decide (4 ≤ n)
    | 0x12 => n == 8
    | 0x13 => decide (5 ≤ n) && decide (n ≤ 1404)
    | 0x15 => n == 10
    | _ => false)

/-- A request that finds the clerks' queue full is answered 0601h and no more (R404). -/
def State.queueRefusal (s : State) (p : Path) (op : Nat) (session seq : BitVec 32) : State :=
  let t := (s.serve (sourcesOf p session)).bump Obj.LEDGER_UDP.MSGS
  (t.sendResponse p (responseBytes t p op session seq 0x0601 [] none)).violate 18 p none 0x0601

/-- A request up to its object checks. -/
def gate (s : State) (op : Nat) (r : Req) (body : List Byte) : Gate :=
  if !taken s r.path r.session then .stop s
  else if clerksFull s then .stop (s.queueRefusal r.path op r.session r.seq)
  else
    let t := s.takeUp r.path r.session
    if !bodyGood op body.length then
      .stop ((t.sendResponse r.path (responseBytes t r.path op r.session r.seq 0x0501 [] none)).violate 18 r.path none 0x0501)
    else
      match sessionById t r.session with
      | none => .stop ((t.refuse0503 r.path op r.session r.seq).violate 18 r.path none 0x0503)
      | some x =>
        if !x.verifies t op r body then .stop ((t.refuse0503 r.path op r.session r.seq).violate 18 r.path none 0x0503)
        else
          let t := t.modSession x.id (fun y => { y with last := t.now })
          match x.kept.find? (fun e => e.1 == r.seq) with
          | some e => .stop (t.sendResponse r.path e.2)
          | none =>
            if r.seq.toNat ≤ x.seq then
              .stop ((t.sendResponse r.path (responseBytes t r.path op r.session r.seq 0x0502 [] x.tagKey)).violate 18 r.path
                (some r.session) 0x0502)
            else .go t x

/-- A request is answered (R392, R401): the response is kept among the session's last 16, and a refusal counts (R406). -/
def State.reply (s : State) (x : Session) (op : Nat) (r : Req) (code : Nat) (rest : List Byte) : State :=
  let m := responseBytes s r.path op r.session r.seq code rest x.tagKey
  let t := s.modSession x.id (fun y =>
    { y with seq := max y.seq r.seq.toNat, kept := (y.kept ++ [(r.seq, m)]).drop (y.kept.length - 15) })
  let t := t.sendResponse r.path m
  if code = 0 then t else t.violate 18 r.path (some r.session) code

/-- A request whose effect answers a code and no more. -/
def answered (s : State) (op : Nat) (r : Req) (body : List Byte) (f : State → Session → State × Nat) : State :=
  match gate s op r body with
  | .stop t => t
  | .go t x =>
    let e := f t x
    e.1.reply x op r e.2 []

/-! ## OPEN and AUTH (R398, R399) -/

/-- A slot's key, where the slot is enabled and holds one (R398). -/
def slotKey (s : State) (slot : Nat) : Option (List Byte) :=
  if slot < 16 ∧ s.u (Obj.KEY_SLOT.ENABLE slot) = 1 then (s.ledger.keys.find? (fun e => e.1 == slot)).map (·.2) else none

/-- A proof or a key of R398: HMAC-SHA-256 under the slot's key. -/
def sessionHmac (key : List Byte) (label : Byte) (x : Session) : List Byte :=
  hmac key ([label] ++ x.nonceC ++ x.nonceD ++ le 4 x.id.toNat)

/-- The lowest free session record (R400). -/
def freeIndex (s : State) : Nat :=
  ((List.range 32).find? (fun i => !s.ledger.sessions.any (fun x => x.index == i))).getD 31

/-- A session of a level 0 observer is authenticated at once (R399). -/
def State.openWith (s : State) (r : Req) (slot : BitVec 8) (level : Nat) (nonceC nonceD : List Byte) (id : BitVec 32)
    (key : Option (List Byte)) : State :=
  let x : Session := { id := id, slot := slot, asked := level, nonceC := nonceC, nonceD := nonceD, path := r.path,
                       authed := key.isNone, anon := key.isNone, index := freeIndex s, last := s.now }
  let x := { x with key := (key.map (fun k => sessionHmac k 0x53 x)).getD [] }
  let t := { s with ledger := { s.ledger with sessions := s.ledger.sessions ++ [x] } }
  let t := t.put Obj.SESSIONS.OPEN t.ledger.sessions.length
  t.sendResponse r.path (responseBytes t r.path 1 id r.seq 0 ([slot, 0] ++ padTo 16 nonceD) none)

/-- OPEN (R393, R398 to R400). The device's choice of SESSION and NONCE_D comes with the command; one that is 0 or in use is none it makes. -/
def execOpenSession (r : Req) (slot level : BitVec 8) (nonceC nonceD : List Byte) (id : BitVec 32) (s : State) : Result :=
  .next (if !taken s r.path 0 ∨ id = 0 ∨ (sessionById s id).isSome then s
  else if clerksFull s then s.queueRefusal r.path 1 0 r.seq
  else
    let t := s.takeUp r.path 0
    if r.session ≠ 0 ∨ r.seq ≠ 0 ∨ r.tag ≠ zeroTag then
      (t.sendResponse r.path (responseBytes t r.path 1 r.session r.seq 0x0501 [] none)).violate 18 r.path none 0x0501
    else
      let key := slotKey t slot.toNat
      let anon := slot == 0xFF && t.u Obj.LEDGER_UDP.ANON_OBSERVE == 1
      if key.isNone ∧ !anon then
        ((t.refuse0503 r.path 1 0 0).bump Obj.LEDGER_UDP.AUTH_FAIL).violate 18 r.path none 0x0503
      else if 32 ≤ t.ledger.sessions.length then
        (t.sendResponse r.path (responseBytes t r.path 1 0 0 0x0601 [] none)).violate 18 r.path none 0x0601
      else t.openWith r slot (if anon then 0 else level.toNat) nonceC nonceD id key)

/-- An AUTH that fails frees its session (R398). -/
def State.authFails (s : State) (r : Req) (x : Session) : State :=
  ((s.refuse0503 r.path 2 r.session r.seq).bump Obj.LEDGER_UDP.AUTH_FAIL).violate 18 r.path none 0x0503
    |>.endSession x.id

/-- An AUTH that succeeds. -/
def State.authDone (s : State) (r : Req) (x : Session) (k : List Byte) : State :=
  let slot := x.slot.toNat
  let level := min x.asked (s.u (Obj.KEY_SLOT.LEVEL slot))
  let t := (s.modSession x.id (fun y => { y with authed := true, level := level, last := s.now })).bump (Obj.KEY_SLOT.USES slot)
  t.reply x 2 r 0 (le 1 level ++ le 1 0 ++ le 2 (t.u Obj.LEDGER_UDP.TIMEOUT) ++ le 2 0 ++ sessionHmac k 0x44 x)

/-- AUTH (R393, R398): its TAG is checked first, then PROOF_C; on a session already authenticated it is out of order. -/
def execAuth (r : Req) (proof : List Byte) (s : State) : Result :=
  .next (if !taken s r.path r.session then s
  else if clerksFull s then s.queueRefusal r.path 2 r.session r.seq
  else
    match sessionById s r.session with
    | none =>
      let t := s.takeUp r.path r.session
      (t.refuse0503 r.path 2 r.session r.seq).violate 18 r.path none 0x0503
    | some x =>
      if x.authed then answered s 2 r (padTo 32 proof) (fun t _ => (t, 0x0502))
      else
        let t := s.takeUp r.path r.session
        if !x.path.same r.path then (t.refuse0503 r.path 2 r.session r.seq).violate 18 r.path none 0x0503
        else
          match slotKey t x.slot.toNat with
          | none => t.authFails r x
          | some k =>
            if requestTag t x.key 2 r (padTo 32 proof) ≠ r.tag then t.authFails r x
            else if r.seq = 0 then
              (t.sendResponse r.path (responseBytes t r.path 2 r.session r.seq 0x0502 [] (some x.key))).violate 18 r.path
                (some r.session) 0x0502
            else if sessionHmac k 0x41 x ≠ proof then t.authFails r x
            else t.authDone r x k)

/-! ## CLOSE, KEEPALIVE and what ends a session -/

/-- CLOSE (R400). -/
def execCloseSession (r : Req) (s : State) : Result :=
  .next (match gate s 3 r [] with
  | .stop t => t
  | .go t x => (t.reply x 3 r 0 []).endSession x.id)

/-- KEEPALIVE (R400). -/
def execKeepalive (r : Req) (s : State) : Result := .next (answered s 4 r [] (fun t _ => (t, 0)))

/-- SESSION_EXPIRY (R400): TIMEOUT seconds have passed without a valid message. -/
def execSessionExpiry (id : BitVec 32) (s : State) : Result :=
  .next (match sessionById s id with
  | some x => if x.authed then s.endSession id else s
  | none => s)

/-- AUTH_TIMEOUT (R398): 2 s without AUTH; the session is freed without answer. -/
def execAuthTimeout (id : BitVec 32) (s : State) : Result :=
  .next (match sessionById s id with
  | some x => if x.authed then s else s.endSession id
  | none => s)

/-- SEG_IDLE_TIMEOUT (R395). -/
def execSegIdleTimeout (id : BitVec 32) (s : State) : Result :=
  .next (s.modSession id (fun x => { x with transfer := none }))

/-- SNAPSHOT_EXPIRY (R397, R338). -/
def execSnapshotExpiry (id : BitVec 32) (s : State) : Result := .next (s.modSession id (fun x => { x with snapshot := none }))

/-- MALFORMED_MESSAGE (R393 step 1): a message of 32 bytes or more is answered 0501h, a shorter one is ignored; both count. -/
def execMalformedMessage (p : Path) (bytes : List Byte) (s : State) : Result :=
  .next (if !taken s p 0 then s
  else
    let t := s.takeUp p 0
    if bytes.length < 32 then t.violate 18 p none 0
    else
      let ses := BitVec.ofNat 32 (fromLe (slice bytes 4 4))
      let seq := BitVec.ofNat 32 (fromLe (slice bytes 8 4))
      (t.sendResponse p (responseBytes t p (fromLe (slice bytes 1 1) % 128) ses seq 0x0501 [] none)).violate 18 p none 0x0501)

end Sys2Proof.Machine
end

