-- ==== Sys2Proof/Machine/Streams.lean ====
section
/-! DEFINITION. The stream engine (R353 to R367, R371 to R376): the grant rule, SUBSCRIBE and the other control datagrams, the split of a
bale, admission and sending, and a twin's marks (R445). -/

namespace Sys2Proof.Machine

/-! ## The grant rule (R360) -/

/-- Bytes per second of a rate code of RATE. -/
def rateBytes : Nat → Nat
  | 3 => 3125000000
  | 2 => 1250000000
  | 1 => 125000000
  | _ => 0

/-- The line rate of a port: of its link, else of the fastest rate allowed. -/
def lineRate (s : State) (p : Nat) : Nat :=
  let r := s.u (Obj.ETH_PORT.RATE p)
  rateBytes (if r = 0 then (allowedRates s p).headD 0 else r)

/-- The capacity of the interface an E port stands for: TOLL_CAP % of the slower port of a pair, or of the one port. -/
def tollCap (s : State) (p : Nat) : Rat :=
  let k := p / 2
  let rate := if s.u (Obj.INTERFACE.PRP_MODE k) = 1 then min (lineRate s (2 * k)) (lineRate s (2 * k + 1)) else lineRate s p
  (rate * s.u (Obj.INTERFACE.TOLL_CAP k) : Nat) / 100

/-- Whether an address is IPv4-mapped (R359). -/
def isIpv4 (l : List Byte) : Bool := l.take 12 == List.replicate 10 0 ++ [0xFF, 0xFF]

/-- The overhead of a datagram on the line (R360). -/
def lineOverhead (dest : List Byte) : Nat := if isIpv4 dest then 72 else 92

/-- What one stream takes of the line. -/
def lineShare (toll dgram extra : Nat) : Rat := (toll * (dgram + extra) : Nat) / (max 1 dgram : Nat)

/-- Whether an accepted APPLY of an open stream waits for its next bale close (R363). -/
def pendingStream (s : State) (k : Fin 256) : Bool :=
  s.streams[k].isOpen && s.isApplying (0x6000 + k) && s.us (Obj.STREAM.ENABLE k) == 1

/-- What one open stream takes of an E port's interface: as it stands, or as an APPLY already accepted will leave it, whichever is more. -/
def streamShare (s : State) (p : Nat) (k : Fin 256) : Rat :=
  let now := if sameInterface s (s.u (Obj.STREAM.IFACE k)) p then
    lineShare (s.u (Obj.STREAM.TOLL k)) (s.u (Obj.STREAM.MAX_DGRAM k)) (lineOverhead (s.blob (Obj.STREAM.DEST k))) else 0
  let due := if pendingStream s k && sameInterface s (s.us (Obj.STREAM.IFACE k)) p then
    lineShare (s.us (Obj.STREAM.TOLL k)) (s.us (Obj.STREAM.MAX_DGRAM k)) (lineOverhead (padTo 16 (s.blobStaged (Obj.STREAM.DEST k)))) else 0
  max now due

/-- The load of the other streams of an E port's interface. -/
def loadOf (s : State) (p : Nat) (but : Nat) : Rat :=
  ((List.finRange 256).map (fun (k : Fin 256) => if s.streams[k].isOpen && k.val != but then streamShare s p k else 0)).sum

/-- The largest toll that fits (R360). -/
def largestToll (s : State) (p but dgram extra : Nat) : Nat :=
  ((tollCap s p - loadOf s p but) * dgram / (dgram + extra : Nat)).floor.toNat

/-- What one open stream's queue may hold, as it stands or as an APPLY already accepted will leave it. -/
def streamQueue (s : State) (k : Fin 256) : Nat :=
  max (s.u (Obj.STREAM.TOLL k) * s.u (Obj.STREAM.ADMIT_MS k))
    (if pendingStream s k then s.us (Obj.STREAM.TOLL k) * s.us (Obj.STREAM.ADMIT_MS k) else 0)

/-- The bytes all queues may hold, with one stream at its TOLL and ADMIT_MS (R360). -/
def queueLimit (s : State) (but toll grace : Nat) : Nat :=
  ((List.finRange 256).map (fun (k : Fin 256) => if s.streams[k].isOpen && k.val != but then streamQueue s k else 0)).sum + toll * grace

def queuesFit (s : State) (but toll grace : Nat) : Bool := decide (queueLimit s but toll grace ≤ 268435456 * 1000)

/-- Whether MAX_DGRAM lies between 548 and the interface's limit (R360). -/
def dgramGood (s : State) (p dgram : Nat) (dest : List Byte) : Bool :=
  decide (548 ≤ dgram) && (p == 0xFF || decide (dgram + (if isIpv4 dest then 28 else 48) ≤ s.u (Obj.INTERFACE.MTU (p / 2))))

/-! ## Opening -/

/-- Whether the pair's streams are twinned (R367). -/
def pairStreams (s : State) : Bool := s.u Obj.TWIN.TWIN_EN == 1 && (s.u Obj.TWIN.ROLE == 1 || s.u Obj.TWIN.ROLE == 2)

/-- TWIN of every open stream: DAYBOOK streams are never twinned. -/
def State.twinStreams (s : State) : State :=
  overAll s (fun t k => t.put (Obj.STREAM.TWIN k)
    (if t.streams[k].isOpen && t.u (Obj.STREAM.KIND k) != 3 && pairStreams t then 1 else 0))

/-- A DAYBOOK stream reads the ring from its oldest entry on (R355, R415). -/
def State.readHeld (s : State) (k : Fin 256) : State :=
  if s.u (Obj.STREAM.KIND k) = 3 then s.book.entries.foldl (fun t e => t.takeItem k (bookItem s e)) s else s

/-- A stream whose record holds its configuration opens, its toll bucket full (log entry 102); SEQ and BALE start at 0. -/
def State.openStream (s : State) (k : Fin 256) (part : StreamPart) : State :=
  let t := s.modStream k (fun _ => { part with isOpen := true, bucket := 131072 * 3200000000, filled := s.now })
  let t := (((t.put (Obj.STREAM.SEQ k) 0).put (Obj.STREAM.BACKLOG k) 0).put (Obj.STREAM.SSTATE k) 1).put (Obj.STREAM.ENABLE k) 1
  ((t.tollSums).twinStreams).readHeld k

/-! ## SUBSCRIBE (R359 to R361) -/

/-- The haggle body but for its TAG. -/
def haggleBytes (m : Haggle) (toll : Nat) : List Byte :=
  le 4 m.session.toNat ++ le 4 m.req.toNat ++ le 1 m.kind.toNat ++ le 1 m.port.toNat ++ le 1 m.slot.toNat ++ le 1 m.output.toNat ++
  le 8 m.sel.toNat ++ le 4 m.pFirst.toNat ++ le 4 m.pCount.toNat ++ le 2 m.decimT.toNat ++ le 2 m.baleMs.toNat ++ le 4 toll ++
  le 4 m.tollMin.toNat ++ le 1 m.compress.toNat ++ le 1 m.credit.toNat ++ le 2 m.maxDgram.toNat ++ le 2 m.lease.toNat ++
  le 2 m.destPort.toNat ++ net 16 m.dest.toNat ++ le 4 0

/-- Whether every field of a SUBSCRIBE lies in its range (R359, R360). -/
def haggleGood (m : Haggle) : Bool :=
  decide (m.kind.toNat ≤ 3) && decide (m.port.toNat ≤ 7) && decide (m.slot.toNat ≤ 15) && decide (m.output.toNat ≤ 3) &&
  decide (1 ≤ m.decimT.toNat) && decide (1 ≤ m.baleMs.toNat) && decide (m.baleMs.toNat ≤ 10000) && decide (m.compress.toNat ≤ 2) &&
  decide (m.credit.toNat ≤ 1) && decide (1 ≤ m.lease.toNat) && decide (m.lease.toNat ≤ 3600)

/-- The TAG of a control datagram under a session's key (R359), zero for an anonymous session. -/
def dgramTag (x : Session) (dgram : List Byte) : List Byte :=
  match x.tagKey with
  | some k => tagOf k (dgram ++ zeroTag)
  | none => zeroTag

/-- GRANT or REFUSE: header, body and TAG. -/
def controlReply (s : State) (type stream req : Nat) (body : List Byte) (x : Option Session) : List Byte :=
  let d := streamHeader s type 0 stream req 0 0 0 (body.length + 16) 0 ++ body
  d ++ (match x with
    | some x => dgramTag x d
    | none => zeroTag)

/-- REFUSE (R359): SESSION, REQ, CODE at offset 84 and TOLL_AVAIL at offset 88, with its TAG at offset 68 of the body; it is a violation
(R406). -/
def State.refuseStream (s : State) (p : Path) (m : Haggle) (code avail : Nat) (ses : Option (BitVec 32)) : State :=
  let body := le 4 m.session.toNat ++ le 4 m.req.toNat ++ List.replicate 76 0 ++ le 2 code ++ le 2 0 ++ le 4 avail
  let d := streamHeader s 4 0 0xFF m.req.toNat 0 0 0 body.length 0 ++ body
  let tag := match (ses.bind (sessionById s)).bind Session.tagKey with
    | some k => tagOf k d
    | none => zeroTag
  (if code = 0x0503 then s.once0503 p (fun t => t.sendControl p d) else s.sendControl p (d.take 100 ++ tag ++ d.drop 116)).violate 15 p ses
    code

/-- The free stream record with the lowest number. -/
def freeStream (s : State) : Option (Fin 256) :=
  (List.finRange 256).find? (fun k => !s.streams[k].isOpen && !s.isApplying (0x6000 + k))

/-- The address a stream's DATA goes to: that named, or the request's source. -/
def destOf (p : Path) (m : Haggle) : BitVec 128 :=
  match p with
  | .udp a _ _ => if m.dest = 0 then a else m.dest
  | _ => m.dest

def destPortOf (p : Path) (m : Haggle) : Nat :=
  match p with
  | .udp _ q _ => if m.destPort = 0 then q.toNat else m.destPort.toNat
  | _ => m.destPort.toNat

/-- The record of a granted SUBSCRIBE, whose values the journal is to take (R384). -/
def State.fillStream (s : State) (k : Fin 256) (p : Path) (iface : Nat) (m : Haggle) (toll : Nat) : State :=
  let t := [(Obj.STREAM.KIND k, m.kind.toNat), (Obj.STREAM.PORT k, m.port.toNat), (Obj.STREAM.SLOT k, m.slot.toNat),
    (Obj.STREAM.OUTPUT k, m.output.toNat), (Obj.STREAM.SEL k, m.sel.toNat), (Obj.STREAM.P_FIRST k, m.pFirst.toNat),
    (Obj.STREAM.P_COUNT k, m.pCount.toNat), (Obj.STREAM.DECIM_T k, m.decimT.toNat), (Obj.STREAM.BALE_MS k, m.baleMs.toNat),
    (Obj.STREAM.COMPRESS k, m.compress.toNat), (Obj.STREAM.TOLL k, toll), (Obj.STREAM.CREDIT k, m.credit.toNat),
    (Obj.STREAM.MAX_DGRAM k, m.maxDgram.toNat), (Obj.STREAM.DEST_PORT k, destPortOf p m), (Obj.STREAM.IFACE k, iface),
    (Obj.STREAM.LEASE k, m.lease.toNat), (Obj.STREAM.OWNER k, m.session.toNat)].foldl (fun u e => u.put e.1 e.2) s
  (t.putBlob (Obj.STREAM.DEST k) (net 16 (destOf p m).toNat)).setBit Obj.FLASH.PENDING 1

/-- A stream's record goes to the standby (R367, R441). -/
def State.mirrorStream (s : State) (k : Fin 256) : State :=
  s.mirrorCommit (0x6000 + k)

/-- The session a SUBSCRIBE is good under: known, authenticated, on its path, its TAG right. -/
def subscriber (s : State) (p : Path) (m : Haggle) (dgram : List Byte) : Option Session :=
  match sessionById s m.session with
  | none => none
  | some x =>
    if x.path.same p && x.authed && dgramTag x (dgram.take (dgram.length - 16)) == m.tag then some x else none

/-- The grant of a SUBSCRIBE whose session and fields are good: the toll, or the code and TOLL_AVAIL of its refusal. -/
def grant (s : State) (iface : Nat) (p : Path) (m : Haggle) : Nat ⊕ (Nat × Nat) :=
  let dest := net 16 (destOf p m).toNat
  let most := largestToll s iface 256 m.maxDgram.toNat (lineOverhead dest)
  let toll := min m.toll.toNat most
  if toll < m.toll.toNat ∧ toll < m.tollMin.toNat then .inr (0x0601, most)
  else if (freeStream s).isNone ∨ !queuesFit s 256 toll 20 then .inr (0x0601, most)
  else .inl toll

/-- A SUBSCRIBE is judged in the order of R393: session, level, fields, holds, toll. -/
def judge (s : State) (iface : Nat) (p : Path) (m : Haggle) (x : Session) : Nat ⊕ (Nat × Nat) :=
  let dest := net 16 (destOf p m).toNat
  if x.level < 1 then .inr (0x0201, 0)
  else if !haggleGood m ∨ !dgramGood s iface m.maxDgram.toNat dest then .inr (0x0302, 0)
  else if standby s ∧ m.kind ≠ 3 then .inr (0x0401, 0)
  else grant s iface p m

/-- The stream a repeated SUBSCRIBE has opened already (R361). -/
def grantedBefore (s : State) (m : Haggle) : Option (Fin 256) :=
  (List.finRange 256).find? (fun k =>
    s.streams[k].isOpen && s.streams[k].bySubscribe && s.streams[k].session == m.session && s.streams[k].req == m.req)

/-- A SUBSCRIBE is granted. -/
def State.grantStream (s : State) (k : Fin 256) (iface : Nat) (p : Path) (m : Haggle) (toll : Nat) (x : Session) : State :=
  let g := controlReply s 3 k m.req.toNat (haggleBytes m toll) (some x)
  let t := s.fillStream k p iface m toll
  let t := t.put (Obj.STREAM.ADMIT_MS k) 20
  let t := t.openStream k { bySubscribe := true, session := m.session, req := m.req, peer := p, grant := g, dest := destOf p m,
                            destPort := destPortOf p m }
  (t.sendControl p g).mirrorStream k

/-- SUBSCRIBE (R360): judged under the grant rule and answered with GRANT or REFUSE. -/
def execSubscribe (p : Fin 4) (src : Path) (m : Haggle) (dgram : List Byte) (s : State) : Result :=
  .next (if !s.eth[p].up then s
  else
    let t := s.bump (Obj.ETH_PORT.RX_FRAMES p)
    if !(sourcesOf src m.session).all t.served then t
    else
      let t := t.serve (sourcesOf src m.session)
      match subscriber t src m dgram with
      | none => t.refuseStream src m 0x0503 0 none
      | some x =>
        let t := t.modSession x.id (fun y => { y with last := t.now })
        match grantedBefore t m with
        | some k => t.sendControl src t.streams[k].grant
        | none => match judge t p src m x, freeStream t with
          | .inl toll, some k => t.grantStream k p src m toll x
          | .inr e, _ => t.refuseStream src m e.1 e.2 (some x.id)
          | .inl _, none => t.refuseStream src m 0x0601 0 (some x.id))

/-! ## The other control datagrams (R353, R361, R364) -/

/-- The session under which a control datagram from a path may act on an open stream (R361): of one opened by SUBSCRIBE its session, on its
path and with the right TAG behind the datagram; a stream opened through the Ledger has none, and takes datagrams of its destination alone
(log entry 123). -/
def controller (s : State) (k : Fin 256) (src : Path) (dgram : List Byte) : Option (Option Session) :=
  let x := s.streams[k]
  if !x.isOpen then none
  else if x.bySubscribe then
    match sessionById s x.session with
    | some y =>
      if y.path.same src && y.authed && dgramTag y (dgram.take (dgram.length - 16)) == dgram.drop (dgram.length - 16) then some (some y) else none
    | none => none
  else match src with
    | .udp a _ _ => if net 16 a.toNat == padTo 16 (s.blob (Obj.STREAM.DEST k)) then some none else none
    | _ => none

/-- The session a control datagram of a stream names. -/
def controlSession (s : State) (k : Fin 256) : BitVec 32 := if s.streams[k].bySubscribe then s.streams[k].session else 0

/-- A control datagram for a stream (R361, R406): one of a source under its limit waits, one that may not act on the stream is ignored, a
violation of its sender, and another has its effect and keeps its session open. -/
def State.control (s : State) (k : Fin 256) (src : Path) (dgram : List Byte) (good : Bool) (act : State → State) : State :=
  let l := sourcesOf src (controlSession s k)
  if !l.all s.served then s
  else
    let t := s.serve l
    match controller t k src dgram with
    | some y =>
      if good then act (match y with
        | some z => t.modSession z.id (fun w => { w with last := t.now })
        | none => t)
      else t.violate 15 src none 0
    | none => t.violate 15 src none 0

/-- STREAM_KEEPALIVE: it renews the lease, whose time is the environment's (LEASE_EXPIRY). -/
def execStreamKeepalive (src : Path) (k : Fin 256) (req : BitVec 32) (dgram : List Byte) (s : State) : Result :=
  .next (s.control k src dgram (s.streams[k].bySubscribe && s.streams[k].req == req) id)

/-- CREDIT: its count joins the stream's credit, held to 65,535. -/
def execCredit (src : Path) (k : Fin 256) (count : BitVec 16) (dgram : List Byte) (s : State) : Result :=
  .next (s.control k src dgram true (fun t => t.modStream k (fun x => { x with credit := min 65535 (x.credit + count.toNat) })))

/-- A close that the twin follows (R441). -/
def State.endStream (s : State) (k : Fin 256) : State :=
  if s.streams[k].isOpen then (s.closeStream k).mirrorStream k else s

/-- STREAM_CLOSE (R361). -/
def execStreamClose (src : Path) (k : Fin 256) (dgram : List Byte) (s : State) : Result :=
  .next (s.control k src dgram s.streams[k].bySubscribe (fun t => t.endStream k))

/-- LEASE_EXPIRY (R361). -/
def execLeaseExpiry (k : Fin 256) (s : State) : Result :=
  .next (if s.streams[k].isOpen && s.u (Obj.STREAM.LEASE k) != 0 then s.endStream k else s)

/-- STREAM_VIOLATION (R353): another VERSION, an unknown TYPE or a wrong LEN. -/
def execStreamViolation (src : Path) (_bytes : List Byte) (s : State) : Result :=
  .next (if s.served (sourceOf src) then (s.serve [sourceOf src]).violate 15 src none 0 else s)

/-! ## Bales: close, split, admission (R357, R358, R362, R374 to R376, R381) -/

/-- Whether the epoch has passed FIRST_EPOCH + BALE_MS + 50 ms of a stream's open bale (R357). -/
def baleDue (s : State) (k : Fin 256) : Bool :=
  s.streams[k].bale.any (fun b => decide (b.first + (s.u (Obj.STREAM.BALE_MS k) + 50) * 3200000 < s.now))

/-- BALE_TIMEOUT (R357): no further item by FIRST_EPOCH + BALE_MS + 50 ms. -/
def execBaleTimeout (k : Fin 256) (s : State) : Result := .next (if baleDue s k then (s.closeBale k).readBook else s)

/-- The fragments of a bale (R358): all but the last full. -/
def fragments (s : State) (k : Fin 256) (bale : List Byte) (first seq no : Nat) : List Fragment :=
  let n := s.u (Obj.STREAM.MAX_DGRAM k) - 32
  let m := ceilDiv bale.length (max 1 n)
  (List.range m).map (fun i =>
    let d := slice bale (i * n) n
    let fl := bit8 (s.u (Obj.STREAM.TWIN k) == 1) 0 + bit8 (i == 0) 1 + bit8 (i + 1 == m) 2
    ⟨streamHeader s 1 fl k (seq + i) no i m d.length first ++ d, i == 0, BitVec.ofNat 32 (seq + i), bale.length + 32 * m⟩)

def fragBytes (l : List Fragment) : Nat := (l.map (fun f => f.bytes.length)).sum

/-- SSTATE (R361, R362, R364) while a queue waits: for credit, for a link, or for neither. -/
def ifaceUp (s : State) (k : Fin 256) : Bool :=
  let i := s.u (Obj.STREAM.IFACE k)
  if i = 0xFF then holds s (BitVec.ofNat 11 (s.u Obj.AGGON.GATEWAY)) else !(sendingPorts s i).isEmpty

def creditHeld (s : State) (k : Fin 256) : Bool :=
  s.u (Obj.STREAM.CREDIT k) == 1 && s.streams[k].credit == 0 && (s.streams[k].queue.head?.any (·.firstFrag))

def State.streamState (s : State) (k : Fin 256) : State :=
  s.put (Obj.STREAM.SSTATE k) (if !s.streams[k].isOpen then 0 else if s.streams[k].queue.isEmpty then 1
    else if !ifaceUp s k then 3 else if creditHeld s k then 2 else 1)

/-- A bale under its numbers is admitted whole, or dropped whole (R362). -/
def State.letIn (s : State) (k : Fin 256) (fs : List Fragment) : State :=
  let n := fragBytes fs
  let t := s.modStream k (fun x => { x with built := x.built + n })
  if s.u (Obj.STREAM.BACKLOG k) * 1000 < s.u (Obj.STREAM.TOLL k) * s.u (Obj.STREAM.ADMIT_MS k) then
    ((t.modStream k (fun x => { x with queue := x.queue ++ fs })).add (Obj.STREAM.BACKLOG k) n).streamState k
  else (t.modStream k (fun x => { x with droppedFlag := true })).bump (Obj.STREAM.DROPPED k)

/-- The next SEQ and BALE follow a bale of some fragments (R358). -/
def State.numbered (s : State) (k : Fin 256) (seq no frags : Nat) : State :=
  (s.put (Obj.STREAM.SEQ k) (seq + frags)).modStream k (fun x => { x with baleNo := BitVec.ofNat 32 (no + 1) })

/-- The mark of a bale (R445). -/
def markOf (k : Fin 256) (bale : List Byte) (no seq frags : Nat) : BaleMarkMsg :=
  ⟨k, BitVec.ofNat 32 no, BitVec.ofNat 32 seq, BitVec.ofNat 16 frags, BitVec.ofNat 32 (fromLe (slice bale 8 4)),
    BitVec.ofNat 32 (fromLe (slice bale 12 4))⟩

/-- A compressed bale is split, numbered and admitted; a twinned one is marked for the standby (R358, R362, R445). -/
def State.splitBale (s : State) (k : Fin 256) (bale : List Byte) (first : Nat) : State :=
  let seq := s.u (Obj.STREAM.SEQ k)
  let no := s.streams[k].baleNo.toNat
  let fs := fragments s k bale first seq no
  let t := (s.numbered k seq no fs.length).letIn k fs
  if active s ∧ s.u (Obj.STREAM.TWIN k) = 1 then t.sendMirror (.mark (markOf k bale no seq fs.length)) else t

/-- A standby's bale meets the active's mark (R445): equal values send it, others withhold it; the numbering follows the mark. -/
def State.meetMark (s : State) (k : Fin 256) (bale : List Byte) (first : Nat) (m : BaleMarkMsg) : State :=
  let seq := s.u (Obj.STREAM.SEQ k)
  let no := s.streams[k].baleNo.toNat
  let fs := fragments s k bale first seq no
  let t := if markOf k bale no seq fs.length = m then s.letIn k fs else s.bump Obj.TWIN.WITHHELD
  t.numbered k m.firstSeq.toNat m.bale.toNat m.frags.toNat

/-- The bales a standby holds meet the marks received, in order. -/
def meetMarks : Nat → State → Fin 256 → State
  | 0, s, _ => s
  | f + 1, s, k =>
    match s.streams[k].held, s.streams[k].marks with
    | b :: bs, m :: ms => meetMarks f ((s.modStream k (fun x => { x with held := bs, marks := ms })).meetMark k b.1 b.2 m) k
    | _, _ => s

/-- A bale that leaves the compressor goes to the split; a standby's twinned bale waits for its mark. -/
def State.baleOut (s : State) (k : Fin 256) (bale : List Byte) (first : Nat) : State :=
  if standby s ∧ s.u (Obj.STREAM.TWIN k) = 1 then
    meetMarks 1 (s.modStream k (fun x => { x with held := x.held ++ [(bale, first)] })) k
  else s.splitBale k bale first

/-- BALE_MARK on a standby (R445). -/
def execBaleMark (a : Arrival) (m : BaleMarkMsg) (s : State) : Result :=
  .next (s.receive a 2 (ifClean a (fun t =>
    if standby s ∧ s.streams[m.stream].isOpen then
      meetMarks 1 (t.modStream m.stream (fun x => { x with marks := x.marks ++ [m] })) m.stream
    else t)))

/-- After a unit fault the bales closed beyond the last mark are sent, numbered on from it (R445). -/
def State.flushHeld (s : State) : State :=
  overAll s (fun t k => s.streams[k].held.foldl (fun u b => u.splitBale k b.1 b.2)
    (t.modStream k (fun x => { x with held := [], marks := [] })))

/-- What the compression counters make of a bale (R374, R381). -/
def State.countBale (s : State) (c : ClosedBale) (bytes : List Byte) (fallback : Bool) : State :=
  let t := if c.form = 0 then s
    else ((s.bump Obj.COMPRESSION.BALES_IN).add Obj.COMPRESSION.ORIG_BYTES c.original.length).add Obj.COMPRESSION.COMP_BYTES bytes.length
  let t := if fallback then t.bump Obj.COMPRESSION.FALLBACKS else t
  let us := (freeRound ((s.now : Int) - c.closedAt) 3200).toNat
  t.put Obj.COMPRESSION.COMP_LAT_MAX (max (s.u Obj.COMPRESSION.COMP_LAT_MAX) us)

/-- BALE_COMPRESSED (R373 to R376, R381): the bale closed first leaves the compressor. -/
def execBaleCompressed (s : State) : Result :=
  .next (match s.bale.waiting with
  | [] => s
  | c :: rest =>
    let b := compress c.form c.level c.original
    let t := { s with bale := { s.bale with waiting := rest } }
    (t.countBale c b.1 b.2).baleOut c.stream b.1 c.first)

/-! ## Sending (R362, R364) -/

/-- DROPPED in the DFLAGS of a DATA datagram. -/
def withDropped (b : List Byte) : List Byte := b.take 2 ++ [b.getD 2 0 ||| 8] ++ b.drop 3

/-- A stream's datagram leaves: on its interface, or extra VC3 toward the gateway (R439). -/
def State.sendData (s : State) (k : Fin 256) (bytes : List Byte) : State :=
  let i := s.u (Obj.STREAM.IFACE k)
  if i = 0xFF then s.sendMessage 3 6 (BitVec.ofNat 11 (s.u Obj.AGGON.GATEWAY)) bytes
  else s.sendOn i (fun r =>
    .stream (ifaceOf s i) (BitVec.ofNat 128 (fromLe (s.blob (Obj.STREAM.DEST k)).reverse)) (s.u (Obj.STREAM.DEST_PORT k)) bytes r)

/-- DATAGRAM_SEND (R362): the queue's head leaves where link, credit and the toll bucket let it. -/
def execDatagramSend (k : Fin 256) (s : State) : Result :=
  .next (match s.streams[k].queue with
  | [] => s
  | f :: rest =>
    let has := bucketNow s k f
    let need := f.bytes.length * bucketByte
    let s := s.modStream k (fun y => { y with bucket := has, filled := s.now })
    if !ifaceUp s k || creditHeld s k || decide (has < need) then s.streamState k
    else
      let x := s.streams[k]
      let s := s.modStream k (fun y => { y with bucket := has - need })
      let b := if x.droppedFlag then withDropped f.bytes else f.bytes
      let spend := f.firstFrag && s.u (Obj.STREAM.CREDIT k) == 1
      let t := s.modStream k (fun y => { y with queue := rest, droppedFlag := false, credit := if spend then y.credit - 1 else y.credit })
      let t := t.put (Obj.STREAM.BACKLOG k) (s.u (Obj.STREAM.BACKLOG k) - f.bytes.length)
      (t.sendData k b).streamState k)

/-! ## APPLY of a stream's group (R360, R363, R387) -/

/-- Whether an APPLY takes no more of its interface's line than the open stream has, a cut that R363 lets pass. -/
def isCut (s : State) (k : Fin 256) (iface toll dgram extra : Nat) : Bool :=
  s.streams[k].isOpen && sameInterface s iface (s.u (Obj.STREAM.IFACE k)) &&
  decide (lineShare toll dgram extra ≤
    lineShare (s.u (Obj.STREAM.TOLL k)) (s.u (Obj.STREAM.MAX_DGRAM k)) (lineOverhead (s.blob (Obj.STREAM.DEST k))))

/-- The refusal of an APPLY of 6000h + s; 0 where its staged copy passes. -/
def streamApplyCode (s : State) (k : Fin 256) : Nat :=
  let iface := s.us (Obj.STREAM.IFACE k)
  let dgram := s.us (Obj.STREAM.MAX_DGRAM k)
  let dest := padTo 16 (s.blobStaged (Obj.STREAM.DEST k))
  let toll := s.us (Obj.STREAM.TOLL k)
  if s.us (Obj.STREAM.ENABLE k) = 0 then 0
  else if !dgramGood s iface dgram dest then 0x0302
  else if iface ≠ 0xFF ∧ largestToll s iface k dgram (lineOverhead dest) < toll ∧ !isCut s k iface toll dgram (lineOverhead dest) then 0x0601
  else if !queuesFit s k toll (s.us (Obj.STREAM.ADMIT_MS k)) then 0x0601
  else 0

/-- The commit of a stream's group: an open stream's waits for its next bale close (R363), but for an ENABLE 0 with no bale open, which has
nothing to wait for. -/
def State.streamApplied (s : State) (k : Fin 256) : State :=
  if s.streams[k].isOpen then
    (if s.streams[k].bale.isSome || s.us (Obj.STREAM.ENABLE k) == 1 then s
    else (s.streamBoundary k).readBook)
  else
    let t := s.commit (0x6000 + k)
    if t.u (Obj.STREAM.ENABLE k) = 1 then
      ((t.put (Obj.STREAM.LEASE k) 0).put (Obj.STREAM.OWNER k) 0).openStream k {}
    else t

end Sys2Proof.Machine
end

