-- ==== Sys2Proof/Machine/Twin.lean ====
section
/-! DEFINITION. Twins (R440 to R455): roles, criers, the CLAIM wire, takeover, and the mirrored deliveries of a standby. -/

namespace Sys2Proof.Machine

/-! ## Claim and role (R447, R450, R451) -/

/-- CRC-8, polynomial 07h, initial value 00h, over bits MSB first. -/
def crc8 (v : BitVec 24) : BitVec 8 :=
  (List.range 24).foldl (fun (c : BitVec 8) i =>
    let top := c.getLsbD 7 ^^ v.getLsbD (23 - i)
    if top then (c <<< 1) ^^^ 0x07#8 else c <<< 1) 0#8

/-- A CLAIM frame: the sync byte, the claim and its CRC (R450). -/
def claimFrame (claim : BitVec 24) : BitVec 40 := 0xB4#8 ++ claim ++ crc8 claim

/-- The 40 bits of a CLAIM frame in ticks, at 100 Mbit/s, and where the frame in progress began (R450; log entry 126). -/
def claimTicks : Nat := 1280
def claimStart (s : State) : Nat := s.now / claimTicks * claimTicks

/-- The claim that the frame in progress carries: a change shows from the next frame on (R450). -/
def claimOnWire (s : State) : BitVec 24 :=
  if (claimStart s : Int) ≤ s.twin.wireSince then s.twin.wireOld else BitVec.ofNat 24 (s.u Obj.TWIN.CLAIM)

/-- The own claim becomes another value, sent from the next frame on. -/
def State.putClaim (s : State) (v : Nat) : State :=
  if s.u Obj.TWIN.CLAIM = v then s
  else
    let t := { s with twin := { s.twin with wireOld := claimOnWire s, wireSince := s.now } }
    (t.put Obj.TWIN.CLAIM v).emit (.claim (claimFrame (BitVec.ofNat 24 v)))

/-- The own claim: priority in [23:11], device ID in [10:0]. -/
def State.setClaim (s : State) (prio : Nat) : State := s.putClaim (min 8191 prio * 2048 + (ownId s).toNat)

def ownPriority (s : State) : Nat := s.u Obj.TWIN.CLAIM / 2048
def peerPriority (s : State) : Nat := s.u Obj.TWIN.PEER_CLAIM / 2048

/-- IN_STEP (R444). -/
def State.outOfStep (s : State) : State := s.putBit Obj.TWIN.FLAGS Bit.TWIN.FLAGS.IN_STEP false

/-- A role is taken; plant outputs and the TWIN mark of streams follow it (R446, R367). -/
def State.takeRole (s : State) (role prio : Nat) : State :=
  (((s.put Obj.TWIN.ROLE role).setClaim prio).plantTurn).twinStreams

/-- STANDBY at PRIORITY: the twin joins, out of step (R444, R447). -/
def State.toStandby (s : State) : State :=
  let t := { s with twin := { s.twin with runs := Vector.replicate 8 0, arriving := [], tags := [], met := [], yieldReq := false } }
  (t.takeRole 1 (s.u Obj.TWIN.PRIORITY)).outOfStep

/-- ACTIVE. -/
def State.toActive (s : State) (prio : Nat) : State := s.takeRole 2 prio

/-! ## Mirrored deliveries (R443, R444) -/

/-- The last point that a delivery of an entry has when it is whole (R103, R153), from the standby's own copy of the configuration; on a device
that maps its own points in reverse, where its first one lies (R442; log entry 69). -/
def wholeLast (s : State) (n : Port) (kind e : Nat) : Int :=
  let ws := s.u (Obj.SHOT_ENTRY.WIN_START n e)
  let wl := s.u (Obj.SHOT_ENTRY.WIN_LEN n e)
  if s.bit Obj.TWIN.MAP_REVERSE n then
    (s.u (Obj.TWIN.MAP_PTS n) : Int) - 1 - gridFirst ws (s.i (Obj.PIPELINE.ZERO_DELAY n)) (s.u (Obj.PIPELINE.DECIM n))
  else if kind = 1 then
    gridLast ws wl (s.i (Obj.PIPELINE.ZERO_DELAY n)) (s.u (Obj.TONE_SET.DURATION n (s.u (Obj.SHOT_ENTRY.TONE_SET n e)))) (s.u (Obj.PIPELINE.DECIM n))
  else (((ws / 8 + wl / 8 : Nat) : Int) - s.u (Obj.RAMAN.RZERO n)) / (ramanBin s n : Int) - 1

/-- Whether a trailer carries OVERRUN (R147, R167). -/
def trailerOverrun (kind flags : Nat) : Bool := if kind = 1 then flags.testBit 4 else kind == 2 && flags.testBit 0

/-- The last point of a delivery's slot: that of the last word received, but where points were cut the last one the delivery would have had, so
that the points cut read as quality 0 here as in the active's ring (R184, R192). -/
def slotLast (s : State) (n : Port) (kind first words : Nat) (h tr : List Byte) : Nat :=
  if trailerOverrun kind (imageField tr 14 1) then
    max (first + words - 1) (wholeLast s n kind (imageField h 1 1)).toNat
  else first + words - 1

/-- A delivery as the mirror carries it. -/
def deliveryOf (s : State) (n : Port) (deliv : BitVec 32) (l : List Byte) (poisoned : List Nat) : Delivery :=
  let h := l.take 32
  let tr := l.drop (l.length - 16)
  let words := wordsOf (slice l 32 (l.length - 48))
  let kind := imageField h 18 2 / 2 ^ 14
  let first := if kind = 3 then 0 else imageField tr 4 4
  { deliv := deliv, kind := kind, set := if kind = 3 then 0 else imageField tr 15 1 % 16, header := h,
    body := words.map (BitVec.ofNat 32), trailer := tr, first := first,
    validEnd := if kind = 3 then 0 else imageField tr 8 4, last := slotLast s n kind first words.length h tr, epoch := imageField h 8 8,
    outMode := s.u (Obj.PIPELINE.OUT_MODE n), closed := true, shotSeq := BitVec.ofNat 32 (imageField h 4 4), poisoned := poisoned }

/-- A delivery that did not come whole is resolved as skipped for every pitch it would have gone to (R197, R444): one whose header came has its
reorder records, of any other nothing is known but its port. -/
def State.skipLost (s : State) (n : Port) (d : Option Delivery) : State :=
  match d with
  | some x =>
    ((List.finRange 192).foldl (fun (t : State) (k : Fin 192) =>
      if takes s n x k then (if s.pitches[k].halted then t.resolve (pitchSlot s k) n x.deliv k .haltedNow else t.skipFor n x k) else t)
      (s.openRecords n x)).releasePort n
  | none =>
    (List.finRange 192).foldl (fun (t : State) (k : Fin 192) =>
      if s.pitches[k].host.isSome && s.u (Obj.PITCH.PORT k) == n.val then t.bump (Obj.PITCH.SKIPPED k) else t) s

/-- MIRROR_LOST (R444). -/
def State.mirrorLost (s : State) (n : Port) (d : Option Delivery) : State :=
  let t := (s.bump Obj.TWIN.MIRROR_LOST).outOfStep
  ({ t with twin := { t.twin with runs := t.twin.runs.set n 0 } }).skipLost n d

/-- What is known of a delivery in arrival: its header, and by its entry the set it belongs to. -/
def MirrorPart.known (s : State) (m : MirrorPart) : Option Delivery :=
  (m.pieces.find? (fun p => p.1 == 0)).map (fun p =>
    let d := deliveryOf s m.port m.deliv (p.2.take 32 ++ List.replicate 16 0) []
    let e := imageField d.header 1 1
    { d with set := if d.kind = 1 then s.u (Obj.SHOT_ENTRY.TONE_SET m.port e) else if d.kind = 2 then s.u (Obj.SHOT_ENTRY.AUX m.port e) % 16 else 0 })

/-- Deliveries in arrival that meet a test are lost. -/
def State.loseParts (s : State) (p : MirrorPart → Bool) : State :=
  let t := { s with twin := { s.twin with arriving := s.twin.arriving.filter (fun m => !p m) } }
  (s.twin.arriving.filter p).foldl (fun (u : State) m => u.mirrorLost m.port (m.known u)) t

/-- IN_STEP is set after RESYNC intact deliveries in a row of every twinned port (R444). -/
def State.stepCheck (s : State) : State :=
  let r := s.u Obj.TWIN.RESYNC
  let ok := (List.finRange 8).all (fun (n : Port) => !s.twinned n || decide (r ≤ s.twin.runs[n]))
  if ok then s.putBit Obj.TWIN.FLAGS Bit.TWIN.FLAGS.IN_STEP true else s

/-- The pieces of a delivery joined, where they are all there. -/
def MirrorPart.whole (m : MirrorPart) : Option (List Byte) :=
  match m.total with
  | none => none
  | some w =>
    let l := (List.range (ceilDiv w 15)).map (fun i => (m.pieces.find? (fun p => p.1 == 15 * i)).map (·.2))
    if l.all (·.isSome) then some (l.flatMap (fun o => o.getD [])) else none

/-- Whether a pitch's or region's commit of the active waits on a standby for a later delivery than one of a port (R441). -/
def waitsBeyond (s : State) (n : Port) (d : BitVec 32) (e : Nat × BitVec 32) : Bool :=
  decide (0x5000 ≤ e.1) && decide (e.1 < 0x6000) && watchedPort s.us e.1 == n.val && !decide ((d - e.2).toNat < 2 ^ 31)

/-- Something done on a standby with the commits out of reach that are to wait for a later delivery of the port. -/
def State.boundedBy (s : State) (n : Port) (d : BitVec 32) (f : State → State) : State :=
  let later := fun (a : Applying) => s.twin.tags.any (fun e => e.1 == a.index && waitsBeyond s n d e)
  let left := s.ledger.applying.filter later
  let t := f { s with ledger := { s.ledger with applying := s.ledger.applying.filter (fun a => !later a) } }
  { t with ledger := { t.ledger with applying := t.ledger.applying ++ left },
           twin := { t.twin with tags := t.twin.tags.filter (fun e => decide (e.1 < 0x5000) || decide (0x6000 ≤ e.1) ||
             t.isApplying e.1 || left.any (fun a => a.index == e.1)) } }

/-- The pitches, regions and streams of a standby run on a mirrored delivery as the active's on its own (R184, R444); groups commit at the
delivery they are tagged with (R441). -/
def State.runMirrored (s : State) (n : Port) (d : Delivery) : State :=
  let stamp := imageField d.header 8 8 * 256 + imageField d.header 16 1
  let t := if d.kind = 3 then s else (s.openSample n d.kind d.set d.shotSeq stamp).fillSamples n d
  t.boundedBy n d.deliv (fun u => (u.regionsAt n).completeDelivery n d)

/-- The commits of a port's mirrored groups whose boundary a header has reached (R441). -/
def State.boundariesDue (s : State) (n : Port) (seq : BitVec 32) : State :=
  let due := fun (e : Nat × BitVec 32) => portOfGroup e.1 == n.val && decide ((seq - e.2).toNat < 2 ^ 31)
  if !s.twin.tags.any due then s
  else
    let idxs := (s.twin.tags.filter due).map (·.1)
    let other := s.ledger.applying.filter (fun a => !idxs.contains a.index)
    let t := { s with twin := { s.twin with tags := s.twin.tags.filter (fun e => !due e) },
                      ledger := { s.ledger with applying := s.ledger.applying.filter (fun a => idxs.contains a.index) } }
    let t := ((List.range 16).foldl (fun (u : State) k => u.commitIf (0x3010 + 0x100 * n.val + k)) t).commitPort n
    { t with ledger := { t.ledger with applying := t.ledger.applying ++ other } }

/-- The first frame of a mirrored delivery (R447, R452): numbers and table position follow its header, the repeats of an entry counted on;
deliveries left out since the port's mirror began are lost (R444). -/
def State.mirrorHeader (s : State) (n : Port) (deliv : BitVec 32) (h : List Byte) : State :=
  let seq := BitVec.ofNat 32 (imageField h 4 4)
  let lost := (deliv - s.pipes[n].nextDeliv).toNat
  let t := if s.twin.met.contains n ∧ lost < 2 ^ 31 then (List.range (min lost 4096)).foldl (fun (u : State) _ => u.mirrorLost n none) s else s
  let t := { t with twin := { t.twin with met := n :: t.twin.met.filter (· != n) } }
  let t := t.boundariesDue n seq
  let t := (t.put (Obj.SCHEDULER.SEQ n) seq.toNat).modPipe n (fun p => { p with nextDeliv := deliv + 1 })
  (t.modPort n (fun p => { p with pos := imageField h 1 1, left := if p.pos = imageField h 1 1 then p.left else none })).advanceTable n

/-- A mirrored delivery is complete (R444). -/
def State.mirrorDone (s : State) (m : MirrorPart) (l : List Byte) : State :=
  let older := fun (x : MirrorPart) => x.port == m.port && x.deliv != m.deliv && decide ((m.deliv - x.deliv).toNat < 2 ^ 31)
  let t := { s with twin := { s.twin with arriving := s.twin.arriving.filter (fun x => !(x.port == m.port && x.deliv == m.deliv)) } }
  let t := t.loseParts older
  let t := t.runMirrored m.port (deliveryOf t m.port m.deliv l m.poisoned)
  ({ t with twin := { t.twin with runs := t.twin.runs.set m.port (min 1000000 (t.twin.runs[m.port] + 1)) } }).stepCheck

/-- A piece joins its delivery. -/
def MirrorPart.join (m : MirrorPart) (k : Fin 4) (index : Nat) (isLast : Bool) (payload : List Byte) (poisoned : List Nat) : MirrorPart :=
  { m with pieces := (index, payload) :: m.pieces.filter (fun p => p.1 != index), poisoned := m.poisoned ++ poisoned,
           links := if m.links.contains k then m.links else k :: m.links,
           total := if isLast then some (index + ceilDiv payload.length 16) else m.total }

/-- Words of a delivery, the first at an index, reach the standby (R443); those that came poisoned enter the slot poisoned. -/
def State.mirrorPiece (s : State) (a : Arrival) (n : Port) (deliv : BitVec 32) (index : Nat) (isLast : Bool) (payload : List Byte) : State :=
  if !(standby s && s.twinned n) then s
  else
    let t := if index = 0 then s.mirrorHeader n deliv (payload.take 32) else s
    let same := fun (x : MirrorPart) => x.port == n && x.deliv == deliv
    let m := (t.twin.arriving.find? same).getD { port := n, deliv := deliv }
    let m := m.join a.link index isLast payload ((a.poisoned.filter (fun w => w != 0)).map (fun w => index + w - 1))
    let t := { t with twin := { t.twin with arriving := m :: t.twin.arriving.filter (fun x => !same x) } }
    match m.whole with
    | some l => t.mirrorDone m l
    | none => t

/-- MIRROR_FRAME (R443): a word with PORT, DELIV and the index, and up to 15 words of a delivery; where the first word comes poisoned, the words
belong to no delivery. -/
def execMirrorFrame (a : Arrival) (n : Port) (deliv : BitVec 32) (index : Nat) (isLast : Bool) (payload : List Byte) (s : State) : Result :=
  .next (s.receive a 2 (fun t => if a.poisoned.contains 0 then t else t.mirrorPiece a n deliv index isLast payload))

/-- The deliveries that a link which leaves service carried are lost (R444). -/
def State.linkMirrorLost (s : State) (k : Fin 4) : State := if standby s then s.loseParts (fun m => m.links.contains k) else s

/-! ## Takeover (R449, R452) -/

/-- A unit fault: the standby becomes ACTIVE above the peer's claim, with an entry of class FAULT; incomplete mirrored deliveries are lost,
the first shot of each twinned port carries GAP and its branch state relearns, and the bales it holds are sent. -/
def State.unitFault (s : State) : State :=
  let prio := min 8191 (max 4096 (peerPriority s + 1))
  let t := (s.toActive prio).bump Obj.TWIN.TAKEOVERS
  let t := t.put Obj.TWIN.LAST_TAKEOVER (epochVal (s.now * 256))
  let t := t.log { cls := 5, sub := 17, index := 0x6300, osub := 0x11, detail := t.u Obj.TWIN.TAKEOVERS }
  let t := t.loseParts (fun _ => true)
  let t := overAll t (fun u (n : Port) =>
    if u.twinned n then (u.modPort n (fun p => { p with gap := true })).relearnAll n else u)
  t.flushHeld

/-- A standby that has heard no crier on either path for FAILOVER_US and holds no fresh claim declares a unit fault (R449). -/
def State.faultCheck (s : State) : State :=
  if standby s && s.twin.lateAggon && s.twin.lateEth && !s.twin.fresh then s.unitFault else s

/-- A STARTING twin that has heard no crier on either path for FAILOVER_US and holds no fresh claim of 4,096 or more becomes ACTIVE (R447). -/
def State.startCheck (s : State) : State :=
  if s.u Obj.TWIN.TWIN_EN = 1 ∧ s.u Obj.TWIN.ROLE = 0 ∧ s.twin.lateAggon ∧ s.twin.lateEth ∧
      !(s.twin.fresh && decide (4096 ≤ peerPriority s)) then s.toActive 4096 else s

/-! ## Criers (R447 to R449, R453, R454) -/

/-- What an active sends a standby that joins (R441): every mirrored group and program image. -/
def joinGroups : List Nat :=
  (List.range 8).flatMap (fun n =>
    let b := 0x100 * n
    (List.range 16).map (fun k => 0x3010 + b + k) ++ [0x3020 + b] ++ (List.range 64).map (fun k => 0x3040 + b + k) ++
    [0x3800 + b, 0x3801 + b, 0x3802 + b, 0x4000 + b] ++ (List.range 8).map (fun k => 0x4010 + b + k) ++ [0x4800 + b] ++
    (List.range 8).map (fun k => 0x4810 + b + k)) ++
  (List.range 16).map (0x5110 + ·) ++ (List.range 192).map (0x5140 + ·) ++ (List.range 64).map (0x5200 + ·) ++ [0x5280] ++
  (List.range 64).map (0x5300 + ·) ++ (List.range 256).map (0x6000 + ·) ++ [0x6100]

/-- A program slot's image as the mirror carries it. -/
def imageRecord (s : State) (g : Fin 16) : MirrorCommit :=
  ⟨BitVec.ofNat 16 (0x5110 + g.val), [], [(Obj.PROGRAM_SLOT.IMAGE g, s.programs[g].image)], 0⟩

def State.sendJoin (s : State) : State :=
  let t := joinGroups.foldl (fun (u : State) idx => if mirrored s idx then u.sendCommit (recordOf s idx) else u) s
  overAll t (fun u (g : Fin 16) => if s.programs[g].image.isEmpty then u else u.sendCommit (imageRecord s g))

/-- What a counted crier does to a STARTING twin: an ACTIVE peer makes it STANDBY; of two STARTING twins the higher PRIORITY, then the
higher ID, becomes ACTIVE. The peer's PRIORITY is no field of the crier. -/
def State.crierStarting (s : State) (m : CrierMsg) : State :=
  if m.role = 2 then s.toStandby
  else if m.role = 0 then
    let own := s.u Obj.TWIN.PRIORITY
    let peer := Config.measured s.fresh
    let t := s.drawn
    if peer < own ∨ (peer = own ∧ s.u Obj.TWIN.PEER_ID < (ownId s).toNat) then t.toActive 4096 else t.toStandby
  else s

/-- What a counted crier does to the role (R447, R449, R453, R454). -/
def State.crierRole (s : State) (m : CrierMsg) (before : Option Nat) : State :=
  match s.u Obj.TWIN.ROLE with
  | 0 => s.crierStarting m
  | 1 => if m.role = 3 then s.unitFault else s
  | 2 =>
    let t := if m.role = 1 ∧ before ≠ some 1 then s.sendJoin else s
    if m.role = 1 ∧ m.cflags.getLsbD 0 ∧ 4096 < ownPriority t then t.setClaim 4096 else t
  | _ => if m.role = 2 then s.toStandby else s

/-- The flag of a path of criers. -/
def pathFlagOf (path : TwinPath) : Nat := if path = .aggon then Bit.TWIN.FLAGS.PATH_AGGON else Bit.TWIN.FLAGS.PATH_ETH

/-- A crier comes on one path (R448): it counts only when its claim names PEER_ID. -/
def State.crierIn (s : State) (path : TwinPath) (m : CrierMsg) : State :=
  if s.u Obj.TWIN.TWIN_EN = 0 ∨ m.claim.toNat % 2048 ≠ s.u Obj.TWIN.PEER_ID then s
  else
    let before := s.twin.peerRole
    let t := { s with twin := { s.twin with
      peerRole := some m.role.toNat, peerInStep := m.cflags.getLsbD 0,
      lateAggon := s.twin.lateAggon && decide (path = TwinPath.eth), lateEth := s.twin.lateEth && decide (path = TwinPath.aggon) } }
    (t.logFlag Obj.TWIN.FLAGS (pathFlagOf path) false 17).crierRole m before

/-- CRIER (R429, R448): a link's CRIER frame, with a twin's crier or without, or a twin's crier on Ethernet. -/
def execCrier (link : Option Arrival) (m : Option CrierMsg) (s : State) : Result :=
  let act := fun (path : TwinPath) (t : State) => match m with
    | some x => t.crierIn path x
    | none => t
  .next (match link with
  | some a => s.receive a 0 (ifClean a (act TwinPath.aggon))
  | none => act TwinPath.eth s)

/-- CRIER_TIMEOUT (R447, R449): nothing on one path for FAILOVER_US. -/
def execCrierTimeout (path : TwinPath) (s : State) : Result :=
  .next (if s.u Obj.TWIN.TWIN_EN = 0 then s
  else
    let a := s.twin.lateAggon || path == .aggon
    let e := s.twin.lateEth || path == .eth
    let t := { s with twin := { s.twin with lateAggon := a, lateEth := e, peerRole := if a && e then none else s.twin.peerRole } }
    ((t.logFlag Obj.TWIN.FLAGS (pathFlagOf path) true 17).startCheck).faultCheck)

/-- The crier payload (R448). -/
def crierOf (s : State) : CrierMsg :=
  ⟨BitVec.ofNat 8 (s.u Obj.TWIN.ROLE), if s.bit Obj.TWIN.FLAGS Bit.TWIN.FLAGS.IN_STEP then 1 else 0,
    BitVec.ofNat 24 (s.u Obj.TWIN.CLAIM), s.twin.cseq, BitVec.ofNat 64 s.now⟩

/-- TWIN_CRIER_SEND (R448): on the twin links, or on both ports of the pair that TWIN_IFACE names. -/
def execTwinCrierSend (path : TwinPath) (s : State) : Result :=
  .next (if s.u Obj.TWIN.TWIN_EN = 0 then s
  else
    let m := crierOf s
    let t := { s with twin := { s.twin with cseq := s.twin.cseq + 1 } }
    match path with
    | .aggon => (twinLinks s).foldl (fun (u : State) k =>
        u.sendFrame k { vc := 0, kind := 2, src := ownId s, dest := BitVec.ofNat 11 (s.u Obj.TWIN.PEER_ID), body := .crier (some m) }) t
    | .eth =>
      let r := rctOf s (2 * s.u Obj.TWIN.TWIN_IFACE)
      (overAll t (fun u (p : Fin 4) =>
        if p.val / 2 = s.u Obj.TWIN.TWIN_IFACE ∧ s.eth[p].up then
          u.leave [p] (.crier p (s.u Obj.TWIN.PEER_MAC % 2 ^ 48) (crierBytes m) r) else u)).nextRct
        (2 * s.u Obj.TWIN.TWIN_IFACE))

/-! ## The CLAIM wire (R450, R451, R453, R56) -/

/-- A fresh claim above the own cuts the twinned ports' launches (R56), and makes an active twin STANDBY (R453). -/
def State.claimAbove (s : State) : State :=
  if s.u Obj.TWIN.PEER_CLAIM ≤ s.u Obj.TWIN.CLAIM then s
  else
    let t := overAll s (fun u (n : Port) => if u.twinned n then u.cutPort n else u)
    if active s then t.toStandby else t

/-- CLAIM_FRAME: sync byte, claim and CRC; a correct one is PEER_CLAIM and fresh. -/
def execClaimFrame (frame : BitVec 40) (s : State) : Result :=
  let claim : BitVec 24 := (frame >>> 8).setWidth 24
  .next (if (frame >>> 32).setWidth 8 ≠ 0xB4#8 ∨ frame.setWidth 8 ≠ crc8 claim then s
  else
    let t := { s with twin := { s.twin with fresh := true } }
    let t := (t.put Obj.TWIN.PEER_CLAIM claim.toNat).putBit Obj.TWIN.FLAGS Bit.TWIN.FLAGS.CLAIM_STALE false
    if s.u Obj.TWIN.TWIN_EN = 0 then t
    else
      let t := t.claimAbove
      if standby s ∧ claim.toNat / 2048 = 0 then t.unitFault else t)

/-- CLAIM_STALE (R451): 10 µs have passed since the last good frame; a STARTING twin and a standby look again (R447, R449). -/
def execClaimStale (s : State) : Result :=
  let t := { s with twin := { s.twin with fresh := false } }
  let t := t.putBit Obj.TWIN.FLAGS Bit.TWIN.FLAGS.CLAIM_STALE true
  .next t.startCheck.faultCheck

/-! ## YIELD and the group's commit (R453, R455, R456) -/

/-- The effect of a write of YIELD: 1 on the ACTIVE twin acts at its next commit point. -/
def yieldEff (s : State) (v : Nat) : State :=
  if v = 1 ∧ active s then { s with twin := { s.twin with yieldReq := true } } else s

/-- The commit point of a twinned port at which a YIELD acts. -/
def State.yieldNow (s : State) (n : Port) : State :=
  if s.twin.yieldReq && active s && s.twinned n then
    ({ s with twin := { s.twin with yieldReq := false } }).takeRole 3 0
  else s

/-- A twin that leaves the pair while it is not ACTIVE stops its twinned ports (R455). -/
def State.leavePair (s : State) : State :=
  if s.u Obj.TWIN.ROLE = 2 then s
  else overAll s (fun t (n : Port) => if s.bit Obj.TWIN.TWIN_PORTS n then
    (t.put (Obj.SCHEDULER.ENABLE n) 0).setBit Obj.FLASH.PENDING 1 else t)

/-- A twin as it joins a pair or leaves one: what the CLAIM wire and the gateway hold stays. -/
def TwinPart.anew (x : TwinPart) : TwinPart := { fresh := x.fresh, peers := x.peers, wireOld := x.wireOld, wireSince := x.wireSince }

/-- The commit of 6300h (R456): TWIN_EN set makes a STARTING twin, TWIN_EN cleared leaves the pair; in a pair a standby's claim follows PRIORITY
and the plant outputs follow PLANT_MODE (R446). -/
def State.commitTwin (s : State) : State :=
  let was := s.u Obj.TWIN.TWIN_EN
  let leaving := was == 1 && s.us Obj.TWIN.TWIN_EN == 0
  let t := if leaving then s.leavePair else s
  let t := t.commit 0x6300
  if was = 0 ∧ t.u Obj.TWIN.TWIN_EN = 1 then ({ t with twin := t.twin.anew }).takeRole 0 0
  else if leaving then (({ t with twin := t.twin.anew }).put Obj.TWIN.ROLE 0).plantTurn.twinStreams
  else
    let t := if t.u Obj.TWIN.ROLE = 1 then t.setClaim (t.u Obj.TWIN.PRIORITY) else t
    if s.u Obj.TWIN.PLANT_MODE = t.u Obj.TWIN.PLANT_MODE then t else t.plantTurn

/-- The ports at whose commit points 6300h takes effect (R456): those twinned now and those to be twinned. -/
def pairPorts (s : State) : List Port :=
  (List.finRange 8).filter (fun (n : Port) => (s.u Obj.TWIN.TWIN_EN == 1 && s.bit Obj.TWIN.TWIN_PORTS n) ||
    (s.us Obj.TWIN.TWIN_EN == 1 && (s.us Obj.TWIN.TWIN_PORTS).testBit n))

/-- What 6300h holds for one port takes effect at that port's commit point, where the pair stays (R442, R456). -/
def State.takePort (s : State) (n : Port) : State :=
  if s.u Obj.TWIN.TWIN_EN = 1 ∧ s.us Obj.TWIN.TWIN_EN = 1 then
    let t := s.putBit Obj.TWIN.TWIN_PORTS n ((s.us Obj.TWIN.TWIN_PORTS).testBit n)
    let t := t.putBit Obj.TWIN.MAP_REVERSE n ((s.us Obj.TWIN.MAP_REVERSE).testBit n)
    t.put (Obj.TWIN.MAP_PTS n) (s.us (Obj.TWIN.MAP_PTS n))
  else s

end Sys2Proof.Machine
end

