-- ==== Sys2Proof/Machine/Aggon.lean ====
section
/-! DEFINITION. Aggon links (R417 to R429): training, lanes, haggle, acknowledgement and replay; the cluster's table and
root (R430 to R433); and the time exchange (R434 to R436). -/

namespace Sys2Proof.Machine

/-! ## Training and service (R420) -/

def linkEnabled (s : State) (k : Fin 4) : Bool := s.bit Obj.AGGON.LINK_EN k.val

/-- A link starts at step 1. -/
def State.startLink (s : State) (k : Fin 4) : State :=
  (s.modLink k (fun x => { peerTwin := x.peerTwin, sent := x.sent, marker := x.marker })).put (Obj.AGGON.LSTATE k) 1

/-- A link that was UP no longer is: its neighbour, lanes and twin mark go, frames not acknowledged are lost, and so are the mirrored
deliveries it carried (R428, R444). -/
def State.linkGone (s : State) (k : Fin 4) : State :=
  let t := (s.put (Obj.AGGON.PEER k) 0xFFFF).put (Obj.AGGON.LANES k) 0
  let t := t.clrBit (Obj.AGGON.LFLAGS k) Bit.AGGON.LFLAGS.TWIN_LINK
  t.linkMirrorLost k

/-- Whether a link gives the Aggon clock (R303): the one AGGON_LINK names, or the upstream. -/
def suppliesRef (s : State) (k : Fin 4) : Bool :=
  s.u Obj.CLOCKS.AGGON_LINK == k.val || (s.u Obj.CLOCKS.AGGON_LINK == 0xFF && (upstream s).any (fun h => h.link == k))

/-- A departure from service: a day book entry, and the link trains again (R420, R429); the Aggon clock goes with the link that gives it
(R289). -/
def State.leaveService (s : State) (k : Fin 4) : State :=
  if !linkUp s k then s
  else
    let t := (s.linkGone k).startLink k
    let t := t.log { cls := 1, sub := 17, inst := k.val, index := 0x6200, osub := 0x22 + 0x10 * k.val }
    (if suppliesRef s k then (t.modRef 2 (fun x => { x with present := false })).disqualify 2 else t).clusterUpdate

/-- A change of DEVICE_ID or CLUSTER retrains every enabled link, a cleared bit of LINK_EN takes its link out (R456). -/
def State.relink (s : State) (k : Fin 4) (again : Bool) : State :=
  if linkEnabled s k then
    (if linkUp s k && again then s.leaveService k else if s.u (Obj.AGGON.LSTATE k) = 0 ∨ again then s.startLink k else s)
  else ((s.leaveService k).modLink k (fun x => { peerTwin := x.peerTwin, sent := x.sent, marker := x.marker })).put (Obj.AGGON.LSTATE k) 0

/-- TRAINING_TIMEOUT (R420). -/
def execTrainingTimeout (k : Fin 4) (s : State) : Result :=
  let l := s.u (Obj.AGGON.LSTATE k)
  .next (if l = 0 ∨ l = 5 ∨ s.links[k].waiting then s
    else (s.bump (Obj.AGGON.RETRAINS k)).modLink k (fun x => { x with waiting := true }))

/-- RETRAIN (R420). -/
def execRetrain (k : Fin 4) (s : State) : Result := .next (if s.links[k].waiting then s.startLink k else s)

/-- Whether a link trains. -/
def training (s : State) (k : Fin 4) : Bool :=
  decide (0 < s.u (Obj.AGGON.LSTATE k)) && decide (s.u (Obj.AGGON.LSTATE k) < 5) && !s.links[k].waiting

/-- BLOCK_LOCK (R420): step 2. -/
def execBlockLock (k : Fin 4) (lane : Fin 5) (s : State) : Result :=
  .next (if !training s k ∨ s.links[k].locked.contains lane then s
  else
    let t := s.modLink k (fun x => { x with locked := lane :: x.locked })
    if t.u (Obj.AGGON.LSTATE k) = 1 then t.put (Obj.AGGON.LSTATE k) 2 else t)

/-! ## Lanes (R419, R421) -/

/-- The LANES octet of the haggle: the lanes in use, and the spare or 7. -/
def lanesOf (x : LinkPart) : Nat :=
  (x.tx.map (fun l => 2 ^ l.val)).sum + (match x.spare with | some l => l.val * 32 | none => 224)

/-- The lanes chosen from those aligned: the four lowest, and the next as the spare. -/
def LinkPart.choose (x : LinkPart) : LinkPart :=
  let l := (List.finRange 5).filter (fun a => x.aligned.contains a)
  { x with tx := l.take 4, spare := (l.drop 4).head? }

/-- The sender's physical lane that comes in on one of the receiver's (R419). -/
def LinkPart.senderOf (x : LinkPart) (lane : Fin 5) : Option (Fin 5) := (x.crossed.find? (fun e => e.1 == lane)).map (·.2)

/-- A marker tells which of the sender's lanes comes in on a lane, in whatever order they are wired (R419). -/
def LinkPart.crosses (x : LinkPart) (lane phys : Fin 5) : LinkPart :=
  { x with crossed := (lane, phys) :: x.crossed.filter (fun e => e.1 != lane) }

/-- A marker in service: the sender's map holds, with its spare until the map takes it, and a lane it names as failed moves at this device's
next marker. -/
def LinkPart.inService (x : LinkPart) (map : List (Fin 5)) (failed : Option (Fin 5)) : LinkPart :=
  { x with
    rx := map, rxSpare := x.rxSpare.filter (fun l => !map.contains l),
    failed := match x.failed with
      | some f => if map.contains f then some f else none
      | none => none,
    move := match failed with
      | some f => if x.tx.contains f then some f else none
      | none => x.move }

/-- ALIGNMENT_MARKER (R419 to R421): on one of this receiver's lanes, with the sender's physical lane, the logical lane on it, the sender's map,
and the lane of this device that the sender's receiver names as failed; step 3 once four lanes are aligned. A marker whose logical lane is not
that of its own map is none. -/
def execAlignmentMarker (k : Fin 4) (lane phys : Fin 5) (logical : Option (Fin 4)) (map : List (Fin 5)) (failed : Option (Fin 5)) (s : State) :
    Result :=
  .next (if logical.map (·.val) ≠ map.idxOf? phys then s
  else if linkUp s k then s.modLink k (fun x => (x.crosses lane phys).inService map failed)
  else if !training s k ∨ !s.links[k].locked.contains lane then s
  else
    let add := fun (x : LinkPart) => if x.aligned.contains lane then x else { x with aligned := lane :: x.aligned }
    let t := s.modLink k (fun x => { ((add x).crosses lane phys).choose with rx := map })
    if t.u (Obj.AGGON.LSTATE k) = 2 ∧ 4 ≤ t.links[k].aligned.length then t.put (Obj.AGGON.LSTATE k) 3 else t)

/-- The move of a failed lane to the spare. -/
def State.moveLane (s : State) (k : Fin 4) : State :=
  match s.links[k].move, s.links[k].spare with
  | some f, some sp =>
    let t := s.modLink k (fun x => { x with tx := x.tx.map (fun l => if l = f then sp else l), spare := none, move := none })
    (t.bump (Obj.AGGON.LANE_SWITCHES k)).put (Obj.AGGON.LANES k) (lanesOf t.links[k])
  | _, _ => s

/-- ALIGNMENT_MARKER_SEND (R419, R421): a marker on every lane, which holds the logical and the physical lane, the map and the lane that
this receiver names as failed. -/
def execAlignmentMarkerSend (k : Fin 4) (s : State) : Result :=
  .next (if s.u (Obj.AGGON.LSTATE k) = 0 then s
  else
    let t := if linkUp s k then s.moveLane k else s
    let x := t.links[k]
    overAll t (fun u (l : Fin 5) => u.emit (.marker k l (x.tx.idxOf? l) x.tx x.failed)))

/-- A lane lost in training (R420, R421): with fewer than four aligned the link is back at step 2. -/
def State.trainingLoss (s : State) (k : Fin 4) (lane : Fin 5) : State :=
  let t := s.modLink k (fun y => ({ y with locked := y.locked.filter (· != lane), aligned := y.aligned.filter (· != lane) }).choose)
  if 2 < t.u (Obj.AGGON.LSTATE k) ∧ t.links[k].aligned.length < 4 then t.put (Obj.AGGON.LSTATE k) 2 else t

/-- A lane of the sender's that fails in service (R421): it is named while a spare remains, once; with none left the link leaves service. -/
def State.serviceLoss (s : State) (k : Fin 4) (phys : Fin 5) : State :=
  let x := s.links[k]
  if x.failed = some phys then s
  else if !x.rx.contains phys then s.modLink k (fun y => { y with rxSpare := y.rxSpare.filter (· != phys) })
  else if x.rxSpare.isSome ∧ x.failed.isNone then s.modLink k (fun y => { y with failed := some phys, rxSpare := none })
  else s.leaveService k

/-- LANE_FAILURE (R421): one of this receiver's lanes. -/
def execLaneFailure (k : Fin 4) (lane : Fin 5) (s : State) : Result :=
  .next (if !linkUp s k then s.trainingLoss k lane
  else match s.links[k].senderOf lane with
    | some p => s.serviceLoss k p
    | none => s)

/-! ## Haggle (R422, R423) -/

/-- The TWIN_PEER field: the configured twin, or bit 15. -/
def twinPeerField (s : State) : BitVec 16 :=
  if s.u Obj.TWIN.TWIN_EN = 1 then BitVec.ofNat 16 (s.u Obj.TWIN.PEER_ID) else 0x8000

def fwMajor (s : State) : Nat := s.u Obj.IDENTITY.FIRMWARE / 2 ^ 24

/-- The haggle payload of a link. -/
def haggleOf (s : State) (k : Fin 4) : LinkHaggle :=
  ⟨1, BitVec.ofNat 8 k.val, ownId s, BitVec.ofNat 16 (s.u Obj.AGGON.CLUSTER), BitVec.ofNat 8 (lanesOf s.links[k]),
    BitVec.ofNat 8 (fwMajor s), crc32c (s.blob Obj.IDENTITY.SERIAL), twinPeerField s⟩

/-- HAGGLE_SEND (R422): in step 4, which step 3 leads to; nothing leaves while the crossing to the Aggon SerDes refuses it (R342). -/
def execHaggleSend (k : Fin 4) (s : State) : Result :=
  .next (if !training s k ∨ s.u (Obj.AGGON.LSTATE k) < 3 then s
  else
    let t := s.put (Obj.AGGON.LSTATE k) 4
    if refuses s 7 then t else t.putFrame k { vc := 4, kind := 7, src := ownId s, body := .haggle (haggleOf s k) })

/-- The first failing item of a haggle payload; 0 for none. -/
def haggleCause (s : State) (h : LinkHaggle) : Nat :=
  if h.version ≠ 1 then 1
  else if h.cluster.toNat ≠ s.u Obj.AGGON.CLUSTER then 2
  else if h.fwMajor.toNat ≠ fwMajor s then 3
  else if h.deviceId = ownId s then 4
  else 0

/-- Whether a link is a twin link (R423). -/
def isTwinLink (s : State) (k : Fin 4) : Bool :=
  linkUp s k && s.u Obj.TWIN.TWIN_EN == 1 && s.u (Obj.AGGON.PEER k) == s.u Obj.TWIN.PEER_ID &&
  s.links[k].peerTwin == (ownId s).setWidth 16 && s.bit Obj.TWIN.TWIN_LINKS k.val

/-- TWIN_LINK of every link. -/
def State.markTwinLinks (s : State) : State :=
  (overAll s (fun t (k : Fin 4) => t.putBit (Obj.AGGON.LFLAGS k) Bit.AGGON.LFLAGS.TWIN_LINK (isTwinLink t k))).drainMirror

/-- A link comes UP (R420 step 5): frame sequences begin anew, and the neighbour is to be granted every buffer (R427). -/
def State.linkComesUp (s : State) (k : Fin 4) (h : LinkHaggle) : State :=
  let t := s.modLink k (fun x => { x with
    peerTwin := h.twinPeer, fseq := 0, last := 0xFFFF, unacked := [], failed := none, move := none,
    rxSpare := (x.crossed.find? (fun e => x.aligned.contains e.1 && !x.rx.contains e.2)).map (·.2), discarding := false,
    exchanges := 0, inMean := 0, sumDelay := 0, sumOffset := 0, vcq := [], credit := [0, 0, 0, 0],
    owed := (List.range 4).map (fun v => Config.linkBuffers (v + 1)), turn := 0 })
  let t := (t.put (Obj.AGGON.LSTATE k) 5).put (Obj.AGGON.PEER k) h.deviceId.toNat
  let t := t.put (Obj.AGGON.LANES k) (lanesOf t.links[k])
  t.markTwinLinks.clusterUpdate

/-- HAGGLE (R423): on four lanes the link comes UP, or HAGGLE_CAUSE names the first failing item, with an entry when it is not the one told
since the link started. -/
def execHaggle (k : Fin 4) (h : LinkHaggle) (s : State) : Result :=
  .next (if !training s k ∨ s.u (Obj.AGGON.LSTATE k) < 3 ∨ s.links[k].tx.length < 4 then s
  else
    let c := haggleCause s h
    let t := (s.put (Obj.AGGON.LSTATE k) 4).put (Obj.AGGON.HAGGLE_CAUSE k) c
    if c = 0 then t.linkComesUp k h
    else if s.links[k].told = c then t
    else (t.modLink k (fun x => { x with told := c })).log { cls := 1, sub := 17, inst := k.val, index := 0x6200, osub := 0x25 + 0x10 * k.val, detail := c })

/-! ## Acknowledgement and replay (R428, R429) -/

/-- Frames replayed from the one after the last acknowledged; a frame already replayed eight times takes the
link out of service, and nothing is replayed while the crossing to the Aggon SerDes refuses it (R342). -/
def State.replay (s : State) (k : Fin 4) : State :=
  match s.links[k].unacked with
  | [] => s
  | (_, n) :: _ =>
    if 8 ≤ n then s.leaveService k
    else if refuses s 7 then s
    else
      let t := (s.modLink k (fun x => { x with unacked := x.unacked.map (fun e => (e.1, e.2 + 1)) })).bump (Obj.AGGON.REPLAYS k)
      t.links[k].unacked.foldl (fun u e => u.putFrame k { e.1 with ack := t.links[k].last }) t

/-- LINK_FRAME (R427, R428): what the neighbour acknowledges leaves the replay buffer, and the credit it returns is held; a NAK replays the
rest, and frames that waited leave. -/
def execLinkFrame (k : Fin 4) (nak : Bool) (ack : BitVec 16) (credit : BitVec 32) (s : State) : Result :=
  .next (if !linkUp s k then s
  else
    let t := s.modLink k (fun x => x.acked ack credit)
    (if nak then t.replay k else t).pumpLink k)

/-- REPLAY_TIMEOUT (R428). -/
def execReplayTimeout (k : Fin 4) (s : State) : Result := .next (if linkUp s k then s.replay k else s)

/-- BAD_FRAME (R425, R428): a frame with a wrong HCRC or a word that cannot be corrected. -/
def execBadFrame (k : Fin 4) (s : State) : Result := .next (if linkUp s k then s.discardFrame k else s)

/-- LINK_CRIER_SEND (R429): a CRIER frame to the neighbour. -/
def execLinkCrierSend (k : Fin 4) (s : State) : Result :=
  .next (s.sendFrame k { vc := 0, kind := 2, src := ownId s, dest := neighbour s k, body := .crier none })

/-- LINK_SILENT (R429). -/
def execLinkSilent (k : Fin 4) (s : State) : Result :=
  .next (if linkUp s k then
    (s.logFlag (Obj.AGGON.LFLAGS k) Bit.AGGON.LFLAGS.LINK_SILENT true 17 k.val).leaveService k else s)

/-! ## The cluster's table (R430 to R433) -/

/-- TOPO_SEND (R430). -/
def execTopoSend (s : State) : Result :=
  let t := s.flood none { vc := 4, kind := 8, src := ownId s, body := .topo (ownTopo s) }
  .next { t with cluster := { t.cluster with topoSeq := t.cluster.topoSeq + 1 } }

/-- DUP_ID (R431): two frames of one ID with different SERIAL_CRC; each such ID has its entry. -/
def State.dupId (s : State) (d : BitVec 11) : State :=
  if s.cluster.dups.contains d then s
  else
    let t := { s with cluster := { s.cluster with dups := d :: s.cluster.dups } }
    (t.clrBit Obj.AGGON.FLAGS Bit.AGGON.FLAGS.DUP_ID).logFlag Obj.AGGON.FLAGS Bit.AGGON.FLAGS.DUP_ID true 17

/-- A TOPO frame goes on to every other link while hops remain. -/
def State.passTopo (s : State) (k : Fin 4) (f : TopoFrame) : State :=
  if f.hops ≤ 1 then s
  else s.flood (some k) { vc := 4, kind := 8, src := f.deviceId, hops := f.hops - 1, body := .topo { f with hops := f.hops - 1 } }

/-- A TOPO frame under this device's own ID: another holder's shows a different SERIAL_CRC. -/
def State.topoOwn (s : State) (k : Fin 4) (f : TopoFrame) : State :=
  if f.serialCrc = (ownTopo s).serialCrc then s
  else
    let t := s.dupId f.deviceId
    if s.cluster.ownSeen.contains f.seq then t
    else
      let t := { t with cluster := { t.cluster with ownSeen := (f.seq :: t.cluster.ownSeen).take 4096 } }
      (t.passTopo k f).clusterUpdate

/-- A TOPO frame of another device: it enters the table when its sequence is newer, and goes on once. -/
def State.topoOther (s : State) (k : Fin 4) (f : TopoFrame) : State :=
  match s.cluster.table.find? (fun r => r.frame.deviceId == f.deviceId) with
  | none =>
    let t := { s with cluster := { s.cluster with table := s.cluster.table ++ [({ frame := f, seen := [f.seq] } : TopoRec)] } }
    (t.passTopo k f).clusterUpdate
  | some r =>
    let t := if r.frame.serialCrc ≠ f.serialCrc then s.dupId f.deviceId else s
    if r.seen.contains f.seq then t
    else
      let newer := decide ((f.seq - r.frame.seq).toNat < 2 ^ 31) || r.frame.serialCrc != f.serialCrc
      let r' : TopoRec := ⟨if newer then f else r.frame, (f.seq :: r.seen).take 4096⟩
      let tab := t.cluster.table.map (fun x => if x.frame.deviceId = f.deviceId then r' else x)
      let t := { t with cluster := { t.cluster with table := tab } }
      (t.passTopo k f).clusterUpdate

/-- TOPO (R430, R431). -/
def execTopo (a : Arrival) (f : TopoFrame) (s : State) : Result :=
  .next (s.receive a 4 (ifClean a (fun t => if f.deviceId = ownId t then t.topoOwn a.link f else t.topoOther a.link f)))

/-- TOPO_AGE_OUT (R430): a device leaves the table. -/
def execTopoAgeOut (dev : BitVec 11) (s : State) : Result :=
  let c := { s.cluster with
    table := s.cluster.table.filter (fun (r : TopoRec) => r.frame.deviceId != dev), dups := s.cluster.dups.filter (· != dev) }
  let t := { s with cluster := c }
  .next (if c.dups.isEmpty then (t.logFlag Obj.AGGON.FLAGS Bit.AGGON.FLAGS.DUP_ID false 17).clusterUpdate else t.clusterUpdate)

/-- ROOT_SELECTION (R432): the best-ranked eligible device of the table has been best for 2 s. -/
def execRootSelection (s : State) : Result :=
  .next ({ s with cluster := { s.cluster with root := (bestRank (eligible s)).map Rank.dev } }).clusterUpdate

/-- CLUSTER_SOURCE_LOSS (R433). -/
def execClusterSourceLoss (s : State) : Result :=
  .next (if (upstream s).isSome then s else { s with ep := { s.ep with clusterUsable := false } })

/-! ## Epoch across hops (R434, R435) -/

/-- A TIME frame takes the stamps of the last marker sent and of the last received (R434). -/
def State.sendTime (s : State) (k : Fin 4) (st : Stamp) : State :=
  (s.modLink k (fun x => { x with sent := st })).sendFrame k
    { vc := 0, kind := 3, src := ownId s, dest := neighbour s k,
      body := .time st s.links[k].marker (s.u Obj.AGGON.CLUSTER_ERR) }

/-- TIMING_MARKER (R434): a marker leaves on logical lane 0, stamped on channel 13 + k, and its TIME frame with it. -/
def execTimingMarker (k : Fin 4) (stamp : Stamp) (s : State) : Result :=
  .next (if !linkUp s k then s
  else
    (s.emit (.timing k)).stampChannel ⟨13 + k.val, by omega⟩ stamp (fun st t => t.sendTime k st))

/-- Who takes a channel's stamps (R304) but for the encoder's: the ports, the epoch discipline, the mains tracker and the links. -/
def State.handStamp (s : State) (ch : Fin 21) (st : Stamp) : State :=
  if h : ch.val < 8 then s.monEdge ⟨ch.val, h⟩ st
  else if ch.val = 8 then s.ppsEdge st
  else if ch.val = 9 then s.mainsEdge st
  else if ch.val < 13 then s
  else if ch.val < 17 then
    (if linkUp s (Fin.ofNat 4 (ch.val - 13)) then s.sendTime (Fin.ofNat 4 (ch.val - 13)) st else s)
  else s.modLink (Fin.ofNat 4 (ch.val - 17)) (fun x => { x with marker := st })

/-- TDC_STAMP (R304, R305): an edge on a channel, which its consumer and the measurement units take; the encoder's wait for their filter (R308). -/
def execTdcStamp (ch : Fin 21) (stamp : Stamp) (s : State) : Result :=
  .next (if 10 ≤ ch.val ∧ ch.val < 13 then s.rawEdge ch stamp else s.stampChannel ch stamp (fun st t => t.handStamp ch st))

/-- The mean of 16 exchanges: MEAN_DELAY, OFFSET and, on the upstream, the measurement of the CLUSTER source. -/
def State.closeMean (s : State) (k : Fin 4) : State :=
  let x := s.links[k]
  let off := freeRound (x.sumOffset * 625 - s.i (Obj.AGGON.ASYMMETRY k) * 512 * 16) (512 * 32)
  let t := s.modLink k (fun y => { y with inMean := 0, sumDelay := 0, sumOffset := 0 })
  let d := freeRound (x.sumDelay * 625) (512 * 32)
  let t := t.put (Obj.AGGON.MEAN_DELAY k) (if d < 0 then Config.beyond d else d.toNat)
  let t := t.puti (Obj.AGGON.OFFSET k) off
  let t := t.clusterUpdate
  if (upstream t).any (fun h => h.link == k) ∧ t.ep.clusterUsable then t.measure 3 (-off) else t

/-- A time exchange (R434, R435): the neighbour's stamps of its last marker sent, t3, and of the last it received, t2, meet this device's of the
last it sent, t1, and received, t4. -/
def State.exchange (s : State) (k : Fin 4) (sent received : Stamp) (err : BitVec 32) : State :=
  let ab : Int := (received : Int) - s.links[k].sent
  let ba : Int := (s.links[k].marker : Int) - sent
  let t := s.modLink k (fun x => { x with
    exchanges := min 16 (x.exchanges + 1), inMean := x.inMean + 1, sumDelay := x.sumDelay + (ab + ba),
    sumOffset := x.sumOffset + (ab - ba) })
  let t := if (upstream t).any (fun h => h.link == k) then t.put Obj.AGGON.CLUSTER_ERR (err.toNat + 50) else t
  if 16 ≤ t.links[k].inMean then t.closeMean k else t

/-- TIME (R434, R435). -/
def execTimeFrame (a : Arrival) (sent received : Stamp) (err : BitVec 32) (s : State) : Result :=
  .next (s.receive a 0 (ifClean a (fun t => t.exchange a.link sent received err)))

end Sys2Proof.Machine
end

