-- ==== Sys2Proof/Machine/Dram.lean ====
section
/-! DEFINITION. What the memories' code finds (R322 to R326, R344), lane repair (R334 to R336) and crossings (R341, R342). -/

namespace Sys2Proof.Machine

/-! ## Words found bad -/

/-- A set's branch state word at a debug address of some port. -/
def branchAt (s : State) (n : Port) (a : Nat) : Option Holder :=
  let k := (a - branchArea n) / 16
  if a < branchArea n then none
  else if s.pipes[n].words.any (fun e => e.1 == k) then some (branchHolder s n k) else none

/-- What holds the 16-byte word at a debug address (R343): the first of the owners whose area it lies in, else the memory itself. -/
def holderOf (s : State) (a : Nat) : Option Holder :=
  let ports := List.finRange 8
  let owner := match memKind s a with
    | .yard => (ports.findSome? (fun n => ringHolder s n a)).or (if s.dramFailed then bookHolder s a else none)
    | .dram =>
      (ports.findSome? (fun n => branchAt s n a)).or
        ((ports.findSome? (fun n => (List.finRange 8).findSome? (fun k => sumsHolder s n k a))).or
          (((List.finRange 64).findSome? (fun r => awnHolder s r a)).or ((storeHolder s a).or (bookHolder s a))))
    | _ => none
  if memKind s a = .outside then none else some (owner.getD (plainHolder s a))

/-- Bits of a word turn over. -/
def State.flipBits (s : State) (a : Nat) (e : BitVec 137) : State := { s with flips := addFlip s.flips a e }

/-- SCRUB (R323, R324, R344): the scrubber reads a word, in which some more bits may be in error, and corrects or marks it. -/
def execScrub (a : Nat) (err : BitVec 137) (s : State) : Result :=
  .next (match holderOf s a with
  | none => s
  | some h => (if err = 0 then s else s.flipBits a err).readAt a h)

/-! ## Lane repair (R334 to R336) -/

def State.modDram (s : State) (c : Fin 2) (f : DramChannel → DramChannel) : State :=
  { s with dram := s.dram.set c (f s.dram[c]) }

/-- The lane a spare replaces; FFh none. -/
def spareLane (s : State) (c k : Nat) : Nat := s.u (Obj.DRAM_CHANNEL.REPAIR_MAP c) / 256 ^ k % 256

/-- The repairs of a channel in hand: in its pass, or waiting for the refresh after it. -/
def DramChannel.inHand (d : DramChannel) : List RepairPart := d.repair.toList ++ d.passed

/-- The lowest spare in no use. -/
def freeSpare (s : State) (c : Fin 2) : Option Nat :=
  (List.range 7).find? (fun k => spareLane s c k == 0xFF && !s.dram[c].inHand.any (fun r => r.spare == k))

/-- Lanes repaired, in repair or waiting. -/
def lanesTaken (s : State) (c : Fin 2) : List Nat :=
  (List.range 7).map (spareLane s c) ++ s.dram[c].inHand.map (·.lane) ++ s.dram[c].waiting

/-- The refusal of a repair (R334); 0 for none. A channel that is not in service has no repair in service (log entry 59). -/
def repairRefusal (s : State) (c : Fin 2) (lane : Nat) : Nat :=
  if s.dram[c].failed ∨ !s.dram[c].trained ∨ lane ∈ lanesTaken s c ∨
    s.u (Obj.DRAM_CHANNEL.SPARES_FREE c) ≤ s.dram[c].waiting.length + s.dram[c].inHand.length then 0x0601 else 0

def State.repairFlag (s : State) : State :=
  s.putBit Obj.MEMORY.FLAGS Bit.MEMORY.FLAGS.REPAIR_ACTIVE (!s.dram[0].inHand.isEmpty || !s.dram[1].inHand.isEmpty)

/-- A repair begins (R335). -/
def State.startRepair (s : State) (c : Fin 2) (lane : Nat) : State :=
  match freeSpare s c with
  | none => s
  | some k =>
    let t := s.modDram c (fun d => { d with repair := some ⟨lane, k, s.now⟩ })
    ((t.put (Obj.DRAM_CHANNEL.STATE c) 2).put (Obj.DRAM_CHANNEL.PROGRESS c) 0).repairFlag

/-- A repair that is accepted: it begins, or waits for the pass of the one in hand. -/
def repairEff (s : State) (c : Fin 2) (lane : Nat) : State :=
  if s.dram[c].repair.isSome then s.modDram c (fun d => { d with waiting := d.waiting ++ [lane] }) else s.startRepair c lane

/-- What PROGRESS reads in a pass, which reads the channel at 1.6 GB/s: half a byte a root tick (R335; log entry 59). -/
def passProgress (s : State) (c : Fin 2) (r : RepairPart) : Nat :=
  min 65535 (((s.now : Int) - r.began).toNat * 32768 / max 1 (s.u (Obj.DRAM_CHANNEL.CAPACITY c)))

/-- REPAIR_PASS_END (R335): the pass is over, and the next repair begins; 65,536 of 65,536 does not fit PROGRESS (log entry 4). -/
def execRepairPassEnd (c : Fin 2) (s : State) : Result :=
  .next (match s.dram[c].repair with
  | none => s
  | some r =>
    let t := (s.modDram c (fun d => { d with repair := none, waiting := d.waiting.drop 1, passed := d.passed ++ [r] })).put
      (Obj.DRAM_CHANNEL.PROGRESS c) (Config.beyond 65536)
    match s.dram[c].waiting with
    | [] => t
    | l :: _ => t.startRepair c l)

/-- STATE of a channel with no repair in hand, and SPARES_LOW (R336). -/
def State.channelState (s : State) (c : Fin 2) : State :=
  let none := s.u (Obj.DRAM_CHANNEL.SPARES_FREE c) == 0
  let t := s.put (Obj.DRAM_CHANNEL.STATE c) (if !s.dram[c].inHand.isEmpty then 2 else if none then 3 else 1)
  if none then t.setBit Obj.MEMORY.FLAGS Bit.MEMORY.FLAGS.SPARES_LOW else t

/-- A repair ends at the first refresh after its pass (R335). -/
def State.finishRepair (s : State) (c : Fin 2) (r : RepairPart) : State :=
  let m := s.u (Obj.DRAM_CHANNEL.REPAIR_MAP c)
  let t := s.put (Obj.DRAM_CHANNEL.REPAIR_MAP c) (m - 0xFF * 256 ^ r.spare + r.lane * 256 ^ r.spare)
  let t := t.put (Obj.DRAM_CHANNEL.SPARES_FREE c) (t.u (Obj.DRAM_CHANNEL.SPARES_FREE c) - 1)
  let t := t.bump (Obj.DRAM_CHANNEL.REPAIRS c)
  let t := t.modDram c (fun d => { d with passed := d.passed.erase r })
  let t := (t.channelState c).repairFlag
  t.log { cls := 0, sub := 9, inst := c, index := 0x7A41 + c, osub := 0x0C, detail := t.u (Obj.DRAM_CHANNEL.REPAIRS c) }

/-- DRAM_REFRESH (R333, R335): reads take the spares of the repairs whose pass has ended. -/
def execDramRefresh (c : Fin 2) (s : State) : Result := .next (s.dram[c].passed.foldl (fun t r => t.finishRepair c r) s)

/-- The lane with most corrections; FFh when no lane had any. -/
def worstLane (counts : List Nat) : Nat :=
  let m := counts.foldl max 0
  if m = 0 then 0xFF else counts.findIdx (fun x => x == m)

/-- A lane whose corrections reached LANE_CE_MAX is repaired (R334). -/
def State.laneSecond (s : State) (c : Fin 2) (e : Nat × Nat) : State :=
  if s.u (Obj.DRAM_CHANNEL.LANE_CE_MAX c) ≤ e.1 ∧ repairRefusal s c e.2 = 0 then repairEff s c e.2 else s

/-- CHANNEL_SECOND (R331, R334, R336): the corrected bits of each lane, the spares' after the 137 in use, and the uncorrectable words of the
second that ends. -/
def execChannelSecond (c : Fin 2) (counts : List Nat) (uncorr : Nat) (s : State) : Result :=
  let t := s.put (Obj.DRAM_CHANNEL.WORST_LANE c) (worstLane (counts.take 144))
  let t := (counts.take 137).zipIdx.foldl (fun u e => u.laneSecond c e) t
  .next (if 1024 < uncorr then
      t.logFlag Obj.MEMORY.FLAGS (if c = 0 then Bit.MEMORY.FLAGS.CH_FAULT_M0 else Bit.MEMORY.FLAGS.CH_FAULT_M1) true 9 c true
    else t)

/-- TIMING_TRACKING (R332): the channel's timing follows; no state of the Ledger changes. -/
def execTimingTracking (_c : Fin 2) (s : State) : Result := .next s

/-- ZQ_CALIBRATION (R332): as TIMING_TRACKING. -/
def execZqCalibration (_c : Fin 2) (s : State) : Result := .next s

/-! ## Crossings (R341, R342) -/


end Sys2Proof.Machine
end

