-- ==== Sys2Proof/Machine/Groups.lean ====
section
/-! DEFINITION. Staged groups (R386, R387): the rules a group's staged copy must meet at its APPLY, and what takes effect at once; the other
groups commit at boundaries of their own chapters. -/

namespace Sys2Proof.Machine

/-! ## The values a commit would leave -/

/-- The port of a port's group. -/
def groupPort (idx : Nat) : Port := ⟨idx / 256 % 8, Nat.mod_lt _ (by decide)⟩

/-! ## Tone sets (R82, R106 to R108) -/

/-- Whether an enabled tone breaks a synthesiser limit (R82). -/
def toneBad (g : Reg → Nat) (n : Port) (i : Nat) : Bool :=
  let c := g (Obj.TONE.CENTRE n i)
  let b := g (Obj.TONE.BANDWIDTH n i)
  let d := g (Obj.TONE.DURATION n i)
  (!(c == 0 && b == 0) && (decide (2 * c < 20000 + b) || decide (3000000 < 2 * c + b))) ||
  decide (d < 16) || decide (64000 < d) || decide (d < 2 * g (Obj.TONE.TAPER n i))

def synthBad (g : Reg → Nat) (n : Port) (k : Nat) : Bool :=
  (tonesOn g n k).isEmpty || (tonesOn g n k).any (fun t => toneBad g n (tone k t))

/-- A tone's band for R106 in kHz: a plain pulse counts as 2 / DURATION. -/
def planBand (g : Reg → Nat) (n : Port) (i : Nat) : Rat :=
  let b := g (Obj.TONE.BANDWIDTH n i)
  if b = 0 then (6400000 : Rat) / (max 1 (g (Obj.TONE.DURATION n i)) : Nat) else (b : Rat)

/-- The time-bandwidth product of a tone. -/
def tbp (g : Reg → Nat) (n : Port) (i : Nat) : Rat := planBand g n i * (g (Obj.TONE.DURATION n i) : Rat) / 3200000

/-- The DAS entries of a port. -/
def dasEntries (g : Reg → Nat) (n : Port) : List Nat := entriesOfKind g n 1

/-- The points of an entry on the grid, by the tones of its set (R103). -/
def windowBad (g : Reg → Nat) (n : Port) (e : Nat) : Bool :=
  let k := g (Obj.SHOT_ENTRY.TONE_SET n e)
  let decim := g (Obj.PIPELINE.DECIM n)
  let zero := signedOf g (Obj.PIPELINE.ZERO_DELAY n)
  let first := gridFirst (g (Obj.SHOT_ENTRY.WIN_START n e)) zero decim
  let last := gridLast (g (Obj.SHOT_ENTRY.WIN_START n e)) (g (Obj.SHOT_ENTRY.WIN_LEN n e)) zero (setDuration g n k) decim
  decide (last < (first : Int) + g (Obj.PIPELINE.GAUGE n))

/-- The first failing row of R106; 0 for none. -/
def planFail (g : Reg → Nat) (n : Port) (k : Nat) : Nat :=
  let l := (tonesOn g n k).map (tone k)
  let c := fun (i : Nat) => (g (Obj.TONE.CENTRE n i) : Rat)
  let b := planBand g n
  if l.any (fun i => decide (c i - b i / 2 < 10000) || decide (790000 < c i + b i / 2)) then 1
  else if l.any (fun i => l.any (fun j => decide (i < j) && decide (|c i - c j| < (b i + b j) / 2 + 20000))) then 2
  else if 640000 < bwSum g n k ∨ l.any (fun i => decide (400000 < b i)) then 3
  else if l.any (fun i => decide (32000 < g (Obj.TONE.DURATION n i))) then 4
  else if l.any (fun i => decide (4000 < tbp g n i)) then 5
  else if (dasEntries g n).any (fun e => g (Obj.SHOT_ENTRY.TONE_SET n e) == k && windowBad g n e) then 6
  else 0

def inDas (g : Reg → Nat) (n : Port) (k : Nat) : Bool := (g (Obj.PIPELINE.DAS_SETS n)).testBit k

/-- FAIL of a tone set (R108). -/
def toneFail (g : Reg → Nat) (n : Port) (k : Nat) : Nat :=
  if synthBad g n k then 7
  else if inDas g n k then planFail g n k
  else if 640000 < bwSum g n k then 3
  else 0

/-- The tone-plan status of a set that passed (R108, R110, R114): branches, filter, the finest resolution c / (2 × 1.4682 × B) in mm, the
largest time-bandwidth product and the fixed latency. The resolution is rounded to the nearest, as the spec's examples have it (log entry 118). -/
def State.putPlan (s : State) (n : Port) (k : Nat) (g : Reg → Nat) : State :=
  let l := (tonesOn g n k).map (tone k)
  let das := inDas g n k
  let b := l.foldl (fun m i => max m (planBand g n i)) 0
  let tb := l.foldl (fun m i => max m (tbp g n i)) 0
  let res : Rat := if b = 0 then 0 else 300000000000 * 10000 / (2 * 14682 * 1000 * b)
  let inputs := bits16 (g (Obj.RECEIVE.INPUT_EN n) % 4)
  let z := fun (v : Nat) => if das then v else 0
  let t := (s.put (Obj.TONE_PLAN.FAIL n k) 0).put (Obj.TONE_PLAN.DAS_OK n k) (z 1)
  let t := t.put (Obj.TONE_PLAN.BRANCHES n k) (z (l.length * inputs))
  let t := t.put (Obj.TONE_PLAN.L_M n k) (z (filterTaps (setDuration g n k)))
  let t := t.put (Obj.TONE_PLAN.N_FFT n k) (z (fftLength (setDuration g n k)))
  let t := t.put (Obj.TONE_PLAN.RES_MIN n k) (z (roundEven res).toNat)
  let t := t.put (Obj.TONE_PLAN.TBP_MAX n k) (z (freeRound tb.num tb.den).toNat)
  t.put (Obj.TONE_PLAN.LATENCY n k) (z ((5 * fftLength (setDuration g n k)) / 2 + 4100))

/-- A set judged at an APPLY: its FAIL, or the status of one that passed. -/
def State.judgeSet (s : State) (n : Port) (k : Nat) (g : Reg → Nat) : State :=
  let f := toneFail g n k
  if f = 0 then s.putPlan n k g else s.put (Obj.TONE_PLAN.FAIL n k) f

/-! ## The shot table and the kinds' own rules -/

/-- Whether a BRIL entry breaks R168 or R172. -/
def brilBad (g : Reg → Nat) (n : Port) (e : Nat) : Bool :=
  let k := g (Obj.SHOT_ENTRY.TONE_SET n e)
  decide (7 < g (Obj.SHOT_ENTRY.AUX n e)) ||
  (inDas g n k && g (Obj.BRILLOUIN.BR_BIN n) % max 1 (g (Obj.PIPELINE.DECIM n)) != 0)

/-- Whether two DTS entries share an averaging set with different windows (R156). -/
def dtsClash (g : Reg → Nat) (n : Port) (a b : Nat) : Bool :=
  g (Obj.SHOT_ENTRY.AUX n a) == g (Obj.SHOT_ENTRY.AUX n b) &&
  (g (Obj.SHOT_ENTRY.WIN_START n a) != g (Obj.SHOT_ENTRY.WIN_START n b) || g (Obj.SHOT_ENTRY.WIN_LEN n a) != g (Obj.SHOT_ENTRY.WIN_LEN n b))

/-- Whether a port's configuration would break a rule of its table (R58, R64, R104, R105, R156, R168, R172, R442). -/
def tableBad (g : Reg → Nat) (n : Port) : Bool :=
  let dts := entriesOfKind g n 2
  let bril := entriesOfKind g n 3
  decide (g (Obj.SCHEDULER.L_DELAY n) < 14400) ||
  (List.range 64).any (fun e => decide (2560000 < g (Obj.SHOT_ENTRY.WIN_START n e) + g (Obj.SHOT_ENTRY.WIN_LEN n e))) ||
  (dasEntries g n).any (fun e => !inDas g n (g (Obj.SHOT_ENTRY.TONE_SET n e)) || windowBad g n e) ||
  dts.any (fun e => decide (7 < g (Obj.SHOT_ENTRY.AUX n e)) || dts.any (fun f => dtsClash g n e f)) ||
  bril.any (fun e => brilBad g n e || bril.any (fun f => g (Obj.SHOT_ENTRY.AUX n e) != g (Obj.SHOT_ENTRY.AUX n f))) ||
  (List.range 8).any (fun p => decide (g (Obj.SWEEP_PROGRAM.SHOTS_PER_STEP n p) ≤ g (Obj.SWEEP_PROGRAM.DISCARD n p))) ||
  ((g Obj.TWIN.MAP_REVERSE).testBit n && !(dts.isEmpty && bril.isEmpty))

/-- Twice the mean index of a section's points plus one (R162). -/
def sectionMid (a b : Nat) : Nat := a + b + 1

/-- Whether another port's dual-ended operation would meet a DTS_BIN other than its own (R166). -/
def partnerBad (g : Reg → Nat) (n : Port) : Bool :=
  (List.finRange 8).any (fun (p : Port) =>
    g (Obj.RAMAN.DUAL_PORT p) == n.val && p != n && g (Obj.RAMAN.DTS_BIN p) != g (Obj.RAMAN.DTS_BIN n))

/-- Whether a Raman group breaks R164 or R166. -/
def ramanBad (g : Reg → Nat) (n : Port) : Bool :=
  let mode := g (Obj.RAMAN.REF_MODE n)
  let a1 := g (Obj.RAMAN.REF1_START n)
  let b1 := g (Obj.RAMAN.REF1_END n)
  let a2 := g (Obj.RAMAN.REF2_START n)
  let b2 := g (Obj.RAMAN.REF2_END n)
  let m := g (Obj.RAMAN.DUAL_PORT n)
  let z : Rat := (((sectionMid a1 b1 : Int) - sectionMid a2 b2).natAbs : Rat) / 2 * g (Obj.RAMAN.DTS_BIN n) * (51083 / 100000)
  (decide (1 ≤ mode) && g (Obj.RAMAN.REF1_SFE n) == 0xFF) ||
  (mode == 2 && (g (Obj.RAMAN.REF2_SFE n) == 0xFF || (decide (a1 ≤ b2) && decide (a2 ≤ b1)) || decide (z < 100))) ||
  (m != 0xFF && (m == n.val || decide (7 < m) || g (Obj.RAMAN.DTS_BIN m) != g (Obj.RAMAN.DTS_BIN n) || g (Obj.RAMAN.LOOP_PTS n) == 0))

/-! ## Pitches (R179, R204 to R206, R211) -/

/-- Whether a pitch's staged copy breaks R205, R209 or R211. -/
def pitchBad (s : State) (k : Fin 192) : Bool :=
  let p := s.us (Obj.PITCH.PROGRAM k) % 16
  let img := (s.programs.toList.getD p {}).image
  img.isEmpty || !(imageField img 47 1).testBit (s.us (Obj.PITCH.SOURCE k)) || s.us (Obj.PITCH.PCOUNT k) == 0 ||
  (s.us (Obj.PITCH.ENABLE k) == 1 && ((s.u (Obj.PROGRAM_SLOT.LIB_ID p) == 0xF0 && s.u (Obj.PROGRAM_SLOT.SIGNED p) == 1) ||
    decide (s.u (Obj.PROGRAM_SLOT.YARD_ALLOC p) < imageField img 32 4) ||
    decide (s.u (Obj.PROGRAM_SLOT.DRAM_ALLOC p) < imageField img 36 4)))

/-- Whether a stall can take a pitch as its staged copy has it, once the pitch APPLYs already accepted are in effect. -/
def pitchPlaceable (s : State) (k : Fin 192) : Bool :=
  let s := (List.finRange 192).foldl (fun u j => if j ≠ k ∧ u.isApplying (0x5140 + j) then u.applyPitch j else u) s
  let t := s.takeStaged [0x5140 + k.val]
  if t.u (Obj.PITCH.ENABLE k) = 0 then true
  else match t.pitches[k].host with
    | none => (stallFor t k).isSome
    | some h =>
      (t.u (Obj.PITCH.PROGRAM k) == s.u (Obj.PITCH.PROGRAM k) && fits t t.programs[pitchSlot t k].image t.stalls[h.1].pitches) ||
      (stallFor (t.leaveStall k) k).isSome

/-! ## Capture regions (R258, R265) -/

/-- B strictly beyond A in the direction of a polarity (R265). -/
def beyondA (pol : Nat) (a b : Int) : Bool :=
  match pol % 4 with
  | 0 => decide (a < b)
  | 1 => decide (b < a)
  | 2 => decide (a.natAbs < b.natAbs)
  | _ => false

/-- Whether a condition breaks R265. -/
def condBad (g : Reg → Nat) (r c : Nat) : Bool :=
  let ty := g (Obj.CONDITIONS.C_TYPE r c)
  let pol := g (Obj.CONDITIONS.C_POL r c)
  let a := signedOf g (Obj.CONDITIONS.LEVEL_A r c)
  let b := signedOf g (Obj.CONDITIONS.LEVEL_B r c)
  let ta := g (Obj.CONDITIONS.TIME_A r c)
  (pointType ty && g (Obj.PIPELINE.OUT_MODE (g (Obj.REGION.PORT r))) == 3) ||
  (ty == 2 && (pol % 4 == 3 || decide (a ≤ 0))) ||
  (ty == 3 && (decide (g (Obj.CONDITIONS.TIME_B r c) < ta) || ta == 0)) ||
  (ty == 4 && (pol % 4 == 3 || !beyondA pol a b)) ||
  (ty == 5 && ta == 0) ||
  (pointType ty && g (Obj.CONDITIONS.C_OFFSET r c) != 0) ||
  decide (g (Obj.REGION.AWN_SHOTS r) ≤ g (Obj.CONDITIONS.C_PRE r c))

/-- The bytes of a region's largest record (R265, R273). -/
def recordLargest (g : Reg → Nat) (r : Nat) : Nat :=
  let cs := (List.range 8).filter (fun c => g (Obj.CONDITIONS.C_TYPE r c) != 0)
  let pre := cs.foldl (fun m c => max m (g (Obj.CONDITIONS.C_PRE r c))) (g (Obj.REGION.BELL_PRE r))
  let post := cs.foldl (fun m c => max m (g (Obj.CONDITIONS.C_POST r c))) (g (Obj.REGION.BELL_POST r))
  128 + (pre + post) * (ceilDiv (32 + 4 * g (Obj.REGION.P_COUNT r)) 16 * 16)

def regionBad (g : Reg → Nat) (r : Nat) : Bool :=
  g (Obj.REGION.SOURCE r) == 2 || (List.range 8).any (condBad g r) ||
  decide (g (Obj.REGION.AWN_SHOTS r) ≤ g (Obj.REGION.BELL_PRE r)) ||
  decide (storeBytes g < 2 * recordLargest g r)

/-- The points of condition state of all regions (R265). -/
def condState (g : Reg → Nat) : Nat :=
  ((List.range 64).map (fun r => ((List.range 8).map (fun c =>
    if pointType (g (Obj.CONDITIONS.C_TYPE r c)) then g (Obj.CONDITIONS.C_COUNT r c) else 0)).sum)).sum

/-! ## Other groups -/

/-- The output of CLKMON above 200 MHz (R302): only ROOT and CORE run faster. -/
def clkmonBad (g : Reg → Nat) : Bool :=
  let d := g Obj.CLOCKS.CLKMON_DIV
  match g Obj.CLOCKS.CLKMON_SRC with
  | 1 => decide (d < 16)
  | 2 => decide (d < 2)
  | _ => false

/-- The curve numbers of R466. -/
def curveGood (v : Nat) : Bool := [0, 1, 2, 3, 8, 9, 10, 11, 12, 13].contains v

/-- The library programs of R209. -/
def libraryIds : List Nat := [0x0001, 0x0002, 0x0003, 0x0010, 0x0011, 0x0020, 0x0021, 0x00F0]

def isPortGroup (idx : Nat) : Bool := decide (0x3000 ≤ idx) && decide (idx < 0x5000)

/-- What an image's bytes say of a slot's allocation at its LIB_ID APPLY (R202, R205, R209): the image's figure, and no less than a slot in
use has. -/
def slotReader (s : State) (idx : Nat) (r : Reg) : Nat :=
  let p := idx - 0x5110
  let id := s.us (Obj.PROGRAM_SLOT.LIB_ID p)
  let from' := fun (at' : Nat) =>
    max (if s.u (Obj.PROGRAM_SLOT.USERS p) ≠ 0 then s.u r else 0) (imageField (libraryImage id) at' 4)
  if 0x5110 ≤ idx ∧ idx < 0x5120 ∧ id ≠ 0 ∧ id ≠ s.u (Obj.PROGRAM_SLOT.LIB_ID p) ∧ !(s.staged.any (fun e => e.1 == r.key)) then
    (if r.key = (Obj.PROGRAM_SLOT.YARD_ALLOC p).key then from' 32
     else if r.key = (Obj.PROGRAM_SLOT.DRAM_ALLOC p).key then from' 36 else groupReader s idx r)
  else groupReader s idx r

/-- Whether the yard holds what a group would allocate (R182); an APPLY that changes no allocation passes. -/
def yardHolds (s : State) (g : Reg → Nat) : Bool :=
  decide (yardUsed g ≤ yardCapacity s) || yardUsed g == yardUsed (groupReader s 0)

/-! ## APPLY: the checks (R387) -/

/-- Whether a group's staged copy breaks a rule that is refused with 0302h. -/
def groupBad (s : State) (idx : Nat) : Bool :=
  let g := groupReader s idx
  let n := groupPort idx
  let o := idx % 256
  if idx = 0x2000 then clkmonBad g
  else if idx < 0x3000 then false
  else if isPortGroup idx then
    tableBad g n ||
    (decide (idx < 0x3800) && decide (0x10 ≤ o) && decide (o < 0x20) && toneFail g n (o - 0x10) != 0) ||
    (decide (0x3800 ≤ idx) && decide (idx < 0x4000) && o == 0 &&
      (g (Obj.PIPELINE.DECIM n) % 4 != 0 ||
       (List.range 16).any (fun k => inDas g n k && !inDas s.u n k && toneFail g n k != 0))) ||
    (decide (0x4000 ≤ idx) && decide (idx < 0x4800) && o == 0 && (ramanBad g n || partnerBad g n)) ||
    (idx == 0x3000 + 0x100 * n.val && decide (g (Obj.RECEIVE.AGC_MAX n) < g (Obj.RECEIVE.AGC_MIN n))) ||
    (idx == 0x4800 + 0x100 * n.val && g (Obj.BRILLOUIN.BR_BIN n) % 2 != 0)
  else if 0x5110 ≤ idx ∧ idx < 0x5120 then
    let id := s.us (Obj.PROGRAM_SLOT.LIB_ID (idx - 0x5110))
    id != 0 && !libraryIds.contains id
  else if h : 0x5140 ≤ idx ∧ idx < 0x5200 then pitchBad s ⟨idx - 0x5140, by omega⟩
  else if 0x5200 ≤ idx ∧ idx < 0x5240 then regionBad g (idx - 0x5200)
  else if 0x5300 ≤ idx ∧ idx < 0x5340 then regionBad g (idx - 0x5300)
  else if idx = 0x6300 then overAny (fun (p : Port) => (g Obj.TWIN.MAP_REVERSE).testBit p &&
    !((entriesOfKind g p 2).isEmpty && (entriesOfKind g p 3).isEmpty))
  else if idx = 0x7000 then (List.range 8).any (fun c => !curveGood (g (Obj.SFE.CURVE c)))
  else if idx = 0x7100 then (List.range 8).any (fun o => g (Obj.LOOP.VAL_LO o) == g (Obj.LOOP.VAL_HI o))
  else if idx = 0x7300 then g Obj.CHAIN.LENGTH % 8 != 0
  else false
where
  overAny (f : Port → Bool) : Bool := (List.finRange 8).any f

/-- The refusal code of an APPLY; 0 for none. -/
def applyCode (s : State) (idx : Nat) : Nat :=
  let g := slotReader s idx
  if groupBad s idx then 0x0302
  else if h : 0x6000 ≤ idx ∧ idx < 0x6100 then streamApplyCode s ⟨idx - 0x6000, by omega⟩
  else if (0x5110 ≤ idx ∧ idx < 0x5120) ∧ (s.programs.toList.getD (idx - 0x5110) {}).placing ∧
      s.us (Obj.PROGRAM_SLOT.LIB_ID (idx - 0x5110)) ≠ s.u (Obj.PROGRAM_SLOT.LIB_ID (idx - 0x5110)) then 0x0401
  else if (0x5110 ≤ idx ∧ idx < 0x5120) ∧ s.dramFailed ∧
      s.us (Obj.PROGRAM_SLOT.LIB_ID (idx - 0x5110)) ≠ s.u (Obj.PROGRAM_SLOT.LIB_ID (idx - 0x5110)) ∧
      s.us (Obj.PROGRAM_SLOT.LIB_ID (idx - 0x5110)) ≠ 0 then 0x0601
  else if !poolHolds s g idx then 0x0601
  else if (isPortGroup idx ∨ idx = 0x5000 ∨ (0x5110 ≤ idx ∧ idx < 0x5120)) ∧ !yardHolds s g then 0x0601
  else if (0x5300 ≤ idx ∧ idx < 0x5340) ∧ 65536 < condState g then 0x0601
  else if h : 0x5140 ≤ idx ∧ idx < 0x5200 then (if pitchPlaceable s ⟨idx - 0x5140, by omega⟩ then 0 else 0x0601)
  else 0

/-! ## APPLY: what takes effect at once -/

/-- The tone sets an APPLY judges (R108): the set itself, or those that a pipeline APPLY adds to DAS_SETS. -/
def State.judgeSets (s : State) (idx : Nat) (code : Nat) : State :=
  let g := groupReader s idx
  let n := groupPort idx
  let o := idx % 256
  let judge := fun (t : State) (k : Nat) =>
    if code = 0 ∨ toneFail g n k ≠ 0 then t.judgeSet n k g else t.put (Obj.TONE_PLAN.FAIL n k) 0
  if 0x3000 ≤ idx ∧ idx < 0x3800 ∧ 0x10 ≤ o ∧ o < 0x20 then judge s (o - 0x10)
  else if 0x3800 ≤ idx ∧ idx < 0x4000 ∧ o = 0 then
    (List.range 16).foldl (fun t k => if inDas g n k && !inDas s.u n k then judge t k else t) s
  else s

/-- The word rate of a port (R146) in words per second. On the TIME axis the table cycle takes its slots; on the others the
DAS entries of the cycle follow one another at the spacing of R50 (log entry 92). -/
def budget (g : Reg → Nat) (n : Port) : Nat :=
  let es := List.range (min 64 (g (Obj.SCHEDULER.TABLE_LEN n)))
  let das := (dasEntries g n).filter es.contains
  let words := fun (e : Nat) =>
    (12 + entryLast g n e (g (Obj.PIPELINE.DECIM n)) + 1 - entryFirst g n e (g (Obj.PIPELINE.DECIM n))).toNat
  let rep := fun (e : Nat) => max 1 (g (Obj.SHOT_ENTRY.REPEAT n e))
  if g (Obj.SCHEDULER.AXIS n) = 0 then
    let total := (das.map (fun e => rep e * words e)).sum
    let ticks := (es.map rep).sum * g (Obj.SCHEDULER.T_PERIOD n)
    if ticks = 0 then 0 else (freeRound ((total * ticksPerSecond : Nat) : Int) ticks).toNat
  else
    let trip := fun (e : Nat) => 2 * (g (Obj.SHOT_ENTRY.WIN_START n e) + g (Obj.SHOT_ENTRY.WIN_LEN n e)) + 3200
    let total := (das.map (fun e => rep e * words e)).sum
    let ticks := (das.map (fun e => rep e * trip e)).sum
    if ticks = 0 then 0 else (freeRound ((total * ticksPerSecond : Nat) : Int) ticks).toNat

/-- A library program is loaded into its slot (R202, R209). -/
def State.programApplied (s : State) (g : Fin 16) : State :=
  let id := s.us (Obj.PROGRAM_SLOT.LIB_ID g)
  let t := if id ≠ s.u (Obj.PROGRAM_SLOT.LIB_ID g) ∧ id ≠ 0 then (imageEff s g (libraryImage id) true).journal (2 + g.val) else s
  t.commit (0x5110 + g)

/-- The commit of an E port's group: a port that is down, at a rate no longer allowed, or under another FEC than the one set without Clause 73
(R346), begins again. -/
def State.ethApplied (s : State) (p : Fin 4) : State :=
  let t := s.commit (0x1100 + p)
  let e := t.eth[p]
  if !netUp t then t
  else if !t.eth[p].up then t.startUp p
  else if !(allowedRates t p).contains (t.u (Obj.ETH_PORT.RATE p)) || (!e.viaAn && fecUsed t p != t.u (Obj.ETH_PORT.FEC_USED p)) then
    t.linkDown p
  else t

/-- The commit of an interface's group (R348): a change of PRP_MODE takes both ports of the pair down. -/
def State.interfaceApplied (s : State) (k : Fin 2) : State :=
  let t := s.commit (0x1110 + k)
  if s.u (Obj.INTERFACE.PRP_MODE k) = t.u (Obj.INTERFACE.PRP_MODE k) ∨ !netUp t then t
  else (t.linkDown (Fin.ofNat 4 (2 * k.val))).linkDown (Fin.ofNat 4 (2 * k.val + 1))

/-- The commit of 1120h. -/
def State.ptpApplied (s : State) : State :=
  let t := s.commit 0x1120
  if s.u Obj.PTP.DOMAIN = t.u Obj.PTP.DOMAIN ∧ s.u Obj.PTP.TRANSPORT = t.u Obj.PTP.TRANSPORT then t else t.ptpRestart

/-- The commit of 6200h (R456): a change of DEVICE_ID or CLUSTER retrains every link, and the claim names the new ID (R450). -/
def State.aggonApplied (s : State) : State :=
  let t := s.commit 0x6200
  let again := s.u Obj.AGGON.DEVICE_ID != t.u Obj.AGGON.DEVICE_ID || s.u Obj.AGGON.CLUSTER != t.u Obj.AGGON.CLUSTER
  let t := if s.u Obj.AGGON.DEVICE_ID != t.u Obj.AGGON.DEVICE_ID && t.u Obj.TWIN.TWIN_EN == 1 then t.setClaim (ownPriority s) else t
  (overAll t (fun u k => u.relink k again)).clusterUpdate

/-- The commit of 6300h, with the links that become twin links or cease to be. -/
def State.pairApplied (s : State) : State := { s with twin := { s.twin with passed := [] } }.commitTwin.markTwinLinks

/-- 6300h has been applied (R456): it waits for the commit points of the ports it concerns. -/
def State.pairWaits (s : State) : State :=
  if (pairPorts s).isEmpty then s.pairApplied else { s with twin := { s.twin with passed := [] } }

/-- DB_LEN (R339): it waits for the ring's wrap; with DRAM_FAILED the ring keeps 65,536 entries at most (R338). -/
def State.bookApplied (s : State) : State :=
  let n := s.us Obj.DAYBOOK.DB_LEN
  { s with book := { s.book with staged := some (if s.dramFailed then min n 65536 else n) } }

/-- A group whose APPLY has passed takes effect, where nothing keeps it waiting. Groups of epoch sources, ports, the array, pitches, regions
and the record store wait for their boundaries. -/
def State.groupApplied (s : State) (idx : Nat) : State :=
  if h : 0x1100 ≤ idx ∧ idx < 0x1104 then s.ethApplied ⟨idx - 0x1100, by omega⟩
  else if h : 0x1110 ≤ idx ∧ idx < 0x1112 then s.interfaceApplied ⟨idx - 0x1110, by omega⟩
  else if idx = 0x1120 then s.ptpApplied
  else if idx = 0x1140 then s.canApplied
  else if 0x4000 ≤ idx ∧ idx < 0x4800 ∧ 0x10 ≤ idx % 256 ∧ idx % 256 < 0x18 then
    s.put (Obj.AVG_SET.MEM (groupPort idx) (idx % 256 - 0x10)) (ramanBytes (groupReader s idx) (groupPort idx) (idx % 256 - 0x10))
  else if idx < 0x2000 then s.commit idx
  else if idx = 0x2000 then s.commitClocks
  else if h : 0x2210 ≤ idx ∧ idx < 0x2218 then s.commitUnit ⟨idx - 0x2210, by omega⟩
  else if idx < 0x5110 then s
  else if h : 0x5110 ≤ idx ∧ idx < 0x5120 then s.programApplied ⟨idx - 0x5110, by omega⟩
  else if idx < 0x6000 then s
  else if h : 0x6000 ≤ idx ∧ idx < 0x6100 then s.streamApplied ⟨idx - 0x6000, by omega⟩
  else if idx = 0x6200 then s.aggonApplied
  else if idx = 0x6300 then s.pairWaits
  else if idx = 0x7000 then (if s.u Obj.SFE.CH_EN % 256 = 0 then s.sfeCommit else s)
  else if 0x7000 ≤ idx ∧ idx < 0x7400 then (if s.coasting then s else s.plantApplied idx)
  else if idx = 0x7F00 then s.bookApplied
  else s.commit idx

end Sys2Proof.Machine
end

