-- ==== Sys2Proof/Machine/Signature.lean ====
section
/-! DEFINITION. SHA-512 (FIPS 180-4) and Ed25519 verification (RFC 8032), as R512 and R524 use them (log entry 9). -/

namespace Sys2Proof.Machine

/-! ## SHA-512 -/

def longRounds : List (BitVec 64) :=
  [0x428a2f98d728ae22, 0x7137449123ef65cd, 0xb5c0fbcfec4d3b2f, 0xe9b5dba58189dbbc, 0x3956c25bf348b538] ++
  [0x59f111f1b605d019, 0x923f82a4af194f9b, 0xab1c5ed5da6d8118, 0xd807aa98a3030242, 0x12835b0145706fbe] ++
  [0x243185be4ee4b28c, 0x550c7dc3d5ffb4e2, 0x72be5d74f27b896f, 0x80deb1fe3b1696b1, 0x9bdc06a725c71235] ++
  [0xc19bf174cf692694, 0xe49b69c19ef14ad2, 0xefbe4786384f25e3, 0x0fc19dc68b8cd5b5, 0x240ca1cc77ac9c65] ++
  [0x2de92c6f592b0275, 0x4a7484aa6ea6e483, 0x5cb0a9dcbd41fbd4, 0x76f988da831153b5, 0x983e5152ee66dfab] ++
  [0xa831c66d2db43210, 0xb00327c898fb213f, 0xbf597fc7beef0ee4, 0xc6e00bf33da88fc2, 0xd5a79147930aa725] ++
  [0x06ca6351e003826f, 0x142929670a0e6e70, 0x27b70a8546d22ffc, 0x2e1b21385c26c926, 0x4d2c6dfc5ac42aed] ++
  [0x53380d139d95b3df, 0x650a73548baf63de, 0x766a0abb3c77b2a8, 0x81c2c92e47edaee6, 0x92722c851482353b] ++
  [0xa2bfe8a14cf10364, 0xa81a664bbc423001, 0xc24b8b70d0f89791, 0xc76c51a30654be30, 0xd192e819d6ef5218] ++
  [0xd69906245565a910, 0xf40e35855771202a, 0x106aa07032bbd1b8, 0x19a4c116b8d2d0c8, 0x1e376c085141ab53] ++
  [0x2748774cdf8eeb99, 0x34b0bcb5e19b48a8, 0x391c0cb3c5c95a63, 0x4ed8aa4ae3418acb, 0x5b9cca4f7763e373] ++
  [0x682e6ff3d6b2b8a3, 0x748f82ee5defb2fc, 0x78a5636f43172f60, 0x84c87814a1f0ab72, 0x8cc702081a6439ec] ++
  [0x90befffa23631e28, 0xa4506cebde82bde9, 0xbef9a3f7b2c67915, 0xc67178f2e372532b, 0xca273eceea26619c] ++
  [0xd186b8c721c0c207, 0xeada7dd6cde0eb1e, 0xf57d4f7fee6ed178, 0x06f067aa72176fba, 0x0a637dc5a2c898a6] ++
  [0x113f9804bef90dae, 0x1b710b35131c471b, 0x28db77f523047d84, 0x32caab7b40c72493, 0x3c9ebe0a15c9bebc] ++
  [0x431d67c49c100d4c, 0x4cc5d4becb3e42b6, 0x597f299cfc657e2a, 0x5fcb6fab3ad6faec, 0x6c44198c4a475817]

def longStart : List (BitVec 64) :=
  [0x6a09e667f3bcc908, 0xbb67ae8584caa73b, 0x3c6ef372fe94f82b, 0xa54ff53a5f1d36f1,
   0x510e527fade682d1, 0x9b05688c2b3e6c1f, 0x1f83d9abfb41bd6b, 0x5be0cd19137e2179]

/-- One round over the eight working words; a list of another length stays as it is. -/
def longRound (x : List (BitVec 64)) (kw : BitVec 64) : List (BitVec 64) :=
  match x with
  | [a, b, c, d, e, f, g, h] =>
    let s1 := e.rotateRight 14 ^^^ e.rotateRight 18 ^^^ e.rotateRight 41
    let t1 := h + s1 + ((e &&& f) ^^^ (~~~e &&& g)) + kw
    let s0 := a.rotateRight 28 ^^^ a.rotateRight 34 ^^^ a.rotateRight 39
    let t2 := s0 + ((a &&& b) ^^^ (a &&& c) ^^^ (b &&& c))
    [t1 + t2, a, b, c, d + t1, e, f, g]
  | l => l

/-- The message schedule: `n` more words, newest first. -/
def longSchedule : Nat → List (BitVec 64) → List (BitVec 64)
  | 0, w => w
  | n + 1, w =>
    let x := w.getD 1 0
    let y := w.getD 14 0
    let s1 := x.rotateRight 19 ^^^ x.rotateRight 61 ^^^ (x >>> 6)
    let s0 := y.rotateRight 1 ^^^ y.rotateRight 8 ^^^ (y >>> 7)
    longSchedule n ((s1 + w.getD 6 0 + s0 + w.getD 15 0) :: w)

def longBlock (x : List (BitVec 64)) (l : List Byte) : List (BitVec 64) :=
  let w := (List.range 16).map (fun i => BitVec.ofNat 64 (fromBig (slice l (8 * i) 8)))
  let y := (List.zipWith (fun k v => k + v) longRounds (longSchedule 64 w.reverse).reverse).foldl longRound x
  List.zipWith (fun p q => p + q) x y

def sha512 (l : List Byte) : List Byte :=
  let z := (239 - l.length % 128) % 128
  let m := l ++ [0x80#8] ++ List.replicate z 0 ++ bigEnd 16 (8 * l.length)
  let x := (List.range (m.length / 128)).foldl (fun v i => longBlock v (slice m (128 * i) 128)) longStart
  x.flatMap (fun v => bigEnd 8 v.toNat)

/-! ## The curve of Ed25519 -/

/-- The prime of the field, the order of the base point, and d of the curve −x² + y² = 1 + d x² y². -/
def fieldP : Nat := 2 ^ 255 - 19
def groupL : Nat := 2 ^ 252 + 27742317777372353535851937790883648493

def powMod : Nat → Nat → Nat → Nat → Nat
  | 0, _, _, _ => 1
  | f + 1, p, b, e =>
    if e = 0 then 1
    else
      let h := powMod f p (b * b % p) (e / 2)
      if e % 2 = 1 then h * b % p else h

def fieldInv (x : Nat) : Nat := powMod 256 fieldP x (fieldP - 2)

def fieldSub (a b : Nat) : Nat := (a + fieldP - b % fieldP) % fieldP

def curveD : Nat := fieldSub 0 (121665 * fieldInv 121666 % fieldP)

/-- A point in extended homogeneous coordinates (RFC 8032, 5.1.4). -/
structure EdPoint where
  x : Nat
  y : Nat
  z : Nat
  t : Nat
deriving DecidableEq, Repr

def EdPoint.zero : EdPoint := ⟨0, 1, 1, 0⟩

def EdPoint.sum (p q : EdPoint) : EdPoint :=
  let a := fieldSub p.y p.x * fieldSub q.y q.x % fieldP
  let b := (p.y + p.x) * (q.y + q.x) % fieldP
  let c := 2 * p.t * q.t * curveD % fieldP
  let d := 2 * p.z * q.z % fieldP
  let e := fieldSub b a
  let f := fieldSub d c
  let g := (d + c) % fieldP
  let h := (b + a) % fieldP
  ⟨e * f % fieldP, g * h % fieldP, f * g % fieldP, e * h % fieldP⟩

/-- The multiple of a point. -/
def EdPoint.times : Nat → Nat → EdPoint → EdPoint
  | 0, _, _ => .zero
  | f + 1, k, p =>
    if k = 0 then .zero
    else
      let h := EdPoint.times f (k / 2) (p.sum p)
      if k % 2 = 1 then h.sum p else h

def EdPoint.same (p q : EdPoint) : Bool :=
  p.x * q.z % fieldP == q.x * p.z % fieldP && p.y * q.z % fieldP == q.y * p.z % fieldP

/-- The x coordinate of a point from its y and the low bit of x (RFC 8032, 5.1.3). -/
def recoverX (y sign : Nat) : Option Nat :=
  if fieldP ≤ y then none
  else
    let x2 := fieldSub (y * y) 1 * fieldInv ((curveD * y * y + 1) % fieldP) % fieldP
    if x2 = 0 then (if sign = 1 then none else some 0)
    else
      let x := powMod 256 fieldP x2 ((fieldP + 3) / 8)
      let x := if x * x % fieldP = x2 then x else x * powMod 256 fieldP 2 ((fieldP - 1) / 4) % fieldP
      if x * x % fieldP ≠ x2 then none
      else some (if x % 2 = sign then x else fieldP - x)

/-- A point from its 32 bytes. -/
def edDecode (l : List Byte) : Option EdPoint :=
  let v := fromLe (padTo 32 l)
  let y := v % 2 ^ 255
  (recoverX y (v / 2 ^ 255)).map (fun x => ⟨x, y, 1, x * y % fieldP⟩)

/-- The base point: y = 4 / 5, x even. -/
def edBase : EdPoint := (edDecode (le 32 (4 * fieldInv 5 % fieldP))).getD .zero

/-- Whether a 64-byte signature over a message verifies under a public key (RFC 8032, 5.1.7), with the cofactor. -/
def ed25519 (key msg sig : List Byte) : Bool :=
  let s := fromLe (slice sig 32 32)
  match edDecode key, edDecode (sig.take 32) with
  | some a, some r =>
    let k := fromLe (sha512 (sig.take 32 ++ padTo 32 key ++ msg)) % groupL
    sig.length == 64 && decide (s < groupL) &&
      ((edBase.times 256 s).times 4 8).same ((r.sum (a.times 256 k)).times 4 8)
  | _, _ => false

end Sys2Proof.Machine
end

