-- ==== Sys2Proof/Machine/Boot.lean ====
section
/-! DEFINITION. Resets (R503, R504), clerk restarts (R505), bring-up (R507 to R509), firmware banks (R510 to R516), temperature and rails
(R517, R518) and zeroize (R519 to R521). -/

namespace Sys2Proof.Machine

def State.modBoot (s : State) (f : BootPart → BootPart) : State := { s with boot := f s.boot }

/-- A flag that an event sets, with the event's entry: SET where the flag was clear, else INFO (R540). -/
def State.markFlag (s : State) (r : Reg) (b : Nat) (sub : Nat) (inst : Nat := 0xFF) : State :=
  let t := s.setBit r b
  t.log { cls := if s.bit r b then 0 else 1, sub := sub, inst := inst, index := r.key / 256, osub := r.key % 256, bit := b, detail := t.u r }

/-! ## Resets (R503, R504) -/

/-- The registers that a reset leaves: the silicon's number, MAC addresses, RESETS. -/
def keptReg (k : Nat) : Bool :=
  [Obj.IDENTITY.SILICON, Obj.INTERFACE.MAC 0, Obj.INTERFACE.MAC 1, Obj.HEALTH.RESETS].any (fun r => r.key == k)

/-- The SEQ that follows the last entry held in flash (R414). -/
def nextSeqOf (cells : List DbEntry) : BitVec 32 :=
  match cells.getLast? with
  | some e => e.seq + 1
  | none => 0

/-- The part of bring-up and security that outlives a reset: banks, the boot record, fuses, the key store's pending bit, the TAP. -/
def BootPart.kept (b : BootPart) (held : Bool) : BootPart :=
  { banks := b.banks, confirmed := b.confirmed, trialBank := b.trialBank, revoked := b.revoked, rollback := b.rollback, zeroize := b.zeroize,
    tap := b.tap, held := held }

/-- Every part of the device is reset: the flash, the fuses, the key store, the level of OVEN_RDY (R287) and what the block has sent stay. -/
def State.cleared (s : State) (held : Bool) : State :=
  { regs := s.regs.filter (fun e => keptReg e.1), blobs := s.blobs.filter (fun e => e.1 == Obj.IDENTITY.SERIAL),
    ledger := { keys := s.ledger.keys }, book := { cells := s.book.cells, seq := nextSeqOf s.book.cells },
    flash := { journals := s.flash.journals.map (fun j => { j with job := none, began := none }) }, clk := { ovenLow := s.clk.ovenLow },
    boot := s.boot.kept held, out := s.out, fresh := s.fresh, pending := s.pending }

/-- One reset with its cause. -/
def State.resetOnce (s : State) (cause : Nat) : State :=
  let t := (s.cleared (cause == 1)).bump Obj.HEALTH.RESETS
  let t := (t.put Obj.HEALTH.RESET_CAUSE cause).put Obj.HEALTH.ROLLBACK s.boot.rollback
  let t := t.putBit Obj.HEALTH.FLAGS Bit.HEALTH.FLAGS.THERM_TRIPPED (cause == 1)
  t.putBit Obj.HEALTH.FLAGS Bit.HEALTH.FLAGS.ZEROIZE_PENDING s.boot.zeroize

/-- The keys are erased: slot 0 returns to its commissioning key (R520 step 1). -/
def State.eraseKeys (s : State) : State := { s with ledger := { s.ledger with keys := [(0, Config.commissioningKey)] } }

/-- A reset; a zeroize still pending begins anew with its step 1 (R521). -/
def State.resetTo (s : State) (cause : Nat) : State :=
  if s.boot.zeroize ∧ cause ≠ 3 then (s.resetOnce cause).eraseKeys.resetOnce 3 else s.resetOnce cause

/-- PORST_N: power-on. -/
def execPorstN (s : State) : Result := .next (s.resetTo 0)

/-- SRST_N. -/
def execSrstN (s : State) : Result := .next (s.resetTo 4)

/-- SUPPLY_RESET. -/
def execSupplyReset (s : State) : Result := .next (s.resetTo 2)

/-- THERMAL_RESET: the reset holds until every die is at 110 °C or below. -/
def execThermalReset (s : State) : Result := .next (s.resetTo 1)

/-- The effect of a write of RESET, after its response: 1 resets. -/
def resetEff (s : State) (v : Nat) : State := if v = 1 then s.resetTo 5 else s

/-- Zeroize (R520 steps 1 and 2). -/
def State.zeroizeNow (s : State) : State := ((s.modBoot (fun b => { b with zeroize := true })).eraseKeys).resetTo 3

/-- ZEROIZE_PIN: it acts in every state of the device. -/
def execZeroizePin (s : State) : Result := .next s.zeroizeNow

/-- SERIAL_CRC of R520. -/
def serialCrc (s : State) : Nat := (crc32c (s.blob Obj.IDENTITY.SERIAL)).toNat

/-! ## Firmware images and banks (R510 to R515) -/

def fwField (l : List Byte) (off n : Nat) : Nat := fromLe (slice l off n)

def fwVersion (l : List Byte) : Nat := fwField l 8 4
def fwRollback (l : List Byte) : Nat := fwField l 12 4

/-- Whether an image's key and rollback count pass the fuses (R512 checks 3 and 4). -/
def fusesPass (s : State) (l : List Byte) : Bool :=
  !(s.boot.revoked.toNat.testBit (fwField l 6 1)) && decide (s.boot.rollback ≤ fwRollback l)

/-- The code of R512; 0 where every check passes. -/
def fwCheck (s : State) (l : List Byte) : Nat :=
  let digest := slice l 24 64
  if fwField l 0 4 ≠ 0x46524457 ∨ fwField l 4 2 ≠ 1 ∨ l.length ≠ 256 + fwField l 20 4 ∨ 16777216 < l.length then 1
  else if s.u Obj.IDENTITY.SILICON < fwField l 16 2 then 2
  else if 4 ≤ fwField l 6 1 ∨ s.boot.revoked.toNat.testBit (fwField l 6 1) then 3
  else if fwRollback l < s.boot.rollback then 4
  else if sha512 (l.take 24 ++ l.drop 256) ≠ digest then 5
  else if !ed25519 (Config.signingKey (fwField l 6 1)) digest (slice l 88 64) then 6
  else 0

def otherBank (b : Fin 2) : Fin 2 := 1 - b

/-- Whether a bank passes at boot: found valid when it was programmed, and not barred by fuses since (log entry 27). -/
def bankGood (s : State) (b : Fin 2) : Bool := s.boot.banks[b].valid && fusesPass s s.boot.banks[b].image

def State.putBank (s : State) (b : Fin 2) (x : BankPart) : State := s.modBoot (fun p => { p with banks := p.banks.set b x })

/-- BANK_STATE of one bank. -/
def bankState (s : State) (b : Fin 2) : Nat :=
  if s.boot.banks[b].image.isEmpty then 0
  else if !s.boot.banks[b].valid then 2
  else if (s.boot.trial && s.boot.inUse == b) || s.boot.trialBank == some b then 3
  else if s.boot.confirmed = b then 4
  else 1

/-- FIRMWARE, BANK_IN_USE, the banks' versions and states, TRIAL and ROLLBACK. -/
def State.bankFigures (s : State) : State :=
  let ver := fun (b : Fin 2) => fwVersion s.boot.banks[b].image
  let t := (s.put Obj.HEALTH.BANK_A_VER (ver 0)).put Obj.HEALTH.BANK_B_VER (ver 1)
  let t := t.put Obj.HEALTH.BANK_STATE (bankState s 0 + 256 * bankState s 1)
  let t := (t.put Obj.HEALTH.BANK_IN_USE s.boot.inUse).put Obj.HEALTH.ROLLBACK s.boot.rollback
  t.putBit Obj.HEALTH.FLAGS Bit.HEALTH.FLAGS.TRIAL s.boot.trial

/-- The bank in use gives its version. -/
def State.takeFirmware (s : State) : State :=
  (s.put Obj.IDENTITY.FIRMWARE (fwVersion s.boot.banks[s.boot.inUse].image)).bankFigures

/-- A trial is confirmed (R515): the boot record, the rollback fuses, TRIAL. -/
def State.confirmTrial (s : State) : State :=
  if !s.boot.trial then s
  else
    let r := max s.boot.rollback (min 64 (fwRollback s.boot.banks[s.boot.inUse].image))
    (s.modBoot (fun b => { b with confirmed := b.inUse, rollback := r, trial := false, trialLive := false })).bankFigures

/-- The effect of a write of CONFIRM. -/
def confirmEff (s : State) (v : Nat) : State := if v = 1 then s.confirmTrial else s

/-- The clerks restart on a bank without a reset (R506, R514). -/
def State.liveTo (s : State) (b : Fin 2) (trial : Bool) : State :=
  (s.modBoot (fun p =>
    { p with inUse := b, restarting := true, switching := false, trial := trial, trialLive := trial })).takeFirmware

/-- A live switch that waits goes on once no journal write is in progress. -/
def State.switchCheck (s : State) : State :=
  if s.boot.switching ∧ s.flash.journals.toList.all (fun j => j.job.isNone) then s.liveTo (otherBank s.boot.inUse) true else s

/-- FLASH_OPERATION_END (R497, R500, R514). -/
def execFlashOperationEnd (j : Fin 18) (ok : Bool) (s : State) : Result := .next (s.flashEnd j ok).switchCheck

/-- The refusal of a write of SWITCH (R514); in RECOVERY no firmware is in use for a live switch to match. -/
def switchCode (s : State) (v : Nat) : Nat :=
  let b := otherBank s.boot.inUse
  if !bankGood s b then 0x0302
  else if v = 1 ∧ (s.u Obj.HEALTH.BOOT_STATE = 4 ∨
      fwVersion s.boot.banks[b].image / 2 ^ 24 ≠ s.u Obj.IDENTITY.FIRMWARE / 2 ^ 24) then 0x0302
  else 0

/-- The effect of SWITCH, after its response: 1 live, 2 with reset. -/
def switchEff (s : State) (v : Nat) : State :=
  if v = 1 then (s.modBoot (fun b => { b with switching := true })).switchCheck
  else if v = 2 then (s.modBoot (fun b => { b with trialBank := some (otherBank b.inUse) })).resetTo 5
  else s

/-- A trial that fails (R515): back to the confirmed bank, live or by a reset with cause FW_TRIAL. -/
def State.trialFails (s : State) : State := if s.boot.trialLive then s.liveTo s.boot.confirmed false else s.resetTo 7

/-- TRIAL_TIMEOUT: TRIAL_S has passed without confirmation. -/
def execTrialTimeout (s : State) : Result :=
  .next (if s.boot.trial ∧ s.u Obj.HEALTH.TRIAL_S ≠ 0 then s.trialFails else s)

/-- Whether a write of FW_IMAGE is refused with 0401h (R513). -/
def fwBusy (s : State) : Bool := s.boot.programming.isSome || s.boot.trial

/-- A whole image has come (R513, R338): it is checked, and one that passes is programmed into the bank not in use. -/
def fwImageEff (s : State) (l : List Byte) : State × Nat :=
  let b := otherBank s.boot.inUse
  let c := fwCheck s l
  if c ≠ 0 then
    let t := if s.dramFailed then s.putBank b ⟨l, false⟩ else s
    ((t.put Obj.HEALTH.FW_STATUS c).bankFigures, 0x0301)
  else
    (((s.putBank b ⟨l, false⟩).modBoot (fun p => { p with programming := some l })).put Obj.HEALTH.FW_STATUS 8 |>.bankFigures, 0)

/-- FW_PROGRAMMING_END (R513): the bank is programmed and verified. -/
def execFwProgrammingEnd (s : State) : Result :=
  .next (match s.boot.programming with
  | none => s
  | some l =>
    let t := (s.putBank (otherBank s.boot.inUse) ⟨l, true⟩).modBoot (fun p => { p with programming := none })
    (t.put Obj.HEALTH.FW_STATUS 0).bankFigures)

/-! ## Clerk restarts (R505, R506) -/

/-- A clerk restart (R504, R505, R515): the fourth within 600 s resets the device, one during a trial ends it. -/
def State.clerkRestart (s : State) : State :=
  if !s.boot.clerks ∨ s.boot.restarting then s
  else
    let l := s.boot.restarts.filter (fun e => decide ((s.now : Int) < e + 600 * ticksPerSecond)) ++ [(s.now : Int)]
    let t := (s.bump Obj.HEALTH.CLERK_RESTARTS).setBit Obj.HEALTH.FLAGS Bit.HEALTH.FLAGS.CLERK_RESTART
    let t := t.log { cls := 5, sub := 26, index := 0x7A00, osub := 0x0D, detail := t.u Obj.HEALTH.CLERK_RESTARTS }
    let t := t.modBoot (fun b => { b with restarts := l })
    if 4 ≤ l.length then t.resetTo 6
    else if t.boot.trial then t.trialFails
    else t.modBoot (fun b => { b with restarting := true })

/-- LOCKSTEP_MISMATCH. -/
def execLockstepMismatch (s : State) : Result :=
  .next (if !s.boot.clerks ∨ s.boot.restarting then s else (s.bump Obj.HEALTH.LOCKSTEP_ERR).clerkRestart)

/-- WATCHDOG_EXPIRY: a halt of the clerks suspends their watchdog (R527). -/
def execWatchdogExpiry (s : State) : Result := .next (if s.boot.halted then s else s.clerkRestart)

/-- CLERK_POISON_READ (R323, R506): while the clerks run. -/
def execClerkPoisonRead (s : State) : Result :=
  .next (if !s.boot.clerks ∨ s.boot.restarting then s else (s.bump Obj.MEMORY.POISON_SEEN).clerkRestart)

/-- CLERK_RESTART_END: the clerks answer again; a trial with TRIAL_S 0 confirms itself once BOOT_STATE reads RUN (R515). -/
def execClerkRestartEnd (s : State) : Result :=
  .next (if !s.boot.restarting then s
  else
    let t := s.modBoot (fun b => { b with restarting := false })
    if t.u Obj.HEALTH.TRIAL_S = 0 ∧ t.u Obj.HEALTH.BOOT_STATE = 3 then t.confirmTrial else t)

/-! ## Bring-up: the loader (R498, R507 steps 3 and 4, R520) -/

/-- Whether reset is held, for temperature or by the TAP (R504, R522). -/
def resetHeld (s : State) : Bool := s.boot.held || s.boot.tap == .extest || s.boot.tap == .clamp

/-- A journal's values are taken; the keys of hidden trims and images are none of the Ledger's. -/
def State.takeJournal (s : State) (j : Fin 18) : State :=
  let x := s.flash.journals[j]
  if !x.valid then s.markFlag Obj.FLASH.FLAGS Bit.FLASH.FLAGS.JOURNAL_EMPTY 25
  else if j.val < 2 then
    { s with regs := x.data.regs.foldl (fun l e => rfSet l e.1 e.2) s.regs,
             blobs := (x.data.blobs.filter (fun e => decide (e.1 < hiddenTrim 0))).foldl (fun l e => blobSet l e.1 e.2) s.blobs }
  else s

/-- The trims that no Ledger object shows, from journal 0. -/
def State.takeHidden (s : State) : State :=
  let d := s.flash.journals[(0 : Fin 18)].data.blobs
  { s with cal := s.cal.mapIdx (fun i c => { c with inForce := (blobOf d (hiddenTrim i)).getD [] }) }

/-- What follows from journalled values: the day book ring's length, the crystal's trim, the references, the encoder's index mode and the
twin, which starts as STARTING (R36, R291, R339, R508). -/
def State.takeValues (s : State) : State :=
  let trim := s.i Obj.CLOCKS.XTAL_TRIM
  let t := { s with book := { s.book with len := s.u Obj.DAYBOOK.DB_LEN },
                    clk := { s.clk with trimSaved := trim, trimDaily := trim },
                    enc := { s.enc with zeroNext := s.u Obj.AXIS_CONFIG.ENC_INDEX == 2 } }
  let t := (t.refFlags).serdesFlag
  if t.u Obj.TWIN.TWIN_EN = 1 then t.takeRole 0 0 else t

/-- Boot record and journals are read. -/
def State.loadJournals (s : State) : State :=
  let t := overAll s State.takeJournal
  let t := if s.flash.journals[(0 : Fin 18)].valid then
      overAll t.takeHidden (fun u (n : Port) => u.put (Obj.RX_TRIMS.SOURCE n) 1)
    else t
  let js := s.flash.journals
  let seqOf := fun (j : Fin 18) => if js[j].valid then js[j].seq.toNat else 0
  let t := (t.put Obj.FLASH.CAL_SEQ (seqOf 0)).put Obj.FLASH.LEDGER_SEQ (seqOf 1)
  let t := overAll t (fun u (j : Fin 18) => if js[j].valid ∧ js[j].slot = 1 then u.setBit Obj.FLASH.BOOT_SLOTS j else u)
  let m := (js.toList.flatMap (·.erases)).foldl max 0
  let t := (t.put Obj.FLASH.ERASE_MAX m).putBit Obj.FLASH.FLAGS Bit.FLASH.FLAGS.WEAR_ALERT (decide (80000 < m))
  (t.modBoot (fun b => { b with loader := true })).takeValues

/-- LOADER_START (R507 steps 3 and 4): while a zeroize is pending the loader first erases journals. -/
def execLoaderStart (s : State) : Result :=
  .next (if s.u Obj.HEALTH.BOOT_STATE ≠ 0 ∨ resetHeld s then s
  else
    let t := s.put Obj.HEALTH.BOOT_STATE 1
    if t.boot.zeroize then t else t.loadJournals)

/-- An erased journal keeps the count of its erases. -/
def JournalPart.erased (j : JournalPart) : JournalPart := { erases := j.erases.map (· + 1) }

/-- ZEROIZE_ERASE_END (R520 steps 3 and 4): journals 1 to 17 are erased and bring-up continues. -/
def execZeroizeEraseEnd (s : State) : Result :=
  .next (if !s.boot.zeroize ∨ s.u Obj.HEALTH.BOOT_STATE ≠ 1 ∨ s.boot.loader then s
  else
    let t := overAll s (fun u (j : Fin 18) => if j = 0 then u else u.modJournal j JournalPart.erased)
    ((t.modBoot (fun b => { b with zeroize := false })).clrBit Obj.HEALTH.FLAGS Bit.HEALTH.FLAGS.ZEROIZE_PENDING).loadJournals)

/-! ## Bring-up: the clerks (R507 step 5, R512, R515, R516) -/

/-- The bank the loader chooses and whether it runs in trial. -/
def bankChoice (s : State) : Option (Fin 2 × Bool) :=
  let b := s.boot.trialBank.getD s.boot.confirmed
  if bankGood s b then some (b, s.boot.trialBank.isSome)
  else if bankGood s (otherBank b) then some (otherBank b, false)
  else none

/-- CLERKS_START: the chosen bank runs, and the clock and the links start; with no good bank the device stays in RECOVERY. -/
def execClerksStart (s : State) : Result :=
  .next (if s.u Obj.HEALTH.BOOT_STATE ≠ 1 ∨ !s.boot.loader then s
  else match bankChoice s with
  | none => ((s.put Obj.HEALTH.BOOT_STATE 4).bankFigures).startEthernet
  | some c =>
    let t := (s.modBoot (fun b => { b with clerks := true, inUse := c.1, trial := c.2, trialBank := none })).takeFirmware
    let t := (t.put Obj.HEALTH.BOOT_STATE 2).put Obj.PTP.PTP_STATE 1
    let t := t.log { cls := 6, sub := 26, index := 0x7A00, osub := 3, detail := t.u Obj.HEALTH.RESET_CAUSE }
    overAll t (fun u k => u.relink k false))

/-! ## Bring-up: memory and network (R332, R336, R507 steps 7 to 9) -/

/-- Step 9: the network starts and the Ledger answers; plant groups take their journalled values. -/
def State.serveNow (s : State) : State :=
  let t := (s.modBoot (fun b => { b with served := true })).startEthernet
  t.plantBegins.plantTurn.canFlush

/-- A channel that has trained: its failed lanes take spares, and more than 7 fail the channel (R332); its rate is that of the root (R330). -/
def State.trainedChannel (s : State) (c : Fin 2) (capacity : Nat) (failed : List Nat) : State :=
  let t := (s.modBoot (fun b => { b with trained := c.val :: b.trained })).put (Obj.DRAM_CHANNEL.CAPACITY c) capacity
  let map := fromLe ((failed.take 7).map (BitVec.ofNat 8) ++ List.replicate (7 - failed.length) 0xFF)
  let t := (t.put (Obj.DRAM_CHANNEL.REPAIR_MAP c) map).put (Obj.DRAM_CHANNEL.SPARES_FREE c) (7 - failed.length)
  if 7 < failed.length then (t.put (Obj.DRAM_CHANNEL.STATE c) 4).modDram c (fun d => { d with trained := true, failed := true })
  else
    ((t.put (Obj.DRAM_CHANNEL.RATE c) (if s.coasting then 2560 else 3200)).modDram c (fun d => { d with trained := true })).channelState c

/-- Both channels have trained: without usable DRAM step 8 is skipped (R509). -/
def State.trainingDone (s : State) : State :=
  if s.boot.trained.length < 2 ∨ !(s.dram[0].failed || s.dram[1].failed) then s
  else
    let t := s.setBit Obj.MEMORY.FLAGS Bit.MEMORY.FLAGS.DRAM_FAILED
    ({ t with book := { t.book with len := min t.book.len 65536 } }).serveNow

/-- DRAM_TRAINING_END. -/
def execDramTrainingEnd (c : Fin 2) (capacity : Nat) (failed : List Nat) (s : State) : Result :=
  .next (if s.u Obj.HEALTH.BOOT_STATE ≠ 2 ∨ s.boot.served ∨ s.boot.trained.contains c.val then s
  else (s.trainedChannel c capacity failed.eraseDups).trainingDone)

/-- DRAM_CLEAR_END (R507 steps 8 and 9): every DRAM word holds zeros. -/
def execDramClearEnd (s : State) : Result :=
  .next (if s.u Obj.HEALTH.BOOT_STATE ≠ 2 ∨ s.boot.served ∨ s.boot.trained.length < 2 then s
  else (s.clearWords dramBase (fitted s)).serveNow)

/-! ## Bring-up: placing (R507 steps 10 and 11, R508, R509) -/

/-- A program slot is restored from its journal (R202, R509): an image that fails its checks leaves the slot empty. -/
def State.restoreSlot (s : State) (g : Fin 16) : State :=
  let x := s.flash.journals.toList.getD (g.val + 2) {}
  let l := (blobOf x.data.blobs imageKey).getD []
  if !x.valid ∨ l.isEmpty then s
  else if imageGood l then
    let t := imageEff s g l (s.u (Obj.PROGRAM_SLOT.LIB_ID g) != 0)
    let t := t.put (Obj.PROGRAM_SLOT.YARD_ALLOC g) (max (s.u (Obj.PROGRAM_SLOT.YARD_ALLOC g)) (t.u (Obj.PROGRAM_SLOT.YARD_ALLOC g)))
    t.put (Obj.PROGRAM_SLOT.DRAM_ALLOC g) (max (s.u (Obj.PROGRAM_SLOT.DRAM_ALLOC g)) (t.u (Obj.PROGRAM_SLOT.DRAM_ALLOC g)))
  else s.put (Obj.PROGRAM_SLOT.LOAD_STATUS g) 0x0301

/-- The figures of a tone set at start-up (R83, R84). -/
def State.restoreTones (s : State) (n : Port) (k : Nat) : State :=
  if (tonesOn s.u n k).isEmpty then s else s.putFigures n k (crestResult s.u n k)

/-- A port's branch state, averaging buffers and spectrum are placed in DRAM. -/
def State.placeDram (s : State) (n : Port) : State :=
  let t := s.modPipe n (fun p => { p with stateBytes := branchBytes s.u n })
  let t := overAll t (fun u (a : Fin 8) => (u.modSet n a (fun x => { x with bytes := ramanBytes u.u n a })).put (Obj.AVG_SET.MEM n a) (ramanBytes u.u n a))
  t.allocSpectrum n

/-- A port's rings and, where there is DRAM (R336), its areas in it are placed, and its tone sets judged. -/
def State.placePort (s : State) (n : Port) : State :=
  let t := (List.range 16).foldl (fun u k => u.restoreTones n k) s
  let t := (List.range 16).foldl (fun u k => if inDas u.u n k then u.judgeSet n k u.u else u) t
  let t := t.modPort n (fun p => { p with configured := t.u (Obj.SCHEDULER.ENABLE n) == 1 })
  let t := t.modPipe n (fun p => { p with ringLen := t.u Obj.ARRAY.RING_SHOTS })
  let t := if t.dramFailed then t else t.placeDram n
  t.modBril n (fun b => { b with program := sweepProgram t n })

/-- A region takes its awning's length, and is armed as its journal has it; without DRAM it has no awning to arm (R336). -/
def State.placeRegion (s : State) (r : Fin 64) : State :=
  let t := s.modRegion r (fun x => { x with len := s.u (Obj.REGION.AWN_SHOTS r) })
  let t := if s.u (Obj.REGION.ARM_MODE r) = 0 ∨ s.dramFailed then t else t.armRegion r (s.u (Obj.REGION.ARM_MODE r))
  t.putShallow r

/-- An enabled pitch is placed in a stall (R206). -/
def State.placePitch (s : State) (k : Fin 192) : State :=
  if s.u (Obj.PITCH.ENABLE k) ≠ 1 ∨ s.programs[pitchSlot s k].image.isEmpty ∨ s.dramFailed then s
  else match stallFor s k with
    | some d => s.startStall d (pitchSlot s k) (s.stalls[d].pitches ++ [k])
    | none => s

/-- An enabled stream opens (R361). -/
def State.placeStream (s : State) (k : Fin 256) : State :=
  if s.u (Obj.STREAM.ENABLE k) = 1 ∧ !s.streams[k].isOpen then s.openStream k {} else s

/-- Program slots, rings, regions, pitches and streams are placed. -/
def State.placeAll (s : State) : State :=
  let t := if s.dramFailed then s else overAll s State.restoreSlot
  let t := overAll t State.placePort
  let t := overAll t State.placeRegion
  let t := t.put Obj.CAPTURE.COND_POINTS (condPoints t)
  let t := (overAll t State.placePitch).countUsers.countStalls
  overAll t State.placeStream

/-- SCHEDULER_START (R507 step 11, R515): BOOT_STATE reads RUN, and a trial with TRIAL_S 0 confirms itself. -/
def execSchedulerStart (s : State) : Result :=
  .next (if s.u Obj.HEALTH.BOOT_STATE ≠ 2 ∨ !s.boot.served then s
  else
    let t := (s.placeAll.put Obj.HEALTH.BOOT_STATE 3).drawn
    let t := t.put Obj.HEALTH.BOOT_TIME (Config.measured (t.fresh - 1))
    if t.u Obj.HEALTH.TRIAL_S = 0 then t.confirmTrial else t)

/-! ## Temperature and rails (R504, R517, R518) -/

/-- T_MAX: the highest since it was read, or the first reading after reset. -/
def tMaxOf (s : State) (v : Int) : Int :=
  if s.regs.any (fun e => e.1 == Obj.HEALTH.T_MAX.key) then max (s.i Obj.HEALTH.T_MAX) v else v

/-- TEMPERATURE_READ, in 0.1 °C: THERM_WARN has 5 °C of hysteresis, and a thermal reset lets go at 110 °C. -/
def execTemperatureRead (digital analogue flash : Int) (s : State) : Result :=
  let hi := max digital (max analogue flash)
  let t := ((s.puti Obj.HEALTH.T_DIGITAL digital).puti Obj.HEALTH.T_ANALOGUE analogue).puti Obj.HEALTH.T_FLASH flash
  let t := t.puti Obj.HEALTH.T_MAX (tMaxOf s hi)
  let t := if hi ≤ 1100 then t.modBoot (fun b => { b with held := false }) else t
  let w := s.i Obj.HEALTH.T_WARN
  .next (if w ≤ hi then t.logFlag Obj.HEALTH.FLAGS Bit.HEALTH.FLAGS.THERM_WARN true 26
    else if hi < w - 50 then t.logFlag Obj.HEALTH.FLAGS Bit.HEALTH.FLAGS.THERM_WARN false 26
    else t)

/-- A read of T_MAX restarts it at the hottest die's last reading (R528). -/
def State.restartTMax (s : State) : State :=
  s.puti Obj.HEALTH.T_MAX (max (s.i Obj.HEALTH.T_DIGITAL) (max (s.i Obj.HEALTH.T_ANALOGUE) (s.i Obj.HEALTH.T_FLASH)))

/-- RAIL_OVERVOLTAGE. -/
def execRailOvervoltage (rails : BitVec 32) (s : State) : Result :=
  let t := s.put Obj.HEALTH.RAIL_OV (s.u Obj.HEALTH.RAIL_OV ||| railMask rails)
  .next (t.markFlag Obj.HEALTH.FLAGS Bit.HEALTH.FLAGS.OV 26)

end Sys2Proof.Machine
end

