-- ==== Sys2Proof/Machine/Flow.lean ====
section
/-! DEFINITION. The flow instructions of a stall (R236 to R241, R245, R246, R254). -/

namespace Sys2Proof.Machine

/-- The target of a jump: the own word address plus OFF14 (R237). -/
def target (x : Stall) (off : BitVec 14) : BitVec 13 := x.pc + (off.setWidth 13)

/-- A taken BR or BCC (R237, R241). -/
def branchTo (t : StallId) (x : Stall) (a : BitVec 13) (s : State) : StallOut :=
  { st := s.modStall t (fun y => { y with loops := endLoops x a }), flow := .jump a }

/-- BR (R237). -/
def execBr (t : StallId) (off : BitVec 14) (s : State) : Result := s.issue t true (fun s x => branchTo t x (target x off) s)

/-- The conditions of R254. -/
def condition (cc : BitVec 3) (a b : BitVec 24) : Bool :=
  match cc.toNat with
  | 0 => a == b
  | 1 => a != b
  | 2 => a.slt b
  | 3 => !a.slt b
  | 4 => a.ult b
  | 5 => !a.ult b
  | 6 => a == 0
  | _ => a != 0

/-- BCC (R237, R254). -/
def execBcc (t : StallId) (pa pb : Fin 16) (cc : BitVec 3) (off : BitVec 14) (s : State) : Result :=
  s.issue t true (fun s x =>
    if condition cc (x.getP pa) (x.getP pb) then branchTo t x (target x off) s else { st := s })

/-- CALL (R238): a push onto a full stack raises STACK. -/
def execCall (t : StallId) (off : BitVec 14) (s : State) : Result :=
  s.issue t true (fun s x =>
    if 8 ≤ x.rets.length then trapOut s causeStack
    else { st := s.modStall t (fun y => { y with rets := (x.pc + 1) :: y.rets }), flow := .jump (target x off) })

/-- A pop of the return stack, with the loop levels it ends (R241). -/
def popTo (t : StallId) (f : Stall → Stall) (s : State) (x : Stall) : StallOut :=
  match x.rets with
  | [] => trapOut s causeStack
  | a :: r =>
    { st := s.modStall t (fun y => { f y with rets := r, loops := y.loops.filter (fun l => decide (l.depth ≤ r.length)) }),
      flow := .jump a }

/-- RET (R238, R241). -/
def execRet (t : StallId) (s : State) : Result := s.issue t true (popTo t (fun y => y))

/-- TRAPRET (R246): ILLEGAL outside a handler. -/
def execTrapret (t : StallId) (s : State) : Result :=
  s.issue t true (fun s x => if x.masked then popTo t (fun y => { y with masked := false }) s x else trapOut s causeIllegal)

/-- The passes a LOOP makes (R239). -/
def loopCount (x : Stall) (src : Bool) (cnt : BitVec 12) : Nat :=
  if src then (x.getP ⟨cnt.toNat / 256, by have := cnt.isLt; omega⟩).toNat else if cnt = 0 then 4096 else cnt.toNat

/-- Whether a LOOP may be issued (R240). -/
def loopLegal (x : Stall) (last : Nat) (body : BitVec 12) : Bool :=
  body != 0 && decide (x.loops.length < 2) &&
  (match x.loops with
    | l :: _ => !(l.depth == x.rets.length) || decide (last < l.last)
    | [] => true)

/-- LOOP (R239, R240). -/
def execLoop (t : StallId) (rot src : Bool) (cnt body : BitVec 12) (s : State) : Result :=
  s.issue t true (fun s x =>
    let last := x.pc.toNat + body.toNat
    if !loopLegal x last body then trapOut s causeIllegal
    else if loopCount x src cnt = 0 then
      if 0x1FFF ≤ last then trapOut s causeIllegal else { st := s, flow := .jump (BitVec.ofNat 13 (last + 1)) }
    else { st := s.modStall t (fun y => { y with loops := ⟨x.pc + 1, last, loopCount x src cnt, rot, x.rets.length⟩ :: y.loops }) })

/-- ILLEGAL_OPCODE (R245, R250): a reserved opcode or field raises ILLEGAL. -/
def execIllegalOpcode (t : StallId) (s : State) : Result := s.issue t false (fun s _ => trapOut s causeIllegal)

end Sys2Proof.Machine
end

