-- ==== Sys2Proof/Machine/LoadStore.lean ====
section
/-! DEFINITION. The loads and stores of a stall (R223 to R231, R251). -/

namespace Sys2Proof.Machine

/-- The element size of an element format (R224). -/
def elemSize (ef : BitVec 3) : Nat := if ef = 4#3 then 2 else if ef = 5#3 then 1 else 4

/-- A load or store: the address by R227, ILLEGAL and LOCAL_RANGE, then the pointer and modifier after the access and what the access
does (R223, R227 to R231). `size` is the element size, `n` the bytes touched. -/
def memOp (t : StallId) (pn : Fin 16) (mm : Fin 8) (amode : BitVec 2) (size n : Nat) (k : BitVec 8) (isStore : Bool)
    (f : State → Stall → Nat → StallOut) (s : State) (x : Stall) : StallOut :=
  match address x pn mm amode size k isStore with
  | none => trapOut s causeIllegal
  | some ad =>
    let a := aligned ad.addr size
    if localOk a n isStore then
      { f (s.modStall t (fun y => (y.setP pn ad.p).setM mm ad.m)) x a with touch := some (a, n, isStore) }
    else trapOut s causeRange

/-- The elements of an access: their bytes as a number, and whether their 16-byte word is poisoned (R225, R226). -/
def elements (s : State) (t : StallId) (a size : Nat) : Quad (Nat × Bool) :=
  Quad.build (fun i => (fromLe (s.localBytes t (a + i * size) size (i * 9)), s.localPoison t (a + i * size) (i * 9 + 8)))

/-- The lane a loaded element gives (R224). -/
def loadLane (ef : BitVec 3) (e : Nat × Bool) : DLane :=
  let v : Nat := match ef.toNat with
    | 0 | 3 => e.1 / 256
    | 2 => e.1 % 256
    | 4 => ofSigned 24 (toSigned 16 e.1)
    | _ => e.1
  ⟨BitVec.ofNat 24 v, e.2⟩

/-- Whether an element format and register are legal (R224, R245). -/
def efLegal (ef : BitVec 3) (dr : Fin 64) : Bool := decide (ef.toNat < 6) && !(ef == 3#3 && dr.val == 63)

/-- The next architectural name of a data register. -/
def nextName (dr : Fin 64) : Fin 64 := dr + 1

/-- LD (R224, R226). -/
def execLd (t : StallId) (dr : Fin 64) (pn : Fin 16) (mm : Fin 8) (amode : BitVec 2) (ef : BitVec 3) (imm : BitVec 8)
    (s : State) : Result :=
  s.issue t false (fun s x =>
    if efLegal ef dr then
      memOp t pn mm amode (elemSize ef) (4 * elemSize ef) imm false (fun s _ a =>
        let s := s.seePoison (stallData t + a) (4 * elemSize ef)
        let e := elements s t a (elemSize ef)
        let low : DReg := e.map (fun v => ⟨BitVec.ofNat 24 (v.1 % 256), v.2⟩)
        { st := (s.drewLocal t 36).modStall t (fun y =>
            let y := y.setD dr (e.map (loadLane ef))
            if ef = 3#3 then y.setD (nextName dr) low else y),
          flag := if e.any (·.2) then some 2 else none }) s x
    else trapOut s causeIllegal)

/-- A value held to a range, and whether it lay outside. -/
def clip (lo hi v : Int) : Int × Bool := (max lo (min hi v), decide (v < lo) || decide (hi < v))

/-- The element a lane (and under PQ the lane of the next register) stores: its value, and whether it saturates (R224). -/
def storeElem (ef : BitVec 3) (d q : DLane) : Int × Bool :=
  match ef.toNat with
  | 0 => (d.v.toInt * 256, false)
  | 1 => (d.v.toInt, false)
  | 3 => let c := clip 0 255 q.v.toInt; (d.v.toInt * 256 + c.1, c.2)
  | 4 => clip (-32768) 32767 d.v.toInt
  | _ => clip 0 255 d.v.toInt

/-- The words of the stored lanes that are poisoned are marked (R226). -/
def markLanes (s : State) (a size : Nat) (ps : List Bool) : State :=
  (ps.zipIdx).foldl (fun u e => if e.1 then u.setPoison (a + e.2 * size) true else u) s

def Quad.toList {α : Type} (q : Quad α) : List α := [q.l0, q.l1, q.l2, q.l3]

/-- ST (R224, R226). -/
def execSt (t : StallId) (dr : Fin 64) (pn : Fin 16) (mm : Fin 8) (amode : BitVec 2) (ef : BitVec 3) (imm : BitVec 8)
    (s : State) : Result :=
  s.issue t false (fun s x =>
    if efLegal ef dr then
      memOp t pn mm amode (elemSize ef) (4 * elemSize ef) imm true (fun s x a =>
        let d := x.getD dr
        let q := if ef = 3#3 then x.getD (nextName dr) else d
        let e := (d.zip (storeElem ef) q).toList
        let ps := (d.zip (fun a b => a.poison || b.poison) q).toList
        let b := (e.map (fun v => le (elemSize ef) (ofSigned (8 * elemSize ef) v.1))).flatten
        { st := markLanes (s.store (stallData t + a) b) (stallData t + a) (elemSize ef) ps,
          flag := if e.any (·.2) then some 1 else none }) s x
    else trapOut s causeIllegal)

/-- LDP (R226, R251): word [23:0] to PD; where PD is the pointer, the loaded value stands. -/
def execLdp (t : StallId) (pd pn : Fin 16) (mm : Fin 8) (amode : BitVec 2) (imm : BitVec 8) (s : State) : Result :=
  s.issue t false (memOp t pn mm amode 4 4 imm false (fun s _ a =>
    let s := s.seePoison (stallData t + a) 4
    { st := (s.drewLocal t 5).modStall t (fun y =>
        y.setP pd (BitVec.ofNat 24 (fromLe (s.localBytes t a 4 0)))),
      flag := if s.localPoison t a 4 then some 2 else none }))

/-- STP (R251): PS sign-extended. -/
def execStp (t : StallId) (pd pn : Fin 16) (mm : Fin 8) (amode : BitVec 2) (imm : BitVec 8) (s : State) : Result :=
  s.issue t false (memOp t pn mm amode 4 4 imm true (fun s x a =>
    { st := s.store (stallData t + a) (le 4 (ofSigned 32 (x.getP pd).toInt)) }))

/-- LDAM (R226, R251): lane i from bytes 8i to 8i+7. -/
def execLdam (t : StallId) (an : Fin 8) (pn : Fin 16) (mm : Fin 8) (amode : BitVec 2) (imm : BitVec 8) (s : State) : Result :=
  s.issue t false (memOp t pn mm amode 32 32 imm false (fun s _ a =>
    let s := s.seePoison (stallData t + a) 32
    let e := elements s t a 8
    { st := (s.drewLocal t 36).modStall t (fun y => y.setA an (e.map (fun v =>
        ⟨BitVec.ofNat 56 v.1, v.1.testBit 56, v.1.testBit 57 || v.2⟩))),
      flag := if e.any (·.2) then some 2 else none }))

/-- The 8 bytes STAM writes for a lane (R251). -/
def laneBytes (l : ALane) : List Byte := le 8 (l.v.toNat + (if l.ovs then 2 ^ 56 else 0) + (if l.poison then 2 ^ 57 else 0))

/-- STAM (R226, R251): the inverse of LDAM. -/
def execStam (t : StallId) (an : Fin 8) (pn : Fin 16) (mm : Fin 8) (amode : BitVec 2) (imm : BitVec 8) (s : State) : Result :=
  s.issue t false (memOp t pn mm amode 32 32 imm true (fun s x a =>
    let q := x.getA an
    let b := stallData t + a
    let s := (s.store b (laneBytes q.l0 ++ laneBytes q.l1)).store (b + 16) (laneBytes q.l2 ++ laneBytes q.l3)
    { st := markLanes s b 8 (q.map (·.poison)).toList }))

end Sys2Proof.Machine
end

