-- ==== Sys2Proof/Machine/Scalar.lean ====
section
/-! DEFINITION. The scalar instructions of a stall (R215, R242, R251, R254): NOP, LIP, ADDPI, PALU and the rotation base. -/

namespace Sys2Proof.Machine

/-- NOP (R250). -/
def execNop (t : StallId) (s : State) : Result := regOp t (fun x => x) s

/-- LIP (R251). -/
def execLip (t : StallId) (pd : Fin 16) (imm : BitVec 22) (s : State) : Result := regOp t (fun x => x.setP pd (imm.signExtend 24)) s

/-- ADDPI (R251). -/
def execAddpi (t : StallId) (pd ps : Fin 16) (imm : BitVec 18) (s : State) : Result :=
  regOp t (fun x => x.setP pd (x.getP ps + imm.signExtend 24)) s

/-- A PALU function of two pointers (R254). -/
def palu (f : BitVec 24 → BitVec 24 → BitVec 24) (t : StallId) (pd ps pt : Fin 16) (s : State) : Result :=
  regOp t (fun x => x.setP pd (f (x.getP ps) (x.getP pt))) s

/-- A PALU function of a pointer and IMM5 (R254). -/
def paluImm (f : BitVec 24 → BitVec 24) (t : StallId) (pd ps : Fin 16) (s : State) : Result :=
  regOp t (fun x => x.setP pd (f (x.getP ps))) s

def flag24 (b : Bool) : BitVec 24 := if b then 1 else 0

/-- ADD (R254). -/
def execAdd (t : StallId) (pd ps pt : Fin 16) (_imm : BitVec 5) (s : State) : Result := palu (fun a b => a + b) t pd ps pt s

/-- SUB (R254). -/
def execSub (t : StallId) (pd ps pt : Fin 16) (_imm : BitVec 5) (s : State) : Result := palu (fun a b => a - b) t pd ps pt s

/-- AND (R254). -/
def execAnd (t : StallId) (pd ps pt : Fin 16) (_imm : BitVec 5) (s : State) : Result := palu (fun a b => a &&& b) t pd ps pt s

/-- OR (R254). -/
def execOr (t : StallId) (pd ps pt : Fin 16) (_imm : BitVec 5) (s : State) : Result := palu (fun a b => a ||| b) t pd ps pt s

/-- XOR (R254). -/
def execXor (t : StallId) (pd ps pt : Fin 16) (_imm : BitVec 5) (s : State) : Result := palu (fun a b => a ^^^ b) t pd ps pt s

/-- SHL (R254). -/
def execShl (t : StallId) (pd ps pt : Fin 16) (_imm : BitVec 5) (s : State) : Result := palu (fun a b => a <<< (b.setWidth 5).toNat) t pd ps pt s

/-- SHR (R254). -/
def execShr (t : StallId) (pd ps pt : Fin 16) (_imm : BitVec 5) (s : State) : Result := palu (fun a b => a >>> (b.setWidth 5).toNat) t pd ps pt s

/-- SRA (R254). -/
def execSra (t : StallId) (pd ps pt : Fin 16) (_imm : BitVec 5) (s : State) : Result := palu (fun a b => a.sshiftRight (b.setWidth 5).toNat) t pd ps pt s

/-- MUL (R254). -/
def execMul (t : StallId) (pd ps pt : Fin 16) (_imm : BitVec 5) (s : State) : Result := palu (fun a b => a * b) t pd ps pt s

/-- SLT (R254). -/
def execSlt (t : StallId) (pd ps pt : Fin 16) (_imm : BitVec 5) (s : State) : Result := palu (fun a b => flag24 (a.slt b)) t pd ps pt s

/-- SLTU (R254). -/
def execSltu (t : StallId) (pd ps pt : Fin 16) (_imm : BitVec 5) (s : State) : Result := palu (fun a b => flag24 (a.ult b)) t pd ps pt s

/-- MIN (R254). -/
def execMin (t : StallId) (pd ps pt : Fin 16) (_imm : BitVec 5) (s : State) : Result := palu (fun a b => if a.slt b then a else b) t pd ps pt s

/-- MAX (R254). -/
def execMax (t : StallId) (pd ps pt : Fin 16) (_imm : BitVec 5) (s : State) : Result := palu (fun a b => if a.slt b then b else a) t pd ps pt s

/-- SHLI (R254). -/
def execShli (t : StallId) (pd ps _pt : Fin 16) (imm : BitVec 5) (s : State) : Result := paluImm (fun a => a <<< imm.toNat) t pd ps s

/-- SHRI (R254). -/
def execShri (t : StallId) (pd ps _pt : Fin 16) (imm : BitVec 5) (s : State) : Result := paluImm (fun a => a >>> imm.toNat) t pd ps s

/-- SRAI (R254). -/
def execSrai (t : StallId) (pd ps _pt : Fin 16) (imm : BitVec 5) (s : State) : Result := paluImm (fun a => a.sshiftRight imm.toNat) t pd ps s

/-- MFRB (R242). -/
def execMfrb (t : StallId) (pd : Fin 16) (s : State) : Result := regOp t (fun x => x.setP pd (x.rb.setWidth 24)) s

/-- MTRB (R242). -/
def execMtrb (t : StallId) (ps : Fin 16) (s : State) : Result := regOp t (fun x => { x with rb := (x.getP ps).setWidth 5 }) s

/-- ROTB (R242). -/
def execRotb (t : StallId) (s : State) : Result := regOp t (fun x => { x with rb := x.rb - 1 }) s

end Sys2Proof.Machine
end

