-- ==== Sys2Proof/Machine/StallRegs.lean ====
section
/-! DEFINITION. The porter and register instructions of a stall (R189, R193, R208, R228, R232 to R235, R247, R248). -/

namespace Sys2Proof.Machine

/-- A value of 24 bits the spec leaves open, by the draw counter (log entry 11). -/
def State.anyWord (s : State) : BitVec 24 :=
  Config.undefinedByte s.fresh ++ Config.undefinedByte (s.fresh + 1) ++ Config.undefinedByte (s.fresh + 2)

/-- A transaction enters its tag; one of an unknown KIND completes with FAULT at once (R232, R233), whose flag is set after the instruction. -/
def State.accept (s : State) (t : StallId) (tt : Fin 16) (d payload : List Byte) : State :=
  let gets := fun (g : Tag) => if dKind d = 0 ∨ dKind d = 2 then d :: g.gets else g.gets
  let u := (s.modStall t (fun y => { y with t := y.t.set tt ⟨0, some ⟨d, payload, s.array.serial⟩, gets y.t[tt]⟩ }))
  let u := { u with array := { u.array with serial := u.array.serial + 1 } }
  if 7 ≤ dKind d then u.modStall t (fun x => { x with t := x.t.set tt { x.t[tt] with status := 4, flight := none } }) else u

/-- ISSUE (R189, R232): it holds while the tag is in flight, counting in TAG_HOLD; the descriptor and the payload of a TRIG or MAIL are
copied. -/
def execIssue (t : StallId) (tt pn : Fin 16) (s : State) : Result :=
  s.issue t false (fun s x =>
    let a := aligned (x.getP pn).toNat 16
    if x.t[tt].flight.isSome then { st := s.bump (Obj.STALL.TAG_HOLD t), flow := .hold }
    else if localOk a 32 false then
      let d := s.localBytes t a 32 0
      let pay := if dLocal d + 16 ≤ 0x30000 then s.localBytes t (dLocal d) 16 32 else []
      { st := (s.drewLocal t 48).accept t tt d (if dKind d = 5 ∨ dKind d = 6 then pay else []),
        flag := if 7 ≤ dKind d then some 4 else none, touch := some (a, 32, false) }
    else trapOut s causeRange)

/-- WAIT (R225, R235, R247): the words its tag's GETs wrote are settled. -/
def execWait (t : StallId) (tt pd : Fin 16) (s : State) : Result :=
  s.issue t false (fun s x =>
    if x.t[tt].flight.isSome then { st := s, flow := .hold }
    else { st := s.modStall t (fun y => { y.setP pd (x.t[tt].status.setWidth 24) with t := y.t.set tt { y.t[tt] with gets := [] } }) })

/-- A read of INQ_POP (R193): the address of the next descriptor; it holds while none waits, and frees the slot last popped. -/
def popDescriptor (t : StallId) (pd : Fin 16) (s : State) (x : Stall) : StallOut :=
  match x.inq with
  | [] => { st := s.modStall t (fun y => { y with lastPop := none }), flow := .hold }
  | i :: r =>
    { st := s.modStall t (fun y => { y.setP pd (BitVec.ofNat 24 (descriptorAddr i)) with inq := r, lastPop := some i }) }

/-- INQ_POP (R193): MFS of register 03h. -/
def execInqPop (t : StallId) (pd : Fin 16) (s : State) : Result := s.issue t false (popDescriptor t pd)

/-- The 4-bit status of a tag; while it is in flight the spec gives none. -/
def tagStatus (s : State) (x : Stall) (g : Nat) : Nat :=
  let v := x.t.toList.getD g {}
  if v.flight.isSome then (Config.undefinedByte (s.fresh + g)).toNat % 16 else v.status.toNat

def packed (w : Nat) (l : List Nat) : Nat := l.foldr (fun v r => v + 2 ^ w * r) 0

/-- The stall-local registers that read no snapshot (R208, R248). -/
def localRegister (s : State) (t : StallId) (x : Stall) (r : Nat) : Nat :=
  match r with
  | 0x00 => t
  | 0x01 => x.pitches.length - 1
  | 0x02 => x.inq.length
  | 0x05 => x.snapCycle.toNat / 2 ^ 24
  | 0x07 => x.snapEpoch.toNat / 2 ^ 24
  | 0x08 => x.snapEpoch.toNat / 2 ^ 48
  | 0x09 => packed 1 (x.t.toList.map (fun g => if g.flight.isSome then 1 else 0))
  | 0x0A => packed 4 ((List.range 6).map (tagStatus s x))
  | 0x0B => packed 4 ((List.range 6).map (fun i => tagStatus s x (6 + i)))
  | 0x0C => packed 4 ((List.range 4).map (fun i => tagStatus s x (12 + i)))
  | 0x0D => x.flags.toNat
  | 0x0E => x.trapEn.toNat
  | 0x0F => x.trapCause.toNat
  | 0x10 => packed 6 (x.pitches.map (fun k => s.pitches[k].offers.length % 64))
  | 0x12 => x.snapIdle.toNat / 2 ^ 24
  | _ => 0

/-- A read of the low word of a register wider than 24 bits takes its snapshot (R11, R208; log entry 14). -/
def takeSnapshot (s : State) (x : Stall) (r : Nat) : Stall :=
  match r with
  | 0x04 => { x with snapCycle := BitVec.ofNat 48 (Config.cycles s.fresh) }
  | 0x06 => { x with snapEpoch := s.ep.count }
  | 0x11 => { x with snapIdle := BitVec.ofNat 48 (Config.cycles s.fresh) }
  | _ => x

def lowWord (x : Stall) (r : Nat) : Nat :=
  match r with
  | 0x04 => x.snapCycle.toNat
  | 0x06 => x.snapEpoch.toNat
  | _ => x.snapIdle.toNat

/-- MFS (R208, R248). -/
def execMfs (t : StallId) (pd : Fin 16) (sel : BitVec 8) (s : State) : Result :=
  s.issue t false (fun s x =>
    if sel = 3#8 then popDescriptor t pd s x
    else
      let y := takeSnapshot s x sel.toNat
      let v := if sel = 4#8 ∨ sel = 6#8 ∨ sel = 0x11#8 then lowWord y sel.toNat else localRegister s t x sel.toNat
      let u := s.modStall t (fun z => (takeSnapshot s z sel.toNat).setP pd (BitVec.ofNat 24 v))
      { st := if sel = 4#8 ∨ sel = 0x11#8 then u.drawn
              else if sel = 0x0A#8 ∨ sel = 0x0B#8 ∨ sel = 0x0C#8 then u.drewMany 16 else u })

/-- MTS (R208, R248): FLAGS is W1C, TRAP_EN written; other registers ignore writes. Of a set and a clear in one cycle the later in the queue
decides (R10; log entry 93). -/
def execMts (t : StallId) (sel : BitVec 8) (ps : Fin 16) (s : State) : Result :=
  s.issue t false (fun s x =>
    let v := (x.getP ps).setWidth 6
    if sel = 0x0D#8 then { st := (s.modStall t (fun y => { y with flags := y.flags &&& ~~~v })).syncFlags t }
    else if sel = 0x0E#8 then { st := s.modStall t (fun y => { y with trapEn := v }) }
    else { st := s })

/-- The fields of a modifier (R228); fields 7 to 255 are not stated. -/
def Modifier.field (m : Modifier) (unstated : BitVec 24) (f : Nat) : BitVec 24 :=
  match f with
  | 0 => m.base
  | 1 => m.len
  | 2 => m.step
  | 3 => m.staged
  | 4 => m.prevLen
  | 5 => m.lost
  | 6 => (if m.trim then 1 else 0) + (if m.staged ≠ 0 then 2 else 0)
  | _ => unstated

/-- A write of a modifier's field (R228, R229): a length is staged, and takes effect at once while LEN is 0; beyond 3_0000h the length
staged is not stated. -/
def Modifier.write (m : Modifier) (unstated : BitVec 24) (f : Nat) (v : BitVec 24) : Modifier :=
  match f with
  | 0 => { m with base := v }
  | 1 =>
    let n := { m with staged := if 0x30000 < v.toNat then unstated else v }
    if m.len = 0 then n.takeStaged else n
  | 2 => { m with step := v }
  | 5 => { m with lost := 0 }
  | 6 => { m with trim := m.trim && !v.getLsbD 0 }
  | _ => m

/-- MFM (R228). -/
def execMfm (t : StallId) (pd : Fin 16) (mm : Fin 8) (fld : BitVec 8) (s : State) : Result :=
  s.issue t false (fun s x =>
    let u := s.modStall t (fun y => y.setP pd ((x.getM mm).field s.anyWord fld.toNat))
    { st := if 6 < fld.toNat then u.drewMany 3 else u })

/-- MTM (R228, R229). -/
def execMtm (t : StallId) (mm : Fin 8) (fld : BitVec 8) (ps : Fin 16) (s : State) : Result :=
  s.issue t false (fun s x =>
    let u := s.modStall t (fun y => y.setM mm ((x.getM mm).write s.anyWord fld.toNat (x.getP ps)))
    { st := if fld = 1#8 then u.drewMany 3 else u })

end Sys2Proof.Machine
end

