-- ==== Sys2Proof/Machine/Vector.lean ====
section
/-! DEFINITION. The vector instructions of a stall (R216, R222, R251, R252): VALU, VSHI, VSWZ, VDUP and the moves between D and P registers. -/

namespace Sys2Proof.Machine

/-- A lane result of two lanes: poisoned when either is (R222). -/
def lane2 (f : BitVec 24 → BitVec 24 → BitVec 24) (a b : DLane) : DLane := ⟨f a.v b.v, a.poison || b.poison⟩

/-- A lane result of one lane. -/
def lane1 (f : BitVec 24 → BitVec 24) (a : DLane) : DLane := ⟨f a.v, a.poison⟩

/-- A VALU function of two registers, lane by lane (R252). -/
def valu2 (f : BitVec 24 → BitVec 24 → BitVec 24) (t : StallId) (dd da db : Fin 64) (s : State) : Result :=
  regOp t (fun x => x.setD dd ((x.getD da).zip (lane2 f) (x.getD db))) s

/-- A VALU function of one register. -/
def valu1 (f : BitVec 24 → BitVec 24) (t : StallId) (dd da : Fin 64) (s : State) : Result :=
  regOp t (fun x => x.setD dd ((x.getD da).map (lane1 f))) s

/-- A VSHI function: IMM6 beyond 23 raises ILLEGAL (R245, R251). -/
def vshi (f : BitVec 24 → Nat → BitVec 24) (t : StallId) (dd da : Fin 64) (imm : BitVec 6) (s : State) : Result :=
  s.issue t false (fun s x =>
    if 23 < imm.toNat then trapOut s causeIllegal
    else { st := s.modStall t (fun y => y.setD dd ((x.getD da).map (lane1 (fun v => f v imm.toNat)))) })

def allOnes24 (b : Bool) : BitVec 24 := if b then 0xFFFFFF#24 else 0

/-- The shift count of VSHL and VSRA (R252). -/
def shiftCount (b : BitVec 24) : Nat := (b.setWidth 5).toNat

/-- VADD (R252). -/
def execVadd (t : StallId) (dd da db : Fin 64) (s : State) : Result := valu2 (fun a b => a + b) t dd da db s

/-- VSUB (R252). -/
def execVsub (t : StallId) (dd da db : Fin 64) (s : State) : Result := valu2 (fun a b => a - b) t dd da db s

/-- VADDS (R252). -/
def execVadds (t : StallId) (dd da db : Fin 64) (s : State) : Result := valu2 (fun a b => sat24 (a.toInt + b.toInt)) t dd da db s

/-- VSUBS (R252). -/
def execVsubs (t : StallId) (dd da db : Fin 64) (s : State) : Result := valu2 (fun a b => sat24 (a.toInt - b.toInt)) t dd da db s

/-- VAND (R252). -/
def execVand (t : StallId) (dd da db : Fin 64) (s : State) : Result := valu2 (fun a b => a &&& b) t dd da db s

/-- VOR (R252). -/
def execVor (t : StallId) (dd da db : Fin 64) (s : State) : Result := valu2 (fun a b => a ||| b) t dd da db s

/-- VXOR (R252). -/
def execVxor (t : StallId) (dd da db : Fin 64) (s : State) : Result := valu2 (fun a b => a ^^^ b) t dd da db s

/-- VMIN (R252). -/
def execVmin (t : StallId) (dd da db : Fin 64) (s : State) : Result := valu2 (fun a b => if a.slt b then a else b) t dd da db s

/-- VMAX (R252). -/
def execVmax (t : StallId) (dd da db : Fin 64) (s : State) : Result := valu2 (fun a b => if a.slt b then b else a) t dd da db s

/-- VSHL (R252). -/
def execVshl (t : StallId) (dd da db : Fin 64) (s : State) : Result := valu2 (fun a b => a <<< shiftCount b) t dd da db s

/-- VSRA (R252). -/
def execVsra (t : StallId) (dd da db : Fin 64) (s : State) : Result := valu2 (fun a b => a.sshiftRight (shiftCount b)) t dd da db s

/-- VCGT (R252). -/
def execVcgt (t : StallId) (dd da db : Fin 64) (s : State) : Result := valu2 (fun a b => allOnes24 (b.slt a)) t dd da db s

/-- VCEQ (R252). -/
def execVceq (t : StallId) (dd da db : Fin 64) (s : State) : Result := valu2 (fun a b => allOnes24 (a == b)) t dd da db s

/-- VABS (R252); the DB field is not used. -/
def execVabs (t : StallId) (dd da _db : Fin 64) (s : State) : Result := valu1 (fun a => sat24 a.toInt.natAbs) t dd da s

/-- VNEG (R252); the DB field is not used. -/
def execVneg (t : StallId) (dd da _db : Fin 64) (s : State) : Result := valu1 (fun a => sat24 (-a.toInt)) t dd da s

/-- VMOV (R252); the DB field is not used. -/
def execVmov (t : StallId) (dd da _db : Fin 64) (s : State) : Result := valu1 (fun a => a) t dd da s

/-- VSHLI (R251). -/
def execVshli (t : StallId) (dd da : Fin 64) (imm : BitVec 6) (s : State) : Result := vshi (fun v n => v <<< n) t dd da imm s

/-- VSRAI (R251). -/
def execVsrai (t : StallId) (dd da : Fin 64) (imm : BitVec 6) (s : State) : Result := vshi (fun v n => v.sshiftRight n) t dd da imm s

/-- VSRLI (R251). -/
def execVsrli (t : StallId) (dd da : Fin 64) (imm : BitVec 6) (s : State) : Result := vshi (fun v n => v >>> n) t dd da imm s

/-- VSWZ: lane i takes the lane that SEL[2i+1:2i] names, with its poison (R222, R251). -/
def execVswz (t : StallId) (dd da : Fin 64) (sel : BitVec 8) (s : State) : Result :=
  regOp t (fun x => x.setD dd (Quad.build (fun i => (x.getD da).get (sel.toNat / 4 ^ i % 4)))) s

/-- VDUP: every lane takes PS, unpoisoned (R222, R251). -/
def execVdup (t : StallId) (dd : Fin 64) (ps : Fin 16) (s : State) : Result :=
  regOp t (fun x => x.setD dd (Quad.build (fun _ => ⟨x.getP ps, false⟩))) s

/-- MOVPD: the lanes whose SEL[3:0] bit is set take PS, unpoisoned (R222, R251). -/
def execMovpd (t : StallId) (dd : Fin 64) (ps : Fin 16) (sel : BitVec 8) (s : State) : Result :=
  regOp t (fun x => x.setD dd (Quad.build (fun i => if sel.getLsbD i then ⟨x.getP ps, false⟩ else (x.getD dd).get i))) s

/-- MOVDP: PD takes the lane SEL[1:0] names; a poisoned lane sets POISON (R226, R251). -/
def execMovdp (t : StallId) (pd : Fin 16) (da : Fin 64) (sel : BitVec 8) (s : State) : Result :=
  s.issue t false (fun s x =>
    let l := (x.getD da).get (sel.toNat % 4)
    { st := s.modStall t (fun y => y.setP pd l.v), flag := if l.poison then some 2 else none })

end Sys2Proof.Machine
end

