-- ==== Sys2Proof/Machine/StallWord.lean ====
section
/-! DEFINITION. What a 32-bit word of program memory makes a stall do (R249 to R254): its format's fields read, and the meaning its opcode
and function name. The debugger's STEP issues the word at the PC (R527). -/

namespace Sys2Proof.Machine

/-- The bits of a word from `lo` on, `n` of them. -/
def wordBits (w : BitVec 32) (lo n : Nat) : BitVec n := (w >>> lo).setWidth n

def dField (w : BitVec 32) (lo : Nat) : Fin 64 := (wordBits w lo 6).toFin
def pField (w : BitVec 32) (lo : Nat) : Fin 16 := (wordBits w lo 4).toFin
def aField (w : BitVec 32) (lo : Nat) : Fin 8 := (wordBits w lo 3).toFin

/-- Format V of opcode 01h (R252). -/
def valuWord (t : StallId) (w : BitVec 32) : State → Result :=
  let dd := dField w 20
  let da := dField w 14
  let db := dField w 8
  match (wordBits w 4 4).toNat with
  | 0 => execVadd t dd da db
  | 1 => execVsub t dd da db
  | 2 => execVadds t dd da db
  | 3 => execVsubs t dd da db
  | 4 => execVand t dd da db
  | 5 => execVor t dd da db
  | 6 => execVxor t dd da db
  | 7 => execVmin t dd da db
  | 8 => execVmax t dd da db
  | 9 => execVabs t dd da db
  | 10 => execVneg t dd da db
  | 11 => execVshl t dd da db
  | 12 => execVsra t dd da db
  | 13 => execVcgt t dd da db
  | 14 => execVceq t dd da db
  | _ => execVmov t dd da db

/-- Format V of opcode 02h (R251). -/
def vshiWord (t : StallId) (w : BitVec 32) : State → Result :=
  match (wordBits w 4 4).toNat with
  | 0 => execVshli t (dField w 20) (dField w 14) (wordBits w 8 6)
  | 1 => execVsrai t (dField w 20) (dField w 14) (wordBits w 8 6)
  | 2 => execVsrli t (dField w 20) (dField w 14) (wordBits w 8 6)
  | _ => execIllegalOpcode t

/-- Format C of opcode 0Ch (R253). -/
def accWord (t : StallId) (w : BitVec 32) : State → Result :=
  let an := aField w 23
  let am := aField w 20
  let dx := dField w 14
  let n := wordBits w 8 6
  match (wordBits w 4 4).toNat with
  | 0 => execClra t an am dx n
  | 1 => execMova t an am dx n
  | 2 => execAdda t an am dx n
  | 3 => execSuba t an am dx n
  | 4 => execShla t an am dx n
  | 5 => execSraa t an am dx n
  | 6 => execNorm t an am dx n
  | 7 => execExp t an am dx n
  | 8 => execReda t an am dx n
  | 9 => execLda t an am dx n
  | 10 => execNega t an am dx n
  | 11 => execAbsa t an am dx n
  | _ => execIllegalOpcode t

/-- Format S3 of opcode 1Ah (R254). -/
def paluWord (t : StallId) (w : BitVec 32) : State → Result :=
  let pd := pField w 22
  let ps := pField w 18
  let pt := pField w 14
  let n := wordBits w 5 5
  match (wordBits w 10 4).toNat with
  | 0 => execAdd t pd ps pt n
  | 1 => execSub t pd ps pt n
  | 2 => execAnd t pd ps pt n
  | 3 => execOr t pd ps pt n
  | 4 => execXor t pd ps pt n
  | 5 => execShl t pd ps pt n
  | 6 => execShr t pd ps pt n
  | 7 => execSra t pd ps pt n
  | 8 => execShli t pd ps pt n
  | 9 => execShri t pd ps pt n
  | 10 => execSrai t pd ps pt n
  | 11 => execMul t pd ps pt n
  | 12 => execSlt t pd ps pt n
  | 13 => execSltu t pd ps pt n
  | 14 => execMin t pd ps pt n
  | _ => execMax t pd ps pt n

/-- Format R of opcode 36h (R242, R251). -/
def rbopWord (t : StallId) (w : BitVec 32) : State → Result :=
  match (wordBits w 4 4).toNat with
  | 0 => execMfrb t (pField w 22)
  | 1 => execMtrb t (pField w 22)
  | 2 => execRotb t
  | _ => execIllegalOpcode t

/-- The meaning of an instruction word (R250, R251). -/
def stallMeaning (t : StallId) (w : BitVec 32) : State → Result :=
  let pn := pField w 16
  let mm := aField w 13
  let am := wordBits w 11 2
  let ef := wordBits w 8 3
  let k := wordBits w 0 8
  match (wordBits w 26 6).toNat with
  | 0x00 => execNop t
  | 0x01 => valuWord t w
  | 0x02 => vshiWord t w
  | 0x03 => execVswz t (dField w 20) (dField w 14) (wordBits w 6 8)
  | 0x08 => execMpy t (aField w 23) (dField w 17) (dField w 11) (wordBits w 9 2) (wordBits w 6 3)
  | 0x09 => execMac t (aField w 23) (dField w 17) (dField w 11) (wordBits w 9 2) (wordBits w 6 3)
  | 0x0A => execMsu t (aField w 23) (dField w 17) (dField w 11) (wordBits w 9 2) (wordBits w 6 3)
  | 0x0B => execCmac t (aField w 23) (dField w 17) (dField w 11) (wordBits w 9 2) (wordBits w 6 3) (w.getLsbD 5)
  | 0x0C => accWord t w
  | 0x0D => execSta t (aField w 23) (dField w 14) (wordBits w 8 6)
  | 0x10 => execLd t (dField w 20) pn mm am ef k
  | 0x11 => execSt t (dField w 20) pn mm am ef k
  | 0x12 => execLdp t (pField w 20) pn mm am k
  | 0x13 => execStp t (pField w 20) pn mm am k
  | 0x14 => execLdam t (aField w 23) pn mm am k
  | 0x15 => execStam t (aField w 23) pn mm am k
  | 0x18 => execLip t (pField w 22) (wordBits w 0 22)
  | 0x19 => execAddpi t (pField w 22) (pField w 18) (wordBits w 0 18)
  | 0x1A => paluWord t w
  | 0x20 => execBr t (wordBits w 0 14)
  | 0x21 => execBcc t (pField w 22) (pField w 18) (wordBits w 15 3) (wordBits w 0 14)
  | 0x22 => execCall t (wordBits w 0 14)
  | 0x23 => execRet t
  | 0x24 => execLoop t (w.getLsbD 25) (w.getLsbD 24) (wordBits w 12 12) (wordBits w 0 12)
  | 0x25 => execTrapret t
  | 0x28 => execIssue t (pField w 22) (pField w 18)
  | 0x29 => execWait t (pField w 22) (pField w 18)
  | 0x30 => execMfs t (pField w 22) (wordBits w 8 8)
  | 0x31 => execMts t (wordBits w 8 8) (pField w 22)
  | 0x32 => execMovdp t (pField w 22) (dField w 16) (wordBits w 8 8)
  | 0x33 => execMovpd t (dField w 16) (pField w 22) (wordBits w 8 8)
  | 0x34 => execMfm t (pField w 22) (aField w 16) (wordBits w 8 8)
  | 0x35 => execMtm t (aField w 16) (wordBits w 8 8) (pField w 22)
  | 0x36 => rbopWord t w
  | 0x37 => execVdup t (dField w 16) (pField w 22)
  | _ => execIllegalOpcode t

/-- The instruction word a fetch delivers (R329): corrected where bits of its 16-byte word are in error. -/
def State.fetched (s : State) (a : Nat) : BitVec 32 :=
  let w := a / 16 * 16
  match flipAt s.flips w with
  | none => BitVec.ofNat 32 (fromLe (s.load a 4))
  | some _ =>
    match s.finds w (plainHolder s w) with
    | .clean d | .single d => d.extractLsb' (8 * (a % 16)) 32
    | .bad _ => 0

/-- The stall issues the word at its PC (R236). -/
def State.stepStall (s : State) (t : StallId) : Result :=
  stallMeaning t (s.fetched (stallProg t + 4 * s.stalls[t].pc.toNat)) s

end Sys2Proof.Machine
end

