-- ==== Sys2Proof/Machine/Debug.lean ====
section
/-! DEFINITION. The debug port (R522 to R527): TAP instructions, the unlock by a signed challenge, and the commands of DBGREG. -/

namespace Sys2Proof.Machine

/-! ## The TAP (R522, R523) -/

/-- Whether the functional logic is held in reset by the TAP. -/
def tapHolds (s : State) : Bool := s.boot.tap == .extest || s.boot.tap == .clamp

/-- A TAP instruction that leaves the functional logic free; leaving EXTEST or CLAMP resets the device (R504). -/
def State.selectTap (s : State) (x : Tap) : State :=
  (if tapHolds s then s.resetTo 8 else s).modBoot (fun b => { b with tap := x })

/-- EXTEST and CLAMP hold the functional logic in reset. -/
def State.holdTap (s : State) (x : Tap) : State :=
  (if tapHolds s then s else s.cleared s.boot.held).modBoot (fun b => { b with tap := x })

/-- EXTEST. -/
def execExtest (s : State) : Result := .next (s.holdTap .extest)

/-- CLAMP: as EXTEST, with BYPASS selected. -/
def execClamp (s : State) : Result := .next (s.holdTap .clamp)

/-- EXTEST_EXIT: the TAP leaves EXTEST or CLAMP. -/
def execExtestExit (s : State) : Result := .next (if tapHolds s then s.selectTap .bypass else s)

/-- The 32 bits of IDCODE. -/
def idcode (s : State) : Nat := s.u Obj.IDENTITY.SILICON % 16 * 2 ^ 28 + 0x8816 * 2 ^ 12 + 0x4E3 * 2 + 1

/-- IDCODE. -/
def execIdcode (s : State) : Result :=
  let t := s.selectTap .idcode
  .next (t.emit (.tap (le 4 (idcode t))))

/-- SAMPLE/PRELOAD: the boundary is captured; no state of the device changes. -/
def execSamplePreload (s : State) : Result := .next (s.selectTap .sample)

/-- BYPASS. -/
def execBypass (s : State) : Result := .next (s.selectTap .bypass)

/-! ## Unlocking (R524) -/

/-- The 44 bytes of a challenge. -/
def challengeBytes (s : State) (nonce : List Byte) : List Byte := padTo 32 nonce ++ padTo 12 (s.blob Obj.IDENTITY.SERIAL)

/-- CHAL: a fresh challenge voids any earlier one; during the lockout it reads zeros. -/
def execChal (nonce : List Byte) (s : State) : Result :=
  let t := s.selectTap .chal
  .next (if t.boot.lockout then (t.modBoot (fun b => { b with challenge := none })).emit (.tap (List.replicate 44 0))
    else (t.modBoot (fun b => { b with challenge := some (challengeBytes t nonce) })).emit (.tap (challengeBytes t nonce)))

/-- The key that opens a level. -/
def dbgKey (s : State) (level : Nat) : Option (List Byte) :=
  if level = 2 then some Config.debugKey else if level = 1 then some (padTo 32 (s.blob Obj.HEALTH.DBG_KEY)) else none

/-- Whether a response answers the challenge at hand. -/
def responseGood (s : State) (level : Nat) (sig : List Byte) : Bool :=
  match s.boot.challenge, dbgKey s level with
  | some c, some k => ed25519 k c sig
  | _, _ => false

/-- The port is unlocked at a level, with a day book entry. -/
def State.unlock (s : State) (level : Nat) : State :=
  ((s.put Obj.HEALTH.DBG_STATE level).modBoot (fun b => { b with badRun := 0 })).markFlag Obj.HEALTH.FLAGS Bit.HEALTH.FLAGS.DEBUG_UNLOCKED 26

/-- The unlock ends. -/
def State.lockDebug (s : State) : State :=
  (s.put Obj.HEALTH.DBG_STATE 0).logFlag Obj.HEALTH.FLAGS Bit.HEALTH.FLAGS.DEBUG_UNLOCKED false 26

/-- RESP: 64 bytes of signature and the level; the third failure in a row begins the lockout. -/
def execResp (level : BitVec 8) (bytes : List Byte) (s : State) : Result :=
  let t := s.selectTap .resp
  .next (if responseGood t level.toNat bytes then t.unlock level.toNat
  else
    let n := t.boot.badRun + 1
    (t.bump Obj.HEALTH.DBG_FAILS).modBoot (fun b => { b with badRun := if 3 ≤ n then 0 else n, lockout := b.lockout || decide (3 ≤ n) }))

/-- CHAL_LOCKOUT_END: 60 s have passed. -/
def execChalLockoutEnd (s : State) : Result := .next (s.modBoot (fun b => { b with lockout := false }))

/-- TRST_N: TAP reset selects IDCODE, and the unlock ends. -/
def execTrstN (s : State) : Result := .next (s.selectTap .idcode).lockDebug

/-- The effect of a write of DBG_LOCK. -/
def dbgLockEff (s : State) (v : Nat) : State := if v = 1 then s.lockDebug else s

/-! ## Debug commands (R525 to R527) -/

def dbgLevel (s : State) : Nat := s.u Obj.HEALTH.DBG_STATE

/-- The command's STATUS and DATA. -/
def State.answer (s : State) (status : Nat) (v : Nat) : State := s.emit (.debug status (BitVec.ofNat 128 v))

/-- STATUS 0 to 5. -/
def stOk : Nat := 0
def stLocked : Nat := 2
def stPoison : Nat := 3
def stBadTarget : Nat := 4
def stNotHalted : Nat := 5

/-- Where the clerks' reserve lies (R337, R338): the top of the yard without DRAM, else the top of DRAM (log entry 29). -/
def inReserve (s : State) (a : Nat) : Bool :=
  if s.dramFailed then decide (yardBytes - 4 * 1048576 ≤ a) && decide (a < yardBytes)
  else decide (dramBase + fitted s - 512 * 1048576 ≤ a) && decide (a < dramBase + fitted s)

/-- Whether a debug address lies in a range of R343 that holds memory. -/
def debugMapped (s : State) (a : Nat) : Bool :=
  match memKind s a with
  | .outside => false
  | .dram => !s.dramFailed
  | _ => true

/-- MEM_READ of the word that holds an address, as corrected (R343); the content of the clerks' reserve is none of the model's (log entry 30). -/
def State.debugRead (s : State) (a : Nat) : State :=
  let w := a / 16 * 16
  if dbgLevel s = 0 ∨ !debugMapped s w ∨ (inReserve s w ∧ dbgLevel s < 2) then s.answer stLocked 0
  else if inReserve s w then s.drawn.answer stOk (Config.measured s.fresh)
  else
    match holderOf s w with
    | none => s.answer stLocked 0
    | some h =>
      let t := s.readAt w h
      match s.finds w h with
      | .clean d | .single d => t.answer stOk d.toNat
      | .bad _ => t.answer stPoison h.word.toNat

/-- MEM_WRITE of a whole word (R325). -/
def State.debugWrite (s : State) (a : Nat) (v : BitVec 128) : State :=
  let w := a / 16 * 16
  if dbgLevel s = 0 ∨ !debugMapped s w ∨ (inReserve s w ∧ dbgLevel s < 2) then s.answer stLocked 0
  else if inReserve s w then s.answer stOk 0
  else match holderOf s w with
    | none => s.answer stLocked 0
    | some h => ((h.put v false s).dropFlips w 16).answer stOk 0

/-- Whether a stall stands halted. -/
def stallHalted (x : Stall) : Bool := x.debugHalt || x.state == .halted

/-- HALT of a stall. -/
def State.haltTarget (s : State) (t : StallId) : State := if s.stalls[t].debugHalt then s else s.debugHaltStall t

/-- A stall halted by the debugger runs again, past the breakpoint it may stand at; a trap that became due is taken. -/
def State.freeStall (s : State) (t : StallId) : State :=
  let u := s.modStall t (fun x => { x with debugHalt := false, skipBp := true })
  (u.put (Obj.STALL.STATE t) (stallCode u.stalls[t].state)).takePending t

/-- RESUME of a stall. -/
def State.resumeTarget (s : State) (t : StallId) : State :=
  if s.stalls[t].debugHalt then (s.freeStall t).answer stOk 0 else s.answer stNotHalted 0

/-- STEP of a stall (R527): the word at the PC issues, and the stall stands halted again; its pitches stay resolved as they were. -/
def State.stepTarget (s : State) (t : StallId) : State :=
  if !s.stalls[t].debugHalt then s.answer stNotHalted 0
  else
    let u := s.modStall t (fun x => { x with debugHalt := false, skipBp := true })
    let v := nextOf u (u.stepStall t)
    ((v.modStall t (fun x => { x with debugHalt := true })).put (Obj.STALL.STATE t) 5).answer stOk 0

/-- A data register as DATA: lanes of 24 bits, lane 0 lowest, then the poison bits (log entry 31). -/
def dregBits (q : DReg) : Nat :=
  let l := q.toList
  packed 24 (l.map (·.v.toNat)) + 2 ^ 96 * packed 1 (l.map (fun x => if x.poison then 1 else 0))

def dregOf (v : Nat) : DReg := Quad.build (fun i => ⟨BitVec.ofNat 24 (v / 2 ^ (24 * i)), v.testBit (96 + i)⟩)

/-- A register of a halted stall; accumulators and modifiers are wider than DATA and what it shows of them is open (log entry 31). -/
def readFile (s : State) (x : Stall) (file index : Nat) : Option Nat :=
  match file with
  | 0 => if h : index < 64 then some (dregBits x.d[index]) else none
  | 1 => if index < 8 then some (Config.measured s.fresh) else none
  | 2 => if h : index < 16 then some x.p[index].toNat else none
  | 3 => if index < 8 then some (Config.measured s.fresh) else none
  | 4 => match index with
    | 0 => some x.pc.toNat
    | 1 => some x.rb.toNat
    | 2 => some x.flags.toNat
    | _ => none
  | _ => none

/-- A lane or field that takes a value the spec leaves open. -/
def freeLane (k : Nat) : ALane := ⟨BitVec.ofNat 56 (Config.measured k), (Config.measured k).testBit 56, (Config.measured k).testBit 57⟩

def freeModifier (k : Nat) : Modifier :=
  let v := fun i => BitVec.ofNat 24 (Config.measured (k + i))
  ⟨v 0, v 1, v 2, v 3, v 4, v 5, (Config.measured (k + 6)).testBit 0⟩

/-- A stall with a register written; none where there is no such register. -/
def writeFile (s : State) (x : Stall) (file index v : Nat) : Option Stall :=
  match file with
  | 0 => if h : index < 64 then some { x with d := x.d.set index (dregOf v) } else none
  | 1 => if h : index < 8 then some { x with a := x.a.set index (Quad.build (fun i => freeLane (s.fresh + i))) } else none
  | 2 => if h : index < 16 then some { x with p := x.p.set index (BitVec.ofNat 24 v) } else none
  | 3 => if h : index < 8 then some { x with m := x.m.set index (freeModifier s.fresh) } else none
  | 4 => match index with
    | 0 => some { x with pc := BitVec.ofNat 13 v }
    | 1 => some { x with rb := BitVec.ofNat 5 v }
    | 2 => some { x with flags := BitVec.ofNat 6 v }
    | _ => none
  | _ => none

def State.drew (s : State) (n : Nat) : State := { s with fresh := s.fresh + n }

/-- REG_READ. -/
def State.regRead (s : State) (t : StallId) (file index : Nat) : State :=
  if !stallHalted s.stalls[t] then s.answer stNotHalted 0
  else match readFile s s.stalls[t] file index with
    | some v => (s.drew 8).answer stOk v
    | none => s.answer stLocked 0

/-- REG_WRITE. -/
def State.regWrite (s : State) (t : StallId) (file index : Nat) (v : BitVec 128) : State :=
  if !stallHalted s.stalls[t] then s.answer stNotHalted 0
  else match writeFile s s.stalls[t] file index v.toNat with
    | some x => (((s.modStall t (fun _ => x)).syncFlags t).drew 8).answer stOk 0
    | none => s.answer stLocked 0

/-- What STATUS shows of a stall: halt state in bit 0, the cause, open, in [15:8], the PC in [44:32] (log entry 31). -/
def statusBits (s : State) (x : Stall) : Nat :=
  (if stallHalted x then 1 else 0) + 256 * (Config.measured s.fresh % 256) + 2 ^ 32 * x.pc.toNat

/-- A command to a stall (R525). -/
inductive StallCmd where
  | halt | resume | step
  | bpSet (k : Fin 4) (pc : BitVec 13)
  | bpClear (k : Fin 4)
  | watch (k : Fin 2) (addr : BitVec 18) (rw : BitVec 2)
  | regRead (file index : Nat)
  | regWrite (file index : Nat) (v : BitVec 128)
  | status

def State.stallCmd (s : State) (t : StallId) : StallCmd → State
  | .halt => (s.haltTarget t).answer stOk 0
  | .resume => s.resumeTarget t
  | .step => s.stepTarget t
  | .bpSet k pc => (s.modStall t (fun x => { x with bps := x.bps.set k (some pc) })).answer stOk 0
  | .bpClear k => (s.modStall t (fun x => { x with bps := x.bps.set k none })).answer stOk 0
  | .watch k a rw => (s.modStall t (fun x => { x with watches := x.watches.set k (some (a, 1, rw)) })).answer stOk 0
  | .regRead f i => s.regRead t f i
  | .regWrite f i v => s.regWrite t f i v
  | .status => (s.drawn).answer stOk (statusBits s s.stalls[t])

/-- A command to the clerks (R526, R527): their halt suspends their watchdog and acts under R506; of their registers the model holds none,
so what they show is open and writes leave no trace (log entry 30). -/
def State.clerkCmd (s : State) : StallCmd → State
  | .halt => (s.modBoot (fun b => { b with halted := true })).answer stOk 0
  | .resume => if s.boot.halted then (s.modBoot (fun b => { b with halted := false })).answer stOk 0 else s.answer stNotHalted 0
  | .step => s.answer (if s.boot.halted then stOk else stNotHalted) 0
  | .regRead _ _ => if s.boot.halted then s.drawn.answer stOk (Config.measured s.fresh) else s.answer stNotHalted 0
  | .regWrite _ _ _ => s.answer (if s.boot.halted then stOk else stNotHalted) 0
  | .status => s.drawn.answer stOk (Config.measured s.fresh / 2 * 2 + (if s.boot.halted then 1 else 0))
  | _ => s.answer stOk 0

/-- A command that a target other than memory takes, by the level of the unlock (R526). -/
def State.targetCmd (s : State) (g : DbgTarget) (c : StallCmd) : State :=
  if dbgLevel s = 0 then s.answer stLocked 0
  else match g with
    | .stall t => s.stallCmd t c
    | .clerks => if dbgLevel s < 2 then s.answer stLocked 0 else s.clerkCmd c
    | _ => s.answer stBadTarget 0

/-- MEM_READ. -/
def execMemRead (addr : BitVec 40) (s : State) : Result := .next (s.debugRead addr.toNat)

/-- MEM_WRITE. -/
def execMemWrite (addr : BitVec 40) (value : BitVec 128) (s : State) : Result := .next (s.debugWrite addr.toNat value)

/-- HALT. -/
def execHalt (g : DbgTarget) (s : State) : Result := .next (s.targetCmd g .halt)

/-- RESUME. -/
def execResume (g : DbgTarget) (s : State) : Result := .next (s.targetCmd g .resume)

/-- STEP. -/
def execStep (t : StallId) (s : State) : Result := .next (s.targetCmd (.stall t) .step)

/-- BP_SET. -/
def execBpSet (t : StallId) (k : Fin 4) (pc : BitVec 13) (s : State) : Result := .next (s.targetCmd (.stall t) (.bpSet k pc))

/-- BP_CLEAR. -/
def execBpClear (t : StallId) (k : Fin 4) (s : State) : Result := .next (s.targetCmd (.stall t) (.bpClear k))

/-- The two bits of a watchpoint: reads, writes. -/
def watchBits (rd wr : Bool) : BitVec 2 := BitVec.ofNat 2 (bit8 rd 0 + bit8 wr 1)

/-- WATCH_SET. -/
def execWatchSet (t : StallId) (k : Fin 2) (addr : BitVec 18) (rd wr : Bool) (s : State) : Result :=
  .next (s.targetCmd (.stall t) (.watch k addr (watchBits rd wr)))

/-- REG_READ. -/
def execRegRead (t : StallId) (file index : BitVec 8) (s : State) : Result :=
  .next (s.targetCmd (.stall t) (.regRead file.toNat index.toNat))

/-- REG_WRITE. -/
def execRegWrite (t : StallId) (file index : BitVec 8) (value : BitVec 128) (s : State) : Result :=
  .next (s.targetCmd (.stall t) (.regWrite file.toNat index.toNat value))

/-- STATUS. -/
def execStatus (g : DbgTarget) (s : State) : Result := .next (s.targetCmd g .status)

/-- A TARGET field. -/
def dbgTarget (v : BitVec 8) : DbgTarget :=
  if h : v.toNat < 132 then .stall ⟨v.toNat, h⟩ else if v = 0xFE#8 then .clerks else if v = 0xFF#8 then .memory else .other v

/-- The commands of DBGREG but for those of memory; none for a code not listed. -/
def dbgCommand (cmd : BitVec 8) (arg : BitVec 40) (data : BitVec 128) : Option StallCmd :=
  let file := arg.toNat / 256 % 256
  let index := arg.toNat % 256
  match cmd.toNat with
  | 0x10 => some .halt
  | 0x11 => some .resume
  | 0x12 => some .step
  | 0x13 => some (.bpSet (Fin.ofNat 4 (arg.toNat / 2 ^ 32)) (arg.setWidth 13))
  | 0x14 => some (.bpClear (Fin.ofNat 4 (arg.toNat / 2 ^ 32)))
  | 0x15 => some (.watch (Fin.ofNat 2 (arg.toNat / 2 ^ 32)) (arg.setWidth 18) (data.setWidth 2))
  | 0x16 => some (.regRead file index)
  | 0x17 => some (.regWrite file index data)
  | 0x20 => some .status
  | _ => none

/-- DBGREG: the 184-bit register; its Update-DR starts the command. -/
def execDbgreg (cmd target : BitVec 8) (arg : BitVec 40) (data : BitVec 128) (s : State) : Result :=
  let t := s.selectTap .dbgreg
  .next (if dbgLevel t = 0 then t.answer stLocked 0
  else if cmd = 1#8 ∨ cmd = 2#8 then
    (if dbgTarget target ≠ .memory then t.answer stBadTarget 0
    else if cmd = 1#8 then t.debugRead arg.toNat else t.debugWrite arg.toNat data)
  else match dbgCommand cmd arg data with
    | some c => t.targetCmd (dbgTarget target) c
    | none => t.answer stLocked 0)

end Sys2Proof.Machine
end

