-- ==== Sys2Proof/Machine/Objs.lean ====
section
/-! DEFINITION. Objects as the Ledger serves them (R382 to R386, R390, R415): their lookup, the values they show, and what a read does. -/

namespace Sys2Proof.Machine

/-! ## Lookup (R390, R516) -/

/-- Whether an index exists while the device is in RECOVERY (R516). -/
def inRecovery (idx : Nat) : Bool :=
  idx == 0x1000 || (decide (0x1100 ≤ idx) && decide (idx ≤ 0x1111)) || (decide (0x1200 ≤ idx) && decide (idx ≤ 0x12A0)) || idx == 0x7A00

/-- The row of an object, or the code of an index or subindex that does not exist. -/
def lookup (s : State) (idx sub : Nat) : Except Nat ObjRow :=
  if s.u Obj.HEALTH.BOOT_STATE = 4 ∧ !inRecovery idx then .error 0x0101
  else
    match Obj.record idx with
    | none => .error 0x0101
    | some r =>
      match Obj.rowOf r.2 sub with
      | none => .error 0x0102
      | some w => .ok w.1

/-- The value an object has before anything writes it. -/
def defaultOf (key : Nat) (row : ObjRow) : Nat :=
  if key = (Obj.KEY_SLOT.LEVEL 0).key ∨ key = (Obj.KEY_SLOT.ENABLE 0).key then (if key % 256 = 2 then 3 else 1) else row.dflt

/-- Whether a type's values vary in length. -/
def isBlob (ty : Ty) : Bool := ty == .vis || ty == .blob

/-- The bytes of a BLOB of fixed length; 0 for the others. -/
def fixedSize (key : Nat) : Nat :=
  let i := key / 256
  if decide (0x1110 ≤ i) && decide (i < 0x1112) then 16
  else if decide (0x1200 ≤ i) && decide (i < 0x1210) then 32
  else if decide (0x5140 ≤ i) && decide (i < 0x5200) then 256
  else if decide (0x6000 ≤ i) && decide (i < 0x6100) then 16
  else if i = 0x7300 then 128
  else if key = Obj.HEALTH.DBG_KEY then 32
  else 0

/-- Whether a write of an object changes the staged copy of its group (R386). -/
def enters (key : Nat) (row : ObjRow) : Bool :=
  (row.acc == .rwp && key != Obj.CHAIN.IMAGE) || (decide (0x1200 ≤ key / 256) && decide (key / 256 < 0x1210) && key % 256 == 1)

/-! ## The day book as a session reads it (R340, R415) -/

/-- The SEQ of the oldest entry held; the next one's where none is. -/
def oldestSeq (b : DayBook) : BitVec 32 :=
  match b.entries with
  | e :: _ => e.seq
  | [] => b.seq

def fromOf (s : State) (x : Session) : BitVec 32 := x.frm.getD (oldestSeq s.book)

/-- A read of ENTRIES: up to 40 entries from FROM on, the position past them, and the entries that had left the ring. -/
def readEntries (s : State) (x : Session) : List DbEntry × BitVec 32 × Nat :=
  let f := fromOf s x
  let l := (s.book.entries.filter (fun e => !seqBefore e.seq f)).take 40
  let old := oldestSeq s.book
  (l, (l.getLast?.map (fun e => e.seq + 1)).getD f, if seqBefore f old then (old - f).toNat else 0)

/-! ## Values that no register holds -/

/-- A field of 1281h + i (R400, R406). -/
def sessionField (s : State) (i sub : Nat) : Nat :=
  match s.ledger.sessions.find? (fun x => x.index == i) with
  | none => if sub = 4 then 0xFF else 0
  | some x =>
    match sub with
    | 1 => x.id.toNat
    | 2 => x.level
    | 3 => match x.path with
      | .udp .. => 1
      | .can _ => 2
      | .fwd _ _ => 3
    | 4 => x.slot.toNat
    | 5 => ((s.now : Int) - x.last).toNat / 3200000
    | _ => x.violations

/-- MAINS_POS: the tracker's cycle and phase at this tick. -/
def mainsNow (s : State) : Nat :=
  match s.mains.last, s.mains.period with
  | some l, some p =>
    let f : Rat := if p = 0 then 0 else ((s.now * 256 : Nat) - l) / p
    (s.mains.cycle + BitVec.ofInt 32 f.floor).toNat * 65536 + ((f - f.floor) * 65536).floor.toNat % 65536
  | _, _ => s.mains.cycle.toNat * 65536

/-- SSTAT of a sink (R475 to R478): ON and LIMITED as they stand. -/
def sinkStat (s : State) (k : Fin 16) : Nat :=
  let v := s.u (Obj.SINK.SSTAT k)
  withBit (withBit v Bit.SINK.SSTAT.ON (sinkOn s k)) Bit.SINK.SSTAT.LIMITED (sinkOn s k && decide (s.u Obj.SINK.SCALE_NOW < 0xFFFF))

/-- Objects that show a quantity the spec gives no way to compute (log entry 16): LOAD and the power estimate. -/
def freeObject (key : Nat) : Bool :=
  key == Obj.ARRAY.LOAD.key || key == Obj.HEALTH.POWER.key

/-- The sink whose measured current an object reports (R482). -/
def sinkMeas (key : Nat) : Option (Fin 16) :=
  if h : 0x60 ≤ key % 256 ∧ key % 256 < 0x70 then (if key / 256 = 0x7200 then some ⟨key % 256 - 0x60, by omega⟩ else none) else none

/-- Whether a read of an object draws a free value: those that report what the device measures, of a sink only while it is on. -/
def measuredObject (s : State) (key : Nat) : Bool := freeObject key || (sinkMeas key).any (sinkOn s)

/-- BUS_STATE (R409): error active or passive as the error counts make it. -/
def busState (s : State) : Nat :=
  if s.u Obj.CAN.CAN_EN = 0 then 0 else if s.can.busOff then 3
  else if s.u Obj.CAN.TEC ≤ 127 ∧ s.u Obj.CAN.REC ≤ 127 then 1 else 2

/-- The value of an object that the state determines without holding it. -/
def computed (s : State) (x : Session) (key : Nat) : Option Nat :=
  let i := key / 256
  let b := key % 256
  if b = 0 then none
  else if b = 0xFF then some (if s.isApplying i then 1 else 0)
  else if measuredObject s key then some (Config.measured s.fresh)
  else if key = Obj.SESSIONS.OWN.key then some x.id.toNat
  else if 0x1281 ≤ i ∧ i < 0x12A1 then some (sessionField s (i - 0x1281) b)
  else if key = Obj.CAN.BUS_STATE.key then some (busState s)
  else if key = Obj.EPOCH.NOW.key then some (epochVal (s.now * 256))
  else if key = Obj.AXIS_STATUS.MAINS_POS.key then some (mainsNow s)
  else if 0x3800 ≤ i ∧ i < 0x4000 ∧ i % 256 = 3 ∧ b = 5 then some (budget s.u (groupPort i))
  else if key = Obj.ARRAY.YARD_FREE.key then some (yardFree s)
  else if key = Obj.MEMORY.POOL_SIZE.key then some (poolSize s)
  else if key = Obj.MEMORY.POOL_FREE.key then some (poolFree s)
  else if h : 0x7A41 ≤ i ∧ i < 0x7A43 ∧ b = 8 then
    s.dram[(⟨i - 0x7A41, by omega⟩ : Fin 2)].repair.map (passProgress s ⟨i - 0x7A41, by omega⟩)
  else if h : 0x6000 ≤ i ∧ i < 0x6100 then
    (if key = (Obj.STREAM.SSTATE (i - 0x6000)).key then
      some ((s.streamState ⟨i - 0x6000, by omega⟩).u (Obj.STREAM.SSTATE (i - 0x6000))) else none)
  else if h : i = 0x7200 ∧ 0x50 ≤ b ∧ b < 0x60 then some (sinkStat s ⟨b - 0x50, by omega⟩)
  else if key = Obj.DAYBOOK.FROM.key then some (fromOf s x).toNat
  else if key = Obj.DAYBOOK.LOST.key then some x.lost
  else none

/-- The value of an object of fixed size, in force or staged (R386). -/
def valueOf (s : State) (x : Session) (staged : Bool) (key : Nat) (row : ObjRow) : Nat :=
  let v := (computed s x key).getD (rf s.regs key (defaultOf key row))
  (if staged then rf s.staged key v else v) % 2 ^ (8 * row.ty.bytes)

/-- The bytes of a VIS or BLOB object, in force or staged; one of fixed size is filled with zeros. -/
def blobBytes (s : State) (x : Session) (staged : Bool) (key : Nat) : List Byte :=
  if key = Obj.DAYBOOK.ENTRIES then (readEntries s x).1.flatMap DbEntry.bytes
  else
    let l := if staged then s.blobStaged key else s.blob key
    if fixedSize key = 0 then l else padTo (fixedSize key) l

/-- The bytes a read returns. -/
def objBytes (s : State) (x : Session) (staged : Bool) (key : Nat) (row : ObjRow) : List Byte :=
  if isBlob row.ty then blobBytes s x staged key else le row.ty.bytes (valueOf s x staged key row)

/-! ## What a read does -/

/-- The port of a QUEUE_PEAK object. -/
def queuePeakOf (key : Nat) : Option Port :=
  if 0x3800 ≤ key / 256 ∧ key / 256 < 0x4000 ∧ key / 256 % 256 = 3 ∧ key % 256 = 6 then some (groupPort (key / 256)) else none

/-- What a read of an array object restarts: CYCLES_MAX of a stall, MIGRATED of a pitch. -/
def State.afterArrayRead (s : State) (key : Nat) : State :=
  let i := key / 256
  if 0x5010 ≤ i ∧ i < 0x5094 ∧ key % 256 = 5 then s.put (Obj.STALL.CYCLES_MAX (i - 0x5010)) 0
  else if 0x5140 ≤ i ∧ i < 0x5200 ∧ key % 256 = 0x12 then s.clrBit (Obj.PITCH.PFLAGS (i - 0x5140)) Bit.PITCH.PFLAGS.MIGRATED
  else s

/-- A read of an object has acted: measures that a read restarts (R149, R208, R381, R528), the day book position of the session (R415), the draw
of a free value. -/
def State.afterRead (s : State) (x : Session) (key : Nat) : State :=
  match queuePeakOf key with
  | some n => s.put (Obj.PIPE_STATUS.QUEUE_PEAK n) s.pipes[n].queued
  | none =>
    if key = Obj.COMPRESSION.COMP_LAT_MAX.key then s.put Obj.COMPRESSION.COMP_LAT_MAX 0
    else if key = Obj.HEALTH.T_MAX.key then s.restartTMax
    else if key = Obj.DAYBOOK.ENTRIES then
      let e := readEntries s x
      s.modSession x.id (fun y => { y with frm := some e.2.1, lost := y.lost + e.2.2 })
    else if measuredObject s key then s.drawn
    else s.afterArrayRead key

/-! ## READ (R392 to R394) -/

/-- The refusal of a read; 0 for none. -/
def readCode (s : State) (x : Session) (staged : Bool) (key : Nat) (row : ObjRow) : Nat :=
  if row.acc = .wo then 0x0203
  else if isBlob row.ty ∧ 1400 < (blobBytes s x staged key).length then 0x0301
  else 0

/-- A READ of a session: its code and what follows it in the answer. -/
def State.readFor (s : State) (x : Session) (idx sub : Nat) (staged : Bool) : State × Nat × List Byte :=
  match lookup s idx sub with
  | .error c => (s, c, [])
  | .ok row =>
    let key := idx * 256 + sub
    let c := readCode s x staged key row
    if c ≠ 0 then (s, c, [])
    else (s.afterRead x key, 0, le 1 row.ty.code ++ le 1 0 ++ objBytes s x staged key row)

/-- A READ message (R392, R393). -/
def State.readMsg (s : State) (r : Req) (idx sub rflags : Nat) : State :=
  match gate s 0x10 r (le 2 idx ++ le 1 sub ++ le 1 rflags) with
  | .stop t => t
  | .go t x =>
    let e := t.readFor x idx sub (rflags.testBit 0)
    e.1.reply x 0x10 r e.2.1 e.2.2

/-- READ. -/
def execReadObj (r : Req) (index : BitVec 16) (sub : BitVec 8) (staged : Bool) (s : State) : Result :=
  .next (s.readMsg r index.toNat sub.toNat (if staged then 1 else 0))

/-- ENTRIES (R415): a read of 7F00h.05. -/
def execEntries (r : Req) (s : State) : Result := .next (s.readMsg r 0x7F00 5 0)

/-- QUEUE_PEAK (R149): a read of 3803h + 100h·n.06. -/
def execQueuePeak (r : Req) (n : Port) (s : State) : Result := .next (s.readMsg r (0x3803 + 0x100 * n.val) 6 0)

/-- COMP_LAT_MAX (R381): a read of 6100h.06. -/
def execCompLatMax (r : Req) (s : State) : Result := .next (s.readMsg r 0x6100 6 0)

/-- T_MAX (R528): a read of 7A00h.09. -/
def execTMax (r : Req) (s : State) : Result := .next (s.readMsg r 0x7A00 9 0)

end Sys2Proof.Machine
end

