-- ==== Sys2Proof/Machine/Write.lean ====
section
/-! DEFINITION. Writes of objects (R383, R386, R387, R393, R402): the checks in their order, what acts at once, the staged copy, APPLY. -/

namespace Sys2Proof.Machine

/-! ## What a write is checked for -/

/-- The groups whose staged copy a record belongs to (R386, R44, R98). -/
def groupsOf (idx : Nat) : List Nat :=
  let o := idx % 256
  let b := idx / 256 * 256
  if 0x3000 ≤ idx ∧ idx < 0x3800 then
    if 0x40 ≤ o ∧ o < 0x80 then [idx, b + 0x20]
    else if 0x80 ≤ o then [b + 0x10 + (o - 0x80) / 8]
    else [idx]
  else [idx]

/-- The first code of some that is no 0. -/
def firstCode : List Nat → Nat
  | [] => 0
  | c :: l => if c = 0 then firstCode l else c

/-- Whether a written value lies in its object's range (R382, R383). -/
def inRange (row : ObjRow) (v : Nat) : Bool :=
  match row.range with
  | none => true
  | some (a, b) =>
    let x : Int := if row.ty.signed then toSigned (8 * row.ty.bytes) v else v
    (decide (a ≤ x) && decide (x ≤ b)) || row.also == some v

/-- The bits of a written value that are not reserved (R9). -/
def unreserved (row : ObjRow) (v : Nat) : Nat :=
  match row.mask with
  | some m => v &&& m
  | none => v

/-- Whether an RO object takes a W1C write (R383). -/
def isW1c (row : ObjRow) : Bool := row.acc == .ro && row.w1c != 0

/-- The level a write needs (R383). -/
def levelOf (row : ObjRow) : Nat := if isW1c row then 1 else row.level

/-- Whether a value has its type's size: a BLOB of fixed length exactly that. -/
def sizeGood (key : Nat) (row : ObjRow) (value : List Byte) : Bool :=
  if isBlob row.ty then fixedSize key == 0 || value.length == fixedSize key
  else value.length == row.ty.bytes

/-- The slot of an IMAGE object. -/
def imageSlot (key : Nat) : Option (Fin 16) :=
  if h : 0x5110 ≤ key / 256 ∧ key / 256 < 0x5120 ∧ key % 256 = 1 then some ⟨key / 256 - 0x5110, by omega⟩ else none

/-- The target of a START object. -/
def startTarget (key : Nat) : Option Nat :=
  if 0x7810 ≤ key / 256 ∧ key / 256 < 0x7824 ∧ key % 256 = 1 then some (key / 256 - 0x7810) else none

/-- The channel of a REPAIR object. -/
def repairChannel (key : Nat) : Option (Fin 2) :=
  if h : 0x7A41 ≤ key / 256 ∧ key / 256 < 0x7A43 ∧ key % 256 = 7 then some ⟨key / 256 - 0x7A41, by omega⟩ else none

def fwImageKey : Nat := 0x7A00 * 256 + 0x13

/-- Whether a standby refuses a write (R441): a mirrored group's, but for ZERO_DELAY, PHASE_SIGN and the APPLY that commits them. -/
def standbyHolds (s : State) (key : Nat) : Bool :=
  let i := key / 256
  let own := decide (0x3800 ≤ i) && decide (i < 0x4000) && i % 256 == 0 && (ownObject key || key % 256 == 0xFE)
  standby s && mirrored s i && !own

/-- The rules of 0301h that an object's own chapter states (R203). -/
def formCode (key : Nat) (value : List Byte) : Nat :=
  match imageSlot key with
  | some _ => if imageGood value then 0 else 0x0301
  | none => 0

/-- The rules of 0302h: the row's range, and those of ARM_GROUP, START, SWITCH and ZEROIZE (R279, R484, R514, R520). -/
def rangeCode (s : State) (key : Nat) (row : ObjRow) (v : Nat) : Nat :=
  if !isBlob row.ty && !isW1c row && !inRange row (unreserved row v) then 0x0302
  else if key = Obj.CAPTURE.ARM_GROUP.key ∧ v / 256 % 4 = 3 then 0x0302
  else if key = Obj.HEALTH.SWITCH.key then switchCode s v
  else if key = Obj.HEALTH.ZEROIZE.key then (if v = serialCrc s then 0 else 0x0302)
  else match startTarget key with
    | some k => if v = 1 ∧ calRefusal s k = 0x0302 then 0x0302 else 0
    | none => 0

/-- YARD_ALLOC and DRAM_ALLOC below the image's figure while a pitch runs the slot (R205). -/
def allocHeld (s : State) (key v : Nat) : Bool :=
  let g := key / 256 - 0x5110
  decide (0x5110 ≤ key / 256) && decide (key / 256 < 0x5120) && s.u (Obj.PROGRAM_SLOT.USERS g) != 0 &&
  ((key == (Obj.PROGRAM_SLOT.YARD_ALLOC g).key && decide (v < imageField (s.programs.toList.getD g {}).image 32 4)) ||
   (key == (Obj.PROGRAM_SLOT.DRAM_ALLOC g).key && decide (v < imageField (s.programs.toList.getD g {}).image 36 4)))

/-- The rules of 0401h but for an open transfer (R203, R205, R441, R484, R513). -/
def heldCode (s : State) (key : Nat) (row : ObjRow) (v : Nat) : Nat :=
  let held :=
    (!isW1c row && standbyHolds s key) || allocHeld s key v || (key == fwImageKey && fwBusy s) ||
    (match imageSlot key with
      | some g => s.programs[g].placing
      | none => false) ||
    (match startTarget key with
      | some k => v == 1 && calRefusal s k == 0x0401
      | none => false)
  if held then 0x0401 else 0

/-- The port of a SEND object. -/
def sendPort (key : Nat) : Option Port :=
  if 0x3000 ≤ key / 256 ∧ key / 256 < 0x3800 ∧ key / 256 % 256 = 3 ∧ key % 256 = 5 then some (groupPort (key / 256)) else none

/-- The rules of 0601h (R94, R334). -/
def spareCode (s : State) (key v : Nat) : Nat :=
  match sendPort key, repairChannel key with
  | some n, _ => if 16 ≤ s.ports[n].fctl.host.length then 0x0601 else 0
  | none, some c => repairRefusal s c v
  | none, none => 0

/-- The refusal of an image that the yard or the pool does not hold (R182, R337). -/
def imageCode (s : State) (key : Nat) (value : List Byte) : Nat :=
  match imageSlot key with
  | some g => imageSpare s g value
  | none => 0

/-- Whether a transfer to an object is open in any session (R395). -/
def transferTo (s : State) (key : Nat) : Bool :=
  s.ledger.sessions.any (fun x => match x.transfer with
    | some t => t.key == key
    | none => false)

/-- Whether a group's pending APPLY refuses a write (R387). -/
def applyPends (s : State) (key : Nat) (row : ObjRow) : Bool :=
  (enters key row || key % 256 == 0xFE) && (groupsOf (key / 256)).any s.isApplying

/-- The checks of R393 on a write up to those of 0402h. -/
def accessCode (s : State) (x : Session) (key : Nat) (row : ObjRow) (ty : Nat) (value : List Byte) : Nat :=
  if row.acc = .ro ∧ !isW1c row then 0x0202
  else if x.level < levelOf row then 0x0201
  else if ty ≠ row.ty.code ∨ !sizeGood key row value then 0x0301
  else firstCode [formCode key value, if applyPends s key row then 0x0402 else 0]

/-- The checks after them; `open'` says whether a transfer to the object counts. -/
def effectCode (s : State) (key : Nat) (row : ObjRow) (value : List Byte) (open' : Bool) : Nat :=
  let v := if isBlob row.ty then 0 else fromLe value
  firstCode [rangeCode s key row v, if open' && transferTo s key then 0x0401 else 0, heldCode s key row v, spareCode s key v,
    imageCode s key value]

/-! ## What acts when it is answered -/

/-- KILL of another session (R400). -/
def State.killOther (s : State) (x : Session) (id : Nat) : State := if x.id.toNat = id then s else s.endSession (BitVec.ofNat 32 id)

/-- An accepted image (R203): its journal waits for a write, and a twin's standby is sent it (R441, R495). -/
def State.takeImage (s : State) (g : Fin 16) (l : List Byte) : State :=
  let t := (imageEff s g l false).journal (2 + g.val)
  if active t then t.sendCommit (imageRecord t g) else t

/-- The effect of a write of a command object of a port. -/
def State.portCommand (s : State) (key v : Nat) : State :=
  let i := key / 256
  let n := groupPort i
  if i < 0x3800 then sendEff s n (BitVec.ofNat 32 v)
  else if i < 0x4000 then relearnEff s n v
  else releaseEff s n v

/-- The effect of a write of a WO object of fixed size, but for those that act after the answer. -/
def State.command (s : State) (x : Session) (key v : Nat) : State :=
  match startTarget key, repairChannel key with
  | some k, _ => if v = 1 then calStartEff s k else if v = 0 then s.calAbort k else s
  | none, some c => repairEff s c v
  | none, none =>
    if key = Obj.SESSIONS.KILL.key then s.killOther x v
    else if key = Obj.EPOCH.SEC_LABEL.key then secLabelEff s v
    else if key = Obj.AXIS_CONFIG.ENC_PRESET.key then encPresetEff s v
    else if isPortGroup (key / 256) then s.portCommand key v
    else if key = Obj.CAPTURE.FIRE_GROUP.key then fireGroupEff s v
    else if key = Obj.CAPTURE.ARM_GROUP.key then armGroupEff s v
    else if key = Obj.TWIN.YIELD.key then yieldEff s v
    else if key = Obj.SINK.CLEAR_SHORT.key then clearShortEff s v
    else if key = Obj.HEALTH.CONFIRM.key then confirmEff s v
    else if key = Obj.HEALTH.DBG_LOCK.key then dbgLockEff s v
    else s

/-- The effect of a write of a BLOB that acts when it is answered, with the code of its own checks (R203, R480, R513). -/
def State.blobCommand (s : State) (key : Nat) (value : List Byte) : State × Nat :=
  match imageSlot key with
  | some g => (s.takeImage g value, 0)
  | none =>
    if key = fwImageKey then fwImageEff s value
    else if key = Obj.CHAIN.IMAGE then (chainImageEff s value, 0)
    else (s, 0)

/-- What acts once the answer has left (R400, R504, R514, R520). -/
def State.afterWrite (s : State) (x : Session) (key v : Nat) : State :=
  if key = Obj.SESSIONS.KILL.key then (if v = x.id.toNat then s.endSession x.id else s)
  else if key = Obj.HEALTH.RESET.key then resetEff s v
  else if key = Obj.HEALTH.SWITCH.key then switchEff s v
  else if key = Obj.HEALTH.ZEROIZE.key then s.zeroizeNow
  else s

/-! ## The staged copy -/

/-- The mask over a key (R402). -/
def keyMask (x : Session) (seq : BitVec 32) : List Byte := hmac x.key ([0x4B] ++ le 4 seq.toNat)

def xorBytes (a b : List Byte) : List Byte := List.zipWith (· ^^^ ·) a b

/-- A value enters the staged copy. -/
def State.stage (s : State) (x : Session) (r : Req) (key : Nat) (row : ObjRow) (value : List Byte) : State :=
  if 0x1200 ≤ key / 256 ∧ key / 256 < 0x1210 ∧ key % 256 = 1 then
    { s with stagedBlobs := blobSet s.stagedBlobs key (xorBytes value (keyMask x r.seq)) }
  else if isBlob row.ty then { s with stagedBlobs := blobSet s.stagedBlobs key value }
  else { s with staged := rfSet s.staged key (unreserved row (fromLe value)) }

/-- The W1C bits written 1 clear (R383, R10); of a set and a clear in one root cycle the later in the queue decides (log entry 93). -/
def State.clearBits (s : State) (key : Nat) (row : ObjRow) (v : Nat) : State :=
  let old := rf s.regs key (defaultOf key row)
  { s with regs := rfSet s.regs key (old - (old &&& v &&& row.w1c)) }

/-- The effect of a write whose checks have passed. -/
def State.writeEff (s : State) (x : Session) (r : Req) (key : Nat) (row : ObjRow) (value : List Byte) : State × Nat :=
  if isW1c row then (s.clearBits key row (fromLe value), 0)
  else if enters key row then (s.stage x r key row value, 0)
  else if key = Obj.DAYBOOK.FROM.key then
    (s.modSession x.id (fun y => { y with frm := some (BitVec.ofNat 32 (fromLe value)) }), 0)
  else if isBlob row.ty then s.blobCommand key value
  else (s.command x key (unreserved row (fromLe value)), 0)

/-! ## APPLY (R387) -/

/-- The keys that a commit of a key slot has taken go to the key store (R402, R519). -/
def State.storeKey (s : State) (k : Nat) : State :=
  match blobOf s.blobs (Obj.KEY_SLOT.KEY k) with
  | none => s
  | some l =>
    { s with blobs := s.blobs.filter (fun e => e.1 != Obj.KEY_SLOT.KEY k),
             ledger := { s.ledger with keys := (k, l) :: s.ledger.keys.filter (fun e => e.1 != k) } }

/-- A group takes effect, or waits for its boundary. -/
def State.applied (s : State) (idx : Nat) : State :=
  let t := s.groupApplied idx
  if 0x1200 ≤ idx ∧ idx < 0x1210 then t.storeKey (idx - 0x1200) else t

/-- A write of 1 to APPLY: the checks, and the group's way to its boundary. -/
def State.applyFor (s : State) (x : Session) (r : Req) (idx : Nat) : State × Nat :=
  let c := applyCode s idx
  let code := if c = 0x0302 then c else if standbyHolds s (idx * 256 + 0xFE) then 0x0401 else c
  if code ≠ 0 then (s.judgeSets idx code, code)
  else
    let t := s.judgeSets idx 0
    let a : Applying := ⟨idx, x.id, BitVec.ofNat 32 (sourceWord r.path)⟩
    ({ t with ledger := { t.ledger with applying := t.ledger.applying ++ [a] } }.applied idx, 0)

/-! ## WRITE (R392, R393) -/

/-- LOAD_STATUS of a slot whose image is refused for its form or its place (R203). -/
def State.loadStatus (s : State) (key code : Nat) : State :=
  match imageSlot key with
  | some g => if code = 0x0301 ∨ code = 0x0401 then s.put (Obj.PROGRAM_SLOT.LOAD_STATUS g) code else s
  | none => s

/-- A WRITE of a session with its code. -/
def State.writeFor (s : State) (x : Session) (r : Req) (idx sub ty : Nat) (value : List Byte) : State × Nat :=
  match lookup s idx sub with
  | .error c => (s, c)
  | .ok row =>
    let key := idx * 256 + sub
    let c := accessCode s x key row ty value
    if c ≠ 0 then (s.loadStatus key c, c)
    else if sub = 0xFE then (if fromLe value = 1 then s.applyFor x r idx else (s, 0x0302))
    else
      let c := effectCode s key row value true
      if c ≠ 0 then (s.loadStatus key c, c) else s.writeEff x r key row value

/-- A WRITE message; what acts after its answer acts then. -/
def State.writeMsg (s : State) (r : Req) (idx sub ty : Nat) (value : List Byte) : State :=
  match gate s 0x11 r (le 2 idx ++ le 1 sub ++ le 1 ty ++ value) with
  | .stop t => t
  | .go t x =>
    let e := t.writeFor x r idx sub ty value
    let u := e.1.reply x 0x11 r e.2 []
    if e.2 = 0 then u.afterWrite x (idx * 256 + sub) (fromLe value) else u

/-- A WRITE of an object under its own type, as a host command sends it. -/
def State.writeObject (s : State) (r : Req) (idx sub : Nat) (ty : Ty) (v : Nat) : State :=
  s.writeMsg r idx sub ty.code (le ty.bytes v)

/-- WRITE. -/
def execWriteObj (r : Req) (index : BitVec 16) (sub : BitVec 8) (ty : BitVec 8) (value : List Byte) (s : State) : Result :=
  .next (s.writeMsg r index.toNat sub.toNat ty.toNat value)

/-- W1C_CLEAR (R383). -/
def execW1cClear (r : Req) (index : BitVec 16) (sub : BitVec 8) (value : BitVec 32) (s : State) : Result :=
  .next (s.writeObject r index.toNat sub.toNat .bits32 value.toNat)

/-- APPLY (R387). -/
def execApply (r : Req) (index : BitVec 16) (s : State) : Result := .next (s.writeObject r index.toNat 0xFE .u8 1)

/-- KEY (R402). -/
def execKey (r : Req) (k : Fin 16) (masked : List Byte) (s : State) : Result :=
  .next (s.writeMsg r (0x1200 + k.val) 1 Ty.blob.code masked)

/-- KILL (R400). -/
def execKill (r : Req) (id : BitVec 32) (s : State) : Result := .next (s.writeObject r 0x1280 3 .u32 id.toNat)

/-- FROM (R415). -/
def execFromPos (r : Req) (v : BitVec 32) (s : State) : Result := .next (s.writeObject r 0x7F00 4 .u32 v.toNat)

/-- SEC_LABEL (R19). -/
def execSecLabel (r : Req) (v : BitVec 64) (s : State) : Result := .next (s.writeObject r 0x2100 9 .u64 v.toNat)

/-- ENC_PRESET (R36). -/
def execEncPreset (r : Req) (v : BitVec 32) (s : State) : Result := .next (s.writeObject r 0x2102 7 .i32 v.toNat)

/-- SEND (R94). -/
def execSend (r : Req) (n : Port) (w : BitVec 32) (s : State) : Result :=
  .next (s.writeObject r (0x3003 + 0x100 * n.val) 5 .u32 w.toNat)

/-- RELEARN (R149). -/
def execRelearn (r : Req) (n : Port) (v : BitVec 8) (s : State) : Result :=
  .next (s.writeObject r (0x3801 + 0x100 * n.val) 9 .u8 v.toNat)

/-- RELEASE (R178). -/
def execRelease (r : Req) (n : Port) (buf : BitVec 8) (s : State) : Result :=
  .next (s.writeObject r (0x4800 + 0x100 * n.val) 5 .u8 buf.toNat)

/-- IMAGE (R203). -/
def execImage (r : Req) (g : Fin 16) (bytes : List Byte) (s : State) : Result :=
  .next (s.writeMsg r (0x5110 + g.val) 1 Ty.blob.code bytes)

/-- FIRE_GROUP (R279). -/
def execFireGroup (r : Req) (v : BitVec 8) (s : State) : Result := .next (s.writeObject r 0x5280 8 .u8 v.toNat)

/-- ARM_GROUP (R279). -/
def execArmGroup (r : Req) (v : BitVec 16) (s : State) : Result := .next (s.writeObject r 0x5280 9 .u16 v.toNat)

/-- ARM_GROUP_DISARM (R279): ARM_MODE 0. -/
def execArmGroupDisarm (r : Req) (v : BitVec 8) (s : State) : Result := .next (s.writeObject r 0x5280 9 .u16 v.toNat)

/-- REPAIR (R334). -/
def execRepair (r : Req) (ch : Fin 2) (lane : BitVec 8) (s : State) : Result :=
  .next (s.writeObject r (0x7A41 + ch.val) 7 .u8 lane.toNat)

/-- YIELD (R453). -/
def execYield (r : Req) (v : BitVec 8) (s : State) : Result := .next (s.writeObject r 0x6300 0xC .u8 v.toNat)

/-- CLEAR_SHORT (R478). -/
def execClearShort (r : Req) (mask : BitVec 16) (s : State) : Result := .next (s.writeObject r 0x7200 7 .bits32 mask.toNat)

/-- CHAIN_IMAGE (R480). -/
def execChainImage (r : Req) (bits : List Byte) (s : State) : Result := .next (s.writeMsg r 0x7300 6 Ty.blob.code bits)

/-- CAL_START (R484). -/
def execCalStart (r : Req) (k : Fin 20) (s : State) : Result := .next (s.writeObject r (0x7810 + k.val) 1 .u8 1)

/-- CAL_STOP (R485). -/
def execCalStop (r : Req) (k : Fin 20) (s : State) : Result := .next (s.writeObject r (0x7810 + k.val) 1 .u8 0)

/-- RESET (R504). -/
def execReset (r : Req) (v : BitVec 8) (s : State) : Result := .next (s.writeObject r 0x7A00 0x19 .u8 v.toNat)

/-- ZEROIZE (R520). -/
def execZeroize (r : Req) (v : BitVec 32) (s : State) : Result := .next (s.writeObject r 0x7A00 0x1A .u32 v.toNat)

/-- SWITCH_LIVE (R514). -/
def execSwitchLive (r : Req) (s : State) : Result := .next (s.writeObject r 0x7A00 0x15 .enum8 1)

/-- SWITCH_RESET (R514). -/
def execSwitchReset (r : Req) (s : State) : Result := .next (s.writeObject r 0x7A00 0x15 .enum8 2)

/-- CONFIRM (R515). -/
def execConfirm (r : Req) (s : State) : Result := .next (s.writeObject r 0x7A00 0x16 .u8 1)

/-- DBG_LOCK (R524). -/
def execDbgLock (r : Req) (v : BitVec 8) (s : State) : Result := .next (s.writeObject r 0x7A00 0x1E .u8 v.toNat)

end Sys2Proof.Machine
end

