-- ==== Sys2Proof/Machine/Segment.lean ====
section
/-! DEFINITION. Segmented transfers and snapshots (R395 to R397, R338) and the decompressor (R377 to R380, R439). -/

namespace Sys2Proof.Machine

/-! ## The share of R338 -/

def State.modTransfer (s : State) (id : BitVec 32) (f : Transfer → Transfer) : State :=
  s.modSession id (fun x => { x with transfer := x.transfer.map f })

/-- The original of a BALE transfer: those of its bales, in order (R396). -/
def Transfer.original (t : Transfer) : List Byte :=
  (List.range t.bales).flatMap (fun k => ((t.decoded.find? (fun e => e.1 == k)).map (·.2)).getD [])

/-- What a session's transfer and snapshot hold of the share. -/
def shareOf (x : Session) : Nat :=
  (match x.transfer with
    | some t => if t.key = fwImageKey then 0 else t.total + (t.decoded.map (fun e => e.2.length)).sum
    | none => 0) +
  (match x.snapshot with
    | some e => e.2.length
    | none => 0)

/-- Whether the share holds some bytes more. -/
def shareHolds (s : State) (need : Nat) : Bool :=
  !s.dramFailed || decide ((s.ledger.sessions.map shareOf).sum + need ≤ 1048576)

/-! ## The end of a transfer -/

/-- The length limit of an object (R395). -/
def limitOf (key : Nat) (row : ObjRow) : Nat :=
  if row.ty = .vis then 255
  else if 0 < fixedSize key then fixedSize key
  else if (imageSlot key).isSome then 84 + 32768
  else 16777216

def State.dropTransfer (s : State) (id : BitVec 32) : State := s.modSession id (fun x => { x with transfer := none })

/-- A bank that takes an image's bytes as they arrive (R338). -/
def State.fwArrives (s : State) (key : Nat) (l : List Byte) : State :=
  if key = fwImageKey ∧ s.dramFailed then (s.putBank (otherBank s.boot.inUse) ⟨l, false⟩).bankFigures else s

/-- The bytes of a whole transfer are written to its object: the code and the state. -/
def State.writeWhole (s : State) (x : Session) (r : Req) (key : Nat) (value : List Byte) : State × Nat :=
  match lookup s (key / 256) (key % 256) with
  | .error c => (s, c)
  | .ok row =>
    let c :=
      if limitOf key row < value.length ∨ !sizeGood key row value then 0x0301
      else firstCode [formCode key value, if applyPends s key row then 0x0402 else 0, effectCode s key row value false]
    if c ≠ 0 then (s.loadStatus key c, c) else s.writeEff x r key row value

/-- A transfer ends with an answer to its SEG_END. -/
def State.endTransfer (s : State) (x : Session) (r : Req) (code : Nat) : State := (s.dropTransfer x.id).reply x 0x14 r code []

/-- FW_STATUS 7 for an image that a decode error discards (R513). -/
def State.fwDecodeFails (s : State) (key : Nat) : State := if key = fwImageKey then s.put Obj.HEALTH.FW_STATUS 7 else s

/-- A SEG_END whose bytes have all come under their CRC and whose bales are all decoded (R395, R396). -/
def State.finishTransfer (s : State) (x : Session) (r : Req) (t : Transfer) : State :=
  match t.failed with
  | some c => s.endTransfer x r c
  | none =>
    let e := s.writeWhole x r t.key (if t.bale then t.original else t.bytes)
    e.1.endTransfer x r e.2

/-! ## SEG_BEGIN, SEG_DATA, SEG_END, SEG_READ -/

/-- Whether a transfer to an object enters what 0401h guards beside other transfers: a group of a standby, an image in placement, firmware. -/
def beginHeld (s : State) (key : Nat) (row : ObjRow) : Bool := heldCode s key row 0 != 0

/-- The refusal of a SEG_BEGIN; 0 for none. -/
def beginCode (s : State) (x : Session) (key : Nat) (row : ObjRow) (bale : Bool) (total : Nat) : Nat :=
  if row.acc = .ro ∧ !isW1c row then 0x0202
  else if x.level < levelOf row then 0x0201
  else if !isBlob row.ty ∨ (0x1200 ≤ key / 256 ∧ key / 256 < 0x1210) ∨ (!bale ∧ limitOf key row < total) then 0x0301
  else if applyPends s key row then 0x0402
  else if x.transfer.isSome ∨ transferTo s key ∨ beginHeld s key row then 0x0401
  else if key ≠ fwImageKey ∧ !shareHolds s total then 0x0601
  else 0

/-- A SEG_BEGIN of a session with its code. -/
def State.beginFor (s : State) (x : Session) (idx sub : Nat) (bale : Bool) (total : Nat) : State × Nat :=
  match lookup s idx sub with
  | .error c => (s, c)
  | .ok row =>
    let key := idx * 256 + sub
    let c := beginCode s x key row bale total
    if c ≠ 0 then (s, c)
    else
      let t := s.modSession x.id (fun y => { y with transfer := some { serial := s.ledger.serial, key := key, bale := bale, total := total } })
      (({ t with ledger := { t.ledger with serial := s.ledger.serial + 1 } }).fwArrives key [], 0)

/-- SEG_BEGIN (R395). -/
def execSegBegin (r : Req) (index : BitVec 16) (sub : BitVec 8) (bale : Bool) (total : BitVec 32) (s : State) : Result :=
  .next (answered s 0x12 r (le 2 index.toNat ++ le 1 sub.toNat ++ le 1 (if bale then 1 else 0) ++ le 4 total.toNat)
    (fun t x => t.beginFor x index.toNat sub.toNat bale total.toNat))

/-- The bales that stand whole at the start of some bytes of a transfer; when its last byte has come, the rest is one more (R377). -/
def wholeBales : Nat → Bool → List Byte → List (List Byte)
  | 0, _, _ => []
  | f + 1, isLast, l =>
    let n := 16 + fromLe (slice l 8 4)
    if l.isEmpty then []
    else if 16 ≤ l.length ∧ n ≤ l.length then l.take n :: wholeBales f isLast (l.drop n)
    else if isLast then [l] else []

/-- The bytes that a SEG_DATA brings to a transfer, and the bales they complete (R380); 0601h where the queue lacks a place for one. -/
def State.dataFor (s : State) (x : Session) (offset : Nat) (bytes : List Byte) : State × Nat :=
  match x.transfer with
  | none => (s, 0x0502)
  | some t =>
    if offset ≠ t.bytes.length ∨ t.requested.isSome then (s, 0x0502)
    else if t.total < t.bytes.length + bytes.length then (s, 0x0301)
    else
      let l := t.bytes ++ bytes
      let new := if t.bale then wholeBales (l.length + 1) (l.length == t.total) (l.drop t.seen) else []
      if 64 < s.bale.decode.length + new.length then (s, 0x0601)
      else
        let use : Fin 3 := if t.key = fwImageKey then 1 else 0
        let reqs := new.zipIdx.map (fun e => ({ use := use, owner := x.id, transfer := t.serial, bytes := e.1, number := t.bales + e.2 } : DecodeReq))
        let u := s.modTransfer x.id (fun y =>
          { y with bytes := l, seen := t.seen + (new.map List.length).sum, bales := t.bales + new.length })
        let u := { u with bale := { u.bale with decode := u.bale.decode ++ reqs } }
        (if t.bale then u else u.fwArrives t.key l, 0)

/-- SEG_DATA (R395). -/
def execSegData (r : Req) (offset : BitVec 32) (bytes : List Byte) (s : State) : Result :=
  .next (answered s 0x13 r (le 4 offset.toNat ++ bytes) (fun t x => t.dataFor x offset.toNat bytes))

/-- A SEG_END of a session (R395, R396): with BALE set its answer waits until the decompressor has ended every bale of the transfer. -/
def State.endFor (s : State) (x : Session) (r : Req) (crc : BitVec 32) : State :=
  match x.transfer with
  | none => s.reply x 0x14 r 0x0502 []
  | some t =>
    match t.requested with
    | some q => if q.seq = r.seq then s else s.reply x 0x14 r 0x0502 []
    | none =>
      if t.bytes.length < t.total then s.reply x 0x14 r 0x0301 []
      else if crc32c t.bytes ≠ crc then s.endTransfer x r 0x0301
      else if t.bale ∧ t.ended < t.bales then s.modTransfer x.id (fun y => { y with requested := some r })
      else s.finishTransfer x r t

/-- SEG_END (R395). -/
def execSegEnd (r : Req) (crc : BitVec 32) (s : State) : Result :=
  .next (match gate s 0x14 r (le 4 crc.toNat) with
  | .stop t => t
  | .go t x => t.endFor x r crc)

/-- The answer to a SEG_READ after its code: TOTAL and the bytes. -/
def segBody (l : List Byte) (offset max : Nat) : List Byte := le 2 0 ++ le 4 l.length ++ slice l offset max

/-- A SEG_READ of a session (R397): its code and what follows it. -/
def State.segReadFor (s : State) (x : Session) (idx sub offset max : Nat) : State × Nat × List Byte :=
  match lookup s idx sub with
  | .error c => (s, c, [])
  | .ok row =>
    let key := idx * 256 + sub
    if row.acc = .wo then (s, 0x0203, [])
    else if !isBlob row.ty then (s, 0x0301, [])
    else if max = 0 ∨ 1400 < max then (s, 0x0302, [])
    else if offset = 0 then
      let l := blobBytes s x false key
      let bare := s.modSession x.id (fun y => { y with snapshot := none })
      if !shareHolds bare l.length then (s, 0x0601, [])
      else (((s.afterRead x key).modSession x.id (fun y => { y with snapshot := some (key, l) })), 0, segBody l 0 max)
    else
      match x.snapshot with
      | some e => if e.1 = key then (s, 0, segBody e.2 offset max) else (s, 0x0502, [])
      | none => (s, 0x0502, [])

/-- SEG_READ (R397). -/
def execSegRead (r : Req) (index : BitVec 16) (sub : BitVec 8) (offset : BitVec 32) (max : BitVec 16) (s : State) : Result :=
  .next (match gate s 0x15 r (le 2 index.toNat ++ le 1 sub.toNat ++ le 1 0 ++ le 4 offset.toNat ++ le 2 max.toNat) with
  | .stop t => t
  | .go t x =>
    let e := t.segReadFor x index.toNat sub.toNat offset.toNat max.toNat
    e.1.reply x 0x15 r e.2.1 e.2.2)

/-! ## The decompressor (R377 to R380) -/

/-- The lowest lane that decodes nothing. -/
def freeLaneOf (l : List DecodeReq) : Option (Fin 8) := (List.finRange 8).find? (fun k => !l.any (fun d => d.lane == some k))

/-- The first request of a queue that waits for a lane takes one. -/
def giveLane (k : Fin 8) : List DecodeReq → List DecodeReq
  | [] => []
  | d :: l => if d.lane.isNone then { d with lane := some k } :: l else d :: giveLane k l

/-- DECODE_START (R380). -/
def execDecodeStart (s : State) : Result :=
  .next (match freeLaneOf s.bale.decode with
  | none => s
  | some k => { s with bale := { s.bale with decode := giveLane k s.bale.decode } })

/-- What the counters make of a decode (R378, R379): an error is grouped in the day book by its use and code. -/
def State.countDecode (s : State) (use : Fin 3) (err : Option Nat) : State :=
  match err with
  | none => (s.bump Obj.COMPRESSION.DECODE_OK).put Obj.COMPRESSION.BALE_STATUS 0
  | some c =>
    let t := (s.bump Obj.COMPRESSION.DECODE_ERR).bump (Obj.COMPRESSION.DZ_COUNT (c - 1))
    let t := (t.put Obj.COMPRESSION.BALE_STATUS c).put Obj.COMPRESSION.LAST_ERROR c
    t.summary (.decode use (Fin.ofNat 9 c))

/-- A bale of a transfer has been decoded; a SEG_END that waited for the last one is answered. A bale of a transfer that is no more changes
nothing. -/
def State.transferDecoded (s : State) (d : DecodeReq) (out : Except Nat (List Byte)) : State :=
  match sessionById s d.owner with
  | none => s
  | some x =>
    match x.transfer with
    | none => s
    | some t =>
      if t.serial ≠ d.transfer then s else
      let (dec, failed) : List (Nat × List Byte) × Option Nat := match out with
        | .error _ => (t.decoded, some 0x0301)
        | .ok o =>
          if t.key ≠ fwImageKey ∧ !shareHolds s o.length then (t.decoded, some 0x0601)
          else (t.decoded ++ [(d.number, o)], none)
      let t := { t with ended := t.ended + 1, decoded := dec, failed := t.failed.or failed }
      let s := match out with
        | .error _ => s.fwDecodeFails t.key
        | .ok _ => s.fwArrives t.key t.original
      match t.requested with
      | some r =>
        if t.ended < t.bales then s.modTransfer x.id (fun _ => t)
        else s.finishTransfer x r t
      | none => s.modTransfer x.id (fun _ => t)

/-- A peer stream's bale has been decoded (R439): it goes on from interface 0, or counts as lost. -/
def State.peerDecoded (s : State) (p : Fin 256 × BitVec 128 × Nat × List (List Byte)) (good : Bool) : State :=
  if good then
    p.2.2.2.foldl (fun (t : State) b => t.sendOn 0 (fun r => .stream 0 p.2.1 p.2.2.1 b r)) s
  else s.bump (Obj.STREAM.LOST p.1)

/-- DECODE_END (R378, R379): the lane's bale is decoded, or is discarded at its first error. -/
def execDecodeEnd (lane : Fin 8) (s : State) : Result :=
  .next (match s.bale.decode.find? (fun d => d.lane == some lane) with
  | none => s
  | some d =>
    let out := (decodeBale (d.use == 2) d.bytes).map (·.1)
    let t := { s with bale := { s.bale with decode := s.bale.decode.filter (fun e => e.lane != some lane) } }
    match out, d.peer with
    | .error c, some p => (t.countDecode d.use (some c)).peerDecoded p false
    | .error c, none => (t.countDecode d.use (some c)).transferDecoded d (.error c)
    | .ok _, some p => (t.countDecode d.use none).peerDecoded p true
    | .ok o, none => (t.countDecode d.use none).transferDecoded d (.ok o))

/-- A peer stream's datagrams in FRAG order (R358, R368); none unless each of the FRAGS that their headers name is there. -/
def inFragOrder (dgrams : List (List Byte)) : Option (List (List Byte)) :=
  let frags := fromLe (slice (dgrams.headD []) 18 2)
  let l := (List.range frags).map (fun i => dgrams.find? (fun d => fromLe (slice d 16 2) == i && fromLe (slice d 18 2) == frags))
  if l.all Option.isSome ∧ l.length = dgrams.length then some (l.filterMap id) else none

/-- The bale that a peer stream's datagrams carry in FRAG order, their 32-byte headers left off (R353, R358). -/
def joined (dgrams : List (List Byte)) : List Byte := dgrams.flatMap (fun d => d.drop 32)

/-- The bales of a peer stream that the links lost before one that comes (R439): the numbers missing since the last, of a stream that says of
none that it was dropped at its origin. -/
def baleGap (s : State) (origin : BitVec 11) (stream : Fin 256) (no : BitVec 32) (dropped : Bool) : Nat :=
  match s.twin.peers.find? (fun e => e.1 == (origin, stream)) with
  | some e => if dropped ∨ no.toNat ≤ e.2.toNat then 0 else no.toNat - e.2.toNat - 1
  | none => 0

/-- A peer stream's bale has come whole: its number is the last of its stream, and the bales lost before it count in LOST. -/
def State.peerNumbered (s : State) (stream : Fin 256) (d : List Byte) : State :=
  let origin := BitVec.ofNat 11 (fromLe (slice d 6 2))
  let no := BitVec.ofNat 32 (fromLe (slice d 12 4))
  let g := baleGap s origin stream no ((d.getD 2 0).getLsbD 3)
  let t := { s with twin := { s.twin with peers := ((origin, stream), no) :: s.twin.peers.filter (fun e => e.1 != (origin, stream)) } }
  if g = 0 then t else t.add (Obj.STREAM.LOST stream) g

/-- A peer stream's bale waits for the decompressor (R439, R380): one that is not whole is lost, one that finds the queue full is discarded. -/
def State.peerBale (s : State) (stream : Fin 256) (dest : BitVec 128) (port : BitVec 16) (dgrams : List (List Byte)) (clean : Bool) : State :=
  let t := s.peerNumbered stream (dgrams.headD [])
  match inFragOrder dgrams with
  | none => t.bump (Obj.STREAM.LOST stream)
  | some l =>
    if !clean then t.bump (Obj.STREAM.LOST stream)
    else if 64 ≤ t.bale.decode.length then t.bump Obj.COMPRESSION.QUEUE_FULL
    else
      let d : DecodeReq := { use := 2, owner := 0, bytes := joined l, peer := some (stream, dest, port.toNat, l) }
      { t with bale := { t.bale with decode := t.bale.decode ++ [d] } }

/-- PEER_STREAM_BALE (R439): the last frame of a peer stream's bale, with which it is whole; the frames before it came as FORWARDED_FRAME
(log entry 124). -/
def execPeerStreamBale (a : Arrival) (stream : Fin 256) (dest : BitVec 128) (port : BitVec 16) (dgrams : List (List Byte)) (s : State) : Result :=
  .next (s.receive a 3 (fun t => t.peerBale stream dest port dgrams a.poisoned.isEmpty))

end Sys2Proof.Machine
end

