-- ==== Sys2Proof/Machine/Message.lean ====
section
/-! DEFINITION. Ledger messages that come in frames: the CAN port (R409 to R412), forwarding over Aggon (R403, R438), and what a whole message
does (R391 to R393). -/

namespace Sys2Proof.Machine

/-! ## A whole message -/

/-- The nonce the device's random source gives an OPEN, and the SESSION it assigns: not 0 and in no use (R398; log entry 6). -/
def freeNonce (s : State) : List Byte := (List.range 16).map (fun i => Config.undefinedByte (s.fresh + i))

def freshId (s : State) : BitVec 32 :=
  let v := BitVec.ofNat 32 (Config.measured s.fresh)
  ((List.range 34).map (fun i => v + BitVec.ofNat 32 i)).find? (fun x => x != 0 && (sessionById s x).isNone) |>.getD 1

/-- A message of a known operation whose sizes agree, as its own request. -/
def State.request (s : State) (r : Req) (op : Nat) (b : List Byte) : State :=
  let n := fun (off k : Nat) => fromLe (slice b off k)
  let w := fun (off : Nat) => BitVec.ofNat 32 (n off 4)
  let i := BitVec.ofNat 16 (n 0 2)
  let sub := BitVec.ofNat 8 (n 2 1)
  nextOf s (match op with
  | 0x01 => execOpenSession r (b.getD 0 0) (b.getD 1 0) (slice b 4 16) (freeNonce s) (freshId s) { s with fresh := s.fresh + 16 }
  | 0x02 => execAuth r b s
  | 0x03 => execCloseSession r s
  | 0x04 => execKeepalive r s
  | 0x10 => execReadObj r i sub ((b.getD 3 0).getLsbD 0) s
  | 0x11 => execWriteObj r i sub (b.getD 3 0) (b.drop 4) s
  | 0x12 => execSegBegin r i sub ((b.getD 3 0).getLsbD 0) (w 4) s
  | 0x13 => execSegData r (w 0) (b.drop 4) s
  | 0x14 => execSegEnd r (w 0) s
  | _ => execSegRead r i sub (w 4) (BitVec.ofNat 16 (n 8 2)) s)

/-- The TAG of a message as its request carries it: that of the same request in the plain form where the message's own TAG is right under the
session key, over the bytes the host sent, FORWARDED clear (R391, R403); a wrong one is none. -/
def plainTag (s : State) (r : Req) (op : Nat) (msg : List Byte) : List Byte :=
  let n := msg.length - 16
  let sent := msg.take 2 ++ [msg.getD 2 0 &&& 0xFE] ++ slice msg 3 (n - 3) ++ zeroTag
  match (sessionById s r.session).bind Session.tagKey with
  | some k => if tagOf k sent = r.tag then requestTag s k op r (slice msg 16 (n - 16)) else []
  | none => r.tag

/-- A message that has come whole over a path (R391, R393): one that step 1 refuses is malformed, another is its operation. -/
def State.takeMessage (s : State) (p : Path) (msg : List Byte) : State :=
  let len := fromLe (slice msg 14 2)
  let op := fromLe (slice msg 1 1)
  if msg.length < 32 ∨ fromLe (msg.take 1) ≠ 1 ∨ msg.length ≠ 32 + len ∨ !bodyGood op len then nextOf s (execMalformedMessage p msg s)
  else
    let r : Req := ⟨BitVec.ofNat 32 (fromLe (slice msg 4 4)), BitVec.ofNat 32 (fromLe (slice msg 8 4)), p, slice msg (16 + len) 16⟩
    s.request { r with tag := plainTag s r op msg } op (slice msg 16 len)

/-! ## Forwarding (R403) -/

/-- The head of a message as a request to this device, for its answer. -/
def sessionOf (msg : List Byte) : BitVec 32 := BitVec.ofNat 32 (fromLe (slice msg 4 4))
def seqOf (msg : List Byte) : BitVec 32 := BitVec.ofNat 32 (fromLe (slice msg 8 4))

/-- The answer of a forwarding device whose cluster holds no such target: 0101h with FWD_FAIL. -/
def fwdFailBytes (target : BitVec 11) (msg : List Byte) : List Byte :=
  messageBytes (fromLe (slice msg 1 1) % 128 + 0x80) 2 (sessionOf msg) (seqOf msg) (0x8000 + target.toNat) (le 2 0x0101) ++ zeroTag

/-- A message with FORWARDED set. -/
def withForwarded (msg : List Byte) : List Byte := msg.take 2 ++ [msg.getD 2 0 ||| 1] ++ msg.drop 3

/-- A message for another device is forwarded (R403): where the cluster holds no such device, 0101h is the answer. -/
def State.passOn (s : State) (path : Path) (target : BitVec 11) (msg : List Byte) : State :=
  let t := s.takeUp path 0
  if msg.length < 32 then t.violate 18 path none 0
  else if !holds t target then (t.sendResponse path (fwdFailBytes target msg)).violate 18 path none 0x0101
  else
    let f : ForwardRec := ⟨target, fromLe (slice msg 1 1) % 128, sessionOf msg, seqOf msg, path⟩
    let u := t.sendLedger target (withForwarded msg)
    { u with ledger := { u.ledger with forwards := u.ledger.forwards ++ [f] } }

/-- A message with FWD set that a path brought (R403): this device's own, or one for another. -/
def State.forwardTo (s : State) (path : Path) (target : BitVec 11) (msg : List Byte) : State :=
  if target = ownId s then s.takeMessage path msg
  else if clerksFull s then s.queueRefusal path (fromLe (slice msg 1 1) % 128) (sessionOf msg) (seqOf msg)
  else s.passOn path target msg

/-- A message that has come whole, by its TARGET (R391, R403). -/
def State.arrived (s : State) (path : Path) (msg : List Byte) : State :=
  let t := fromLe (slice msg 12 2)
  if 32 ≤ msg.length ∧ t.testBit 15 then (if taken s path 0 then s.forwardTo path (BitVec.ofNat 11 t) msg else s)
  else s.takeMessage path msg

/-! ## The CAN port (R409, R411, R412) -/

/-- A partial message of a channel is discarded, or a frame is ignored: a violation, and SEQ_ERR for a message discarded. -/
def State.canDiscard (s : State) (chan : Fin 16) : State :=
  let had := s.can.partials.any (fun e => e.1 == chan)
  let t := { s with can := { s.can with partials := s.can.partials.filter (fun e => e.1 != chan) } }
  (if had then t.bump Obj.CAN.SEQ_ERR else t).violate 19 (.can chan) none 0

/-- A message without the filler of its last frame. -/
def unfilled (l : List Byte) : List Byte :=
  let n := 32 + fromLe (slice l 14 2)
  if n ≤ l.length ∧ l.length < n + 16 then l.take n else l

/-- A frame in its turn joins its channel's message. -/
def State.canJoin (s : State) (chan : Fin 16) (l : List Byte) (count : Nat) (isLast : Bool) : State :=
  let rest := s.can.partials.filter (fun e => e.1 != chan)
  if isLast then ({ s with can := { s.can with partials := rest } }).arrived (.can chan) (unfilled l)
  else { s with can := { s.can with partials := (chan, l, (count + 1) % 64) :: rest } }

/-- Whether a frame's identifier addresses this device's Ledger (R411). -/
def canForUs (s : State) (id : BitVec 29) : Bool :=
  canEnabled s (.can 0) && !s.can.busOff && (id >>> 24).toNat == s.u Obj.CAN.CAN_BASE && !id.getLsbD 23 &&
  (id >>> 11).toNat % 256 == 0 && id.toNat % 2048 == (ownId s).toNat

/-- CAN_LEDGER_FRAME (R411, R412); the frame as such is counted and matched by CAN_FRAME. -/
def execCanLedgerFrame (id : BitVec 29) (_classical : Bool) (data : List Byte) (s : State) : Result :=
  .next (if !canForUs s id then s
  else
    let chan : Fin 16 := Fin.ofNat 16 (id.toNat / 2 ^ 19)
    let pci := data.getD 0 0
    let count := pci.toNat % 64
    let had := s.can.partials.find? (fun e => e.1 == chan)
    if pci.getLsbD 7 then
      let t := if had.isSome then s.canDiscard chan else s
      if count ≠ 0 then t.canDiscard chan else t.canJoin chan (data.drop 1) 0 (pci.getLsbD 6)
    else match had with
      | none => s.canDiscard chan
      | some e =>
        if e.2.2 ≠ count then s.canDiscard chan else s.canJoin chan (e.2.1 ++ data.drop 1) count (pci.getLsbD 6))

/-- CAN_SEGMENT_TIMEOUT (R412). -/
def execCanSegmentTimeout (chan : Fin 16) (s : State) : Result :=
  .next (if s.can.partials.any (fun e => e.1 == chan) then s.canDiscard chan else s)

/-- BUS_OFF (R409): the transmit error count has passed 255. -/
def execBusOff (s : State) : Result :=
  .next (if s.u Obj.CAN.CAN_EN ≠ 1 ∨ s.can.busOff then s
  else
    let t := (({ s with can := { s.can with busOff := true } }).put Obj.CAN.TEC 255).bump Obj.CAN.BUS_OFFS
    t.log { cls := 0, sub := 19, index := 0x1140, osub := 0x0B, detail := t.u Obj.CAN.BUS_OFFS })

/-- BUS_OFF_RECOVERY (R409): the port is error active again, its counts at 0. -/
def execBusOffRecovery (s : State) : Result :=
  .next (if s.can.busOff then
    ((({ s with can := { s.can with busOff := false } }).put Obj.CAN.TEC 0).put Obj.CAN.REC 0).canFlush else s)

/-! ## What returns to a forwarding device (R403) -/

/-- LEDGER_FORWARD (R403): no session and no tag is checked; a message to this device's own ID is its own. -/
def execLedgerForward (path : Path) (target : BitVec 11) (msg : List Byte) (s : State) : Result :=
  .next (if !taken s path 0 then s else s.forwardTo path target msg)

/-- The operation a message names, without the bit of a response. -/
def opOf (msg : List Byte) : Nat := fromLe (slice msg 1 1) % 128

/-- Whether a message from a device answers one forwarded to it (R403): the same operation, SEQ and, but for an OPEN, whose response brings the
session's own, SESSION. -/
def ForwardRec.answeredBy (f : ForwardRec) (src : BitVec 11) (seq : BitVec 32) (msg : List Byte) : Bool :=
  f.target == src && f.seq == seq && f.op == opOf msg && (f.op == 1 || f.session == sessionOf msg)

/-- A response that returns goes to the path its request came by, of several alike the first. -/
def State.answerForward (s : State) (target : BitVec 11) (seq : BitVec 32) (msg : List Byte) : State :=
  match s.ledger.forwards.find? (fun e => e.answeredBy target seq msg) with
  | none => s
  | some f => ({ s with ledger := { s.ledger with forwards := s.ledger.forwards.erase f } }).sendResponse f.path msg

/-- FORWARD_RESPONSE (R403). -/
def execForwardResponse (target : BitVec 11) (seq : BitVec 32) (msg : List Byte) (s : State) : Result := .next (s.answerForward target seq msg)

/-- FORWARD_TIMEOUT (R403): 100 ms have passed since the first of the messages it names was forwarded. -/
def execForwardTimeout (target : BitVec 11) (seq : BitVec 32) (s : State) : Result :=
  .next { s with ledger := { s.ledger with forwards := s.ledger.forwards.eraseP (fun e => e.target == target && e.seq == seq) } }

/-! ## Unicast frames (R424, R431, R438) -/

def hopsLeft (f : List Byte) : Nat := fromLe (slice f 6 1)

/-- A unicast frame for another device goes on toward it with one hop fewer, its poisoned words poisoned (R425); one whose hops are spent, or whose target is not reached, is
dropped. -/
def State.passFrame (s : State) (dest src : BitVec 11) (f : List Byte) (poisoned : List Nat) : State :=
  if hopsLeft f ≤ 1 then s
  else
    let flags := fromLe (slice f 1 1)
    let g : AggonFrame :=
      { vc := fromLe (f.take 1) % 8, kind := fromLe (f.take 1) / 8, isFirst := flags.testBit 0, isLast := flags.testBit 1,
        src := src, hops := hopsLeft f - 1, msg := BitVec.ofNat 32 (fromLe (slice f 12 4)), body := .words (f.drop 24) poisoned }
    s.sendTo dest g

/-- The bytes of a Ledger message without the filler of its last word. -/
def wordsFilled (l : List Byte) : List Byte :=
  let n := 32 + fromLe (slice l 14 2)
  if n ≤ l.length ∧ l.length < n + 16 then l.take n else l

/-- A Ledger message that has come whole from another device: a request of its own, or the response to one forwarded here. -/
def State.messageFrom (s : State) (k : Fin 4) (src : BitVec 11) (l : List Byte) : State :=
  if 128 ≤ fromLe (slice l 1 1) then s.answerForward src (seqOf l) l else s.takeMessage (.fwd src k) l

/-- A frame of a Ledger message for this device (R438): one that joins no message is ignored, a violation (R406). -/
def State.ledgerFrame (s : State) (k : Fin 4) (src : BitVec 11) (msg : BitVec 32) (isFirst isLast : Bool) (words : List Byte) : State :=
  let mine := fun (e : BitVec 11 × BitVec 32 × List Byte) => e.1 == src && e.2.1 == msg
  let old := s.cluster.partials.find? mine
  let rest := s.cluster.partials.filter (fun e => !mine e)
  let put := fun (l : List (BitVec 11 × BitVec 32 × List Byte)) => { s with cluster := { s.cluster with partials := l } }
  match isFirst, old with
  | false, none => s.violate 17 (.fwd src k) none 0
  | first, o =>
    let l := (if first then [] else (o.map (fun e => e.2.2)).getD []) ++ words
    if isLast then (put rest).messageFrom k src (wordsFilled l) else put ((src, msg, l) :: rest)

/-- How a frame comes, from its own header (R424). -/
def arrivalOf (k : Fin 4) (frame : List Byte) (ce : Nat) (poisoned : List Nat) : Arrival :=
  ⟨k, BitVec.ofNat 16 (fromLe (slice frame 8 2)), BitVec.ofNat 16 (fromLe (slice frame 10 2)), BitVec.ofNat 32 (fromLe (slice frame 16 4)), ce,
    poisoned⟩

/-- A frame that joins others (R438): one for another device goes on, one of a Ledger message for this device joins its message; of a frame of
another kind for this device the last one brings the whole (log entry 124). -/
def State.joinFrame (s : State) (k : Fin 4) (frame : List Byte) (poisoned : List Nat) : State :=
  let dest := BitVec.ofNat 11 (fromLe (slice frame 2 2))
  let src := BitVec.ofNat 11 (fromLe (slice frame 4 2))
  let flags := fromLe (slice frame 1 1)
  if dest ≠ ownId s then s.passFrame dest src frame poisoned
  else if fromLe (frame.take 1) ≠ 1 + 8 * 4 ∨ !poisoned.isEmpty then s
  else s.ledgerFrame k src (BitVec.ofNat 32 (fromLe (slice frame 12 4))) (flags.testBit 0) (flags.testBit 1) (frame.drop 24)

/-- FORWARDED_FRAME (R424, R425, R428, R438): the header and the data of the payload words, with the single errors corrected in them and the words
that come poisoned; one whose HCRC is wrong is bad. -/
def execForwardedFrame (k : Fin 4) (frame : List Byte) (ce : Nat) (poisoned : List Nat) (s : State) : Result :=
  .next (if !linkUp s k then s
  else if !headerGood frame then s.discardFrame k
  else s.receive (arrivalOf k frame ce poisoned) (fromLe (frame.take 1) % 8) (fun t => t.joinFrame k frame poisoned))

/-- FORWARDED_FRAME_TIMEOUT (R438): a message whose frames have not all come within 10 ms is discarded, a violation (R406). -/
def execForwardedFrameTimeout (src : BitVec 11) (msg : BitVec 32) (s : State) : Result :=
  let mine := fun (e : BitVec 11 × BitVec 32 × List Byte) => e.1 == src && e.2.1 == msg
  .next (if s.cluster.partials.any mine then
    ({ s with cluster := { s.cluster with partials := s.cluster.partials.filter (fun e => !mine e) } }).violate 17 (.fwd src 0) none 0
  else s)

end Sys2Proof.Machine
end

