-- ==== Sys2Proof/Machine/Mirrored.lean ====
section
/-! DEFINITION. Commits a standby receives from its active (R441), and the entries that summary keys make at the end of their seconds (R539). -/

namespace Sys2Proof.Machine

/-- The subindices of a record's rows, with the row of each. -/
def subsOf (rows : List ObjRow) : List (Nat × ObjRow) := rows.flatMap (fun w => (List.range w.rep).map (fun i => (w.sub + i * w.stride, w)))

/-- The RWP objects of a group that the active's commit sets. -/
def mirroredObjects (idx : Nat) : List (Nat × ObjRow) :=
  ((groupIndices idx).flatMap (fun i =>
    match Obj.record i with
    | some r => (subsOf r.2).map (fun e => (i * 256 + e.1, e.2))
    | none => [])).filter (fun e => e.2.acc == .rwp && !ownObject e.1)

/-- The staged copy of a group as the active's commit has it; an object it does not list is at its default. -/
def stagedOf (m : MirrorCommit) : List (Nat × Nat) :=
  ((mirroredObjects m.index.toNat).filter (fun e => !isBlob e.2.ty)).map (fun e =>
    (e.1, ((m.values.find? (fun v => v.1 == e.1)).map (·.2)).getD (defaultOf e.1 e.2)))

def stagedBlobsOf (m : MirrorCommit) : List (Nat × List Byte) :=
  ((mirroredObjects m.index.toNat).filter (fun e => isBlob e.2.ty)).map (fun e => (e.1, (blobOf m.blobs e.1).getD []))

/-- A group of the active enters the staged copy with its commit pending, without a session (R540). -/
def State.takeMirrored (s : State) (m : MirrorCommit) : State :=
  let idx := m.index.toNat
  let a : Applying := ⟨idx, 0, 0⟩
  { s with staged := (stagedOf m).foldl (fun l e => rfSet l e.1 e.2) s.staged,
           stagedBlobs := (stagedBlobsOf m).foldl (fun l e => blobSet l e.1 e.2) s.stagedBlobs,
           ledger := { s.ledger with applying := a :: s.ledger.applying.filter (fun x => x.index != idx) } }

/-- The image a commit message carries (R441). -/
def imageOf (m : MirrorCommit) : Option (Fin 16 × List Byte) :=
  if h : 0x5110 ≤ m.index.toNat ∧ m.index.toNat < 0x5120 then
    (blobOf m.blobs (Obj.PROGRAM_SLOT.IMAGE (m.index.toNat - 0x5110))).map (fun l => (⟨m.index.toNat - 0x5110, by omega⟩, l))
  else none

/-- Whether a group of the active is mirrored to this standby (R441): a stream's record is by its kind in the active, which sends no DAYBOOK
stream's. -/
def mirroredHere (s : State) (idx : Nat) : Bool := (decide (0x6000 ≤ idx) && decide (idx < 0x6100)) || mirrored s idx

/-- Whether a commit waits on a standby for the boundary it is tagged with (R441): not that of a pitch or region of a port that is not twinned,
which takes this device's own. -/
def waitsFor (s : State) (idx : Nat) : Bool :=
  tagged idx && (decide (idx < 0x5000) || decide (0x6000 ≤ idx) || s.bit Obj.TWIN.TWIN_PORTS (watchedPort s.us idx))

/-- A mirrored commit on a standby (R441): an image is placed at once; another group waits with its tag for its boundary, and one that has none
takes effect. -/
def State.mirroredCommit (s : State) (m : MirrorCommit) : State :=
  let idx := m.index.toNat
  if !standby s ∨ !mirroredHere s idx then s
  else match imageOf m with
    | some e => (imageEff s e.1 e.2 false).journal (2 + e.1.val)
    | none =>
      let u := s.takeMirrored m
      let u := { u with twin := { u.twin with tags := u.twin.tags.filter (fun e => e.1 != idx) ++ (if waitsFor u idx then [(idx, m.boundary)] else []) } }
      if idx < 0x5000 then u else u.applied idx

/-- MIRRORED_COMMIT (R441): the last frame of a commit. -/
def execMirroredCommit (a : Arrival) (m : MirrorCommit) (s : State) : Result :=
  .next (s.receive a 2 (ifClean a (fun t => t.mirroredCommit m)))

/-- SUMMARY_ENTRY (R539): 1 s after a key's last entry, the events counted since are entered under the epoch of the first, and the next second
runs; without events the key rests. -/
def execSummaryEntry (key : SummaryKey) (s : State) : Result :=
  .next (match summaryOf s key with
  | none => s
  | some r =>
    if r.count = 0 then setSummary s key none
    else setSummary (summaryEntry s key r.count r.first) key (some ⟨key, 0, 0⟩))

end Sys2Proof.Machine
end

