-- ==== Sys2Proof/Machine/Slots.lean ====
section
/-! DEFINITION. The commit point of a slot (R43 to R51, R447, R455, R486), the epoch second (R21, R302) and the end of coasting (R300). -/

namespace Sys2Proof.Machine

/-! ## Groups that commit at a commit point -/

/-- The commits that a twin which is not ACTIVE leaves to the boundaries its active names (R441). -/
def leftToActive (s : State) (n : Port) (a : Applying) : Bool :=
  isPortGroup a.index && portOfGroup a.index == n.val && mirrored s a.index &&
  (a.index != 0x3800 + 0x100 * n.val || s.twin.tags.any (fun e => e.1 == a.index))

/-- The port's groups commit; on a withheld port those of the device's own. -/
def State.commitOwn (s : State) (n : Port) : State :=
  if !s.withheld n then s.commitPort n
  else
    let left := s.ledger.applying.filter (leftToActive s n)
    let t := { s with ledger := { s.ledger with applying := s.ledger.applying.filter (fun a => !leftToActive s n a) } }
    let t := t.commitPort n
    { t with ledger := { t.ledger with applying := t.ledger.applying ++ left } }

/-- 6300h at a port's commit point (R456): what it holds for the port takes effect there, and the rest once every port it concerns has passed
its own. -/
def State.passPair (s : State) (n : Port) : State :=
  if !s.isApplying 0x6300 ∨ !(pairPorts s).contains n then s
  else
    let t := s.takePort n
    let t := { t with twin := { t.twin with passed := n :: s.twin.passed.filter (· != n) } }
    if (pairPorts s).all (fun m => t.twin.passed.contains m) then t.pairApplied else t

/-- 6300h and a YIELD act at a commit point of a twinned port (R453, R456). -/
def State.commitPair (s : State) (n : Port) : State := (s.passPair n).yieldNow n

/-- BUDGET_OVER (R146). -/
def State.budgetFlag (s : State) (n : Port) : State :=
  s.putBit (Obj.PIPE_STATUS.FLAGS n) Bit.PIPE_STATUS.FLAGS.BUDGET_OVER (decide (200000000 < budget s.u n))

/-! ## The slot -/

/-- A LINE slot point is taken from those offered (R37). -/
def State.takeOffer (s : State) (n : Port) (slot : SlotPoint) : State :=
  match slot with
  | .line => s.modPort n (fun p => { p with lineOffers := p.lineOffers.drop 1 })
  | _ => s

/-- A slot point of a port held by calibration (R486): the calibration's own shot, unless the claim or R50 refuses it. -/
def State.calSlot (s : State) (n : Port) (i : SlotInfo) : State :=
  if s.claimBars n ∨ i.launchAt < s.clearAt n then s.calSlotRefused n else s.calShot n i

/-- A slot point that is refused under a cause of R47; while a step of the epoch is in progress no calibration shot is committed either (R24
step 1; log entry 107). -/
def State.refuseSlot (s : State) (n : Port) (i : SlotInfo) (cause : Nat) : State :=
  let t := s.refuseShot n cause
  if cause = 3 then (if s.ep.step.isSome then t.calSlotRefused n else t.calSlot n i)
  else if cause < 3 ∧ s.calHolds n then t.calSlotRefused n
  else t

/-- A slot point of an enabled port (R40, R47, R48); a port held by calibration refuses every slot point, also one of an OFF entry
(R486; log entry 85). -/
def State.decideSlot (s : State) (n : Port) (i : SlotInfo) : State :=
  let e := s.entryAt n
  let cause := s.refusal n i.launchAt
  if s.u (Obj.SHOT_ENTRY.KIND n e) = 0 ∧ !s.calHolds n then s
  else if cause = 0 then s.commitShot n e i
  else s.refuseSlot n i cause

/-- A slot point reaches its commit point: it is decided, and the table moves on. A port that is withheld neither launches nor counts. -/
def State.slotPoint (s : State) (n : Port) (slot : SlotPoint) : State :=
  match slotInfo s n (s.u (Obj.SHOT_ENTRY.OFFSET n (s.entryAt n))) slot with
  | none => s
  | some i =>
    let t := if s.withheld n ∨ s.u (Obj.SCHEDULER.ENABLE n) = 0 then s else s.decideSlot n i
    let t := t.takeOffer n slot
    if s.withheld n then t else t.advanceTable n

/-- COMMIT_POINT (R43, R47); the scheduler runs from step 11 of R507 on. -/
def execCommitPoint (n : Port) (slot : SlotPoint) (s : State) : Result :=
  .next (if s.u Obj.HEALTH.BOOT_STATE ≠ 3 then s.takeOffer n slot
  else (((s.commitPair n).commitOwn n).budgetFlag n).slotPoint n slot)

/-! ## The epoch second -/

/-- The groups of the epoch's sources and axes commit (R62); the correction and DEGRADED follow the new limits (R23, R26). -/
def State.commitSources (s : State) : State :=
  let t := if s.isApplying 0x2101 then ((s.commit 0x2101).ptpRemask.putCorrection).degradedFlag else s
  if t.isApplying 0x2102 then
    let u := t.commit 0x2102
    if u.u Obj.AXIS_CONFIG.ENC_INDEX = 2 then { u with enc := { u.enc with zeroNext := true } } else u
  else t

/-- A change of CLKMON takes effect, and EPOCH_SEC, divided by CLKMON_DIV, gives its pulse (R302; log entry 100). -/
def State.clkmonSecond (s : State) : State :=
  let t := { s with clk := { s.clk with clkmon := (s.u Obj.CLOCKS.CLKMON_SRC, s.u Obj.CLOCKS.CLKMON_DIV) } }
  if s.u Obj.CLOCKS.CLKMON_SRC = 7 ∧ s.now / ticksPerSecond % max 1 (s.u Obj.CLOCKS.CLKMON_DIV) = 0 then t.emit .clkmonPulse else t

/-- TOLL_USE of each stream, and the count for the second that begins. -/
def State.tollUse (s : State) : State :=
  overAll s (fun t k =>
    if s.streams[k].isOpen then (t.put (Obj.STREAM.TOLL_USE k) s.streams[k].built).modStream k (fun x => { x with built := 0 }) else t)

/-- EPOCH_SECOND (R21): the count has reached a multiple of 3,200,000,000 whose second has not been served. -/
def execEpochSecond (s : State) : Result :=
  .next (if s.now / ticksPerSecond = s.ep.served then s
  else
    let t := { s with ep := { s.ep with served := s.now / ticksPerSecond } }
    (((t.commitSources).changeSource.clkmonSecond).tollUse.mirrorRate).dueFlag)

/-! ## The end of coasting -/

/-- The plant groups that waited for the end of a coast commit (R459); the SFE's where no cycle runs whose start it would wait for. -/
def State.releasePlant (s : State) : State :=
  let t := [0x7100, 0x7200, 0x7300].foldl (fun (u : State) i => if u.isApplying i then u.plantApplied i else u) s
  if t.isApplying 0x7000 ∧ t.u Obj.SFE.CH_EN % 256 = 0 then t.sfeCommit else t

/-- COAST_EXIT (R300). -/
def execCoastExit (s : State) : Result :=
  let t := s.coastExit
  .next (if t.coasting then t else t.releasePlant)

/-- PLL_LOCK (R15, R284, R297, R300): the first lock starts the epoch and moves the bypass domains; coasting, the PLL is locked at the
floor; after a stop of the root the gap measured in WOSC cycles is added to the count, and plant groups that waited for the end of a coast
commit (R459). -/
def execPllLock (s : State) : Result :=
  .next (if s.clk.stopped then
    let t := { s with ep := { s.ep with count := s.ep.count + BitVec.ofNat 64 (Config.measured s.fresh) } }.drawn
    (t.setBit Obj.EPOCH.FLAGS Bit.EPOCH.FLAGS.UNCERTAIN).leaveCoast.cleanSwitch.releasePlant
  else if s.coasting then
    (if s.clk.acquiring = 0 then s else { s with clk := { s.clk with atFloor := true } })
  else if s.u Obj.CLOCKS.PLL_STATE = 1 then
    let t := { s with ep := { s.ep with running := true } }.lockOn.cleanSwitch
    (t.put Obj.CLOCKS.VCO_FLOOR (Config.measured t.fresh)).drawn
  else s)


end Sys2Proof.Machine
end

