-- ==== Sys2Proof/Machine/Dispatch.lean ====
section
/-! DEFINITION. The meaning of every command, one arm each. -/

namespace Sys2Proof.Machine

def exec (i : Instr) (s : State) : Host.Outcome State Fault Refusal :=
  match i with
  | .epochCorrectionOverflow => Sys2Proof.Machine.execEpochCorrectionOverflow s
  | .epochSecond => Sys2Proof.Machine.execEpochSecond s
  | .ppsEdge stamp => Sys2Proof.Machine.execPpsEdge stamp s
  | .ppsTimeout => Sys2Proof.Machine.execPpsTimeout s
  | .secLabel r v => Sys2Proof.Machine.execSecLabel r v s
  | .stepLoad => Sys2Proof.Machine.execStepLoad s
  | .slewEnd => Sys2Proof.Machine.execSlewEnd s
  | .holdoverErrGrowth => Sys2Proof.Machine.execHoldoverErrGrowth s
  | .mainsEdge stamp => Sys2Proof.Machine.execMainsEdge stamp s
  | .mainsSyntheticEdge => Sys2Proof.Machine.execMainsSyntheticEdge s
  | .encLevelAccept a b z => Sys2Proof.Machine.execEncLevelAccept a b z s
  | .encPreset r v => Sys2Proof.Machine.execEncPreset r v s
  | .lineRateUpdate => Sys2Proof.Machine.execLineRateUpdate s
  | .commitPoint n slot => Sys2Proof.Machine.execCommitPoint n slot s
  | .toneLoad n => Sys2Proof.Machine.execToneLoad n s
  | .gateAssert n => Sys2Proof.Machine.execGateAssert n s
  | .launch n => Sys2Proof.Machine.execLaunch n s
  | .monStamp n stamp => Sys2Proof.Machine.execMonStamp n stamp s
  | .stampMiss n => Sys2Proof.Machine.execStampMiss n s
  | .recordWindowOpen n x y => Sys2Proof.Machine.execRecordWindowOpen n x y s
  | .gateRelease n => Sys2Proof.Machine.execGateRelease n s
  | .recordWindowClose n raman => Sys2Proof.Machine.execRecordWindowClose n raman s
  | .lsiRelease ch => Sys2Proof.Machine.execLsiRelease ch s
  | .lsiHold ch => Sys2Proof.Machine.execLsiHold ch s
  | .lsiResume => Sys2Proof.Machine.execLsiResume s
  | .lsiDiscord => Sys2Proof.Machine.execLsiDiscord s
  | .crestComputationEnd n set => Sys2Proof.Machine.execCrestComputationEnd n set s
  | .commonModeFault n y out mv => Sys2Proof.Machine.execCommonModeFault n y out mv s
  | .txCheck n isOpen isShort => Sys2Proof.Machine.execTxCheck n isOpen isShort s
  | .send r n w => Sys2Proof.Machine.execSend r n w s
  | .fctlWordEnd n => Sys2Proof.Machine.execFctlWordEnd n s
  | .scheduledWordStart n => Sys2Proof.Machine.execScheduledWordStart n s
  | .stateWordArrival n set p poisoned => Sys2Proof.Machine.execStateWordArrival n set p poisoned s
  | .gridPoint n p => Sys2Proof.Machine.execGridPoint n p s
  | .dasShotEnd n => Sys2Proof.Machine.execDasShotEnd n s
  | .relearn r n v => Sys2Proof.Machine.execRelearn r n v s
  | .queueDrain n words => Sys2Proof.Machine.execQueueDrain n words s
  | .averageComplete n set => Sys2Proof.Machine.execAverageComplete n set s
  | .profileDelivery n => Sys2Proof.Machine.execProfileDelivery n s
  | .brilShotAdd n => Sys2Proof.Machine.execBrilShotAdd n s
  | .release r n buf => Sys2Proof.Machine.execRelease r n buf s
  | .deliveryComplete n => Sys2Proof.Machine.execDeliveryComplete n s
  | .migrationCopyEnd st => Sys2Proof.Machine.execMigrationCopyEnd st s
  | .stlTestEnd st pass => Sys2Proof.Machine.execStlTestEnd st pass s
  | .image r g bytes => Sys2Proof.Machine.execImage r g bytes s
  | .programLoadEnd st => Sys2Proof.Machine.execProgramLoadEnd st s
  | .inqPop st pd => Sys2Proof.Machine.execInqPop st pd s
  | .get st tag path => Sys2Proof.Machine.execGet st tag path s
  | .put st tag path => Sys2Proof.Machine.execPut st tag path s
  | .get2d st tag path => Sys2Proof.Machine.execGet2d st tag path s
  | .put2d st tag path => Sys2Proof.Machine.execPut2d st tag path s
  | .done st tag => Sys2Proof.Machine.execDone st tag s
  | .trig st tag => Sys2Proof.Machine.execTrig st tag s
  | .mail st tag => Sys2Proof.Machine.execMail st tag s
  | .nop st => Sys2Proof.Machine.execNop st s
  | .vadd st dd da db => Sys2Proof.Machine.execVadd st dd da db s
  | .vsub st dd da db => Sys2Proof.Machine.execVsub st dd da db s
  | .vadds st dd da db => Sys2Proof.Machine.execVadds st dd da db s
  | .vsubs st dd da db => Sys2Proof.Machine.execVsubs st dd da db s
  | .vand st dd da db => Sys2Proof.Machine.execVand st dd da db s
  | .vor st dd da db => Sys2Proof.Machine.execVor st dd da db s
  | .vxor st dd da db => Sys2Proof.Machine.execVxor st dd da db s
  | .vmin st dd da db => Sys2Proof.Machine.execVmin st dd da db s
  | .vmax st dd da db => Sys2Proof.Machine.execVmax st dd da db s
  | .vabs st dd da db => Sys2Proof.Machine.execVabs st dd da db s
  | .vneg st dd da db => Sys2Proof.Machine.execVneg st dd da db s
  | .vshl st dd da db => Sys2Proof.Machine.execVshl st dd da db s
  | .vsra st dd da db => Sys2Proof.Machine.execVsra st dd da db s
  | .vcgt st dd da db => Sys2Proof.Machine.execVcgt st dd da db s
  | .vceq st dd da db => Sys2Proof.Machine.execVceq st dd da db s
  | .vmov st dd da db => Sys2Proof.Machine.execVmov st dd da db s
  | .vshli st dd da imm => Sys2Proof.Machine.execVshli st dd da imm s
  | .vsrai st dd da imm => Sys2Proof.Machine.execVsrai st dd da imm s
  | .vsrli st dd da imm => Sys2Proof.Machine.execVsrli st dd da imm s
  | .vswz st dd da sel => Sys2Proof.Machine.execVswz st dd da sel s
  | .mpy st an da db sm bc => Sys2Proof.Machine.execMpy st an da db sm bc s
  | .mac st an da db sm bc => Sys2Proof.Machine.execMac st an da db sm bc s
  | .msu st an da db sm bc => Sys2Proof.Machine.execMsu st an da db sm bc s
  | .cmac st an da db sm bc cj => Sys2Proof.Machine.execCmac st an da db sm bc cj s
  | .clra st an am dx imm => Sys2Proof.Machine.execClra st an am dx imm s
  | .mova st an am dx imm => Sys2Proof.Machine.execMova st an am dx imm s
  | .adda st an am dx imm => Sys2Proof.Machine.execAdda st an am dx imm s
  | .suba st an am dx imm => Sys2Proof.Machine.execSuba st an am dx imm s
  | .shla st an am dx imm => Sys2Proof.Machine.execShla st an am dx imm s
  | .sraa st an am dx imm => Sys2Proof.Machine.execSraa st an am dx imm s
  | .norm st an am dx imm => Sys2Proof.Machine.execNorm st an am dx imm s
  | .exp st an am dx imm => Sys2Proof.Machine.execExp st an am dx imm s
  | .reda st an am dx imm => Sys2Proof.Machine.execReda st an am dx imm s
  | .lda st an am dx imm => Sys2Proof.Machine.execLda st an am dx imm s
  | .nega st an am dx imm => Sys2Proof.Machine.execNega st an am dx imm s
  | .absa st an am dx imm => Sys2Proof.Machine.execAbsa st an am dx imm s
  | .sta st an dx imm => Sys2Proof.Machine.execSta st an dx imm s
  | .ld st dr pn mm amode ef imm => Sys2Proof.Machine.execLd st dr pn mm amode ef imm s
  | .st st dr pn mm amode ef imm => Sys2Proof.Machine.execSt st dr pn mm amode ef imm s
  | .ldp st pd pn mm amode imm => Sys2Proof.Machine.execLdp st pd pn mm amode imm s
  | .stp st pd pn mm amode imm => Sys2Proof.Machine.execStp st pd pn mm amode imm s
  | .ldam st an pn mm amode imm => Sys2Proof.Machine.execLdam st an pn mm amode imm s
  | .stam st an pn mm amode imm => Sys2Proof.Machine.execStam st an pn mm amode imm s
  | .lip st pd imm => Sys2Proof.Machine.execLip st pd imm s
  | .addpi st pd ps imm => Sys2Proof.Machine.execAddpi st pd ps imm s
  | .add st pd ps pt imm => Sys2Proof.Machine.execAdd st pd ps pt imm s
  | .sub st pd ps pt imm => Sys2Proof.Machine.execSub st pd ps pt imm s
  | .and st pd ps pt imm => Sys2Proof.Machine.execAnd st pd ps pt imm s
  | .or st pd ps pt imm => Sys2Proof.Machine.execOr st pd ps pt imm s
  | .xor st pd ps pt imm => Sys2Proof.Machine.execXor st pd ps pt imm s
  | .shl st pd ps pt imm => Sys2Proof.Machine.execShl st pd ps pt imm s
  | .shr st pd ps pt imm => Sys2Proof.Machine.execShr st pd ps pt imm s
  | .sra st pd ps pt imm => Sys2Proof.Machine.execSra st pd ps pt imm s
  | .shli st pd ps pt imm => Sys2Proof.Machine.execShli st pd ps pt imm s
  | .shri st pd ps pt imm => Sys2Proof.Machine.execShri st pd ps pt imm s
  | .srai st pd ps pt imm => Sys2Proof.Machine.execSrai st pd ps pt imm s
  | .mul st pd ps pt imm => Sys2Proof.Machine.execMul st pd ps pt imm s
  | .slt st pd ps pt imm => Sys2Proof.Machine.execSlt st pd ps pt imm s
  | .sltu st pd ps pt imm => Sys2Proof.Machine.execSltu st pd ps pt imm s
  | .min st pd ps pt imm => Sys2Proof.Machine.execMin st pd ps pt imm s
  | .max st pd ps pt imm => Sys2Proof.Machine.execMax st pd ps pt imm s
  | .br st off => Sys2Proof.Machine.execBr st off s
  | .bcc st pa pb cc off => Sys2Proof.Machine.execBcc st pa pb cc off s
  | .call st off => Sys2Proof.Machine.execCall st off s
  | .ret st => Sys2Proof.Machine.execRet st s
  | .loop st rot src cnt body => Sys2Proof.Machine.execLoop st rot src cnt body s
  | .trapret st => Sys2Proof.Machine.execTrapret st s
  | .issue st tt pn => Sys2Proof.Machine.execIssue st tt pn s
  | .wait st tt pd => Sys2Proof.Machine.execWait st tt pd s
  | .mfs st pd sel => Sys2Proof.Machine.execMfs st pd sel s
  | .mts st sel ps => Sys2Proof.Machine.execMts st sel ps s
  | .movdp st pd da sel => Sys2Proof.Machine.execMovdp st pd da sel s
  | .movpd st dd ps sel => Sys2Proof.Machine.execMovpd st dd ps sel s
  | .mfm st pd mm fld => Sys2Proof.Machine.execMfm st pd mm fld s
  | .mtm st mm fld ps => Sys2Proof.Machine.execMtm st mm fld ps s
  | .mfrb st pd => Sys2Proof.Machine.execMfrb st pd s
  | .mtrb st ps => Sys2Proof.Machine.execMtrb st ps s
  | .rotb st => Sys2Proof.Machine.execRotb st s
  | .vdup st dd ps => Sys2Proof.Machine.execVdup st dd ps s
  | .pointCondition rg => Sys2Proof.Machine.execPointCondition rg s
  | .stallTrigRequest => Sys2Proof.Machine.execStallTrigRequest s
  | .canFrame id ext data stamp => Sys2Proof.Machine.execCanFrame id ext data stamp s
  | .recordWritten rg => Sys2Proof.Machine.execRecordWritten rg s
  | .rearmEnd rg => Sys2Proof.Machine.execRearmEnd rg s
  | .bellArm a hops m => Sys2Proof.Machine.execBellArm a hops m s
  | .bellDisarm a hops m => Sys2Proof.Machine.execBellDisarm a hops m s
  | .bellFire a hops m => Sys2Proof.Machine.execBellFire a hops m s
  | .armAtEpoch => Sys2Proof.Machine.execArmAtEpoch s
  | .fireGroup r v => Sys2Proof.Machine.execFireGroup r v s
  | .armGroup r v => Sys2Proof.Machine.execArmGroup r v s
  | .armGroupDisarm r v => Sys2Proof.Machine.execArmGroupDisarm r v s
  | .refEdgeLoss ref => Sys2Proof.Machine.execRefEdgeLoss ref s
  | .coastAcquire => Sys2Proof.Machine.execCoastAcquire s
  | .pllLock => Sys2Proof.Machine.execPllLock s
  | .coastExit => Sys2Proof.Machine.execCoastExit s
  | .pllLockLoss => Sys2Proof.Machine.execPllLockLoss s
  | .qualWindowEnd ref offset => Sys2Proof.Machine.execQualWindowEnd ref offset s
  | .ovenRdyRise => Sys2Proof.Machine.execOvenRdyRise s
  | .ovenRdyFall => Sys2Proof.Machine.execOvenRdyFall s
  | .ovenHoldExpiry => Sys2Proof.Machine.execOvenHoldExpiry s
  | .ageLearnTick => Sys2Proof.Machine.execAgeLearnTick s
  | .xtalTrimSave => Sys2Proof.Machine.execXtalTrimSave s
  | .domainSourceLoss dom => Sys2Proof.Machine.execDomainSourceLoss dom s
  | .rootStop => Sys2Proof.Machine.execRootStop s
  | .tdcStamp ch stamp => Sys2Proof.Machine.execTdcStamp ch stamp s
  | .unitEvent u => Sys2Proof.Machine.execUnitEvent u s
  | .pairWinExpiry u => Sys2Proof.Machine.execPairWinExpiry u s
  | .scrub addr err => Sys2Proof.Machine.execScrub addr err s
  | .repair r ch lane => Sys2Proof.Machine.execRepair r ch lane s
  | .channelSecond ch counts uncorr => Sys2Proof.Machine.execChannelSecond ch counts uncorr s
  | .repairPassEnd ch => Sys2Proof.Machine.execRepairPassEnd ch s
  | .dramRefresh ch => Sys2Proof.Machine.execDramRefresh ch s
  | .timingTracking ch => Sys2Proof.Machine.execTimingTracking ch s
  | .zqCalibration ch => Sys2Proof.Machine.execZqCalibration ch s
  | .peerResetClear x => Sys2Proof.Machine.execPeerResetClear x s
  | .anTimeout p => Sys2Proof.Machine.execAnTimeout p s
  | .rateTryTimeout p => Sys2Proof.Machine.execRateTryTimeout p s
  | .linkUp p => Sys2Proof.Machine.execLinkUp p s
  | .linkDown p => Sys2Proof.Machine.execLinkDown p s
  | .prpSupervision k => Sys2Proof.Machine.execPrpSupervision k s
  | .prpPathTimeout p => Sys2Proof.Machine.execPrpPathTimeout p s
  | .arpRequest p target sender => Sys2Proof.Machine.execArpRequest p target sender s
  | .neighborSolicitation p target sender => Sys2Proof.Machine.execNeighborSolicitation p target sender s
  | .icmpEcho p payload => Sys2Proof.Machine.execIcmpEcho p payload s
  | .ptpAnnounce p m => Sys2Proof.Machine.execPtpAnnounce p m s
  | .ptpSync p m => Sys2Proof.Machine.execPtpSync p m s
  | .pathDelayMeasurement p m => Sys2Proof.Machine.execPathDelayMeasurement p m s
  | .announceReceiptTimeout => Sys2Proof.Machine.execAnnounceReceiptTimeout s
  | .syncMissed => Sys2Proof.Machine.execSyncMissed s
  | .subscribe p src m dgram => Sys2Proof.Machine.execSubscribe p src m dgram s
  | .streamKeepalive src sm req dgram => Sys2Proof.Machine.execStreamKeepalive src sm req dgram s
  | .credit src sm count dgram => Sys2Proof.Machine.execCredit src sm count dgram s
  | .streamClose src sm dgram => Sys2Proof.Machine.execStreamClose src sm dgram s
  | .leaseExpiry sm => Sys2Proof.Machine.execLeaseExpiry sm s
  | .baleTimeout sm => Sys2Proof.Machine.execBaleTimeout sm s
  | .baleCompressed => Sys2Proof.Machine.execBaleCompressed s
  | .datagramSend sm => Sys2Proof.Machine.execDatagramSend sm s
  | .decodeStart => Sys2Proof.Machine.execDecodeStart s
  | .decodeEnd lane => Sys2Proof.Machine.execDecodeEnd lane s
  | .openSession r slot level nonceC nonceD id => Sys2Proof.Machine.execOpenSession r slot level nonceC nonceD id s
  | .auth r proof => Sys2Proof.Machine.execAuth r proof s
  | .closeSession r => Sys2Proof.Machine.execCloseSession r s
  | .keepalive r => Sys2Proof.Machine.execKeepalive r s
  | .readObj r index sub staged => Sys2Proof.Machine.execReadObj r index sub staged s
  | .writeObj r index sub ty value => Sys2Proof.Machine.execWriteObj r index sub ty value s
  | .segBegin r index sub bale total => Sys2Proof.Machine.execSegBegin r index sub bale total s
  | .segData r offset bytes => Sys2Proof.Machine.execSegData r offset bytes s
  | .segEnd r crc => Sys2Proof.Machine.execSegEnd r crc s
  | .segRead r index sub offset max => Sys2Proof.Machine.execSegRead r index sub offset max s
  | .w1cClear r index sub value => Sys2Proof.Machine.execW1cClear r index sub value s
  | .apply r index => Sys2Proof.Machine.execApply r index s
  | .key r k masked => Sys2Proof.Machine.execKey r k masked s
  | .kill r id => Sys2Proof.Machine.execKill r id s
  | .fromPos r v => Sys2Proof.Machine.execFromPos r v s
  | .entries r => Sys2Proof.Machine.execEntries r s
  | .sessionExpiry ses => Sys2Proof.Machine.execSessionExpiry ses s
  | .authTimeout ses => Sys2Proof.Machine.execAuthTimeout ses s
  | .segIdleTimeout ses => Sys2Proof.Machine.execSegIdleTimeout ses s
  | .rateLimitEnd src => Sys2Proof.Machine.execRateLimitEnd src s
  | .ledgerForward path target msg => Sys2Proof.Machine.execLedgerForward path target msg s
  | .forwardResponse target seq msg => Sys2Proof.Machine.execForwardResponse target seq msg s
  | .forwardTimeout target seq => Sys2Proof.Machine.execForwardTimeout target seq s
  | .canLedgerFrame id classical data => Sys2Proof.Machine.execCanLedgerFrame id classical data s
  | .canSegmentTimeout chan => Sys2Proof.Machine.execCanSegmentTimeout chan s
  | .busOff => Sys2Proof.Machine.execBusOff s
  | .busOffRecovery => Sys2Proof.Machine.execBusOffRecovery s
  | .summaryEntry key => Sys2Proof.Machine.execSummaryEntry key s
  | .trainingTimeout k => Sys2Proof.Machine.execTrainingTimeout k s
  | .retrain k => Sys2Proof.Machine.execRetrain k s
  | .alignmentMarker k lane phys logical map failed => Sys2Proof.Machine.execAlignmentMarker k lane phys logical map failed s
  | .laneFailure k lane => Sys2Proof.Machine.execLaneFailure k lane s
  | .haggleSend k => Sys2Proof.Machine.execHaggleSend k s
  | .haggle k h => Sys2Proof.Machine.execHaggle k h s
  | .linkFrame k nak ack credit => Sys2Proof.Machine.execLinkFrame k nak ack credit s
  | .replayTimeout k => Sys2Proof.Machine.execReplayTimeout k s
  | .linkCrierSend k => Sys2Proof.Machine.execLinkCrierSend k s
  | .linkSilent k => Sys2Proof.Machine.execLinkSilent k s
  | .topoSend => Sys2Proof.Machine.execTopoSend s
  | .topo a t => Sys2Proof.Machine.execTopo a t s
  | .topoAgeOut dev => Sys2Proof.Machine.execTopoAgeOut dev s
  | .rootSelection => Sys2Proof.Machine.execRootSelection s
  | .clusterSourceLoss => Sys2Proof.Machine.execClusterSourceLoss s
  | .timingMarker k stamp => Sys2Proof.Machine.execTimingMarker k stamp s
  | .timeFrame a sent received err => Sys2Proof.Machine.execTimeFrame a sent received err s
  | .mirrorFrame a n deliv index isLast payload => Sys2Proof.Machine.execMirrorFrame a n deliv index isLast payload s
  | .mirroredCommit a m => Sys2Proof.Machine.execMirroredCommit a m s
  | .baleMark a m => Sys2Proof.Machine.execBaleMark a m s
  | .peerStreamBale a stream dest port dgrams => Sys2Proof.Machine.execPeerStreamBale a stream dest port dgrams s
  | .twinCrierSend path => Sys2Proof.Machine.execTwinCrierSend path s
  | .crier link m => Sys2Proof.Machine.execCrier link m s
  | .crierTimeout path => Sys2Proof.Machine.execCrierTimeout path s
  | .claimFrame frame => Sys2Proof.Machine.execClaimFrame frame s
  | .claimStale => Sys2Proof.Machine.execClaimStale s
  | .yield r v => Sys2Proof.Machine.execYield r v s
  | .conversionEnd ch x second => Sys2Proof.Machine.execConversionEnd ch x second s
  | .excCompliance ch stamp => Sys2Proof.Machine.execExcCompliance ch stamp s
  | .toneCheck ch code => Sys2Proof.Machine.execToneCheck ch code s
  | .sfeCycleEnd devPpm => Sys2Proof.Machine.execSfeCycleEnd devPpm s
  | .loopControl o meas => Sys2Proof.Machine.execLoopControl o meas s
  | .srcAgeExpiry o => Sys2Proof.Machine.execSrcAgeExpiry o s
  | .loopOpen o => Sys2Proof.Machine.execLoopOpen o s
  | .loopDev o => Sys2Proof.Machine.execLoopDev o s
  | .plantMail => Sys2Proof.Machine.execPlantMail s
  | .sinkPowerAverage power => Sys2Proof.Machine.execSinkPowerAverage power s
  | .sinkPinSample k mv vs => Sys2Proof.Machine.execSinkPinSample k mv vs s
  | .sinkTestPulse k mv vs => Sys2Proof.Machine.execSinkTestPulse k mv vs s
  | .clearShort r mask => Sys2Proof.Machine.execClearShort r mask s
  | .chainImage r bits => Sys2Proof.Machine.execChainImage r bits s
  | .chainRefresh => Sys2Proof.Machine.execChainRefresh s
  | .chainFrameEnd returned => Sys2Proof.Machine.execChainFrameEnd returned s
  | .calStart r k => Sys2Proof.Machine.execCalStart r k s
  | .calStop r k => Sys2Proof.Machine.execCalStop r k s
  | .calComputationEnd k res => Sys2Proof.Machine.execCalComputationEnd k res s
  | .calTimeout k => Sys2Proof.Machine.execCalTimeout k s
  | .calAutoStart k => Sys2Proof.Machine.execCalAutoStart k s
  | .tdcShadowSwap => Sys2Proof.Machine.execTdcShadowSwap s
  | .journalWrite j => Sys2Proof.Machine.execJournalWrite j s
  | .flashOperationEnd j ok => Sys2Proof.Machine.execFlashOperationEnd j ok s
  | .earlyWarn rails => Sys2Proof.Machine.execEarlyWarn rails s
  | .earlyWarnClear => Sys2Proof.Machine.execEarlyWarnClear s
  | .railOvervoltage rails => Sys2Proof.Machine.execRailOvervoltage rails s
  | .porstN => Sys2Proof.Machine.execPorstN s
  | .srstN => Sys2Proof.Machine.execSrstN s
  | .supplyReset => Sys2Proof.Machine.execSupplyReset s
  | .thermalReset => Sys2Proof.Machine.execThermalReset s
  | .reset r v => Sys2Proof.Machine.execReset r v s
  | .zeroizePin => Sys2Proof.Machine.execZeroizePin s
  | .zeroize r v => Sys2Proof.Machine.execZeroize r v s
  | .zeroizeEraseEnd => Sys2Proof.Machine.execZeroizeEraseEnd s
  | .lockstepMismatch => Sys2Proof.Machine.execLockstepMismatch s
  | .watchdogExpiry => Sys2Proof.Machine.execWatchdogExpiry s
  | .clerkPoisonRead => Sys2Proof.Machine.execClerkPoisonRead s
  | .clerkRestartEnd => Sys2Proof.Machine.execClerkRestartEnd s
  | .loaderStart => Sys2Proof.Machine.execLoaderStart s
  | .clerksStart => Sys2Proof.Machine.execClerksStart s
  | .dramTrainingEnd ch capacity failed => Sys2Proof.Machine.execDramTrainingEnd ch capacity failed s
  | .dramClearEnd => Sys2Proof.Machine.execDramClearEnd s
  | .schedulerStart => Sys2Proof.Machine.execSchedulerStart s
  | .fwProgrammingEnd => Sys2Proof.Machine.execFwProgrammingEnd s
  | .switchLive r => Sys2Proof.Machine.execSwitchLive r s
  | .switchReset r => Sys2Proof.Machine.execSwitchReset r s
  | .confirm r => Sys2Proof.Machine.execConfirm r s
  | .trialTimeout => Sys2Proof.Machine.execTrialTimeout s
  | .temperatureRead digital analogue flash => Sys2Proof.Machine.execTemperatureRead digital analogue flash s
  | .extest => Sys2Proof.Machine.execExtest s
  | .idcode => Sys2Proof.Machine.execIdcode s
  | .samplePreload => Sys2Proof.Machine.execSamplePreload s
  | .clamp => Sys2Proof.Machine.execClamp s
  | .bypass => Sys2Proof.Machine.execBypass s
  | .extestExit => Sys2Proof.Machine.execExtestExit s
  | .chal nonce => Sys2Proof.Machine.execChal nonce s
  | .resp level bytes => Sys2Proof.Machine.execResp level bytes s
  | .chalLockoutEnd => Sys2Proof.Machine.execChalLockoutEnd s
  | .trstN => Sys2Proof.Machine.execTrstN s
  | .dbgLock r v => Sys2Proof.Machine.execDbgLock r v s
  | .dbgreg cmd target arg data => Sys2Proof.Machine.execDbgreg cmd target arg data s
  | .memRead addr => Sys2Proof.Machine.execMemRead addr s
  | .memWrite addr value => Sys2Proof.Machine.execMemWrite addr value s
  | .halt t => Sys2Proof.Machine.execHalt t s
  | .resume t => Sys2Proof.Machine.execResume t s
  | .step st => Sys2Proof.Machine.execStep st s
  | .bpSet st slot pc => Sys2Proof.Machine.execBpSet st slot pc s
  | .bpClear st slot => Sys2Proof.Machine.execBpClear st slot s
  | .watchSet st slot addr rd wr => Sys2Proof.Machine.execWatchSet st slot addr rd wr s
  | .regRead st file index => Sys2Proof.Machine.execRegRead st file index s
  | .regWrite st file index value => Sys2Proof.Machine.execRegWrite st file index value s
  | .status t => Sys2Proof.Machine.execStatus t s
  | .refEdgesPresent ref => Sys2Proof.Machine.execRefEdgesPresent ref s
  | .anDone p rate fec => Sys2Proof.Machine.execAnDone p rate fec s
  | .blockLock k lane => Sys2Proof.Machine.execBlockLock k lane s
  | .alignmentMarkerSend k => Sys2Proof.Machine.execAlignmentMarkerSend k s
  | .forwardedFrame k frame ce poisoned => Sys2Proof.Machine.execForwardedFrame k frame ce poisoned s
  | .forwardedFrameTimeout src msg => Sys2Proof.Machine.execForwardedFrameTimeout src msg s
  | .badFrame k => Sys2Proof.Machine.execBadFrame k s
  | .malformedMessage path bytes => Sys2Proof.Machine.execMalformedMessage path bytes s
  | .streamViolation src bytes => Sys2Proof.Machine.execStreamViolation src bytes s
  | .bellTypeViolation a hops m => Sys2Proof.Machine.execBellTypeViolation a hops m s
  | .snapshotExpiry ses => Sys2Proof.Machine.execSnapshotExpiry ses s
  | .prpDuplicate p f => Sys2Proof.Machine.execPrpDuplicate p f s
  | .ipFragment k => Sys2Proof.Machine.execIpFragment k s
  | .illegalOpcode st => Sys2Proof.Machine.execIllegalOpcode st s
  | .queuePeak r n => Sys2Proof.Machine.execQueuePeak r n s
  | .compLatMax r => Sys2Proof.Machine.execCompLatMax r s
  | .tMax r => Sys2Proof.Machine.execTMax r s

end Sys2Proof.Machine
end

