-- ==== Sys2Proof/Machine/Tick.lean ====
section
/-! DEFINITION. A root cycle in which no command waits (R16, R27): what step does on an empty queue (log entry 1). -/

namespace Sys2Proof.Machine

/-- The ticks one cycle adds while the root coasts (R27): five per four cycles. -/
def coastTicks (p : BitVec 2) : Nat := if p = 3 then 2 else 1

/-- Whether the fractional accumulator overflows in this cycle (R16). -/
def State.overflowDue (s : State) : Bool :=
  s.i Obj.EPOCH.FREQ_ADJ != 0 &&
    decide (2 ^ 32 ≤ s.ep.acc.toNat + (Config.accStep (s.i Obj.EPOCH.FREQ_ADJ)).toNat)

/-- The counter in a cycle of its own. -/
def State.count1 (s : State) : State :=
  if s.coasting then { s with ep := { s.ep.advance (coastTicks s.ep.coastPhase) with coastPhase := s.ep.coastPhase + 1 } }
  else { s with ep := { s.ep.advance 1 with
    acc := if s.i Obj.EPOCH.FREQ_ADJ = 0 then s.ep.acc else s.ep.acc + Config.accStep (s.i Obj.EPOCH.FREQ_ADJ) } }

/-- The bits in error after a cycle in which some bits of a word of the memories may have turned over: which, no command tells (log
entry 120). -/
def upsetIn (s : State) (e : Option (Nat × BitVec 137)) : List (Nat × BitVec 137) :=
  match e with
  | none => s.flips
  | some (a, b) => if memKind s a = .outside then s.flips else addFlip s.flips (a / 16 * 16) b

/-- A cycle: the event of a second that has begun, or of an accumulator that overflows, comes to the front of the queue; else the counter
moves, the stream engine reads on (R365), and a CAN commit waits for its bus to rest (R416). A filtered encoder sample without a new level passes, and takes a preset that waits (R35, R36; log entry 24). -/
def State.tick (s : State) : State :=
  if !s.ep.running || s.clk.stopped then s.engineRead
  else
    let t := s.takePreset
    if t.now / ticksPerSecond ≠ t.ep.served then { t with pending := [.epochSecond] }
    else if !t.coasting && t.overflowDue then { t with pending := [.epochCorrectionOverflow] }
    else { t.engineRead.count1.canRest with flips := upsetIn t (Config.upset t.now t.fresh) }

end Sys2Proof.Machine
end

