-- ==== Sys2Proof/Machine/Pins.lean ====
section
/-! DEFINITION. The levels of the output pins that the state determines: the launch DAC, GATE and FCTL of a fibre port (R65, R66, R87, R89,
R92 to R95), the CAN transceiver's standby (R408), and the plant outputs (R457, R458, R475). -/

namespace Sys2Proof.Machine

/-- The waveform on a port's DAC: from L on that of the shot launched last; what the equaliser of a shot still to launch reaches ahead of its
L already streams (R57 step 5, R88). -/
def dacNow (s : State) (n : Port) : Option DacRun :=
  match firstShot s n (fun x => x.loaded && !x.launched) with
  | some x => if (launchRun s x).start ≤ (s.now : Int) then some (launchRun s x) else s.ports[n].dac
  | none => s.ports[n].dac

/-- The code on the launch DAC of port n (R87): the sample of the waveform that streams, code 0 outside it. -/
def dacCode (s : State) (n : Port) : Int :=
  match dacNow s n with
  | none => 0
  | some r => if (s.now : Int) < r.start then 0 else (r.codes[((s.now : Int) - r.start).toNat]?).getD 0

/-- Fn.GATE (R66, R89). -/
def gatePin (s : State) (n : Port) : Bool := s.ports[n].gateHigh

/-- The FCK half periods passed since the word in progress began, with the word; none while FCTL is idle. -/
def fctlAt (s : State) (n : Port) : Option (BitVec 32 × Nat) :=
  let f := s.ports[n].fctl
  f.busy.map (fun w => (w, (s.now - f.since) / (fckTicks s n / 2)))

/-- Fn.FCK (R66, R92): idle at FCK_POL; in a word each of its WORD_BITS periods begins low and ends high, so that data that change with the
period are valid on the rising edge (log entry 89). -/
def fckPin (s : State) (n : Port) : Bool :=
  let idle := s.u (Obj.FCTL.FCK_POL n) == 1
  s.ports[n].live && (match fctlAt s n with
    | none => idle
    | some (_, h) => if h < 2 * s.u (Obj.FCTL.WORD_BITS n) then h % 2 == 1 else idle)

/-- Fn.FDA (R66, R92): the word's bits, most significant first. -/
def fdaPin (s : State) (n : Port) : Bool :=
  let bits := s.u (Obj.FCTL.WORD_BITS n)
  s.ports[n].live && (match fctlAt s n with
    | none => Config.fdaIdle
    | some (w, h) => if h / 2 < bits then w.getLsbD (bits - 1 - h / 2) else Config.fdaIdle)

/-- Fn.FLE (R66, R92): high in the strobe period after the word in MODE 0, low during the word in MODE 1. -/
def flePin (s : State) (n : Port) : Bool :=
  let bits := s.u (Obj.FCTL.WORD_BITS n)
  let low := s.u (Obj.FCTL.MODE n) == 1
  s.ports[n].live && (match fctlAt s n with
    | none => low
    | some (_, h) => if low then decide (bits ≤ h / 2) else h / 2 == bits)

/-- CLAIM.CLMO (R450): the frame in progress, its bits most significant first, 32 ticks each (log entry 126). -/
def clmoPin (s : State) : Bool := (claimFrame (claimOnWire s)).getLsbD (39 - (s.now - claimStart s) / 32)

/-- CAN.STB (R408): high while CAN_EN is 0. -/
def canStb (s : State) : Bool := s.u Obj.CAN.CAN_EN == 0

/-- Whether LOOP.DRVn is driven low (R458, R471): in the group's off state, and with SOURCE 0. -/
def drvLow (s : State) (o : Fin 8) : Bool := plantOff s || s.u (Obj.LOOP.SOURCE o) == 0

/-- The current of emitter sink k in units of 4 µA (R475, R477): SET × GLOBAL / 65,536, with GLOBAL 65,535 as 1, scaled by the common
factor; none while the sink is off (R458). -/
def sinkCurrent (s : State) (k : Fin 16) : Rat :=
  let share := fun (v : Nat) => if v = 65535 then (1 : Rat) else (v : Rat) / 65536
  if sinkOn s k then (s.u (Obj.SINK.SET k) : Rat) * share (s.u Obj.SINK.GLOBAL) * share (s.u Obj.SINK.SCALE_NOW) else 0

/-- Whether CHAIN.LCLK, LDAT and LLAT are driven; else they are high-impedance (R458, R482). -/
def chainDriven (s : State) : Bool := s.u Obj.CHAIN.CH_EN == 1 && !plantOff s

end Sys2Proof.Machine
end

