-- ==== Sys2Proof/Safety.lean ====
section
/-! DEFINITION. What counts as a good state, and the frames that statements use. -/

namespace Sys2Proof

/-- Numbers in strictly rising order: nothing listed twice, one way to list the same things. -/
def rising (l : List Nat) : Prop := l.Pairwise (fun a b => a < b)

/-- The memory keeps its canonical form. -/
def memoryGood (s : Machine.State) : Prop := Machine.Memory.wf s.mem = true

/-- Memory, poison marks, the Ledger registers in force and the staged ones are each held in one canonical form. -/
def storesGood (s : Machine.State) : Prop :=
  memoryGood s ∧ rising s.poison ∧ rising (s.regs.map Prod.fst) ∧ rising (s.staged.map Prod.fst)

/-- Between two states no Ledger register in force changes but those listed. -/
def regsKept (s t : Machine.State) (l : List Reg) : Prop := ∀ r : Reg, (∀ x ∈ l, x.key ≠ r.key) → t.u r = s.u r

/-- A later state differs from an earlier one in Ledger registers only, and of those only in the ones listed. -/
def onlyRegs (s t : Machine.State) (l : List Reg) : Prop := t = { s with regs := t.regs } ∧ regsKept s t l

/-- Every byte of memory outside the `n` bytes from `a` on reads as before. -/
def bytesKept (s t : Machine.State) (a n : Nat) : Prop :=
  ∀ b : Nat, b < a ∨ a + n ≤ b → Machine.Memory.read t.mem b = Machine.Memory.read s.mem b

/-! ## Stamped edges (R304 to R310) -/

/-- An edge of a channel outside its dead time while the PLL is LOCKED: it is stamped with its fine field (R307, R310). -/
def stampsFine (s : Machine.State) (ch : Fin 21) (stamp : Stamp) : Prop :=
  s.u Obj.CLOCKS.PLL_STATE = 2 ∧ ∀ l : Int, s.tdc.lastEdge[ch] = some l → (stamp : Int) < l ∨ l + Machine.deadFine ≤ stamp

/-- The state in which such an edge has reached LAST, EVENTS and the measurement units, before its consumer takes it. -/
def edged (s : Machine.State) (ch : Fin 21) (stamp : Stamp) : Machine.State :=
  Machine.overAll (((s.edgeAt ch stamp).put (Obj.CHANNEL.LAST ch) (Machine.epochVal stamp)).bump (Obj.CHANNEL.EVENTS ch))
    (fun v u => v.toUnit ch stamp false (s.correctedAt stamp) u)

/-- A link has nothing that waits, credit for a virtual channel (VC0 takes none) and room in its replay buffer for a frame of 16 payload
words, so that one leaves at once (R427, R428). -/
def freeLink (s : Machine.State) (k : Fin 4) (v : Nat) : Prop :=
  Machine.refuses s 7 = false ∧ s.links[k].vcq = [] ∧ (v = 0 ∨ 0 < s.links[k].credit.getD (v - 1) 0) ∧
  (s.links[k].unacked.map (fun e => Machine.frameBytes e.1)).sum + 312 ≤ 131072

/-- A frame as it leaves a link: with the next FSEQ, the ACK of what has arrived and the buffers returned (R424). -/
def sentAs (s : Machine.State) (k : Fin 4) (f : Machine.AggonFrame) : Machine.AggonFrame :=
  { f with fseq := s.links[k].fseq, ack := s.links[k].last, credit := s.links[k].owed.map (min 255) }

/-- A frame as it stands on a link's lanes (R418). -/
def onLanes (s : Machine.State) (k : Fin 4) (f : Machine.AggonFrame) : Machine.Out :=
  .frame k f (Machine.stripe (Machine.blocksOf (Machine.frameWire f)) s.links[k]).2

/-- A frame of a virtual channel comes over a link that is UP as the next in order, and the state in which it has been accepted (R428). -/
def inOrder (s : Machine.State) (a : Arrival) (vc : Nat) (u : Machine.State) : Prop :=
  Machine.linkUp s a.link = true ∧ a.fseq = s.links[a.link].last + 1 ∧ u = s.acceptFrame a vc

/-- Trims given to a target over those that wait to take effect under R490. -/
def overTrims (l old : List (Nat × List Byte)) : List (Nat × List Byte) := l ++ old.filter (fun e => !l.any (fun x => x.1 == e.1))

/-- What an edge may change beside its consumer: LAST, EVENTS and the events that wait in the units. -/
def edgeRegs (ch : Fin 21) : List Reg := [Obj.CHANNEL.LAST ch, Obj.CHANNEL.EVENTS ch]

/-- The status registers of branch b on port n (R150). -/
def branchRegs (n b : Nat) : List Reg :=
  [Obj.BRANCH.NOISE n b, Obj.BRANCH.SNR_MEAN n b, Obj.BRANCH.SHARE n b, Obj.BRANCH.FADE_FRAC n b, Obj.BRANCH.EXCLUDED n b]

/-! ## Stalls: when an instruction is issued and completes (R236, R240, R527), and what it then leaves -/

/-- Some bytes of memory lie in words that are neither poisoned nor in error. -/
def sound (s : Machine.State) (a n : Nat) : Prop :=
  (∀ p ∈ s.poison, p + 16 ≤ a ∨ a + n ≤ p) ∧ ∀ e ∈ s.flips, e.1 + 16 ≤ a ∨ a + n ≤ e.1

/-- A stall issues its next instruction: it runs, no breakpoint stands at its PC (or it has just been resumed there), and the word fetched is
good. -/
def issues (s : Machine.State) (t : StallId) : Prop :=
  s.stalls[t].running = true ∧ (s.stalls[t].skipBp = true ∨ ∀ b ∈ s.stalls[t].bps.toList, b ≠ some s.stalls[t].pc) ∧
  sound s (Machine.stallProg t + 4 * s.stalls[t].pc.toNat) 4

/-- The instruction also goes on behind itself, within program memory (R236). -/
def ready (s : Machine.State) (t : StallId) : Prop := issues s t ∧ s.stalls[t].runsOut = false

/-- An instruction of R240 is issued: it does not end a loop's body. -/
def issuesControl (s : Machine.State) (t : StallId) : Prop := issues s t ∧ s.stalls[t].lastOfBody = false

/-- The state in which a stall's registers are `x` and its PC has gone on: nothing else has changed. -/
def after (s : Machine.State) (t : StallId) (x : Machine.Stall) : Machine.State :=
  { s with stalls := s.stalls.set t { x.advance with skipBp := false } }

/-- The state in which a stall's registers are `x` and it has jumped to a word. -/
def jumped (s : Machine.State) (t : StallId) (x : Machine.Stall) (pc : BitVec 13) : Machine.State :=
  { s with stalls := s.stalls.set t { x with pc := pc, skipBp := false } }

/-- A sticky flag is raised where something happened. -/
def flagged (s : Machine.State) (t : StallId) (b : Fin 6) (c : Bool) : Machine.State := if c then s.raiseFlag t b else s

/-- A data register from two others, lane by lane; a lane is poisoned where either operand's lane is (R222). -/
def lanes (f : BitVec 24 → BitVec 24 → BitVec 24) (p q : Machine.DReg) : Machine.DReg :=
  Machine.Quad.build (fun i => ⟨f (p.get i).v (q.get i).v, (p.get i).poison || (q.get i).poison⟩)

/-- A number held to the range of a 24-bit lane. -/
def held24 (v : Int) : BitVec 24 := BitVec.ofInt 24 (max (-8388608) (min 8388607 v))

/-- An accumulator lane after an instruction whose exact result is `v` (R218). -/
def accLane (v : Int) (poison : Bool) : Machine.ALane :=
  if -(2 ^ 55) ≤ v ∧ v < 2 ^ 55 then ⟨BitVec.ofInt 56 v, false, poison⟩
  else ⟨BitVec.ofInt 56 (if v < 0 then -(2 ^ 55) else 2 ^ 55 - 1), true, poison⟩

/-- Whether an exact result leaves the range of an accumulator lane. -/
def accOver (v : Int) : Bool := !decide (-(2 ^ 55) ≤ v ∧ v < 2 ^ 55)

/-- A lane to which an exact value is added: it stays at its limit while its OVS is set (R218). -/
def accMore (l : Machine.ALane) (v : Int) (poison : Bool) : Machine.ALane :=
  if l.ovs then { l with poison := l.poison || poison } else accLane (l.v.toInt + v) (l.poison || poison)

def accMoreOver (l : Machine.ALane) (v : Int) : Bool := !l.ovs && accOver (l.v.toInt + v)

/-- A lane whose value is replaced by one computed from it: its OVS stays set (R218). -/
def accNew (l : Machine.ALane) (v : Int) : Machine.ALane := { accLane v l.poison with ovs := l.ovs || accOver v }

/-- The lane STA stores (R219), and whether it saturates. -/
def staValue (l : Machine.ALane) (n : Nat) : BitVec 24 × Bool :=
  if l.ovs then (if l.v.toInt < 0 then 0x800000 else 0x7FFFFF, true)
  else (held24 (Machine.roundEven ((l.v.toInt : Rat) / 2 ^ n)),
    !decide (-8388608 ≤ Machine.roundEven ((l.v.toInt : Rat) / 2 ^ n) ∧ Machine.roundEven ((l.v.toInt : Rat) / 2 ^ n) ≤ 8388607))

/-- The state in which an instruction traps before it has any effect (R245). -/
def trapped (s : Machine.State) (t : StallId) (cause : Nat) : Machine.State :=
  (s.modStall t (fun y => { y with skipBp := false })).takeTrap t cause

/-! ## Requests of the Ledger (R393): heard, carried out and answered -/

/-- A WRITE of a value of a type is heard as a session's that has the level; no transfer to the object is open, and this is no standby. -/
def wrote (s t : Machine.State) (x : Machine.Session) (r : Req) (idx sub : Nat) (ty : Ty) (value : List Byte) (level : Nat) : Prop :=
  Machine.gate s 0x11 r (Machine.le 2 idx ++ Machine.le 1 sub ++ Machine.le 1 ty.code ++ value) = .go t x ∧
  t.u Obj.HEALTH.BOOT_STATE ≠ 4 ∧ level ≤ x.level ∧ Machine.transferTo t (idx * 256 + sub) = false ∧ Machine.standby t = false

/-- A READ is heard as a session's. -/
def asked (s t : Machine.State) (x : Machine.Session) (r : Req) (idx sub : Nat) (staged : Bool) : Prop :=
  Machine.gate s 0x10 r (Machine.le 2 idx ++ Machine.le 1 sub ++ Machine.le 1 (if staged then 1 else 0)) = .go t x ∧
  t.u Obj.HEALTH.BOOT_STATE ≠ 4

/-- A WRITE is answered with code 0. -/
def granted (t : Machine.State) (x : Machine.Session) (r : Req) : Machine.State := t.reply x 0x11 r 0 []

/-- A request is taken up: its sender is served, and the clerks' queue has room. -/
def heard (s : Machine.State) (p : Path) (session : BitVec 32) : Prop := Machine.taken s p session = true ∧ Machine.clerksFull s = false

/-- A request has been counted, its sources under a limit served. -/
def counted (s : Machine.State) (r : Req) : Machine.State := s.takeUp r.path r.session

end Sys2Proof
end

