-- ==== Sys2Proof/Certificates/Slice0/Obligations.lean ====
section
/-! DEFINITION. The statements for the provers. Each says what commands do, by the rules of spec/; the docstring names the rules. -/

open Sys2Proof Sys2Proof.Machine

/-! ## Epoch time (spec/01) -/

/-- R16, R26: a cycle in which the accumulator overflows moves the count by 2 or by 0 instead of 1, and a second of holdover raises the
error bound. -/
def Obligations.EpochCorrectionAndHoldover : Prop :=
  (∀ s : State, s.ep.running = true → s.coasting = false → s.i Obj.EPOCH.FREQ_ADJ ≠ 0 →
    exec .epochCorrectionOverflow s = .next { s with ep := { s.ep with
      count := s.ep.count + (if 0 < s.i Obj.EPOCH.FREQ_ADJ then 2 else 0), phase := s.ep.phase + 1,
      acc := s.ep.acc + Config.accStep (s.i Obj.EPOCH.FREQ_ADJ),
      corrected := s.ep.corrected + (if 0 < s.i Obj.EPOCH.FREQ_ADJ then 1 else -1),
      recent := ((s.now, if 0 < s.i Obj.EPOCH.FREQ_ADJ then 1 else -1) :: s.ep.recent).take 128 } }) ∧
  (∀ s : State, s.u Obj.EPOCH.SOURCE = 4 → s.u Obj.EPOCH.HOLDOVER_ERR + 1 < 2 ^ 32 →
    ∃ t : State, exec .holdoverErrGrowth s = .next t ∧ t.u Obj.EPOCH.HOLDOVER_ERR = s.u Obj.EPOCH.HOLDOVER_ERR + 1 ∧
      t.bit Obj.EPOCH.FLAGS Bit.EPOCH.FLAGS.DEGRADED =
        decide (s.u Obj.EPOCH_SOURCE.HOLD_ERR_MAX < s.u Obj.EPOCH.HOLDOVER_ERR + 1) ∧
      onlyRegs s t [Obj.EPOCH.HOLDOVER_ERR, Obj.EPOCH.FLAGS])

/-- R16, R27, R36: a root cycle with no command in the queue moves the count by 0, 1 or 2 ticks, by five in four cycles while the root coasts,
and leaves memory, ports and stalls alone. Where the stream engine has nothing to read (R365) and no CAN commit waits for its bus (R416), no stream
moves, nothing leaves and no Ledger register changes but the encoder's count where a preset waits for a cycle of the root. -/
def Obligations.RootCycleMovesAtMostTwoTicks : Prop :=
  (∀ s : State, s.pending = [] →
    ∃ t : State, step s = .next t ∧ (∃ k : Nat, k ≤ 2 ∧ t.ep.count = s.ep.count + BitVec.ofNat 64 k ∧
      (s.coasting = true → t.pending = [] → s.ep.running = true → s.clk.stopped = false →
        k = if s.ep.coastPhase = 3 then 2 else 1)) ∧
      t.mem = s.mem ∧ t.ports = s.ports ∧ t.stalls = s.stalls) ∧
  (∀ s : State, s.pending = [] → (∀ k : Fin 256, s.streams[k].unread = []) → s.isApplying 0x1140 = false →
    ∃ t : State, step s = .next t ∧ t.streams = s.streams ∧ t.out = s.out ∧
      (s.enc.preset = none → t.regs = s.regs ∧ t.enc = s.enc) ∧
      (∀ v : Nat, s.enc.preset = some v → v < 2 ^ 32 → s.ep.running = true → s.clk.stopped = false →
        t.u Obj.AXIS_STATUS.LINE_POS = v ∧ t.enc = { s.enc with preset := none } ∧ regsKept s t [Obj.AXIS_STATUS.LINE_POS])) ∧
  (∀ s : State, s.pending = [] → s.ep.running = false ∨ s.clk.stopped = true → step s = .next s.engineRead)

/-- R21, R62: at an epoch second the groups of the sources and axes commit, a change of source takes effect, and CLKMON, TOLL_USE, the
mirror's rate and the calibrations due follow. R18, R21, R26: a change of the selected source sets SOURCE and SOURCE_CHANGE and makes a day book entry; at entry to HOLDOVER the slew
term stops and the bound starts at the last offset in whole nanoseconds, rounded up. R19, R20, R52: PPS edges, their loss and their label. -/
def Obligations.SecondsSourcesAndPps : Prop :=
  (∀ s : State, s.now / ticksPerSecond ≠ s.ep.served →
    exec .epochSecond s = .next (((({ s with ep := { s.ep with served := s.now / ticksPerSecond } }).commitSources).changeSource.clkmonSecond.tollUse.mirrorRate).dueFlag)) ∧
  ((∀ s : State, s.selected ≠ s.u Obj.EPOCH.SOURCE →
    ∃ t : State, s.changeSource = t.log { cls := 1, sub := 12, index := 0x2100, osub := 4, bit := 4, detail := t.u Obj.EPOCH.FLAGS } ∧
      t.u Obj.EPOCH.SOURCE = s.selected ∧
      t.bit Obj.EPOCH.FLAGS Bit.EPOCH.FLAGS.SOURCE_CHANGE = true ∧
      t.bit Obj.EPOCH.FLAGS Bit.EPOCH.FLAGS.HOLDOVER = (s.selected == 4) ∧
      (s.selected = 4 → t.ep.slew = 0 ∧ t.u Obj.EPOCH.HOLDOVER_ERR = ceilDiv (s.i Obj.EPOCH.OFFSET).natAbs 1000 % 2 ^ 32) ∧
      t.ports = s.ports ∧ t.mem = s.mem ∧ t.streams = s.streams ∧ t.ep.count = s.ep.count) ∧
  (∀ s : State, s.selected = s.u Obj.EPOCH.SOURCE → s.changeSource = s)) ∧
  ((∀ (s u : State) (stamp l : Nat), stampsFine s 8 stamp → u = edged s 8 stamp → s.ep.pps.last = some l →
    ((stamp : Int) - l - secondFine).natAbs ≤ microFine → s.ep.pps.label = none → s.ep.ptpUsable = false →
    exec (.ppsEdge stamp) s = .next (({ u with ep := { u.ep with pps :=
      ⟨some stamp, min 4 (s.ep.pps.run + 1), none⟩ } }).ppsFlag)) ∧
  (∀ (s : State) (stamp l sec : Nat), stampsFine s 8 stamp → s.ep.pps.last = some l →
    ((stamp : Int) - l - secondFine).natAbs ≤ microFine → s.ep.pps.label = some sec →
    ∃ u v : State, u = edged s 8 stamp ∧ v = ({ u with ep := { u.ep with pps := ⟨some stamp, min 4 (s.ep.pps.run + 1), some (sec + 1)⟩ } }).ppsFlag ∧
      exec (.ppsEdge stamp) s = .next (if v.ppsQualified then v.measure 2 (psOfFine
        ((stamp : Int) - freeRound (s.i Obj.EPOCH_SOURCE.PPS_DELAY * 512) 625 - sec * secondFine)) else v)) ∧
  (∀ (s : State) (stamp l : Nat), stampsFine s 8 stamp → s.ep.pps.last = some l → microFine < ((stamp : Int) - l - secondFine).natAbs →
    ∃ t : State, exec (.ppsEdge stamp) s = .next t ∧ t.ep.pps.run = 0 ∧ t.usable 2 = false ∧
      onlyRegs s { t with ep := s.ep, units := s.units, tdc := s.tdc } (edgeRegs 8 ++ [Obj.EPOCH.FLAGS])) ∧
  (∀ (s : State) (stamp : Nat) (l : Int), s.tdc.lastEdge[8] = some l → l ≤ stamp → (stamp : Int) < l + deadFine →
    exec (.ppsEdge stamp) s = .next (s.bump (Obj.CHANNEL.DEAD_MISS 8))) ∧
  (∀ s : State, ∃ t : State, exec .ppsTimeout s = .next t ∧ t.ep.pps = ⟨none, 0, none⟩ ∧ t.usable 2 = false ∧
    t.bit Obj.EPOCH.FLAGS Bit.EPOCH.FLAGS.PPS_UNLABELLED = false ∧ onlyRegs s { t with ep := s.ep } [Obj.EPOCH.FLAGS]))

/-- R23, R24, R28: a measured offset above STEP_THRESH, or the first one against a TAI-traceable source, starts a step; another one is removed
by frequency correction, held to SLEW_MAX; a measurement made while coasting is discarded. R24, R22, R28: STEP_LOAD loads the corrected count
once no committed shot's window is open, STEPPED and STEPS say so, and a step to TAI sets ORIGIN; until then, and with no step in progress, it
leaves all as it is. SLEW_END stops the slew term of the correction, and UNCERTAIN clears where the offset was the one taken up after
coasting. -/
def Obligations.OffsetsStepsAndSlews : Prop :=
  ((∀ (s : State) (code : Nat) (off : Int), s.coasting = true → s.measure code off = s) ∧
  (∀ (s : State) (code : Nat) (off : Int), s.coasting = false → s.ep.step = none → s.u Obj.EPOCH.SOURCE = code →
    ((s.u Obj.EPOCH_SOURCE.STEP_THRESH : Int) * 1000 < off.natAbs ∨ (s.traceable code = true ∧ s.u Obj.EPOCH.ORIGIN = 0)) →
    (s.measure code off).ep.step = some ⟨-(freeRound (off * 2) 625), s.traceable code && s.u Obj.EPOCH.ORIGIN == 0⟩ ∧
    (s.measure code off).ep.count = s.ep.count) ∧
  (∀ (s : State) (code : Nat) (off : Int), s.coasting = false → s.ep.step = none → s.u Obj.EPOCH.SOURCE = code →
    (off.natAbs : Int) ≤ (s.u Obj.EPOCH_SOURCE.STEP_THRESH : Int) * 1000 → (s.traceable code = false ∨ s.u Obj.EPOCH.ORIGIN ≠ 0) → off ≠ 0 →
    (s.measure code off).ep.step = none ∧ (s.measure code off).ep.slewing = true ∧ (s.measure code off).ep.count = s.ep.count ∧
    (s.u Obj.EPOCH_SOURCE.SLEW_MAX * 1000 < 2 ^ 31 →
      ((s.measure code off).i Obj.EPOCH.FREQ_ADJ).natAbs ≤ s.u Obj.EPOCH_SOURCE.SLEW_MAX * 1000))) ∧
  ((∀ (s : State) (st : EpochStep), s.ep.step = some st → (∀ n : Port, ∀ x ∈ s.ports[n].shots, x.winClosed = true) →
    ∃ t : State, exec .stepLoad s = .next t ∧ t.ep.count = BitVec.ofInt 64 ((s.ep.count.toNat : Int) + st.ticks) ∧ t.ep.step = none ∧
      t.ep.phase = s.ep.phase ∧ t.bit Obj.EPOCH.FLAGS Bit.EPOCH.FLAGS.STEPPED = true ∧
      (s.u Obj.EPOCH.STEPS + 1 < 2 ^ 32 → t.u Obj.EPOCH.STEPS = s.u Obj.EPOCH.STEPS + 1) ∧
      (st.tai = true → t.u Obj.EPOCH.ORIGIN = 1 ∧ t.bit Obj.EPOCH.FLAGS Bit.EPOCH.FLAGS.ORIGIN_TAI = true) ∧
      (st.tai = false → t.u Obj.EPOCH.ORIGIN = s.u Obj.EPOCH.ORIGIN) ∧
      (∀ n : Port, t.ports[n].stepped = true) ∧
      (∀ u : Fin 8, t.units[u].events = [] ∧ t.units[u].start = none ∧ t.units[u].held = []) ∧
      regsKept s t ([Obj.EPOCH.FLAGS, Obj.EPOCH.STEPS, Obj.EPOCH.ORIGIN] ++ (List.finRange 8).map (fun u => Obj.MEASURE.MFLAGS u)) ∧
      t.mem = s.mem ∧ t.stalls = s.stalls ∧ (∀ k : Fin 256, t.streams[k] = s.streams[k].restated st.ticks)) ∧
  (∀ (s : State) (st : EpochStep), s.ep.step = some st → (∃ n : Port, ∃ x ∈ s.ports[n].shots, x.winClosed = false) →
    exec .stepLoad s = .next s) ∧
  (∀ s : State, s.ep.step = none → exec .stepLoad s = .next s) ∧
  (∀ s : State, s.ep.slewing = true →
    ∃ t : State, exec .slewEnd s = .next t ∧ t.ep = { s.ep with slew := 0, slewing := false, reacquire := false } ∧
      (s.u Obj.EPOCH_SOURCE.SLEW_MAX * 1000 < 2 ^ 31 → t.i Obj.EPOCH.FREQ_ADJ =
        max (-(s.u Obj.EPOCH_SOURCE.SLEW_MAX * 1000 : Int)) (min (s.u Obj.EPOCH_SOURCE.SLEW_MAX * 1000) s.ep.track)) ∧
      (s.ep.reacquire = true → t.bit Obj.EPOCH.FLAGS Bit.EPOCH.FLAGS.UNCERTAIN = false) ∧
      regsKept s t [Obj.EPOCH.FREQ_ADJ, Obj.EPOCH.FLAGS] ∧ t.mem = s.mem ∧ t.ports = s.ports ∧ t.stalls = s.stalls) ∧
  (∀ s : State, s.ep.slewing = false → exec .slewEnd s = .next s))

/-! ## The axes (spec/01) -/

/-- R31, R32: the mains tracker rejects an edge earlier than three quarters of a period after the last one, and moves its period by the
residual over n and its cycle by one for another; the first two edges give the first period; a synthetic edge moves it by one period, and the
fourth in a row loses the lock. R35, R36, R62: the first filtered sample moves nothing; then one changed input moves the count by one, up where A leads B, and two at once
are an illegal transition; an index edge zeroes the count where ENC_INDEX says so; a preset written replaces the count at the next filtered sample;
every 10 ms LINE_RATE takes a hundred times the net change. -/
def Obligations.MainsAndEncoder : Prop :=
  ((∀ (s : State) (stamp : Nat) (l p : Rat), stampsFine s 9 stamp → s.mains.last = some l → s.mains.period = some p →
    (stamp : Rat) - (s.i Obj.AXIS_CONFIG.MAINS_DELAY : Rat) * 512 / 625 - l < p * 3 / 4 →
    exec (.mainsEdge stamp) s = .next ((edged s 9 stamp).bump Obj.AXIS_STATUS.MAINS_REJECT)) ∧
  (∀ (s : State) (stamp : Nat) (l p t : Rat), stampsFine s 9 stamp → s.mains.last = some l → s.mains.period = some p →
    t = (stamp : Rat) - (s.i Obj.AXIS_CONFIG.MAINS_DELAY : Rat) * 512 / 625 → p * 3 / 4 ≤ t - l →
    |t - (l + p)| ≤ p / 50 →
    ∃ u : State, exec (.mainsEdge stamp) s = .next u ∧ u.mains.last = some t ∧ u.mains.period = some (p + (t - (l + p)) / mainsN s) ∧
      u.mains.cycle = s.mains.cycle + 1 ∧ u.mains.synth = 0 ∧
      onlyRegs s { u with mains := s.mains, units := s.units, tdc := s.tdc }
        (edgeRegs 9 ++ [Obj.AXIS_STATUS.MAINS_PERIOD, Obj.AXIS_STATUS.MAINS_RESID, Obj.AXIS_STATUS.MAINS_LOCK])) ∧
  (∀ (s u : State) (stamp : Nat) (t : Rat), stampsFine s 9 stamp → u = edged s 9 stamp →
    t = (stamp : Rat) - (s.i Obj.AXIS_CONFIG.MAINS_DELAY : Rat) * 512 / 625 → s.mains.last = none →
    exec (.mainsEdge stamp) s = .next { u with mains := { s.mains with last := some t, cycle := s.mains.cycle + 1, synth := 0 } }) ∧
  (∀ (s : State) (stamp : Nat) (l t : Rat), stampsFine s 9 stamp → s.mains.last = some l → s.mains.period = none →
    t = (stamp : Rat) - (s.i Obj.AXIS_CONFIG.MAINS_DELAY : Rat) * 512 / 625 → mainsMin ≤ t - l →
    ∃ u : State, exec (.mainsEdge stamp) s = .next u ∧ u.mains.last = some t ∧ u.mains.period = some (t - l) ∧ u.mains.cycle = s.mains.cycle + 1 ∧
      onlyRegs s { u with mains := s.mains, units := s.units, tdc := s.tdc } (edgeRegs 9 ++ [Obj.AXIS_STATUS.MAINS_PERIOD])) ∧
  (∀ (s : State) (l p : Rat), s.mains.last = some l → s.mains.period = some p → s.mains.synth < 3 →
    exec .mainsSyntheticEdge s = .next { s with mains := { s.mains with
      last := some (l + p), cycle := s.mains.cycle + 1, good := 0, synth := s.mains.synth + 1 } }) ∧
  (∀ (s : State) (l p : Rat), s.mains.last = some l → s.mains.period = some p → s.mains.synth = 3 → s.u Obj.AXIS_STATUS.MAINS_LOCK = 1 →
    ∃ u : State, exec .mainsSyntheticEdge s = .next (u.log { cls := 2, sub := 12, index := 0x2103, osub := 4, bit := 0 }) ∧
      u.u Obj.AXIS_STATUS.MAINS_LOCK = 0 ∧ u.mains.last = some (l + p) ∧ u.mains.cycle = s.mains.cycle + 1 ∧
      onlyRegs s { u with mains := s.mains } [Obj.AXIS_STATUS.MAINS_LOCK]) ∧
  (∀ s : State, s.mains.last = none ∨ s.mains.period = none → exec .mainsSyntheticEdge s = .next s)) ∧
  ((∀ (s : State) (a b z : Bool), s.enc.taken = false → s.enc.preset = none →
    exec (.encLevelAccept a b z) s = .next { s with
      enc := { s.enc with taken := true, a := a, b := b, z := z },
      tdc := { s.tdc with levels := ((s.tdc.levels.set 10 a).set 11 b).set 12 z, raw := [] } }) ∧
  (∀ (s : State) (a b : Bool), s.enc.taken = true → s.enc.preset = none → (a = s.enc.a ∨ b = s.enc.b) →
    (∀ n : Port, s.u (Obj.SCHEDULER.AXIS n) ≠ 2) →
    ∃ t : State, exec (.encLevelAccept a b false) s = .next t ∧
      t.i Obj.AXIS_STATUS.LINE_POS = (BitVec.ofInt 32 (s.i Obj.AXIS_STATUS.LINE_POS + encMove s.enc.a s.enc.b a b)).toInt ∧
      t.enc = { s.enc with a := a, b := b, z := false } ∧
      onlyRegs s { t with enc := s.enc, units := s.units, tdc := s.tdc, fresh := s.fresh }
        ([Obj.AXIS_STATUS.LINE_POS, Obj.TDC.COARSE_STAMPS] ++ edgeRegs 10 ++ edgeRegs 11)) ∧
  (encMove false false true false = 1 ∧ encMove true false true true = 1 ∧ encMove true true false true = 1 ∧
    encMove false true false false = 1 ∧ ∀ a b a' b', encMove a' b' a b = - encMove a b a' b') ∧
  (∀ (s : State) (a b : Bool), s.enc.taken = true → s.enc.preset = none → a ≠ s.enc.a → b ≠ s.enc.b →
    s.u Obj.AXIS_STATUS.ENC_ILLEGAL + 1 < 2 ^ 32 →
    ∃ t : State, exec (.encLevelAccept a b false) s = .next t ∧ t.u Obj.AXIS_STATUS.ENC_ILLEGAL = s.u Obj.AXIS_STATUS.ENC_ILLEGAL + 1 ∧
      regsKept s t ([Obj.AXIS_STATUS.ENC_ILLEGAL, Obj.TDC.COARSE_STAMPS] ++ edgeRegs 10 ++ edgeRegs 11) ∧
      ∀ n : Port, t.ports[n].lineBad = (s.ports[n].lineBad || s.u (Obj.SCHEDULER.AXIS n) == 2)) ∧
  (∀ s : State, s.enc.taken = true → s.enc.preset = none → s.enc.z = false → s.u Obj.AXIS_CONFIG.ENC_INDEX = 1 →
    s.u Obj.AXIS_STATUS.LINE_INDEX + 1 < 2 ^ 32 → (∀ n : Port, s.u (Obj.SCHEDULER.AXIS n) ≠ 2) →
    ∃ t : State, exec (.encLevelAccept s.enc.a s.enc.b true) s = .next t ∧ t.u Obj.AXIS_STATUS.LINE_POS = 0 ∧
      t.u Obj.AXIS_STATUS.LINE_INDEX = s.u Obj.AXIS_STATUS.LINE_INDEX + 1 ∧
      onlyRegs s { t with enc := s.enc, units := s.units, tdc := s.tdc, fresh := s.fresh }
        ([Obj.AXIS_STATUS.LINE_POS, Obj.AXIS_STATUS.LINE_INDEX, Obj.TDC.COARSE_STAMPS] ++ edgeRegs 12)) ∧
  (∀ (s : State) (v : Nat), encPresetEff s v = { s with enc := { s.enc with preset := some v } }) ∧
  (∀ (s : State) (a b z : Bool) (v : Nat), s.enc.preset = some v → v < 2 ^ 32 →
    ∃ t : State, exec (.encLevelAccept a b z) s = .next t ∧ t.u Obj.AXIS_STATUS.LINE_POS = v ∧ t.enc.preset = none ∧ t.enc.taken = true) ∧
  (∀ s : State, ∃ t : State, exec .lineRateUpdate s = .next t ∧ t.enc.at10ms = s.lineCount ∧
    t.i Obj.AXIS_STATUS.LINE_RATE = (BitVec.ofInt 32 ((s.lineCount - s.enc.at10ms).toInt * 100)).toInt ∧
    onlyRegs s { t with enc := s.enc } [Obj.AXIS_STATUS.LINE_RATE]))

/-! ## Slots, launches and the interlock (spec/01) -/

/-- R40, R47 to R50: a slot point is consumed without effect on an OFF entry or a port that does not schedule; it is refused for the first cause
that holds, and counted; else the shot is committed with the next sequence number. R57, R60, R70, R78, R80, R86, R87, R89: the steps of a launch,
each on the shot it falls to: its waveform streams from L on, samples beyond 8,191 are clipped and counted, and its record is taken. -/
def Obligations.SlotsAndLaunches : Prop :=
  ((∀ (s : State) (n : Port) (slot : SlotPoint), s.u Obj.HEALTH.BOOT_STATE = 3 →
    exec (.commitPoint n slot) s = .next ((((s.commitPair n).commitOwn n).budgetFlag n).slotPoint n slot)) ∧
  (∀ (s : State) (n : Port) (slot : SlotPoint), s.u Obj.HEALTH.BOOT_STATE ≠ 3 → exec (.commitPoint n slot) s = .next (s.takeOffer n slot)) ∧
  (∀ (s : State) (n : Port) (k : Int), s.u (Obj.SCHEDULER.AXIS n) = 0 → s.withheld n = false →
    (s.u (Obj.SCHEDULER.ENABLE n) = 0 ∨ (s.u (Obj.SHOT_ENTRY.KIND n (s.entryAt n)) = 0 ∧ s.calHolds n = false)) →
    s.slotPoint n (.time k) = s.advanceTable n) ∧
  (∀ (s : State) (n : Port) (i : SlotInfo), s.u (Obj.SHOT_ENTRY.KIND n (s.entryAt n)) ≠ 0 → s.refusal n i.launchAt = 0 →
    ∃ x : Shot, (s.decideSlot n i).ports[n].shots = s.ports[n].shots ++ [x] ∧ x.launchAt = i.launchAt ∧ x.entry = s.entryAt n ∧
      x.seq = nextSeq s n ∧ x.epochStep = s.ports[n].stepped ∧ x.launched = false ∧ (s.decideSlot n i).regs = s.regs) ∧
  (∀ (s : State) (n : Port) (i : SlotInfo) (c : Nat), s.u (Obj.SHOT_ENTRY.KIND n (s.entryAt n)) ≠ 0 → s.refusal n i.launchAt = c →
    c ≠ 0 → c ≠ 6 → s.calHolds n = false → s.u (causeCounter n c) + 1 < 2 ^ 32 →
    ∃ t : State, s.decideSlot n i = t ∧ t.u (causeCounter n c) = s.u (causeCounter n c) + 1 ∧ t.ports[n].gap = true ∧
      t.ports[n].shots = s.ports[n].shots ∧ regsKept s t [causeCounter n c]) ∧
  (∀ (s : State) (n : Port) (l : Nat), s.refusal n l =
    if s.lsiHeld = false then 1 else if s.coasting = true then 2 else if s.calHolds n = true then 3
    else if s.claimBars n = true then 4 else if s.axisBars n = true then 5 else if l < s.clearAt n then 6 else 0)) ∧
  ((∀ (s : State) (n : Port) (x : Shot), s.ports[n].shots = [x] → x.loaded = false → x.winClosed = false → x.kind ≠ 2 →
    ∃ t : State, exec (.toneLoad n) s = .next t ∧ t.ports[n].shots = [{ x with loaded := true }] ∧
      t.u (Obj.PORT_STATUS.STEP n) = (x.stepY * 16 + x.stepX) % 256) ∧
  (∀ (s : State) (n : Port) (x : Shot), s.ports[n].shots = [x] → x.loaded = true → x.gateOn = false → x.cut = false → x.dark = false →
    exec (.gateAssert n) s = .next (s.modPort n (fun q => { q with shots := [{ x with gateOn := true }], gateHigh := true }))) ∧
  (∀ (s : State) (n : Port) (x : Shot) (k : Nat), s.ports[n].shots = [x] → x.loaded = true → x.launched = false → x.cal = false →
    s.u (Obj.SCHEDULER.LAUNCHED n) + 1 < 2 ^ 32 → k = clipCount (launchCodes s x) → s.u (Obj.PORT_STATUS.CLIPS n) + k < 2 ^ 32 →
    ∃ (t : State) (y : Shot), exec (.launch n) s = .next t ∧ t.ports[n].shots = [y] ∧ y.launched = true ∧ y.seq = x.seq ∧
      y.launchAt = x.launchAt ∧ y.gap = s.ports[n].gap ∧ y.gainChange = gainChanged s.ports[n] x ∧ t.ports[n].gap = false ∧
      t.u (Obj.SCHEDULER.SEQ n) = x.seq.toNat ∧ t.u (Obj.SCHEDULER.LAUNCHED n) = s.u (Obj.SCHEDULER.LAUNCHED n) + 1 ∧
      t.ports[n].clearAt = some x.clear ∧ t.ports[n].dac = some (launchRun s x) ∧
      t.u (Obj.PORT_STATUS.CLIPS n) = s.u (Obj.PORT_STATUS.CLIPS n) + k ∧
      (0 < k → t.bit (Obj.PORT_STATUS.FLAGS n) Bit.PORT_STATUS.FLAGS.CLIP = true) ∧
      (k = 0 → t.u (Obj.PORT_STATUS.FLAGS n) = s.u (Obj.PORT_STATUS.FLAGS n)) ∧
      regsKept s t [Obj.SCHEDULER.SEQ n, Obj.SCHEDULER.LAUNCHED n, Obj.PORT_STATUS.GAIN_CHANGES n, Obj.PORT_STATUS.CLIPS n,
        Obj.PORT_STATUS.FLAGS n]) ∧
  (∀ (s : State) (n : Port) (x : Shot) (a b : List RxRaw), s.ports[n].shots = [x] → x.launched = true → x.winOpen = false →
    ∃ (t : State) (y : Shot), exec (.recordWindowOpen n a b) s = .next t ∧ t = s.modPort n (fun q => { q with shots := [y] }) ∧
      y.winOpen = true ∧ y.recX = rxRecord s n x 0 a ∧ y.recY = rxRecord s n x 1 b ∧ y.launched = true ∧ y.winClosed = x.winClosed ∧
      (x.kind ≠ 2 → x.inputs.testBit 0 = true → y.recX.length = min x.winLen a.length) ∧ (x.inputs.testBit 0 = false → y.recX = [])) ∧
  (∀ (s : State) (n : Port) (x : Shot), s.ports[n].shots = [x] → x.launched = true → x.gateOff = false → x.dataDone = false →
    exec (.gateRelease n) s = .next (s.modPort n (fun q => { q with shots := [{ x with gateOff := true }], gateHigh := false }))))

/-- R57, R59, R90, R91: a MON edge within MON_WINDOW of L gives the header its stamp, less MON_DELAY, and MON_LAT the time from L; one outside
is ignored; a window without an edge gives the header L with fine field 0, and STAMP_MISS counts. R53 to R56: release of a held channel cuts every port's launch and bars shots; both channels held again for 100 ms let them resume; a
disagreement latches until both have been found released and then held. -/
def Obligations.MonAndInterlock : Prop :=
  ((∀ (s : State) (n : Port) (ch : Fin 21) (x : Shot) (r : List Shot) (stamp : Nat), ch.val = n.val → stampsFine s ch stamp →
    s.ports[n].shots = x :: r → x.launched = true → x.stamp = none →
    x.cal = false → s.bit (Obj.PORT_STATUS.FLAGS n) Bit.PORT_STATUS.FLAGS.MON_LOST = false →
    x.launchAt * 256 ≤ stamp → stamp ≤ (x.launchAt + x.monWindow) * 256 →
    ∃ u : State, exec (.monStamp n stamp) s = .next (u.stamped n x) ∧
      u.ports[n].shots = { x with stamp := some ((stamp : Int) - freeRound (s.i (Obj.LAUNCH.MON_DELAY n) * 512) 625).toNat } :: r ∧
      u.i (Obj.PORT_STATUS.MON_LAT n) = toSigned 32 (ofSigned 32 (psOfFine ((stamp : Int) - x.launchAt * 256))) ∧
      u.ports[n].missRun = 0 ∧ u.pipes = s.pipes ∧ u.mem = s.mem ∧ regsKept s u (Obj.PORT_STATUS.MON_LAT n :: edgeRegs ch)) ∧
  (∀ (s : State) (n : Port) (ch : Fin 21) (stamp : Nat), ch.val = n.val → stampsFine s ch stamp →
    (∀ x ∈ s.ports[n].shots, x.launched = true → x.stamp = none →
      stamp < x.launchAt * 256 ∨ (x.launchAt + x.monWindow) * 256 < stamp) →
    exec (.monStamp n stamp) s = .next (edged s ch stamp)) ∧
  (∀ (s : State) (n : Port) (x : Shot) (r : List Shot), s.ports[n].shots = x :: r → x.launched = true → x.stamp = none → x.cal = false →
    (∀ y ∈ r, y.launched = true → y.stamp = none → x.monEnd ≤ y.monEnd) → s.ports[n].missRun < 15 → s.u (Obj.SCHEDULER.STAMP_MISS n) + 1 < 2 ^ 32 →
    ∃ u : State, exec (.stampMiss n) s = .next (u.stamped n x) ∧
      u.ports[n].shots = { x with stamp := some (x.launchAt * 256), miss := true } :: r ∧
      u.u (Obj.SCHEDULER.STAMP_MISS n) = s.u (Obj.SCHEDULER.STAMP_MISS n) + 1 ∧
      u.ports[n].missRun = s.ports[n].missRun + 1 ∧ u.pipes = s.pipes ∧ u.mem = s.mem ∧ regsKept s u [Obj.SCHEDULER.STAMP_MISS n])) ∧
  ((∀ (s : State) (ch : Fin 2), s.lsi.a = true → s.lsi.b = true →
    ∃ u : State, exec (.lsiRelease ch) s = .next (overAll (u.log { cls := 1, sub := 12 }) State.cutPort) ∧ u.lsiHeld = false ∧
      u = { s with lsi := u.lsi } ∧ (u.lsi.a = true ↔ ch = 1) ∧ (u.lsi.b = true ↔ ch = 0)) ∧
  (∀ (s : State) (n : Port), (s.cutPort n).ports[n].gateHigh = false ∧ (s.cutPort n).ports[n].dac = none ∧
    (∀ x ∈ (s.cutPort n).ports[n].shots, x.launched = false → x.cut = true) ∧ regsKept s (s.cutPort n) [Obj.SCHEDULER.LAUNCH_CUT n]) ∧
  (∀ s : State, ∃ t : State, exec (.lsiHold 0) s = .next t ∧ t = { s with lsi := t.lsi } ∧ t.lsi.a = true ∧ t.lsi.b = s.lsi.b ∧
    (t.lsi.discord = true ↔ s.lsi.discord = true ∧ ¬ (s.lsi.b = true ∧ s.lsi.sawReleased = true))) ∧
  (∀ s : State, ∃ t : State, exec (.lsiHold 1) s = .next t ∧ t = { s with lsi := t.lsi } ∧ t.lsi.b = true ∧ t.lsi.a = s.lsi.a) ∧
  (∀ s : State, s.lsi.a = true → s.lsi.b = true → s.lsi.discord = false → s.lsi.resumed = false →
    exec .lsiResume s = .next (({ s with lsi := { s.lsi with resumed := true } }).log { cls := 2, sub := 12 })) ∧
  (∀ s : State, s.lsi.a ≠ s.lsi.b →
    exec .lsiDiscord s = .next { s with lsi := { s.lsi with
      discord := true, sawReleased := s.lsi.discord && s.lsi.sawReleased, resumed := false } }) ∧
  (∀ (s : State) (n : Port) (l : Nat), s.lsi.discord = true → s.refusal n l = 1))

/-! ## Fibre ports (spec/02) -/

/-- R57, R70, R74, R77, R96: at the close of a window the peaks are shown, overrange samples are counted and flagged, at step 0 as saturation
too, and the shot's window is closed; a lane that gave one code over the window sets its bit of STUCK_LANES, one that gave two clears it. -/
def Obligations.RecordWindowCloses : Prop :=
  (∀ (s : State) (n : Port) (x : Shot) (raman : Option RamanRecord), s.ports[n].shots = [x] → x.winOpen = true → x.winClosed = false →
    x.kind = 1 → x.cal = false → x.auto = false → x.trimAfter = false → x.dataDone = false → s.clk.switchDue = false →
    x.inputs.testBit 0 = true → x.inputs.testBit 1 = true →
    laneBits x.recX x.recY laneStuck = 0 → s.u (Obj.PORT_STATUS.STUCK_LANES n) = 0 →
    s.bit (Obj.PORT_STATUS.FLAGS n) Bit.PORT_STATUS.FLAGS.STUCK_X = false → s.bit (Obj.PORT_STATUS.FLAGS n) Bit.PORT_STATUS.FLAGS.STUCK_Y = false →
    overCount x.recX ≠ 0 → overCount x.recY = 0 → s.u (Obj.PORT_STATUS.OVR_X n) + overCount x.recX < 2 ^ 32 →
    rxPeak x.recX (s.u (Obj.RECEIVE.AGC_SKIP n)) < 2 ^ 16 → rxPeak x.recY (s.u (Obj.RECEIVE.AGC_SKIP n)) < 2 ^ 16 →
    ∃ t : State, exec (.recordWindowClose n raman) s = .next t ∧ t.ports[n].shots = [{ x with winClosed := true }] ∧
      t.u (Obj.PORT_STATUS.PEAK_X n) = rxPeak x.recX (s.u (Obj.RECEIVE.AGC_SKIP n)) ∧
      t.u (Obj.PORT_STATUS.PEAK_Y n) = rxPeak x.recY (s.u (Obj.RECEIVE.AGC_SKIP n)) ∧
      t.u (Obj.PORT_STATUS.OVR_X n) = s.u (Obj.PORT_STATUS.OVR_X n) + overCount x.recX ∧
      t.bit (Obj.PORT_STATUS.FLAGS n) Bit.PORT_STATUS.FLAGS.OVR_X = true ∧
      (x.stepX = 0 → t.bit (Obj.PORT_STATUS.FLAGS n) Bit.PORT_STATUS.FLAGS.SAT_X = true) ∧
      t.bit (Obj.PORT_STATUS.FLAGS n) Bit.PORT_STATUS.FLAGS.OVR_Y = s.bit (Obj.PORT_STATUS.FLAGS n) Bit.PORT_STATUS.FLAGS.OVR_Y ∧
      t.mem = s.mem ∧ t.pipes = s.pipes ∧
      regsKept s t [Obj.PORT_STATUS.PEAK_X n, Obj.PORT_STATUS.PEAK_Y n, Obj.PORT_STATUS.OVR_X n, Obj.PORT_STATUS.FLAGS n,
        Obj.PORT_STATUS.STUCK_LANES n]) ∧
  (∀ (s : State) (n : Port) (x : Shot), (s.stuckLanes n x).u (Obj.PORT_STATUS.STUCK_LANES n) =
    ((BitVec.ofNat 16 (s.u (Obj.PORT_STATUS.STUCK_LANES n)) ||| laneBits x.recX x.recY laneStuck) &&&
      ~~~(laneBits x.recX x.recY laneMoves)).toNat)

/-- R72: auto-gain changes the step by at most one per shot and input, and a peak between a quarter of AGC_HI and AGC_HI leaves it unchanged;
a step within AGC_MIN and AGC_MAX stays there. -/
def Obligations.AutoGainMovesByAtMostOne : Prop :=
  ∀ (s : State) (n : Port) (a : AgcInput) (now : Nat), a.step = some now →
    s.u (Obj.RECEIVE.AGC_MIN n) ≤ now → now ≤ s.u (Obj.RECEIVE.AGC_MAX n) →
    (agcStep s n a).1 ≤ now + 1 ∧ now ≤ (agcStep s n a).1 + 1 ∧
    s.u (Obj.RECEIVE.AGC_MIN n) ≤ (agcStep s n a).1 ∧ (agcStep s n a).1 ≤ s.u (Obj.RECEIVE.AGC_MAX n) ∧
    (agcStep s n a).2.step = some (agcStep s n a).1 ∧
    ((∀ r ∈ a.peaks, r.ovr = false ∧ r.peak < s.u (Obj.RECEIVE.AGC_HI n) ∧ s.u (Obj.RECEIVE.AGC_HI n) ≤ 4 * r.peak) →
      (agcStep s n a).1 = now) ∧
    (∀ r : PeakRec, a.peaks = [r] → r.step = now → r.ovr = true → (agcStep s n a).1 = max (now - 1) (s.u (Obj.RECEIVE.AGC_MIN n)) ∧
      (agcStep s n a).2.peaks = [])

/-- R85, R96: a tone set whose figures are computed waits for its commit point; the common mode and the output check set or clear their flags. R92 to R94: a word queued on a free FCTL starts at once, where the port's outputs are released; a scheduled word starts first of those scheduled, not before its epoch, and is late when it starts more
than one FCK period after it; the end of a frame counts SENT. R66, R87, R92: the levels of the launch DAC, GATE and FCTL. -/
def Obligations.PortChecksAndFctl : Prop :=
  ((∀ (s : State) (n : Port) (k : Fin 16), s.isApplying (0x3010 + 0x100 * n + k) = true → s.ports[n].crestDone = [] →
    exec (.crestComputationEnd n k) s = .next (s.modPort n (fun q =>
      { q with crestDone := [(k.val, crestResult (execCrestComputationEnd.stagedSet s n k) n k)] }))) ∧
  (∀ (s : State) (n : Port) (mv : BitVec 16),
    s.bit (Obj.PORT_STATUS.FLAGS n) Bit.PORT_STATUS.FLAGS.CM_X = true →
    ∃ t : State, exec (.commonModeFault n false true mv) s = .next t ∧ t.u (Obj.PORT_STATUS.CM_X n) = mv.toNat ∧
      onlyRegs s t [Obj.PORT_STATUS.CM_X n]) ∧
  (∀ (s : State) (n : Port) (y out : Bool) (mv : BitVec 16),
    ∃ u : State, exec (.commonModeFault n y out mv) s = .next (u.logFlag (Obj.PORT_STATUS.FLAGS n)
        (if y then Bit.PORT_STATUS.FLAGS.CM_Y else Bit.PORT_STATUS.FLAGS.CM_X) out 1 n) ∧
      u.u (if y then Obj.PORT_STATUS.CM_Y n else Obj.PORT_STATUS.CM_X n) = mv.toNat ∧
      onlyRegs s u [if y then Obj.PORT_STATUS.CM_Y n else Obj.PORT_STATUS.CM_X n]) ∧
  (∀ (s : State) (n : Port) (o h : Bool), s.u (Obj.LAUNCH.TX_CHECK n) = 1 →
    exec (.txCheck n o h) s = .next ((s.logFlag (Obj.PORT_STATUS.FLAGS n) Bit.PORT_STATUS.FLAGS.TX_OPEN o 1 n).logFlag
      (Obj.PORT_STATUS.FLAGS n) Bit.PORT_STATUS.FLAGS.TX_SHORT h 1 n)) ∧
  (∀ (s : State) (n : Port) (o h : Bool), s.u (Obj.LAUNCH.TX_CHECK n) ≠ 1 → exec (.txCheck n o h) s = .next s)) ∧
  ((∀ (s : State) (n : Port) (w : BitVec 32), s.ports[n].live = true → s.ports[n].fctl.busy = none → s.ports[n].fctl.host = [] →
    s.ports[n].fctl.sched = [] →
    ∃ t : State, sendEff s n w = t ∧ t.ports[n].fctl.busy = some w ∧ t.ports[n].fctl.since = s.now ∧ t.ports[n].fctl.host = [] ∧
      t.out = s.out ++ [.fctl n (BitVec.ofNat 32 (w.toNat % 2 ^ s.u (Obj.FCTL.WORD_BITS n))) (s.u (Obj.FCTL.WORD_BITS n))] ∧
      t.u (Obj.FCTL.QUEUED n) = 0 ∧ regsKept s t [Obj.FCTL.QUEUED n]) ∧
  (∀ (s : State) (n : Port) (w : BitVec 32), s.ports[n].live = false ∨ s.ports[n].fctl.busy.isSome = true → s.ports[n].fctl.host.length < 16 →
    ∃ t : State, sendEff s n w = t ∧ t.ports[n].fctl.host = s.ports[n].fctl.host ++ [w] ∧ t.ports[n].fctl.busy = s.ports[n].fctl.busy ∧
      t.out = s.out ∧ t.u (Obj.FCTL.QUEUED n) = s.ports[n].fctl.host.length + 1 ∧ regsKept s t [Obj.FCTL.QUEUED n]) ∧
  (∀ (s : State) (n : Port) (b : BitVec 32), s.ports[n].fctl.busy = some b → s.ports[n].fctl.busyGroup = none →
    s.ports[n].fctl.lateCommit = false → s.ports[n].fctl.host = [] → s.u (Obj.FCTL.SENT n) + 1 < 2 ^ 32 →
    ∃ t : State, exec (.fctlWordEnd n) s = .next t ∧ t.ports[n].fctl.busy = none ∧ t.u (Obj.FCTL.SENT n) = s.u (Obj.FCTL.SENT n) + 1 ∧
      t.out = s.out ∧ regsKept s t [Obj.FCTL.SENT n, Obj.FCTL.QUEUED n]) ∧
  (∀ (s : State) (n : Port) (w : SchedWord) (r : List SchedWord), s.ports[n].fctl.busy = none → s.ports[n].fctl.sched = w :: r →
    (s.now < w.epoch → exec (.scheduledWordStart n) s = .next s) ∧
    (w.epoch ≤ s.now → ∃ t : State, exec (.scheduledWordStart n) s = .next t ∧ t.ports[n].fctl.busy = some w.value ∧
      t.ports[n].fctl.sched = r ∧
      t.out = s.out ++ [.fctl n (BitVec.ofNat 32 (w.value.toNat % 2 ^ s.u (Obj.FCTL.WORD_BITS n))) (s.u (Obj.FCTL.WORD_BITS n))] ∧
      (s.now ≤ w.epoch + 64 * max 1 (s.u (Obj.FCTL.FCK_DIV n)) → t.regs = s.regs) ∧
      (w.epoch + 64 * max 1 (s.u (Obj.FCTL.FCK_DIV n)) < s.now → s.u (Obj.FCTL.LATE n) + 1 < 2 ^ 32 →
        t.u (Obj.FCTL.LATE n) = s.u (Obj.FCTL.LATE n) + 1) ∧
      regsKept s t [Obj.FCTL.LATE n, Obj.FCTL.LATE_MAX n]))) ∧
  ((∀ n : Port, gatePin State.reset n = false ∧ dacCode State.reset n = 0 ∧ State.reset.ports[n].live = false) ∧
  (∀ (s : State) (n : Port), s.ports[n].live = false → fckPin s n = false ∧ fdaPin s n = false ∧ flePin s n = false) ∧
  (∀ (s : State) (n : Port), s.ports[n].live = true → s.ports[n].fctl.busy = none →
    fckPin s n = (s.u (Obj.FCTL.FCK_POL n) == 1) ∧ flePin s n = (s.u (Obj.FCTL.MODE n) == 1)) ∧
  (∀ (s : State) (n : Port), (∀ x ∈ s.ports[n].shots, x.loaded = true → x.launched = true) → s.ports[n].dac = none → dacCode s n = 0) ∧
  (∀ (s : State) (n : Port) (r : DacRun) (i : Nat) (h : i < r.codes.length), (∀ x ∈ s.ports[n].shots, x.loaded = true → x.launched = true) →
    s.ports[n].dac = some r → (s.now : Int) = r.start + i → dacCode s n = r.codes[i]) ∧
  (∀ (s : State) (n : Port) (x : Shot) (i : Nat) (h : i < (launchRun s x).codes.length), s.ports[n].shots = [x] → x.loaded = true →
    x.launched = false → (s.now : Int) = (launchRun s x).start + i → dacCode s n = (launchRun s x).codes[i]))

/-! ## The front pipeline (spec/03) -/

/-- R118, R119, R323: a state word that arrives before its point is formed waits for it, with its poison mark, which counts; one that comes after
is discarded. R121 to R137: a grid point of the shot in hand is recorded, and the points it completes are queued; only the port's pipeline and its counters
change. -/
def Obligations.StateWordsAndGridPoints : Prop :=
  ((∀ (s : State) (n : Port) (set : Fin 16) (p : Nat), s.pipes[n].grid = [] → flipAt s.flips (branchAddr n set p) = none →
    s.pipes[n].bad.contains (wordKey set p) = false →
    exec (.stateWordArrival n set p false) s = .next (s.modPipe n (fun q =>
      { q with arrived := (wordKey set p, false) :: q.arrived.filter (fun e => e.1 != wordKey set p) }))) ∧
  (∀ (s : State) (n : Port) (set : Fin 16) (p : Nat) (x : Shot) (r : GridRec), dasShot s n = some x → x.toneSet = set.val →
    r ∈ s.pipes[n].grid → r.p = p → flipAt s.flips (branchAddr n set p) = none → s.pipes[n].bad.contains (wordKey set p) = false →
    exec (.stateWordArrival n set p false) s = .next s) ∧
  (∀ (s : State) (n : Port) (set : Fin 16) (p : Nat), s.pipes[n].grid = [] → flipAt s.flips (branchAddr n set p) = none →
    s.pipes[n].bad.contains (wordKey set p) = true → s.u Obj.MEMORY.POISON_SEEN + 1 < 2 ^ 32 →
    ∃ t : State, exec (.stateWordArrival n set p false) s = .next t ∧ (wordKey set p, true) ∈ t.pipes[n].arrived ∧
      t.u Obj.MEMORY.POISON_SEEN = s.u Obj.MEMORY.POISON_SEEN + 1 ∧ onlyRegs s { t with pipes := s.pipes } [Obj.MEMORY.POISON_SEEN]) ∧
  (∀ (s : State) (n : Port) (set : Fin 16) (p : Nat), s.pipes[n].grid = [] → s.u Obj.MEMORY.POISON_SEEN + 1 < 2 ^ 32 →
    ∃ t : State, exec (.stateWordArrival n set p true) s = .next t ∧ (wordKey set p, true) ∈ t.pipes[n].arrived ∧
      t.u Obj.MEMORY.POISON_SEEN = s.u Obj.MEMORY.POISON_SEEN + 1 ∧ onlyRegs s { t with pipes := s.pipes } [Obj.MEMORY.POISON_SEEN])) ∧
  (∀ (s : State) (n : Port) (p : Nat) (x : Shot), dasShot s n = some x → x.pFirst ≤ p → p ≤ x.pLast →
    recAt s.pipes[n].grid p = none →
    ∃ t : State, exec (.gridPoint n p) s = .next t ∧
      t.pipes[n].grid = s.pipes[n].grid ++ [(gridRecord s n x p).1] ∧
      (∀ m : Port, m ≠ n → t.pipes[m] = s.pipes[m]) ∧ t.ports = s.ports ∧ t.mem = s.mem ∧ t.out = s.out ∧ t.stalls = s.stalls ∧
      regsKept s t [Obj.PIPE_STATUS.FADED_POINTS n, Obj.PIPE_STATUS.SUSPECT_POINTS n, Obj.PIPE_STATUS.STATE_LATE n,
        Obj.PIPE_STATUS.STATE_POISON n, Obj.PIPE_STATUS.AMBIG_POINTS n, Obj.PIPE_STATUS.FLAGS n, Obj.PIPE_STATUS.QUEUE_PEAK n])

/-- R115, R118, R119, R128, R132 to R135: when a PHASE_RATE word is a measurement and what quality it carries at most: none of a cut or invalid
shot, without its state word, without PREV_VALID or beyond the field; never more than the gauge quality and the previous one, and never below
QMIN; and its value is then the prediction plus the residual. -/
def Obligations.PhaseRateQuality : Prop :=
  ∀ (x : Shot) (r a b : GridRec) (free : BitVec 24), x.cfg.outMode = 0 → a.q ≤ 255 → b.q ≤ 255 →
    x.cfg.qcapGain ≤ 255 → x.cfg.qcapAmbig ≤ 255 → x.cfg.qcapRelearn ≤ 255 → x.cfg.qcapGain ≠ 0 → x.cfg.qcapAmbig ≠ 0 → x.cfg.qcapRelearn ≠ 0 →
    (forced0 x r = true → (phasePoint x r (some a) (some b) free).word.toNat % 256 = 0) ∧
    (wPrevValid r.word = false → (phasePoint x r (some a) (some b) free).word.toNat % 256 = 0) ∧
    ((phasePoint x r none (some b) free).word.toNat % 256 = 0 ∧ (phasePoint x r (some a) none free).word.toNat % 256 = 0 ∧
      wPrevValid (phasePoint x r none (some b) free).state = false) ∧
    (phasePoint x r (some a) (some b) free).word.toNat % 256 ≤ min (min a.q b.q) (wQ r.word).toNat ∧
    (min a.q b.q < x.cfg.qmin → (phasePoint x r (some a) (some b) free).word.toNat % 256 = 0) ∧
    (x.cfg.unwrapOrder = 0 → ((phasePoint x r (some a) (some b) free).word.extractLsb' 8 24).toInt =
      (if (phasePoint x r (some a) (some b) free).word.toNat % 256 = 0 then 0 else
        wrap20 ((gaugePhase x a.cOld b.cOld).toInt - (wGauge r.word).toInt)))

/-- R144: a point word is admitted only when at least 12 words of the queue stay free after it; the first one refused ends the shot's points.
R442: with the points mapped in reverse it goes in front of the words before it. R138, R143, R147: the end of a shot closes its delivery with
header and trailer. R115: where the shot is LAUNCH_CUT its words have quality 0, PREV_VALID is clear in its set and no estimate moves. R143, R342:
the drain takes words from the front of the queue, and none while the crossing to the memory refuses them. -/
def Obligations.QueueAndShotEnd : Prop :=
  ((∀ (p : PipePart) (pt : Nat) (w : BitVec 32) (d : Delivery), p.sums.overrun = none → p.queue = [d] → d.closed = false →
    p.queued + 1 + 12 ≤ 262144 → d.rev = none →
    p.offerWord pt w = { p with queue := [{ d with body := d.body ++ [w], validEnd := pt + 1, left := d.left + 1 }], queued := p.queued + 1 }) ∧
  (∀ (p : PipePart) (pt m : Nat) (w : BitVec 32) (d : Delivery), p.sums.overrun = none → p.queue = [d] → d.closed = false →
    p.queued + 1 + 12 ≤ 262144 → d.rev = some m →
    p.offerWord pt w = { p with queue := [{ d with body := w :: d.body, first := m - 1 - pt, left := d.left + 1 }], queued := p.queued + 1 }) ∧
  (∀ (p : PipePart) (pt : Nat) (w : BitVec 32), p.sums.overrun = none → 262144 < p.queued + 1 + 12 →
    p.offerWord pt w = { p with sums := { p.sums with overrun := some pt } }) ∧
  (∀ (p : PipePart) (pt k : Nat) (w : BitVec 32), p.sums.overrun = some k → p.offerWord pt w = p) ∧
  (∀ (p : PipePart) (pt : Nat) (w : BitVec 32), p.queued ≤ 262144 → (p.offerWord pt w).queued ≤ 262144)) ∧
  ((∀ (s : State) (n : Port) (x : Shot) (d : Delivery) (g : GridRec), s.ports[n].shots = [x] → x.winClosed = true → x.kind = 1 → x.cal = false →
    x.dataDone = false → s.pipes[n].grid = [g] → s.pipes[n].queue = [d] → d.closed = false →
    s.pipes[n].sums.overrun = none → d.rev = none → x.pFirst ≤ x.pLast → x.pLast + 1 < 2 ^ 32 →
    ∃ (t : State) (e : Delivery), exec (.dasShotEnd n) s = .next t ∧ t.pipes[n].queue = [e] ∧ e.closed = true ∧ e.header = header n x ∧
      e.left = d.left + 4 ∧ fromLe (slice e.trailer 0 4) = x.seq.toNat ∧ fromLe (slice e.trailer 8 4) = x.pLast + 1 ∧
      (BitVec.ofNat 8 (fromLe (slice e.trailer 14 1))).getLsbD 1 = (x.cut || x.invalid) ∧
      (BitVec.ofNat 8 (fromLe (slice e.trailer 14 1))).getLsbD 0 = shotDark x s.pipes[n].sums ∧
      (x.cut = false → x.invalid = false → e.body = d.body) ∧ t.pipes[n].grid = [] ∧ t.mem = s.mem) ∧
  (∀ (s : State) (n : Port) (x : Shot) (d : Delivery) (g : GridRec), s.ports[n].shots = [x] → x.winClosed = true → x.kind = 1 → x.cal = false →
    x.dataDone = false → x.cut = true → s.pipes[n].grid = [g] → s.pipes[n].queue = [d] → d.closed = false →
    s.pipes[n].sums.overrun = none → d.rev = none → shotDark x s.pipes[n].sums = false →
    s.bit (Obj.PIPE_STATUS.FLAGS n) Bit.PIPE_STATUS.FLAGS.DARK = false → x.stateGen = s.pipes[n].gen →
    ∃ (t : State) (e : Delivery), exec (.dasShotEnd n) s = .next t ∧ t.pipes[n].queue = [e] ∧ e.body.length = d.body.length ∧
      (x.cfg.outMode ≠ 3 → ∀ w ∈ e.body, w.toNat % 256 = 0) ∧
      t.pipes[n].noise = s.pipes[n].noise ∧ t.pipes[n].cells = s.pipes[n].cells ∧
      (∀ w ∈ t.pipes[n].words, w.1 / 2 ^ 22 = x.toneSet → wPrevValid w.2 = false) ∧ t.mem = s.mem ∧ t.out = s.out ∧
      regsKept s t ([Obj.PIPE_STATUS.LATENCY n, Obj.PIPE_STATUS.FLAGS n, Obj.PIPE_STATUS.QUEUE_PEAK n] ++
        (s.pipes[n].sums.share.map (·.1) ++ List.range 16).flatMap (branchRegs n))) ∧
  (∀ (s : State) (n : Port) (x : Shot), firstShot s n endingShot = some x →
    ∃ t : State, exec (.dasShotEnd n) s = .next t ∧ t.pipes[n].grid = [] ∧ t.pipes[n].sums = {} ∧
      t.pipes[n].queue = (s.closeShot n x (shotDark x s.pipes[n].sums)).pipes[n].queue ∧
      (∀ m : Port, m ≠ n → t.pipes[m] = s.pipes[m] ∧ t.ports[m] = s.ports[m]) ∧ t.mem = s.mem ∧ t.stalls = s.stalls) ∧
  (∀ (s : State) (n : Port), firstShot s n endingShot = none → exec (.dasShotEnd n) s = .next s) ∧
  (∀ (s : State) (n : Port) (k : Nat), refuses s 2 = false →
    ∃ t : State, exec (.queueDrain n k) s = .next t ∧
      t.pipes[n].queue = drain (min k (s.pipes[n].queue.map (·.left)).sum) s.pipes[n].queue ∧
      t.pipes[n].queued = s.pipes[n].queued - min k (s.pipes[n].queue.map (·.left)).sum ∧
      (∀ m : Port, m ≠ n → t.pipes[m] = s.pipes[m]) ∧ t.mem = s.mem ∧ t.stalls = s.stalls ∧ t.ports = s.ports) ∧
  (∀ (s : State) (n : Port) (k : Nat), refuses s 2 = true → s.twinned n = false →
    ∃ t : State, exec (.queueDrain n k) s = .next t ∧ t.pipes[n].queue = s.pipes[n].queue ∧ t.pipes[n].queued = s.pipes[n].queued ∧
      t.regs = s.regs ∧ t.mem = s.mem ∧ t.stalls = s.stalls) ∧
  (∀ (s : State) (n : Port) (k : Nat) (d : Delivery), s.pipes[n].queue = [d] → k < d.left → refuses s 2 = false → s.twinned n = false →
    exec (.queueDrain n k) s = .next (s.modPipe n (fun p => { p with queue := [{ d with left := d.left - k }], queued := p.queued - k }))) ∧
  (∀ (s : State) (n : Port) (k : Nat) (d : Delivery), s.pipes[n].queue = [d] → d.closed = true → d.unheaded = false → 0 < d.left → d.left ≤ k →
    refuses s 2 = false → s.twinned n = false →
    exec (.queueDrain n k) s = .next ((s.modPipe n (fun p => { p with queue := [{ d with left := d.left - d.left }], queued := p.queued - d.left })).fillSamples n
      { d with left := d.left - d.left })))

/-! ## Raman and Brillouin (spec/04) -/

/-- R157, R158: an average that has N_AVG shots goes to the computation and the set gathers the next one; while the last computation still runs it
is discarded and counted. R153, R155, R157, R159: the record of a DTS shot enters its set's sums by position index when its window closes; one that
was cut or invalid is counted as dropped and not added, and one committed before a restart of its set is no shot of the new average. -/
def Obligations.DtsShotsAndAverages : Prop :=
  ((∀ (s : State) (n : Port) (a : Fin 8), s.u (Obj.AVG_SET.N_AVG n a) ≤ (setOf s n a).cur.shots → (setOf s n a).computing = none →
    s.flips = [] → (setOf s n a).cur.bad = [] →
    ∃ t : State, exec (.averageComplete n a) s = .next t ∧ (setOf t n a).cur = {} ∧
      (setOf t n a).computing = some { (setOf s n a).cur with epoch := s.now } ∧ t.raman[n].ready = s.raman[n].ready ++ [a] ∧
      t.u (Obj.AVG_SET.PROGRESS n a) = 0 ∧ t.mem = s.mem ∧ t.pipes = s.pipes ∧
      regsKept s t [Obj.AVG_SET.PROGRESS n a, Obj.AVG_SET.DONE n a, Obj.RAMAN_STATUS.NOISE_A n]) ∧
  (∀ (s : State) (n : Port) (a : Fin 8) (c : Average), s.u (Obj.AVG_SET.N_AVG n a) ≤ (setOf s n a).cur.shots →
    (setOf s n a).computing = some c → s.u (Obj.AVG_SET.DROPPED n a) + 1 < 2 ^ 32 →
    ∃ t : State, exec (.averageComplete n a) s = .next t ∧ (setOf t n a).cur = {} ∧ (setOf t n a).computing = some c ∧
      t.u (Obj.AVG_SET.DROPPED n a) = s.u (Obj.AVG_SET.DROPPED n a) + 1 ∧
      regsKept s t [Obj.AVG_SET.PROGRESS n a, Obj.AVG_SET.DROPPED n a])) ∧
  ((∀ (s : State) (n : Port) (a : Fin 8) (x : Shot) (r : RamanRecord), x.aux = a.val → x.cut = false → x.invalid = false →
    x.avgGen = (setOf s n a).gen → s.flips = [] → (setOf s n a).cur.bad = [] → (setOf s n a).cur.shots < s.u (Obj.AVG_SET.N_AVG n a) → s.u (Obj.AVG_SET.N_AVG n a) < 2 ^ 32 →
    (setOf (s.addDts n x r) n a).cur.shots = (setOf s n a).cur.shots + 1 ∧
    (setOf (s.addDts n x r) n a).cur.stokes = addInts (setOf s n a).cur.stokes (byPosition (index0 s n x) (ramanSamples x r.stokes)) ∧
    (setOf (s.addDts n x r) n a).cur.anti = addInts (setOf s n a).cur.anti (byPosition (index0 s n x) (ramanSamples x r.anti)) ∧
    (s.addDts n x r).u (Obj.AVG_SET.PROGRESS n a) = (setOf s n a).cur.shots + 1 ∧
    (∀ b : Fin 8, b ≠ a → setOf (s.addDts n x r) n b = setOf s n b)) ∧
  (∀ (s : State) (n : Port) (a : Fin 8) (x : Shot) (r : RamanRecord), x.aux = a.val → (x.cut = true ∨ x.invalid = true) →
    s.u (Obj.AVG_SET.DROPPED n a) + 1 < 2 ^ 32 →
    (s.addDts n x r).raman = s.raman ∧ (s.addDts n x r).u (Obj.AVG_SET.DROPPED n a) = s.u (Obj.AVG_SET.DROPPED n a) + 1) ∧
  (∀ (s : State) (n : Port) (a : Fin 8) (x : Shot) (r : RamanRecord), x.aux = a.val → x.cut = false → x.invalid = false →
    x.avgGen ≠ (setOf s n a).gen → (s.addDts n x r).raman = s.raman ∧
    (s.addDts n x r).u (Obj.AVG_SET.DROPPED n a) = s.u (Obj.AVG_SET.DROPPED n a)) ∧
  (∀ (s : State) (n : Port) (x : Shot) (r : RamanRecord), s.ports[n].shots = [x] → x.winOpen = true → x.winClosed = false → x.kind = 2 →
    x.cal = false → x.trimAfter = false → s.clk.switchDue = false →
    ∃ t : State, exec (.recordWindowClose n (some r)) s = .next t ∧ t.raman = (s.addDts n x r).raman ∧ t.regs = (s.addDts n x r).regs ∧
      (∀ z ∈ t.ports[n].shots, z = { x with winClosed := true, dataDone := true }) ∧ t.mem = s.mem))

/-- R160: the value of a profile word in TEMPERATURE mode; outside 0 K to 2,047 K value and quality are 0. -/
def Obligations.RamanTemperature : Prop :=
  (∀ (s : State) (n : Port) (lnr dist : Rat) (q : Nat), s.u (Obj.RAMAN.OUT_MODE n) = 0 →
    s.raman[n].lnc - lnr - s.raman[n].dalpha * dist ≠ 0 →
    0 ≤ f32Val (s.u (Obj.RAMAN.GAMMA n)) / (s.raman[n].lnc - lnr - s.raman[n].dalpha * dist) →
    f32Val (s.u (Obj.RAMAN.GAMMA n)) / (s.raman[n].lnc - lnr - s.raman[n].dalpha * dist) ≤ 2047 →
    profileWord s n lnr dist q = valueWord (roundEven (f32Val (s.u (Obj.RAMAN.GAMMA n)) /
      (s.raman[n].lnc - lnr - s.raman[n].dalpha * dist) * 4096)) q) ∧
  (∀ (s : State) (n : Port) (lnr dist : Rat) (q : Nat), s.u (Obj.RAMAN.OUT_MODE n) = 0 →
    (f32Val (s.u (Obj.RAMAN.GAMMA n)) / (s.raman[n].lnc - lnr - s.raman[n].dalpha * dist) < 0 ∨
      2047 < f32Val (s.u (Obj.RAMAN.GAMMA n)) / (s.raman[n].lnc - lnr - s.raman[n].dalpha * dist)) →
    profileWord s n lnr dist q = 0)

/-- R167: a finished profile enters the point queue whole, behind what waits there, and is counted. -/
def Obligations.ProfileDelivered : Prop :=
  ∀ (s : State) (n : Port) (a : Fin 8) (rest : List (Fin 8)) (v : Average) (d : DonePart), s.raman[n].ready = a :: rest →
    (setOf s n a).computing = some v → (setOf s n a).done = some d → s.u (Obj.RAMAN.DUAL_PORT n) = 0xFF →
    s.u (Obj.RAMAN.REF_MODE n) = 0 → s.pipes[n].queued + 8 + d.points.length + 12 ≤ 262144 → s.u (Obj.AVG_SET.PROFILES n a) + 1 < 2 ^ 32 →
    ∃ (t : State) (e : Delivery) (stamp : Stamp), exec (.profileDelivery n) s = .next (t.openSample n 2 a v.last.seq stamp) ∧
      t.pipes[n].queue = s.pipes[n].queue ++ [e] ∧ t.pipes[n].queued = s.pipes[n].queued + 8 + d.points.length + 4 ∧
      e.deliv = s.pipes[n].nextDeliv ∧ t.pipes[n].nextDeliv = s.pipes[n].nextDeliv + 1 ∧ e.kind = 2 ∧ e.closed = true ∧
      e.header = header n v.last ∧ e.body.length = d.points.length ∧ t.raman[n].ready = rest ∧ (setOf t n a).computing = none ∧
      t.u (Obj.AVG_SET.PROFILES n a) = s.u (Obj.AVG_SET.PROFILES n a) + 1 ∧ t.mem = s.mem ∧
      regsKept s t [Obj.AVG_SET.PROFILES n a, Obj.RAMAN_STATUS.LNC_USED n, Obj.RAMAN_STATUS.DALPHA_USED n, Obj.RAMAN_STATUS.FLAGS n,
        Obj.RAMAN_STATUS.HELD_RUN n, Obj.PIPE_STATUS.QUEUE_PEAK n]

/-- R169, R171, R172: a BRIL shot counts toward its group; one among the first DISCARD of the group adds nothing to memory; another one with one
bin adds its power, shifted with rounding half to even, to that bin's sum at the group's step and one to the step's count, and no other byte
changes. R174, R178: a release frees the buffer named. -/
def Obligations.BrillouinShotAdds : Prop :=
  (∀ (s : State) (n : Port) (x : Shot), s.ports[n].shots = [x] → x.winClosed = true → x.kind = 3 → x.cal = false →
    x.dataDone = false → x.sweepGen = s.bril[n].gen → s.bril[n].active = true → wordLate s n x = false →
    s.bril[n].shot < s.u (Obj.SWEEP_PROGRAM.DISCARD n s.bril[n].program) → s.bril[n].shot + 1 < perStep s n → s.bril[n].shot + 1 < 2 ^ 16 →
    ∃ t : State, exec (.brilShotAdd n) s = .next t ∧ t.mem = s.mem ∧ t.bril[n].shot = s.bril[n].shot + 1 ∧
      t.bril[n].group = s.bril[n].group ∧ t.u (Obj.BRIL_STATUS.SHOT_IN_STEP n) = s.bril[n].shot + 1 ∧
      regsKept s t [Obj.BRIL_STATUS.STEP n, Obj.BRIL_STATUS.SHOT_IN_STEP n]) ∧
  (∀ (s : State) (n : Port) (x : Shot) (power : Rat) (base k sum : Nat), s.ports[n].shots = [x] → x.winClosed = true → x.kind = 3 → x.cal = false →
    x.dataDone = false → x.cut = false → x.invalid = false → x.sweepGen = s.bril[n].gen → s.bril[n].active = true → s.bril[n].skip = false →
    wordLate s n x = false → s.u (Obj.SWEEP_PROGRAM.DISCARD n s.bril[n].program) ≤ s.bril[n].shot → s.bril[n].shot + 1 < perStep s n →
    base = bufferAddr s n (bufferOf s.bril[n]) → k = s.bril[n].group % steps s n → binPowers s n x = [power] →
    sum = fromLe (s.load (base + 32 + addedBytes (steps s n) + k * 4) 4) + (roundEven (power / 2 ^ s.u (Obj.BRILLOUIN.P_SHIFT n))).toNat →
    sum < 2 ^ 32 → fromLe (s.load (base + 32 + 2 * k) 2) + 1 < 2 ^ 16 → memoryGood s →
    sound s (base + 32 + addedBytes (steps s n) + k * 4) 4 → sound s (base + 32 + 2 * k) 2 →
    ∃ t : State, exec (.brilShotAdd n) s = .next t ∧ t.bril[n].shot = s.bril[n].shot + 1 ∧
      fromLe (t.load (base + 32 + addedBytes (steps s n) + k * 4) 4) = sum ∧
      fromLe (t.load (base + 32 + 2 * k) 2) = fromLe (s.load (base + 32 + 2 * k) 2) + 1 ∧
      (∀ b : Nat, (b < base + 32 + addedBytes (steps s n) + k * 4 ∨ base + 32 + addedBytes (steps s n) + k * 4 + 4 ≤ b) →
        (b < base + 32 + 2 * k ∨ base + 32 + 2 * k + 2 ≤ b) → Memory.read t.mem b = Memory.read s.mem b)) ∧
  (∀ (s : State) (n : Port) (b : Fin 2), (releaseEff s n b).bit (Obj.BRIL_STATUS.BUF_HELD n) b = false ∧
    onlyRegs s (releaseEff s n b) [Obj.BRIL_STATUS.BUF_HELD n]) ∧
  (∀ (s : State) (n : Port) (b : Nat), 2 ≤ b → releaseEff s n b = s)

/-! ## Porter and array (spec/05) -/

/-- R187, R188, R225, R233: a transaction in flight completes: words move, row by row of a 2D one, between the stall's memory and the yard or DRAM
and its tag holds OK; one whose sizes, offsets or addresses are wrong moves nothing and ends with FAULT. R199, R324: a single-bit error of the
path is corrected and counts in PATH_CE; a porter error is a fatal fault of the stall. -/
def Obligations.PorterTransfers : Prop :=
  (∀ (s : State) (t : StallId) (g : Fin 16) (tr : Transaction) (d : List Byte) (x : Stall) (a : Nat), x = s.stalls[t] → memoryGood s →
    x.t[g].flight = some tr → d = tr.desc → localGood d = true → (dSpace d = 1 ∨ dSpace d = 2) → remoteRow s t d 0 = some a → a % 16 = 0 →
    (dKind d = 0 → sound s a (16 * dLen d) →
      ∃ u : State, exec (.get t g .clean) s = .next u ∧ u.load (stallData t + dLocal d) (16 * dLen d) = s.load a (16 * dLen d) ∧
        bytesKept s u (stallData t + dLocal d) (16 * dLen d) ∧ u.stalls = s.stalls.set t { x with t := x.t.set g { x.t[g] with status := 1, flight := none } } ∧
        u.regs = s.regs ∧ u.pitches = s.pitches) ∧
    (dKind d = 1 → settled x = true → sound s (stallData t + dLocal d) (16 * dLen d) →
      ∃ u : State, exec (.put t g .clean) s = .next u ∧ u.load a (16 * dLen d) = s.load (stallData t + dLocal d) (16 * dLen d) ∧
        bytesKept s u a (16 * dLen d) ∧ u.stalls = s.stalls.set t { x with t := x.t.set g { x.t[g] with status := 1, flight := none } } ∧
        u.regs = s.regs ∧ u.pitches = s.pitches)) ∧
  (∀ (s : State) (t : StallId) (g : Fin 16) (tr : Transaction), s.stalls[t].t[g].flight = some tr → localGood tr.desc = false →
    (dKind tr.desc = 0 → exec (.get t g .clean) s = .next (s.completeTag t g 4)) ∧ (dKind tr.desc = 1 → exec (.put t g .clean) s = .next (s.completeTag t g 4)) ∧
    (dKind tr.desc = 2 → exec (.get2d t g .clean) s = .next (s.completeTag t g 4)) ∧ (dKind tr.desc = 3 → exec (.put2d t g .clean) s = .next (s.completeTag t g 4))) ∧
  (∀ (s : State) (t : StallId) (g : Fin 16) (tr : Transaction), s.stalls[t].t[g].flight = some tr → localGood tr.desc = true →
    (dSpace tr.desc = 1 ∨ dSpace tr.desc = 2) → (∃ r ∈ dRowList tr.desc, remoteRow s t tr.desc r.2 = none) →
    (dKind tr.desc = 2 → exec (.get2d t g .clean) s = .next (s.completeTag t g 4)) ∧ (dKind tr.desc = 3 → exec (.put2d t g .clean) s = .next (s.completeTag t g 4))) ∧
  (∀ (s : State) (t : StallId) (g : Fin 16) (tr : Transaction) (d : List Byte) (x : Stall), x = s.stalls[t] → memoryGood s →
    x.t[g].flight = some tr → d = tr.desc → localGood d = true → (dSpace d = 1 ∨ dSpace d = 2) → dKind d = 2 →
    (∀ r ∈ dRowList d, ∃ a : Nat, remoteRow s t d r.2 = some a ∧ a % 16 = 0 ∧ sound s a (16 * dLen d)) →
    (dRowList d).Pairwise (fun p q => p.1 + 16 * (dLen d : Int) ≤ q.1 ∨ q.1 + 16 * (dLen d : Int) ≤ p.1) →
    ∃ u : State, exec (.get2d t g .clean) s = .next u ∧ u.regs = s.regs ∧
      u.stalls = s.stalls.set t { x with t := x.t.set g { x.t[g] with status := 1, flight := none } } ∧
      (∀ r ∈ dRowList d, ∀ a : Nat, remoteRow s t d r.2 = some a →
        u.load (stallData t + r.1.toNat) (16 * dLen d) = s.load a (16 * dLen d)) ∧
      (∀ b : Nat, (∀ r ∈ dRowList d, b < stallData t + r.1.toNat ∨ stallData t + r.1.toNat + 16 * dLen d ≤ b) →
        Memory.read u.mem b = Memory.read s.mem b)) ∧
  (∀ (s : State) (t : StallId) (g : Fin 16) (tr : Transaction) (d : List Byte) (x : Stall), x = s.stalls[t] → memoryGood s →
    x.t[g].flight = some tr → d = tr.desc → localGood d = true → (dSpace d = 1 ∨ dSpace d = 2) → dKind d = 3 → settled x = true →
    (∀ r ∈ dRowList d, (∃ a : Nat, remoteRow s t d r.2 = some a ∧ a % 16 = 0) ∧
      sound s (stallData t + r.1.toNat) (16 * dLen d)) →
    (dRowList d).Pairwise (fun p q => ∀ a b : Nat, remoteRow s t d p.2 = some a → remoteRow s t d q.2 = some b →
      a + 16 * dLen d ≤ b ∨ b + 16 * dLen d ≤ a) →
    ∃ u : State, exec (.put2d t g .clean) s = .next u ∧ u.regs = s.regs ∧
      u.stalls = s.stalls.set t { x with t := x.t.set g { x.t[g] with status := 1, flight := none } } ∧
      (∀ r ∈ dRowList d, ∀ a : Nat, remoteRow s t d r.2 = some a →
        u.load a (16 * dLen d) = s.load (stallData t + r.1.toNat) (16 * dLen d)) ∧
      (∀ b : Nat, (∀ r ∈ dRowList d, ∀ a : Nat, remoteRow s t d r.2 = some a → b < a ∨ a + 16 * dLen d ≤ b) →
        Memory.read u.mem b = Memory.read s.mem b)) ∧
  (∀ (s : State) (t : StallId) (g : Fin 16) (tr : Transaction), s.stalls[t].t[g].flight = some tr →
    (dKind tr.desc = 0 → exec (.get t g .single) s = exec (.get t g .clean) (s.bump Obj.MEMORY.PATH_CE) ∧ exec (.get t g .broken) s = .next (s.fatalFault t)) ∧
    (dKind tr.desc = 1 → exec (.put t g .single) s = exec (.put t g .clean) (s.bump Obj.MEMORY.PATH_CE) ∧ exec (.put t g .broken) s = .next (s.fatalFault t)) ∧
    (dKind tr.desc = 2 → exec (.get2d t g .single) s = exec (.get2d t g .clean) (s.bump Obj.MEMORY.PATH_CE) ∧
      exec (.get2d t g .broken) s = .next (s.fatalFault t)) ∧
    (dKind tr.desc = 3 → exec (.put2d t g .single) s = exec (.put2d t g .clean) (s.bump Obj.MEMORY.PATH_CE) ∧
      exec (.put2d t g .broken) s = .next (s.fatalFault t))) ∧
  (∀ (s : State) (t : StallId) (g : Fin 16) (k : Nat), k < 16 →
    s.completeTag t g k = match flagOfStatus k with
      | none => s.modStall t (fun x => { x with t := x.t.set g { x.t[g] with status := BitVec.ofNat 4 k, flight := none } })
      | some b => (s.modStall t (fun x => { x with t := x.t.set g { x.t[g] with status := BitVec.ofNat 4 k, flight := none } })).raiseFlag t b)

/-- R191, R197, R233, R234: a DONE waits for earlier RESULT PUTs of its stall, takes its delivery out of the pitch's offers, resolves its pitch in
the reorder buffer and completes OK, LATE_DROP counting where the delivery was released before; TRIG and MAIL post their 16 bytes and complete
OK, or end FULL where the queue of 64 or 256 is full; one whose sizes, offsets or strides are wrong ends with FAULT. -/
def Obligations.DoneTrigMail : Prop :=
  (∀ (s : State) (t : StallId) (g : Fin 16) (tr : Transaction), s.stalls[t].t[g].flight = some tr → dKind tr.desc = 4 → localGood tr.desc = true →
    (resultPutPending s.stalls[t] tr.serial = true → exec (.done t g) s = .next s) ∧
    (resultPutPending s.stalls[t] tr.serial = false → s.stalls[t].pitches[dFlags tr.desc / 32 % 4]? = none →
      exec (.done t g) s = .next (s.completeTag t g 4)) ∧
    (∀ k : Fin 192, resultPutPending s.stalls[t] tr.serial = false → s.stalls[t].pitches[dFlags tr.desc / 32 % 4]? = some k →
      dDeliv tr.desc ∈ s.pitches[k].offers → s.array.reorder.any (recFor (pitchSlot s k) (stallPort s k) (dDeliv tr.desc)) = false →
      s.array.sweeps = [] → s.stalls[t].reload = false → s.array.reorder = [] → s.u (Obj.PITCH.LATE_DROP k) + 1 < 2 ^ 32 →
      ∃ u : State, exec (.done t g) s = .next u ∧ u.pitches[k].offers = s.pitches[k].offers.erase (dDeliv tr.desc) ∧
        u.u (Obj.PITCH.LATE_DROP k) = s.u (Obj.PITCH.LATE_DROP k) + 1 ∧ u.stalls[t].t[g].status = 1 ∧ u.stalls[t].t[g].flight = none ∧ u.mem = s.mem ∧
        regsKept s u [Obj.PITCH.LATE_DROP k, Obj.PITCH.LAG k, Obj.STALL.CYCLES_LAST t, Obj.STALL.CYCLES_MAX t]) ∧
    (∀ k : Fin 192, resultPutPending s.stalls[t] tr.serial = false → s.stalls[t].pitches[dFlags tr.desc / 32 % 4]? = some k →
      dDeliv tr.desc ∈ s.pitches[k].offers → s.array.reorder.any (recFor (pitchSlot s k) (stallPort s k) (dDeliv tr.desc)) = true →
      s.stalls[t].reload = false →
      ∃ u : State, exec (.done t g) s = .next u ∧ u.pitches[k].offers = s.pitches[k].offers.erase (dDeliv tr.desc) ∧
        u.stalls[t].t[g].status = 1 ∧ u.stalls[t].t[g].flight = none ∧
        u.u (Obj.PITCH.LATE_DROP k) = s.u (Obj.PITCH.LATE_DROP k) ∧
        (∀ r ∈ u.array.reorder, recFor (pitchSlot s k) (stallPort s k) (dDeliv tr.desc) r = true → ∀ e ∈ r.pitches, e.1 = k → e.2.isOpen = false) ∧
        (runsFit s (pitchSlot s k) = false → u.mem = s.mem))) ∧
  (∀ (s : State) (t : StallId) (g : Fin 16) (tr : Transaction), s.stalls[t].t[g].flight = some tr → localGood tr.desc = true →
    (dKind tr.desc = 5 → s.array.trig.length < 64 →
      ∃ u : State, exec (.trig t g) s = .next u ∧ u.array.trig = s.array.trig ++ [(t, tr.payload)] ∧ u.stalls[t].t[g].status = 1 ∧
        u.stalls[t].t[g].flight = none ∧ u = (({ s with array := { s.array with trig := s.array.trig ++ [(t, tr.payload)] } }).completeTag t g 1)) ∧
    (dKind tr.desc = 5 → 64 ≤ s.array.trig.length → exec (.trig t g) s = .next ((s.bump Obj.CAPTURE.TRIG_QFULL).completeTag t g 6)) ∧
    (dKind tr.desc = 6 → s.array.mail.length < 256 →
      ∃ u : State, exec (.mail t g) s = .next u ∧ u.array.mail = s.array.mail ++ [(t, tr.payload)] ∧ u.stalls[t].t[g].status = 1 ∧
        u.stalls[t].t[g].flight = none ∧ u = (({ s with array := { s.array with mail := s.array.mail ++ [(t, tr.payload)] } }).completeTag t g 1)) ∧
    (dKind tr.desc = 6 → 256 ≤ s.array.mail.length → exec (.mail t g) s = .next (s.completeTag t g 6))) ∧
  (∀ (s : State) (t : StallId) (g : Fin 16) (tr : Transaction), s.stalls[t].t[g].flight = some tr → localGood tr.desc = false →
    (dKind tr.desc = 4 → resultPutPending s.stalls[t] tr.serial = false → exec (.done t g) s = .next (s.completeTag t g 4)) ∧
    (dKind tr.desc = 5 → exec (.trig t g) s = .next (s.completeTag t g 4)) ∧
    (dKind tr.desc = 6 → exec (.mail t g) s = .next (s.completeTag t g 4)))

/-- R183, R194, R199, R207: a delivery that is whole in the ring is offered to a pitch whose lag is 2 or less and skipped, alternately, for one whose
lag is 3 or more; the end of a migration's copy puts the spare in SERVICE at ENTRY_RESUME and its old stall in TEST, whose end makes it SPARE or
FAILED; the end of a load makes a replacement ready. -/
def Obligations.ArrayService : Prop :=
  (∀ (s : State) (n : Port) (d : Delivery) (q : List Delivery), s.pipes[n].queue = d :: q → d.inRingWhole = true →
    exec (.deliveryComplete n) s = .next ((((s.modPipe n (fun p => { p with queue := q })).regionsAt n).completeDelivery n d).mirrorDelivery n d)) ∧
  (∀ (s : State) (n : Port) (d : Delivery) (k : Fin 192) (t : StallId) (l : Fin 4), s.pitches[k].host = some (t, l) → s.pitches[k].halted = false →
    s.stalls[t].debugHalt = false → s.pitches[k].offers.length ≤ 2 → s.stalls[t].inq.length + s.stalls[t].held.length +
      (if s.stalls[t].lastPop.isSome then 1 else 0) < 4 → s.u (Obj.PITCH.OFFERED k) + 1 < 2 ^ 32 →
    (s.offer n d k).pitches[k].offers = s.pitches[k].offers ++ [d.deliv] ∧ (s.offer n d k).u (Obj.PITCH.OFFERED k) = s.u (Obj.PITCH.OFFERED k) + 1 ∧
    (s.offer n d k).u (Obj.PITCH.LAG k) = s.pitches[k].offers.length + 1 ∧ (s.offer n d k).u (Obj.PITCH.SKIPPED k) = s.u (Obj.PITCH.SKIPPED k)) ∧
  (∀ (s : State) (n : Port) (d : Delivery) (k : Fin 192) (t : StallId) (l : Fin 4), s.pitches[k].host = some (t, l) → s.pitches[k].halted = false →
    s.stalls[t].debugHalt = false → 3 ≤ s.pitches[k].offers.length → s.pitches[k].skipNext = true → s.pitches[k].lagRun < 15 →
    s.u (Obj.PITCH.SKIPPED k) + 1 < 2 ^ 32 →
    (s.offer n d k).pitches[k].offers = s.pitches[k].offers ∧ (s.offer n d k).u (Obj.PITCH.SKIPPED k) = s.u (Obj.PITCH.SKIPPED k) + 1 ∧
    (s.offer n d k).pitches[k].skipNext = false ∧ (s.offer n d k).u (Obj.PITCH.OFFERED k) = s.u (Obj.PITCH.OFFERED k)) ∧
  (∀ (s : State) (t a : StallId), s.stalls[t].moveFrom = some a → s.stalls[t].replacing = false → a ≠ t → s.stalls[t].held = [] → s.stalls[t].debugHalt = false →
    ∃ u : State, exec (.migrationCopyEnd t) s = .next u ∧ u.stalls[t].state = .service ∧ u.stalls[t].pitches = s.stalls[t].pitches ∧
      u.stalls[t].pc = BitVec.ofNat 13 (imageField (s.imageAt t (s.stalls[t].slot.getD 0)) 42 2) ∧ u.stalls[t].p[14] = 1 ∧ u.stalls[t].p[15] = 0x2FC00 ∧
      u.stalls[t].moveFrom = none ∧ u.stalls[a].state = .test ∧ u.stalls[a].pitches = [] ∧ u.u (Obj.STALL.STATE t) = 1 ∧ u.u (Obj.STALL.STATE a) = 3) ∧
  (∀ (s : State) (t : StallId), s.stalls[t].state = .test →
    exec (.stlTestEnd t true) s = .next ((s.put (Obj.STALL.TEST_RESULT t) 1).setStall t .spare) ∧
    exec (.stlTestEnd t false) s = .next (((s.put (Obj.STALL.TEST_RESULT t) 2).setStall t .failed).stallEvent 5 t)) ∧
  (∀ (s : State) (t a : StallId), s.stalls[t].state = .loading → s.stalls[t].replacing = true → s.stalls[t].moveFrom = some a →
    exec (.programLoadEnd t) s = .next { s with stalls := s.stalls.set t { s.stalls[t] with ready := true } })

/-! ## The stall instructions (spec/06) -/

/-- R216, R222, R252: what each function of opcode 01h writes to DD, lane by lane; only the stall's DD and PC change. R222, R226, R245, R251: shifts by an immediate, where one beyond 23 is ILLEGAL, and the moves and permutations of lanes. -/
def Obligations.VectorsShiftsAndMoves : Prop :=
  (∀ (s : State) (t : StallId) (dd da db : Fin 64) (x : Stall), x = s.stalls[t] → ready s t →
    exec (.vadd t dd da db) s = .next (after s t (x.setD dd (lanes (fun a b => BitVec.ofInt 24 (a.toInt + b.toInt)) (x.getD da) (x.getD db)))) ∧
    exec (.vsub t dd da db) s = .next (after s t (x.setD dd (lanes (fun a b => BitVec.ofInt 24 (a.toInt - b.toInt)) (x.getD da) (x.getD db)))) ∧
    exec (.vadds t dd da db) s = .next (after s t (x.setD dd (lanes (fun a b => held24 (a.toInt + b.toInt)) (x.getD da) (x.getD db)))) ∧
    exec (.vsubs t dd da db) s = .next (after s t (x.setD dd (lanes (fun a b => held24 (a.toInt - b.toInt)) (x.getD da) (x.getD db)))) ∧
    exec (.vand t dd da db) s = .next (after s t (x.setD dd (lanes (fun a b => a &&& b) (x.getD da) (x.getD db)))) ∧
    exec (.vor t dd da db) s = .next (after s t (x.setD dd (lanes (fun a b => a ||| b) (x.getD da) (x.getD db)))) ∧
    exec (.vxor t dd da db) s = .next (after s t (x.setD dd (lanes (fun a b => a ^^^ b) (x.getD da) (x.getD db)))) ∧
    exec (.vmin t dd da db) s = .next (after s t (x.setD dd (lanes (fun a b => if a.toInt ≤ b.toInt then a else b) (x.getD da) (x.getD db)))) ∧
    exec (.vmax t dd da db) s = .next (after s t (x.setD dd (lanes (fun a b => if a.toInt ≤ b.toInt then b else a) (x.getD da) (x.getD db)))) ∧
    exec (.vabs t dd da db) s = .next (after s t (x.setD dd (lanes (fun a _ => held24 |a.toInt|) (x.getD da) (x.getD da)))) ∧
    exec (.vneg t dd da db) s = .next (after s t (x.setD dd (lanes (fun a _ => held24 (-a.toInt)) (x.getD da) (x.getD da)))) ∧
    exec (.vmov t dd da db) s = .next (after s t (x.setD dd (x.getD da))) ∧
    exec (.vshl t dd da db) s = .next (after s t (x.setD dd (lanes (fun a b => a <<< (b.toNat % 32)) (x.getD da) (x.getD db)))) ∧
    exec (.vsra t dd da db) s = .next (after s t (x.setD dd (lanes (fun a b => a.sshiftRight (b.toNat % 32)) (x.getD da) (x.getD db)))) ∧
    exec (.vcgt t dd da db) s = .next (after s t (x.setD dd (lanes (fun a b => if b.toInt < a.toInt then 0xFFFFFF else 0) (x.getD da) (x.getD db)))) ∧
    exec (.vceq t dd da db) s = .next (after s t (x.setD dd (lanes (fun a b => if a = b then 0xFFFFFF else 0) (x.getD da) (x.getD db))))) ∧
  ((∀ (s : State) (t : StallId) (dd da : Fin 64) (n : BitVec 6) (x : Stall), x = s.stalls[t] → ready s t → n.toNat ≤ 23 →
    exec (.vshli t dd da n) s = .next (after s t (x.setD dd (lanes (fun a _ => a <<< n.toNat) (x.getD da) (x.getD da)))) ∧
    exec (.vsrai t dd da n) s = .next (after s t (x.setD dd (lanes (fun a _ => a.sshiftRight n.toNat) (x.getD da) (x.getD da)))) ∧
    exec (.vsrli t dd da n) s = .next (after s t (x.setD dd (lanes (fun a _ => a >>> n.toNat) (x.getD da) (x.getD da))))) ∧
  (∀ (s : State) (t : StallId) (dd da : Fin 64) (n : BitVec 6), ready s t → 23 < n.toNat →
    exec (.vshli t dd da n) s = .next (trapped s t 8) ∧
    exec (.vsrai t dd da n) s = .next (trapped s t 8) ∧
    exec (.vsrli t dd da n) s = .next (trapped s t 8)) ∧
  (∀ (s : State) (t : StallId) (dd da : Fin 64) (sel : BitVec 8) (ps pd : Fin 16) (x : Stall), x = s.stalls[t] → ready s t →
    exec (.vswz t dd da sel) s = .next (after s t (x.setD dd (Quad.build (fun i => (x.getD da).get (sel.toNat / 4 ^ i % 4))))) ∧
    exec (.vdup t dd ps) s = .next (after s t (x.setD dd (Quad.build (fun _ => ⟨x.getP ps, false⟩)))) ∧
    exec (.movpd t dd ps sel) s = .next (after s t (x.setD dd (Quad.build (fun i =>
      if sel.toNat / 2 ^ i % 2 = 1 then ⟨x.getP ps, false⟩ else (x.getD dd).get i)))) ∧
    exec (.movdp t pd da sel) s = .next (flagged (after s t (x.setP pd ((x.getD da).get (sel.toNat % 4)).v)) t 2
      ((x.getD da).get (sel.toNat % 4)).poison)))

/-- R217, R218, R250: products are exact, of signed or unsigned lanes as SM says, with the lane of DB that BC names; MAC and MSU add them to a
lane, or take them away, and CMAC adds complex products, the imaginary part in the even lane; a lane whose OVS is set stays at its limit, and a
result outside −2⁵⁵ to 2⁵⁵ − 1 becomes the limit of its sign, with OVS and OVF; other sign modes and broadcasts are ILLEGAL. R218 to R221, R253: the functions of opcode 0Ch and STA; shifts beyond their range are ILLEGAL. -/
def Obligations.ProductsAndAccumulators : Prop :=
  ((∀ (s : State) (t : StallId) (an : Fin 8) (da db : Fin 64) (sm : BitVec 2) (bc : BitVec 3) (x : Stall) (p : Nat → Int) (q : Nat → Bool),
    x = s.stalls[t] → ready s t → sm ≠ 3 → (bc = 0 ∨ 4 ≤ bc.toNat) →
    (∀ i, p i = (if sm = 0 then ((x.getD da).get i).v.toInt else ((x.getD da).get i).v.toNat) *
      (if sm = 2 then (((x.getD db).get (if bc = 0 then i else bc.toNat - 4)).v.toNat : Int)
        else ((x.getD db).get (if bc = 0 then i else bc.toNat - 4)).v.toInt)) →
    (∀ i, q i = (((x.getD da).get i).poison || ((x.getD db).get (if bc = 0 then i else bc.toNat - 4)).poison)) →
    exec (.mpy t an da db sm bc) s = .next (after s t (x.setA an (Quad.build (fun i => ⟨BitVec.ofInt 56 (p i), false, q i⟩)))) ∧
    exec (.mac t an da db sm bc) s = .next (flagged (after s t (x.setA an (Quad.build (fun i => accMore ((x.getA an).get i) (p i) (q i))))) t 0
      ([0, 1, 2, 3].any (fun i => accMoreOver ((x.getA an).get i) (p i)))) ∧
    exec (.msu t an da db sm bc) s = .next (flagged (after s t (x.setA an (Quad.build (fun i => accMore ((x.getA an).get i) (-p i) (q i))))) t 0
      ([0, 1, 2, 3].any (fun i => accMoreOver ((x.getA an).get i) (-p i))))) ∧
  (∀ (s : State) (t : StallId) (an : Fin 8) (da db : Fin 64) (bc : BitVec 3) (cj : Bool) (x : Stall) (c : Nat → Int) (r : Nat → Bool)
    (ar ai br bi : Nat → DLane), x = s.stalls[t] → ready s t → (bc = 0 ∨ bc = 4 ∨ bc = 6) →
    (∀ k, ai k = (x.getD da).get (2 * k) ∧ ar k = (x.getD da).get (2 * k + 1) ∧
      bi k = (x.getD db).get (if bc = 0 then 2 * k else bc.toNat - 4) ∧ br k = (x.getD db).get (if bc = 0 then 2 * k + 1 else bc.toNat - 3)) →
    (∀ k, c (2 * k + 1) = (ar k).v.toInt * (br k).v.toInt - (ai k).v.toInt * (if cj then -(bi k).v.toInt else (bi k).v.toInt) ∧
      c (2 * k) = (ar k).v.toInt * (if cj then -(bi k).v.toInt else (bi k).v.toInt) + (ai k).v.toInt * (br k).v.toInt ∧
      r (2 * k) = ((ai k).poison || (ar k).poison || (bi k).poison || (br k).poison) ∧ r (2 * k + 1) = r (2 * k)) →
    exec (.cmac t an da db 0 bc cj) s = .next (flagged (after s t (x.setA an (Quad.build (fun i => accMore ((x.getA an).get i) (c i) (r i))))) t 0
      ([0, 1, 2, 3].any (fun i => accMoreOver ((x.getA an).get i) (c i))))) ∧
  (∀ (s : State) (t : StallId) (an : Fin 8) (da db : Fin 64) (sm : BitVec 2) (bc : BitVec 3) (cj : Bool), ready s t →
    (sm = 3 ∨ bc = 1 ∨ bc = 2 ∨ bc = 3 →
      exec (.mpy t an da db sm bc) s = .next (trapped s t 8) ∧ exec (.mac t an da db sm bc) s = .next (trapped s t 8) ∧
      exec (.msu t an da db sm bc) s = .next (trapped s t 8)) ∧
    (sm ≠ 0 ∨ (bc ≠ 0 ∧ bc ≠ 4 ∧ bc ≠ 6) → exec (.cmac t an da db sm bc cj) s = .next (trapped s t 8)))) ∧
  ((∀ (s : State) (t : StallId) (an am : Fin 8) (dx : Fin 64) (n : BitVec 6) (x : Stall) (a b : AReg), x = s.stalls[t] → a = x.getA an → b = x.getA am →
    ready s t →
    exec (.clra t an am dx n) s = .next (after s t (x.setA an ⟨{}, {}, {}, {}⟩)) ∧
    exec (.mova t an am dx n) s = .next (after s t (x.setA an b)) ∧
    exec (.adda t an am dx n) s = .next (flagged (after s t (x.setA an (Quad.build (fun i =>
      accMore (a.get i) (b.get i).v.toInt (b.get i).poison)))) t 0 ([0, 1, 2, 3].any (fun i => accMoreOver (a.get i) (b.get i).v.toInt))) ∧
    exec (.suba t an am dx n) s = .next (flagged (after s t (x.setA an (Quad.build (fun i =>
      accMore (a.get i) (-(b.get i).v.toInt) (b.get i).poison)))) t 0 ([0, 1, 2, 3].any (fun i => accMoreOver (a.get i) (-(b.get i).v.toInt)))) ∧
    exec (.nega t an am dx n) s = .next (flagged (after s t (x.setA an (Quad.build (fun i => accNew (a.get i) (-(a.get i).v.toInt))))) t 0
      ([0, 1, 2, 3].any (fun i => accOver (-(a.get i).v.toInt)))) ∧
    exec (.absa t an am dx n) s = .next (flagged (after s t (x.setA an (Quad.build (fun i => accNew (a.get i) |(a.get i).v.toInt|)))) t 0
      ([0, 1, 2, 3].any (fun i => accOver |(a.get i).v.toInt|))) ∧
    exec (.reda t an am dx n) s = .next (flagged (after s t (x.setA an ⟨accNew ⟨0, (b.get 0).ovs || (b.get 1).ovs || (b.get 2).ovs || (b.get 3).ovs,
        (b.get 0).poison || (b.get 1).poison || (b.get 2).poison || (b.get 3).poison⟩ ((b.get 0).v.toInt + (b.get 1).v.toInt + (b.get 2).v.toInt +
        (b.get 3).v.toInt), {}, {}, {}⟩)) t 0 (accOver ((b.get 0).v.toInt + (b.get 1).v.toInt + (b.get 2).v.toInt + (b.get 3).v.toInt))) ∧
    exec (.exp t an am dx n) s = .next (after s t (x.setD dx (Quad.build (fun i => ⟨BitVec.ofNat 24 (signBits (a.get i).v), (a.get i).poison⟩)))) ∧
    exec (.norm t an am dx n) s = .next (after s t ((x.setA an (Quad.build (fun i =>
      { a.get i with v := (a.get i).v <<< signBits (a.get i).v }))).setD dx (Quad.build (fun i =>
      ⟨BitVec.ofNat 24 (signBits (a.get i).v), (a.get i).poison⟩)))) ∧
    (n.toNat ≤ 55 → exec (.shla t an am dx n) s = .next (flagged (after s t (x.setA an (Quad.build (fun i =>
      accNew (a.get i) ((a.get i).v.toInt * 2 ^ n.toNat))))) t 0 ([0, 1, 2, 3].any (fun i => accOver ((a.get i).v.toInt * 2 ^ n.toNat))))) ∧
    (n.toNat ≤ 55 → exec (.sraa t an am dx n) s = .next (after s t (x.setA an (Quad.build (fun i =>
      { a.get i with v := (a.get i).v.sshiftRight n.toNat }))))) ∧
    (n.toNat ≤ 32 → exec (.lda t an am dx n) s = .next (after s t (x.setA an (Quad.build (fun i =>
      ⟨BitVec.ofInt 56 (((x.getD dx).get i).v.toInt * 2 ^ n.toNat), false, ((x.getD dx).get i).poison⟩))))) ∧
    (n.toNat ≤ 47 → exec (.sta t an dx n) s = .next (flagged (after s t (x.setD dx (Quad.build (fun i =>
      ⟨(staValue (a.get i) n.toNat).1, (a.get i).poison⟩)))) t 1 ([0, 1, 2, 3].any (fun i => (staValue (a.get i) n.toNat).2))))) ∧
  (∀ (s : State) (t : StallId) (an am : Fin 8) (dx : Fin 64) (n : BitVec 6), ready s t →
    (55 < n.toNat → exec (.shla t an am dx n) s = .next (trapped s t 8) ∧ exec (.sraa t an am dx n) s = .next (trapped s t 8)) ∧
    (32 < n.toNat → exec (.lda t an am dx n) s = .next (trapped s t 8)) ∧ (47 < n.toNat → exec (.sta t an dx n) s = .next (trapped s t 8))) ∧
  (signBits 0 = 55 ∧ signBits (BitVec.allOnes 56) = 55 ∧ signBits 1 = 54 ∧ signBits (2 ^ 54 : BitVec 56) = 0 ∧ signBits (2 ^ 55 : BitVec 56) = 0))

/-- R215, R242, R250, R251, R254: pointer arithmetic and the rotation base. -/
def Obligations.PointerFunctions : Prop :=
  ∀ (s : State) (t : StallId) (pd ps pt : Fin 16) (n : BitVec 5) (i22 : BitVec 22) (i18 : BitVec 18) (x : Stall) (a b : BitVec 24),
    x = s.stalls[t] → a = x.getP ps → b = x.getP pt → ready s t →
    exec (.nop t) s = .next (after s t x) ∧
    exec (.lip t pd i22) s = .next (after s t (x.setP pd (BitVec.ofInt 24 i22.toInt))) ∧
    exec (.addpi t pd ps i18) s = .next (after s t (x.setP pd (BitVec.ofInt 24 (a.toNat + i18.toInt)))) ∧
    exec (.add t pd ps pt n) s = .next (after s t (x.setP pd (a + b))) ∧
    exec (.sub t pd ps pt n) s = .next (after s t (x.setP pd (a - b))) ∧
    exec (.and t pd ps pt n) s = .next (after s t (x.setP pd (a &&& b))) ∧
    exec (.or t pd ps pt n) s = .next (after s t (x.setP pd (a ||| b))) ∧
    exec (.xor t pd ps pt n) s = .next (after s t (x.setP pd (a ^^^ b))) ∧
    exec (.shl t pd ps pt n) s = .next (after s t (x.setP pd (a <<< (b.toNat % 32)))) ∧
    exec (.shr t pd ps pt n) s = .next (after s t (x.setP pd (a >>> (b.toNat % 32)))) ∧
    exec (.sra t pd ps pt n) s = .next (after s t (x.setP pd (a.sshiftRight (b.toNat % 32)))) ∧
    exec (.shli t pd ps pt n) s = .next (after s t (x.setP pd (a <<< n.toNat))) ∧
    exec (.shri t pd ps pt n) s = .next (after s t (x.setP pd (a >>> n.toNat))) ∧
    exec (.srai t pd ps pt n) s = .next (after s t (x.setP pd (a.sshiftRight n.toNat))) ∧
    exec (.mul t pd ps pt n) s = .next (after s t (x.setP pd (BitVec.ofNat 24 (a.toNat * b.toNat)))) ∧
    exec (.slt t pd ps pt n) s = .next (after s t (x.setP pd (if a.toInt < b.toInt then 1 else 0))) ∧
    exec (.sltu t pd ps pt n) s = .next (after s t (x.setP pd (if a.toNat < b.toNat then 1 else 0))) ∧
    exec (.min t pd ps pt n) s = .next (after s t (x.setP pd (BitVec.ofInt 24 (min a.toInt b.toInt)))) ∧
    exec (.max t pd ps pt n) s = .next (after s t (x.setP pd (BitVec.ofInt 24 (max a.toInt b.toInt)))) ∧
    exec (.mfrb t pd) s = .next (after s t (x.setP pd (BitVec.ofNat 24 x.rb.toNat))) ∧
    exec (.mtrb t ps) s = .next (after s t { x with rb := BitVec.ofNat 5 a.toNat }) ∧
    exec (.rotb t) s = .next (after s t { x with rb := x.rb - 1 })

/-- R223 to R228, R251: loads, of bytes whose words are good and not the destination of a GET still to be waited for: what each element format
gives, the pointer and modifier after the access, and that memory does not change. -/
def Obligations.Loads : Prop :=
  (∀ (s : State) (t : StallId) (dr : Fin 64) (pn : Fin 16) (mm : Fin 8) (am : BitVec 2) (ef : BitVec 3) (k : BitVec 8) (x y : Stall) (ad : Addressed)
    (sz a : Nat) (w : Nat → Nat), x = s.stalls[t] → ready s t → settled x = true →
    sz = (if ef.toNat ≤ 3 then 4 else if ef = 4 then 2 else 1) → address x pn mm am sz k false = some ad → a = ad.addr / sz * sz →
    a + 4 * sz ≤ 0x30000 → watchHit x a (4 * sz) false = false →
    sound s (stallData t + a) (4 * sz) →
    (∀ i, w i = fromLe (s.load (stallData t + a + sz * i) sz)) → y = (x.setP pn ad.p).setM mm ad.m →
    (ef = 0 → exec (.ld t dr pn mm am ef k) s = .next (after s t (y.setD dr (Quad.build (fun i => ⟨BitVec.ofNat 24 (w i / 256), false⟩))))) ∧
    (ef = 1 → exec (.ld t dr pn mm am ef k) s = .next (after s t (y.setD dr (Quad.build (fun i => ⟨BitVec.ofNat 24 (w i), false⟩))))) ∧
    (ef = 2 → exec (.ld t dr pn mm am ef k) s = .next (after s t (y.setD dr (Quad.build (fun i => ⟨BitVec.ofNat 24 (w i % 256), false⟩))))) ∧
    (ef = 3 → dr.val ≤ 62 → exec (.ld t dr pn mm am ef k) s = .next (after s t ((y.setD dr (Quad.build (fun i =>
      ⟨BitVec.ofNat 24 (w i / 256), false⟩))).setD (dr + 1) (Quad.build (fun i => ⟨BitVec.ofNat 24 (w i % 256), false⟩))))) ∧
    (ef = 4 → exec (.ld t dr pn mm am ef k) s = .next (after s t (y.setD dr (Quad.build (fun i =>
      ⟨BitVec.ofInt 24 (BitVec.ofNat 16 (w i)).toInt, false⟩))))) ∧
    (ef = 5 → exec (.ld t dr pn mm am ef k) s = .next (after s t (y.setD dr (Quad.build (fun i => ⟨BitVec.ofNat 24 (w i), false⟩)))))) ∧
  (∀ (s : State) (t : StallId) (an : Fin 8) (pd pn : Fin 16) (mm : Fin 8) (am : BitVec 2) (k : BitVec 8) (x : Stall) (ad : Addressed) (sz a : Nat),
    x = s.stalls[t] → ready s t → settled x = true → address x pn mm am sz k false = some ad → a = ad.addr / sz * sz → a + sz ≤ 0x30000 →
    watchHit x a sz false = false → sound s (stallData t + a) sz →
    (sz = 4 → exec (.ldp t pd pn mm am k) s = .next (after s t (((x.setP pn ad.p).setM mm ad.m).setP pd
      (BitVec.ofNat 24 (fromLe (s.load (stallData t + a) 4)))))) ∧
    (sz = 32 → exec (.ldam t an pn mm am k) s = .next (after s t (((x.setP pn ad.p).setM mm ad.m).setA an (Quad.build (fun i =>
      ⟨BitVec.ofNat 56 (fromLe (s.load (stallData t + a + 8 * i) 8)), (fromLe (s.load (stallData t + a + 8 * i) 8)).testBit 56,
        (fromLe (s.load (stallData t + a + 8 * i) 8)).testBit 57⟩)))))) ∧
  (∀ (s : State) (t : StallId) (dr : Fin 64) (pd pn : Fin 16) (mm : Fin 8) (am : BitVec 2) (k : BitVec 8) (x : Stall) (ad : Addressed), x = s.stalls[t] →
    ready s t → settled x = true → address x pn mm am 4 k false = some ad → ad.addr / 4 * 4 + 4 ≤ 0x30000 → watchHit x (ad.addr / 4 * 4) 4 false = false →
    s.poisoned (stallData t + ad.addr / 4 * 4) = true →
    (∀ e ∈ s.flips, e.1 + 16 ≤ stallData t + ad.addr / 4 * 4 ∨ stallData t + ad.addr / 4 * 4 + 4 ≤ e.1) → x.trapEn.getLsbD 2 = false →
    ∃ u : State, exec (.ldp t pd pn mm am k) s = .next u ∧ u.stalls[t].flags.getLsbD 2 = true ∧
      u.stalls[t].p[pd] = BitVec.ofNat 24 (fromLe (s.load (stallData t + ad.addr / 4 * 4) 4)) ∧ u.mem = s.mem ∧
      regsKept s u [Obj.STALL.FLAGS t, Obj.MEMORY.POISON_SEEN])

/-- R223 to R227, R251: stores of lanes that are not poisoned into words that are good: the bytes each element format writes, where they go, the
flag SAT, and that no other byte of memory changes. -/
def Obligations.Stores : Prop :=
  (∀ (s : State) (t : StallId) (dr : Fin 64) (pn : Fin 16) (mm : Fin 8) (am : BitVec 2) (ef : BitVec 3) (k : BitVec 8) (x : Stall) (ad : Addressed)
    (sz a : Nat) (d q e : Nat → Int), x = s.stalls[t] → ready s t → memoryGood s → ef.toNat < 6 → ¬(ef = 3 ∧ dr.val = 63) →
    sz = (if ef.toNat ≤ 3 then 4 else if ef = 4 then 2 else 1) → address x pn mm am sz k true = some ad → a = ad.addr / sz * sz →
    a + 4 * sz ≤ 0x2FB00 → watchHit x a (4 * sz) true = false → sound s (stallData t + a) (4 * sz) →
    (∀ i, ((x.getD dr).get i).poison = false ∧ (ef = 3 → ((x.getD (dr + 1)).get i).poison = false)) →
    (∀ i, d i = ((x.getD dr).get i).v.toInt ∧ q i = ((x.getD (dr + 1)).get i).v.toInt) →
    (∀ i, e i = (if ef = 0 then d i * 256 else if ef = 1 then d i else if ef = 3 then d i * 256 + max 0 (min 255 (q i))
      else if ef = 4 then max (-32768) (min 32767 (d i)) else max 0 (min 255 (d i)))) →
    ∃ w : State, exec (.st t dr pn mm am ef k) s = .next (flagged (after w t ((x.setP pn ad.p).setM mm ad.m)) t 1 ([0, 1, 2, 3].any (fun i =>
        if ef = 0 ∨ ef = 1 then false else if ef = 3 then !decide (0 ≤ q i ∧ q i ≤ 255) else if ef = 4 then !decide (-32768 ≤ d i ∧ d i ≤ 32767)
          else !decide (0 ≤ d i ∧ d i ≤ 255)))) ∧
      w = { s with mem := w.mem } ∧ bytesKept s w (stallData t + a) (4 * sz) ∧
      ∀ i < 4, (fromLe (w.load (stallData t + a + sz * i) sz) : Int) = e i % 2 ^ (8 * sz)) ∧
  (∀ (s : State) (t : StallId) (an : Fin 8) (ps pn : Fin 16) (mm : Fin 8) (am : BitVec 2) (k : BitVec 8) (x : Stall) (ad : Addressed) (sz a : Nat),
    x = s.stalls[t] → ready s t → memoryGood s → address x pn mm am sz k true = some ad → a = ad.addr / sz * sz → a + sz ≤ 0x2FB00 →
    watchHit x a sz true = false → sound s (stallData t + a) sz → (∀ i, ((x.getA an).get i).poison = false) →
    (sz = 4 → ∃ w : State, exec (.stp t ps pn mm am k) s = .next (after w t ((x.setP pn ad.p).setM mm ad.m)) ∧ w = { s with mem := w.mem } ∧
      bytesKept s w (stallData t + a) 4 ∧ (fromLe (w.load (stallData t + a) 4) : Int) = (x.getP ps).toInt % 2 ^ 32) ∧
    (sz = 32 → ∃ w : State, exec (.stam t an pn mm am k) s = .next (after w t ((x.setP pn ad.p).setM mm ad.m)) ∧ w = { s with mem := w.mem } ∧
      bytesKept s w (stallData t + a) 32 ∧ ∀ i < 4, fromLe (w.load (stallData t + a + 8 * i) 8) =
        ((x.getA an).get i).v.toNat + if ((x.getA an).get i).ovs then 2 ^ 56 else 0)) ∧
  (∀ (s : State) (t : StallId) (dr : Fin 64) (an : Fin 8) (pd pn : Fin 16) (mm : Fin 8) (am : BitVec 2) (ef : BitVec 3) (k : BitVec 8), issues s t →
    (6 ≤ ef.toNat ∨ (ef = 3 ∧ dr.val = 63) →
      exec (.ld t dr pn mm am ef k) s = .next (trapped s t 8) ∧ exec (.st t dr pn mm am ef k) s = .next (trapped s t 8)) ∧
    (address s.stalls[t] pn mm am 4 k false = none → exec (.ldp t pd pn mm am k) s = .next (trapped s t 8)) ∧
    (∀ ad, address s.stalls[t] pn mm am 4 k false = some ad → 0x30000 < ad.addr / 4 * 4 + 4 →
      exec (.ldp t pd pn mm am k) s = .next (trapped s t 9)) ∧
    (∀ ad, address s.stalls[t] pn mm am 4 k true = some ad → 0x2FB00 < ad.addr / 4 * 4 + 4 →
      exec (.stp t pd pn mm am k) s = .next (trapped s t 9)))

/-- R227 to R231: the address an access uses and the pointer after it, by addressing mode; a modulo or bit-reversed pointer stays inside its ring,
and a staged length takes effect when a store wraps. -/
def Obligations.Addressing : Prop :=
  (∀ (x : Stall) (pn : Fin 16) (mm : Fin 8) (sz : Nat) (k : BitVec 8) (st : Bool),
    address x pn mm 0 sz k st = some ⟨(x.p[pn] + BitVec.ofInt 24 (k.toInt * sz)).toNat, x.p[pn], x.m[mm]⟩ ∧
    address x pn mm 1 sz k st = some ⟨x.p[pn].toNat, x.p[pn] + BitVec.ofInt 24 (k.toInt * sz), x.m[mm]⟩) ∧
  (∀ (x : Stall) (pn : Fin 16) (mm : Fin 8) (sz : Nat) (k : BitVec 8) (st : Bool) (m : Modifier), m = x.m[mm] → (m.len = 0 ∨ m.step = 0) →
    address x pn mm 2 sz k st = none ∧ address x pn mm 3 sz k st = none) ∧
  (∀ (x : Stall) (pn : Fin 16) (mm : Fin 8) (sz : Nat) (k : BitVec 8) (m : Modifier) (o : Nat), m = x.m[mm] → m.len ≠ 0 → m.step ≠ 0 →
    x.p[pn].toNat = m.base.toNat + o → o < m.len.toNat → m.base.toNat + m.len.toNat ≤ 2 ^ 24 →
    ∃ ad : Addressed, address x pn mm 2 sz k false = some ad ∧ ad.addr = m.base.toNat + o ∧ ad.m = m ∧
      (ad.p.toNat : Int) = m.base.toNat + ((o : Int) + m.step.toInt) % m.len.toNat) ∧
  (∀ (x : Stall) (pn : Fin 16) (mm : Fin 8) (sz : Nat) (k : BitVec 8) (m : Modifier) (o : Nat), m = x.m[mm] → m.len ≠ 0 → m.step ≠ 0 →
    x.p[pn].toNat = m.base.toNat + o → o < m.len.toNat → m.staged ≠ 0 → m.base.toNat + m.staged.toNat ≤ 2 ^ 24 →
    ¬(0 ≤ (o : Int) + m.step.toInt ∧ (o : Int) + m.step.toInt < m.len.toNat) →
    ∃ ad : Addressed, address x pn mm 2 sz k true = some ad ∧ ad.addr = m.base.toNat + o ∧ ad.m.len = m.staged ∧ ad.m.prevLen = m.len ∧ ad.m.staged = 0 ∧
      (ad.p.toNat : Int) = m.base.toNat + ((o : Int) + m.step.toInt) % m.len.toNat % m.staged.toNat) ∧
  (∀ (x : Stall) (pn : Fin 16) (mm : Fin 8) (sz : Nat) (k : BitVec 8) (st : Bool) (am : BitVec 2) (ad : Addressed) (m : Modifier), m = x.m[mm] →
    2 ≤ am.toNat → m.base.toNat + m.len.toNat ≤ 2 ^ 24 → address x pn mm am sz k st = some ad →
    m.base.toNat ≤ ad.addr ∧ ad.addr < m.base.toNat + m.len.toNat ∧
    (¬(m.base.toNat ≤ x.p[pn].toNat ∧ x.p[pn].toNat < m.base.toNat + m.len.toNat) → ad.addr = m.base.toNat ∧ ad.m.trim = true)) ∧
  ((List.range 8).map (fun i => (brevStep { base := 0, len := 64, step := 8 } ([0, 32, 16, 48, 8, 40, 24, 56].getD i 0) false).1) =
    [32, 16, 48, 8, 40, 24, 56, 0])

/-- R237 to R241, R250: branches, calls, returns and loops: where the stall goes on, and what becomes of its return stack and loop levels;
a full or empty return stack raises STACK, a loop that R240 forbids and a reserved opcode raise ILLEGAL. -/
def Obligations.FlowInstructions : Prop :=
  (∀ (s : State) (t : StallId) (off : BitVec 14) (x : Stall) (dst : BitVec 13), x = s.stalls[t] → issuesControl s t →
    dst = BitVec.ofInt 13 (x.pc.toNat + off.toInt) →
    exec (.br t off) s = .next (jumped s t { x with loops := x.loops.filter (fun l =>
      !(decide (l.depth = x.rets.length) && !decide (l.start.toNat ≤ dst.toNat ∧ dst.toNat ≤ l.last))) } dst) ∧
    (x.rets.length < 8 → exec (.call t off) s = .next (jumped s t { x with rets := (x.pc + 1) :: x.rets } dst)) ∧
    (8 ≤ x.rets.length → exec (.call t off) s = .next (trapped s t 10)) ∧
    (∀ (a : BitVec 13) (r : List (BitVec 13)), x.rets = a :: r →
      exec (.ret t) s = .next (jumped s t { x with rets := r, loops := x.loops.filter (fun l => decide (l.depth ≤ r.length)) } a) ∧
      (x.masked = true → exec (.trapret t) s = .next (jumped s t { x with rets := r, masked := false, loops := x.loops.filter (fun l =>
        decide (l.depth ≤ r.length)) } a))) ∧
    (x.rets = [] → exec (.ret t) s = .next (trapped s t 10)) ∧
    (x.masked = false → exec (.trapret t) s = .next (trapped s t 8))) ∧
  (∀ (s : State) (t : StallId) (pa pb : Fin 16) (cc : BitVec 3) (off : BitVec 14) (x : Stall) (a b : BitVec 24) (taken : Bool), x = s.stalls[t] →
    issuesControl s t → a = x.p[pa] → b = x.p[pb] →
    taken = (if cc = 0 then decide (a = b) else if cc = 1 then decide (a ≠ b) else if cc = 2 then decide (a.toInt < b.toInt)
      else if cc = 3 then decide (b.toInt ≤ a.toInt) else if cc = 4 then decide (a.toNat < b.toNat) else if cc = 5 then decide (b.toNat ≤ a.toNat)
      else if cc = 6 then decide (a.toNat = 0) else decide (a.toNat ≠ 0)) →
    (taken = false → x.runsOut = false → exec (.bcc t pa pb cc off) s = .next (after s t x)) ∧
    (taken = true → exec (.bcc t pa pb cc off) s = exec (.br t off) s)) ∧
  (∀ (s : State) (t : StallId) (rot src : Bool) (cnt body : BitVec 12) (x : Stall) (n : Nat), x = s.stalls[t] → issuesControl s t → x.runsOut = false →
    n = (if src then (x.p[(⟨cnt.toNat / 256, by have := cnt.isLt; omega⟩ : Fin 16)]).toNat else if cnt = 0 then 4096 else cnt.toNat) →
    body ≠ 0 → x.loops.length < 2 → (∀ l ∈ x.loops.head?, l.depth = x.rets.length → x.pc.toNat + body.toNat < l.last) →
    (n ≠ 0 → exec (.loop t rot src cnt body) s = .next (after s t { x with loops :=
      ⟨x.pc + 1, x.pc.toNat + body.toNat, n, rot, x.rets.length⟩ :: x.loops })) ∧
    (n = 0 → x.pc.toNat + body.toNat < 0x1FFF → exec (.loop t rot src cnt body) s = .next (jumped s t x (BitVec.ofNat 13 (x.pc.toNat + body.toNat + 1))))) ∧
  (∀ (s : State) (t : StallId) (rot src : Bool) (cnt body : BitVec 12), issuesControl s t → (body = 0 ∨ s.stalls[t].loops.length = 2) →
    exec (.loop t rot src cnt body) s = .next (trapped s t 8)) ∧
  (∀ (s : State) (t : StallId), issues s t → exec (.illegalOpcode t) s = .next (trapped s t 8)) ∧
  (∀ (s : State) (t : StallId) (off : BitVec 14), issues s t → s.stalls[t].lastOfBody = true →
    exec (.br t off) s = .next (trapped s t 8) ∧ exec (.ret t) s = .next (trapped s t 8) ∧ exec (.call t off) s = .next (trapped s t 8)) ∧
  (∀ (x : Stall), (x.loops = [] → x.advance = { x with pc := x.pc + 1 }) ∧
    (∀ (l : LoopLevel) (r : List LoopLevel), x.loops = l :: r →
      (x.lastOfBody = false → x.advance = { x with pc := x.pc + 1 }) ∧
      (x.lastOfBody = true → x.advance.rb = (if l.rot then x.rb - 1 else x.rb) ∧
        (1 < l.remaining → x.advance.pc = l.start ∧ x.advance.loops = { l with remaining := l.remaining - 1 } :: r) ∧
        (l.remaining ≤ 1 → x.advance.pc = x.pc + 1 ∧ x.advance.loops = r))))

/-- R208, R228, R229, R248: the stall-local registers and modifiers: what MFS and MFM read, what MTS and MTM write. R188, R189, R193, R225, R232, R235, R247: ISSUE copies a descriptor of settled words and puts it in flight on its tag, and holds, counting, while the
tag is in flight; WAIT holds until its tag is not in flight and then reads its status; INQ_POP holds until a descriptor waits, then takes the
oldest and frees the slot popped before. -/
def Obligations.StallRegistersAndPorter : Prop :=
  ((∀ (s : State) (t : StallId) (pd ps : Fin 16) (x : Stall), x = s.stalls[t] → ready s t →
    exec (.mfs t pd 0x00) s = .next (after s t (x.setP pd (BitVec.ofNat 24 t.val))) ∧
    exec (.mfs t pd 0x02) s = .next (after s t (x.setP pd (BitVec.ofNat 24 x.inq.length))) ∧
    exec (.mfs t pd 0x0D) s = .next (after s t (x.setP pd (BitVec.ofNat 24 x.flags.toNat))) ∧
    exec (.mfs t pd 0x0E) s = .next (after s t (x.setP pd (BitVec.ofNat 24 x.trapEn.toNat))) ∧
    exec (.mfs t pd 0x0F) s = .next (after s t (x.setP pd (BitVec.ofNat 24 x.trapCause.toNat))) ∧
    exec (.mfs t pd 0x06) s = .next (after s t (({ x with snapEpoch := s.ep.count }).setP pd (BitVec.ofNat 24 s.ep.count.toNat))) ∧
    exec (.mfs t pd 0x07) s = .next (after s t (x.setP pd (BitVec.ofNat 24 (x.snapEpoch.toNat / 2 ^ 24)))) ∧
    exec (.mfs t pd 0x08) s = .next (after s t (x.setP pd (BitVec.ofNat 24 (x.snapEpoch.toNat / 2 ^ 48)))) ∧
    (∀ sel : BitVec 8, 0x13 ≤ sel.toNat → exec (.mfs t pd sel) s = .next (after s t (x.setP pd 0)) ∧
      exec (.mts t sel ps) s = .next (after s t x)) ∧
    exec (.mts t 0x0E ps) s = .next (after s t { x with trapEn := BitVec.ofNat 6 (x.p[ps]).toNat }) ∧
    exec (.mts t 0x00 ps) s = .next (after s t x) ∧ exec (.mts t 0x0F ps) s = .next (after s t x) ∧
    (∃ u : State, exec (.mts t 0x0D ps) s = .next u ∧ u.stalls = (after s t { x with flags := x.flags &&& ~~~(BitVec.ofNat 6 (x.p[ps]).toNat) }).stalls ∧
      onlyRegs { s with stalls := u.stalls } u [Obj.STALL.FLAGS t])) ∧
  (∀ (s : State) (t : StallId) (pd ps : Fin 16) (mm : Fin 8) (x : Stall) (m : Modifier) (v : BitVec 24), x = s.stalls[t] → m = x.m[mm] → v = x.p[ps] →
    ready s t →
    exec (.mfm t pd mm 0) s = .next (after s t (x.setP pd m.base)) ∧ exec (.mfm t pd mm 1) s = .next (after s t (x.setP pd m.len)) ∧
    exec (.mfm t pd mm 2) s = .next (after s t (x.setP pd m.step)) ∧ exec (.mfm t pd mm 3) s = .next (after s t (x.setP pd m.staged)) ∧
    exec (.mfm t pd mm 4) s = .next (after s t (x.setP pd m.prevLen)) ∧ exec (.mfm t pd mm 5) s = .next (after s t (x.setP pd m.lost)) ∧
    exec (.mfm t pd mm 6) s = .next (after s t (x.setP pd (BitVec.ofNat 24 ((if m.trim then 1 else 0) + if m.staged = 0 then 0 else 2)))) ∧
    exec (.mtm t mm 0 ps) s = .next (after s t (x.setM mm { m with base := v })) ∧
    exec (.mtm t mm 2 ps) s = .next (after s t (x.setM mm { m with step := v })) ∧
    exec (.mtm t mm 3 ps) s = .next (after s t x) ∧ exec (.mtm t mm 4 ps) s = .next (after s t x) ∧
    exec (.mtm t mm 5 ps) s = .next (after s t (x.setM mm { m with lost := 0 })) ∧
    exec (.mtm t mm 6 ps) s = .next (after s t (x.setM mm { m with trim := m.trim && decide (v.toNat % 2 = 0) })) ∧
    (v.toNat ≤ 0x30000 → m.len ≠ 0 → ∃ u : State, exec (.mtm t mm 1 ps) s = .next u ∧ u.stalls = (after s t (x.setM mm { m with staged := v })).stalls ∧
      u.regs = s.regs ∧ u.mem = s.mem) ∧
    (v.toNat ≤ 0x30000 → m.len = 0 → v ≠ 0 → ∃ u : State, exec (.mtm t mm 1 ps) s = .next u ∧
      u.stalls = (after s t (x.setM mm { m with len := v, prevLen := 0, staged := 0 })).stalls ∧ u.regs = s.regs ∧ u.mem = s.mem))) ∧
  ((∀ (s : State) (t : StallId) (tt pn : Fin 16) (x : Stall) (a : Nat) (d : List Byte), x = s.stalls[t] → ready s t → settled x = true →
    x.t[tt].flight = none → a = (x.p[pn]).toNat / 16 * 16 → a + 32 ≤ 0x30000 → d = s.load (stallData t + a) 32 → watchHit x a 32 false = false →
    dKind d ≤ 4 →
    exec (.issue t tt pn) s = .next { after s t { x with t := x.t.set tt ⟨0, some ⟨d, [], s.array.serial⟩,
      if dKind d = 0 ∨ dKind d = 2 then d :: x.t[tt].gets else x.t[tt].gets⟩ } with array := { s.array with serial := s.array.serial + 1 } }) ∧
  (∀ (s : State) (t : StallId) (tt pn : Fin 16) (x : Stall) (a : Nat) (d : List Byte), x = s.stalls[t] → ready s t → settled x = true →
    x.t[tt].flight = none → a = (x.p[pn]).toNat / 16 * 16 → a + 32 ≤ 0x30000 → d = s.load (stallData t + a) 32 → watchHit x a 32 false = false →
    ((dKind d = 5 ∨ dKind d = 6) → dLocal d + 16 ≤ 0x30000 →
      exec (.issue t tt pn) s = .next { after s t { x with t := x.t.set tt ⟨0, some ⟨d, s.load (stallData t + dLocal d) 16, s.array.serial⟩,
        x.t[tt].gets⟩ } with array := { s.array with serial := s.array.serial + 1 } }) ∧
    (7 ≤ dKind d → exec (.issue t tt pn) s = .next (({ after s t { x with t := x.t.set tt ⟨4, none, x.t[tt].gets⟩ } with
      array := { s.array with serial := s.array.serial + 1 } }).raiseFlag t 4))) ∧
  (∀ (s : State) (t : StallId) (tt pn : Fin 16) (f : Transaction), issues s t → s.stalls[t].t[tt].flight = some f →
    s.u (Obj.STALL.TAG_HOLD t) + 1 < 2 ^ 32 →
    ∃ u : State, exec (.issue t tt pn) s = .next u ∧ u.u (Obj.STALL.TAG_HOLD t) = s.u (Obj.STALL.TAG_HOLD t) + 1 ∧
      u.stalls = s.stalls.set t { s.stalls[t] with skipBp := false } ∧ regsKept s u [Obj.STALL.TAG_HOLD t] ∧ u.mem = s.mem ∧ u.array = s.array) ∧
  (∀ (s : State) (t : StallId) (tt pd : Fin 16) (x : Stall), x = s.stalls[t] →
    (ready s t → x.t[tt].flight = none → exec (.wait t tt pd) s = .next (after s t ({ x with t := x.t.set tt { x.t[tt] with gets := [] } }.setP pd
      (BitVec.ofNat 24 x.t[tt].status.toNat)))) ∧
    (∀ f, issues s t → x.t[tt].flight = some f → exec (.wait t tt pd) s = .next { s with stalls := s.stalls.set t { x with skipBp := false } })) ∧
  (∀ (s : State) (t : StallId) (pd : Fin 16) (x : Stall), x = s.stalls[t] →
    (∀ (i : Fin 4) (r : List (Fin 4)), ready s t → x.inq = i :: r →
      exec (.inqPop t pd) s = .next (after s t ({ x with inq := r, lastPop := some i }.setP pd (BitVec.ofNat 24 (0x2FB00 + 64 * i.val)))) ∧
      exec (.mfs t pd 0x03) s = exec (.inqPop t pd) s) ∧
    (issues s t → x.inq = [] → exec (.inqPop t pd) s = .next { s with stalls := s.stalls.set t { x with lastPop := none, skipBp := false } })))

/-- R243 to R246: a flag that hardware sets stays set; where it read 0, is enabled and traps are not masked, the stall traps: the cause's bit, the
address of the next instruction pushed, traps masked, on at ENTRY_TRAP. Without a handler, inside one or on a full return stack a trap is a
fatal fault. -/
def Obligations.FlagsAndTraps : Prop :=
  (∀ (s : State) (t : StallId) (c : Nat) (x : Stall), x = s.stalls[t] → x.entryTrap ≠ 0 → x.masked = false → x.rets.length < 8 →
    s.u (Obj.STALL.TRAPS t) + 1 < 2 ^ 32 →
    (s.takeTrap t c).stalls = s.stalls.set t { x with
      trapCause := BitVec.ofNat 11 (2 ^ c), rets := x.pc :: x.rets, masked := true, pend := none, pc := x.entryTrap } ∧
    (s.takeTrap t c).u (Obj.STALL.TRAPS t) = s.u (Obj.STALL.TRAPS t) + 1 ∧ onlyRegs { s with stalls := (s.takeTrap t c).stalls } (s.takeTrap t c)
      [Obj.STALL.TRAPS t]) ∧
  (∀ (s : State) (t : StallId) (c : Nat), (s.stalls[t].entryTrap = 0 ∨ s.stalls[t].masked = true ∨ 8 ≤ s.stalls[t].rets.length) →
    s.takeTrap t c = s.fatalFault t) ∧
  (∀ (s : State) (t : StallId) (b : Fin 6) (x : Stall), x = s.stalls[t] → x.running = true → (x.flags.getLsbD b = true ∨ x.trapEn.getLsbD b = false ∨
      x.masked = true) →
    (s.raiseFlag t b).stalls = s.stalls.set t { x with flags := x.flags ||| BitVec.ofNat 6 (2 ^ b.val) } ∧
    onlyRegs { s with stalls := (s.raiseFlag t b).stalls } (s.raiseFlag t b) [Obj.STALL.FLAGS t]) ∧
  (∀ (s : State) (t : StallId) (b : Fin 6) (x : Stall), x = s.stalls[t] → x.running = true → x.flags.getLsbD b = false → x.trapEn.getLsbD b = true →
    x.masked = false → x.entryTrap ≠ 0 → x.rets.length < 8 →
    (s.raiseFlag t b).stalls[t].pc = x.entryTrap ∧ (s.raiseFlag t b).stalls[t].masked = true ∧ (s.raiseFlag t b).stalls[t].rets = x.pc :: x.rets ∧
    (s.raiseFlag t b).stalls[t].flags.getLsbD b = true ∧ (s.raiseFlag t b).stalls[t].trapCause = BitVec.ofNat 11 (2 ^ b.val) ∧
    (s.raiseFlag t b).mem = s.mem)

/-! ## Capture, triggers and the bell (spec/07) -/

/-- R260, R261, R268, R270, R278: a trigger on a DISARMED region does nothing; in FILLING and in REARM it is ignored and counted; in ARMED it waits
for the sample at or after its target, or fixes its boundary there: POST, with the samples the awning holds before and from the boundary. R262, R264, R267, R272, R273, R277, R279, R410, R437: the events that test conditions, take stall requests, write records, end a REARM and act
on bell messages, each completing with its effect; a message that is new is acted on once and goes on while hops remain. -/
def Obligations.TriggersAndCaptureEvents : Prop :=
  ((∀ (s : State) (r : Fin 64) (tr : Trigger), s.u (Obj.REGION.RSTATE r) = 0 → s.trigger r tr = s) ∧
  (∀ (s : State) (r : Fin 64) (tr : Trigger), s.u (Obj.REGION.RSTATE r) = 1 → s.u (Obj.REGION.TRIG_EARLY r) + 1 < 2 ^ 32 →
    ∃ u : State, s.trigger r tr = u.summary (.trigEarly r) ∧ u.u (Obj.REGION.TRIG_EARLY r) = s.u (Obj.REGION.TRIG_EARLY r) + 1 ∧
      u.bit (Obj.REGION.FLAGS r) Bit.REGION.FLAGS.TRIG_EARLY = true ∧ onlyRegs s u [Obj.REGION.TRIG_EARLY r, Obj.REGION.FLAGS r]) ∧
  (∀ (s : State) (r : Fin 64) (tr : Trigger), s.u (Obj.REGION.RSTATE r) = 4 → s.u (Obj.REGION.TRIG_REARM r) + 1 < 2 ^ 32 →
    ∃ u : State, s.trigger r tr = u.summary (.trigRearm r) ∧ u.u (Obj.REGION.TRIG_REARM r) = s.u (Obj.REGION.TRIG_REARM r) + 1 ∧
      u.bit (Obj.REGION.FLAGS r) Bit.REGION.FLAGS.TRIG_REARM = true ∧ onlyRegs s u [Obj.REGION.TRIG_REARM r, Obj.REGION.FLAGS r]) ∧
  (∀ (s : State) (r : Fin 64) (tr : Trigger), s.u (Obj.REGION.RSTATE r) = 2 → tr.gone = false → s.capture.regions[r].lastLeft = none →
    (∀ e ∈ s.capture.regions[r].ring, (e.stamp : Int) < tr.x) →
    s.trigger r tr = s.modRegion r (fun x => { x with waiting := x.waiting ++ [tr] })) ∧
  (∀ (s : State) (r : Fin 64) (tr : Trigger) (l m : List AwnEntry) (b : AwnEntry), s.u (Obj.REGION.RSTATE r) = 2 → tr.gone = false →
    s.capture.regions[r].lastLeft = none → s.capture.regions[r].waiting = [] → s.u (Obj.REGION.BELL_TX r) = 0xFF →
    s.capture.regions[r].ring = l ++ b :: m → (∀ e ∈ l, (e.stamp : Int) < tr.x) → tr.x ≤ (b.stamp : Int) →
    ∃ (t : State) (c : RecordPart), s.trigger r tr = t ∧ t.capture.regions[r].record = some c ∧ t.u (Obj.REGION.RSTATE r) = 3 ∧ c.boundary = b ∧
      c.first = tr ∧ c.late = false ∧ c.pre = l.drop (l.length - tr.pre) ∧ c.post = (b :: m).take tr.post ∧ c.preShort = decide (l.length < tr.pre) ∧
      t.mem = s.mem ∧ t.out = s.out ∧ regsKept s t [Obj.REGION.RSTATE r]) ∧
  (∀ (k : Cond) (p : PointState) (v u : Int), k.type = 1 → (metAt k { p with prev := none } v = polTest k.pol v k.a) ∧
    (metAt k { p with prev := some u } v = (polTest k.pol v k.a && !polTest k.pol u k.a))) ∧
  (∀ (k : Cond) (p : PointState) (v : Int), k.type = 5 → metAt k p v = (polTest k.pol v k.a && decide (p.run + 1 = k.ta))) ∧
  (∀ v x : Int, polTest 0 v x = decide (x ≤ v) ∧ polTest 1 v x = decide (v ≤ x) ∧ polTest 2 v x = decide (|x| ≤ |v|) ∧ polTest 3 v x = decide (|v| < |x|))) ∧
  ((∀ (s : State) (r : Fin 64), (∀ e ∈ s.capture.regions[r].ring, e.tested = true) → exec (.pointCondition r) s = .next s) ∧
  (∀ (s : State) (r : Fin 64) (e : AwnEntry) (d : Delivery), s.capture.regions[r].ring = [e] → e.tested = false → s.u (Obj.REGION.PORT r) < 8 →
    sampleDelivery s ⟨s.u (Obj.REGION.PORT r) % 8, Nat.mod_lt _ (by decide)⟩ (s.u (Obj.REGION.SOURCE r) + 1) e.seq = some d →
    (∀ c < 8, pointType (s.u (Obj.CONDITIONS.C_TYPE r c)) = false) →
    exec (.pointCondition r) s = .next (s.modRegion r (fun x => { x with ring := [{ e with tested := true }] }))) ∧
  (∀ (s : State) (r : Fin 64) (n : Port) (e : AwnEntry) (d : Delivery), s.capture.regions[r].ring.find? (fun x => !x.tested) = some e →
    s.u (Obj.REGION.PORT r) = n.val → sampleDelivery s n (s.u (Obj.REGION.SOURCE r) + 1) e.seq = some d →
    (∀ c < 8, pointType (s.u (Obj.CONDITIONS.C_TYPE r c)) = true →
      ∀ i < s.u (Obj.CONDITIONS.C_COUNT r c), wordKnown d (s.u (Obj.CONDITIONS.C_FIRST r c) + i) = true) →
    exec (.pointCondition r) s = .next ((s.modRegion r (fun x =>
      { x with ring := x.ring.map (fun y => if y.seq = e.seq then { y with tested := true } else y) })).testSample r e d)) ∧
  (∀ (s : State) (t : StallId) (q : List Byte) (rest : List (StallId × List Byte)), s.array.trig = (t, q) :: rest → 64 ≤ imageField q 0 1 →
    s.u Obj.CAPTURE.TRIG_BAD + 1 < 2 ^ 32 →
    ∃ u : State, exec .stallTrigRequest s = .next u ∧ u.array.trig = rest ∧ u.u Obj.CAPTURE.TRIG_BAD = s.u Obj.CAPTURE.TRIG_BAD + 1 ∧
      onlyRegs { s with array := u.array } u [Obj.CAPTURE.TRIG_BAD]) ∧
  (∀ (s u : State) (t : StallId) (q : List Byte) (rest : List (StallId × List Byte)) (r : Fin 64) (c : Fin 8), s.array.trig = (t, q) :: rest →
    imageField q 0 1 = r.val → imageField q 1 1 = c.val → u = { s with array := { s.array with trig := rest } } →
    ((s.u (Obj.CONDITIONS.C_TYPE r c) ≠ 7 ∨ requestPort s t r = false) → exec .stallTrigRequest s = .next (u.bump Obj.CAPTURE.TRIG_BAD)) ∧
    (s.u (Obj.CONDITIONS.C_TYPE r c) = 7 → requestPort s t r = true → s.u (Obj.REGION.RSTATE r) = 0 → exec .stallTrigRequest s = .next u) ∧
    (s.u (Obj.CONDITIONS.C_TYPE r c) = 7 → requestPort s t r = true → s.u (Obj.REGION.RSTATE r) ≠ 0 →
      exec .stallTrigRequest s = .next ((u.bump (Obj.CONDITIONS.MET r c)).trigger r
        (condTrigger u r c 1 (requestStamp s r q).1 (s.i (Obj.CONDITIONS.C_OFFSET r c)) none (requestStamp s r q).2)))) ∧
  (∀ (s : State) (id : BitVec 29) (data : List Byte) (stamp : Stamp), s.u Obj.CAN.CAN_EN ≠ 0 → s.can.busOff = false → s.u Obj.CAN.RX_FRAMES + 1 < 2 ^ 32 →
    ∃ u : State, exec (.canFrame id false data stamp) s = .next u ∧ u.u Obj.CAN.RX_FRAMES = s.u Obj.CAN.RX_FRAMES + 1 ∧
      u.u Obj.CAN.REC = errorCount (min 128 (s.u Obj.CAN.REC)) (Config.busErrors s.fresh) 1 ∧
      onlyRegs { s with can := u.can, fresh := u.fresh } u [Obj.CAN.RX_FRAMES, Obj.CAN.REC]) ∧
  (∀ (s : State) (id : BitVec 29) (ext : Bool) (data : List Byte) (stamp : Stamp), (s.u Obj.CAN.CAN_EN = 0 ∨ s.can.busOff = true) →
    exec (.canFrame id ext data stamp) s = .next s) ∧
  (∀ (s : State) (r : Fin 64) (c : RecordPart), s.capture.regions[r].record = some c → c.complete = true →
    (∀ e ∈ c.pre ++ c.post, e.poisoned = []) → s.flips = [] →
    s.capture.storePos + (recordBytes s r c).length ≤ s.u Obj.CAPTURE.STORE_LEN * 2 ^ 20 → s.u (Obj.REGION.RECORDS r) + 1 < 2 ^ 32 → c.preShort = false →
    ∃ u : State, exec (.recordWritten r) s = .next u ∧ u.capture.regions[r].record = none ∧
      (⟨r, s.capture.regions[r].recordSeq, s.capture.storePos, recordBytes s r c, []⟩ : StoredRecord) ∈ u.capture.store ∧
      u.capture.regions[r].recordSeq = s.capture.regions[r].recordSeq + 1 ∧ u.u (Obj.REGION.RECORDS r) = s.u (Obj.REGION.RECORDS r) + 1 ∧
      u.u (Obj.REGION.RSTATE r) = (if s.u (Obj.REGION.ARM_MODE r) = 0 then 0 else 4) ∧ u.mem = s.mem ∧
      regsKept s u ([Obj.REGION.RECORDS r, Obj.CAPTURE.RECORDS, Obj.REGION.LAST_SEQ r, Obj.REGION.RSTATE r, Obj.CAPTURE.STORE_LOST] ++
        (List.range 256).map Obj.STREAM.LOST)) ∧
  (∀ (s : State) (r : Fin 64) (c : RecordPart), s.capture.regions[r].record = some c → c.complete = false → exec (.recordWritten r) s = .next s) ∧
  (∀ (s : State) (r : Fin 64), s.u (Obj.REGION.RSTATE r) = 4 →
    ∃ u : State, exec (.rearmEnd r) s = .next u ∧
      (s.u (Obj.REGION.ARM_MODE r) = 1 → u.u (Obj.REGION.ARM_MODE r) = 0 ∧ u.u (Obj.REGION.RSTATE r) = 0) ∧
      (s.u (Obj.REGION.ARM_MODE r) = 2 → u.u (Obj.REGION.ARM_MODE r) = 2 ∧
        u.u (Obj.REGION.RSTATE r) = (if s.capture.regions[r].ring.length < s.capture.regions[r].len then 1 else 2)) ∧
      u.mem = s.mem ∧ regsKept s u [Obj.REGION.ARM_MODE r, Obj.REGION.RSTATE r]) ∧
  (∀ (s : State) (a : Arrival) (h : BitVec 8) (m : BellMsg), linkUp s a.link = true → a.fseq = s.links[a.link].last + 1 → m.origin = ownId s →
    exec (.bellFire a h m) s = .next (s.acceptFrame a 0) ∧ exec (.bellArm a h m) s = .next (s.acceptFrame a 0) ∧
    exec (.bellDisarm a h m) s = .next (s.acceptFrame a 0) ∧ exec (.bellTypeViolation a h m) s = .next (s.acceptFrame a 0)) ∧
  (∀ (s v w : State) (a : Arrival) (h : BitVec 8) (m : BellMsg), linkUp s a.link = true → a.fseq = s.links[a.link].last + 1 → a.poisoned = [] →
    m.origin ≠ ownId s → (∀ e ∈ s.remembered, ¬(e.1 = m.origin ∧ e.2.1 = m.seq)) →
    v = { s.acceptFrame a 0 with capture := { s.capture with seen := ((m.origin, m.seq, (s.now : Int)) :: s.remembered).take 4096 } } →
    w = (if 1 < h.toNat then v.flood (some a.link) { vc := 0, kind := 1, src := m.origin, hops := h.toNat - 1, body := .bell m } else v) →
    exec (.bellFire a h m) s = .next ((w.fire m.group.toNat ((m.epoch.toNat : Int) * 256 + m.fine.toNat) m.origin m.seq).bump Obj.CAPTURE.BELL_IN) ∧
    (m.armMode = 1 ∨ m.armMode = 2 →
      exec (.bellArm a h m) s = .next ((w.armGroup m.group.toNat m.armMode.toNat m.epoch.toNat).bump Obj.CAPTURE.BELL_IN)) ∧
    exec (.bellDisarm a h m) s = .next ((w.armGroup m.group.toNat 0 m.epoch.toNat).bump Obj.CAPTURE.BELL_IN) ∧
    exec (.bellTypeViolation a h m) s = .next (w.violate 10 (.fwd m.origin a.link) none 0)) ∧
  (∀ (s : State) (a : Arrival) (h : BitVec 8) (m : BellMsg), linkUp s a.link = true → a.fseq = s.links[a.link].last + 1 → a.poisoned = [] →
    m.origin ≠ ownId s → h.toNat ≤ 1 → s.capture.seen = [] →
    (∀ r : Fin 64, s.u (Obj.REGION.BELL_RX r) ≠ m.group.toNat) → s.u Obj.CAPTURE.BELL_IN + 1 < 2 ^ 32 →
    (∃ u : State, exec (.bellFire a h m) s = .next u ∧ u.capture.seen = [(m.origin, m.seq, (s.now : Int))] ∧
      u.u Obj.CAPTURE.BELL_IN = s.u Obj.CAPTURE.BELL_IN + 1 ∧ u.capture.regions = s.capture.regions ∧
      regsKept (s.acceptFrame a 0) u [Obj.CAPTURE.BELL_IN]) ∧
    (s.now < m.epoch.toNat → (m.armMode = 1 ∨ m.armMode = 2) → ∃ u : State, exec (.bellArm a h m) s = .next u ∧
      u.capture.arms = s.capture.arms ++ [(m.epoch.toNat, m.group.toNat, m.armMode.toNat)] ∧ u.capture.regions = s.capture.regions) ∧
    (s.now < m.epoch.toNat → ∃ u : State, exec (.bellDisarm a h m) s = .next u ∧
      u.capture.arms = s.capture.arms ++ [(m.epoch.toNat, m.group.toNat, 0)] ∧ u.capture.regions = s.capture.regions)) ∧
  (∀ (s : State) (e g mode : Nat), s.capture.arms = [(e, g, mode)] →
    (e ≤ s.now → exec .armAtEpoch s = .next (({ s with capture := { s.capture with arms := [] } }).onGroup g (fun v r => v.armRegion r mode))) ∧
    (s.now < e → exec .armAtEpoch s = .next s)))

/-! ## Clocks (spec/08) -/

/-- R286, R287, R288, R289, R290: references come and go; a qualification window is judged against a second reference, or WOSC; the root PLL takes the
first qualified reference, and loses its reference by coasting. R27, R28, R29, R48, R284, R296, R297, R298, R300: lock, its loss, coasting and its end, a domain's or the root's loss of its source. -/
def Obligations.ReferencesLockAndCoast : Prop :=
  ((∀ (s : State) (r : Fin 3), s.clk.refs[r].present = true → exec (.refEdgesPresent r) s = .next s) ∧
  (∀ (s : State) (r : Fin 3), s.clk.refs[r].present = false →
    exec (.refEdgesPresent r) s = .next (s.modRef r (fun _ => { present := true, passed := false }))) ∧
  (∀ (s : State) (r : Fin 3), inUse s r = false →
    exec (.refEdgeLoss r) s = .next ((s.modRef r (fun _ => { present := false, passed := false })).refFlags.useRef)) ∧
  (∀ (s : State) (r : Fin 3), inUse s r = true → s.u Obj.CLOCKS.PLL_STATE = 2 →
    ∃ (u : State) (e : Ev), exec (.refEdgeLoss r) s = .next ((u.log e).enterCoast.useRef) ∧ e.sub = 13 ∧ e.index = 0x2000 ∧ e.osub = 0x0E ∧ e.bit = 3 ∧
      e.cls = (if s.clkFlag Bit.CLOCKS.FLAGS.REF_FAIL then 0 else 1) ∧ u.clkFlag Bit.CLOCKS.FLAGS.REF_FAIL = true ∧
      u.clk = (s.modRef r (fun _ => { present := false, passed := false })).clk ∧ onlyRegs { s with clk := u.clk } u [Obj.CLOCKS.FLAGS]) ∧
  (∀ (s : State) (r : Fin 3) (off : Int), s.clk.refs[r].present = false → exec (.qualWindowEnd r off) s = .next s) ∧
  (∀ (s : State) (r : Fin 3) (off : Int), s.clk.refs[r].present = true → secondRef s r = none → off.natAbs ≤ 250000000 →
    exec (.qualWindowEnd r off) s = .next (((s.clrBit Obj.CLOCKS.FLAGS Bit.CLOCKS.FLAGS.DISAGREE).watchWosc r off).qualify r true)) ∧
  (∀ (s : State) (r : Fin 3) (off : Int), s.clk.refs[r].present = true → secondRef s r = none → 250000000 < off.natAbs →
    exec (.qualWindowEnd r off) s = .next (((s.clrBit Obj.CLOCKS.FLAGS Bit.CLOCKS.FLAGS.DISAGREE).watchWosc r off).disqualify r)) ∧
  (∀ (s : State) (r : Fin 3) (off : Int),
    (inUse s r = true ∧ s.u Obj.CLOCKS.PLL_STATE = 2 → (s.watchWosc r off).clkFlag Bit.CLOCKS.FLAGS.WOSC_BAD =
        decide (100 * 1000000000 < 85 * (1000000000 + off) ∨ 115 * (1000000000 + off) < 100 * 1000000000) ∧
      onlyRegs s (s.watchWosc r off) [Obj.CLOCKS.FLAGS]) ∧
    (inUse s r = false ∨ s.u Obj.CLOCKS.PLL_STATE ≠ 2 → s.watchWosc r off = s)) ∧
  (∀ (s : State) (r k : Fin 3) (off : Int), s.clk.refs[r].present = true → secondRef s r = some k → inUse s r = false →
    off.natAbs ≤ s.u Obj.CLOCKS.QUAL_PPM * 1000 →
    exec (.qualWindowEnd r off) s = .next ((s.clrBit Obj.CLOCKS.FLAGS Bit.CLOCKS.FLAGS.DISAGREE).qualify r false)) ∧
  (∀ (s : State) (r k : Fin 3) (off : Int), s.clk.refs[r].present = true → secondRef s r = some k → inUse s r = true →
    off.natAbs ≤ s.u Obj.CLOCKS.QUAL_PPM * 1000 →
    exec (.qualWindowEnd r off) s =
      .next (((s.puti Obj.CLOCKS.QUAL_OFFSET off).clrBit Obj.CLOCKS.FLAGS Bit.CLOCKS.FLAGS.DISAGREE).qualify r false)) ∧
  (∀ (s : State) (r k : Fin 3) (off : Int), s.clk.refs[r].present = true → secondRef s r = some k → inUse s r = false →
    s.u Obj.CLOCKS.QUAL_PPM * 1000 < off.natAbs → (∀ j : Fin 3, j ≠ r → j ≠ k → s.clk.refs[j].present = false) →
    ∃ u : State, exec (.qualWindowEnd r off) s = .next u ∧ u.clkFlag Bit.CLOCKS.FLAGS.DISAGREE = true ∧
      u.clk.refs[keeper s r k].passed = (if keeper s r k = r then true else s.clk.refs[k].passed) ∧
      u.clk.refs[if keeper s r k = r then k else r].passed = false ∧ u.mem = s.mem ∧ u.stalls = s.stalls) ∧
  (∀ (s : State) (r : Fin 3) (single : Bool), (s.qualify r single).clk.refs[r] = { s.clk.refs[r] with passed := true } ∧
    (s.qualify r single).clkFlag Bit.CLOCKS.FLAGS.QUAL_SINGLE = single ∧ (s.qualify r single).mem = s.mem ∧ (s.qualify r single).ports = s.ports) ∧
  (∀ (s : State) (r : Fin 3), bestRef s = some r →
    (s.u Obj.CLOCKS.PLL_STATE = 0 → s.chooseRef = (s.put Obj.CLOCKS.PLL_STATE 1).put Obj.CLOCKS.REF_IN_USE (r.val + 1)) ∧
    (s.u Obj.CLOCKS.PLL_STATE = 1 → s.chooseRef = s.put Obj.CLOCKS.REF_IN_USE (r.val + 1)) ∧
    (s.u Obj.CLOCKS.PLL_STATE = 2 → s.chooseRef = (s.put Obj.CLOCKS.REF_IN_USE (r.val + 1)).ppsFlag)) ∧
  (∀ s : State, s.u Obj.CLOCKS.PLL_STATE = 3 → s.clk.mayAcquire = true →
    (∀ a : Fin 3, refOfCode s.clk.acquiring = some a → refQualified s a = true → s.chooseRef = s) ∧
    ((∀ a : Fin 3, refOfCode s.clk.acquiring = some a → refQualified s a = false) →
      s.chooseRef = { s with clk := { s.clk with acquiring := ((bestRef s).map codeOf).getD 0, atFloor := false } })) ∧
  (∀ s : State, ∃ u : State, exec .ovenRdyRise s = .next u ∧ u.clk = { s.clk with ovenLow := false, ovenHeld := false } ∧
    u.clkFlag Bit.CLOCKS.FLAGS.OVEN_WAIT = (s.u Obj.CLOCKS.REF_KIND == 1) ∧ onlyRegs { s with clk := u.clk } u [Obj.CLOCKS.FLAGS]) ∧
  (∀ s : State, s.clk.ovenLow = false →
    exec .ovenHoldExpiry s = .next ({ s with clk := { s.clk with ovenHeld := true } }.refFlags.useRef)) ∧
  (∀ s : State, s.clk.ovenLow = true → exec .ovenHoldExpiry s = .next s) ∧
  (∀ s : State, s.u Obj.CLOCKS.REF_KIND = 1 ∧ inUse s 1 = true →
    exec .ovenRdyFall s = .next ({ s with clk := { s.clk with ovenLow := true, ovenHeld := false } }.refFlags.refFail.useRef)) ∧
  (∀ s : State, ¬(s.u Obj.CLOCKS.REF_KIND = 1 ∧ inUse s 1 = true) →
    exec .ovenRdyFall s = .next ({ s with clk := { s.clk with ovenLow := true, ovenHeld := false } }.refFlags.useRef))) ∧
  ((∀ s : State, s.u Obj.CLOCKS.COASTS + 1 < 2 ^ 32 →
    ∃ u : State, s.enterCoast = u ∧ u.coasting = true ∧ u.clkFlag Bit.CLOCKS.FLAGS.LOCKED = false ∧ u.u Obj.CLOCKS.PLL_STATE = 3 ∧
      u.u Obj.CLOCKS.REF_IN_USE = 0 ∧ u.u Obj.CLOCKS.COASTS = s.u Obj.CLOCKS.COASTS + 1 ∧
      u.bit Obj.EPOCH.FLAGS Bit.EPOCH.FLAGS.UNCERTAIN = true ∧ u.ep = { s.ep with coastPhase := 0, reacquire := false } ∧ u.clk.coastAt = s.now ∧
      (∀ c : Fin 2, u.u (Obj.DRAM_CHANNEL.RATE c) = (if s.u (Obj.DRAM_CHANNEL.RATE c) = 0 then 0 else 2560)) ∧
      (∀ n : Port, u.ports[n].shots = (s.ports[n].shots.filter (·.launched)).map Shot.spoil ∧
        u.ports[n].gap = (s.ports[n].gap || s.ports[n].shots.any (fun x => !x.launched && !x.cal)) ∧
        u.ports[n].stepped = (s.ports[n].stepped || s.ports[n].shots.any (fun x => !x.launched && x.epochStep))) ∧ u.mem = s.mem ∧ u.stalls = s.stalls ∧ u.streams = s.streams) ∧
  (∀ x : Shot, (x.spoil).invalid = (x.invalid || (x.winOpen && !x.winClosed))) ∧
  (∀ s : State, s.clk.stopped = false → s.coasting = false → s.u Obj.CLOCKS.PLL_STATE = 1 →
    ∃ u : State, exec .pllLock s = .next u ∧ u.ep = { s.ep with running := true } ∧ u.u Obj.CLOCKS.PLL_STATE = 2 ∧
      u.clkFlag Bit.CLOCKS.FLAGS.LOCKED = true ∧ u.mem = s.mem ∧ u.stalls = s.stalls ∧ u.ports = s.ports ∧
      (s.anyWindow = true → u.clk = { s.clk with switchDue := true } ∧ u.u Obj.CLOCKS.SWITCHES = s.u Obj.CLOCKS.SWITCHES) ∧
      (s.anyWindow = false → s.u Obj.CLOCKS.SWITCHES + 4 < 2 ^ 32 → u.u Obj.CLOCKS.SWITCHES = s.u Obj.CLOCKS.SWITCHES + 4 ∧
        (∀ d : Fin 16, u.clk.onBypass[d] = (s.clk.onBypass[d] && !(d == 2 || d == 5 || d == 6 || d == 7))))) ∧
  (∀ s : State, (s.clk.switchDue = false ∨ s.anyWindow = true → s.settleSwitch = s) ∧
    (s.clk.switchDue = true → s.anyWindow = false → s.settleSwitch.clk.switchDue = false ∧ s.settleSwitch.ports = s.ports ∧
      ∀ d : Fin 16, s.settleSwitch.clk.onBypass[d] = (s.clk.onBypass[d] && !(d == 2 || d == 5 || d == 6 || d == 7)))) ∧
  (∀ s : State, s.clk.stopped = false → s.coasting = true → s.clk.acquiring ≠ 0 →
    exec .pllLock s = .next { s with clk := { s.clk with atFloor := true } }) ∧
  (∀ s : State, s.clk.stopped = true →
    ∃ u : State, exec .pllLock s = .next u ∧ u.ep.count = s.ep.count + BitVec.ofNat 64 (Config.measured s.fresh) ∧
      u.clk.stopped = false ∧ u.coasting = false ∧ u.u Obj.CLOCKS.PLL_STATE = 2 ∧ u.clkFlag Bit.CLOCKS.FLAGS.LOCKED = true ∧ u.mem = s.mem ∧ u.stalls = s.stalls) ∧
  (∀ s : State, s.coasting = true → s.u Obj.CLOCKS.PLL_STATE = 3 →
    ∃ u : State, exec .coastAcquire s = .next u ∧ u.clk.mayAcquire = true ∧
      (∀ r : Fin 3, bestRef s = some r → s.clk.acquiring = 0 → u.clk.acquiring = r.val + 1) ∧ u.u Obj.CLOCKS.PLL_STATE = 3 ∧ u.ports = s.ports ∧ u.mem = s.mem) ∧
  (∀ s : State, s.coasting = false → exec .coastAcquire s = .next s) ∧
  (∀ s : State, s.coasting = true → s.clk.atFloor = true → (∀ a ∈ s.ledger.applying, a.index ≠ 0x7000 ∧ a.index ≠ 0x7100 ∧ a.index ≠ 0x7200 ∧ a.index ≠ 0x7300) →
    ∃ u : State, exec .coastExit s = .next u ∧ u.coasting = false ∧ u.u Obj.CLOCKS.PLL_STATE = 2 ∧ u.clkFlag Bit.CLOCKS.FLAGS.LOCKED = true ∧
      u.u Obj.CLOCKS.COAST_LAST = (freeRound ((s.now : Int) - s.clk.coastAt) 3200).toNat % 2 ^ 32 ∧ u.clk.acquiring = 0 ∧
      u.ep = { s.ep with uncertainHeld := s.ep.uncertainHeld || s.u Obj.EPOCH.SOURCE == 0 } ∧
      (∀ c : Fin 2, u.u (Obj.DRAM_CHANNEL.RATE c) = (if s.u (Obj.DRAM_CHANNEL.RATE c) = 0 then 0 else 3200)) ∧
      u.mem = s.mem ∧ u.ports = s.ports ∧ u.stalls = s.stalls) ∧
  (∀ s : State, s.coasting = true → s.clk.atFloor = true → exec .coastExit s = .next s.coastExit.releasePlant) ∧
  (∀ s : State, s.coasting = true → s.clk.atFloor = false → exec .coastExit s = .next s) ∧
  (∀ (s : State) (r : Fin 3), s.coasting = false → s.u Obj.CLOCKS.PLL_STATE = 2 → s.u Obj.CLOCKS.REF_IN_USE = r.val + 1 →
    exec .pllLockLoss s = .next (s.disqualify r)) ∧
  (∀ s : State, (s.coasting = false ∨ s.clk.atFloor = false) → s.u Obj.CLOCKS.PLL_STATE ≠ 2 → exec .pllLockLoss s = .next s) ∧
  (∀ s : State, s.coasting = true → s.clk.atFloor = true → s.u Obj.CLOCKS.PLL_STATE = 3 →
    ∃ u : State, exec .pllLockLoss s = .next u ∧ u.clk.atFloor = false ∧ u.coasting = true ∧ u.u Obj.CLOCKS.PLL_STATE = 3 ∧
      exec .coastExit u = .next u ∧ u.mem = s.mem ∧ u.ports = s.ports ∧ u.stalls = s.stalls) ∧
  (∀ (s : State) (d : Fin 16), d = 2 ∨ d = 5 ∨ d = 6 ∨ d = 7 → s.u Obj.CLOCKS.SWITCHES + 1 < 2 ^ 32 → s.u Obj.CLOCKS.UNCLEAN + 1 < 2 ^ 32 →
    ∃ u : State, exec (.domainSourceLoss d) s = .next u ∧ u.clk = { s.clk with onBypass := s.clk.onBypass.set d true } ∧
      u.u Obj.CLOCKS.SWITCHES = s.u Obj.CLOCKS.SWITCHES + 1 ∧ u.u Obj.CLOCKS.UNCLEAN = s.u Obj.CLOCKS.UNCLEAN + 1 ∧
      u.clkFlag Bit.CLOCKS.FLAGS.SWITCH_UNCLEAN = true ∧ u.bit Obj.EPOCH.FLAGS Bit.EPOCH.FLAGS.RETAKEN = true ∧
      (∀ x : Fin 9, x.val ∈ crossingsOf d → u.bit Obj.CROSSINGS.PEER_RESET x = true) ∧
      (∀ n : Port, u.ports[n].shots = s.ports[n].shots.map Shot.spoil) ∧
      (∀ k : Fin 8, u.units[k] = { s.units[k] with events := [], start := none, held := [], flags := s.units[k].flags ||| 4#5 }) ∧ u.mem = s.mem ∧ u.ep = s.ep) ∧
  (∀ (s : State) (d : Fin 16), ¬(d = 2 ∨ d = 5 ∨ d = 6 ∨ d = 7) → exec (.domainSourceLoss d) s = .next s) ∧
  (∀ s : State, s.u Obj.CLOCKS.UNCLEAN + 4 < 2 ^ 32 →
    ∃ u : State, exec .rootStop s = .next u ∧ u.clk.stopped = true ∧ u.clkFlag Bit.CLOCKS.FLAGS.LOCKED = false ∧ u.u Obj.CLOCKS.UNCLEAN = s.u Obj.CLOCKS.UNCLEAN + 4 ∧
      (∀ d : Fin 16, (d = 2 ∨ d = 5 ∨ d = 6 ∨ d = 7) → u.clk.onBypass[d] = true) ∧ u.ep = s.ep ∧ u.mem = s.mem ∧ u.stalls = s.stalls))

/-- R291, R292: XTAL_TRIM learns a sixteenth of the mean correction of its interval, within its range; the daily save gives AGE_RATE, and AGE_ALERT above 0.5
parts in 10⁶. -/
def Obligations.AgeingOfTheCrystal : Prop :=
  (∀ s : State, s.u Obj.CLOCKS.AGE_LEARN ≠ 1 →
    exec .ageLearnTick s = .next { s with clk := { s.clk with adjSum := 0, adjSince := s.now, adjStart := s.now } }) ∧
  (∀ s : State, s.u Obj.CLOCKS.AGE_LEARN = 1 → s.u Obj.CLOCKS.REF_IN_USE = 1 → (s.u Obj.EPOCH.SOURCE = 1 ∨ s.u Obj.EPOCH.SOURCE = 2 ∨ s.u Obj.EPOCH.SOURCE = 3) →
    s.clk.adjStart < s.now →
    ∃ u : State, exec .ageLearnTick s = .next u ∧ u.clk.adjSum = 0 ∧ u.clk.adjStart = s.now ∧
      u.i Obj.CLOCKS.XTAL_TRIM = max (-50000000) (min 50000000 (s.i Obj.CLOCKS.XTAL_TRIM +
        freeRound (s.clk.adjSum + s.i Obj.EPOCH.FREQ_ADJ * ((s.now : Int) - s.clk.adjSince)) (16 * ((s.now : Int) - s.clk.adjStart)))) ∧
      onlyRegs { s with clk := u.clk } u [Obj.CLOCKS.XTAL_TRIM, Obj.FLASH.PENDING]) ∧
  (∀ s : State, (s.i Obj.CLOCKS.XTAL_TRIM - s.clk.trimDaily).natAbs ≤ 500000 →
    ∃ u : State, exec .xtalTrimSave s = .next u ∧ u.i Obj.CLOCKS.AGE_RATE = s.i Obj.CLOCKS.XTAL_TRIM - s.clk.trimDaily ∧
      u.clk = { s.clk with trimDaily := s.i Obj.CLOCKS.XTAL_TRIM } ∧ u.bit Obj.FLASH.PENDING 0 = true ∧
      onlyRegs { s with clk := u.clk } u [Obj.CLOCKS.AGE_RATE, Obj.FLASH.PENDING]) ∧
  (∀ s : State, 500000 < (s.i Obj.CLOCKS.XTAL_TRIM - s.clk.trimDaily).natAbs →
    ∃ u : State, exec .xtalTrimSave s = .next (u.logEvent Obj.CLOCKS.FLAGS Bit.CLOCKS.FLAGS.AGE_ALERT 13) ∧
      u.clk = { s.clk with trimDaily := s.i Obj.CLOCKS.XTAL_TRIM } ∧ u.bit Obj.FLASH.PENDING 0 = true ∧
      onlyRegs { s with clk := u.clk } u [Obj.CLOCKS.AGE_RATE, Obj.FLASH.PENDING])

/-! ## The time-interval unit (spec/09) -/

/-- R304, R307, R309, R310, R312, R313: an edge in a channel's dead time only counts; another one is stamped, to a whole cycle while the PLL is not
LOCKED, goes in stamp order to the units that run and name its channel, with the ticks the corrector had made at its stamp, and then to the
channel's consumer: a port, the epoch discipline, the mains tracker, or a link. R308: a raw edge of the encoder's channels waits until the filter
accepts its level, which gives it LAST and EVENTS; a bounce counts nowhere. -/
def Obligations.Stamps : Prop :=
  (∀ (s : State) (ch : Fin 21) (stamp : Stamp) (l : Int), s.tdc.lastEdge[ch] = some l → l ≤ stamp → (stamp : Int) < l + 2048 →
    (¬(10 ≤ ch.val ∧ ch.val < 13) → exec (.tdcStamp ch stamp) s = .next (s.bump (Obj.CHANNEL.DEAD_MISS ch))) ∧
    (10 ≤ ch.val ∧ ch.val < 13 → s.u (Obj.CHANNEL.DEAD_MISS ch) + 1 < 2 ^ 32 →
      ∃ u : State, exec (.tdcStamp ch stamp) s = .next u ∧ u.u (Obj.CHANNEL.DEAD_MISS ch) = s.u (Obj.CHANNEL.DEAD_MISS ch) + 1 ∧
        u.tdc.raw = s.tdc.raw ∧ onlyRegs { s with tdc := u.tdc } u [Obj.CHANNEL.DEAD_MISS ch])) ∧
  (∀ (s : State) (ch : Fin 21) (stamp st : Stamp), ¬(10 ≤ ch.val ∧ ch.val < 13) →
    (∀ l : Int, s.tdc.lastEdge[ch] = some l → (stamp : Int) < l ∨ l + 2048 ≤ stamp) →
    st = (if s.u Obj.CLOCKS.PLL_STATE = 2 then stamp else stamp / 256 * 256) → s.u (Obj.CHANNEL.EVENTS ch) + 1 < 2 ^ 32 →
    s.u Obj.TDC.COARSE_STAMPS + 1 < 2 ^ 32 →
    ∃ u : State, exec (.tdcStamp ch stamp) s = .next (u.handStamp ch st) ∧ u.u (Obj.CHANNEL.LAST ch) = epochVal st ∧
      u.u (Obj.CHANNEL.EVENTS ch) = s.u (Obj.CHANNEL.EVENTS ch) + 1 ∧
      u.u Obj.TDC.COARSE_STAMPS = s.u Obj.TDC.COARSE_STAMPS + (if s.u Obj.CLOCKS.PLL_STATE = 2 then 0 else 1) ∧
      u.tdc = { s.tdc with lastEdge := s.tdc.lastEdge.set ch (some (stamp : Int)) } ∧
      (∀ k : Fin 8, u.units[k] = if s.u (Obj.MEASURE.ENABLE k) = 1 ∧ (s.u (Obj.MEASURE.START k) = ch.val ∨ s.u (Obj.MEASURE.STOP k) = ch.val) then
        { s.units[k] with events := insertEvent ⟨s.u (Obj.MEASURE.START k) == ch.val, s.u (Obj.MEASURE.STOP k) == ch.val, st, s.correctedAt stamp,
          s.u Obj.CLOCKS.PLL_STATE != 2⟩ s.units[k].events } else s.units[k]) ∧
      onlyRegs { s with units := u.units, tdc := u.tdc } u [Obj.CHANNEL.LAST ch, Obj.CHANNEL.EVENTS ch, Obj.TDC.COARSE_STAMPS]) ∧
  (∀ (s : State) (ch : Fin 21) (stamp : Stamp), 10 ≤ ch.val → ch.val < 13 →
    (∀ l : Int, s.tdc.lastEdge[ch] = some l → (stamp : Int) < l ∨ l + 2048 ≤ stamp) →
    ∃ u : State, exec (.tdcStamp ch stamp) s = .next u ∧ u = { s with tdc := u.tdc } ∧
      u.tdc.lastEdge = s.tdc.lastEdge.set ch (some (stamp : Int)) ∧ u.tdc.levels = s.tdc.levels.set ch (ch.val == 12 || !s.tdc.levels[ch]) ∧
      rawOf u ch (ch.val == 12 || !s.tdc.levels[ch]) = some ⟨ch, ch.val == 12 || !s.tdc.levels[ch],
        if s.u Obj.CLOCKS.PLL_STATE = 2 then stamp else stamp / 256 * 256, s.correctedAt stamp, s.u Obj.CLOCKS.PLL_STATE != 2⟩) ∧
  (∀ (s : State) (ch : Fin 21) (level : Bool) (e : RawEdge), rawOf s ch level = some e → s.u (Obj.CHANNEL.EVENTS ch) + 1 < 2 ^ 32 →
    (s.acceptEdge ch level).u (Obj.CHANNEL.LAST ch) = epochVal e.stamp ∧
    (s.acceptEdge ch level).u (Obj.CHANNEL.EVENTS ch) = s.u (Obj.CHANNEL.EVENTS ch) + 1 ∧
    (∀ l : Bool, rawOf (s.acceptEdge ch level) ch l = none)) ∧
  (∀ (s : State) (ch : Fin 21) (level : Bool), rawOf s ch level = none → s.acceptEdge ch level = s) ∧
  (∀ (s : State) (n : Port) (st : Stamp), s.handStamp ⟨n.val, by omega⟩ st = s.monEdge n st) ∧
  (∀ (s : State) (st : Stamp), s.handStamp 8 st = s.ppsEdge st ∧ s.handStamp 9 st = s.mainsEdge st) ∧
  (∀ (s : State) (ch : Fin 21) (st : Stamp), ch = 10 ∨ ch = 11 ∨ ch = 12 → s.handStamp ch st = s) ∧
  (∀ (s : State) (k : Fin 4) (st : Stamp), (linkUp s k = true → s.handStamp ⟨13 + k.val, by omega⟩ st = s.sendTime k st) ∧
    (linkUp s k = false → s.handStamp ⟨13 + k.val, by omega⟩ st = s) ∧
    s.handStamp ⟨17 + k.val, by omega⟩ st = s.modLink k (fun x => { x with marker := st }))

/-- R312, R315, R316, R317: the earliest event of a unit, held 64 ns, is paired by its MODE within PAIR_WIN, or is itself a start and a stop; held stops and a
start whose PAIR_WIN has passed leave, but not while an event of that time still waits. R313, R314, R318: a pair adds its interval to the block, and the block
of N intervals is written out. -/
def Obligations.PairingAndIntervals : Prop :=
  ((∀ (s : State) (k : Fin 8), s.units[k].events = [] → exec (.unitEvent k) s = .next s) ∧
  (∀ (s : State) (k : Fin 8) (e : UnitEv) (l : List UnitEv), s.units[k].events = e :: l → s.now * 256 < e.stamp + holdFine →
    exec (.unitEvent k) s = .next s) ∧
  (∀ (s : State) (k : Fin 8) (e : UnitEv) (l : List UnitEv), s.units[k].events = e :: l → e.stamp + holdFine ≤ s.now * 256 → e.isStart = true →
    e.isStop = true → s.units[k].start = none →
    exec (.unitEvent k) s = .next (s.modUnit k (fun m => { m with events := l, start := some (e, 0) }))) ∧
  (∀ (s : State) (k : Fin 8) (e a : UnitEv) (c : Nat) (l : List UnitEv), s.units[k].events = e :: l → e.stamp + holdFine ≤ s.now * 256 →
    e.isStart = true → e.isStop = true → s.units[k].start = some (a, c) → e.stamp ≤ a.stamp + s.u (Obj.MEASURE.PAIR_WIN k) * 256 →
    exec (.unitEvent k) s = .next (((s.modUnit k (fun m => { m with events := l })).pair k a e false).setStart k (some (e, 0)))) ∧
  (∀ (s : State) (k : Fin 8) (e : UnitEv) (l : List UnitEv), s.units[k].events = e :: l → e.stamp + holdFine ≤ s.now * 256 →
    e.isStart = true → e.isStop = false → s.u (Obj.MEASURE.MODE k) = 1 → s.units[k].start = none →
    exec (.unitEvent k) s = .next (s.modUnit k (fun m => { m with events := l, start := some (e, 0) }))) ∧
  (∀ (s : State) (k : Fin 8) (e a : UnitEv) (c : Nat) (l : List UnitEv), s.units[k].events = e :: l → e.stamp + holdFine ≤ s.now * 256 →
    e.isStart = false → s.u (Obj.MEASURE.MODE k) = 1 → s.units[k].start = some (a, c) → a.stamp ≤ e.stamp →
    e.stamp ≤ a.stamp + s.u (Obj.MEASURE.PAIR_WIN k) * 256 →
    exec (.unitEvent k) s = .next (((s.modUnit k (fun m => { m with events := l })).pair k a e false).setStart k none)) ∧
  (∀ (s : State) (k : Fin 8) (e : UnitEv) (l : List UnitEv), s.units[k].events = e :: l → e.stamp + holdFine ≤ s.now * 256 →
    e.isStart = false → s.u (Obj.MEASURE.MODE k) = 1 → s.units[k].start = none →
    exec (.unitEvent k) s = .next ((s.modUnit k (fun m => { m with events := l })).bump (Obj.MEASURE.UNPAIRED k))) ∧
  (∀ (s : State) (k : Fin 8) (e a : UnitEv) (c : Nat) (l : List UnitEv), s.units[k].events = e :: l → e.stamp + holdFine ≤ s.now * 256 →
    e.isStart = false → s.u (Obj.MEASURE.MODE k) = 0 → s.units[k].start = some (a, c) → e.stamp ≤ a.stamp + s.u (Obj.MEASURE.PAIR_WIN k) * 256 →
    c < s.u (Obj.MEASURE.STOPS_MAX k) →
    exec (.unitEvent k) s = .next (((s.modUnit k (fun m => { m with events := l })).pair k a e false).setStart k (some (a, c + 1)))) ∧
  (∀ (s : State) (k : Fin 8) (e a : UnitEv) (c : Nat) (l : List UnitEv), s.units[k].events = e :: l → e.stamp + holdFine ≤ s.now * 256 →
    e.isStart = false → s.u (Obj.MEASURE.MODE k) = 0 → s.units[k].start = some (a, c) → e.stamp ≤ a.stamp + s.u (Obj.MEASURE.PAIR_WIN k) * 256 →
    s.u (Obj.MEASURE.STOPS_MAX k) ≤ c →
    exec (.unitEvent k) s = .next ((s.modUnit k (fun m => { m with events := l })).bump (Obj.MEASURE.UNPAIRED k))) ∧
  (∀ (s : State) (k : Fin 8) (e : UnitEv) (l : List UnitEv), s.units[k].events = e :: l → e.stamp + holdFine ≤ s.now * 256 →
    e.isStart = true → e.isStop = false → s.u (Obj.MEASURE.MODE k) = 0 → s.units[k].held = [] →
    exec (.unitEvent k) s = .next (s.modUnit k (fun m => { m with events := l, start := some (e, 0) }))) ∧
  (∀ (s : State) (k : Fin 8) (e : UnitEv) (l : List UnitEv), s.units[k].events = e :: l → e.stamp + holdFine ≤ s.now * 256 →
    e.isStart = false → s.u (Obj.MEASURE.MODE k) = 0 → s.units[k].start = none →
    exec (.unitEvent k) s = .next (s.modUnit k (fun m => { m with events := l, held := m.held ++ [e] }))) ∧
  (∀ (s : State) (k : Fin 8), (∀ e ∈ s.units[k].held, s.now * 256 ≤ e.stamp + s.u (Obj.MEASURE.PAIR_WIN k) * 256) → s.units[k].start = none →
    exec (.pairWinExpiry k) s = .next s) ∧
  (∀ (s : State) (k : Fin 8) (a : UnitEv) (c : Nat), s.units[k].held = [] → s.units[k].start = some (a, c) → a.isStop = false →
    a.stamp + s.u (Obj.MEASURE.PAIR_WIN k) * 256 < s.now * 256 → s.u (Obj.MEASURE.MODE k) = 1 →
    ((∀ v ∈ s.units[k].events, a.stamp + s.u (Obj.MEASURE.PAIR_WIN k) * 256 < v.stamp) →
      exec (.pairWinExpiry k) s = .next ((s.bump (Obj.MEASURE.TIMEOUTS k)).setStart k none)) ∧
    ((∃ v ∈ s.units[k].events, v.stamp ≤ a.stamp + s.u (Obj.MEASURE.PAIR_WIN k) * 256) → exec (.pairWinExpiry k) s = .next s)) ∧
  (∀ (s : State) (k : Fin 8) (a : UnitEv) (c : Nat), s.units[k].held = [] → s.units[k].start = some (a, c) → a.isStart = true → a.isStop = true →
    a.stamp + s.u (Obj.MEASURE.PAIR_WIN k) * 256 < s.now * 256 →
    (∀ v ∈ s.units[k].events, a.stamp + s.u (Obj.MEASURE.PAIR_WIN k) * 256 < v.stamp) →
    exec (.pairWinExpiry k) s = .next ((s.bump (Obj.MEASURE.TIMEOUTS k)).setStart k none)) ∧
  (∀ (s : State) (k : Fin 8) (h : UnitEv), s.units[k].held = [h] → s.units[k].start = none → s.units[k].events = [] →
    h.stamp + s.u (Obj.MEASURE.PAIR_WIN k) * 256 < s.now * 256 →
    exec (.pairWinExpiry k) s = .next ((s.modUnit k (fun m => { m with held := [] })).add (Obj.MEASURE.UNPAIRED k) 1))) ∧
  ((∀ (s : State) (k : Fin 8) (a b : UnitEv) (rev : Bool) (x : Int), x = (b.stamp : Int) - a.stamp -
      (if s.u (Obj.MEASURE.SCALE k) = 0 then (b.corr - a.corr) * 256 else 0) → s.units[k].count + 1 < s.u (Obj.MEASURE.N k) →
    s.units[k].count + 1 < 2 ^ 32 → s.u (Obj.MEASURE.PAIRED k) + 1 < 2 ^ 32 → -(2 ^ 63) ≤ x → x < 2 ^ 63 →
    ∃ u : State, s.pair k a b rev = u ∧ u.units[k].sum = s.units[k].sum + x ∧ u.units[k].sumSq = s.units[k].sumSq + x.natAbs ^ 2 ∧
      u.units[k].count = s.units[k].count + 1 ∧ u.units[k].lo = (if s.units[k].count = 0 then x else min s.units[k].lo x) ∧
      u.units[k].hi = (if s.units[k].count = 0 then x else max s.units[k].hi x) ∧ u.i (Obj.MEASURE.LAST k) = x ∧
      u.u (Obj.MEASURE.PAIRED k) = s.u (Obj.MEASURE.PAIRED k) + 1 ∧ u.u (Obj.MEASURE.PROGRESS k) = s.units[k].count + 1 ∧
      (rev = true → u.bit (Obj.MEASURE.MFLAGS k) 1 = true) ∧ (x = 0 → u.bit (Obj.MEASURE.MFLAGS k) 0 = true) ∧
      ((a.coarse || b.coarse) = true → u.bit (Obj.MEASURE.MFLAGS k) 4 = true) ∧
      onlyRegs { s with units := u.units } u [Obj.MEASURE.LAST k, Obj.MEASURE.PAIRED k, Obj.MEASURE.MFLAGS k, Obj.MEASURE.PROGRESS k]) ∧
  (∀ (s : State) (k : Fin 8), s.u (Obj.MEASURE.N k) ≤ s.units[k].count → s.u (Obj.MEASURE.BLOCKS k) + 1 < 2 ^ 32 →
    -(2 ^ 63) ≤ roundEven ((s.units[k].sum : Rat) * 256 / s.units[k].count) → roundEven ((s.units[k].sum : Rat) * 256 / s.units[k].count) < 2 ^ 63 →
    ∃ u : State, s.closeBlock k = u ∧ u.i (Obj.MEASURE.MEAN k) = roundEven ((s.units[k].sum : Rat) * 256 / s.units[k].count) ∧
      u.u (Obj.MEASURE.BFLAGS k) = s.units[k].flags.toNat ∧ u.u (Obj.MEASURE.BLOCKS k) = s.u (Obj.MEASURE.BLOCKS k) + 1 ∧
      u.u (Obj.MEASURE.PROGRESS k) = 0 ∧ u.units[k] = { s.units[k] with sum := 0, sumSq := 0, lo := 0, hi := 0, count := 0, flags := 0 } ∧
      (s.units[k].count = 1 → u.u (Obj.MEASURE.STDEV k) = 0) ∧
      onlyRegs { s with units := u.units } u [Obj.MEASURE.MEAN k, Obj.MEASURE.STDEV k, Obj.MEASURE.MIN k, Obj.MEASURE.MAX k, Obj.MEASURE.BFLAGS k,
        Obj.MEASURE.BLOCKS k, Obj.MEASURE.PROGRESS k]))

/-! ## Memory (spec/10) -/

/-- R322, R323, R324, R344: a word the scrubber reads, with its bits in error: as the code decodes it, one bit is corrected and counts where it
lies, an uncorrectable word is poisoned and recorded; the poison pattern counts as seen. R332, R333, R334, R335, R336, R342: a lane repair begins on the lowest free spare, passes over the channel and ends at a refresh; a second's counts
repair a lane and set a channel fault; tracking and calibration of the interface change nothing of the Ledger's. -/
def Obligations.BadWordsAndLaneRepair : Prop :=
  ((∀ (s : State) (a : Nat) (e : BitVec 137), holderOf s a = none → exec (.scrub a e) s = .next s) ∧
  (∀ (s : State) (a : Nat) (h : Holder), holderOf s a = some h → flipAt s.flips a = none →
    (h.bad = false → exec (.scrub a 0) s = .next s) ∧
    (h.bad = true → exec (.scrub a 0) s = .next (s.bump Obj.MEMORY.POISON_SEEN)) ∧
    (∀ (e : BitVec 137) (d : BitVec 128), e ≠ 0 → decodeWord (storedWord h.word h.bad e) = .single d →
      exec (.scrub a e) s = .next ((h.put d false s).countSingle a)) ∧
    (∀ (e : BitVec 137) (y : BitVec 9), e ≠ 0 → decodeWord (storedWord h.word h.bad e) = .bad y →
      exec (.scrub a e) s = .next ((h.put (h.word ^^^ e.setWidth 128) true (if y = 3 then s.bump Obj.MEMORY.POISON_SEEN else s)).countUncorr a y))) ∧
  (∀ (s : State) (t : StallId) (a : Nat), a < 0x38000 → holderOf s (stallData t + a) = some (plainHolder s (stallData t + a))) ∧
  (∀ (s : State) (a : Nat), a < 32 * 2 ^ 20 → s.countSingle a = s.bump Obj.MEMORY.YARD_CE) ∧
  (∀ (s : State) (t : StallId) (a : Nat), a < 0x38000 → s.countSingle (stallData t + a) = s.bump Obj.MEMORY.SRAM_CE) ∧
  (∀ (s : State) (a : Nat), a < s.u (Obj.DRAM_CHANNEL.CAPACITY 0) + s.u (Obj.DRAM_CHANNEL.CAPACITY 1) →
    s.countSingle (dramBase + a) = s.bump (Obj.DRAM_CHANNEL.CE (a / 256 % 2))) ∧
  (∀ (s : State) (a b : Nat) (d : BitVec 128), ((plainHolder s a).put d true s).poisoned a = true ∧
    (b / 16 ≠ a / 16 → ((plainHolder s a).put d true s).poisoned b = s.poisoned b) ∧ ((plainHolder s a).put d true s).regs = s.regs) ∧
  (∀ (s : State) (a : Nat), s.countUncorr a 3 = s) ∧
  (∀ (s : State) (t : StallId) (a : Nat) (y : BitVec 9), y ≠ 3 → a < 0x38000 → s.u Obj.MEMORY.UNCORR + 1 < 2 ^ 32 →
    ∃ u : State, s.countUncorr (stallData t + a) y = u ∧ u.u Obj.MEMORY.UNCORR = s.u Obj.MEMORY.UNCORR + 1 ∧
      u.u Obj.MEMORY.LAST_UNCORR = (stallData t + a) / 16 * 16 ∧ u.bit Obj.MEMORY.FLAGS Bit.MEMORY.FLAGS.UNCORR = true ∧
      onlyRegs s u [Obj.MEMORY.UNCORR, Obj.MEMORY.LAST_UNCORR, Obj.MEMORY.FLAGS])) ∧
  ((∀ (s : State) (c : Fin 2) (lane k : Nat), s.dram[c].repair = none → freeSpare s c = some k →
    ∃ u : State, repairEff s c lane = u ∧ u.dram[c] = { s.dram[c] with repair := some ⟨lane, k, s.now⟩ } ∧ u.u (Obj.DRAM_CHANNEL.STATE c) = 2 ∧
      u.u (Obj.DRAM_CHANNEL.PROGRESS c) = 0 ∧ u.bit Obj.MEMORY.FLAGS Bit.MEMORY.FLAGS.REPAIR_ACTIVE = true ∧
      onlyRegs { s with dram := u.dram } u [Obj.DRAM_CHANNEL.STATE c, Obj.DRAM_CHANNEL.PROGRESS c, Obj.MEMORY.FLAGS]) ∧
  (∀ (s : State) (c : Fin 2) (lane : Nat), s.dram[c].repair ≠ none →
    repairEff s c lane = s.modDram c (fun d => { d with waiting := d.waiting ++ [lane] })) ∧
  (∀ (s : State) (c : Fin 2) (p : RepairPart), s.dram[c].repair = some p →
    (s.dram[c].waiting = [] →
      ∃ u : State, exec (.repairPassEnd c) s = .next u ∧ u.dram[c] = { s.dram[c] with repair := none, passed := s.dram[c].passed ++ [p] } ∧
        onlyRegs { s with dram := u.dram } u [Obj.DRAM_CHANNEL.PROGRESS c]) ∧
    (∀ (l : Nat) (rest : List Nat), s.dram[c].waiting = l :: rest →
      exec (.repairPassEnd c) s = .next (((s.modDram c (fun d => { d with repair := none, waiting := rest, passed := d.passed ++ [p] })).put
        (Obj.DRAM_CHANNEL.PROGRESS c) (Config.beyond 65536)).startRepair c l))) ∧
  (∀ (s : State) (c : Fin 2), s.dram[c].repair = none → exec (.repairPassEnd c) s = .next s) ∧
  (∀ (s : State) (c : Fin 2), s.dram[c].passed = [] → exec (.dramRefresh c) s = .next s) ∧
  (∀ (s : State) (c : Fin 2) (lane : Nat), s.dram[c].failed = true ∨ s.dram[c].trained = false → repairRefusal s c lane = 0x0601) ∧
  (∀ (s : State) (c : Fin 2) (p : RepairPart), s.dram[c].repair = none → s.dram[c].passed = [p] → p.spare < 7 → p.lane < 256 →
    spareLane s c p.spare = 0xFF → s.u (Obj.DRAM_CHANNEL.REPAIRS c) + 1 < 2 ^ 32 → 0 < s.u (Obj.DRAM_CHANNEL.SPARES_FREE c) →
    s.u (Obj.DRAM_CHANNEL.SPARES_FREE c) < 2 ^ 8 → s.u (Obj.DRAM_CHANNEL.REPAIR_MAP c) < 2 ^ 64 →
    ∃ (u : State) (e : Ev), exec (.dramRefresh c) s = .next (u.log e) ∧ e.sub = 9 ∧ u.dram[c] = { s.dram[c] with passed := [] } ∧ spareLane u c p.spare = p.lane ∧
      (∀ k : Nat, k < 7 → k ≠ p.spare → spareLane u c k = spareLane s c k) ∧
      u.u (Obj.DRAM_CHANNEL.SPARES_FREE c) = s.u (Obj.DRAM_CHANNEL.SPARES_FREE c) - 1 ∧
      u.u (Obj.DRAM_CHANNEL.REPAIRS c) = s.u (Obj.DRAM_CHANNEL.REPAIRS c) + 1 ∧
      u.u (Obj.DRAM_CHANNEL.STATE c) = (if s.u (Obj.DRAM_CHANNEL.SPARES_FREE c) = 1 then 3 else 1) ∧
      (s.u (Obj.DRAM_CHANNEL.SPARES_FREE c) = 1 → u.bit Obj.MEMORY.FLAGS Bit.MEMORY.FLAGS.SPARES_LOW = true) ∧
      onlyRegs { s with dram := u.dram } u [Obj.DRAM_CHANNEL.REPAIR_MAP c, Obj.DRAM_CHANNEL.SPARES_FREE c, Obj.DRAM_CHANNEL.REPAIRS c,
        Obj.DRAM_CHANNEL.STATE c, Obj.MEMORY.FLAGS]) ∧
  (∀ (s : State) (c : Fin 2) (counts : List Nat) (bad : Nat), bad ≤ 1024 → (∀ n ∈ counts, n < s.u (Obj.DRAM_CHANNEL.LANE_CE_MAX c)) →
    exec (.channelSecond c counts bad) s = .next (s.put (Obj.DRAM_CHANNEL.WORST_LANE c) (worstLane (counts.take 144)))) ∧
  (∀ (s : State) (c : Fin 2) (counts : List Nat) (bad : Nat), 1024 < bad → (∀ n ∈ counts, n < s.u (Obj.DRAM_CHANNEL.LANE_CE_MAX c)) →
    exec (.channelSecond c counts bad) s = .next ((s.put (Obj.DRAM_CHANNEL.WORST_LANE c) (worstLane (counts.take 144))).logFlag Obj.MEMORY.FLAGS
      (if c = 0 then Bit.MEMORY.FLAGS.CH_FAULT_M0 else Bit.MEMORY.FLAGS.CH_FAULT_M1) true 9 c true)) ∧
  (∀ (s : State) (c : Fin 2) (n lane : Nat), s.u (Obj.DRAM_CHANNEL.LANE_CE_MAX c) ≤ n → repairRefusal s c lane = 0 →
    s.laneSecond c (n, lane) = repairEff s c lane) ∧
  (∀ (s : State) (c : Fin 2), exec (.timingTracking c) s = .next s ∧ exec (.zqCalibration c) s = .next s) ∧
  (∀ (s : State) (x : Fin 9), ∃ u : State, s.peerReset [x.val] = u ∧ u.bit Obj.CROSSINGS.PEER_RESET x = true ∧ u.fresh = s.fresh + 1 ∧
    onlyRegs { s with fresh := u.fresh } u [Obj.CROSSINGS.PEER_RESET, Obj.CROSSINGS.DRAINED x]) ∧
  (∀ (s : State) (x : Fin 9), exec (.peerResetClear x) s = .next ((s.clrBit Obj.CROSSINGS.PEER_RESET x).offerAgain x)) ∧
  (∀ (s : State) (x : Fin 9), x ≠ 4 → x ≠ 6 → x ≠ 7 → ∃ u : State, exec (.peerResetClear x) s = .next u ∧ refuses u x = false ∧
    (∀ y : Nat, y < 32 → y ≠ x.val → u.bit Obj.CROSSINGS.PEER_RESET y = s.bit Obj.CROSSINGS.PEER_RESET y) ∧ onlyRegs s u [Obj.CROSSINGS.PEER_RESET]))

/-! ## Ethernet and PTP (spec/11) -/

/-- R345, R346, R347, R348, R349, R342: link start-up, a link's rise and fall, which discards what waited to leave, the PRP pair, and the frames a
port answers; a frame waits while the crossing to the SerDes refuses items. -/
def Obligations.EthernetPorts : Prop :=
  (∀ (s : State) (p : Fin 4), netUp s = true → s.eth[p].up = false → s.eth[p].anRunning = true →
    exec (.anTimeout p) s = .next (s.modEth p (fun e => { e with anRunning := false, trying := (rateOrder s p).headD 0 }))) ∧
  (∀ (s : State) (p : Fin 4), s.eth[p].up = true → exec (.anTimeout p) s = .next s ∧ exec (.rateTryTimeout p) s = .next s ∧ exec (.linkUp p) s = .next s) ∧
  (∀ (s : State) (p : Fin 4) (rate fec : BitVec 8), netUp s = true → s.eth[p].up = false → s.eth[p].anRunning = true → (rate = 2 ∨ rate = 3) →
    rate.toNat ∈ allowedRates s p →
    ∃ u : State, exec (.anDone p rate fec) s = .next u ∧
      u.eth = s.eth.set p { s.eth[p] with anRunning := false, trying := rate.toNat, viaAn := true, fec := fec.toNat } ∧
      u.bit (Obj.ETH_PORT.FLAGS p) Bit.ETH_PORT.FLAGS.AN_DONE = true ∧ onlyRegs { s with eth := u.eth } u [Obj.ETH_PORT.FLAGS p]) ∧
  (∀ (s : State) (p : Fin 4) (r : Nat), netUp s = true → s.eth[p].up = false → s.eth[p].anRunning = false → s.eth[p].viaAn = false →
    rateAfter (rateOrder s p) s.eth[p].trying = some r → exec (.rateTryTimeout p) s = .next (s.modEth p (fun x => { x with trying := r }))) ∧
  (∀ (s : State) (p : Fin 4), netUp s = true → s.eth[p].up = false → s.eth[p].anRunning = false → s.eth[p].viaAn = false →
    rateAfter (rateOrder s p) s.eth[p].trying = none → exec (.rateTryTimeout p) s = .next (s.startUp p)) ∧
  (∀ (s : State) (p : Fin 4), ∃ u : State, s.startUp p = u ∧ u.eth[p].up = false ∧ u.eth[p].anRunning = (s.u (Obj.ETH_PORT.AN_EN p) == 1) ∧
    (s.u (Obj.ETH_PORT.AN_EN p) ≠ 1 → u.eth[p].trying = (rateOrder s p).headD 0) ∧ u.u (Obj.ETH_PORT.RATE p) = 0 ∧
    u.bit (Obj.ETH_PORT.FLAGS p) Bit.ETH_PORT.FLAGS.LINK = false ∧
    onlyRegs { s with eth := u.eth } u [Obj.ETH_PORT.RATE p, Obj.ETH_PORT.FEC_USED p, Obj.ETH_PORT.FLAGS p]) ∧
  (∀ (s : State) (p : Fin 4), netUp s = true → s.eth[p].up = false → s.eth[p].anRunning = false → 0 < s.eth[p].trying → s.eth[p].trying < 4 →
    ∃ u : State, exec (.linkUp p) s = .next (u.pathFlag p) ∧ u.eth = s.eth.set p { s.eth[p] with up := true, lastUp := s.eth[p].trying, silent := false } ∧
      u.u (Obj.ETH_PORT.RATE p) = s.eth[p].trying ∧ u.bit (Obj.ETH_PORT.FLAGS p) Bit.ETH_PORT.FLAGS.LINK = true ∧
      (s.eth[p].trying = 1 → u.u (Obj.ETH_PORT.FEC_USED p) = 0) ∧
      onlyRegs { s with eth := u.eth } u [Obj.ETH_PORT.RATE p, Obj.ETH_PORT.FEC_USED p, Obj.ETH_PORT.FLAGS p]) ∧
  (∀ (s : State) (p : Fin 4), s.eth[p].up = true → s.u (Obj.ETH_PORT.LINK_DOWNS p) + 1 < 2 ^ 32 →
    ∃ u : State, exec (.linkDown p) s = .next (u.pathFlag p) ∧ u.eth[p].up = false ∧ u.u (Obj.ETH_PORT.RATE p) = 0 ∧
      u.bit (Obj.ETH_PORT.FLAGS p) Bit.ETH_PORT.FLAGS.LINK = false ∧ u.bit (Obj.ETH_PORT.FLAGS p) Bit.ETH_PORT.FLAGS.LINK_LOST = true ∧
      u.u (Obj.ETH_PORT.LINK_DOWNS p) = s.u (Obj.ETH_PORT.LINK_DOWNS p) + 1 ∧ (∀ h ∈ u.netHeld, p ∉ h.ports) ∧ u.streams = s.streams ∧ u.mem = s.mem) ∧
  (∀ (s : State) (p : Fin 4), s.eth[p].up = false → exec (.linkDown p) s = .next s) ∧
  (∀ (s : State) (ps : List (Fin 4)) (o : Out), ps ≠ [] →
    (refuses s 6 = true → s.leave ps o = { s with netHeld := s.netHeld ++ [⟨ps, o⟩] }) ∧
    (refuses s 6 = false → s.leave ps o = (ps.foldl (fun t q => t.bump (Obj.ETH_PORT.TX_FRAMES q)) s).emit o)) ∧
  (∀ (s : State) (k : Fin 2), s.u (Obj.INTERFACE.PRP_MODE k) ≠ 1 → exec (.prpSupervision k) s = .next s) ∧
  (∀ (s : State) (k : Fin 2) (p q : Fin 4), p.val = 2 * k.val → q.val = 2 * k.val + 1 → s.u (Obj.INTERFACE.PRP_MODE k) = 1 →
    s.eth[p].up = true → s.eth[q].up = true → refuses s 6 = false →
    ∃ u : State, exec (.prpSupervision k) s = .next u ∧
      u.out = s.out ++ [.eth p 0x88FB (net 6 (portMac s p)) none, .eth q 0x88FB (net 6 (portMac s q)) none] ∧
      onlyRegs { s with out := u.out } u [Obj.ETH_PORT.TX_FRAMES p, Obj.ETH_PORT.TX_FRAMES q]) ∧
  (∀ (s : State) (p : Fin 4) (f : PrpTrailer), (s.u (Obj.INTERFACE.PRP_MODE (p.val / 2)) ≠ 1 ∨ s.eth[p].up = false) → exec (.prpDuplicate p f) s = .next s) ∧
  (∀ (s t : State) (p : Fin 4) (f : PrpTrailer), s.u (Obj.INTERFACE.PRP_MODE (p.val / 2)) = 1 → s.eth[p].up = true →
    t = ((if f.lan = lanOf p then s else s.setBit (Obj.INTERFACE.PRP_FLAGS (p.val / 2)) Bit.INTERFACE.PRP_FLAGS.WRONG_LAN).modEth p
      (fun e => { e with silent := false })).pathFlag p →
    ((∃ e ∈ s.eth[firstPort p].seen, s.now < e.2 + 1280000000 ∧ e.1.src = f.src ∧ e.1.seq = f.seq) →
      exec (.prpDuplicate p f) s = .next ((t.bump (Obj.ETH_PORT.RX_FRAMES p)).bump (Obj.INTERFACE.PRP_DUP (p.val / 2)))) ∧
    ((∀ e ∈ s.eth[firstPort p].seen, s.now < e.2 + 1280000000 → ¬(e.1.src = f.src ∧ e.1.seq = f.seq)) →
      exec (.prpDuplicate p f) s = .next (t.modEth (firstPort p) (fun e => { e with seen :=
        ((f, (s.now : Int)) :: s.eth[firstPort p].seen.filter (fun x => decide (s.now < x.2 + 1280000000))).take 4096 })))) ∧
  (∀ (s : State) (p : Fin 4), s.u (Obj.INTERFACE.PRP_MODE (p.val / 2)) = 1 →
    exec (.prpPathTimeout p) s = .next ((s.modEth p (fun e => { e with silent := true })).pathFlag p)) ∧
  (∀ (s : State) (p : Fin 4), s.u (Obj.INTERFACE.PRP_MODE (p.val / 2)) ≠ 1 → exec (.prpPathTimeout p) s = .next s) ∧
  (∀ (s : State) (k : Fin 2), exec (.ipFragment k) s = .next (s.bump (Obj.INTERFACE.DISCARDS k))) ∧
  (∀ (s : State) (p : Fin 4) (target : BitVec 32) (sender : List Byte), s.eth[p].up = true → s.u (Obj.INTERFACE.PRP_MODE (p.val / 2)) = 0 →
    refuses s 6 = false → target.toNat = portIpv4 s p → target ≠ 0 →
    exec (.arpRequest p target sender) s = .next (((s.bump (Obj.ETH_PORT.RX_FRAMES p)).bump (Obj.ETH_PORT.TX_FRAMES p)).emit (.eth p 0x0806
      (net 2 1 ++ net 2 0x0800 ++ [6, 4] ++ net 2 2 ++ net 6 (portMac s p) ++ net 4 target.toNat ++ padTo 10 sender) none))) ∧
  (∀ (s : State) (p a b : Fin 4) (target : BitVec 32) (sender : List Byte), s.u (Obj.INTERFACE.PRP_MODE (p.val / 2)) = 1 →
    a.val = 2 * (p.val / 2) → b.val = 2 * (p.val / 2) + 1 → s.eth[a].up = true → s.eth[b].up = true → refuses s 6 = false → target.toNat = portIpv4 s p → target ≠ 0 →
    ∃ (u : State) (body : List Byte), exec (.arpRequest p target sender) s = .next u ∧
      u.out = s.out ++ [.eth a 0x0806 body (some s.eth[firstPort p].prpSeq), .eth b 0x0806 body (some s.eth[firstPort p].prpSeq)] ∧
      u.eth[firstPort p].prpSeq = s.eth[firstPort p].prpSeq + 1 ∧
      onlyRegs { s with eth := u.eth, out := u.out } u [Obj.ETH_PORT.RX_FRAMES p, Obj.ETH_PORT.TX_FRAMES a, Obj.ETH_PORT.TX_FRAMES b]) ∧
  (∀ (s : State) (p : Fin 4) (target : BitVec 32) (sender : List Byte), s.eth[p].up = true → target.toNat ≠ portIpv4 s p →
    exec (.arpRequest p target sender) s = .next (s.bump (Obj.ETH_PORT.RX_FRAMES p))) ∧
  (∀ (s : State) (p : Fin 4) (target : BitVec 128) (sender : List Byte), s.eth[p].up = true → s.u (Obj.INTERFACE.PRP_MODE (p.val / 2)) = 0 →
    net 16 target.toNat = portIpv6 s p → target ≠ 0 → refuses s 6 = false →
    ∃ b : List Byte, exec (.neighborSolicitation p target sender) s =
        .next (((s.bump (Obj.ETH_PORT.RX_FRAMES p)).bump (Obj.ETH_PORT.TX_FRAMES p)).emit (.eth p 0x86DD b none)) ∧
      b.take 2 = [0x88, 0] ∧ slice b 4 4 = [0x60, 0, 0, 0] ∧ slice b 8 16 = net 16 target.toNat ∧ b.drop 24 = [2, 1] ++ net 6 (portMac s p)) ∧
  (∀ (s : State) (p : Fin 4) (code : Byte) (ck rest : List Byte), s.eth[p].up = true → s.u (Obj.INTERFACE.PRP_MODE (p.val / 2)) = 0 → ck.length = 2 →
    refuses s 6 = false →
    ∃ c : List Byte, c.length = 2 ∧ exec (.icmpEcho p (8 :: code :: ck ++ rest)) s =
        .next (((s.bump (Obj.ETH_PORT.RX_FRAMES p)).bump (Obj.ETH_PORT.TX_FRAMES p)).emit (.eth p 0x0800 (0 :: 0 :: c ++ rest) none)))

/-- R350, R351, R352: the PTP clock binds to the best master heard, is SLAVE once a path-delay measurement completes, is a source from the Sync
after it, and loses its source with the master or eight missing Syncs; messages of another domain or transport are not its own, and a delay
request leaves for each measurement. -/
def Obligations.PtpClock : Prop :=
  (∀ (s : State) (p : Fin 4) (m : PtpMaster) (o : PtpSyncMsg), s.eth[p].up = false → exec (.ptpAnnounce p m) s = .next s ∧ exec (.ptpSync p o) s = .next s) ∧
  (∀ (s : State) (p : Fin 4) (m : PtpMaster), s.eth[p].up = true → (s.u Obj.PTP.PTP_STATE = 0 ∨ s.bit Obj.EPOCH_SOURCE.PTP_PORTMASK p = false ∨
      m.domain.toNat ≠ s.u Obj.PTP.DOMAIN ∨ m.transport.toNat ≠ s.u Obj.PTP.TRANSPORT) →
    exec (.ptpAnnounce p m) s = .next (s.bump (Obj.ETH_PORT.RX_FRAMES p))) ∧
  (∀ (s : State) (p : Fin 4) (m : PtpMaster), s.eth[p].up = true → s.u Obj.PTP.PTP_STATE ≠ 0 → s.bit Obj.EPOCH_SOURCE.PTP_PORTMASK p = true →
    ptpOurs s m.domain m.transport = true → s.ptp.heard = [] → s.ptp.bound = none → s.ep.ptpUsable = false →
    ∃ u : State, exec (.ptpAnnounce p m) s = .next u ∧ u.ptp = { s.ptp with heard := [(p, m)], bound := some p, measured := false, missing := 0, sync := none } ∧
      u.u Obj.PTP.PTP_PORT = p.val ∧ u.blob Obj.PTP.MASTER_ID = net 8 m.identity.toNat ∧ u.u Obj.PTP.PTP_STATE = 2 ∧ u.ep = s.ep ∧
      regsKept s u [Obj.ETH_PORT.RX_FRAMES p, Obj.PTP.PTP_PORT, Obj.PTP.PTP_STATE]) ∧
  (∀ (a b : Fin 4 × PtpMaster), a.2.grandmaster = b.2.grandmaster → a.2.steps.toNat < b.2.steps.toNat →
    bestMaster [a, b] = some a ∧ bestMaster [b, a] = some a ∧ bestMaster [b] = some b) ∧
  (∀ (a b : Fin 4 × PtpMaster), a.2.grandmaster ≠ b.2.grandmaster →
    (a.2.priority1.toNat < b.2.priority1.toNat ∨ (a.2.priority1 = b.2.priority1 ∧ a.2.clockClass.toNat < b.2.clockClass.toNat)) →
    bestMaster [a, b] = some a ∧ bestMaster [b, a] = some a) ∧
  (∀ (a b : Fin 4 × PtpMaster), a.2 = b.2 → a.1 < b.1 → bestMaster [a, b] = some a ∧ bestMaster [b, a] = some a) ∧
  (∀ (s : State) (p : Fin 4) (m : PathDelayMsg) (d : Int), s.ptp.bound = some p →
    (s.u Obj.PTP.DELAY_MECH = 1 ∧ d = ptpTime m.back - ptpTime m.sent - scaled m.turn - m.corr ∨
      s.u Obj.PTP.DELAY_MECH ≠ 1 ∧ ∃ y : PtpSyncMsg, s.ptp.sync = some y ∧
        d = (ptpTime y.stamp - scaled y.origin - y.corr) + (scaled m.arrival - ptpTime m.sent - m.corr)) →
    exec (.pathDelayMeasurement p m) s = .next ((({ s.askDelay p with ptp := { (s.askDelay p).ptp with measured := true } }).puti Obj.PTP.MEAN_PATH_DELAY
      (freeRound (d * 125) 16384)).put Obj.PTP.PTP_STATE 3)) ∧
  (∀ (s : State) (p : Fin 4), s.eth[p].up = true → refuses s 6 = false →
    s.askDelay p = { (s.bump (Obj.ETH_PORT.TX_FRAMES p)).emit (.eth p (ptpKind s) (delayRequest s p) none) with
      ptp := { s.ptp with request := s.ptp.request + 1 } }) ∧
  (∀ (s : State) (p : Fin 4) (m : PathDelayMsg), s.ptp.bound ≠ some p → exec (.pathDelayMeasurement p m) s = .next s) ∧
  (∀ (s : State) (p : Fin 4) (m : PathDelayMsg), s.u Obj.PTP.DELAY_MECH ≠ 1 → s.ptp.sync = none → exec (.pathDelayMeasurement p m) s = .next s) ∧
  (∀ (s : State) (p : Fin 4) (m : PtpSyncMsg), s.eth[p].up = true → s.ptp.bound = some p → ptpOurs s m.domain m.transport = true →
    (s.u Obj.PTP.PTP_STATE ≠ 3 ∨ s.ptp.measured = false) →
    exec (.ptpSync p m) s = .next { s.bump (Obj.ETH_PORT.RX_FRAMES p) with ptp := { s.ptp with missing := 0, sync := some m } }) ∧
  (∀ (s : State) (p : Fin 4) (m : PtpSyncMsg) (o : Int), s.eth[p].up = true → s.ptp.bound = some p → ptpOurs s m.domain m.transport = true →
    s.u Obj.PTP.PTP_STATE = 3 → s.ptp.measured = true →
    o = psOfScaled (ptpTime m.stamp - scaled m.origin - m.corr) - s.i Obj.PTP.MEAN_PATH_DELAY - s.i Obj.PTP.ASYMMETRY →
    ∃ u : State, exec (.ptpSync p m) s = .next ((u.ppsFlag).measure 1 o) ∧ u.ep = { s.ep with ptpUsable := true, ptpOffset := o } ∧
      u.ptp = { s.ptp with missing := 0, sync := some m } ∧
      onlyRegs { s with ep := u.ep, ptp := u.ptp } u [Obj.ETH_PORT.RX_FRAMES p]) ∧
  (∀ (s : State) (p : Fin 4) (m : PtpSyncMsg), s.eth[p].up = true → ptpOurs s m.domain m.transport = false →
    exec (.ptpSync p m) s = .next (s.bump (Obj.ETH_PORT.RX_FRAMES p))) ∧
  (∀ s : State, s.ptp.bound = none → exec .announceReceiptTimeout s = .next s ∧ exec .syncMissed s = .next s) ∧
  (∀ (s : State) (p : Fin 4) (m : PtpMaster), s.ptp.bound = some p → s.ptp.heard = [(p, m)] → s.blob Obj.PTP.MASTER_ID = net 8 m.identity.toNat →
    s.u Obj.PTP.PTP_STATE ≠ 0 →
    ∃ u : State, exec .announceReceiptTimeout s = .next u ∧ u.ptp = { s.ptp with heard := [], bound := none, measured := false, missing := 0, sync := none } ∧
      u.ep = { s.ep with ptpUsable := false } ∧ u.u Obj.PTP.PTP_STATE = 1 ∧ u.u Obj.PTP.PTP_PORT = 0xFF ∧
      regsKept s u [Obj.PTP.LOSSES, Obj.PTP.PTP_PORT, Obj.PTP.PTP_STATE, Obj.EPOCH.FLAGS]) ∧
  (∀ (s : State) (p : Fin 4), s.ptp.bound = some p → s.ptp.missing < 7 →
    exec .syncMissed s = .next (({ s with ptp := { s.ptp with missing := s.ptp.missing + 1 } }).bump Obj.PTP.SYNC_MISSED)) ∧
  (∀ (s : State) (p : Fin 4), s.ptp.bound = some p → s.ptp.missing = 7 → s.ep.ptpUsable = true →
    ∃ u : State, exec .syncMissed s = .next u ∧ u.ep = { s.ep with ptpUsable := false } ∧ u.ptp = { s.ptp with missing := 8 } ∧
      onlyRegs { s with ep := u.ep, ptp := u.ptp } u [Obj.PTP.SYNC_MISSED, Obj.PTP.LOSSES, Obj.EPOCH.FLAGS])

/-! ## Streams (spec/11, spec/12) -/

/-- R359, R360, R361, R364, R406: a SUBSCRIBE on a port with link is granted the toll that fits, or refused with its code; KEEPALIVE, CREDIT and CLOSE
act on an open stream of their kind when they come from its session over its path and under its key (of a stream that the Ledger opened: from
its DEST), are violations of their sender otherwise, and wait while the sender is limited. That a TAG closes these datagrams, and who may send
them to a stream of the Ledger's, is the model's choice (log entry 123). -/
def Obligations.StreamControl : Prop :=
  (∀ (s : State) (p : Fin 4) (src : Path) (m : Haggle) (d : List Byte), s.eth[p].up = false → exec (.subscribe p src m d) s = .next s) ∧
  (∀ (s : State) (p : Fin 4) (src : Path) (m : Haggle) (d : List Byte), s.eth[p].up = true → (∀ x ∈ sourcesOf src m.session, (sourceRec s x).limited = false) →
    sessionById s m.session = none →
    exec (.subscribe p src m d) s = .next ((s.bump (Obj.ETH_PORT.RX_FRAMES p)).refuseStream src m 0x0503 0 none)) ∧
  (∀ (s t : State) (p : Fin 4) (src : Path) (m : Haggle) (d : List Byte) (x : Session) (code avail : Nat), s.eth[p].up = true →
    (∀ y ∈ sourcesOf src m.session, (sourceRec s y).limited = false) →
    t = (s.bump (Obj.ETH_PORT.RX_FRAMES p)).modSession x.id (fun y => { y with last := s.now }) →
    subscriber (s.bump (Obj.ETH_PORT.RX_FRAMES p)) src m d = some x → grantedBefore t m = none → judge t p src m x = .inr (code, avail) →
    exec (.subscribe p src m d) s = .next (t.refuseStream src m code avail (some x.id))) ∧
  (∀ (s t : State) (p : Fin 4) (src : Path) (m : Haggle) (d : List Byte) (x : Session) (k : Fin 256) (toll : Nat), s.eth[p].up = true →
    (∀ y ∈ sourcesOf src m.session, (sourceRec s y).limited = false) →
    t = (s.bump (Obj.ETH_PORT.RX_FRAMES p)).modSession x.id (fun y => { y with last := s.now }) →
    subscriber (s.bump (Obj.ETH_PORT.RX_FRAMES p)) src m d = some x → grantedBefore t m = none → judge t p src m x = .inl toll → freeStream t = some k →
    exec (.subscribe p src m d) s = .next (t.grantStream k p src m toll x)) ∧
  (∀ (s : State) (p : Nat) (src : Path) (m : Haggle) (x : Session), x.level < 1 → judge s p src m x = .inr (0x0201, 0)) ∧
  (∀ (s : State) (p : Nat) (src : Path) (m : Haggle) (x : Session), 1 ≤ x.level → haggleGood m = false → judge s p src m x = .inr (0x0302, 0)) ∧
  (∀ (s : State) (p : Nat) (src : Path) (m : Haggle) (most : Nat), most = largestToll s p 256 m.maxDgram.toNat (lineOverhead (net 16 (destOf src m).toNat)) →
    (most < m.toll.toNat → most < m.tollMin.toNat → grant s p src m = .inr (0x0601, most)) ∧
    ((m.toll.toNat ≤ most ∨ m.tollMin.toNat ≤ most) → freeStream s ≠ none → queuesFit s 256 (min m.toll.toNat most) 20 = true →
      grant s p src m = .inl (min m.toll.toNat most))) ∧
  (∀ (s : State) (src : Path) (k : Fin 256) (req : BitVec 32) (n : BitVec 16) (d : List Byte),
    (∃ x ∈ sourcesOf src (controlSession s k), s.served x = false) →
    exec (.streamKeepalive src k req d) s = .next s ∧ exec (.credit src k n d) s = .next s ∧ exec (.streamClose src k d) s = .next s) ∧
  (∀ (s : State) (src : Path) (k : Fin 256) (req : BitVec 32) (n : BitVec 16) (d : List Byte) (y : Session),
    (∀ x ∈ sourcesOf src (controlSession s k), (sourceRec s x).limited = false) → s.streams[k].bySubscribe = true → controller s k src d = some (some y) →
    (s.streams[k].req = req → exec (.streamKeepalive src k req d) s = .next (s.modSession y.id (fun w => { w with last := s.now }))) ∧
    (s.streams[k].req ≠ req → exec (.streamKeepalive src k req d) s = .next (s.violate 15 src none 0)) ∧
    exec (.credit src k n d) s = .next ((s.modSession y.id (fun w => { w with last := s.now })).modStream k (fun x =>
      { x with credit := min 65535 (x.credit + n.toNat) })) ∧
    exec (.streamClose src k d) s = .next ((s.modSession y.id (fun w => { w with last := s.now })).endStream k)) ∧
  (∀ (s : State) (src : Path) (k : Fin 256) (req : BitVec 32) (n : BitVec 16) (d : List Byte),
    (∀ x ∈ sourcesOf src (controlSession s k), (sourceRec s x).limited = false) → s.streams[k].bySubscribe = false → controller s k src d = some none →
    exec (.credit src k n d) s = .next (s.modStream k (fun x => { x with credit := min 65535 (x.credit + n.toNat) })) ∧
    exec (.streamKeepalive src k req d) s = .next (s.violate 15 src none 0) ∧ exec (.streamClose src k d) s = .next (s.violate 15 src none 0)) ∧
  (∀ (s : State) (src : Path) (k : Fin 256) (req : BitVec 32) (n : BitVec 16) (d : List Byte),
    (∀ x ∈ sourcesOf src (controlSession s k), (sourceRec s x).limited = false) → controller s k src d = none →
    exec (.streamKeepalive src k req d) s = .next (s.violate 15 src none 0) ∧ exec (.credit src k n d) s = .next (s.violate 15 src none 0) ∧
    exec (.streamClose src k d) s = .next (s.violate 15 src none 0)) ∧
  (∀ (s : State) (k : Fin 256) (src : Path) (d : List Byte), (s.streams[k].isOpen = false → controller s k src d = none) ∧
    (∀ y : Session, s.streams[k].isOpen = true → s.streams[k].bySubscribe = true → sessionById s s.streams[k].session = some y →
      controller s k src d = if y.path.same src && y.authed && dgramTag y (d.take (d.length - 16)) == d.drop (d.length - 16) then some (some y) else none) ∧
    (∀ (a : BitVec 128) (q : BitVec 16) (p : Fin 4), s.streams[k].isOpen = true → s.streams[k].bySubscribe = false → src = .udp a q p →
      controller s k src d = if net 16 a.toNat == padTo 16 (s.blob (Obj.STREAM.DEST k)) then some none else none)) ∧
  (∀ (s : State) (k : Fin 256), s.streams[k].isOpen = true → s.endStream k = (s.closeStream k).mirrorStream k) ∧
  (∀ (s : State) (k : Fin 256), s.streams[k].isOpen = true → s.u (Obj.STREAM.LEASE k) ≠ 0 → exec (.leaseExpiry k) s = .next ((s.closeStream k).mirrorStream k)) ∧
  (∀ (s : State) (k : Fin 256), s.streams[k].isOpen = false → exec (.leaseExpiry k) s = .next s) ∧
  (∀ (s : State) (k : Fin 256), s.streams[k].isOpen = true →
    ∃ u : State, s.closeStream k = u ∧ u.streams = s.streams.set k {} ∧ u.u (Obj.STREAM.ENABLE k) = 0 ∧ u.u (Obj.STREAM.BACKLOG k) = 0 ∧
      u.bale.waiting = s.bale.waiting.filter (fun b => b.stream != k) ∧ u.bale.decode = s.bale.decode ∧ u.mem = s.mem ∧ u.ledger = s.ledger) ∧
  (∀ (s : State) (src : Path) (b : List Byte), (sourceRec s (sourceOf src)).limited = false →
    exec (.streamViolation src b) s = .next (s.violate 15 src none 0))

/-- R357, R358, R362, R364, R374, R376, R377, R378, R380: a bale closes into the compressor, leaves it split and numbered, is admitted whole or dropped whole, and its
datagrams leave; the decompressor gives a lane to the first request that waits, and counts what it makes of a bale. -/
def Obligations.BalesTravel : Prop :=
  (∀ (s : State) (k : Fin 256), s.streams[k].bale = none → exec (.baleTimeout k) s = .next s) ∧
  (∀ (s : State) (k : Fin 256) (b : OpenBale), s.streams[k].bale = some b → s.now ≤ b.first + (s.u (Obj.STREAM.BALE_MS k) + 50) * 3200000 →
    exec (.baleTimeout k) s = .next s) ∧
  (∀ (s : State) (k : Fin 256) (b : OpenBale), s.streams[k].bale = some b → b.first + (s.u (Obj.STREAM.BALE_MS k) + 50) * 3200000 < s.now →
    s.book.unread = [] → s.isApplying (0x6000 + k) = false →
    s.u (Obj.STREAM.BALES k) + 1 < 2 ^ 32 →
    ∃ u : State, exec (.baleTimeout k) s = .next u ∧ u.streams = s.streams.set k { s.streams[k] with bale := none } ∧
      u.bale.waiting = s.bale.waiting ++ [⟨k, b.bytes, b.firstShot, s.u (Obj.STREAM.COMPRESS k), s.u Obj.COMPRESSION.LEVEL, s.now⟩] ∧
      u.u (Obj.STREAM.BALES k) = s.u (Obj.STREAM.BALES k) + 1 ∧ onlyRegs { s with streams := u.streams, bale := u.bale } u [Obj.STREAM.BALES k]) ∧
  (∀ s : State, s.bale.waiting = [] → exec .baleCompressed s = .next s) ∧
  (∀ (s : State) (c : ClosedBale) (rest : List ClosedBale), s.bale.waiting = c :: rest → (standby s = false ∨ s.u (Obj.STREAM.TWIN c.stream) = 0) →
    ∃ u : State, exec .baleCompressed s = .next (u.splitBale c.stream (compress c.form c.level c.original).1 c.first) ∧
      u.bale = { s.bale with waiting := rest } ∧
      onlyRegs { s with bale := u.bale } u [Obj.COMPRESSION.BALES_IN, Obj.COMPRESSION.ORIG_BYTES, Obj.COMPRESSION.COMP_BYTES, Obj.COMPRESSION.FALLBACKS,
        Obj.COMPRESSION.COMP_LAT_MAX]) ∧
  (∀ (level : Nat) (l : List Byte), compress 0 level l = (baleHeader 0 false l.length l.length (crc32c l).toNat ++ l, false)) ∧
  (∀ (s : State) (k : Fin 256) (bale : List Byte) (first : Nat) (fs : List Fragment), active s = false →
    fs = fragments s k bale first (s.u (Obj.STREAM.SEQ k)) s.streams[k].baleNo.toNat →
    ∃ u : State, s.splitBale k bale first = u ∧ u.u (Obj.STREAM.SEQ k) = (s.u (Obj.STREAM.SEQ k) + fs.length) % 2 ^ 32 ∧
      u.streams[k].baleNo = s.streams[k].baleNo + 1 ∧
      (s.u (Obj.STREAM.BACKLOG k) * 1000 < s.u (Obj.STREAM.TOLL k) * s.u (Obj.STREAM.ADMIT_MS k) →
        u.streams[k].queue = s.streams[k].queue ++ fs ∧ u.streams[k].droppedFlag = s.streams[k].droppedFlag) ∧
      (s.u (Obj.STREAM.TOLL k) * s.u (Obj.STREAM.ADMIT_MS k) ≤ s.u (Obj.STREAM.BACKLOG k) * 1000 →
        u.streams[k].queue = s.streams[k].queue ∧ u.streams[k].droppedFlag = true) ∧
      (∀ j : Fin 256, j ≠ k → u.streams[j] = s.streams[j]) ∧
      onlyRegs { s with streams := u.streams } u [Obj.STREAM.SEQ k, Obj.STREAM.BACKLOG k, Obj.STREAM.SSTATE k, Obj.STREAM.DROPPED k]) ∧
  (∀ (s : State) (k : Fin 256) (bale : List Byte) (first seq no : Nat), 32 < s.u (Obj.STREAM.MAX_DGRAM k) → bale ≠ [] →
    (fragments s k bale first seq no).flatMap (fun f => f.bytes.drop 32) = bale ∧
    (∀ f ∈ fragments s k bale first seq no, f.bytes.length ≤ s.u (Obj.STREAM.MAX_DGRAM k))) ∧
  (∀ (s : State) (k : Fin 256), s.streams[k].queue = [] → exec (.datagramSend k) s = .next s) ∧
  (∀ (s : State) (k : Fin 256) (f : Fragment), bucketNow s k f = min (f.total * 3200000000)
    (s.streams[k].bucket + s.u (Obj.STREAM.TOLL k) * ((s.now : Int) - s.streams[k].filled).toNat)) ∧
  (∀ (s : State) (k : Fin 256) (f : Fragment) (rest : List Fragment), s.streams[k].queue = f :: rest →
    (ifaceUp s k = false ∨ creditHeld s k = true ∨ bucketNow s k f < f.bytes.length * 3200000000) →
    exec (.datagramSend k) s = .next ((s.modStream k (fun y => { y with bucket := bucketNow s k f, filled := s.now })).streamState k)) ∧
  (∀ (s : State) (k : Fin 256) (f : Fragment) (rest : List Fragment) (i : Nat), s.streams[k].queue = f :: rest → s.u (Obj.STREAM.IFACE k) = i → i < 4 →
    ifaceUp s k = true → creditHeld s k = false → refuses s 6 = false → f.bytes.length * 3200000000 ≤ bucketNow s k f →
    ∃ u : State, exec (.datagramSend k) s = .next u ∧ u.streams[k].queue = rest ∧ u.streams[k].droppedFlag = false ∧
      u.streams[k].credit = (if f.firstFrag && s.u (Obj.STREAM.CREDIT k) == 1 then s.streams[k].credit - 1 else s.streams[k].credit) ∧
      u.out = s.out ++ [.stream (ifaceOf s i) (BitVec.ofNat 128 (fromLe (s.blob (Obj.STREAM.DEST k)).reverse)) (s.u (Obj.STREAM.DEST_PORT k))
        (if s.streams[k].droppedFlag then withDropped f.bytes else f.bytes) (rctOf s i)] ∧
      u.streams[k].bucket = bucketNow s k f - f.bytes.length * 3200000000 ∧ u.streams[k].filled = s.now ∧
      (∀ j : Fin 256, j ≠ k → u.streams[j] = s.streams[j]) ∧ u.mem = s.mem ∧ u.bale = s.bale) ∧
  (∀ s : State, freeLaneOf s.bale.decode = none → exec .decodeStart s = .next s) ∧
  (∀ (s : State) (l : Fin 8) (a b : List DecodeReq) (d : DecodeReq), freeLaneOf s.bale.decode = some l → s.bale.decode = a ++ d :: b →
    (∀ e ∈ a, e.lane.isSome = true) → d.lane = none →
    exec .decodeStart s = .next { s with bale := { s.bale with decode := a ++ { d with lane := some l } :: b } }) ∧
  (∀ (s : State) (l : Fin 8), (∀ d ∈ s.bale.decode, d.lane ≠ some l) → exec (.decodeEnd l) s = .next s) ∧
  (∀ (s : State) (l : Fin 8) (d : DecodeReq) (o : List Byte × List Byte), s.bale.decode = [d] → d.lane = some l → d.peer = none → sessionById s d.owner = none →
    decodeBale (d.use == 2) d.bytes = .ok o → s.u Obj.COMPRESSION.DECODE_OK + 1 < 2 ^ 32 →
    ∃ u : State, exec (.decodeEnd l) s = .next u ∧ u.bale = { s.bale with decode := [] } ∧ u.u Obj.COMPRESSION.DECODE_OK = s.u Obj.COMPRESSION.DECODE_OK + 1 ∧
      u.u Obj.COMPRESSION.BALE_STATUS = 0 ∧ onlyRegs { s with bale := u.bale } u [Obj.COMPRESSION.DECODE_OK, Obj.COMPRESSION.BALE_STATUS]) ∧
  (∀ (s : State) (l : Fin 8) (d : DecodeReq) (c : Nat), s.bale.decode = [d] → d.lane = some l → d.peer = none → sessionById s d.owner = none →
    decodeBale (d.use == 2) d.bytes = .error c →
    exec (.decodeEnd l) s = .next (({ s with bale := { s.bale with decode := [] } }).countDecode d.use (some c)))

/-! ## The Ledger (spec/13) -/

/-- R391, R393, R404, R406: what a request meets before its object is looked at, the clerks' full queue first (that it is served once a root
cycle is the model's choice, log entry 103); the codes of a WRITE in their order; a WRITE whose checks pass; the staged copy
and W1C bits; APPLY. -/
def Obligations.RequestsAndWrites : Prop :=
  (∀ (s : State) (r : Req) (op : Nat) (b : List Byte), taken s r.path r.session = false → gate s op r b = .stop s) ∧
  (∀ (s : State) (r : Req) (op : Nat) (b : List Byte), taken s r.path r.session = true → clerksFull s = true →
    ∃ t : State, gate s op r b = .stop ((t.sendResponse r.path (responseBytes t r.path op r.session r.seq 0x0601 [] none)).violate 18 r.path none 0x0601) ∧
      t = (s.serve (sourcesOf r.path r.session)).bump Obj.LEDGER_UDP.MSGS) ∧
  (∀ s : State, clerksFull s = true ↔ (s.ledger.cycle = s.now ∧ 64 ≤ s.ledger.arrived)) ∧
  (∀ (s : State) (r : Req) (op : Nat) (b : List Byte), heard s r.path r.session → bodyGood op b.length = true →
    sessionById (counted s r) r.session = none →
    gate s op r b = .stop (((counted s r).refuse0503 r.path op r.session r.seq).violate 18 r.path none 0x0503)) ∧
  (∀ (s : State) (r : Req) (op : Nat) (b : List Byte) (x : Session), heard s r.path r.session → bodyGood op b.length = true →
    sessionById (counted s r) r.session = some x → x.verifies (counted s r) op r b = true → x.kept.find? (fun e => e.1 == r.seq) = none → x.seq < r.seq.toNat →
    gate s op r b = .go ((counted s r).modSession x.id (fun y => { y with last := s.now })) x) ∧
  (∀ (s : State) (r : Req) (op : Nat) (b : List Byte) (x : Session) (u : State), heard s r.path r.session → bodyGood op b.length = true →
    sessionById (counted s r) r.session = some x → x.verifies (counted s r) op r b = true → x.kept.find? (fun e => e.1 == r.seq) = none → r.seq.toNat ≤ x.seq →
    u = (counted s r).modSession x.id (fun y => { y with last := s.now }) →
    gate s op r b = .stop ((u.sendResponse r.path (responseBytes u r.path op r.session r.seq 0x0502 [] x.tagKey)).violate 18 r.path (some r.session) 0x0502)) ∧
  (∀ (s t : State) (x : Session) (r : Req) (idx : BitVec 16) (sub ty : BitVec 8) (v : List Byte) (c : Nat),
    gate s 0x11 r (le 2 idx.toNat ++ le 1 sub.toNat ++ le 1 ty.toNat ++ v) = .go t x → lookup t idx.toNat sub.toNat = .error c → c ≠ 0 →
    exec (.writeObj r idx sub ty v) s = .next (t.reply x 0x11 r c [])) ∧
  (∀ (s t : State) (x : Session) (r : Req) (idx : BitVec 16) (sub ty : BitVec 8) (v : List Byte) (row : ObjRow),
    gate s 0x11 r (le 2 idx.toNat ++ le 1 sub.toNat ++ le 1 ty.toNat ++ v) = .go t x → lookup t idx.toNat sub.toNat = .ok row →
    (row.acc = .ro → row.w1c = 0 → exec (.writeObj r idx sub ty v) s = .next (t.reply x 0x11 r 0x0202 [])) ∧
    (row.acc ≠ .ro → x.level < row.level → exec (.writeObj r idx sub ty v) s = .next (t.reply x 0x11 r 0x0201 [])) ∧
    (accessCode t x (idx.toNat * 256 + sub.toNat) row ty.toNat v = 0 → isBlob row.ty = false → isW1c row = false →
      inRange row (unreserved row (fromLe v)) = false → sub ≠ 0xFE → exec (.writeObj r idx sub ty v) s = .next (t.reply x 0x11 r 0x0302 []))) ∧
  (∀ (s t : State) (x : Session) (r : Req) (idx : BitVec 16) (sub ty : BitVec 8) (v : List Byte) (row : ObjRow) (key : Nat),
    gate s 0x11 r (le 2 idx.toNat ++ le 1 sub.toNat ++ le 1 ty.toNat ++ v) = .go t x → lookup t idx.toNat sub.toNat = .ok row →
    key = idx.toNat * 256 + sub.toNat → accessCode t x key row ty.toNat v = 0 → effectCode t key row v true = 0 → sub ≠ 0xFE →
    enters key row = true → isBlob row.ty = false →
    exec (.writeObj r idx sub ty v) s = .next (granted ({ t with staged := rfSet t.staged key (unreserved row (fromLe v)) }) x r)) ∧
  (∀ (s t : State) (x : Session) (r : Req) (v : BitVec 32), gate s 0x11 r (le 2 0x2100 ++ le 1 4 ++ le 1 Ty.bits32.code ++ le 4 v.toNat) = .go t x →
    t.u Obj.HEALTH.BOOT_STATE ≠ 4 → 1 ≤ x.level → transferTo t Obj.EPOCH.FLAGS.key = false →
    ∃ u : State, exec (.w1cClear r 0x2100 4 v) s = .next (granted u x r) ∧ onlyRegs t u [Obj.EPOCH.FLAGS] ∧
      (v.getLsbD Bit.EPOCH.FLAGS.STEPPED = true → u.bit Obj.EPOCH.FLAGS Bit.EPOCH.FLAGS.STEPPED = false) ∧
      (v.getLsbD Bit.EPOCH.FLAGS.STEPPED = false → u.bit Obj.EPOCH.FLAGS Bit.EPOCH.FLAGS.STEPPED = t.bit Obj.EPOCH.FLAGS Bit.EPOCH.FLAGS.STEPPED)) ∧
  (∀ (s t : State) (x : Session) (r : Req) (idx : BitVec 16) (row : ObjRow), gate s 0x11 r (le 2 idx.toNat ++ [0xFE] ++ le 1 Ty.u8.code ++ [1]) = .go t x →
    lookup t idx.toNat 0xFE = .ok row → row.acc = .wo → row.ty = .u8 → row.level ≤ x.level → (groupsOf idx.toNat).any t.isApplying = false →
    standby t = false →
    (∀ u : State, u = t.judgeSets idx.toNat 0 → applyCode t idx.toNat = 0 → 0x3000 ≤ idx.toNat → idx.toNat < 0x5110 →
      ¬(0x4000 ≤ idx.toNat ∧ idx.toNat < 0x4800 ∧ 0x10 ≤ idx.toNat % 256 ∧ idx.toNat % 256 < 0x18) →
      exec (.apply r idx) s = .next (granted ({ u with ledger := { u.ledger with applying := u.ledger.applying ++
        [⟨idx.toNat, x.id, BitVec.ofNat 32 (sourceWord r.path)⟩] } }) x r)) ∧
    (∀ (u : State) (n : Port) (k : Fin 8), idx.toNat = 0x4010 + 0x100 * n.val + k.val →
      u = { t.judgeSets idx.toNat 0 with ledger := { t.ledger with applying := t.ledger.applying ++
        [⟨idx.toNat, x.id, BitVec.ofNat 32 (sourceWord r.path)⟩] } } → applyCode t idx.toNat = 0 →
      exec (.apply r idx) s = .next (granted (u.put (Obj.AVG_SET.MEM n k) (ramanBytes (groupReader u idx.toNat) n k)) x r)) ∧
    (∀ c : Nat, c ≠ 0 → applyCode t idx.toNat = c → exec (.apply r idx) s = .next ((t.judgeSets idx.toNat c).reply x 0x11 r c [])))

/-- R19, R36, R94, R149, R178, R203, R279, R334, R400, R402, R415, R453: writes of command objects, each heard under the conditions of R393, act as their
objects say and are answered. -/
def Obligations.HostCommands : Prop :=
  (∀ (s t : State) (x : Session) (r : Req) (v : BitVec 64), wrote s t x r 0x2100 9 .u64 (le 8 v.toNat) 2 →
    exec (.secLabel r v) s = .next (granted (({ t with ep := { t.ep with pps := { t.ep.pps with label := some v.toNat } } }).ppsFlag) x r)) ∧
  (∀ (s t : State) (x : Session) (r : Req) (v : BitVec 32), wrote s t x r 0x2102 7 .i32 (le 4 v.toNat) 2 →
    exec (.encPreset r v) s = .next (granted ({ t with enc := { t.enc with preset := some v.toNat } }) x r)) ∧
  (∀ (s t : State) (x : Session) (r : Req) (n : Port) (w : BitVec 32), wrote s t x r (0x3003 + 0x100 * n.val) 5 .u32 (le 4 w.toNat) 2 →
    t.ports[n].fctl.host.length < 16 → exec (.send r n w) s = .next (granted (sendEff t n w) x r)) ∧
  (∀ (s t : State) (x : Session) (r : Req) (n : Port) (w : BitVec 32), wrote s t x r (0x3003 + 0x100 * n.val) 5 .u32 (le 4 w.toNat) 2 →
    16 ≤ t.ports[n].fctl.host.length → exec (.send r n w) s = .next (t.reply x 0x11 r 0x0601 [])) ∧
  (∀ (s t : State) (x : Session) (r : Req) (n : Port), wrote s t x r (0x3801 + 0x100 * n.val) 9 .u8 [1] 2 →
    exec (.relearn r n 1) s = .next (granted (t.modPort n (fun q => { q with relearnReq := true })) x r)) ∧
  (∀ (s t : State) (x : Session) (r : Req) (n : Port) (b : Fin 2), wrote s t x r (0x4800 + 0x100 * n.val) 5 .u8 (le 1 b.val) 2 →
    exec (.release r n (BitVec.ofNat 8 b.val)) s = .next (granted (t.clrBit (Obj.BRIL_STATUS.BUF_HELD n) b.val) x r)) ∧
  (∀ (s t : State) (x : Session) (r : Req) (g : Fin 16) (l : List Byte), wrote s t x r (0x5110 + g.val) 1 .blob l 2 → imageGood l = true →
    t.programs[g].placing = false → imageSpare t g l = 0 → t.u (Obj.PROGRAM_SLOT.USERS g) = 0 → t.u Obj.TWIN.TWIN_EN = 0 →
    ∃ u : State, exec (.image r g l) s = .next (granted u x r) ∧ u.programs[g].image = l ∧ u.programs[g].placing = false ∧
      u.u (Obj.PROGRAM_SLOT.PROG_ID g) = imageField l 4 4 ∧ u.u (Obj.PROGRAM_SLOT.VERSION g) = imageField l 8 4 ∧
      u.u (Obj.PROGRAM_SLOT.LOAD_STATUS g) = 0 ∧ u.u (Obj.PROGRAM_SLOT.SIGNED g) = 0 ∧ u.bit Obj.FLASH.PENDING (2 + g.val) = true ∧
      (∀ h : Fin 16, h ≠ g → u.programs[h] = t.programs[h]) ∧ u.stalls = t.stalls ∧ u.mem = t.mem) ∧
  (∀ (s t : State) (x : Session) (r : Req) (g : Fin 16) (l : List Byte), wrote s t x r (0x5110 + g.val) 1 .blob l 2 → imageGood l = true →
    t.programs[g].placing = false → imageSpare t g l ≠ 0 → exec (.image r g l) s = .next (t.reply x 0x11 r 0x0601 [])) ∧
  (∀ (s t : State) (x : Session) (r : Req) (g : Fin 16) (l : List Byte), wrote s t x r (0x5110 + g.val) 1 .blob l 2 → imageGood l = false →
    exec (.image r g l) s = .next ((t.put (Obj.PROGRAM_SLOT.LOAD_STATUS g) 0x0301).reply x 0x11 r 0x0301 [])) ∧
  (∀ (s t : State) (x : Session) (r : Req) (v : BitVec 8), wrote s t x r 0x5280 8 .u8 (le 1 v.toNat) 2 →
    exec (.fireGroup r v) s = .next (granted (fireGroupEff t v.toNat) x r)) ∧
  (∀ (s t : State) (x : Session) (r : Req) (v : BitVec 16), wrote s t x r 0x5280 9 .u16 (le 2 v.toNat) 2 →
    (v.toNat / 256 % 4 ≠ 3 → exec (.armGroup r v) s = .next (granted (armGroupEff t v.toNat) x r)) ∧
    (v.toNat / 256 % 4 = 3 → exec (.armGroup r v) s = .next (t.reply x 0x11 r 0x0302 []))) ∧
  (∀ (s t : State) (x : Session) (r : Req) (v : BitVec 8), wrote s t x r 0x5280 9 .u16 (le 2 v.toNat) 2 →
    exec (.armGroupDisarm r v) s = .next (granted (armGroupEff t v.toNat) x r)) ∧
  (∀ (s : State) (g : Nat), fireGroupEff s g = (s.sendBell (hostMessage 3 g s.now 0)).fire g ((s.now : Int) * 256) (ownId s) s.capture.bellSeq) ∧
  (∀ (s : State) (g mode : Nat), g < 256 → mode < 3 →
    armGroupEff s (g + 256 * mode) = (s.sendBell (hostMessage (if mode = 0 then 2 else 1) g s.now mode)).armGroup g mode s.now) ∧
  (∀ (s t : State) (x : Session) (r : Req) (c : Fin 2) (lane : BitVec 8), wrote s t x r (0x7A41 + c.val) 7 .u8 (le 1 lane.toNat) 3 → lane.toNat ≤ 136 →
    (repairRefusal t c lane.toNat = 0 → exec (.repair r c lane) s = .next (granted (repairEff t c lane.toNat) x r)) ∧
    (repairRefusal t c lane.toNat ≠ 0 → exec (.repair r c lane) s = .next (t.reply x 0x11 r 0x0601 []))) ∧
  (∀ (s t : State) (x : Session) (r : Req), wrote s t x r 0x6300 0xC .u8 [1] 2 → active t = true →
    exec (.yield r 1) s = .next (granted ({ t with twin := { t.twin with yieldReq := true } }) x r)) ∧
  (∀ (s t : State) (x : Session) (r : Req) (id : BitVec 32), wrote s t x r 0x1280 3 .u32 (le 4 id.toNat) 3 →
    (id ≠ x.id → exec (.kill r id) s = .next (granted (t.endSession id) x r)) ∧
    (id = x.id → exec (.kill r id) s = .next ((granted t x r).endSession x.id))) ∧
  (∀ (s t : State) (x : Session) (r : Req) (k : Fin 16) (m : List Byte), wrote s t x r (0x1200 + k.val) 1 .blob m 3 → m.length = 32 →
    t.isApplying (0x1200 + k.val) = false →
    exec (.key r k m) s = .next (granted ({ t with stagedBlobs := blobSet t.stagedBlobs (Obj.KEY_SLOT.KEY k) (xorBytes m (keyMask x r.seq)) }) x r)) ∧
  (∀ (s t : State) (x : Session) (r : Req) (v : BitVec 32), wrote s t x r 0x7F00 4 .u32 (le 4 v.toNat) 0 →
    exec (.fromPos r v) s = .next (granted (t.modSession x.id (fun y => { y with frm := some v })) x r))

/-- R149, R381, R386, R392, R393, R394, R398, R399, R400, R415, R528: sessions open, are authenticated, kept and end; a READ returns the object's type and bytes
and restarts the measures that a read restarts. -/
def Obligations.SessionsAndReads : Prop :=
  (∀ (s : State) (r : Req) (slot level : BitVec 8) (nc nd : List Byte) (id : BitVec 32), taken s r.path 0 = false →
    exec (.openSession r slot level nc nd id) s = .next s) ∧
  (∀ (s t : State) (r : Req) (slot level : BitVec 8) (nc nd key : List Byte) (id : BitVec 32), heard s r.path 0 → id ≠ 0 → sessionById s id = none →
    r.session = 0 → r.seq = 0 → r.tag = zeroTag → t = counted s r → slotKey t slot.toNat = some key → t.ledger.sessions.length < 32 →
    ∃ (u : State) (x : Session), exec (.openSession r slot level nc nd id) s =
        .next (u.sendResponse r.path (responseBytes u r.path 1 id 0 0 ([slot, 0] ++ padTo 16 nd) none)) ∧
      u.ledger.sessions = t.ledger.sessions ++ [x] ∧ x.id = id ∧ x.slot = slot ∧ x.authed = false ∧ x.anon = false ∧
      x.path = r.path ∧ x.seq = 0 ∧ x.key = hmac key ([0x53] ++ nc ++ nd ++ le 4 id.toNat) ∧
      u.u Obj.SESSIONS.OPEN = t.ledger.sessions.length + 1 ∧ onlyRegs { t with ledger := u.ledger } u [Obj.SESSIONS.OPEN]) ∧
  (∀ (s t : State) (r : Req) (slot level : BitVec 8) (nc nd : List Byte) (id : BitVec 32), heard s r.path 0 → id ≠ 0 → sessionById s id = none →
    r.session = 0 → r.seq = 0 → r.tag = zeroTag → t = counted s r → slotKey t slot.toNat = none → t.u Obj.LEDGER_UDP.ANON_OBSERVE = 0 →
    exec (.openSession r slot level nc nd id) s =
      .next (((t.refuse0503 r.path 1 0 0).bump Obj.LEDGER_UDP.AUTH_FAIL).violate 18 r.path none 0x0503)) ∧
  (∀ (s t : State) (r : Req) (proof k : List Byte) (x : Session), heard s r.path r.session → sessionById s r.session = some x → x.authed = false →
    x.path.same r.path = true → t = counted s r → slotKey t x.slot.toNat = some k → requestTag t x.key 2 r (padTo 32 proof) = r.tag → r.seq ≠ 0 →
    (sessionHmac k 0x41 x = proof → exec (.auth r proof) s = .next (t.authDone r x k)) ∧
    (sessionHmac k 0x41 x ≠ proof → exec (.auth r proof) s = .next (t.authFails r x))) ∧
  (∀ (s : State) (r : Req) (x : Session) (k : List Byte), ∃ u : State, s.authDone r x k = u.reply x 2 r 0 (le 1 (min x.asked (s.u (Obj.KEY_SLOT.LEVEL x.slot.toNat))) ++ [0] ++
      le 2 (s.u Obj.LEDGER_UDP.TIMEOUT) ++ le 2 0 ++ sessionHmac k 0x44 x) ∧
    (∀ y ∈ u.ledger.sessions, y.id = x.id → y.authed = true ∧ y.level = min x.asked (s.u (Obj.KEY_SLOT.LEVEL x.slot.toNat)))) ∧
  (∀ (s t : State) (r : Req) (x : Session), gate s 3 r [] = .go t x → exec (.closeSession r) s = .next ((t.reply x 3 r 0 []).endSession x.id)) ∧
  (∀ (s t : State) (r : Req) (x : Session), gate s 4 r [] = .go t x → exec (.keepalive r) s = .next (t.reply x 4 r 0 [])) ∧
  (∀ (s : State) (id : BitVec 32) (x : Session), sessionById s id = some x → x.authed = true →
    exec (.sessionExpiry id) s = .next (s.endSession id) ∧ exec (.authTimeout id) s = .next s) ∧
  (∀ (s : State) (id : BitVec 32) (x : Session), sessionById s id = some x → x.authed = false →
    exec (.authTimeout id) s = .next (s.endSession id) ∧ exec (.sessionExpiry id) s = .next s) ∧
  (∀ (s : State) (id : BitVec 32), (∀ k : Fin 256, s.streams[k].bySubscribe = false) →
    ∃ u : State, s.endSession id = u ∧ u.ledger.sessions = s.ledger.sessions.filter (fun x => x.id != id) ∧
      u.u Obj.SESSIONS.OPEN = u.ledger.sessions.length % 2 ^ 8 ∧ u.streams = s.streams ∧ u.mem = s.mem) ∧
  (∀ (s : State) (id : BitVec 32), exec (.snapshotExpiry id) s = .next (s.modSession id (fun x => { x with snapshot := none }))) ∧
  (∀ (s t : State) (x : Session) (r : Req) (idx : BitVec 16) (sub : BitVec 8) (staged : Bool) (row : ObjRow), asked s t x r idx.toNat sub.toNat staged →
    lookup t idx.toNat sub.toNat = .ok row → row.acc ≠ .wo → isBlob row.ty = false →
    exec (.readObj r idx sub staged) s = .next ((t.afterRead x (idx.toNat * 256 + sub.toNat)).reply x 0x10 r 0
      (le 1 row.ty.code ++ [0] ++ le row.ty.bytes (valueOf t x staged (idx.toNat * 256 + sub.toNat) row)))) ∧
  (∀ (s t : State) (x : Session) (r : Req) (idx : BitVec 16) (sub : BitVec 8) (staged : Bool) (row : ObjRow), asked s t x r idx.toNat sub.toNat staged →
    lookup t idx.toNat sub.toNat = .ok row → row.acc = .wo → exec (.readObj r idx sub staged) s = .next (t.reply x 0x10 r 0x0203 [])) ∧
  (∀ (s t : State) (x : Session) (r : Req), asked s t x r 0x7F00 5 false →
    exec (.entries r) s = .next ((t.modSession x.id (fun y => { y with frm := some (readEntries t x).2.1, lost := y.lost + (readEntries t x).2.2 })).reply x 0x10 r 0
      (le 1 Ty.blob.code ++ [0] ++ (readEntries t x).1.flatMap DbEntry.bytes))) ∧
  (∀ (s t : State) (x : Session) (r : Req) (n : Port), asked s t x r (0x3803 + 0x100 * n.val) 6 false →
    ∃ b : List Byte, exec (.queuePeak r n) s = .next ((t.put (Obj.PIPE_STATUS.QUEUE_PEAK n) t.pipes[n].queued).reply x 0x10 r 0 b) ∧
      b.drop 2 = le (b.length - 2) (t.u (Obj.PIPE_STATUS.QUEUE_PEAK n))) ∧
  (∀ (s t : State) (x : Session) (r : Req), asked s t x r 0x6100 6 false →
    ∃ b : List Byte, exec (.compLatMax r) s = .next ((t.put Obj.COMPRESSION.COMP_LAT_MAX 0).reply x 0x10 r 0 b) ∧
      b.drop 2 = le (b.length - 2) (t.u Obj.COMPRESSION.COMP_LAT_MAX)) ∧
  (∀ (s t : State) (x : Session) (r : Req), asked s t x r 0x7A00 9 false →
    ∃ b : List Byte, exec (.tMax r) s = .next (t.restartTMax.reply x 0x10 r 0 b) ∧ b.drop 2 = le (b.length - 2) (t.u Obj.HEALTH.T_MAX))

/-- R395, R396, R397, R403, R406, R409, R411, R412, R438, R439, R539: segmented transfers, CAN segments, forwarded messages, a source's limit and summary entries. -/
def Obligations.TransfersAndRoutes : Prop :=
  (∀ (s t : State) (x : Session) (r : Req) (idx : BitVec 16) (sub : BitVec 8) (bale : Bool) (total : BitVec 32) (row : ObjRow),
    gate s 0x12 r (le 2 idx.toNat ++ le 1 sub.toNat ++ le 1 (if bale then 1 else 0) ++ le 4 total.toNat) = .go t x → lookup t idx.toNat sub.toNat = .ok row →
    (∀ c : Nat, c ≠ 0 → beginCode t x (idx.toNat * 256 + sub.toNat) row bale total.toNat = c → exec (.segBegin r idx sub bale total) s = .next (t.reply x 0x12 r c [])) ∧
    (∀ u : State, u = t.modSession x.id (fun y =>
        { y with transfer := some { serial := t.ledger.serial, key := idx.toNat * 256 + sub.toNat, bale := bale, total := total.toNat } }) →
      beginCode t x (idx.toNat * 256 + sub.toNat) row bale total.toNat = 0 → idx.toNat * 256 + sub.toNat ≠ fwImageKey →
      exec (.segBegin r idx sub bale total) s = .next (({ u with ledger := { u.ledger with serial := t.ledger.serial + 1 } }).reply x 0x12 r 0 []))) ∧
  (∀ (s t : State) (x : Session) (r : Req) (off : BitVec 32) (b : List Byte), gate s 0x13 r (le 4 off.toNat ++ b) = .go t x →
    (x.transfer = none → exec (.segData r off b) s = .next (t.reply x 0x13 r 0x0502 [])) ∧
    (∀ y : Transfer, x.transfer = some y → y.bale = false → y.requested = none → y.key ≠ fwImageKey → off.toNat = y.bytes.length → y.bytes.length + b.length ≤ y.total →
      t.bale.decode.length ≤ 64 →
      exec (.segData r off b) s = .next ((t.modSession x.id (fun z => { z with transfer := z.transfer.map (fun w => { w with bytes := y.bytes ++ b, seen := y.seen, bales := y.bales }) })).reply x
        0x13 r 0 [])) ∧
    (∀ y : Transfer, x.transfer = some y → off.toNat ≠ y.bytes.length → exec (.segData r off b) s = .next (t.reply x 0x13 r 0x0502 []))) ∧
  (∀ (s t : State) (x : Session) (r : Req) (crc : BitVec 32) (y : Transfer), gate s 0x14 r (le 4 crc.toNat) = .go t x → x.transfer = some y → y.requested = none →
    (y.bytes.length < y.total → exec (.segEnd r crc) s = .next (t.reply x 0x14 r 0x0301 [])) ∧
    (y.total ≤ y.bytes.length → crc32c y.bytes ≠ crc → exec (.segEnd r crc) s = .next (t.endTransfer x r 0x0301)) ∧
    (y.total ≤ y.bytes.length → crc32c y.bytes = crc → y.bale = false → y.failed = none →
      exec (.segEnd r crc) s = .next ((t.writeWhole x r y.key y.bytes).1.endTransfer x r (t.writeWhole x r y.key y.bytes).2))) ∧
  (∀ (s t : State) (x : Session) (r : Req) (idx : BitVec 16) (sub : BitVec 8) (off : BitVec 32) (max : BitVec 16) (e : Nat × List Byte) (row : ObjRow),
    gate s 0x15 r (le 2 idx.toNat ++ le 1 sub.toNat ++ le 1 0 ++ le 4 off.toNat ++ le 2 max.toNat) = .go t x → lookup t idx.toNat sub.toNat = .ok row →
    row.acc ≠ .wo → isBlob row.ty = true → 0 < max.toNat → max.toNat ≤ 1400 → off ≠ 0 → x.snapshot = some e → e.1 = idx.toNat * 256 + sub.toNat →
    exec (.segRead r idx sub off max) s = .next (t.reply x 0x15 r 0 (le 2 0 ++ le 4 e.2.length ++ slice e.2 off.toNat max.toNat))) ∧
  (∀ (s : State) (id : BitVec 32), ∃ u : State, exec (.segIdleTimeout id) s = .next u ∧
    u.ledger.sessions = s.ledger.sessions.map (fun x => if x.id = id then { x with transfer := none } else x) ∧
    u.bale = s.bale ∧ u.regs = s.regs ∧ u.mem = s.mem) ∧
  (∀ (s : State) (src : Source), (sourceRec s src).limited = false → exec (.rateLimitEnd src) s = .next s) ∧
  (∀ (s : State) (src : Source), (sourceRec s src).limited = true →
    ∃ u : State, exec (.rateLimitEnd src) s = .next u ∧ (sourceRec u src).limited = false ∧ (sourceRec u src).recent = [] ∧
      (∀ y : Source, y ≠ src → sourceRec u y = sourceRec s y) ∧ u.regs = s.regs) ∧
  (∀ (s : State) (id : BitVec 29) (cl : Bool) (d : List Byte), canForUs s id = false → exec (.canLedgerFrame id cl d) s = .next s) ∧
  (∀ (s : State) (id : BitVec 29) (cl : Bool) (pci : Byte) (d : List Byte), canForUs s id = true → (∀ e ∈ s.can.partials, e.1 ≠ Fin.ofNat 16 (id.toNat / 2 ^ 19)) →
    pci = 0x80 → exec (.canLedgerFrame id cl (pci :: d)) s =
      .next { s with can := { s.can with partials := (Fin.ofNat 16 (id.toNat / 2 ^ 19), d, 1) :: s.can.partials } }) ∧
  (∀ (s : State) (id : BitVec 29) (cl : Bool) (d l : List Byte) (chan : Fin 16), canForUs s id = true → chan = Fin.ofNat 16 (id.toNat / 2 ^ 19) →
    s.can.partials = [(chan, l, 1)] → exec (.canLedgerFrame id cl (0x41 :: d)) s =
      .next (({ s with can := { s.can with partials := [] } }).arrived (.can chan) (unfilled (l ++ d)))) ∧
  (∀ (s : State) (p : Path) (m : List Byte), (m.length < 32 ∨ (fromLe (slice m 12 2)).testBit 15 = false → s.arrived p m = s.takeMessage p m) ∧
    (32 ≤ m.length → (fromLe (slice m 12 2)).testBit 15 = true → taken s p 0 = false → s.arrived p m = s) ∧
    (32 ≤ m.length → (fromLe (slice m 12 2)).testBit 15 = true → heard s p 0 → BitVec.ofNat 11 (fromLe (slice m 12 2)) ≠ ownId s →
      s.arrived p m = s.passOn p (BitVec.ofNat 11 (fromLe (slice m 12 2))) m)) ∧
  (∀ (s : State) (c : Fin 16), (∀ e ∈ s.can.partials, e.1 ≠ c) → exec (.canSegmentTimeout c) s = .next s) ∧
  (∀ (s : State) (c : Fin 16) (l : List Byte) (n : Nat), (c, l, n) ∈ s.can.partials →
    exec (.canSegmentTimeout c) s = .next ((({ s with can := { s.can with partials := s.can.partials.filter (fun e => e.1 != c) } }).bump
      Obj.CAN.SEQ_ERR).violate 19 (.can c) none 0)) ∧
  (∀ s : State, canStb s = true ↔ s.u Obj.CAN.CAN_EN = 0) ∧
  (∀ s : State, s.u Obj.CAN.CAN_EN = 1 → s.can.busOff = false →
    ∃ (u : State) (e : Ev), exec .busOff s = .next (u.log e) ∧ u = (({ s with can := { s.can with busOff := true } }).put Obj.CAN.TEC 255).bump Obj.CAN.BUS_OFFS ∧
      e.sub = 19) ∧
  (∀ s : State, s.can.busOff = true →
    exec .busOff s = .next s ∧ exec .busOffRecovery s = .next (((({ s with can := { s.can with busOff := false } }).put Obj.CAN.TEC 0).put Obj.CAN.REC 0).canFlush)) ∧
  (∀ (s : State) (p : Path) (target : BitVec 11) (m : List Byte), taken s p 0 = false → exec (.ledgerForward p target m) s = .next s) ∧
  (∀ (s t : State) (p : Path) (target : BitVec 11) (m : List Byte), heard s p 0 → target ≠ ownId s → 32 ≤ m.length → t = s.takeUp p 0 →
    (holds t target = false → exec (.ledgerForward p target m) s =
      .next ((t.sendResponse p (fwdFailBytes target m)).violate 18 p none 0x0101)) ∧
    (holds t target = true → ∃ u : State, exec (.ledgerForward p target m) s = .next u ∧ (⟨target, fromLe (slice m 1 1) % 128, sessionOf m, seqOf m, p⟩ : ForwardRec) ∈ u.ledger.forwards ∧
      u.cluster.msg = s.cluster.msg + 1 ∧ u.mem = s.mem ∧ u.ledger.sessions = t.ledger.sessions)) ∧
  (∀ (s : State) (target : BitVec 11) (q : BitVec 32) (m : List Byte), (∀ f ∈ s.ledger.forwards, f.answeredBy target q m = false) →
    exec (.forwardResponse target q m) s = .next s) ∧
  (∀ (s : State) (f : ForwardRec) (m : List Byte), s.ledger.forwards = [f] → f.op = fromLe (slice m 1 1) % 128 → (f.op = 1 ∨ f.session = sessionOf m) →
    exec (.forwardResponse f.target f.seq m) s = .next (({ s with ledger := { s.ledger with forwards := [] } }).sendResponse f.path m)) ∧
  (∀ (s : State) (target : BitVec 11) (q : BitVec 32), exec (.forwardTimeout target q) s =
    .next { s with ledger := { s.ledger with forwards := s.ledger.forwards.eraseP (fun e => e.target == target && e.seq == q) } }) ∧
  (∀ (s : State) (src : BitVec 11) (q : BitVec 32),
    ((∀ e ∈ s.cluster.partials, ¬(e.1 = src ∧ e.2.1 = q)) → exec (.forwardedFrameTimeout src q) s = .next s) ∧
    ((∃ e ∈ s.cluster.partials, e.1 = src ∧ e.2.1 = q) → exec (.forwardedFrameTimeout src q) s =
      .next (({ s with cluster := { s.cluster with partials := s.cluster.partials.filter (fun e => !(e.1 == src && e.2.1 == q)) } }).violate 17
        (.fwd src 0) none 0))) ∧
  (∀ (s : State) (k : Fin 4) (f : List Byte) (ce : Nat) (q : List Nat), linkUp s k = true → headerGood f = false →
    exec (.forwardedFrame k f ce q) s = .next (s.discardFrame k)) ∧
  (∀ (s : State) (k : Fin 4) (f : List Byte) (ce : Nat) (q : List Nat), linkUp s k = true → headerGood f = true →
    (arrivalOf k f ce q).fseq = s.links[k].last + 1 →
    exec (.forwardedFrame k f ce q) s = .next ((s.acceptFrame (arrivalOf k f ce q) (fromLe (f.take 1) % 8)).joinFrame k f q)) ∧
  (∀ (s : State) (k : Fin 4) (f : List Byte) (q : List Nat) (dest src : BitVec 11), dest = BitVec.ofNat 11 (fromLe (slice f 2 2)) →
    src = BitVec.ofNat 11 (fromLe (slice f 4 2)) →
    (dest ≠ ownId s → s.joinFrame k f q = s.passFrame dest src f q) ∧
    (dest = ownId s → fromLe (f.take 1) = 33 → q = [] → s.joinFrame k f q = s.ledgerFrame k src (BitVec.ofNat 32 (fromLe (slice f 12 4)))
      ((fromLe (slice f 1 1)).testBit 0) ((fromLe (slice f 1 1)).testBit 1) (f.drop 24))) ∧
  (∀ (s : State) (p : Path) (b : List Byte), taken s p 0 = true → b.length < 32 →
    exec (.malformedMessage p b) s = .next ((s.takeUp p 0).violate 18 p none 0)) ∧
  (∀ (s : State) (p : Path) (b : List Byte), taken s p 0 = false → exec (.malformedMessage p b) s = .next s) ∧
  (∀ (s : State) (k : SummaryKey), summaryOf s k = none → exec (.summaryEntry k) s = .next s) ∧
  (∀ (s : State) (k : SummaryKey) (r : SummaryRec), summaryOf s k = some r → r.count = 0 →
    ∃ u : State, exec (.summaryEntry k) s = .next u ∧ summaryOf u k = none ∧ u = { s with book := u.book }) ∧
  (∀ (s : State) (k : SummaryKey) (r : SummaryRec), summaryOf s k = some r → r.count ≠ 0 →
    exec (.summaryEntry k) s = .next (setSummary (summaryEntry s k r.count r.first) k (some ⟨k, 0, 0⟩))) ∧
  (∀ (s t : State) (a : Arrival) (stream : Fin 256) (dest : BitVec 128) (port : BitVec 16) (d : List Byte) (dg : List (List Byte)),
    linkUp s a.link = true → a.fseq = s.links[a.link].last + 1 → t = (s.acceptFrame a 3).peerNumbered stream d →
    (inFragOrder (d :: dg) = none ∨ a.poisoned ≠ [] → exec (.peerStreamBale a stream dest port (d :: dg)) s = .next (t.bump (Obj.STREAM.LOST stream))) ∧
    (∀ l : List (List Byte), inFragOrder (d :: dg) = some l → a.poisoned = [] →
      (s.bale.decode.length < 64 → exec (.peerStreamBale a stream dest port (d :: dg)) s = .next { t with bale := { s.bale with decode := s.bale.decode ++
        [{ use := 2, owner := 0, bytes := l.flatMap (fun x => x.drop 32), peer := some (stream, dest, port.toNat, l) }] } }) ∧
      (64 ≤ s.bale.decode.length → exec (.peerStreamBale a stream dest port (d :: dg)) s = .next (t.bump Obj.COMPRESSION.QUEUE_FULL)))) ∧
  (∀ (l m : List (List Byte)), inFragOrder l = some m → m.length = l.length ∧ (∀ x ∈ m, x ∈ l) ∧
    ∀ (i : Nat) (h : i < m.length), fromLe (slice m[i] 16 2) = i) ∧
  (∀ (s : State) (stream : Fin 256) (d : List Byte) (origin : BitVec 11) (no : BitVec 32), origin = BitVec.ofNat 11 (fromLe (slice d 6 2)) →
    no = BitVec.ofNat 32 (fromLe (slice d 12 4)) →
    ∃ u : State, s.peerNumbered stream d = u ∧ u.twin.peers = ((origin, stream), no) :: s.twin.peers.filter (fun e => e.1 != (origin, stream)) ∧
      onlyRegs { s with twin := u.twin } u [Obj.STREAM.LOST stream] ∧
      ((∀ e ∈ s.twin.peers, e.1 ≠ (origin, stream)) → u.u (Obj.STREAM.LOST stream) = s.u (Obj.STREAM.LOST stream)) ∧
      ((d.getD 2 0).getLsbD 3 = true → u.u (Obj.STREAM.LOST stream) = s.u (Obj.STREAM.LOST stream)) ∧
      (∀ old : BitVec 32, s.twin.peers = [((origin, stream), old)] → (d.getD 2 0).getLsbD 3 = false → old.toNat < no.toNat →
        s.u (Obj.STREAM.LOST stream) + (no.toNat - old.toNat - 1) < 2 ^ 32 →
        u.u (Obj.STREAM.LOST stream) = s.u (Obj.STREAM.LOST stream) + (no.toNat - old.toNat - 1)))

/-! ## Aggon and twins (spec/14) -/

/-- R418: blocks go out in turn over the four logical lanes, each scrambled by 1 + x^39 + x^58 of its lane. R419, R420, R421, R422, R423, R424,
R427, R428, R429: training from block lock to UP, lanes and the move to the spare, haggle, the acceptance of frames in order, acknowledgement,
credit and replay, the frame that goes next among those that wait (VC0 first, then the virtual channels in turn), and departure from service. -/
def Obligations.AggonLinks : Prop :=
  (∀ (s : State) (k : Fin 4), s.u (Obj.AGGON.LSTATE k) ≠ 0 → s.u (Obj.AGGON.LSTATE k) ≠ 5 → s.links[k].waiting = false → s.u (Obj.AGGON.RETRAINS k) + 1 < 2 ^ 32 →
    ∃ t : State, exec (.trainingTimeout k) s = .next t ∧ t.u (Obj.AGGON.RETRAINS k) = s.u (Obj.AGGON.RETRAINS k) + 1 ∧ t.links[k].waiting = true ∧
      training t k = false ∧ regsKept s t [Obj.AGGON.RETRAINS k] ∧ exec (.trainingTimeout k) t = .next t) ∧
  (∀ (s : State) (k : Fin 4), s.links[k].waiting = true →
    ∃ t : State, exec (.retrain k) s = .next t ∧ t.u (Obj.AGGON.LSTATE k) = 1 ∧ training t k = true ∧ t.links[k].locked = [] ∧ t.links[k].aligned = [] ∧
      t.links[k].told = 0 ∧ regsKept s t [Obj.AGGON.LSTATE k] ∧ (∀ j : Fin 4, j ≠ k → t.links[j] = s.links[j])) ∧
  (∀ (s : State) (k : Fin 4), s.links[k].waiting = false → exec (.retrain k) s = .next s) ∧
  (∀ (s : State) (k : Fin 4) (lane : Fin 5), training s k = true → lane ∉ s.links[k].locked →
    ∃ t : State, exec (.blockLock k lane) s = .next t ∧ t.links[k].locked = lane :: s.links[k].locked ∧
      t.u (Obj.AGGON.LSTATE k) = max 2 (s.u (Obj.AGGON.LSTATE k)) ∧ regsKept s t [Obj.AGGON.LSTATE k]) ∧
  (∀ (s : State) (k : Fin 4) (lane phys : Fin 5) (l : Option (Fin 4)) (map : List (Fin 5)) (f : Option (Fin 5)),
    (l.map (·.val) ≠ map.idxOf? phys → exec (.alignmentMarker k lane phys l map f) s = .next s) ∧
    (training s k = true → lane ∉ s.links[k].locked → exec (.alignmentMarker k lane phys l map f) s = .next s)) ∧
  (∀ (s : State) (k : Fin 4) (lane phys : Fin 5) (l : Option (Fin 4)) (map : List (Fin 5)) (f : Option (Fin 5)), l.map (·.val) = map.idxOf? phys →
    training s k = true → lane ∈ s.links[k].locked → lane ∉ s.links[k].aligned →
    ∃ t : State, exec (.alignmentMarker k lane phys l map f) s = .next t ∧ t.links[k].aligned = lane :: s.links[k].aligned ∧ t.links[k].rx = map ∧
      t.links[k].senderOf lane = some phys ∧ (∀ q : Fin 5, q ≠ lane → t.links[k].senderOf q = s.links[k].senderOf q) ∧
      t.links[k].tx = ((List.finRange 5).filter (fun a => a = lane ∨ a ∈ s.links[k].aligned)).take 4 ∧
      t.links[k].spare = ((List.finRange 5).filter (fun a => a = lane ∨ a ∈ s.links[k].aligned))[4]? ∧
      (t.u (Obj.AGGON.LSTATE k) = 3 ↔ (s.u (Obj.AGGON.LSTATE k) = 2 ∧ 3 ≤ s.links[k].aligned.length) ∨ s.u (Obj.AGGON.LSTATE k) = 3)) ∧
  (∀ (s : State) (k : Fin 4) (lane phys f : Fin 5) (l : Option (Fin 4)) (map : List (Fin 5)), s.u (Obj.AGGON.LSTATE k) = 5 →
    l.map (·.val) = map.idxOf? phys →
    ∃ t : State, exec (.alignmentMarker k lane phys l map (some f)) s = .next t ∧ t.links[k].rx = map ∧ t.links[k].senderOf lane = some phys ∧
      (f ∈ s.links[k].tx → t.links[k].move = some f) ∧ (f ∉ s.links[k].tx → t.links[k].move = none) ∧ regsKept s t [] ∧ t.out = s.out) ∧
  (∀ (s : State) (k : Fin 4) (f sp : Fin 5), s.u (Obj.AGGON.LSTATE k) = 5 → s.links[k].move = some f → s.links[k].spare = some sp →
    s.u (Obj.AGGON.LANE_SWITCHES k) + 1 < 2 ^ 32 →
    ∃ t : State, exec (.alignmentMarkerSend k) s = .next t ∧ t.links[k].tx = s.links[k].tx.map (fun l => if l = f then sp else l) ∧
      t.links[k].spare = none ∧ t.links[k].move = none ∧ t.u (Obj.AGGON.LANE_SWITCHES k) = s.u (Obj.AGGON.LANE_SWITCHES k) + 1 ∧
      regsKept s t [Obj.AGGON.LANE_SWITCHES k, Obj.AGGON.LANES k] ∧
      t.out = s.out ++ (List.finRange 5).map (fun l => Out.marker k l (t.links[k].tx.idxOf? l) t.links[k].tx s.links[k].failed)) ∧
  (∀ (s : State) (k : Fin 4), s.u (Obj.AGGON.LSTATE k) = 0 → exec (.alignmentMarkerSend k) s = .next s) ∧
  (∀ (s : State) (k : Fin 4) (lane p : Fin 5), s.u (Obj.AGGON.LSTATE k) = 5 → s.links[k].senderOf lane = some p → p ∈ s.links[k].rx →
    (s.links[k].rxSpare.isSome = true → s.links[k].failed = none →
      ∃ t : State, exec (.laneFailure k lane) s = .next t ∧ t.links[k].failed = some p ∧ t.links[k].rxSpare = none ∧ t.regs = s.regs ∧ t.out = s.out) ∧
    (s.links[k].failed = some p → exec (.laneFailure k lane) s = .next s) ∧
    (s.links[k].rxSpare = none → s.links[k].failed ≠ some p → exec (.laneFailure k lane) s = .next (s.leaveService k))) ∧
  (∀ (s : State) (k : Fin 4) (lane : Fin 5), s.u (Obj.AGGON.LSTATE k) ≠ 5 →
    ∃ t : State, exec (.laneFailure k lane) s = .next t ∧ t.links[k].locked = s.links[k].locked.filter (· != lane) ∧
      t.links[k].aligned = s.links[k].aligned.filter (· != lane) ∧ lane ∉ t.links[k].tx ∧
      (2 < s.u (Obj.AGGON.LSTATE k) → t.links[k].aligned.length < 4 → t.u (Obj.AGGON.LSTATE k) = 2) ∧
      (4 ≤ t.links[k].aligned.length → t.u (Obj.AGGON.LSTATE k) = s.u (Obj.AGGON.LSTATE k)) ∧ regsKept s t [Obj.AGGON.LSTATE k]) ∧
  (∀ (s : State) (k : Fin 4), s.u (Obj.AGGON.LSTATE k) = 5 → standby s = false →
    ∃ t : State, s.leaveService k = t ∧ t.u (Obj.AGGON.LSTATE k) = 1 ∧ t.u (Obj.AGGON.PEER k) = 0xFFFF ∧ t.u (Obj.AGGON.LANES k) = 0 ∧
      t.bit (Obj.AGGON.LFLAGS k) Bit.AGGON.LFLAGS.TWIN_LINK = false ∧ t.links[k].unacked = [] ∧ t.links[k].exchanges = 0 ∧
      (suppliesRef s k = true → t.clk.refs[(2 : Fin 3)] = { present := false, passed := false }) ∧
      (active s = false → ∀ j : Fin 4, j ≠ k → t.links[j] = s.links[j]) ∧ t.mem = s.mem ∧ t.stalls = s.stalls) ∧
  (∀ (s : State) (k : Fin 4), training s k = true → 3 ≤ s.u (Obj.AGGON.LSTATE k) → refuses s 7 = false →
    ∃ t : State, exec (.haggleSend k) s = .next t ∧ onlyRegs { s with links := t.links, out := t.out } t [Obj.AGGON.LSTATE k] ∧
      t.u (Obj.AGGON.LSTATE k) = 4 ∧ t.out = s.out ++ [onLanes s k { vc := 4, kind := 7, src := ownId s, body := .haggle (haggleOf s k) }]) ∧
  (∀ (s : State) (k : Fin 4), s.u (Obj.AGGON.LSTATE k) < 3 → exec (.haggleSend k) s = .next s) ∧
  (∀ (s : State) (k : Fin 4) (h : LinkHaggle), s.links[k].tx.length < 4 → exec (.haggle k h) s = .next s) ∧
  (∀ (s : State) (k : Fin 4) (h : LinkHaggle), training s k = true → 3 ≤ s.u (Obj.AGGON.LSTATE k) → 4 ≤ s.links[k].tx.length → h.version = 1 →
    h.cluster.toNat = s.u Obj.AGGON.CLUSTER → h.fwMajor.toNat = fwMajor s → h.deviceId ≠ ownId s → s.twin.queue = [] → s.twin.outbox = [] →
    ∃ t : State, exec (.haggle k h) s = .next t ∧ t.u (Obj.AGGON.LSTATE k) = 5 ∧ t.u (Obj.AGGON.PEER k) = h.deviceId.toNat ∧ t.u (Obj.AGGON.HAGGLE_CAUSE k) = 0 ∧
      t.links[k].fseq = 0 ∧ t.links[k].unacked = [] ∧ t.links[k].peerTwin = h.twinPeer ∧ t.links[k].vcq = [] ∧ t.links[k].credit = [0, 0, 0, 0] ∧
      t.links[k].owed = (List.range 4).map (fun v => Config.linkBuffers (v + 1)) ∧
      t.bit (Obj.AGGON.LFLAGS k) Bit.AGGON.LFLAGS.TWIN_LINK =
        (s.u Obj.TWIN.TWIN_EN == 1 && h.deviceId.toNat == s.u Obj.TWIN.PEER_ID && h.twinPeer == (ownId s).setWidth 16 && s.bit Obj.TWIN.TWIN_LINKS k.val)) ∧
  (∀ (s : State) (k : Fin 4) (h : LinkHaggle) (c : Nat), training s k = true → 3 ≤ s.u (Obj.AGGON.LSTATE k) → 4 ≤ s.links[k].tx.length → haggleCause s h = c → c ≠ 0 →
    (s.links[k].told = c → exec (.haggle k h) s = .next ((s.put (Obj.AGGON.LSTATE k) 4).put (Obj.AGGON.HAGGLE_CAUSE k) c)) ∧
    (s.links[k].told ≠ c → ∃ e : Ev, exec (.haggle k h) s =
        .next ((((s.put (Obj.AGGON.LSTATE k) 4).put (Obj.AGGON.HAGGLE_CAUSE k) c).modLink k (fun x => { x with told := c })).log e) ∧ e.sub = 17 ∧
        e.inst = k.val ∧ e.detail = c)) ∧
  (∀ (s : State) (h : LinkHaggle), (h.version ≠ 1 → haggleCause s h = 1) ∧
    (h.version = 1 → h.cluster.toNat ≠ s.u Obj.AGGON.CLUSTER → haggleCause s h = 2) ∧
    (h.version = 1 → h.cluster.toNat = s.u Obj.AGGON.CLUSTER → h.fwMajor.toNat ≠ fwMajor s → haggleCause s h = 3) ∧
    (h.version = 1 → h.cluster.toNat = s.u Obj.AGGON.CLUSTER → h.fwMajor.toNat = fwMajor s → h.deviceId = ownId s → haggleCause s h = 4)) ∧
  (∀ (s t : State) (k : Fin 4) (ack : BitVec 16) (c : BitVec 32), s.u (Obj.AGGON.LSTATE k) = 5 →
    t = s.modLink k (fun x => { x with unacked := x.unacked.filter (fun e => !seqLe e.1.fseq ack), credit := withCredit x.credit c }) →
    exec (.linkFrame k false ack c) s = .next (t.pumpLink k) ∧ exec (.linkFrame k true ack c) s = .next ((t.replay k).pumpLink k)) ∧
  (∀ (a b c d : Nat) (v : BitVec 32), withCredit [a, b, c, d] v =
    [a + v.toNat % 256, b + v.toNat / 256 % 256, c + v.toNat / 65536 % 256, d + v.toNat / 16777216 % 256]) ∧
  (∀ (s : State) (k : Fin 4) (f : AggonFrame), s.u (Obj.AGGON.LSTATE k) ≠ 5 → s.sendFrame k f = s) ∧
  (∀ (s : State) (k : Fin 4) (f : AggonFrame), s.u (Obj.AGGON.LSTATE k) = 5 → f.vc ≤ 4 → freeLink s k f.vc →
    ∃ t : State, s.sendFrame k f = t ∧ t.out = s.out ++ [onLanes s k (sentAs s k f)] ∧ t.links[k].vcq = [] ∧
      (f.isLink = true → t.links[k].fseq = s.links[k].fseq ∧ t.links[k].unacked = s.links[k].unacked) ∧
      (f.isLink = false → t.links[k].fseq = s.links[k].fseq + 1 ∧ t.links[k].unacked = s.links[k].unacked ++ [(sentAs s k f, 0)]) ∧ t.links[k].owed = s.links[k].owed.map (fun n => n - 255) ∧
      t.links[k].credit = (if f.vc = 0 then s.links[k].credit else s.links[k].credit.set (f.vc - 1) (s.links[k].credit.getD (f.vc - 1) 0 - 1)) ∧
      t.regs = s.regs) ∧
  (∀ (s : State) (k : Fin 4) (f : AggonFrame), s.u (Obj.AGGON.LSTATE k) = 5 → s.links[k].vcq = [] → 1 ≤ f.vc → f.vc ≤ 4 →
    s.links[k].credit.getD (f.vc - 1) 0 = 0 ∨ refuses s 7 = true → s.sendFrame k f = s.modLink k (fun x => { x with vcq := [f] })) ∧
  (∀ (l : List (BitVec 64)) (x : LinkPart), x.nextLane < 4 → (stripe l x).2.length = l.length ∧ (stripe l x).1.nextLane = (x.nextLane + l.length) % 4 ∧
    ∀ (i : Nat) (h : i < (stripe l x).2.length), (stripe l x).2[i].1 = x.tx.getD ((x.nextLane + i) % 4) 0 ∧ (stripe l x).2[i].2.toNat % 4 = 2) ∧
  (∀ (st : BitVec 58) (b : BitVec 64) (i : Nat), i < 64 →
    (scramble st b).2.getLsbD i = (b.getLsbD i ^^ (if i < 39 then st.getLsbD (38 - i) else (scramble st b).2.getLsbD (i - 39)) ^^
      (if i < 58 then st.getLsbD (57 - i) else (scramble st b).2.getLsbD (i - 58)))) ∧
  (∀ (x : LinkPart) (f : AggonFrame) (a b : List AggonFrame), x.vcq = a ++ f :: b → f.vc = 0 → (∀ e ∈ a, e.vc ≠ 0) → nextFrame x = some f) ∧
  (∀ (x : LinkPart) (f : AggonFrame) (a b : List AggonFrame), x.vcq = a ++ f :: b → (∀ e ∈ x.vcq, e.vc ≠ 0) → f.vc = x.turn % 4 + 1 →
    (∀ e ∈ a, e.vc ≠ f.vc) → 0 < x.credit.getD (f.vc - 1) 0 → nextFrame x = some f) ∧
  (∀ (s : State) (k : Fin 4) (ack : BitVec 16) (c : BitVec 32) (nak : Bool), s.u (Obj.AGGON.LSTATE k) ≠ 5 →
    exec (.linkFrame k nak ack c) s = .next s ∧ exec (.replayTimeout k) s = .next s ∧ exec (.badFrame k) s = .next s ∧ exec (.linkSilent k) s = .next s ∧
    exec (.linkCrierSend k) s = .next s) ∧
  (∀ (s : State) (k : Fin 4) (f : AggonFrame) (n : Nat) (l : List (AggonFrame × Nat)), s.u (Obj.AGGON.LSTATE k) = 5 → s.links[k].unacked = (f, n) :: l →
    (8 ≤ n → exec (.replayTimeout k) s = .next (s.leaveService k)) ∧
    (n < 8 → refuses s 7 = false → s.u (Obj.AGGON.REPLAYS k) + 1 < 2 ^ 32 → ∃ t : State, exec (.replayTimeout k) s = .next t ∧
      t.u (Obj.AGGON.REPLAYS k) = s.u (Obj.AGGON.REPLAYS k) + 1 ∧ regsKept s t [Obj.AGGON.REPLAYS k] ∧
      t.links[k].unacked = ((f, n) :: l).map (fun e => (e.1, e.2 + 1)) ∧
      ∃ es : List (List (Fin 5 × BitVec 66)), es.length = l.length + 1 ∧
        t.out = s.out ++ List.zipWith (fun e b => Out.frame k { e.1 with ack := s.links[k].last } b) ((f, n) :: l) es)) ∧
  (∀ (s : State) (k : Fin 4), s.u (Obj.AGGON.LSTATE k) = 5 → freeLink s k 0 →
    ∃ t : State, exec (.badFrame k) s = .next t ∧ t.links[k].discarding = true ∧ t.links[k].last = s.links[k].last ∧ t.links[k].fseq = s.links[k].fseq ∧
      t.links[k].unacked = s.links[k].unacked ∧ t.regs = s.regs ∧ t.out = s.out ++ [onLanes s k
        (sentAs s k { vc := 0, kind := 0, src := ownId s, dest := BitVec.ofNat 11 (s.u (Obj.AGGON.PEER k)), nak := true, body := .empty })]) ∧
  (∀ (s : State) (a : Arrival) (vc : Nat) (act : State → State), (linkUp s a.link = false → s.receive a vc act = s) ∧
    (linkUp s a.link = true → a.fseq = s.links[a.link].last + 1 → s.receive a vc act = act (s.acceptFrame a vc)) ∧
    (linkUp s a.link = true → a.fseq ≠ s.links[a.link].last + 1 → seqLe a.fseq s.links[a.link].last = true ∨ s.links[a.link].discarding = true →
      s.receive a vc act = s) ∧
    (linkUp s a.link = true → a.fseq ≠ s.links[a.link].last + 1 → seqLe a.fseq s.links[a.link].last = false → s.links[a.link].discarding = false →
      s.receive a vc act = s.discardFrame a.link)) ∧
  (∀ (s : State) (a : Arrival) (vc : Nat), vc ≤ 4 → s.links[a.link].vcq = [] →
    ∃ t : State, s.acceptFrame a vc = t ∧ onlyRegs { s with links := t.links } t [Obj.AGGON.CE a.link, Obj.MEMORY.POISON_SEEN] ∧
      t.links[a.link].last = a.fseq ∧ t.links[a.link].discarding = false ∧ t.links[a.link].credit = withCredit s.links[a.link].credit a.credit ∧
      t.links[a.link].unacked = s.links[a.link].unacked.filter (fun e => !seqLe e.1.fseq a.ack) ∧
      (vc = 0 → t.links[a.link].owed = s.links[a.link].owed) ∧
      (vc ≠ 0 → t.links[a.link].owed = s.links[a.link].owed.set (vc - 1) (s.links[a.link].owed.getD (vc - 1) 0 + 1)) ∧
      (s.u (Obj.AGGON.CE a.link) + a.ce < 2 ^ 32 → t.u (Obj.AGGON.CE a.link) = s.u (Obj.AGGON.CE a.link) + a.ce) ∧
      (s.u Obj.MEMORY.POISON_SEEN + a.poisoned.length < 2 ^ 32 → t.u Obj.MEMORY.POISON_SEEN = s.u Obj.MEMORY.POISON_SEEN + a.poisoned.length)) ∧
  (∀ (s : State) (k : Fin 4) (f : AggonFrame), s.u (Obj.AGGON.LSTATE k) = 5 → freeLink s k 0 →
    f = sentAs s k { vc := 0, kind := 2, src := ownId s, dest := BitVec.ofNat 11 (s.u (Obj.AGGON.PEER k)), body := .crier none } →
    ∃ t : State, exec (.linkCrierSend k) s = .next t ∧ t.out = s.out ++ [onLanes s k f] ∧ t.links[k].fseq = s.links[k].fseq + 1 ∧
      t.links[k].unacked = s.links[k].unacked ++ [(f, 0)] ∧ t.regs = s.regs) ∧
  (∀ (s : State) (k : Fin 4), s.u (Obj.AGGON.LSTATE k) = 5 → standby s = false →
    ∃ t : State, exec (.linkSilent k) s = .next t ∧ t.bit (Obj.AGGON.LFLAGS k) Bit.AGGON.LFLAGS.LINK_SILENT = true ∧ t.u (Obj.AGGON.LSTATE k) = 1)

/-- R430, R431, R432, R433, R434, R435: TOPO frames and the cluster's table, the root, and the time exchange. -/
def Obligations.ClusterTable : Prop :=
  (∀ s : State, (∀ k : Fin 4, linkUp s k = true → freeLink s k 4) →
    ∃ t : State, exec .topoSend s = .next t ∧ t.cluster.topoSeq = s.cluster.topoSeq + 1 ∧ t.regs = s.regs ∧
      t.out = s.out ++ ((List.finRange 4).filter (linkUp s)).map (fun k => onLanes s k
        (sentAs s k { vc := 4, kind := 8, bcast := true, src := ownId s, body := .topo (ownTopo s) }))) ∧
  (∀ (s : State) (a : Arrival) (f : TopoFrame), s.u (Obj.AGGON.LSTATE a.link) ≠ 5 → exec (.topo a f) s = .next s) ∧
  (∀ (s u : State) (a : Arrival) (f : TopoFrame), inOrder s a 4 u → a.poisoned ≠ [] → exec (.topo a f) s = .next u) ∧
  (∀ (s u : State) (a : Arrival) (f : TopoFrame), inOrder s a 4 u → a.poisoned = [] → f.deviceId ≠ ownId u →
    (∀ r ∈ u.cluster.table, r.frame.deviceId ≠ f.deviceId) →
    u.cluster.table.length < 2047 → (∀ j : Fin 4, j ≠ a.link → linkUp u j = true → freeLink u j 4) →
    ∃ t : State, exec (.topo a f) s = .next t ∧ t.cluster.table = u.cluster.table ++ [{ frame := f, seen := [f.seq] }] ∧
      t.u Obj.AGGON.CLUSTER_SIZE = u.cluster.table.length + 2 ∧
      t.out = u.out ++ (if f.hops ≤ 1 then [] else ((List.finRange 4).filter (fun j => linkUp u j && decide (j ≠ a.link))).map (fun j => onLanes u j
        (sentAs u j { vc := 4, kind := 8, bcast := true, src := f.deviceId, hops := f.hops - 1, body := .topo { f with hops := f.hops - 1 } })))) ∧
  (∀ (s u : State) (a : Arrival) (f : TopoFrame) (r : TopoRec), inOrder s a 4 u → a.poisoned = [] → f.deviceId ≠ ownId u → u.cluster.table = [r] →
    r.frame.deviceId = f.deviceId → r.frame.serialCrc = f.serialCrc → f.seq ∈ r.seen →
    exec (.topo a f) s = .next u) ∧
  (∀ (s u : State) (a : Arrival) (f : TopoFrame), inOrder s a 4 u → a.poisoned = [] → f.deviceId = ownId u → f.serialCrc ≠ crc32c (u.blob Obj.IDENTITY.SERIAL) →
    f.deviceId ∉ u.cluster.dups →
    ∃ t : State, exec (.topo a f) s = .next t ∧ t.bit Obj.AGGON.FLAGS Bit.AGGON.FLAGS.DUP_ID = true ∧ f.deviceId ∈ t.cluster.dups ∧ route t f.deviceId = none) ∧
  (∀ (s : State) (d : BitVec 11), ∃ t : State, exec (.topoAgeOut d) s = .next t ∧ t.cluster.table = s.cluster.table.filter (fun r => r.frame.deviceId != d) ∧
      t.cluster.dups = s.cluster.dups.filter (fun x => x != d) ∧ (t.cluster.dups = [] → t.bit Obj.AGGON.FLAGS Bit.AGGON.FLAGS.DUP_ID = false) ∧
      t.stalls = s.stalls ∧ t.mem = s.mem) ∧
  (∀ s : State, ∃ t : State, exec .rootSelection s = .next t ∧ t.cluster.root = (bestRank (eligible s)).map Rank.dev ∧ t.cluster.table = s.cluster.table ∧
      (t.bit Obj.AGGON.FLAGS Bit.AGGON.FLAGS.NO_ROOT = (eligible s).isEmpty) ∧
      (t.bit Obj.AGGON.FLAGS Bit.AGGON.FLAGS.IS_ROOT = decide (t.cluster.root = some (ownId s))) ∧
      (t.cluster.root = some (ownId s) → t.u Obj.AGGON.CLUSTER_ERR = 0 ∧ t.ep.clusterUsable = false) ∧ t.mem = s.mem ∧ t.out = s.out) ∧
  (∀ (l : List Rank) (r : Rank), bestRank l = some r → r ∈ l ∧ ∀ x ∈ l, x.better r = false) ∧
  (∀ (s : State) (r : Rank), r ∈ eligible s → 0 < r.pri ∧ r.dev ∉ s.cluster.dups) ∧
  (∀ s : State, (upstream s = none → exec .clusterSourceLoss s = .next { s with ep := { s.ep with clusterUsable := false } }) ∧
    (upstream s ≠ none → exec .clusterSourceLoss s = .next s)) ∧
  (∀ (s : State) (k : Fin 4) (x : Stamp), s.u (Obj.AGGON.LSTATE k) ≠ 5 → exec (.timingMarker k x) s = .next s) ∧
  (∀ (s : State) (k : Fin 4) (x : Stamp), s.u (Obj.AGGON.LSTATE k) = 5 → stampsFine s ⟨13 + k.val, by omega⟩ x → freeLink s k 0 →
    ∃ t : State, exec (.timingMarker k x) s = .next t ∧ t.links[k].sent = x ∧ regsKept s t (edgeRegs ⟨13 + k.val, by omega⟩) ∧
      t.out = s.out ++ [.timing k, onLanes s k (sentAs s k
        { vc := 0, kind := 3, src := ownId s, dest := BitVec.ofNat 11 (s.u (Obj.AGGON.PEER k)),
          body := .time x s.links[k].marker (s.u Obj.AGGON.CLUSTER_ERR) })]) ∧
  (∀ (s : State) (k : Fin 4) (x : Stamp) (l : Int) (ch : Fin 21), s.u (Obj.AGGON.LSTATE k) = 5 → ch.val = 13 + k.val → s.tdc.lastEdge[ch] = some l →
    l ≤ (x : Int) → (x : Int) < l + 2048 →
    exec (.timingMarker k x) s = .next ((s.emit (.timing k)).bump (Obj.CHANNEL.DEAD_MISS (13 + k.val)))) ∧
  (∀ (s : State) (a : Arrival) (t2 t3 : Stamp) (err : BitVec 32), s.u (Obj.AGGON.LSTATE a.link) ≠ 5 → exec (.timeFrame a t3 t2 err) s = .next s) ∧
  (∀ (s₀ s : State) (a : Arrival) (t2 t3 : Stamp) (err : BitVec 32), inOrder s₀ a 0 s → a.poisoned ≠ [] → exec (.timeFrame a t3 t2 err) s₀ = .next s) ∧
  (∀ (s₀ s : State) (a : Arrival) (k : Fin 4) (t1 t2 t3 t4 : Stamp) (err : BitVec 32), inOrder s₀ a 0 s → a.poisoned = [] → a.link = k →
    s.links[k].inMean < 15 → upstream s = none → t1 = s.links[k].sent → t4 = s.links[k].marker →
    ∃ t : State, exec (.timeFrame a t3 t2 err) s₀ = .next t ∧ t.links[k].inMean = s.links[k].inMean + 1 ∧
      t.links[k].exchanges = min 16 (s.links[k].exchanges + 1) ∧
      t.links[k].sumDelay = s.links[k].sumDelay + (((t2 : Int) - t1) + ((t4 : Int) - t3)) ∧
      t.links[k].sumOffset = s.links[k].sumOffset + (((t2 : Int) - t1) - ((t4 : Int) - t3)) ∧ t.regs = s.regs ∧ t.out = s.out) ∧
  (∀ (s₀ s : State) (a : Arrival) (k : Fin 4) (t1 t2 t3 t4 : Stamp) (err : BitVec 32) (d o : Int), inOrder s₀ a 0 s → a.poisoned = [] → a.link = k →
    s.links[k].inMean = 15 → upstream s = none →
    s.cluster.root = none → t1 = s.links[k].sent → t4 = s.links[k].marker → s.links[k].sumDelay + (((t2 : Int) - t1) + ((t4 : Int) - t3)) = 16384 * d →
    s.links[k].sumOffset + (((t2 : Int) - t1) - ((t4 : Int) - t3)) = 16384 * o → 0 ≤ d → d * 625 < 2 ^ 32 → s.i (Obj.AGGON.ASYMMETRY k) = 0 → -(2 ^ 40) < o → o < 2 ^ 40 →
    ∃ t : State, exec (.timeFrame a t3 t2 err) s₀ = .next t ∧ t.links[k].inMean = 0 ∧ t.links[k].sumDelay = 0 ∧ t.links[k].sumOffset = 0 ∧
      t.u (Obj.AGGON.MEAN_DELAY k) = (d * 625).toNat ∧ t.i (Obj.AGGON.OFFSET k) = o * 625)

/-- R441, R444, R445, R447, R448, R449, R450, R451, R452, R453, R454: roles, criers, the CLAIM wire and takeover, and what a standby does with mirrored frames. -/
def Obligations.Twins : Prop :=
  (∀ (s : State) (path : TwinPath), s.u Obj.TWIN.TWIN_EN = 0 → exec (.twinCrierSend path) s = .next s ∧ exec (.crierTimeout path) s = .next s) ∧
  (∀ (s : State) (k : Fin 4) (m : CrierMsg), s.u Obj.TWIN.TWIN_EN = 1 → twinLinks s = [k] → freeLink s k 0 →
    m = ⟨BitVec.ofNat 8 (s.u Obj.TWIN.ROLE), if s.bit Obj.TWIN.FLAGS Bit.TWIN.FLAGS.IN_STEP then 1 else 0,
      BitVec.ofNat 24 (s.u Obj.TWIN.CLAIM), s.twin.cseq, BitVec.ofNat 64 s.now⟩ →
    ∃ t : State, exec (.twinCrierSend .aggon) s = .next t ∧ t.out = s.out ++ [onLanes s k
        (sentAs s k { vc := 0, kind := 2, src := ownId s, dest := BitVec.ofNat 11 (s.u Obj.TWIN.PEER_ID), body := .crier (some m) })] ∧ t.twin.cseq = s.twin.cseq + 1 ∧ t.regs = s.regs) ∧
  (∀ (s : State) (m : CrierMsg), s.u Obj.TWIN.TWIN_EN = 1 → m.claim.toNat % 2048 ≠ s.u Obj.TWIN.PEER_ID →
    exec (.crier none (some m)) s = .next s) ∧
  (∀ (s u : State) (a : Arrival) (m : CrierMsg), inOrder s a 0 u →
    (a.poisoned ≠ [] ∨ u.u Obj.TWIN.TWIN_EN = 0 ∨ m.claim.toNat % 2048 ≠ u.u Obj.TWIN.PEER_ID → exec (.crier (some a) (some m)) s = .next u) ∧
    exec (.crier (some a) none) s = .next u ∧ (a.poisoned = [] → exec (.crier (some a) (some m)) s = .next (u.crierIn .aggon m))) ∧
  (∀ (s : State) (p q : Fin 4), s.u Obj.TWIN.TWIN_EN = 1 → p.val = 2 * s.u Obj.TWIN.TWIN_IFACE → q.val = p.val + 1 → s.eth[p].up = true → s.eth[q].up = true →
    refuses s 6 = false →
    ∃ t : State, exec (.twinCrierSend .eth) s = .next t ∧ t.twin.cseq = s.twin.cseq + 1 ∧ t.out = s.out ++
      [.crier p (s.u Obj.TWIN.PEER_MAC % 2 ^ 48) (crierBytes (crierOf s)) (rctOf s p),
        .crier q (s.u Obj.TWIN.PEER_MAC % 2 ^ 48) (crierBytes (crierOf s)) (rctOf s p)] ∧
      onlyRegs { s with twin := t.twin, eth := t.eth, out := t.out } t [Obj.ETH_PORT.TX_FRAMES p, Obj.ETH_PORT.TX_FRAMES q]) ∧
  (∀ (s : State) (m : CrierMsg), s.u Obj.TWIN.TWIN_EN = 1 → m.claim.toNat % 2048 = s.u Obj.TWIN.PEER_ID → s.u Obj.TWIN.ROLE = 0 → m.role = 2 →
    s.u Obj.TWIN.PRIORITY ≤ 4095 →
    ∃ t : State, exec (.crier none (some m)) s = .next t ∧ t.u Obj.TWIN.ROLE = 1 ∧ ownPriority t = s.u Obj.TWIN.PRIORITY ∧
      t.bit Obj.TWIN.FLAGS Bit.TWIN.FLAGS.IN_STEP = false ∧ t.twin.runs = Vector.replicate 8 0 ∧ t.twin.lateEth = false) ∧
  (∀ (s : State) (m : CrierMsg), s.u Obj.TWIN.TWIN_EN = 1 → m.claim.toNat % 2048 = s.u Obj.TWIN.PEER_ID → s.u Obj.TWIN.ROLE = 1 → m.role = 3 →
    ∃ t : State, exec (.crier none (some m)) s = .next t ∧ t.u Obj.TWIN.ROLE = 2 ∧ ownPriority t = min 8191 (max 4096 (peerPriority s + 1))) ∧
  (∀ (s : State) (m : CrierMsg), s.u Obj.TWIN.TWIN_EN = 1 → m.claim.toNat % 2048 = s.u Obj.TWIN.PEER_ID → s.u Obj.TWIN.ROLE = 2 → m.role = 1 →
    s.twin.peerRole = some 1 → m.cflags.getLsbD 0 = true →
    ∃ t : State, exec (.crier none (some m)) s = .next t ∧ t.u Obj.TWIN.ROLE = 2 ∧ ownPriority t = min 4096 (ownPriority s)) ∧
  (∀ s : State, s.u Obj.TWIN.TWIN_EN = 1 → s.u Obj.TWIN.ROLE = 1 → s.twin.lateEth = true → s.twin.fresh = false →
    ∃ t : State, exec (.crierTimeout .aggon) s = .next t ∧ t.u Obj.TWIN.ROLE = 2 ∧ ownPriority t = min 8191 (max 4096 (peerPriority s + 1)) ∧
      (s.u Obj.TWIN.TAKEOVERS + 1 < 2 ^ 32 → t.u Obj.TWIN.TAKEOVERS = s.u Obj.TWIN.TAKEOVERS + 1) ∧ t.twin.arriving = [] ∧
      t.bit Obj.TWIN.FLAGS Bit.TWIN.FLAGS.PATH_AGGON = true) ∧
  (∀ s : State, s.u Obj.TWIN.TWIN_EN = 1 → s.u Obj.TWIN.ROLE = 1 → (s.twin.lateEth = false ∨ s.twin.fresh = true) →
    ∃ t : State, exec (.crierTimeout .aggon) s = .next t ∧ t.u Obj.TWIN.ROLE = 1 ∧ t.twin.lateAggon = true ∧
      t.bit Obj.TWIN.FLAGS Bit.TWIN.FLAGS.PATH_AGGON = true) ∧
  (∀ s : State, s.u Obj.TWIN.TWIN_EN = 1 → s.u Obj.TWIN.ROLE = 0 → s.twin.lateAggon = true → (s.twin.fresh = false ∨ peerPriority s < 4096) →
    ∃ t : State, exec (.crierTimeout .eth) s = .next t ∧ t.u Obj.TWIN.ROLE = 2 ∧ ownPriority t = 4096) ∧
  (∀ (s : State) (f : BitVec 40), (f >>> 32).setWidth 8 ≠ 0xB4#8 ∨ f.setWidth 8 ≠ crc8 ((f >>> 8).setWidth 24) → exec (.claimFrame f) s = .next s) ∧
  (∀ (s : State) (c : BitVec 24) (f : BitVec 40), f = 0xB4#8 ++ c ++ crc8 c → (s.u Obj.TWIN.TWIN_EN = 0 ∨ (c.toNat ≤ s.u Obj.TWIN.CLAIM ∧ standby s = false)) →
    ∃ t : State, exec (.claimFrame f) s = .next t ∧ t.u Obj.TWIN.PEER_CLAIM = c.toNat ∧ t.twin.fresh = true ∧
      t.bit Obj.TWIN.FLAGS Bit.TWIN.FLAGS.CLAIM_STALE = false ∧ regsKept s t [Obj.TWIN.PEER_CLAIM, Obj.TWIN.FLAGS] ∧ t.ports = s.ports ∧ t.mem = s.mem) ∧
  (∀ (s : State) (c : BitVec 24) (f : BitVec 40), f = 0xB4#8 ++ c ++ crc8 c → s.u Obj.TWIN.TWIN_EN = 1 → s.u Obj.TWIN.ROLE = 2 → s.u Obj.TWIN.CLAIM < c.toNat →
    s.u Obj.TWIN.PRIORITY ≤ 4095 →
    ∃ t : State, exec (.claimFrame f) s = .next t ∧ t.u Obj.TWIN.ROLE = 1 ∧ ownPriority t = s.u Obj.TWIN.PRIORITY ∧ t.u Obj.TWIN.PEER_CLAIM = c.toNat) ∧
  (∀ (s : State) (c : BitVec 24) (f : BitVec 40), f = 0xB4#8 ++ c ++ crc8 c → s.u Obj.TWIN.TWIN_EN = 1 → s.u Obj.TWIN.ROLE = 1 → c.toNat / 2048 = 0 →
    ∃ t : State, exec (.claimFrame f) s = .next t ∧ t.u Obj.TWIN.ROLE = 2 ∧ ownPriority t = 4096) ∧
  (∀ s : State, standby s = false → (s.u Obj.TWIN.TWIN_EN = 0 ∨ s.u Obj.TWIN.ROLE ≠ 0 ∨ s.twin.lateAggon = false ∨ s.twin.lateEth = false) →
    ∃ t : State, exec .claimStale s = .next t ∧ t.twin.fresh = false ∧
      t.bit Obj.TWIN.FLAGS Bit.TWIN.FLAGS.CLAIM_STALE = true ∧ regsKept s t [Obj.TWIN.FLAGS] ∧ t.mem = s.mem ∧ t.ports = s.ports) ∧
  (∀ s : State, s.u Obj.TWIN.TWIN_EN = 1 → s.u Obj.TWIN.ROLE = 0 → s.twin.lateAggon = true → s.twin.lateEth = true →
    ∃ t : State, exec .claimStale s = .next t ∧ t.u Obj.TWIN.ROLE = 2 ∧ ownPriority t = 4096) ∧
  (∀ s : State, s.u Obj.TWIN.TWIN_EN = 1 → s.u Obj.TWIN.ROLE = 1 → s.twin.lateAggon = true → s.twin.lateEth = true →
    ∃ t : State, exec .claimStale s = .next t ∧ t.u Obj.TWIN.ROLE = 2 ∧ ownPriority t = min 8191 (max 4096 (peerPriority s + 1))) ∧
  (∀ (s : State) (n : Port), s.twin.yieldReq = true → s.u Obj.TWIN.TWIN_EN = 1 → s.u Obj.TWIN.ROLE = 2 → s.twinned n = true →
    ∃ t : State, s.yieldNow n = t ∧ t.u Obj.TWIN.ROLE = 3 ∧ ownPriority t = 0 ∧ t.twin.yieldReq = false) ∧
  (∀ (s u : State) (a : Arrival) (n : Port) (d : BitVec 32) (i : Nat) (z : Bool) (b : List Byte), inOrder s a 2 u → standby u = false →
    exec (.mirrorFrame a n d i z b) s = .next u) ∧
  (∀ (s u : State) (a : Arrival) (n : Port) (d : BitVec 32) (i : Nat) (b : List Byte), inOrder s a 2 u → u.u Obj.TWIN.TWIN_EN = 1 → u.u Obj.TWIN.ROLE = 1 →
    u.twinned n = true → 0 < i → u.twin.arriving = [] → 0 ∉ a.poisoned →
    ∃ t : State, exec (.mirrorFrame a n d i false b) s = .next t ∧
      t.twin.arriving = [{ port := n, deliv := d, pieces := [(i, b)], total := none, poisoned := a.poisoned.map (fun w => i + w - 1), links := [a.link] }] ∧
      t = { u with twin := t.twin }) ∧
  (∀ (s : State) (n : Port) (d : Option Delivery), s.u Obj.TWIN.MIRROR_LOST + 1 < 2 ^ 32 →
    ∃ t : State, s.mirrorLost n d = t.skipLost n d ∧ t.u Obj.TWIN.MIRROR_LOST = s.u Obj.TWIN.MIRROR_LOST + 1 ∧
      t.bit Obj.TWIN.FLAGS Bit.TWIN.FLAGS.IN_STEP = false ∧ t.twin.runs[n] = 0 ∧ onlyRegs { s with twin := t.twin } t [Obj.TWIN.MIRROR_LOST, Obj.TWIN.FLAGS]) ∧
  (∀ (s : State) (n : Port) (k : Fin 192), s.pitches[k].host.isSome = true → s.u (Obj.PITCH.PORT k) = n.val → s.u (Obj.PITCH.SKIPPED k) + 1 < 2 ^ 32 →
    ∃ t : State, s.mirrorLost n none = t ∧ t.u (Obj.PITCH.SKIPPED k) = s.u (Obj.PITCH.SKIPPED k) + 1 ∧
      t.bit Obj.TWIN.FLAGS Bit.TWIN.FLAGS.IN_STEP = false ∧ t.twin.runs[n] = 0) ∧
  (∀ (s u : State) (a : Arrival) (m : MirrorCommit), inOrder s a 2 u →
    standby u = false ∨ (mirrored u m.index.toNat = false ∧ (m.index.toNat < 0x6000 ∨ 0x6100 ≤ m.index.toNat)) → exec (.mirroredCommit a m) s = .next u) ∧
  (∀ (s u : State) (a : Arrival) (m : MirrorCommit), inOrder s a 2 u → a.poisoned = [] → standby u = true → mirrored u m.index.toNat = true →
    m.index.toNat < 0x5000 →
    ∃ t : State, exec (.mirroredCommit a m) s = .next t ∧ (m.index.toNat, m.boundary) ∈ t.twin.tags ∧ (⟨m.index.toNat, 0, 0⟩ : Applying) ∈ t.ledger.applying ∧
      t.regs = u.regs ∧ t.mem = u.mem ∧ t.out = u.out) ∧
  (∀ (s u : State) (a : Arrival) (m : BaleMarkMsg), inOrder s a 2 u → standby u = false → exec (.baleMark a m) s = .next u) ∧
  (∀ (s u : State) (a : Arrival) (m : BaleMarkMsg), inOrder s a 2 u → a.poisoned = [] → standby u = true → u.streams[m.stream].isOpen = true →
    u.streams[m.stream].held = [] →
    exec (.baleMark a m) s = .next (u.modStream m.stream (fun x => { x with marks := x.marks ++ [m] }))) ∧
  (∀ (s : State) (c : Nat), c < 2 ^ 24 → s.u Obj.TWIN.CLAIM ≠ c → ∃ t : State, s.putClaim c = t ∧ t.u Obj.TWIN.CLAIM = c ∧
      t.out = s.out ++ [.claim (0xB4#8 ++ BitVec.ofNat 24 c ++ crc8 (BitVec.ofNat 24 c))] ∧
      onlyRegs { s with twin := t.twin, out := t.out } t [Obj.TWIN.CLAIM] ∧
      claimOnWire t = claimOnWire s) ∧
  (∀ s : State, s.twin.wireSince < claimStart s → claimOnWire s = BitVec.ofNat 24 (s.u Obj.TWIN.CLAIM)) ∧
  (∀ (s : State) (k : Fin 256) (bale : List Byte) (first : Nat) (m : BaleMarkMsg),
    ∃ t : State, s.meetMark k bale first m = t ∧ t.u (Obj.STREAM.SEQ k) = (m.firstSeq.toNat + m.frags.toNat) % 2 ^ 32 ∧ t.streams[k].baleNo = m.bale + 1 ∧
      (markOf k bale s.streams[k].baleNo.toNat (s.u (Obj.STREAM.SEQ k)) (fragments s k bale first (s.u (Obj.STREAM.SEQ k)) s.streams[k].baleNo.toNat).length ≠ m →
        s.u Obj.TWIN.WITHHELD + 1 < 2 ^ 32 → t.u Obj.TWIN.WITHHELD = s.u Obj.TWIN.WITHHELD + 1 ∧ t.eth = s.eth ∧ t.out = s.out))

/-! ## Plant interfaces (spec/15) -/

/-- R464, R465, R466, R467, R468, R469, R461, R462: conversions, faults and tone checks of the sensor front end, and the plausibility of a cycle. -/
def Obligations.SensorFrontEnd : Prop :=
  (∀ (s : State) (c : Fin 8) (x : SfeSample) (y : Option SfeSample) (p : Stamp) (n : Nat), sfeRuns s c = false →
    exec (.conversionEnd c x y) s = .next s ∧ exec (.excCompliance c p) s = .next s ∧ exec (.toneCheck c n) s = .next s) ∧
  (∀ (s : State) (c : Fin 8), sfeRuns s c = (s.bit Obj.SFE.CH_EN c && s.plant.live &&
    !(s.calOf (if c.val < 4 ∨ s.u Obj.SFE.CONV_MODE = 1 then 17 else 18)).running)) ∧
  (∀ (s : State) (c : Fin 8) (x : SfeSample) (y : Option SfeSample), sfeRuns s c = true → s.u (Obj.SFE.GAIN c) = 0xFF →
    970 < x.peak → 0 < s.plant.sfe[c].step → s.u (Obj.SFE.REPEATS c) + 1 < 2 ^ 32 →
    ∃ t : State, exec (.conversionEnd c x y) s = .next t ∧ t.plant.sfe[c].step = s.plant.sfe[c].step - 1 ∧ t.plant.sfe[c].repeating = true ∧
      t.u (Obj.SFE.REPEATS c) = s.u (Obj.SFE.REPEATS c) + 1 ∧ regsKept s t [Obj.SFE.REPEATS c] ∧ (∀ d : Fin 8, d ≠ c → t.plant.sfe[d] = s.plant.sfe[d]) ∧
      t.out = s.out) ∧
  (∀ (s : State) (c : Fin 8) (x : SfeSample) (y : Option SfeSample), sfeRuns s c = true → s.u (Obj.SFE.GAIN c) = 0xFF →
    970 < x.peak → s.plant.sfe[c].step = 0 → s.plant.sfe[c].held = none →
    ∃ t : State, exec (.conversionEnd c x y) s = .next t ∧ t.u (Obj.SFE.VALUE c) = 0x80000003 ∧ sfeFault t c.val = 3 ∧ t.u (Obj.SFE.RES c) = x.res.toNat) ∧
  (∀ (s : State) (c : Fin 8) (x : SfeSample) (y : Option SfeSample), sfeRuns s c = true →
    s.u (Obj.SFE.GAIN c) < 8 → s.u (Obj.SFE.CURVE c) ≠ 0 → s.plant.sfe[c].held = none →
    ∃ t : State, exec (.conversionEnd c x y) s = .next t ∧ t.u (Obj.SFE.RES c) = x.res.toNat ∧
      (match temperature s c x.res.toNat with
        | some v => t.i (Obj.SFE.VALUE c) = v ∧ sfeFault t c.val = 0
        | none => t.u (Obj.SFE.VALUE c) = 0x80000005 ∧ sfeFault t c.val = 5) ∧
      t.u (Obj.SFE.STAMP c) = epochVal x.stamp % 2 ^ (Obj.SFE.STAMP c).width ∧ t.u (Obj.SFE.CSTAT c) / 32 % 8 = s.u (Obj.SFE.GAIN c) ∧
      t.bit (Obj.SFE.CSTAT c) Bit.SFE.CSTAT.LOWPOWER = (s.u Obj.SFE.CONV_MODE == 1) ∧ t.bit (Obj.SFE.CSTAT c) Bit.SFE.CSTAT.CHECKED = false ∧
      t.bit (Obj.SFE.CSTAT c) Bit.SFE.CSTAT.REPEAT = s.plant.sfe[c].repeating ∧ t.plant.sfe[c].hasResult = true ∧ t.plant.sfe[c].taken = true ∧
      t.plant.sfe[c].repeating = false ∧ t.plant.sfe[c].step = s.plant.sfe[c].step ∧ t.mem = s.mem ∧
      (bothSense s c = true → ∀ z ∈ y, t.plant.pair = some (c, x.res.toNat, z.res.toNat)) ∧
      (bothSense s c = false ∨ y = none → t.plant.pair = s.plant.pair)) ∧
  (∀ (s : State) (c : Fin 8) (res : Nat), ∀ v ∈ temperature s c res, 0 ≤ v ∧ v ≤ 2047 * 4096) ∧
  (∀ (s : State) (c : Fin 8) (x : SfeSample), sfeRuns s c = true → s.u (Obj.SFE.GAIN c) = 0xFF → x.peak < 400 →
    s.plant.sfe[c].step < 7 →
    ∃ t : State, exec (.conversionEnd c x none) s = .next t ∧ t.plant.sfe[c].step = s.plant.sfe[c].step + 1) ∧
  (∀ (x : SfeChannel) (q m : Nat), x.chopped = false → x.quadRun = 3 → m < q →
    (x.choose false q m).chopped = true) ∧
  (∀ (x : SfeChannel) (q m : Nat) (chop : Bool), x.chopped = false → (q ≤ m ∨ x.quadRun < 3) →
    (x.choose chop q m).chopped = false ∧ (q ≤ m → (x.choose chop q m).quadRun = 0)) ∧
  (∀ (s : State) (c : Fin 8) (p : Stamp), sfeRuns s c = true → sfeStep s c < 8 →
    ∃ t : State, exec (.excCompliance c p) s = .next t ∧ t.u (Obj.SFE.VALUE c) = 0x80000001 ∧ sfeFault t c.val = 1 ∧ t.plant.sfe[c].held = some 1 ∧
      t.u (Obj.SFE.STAMP c) = epochVal p % 2 ^ (Obj.SFE.STAMP c).width ∧
      (s.u (Obj.SFE.FAULTS c) + 1 < 2 ^ 32 → t.u (Obj.SFE.FAULTS c) = s.u (Obj.SFE.FAULTS c) + 1) ∧ t.mem = s.mem) ∧
  (∀ (s : State) (c : Fin 8), sfeRuns s c = true →
    exec (.toneCheck c 0) s = .next (s.modSfe c (fun x => { x with held := none }))) ∧
  (∀ (s : State) (c : Fin 8) (n : Nat), s.u Obj.SFE.TONE_PERIOD = 0 → s.plant.sfe[c].held = none → exec (.toneCheck c n) s = .next s) ∧
  (∀ (s : State) (c : Fin 8) (n : Nat), sfeRuns s c = true → (s.u Obj.SFE.TONE_PERIOD ≠ 0 ∨ s.plant.sfe[c].held ≠ none) → sfeStep s c < 8 →
    n = 1 ∨ n = 2 ∨ n = 6 →
    ∃ t : State, exec (.toneCheck c n) s = .next t ∧ t.u (Obj.SFE.VALUE c) = 0x80000000 + n ∧ sfeFault t c.val = n ∧ t.plant.sfe[c].held = some n ∧
      (s.u (Obj.SFE.FAULTS c) + 1 < 2 ^ 32 → t.u (Obj.SFE.FAULTS c) = s.u (Obj.SFE.FAULTS c) + 1) ∧ t.mem = s.mem) ∧
  (∀ (s : State) (d : BitVec 32), s.plant.live = true → s.u Obj.SFE.CONV_MODE = 0 → s.plant.pair = none →
    ∃ t : State, exec (.sfeCycleEnd d) s = .next t ∧ t.plant.cycle = s.plant.cycle + 1 ∧ t.plant.pair = none ∧ t.plant.failRun = s.plant.failRun ∧
      t.plant.passRun = s.plant.passRun ∧ (∀ c : Fin 8, t.plant.sfe[c].taken = false)) ∧
  (∀ (s : State) (d : BitVec 32) (c : Fin 8) (a b : Nat), s.plant.live = true → s.u Obj.SFE.CONV_MODE = 0 → s.plant.pair = some (c, a, b) → s.plant.sfe[c].taken = true → s.isApplying 0x7000 = false →
    2 * 1000000 * ((a : Int) - b).natAbs ≤ s.u Obj.SFE.PLAUS_TOL * (a + b) → s.plant.passRun < 7 →
    ∃ t : State, exec (.sfeCycleEnd d) s = .next t ∧ t.bit (Obj.SFE.CSTAT c) Bit.SFE.CSTAT.CHECKED = true ∧ t.plant.failRun = 0 ∧
      t.plant.passRun = s.plant.passRun + 1 ∧ t.bit Obj.SFE.FLAGS Bit.SFE.FLAGS.PLAUS_ALARM = s.bit Obj.SFE.FLAGS Bit.SFE.FLAGS.PLAUS_ALARM ∧
      t.u Obj.SFE.PLAUS_FAILS = s.u Obj.SFE.PLAUS_FAILS) ∧
  (∀ (s : State) (d : BitVec 32) (c : Fin 8) (a b : Nat), s.plant.live = true → s.u Obj.SFE.CONV_MODE = 0 → s.plant.pair = some (c, a, b) → s.plant.sfe[c].taken = true → s.isApplying 0x7000 = false →
    s.u Obj.SFE.PLAUS_TOL * (a + b) < 2 * 1000000 * ((a : Int) - b).natAbs → sfeFault s c.val = 0 → s.u Obj.SFE.PLAUS_FAILS + 1 < 2 ^ 32 →
    ∃ t : State, exec (.sfeCycleEnd d) s = .next t ∧ sfeFault t c.val = 4 ∧ t.u (Obj.SFE.VALUE c) = 0x80000004 ∧ t.u (Obj.SFE.RES c) = s.u (Obj.SFE.RES c) % 2 ^ 32 ∧
      t.u Obj.SFE.PLAUS_FAILS = s.u Obj.SFE.PLAUS_FAILS + 1 ∧ t.plant.failRun = min 3 (s.plant.failRun + 1) ∧ t.plant.passRun = 0 ∧
      (2 ≤ s.plant.failRun → t.bit Obj.SFE.FLAGS Bit.SFE.FLAGS.PLAUS_ALARM = true)) ∧
  (∀ (s : State) (d : BitVec 32) (c : Fin 8), s.plant.live = true → s.u Obj.SFE.CONV_MODE = 1 → (∀ e : Fin 8, s.plant.sfe[e].taken = decide (e = c)) →
    s.isApplying 0x7000 = false → s.u Obj.SFE.PLAUS_TOL * checkValue s < 1000000 * ((d.toNat : Int) - checkValue s).natAbs → sfeFault s c.val = 0 →
    ∃ t : State, exec (.sfeCycleEnd d) s = .next t ∧ sfeFault t c.val = 4 ∧ t.u (Obj.SFE.VALUE c) = 0x80000004)

/-- R446, R458, R471, R472, R473, R474, R477, R478, R479, R480, R481, R482: loop outputs and plant mail, emitter sinks and the latch chain. -/
def Obligations.PlantOutputs : Prop :=
  (∀ (s : State) (o : Fin 8) (m : BitVec 16), ∃ t : State, exec (.loopControl o m) s = .next t ∧ t.u (Obj.LOOP.I_MEAS o) = m.toNat ∧
      (500 ≤ m.toNat → t.bit (Obj.LOOP.LSTAT o) Bit.LOOP.LSTAT.OPEN = false) ∧
      (m.toNat < 500 → t.bit (Obj.LOOP.LSTAT o) Bit.LOOP.LSTAT.OPEN = s.bit (Obj.LOOP.LSTAT o) Bit.LOOP.LSTAT.OPEN) ∧
      (((m.toNat : Int) - s.u (Obj.LOOP.I_SET o)).natAbs ≤ 100 → t.bit (Obj.LOOP.LSTAT o) Bit.LOOP.LSTAT.DEV = false) ∧
      t.u (Obj.LOOP.I_SET o) = s.u (Obj.LOOP.I_SET o) ∧ t.mem = s.mem) ∧
  (∀ (s : State) (o : Fin 8), plantOff s = true ∨ s.u (Obj.LOOP.SOURCE o) = 0 →
    exec (.loopOpen o) s = .next s ∧ exec (.loopDev o) s = .next s ∧
    ∃ t : State, s.loopFollow o = t ∧ t.u (Obj.LOOP.I_SET o) = 0 ∧ t.bit (Obj.LOOP.LSTAT o) Bit.LOOP.LSTAT.FAULT_LEVEL = false ∧
      onlyRegs s t [Obj.LOOP.I_SET o, Obj.LOOP.LSTAT o]) ∧
  (∀ (s : State) (o : Fin 8), plantOff s = false → s.u (Obj.LOOP.SOURCE o) ≠ 0 →
    exec (.loopOpen o) s = .next (s.logFlag (Obj.LOOP.LSTAT o) Bit.LOOP.LSTAT.OPEN true 21 o) ∧
    exec (.loopDev o) s = .next (s.logFlag (Obj.LOOP.LSTAT o) Bit.LOOP.LSTAT.DEV true 21 o)) ∧
  (∀ (s : State) (r : Reg) (b sub inst : Nat) (x : Bool), s.bit r b ≠ x →
    ∃ e : Ev, s.logFlag r b x sub inst = (s.putBit r b x).log e ∧ e.cls = (if x then 1 else 2) ∧ e.sub = sub ∧ e.inst = inst ∧ e.bit = b) ∧
  (∀ (s : State) (o : Fin 8) (v d q : Int), s.i (Obj.LOOP.VAL_HI o) - s.i (Obj.LOOP.VAL_LO o) = d → d ≠ 0 → 16000 * (v - s.i (Obj.LOOP.VAL_LO o)) = q * d →
    setpoint s o v = (max 3800 (min 20500 (4000 + q))).toNat) ∧
  (∀ (s : State) (o : Fin 8), plantOff s = false → clerksUp s = true → s.u (Obj.LOOP.SOURCE o) = 2 →
    s.bit (Obj.LOOP.LSTAT o) Bit.LOOP.LSTAT.FAULT_LEVEL = false → s.u (Obj.LOOP.TRIPS o) + 1 < 2 ^ 32 → s.plant.loops[o].good ≤ 21000 →
    ∃ t : State, exec (.srcAgeExpiry o) s = .next t ∧ t.u (Obj.LOOP.I_SET o) = faultLevel s o ∧
      t.bit (Obj.LOOP.LSTAT o) Bit.LOOP.LSTAT.FAULT_LEVEL = true ∧ t.u (Obj.LOOP.TRIPS o) = s.u (Obj.LOOP.TRIPS o) + 1 ∧
      regsKept s t [Obj.LOOP.I_SET o, Obj.LOOP.LSTAT o, Obj.LOOP.TRIPS o] ∧ t.out = s.out ∧ t.mem = s.mem) ∧
  (∀ (s : State) (o : Fin 8), (s.u (Obj.LOOP.FAULT_MODE o) = 0 → faultLevel s o = 3600) ∧ (s.u (Obj.LOOP.FAULT_MODE o) = 1 → faultLevel s o = 21000) ∧
    (s.u (Obj.LOOP.FAULT_MODE o) = 2 → faultLevel s o = s.plant.loops[o].good)) ∧
  (∀ (s : State) (o : Fin 8), plantOff s = false → clerksUp s = true → s.u (Obj.LOOP.SOURCE o) = 1 →
    s.u (Obj.SFE.CURVE (s.u (Obj.LOOP.SRC_INDEX o) % 8)) = 0 → s.bit (Obj.LOOP.LSTAT o) Bit.LOOP.LSTAT.FAULT_LEVEL = false →
    s.u (Obj.LOOP.TRIPS o) + 1 < 2 ^ 32 → s.plant.loops[o].good ≤ 21000 →
    ∃ t : State, s.loopFollow o = t ∧ t.u (Obj.LOOP.I_SET o) = faultLevel s o ∧ t.bit (Obj.LOOP.LSTAT o) Bit.LOOP.LSTAT.FAULT_LEVEL = true ∧
      t.u (Obj.LOOP.TRIPS o) = s.u (Obj.LOOP.TRIPS o) + 1 ∧ regsKept s t [Obj.LOOP.I_SET o, Obj.LOOP.LSTAT o, Obj.LOOP.TRIPS o]) ∧
  (∀ (s : State) (o : Fin 8), s.u (Obj.LOOP.SOURCE o) = 3 → exec (.srcAgeExpiry o) s = .next s) ∧
  (∀ s : State, s.array.mail = [] → exec .plantMail s = .next s) ∧
  (∀ (s : State) (m : StallId × List Byte) (rest : List (StallId × List Byte)), s.array.mail = m :: rest → clerksUp s = true → s.plant.live = true →
    (fromLe (m.2.take 1) ≠ 1 → fromLe (m.2.take 1) ≠ 2 → s.u Obj.LOOP.MAIL_BAD + 1 < 2 ^ 32 →
      ∃ t : State, exec .plantMail s = .next t ∧ t.u Obj.LOOP.MAIL_BAD = s.u Obj.LOOP.MAIL_BAD + 1 ∧ t.array.mail = rest ∧ regsKept s t [Obj.LOOP.MAIL_BAD] ∧
        t.plant = s.plant) ∧
    (∀ o : Fin 8, fromLe (m.2.take 1) = 1 → fromLe (slice m.2 1 1) = o.val → s.u (Obj.LOOP.SOURCE o) = 2 → (m.2.getD 2 0).getLsbD 0 = false →
      plantOff s = false →
      ∃ t : State, exec .plantMail s = .next t ∧ t.array.mail = rest ∧ t.u (Obj.LOOP.I_SET o) = setpoint s o (toSigned 32 (fromLe (slice m.2 4 4))) ∧
        t.plant.loops[o].mail = some (toSigned 32 (fromLe (slice m.2 4 4))) ∧ t.bit (Obj.LOOP.LSTAT o) Bit.LOOP.LSTAT.FAULT_LEVEL = false ∧
        regsKept s t [Obj.LOOP.I_SET o, Obj.LOOP.LSTAT o])) ∧
  (∀ (s : State) (p : Nat), p ≤ 1500 → p < 2 ^ 16 → s.u Obj.SINK.SCALE_NOW = 0xFFFF →
    ∃ t : State, exec (.sinkPowerAverage p) s = .next t ∧ t.u Obj.SINK.P_TOTAL = p ∧ t.u Obj.SINK.SCALE_NOW = 0xFFFF ∧
      t.bit Obj.SINK.FLAGS Bit.SINK.FLAGS.SINK_LIMIT = false ∧ onlyRegs s t [Obj.SINK.P_TOTAL, Obj.SINK.SCALE_NOW, Obj.SINK.FLAGS]) ∧
  (∀ (s : State) (p f : Nat), 1500 < p → p < 2 ^ 16 → s.u Obj.SINK.SCALE_NOW * 1500 = p * f → s.u Obj.SINK.SCALE_NOW < 2 ^ 16 →
    ∃ t : State, exec (.sinkPowerAverage p) s = .next t ∧ t.u Obj.SINK.P_TOTAL = p ∧ t.u Obj.SINK.SCALE_NOW = f ∧
      t.bit Obj.SINK.FLAGS Bit.SINK.FLAGS.SINK_LIMIT = true) ∧
  (∀ (s : State) (p : Nat), p ≤ 1500 → s.u Obj.SINK.SCALE_NOW < 2 ^ 16 →
    ∃ t : State, exec (.sinkPowerAverage p) s = .next t ∧ t.u Obj.SINK.SCALE_NOW ≤ s.u Obj.SINK.SCALE_NOW + 4096) ∧
  (∀ (s : State) (k : Fin 16) (mv vs : Nat), plantOff s = true ∨ s.u (Obj.SINK.MODE k) = 0 ∨ s.bit (Obj.SINK.SSTAT k) Bit.SINK.SSTAT.SHORT = true →
    exec (.sinkPinSample k mv vs) s = .next s) ∧
  (∀ (s : State) (k : Fin 16) (mv vs : Nat), plantOff s = false → s.u (Obj.SINK.MODE k) ≠ 0 → s.bit (Obj.SINK.SSTAT k) Bit.SINK.SSTAT.SHORT = false →
    mv < 2 ^ 16 →
    ∃ t : State, exec (.sinkPinSample k mv vs) s = .next t ∧ t.u (Obj.SINK.V_PIN k) = mv ∧
      t.bit (Obj.SINK.SSTAT k) Bit.SINK.SSTAT.OPEN = decide (mv < 400) ∧ t.bit (Obj.SINK.SSTAT k) Bit.SINK.SSTAT.SHORT = decide (vs ≤ mv + 200) ∧
      t.bit (Obj.SINK.SSTAT k) Bit.SINK.SSTAT.UNTESTED = false ∧ (vs ≤ mv + 200 → sinkOn t k = false) ∧
      regsKept s t [Obj.SINK.V_PIN k, Obj.SINK.SSTAT k, Obj.SINK.OPENS k, Obj.SINK.SHORTS k] ∧ t.out = s.out ∧ t.mem = s.mem) ∧
  (∀ (s : State) (k : Fin 16) (mv vs : Nat), sinkOn s k = true → exec (.sinkTestPulse k mv vs) s = .next s) ∧
  (∀ (s : State) (k : Fin 16), notActive s = true ∨ s.bit (Obj.SINK.SSTAT k) Bit.SINK.SSTAT.SHORT = true → testBarred s k = true) ∧
  (∀ (s : State) (k : Fin 16) (mv vs : Nat), s.plant.live = true → s.u (Obj.SINK.TEST_EN k) ≠ 0 → sinkOn s k = false →
    (testBarred s k = false →
      exec (.sinkTestPulse k mv vs) s = .next ((s.emit (.sinkPulse k (s.u Obj.SINK.TEST_MA))).judgePin k mv vs)) ∧
    (testBarred s k = true → s.plant.tests[k] < 3 →
      exec (.sinkTestPulse k mv vs) s = .next { s with plant := { s.plant with tests := s.plant.tests.set k (s.plant.tests[k] + 1) } }) ∧
    (testBarred s k = true → 3 ≤ s.plant.tests[k] →
      ∃ t : State, exec (.sinkTestPulse k mv vs) s = .next t ∧ t.bit (Obj.SINK.SSTAT k) Bit.SINK.SSTAT.UNTESTED = true ∧ t.out = s.out)) ∧
  (∀ (s : State) (k : Fin 16) (mv vs : Nat), s.u (Obj.SINK.TEST_EN k) = 0 → exec (.sinkTestPulse k mv vs) s = .next s) ∧
  (∀ (s t : State) (x : Session) (r : Req) (mask : BitVec 16), wrote s t x r 0x7200 7 .bits32 (le 4 mask.toNat) 2 →
    ∃ u : State, exec (.clearShort r mask) s = .next (granted u x r) ∧ onlyRegs t u ((List.finRange 16).map (fun k => Obj.SINK.SSTAT k)) ∧
      (∀ k : Fin 16, u.bit (Obj.SINK.SSTAT k) Bit.SINK.SSTAT.SHORT = (t.bit (Obj.SINK.SSTAT k) Bit.SINK.SSTAT.SHORT && !mask.getLsbD k.val)) ∧
      (∀ k : Fin 16, u.bit (Obj.SINK.SSTAT k) Bit.SINK.SSTAT.OPEN = t.bit (Obj.SINK.SSTAT k) Bit.SINK.SSTAT.OPEN)) ∧
  (∀ (s t : State) (x : Session) (r : Req) (bits : List Byte), wrote s t x r 0x7300 6 .blob bits 2 → bits.length = 128 → chainLive t = false →
    ∃ u : State, exec (.chainImage r bits) s = .next (granted u x r) ∧
      (∀ i : Nat, i < 1024 → imageHas (u.blob Obj.CHAIN.IMAGE) i =
        (if imageHas (chainBlob t Obj.CHAIN.MAIL_MASK) i then imageHas (chainBlob t Obj.CHAIN.IMAGE) i else imageHas bits i)) ∧
      u.bit Obj.FLASH.PENDING 1 = true ∧ u.plant = t.plant ∧ u.mem = t.mem ∧ u.out = t.out) ∧
  (∀ s : State, s.u Obj.CHAIN.REFRESH = 0 → exec .chainRefresh s = .next s) ∧
  (∀ s : State, s.u Obj.CHAIN.REFRESH ≠ 0 → chainLive s = true → s.plant.chain.busy = false →
    ∃ t : State, exec .chainRefresh s = .next t ∧ t.plant.chain.busy = true ∧ t.plant.chain.shifting = wanted s ∧ t.regs = s.regs ∧
      t.out = s.out ++ [.chainFrame ((wanted s).take (s.u Obj.CHAIN.LENGTH / 8)) (s.u Obj.CHAIN.LENGTH)]) ∧
  (∀ (s : State) (l : List Byte), s.plant.chain.busy = false → exec (.chainFrameEnd l) s = .next s) ∧
  (∀ (s : State) (l : List Byte), s.plant.chain.busy = true → s.plant.chain.fresh = true →
    ∃ t : State, exec (.chainFrameEnd l) s = .next t ∧ t.blob Obj.CHAIN.LATCHED = padTo 128 (within s s.plant.chain.shifting) ∧
      t.bit Obj.CHAIN.CFLAGS Bit.CHAIN.CFLAGS.CHAIN_FAULT = false ∧ t.bit Obj.CHAIN.CFLAGS Bit.CHAIN.CFLAGS.VERIFIED = false ∧ t.plant.chain.fresh = false ∧
      .chainLatch ∈ t.out) ∧
  (∀ (s : State) (l : List Byte), s.plant.chain.busy = true → s.plant.chain.fresh = false → s.bit Obj.CHAIN.CFLAGS Bit.CHAIN.CFLAGS.CHAIN_FAULT = false →
    within s (padTo 128 l) = within s (padTo 128 s.plant.chain.shifted) →
    ∃ t : State, exec (.chainFrameEnd l) s = .next t ∧ t.blob Obj.CHAIN.LATCHED = padTo 128 (within s s.plant.chain.shifting) ∧
      t.bit Obj.CHAIN.CFLAGS Bit.CHAIN.CFLAGS.VERIFIED = true ∧ t.plant.chain.shifted = s.plant.chain.shifting) ∧
  (∀ (s : State) (l : List Byte), s.plant.chain.busy = true → s.plant.chain.fresh = false → s.u Obj.CHAIN.MISMATCHES + 1 < 2 ^ 32 →
    within s (padTo 128 l) ≠ within s (padTo 128 s.plant.chain.shifted) →
    (s.plant.chain.tries < s.u Obj.CHAIN.RETRIES →
      ∃ t : State, exec (.chainFrameEnd l) s = .next t ∧ t.u Obj.CHAIN.MISMATCHES = s.u Obj.CHAIN.MISMATCHES + 1 ∧ t.plant.chain.tries = s.plant.chain.tries + 1 ∧
        t.plant.chain.busy = true ∧ t.plant.chain.shifted = s.plant.chain.shifting ∧ t.blobs = s.blobs ∧ regsKept s t [Obj.CHAIN.MISMATCHES] ∧
        t.out = s.out ++ [.chainFrame (within s s.plant.chain.shifting) (s.u Obj.CHAIN.LENGTH)]) ∧
    (s.u Obj.CHAIN.RETRIES ≤ s.plant.chain.tries → s.u Obj.CHAIN.FAILS + 1 < 2 ^ 32 →
      ∃ t : State, exec (.chainFrameEnd l) s = .next t ∧ t.u Obj.CHAIN.MISMATCHES = s.u Obj.CHAIN.MISMATCHES + 1 ∧ t.u Obj.CHAIN.FAILS = s.u Obj.CHAIN.FAILS + 1 ∧
        t.bit Obj.CHAIN.CFLAGS Bit.CHAIN.CFLAGS.CHAIN_FAULT = true ∧ t.plant.chain.busy = false ∧ t.plant.chain.resting = true ∧
        ∃ (v : State) (e : Ev), t = v.log e ∧ e.cls = 1 ∧ e.sub = 23)) ∧
  (∀ (s : State) (o : Fin 8) (k : Fin 16), plantOff s = true → drvLow s o = true ∧ sinkCurrent s k = 0 ∧ chainDriven s = false) ∧
  (∀ (s : State) (o : Fin 8), plantOff s = false → drvLow s o = (s.u (Obj.LOOP.SOURCE o) == 0)) ∧
  (∀ (s : State) (k : Fin 16), sinkOn s k = true → s.u Obj.SINK.GLOBAL = 65535 → s.u Obj.SINK.SCALE_NOW = 65535 →
    sinkCurrent s k = s.u (Obj.SINK.SET k)) ∧
  (∀ (s : State) (k : Fin 16), sinkOn s k = true → s.u Obj.SINK.GLOBAL = 32768 → s.u Obj.SINK.SCALE_NOW = 65535 →
    2 * sinkCurrent s k = s.u (Obj.SINK.SET k))

/-! ## Calibration and the flash journals (spec/16) -/

/-- R484, R485, R487, R488, R489, R491, R493, R498: a calibration's start and its refusals, its computations, its abort, and the shadow tables of the TDC. -/
def Obligations.Calibrations : Prop :=
  (∀ (s t : State) (x : Session) (r : Req) (k : Fin 20), wrote s t x r (0x7810 + k.val) 1 .u8 [1] 2 →
    (calRefusal t k.val ≠ 0 → exec (.calStart r k) s = .next (t.reply x 0x11 r (calRefusal t k.val) [])) ∧
    (calRefusal t k.val = 0 → t.u (Obj.CAL_TARGET.RUNS k.val) + 1 < 2 ^ 32 →
      ∃ u : State, exec (.calStart r k) s = .next (granted u x r) ∧ (u.calOf k.val).running = true ∧ (u.calOf k.val).comps = 0 ∧ (u.calOf k.val).used = 0 ∧ (u.calOf k.val).records = [] ∧
        (u.calOf k.val).started = t.now ∧ (u.calOf k.val).saved = trimsOf t k.val ∧ (u.calOf k.val).source = t.u (Obj.RX_TRIMS.SOURCE (k.val % 8)) ∧ u.u (Obj.CAL_TARGET.RUNS k.val) = t.u (Obj.CAL_TARGET.RUNS k.val) + 1 ∧
        u.u (Obj.CAL_TARGET.PHASE k.val) = 1 ∧ u.bit Obj.CALIBRATION.FLAGS Bit.CALIBRATION.FLAGS.CAL_RUNNING = true ∧
        regsKept t u [Obj.CAL_TARGET.RUNS k.val, Obj.CAL_TARGET.PHASE k.val, Obj.CALIBRATION.FLAGS] ∧ u.ports = t.ports ∧ u.out = t.out ∧
        (∀ j : Nat, j ≠ k.val → u.calOf j = t.calOf j))) ∧
  (∀ (s : State) (k : Fin 20),
    (s.coasting = true → calRefusal s k.val = 0x0302 ∨ calRefusal s k.val = 0x0401) ∧
    (16 ≤ k.val → (calRefusal s k.val = 0 ↔ calBusy s k.val = false ∧ s.coasting = false)) ∧
    (k.val < 16 → bwSum s.u (calPort k.val) (s.u Obj.CALIBRATION.CAL_SET) < 100000 → calRefusal s k.val = 0x0302) ∧
    (k.val < 16 → (s.u (Obj.PIPELINE.DAS_SETS (calPort k.val).val)).testBit (s.u Obj.CALIBRATION.CAL_SET) = false → calRefusal s k.val = 0x0302)) ∧
  (∀ (s t : State) (x : Session) (r : Req) (k : Fin 20), wrote s t x r (0x7810 + k.val) 1 .u8 [0] 2 →
    exec (.calStop r k) s = .next (granted (t.calAbort k.val) x r)) ∧
  (∀ (s : State) (k : Fin 20), (s.calOf k.val).running = false →
    (∀ m : CalMeasure, exec (.calComputationEnd k m) s = .next s) ∧
    ((s.calOf k.val).journalling = false → exec (.calTimeout k) s = .next s ∧ s.calAbort k.val = s)) ∧
  (∀ (s : State) (k : Fin 20), (s.calOf k.val).running = false → (s.calOf k.val).journalling = true → s.u (Obj.CAL_TARGET.FAILS k.val) + 1 < 2 ^ 32 →
    ∃ t : State, exec (.calTimeout k) s = .next t ∧ s.calAbort k.val = t ∧ t.u (Obj.CAL_TARGET.RESULT k.val) = 4 ∧
      t.u (Obj.CAL_TARGET.FAILS k.val) = s.u (Obj.CAL_TARGET.FAILS k.val) + 1 ∧ t.u (Obj.CAL_TARGET.PHASE k.val) = 0 ∧
      (t.calOf k.val).journalling = false ∧ (t.calOf k.val).carried = false ∧ t.bit Obj.FLASH.PENDING 0 = true ∧
      (k.val < 16 → (t.calOf k.val).newTrims = overTrims (s.calOf k.val).saved (s.calOf k.val).newTrims ∧
        t.u (Obj.RX_TRIMS.SOURCE (k.val % 8)) = (s.calOf k.val).source % 2 ^ 8) ∧
      (∀ b : List Byte, k.val = 16 → (s.calOf 16).saved = [(hiddenTrim 16, b)] → t.tdc.shadow = shadowsOf b ∧ (t.calOf 16).inForce = b) ∧
      t.blobs = s.blobs ∧ t.mem = s.mem ∧ t.flash = s.flash) ∧
  (∀ (s : State) (k : Fin 20), (s.calOf k.val).running = true → (s.calOf k.val).journalling = false → s.u (Obj.CAL_TARGET.FAILS k.val) + 1 < 2 ^ 32 →
    ∃ t : State, exec (.calTimeout k) s = .next t ∧ s.calAbort k.val = t ∧ t.u (Obj.CAL_TARGET.RESULT k.val) = 4 ∧
      t.u (Obj.CAL_TARGET.FAILS k.val) = s.u (Obj.CAL_TARGET.FAILS k.val) + 1 ∧ t.u (Obj.CAL_TARGET.PHASE k.val) = 0 ∧ (t.calOf k.val).running = false ∧
      ((s.calOf k.val).comps = 0 → t.calOf k.val = { s.calOf k.val with running := false, computing := false, records := [], carried := false }) ∧
      (0 < (s.calOf k.val).comps → k.val < 16 → (t.calOf k.val).newTrims = overTrims (s.calOf k.val).saved (s.calOf k.val).newTrims) ∧
      (k.val < 16 → t.ports[calPort k.val].shots =
        s.ports[calPort k.val].shots.map (fun x => if x.cal ∧ !x.winClosed then { x with relDiscard := true } else x)) ∧
      regsKept s t [Obj.CAL_TARGET.RESULT k.val, Obj.CAL_TARGET.FAILS k.val, Obj.CAL_TARGET.PHASE k.val, Obj.CAL_TARGET.CAL_TIME k.val, Obj.CALIBRATION.FLAGS] ∧
      t.blobs = s.blobs ∧ t.mem = s.mem ∧ t.flash = s.flash) ∧
  (∀ (s : State) (k : Fin 20) (m : CalMeasure), k.val < 16 → (s.calOf k.val).computing = false → exec (.calComputationEnd k m) s = .next s) ∧
  (∀ (s : State) (k : Fin 20) (m : CalMeasure) (c : Nat), (s.calOf k.val).running = true → (16 ≤ k.val ∨ (s.calOf k.val).computing = true) →
    preCheck s k.val m = false ∧ c = 1 ∨ preCheck s k.val m = true ∧ beyondRange k.val (trimsAsked s k.val m) = true ∧ c = 3 →
    s.u (Obj.CAL_TARGET.FAILS k.val) + 1 < 2 ^ 32 →
    ∃ t : State, exec (.calComputationEnd k m) s = .next t ∧ t.u (Obj.CAL_TARGET.RESULT k.val) = c ∧
      t.u (Obj.CAL_TARGET.FAILS k.val) = s.u (Obj.CAL_TARGET.FAILS k.val) + 1 ∧ t.u (Obj.CAL_TARGET.PHASE k.val) = 0 ∧ (t.calOf k.val).running = false ∧
      (0 < (s.calOf k.val).comps → k.val < 16 → (t.calOf k.val).newTrims = overTrims (s.calOf k.val).saved (s.calOf k.val).newTrims) ∧
      t.u (Obj.CAL_TARGET.QUALITY k.val) = s.u (Obj.CAL_TARGET.QUALITY k.val) ∧ t.blobs = s.blobs ∧ t.flash = s.flash) ∧
  (∀ (s : State) (k : Fin 20) (m : CalMeasure), (s.calOf k.val).running = true → (16 ≤ k.val ∨ (s.calOf k.val).computing = true) →
    preCheck s k.val m = true → beyondRange k.val (trimsAsked s k.val m) = false → lastComp s k.val = true → qualityBad k.val (calFigures s k.val m) = true →
    -(2 ^ 31) ≤ (calFigures s k.val m).quality → (calFigures s k.val m).quality < 2 ^ 31 →
    ∃ t : State, exec (.calComputationEnd k m) s = .next t ∧ t.u (Obj.CAL_TARGET.RESULT k.val) = 2 ∧
      t.i (Obj.CAL_TARGET.QUALITY k.val) = (calFigures s k.val m).quality ∧ (t.calOf k.val).running = false ∧
      (0 < (s.calOf k.val).comps → k.val < 16 → (t.calOf k.val).newTrims = overTrims (s.calOf k.val).saved (s.calOf k.val).newTrims)) ∧
  (∀ (s : State) (k : Fin 20) (m : CalMeasure), (8 ≤ k.val → k.val < 16 → (calFigures s k.val m).quality = (s.calOf k.val).quality ∧
      (calFigures s k.val m).within = (s.calOf k.val).within) ∧ (16 ≤ k.val → calFigures s k.val m = m)) ∧
  (∀ (s : State) (k : Fin 20) (m : CalMeasure), (s.calOf k.val).running = true → (16 ≤ k.val ∨ (s.calOf k.val).computing = true) →
    preCheck s k.val m = true → beyondRange k.val (trimsAsked s k.val m) = false → lastComp s k.val = false →
    ∃ t : State, exec (.calComputationEnd k m) s = .next t ∧ (t.calOf k.val).comps = (s.calOf k.val).comps + 1 ∧ (t.calOf k.val).used = 0 ∧
      (t.calOf k.val).records = [] ∧ (t.calOf k.val).running = true ∧ (t.calOf k.val).computing = false ∧
      (t.calOf k.val).newTrims = overTrims (trimBytes k.val (trimsAsked s k.val m)) (s.calOf k.val).newTrims ∧
      t.u (Obj.CAL_TARGET.PHASE k.val) = calPhase k.val ((s.calOf k.val).comps + 1) ∧ regsKept s t [Obj.CAL_TARGET.PHASE k.val] ∧ t.blobs = s.blobs ∧
      t.ports[calPort k.val].shots = s.ports[calPort k.val].shots.map (fun x => if x.cal ∧ !x.winClosed then { x with relDiscard := true } else x) ∧
      (∀ n : Port, n ≠ calPort k.val → t.ports[n] = s.ports[n])) ∧
  (∀ (s : State) (k : Fin 20) (m : CalMeasure), (s.calOf k.val).running = true → (16 ≤ k.val ∨ (s.calOf k.val).computing = true) →
    preCheck s k.val m = true → beyondRange k.val (trimsAsked s k.val m) = false → lastComp s k.val = true → qualityBad k.val (calFigures s k.val m) = false →
    -(2 ^ 31) ≤ (calFigures s k.val m).quality → (calFigures s k.val m).quality < 2 ^ 31 →
    ∃ t : State, exec (.calComputationEnd k m) s = .next t ∧ t.i (Obj.CAL_TARGET.QUALITY k.val) = (calFigures s k.val m).quality ∧ (t.calOf k.val).running = false ∧
      (t.calOf k.val).journalling = true ∧ t.u (Obj.CAL_TARGET.PHASE k.val) = 4 ∧ t.bit Obj.FLASH.PENDING 0 = true ∧
      t.bit Obj.CALIBRATION.FLAGS Bit.CALIBRATION.FLAGS.CAL_RUNNING = true ∧
      (k.val = 16 → t.tdc.shadow = shadowsOf m.tables ∧ t.tdc.tables = s.tdc.tables) ∧
      (k.val < 16 → t.u (Obj.RX_TRIMS.SOURCE (k.val % 8)) = 2 ∧
        (t.calOf k.val).newTrims = overTrims (trimBytes k.val (trimsAsked s k.val m)) (s.calOf k.val).newTrims) ∧
      t.u (Obj.CAL_TARGET.FAILS k.val) = s.u (Obj.CAL_TARGET.FAILS k.val)) ∧
  (∀ (k : Fin 20) (m : CalMeasure), qualityBad k.val m = true ↔ m.within = false ∨ (k.val < 8 ∧ -700 < m.quality) ∨
    (8 ≤ k.val ∧ k.val < 16 ∧ 10 < m.quality.natAbs) ∨ (k.val = 16 ∧ 300 < m.quality.natAbs) ∨
    (16 < k.val ∧ k.val < 19 ∧ 100 < m.quality.natAbs) ∨ (k.val = 19 ∧ 50 < m.quality.natAbs)) ∧
  (∀ (s : State) (k : Fin 20),
    (s.bit Obj.CALIBRATION.AUTO_EN (autoBit k.val) = true → calDue s k.val = true ∨ untrimmed s k.val = true → calRefusal s k.val = 0 →
      exec (.calAutoStart k) s = .next (calStartEff s k.val)) ∧
    (s.bit Obj.CALIBRATION.AUTO_EN (autoBit k.val) = false ∨ (calDue s k.val = false ∧ untrimmed s k.val = false) ∨ calRefusal s k.val ≠ 0 →
      exec (.calAutoStart k) s = .next s)) ∧
  (∀ s : State, s.tdc.shadow = [] → exec .tdcShadowSwap s = .next s) ∧
  (∀ (s : State) (c : Fin 21) (b : List Byte) (l : List (Fin 21 × List Byte)), s.tdc.shadow = (c, b) :: l →
    ∃ t : State, exec .tdcShadowSwap s = .next t ∧ t.tdc.tables[c] = b ∧ t.tdc.shadow = l ∧ (∀ d : Fin 21, d ≠ c → t.tdc.tables[d] = s.tdc.tables[d]) ∧
      t = { s with tdc := t.tdc })

/-- R495, R496, R497, R498, R500, R517, R518: a journal's write by its steps, its verify and its commit, and the early warning that stops writes. -/
def Obligations.FlashJournals : Prop :=
  (∀ (s : State) (j : Fin 18), s.flash.journals[j].job ≠ none ∨ s.bit Obj.FLASH.PENDING j.val = false ∨ s.bit Obj.FLASH.FLAGS Bit.FLASH.FLAGS.WRITE_BLOCKED = true ∨
      clerksUp s = false ∨ s.boot.switching = true →
    exec (.journalWrite j) s = .next s) ∧
  (∀ (s : State) (b : Int), s.flash.journals[(1 : Fin 18)].began = some b → b ≤ s.now → s.now < b + ticksPerSecond / 4 →
    exec (.journalWrite 1) s = .next s) ∧
  (∀ (s : State) (j : Fin 18), s.flash.journals[j].job = none → s.bit Obj.FLASH.PENDING j.val = true → s.bit Obj.FLASH.FLAGS Bit.FLASH.FLAGS.WRITE_BLOCKED = false →
    clerksUp s = true → s.boot.switching = false →
    (j.val = 1 → ∀ b : Int, s.flash.journals[j].began = some b → s.now < b ∨ b + ticksPerSecond / 4 ≤ s.now) →
    ∃ t : State, exec (.journalWrite j) s = .next t ∧ t.bit Obj.FLASH.PENDING j.val = false ∧ regsKept s t [Obj.FLASH.PENDING] ∧
      t.flash.journals[j].job = some { data := journalData s j } ∧ t.flash.journals[j].began = some s.now ∧ t.flash.journals[j].valid = s.flash.journals[j].valid ∧
      t.flash.journals[j].data = s.flash.journals[j].data ∧ (∀ i : Fin 18, i ≠ j → t.flash.journals[i] = s.flash.journals[i]) ∧
      (j.val = 0 → ∀ k : Fin 20, (t.calOf k.val).carried = (s.calOf k.val).journalling) ∧ (j.val ≠ 0 → t.cal = s.cal)) ∧
  (∀ (s : State) (e : Nat × Nat), e ∈ (journalData s 1).regs ↔ e ∈ s.regs ∧ rwpKey e.1 = true ∧ e.1 ≠ trimKey) ∧
  (∀ (s : State) (e : Nat × List Byte), e ∈ (journalData s 1).blobs ↔ e ∈ s.blobs ∧ rwpKey e.1 = true) ∧
  (∀ (s : State) (k : Nat) (b : List Byte), (s.calOf (trimTarget k)).running = true → (s.calOf (trimTarget k)).saved = [(k, b)] → provedTrim s k = b) ∧
  (∀ (s : State) (k : Nat), (s.calOf (trimTarget k)).running = false → (s.calOf (trimTarget k)).newTrims = [] → provedTrim s k = s.blob k) ∧
  (∀ (s : State) (j : Fin 18) (ok : Bool), s.flash.journals[j].job = none → s.flashEnd j ok = s) ∧
  (∀ (s : State) (j : Fin 18) (ok : Bool) (w : WriteJob), s.flash.journals[j].job = some w → w.held = true → s.flashEnd j ok = s) ∧
  (∀ (s : State) (j : Fin 18) (ok : Bool) (w : WriteJob), s.flash.journals[j].job = some w → w.held = false → w.step = 0 →
    s.flash.journals[j].erases.getD (nextPlace j s.flash.journals[j]).1 0 + 1 < 2 ^ 32 → s.u Obj.FLASH.ERASE_MAX < 2 ^ 32 →
    ∃ t : State, s.flashEnd j ok = t ∧ t.flash.journals[j].job = some { w with step := 1, held := s.bit Obj.FLASH.FLAGS Bit.FLASH.FLAGS.WRITE_BLOCKED } ∧
      t.u Obj.FLASH.ERASE_MAX = max (s.u Obj.FLASH.ERASE_MAX) (s.flash.journals[j].erases.getD (nextPlace j s.flash.journals[j]).1 0 + 1) ∧
      t.bit Obj.FLASH.FLAGS Bit.FLASH.FLAGS.WEAR_ALERT = decide (80000 < t.u Obj.FLASH.ERASE_MAX)) ∧
  (∀ (s : State) (j : Fin 18) (ok : Bool) (w : WriteJob), s.flash.journals[j].job = some w → w.held = false →
    (w.step = 1 → s.flashEnd j ok = s.modJournal j (fun x => { x with job := some { w with step := 2, held := s.bit Obj.FLASH.FLAGS Bit.FLASH.FLAGS.WRITE_BLOCKED } })) ∧
    (w.step = 2 → ok = true → s.flashEnd j ok =
      s.modJournal j (fun x => { x with job := some { w with step := 3, held := s.bit Obj.FLASH.FLAGS Bit.FLASH.FLAGS.WRITE_BLOCKED } })) ∧
    (w.step = 2 → ok = false → w.again = false → s.flashEnd j ok =
      s.modJournal j (fun x => { x with job := some { w with step := 0, again := true, held := s.bit Obj.FLASH.FLAGS Bit.FLASH.FLAGS.WRITE_BLOCKED } })) ∧
    (w.step = 2 → ok = false → w.again = true → ∃ (t : State) (e : Ev), s.flashEnd j ok = t.log e ∧ e.cls = 5 ∧ e.sub = 25 ∧ t.flash.journals[j].job = none ∧
      t.bit Obj.FLASH.FLAGS Bit.FLASH.FLAGS.FLASH_FAULT = true ∧ t.flash.journals[j].data = s.flash.journals[j].data)) ∧
  (∀ (s : State) (j : Fin 18) (ok : Bool) (w : WriteJob), s.flash.journals[j].job = some w → w.held = false → w.step = 3 →
    ∃ t : State, s.flashEnd j ok = t ∧ t.flash.journals[j].valid = true ∧ t.flash.journals[j].seq = s.flash.journals[j].seq + 1 ∧
      t.flash.journals[j].data = w.data ∧ t.flash.journals[j].job = none ∧
      (t.flash.journals[j].slot, t.flash.journals[j].position) = nextPlace j s.flash.journals[j] ∧
      (s.u Obj.FLASH.WRITES + 1 < 2 ^ 32 → t.u Obj.FLASH.WRITES = s.u Obj.FLASH.WRITES + 1) ∧
      (j.val = 1 → t.u Obj.FLASH.LEDGER_SEQ = (s.flash.journals[j].seq + 1).toNat) ∧ (j.val = 0 → t.u Obj.FLASH.CAL_SEQ = (s.flash.journals[j].seq + 1).toNat) ∧
      (j.val = 0 → ∀ k : Fin 20, ((s.calOf k.val).carried = true → t.u (Obj.CAL_TARGET.RESULT k.val) = 0 ∧ (t.calOf k.val).journalling = false) ∧
        ((s.calOf k.val).carried = false → t.calOf k.val = s.calOf k.val)) ∧
      (∀ i : Fin 18, i ≠ j → t.flash.journals[i] = s.flash.journals[i]) ∧ t.out = s.out ∧ t.mem = s.mem) ∧
  (∀ (j : Fin 18) (x : JournalPart), (j.val ≠ 1 → nextPlace j x = (1 - x.slot, x.position)) ∧
    (j.val = 1 → x.position < 15 → nextPlace j x = (x.slot, x.position + 1)) ∧ (j.val = 1 → 15 ≤ x.position → nextPlace j x = (1 - x.slot, 0))) ∧
  (∀ (s : State) (j : Fin 18) (ok : Bool), s.boot.switching = false → exec (.flashOperationEnd j ok) s = .next (s.flashEnd j ok)) ∧
  (∀ (s : State) (j i : Fin 18) (ok : Bool), i ≠ j → s.flash.journals[i].job ≠ none → exec (.flashOperationEnd j ok) s = .next (s.flashEnd j ok)) ∧
  (∀ (s : State) (rails : BitVec 32), s.bit Obj.HEALTH.FLAGS Bit.HEALTH.FLAGS.EARLY_WARN = false → s.u Obj.FLASH.WARNINGS + 1 < 2 ^ 32 →
    ∃ t : State, exec (.earlyWarn rails) s = .next t ∧ t.bit Obj.FLASH.FLAGS Bit.FLASH.FLAGS.WRITE_BLOCKED = true ∧
      t.bit Obj.HEALTH.FLAGS Bit.HEALTH.FLAGS.EARLY_WARN = true ∧ t.bit Obj.HEALTH.FLAGS Bit.HEALTH.FLAGS.UV = true ∧
      t.u Obj.FLASH.WARNINGS = s.u Obj.FLASH.WARNINGS + 1 ∧
      (∀ b : Fin 8, rails.getLsbD b.val = true → t.bit Obj.HEALTH.RAIL_UV b.val = true) ∧
      (∀ (j : Fin 18) (w : WriteJob), s.flash.journals[j].job = some w → w.step = 0 → w.held = false →
        t.flash.journals[j].job = some { w with held := true }) ∧
      (∀ (j : Fin 18) (w : WriteJob), s.flash.journals[j].job = some w → w.step ≠ 0 → t.flash.journals[j] = s.flash.journals[j]) ∧ t.mem = s.mem) ∧
  (∀ s : State, ∃ t : State, exec .earlyWarnClear s = .next t ∧ t.bit Obj.FLASH.FLAGS Bit.FLASH.FLAGS.WRITE_BLOCKED = false ∧
      t.bit Obj.HEALTH.FLAGS Bit.HEALTH.FLAGS.EARLY_WARN = false ∧ t.bit Obj.HEALTH.FLAGS Bit.HEALTH.FLAGS.UV = false ∧ t.u Obj.HEALTH.RAIL_UV = 0 ∧
      t.book.unjournalled = [] ∧
      (∀ (j : Fin 18) (w : WriteJob), s.flash.journals[j].job = some w → w.held = true →
        t.flash.journals[j].job = some { w with held := false, step := 0 }) ∧
      (∀ j : Fin 18, (∀ w : WriteJob, s.flash.journals[j].job = some w → w.held = false) → t.flash.journals[j] = s.flash.journals[j]) ∧
      regsKept s t [Obj.FLASH.FLAGS, Obj.HEALTH.FLAGS, Obj.HEALTH.RAIL_UV] ∧ t.mem = s.mem)

/-! ## Start-up, health, security and debug (spec/17) -/

/-- R503, R504, R507, R508, R509, R519, R520, R521: resets and what outlives them, zeroize, and the steps of bring-up. -/
def Obligations.ResetsAndBringUp : Prop :=
  (∀ s : State, exec .porstN s = .next (s.resetTo 0) ∧ exec .thermalReset s = .next (s.resetTo 1) ∧ exec .supplyReset s = .next (s.resetTo 2) ∧
    exec .srstN s = .next (s.resetTo 4)) ∧
  (∀ (s : State) (c : Nat), s.boot.zeroize = false → c < 256 → storesGood s →
    ∃ t : State, s.resetTo c = t ∧ t.u Obj.HEALTH.RESET_CAUSE = c ∧ t.u Obj.HEALTH.BOOT_STATE = 0 ∧
      (s.u Obj.HEALTH.RESETS + 1 < 2 ^ 32 → t.u Obj.HEALTH.RESETS = s.u Obj.HEALTH.RESETS + 1) ∧
      t.bit Obj.HEALTH.FLAGS Bit.HEALTH.FLAGS.THERM_TRIPPED = decide (c = 1) ∧ t.boot.held = decide (c = 1) ∧
      t.u Obj.IDENTITY.SILICON = s.u Obj.IDENTITY.SILICON ∧ t.blob Obj.IDENTITY.SERIAL = s.blob Obj.IDENTITY.SERIAL ∧
      t.ledger.keys = s.ledger.keys ∧ t.ledger.sessions = [] ∧ t.boot.banks = s.boot.banks ∧ t.boot.confirmed = s.boot.confirmed ∧
      t.boot.rollback = s.boot.rollback ∧ t.boot.revoked = s.boot.revoked ∧ t.boot.clerks = false ∧ t.plant.live = false ∧ t.mem = [] ∧
      t.stalls = Vector.replicate 132 {} ∧ t.staged = [] ∧ t.book.cells = s.book.cells ∧ t.out = s.out ∧
      t.clk = { ovenLow := s.clk.ovenLow } ∧
      (∀ j : Fin 18, t.flash.journals[j] = { s.flash.journals[j] with job := none, began := none })) ∧
  (∀ s : State, ∃ t : State, exec .zeroizePin s = .next t ∧ t.u Obj.HEALTH.RESET_CAUSE = 3 ∧ t.ledger.keys = [(0, Config.commissioningKey)] ∧
      t.boot.zeroize = true ∧ t.bit Obj.HEALTH.FLAGS Bit.HEALTH.FLAGS.ZEROIZE_PENDING = true ∧ t.ledger.sessions = [] ∧ t.boot.banks = s.boot.banks ∧
      t.boot.rollback = s.boot.rollback ∧ t.book.cells = s.book.cells ∧ t.mem = []) ∧
  (∀ (s : State) (c : Nat), s.boot.zeroize = true → ∃ t : State, s.resetTo c = t ∧ t.u Obj.HEALTH.RESET_CAUSE = 3 ∧ t.boot.zeroize = true ∧
      (c ≠ 3 → t.ledger.keys = [(0, Config.commissioningKey)])) ∧
  (∀ (s t : State) (x : Session) (r : Req), wrote s t x r 0x7A00 0x19 .u8 [1] 3 →
    exec (.reset r 1) s = .next ((granted t x r).resetTo 5)) ∧
  (∀ (s t : State) (x : Session) (r : Req) (n : BitVec 32), wrote s t x r 0x7A00 0x1A .u32 (le 4 n.toNat) 3 →
    (n.toNat = serialCrc t → exec (.zeroize r n) s = .next (granted t x r).zeroizeNow) ∧
    (n.toNat ≠ serialCrc t → exec (.zeroize r n) s = .next (t.reply x 0x11 r 0x0302 []))) ∧
  (∀ s : State, s.u Obj.HEALTH.BOOT_STATE ≠ 0 → exec .loaderStart s = .next s) ∧
  (∀ s : State, s.u Obj.HEALTH.BOOT_STATE = 0 → resetHeld s = true → exec .loaderStart s = .next s) ∧
  (∀ s : State, s.u Obj.HEALTH.BOOT_STATE = 0 → resetHeld s = false → s.boot.zeroize = true →
    exec .loaderStart s = .next (s.put Obj.HEALTH.BOOT_STATE 1)) ∧
  (∀ s : State, s.u Obj.HEALTH.BOOT_STATE = 0 → resetHeld s = false → s.boot.zeroize = false → (∀ j : Fin 18, s.flash.journals[j].valid = false) →
    ∃ t : State, exec .loaderStart s = .next t ∧ t.boot.loader = true ∧ t.bit Obj.FLASH.FLAGS Bit.FLASH.FLAGS.JOURNAL_EMPTY = true ∧
      t.u Obj.HEALTH.BOOT_STATE = 1 ∧ t.u Obj.FLASH.CAL_SEQ = 0 ∧ t.u Obj.FLASH.LEDGER_SEQ = 0 ∧ t.mem = s.mem) ∧
  (∀ s : State, s.boot.zeroize = true → s.u Obj.HEALTH.BOOT_STATE = 1 → s.boot.loader = false →
    ∃ t : State, exec .zeroizeEraseEnd s = .next t ∧ t.boot.zeroize = false ∧ t.boot.loader = true ∧
      (∀ j : Fin 18, j ≠ 0 → t.flash.journals[j].valid = false ∧ t.flash.journals[j].data = {} ∧
        t.flash.journals[j].erases = s.flash.journals[j].erases.map (· + 1)) ∧
      t.flash.journals[(0 : Fin 18)] = s.flash.journals[(0 : Fin 18)]) ∧
  (∀ s : State, s.boot.zeroize = false → exec .zeroizeEraseEnd s = .next s) ∧
  (∀ s : State, s.u Obj.HEALTH.BOOT_STATE ≠ 1 ∨ s.boot.loader = false → exec .clerksStart s = .next s) ∧
  (∀ s : State, s.u Obj.HEALTH.BOOT_STATE = 1 → s.boot.loader = true → bankGood s 0 = false → bankGood s 1 = false →
    ∃ t : State, exec .clerksStart s = .next t ∧ t.u Obj.HEALTH.BOOT_STATE = 4 ∧ t.boot = s.boot) ∧
  (∀ (s : State) (b : Fin 2), s.u Obj.HEALTH.BOOT_STATE = 1 → s.boot.loader = true → s.boot.trialBank = none → s.boot.confirmed = b → bankGood s b = true →
    ∃ t : State, exec .clerksStart s = .next t ∧ t.u Obj.HEALTH.BOOT_STATE = 2 ∧ t.boot.clerks = true ∧ t.boot.inUse = b ∧ t.boot.trial = false ∧
      t.u Obj.IDENTITY.FIRMWARE = fwVersion s.boot.banks[b].image % 2 ^ 32 ∧ t.u Obj.HEALTH.BANK_IN_USE = b.val) ∧
  (∀ (s : State) (b : Fin 2), s.u Obj.HEALTH.BOOT_STATE = 1 → s.boot.loader = true → s.boot.trialBank = some b → bankGood s b = true →
    ∃ t : State, exec .clerksStart s = .next t ∧ t.boot.inUse = b ∧ t.boot.trial = true ∧ t.boot.trialBank = none ∧
      t.bit Obj.HEALTH.FLAGS Bit.HEALTH.FLAGS.TRIAL = true) ∧
  (∀ (s : State) (c : Fin 2) (n : Nat) (l : List Nat), s.u Obj.HEALTH.BOOT_STATE ≠ 2 ∨ s.boot.served = true ∨ c.val ∈ s.boot.trained →
    exec (.dramTrainingEnd c n l) s = .next s) ∧
  (∀ (s : State) (c : Fin 2) (n : Nat) (l : List Nat), s.u Obj.HEALTH.BOOT_STATE = 2 → s.boot.served = false → s.boot.trained = [] → l.Nodup → n < 2 ^ 32 →
    (l.length ≤ 7 → ∃ t : State, exec (.dramTrainingEnd c n l) s = .next t ∧ t.boot.trained = [c.val] ∧ t.dram[c].trained = true ∧
      t.u (Obj.DRAM_CHANNEL.CAPACITY c) = n ∧ t.u (Obj.DRAM_CHANNEL.SPARES_FREE c) = 7 - l.length ∧
      t.u (Obj.DRAM_CHANNEL.RATE c) = (if s.coasting then 2560 else 3200) ∧ t.mem = s.mem) ∧
    (7 < l.length → ∃ t : State, exec (.dramTrainingEnd c n l) s = .next t ∧ t.dram[c].failed = true ∧ t.u (Obj.DRAM_CHANNEL.STATE c) = 4)) ∧
  (∀ s : State, s.u Obj.HEALTH.BOOT_STATE ≠ 2 ∨ s.boot.served = true ∨ s.boot.trained.length < 2 → exec .dramClearEnd s = .next s) ∧
  (∀ s : State, s.u Obj.HEALTH.BOOT_STATE = 2 → s.boot.served = false → 2 ≤ s.boot.trained.length → memoryGood s →
    ∃ t : State, exec .dramClearEnd s = .next t ∧ t.boot.served = true ∧ t.plant.live = true ∧
      (∀ a : Nat, dramBase ≤ a → a < dramBase + fitted s → Memory.read t.mem a = 0) ∧
      (∀ a : Nat, a < dramBase → Memory.read t.mem a = Memory.read s.mem a)) ∧
  (∀ s : State, s.u Obj.HEALTH.BOOT_STATE ≠ 2 ∨ s.boot.served = false → exec .schedulerStart s = .next s) ∧
  (∀ s : State, s.u Obj.HEALTH.BOOT_STATE = 2 → s.boot.served = true →
    ∃ t : State, exec .schedulerStart s = .next t ∧ t.u Obj.HEALTH.BOOT_STATE = 3 ∧ (s.u Obj.HEALTH.TRIAL_S = 0 → t.boot.trial = false))

/-- R504, R505, R506, R510, R511, R512, R513, R514, R515, R517, R518: clerk restarts, firmware banks and trials, temperature and rails. -/
def Obligations.FirmwareAndHealth : Prop :=
  (∀ s : State, s.boot.clerks = false ∨ s.boot.restarting = true →
    exec .lockstepMismatch s = .next s ∧ exec .watchdogExpiry s = .next s ∧ exec .clerkPoisonRead s = .next s) ∧
  (∀ s : State, s.boot.clerks = true → s.boot.restarting = false → s.boot.trial = false →
    (s.boot.restarts.filter (fun e => decide ((s.now : Int) < e + 600 * ticksPerSecond))).length < 3 →
    s.u Obj.HEALTH.CLERK_RESTARTS + 1 < 2 ^ 32 →
    ∃ t : State, exec .clerkPoisonRead s = .next t ∧ t.boot.restarting = true ∧ t.u Obj.HEALTH.CLERK_RESTARTS = s.u Obj.HEALTH.CLERK_RESTARTS + 1 ∧
      t.bit Obj.HEALTH.FLAGS Bit.HEALTH.FLAGS.CLERK_RESTART = true ∧ t.ports = s.ports ∧ t.stalls = s.stalls ∧ t.mem = s.mem ∧
      (s.u Obj.MEMORY.POISON_SEEN + 1 < 2 ^ 32 → t.u Obj.MEMORY.POISON_SEEN = s.u Obj.MEMORY.POISON_SEEN + 1)) ∧
  (∀ s : State, s.boot.clerks = true → s.boot.restarting = false →
    exec .clerkPoisonRead s = .next (s.bump Obj.MEMORY.POISON_SEEN).clerkRestart ∧
    (s.boot.halted = false → exec .watchdogExpiry s = .next s.clerkRestart)) ∧
  (∀ s : State, s.boot.halted = true → exec .watchdogExpiry s = .next s) ∧
  (∀ s : State, s.boot.clerks = true → s.boot.restarting = false → s.boot.zeroize = false →
    3 ≤ (s.boot.restarts.filter (fun e => decide ((s.now : Int) < e + 600 * ticksPerSecond))).length →
    ∃ t : State, exec .clerkPoisonRead s = .next t ∧ t.u Obj.HEALTH.RESET_CAUSE = 6 ∧ t.u Obj.HEALTH.BOOT_STATE = 0) ∧
  (∀ s : State, s.boot.clerks = true → s.boot.restarting = false → exec .lockstepMismatch s = .next ((s.bump Obj.HEALTH.LOCKSTEP_ERR).clerkRestart)) ∧
  (∀ s : State, s.boot.restarting = false → exec .clerkRestartEnd s = .next s) ∧
  (∀ s : State, s.boot.restarting = true → s.u Obj.HEALTH.TRIAL_S ≠ 0 →
    exec .clerkRestartEnd s = .next { s with boot := { s.boot with restarting := false } }) ∧
  (∀ s : State, s.boot.programming = none → exec .fwProgrammingEnd s = .next s) ∧
  (∀ (s : State) (l : List Byte), s.boot.programming = some l →
    ∃ t : State, exec .fwProgrammingEnd s = .next t ∧ t.boot.programming = none ∧ t.boot.banks[otherBank s.boot.inUse].image = l ∧
      t.boot.banks[otherBank s.boot.inUse].valid = true ∧ t.boot.banks[s.boot.inUse] = s.boot.banks[s.boot.inUse] ∧ t.u Obj.HEALTH.FW_STATUS = 0) ∧
  (∀ (s : State) (l : List Byte), s.dramFailed = false →
    ∃ t : State, fwImageEff s l = (t, if fwCheck s l = 0 then 0 else 0x0301) ∧ t.u Obj.HEALTH.FW_STATUS = (if fwCheck s l = 0 then 8 else fwCheck s l) ∧
      t.boot.programming = (if fwCheck s l = 0 then some l else s.boot.programming) ∧
      t.boot.banks[otherBank s.boot.inUse].valid = (s.boot.banks[otherBank s.boot.inUse].valid && fwCheck s l != 0) ∧
      t.boot.banks[s.boot.inUse] = s.boot.banks[s.boot.inUse]) ∧
  (∀ (s : State) (l : List Byte),
    (l.length ≠ 256 + fwField l 20 4 → fwCheck s l = 1) ∧
    (fwField l 0 4 = 0x46524457 → fwField l 4 2 = 1 → l.length = 256 + fwField l 20 4 → l.length ≤ 16777216 →
      (s.u Obj.IDENTITY.SILICON < fwField l 16 2 → fwCheck s l = 2) ∧
      (fwField l 16 2 ≤ s.u Obj.IDENTITY.SILICON → s.boot.revoked.toNat.testBit (fwField l 6 1) = true → fwCheck s l = 3) ∧
      (fwField l 16 2 ≤ s.u Obj.IDENTITY.SILICON → fwField l 6 1 < 4 → s.boot.revoked.toNat.testBit (fwField l 6 1) = false →
        fwRollback l < s.boot.rollback → fwCheck s l = 4)) ∧
    (fwCheck s l ≠ 0 ∨ s.boot.rollback ≤ fwRollback l ∧ s.boot.revoked.toNat.testBit (fwField l 6 1) = false ∧ l.length = 256 + fwField l 20 4)) ∧
  (∀ (s t : State) (x : Session) (r : Req) (v : Nat), wrote s t x r 0x7A00 0x15 .enum8 (le 1 v) 3 → v = 1 ∨ v = 2 →
    (switchCode t v ≠ 0 → (v = 1 → exec (.switchLive r) s = .next (t.reply x 0x11 r 0x0302 [])) ∧
      (v = 2 → exec (.switchReset r) s = .next (t.reply x 0x11 r 0x0302 []))) ∧
    (switchCode t v = 0 → (v = 1 → exec (.switchLive r) s = .next (switchEff (granted t x r) 1)) ∧
      (v = 2 → exec (.switchReset r) s = .next (switchEff (granted t x r) 2)))) ∧
  (∀ (s : State) (v : Nat), bankGood s (otherBank s.boot.inUse) = false → switchCode s v = 0x0302) ∧
  (∀ s : State, s.boot.zeroize = false →
    ∃ t : State, switchEff s 2 = t ∧ t.boot.trialBank = some (otherBank s.boot.inUse) ∧ t.u Obj.HEALTH.RESET_CAUSE = 5 ∧ t.boot.banks = s.boot.banks) ∧
  (∀ s : State, (∀ j : Fin 18, s.flash.journals[j].job = none) →
    ∃ t : State, switchEff s 1 = t ∧ t.boot.inUse = otherBank s.boot.inUse ∧ t.boot.restarting = true ∧ t.boot.trial = true ∧ t.boot.trialLive = true ∧
      t.bit Obj.HEALTH.FLAGS Bit.HEALTH.FLAGS.TRIAL = true ∧ t.ports = s.ports ∧ t.mem = s.mem ∧ t.ledger = s.ledger) ∧
  (∀ (s : State) (j : Fin 18), s.flash.journals[j].job ≠ none → switchEff s 1 = { s with boot := { s.boot with switching := true } }) ∧
  (∀ (s t : State) (x : Session) (r : Req), wrote s t x r 0x7A00 0x16 .u8 [1] 3 → exec (.confirm r) s = .next (granted t.confirmTrial x r)) ∧
  (∀ s : State, s.boot.trial = true → ∃ t : State, s.confirmTrial = t ∧ t.boot.trial = false ∧ t.boot.confirmed = s.boot.inUse ∧
      t.boot.rollback = max s.boot.rollback (min 64 (fwRollback s.boot.banks[s.boot.inUse].image)) ∧ t.bit Obj.HEALTH.FLAGS Bit.HEALTH.FLAGS.TRIAL = false ∧
      t.mem = s.mem) ∧
  (∀ s : State, s.boot.trial = false → s.confirmTrial = s ∧ exec .trialTimeout s = .next s) ∧
  (∀ s : State, s.boot.trial = true → s.u Obj.HEALTH.TRIAL_S ≠ 0 →
    (s.boot.trialLive = true → ∃ t : State, exec .trialTimeout s = .next t ∧ t.boot.inUse = s.boot.confirmed ∧ t.boot.trial = false ∧ t.boot.restarting = true) ∧
    (s.boot.trialLive = false → s.boot.zeroize = false → ∃ t : State, exec .trialTimeout s = .next t ∧ t.u Obj.HEALTH.RESET_CAUSE = 7 ∧ t.boot.trial = false ∧
      t.boot.confirmed = s.boot.confirmed)) ∧
  (∀ (s : State) (a b c : Int), (∀ v ∈ [a, b, c], -32768 ≤ v ∧ v < 32768) → s.u Obj.HEALTH.T_MAX < 2 ^ 16 →
    ∃ t : State, exec (.temperatureRead a b c) s = .next t ∧ t.i Obj.HEALTH.T_DIGITAL = a ∧ t.i Obj.HEALTH.T_ANALOGUE = b ∧ t.i Obj.HEALTH.T_FLASH = c ∧
      max a (max b c) ≤ t.i Obj.HEALTH.T_MAX ∧
      (s.i Obj.HEALTH.T_WARN ≤ max a (max b c) → t.bit Obj.HEALTH.FLAGS Bit.HEALTH.FLAGS.THERM_WARN = true) ∧
      (max a (max b c) < s.i Obj.HEALTH.T_WARN - 50 → t.bit Obj.HEALTH.FLAGS Bit.HEALTH.FLAGS.THERM_WARN = false) ∧
      (s.i Obj.HEALTH.T_WARN - 50 ≤ max a (max b c) → max a (max b c) < s.i Obj.HEALTH.T_WARN →
        t.bit Obj.HEALTH.FLAGS Bit.HEALTH.FLAGS.THERM_WARN = s.bit Obj.HEALTH.FLAGS Bit.HEALTH.FLAGS.THERM_WARN) ∧
      t.boot.held = (s.boot.held && decide (1100 < max a (max b c)))) ∧
  (∀ (s : State) (rails : BitVec 32), ∃ (t : State) (e : Ev), exec (.railOvervoltage rails) s = .next (t.log e) ∧ e.sub = 26 ∧
      t.bit Obj.HEALTH.FLAGS Bit.HEALTH.FLAGS.OV = true ∧ (∀ b : Fin 8, rails.getLsbD b.val = true → t.bit Obj.HEALTH.RAIL_OV b.val = true) ∧
      onlyRegs s t [Obj.HEALTH.FLAGS, Obj.HEALTH.RAIL_OV])

/-- R522, R523, R524, R525, R526, R527: TAP instructions, unlocking, and the debug commands to memory, stalls and clerks. -/
def Obligations.DebugPort : Prop :=
  (∀ s : State, tapHolds s = false → exec .bypass s = .next { s with boot := { s.boot with tap := .bypass } } ∧
    exec .samplePreload s = .next { s with boot := { s.boot with tap := .sample } } ∧ exec .extestExit s = .next s ∧
    exec .idcode s = .next (({ s with boot := { s.boot with tap := .idcode } }).emit
      (.tap (le 4 (s.u Obj.IDENTITY.SILICON % 16 * 2 ^ 28 + 0x8816 * 2 ^ 12 + 0x4E3 * 2 + 1))))) ∧
  (∀ s : State, tapHolds s = false →
    ∃ t u : State, exec .extest s = .next t ∧ exec .clamp s = .next u ∧ t.boot.tap = .extest ∧ u.boot.tap = .clamp ∧ tapHolds t = true ∧ tapHolds u = true ∧
      t.u Obj.HEALTH.BOOT_STATE = 0 ∧ t.ledger.sessions = [] ∧ t.plant.live = false ∧ t.mem = [] ∧ exec .loaderStart t = .next t) ∧
  (∀ s : State, tapHolds s = true → s.boot.zeroize = false →
    ∃ t : State, exec .extestExit s = .next t ∧ t.boot.tap = .bypass ∧ t.u Obj.HEALTH.RESET_CAUSE = 8 ∧ t.u Obj.HEALTH.BOOT_STATE = 0) ∧
  (∀ (s : State) (nonce : List Byte), tapHolds s = false → s.boot.lockout = false →
    exec (.chal nonce) s = .next (({ s with boot := { s.boot with tap := .chal, challenge := some (padTo 32 nonce ++ padTo 12 (s.blob Obj.IDENTITY.SERIAL)) } }).emit
      (.tap (padTo 32 nonce ++ padTo 12 (s.blob Obj.IDENTITY.SERIAL))))) ∧
  (∀ (s : State) (nonce : List Byte), tapHolds s = false → s.boot.lockout = true →
    exec (.chal nonce) s = .next (({ s with boot := { s.boot with tap := .chal, challenge := none } }).emit (.tap (List.replicate 44 0)))) ∧
  (∀ (s : State) (level : BitVec 8) (b c : List Byte), tapHolds s = false → s.boot.challenge = some c →
    (level = 2 ∧ ed25519 Config.debugKey c b = true ∨ level = 1 ∧ ed25519 (padTo 32 (s.blob Obj.HEALTH.DBG_KEY)) c b = true) →
    ∃ t : State, exec (.resp level b) s = .next t ∧ t.u Obj.HEALTH.DBG_STATE = level.toNat ∧ t.boot.badRun = 0 ∧
      t.bit Obj.HEALTH.FLAGS Bit.HEALTH.FLAGS.DEBUG_UNLOCKED = true ∧ t.mem = s.mem) ∧
  (∀ (s : State) (level : BitVec 8) (b : List Byte), tapHolds s = false → responseGood s level.toNat b = false → s.u Obj.HEALTH.DBG_FAILS + 1 < 2 ^ 32 →
    ∃ t : State, exec (.resp level b) s = .next t ∧ t.u Obj.HEALTH.DBG_FAILS = s.u Obj.HEALTH.DBG_FAILS + 1 ∧
      t.u Obj.HEALTH.DBG_STATE = s.u Obj.HEALTH.DBG_STATE ∧ (2 ≤ s.boot.badRun → t.boot.lockout = true ∧ t.boot.badRun = 0) ∧
      (s.boot.badRun < 2 → t.boot.lockout = s.boot.lockout ∧ t.boot.badRun = s.boot.badRun + 1)) ∧
  (∀ s : State, exec .chalLockoutEnd s = .next { s with boot := { s.boot with lockout := false } }) ∧
  (∀ s : State, tapHolds s = false → ∃ t : State, exec .trstN s = .next t ∧ t.boot.tap = .idcode ∧ t.u Obj.HEALTH.DBG_STATE = 0 ∧
      t.bit Obj.HEALTH.FLAGS Bit.HEALTH.FLAGS.DEBUG_UNLOCKED = false) ∧
  (∀ (s t : State) (x : Session) (r : Req), wrote s t x r 0x7A00 0x1E .u8 [1] 2 → exec (.dbgLock r 1) s = .next (granted t.lockDebug x r)) ∧
  (∀ (s : State) (a : BitVec 40) (v : BitVec 128) (g : DbgTarget) (i : StallId) (f x : BitVec 8) (p : BitVec 13) (w : BitVec 18) (k : Fin 4) (j : Fin 2) (rd wr : Bool),
    s.u Obj.HEALTH.DBG_STATE = 0 →
    ∀ c : Instr, c ∈ [.memRead a, .memWrite a v, .halt g, .resume g, .step i, .bpSet i k p, .bpClear i k, .watchSet i j w rd wr, .regRead i f x, .regWrite i f x v, .status g] →
    exec c s = .next (s.emit (.debug 2 0))) ∧
  (∀ (s : State) (a : BitVec 40), dbgLevel s ≠ 0 → debugMapped s (a.toNat / 16 * 16) = true → inReserve s (a.toNat / 16 * 16) = false →
    ∃ h : Holder, holderOf s (a.toNat / 16 * 16) = some h ∧
      (∀ d : BitVec 128, s.finds (a.toNat / 16 * 16) h = .clean d ∨ s.finds (a.toNat / 16 * 16) h = .single d →
        exec (.memRead a) s = .next ((s.readAt (a.toNat / 16 * 16) h).emit (.debug 0 d))) ∧
      (∀ y : BitVec 9, s.finds (a.toNat / 16 * 16) h = .bad y →
        exec (.memRead a) s = .next ((s.readAt (a.toNat / 16 * 16) h).emit (.debug 3 h.word))) ∧
      (∀ v : BitVec 128, exec (.memWrite a v) s = .next (((h.put v false s).dropFlips (a.toNat / 16 * 16) 16).emit (.debug 0 0)))) ∧
  (∀ (s : State) (a : Nat), (memKind s a = .stall → holderOf s a = some (plainHolder s a)) ∧ (memKind s a = .outside → holderOf s a = none)) ∧
  (∀ (s : State) (a : BitVec 40), dbgLevel s ≠ 0 → debugMapped s (a.toNat / 16 * 16) = true → inReserve s (a.toNat / 16 * 16) = false →
    holderOf s (a.toNat / 16 * 16) = some (plainHolder s (a.toNat / 16 * 16)) → sound s (a.toNat / 16 * 16) 16 →
    exec (.memRead a) s = .next (s.emit (.debug 0 (BitVec.ofNat 128 (fromLe (s.load (a.toNat / 16 * 16) 16)))))) ∧
  (∀ (s : State) (a : BitVec 40) (v : BitVec 128), dbgLevel s ≠ 0 → debugMapped s (a.toNat / 16 * 16) = true → inReserve s (a.toNat / 16 * 16) = false → memoryGood s →
    holderOf s (a.toNat / 16 * 16) = some (plainHolder s (a.toNat / 16 * 16)) →
    ∃ t : State, exec (.memWrite a v) s = .next t ∧ (∀ i : Fin 16, Memory.read t.mem (a.toNat / 16 * 16 + i.val) = (le 16 v.toNat).getD i.val 0) ∧
      bytesKept s t (a.toNat / 16 * 16) 16 ∧ t.out = s.out ++ [.debug 0 0] ∧ t.regs = s.regs ∧ t.stalls = s.stalls) ∧
  (∀ (s : State) (a : BitVec 40) (v : BitVec 128), debugMapped s (a.toNat / 16 * 16) = false ∨ (inReserve s (a.toNat / 16 * 16) = true ∧ dbgLevel s < 2) →
    exec (.memRead a) s = .next (s.emit (.debug 2 0)) ∧ exec (.memWrite a v) s = .next (s.emit (.debug 2 0))) ∧
  (∀ (s : State) (t : StallId), dbgLevel s ≠ 0 → s.stalls[t].debugHalt = true →
    exec (.halt (.stall t)) s = .next (s.emit (.debug 0 0))) ∧
  (∀ (s : State) (t : StallId), dbgLevel s ≠ 0 → s.stalls[t].debugHalt = false →
    ∃ u : State, exec (.halt (.stall t)) s = .next u ∧ u.stalls[t].debugHalt = true ∧ u.stalls[t].pc = s.stalls[t].pc ∧ u.stalls[t].d = s.stalls[t].d) ∧
  (∀ (s : State) (t : StallId), dbgLevel s ≠ 0 → s.stalls[t].debugHalt = false →
    exec (.resume (.stall t)) s = .next (s.emit (.debug 5 0)) ∧ exec (.step t) s = .next (s.emit (.debug 5 0))) ∧
  (∀ (s : State) (t : StallId), dbgLevel s ≠ 0 → s.stalls[t].debugHalt = true →
    (∃ u : State, exec (.resume (.stall t)) s = .next u ∧ u.stalls[t].debugHalt = false ∧ .debug 0 0 ∈ u.out) ∧
    (∃ u : State, exec (.step t) s = .next u ∧ u.stalls[t].debugHalt = true ∧ .debug 0 0 ∈ u.out)) ∧
  (∀ (s : State) (t : StallId) (k : Fin 4) (p : BitVec 13), dbgLevel s ≠ 0 →
    (∃ u : State, exec (.bpSet t k p) s = .next u ∧ u.stalls[t] = { s.stalls[t] with bps := s.stalls[t].bps.set k (some p) } ∧
      u = { s with stalls := u.stalls, out := s.out ++ [.debug 0 0] } ∧ ∀ j : StallId, j ≠ t → u.stalls[j] = s.stalls[j]) ∧
    (∃ u : State, exec (.bpClear t k) s = .next u ∧ u.stalls[t] = { s.stalls[t] with bps := s.stalls[t].bps.set k none } ∧
      u = { s with stalls := u.stalls, out := s.out ++ [.debug 0 0] } ∧ ∀ j : StallId, j ≠ t → u.stalls[j] = s.stalls[j])) ∧
  (∀ (s : State) (t : StallId) (k : Fin 2) (a : BitVec 18) (rd wr : Bool), dbgLevel s ≠ 0 →
    ∃ u : State, exec (.watchSet t k a rd wr) s = .next u ∧ u.out = s.out ++ [.debug 0 0] ∧
      u.stalls[t] = { s.stalls[t] with watches := s.stalls[t].watches.set k (some (a, 1, watchBits rd wr)) } ∧
      ∀ j : StallId, j ≠ t → u.stalls[j] = s.stalls[j]) ∧
  (∀ (s : State) (t : StallId) (f x : BitVec 8) (v : BitVec 128), dbgLevel s ≠ 0 → stallHalted s.stalls[t] = false →
    exec (.regRead t f x) s = .next (s.emit (.debug 5 0)) ∧ exec (.regWrite t f x v) s = .next (s.emit (.debug 5 0))) ∧
  (∀ (s : State) (t : StallId) (x : Fin 16), dbgLevel s ≠ 0 → stallHalted s.stalls[t] = true →
    ∃ u : State, exec (.regRead t 2 (BitVec.ofNat 8 x.val)) s = .next u ∧
      u.out = s.out ++ [.debug 0 (s.stalls[t].p[x].setWidth 128)] ∧ u.stalls = s.stalls ∧ u.regs = s.regs) ∧
  (∀ (s : State) (t : StallId) (x : Fin 64), dbgLevel s ≠ 0 → stallHalted s.stalls[t] = true →
    ∃ u : State, exec (.regRead t 0 (BitVec.ofNat 8 x.val)) s = .next u ∧ u.stalls = s.stalls ∧
      ∃ v : BitVec 128, u.out = s.out ++ [.debug 0 v] ∧ ∀ i : Fin 4, v.extractLsb' (24 * i.val) 24 = (s.stalls[t].d[x].get i).v ∧
        v.getLsbD (96 + i.val) = (s.stalls[t].d[x].get i).poison) ∧
  (∀ (s : State) (t : StallId) (x : Fin 16) (v : BitVec 128), dbgLevel s ≠ 0 → stallHalted s.stalls[t] = true →
    ∃ u : State, exec (.regWrite t 2 (BitVec.ofNat 8 x.val) v) s = .next u ∧ u.out = s.out ++ [.debug 0 0] ∧
      u.stalls[t] = { s.stalls[t] with p := s.stalls[t].p.set x (v.setWidth 24) } ∧ (∀ j : StallId, j ≠ t → u.stalls[j] = s.stalls[j]) ∧ u.mem = s.mem) ∧
  (∀ (s : State) (t : StallId), dbgLevel s ≠ 0 →
    ∃ (u : State) (v : BitVec 128), exec (.status (.stall t)) s = .next u ∧ u.out = s.out ++ [.debug 0 v] ∧ u.stalls = s.stalls ∧
      v.getLsbD 0 = stallHalted s.stalls[t] ∧ v.extractLsb' 32 13 = s.stalls[t].pc) ∧
  (∀ s : State, dbgLevel s = 1 → exec (.halt .clerks) s = .next (s.emit (.debug 2 0))) ∧
  (∀ s : State, 2 ≤ dbgLevel s → ∃ t : State, exec (.halt .clerks) s = .next t ∧ t.boot.halted = true ∧ exec .watchdogExpiry t = .next t ∧ t.regs = s.regs) ∧
  (∀ (s : State) (n : BitVec 8), dbgLevel s ≠ 0 → exec (.halt (.other n)) s = .next (s.emit (.debug 4 0)) ∧ exec (.status .memory) s = .next (s.emit (.debug 4 0))) ∧
  (∀ (s : State) (cmd target : BitVec 8) (arg : BitVec 40) (data : BitVec 128), tapHolds s = false → s.u Obj.HEALTH.DBG_STATE = 0 →
    exec (.dbgreg cmd target arg data) s = .next (({ s with boot := { s.boot with tap := .dbgreg } }).emit (.debug 2 0))) ∧
  (∀ (s t : State) (arg : BitVec 40) (data : BitVec 128) (i : StallId), tapHolds s = false → dbgLevel s ≠ 0 → t = { s with boot := { s.boot with tap := .dbgreg } } →
    exec (.dbgreg 1 0xFF arg data) s = exec (.memRead arg) t ∧ exec (.dbgreg 2 0xFF arg data) s = exec (.memWrite arg data) t ∧
    exec (.dbgreg 0x10 (BitVec.ofNat 8 i.val) arg data) s = exec (.halt (.stall i)) t ∧
    exec (.dbgreg 0x11 (BitVec.ofNat 8 i.val) arg data) s = exec (.resume (.stall i)) t ∧
    exec (.dbgreg 0x12 (BitVec.ofNat 8 i.val) arg data) s = exec (.step i) t ∧ exec (.dbgreg 0x20 0xFE arg data) s = exec (.status .clerks) t) ∧
  (∀ (s : State) (arg : BitVec 40) (data : BitVec 128) (i : StallId), tapHolds s = false → dbgLevel s ≠ 0 →
    (∃ (u : State) (v : BitVec 128), exec (.dbgreg 0x20 (BitVec.ofNat 8 i.val) arg data) s = .next u ∧ u.out = s.out ++ [.debug 0 v] ∧
      u.boot.tap = .dbgreg ∧ u.stalls = s.stalls ∧ v.getLsbD 0 = stallHalted s.stalls[i] ∧ v.extractLsb' 32 13 = s.stalls[i].pc) ∧
    (s.stalls[i].debugHalt = true → exec (.dbgreg 0x10 (BitVec.ofNat 8 i.val) arg data) s =
      .next (({ s with boot := { s.boot with tap := .dbgreg } }).emit (.debug 0 0))))

/-! ## The block as a whole -/

/-- A step takes the command at the front of the queue with the queue's rest; on an empty queue a root cycle passes (log entry 1: the model's choice). -/
def Obligations.StepTakesFront : Prop :=
  (∀ (c : Instr) (s : State) (rest : List Instr), step { s with pending := c :: rest } = exec c { s with pending := rest }) ∧
  (∀ s : State, s.pending = [] → step s = .next s.tick) ∧
  (∀ s : State, s.pending = [] → s.ep.running = false ∨ s.clk.stopped = true → step s = .next s)

/-- Right after reset every store is in canonical form, and no command waits; the values that R503 and R507 state stand in the registers. -/
def Obligations.ResetGood : Prop :=
  storesGood State.reset ∧ State.reset.pending = [] ∧ State.reset.mem = [] ∧ State.reset.u Obj.HEALTH.BOOT_STATE = 0 ∧
  State.reset.ledger.sessions = [] ∧ State.reset.plant.live = false ∧ ∀ k : Fin 4, State.reset.u (Obj.AGGON.LSTATE k) = 0

/-- Memory, poison marks and the Ledger's registers keep their canonical form over every step. -/
def Obligations.StepKeepsStores : Prop := ∀ s t : State, storesGood s → step s = .next t → storesGood t

/-- Every command of the table completes in every state: the queue's rest stands, and what the block has sent stays sent. -/
def Obligations.EveryCommandCompletes : Prop :=
  ∀ (c : Instr) (s : State), ∃ t : State, exec c s = .next t ∧ t.pending = s.pending ∧ s.out <+: t.out ∧ s.fresh ≤ t.fresh

/-- R511, R515: no command lowers the rollback fuses, over any number of steps. -/
def Obligations.RollbackFuseNeverFalls : Prop :=
  (∀ s t : State, step s = .next t → s.boot.rollback ≤ t.boot.rollback) ∧
  (∀ (l : List Instr) (s : State), ∃ t : State,
    l.foldl (fun (o : Host.Outcome State Fault Refusal) c => match o with
      | .next u => exec c u
      | o => o) (.next s) = .next t ∧ s.boot.rollback ≤ t.boot.rollback)

/-! ## Two rules stated alone (spec/03 and spec/06) -/

/-- R134: a PHASE_RATE word whose quality is 0 carries pred in its value field when UNWRAP_ORDER is 1 and RATE_VALID was set, and 0 otherwise,
whether or not both ends of its gauge exist. -/
def Obligations.QualityZeroValue : Prop :=
  ∀ (x : Shot) (r : GridRec) (ea eb : Option GridRec) (free : BitVec 24), x.cfg.outMode = 0 →
    (∀ a ∈ ea, a.q ≤ 255) → (∀ b ∈ eb, b.q ≤ 255) → x.cfg.qcapGain ≤ 255 → x.cfg.qcapAmbig ≤ 255 → x.cfg.qcapRelearn ≤ 255 →
    (phasePoint x r ea eb free).word.toNat % 256 = 0 →
    ((phasePoint x r ea eb free).word.extractLsb' 8 24).toInt =
      if x.cfg.unwrapOrder = 1 ∧ wRateValid r.word = true then (wRate r.word).toInt * 256 else 0

/-- R213, R242: an instruction that names Dn with n from 32 to 63 uses register 32 + ((n − 32 + RB) mod 32), and the lower names are not moved;
MFRB reads RB, MTRB sets it to Ps mod 32 and ROTB takes 1 from it modulo 32; so a value at D32 before a ROTB is read as D33 after it, and
each of the upper names but the last as the next one. -/
def Obligations.RotationBase : Prop :=
  (∀ (x : Stall) (n : Fin 64) (v : DReg), 32 ≤ n.val →
    x.getD n = x.d[32 + (n.val - 32 + x.rb.toNat) % 32]'(by omega) ∧
    x.setD n v = { x with d := x.d.set (32 + (n.val - 32 + x.rb.toNat) % 32) v (by omega) }) ∧
  (∀ (x : Stall) (n : Fin 64) (v : DReg), n.val < 32 → x.getD n = x.d[n] ∧ x.setD n v = { x with d := x.d.set n v }) ∧
  (∀ (s : State) (t : StallId) (pd ps : Fin 16), ready s t →
    exec (.mfrb t pd) s = .next (after s t (s.stalls[t].setP pd (BitVec.ofNat 24 s.stalls[t].rb.toNat))) ∧
    exec (.mtrb t ps) s = .next (after s t { s.stalls[t] with rb := BitVec.ofNat 5 ((s.stalls[t].getP ps).toNat % 32) }) ∧
    exec (.rotb t) s = .next (after s t { s.stalls[t] with rb := BitVec.ofNat 5 ((s.stalls[t].rb.toNat + 31) % 32) })) ∧
  (∀ (s u : State) (t : StallId) (n m : Fin 64), ready s t → 32 ≤ n.val → m.val = n.val + 1 → exec (.rotb t) s = .next u →
    u.stalls[t].getD m = s.stalls[t].getD n)
end

