-- ==== Sys2Proof/Laws/Keeps.lean ====
section
/-! SUPPORT. What every operation of the block keeps, said once: canonical stores stay canonical, the queue is left alone, what was sent
stays sent, draws and blown fuses only grow. One rule per way an operation is built. -/

/- One declaration after another: side by side they would need more memory. -/
set_option Elab.async false

namespace Sys2Proof.Machine

/-- From one state to a later one within a command. -/
structure Keeps (s t : State) : Prop where
  pending : t.pending = s.pending
  out : s.out <+: t.out
  fresh : s.fresh ≤ t.fresh
  rollback : s.boot.rollback ≤ t.boot.rollback
  mem : Memory.wf s.mem = true → Memory.wf t.mem = true
  poison : rising s.poison → rising t.poison
  regs : rising (s.regs.map Prod.fst) → rising (t.regs.map Prod.fst)
  staged : rising (s.staged.map Prod.fst) → rising (t.staged.map Prod.fst)

/-- A command completes and keeps what Keeps says. -/
def Completes (s : State) (r : Result) : Prop := ∃ t, r = .next t ∧ Keeps s t

theorem Keeps.refl (s : State) : Keeps s s := ⟨rfl, List.prefix_refl _, le_refl _, le_refl _, id, id, id, id⟩

theorem Keeps.trans {s t u : State} (a : Keeps s t) (b : Keeps t u) : Keeps s u :=
  ⟨b.pending.trans a.pending, a.out.trans b.out, a.fresh.trans b.fresh, a.rollback.trans b.rollback,
   fun h => b.mem (a.mem h), fun h => b.poison (a.poison h), fun h => b.regs (a.regs h), fun h => b.staged (a.staged h)⟩

/-- A change that leaves the kept fields as they are. -/
theorem Keeps.of_same {s t u : State} (h : Keeps s t) (a : u.pending = t.pending) (b : u.out = t.out) (c : u.fresh = t.fresh)
    (d : u.boot.rollback = t.boot.rollback) (e : u.mem = t.mem) (f : u.poison = t.poison) (g : u.regs = t.regs)
    (i : u.staged = t.staged) : Keeps s u := by
  constructor
  · rw [a]; exact h.pending
  · rw [b]; exact h.out
  · rw [c]; exact h.fresh
  · rw [d]; exact h.rollback
  · rw [e]; exact h.mem
  · rw [f]; exact h.poison
  · rw [g]; exact h.regs
  · rw [i]; exact h.staged

/-- A record update that leaves the kept fields as they are. -/
theorem Keeps.mk_same {s t : State} {x_blobs : List (Nat × List Byte)} {x_stagedBlobs : List (Nat × List Byte)}
    {x_ep : EpochPart} {x_mains : MainsPart} {x_enc : EncPart} {x_lsi : LsiPart} {x_ports : Vector FibrePort 8}
    {x_pipes : Vector PipePart 8} {x_raman : Vector RamanPart 8} {x_bril : Vector BrilPart 8}
    {x_stalls : Vector Stall 132} {x_pitches : Vector PitchPart 192} {x_programs : Vector ProgramPart 16}
    {x_array : ArrayPart} {x_capture : CapturePart} {x_clk : ClockPart} {x_units : Vector MeasurePart 8}
    {x_dram : Vector DramChannel 2} {x_eth : Vector EthPort 4} {x_ptp : PtpPart} {x_streams : Vector StreamPart 256}
    {x_bale : BalePart} {x_ledger : LedgerPart} {x_can : CanPart} {x_book : DayBook} {x_cal : Vector CalRun 20}
    {x_flash : FlashPart} {x_tdc : TdcPart} {x_links : Vector LinkPart 4} {x_cluster : ClusterPart} {x_twin : TwinPart}
    {x_plant : PlantPart} {x_boot : BootPart}
    {x_flips : List (Nat × BitVec 137)} {x_netHeld : List NetHeld}
    (h : Keeps s t) (b : x_boot.rollback = t.boot.rollback) :
    Keeps s (State.mk t.regs x_blobs t.staged x_stagedBlobs x_ep x_mains x_enc x_lsi x_ports x_pipes x_raman x_bril
      x_stalls x_pitches x_programs x_array x_capture x_clk x_units x_dram t.mem t.poison x_flips x_eth x_ptp x_streams x_bale
      x_ledger x_can x_book x_cal x_flash x_tdc x_links x_cluster x_twin x_plant x_boot x_netHeld t.out t.fresh t.pending) := by
  refine Keeps.of_same h rfl rfl rfl ?_ rfl rfl rfl rfl
  exact b

/-- A record update that changes the staged registers. -/
theorem Keeps.mk_staged {s t : State} {l : List (Nat × Nat)} {x_blobs : List (Nat × List Byte)} {x_stagedBlobs : List (Nat × List Byte)}
    {x_ep : EpochPart} {x_mains : MainsPart} {x_enc : EncPart} {x_lsi : LsiPart} {x_ports : Vector FibrePort 8}
    {x_pipes : Vector PipePart 8} {x_raman : Vector RamanPart 8} {x_bril : Vector BrilPart 8}
    {x_stalls : Vector Stall 132} {x_pitches : Vector PitchPart 192} {x_programs : Vector ProgramPart 16}
    {x_array : ArrayPart} {x_capture : CapturePart} {x_clk : ClockPart} {x_units : Vector MeasurePart 8}
    {x_dram : Vector DramChannel 2} {x_eth : Vector EthPort 4} {x_ptp : PtpPart} {x_streams : Vector StreamPart 256}
    {x_bale : BalePart} {x_ledger : LedgerPart} {x_can : CanPart} {x_book : DayBook} {x_cal : Vector CalRun 20}
    {x_flash : FlashPart} {x_tdc : TdcPart} {x_links : Vector LinkPart 4} {x_cluster : ClusterPart} {x_twin : TwinPart}
    {x_plant : PlantPart} {x_boot : BootPart}
    {x_flips : List (Nat × BitVec 137)} {x_netHeld : List NetHeld}
    (h : Keeps s t) (g : rising (t.staged.map Prod.fst) → rising (l.map Prod.fst)) (b : x_boot.rollback = t.boot.rollback) :
    Keeps s (State.mk t.regs x_blobs l x_stagedBlobs x_ep x_mains x_enc x_lsi x_ports x_pipes x_raman x_bril
      x_stalls x_pitches x_programs x_array x_capture x_clk x_units x_dram t.mem t.poison x_flips x_eth x_ptp x_streams x_bale
      x_ledger x_can x_book x_cal x_flash x_tdc x_links x_cluster x_twin x_plant x_boot x_netHeld t.out t.fresh t.pending) :=
  ⟨h.pending, h.out, h.fresh, h.rollback.trans (le_of_eq b.symm), h.mem, h.poison, h.regs, (fun r => g (h.staged r))⟩

/-- A record update that changes the Ledger registers in force. -/
theorem Keeps.mk_regs {s t : State} {l : List (Nat × Nat)} {x_blobs : List (Nat × List Byte)} {x_stagedBlobs : List (Nat × List Byte)}
    {x_ep : EpochPart} {x_mains : MainsPart} {x_enc : EncPart} {x_lsi : LsiPart} {x_ports : Vector FibrePort 8}
    {x_pipes : Vector PipePart 8} {x_raman : Vector RamanPart 8} {x_bril : Vector BrilPart 8}
    {x_stalls : Vector Stall 132} {x_pitches : Vector PitchPart 192} {x_programs : Vector ProgramPart 16}
    {x_array : ArrayPart} {x_capture : CapturePart} {x_clk : ClockPart} {x_units : Vector MeasurePart 8}
    {x_dram : Vector DramChannel 2} {x_eth : Vector EthPort 4} {x_ptp : PtpPart} {x_streams : Vector StreamPart 256}
    {x_bale : BalePart} {x_ledger : LedgerPart} {x_can : CanPart} {x_book : DayBook} {x_cal : Vector CalRun 20}
    {x_flash : FlashPart} {x_tdc : TdcPart} {x_links : Vector LinkPart 4} {x_cluster : ClusterPart} {x_twin : TwinPart}
    {x_plant : PlantPart} {x_boot : BootPart}
    {x_flips : List (Nat × BitVec 137)} {x_netHeld : List NetHeld}
    (h : Keeps s t) (g : rising (t.regs.map Prod.fst) → rising (l.map Prod.fst)) (b : x_boot.rollback = t.boot.rollback) :
    Keeps s (State.mk l x_blobs t.staged x_stagedBlobs x_ep x_mains x_enc x_lsi x_ports x_pipes x_raman x_bril
      x_stalls x_pitches x_programs x_array x_capture x_clk x_units x_dram t.mem t.poison x_flips x_eth x_ptp x_streams x_bale
      x_ledger x_can x_book x_cal x_flash x_tdc x_links x_cluster x_twin x_plant x_boot x_netHeld t.out t.fresh t.pending) :=
  ⟨h.pending, h.out, h.fresh, h.rollback.trans (le_of_eq b.symm), h.mem, h.poison, (fun r => g (h.regs r)), h.staged⟩

/-- A record update that draws free values. -/
theorem Keeps.mk_draw {s t : State} {n : Nat} {x_blobs : List (Nat × List Byte)} {x_stagedBlobs : List (Nat × List Byte)}
    {x_ep : EpochPart} {x_mains : MainsPart} {x_enc : EncPart} {x_lsi : LsiPart} {x_ports : Vector FibrePort 8}
    {x_pipes : Vector PipePart 8} {x_raman : Vector RamanPart 8} {x_bril : Vector BrilPart 8}
    {x_stalls : Vector Stall 132} {x_pitches : Vector PitchPart 192} {x_programs : Vector ProgramPart 16}
    {x_array : ArrayPart} {x_capture : CapturePart} {x_clk : ClockPart} {x_units : Vector MeasurePart 8}
    {x_dram : Vector DramChannel 2} {x_eth : Vector EthPort 4} {x_ptp : PtpPart} {x_streams : Vector StreamPart 256}
    {x_bale : BalePart} {x_ledger : LedgerPart} {x_can : CanPart} {x_book : DayBook} {x_cal : Vector CalRun 20}
    {x_flash : FlashPart} {x_tdc : TdcPart} {x_links : Vector LinkPart 4} {x_cluster : ClusterPart} {x_twin : TwinPart}
    {x_plant : PlantPart} {x_boot : BootPart}
    {x_flips : List (Nat × BitVec 137)} {x_netHeld : List NetHeld}
    (h : Keeps s t) (b : x_boot.rollback = t.boot.rollback) :
    Keeps s (State.mk t.regs x_blobs t.staged x_stagedBlobs x_ep x_mains x_enc x_lsi x_ports x_pipes x_raman x_bril
      x_stalls x_pitches x_programs x_array x_capture x_clk x_units x_dram t.mem t.poison x_flips x_eth x_ptp x_streams x_bale
      x_ledger x_can x_book x_cal x_flash x_tdc x_links x_cluster x_twin x_plant x_boot x_netHeld t.out (t.fresh + n) t.pending) := by
  exact ⟨h.pending, h.out, h.fresh.trans (Nat.le_add_right _ _), h.rollback.trans (le_of_eq b.symm), h.mem, h.poison, h.regs, h.staged⟩

theorem Keeps.ite {s a b : State} {c : Prop} [Decidable c] (x : Keeps s a) (y : Keeps s b) : Keeps s (if c then a else b) := by
  split
  · exact x
  · exact y

theorem Keeps.dite {s : State} {c : Prop} [Decidable c] {a : c → State} {b : ¬c → State} (x : ∀ k, Keeps s (a k)) (y : ∀ k, Keeps s (b k)) :
    Keeps s (if k : c then a k else b k) := by
  split
  · exact x _
  · exact y _

theorem Keeps.foldl {α : Type} {s t : State} {f : State → α → State} {l : List α} (h : Keeps s t)
    (g : ∀ u a, Keeps s u → Keeps s (f u a)) : Keeps s (l.foldl f t) := by
  induction l generalizing t with
  | nil => exact h
  | cons a l ih => exact ih (g _ _ h)

theorem Keeps.fst {α : Type} {s t : State} {a : α} (h : Keeps s t) : Keeps s (t, a).1 := h

theorem Keeps.ite_fst {α : Type} {s : State} {a b : State × α} {c : Prop} [Decidable c] (x : Keeps s a.1) (y : Keeps s b.1) :
    Keeps s (if c then a else b).1 := by
  split
  · exact x
  · exact y

/-- A meaning that completes from every state a command has reached. -/
def Runs (s : State) (f : State → Result) : Prop := ∀ t, Keeps s t → Completes s (f t)

theorem Completes.next {s t : State} (h : Keeps s t) : Completes s (.next t) := ⟨t, rfl, h⟩

theorem Completes.ite {s : State} {a b : Result} {c : Prop} [Decidable c] (x : Completes s a) (y : Completes s b) :
    Completes s (if c then a else b) := by
  split
  · exact x
  · exact y

theorem Completes.nextOf {s t : State} {r : Result} (h : Completes s r) : Keeps s (nextOf t r) := by
  obtain ⟨u, rfl, k⟩ := h
  exact k

/-! ## Sorted lists -/

theorem rfSet_bound {l : List (Nat × Nat)} {k v a : Nat} (h : ∀ x ∈ l.map Prod.fst, a < x) (hk : a < k) :
    ∀ x ∈ (rfSet l k v).map Prod.fst, a < x := by
  induction l with
  | nil => simpa [rfSet] using hk
  | cons e l ih =>
    simp only [List.map_cons, List.mem_cons, forall_eq_or_imp] at h
    unfold rfSet
    split_ifs
    · simpa using ⟨hk, by simpa using h.2⟩
    · simpa using ⟨hk, h.1, by simpa using h.2⟩
    · simp only [List.map_cons, List.mem_cons, forall_eq_or_imp]
      exact ⟨h.1, ih h.2⟩

theorem rfSet_rising {l : List (Nat × Nat)} {k v : Nat} (h : rising (l.map Prod.fst)) : rising ((rfSet l k v).map Prod.fst) := by
  unfold rising at *
  induction l with
  | nil => simp [rfSet]
  | cons e l ih =>
    simp only [List.map_cons, List.pairwise_cons] at h
    unfold rfSet
    split_ifs with c d
    · subst c; simpa [List.pairwise_cons] using h
    · simp only [List.map_cons, List.pairwise_cons, List.mem_cons, forall_eq_or_imp]
      exact ⟨⟨d, fun x m => d.trans (h.1 x m)⟩, h.1, h.2⟩
    · simp only [List.map_cons, List.pairwise_cons]
      exact ⟨rfSet_bound h.1 (by omega), ih h.2⟩

theorem rising_fold {α : Type} {f : List (Nat × Nat) → α → List (Nat × Nat)} {l : List α} {r : List (Nat × Nat)}
    (h : rising (r.map Prod.fst)) (g : ∀ u a, rising (u.map Prod.fst) → rising ((f u a).map Prod.fst)) :
    rising ((l.foldl f r).map Prod.fst) := by
  induction l generalizing r with
  | nil => exact h
  | cons a l ih => exact ih (g _ _ h)

theorem rising_filter {l : List Nat} {p : Nat → Bool} (h : rising l) : rising (l.filter p) := h.filter p

theorem rising_filter_fst {α : Type} {l : List (Nat × α)} {p : Nat × α → Bool} (h : rising (l.map Prod.fst)) :
    rising ((l.filter p).map Prod.fst) :=
  List.Pairwise.sublist (List.Sublist.map _ List.filter_sublist) h

theorem insertSorted_bound {l : List Nat} {k a : Nat} (h : ∀ x ∈ l, a < x) (hk : a < k) : ∀ x ∈ insertSorted k l, a < x := by
  induction l with
  | nil => simpa [insertSorted] using hk
  | cons e l ih =>
    simp only [List.mem_cons, forall_eq_or_imp] at h
    unfold insertSorted
    split_ifs
    · simpa using h
    · simpa using ⟨hk, h.1, h.2⟩
    · simp only [List.mem_cons, forall_eq_or_imp]
      exact ⟨h.1, ih h.2⟩

theorem insertSorted_rising {l : List Nat} {k : Nat} (h : rising l) : rising (insertSorted k l) := by
  unfold rising at *
  induction l with
  | nil => simp [insertSorted]
  | cons e l ih =>
    simp only [List.pairwise_cons] at h
    unfold insertSorted
    split_ifs with c d
    · simpa [List.pairwise_cons] using h
    · simp only [List.pairwise_cons, List.mem_cons, forall_eq_or_imp]
      exact ⟨⟨d, fun x m => d.trans (h.1 x m)⟩, h.1, h.2⟩
    · simp only [List.pairwise_cons]
      exact ⟨insertSorted_bound h.1 (by omega), ih h.2⟩

/-- Three rising runs, each below the next. -/
theorem rising_append3 {a b c : List Nat} {lo hi : Nat} (ha : rising a) (hb : rising b) (hc : rising c) (la : ∀ x ∈ a, x < lo)
    (lb : ∀ x ∈ b, lo ≤ x ∧ x < hi) (lc : ∀ x ∈ c, hi ≤ x) (h : lo ≤ hi) : rising (a ++ b ++ c) := by
  unfold rising at *
  rw [List.pairwise_append, List.pairwise_append]
  refine ⟨⟨ha, hb, fun x hx y hy => ?_⟩, hc, fun x hx y hy => ?_⟩
  · exact lt_of_lt_of_le (la x hx) (lb y hy).1
  · have := lc y hy
    rcases List.mem_append.mp hx with m | m
    · have := la x m; omega
    · have := lb x m; omega

/-! ## The memory's canonical form -/

theorem Memory.wf_iff (m : List Host.Cell) :
    Memory.wf m = true ↔ rising (m.map Prod.fst) ∧ ∀ c ∈ m, c.2 ≠ unwritten := by
  unfold rising
  induction m with
  | nil => simp [Memory.wf]
  | cons c m ih =>
    cases m with
    | nil => simp [Memory.wf]
    | cons d m =>
      obtain ⟨a, v⟩ := c
      obtain ⟨b, w⟩ := d
      simp only [Memory.wf, Bool.and_eq_true, bne_iff_ne, ne_eq, decide_eq_true_eq, ih]
      simp only [List.map_cons, List.pairwise_cons, List.mem_cons, forall_eq_or_imp]
      constructor
      · rintro ⟨⟨h1, h2⟩, ⟨h3, h4⟩, h5, h6⟩
        exact ⟨⟨⟨h2, fun x m => h2.trans (h3 x m)⟩, h3, h4⟩, h1, h5, h6⟩
      · rintro ⟨⟨⟨h2, -⟩, h3, h4⟩, h1, h5, h6⟩
        exact ⟨⟨h1, h2⟩, ⟨h3, h4⟩, h5, h6⟩

theorem Memory.write_mem {m : List Host.Cell} {k : Nat} {v : Byte} {c : Host.Cell} (h : c ∈ Memory.write m k v) :
    c ∈ m ∨ (c = (k, v) ∧ v ≠ unwritten) := by
  induction m with
  | nil =>
    unfold Memory.write at h
    split_ifs at h with w
    · cases h
    · simp only [List.mem_singleton] at h; exact .inr ⟨h, w⟩
  | cons d m ih =>
    unfold Memory.write at h
    split_ifs at h with e w f w
    · exact .inl (List.mem_cons_of_mem _ h)
    · rcases List.mem_cons.mp h with q | q
      · exact .inr ⟨q, w⟩
      · exact .inl (List.mem_cons_of_mem _ q)
    · exact .inl h
    · rcases List.mem_cons.mp h with q | q
      · exact .inr ⟨q, w⟩
      · exact .inl q
    · rcases List.mem_cons.mp h with q | q
      · exact .inl (q ▸ List.mem_cons_self)
      · rcases ih q with r | r
        · exact .inl (List.mem_cons_of_mem _ r)
        · exact .inr r

theorem Memory.write_rising {m : List Host.Cell} {k : Nat} {v : Byte} (h : rising (m.map Prod.fst)) :
    rising ((Memory.write m k v).map Prod.fst) := by
  unfold rising at *
  induction m with
  | nil => unfold Memory.write; split_ifs <;> simp
  | cons d m ih =>
    simp only [List.map_cons, List.pairwise_cons] at h
    unfold Memory.write
    split_ifs with e w f w
    · exact h.2
    · subst e; simpa [List.pairwise_cons] using h
    · simpa [List.pairwise_cons] using h
    · simp only [List.map_cons, List.pairwise_cons, List.mem_cons, forall_eq_or_imp]
      exact ⟨⟨f, fun x q => f.trans (h.1 x q)⟩, h.1, h.2⟩
    · simp only [List.map_cons, List.pairwise_cons]
      refine ⟨fun x q => ?_, ih h.2⟩
      obtain ⟨c, hc, rfl⟩ := List.mem_map.mp q
      rcases Memory.write_mem hc with r | ⟨rfl, -⟩
      · exact h.1 _ (List.mem_map.mpr ⟨c, r, rfl⟩)
      · simp only; omega

theorem Memory.write_wf {m : List Host.Cell} {k : Nat} {v : Byte} (h : Memory.wf m = true) : Memory.wf (Memory.write m k v) = true := by
  rw [Memory.wf_iff] at *
  refine ⟨Memory.write_rising h.1, fun c hc => ?_⟩
  rcases Memory.write_mem hc with r | ⟨rfl, w⟩
  · exact h.2 c r
  · exact w

theorem Memory.writeBytes_wf {l : List Byte} {m : List Host.Cell} {a : Nat} (h : Memory.wf m = true) :
    Memory.wf (Memory.writeBytes m a l) = true := by
  induction l generalizing m a with
  | nil => exact h
  | cons b l ih => exact ih (Memory.write_wf h)

theorem Memory.filter_wf {m : List Host.Cell} {p : Host.Cell → Bool} (h : Memory.wf m = true) : Memory.wf (m.filter p) = true := by
  rw [Memory.wf_iff] at *
  exact ⟨rising_filter_fst h.1, fun c hc => h.2 c (List.mem_of_mem_filter hc)⟩

theorem Memory.clear_wf {m : List Host.Cell} {a n : Nat} (h : Memory.wf m = true) : Memory.wf (Memory.clear m a n) = true :=
  Memory.filter_wf h

theorem cellsAt_good (l : List Byte) (a : Nat) :
    rising ((cellsAt a l).map Prod.fst) ∧ (∀ c ∈ cellsAt a l, c.2 ≠ unwritten ∧ a ≤ c.1 ∧ c.1 < a + l.length) := by
  unfold rising cellsAt
  induction l generalizing a with
  | nil => simp
  | cons b l ih =>
    obtain ⟨p, q⟩ := ih (a + 1)
    simp only [List.zipIdx_cons, List.filterMap_cons, List.length_cons]
    split
    · exact ⟨p, fun c hc => by have := q c hc; exact ⟨this.1, by omega, by omega⟩⟩
    · rename_i x h
      split_ifs at h with w
      cases h
      constructor
      · simp only [List.map_cons, List.pairwise_cons]
        refine ⟨fun x hx => ?_, p⟩
        obtain ⟨c, hc, rfl⟩ := List.mem_map.mp hx
        have := (q c hc).2.1
        omega
      · intro c hc
        rcases List.mem_cons.mp hc with rfl | hc
        · exact ⟨w, by simp only; omega, by simp only; omega⟩
        · have := q c hc; exact ⟨this.1, by omega, by omega⟩

theorem Memory.place_wf {m : List Host.Cell} {a : Nat} {l : List Byte} (h : Memory.wf m = true) :
    Memory.wf (Memory.place m a l) = true := by
  rw [Memory.wf_iff] at *
  obtain ⟨p, q⟩ := cellsAt_good l a
  unfold Memory.place
  constructor
  · simp only [List.map_append]
    refine rising_append3 (lo := a) (hi := a + l.length) (rising_filter_fst h.1) p (rising_filter_fst h.1) ?_ ?_ ?_ (by omega)
    · intro x hx
      obtain ⟨c, hc, rfl⟩ := List.mem_map.mp hx
      simpa using (List.mem_filter.mp hc).2
    · intro x hx
      obtain ⟨c, hc, rfl⟩ := List.mem_map.mp hx
      exact (q c hc).2
    · intro x hx
      obtain ⟨c, hc, rfl⟩ := List.mem_map.mp hx
      simpa using (List.mem_filter.mp hc).2
  · intro c hc
    simp only [List.mem_append] at hc
    rcases hc with (hc | hc) | hc
    · exact h.2 c (List.mem_of_mem_filter hc)
    · exact (q c hc).1
    · exact h.2 c (List.mem_of_mem_filter hc)

/-- A rising list moved as a whole. -/
theorem rising_move {l : List Nat} {a b : Nat} (h : rising l) (ge : ∀ x ∈ l, a ≤ x) : rising (l.map (fun w => w - a + b)) := by
  unfold rising at *
  rw [List.pairwise_map]
  exact h.imp_of_mem (fun {x y} hx hy q => by have := ge x hx; have := ge y hy; omega)

theorem Memory.copy_wf {m : List Host.Cell} {a b n : Nat} (h : Memory.wf m = true) : Memory.wf (Memory.copy m a b n) = true := by
  rw [Memory.wf_iff] at *
  unfold Memory.copy
  constructor
  · simp only [List.map_append, List.map_map]
    refine rising_append3 (lo := b) (hi := b + n) (rising_filter_fst h.1) ?_ (rising_filter_fst h.1) ?_ ?_ ?_ (by omega)
    · have e : (Prod.fst ∘ fun c : Host.Cell => (c.1 - a + b, c.2)) = (fun w => w - a + b) ∘ Prod.fst := rfl
      rw [e, ← List.map_map]
      refine rising_move (rising_filter_fst h.1) (fun x hx => ?_)
      obtain ⟨c, hc, rfl⟩ := List.mem_map.mp hx
      have := (List.mem_filter.mp hc).2
      simp only [Bool.and_eq_true, decide_eq_true_eq] at this
      exact this.1
    · intro x hx
      obtain ⟨c, hc, rfl⟩ := List.mem_map.mp hx
      simpa using (List.mem_filter.mp hc).2
    · intro x hx
      obtain ⟨c, hc, rfl⟩ := List.mem_map.mp hx
      have := (List.mem_filter.mp hc).2
      simp only [Bool.and_eq_true, decide_eq_true_eq] at this
      simp only [Function.comp]
      omega
    · intro x hx
      obtain ⟨c, hc, rfl⟩ := List.mem_map.mp hx
      simpa using (List.mem_filter.mp hc).2
  · intro c hc
    simp only [List.mem_append, List.mem_map] at hc
    rcases hc with (hc | ⟨d, hd, rfl⟩) | hc
    · exact h.2 c (List.mem_of_mem_filter hc)
    · exact h.2 d (List.mem_of_mem_filter hd)
    · exact h.2 c (List.mem_of_mem_filter hc)

theorem poisonCopy_rising {l : List Nat} {a b n : Nat} (h : rising l) :
    rising (l.filter (fun w => decide (w < b)) ++
      (l.filter (fun w => decide (a ≤ w) && decide (w < a + n))).map (fun w => w - a + b) ++
      l.filter (fun w => decide (b + n ≤ w))) := by
  refine rising_append3 (lo := b) (hi := b + n) (rising_filter h) (rising_move (rising_filter h) ?_) (rising_filter h) ?_ ?_ ?_ (by omega)
  · intro x hx
    have := (List.mem_filter.mp hx).2
    simp only [Bool.and_eq_true, decide_eq_true_eq] at this
    exact this.1
  · intro x hx
    simpa using (List.mem_filter.mp hx).2
  · intro x hx
    obtain ⟨c, hc, rfl⟩ := List.mem_map.mp hx
    have := (List.mem_filter.mp hc).2
    simp only [Bool.and_eq_true, decide_eq_true_eq] at this
    omega
  · intro x hx
    simpa using (List.mem_filter.mp hx).2

/-- Bytes written to the memory. -/
theorem Keeps.writeBytes {s t : State} (h : Keeps s t) (a : Nat) (b : List Byte) :
    Keeps s { t with mem := Memory.writeBytes t.mem a b } :=
  ⟨h.pending, h.out, h.fresh, h.rollback, fun r => Memory.writeBytes_wf (h.mem r), h.poison, h.regs, h.staged⟩

end Sys2Proof.Machine
end

