-- ==== Sys2Proof/Laws/Ops.lean ====
section
/-! SUPPORT. What the operations of Machine/Ops.lean keep, one lemma each (Keeps, Completes: Laws/Keeps.lean). -/

/- One declaration after another: side by side they would need more memory. -/
set_option Elab.async false

namespace Sys2Proof.Machine

theorem State.put_keeps {s₀ : State} {s : State} {r : Reg} {v : Nat} (h : Keeps s₀ s) :
    Keeps s₀ (State.put s r v) := by
  exact ⟨h.pending, h.out, h.fresh, h.rollback, h.mem, h.poison, fun r => rfSet_rising (h.regs r), h.staged⟩

theorem State.puti_keeps {s₀ : State} {s : State} {r : Reg} {v : Int} (h : Keeps s₀ s) :
    Keeps s₀ (State.puti s r v) := by
  unfold State.puti
  try dsimp only
  repeat' first
    | with_reducible exact h
    | with_reducible refine State.put_keeps ?_

theorem State.add_keeps {s₀ : State} {s : State} {r : Reg} {n : Nat} (h : Keeps s₀ s) :
    Keeps s₀ (State.add s r n) := by
  unfold State.add
  try dsimp only
  repeat' first
    | with_reducible exact h
    | with_reducible refine State.put_keeps ?_

theorem State.bump_keeps {s₀ : State} {s : State} {r : Reg} (h : Keeps s₀ s) :
    Keeps s₀ (State.bump s r) := by
  unfold State.bump
  try dsimp only
  repeat' first
    | with_reducible exact h
    | with_reducible refine State.add_keeps ?_

theorem State.putBit_keeps {s₀ : State} {s : State} {r : Reg} {b : Nat} {x : Bool} (h : Keeps s₀ s) :
    Keeps s₀ (State.putBit s r b x) := by
  unfold State.putBit
  try dsimp only
  repeat' first
    | with_reducible exact h
    | with_reducible refine State.put_keeps ?_

theorem State.setBit_keeps {s₀ : State} {s : State} {r : Reg} {b : Nat} (h : Keeps s₀ s) :
    Keeps s₀ (State.setBit s r b) := by
  unfold State.setBit
  try dsimp only
  repeat' first
    | with_reducible exact h
    | with_reducible refine State.putBit_keeps ?_

theorem State.clrBit_keeps {s₀ : State} {s : State} {r : Reg} {b : Nat} (h : Keeps s₀ s) :
    Keeps s₀ (State.clrBit s r b) := by
  unfold State.clrBit
  try dsimp only
  repeat' first
    | with_reducible exact h
    | with_reducible refine State.putBit_keeps ?_

theorem State.putBlob_keeps {s₀ : State} {s : State} {k : Nat} {v : List Byte} (h : Keeps s₀ s) :
    Keeps s₀ (State.putBlob s k v) := by
  unfold State.putBlob
  try dsimp only
  repeat' first
    | with_reducible exact h
    | (fail_if_no_progress with_reducible refine Keeps.mk_same ?_ rfl)

theorem State.emit_keeps {s₀ : State} {s : State} {o : Out} (h : Keeps s₀ s) :
    Keeps s₀ (State.emit s o) := by
  exact ⟨h.pending, h.out.trans (List.prefix_append _ _), h.fresh, h.rollback, h.mem, h.poison, h.regs, h.staged⟩

theorem State.drawn_keeps {s₀ : State} {s : State} (h : Keeps s₀ s) :
    Keeps s₀ (State.drawn s) := by
  exact ⟨h.pending, h.out, h.fresh.trans (Nat.le_succ _), h.rollback, h.mem, h.poison, h.regs, h.staged⟩

theorem State.modPort_keeps {s₀ : State} {s : State} {n : Port} {f : FibrePort → FibrePort} (h : Keeps s₀ s) :
    Keeps s₀ (State.modPort s n f) := by
  unfold State.modPort
  try dsimp only
  repeat' first
    | with_reducible exact h
    | (fail_if_no_progress with_reducible refine Keeps.mk_same ?_ rfl)

theorem State.modPipe_keeps {s₀ : State} {s : State} {n : Port} {f : PipePart → PipePart} (h : Keeps s₀ s) :
    Keeps s₀ (State.modPipe s n f) := by
  unfold State.modPipe
  try dsimp only
  repeat' first
    | with_reducible exact h
    | (fail_if_no_progress with_reducible refine Keeps.mk_same ?_ rfl)

theorem State.modRaman_keeps {s₀ : State} {s : State} {n : Port} {f : RamanPart → RamanPart} (h : Keeps s₀ s) :
    Keeps s₀ (State.modRaman s n f) := by
  unfold State.modRaman
  try dsimp only
  repeat' first
    | with_reducible exact h
    | (fail_if_no_progress with_reducible refine Keeps.mk_same ?_ rfl)

theorem State.modBril_keeps {s₀ : State} {s : State} {n : Port} {f : BrilPart → BrilPart} (h : Keeps s₀ s) :
    Keeps s₀ (State.modBril s n f) := by
  unfold State.modBril
  try dsimp only
  repeat' first
    | with_reducible exact h
    | (fail_if_no_progress with_reducible refine Keeps.mk_same ?_ rfl)

theorem State.modStall_keeps {s₀ : State} {s : State} {t : StallId} {f : Stall → Stall} (h : Keeps s₀ s) :
    Keeps s₀ (State.modStall s t f) := by
  unfold State.modStall
  try dsimp only
  repeat' first
    | with_reducible exact h
    | (fail_if_no_progress with_reducible refine Keeps.mk_same ?_ rfl)

theorem State.modPitch_keeps {s₀ : State} {s : State} {k : Fin 192} {f : PitchPart → PitchPart} (h : Keeps s₀ s) :
    Keeps s₀ (State.modPitch s k f) := by
  unfold State.modPitch
  try dsimp only
  repeat' first
    | with_reducible exact h
    | (fail_if_no_progress with_reducible refine Keeps.mk_same ?_ rfl)

theorem State.modProgram_keeps {s₀ : State} {s : State} {g : Fin 16} {f : ProgramPart → ProgramPart} (h : Keeps s₀ s) :
    Keeps s₀ (State.modProgram s g f) := by
  unfold State.modProgram
  try dsimp only
  repeat' first
    | with_reducible exact h
    | (fail_if_no_progress with_reducible refine Keeps.mk_same ?_ rfl)

theorem State.modRegion_keeps {s₀ : State} {s : State} {r : Fin 64} {f : RegionPart → RegionPart} (h : Keeps s₀ s) :
    Keeps s₀ (State.modRegion s r f) := by
  unfold State.modRegion
  try dsimp only
  repeat' first
    | with_reducible exact h
    | (fail_if_no_progress with_reducible refine Keeps.mk_same ?_ rfl)

theorem State.modStream_keeps {s₀ : State} {s : State} {k : Fin 256} {f : StreamPart → StreamPart} (h : Keeps s₀ s) :
    Keeps s₀ (State.modStream s k f) := by
  unfold State.modStream
  try dsimp only
  repeat' first
    | with_reducible exact h
    | (fail_if_no_progress with_reducible refine Keeps.mk_same ?_ rfl)

theorem State.modEth_keeps {s₀ : State} {s : State} {p : Fin 4} {f : EthPort → EthPort} (h : Keeps s₀ s) :
    Keeps s₀ (State.modEth s p f) := by
  unfold State.modEth
  try dsimp only
  repeat' first
    | with_reducible exact h
    | (fail_if_no_progress with_reducible refine Keeps.mk_same ?_ rfl)

theorem overAll_keeps {s₀ : State} {n : Nat} {s : State} {f : State → Fin n → State} (h : Keeps s₀ s) (hf : ∀ u i, Keeps s₀ u → Keeps s₀ (f u i)) :
    Keeps s₀ (overAll s f) := by
  unfold overAll
  try dsimp only
  repeat' first
    | with_reducible exact h
    | with_reducible refine hf _ _ ?_
    | with_reducible refine Keeps.foldl ?_ ?_
    | (intro u a b; try beta_reduce)
    | with_reducible assumption

theorem State.modJournal_keeps {s₀ : State} {s : State} {j : Fin 18} {f : JournalPart → JournalPart} (h : Keeps s₀ s) :
    Keeps s₀ (State.modJournal s j f) := by
  unfold State.modJournal
  try dsimp only
  repeat' first
    | with_reducible exact h
    | (fail_if_no_progress with_reducible refine Keeps.mk_same ?_ rfl)

theorem State.modCal_keeps {s₀ : State} {s : State} {k : Nat} {f : CalRun → CalRun} (h : Keeps s₀ s) :
    Keeps s₀ (State.modCal s k f) := by
  unfold State.modCal
  try dsimp only
  repeat' first
    | with_reducible exact h
    | (fail_if_no_progress with_reducible refine Keeps.mk_same ?_ rfl)

theorem State.modUnit_keeps {s₀ : State} {s : State} {u : Fin 8} {f : MeasurePart → MeasurePart} (h : Keeps s₀ s) :
    Keeps s₀ (State.modUnit s u f) := by
  unfold State.modUnit
  try dsimp only
  repeat' first
    | with_reducible exact h
    | (fail_if_no_progress with_reducible refine Keeps.mk_same ?_ rfl)

theorem State.discardEvents_keeps {s₀ : State} {s : State} (h : Keeps s₀ s) :
    Keeps s₀ (State.discardEvents s) := by
  unfold State.discardEvents
  try dsimp only
  repeat' first
    | with_reducible exact h
    | with_reducible refine overAll_keeps ?_ ?_
    | with_reducible refine State.setBit_keeps ?_
    | with_reducible refine State.modUnit_keeps ?_
    | (intro u a b; try beta_reduce)
    | with_reducible assumption

theorem State.peerReset_keeps {s₀ : State} {s : State} {xs : List Nat} (h : Keeps s₀ s) :
    Keeps s₀ (State.peerReset s xs) := by
  unfold State.peerReset
  try dsimp only
  repeat' first
    | with_reducible exact h
    | with_reducible refine State.setBit_keeps ?_
    | with_reducible refine State.add_keeps ?_
    | with_reducible refine State.drawn_keeps ?_
    | with_reducible refine Keeps.foldl ?_ ?_
    | (intro u a b; try beta_reduce)
    | with_reducible assumption
    | (fail_if_no_progress with_reducible refine Keeps.mk_draw ?_ rfl)

theorem State.setPoison_keeps {s₀ : State} {s : State} {a : Nat} {x : Bool} (h : Keeps s₀ s) :
    Keeps s₀ (State.setPoison s a x) := by
  refine ⟨h.pending, h.out, h.fresh, h.rollback, h.mem, fun r => ?_, h.regs, h.staged⟩
  unfold State.setPoison
  dsimp only
  split
  · exact insertSorted_rising (h.poison r)
  · exact rising_filter (h.poison r)

theorem State.dropFlips_keeps {s₀ : State} {s : State} {a n : Nat} (h : Keeps s₀ s) :
    Keeps s₀ (State.dropFlips s a n) := by
  unfold State.dropFlips
  try dsimp only
  repeat' first
    | with_reducible exact h
    | (fail_if_no_progress with_reducible refine Keeps.mk_same ?_ rfl)

theorem State.clearWords_keeps {s₀ : State} {s : State} {a : Nat} {n : Nat} (h : Keeps s₀ s) :
    Keeps s₀ (State.clearWords s a n) :=
  State.dropFlips_keeps
    ⟨h.pending, h.out, h.fresh, h.rollback, fun r => Memory.clear_wf (h.mem r), fun r => rising_filter (h.poison r), h.regs, h.staged⟩

theorem State.placeWords_keeps {s₀ : State} {s : State} {a : Nat} {l : List Byte} (h : Keeps s₀ s) :
    Keeps s₀ (State.placeWords s a l) :=
  State.dropFlips_keeps
    ⟨h.pending, h.out, h.fresh, h.rollback, fun r => Memory.place_wf (h.mem r), fun r => rising_filter (h.poison r), h.regs, h.staged⟩

theorem State.countSingle_keeps {s₀ : State} {s : State} {a : Nat} (h : Keeps s₀ s) :
    Keeps s₀ (State.countSingle s a) := by
  unfold State.countSingle
  try dsimp only
  repeat' first
    | with_reducible exact h
    | with_reducible refine State.bump_keeps ?_
    | (fail_if_no_progress with_reducible refine Keeps.mk_same ?_ rfl)
    | split

theorem State.countUncorr_keeps {s₀ : State} {s : State} {a : Nat} {syn : BitVec 9} (h : Keeps s₀ s) :
    Keeps s₀ (State.countUncorr s a syn) := by
  unfold State.countUncorr
  try dsimp only
  repeat' first
    | with_reducible exact h
    | with_reducible refine State.bump_keeps ?_
    | with_reducible refine State.put_keeps ?_
    | with_reducible refine State.setBit_keeps ?_
    | with_reducible refine Keeps.ite ?_ ?_

/-- Putting a word back where it is held keeps what every operation keeps. -/
def Holder.Kept (x : Holder) : Prop := ∀ (s₀ u : State) (d : BitVec 128) (b : Bool), Keeps s₀ u → Keeps s₀ (x.put d b u)

/-- A word met keeps what the way it is put keeps. -/
theorem State.meet_keeps {s₀ : State} {s : State} {a : Nat} {x : Holder} (h : Keeps s₀ s)
    (p : x.Kept) : Keeps s₀ (State.meet s a x) := by
  unfold State.meet
  split
  · exact h
  · split
    · exact p _ _ _ _ (Keeps.mk_same h rfl)
    · exact State.countSingle_keeps (p _ _ _ _ (Keeps.mk_same h rfl))
    · exact State.countUncorr_keeps (p _ _ _ _ (Keeps.mk_same h rfl))

theorem State.readAt_keeps {s₀ : State} {s : State} {a : Nat} {x : Holder} (h : Keeps s₀ s)
    (p : x.Kept) : Keeps s₀ (State.readAt s a x) := by
  unfold State.readAt
  exact State.meet_keeps (Keeps.ite (State.bump_keeps h) h) p

theorem plainHolder_kept {s : State} {a : Nat} : (plainHolder s a).Kept := fun _ _ _ _ h => State.setPoison_keeps (h.writeBytes _ _)

theorem State.meetWords_keeps {s₀ : State} {s : State} {a : Nat} {n : Nat} (h : Keeps s₀ s) :
    Keeps s₀ (State.meetWords s a n) :=
  Keeps.foldl h (fun _ _ k => State.meet_keeps k plainHolder_kept)

theorem State.seePoison_keeps {s₀ : State} {s : State} {a n : Nat} (h : Keeps s₀ s) :
    Keeps s₀ (State.seePoison s a n) := by
  unfold State.seePoison
  try dsimp only
  repeat' first
    | with_reducible exact h
    | with_reducible refine State.add_keeps ?_
    | with_reducible refine State.meetWords_keeps ?_
    | with_reducible refine Keeps.ite ?_ ?_

theorem State.copyWords_keeps {s₀ : State} {s : State} {a : Nat} {b : Nat} {n : Nat} (h : Keeps s₀ s) :
    Keeps s₀ (State.copyWords s a b n) := by
  have k := State.seePoison_keeps (a := a) (n := n) h
  exact State.dropFlips_keeps
    ⟨k.pending, k.out, k.fresh, k.rollback, fun r => Memory.copy_wf (k.mem r), fun r => poisonCopy_rising (k.poison r), k.regs, k.staged⟩

theorem State.store_keeps {s₀ : State} {s : State} {a : Nat} {b : List Byte} (h : Keeps s₀ s) :
    Keeps s₀ (State.store s a b) := by
  unfold State.store
  dsimp only
  split
  · exact State.dropFlips_keeps (State.setPoison_keeps (h.writeBytes a b))
  · exact (State.seePoison_keeps h).writeBytes a b

theorem State.storeWords_keeps {s₀ : State} {s : State} {z1 : Nat} {z2 : List (List Byte × Bool)} (h : Keeps s₀ s) :
    Keeps s₀ (State.storeWords s z1 z2) := by
  induction z2 generalizing s z1 with
  | nil => exact h
  | cons e r ih => exact ih (State.setPoison_keeps (State.store_keeps h))

end Sys2Proof.Machine
end

