-- ==== Sys2Proof/Laws/Links.lean ====
section
/-! SUPPORT. What the operations of Machine/Links.lean keep, one lemma each (Keeps, Completes: Laws/Keeps.lean). -/

/- One declaration after another: side by side they would need more memory. -/
set_option Elab.async false

namespace Sys2Proof.Machine

theorem State.modLink_keeps {s₀ : State} {s : State} {k : Fin 4} {f : LinkPart → LinkPart} (h : Keeps s₀ s) :
    Keeps s₀ (State.modLink s k f) := by
  unfold State.modLink
  try dsimp only
  repeat' first
    | with_reducible exact h
    | (fail_if_no_progress with_reducible refine Keeps.mk_same ?_ rfl)

theorem State.putFrame_keeps {s₀ : State} {s : State} {k : Fin 4} {f : AggonFrame} (h : Keeps s₀ s) :
    Keeps s₀ (State.putFrame s k f) := by
  unfold State.putFrame
  try dsimp only
  repeat' first
    | with_reducible exact h
    | with_reducible refine State.modLink_keeps ?_
    | with_reducible refine State.emit_keeps ?_

theorem State.sendNow_keeps {s₀ : State} {s : State} {k : Fin 4} {f : AggonFrame} (h : Keeps s₀ s) :
    Keeps s₀ (State.sendNow s k f) := by
  unfold State.sendNow
  try dsimp only
  repeat' first
    | with_reducible exact h
    | with_reducible refine State.modLink_keeps ?_
    | with_reducible refine State.putFrame_keeps ?_
    | with_reducible refine Keeps.ite ?_ ?_
    | (fail_if_no_progress with_reducible refine Keeps.mk_same ?_ rfl)

theorem State.pump_keeps {s₀ : State} {n : Nat} {s : State} {k : Fin 4} (h : Keeps s₀ s) : Keeps s₀ (State.pump n s k) := by
  induction n generalizing s with
  | zero => exact h
  | succ n ih =>
    unfold State.pump
    repeat' first
      | with_reducible exact h
      | with_reducible refine ih ?_
      | with_reducible refine State.sendNow_keeps ?_
      | split

theorem State.pumpLink_keeps {s₀ : State} {s : State} {k : Fin 4} (h : Keeps s₀ s) :
    Keeps s₀ (State.pumpLink s k) := by
  unfold State.pumpLink
  try dsimp only
  repeat' first
    | with_reducible exact h
    | with_reducible refine State.pump_keeps ?_
    | with_reducible refine Keeps.ite ?_ ?_

theorem State.sendFrame_keeps {s₀ : State} {s : State} {k : Fin 4} {f : AggonFrame} (h : Keeps s₀ s) :
    Keeps s₀ (State.sendFrame s k f) := by
  unfold State.sendFrame
  try dsimp only
  repeat' first
    | with_reducible exact h
    | with_reducible refine State.modLink_keeps ?_
    | with_reducible refine State.pumpLink_keeps ?_
    | with_reducible refine Keeps.ite ?_ ?_
    | (fail_if_no_progress with_reducible refine Keeps.mk_same ?_ rfl)

theorem State.sendLink_keeps {s₀ : State} {s : State} {k : Fin 4} {nak : Bool} (h : Keeps s₀ s) :
    Keeps s₀ (State.sendLink s k nak) := by
  unfold State.sendLink
  try dsimp only
  repeat' first
    | with_reducible exact h
    | with_reducible refine State.sendFrame_keeps ?_

theorem State.discardFrame_keeps {s₀ : State} {s : State} {k : Fin 4} (h : Keeps s₀ s) :
    Keeps s₀ (State.discardFrame s k) := by
  unfold State.discardFrame
  try dsimp only
  repeat' first
    | with_reducible exact h
    | with_reducible refine State.modLink_keeps ?_
    | with_reducible refine State.sendLink_keeps ?_
    | (fail_if_no_progress with_reducible refine Keeps.mk_same ?_ rfl)

theorem State.acceptFrame_keeps {s₀ : State} {s : State} {a : Arrival} {vc : Nat} (h : Keeps s₀ s) :
    Keeps s₀ (State.acceptFrame s a vc) := by
  unfold State.acceptFrame
  try dsimp only
  repeat' first
    | with_reducible exact h
    | with_reducible refine State.modLink_keeps ?_
    | with_reducible refine State.add_keeps ?_
    | with_reducible refine State.pumpLink_keeps ?_
    | with_reducible refine Keeps.ite ?_ ?_
    | (fail_if_no_progress with_reducible refine Keeps.mk_same ?_ rfl)

theorem State.receive_keeps {s₀ : State} {s : State} {a : Arrival} {vc : Nat} {act : State → State} (h : Keeps s₀ s)
    (hf : ∀ u, Keeps s₀ u → Keeps s₀ (act u)) : Keeps s₀ (State.receive s a vc act) := by
  unfold State.receive
  try dsimp only
  repeat' first
    | with_reducible exact h
    | with_reducible refine hf _ ?_
    | with_reducible refine State.acceptFrame_keeps ?_
    | with_reducible refine State.discardFrame_keeps ?_
    | with_reducible refine Keeps.ite ?_ ?_

theorem ifClean_keeps {s₀ : State} {a : Arrival} {act : State → State} {s : State} (h : Keeps s₀ s)
    (hf : ∀ u, Keeps s₀ u → Keeps s₀ (act u)) : Keeps s₀ (ifClean a act s) := by
  unfold ifClean
  try dsimp only
  repeat' first
    | with_reducible exact h
    | with_reducible refine hf _ ?_
    | with_reducible refine Keeps.ite ?_ ?_

theorem State.flood_keeps {s₀ : State} {s : State} {except : Option (Fin 4)} {f : AggonFrame} (h : Keeps s₀ s) :
    Keeps s₀ (State.flood s except f) := by
  unfold State.flood
  try dsimp only
  repeat' first
    | with_reducible exact h
    | with_reducible refine overAll_keeps ?_ ?_
    | with_reducible refine State.sendFrame_keeps ?_
    | with_reducible refine Keeps.ite ?_ ?_
    | (intro u a b; try beta_reduce)
    | with_reducible assumption

theorem State.sendMirror_keeps {s₀ : State} {s : State} {body : AggonBody} (h : Keeps s₀ s) :
    Keeps s₀ (State.sendMirror s body) := by
  unfold State.sendMirror
  try dsimp only
  repeat' first
    | with_reducible exact h
    | with_reducible refine State.sendFrame_keeps ?_
    | (fail_if_no_progress with_reducible refine Keeps.mk_same ?_ rfl)
    | split

theorem State.sendCommit_keeps {s₀ : State} {s : State} {m : MirrorCommit} (h : Keeps s₀ s) :
    Keeps s₀ (State.sendCommit s m) := by
  unfold State.sendCommit
  try dsimp only
  repeat' first
    | with_reducible exact h
    | with_reducible refine State.sendMirror_keeps ?_
    | with_reducible refine State.commit_keeps ?_
    | with_reducible refine Keeps.foldl ?_ ?_
    | (intro u a b; try beta_reduce)
    | with_reducible assumption

theorem State.flushOutbox_keeps {s₀ : State} {s : State} (h : Keeps s₀ s) :
    Keeps s₀ (State.flushOutbox s) := by
  unfold State.flushOutbox
  try dsimp only
  repeat' first
    | with_reducible exact h
    | with_reducible refine State.sendMirror_keeps ?_
    | with_reducible refine Keeps.foldl ?_ ?_
    | (intro u a b; try beta_reduce)
    | with_reducible assumption
    | (fail_if_no_progress with_reducible refine Keeps.mk_same ?_ rfl)

end Sys2Proof.Machine
end

