-- ==== Sys2Proof/Laws/Book.lean ====
section
/-! SUPPORT. What the operations of Machine/Book.lean keep, one lemma each (Keeps, Completes: Laws/Keeps.lean). -/

/- One declaration after another: side by side they would need more memory. -/
set_option Elab.async false

namespace Sys2Proof.Machine

theorem State.overtake_keeps {s₀ : State} {s : State} {gone : Item → Bool} (h : Keeps s₀ s) :
    Keeps s₀ (State.overtake s gone) := by
  unfold State.overtake
  try dsimp only
  repeat' first
    | with_reducible exact h
    | with_reducible refine overAll_keeps ?_ ?_
    | with_reducible refine State.modStream_keeps ?_
    | with_reducible refine State.add_keeps ?_
    | (intro u a b; try beta_reduce)
    | with_reducible assumption
    | with_reducible refine Keeps.ite ?_ ?_

theorem State.refresh_keeps {s₀ : State} {s : State} {lies : Item → Bool} {now : Fin 256 → Item} (h : Keeps s₀ s) :
    Keeps s₀ (State.refresh s lies now) := by
  unfold State.refresh
  try dsimp only
  repeat' first
    | with_reducible exact h
    | with_reducible refine overAll_keeps ?_ ?_
    | with_reducible refine State.modStream_keeps ?_
    | (intro u a b; try beta_reduce)
    | with_reducible assumption
    | with_reducible refine Keeps.ite ?_ ?_
    | (fail_if_no_progress with_reducible refine Keeps.mk_same ?_ rfl)

theorem State.flushCells_keeps {s₀ : State} {s : State} (h : Keeps s₀ s) :
    Keeps s₀ (State.flushCells s) := by
  unfold State.flushCells
  try dsimp only
  repeat' first
    | with_reducible exact h
    | with_reducible refine Keeps.ite ?_ ?_
    | (fail_if_no_progress with_reducible refine Keeps.mk_same ?_ rfl)

theorem State.dropBookFlips_keeps {s₀ : State} {s : State} {pos : Nat} (h : Keeps s₀ s) :
    Keeps s₀ (State.dropBookFlips s pos) := by
  unfold State.dropBookFlips
  try dsimp only
  repeat' first
    | with_reducible exact h
    | with_reducible refine State.dropFlips_keeps ?_

theorem State.logRaw_keeps {s₀ : State} {s : State} {e : Ev} (h : Keeps s₀ s) :
    Keeps s₀ (State.logRaw s e) := by
  unfold State.logRaw
  try dsimp only
  repeat' first
    | with_reducible exact h
    | with_reducible refine State.bump_keeps ?_
    | with_reducible refine State.dropBookFlips_keeps ?_
    | with_reducible refine State.overtake_keeps ?_
    | with_reducible refine State.put_keeps ?_
    | with_reducible refine State.flushCells_keeps ?_
    | with_reducible refine State.setBit_keeps ?_
    | with_reducible refine Keeps.ite ?_ ?_
    | (fail_if_no_progress with_reducible refine Keeps.mk_same ?_ rfl)
    | split

theorem State.takeStaged_keeps {s₀ : State} {s : State} {idxs : List Nat} (h : Keeps s₀ s) :
    Keeps s₀ (State.takeStaged s idxs) := by
  exact ⟨h.pending, h.out, h.fresh, h.rollback, h.mem, h.poison,
    fun r => rising_fold (h.regs r) (fun _ _ k => rfSet_rising k), fun r => rising_filter_fst (h.staged r)⟩

theorem State.mirrorCommit_keeps {s₀ : State} {s : State} {idx : Nat} (h : Keeps s₀ s) :
    Keeps s₀ (State.mirrorCommit s idx) := by
  unfold State.mirrorCommit
  try dsimp only
  repeat' first
    | with_reducible exact h
    | with_reducible refine State.sendCommit_keeps ?_
    | with_reducible refine Keeps.ite ?_ ?_

theorem State.commitRaw_keeps {s₀ : State} {s : State} {idx : Nat} (h : Keeps s₀ s) :
    Keeps s₀ (State.commitRaw s idx) := by
  unfold State.commitRaw
  try dsimp only
  repeat' first
    | with_reducible exact h
    | with_reducible refine State.setBit_keeps ?_
    | with_reducible refine State.takeStaged_keeps ?_
    | with_reducible refine State.mirrorCommit_keeps ?_
    | with_reducible refine State.logRaw_keeps ?_
    | (fail_if_no_progress with_reducible refine Keeps.mk_same ?_ rfl)

theorem State.nextRct_keeps {s₀ : State} {s : State} {p : Nat} (h : Keeps s₀ s) :
    Keeps s₀ (State.nextRct s p) := by
  unfold State.nextRct
  try dsimp only
  repeat' first
    | with_reducible exact h
    | with_reducible refine State.modEth_keeps ?_
    | with_reducible refine Keeps.ite ?_ ?_
    | (fail_if_no_progress with_reducible refine Keeps.mk_same ?_ rfl)

theorem State.sentOn_keeps {s₀ : State} {s : State} {qs : List (Fin 4)} {o : Out} (h : Keeps s₀ s) :
    Keeps s₀ (State.sentOn s qs o) := by
  unfold State.sentOn
  try dsimp only
  repeat' first
    | with_reducible exact h
    | with_reducible refine State.bump_keeps ?_
    | with_reducible refine State.emit_keeps ?_
    | with_reducible refine Keeps.foldl ?_ ?_
    | (intro u a b; try beta_reduce)
    | with_reducible assumption
    | with_reducible refine Keeps.ite ?_ ?_

theorem State.leave_keeps {s₀ : State} {s : State} {qs : List (Fin 4)} {o : Out} (h : Keeps s₀ s) :
    Keeps s₀ (State.leave s qs o) := by
  unfold State.leave
  try dsimp only
  repeat' first
    | with_reducible exact h
    | with_reducible refine State.sentOn_keeps ?_
    | with_reducible refine Keeps.ite ?_ ?_
    | (fail_if_no_progress with_reducible refine Keeps.mk_same ?_ rfl)

theorem State.sendOn_keeps {s₀ : State} {s : State} {p : Nat} {frame : Option (BitVec 16) → Out} (h : Keeps s₀ s) :
    Keeps s₀ (State.sendOn s p frame) := by
  unfold State.sendOn
  try dsimp only
  repeat' first
    | with_reducible exact h
    | with_reducible refine State.leave_keeps ?_
    | with_reducible refine State.nextRct_keeps ?_

theorem State.netFlush_keeps {s₀ : State} {s : State} (h : Keeps s₀ s) :
    Keeps s₀ (State.netFlush s) := by
  unfold State.netFlush
  try dsimp only
  repeat' first
    | with_reducible exact h
    | with_reducible refine State.sentOn_keeps ?_
    | with_reducible refine Keeps.foldl ?_ ?_
    | (intro u a b; try beta_reduce)
    | with_reducible assumption
    | (fail_if_no_progress with_reducible refine Keeps.mk_same ?_ rfl)

theorem State.dropHeld_keeps {s₀ : State} {s : State} {p : Fin 4} (h : Keeps s₀ s) :
    Keeps s₀ (State.dropHeld s p) := by
  unfold State.dropHeld
  try dsimp only
  repeat' first
    | with_reducible exact h
    | (fail_if_no_progress with_reducible refine Keeps.mk_same ?_ rfl)

theorem State.sendControl_keeps {s₀ : State} {s : State} {p : Path} {dgram : List Byte} (h : Keeps s₀ s) :
    Keeps s₀ (State.sendControl s p dgram) := by
  unfold State.sendControl
  try dsimp only
  repeat' first
    | with_reducible exact h
    | with_reducible refine State.sendOn_keeps ?_
    | (fail_if_no_progress with_reducible refine Keeps.mk_same ?_ rfl)
    | split

theorem State.tollSums_keeps {s₀ : State} {s : State} (h : Keeps s₀ s) :
    Keeps s₀ (State.tollSums s) := by
  unfold State.tollSums
  try dsimp only
  repeat' first
    | with_reducible exact h
    | with_reducible refine State.put_keeps ?_
    | with_reducible refine Keeps.foldl ?_ ?_
    | (intro u a b; try beta_reduce)
    | with_reducible assumption

theorem State.closeStream_keeps {s₀ : State} {s : State} {k : Fin 256} (h : Keeps s₀ s) :
    Keeps s₀ (State.closeStream s k) := by
  unfold State.closeStream
  try dsimp only
  repeat' first
    | with_reducible exact h
    | with_reducible refine State.sendControl_keeps ?_
    | with_reducible refine State.modStream_keeps ?_
    | with_reducible refine State.put_keeps ?_
    | with_reducible refine State.tollSums_keeps ?_
    | with_reducible refine State.setBit_keeps ?_
    | with_reducible refine Keeps.foldl ?_ ?_
    | (intro u a b; try beta_reduce)
    | with_reducible assumption
    | with_reducible refine Keeps.ite ?_ ?_
    | (fail_if_no_progress with_reducible refine Keeps.mk_same ?_ rfl)

theorem State.settleBucket_keeps {s₀ : State} {s : State} {k : Fin 256} (h : Keeps s₀ s) :
    Keeps s₀ (State.settleBucket s k) := by
  unfold State.settleBucket
  try dsimp only
  repeat' first
    | with_reducible exact h
    | with_reducible refine State.modStream_keeps ?_
    | (fail_if_no_progress with_reducible refine Keeps.mk_same ?_ rfl)
    | split

theorem State.streamBoundary_keeps {s₀ : State} {s : State} {k : Fin 256} (h : Keeps s₀ s) :
    Keeps s₀ (State.streamBoundary s k) := by
  unfold State.streamBoundary
  try dsimp only
  repeat' first
    | with_reducible exact h
    | with_reducible refine State.settleBucket_keeps ?_
    | with_reducible refine State.commitRaw_keeps ?_
    | with_reducible refine State.closeStream_keeps ?_
    | with_reducible refine State.tollSums_keeps ?_
    | with_reducible refine Keeps.ite ?_ ?_

theorem State.closeBale_keeps {s₀ : State} {s : State} {k : Fin 256} (h : Keeps s₀ s) :
    Keeps s₀ (State.closeBale s k) := by
  unfold State.closeBale
  try dsimp only
  repeat' first
    | with_reducible exact h
    | with_reducible refine State.streamBoundary_keeps ?_
    | with_reducible refine State.bump_keeps ?_
    | with_reducible refine State.modStream_keeps ?_
    | (fail_if_no_progress with_reducible refine Keeps.mk_same ?_ rfl)
    | split

theorem feed_keeps {s₀ : State} {z0 : Nat} {z1 : State} {z2 : Fin 256} {z3 : Item} {z4 : Nat} (h : Keeps s₀ z1) :
    Keeps s₀ (feed z0 z1 z2 z3 z4) := by
  induction z0 generalizing z1 z2 z3 z4 with
  | zero => exact h
  | succ f ih =>
    unfold feed
    try dsimp only
    repeat' first
      | with_reducible exact h
      | with_reducible refine ih ?_
      | with_reducible refine State.closeBale_keeps ?_
      | with_reducible refine State.modStream_keeps ?_
      | with_reducible exact h
      | with_reducible refine Completes.next ?_
      | with_reducible refine Keeps.ite ?_ ?_

theorem State.appendItem_keeps {s₀ : State} {s : State} {k : Fin 256} {it : Item} (h : Keeps s₀ s) :
    Keeps s₀ (State.appendItem s k it) := by
  unfold State.appendItem
  try dsimp only
  repeat' first
    | with_reducible exact h
    | with_reducible refine feed_keeps ?_

theorem State.takeItem_keeps {s₀ : State} {s : State} {k : Fin 256} {it : Item} (h : Keeps s₀ s) :
    Keeps s₀ (State.takeItem s k it) := by
  unfold State.takeItem
  try dsimp only
  repeat' first
    | with_reducible exact h
    | with_reducible refine State.modStream_keeps ?_
    | (fail_if_no_progress with_reducible refine Keeps.mk_same ?_ rfl)

theorem State.toStreams_keeps {s₀ : State} {s : State} {kind : Nat} {takes : Fin 256 → Bool} {it : Fin 256 → Item} (h : Keeps s₀ s) :
    Keeps s₀ (State.toStreams s kind takes it) := by
  unfold State.toStreams
  try dsimp only
  repeat' first
    | with_reducible exact h
    | with_reducible refine overAll_keeps ?_ ?_
    | with_reducible refine State.takeItem_keeps ?_
    | (intro u a b; try beta_reduce)
    | with_reducible assumption
    | with_reducible refine Keeps.ite ?_ ?_

theorem State.readBook_keeps {s₀ : State} {s : State} (h : Keeps s₀ s) :
    Keeps s₀ (State.readBook s) := by
  unfold State.readBook
  try dsimp only
  repeat' first
    | with_reducible exact h
    | with_reducible refine State.toStreams_keeps ?_
    | with_reducible refine Keeps.foldl ?_ ?_
    | (intro u a b; try beta_reduce)
    | with_reducible assumption
    | (fail_if_no_progress with_reducible refine Keeps.mk_same ?_ rfl)

theorem readOn_keeps {s₀ : State} {f : Nat} {s : State} {k : Fin 256} {n : Nat} (h : Keeps s₀ s) : Keeps s₀ (readOn f s k n) := by
  induction f generalizing s n with
  | zero => exact h
  | succ f ih =>
    unfold readOn
    try dsimp only
    repeat' first
      | with_reducible exact h
      | with_reducible refine ih ?_
      | with_reducible refine State.appendItem_keeps ?_
      | with_reducible refine State.modStream_keeps ?_
      | with_reducible refine State.add_keeps ?_
      | with_reducible refine Keeps.ite ?_ ?_
      | split

theorem bookHolder_kept {s : State} {a : Nat} {x : Holder} (e : bookHolder s a = some x) : x.Kept := by
  unfold bookHolder at e
  dsimp only at e
  split at e
  · cases e
  · obtain ⟨_, _, rfl⟩ := Option.map_eq_some_iff.mp e
    intro _ _ _ _ h
    dsimp only
    exact State.refresh_keeps (by with_reducible exact Keeps.mk_same h rfl)

theorem State.engineRead_keeps {s₀ : State} {s : State} (h : Keeps s₀ s) :
    Keeps s₀ (State.engineRead s) := by
  unfold State.engineRead
  try dsimp only
  repeat' first
    | with_reducible exact h
    | with_reducible refine State.drawn_keeps ?_
    | with_reducible refine State.readBook_keeps ?_
    | with_reducible refine readOn_keeps ?_
    | (fail_if_no_progress with_reducible refine Keeps.mk_same ?_ rfl)
    | (fail_if_no_progress with_reducible refine Keeps.mk_draw ?_ rfl)
    | split

theorem State.settleBook_keeps {s₀ : State} {s : State} (h : Keeps s₀ s) :
    Keeps s₀ (State.settleBook s) := by
  unfold State.settleBook
  try dsimp only
  repeat' first
    | with_reducible exact h
    | with_reducible refine State.commitRaw_keeps ?_
    | with_reducible refine Keeps.ite ?_ ?_

theorem State.log_keeps {s₀ : State} {s : State} {e : Ev} (h : Keeps s₀ s) :
    Keeps s₀ (State.log s e) := by
  unfold State.log
  try dsimp only
  repeat' first
    | with_reducible exact h
    | with_reducible refine State.readBook_keeps ?_
    | with_reducible refine State.settleBook_keeps ?_
    | with_reducible refine State.logRaw_keeps ?_

theorem State.logFlag_keeps {s₀ : State} {s : State} {r : Reg} {b : Nat} {x : Bool} {sub : Nat} {inst : optParam Nat 255} {fault : optParam Bool false} (h : Keeps s₀ s) :
    Keeps s₀ (State.logFlag s r b x sub inst fault) := by
  unfold State.logFlag
  try dsimp only
  repeat' first
    | with_reducible exact h
    | with_reducible refine State.putBit_keeps ?_
    | with_reducible refine State.log_keeps ?_
    | with_reducible refine Keeps.ite ?_ ?_

theorem State.logEvent_keeps {s₀ : State} {s : State} {r : Reg} {b : Nat} {sub : Nat} (h : Keeps s₀ s) :
    Keeps s₀ (State.logEvent s r b sub) := by
  unfold State.logEvent
  try dsimp only
  repeat' first
    | with_reducible exact h
    | with_reducible refine State.setBit_keeps ?_
    | with_reducible refine State.log_keeps ?_
    | with_reducible refine Keeps.ite ?_ ?_

theorem summaryEntry_keeps {s₀ : State} {s : State} {k : SummaryKey} {count : Nat} {epoch : Nat} (h : Keeps s₀ s) :
    Keeps s₀ (summaryEntry s k count epoch) := by
  unfold summaryEntry
  try dsimp only
  repeat' first
    | with_reducible exact h
    | with_reducible refine State.log_keeps ?_

theorem setSummary_keeps {s₀ : State} {s : State} {k : SummaryKey} {r : Option SummaryRec} (h : Keeps s₀ s) :
    Keeps s₀ (setSummary s k r) := by
  unfold setSummary
  try dsimp only
  repeat' first
    | with_reducible exact h
    | (fail_if_no_progress with_reducible refine Keeps.mk_same ?_ rfl)

theorem State.summary_keeps {s₀ : State} {s : State} {k : SummaryKey} (h : Keeps s₀ s) :
    Keeps s₀ (State.summary s k) := by
  unfold State.summary
  try dsimp only
  repeat' first
    | with_reducible exact h
    | with_reducible refine setSummary_keeps ?_
    | with_reducible refine summaryEntry_keeps ?_
    | split

theorem State.commit_keeps {s₀ : State} {s : State} {idx : Nat} (h : Keeps s₀ s) :
    Keeps s₀ (State.commit s idx) := by
  unfold State.commit
  try dsimp only
  repeat' first
    | with_reducible exact h
    | with_reducible refine State.readBook_keeps ?_
    | with_reducible refine State.settleBook_keeps ?_
    | with_reducible refine State.commitRaw_keeps ?_

theorem State.commitIf_keeps {s₀ : State} {s : State} {idx : Nat} (h : Keeps s₀ s) :
    Keeps s₀ (State.commitIf s idx) := by
  unfold State.commitIf
  try dsimp only
  repeat' first
    | with_reducible exact h
    | with_reducible refine State.commit_keeps ?_
    | with_reducible refine Keeps.ite ?_ ?_

end Sys2Proof.Machine
end

