-- ==== Sys2Proof/Laws/Source.lean ====
section
/-! SUPPORT. What the operations of Machine/Source.lean keep, one lemma each (Keeps, Completes: Laws/Keeps.lean). -/

/- One declaration after another: side by side they would need more memory. -/
set_option Elab.async false

namespace Sys2Proof.Machine

theorem State.putSource_keeps {s₀ : State} {s : State} {r : SourceRec} (h : Keeps s₀ s) :
    Keeps s₀ (State.putSource s r) := by
  unfold State.putSource
  try dsimp only
  repeat' first
    | with_reducible exact h
    | (fail_if_no_progress with_reducible refine Keeps.mk_same ?_ rfl)

theorem State.watch_keeps {s₀ : State} {s : State} {x : Source} {detail : Nat} (h : Keeps s₀ s) :
    Keeps s₀ (State.watch s x detail) := by
  unfold State.watch
  try dsimp only
  repeat' first
    | with_reducible exact h
    | with_reducible refine State.putSource_keeps ?_
    | with_reducible refine State.bump_keeps ?_
    | with_reducible refine State.log_keeps ?_
    | with_reducible refine Keeps.ite ?_ ?_
    | (fail_if_no_progress with_reducible refine Keeps.mk_same ?_ rfl)

theorem State.modSession_keeps {s₀ : State} {s : State} {id : BitVec 32} {f : Session → Session} (h : Keeps s₀ s) :
    Keeps s₀ (State.modSession s id f) := by
  unfold State.modSession
  try dsimp only
  repeat' first
    | with_reducible exact h
    | (fail_if_no_progress with_reducible refine Keeps.mk_same ?_ rfl)

theorem State.violate_keeps {s₀ : State} {s : State} {sub : Nat} {p : Path} {ses : Option (BitVec 32)} {code : Nat} (h : Keeps s₀ s) :
    Keeps s₀ (State.violate s sub p ses code) := by
  unfold State.violate
  try dsimp only
  repeat' first
    | with_reducible exact h
    | with_reducible refine State.bump_keeps ?_
    | with_reducible refine State.modSession_keeps ?_
    | with_reducible refine State.log_keeps ?_
    | with_reducible refine State.watch_keeps ?_
    | split

theorem State.serve_keeps {s₀ : State} {s : State} {l : List Source} (h : Keeps s₀ s) :
    Keeps s₀ (State.serve s l) := by
  unfold State.serve
  try dsimp only
  repeat' first
    | with_reducible exact h
    | with_reducible refine State.putSource_keeps ?_
    | with_reducible refine Keeps.ite ?_ ?_
    | with_reducible refine Keeps.foldl ?_ ?_
    | (intro u a b; try beta_reduce)
    | with_reducible assumption

theorem State.takeUp_keeps {s₀ : State} {s : State} {p : Path} {ses : BitVec 32} (h : Keeps s₀ s) :
    Keeps s₀ (State.takeUp s p ses) := by
  unfold State.takeUp
  try dsimp only
  repeat' first
    | with_reducible exact h
    | with_reducible refine State.serve_keeps ?_
    | with_reducible refine State.bump_keeps ?_
    | with_reducible refine Keeps.ite ?_ ?_
    | (fail_if_no_progress with_reducible refine Keeps.mk_same ?_ rfl)

theorem execRateLimitEnd_keeps {s₀ : State} {x : Source} {s : State} (h : Keeps s₀ s) :
    Completes s₀ (execRateLimitEnd x s) := by
  unfold execRateLimitEnd
  try dsimp only
  repeat' first
    | with_reducible exact h
    | with_reducible refine State.putSource_keeps ?_
    | with_reducible refine Completes.next ?_
    | with_reducible refine Keeps.ite ?_ ?_

theorem State.canPassed_keeps {s₀ : State} {s : State} {r : Reg} {most weight : Nat} (h : Keeps s₀ s) :
    Keeps s₀ (State.canPassed s r most weight) := by
  unfold State.canPassed
  try dsimp only
  repeat' first
    | with_reducible exact h
    | with_reducible refine State.put_keeps ?_
    | with_reducible refine State.drawn_keeps ?_
    | (fail_if_no_progress with_reducible refine Keeps.mk_same ?_ rfl)
    | (fail_if_no_progress with_reducible refine Keeps.mk_draw ?_ rfl)

theorem State.canFlush_keeps {s₀ : State} {s : State} (h : Keeps s₀ s) :
    Keeps s₀ (State.canFlush s) := by
  unfold State.canFlush
  try dsimp only
  repeat' first
    | with_reducible exact h
    | with_reducible refine State.canPassed_keeps ?_
    | with_reducible refine State.emit_keeps ?_
    | with_reducible refine Keeps.foldl ?_ ?_
    | (intro u a b; try beta_reduce)
    | with_reducible assumption
    | with_reducible refine Keeps.ite ?_ ?_
    | (fail_if_no_progress with_reducible refine Keeps.mk_same ?_ rfl)

theorem State.canApplied_keeps {s₀ : State} {s : State} (h : Keeps s₀ s) :
    Keeps s₀ (State.canApplied s) := by
  unfold State.canApplied
  try dsimp only
  split
  · exact State.canFlush_keeps (State.commit_keeps h)
  · exact ⟨h.pending, h.out, h.fresh, h.rollback, h.mem, h.poison, fun r => rising_fold (h.regs r) (fun _ _ k => rfSet_rising k),
      fun r => rising_filter_fst (h.staged r)⟩

theorem State.canRest_keeps {s₀ : State} {s : State} (h : Keeps s₀ s) :
    Keeps s₀ (State.canRest s) := by
  unfold State.canRest
  try dsimp only
  repeat' first
    | with_reducible exact h
    | with_reducible refine State.commit_keeps ?_
    | with_reducible refine State.canFlush_keeps ?_
    | with_reducible refine Keeps.ite ?_ ?_

theorem State.canSend_keeps {s₀ : State} {s : State} {chan : Fin 16} {msg : List Byte} (h : Keeps s₀ s) :
    Keeps s₀ (State.canSend s chan msg) := by
  unfold State.canSend
  try dsimp only
  repeat' first
    | with_reducible exact h
    | with_reducible refine State.bump_keeps ?_
    | with_reducible refine State.canFlush_keeps ?_
    | with_reducible refine Keeps.ite ?_ ?_
    | (fail_if_no_progress with_reducible refine Keeps.mk_same ?_ rfl)

end Sys2Proof.Machine
end

