-- ==== Sys2Proof/Laws/Shots.lean ====
section
/-! SUPPORT. What the operations of Machine/Shots.lean keep, one lemma each (Keeps, Completes: Laws/Keeps.lean). -/

/- One declaration after another: side by side they would need more memory. -/
set_option Elab.async false

namespace Sys2Proof.Machine

theorem State.modShot_keeps {s₀ : State} {s : State} {n : Port} {p : Shot → Bool} {f : Shot → Shot} (h : Keeps s₀ s) :
    Keeps s₀ (State.modShot s n p f) := by
  unfold State.modShot
  try dsimp only
  repeat' first
    | with_reducible exact h
    | with_reducible refine State.modPort_keeps ?_

theorem State.dropOver_keeps {s₀ : State} {s : State} {n : Port} (h : Keeps s₀ s) :
    Keeps s₀ (State.dropOver s n) := by
  unfold State.dropOver
  try dsimp only
  repeat' first
    | with_reducible exact h
    | with_reducible refine State.modPort_keeps ?_

theorem State.invalidateOpen_keeps {s₀ : State} {s : State} (h : Keeps s₀ s) :
    Keeps s₀ (State.invalidateOpen s) := by
  unfold State.invalidateOpen
  try dsimp only
  repeat' first
    | with_reducible exact h
    | with_reducible refine overAll_keeps ?_ ?_
    | with_reducible refine State.modPort_keeps ?_
    | (intro u a b; try beta_reduce)
    | with_reducible assumption
    | (fail_if_no_progress with_reducible refine Keeps.mk_same ?_ rfl)

theorem State.switchDomains_keeps {s₀ : State} {s : State} {l : List (Fin 16)} {bypass unclean : Bool} (h : Keeps s₀ s) :
    Keeps s₀ (State.switchDomains s l bypass unclean) := by
  unfold State.switchDomains
  try dsimp only
  repeat' first
    | with_reducible exact h
    | with_reducible refine State.add_keeps ?_
    | with_reducible refine State.canFlush_keeps ?_
    | with_reducible refine State.peerReset_keeps ?_
    | with_reducible refine State.setBit_keeps ?_
    | with_reducible refine State.invalidateOpen_keeps ?_
    | with_reducible refine State.discardEvents_keeps ?_
    | with_reducible refine Keeps.foldl ?_ ?_
    | (intro u a b; try beta_reduce)
    | with_reducible assumption
    | with_reducible refine Keeps.ite ?_ ?_
    | (fail_if_no_progress with_reducible refine Keeps.mk_same ?_ rfl)

theorem State.cleanSwitch_keeps {s₀ : State} {s : State} (h : Keeps s₀ s) :
    Keeps s₀ (State.cleanSwitch s) := by
  unfold State.cleanSwitch
  try dsimp only
  repeat' first
    | with_reducible exact h
    | with_reducible refine State.switchDomains_keeps ?_
    | with_reducible refine Keeps.ite ?_ ?_
    | (fail_if_no_progress with_reducible refine Keeps.mk_same ?_ rfl)

theorem State.settleSwitch_keeps {s₀ : State} {s : State} (h : Keeps s₀ s) :
    Keeps s₀ (State.settleSwitch s) := by
  unfold State.settleSwitch
  try dsimp only
  repeat' first
    | with_reducible exact h
    | with_reducible refine State.switchDomains_keeps ?_
    | with_reducible refine Keeps.ite ?_ ?_
    | (fail_if_no_progress with_reducible refine Keeps.mk_same ?_ rfl)

theorem State.advanceTable_keeps {s₀ : State} {s : State} {n : Port} (h : Keeps s₀ s) :
    Keeps s₀ (State.advanceTable s n) := by
  unfold State.advanceTable
  try dsimp only
  repeat' first
    | with_reducible exact h
    | with_reducible refine State.modPort_keeps ?_
    | with_reducible refine Keeps.ite ?_ ?_
    | (fail_if_no_progress with_reducible refine Keeps.mk_same ?_ rfl)

theorem State.refuseShot_keeps {s₀ : State} {s : State} {n : Port} {cause : Nat} (h : Keeps s₀ s) :
    Keeps s₀ (State.refuseShot s n cause) := by
  unfold State.refuseShot
  try dsimp only
  repeat' first
    | with_reducible exact h
    | with_reducible refine State.modPort_keeps ?_
    | with_reducible refine State.bump_keeps ?_
    | with_reducible refine State.summary_keeps ?_
    | with_reducible refine Keeps.ite ?_ ?_

theorem State.stepWord_keeps {s₀ : State} {s : State} {n : Port} {x : Shot} (h : Keeps s₀ s) :
    Keeps s₀ (State.stepWord s n x) := by
  unfold State.stepWord
  try dsimp only
  repeat' first
    | with_reducible exact h
    | with_reducible refine State.modBril_keeps ?_
    | with_reducible refine State.modPort_keeps ?_
    | with_reducible refine Keeps.ite ?_ ?_
    | (fail_if_no_progress with_reducible refine Keeps.mk_same ?_ rfl)

theorem State.commitShot_keeps {s₀ : State} {s : State} {n : Port} {e : Nat} {i : SlotInfo} (h : Keeps s₀ s) :
    Keeps s₀ (State.commitShot s n e i) := by
  unfold State.commitShot
  try dsimp only
  repeat' first
    | with_reducible exact h
    | with_reducible refine State.stepWord_keeps ?_
    | with_reducible refine State.modPort_keeps ?_
    | with_reducible refine State.modPipe_keeps ?_
    | with_reducible refine Keeps.ite ?_ ?_
    | (fail_if_no_progress with_reducible refine Keeps.mk_same ?_ rfl)

theorem State.calShot_keeps {s₀ : State} {s : State} {n : Port} {i : SlotInfo} (h : Keeps s₀ s) :
    Keeps s₀ (State.calShot s n i) := by
  unfold State.calShot
  try dsimp only
  repeat' first
    | with_reducible exact h
    | with_reducible refine State.modCal_keeps ?_
    | with_reducible refine State.modPort_keeps ?_
    | (fail_if_no_progress with_reducible refine Keeps.mk_same ?_ rfl)

theorem State.gainInForce_keeps {s₀ : State} {s : State} {n : Port} (h : Keeps s₀ s) :
    Keeps s₀ (State.gainInForce s n) := by
  unfold State.gainInForce
  try dsimp only
  repeat' first
    | with_reducible exact h
    | with_reducible refine State.put_keeps ?_
    | with_reducible refine Keeps.ite ?_ ?_
    | split

theorem execToneLoad_keeps {s₀ : State} {n : Port} {s : State} (h : Keeps s₀ s) :
    Completes s₀ (execToneLoad n s) := by
  unfold execToneLoad
  try dsimp only
  repeat' first
    | with_reducible exact h
    | with_reducible refine State.gainInForce_keeps ?_
    | with_reducible refine State.modShot_keeps ?_
    | with_reducible refine Completes.next ?_

theorem execGateAssert_keeps {s₀ : State} {n : Port} {s : State} (h : Keeps s₀ s) :
    Completes s₀ (execGateAssert n s) := by
  unfold execGateAssert
  try dsimp only
  repeat' first
    | with_reducible exact h
    | with_reducible refine State.modShot_keeps ?_
    | with_reducible refine State.modPort_keeps ?_
    | with_reducible refine Keeps.ite ?_ ?_
    | with_reducible refine Completes.next ?_
    | (fail_if_no_progress with_reducible refine Keeps.mk_same ?_ rfl)
    | split

theorem execGateRelease_keeps {s₀ : State} {n : Port} {s : State} (h : Keeps s₀ s) :
    Completes s₀ (execGateRelease n s) := by
  unfold execGateRelease
  try dsimp only
  repeat' first
    | with_reducible exact h
    | with_reducible refine State.modShot_keeps ?_
    | with_reducible refine State.modPort_keeps ?_
    | with_reducible refine State.dropOver_keeps ?_
    | with_reducible refine Completes.next ?_
    | (fail_if_no_progress with_reducible refine Keeps.mk_same ?_ rfl)
    | split

theorem State.clipped_keeps {s₀ : State} {s : State} {n : Port} {k : Nat} (h : Keeps s₀ s) :
    Keeps s₀ (State.clipped s n k) := by
  unfold State.clipped
  try dsimp only
  repeat' first
    | with_reducible exact h
    | with_reducible refine State.add_keeps ?_
    | with_reducible refine State.setBit_keeps ?_
    | with_reducible refine Keeps.ite ?_ ?_

theorem execLaunch_keeps {s₀ : State} {n : Port} {s : State} (h : Keeps s₀ s) :
    Completes s₀ (execLaunch n s) := by
  unfold execLaunch
  try dsimp only
  repeat' first
    | with_reducible exact h
    | with_reducible refine State.modPort_keeps ?_
    | with_reducible refine State.modPipe_keeps ?_
    | with_reducible refine State.put_keeps ?_
    | with_reducible refine State.bump_keeps ?_
    | with_reducible refine State.clipped_keeps ?_
    | with_reducible refine Keeps.ite ?_ ?_
    | with_reducible refine Completes.next ?_
    | (fail_if_no_progress with_reducible refine Keeps.mk_same ?_ rfl)
    | split

theorem execRecordWindowOpen_keeps {s₀ : State} {n : Port} {x y : List RxRaw} {s : State} (h : Keeps s₀ s) :
    Completes s₀ (execRecordWindowOpen n x y s) := by
  unfold execRecordWindowOpen
  try dsimp only
  repeat' first
    | with_reducible exact h
    | with_reducible refine State.modShot_keeps ?_
    | with_reducible refine Completes.next ?_
    | (fail_if_no_progress with_reducible refine Keeps.mk_same ?_ rfl)

theorem State.monStamp_keeps {s₀ : State} {s : State} {n : Port} {x : Shot} {stamp : Stamp} (h : Keeps s₀ s) :
    Keeps s₀ (State.monStamp s n x stamp) := by
  unfold State.monStamp
  try dsimp only
  repeat' first
    | with_reducible exact h
    | with_reducible refine State.modPort_keeps ?_
    | with_reducible refine State.puti_keeps ?_
    | with_reducible refine State.logFlag_keeps ?_
    | with_reducible refine Keeps.ite ?_ ?_

theorem State.stampMiss_keeps {s₀ : State} {s : State} {n : Port} {x : Shot} (h : Keeps s₀ s) :
    Keeps s₀ (State.stampMiss s n x) := by
  unfold State.stampMiss
  try dsimp only
  repeat' first
    | with_reducible exact h
    | with_reducible refine State.modPort_keeps ?_
    | with_reducible refine State.bump_keeps ?_
    | with_reducible refine State.logFlag_keeps ?_
    | with_reducible refine Keeps.ite ?_ ?_
    | (fail_if_no_progress with_reducible refine Keeps.mk_same ?_ rfl)

theorem State.cutPort_keeps {s₀ : State} {s : State} {n : Port} (h : Keeps s₀ s) :
    Keeps s₀ (State.cutPort s n) := by
  unfold State.cutPort
  try dsimp only
  repeat' first
    | with_reducible exact h
    | with_reducible refine State.modPort_keeps ?_
    | with_reducible refine State.add_keeps ?_
    | (fail_if_no_progress with_reducible refine Keeps.mk_same ?_ rfl)

theorem execLsiRelease_keeps {s₀ : State} {ch : Fin 2} {s : State} (h : Keeps s₀ s) :
    Completes s₀ (execLsiRelease ch s) := by
  unfold execLsiRelease
  try dsimp only
  repeat' first
    | with_reducible exact h
    | with_reducible refine overAll_keeps ?_ ?_
    | with_reducible refine State.log_keeps ?_
    | with_reducible refine State.cutPort_keeps ?_
    | with_reducible refine Completes.next ?_
    | with_reducible refine Keeps.ite ?_ ?_
    | (intro u a b; try beta_reduce)
    | with_reducible assumption
    | (fail_if_no_progress with_reducible refine Keeps.mk_same ?_ rfl)

theorem execLsiHold_keeps {s₀ : State} {ch : Fin 2} {s : State} (h : Keeps s₀ s) :
    Completes s₀ (execLsiHold ch s) := by
  unfold execLsiHold
  try dsimp only
  repeat' first
    | with_reducible exact h
    | with_reducible refine Completes.next ?_
    | (fail_if_no_progress with_reducible refine Keeps.mk_same ?_ rfl)

theorem execLsiResume_keeps {s₀ : State} {s : State} (h : Keeps s₀ s) :
    Completes s₀ (execLsiResume s) := by
  unfold execLsiResume
  try dsimp only
  repeat' first
    | with_reducible exact h
    | with_reducible refine State.log_keeps ?_
    | with_reducible refine Completes.next ?_
    | with_reducible refine Keeps.ite ?_ ?_
    | (fail_if_no_progress with_reducible refine Keeps.mk_same ?_ rfl)

theorem execLsiDiscord_keeps {s₀ : State} {s : State} (h : Keeps s₀ s) :
    Completes s₀ (execLsiDiscord s) := by
  unfold execLsiDiscord
  try dsimp only
  repeat' first
    | with_reducible exact h
    | with_reducible refine Keeps.ite ?_ ?_
    | with_reducible refine Completes.next ?_
    | (fail_if_no_progress with_reducible refine Keeps.mk_same ?_ rfl)

end Sys2Proof.Machine
end

