-- ==== Sys2Proof/Laws/Pipe.lean ====
section
/-! SUPPORT. What the operations of Machine/Pipe.lean keep, one lemma each (Keeps, Completes: Laws/Keeps.lean). -/

/- One declaration after another: side by side they would need more memory. -/
set_option Elab.async false

namespace Sys2Proof.Machine

theorem queuePeak_keeps {s₀ : State} {s : State} {n : Port} (h : Keeps s₀ s) :
    Keeps s₀ (queuePeak s n) := by
  unfold queuePeak
  try dsimp only
  repeat' first
    | with_reducible exact h
    | with_reducible refine State.put_keeps ?_
    | with_reducible refine Keeps.ite ?_ ?_

theorem branchHolder_kept {s : State} {n : Port} {k : Nat} : (branchHolder s n k).Kept := by
  intro _ _ _ _ h
  unfold branchHolder
  dsimp only
  exact State.modPipe_keeps h

theorem execStateWordArrival_keeps {s₀ : State} {n : Port} {set : Fin 16} {p : Nat} {poisoned : Bool} {s : State} (h : Keeps s₀ s) :
    Completes s₀ (execStateWordArrival n set p poisoned s) := by
  unfold execStateWordArrival
  try dsimp only
  repeat' first
    | with_reducible exact h
    | with_reducible refine State.bump_keeps ?_
    | with_reducible refine State.readAt_keeps ?_ ?_
    | with_reducible refine State.modPipe_keeps ?_
    | with_reducible refine Keeps.ite ?_ ?_
    | with_reducible refine Completes.next ?_
    | (fail_if_no_progress with_reducible refine Keeps.mk_same ?_ rfl)
    | split
    | exact branchHolder_kept

theorem State.formPoint_keeps {s₀ : State} {s : State} {n : Port} {x : Shot} {o : Nat} (h : Keeps s₀ s) :
    Keeps s₀ (State.formPoint s n x o) := by
  unfold State.formPoint
  try dsimp only
  repeat' first
    | with_reducible exact h
    | with_reducible refine State.modPipe_keeps ?_
    | with_reducible refine State.dropFlips_keeps ?_
    | with_reducible refine State.bump_keeps ?_
    | with_reducible refine State.setBit_keeps ?_
    | with_reducible refine Keeps.ite ?_ ?_
    | (fail_if_no_progress with_reducible refine Keeps.mk_same ?_ rfl)
    | (fail_if_no_progress with_reducible refine Keeps.mk_draw ?_ rfl)
    | split

theorem execGridPoint_keeps {s₀ : State} {n : Port} {p : Nat} {s : State} (h : Keeps s₀ s) :
    Completes s₀ (execGridPoint n p s) := by
  unfold execGridPoint
  try dsimp only
  repeat' first
    | with_reducible exact h
    | with_reducible refine State.modPipe_keeps ?_
    | with_reducible refine State.bump_keeps ?_
    | with_reducible refine State.setBit_keeps ?_
    | with_reducible refine queuePeak_keeps ?_
    | with_reducible refine State.formPoint_keeps ?_
    | with_reducible refine Keeps.foldl ?_ ?_
    | (intro u a b; try beta_reduce)
    | with_reducible assumption
    | with_reducible refine Keeps.ite ?_ ?_
    | with_reducible refine Completes.next ?_
    | (fail_if_no_progress with_reducible refine Keeps.mk_same ?_ rfl)
    | (fail_if_no_progress with_reducible refine Keeps.mk_draw ?_ rfl)
    | split

theorem State.startRelearn_keeps {s₀ : State} {s : State} {n : Port} {set : Nat} (h : Keeps s₀ s) :
    Keeps s₀ (State.startRelearn s n set) := by
  unfold State.startRelearn
  try dsimp only
  repeat' first
    | with_reducible exact h
    | with_reducible refine State.modPipe_keeps ?_
    | with_reducible refine State.bump_keeps ?_
    | with_reducible refine State.setBit_keeps ?_
    | (fail_if_no_progress with_reducible refine Keeps.mk_same ?_ rfl)

theorem State.relearnAll_keeps {s₀ : State} {s : State} {n : Port} (h : Keeps s₀ s) :
    Keeps s₀ (State.relearnAll s n) := by
  unfold State.relearnAll
  try dsimp only
  repeat' first
    | with_reducible exact h
    | with_reducible refine State.startRelearn_keeps ?_
    | with_reducible refine Keeps.foldl ?_ ?_
    | (intro u a b; try beta_reduce)
    | with_reducible assumption

theorem State.moveNoise_keeps {s₀ : State} {s : State} {n : Port} {x : Shot} (h : Keeps s₀ s) :
    Keeps s₀ (State.moveNoise s n x) := by
  unfold State.moveNoise
  try dsimp only
  repeat' first
    | with_reducible exact h
    | with_reducible refine State.clrBit_keeps ?_
    | with_reducible refine State.modPipe_keeps ?_
    | with_reducible refine State.setBit_keeps ?_
    | with_reducible refine Keeps.ite ?_ ?_

theorem State.trackDark_keeps {s₀ : State} {s : State} {n : Port} {dark : Bool} (h : Keeps s₀ s) :
    Keeps s₀ (State.trackDark s n dark) := by
  unfold State.trackDark
  try dsimp only
  repeat' first
    | with_reducible exact h
    | with_reducible refine State.modPipe_keeps ?_
    | with_reducible refine State.bump_keeps ?_
    | with_reducible refine State.logFlag_keeps ?_
    | with_reducible refine Keeps.ite ?_ ?_

theorem State.trackEnd_keeps {s₀ : State} {s : State} {n : Port} {x : Shot} (h : Keeps s₀ s) :
    Keeps s₀ (State.trackEnd s n x) := by
  unfold State.trackEnd
  try dsimp only
  repeat' first
    | with_reducible exact h
    | with_reducible refine State.put_keeps ?_
    | with_reducible refine State.drawn_keeps ?_
    | with_reducible refine State.putBit_keeps ?_
    | with_reducible refine State.modPipe_keeps ?_
    | with_reducible refine State.logFlag_keeps ?_
    | with_reducible refine Keeps.foldl ?_ ?_
    | (intro u a b; try beta_reduce)
    | with_reducible assumption
    | with_reducible refine Keeps.ite ?_ ?_
    | (fail_if_no_progress with_reducible refine Keeps.mk_same ?_ rfl)

theorem State.branchStatus_keeps {s₀ : State} {s : State} {n : Port} {x : Shot} (h : Keeps s₀ s) :
    Keeps s₀ (State.branchStatus s n x) := by
  unfold State.branchStatus
  try dsimp only
  repeat' first
    | with_reducible exact h
    | with_reducible refine State.put_keeps ?_
    | with_reducible refine Keeps.foldl ?_ ?_
    | (intro u a b; try beta_reduce)
    | with_reducible assumption
    | with_reducible refine Keeps.ite ?_ ?_

theorem State.closeShot_keeps {s₀ : State} {s : State} {n : Port} {x : Shot} {dark : Bool} (h : Keeps s₀ s) :
    Keeps s₀ (State.closeShot s n x dark) := by
  unfold State.closeShot
  try dsimp only
  repeat' first
    | with_reducible exact h
    | with_reducible refine State.modPipe_keeps ?_
    | with_reducible refine Keeps.ite ?_ ?_
    | (fail_if_no_progress with_reducible refine Keeps.mk_same ?_ rfl)

theorem State.clearShot_keeps {s₀ : State} {s : State} {n : Port} {x : Shot} (h : Keeps s₀ s) :
    Keeps s₀ (State.clearShot s n x) := by
  unfold State.clearShot
  try dsimp only
  repeat' first
    | with_reducible exact h
    | with_reducible refine State.modPipe_keeps ?_
    | with_reducible refine Keeps.ite ?_ ?_
    | (fail_if_no_progress with_reducible refine Keeps.mk_same ?_ rfl)

theorem execDasShotEnd_keeps {s₀ : State} {n : Port} {s : State} (h : Keeps s₀ s) :
    Completes s₀ (execDasShotEnd n s) := by
  unfold execDasShotEnd
  try dsimp only
  repeat' first
    | with_reducible exact h
    | with_reducible refine State.closeShot_keeps ?_
    | with_reducible refine State.bump_keeps ?_
    | with_reducible refine State.setBit_keeps ?_
    | with_reducible refine State.summary_keeps ?_
    | with_reducible refine State.trackDark_keeps ?_
    | with_reducible refine State.moveNoise_keeps ?_
    | with_reducible refine State.trackEnd_keeps ?_
    | with_reducible refine State.branchStatus_keeps ?_
    | with_reducible refine State.put_keeps ?_
    | with_reducible refine State.clearShot_keeps ?_
    | with_reducible refine State.modShot_keeps ?_
    | with_reducible refine State.putBit_keeps ?_
    | with_reducible refine queuePeak_keeps ?_
    | with_reducible refine State.dropOver_keeps ?_
    | with_reducible refine Keeps.ite ?_ ?_
    | with_reducible refine Completes.next ?_
    | (fail_if_no_progress with_reducible refine Keeps.mk_same ?_ rfl)
    | split

end Sys2Proof.Machine
end

