-- ==== Sys2Proof/Laws/Brillouin.lean ====
section
/-! SUPPORT. What the operations of Machine/Brillouin.lean keep, one lemma each (Keeps, Completes: Laws/Keeps.lean). -/

/- One declaration after another: side by side they would need more memory. -/
set_option Elab.async false

namespace Sys2Proof.Machine

theorem State.startSweep_keeps {s₀ : State} {s : State} {n : Port} {x : Shot} (h : Keeps s₀ s) :
    Keeps s₀ (State.startSweep s n x) := by
  unfold State.startSweep
  try dsimp only
  repeat' first
    | with_reducible exact h
    | with_reducible refine State.setBit_keeps ?_
    | with_reducible refine State.modBril_keeps ?_
    | with_reducible refine State.bump_keeps ?_
    | with_reducible refine State.clearWords_keeps ?_
    | with_reducible refine State.store_keeps ?_
    | with_reducible refine Keeps.ite ?_ ?_

theorem State.addBin_keeps {s₀ : State} {s : State} {n : Port} {base k : Nat} {shift : Nat} {j : Nat} {power : Rat} (h : Keeps s₀ s) :
    Keeps s₀ (State.addBin s n base k shift j power) := by
  unfold State.addBin
  try dsimp only
  repeat' first
    | with_reducible exact h
    | with_reducible refine State.meetWords_keeps ?_
    | with_reducible refine State.store_keeps ?_
    | with_reducible refine State.bump_keeps ?_
    | with_reducible refine State.setBit_keeps ?_
    | with_reducible refine State.modBril_keeps ?_
    | with_reducible refine Keeps.ite ?_ ?_
    | (fail_if_no_progress with_reducible refine Keeps.mk_same ?_ rfl)

theorem addBins_keeps {s₀ : State} {n : Port} {base : Nat} {k : Nat} {shift : Nat} {z4 : State} {z5 : Nat} {z6 : List Rat} (h : Keeps s₀ z4) :
    Keeps s₀ (addBins n base k shift z4 z5 z6) := by
  induction z6 generalizing z4 z5 with
  | nil => exact h
  | cons e r ih => exact ih (State.addBin_keeps h)

theorem State.addSpectrum_keeps {s₀ : State} {s : State} {n : Port} {x : Shot} (h : Keeps s₀ s) :
    Keeps s₀ (State.addSpectrum s n x) := by
  unfold State.addSpectrum
  try dsimp only
  repeat' first
    | with_reducible exact h
    | with_reducible refine addBins_keeps ?_
    | with_reducible refine State.meetWords_keeps ?_
    | with_reducible refine State.store_keeps ?_

theorem State.endSweep_keeps {s₀ : State} {s : State} {n : Port} {x : Shot} (h : Keeps s₀ s) :
    Keeps s₀ (State.endSweep s n x) := by
  unfold State.endSweep
  try dsimp only
  repeat' first
    | with_reducible exact h
    | with_reducible refine State.clrBit_keeps ?_
    | with_reducible refine State.store_keeps ?_
    | with_reducible refine State.setBit_keeps ?_
    | with_reducible refine State.bump_keeps ?_
    | with_reducible refine State.modPipe_keeps ?_
    | with_reducible refine queuePeak_keeps ?_
    | with_reducible refine State.modBril_keeps ?_
    | with_reducible refine Keeps.ite ?_ ?_
    | (fail_if_no_progress with_reducible refine Keeps.mk_same ?_ rfl)

theorem State.countShot_keeps {s₀ : State} {s : State} {n : Port} {x : Shot} (h : Keeps s₀ s) :
    Keeps s₀ (State.countShot s n x) := by
  unfold State.countShot
  try dsimp only
  repeat' first
    | with_reducible exact h
    | with_reducible refine State.modBril_keeps ?_
    | with_reducible refine State.endSweep_keeps ?_
    | with_reducible refine State.put_keeps ?_
    | with_reducible refine Keeps.ite ?_ ?_

theorem execBrilShotAdd_keeps {s₀ : State} {n : Port} {s : State} (h : Keeps s₀ s) :
    Completes s₀ (execBrilShotAdd n s) := by
  unfold execBrilShotAdd
  try dsimp only
  repeat' first
    | with_reducible exact h
    | with_reducible refine State.modShot_keeps ?_
    | with_reducible refine State.dropOver_keeps ?_
    | with_reducible refine State.startSweep_keeps ?_
    | with_reducible refine State.bump_keeps ?_
    | with_reducible refine State.setBit_keeps ?_
    | with_reducible refine State.modBril_keeps ?_
    | with_reducible refine State.addSpectrum_keeps ?_
    | with_reducible refine State.countShot_keeps ?_
    | with_reducible refine Keeps.ite ?_ ?_
    | with_reducible refine Completes.next ?_
    | (fail_if_no_progress with_reducible refine Keeps.mk_same ?_ rfl)
    | split

theorem State.abortSweep_keeps {s₀ : State} {s : State} {n : Port} (h : Keeps s₀ s) :
    Keeps s₀ (State.abortSweep s n) := by
  unfold State.abortSweep
  try dsimp only
  repeat' first
    | with_reducible exact h
    | with_reducible refine State.clrBit_keeps ?_
    | with_reducible refine State.setBit_keeps ?_
    | with_reducible refine State.bump_keeps ?_
    | with_reducible refine State.modBril_keeps ?_
    | with_reducible refine State.put_keeps ?_
    | with_reducible refine Keeps.ite ?_ ?_

theorem releaseEff_keeps {s₀ : State} {s : State} {n : Port} {buf : Nat} (h : Keeps s₀ s) :
    Keeps s₀ (releaseEff s n buf) := by
  unfold releaseEff
  try dsimp only
  repeat' first
    | with_reducible exact h
    | with_reducible refine State.clrBit_keeps ?_
    | with_reducible refine Keeps.ite ?_ ?_

end Sys2Proof.Machine
end

