-- ==== Sys2Proof/Laws/Array.lean ====
section
/-! SUPPORT. What the operations of Machine/Array.lean keep, one lemma each (Keeps, Completes: Laws/Keeps.lean). -/

/- One declaration after another: side by side they would need more memory. -/
set_option Elab.async false

namespace Sys2Proof.Machine

theorem State.countStalls_keeps {s₀ : State} {s : State} (h : Keeps s₀ s) :
    Keeps s₀ (State.countStalls s) := by
  unfold State.countStalls
  try dsimp only
  repeat' first
    | with_reducible exact h
    | with_reducible refine State.put_keeps ?_

theorem State.setStall_keeps {s₀ : State} {s : State} {t : StallId} {st : StallState} (h : Keeps s₀ s) :
    Keeps s₀ (State.setStall s t st) := by
  unfold State.setStall
  try dsimp only
  repeat' first
    | with_reducible exact h
    | with_reducible refine State.countStalls_keeps ?_
    | with_reducible refine State.put_keeps ?_
    | with_reducible refine State.modStall_keeps ?_

theorem State.writeParams_keeps {s₀ : State} {s : State} {t : StallId} (h : Keeps s₀ s) :
    Keeps s₀ (State.writeParams s t) := by
  unfold State.writeParams
  try dsimp only
  repeat' first
    | with_reducible exact h
    | with_reducible refine State.placeWords_keeps ?_
    | with_reducible refine Keeps.foldl ?_ ?_
    | (intro u a b; try beta_reduce)
    | with_reducible assumption

theorem State.writeHosts_keeps {s₀ : State} {s : State} {t : StallId} (h : Keeps s₀ s) :
    Keeps s₀ (State.writeHosts s t) := by
  unfold State.writeHosts
  try dsimp only
  repeat' first
    | with_reducible exact h
    | with_reducible refine State.put_keeps ?_
    | with_reducible refine State.modPitch_keeps ?_
    | with_reducible refine Keeps.foldl ?_ ?_
    | (intro u a b; try beta_reduce)
    | with_reducible assumption

theorem State.abandon_keeps {s₀ : State} {s : State} {k : Fin 192} (h : Keeps s₀ s) :
    Keeps s₀ (State.abandon s k) := by
  unfold State.abandon
  try dsimp only
  repeat' first
    | with_reducible exact h
    | with_reducible refine State.put_keeps ?_
    | with_reducible refine State.modPitch_keeps ?_

theorem State.writeDescriptor_keeps {s₀ : State} {s : State} {t : StallId} {k : Fin 192} {d : Delivery} {flags : Nat} (h : Keeps s₀ s) :
    Keeps s₀ (State.writeDescriptor s t k d flags) := by
  unfold State.writeDescriptor
  try dsimp only
  repeat' first
    | with_reducible exact h
    | with_reducible refine State.modStall_keeps ?_
    | with_reducible refine State.placeWords_keeps ?_
    | split

theorem State.enterService_keeps {s₀ : State} {s : State} {t : StallId} {img : List Byte} {resume : Bool} (h : Keeps s₀ s) :
    Keeps s₀ (State.enterService s t img resume) := by
  unfold State.enterService
  try dsimp only
  repeat' first
    | with_reducible exact h
    | with_reducible refine State.modStall_keeps ?_
    | with_reducible refine State.setStall_keeps ?_
    | with_reducible refine State.put_keeps ?_
    | with_reducible refine State.writeParams_keeps ?_
    | with_reducible refine State.writeDescriptor_keeps ?_
    | with_reducible refine Keeps.foldl ?_ ?_
    | (intro u a b; try beta_reduce)
    | with_reducible assumption
    | split

theorem State.vacate_keeps {s₀ : State} {s : State} {t : StallId} (h : Keeps s₀ s) :
    Keeps s₀ (State.vacate s t) := by
  unfold State.vacate
  try dsimp only
  repeat' first
    | with_reducible exact h
    | with_reducible refine State.modStall_keeps ?_
    | with_reducible refine State.setStall_keeps ?_
    | with_reducible refine State.put_keeps ?_

theorem State.give_keeps {s₀ : State} {s : State} {t : StallId} {g : Fin 16} {ks : List (Fin 192)} (h : Keeps s₀ s) :
    Keeps s₀ (State.give s t g ks) := by
  unfold State.give
  try dsimp only
  repeat' first
    | with_reducible exact h
    | with_reducible refine State.writeHosts_keeps ?_
    | with_reducible refine State.put_keeps ?_
    | with_reducible refine State.modStall_keeps ?_

theorem State.countUsers_keeps {s₀ : State} {s : State} (h : Keeps s₀ s) :
    Keeps s₀ (State.countUsers s) := by
  unfold State.countUsers
  try dsimp only
  repeat' first
    | with_reducible exact h
    | with_reducible refine State.put_keeps ?_
    | with_reducible refine Keeps.foldl ?_ ?_
    | (intro u a b; try beta_reduce)
    | with_reducible assumption

theorem State.arrayFlags_keeps {s₀ : State} {s : State} (h : Keeps s₀ s) :
    Keeps s₀ (State.arrayFlags s) := by
  unfold State.arrayFlags
  try dsimp only
  repeat' first
    | with_reducible exact h
    | with_reducible refine State.putBit_keeps ?_

theorem State.resolve_keeps {s₀ : State} {s : State} {g : Fin 16} {n : Port} {d : BitVec 32} {k : Fin 192} {v : Resolved} (h : Keeps s₀ s) :
    Keeps s₀ (State.resolve s g n d k v) := by
  unfold State.resolve
  try dsimp only
  repeat' first
    | with_reducible exact h
    | (fail_if_no_progress with_reducible refine Keeps.mk_same ?_ rfl)

theorem State.releaseOutput_keeps {s₀ : State} {s : State} {r : ReorderRec} {o : Fin 4} (h : Keeps s₀ s) :
    Keeps s₀ (State.releaseOutput s r o) := by
  unfold State.releaseOutput
  try dsimp only
  repeat' first
    | with_reducible exact h
    | with_reducible refine State.toStreams_keeps ?_
    | with_reducible refine State.bump_keeps ?_
    | with_reducible refine Keeps.foldl ?_ ?_
    | (intro u a b; try beta_reduce)
    | with_reducible assumption
    | with_reducible refine Keeps.ite ?_ ?_
    | (fail_if_no_progress with_reducible refine Keeps.mk_same ?_ rfl)
    | (fail_if_no_progress with_reducible refine Keeps.mk_draw ?_ rfl)

theorem releaseFrom_keeps {s₀ : State} {z0 : Nat} {z1 : State} {z2 : Fin 16} {z3 : Port} {z4 : BitVec 32} (h : Keeps s₀ z1) :
    Keeps s₀ (releaseFrom z0 z1 z2 z3 z4) := by
  induction z0 generalizing z1 with
  | zero => exact h
  | succ f ih =>
    unfold releaseFrom
    try dsimp only
    repeat' first
      | with_reducible exact h
      | with_reducible refine ih ?_
      | with_reducible refine State.releaseOutput_keeps ?_
      | with_reducible exact h
      | with_reducible refine Completes.next ?_
      | with_reducible refine Keeps.ite ?_ ?_
      | with_reducible refine Completes.ite ?_ ?_
      | with_reducible refine Keeps.dite ?_ ?_
      | with_reducible refine Keeps.foldl ?_ ?_
      | with_reducible refine Keeps.ite_fst ?_ ?_
      | with_reducible refine Completes.nextOf ?_
      | (intro u x a b; try beta_reduce)
      | (intro u a b; try beta_reduce)
      | (intro u b; try beta_reduce)
      | (intro b; try beta_reduce)
      | with_reducible assumption
      | (fail_if_no_progress with_reducible refine Keeps.mk_same ?_ rfl)
      | (fail_if_no_progress with_reducible refine Keeps.mk_draw ?_ rfl)
      | (fail_if_no_progress dsimp only)
      | split

theorem State.release_keeps {s₀ : State} {s : State} {g : Fin 16} {n : Port} (h : Keeps s₀ s) :
    Keeps s₀ (State.release s g n) := by
  unfold State.release
  try dsimp only
  repeat' first
    | with_reducible exact h
    | with_reducible refine releaseFrom_keeps ?_

theorem State.releasePort_keeps {s₀ : State} {s : State} {n : Port} (h : Keeps s₀ s) :
    Keeps s₀ (State.releasePort s n) := by
  unfold State.releasePort
  try dsimp only
  repeat' first
    | with_reducible exact h
    | with_reducible refine State.release_keeps ?_
    | with_reducible refine Keeps.foldl ?_ ?_
    | (intro u a b; try beta_reduce)
    | with_reducible assumption

theorem State.haltPitch_keeps {s₀ : State} {s : State} {k : Fin 192} (h : Keeps s₀ s) :
    Keeps s₀ (State.haltPitch s k) := by
  unfold State.haltPitch
  try dsimp only
  repeat' first
    | with_reducible exact h
    | with_reducible refine State.modPitch_keeps ?_
    | with_reducible refine State.abandon_keeps ?_
    | with_reducible refine State.setBit_keeps ?_
    | with_reducible refine State.releasePort_keeps ?_
    | (fail_if_no_progress with_reducible refine Keeps.mk_same ?_ rfl)

theorem State.placedCheck_keeps {s₀ : State} {s : State} {g : Fin 16} (h : Keeps s₀ s) :
    Keeps s₀ (State.placedCheck s g) := by
  unfold State.placedCheck
  try dsimp only
  repeat' first
    | with_reducible exact h
    | with_reducible refine State.modProgram_keeps ?_
    | with_reducible refine Keeps.ite ?_ ?_

theorem State.dropLoads_keeps {s₀ : State} {s : State} {t : StallId} (h : Keeps s₀ s) :
    Keeps s₀ (State.dropLoads s t) := by
  unfold State.dropLoads
  try dsimp only
  repeat' first
    | with_reducible exact h
    | with_reducible refine State.vacate_keeps ?_
    | with_reducible refine State.placedCheck_keeps ?_
    | with_reducible refine State.modStall_keeps ?_
    | with_reducible refine Keeps.ite ?_ ?_
    | with_reducible refine Keeps.foldl ?_ ?_
    | (intro u a b; try beta_reduce)
    | with_reducible assumption

theorem State.endMove_keeps {s₀ : State} {s : State} {t : StallId} (h : Keeps s₀ s) :
    Keeps s₀ (State.endMove s t) := by
  unfold State.endMove
  try dsimp only
  repeat' first
    | with_reducible exact h
    | with_reducible refine State.setStall_keeps ?_
    | with_reducible refine State.vacate_keeps ?_
    | split

theorem State.haltStall_keeps {s₀ : State} {s : State} {t : StallId} (h : Keeps s₀ s) :
    Keeps s₀ (State.haltStall s t) := by
  unfold State.haltStall
  try dsimp only
  repeat' first
    | with_reducible exact h
    | with_reducible refine State.haltPitch_keeps ?_
    | with_reducible refine State.arrayFlags_keeps ?_
    | with_reducible refine State.setStall_keeps ?_
    | with_reducible refine State.dropLoads_keeps ?_
    | with_reducible refine Keeps.foldl ?_ ?_
    | (intro u a b; try beta_reduce)
    | with_reducible assumption

theorem State.startMove_keeps {s₀ : State} {s : State} {t : StallId} {spare : StallId} (h : Keeps s₀ s) :
    Keeps s₀ (State.startMove s t spare) := by
  unfold State.startMove
  try dsimp only
  repeat' first
    | with_reducible exact h
    | with_reducible refine State.modStall_keeps ?_
    | with_reducible refine State.give_keeps ?_
    | with_reducible refine State.setBit_keeps ?_
    | with_reducible refine State.modPitch_keeps ?_
    | with_reducible refine State.abandon_keeps ?_
    | with_reducible refine State.bump_keeps ?_
    | with_reducible refine State.setStall_keeps ?_
    | with_reducible refine Keeps.foldl ?_ ?_
    | (intro u a b; try beta_reduce)
    | with_reducible assumption
    | (fail_if_no_progress with_reducible refine Keeps.mk_same ?_ rfl)

theorem State.stallEvent_keeps {s₀ : State} {s : State} {cls : Nat} {t : StallId} (h : Keeps s₀ s) :
    Keeps s₀ (State.stallEvent s cls t) := by
  unfold State.stallEvent
  try dsimp only
  repeat' first
    | with_reducible exact h
    | with_reducible refine State.log_keeps ?_

theorem State.fatalFault_keeps {s₀ : State} {s : State} {t : StallId} (h : Keeps s₀ s) :
    Keeps s₀ (State.fatalFault s t) := by
  unfold State.fatalFault
  try dsimp only
  repeat' first
    | with_reducible exact h
    | with_reducible refine State.modStall_keeps ?_
    | with_reducible refine State.haltStall_keeps ?_
    | with_reducible refine State.startMove_keeps ?_
    | with_reducible refine State.stallEvent_keeps ?_
    | with_reducible refine Keeps.ite ?_ ?_
    | (fail_if_no_progress with_reducible refine Keeps.mk_same ?_ rfl)
    | split

theorem State.slowMove_keeps {s₀ : State} {s : State} {t : StallId} (h : Keeps s₀ s) :
    Keeps s₀ (State.slowMove s t) := by
  unfold State.slowMove
  try dsimp only
  repeat' first
    | with_reducible exact h
    | with_reducible refine State.setBit_keeps ?_
    | with_reducible refine State.modStall_keeps ?_
    | with_reducible refine State.arrayFlags_keeps ?_
    | with_reducible refine State.startMove_keeps ?_
    | with_reducible refine Keeps.ite ?_ ?_
    | with_reducible refine Keeps.foldl ?_ ?_
    | (intro u a b; try beta_reduce)
    | with_reducible assumption
    | split

theorem State.copyStall_keeps {s₀ : State} {s : State} {a : StallId} {b : StallId} {stateLen : Nat} (h : Keeps s₀ s) :
    Keeps s₀ (State.copyStall s a b stateLen) := by
  unfold State.copyStall
  try dsimp only
  repeat' first
    | with_reducible exact h
    | with_reducible refine State.copyWords_keeps ?_

theorem execMigrationCopyEnd_keeps {s₀ : State} {t : StallId} {s : State} (h : Keeps s₀ s) :
    Completes s₀ (execMigrationCopyEnd t s) := by
  unfold execMigrationCopyEnd
  try dsimp only
  repeat' first
    | with_reducible exact h
    | with_reducible refine State.copyStall_keeps ?_
    | with_reducible refine State.modStall_keeps ?_
    | with_reducible refine State.enterService_keeps ?_
    | with_reducible refine State.setStall_keeps ?_
    | with_reducible refine State.vacate_keeps ?_
    | with_reducible refine Completes.next ?_
    | split

theorem execStlTestEnd_keeps {s₀ : State} {t : StallId} {pass : Bool} {s : State} (h : Keeps s₀ s) :
    Completes s₀ (execStlTestEnd t pass s) := by
  unfold execStlTestEnd
  try dsimp only
  repeat' first
    | with_reducible exact h
    | with_reducible refine State.put_keeps ?_
    | with_reducible refine State.setStall_keeps ?_
    | with_reducible refine State.stallEvent_keeps ?_
    | with_reducible refine Completes.next ?_
    | with_reducible refine Keeps.ite ?_ ?_

theorem State.keepHalted_keeps {s₀ : State} {s : State} {t : StallId} (h : Keeps s₀ s) :
    Keeps s₀ (State.keepHalted s t) := by
  unfold State.keepHalted
  try dsimp only
  repeat' first
    | with_reducible exact h
    | with_reducible refine State.setStall_keeps ?_
    | with_reducible refine Keeps.ite ?_ ?_

theorem State.markMoved_keeps {s₀ : State} {s : State} {ks : List (Fin 192)} (h : Keeps s₀ s) :
    Keeps s₀ (State.markMoved s ks) := by
  unfold State.markMoved
  try dsimp only
  repeat' first
    | with_reducible exact h
    | with_reducible refine State.modPitch_keeps ?_
    | with_reducible refine State.setBit_keeps ?_
    | with_reducible refine Keeps.foldl ?_ ?_
    | (intro u a b; try beta_reduce)
    | with_reducible assumption
    | (fail_if_no_progress with_reducible refine Keeps.mk_same ?_ rfl)

theorem State.reloadInPlace_keeps {s₀ : State} {s : State} {t : StallId} (h : Keeps s₀ s) :
    Keeps s₀ (State.reloadInPlace s t) := by
  unfold State.reloadInPlace
  try dsimp only
  repeat' first
    | with_reducible exact h
    | with_reducible refine State.modStall_keeps ?_
    | with_reducible refine State.markMoved_keeps ?_
    | with_reducible refine State.setStall_keeps ?_
    | (fail_if_no_progress with_reducible refine Keeps.mk_same ?_ rfl)

theorem State.startReplacement_keeps {s₀ : State} {s : State} {g : Fin 16} (h : Keeps s₀ s) :
    Keeps s₀ (State.startReplacement s g) := by
  unfold State.startReplacement
  try dsimp only
  repeat' first
    | with_reducible exact h
    | with_reducible refine State.modStall_keeps ?_
    | with_reducible refine State.setStall_keeps ?_
    | with_reducible refine State.reloadInPlace_keeps ?_
    | with_reducible refine Keeps.foldl ?_ ?_
    | (intro u a b; try beta_reduce)
    | with_reducible assumption
    | with_reducible refine Keeps.ite ?_ ?_
    | (fail_if_no_progress with_reducible refine Keeps.mk_same ?_ rfl)
    | split

theorem State.finishReplacement_keeps {s₀ : State} {s : State} {p a : StallId} (h : Keeps s₀ s) :
    Keeps s₀ (State.finishReplacement s p a) := by
  unfold State.finishReplacement
  try dsimp only
  repeat' first
    | with_reducible exact h
    | with_reducible refine State.copyWords_keeps ?_
    | with_reducible refine State.placeWords_keeps ?_
    | with_reducible refine State.modStall_keeps ?_
    | with_reducible refine State.give_keeps ?_
    | with_reducible refine State.abandon_keeps ?_
    | with_reducible refine State.markMoved_keeps ?_
    | with_reducible refine State.enterService_keeps ?_
    | with_reducible refine State.keepHalted_keeps ?_
    | with_reducible refine State.vacate_keeps ?_
    | with_reducible refine State.placedCheck_keeps ?_
    | with_reducible refine Keeps.foldl ?_ ?_
    | (intro u a b; try beta_reduce)
    | with_reducible assumption
    | with_reducible refine Keeps.ite ?_ ?_
    | (fail_if_no_progress with_reducible refine Keeps.mk_same ?_ rfl)

theorem State.keepUnread_keeps {s₀ : State} {s : State} {t : StallId} (h : Keeps s₀ s) :
    Keeps s₀ (State.keepUnread s t) := by
  unfold State.keepUnread
  try dsimp only
  repeat' first
    | with_reducible exact h
    | with_reducible refine State.modPitch_keeps ?_
    | with_reducible refine State.put_keeps ?_
    | with_reducible refine Keeps.foldl ?_ ?_
    | (intro u a b; try beta_reduce)
    | with_reducible assumption
    | (fail_if_no_progress with_reducible refine Keeps.mk_same ?_ rfl)

theorem execProgramLoadEnd_keeps {s₀ : State} {t : StallId} {s : State} (h : Keeps s₀ s) :
    Completes s₀ (execProgramLoadEnd t s) := by
  unfold execProgramLoadEnd
  try dsimp only
  repeat' first
    | with_reducible exact h
    | with_reducible refine State.modStall_keeps ?_
    | with_reducible refine State.keepUnread_keeps ?_
    | with_reducible refine State.placeWords_keeps ?_
    | with_reducible refine State.enterService_keeps ?_
    | with_reducible refine State.keepHalted_keeps ?_
    | with_reducible refine State.placedCheck_keeps ?_
    | with_reducible refine Keeps.ite ?_ ?_
    | with_reducible refine Completes.next ?_
    | (fail_if_no_progress with_reducible refine Keeps.mk_same ?_ rfl)

theorem State.reloadAtDone_keeps {s₀ : State} {s : State} {t : StallId} (h : Keeps s₀ s) :
    Keeps s₀ (State.reloadAtDone s t) := by
  unfold State.reloadAtDone
  try dsimp only
  repeat' first
    | with_reducible exact h
    | with_reducible refine State.reloadInPlace_keeps ?_
    | with_reducible refine Keeps.ite ?_ ?_

theorem State.startStall_keeps {s₀ : State} {s : State} {t : StallId} {g : Fin 16} {ks : List (Fin 192)} (h : Keeps s₀ s) :
    Keeps s₀ (State.startStall s t g ks) := by
  unfold State.startStall
  try dsimp only
  repeat' first
    | with_reducible exact h
    | with_reducible refine State.endMove_keeps ?_
    | with_reducible refine State.dropLoads_keeps ?_
    | with_reducible refine State.abandon_keeps ?_
    | with_reducible refine State.give_keeps ?_
    | with_reducible refine State.placeWords_keeps ?_
    | with_reducible refine State.modStall_keeps ?_
    | with_reducible refine State.placedCheck_keeps ?_
    | with_reducible refine State.enterService_keeps ?_
    | with_reducible refine Keeps.foldl ?_ ?_
    | (intro u a b; try beta_reduce)
    | with_reducible assumption

theorem State.leaveStall_keeps {s₀ : State} {s : State} {k : Fin 192} (h : Keeps s₀ s) :
    Keeps s₀ (State.leaveStall s k) := by
  unfold State.leaveStall
  try dsimp only
  repeat' first
    | with_reducible exact h
    | with_reducible refine State.put_keeps ?_
    | with_reducible refine State.modPitch_keeps ?_
    | with_reducible refine State.abandon_keeps ?_
    | with_reducible refine State.placedCheck_keeps ?_
    | with_reducible refine State.vacate_keeps ?_
    | with_reducible refine State.endMove_keeps ?_
    | with_reducible refine State.dropLoads_keeps ?_
    | with_reducible refine State.startStall_keeps ?_
    | with_reducible refine Keeps.ite ?_ ?_
    | split

theorem State.applyPitch_keeps {s₀ : State} {s : State} {k : Fin 192} (h : Keeps s₀ s) :
    Keeps s₀ (State.applyPitch s k) := by
  unfold State.applyPitch
  try dsimp only
  repeat' first
    | with_reducible exact h
    | with_reducible refine State.commit_keeps ?_
    | with_reducible refine State.placeWords_keeps ?_
    | with_reducible refine State.modPitch_keeps ?_
    | with_reducible refine State.clrBit_keeps ?_
    | with_reducible refine State.startStall_keeps ?_
    | with_reducible refine State.leaveStall_keeps ?_
    | with_reducible refine State.countUsers_keeps ?_
    | with_reducible refine State.arrayFlags_keeps ?_
    | with_reducible refine Keeps.ite ?_ ?_
    | split

theorem State.skipFor_keeps {s₀ : State} {s : State} {n : Port} {d : Delivery} {k : Fin 192} (h : Keeps s₀ s) :
    Keeps s₀ (State.skipFor s n d k) := by
  unfold State.skipFor
  try dsimp only
  repeat' first
    | with_reducible exact h
    | with_reducible refine State.resolve_keeps ?_
    | with_reducible refine State.bump_keeps ?_

theorem State.offerTo_keeps {s₀ : State} {s : State} {n : Port} {d : Delivery} {k : Fin 192} {t : StallId} {decim : Bool} (h : Keeps s₀ s) :
    Keeps s₀ (State.offerTo s n d k t decim) := by
  unfold State.offerTo
  try dsimp only
  repeat' first
    | with_reducible exact h
    | with_reducible refine State.skipFor_keeps ?_
    | with_reducible refine State.modStall_keeps ?_
    | with_reducible refine State.writeDescriptor_keeps ?_
    | with_reducible refine State.modPitch_keeps ?_
    | with_reducible refine State.put_keeps ?_
    | with_reducible refine State.bump_keeps ?_
    | with_reducible refine Keeps.ite ?_ ?_

theorem State.markSlow_keeps {s₀ : State} {s : State} {t : StallId} (h : Keeps s₀ s) :
    Keeps s₀ (State.markSlow s t) := by
  unfold State.markSlow
  try dsimp only
  repeat' first
    | with_reducible exact h
    | with_reducible refine State.logFlag_keeps ?_
    | with_reducible refine State.modStall_keeps ?_
    | with_reducible refine Keeps.ite ?_ ?_

theorem State.offer_keeps {s₀ : State} {s : State} {n : Port} {d : Delivery} {k : Fin 192} (h : Keeps s₀ s) :
    Keeps s₀ (State.offer s n d k) := by
  unfold State.offer
  try dsimp only
  repeat' first
    | with_reducible exact h
    | with_reducible refine State.resolve_keeps ?_
    | with_reducible refine State.modPitch_keeps ?_
    | with_reducible refine State.skipFor_keeps ?_
    | with_reducible refine State.offerTo_keeps ?_
    | with_reducible refine State.markSlow_keeps ?_
    | with_reducible refine Keeps.ite ?_ ?_
    | split

theorem State.releaseBuffer_keeps {s₀ : State} {s : State} {n : Port} {d : BitVec 32} (h : Keeps s₀ s) :
    Keeps s₀ (State.releaseBuffer s n d) := by
  unfold State.releaseBuffer
  try dsimp only
  repeat' first
    | with_reducible exact h
    | with_reducible refine releaseEff_keeps ?_
    | with_reducible refine Keeps.ite ?_ ?_
    | (fail_if_no_progress with_reducible refine Keeps.mk_same ?_ rfl)
    | split

theorem State.readSpectrum_keeps {s₀ : State} {s : State} {n : Port} {d : BitVec 32} {k : Fin 192} {g : Fin 16} (h : Keeps s₀ s) :
    Keeps s₀ (State.readSpectrum s n d k g) := by
  unfold State.readSpectrum
  try dsimp only
  repeat' first
    | with_reducible exact h
    | with_reducible refine State.seePoison_keeps ?_
    | (fail_if_no_progress with_reducible refine Keeps.mk_same ?_ rfl)
    | split

theorem State.fitBlock_keeps {s₀ : State} {s : State} {g : Fin 16} {n : Port} {d : BitVec 32} {k : Fin 192} (h : Keeps s₀ s) :
    Keeps s₀ (State.fitBlock s g n d k) := by
  unfold State.fitBlock
  try dsimp only
  repeat' first
    | with_reducible exact h
    | with_reducible refine State.readSpectrum_keeps ?_
    | with_reducible refine Keeps.ite ?_ ?_
    | (fail_if_no_progress with_reducible refine Keeps.mk_same ?_ rfl)

theorem State.ringPut_keeps {s₀ : State} {s : State} {n : Port} {d : Delivery} (h : Keeps s₀ s) :
    Keeps s₀ (State.ringPut s n d) := by
  unfold State.ringPut
  try dsimp only
  repeat' first
    | with_reducible exact h
    | with_reducible refine State.modPipe_keeps ?_
    | with_reducible refine State.dropFlips_keeps ?_
    | with_reducible refine State.overtake_keeps ?_
    | with_reducible refine Keeps.ite ?_ ?_
    | (fail_if_no_progress with_reducible refine Keeps.mk_same ?_ rfl)

theorem State.openRecords_keeps {s₀ : State} {s : State} {n : Port} {d : Delivery} (h : Keeps s₀ s) :
    Keeps s₀ (State.openRecords s n d) := by
  unfold State.openRecords
  try dsimp only
  repeat' first
    | with_reducible exact h
    | with_reducible refine Keeps.ite ?_ ?_
    | with_reducible refine Keeps.foldl ?_ ?_
    | (intro u a b; try beta_reduce)
    | with_reducible assumption
    | (fail_if_no_progress with_reducible refine Keeps.mk_same ?_ rfl)

theorem State.streamDelivery_keeps {s₀ : State} {s : State} {n : Port} {d : Delivery} (h : Keeps s₀ s) :
    Keeps s₀ (State.streamDelivery s n d) := by
  unfold State.streamDelivery
  try dsimp only
  repeat' first
    | with_reducible exact h
    | with_reducible refine State.toStreams_keeps ?_

theorem State.movesDue_keeps {s₀ : State} {s : State} {n : Port} {d : Delivery} (h : Keeps s₀ s) :
    Keeps s₀ (State.movesDue s n d) := by
  unfold State.movesDue
  try dsimp only
  repeat' first
    | with_reducible exact h
    | with_reducible refine State.finishReplacement_keeps ?_
    | with_reducible refine State.slowMove_keeps ?_
    | with_reducible refine Keeps.foldl ?_ ?_
    | (intro u a b; try beta_reduce)
    | with_reducible assumption
    | with_reducible refine Keeps.ite ?_ ?_
    | (fail_if_no_progress with_reducible refine Keeps.mk_same ?_ rfl)
    | split

theorem State.completeDelivery_keeps {s₀ : State} {s : State} {n : Port} {d : Delivery} (h : Keeps s₀ s) :
    Keeps s₀ (State.completeDelivery s n d) := by
  unfold State.completeDelivery
  try dsimp only
  repeat' first
    | with_reducible exact h
    | with_reducible refine State.commitIf_keeps ?_
    | with_reducible refine State.modPipe_keeps ?_
    | with_reducible refine State.applyPitch_keeps ?_
    | with_reducible refine State.ringPut_keeps ?_
    | with_reducible refine State.movesDue_keeps ?_
    | with_reducible refine State.openRecords_keeps ?_
    | with_reducible refine State.offer_keeps ?_
    | with_reducible refine State.releasePort_keeps ?_
    | with_reducible refine State.releaseBuffer_keeps ?_
    | with_reducible refine State.streamDelivery_keeps ?_
    | with_reducible refine Keeps.ite ?_ ?_
    | with_reducible refine Keeps.foldl ?_ ?_
    | (intro u a b; try beta_reduce)
    | with_reducible assumption

theorem imageEff_keeps {s₀ : State} {s : State} {g : Fin 16} {l : List Byte} {signed : Bool} (h : Keeps s₀ s) :
    Keeps s₀ (imageEff s g l signed) := by
  unfold imageEff
  try dsimp only
  repeat' first
    | with_reducible exact h
    | with_reducible refine State.modProgram_keeps ?_
    | with_reducible refine State.put_keeps ?_
    | with_reducible refine State.placedCheck_keeps ?_
    | with_reducible refine State.startReplacement_keeps ?_
    | with_reducible refine Keeps.ite ?_ ?_

theorem ringHolder_kept {s : State} {n : Port} {a : Nat} {x : Holder} (e : ringHolder s n a = some x) : x.Kept := by
  unfold ringHolder at e
  dsimp only at e
  split at e
  · cases e
  · obtain ⟨_, _, rfl⟩ := Option.map_eq_some_iff.mp e
    intro _ _ _ _ h
    dsimp only
    exact State.refresh_keeps (by with_reducible exact State.modPipe_keeps h)

end Sys2Proof.Machine
end

