-- ==== Sys2Proof/Laws/Porter.lean ====
section
/-! SUPPORT. What the operations of Machine/Porter.lean keep, one lemma each (Keeps, Completes: Laws/Keeps.lean). -/

/- One declaration after another: side by side they would need more memory. -/
set_option Elab.async false

namespace Sys2Proof.Machine

theorem State.syncFlags_keeps {s₀ : State} {s : State} {t : StallId} (h : Keeps s₀ s) :
    Keeps s₀ (State.syncFlags s t) := by
  unfold State.syncFlags
  try dsimp only
  repeat' first
    | with_reducible exact h
    | with_reducible refine State.put_keeps ?_

theorem State.takeTrap_keeps {s₀ : State} {s : State} {t : StallId} {cause : Nat} (h : Keeps s₀ s) :
    Keeps s₀ (State.takeTrap s t cause) := by
  unfold State.takeTrap
  try dsimp only
  repeat' first
    | with_reducible exact h
    | with_reducible refine State.fatalFault_keeps ?_
    | with_reducible refine State.bump_keeps ?_
    | with_reducible refine State.modStall_keeps ?_
    | with_reducible refine Keeps.ite ?_ ?_

theorem State.takePending_keeps {s₀ : State} {s : State} {t : StallId} (h : Keeps s₀ s) :
    Keeps s₀ (State.takePending s t) := by
  unfold State.takePending
  try dsimp only
  repeat' first
    | with_reducible exact h
    | with_reducible refine State.modStall_keeps ?_
    | with_reducible refine State.takeTrap_keeps ?_
    | with_reducible refine Keeps.ite ?_ ?_
    | split

theorem State.raiseFlag_keeps {s₀ : State} {s : State} {t : StallId} {b : Fin 6} (h : Keeps s₀ s) :
    Keeps s₀ (State.raiseFlag s t b) := by
  unfold State.raiseFlag
  try dsimp only
  repeat' first
    | with_reducible exact h
    | with_reducible refine State.syncFlags_keeps ?_
    | with_reducible refine State.modStall_keeps ?_
    | with_reducible refine State.takePending_keeps ?_
    | with_reducible refine Keeps.ite ?_ ?_

theorem State.completeTag_keeps {s₀ : State} {s : State} {t : StallId} {g : Fin 16} {st : Nat} (h : Keeps s₀ s) :
    Keeps s₀ (State.completeTag s t g st) := by
  unfold State.completeTag
  try dsimp only
  repeat' first
    | with_reducible exact h
    | with_reducible refine State.modStall_keeps ?_
    | with_reducible refine State.raiseFlag_keeps ?_
    | split

theorem State.drewLocal_keeps {s₀ : State} {s : State} {t : StallId} {n : Nat} (h : Keeps s₀ s) :
    Keeps s₀ (State.drewLocal s t n) := by
  unfold State.drewLocal
  try dsimp only
  repeat' first
    | with_reducible exact h
    | with_reducible refine Keeps.ite ?_ ?_
    | (fail_if_no_progress with_reducible refine Keeps.mk_draw ?_ rfl)

theorem State.drewMany_keeps {s₀ : State} {s : State} {n : Nat} (h : Keeps s₀ s) :
    Keeps s₀ (State.drewMany s n) := by
  unfold State.drewMany
  try dsimp only
  repeat' first
    | with_reducible exact h
    | (fail_if_no_progress with_reducible refine Keeps.mk_draw ?_ rfl)

theorem storeRows_keeps {s₀ : State} {t : StallId} {z1 : State} {z2 : List ((Int × Int) × List (List Byte × Bool))} (h : Keeps s₀ z1) :
    Keeps s₀ (storeRows t z1 z2) := by
  induction z2 generalizing z1 with
  | nil => exact h
  | cons e r ih => exact ih (State.storeWords_keeps h)

theorem State.readSlot_keeps {s₀ : State} {s : State} {n : Port} {d : List Byte} {v : Delivery} (h : Keeps s₀ s) :
    Keeps s₀ (State.readSlot s n d v) := by
  unfold State.readSlot
  try dsimp only
  repeat' first
    | with_reducible exact h
    | exact ringHolder_kept (by assumption)
    | with_reducible refine State.readAt_keeps ?_ ?_
    | with_reducible refine Keeps.foldl ?_ ?_
    | (intro u a b; try beta_reduce)
    | with_reducible assumption
    | with_reducible refine Keeps.ite ?_ ?_
    | (fail_if_no_progress with_reducible refine Keeps.mk_same ?_ rfl)
    | split

theorem State.getRing_keeps {s₀ : State} {s : State} {t : StallId} {g : Fin 16} {d : List Byte} (h : Keeps s₀ s) :
    Keeps s₀ (State.getRing s t g d) := by
  unfold State.getRing
  try dsimp only
  repeat' first
    | with_reducible exact h
    | with_reducible refine State.completeTag_keeps ?_
    | with_reducible refine storeRows_keeps ?_
    | with_reducible refine State.readSlot_keeps ?_
    | with_reducible refine State.drewMany_keeps ?_
    | with_reducible refine State.bump_keeps ?_
    | with_reducible refine Keeps.ite ?_ ?_
    | (fail_if_no_progress with_reducible refine Keeps.mk_same ?_ rfl)
    | (fail_if_no_progress with_reducible refine Keeps.mk_draw ?_ rfl)
    | split

theorem State.readRows_keeps {s₀ : State} {s : State} {n : Nat} {l : List Nat} (h : Keeps s₀ s) :
    Keeps s₀ (State.readRows s n l) := by
  unfold State.readRows
  try dsimp only
  repeat' first
    | with_reducible exact h
    | with_reducible refine State.seePoison_keeps ?_
    | with_reducible refine Keeps.foldl ?_ ?_
    | (intro u a b; try beta_reduce)
    | with_reducible assumption

theorem State.doGet_keeps {s₀ : State} {s : State} {t : StallId} {g : Fin 16} {d : List Byte} (h : Keeps s₀ s) :
    Keeps s₀ (State.doGet s t g d) := by
  unfold State.doGet
  try dsimp only
  repeat' first
    | with_reducible exact h
    | with_reducible refine State.completeTag_keeps ?_
    | with_reducible refine State.getRing_keeps ?_
    | with_reducible refine State.readRows_keeps ?_
    | with_reducible refine storeRows_keeps ?_
    | with_reducible refine Keeps.ite ?_ ?_
    | (fail_if_no_progress with_reducible refine Keeps.mk_same ?_ rfl)
    | split

theorem storeRemote_keeps {s₀ : State} {z0 : State} {z1 : List (Nat × List (List Byte × Bool))} (h : Keeps s₀ z0) :
    Keeps s₀ (storeRemote z0 z1) := by
  induction z1 generalizing z0 with
  | nil => exact h
  | cons e r ih => exact ih (State.storeWords_keeps h)

theorem State.putResult_keeps {s₀ : State} {s : State} {t : StallId} {g : Fin 16} {d : List Byte} (h : Keeps s₀ s) :
    Keeps s₀ (State.putResult s t g d) := by
  unfold State.putResult
  try dsimp only
  repeat' first
    | with_reducible exact h
    | with_reducible refine State.completeTag_keeps ?_
    | with_reducible refine State.seePoison_keeps ?_
    | with_reducible refine Keeps.ite ?_ ?_
    | (fail_if_no_progress with_reducible refine Keeps.mk_same ?_ rfl)
    | (fail_if_no_progress with_reducible refine Keeps.mk_draw ?_ rfl)
    | split

theorem State.doPut_keeps {s₀ : State} {s : State} {t : StallId} {g : Fin 16} {d : List Byte} (h : Keeps s₀ s) :
    Keeps s₀ (State.doPut s t g d) := by
  unfold State.doPut
  try dsimp only
  repeat' first
    | with_reducible exact h
    | with_reducible refine State.completeTag_keeps ?_
    | with_reducible refine State.putResult_keeps ?_
    | with_reducible refine State.readRows_keeps ?_
    | with_reducible refine storeRemote_keeps ?_
    | with_reducible refine State.drewLocal_keeps ?_
    | with_reducible refine Keeps.ite ?_ ?_
    | (fail_if_no_progress with_reducible refine Keeps.mk_same ?_ rfl)
    | split

theorem withFlight_keeps {s₀ : State} {s : State} {t : StallId} {g : Fin 16} {kind : Nat} {f : Transaction → State} (h : Keeps s₀ s) (hf : ∀ x, Keeps s₀ (f x)) :
    Completes s₀ (withFlight s t g kind f) := by
  unfold withFlight
  try dsimp only
  repeat' first
    | with_reducible exact h
    | with_reducible refine hf _
    | with_reducible refine Completes.next ?_
    | split

theorem withPorter_keeps {s₀ : State} {s : State} {t : StallId} {g : Fin 16} {kind : Nat} {path : PathCheck}
    {f : State → List Byte → State} (h : Keeps s₀ s) (hf : ∀ u d, Keeps s₀ u → Keeps s₀ (f u d)) :
    Completes s₀ (withPorter s t g kind path f) := by
  unfold withPorter
  try dsimp only
  repeat' first
    | with_reducible exact h
    | with_reducible refine withFlight_keeps ?_ ?_
    | with_reducible refine State.bump_keeps ?_
    | with_reducible refine State.fatalFault_keeps ?_
    | with_reducible refine hf _ _ ?_
    | (intro tr; try beta_reduce)
    | with_reducible assumption
    | with_reducible refine Completes.next ?_
    | (fail_if_no_progress with_reducible refine Keeps.mk_same ?_ rfl)
    | split

theorem execGet_keeps {s₀ : State} {t : StallId} {g : Fin 16} {path : PathCheck} {s : State} (h : Keeps s₀ s) :
    Completes s₀ (execGet t g path s) := by
  unfold execGet
  try dsimp only
  repeat' first
    | with_reducible exact h
    | with_reducible refine withPorter_keeps ?_ ?_
    | (intro u d b; try beta_reduce)
    | with_reducible assumption
    | with_reducible refine State.doGet_keeps ?_
    | with_reducible refine Completes.next ?_
    | (fail_if_no_progress with_reducible refine Keeps.mk_same ?_ rfl)

theorem execPut_keeps {s₀ : State} {t : StallId} {g : Fin 16} {path : PathCheck} {s : State} (h : Keeps s₀ s) :
    Completes s₀ (execPut t g path s) := by
  unfold execPut
  try dsimp only
  repeat' first
    | with_reducible exact h
    | with_reducible refine withPorter_keeps ?_ ?_
    | (intro u d b; try beta_reduce)
    | with_reducible assumption
    | with_reducible refine State.doPut_keeps ?_
    | with_reducible refine Completes.next ?_
    | (fail_if_no_progress with_reducible refine Keeps.mk_same ?_ rfl)

theorem execGet2d_keeps {s₀ : State} {t : StallId} {g : Fin 16} {path : PathCheck} {s : State} (h : Keeps s₀ s) :
    Completes s₀ (execGet2d t g path s) := by
  unfold execGet2d
  try dsimp only
  repeat' first
    | with_reducible exact h
    | with_reducible refine withPorter_keeps ?_ ?_
    | (intro u d b; try beta_reduce)
    | with_reducible assumption
    | with_reducible refine State.doGet_keeps ?_
    | with_reducible refine Completes.next ?_
    | (fail_if_no_progress with_reducible refine Keeps.mk_same ?_ rfl)

theorem execPut2d_keeps {s₀ : State} {t : StallId} {g : Fin 16} {path : PathCheck} {s : State} (h : Keeps s₀ s) :
    Completes s₀ (execPut2d t g path s) := by
  unfold execPut2d
  try dsimp only
  repeat' first
    | with_reducible exact h
    | with_reducible refine withPorter_keeps ?_ ?_
    | (intro u d b; try beta_reduce)
    | with_reducible assumption
    | with_reducible refine State.doPut_keeps ?_
    | with_reducible refine Completes.next ?_
    | (fail_if_no_progress with_reducible refine Keeps.mk_same ?_ rfl)

theorem State.seeDone_keeps {s₀ : State} {s : State} {t : StallId} {k : Fin 192} {v : BitVec 32} (h : Keeps s₀ s) :
    Keeps s₀ (State.seeDone s t k v) := by
  unfold State.seeDone
  try dsimp only
  repeat' first
    | with_reducible exact h
    | with_reducible refine State.modPitch_keeps ?_
    | with_reducible refine State.put_keeps ?_
    | with_reducible refine State.drawn_keeps ?_

theorem State.doDone_keeps {s₀ : State} {s : State} {t : StallId} {g : Fin 16} {d : List Byte} (h : Keeps s₀ s) :
    Keeps s₀ (State.doDone s t g d) := by
  unfold State.doDone
  try dsimp only
  repeat' first
    | with_reducible exact h
    | with_reducible refine State.completeTag_keeps ?_
    | with_reducible refine State.seeDone_keeps ?_
    | with_reducible refine State.fitBlock_keeps ?_
    | with_reducible refine State.resolve_keeps ?_
    | with_reducible refine State.releaseBuffer_keeps ?_
    | with_reducible refine State.release_keeps ?_
    | with_reducible refine State.bump_keeps ?_
    | with_reducible refine State.reloadAtDone_keeps ?_
    | with_reducible refine Keeps.ite ?_ ?_
    | (fail_if_no_progress with_reducible refine Keeps.mk_same ?_ rfl)
    | split

theorem execDone_keeps {s₀ : State} {t : StallId} {g : Fin 16} {s : State} (h : Keeps s₀ s) :
    Completes s₀ (execDone t g s) := by
  unfold execDone
  try dsimp only
  repeat' first
    | with_reducible exact h
    | with_reducible refine withFlight_keeps ?_ ?_
    | with_reducible refine State.doDone_keeps ?_
    | with_reducible refine Keeps.ite ?_ ?_
    | (intro b; try beta_reduce)

theorem execTrig_keeps {s₀ : State} {t : StallId} {g : Fin 16} {s : State} (h : Keeps s₀ s) :
    Completes s₀ (execTrig t g s) := by
  unfold execTrig
  try dsimp only
  repeat' first
    | with_reducible exact h
    | with_reducible refine withFlight_keeps ?_ ?_
    | with_reducible refine State.completeTag_keeps ?_
    | with_reducible refine State.bump_keeps ?_
    | (intro b; try beta_reduce)
    | with_reducible assumption
    | with_reducible refine Keeps.ite ?_ ?_
    | with_reducible refine Completes.next ?_
    | (fail_if_no_progress with_reducible refine Keeps.mk_same ?_ rfl)

theorem execMail_keeps {s₀ : State} {t : StallId} {g : Fin 16} {s : State} (h : Keeps s₀ s) :
    Completes s₀ (execMail t g s) := by
  unfold execMail
  try dsimp only
  repeat' first
    | with_reducible exact h
    | with_reducible refine withFlight_keeps ?_ ?_
    | with_reducible refine State.completeTag_keeps ?_
    | (intro b; try beta_reduce)
    | with_reducible assumption
    | with_reducible refine Keeps.ite ?_ ?_
    | with_reducible refine Completes.next ?_
    | (fail_if_no_progress with_reducible refine Keeps.mk_same ?_ rfl)

end Sys2Proof.Machine
end

