-- ==== Sys2Proof/Laws/StallCore.lean ====
section
/-! SUPPORT. What the operations of Machine/StallCore.lean keep, one lemma each (Keeps, Completes: Laws/Keeps.lean). -/

/- One declaration after another: side by side they would need more memory. -/
set_option Elab.async false

namespace Sys2Proof.Machine

theorem trapOut_keeps {s₀ : State} {s : State} {c : Nat} (h : Keeps s₀ s) :
    Keeps s₀ (trapOut s c).st := by
  unfold trapOut
  try dsimp only
  repeat' with_reducible exact h

theorem State.debugHaltStall_keeps {s₀ : State} {s : State} {t : StallId} (h : Keeps s₀ s) :
    Keeps s₀ (State.debugHaltStall s t) := by
  unfold State.debugHaltStall
  try dsimp only
  repeat' first
    | with_reducible exact h
    | with_reducible refine State.put_keeps ?_
    | with_reducible refine State.modStall_keeps ?_
    | with_reducible refine State.releasePort_keeps ?_
    | with_reducible refine Keeps.foldl ?_ ?_
    | (intro u a b; try beta_reduce)
    | with_reducible assumption
    | (fail_if_no_progress with_reducible refine Keeps.mk_same ?_ rfl)

theorem State.finish_keeps {s₀ : State} {s : State} {t : StallId} {before : Stall} {o : StallOut} (h : Keeps s₀ s) (hf : Keeps s₀ o.st) :
    Keeps s₀ (State.finish s t before o) := by
  unfold State.finish
  try dsimp only
  repeat' first
    | with_reducible exact h
    | with_reducible refine State.takeTrap_keeps ?_
    | with_reducible refine State.modStall_keeps ?_
    | with_reducible refine State.raiseFlag_keeps ?_
    | with_reducible refine State.debugHaltStall_keeps ?_
    | with_reducible refine hf
    | with_reducible refine Keeps.ite ?_ ?_
    | split

theorem State.issue_keeps {s₀ : State} {s : State} {t : StallId} {control : Bool} {f : State → Stall → StallOut} (h : Keeps s₀ s)
    (hf : ∀ u x, Keeps s₀ u → Keeps s₀ (f u x).st) :
    Completes s₀ (State.issue s t control f) := by
  unfold State.issue
  try dsimp only
  repeat' first
    | with_reducible exact h
    | with_reducible refine hf _ _ ?_
    | with_reducible refine State.debugHaltStall_keeps ?_
    | with_reducible refine State.seePoison_keeps ?_
    | with_reducible refine State.fatalFault_keeps ?_
    | with_reducible refine State.modStall_keeps ?_
    | with_reducible refine State.takeTrap_keeps ?_
    | with_reducible refine State.finish_keeps ?_ ?_
    | (intro u a b; try beta_reduce)
    | with_reducible assumption
    | with_reducible refine Keeps.ite ?_ ?_
    | with_reducible refine Completes.next ?_
    | (fail_if_no_progress with_reducible refine Keeps.mk_same ?_ rfl)

theorem regOp_keeps {s₀ : State} {t : StallId} {f : Stall → Stall} {s : State} (h : Keeps s₀ s) :
    Completes s₀ (regOp t f s) := by
  unfold regOp
  try dsimp only
  repeat' first
    | with_reducible exact h
    | with_reducible refine State.issue_keeps ?_ ?_
    | with_reducible refine State.modStall_keeps ?_
    | (intro u a b; try beta_reduce)
    | with_reducible assumption

end Sys2Proof.Machine
end

