-- ==== Sys2Proof/Laws/Accum.lean ====
section
/-! SUPPORT. What the operations of Machine/Accum.lean keep, one lemma each (Keeps, Completes: Laws/Keeps.lean). -/

/- One declaration after another: side by side they would need more memory. -/
set_option Elab.async false

namespace Sys2Proof.Machine

theorem accWrite_keeps {s₀ : State} {t : StallId} {an : Fin 8} {legal : Bool} {f : Stall → AReg × Bool} {s : State} (h : Keeps s₀ s) :
    Completes s₀ (accWrite t an legal f s) := by
  unfold accWrite
  try dsimp only
  repeat' first
    | with_reducible exact h
    | with_reducible refine State.issue_keeps ?_ ?_
    | with_reducible refine State.modStall_keeps ?_
    | with_reducible refine trapOut_keeps ?_
    | (intro u a b; try beta_reduce)
    | with_reducible assumption
    | split

theorem execMpy_keeps {s₀ : State} {t : StallId} {an : Fin 8} {da : Fin 64} {db : Fin 64} {sm : BitVec 2} {bc : BitVec 3} {s : State} (h : Keeps s₀ s) :
    Completes s₀ (execMpy t an da db sm bc s) := by
  unfold execMpy
  try dsimp only
  repeat' first
    | with_reducible exact h
    | with_reducible refine accWrite_keeps ?_

theorem execMac_keeps {s₀ : State} {t : StallId} {an : Fin 8} {da : Fin 64} {db : Fin 64} {sm : BitVec 2} {bc : BitVec 3} {s : State} (h : Keeps s₀ s) :
    Completes s₀ (execMac t an da db sm bc s) := by
  unfold execMac
  try dsimp only
  repeat' first
    | with_reducible exact h
    | with_reducible refine accWrite_keeps ?_

theorem execMsu_keeps {s₀ : State} {t : StallId} {an : Fin 8} {da : Fin 64} {db : Fin 64} {sm : BitVec 2} {bc : BitVec 3} {s : State} (h : Keeps s₀ s) :
    Completes s₀ (execMsu t an da db sm bc s) := by
  unfold execMsu
  try dsimp only
  repeat' first
    | with_reducible exact h
    | with_reducible refine accWrite_keeps ?_

theorem execCmac_keeps {s₀ : State} {t : StallId} {an : Fin 8} {da : Fin 64} {db : Fin 64} {sm : BitVec 2} {bc : BitVec 3} {cj : Bool} {s : State} (h : Keeps s₀ s) :
    Completes s₀ (execCmac t an da db sm bc cj s) := by
  unfold execCmac
  try dsimp only
  repeat' first
    | with_reducible exact h
    | with_reducible refine accWrite_keeps ?_

theorem execClra_keeps {s₀ : State} {t : StallId} {an : Fin 8} {_am : Fin 8} {_dx : Fin 64} {_imm : BitVec 6} {s : State} (h : Keeps s₀ s) :
    Completes s₀ (execClra t an _am _dx _imm s) := by
  unfold execClra
  try dsimp only
  repeat' first
    | with_reducible exact h
    | with_reducible refine accWrite_keeps ?_

theorem execMova_keeps {s₀ : State} {t : StallId} {an : Fin 8} {am : Fin 8} {_dx : Fin 64} {_imm : BitVec 6} {s : State} (h : Keeps s₀ s) :
    Completes s₀ (execMova t an am _dx _imm s) := by
  unfold execMova
  try dsimp only
  repeat' first
    | with_reducible exact h
    | with_reducible refine accWrite_keeps ?_

theorem execAdda_keeps {s₀ : State} {t : StallId} {an : Fin 8} {am : Fin 8} {_dx : Fin 64} {_imm : BitVec 6} {s : State} (h : Keeps s₀ s) :
    Completes s₀ (execAdda t an am _dx _imm s) := by
  unfold execAdda
  try dsimp only
  repeat' first
    | with_reducible exact h
    | with_reducible refine accWrite_keeps ?_

theorem execSuba_keeps {s₀ : State} {t : StallId} {an : Fin 8} {am : Fin 8} {_dx : Fin 64} {_imm : BitVec 6} {s : State} (h : Keeps s₀ s) :
    Completes s₀ (execSuba t an am _dx _imm s) := by
  unfold execSuba
  try dsimp only
  repeat' first
    | with_reducible exact h
    | with_reducible refine accWrite_keeps ?_

theorem execShla_keeps {s₀ : State} {t : StallId} {an : Fin 8} {_am : Fin 8} {_dx : Fin 64} {imm : BitVec 6} {s : State} (h : Keeps s₀ s) :
    Completes s₀ (execShla t an _am _dx imm s) := by
  unfold execShla
  try dsimp only
  repeat' first
    | with_reducible exact h
    | with_reducible refine accWrite_keeps ?_

theorem execSraa_keeps {s₀ : State} {t : StallId} {an : Fin 8} {_am : Fin 8} {_dx : Fin 64} {imm : BitVec 6} {s : State} (h : Keeps s₀ s) :
    Completes s₀ (execSraa t an _am _dx imm s) := by
  unfold execSraa
  try dsimp only
  repeat' first
    | with_reducible exact h
    | with_reducible refine accWrite_keeps ?_

theorem execReda_keeps {s₀ : State} {t : StallId} {an : Fin 8} {am : Fin 8} {_dx : Fin 64} {_imm : BitVec 6} {s : State} (h : Keeps s₀ s) :
    Completes s₀ (execReda t an am _dx _imm s) := by
  unfold execReda
  try dsimp only
  repeat' first
    | with_reducible exact h
    | with_reducible refine accWrite_keeps ?_

theorem execLda_keeps {s₀ : State} {t : StallId} {an : Fin 8} {_am : Fin 8} {dx : Fin 64} {imm : BitVec 6} {s : State} (h : Keeps s₀ s) :
    Completes s₀ (execLda t an _am dx imm s) := by
  unfold execLda
  try dsimp only
  repeat' first
    | with_reducible exact h
    | with_reducible refine accWrite_keeps ?_

theorem execNega_keeps {s₀ : State} {t : StallId} {an : Fin 8} {_am : Fin 8} {_dx : Fin 64} {_imm : BitVec 6} {s : State} (h : Keeps s₀ s) :
    Completes s₀ (execNega t an _am _dx _imm s) := by
  unfold execNega
  try dsimp only
  repeat' first
    | with_reducible exact h
    | with_reducible refine accWrite_keeps ?_

theorem execAbsa_keeps {s₀ : State} {t : StallId} {an : Fin 8} {_am : Fin 8} {_dx : Fin 64} {_imm : BitVec 6} {s : State} (h : Keeps s₀ s) :
    Completes s₀ (execAbsa t an _am _dx _imm s) := by
  unfold execAbsa
  try dsimp only
  repeat' first
    | with_reducible exact h
    | with_reducible refine accWrite_keeps ?_

theorem execNorm_keeps {s₀ : State} {t : StallId} {an : Fin 8} {_am : Fin 8} {dx : Fin 64} {_imm : BitVec 6} {s : State} (h : Keeps s₀ s) :
    Completes s₀ (execNorm t an _am dx _imm s) := by
  unfold execNorm
  try dsimp only
  repeat' first
    | with_reducible exact h
    | with_reducible refine regOp_keeps ?_

theorem execExp_keeps {s₀ : State} {t : StallId} {an : Fin 8} {_am : Fin 8} {dx : Fin 64} {_imm : BitVec 6} {s : State} (h : Keeps s₀ s) :
    Completes s₀ (execExp t an _am dx _imm s) := by
  unfold execExp
  try dsimp only
  repeat' first
    | with_reducible exact h
    | with_reducible refine regOp_keeps ?_

theorem execSta_keeps {s₀ : State} {t : StallId} {an : Fin 8} {dx : Fin 64} {imm : BitVec 6} {s : State} (h : Keeps s₀ s) :
    Completes s₀ (execSta t an dx imm s) := by
  unfold execSta
  try dsimp only
  repeat' first
    | with_reducible exact h
    | with_reducible refine State.issue_keeps ?_ ?_
    | with_reducible refine trapOut_keeps ?_
    | with_reducible refine State.modStall_keeps ?_
    | (intro u a b; try beta_reduce)
    | with_reducible assumption
    | split

end Sys2Proof.Machine
end

