-- ==== Sys2Proof/Laws/Mirror.lean ====
section
/-! SUPPORT. What the operations of Machine/Mirror.lean keep, one lemma each (Keeps, Completes: Laws/Keeps.lean). -/

/- One declaration after another: side by side they would need more memory. -/
set_option Elab.async false

namespace Sys2Proof.Machine

theorem State.sendPiece_keeps {s₀ : State} {s : State} {b : AggonBody} (h : Keeps s₀ s) :
    Keeps s₀ (State.sendPiece s b) := by
  unfold State.sendPiece
  try dsimp only
  repeat' first
    | with_reducible exact h
    | with_reducible refine State.sendFrame_keeps ?_
    | (fail_if_no_progress with_reducible refine Keeps.mk_same ?_ rfl)
    | split

theorem State.putSending_keeps {s₀ : State} {s : State} {e : MirrorSend} (h : Keeps s₀ s) :
    Keeps s₀ (State.putSending s e) := by
  unfold State.putSending
  try dsimp only
  repeat' first
    | with_reducible exact h
    | (fail_if_no_progress with_reducible refine Keeps.mk_same ?_ rfl)

theorem State.sendPieces_keeps {s₀ : State} {s : State} {ps : List AggonBody} {bytes : Nat} (h : Keeps s₀ s) :
    Keeps s₀ (State.sendPieces s ps bytes) := by
  unfold State.sendPieces
  try dsimp only
  repeat' first
    | with_reducible exact h
    | with_reducible refine State.sendPiece_keeps ?_
    | with_reducible refine Keeps.foldl ?_ ?_
    | (intro u a b; try beta_reduce)
    | with_reducible assumption
    | with_reducible refine Keeps.ite ?_ ?_
    | (fail_if_no_progress with_reducible refine Keeps.mk_same ?_ rfl)

theorem State.mirrorWords_keeps {s₀ : State} {s : State} {n : Port} {d : Delivery} {whole : Bool} (h : Keeps s₀ s) :
    Keeps s₀ (State.mirrorWords s n d whole) := by
  unfold State.mirrorWords
  try dsimp only
  repeat' first
    | with_reducible exact h
    | with_reducible refine State.putSending_keeps ?_
    | with_reducible refine State.bump_keeps ?_
    | with_reducible refine State.sendPieces_keeps ?_
    | with_reducible refine Keeps.ite ?_ ?_
    | (fail_if_no_progress with_reducible refine Keeps.mk_same ?_ rfl)

theorem State.mirrorQueue_keeps {s₀ : State} {s : State} {n : Port} (h : Keeps s₀ s) :
    Keeps s₀ (State.mirrorQueue s n) := by
  unfold State.mirrorQueue
  try dsimp only
  repeat' first
    | with_reducible exact h
    | with_reducible refine State.mirrorWords_keeps ?_
    | with_reducible refine Keeps.foldl ?_ ?_
    | (intro u a b; try beta_reduce)
    | with_reducible assumption

theorem State.mirrorDelivery_keeps {s₀ : State} {s : State} {n : Port} {d : Delivery} (h : Keeps s₀ s) :
    Keeps s₀ (State.mirrorDelivery s n d) := by
  unfold State.mirrorDelivery
  try dsimp only
  repeat' first
    | with_reducible exact h
    | with_reducible refine State.mirrorWords_keeps ?_
    | (fail_if_no_progress with_reducible refine Keeps.mk_same ?_ rfl)

theorem State.drainMirror_keeps {s₀ : State} {s : State} (h : Keeps s₀ s) :
    Keeps s₀ (State.drainMirror s) := by
  unfold State.drainMirror
  try dsimp only
  repeat' first
    | with_reducible exact h
    | with_reducible refine State.flushOutbox_keeps ?_
    | with_reducible refine State.sendPiece_keeps ?_
    | with_reducible refine Keeps.foldl ?_ ?_
    | (intro u a b; try beta_reduce)
    | with_reducible assumption
    | with_reducible refine Keeps.ite ?_ ?_
    | (fail_if_no_progress with_reducible refine Keeps.mk_same ?_ rfl)

theorem State.mirrorRate_keeps {s₀ : State} {s : State} (h : Keeps s₀ s) :
    Keeps s₀ (State.mirrorRate s) := by
  unfold State.mirrorRate
  try dsimp only
  repeat' first
    | with_reducible exact h
    | with_reducible refine State.put_keeps ?_
    | with_reducible refine State.putBit_keeps ?_
    | (fail_if_no_progress with_reducible refine Keeps.mk_same ?_ rfl)

end Sys2Proof.Machine
end

