-- ==== Sys2Proof/Laws/Raman.lean ====
section
/-! SUPPORT. What the operations of Machine/Raman.lean keep, one lemma each (Keeps, Completes: Laws/Keeps.lean). -/

/- One declaration after another: side by side they would need more memory. -/
set_option Elab.async false

namespace Sys2Proof.Machine

theorem State.modSet_keeps {s₀ : State} {s : State} {n : Port} {a : Fin 8} {f : AvgSet → AvgSet} (h : Keeps s₀ s) :
    Keeps s₀ (State.modSet s n a f) := by
  unfold State.modSet
  try dsimp only
  repeat' first
    | with_reducible exact h
    | with_reducible refine State.modRaman_keeps ?_

theorem State.dropAverage_keeps {s₀ : State} {s : State} {n : Port} {a : Fin 8} (h : Keeps s₀ s) :
    Keeps s₀ (State.dropAverage s n a) := by
  unfold State.dropAverage
  try dsimp only
  repeat' first
    | with_reducible exact h
    | with_reducible refine State.bump_keeps ?_

theorem sumsHolder_kept {s : State} {n : Port} {k : Fin 8} {a : Nat} {x : Holder} (e : sumsHolder s n k a = some x) : x.Kept := by
  unfold sumsHolder at e
  dsimp only at e
  split at e
  · cases e
  · split at e
    · cases e
      intro _ _ _ _ h
      dsimp only
      exact State.modSet_keeps h
    · obtain ⟨_, _, rfl⟩ := Option.map_eq_some_iff.mp e
      intro _ _ _ _ h
      dsimp only
      exact State.modSet_keeps h

theorem State.readSums_keeps {s₀ : State} {s : State} {n : Port} {a : Fin 8} (h : Keeps s₀ s) :
    Keeps s₀ (State.readSums s n a) := by
  unfold State.readSums
  try dsimp only
  repeat' first
    | with_reducible exact h
    | exact sumsHolder_kept (by assumption)
    | with_reducible refine State.readAt_keeps ?_ ?_
    | with_reducible refine Keeps.foldl ?_ ?_
    | (intro u a b; try beta_reduce)
    | with_reducible assumption
    | with_reducible refine Keeps.ite ?_ ?_
    | (fail_if_no_progress with_reducible refine Keeps.mk_same ?_ rfl)
    | split

theorem State.completeAverage_keeps {s₀ : State} {s : State} {n : Port} {a : Fin 8} (h : Keeps s₀ s) :
    Keeps s₀ (State.completeAverage s n a) := by
  unfold State.completeAverage
  try dsimp only
  repeat' first
    | with_reducible exact h
    | with_reducible refine State.readSums_keeps ?_
    | with_reducible refine State.modSet_keeps ?_
    | with_reducible refine State.put_keeps ?_
    | with_reducible refine State.dropAverage_keeps ?_
    | with_reducible refine State.modRaman_keeps ?_
    | with_reducible refine Keeps.ite ?_ ?_
    | (fail_if_no_progress with_reducible refine Keeps.mk_same ?_ rfl)

theorem execAverageComplete_keeps {s₀ : State} {n : Port} {a : Fin 8} {s : State} (h : Keeps s₀ s) :
    Completes s₀ (execAverageComplete n a s) := by
  unfold execAverageComplete
  try dsimp only
  repeat' first
    | with_reducible exact h
    | with_reducible refine State.completeAverage_keeps ?_
    | with_reducible refine Completes.next ?_
    | with_reducible refine Keeps.ite ?_ ?_

theorem State.addDts_keeps {s₀ : State} {s : State} {n : Port} {x : Shot} {r : RamanRecord} (h : Keeps s₀ s) :
    Keeps s₀ (State.addDts s n x r) := by
  unfold State.addDts
  try dsimp only
  repeat' first
    | with_reducible exact h
    | with_reducible refine State.puti_keeps ?_
    | with_reducible refine State.add_keeps ?_
    | with_reducible refine State.setBit_keeps ?_
    | with_reducible refine State.dropAverage_keeps ?_
    | with_reducible refine State.completeAverage_keeps ?_
    | with_reducible refine State.readSums_keeps ?_
    | with_reducible refine State.modSet_keeps ?_
    | with_reducible refine State.put_keeps ?_
    | with_reducible refine Keeps.ite ?_ ?_
    | (fail_if_no_progress with_reducible refine Keeps.mk_same ?_ rfl)

theorem State.restartSet_keeps {s₀ : State} {s : State} {n : Port} {a : Fin 8} (h : Keeps s₀ s) :
    Keeps s₀ (State.restartSet s n a) := by
  unfold State.restartSet
  try dsimp only
  repeat' first
    | with_reducible exact h
    | with_reducible refine State.modSet_keeps ?_
    | with_reducible refine State.put_keeps ?_
    | with_reducible refine State.setBit_keeps ?_
    | with_reducible refine Keeps.ite ?_ ?_
    | (fail_if_no_progress with_reducible refine Keeps.mk_same ?_ rfl)

theorem State.settleHeader_keeps {s₀ : State} {s : State} {n : Port} {x : Shot} (h : Keeps s₀ s) :
    Keeps s₀ (State.settleHeader s n x) := by
  unfold State.settleHeader
  try dsimp only
  repeat' first
    | with_reducible exact h
    | with_reducible refine State.modRaman_keeps ?_
    | with_reducible refine State.modPipe_keeps ?_
    | (fail_if_no_progress with_reducible refine Keeps.mk_same ?_ rfl)

theorem State.moveReference_keeps {s₀ : State} {s : State} {n : Port} {d : DonePart} (h : Keeps s₀ s) :
    Keeps s₀ (State.moveReference s n d) := by
  unfold State.moveReference
  try dsimp only
  repeat' first
    | with_reducible exact h
    | with_reducible refine State.puti_keeps ?_
    | with_reducible refine State.bump_keeps ?_
    | with_reducible refine State.setBit_keeps ?_
    | with_reducible refine State.modRaman_keeps ?_
    | with_reducible refine State.put_keeps ?_
    | with_reducible refine State.clrBit_keeps ?_
    | with_reducible refine Keeps.ite ?_ ?_
    | split

theorem State.handProfile_keeps {s₀ : State} {s : State} {n : Port} (h : Keeps s₀ s) :
    Keeps s₀ (State.handProfile s n) := by
  unfold State.handProfile
  try dsimp only
  repeat' first
    | with_reducible exact h
    | with_reducible refine State.moveReference_keeps ?_
    | with_reducible refine State.modPipe_keeps ?_
    | with_reducible refine State.modSet_keeps ?_
    | with_reducible refine State.modRaman_keeps ?_
    | with_reducible refine State.bump_keeps ?_
    | with_reducible refine State.setBit_keeps ?_
    | with_reducible refine State.summary_keeps ?_
    | with_reducible refine queuePeak_keeps ?_
    | with_reducible refine Keeps.ite ?_ ?_
    | (fail_if_no_progress with_reducible refine Keeps.mk_same ?_ rfl)
    | split

end Sys2Proof.Machine
end

