-- ==== Sys2Proof/Laws/Route.lean ====
section
/-! SUPPORT. What the operations of Machine/Route.lean keep, one lemma each (Keeps, Completes: Laws/Keeps.lean). -/

/- One declaration after another: side by side they would need more memory. -/
set_option Elab.async false

namespace Sys2Proof.Machine

theorem State.sendTo_keeps {s₀ : State} {s : State} {d : BitVec 11} {f : AggonFrame} (h : Keeps s₀ s) :
    Keeps s₀ (State.sendTo s d f) := by
  unfold State.sendTo
  try dsimp only
  repeat' first
    | with_reducible exact h
    | with_reducible refine State.sendFrame_keeps ?_
    | split

theorem State.sendMessage_keeps {s₀ : State} {s : State} {vc kind : Nat} {d : BitVec 11} {bytes : List Byte} (h : Keeps s₀ s) :
    Keeps s₀ (State.sendMessage s vc kind d bytes) := by
  unfold State.sendMessage
  try dsimp only
  repeat' first
    | with_reducible exact h
    | with_reducible refine State.sendTo_keeps ?_
    | with_reducible refine Keeps.foldl ?_ ?_
    | (intro u a b; try beta_reduce)
    | with_reducible assumption
    | (fail_if_no_progress with_reducible refine Keeps.mk_same ?_ rfl)

theorem State.sendLedger_keeps {s₀ : State} {s : State} {d : BitVec 11} {msg : List Byte} (h : Keeps s₀ s) :
    Keeps s₀ (State.sendLedger s d msg) := by
  unfold State.sendLedger
  try dsimp only
  repeat' first
    | with_reducible exact h
    | with_reducible refine State.sendMessage_keeps ?_

theorem State.putShallow_keeps {s₀ : State} {s : State} {r : Fin 64} (h : Keeps s₀ s) :
    Keeps s₀ (State.putShallow s r) := by
  unfold State.putShallow
  try dsimp only
  repeat' first
    | with_reducible exact h
    | with_reducible refine State.putBit_keeps ?_

theorem State.clusterFigures_keeps {s₀ : State} {s : State} (h : Keeps s₀ s) :
    Keeps s₀ (State.clusterFigures s) := by
  unfold State.clusterFigures
  try dsimp only
  repeat' first
    | with_reducible exact h
    | with_reducible refine State.put_keeps ?_
    | with_reducible refine State.putBit_keeps ?_
    | with_reducible refine overAll_keeps ?_ ?_
    | with_reducible refine State.putShallow_keeps ?_
    | with_reducible refine Keeps.foldl ?_ ?_
    | (intro u a b; try beta_reduce)
    | with_reducible assumption
    | with_reducible refine Keeps.ite ?_ ?_

theorem State.clusterUpdate_keeps {s₀ : State} {s : State} (h : Keeps s₀ s) :
    Keeps s₀ (State.clusterUpdate s) := by
  unfold State.clusterUpdate
  try dsimp only
  repeat' first
    | with_reducible exact h
    | with_reducible refine State.clusterFigures_keeps ?_
    | (fail_if_no_progress with_reducible refine Keeps.mk_same ?_ rfl)

end Sys2Proof.Machine
end

