-- ==== Sys2Proof/Laws/Epoch.lean ====
section
/-! SUPPORT. What the operations of Machine/Epoch.lean keep, one lemma each (Keeps, Completes: Laws/Keeps.lean). -/

/- One declaration after another: side by side they would need more memory. -/
set_option Elab.async false

namespace Sys2Proof.Machine

theorem execEpochCorrectionOverflow_keeps {s₀ : State} {s : State} (h : Keeps s₀ s) :
    Completes s₀ (execEpochCorrectionOverflow s) := by
  unfold execEpochCorrectionOverflow
  try dsimp only
  repeat' first
    | with_reducible exact h
    | with_reducible refine Keeps.ite ?_ ?_
    | with_reducible refine Completes.next ?_
    | (fail_if_no_progress with_reducible refine Keeps.mk_same ?_ rfl)

theorem State.ppsFlag_keeps {s₀ : State} {s : State} (h : Keeps s₀ s) :
    Keeps s₀ (State.ppsFlag s) := by
  unfold State.ppsFlag
  try dsimp only
  repeat' first
    | with_reducible exact h
    | with_reducible refine State.putBit_keeps ?_

theorem State.integrateAdj_keeps {s₀ : State} {s : State} (h : Keeps s₀ s) :
    Keeps s₀ (State.integrateAdj s) := by
  unfold State.integrateAdj
  try dsimp only
  repeat' first
    | with_reducible exact h
    | (fail_if_no_progress with_reducible refine Keeps.mk_same ?_ rfl)

theorem State.putCorrection_keeps {s₀ : State} {s : State} (h : Keeps s₀ s) :
    Keeps s₀ (State.putCorrection s) := by
  unfold State.putCorrection
  try dsimp only
  repeat' first
    | with_reducible exact h
    | with_reducible refine State.puti_keeps ?_
    | with_reducible refine State.integrateAdj_keeps ?_

theorem State.degradedFlag_keeps {s₀ : State} {s : State} (h : Keeps s₀ s) :
    Keeps s₀ (State.degradedFlag s) := by
  unfold State.degradedFlag
  try dsimp only
  repeat' first
    | with_reducible exact h
    | with_reducible refine State.putBit_keeps ?_

theorem State.enterHoldover_keeps {s₀ : State} {s : State} (h : Keeps s₀ s) :
    Keeps s₀ (State.enterHoldover s) := by
  unfold State.enterHoldover
  try dsimp only
  repeat' first
    | with_reducible exact h
    | with_reducible refine State.putCorrection_keeps ?_
    | with_reducible refine State.put_keeps ?_
    | with_reducible refine State.degradedFlag_keeps ?_
    | (fail_if_no_progress with_reducible refine Keeps.mk_same ?_ rfl)

theorem State.changeSource_keeps {s₀ : State} {s : State} (h : Keeps s₀ s) :
    Keeps s₀ (State.changeSource s) := by
  unfold State.changeSource
  try dsimp only
  repeat' first
    | with_reducible exact h
    | with_reducible refine State.put_keeps ?_
    | with_reducible refine State.putBit_keeps ?_
    | with_reducible refine State.enterHoldover_keeps ?_
    | with_reducible refine State.degradedFlag_keeps ?_
    | with_reducible refine State.setBit_keeps ?_
    | with_reducible refine State.log_keeps ?_
    | with_reducible refine Keeps.ite ?_ ?_

theorem State.removedOffset_keeps {s₀ : State} {s : State} (h : Keeps s₀ s) :
    Keeps s₀ (State.removedOffset s) := by
  unfold State.removedOffset
  try dsimp only
  repeat' first
    | with_reducible exact h
    | with_reducible refine State.clrBit_keeps ?_
    | with_reducible refine Keeps.ite ?_ ?_
    | (fail_if_no_progress with_reducible refine Keeps.mk_same ?_ rfl)

theorem State.measure_keeps {s₀ : State} {s : State} {code : Nat} {off : Int} (h : Keeps s₀ s) :
    Keeps s₀ (State.measure s code off) := by
  unfold State.measure
  try dsimp only
  repeat' first
    | with_reducible exact h
    | with_reducible refine State.puti_keeps ?_
    | with_reducible refine State.putCorrection_keeps ?_
    | with_reducible refine State.drawn_keeps ?_
    | with_reducible refine State.removedOffset_keeps ?_
    | with_reducible refine Keeps.ite ?_ ?_
    | (fail_if_no_progress with_reducible refine Keeps.mk_same ?_ rfl)
    | (fail_if_no_progress with_reducible refine Keeps.mk_draw ?_ rfl)

theorem execStepLoad_keeps {s₀ : State} {s : State} (h : Keeps s₀ s) :
    Completes s₀ (execStepLoad s) := by
  unfold execStepLoad
  try dsimp only
  repeat' first
    | with_reducible exact h
    | with_reducible refine State.integrateAdj_keeps ?_
    | with_reducible refine State.setBit_keeps ?_
    | with_reducible refine State.bump_keeps ?_
    | with_reducible refine State.put_keeps ?_
    | with_reducible refine State.discardEvents_keeps ?_
    | with_reducible refine State.removedOffset_keeps ?_
    | with_reducible refine Keeps.ite ?_ ?_
    | with_reducible refine Completes.next ?_
    | (fail_if_no_progress with_reducible refine Keeps.mk_same ?_ rfl)
    | split

theorem execSlewEnd_keeps {s₀ : State} {s : State} (h : Keeps s₀ s) :
    Completes s₀ (execSlewEnd s) := by
  unfold execSlewEnd
  try dsimp only
  repeat' first
    | with_reducible exact h
    | with_reducible refine State.removedOffset_keeps ?_
    | with_reducible refine State.putCorrection_keeps ?_
    | with_reducible refine Completes.next ?_
    | with_reducible refine Keeps.ite ?_ ?_
    | (fail_if_no_progress with_reducible refine Keeps.mk_same ?_ rfl)

theorem execHoldoverErrGrowth_keeps {s₀ : State} {s : State} (h : Keeps s₀ s) :
    Completes s₀ (execHoldoverErrGrowth s) := by
  unfold execHoldoverErrGrowth
  try dsimp only
  repeat' first
    | with_reducible exact h
    | with_reducible refine State.degradedFlag_keeps ?_
    | with_reducible refine State.bump_keeps ?_
    | with_reducible refine Completes.next ?_
    | with_reducible refine Keeps.ite ?_ ?_

theorem State.ppsEdge_keeps {s₀ : State} {s : State} {stamp : Stamp} (h : Keeps s₀ s) :
    Keeps s₀ (State.ppsEdge s stamp) := by
  unfold State.ppsEdge
  try dsimp only
  repeat' first
    | with_reducible exact h
    | with_reducible refine State.ppsFlag_keeps ?_
    | with_reducible refine State.measure_keeps ?_
    | with_reducible refine Keeps.ite ?_ ?_
    | (fail_if_no_progress with_reducible refine Keeps.mk_same ?_ rfl)
    | split

theorem execPpsTimeout_keeps {s₀ : State} {s : State} (h : Keeps s₀ s) :
    Completes s₀ (execPpsTimeout s) := by
  unfold execPpsTimeout
  try dsimp only
  repeat' first
    | with_reducible exact h
    | with_reducible refine State.ppsFlag_keeps ?_
    | with_reducible refine Completes.next ?_
    | (fail_if_no_progress with_reducible refine Keeps.mk_same ?_ rfl)

theorem secLabelEff_keeps {s₀ : State} {s : State} {v : Nat} (h : Keeps s₀ s) :
    Keeps s₀ (secLabelEff s v) := by
  unfold secLabelEff
  try dsimp only
  repeat' first
    | with_reducible exact h
    | with_reducible refine State.ppsFlag_keeps ?_
    | (fail_if_no_progress with_reducible refine Keeps.mk_same ?_ rfl)

theorem State.mainsUnlock_keeps {s₀ : State} {s : State} (h : Keeps s₀ s) :
    Keeps s₀ (State.mainsUnlock s) := by
  unfold State.mainsUnlock
  try dsimp only
  repeat' first
    | with_reducible exact h
    | with_reducible refine State.log_keeps ?_
    | with_reducible refine State.put_keeps ?_
    | with_reducible refine Keeps.ite ?_ ?_
    | (fail_if_no_progress with_reducible refine Keeps.mk_same ?_ rfl)

theorem State.mainsReject_keeps {s₀ : State} {s : State} (h : Keeps s₀ s) :
    Keeps s₀ (State.mainsReject s) := by
  unfold State.mainsReject
  try dsimp only
  repeat' first
    | with_reducible exact h
    | with_reducible refine State.bump_keeps ?_

theorem State.mainsAccept_keeps {s₀ : State} {s : State} {t : Rat} {l : Rat} {p : Rat} (h : Keeps s₀ s) :
    Keeps s₀ (State.mainsAccept s t l p) := by
  unfold State.mainsAccept
  try dsimp only
  repeat' first
    | with_reducible exact h
    | with_reducible refine State.put_keeps ?_
    | with_reducible refine State.puti_keeps ?_
    | with_reducible refine State.mainsUnlock_keeps ?_
    | with_reducible refine Keeps.ite ?_ ?_
    | (fail_if_no_progress with_reducible refine Keeps.mk_same ?_ rfl)

theorem State.mainsEdge_keeps {s₀ : State} {s : State} {stamp : Stamp} (h : Keeps s₀ s) :
    Keeps s₀ (State.mainsEdge s stamp) := by
  unfold State.mainsEdge
  try dsimp only
  repeat' first
    | with_reducible exact h
    | with_reducible refine State.mainsReject_keeps ?_
    | with_reducible refine State.put_keeps ?_
    | with_reducible refine State.mainsAccept_keeps ?_
    | with_reducible refine Keeps.ite ?_ ?_
    | (fail_if_no_progress with_reducible refine Keeps.mk_same ?_ rfl)
    | split

theorem execMainsSyntheticEdge_keeps {s₀ : State} {s : State} (h : Keeps s₀ s) :
    Completes s₀ (execMainsSyntheticEdge s) := by
  unfold execMainsSyntheticEdge
  try dsimp only
  repeat' first
    | with_reducible exact h
    | with_reducible refine State.mainsUnlock_keeps ?_
    | with_reducible refine Completes.next ?_
    | with_reducible refine Keeps.ite ?_ ?_
    | (fail_if_no_progress with_reducible refine Keeps.mk_same ?_ rfl)
    | split

theorem State.offerLine_keeps {s₀ : State} {s : State} {mv : Int} {stamp : Stamp} (h : Keeps s₀ s) :
    Keeps s₀ (State.offerLine s mv stamp) := by
  unfold State.offerLine
  try dsimp only
  repeat' first
    | with_reducible exact h
    | with_reducible refine overAll_keeps ?_ ?_
    | with_reducible refine State.modPort_keeps ?_
    | (intro u a b; try beta_reduce)
    | with_reducible assumption
    | with_reducible refine Keeps.ite ?_ ?_
    | (fail_if_no_progress with_reducible refine Keeps.mk_same ?_ rfl)

theorem State.indexEdge_keeps {s₀ : State} {s : State} (h : Keeps s₀ s) :
    Keeps s₀ (State.indexEdge s) := by
  unfold State.indexEdge
  try dsimp only
  repeat' first
    | with_reducible exact h
    | with_reducible refine State.bump_keeps ?_
    | with_reducible refine State.put_keeps ?_
    | with_reducible refine Keeps.ite ?_ ?_
    | (fail_if_no_progress with_reducible refine Keeps.mk_same ?_ rfl)
    | split

theorem State.encIllegal_keeps {s₀ : State} {s : State} (h : Keeps s₀ s) :
    Keeps s₀ (State.encIllegal s) := by
  unfold State.encIllegal
  try dsimp only
  repeat' first
    | with_reducible exact h
    | with_reducible refine State.bump_keeps ?_
    | with_reducible refine overAll_keeps ?_ ?_
    | with_reducible refine State.modPort_keeps ?_
    | with_reducible refine Keeps.ite ?_ ?_
    | (intro u a b; try beta_reduce)
    | with_reducible assumption

theorem State.takePreset_keeps {s₀ : State} {s : State} (h : Keeps s₀ s) :
    Keeps s₀ (State.takePreset s) := by
  unfold State.takePreset
  try dsimp only
  repeat' first
    | with_reducible exact h
    | with_reducible refine State.put_keeps ?_
    | (fail_if_no_progress with_reducible refine Keeps.mk_same ?_ rfl)
    | split

theorem encPresetEff_keeps {s₀ : State} {s : State} {v : Nat} (h : Keeps s₀ s) :
    Keeps s₀ (encPresetEff s v) := by
  unfold encPresetEff
  try dsimp only
  repeat' first
    | with_reducible exact h
    | (fail_if_no_progress with_reducible refine Keeps.mk_same ?_ rfl)

theorem execLineRateUpdate_keeps {s₀ : State} {s : State} (h : Keeps s₀ s) :
    Completes s₀ (execLineRateUpdate s) := by
  unfold execLineRateUpdate
  try dsimp only
  repeat' first
    | with_reducible exact h
    | with_reducible refine State.puti_keeps ?_
    | with_reducible refine Completes.next ?_
    | (fail_if_no_progress with_reducible refine Keeps.mk_same ?_ rfl)

end Sys2Proof.Machine
end

