-- ==== Sys2Proof/Laws/Tdc.lean ====
section
/-! SUPPORT. What the operations of Machine/Tdc.lean keep, one lemma each (Keeps, Completes: Laws/Keeps.lean). -/

/- One declaration after another: side by side they would need more memory. -/
set_option Elab.async false

namespace Sys2Proof.Machine

theorem State.toUnit_keeps {s₀ : State} {s : State} {ch : Nat} {stamp : Stamp} {coarse : Bool} {corr : Int} {u : Fin 8} (h : Keeps s₀ s) :
    Keeps s₀ (State.toUnit s ch stamp coarse corr u) := by
  unfold State.toUnit
  try dsimp only
  repeat' first
    | with_reducible exact h
    | with_reducible refine State.modUnit_keeps ?_
    | with_reducible refine Keeps.ite ?_ ?_
    | (fail_if_no_progress with_reducible refine Keeps.mk_same ?_ rfl)

theorem State.edgeAt_keeps {s₀ : State} {s : State} {ch : Fin 21} {stamp : Stamp} (h : Keeps s₀ s) :
    Keeps s₀ (State.edgeAt s ch stamp) := by
  unfold State.edgeAt
  try dsimp only
  repeat' first
    | with_reducible exact h
    | (fail_if_no_progress with_reducible refine Keeps.mk_same ?_ rfl)

theorem State.countStamp_keeps {s₀ : State} {s : State} {ch : Fin 21} {st : Stamp} {coarse : Bool} {corr : Int} (h : Keeps s₀ s) :
    Keeps s₀ (State.countStamp s ch st coarse corr) := by
  unfold State.countStamp
  try dsimp only
  repeat' first
    | with_reducible exact h
    | with_reducible refine State.put_keeps ?_
    | with_reducible refine State.bump_keeps ?_
    | with_reducible refine overAll_keeps ?_ ?_
    | with_reducible refine State.toUnit_keeps ?_
    | (intro u a b; try beta_reduce)
    | with_reducible assumption
    | with_reducible refine Keeps.ite ?_ ?_

theorem State.stampChannel_keeps {s₀ : State} {s : State} {ch : Fin 21} {stamp : Stamp} {consumer : Stamp → State → State} (h : Keeps s₀ s)
    (hf : ∀ st u, Keeps s₀ u → Keeps s₀ (consumer st u)) : Keeps s₀ (State.stampChannel s ch stamp consumer) := by
  unfold State.stampChannel
  try dsimp only
  repeat' first
    | with_reducible exact h
    | with_reducible refine hf _ _ ?_
    | with_reducible refine State.bump_keeps ?_
    | with_reducible refine State.edgeAt_keeps ?_
    | with_reducible refine State.countStamp_keeps ?_
    | with_reducible refine Keeps.ite ?_ ?_

theorem State.rawEdge_keeps {s₀ : State} {s : State} {ch : Fin 21} {stamp : Stamp} (h : Keeps s₀ s) :
    Keeps s₀ (State.rawEdge s ch stamp) := by
  unfold State.rawEdge
  try dsimp only
  repeat' first
    | with_reducible exact h
    | with_reducible refine State.bump_keeps ?_
    | with_reducible refine State.edgeAt_keeps ?_
    | with_reducible refine Keeps.ite ?_ ?_
    | (fail_if_no_progress with_reducible refine Keeps.mk_same ?_ rfl)

theorem State.acceptEdge_keeps {s₀ : State} {s : State} {ch : Fin 21} {lv : Bool} (h : Keeps s₀ s) :
    Keeps s₀ (State.acceptEdge s ch lv) := by
  unfold State.acceptEdge
  try dsimp only
  repeat' first
    | with_reducible exact h
    | with_reducible refine State.countStamp_keeps ?_
    | (fail_if_no_progress with_reducible refine Keeps.mk_same ?_ rfl)
    | split

theorem State.firstLevels_keeps {s₀ : State} {s : State} {a b z : Bool} (h : Keeps s₀ s) :
    Keeps s₀ (State.firstLevels s a b z) := by
  unfold State.firstLevels
  try dsimp only
  repeat' first
    | with_reducible exact h
    | (fail_if_no_progress with_reducible refine Keeps.mk_same ?_ rfl)

theorem execEncLevelAccept_keeps {s₀ : State} {a b z : Bool} {s : State} (h : Keeps s₀ s) :
    Completes s₀ (execEncLevelAccept a b z s) := by
  unfold execEncLevelAccept
  try dsimp only
  repeat' first
    | with_reducible exact h
    | with_reducible refine State.drawn_keeps ?_
    | with_reducible refine State.firstLevels_keeps ?_
    | with_reducible refine State.takePreset_keeps ?_
    | with_reducible refine State.acceptEdge_keeps ?_
    | with_reducible refine State.encIllegal_keeps ?_
    | with_reducible refine State.put_keeps ?_
    | with_reducible refine State.offerLine_keeps ?_
    | with_reducible refine State.indexEdge_keeps ?_
    | with_reducible refine Keeps.ite ?_ ?_
    | with_reducible refine Completes.next ?_
    | (fail_if_no_progress with_reducible refine Keeps.mk_same ?_ rfl)
    | (fail_if_no_progress with_reducible refine Keeps.mk_draw ?_ rfl)

theorem execPpsEdge_keeps {s₀ : State} {stamp : Stamp} {s : State} (h : Keeps s₀ s) :
    Completes s₀ (execPpsEdge stamp s) := by
  unfold execPpsEdge
  try dsimp only
  repeat' first
    | with_reducible exact h
    | with_reducible refine State.stampChannel_keeps ?_ ?_
    | (intro st u b; try beta_reduce)
    | with_reducible assumption
    | with_reducible refine State.ppsEdge_keeps ?_
    | with_reducible refine Completes.next ?_

theorem execMainsEdge_keeps {s₀ : State} {stamp : Stamp} {s : State} (h : Keeps s₀ s) :
    Completes s₀ (execMainsEdge stamp s) := by
  unfold execMainsEdge
  try dsimp only
  repeat' first
    | with_reducible exact h
    | with_reducible refine State.stampChannel_keeps ?_ ?_
    | (intro st u b; try beta_reduce)
    | with_reducible assumption
    | with_reducible refine State.mainsEdge_keeps ?_
    | with_reducible refine Completes.next ?_

theorem State.closeBlock_keeps {s₀ : State} {s : State} {u : Fin 8} (h : Keeps s₀ s) :
    Keeps s₀ (State.closeBlock s u) := by
  unfold State.closeBlock
  try dsimp only
  repeat' first
    | with_reducible exact h
    | with_reducible refine State.put_keeps ?_
    | with_reducible refine State.puti_keeps ?_
    | with_reducible refine State.bump_keeps ?_
    | with_reducible refine State.modUnit_keeps ?_
    | with_reducible refine Keeps.ite ?_ ?_

theorem State.pair_keeps {s₀ : State} {s : State} {u : Fin 8} {a : UnitEv} {b : UnitEv} {rev : Bool} (h : Keeps s₀ s) :
    Keeps s₀ (State.pair s u a b rev) := by
  unfold State.pair
  try dsimp only
  repeat' first
    | with_reducible exact h
    | with_reducible refine State.modUnit_keeps ?_
    | with_reducible refine State.bump_keeps ?_
    | with_reducible refine State.puti_keeps ?_
    | with_reducible refine State.put_keeps ?_
    | with_reducible refine State.closeBlock_keeps ?_

theorem State.setStart_keeps {s₀ : State} {s : State} {u : Fin 8} {x : Option (UnitEv × Nat)} (h : Keeps s₀ s) :
    Keeps s₀ (State.setStart s u x) := by
  unfold State.setStart
  try dsimp only
  repeat' first
    | with_reducible exact h
    | with_reducible refine State.modUnit_keeps ?_

theorem State.periodEvent_keeps {s₀ : State} {s : State} {u : Fin 8} {e : UnitEv} (h : Keeps s₀ s) :
    Keeps s₀ (State.periodEvent s u e) := by
  unfold State.periodEvent
  try dsimp only
  repeat' first
    | with_reducible exact h
    | with_reducible refine State.setStart_keeps ?_
    | with_reducible refine State.bump_keeps ?_
    | with_reducible refine State.pair_keeps ?_
    | with_reducible refine Keeps.ite ?_ ?_
    | split

theorem meetHeld_keeps {s₀ : State} {u : Fin 8} {e : UnitEv} {z2 : List UnitEv} {z3 : State} (h : Keeps s₀ z3) :
    Keeps s₀ (meetHeld u e z2 z3) := by
  induction z2 generalizing z3 with
  | nil => exact h
  | cons e r ih =>
    unfold meetHeld
    try dsimp only
    repeat' first
      | with_reducible exact h
      | with_reducible refine ih ?_
      | with_reducible refine State.setStart_keeps ?_
      | with_reducible refine State.pair_keeps ?_
      | with_reducible refine State.bump_keeps ?_
      | with_reducible exact h
      | with_reducible refine Completes.next ?_
      | with_reducible refine Keeps.ite ?_ ?_

theorem State.oneMany_keeps {s₀ : State} {s : State} {u : Fin 8} {e : UnitEv} (h : Keeps s₀ s) :
    Keeps s₀ (State.oneMany s u e) := by
  unfold State.oneMany
  try dsimp only
  repeat' first
    | with_reducible exact h
    | with_reducible refine meetHeld_keeps ?_
    | with_reducible refine State.setStart_keeps ?_
    | with_reducible refine State.modUnit_keeps ?_
    | with_reducible refine State.pair_keeps ?_
    | with_reducible refine State.bump_keeps ?_
    | with_reducible refine Keeps.ite ?_ ?_
    | split

theorem State.oneOne_keeps {s₀ : State} {s : State} {u : Fin 8} {e : UnitEv} (h : Keeps s₀ s) :
    Keeps s₀ (State.oneOne s u e) := by
  unfold State.oneOne
  try dsimp only
  repeat' first
    | with_reducible exact h
    | with_reducible refine State.setStart_keeps ?_
    | with_reducible refine State.bump_keeps ?_
    | with_reducible refine State.pair_keeps ?_
    | with_reducible refine Keeps.ite ?_ ?_
    | split

theorem execUnitEvent_keeps {s₀ : State} {u : Fin 8} {s : State} (h : Keeps s₀ s) :
    Completes s₀ (execUnitEvent u s) := by
  unfold execUnitEvent
  try dsimp only
  repeat' first
    | with_reducible exact h
    | with_reducible refine State.modUnit_keeps ?_
    | with_reducible refine State.periodEvent_keeps ?_
    | with_reducible refine State.oneMany_keeps ?_
    | with_reducible refine State.oneOne_keeps ?_
    | with_reducible refine Keeps.ite ?_ ?_
    | with_reducible refine Completes.next ?_
    | (fail_if_no_progress with_reducible refine Keeps.mk_same ?_ rfl)
    | split

theorem execPairWinExpiry_keeps {s₀ : State} {u : Fin 8} {s : State} (h : Keeps s₀ s) :
    Completes s₀ (execPairWinExpiry u s) := by
  unfold execPairWinExpiry
  try dsimp only
  repeat' first
    | with_reducible exact h
    | with_reducible refine State.modUnit_keeps ?_
    | with_reducible refine State.add_keeps ?_
    | with_reducible refine State.setStart_keeps ?_
    | with_reducible refine State.bump_keeps ?_
    | with_reducible refine Keeps.ite ?_ ?_
    | with_reducible refine Completes.next ?_
    | (fail_if_no_progress with_reducible refine Keeps.mk_same ?_ rfl)
    | split

theorem State.commitUnit_keeps {s₀ : State} {s : State} {u : Fin 8} (h : Keeps s₀ s) :
    Keeps s₀ (State.commitUnit s u) := by
  unfold State.commitUnit
  try dsimp only
  repeat' first
    | with_reducible exact h
    | with_reducible refine State.commit_keeps ?_
    | with_reducible refine State.put_keeps ?_
    | with_reducible refine State.modUnit_keeps ?_

end Sys2Proof.Machine
end

