-- ==== Sys2Proof/Laws/Capture.lean ====
section
/-! SUPPORT. What the operations of Machine/Capture.lean keep, one lemma each (Keeps, Completes: Laws/Keeps.lean). -/

/- One declaration after another: side by side they would need more memory. -/
set_option Elab.async false

namespace Sys2Proof.Machine

theorem State.regionFlag_keeps {s₀ : State} {s : State} {r : Fin 64} {b : Nat} (h : Keeps s₀ s) :
    Keeps s₀ (State.regionFlag s r b) := by
  unfold State.regionFlag
  try dsimp only
  repeat' first
    | with_reducible exact h
    | with_reducible refine State.setBit_keeps ?_

theorem State.awnStatus_keeps {s₀ : State} {s : State} {r : Fin 64} (h : Keeps s₀ s) :
    Keeps s₀ (State.awnStatus s r) := by
  unfold State.awnStatus
  try dsimp only
  repeat' first
    | with_reducible exact h
    | with_reducible refine State.put_keeps ?_
    | with_reducible refine State.putShallow_keeps ?_

theorem State.settleRegion_keeps {s₀ : State} {s : State} {r : Fin 64} (h : Keeps s₀ s) :
    Keeps s₀ (State.settleRegion s r) := by
  unfold State.settleRegion
  try dsimp only
  repeat' first
    | with_reducible exact h
    | with_reducible refine State.put_keeps ?_
    | with_reducible refine State.modRegion_keeps ?_
    | with_reducible refine Keeps.ite ?_ ?_

theorem State.closeRecord_keeps {s₀ : State} {s : State} {r : Fin 64} (h : Keeps s₀ s) :
    Keeps s₀ (State.closeRecord s r) := by
  unfold State.closeRecord
  try dsimp only
  repeat' first
    | with_reducible exact h
    | with_reducible refine State.modRegion_keeps ?_
    | (fail_if_no_progress with_reducible refine Keeps.mk_same ?_ rfl)

theorem State.emptyAwning_keeps {s₀ : State} {s : State} {r : Fin 64} (h : Keeps s₀ s) :
    Keeps s₀ (State.emptyAwning s r) := by
  unfold State.emptyAwning
  try dsimp only
  repeat' first
    | with_reducible exact h
    | with_reducible refine State.closeRecord_keeps ?_
    | with_reducible refine State.modRegion_keeps ?_
    | with_reducible refine State.settleRegion_keeps ?_
    | with_reducible refine State.awnStatus_keeps ?_
    | with_reducible refine State.regionFlag_keeps ?_

theorem State.armRegion_keeps {s₀ : State} {s : State} {r : Fin 64} {mode : Nat} (h : Keeps s₀ s) :
    Keeps s₀ (State.armRegion s r mode) := by
  unfold State.armRegion
  try dsimp only
  repeat' first
    | with_reducible exact h
    | with_reducible refine State.put_keeps ?_
    | with_reducible refine State.settleRegion_keeps ?_
    | with_reducible refine State.closeRecord_keeps ?_
    | with_reducible refine Keeps.ite ?_ ?_

theorem State.sendBell_keeps {s₀ : State} {s : State} {m : BellMsg} (h : Keeps s₀ s) :
    Keeps s₀ (State.sendBell s m) := by
  unfold State.sendBell
  try dsimp only
  repeat' first
    | with_reducible exact h
    | with_reducible refine State.flood_keeps ?_
    | with_reducible refine State.bump_keeps ?_
    | (fail_if_no_progress with_reducible refine Keeps.mk_same ?_ rfl)

theorem State.ignoreTrigger_keeps {s₀ : State} {s : State} {r : Fin 64} {early : Bool} (h : Keeps s₀ s) :
    Keeps s₀ (State.ignoreTrigger s r early) := by
  unfold State.ignoreTrigger
  try dsimp only
  repeat' first
    | with_reducible exact h
    | with_reducible refine State.summary_keeps ?_
    | with_reducible refine State.regionFlag_keeps ?_
    | with_reducible refine State.bump_keeps ?_
    | with_reducible refine Keeps.ite ?_ ?_

theorem State.mergeTrigger_keeps {s₀ : State} {s : State} {r : Fin 64} {tr : Trigger} {late : Bool} (h : Keeps s₀ s) :
    Keeps s₀ (State.mergeTrigger s r tr late) := by
  unfold State.mergeTrigger
  try dsimp only
  repeat' first
    | with_reducible exact h
    | with_reducible refine State.modRegion_keeps ?_
    | with_reducible refine State.regionFlag_keeps ?_
    | with_reducible refine State.bump_keeps ?_
    | with_reducible refine Keeps.ite ?_ ?_

theorem State.triggerInPost_keeps {s₀ : State} {s : State} {r : Fin 64} {tr : Trigger} (h : Keeps s₀ s) :
    Keeps s₀ (State.triggerInPost s r tr) := by
  unfold State.triggerInPost
  try dsimp only
  repeat' first
    | with_reducible exact h
    | with_reducible refine State.mergeTrigger_keeps ?_
    | with_reducible refine State.ignoreTrigger_keeps ?_
    | with_reducible refine Keeps.ite ?_ ?_
    | split

theorem State.fixBoundary_keeps {s₀ : State} {s : State} {r : Fin 64} {tr : Trigger} {i : Nat} {late : Bool} (h : Keeps s₀ s) :
    Keeps s₀ (State.fixBoundary s r tr i late) := by
  unfold State.fixBoundary
  try dsimp only
  repeat' first
    | with_reducible exact h
    | with_reducible refine State.modRegion_keeps ?_
    | with_reducible refine State.put_keeps ?_
    | with_reducible refine State.bump_keeps ?_
    | with_reducible refine State.regionFlag_keeps ?_
    | with_reducible refine State.sendBell_keeps ?_
    | with_reducible refine State.triggerInPost_keeps ?_
    | with_reducible refine Keeps.foldl ?_ ?_
    | (intro u a b; try beta_reduce)
    | with_reducible assumption
    | with_reducible refine Keeps.ite ?_ ?_
    | (fail_if_no_progress with_reducible refine Keeps.mk_same ?_ rfl)
    | split

theorem State.trigger_keeps {s₀ : State} {s : State} {r : Fin 64} {tr : Trigger} (h : Keeps s₀ s) :
    Keeps s₀ (State.trigger s r tr) := by
  unfold State.trigger
  try dsimp only
  repeat' first
    | with_reducible exact h
    | with_reducible refine State.ignoreTrigger_keeps ?_
    | with_reducible refine State.modRegion_keeps ?_
    | with_reducible refine State.fixBoundary_keeps ?_
    | with_reducible refine State.triggerInPost_keeps ?_
    | split

theorem State.wrapAwning_keeps {s₀ : State} {s : State} {r : Fin 64} (h : Keeps s₀ s) :
    Keeps s₀ (State.wrapAwning s r) := by
  unfold State.wrapAwning
  try dsimp only
  repeat' first
    | with_reducible exact h
    | with_reducible refine State.commitIf_keeps ?_
    | with_reducible refine State.emptyAwning_keeps ?_
    | with_reducible refine State.modRegion_keeps ?_
    | with_reducible refine Keeps.ite ?_ ?_
    | (fail_if_no_progress with_reducible refine Keeps.mk_same ?_ rfl)

theorem State.pushAwning_keeps {s₀ : State} {s : State} {r : Fin 64} {e : AwnEntry} (h : Keeps s₀ s) :
    Keeps s₀ (State.pushAwning s r e) := by
  unfold State.pushAwning
  try dsimp only
  repeat' first
    | with_reducible exact h
    | with_reducible refine State.wrapAwning_keeps ?_
    | with_reducible refine State.dropFlips_keeps ?_
    | with_reducible refine State.modRegion_keeps ?_
    | with_reducible refine State.awnStatus_keeps ?_
    | with_reducible refine State.settleRegion_keeps ?_
    | with_reducible refine State.fixBoundary_keeps ?_
    | with_reducible refine Keeps.ite ?_ ?_
    | (fail_if_no_progress with_reducible refine Keeps.mk_same ?_ rfl)
    | split

theorem State.openSample_keeps {s₀ : State} {s : State} {n : Port} {kind : Nat} {set : Nat} {seq : BitVec 32} {stamp : Stamp} (h : Keeps s₀ s) :
    Keeps s₀ (State.openSample s n kind set seq stamp) := by
  unfold State.openSample
  try dsimp only
  repeat' first
    | with_reducible exact h
    | with_reducible refine overAll_keeps ?_ ?_
    | with_reducible refine State.pushAwning_keeps ?_
    | with_reducible refine Keeps.ite ?_ ?_
    | (intro u a b; try beta_reduce)
    | with_reducible assumption

theorem State.fillSamples_keeps {s₀ : State} {s : State} {n : Port} {d : Delivery} (h : Keeps s₀ s) :
    Keeps s₀ (State.fillSamples s n d) := by
  unfold State.fillSamples
  try dsimp only
  repeat' first
    | with_reducible exact h
    | with_reducible refine overAll_keeps ?_ ?_
    | with_reducible refine State.modRegion_keeps ?_
    | with_reducible refine Keeps.ite ?_ ?_
    | (intro u a b; try beta_reduce)
    | with_reducible assumption

theorem State.fillNew_keeps {s₀ : State} {s : State} {n : Port} {old new : List Delivery} (h : Keeps s₀ s) :
    Keeps s₀ (State.fillNew s n old new) := by
  unfold State.fillNew
  try dsimp only
  repeat' first
    | with_reducible exact h
    | with_reducible refine State.fillSamples_keeps ?_
    | with_reducible refine Keeps.foldl ?_ ?_
    | (intro u a b; try beta_reduce)
    | with_reducible assumption

theorem State.stamped_keeps {s₀ : State} {s : State} {n : Port} {x : Shot} (h : Keeps s₀ s) :
    Keeps s₀ (State.stamped s n x) := by
  unfold State.stamped
  try dsimp only
  repeat' first
    | with_reducible exact h
    | with_reducible refine State.settleHeader_keeps ?_
    | with_reducible refine State.fillNew_keeps ?_
    | with_reducible refine State.openSample_keeps ?_
    | with_reducible refine State.dropOver_keeps ?_
    | with_reducible refine Keeps.ite ?_ ?_
    | (fail_if_no_progress with_reducible refine Keeps.mk_same ?_ rfl)
    | split

theorem State.monEdge_keeps {s₀ : State} {s : State} {n : Port} {stamp : Stamp} (h : Keeps s₀ s) :
    Keeps s₀ (State.monEdge s n stamp) := by
  unfold State.monEdge
  try dsimp only
  repeat' first
    | with_reducible exact h
    | with_reducible refine State.monStamp_keeps ?_
    | with_reducible refine State.stamped_keeps ?_
    | (fail_if_no_progress with_reducible refine Keeps.mk_same ?_ rfl)
    | split

theorem execMonStamp_keeps {s₀ : State} {n : Port} {stamp : Stamp} {s : State} (h : Keeps s₀ s) :
    Completes s₀ (execMonStamp n stamp s) := by
  unfold execMonStamp
  try dsimp only
  repeat' first
    | with_reducible exact h
    | with_reducible refine State.stampChannel_keeps ?_ ?_
    | (intro st u b; try beta_reduce)
    | with_reducible assumption
    | with_reducible refine State.monEdge_keeps ?_
    | with_reducible refine Completes.next ?_

theorem execStampMiss_keeps {s₀ : State} {n : Port} {s : State} (h : Keeps s₀ s) :
    Completes s₀ (execStampMiss n s) := by
  unfold execStampMiss
  try dsimp only
  repeat' first
    | with_reducible exact h
    | with_reducible refine State.stampMiss_keeps ?_
    | with_reducible refine State.stamped_keeps ?_
    | with_reducible refine Completes.next ?_
    | (fail_if_no_progress with_reducible refine Keeps.mk_same ?_ rfl)
    | split

theorem execProfileDelivery_keeps {s₀ : State} {n : Port} {s : State} (h : Keeps s₀ s) :
    Completes s₀ (execProfileDelivery n s) := by
  unfold execProfileDelivery
  try dsimp only
  repeat' first
    | with_reducible exact h
    | with_reducible refine State.handProfile_keeps ?_
    | with_reducible refine State.openSample_keeps ?_
    | with_reducible refine Completes.next ?_
    | with_reducible refine Keeps.ite ?_ ?_
    | split

theorem execQueueDrain_keeps {s₀ : State} {n : Port} {words : Nat} {s : State} (h : Keeps s₀ s) :
    Completes s₀ (execQueueDrain n words s) := by
  unfold execQueueDrain
  try dsimp only
  repeat' first
    | with_reducible exact h
    | with_reducible refine State.modPipe_keeps ?_
    | with_reducible refine State.fillNew_keeps ?_
    | with_reducible refine State.mirrorQueue_keeps ?_
    | with_reducible refine Keeps.ite ?_ ?_
    | with_reducible refine Completes.next ?_
    | (fail_if_no_progress with_reducible refine Keeps.mk_same ?_ rfl)

theorem State.commitConditions_keeps {s₀ : State} {s : State} {r : Fin 64} (h : Keeps s₀ s) :
    Keeps s₀ (State.commitConditions s r) := by
  unfold State.commitConditions
  try dsimp only
  repeat' first
    | with_reducible exact h
    | with_reducible refine State.commitIf_keeps ?_
    | with_reducible refine State.modRegion_keeps ?_
    | with_reducible refine State.put_keeps ?_

theorem State.takeBut_keeps {s₀ : State} {s : State} {idx : Nat} {but : Reg} (h : Keeps s₀ s) :
    Keeps s₀ (State.takeBut s idx but) := by
  unfold State.takeBut
  dsimp only
  refine Keeps.mk_staged ?_ (fun r => rising_fold r (fun _ _ k => rfSet_rising k)) rfl
  refine State.takeStaged_keeps ?_
  exact Keeps.mk_staged h rising_filter_fst rfl

theorem State.commitRegion_keeps {s₀ : State} {s : State} {r : Fin 64} (h : Keeps s₀ s) :
    Keeps s₀ (State.commitRegion s r) := by
  unfold State.commitRegion
  try dsimp only
  repeat' first
    | with_reducible exact h
    | with_reducible refine State.takeBut_keeps ?_
    | with_reducible refine State.commitIf_keeps ?_
    | with_reducible refine State.modRegion_keeps ?_
    | with_reducible refine State.emptyAwning_keeps ?_
    | with_reducible refine State.armRegion_keeps ?_
    | with_reducible refine State.putShallow_keeps ?_
    | with_reducible refine Keeps.ite ?_ ?_
    | (fail_if_no_progress with_reducible refine Keeps.mk_same ?_ rfl)

theorem State.regionsAt_keeps {s₀ : State} {s : State} {n : Port} (h : Keeps s₀ s) :
    Keeps s₀ (State.regionsAt s n) := by
  unfold State.regionsAt
  try dsimp only
  repeat' first
    | with_reducible exact h
    | with_reducible refine overAll_keeps ?_ ?_
    | with_reducible refine State.commitRegion_keeps ?_
    | with_reducible refine State.commitConditions_keeps ?_
    | with_reducible refine Keeps.ite ?_ ?_
    | (intro u a b; try beta_reduce)
    | with_reducible assumption

theorem execDeliveryComplete_keeps {s₀ : State} {n : Port} {s : State} (h : Keeps s₀ s) :
    Completes s₀ (execDeliveryComplete n s) := by
  unfold execDeliveryComplete
  try dsimp only
  repeat' first
    | with_reducible exact h
    | with_reducible refine State.mirrorDelivery_keeps ?_
    | with_reducible refine State.completeDelivery_keeps ?_
    | with_reducible refine State.regionsAt_keeps ?_
    | with_reducible refine State.modPipe_keeps ?_
    | with_reducible refine Completes.next ?_
    | with_reducible refine Keeps.ite ?_ ?_
    | split

theorem State.testSample_keeps {s₀ : State} {s : State} {r : Fin 64} {e : AwnEntry} {d : Delivery} (h : Keeps s₀ s) :
    Keeps s₀ (State.testSample s r e d) := by
  unfold State.testSample
  try dsimp only
  repeat' first
    | with_reducible exact h
    | with_reducible refine State.modRegion_keeps ?_
    | with_reducible refine State.trigger_keeps ?_
    | with_reducible refine State.bump_keeps ?_
    | with_reducible refine Keeps.ite ?_ ?_
    | with_reducible refine Keeps.foldl ?_ ?_
    | (intro u a b; try beta_reduce)
    | with_reducible assumption
    | split

theorem execPointCondition_keeps {s₀ : State} {r : Fin 64} {s : State} (h : Keeps s₀ s) :
    Completes s₀ (execPointCondition r s) := by
  unfold execPointCondition
  try dsimp only
  repeat' first
    | with_reducible exact h
    | with_reducible refine State.testSample_keeps ?_
    | with_reducible refine State.modRegion_keeps ?_
    | with_reducible refine Completes.next ?_
    | with_reducible refine Keeps.ite ?_ ?_
    | split

theorem execStallTrigRequest_keeps {s₀ : State} {s : State} (h : Keeps s₀ s) :
    Completes s₀ (execStallTrigRequest s) := by
  unfold execStallTrigRequest
  try dsimp only
  repeat' first
    | with_reducible exact h
    | with_reducible refine State.bump_keeps ?_
    | with_reducible refine State.trigger_keeps ?_
    | with_reducible refine Completes.next ?_
    | with_reducible refine Keeps.ite ?_ ?_
    | with_reducible refine Keeps.dite ?_ ?_
    | (intro b; try beta_reduce)
    | (fail_if_no_progress with_reducible refine Keeps.mk_same ?_ rfl)
    | split

theorem State.canCond_keeps {s₀ : State} {s : State} {id : Nat} {data : List Byte} {stamp : Int} {r : Fin 64} {c : Fin 8} (h : Keeps s₀ s) :
    Keeps s₀ (State.canCond s id data stamp r c) := by
  unfold State.canCond
  try dsimp only
  repeat' first
    | with_reducible exact h
    | with_reducible refine State.modRegion_keeps ?_
    | with_reducible refine State.trigger_keeps ?_
    | with_reducible refine State.bump_keeps ?_
    | with_reducible refine Keeps.ite ?_ ?_
    | split

theorem execCanFrame_keeps {s₀ : State} {id : BitVec 29} {ext : Bool} {data : List Byte} {stamp : Stamp} {s : State} (h : Keeps s₀ s) :
    Completes s₀ (execCanFrame id ext data stamp s) := by
  unfold execCanFrame
  try dsimp only
  repeat' first
    | with_reducible exact h
    | with_reducible refine State.bump_keeps ?_
    | with_reducible refine State.canPassed_keeps ?_
    | with_reducible refine overAll_keeps ?_ ?_
    | with_reducible refine State.canCond_keeps ?_
    | with_reducible refine Keeps.foldl ?_ ?_
    | (intro u a b; try beta_reduce)
    | with_reducible assumption
    | with_reducible refine Keeps.ite ?_ ?_
    | with_reducible refine Completes.next ?_

theorem State.keepRecords_keeps {s₀ : State} {s : State} {stays : StoredRecord → Bool} (h : Keeps s₀ s) :
    Keeps s₀ (State.keepRecords s stays) := by
  unfold State.keepRecords
  try dsimp only
  repeat' first
    | with_reducible exact h
    | with_reducible refine State.store_keeps ?_
    | with_reducible refine State.overtake_keeps ?_
    | with_reducible refine Keeps.ite ?_ ?_
    | (fail_if_no_progress with_reducible refine Keeps.mk_same ?_ rfl)

theorem State.wrapStore_keeps {s₀ : State} {s : State} (h : Keeps s₀ s) :
    Keeps s₀ (State.wrapStore s) := by
  unfold State.wrapStore
  try dsimp only
  repeat' first
    | with_reducible exact h
    | with_reducible refine State.commitIf_keeps ?_
    | with_reducible refine State.keepRecords_keeps ?_
    | with_reducible refine State.setBit_keeps ?_
    | with_reducible refine Keeps.ite ?_ ?_
    | (fail_if_no_progress with_reducible refine Keeps.mk_same ?_ rfl)

theorem State.storeRecord_keeps {s₀ : State} {s : State} {r : Fin 64} {b : List Byte} (h : Keeps s₀ s) :
    Keeps s₀ (State.storeRecord s r b) := by
  unfold State.storeRecord
  try dsimp only
  repeat' first
    | with_reducible exact h
    | with_reducible refine State.wrapStore_keeps ?_
    | with_reducible refine State.keepRecords_keeps ?_
    | with_reducible refine State.dropFlips_keeps ?_
    | with_reducible refine State.store_keeps ?_
    | with_reducible refine Keeps.ite ?_ ?_
    | (fail_if_no_progress with_reducible refine Keeps.mk_same ?_ rfl)

theorem awnHolder_kept {s : State} {r : Fin 64} {a : Nat} {x : Holder} (e : awnHolder s r a = some x) : x.Kept := by
  unfold awnHolder at e
  dsimp only at e
  split at e
  · cases e
  · obtain ⟨_, _, rfl⟩ := Option.map_eq_some_iff.mp e
    intro _ _ _ _ h
    dsimp only
    exact State.modRegion_keeps h

theorem storeHolder_kept {s : State}  {a : Nat} {x : Holder} (e : storeHolder s a = some x) : x.Kept := by
  unfold storeHolder at e
  dsimp only at e
  split at e
  · cases e
  · obtain ⟨_, _, rfl⟩ := Option.map_eq_some_iff.mp e
    intro _ _ _ _ h
    dsimp only
    exact State.refresh_keeps (by with_reducible exact Keeps.mk_same h rfl)

theorem State.readAwning_keeps {s₀ : State} {s : State} {r : Fin 64} {c : RecordPart} (h : Keeps s₀ s) :
    Keeps s₀ (State.readAwning s r c) := by
  unfold State.readAwning
  try dsimp only
  repeat' first
    | with_reducible exact h
    | exact awnHolder_kept (by assumption)
    | with_reducible refine State.readAt_keeps ?_ ?_
    | with_reducible refine Keeps.foldl ?_ ?_
    | (intro u a b; try beta_reduce)
    | with_reducible assumption
    | (fail_if_no_progress with_reducible refine Keeps.mk_same ?_ rfl)
    | split

theorem execRecordWritten_keeps {s₀ : State} {r : Fin 64} {s : State} (h : Keeps s₀ s) :
    Completes s₀ (execRecordWritten r s) := by
  unfold execRecordWritten
  try dsimp only
  repeat' first
    | with_reducible exact h
    | with_reducible refine State.readAwning_keeps ?_
    | with_reducible refine State.storeRecord_keeps ?_
    | with_reducible refine State.modRegion_keeps ?_
    | with_reducible refine State.bump_keeps ?_
    | with_reducible refine State.put_keeps ?_
    | with_reducible refine State.regionFlag_keeps ?_
    | with_reducible refine State.toStreams_keeps ?_
    | with_reducible refine Keeps.ite ?_ ?_
    | with_reducible refine Completes.next ?_
    | (fail_if_no_progress with_reducible refine Keeps.mk_same ?_ rfl)
    | split

theorem execRearmEnd_keeps {s₀ : State} {r : Fin 64} {s : State} (h : Keeps s₀ s) :
    Completes s₀ (execRearmEnd r s) := by
  unfold execRearmEnd
  try dsimp only
  repeat' first
    | with_reducible exact h
    | with_reducible refine State.put_keeps ?_
    | with_reducible refine State.settleRegion_keeps ?_
    | with_reducible refine Completes.next ?_
    | with_reducible refine Keeps.ite ?_ ?_

theorem State.bellOnce_keeps {s₀ : State} {s : State} {k : Fin 4} {hops : BitVec 8} {m : BellMsg} {f : State → State} (h : Keeps s₀ s)
    (hf : ∀ u, Keeps s₀ u → Keeps s₀ (f u)) :
    Keeps s₀ (State.bellOnce s k hops m f) := by
  unfold State.bellOnce
  try dsimp only
  repeat' first
    | with_reducible exact h
    | with_reducible refine hf _ ?_
    | with_reducible refine State.flood_keeps ?_
    | with_reducible refine Keeps.ite ?_ ?_
    | (fail_if_no_progress with_reducible refine Keeps.mk_same ?_ rfl)

theorem State.bellIn_keeps {s₀ : State} {s : State} {a : Arrival} {hops : BitVec 8} {m : BellMsg} {f : State → State} (h : Keeps s₀ s)
    (hf : ∀ u, Keeps s₀ u → Keeps s₀ (f u)) :
    Completes s₀ (State.bellIn s a hops m f) := by
  unfold State.bellIn
  try dsimp only
  repeat' first
    | with_reducible exact h
    | with_reducible refine hf _ ?_
    | with_reducible refine State.receive_keeps ?_ ?_
    | with_reducible refine ifClean_keeps ?_ ?_
    | with_reducible refine State.bellOnce_keeps ?_ ?_
    | with_reducible refine Completes.next ?_
    | (intro u b; try beta_reduce)
    | with_reducible assumption

theorem State.onGroup_keeps {s₀ : State} {s : State} {g : Nat} {f : State → Fin 64 → State} (h : Keeps s₀ s) (hf : ∀ u r, Keeps s₀ u → Keeps s₀ (f u r)) :
    Keeps s₀ (State.onGroup s g f) := by
  unfold State.onGroup
  try dsimp only
  repeat' first
    | with_reducible exact h
    | with_reducible refine overAll_keeps ?_ ?_
    | with_reducible refine hf _ _ ?_
    | with_reducible refine Keeps.ite ?_ ?_
    | (intro u a b; try beta_reduce)
    | with_reducible assumption

theorem State.fire_keeps {s₀ : State} {s : State} {g : Nat} {raw : Int} {origin : BitVec 11} {seq : BitVec 32} (h : Keeps s₀ s) :
    Keeps s₀ (State.fire s g raw origin seq) := by
  unfold State.fire
  try dsimp only
  repeat' first
    | with_reducible exact h
    | with_reducible refine State.onGroup_keeps ?_ ?_
    | with_reducible refine State.trigger_keeps ?_
    | (intro u a b; try beta_reduce)
    | with_reducible assumption

theorem State.armGroup_keeps {s₀ : State} {s : State} {g : Nat} {mode : Nat} {epoch : Nat} (h : Keeps s₀ s) :
    Keeps s₀ (State.armGroup s g mode epoch) := by
  unfold State.armGroup
  try dsimp only
  repeat' first
    | with_reducible exact h
    | with_reducible refine State.onGroup_keeps ?_ ?_
    | with_reducible refine State.armRegion_keeps ?_
    | with_reducible refine Keeps.ite ?_ ?_
    | (intro u a b; try beta_reduce)
    | with_reducible assumption
    | (fail_if_no_progress with_reducible refine Keeps.mk_same ?_ rfl)

theorem execBellArm_keeps {s₀ : State} {a : Arrival} {hops : BitVec 8} {m : BellMsg} {s : State} (h : Keeps s₀ s) :
    Completes s₀ (execBellArm a hops m s) := by
  unfold execBellArm
  try dsimp only
  repeat' first
    | with_reducible exact h
    | with_reducible refine State.bellIn_keeps ?_ ?_
    | with_reducible refine State.armGroup_keeps ?_
    | with_reducible refine State.bump_keeps ?_
    | (intro u b; try beta_reduce)
    | with_reducible assumption
    | with_reducible refine Keeps.ite ?_ ?_
    | with_reducible refine Completes.next ?_

theorem execBellDisarm_keeps {s₀ : State} {a : Arrival} {hops : BitVec 8} {m : BellMsg} {s : State} (h : Keeps s₀ s) :
    Completes s₀ (execBellDisarm a hops m s) := by
  unfold execBellDisarm
  try dsimp only
  repeat' first
    | with_reducible exact h
    | with_reducible refine State.bellIn_keeps ?_ ?_
    | with_reducible refine State.armGroup_keeps ?_
    | with_reducible refine State.bump_keeps ?_
    | (intro u b; try beta_reduce)
    | with_reducible assumption
    | with_reducible refine Completes.next ?_

theorem execBellFire_keeps {s₀ : State} {a : Arrival} {hops : BitVec 8} {m : BellMsg} {s : State} (h : Keeps s₀ s) :
    Completes s₀ (execBellFire a hops m s) := by
  unfold execBellFire
  try dsimp only
  repeat' first
    | with_reducible exact h
    | with_reducible refine State.bellIn_keeps ?_ ?_
    | with_reducible refine State.fire_keeps ?_
    | with_reducible refine State.bump_keeps ?_
    | (intro u b; try beta_reduce)
    | with_reducible assumption
    | with_reducible refine Completes.next ?_

theorem execArmAtEpoch_keeps {s₀ : State} {s : State} (h : Keeps s₀ s) :
    Completes s₀ (execArmAtEpoch s) := by
  unfold execArmAtEpoch
  try dsimp only
  repeat' first
    | with_reducible exact h
    | with_reducible refine State.onGroup_keeps ?_ ?_
    | with_reducible refine State.armRegion_keeps ?_
    | with_reducible refine Completes.next ?_
    | with_reducible refine Keeps.foldl ?_ ?_
    | (intro u a b; try beta_reduce)
    | with_reducible assumption
    | (fail_if_no_progress with_reducible refine Keeps.mk_same ?_ rfl)

theorem execBellTypeViolation_keeps {s₀ : State} {a : Arrival} {hops : BitVec 8} {m : BellMsg} {s : State} (h : Keeps s₀ s) :
    Completes s₀ (execBellTypeViolation a hops m s) := by
  unfold execBellTypeViolation
  try dsimp only
  repeat' first
    | with_reducible exact h
    | with_reducible refine State.bellIn_keeps ?_ ?_
    | with_reducible refine State.violate_keeps ?_
    | (intro u b; try beta_reduce)
    | with_reducible assumption
    | with_reducible refine Completes.next ?_

theorem fireGroupEff_keeps {s₀ : State} {s : State} {g : Nat} (h : Keeps s₀ s) :
    Keeps s₀ (fireGroupEff s g) := by
  unfold fireGroupEff
  try dsimp only
  repeat' first
    | with_reducible exact h
    | with_reducible refine State.fire_keeps ?_
    | with_reducible refine State.sendBell_keeps ?_

theorem armGroupEff_keeps {s₀ : State} {s : State} {v : Nat} (h : Keeps s₀ s) :
    Keeps s₀ (armGroupEff s v) := by
  unfold armGroupEff
  try dsimp only
  repeat' first
    | with_reducible exact h
    | with_reducible refine State.sendBell_keeps ?_
    | with_reducible refine State.armGroup_keeps ?_
    | with_reducible refine Keeps.ite ?_ ?_

end Sys2Proof.Machine
end

