-- ==== Sys2Proof/Laws/Flash.lean ====
section
/-! SUPPORT. What the operations of Machine/Flash.lean keep, one lemma each (Keeps, Completes: Laws/Keeps.lean). -/

/- One declaration after another: side by side they would need more memory. -/
set_option Elab.async false

namespace Sys2Proof.Machine

theorem State.journal_keeps {s₀ : State} {s : State} {j : Nat} (h : Keeps s₀ s) :
    Keeps s₀ (State.journal s j) := by
  unfold State.journal
  try dsimp only
  repeat' first
    | with_reducible exact h
    | with_reducible refine State.setBit_keeps ?_

theorem State.calCarried_keeps {s₀ : State} {s : State} {j : Fin 18} (h : Keeps s₀ s) :
    Keeps s₀ (State.calCarried s j) := by
  unfold State.calCarried
  try dsimp only
  repeat' first
    | with_reducible exact h
    | with_reducible refine Keeps.ite ?_ ?_
    | (fail_if_no_progress with_reducible refine Keeps.mk_same ?_ rfl)

theorem execJournalWrite_keeps {s₀ : State} {j : Fin 18} {s : State} (h : Keeps s₀ s) :
    Completes s₀ (execJournalWrite j s) := by
  unfold execJournalWrite
  try dsimp only
  repeat' first
    | with_reducible exact h
    | with_reducible refine State.clrBit_keeps ?_
    | with_reducible refine State.modJournal_keeps ?_
    | with_reducible refine State.calCarried_keeps ?_
    | with_reducible refine Keeps.ite ?_ ?_
    | with_reducible refine Completes.next ?_
    | (fail_if_no_progress with_reducible refine Keeps.mk_same ?_ rfl)

theorem State.countErase_keeps {s₀ : State} {s : State} {j : Fin 18} (h : Keeps s₀ s) :
    Keeps s₀ (State.countErase s j) := by
  unfold State.countErase
  try dsimp only
  repeat' first
    | with_reducible exact h
    | with_reducible refine State.modJournal_keeps ?_
    | with_reducible refine State.put_keeps ?_
    | with_reducible refine State.putBit_keeps ?_

theorem State.calCommitted_keeps {s₀ : State} {s : State} (h : Keeps s₀ s) :
    Keeps s₀ (State.calCommitted s) := by
  unfold State.calCommitted
  try dsimp only
  repeat' first
    | with_reducible exact h
    | with_reducible refine State.modCal_keeps ?_
    | with_reducible refine State.put_keeps ?_
    | with_reducible refine Keeps.foldl ?_ ?_
    | (intro u a b; try beta_reduce)
    | with_reducible assumption
    | with_reducible refine Keeps.ite ?_ ?_
    | (fail_if_no_progress with_reducible refine Keeps.mk_same ?_ rfl)

theorem State.commitJournal_keeps {s₀ : State} {s : State} {j : Fin 18} {w : WriteJob} (h : Keeps s₀ s) :
    Keeps s₀ (State.commitJournal s j w) := by
  unfold State.commitJournal
  try dsimp only
  repeat' first
    | with_reducible exact h
    | with_reducible refine State.modJournal_keeps ?_
    | with_reducible refine State.put_keeps ?_
    | with_reducible refine State.bump_keeps ?_
    | with_reducible refine State.calCommitted_keeps ?_
    | (fail_if_no_progress with_reducible refine Keeps.mk_same ?_ rfl)
    | split

theorem State.flashEnd_keeps {s₀ : State} {s : State} {j : Fin 18} {ok : Bool} (h : Keeps s₀ s) :
    Keeps s₀ (State.flashEnd s j ok) := by
  unfold State.flashEnd
  try dsimp only
  repeat' first
    | with_reducible exact h
    | with_reducible refine State.modJournal_keeps ?_
    | with_reducible refine State.countErase_keeps ?_
    | with_reducible refine State.log_keeps ?_
    | with_reducible refine State.setBit_keeps ?_
    | with_reducible refine State.commitJournal_keeps ?_
    | with_reducible refine Keeps.ite ?_ ?_
    | split

theorem State.abandonErase_keeps {s₀ : State} {s : State} {j : Fin 18} (h : Keeps s₀ s) :
    Keeps s₀ (State.abandonErase s j) := by
  unfold State.abandonErase
  try dsimp only
  repeat' first
    | with_reducible exact h
    | with_reducible refine State.modJournal_keeps ?_
    | with_reducible refine State.bump_keeps ?_
    | with_reducible refine Keeps.ite ?_ ?_
    | split

theorem execEarlyWarn_keeps {s₀ : State} {rails : BitVec 32} {s : State} (h : Keeps s₀ s) :
    Completes s₀ (execEarlyWarn rails s) := by
  unfold execEarlyWarn
  try dsimp only
  repeat' first
    | with_reducible exact h
    | with_reducible refine State.setBit_keeps ?_
    | with_reducible refine State.put_keeps ?_
    | with_reducible refine overAll_keeps ?_ ?_
    | with_reducible refine State.bump_keeps ?_
    | with_reducible refine State.abandonErase_keeps ?_
    | with_reducible refine Completes.next ?_
    | with_reducible refine Keeps.ite ?_ ?_
    | (intro u a b; try beta_reduce)
    | with_reducible assumption

theorem State.resumeWrite_keeps {s₀ : State} {s : State} {j : Fin 18} (h : Keeps s₀ s) :
    Keeps s₀ (State.resumeWrite s j) := by
  unfold State.resumeWrite
  try dsimp only
  repeat' first
    | with_reducible exact h
    | with_reducible refine State.modJournal_keeps ?_
    | with_reducible refine Keeps.ite ?_ ?_
    | split

theorem execEarlyWarnClear_keeps {s₀ : State} {s : State} (h : Keeps s₀ s) :
    Completes s₀ (execEarlyWarnClear s) := by
  unfold execEarlyWarnClear
  try dsimp only
  repeat' first
    | with_reducible exact h
    | with_reducible refine State.clrBit_keeps ?_
    | with_reducible refine State.put_keeps ?_
    | with_reducible refine overAll_keeps ?_ ?_
    | with_reducible refine State.flushCells_keeps ?_
    | with_reducible refine State.resumeWrite_keeps ?_
    | with_reducible refine Completes.next ?_
    | (intro u a b; try beta_reduce)
    | with_reducible assumption

end Sys2Proof.Machine
end

