-- ==== Sys2Proof/Laws/Calib.lean ====
section
/-! SUPPORT. What the operations of Machine/Calib.lean keep, one lemma each (Keeps, Completes: Laws/Keeps.lean). -/

/- One declaration after another: side by side they would need more memory. -/
set_option Elab.async false

namespace Sys2Proof.Machine

theorem State.calFlag_keeps {s₀ : State} {s : State} (h : Keeps s₀ s) :
    Keeps s₀ (State.calFlag s) := by
  unfold State.calFlag
  try dsimp only
  repeat' first
    | with_reducible exact h
    | with_reducible refine State.putBit_keeps ?_

theorem calStartEff_keeps {s₀ : State} {s : State} {k : Nat} (h : Keeps s₀ s) :
    Keeps s₀ (calStartEff s k) := by
  unfold calStartEff
  try dsimp only
  repeat' first
    | with_reducible exact h
    | with_reducible refine State.modCal_keeps ?_
    | with_reducible refine State.bump_keeps ?_
    | with_reducible refine State.put_keeps ?_
    | with_reducible refine State.calFlag_keeps ?_
    | (fail_if_no_progress with_reducible refine Keeps.mk_same ?_ rfl)

theorem State.giveTrims_keeps {s₀ : State} {s : State} {k : Nat} {l : List (Nat × List Byte)} (h : Keeps s₀ s) :
    Keeps s₀ (State.giveTrims s k l) := by
  unfold State.giveTrims
  try dsimp only
  repeat' first
    | with_reducible exact h
    | with_reducible refine State.modCal_keeps ?_
    | with_reducible refine Keeps.ite ?_ ?_
    | (fail_if_no_progress with_reducible refine Keeps.mk_same ?_ rfl)

theorem State.takeBack_keeps {s₀ : State} {s : State} {k : Nat} (h : Keeps s₀ s) :
    Keeps s₀ (State.takeBack s k) := by
  unfold State.takeBack
  try dsimp only
  repeat' first
    | with_reducible exact h
    | with_reducible refine State.put_keeps ?_
    | with_reducible refine State.journal_keeps ?_
    | with_reducible refine Keeps.ite ?_ ?_
    | (fail_if_no_progress with_reducible refine Keeps.mk_same ?_ rfl)

theorem State.discardCalShots_keeps {s₀ : State} {s : State} {k : Nat} (h : Keeps s₀ s) :
    Keeps s₀ (State.discardCalShots s k) := by
  unfold State.discardCalShots
  try dsimp only
  repeat' first
    | with_reducible exact h
    | with_reducible refine State.modPort_keeps ?_
    | with_reducible refine Keeps.ite ?_ ?_

theorem State.calEnd_keeps {s₀ : State} {s : State} {k : Nat} (h : Keeps s₀ s) :
    Keeps s₀ (State.calEnd s k) := by
  unfold State.calEnd
  try dsimp only
  repeat' first
    | with_reducible exact h
    | with_reducible refine State.discardCalShots_keeps ?_
    | with_reducible refine State.put_keeps ?_
    | with_reducible refine State.modCal_keeps ?_
    | with_reducible refine State.calFlag_keeps ?_
    | (fail_if_no_progress with_reducible refine Keeps.mk_same ?_ rfl)

theorem State.calFail_keeps {s₀ : State} {s : State} {k result : Nat} (h : Keeps s₀ s) :
    Keeps s₀ (State.calFail s k result) := by
  unfold State.calFail
  try dsimp only
  repeat' first
    | with_reducible exact h
    | with_reducible refine State.giveTrims_keeps ?_
    | with_reducible refine State.takeBack_keeps ?_
    | with_reducible refine State.put_keeps ?_
    | with_reducible refine State.bump_keeps ?_
    | with_reducible refine State.calEnd_keeps ?_
    | with_reducible refine Keeps.ite ?_ ?_

theorem State.calAbort_keeps {s₀ : State} {s : State} {k : Nat} (h : Keeps s₀ s) :
    Keeps s₀ (State.calAbort s k) := by
  unfold State.calAbort
  try dsimp only
  repeat' first
    | with_reducible exact h
    | with_reducible refine State.calFail_keeps ?_
    | with_reducible refine Keeps.ite ?_ ?_

theorem State.calSlotRefused_keeps {s₀ : State} {s : State} {n : Port} (h : Keeps s₀ s) :
    Keeps s₀ (State.calSlotRefused s n) := by
  unfold State.calSlotRefused
  try dsimp only
  repeat' first
    | with_reducible exact h
    | with_reducible refine State.modCal_keeps ?_
    | with_reducible refine State.calAbort_keeps ?_
    | with_reducible refine Keeps.ite ?_ ?_

theorem State.abortCals_keeps {s₀ : State} {s : State} (h : Keeps s₀ s) :
    Keeps s₀ (State.abortCals s) := by
  unfold State.abortCals
  try dsimp only
  repeat' first
    | with_reducible exact h
    | with_reducible refine State.calAbort_keeps ?_
    | with_reducible refine Keeps.foldl ?_ ?_
    | (intro u a b; try beta_reduce)
    | with_reducible assumption

theorem State.calDone_keeps {s₀ : State} {s : State} {k : Nat} {m : CalMeasure} (h : Keeps s₀ s) :
    Keeps s₀ (State.calDone s k m) := by
  unfold State.calDone
  try dsimp only
  repeat' first
    | with_reducible exact h
    | with_reducible refine State.put_keeps ?_
    | with_reducible refine State.calEnd_keeps ?_
    | with_reducible refine State.modCal_keeps ?_
    | with_reducible refine State.journal_keeps ?_
    | with_reducible refine State.calFlag_keeps ?_
    | with_reducible refine Keeps.ite ?_ ?_
    | (fail_if_no_progress with_reducible refine Keeps.mk_same ?_ rfl)

theorem State.calNext_keeps {s₀ : State} {s : State} {k : Nat} (h : Keeps s₀ s) :
    Keeps s₀ (State.calNext s k) := by
  unfold State.calNext
  try dsimp only
  repeat' first
    | with_reducible exact h
    | with_reducible refine State.modCal_keeps ?_
    | with_reducible refine Keeps.ite ?_ ?_
    | (fail_if_no_progress with_reducible refine Keeps.mk_same ?_ rfl)

theorem execCalComputationEnd_keeps {s₀ : State} {k : Fin 20} {m : CalMeasure} {s : State} (h : Keeps s₀ s) :
    Completes s₀ (execCalComputationEnd k m s) := by
  unfold execCalComputationEnd
  try dsimp only
  repeat' first
    | with_reducible exact h
    | with_reducible refine State.discardCalShots_keeps ?_
    | with_reducible refine State.calFail_keeps ?_
    | with_reducible refine State.puti_keeps ?_
    | with_reducible refine State.giveTrims_keeps ?_
    | with_reducible refine State.calDone_keeps ?_
    | with_reducible refine State.calNext_keeps ?_
    | with_reducible refine State.put_keeps ?_
    | with_reducible refine Keeps.ite ?_ ?_
    | with_reducible refine Completes.next ?_

theorem execCalTimeout_keeps {s₀ : State} {k : Fin 20} {s : State} (h : Keeps s₀ s) :
    Completes s₀ (execCalTimeout k s) := by
  unfold execCalTimeout
  try dsimp only
  repeat' first
    | with_reducible exact h
    | with_reducible refine State.calAbort_keeps ?_
    | with_reducible refine Completes.next ?_

theorem State.dueFlag_keeps {s₀ : State} {s : State} (h : Keeps s₀ s) :
    Keeps s₀ (State.dueFlag s) := by
  unfold State.dueFlag
  try dsimp only
  repeat' first
    | with_reducible exact h
    | with_reducible refine State.putBit_keeps ?_

theorem execCalAutoStart_keeps {s₀ : State} {k : Fin 20} {s : State} (h : Keeps s₀ s) :
    Completes s₀ (execCalAutoStart k s) := by
  unfold execCalAutoStart
  try dsimp only
  repeat' first
    | with_reducible exact h
    | with_reducible refine calStartEff_keeps ?_
    | with_reducible refine Completes.next ?_
    | with_reducible refine Keeps.ite ?_ ?_

theorem execTdcShadowSwap_keeps {s₀ : State} {s : State} (h : Keeps s₀ s) :
    Completes s₀ (execTdcShadowSwap s) := by
  unfold execTdcShadowSwap
  try dsimp only
  repeat' first
    | with_reducible exact h
    | with_reducible refine Completes.next ?_
    | (fail_if_no_progress with_reducible refine Keeps.mk_same ?_ rfl)
    | split

end Sys2Proof.Machine
end

