-- ==== Sys2Proof/Laws/Clocks.lean ====
section
/-! SUPPORT. What the operations of Machine/Clocks.lean keep, one lemma each (Keeps, Completes: Laws/Keeps.lean). -/

/- One declaration after another: side by side they would need more memory. -/
set_option Elab.async false

namespace Sys2Proof.Machine

theorem State.modRef_keeps {s₀ : State} {s : State} {r : Fin 3} {f : RefPart → RefPart} (h : Keeps s₀ s) :
    Keeps s₀ (State.modRef s r f) := by
  unfold State.modRef
  try dsimp only
  repeat' first
    | with_reducible exact h
    | (fail_if_no_progress with_reducible refine Keeps.mk_same ?_ rfl)

theorem State.refFlags_keeps {s₀ : State} {s : State} (h : Keeps s₀ s) :
    Keeps s₀ (State.refFlags s) := by
  unfold State.refFlags
  try dsimp only
  repeat' first
    | with_reducible exact h
    | with_reducible refine State.putBit_keeps ?_

theorem State.serdesFlag_keeps {s₀ : State} {s : State} (h : Keeps s₀ s) :
    Keeps s₀ (State.serdesFlag s) := by
  unfold State.serdesFlag
  try dsimp only
  repeat' first
    | with_reducible exact h
    | with_reducible refine State.putBit_keeps ?_

theorem State.timeBase_keeps {s₀ : State} {s : State} (h : Keeps s₀ s) :
    Keeps s₀ (State.timeBase s) := by
  unfold State.timeBase
  try dsimp only
  repeat' first
    | with_reducible exact h
    | with_reducible refine State.putBit_keeps ?_
    | with_reducible refine State.put_keeps ?_
    | with_reducible refine overAll_keeps ?_ ?_
    | with_reducible refine State.setBit_keeps ?_
    | with_reducible refine State.modUnit_keeps ?_
    | with_reducible refine Keeps.ite ?_ ?_
    | (intro u a b; try beta_reduce)
    | with_reducible assumption

theorem State.chooseRef_keeps {s₀ : State} {s : State} (h : Keeps s₀ s) :
    Keeps s₀ (State.chooseRef s) := by
  unfold State.chooseRef
  try dsimp only
  repeat' first
    | with_reducible exact h
    | with_reducible refine State.put_keeps ?_
    | with_reducible refine State.ppsFlag_keeps ?_
    | with_reducible refine Keeps.ite ?_ ?_
    | (fail_if_no_progress with_reducible refine Keeps.mk_same ?_ rfl)
    | split

theorem State.useRef_keeps {s₀ : State} {s : State} (h : Keeps s₀ s) :
    Keeps s₀ (State.useRef s) := by
  unfold State.useRef
  try dsimp only
  repeat' first
    | with_reducible exact h
    | with_reducible refine State.timeBase_keeps ?_
    | with_reducible refine State.chooseRef_keeps ?_

theorem State.dropShots_keeps {s₀ : State} {s : State} (h : Keeps s₀ s) :
    Keeps s₀ (State.dropShots s) := by
  unfold State.dropShots
  try dsimp only
  repeat' first
    | with_reducible exact h
    | with_reducible refine overAll_keeps ?_ ?_
    | with_reducible refine State.add_keeps ?_
    | with_reducible refine State.modPort_keeps ?_
    | with_reducible refine State.modPipe_keeps ?_
    | (intro u a b; try beta_reduce)
    | with_reducible assumption
    | with_reducible refine Keeps.ite ?_ ?_

theorem State.dramRate_keeps {s₀ : State} {s : State} {rate : Nat} (h : Keeps s₀ s) :
    Keeps s₀ (State.dramRate s rate) := by
  unfold State.dramRate
  try dsimp only
  repeat' first
    | with_reducible exact h
    | with_reducible refine overAll_keeps ?_ ?_
    | with_reducible refine State.put_keeps ?_
    | (intro u a b; try beta_reduce)
    | with_reducible assumption
    | with_reducible refine Keeps.ite ?_ ?_

theorem State.enterCoast_keeps {s₀ : State} {s : State} (h : Keeps s₀ s) :
    Keeps s₀ (State.enterCoast s) := by
  unfold State.enterCoast
  try dsimp only
  repeat' first
    | with_reducible exact h
    | with_reducible refine State.setBit_keeps ?_
    | with_reducible refine State.clrBit_keeps ?_
    | with_reducible refine State.put_keeps ?_
    | with_reducible refine State.bump_keeps ?_
    | with_reducible refine State.dropShots_keeps ?_
    | with_reducible refine State.invalidateOpen_keeps ?_
    | with_reducible refine State.abortCals_keeps ?_
    | with_reducible refine State.dramRate_keeps ?_
    | with_reducible refine State.serdesFlag_keeps ?_
    | with_reducible refine State.ppsFlag_keeps ?_
    | with_reducible refine State.timeBase_keeps ?_
    | (fail_if_no_progress with_reducible refine Keeps.mk_same ?_ rfl)

theorem State.refFail_keeps {s₀ : State} {s : State} (h : Keeps s₀ s) :
    Keeps s₀ (State.refFail s) := by
  unfold State.refFail
  try dsimp only
  repeat' first
    | with_reducible exact h
    | with_reducible refine State.logEvent_keeps ?_
    | with_reducible refine State.enterCoast_keeps ?_
    | with_reducible refine State.put_keeps ?_
    | with_reducible refine Keeps.ite ?_ ?_

theorem State.disqualify_keeps {s₀ : State} {s : State} {r : Fin 3} (h : Keeps s₀ s) :
    Keeps s₀ (State.disqualify s r) := by
  unfold State.disqualify
  try dsimp only
  repeat' first
    | with_reducible exact h
    | with_reducible refine State.refFlags_keeps ?_
    | with_reducible refine State.modRef_keeps ?_
    | with_reducible refine State.useRef_keeps ?_
    | with_reducible refine State.refFail_keeps ?_
    | with_reducible refine Keeps.ite ?_ ?_

theorem execRefEdgesPresent_keeps {s₀ : State} {r : Fin 3} {s : State} (h : Keeps s₀ s) :
    Completes s₀ (execRefEdgesPresent r s) := by
  unfold execRefEdgesPresent
  try dsimp only
  repeat' first
    | with_reducible exact h
    | with_reducible refine State.modRef_keeps ?_
    | with_reducible refine Completes.next ?_
    | with_reducible refine Keeps.ite ?_ ?_

theorem execRefEdgeLoss_keeps {s₀ : State} {r : Fin 3} {s : State} (h : Keeps s₀ s) :
    Completes s₀ (execRefEdgeLoss r s) := by
  unfold execRefEdgeLoss
  try dsimp only
  repeat' first
    | with_reducible exact h
    | with_reducible refine State.disqualify_keeps ?_
    | with_reducible refine State.modRef_keeps ?_
    | with_reducible refine Completes.next ?_

theorem State.qualify_keeps {s₀ : State} {s : State} {r : Fin 3} {single : Bool} (h : Keeps s₀ s) :
    Keeps s₀ (State.qualify s r single) := by
  unfold State.qualify
  try dsimp only
  repeat' first
    | with_reducible exact h
    | with_reducible refine State.refFlags_keeps ?_
    | with_reducible refine State.modRef_keeps ?_
    | with_reducible refine State.useRef_keeps ?_
    | with_reducible refine State.putBit_keeps ?_

theorem State.watchWosc_keeps {s₀ : State} {s : State} {r : Fin 3} {offset : Int} (h : Keeps s₀ s) :
    Keeps s₀ (State.watchWosc s r offset) := by
  unfold State.watchWosc
  try dsimp only
  repeat' first
    | with_reducible exact h
    | with_reducible refine State.putBit_keeps ?_
    | with_reducible refine Keeps.ite ?_ ?_

theorem State.disagree_keeps {s₀ : State} {s : State} {r : Fin 3} {k : Fin 3} (h : Keeps s₀ s) :
    Keeps s₀ (State.disagree s r k) := by
  unfold State.disagree
  try dsimp only
  repeat' first
    | with_reducible exact h
    | with_reducible refine State.setBit_keeps ?_
    | with_reducible refine State.modRef_keeps ?_
    | with_reducible refine State.useRef_keeps ?_
    | with_reducible refine State.refFlags_keeps ?_
    | with_reducible refine Keeps.ite ?_ ?_

theorem execQualWindowEnd_keeps {s₀ : State} {r : Fin 3} {offset : Int} {s : State} (h : Keeps s₀ s) :
    Completes s₀ (execQualWindowEnd r offset s) := by
  unfold execQualWindowEnd
  try dsimp only
  repeat' first
    | with_reducible exact h
    | with_reducible refine State.clrBit_keeps ?_
    | with_reducible refine State.watchWosc_keeps ?_
    | with_reducible refine State.qualify_keeps ?_
    | with_reducible refine State.disqualify_keeps ?_
    | with_reducible refine State.puti_keeps ?_
    | with_reducible refine State.disagree_keeps ?_
    | with_reducible refine Keeps.ite ?_ ?_
    | with_reducible refine Completes.next ?_
    | (fail_if_no_progress with_reducible refine Keeps.mk_same ?_ rfl)
    | split

theorem execOvenRdyRise_keeps {s₀ : State} {s : State} (h : Keeps s₀ s) :
    Completes s₀ (execOvenRdyRise s) := by
  unfold execOvenRdyRise
  try dsimp only
  repeat' first
    | with_reducible exact h
    | with_reducible refine State.refFlags_keeps ?_
    | with_reducible refine Completes.next ?_
    | (fail_if_no_progress with_reducible refine Keeps.mk_same ?_ rfl)

theorem execOvenHoldExpiry_keeps {s₀ : State} {s : State} (h : Keeps s₀ s) :
    Completes s₀ (execOvenHoldExpiry s) := by
  unfold execOvenHoldExpiry
  try dsimp only
  repeat' first
    | with_reducible exact h
    | with_reducible refine State.refFlags_keeps ?_
    | with_reducible refine State.useRef_keeps ?_
    | with_reducible refine Keeps.ite ?_ ?_
    | with_reducible refine Completes.next ?_
    | (fail_if_no_progress with_reducible refine Keeps.mk_same ?_ rfl)

theorem execOvenRdyFall_keeps {s₀ : State} {s : State} (h : Keeps s₀ s) :
    Completes s₀ (execOvenRdyFall s) := by
  unfold execOvenRdyFall
  try dsimp only
  repeat' first
    | with_reducible exact h
    | with_reducible refine State.refFlags_keeps ?_
    | with_reducible refine State.refFail_keeps ?_
    | with_reducible refine State.useRef_keeps ?_
    | with_reducible refine Keeps.ite ?_ ?_
    | with_reducible refine Completes.next ?_
    | (fail_if_no_progress with_reducible refine Keeps.mk_same ?_ rfl)

theorem State.lockOn_keeps {s₀ : State} {s : State} (h : Keeps s₀ s) :
    Keeps s₀ (State.lockOn s) := by
  unfold State.lockOn
  try dsimp only
  repeat' first
    | with_reducible exact h
    | with_reducible refine State.put_keeps ?_
    | with_reducible refine State.setBit_keeps ?_
    | with_reducible refine State.putBit_keeps ?_
    | with_reducible refine State.drawn_keeps ?_
    | with_reducible refine State.ppsFlag_keeps ?_
    | with_reducible refine State.timeBase_keeps ?_
    | (fail_if_no_progress with_reducible refine Keeps.mk_draw ?_ rfl)

theorem State.leaveCoast_keeps {s₀ : State} {s : State} (h : Keeps s₀ s) :
    Keeps s₀ (State.leaveCoast s) := by
  unfold State.leaveCoast
  try dsimp only
  repeat' first
    | with_reducible exact h
    | with_reducible refine State.put_keeps ?_
    | with_reducible refine State.dramRate_keeps ?_
    | with_reducible refine State.clrBit_keeps ?_
    | with_reducible refine State.lockOn_keeps ?_
    | with_reducible refine State.serdesFlag_keeps ?_
    | with_reducible refine State.useRef_keeps ?_
    | with_reducible refine State.discardEvents_keeps ?_
    | with_reducible refine State.canFlush_keeps ?_
    | with_reducible refine Keeps.ite ?_ ?_
    | (fail_if_no_progress with_reducible refine Keeps.mk_same ?_ rfl)

theorem execCoastAcquire_keeps {s₀ : State} {s : State} (h : Keeps s₀ s) :
    Completes s₀ (execCoastAcquire s) := by
  unfold execCoastAcquire
  try dsimp only
  repeat' first
    | with_reducible exact h
    | with_reducible refine State.useRef_keeps ?_
    | with_reducible refine Completes.next ?_
    | with_reducible refine Keeps.ite ?_ ?_
    | (fail_if_no_progress with_reducible refine Keeps.mk_same ?_ rfl)

theorem State.coastExit_keeps {s₀ : State} {s : State} (h : Keeps s₀ s) :
    Keeps s₀ (State.coastExit s) := by
  unfold State.coastExit
  try dsimp only
  repeat' first
    | with_reducible exact h
    | with_reducible refine State.put_keeps ?_
    | with_reducible refine State.leaveCoast_keeps ?_
    | with_reducible refine Keeps.ite ?_ ?_

theorem State.loseFloor_keeps {s₀ : State} {s : State} (h : Keeps s₀ s) :
    Keeps s₀ (State.loseFloor s) := by
  unfold State.loseFloor
  try dsimp only
  repeat' first
    | with_reducible exact h
    | with_reducible refine State.modRef_keeps ?_
    | with_reducible refine State.refFlags_keeps ?_
    | with_reducible refine State.logEvent_keeps ?_
    | with_reducible refine State.useRef_keeps ?_
    | (fail_if_no_progress with_reducible refine Keeps.mk_same ?_ rfl)
    | split

theorem execPllLockLoss_keeps {s₀ : State} {s : State} (h : Keeps s₀ s) :
    Completes s₀ (execPllLockLoss s) := by
  unfold execPllLockLoss
  try dsimp only
  repeat' first
    | with_reducible exact h
    | with_reducible refine State.loseFloor_keeps ?_
    | with_reducible refine State.disqualify_keeps ?_
    | with_reducible refine Keeps.ite ?_ ?_
    | with_reducible refine Completes.next ?_
    | (fail_if_no_progress with_reducible refine Keeps.mk_same ?_ rfl)
    | split

theorem execDomainSourceLoss_keeps {s₀ : State} {d : Fin 16} {s : State} (h : Keeps s₀ s) :
    Completes s₀ (execDomainSourceLoss d s) := by
  unfold execDomainSourceLoss
  try dsimp only
  repeat' first
    | with_reducible exact h
    | with_reducible refine State.switchDomains_keeps ?_
    | with_reducible refine Completes.next ?_
    | with_reducible refine Keeps.ite ?_ ?_

theorem execRootStop_keeps {s₀ : State} {s : State} (h : Keeps s₀ s) :
    Completes s₀ (execRootStop s) := by
  unfold execRootStop
  try dsimp only
  repeat' first
    | with_reducible exact h
    | with_reducible refine State.clrBit_keeps ?_
    | with_reducible refine State.put_keeps ?_
    | with_reducible refine State.switchDomains_keeps ?_
    | with_reducible refine State.serdesFlag_keeps ?_
    | with_reducible refine State.ppsFlag_keeps ?_
    | with_reducible refine State.useRef_keeps ?_
    | with_reducible refine Completes.next ?_
    | (fail_if_no_progress with_reducible refine Keeps.mk_same ?_ rfl)

theorem State.trimMoved_keeps {s₀ : State} {s : State} (h : Keeps s₀ s) :
    Keeps s₀ (State.trimMoved s) := by
  unfold State.trimMoved
  try dsimp only
  repeat' first
    | with_reducible exact h
    | with_reducible refine State.journal_keeps ?_
    | with_reducible refine Keeps.ite ?_ ?_

theorem execAgeLearnTick_keeps {s₀ : State} {s : State} (h : Keeps s₀ s) :
    Completes s₀ (execAgeLearnTick s) := by
  unfold execAgeLearnTick
  try dsimp only
  repeat' first
    | with_reducible exact h
    | with_reducible refine State.integrateAdj_keeps ?_
    | with_reducible refine State.trimMoved_keeps ?_
    | with_reducible refine State.puti_keeps ?_
    | with_reducible refine Completes.next ?_
    | with_reducible refine Keeps.ite ?_ ?_
    | (fail_if_no_progress with_reducible refine Keeps.mk_same ?_ rfl)

theorem execXtalTrimSave_keeps {s₀ : State} {s : State} (h : Keeps s₀ s) :
    Completes s₀ (execXtalTrimSave s) := by
  unfold execXtalTrimSave
  try dsimp only
  repeat' first
    | with_reducible exact h
    | with_reducible refine State.journal_keeps ?_
    | with_reducible refine State.puti_keeps ?_
    | with_reducible refine State.logEvent_keeps ?_
    | with_reducible refine Keeps.ite ?_ ?_
    | with_reducible refine Completes.next ?_
    | (fail_if_no_progress with_reducible refine Keeps.mk_same ?_ rfl)

theorem State.commitClocks_keeps {s₀ : State} {s : State} (h : Keeps s₀ s) :
    Keeps s₀ (State.commitClocks s) := by
  unfold State.commitClocks
  try dsimp only
  repeat' first
    | with_reducible exact h
    | with_reducible refine State.commit_keeps ?_
    | with_reducible refine State.trimMoved_keeps ?_
    | with_reducible refine State.serdesFlag_keeps ?_
    | with_reducible refine State.useRef_keeps ?_
    | with_reducible refine State.refFlags_keeps ?_
    | with_reducible refine Keeps.ite ?_ ?_
    | (fail_if_no_progress with_reducible refine Keeps.mk_same ?_ rfl)

end Sys2Proof.Machine
end

