-- ==== Sys2Proof/Laws/Plant.lean ====
section
/-! SUPPORT. What the operations of Machine/Plant.lean keep, one lemma each (Keeps, Completes: Laws/Keeps.lean). -/

/- One declaration after another: side by side they would need more memory. -/
set_option Elab.async false

namespace Sys2Proof.Machine

theorem State.modSfe_keeps {s₀ : State} {s : State} {c : Fin 8} {f : SfeChannel → SfeChannel} (h : Keeps s₀ s) :
    Keeps s₀ (State.modSfe s c f) := by
  unfold State.modSfe
  try dsimp only
  repeat' first
    | with_reducible exact h
    | (fail_if_no_progress with_reducible refine Keeps.mk_same ?_ rfl)

theorem State.modLoop_keeps {s₀ : State} {s : State} {o : Fin 8} {f : LoopPart → LoopPart} (h : Keeps s₀ s) :
    Keeps s₀ (State.modLoop s o f) := by
  unfold State.modLoop
  try dsimp only
  repeat' first
    | with_reducible exact h
    | (fail_if_no_progress with_reducible refine Keeps.mk_same ?_ rfl)

theorem State.modChain_keeps {s₀ : State} {s : State} {f : ChainPart → ChainPart} (h : Keeps s₀ s) :
    Keeps s₀ (State.modChain s f) := by
  unfold State.modChain
  try dsimp only
  repeat' first
    | with_reducible exact h
    | (fail_if_no_progress with_reducible refine Keeps.mk_same ?_ rfl)

theorem State.loopLevel_keeps {s₀ : State} {s : State} {o : Fin 8} {fault : Bool} (h : Keeps s₀ s) :
    Keeps s₀ (State.loopLevel s o fault) := by
  unfold State.loopLevel
  try dsimp only
  repeat' first
    | with_reducible exact h
    | with_reducible refine State.putBit_keeps ?_

theorem State.loopTrip_keeps {s₀ : State} {s : State} {o : Fin 8} (h : Keeps s₀ s) :
    Keeps s₀ (State.loopTrip s o) := by
  unfold State.loopTrip
  try dsimp only
  repeat' first
    | with_reducible exact h
    | with_reducible refine State.bump_keeps ?_
    | with_reducible refine State.loopLevel_keeps ?_
    | with_reducible refine State.put_keeps ?_
    | with_reducible refine Keeps.ite ?_ ?_

theorem State.loopGood_keeps {s₀ : State} {s : State} {o : Fin 8} {ua : Nat} (h : Keeps s₀ s) :
    Keeps s₀ (State.loopGood s o ua) := by
  unfold State.loopGood
  try dsimp only
  repeat' first
    | with_reducible exact h
    | with_reducible refine State.loopLevel_keeps ?_
    | with_reducible refine State.put_keeps ?_
    | with_reducible refine State.modLoop_keeps ?_

theorem State.loopFollow_keeps {s₀ : State} {s : State} {o : Fin 8} (h : Keeps s₀ s) :
    Keeps s₀ (State.loopFollow s o) := by
  unfold State.loopFollow
  try dsimp only
  repeat' first
    | with_reducible exact h
    | with_reducible refine State.loopLevel_keeps ?_
    | with_reducible refine State.put_keeps ?_
    | with_reducible refine State.loopTrip_keeps ?_
    | with_reducible refine State.loopGood_keeps ?_
    | with_reducible refine Keeps.ite ?_ ?_
    | split

theorem State.loopsFollow_keeps {s₀ : State} {s : State} (h : Keeps s₀ s) :
    Keeps s₀ (State.loopsFollow s) := by
  unfold State.loopsFollow
  try dsimp only
  repeat' first
    | with_reducible exact h
    | with_reducible refine overAll_keeps ?_ ?_
    | with_reducible refine State.loopFollow_keeps ?_
    | (intro u a b; try beta_reduce)
    | with_reducible assumption

theorem State.loopsOfChannel_keeps {s₀ : State} {s : State} {c : Fin 8} (h : Keeps s₀ s) :
    Keeps s₀ (State.loopsOfChannel s c) := by
  unfold State.loopsOfChannel
  try dsimp only
  repeat' first
    | with_reducible exact h
    | with_reducible refine overAll_keeps ?_ ?_
    | with_reducible refine State.loopFollow_keeps ?_
    | with_reducible refine State.modLoop_keeps ?_
    | with_reducible refine Keeps.ite ?_ ?_
    | (intro u a b; try beta_reduce)
    | with_reducible assumption

theorem execLoopControl_keeps {s₀ : State} {o : Fin 8} {meas : BitVec 16} {s : State} (h : Keeps s₀ s) :
    Completes s₀ (execLoopControl o meas s) := by
  unfold execLoopControl
  try dsimp only
  repeat' first
    | with_reducible exact h
    | with_reducible refine State.put_keeps ?_
    | with_reducible refine State.logFlag_keeps ?_
    | with_reducible refine Completes.next ?_
    | with_reducible refine Keeps.ite ?_ ?_

theorem execSrcAgeExpiry_keeps {s₀ : State} {o : Fin 8} {s : State} (h : Keeps s₀ s) :
    Completes s₀ (execSrcAgeExpiry o s) := by
  unfold execSrcAgeExpiry
  try dsimp only
  repeat' first
    | with_reducible exact h
    | with_reducible refine State.loopFollow_keeps ?_
    | with_reducible refine State.modLoop_keeps ?_
    | with_reducible refine Completes.next ?_
    | with_reducible refine Keeps.ite ?_ ?_

theorem execLoopOpen_keeps {s₀ : State} {o : Fin 8} {s : State} (h : Keeps s₀ s) :
    Completes s₀ (execLoopOpen o s) := by
  unfold execLoopOpen
  try dsimp only
  repeat' first
    | with_reducible exact h
    | with_reducible refine State.logFlag_keeps ?_
    | with_reducible refine Completes.next ?_
    | with_reducible refine Keeps.ite ?_ ?_

theorem execLoopDev_keeps {s₀ : State} {o : Fin 8} {s : State} (h : Keeps s₀ s) :
    Completes s₀ (execLoopDev o s) := by
  unfold execLoopDev
  try dsimp only
  repeat' first
    | with_reducible exact h
    | with_reducible refine State.logFlag_keeps ?_
    | with_reducible refine Completes.next ?_
    | with_reducible refine Keeps.ite ?_ ?_

theorem State.putReading_keeps {s₀ : State} {s : State} {c : Fin 8} {code : Nat} {value : Nat} {res : Nat} {stamp : Stamp} {flags : Nat} (h : Keeps s₀ s) :
    Keeps s₀ (State.putReading s c code value res stamp flags) := by
  unfold State.putReading
  try dsimp only
  repeat' first
    | with_reducible exact h
    | with_reducible refine State.put_keeps ?_
    | with_reducible refine State.bump_keeps ?_
    | with_reducible refine State.log_keeps ?_
    | with_reducible refine State.modSfe_keeps ?_
    | with_reducible refine State.loopsOfChannel_keeps ?_
    | with_reducible refine Keeps.ite ?_ ?_

theorem State.convert_keeps {s₀ : State} {s : State} {c : Fin 8} {x : SfeSample} {second : Option SfeSample} (h : Keeps s₀ s) :
    Keeps s₀ (State.convert s c x second) := by
  unfold State.convert
  try dsimp only
  repeat' first
    | with_reducible exact h
    | with_reducible refine State.putReading_keeps ?_
    | with_reducible refine State.modSfe_keeps ?_
    | with_reducible refine Keeps.ite ?_ ?_
    | (fail_if_no_progress with_reducible refine Keeps.mk_same ?_ rfl)
    | split

theorem execConversionEnd_keeps {s₀ : State} {c : Fin 8} {x : SfeSample} {second : Option SfeSample} {s : State} (h : Keeps s₀ s) :
    Completes s₀ (execConversionEnd c x second s) := by
  unfold execConversionEnd
  try dsimp only
  repeat' first
    | with_reducible exact h
    | with_reducible refine State.putReading_keeps ?_
    | with_reducible refine State.modSfe_keeps ?_
    | with_reducible refine State.bump_keeps ?_
    | with_reducible refine State.convert_keeps ?_
    | with_reducible refine Keeps.ite ?_ ?_
    | with_reducible refine Completes.next ?_
    | (fail_if_no_progress with_reducible refine Keeps.mk_same ?_ rfl)

theorem execExcCompliance_keeps {s₀ : State} {c : Fin 8} {stamp : Stamp} {s : State} (h : Keeps s₀ s) :
    Completes s₀ (execExcCompliance c stamp s) := by
  unfold execExcCompliance
  try dsimp only
  repeat' first
    | with_reducible exact h
    | with_reducible refine State.modSfe_keeps ?_
    | with_reducible refine State.putReading_keeps ?_
    | with_reducible refine State.drawn_keeps ?_
    | with_reducible refine Keeps.ite ?_ ?_
    | with_reducible refine Completes.next ?_
    | (fail_if_no_progress with_reducible refine Keeps.mk_same ?_ rfl)
    | (fail_if_no_progress with_reducible refine Keeps.mk_draw ?_ rfl)

theorem execToneCheck_keeps {s₀ : State} {c : Fin 8} {code : Nat} {s : State} (h : Keeps s₀ s) :
    Completes s₀ (execToneCheck c code s) := by
  unfold execToneCheck
  try dsimp only
  repeat' first
    | with_reducible exact h
    | with_reducible refine State.modSfe_keeps ?_
    | with_reducible refine State.putReading_keeps ?_
    | with_reducible refine State.drawn_keeps ?_
    | with_reducible refine Keeps.ite ?_ ?_
    | with_reducible refine Completes.next ?_
    | (fail_if_no_progress with_reducible refine Keeps.mk_same ?_ rfl)
    | (fail_if_no_progress with_reducible refine Keeps.mk_draw ?_ rfl)

theorem State.plausible_keeps {s₀ : State} {s : State} {c : Fin 8} {pass : Bool} (h : Keeps s₀ s) :
    Keeps s₀ (State.plausible s c pass) := by
  unfold State.plausible
  try dsimp only
  repeat' first
    | with_reducible exact h
    | with_reducible refine State.setBit_keeps ?_
    | with_reducible refine State.putReading_keeps ?_
    | with_reducible refine Keeps.ite ?_ ?_

theorem State.plausAlarm_keeps {s₀ : State} {s : State} {pass : Bool} (h : Keeps s₀ s) :
    Keeps s₀ (State.plausAlarm s pass) := by
  unfold State.plausAlarm
  try dsimp only
  repeat' first
    | with_reducible exact h
    | with_reducible refine State.logFlag_keeps ?_
    | with_reducible refine Keeps.ite ?_ ?_
    | (fail_if_no_progress with_reducible refine Keeps.mk_same ?_ rfl)

theorem State.sfeCommit_keeps {s₀ : State} {s : State} (h : Keeps s₀ s) :
    Keeps s₀ (State.sfeCommit s) := by
  unfold State.sfeCommit
  try dsimp only
  repeat' first
    | with_reducible exact h
    | with_reducible refine State.commitIf_keeps ?_
    | with_reducible refine State.loopsFollow_keeps ?_
    | with_reducible refine State.put_keeps ?_
    | with_reducible refine Keeps.ite ?_ ?_

theorem State.plantBegins_keeps {s₀ : State} {s : State} (h : Keeps s₀ s) :
    Keeps s₀ (State.plantBegins s) := by
  unfold State.plantBegins
  try dsimp only
  repeat' first
    | with_reducible exact h
    | with_reducible refine State.put_keeps ?_
    | (fail_if_no_progress with_reducible refine Keeps.mk_same ?_ rfl)

theorem execSfeCycleEnd_keeps {s₀ : State} {slot8 : BitVec 32} {s : State} (h : Keeps s₀ s) :
    Completes s₀ (execSfeCycleEnd slot8 s) := by
  unfold execSfeCycleEnd
  try dsimp only
  repeat' first
    | with_reducible exact h
    | with_reducible refine State.plausible_keeps ?_
    | with_reducible refine State.bump_keeps ?_
    | with_reducible refine State.plausAlarm_keeps ?_
    | with_reducible refine State.sfeCommit_keeps ?_
    | with_reducible refine Keeps.foldl ?_ ?_
    | (intro u a b; try beta_reduce)
    | with_reducible assumption
    | with_reducible refine Keeps.ite ?_ ?_
    | with_reducible refine Completes.next ?_
    | (fail_if_no_progress with_reducible refine Keeps.mk_same ?_ rfl)
    | split

theorem State.chainStart_keeps {s₀ : State} {s : State} (h : Keeps s₀ s) :
    Keeps s₀ (State.chainStart s) := by
  unfold State.chainStart
  try dsimp only
  repeat' first
    | with_reducible exact h
    | with_reducible refine State.emit_keeps ?_
    | with_reducible refine State.modChain_keeps ?_
    | with_reducible refine Keeps.ite ?_ ?_

theorem State.chainFollow_keeps {s₀ : State} {s : State} (h : Keeps s₀ s) :
    Keeps s₀ (State.chainFollow s) := by
  unfold State.chainFollow
  try dsimp only
  repeat' first
    | with_reducible exact h
    | with_reducible refine State.chainStart_keeps ?_
    | with_reducible refine Keeps.ite ?_ ?_

theorem State.chainEnable_keeps {s₀ : State} {s : State} (h : Keeps s₀ s) :
    Keeps s₀ (State.chainEnable s) := by
  unfold State.chainEnable
  try dsimp only
  repeat' first
    | with_reducible exact h
    | with_reducible refine State.chainStart_keeps ?_
    | with_reducible refine State.modChain_keeps ?_

theorem execChainRefresh_keeps {s₀ : State} {s : State} (h : Keeps s₀ s) :
    Completes s₀ (execChainRefresh s) := by
  unfold execChainRefresh
  try dsimp only
  repeat' first
    | with_reducible exact h
    | with_reducible refine State.chainStart_keeps ?_
    | with_reducible refine Completes.next ?_
    | with_reducible refine Keeps.ite ?_ ?_

theorem State.chainLatch_keeps {s₀ : State} {s : State} (h : Keeps s₀ s) :
    Keeps s₀ (State.chainLatch s) := by
  unfold State.chainLatch
  try dsimp only
  repeat' first
    | with_reducible exact h
    | with_reducible refine State.putBlob_keeps ?_
    | with_reducible refine State.bump_keeps ?_
    | with_reducible refine State.put_keeps ?_
    | with_reducible refine State.setBit_keeps ?_
    | with_reducible refine State.modChain_keeps ?_
    | with_reducible refine State.emit_keeps ?_
    | with_reducible refine Keeps.ite ?_ ?_
    | (fail_if_no_progress with_reducible refine Keeps.mk_same ?_ rfl)
    | (fail_if_no_progress with_reducible refine Keeps.mk_draw ?_ rfl)

theorem State.chainMiss_keeps {s₀ : State} {s : State} (h : Keeps s₀ s) :
    Keeps s₀ (State.chainMiss s) := by
  unfold State.chainMiss
  try dsimp only
  repeat' first
    | with_reducible exact h
    | with_reducible refine State.modChain_keeps ?_
    | with_reducible refine State.bump_keeps ?_
    | with_reducible refine State.emit_keeps ?_
    | with_reducible refine State.clrBit_keeps ?_
    | with_reducible refine State.logFlag_keeps ?_
    | with_reducible refine Keeps.ite ?_ ?_
    | (fail_if_no_progress with_reducible refine Keeps.mk_same ?_ rfl)

theorem execChainFrameEnd_keeps {s₀ : State} {returned : List Byte} {s : State} (h : Keeps s₀ s) :
    Completes s₀ (execChainFrameEnd returned s) := by
  unfold execChainFrameEnd
  try dsimp only
  repeat' first
    | with_reducible exact h
    | with_reducible refine State.chainFollow_keeps ?_
    | with_reducible refine State.chainLatch_keeps ?_
    | with_reducible refine State.chainMiss_keeps ?_
    | with_reducible refine Completes.next ?_
    | with_reducible refine Keeps.ite ?_ ?_

theorem chainImageEff_keeps {s₀ : State} {s : State} {bits : List Byte} (h : Keeps s₀ s) :
    Keeps s₀ (chainImageEff s bits) := by
  unfold chainImageEff
  try dsimp only
  repeat' first
    | with_reducible exact h
    | with_reducible refine State.chainFollow_keeps ?_
    | with_reducible refine State.setBit_keeps ?_
    | with_reducible refine State.putBlob_keeps ?_

theorem State.plantMail_keeps {s₀ : State} {s : State} {m : List Byte} (h : Keeps s₀ s) :
    Keeps s₀ (State.plantMail s m) := by
  unfold State.plantMail
  try dsimp only
  repeat' first
    | with_reducible exact h
    | with_reducible refine State.loopFollow_keeps ?_
    | with_reducible refine State.modLoop_keeps ?_
    | with_reducible refine State.chainFollow_keeps ?_
    | with_reducible refine State.modChain_keeps ?_
    | with_reducible refine State.bump_keeps ?_
    | with_reducible refine Keeps.ite ?_ ?_

theorem execPlantMail_keeps {s₀ : State} {s : State} (h : Keeps s₀ s) :
    Completes s₀ (execPlantMail s) := by
  unfold execPlantMail
  try dsimp only
  repeat' first
    | with_reducible exact h
    | with_reducible refine State.plantMail_keeps ?_
    | with_reducible refine Completes.next ?_
    | with_reducible refine Keeps.ite ?_ ?_
    | (fail_if_no_progress with_reducible refine Keeps.mk_same ?_ rfl)
    | split

theorem execSinkPowerAverage_keeps {s₀ : State} {power : Nat} {s : State} (h : Keeps s₀ s) :
    Completes s₀ (execSinkPowerAverage power s) := by
  unfold execSinkPowerAverage
  try dsimp only
  repeat' first
    | with_reducible exact h
    | with_reducible refine State.put_keeps ?_
    | with_reducible refine State.putBit_keeps ?_
    | with_reducible refine Completes.next ?_

theorem State.judgePin_keeps {s₀ : State} {s : State} {k : Fin 16} {mv : Nat} {vs : Nat} (h : Keeps s₀ s) :
    Keeps s₀ (State.judgePin s k mv vs) := by
  unfold State.judgePin
  try dsimp only
  repeat' first
    | with_reducible exact h
    | with_reducible refine State.clrBit_keeps ?_
    | with_reducible refine State.put_keeps ?_
    | with_reducible refine State.bump_keeps ?_
    | with_reducible refine State.setBit_keeps ?_
    | with_reducible refine Keeps.ite ?_ ?_
    | (fail_if_no_progress with_reducible refine Keeps.mk_same ?_ rfl)

theorem execSinkPinSample_keeps {s₀ : State} {k : Fin 16} {mv : Nat} {vs : Nat} {s : State} (h : Keeps s₀ s) :
    Completes s₀ (execSinkPinSample k mv vs s) := by
  unfold execSinkPinSample
  try dsimp only
  repeat' first
    | with_reducible exact h
    | with_reducible refine State.judgePin_keeps ?_
    | with_reducible refine Completes.next ?_
    | with_reducible refine Keeps.ite ?_ ?_

theorem execSinkTestPulse_keeps {s₀ : State} {k : Fin 16} {mv vs : Nat} {s : State} (h : Keeps s₀ s) :
    Completes s₀ (execSinkTestPulse k mv vs s) := by
  unfold execSinkTestPulse
  try dsimp only
  repeat' first
    | with_reducible exact h
    | with_reducible refine State.setBit_keeps ?_
    | with_reducible refine State.emit_keeps ?_
    | with_reducible refine State.judgePin_keeps ?_
    | with_reducible refine Keeps.ite ?_ ?_
    | with_reducible refine Completes.next ?_
    | (fail_if_no_progress with_reducible refine Keeps.mk_same ?_ rfl)

theorem clearShortEff_keeps {s₀ : State} {s : State} {mask : Nat} (h : Keeps s₀ s) :
    Keeps s₀ (clearShortEff s mask) := by
  unfold clearShortEff
  try dsimp only
  repeat' first
    | with_reducible exact h
    | with_reducible refine overAll_keeps ?_ ?_
    | with_reducible refine State.clrBit_keeps ?_
    | with_reducible refine Keeps.ite ?_ ?_
    | (intro u a b; try beta_reduce)
    | with_reducible assumption

theorem State.plantApplied_keeps {s₀ : State} {s : State} {idx : Nat} (h : Keeps s₀ s) :
    Keeps s₀ (State.plantApplied s idx) := by
  unfold State.plantApplied
  try dsimp only
  repeat' first
    | with_reducible exact h
    | with_reducible refine State.commit_keeps ?_
    | with_reducible refine overAll_keeps ?_ ?_
    | with_reducible refine State.loopFollow_keeps ?_
    | with_reducible refine State.modLoop_keeps ?_
    | with_reducible refine State.modChain_keeps ?_
    | with_reducible refine State.chainEnable_keeps ?_
    | with_reducible refine State.chainFollow_keeps ?_
    | with_reducible refine Keeps.ite ?_ ?_
    | (intro u a b; try beta_reduce)
    | with_reducible assumption

theorem State.plantTurn_keeps {s₀ : State} {s : State} (h : Keeps s₀ s) :
    Keeps s₀ (State.plantTurn s) := by
  unfold State.plantTurn
  try dsimp only
  repeat' first
    | with_reducible exact h
    | with_reducible refine State.loopsFollow_keeps ?_
    | with_reducible refine State.modChain_keeps ?_
    | with_reducible refine State.chainEnable_keeps ?_
    | with_reducible refine Keeps.ite ?_ ?_

end Sys2Proof.Machine
end

