-- ==== Sys2Proof/Laws/Ports.lean ====
section
/-! SUPPORT. What the operations of Machine/Ports.lean keep, one lemma each (Keeps, Completes: Laws/Keeps.lean). -/

/- One declaration after another: side by side they would need more memory. -/
set_option Elab.async false

namespace Sys2Proof.Machine

theorem State.applyTrims_keeps {s₀ : State} {s : State} {n : Port} (h : Keeps s₀ s) :
    Keeps s₀ (State.applyTrims s n) := by
  unfold State.applyTrims
  try dsimp only
  repeat' first
    | with_reducible exact h
    | with_reducible refine State.putBlob_keeps ?_
    | with_reducible refine Keeps.foldl ?_ ?_
    | (intro u a b; try beta_reduce)
    | with_reducible assumption
    | with_reducible refine State.modCal_keeps ?_

theorem State.trimsAtCommit_keeps {s₀ : State} {s : State} {n : Port} (h : Keeps s₀ s) :
    Keeps s₀ (State.trimsAtCommit s n) := by
  unfold State.trimsAtCommit
  try dsimp only
  repeat' first
    | with_reducible exact h
    | with_reducible refine State.modPort_keeps ?_
    | with_reducible refine State.applyTrims_keeps ?_
    | with_reducible refine Keeps.ite ?_ ?_

theorem State.overrangeIn_keeps {s₀ : State} {s : State} {r : Reg} {fl : Reg} {anyBit : Nat} {satBit : Nat} {count : Nat} {step : Nat} (h : Keeps s₀ s) :
    Keeps s₀ (State.overrangeIn s r fl anyBit satBit count step) := by
  unfold State.overrangeIn
  try dsimp only
  repeat' first
    | with_reducible exact h
    | with_reducible refine State.setBit_keeps ?_
    | with_reducible refine State.add_keeps ?_
    | with_reducible refine Keeps.ite ?_ ?_

theorem State.stuckLanes_keeps {s₀ : State} {s : State} {n : Port} {x : Shot} (h : Keeps s₀ s) :
    Keeps s₀ (State.stuckLanes s n x) := by
  unfold State.stuckLanes
  try dsimp only
  repeat' first
    | with_reducible exact h
    | with_reducible refine State.put_keeps ?_
    | with_reducible refine State.logFlag_keeps ?_

theorem State.putPeaks_keeps {s₀ : State} {s : State} {n : Port} {x : Shot} (h : Keeps s₀ s) :
    Keeps s₀ (State.putPeaks s n x) := by
  unfold State.putPeaks
  try dsimp only
  repeat' first
    | with_reducible exact h
    | with_reducible refine State.put_keeps ?_
    | with_reducible refine Keeps.ite ?_ ?_

theorem State.coherentWindow_keeps {s₀ : State} {s : State} {n : Port} {x : Shot} (h : Keeps s₀ s) :
    Keeps s₀ (State.coherentWindow s n x) := by
  unfold State.coherentWindow
  try dsimp only
  repeat' first
    | with_reducible exact h
    | with_reducible refine State.overrangeIn_keeps ?_
    | with_reducible refine State.stuckLanes_keeps ?_
    | with_reducible refine State.putPeaks_keeps ?_
    | with_reducible refine State.modPort_keeps ?_
    | with_reducible refine Keeps.ite ?_ ?_

theorem State.calWindow_keeps {s₀ : State} {s : State} {n : Port} {x : Shot} (h : Keeps s₀ s) :
    Keeps s₀ (State.calWindow s n x) := by
  unfold State.calWindow
  try dsimp only
  repeat' first
    | with_reducible exact h
    | with_reducible refine State.modCal_keeps ?_
    | with_reducible refine Keeps.ite ?_ ?_
    | (fail_if_no_progress with_reducible refine Keeps.mk_same ?_ rfl)

theorem execRecordWindowClose_keeps {s₀ : State} {n : Port} {raman : Option RamanRecord} {s : State} (h : Keeps s₀ s) :
    Completes s₀ (execRecordWindowClose n raman s) := by
  unfold execRecordWindowClose
  try dsimp only
  repeat' first
    | with_reducible exact h
    | with_reducible refine State.modShot_keeps ?_
    | with_reducible refine State.coherentWindow_keeps ?_
    | with_reducible refine State.calWindow_keeps ?_
    | with_reducible refine State.addDts_keeps ?_
    | with_reducible refine State.applyTrims_keeps ?_
    | with_reducible refine State.gainInForce_keeps ?_
    | with_reducible refine State.dropOver_keeps ?_
    | with_reducible refine State.settleSwitch_keeps ?_
    | with_reducible refine Keeps.ite ?_ ?_
    | with_reducible refine Completes.next ?_
    | (fail_if_no_progress with_reducible refine Keeps.mk_same ?_ rfl)
    | split

theorem State.putFigures_keeps {s₀ : State} {s : State} {n : Port} {k : Nat} {res : CrestResult} (h : Keeps s₀ s) :
    Keeps s₀ (State.putFigures s n k res) := by
  unfold State.putFigures
  try dsimp only
  repeat' first
    | with_reducible exact h
    | with_reducible refine State.put_keeps ?_
    | with_reducible refine Keeps.foldl ?_ ?_
    | (intro u a b; try beta_reduce)
    | with_reducible assumption

theorem State.commitTones_keeps {s₀ : State} {s : State} {n : Port} {k : Nat} {res : CrestResult} (h : Keeps s₀ s) :
    Keeps s₀ (State.commitTones s n k res) := by
  unfold State.commitTones
  try dsimp only
  repeat' first
    | with_reducible exact h
    | with_reducible refine State.commit_keeps ?_
    | with_reducible refine State.putFigures_keeps ?_
    | with_reducible refine State.modPort_keeps ?_
    | with_reducible refine State.startRelearn_keeps ?_
    | with_reducible refine Keeps.ite ?_ ?_
    | (fail_if_no_progress with_reducible refine Keeps.mk_same ?_ rfl)

theorem execCrestComputationEnd_keeps {s₀ : State} {n : Port} {set : Fin 16} {s : State} (h : Keeps s₀ s) :
    Completes s₀ (execCrestComputationEnd n set s) := by
  unfold execCrestComputationEnd
  try dsimp only
  repeat' first
    | with_reducible exact h
    | with_reducible refine State.modPort_keeps ?_
    | with_reducible refine Keeps.ite ?_ ?_
    | with_reducible refine Completes.next ?_
    | (fail_if_no_progress with_reducible refine Keeps.mk_same ?_ rfl)

theorem execCommonModeFault_keeps {s₀ : State} {n : Port} {y : Bool} {out : Bool} {mv : BitVec 16} {s : State} (h : Keeps s₀ s) :
    Completes s₀ (execCommonModeFault n y out mv s) := by
  unfold execCommonModeFault
  try dsimp only
  repeat' first
    | with_reducible exact h
    | with_reducible refine State.put_keeps ?_
    | with_reducible refine State.logFlag_keeps ?_
    | with_reducible refine Completes.next ?_

theorem execTxCheck_keeps {s₀ : State} {n : Port} {isOpen : Bool} {isShort : Bool} {s : State} (h : Keeps s₀ s) :
    Completes s₀ (execTxCheck n isOpen isShort s) := by
  unfold execTxCheck
  try dsimp only
  repeat' first
    | with_reducible exact h
    | with_reducible refine State.logFlag_keeps ?_
    | with_reducible refine Completes.next ?_
    | with_reducible refine Keeps.ite ?_ ?_

theorem State.modFctl_keeps {s₀ : State} {s : State} {n : Port} {f : FctlPart → FctlPart} (h : Keeps s₀ s) :
    Keeps s₀ (State.modFctl s n f) := by
  unfold State.modFctl
  try dsimp only
  repeat' first
    | with_reducible exact h
    | with_reducible refine State.modPort_keeps ?_

theorem State.countQueued_keeps {s₀ : State} {s : State} {n : Port} (h : Keeps s₀ s) :
    Keeps s₀ (State.countQueued s n) := by
  unfold State.countQueued
  try dsimp only
  repeat' first
    | with_reducible exact h
    | with_reducible refine State.put_keeps ?_

theorem State.sendWord_keeps {s₀ : State} {s : State} {n : Port} {w : BitVec 32} (h : Keeps s₀ s) :
    Keeps s₀ (State.sendWord s n w) := by
  unfold State.sendWord
  try dsimp only
  repeat' first
    | with_reducible exact h
    | with_reducible refine State.emit_keeps ?_

theorem State.startHost_keeps {s₀ : State} {s : State} {n : Port} (h : Keeps s₀ s) :
    Keeps s₀ (State.startHost s n) := by
  unfold State.startHost
  try dsimp only
  repeat' first
    | with_reducible exact h
    | with_reducible refine State.modFctl_keeps ?_
    | with_reducible refine State.sendWord_keeps ?_
    | with_reducible refine State.countQueued_keeps ?_
    | with_reducible refine Keeps.ite ?_ ?_
    | (fail_if_no_progress with_reducible refine Keeps.mk_same ?_ rfl)
    | split

theorem sendEff_keeps {s₀ : State} {s : State} {n : Port} {w : BitVec 32} (h : Keeps s₀ s) :
    Keeps s₀ (sendEff s n w) := by
  unfold sendEff
  try dsimp only
  repeat' first
    | with_reducible exact h
    | with_reducible refine State.startHost_keeps ?_
    | with_reducible refine State.modFctl_keeps ?_

theorem execFctlWordEnd_keeps {s₀ : State} {n : Port} {s : State} (h : Keeps s₀ s) :
    Completes s₀ (execFctlWordEnd n s) := by
  unfold execFctlWordEnd
  try dsimp only
  repeat' first
    | with_reducible exact h
    | with_reducible refine State.bump_keeps ?_
    | with_reducible refine State.modFctl_keeps ?_
    | with_reducible refine State.modBril_keeps ?_
    | with_reducible refine State.commitIf_keeps ?_
    | with_reducible refine State.startHost_keeps ?_
    | with_reducible refine Completes.next ?_
    | with_reducible refine Keeps.ite ?_ ?_
    | split

theorem execScheduledWordStart_keeps {s₀ : State} {n : Port} {s : State} (h : Keeps s₀ s) :
    Completes s₀ (execScheduledWordStart n s) := by
  unfold execScheduledWordStart
  try dsimp only
  repeat' first
    | with_reducible exact h
    | with_reducible refine State.modFctl_keeps ?_
    | with_reducible refine State.sendWord_keeps ?_
    | with_reducible refine State.bump_keeps ?_
    | with_reducible refine State.put_keeps ?_
    | with_reducible refine Keeps.ite ?_ ?_
    | with_reducible refine Completes.next ?_
    | (fail_if_no_progress with_reducible refine Keeps.mk_same ?_ rfl)
    | split

theorem relearnEff_keeps {s₀ : State} {s : State} {n : Port} {v : Nat} (h : Keeps s₀ s) :
    Keeps s₀ (relearnEff s n v) := by
  unfold relearnEff
  try dsimp only
  repeat' first
    | with_reducible exact h
    | with_reducible refine State.modPort_keeps ?_
    | with_reducible refine Keeps.ite ?_ ?_

theorem State.tableTaken_keeps {s₀ : State} {s : State} {n : Port} {oldAxis : Nat} (h : Keeps s₀ s) :
    Keeps s₀ (State.tableTaken s n oldAxis) := by
  unfold State.tableTaken
  try dsimp only
  repeat' first
    | with_reducible exact h
    | with_reducible refine State.modPort_keeps ?_
    | with_reducible refine Keeps.ite ?_ ?_
    | (fail_if_no_progress with_reducible refine Keeps.mk_same ?_ rfl)

theorem State.commitTable_keeps {s₀ : State} {s : State} {n : Port} (h : Keeps s₀ s) :
    Keeps s₀ (State.commitTable s n) := by
  unfold State.commitTable
  try dsimp only
  repeat' first
    | with_reducible exact h
    | with_reducible refine State.commit_keeps ?_
    | with_reducible refine State.modPort_keeps ?_
    | with_reducible refine State.tableTaken_keeps ?_
    | with_reducible refine Keeps.foldl ?_ ?_
    | (intro u a b; try beta_reduce)
    | with_reducible assumption
    | with_reducible refine Keeps.ite ?_ ?_

theorem State.pipelineTaken_keeps {s₀ : State} {s : State} {n : Port} (h : Keeps s₀ s) :
    Keeps s₀ (State.pipelineTaken s n) := by
  unfold State.pipelineTaken
  try dsimp only
  repeat' first
    | with_reducible exact h
    | with_reducible refine State.commit_keeps ?_
    | with_reducible refine State.modPipe_keeps ?_
    | with_reducible refine Keeps.ite ?_ ?_

theorem State.resetBranches_keeps {s₀ : State} {s : State} {n : Port} (h : Keeps s₀ s) :
    Keeps s₀ (State.resetBranches s n) := by
  unfold State.resetBranches
  try dsimp only
  repeat' first
    | with_reducible exact h
    | with_reducible refine State.modPipe_keeps ?_
    | with_reducible refine Keeps.ite ?_ ?_
    | (fail_if_no_progress with_reducible refine Keeps.mk_same ?_ rfl)

theorem State.dropPlans_keeps {s₀ : State} {s : State} {n : Port} (h : Keeps s₀ s) :
    Keeps s₀ (State.dropPlans s n) := by
  unfold State.dropPlans
  try dsimp only
  repeat' first
    | with_reducible exact h
    | with_reducible refine State.put_keeps ?_
    | with_reducible refine Keeps.foldl ?_ ?_
    | (intro u a b; try beta_reduce)
    | with_reducible assumption
    | with_reducible refine Keeps.ite ?_ ?_

theorem State.commitPipeline_keeps {s₀ : State} {s : State} {n : Port} (h : Keeps s₀ s) :
    Keeps s₀ (State.commitPipeline s n) := by
  unfold State.commitPipeline
  try dsimp only
  repeat' first
    | with_reducible exact h
    | with_reducible refine State.pipelineTaken_keeps ?_
    | with_reducible refine State.dropPlans_keeps ?_
    | with_reducible refine State.resetBranches_keeps ?_
    | with_reducible refine State.relearnAll_keeps ?_
    | with_reducible refine State.modPipe_keeps ?_
    | with_reducible refine State.commitIf_keeps ?_
    | with_reducible refine State.modPort_keeps ?_
    | with_reducible refine Keeps.foldl ?_ ?_
    | (intro u a b; try beta_reduce)
    | with_reducible assumption
    | with_reducible refine Keeps.ite ?_ ?_
    | (fail_if_no_progress with_reducible refine Keeps.mk_same ?_ rfl)

theorem State.commitRaman_keeps {s₀ : State} {s : State} {n : Port} (h : Keeps s₀ s) :
    Keeps s₀ (State.commitRaman s n) := by
  unfold State.commitRaman
  try dsimp only
  repeat' first
    | with_reducible exact h
    | with_reducible refine State.restartSet_keeps ?_
    | with_reducible refine State.commit_keeps ?_
    | with_reducible refine State.modSet_keeps ?_
    | with_reducible refine State.put_keeps ?_
    | with_reducible refine Keeps.foldl ?_ ?_
    | (intro u a b; try beta_reduce)
    | with_reducible assumption
    | with_reducible refine Keeps.ite ?_ ?_
    | (fail_if_no_progress with_reducible refine Keeps.mk_same ?_ rfl)

theorem State.allocSpectrum_keeps {s₀ : State} {s : State} {n : Port} (h : Keeps s₀ s) :
    Keeps s₀ (State.allocSpectrum s n) := by
  unfold State.allocSpectrum
  try dsimp only
  repeat' first
    | with_reducible exact h
    | with_reducible refine State.put_keeps ?_
    | with_reducible refine State.modBril_keeps ?_

theorem State.commitBrillouin_keeps {s₀ : State} {s : State} {n : Port} (h : Keeps s₀ s) :
    Keeps s₀ (State.commitBrillouin s n) := by
  unfold State.commitBrillouin
  try dsimp only
  repeat' first
    | with_reducible exact h
    | with_reducible refine State.commitIf_keeps ?_
    | with_reducible refine State.allocSpectrum_keeps ?_
    | with_reducible refine State.abortSweep_keeps ?_
    | with_reducible refine State.modBril_keeps ?_
    | with_reducible refine Keeps.foldl ?_ ?_
    | (intro u a b; try beta_reduce)
    | with_reducible assumption
    | with_reducible refine Keeps.ite ?_ ?_
    | (fail_if_no_progress with_reducible refine Keeps.mk_same ?_ rfl)

theorem State.goLive_keeps {s₀ : State} {s : State} {n : Port} {now : Bool} (h : Keeps s₀ s) :
    Keeps s₀ (State.goLive s n now) := by
  unfold State.goLive
  try dsimp only
  repeat' first
    | with_reducible exact h
    | with_reducible refine State.modPort_keeps ?_
    | with_reducible refine State.startHost_keeps ?_
    | with_reducible refine Keeps.ite ?_ ?_
    | (fail_if_no_progress with_reducible refine Keeps.mk_same ?_ rfl)

theorem State.commitPort_keeps {s₀ : State} {s : State} {n : Port} (h : Keeps s₀ s) :
    Keeps s₀ (State.commitPort s n) := by
  unfold State.commitPort
  try dsimp only
  repeat' first
    | with_reducible exact h
    | with_reducible refine State.commitIf_keeps ?_
    | with_reducible refine State.modFctl_keeps ?_
    | with_reducible refine State.commitTones_keeps ?_
    | with_reducible refine State.commitTable_keeps ?_
    | with_reducible refine State.commitPipeline_keeps ?_
    | with_reducible refine State.commitRaman_keeps ?_
    | with_reducible refine State.commitBrillouin_keeps ?_
    | with_reducible refine State.trimsAtCommit_keeps ?_
    | with_reducible refine State.goLive_keeps ?_
    | with_reducible refine Keeps.foldl ?_ ?_
    | (intro u a b; try beta_reduce)
    | with_reducible assumption
    | with_reducible refine Keeps.ite ?_ ?_
    | (fail_if_no_progress with_reducible refine Keeps.mk_same ?_ rfl)

end Sys2Proof.Machine
end

