-- ==== Sys2Proof/Laws/Session.lean ====
section
/-! SUPPORT. What the operations of Machine/Session.lean keep, one lemma each (Keeps, Completes: Laws/Keeps.lean). -/

/- One declaration after another: side by side they would need more memory. -/
set_option Elab.async false

namespace Sys2Proof.Machine

/-- The state a gate leaves. -/
def Gate.state : Gate → State
  | .stop t => t
  | .go t _ => t

theorem Keeps.stop {s t : State} (h : Keeps s t) : Keeps s (Gate.stop t).state := h

theorem Keeps.go {s t : State} {x : Session} (h : Keeps s t) : Keeps s (Gate.go t x).state := h

theorem Keeps.ite_gate {s : State} {a b : Gate} {c : Prop} [Decidable c] (x : Keeps s a.state) (y : Keeps s b.state) :
    Keeps s (if c then a else b).state := by
  split
  · exact x
  · exact y

theorem State.sendResponse_keeps {s₀ : State} {s : State} {p : Path} {msg : List Byte} (h : Keeps s₀ s) :
    Keeps s₀ (State.sendResponse s p msg) := by
  unfold State.sendResponse
  try dsimp only
  repeat' first
    | with_reducible exact h
    | with_reducible refine State.canSend_keeps ?_
    | with_reducible refine State.sendLedger_keeps ?_
    | with_reducible refine State.sendOn_keeps ?_
    | (fail_if_no_progress with_reducible refine Keeps.mk_same ?_ rfl)
    | split

theorem State.endSession_keeps {s₀ : State} {s : State} {id : BitVec 32} (h : Keeps s₀ s) :
    Keeps s₀ (State.endSession s id) := by
  unfold State.endSession
  try dsimp only
  repeat' first
    | with_reducible exact h
    | with_reducible refine State.put_keeps ?_
    | with_reducible refine overAll_keeps ?_ ?_
    | with_reducible refine State.closeStream_keeps ?_
    | (intro u a b; try beta_reduce)
    | with_reducible assumption
    | with_reducible refine Keeps.ite ?_ ?_
    | (fail_if_no_progress with_reducible refine Keeps.mk_same ?_ rfl)

theorem State.once0503_keeps {s₀ : State} {s : State} {p : Path} {send : State → State} (h : Keeps s₀ s) (hf : ∀ u, Keeps s₀ u → Keeps s₀ (send u)) :
    Keeps s₀ (State.once0503 s p send) := by
  unfold State.once0503
  try dsimp only
  repeat' first
    | with_reducible exact h
    | with_reducible refine State.putSource_keeps ?_
    | with_reducible refine hf _ ?_
    | with_reducible refine Keeps.ite ?_ ?_

theorem State.refuse0503_keeps {s₀ : State} {s : State} {p : Path} {op : Nat} {session : BitVec 32} {seq : BitVec 32} (h : Keeps s₀ s) :
    Keeps s₀ (State.refuse0503 s p op session seq) := by
  unfold State.refuse0503
  try dsimp only
  repeat' first
    | with_reducible exact h
    | with_reducible refine State.once0503_keeps ?_ ?_
    | with_reducible refine State.sendResponse_keeps ?_
    | (intro u b; try beta_reduce)
    | with_reducible assumption

theorem State.queueRefusal_keeps {s₀ : State} {s : State} {p : Path} {op : Nat} {session seq : BitVec 32} (h : Keeps s₀ s) :
    Keeps s₀ (State.queueRefusal s p op session seq) := by
  unfold State.queueRefusal
  try dsimp only
  repeat' first
    | with_reducible exact h
    | with_reducible refine State.serve_keeps ?_
    | with_reducible refine State.bump_keeps ?_
    | with_reducible refine State.sendResponse_keeps ?_
    | with_reducible refine State.violate_keeps ?_

theorem gate_keeps {s₀ : State} {s : State} {op : Nat} {r : Req} {body : List Byte} (h : Keeps s₀ s) :
    Keeps s₀ (gate s op r body).state := by
  unfold gate
  try dsimp only
  repeat' first
    | with_reducible exact h
    | with_reducible refine State.takeUp_keeps ?_
    | with_reducible refine State.queueRefusal_keeps ?_
    | with_reducible refine State.serve_keeps ?_
    | with_reducible refine State.violate_keeps ?_
    | with_reducible refine State.sendResponse_keeps ?_
    | with_reducible refine State.refuse0503_keeps ?_
    | with_reducible refine State.modSession_keeps ?_
    | with_reducible refine Keeps.stop ?_
    | with_reducible refine Keeps.go ?_
    | with_reducible refine Keeps.ite_gate ?_ ?_
    | split

theorem gate_stop {s₀ s t : State} {op : Nat} {r : Req} {body : List Byte} (h : Keeps s₀ s) (e : gate s op r body = .stop t) : Keeps s₀ t := by
  have k : Keeps s₀ (gate s op r body).state := gate_keeps h
  rw [e] at k
  exact k

theorem gate_go {s₀ s t : State} {op : Nat} {r : Req} {body : List Byte} {x : Session} (h : Keeps s₀ s)
    (e : gate s op r body = .go t x) : Keeps s₀ t := by
  have k : Keeps s₀ (gate s op r body).state := gate_keeps h
  rw [e] at k
  exact k

theorem State.reply_keeps {s₀ : State} {s : State} {x : Session} {op : Nat} {r : Req} {code : Nat} {rest : List Byte} (h : Keeps s₀ s) :
    Keeps s₀ (State.reply s x op r code rest) := by
  unfold State.reply
  try dsimp only
  repeat' first
    | with_reducible exact h
    | with_reducible refine State.modSession_keeps ?_
    | with_reducible refine State.sendResponse_keeps ?_
    | with_reducible refine State.violate_keeps ?_
    | with_reducible refine Keeps.ite ?_ ?_

theorem answered_keeps {s₀ : State} {s : State} {op : Nat} {r : Req} {body : List Byte} {f : State → Session → State × Nat} (h : Keeps s₀ s) (hf : ∀ u x, Keeps s₀ u → Keeps s₀ (f u x).1) :
    Keeps s₀ (answered s op r body f) := by
  unfold answered
  try dsimp only
  repeat' first
    | with_reducible refine State.reply_keeps ?_
    | with_reducible exact gate_stop h (by assumption)
    | with_reducible exact gate_go h (by assumption)
    | with_reducible refine hf _ _ ?_
    | split

theorem State.openWith_keeps {s₀ : State} {s : State} {r : Req} {slot : BitVec 8} {level : Nat} {nonceC : List Byte} {nonceD : List Byte} {id : BitVec 32} {key : Option (List Byte)} (h : Keeps s₀ s) :
    Keeps s₀ (State.openWith s r slot level nonceC nonceD id key) := by
  unfold State.openWith
  try dsimp only
  repeat' first
    | with_reducible exact h
    | with_reducible refine State.put_keeps ?_
    | with_reducible refine State.sendResponse_keeps ?_
    | (fail_if_no_progress with_reducible refine Keeps.mk_same ?_ rfl)

theorem execOpenSession_keeps {s₀ : State} {r : Req} {slot level : BitVec 8} {nonceC nonceD : List Byte} {id : BitVec 32}
    {s : State} (h : Keeps s₀ s) :
    Completes s₀ (execOpenSession r slot level nonceC nonceD id s) := by
  unfold execOpenSession
  try dsimp only
  repeat' first
    | with_reducible exact h
    | with_reducible refine State.queueRefusal_keeps ?_
    | with_reducible refine State.takeUp_keeps ?_
    | with_reducible refine State.sendResponse_keeps ?_
    | with_reducible refine State.violate_keeps ?_
    | with_reducible refine State.refuse0503_keeps ?_
    | with_reducible refine State.bump_keeps ?_
    | with_reducible refine State.openWith_keeps ?_
    | with_reducible refine Keeps.ite ?_ ?_
    | with_reducible refine Completes.next ?_

theorem State.authFails_keeps {s₀ : State} {s : State} {r : Req} {x : Session} (h : Keeps s₀ s) :
    Keeps s₀ (State.authFails s r x) := by
  unfold State.authFails
  try dsimp only
  repeat' first
    | with_reducible exact h
    | with_reducible refine State.endSession_keeps ?_
    | with_reducible refine State.violate_keeps ?_
    | with_reducible refine State.bump_keeps ?_
    | with_reducible refine State.refuse0503_keeps ?_

theorem State.authDone_keeps {s₀ : State} {s : State} {r : Req} {x : Session} {k : List Byte} (h : Keeps s₀ s) :
    Keeps s₀ (State.authDone s r x k) := by
  unfold State.authDone
  try dsimp only
  repeat' first
    | with_reducible exact h
    | with_reducible refine State.bump_keeps ?_
    | with_reducible refine State.modSession_keeps ?_
    | with_reducible refine State.reply_keeps ?_

theorem execAuth_keeps {s₀ : State} {r : Req} {proof : List Byte} {s : State} (h : Keeps s₀ s) :
    Completes s₀ (execAuth r proof s) := by
  unfold execAuth
  try dsimp only
  repeat' first
    | with_reducible exact h
    | with_reducible refine State.queueRefusal_keeps ?_
    | with_reducible refine State.takeUp_keeps ?_
    | with_reducible refine State.refuse0503_keeps ?_
    | with_reducible refine State.violate_keeps ?_
    | with_reducible refine answered_keeps ?_ ?_
    | with_reducible refine State.authFails_keeps ?_
    | with_reducible refine State.sendResponse_keeps ?_
    | with_reducible refine State.authDone_keeps ?_
    | (intro u a b; try beta_reduce)
    | with_reducible assumption
    | with_reducible refine Keeps.ite ?_ ?_
    | with_reducible refine Completes.next ?_
    | (fail_if_no_progress with_reducible refine Keeps.mk_same ?_ rfl)
    | split

theorem execCloseSession_keeps {s₀ : State} {r : Req} {s : State} (h : Keeps s₀ s) :
    Completes s₀ (execCloseSession r s) := by
  unfold execCloseSession
  try dsimp only
  repeat' first
    | with_reducible refine State.endSession_keeps ?_
    | with_reducible refine State.reply_keeps ?_
    | with_reducible exact gate_stop h (by assumption)
    | with_reducible exact gate_go h (by assumption)
    | with_reducible refine Completes.next ?_
    | split

theorem execKeepalive_keeps {s₀ : State} {r : Req} {s : State} (h : Keeps s₀ s) :
    Completes s₀ (execKeepalive r s) := by
  unfold execKeepalive
  try dsimp only
  repeat' first
    | with_reducible exact h
    | with_reducible refine answered_keeps ?_ ?_
    | with_reducible refine Completes.next ?_
    | (intro u a b; try beta_reduce)
    | with_reducible assumption

theorem execSessionExpiry_keeps {s₀ : State} {id : BitVec 32} {s : State} (h : Keeps s₀ s) :
    Completes s₀ (execSessionExpiry id s) := by
  unfold execSessionExpiry
  try dsimp only
  repeat' first
    | with_reducible exact h
    | with_reducible refine State.endSession_keeps ?_
    | with_reducible refine Completes.next ?_
    | with_reducible refine Keeps.ite ?_ ?_
    | split

theorem execAuthTimeout_keeps {s₀ : State} {id : BitVec 32} {s : State} (h : Keeps s₀ s) :
    Completes s₀ (execAuthTimeout id s) := by
  unfold execAuthTimeout
  try dsimp only
  repeat' first
    | with_reducible exact h
    | with_reducible refine State.endSession_keeps ?_
    | with_reducible refine Completes.next ?_
    | with_reducible refine Keeps.ite ?_ ?_
    | split

theorem execSegIdleTimeout_keeps {s₀ : State} {id : BitVec 32} {s : State} (h : Keeps s₀ s) :
    Completes s₀ (execSegIdleTimeout id s) := by
  unfold execSegIdleTimeout
  try dsimp only
  repeat' first
    | with_reducible exact h
    | with_reducible refine State.modSession_keeps ?_
    | with_reducible refine Completes.next ?_
    | (fail_if_no_progress with_reducible refine Keeps.mk_same ?_ rfl)

theorem execSnapshotExpiry_keeps {s₀ : State} {id : BitVec 32} {s : State} (h : Keeps s₀ s) :
    Completes s₀ (execSnapshotExpiry id s) := by
  unfold execSnapshotExpiry
  try dsimp only
  repeat' first
    | with_reducible exact h
    | with_reducible refine State.modSession_keeps ?_
    | with_reducible refine Completes.next ?_

theorem execMalformedMessage_keeps {s₀ : State} {p : Path} {bytes : List Byte} {s : State} (h : Keeps s₀ s) :
    Completes s₀ (execMalformedMessage p bytes s) := by
  unfold execMalformedMessage
  try dsimp only
  repeat' first
    | with_reducible exact h
    | with_reducible refine State.takeUp_keeps ?_
    | with_reducible refine State.violate_keeps ?_
    | with_reducible refine State.sendResponse_keeps ?_
    | with_reducible refine Keeps.ite ?_ ?_
    | with_reducible refine Completes.next ?_

end Sys2Proof.Machine
end

