-- ==== Sys2Proof/Laws/Streams.lean ====
section
/-! SUPPORT. What the operations of Machine/Streams.lean keep, one lemma each (Keeps, Completes: Laws/Keeps.lean). -/

/- One declaration after another: side by side they would need more memory. -/
set_option Elab.async false

namespace Sys2Proof.Machine

theorem State.twinStreams_keeps {s₀ : State} {s : State} (h : Keeps s₀ s) :
    Keeps s₀ (State.twinStreams s) := by
  unfold State.twinStreams
  try dsimp only
  repeat' first
    | with_reducible exact h
    | with_reducible refine overAll_keeps ?_ ?_
    | with_reducible refine State.put_keeps ?_
    | (intro u a b; try beta_reduce)
    | with_reducible assumption

theorem State.readHeld_keeps {s₀ : State} {s : State} {k : Fin 256} (h : Keeps s₀ s) :
    Keeps s₀ (State.readHeld s k) := by
  unfold State.readHeld
  try dsimp only
  repeat' first
    | with_reducible exact h
    | with_reducible refine State.takeItem_keeps ?_
    | with_reducible refine Keeps.foldl ?_ ?_
    | (intro u a b; try beta_reduce)
    | with_reducible assumption
    | with_reducible refine Keeps.ite ?_ ?_

theorem State.openStream_keeps {s₀ : State} {s : State} {k : Fin 256} {part : StreamPart} (h : Keeps s₀ s) :
    Keeps s₀ (State.openStream s k part) := by
  unfold State.openStream
  try dsimp only
  repeat' first
    | with_reducible exact h
    | with_reducible refine State.modStream_keeps ?_
    | with_reducible refine State.put_keeps ?_
    | with_reducible refine State.tollSums_keeps ?_
    | with_reducible refine State.twinStreams_keeps ?_
    | with_reducible refine State.readHeld_keeps ?_
    | (fail_if_no_progress with_reducible refine Keeps.mk_same ?_ rfl)

theorem State.refuseStream_keeps {s₀ : State} {s : State} {p : Path} {m : Haggle} {code : Nat} {avail : Nat} {ses : Option (BitVec 32)} (h : Keeps s₀ s) :
    Keeps s₀ (State.refuseStream s p m code avail ses) := by
  unfold State.refuseStream
  try dsimp only
  repeat' first
    | with_reducible exact h
    | with_reducible refine State.violate_keeps ?_
    | with_reducible refine State.once0503_keeps ?_ ?_
    | with_reducible refine State.sendControl_keeps ?_
    | with_reducible refine Keeps.ite ?_ ?_
    | (intro u b; try beta_reduce)
    | exact b
    | with_reducible assumption

theorem State.fillStream_keeps {s₀ : State} {s : State} {k : Fin 256} {p : Path} {iface : Nat} {m : Haggle} {toll : Nat} (h : Keeps s₀ s) :
    Keeps s₀ (State.fillStream s k p iface m toll) := by
  unfold State.fillStream
  try dsimp only
  repeat' first
    | with_reducible exact h
    | with_reducible refine State.put_keeps ?_
    | with_reducible refine State.putBlob_keeps ?_
    | with_reducible refine State.setBit_keeps ?_
    | with_reducible refine Keeps.foldl ?_ ?_
    | (intro u a b; try beta_reduce)
    | with_reducible assumption

theorem State.mirrorStream_keeps {s₀ : State} {s : State} {k : Fin 256} (h : Keeps s₀ s) :
    Keeps s₀ (State.mirrorStream s k) := by
  unfold State.mirrorStream
  try dsimp only
  repeat' first
    | with_reducible exact h
    | with_reducible refine State.mirrorCommit_keeps ?_

theorem State.grantStream_keeps {s₀ : State} {s : State} {k : Fin 256} {iface : Nat} {p : Path} {m : Haggle} {toll : Nat} {x : Session} (h : Keeps s₀ s) :
    Keeps s₀ (State.grantStream s k iface p m toll x) := by
  unfold State.grantStream
  try dsimp only
  repeat' first
    | with_reducible exact h
    | with_reducible refine State.fillStream_keeps ?_
    | with_reducible refine State.put_keeps ?_
    | with_reducible refine State.openStream_keeps ?_
    | with_reducible refine State.mirrorStream_keeps ?_
    | with_reducible refine State.sendControl_keeps ?_

theorem execSubscribe_keeps {s₀ : State} {p : Fin 4} {src : Path} {m : Haggle} {dgram : List Byte} {s : State} (h : Keeps s₀ s) :
    Completes s₀ (execSubscribe p src m dgram s) := by
  unfold execSubscribe
  try dsimp only
  repeat' first
    | with_reducible exact h
    | with_reducible refine State.bump_keeps ?_
    | with_reducible refine State.serve_keeps ?_
    | with_reducible refine State.refuseStream_keeps ?_
    | with_reducible refine State.modSession_keeps ?_
    | with_reducible refine State.sendControl_keeps ?_
    | with_reducible refine State.grantStream_keeps ?_
    | with_reducible refine Completes.next ?_
    | with_reducible refine Keeps.ite ?_ ?_
    | split

theorem State.control_keeps {s₀ : State} {s : State} {k : Fin 256} {src : Path} {dgram : List Byte} {good : Bool}
    {act : State → State} (h : Keeps s₀ s)
    (hf : ∀ u, Keeps s₀ u → Keeps s₀ (act u)) :
    Keeps s₀ (State.control s k src dgram good act) := by
  unfold State.control
  try dsimp only
  repeat' first
    | with_reducible exact h
    | with_reducible refine hf _ ?_
    | with_reducible refine State.serve_keeps ?_
    | with_reducible refine State.modSession_keeps ?_
    | with_reducible refine State.violate_keeps ?_
    | with_reducible refine Keeps.ite ?_ ?_
    | (fail_if_no_progress with_reducible refine Keeps.mk_same ?_ rfl)
    | split

theorem execStreamKeepalive_keeps {s₀ : State} {src : Path} {k : Fin 256} {req : BitVec 32} {dgram : List Byte} {s : State} (h : Keeps s₀ s) :
    Completes s₀ (execStreamKeepalive src k req dgram s) := by
  unfold execStreamKeepalive
  try dsimp only
  repeat' first
    | with_reducible exact h
    | with_reducible refine State.control_keeps ?_ ?_
    | with_reducible refine Completes.next ?_
    | (intro u b; try beta_reduce)
    | exact b
    | with_reducible assumption

theorem execCredit_keeps {s₀ : State} {src : Path} {k : Fin 256} {count : BitVec 16} {dgram : List Byte} {s : State} (h : Keeps s₀ s) :
    Completes s₀ (execCredit src k count dgram s) := by
  unfold execCredit
  try dsimp only
  repeat' first
    | with_reducible exact h
    | with_reducible refine State.control_keeps ?_ ?_
    | with_reducible refine State.modStream_keeps ?_
    | with_reducible refine Completes.next ?_
    | (fail_if_no_progress with_reducible refine Keeps.mk_same ?_ rfl)
    | (intro u b; try beta_reduce)
    | exact b
    | with_reducible assumption

theorem State.endStream_keeps {s₀ : State} {s : State} {k : Fin 256} (h : Keeps s₀ s) :
    Keeps s₀ (State.endStream s k) := by
  unfold State.endStream
  try dsimp only
  repeat' first
    | with_reducible exact h
    | with_reducible refine State.mirrorStream_keeps ?_
    | with_reducible refine State.closeStream_keeps ?_
    | with_reducible refine Keeps.ite ?_ ?_

theorem execStreamClose_keeps {s₀ : State} {src : Path} {k : Fin 256} {dgram : List Byte} {s : State} (h : Keeps s₀ s) :
    Completes s₀ (execStreamClose src k dgram s) := by
  unfold execStreamClose
  try dsimp only
  repeat' first
    | with_reducible exact h
    | with_reducible refine State.control_keeps ?_ ?_
    | with_reducible refine State.endStream_keeps ?_
    | with_reducible refine Completes.next ?_
    | (intro u b; try beta_reduce)
    | exact b
    | with_reducible assumption

theorem execLeaseExpiry_keeps {s₀ : State} {k : Fin 256} {s : State} (h : Keeps s₀ s) :
    Completes s₀ (execLeaseExpiry k s) := by
  unfold execLeaseExpiry
  try dsimp only
  repeat' first
    | with_reducible exact h
    | with_reducible refine State.endStream_keeps ?_
    | with_reducible refine Completes.next ?_
    | with_reducible refine Keeps.ite ?_ ?_

theorem execStreamViolation_keeps {s₀ : State} {src : Path} {_bytes : List Byte} {s : State} (h : Keeps s₀ s) :
    Completes s₀ (execStreamViolation src _bytes s) := by
  unfold execStreamViolation
  try dsimp only
  repeat' first
    | with_reducible exact h
    | with_reducible refine State.violate_keeps ?_
    | with_reducible refine State.serve_keeps ?_
    | with_reducible refine Completes.next ?_
    | with_reducible refine Keeps.ite ?_ ?_

theorem execBaleTimeout_keeps {s₀ : State} {k : Fin 256} {s : State} (h : Keeps s₀ s) :
    Completes s₀ (execBaleTimeout k s) := by
  unfold execBaleTimeout
  try dsimp only
  repeat' first
    | with_reducible exact h
    | with_reducible refine State.closeBale_keeps ?_
    | with_reducible refine State.readBook_keeps ?_
    | with_reducible refine Keeps.ite ?_ ?_
    | with_reducible refine Completes.next ?_

theorem State.streamState_keeps {s₀ : State} {s : State} {k : Fin 256} (h : Keeps s₀ s) :
    Keeps s₀ (State.streamState s k) := by
  unfold State.streamState
  try dsimp only
  repeat' first
    | with_reducible exact h
    | with_reducible refine State.put_keeps ?_

theorem State.letIn_keeps {s₀ : State} {s : State} {k : Fin 256} {fs : List Fragment} (h : Keeps s₀ s) :
    Keeps s₀ (State.letIn s k fs) := by
  unfold State.letIn
  try dsimp only
  repeat' first
    | with_reducible exact h
    | with_reducible refine State.modStream_keeps ?_
    | with_reducible refine State.streamState_keeps ?_
    | with_reducible refine State.add_keeps ?_
    | with_reducible refine State.bump_keeps ?_
    | with_reducible refine Keeps.ite ?_ ?_

theorem State.numbered_keeps {s₀ : State} {s : State} {k : Fin 256} {seq : Nat} {no : Nat} {frags : Nat} (h : Keeps s₀ s) :
    Keeps s₀ (State.numbered s k seq no frags) := by
  unfold State.numbered
  try dsimp only
  repeat' first
    | with_reducible exact h
    | with_reducible refine State.modStream_keeps ?_
    | with_reducible refine State.put_keeps ?_

theorem State.splitBale_keeps {s₀ : State} {s : State} {k : Fin 256} {bale : List Byte} {first : Nat} (h : Keeps s₀ s) :
    Keeps s₀ (State.splitBale s k bale first) := by
  unfold State.splitBale
  try dsimp only
  repeat' first
    | with_reducible exact h
    | with_reducible refine State.letIn_keeps ?_
    | with_reducible refine State.numbered_keeps ?_
    | with_reducible refine State.sendMirror_keeps ?_
    | with_reducible refine Keeps.ite ?_ ?_

theorem State.meetMark_keeps {s₀ : State} {s : State} {k : Fin 256} {bale : List Byte} {first : Nat} {m : BaleMarkMsg} (h : Keeps s₀ s) :
    Keeps s₀ (State.meetMark s k bale first m) := by
  unfold State.meetMark
  try dsimp only
  repeat' first
    | with_reducible exact h
    | with_reducible refine State.letIn_keeps ?_
    | with_reducible refine State.bump_keeps ?_
    | with_reducible refine State.numbered_keeps ?_
    | with_reducible refine Keeps.ite ?_ ?_

theorem meetMarks_keeps {s₀ : State} {z0 : Nat} {z1 : State} {z2 : Fin 256} (h : Keeps s₀ z1) :
    Keeps s₀ (meetMarks z0 z1 z2) := by
  induction z0 generalizing z1 with
  | zero => exact h
  | succ f ih =>
    unfold meetMarks
    try dsimp only
    repeat' first
      | with_reducible exact h
      | with_reducible refine ih ?_
      | with_reducible refine State.meetMark_keeps ?_
      | with_reducible refine State.modStream_keeps ?_
      | with_reducible exact h
      | with_reducible refine Completes.next ?_
      | with_reducible refine Keeps.ite ?_ ?_
      | with_reducible refine Completes.ite ?_ ?_
      | with_reducible refine Keeps.dite ?_ ?_
      | with_reducible refine Keeps.foldl ?_ ?_
      | with_reducible refine Keeps.ite_fst ?_ ?_
      | with_reducible refine Completes.nextOf ?_
      | (intro u x a b; try beta_reduce)
      | (intro u a b; try beta_reduce)
      | (intro u b; try beta_reduce)
      | exact b
      | (intro b; try beta_reduce)
      | with_reducible assumption
      | (fail_if_no_progress with_reducible refine Keeps.mk_same ?_ rfl)
      | (fail_if_no_progress with_reducible refine Keeps.mk_draw ?_ rfl)
      | (fail_if_no_progress dsimp only)
      | split

theorem State.baleOut_keeps {s₀ : State} {s : State} {k : Fin 256} {bale : List Byte} {first : Nat} (h : Keeps s₀ s) :
    Keeps s₀ (State.baleOut s k bale first) := by
  unfold State.baleOut
  try dsimp only
  repeat' first
    | with_reducible exact h
    | with_reducible refine meetMarks_keeps ?_
    | with_reducible refine State.modStream_keeps ?_
    | with_reducible refine State.splitBale_keeps ?_
    | with_reducible refine Keeps.ite ?_ ?_

theorem execBaleMark_keeps {s₀ : State} {a : Arrival} {m : BaleMarkMsg} {s : State} (h : Keeps s₀ s) :
    Completes s₀ (execBaleMark a m s) := by
  unfold execBaleMark
  try dsimp only
  repeat' first
    | with_reducible exact h
    | with_reducible refine State.receive_keeps ?_ ?_
    | with_reducible refine ifClean_keeps ?_ ?_
    | with_reducible refine meetMarks_keeps ?_
    | with_reducible refine State.modStream_keeps ?_
    | with_reducible refine Keeps.ite ?_ ?_
    | with_reducible refine Completes.next ?_
    | (fail_if_no_progress with_reducible refine Keeps.mk_same ?_ rfl)
    | (intro u b; try beta_reduce)
    | exact b
    | with_reducible assumption

theorem State.flushHeld_keeps {s₀ : State} {s : State} (h : Keeps s₀ s) :
    Keeps s₀ (State.flushHeld s) := by
  unfold State.flushHeld
  try dsimp only
  repeat' first
    | with_reducible exact h
    | with_reducible refine overAll_keeps ?_ ?_
    | with_reducible refine State.splitBale_keeps ?_
    | with_reducible refine State.modStream_keeps ?_
    | with_reducible refine Keeps.foldl ?_ ?_
    | (intro u a b; try beta_reduce)
    | with_reducible assumption

theorem State.countBale_keeps {s₀ : State} {s : State} {c : ClosedBale} {bytes : List Byte} {fallback : Bool} (h : Keeps s₀ s) :
    Keeps s₀ (State.countBale s c bytes fallback) := by
  unfold State.countBale
  try dsimp only
  repeat' first
    | with_reducible exact h
    | with_reducible refine State.add_keeps ?_
    | with_reducible refine State.bump_keeps ?_
    | with_reducible refine State.put_keeps ?_
    | with_reducible refine Keeps.ite ?_ ?_

theorem execBaleCompressed_keeps {s₀ : State} {s : State} (h : Keeps s₀ s) :
    Completes s₀ (execBaleCompressed s) := by
  unfold execBaleCompressed
  try dsimp only
  repeat' first
    | with_reducible exact h
    | with_reducible refine State.baleOut_keeps ?_
    | with_reducible refine State.countBale_keeps ?_
    | with_reducible refine Completes.next ?_
    | (fail_if_no_progress with_reducible refine Keeps.mk_same ?_ rfl)
    | split

theorem State.sendData_keeps {s₀ : State} {s : State} {k : Fin 256} {bytes : List Byte} (h : Keeps s₀ s) :
    Keeps s₀ (State.sendData s k bytes) := by
  unfold State.sendData
  try dsimp only
  repeat' first
    | with_reducible exact h
    | with_reducible refine State.sendMessage_keeps ?_
    | with_reducible refine State.sendOn_keeps ?_
    | with_reducible refine Keeps.ite ?_ ?_

theorem execDatagramSend_keeps {s₀ : State} {k : Fin 256} {s : State} (h : Keeps s₀ s) :
    Completes s₀ (execDatagramSend k s) := by
  unfold execDatagramSend
  try dsimp only
  repeat' first
    | with_reducible exact h
    | with_reducible refine State.modStream_keeps ?_
    | with_reducible refine State.streamState_keeps ?_
    | with_reducible refine State.put_keeps ?_
    | with_reducible refine State.sendData_keeps ?_
    | with_reducible refine Keeps.ite ?_ ?_
    | with_reducible refine Completes.next ?_
    | (fail_if_no_progress with_reducible refine Keeps.mk_same ?_ rfl)
    | split

theorem State.streamApplied_keeps {s₀ : State} {s : State} {k : Fin 256} (h : Keeps s₀ s) :
    Keeps s₀ (State.streamApplied s k) := by
  unfold State.streamApplied
  try dsimp only
  repeat' first
    | with_reducible exact h
    | with_reducible refine State.readBook_keeps ?_
    | with_reducible refine State.streamBoundary_keeps ?_
    | with_reducible refine State.commit_keeps ?_
    | with_reducible refine State.openStream_keeps ?_
    | with_reducible refine State.put_keeps ?_
    | with_reducible refine Keeps.ite ?_ ?_

end Sys2Proof.Machine
end

