-- ==== Sys2Proof/Laws/Twin.lean ====
section
/-! SUPPORT. What the operations of Machine/Twin.lean keep, one lemma each (Keeps, Completes: Laws/Keeps.lean). -/

/- One declaration after another: side by side they would need more memory. -/
set_option Elab.async false

namespace Sys2Proof.Machine

theorem State.putClaim_keeps {s₀ : State} {s : State} {v : Nat} (h : Keeps s₀ s) :
    Keeps s₀ (State.putClaim s v) := by
  unfold State.putClaim
  try dsimp only
  repeat' first
    | with_reducible exact h
    | with_reducible refine State.put_keeps ?_
    | with_reducible refine State.emit_keeps ?_
    | with_reducible refine Keeps.ite ?_ ?_
    | (fail_if_no_progress with_reducible refine Keeps.mk_same ?_ rfl)

theorem State.setClaim_keeps {s₀ : State} {s : State} {prio : Nat} (h : Keeps s₀ s) :
    Keeps s₀ (State.setClaim s prio) := by
  unfold State.setClaim
  try dsimp only
  repeat' first
    | with_reducible exact h
    | with_reducible refine State.putClaim_keeps ?_

theorem State.outOfStep_keeps {s₀ : State} {s : State} (h : Keeps s₀ s) :
    Keeps s₀ (State.outOfStep s) := by
  unfold State.outOfStep
  try dsimp only
  repeat' first
    | with_reducible exact h
    | with_reducible refine State.putBit_keeps ?_

theorem State.takeRole_keeps {s₀ : State} {s : State} {role : Nat} {prio : Nat} (h : Keeps s₀ s) :
    Keeps s₀ (State.takeRole s role prio) := by
  unfold State.takeRole
  try dsimp only
  repeat' first
    | with_reducible exact h
    | with_reducible refine State.twinStreams_keeps ?_
    | with_reducible refine State.plantTurn_keeps ?_
    | with_reducible refine State.setClaim_keeps ?_
    | with_reducible refine State.put_keeps ?_

theorem State.toStandby_keeps {s₀ : State} {s : State} (h : Keeps s₀ s) :
    Keeps s₀ (State.toStandby s) := by
  unfold State.toStandby
  try dsimp only
  repeat' first
    | with_reducible exact h
    | with_reducible refine State.takeRole_keeps ?_
    | with_reducible refine State.outOfStep_keeps ?_
    | (fail_if_no_progress with_reducible refine Keeps.mk_same ?_ rfl)

theorem State.toActive_keeps {s₀ : State} {s : State} {prio : Nat} (h : Keeps s₀ s) :
    Keeps s₀ (State.toActive s prio) := by
  unfold State.toActive
  try dsimp only
  repeat' first
    | with_reducible exact h
    | with_reducible refine State.takeRole_keeps ?_

theorem State.skipLost_keeps {s₀ : State} {s : State} {n : Port} {d : Option Delivery} (h : Keeps s₀ s) :
    Keeps s₀ (State.skipLost s n d) := by
  unfold State.skipLost
  try dsimp only
  repeat' first
    | with_reducible exact h
    | with_reducible refine State.resolve_keeps ?_
    | with_reducible refine State.skipFor_keeps ?_
    | with_reducible refine State.openRecords_keeps ?_
    | with_reducible refine State.releasePort_keeps ?_
    | with_reducible refine State.bump_keeps ?_
    | with_reducible refine Keeps.foldl ?_ ?_
    | (intro u a b; try beta_reduce)
    | with_reducible assumption
    | with_reducible refine Keeps.ite ?_ ?_
    | (fail_if_no_progress with_reducible refine Keeps.mk_same ?_ rfl)
    | split

theorem State.mirrorLost_keeps {s₀ : State} {s : State} {n : Port} {d : Option Delivery} (h : Keeps s₀ s) :
    Keeps s₀ (State.mirrorLost s n d) := by
  unfold State.mirrorLost
  try dsimp only
  repeat' first
    | with_reducible exact h
    | with_reducible refine State.outOfStep_keeps ?_
    | with_reducible refine State.bump_keeps ?_
    | with_reducible refine State.skipLost_keeps ?_
    | (fail_if_no_progress with_reducible refine Keeps.mk_same ?_ rfl)

theorem State.loseParts_keeps {s₀ : State} {s : State} {p : MirrorPart → Bool} (h : Keeps s₀ s) :
    Keeps s₀ (State.loseParts s p) := by
  unfold State.loseParts
  try dsimp only
  repeat' first
    | with_reducible exact h
    | with_reducible refine State.mirrorLost_keeps ?_
    | with_reducible refine Keeps.foldl ?_ ?_
    | (intro u a b; try beta_reduce)
    | with_reducible assumption
    | (fail_if_no_progress with_reducible refine Keeps.mk_same ?_ rfl)

theorem State.stepCheck_keeps {s₀ : State} {s : State} (h : Keeps s₀ s) :
    Keeps s₀ (State.stepCheck s) := by
  unfold State.stepCheck
  try dsimp only
  repeat' first
    | with_reducible exact h
    | with_reducible refine State.putBit_keeps ?_
    | with_reducible refine Keeps.ite ?_ ?_

theorem State.boundedBy_keeps {s₀ : State} {s : State} {n : Port} {d : BitVec 32} {f : State → State} (h : Keeps s₀ s)
    (hf : ∀ u, Keeps s₀ u → Keeps s₀ (f u)) :
    Keeps s₀ (State.boundedBy s n d f) := by
  unfold State.boundedBy
  try dsimp only
  repeat' first
    | with_reducible exact h
    | with_reducible refine hf _ ?_
    | (fail_if_no_progress with_reducible refine Keeps.mk_same ?_ rfl)

theorem State.runMirrored_keeps {s₀ : State} {s : State} {n : Port} {d : Delivery} (h : Keeps s₀ s) :
    Keeps s₀ (State.runMirrored s n d) := by
  unfold State.runMirrored
  try dsimp only
  repeat' first
    | with_reducible exact h
    | with_reducible refine State.openSample_keeps ?_
    | with_reducible refine State.fillSamples_keeps ?_
    | with_reducible refine State.boundedBy_keeps ?_ ?_
    | with_reducible refine State.regionsAt_keeps ?_
    | with_reducible refine State.completeDelivery_keeps ?_
    | with_reducible refine Keeps.ite ?_ ?_
    | (intro u b; try beta_reduce)
    | with_reducible assumption

theorem State.boundariesDue_keeps {s₀ : State} {s : State} {n : Port} {seq : BitVec 32} (h : Keeps s₀ s) :
    Keeps s₀ (State.boundariesDue s n seq) := by
  unfold State.boundariesDue
  try dsimp only
  repeat' first
    | with_reducible exact h
    | with_reducible refine State.commitPort_keeps ?_
    | with_reducible refine State.commitIf_keeps ?_
    | with_reducible refine Keeps.ite ?_ ?_
    | with_reducible refine Keeps.foldl ?_ ?_
    | (intro u a b; try beta_reduce)
    | with_reducible assumption
    | (fail_if_no_progress with_reducible refine Keeps.mk_same ?_ rfl)

theorem State.mirrorHeader_keeps {s₀ : State} {s : State} {n : Port} {deliv : BitVec 32} {b : List Byte} (h : Keeps s₀ s) :
    Keeps s₀ (State.mirrorHeader s n deliv b) := by
  unfold State.mirrorHeader
  try dsimp only
  repeat' first
    | with_reducible exact h
    | with_reducible refine State.mirrorLost_keeps ?_
    | with_reducible refine State.boundariesDue_keeps ?_
    | with_reducible refine State.put_keeps ?_
    | with_reducible refine State.modPipe_keeps ?_
    | with_reducible refine State.modPort_keeps ?_
    | with_reducible refine State.advanceTable_keeps ?_
    | with_reducible refine Keeps.foldl ?_ ?_
    | (intro u a b; try beta_reduce)
    | with_reducible assumption
    | with_reducible refine Keeps.ite ?_ ?_
    | (fail_if_no_progress with_reducible refine Keeps.mk_same ?_ rfl)

theorem State.mirrorDone_keeps {s₀ : State} {s : State} {m : MirrorPart} {l : List Byte} (h : Keeps s₀ s) :
    Keeps s₀ (State.mirrorDone s m l) := by
  unfold State.mirrorDone
  try dsimp only
  repeat' first
    | with_reducible exact h
    | with_reducible refine State.loseParts_keeps ?_
    | with_reducible refine State.runMirrored_keeps ?_
    | with_reducible refine State.stepCheck_keeps ?_
    | (fail_if_no_progress with_reducible refine Keeps.mk_same ?_ rfl)

theorem State.mirrorPiece_keeps {s₀ : State} {s : State} {a : Arrival} {n : Port} {deliv : BitVec 32} {index : Nat} {isLast : Bool}
    {payload : List Byte} (h : Keeps s₀ s) :
    Keeps s₀ (State.mirrorPiece s a n deliv index isLast payload) := by
  unfold State.mirrorPiece
  try dsimp only
  repeat' first
    | with_reducible exact h
    | with_reducible refine State.mirrorHeader_keeps ?_
    | with_reducible refine State.mirrorDone_keeps ?_
    | with_reducible refine Keeps.ite ?_ ?_
    | (fail_if_no_progress with_reducible refine Keeps.mk_same ?_ rfl)
    | split

theorem execMirrorFrame_keeps {s₀ : State} {a : Arrival} {n : Port} {deliv : BitVec 32} {index : Nat} {isLast : Bool} {payload : List Byte}
    {s : State} (h : Keeps s₀ s) :
    Completes s₀ (execMirrorFrame a n deliv index isLast payload s) := by
  unfold execMirrorFrame
  try dsimp only
  repeat' first
    | with_reducible exact h
    | with_reducible refine State.receive_keeps ?_ ?_
    | with_reducible refine State.mirrorPiece_keeps ?_
    | with_reducible refine Keeps.ite ?_ ?_
    | with_reducible refine Completes.next ?_
    | (intro u b; try beta_reduce)
    | with_reducible assumption

theorem State.linkMirrorLost_keeps {s₀ : State} {s : State} {k : Fin 4} (h : Keeps s₀ s) :
    Keeps s₀ (State.linkMirrorLost s k) := by
  unfold State.linkMirrorLost
  try dsimp only
  repeat' first
    | with_reducible exact h
    | with_reducible refine State.loseParts_keeps ?_
    | with_reducible refine Keeps.ite ?_ ?_

theorem State.unitFault_keeps {s₀ : State} {s : State} (h : Keeps s₀ s) :
    Keeps s₀ (State.unitFault s) := by
  unfold State.unitFault
  try dsimp only
  repeat' first
    | with_reducible exact h
    | with_reducible refine State.bump_keeps ?_
    | with_reducible refine State.toActive_keeps ?_
    | with_reducible refine State.put_keeps ?_
    | with_reducible refine State.log_keeps ?_
    | with_reducible refine State.loseParts_keeps ?_
    | with_reducible refine overAll_keeps ?_ ?_
    | with_reducible refine State.relearnAll_keeps ?_
    | with_reducible refine State.modPort_keeps ?_
    | with_reducible refine State.flushHeld_keeps ?_
    | with_reducible refine Keeps.ite ?_ ?_
    | (intro u a b; try beta_reduce)
    | with_reducible assumption

theorem State.faultCheck_keeps {s₀ : State} {s : State} (h : Keeps s₀ s) :
    Keeps s₀ (State.faultCheck s) := by
  unfold State.faultCheck
  try dsimp only
  repeat' first
    | with_reducible exact h
    | with_reducible refine State.unitFault_keeps ?_
    | with_reducible refine Keeps.ite ?_ ?_
    | (fail_if_no_progress with_reducible refine Keeps.mk_draw ?_ rfl)

theorem State.startCheck_keeps {s₀ : State} {s : State} (h : Keeps s₀ s) :
    Keeps s₀ (State.startCheck s) := by
  unfold State.startCheck
  try dsimp only
  repeat' first
    | with_reducible exact h
    | with_reducible refine State.toActive_keeps ?_
    | with_reducible refine Keeps.ite ?_ ?_
    | (fail_if_no_progress with_reducible refine Keeps.mk_draw ?_ rfl)

theorem State.sendJoin_keeps {s₀ : State} {s : State} (h : Keeps s₀ s) :
    Keeps s₀ (State.sendJoin s) := by
  unfold State.sendJoin
  try dsimp only
  repeat' first
    | with_reducible exact h
    | with_reducible refine State.sendCommit_keeps ?_
    | with_reducible refine overAll_keeps ?_ ?_
    | with_reducible refine Keeps.foldl ?_ ?_
    | (intro u a b; try beta_reduce)
    | with_reducible assumption
    | with_reducible refine Keeps.ite ?_ ?_

theorem State.crierStarting_keeps {s₀ : State} {s : State} {m : CrierMsg} (h : Keeps s₀ s) :
    Keeps s₀ (State.crierStarting s m) := by
  unfold State.crierStarting
  try dsimp only
  repeat' first
    | with_reducible exact h
    | with_reducible refine State.toStandby_keeps ?_
    | with_reducible refine State.drawn_keeps ?_
    | with_reducible refine State.toActive_keeps ?_
    | with_reducible refine Keeps.ite ?_ ?_

theorem State.crierRole_keeps {s₀ : State} {s : State} {m : CrierMsg} {before : Option Nat} (h : Keeps s₀ s) :
    Keeps s₀ (State.crierRole s m before) := by
  unfold State.crierRole
  try dsimp only
  repeat' first
    | with_reducible exact h
    | with_reducible refine State.crierStarting_keeps ?_
    | with_reducible refine State.unitFault_keeps ?_
    | with_reducible refine State.sendJoin_keeps ?_
    | with_reducible refine State.setClaim_keeps ?_
    | with_reducible refine State.toStandby_keeps ?_
    | with_reducible refine Keeps.ite ?_ ?_
    | split

theorem State.crierIn_keeps {s₀ : State} {s : State} {path : TwinPath} {m : CrierMsg} (h : Keeps s₀ s) :
    Keeps s₀ (State.crierIn s path m) := by
  unfold State.crierIn
  try dsimp only
  repeat' first
    | with_reducible exact h
    | with_reducible refine State.logFlag_keeps ?_
    | with_reducible refine State.crierRole_keeps ?_
    | with_reducible refine Keeps.ite ?_ ?_
    | (fail_if_no_progress with_reducible refine Keeps.mk_same ?_ rfl)

theorem execCrier_keeps {s₀ : State} {link : Option Arrival} {m : Option CrierMsg} {s : State} (h : Keeps s₀ s) :
    Completes s₀ (execCrier link m s) := by
  unfold execCrier
  try dsimp only
  repeat' first
    | with_reducible exact h
    | with_reducible refine State.crierIn_keeps ?_
    | with_reducible refine State.receive_keeps ?_ ?_
    | with_reducible refine ifClean_keeps ?_ ?_
    | with_reducible refine Completes.next ?_
    | (fail_if_no_progress with_reducible refine Keeps.mk_same ?_ rfl)
    | split
    | (intro u b; try beta_reduce)
    | with_reducible assumption

theorem execCrierTimeout_keeps {s₀ : State} {path : TwinPath} {s : State} (h : Keeps s₀ s) :
    Completes s₀ (execCrierTimeout path s) := by
  unfold execCrierTimeout
  try dsimp only
  repeat' first
    | with_reducible exact h
    | with_reducible refine State.logFlag_keeps ?_
    | with_reducible refine State.startCheck_keeps ?_
    | with_reducible refine State.faultCheck_keeps ?_
    | with_reducible refine Keeps.ite ?_ ?_
    | with_reducible refine Completes.next ?_
    | (fail_if_no_progress with_reducible refine Keeps.mk_same ?_ rfl)

theorem execTwinCrierSend_keeps {s₀ : State} {path : TwinPath} {s : State} (h : Keeps s₀ s) :
    Completes s₀ (execTwinCrierSend path s) := by
  unfold execTwinCrierSend
  try dsimp only
  repeat' first
    | with_reducible exact h
    | with_reducible refine State.sendFrame_keeps ?_
    | with_reducible refine overAll_keeps ?_ ?_
    | with_reducible refine State.leave_keeps ?_
    | with_reducible refine State.nextRct_keeps ?_
    | with_reducible refine Keeps.foldl ?_ ?_
    | (intro u a b; try beta_reduce)
    | with_reducible assumption
    | with_reducible refine Keeps.ite ?_ ?_
    | with_reducible refine Completes.next ?_
    | (fail_if_no_progress with_reducible refine Keeps.mk_same ?_ rfl)
    | split

theorem State.claimAbove_keeps {s₀ : State} {s : State} (h : Keeps s₀ s) :
    Keeps s₀ (State.claimAbove s) := by
  unfold State.claimAbove
  try dsimp only
  repeat' first
    | with_reducible exact h
    | with_reducible refine overAll_keeps ?_ ?_
    | with_reducible refine State.cutPort_keeps ?_
    | with_reducible refine State.toStandby_keeps ?_
    | with_reducible refine Keeps.ite ?_ ?_
    | (intro u a b; try beta_reduce)
    | with_reducible assumption

theorem execClaimFrame_keeps {s₀ : State} {frame : BitVec 40} {s : State} (h : Keeps s₀ s) :
    Completes s₀ (execClaimFrame frame s) := by
  unfold execClaimFrame
  try dsimp only
  repeat' first
    | with_reducible exact h
    | with_reducible refine State.putBit_keeps ?_
    | with_reducible refine State.put_keeps ?_
    | with_reducible refine State.claimAbove_keeps ?_
    | with_reducible refine State.unitFault_keeps ?_
    | with_reducible refine Completes.next ?_
    | with_reducible refine Keeps.ite ?_ ?_
    | (fail_if_no_progress with_reducible refine Keeps.mk_same ?_ rfl)

theorem execClaimStale_keeps {s₀ : State} {s : State} (h : Keeps s₀ s) :
    Completes s₀ (execClaimStale s) := by
  unfold execClaimStale
  try dsimp only
  repeat' first
    | with_reducible exact h
    | with_reducible refine State.putBit_keeps ?_
    | with_reducible refine State.startCheck_keeps ?_
    | with_reducible refine State.faultCheck_keeps ?_
    | with_reducible refine Completes.next ?_
    | (fail_if_no_progress with_reducible refine Keeps.mk_same ?_ rfl)
    | (fail_if_no_progress with_reducible refine Keeps.mk_draw ?_ rfl)

theorem yieldEff_keeps {s₀ : State} {s : State} {v : Nat} (h : Keeps s₀ s) :
    Keeps s₀ (yieldEff s v) := by
  unfold yieldEff
  try dsimp only
  repeat' first
    | with_reducible exact h
    | with_reducible refine Keeps.ite ?_ ?_
    | (fail_if_no_progress with_reducible refine Keeps.mk_same ?_ rfl)

theorem State.yieldNow_keeps {s₀ : State} {s : State} {n : Port} (h : Keeps s₀ s) :
    Keeps s₀ (State.yieldNow s n) := by
  unfold State.yieldNow
  try dsimp only
  repeat' first
    | with_reducible exact h
    | with_reducible refine State.takeRole_keeps ?_
    | with_reducible refine Keeps.ite ?_ ?_
    | (fail_if_no_progress with_reducible refine Keeps.mk_same ?_ rfl)

theorem State.leavePair_keeps {s₀ : State} {s : State} (h : Keeps s₀ s) :
    Keeps s₀ (State.leavePair s) := by
  unfold State.leavePair
  try dsimp only
  repeat' first
    | with_reducible exact h
    | with_reducible refine overAll_keeps ?_ ?_
    | with_reducible refine State.setBit_keeps ?_
    | with_reducible refine State.put_keeps ?_
    | with_reducible refine Keeps.ite ?_ ?_
    | (intro u a b; try beta_reduce)
    | with_reducible assumption

theorem State.commitTwin_keeps {s₀ : State} {s : State} (h : Keeps s₀ s) :
    Keeps s₀ (State.commitTwin s) := by
  unfold State.commitTwin
  try dsimp only
  repeat' first
    | with_reducible exact h
    | with_reducible refine State.leavePair_keeps ?_
    | with_reducible refine State.commit_keeps ?_
    | with_reducible refine State.takeRole_keeps ?_
    | with_reducible refine State.put_keeps ?_
    | with_reducible refine State.plantTurn_keeps ?_
    | with_reducible refine State.twinStreams_keeps ?_
    | with_reducible refine State.setClaim_keeps ?_
    | with_reducible refine Keeps.ite ?_ ?_
    | (fail_if_no_progress with_reducible refine Keeps.mk_same ?_ rfl)

theorem State.takePort_keeps {s₀ : State} {s : State} {n : Port} (h : Keeps s₀ s) :
    Keeps s₀ (State.takePort s n) := by
  unfold State.takePort
  try dsimp only
  repeat' first
    | with_reducible exact h
    | with_reducible refine State.putBit_keeps ?_
    | with_reducible refine State.put_keeps ?_
    | with_reducible refine Keeps.ite ?_ ?_

end Sys2Proof.Machine
end

