-- ==== Sys2Proof/Laws/Aggon.lean ====
section
/-! SUPPORT. What the operations of Machine/Aggon.lean keep, one lemma each (Keeps, Completes: Laws/Keeps.lean). -/

/- One declaration after another: side by side they would need more memory. -/
set_option Elab.async false

namespace Sys2Proof.Machine

theorem State.startLink_keeps {s₀ : State} {s : State} {k : Fin 4} (h : Keeps s₀ s) :
    Keeps s₀ (State.startLink s k) := by
  unfold State.startLink
  try dsimp only
  repeat' first
    | with_reducible exact h
    | with_reducible refine State.modLink_keeps ?_
    | with_reducible refine State.put_keeps ?_

theorem State.linkGone_keeps {s₀ : State} {s : State} {k : Fin 4} (h : Keeps s₀ s) :
    Keeps s₀ (State.linkGone s k) := by
  unfold State.linkGone
  try dsimp only
  repeat' first
    | with_reducible exact h
    | with_reducible refine State.put_keeps ?_
    | with_reducible refine State.clrBit_keeps ?_
    | with_reducible refine State.linkMirrorLost_keeps ?_

theorem State.leaveService_keeps {s₀ : State} {s : State} {k : Fin 4} (h : Keeps s₀ s) :
    Keeps s₀ (State.leaveService s k) := by
  unfold State.leaveService
  try dsimp only
  repeat' first
    | with_reducible exact h
    | with_reducible refine State.linkGone_keeps ?_
    | with_reducible refine State.startLink_keeps ?_
    | with_reducible refine State.log_keeps ?_
    | with_reducible refine State.modRef_keeps ?_
    | with_reducible refine State.disqualify_keeps ?_
    | with_reducible refine State.clusterUpdate_keeps ?_
    | with_reducible refine Keeps.ite ?_ ?_
    | (fail_if_no_progress with_reducible refine Keeps.mk_same ?_ rfl)

theorem State.relink_keeps {s₀ : State} {s : State} {k : Fin 4} {again : Bool} (h : Keeps s₀ s) :
    Keeps s₀ (State.relink s k again) := by
  unfold State.relink
  try dsimp only
  repeat' first
    | with_reducible exact h
    | with_reducible refine State.leaveService_keeps ?_
    | with_reducible refine State.startLink_keeps ?_
    | with_reducible refine State.modLink_keeps ?_
    | with_reducible refine State.put_keeps ?_
    | with_reducible refine Keeps.ite ?_ ?_

theorem execTrainingTimeout_keeps {s₀ : State} {k : Fin 4} {s : State} (h : Keeps s₀ s) :
    Completes s₀ (execTrainingTimeout k s) := by
  unfold execTrainingTimeout
  try dsimp only
  repeat' first
    | with_reducible exact h
    | with_reducible refine State.modLink_keeps ?_
    | with_reducible refine State.bump_keeps ?_
    | with_reducible refine Completes.next ?_
    | with_reducible refine Keeps.ite ?_ ?_

theorem execRetrain_keeps {s₀ : State} {k : Fin 4} {s : State} (h : Keeps s₀ s) :
    Completes s₀ (execRetrain k s) := by
  unfold execRetrain
  try dsimp only
  repeat' first
    | with_reducible exact h
    | with_reducible refine State.startLink_keeps ?_
    | with_reducible refine Completes.next ?_
    | with_reducible refine Keeps.ite ?_ ?_

theorem execBlockLock_keeps {s₀ : State} {k : Fin 4} {lane : Fin 5} {s : State} (h : Keeps s₀ s) :
    Completes s₀ (execBlockLock k lane s) := by
  unfold execBlockLock
  try dsimp only
  repeat' first
    | with_reducible exact h
    | with_reducible refine State.modLink_keeps ?_
    | with_reducible refine State.put_keeps ?_
    | with_reducible refine Completes.next ?_
    | with_reducible refine Keeps.ite ?_ ?_

theorem execAlignmentMarker_keeps {s₀ : State} {k : Fin 4} {lane phys : Fin 5} {logical : Option (Fin 4)} {map : List (Fin 5)}
    {failed : Option (Fin 5)} {s : State} (h : Keeps s₀ s) :
    Completes s₀ (execAlignmentMarker k lane phys logical map failed s) := by
  unfold execAlignmentMarker
  try dsimp only
  repeat' first
    | with_reducible exact h
    | with_reducible refine State.modLink_keeps ?_
    | with_reducible refine State.put_keeps ?_
    | with_reducible refine Keeps.ite ?_ ?_
    | with_reducible refine Completes.next ?_
    | (fail_if_no_progress with_reducible refine Keeps.mk_same ?_ rfl)

theorem State.moveLane_keeps {s₀ : State} {s : State} {k : Fin 4} (h : Keeps s₀ s) :
    Keeps s₀ (State.moveLane s k) := by
  unfold State.moveLane
  try dsimp only
  repeat' first
    | with_reducible exact h
    | with_reducible refine State.modLink_keeps ?_
    | with_reducible refine State.put_keeps ?_
    | with_reducible refine State.bump_keeps ?_
    | split

theorem execAlignmentMarkerSend_keeps {s₀ : State} {k : Fin 4} {s : State} (h : Keeps s₀ s) :
    Completes s₀ (execAlignmentMarkerSend k s) := by
  unfold execAlignmentMarkerSend
  try dsimp only
  repeat' first
    | with_reducible exact h
    | with_reducible refine State.moveLane_keeps ?_
    | with_reducible refine overAll_keeps ?_ ?_
    | with_reducible refine State.emit_keeps ?_
    | with_reducible refine Completes.next ?_
    | with_reducible refine Keeps.ite ?_ ?_
    | (intro u a b; try beta_reduce)
    | with_reducible assumption

theorem State.trainingLoss_keeps {s₀ : State} {s : State} {k : Fin 4} {lane : Fin 5} (h : Keeps s₀ s) :
    Keeps s₀ (State.trainingLoss s k lane) := by
  unfold State.trainingLoss
  try dsimp only
  repeat' first
    | with_reducible exact h
    | with_reducible refine State.modLink_keeps ?_
    | with_reducible refine State.put_keeps ?_
    | with_reducible refine Keeps.ite ?_ ?_
    | (fail_if_no_progress with_reducible refine Keeps.mk_same ?_ rfl)

theorem State.serviceLoss_keeps {s₀ : State} {s : State} {k : Fin 4} {phys : Fin 5} (h : Keeps s₀ s) :
    Keeps s₀ (State.serviceLoss s k phys) := by
  unfold State.serviceLoss
  try dsimp only
  repeat' first
    | with_reducible exact h
    | with_reducible refine State.modLink_keeps ?_
    | with_reducible refine State.leaveService_keeps ?_
    | with_reducible refine Keeps.ite ?_ ?_
    | (fail_if_no_progress with_reducible refine Keeps.mk_same ?_ rfl)

theorem execLaneFailure_keeps {s₀ : State} {k : Fin 4} {lane : Fin 5} {s : State} (h : Keeps s₀ s) :
    Completes s₀ (execLaneFailure k lane s) := by
  unfold execLaneFailure
  try dsimp only
  repeat' first
    | with_reducible exact h
    | with_reducible refine State.trainingLoss_keeps ?_
    | with_reducible refine State.serviceLoss_keeps ?_
    | with_reducible refine Keeps.ite ?_ ?_
    | with_reducible refine Completes.next ?_
    | (fail_if_no_progress with_reducible refine Keeps.mk_same ?_ rfl)
    | split

theorem execHaggleSend_keeps {s₀ : State} {k : Fin 4} {s : State} (h : Keeps s₀ s) :
    Completes s₀ (execHaggleSend k s) := by
  unfold execHaggleSend
  try dsimp only
  repeat' first
    | with_reducible exact h
    | with_reducible refine State.put_keeps ?_
    | with_reducible refine State.putFrame_keeps ?_
    | with_reducible refine Keeps.ite ?_ ?_
    | with_reducible refine Completes.next ?_

theorem State.markTwinLinks_keeps {s₀ : State} {s : State} (h : Keeps s₀ s) :
    Keeps s₀ (State.markTwinLinks s) := by
  unfold State.markTwinLinks
  try dsimp only
  repeat' first
    | with_reducible exact h
    | with_reducible refine State.drainMirror_keeps ?_
    | with_reducible refine overAll_keeps ?_ ?_
    | with_reducible refine State.putBit_keeps ?_
    | (intro u a b; try beta_reduce)
    | with_reducible assumption

theorem State.linkComesUp_keeps {s₀ : State} {s : State} {k : Fin 4} {g : LinkHaggle} (h : Keeps s₀ s) :
    Keeps s₀ (State.linkComesUp s k g) := by
  unfold State.linkComesUp
  try dsimp only
  repeat' first
    | with_reducible exact h
    | with_reducible refine State.modLink_keeps ?_
    | with_reducible refine State.put_keeps ?_
    | with_reducible refine State.markTwinLinks_keeps ?_
    | with_reducible refine State.clusterUpdate_keeps ?_
    | (fail_if_no_progress with_reducible refine Keeps.mk_same ?_ rfl)

theorem execHaggle_keeps {s₀ : State} {k : Fin 4} {g : LinkHaggle} {s : State} (h : Keeps s₀ s) :
    Completes s₀ (execHaggle k g s) := by
  unfold execHaggle
  try dsimp only
  repeat' first
    | with_reducible exact h
    | with_reducible refine State.put_keeps ?_
    | with_reducible refine State.linkComesUp_keeps ?_
    | with_reducible refine State.modLink_keeps ?_
    | with_reducible refine State.log_keeps ?_
    | with_reducible refine Keeps.ite ?_ ?_
    | with_reducible refine Completes.next ?_
    | (fail_if_no_progress with_reducible refine Keeps.mk_same ?_ rfl)

theorem State.replay_keeps {s₀ : State} {s : State} {k : Fin 4} (h : Keeps s₀ s) :
    Keeps s₀ (State.replay s k) := by
  unfold State.replay
  try dsimp only
  repeat' first
    | with_reducible exact h
    | with_reducible refine State.leaveService_keeps ?_
    | with_reducible refine State.modLink_keeps ?_
    | with_reducible refine State.bump_keeps ?_
    | with_reducible refine State.putFrame_keeps ?_
    | with_reducible refine Keeps.foldl ?_ ?_
    | (intro u a b; try beta_reduce)
    | with_reducible assumption
    | with_reducible refine Keeps.ite ?_ ?_
    | (fail_if_no_progress with_reducible refine Keeps.mk_same ?_ rfl)
    | split

theorem execLinkFrame_keeps {s₀ : State} {k : Fin 4} {nak : Bool} {ack : BitVec 16} {credit : BitVec 32} {s : State} (h : Keeps s₀ s) :
    Completes s₀ (execLinkFrame k nak ack credit s) := by
  unfold execLinkFrame
  try dsimp only
  repeat' first
    | with_reducible exact h
    | with_reducible refine State.modLink_keeps ?_
    | with_reducible refine State.replay_keeps ?_
    | with_reducible refine State.pumpLink_keeps ?_
    | with_reducible refine Keeps.ite ?_ ?_
    | with_reducible refine Completes.next ?_

theorem execReplayTimeout_keeps {s₀ : State} {k : Fin 4} {s : State} (h : Keeps s₀ s) :
    Completes s₀ (execReplayTimeout k s) := by
  unfold execReplayTimeout
  try dsimp only
  repeat' first
    | with_reducible exact h
    | with_reducible refine State.replay_keeps ?_
    | with_reducible refine Completes.next ?_
    | with_reducible refine Keeps.ite ?_ ?_

theorem execBadFrame_keeps {s₀ : State} {k : Fin 4} {s : State} (h : Keeps s₀ s) :
    Completes s₀ (execBadFrame k s) := by
  unfold execBadFrame
  try dsimp only
  repeat' first
    | with_reducible exact h
    | with_reducible refine State.discardFrame_keeps ?_
    | with_reducible refine Keeps.ite ?_ ?_
    | with_reducible refine Completes.next ?_

theorem execLinkCrierSend_keeps {s₀ : State} {k : Fin 4} {s : State} (h : Keeps s₀ s) :
    Completes s₀ (execLinkCrierSend k s) := by
  unfold execLinkCrierSend
  try dsimp only
  repeat' first
    | with_reducible exact h
    | with_reducible refine State.sendFrame_keeps ?_
    | with_reducible refine Completes.next ?_

theorem execLinkSilent_keeps {s₀ : State} {k : Fin 4} {s : State} (h : Keeps s₀ s) :
    Completes s₀ (execLinkSilent k s) := by
  unfold execLinkSilent
  try dsimp only
  repeat' first
    | with_reducible exact h
    | with_reducible refine State.leaveService_keeps ?_
    | with_reducible refine State.logFlag_keeps ?_
    | with_reducible refine Completes.next ?_
    | with_reducible refine Keeps.ite ?_ ?_

theorem execTopoSend_keeps {s₀ : State} {s : State} (h : Keeps s₀ s) :
    Completes s₀ (execTopoSend s) := by
  unfold execTopoSend
  try dsimp only
  repeat' first
    | with_reducible exact h
    | with_reducible refine State.flood_keeps ?_
    | with_reducible refine Completes.next ?_
    | (fail_if_no_progress with_reducible refine Keeps.mk_same ?_ rfl)

theorem State.dupId_keeps {s₀ : State} {s : State} {d : BitVec 11} (h : Keeps s₀ s) :
    Keeps s₀ (State.dupId s d) := by
  unfold State.dupId
  try dsimp only
  repeat' first
    | with_reducible exact h
    | with_reducible refine State.clrBit_keeps ?_
    | with_reducible refine State.logFlag_keeps ?_
    | with_reducible refine Keeps.ite ?_ ?_
    | (fail_if_no_progress with_reducible refine Keeps.mk_same ?_ rfl)

theorem State.passTopo_keeps {s₀ : State} {s : State} {k : Fin 4} {f : TopoFrame} (h : Keeps s₀ s) :
    Keeps s₀ (State.passTopo s k f) := by
  unfold State.passTopo
  try dsimp only
  repeat' first
    | with_reducible exact h
    | with_reducible refine State.flood_keeps ?_
    | with_reducible refine Keeps.ite ?_ ?_

theorem State.topoOwn_keeps {s₀ : State} {s : State} {k : Fin 4} {f : TopoFrame} (h : Keeps s₀ s) :
    Keeps s₀ (State.topoOwn s k f) := by
  unfold State.topoOwn
  try dsimp only
  repeat' first
    | with_reducible exact h
    | with_reducible refine State.dupId_keeps ?_
    | with_reducible refine State.clusterUpdate_keeps ?_
    | with_reducible refine State.passTopo_keeps ?_
    | with_reducible refine Keeps.ite ?_ ?_
    | (fail_if_no_progress with_reducible refine Keeps.mk_same ?_ rfl)

theorem State.topoOther_keeps {s₀ : State} {s : State} {k : Fin 4} {f : TopoFrame} (h : Keeps s₀ s) :
    Keeps s₀ (State.topoOther s k f) := by
  unfold State.topoOther
  try dsimp only
  repeat' first
    | with_reducible exact h
    | with_reducible refine State.clusterUpdate_keeps ?_
    | with_reducible refine State.passTopo_keeps ?_
    | with_reducible refine State.dupId_keeps ?_
    | with_reducible refine Keeps.ite ?_ ?_
    | (fail_if_no_progress with_reducible refine Keeps.mk_same ?_ rfl)
    | split

theorem execTopo_keeps {s₀ : State} {a : Arrival} {f : TopoFrame} {s : State} (h : Keeps s₀ s) :
    Completes s₀ (execTopo a f s) := by
  unfold execTopo
  try dsimp only
  repeat' first
    | with_reducible exact h
    | with_reducible refine State.receive_keeps ?_ ?_
    | with_reducible refine ifClean_keeps ?_ ?_
    | with_reducible refine State.topoOwn_keeps ?_
    | with_reducible refine State.topoOther_keeps ?_
    | with_reducible refine Keeps.ite ?_ ?_
    | with_reducible refine Completes.next ?_
    | (intro u b; try beta_reduce)
    | with_reducible assumption

theorem execTopoAgeOut_keeps {s₀ : State} {dev : BitVec 11} {s : State} (h : Keeps s₀ s) :
    Completes s₀ (execTopoAgeOut dev s) := by
  unfold execTopoAgeOut
  try dsimp only
  repeat' first
    | with_reducible exact h
    | with_reducible refine State.clusterUpdate_keeps ?_
    | with_reducible refine State.logFlag_keeps ?_
    | with_reducible refine Completes.next ?_
    | with_reducible refine Keeps.ite ?_ ?_
    | (fail_if_no_progress with_reducible refine Keeps.mk_same ?_ rfl)

theorem execRootSelection_keeps {s₀ : State} {s : State} (h : Keeps s₀ s) :
    Completes s₀ (execRootSelection s) := by
  unfold execRootSelection
  try dsimp only
  repeat' first
    | with_reducible exact h
    | with_reducible refine State.clusterUpdate_keeps ?_
    | with_reducible refine Completes.next ?_
    | (fail_if_no_progress with_reducible refine Keeps.mk_same ?_ rfl)

theorem execClusterSourceLoss_keeps {s₀ : State} {s : State} (h : Keeps s₀ s) :
    Completes s₀ (execClusterSourceLoss s) := by
  unfold execClusterSourceLoss
  try dsimp only
  repeat' first
    | with_reducible exact h
    | with_reducible refine Completes.next ?_
    | with_reducible refine Keeps.ite ?_ ?_
    | (fail_if_no_progress with_reducible refine Keeps.mk_same ?_ rfl)

theorem State.sendTime_keeps {s₀ : State} {s : State} {k : Fin 4} {st : Stamp} (h : Keeps s₀ s) :
    Keeps s₀ (State.sendTime s k st) := by
  unfold State.sendTime
  try dsimp only
  repeat' first
    | with_reducible exact h
    | with_reducible refine State.modLink_keeps ?_
    | with_reducible refine State.sendFrame_keeps ?_
    | (fail_if_no_progress with_reducible refine Keeps.mk_same ?_ rfl)

theorem execTimingMarker_keeps {s₀ : State} {k : Fin 4} {stamp : Stamp} {s : State} (h : Keeps s₀ s) :
    Completes s₀ (execTimingMarker k stamp s) := by
  unfold execTimingMarker
  try dsimp only
  repeat' first
    | with_reducible exact h
    | with_reducible refine State.emit_keeps ?_
    | with_reducible refine State.stampChannel_keeps ?_ ?_
    | (intro st u b; try beta_reduce)
    | with_reducible assumption
    | with_reducible refine State.sendTime_keeps ?_
    | with_reducible refine Keeps.ite ?_ ?_
    | with_reducible refine Completes.next ?_

theorem State.handStamp_keeps {s₀ : State} {s : State} {ch : Fin 21} {st : Stamp} (h : Keeps s₀ s) :
    Keeps s₀ (State.handStamp s ch st) := by
  unfold State.handStamp
  try dsimp only
  repeat' first
    | with_reducible exact h
    | with_reducible refine State.monEdge_keeps ?_
    | with_reducible refine State.ppsEdge_keeps ?_
    | with_reducible refine State.mainsEdge_keeps ?_
    | with_reducible refine State.sendTime_keeps ?_
    | with_reducible refine State.modLink_keeps ?_
    | with_reducible refine Keeps.ite ?_ ?_
    | with_reducible refine Keeps.dite ?_ ?_
    | (intro b; try beta_reduce)
    | (fail_if_no_progress with_reducible refine Keeps.mk_same ?_ rfl)

theorem execTdcStamp_keeps {s₀ : State} {ch : Fin 21} {stamp : Stamp} {s : State} (h : Keeps s₀ s) :
    Completes s₀ (execTdcStamp ch stamp s) := by
  unfold execTdcStamp
  try dsimp only
  repeat' first
    | with_reducible exact h
    | with_reducible refine State.rawEdge_keeps ?_
    | with_reducible refine State.stampChannel_keeps ?_ ?_
    | with_reducible refine State.handStamp_keeps ?_
    | (intro u a b; try beta_reduce)
    | with_reducible assumption
    | with_reducible refine Keeps.ite ?_ ?_
    | with_reducible refine Completes.next ?_
    | (intro st u b; try beta_reduce)
    | with_reducible assumption

theorem State.closeMean_keeps {s₀ : State} {s : State} {k : Fin 4} (h : Keeps s₀ s) :
    Keeps s₀ (State.closeMean s k) := by
  unfold State.closeMean
  try dsimp only
  repeat' first
    | with_reducible exact h
    | with_reducible refine State.modLink_keeps ?_
    | with_reducible refine State.put_keeps ?_
    | with_reducible refine State.puti_keeps ?_
    | with_reducible refine State.clusterUpdate_keeps ?_
    | with_reducible refine State.measure_keeps ?_
    | with_reducible refine Keeps.ite ?_ ?_

theorem State.exchange_keeps {s₀ : State} {s : State} {k : Fin 4} {sent received : Stamp} {err : BitVec 32} (h : Keeps s₀ s) :
    Keeps s₀ (State.exchange s k sent received err) := by
  unfold State.exchange
  try dsimp only
  repeat' first
    | with_reducible exact h
    | with_reducible refine State.modLink_keeps ?_
    | with_reducible refine State.put_keeps ?_
    | with_reducible refine State.closeMean_keeps ?_
    | with_reducible refine Keeps.ite ?_ ?_
    | (fail_if_no_progress with_reducible refine Keeps.mk_same ?_ rfl)

theorem execTimeFrame_keeps {s₀ : State} {a : Arrival} {sent received : Stamp} {err : BitVec 32} {s : State} (h : Keeps s₀ s) :
    Completes s₀ (execTimeFrame a sent received err s) := by
  unfold execTimeFrame
  try dsimp only
  repeat' first
    | with_reducible exact h
    | with_reducible refine State.receive_keeps ?_ ?_
    | with_reducible refine ifClean_keeps ?_ ?_
    | with_reducible refine State.exchange_keeps ?_
    | with_reducible refine Completes.next ?_
    | (intro u b; try beta_reduce)
    | with_reducible assumption

end Sys2Proof.Machine
end

