-- ==== Sys2Proof/Laws/Dram.lean ====
section
/-! SUPPORT. What the operations of Machine/Dram.lean keep, one lemma each (Keeps, Completes: Laws/Keeps.lean). -/

/- One declaration after another: side by side they would need more memory. -/
set_option Elab.async false

namespace Sys2Proof.Machine

theorem State.flipBits_keeps {s₀ : State} {s : State} {a : Nat} {e : BitVec 137} (h : Keeps s₀ s) :
    Keeps s₀ (State.flipBits s a e) := by
  unfold State.flipBits
  try dsimp only
  repeat' first
    | with_reducible exact h
    | (fail_if_no_progress with_reducible refine Keeps.mk_same ?_ rfl)

theorem branchAt_kept {s : State} {n : Port} {a : Nat} {x : Holder} (e : branchAt s n a = some x) : x.Kept := by
  unfold branchAt at e
  dsimp only at e
  split_ifs at e
  cases e
  exact branchHolder_kept

/-- Every holder an option may name is kept. -/
def allKept (o : Option Holder) : Prop := ∀ x, o = some x → x.Kept

theorem allKept_findSome {α : Type} {l : List α} {f : α → Option Holder} (h : ∀ y, allKept (f y)) : allKept (l.findSome? f) := by
  intro x e
  obtain ⟨y, _, k⟩ := List.exists_of_findSome?_eq_some e
  exact h y x k

theorem allKept_or {p q : Option Holder} (hp : allKept p) (hq : allKept q) : allKept (p.or q) := by
  cases p with
  | none => simpa using hq
  | some y => simpa using hp

/-- Whatever holds a word, putting it back keeps what every operation keeps. -/
theorem holderOf_kept {s : State} {a : Nat} {x : Holder} (e : holderOf s a = some x) : x.Kept := by
  have book : allKept (bookHolder s a) := fun _ k => bookHolder_kept k
  have none : allKept none := fun _ k => nomatch k
  have ring : allKept ((List.finRange 8).findSome? (fun n => ringHolder s n a)) := allKept_findSome fun _ _ k => ringHolder_kept k
  have branch : allKept ((List.finRange 8).findSome? (fun n => branchAt s n a)) := allKept_findSome fun _ _ k => branchAt_kept k
  have sums : allKept ((List.finRange 8).findSome? (fun n => (List.finRange 8).findSome? (fun k => sumsHolder s n k a))) :=
    allKept_findSome fun _ => allKept_findSome fun _ _ k => sumsHolder_kept k
  have awn : allKept ((List.finRange 64).findSome? (fun r => awnHolder s r a)) := allKept_findSome fun _ _ k => awnHolder_kept k
  have store : allKept (storeHolder s a) := fun _ k => storeHolder_kept k
  have owner : ∀ o : Option Holder, allKept o → (o.getD (plainHolder s a)).Kept := by
    intro o h
    cases o with
    | none => exact plainHolder_kept
    | some y => exact h y rfl
  unfold holderOf at e
  dsimp only at e
  split at e
  · cases e
  · cases e
    apply owner
    split
    · exact allKept_or ring (by split; exact book; exact none)
    · exact allKept_or branch (allKept_or sums (allKept_or awn (allKept_or store book)))
    · exact none

theorem execScrub_keeps {s₀ : State} {a : Nat} {err : BitVec 137} {s : State} (h : Keeps s₀ s) :
    Completes s₀ (execScrub a err s) := by
  unfold execScrub
  try dsimp only
  repeat' first
    | with_reducible exact h
    | with_reducible refine State.flipBits_keeps ?_
    | with_reducible refine State.readAt_keeps ?_ ?_
    | with_reducible refine Keeps.ite ?_ ?_
    | with_reducible refine Completes.next ?_
    | (fail_if_no_progress with_reducible refine Keeps.mk_same ?_ rfl)
    | split
    | exact holderOf_kept (by assumption)

theorem State.modDram_keeps {s₀ : State} {s : State} {c : Fin 2} {f : DramChannel → DramChannel} (h : Keeps s₀ s) :
    Keeps s₀ (State.modDram s c f) := by
  unfold State.modDram
  try dsimp only
  repeat' first
    | with_reducible exact h
    | (fail_if_no_progress with_reducible refine Keeps.mk_same ?_ rfl)

theorem State.repairFlag_keeps {s₀ : State} {s : State} (h : Keeps s₀ s) :
    Keeps s₀ (State.repairFlag s) := by
  unfold State.repairFlag
  try dsimp only
  repeat' first
    | with_reducible exact h
    | with_reducible refine State.putBit_keeps ?_

theorem State.startRepair_keeps {s₀ : State} {s : State} {c : Fin 2} {lane : Nat} (h : Keeps s₀ s) :
    Keeps s₀ (State.startRepair s c lane) := by
  unfold State.startRepair
  try dsimp only
  repeat' first
    | with_reducible exact h
    | with_reducible refine State.modDram_keeps ?_
    | with_reducible refine State.put_keeps ?_
    | with_reducible refine State.repairFlag_keeps ?_
    | (fail_if_no_progress with_reducible refine Keeps.mk_same ?_ rfl)
    | split

theorem repairEff_keeps {s₀ : State} {s : State} {c : Fin 2} {lane : Nat} (h : Keeps s₀ s) :
    Keeps s₀ (repairEff s c lane) := by
  unfold repairEff
  try dsimp only
  repeat' first
    | with_reducible exact h
    | with_reducible refine State.modDram_keeps ?_
    | with_reducible refine State.startRepair_keeps ?_
    | with_reducible refine Keeps.ite ?_ ?_

theorem execRepairPassEnd_keeps {s₀ : State} {c : Fin 2} {s : State} (h : Keeps s₀ s) :
    Completes s₀ (execRepairPassEnd c s) := by
  unfold execRepairPassEnd
  try dsimp only
  repeat' first
    | with_reducible exact h
    | with_reducible refine State.modDram_keeps ?_
    | with_reducible refine State.put_keeps ?_
    | with_reducible refine State.startRepair_keeps ?_
    | with_reducible refine Completes.next ?_
    | (fail_if_no_progress with_reducible refine Keeps.mk_same ?_ rfl)
    | split

theorem State.channelState_keeps {s₀ : State} {s : State} {c : Fin 2} (h : Keeps s₀ s) :
    Keeps s₀ (State.channelState s c) := by
  unfold State.channelState
  try dsimp only
  repeat' first
    | with_reducible exact h
    | with_reducible refine State.put_keeps ?_
    | with_reducible refine State.setBit_keeps ?_
    | with_reducible refine Keeps.ite ?_ ?_

theorem State.finishRepair_keeps {s₀ : State} {s : State} {c : Fin 2} {r : RepairPart} (h : Keeps s₀ s) :
    Keeps s₀ (State.finishRepair s c r) := by
  unfold State.finishRepair
  try dsimp only
  repeat' first
    | with_reducible exact h
    | with_reducible refine State.put_keeps ?_
    | with_reducible refine State.bump_keeps ?_
    | with_reducible refine State.modDram_keeps ?_
    | with_reducible refine State.channelState_keeps ?_
    | with_reducible refine State.repairFlag_keeps ?_
    | with_reducible refine State.log_keeps ?_
    | (fail_if_no_progress with_reducible refine Keeps.mk_same ?_ rfl)

theorem execDramRefresh_keeps {s₀ : State} {c : Fin 2} {s : State} (h : Keeps s₀ s) :
    Completes s₀ (execDramRefresh c s) := by
  unfold execDramRefresh
  try dsimp only
  repeat' first
    | with_reducible exact h
    | with_reducible refine State.finishRepair_keeps ?_
    | with_reducible refine Keeps.foldl ?_ ?_
    | (intro u a b; try beta_reduce)
    | with_reducible assumption
    | with_reducible refine Completes.next ?_

theorem State.laneSecond_keeps {s₀ : State} {s : State} {c : Fin 2} {e : Nat × Nat} (h : Keeps s₀ s) :
    Keeps s₀ (State.laneSecond s c e) := by
  unfold State.laneSecond
  try dsimp only
  repeat' first
    | with_reducible exact h
    | with_reducible refine repairEff_keeps ?_
    | with_reducible refine Keeps.ite ?_ ?_

theorem execChannelSecond_keeps {s₀ : State} {c : Fin 2} {counts : List Nat} {uncorr : Nat} {s : State} (h : Keeps s₀ s) :
    Completes s₀ (execChannelSecond c counts uncorr s) := by
  unfold execChannelSecond
  try dsimp only
  repeat' first
    | with_reducible exact h
    | with_reducible refine State.put_keeps ?_
    | with_reducible refine State.laneSecond_keeps ?_
    | with_reducible refine State.logFlag_keeps ?_
    | with_reducible refine Keeps.foldl ?_ ?_
    | (intro u a b; try beta_reduce)
    | with_reducible assumption
    | with_reducible refine Keeps.ite ?_ ?_
    | with_reducible refine Completes.next ?_

theorem execTimingTracking_keeps {s₀ : State} {_c : Fin 2} {s : State} (h : Keeps s₀ s) :
    Completes s₀ (execTimingTracking _c s) := by
  unfold execTimingTracking
  try dsimp only
  repeat' first
    | with_reducible exact h
    | with_reducible refine Completes.next ?_

theorem execZqCalibration_keeps {s₀ : State} {_c : Fin 2} {s : State} (h : Keeps s₀ s) :
    Completes s₀ (execZqCalibration _c s) := by
  unfold execZqCalibration
  try dsimp only
  repeat' first
    | with_reducible exact h
    | with_reducible refine Completes.next ?_

end Sys2Proof.Machine
end

