-- ==== Sys2Proof/Laws/Eth.lean ====
section
/-! SUPPORT. What the operations of Machine/Eth.lean keep, one lemma each (Keeps, Completes: Laws/Keeps.lean). -/

/- One declaration after another: side by side they would need more memory. -/
set_option Elab.async false

namespace Sys2Proof.Machine

theorem State.startUp_keeps {s₀ : State} {s : State} {p : Fin 4} (h : Keeps s₀ s) :
    Keeps s₀ (State.startUp s p) := by
  unfold State.startUp
  try dsimp only
  repeat' first
    | with_reducible exact h
    | with_reducible refine State.modEth_keeps ?_
    | with_reducible refine State.put_keeps ?_
    | with_reducible refine State.clrBit_keeps ?_

theorem State.pathFlag_keeps {s₀ : State} {s : State} {p : Fin 4} (h : Keeps s₀ s) :
    Keeps s₀ (State.pathFlag s p) := by
  unfold State.pathFlag
  try dsimp only
  repeat' first
    | with_reducible exact h
    | with_reducible refine State.logFlag_keeps ?_

theorem State.startEthernet_keeps {s₀ : State} {s : State} (h : Keeps s₀ s) :
    Keeps s₀ (State.startEthernet s) := by
  unfold State.startEthernet
  try dsimp only
  repeat' first
    | with_reducible exact h
    | with_reducible refine overAll_keeps ?_ ?_
    | with_reducible refine State.startUp_keeps ?_
    | with_reducible refine State.pathFlag_keeps ?_
    | (intro u a b; try beta_reduce)
    | with_reducible assumption

theorem execAnTimeout_keeps {s₀ : State} {p : Fin 4} {s : State} (h : Keeps s₀ s) :
    Completes s₀ (execAnTimeout p s) := by
  unfold execAnTimeout
  try dsimp only
  repeat' first
    | with_reducible exact h
    | with_reducible refine State.modEth_keeps ?_
    | with_reducible refine Completes.next ?_
    | with_reducible refine Keeps.ite ?_ ?_

theorem execAnDone_keeps {s₀ : State} {p : Fin 4} {rate : BitVec 8} {fec : BitVec 8} {s : State} (h : Keeps s₀ s) :
    Completes s₀ (execAnDone p rate fec s) := by
  unfold execAnDone
  try dsimp only
  repeat' first
    | with_reducible exact h
    | with_reducible refine State.setBit_keeps ?_
    | with_reducible refine State.modEth_keeps ?_
    | with_reducible refine Completes.next ?_
    | with_reducible refine Keeps.ite ?_ ?_

theorem execRateTryTimeout_keeps {s₀ : State} {p : Fin 4} {s : State} (h : Keeps s₀ s) :
    Completes s₀ (execRateTryTimeout p s) := by
  unfold execRateTryTimeout
  try dsimp only
  repeat' first
    | with_reducible exact h
    | with_reducible refine State.startUp_keeps ?_
    | with_reducible refine State.modEth_keeps ?_
    | with_reducible refine Completes.next ?_
    | with_reducible refine Keeps.ite ?_ ?_
    | split

theorem execLinkUp_keeps {s₀ : State} {p : Fin 4} {s : State} (h : Keeps s₀ s) :
    Completes s₀ (execLinkUp p s) := by
  unfold execLinkUp
  try dsimp only
  repeat' first
    | with_reducible exact h
    | with_reducible refine State.modEth_keeps ?_
    | with_reducible refine State.put_keeps ?_
    | with_reducible refine State.pathFlag_keeps ?_
    | with_reducible refine State.setBit_keeps ?_
    | with_reducible refine Completes.next ?_
    | with_reducible refine Keeps.ite ?_ ?_

theorem State.linkDown_keeps {s₀ : State} {s : State} {p : Fin 4} (h : Keeps s₀ s) :
    Keeps s₀ (State.linkDown s p) := by
  unfold State.linkDown
  try dsimp only
  repeat' first
    | with_reducible exact h
    | with_reducible refine State.dropHeld_keeps ?_
    | with_reducible refine State.startUp_keeps ?_
    | with_reducible refine State.setBit_keeps ?_
    | with_reducible refine State.bump_keeps ?_
    | with_reducible refine State.pathFlag_keeps ?_
    | with_reducible refine Keeps.ite ?_ ?_

theorem execLinkDown_keeps {s₀ : State} {p : Fin 4} {s : State} (h : Keeps s₀ s) :
    Completes s₀ (execLinkDown p s) := by
  unfold execLinkDown
  try dsimp only
  repeat' first
    | with_reducible exact h
    | with_reducible refine State.linkDown_keeps ?_
    | with_reducible refine Completes.next ?_
    | with_reducible refine Keeps.ite ?_ ?_

theorem State.offerAgain_keeps {s₀ : State} {s : State} {x : Fin 9} (h : Keeps s₀ s) :
    Keeps s₀ (State.offerAgain s x) := by
  unfold State.offerAgain
  try dsimp only
  repeat' first
    | with_reducible exact h
    | with_reducible refine State.canFlush_keeps ?_
    | with_reducible refine State.netFlush_keeps ?_
    | with_reducible refine overAll_keeps ?_ ?_
    | with_reducible refine State.pumpLink_keeps ?_
    | (intro u a b; try beta_reduce)
    | with_reducible assumption
    | with_reducible refine Keeps.ite ?_ ?_

theorem execPeerResetClear_keeps {s₀ : State} {x : Fin 9} {s : State} (h : Keeps s₀ s) :
    Completes s₀ (execPeerResetClear x s) := by
  unfold execPeerResetClear
  try dsimp only
  repeat' first
    | with_reducible exact h
    | with_reducible refine State.clrBit_keeps ?_
    | with_reducible refine State.offerAgain_keeps ?_
    | with_reducible refine Completes.next ?_

theorem State.ethOut_keeps {s₀ : State} {s : State} {p : Fin 4} {kind : Nat} {bytes : List Byte} {rct : Option (BitVec 16)} (h : Keeps s₀ s) :
    Keeps s₀ (State.ethOut s p kind bytes rct) := by
  unfold State.ethOut
  try dsimp only
  repeat' first
    | with_reducible exact h
    | with_reducible refine State.leave_keeps ?_
    | with_reducible refine Keeps.ite ?_ ?_

theorem execPrpSupervision_keeps {s₀ : State} {k : Fin 2} {s : State} (h : Keeps s₀ s) :
    Completes s₀ (execPrpSupervision k s) := by
  unfold execPrpSupervision
  try dsimp only
  repeat' first
    | with_reducible exact h
    | with_reducible refine State.ethOut_keeps ?_
    | with_reducible refine Keeps.foldl ?_ ?_
    | (intro u a b; try beta_reduce)
    | with_reducible assumption
    | with_reducible refine Keeps.ite ?_ ?_
    | with_reducible refine Completes.next ?_

theorem execPrpPathTimeout_keeps {s₀ : State} {p : Fin 4} {s : State} (h : Keeps s₀ s) :
    Completes s₀ (execPrpPathTimeout p s) := by
  unfold execPrpPathTimeout
  try dsimp only
  repeat' first
    | with_reducible exact h
    | with_reducible refine State.pathFlag_keeps ?_
    | with_reducible refine State.modEth_keeps ?_
    | with_reducible refine Completes.next ?_
    | with_reducible refine Keeps.ite ?_ ?_

theorem execPrpDuplicate_keeps {s₀ : State} {p : Fin 4} {f : PrpTrailer} {s : State} (h : Keeps s₀ s) :
    Completes s₀ (execPrpDuplicate p f s) := by
  unfold execPrpDuplicate
  try dsimp only
  repeat' first
    | with_reducible exact h
    | with_reducible refine State.setBit_keeps ?_
    | with_reducible refine State.modEth_keeps ?_
    | with_reducible refine State.pathFlag_keeps ?_
    | with_reducible refine State.bump_keeps ?_
    | with_reducible refine Keeps.ite ?_ ?_
    | with_reducible refine Completes.next ?_
    | (fail_if_no_progress with_reducible refine Keeps.mk_same ?_ rfl)

theorem execIpFragment_keeps {s₀ : State} {k : Fin 2} {s : State} (h : Keeps s₀ s) :
    Completes s₀ (execIpFragment k s) := by
  unfold execIpFragment
  try dsimp only
  repeat' first
    | with_reducible exact h
    | with_reducible refine State.bump_keeps ?_
    | with_reducible refine Completes.next ?_

theorem State.answerOn_keeps {s₀ : State} {s : State} {p : Fin 4} {kind : Nat} {bytes : List Byte} (h : Keeps s₀ s) :
    Keeps s₀ (State.answerOn s p kind bytes) := by
  unfold State.answerOn
  try dsimp only
  repeat' first
    | with_reducible exact h
    | with_reducible refine State.ethOut_keeps ?_
    | with_reducible refine State.nextRct_keeps ?_
    | with_reducible refine Keeps.foldl ?_ ?_
    | (intro u a b; try beta_reduce)
    | with_reducible assumption

theorem execArpRequest_keeps {s₀ : State} {p : Fin 4} {target : BitVec 32} {sender : List Byte} {s : State} (h : Keeps s₀ s) :
    Completes s₀ (execArpRequest p target sender s) := by
  unfold execArpRequest
  try dsimp only
  repeat' first
    | with_reducible exact h
    | with_reducible refine State.bump_keeps ?_
    | with_reducible refine State.answerOn_keeps ?_
    | with_reducible refine Completes.next ?_
    | with_reducible refine Keeps.ite ?_ ?_

theorem execNeighborSolicitation_keeps {s₀ : State} {p : Fin 4} {target : BitVec 128} {sender : List Byte} {s : State} (h : Keeps s₀ s) :
    Completes s₀ (execNeighborSolicitation p target sender s) := by
  unfold execNeighborSolicitation
  try dsimp only
  repeat' first
    | with_reducible exact h
    | with_reducible refine State.bump_keeps ?_
    | with_reducible refine State.answerOn_keeps ?_
    | with_reducible refine Completes.next ?_
    | with_reducible refine Keeps.ite ?_ ?_

theorem execIcmpEcho_keeps {s₀ : State} {p : Fin 4} {payload : List Byte} {s : State} (h : Keeps s₀ s) :
    Completes s₀ (execIcmpEcho p payload s) := by
  unfold execIcmpEcho
  try dsimp only
  repeat' first
    | with_reducible exact h
    | with_reducible refine State.bump_keeps ?_
    | with_reducible refine State.answerOn_keeps ?_
    | with_reducible refine Completes.next ?_
    | with_reducible refine Keeps.ite ?_ ?_
    | split

theorem State.ptpLose_keeps {s₀ : State} {s : State} (h : Keeps s₀ s) :
    Keeps s₀ (State.ptpLose s) := by
  unfold State.ptpLose
  try dsimp only
  repeat' first
    | with_reducible exact h
    | with_reducible refine State.ppsFlag_keeps ?_
    | with_reducible refine State.bump_keeps ?_
    | with_reducible refine Keeps.ite ?_ ?_
    | (fail_if_no_progress with_reducible refine Keeps.mk_same ?_ rfl)

theorem State.ptpBind_keeps {s₀ : State} {s : State} (h : Keeps s₀ s) :
    Keeps s₀ (State.ptpBind s) := by
  unfold State.ptpBind
  try dsimp only
  repeat' first
    | with_reducible exact h
    | with_reducible refine State.ptpLose_keeps ?_
    | with_reducible refine State.put_keeps ?_
    | with_reducible refine State.putBlob_keeps ?_
    | with_reducible refine Keeps.ite ?_ ?_
    | (fail_if_no_progress with_reducible refine Keeps.mk_same ?_ rfl)
    | split

theorem execPtpAnnounce_keeps {s₀ : State} {p : Fin 4} {m : PtpMaster} {s : State} (h : Keeps s₀ s) :
    Completes s₀ (execPtpAnnounce p m s) := by
  unfold execPtpAnnounce
  try dsimp only
  repeat' first
    | with_reducible exact h
    | with_reducible refine State.bump_keeps ?_
    | with_reducible refine State.ptpBind_keeps ?_
    | with_reducible refine Keeps.ite ?_ ?_
    | with_reducible refine Completes.next ?_
    | (fail_if_no_progress with_reducible refine Keeps.mk_same ?_ rfl)

theorem State.askDelay_keeps {s₀ : State} {s : State} {p : Fin 4} (h : Keeps s₀ s) :
    Keeps s₀ (State.askDelay s p) := by
  unfold State.askDelay
  try dsimp only
  repeat' first
    | with_reducible exact h
    | with_reducible refine State.ethOut_keeps ?_
    | (fail_if_no_progress with_reducible refine Keeps.mk_same ?_ rfl)

theorem execPathDelayMeasurement_keeps {s₀ : State} {p : Fin 4} {m : PathDelayMsg} {s : State} (h : Keeps s₀ s) :
    Completes s₀ (execPathDelayMeasurement p m s) := by
  unfold execPathDelayMeasurement
  try dsimp only
  repeat' first
    | with_reducible exact h
    | with_reducible refine State.askDelay_keeps ?_
    | with_reducible refine State.puti_keeps ?_
    | with_reducible refine State.put_keeps ?_
    | with_reducible refine Keeps.ite ?_ ?_
    | with_reducible refine Completes.next ?_
    | (fail_if_no_progress with_reducible refine Keeps.mk_same ?_ rfl)
    | split

theorem execPtpSync_keeps {s₀ : State} {p : Fin 4} {m : PtpSyncMsg} {s : State} (h : Keeps s₀ s) :
    Completes s₀ (execPtpSync p m s) := by
  unfold execPtpSync
  try dsimp only
  repeat' first
    | with_reducible exact h
    | with_reducible refine State.bump_keeps ?_
    | with_reducible refine State.ppsFlag_keeps ?_
    | with_reducible refine State.measure_keeps ?_
    | with_reducible refine Keeps.ite ?_ ?_
    | with_reducible refine Completes.next ?_
    | (fail_if_no_progress with_reducible refine Keeps.mk_same ?_ rfl)

theorem execAnnounceReceiptTimeout_keeps {s₀ : State} {s : State} (h : Keeps s₀ s) :
    Completes s₀ (execAnnounceReceiptTimeout s) := by
  unfold execAnnounceReceiptTimeout
  try dsimp only
  repeat' first
    | with_reducible exact h
    | with_reducible refine State.ptpBind_keeps ?_
    | with_reducible refine State.ptpLose_keeps ?_
    | with_reducible refine Completes.next ?_
    | (fail_if_no_progress with_reducible refine Keeps.mk_same ?_ rfl)
    | split

theorem execSyncMissed_keeps {s₀ : State} {s : State} (h : Keeps s₀ s) :
    Completes s₀ (execSyncMissed s) := by
  unfold execSyncMissed
  try dsimp only
  repeat' first
    | with_reducible exact h
    | with_reducible refine State.bump_keeps ?_
    | with_reducible refine State.ptpLose_keeps ?_
    | with_reducible refine Completes.next ?_
    | with_reducible refine Keeps.ite ?_ ?_
    | (fail_if_no_progress with_reducible refine Keeps.mk_same ?_ rfl)
    | split

theorem State.ptpRemask_keeps {s₀ : State} {s : State} (h : Keeps s₀ s) :
    Keeps s₀ (State.ptpRemask s) := by
  unfold State.ptpRemask
  try dsimp only
  repeat' first
    | with_reducible exact h
    | with_reducible refine State.ptpBind_keeps ?_
    | (fail_if_no_progress with_reducible refine Keeps.mk_same ?_ rfl)

theorem State.ptpRestart_keeps {s₀ : State} {s : State} (h : Keeps s₀ s) :
    Keeps s₀ (State.ptpRestart s) := by
  unfold State.ptpRestart
  try dsimp only
  repeat' first
    | with_reducible exact h
    | with_reducible refine State.ptpBind_keeps ?_
    | (fail_if_no_progress with_reducible refine Keeps.mk_same ?_ rfl)

end Sys2Proof.Machine
end

