-- ==== Sys2Proof/Laws/Groups.lean ====
section
/-! SUPPORT. What the operations of Machine/Groups.lean keep, one lemma each (Keeps, Completes: Laws/Keeps.lean). -/

/- One declaration after another: side by side they would need more memory. -/
set_option Elab.async false

namespace Sys2Proof.Machine

theorem State.putPlan_keeps {s₀ : State} {s : State} {n : Port} {k : Nat} {g : Reg → Nat} (h : Keeps s₀ s) :
    Keeps s₀ (State.putPlan s n k g) := by
  unfold State.putPlan
  try dsimp only
  repeat' first
    | with_reducible exact h
    | with_reducible refine State.put_keeps ?_
    | with_reducible refine Keeps.foldl ?_ ?_
    | (intro u a b; try beta_reduce)
    | with_reducible assumption
    | with_reducible refine Keeps.ite ?_ ?_

theorem State.judgeSet_keeps {s₀ : State} {s : State} {n : Port} {k : Nat} {g : Reg → Nat} (h : Keeps s₀ s) :
    Keeps s₀ (State.judgeSet s n k g) := by
  unfold State.judgeSet
  try dsimp only
  repeat' first
    | with_reducible exact h
    | with_reducible refine State.putPlan_keeps ?_
    | with_reducible refine State.put_keeps ?_
    | with_reducible refine Keeps.ite ?_ ?_

theorem State.judgeSets_keeps {s₀ : State} {s : State} {idx : Nat} {code : Nat} (h : Keeps s₀ s) :
    Keeps s₀ (State.judgeSets s idx code) := by
  unfold State.judgeSets
  try dsimp only
  repeat' first
    | with_reducible exact h
    | with_reducible refine State.judgeSet_keeps ?_
    | with_reducible refine State.put_keeps ?_
    | with_reducible refine Keeps.foldl ?_ ?_
    | (intro u a b; try beta_reduce)
    | with_reducible assumption
    | with_reducible refine Keeps.ite ?_ ?_

theorem State.programApplied_keeps {s₀ : State} {s : State} {g : Fin 16} (h : Keeps s₀ s) :
    Keeps s₀ (State.programApplied s g) := by
  unfold State.programApplied
  try dsimp only
  repeat' first
    | with_reducible exact h
    | with_reducible refine imageEff_keeps ?_
    | with_reducible refine State.journal_keeps ?_
    | with_reducible refine State.commit_keeps ?_
    | with_reducible refine Keeps.ite ?_ ?_

theorem State.ethApplied_keeps {s₀ : State} {s : State} {p : Fin 4} (h : Keeps s₀ s) :
    Keeps s₀ (State.ethApplied s p) := by
  unfold State.ethApplied
  try dsimp only
  repeat' first
    | with_reducible exact h
    | with_reducible refine State.commit_keeps ?_
    | with_reducible refine State.startUp_keeps ?_
    | with_reducible refine State.linkDown_keeps ?_
    | with_reducible refine Keeps.ite ?_ ?_

theorem State.interfaceApplied_keeps {s₀ : State} {s : State} {k : Fin 2} (h : Keeps s₀ s) :
    Keeps s₀ (State.interfaceApplied s k) := by
  unfold State.interfaceApplied
  try dsimp only
  repeat' first
    | with_reducible exact h
    | with_reducible refine State.commit_keeps ?_
    | with_reducible refine State.linkDown_keeps ?_
    | with_reducible refine Keeps.ite ?_ ?_

theorem State.ptpApplied_keeps {s₀ : State} {s : State} (h : Keeps s₀ s) :
    Keeps s₀ (State.ptpApplied s) := by
  unfold State.ptpApplied
  try dsimp only
  repeat' first
    | with_reducible exact h
    | with_reducible refine State.commit_keeps ?_
    | with_reducible refine State.ptpRestart_keeps ?_
    | with_reducible refine Keeps.ite ?_ ?_

theorem State.aggonApplied_keeps {s₀ : State} {s : State} (h : Keeps s₀ s) :
    Keeps s₀ (State.aggonApplied s) := by
  unfold State.aggonApplied
  try dsimp only
  repeat' first
    | with_reducible exact h
    | with_reducible refine State.commit_keeps ?_
    | with_reducible refine State.setClaim_keeps ?_
    | with_reducible refine overAll_keeps ?_ ?_
    | with_reducible refine State.relink_keeps ?_
    | with_reducible refine State.clusterUpdate_keeps ?_
    | (intro u a b; try beta_reduce)
    | with_reducible assumption
    | with_reducible refine Keeps.ite ?_ ?_

theorem State.pairApplied_keeps {s₀ : State} {s : State} (h : Keeps s₀ s) :
    Keeps s₀ (State.pairApplied s) := by
  unfold State.pairApplied
  try dsimp only
  repeat' first
    | with_reducible exact h
    | with_reducible refine State.commitTwin_keeps ?_
    | with_reducible refine State.markTwinLinks_keeps ?_
    | (fail_if_no_progress with_reducible refine Keeps.mk_same ?_ rfl)

theorem State.pairWaits_keeps {s₀ : State} {s : State} (h : Keeps s₀ s) :
    Keeps s₀ (State.pairWaits s) := by
  unfold State.pairWaits
  try dsimp only
  repeat' first
    | with_reducible exact h
    | with_reducible refine State.pairApplied_keeps ?_
    | with_reducible refine Keeps.ite ?_ ?_
    | (fail_if_no_progress with_reducible refine Keeps.mk_same ?_ rfl)

theorem State.bookApplied_keeps {s₀ : State} {s : State} (h : Keeps s₀ s) :
    Keeps s₀ (State.bookApplied s) := by
  unfold State.bookApplied
  try dsimp only
  repeat' first
    | with_reducible exact h
    | (fail_if_no_progress with_reducible refine Keeps.mk_same ?_ rfl)

theorem State.groupApplied_keeps {s₀ : State} {s : State} {idx : Nat} (h : Keeps s₀ s) :
    Keeps s₀ (State.groupApplied s idx) := by
  unfold State.groupApplied
  try dsimp only
  repeat' first
    | with_reducible exact h
    | with_reducible refine State.ethApplied_keeps ?_
    | with_reducible refine State.interfaceApplied_keeps ?_
    | with_reducible refine State.ptpApplied_keeps ?_
    | with_reducible refine State.canApplied_keeps ?_
    | with_reducible refine State.put_keeps ?_
    | with_reducible refine State.commit_keeps ?_
    | with_reducible refine State.commitClocks_keeps ?_
    | with_reducible refine State.commitUnit_keeps ?_
    | with_reducible refine State.programApplied_keeps ?_
    | with_reducible refine State.streamApplied_keeps ?_
    | with_reducible refine State.aggonApplied_keeps ?_
    | with_reducible refine State.pairWaits_keeps ?_
    | with_reducible refine State.sfeCommit_keeps ?_
    | with_reducible refine State.plantApplied_keeps ?_
    | with_reducible refine State.bookApplied_keeps ?_
    | with_reducible refine Keeps.ite ?_ ?_
    | with_reducible refine Keeps.dite ?_ ?_
    | (intro b; try beta_reduce)

end Sys2Proof.Machine
end

