-- ==== Sys2Proof/Laws/Boot.lean ====
section
/-! SUPPORT. What the operations of Machine/Boot.lean keep, one lemma each (Keeps, Completes: Laws/Keeps.lean). -/

/- One declaration after another: side by side they would need more memory. -/
set_option Elab.async false

namespace Sys2Proof.Machine

theorem State.modBoot_keeps {s₀ : State} {s : State} {f : BootPart → BootPart} (h : Keeps s₀ s) (hf : s.boot.rollback ≤ (f s.boot).rollback) :
    Keeps s₀ (State.modBoot s f) := by
  exact ⟨h.pending, h.out, h.fresh, h.rollback.trans hf, h.mem, h.poison, h.regs, h.staged⟩

theorem State.markFlag_keeps {s₀ : State} {s : State} {r : Reg} {b : Nat} {sub : Nat} {inst : optParam Nat 255} (h : Keeps s₀ s) :
    Keeps s₀ (State.markFlag s r b sub inst) := by
  unfold State.markFlag
  try dsimp only
  repeat' first
    | with_reducible exact h
    | with_reducible refine State.setBit_keeps ?_
    | with_reducible refine State.log_keeps ?_

theorem State.cleared_keeps {s₀ : State} {s : State} {held : Bool} (h : Keeps s₀ s) :
    Keeps s₀ (State.cleared s held) := by
  exact ⟨h.pending, h.out, h.fresh, h.rollback, fun _ => rfl, fun _ => List.Pairwise.nil, fun r => rising_filter_fst (h.regs r),
    fun _ => List.Pairwise.nil⟩

theorem State.resetOnce_keeps {s₀ : State} {s : State} {cause : Nat} (h : Keeps s₀ s) :
    Keeps s₀ (State.resetOnce s cause) := by
  unfold State.resetOnce
  try dsimp only
  repeat' first
    | with_reducible exact h
    | with_reducible refine State.bump_keeps ?_
    | with_reducible refine State.cleared_keeps ?_
    | with_reducible refine State.put_keeps ?_
    | with_reducible refine State.putBit_keeps ?_

theorem State.eraseKeys_keeps {s₀ : State} {s : State} (h : Keeps s₀ s) :
    Keeps s₀ (State.eraseKeys s) := by
  unfold State.eraseKeys
  try dsimp only
  repeat' first
    | with_reducible exact h
    | (fail_if_no_progress with_reducible refine Keeps.mk_same ?_ rfl)

theorem State.resetTo_keeps {s₀ : State} {s : State} {cause : Nat} (h : Keeps s₀ s) :
    Keeps s₀ (State.resetTo s cause) := by
  unfold State.resetTo
  try dsimp only
  repeat' first
    | with_reducible exact h
    | with_reducible refine State.resetOnce_keeps ?_
    | with_reducible refine State.eraseKeys_keeps ?_
    | with_reducible refine Keeps.ite ?_ ?_

theorem execPorstN_keeps {s₀ : State} {s : State} (h : Keeps s₀ s) :
    Completes s₀ (execPorstN s) := by
  unfold execPorstN
  try dsimp only
  repeat' first
    | with_reducible exact h
    | with_reducible refine State.resetTo_keeps ?_
    | with_reducible refine Completes.next ?_

theorem execSrstN_keeps {s₀ : State} {s : State} (h : Keeps s₀ s) :
    Completes s₀ (execSrstN s) := by
  unfold execSrstN
  try dsimp only
  repeat' first
    | with_reducible exact h
    | with_reducible refine State.resetTo_keeps ?_
    | with_reducible refine Completes.next ?_

theorem execSupplyReset_keeps {s₀ : State} {s : State} (h : Keeps s₀ s) :
    Completes s₀ (execSupplyReset s) := by
  unfold execSupplyReset
  try dsimp only
  repeat' first
    | with_reducible exact h
    | with_reducible refine State.resetTo_keeps ?_
    | with_reducible refine Completes.next ?_

theorem execThermalReset_keeps {s₀ : State} {s : State} (h : Keeps s₀ s) :
    Completes s₀ (execThermalReset s) := by
  unfold execThermalReset
  try dsimp only
  repeat' first
    | with_reducible exact h
    | with_reducible refine State.resetTo_keeps ?_
    | with_reducible refine Completes.next ?_

theorem resetEff_keeps {s₀ : State} {s : State} {v : Nat} (h : Keeps s₀ s) :
    Keeps s₀ (resetEff s v) := by
  unfold resetEff
  try dsimp only
  repeat' first
    | with_reducible exact h
    | with_reducible refine State.resetTo_keeps ?_
    | with_reducible refine Keeps.ite ?_ ?_

theorem State.zeroizeNow_keeps {s₀ : State} {s : State} (h : Keeps s₀ s) :
    Keeps s₀ (State.zeroizeNow s) := by
  unfold State.zeroizeNow
  try dsimp only
  repeat' first
    | with_reducible exact h
    | with_reducible refine State.resetTo_keeps ?_
    | with_reducible refine State.eraseKeys_keeps ?_
    | with_reducible refine State.modBoot_keeps ?_ ?_
    | exact Nat.le_refl _

theorem execZeroizePin_keeps {s₀ : State} {s : State} (h : Keeps s₀ s) :
    Completes s₀ (execZeroizePin s) := by
  unfold execZeroizePin
  try dsimp only
  repeat' first
    | with_reducible exact h
    | with_reducible refine State.zeroizeNow_keeps ?_
    | with_reducible refine Completes.next ?_

theorem State.putBank_keeps {s₀ : State} {s : State} {b : Fin 2} {x : BankPart} (h : Keeps s₀ s) :
    Keeps s₀ (State.putBank s b x) := by
  unfold State.putBank
  try dsimp only
  repeat' first
    | with_reducible exact h
    | with_reducible refine State.modBoot_keeps ?_ ?_
    | exact Nat.le_refl _

theorem State.bankFigures_keeps {s₀ : State} {s : State} (h : Keeps s₀ s) :
    Keeps s₀ (State.bankFigures s) := by
  unfold State.bankFigures
  try dsimp only
  repeat' first
    | with_reducible exact h
    | with_reducible refine State.put_keeps ?_
    | with_reducible refine State.putBit_keeps ?_

theorem State.takeFirmware_keeps {s₀ : State} {s : State} (h : Keeps s₀ s) :
    Keeps s₀ (State.takeFirmware s) := by
  unfold State.takeFirmware
  try dsimp only
  repeat' first
    | with_reducible exact h
    | with_reducible refine State.bankFigures_keeps ?_
    | with_reducible refine State.put_keeps ?_

theorem State.confirmTrial_keeps {s₀ : State} {s : State} (h : Keeps s₀ s) :
    Keeps s₀ (State.confirmTrial s) := by
  unfold State.confirmTrial
  try dsimp only
  repeat' first
    | with_reducible exact h
    | with_reducible refine State.bankFigures_keeps ?_
    | with_reducible refine State.modBoot_keeps ?_ ?_
    | exact Nat.le_max_left _ _
    | with_reducible refine Keeps.ite ?_ ?_

theorem confirmEff_keeps {s₀ : State} {s : State} {v : Nat} (h : Keeps s₀ s) :
    Keeps s₀ (confirmEff s v) := by
  unfold confirmEff
  try dsimp only
  repeat' first
    | with_reducible exact h
    | with_reducible refine State.confirmTrial_keeps ?_
    | with_reducible refine Keeps.ite ?_ ?_

theorem State.liveTo_keeps {s₀ : State} {s : State} {b : Fin 2} {trial : Bool} (h : Keeps s₀ s) :
    Keeps s₀ (State.liveTo s b trial) := by
  unfold State.liveTo
  try dsimp only
  repeat' first
    | with_reducible exact h
    | with_reducible refine State.takeFirmware_keeps ?_
    | with_reducible refine State.modBoot_keeps ?_ ?_
    | exact Nat.le_refl _

theorem State.switchCheck_keeps {s₀ : State} {s : State} (h : Keeps s₀ s) :
    Keeps s₀ (State.switchCheck s) := by
  unfold State.switchCheck
  try dsimp only
  repeat' first
    | with_reducible exact h
    | with_reducible refine State.liveTo_keeps ?_
    | with_reducible refine Keeps.ite ?_ ?_

theorem execFlashOperationEnd_keeps {s₀ : State} {j : Fin 18} {ok : Bool} {s : State} (h : Keeps s₀ s) :
    Completes s₀ (execFlashOperationEnd j ok s) := by
  unfold execFlashOperationEnd
  try dsimp only
  repeat' first
    | with_reducible exact h
    | with_reducible refine State.switchCheck_keeps ?_
    | with_reducible refine State.flashEnd_keeps ?_
    | with_reducible refine Completes.next ?_

theorem switchEff_keeps {s₀ : State} {s : State} {v : Nat} (h : Keeps s₀ s) :
    Keeps s₀ (switchEff s v) := by
  unfold switchEff
  try dsimp only
  repeat' first
    | with_reducible exact h
    | with_reducible refine State.switchCheck_keeps ?_
    | with_reducible refine State.modBoot_keeps ?_ ?_
    | with_reducible refine State.resetTo_keeps ?_
    | exact Nat.le_refl _
    | with_reducible refine Keeps.ite ?_ ?_

theorem State.trialFails_keeps {s₀ : State} {s : State} (h : Keeps s₀ s) :
    Keeps s₀ (State.trialFails s) := by
  unfold State.trialFails
  try dsimp only
  repeat' first
    | with_reducible exact h
    | with_reducible refine State.liveTo_keeps ?_
    | with_reducible refine State.resetTo_keeps ?_
    | with_reducible refine Keeps.ite ?_ ?_

theorem execTrialTimeout_keeps {s₀ : State} {s : State} (h : Keeps s₀ s) :
    Completes s₀ (execTrialTimeout s) := by
  unfold execTrialTimeout
  try dsimp only
  repeat' first
    | with_reducible exact h
    | with_reducible refine State.trialFails_keeps ?_
    | with_reducible refine Completes.next ?_
    | with_reducible refine Keeps.ite ?_ ?_

theorem fwImageEff_keeps {s₀ : State} {s : State} {l : List Byte} (h : Keeps s₀ s) :
    Keeps s₀ (fwImageEff s l).1 := by
  unfold fwImageEff
  try dsimp only
  repeat' first
    | with_reducible exact h
    | with_reducible refine State.putBank_keeps ?_
    | with_reducible refine State.bankFigures_keeps ?_
    | with_reducible refine State.put_keeps ?_
    | with_reducible refine State.modBoot_keeps ?_ ?_
    | exact Nat.le_refl _
    | with_reducible refine Keeps.ite ?_ ?_
    | with_reducible refine Keeps.ite_fst ?_ ?_

theorem execFwProgrammingEnd_keeps {s₀ : State} {s : State} (h : Keeps s₀ s) :
    Completes s₀ (execFwProgrammingEnd s) := by
  unfold execFwProgrammingEnd
  try dsimp only
  repeat' first
    | with_reducible exact h
    | with_reducible refine State.modBoot_keeps ?_ ?_
    | with_reducible refine State.putBank_keeps ?_
    | with_reducible refine State.bankFigures_keeps ?_
    | with_reducible refine State.put_keeps ?_
    | exact Nat.le_refl _
    | with_reducible refine Completes.next ?_
    | split

theorem State.clerkRestart_keeps {s₀ : State} {s : State} (h : Keeps s₀ s) :
    Keeps s₀ (State.clerkRestart s) := by
  unfold State.clerkRestart
  try dsimp only
  repeat' first
    | with_reducible exact h
    | with_reducible refine State.bump_keeps ?_
    | with_reducible refine State.setBit_keeps ?_
    | with_reducible refine State.log_keeps ?_
    | with_reducible refine State.modBoot_keeps ?_ ?_
    | with_reducible refine State.resetTo_keeps ?_
    | with_reducible refine State.trialFails_keeps ?_
    | (intro u a b; try beta_reduce)
    | with_reducible assumption
    | with_reducible refine Keeps.ite ?_ ?_
    | exact Nat.le_refl _
    | (fail_if_no_progress with_reducible refine Keeps.mk_same ?_ rfl)

theorem execLockstepMismatch_keeps {s₀ : State} {s : State} (h : Keeps s₀ s) :
    Completes s₀ (execLockstepMismatch s) := by
  unfold execLockstepMismatch
  try dsimp only
  repeat' first
    | with_reducible exact h
    | with_reducible refine State.clerkRestart_keeps ?_
    | with_reducible refine State.bump_keeps ?_
    | with_reducible refine Completes.next ?_
    | with_reducible refine Keeps.ite ?_ ?_

theorem execWatchdogExpiry_keeps {s₀ : State} {s : State} (h : Keeps s₀ s) :
    Completes s₀ (execWatchdogExpiry s) := by
  unfold execWatchdogExpiry
  try dsimp only
  repeat' first
    | with_reducible exact h
    | with_reducible refine State.clerkRestart_keeps ?_
    | with_reducible refine Completes.next ?_
    | with_reducible refine Keeps.ite ?_ ?_

theorem execClerkPoisonRead_keeps {s₀ : State} {s : State} (h : Keeps s₀ s) :
    Completes s₀ (execClerkPoisonRead s) := by
  unfold execClerkPoisonRead
  try dsimp only
  repeat' first
    | with_reducible exact h
    | with_reducible refine State.bump_keeps ?_
    | with_reducible refine State.clerkRestart_keeps ?_
    | with_reducible refine Completes.next ?_
    | with_reducible refine Keeps.ite ?_ ?_

theorem execClerkRestartEnd_keeps {s₀ : State} {s : State} (h : Keeps s₀ s) :
    Completes s₀ (execClerkRestartEnd s) := by
  unfold execClerkRestartEnd
  try dsimp only
  repeat' first
    | with_reducible exact h
    | with_reducible refine State.modBoot_keeps ?_ ?_
    | with_reducible refine State.confirmTrial_keeps ?_
    | exact Nat.le_refl _
    | with_reducible refine Completes.next ?_
    | with_reducible refine Keeps.ite ?_ ?_

theorem State.takeJournal_keeps {s₀ : State} {s : State} {j : Fin 18} (h : Keeps s₀ s) :
    Keeps s₀ (State.takeJournal s j) := by
  unfold State.takeJournal
  dsimp only
  with_reducible refine Keeps.ite (State.markFlag_keeps h) (Keeps.ite ?_ h)
  exact Keeps.mk_regs h (fun r => rising_fold r (fun _ _ k => rfSet_rising k)) rfl

theorem State.takeHidden_keeps {s₀ : State} {s : State} (h : Keeps s₀ s) :
    Keeps s₀ (State.takeHidden s) := by
  unfold State.takeHidden
  try dsimp only
  repeat' first
    | with_reducible exact h
    | (fail_if_no_progress with_reducible refine Keeps.mk_same ?_ rfl)

theorem State.takeValues_keeps {s₀ : State} {s : State} (h : Keeps s₀ s) :
    Keeps s₀ (State.takeValues s) := by
  unfold State.takeValues
  try dsimp only
  repeat' first
    | with_reducible exact h
    | with_reducible refine State.serdesFlag_keeps ?_
    | with_reducible refine State.refFlags_keeps ?_
    | with_reducible refine State.takeRole_keeps ?_
    | with_reducible refine Keeps.ite ?_ ?_
    | (fail_if_no_progress with_reducible refine Keeps.mk_same ?_ rfl)

theorem State.loadJournals_keeps {s₀ : State} {s : State} (h : Keeps s₀ s) :
    Keeps s₀ (State.loadJournals s) := by
  unfold State.loadJournals
  try dsimp only
  repeat' first
    | with_reducible exact h
    | with_reducible refine overAll_keeps ?_ ?_
    | with_reducible refine State.takeJournal_keeps ?_
    | with_reducible refine State.takeHidden_keeps ?_
    | with_reducible refine State.put_keeps ?_
    | with_reducible refine State.setBit_keeps ?_
    | with_reducible refine State.putBit_keeps ?_
    | with_reducible refine State.takeValues_keeps ?_
    | with_reducible refine State.modBoot_keeps ?_ ?_
    | exact Nat.le_refl _
    | with_reducible refine Keeps.ite ?_ ?_
    | (intro u a b; try beta_reduce)
    | with_reducible assumption

theorem execLoaderStart_keeps {s₀ : State} {s : State} (h : Keeps s₀ s) :
    Completes s₀ (execLoaderStart s) := by
  unfold execLoaderStart
  try dsimp only
  repeat' first
    | with_reducible exact h
    | with_reducible refine State.put_keeps ?_
    | with_reducible refine State.loadJournals_keeps ?_
    | with_reducible refine Completes.next ?_
    | with_reducible refine Keeps.ite ?_ ?_

theorem execZeroizeEraseEnd_keeps {s₀ : State} {s : State} (h : Keeps s₀ s) :
    Completes s₀ (execZeroizeEraseEnd s) := by
  unfold execZeroizeEraseEnd
  try dsimp only
  repeat' first
    | with_reducible exact h
    | with_reducible refine overAll_keeps ?_ ?_
    | with_reducible refine State.modJournal_keeps ?_
    | with_reducible refine State.loadJournals_keeps ?_
    | with_reducible refine State.clrBit_keeps ?_
    | with_reducible refine State.modBoot_keeps ?_ ?_
    | exact Nat.le_refl _
    | with_reducible refine Completes.next ?_
    | with_reducible refine Keeps.ite ?_ ?_
    | (intro u a b; try beta_reduce)
    | with_reducible assumption

theorem execClerksStart_keeps {s₀ : State} {s : State} (h : Keeps s₀ s) :
    Completes s₀ (execClerksStart s) := by
  unfold execClerksStart
  try dsimp only
  repeat' first
    | with_reducible exact h
    | with_reducible refine State.startEthernet_keeps ?_
    | with_reducible refine State.bankFigures_keeps ?_
    | with_reducible refine State.put_keeps ?_
    | with_reducible refine State.takeFirmware_keeps ?_
    | with_reducible refine State.modBoot_keeps ?_ ?_
    | with_reducible refine State.log_keeps ?_
    | with_reducible refine overAll_keeps ?_ ?_
    | with_reducible refine State.relink_keeps ?_
    | exact Nat.le_refl _
    | with_reducible refine Completes.next ?_
    | with_reducible refine Keeps.ite ?_ ?_
    | (intro u a b; try beta_reduce)
    | with_reducible assumption
    | split

theorem State.serveNow_keeps {s₀ : State} {s : State} (h : Keeps s₀ s) :
    Keeps s₀ (State.serveNow s) := by
  unfold State.serveNow
  try dsimp only
  repeat' first
    | with_reducible exact h
    | with_reducible refine State.modBoot_keeps ?_ ?_
    | with_reducible refine State.startEthernet_keeps ?_
    | with_reducible refine State.plantBegins_keeps ?_
    | with_reducible refine State.plantTurn_keeps ?_
    | with_reducible refine State.canFlush_keeps ?_
    | (intro u a b; try beta_reduce)
    | with_reducible assumption
    | exact Nat.le_refl _
    | (fail_if_no_progress with_reducible refine Keeps.mk_same ?_ rfl)

theorem State.trainedChannel_keeps {s₀ : State} {s : State} {c : Fin 2} {capacity : Nat} {failed : List Nat} (h : Keeps s₀ s) :
    Keeps s₀ (State.trainedChannel s c capacity failed) := by
  unfold State.trainedChannel
  try dsimp only
  repeat' first
    | with_reducible exact h
    | with_reducible refine State.modBoot_keeps ?_ ?_
    | with_reducible refine State.put_keeps ?_
    | with_reducible refine State.modDram_keeps ?_
    | with_reducible refine State.channelState_keeps ?_
    | (intro u a b; try beta_reduce)
    | with_reducible assumption
    | with_reducible refine Keeps.ite ?_ ?_
    | exact Nat.le_refl _
    | (fail_if_no_progress with_reducible refine Keeps.mk_same ?_ rfl)

theorem State.trainingDone_keeps {s₀ : State} {s : State} (h : Keeps s₀ s) :
    Keeps s₀ (State.trainingDone s) := by
  unfold State.trainingDone
  try dsimp only
  repeat' first
    | with_reducible exact h
    | with_reducible refine State.setBit_keeps ?_
    | with_reducible refine State.serveNow_keeps ?_
    | with_reducible refine Keeps.ite ?_ ?_
    | (fail_if_no_progress with_reducible refine Keeps.mk_same ?_ rfl)

theorem execDramTrainingEnd_keeps {s₀ : State} {c : Fin 2} {capacity : Nat} {failed : List Nat} {s : State} (h : Keeps s₀ s) :
    Completes s₀ (execDramTrainingEnd c capacity failed s) := by
  unfold execDramTrainingEnd
  try dsimp only
  repeat' first
    | with_reducible exact h
    | with_reducible refine State.trainingDone_keeps ?_
    | with_reducible refine State.trainedChannel_keeps ?_
    | with_reducible refine Completes.next ?_
    | with_reducible refine Keeps.ite ?_ ?_

theorem execDramClearEnd_keeps {s₀ : State} {s : State} (h : Keeps s₀ s) :
    Completes s₀ (execDramClearEnd s) := by
  unfold execDramClearEnd
  try dsimp only
  repeat' first
    | with_reducible exact h
    | with_reducible refine State.serveNow_keeps ?_
    | with_reducible refine State.clearWords_keeps ?_
    | with_reducible refine Completes.next ?_
    | with_reducible refine Keeps.ite ?_ ?_

theorem State.restoreSlot_keeps {s₀ : State} {s : State} {g : Fin 16} (h : Keeps s₀ s) :
    Keeps s₀ (State.restoreSlot s g) := by
  unfold State.restoreSlot
  try dsimp only
  repeat' first
    | with_reducible exact h
    | with_reducible refine imageEff_keeps ?_
    | with_reducible refine State.put_keeps ?_
    | with_reducible refine Keeps.ite ?_ ?_

theorem State.restoreTones_keeps {s₀ : State} {s : State} {n : Port} {k : Nat} (h : Keeps s₀ s) :
    Keeps s₀ (State.restoreTones s n k) := by
  unfold State.restoreTones
  try dsimp only
  repeat' first
    | with_reducible exact h
    | with_reducible refine State.putFigures_keeps ?_
    | with_reducible refine Keeps.ite ?_ ?_

theorem State.placeDram_keeps {s₀ : State} {s : State} {n : Port} (h : Keeps s₀ s) :
    Keeps s₀ (State.placeDram s n) := by
  unfold State.placeDram
  try dsimp only
  repeat' first
    | with_reducible exact h
    | with_reducible refine State.modPipe_keeps ?_
    | with_reducible refine overAll_keeps ?_ ?_
    | with_reducible refine State.modSet_keeps ?_
    | with_reducible refine State.put_keeps ?_
    | with_reducible refine State.allocSpectrum_keeps ?_
    | (intro u a b; try beta_reduce)
    | with_reducible assumption
    | (fail_if_no_progress with_reducible refine Keeps.mk_same ?_ rfl)

theorem State.placePort_keeps {s₀ : State} {s : State} {n : Port} (h : Keeps s₀ s) :
    Keeps s₀ (State.placePort s n) := by
  unfold State.placePort
  try dsimp only
  repeat' first
    | with_reducible exact h
    | with_reducible refine State.restoreTones_keeps ?_
    | with_reducible refine State.judgeSet_keeps ?_
    | with_reducible refine State.modPort_keeps ?_
    | with_reducible refine State.modPipe_keeps ?_
    | with_reducible refine State.placeDram_keeps ?_
    | with_reducible refine State.modBril_keeps ?_
    | with_reducible refine Keeps.foldl ?_ ?_
    | (intro u a b; try beta_reduce)
    | with_reducible assumption
    | with_reducible refine Keeps.ite ?_ ?_
    | (fail_if_no_progress with_reducible refine Keeps.mk_same ?_ rfl)

theorem State.placeRegion_keeps {s₀ : State} {s : State} {r : Fin 64} (h : Keeps s₀ s) :
    Keeps s₀ (State.placeRegion s r) := by
  unfold State.placeRegion
  try dsimp only
  repeat' first
    | with_reducible exact h
    | with_reducible refine State.modRegion_keeps ?_
    | with_reducible refine State.armRegion_keeps ?_
    | with_reducible refine State.putShallow_keeps ?_
    | with_reducible refine Keeps.ite ?_ ?_
    | (fail_if_no_progress with_reducible refine Keeps.mk_same ?_ rfl)

theorem State.placePitch_keeps {s₀ : State} {s : State} {k : Fin 192} (h : Keeps s₀ s) :
    Keeps s₀ (State.placePitch s k) := by
  unfold State.placePitch
  try dsimp only
  repeat' first
    | with_reducible exact h
    | with_reducible refine State.startStall_keeps ?_
    | with_reducible refine Keeps.ite ?_ ?_
    | split

theorem State.placeStream_keeps {s₀ : State} {s : State} {k : Fin 256} (h : Keeps s₀ s) :
    Keeps s₀ (State.placeStream s k) := by
  unfold State.placeStream
  try dsimp only
  repeat' first
    | with_reducible exact h
    | with_reducible refine State.openStream_keeps ?_
    | with_reducible refine Keeps.ite ?_ ?_

theorem State.placeAll_keeps {s₀ : State} {s : State} (h : Keeps s₀ s) :
    Keeps s₀ (State.placeAll s) := by
  unfold State.placeAll
  try dsimp only
  repeat' first
    | with_reducible exact h
    | with_reducible refine overAll_keeps ?_ ?_
    | with_reducible refine State.restoreSlot_keeps ?_
    | with_reducible refine State.placePort_keeps ?_
    | with_reducible refine State.placeRegion_keeps ?_
    | with_reducible refine State.put_keeps ?_
    | with_reducible refine State.countStalls_keeps ?_
    | with_reducible refine State.countUsers_keeps ?_
    | with_reducible refine State.placePitch_keeps ?_
    | with_reducible refine State.placeStream_keeps ?_
    | with_reducible refine Keeps.ite ?_ ?_
    | (intro u a b; try beta_reduce)
    | with_reducible assumption

theorem execSchedulerStart_keeps {s₀ : State} {s : State} (h : Keeps s₀ s) :
    Completes s₀ (execSchedulerStart s) := by
  unfold execSchedulerStart
  try dsimp only
  repeat' first
    | with_reducible exact h
    | with_reducible refine State.drawn_keeps ?_
    | with_reducible refine State.put_keeps ?_
    | with_reducible refine State.placeAll_keeps ?_
    | with_reducible refine State.confirmTrial_keeps ?_
    | with_reducible refine Completes.next ?_
    | with_reducible refine Keeps.ite ?_ ?_

theorem execTemperatureRead_keeps {s₀ : State} {digital : Int} {analogue : Int} {flash : Int} {s : State} (h : Keeps s₀ s) :
    Completes s₀ (execTemperatureRead digital analogue flash s) := by
  unfold execTemperatureRead
  try dsimp only
  repeat' first
    | with_reducible exact h
    | with_reducible refine State.puti_keeps ?_
    | with_reducible refine State.modBoot_keeps ?_ ?_
    | with_reducible refine State.logFlag_keeps ?_
    | exact Nat.le_refl _
    | with_reducible refine Completes.next ?_
    | with_reducible refine Keeps.ite ?_ ?_

theorem State.restartTMax_keeps {s₀ : State} {s : State} (h : Keeps s₀ s) :
    Keeps s₀ (State.restartTMax s) := by
  unfold State.restartTMax
  try dsimp only
  repeat' first
    | with_reducible exact h
    | with_reducible refine State.puti_keeps ?_

theorem execRailOvervoltage_keeps {s₀ : State} {rails : BitVec 32} {s : State} (h : Keeps s₀ s) :
    Completes s₀ (execRailOvervoltage rails s) := by
  unfold execRailOvervoltage
  try dsimp only
  repeat' first
    | with_reducible exact h
    | with_reducible refine State.put_keeps ?_
    | with_reducible refine State.markFlag_keeps ?_
    | with_reducible refine Completes.next ?_

end Sys2Proof.Machine
end

