-- ==== Sys2Proof/Laws/Flow.lean ====
section
/-! SUPPORT. What the operations of Machine/Flow.lean keep, one lemma each (Keeps, Completes: Laws/Keeps.lean). -/

/- One declaration after another: side by side they would need more memory. -/
set_option Elab.async false

namespace Sys2Proof.Machine

theorem branchTo_keeps {s₀ : State} {t : StallId} {x : Stall} {a : BitVec 13} {s : State} (h : Keeps s₀ s) :
    Keeps s₀ (branchTo t x a s).st := by
  unfold branchTo
  try dsimp only
  repeat' first
    | with_reducible exact h
    | with_reducible refine State.modStall_keeps ?_

theorem execBr_keeps {s₀ : State} {t : StallId} {off : BitVec 14} {s : State} (h : Keeps s₀ s) :
    Completes s₀ (execBr t off s) := by
  unfold execBr
  try dsimp only
  repeat' first
    | with_reducible exact h
    | with_reducible refine State.issue_keeps ?_ ?_
    | with_reducible refine branchTo_keeps ?_
    | (intro u a b; try beta_reduce)
    | with_reducible assumption

theorem execBcc_keeps {s₀ : State} {t : StallId} {pa : Fin 16} {pb : Fin 16} {cc : BitVec 3} {off : BitVec 14} {s : State} (h : Keeps s₀ s) :
    Completes s₀ (execBcc t pa pb cc off s) := by
  unfold execBcc
  try dsimp only
  repeat' first
    | with_reducible exact h
    | with_reducible refine State.issue_keeps ?_ ?_
    | with_reducible refine branchTo_keeps ?_
    | (intro u a b; try beta_reduce)
    | with_reducible assumption
    | split

theorem execCall_keeps {s₀ : State} {t : StallId} {off : BitVec 14} {s : State} (h : Keeps s₀ s) :
    Completes s₀ (execCall t off s) := by
  unfold execCall
  try dsimp only
  repeat' first
    | with_reducible exact h
    | with_reducible refine State.issue_keeps ?_ ?_
    | with_reducible refine trapOut_keeps ?_
    | with_reducible refine State.modStall_keeps ?_
    | (intro u a b; try beta_reduce)
    | with_reducible assumption
    | split

theorem popTo_keeps {s₀ : State} {t : StallId} {f : Stall → Stall} {s : State} {x : Stall} (h : Keeps s₀ s) :
    Keeps s₀ (popTo t f s x).st := by
  unfold popTo
  try dsimp only
  repeat' first
    | with_reducible exact h
    | with_reducible refine trapOut_keeps ?_
    | with_reducible refine State.modStall_keeps ?_
    | split

theorem execRet_keeps {s₀ : State} {t : StallId} {s : State} (h : Keeps s₀ s) :
    Completes s₀ (execRet t s) := by
  unfold execRet
  try dsimp only
  repeat' first
    | with_reducible exact h
    | with_reducible refine State.issue_keeps ?_ ?_
    | with_reducible refine popTo_keeps ?_
    | (intro u a b; try beta_reduce)
    | with_reducible assumption

theorem execTrapret_keeps {s₀ : State} {t : StallId} {s : State} (h : Keeps s₀ s) :
    Completes s₀ (execTrapret t s) := by
  unfold execTrapret
  try dsimp only
  repeat' first
    | with_reducible exact h
    | with_reducible refine State.issue_keeps ?_ ?_
    | with_reducible refine popTo_keeps ?_
    | with_reducible refine trapOut_keeps ?_
    | (intro u a b; try beta_reduce)
    | with_reducible assumption
    | split

theorem execLoop_keeps {s₀ : State} {t : StallId} {rot : Bool} {src : Bool} {cnt : BitVec 12} {body : BitVec 12} {s : State} (h : Keeps s₀ s) :
    Completes s₀ (execLoop t rot src cnt body s) := by
  unfold execLoop
  try dsimp only
  repeat' first
    | with_reducible exact h
    | with_reducible refine State.issue_keeps ?_ ?_
    | with_reducible refine trapOut_keeps ?_
    | with_reducible refine State.modStall_keeps ?_
    | (intro u a b; try beta_reduce)
    | with_reducible assumption
    | split

theorem execIllegalOpcode_keeps {s₀ : State} {t : StallId} {s : State} (h : Keeps s₀ s) :
    Completes s₀ (execIllegalOpcode t s) := by
  unfold execIllegalOpcode
  try dsimp only
  repeat' first
    | with_reducible exact h
    | with_reducible refine State.issue_keeps ?_ ?_
    | with_reducible refine trapOut_keeps ?_
    | (intro u a b; try beta_reduce)
    | with_reducible assumption

end Sys2Proof.Machine
end

