-- ==== Sys2Proof/Laws/LoadStore.lean ====
section
/-! SUPPORT. What the operations of Machine/LoadStore.lean keep, one lemma each (Keeps, Completes: Laws/Keeps.lean). -/

/- One declaration after another: side by side they would need more memory. -/
set_option Elab.async false

namespace Sys2Proof.Machine

theorem memOp_keeps {s₀ : State} {t : StallId} {pn : Fin 16} {mm : Fin 8} {amode : BitVec 2} {size : Nat} {n : Nat} {k : BitVec 8} {isStore : Bool} {f : State → Stall → Nat → StallOut} {s : State} {x : Stall} (h : Keeps s₀ s) (hf : ∀ u x a, Keeps s₀ u → Keeps s₀ (f u x a).st) :
    Keeps s₀ (memOp t pn mm amode size n k isStore f s x).st := by
  unfold memOp
  try dsimp only
  repeat' first
    | with_reducible exact h
    | with_reducible refine trapOut_keeps ?_
    | with_reducible refine State.modStall_keeps ?_
    | with_reducible refine hf _ _ _ ?_
    | split

theorem execLd_keeps {s₀ : State} {t : StallId} {dr : Fin 64} {pn : Fin 16} {mm : Fin 8} {amode : BitVec 2} {ef : BitVec 3} {imm : BitVec 8}
    {s : State} (h : Keeps s₀ s) :
    Completes s₀ (execLd t dr pn mm amode ef imm s) := by
  unfold execLd
  try dsimp only
  repeat' first
    | with_reducible exact h
    | with_reducible refine State.issue_keeps ?_ ?_
    | with_reducible refine memOp_keeps ?_ ?_
    | with_reducible refine State.seePoison_keeps ?_
    | with_reducible refine State.drewLocal_keeps ?_
    | with_reducible refine State.modStall_keeps ?_
    | with_reducible refine trapOut_keeps ?_
    | (intro u x a b; try beta_reduce)
    | (intro u a b; try beta_reduce)
    | with_reducible assumption
    | with_reducible refine Keeps.ite ?_ ?_
    | with_reducible refine Completes.next ?_
    | split

theorem markLanes_keeps {s₀ : State} {s : State} {a : Nat} {size : Nat} {ps : List Bool} (h : Keeps s₀ s) :
    Keeps s₀ (markLanes s a size ps) := by
  unfold markLanes
  try dsimp only
  repeat' first
    | with_reducible exact h
    | with_reducible refine State.setPoison_keeps ?_
    | with_reducible refine Keeps.ite ?_ ?_
    | with_reducible refine Keeps.foldl ?_ ?_
    | (intro u a b; try beta_reduce)
    | with_reducible assumption

theorem execSt_keeps {s₀ : State} {t : StallId} {dr : Fin 64} {pn : Fin 16} {mm : Fin 8} {amode : BitVec 2} {ef : BitVec 3} {imm : BitVec 8} {s : State} (h : Keeps s₀ s) :
    Completes s₀ (execSt t dr pn mm amode ef imm s) := by
  unfold execSt
  try dsimp only
  repeat' first
    | with_reducible exact h
    | with_reducible refine State.issue_keeps ?_ ?_
    | with_reducible refine memOp_keeps ?_ ?_
    | with_reducible refine markLanes_keeps ?_
    | with_reducible refine State.store_keeps ?_
    | with_reducible refine trapOut_keeps ?_
    | (intro u x a b; try beta_reduce)
    | (intro u a b; try beta_reduce)
    | with_reducible assumption
    | split

theorem execLdp_keeps {s₀ : State} {t : StallId} {pd pn : Fin 16} {mm : Fin 8} {amode : BitVec 2} {imm : BitVec 8} {s : State} (h : Keeps s₀ s) :
    Completes s₀ (execLdp t pd pn mm amode imm s) := by
  unfold execLdp
  try dsimp only
  repeat' first
    | with_reducible exact h
    | with_reducible refine State.issue_keeps ?_ ?_
    | with_reducible refine memOp_keeps ?_ ?_
    | with_reducible refine State.seePoison_keeps ?_
    | with_reducible refine State.drewLocal_keeps ?_
    | with_reducible refine State.modStall_keeps ?_
    | (intro u x a b; try beta_reduce)
    | (intro u a b; try beta_reduce)
    | with_reducible assumption
    | with_reducible refine Keeps.ite ?_ ?_
    | with_reducible refine Completes.next ?_

theorem execStp_keeps {s₀ : State} {t : StallId} {pd : Fin 16} {pn : Fin 16} {mm : Fin 8} {amode : BitVec 2} {imm : BitVec 8} {s : State} (h : Keeps s₀ s) :
    Completes s₀ (execStp t pd pn mm amode imm s) := by
  unfold execStp
  try dsimp only
  repeat' first
    | with_reducible exact h
    | with_reducible refine State.issue_keeps ?_ ?_
    | with_reducible refine memOp_keeps ?_ ?_
    | with_reducible refine State.store_keeps ?_
    | (intro u x a b; try beta_reduce)
    | (intro u a b; try beta_reduce)
    | with_reducible assumption

theorem execLdam_keeps {s₀ : State} {t : StallId} {an : Fin 8} {pn : Fin 16} {mm : Fin 8} {amode : BitVec 2} {imm : BitVec 8}
    {s : State} (h : Keeps s₀ s) :
    Completes s₀ (execLdam t an pn mm amode imm s) := by
  unfold execLdam
  try dsimp only
  repeat' first
    | with_reducible exact h
    | with_reducible refine State.issue_keeps ?_ ?_
    | with_reducible refine memOp_keeps ?_ ?_
    | with_reducible refine State.seePoison_keeps ?_
    | with_reducible refine State.drewLocal_keeps ?_
    | with_reducible refine State.modStall_keeps ?_
    | (intro u x a b; try beta_reduce)
    | (intro u a b; try beta_reduce)
    | with_reducible assumption
    | with_reducible refine Keeps.ite ?_ ?_
    | with_reducible refine Completes.next ?_

theorem execStam_keeps {s₀ : State} {t : StallId} {an : Fin 8} {pn : Fin 16} {mm : Fin 8} {amode : BitVec 2} {imm : BitVec 8} {s : State} (h : Keeps s₀ s) :
    Completes s₀ (execStam t an pn mm amode imm s) := by
  unfold execStam
  try dsimp only
  repeat' first
    | with_reducible exact h
    | with_reducible refine State.issue_keeps ?_ ?_
    | with_reducible refine memOp_keeps ?_ ?_
    | with_reducible refine State.store_keeps ?_
    | with_reducible refine markLanes_keeps ?_
    | (intro u x a b; try beta_reduce)
    | (intro u a b; try beta_reduce)
    | with_reducible assumption

end Sys2Proof.Machine
end

