-- ==== Sys2Proof/Laws/Scalar.lean ====
section
/-! SUPPORT. What the operations of Machine/Scalar.lean keep, one lemma each (Keeps, Completes: Laws/Keeps.lean). -/

/- One declaration after another: side by side they would need more memory. -/
set_option Elab.async false

namespace Sys2Proof.Machine

theorem execNop_keeps {s₀ : State} {t : StallId} {s : State} (h : Keeps s₀ s) :
    Completes s₀ (execNop t s) := by
  unfold execNop
  try dsimp only
  repeat' first
    | with_reducible exact h
    | with_reducible refine regOp_keeps ?_

theorem execLip_keeps {s₀ : State} {t : StallId} {pd : Fin 16} {imm : BitVec 22} {s : State} (h : Keeps s₀ s) :
    Completes s₀ (execLip t pd imm s) := by
  unfold execLip
  try dsimp only
  repeat' first
    | with_reducible exact h
    | with_reducible refine regOp_keeps ?_

theorem execAddpi_keeps {s₀ : State} {t : StallId} {pd : Fin 16} {ps : Fin 16} {imm : BitVec 18} {s : State} (h : Keeps s₀ s) :
    Completes s₀ (execAddpi t pd ps imm s) := by
  unfold execAddpi
  try dsimp only
  repeat' first
    | with_reducible exact h
    | with_reducible refine regOp_keeps ?_

theorem palu_keeps {s₀ : State} {f : BitVec 24 → BitVec 24 → BitVec 24} {t : StallId} {pd : Fin 16} {ps : Fin 16} {pt : Fin 16} {s : State} (h : Keeps s₀ s) :
    Completes s₀ (palu f t pd ps pt s) := by
  unfold palu
  try dsimp only
  repeat' first
    | with_reducible exact h
    | with_reducible refine regOp_keeps ?_

theorem paluImm_keeps {s₀ : State} {f : BitVec 24 → BitVec 24} {t : StallId} {pd : Fin 16} {ps : Fin 16} {s : State} (h : Keeps s₀ s) :
    Completes s₀ (paluImm f t pd ps s) := by
  unfold paluImm
  try dsimp only
  repeat' first
    | with_reducible exact h
    | with_reducible refine regOp_keeps ?_

theorem execAdd_keeps {s₀ : State} {t : StallId} {pd : Fin 16} {ps : Fin 16} {pt : Fin 16} {_imm : BitVec 5} {s : State} (h : Keeps s₀ s) :
    Completes s₀ (execAdd t pd ps pt _imm s) := by
  unfold execAdd
  try dsimp only
  repeat' first
    | with_reducible exact h
    | with_reducible refine palu_keeps ?_

theorem execSub_keeps {s₀ : State} {t : StallId} {pd : Fin 16} {ps : Fin 16} {pt : Fin 16} {_imm : BitVec 5} {s : State} (h : Keeps s₀ s) :
    Completes s₀ (execSub t pd ps pt _imm s) := by
  unfold execSub
  try dsimp only
  repeat' first
    | with_reducible exact h
    | with_reducible refine palu_keeps ?_

theorem execAnd_keeps {s₀ : State} {t : StallId} {pd : Fin 16} {ps : Fin 16} {pt : Fin 16} {_imm : BitVec 5} {s : State} (h : Keeps s₀ s) :
    Completes s₀ (execAnd t pd ps pt _imm s) := by
  unfold execAnd
  try dsimp only
  repeat' first
    | with_reducible exact h
    | with_reducible refine palu_keeps ?_

theorem execOr_keeps {s₀ : State} {t : StallId} {pd : Fin 16} {ps : Fin 16} {pt : Fin 16} {_imm : BitVec 5} {s : State} (h : Keeps s₀ s) :
    Completes s₀ (execOr t pd ps pt _imm s) := by
  unfold execOr
  try dsimp only
  repeat' first
    | with_reducible exact h
    | with_reducible refine palu_keeps ?_

theorem execXor_keeps {s₀ : State} {t : StallId} {pd : Fin 16} {ps : Fin 16} {pt : Fin 16} {_imm : BitVec 5} {s : State} (h : Keeps s₀ s) :
    Completes s₀ (execXor t pd ps pt _imm s) := by
  unfold execXor
  try dsimp only
  repeat' first
    | with_reducible exact h
    | with_reducible refine palu_keeps ?_

theorem execShl_keeps {s₀ : State} {t : StallId} {pd : Fin 16} {ps : Fin 16} {pt : Fin 16} {_imm : BitVec 5} {s : State} (h : Keeps s₀ s) :
    Completes s₀ (execShl t pd ps pt _imm s) := by
  unfold execShl
  try dsimp only
  repeat' first
    | with_reducible exact h
    | with_reducible refine palu_keeps ?_

theorem execShr_keeps {s₀ : State} {t : StallId} {pd : Fin 16} {ps : Fin 16} {pt : Fin 16} {_imm : BitVec 5} {s : State} (h : Keeps s₀ s) :
    Completes s₀ (execShr t pd ps pt _imm s) := by
  unfold execShr
  try dsimp only
  repeat' first
    | with_reducible exact h
    | with_reducible refine palu_keeps ?_

theorem execSra_keeps {s₀ : State} {t : StallId} {pd : Fin 16} {ps : Fin 16} {pt : Fin 16} {_imm : BitVec 5} {s : State} (h : Keeps s₀ s) :
    Completes s₀ (execSra t pd ps pt _imm s) := by
  unfold execSra
  try dsimp only
  repeat' first
    | with_reducible exact h
    | with_reducible refine palu_keeps ?_

theorem execMul_keeps {s₀ : State} {t : StallId} {pd : Fin 16} {ps : Fin 16} {pt : Fin 16} {_imm : BitVec 5} {s : State} (h : Keeps s₀ s) :
    Completes s₀ (execMul t pd ps pt _imm s) := by
  unfold execMul
  try dsimp only
  repeat' first
    | with_reducible exact h
    | with_reducible refine palu_keeps ?_

theorem execSlt_keeps {s₀ : State} {t : StallId} {pd : Fin 16} {ps : Fin 16} {pt : Fin 16} {_imm : BitVec 5} {s : State} (h : Keeps s₀ s) :
    Completes s₀ (execSlt t pd ps pt _imm s) := by
  unfold execSlt
  try dsimp only
  repeat' first
    | with_reducible exact h
    | with_reducible refine palu_keeps ?_

theorem execSltu_keeps {s₀ : State} {t : StallId} {pd : Fin 16} {ps : Fin 16} {pt : Fin 16} {_imm : BitVec 5} {s : State} (h : Keeps s₀ s) :
    Completes s₀ (execSltu t pd ps pt _imm s) := by
  unfold execSltu
  try dsimp only
  repeat' first
    | with_reducible exact h
    | with_reducible refine palu_keeps ?_

theorem execMin_keeps {s₀ : State} {t : StallId} {pd : Fin 16} {ps : Fin 16} {pt : Fin 16} {_imm : BitVec 5} {s : State} (h : Keeps s₀ s) :
    Completes s₀ (execMin t pd ps pt _imm s) := by
  unfold execMin
  try dsimp only
  repeat' first
    | with_reducible exact h
    | with_reducible refine palu_keeps ?_

theorem execMax_keeps {s₀ : State} {t : StallId} {pd : Fin 16} {ps : Fin 16} {pt : Fin 16} {_imm : BitVec 5} {s : State} (h : Keeps s₀ s) :
    Completes s₀ (execMax t pd ps pt _imm s) := by
  unfold execMax
  try dsimp only
  repeat' first
    | with_reducible exact h
    | with_reducible refine palu_keeps ?_

theorem execShli_keeps {s₀ : State} {t : StallId} {pd : Fin 16} {ps : Fin 16} {_pt : Fin 16} {imm : BitVec 5} {s : State} (h : Keeps s₀ s) :
    Completes s₀ (execShli t pd ps _pt imm s) := by
  unfold execShli
  try dsimp only
  repeat' first
    | with_reducible exact h
    | with_reducible refine paluImm_keeps ?_

theorem execShri_keeps {s₀ : State} {t : StallId} {pd : Fin 16} {ps : Fin 16} {_pt : Fin 16} {imm : BitVec 5} {s : State} (h : Keeps s₀ s) :
    Completes s₀ (execShri t pd ps _pt imm s) := by
  unfold execShri
  try dsimp only
  repeat' first
    | with_reducible exact h
    | with_reducible refine paluImm_keeps ?_

theorem execSrai_keeps {s₀ : State} {t : StallId} {pd : Fin 16} {ps : Fin 16} {_pt : Fin 16} {imm : BitVec 5} {s : State} (h : Keeps s₀ s) :
    Completes s₀ (execSrai t pd ps _pt imm s) := by
  unfold execSrai
  try dsimp only
  repeat' first
    | with_reducible exact h
    | with_reducible refine paluImm_keeps ?_

theorem execMfrb_keeps {s₀ : State} {t : StallId} {pd : Fin 16} {s : State} (h : Keeps s₀ s) :
    Completes s₀ (execMfrb t pd s) := by
  unfold execMfrb
  try dsimp only
  repeat' first
    | with_reducible exact h
    | with_reducible refine regOp_keeps ?_

theorem execMtrb_keeps {s₀ : State} {t : StallId} {ps : Fin 16} {s : State} (h : Keeps s₀ s) :
    Completes s₀ (execMtrb t ps s) := by
  unfold execMtrb
  try dsimp only
  repeat' first
    | with_reducible exact h
    | with_reducible refine regOp_keeps ?_

theorem execRotb_keeps {s₀ : State} {t : StallId} {s : State} (h : Keeps s₀ s) :
    Completes s₀ (execRotb t s) := by
  unfold execRotb
  try dsimp only
  repeat' first
    | with_reducible exact h
    | with_reducible refine regOp_keeps ?_

end Sys2Proof.Machine
end

