-- ==== Sys2Proof/Laws/StallRegs.lean ====
section
/-! SUPPORT. What the operations of Machine/StallRegs.lean keep, one lemma each (Keeps, Completes: Laws/Keeps.lean). -/

/- One declaration after another: side by side they would need more memory. -/
set_option Elab.async false

namespace Sys2Proof.Machine

theorem State.accept_keeps {s₀ : State} {s : State} {t : StallId} {tt : Fin 16} {d payload : List Byte} (h : Keeps s₀ s) :
    Keeps s₀ (State.accept s t tt d payload) := by
  unfold State.accept
  try dsimp only
  repeat' first
    | with_reducible exact h
    | with_reducible refine State.modStall_keeps ?_
    | with_reducible refine Keeps.ite ?_ ?_
    | (fail_if_no_progress with_reducible refine Keeps.mk_same ?_ rfl)

theorem execIssue_keeps {s₀ : State} {t : StallId} {tt pn : Fin 16} {s : State} (h : Keeps s₀ s) :
    Completes s₀ (execIssue t tt pn s) := by
  unfold execIssue
  try dsimp only
  repeat' first
    | with_reducible exact h
    | with_reducible refine State.issue_keeps ?_ ?_
    | with_reducible refine State.bump_keeps ?_
    | with_reducible refine State.drewLocal_keeps ?_
    | with_reducible refine State.accept_keeps ?_
    | with_reducible refine trapOut_keeps ?_
    | (intro u a b; try beta_reduce)
    | with_reducible assumption
    | with_reducible refine Keeps.ite ?_ ?_
    | with_reducible refine Completes.next ?_
    | split

theorem execWait_keeps {s₀ : State} {t : StallId} {tt : Fin 16} {pd : Fin 16} {s : State} (h : Keeps s₀ s) :
    Completes s₀ (execWait t tt pd s) := by
  unfold execWait
  try dsimp only
  repeat' first
    | with_reducible exact h
    | with_reducible refine State.issue_keeps ?_ ?_
    | with_reducible refine State.modStall_keeps ?_
    | (intro u a b; try beta_reduce)
    | with_reducible assumption
    | split

theorem popDescriptor_keeps {s₀ : State} {t : StallId} {pd : Fin 16} {s : State} {x : Stall} (h : Keeps s₀ s) :
    Keeps s₀ (popDescriptor t pd s x).st := by
  unfold popDescriptor
  try dsimp only
  repeat' first
    | with_reducible exact h
    | with_reducible refine State.modStall_keeps ?_
    | split

theorem execInqPop_keeps {s₀ : State} {t : StallId} {pd : Fin 16} {s : State} (h : Keeps s₀ s) :
    Completes s₀ (execInqPop t pd s) := by
  unfold execInqPop
  try dsimp only
  repeat' first
    | with_reducible exact h
    | with_reducible refine State.issue_keeps ?_ ?_
    | with_reducible refine popDescriptor_keeps ?_
    | (intro u a b; try beta_reduce)
    | with_reducible assumption

theorem execMfs_keeps {s₀ : State} {t : StallId} {pd : Fin 16} {sel : BitVec 8} {s : State} (h : Keeps s₀ s) :
    Completes s₀ (execMfs t pd sel s) := by
  unfold execMfs
  try dsimp only
  repeat' first
    | with_reducible exact h
    | with_reducible refine State.issue_keeps ?_ ?_
    | with_reducible refine popDescriptor_keeps ?_
    | with_reducible refine State.modStall_keeps ?_
    | with_reducible refine State.drawn_keeps ?_
    | with_reducible refine State.drewMany_keeps ?_
    | with_reducible refine Keeps.ite ?_ ?_
    | (intro u a b; try beta_reduce)
    | with_reducible assumption
    | split

theorem execMts_keeps {s₀ : State} {t : StallId} {sel : BitVec 8} {ps : Fin 16} {s : State} (h : Keeps s₀ s) :
    Completes s₀ (execMts t sel ps s) := by
  unfold execMts
  try dsimp only
  repeat' first
    | with_reducible exact h
    | with_reducible refine State.issue_keeps ?_ ?_
    | with_reducible refine State.syncFlags_keeps ?_
    | with_reducible refine State.modStall_keeps ?_
    | (intro u a b; try beta_reduce)
    | with_reducible assumption
    | split

theorem execMfm_keeps {s₀ : State} {t : StallId} {pd : Fin 16} {mm : Fin 8} {fld : BitVec 8} {s : State} (h : Keeps s₀ s) :
    Completes s₀ (execMfm t pd mm fld s) := by
  unfold execMfm
  try dsimp only
  repeat' first
    | with_reducible exact h
    | with_reducible refine State.issue_keeps ?_ ?_
    | with_reducible refine State.modStall_keeps ?_
    | with_reducible refine State.drewMany_keeps ?_
    | with_reducible refine Keeps.ite ?_ ?_
    | (intro u a b; try beta_reduce)
    | with_reducible assumption

theorem execMtm_keeps {s₀ : State} {t : StallId} {mm : Fin 8} {fld : BitVec 8} {ps : Fin 16} {s : State} (h : Keeps s₀ s) :
    Completes s₀ (execMtm t mm fld ps s) := by
  unfold execMtm
  try dsimp only
  repeat' first
    | with_reducible exact h
    | with_reducible refine State.issue_keeps ?_ ?_
    | with_reducible refine State.modStall_keeps ?_
    | with_reducible refine State.drewMany_keeps ?_
    | with_reducible refine Keeps.ite ?_ ?_
    | (intro u a b; try beta_reduce)
    | with_reducible assumption

end Sys2Proof.Machine
end

