-- ==== Sys2Proof/Laws/Vector.lean ====
section
/-! SUPPORT. What the operations of Machine/Vector.lean keep, one lemma each (Keeps, Completes: Laws/Keeps.lean). -/

/- One declaration after another: side by side they would need more memory. -/
set_option Elab.async false

namespace Sys2Proof.Machine

theorem valu2_keeps {s₀ : State} {f : BitVec 24 → BitVec 24 → BitVec 24} {t : StallId} {dd : Fin 64} {da : Fin 64} {db : Fin 64} {s : State} (h : Keeps s₀ s) :
    Completes s₀ (valu2 f t dd da db s) := by
  unfold valu2
  try dsimp only
  repeat' first
    | with_reducible exact h
    | with_reducible refine regOp_keeps ?_

theorem valu1_keeps {s₀ : State} {f : BitVec 24 → BitVec 24} {t : StallId} {dd : Fin 64} {da : Fin 64} {s : State} (h : Keeps s₀ s) :
    Completes s₀ (valu1 f t dd da s) := by
  unfold valu1
  try dsimp only
  repeat' first
    | with_reducible exact h
    | with_reducible refine regOp_keeps ?_

theorem vshi_keeps {s₀ : State} {f : BitVec 24 → Nat → BitVec 24} {t : StallId} {dd : Fin 64} {da : Fin 64} {imm : BitVec 6} {s : State} (h : Keeps s₀ s) :
    Completes s₀ (vshi f t dd da imm s) := by
  unfold vshi
  try dsimp only
  repeat' first
    | with_reducible exact h
    | with_reducible refine State.issue_keeps ?_ ?_
    | with_reducible refine trapOut_keeps ?_
    | with_reducible refine State.modStall_keeps ?_
    | (intro u a b; try beta_reduce)
    | with_reducible assumption
    | split

theorem execVadd_keeps {s₀ : State} {t : StallId} {dd : Fin 64} {da : Fin 64} {db : Fin 64} {s : State} (h : Keeps s₀ s) :
    Completes s₀ (execVadd t dd da db s) := by
  unfold execVadd
  try dsimp only
  repeat' first
    | with_reducible exact h
    | with_reducible refine valu2_keeps ?_

theorem execVsub_keeps {s₀ : State} {t : StallId} {dd : Fin 64} {da : Fin 64} {db : Fin 64} {s : State} (h : Keeps s₀ s) :
    Completes s₀ (execVsub t dd da db s) := by
  unfold execVsub
  try dsimp only
  repeat' first
    | with_reducible exact h
    | with_reducible refine valu2_keeps ?_

theorem execVadds_keeps {s₀ : State} {t : StallId} {dd : Fin 64} {da : Fin 64} {db : Fin 64} {s : State} (h : Keeps s₀ s) :
    Completes s₀ (execVadds t dd da db s) := by
  unfold execVadds
  try dsimp only
  repeat' first
    | with_reducible exact h
    | with_reducible refine valu2_keeps ?_

theorem execVsubs_keeps {s₀ : State} {t : StallId} {dd : Fin 64} {da : Fin 64} {db : Fin 64} {s : State} (h : Keeps s₀ s) :
    Completes s₀ (execVsubs t dd da db s) := by
  unfold execVsubs
  try dsimp only
  repeat' first
    | with_reducible exact h
    | with_reducible refine valu2_keeps ?_

theorem execVand_keeps {s₀ : State} {t : StallId} {dd : Fin 64} {da : Fin 64} {db : Fin 64} {s : State} (h : Keeps s₀ s) :
    Completes s₀ (execVand t dd da db s) := by
  unfold execVand
  try dsimp only
  repeat' first
    | with_reducible exact h
    | with_reducible refine valu2_keeps ?_

theorem execVor_keeps {s₀ : State} {t : StallId} {dd : Fin 64} {da : Fin 64} {db : Fin 64} {s : State} (h : Keeps s₀ s) :
    Completes s₀ (execVor t dd da db s) := by
  unfold execVor
  try dsimp only
  repeat' first
    | with_reducible exact h
    | with_reducible refine valu2_keeps ?_

theorem execVxor_keeps {s₀ : State} {t : StallId} {dd : Fin 64} {da : Fin 64} {db : Fin 64} {s : State} (h : Keeps s₀ s) :
    Completes s₀ (execVxor t dd da db s) := by
  unfold execVxor
  try dsimp only
  repeat' first
    | with_reducible exact h
    | with_reducible refine valu2_keeps ?_

theorem execVmin_keeps {s₀ : State} {t : StallId} {dd : Fin 64} {da : Fin 64} {db : Fin 64} {s : State} (h : Keeps s₀ s) :
    Completes s₀ (execVmin t dd da db s) := by
  unfold execVmin
  try dsimp only
  repeat' first
    | with_reducible exact h
    | with_reducible refine valu2_keeps ?_

theorem execVmax_keeps {s₀ : State} {t : StallId} {dd : Fin 64} {da : Fin 64} {db : Fin 64} {s : State} (h : Keeps s₀ s) :
    Completes s₀ (execVmax t dd da db s) := by
  unfold execVmax
  try dsimp only
  repeat' first
    | with_reducible exact h
    | with_reducible refine valu2_keeps ?_

theorem execVshl_keeps {s₀ : State} {t : StallId} {dd : Fin 64} {da : Fin 64} {db : Fin 64} {s : State} (h : Keeps s₀ s) :
    Completes s₀ (execVshl t dd da db s) := by
  unfold execVshl
  try dsimp only
  repeat' first
    | with_reducible exact h
    | with_reducible refine valu2_keeps ?_

theorem execVsra_keeps {s₀ : State} {t : StallId} {dd : Fin 64} {da : Fin 64} {db : Fin 64} {s : State} (h : Keeps s₀ s) :
    Completes s₀ (execVsra t dd da db s) := by
  unfold execVsra
  try dsimp only
  repeat' first
    | with_reducible exact h
    | with_reducible refine valu2_keeps ?_

theorem execVcgt_keeps {s₀ : State} {t : StallId} {dd : Fin 64} {da : Fin 64} {db : Fin 64} {s : State} (h : Keeps s₀ s) :
    Completes s₀ (execVcgt t dd da db s) := by
  unfold execVcgt
  try dsimp only
  repeat' first
    | with_reducible exact h
    | with_reducible refine valu2_keeps ?_

theorem execVceq_keeps {s₀ : State} {t : StallId} {dd : Fin 64} {da : Fin 64} {db : Fin 64} {s : State} (h : Keeps s₀ s) :
    Completes s₀ (execVceq t dd da db s) := by
  unfold execVceq
  try dsimp only
  repeat' first
    | with_reducible exact h
    | with_reducible refine valu2_keeps ?_

theorem execVabs_keeps {s₀ : State} {t : StallId} {dd : Fin 64} {da : Fin 64} {_db : Fin 64} {s : State} (h : Keeps s₀ s) :
    Completes s₀ (execVabs t dd da _db s) := by
  unfold execVabs
  try dsimp only
  repeat' first
    | with_reducible exact h
    | with_reducible refine valu1_keeps ?_

theorem execVneg_keeps {s₀ : State} {t : StallId} {dd : Fin 64} {da : Fin 64} {_db : Fin 64} {s : State} (h : Keeps s₀ s) :
    Completes s₀ (execVneg t dd da _db s) := by
  unfold execVneg
  try dsimp only
  repeat' first
    | with_reducible exact h
    | with_reducible refine valu1_keeps ?_

theorem execVmov_keeps {s₀ : State} {t : StallId} {dd : Fin 64} {da : Fin 64} {_db : Fin 64} {s : State} (h : Keeps s₀ s) :
    Completes s₀ (execVmov t dd da _db s) := by
  unfold execVmov
  try dsimp only
  repeat' first
    | with_reducible exact h
    | with_reducible refine valu1_keeps ?_

theorem execVshli_keeps {s₀ : State} {t : StallId} {dd : Fin 64} {da : Fin 64} {imm : BitVec 6} {s : State} (h : Keeps s₀ s) :
    Completes s₀ (execVshli t dd da imm s) := by
  unfold execVshli
  try dsimp only
  repeat' first
    | with_reducible exact h
    | with_reducible refine vshi_keeps ?_

theorem execVsrai_keeps {s₀ : State} {t : StallId} {dd : Fin 64} {da : Fin 64} {imm : BitVec 6} {s : State} (h : Keeps s₀ s) :
    Completes s₀ (execVsrai t dd da imm s) := by
  unfold execVsrai
  try dsimp only
  repeat' first
    | with_reducible exact h
    | with_reducible refine vshi_keeps ?_

theorem execVsrli_keeps {s₀ : State} {t : StallId} {dd : Fin 64} {da : Fin 64} {imm : BitVec 6} {s : State} (h : Keeps s₀ s) :
    Completes s₀ (execVsrli t dd da imm s) := by
  unfold execVsrli
  try dsimp only
  repeat' first
    | with_reducible exact h
    | with_reducible refine vshi_keeps ?_

theorem execVswz_keeps {s₀ : State} {t : StallId} {dd : Fin 64} {da : Fin 64} {sel : BitVec 8} {s : State} (h : Keeps s₀ s) :
    Completes s₀ (execVswz t dd da sel s) := by
  unfold execVswz
  try dsimp only
  repeat' first
    | with_reducible exact h
    | with_reducible refine regOp_keeps ?_

theorem execVdup_keeps {s₀ : State} {t : StallId} {dd : Fin 64} {ps : Fin 16} {s : State} (h : Keeps s₀ s) :
    Completes s₀ (execVdup t dd ps s) := by
  unfold execVdup
  try dsimp only
  repeat' first
    | with_reducible exact h
    | with_reducible refine regOp_keeps ?_

theorem execMovpd_keeps {s₀ : State} {t : StallId} {dd : Fin 64} {ps : Fin 16} {sel : BitVec 8} {s : State} (h : Keeps s₀ s) :
    Completes s₀ (execMovpd t dd ps sel s) := by
  unfold execMovpd
  try dsimp only
  repeat' first
    | with_reducible exact h
    | with_reducible refine regOp_keeps ?_

theorem execMovdp_keeps {s₀ : State} {t : StallId} {pd : Fin 16} {da : Fin 64} {sel : BitVec 8} {s : State} (h : Keeps s₀ s) :
    Completes s₀ (execMovdp t pd da sel s) := by
  unfold execMovdp
  try dsimp only
  repeat' first
    | with_reducible exact h
    | with_reducible refine State.issue_keeps ?_ ?_
    | with_reducible refine State.modStall_keeps ?_
    | (intro u a b; try beta_reduce)
    | with_reducible assumption

end Sys2Proof.Machine
end

