-- ==== Sys2Proof/Laws/StallWord.lean ====
section
/-! SUPPORT. What the operations of Machine/StallWord.lean keep, one lemma each (Keeps, Completes: Laws/Keeps.lean). -/

/- One declaration after another: side by side they would need more memory. -/
set_option Elab.async false

namespace Sys2Proof.Machine

theorem valuWord_runs {s₀ : State} {t : StallId} {w : BitVec 32} : Runs s₀ (valuWord t w) := by
  unfold valuWord
  try dsimp only
  split <;> intro u k <;> first
    | with_reducible exact execVadd_keeps k
    | with_reducible exact execVsub_keeps k
    | with_reducible exact execVadds_keeps k
    | with_reducible exact execVsubs_keeps k
    | with_reducible exact execVand_keeps k
    | with_reducible exact execVor_keeps k
    | with_reducible exact execVxor_keeps k
    | with_reducible exact execVmin_keeps k
    | with_reducible exact execVmax_keeps k
    | with_reducible exact execVabs_keeps k
    | with_reducible exact execVneg_keeps k
    | with_reducible exact execVshl_keeps k
    | with_reducible exact execVsra_keeps k
    | with_reducible exact execVcgt_keeps k
    | with_reducible exact execVceq_keeps k
    | with_reducible exact execVmov_keeps k

theorem valuWord_keeps {s₀ : State} {t : StallId} {w : BitVec 32} {z2 : State} (h : Keeps s₀ z2) :
    Completes s₀ (valuWord t w z2) :=
  valuWord_runs _ h

theorem vshiWord_runs {s₀ : State} {t : StallId} {w : BitVec 32} : Runs s₀ (vshiWord t w) := by
  unfold vshiWord
  try dsimp only
  split <;> intro u k <;> first
    | with_reducible exact execVshli_keeps k
    | with_reducible exact execVsrai_keeps k
    | with_reducible exact execVsrli_keeps k
    | with_reducible exact execIllegalOpcode_keeps k

theorem vshiWord_keeps {s₀ : State} {t : StallId} {w : BitVec 32} {z2 : State} (h : Keeps s₀ z2) :
    Completes s₀ (vshiWord t w z2) :=
  vshiWord_runs _ h

theorem accWord_runs {s₀ : State} {t : StallId} {w : BitVec 32} : Runs s₀ (accWord t w) := by
  unfold accWord
  try dsimp only
  split <;> intro u k <;> first
    | with_reducible exact execClra_keeps k
    | with_reducible exact execMova_keeps k
    | with_reducible exact execAdda_keeps k
    | with_reducible exact execSuba_keeps k
    | with_reducible exact execShla_keeps k
    | with_reducible exact execSraa_keeps k
    | with_reducible exact execNorm_keeps k
    | with_reducible exact execExp_keeps k
    | with_reducible exact execReda_keeps k
    | with_reducible exact execLda_keeps k
    | with_reducible exact execNega_keeps k
    | with_reducible exact execAbsa_keeps k
    | with_reducible exact execIllegalOpcode_keeps k

theorem accWord_keeps {s₀ : State} {t : StallId} {w : BitVec 32} {z2 : State} (h : Keeps s₀ z2) :
    Completes s₀ (accWord t w z2) :=
  accWord_runs _ h

theorem paluWord_runs {s₀ : State} {t : StallId} {w : BitVec 32} : Runs s₀ (paluWord t w) := by
  unfold paluWord
  try dsimp only
  split <;> intro u k <;> first
    | with_reducible exact execAdd_keeps k
    | with_reducible exact execSub_keeps k
    | with_reducible exact execAnd_keeps k
    | with_reducible exact execOr_keeps k
    | with_reducible exact execXor_keeps k
    | with_reducible exact execShl_keeps k
    | with_reducible exact execShr_keeps k
    | with_reducible exact execSra_keeps k
    | with_reducible exact execShli_keeps k
    | with_reducible exact execShri_keeps k
    | with_reducible exact execSrai_keeps k
    | with_reducible exact execMul_keeps k
    | with_reducible exact execSlt_keeps k
    | with_reducible exact execSltu_keeps k
    | with_reducible exact execMin_keeps k
    | with_reducible exact execMax_keeps k

theorem paluWord_keeps {s₀ : State} {t : StallId} {w : BitVec 32} {z2 : State} (h : Keeps s₀ z2) :
    Completes s₀ (paluWord t w z2) :=
  paluWord_runs _ h

theorem rbopWord_runs {s₀ : State} {t : StallId} {w : BitVec 32} : Runs s₀ (rbopWord t w) := by
  unfold rbopWord
  try dsimp only
  split <;> intro u k <;> first
    | with_reducible exact execMfrb_keeps k
    | with_reducible exact execMtrb_keeps k
    | with_reducible exact execRotb_keeps k
    | with_reducible exact execIllegalOpcode_keeps k

theorem rbopWord_keeps {s₀ : State} {t : StallId} {w : BitVec 32} {z2 : State} (h : Keeps s₀ z2) :
    Completes s₀ (rbopWord t w z2) :=
  rbopWord_runs _ h

theorem stallMeaning_runs {s₀ : State} {t : StallId} {w : BitVec 32} : Runs s₀ (stallMeaning t w) := by
  unfold stallMeaning
  try dsimp only
  split <;> intro u k <;> first
    | with_reducible exact execNop_keeps k
    | with_reducible exact valuWord_keeps k
    | with_reducible exact vshiWord_keeps k
    | with_reducible exact execVswz_keeps k
    | with_reducible exact execMpy_keeps k
    | with_reducible exact execMac_keeps k
    | with_reducible exact execMsu_keeps k
    | with_reducible exact execCmac_keeps k
    | with_reducible exact accWord_keeps k
    | with_reducible exact execSta_keeps k
    | with_reducible exact execLd_keeps k
    | with_reducible exact execSt_keeps k
    | with_reducible exact execLdp_keeps k
    | with_reducible exact execStp_keeps k
    | with_reducible exact execLdam_keeps k
    | with_reducible exact execStam_keeps k
    | with_reducible exact execLip_keeps k
    | with_reducible exact execAddpi_keeps k
    | with_reducible exact paluWord_keeps k
    | with_reducible exact execBr_keeps k
    | with_reducible exact execBcc_keeps k
    | with_reducible exact execCall_keeps k
    | with_reducible exact execRet_keeps k
    | with_reducible exact execLoop_keeps k
    | with_reducible exact execTrapret_keeps k
    | with_reducible exact execIssue_keeps k
    | with_reducible exact execWait_keeps k
    | with_reducible exact execMfs_keeps k
    | with_reducible exact execMts_keeps k
    | with_reducible exact execMovdp_keeps k
    | with_reducible exact execMovpd_keeps k
    | with_reducible exact execMfm_keeps k
    | with_reducible exact execMtm_keeps k
    | with_reducible exact rbopWord_keeps k
    | with_reducible exact execVdup_keeps k
    | with_reducible exact execIllegalOpcode_keeps k

theorem stallMeaning_keeps {s₀ : State} {t : StallId} {w : BitVec 32} {z2 : State} (h : Keeps s₀ z2) :
    Completes s₀ (stallMeaning t w z2) :=
  stallMeaning_runs _ h

theorem State.stepStall_keeps {s₀ : State} {s : State} {t : StallId} (h : Keeps s₀ s) :
    Completes s₀ (State.stepStall s t) := by
  unfold State.stepStall
  try dsimp only
  repeat' first
    | with_reducible exact h
    | with_reducible refine stallMeaning_keeps ?_
    | with_reducible refine Completes.next ?_

end Sys2Proof.Machine
end

