-- ==== Sys2Proof/Laws/Debug.lean ====
section
/-! SUPPORT. What the operations of Machine/Debug.lean keep, one lemma each (Keeps, Completes: Laws/Keeps.lean). -/

/- One declaration after another: side by side they would need more memory. -/
set_option Elab.async false

namespace Sys2Proof.Machine

theorem State.selectTap_keeps {s₀ : State} {s : State} {x : Tap} (h : Keeps s₀ s) :
    Keeps s₀ (State.selectTap s x) := by
  unfold State.selectTap
  try dsimp only
  repeat' first
    | with_reducible exact h
    | with_reducible refine State.modBoot_keeps ?_ ?_
    | with_reducible refine State.resetTo_keeps ?_
    | exact Nat.le_refl _
    | with_reducible refine Keeps.ite ?_ ?_

theorem State.holdTap_keeps {s₀ : State} {s : State} {x : Tap} (h : Keeps s₀ s) :
    Keeps s₀ (State.holdTap s x) := by
  unfold State.holdTap
  try dsimp only
  repeat' first
    | with_reducible exact h
    | with_reducible refine State.modBoot_keeps ?_ ?_
    | with_reducible refine State.cleared_keeps ?_
    | exact Nat.le_refl _
    | with_reducible refine Keeps.ite ?_ ?_

theorem execExtest_keeps {s₀ : State} {s : State} (h : Keeps s₀ s) :
    Completes s₀ (execExtest s) := by
  unfold execExtest
  try dsimp only
  repeat' first
    | with_reducible exact h
    | with_reducible refine State.holdTap_keeps ?_
    | with_reducible refine Completes.next ?_

theorem execClamp_keeps {s₀ : State} {s : State} (h : Keeps s₀ s) :
    Completes s₀ (execClamp s) := by
  unfold execClamp
  try dsimp only
  repeat' first
    | with_reducible exact h
    | with_reducible refine State.holdTap_keeps ?_
    | with_reducible refine Completes.next ?_

theorem execExtestExit_keeps {s₀ : State} {s : State} (h : Keeps s₀ s) :
    Completes s₀ (execExtestExit s) := by
  unfold execExtestExit
  try dsimp only
  repeat' first
    | with_reducible exact h
    | with_reducible refine State.selectTap_keeps ?_
    | with_reducible refine Completes.next ?_
    | with_reducible refine Keeps.ite ?_ ?_

theorem execIdcode_keeps {s₀ : State} {s : State} (h : Keeps s₀ s) :
    Completes s₀ (execIdcode s) := by
  unfold execIdcode
  try dsimp only
  repeat' first
    | with_reducible exact h
    | with_reducible refine State.selectTap_keeps ?_
    | with_reducible refine State.emit_keeps ?_
    | with_reducible refine Completes.next ?_

theorem execSamplePreload_keeps {s₀ : State} {s : State} (h : Keeps s₀ s) :
    Completes s₀ (execSamplePreload s) := by
  unfold execSamplePreload
  try dsimp only
  repeat' first
    | with_reducible exact h
    | with_reducible refine State.selectTap_keeps ?_
    | with_reducible refine Completes.next ?_

theorem execBypass_keeps {s₀ : State} {s : State} (h : Keeps s₀ s) :
    Completes s₀ (execBypass s) := by
  unfold execBypass
  try dsimp only
  repeat' first
    | with_reducible exact h
    | with_reducible refine State.selectTap_keeps ?_
    | with_reducible refine Completes.next ?_

theorem execChal_keeps {s₀ : State} {nonce : List Byte} {s : State} (h : Keeps s₀ s) :
    Completes s₀ (execChal nonce s) := by
  unfold execChal
  try dsimp only
  repeat' first
    | with_reducible exact h
    | with_reducible refine State.selectTap_keeps ?_
    | with_reducible refine State.emit_keeps ?_
    | with_reducible refine State.modBoot_keeps ?_ ?_
    | exact Nat.le_refl _
    | with_reducible refine Completes.next ?_
    | with_reducible refine Keeps.ite ?_ ?_

theorem State.unlock_keeps {s₀ : State} {s : State} {level : Nat} (h : Keeps s₀ s) :
    Keeps s₀ (State.unlock s level) := by
  unfold State.unlock
  try dsimp only
  repeat' first
    | with_reducible exact h
    | with_reducible refine State.markFlag_keeps ?_
    | with_reducible refine State.modBoot_keeps ?_ ?_
    | with_reducible refine State.put_keeps ?_
    | exact Nat.le_refl _

theorem State.lockDebug_keeps {s₀ : State} {s : State} (h : Keeps s₀ s) :
    Keeps s₀ (State.lockDebug s) := by
  unfold State.lockDebug
  try dsimp only
  repeat' first
    | with_reducible exact h
    | with_reducible refine State.logFlag_keeps ?_
    | with_reducible refine State.put_keeps ?_

theorem execResp_keeps {s₀ : State} {level : BitVec 8} {bytes : List Byte} {s : State} (h : Keeps s₀ s) :
    Completes s₀ (execResp level bytes s) := by
  unfold execResp
  try dsimp only
  repeat' first
    | with_reducible exact h
    | with_reducible refine State.selectTap_keeps ?_
    | with_reducible refine State.unlock_keeps ?_
    | with_reducible refine State.modBoot_keeps ?_ ?_
    | with_reducible refine State.bump_keeps ?_
    | exact Nat.le_refl _
    | with_reducible refine Completes.next ?_
    | with_reducible refine Keeps.ite ?_ ?_

theorem execChalLockoutEnd_keeps {s₀ : State} {s : State} (h : Keeps s₀ s) :
    Completes s₀ (execChalLockoutEnd s) := by
  unfold execChalLockoutEnd
  try dsimp only
  repeat' first
    | with_reducible exact h
    | with_reducible refine State.modBoot_keeps ?_ ?_
    | exact Nat.le_refl _
    | with_reducible refine Completes.next ?_

theorem execTrstN_keeps {s₀ : State} {s : State} (h : Keeps s₀ s) :
    Completes s₀ (execTrstN s) := by
  unfold execTrstN
  try dsimp only
  repeat' first
    | with_reducible exact h
    | with_reducible refine State.lockDebug_keeps ?_
    | with_reducible refine State.selectTap_keeps ?_
    | with_reducible refine Completes.next ?_

theorem dbgLockEff_keeps {s₀ : State} {s : State} {v : Nat} (h : Keeps s₀ s) :
    Keeps s₀ (dbgLockEff s v) := by
  unfold dbgLockEff
  try dsimp only
  repeat' first
    | with_reducible exact h
    | with_reducible refine State.lockDebug_keeps ?_
    | with_reducible refine Keeps.ite ?_ ?_

theorem State.answer_keeps {s₀ : State} {s : State} {status : Nat} {v : Nat} (h : Keeps s₀ s) :
    Keeps s₀ (State.answer s status v) := by
  unfold State.answer
  try dsimp only
  repeat' first
    | with_reducible exact h
    | with_reducible refine State.emit_keeps ?_

theorem State.debugRead_keeps {s₀ : State} {s : State} {a : Nat} (h : Keeps s₀ s) :
    Keeps s₀ (State.debugRead s a) := by
  unfold State.debugRead
  try dsimp only
  repeat' first
    | with_reducible exact h
    | with_reducible refine State.answer_keeps ?_
    | with_reducible refine State.drawn_keeps ?_
    | with_reducible refine State.readAt_keeps ?_ ?_
    | with_reducible refine Keeps.ite ?_ ?_
    | (fail_if_no_progress with_reducible refine Keeps.mk_same ?_ rfl)
    | (fail_if_no_progress with_reducible refine Keeps.mk_draw ?_ rfl)
    | split
    | exact holderOf_kept (by assumption)

theorem State.debugWrite_keeps {s₀ : State} {s : State} {a : Nat} {v : BitVec 128} (h : Keeps s₀ s) :
    Keeps s₀ (State.debugWrite s a v) := by
  unfold State.debugWrite
  try dsimp only
  repeat' first
    | with_reducible exact h
    | exact holderOf_kept (by assumption) _ _ _ _ h
    | with_reducible refine State.answer_keeps ?_
    | with_reducible refine State.put_keeps ?_
    | with_reducible refine State.dropFlips_keeps ?_
    | with_reducible refine Keeps.ite ?_ ?_
    | (fail_if_no_progress with_reducible refine Keeps.mk_same ?_ rfl)
    | split

theorem State.haltTarget_keeps {s₀ : State} {s : State} {t : StallId} (h : Keeps s₀ s) :
    Keeps s₀ (State.haltTarget s t) := by
  unfold State.haltTarget
  try dsimp only
  repeat' first
    | with_reducible exact h
    | with_reducible refine State.debugHaltStall_keeps ?_
    | with_reducible refine Keeps.ite ?_ ?_

theorem State.freeStall_keeps {s₀ : State} {s : State} {t : StallId} (h : Keeps s₀ s) :
    Keeps s₀ (State.freeStall s t) := by
  unfold State.freeStall
  try dsimp only
  repeat' first
    | with_reducible exact h
    | with_reducible refine State.modStall_keeps ?_
    | with_reducible refine State.takePending_keeps ?_
    | with_reducible refine State.put_keeps ?_

theorem State.resumeTarget_keeps {s₀ : State} {s : State} {t : StallId} (h : Keeps s₀ s) :
    Keeps s₀ (State.resumeTarget s t) := by
  unfold State.resumeTarget
  try dsimp only
  repeat' first
    | with_reducible exact h
    | with_reducible refine State.answer_keeps ?_
    | with_reducible refine State.freeStall_keeps ?_
    | with_reducible refine Keeps.ite ?_ ?_

theorem State.stepTarget_keeps {s₀ : State} {s : State} {t : StallId} (h : Keeps s₀ s) :
    Keeps s₀ (State.stepTarget s t) := by
  unfold State.stepTarget
  try dsimp only
  repeat' first
    | with_reducible exact h
    | with_reducible refine State.answer_keeps ?_
    | with_reducible refine State.modStall_keeps ?_
    | with_reducible refine State.stepStall_keeps ?_
    | with_reducible refine State.put_keeps ?_
    | with_reducible refine Keeps.ite ?_ ?_
    | with_reducible refine Completes.nextOf ?_

theorem State.drew_keeps {s₀ : State} {s : State} {n : Nat} (h : Keeps s₀ s) :
    Keeps s₀ (State.drew s n) := by
  unfold State.drew
  try dsimp only
  repeat' first
    | with_reducible exact h
    | (fail_if_no_progress with_reducible refine Keeps.mk_draw ?_ rfl)

theorem State.regRead_keeps {s₀ : State} {s : State} {t : StallId} {file : Nat} {index : Nat} (h : Keeps s₀ s) :
    Keeps s₀ (State.regRead s t file index) := by
  unfold State.regRead
  try dsimp only
  repeat' first
    | with_reducible exact h
    | with_reducible refine State.answer_keeps ?_
    | with_reducible refine State.drew_keeps ?_
    | with_reducible refine Keeps.ite ?_ ?_
    | split

theorem State.regWrite_keeps {s₀ : State} {s : State} {t : StallId} {file : Nat} {index : Nat} {v : BitVec 128} (h : Keeps s₀ s) :
    Keeps s₀ (State.regWrite s t file index v) := by
  unfold State.regWrite
  try dsimp only
  repeat' first
    | with_reducible exact h
    | with_reducible refine State.answer_keeps ?_
    | with_reducible refine State.drew_keeps ?_
    | with_reducible refine State.syncFlags_keeps ?_
    | with_reducible refine State.modStall_keeps ?_
    | with_reducible refine Keeps.ite ?_ ?_
    | split

theorem State.stallCmd_keeps {s₀ : State} {s : State} {t : StallId} {z2 : StallCmd} (h : Keeps s₀ s) :
    Keeps s₀ (State.stallCmd s t z2) := by
  unfold State.stallCmd
  try dsimp only
  repeat' first
    | with_reducible exact h
    | with_reducible refine State.answer_keeps ?_
    | with_reducible refine State.haltTarget_keeps ?_
    | with_reducible refine State.resumeTarget_keeps ?_
    | with_reducible refine State.stepTarget_keeps ?_
    | with_reducible refine State.modStall_keeps ?_
    | with_reducible refine State.regRead_keeps ?_
    | with_reducible refine State.regWrite_keeps ?_
    | with_reducible refine State.drawn_keeps ?_
    | split

theorem State.clerkCmd_keeps {s₀ : State} {s : State} {z1 : StallCmd} (h : Keeps s₀ s) :
    Keeps s₀ (State.clerkCmd s z1) := by
  unfold State.clerkCmd
  try dsimp only
  repeat' first
    | with_reducible exact h
    | with_reducible refine State.answer_keeps ?_
    | with_reducible refine State.modBoot_keeps ?_ ?_
    | with_reducible refine State.drawn_keeps ?_
    | exact Nat.le_refl _
    | with_reducible refine Keeps.ite ?_ ?_
    | split

theorem State.targetCmd_keeps {s₀ : State} {s : State} {g : DbgTarget} {c : StallCmd} (h : Keeps s₀ s) :
    Keeps s₀ (State.targetCmd s g c) := by
  unfold State.targetCmd
  try dsimp only
  repeat' first
    | with_reducible exact h
    | with_reducible refine State.answer_keeps ?_
    | with_reducible refine State.stallCmd_keeps ?_
    | with_reducible refine State.clerkCmd_keeps ?_
    | with_reducible refine Keeps.ite ?_ ?_
    | split

theorem execMemRead_keeps {s₀ : State} {addr : BitVec 40} {s : State} (h : Keeps s₀ s) :
    Completes s₀ (execMemRead addr s) := by
  unfold execMemRead
  try dsimp only
  repeat' first
    | with_reducible exact h
    | with_reducible refine State.debugRead_keeps ?_
    | with_reducible refine Completes.next ?_

theorem execMemWrite_keeps {s₀ : State} {addr : BitVec 40} {value : BitVec 128} {s : State} (h : Keeps s₀ s) :
    Completes s₀ (execMemWrite addr value s) := by
  unfold execMemWrite
  try dsimp only
  repeat' first
    | with_reducible exact h
    | with_reducible refine State.debugWrite_keeps ?_
    | with_reducible refine Completes.next ?_

theorem execHalt_keeps {s₀ : State} {g : DbgTarget} {s : State} (h : Keeps s₀ s) :
    Completes s₀ (execHalt g s) := by
  unfold execHalt
  try dsimp only
  repeat' first
    | with_reducible exact h
    | with_reducible refine State.targetCmd_keeps ?_
    | with_reducible refine Completes.next ?_

theorem execResume_keeps {s₀ : State} {g : DbgTarget} {s : State} (h : Keeps s₀ s) :
    Completes s₀ (execResume g s) := by
  unfold execResume
  try dsimp only
  repeat' first
    | with_reducible exact h
    | with_reducible refine State.targetCmd_keeps ?_
    | with_reducible refine Completes.next ?_

theorem execStep_keeps {s₀ : State} {t : StallId} {s : State} (h : Keeps s₀ s) :
    Completes s₀ (execStep t s) := by
  unfold execStep
  try dsimp only
  repeat' first
    | with_reducible exact h
    | with_reducible refine State.targetCmd_keeps ?_
    | with_reducible refine Completes.next ?_

theorem execBpSet_keeps {s₀ : State} {t : StallId} {k : Fin 4} {pc : BitVec 13} {s : State} (h : Keeps s₀ s) :
    Completes s₀ (execBpSet t k pc s) := by
  unfold execBpSet
  try dsimp only
  repeat' first
    | with_reducible exact h
    | with_reducible refine State.targetCmd_keeps ?_
    | with_reducible refine Completes.next ?_

theorem execBpClear_keeps {s₀ : State} {t : StallId} {k : Fin 4} {s : State} (h : Keeps s₀ s) :
    Completes s₀ (execBpClear t k s) := by
  unfold execBpClear
  try dsimp only
  repeat' first
    | with_reducible exact h
    | with_reducible refine State.targetCmd_keeps ?_
    | with_reducible refine Completes.next ?_

theorem execWatchSet_keeps {s₀ : State} {t : StallId} {k : Fin 2} {addr : BitVec 18} {rd : Bool} {wr : Bool} {s : State} (h : Keeps s₀ s) :
    Completes s₀ (execWatchSet t k addr rd wr s) := by
  unfold execWatchSet
  try dsimp only
  repeat' first
    | with_reducible exact h
    | with_reducible refine State.targetCmd_keeps ?_
    | with_reducible refine Completes.next ?_

theorem execRegRead_keeps {s₀ : State} {t : StallId} {file : BitVec 8} {index : BitVec 8} {s : State} (h : Keeps s₀ s) :
    Completes s₀ (execRegRead t file index s) := by
  unfold execRegRead
  try dsimp only
  repeat' first
    | with_reducible exact h
    | with_reducible refine State.targetCmd_keeps ?_
    | with_reducible refine Completes.next ?_

theorem execRegWrite_keeps {s₀ : State} {t : StallId} {file : BitVec 8} {index : BitVec 8} {value : BitVec 128} {s : State} (h : Keeps s₀ s) :
    Completes s₀ (execRegWrite t file index value s) := by
  unfold execRegWrite
  try dsimp only
  repeat' first
    | with_reducible exact h
    | with_reducible refine State.targetCmd_keeps ?_
    | with_reducible refine Completes.next ?_

theorem execStatus_keeps {s₀ : State} {g : DbgTarget} {s : State} (h : Keeps s₀ s) :
    Completes s₀ (execStatus g s) := by
  unfold execStatus
  try dsimp only
  repeat' first
    | with_reducible exact h
    | with_reducible refine State.targetCmd_keeps ?_
    | with_reducible refine Completes.next ?_

theorem execDbgreg_keeps {s₀ : State} {cmd : BitVec 8} {target : BitVec 8} {arg : BitVec 40} {data : BitVec 128} {s : State} (h : Keeps s₀ s) :
    Completes s₀ (execDbgreg cmd target arg data s) := by
  unfold execDbgreg
  try dsimp only
  repeat' first
    | with_reducible exact h
    | with_reducible refine State.selectTap_keeps ?_
    | with_reducible refine State.answer_keeps ?_
    | with_reducible refine State.debugRead_keeps ?_
    | with_reducible refine State.debugWrite_keeps ?_
    | with_reducible refine State.targetCmd_keeps ?_
    | with_reducible refine Completes.next ?_
    | with_reducible refine Keeps.ite ?_ ?_
    | split

end Sys2Proof.Machine
end

