-- ==== Sys2Proof/Laws/Objs.lean ====
section
/-! SUPPORT. What the operations of Machine/Objs.lean keep, one lemma each (Keeps, Completes: Laws/Keeps.lean). -/

/- One declaration after another: side by side they would need more memory. -/
set_option Elab.async false

namespace Sys2Proof.Machine

theorem State.afterArrayRead_keeps {s₀ : State} {s : State} {key : Nat} (h : Keeps s₀ s) :
    Keeps s₀ (State.afterArrayRead s key) := by
  unfold State.afterArrayRead
  try dsimp only
  repeat' first
    | with_reducible exact h
    | with_reducible refine State.put_keeps ?_
    | with_reducible refine State.clrBit_keeps ?_
    | with_reducible refine Keeps.ite ?_ ?_

theorem State.afterRead_keeps {s₀ : State} {s : State} {x : Session} {key : Nat} (h : Keeps s₀ s) :
    Keeps s₀ (State.afterRead s x key) := by
  unfold State.afterRead
  try dsimp only
  repeat' first
    | with_reducible exact h
    | with_reducible refine State.put_keeps ?_
    | with_reducible refine State.restartTMax_keeps ?_
    | with_reducible refine State.modSession_keeps ?_
    | with_reducible refine State.drawn_keeps ?_
    | with_reducible refine State.afterArrayRead_keeps ?_
    | with_reducible refine Keeps.ite ?_ ?_
    | (fail_if_no_progress with_reducible refine Keeps.mk_same ?_ rfl)
    | split

theorem State.readFor_keeps {s₀ : State} {s : State} {x : Session} {idx : Nat} {sub : Nat} {staged : Bool} (h : Keeps s₀ s) :
    Keeps s₀ (State.readFor s x idx sub staged).1 := by
  unfold State.readFor
  try dsimp only
  repeat' first
    | with_reducible exact h
    | with_reducible refine State.afterRead_keeps ?_
    | with_reducible refine Keeps.ite_fst ?_ ?_
    | split

theorem State.readMsg_keeps {s₀ : State} {s : State} {r : Req} {idx : Nat} {sub : Nat} {rflags : Nat} (h : Keeps s₀ s) :
    Keeps s₀ (State.readMsg s r idx sub rflags) := by
  unfold State.readMsg
  try dsimp only
  repeat' first
    | with_reducible refine State.readFor_keeps ?_
    | with_reducible refine State.reply_keeps ?_
    | with_reducible exact gate_stop h (by assumption)
    | with_reducible exact gate_go h (by assumption)
    | split

theorem execReadObj_keeps {s₀ : State} {r : Req} {index : BitVec 16} {sub : BitVec 8} {staged : Bool} {s : State} (h : Keeps s₀ s) :
    Completes s₀ (execReadObj r index sub staged s) := by
  unfold execReadObj
  try dsimp only
  repeat' first
    | with_reducible exact h
    | with_reducible refine State.readMsg_keeps ?_
    | with_reducible refine Completes.next ?_

theorem execEntries_keeps {s₀ : State} {r : Req} {s : State} (h : Keeps s₀ s) :
    Completes s₀ (execEntries r s) := by
  unfold execEntries
  try dsimp only
  repeat' first
    | with_reducible exact h
    | with_reducible refine State.readMsg_keeps ?_
    | with_reducible refine Completes.next ?_

theorem execQueuePeak_keeps {s₀ : State} {r : Req} {n : Port} {s : State} (h : Keeps s₀ s) :
    Completes s₀ (execQueuePeak r n s) := by
  unfold execQueuePeak
  try dsimp only
  repeat' first
    | with_reducible exact h
    | with_reducible refine State.readMsg_keeps ?_
    | with_reducible refine Completes.next ?_

theorem execCompLatMax_keeps {s₀ : State} {r : Req} {s : State} (h : Keeps s₀ s) :
    Completes s₀ (execCompLatMax r s) := by
  unfold execCompLatMax
  try dsimp only
  repeat' first
    | with_reducible exact h
    | with_reducible refine State.readMsg_keeps ?_
    | with_reducible refine Completes.next ?_

theorem execTMax_keeps {s₀ : State} {r : Req} {s : State} (h : Keeps s₀ s) :
    Completes s₀ (execTMax r s) := by
  unfold execTMax
  try dsimp only
  repeat' first
    | with_reducible exact h
    | with_reducible refine State.readMsg_keeps ?_
    | with_reducible refine Completes.next ?_

end Sys2Proof.Machine
end

