-- ==== Sys2Proof/Laws/Write.lean ====
section
/-! SUPPORT. What the operations of Machine/Write.lean keep, one lemma each (Keeps, Completes: Laws/Keeps.lean). -/

/- One declaration after another: side by side they would need more memory. -/
set_option Elab.async false

namespace Sys2Proof.Machine

theorem State.killOther_keeps {s₀ : State} {s : State} {x : Session} {id : Nat} (h : Keeps s₀ s) :
    Keeps s₀ (State.killOther s x id) := by
  unfold State.killOther
  try dsimp only
  repeat' first
    | with_reducible exact h
    | with_reducible refine State.endSession_keeps ?_
    | with_reducible refine Keeps.ite ?_ ?_

theorem State.takeImage_keeps {s₀ : State} {s : State} {g : Fin 16} {l : List Byte} (h : Keeps s₀ s) :
    Keeps s₀ (State.takeImage s g l) := by
  unfold State.takeImage
  try dsimp only
  repeat' first
    | with_reducible exact h
    | with_reducible refine imageEff_keeps ?_
    | with_reducible refine State.journal_keeps ?_
    | with_reducible refine State.sendCommit_keeps ?_
    | with_reducible refine Keeps.ite ?_ ?_

theorem State.portCommand_keeps {s₀ : State} {s : State} {key : Nat} {v : Nat} (h : Keeps s₀ s) :
    Keeps s₀ (State.portCommand s key v) := by
  unfold State.portCommand
  try dsimp only
  repeat' first
    | with_reducible exact h
    | with_reducible refine sendEff_keeps ?_
    | with_reducible refine relearnEff_keeps ?_
    | with_reducible refine releaseEff_keeps ?_
    | with_reducible refine Keeps.ite ?_ ?_

theorem State.command_keeps {s₀ : State} {s : State} {x : Session} {key : Nat} {v : Nat} (h : Keeps s₀ s) :
    Keeps s₀ (State.command s x key v) := by
  unfold State.command
  try dsimp only
  repeat' first
    | with_reducible exact h
    | with_reducible refine calStartEff_keeps ?_
    | with_reducible refine State.calAbort_keeps ?_
    | with_reducible refine repairEff_keeps ?_
    | with_reducible refine State.killOther_keeps ?_
    | with_reducible refine secLabelEff_keeps ?_
    | with_reducible refine encPresetEff_keeps ?_
    | with_reducible refine State.portCommand_keeps ?_
    | with_reducible refine fireGroupEff_keeps ?_
    | with_reducible refine armGroupEff_keeps ?_
    | with_reducible refine yieldEff_keeps ?_
    | with_reducible refine clearShortEff_keeps ?_
    | with_reducible refine confirmEff_keeps ?_
    | with_reducible refine dbgLockEff_keeps ?_
    | with_reducible refine Keeps.ite ?_ ?_
    | split

theorem State.blobCommand_keeps {s₀ : State} {s : State} {key : Nat} {value : List Byte} (h : Keeps s₀ s) :
    Keeps s₀ (State.blobCommand s key value).1 := by
  unfold State.blobCommand
  try dsimp only
  repeat' first
    | with_reducible exact h
    | with_reducible refine State.takeImage_keeps ?_
    | with_reducible refine fwImageEff_keeps ?_
    | with_reducible refine chainImageEff_keeps ?_
    | with_reducible refine Keeps.ite_fst ?_ ?_
    | split

theorem State.afterWrite_keeps {s₀ : State} {s : State} {x : Session} {key : Nat} {v : Nat} (h : Keeps s₀ s) :
    Keeps s₀ (State.afterWrite s x key v) := by
  unfold State.afterWrite
  try dsimp only
  repeat' first
    | with_reducible exact h
    | with_reducible refine State.endSession_keeps ?_
    | with_reducible refine resetEff_keeps ?_
    | with_reducible refine switchEff_keeps ?_
    | with_reducible refine State.zeroizeNow_keeps ?_
    | with_reducible refine Keeps.ite ?_ ?_

theorem State.stage_keeps {s₀ : State} {s : State} {x : Session} {r : Req} {key : Nat} {row : ObjRow} {value : List Byte} (h : Keeps s₀ s) :
    Keeps s₀ (State.stage s x r key row value) := by
  unfold State.stage
  exact Keeps.ite (Keeps.mk_same h rfl) (Keeps.ite (Keeps.mk_same h rfl) (Keeps.mk_staged h (fun r => rfSet_rising r) rfl))

theorem State.clearBits_keeps {s₀ : State} {s : State} {key : Nat} {row : ObjRow} {v : Nat} (h : Keeps s₀ s) :
    Keeps s₀ (State.clearBits s key row v) := by
  unfold State.clearBits
  try dsimp only
  repeat' first
    | with_reducible exact h
    | with_reducible exact fun r => rfSet_rising r
    | with_reducible exact fun r => rising_fold r (fun _ _ k => rfSet_rising k)
    | (fail_if_no_progress with_reducible refine Keeps.mk_same ?_ rfl)
    | (fail_if_no_progress with_reducible refine Keeps.mk_regs ?_ ?_ rfl)

theorem State.writeEff_keeps {s₀ : State} {s : State} {x : Session} {r : Req} {key : Nat} {row : ObjRow} {value : List Byte} (h : Keeps s₀ s) :
    Keeps s₀ (State.writeEff s x r key row value).1 := by
  unfold State.writeEff
  try dsimp only
  repeat' first
    | with_reducible exact h
    | with_reducible refine State.clearBits_keeps ?_
    | with_reducible refine State.stage_keeps ?_
    | with_reducible refine State.modSession_keeps ?_
    | with_reducible refine State.blobCommand_keeps ?_
    | with_reducible refine State.command_keeps ?_
    | with_reducible refine Keeps.ite_fst ?_ ?_

theorem State.storeKey_keeps {s₀ : State} {s : State} {k : Nat} (h : Keeps s₀ s) :
    Keeps s₀ (State.storeKey s k) := by
  unfold State.storeKey
  try dsimp only
  repeat' first
    | with_reducible exact h
    | (fail_if_no_progress with_reducible refine Keeps.mk_same ?_ rfl)
    | split

theorem State.applied_keeps {s₀ : State} {s : State} {idx : Nat} (h : Keeps s₀ s) :
    Keeps s₀ (State.applied s idx) := by
  unfold State.applied
  try dsimp only
  repeat' first
    | with_reducible exact h
    | with_reducible refine State.groupApplied_keeps ?_
    | with_reducible refine State.storeKey_keeps ?_
    | with_reducible refine Keeps.ite ?_ ?_

theorem State.applyFor_keeps {s₀ : State} {s : State} {x : Session} {r : Req} {idx : Nat} (h : Keeps s₀ s) :
    Keeps s₀ (State.applyFor s x r idx).1 := by
  unfold State.applyFor
  try dsimp only
  repeat' first
    | with_reducible exact h
    | with_reducible refine State.judgeSets_keeps ?_
    | with_reducible refine State.applied_keeps ?_
    | with_reducible refine Keeps.ite_fst ?_ ?_
    | (fail_if_no_progress with_reducible refine Keeps.mk_same ?_ rfl)

theorem State.loadStatus_keeps {s₀ : State} {s : State} {key : Nat} {code : Nat} (h : Keeps s₀ s) :
    Keeps s₀ (State.loadStatus s key code) := by
  unfold State.loadStatus
  try dsimp only
  repeat' first
    | with_reducible exact h
    | with_reducible refine State.put_keeps ?_
    | with_reducible refine Keeps.ite ?_ ?_
    | split

theorem State.writeFor_keeps {s₀ : State} {s : State} {x : Session} {r : Req} {idx : Nat} {sub : Nat} {ty : Nat} {value : List Byte} (h : Keeps s₀ s) :
    Keeps s₀ (State.writeFor s x r idx sub ty value).1 := by
  unfold State.writeFor
  try dsimp only
  repeat' first
    | with_reducible exact h
    | with_reducible refine State.loadStatus_keeps ?_
    | with_reducible refine State.applyFor_keeps ?_
    | with_reducible refine State.writeEff_keeps ?_
    | with_reducible refine Keeps.ite_fst ?_ ?_
    | split

theorem State.writeMsg_keeps {s₀ : State} {s : State} {r : Req} {idx : Nat} {sub : Nat} {ty : Nat} {value : List Byte} (h : Keeps s₀ s) :
    Keeps s₀ (State.writeMsg s r idx sub ty value) := by
  unfold State.writeMsg
  try dsimp only
  repeat' first
    | with_reducible refine State.writeFor_keeps ?_
    | with_reducible refine State.reply_keeps ?_
    | with_reducible refine State.afterWrite_keeps ?_
    | with_reducible exact gate_stop h (by assumption)
    | with_reducible exact gate_go h (by assumption)
    | with_reducible refine Keeps.ite ?_ ?_
    | split

theorem State.writeObject_keeps {s₀ : State} {s : State} {r : Req} {idx : Nat} {sub : Nat} {ty : Ty} {v : Nat} (h : Keeps s₀ s) :
    Keeps s₀ (State.writeObject s r idx sub ty v) := by
  unfold State.writeObject
  try dsimp only
  repeat' first
    | with_reducible exact h
    | with_reducible refine State.writeMsg_keeps ?_

theorem execWriteObj_keeps {s₀ : State} {r : Req} {index : BitVec 16} {sub : BitVec 8} {ty : BitVec 8} {value : List Byte} {s : State} (h : Keeps s₀ s) :
    Completes s₀ (execWriteObj r index sub ty value s) := by
  unfold execWriteObj
  try dsimp only
  repeat' first
    | with_reducible exact h
    | with_reducible refine State.writeMsg_keeps ?_
    | with_reducible refine Completes.next ?_

theorem execW1cClear_keeps {s₀ : State} {r : Req} {index : BitVec 16} {sub : BitVec 8} {value : BitVec 32} {s : State} (h : Keeps s₀ s) :
    Completes s₀ (execW1cClear r index sub value s) := by
  unfold execW1cClear
  try dsimp only
  repeat' first
    | with_reducible exact h
    | with_reducible refine State.writeObject_keeps ?_
    | with_reducible refine Completes.next ?_

theorem execApply_keeps {s₀ : State} {r : Req} {index : BitVec 16} {s : State} (h : Keeps s₀ s) :
    Completes s₀ (execApply r index s) := by
  unfold execApply
  try dsimp only
  repeat' first
    | with_reducible exact h
    | with_reducible refine State.writeObject_keeps ?_
    | with_reducible refine Completes.next ?_

theorem execKey_keeps {s₀ : State} {r : Req} {k : Fin 16} {masked : List Byte} {s : State} (h : Keeps s₀ s) :
    Completes s₀ (execKey r k masked s) := by
  unfold execKey
  try dsimp only
  repeat' first
    | with_reducible exact h
    | with_reducible refine State.writeMsg_keeps ?_
    | with_reducible refine Completes.next ?_

theorem execKill_keeps {s₀ : State} {r : Req} {id : BitVec 32} {s : State} (h : Keeps s₀ s) :
    Completes s₀ (execKill r id s) := by
  unfold execKill
  try dsimp only
  repeat' first
    | with_reducible exact h
    | with_reducible refine State.writeObject_keeps ?_
    | with_reducible refine Completes.next ?_

theorem execFromPos_keeps {s₀ : State} {r : Req} {v : BitVec 32} {s : State} (h : Keeps s₀ s) :
    Completes s₀ (execFromPos r v s) := by
  unfold execFromPos
  try dsimp only
  repeat' first
    | with_reducible exact h
    | with_reducible refine State.writeObject_keeps ?_
    | with_reducible refine Completes.next ?_

theorem execSecLabel_keeps {s₀ : State} {r : Req} {v : BitVec 64} {s : State} (h : Keeps s₀ s) :
    Completes s₀ (execSecLabel r v s) := by
  unfold execSecLabel
  try dsimp only
  repeat' first
    | with_reducible exact h
    | with_reducible refine State.writeObject_keeps ?_
    | with_reducible refine Completes.next ?_

theorem execEncPreset_keeps {s₀ : State} {r : Req} {v : BitVec 32} {s : State} (h : Keeps s₀ s) :
    Completes s₀ (execEncPreset r v s) := by
  unfold execEncPreset
  try dsimp only
  repeat' first
    | with_reducible exact h
    | with_reducible refine State.writeObject_keeps ?_
    | with_reducible refine Completes.next ?_

theorem execSend_keeps {s₀ : State} {r : Req} {n : Port} {w : BitVec 32} {s : State} (h : Keeps s₀ s) :
    Completes s₀ (execSend r n w s) := by
  unfold execSend
  try dsimp only
  repeat' first
    | with_reducible exact h
    | with_reducible refine State.writeObject_keeps ?_
    | with_reducible refine Completes.next ?_

theorem execRelearn_keeps {s₀ : State} {r : Req} {n : Port} {v : BitVec 8} {s : State} (h : Keeps s₀ s) :
    Completes s₀ (execRelearn r n v s) := by
  unfold execRelearn
  try dsimp only
  repeat' first
    | with_reducible exact h
    | with_reducible refine State.writeObject_keeps ?_
    | with_reducible refine Completes.next ?_

theorem execRelease_keeps {s₀ : State} {r : Req} {n : Port} {buf : BitVec 8} {s : State} (h : Keeps s₀ s) :
    Completes s₀ (execRelease r n buf s) := by
  unfold execRelease
  try dsimp only
  repeat' first
    | with_reducible exact h
    | with_reducible refine State.writeObject_keeps ?_
    | with_reducible refine Completes.next ?_

theorem execImage_keeps {s₀ : State} {r : Req} {g : Fin 16} {bytes : List Byte} {s : State} (h : Keeps s₀ s) :
    Completes s₀ (execImage r g bytes s) := by
  unfold execImage
  try dsimp only
  repeat' first
    | with_reducible exact h
    | with_reducible refine State.writeMsg_keeps ?_
    | with_reducible refine Completes.next ?_

theorem execFireGroup_keeps {s₀ : State} {r : Req} {v : BitVec 8} {s : State} (h : Keeps s₀ s) :
    Completes s₀ (execFireGroup r v s) := by
  unfold execFireGroup
  try dsimp only
  repeat' first
    | with_reducible exact h
    | with_reducible refine State.writeObject_keeps ?_
    | with_reducible refine Completes.next ?_

theorem execArmGroup_keeps {s₀ : State} {r : Req} {v : BitVec 16} {s : State} (h : Keeps s₀ s) :
    Completes s₀ (execArmGroup r v s) := by
  unfold execArmGroup
  try dsimp only
  repeat' first
    | with_reducible exact h
    | with_reducible refine State.writeObject_keeps ?_
    | with_reducible refine Completes.next ?_

theorem execArmGroupDisarm_keeps {s₀ : State} {r : Req} {v : BitVec 8} {s : State} (h : Keeps s₀ s) :
    Completes s₀ (execArmGroupDisarm r v s) := by
  unfold execArmGroupDisarm
  try dsimp only
  repeat' first
    | with_reducible exact h
    | with_reducible refine State.writeObject_keeps ?_
    | with_reducible refine Completes.next ?_

theorem execRepair_keeps {s₀ : State} {r : Req} {ch : Fin 2} {lane : BitVec 8} {s : State} (h : Keeps s₀ s) :
    Completes s₀ (execRepair r ch lane s) := by
  unfold execRepair
  try dsimp only
  repeat' first
    | with_reducible exact h
    | with_reducible refine State.writeObject_keeps ?_
    | with_reducible refine Completes.next ?_

theorem execYield_keeps {s₀ : State} {r : Req} {v : BitVec 8} {s : State} (h : Keeps s₀ s) :
    Completes s₀ (execYield r v s) := by
  unfold execYield
  try dsimp only
  repeat' first
    | with_reducible exact h
    | with_reducible refine State.writeObject_keeps ?_
    | with_reducible refine Completes.next ?_

theorem execClearShort_keeps {s₀ : State} {r : Req} {mask : BitVec 16} {s : State} (h : Keeps s₀ s) :
    Completes s₀ (execClearShort r mask s) := by
  unfold execClearShort
  try dsimp only
  repeat' first
    | with_reducible exact h
    | with_reducible refine State.writeObject_keeps ?_
    | with_reducible refine Completes.next ?_

theorem execChainImage_keeps {s₀ : State} {r : Req} {bits : List Byte} {s : State} (h : Keeps s₀ s) :
    Completes s₀ (execChainImage r bits s) := by
  unfold execChainImage
  try dsimp only
  repeat' first
    | with_reducible exact h
    | with_reducible refine State.writeMsg_keeps ?_
    | with_reducible refine Completes.next ?_

theorem execCalStart_keeps {s₀ : State} {r : Req} {k : Fin 20} {s : State} (h : Keeps s₀ s) :
    Completes s₀ (execCalStart r k s) := by
  unfold execCalStart
  try dsimp only
  repeat' first
    | with_reducible exact h
    | with_reducible refine State.writeObject_keeps ?_
    | with_reducible refine Completes.next ?_

theorem execCalStop_keeps {s₀ : State} {r : Req} {k : Fin 20} {s : State} (h : Keeps s₀ s) :
    Completes s₀ (execCalStop r k s) := by
  unfold execCalStop
  try dsimp only
  repeat' first
    | with_reducible exact h
    | with_reducible refine State.writeObject_keeps ?_
    | with_reducible refine Completes.next ?_

theorem execReset_keeps {s₀ : State} {r : Req} {v : BitVec 8} {s : State} (h : Keeps s₀ s) :
    Completes s₀ (execReset r v s) := by
  unfold execReset
  try dsimp only
  repeat' first
    | with_reducible exact h
    | with_reducible refine State.writeObject_keeps ?_
    | with_reducible refine Completes.next ?_

theorem execZeroize_keeps {s₀ : State} {r : Req} {v : BitVec 32} {s : State} (h : Keeps s₀ s) :
    Completes s₀ (execZeroize r v s) := by
  unfold execZeroize
  try dsimp only
  repeat' first
    | with_reducible exact h
    | with_reducible refine State.writeObject_keeps ?_
    | with_reducible refine Completes.next ?_

theorem execSwitchLive_keeps {s₀ : State} {r : Req} {s : State} (h : Keeps s₀ s) :
    Completes s₀ (execSwitchLive r s) := by
  unfold execSwitchLive
  try dsimp only
  repeat' first
    | with_reducible exact h
    | with_reducible refine State.writeObject_keeps ?_
    | with_reducible refine Completes.next ?_

theorem execSwitchReset_keeps {s₀ : State} {r : Req} {s : State} (h : Keeps s₀ s) :
    Completes s₀ (execSwitchReset r s) := by
  unfold execSwitchReset
  try dsimp only
  repeat' first
    | with_reducible exact h
    | with_reducible refine State.writeObject_keeps ?_
    | with_reducible refine Completes.next ?_

theorem execConfirm_keeps {s₀ : State} {r : Req} {s : State} (h : Keeps s₀ s) :
    Completes s₀ (execConfirm r s) := by
  unfold execConfirm
  try dsimp only
  repeat' first
    | with_reducible exact h
    | with_reducible refine State.writeObject_keeps ?_
    | with_reducible refine Completes.next ?_

theorem execDbgLock_keeps {s₀ : State} {r : Req} {v : BitVec 8} {s : State} (h : Keeps s₀ s) :
    Completes s₀ (execDbgLock r v s) := by
  unfold execDbgLock
  try dsimp only
  repeat' first
    | with_reducible exact h
    | with_reducible refine State.writeObject_keeps ?_
    | with_reducible refine Completes.next ?_

end Sys2Proof.Machine
end

