-- ==== Sys2Proof/Laws/Segment.lean ====
section
/-! SUPPORT. What the operations of Machine/Segment.lean keep, one lemma each (Keeps, Completes: Laws/Keeps.lean). -/

/- One declaration after another: side by side they would need more memory. -/
set_option Elab.async false

namespace Sys2Proof.Machine

theorem State.modTransfer_keeps {s₀ : State} {s : State} {id : BitVec 32} {f : Transfer → Transfer} (h : Keeps s₀ s) :
    Keeps s₀ (State.modTransfer s id f) := by
  unfold State.modTransfer
  try dsimp only
  repeat' first
    | with_reducible exact h
    | with_reducible refine State.modSession_keeps ?_

theorem State.dropTransfer_keeps {s₀ : State} {s : State} {id : BitVec 32} (h : Keeps s₀ s) :
    Keeps s₀ (State.dropTransfer s id) := by
  unfold State.dropTransfer
  try dsimp only
  repeat' first
    | with_reducible exact h
    | with_reducible refine State.modSession_keeps ?_

theorem State.fwArrives_keeps {s₀ : State} {s : State} {key : Nat} {l : List Byte} (h : Keeps s₀ s) :
    Keeps s₀ (State.fwArrives s key l) := by
  unfold State.fwArrives
  try dsimp only
  repeat' first
    | with_reducible exact h
    | with_reducible refine State.bankFigures_keeps ?_
    | with_reducible refine State.putBank_keeps ?_
    | with_reducible refine Keeps.ite ?_ ?_

theorem State.writeWhole_keeps {s₀ : State} {s : State} {x : Session} {r : Req} {key : Nat} {value : List Byte} (h : Keeps s₀ s) :
    Keeps s₀ (State.writeWhole s x r key value).1 := by
  unfold State.writeWhole
  try dsimp only
  repeat' first
    | with_reducible exact h
    | with_reducible refine State.loadStatus_keeps ?_
    | with_reducible refine State.writeEff_keeps ?_
    | with_reducible refine Keeps.ite_fst ?_ ?_
    | split

theorem State.endTransfer_keeps {s₀ : State} {s : State} {x : Session} {r : Req} {code : Nat} (h : Keeps s₀ s) :
    Keeps s₀ (State.endTransfer s x r code) := by
  unfold State.endTransfer
  try dsimp only
  repeat' first
    | with_reducible exact h
    | with_reducible refine State.reply_keeps ?_
    | with_reducible refine State.dropTransfer_keeps ?_

theorem State.fwDecodeFails_keeps {s₀ : State} {s : State} {key : Nat} (h : Keeps s₀ s) :
    Keeps s₀ (State.fwDecodeFails s key) := by
  unfold State.fwDecodeFails
  try dsimp only
  repeat' first
    | with_reducible exact h
    | with_reducible refine State.put_keeps ?_
    | with_reducible refine Keeps.ite ?_ ?_

theorem State.finishTransfer_keeps {s₀ : State} {s : State} {x : Session} {r : Req} {t : Transfer} (h : Keeps s₀ s) :
    Keeps s₀ (State.finishTransfer s x r t) := by
  unfold State.finishTransfer
  try dsimp only
  repeat' first
    | with_reducible exact h
    | with_reducible refine State.endTransfer_keeps ?_
    | with_reducible refine State.writeWhole_keeps ?_
    | split

theorem State.beginFor_keeps {s₀ : State} {s : State} {x : Session} {idx sub : Nat} {bale : Bool} {total : Nat} (h : Keeps s₀ s) :
    Keeps s₀ (State.beginFor s x idx sub bale total).1 := by
  unfold State.beginFor
  try dsimp only
  repeat' first
    | with_reducible exact h
    | with_reducible refine State.modSession_keeps ?_
    | with_reducible refine State.fwArrives_keeps ?_
    | with_reducible refine Keeps.ite ?_ ?_
    | with_reducible refine Keeps.ite_fst ?_ ?_
    | (fail_if_no_progress with_reducible refine Keeps.mk_same ?_ rfl)
    | split

theorem execSegBegin_keeps {s₀ : State} {r : Req} {index : BitVec 16} {sub : BitVec 8} {bale : Bool} {total : BitVec 32} {s : State} (h : Keeps s₀ s) :
    Completes s₀ (execSegBegin r index sub bale total s) := by
  unfold execSegBegin
  try dsimp only
  repeat' first
    | with_reducible exact h
    | with_reducible refine answered_keeps ?_ ?_
    | with_reducible refine State.beginFor_keeps ?_
    | with_reducible refine Completes.next ?_
    | (intro u a b; try beta_reduce)
    | with_reducible assumption

theorem State.dataFor_keeps {s₀ : State} {s : State} {x : Session} {offset : Nat} {bytes : List Byte} (h : Keeps s₀ s) :
    Keeps s₀ (State.dataFor s x offset bytes).1 := by
  unfold State.dataFor
  try dsimp only
  repeat' first
    | with_reducible exact h
    | with_reducible refine State.modTransfer_keeps ?_
    | with_reducible refine State.fwArrives_keeps ?_
    | with_reducible refine Keeps.ite ?_ ?_
    | with_reducible refine Keeps.ite_fst ?_ ?_
    | (fail_if_no_progress with_reducible refine Keeps.mk_same ?_ rfl)
    | split

theorem execSegData_keeps {s₀ : State} {r : Req} {offset : BitVec 32} {bytes : List Byte} {s : State} (h : Keeps s₀ s) :
    Completes s₀ (execSegData r offset bytes s) := by
  unfold execSegData
  try dsimp only
  repeat' first
    | with_reducible exact h
    | with_reducible refine answered_keeps ?_ ?_
    | with_reducible refine State.dataFor_keeps ?_
    | with_reducible refine Completes.next ?_
    | (intro u a b; try beta_reduce)
    | with_reducible assumption

theorem State.endFor_keeps {s₀ : State} {s : State} {x : Session} {r : Req} {crc : BitVec 32} (h : Keeps s₀ s) :
    Keeps s₀ (State.endFor s x r crc) := by
  unfold State.endFor
  try dsimp only
  repeat' first
    | with_reducible exact h
    | with_reducible refine State.reply_keeps ?_
    | with_reducible refine State.endTransfer_keeps ?_
    | with_reducible refine State.modTransfer_keeps ?_
    | with_reducible refine State.finishTransfer_keeps ?_
    | with_reducible refine Keeps.ite ?_ ?_
    | (fail_if_no_progress with_reducible refine Keeps.mk_same ?_ rfl)
    | split

theorem execSegEnd_keeps {s₀ : State} {r : Req} {crc : BitVec 32} {s : State} (h : Keeps s₀ s) :
    Completes s₀ (execSegEnd r crc s) := by
  unfold execSegEnd
  try dsimp only
  repeat' first
    | with_reducible refine State.endFor_keeps ?_
    | with_reducible exact gate_stop h (by assumption)
    | with_reducible exact gate_go h (by assumption)
    | with_reducible refine Completes.next ?_
    | split

theorem State.segReadFor_keeps {s₀ : State} {s : State} {x : Session} {idx : Nat} {sub : Nat} {offset : Nat} {max : Nat} (h : Keeps s₀ s) :
    Keeps s₀ (State.segReadFor s x idx sub offset max).1 := by
  unfold State.segReadFor
  try dsimp only
  repeat' first
    | with_reducible exact h
    | with_reducible refine State.modSession_keeps ?_
    | with_reducible refine State.afterRead_keeps ?_
    | with_reducible refine Keeps.ite_fst ?_ ?_
    | split

theorem execSegRead_keeps {s₀ : State} {r : Req} {index : BitVec 16} {sub : BitVec 8} {offset : BitVec 32} {max : BitVec 16} {s : State} (h : Keeps s₀ s) :
    Completes s₀ (execSegRead r index sub offset max s) := by
  unfold execSegRead
  try dsimp only
  repeat' first
    | with_reducible refine State.segReadFor_keeps ?_
    | with_reducible refine State.reply_keeps ?_
    | with_reducible exact gate_stop h (by assumption)
    | with_reducible exact gate_go h (by assumption)
    | with_reducible refine Completes.next ?_
    | split

theorem execDecodeStart_keeps {s₀ : State} {s : State} (h : Keeps s₀ s) :
    Completes s₀ (execDecodeStart s) := by
  unfold execDecodeStart
  try dsimp only
  repeat' first
    | with_reducible exact h
    | with_reducible refine Completes.next ?_
    | (fail_if_no_progress with_reducible refine Keeps.mk_same ?_ rfl)
    | split

theorem State.countDecode_keeps {s₀ : State} {s : State} {use : Fin 3} {err : Option Nat} (h : Keeps s₀ s) :
    Keeps s₀ (State.countDecode s use err) := by
  unfold State.countDecode
  try dsimp only
  repeat' first
    | with_reducible exact h
    | with_reducible refine State.put_keeps ?_
    | with_reducible refine State.bump_keeps ?_
    | with_reducible refine State.summary_keeps ?_
    | split

theorem State.transferDecoded_keeps {s₀ : State} {s : State} {d : DecodeReq} {out : Except Nat (List Byte)} (h : Keeps s₀ s) :
    Keeps s₀ (State.transferDecoded s d out) := by
  unfold State.transferDecoded
  try dsimp only
  repeat' first
    | with_reducible exact h
    | with_reducible refine State.fwDecodeFails_keeps ?_
    | with_reducible refine State.fwArrives_keeps ?_
    | with_reducible refine State.modTransfer_keeps ?_
    | with_reducible refine State.finishTransfer_keeps ?_
    | with_reducible refine Keeps.ite ?_ ?_
    | (fail_if_no_progress with_reducible refine Keeps.mk_same ?_ rfl)
    | split

theorem State.peerDecoded_keeps {s₀ : State} {s : State} {p : Fin 256 × BitVec 128 × Nat × List (List Byte)} {good : Bool} (h : Keeps s₀ s) :
    Keeps s₀ (State.peerDecoded s p good) := by
  unfold State.peerDecoded
  try dsimp only
  repeat' first
    | with_reducible exact h
    | with_reducible refine State.sendOn_keeps ?_
    | with_reducible refine State.bump_keeps ?_
    | with_reducible refine Keeps.foldl ?_ ?_
    | (intro u a b; try beta_reduce)
    | with_reducible assumption
    | with_reducible refine Keeps.ite ?_ ?_

theorem execDecodeEnd_keeps {s₀ : State} {lane : Fin 8} {s : State} (h : Keeps s₀ s) :
    Completes s₀ (execDecodeEnd lane s) := by
  unfold execDecodeEnd
  try dsimp only
  repeat' first
    | with_reducible exact h
    | with_reducible refine State.peerDecoded_keeps ?_
    | with_reducible refine State.countDecode_keeps ?_
    | with_reducible refine State.transferDecoded_keeps ?_
    | with_reducible refine Completes.next ?_
    | (fail_if_no_progress with_reducible refine Keeps.mk_same ?_ rfl)
    | split

theorem State.peerNumbered_keeps {s₀ : State} {s : State} {stream : Fin 256} {d : List Byte} (h : Keeps s₀ s) :
    Keeps s₀ (State.peerNumbered s stream d) := by
  unfold State.peerNumbered
  try dsimp only
  repeat' first
    | with_reducible exact h
    | with_reducible refine State.add_keeps ?_
    | with_reducible refine Keeps.ite ?_ ?_
    | (fail_if_no_progress with_reducible refine Keeps.mk_same ?_ rfl)

theorem State.peerBale_keeps {s₀ : State} {s : State} {stream : Fin 256} {dest : BitVec 128} {port : BitVec 16} {dgrams : List (List Byte)}
    {clean : Bool} (h : Keeps s₀ s) :
    Keeps s₀ (State.peerBale s stream dest port dgrams clean) := by
  unfold State.peerBale
  try dsimp only
  repeat' first
    | with_reducible exact h
    | with_reducible refine State.peerNumbered_keeps ?_
    | with_reducible refine State.bump_keeps ?_
    | with_reducible refine Keeps.ite ?_ ?_
    | (fail_if_no_progress with_reducible refine Keeps.mk_same ?_ rfl)
    | split

theorem execPeerStreamBale_keeps {s₀ : State} {a : Arrival} {stream : Fin 256} {dest : BitVec 128} {port : BitVec 16}
    {dgrams : List (List Byte)} {s : State} (h : Keeps s₀ s) :
    Completes s₀ (execPeerStreamBale a stream dest port dgrams s) := by
  unfold execPeerStreamBale
  try dsimp only
  repeat' first
    | with_reducible exact h
    | with_reducible refine State.receive_keeps ?_ ?_
    | with_reducible refine State.peerBale_keeps ?_
    | with_reducible refine Completes.next ?_
    | (intro u b; try beta_reduce)
    | with_reducible assumption

end Sys2Proof.Machine
end

