-- ==== Sys2Proof/Laws/Message.lean ====
section
/-! SUPPORT. What the operations of Machine/Message.lean keep, one lemma each (Keeps, Completes: Laws/Keeps.lean). -/

/- One declaration after another: side by side they would need more memory. -/
set_option Elab.async false

namespace Sys2Proof.Machine

theorem State.request_keeps {s₀ : State} {s : State} {r : Req} {op : Nat} {b : List Byte} (h : Keeps s₀ s) :
    Keeps s₀ (State.request s r op b) := by
  unfold State.request
  try dsimp only
  repeat' first
    | with_reducible exact h
    | with_reducible refine execOpenSession_keeps ?_
    | with_reducible refine execAuth_keeps ?_
    | with_reducible refine execCloseSession_keeps ?_
    | with_reducible refine execKeepalive_keeps ?_
    | with_reducible refine execReadObj_keeps ?_
    | with_reducible refine execWriteObj_keeps ?_
    | with_reducible refine execSegBegin_keeps ?_
    | with_reducible refine execSegData_keeps ?_
    | with_reducible refine execSegEnd_keeps ?_
    | with_reducible refine execSegRead_keeps ?_
    | with_reducible refine Completes.nextOf ?_
    | (fail_if_no_progress with_reducible refine Keeps.mk_draw ?_ rfl)
    | split

theorem State.takeMessage_keeps {s₀ : State} {s : State} {p : Path} {msg : List Byte} (h : Keeps s₀ s) :
    Keeps s₀ (State.takeMessage s p msg) := by
  unfold State.takeMessage
  try dsimp only
  repeat' first
    | with_reducible exact h
    | with_reducible refine execMalformedMessage_keeps ?_
    | with_reducible refine State.request_keeps ?_
    | with_reducible refine Keeps.ite ?_ ?_
    | with_reducible refine Completes.nextOf ?_

theorem State.passOn_keeps {s₀ : State} {s : State} {path : Path} {target : BitVec 11} {msg : List Byte} (h : Keeps s₀ s) :
    Keeps s₀ (State.passOn s path target msg) := by
  unfold State.passOn
  try dsimp only
  repeat' first
    | with_reducible exact h
    | with_reducible refine State.takeUp_keeps ?_
    | with_reducible refine State.violate_keeps ?_
    | with_reducible refine State.sendResponse_keeps ?_
    | with_reducible refine State.sendLedger_keeps ?_
    | with_reducible refine Keeps.ite ?_ ?_
    | (fail_if_no_progress with_reducible refine Keeps.mk_same ?_ rfl)

theorem State.forwardTo_keeps {s₀ : State} {s : State} {path : Path} {target : BitVec 11} {msg : List Byte} (h : Keeps s₀ s) :
    Keeps s₀ (State.forwardTo s path target msg) := by
  unfold State.forwardTo
  try dsimp only
  repeat' first
    | with_reducible exact h
    | with_reducible refine State.takeMessage_keeps ?_
    | with_reducible refine State.queueRefusal_keeps ?_
    | with_reducible refine State.passOn_keeps ?_
    | with_reducible refine Keeps.ite ?_ ?_

theorem State.arrived_keeps {s₀ : State} {s : State} {path : Path} {msg : List Byte} (h : Keeps s₀ s) :
    Keeps s₀ (State.arrived s path msg) := by
  unfold State.arrived
  try dsimp only
  repeat' first
    | with_reducible exact h
    | with_reducible refine State.forwardTo_keeps ?_
    | with_reducible refine State.takeMessage_keeps ?_
    | with_reducible refine Keeps.ite ?_ ?_

theorem State.canDiscard_keeps {s₀ : State} {s : State} {chan : Fin 16} (h : Keeps s₀ s) :
    Keeps s₀ (State.canDiscard s chan) := by
  unfold State.canDiscard
  try dsimp only
  repeat' first
    | with_reducible exact h
    | with_reducible refine State.violate_keeps ?_
    | with_reducible refine State.bump_keeps ?_
    | with_reducible refine Keeps.ite ?_ ?_
    | (fail_if_no_progress with_reducible refine Keeps.mk_same ?_ rfl)

theorem State.canJoin_keeps {s₀ : State} {s : State} {chan : Fin 16} {l : List Byte} {count : Nat} {isLast : Bool} (h : Keeps s₀ s) :
    Keeps s₀ (State.canJoin s chan l count isLast) := by
  unfold State.canJoin
  try dsimp only
  repeat' first
    | with_reducible exact h
    | with_reducible refine State.arrived_keeps ?_
    | with_reducible refine Keeps.ite ?_ ?_
    | (fail_if_no_progress with_reducible refine Keeps.mk_same ?_ rfl)

theorem execCanLedgerFrame_keeps {s₀ : State} {id : BitVec 29} {_classical : Bool} {data : List Byte} {s : State} (h : Keeps s₀ s) :
    Completes s₀ (execCanLedgerFrame id _classical data s) := by
  unfold execCanLedgerFrame
  try dsimp only
  repeat' first
    | with_reducible exact h
    | with_reducible refine State.canDiscard_keeps ?_
    | with_reducible refine State.canJoin_keeps ?_
    | with_reducible refine Completes.next ?_
    | with_reducible refine Keeps.ite ?_ ?_
    | split

theorem execCanSegmentTimeout_keeps {s₀ : State} {chan : Fin 16} {s : State} (h : Keeps s₀ s) :
    Completes s₀ (execCanSegmentTimeout chan s) := by
  unfold execCanSegmentTimeout
  try dsimp only
  repeat' first
    | with_reducible exact h
    | with_reducible refine State.canDiscard_keeps ?_
    | with_reducible refine Completes.next ?_
    | with_reducible refine Keeps.ite ?_ ?_

theorem execBusOff_keeps {s₀ : State} {s : State} (h : Keeps s₀ s) :
    Completes s₀ (execBusOff s) := by
  unfold execBusOff
  try dsimp only
  repeat' first
    | with_reducible exact h
    | with_reducible refine State.put_keeps ?_
    | with_reducible refine State.bump_keeps ?_
    | with_reducible refine State.log_keeps ?_
    | with_reducible refine Keeps.ite ?_ ?_
    | with_reducible refine Completes.next ?_
    | (fail_if_no_progress with_reducible refine Keeps.mk_same ?_ rfl)

theorem execBusOffRecovery_keeps {s₀ : State} {s : State} (h : Keeps s₀ s) :
    Completes s₀ (execBusOffRecovery s) := by
  unfold execBusOffRecovery
  try dsimp only
  repeat' first
    | with_reducible exact h
    | with_reducible refine State.put_keeps ?_
    | with_reducible refine State.canFlush_keeps ?_
    | with_reducible refine Keeps.ite ?_ ?_
    | with_reducible refine Completes.next ?_
    | (fail_if_no_progress with_reducible refine Keeps.mk_same ?_ rfl)

theorem execLedgerForward_keeps {s₀ : State} {path : Path} {target : BitVec 11} {msg : List Byte} {s : State} (h : Keeps s₀ s) :
    Completes s₀ (execLedgerForward path target msg s) := by
  unfold execLedgerForward
  try dsimp only
  repeat' first
    | with_reducible exact h
    | with_reducible refine State.forwardTo_keeps ?_
    | with_reducible refine Keeps.ite ?_ ?_
    | with_reducible refine Completes.next ?_

theorem State.answerForward_keeps {s₀ : State} {s : State} {target : BitVec 11} {seq : BitVec 32} {msg : List Byte} (h : Keeps s₀ s) :
    Keeps s₀ (State.answerForward s target seq msg) := by
  unfold State.answerForward
  try dsimp only
  repeat' first
    | with_reducible exact h
    | with_reducible refine State.sendResponse_keeps ?_
    | (fail_if_no_progress with_reducible refine Keeps.mk_same ?_ rfl)
    | split

theorem execForwardResponse_keeps {s₀ : State} {target : BitVec 11} {seq : BitVec 32} {msg : List Byte} {s : State} (h : Keeps s₀ s) :
    Completes s₀ (execForwardResponse target seq msg s) := by
  unfold execForwardResponse
  try dsimp only
  repeat' first
    | with_reducible exact h
    | with_reducible refine State.answerForward_keeps ?_
    | with_reducible refine Completes.next ?_

theorem execForwardTimeout_keeps {s₀ : State} {target : BitVec 11} {seq : BitVec 32} {s : State} (h : Keeps s₀ s) :
    Completes s₀ (execForwardTimeout target seq s) := by
  unfold execForwardTimeout
  try dsimp only
  repeat' first
    | with_reducible exact h
    | with_reducible refine Completes.next ?_
    | (fail_if_no_progress with_reducible refine Keeps.mk_same ?_ rfl)

theorem State.passFrame_keeps {s₀ : State} {s : State} {dest src : BitVec 11} {f : List Byte} {poisoned : List Nat} (h : Keeps s₀ s) :
    Keeps s₀ (State.passFrame s dest src f poisoned) := by
  unfold State.passFrame
  try dsimp only
  repeat' first
    | with_reducible exact h
    | with_reducible refine State.sendTo_keeps ?_
    | with_reducible refine Keeps.ite ?_ ?_

theorem State.messageFrom_keeps {s₀ : State} {s : State} {k : Fin 4} {src : BitVec 11} {l : List Byte} (h : Keeps s₀ s) :
    Keeps s₀ (State.messageFrom s k src l) := by
  unfold State.messageFrom
  try dsimp only
  repeat' first
    | with_reducible exact h
    | with_reducible refine State.answerForward_keeps ?_
    | with_reducible refine State.takeMessage_keeps ?_
    | with_reducible refine Keeps.ite ?_ ?_

theorem State.ledgerFrame_keeps {s₀ : State} {s : State} {k : Fin 4} {src : BitVec 11} {msg : BitVec 32} {isFirst isLast : Bool}
    {words : List Byte} (h : Keeps s₀ s) :
    Keeps s₀ (State.ledgerFrame s k src msg isFirst isLast words) := by
  unfold State.ledgerFrame
  try dsimp only
  repeat' first
    | with_reducible exact h
    | with_reducible refine State.violate_keeps ?_
    | with_reducible refine State.messageFrom_keeps ?_
    | with_reducible refine Keeps.ite ?_ ?_
    | (fail_if_no_progress with_reducible refine Keeps.mk_same ?_ rfl)
    | split

theorem State.joinFrame_keeps {s₀ : State} {s : State} {k : Fin 4} {frame : List Byte} {poisoned : List Nat} (h : Keeps s₀ s) :
    Keeps s₀ (State.joinFrame s k frame poisoned) := by
  unfold State.joinFrame
  try dsimp only
  repeat' first
    | with_reducible exact h
    | with_reducible refine State.passFrame_keeps ?_
    | with_reducible refine State.ledgerFrame_keeps ?_
    | with_reducible refine Keeps.ite ?_ ?_

theorem execForwardedFrame_keeps {s₀ : State} {k : Fin 4} {frame : List Byte} {ce : Nat} {poisoned : List Nat} {s : State} (h : Keeps s₀ s) :
    Completes s₀ (execForwardedFrame k frame ce poisoned s) := by
  unfold execForwardedFrame
  try dsimp only
  repeat' first
    | with_reducible exact h
    | with_reducible refine State.discardFrame_keeps ?_
    | with_reducible refine State.receive_keeps ?_ ?_
    | with_reducible refine State.joinFrame_keeps ?_
    | with_reducible refine Keeps.ite ?_ ?_
    | with_reducible refine Completes.next ?_
    | (intro u b; try beta_reduce)
    | with_reducible assumption

theorem execForwardedFrameTimeout_keeps {s₀ : State} {src : BitVec 11} {msg : BitVec 32} {s : State} (h : Keeps s₀ s) :
    Completes s₀ (execForwardedFrameTimeout src msg s) := by
  unfold execForwardedFrameTimeout
  try dsimp only
  repeat' first
    | with_reducible exact h
    | with_reducible refine State.violate_keeps ?_
    | with_reducible refine Keeps.ite ?_ ?_
    | with_reducible refine Completes.next ?_
    | (fail_if_no_progress with_reducible refine Keeps.mk_same ?_ rfl)

end Sys2Proof.Machine
end

