-- ==== Sys2Proof/Laws/Mirrored.lean ====
section
/-! SUPPORT. What the operations of Machine/Mirrored.lean keep, one lemma each (Keeps, Completes: Laws/Keeps.lean). -/

/- One declaration after another: side by side they would need more memory. -/
set_option Elab.async false

namespace Sys2Proof.Machine

theorem State.takeMirrored_keeps {s₀ : State} {s : State} {m : MirrorCommit} (h : Keeps s₀ s) :
    Keeps s₀ (State.takeMirrored s m) := by
  unfold State.takeMirrored
  try dsimp only
  repeat' first
    | with_reducible exact h
    | with_reducible exact fun r => rfSet_rising r
    | with_reducible exact fun r => rising_fold r (fun _ _ k => rfSet_rising k)
    | (fail_if_no_progress with_reducible refine Keeps.mk_same ?_ rfl)
    | (fail_if_no_progress with_reducible refine Keeps.mk_regs ?_ ?_ rfl)
    | (fail_if_no_progress with_reducible refine Keeps.mk_staged ?_ ?_ rfl)

theorem State.mirroredCommit_keeps {s₀ : State} {s : State} {m : MirrorCommit} (h : Keeps s₀ s) :
    Keeps s₀ (State.mirroredCommit s m) := by
  unfold State.mirroredCommit
  try dsimp only
  repeat' first
    | with_reducible exact h
    | with_reducible refine imageEff_keeps ?_
    | with_reducible refine State.journal_keeps ?_
    | with_reducible refine State.takeMirrored_keeps ?_
    | with_reducible refine State.applied_keeps ?_
    | with_reducible refine Keeps.ite ?_ ?_
    | (fail_if_no_progress with_reducible refine Keeps.mk_same ?_ rfl)
    | split

theorem execMirroredCommit_keeps {s₀ : State} {a : Arrival} {m : MirrorCommit} {s : State} (h : Keeps s₀ s) :
    Completes s₀ (execMirroredCommit a m s) := by
  unfold execMirroredCommit
  try dsimp only
  repeat' first
    | with_reducible exact h
    | with_reducible refine State.receive_keeps ?_ ?_
    | with_reducible refine ifClean_keeps ?_ ?_
    | with_reducible refine State.mirroredCommit_keeps ?_
    | with_reducible refine Completes.next ?_
    | (intro u b; try beta_reduce)
    | with_reducible assumption

theorem execSummaryEntry_keeps {s₀ : State} {key : SummaryKey} {s : State} (h : Keeps s₀ s) :
    Completes s₀ (execSummaryEntry key s) := by
  unfold execSummaryEntry
  try dsimp only
  repeat' first
    | with_reducible exact h
    | with_reducible refine setSummary_keeps ?_
    | with_reducible refine summaryEntry_keeps ?_
    | with_reducible refine Completes.next ?_
    | with_reducible refine Keeps.ite ?_ ?_
    | split

end Sys2Proof.Machine
end

