-- ==== Sys2Proof/Laws/Slots.lean ====
section
/-! SUPPORT. What the operations of Machine/Slots.lean keep, one lemma each (Keeps, Completes: Laws/Keeps.lean). -/

/- One declaration after another: side by side they would need more memory. -/
set_option Elab.async false

namespace Sys2Proof.Machine

theorem State.commitOwn_keeps {s₀ : State} {s : State} {n : Port} (h : Keeps s₀ s) :
    Keeps s₀ (State.commitOwn s n) := by
  unfold State.commitOwn
  try dsimp only
  repeat' first
    | with_reducible exact h
    | with_reducible refine State.commitPort_keeps ?_
    | with_reducible refine Keeps.ite ?_ ?_
    | (fail_if_no_progress with_reducible refine Keeps.mk_same ?_ rfl)

theorem State.passPair_keeps {s₀ : State} {s : State} {n : Port} (h : Keeps s₀ s) :
    Keeps s₀ (State.passPair s n) := by
  unfold State.passPair
  try dsimp only
  repeat' first
    | with_reducible exact h
    | with_reducible refine State.takePort_keeps ?_
    | with_reducible refine State.pairApplied_keeps ?_
    | with_reducible refine Keeps.ite ?_ ?_
    | (fail_if_no_progress with_reducible refine Keeps.mk_same ?_ rfl)

theorem State.commitPair_keeps {s₀ : State} {s : State} {n : Port} (h : Keeps s₀ s) :
    Keeps s₀ (State.commitPair s n) := by
  unfold State.commitPair
  try dsimp only
  repeat' first
    | with_reducible exact h
    | with_reducible refine State.passPair_keeps ?_
    | with_reducible refine State.yieldNow_keeps ?_

theorem State.budgetFlag_keeps {s₀ : State} {s : State} {n : Port} (h : Keeps s₀ s) :
    Keeps s₀ (State.budgetFlag s n) := by
  unfold State.budgetFlag
  try dsimp only
  repeat' first
    | with_reducible exact h
    | with_reducible refine State.putBit_keeps ?_

theorem State.takeOffer_keeps {s₀ : State} {s : State} {n : Port} {slot : SlotPoint} (h : Keeps s₀ s) :
    Keeps s₀ (State.takeOffer s n slot) := by
  unfold State.takeOffer
  try dsimp only
  repeat' first
    | with_reducible exact h
    | with_reducible refine State.modPort_keeps ?_
    | (fail_if_no_progress with_reducible refine Keeps.mk_same ?_ rfl)
    | split

theorem State.calSlot_keeps {s₀ : State} {s : State} {n : Port} {i : SlotInfo} (h : Keeps s₀ s) :
    Keeps s₀ (State.calSlot s n i) := by
  unfold State.calSlot
  try dsimp only
  repeat' first
    | with_reducible exact h
    | with_reducible refine State.calSlotRefused_keeps ?_
    | with_reducible refine State.calShot_keeps ?_
    | with_reducible refine Keeps.ite ?_ ?_

theorem State.refuseSlot_keeps {s₀ : State} {s : State} {n : Port} {i : SlotInfo} {cause : Nat} (h : Keeps s₀ s) :
    Keeps s₀ (State.refuseSlot s n i cause) := by
  unfold State.refuseSlot
  try dsimp only
  repeat' first
    | with_reducible exact h
    | with_reducible refine State.refuseShot_keeps ?_
    | with_reducible refine State.calSlotRefused_keeps ?_
    | with_reducible refine State.calSlot_keeps ?_
    | with_reducible refine Keeps.ite ?_ ?_

theorem State.decideSlot_keeps {s₀ : State} {s : State} {n : Port} {i : SlotInfo} (h : Keeps s₀ s) :
    Keeps s₀ (State.decideSlot s n i) := by
  unfold State.decideSlot
  try dsimp only
  repeat' first
    | with_reducible exact h
    | with_reducible refine State.commitShot_keeps ?_
    | with_reducible refine State.refuseSlot_keeps ?_
    | with_reducible refine Keeps.ite ?_ ?_

theorem State.slotPoint_keeps {s₀ : State} {s : State} {n : Port} {slot : SlotPoint} (h : Keeps s₀ s) :
    Keeps s₀ (State.slotPoint s n slot) := by
  unfold State.slotPoint
  try dsimp only
  repeat' first
    | with_reducible exact h
    | with_reducible refine State.decideSlot_keeps ?_
    | with_reducible refine State.takeOffer_keeps ?_
    | with_reducible refine State.advanceTable_keeps ?_
    | with_reducible refine Keeps.ite ?_ ?_
    | split

theorem execCommitPoint_keeps {s₀ : State} {n : Port} {slot : SlotPoint} {s : State} (h : Keeps s₀ s) :
    Completes s₀ (execCommitPoint n slot s) := by
  unfold execCommitPoint
  try dsimp only
  repeat' first
    | with_reducible exact h
    | with_reducible refine State.takeOffer_keeps ?_
    | with_reducible refine State.slotPoint_keeps ?_
    | with_reducible refine State.budgetFlag_keeps ?_
    | with_reducible refine State.commitOwn_keeps ?_
    | with_reducible refine State.commitPair_keeps ?_
    | with_reducible refine Completes.next ?_
    | with_reducible refine Keeps.ite ?_ ?_

theorem State.commitSources_keeps {s₀ : State} {s : State} (h : Keeps s₀ s) :
    Keeps s₀ (State.commitSources s) := by
  unfold State.commitSources
  try dsimp only
  repeat' first
    | with_reducible exact h
    | with_reducible refine State.commit_keeps ?_
    | with_reducible refine State.ptpRemask_keeps ?_
    | with_reducible refine State.putCorrection_keeps ?_
    | with_reducible refine State.degradedFlag_keeps ?_
    | with_reducible refine Keeps.ite ?_ ?_
    | (fail_if_no_progress with_reducible refine Keeps.mk_same ?_ rfl)

theorem State.clkmonSecond_keeps {s₀ : State} {s : State} (h : Keeps s₀ s) :
    Keeps s₀ (State.clkmonSecond s) := by
  unfold State.clkmonSecond
  try dsimp only
  repeat' first
    | with_reducible exact h
    | with_reducible refine State.emit_keeps ?_
    | with_reducible refine Keeps.ite ?_ ?_
    | (fail_if_no_progress with_reducible refine Keeps.mk_same ?_ rfl)

theorem State.tollUse_keeps {s₀ : State} {s : State} (h : Keeps s₀ s) :
    Keeps s₀ (State.tollUse s) := by
  unfold State.tollUse
  try dsimp only
  repeat' first
    | with_reducible exact h
    | with_reducible refine overAll_keeps ?_ ?_
    | with_reducible refine State.modStream_keeps ?_
    | with_reducible refine State.put_keeps ?_
    | with_reducible refine Keeps.ite ?_ ?_
    | (intro u a b; try beta_reduce)
    | with_reducible assumption

theorem execEpochSecond_keeps {s₀ : State} {s : State} (h : Keeps s₀ s) :
    Completes s₀ (execEpochSecond s) := by
  unfold execEpochSecond
  try dsimp only
  repeat' first
    | with_reducible exact h
    | with_reducible refine State.dueFlag_keeps ?_
    | with_reducible refine State.mirrorRate_keeps ?_
    | with_reducible refine State.tollUse_keeps ?_
    | with_reducible refine State.clkmonSecond_keeps ?_
    | with_reducible refine State.changeSource_keeps ?_
    | with_reducible refine State.commitSources_keeps ?_
    | with_reducible refine Completes.next ?_
    | with_reducible refine Keeps.ite ?_ ?_
    | (fail_if_no_progress with_reducible refine Keeps.mk_same ?_ rfl)

theorem State.releasePlant_keeps {s₀ : State} {s : State} (h : Keeps s₀ s) :
    Keeps s₀ (State.releasePlant s) := by
  unfold State.releasePlant
  try dsimp only
  repeat' first
    | with_reducible exact h
    | with_reducible refine State.plantApplied_keeps ?_
    | with_reducible refine State.sfeCommit_keeps ?_
    | with_reducible refine Keeps.foldl ?_ ?_
    | (intro u a b; try beta_reduce)
    | with_reducible assumption
    | with_reducible refine Keeps.ite ?_ ?_

theorem execCoastExit_keeps {s₀ : State} {s : State} (h : Keeps s₀ s) :
    Completes s₀ (execCoastExit s) := by
  unfold execCoastExit
  try dsimp only
  repeat' first
    | with_reducible exact h
    | with_reducible refine State.coastExit_keeps ?_
    | with_reducible refine State.releasePlant_keeps ?_
    | with_reducible refine Keeps.ite ?_ ?_
    | with_reducible refine Completes.next ?_

theorem execPllLock_keeps {s₀ : State} {s : State} (h : Keeps s₀ s) :
    Completes s₀ (execPllLock s) := by
  unfold execPllLock
  try dsimp only
  repeat' first
    | with_reducible exact h
    | with_reducible refine State.drawn_keeps ?_
    | with_reducible refine State.setBit_keeps ?_
    | with_reducible refine State.leaveCoast_keeps ?_
    | with_reducible refine State.cleanSwitch_keeps ?_
    | with_reducible refine State.releasePlant_keeps ?_
    | with_reducible refine State.lockOn_keeps ?_
    | with_reducible refine State.put_keeps ?_
    | with_reducible refine Keeps.ite ?_ ?_
    | with_reducible refine Completes.next ?_
    | (fail_if_no_progress with_reducible refine Keeps.mk_same ?_ rfl)
    | (fail_if_no_progress with_reducible refine Keeps.mk_draw ?_ rfl)

end Sys2Proof.Machine
end

