-- ==== Sys2Proof/Laws/State.lean ====
section
/-! SUPPORT. The small lemmas of State: what a named update does to each field, and what a register reads after a write. -/

/- One declaration after another: side by side they would need more memory. -/
set_option Elab.async false

namespace Sys2Proof.Machine

/-! ## Registers -/

theorem rf_rfSet_self (l : List (Nat × Nat)) (k v d : Nat) : rf (rfSet l k v) k d = v := by
  induction l with
  | nil => simp [rfSet, rf]
  | cons x r ih =>
    obtain ⟨a, b⟩ := x
    simp only [rfSet]
    split
    · simp [rf]
    · split
      · simp [rf]
      · rename_i h1 h2
        simp [rf, h1, h2, ih]

theorem rf_rfSet_ne (l : List (Nat × Nat)) (k v j d : Nat) (h : k ≠ j) : rf (rfSet l k v) j d = rf l j d := by
  induction l with
  | nil =>
    simp only [rfSet, rf, if_neg h]
    split <;> rfl
  | cons x r ih =>
    obtain ⟨a, b⟩ := x
    simp only [rfSet]
    split
    · rename_i h1
      subst h1
      simp [rf, h]
    · split
      · rename_i h1 h2
        simp only [rf, if_neg h]
        split
        · rename_i h3
          have : a ≠ j := by omega
          have : j < a := by omega
          simp [*]
        · rfl
      · simp [rf, ih]

/-- A register reads what was written, cut to its width. -/
theorem State.u_put_self (s : State) (r : Reg) (v : Nat) : (s.put r v).u r = v % 2 ^ r.width := rf_rfSet_self _ _ _ _

/-- A register with another key reads as before. -/
theorem State.u_put_ne (s : State) (r x : Reg) (v : Nat) (h : r.key ≠ x.key) : (s.put r v).u x = s.u x :=
  rf_rfSet_ne _ _ _ _ _ h

/-- What a register reads after a write. -/
theorem State.u_put (s : State) (r x : Reg) (v : Nat) :
    (s.put r v).u x = if r.key = x.key then v % 2 ^ r.width else s.u x := by
  split
  · rename_i h
    simp only [State.u, State.put, ← h, rf_rfSet_self]
  · rename_i h
    exact State.u_put_ne _ _ _ _ h

theorem State.puti_eq (s : State) (r : Reg) (v : Int) : s.puti r v = s.put r (ofSigned r.width v) := rfl
theorem State.add_eq (s : State) (r : Reg) (n : Nat) : s.add r n = s.put r (counted r (s.u r) n) := rfl
theorem State.bump_eq (s : State) (r : Reg) : s.bump r = s.put r (counted r (s.u r) 1) := rfl
theorem State.putBit_eq (s : State) (r : Reg) (b : Nat) (x : Bool) : s.putBit r b x = s.put r (withBit (s.u r) b x) := rfl
theorem State.setBit_eq (s : State) (r : Reg) (b : Nat) : s.setBit r b = s.putBit r b true := rfl
theorem State.clrBit_eq (s : State) (r : Reg) (b : Nat) : s.clrBit r b = s.putBit r b false := rfl

/-- A counter that has not reached its largest value counts exactly. -/
theorem counted_eq (r : Reg) (v n : Nat) (h : v + n < 2 ^ r.width) : counted r v n = v + n := by simp [counted, h]

/-- A bit word keeps its width. -/
theorem withBit_lt (v b w : Nat) (x : Bool) (hv : v < 2 ^ w) (hb : b < w) : withBit v b x < 2 ^ w := by
  unfold withBit
  split
  · exact hv
  · split
    · rename_i h1 h2
      subst h2
      have h3 : v.testBit b = false := by simpa using h1
      have hm : v / 2 ^ b % 2 = 0 := by
        rw [Nat.testBit_eq_decide_div_mod_eq] at h3
        have := of_decide_eq_false h3
        omega
      obtain ⟨d, rfl⟩ : ∃ d, w = b + 1 + d := ⟨w - (b + 1), by omega⟩
      have e1 : (2 : Nat) ^ (b + 1 + d) = 2 ^ b * (2 * 2 ^ d) := by ring
      rw [e1] at hv ⊢
      have h4 : v / 2 ^ b < 2 * 2 ^ d := Nat.div_lt_of_lt_mul hv
      have h5 : v / 2 ^ b + 2 ≤ 2 * 2 ^ d := by omega
      have h6 : v < 2 ^ b * (v / 2 ^ b + 1) := Nat.lt_mul_div_succ v (Nat.two_pow_pos b)
      calc v + 2 ^ b < 2 ^ b * (v / 2 ^ b + 1) + 2 ^ b := by omega
        _ = 2 ^ b * (v / 2 ^ b + 2) := by ring
        _ ≤ 2 ^ b * (2 * 2 ^ d) := Nat.mul_le_mul_left _ h5
    · exact lt_of_le_of_lt (Nat.sub_le _ _) hv

/-- A written bit reads back. -/
theorem withBit_self (v b : Nat) (x : Bool) : (withBit v b x).testBit b = x := by
  unfold withBit
  by_cases h : v.testBit b = x
  · simp [h]
  · rw [if_neg h]
    cases x
    · rw [if_neg (by decide)]
      have hb : v.testBit b = true := by simpa using h
      have hle : 2 ^ b ≤ v := Nat.ge_two_pow_of_testBit hb
      obtain ⟨w, rfl⟩ : ∃ w, v = w + 2 ^ b := ⟨v - 2 ^ b, by omega⟩
      rw [Nat.add_sub_cancel]
      rw [Nat.add_comm, Nat.testBit_two_pow_add_eq] at hb
      simpa using hb
    · rw [if_pos rfl]
      have hb : v.testBit b = false := by simpa using h
      rw [Nat.add_comm, Nat.testBit_two_pow_add_eq, hb]
      rfl

/-- The other bits stay. -/
theorem withBit_other (v b c : Nat) (x : Bool) (h : b ≠ c) : (withBit v b x).testBit c = v.testBit c := by
  have key : ∀ m : Nat, m / 2 ^ b % 2 = 0 → (m + 2 ^ b).testBit c = m.testBit c := by
    intro m hm
    have e : m = 2 ^ (b+1) * (m / 2 ^ (b+1)) + m % 2 ^ b := by
      have h1 := Nat.div_add_mod m (2^b)
      have h2 : m / 2 ^ (b+1) = m / 2 ^ b / 2 := by rw [pow_succ, Nat.div_div_eq_div_mul]
      have h3 : m / 2 ^ b = 2 * (m / 2 ^ b / 2) := by omega
      rw [h2, pow_succ, mul_assoc, ← h3]; exact h1.symm
    have hr : m % 2 ^ b < 2 ^ b := Nat.mod_lt _ (Nat.two_pow_pos b)
    have hr1 : m % 2 ^ b < 2 ^ (b+1) := by rw [pow_succ]; omega
    have hr2 : m % 2 ^ b + 2 ^ b < 2 ^ (b+1) := by rw [pow_succ]; omega
    rcases Nat.lt_or_gt_of_ne h with g | g
    · conv_lhs => rw [e, Nat.add_assoc, Nat.testBit_two_pow_mul_add _ hr2]
      conv_rhs => rw [e, Nat.testBit_two_pow_mul_add _ hr1]
      have : ¬ c < b + 1 := by omega
      simp [this]
    · rw [Nat.add_comm]; exact Nat.testBit_two_pow_add_gt g m
  unfold withBit
  split
  · rfl
  · rename_i hx
    split
    · rename_i hx1; subst hx1
      apply key
      have : v.testBit b = false := by simpa using hx
      rw [Nat.testBit_eq_decide_div_mod_eq] at this
      have := of_decide_eq_false this
      omega
    · have hb : v.testBit b = true := by cases x <;> simp_all
      have hle : 2 ^ b ≤ v := Nat.ge_two_pow_of_testBit hb
      have h2 := key (v - 2 ^ b) (by
        rw [Nat.testBit_eq_decide_div_mod_eq] at hb
        have h1 := of_decide_eq_true hb
        obtain ⟨w, rfl⟩ : ∃ w, v = w + 2 ^ b := ⟨v - 2 ^ b, by omega⟩
        rw [Nat.add_sub_cancel]
        rw [Nat.add_div_right _ (Nat.two_pow_pos b)] at h1
        omega)
      rw [Nat.sub_add_cancel hle] at h2
      exact h2.symm

theorem withBit_testBit (v b c : Nat) (x : Bool) : (withBit v b x).testBit c = if b = c then x else v.testBit c := by
  split
  · rename_i h
    subst h
    exact withBit_self _ _ _
  · rename_i h
    exact withBit_other _ _ _ _ h

theorem rf_rfSet (l : List (Nat × Nat)) (k v j d : Nat) : rf (rfSet l k v) j d = if k = j then v else rf l j d := by
  split
  · rename_i h
    subst h
    exact rf_rfSet_self _ _ _ _
  · rename_i h
    exact rf_rfSet_ne _ _ _ _ _ h

/-- A bit of a register's width reads as it was put. -/
theorem State.bit_putBit_self (s : State) (r : Reg) (b : Nat) (x : Bool) (h : b < r.width) : (s.putBit r b x).bit r b = x := by
  simp [State.bit, State.putBit, State.u_put_self, Nat.testBit_mod_two_pow, h, withBit_self]

/-- A register with another key keeps its bits. -/
theorem State.bit_put_ne (s : State) (r x : Reg) (v b : Nat) (h : r.key ≠ x.key) : (s.put r v).bit x b = s.bit x b := by
  simp [State.bit, State.u_put_ne _ _ _ _ h]

/-! ## One field per update -/

@[simp] theorem State.put_blobs (s : State) (r : Reg) (v : Nat) : (s.put r v).blobs = s.blobs := rfl
@[simp] theorem State.put_staged (s : State) (r : Reg) (v : Nat) : (s.put r v).staged = s.staged := rfl
@[simp] theorem State.put_stagedBlobs (s : State) (r : Reg) (v : Nat) : (s.put r v).stagedBlobs = s.stagedBlobs := rfl
@[simp] theorem State.put_ep (s : State) (r : Reg) (v : Nat) : (s.put r v).ep = s.ep := rfl
@[simp] theorem State.put_mains (s : State) (r : Reg) (v : Nat) : (s.put r v).mains = s.mains := rfl
@[simp] theorem State.put_enc (s : State) (r : Reg) (v : Nat) : (s.put r v).enc = s.enc := rfl
@[simp] theorem State.put_lsi (s : State) (r : Reg) (v : Nat) : (s.put r v).lsi = s.lsi := rfl
@[simp] theorem State.put_ports (s : State) (r : Reg) (v : Nat) : (s.put r v).ports = s.ports := rfl
@[simp] theorem State.put_pipes (s : State) (r : Reg) (v : Nat) : (s.put r v).pipes = s.pipes := rfl
@[simp] theorem State.put_raman (s : State) (r : Reg) (v : Nat) : (s.put r v).raman = s.raman := rfl
@[simp] theorem State.put_bril (s : State) (r : Reg) (v : Nat) : (s.put r v).bril = s.bril := rfl
@[simp] theorem State.put_stalls (s : State) (r : Reg) (v : Nat) : (s.put r v).stalls = s.stalls := rfl
@[simp] theorem State.put_pitches (s : State) (r : Reg) (v : Nat) : (s.put r v).pitches = s.pitches := rfl
@[simp] theorem State.put_programs (s : State) (r : Reg) (v : Nat) : (s.put r v).programs = s.programs := rfl
@[simp] theorem State.put_array (s : State) (r : Reg) (v : Nat) : (s.put r v).array = s.array := rfl
@[simp] theorem State.put_capture (s : State) (r : Reg) (v : Nat) : (s.put r v).capture = s.capture := rfl
@[simp] theorem State.put_clk (s : State) (r : Reg) (v : Nat) : (s.put r v).clk = s.clk := rfl
@[simp] theorem State.put_units (s : State) (r : Reg) (v : Nat) : (s.put r v).units = s.units := rfl
@[simp] theorem State.put_dram (s : State) (r : Reg) (v : Nat) : (s.put r v).dram = s.dram := rfl
@[simp] theorem State.put_mem (s : State) (r : Reg) (v : Nat) : (s.put r v).mem = s.mem := rfl
@[simp] theorem State.put_poison (s : State) (r : Reg) (v : Nat) : (s.put r v).poison = s.poison := rfl
@[simp] theorem State.put_flips (s : State) (r : Reg) (v : Nat) : (s.put r v).flips = s.flips := rfl
@[simp] theorem State.put_netHeld (s : State) (r : Reg) (v : Nat) : (s.put r v).netHeld = s.netHeld := rfl
@[simp] theorem State.put_eth (s : State) (r : Reg) (v : Nat) : (s.put r v).eth = s.eth := rfl
@[simp] theorem State.put_ptp (s : State) (r : Reg) (v : Nat) : (s.put r v).ptp = s.ptp := rfl
@[simp] theorem State.put_streams (s : State) (r : Reg) (v : Nat) : (s.put r v).streams = s.streams := rfl
@[simp] theorem State.put_bale (s : State) (r : Reg) (v : Nat) : (s.put r v).bale = s.bale := rfl
@[simp] theorem State.put_ledger (s : State) (r : Reg) (v : Nat) : (s.put r v).ledger = s.ledger := rfl
@[simp] theorem State.put_can (s : State) (r : Reg) (v : Nat) : (s.put r v).can = s.can := rfl
@[simp] theorem State.put_book (s : State) (r : Reg) (v : Nat) : (s.put r v).book = s.book := rfl
@[simp] theorem State.put_cal (s : State) (r : Reg) (v : Nat) : (s.put r v).cal = s.cal := rfl
@[simp] theorem State.put_flash (s : State) (r : Reg) (v : Nat) : (s.put r v).flash = s.flash := rfl
@[simp] theorem State.put_tdc (s : State) (r : Reg) (v : Nat) : (s.put r v).tdc = s.tdc := rfl
@[simp] theorem State.put_links (s : State) (r : Reg) (v : Nat) : (s.put r v).links = s.links := rfl
@[simp] theorem State.put_cluster (s : State) (r : Reg) (v : Nat) : (s.put r v).cluster = s.cluster := rfl
@[simp] theorem State.put_twin (s : State) (r : Reg) (v : Nat) : (s.put r v).twin = s.twin := rfl
@[simp] theorem State.put_plant (s : State) (r : Reg) (v : Nat) : (s.put r v).plant = s.plant := rfl
@[simp] theorem State.put_boot (s : State) (r : Reg) (v : Nat) : (s.put r v).boot = s.boot := rfl
@[simp] theorem State.put_out (s : State) (r : Reg) (v : Nat) : (s.put r v).out = s.out := rfl
@[simp] theorem State.put_fresh (s : State) (r : Reg) (v : Nat) : (s.put r v).fresh = s.fresh := rfl
@[simp] theorem State.put_pending (s : State) (r : Reg) (v : Nat) : (s.put r v).pending = s.pending := rfl

@[simp] theorem State.putBlob_regs (s : State) (k : Nat) (v : List Byte) : (s.putBlob k v).regs = s.regs := rfl
@[simp] theorem State.putBlob_staged (s : State) (k : Nat) (v : List Byte) : (s.putBlob k v).staged = s.staged := rfl
@[simp] theorem State.putBlob_stagedBlobs (s : State) (k : Nat) (v : List Byte) : (s.putBlob k v).stagedBlobs = s.stagedBlobs := rfl
@[simp] theorem State.putBlob_ep (s : State) (k : Nat) (v : List Byte) : (s.putBlob k v).ep = s.ep := rfl
@[simp] theorem State.putBlob_mains (s : State) (k : Nat) (v : List Byte) : (s.putBlob k v).mains = s.mains := rfl
@[simp] theorem State.putBlob_enc (s : State) (k : Nat) (v : List Byte) : (s.putBlob k v).enc = s.enc := rfl
@[simp] theorem State.putBlob_lsi (s : State) (k : Nat) (v : List Byte) : (s.putBlob k v).lsi = s.lsi := rfl
@[simp] theorem State.putBlob_ports (s : State) (k : Nat) (v : List Byte) : (s.putBlob k v).ports = s.ports := rfl
@[simp] theorem State.putBlob_pipes (s : State) (k : Nat) (v : List Byte) : (s.putBlob k v).pipes = s.pipes := rfl
@[simp] theorem State.putBlob_raman (s : State) (k : Nat) (v : List Byte) : (s.putBlob k v).raman = s.raman := rfl
@[simp] theorem State.putBlob_bril (s : State) (k : Nat) (v : List Byte) : (s.putBlob k v).bril = s.bril := rfl
@[simp] theorem State.putBlob_stalls (s : State) (k : Nat) (v : List Byte) : (s.putBlob k v).stalls = s.stalls := rfl
@[simp] theorem State.putBlob_pitches (s : State) (k : Nat) (v : List Byte) : (s.putBlob k v).pitches = s.pitches := rfl
@[simp] theorem State.putBlob_programs (s : State) (k : Nat) (v : List Byte) : (s.putBlob k v).programs = s.programs := rfl
@[simp] theorem State.putBlob_array (s : State) (k : Nat) (v : List Byte) : (s.putBlob k v).array = s.array := rfl
@[simp] theorem State.putBlob_capture (s : State) (k : Nat) (v : List Byte) : (s.putBlob k v).capture = s.capture := rfl
@[simp] theorem State.putBlob_clk (s : State) (k : Nat) (v : List Byte) : (s.putBlob k v).clk = s.clk := rfl
@[simp] theorem State.putBlob_units (s : State) (k : Nat) (v : List Byte) : (s.putBlob k v).units = s.units := rfl
@[simp] theorem State.putBlob_dram (s : State) (k : Nat) (v : List Byte) : (s.putBlob k v).dram = s.dram := rfl
@[simp] theorem State.putBlob_mem (s : State) (k : Nat) (v : List Byte) : (s.putBlob k v).mem = s.mem := rfl
@[simp] theorem State.putBlob_poison (s : State) (k : Nat) (v : List Byte) : (s.putBlob k v).poison = s.poison := rfl
@[simp] theorem State.putBlob_flips (s : State) (k : Nat) (v : List Byte) : (s.putBlob k v).flips = s.flips := rfl
@[simp] theorem State.putBlob_netHeld (s : State) (k : Nat) (v : List Byte) : (s.putBlob k v).netHeld = s.netHeld := rfl
@[simp] theorem State.putBlob_eth (s : State) (k : Nat) (v : List Byte) : (s.putBlob k v).eth = s.eth := rfl
@[simp] theorem State.putBlob_ptp (s : State) (k : Nat) (v : List Byte) : (s.putBlob k v).ptp = s.ptp := rfl
@[simp] theorem State.putBlob_streams (s : State) (k : Nat) (v : List Byte) : (s.putBlob k v).streams = s.streams := rfl
@[simp] theorem State.putBlob_bale (s : State) (k : Nat) (v : List Byte) : (s.putBlob k v).bale = s.bale := rfl
@[simp] theorem State.putBlob_ledger (s : State) (k : Nat) (v : List Byte) : (s.putBlob k v).ledger = s.ledger := rfl
@[simp] theorem State.putBlob_can (s : State) (k : Nat) (v : List Byte) : (s.putBlob k v).can = s.can := rfl
@[simp] theorem State.putBlob_book (s : State) (k : Nat) (v : List Byte) : (s.putBlob k v).book = s.book := rfl
@[simp] theorem State.putBlob_cal (s : State) (k : Nat) (v : List Byte) : (s.putBlob k v).cal = s.cal := rfl
@[simp] theorem State.putBlob_flash (s : State) (k : Nat) (v : List Byte) : (s.putBlob k v).flash = s.flash := rfl
@[simp] theorem State.putBlob_tdc (s : State) (k : Nat) (v : List Byte) : (s.putBlob k v).tdc = s.tdc := rfl
@[simp] theorem State.putBlob_links (s : State) (k : Nat) (v : List Byte) : (s.putBlob k v).links = s.links := rfl
@[simp] theorem State.putBlob_cluster (s : State) (k : Nat) (v : List Byte) : (s.putBlob k v).cluster = s.cluster := rfl
@[simp] theorem State.putBlob_twin (s : State) (k : Nat) (v : List Byte) : (s.putBlob k v).twin = s.twin := rfl
@[simp] theorem State.putBlob_plant (s : State) (k : Nat) (v : List Byte) : (s.putBlob k v).plant = s.plant := rfl
@[simp] theorem State.putBlob_boot (s : State) (k : Nat) (v : List Byte) : (s.putBlob k v).boot = s.boot := rfl
@[simp] theorem State.putBlob_out (s : State) (k : Nat) (v : List Byte) : (s.putBlob k v).out = s.out := rfl
@[simp] theorem State.putBlob_fresh (s : State) (k : Nat) (v : List Byte) : (s.putBlob k v).fresh = s.fresh := rfl
@[simp] theorem State.putBlob_pending (s : State) (k : Nat) (v : List Byte) : (s.putBlob k v).pending = s.pending := rfl

@[simp] theorem State.emit_regs (s : State) (o : Out) : (s.emit o).regs = s.regs := rfl
@[simp] theorem State.emit_blobs (s : State) (o : Out) : (s.emit o).blobs = s.blobs := rfl
@[simp] theorem State.emit_staged (s : State) (o : Out) : (s.emit o).staged = s.staged := rfl
@[simp] theorem State.emit_stagedBlobs (s : State) (o : Out) : (s.emit o).stagedBlobs = s.stagedBlobs := rfl
@[simp] theorem State.emit_ep (s : State) (o : Out) : (s.emit o).ep = s.ep := rfl
@[simp] theorem State.emit_mains (s : State) (o : Out) : (s.emit o).mains = s.mains := rfl
@[simp] theorem State.emit_enc (s : State) (o : Out) : (s.emit o).enc = s.enc := rfl
@[simp] theorem State.emit_lsi (s : State) (o : Out) : (s.emit o).lsi = s.lsi := rfl
@[simp] theorem State.emit_ports (s : State) (o : Out) : (s.emit o).ports = s.ports := rfl
@[simp] theorem State.emit_pipes (s : State) (o : Out) : (s.emit o).pipes = s.pipes := rfl
@[simp] theorem State.emit_raman (s : State) (o : Out) : (s.emit o).raman = s.raman := rfl
@[simp] theorem State.emit_bril (s : State) (o : Out) : (s.emit o).bril = s.bril := rfl
@[simp] theorem State.emit_stalls (s : State) (o : Out) : (s.emit o).stalls = s.stalls := rfl
@[simp] theorem State.emit_pitches (s : State) (o : Out) : (s.emit o).pitches = s.pitches := rfl
@[simp] theorem State.emit_programs (s : State) (o : Out) : (s.emit o).programs = s.programs := rfl
@[simp] theorem State.emit_array (s : State) (o : Out) : (s.emit o).array = s.array := rfl
@[simp] theorem State.emit_capture (s : State) (o : Out) : (s.emit o).capture = s.capture := rfl
@[simp] theorem State.emit_clk (s : State) (o : Out) : (s.emit o).clk = s.clk := rfl
@[simp] theorem State.emit_units (s : State) (o : Out) : (s.emit o).units = s.units := rfl
@[simp] theorem State.emit_dram (s : State) (o : Out) : (s.emit o).dram = s.dram := rfl
@[simp] theorem State.emit_mem (s : State) (o : Out) : (s.emit o).mem = s.mem := rfl
@[simp] theorem State.emit_poison (s : State) (o : Out) : (s.emit o).poison = s.poison := rfl
@[simp] theorem State.emit_flips (s : State) (o : Out) : (s.emit o).flips = s.flips := rfl
@[simp] theorem State.emit_netHeld (s : State) (o : Out) : (s.emit o).netHeld = s.netHeld := rfl
@[simp] theorem State.emit_eth (s : State) (o : Out) : (s.emit o).eth = s.eth := rfl
@[simp] theorem State.emit_ptp (s : State) (o : Out) : (s.emit o).ptp = s.ptp := rfl
@[simp] theorem State.emit_streams (s : State) (o : Out) : (s.emit o).streams = s.streams := rfl
@[simp] theorem State.emit_bale (s : State) (o : Out) : (s.emit o).bale = s.bale := rfl
@[simp] theorem State.emit_ledger (s : State) (o : Out) : (s.emit o).ledger = s.ledger := rfl
@[simp] theorem State.emit_can (s : State) (o : Out) : (s.emit o).can = s.can := rfl
@[simp] theorem State.emit_book (s : State) (o : Out) : (s.emit o).book = s.book := rfl
@[simp] theorem State.emit_cal (s : State) (o : Out) : (s.emit o).cal = s.cal := rfl
@[simp] theorem State.emit_flash (s : State) (o : Out) : (s.emit o).flash = s.flash := rfl
@[simp] theorem State.emit_tdc (s : State) (o : Out) : (s.emit o).tdc = s.tdc := rfl
@[simp] theorem State.emit_links (s : State) (o : Out) : (s.emit o).links = s.links := rfl
@[simp] theorem State.emit_cluster (s : State) (o : Out) : (s.emit o).cluster = s.cluster := rfl
@[simp] theorem State.emit_twin (s : State) (o : Out) : (s.emit o).twin = s.twin := rfl
@[simp] theorem State.emit_plant (s : State) (o : Out) : (s.emit o).plant = s.plant := rfl
@[simp] theorem State.emit_boot (s : State) (o : Out) : (s.emit o).boot = s.boot := rfl
@[simp] theorem State.emit_fresh (s : State) (o : Out) : (s.emit o).fresh = s.fresh := rfl
@[simp] theorem State.emit_pending (s : State) (o : Out) : (s.emit o).pending = s.pending := rfl

@[simp] theorem State.drawn_regs (s : State) : (s.drawn).regs = s.regs := rfl
@[simp] theorem State.drawn_blobs (s : State) : (s.drawn).blobs = s.blobs := rfl
@[simp] theorem State.drawn_staged (s : State) : (s.drawn).staged = s.staged := rfl
@[simp] theorem State.drawn_stagedBlobs (s : State) : (s.drawn).stagedBlobs = s.stagedBlobs := rfl
@[simp] theorem State.drawn_ep (s : State) : (s.drawn).ep = s.ep := rfl
@[simp] theorem State.drawn_mains (s : State) : (s.drawn).mains = s.mains := rfl
@[simp] theorem State.drawn_enc (s : State) : (s.drawn).enc = s.enc := rfl
@[simp] theorem State.drawn_lsi (s : State) : (s.drawn).lsi = s.lsi := rfl
@[simp] theorem State.drawn_ports (s : State) : (s.drawn).ports = s.ports := rfl
@[simp] theorem State.drawn_pipes (s : State) : (s.drawn).pipes = s.pipes := rfl
@[simp] theorem State.drawn_raman (s : State) : (s.drawn).raman = s.raman := rfl
@[simp] theorem State.drawn_bril (s : State) : (s.drawn).bril = s.bril := rfl
@[simp] theorem State.drawn_stalls (s : State) : (s.drawn).stalls = s.stalls := rfl
@[simp] theorem State.drawn_pitches (s : State) : (s.drawn).pitches = s.pitches := rfl
@[simp] theorem State.drawn_programs (s : State) : (s.drawn).programs = s.programs := rfl
@[simp] theorem State.drawn_array (s : State) : (s.drawn).array = s.array := rfl
@[simp] theorem State.drawn_capture (s : State) : (s.drawn).capture = s.capture := rfl
@[simp] theorem State.drawn_clk (s : State) : (s.drawn).clk = s.clk := rfl
@[simp] theorem State.drawn_units (s : State) : (s.drawn).units = s.units := rfl
@[simp] theorem State.drawn_dram (s : State) : (s.drawn).dram = s.dram := rfl
@[simp] theorem State.drawn_mem (s : State) : (s.drawn).mem = s.mem := rfl
@[simp] theorem State.drawn_poison (s : State) : (s.drawn).poison = s.poison := rfl
@[simp] theorem State.drawn_flips (s : State) : (s.drawn).flips = s.flips := rfl
@[simp] theorem State.drawn_netHeld (s : State) : (s.drawn).netHeld = s.netHeld := rfl
@[simp] theorem State.drawn_eth (s : State) : (s.drawn).eth = s.eth := rfl
@[simp] theorem State.drawn_ptp (s : State) : (s.drawn).ptp = s.ptp := rfl
@[simp] theorem State.drawn_streams (s : State) : (s.drawn).streams = s.streams := rfl
@[simp] theorem State.drawn_bale (s : State) : (s.drawn).bale = s.bale := rfl
@[simp] theorem State.drawn_ledger (s : State) : (s.drawn).ledger = s.ledger := rfl
@[simp] theorem State.drawn_can (s : State) : (s.drawn).can = s.can := rfl
@[simp] theorem State.drawn_book (s : State) : (s.drawn).book = s.book := rfl
@[simp] theorem State.drawn_cal (s : State) : (s.drawn).cal = s.cal := rfl
@[simp] theorem State.drawn_flash (s : State) : (s.drawn).flash = s.flash := rfl
@[simp] theorem State.drawn_tdc (s : State) : (s.drawn).tdc = s.tdc := rfl
@[simp] theorem State.drawn_links (s : State) : (s.drawn).links = s.links := rfl
@[simp] theorem State.drawn_cluster (s : State) : (s.drawn).cluster = s.cluster := rfl
@[simp] theorem State.drawn_twin (s : State) : (s.drawn).twin = s.twin := rfl
@[simp] theorem State.drawn_plant (s : State) : (s.drawn).plant = s.plant := rfl
@[simp] theorem State.drawn_boot (s : State) : (s.drawn).boot = s.boot := rfl
@[simp] theorem State.drawn_out (s : State) : (s.drawn).out = s.out := rfl
@[simp] theorem State.drawn_pending (s : State) : (s.drawn).pending = s.pending := rfl

@[simp] theorem State.modPort_regs (s : State) (n : Port) (f : FibrePort → FibrePort) : (s.modPort n f).regs = s.regs := rfl
@[simp] theorem State.modPort_blobs (s : State) (n : Port) (f : FibrePort → FibrePort) : (s.modPort n f).blobs = s.blobs := rfl
@[simp] theorem State.modPort_staged (s : State) (n : Port) (f : FibrePort → FibrePort) : (s.modPort n f).staged = s.staged := rfl
@[simp] theorem State.modPort_stagedBlobs (s : State) (n : Port) (f : FibrePort → FibrePort) : (s.modPort n f).stagedBlobs = s.stagedBlobs := rfl
@[simp] theorem State.modPort_ep (s : State) (n : Port) (f : FibrePort → FibrePort) : (s.modPort n f).ep = s.ep := rfl
@[simp] theorem State.modPort_mains (s : State) (n : Port) (f : FibrePort → FibrePort) : (s.modPort n f).mains = s.mains := rfl
@[simp] theorem State.modPort_enc (s : State) (n : Port) (f : FibrePort → FibrePort) : (s.modPort n f).enc = s.enc := rfl
@[simp] theorem State.modPort_lsi (s : State) (n : Port) (f : FibrePort → FibrePort) : (s.modPort n f).lsi = s.lsi := rfl
@[simp] theorem State.modPort_pipes (s : State) (n : Port) (f : FibrePort → FibrePort) : (s.modPort n f).pipes = s.pipes := rfl
@[simp] theorem State.modPort_raman (s : State) (n : Port) (f : FibrePort → FibrePort) : (s.modPort n f).raman = s.raman := rfl
@[simp] theorem State.modPort_bril (s : State) (n : Port) (f : FibrePort → FibrePort) : (s.modPort n f).bril = s.bril := rfl
@[simp] theorem State.modPort_stalls (s : State) (n : Port) (f : FibrePort → FibrePort) : (s.modPort n f).stalls = s.stalls := rfl
@[simp] theorem State.modPort_pitches (s : State) (n : Port) (f : FibrePort → FibrePort) : (s.modPort n f).pitches = s.pitches := rfl
@[simp] theorem State.modPort_programs (s : State) (n : Port) (f : FibrePort → FibrePort) : (s.modPort n f).programs = s.programs := rfl
@[simp] theorem State.modPort_array (s : State) (n : Port) (f : FibrePort → FibrePort) : (s.modPort n f).array = s.array := rfl
@[simp] theorem State.modPort_capture (s : State) (n : Port) (f : FibrePort → FibrePort) : (s.modPort n f).capture = s.capture := rfl
@[simp] theorem State.modPort_clk (s : State) (n : Port) (f : FibrePort → FibrePort) : (s.modPort n f).clk = s.clk := rfl
@[simp] theorem State.modPort_units (s : State) (n : Port) (f : FibrePort → FibrePort) : (s.modPort n f).units = s.units := rfl
@[simp] theorem State.modPort_dram (s : State) (n : Port) (f : FibrePort → FibrePort) : (s.modPort n f).dram = s.dram := rfl
@[simp] theorem State.modPort_mem (s : State) (n : Port) (f : FibrePort → FibrePort) : (s.modPort n f).mem = s.mem := rfl
@[simp] theorem State.modPort_poison (s : State) (n : Port) (f : FibrePort → FibrePort) : (s.modPort n f).poison = s.poison := rfl
@[simp] theorem State.modPort_flips (s : State) (n : Port) (f : FibrePort → FibrePort) : (s.modPort n f).flips = s.flips := rfl
@[simp] theorem State.modPort_netHeld (s : State) (n : Port) (f : FibrePort → FibrePort) : (s.modPort n f).netHeld = s.netHeld := rfl
@[simp] theorem State.modPort_eth (s : State) (n : Port) (f : FibrePort → FibrePort) : (s.modPort n f).eth = s.eth := rfl
@[simp] theorem State.modPort_ptp (s : State) (n : Port) (f : FibrePort → FibrePort) : (s.modPort n f).ptp = s.ptp := rfl
@[simp] theorem State.modPort_streams (s : State) (n : Port) (f : FibrePort → FibrePort) : (s.modPort n f).streams = s.streams := rfl
@[simp] theorem State.modPort_bale (s : State) (n : Port) (f : FibrePort → FibrePort) : (s.modPort n f).bale = s.bale := rfl
@[simp] theorem State.modPort_ledger (s : State) (n : Port) (f : FibrePort → FibrePort) : (s.modPort n f).ledger = s.ledger := rfl
@[simp] theorem State.modPort_can (s : State) (n : Port) (f : FibrePort → FibrePort) : (s.modPort n f).can = s.can := rfl
@[simp] theorem State.modPort_book (s : State) (n : Port) (f : FibrePort → FibrePort) : (s.modPort n f).book = s.book := rfl
@[simp] theorem State.modPort_cal (s : State) (n : Port) (f : FibrePort → FibrePort) : (s.modPort n f).cal = s.cal := rfl
@[simp] theorem State.modPort_flash (s : State) (n : Port) (f : FibrePort → FibrePort) : (s.modPort n f).flash = s.flash := rfl
@[simp] theorem State.modPort_tdc (s : State) (n : Port) (f : FibrePort → FibrePort) : (s.modPort n f).tdc = s.tdc := rfl
@[simp] theorem State.modPort_links (s : State) (n : Port) (f : FibrePort → FibrePort) : (s.modPort n f).links = s.links := rfl
@[simp] theorem State.modPort_cluster (s : State) (n : Port) (f : FibrePort → FibrePort) : (s.modPort n f).cluster = s.cluster := rfl
@[simp] theorem State.modPort_twin (s : State) (n : Port) (f : FibrePort → FibrePort) : (s.modPort n f).twin = s.twin := rfl
@[simp] theorem State.modPort_plant (s : State) (n : Port) (f : FibrePort → FibrePort) : (s.modPort n f).plant = s.plant := rfl
@[simp] theorem State.modPort_boot (s : State) (n : Port) (f : FibrePort → FibrePort) : (s.modPort n f).boot = s.boot := rfl
@[simp] theorem State.modPort_out (s : State) (n : Port) (f : FibrePort → FibrePort) : (s.modPort n f).out = s.out := rfl
@[simp] theorem State.modPort_fresh (s : State) (n : Port) (f : FibrePort → FibrePort) : (s.modPort n f).fresh = s.fresh := rfl
@[simp] theorem State.modPort_pending (s : State) (n : Port) (f : FibrePort → FibrePort) : (s.modPort n f).pending = s.pending := rfl

@[simp] theorem State.modPipe_regs (s : State) (n : Port) (f : PipePart → PipePart) : (s.modPipe n f).regs = s.regs := rfl
@[simp] theorem State.modPipe_blobs (s : State) (n : Port) (f : PipePart → PipePart) : (s.modPipe n f).blobs = s.blobs := rfl
@[simp] theorem State.modPipe_staged (s : State) (n : Port) (f : PipePart → PipePart) : (s.modPipe n f).staged = s.staged := rfl
@[simp] theorem State.modPipe_stagedBlobs (s : State) (n : Port) (f : PipePart → PipePart) : (s.modPipe n f).stagedBlobs = s.stagedBlobs := rfl
@[simp] theorem State.modPipe_ep (s : State) (n : Port) (f : PipePart → PipePart) : (s.modPipe n f).ep = s.ep := rfl
@[simp] theorem State.modPipe_mains (s : State) (n : Port) (f : PipePart → PipePart) : (s.modPipe n f).mains = s.mains := rfl
@[simp] theorem State.modPipe_enc (s : State) (n : Port) (f : PipePart → PipePart) : (s.modPipe n f).enc = s.enc := rfl
@[simp] theorem State.modPipe_lsi (s : State) (n : Port) (f : PipePart → PipePart) : (s.modPipe n f).lsi = s.lsi := rfl
@[simp] theorem State.modPipe_ports (s : State) (n : Port) (f : PipePart → PipePart) : (s.modPipe n f).ports = s.ports := rfl
@[simp] theorem State.modPipe_raman (s : State) (n : Port) (f : PipePart → PipePart) : (s.modPipe n f).raman = s.raman := rfl
@[simp] theorem State.modPipe_bril (s : State) (n : Port) (f : PipePart → PipePart) : (s.modPipe n f).bril = s.bril := rfl
@[simp] theorem State.modPipe_stalls (s : State) (n : Port) (f : PipePart → PipePart) : (s.modPipe n f).stalls = s.stalls := rfl
@[simp] theorem State.modPipe_pitches (s : State) (n : Port) (f : PipePart → PipePart) : (s.modPipe n f).pitches = s.pitches := rfl
@[simp] theorem State.modPipe_programs (s : State) (n : Port) (f : PipePart → PipePart) : (s.modPipe n f).programs = s.programs := rfl
@[simp] theorem State.modPipe_array (s : State) (n : Port) (f : PipePart → PipePart) : (s.modPipe n f).array = s.array := rfl
@[simp] theorem State.modPipe_capture (s : State) (n : Port) (f : PipePart → PipePart) : (s.modPipe n f).capture = s.capture := rfl
@[simp] theorem State.modPipe_clk (s : State) (n : Port) (f : PipePart → PipePart) : (s.modPipe n f).clk = s.clk := rfl
@[simp] theorem State.modPipe_units (s : State) (n : Port) (f : PipePart → PipePart) : (s.modPipe n f).units = s.units := rfl
@[simp] theorem State.modPipe_dram (s : State) (n : Port) (f : PipePart → PipePart) : (s.modPipe n f).dram = s.dram := rfl
@[simp] theorem State.modPipe_mem (s : State) (n : Port) (f : PipePart → PipePart) : (s.modPipe n f).mem = s.mem := rfl
@[simp] theorem State.modPipe_poison (s : State) (n : Port) (f : PipePart → PipePart) : (s.modPipe n f).poison = s.poison := rfl
@[simp] theorem State.modPipe_flips (s : State) (n : Port) (f : PipePart → PipePart) : (s.modPipe n f).flips = s.flips := rfl
@[simp] theorem State.modPipe_netHeld (s : State) (n : Port) (f : PipePart → PipePart) : (s.modPipe n f).netHeld = s.netHeld := rfl
@[simp] theorem State.modPipe_eth (s : State) (n : Port) (f : PipePart → PipePart) : (s.modPipe n f).eth = s.eth := rfl
@[simp] theorem State.modPipe_ptp (s : State) (n : Port) (f : PipePart → PipePart) : (s.modPipe n f).ptp = s.ptp := rfl
@[simp] theorem State.modPipe_streams (s : State) (n : Port) (f : PipePart → PipePart) : (s.modPipe n f).streams = s.streams := rfl
@[simp] theorem State.modPipe_bale (s : State) (n : Port) (f : PipePart → PipePart) : (s.modPipe n f).bale = s.bale := rfl
@[simp] theorem State.modPipe_ledger (s : State) (n : Port) (f : PipePart → PipePart) : (s.modPipe n f).ledger = s.ledger := rfl
@[simp] theorem State.modPipe_can (s : State) (n : Port) (f : PipePart → PipePart) : (s.modPipe n f).can = s.can := rfl
@[simp] theorem State.modPipe_book (s : State) (n : Port) (f : PipePart → PipePart) : (s.modPipe n f).book = s.book := rfl
@[simp] theorem State.modPipe_cal (s : State) (n : Port) (f : PipePart → PipePart) : (s.modPipe n f).cal = s.cal := rfl
@[simp] theorem State.modPipe_flash (s : State) (n : Port) (f : PipePart → PipePart) : (s.modPipe n f).flash = s.flash := rfl
@[simp] theorem State.modPipe_tdc (s : State) (n : Port) (f : PipePart → PipePart) : (s.modPipe n f).tdc = s.tdc := rfl
@[simp] theorem State.modPipe_links (s : State) (n : Port) (f : PipePart → PipePart) : (s.modPipe n f).links = s.links := rfl
@[simp] theorem State.modPipe_cluster (s : State) (n : Port) (f : PipePart → PipePart) : (s.modPipe n f).cluster = s.cluster := rfl
@[simp] theorem State.modPipe_twin (s : State) (n : Port) (f : PipePart → PipePart) : (s.modPipe n f).twin = s.twin := rfl
@[simp] theorem State.modPipe_plant (s : State) (n : Port) (f : PipePart → PipePart) : (s.modPipe n f).plant = s.plant := rfl
@[simp] theorem State.modPipe_boot (s : State) (n : Port) (f : PipePart → PipePart) : (s.modPipe n f).boot = s.boot := rfl
@[simp] theorem State.modPipe_out (s : State) (n : Port) (f : PipePart → PipePart) : (s.modPipe n f).out = s.out := rfl
@[simp] theorem State.modPipe_fresh (s : State) (n : Port) (f : PipePart → PipePart) : (s.modPipe n f).fresh = s.fresh := rfl
@[simp] theorem State.modPipe_pending (s : State) (n : Port) (f : PipePart → PipePart) : (s.modPipe n f).pending = s.pending := rfl

@[simp] theorem State.modRaman_regs (s : State) (n : Port) (f : RamanPart → RamanPart) : (s.modRaman n f).regs = s.regs := rfl
@[simp] theorem State.modRaman_blobs (s : State) (n : Port) (f : RamanPart → RamanPart) : (s.modRaman n f).blobs = s.blobs := rfl
@[simp] theorem State.modRaman_staged (s : State) (n : Port) (f : RamanPart → RamanPart) : (s.modRaman n f).staged = s.staged := rfl
@[simp] theorem State.modRaman_stagedBlobs (s : State) (n : Port) (f : RamanPart → RamanPart) : (s.modRaman n f).stagedBlobs = s.stagedBlobs := rfl
@[simp] theorem State.modRaman_ep (s : State) (n : Port) (f : RamanPart → RamanPart) : (s.modRaman n f).ep = s.ep := rfl
@[simp] theorem State.modRaman_mains (s : State) (n : Port) (f : RamanPart → RamanPart) : (s.modRaman n f).mains = s.mains := rfl
@[simp] theorem State.modRaman_enc (s : State) (n : Port) (f : RamanPart → RamanPart) : (s.modRaman n f).enc = s.enc := rfl
@[simp] theorem State.modRaman_lsi (s : State) (n : Port) (f : RamanPart → RamanPart) : (s.modRaman n f).lsi = s.lsi := rfl
@[simp] theorem State.modRaman_ports (s : State) (n : Port) (f : RamanPart → RamanPart) : (s.modRaman n f).ports = s.ports := rfl
@[simp] theorem State.modRaman_pipes (s : State) (n : Port) (f : RamanPart → RamanPart) : (s.modRaman n f).pipes = s.pipes := rfl
@[simp] theorem State.modRaman_bril (s : State) (n : Port) (f : RamanPart → RamanPart) : (s.modRaman n f).bril = s.bril := rfl
@[simp] theorem State.modRaman_stalls (s : State) (n : Port) (f : RamanPart → RamanPart) : (s.modRaman n f).stalls = s.stalls := rfl
@[simp] theorem State.modRaman_pitches (s : State) (n : Port) (f : RamanPart → RamanPart) : (s.modRaman n f).pitches = s.pitches := rfl
@[simp] theorem State.modRaman_programs (s : State) (n : Port) (f : RamanPart → RamanPart) : (s.modRaman n f).programs = s.programs := rfl
@[simp] theorem State.modRaman_array (s : State) (n : Port) (f : RamanPart → RamanPart) : (s.modRaman n f).array = s.array := rfl
@[simp] theorem State.modRaman_capture (s : State) (n : Port) (f : RamanPart → RamanPart) : (s.modRaman n f).capture = s.capture := rfl
@[simp] theorem State.modRaman_clk (s : State) (n : Port) (f : RamanPart → RamanPart) : (s.modRaman n f).clk = s.clk := rfl
@[simp] theorem State.modRaman_units (s : State) (n : Port) (f : RamanPart → RamanPart) : (s.modRaman n f).units = s.units := rfl
@[simp] theorem State.modRaman_dram (s : State) (n : Port) (f : RamanPart → RamanPart) : (s.modRaman n f).dram = s.dram := rfl
@[simp] theorem State.modRaman_mem (s : State) (n : Port) (f : RamanPart → RamanPart) : (s.modRaman n f).mem = s.mem := rfl
@[simp] theorem State.modRaman_poison (s : State) (n : Port) (f : RamanPart → RamanPart) : (s.modRaman n f).poison = s.poison := rfl
@[simp] theorem State.modRaman_flips (s : State) (n : Port) (f : RamanPart → RamanPart) : (s.modRaman n f).flips = s.flips := rfl
@[simp] theorem State.modRaman_netHeld (s : State) (n : Port) (f : RamanPart → RamanPart) : (s.modRaman n f).netHeld = s.netHeld := rfl
@[simp] theorem State.modRaman_eth (s : State) (n : Port) (f : RamanPart → RamanPart) : (s.modRaman n f).eth = s.eth := rfl
@[simp] theorem State.modRaman_ptp (s : State) (n : Port) (f : RamanPart → RamanPart) : (s.modRaman n f).ptp = s.ptp := rfl
@[simp] theorem State.modRaman_streams (s : State) (n : Port) (f : RamanPart → RamanPart) : (s.modRaman n f).streams = s.streams := rfl
@[simp] theorem State.modRaman_bale (s : State) (n : Port) (f : RamanPart → RamanPart) : (s.modRaman n f).bale = s.bale := rfl
@[simp] theorem State.modRaman_ledger (s : State) (n : Port) (f : RamanPart → RamanPart) : (s.modRaman n f).ledger = s.ledger := rfl
@[simp] theorem State.modRaman_can (s : State) (n : Port) (f : RamanPart → RamanPart) : (s.modRaman n f).can = s.can := rfl
@[simp] theorem State.modRaman_book (s : State) (n : Port) (f : RamanPart → RamanPart) : (s.modRaman n f).book = s.book := rfl
@[simp] theorem State.modRaman_cal (s : State) (n : Port) (f : RamanPart → RamanPart) : (s.modRaman n f).cal = s.cal := rfl
@[simp] theorem State.modRaman_flash (s : State) (n : Port) (f : RamanPart → RamanPart) : (s.modRaman n f).flash = s.flash := rfl
@[simp] theorem State.modRaman_tdc (s : State) (n : Port) (f : RamanPart → RamanPart) : (s.modRaman n f).tdc = s.tdc := rfl
@[simp] theorem State.modRaman_links (s : State) (n : Port) (f : RamanPart → RamanPart) : (s.modRaman n f).links = s.links := rfl
@[simp] theorem State.modRaman_cluster (s : State) (n : Port) (f : RamanPart → RamanPart) : (s.modRaman n f).cluster = s.cluster := rfl
@[simp] theorem State.modRaman_twin (s : State) (n : Port) (f : RamanPart → RamanPart) : (s.modRaman n f).twin = s.twin := rfl
@[simp] theorem State.modRaman_plant (s : State) (n : Port) (f : RamanPart → RamanPart) : (s.modRaman n f).plant = s.plant := rfl
@[simp] theorem State.modRaman_boot (s : State) (n : Port) (f : RamanPart → RamanPart) : (s.modRaman n f).boot = s.boot := rfl
@[simp] theorem State.modRaman_out (s : State) (n : Port) (f : RamanPart → RamanPart) : (s.modRaman n f).out = s.out := rfl
@[simp] theorem State.modRaman_fresh (s : State) (n : Port) (f : RamanPart → RamanPart) : (s.modRaman n f).fresh = s.fresh := rfl
@[simp] theorem State.modRaman_pending (s : State) (n : Port) (f : RamanPart → RamanPart) : (s.modRaman n f).pending = s.pending := rfl

@[simp] theorem State.modBril_regs (s : State) (n : Port) (f : BrilPart → BrilPart) : (s.modBril n f).regs = s.regs := rfl
@[simp] theorem State.modBril_blobs (s : State) (n : Port) (f : BrilPart → BrilPart) : (s.modBril n f).blobs = s.blobs := rfl
@[simp] theorem State.modBril_staged (s : State) (n : Port) (f : BrilPart → BrilPart) : (s.modBril n f).staged = s.staged := rfl
@[simp] theorem State.modBril_stagedBlobs (s : State) (n : Port) (f : BrilPart → BrilPart) : (s.modBril n f).stagedBlobs = s.stagedBlobs := rfl
@[simp] theorem State.modBril_ep (s : State) (n : Port) (f : BrilPart → BrilPart) : (s.modBril n f).ep = s.ep := rfl
@[simp] theorem State.modBril_mains (s : State) (n : Port) (f : BrilPart → BrilPart) : (s.modBril n f).mains = s.mains := rfl
@[simp] theorem State.modBril_enc (s : State) (n : Port) (f : BrilPart → BrilPart) : (s.modBril n f).enc = s.enc := rfl
@[simp] theorem State.modBril_lsi (s : State) (n : Port) (f : BrilPart → BrilPart) : (s.modBril n f).lsi = s.lsi := rfl
@[simp] theorem State.modBril_ports (s : State) (n : Port) (f : BrilPart → BrilPart) : (s.modBril n f).ports = s.ports := rfl
@[simp] theorem State.modBril_pipes (s : State) (n : Port) (f : BrilPart → BrilPart) : (s.modBril n f).pipes = s.pipes := rfl
@[simp] theorem State.modBril_raman (s : State) (n : Port) (f : BrilPart → BrilPart) : (s.modBril n f).raman = s.raman := rfl
@[simp] theorem State.modBril_stalls (s : State) (n : Port) (f : BrilPart → BrilPart) : (s.modBril n f).stalls = s.stalls := rfl
@[simp] theorem State.modBril_pitches (s : State) (n : Port) (f : BrilPart → BrilPart) : (s.modBril n f).pitches = s.pitches := rfl
@[simp] theorem State.modBril_programs (s : State) (n : Port) (f : BrilPart → BrilPart) : (s.modBril n f).programs = s.programs := rfl
@[simp] theorem State.modBril_array (s : State) (n : Port) (f : BrilPart → BrilPart) : (s.modBril n f).array = s.array := rfl
@[simp] theorem State.modBril_capture (s : State) (n : Port) (f : BrilPart → BrilPart) : (s.modBril n f).capture = s.capture := rfl
@[simp] theorem State.modBril_clk (s : State) (n : Port) (f : BrilPart → BrilPart) : (s.modBril n f).clk = s.clk := rfl
@[simp] theorem State.modBril_units (s : State) (n : Port) (f : BrilPart → BrilPart) : (s.modBril n f).units = s.units := rfl
@[simp] theorem State.modBril_dram (s : State) (n : Port) (f : BrilPart → BrilPart) : (s.modBril n f).dram = s.dram := rfl
@[simp] theorem State.modBril_mem (s : State) (n : Port) (f : BrilPart → BrilPart) : (s.modBril n f).mem = s.mem := rfl
@[simp] theorem State.modBril_poison (s : State) (n : Port) (f : BrilPart → BrilPart) : (s.modBril n f).poison = s.poison := rfl
@[simp] theorem State.modBril_flips (s : State) (n : Port) (f : BrilPart → BrilPart) : (s.modBril n f).flips = s.flips := rfl
@[simp] theorem State.modBril_netHeld (s : State) (n : Port) (f : BrilPart → BrilPart) : (s.modBril n f).netHeld = s.netHeld := rfl
@[simp] theorem State.modBril_eth (s : State) (n : Port) (f : BrilPart → BrilPart) : (s.modBril n f).eth = s.eth := rfl
@[simp] theorem State.modBril_ptp (s : State) (n : Port) (f : BrilPart → BrilPart) : (s.modBril n f).ptp = s.ptp := rfl
@[simp] theorem State.modBril_streams (s : State) (n : Port) (f : BrilPart → BrilPart) : (s.modBril n f).streams = s.streams := rfl
@[simp] theorem State.modBril_bale (s : State) (n : Port) (f : BrilPart → BrilPart) : (s.modBril n f).bale = s.bale := rfl
@[simp] theorem State.modBril_ledger (s : State) (n : Port) (f : BrilPart → BrilPart) : (s.modBril n f).ledger = s.ledger := rfl
@[simp] theorem State.modBril_can (s : State) (n : Port) (f : BrilPart → BrilPart) : (s.modBril n f).can = s.can := rfl
@[simp] theorem State.modBril_book (s : State) (n : Port) (f : BrilPart → BrilPart) : (s.modBril n f).book = s.book := rfl
@[simp] theorem State.modBril_cal (s : State) (n : Port) (f : BrilPart → BrilPart) : (s.modBril n f).cal = s.cal := rfl
@[simp] theorem State.modBril_flash (s : State) (n : Port) (f : BrilPart → BrilPart) : (s.modBril n f).flash = s.flash := rfl
@[simp] theorem State.modBril_tdc (s : State) (n : Port) (f : BrilPart → BrilPart) : (s.modBril n f).tdc = s.tdc := rfl
@[simp] theorem State.modBril_links (s : State) (n : Port) (f : BrilPart → BrilPart) : (s.modBril n f).links = s.links := rfl
@[simp] theorem State.modBril_cluster (s : State) (n : Port) (f : BrilPart → BrilPart) : (s.modBril n f).cluster = s.cluster := rfl
@[simp] theorem State.modBril_twin (s : State) (n : Port) (f : BrilPart → BrilPart) : (s.modBril n f).twin = s.twin := rfl
@[simp] theorem State.modBril_plant (s : State) (n : Port) (f : BrilPart → BrilPart) : (s.modBril n f).plant = s.plant := rfl
@[simp] theorem State.modBril_boot (s : State) (n : Port) (f : BrilPart → BrilPart) : (s.modBril n f).boot = s.boot := rfl
@[simp] theorem State.modBril_out (s : State) (n : Port) (f : BrilPart → BrilPart) : (s.modBril n f).out = s.out := rfl
@[simp] theorem State.modBril_fresh (s : State) (n : Port) (f : BrilPart → BrilPart) : (s.modBril n f).fresh = s.fresh := rfl
@[simp] theorem State.modBril_pending (s : State) (n : Port) (f : BrilPart → BrilPart) : (s.modBril n f).pending = s.pending := rfl

@[simp] theorem State.modStall_regs (s : State) (n : StallId) (f : Stall → Stall) : (s.modStall n f).regs = s.regs := rfl
@[simp] theorem State.modStall_blobs (s : State) (n : StallId) (f : Stall → Stall) : (s.modStall n f).blobs = s.blobs := rfl
@[simp] theorem State.modStall_staged (s : State) (n : StallId) (f : Stall → Stall) : (s.modStall n f).staged = s.staged := rfl
@[simp] theorem State.modStall_stagedBlobs (s : State) (n : StallId) (f : Stall → Stall) : (s.modStall n f).stagedBlobs = s.stagedBlobs := rfl
@[simp] theorem State.modStall_ep (s : State) (n : StallId) (f : Stall → Stall) : (s.modStall n f).ep = s.ep := rfl
@[simp] theorem State.modStall_mains (s : State) (n : StallId) (f : Stall → Stall) : (s.modStall n f).mains = s.mains := rfl
@[simp] theorem State.modStall_enc (s : State) (n : StallId) (f : Stall → Stall) : (s.modStall n f).enc = s.enc := rfl
@[simp] theorem State.modStall_lsi (s : State) (n : StallId) (f : Stall → Stall) : (s.modStall n f).lsi = s.lsi := rfl
@[simp] theorem State.modStall_ports (s : State) (n : StallId) (f : Stall → Stall) : (s.modStall n f).ports = s.ports := rfl
@[simp] theorem State.modStall_pipes (s : State) (n : StallId) (f : Stall → Stall) : (s.modStall n f).pipes = s.pipes := rfl
@[simp] theorem State.modStall_raman (s : State) (n : StallId) (f : Stall → Stall) : (s.modStall n f).raman = s.raman := rfl
@[simp] theorem State.modStall_bril (s : State) (n : StallId) (f : Stall → Stall) : (s.modStall n f).bril = s.bril := rfl
@[simp] theorem State.modStall_pitches (s : State) (n : StallId) (f : Stall → Stall) : (s.modStall n f).pitches = s.pitches := rfl
@[simp] theorem State.modStall_programs (s : State) (n : StallId) (f : Stall → Stall) : (s.modStall n f).programs = s.programs := rfl
@[simp] theorem State.modStall_array (s : State) (n : StallId) (f : Stall → Stall) : (s.modStall n f).array = s.array := rfl
@[simp] theorem State.modStall_capture (s : State) (n : StallId) (f : Stall → Stall) : (s.modStall n f).capture = s.capture := rfl
@[simp] theorem State.modStall_clk (s : State) (n : StallId) (f : Stall → Stall) : (s.modStall n f).clk = s.clk := rfl
@[simp] theorem State.modStall_units (s : State) (n : StallId) (f : Stall → Stall) : (s.modStall n f).units = s.units := rfl
@[simp] theorem State.modStall_dram (s : State) (n : StallId) (f : Stall → Stall) : (s.modStall n f).dram = s.dram := rfl
@[simp] theorem State.modStall_mem (s : State) (n : StallId) (f : Stall → Stall) : (s.modStall n f).mem = s.mem := rfl
@[simp] theorem State.modStall_poison (s : State) (n : StallId) (f : Stall → Stall) : (s.modStall n f).poison = s.poison := rfl
@[simp] theorem State.modStall_flips (s : State) (n : StallId) (f : Stall → Stall) : (s.modStall n f).flips = s.flips := rfl
@[simp] theorem State.modStall_netHeld (s : State) (n : StallId) (f : Stall → Stall) : (s.modStall n f).netHeld = s.netHeld := rfl
@[simp] theorem State.modStall_eth (s : State) (n : StallId) (f : Stall → Stall) : (s.modStall n f).eth = s.eth := rfl
@[simp] theorem State.modStall_ptp (s : State) (n : StallId) (f : Stall → Stall) : (s.modStall n f).ptp = s.ptp := rfl
@[simp] theorem State.modStall_streams (s : State) (n : StallId) (f : Stall → Stall) : (s.modStall n f).streams = s.streams := rfl
@[simp] theorem State.modStall_bale (s : State) (n : StallId) (f : Stall → Stall) : (s.modStall n f).bale = s.bale := rfl
@[simp] theorem State.modStall_ledger (s : State) (n : StallId) (f : Stall → Stall) : (s.modStall n f).ledger = s.ledger := rfl
@[simp] theorem State.modStall_can (s : State) (n : StallId) (f : Stall → Stall) : (s.modStall n f).can = s.can := rfl
@[simp] theorem State.modStall_book (s : State) (n : StallId) (f : Stall → Stall) : (s.modStall n f).book = s.book := rfl
@[simp] theorem State.modStall_cal (s : State) (n : StallId) (f : Stall → Stall) : (s.modStall n f).cal = s.cal := rfl
@[simp] theorem State.modStall_flash (s : State) (n : StallId) (f : Stall → Stall) : (s.modStall n f).flash = s.flash := rfl
@[simp] theorem State.modStall_tdc (s : State) (n : StallId) (f : Stall → Stall) : (s.modStall n f).tdc = s.tdc := rfl
@[simp] theorem State.modStall_links (s : State) (n : StallId) (f : Stall → Stall) : (s.modStall n f).links = s.links := rfl
@[simp] theorem State.modStall_cluster (s : State) (n : StallId) (f : Stall → Stall) : (s.modStall n f).cluster = s.cluster := rfl
@[simp] theorem State.modStall_twin (s : State) (n : StallId) (f : Stall → Stall) : (s.modStall n f).twin = s.twin := rfl
@[simp] theorem State.modStall_plant (s : State) (n : StallId) (f : Stall → Stall) : (s.modStall n f).plant = s.plant := rfl
@[simp] theorem State.modStall_boot (s : State) (n : StallId) (f : Stall → Stall) : (s.modStall n f).boot = s.boot := rfl
@[simp] theorem State.modStall_out (s : State) (n : StallId) (f : Stall → Stall) : (s.modStall n f).out = s.out := rfl
@[simp] theorem State.modStall_fresh (s : State) (n : StallId) (f : Stall → Stall) : (s.modStall n f).fresh = s.fresh := rfl
@[simp] theorem State.modStall_pending (s : State) (n : StallId) (f : Stall → Stall) : (s.modStall n f).pending = s.pending := rfl

@[simp] theorem State.modPitch_regs (s : State) (k : Fin 192) (f : PitchPart → PitchPart) : (s.modPitch k f).regs = s.regs := rfl
@[simp] theorem State.modPitch_blobs (s : State) (k : Fin 192) (f : PitchPart → PitchPart) : (s.modPitch k f).blobs = s.blobs := rfl
@[simp] theorem State.modPitch_staged (s : State) (k : Fin 192) (f : PitchPart → PitchPart) : (s.modPitch k f).staged = s.staged := rfl
@[simp] theorem State.modPitch_stagedBlobs (s : State) (k : Fin 192) (f : PitchPart → PitchPart) : (s.modPitch k f).stagedBlobs = s.stagedBlobs := rfl
@[simp] theorem State.modPitch_ep (s : State) (k : Fin 192) (f : PitchPart → PitchPart) : (s.modPitch k f).ep = s.ep := rfl
@[simp] theorem State.modPitch_mains (s : State) (k : Fin 192) (f : PitchPart → PitchPart) : (s.modPitch k f).mains = s.mains := rfl
@[simp] theorem State.modPitch_enc (s : State) (k : Fin 192) (f : PitchPart → PitchPart) : (s.modPitch k f).enc = s.enc := rfl
@[simp] theorem State.modPitch_lsi (s : State) (k : Fin 192) (f : PitchPart → PitchPart) : (s.modPitch k f).lsi = s.lsi := rfl
@[simp] theorem State.modPitch_ports (s : State) (k : Fin 192) (f : PitchPart → PitchPart) : (s.modPitch k f).ports = s.ports := rfl
@[simp] theorem State.modPitch_pipes (s : State) (k : Fin 192) (f : PitchPart → PitchPart) : (s.modPitch k f).pipes = s.pipes := rfl
@[simp] theorem State.modPitch_raman (s : State) (k : Fin 192) (f : PitchPart → PitchPart) : (s.modPitch k f).raman = s.raman := rfl
@[simp] theorem State.modPitch_bril (s : State) (k : Fin 192) (f : PitchPart → PitchPart) : (s.modPitch k f).bril = s.bril := rfl
@[simp] theorem State.modPitch_stalls (s : State) (k : Fin 192) (f : PitchPart → PitchPart) : (s.modPitch k f).stalls = s.stalls := rfl
@[simp] theorem State.modPitch_programs (s : State) (k : Fin 192) (f : PitchPart → PitchPart) : (s.modPitch k f).programs = s.programs := rfl
@[simp] theorem State.modPitch_array (s : State) (k : Fin 192) (f : PitchPart → PitchPart) : (s.modPitch k f).array = s.array := rfl
@[simp] theorem State.modPitch_capture (s : State) (k : Fin 192) (f : PitchPart → PitchPart) : (s.modPitch k f).capture = s.capture := rfl
@[simp] theorem State.modPitch_clk (s : State) (k : Fin 192) (f : PitchPart → PitchPart) : (s.modPitch k f).clk = s.clk := rfl
@[simp] theorem State.modPitch_units (s : State) (k : Fin 192) (f : PitchPart → PitchPart) : (s.modPitch k f).units = s.units := rfl
@[simp] theorem State.modPitch_dram (s : State) (k : Fin 192) (f : PitchPart → PitchPart) : (s.modPitch k f).dram = s.dram := rfl
@[simp] theorem State.modPitch_mem (s : State) (k : Fin 192) (f : PitchPart → PitchPart) : (s.modPitch k f).mem = s.mem := rfl
@[simp] theorem State.modPitch_poison (s : State) (k : Fin 192) (f : PitchPart → PitchPart) : (s.modPitch k f).poison = s.poison := rfl
@[simp] theorem State.modPitch_flips (s : State) (k : Fin 192) (f : PitchPart → PitchPart) : (s.modPitch k f).flips = s.flips := rfl
@[simp] theorem State.modPitch_netHeld (s : State) (k : Fin 192) (f : PitchPart → PitchPart) : (s.modPitch k f).netHeld = s.netHeld := rfl
@[simp] theorem State.modPitch_eth (s : State) (k : Fin 192) (f : PitchPart → PitchPart) : (s.modPitch k f).eth = s.eth := rfl
@[simp] theorem State.modPitch_ptp (s : State) (k : Fin 192) (f : PitchPart → PitchPart) : (s.modPitch k f).ptp = s.ptp := rfl
@[simp] theorem State.modPitch_streams (s : State) (k : Fin 192) (f : PitchPart → PitchPart) : (s.modPitch k f).streams = s.streams := rfl
@[simp] theorem State.modPitch_bale (s : State) (k : Fin 192) (f : PitchPart → PitchPart) : (s.modPitch k f).bale = s.bale := rfl
@[simp] theorem State.modPitch_ledger (s : State) (k : Fin 192) (f : PitchPart → PitchPart) : (s.modPitch k f).ledger = s.ledger := rfl
@[simp] theorem State.modPitch_can (s : State) (k : Fin 192) (f : PitchPart → PitchPart) : (s.modPitch k f).can = s.can := rfl
@[simp] theorem State.modPitch_book (s : State) (k : Fin 192) (f : PitchPart → PitchPart) : (s.modPitch k f).book = s.book := rfl
@[simp] theorem State.modPitch_cal (s : State) (k : Fin 192) (f : PitchPart → PitchPart) : (s.modPitch k f).cal = s.cal := rfl
@[simp] theorem State.modPitch_flash (s : State) (k : Fin 192) (f : PitchPart → PitchPart) : (s.modPitch k f).flash = s.flash := rfl
@[simp] theorem State.modPitch_tdc (s : State) (k : Fin 192) (f : PitchPart → PitchPart) : (s.modPitch k f).tdc = s.tdc := rfl
@[simp] theorem State.modPitch_links (s : State) (k : Fin 192) (f : PitchPart → PitchPart) : (s.modPitch k f).links = s.links := rfl
@[simp] theorem State.modPitch_cluster (s : State) (k : Fin 192) (f : PitchPart → PitchPart) : (s.modPitch k f).cluster = s.cluster := rfl
@[simp] theorem State.modPitch_twin (s : State) (k : Fin 192) (f : PitchPart → PitchPart) : (s.modPitch k f).twin = s.twin := rfl
@[simp] theorem State.modPitch_plant (s : State) (k : Fin 192) (f : PitchPart → PitchPart) : (s.modPitch k f).plant = s.plant := rfl
@[simp] theorem State.modPitch_boot (s : State) (k : Fin 192) (f : PitchPart → PitchPart) : (s.modPitch k f).boot = s.boot := rfl
@[simp] theorem State.modPitch_out (s : State) (k : Fin 192) (f : PitchPart → PitchPart) : (s.modPitch k f).out = s.out := rfl
@[simp] theorem State.modPitch_fresh (s : State) (k : Fin 192) (f : PitchPart → PitchPart) : (s.modPitch k f).fresh = s.fresh := rfl
@[simp] theorem State.modPitch_pending (s : State) (k : Fin 192) (f : PitchPart → PitchPart) : (s.modPitch k f).pending = s.pending := rfl

@[simp] theorem State.modProgram_regs (s : State) (g : Fin 16) (f : ProgramPart → ProgramPart) : (s.modProgram g f).regs = s.regs := rfl
@[simp] theorem State.modProgram_blobs (s : State) (g : Fin 16) (f : ProgramPart → ProgramPart) : (s.modProgram g f).blobs = s.blobs := rfl
@[simp] theorem State.modProgram_staged (s : State) (g : Fin 16) (f : ProgramPart → ProgramPart) : (s.modProgram g f).staged = s.staged := rfl
@[simp] theorem State.modProgram_stagedBlobs (s : State) (g : Fin 16) (f : ProgramPart → ProgramPart) : (s.modProgram g f).stagedBlobs = s.stagedBlobs := rfl
@[simp] theorem State.modProgram_ep (s : State) (g : Fin 16) (f : ProgramPart → ProgramPart) : (s.modProgram g f).ep = s.ep := rfl
@[simp] theorem State.modProgram_mains (s : State) (g : Fin 16) (f : ProgramPart → ProgramPart) : (s.modProgram g f).mains = s.mains := rfl
@[simp] theorem State.modProgram_enc (s : State) (g : Fin 16) (f : ProgramPart → ProgramPart) : (s.modProgram g f).enc = s.enc := rfl
@[simp] theorem State.modProgram_lsi (s : State) (g : Fin 16) (f : ProgramPart → ProgramPart) : (s.modProgram g f).lsi = s.lsi := rfl
@[simp] theorem State.modProgram_ports (s : State) (g : Fin 16) (f : ProgramPart → ProgramPart) : (s.modProgram g f).ports = s.ports := rfl
@[simp] theorem State.modProgram_pipes (s : State) (g : Fin 16) (f : ProgramPart → ProgramPart) : (s.modProgram g f).pipes = s.pipes := rfl
@[simp] theorem State.modProgram_raman (s : State) (g : Fin 16) (f : ProgramPart → ProgramPart) : (s.modProgram g f).raman = s.raman := rfl
@[simp] theorem State.modProgram_bril (s : State) (g : Fin 16) (f : ProgramPart → ProgramPart) : (s.modProgram g f).bril = s.bril := rfl
@[simp] theorem State.modProgram_stalls (s : State) (g : Fin 16) (f : ProgramPart → ProgramPart) : (s.modProgram g f).stalls = s.stalls := rfl
@[simp] theorem State.modProgram_pitches (s : State) (g : Fin 16) (f : ProgramPart → ProgramPart) : (s.modProgram g f).pitches = s.pitches := rfl
@[simp] theorem State.modProgram_array (s : State) (g : Fin 16) (f : ProgramPart → ProgramPart) : (s.modProgram g f).array = s.array := rfl
@[simp] theorem State.modProgram_capture (s : State) (g : Fin 16) (f : ProgramPart → ProgramPart) : (s.modProgram g f).capture = s.capture := rfl
@[simp] theorem State.modProgram_clk (s : State) (g : Fin 16) (f : ProgramPart → ProgramPart) : (s.modProgram g f).clk = s.clk := rfl
@[simp] theorem State.modProgram_units (s : State) (g : Fin 16) (f : ProgramPart → ProgramPart) : (s.modProgram g f).units = s.units := rfl
@[simp] theorem State.modProgram_dram (s : State) (g : Fin 16) (f : ProgramPart → ProgramPart) : (s.modProgram g f).dram = s.dram := rfl
@[simp] theorem State.modProgram_mem (s : State) (g : Fin 16) (f : ProgramPart → ProgramPart) : (s.modProgram g f).mem = s.mem := rfl
@[simp] theorem State.modProgram_poison (s : State) (g : Fin 16) (f : ProgramPart → ProgramPart) : (s.modProgram g f).poison = s.poison := rfl
@[simp] theorem State.modProgram_flips (s : State) (g : Fin 16) (f : ProgramPart → ProgramPart) : (s.modProgram g f).flips = s.flips := rfl
@[simp] theorem State.modProgram_netHeld (s : State) (g : Fin 16) (f : ProgramPart → ProgramPart) : (s.modProgram g f).netHeld = s.netHeld := rfl
@[simp] theorem State.modProgram_eth (s : State) (g : Fin 16) (f : ProgramPart → ProgramPart) : (s.modProgram g f).eth = s.eth := rfl
@[simp] theorem State.modProgram_ptp (s : State) (g : Fin 16) (f : ProgramPart → ProgramPart) : (s.modProgram g f).ptp = s.ptp := rfl
@[simp] theorem State.modProgram_streams (s : State) (g : Fin 16) (f : ProgramPart → ProgramPart) : (s.modProgram g f).streams = s.streams := rfl
@[simp] theorem State.modProgram_bale (s : State) (g : Fin 16) (f : ProgramPart → ProgramPart) : (s.modProgram g f).bale = s.bale := rfl
@[simp] theorem State.modProgram_ledger (s : State) (g : Fin 16) (f : ProgramPart → ProgramPart) : (s.modProgram g f).ledger = s.ledger := rfl
@[simp] theorem State.modProgram_can (s : State) (g : Fin 16) (f : ProgramPart → ProgramPart) : (s.modProgram g f).can = s.can := rfl
@[simp] theorem State.modProgram_book (s : State) (g : Fin 16) (f : ProgramPart → ProgramPart) : (s.modProgram g f).book = s.book := rfl
@[simp] theorem State.modProgram_cal (s : State) (g : Fin 16) (f : ProgramPart → ProgramPart) : (s.modProgram g f).cal = s.cal := rfl
@[simp] theorem State.modProgram_flash (s : State) (g : Fin 16) (f : ProgramPart → ProgramPart) : (s.modProgram g f).flash = s.flash := rfl
@[simp] theorem State.modProgram_tdc (s : State) (g : Fin 16) (f : ProgramPart → ProgramPart) : (s.modProgram g f).tdc = s.tdc := rfl
@[simp] theorem State.modProgram_links (s : State) (g : Fin 16) (f : ProgramPart → ProgramPart) : (s.modProgram g f).links = s.links := rfl
@[simp] theorem State.modProgram_cluster (s : State) (g : Fin 16) (f : ProgramPart → ProgramPart) : (s.modProgram g f).cluster = s.cluster := rfl
@[simp] theorem State.modProgram_twin (s : State) (g : Fin 16) (f : ProgramPart → ProgramPart) : (s.modProgram g f).twin = s.twin := rfl
@[simp] theorem State.modProgram_plant (s : State) (g : Fin 16) (f : ProgramPart → ProgramPart) : (s.modProgram g f).plant = s.plant := rfl
@[simp] theorem State.modProgram_boot (s : State) (g : Fin 16) (f : ProgramPart → ProgramPart) : (s.modProgram g f).boot = s.boot := rfl
@[simp] theorem State.modProgram_out (s : State) (g : Fin 16) (f : ProgramPart → ProgramPart) : (s.modProgram g f).out = s.out := rfl
@[simp] theorem State.modProgram_fresh (s : State) (g : Fin 16) (f : ProgramPart → ProgramPart) : (s.modProgram g f).fresh = s.fresh := rfl
@[simp] theorem State.modProgram_pending (s : State) (g : Fin 16) (f : ProgramPart → ProgramPart) : (s.modProgram g f).pending = s.pending := rfl

@[simp] theorem State.modRegion_regs (s : State) (r : Fin 64) (f : RegionPart → RegionPart) : (s.modRegion r f).regs = s.regs := rfl
@[simp] theorem State.modRegion_blobs (s : State) (r : Fin 64) (f : RegionPart → RegionPart) : (s.modRegion r f).blobs = s.blobs := rfl
@[simp] theorem State.modRegion_staged (s : State) (r : Fin 64) (f : RegionPart → RegionPart) : (s.modRegion r f).staged = s.staged := rfl
@[simp] theorem State.modRegion_stagedBlobs (s : State) (r : Fin 64) (f : RegionPart → RegionPart) : (s.modRegion r f).stagedBlobs = s.stagedBlobs := rfl
@[simp] theorem State.modRegion_ep (s : State) (r : Fin 64) (f : RegionPart → RegionPart) : (s.modRegion r f).ep = s.ep := rfl
@[simp] theorem State.modRegion_mains (s : State) (r : Fin 64) (f : RegionPart → RegionPart) : (s.modRegion r f).mains = s.mains := rfl
@[simp] theorem State.modRegion_enc (s : State) (r : Fin 64) (f : RegionPart → RegionPart) : (s.modRegion r f).enc = s.enc := rfl
@[simp] theorem State.modRegion_lsi (s : State) (r : Fin 64) (f : RegionPart → RegionPart) : (s.modRegion r f).lsi = s.lsi := rfl
@[simp] theorem State.modRegion_ports (s : State) (r : Fin 64) (f : RegionPart → RegionPart) : (s.modRegion r f).ports = s.ports := rfl
@[simp] theorem State.modRegion_pipes (s : State) (r : Fin 64) (f : RegionPart → RegionPart) : (s.modRegion r f).pipes = s.pipes := rfl
@[simp] theorem State.modRegion_raman (s : State) (r : Fin 64) (f : RegionPart → RegionPart) : (s.modRegion r f).raman = s.raman := rfl
@[simp] theorem State.modRegion_bril (s : State) (r : Fin 64) (f : RegionPart → RegionPart) : (s.modRegion r f).bril = s.bril := rfl
@[simp] theorem State.modRegion_stalls (s : State) (r : Fin 64) (f : RegionPart → RegionPart) : (s.modRegion r f).stalls = s.stalls := rfl
@[simp] theorem State.modRegion_pitches (s : State) (r : Fin 64) (f : RegionPart → RegionPart) : (s.modRegion r f).pitches = s.pitches := rfl
@[simp] theorem State.modRegion_programs (s : State) (r : Fin 64) (f : RegionPart → RegionPart) : (s.modRegion r f).programs = s.programs := rfl
@[simp] theorem State.modRegion_array (s : State) (r : Fin 64) (f : RegionPart → RegionPart) : (s.modRegion r f).array = s.array := rfl
@[simp] theorem State.modRegion_clk (s : State) (r : Fin 64) (f : RegionPart → RegionPart) : (s.modRegion r f).clk = s.clk := rfl
@[simp] theorem State.modRegion_units (s : State) (r : Fin 64) (f : RegionPart → RegionPart) : (s.modRegion r f).units = s.units := rfl
@[simp] theorem State.modRegion_dram (s : State) (r : Fin 64) (f : RegionPart → RegionPart) : (s.modRegion r f).dram = s.dram := rfl
@[simp] theorem State.modRegion_mem (s : State) (r : Fin 64) (f : RegionPart → RegionPart) : (s.modRegion r f).mem = s.mem := rfl
@[simp] theorem State.modRegion_poison (s : State) (r : Fin 64) (f : RegionPart → RegionPart) : (s.modRegion r f).poison = s.poison := rfl
@[simp] theorem State.modRegion_flips (s : State) (r : Fin 64) (f : RegionPart → RegionPart) : (s.modRegion r f).flips = s.flips := rfl
@[simp] theorem State.modRegion_netHeld (s : State) (r : Fin 64) (f : RegionPart → RegionPart) : (s.modRegion r f).netHeld = s.netHeld := rfl
@[simp] theorem State.modRegion_eth (s : State) (r : Fin 64) (f : RegionPart → RegionPart) : (s.modRegion r f).eth = s.eth := rfl
@[simp] theorem State.modRegion_ptp (s : State) (r : Fin 64) (f : RegionPart → RegionPart) : (s.modRegion r f).ptp = s.ptp := rfl
@[simp] theorem State.modRegion_streams (s : State) (r : Fin 64) (f : RegionPart → RegionPart) : (s.modRegion r f).streams = s.streams := rfl
@[simp] theorem State.modRegion_bale (s : State) (r : Fin 64) (f : RegionPart → RegionPart) : (s.modRegion r f).bale = s.bale := rfl
@[simp] theorem State.modRegion_ledger (s : State) (r : Fin 64) (f : RegionPart → RegionPart) : (s.modRegion r f).ledger = s.ledger := rfl
@[simp] theorem State.modRegion_can (s : State) (r : Fin 64) (f : RegionPart → RegionPart) : (s.modRegion r f).can = s.can := rfl
@[simp] theorem State.modRegion_book (s : State) (r : Fin 64) (f : RegionPart → RegionPart) : (s.modRegion r f).book = s.book := rfl
@[simp] theorem State.modRegion_cal (s : State) (r : Fin 64) (f : RegionPart → RegionPart) : (s.modRegion r f).cal = s.cal := rfl
@[simp] theorem State.modRegion_flash (s : State) (r : Fin 64) (f : RegionPart → RegionPart) : (s.modRegion r f).flash = s.flash := rfl
@[simp] theorem State.modRegion_tdc (s : State) (r : Fin 64) (f : RegionPart → RegionPart) : (s.modRegion r f).tdc = s.tdc := rfl
@[simp] theorem State.modRegion_links (s : State) (r : Fin 64) (f : RegionPart → RegionPart) : (s.modRegion r f).links = s.links := rfl
@[simp] theorem State.modRegion_cluster (s : State) (r : Fin 64) (f : RegionPart → RegionPart) : (s.modRegion r f).cluster = s.cluster := rfl
@[simp] theorem State.modRegion_twin (s : State) (r : Fin 64) (f : RegionPart → RegionPart) : (s.modRegion r f).twin = s.twin := rfl
@[simp] theorem State.modRegion_plant (s : State) (r : Fin 64) (f : RegionPart → RegionPart) : (s.modRegion r f).plant = s.plant := rfl
@[simp] theorem State.modRegion_boot (s : State) (r : Fin 64) (f : RegionPart → RegionPart) : (s.modRegion r f).boot = s.boot := rfl
@[simp] theorem State.modRegion_out (s : State) (r : Fin 64) (f : RegionPart → RegionPart) : (s.modRegion r f).out = s.out := rfl
@[simp] theorem State.modRegion_fresh (s : State) (r : Fin 64) (f : RegionPart → RegionPart) : (s.modRegion r f).fresh = s.fresh := rfl
@[simp] theorem State.modRegion_pending (s : State) (r : Fin 64) (f : RegionPart → RegionPart) : (s.modRegion r f).pending = s.pending := rfl

@[simp] theorem State.modStream_regs (s : State) (k : Fin 256) (f : StreamPart → StreamPart) : (s.modStream k f).regs = s.regs := rfl
@[simp] theorem State.modStream_blobs (s : State) (k : Fin 256) (f : StreamPart → StreamPart) : (s.modStream k f).blobs = s.blobs := rfl
@[simp] theorem State.modStream_staged (s : State) (k : Fin 256) (f : StreamPart → StreamPart) : (s.modStream k f).staged = s.staged := rfl
@[simp] theorem State.modStream_stagedBlobs (s : State) (k : Fin 256) (f : StreamPart → StreamPart) : (s.modStream k f).stagedBlobs = s.stagedBlobs := rfl
@[simp] theorem State.modStream_ep (s : State) (k : Fin 256) (f : StreamPart → StreamPart) : (s.modStream k f).ep = s.ep := rfl
@[simp] theorem State.modStream_mains (s : State) (k : Fin 256) (f : StreamPart → StreamPart) : (s.modStream k f).mains = s.mains := rfl
@[simp] theorem State.modStream_enc (s : State) (k : Fin 256) (f : StreamPart → StreamPart) : (s.modStream k f).enc = s.enc := rfl
@[simp] theorem State.modStream_lsi (s : State) (k : Fin 256) (f : StreamPart → StreamPart) : (s.modStream k f).lsi = s.lsi := rfl
@[simp] theorem State.modStream_ports (s : State) (k : Fin 256) (f : StreamPart → StreamPart) : (s.modStream k f).ports = s.ports := rfl
@[simp] theorem State.modStream_pipes (s : State) (k : Fin 256) (f : StreamPart → StreamPart) : (s.modStream k f).pipes = s.pipes := rfl
@[simp] theorem State.modStream_raman (s : State) (k : Fin 256) (f : StreamPart → StreamPart) : (s.modStream k f).raman = s.raman := rfl
@[simp] theorem State.modStream_bril (s : State) (k : Fin 256) (f : StreamPart → StreamPart) : (s.modStream k f).bril = s.bril := rfl
@[simp] theorem State.modStream_stalls (s : State) (k : Fin 256) (f : StreamPart → StreamPart) : (s.modStream k f).stalls = s.stalls := rfl
@[simp] theorem State.modStream_pitches (s : State) (k : Fin 256) (f : StreamPart → StreamPart) : (s.modStream k f).pitches = s.pitches := rfl
@[simp] theorem State.modStream_programs (s : State) (k : Fin 256) (f : StreamPart → StreamPart) : (s.modStream k f).programs = s.programs := rfl
@[simp] theorem State.modStream_array (s : State) (k : Fin 256) (f : StreamPart → StreamPart) : (s.modStream k f).array = s.array := rfl
@[simp] theorem State.modStream_capture (s : State) (k : Fin 256) (f : StreamPart → StreamPart) : (s.modStream k f).capture = s.capture := rfl
@[simp] theorem State.modStream_clk (s : State) (k : Fin 256) (f : StreamPart → StreamPart) : (s.modStream k f).clk = s.clk := rfl
@[simp] theorem State.modStream_units (s : State) (k : Fin 256) (f : StreamPart → StreamPart) : (s.modStream k f).units = s.units := rfl
@[simp] theorem State.modStream_dram (s : State) (k : Fin 256) (f : StreamPart → StreamPart) : (s.modStream k f).dram = s.dram := rfl
@[simp] theorem State.modStream_mem (s : State) (k : Fin 256) (f : StreamPart → StreamPart) : (s.modStream k f).mem = s.mem := rfl
@[simp] theorem State.modStream_poison (s : State) (k : Fin 256) (f : StreamPart → StreamPart) : (s.modStream k f).poison = s.poison := rfl
@[simp] theorem State.modStream_flips (s : State) (k : Fin 256) (f : StreamPart → StreamPart) : (s.modStream k f).flips = s.flips := rfl
@[simp] theorem State.modStream_netHeld (s : State) (k : Fin 256) (f : StreamPart → StreamPart) : (s.modStream k f).netHeld = s.netHeld := rfl
@[simp] theorem State.modStream_eth (s : State) (k : Fin 256) (f : StreamPart → StreamPart) : (s.modStream k f).eth = s.eth := rfl
@[simp] theorem State.modStream_ptp (s : State) (k : Fin 256) (f : StreamPart → StreamPart) : (s.modStream k f).ptp = s.ptp := rfl
@[simp] theorem State.modStream_bale (s : State) (k : Fin 256) (f : StreamPart → StreamPart) : (s.modStream k f).bale = s.bale := rfl
@[simp] theorem State.modStream_ledger (s : State) (k : Fin 256) (f : StreamPart → StreamPart) : (s.modStream k f).ledger = s.ledger := rfl
@[simp] theorem State.modStream_can (s : State) (k : Fin 256) (f : StreamPart → StreamPart) : (s.modStream k f).can = s.can := rfl
@[simp] theorem State.modStream_book (s : State) (k : Fin 256) (f : StreamPart → StreamPart) : (s.modStream k f).book = s.book := rfl
@[simp] theorem State.modStream_cal (s : State) (k : Fin 256) (f : StreamPart → StreamPart) : (s.modStream k f).cal = s.cal := rfl
@[simp] theorem State.modStream_flash (s : State) (k : Fin 256) (f : StreamPart → StreamPart) : (s.modStream k f).flash = s.flash := rfl
@[simp] theorem State.modStream_tdc (s : State) (k : Fin 256) (f : StreamPart → StreamPart) : (s.modStream k f).tdc = s.tdc := rfl
@[simp] theorem State.modStream_links (s : State) (k : Fin 256) (f : StreamPart → StreamPart) : (s.modStream k f).links = s.links := rfl
@[simp] theorem State.modStream_cluster (s : State) (k : Fin 256) (f : StreamPart → StreamPart) : (s.modStream k f).cluster = s.cluster := rfl
@[simp] theorem State.modStream_twin (s : State) (k : Fin 256) (f : StreamPart → StreamPart) : (s.modStream k f).twin = s.twin := rfl
@[simp] theorem State.modStream_plant (s : State) (k : Fin 256) (f : StreamPart → StreamPart) : (s.modStream k f).plant = s.plant := rfl
@[simp] theorem State.modStream_boot (s : State) (k : Fin 256) (f : StreamPart → StreamPart) : (s.modStream k f).boot = s.boot := rfl
@[simp] theorem State.modStream_out (s : State) (k : Fin 256) (f : StreamPart → StreamPart) : (s.modStream k f).out = s.out := rfl
@[simp] theorem State.modStream_fresh (s : State) (k : Fin 256) (f : StreamPart → StreamPart) : (s.modStream k f).fresh = s.fresh := rfl
@[simp] theorem State.modStream_pending (s : State) (k : Fin 256) (f : StreamPart → StreamPart) : (s.modStream k f).pending = s.pending := rfl

@[simp] theorem State.modEth_regs (s : State) (p : Fin 4) (f : EthPort → EthPort) : (s.modEth p f).regs = s.regs := rfl
@[simp] theorem State.modEth_blobs (s : State) (p : Fin 4) (f : EthPort → EthPort) : (s.modEth p f).blobs = s.blobs := rfl
@[simp] theorem State.modEth_staged (s : State) (p : Fin 4) (f : EthPort → EthPort) : (s.modEth p f).staged = s.staged := rfl
@[simp] theorem State.modEth_stagedBlobs (s : State) (p : Fin 4) (f : EthPort → EthPort) : (s.modEth p f).stagedBlobs = s.stagedBlobs := rfl
@[simp] theorem State.modEth_ep (s : State) (p : Fin 4) (f : EthPort → EthPort) : (s.modEth p f).ep = s.ep := rfl
@[simp] theorem State.modEth_mains (s : State) (p : Fin 4) (f : EthPort → EthPort) : (s.modEth p f).mains = s.mains := rfl
@[simp] theorem State.modEth_enc (s : State) (p : Fin 4) (f : EthPort → EthPort) : (s.modEth p f).enc = s.enc := rfl
@[simp] theorem State.modEth_lsi (s : State) (p : Fin 4) (f : EthPort → EthPort) : (s.modEth p f).lsi = s.lsi := rfl
@[simp] theorem State.modEth_ports (s : State) (p : Fin 4) (f : EthPort → EthPort) : (s.modEth p f).ports = s.ports := rfl
@[simp] theorem State.modEth_pipes (s : State) (p : Fin 4) (f : EthPort → EthPort) : (s.modEth p f).pipes = s.pipes := rfl
@[simp] theorem State.modEth_raman (s : State) (p : Fin 4) (f : EthPort → EthPort) : (s.modEth p f).raman = s.raman := rfl
@[simp] theorem State.modEth_bril (s : State) (p : Fin 4) (f : EthPort → EthPort) : (s.modEth p f).bril = s.bril := rfl
@[simp] theorem State.modEth_stalls (s : State) (p : Fin 4) (f : EthPort → EthPort) : (s.modEth p f).stalls = s.stalls := rfl
@[simp] theorem State.modEth_pitches (s : State) (p : Fin 4) (f : EthPort → EthPort) : (s.modEth p f).pitches = s.pitches := rfl
@[simp] theorem State.modEth_programs (s : State) (p : Fin 4) (f : EthPort → EthPort) : (s.modEth p f).programs = s.programs := rfl
@[simp] theorem State.modEth_array (s : State) (p : Fin 4) (f : EthPort → EthPort) : (s.modEth p f).array = s.array := rfl
@[simp] theorem State.modEth_capture (s : State) (p : Fin 4) (f : EthPort → EthPort) : (s.modEth p f).capture = s.capture := rfl
@[simp] theorem State.modEth_clk (s : State) (p : Fin 4) (f : EthPort → EthPort) : (s.modEth p f).clk = s.clk := rfl
@[simp] theorem State.modEth_units (s : State) (p : Fin 4) (f : EthPort → EthPort) : (s.modEth p f).units = s.units := rfl
@[simp] theorem State.modEth_dram (s : State) (p : Fin 4) (f : EthPort → EthPort) : (s.modEth p f).dram = s.dram := rfl
@[simp] theorem State.modEth_mem (s : State) (p : Fin 4) (f : EthPort → EthPort) : (s.modEth p f).mem = s.mem := rfl
@[simp] theorem State.modEth_poison (s : State) (p : Fin 4) (f : EthPort → EthPort) : (s.modEth p f).poison = s.poison := rfl
@[simp] theorem State.modEth_flips (s : State) (p : Fin 4) (f : EthPort → EthPort) : (s.modEth p f).flips = s.flips := rfl
@[simp] theorem State.modEth_netHeld (s : State) (p : Fin 4) (f : EthPort → EthPort) : (s.modEth p f).netHeld = s.netHeld := rfl
@[simp] theorem State.modEth_ptp (s : State) (p : Fin 4) (f : EthPort → EthPort) : (s.modEth p f).ptp = s.ptp := rfl
@[simp] theorem State.modEth_streams (s : State) (p : Fin 4) (f : EthPort → EthPort) : (s.modEth p f).streams = s.streams := rfl
@[simp] theorem State.modEth_bale (s : State) (p : Fin 4) (f : EthPort → EthPort) : (s.modEth p f).bale = s.bale := rfl
@[simp] theorem State.modEth_ledger (s : State) (p : Fin 4) (f : EthPort → EthPort) : (s.modEth p f).ledger = s.ledger := rfl
@[simp] theorem State.modEth_can (s : State) (p : Fin 4) (f : EthPort → EthPort) : (s.modEth p f).can = s.can := rfl
@[simp] theorem State.modEth_book (s : State) (p : Fin 4) (f : EthPort → EthPort) : (s.modEth p f).book = s.book := rfl
@[simp] theorem State.modEth_cal (s : State) (p : Fin 4) (f : EthPort → EthPort) : (s.modEth p f).cal = s.cal := rfl
@[simp] theorem State.modEth_flash (s : State) (p : Fin 4) (f : EthPort → EthPort) : (s.modEth p f).flash = s.flash := rfl
@[simp] theorem State.modEth_tdc (s : State) (p : Fin 4) (f : EthPort → EthPort) : (s.modEth p f).tdc = s.tdc := rfl
@[simp] theorem State.modEth_links (s : State) (p : Fin 4) (f : EthPort → EthPort) : (s.modEth p f).links = s.links := rfl
@[simp] theorem State.modEth_cluster (s : State) (p : Fin 4) (f : EthPort → EthPort) : (s.modEth p f).cluster = s.cluster := rfl
@[simp] theorem State.modEth_twin (s : State) (p : Fin 4) (f : EthPort → EthPort) : (s.modEth p f).twin = s.twin := rfl
@[simp] theorem State.modEth_plant (s : State) (p : Fin 4) (f : EthPort → EthPort) : (s.modEth p f).plant = s.plant := rfl
@[simp] theorem State.modEth_boot (s : State) (p : Fin 4) (f : EthPort → EthPort) : (s.modEth p f).boot = s.boot := rfl
@[simp] theorem State.modEth_out (s : State) (p : Fin 4) (f : EthPort → EthPort) : (s.modEth p f).out = s.out := rfl
@[simp] theorem State.modEth_fresh (s : State) (p : Fin 4) (f : EthPort → EthPort) : (s.modEth p f).fresh = s.fresh := rfl
@[simp] theorem State.modEth_pending (s : State) (p : Fin 4) (f : EthPort → EthPort) : (s.modEth p f).pending = s.pending := rfl

@[simp] theorem State.modJournal_regs (s : State) (j : Fin 18) (f : JournalPart → JournalPart) : (s.modJournal j f).regs = s.regs := rfl
@[simp] theorem State.modJournal_blobs (s : State) (j : Fin 18) (f : JournalPart → JournalPart) : (s.modJournal j f).blobs = s.blobs := rfl
@[simp] theorem State.modJournal_staged (s : State) (j : Fin 18) (f : JournalPart → JournalPart) : (s.modJournal j f).staged = s.staged := rfl
@[simp] theorem State.modJournal_stagedBlobs (s : State) (j : Fin 18) (f : JournalPart → JournalPart) : (s.modJournal j f).stagedBlobs = s.stagedBlobs := rfl
@[simp] theorem State.modJournal_ep (s : State) (j : Fin 18) (f : JournalPart → JournalPart) : (s.modJournal j f).ep = s.ep := rfl
@[simp] theorem State.modJournal_mains (s : State) (j : Fin 18) (f : JournalPart → JournalPart) : (s.modJournal j f).mains = s.mains := rfl
@[simp] theorem State.modJournal_enc (s : State) (j : Fin 18) (f : JournalPart → JournalPart) : (s.modJournal j f).enc = s.enc := rfl
@[simp] theorem State.modJournal_lsi (s : State) (j : Fin 18) (f : JournalPart → JournalPart) : (s.modJournal j f).lsi = s.lsi := rfl
@[simp] theorem State.modJournal_ports (s : State) (j : Fin 18) (f : JournalPart → JournalPart) : (s.modJournal j f).ports = s.ports := rfl
@[simp] theorem State.modJournal_pipes (s : State) (j : Fin 18) (f : JournalPart → JournalPart) : (s.modJournal j f).pipes = s.pipes := rfl
@[simp] theorem State.modJournal_raman (s : State) (j : Fin 18) (f : JournalPart → JournalPart) : (s.modJournal j f).raman = s.raman := rfl
@[simp] theorem State.modJournal_bril (s : State) (j : Fin 18) (f : JournalPart → JournalPart) : (s.modJournal j f).bril = s.bril := rfl
@[simp] theorem State.modJournal_stalls (s : State) (j : Fin 18) (f : JournalPart → JournalPart) : (s.modJournal j f).stalls = s.stalls := rfl
@[simp] theorem State.modJournal_pitches (s : State) (j : Fin 18) (f : JournalPart → JournalPart) : (s.modJournal j f).pitches = s.pitches := rfl
@[simp] theorem State.modJournal_programs (s : State) (j : Fin 18) (f : JournalPart → JournalPart) : (s.modJournal j f).programs = s.programs := rfl
@[simp] theorem State.modJournal_array (s : State) (j : Fin 18) (f : JournalPart → JournalPart) : (s.modJournal j f).array = s.array := rfl
@[simp] theorem State.modJournal_capture (s : State) (j : Fin 18) (f : JournalPart → JournalPart) : (s.modJournal j f).capture = s.capture := rfl
@[simp] theorem State.modJournal_clk (s : State) (j : Fin 18) (f : JournalPart → JournalPart) : (s.modJournal j f).clk = s.clk := rfl
@[simp] theorem State.modJournal_units (s : State) (j : Fin 18) (f : JournalPart → JournalPart) : (s.modJournal j f).units = s.units := rfl
@[simp] theorem State.modJournal_dram (s : State) (j : Fin 18) (f : JournalPart → JournalPart) : (s.modJournal j f).dram = s.dram := rfl
@[simp] theorem State.modJournal_mem (s : State) (j : Fin 18) (f : JournalPart → JournalPart) : (s.modJournal j f).mem = s.mem := rfl
@[simp] theorem State.modJournal_poison (s : State) (j : Fin 18) (f : JournalPart → JournalPart) : (s.modJournal j f).poison = s.poison := rfl
@[simp] theorem State.modJournal_flips (s : State) (j : Fin 18) (f : JournalPart → JournalPart) : (s.modJournal j f).flips = s.flips := rfl
@[simp] theorem State.modJournal_netHeld (s : State) (j : Fin 18) (f : JournalPart → JournalPart) : (s.modJournal j f).netHeld = s.netHeld := rfl
@[simp] theorem State.modJournal_eth (s : State) (j : Fin 18) (f : JournalPart → JournalPart) : (s.modJournal j f).eth = s.eth := rfl
@[simp] theorem State.modJournal_ptp (s : State) (j : Fin 18) (f : JournalPart → JournalPart) : (s.modJournal j f).ptp = s.ptp := rfl
@[simp] theorem State.modJournal_streams (s : State) (j : Fin 18) (f : JournalPart → JournalPart) : (s.modJournal j f).streams = s.streams := rfl
@[simp] theorem State.modJournal_bale (s : State) (j : Fin 18) (f : JournalPart → JournalPart) : (s.modJournal j f).bale = s.bale := rfl
@[simp] theorem State.modJournal_ledger (s : State) (j : Fin 18) (f : JournalPart → JournalPart) : (s.modJournal j f).ledger = s.ledger := rfl
@[simp] theorem State.modJournal_can (s : State) (j : Fin 18) (f : JournalPart → JournalPart) : (s.modJournal j f).can = s.can := rfl
@[simp] theorem State.modJournal_book (s : State) (j : Fin 18) (f : JournalPart → JournalPart) : (s.modJournal j f).book = s.book := rfl
@[simp] theorem State.modJournal_cal (s : State) (j : Fin 18) (f : JournalPart → JournalPart) : (s.modJournal j f).cal = s.cal := rfl
@[simp] theorem State.modJournal_tdc (s : State) (j : Fin 18) (f : JournalPart → JournalPart) : (s.modJournal j f).tdc = s.tdc := rfl
@[simp] theorem State.modJournal_links (s : State) (j : Fin 18) (f : JournalPart → JournalPart) : (s.modJournal j f).links = s.links := rfl
@[simp] theorem State.modJournal_cluster (s : State) (j : Fin 18) (f : JournalPart → JournalPart) : (s.modJournal j f).cluster = s.cluster := rfl
@[simp] theorem State.modJournal_twin (s : State) (j : Fin 18) (f : JournalPart → JournalPart) : (s.modJournal j f).twin = s.twin := rfl
@[simp] theorem State.modJournal_plant (s : State) (j : Fin 18) (f : JournalPart → JournalPart) : (s.modJournal j f).plant = s.plant := rfl
@[simp] theorem State.modJournal_boot (s : State) (j : Fin 18) (f : JournalPart → JournalPart) : (s.modJournal j f).boot = s.boot := rfl
@[simp] theorem State.modJournal_out (s : State) (j : Fin 18) (f : JournalPart → JournalPart) : (s.modJournal j f).out = s.out := rfl
@[simp] theorem State.modJournal_fresh (s : State) (j : Fin 18) (f : JournalPart → JournalPart) : (s.modJournal j f).fresh = s.fresh := rfl
@[simp] theorem State.modJournal_pending (s : State) (j : Fin 18) (f : JournalPart → JournalPart) : (s.modJournal j f).pending = s.pending := rfl

@[simp] theorem State.modCal_regs (s : State) (k : Nat) (f : CalRun → CalRun) : (s.modCal k f).regs = s.regs := rfl
@[simp] theorem State.modCal_blobs (s : State) (k : Nat) (f : CalRun → CalRun) : (s.modCal k f).blobs = s.blobs := rfl
@[simp] theorem State.modCal_staged (s : State) (k : Nat) (f : CalRun → CalRun) : (s.modCal k f).staged = s.staged := rfl
@[simp] theorem State.modCal_stagedBlobs (s : State) (k : Nat) (f : CalRun → CalRun) : (s.modCal k f).stagedBlobs = s.stagedBlobs := rfl
@[simp] theorem State.modCal_ep (s : State) (k : Nat) (f : CalRun → CalRun) : (s.modCal k f).ep = s.ep := rfl
@[simp] theorem State.modCal_mains (s : State) (k : Nat) (f : CalRun → CalRun) : (s.modCal k f).mains = s.mains := rfl
@[simp] theorem State.modCal_enc (s : State) (k : Nat) (f : CalRun → CalRun) : (s.modCal k f).enc = s.enc := rfl
@[simp] theorem State.modCal_lsi (s : State) (k : Nat) (f : CalRun → CalRun) : (s.modCal k f).lsi = s.lsi := rfl
@[simp] theorem State.modCal_ports (s : State) (k : Nat) (f : CalRun → CalRun) : (s.modCal k f).ports = s.ports := rfl
@[simp] theorem State.modCal_pipes (s : State) (k : Nat) (f : CalRun → CalRun) : (s.modCal k f).pipes = s.pipes := rfl
@[simp] theorem State.modCal_raman (s : State) (k : Nat) (f : CalRun → CalRun) : (s.modCal k f).raman = s.raman := rfl
@[simp] theorem State.modCal_bril (s : State) (k : Nat) (f : CalRun → CalRun) : (s.modCal k f).bril = s.bril := rfl
@[simp] theorem State.modCal_stalls (s : State) (k : Nat) (f : CalRun → CalRun) : (s.modCal k f).stalls = s.stalls := rfl
@[simp] theorem State.modCal_pitches (s : State) (k : Nat) (f : CalRun → CalRun) : (s.modCal k f).pitches = s.pitches := rfl
@[simp] theorem State.modCal_programs (s : State) (k : Nat) (f : CalRun → CalRun) : (s.modCal k f).programs = s.programs := rfl
@[simp] theorem State.modCal_array (s : State) (k : Nat) (f : CalRun → CalRun) : (s.modCal k f).array = s.array := rfl
@[simp] theorem State.modCal_capture (s : State) (k : Nat) (f : CalRun → CalRun) : (s.modCal k f).capture = s.capture := rfl
@[simp] theorem State.modCal_clk (s : State) (k : Nat) (f : CalRun → CalRun) : (s.modCal k f).clk = s.clk := rfl
@[simp] theorem State.modCal_units (s : State) (k : Nat) (f : CalRun → CalRun) : (s.modCal k f).units = s.units := rfl
@[simp] theorem State.modCal_dram (s : State) (k : Nat) (f : CalRun → CalRun) : (s.modCal k f).dram = s.dram := rfl
@[simp] theorem State.modCal_mem (s : State) (k : Nat) (f : CalRun → CalRun) : (s.modCal k f).mem = s.mem := rfl
@[simp] theorem State.modCal_poison (s : State) (k : Nat) (f : CalRun → CalRun) : (s.modCal k f).poison = s.poison := rfl
@[simp] theorem State.modCal_flips (s : State) (k : Nat) (f : CalRun → CalRun) : (s.modCal k f).flips = s.flips := rfl
@[simp] theorem State.modCal_netHeld (s : State) (k : Nat) (f : CalRun → CalRun) : (s.modCal k f).netHeld = s.netHeld := rfl
@[simp] theorem State.modCal_eth (s : State) (k : Nat) (f : CalRun → CalRun) : (s.modCal k f).eth = s.eth := rfl
@[simp] theorem State.modCal_ptp (s : State) (k : Nat) (f : CalRun → CalRun) : (s.modCal k f).ptp = s.ptp := rfl
@[simp] theorem State.modCal_streams (s : State) (k : Nat) (f : CalRun → CalRun) : (s.modCal k f).streams = s.streams := rfl
@[simp] theorem State.modCal_bale (s : State) (k : Nat) (f : CalRun → CalRun) : (s.modCal k f).bale = s.bale := rfl
@[simp] theorem State.modCal_ledger (s : State) (k : Nat) (f : CalRun → CalRun) : (s.modCal k f).ledger = s.ledger := rfl
@[simp] theorem State.modCal_can (s : State) (k : Nat) (f : CalRun → CalRun) : (s.modCal k f).can = s.can := rfl
@[simp] theorem State.modCal_book (s : State) (k : Nat) (f : CalRun → CalRun) : (s.modCal k f).book = s.book := rfl
@[simp] theorem State.modCal_flash (s : State) (k : Nat) (f : CalRun → CalRun) : (s.modCal k f).flash = s.flash := rfl
@[simp] theorem State.modCal_tdc (s : State) (k : Nat) (f : CalRun → CalRun) : (s.modCal k f).tdc = s.tdc := rfl
@[simp] theorem State.modCal_links (s : State) (k : Nat) (f : CalRun → CalRun) : (s.modCal k f).links = s.links := rfl
@[simp] theorem State.modCal_cluster (s : State) (k : Nat) (f : CalRun → CalRun) : (s.modCal k f).cluster = s.cluster := rfl
@[simp] theorem State.modCal_twin (s : State) (k : Nat) (f : CalRun → CalRun) : (s.modCal k f).twin = s.twin := rfl
@[simp] theorem State.modCal_plant (s : State) (k : Nat) (f : CalRun → CalRun) : (s.modCal k f).plant = s.plant := rfl
@[simp] theorem State.modCal_boot (s : State) (k : Nat) (f : CalRun → CalRun) : (s.modCal k f).boot = s.boot := rfl
@[simp] theorem State.modCal_out (s : State) (k : Nat) (f : CalRun → CalRun) : (s.modCal k f).out = s.out := rfl
@[simp] theorem State.modCal_fresh (s : State) (k : Nat) (f : CalRun → CalRun) : (s.modCal k f).fresh = s.fresh := rfl
@[simp] theorem State.modCal_pending (s : State) (k : Nat) (f : CalRun → CalRun) : (s.modCal k f).pending = s.pending := rfl

@[simp] theorem State.modUnit_regs (s : State) (u : Fin 8) (f : MeasurePart → MeasurePart) : (s.modUnit u f).regs = s.regs := rfl
@[simp] theorem State.modUnit_blobs (s : State) (u : Fin 8) (f : MeasurePart → MeasurePart) : (s.modUnit u f).blobs = s.blobs := rfl
@[simp] theorem State.modUnit_staged (s : State) (u : Fin 8) (f : MeasurePart → MeasurePart) : (s.modUnit u f).staged = s.staged := rfl
@[simp] theorem State.modUnit_stagedBlobs (s : State) (u : Fin 8) (f : MeasurePart → MeasurePart) : (s.modUnit u f).stagedBlobs = s.stagedBlobs := rfl
@[simp] theorem State.modUnit_ep (s : State) (u : Fin 8) (f : MeasurePart → MeasurePart) : (s.modUnit u f).ep = s.ep := rfl
@[simp] theorem State.modUnit_mains (s : State) (u : Fin 8) (f : MeasurePart → MeasurePart) : (s.modUnit u f).mains = s.mains := rfl
@[simp] theorem State.modUnit_enc (s : State) (u : Fin 8) (f : MeasurePart → MeasurePart) : (s.modUnit u f).enc = s.enc := rfl
@[simp] theorem State.modUnit_lsi (s : State) (u : Fin 8) (f : MeasurePart → MeasurePart) : (s.modUnit u f).lsi = s.lsi := rfl
@[simp] theorem State.modUnit_ports (s : State) (u : Fin 8) (f : MeasurePart → MeasurePart) : (s.modUnit u f).ports = s.ports := rfl
@[simp] theorem State.modUnit_pipes (s : State) (u : Fin 8) (f : MeasurePart → MeasurePart) : (s.modUnit u f).pipes = s.pipes := rfl
@[simp] theorem State.modUnit_raman (s : State) (u : Fin 8) (f : MeasurePart → MeasurePart) : (s.modUnit u f).raman = s.raman := rfl
@[simp] theorem State.modUnit_bril (s : State) (u : Fin 8) (f : MeasurePart → MeasurePart) : (s.modUnit u f).bril = s.bril := rfl
@[simp] theorem State.modUnit_stalls (s : State) (u : Fin 8) (f : MeasurePart → MeasurePart) : (s.modUnit u f).stalls = s.stalls := rfl
@[simp] theorem State.modUnit_pitches (s : State) (u : Fin 8) (f : MeasurePart → MeasurePart) : (s.modUnit u f).pitches = s.pitches := rfl
@[simp] theorem State.modUnit_programs (s : State) (u : Fin 8) (f : MeasurePart → MeasurePart) : (s.modUnit u f).programs = s.programs := rfl
@[simp] theorem State.modUnit_array (s : State) (u : Fin 8) (f : MeasurePart → MeasurePart) : (s.modUnit u f).array = s.array := rfl
@[simp] theorem State.modUnit_capture (s : State) (u : Fin 8) (f : MeasurePart → MeasurePart) : (s.modUnit u f).capture = s.capture := rfl
@[simp] theorem State.modUnit_clk (s : State) (u : Fin 8) (f : MeasurePart → MeasurePart) : (s.modUnit u f).clk = s.clk := rfl
@[simp] theorem State.modUnit_dram (s : State) (u : Fin 8) (f : MeasurePart → MeasurePart) : (s.modUnit u f).dram = s.dram := rfl
@[simp] theorem State.modUnit_mem (s : State) (u : Fin 8) (f : MeasurePart → MeasurePart) : (s.modUnit u f).mem = s.mem := rfl
@[simp] theorem State.modUnit_poison (s : State) (u : Fin 8) (f : MeasurePart → MeasurePart) : (s.modUnit u f).poison = s.poison := rfl
@[simp] theorem State.modUnit_flips (s : State) (u : Fin 8) (f : MeasurePart → MeasurePart) : (s.modUnit u f).flips = s.flips := rfl
@[simp] theorem State.modUnit_netHeld (s : State) (u : Fin 8) (f : MeasurePart → MeasurePart) : (s.modUnit u f).netHeld = s.netHeld := rfl
@[simp] theorem State.modUnit_eth (s : State) (u : Fin 8) (f : MeasurePart → MeasurePart) : (s.modUnit u f).eth = s.eth := rfl
@[simp] theorem State.modUnit_ptp (s : State) (u : Fin 8) (f : MeasurePart → MeasurePart) : (s.modUnit u f).ptp = s.ptp := rfl
@[simp] theorem State.modUnit_streams (s : State) (u : Fin 8) (f : MeasurePart → MeasurePart) : (s.modUnit u f).streams = s.streams := rfl
@[simp] theorem State.modUnit_bale (s : State) (u : Fin 8) (f : MeasurePart → MeasurePart) : (s.modUnit u f).bale = s.bale := rfl
@[simp] theorem State.modUnit_ledger (s : State) (u : Fin 8) (f : MeasurePart → MeasurePart) : (s.modUnit u f).ledger = s.ledger := rfl
@[simp] theorem State.modUnit_can (s : State) (u : Fin 8) (f : MeasurePart → MeasurePart) : (s.modUnit u f).can = s.can := rfl
@[simp] theorem State.modUnit_book (s : State) (u : Fin 8) (f : MeasurePart → MeasurePart) : (s.modUnit u f).book = s.book := rfl
@[simp] theorem State.modUnit_cal (s : State) (u : Fin 8) (f : MeasurePart → MeasurePart) : (s.modUnit u f).cal = s.cal := rfl
@[simp] theorem State.modUnit_flash (s : State) (u : Fin 8) (f : MeasurePart → MeasurePart) : (s.modUnit u f).flash = s.flash := rfl
@[simp] theorem State.modUnit_tdc (s : State) (u : Fin 8) (f : MeasurePart → MeasurePart) : (s.modUnit u f).tdc = s.tdc := rfl
@[simp] theorem State.modUnit_links (s : State) (u : Fin 8) (f : MeasurePart → MeasurePart) : (s.modUnit u f).links = s.links := rfl
@[simp] theorem State.modUnit_cluster (s : State) (u : Fin 8) (f : MeasurePart → MeasurePart) : (s.modUnit u f).cluster = s.cluster := rfl
@[simp] theorem State.modUnit_twin (s : State) (u : Fin 8) (f : MeasurePart → MeasurePart) : (s.modUnit u f).twin = s.twin := rfl
@[simp] theorem State.modUnit_plant (s : State) (u : Fin 8) (f : MeasurePart → MeasurePart) : (s.modUnit u f).plant = s.plant := rfl
@[simp] theorem State.modUnit_boot (s : State) (u : Fin 8) (f : MeasurePart → MeasurePart) : (s.modUnit u f).boot = s.boot := rfl
@[simp] theorem State.modUnit_out (s : State) (u : Fin 8) (f : MeasurePart → MeasurePart) : (s.modUnit u f).out = s.out := rfl
@[simp] theorem State.modUnit_fresh (s : State) (u : Fin 8) (f : MeasurePart → MeasurePart) : (s.modUnit u f).fresh = s.fresh := rfl
@[simp] theorem State.modUnit_pending (s : State) (u : Fin 8) (f : MeasurePart → MeasurePart) : (s.modUnit u f).pending = s.pending := rfl

/-! ## Registers through updates of other parts -/

@[simp] theorem State.putBlob_u (s : State) (k : Nat) (v : List Byte) (x : Reg) : (s.putBlob k v).u x = s.u x := rfl
@[simp] theorem State.emit_u (s : State) (o : Out) (x : Reg) : (s.emit o).u x = s.u x := rfl
@[simp] theorem State.drawn_u (s : State)  (x : Reg) : (s.drawn).u x = s.u x := rfl
@[simp] theorem State.modPort_u (s : State) (n : Port) (f : FibrePort → FibrePort) (x : Reg) : (s.modPort n f).u x = s.u x := rfl
@[simp] theorem State.modPipe_u (s : State) (n : Port) (f : PipePart → PipePart) (x : Reg) : (s.modPipe n f).u x = s.u x := rfl
@[simp] theorem State.modRaman_u (s : State) (n : Port) (f : RamanPart → RamanPart) (x : Reg) : (s.modRaman n f).u x = s.u x := rfl
@[simp] theorem State.modBril_u (s : State) (n : Port) (f : BrilPart → BrilPart) (x : Reg) : (s.modBril n f).u x = s.u x := rfl
@[simp] theorem State.modStall_u (s : State) (n : StallId) (f : Stall → Stall) (x : Reg) : (s.modStall n f).u x = s.u x := rfl
@[simp] theorem State.modPitch_u (s : State) (k : Fin 192) (f : PitchPart → PitchPart) (x : Reg) : (s.modPitch k f).u x = s.u x := rfl
@[simp] theorem State.modProgram_u (s : State) (g : Fin 16) (f : ProgramPart → ProgramPart) (x : Reg) : (s.modProgram g f).u x = s.u x := rfl
@[simp] theorem State.modRegion_u (s : State) (r : Fin 64) (f : RegionPart → RegionPart) (x : Reg) : (s.modRegion r f).u x = s.u x := rfl
@[simp] theorem State.modStream_u (s : State) (k : Fin 256) (f : StreamPart → StreamPart) (x : Reg) : (s.modStream k f).u x = s.u x := rfl
@[simp] theorem State.modEth_u (s : State) (p : Fin 4) (f : EthPort → EthPort) (x : Reg) : (s.modEth p f).u x = s.u x := rfl
@[simp] theorem State.modJournal_u (s : State) (j : Fin 18) (f : JournalPart → JournalPart) (x : Reg) : (s.modJournal j f).u x = s.u x := rfl
@[simp] theorem State.modCal_u (s : State) (k : Nat) (f : CalRun → CalRun) (x : Reg) : (s.modCal k f).u x = s.u x := rfl
@[simp] theorem State.modUnit_u (s : State) (u : Fin 8) (f : MeasurePart → MeasurePart) (x : Reg) : (s.modUnit u f).u x = s.u x := rfl

/-! ## Parts by number -/

@[simp] theorem State.modPort_self (s : State) (n : Port) (f : FibrePort → FibrePort) : (s.modPort n f).ports[n] = f s.ports[n] := by
  simp [State.modPort]

theorem State.modPort_other (s : State) (n : Port) (f : FibrePort → FibrePort) (m : Port) (h : n ≠ m) : (s.modPort n f).ports[m] = s.ports[m] := by
  have : n.val ≠ m.val := fun e => h (Fin.ext e)
  simp [State.modPort, this]

@[simp] theorem State.modPipe_self (s : State) (n : Port) (f : PipePart → PipePart) : (s.modPipe n f).pipes[n] = f s.pipes[n] := by
  simp [State.modPipe]

theorem State.modPipe_other (s : State) (n : Port) (f : PipePart → PipePart) (m : Port) (h : n ≠ m) : (s.modPipe n f).pipes[m] = s.pipes[m] := by
  have : n.val ≠ m.val := fun e => h (Fin.ext e)
  simp [State.modPipe, this]

@[simp] theorem State.modRaman_self (s : State) (n : Port) (f : RamanPart → RamanPart) : (s.modRaman n f).raman[n] = f s.raman[n] := by
  simp [State.modRaman]

theorem State.modRaman_other (s : State) (n : Port) (f : RamanPart → RamanPart) (m : Port) (h : n ≠ m) : (s.modRaman n f).raman[m] = s.raman[m] := by
  have : n.val ≠ m.val := fun e => h (Fin.ext e)
  simp [State.modRaman, this]

@[simp] theorem State.modBril_self (s : State) (n : Port) (f : BrilPart → BrilPart) : (s.modBril n f).bril[n] = f s.bril[n] := by
  simp [State.modBril]

theorem State.modBril_other (s : State) (n : Port) (f : BrilPart → BrilPart) (m : Port) (h : n ≠ m) : (s.modBril n f).bril[m] = s.bril[m] := by
  have : n.val ≠ m.val := fun e => h (Fin.ext e)
  simp [State.modBril, this]

@[simp] theorem State.modStall_self (s : State) (n : StallId) (f : Stall → Stall) : (s.modStall n f).stalls[n] = f s.stalls[n] := by
  simp [State.modStall]

theorem State.modStall_other (s : State) (n : StallId) (f : Stall → Stall) (m : StallId) (h : n ≠ m) : (s.modStall n f).stalls[m] = s.stalls[m] := by
  have : n.val ≠ m.val := fun e => h (Fin.ext e)
  simp [State.modStall, this]

@[simp] theorem State.modPitch_self (s : State) (k : Fin 192) (f : PitchPart → PitchPart) : (s.modPitch k f).pitches[k] = f s.pitches[k] := by
  simp [State.modPitch]

theorem State.modPitch_other (s : State) (k : Fin 192) (f : PitchPart → PitchPart) (m : Fin 192) (h : k ≠ m) : (s.modPitch k f).pitches[m] = s.pitches[m] := by
  have : k.val ≠ m.val := fun e => h (Fin.ext e)
  simp [State.modPitch, this]

@[simp] theorem State.modProgram_self (s : State) (g : Fin 16) (f : ProgramPart → ProgramPart) : (s.modProgram g f).programs[g] = f s.programs[g] := by
  simp [State.modProgram]

theorem State.modProgram_other (s : State) (g : Fin 16) (f : ProgramPart → ProgramPart) (m : Fin 16) (h : g ≠ m) : (s.modProgram g f).programs[m] = s.programs[m] := by
  have : g.val ≠ m.val := fun e => h (Fin.ext e)
  simp [State.modProgram, this]

@[simp] theorem State.modStream_self (s : State) (k : Fin 256) (f : StreamPart → StreamPart) : (s.modStream k f).streams[k] = f s.streams[k] := by
  simp [State.modStream]

theorem State.modStream_other (s : State) (k : Fin 256) (f : StreamPart → StreamPart) (m : Fin 256) (h : k ≠ m) : (s.modStream k f).streams[m] = s.streams[m] := by
  have : k.val ≠ m.val := fun e => h (Fin.ext e)
  simp [State.modStream, this]

@[simp] theorem State.modEth_self (s : State) (p : Fin 4) (f : EthPort → EthPort) : (s.modEth p f).eth[p] = f s.eth[p] := by
  simp [State.modEth]

theorem State.modEth_other (s : State) (p : Fin 4) (f : EthPort → EthPort) (m : Fin 4) (h : p ≠ m) : (s.modEth p f).eth[m] = s.eth[m] := by
  have : p.val ≠ m.val := fun e => h (Fin.ext e)
  simp [State.modEth, this]

@[simp] theorem State.modUnit_self (s : State) (u : Fin 8) (f : MeasurePart → MeasurePart) : (s.modUnit u f).units[u] = f s.units[u] := by
  simp [State.modUnit]

theorem State.modUnit_other (s : State) (u : Fin 8) (f : MeasurePart → MeasurePart) (m : Fin 8) (h : u ≠ m) : (s.modUnit u f).units[m] = s.units[m] := by
  have : u.val ≠ m.val := fun e => h (Fin.ext e)
  simp [State.modUnit, this]

end Sys2Proof.Machine
end

