-- ==== Sys2Proof/Laws/Tick.lean ====
section
/-! SUPPORT. What the operations of Machine/Tick.lean keep, one lemma each (Keeps, Completes: Laws/Keeps.lean). -/

/- One declaration after another: side by side they would need more memory. -/
set_option Elab.async false

namespace Sys2Proof.Machine

theorem State.count1_keeps {s₀ : State} {s : State} (h : Keeps s₀ s) :
    Keeps s₀ (State.count1 s) := by
  unfold State.count1
  try dsimp only
  repeat' first
    | with_reducible exact h
    | with_reducible refine Keeps.ite ?_ ?_
    | (fail_if_no_progress with_reducible refine Keeps.mk_same ?_ rfl)

end Sys2Proof.Machine
end

