-- ==== Sys2Proof/WellFormed.lean ====
section
/-! DEFINITION. The commands the outside can send: the lengths of the fields their messages carry (R391, R393, R398, R402, R408, R524). -/

namespace Sys2Proof

/-- A command whose fields have the lengths of their messages. -/
def Instr.wf : Instr → Bool
  | .epochCorrectionOverflow => true
  | .epochSecond => true
  | .ppsEdge _ => true
  | .ppsTimeout => true
  | .secLabel r _ => r.tag.length == 16
  | .stepLoad => true
  | .slewEnd => true
  | .holdoverErrGrowth => true
  | .mainsEdge _ => true
  | .mainsSyntheticEdge => true
  | .encLevelAccept _ _ _ => true
  | .encPreset r _ => r.tag.length == 16
  | .lineRateUpdate => true
  | .commitPoint _ _ => true
  | .toneLoad _ => true
  | .gateAssert _ => true
  | .launch _ => true
  | .monStamp _ _ => true
  | .stampMiss _ => true
  | .recordWindowOpen _ _ _ => true
  | .gateRelease _ => true
  | .recordWindowClose _ _ => true
  | .lsiRelease _ => true
  | .lsiHold _ => true
  | .lsiResume => true
  | .lsiDiscord => true
  | .crestComputationEnd _ _ => true
  | .commonModeFault _ _ _ _ => true
  | .txCheck _ _ _ => true
  | .send r _ _ => r.tag.length == 16
  | .fctlWordEnd _ => true
  | .scheduledWordStart _ => true
  | .stateWordArrival _ _ _ _ => true
  | .gridPoint _ _ => true
  | .dasShotEnd _ => true
  | .relearn r _ _ => r.tag.length == 16
  | .queueDrain _ words => decide (words ≤ 262144)
  | .averageComplete _ _ => true
  | .profileDelivery _ => true
  | .brilShotAdd _ => true
  | .release r _ _ => r.tag.length == 16
  | .deliveryComplete _ => true
  | .migrationCopyEnd _ => true
  | .stlTestEnd _ _ => true
  | .image r _ _ => r.tag.length == 16
  | .programLoadEnd _ => true
  | .inqPop _ _ => true
  | .get _ _ _ => true
  | .put _ _ _ => true
  | .get2d _ _ _ => true
  | .put2d _ _ _ => true
  | .done _ _ => true
  | .trig _ _ => true
  | .mail _ _ => true
  | .nop _ => true
  | .vadd _ _ _ _ => true
  | .vsub _ _ _ _ => true
  | .vadds _ _ _ _ => true
  | .vsubs _ _ _ _ => true
  | .vand _ _ _ _ => true
  | .vor _ _ _ _ => true
  | .vxor _ _ _ _ => true
  | .vmin _ _ _ _ => true
  | .vmax _ _ _ _ => true
  | .vabs _ _ _ _ => true
  | .vneg _ _ _ _ => true
  | .vshl _ _ _ _ => true
  | .vsra _ _ _ _ => true
  | .vcgt _ _ _ _ => true
  | .vceq _ _ _ _ => true
  | .vmov _ _ _ _ => true
  | .vshli _ _ _ _ => true
  | .vsrai _ _ _ _ => true
  | .vsrli _ _ _ _ => true
  | .vswz _ _ _ _ => true
  | .mpy _ _ _ _ _ _ => true
  | .mac _ _ _ _ _ _ => true
  | .msu _ _ _ _ _ _ => true
  | .cmac _ _ _ _ _ _ _ => true
  | .clra _ _ _ _ _ => true
  | .mova _ _ _ _ _ => true
  | .adda _ _ _ _ _ => true
  | .suba _ _ _ _ _ => true
  | .shla _ _ _ _ _ => true
  | .sraa _ _ _ _ _ => true
  | .norm _ _ _ _ _ => true
  | .exp _ _ _ _ _ => true
  | .reda _ _ _ _ _ => true
  | .lda _ _ _ _ _ => true
  | .nega _ _ _ _ _ => true
  | .absa _ _ _ _ _ => true
  | .sta _ _ _ _ => true
  | .ld _ _ _ _ _ _ _ => true
  | .st _ _ _ _ _ _ _ => true
  | .ldp _ _ _ _ _ _ => true
  | .stp _ _ _ _ _ _ => true
  | .ldam _ _ _ _ _ _ => true
  | .stam _ _ _ _ _ _ => true
  | .lip _ _ _ => true
  | .addpi _ _ _ _ => true
  | .add _ _ _ _ _ => true
  | .sub _ _ _ _ _ => true
  | .and _ _ _ _ _ => true
  | .or _ _ _ _ _ => true
  | .xor _ _ _ _ _ => true
  | .shl _ _ _ _ _ => true
  | .shr _ _ _ _ _ => true
  | .sra _ _ _ _ _ => true
  | .shli _ _ _ _ _ => true
  | .shri _ _ _ _ _ => true
  | .srai _ _ _ _ _ => true
  | .mul _ _ _ _ _ => true
  | .slt _ _ _ _ _ => true
  | .sltu _ _ _ _ _ => true
  | .min _ _ _ _ _ => true
  | .max _ _ _ _ _ => true
  | .br _ _ => true
  | .bcc _ _ _ _ _ => true
  | .call _ _ => true
  | .ret _ => true
  | .loop _ _ _ _ _ => true
  | .trapret _ => true
  | .issue _ _ _ => true
  | .wait _ _ _ => true
  | .mfs _ _ _ => true
  | .mts _ _ _ => true
  | .movdp _ _ _ _ => true
  | .movpd _ _ _ _ => true
  | .mfm _ _ _ _ => true
  | .mtm _ _ _ _ => true
  | .mfrb _ _ => true
  | .mtrb _ _ => true
  | .rotb _ => true
  | .vdup _ _ _ => true
  | .pointCondition _ => true
  | .stallTrigRequest => true
  | .canFrame _ _ data _ => decide (data.length ≤ 64)
  | .recordWritten _ => true
  | .rearmEnd _ => true
  | .bellArm _ _ _ => true
  | .bellDisarm _ _ _ => true
  | .bellFire _ _ _ => true
  | .armAtEpoch => true
  | .fireGroup r _ => r.tag.length == 16
  | .armGroup r _ => r.tag.length == 16
  | .armGroupDisarm r _ => r.tag.length == 16
  | .refEdgeLoss _ => true
  | .coastAcquire => true
  | .pllLock => true
  | .coastExit => true
  | .pllLockLoss => true
  | .qualWindowEnd _ _ => true
  | .ovenRdyRise => true
  | .ovenRdyFall => true
  | .ovenHoldExpiry => true
  | .ageLearnTick => true
  | .xtalTrimSave => true
  | .domainSourceLoss _ => true
  | .rootStop => true
  | .tdcStamp _ _ => true
  | .unitEvent _ => true
  | .pairWinExpiry _ => true
  | .scrub addr _ => addr % 16 == 0
  | .repair r _ _ => r.tag.length == 16
  | .channelSecond _ counts _ => decide (counts.length ≤ 144)
  | .repairPassEnd _ => true
  | .dramRefresh _ => true
  | .timingTracking _ => true
  | .zqCalibration _ => true
  | .peerResetClear _ => true
  | .anTimeout _ => true
  | .rateTryTimeout _ => true
  | .linkUp _ => true
  | .linkDown _ => true
  | .prpSupervision _ => true
  | .prpPathTimeout _ => true
  | .arpRequest _ _ sender => sender.length == 10
  | .neighborSolicitation _ _ sender => sender.length == 22
  | .icmpEcho _ _ => true
  | .ptpAnnounce _ _ => true
  | .ptpSync _ _ => true
  | .pathDelayMeasurement _ _ => true
  | .announceReceiptTimeout => true
  | .syncMissed => true
  | .subscribe _ _ _ _ => true
  | .streamKeepalive _ _ _ _ => true
  | .credit _ _ _ _ => true
  | .streamClose _ _ _ => true
  | .leaseExpiry _ => true
  | .baleTimeout _ => true
  | .baleCompressed => true
  | .datagramSend _ => true
  | .decodeStart => true
  | .decodeEnd _ => true
  | .openSession r _ _ nonceC nonceD _ => r.tag.length == 16 && nonceC.length == 16 && nonceD.length == 16
  | .auth r proof => r.tag.length == 16 && proof.length == 32
  | .closeSession r => r.tag.length == 16
  | .keepalive r => r.tag.length == 16
  | .readObj r _ _ _ => r.tag.length == 16
  | .writeObj r _ _ _ _ => r.tag.length == 16
  | .segBegin r _ _ _ _ => r.tag.length == 16
  | .segData r _ bytes => r.tag.length == 16 && decide (bytes.length ≤ 1434)
  | .segEnd r _ => r.tag.length == 16
  | .segRead r _ _ _ _ => r.tag.length == 16
  | .w1cClear r _ _ _ => r.tag.length == 16
  | .apply r _ => r.tag.length == 16
  | .key r _ masked => r.tag.length == 16 && masked.length == 32
  | .kill r _ => r.tag.length == 16
  | .fromPos r _ => r.tag.length == 16
  | .entries r => r.tag.length == 16
  | .sessionExpiry _ => true
  | .authTimeout _ => true
  | .segIdleTimeout _ => true
  | .rateLimitEnd _ => true
  | .ledgerForward _ _ _ => true
  | .forwardResponse _ _ _ => true
  | .forwardTimeout _ _ => true
  | .canLedgerFrame _ classical data => decide (data.length ≤ (if classical then 8 else 64))
  | .canSegmentTimeout _ => true
  | .busOff => true
  | .busOffRecovery => true
  | .summaryEntry _ => true
  | .trainingTimeout _ => true
  | .retrain _ => true
  | .alignmentMarker _ _ _ _ _ _ => true
  | .laneFailure _ _ => true
  | .haggleSend _ => true
  | .haggle _ _ => true
  | .linkFrame _ _ _ _ => true
  | .replayTimeout _ => true
  | .linkCrierSend _ => true
  | .linkSilent _ => true
  | .topoSend => true
  | .topo _ _ => true
  | .topoAgeOut _ => true
  | .rootSelection => true
  | .clusterSourceLoss => true
  | .timingMarker _ _ => true
  | .timeFrame _ _ _ _ => true
  | .mirrorFrame _ _ _ _ _ payload => decide (payload.length ≤ 240)
  | .mirroredCommit _ _ => true
  | .baleMark _ _ => true
  | .peerStreamBale _ _ _ _ _ => true
  | .twinCrierSend _ => true
  | .crier _ _ => true
  | .crierTimeout _ => true
  | .claimFrame _ => true
  | .claimStale => true
  | .yield r _ => r.tag.length == 16
  | .conversionEnd _ _ _ => true
  | .excCompliance _ _ => true
  | .toneCheck _ _ => true
  | .sfeCycleEnd _ => true
  | .loopControl _ _ => true
  | .srcAgeExpiry _ => true
  | .loopOpen _ => true
  | .loopDev _ => true
  | .plantMail => true
  | .sinkPowerAverage _ => true
  | .sinkPinSample _ _ _ => true
  | .sinkTestPulse _ _ _ => true
  | .clearShort r _ => r.tag.length == 16
  | .chainImage r bits => r.tag.length == 16 && bits.length == 128
  | .chainRefresh => true
  | .chainFrameEnd _ => true
  | .calStart r _ => r.tag.length == 16
  | .calStop r _ => r.tag.length == 16
  | .calComputationEnd _ _ => true
  | .calTimeout _ => true
  | .calAutoStart _ => true
  | .tdcShadowSwap => true
  | .journalWrite _ => true
  | .flashOperationEnd _ _ => true
  | .earlyWarn _ => true
  | .earlyWarnClear => true
  | .railOvervoltage _ => true
  | .porstN => true
  | .srstN => true
  | .supplyReset => true
  | .thermalReset => true
  | .reset r _ => r.tag.length == 16
  | .zeroizePin => true
  | .zeroize r _ => r.tag.length == 16
  | .zeroizeEraseEnd => true
  | .lockstepMismatch => true
  | .watchdogExpiry => true
  | .clerkPoisonRead => true
  | .clerkRestartEnd => true
  | .loaderStart => true
  | .clerksStart => true
  | .dramTrainingEnd _ capacity failed => [8, 16, 32].any (fun g => capacity == g * 2 ^ 30) && failed.all (fun l => decide (l < 144))
  | .dramClearEnd => true
  | .schedulerStart => true
  | .fwProgrammingEnd => true
  | .switchLive r => r.tag.length == 16
  | .switchReset r => r.tag.length == 16
  | .confirm r => r.tag.length == 16
  | .trialTimeout => true
  | .temperatureRead _ _ _ => true
  | .extest => true
  | .idcode => true
  | .samplePreload => true
  | .clamp => true
  | .bypass => true
  | .extestExit => true
  | .chal nonce => nonce.length == 32
  | .resp _ _ => true
  | .chalLockoutEnd => true
  | .trstN => true
  | .dbgLock r _ => r.tag.length == 16
  | .dbgreg _ _ _ _ => true
  | .memRead _ => true
  | .memWrite _ _ => true
  | .halt _ => true
  | .resume _ => true
  | .step _ => true
  | .bpSet _ _ _ => true
  | .bpClear _ _ => true
  | .watchSet _ _ _ _ _ => true
  | .regRead _ _ _ => true
  | .regWrite _ _ _ _ => true
  | .status _ => true
  | .refEdgesPresent _ => true
  | .anDone _ _ _ => true
  | .blockLock _ _ => true
  | .alignmentMarkerSend _ => true
  | .forwardedFrame _ _ _ _ => true
  | .forwardedFrameTimeout _ _ => true
  | .badFrame _ => true
  | .malformedMessage _ _ => true
  | .streamViolation _ _ => true
  | .bellTypeViolation _ _ _ => true
  | .snapshotExpiry _ => true
  | .prpDuplicate _ _ => true
  | .ipFragment _ => true
  | .illegalOpcode _ => true
  | .queuePeak r _ => r.tag.length == 16
  | .compLatMax r => r.tag.length == 16
  | .tMax r => r.tag.length == 16

end Sys2Proof
end

