-- ==== Sys2Proof/Tests/Slice0.lean ====
section
/-! SUPPORT. The tests: ill-formed commands that WellFormed refuses, and, for each statement, states and operands that meet its hypotheses. -/

open Sys2Proof Sys2Proof.Machine

/- Each `decide +kernel` waits for every declaration before it; elaborated one after another, the tests need one thread and not one each. -/
set_option Elab.async false

namespace Sys2Proof.Tests

/-! ## WellFormed: an ill-formed term for each check, which it refuses -/

/-- A request whose authentication tag has 15 bytes instead of 16 (R391). -/
def short : Req := { session := 0, seq := 0, path := .udp 5 1000 0, tag := List.replicate 15 0 }

/-- A request with a tag of 16 bytes. -/
def whole : Req := { session := 0, seq := 0, path := .udp 5 1000 0, tag := List.replicate 16 0 }

theorem test_short_tag_a :
    [Instr.secLabel short 0,
      Instr.encPreset short 0,
      Instr.send short 0 0,
      Instr.relearn short 0 0,
      Instr.release short 0 0,
      Instr.image short 0 [],
      Instr.fireGroup short 0,
      Instr.armGroup short 0,
      Instr.armGroupDisarm short 0,
      Instr.repair short 0 0,
      Instr.openSession short 0 0 (List.replicate 16 0) (List.replicate 16 0) 0,
      Instr.auth short (List.replicate 32 0)].all (fun i => !i.wf) = true := by decide

theorem test_short_tag_b :
    [Instr.closeSession short,
      Instr.keepalive short,
      Instr.readObj short 0 0 false,
      Instr.writeObj short 0 0 0 [],
      Instr.segBegin short 0 0 false 0,
      Instr.segData short 0 [],
      Instr.segEnd short 0,
      Instr.segRead short 0 0 0 0,
      Instr.w1cClear short 0 0 0,
      Instr.apply short 0,
      Instr.key short 0 (List.replicate 32 0),
      Instr.kill short 0].all (fun i => !i.wf) = true := by decide

theorem test_short_tag_c :
    [Instr.fromPos short 0,
      Instr.entries short,
      Instr.yield short 0,
      Instr.clearShort short 0,
      Instr.chainImage short (List.replicate 128 0),
      Instr.calStart short 0,
      Instr.calStop short 0,
      Instr.reset short 0,
      Instr.zeroize short 0,
      Instr.switchLive short,
      Instr.switchReset short,
      Instr.confirm short].all (fun i => !i.wf) = true := by decide

theorem test_short_tag_d :
    [Instr.dbgLock short 0,
      Instr.queuePeak short 0,
      Instr.compLatMax short,
      Instr.tMax short].all (fun i => !i.wf) = true := by decide

theorem test_drain_beyond_queue : (.queueDrain 0 262145 : Instr).wf = false ∧ (.queueDrain 0 262144 : Instr).wf = true := by decide

theorem test_can_frame_beyond_64_bytes : (.canFrame 0 false (List.replicate 65 0) 0 : Instr).wf = false ∧ (.canFrame 0 false (List.replicate 64 0) 0 : Instr).wf = true := by decide

theorem test_scrub_off_its_word : (.scrub 8 0 : Instr).wf = false ∧ (.scrub 16 0 : Instr).wf = true := by decide

theorem test_channel_second_beyond_144_lanes : (.channelSecond 0 (List.replicate 145 0) 0 : Instr).wf = false ∧ (.channelSecond 0 (List.replicate 144 0) 0 : Instr).wf = true := by decide +kernel

theorem test_training_capacity : (.dramTrainingEnd 0 (12 * 2 ^ 30) [] : Instr).wf = false ∧ (.dramTrainingEnd 0 (16 * 2 ^ 30) [] : Instr).wf = true := by decide

theorem test_training_beyond_144_lanes : (.dramTrainingEnd 0 (16 * 2 ^ 30) [144] : Instr).wf = false ∧ (.dramTrainingEnd 0 (16 * 2 ^ 30) [143] : Instr).wf = true := by decide

theorem test_arp_sender_length : (.arpRequest 0 0 (List.replicate 9 0) : Instr).wf = false ∧ (.arpRequest 0 0 (List.replicate 10 0) : Instr).wf = true := by decide

theorem test_neighbour_sender_length : (.neighborSolicitation 0 0 (List.replicate 21 0) : Instr).wf = false ∧ (.neighborSolicitation 0 0 (List.replicate 22 0) : Instr).wf = true := by decide

theorem test_open_client_nonce_length : (.openSession whole 0 0 (List.replicate 15 0) (List.replicate 16 0) 0 : Instr).wf = false ∧ (.openSession whole 0 0 (List.replicate 16 0) (List.replicate 16 0) 0 : Instr).wf = true := by decide

theorem test_open_device_nonce_length : (.openSession whole 0 0 (List.replicate 16 0) (List.replicate 17 0) 0 : Instr).wf = false ∧ (.openSession whole 1 1 (List.replicate 16 0) (List.replicate 16 0) 0 : Instr).wf = true := by decide

theorem test_auth_proof_length : (.auth whole (List.replicate 31 0) : Instr).wf = false ∧ (.auth whole (List.replicate 32 0) : Instr).wf = true := by decide

/-- A segment carries at most 1,434 bytes. -/
theorem test_segment_too_long : (Instr.segData whole 0 (List.replicate 1435 0)).wf = false := by decide +kernel

theorem test_segment_whole : (Instr.segData whole 0 (List.replicate 1434 0)).wf = true := by decide +kernel

theorem test_key_length : (.key whole 0 (List.replicate 33 0) : Instr).wf = false ∧ (.key whole 0 (List.replicate 32 0) : Instr).wf = true := by decide

theorem test_classical_frame_beyond_8_bytes : (.canLedgerFrame 0 true (List.replicate 9 0) : Instr).wf = false ∧ (.canLedgerFrame 0 true (List.replicate 8 0) : Instr).wf = true := by decide

theorem test_can_fd_frame_beyond_64_bytes : (.canLedgerFrame 0 false (List.replicate 65 0) : Instr).wf = false ∧ (.canLedgerFrame 0 false (List.replicate 64 0) : Instr).wf = true := by decide

theorem test_mirror_frame_too_long : (Instr.mirrorFrame ⟨0, 0, 0, 0, 0, []⟩ 0 0 0 true (List.replicate 241 0)).wf = false := by decide +kernel

theorem test_mirror_frame_whole : (Instr.mirrorFrame ⟨0, 0, 0, 0, 0, []⟩ 0 0 0 true (List.replicate 240 0)).wf = true := by decide +kernel

theorem test_chain_image_length : (.chainImage whole (List.replicate 127 0) : Instr).wf = false ∧ (.chainImage whole (List.replicate 128 0) : Instr).wf = true := by decide

theorem test_challenge_nonce_length : (.chal (List.replicate 31 0) : Instr).wf = false ∧ (.chal (List.replicate 32 0) : Instr).wf = true := by decide

/-! ## States and operands that meet the hypotheses of the statements -/

/-- The state after reset. -/
abbrev start : State := State.reset
/-- A tag of zeros, a request on the session below, and an anonymous session of access level 3, which needs no tag (R392). -/
def rq : Req := ⟨7, 1, .udp 5 1000 0, zeroTag⟩
def ses : Session := { id := 7, slot := 0, asked := 3, anon := true, level := 3, path := .udp 5 1000 0, authed := true }
def withSes (s : State) (x : Session) : State := { s with ledger := { s.ledger with sessions := [x] } }
def topo0 : TopoFrame := { deviceId := 9, serialCrc := 5, seq := 3, hops := 4, links := [], privileged := false, originTai := false, rootPri := 0 }
/-- The state in which the device serves messages and one session is open. -/
def RSx (start : State) (x : Session) : State := (withSes { start with boot := { start.boot with served := true } } x).put Obj.HEALTH.BOOT_STATE 3
def RSb (start : State) : State := RSx start ses
/-- The state after a request is heard. -/
def heardAs (s : State) (r : Req) (x : Session) : State :=
  (Sys2Proof.counted s r).modSession x.id (fun y => { y with last := (Sys2Proof.counted s r).now })

theorem gate_go {s : State} {op : Nat} {r : Req} {body : List Byte} {x : Session}
    (h : taken s r.path r.session = true ∧ clerksFull s = false ∧ bodyGood op body.length = true ∧ sessionById (Sys2Proof.counted s r) r.session = some x ∧
      x.verifies (Sys2Proof.counted s r) op r body = true ∧ x.kept.find? (fun e => e.1 == r.seq) = none ∧ x.seq < r.seq.toNat) :
    gate s op r body = .go (heardAs s r x) x := by
  obtain ⟨h1, h0, h2, h3, h4, h5, h6⟩ := h
  unfold Sys2Proof.counted at h3 h4
  unfold gate
  simp only [h1, h0, h2, h3, h4, h5, Bool.not_true, Bool.false_eq_true, ↓reduceIte]
  rw [if_neg (by omega)]
  rfl

theorem wrote_ok {s : State} {x : Session} {r : Req} {idx sub : Nat} {ty : Ty} {value : List Byte} {level : Nat}
    (h : (taken s r.path r.session = true ∧ clerksFull s = false ∧ bodyGood 0x11 (le 2 idx ++ le 1 sub ++ le 1 ty.code ++ value).length = true ∧
      sessionById (Sys2Proof.counted s r) r.session = some x ∧ x.verifies (Sys2Proof.counted s r) 0x11 r (le 2 idx ++ le 1 sub ++ le 1 ty.code ++ value) = true ∧
      x.kept.find? (fun e => e.1 == r.seq) = none ∧ x.seq < r.seq.toNat) ∧
      (heardAs s r x).u Obj.HEALTH.BOOT_STATE ≠ 4 ∧ level ≤ x.level ∧ transferTo (heardAs s r x) (idx * 256 + sub) = false ∧
      standby (heardAs s r x) = false) : wrote s (heardAs s r x) x r idx sub ty value level :=
  ⟨gate_go h.1, h.2⟩

theorem asked_ok {s : State} {x : Session} {r : Req} {idx sub : Nat} {staged : Bool}
    (h : (taken s r.path r.session = true ∧ clerksFull s = false ∧ bodyGood 0x10 (le 2 idx ++ le 1 sub ++ le 1 (if staged then 1 else 0)).length = true ∧
      sessionById (Sys2Proof.counted s r) r.session = some x ∧ x.verifies (Sys2Proof.counted s r) 0x10 r (le 2 idx ++ le 1 sub ++ le 1 (if staged then 1 else 0)) = true ∧
      x.kept.find? (fun e => e.1 == r.seq) = none ∧ x.seq < r.seq.toNat) ∧
      (heardAs s r x).u Obj.HEALTH.BOOT_STATE ≠ 4) : asked s (heardAs s r x) x r idx sub staged :=
  ⟨gate_go h.1, h.2⟩
/-- A descriptor's 32 bytes, with zero strides. -/
def desc (kind space len loc rem idx rows flags : Nat) : List Byte :=
  le 1 kind ++ le 1 space ++ le 2 len ++ le 4 loc ++ le 8 rem ++ le 4 idx ++ le 2 rows ++ le 1 flags ++ [0] ++ le 4 0 ++ le 4 0
/-- A stall with a transaction in flight on a tag. -/
def flying (s : State) (t : StallId) (g : Fin 16) (tr : Transaction) : State :=
  { s with stalls := s.stalls.set t { s.stalls[t] with slot := some 0, t := s.stalls[t].t.set g { status := 1, flight := some tr } } }
def held (s : State) : State := { s with lsi := { s.lsi with a := true, b := true, resumed := true } }
def okRow (e : Except Nat ObjRow) : ObjRow := match e with | .ok r => r | .error _ => { sub := 0, ty := .u8, acc := .ro }
def errCode {α : Type} (e : Except Nat α) : Nat := match e with | .ok _ => 0 | .error c => c
def okVal (e : Except Nat (List Byte × List Byte)) : List Byte × List Byte := match e with | .ok r => r | .error _ => ([], [])
def hag : Haggle := { session := 7, req := 1, kind := 1, port := 1, slot := 1, output := 1, sel := 0, pFirst := 0, pCount := 0, decimT := 1, baleMs := 100, toll := 1000000, tollMin := 1000, compress := 0, credit := 0, maxDgram := 1000, lease := 10, destPort := 7, dest := 0, tag := zeroTag }
def dset (x : Stall) (n : Fin 64) (q : DReg) : Stall := { x with d := x.d.set n q }

theorem holder_plain {s : State} {a : Nat} (h : memKind s a = .stall) : holderOf s a = some (plainHolder s a) := by
  simp [holderOf, h]

theorem memory_ok {s : State} (h : Memory.wf s.mem = true) : memoryGood s := h

theorem sound_ok {s : State} {a n : Nat} (h : s.poison = [] ∧ s.flips = []) : sound s a n := by
  refine ⟨fun p hp => ?_, fun e he => ?_⟩
  · rw [h.1] at hp; cases hp
  · rw [h.2] at he; cases he

theorem issues_ok {s : State} {t : StallId} (h : s.stalls[t].running = true ∧
    (s.stalls[t].skipBp || s.stalls[t].bps.toList.all (fun b => b != some s.stalls[t].pc)) = true ∧
    s.poison = [] ∧ s.flips = []) : issues s t := by
  obtain ⟨h1, h2, h3⟩ := h
  refine ⟨h1, ?_, sound_ok h3⟩
  simp only [Bool.or_eq_true, List.all_eq_true, bne_iff_ne] at h2
  exact h2

theorem ready_ok {s : State} {t : StallId} (h : (s.stalls[t].running = true ∧
    (s.stalls[t].skipBp || s.stalls[t].bps.toList.all (fun b => b != some s.stalls[t].pc)) = true ∧
    s.poison = [] ∧ s.flips = []) ∧ s.stalls[t].runsOut = false) : ready s t :=
  ⟨issues_ok h.1, h.2⟩

theorem control_ok {s : State} {t : StallId} (h : (s.stalls[t].running = true ∧
    (s.stalls[t].skipBp || s.stalls[t].bps.toList.all (fun b => b != some s.stalls[t].pc)) = true ∧
    s.poison = [] ∧ s.flips = []) ∧ s.stalls[t].lastOfBody = false) : issuesControl s t :=
  ⟨issues_ok h.1, h.2⟩

theorem quad_all {α : Type} {q : Quad α} {P : α → Prop} (h : P q.l0 ∧ P q.l1 ∧ P q.l2 ∧ P q.l3) (i : Nat) : P (q.get i) := by
  unfold Quad.get
  split
  · exact h.1
  · exact h.2.1
  · exact h.2.2.1
  · exact h.2.2.2

theorem quad_even {α : Type} {q : Quad α} {v : α} (h : q.l0 = v ∧ q.l2 = v) (k : Nat) : v = q.get (2 * k) := by
  have : 2 * k % 4 = 0 ∨ 2 * k % 4 = 2 := by omega
  unfold Quad.get
  rcases this with e | e <;> rw [e]
  · exact h.1.symm
  · exact h.2.symm

theorem quad_odd {α : Type} {q : Quad α} {v : α} (h : q.l1 = v ∧ q.l3 = v) (k : Nat) : v = q.get (2 * k + 1) := by
  have : (2 * k + 1) % 4 = 1 ∨ (2 * k + 1) % 4 = 3 := by omega
  unfold Quad.get
  rcases this with e | e <;> rw [e]
  · exact h.1.symm
  · exact h.2.symm

/-- A stall in service with complex numbers in D2 and D4. -/
def cmacState : State :=
  { start with stalls := start.stalls.set 3 { start.stalls[3] with
      state := .service
      d := (start.stalls[3].d.set 2 ⟨⟨5, false⟩, ⟨6, false⟩, ⟨5, false⟩, ⟨6, false⟩⟩).set 4 ⟨⟨15, false⟩, ⟨16, false⟩, ⟨15, false⟩, ⟨16, false⟩⟩ } }

/-- A stall in service that stores D5 at the address in P2. -/
def storeState : State :=
  { start with stalls := start.stalls.set 3 (dset { start.stalls[3] with state := .service, p := start.stalls[3].p.set 2 64 } 5
      ⟨⟨5, false⟩, ⟨6, false⟩, ⟨-7, false⟩, ⟨8, false⟩⟩) }

/-- Stall 3 in service, all else as after reset. -/
def serving : State := { start with stalls := (start.stalls.set (3 : StallId) { start.stalls[(3 : StallId)] with state := .service }) }

/-- A session opened on key slot 3 that waits for AUTH, the state it waits in, and its AUTH request with a proof. -/
def keyed : Session := { id := 7, slot := 3, asked := 2, path := .udp 5 1000 0, key := List.replicate 32 9 }
def keyedState : State :=
  let s := RSx (start.put (Obj.KEY_SLOT.ENABLE 3) 1) keyed
  { s with ledger := { s.ledger with keys := [(3, List.replicate 32 7)] } }
def keyedReq (proof : List Byte) : Req :=
  { rq with tag := requestTag (Sys2Proof.counted keyedState rq) keyed.key 2 rq (padTo 32 proof) }

/-- The PLL is LOCKED, so that edges are stamped with their fine field. -/
def locked : State := start.put Obj.CLOCKS.PLL_STATE 2
/-- Port 1 with one shot in hand. -/
def oneShot (s : State) (x : Shot) : State := { s with ports := s.ports.set (1 : Port) { s.ports[(1 : Port)] with shots := [x] } }

/-- A Brillouin shot whose window has closed, and a sweep at hand to which it is added. -/
def brilShot : Shot := { launched := true, winClosed := true, kind := 3, sweepGen := start.bril[1].gen, group := 0, launchAt := 1000000, pFirst := 4, pLast := 4 }
def brilState : State :=
  ((((start.put (Obj.SWEEP_PROGRAM.SHOTS_PER_STEP (1 : Port) 0) 8).put (Obj.SWEEP_PROGRAM.DISCARD (1 : Port) 0) 0).put (Obj.BRIL_STATUS.BUF0_ADDR (1 : Port)) 0x1000).put (Obj.BRIL_STATUS.BUF1_ADDR (1 : Port)) 0x2000) |>
  fun (s : State) =>
    { s with ports := s.ports.set (1 : Port) { s.ports[(1 : Port)] with shots := [brilShot] }, bril := s.bril.set (1 : Port) { s.bril[(1 : Port)] with active := true, program := 0, shot := 1, skip := false, wordEnds := [(0, 5)] } }

/-- Stall 3 with a descriptor in flight on tag 1, and a Brillouin buffer of 4 KiB at 1000h held for its pitch. -/
def buffered (d : List Byte) : State :=
  flying ((((start.put (Obj.BRIL_STATUS.BUF0_ADDR 1) 0x1000).putBit (Obj.BRIL_STATUS.BUF_HELD 1) 0 true).put (Obj.PITCH.PORT 5) 1) |> fun (s : State) =>
    { s with bril := s.bril.set 1 { s.bril[1] with sizes := [4096, 0] } }) (3 : StallId) (1 : Fin 16) { desc := d } |> fun (s : State) =>
    { s with stalls := s.stalls.set (3 : StallId) { s.stalls[(3 : StallId)] with pitches := [5] } }
/-- Link 1 in service, a frame that comes over it as the next in order, and a bell of another device. -/
def linkOne : State := start.put (Obj.AGGON.LSTATE (1 : Fin 4)) 5
def nextOn : Arrival := ⟨1, 0, 0, 0, 0, []⟩
def bellMsg : BellMsg :=
  { type := 1, group := 1, origin := 1, seq := 1, epoch := 1, fine := 1, region := 1, condMask := 1, boundarySeq := 1, armMode := 1 }
/-- A request that stall 3, bound to a pitch, puts to condition 1 of region 1. -/
def asking (type state : Nat) : State :=
  ((start.put (Obj.CONDITIONS.C_TYPE (1 : Fin 64) (1 : Fin 8)) type).put (Obj.REGION.RSTATE (1 : Fin 64)) state) |> fun (s : State) =>
    { s with array := { s.array with trig := [((3 : StallId), [1, 1])] }, stalls := s.stalls.set (3 : StallId) { s.stalls[(3 : StallId)] with pitches := [5] } }
/-- Region 1 with a sample to test, and its delivery. -/
def sampling : State :=
  (start.put (Obj.REGION.PORT (1 : Fin 64)) 2) |> fun (s : State) =>
    { s with pipes := s.pipes.set 2 { s.pipes[2] with ring := [({ closed := true, kind := start.u (Obj.REGION.SOURCE (1 : Fin 64)) + 1, shotSeq := 2 } : Delivery)] }, capture := { s.capture with regions := s.capture.regions.set (1 : Fin 64) { s.capture.regions[(1 : Fin 64)] with ring := [({ seq := 2, stamp := 150 } : AwnEntry)] } } }
/-- The clocks coast at the floor. -/
def coastAt (pll : Nat) : State :=
  ((start.setBit Obj.CLOCKS.FLAGS Bit.CLOCKS.FLAGS.CLK_COAST).put Obj.CLOCKS.PLL_STATE pll) |> fun (s : State) =>
    { s with clk := { s.clk with atFloor := true } }
/-- An input's last edge, and a raw edge of it that waits. -/
def edgeWas (ch : Fin 21) (l : Int) : State := { start with tdc := { start.tdc with lastEdge := start.tdc.lastEdge.set ch (some l) } }
def rawWaits (ch : Fin 21) : State := { start with tdc := { start.tdc with raw := [⟨ch, true, 100, 0, false⟩] } }
/-- Port E1 is up. -/
def up1 : State := { start with eth := start.eth.set (1 : Fin 4) { start.eth[(1 : Fin 4)] with up := true } }
/-- Interface 0 unpaired, E1 up with an address. -/
def ip4State : State :=
  (((up1.put (Obj.INTERFACE.PRP_MODE ((1 : Fin 4).val / 2)) 0).put (Obj.INTERFACE.IPV4_A ((1 : Fin 4).val / 2)) 0x0A000001).put
    (Obj.INTERFACE.IPV4_B ((1 : Fin 4).val / 2)) 0x0A000002)
def ip6State : State :=
  (((up1.put (Obj.INTERFACE.PRP_MODE ((1 : Fin 4).val / 2)) 0).putBlob (Obj.INTERFACE.IPV6_A ((1 : Fin 4).val / 2)) (List.replicate 16 5)).putBlob
    (Obj.INTERFACE.IPV6_B ((1 : Fin 4).val / 2)) (List.replicate 16 6))
/-- Stream 1 is open for the session, or to an address. -/
def streamed (f : StreamPart → StreamPart) : State :=
  { RSb start with streams := (RSb start).streams.set (1 : Fin 256) (f { (RSb start).streams[(1 : Fin 256)] with isOpen := true, session := 7, req := 1 }) }
/-- A source has been served and is under a limit. -/
def limitedState : State :=
  { start with ledger := { start.ledger with sources := [{ src := .addr 5, limited := true, lastServed := some start.now }] } }
/-- The clerks' queue is full. -/
def crowded : State := { RSb start with ledger := { (RSb start).ledger with cycle := (RSb start).now, arrived := 64 } }
/-- Link 1 in a state of training or service, with its part of the state. -/
def linkAs (ls : Nat) (x : LinkPart) : State := { start.put (Obj.AGGON.LSTATE (1 : Fin 4)) ls with links := start.links.set (1 : Fin 4) x }
/-- A datagram that is the one fragment of its bale, and a message for device 77. -/
def frag1 : List Byte := List.replicate 18 0 ++ [1, 0]
def to77 : List Byte := List.replicate 12 0 ++ [77, 0x80] ++ List.replicate 18 0
/-- The haggle of a device that fits this one, and of one that does not. -/
def hagFit : LinkHaggle := ⟨1, 1, ownId start + 1, BitVec.ofNat 16 (start.u Obj.AGGON.CLUSTER), 0, BitVec.ofNat 8 (fwMajor start), 5, 0x8000⟩
def hagBad : LinkHaggle := { hagFit with version := 9 }
def emptyFrame (vc : Nat) : AggonFrame := { vc := vc, kind := 4, src := 9, body := .empty }
/-- A twin in a role, link 1 in service to it and port 1 twinned. -/
def twinState (role : Nat) : State :=
  ((linkOne.put Obj.TWIN.TWIN_EN 1).put Obj.TWIN.ROLE role).setBit Obj.TWIN.TWIN_PORTS (1 : Port)
/-- The criers of both ways are late, or not. -/
def lately (role : Nat) (aggon eth : Bool) : State :=
  { twinState role with twin := { (twinState role).twin with lateAggon := aggon, lateEth := eth } }
def mark1 : BaleMarkMsg := ⟨1, 0, 0, 0, 0, 0⟩
/-- Journal 2 has something to write, and nothing holds it back. -/
def toWrite : State :=
  (start.putBit Obj.FLASH.PENDING 2 true) |> fun (s : State) => { s with boot := { s.boot with switching := false } }
/-- The clerks run, restarted at some times before. -/
def clerksState (l : List Int) : State := { start with boot := { start.boot with clerks := true, restarts := l } }
/-- A record of noise with a kurtosis of 3 on every lane of both inputs. -/
def noisy : CalRecord :=
  let l := (List.range 1024).map (fun i => let v : Int := if i % 48 < 8 then 600 else if i % 48 < 16 then -600 else 0; (⟨v, false, v⟩ : RxSample))
  ⟨l, l, 0, 0⟩
/-- RX_GAIN of port 0 at its pre-check, with such a record over a silent floor. -/
def noisyState : State :=
  (start.putBlob (Obj.RX_TRIMS.NOISE 0) (List.replicate 64 0)).modCal 8 (fun y => { y with running := true, computing := true, records := [noisy] })

theorem noisy_passes (y : Bool) : inputPasses noisyState 0 [noisy] y = true := by
  have h : floorPower noisyState 0 y ((([noisy].head?).map (fun r => stepOf r y)).getD 0) = 0 := by
    obtain ⟨b, e, f, g⟩ : ∃ b, noisyState.blob (Obj.RX_TRIMS.NOISE 0) = b ∧ b.isEmpty = false ∧ ∀ i < 16, fromLe (slice b (4 * i) 4) = 0 :=
      ⟨_, rfl, by decide +kernel, by decide +kernel⟩
    have g0 : fromLe (slice b 0 4) = 0 := g 0 (by decide)
    have g8 : fromLe (slice b 32 4) = 0 := g 8 (by decide)
    cases y
    · simp [floorPower, e, f, noisy, stepOf, bit8, g0]
    · simp [floorPower, e, f, noisy, stepOf, bit8, g8]
  unfold inputPasses
  rw [h]
  cases y <;> decide +kernel

theorem noisy_checked : preCheck noisyState 8 ⟨true, 0, true, [], []⟩ = true := by
  have c : (noisyState.calOf 8).comps = 0 := by decide +kernel
  have l : (noisyState.calOf 8).records = [noisy] := by decide +kernel
  simp [preCheck, c, l, noisy_passes]

/-- DRAM channel 1 is trained. -/
def trainedOne : State := { start with dram := start.dram.set (1 : Fin 2) { start.dram[(1 : Fin 2)] with trained := true } }
/-- The debug port at level 1. -/
def debugOne : State := start.put Obj.HEALTH.DBG_STATE 1
/-- Where a load and a store of stall 3 go. -/
def loadAt (sz : Nat) : Addressed := (address serving.stalls[(3 : StallId)] 1 1 1 sz 1 false).getD ⟨0, 1, {}⟩
def storeAt (sz : Nat) : Addressed := (address serving.stalls[(3 : StallId)] 1 1 1 sz 1 true).getD ⟨0, 1, {}⟩
/-- Stall 3 with a transaction in flight on tag 1. -/
def porting (tr : Transaction) : State := flying start (3 : StallId) (1 : Fin 16) tr

/-- A PTP master with identity 5. -/
def master : PtpMaster := ⟨0, 0, 128, 6, 0x21, 100, 128, 9, 0, 5, 1⟩

/-- Link 1 in service, with its part of the state. -/
def linked (x : LinkPart) : State := { start.put (Obj.AGGON.LSTATE (1 : Fin 4)) 5 with links := start.links.set (1 : Fin 4) x }
/-- Interface 0 in PRP mode 1 with both its ports up and addresses of its own. -/
def arpState : State :=
  (((start.put (Obj.INTERFACE.PRP_MODE 0) 1).put (Obj.INTERFACE.IPV4_A 0) 0x0A000001).put (Obj.INTERFACE.IPV4_B 0) 0x0A000002) |> fun (s : State) =>
  { s with eth := (s.eth.set (0 : Fin 4) { s.eth[(0 : Fin 4)] with up := true }).set (1 : Fin 4) { s.eth[(1 : Fin 4)] with up := true } }

theorem rows_one {α : Type} {l : List α} {r : α} {P : α → Prop} (h : l = [r]) (hp : P r) : ∀ x ∈ l, P x := by
  rw [h]; intro x hx; rw [List.mem_singleton.1 hx]; exact hp

theorem pair_one {α : Type} {l : List α} {r : α} {P : α → α → Prop} (h : l = [r]) : l.Pairwise P := by
  rw [h]; exact List.pairwise_singleton P r

/-- Unit 1 with its events, start and held stops, at a count of 50,000 ticks. -/
def pairing (f : MeasurePart → MeasurePart) (l : List (Reg × Nat)) : State :=
  (l.foldl (fun (s : State) e => s.put e.1 e.2) start) |> fun (s : State) =>
    { s with ep := { s.ep with running := true, count := 50000 }, units := s.units.set (1 : Fin 8) (f s.units[(1 : Fin 8)]) }
def event (start stop : Bool) (stamp : Stamp) : UnitEv := { isStart := start, isStop := stop, stamp := stamp, corr := 0, coarse := false }

theorem witness_EpochCorrectionAndHoldover :
    (∃ (s : State), s.ep.running = true ∧ s.coasting = false ∧ s.i Obj.EPOCH.FREQ_ADJ ≠ 0) ∧
    (∃ (s : State), s.u Obj.EPOCH.SOURCE = 4 ∧ s.u Obj.EPOCH.HOLDOVER_ERR + 1 < 2 ^ 32) := by
  refine ⟨?_, ?_⟩
  · refine ⟨(({ start with ep := { start.ep with running := true } } : State).puti Obj.EPOCH.FREQ_ADJ 1), ?_⟩
    decide +kernel
  · refine ⟨(start.put Obj.EPOCH.SOURCE (4)), ?_⟩
    decide +kernel

theorem witness_RootCycleMovesAtMostTwoTicks :
    (∃ (s : State), s.pending = []) ∧
    (∃ (s : State), s.pending = [] ∧ (∀ k : Fin 256, s.streams[k].unread = []) ∧ s.isApplying 0x1140 = false) ∧
    (∃ (s : State), s.pending = [] ∧ (s.ep.running = false ∨ s.clk.stopped = true)) := by
  refine ⟨?_, ?_, ?_⟩
  · refine ⟨{ start with pending := [] }, ?_⟩
    decide +kernel
  · refine ⟨start, ?_⟩
    decide +kernel
  · refine ⟨start, ?_⟩
    decide +kernel

theorem witness_SecondsSourcesAndPps :
    (∃ (s : State), s.now / ticksPerSecond ≠ s.ep.served) ∧
    (∃ (s : State), s.selected ≠ s.u Obj.EPOCH.SOURCE) ∧
    (∃ (s : State), s.selected = s.u Obj.EPOCH.SOURCE) ∧
    (∃ (s u : State) (stamp l : Nat), stampsFine s 8 stamp ∧ u = edged s 8 stamp ∧ s.ep.pps.last = some l ∧ ((stamp : Int) - l - secondFine).natAbs ≤
        microFine ∧ s.ep.pps.label = none ∧ s.ep.ptpUsable = false) ∧
    (∃ (s : State) (stamp l sec : Nat), stampsFine s 8 stamp ∧ s.ep.pps.last = some l ∧ ((stamp : Int) - l - secondFine).natAbs ≤ microFine ∧
        s.ep.pps.label = some sec) ∧
    (∃ (s : State) (stamp l : Nat), stampsFine s 8 stamp ∧ s.ep.pps.last = some l ∧ microFine < ((stamp : Int) - l - secondFine).natAbs) ∧
    (∃ (s : State) (stamp : Nat) (l : Int), s.tdc.lastEdge[8] = some l ∧ l ≤ stamp ∧ (stamp : Int) < l + deadFine) := by
  and_intros
  · refine ⟨{ start with ep := { start.ep with served := start.now / ticksPerSecond + 1 } }, ?_⟩
    decide +kernel
  · refine ⟨{ start with ep := { start.ep with ptpUsable := true } }.put Obj.EPOCH_SOURCE.SOURCE_ORDER 1 |>.put Obj.EPOCH.SOURCE 0, ?_⟩
    decide +kernel
  · refine ⟨start, ?_⟩
    decide +kernel
  · exact ⟨{ locked with ep := { locked.ep with ptpUsable := false, pps := { locked.ep.pps with last := some (1000 : Nat), label := none } } }, _, 1000
        + secondFine, 1000, by unfold stampsFine; decide +kernel, rfl, by decide +kernel⟩
  · refine
        ⟨{ locked with ep := { locked.ep with ptpUsable := false, pps := { locked.ep.pps with last := some (1000 : Nat), label := some (77 : Nat) } } },
        1000 + secondFine, 1000, 77, ?_⟩
    unfold stampsFine
    decide +kernel
  · refine ⟨{ locked with ep := { locked.ep with ptpUsable := false, pps := { locked.ep.pps with last := some (1000 : Nat) } } }, 1000, 1000, ?_⟩
    unfold stampsFine
    decide +kernel
  · refine ⟨{ start with tdc := { start.tdc with lastEdge := start.tdc.lastEdge.set (8 : Fin 21) (some 1000) } }, 1000, 1000, ?_⟩
    decide +kernel

theorem witness_OffsetsStepsAndSlews :
    (∃ (s : State), s.coasting = true) ∧
    (∃ (s : State) (code : Nat) (off : Int), s.coasting = false ∧ s.ep.step = none ∧ s.u Obj.EPOCH.SOURCE = code ∧ (s.u Obj.EPOCH_SOURCE.STEP_THRESH :
        Int) * 1000 < off.natAbs) ∧
    (∃ (s : State) (code : Nat) (off : Int), s.coasting = false ∧ s.ep.step = none ∧ s.u Obj.EPOCH.SOURCE = code ∧ (off.natAbs : Int) ≤ (s.u
        Obj.EPOCH_SOURCE.STEP_THRESH : Int) * 1000 ∧ s.traceable code = false ∧ off ≠ 0 ∧ s.u Obj.EPOCH_SOURCE.SLEW_MAX * 1000 < 2 ^ 31) ∧
    (∃ (s : State) (code : Nat) (off : Int), s.coasting = false ∧ s.ep.step = none ∧ s.u Obj.EPOCH.SOURCE = code ∧ (off.natAbs : Int) ≤ (s.u
        Obj.EPOCH_SOURCE.STEP_THRESH : Int) * 1000 ∧ s.traceable code = false ∧ off ≠ 0) ∧
    (∃ (s : State) (st : EpochStep), s.ep.step = some st ∧ (∀ n : Port, ∀ x ∈ s.ports[n].shots, x.winClosed = true)) ∧
    (∃ (s : State) (st : EpochStep), s.ep.step = some st ∧ (∃ n : Port, ∃ x ∈ s.ports[n].shots, x.winClosed = false)) ∧
    (∃ (s : State), s.ep.slewing = true) ∧
    (∃ (s : State) (code : Nat) (off : Int), s.coasting = false ∧ s.ep.step = none ∧ s.u Obj.EPOCH.SOURCE = code ∧ ((s.u Obj.EPOCH_SOURCE.STEP_THRESH
        : Int) * 1000 < off.natAbs ∨ (s.traceable code = true ∧ s.u Obj.EPOCH.ORIGIN = 0))) ∧
    (∃ (s : State) (code : Nat) (off : Int), s.coasting = false ∧ s.ep.step = none ∧ s.u Obj.EPOCH.SOURCE = code ∧ (off.natAbs : Int) ≤ (s.u
        Obj.EPOCH_SOURCE.STEP_THRESH : Int) * 1000 ∧ (s.traceable code = false ∨ s.u Obj.EPOCH.ORIGIN ≠ 0) ∧ off ≠ 0) ∧
    (∃ (s : State) (code : Nat) (off : Int), s.coasting = false ∧ s.ep.step = none ∧ s.u Obj.EPOCH.SOURCE = code ∧ (off.natAbs : Int) ≤ (s.u
        Obj.EPOCH_SOURCE.STEP_THRESH : Int) * 1000 ∧ (s.traceable code = false ∨ s.u Obj.EPOCH.ORIGIN ≠ 0) ∧ off ≠ 0 ∧ s.u Obj.EPOCH_SOURCE.SLEW_MAX *
        1000 < 2 ^ 31) ∧
    (∃ (s : State), s.ep.slewing = false) := by
  and_intros
  · refine ⟨(start.setBit Obj.CLOCKS.FLAGS Bit.CLOCKS.FLAGS.CLK_COAST), ?_⟩
    decide +kernel
  · refine ⟨(({ start with ep := { start.ep with step := none } } : State).put Obj.EPOCH.SOURCE ((0 : Nat))), 0,
      (({ start with ep := { start.ep with step := none } } : State).put Obj.EPOCH.SOURCE ((0 : Nat)) : State).u Obj.EPOCH_SOURCE.STEP_THRESH * 1000 + 1,
      ?_⟩
    decide +kernel
  · refine ⟨(({ start with ep := { start.ep with step := none } } : State).put Obj.EPOCH.SOURCE ((0 : Nat))), 0, 1, ?_⟩
    decide +kernel
  · refine ⟨(({ start with ep := { start.ep with step := none } } : State).put Obj.EPOCH.SOURCE ((0 : Nat))), 0, 1, ?_⟩
    decide +kernel
  · refine ⟨{ start with ep := { start.ep with step := some ({ ticks := 0 } : EpochStep) } }, ({ ticks := 0 } : EpochStep), ?_⟩
    decide +kernel
  · refine ⟨{ start with ep := { start.ep with step := some ({ ticks := 0 } : EpochStep) }, ports := start.ports.set 0 { start.ports[0] with shots := [{}] } },
      ({ ticks := 0 } : EpochStep), ?_⟩
    decide +kernel
  · refine ⟨{ start with ep := { start.ep with slewing := true } }, ?_⟩
    decide +kernel
  · refine ⟨start.put Obj.EPOCH.SOURCE 0, 0, (start.u Obj.EPOCH_SOURCE.STEP_THRESH * 1000 + 1 : Nat), ?_⟩
    decide +kernel
  · refine ⟨start.put Obj.EPOCH.SOURCE 0, 0, 1, ?_⟩
    decide +kernel
  · refine ⟨start.put Obj.EPOCH.SOURCE 0, 0, 1, ?_⟩
    decide +kernel
  · refine ⟨start, ?_⟩
    decide +kernel

theorem witness_MainsAndEncoder :
    (∃ (s : State) (l : Rat) (p : Rat), s.mains.last = some l ∧ s.mains.period = some p ∧ s.mains.synth < 3) ∧
    (∃ (s : State) (l : Rat) (p : Rat), s.mains.last = some l ∧ s.mains.period = some p ∧ s.mains.synth = 3 ∧ s.u Obj.AXIS_STATUS.MAINS_LOCK = 1) ∧
    (∃ (s : State) (stamp : Nat) (l p : Rat), stampsFine s 9 stamp ∧ s.mains.last = some l ∧ s.mains.period = some p ∧ (stamp : Rat) - (s.i
        Obj.AXIS_CONFIG.MAINS_DELAY : Rat) * 512 / 625 - l < p * 3 / 4) ∧
    (∃ (s : State) (stamp : Nat) (l p t : Rat), stampsFine s 9 stamp ∧ s.mains.last = some l ∧ s.mains.period = some p ∧ t = (stamp : Rat) - (s.i
        Obj.AXIS_CONFIG.MAINS_DELAY : Rat) * 512 / 625 ∧ p * 3 / 4 ≤ t - l ∧ |t - (l + p)| ≤ p / 50) ∧
    (∃ (s u : State) (stamp : Nat) (t : Rat), stampsFine s 9 stamp ∧ u = edged s 9 stamp ∧ t = (stamp : Rat) - (s.i Obj.AXIS_CONFIG.MAINS_DELAY : Rat)
        * 512 / 625 ∧ s.mains.last = none) ∧
    (∃ (s : State) (stamp : Nat) (l t : Rat), stampsFine s 9 stamp ∧ s.mains.last = some l ∧ s.mains.period = none ∧ t = (stamp : Rat) - (s.i
        Obj.AXIS_CONFIG.MAINS_DELAY : Rat) * 512 / 625 ∧ mainsMin ≤ t - l) ∧
    (∃ (s : State), (s.mains.last = none ∨ s.mains.period = none)) ∧
    (∃ (s : State) (a b z : Bool), s.enc.taken = false ∧ s.enc.preset = none) ∧
    (∃ (s : State) (a b : Bool), s.enc.taken = true ∧ s.enc.preset = none ∧ (a = s.enc.a ∨ b = s.enc.b) ∧ (∀ n : Port, s.u (Obj.SCHEDULER.AXIS n) ≠
        2)) ∧
    (∃ (s : State) (a b : Bool), s.enc.taken = true ∧ s.enc.preset = none ∧ a ≠ s.enc.a ∧ b ≠ s.enc.b ∧ s.u Obj.AXIS_STATUS.ENC_ILLEGAL + 1 < 2 ^ 32) ∧
    (∃ (s : State), s.enc.taken = true ∧ s.enc.preset = none ∧ s.enc.z = false ∧ s.u Obj.AXIS_CONFIG.ENC_INDEX = 1 ∧ s.u Obj.AXIS_STATUS.LINE_INDEX +
        1 < 2 ^ 32 ∧ (∀ n : Port, s.u (Obj.SCHEDULER.AXIS n) ≠ 2)) ∧
    (∃ (s : State) (a b z : Bool) (v : Nat), s.enc.preset = some v ∧ v < 2 ^ 32) := by
  and_intros
  · refine ⟨{ start with mains := { start.mains with last := some (0 : Rat), period := some (0 : Rat) } }, 0, 0, ?_⟩
    decide +kernel
  · refine ⟨(({ start with mains := { start.mains with last := some (0 : Rat), period := some (0 : Rat), synth := 3 } } : State).put
      Obj.AXIS_STATUS.MAINS_LOCK (1)), 0, 0, ?_⟩
    decide +kernel
  · refine ⟨{ locked with mains := { locked.mains with last := some 0, period := some 1000000 } }, 1000, 0, 1000000, ?_⟩
    unfold stampsFine
    decide +kernel
  · exact ⟨{ locked with mains := { locked.mains with last := some 0, period := some 1000000 } }, 1000000, 0, 1000000, _,
        by unfold stampsFine; decide +kernel, by decide +kernel, by decide +kernel, rfl, by decide +kernel⟩
  · exact ⟨{ locked with mains := { locked.mains with last := none, period := none } }, _, 0, _, by unfold stampsFine; decide +kernel, rfl, rfl,
        by decide +kernel⟩
  · exact ⟨{ locked with mains := { locked.mains with last := some 0, period := none } }, 100000000000000, 0, _, by unfold stampsFine; decide +kernel,
        by decide +kernel, by decide +kernel, rfl, by decide +kernel⟩
  · refine ⟨start, ?_⟩
    decide +kernel
  · refine ⟨{ start with enc := { start.enc with taken := false, preset := none } }, true, false, true, ?_⟩
    decide +kernel
  · refine ⟨{ start with enc := { start.enc with taken := true, preset := none } }, start.enc.a, true, ?_⟩
    decide +kernel
  · refine ⟨{ start with enc := { start.enc with taken := true, preset := none, a := false, b := true } }, true, false, ?_⟩
    decide +kernel
  · refine ⟨({ start with enc := { start.enc with taken := true, preset := none, z := false } } : State).put Obj.AXIS_CONFIG.ENC_INDEX 1, ?_⟩
    decide +kernel
  · refine ⟨{ start with enc := { start.enc with preset := some 5 } }, true, false, true, 5, ?_⟩
    decide +kernel

theorem witness_SlotsAndLaunches :
    (∃ (s : State), s.u Obj.HEALTH.BOOT_STATE = 3) ∧
    (∃ (s : State) (n : Port), s.u (Obj.SCHEDULER.AXIS n) = 0 ∧ s.withheld n = false ∧ (s.u (Obj.SCHEDULER.ENABLE n) = 0 ∨ (s.u (Obj.SHOT_ENTRY.KIND n
        (s.entryAt n)) = 0 ∧ s.calHolds n = false))) ∧
    (∃ (s : State) (n : Port) (i : SlotInfo), s.u (Obj.SHOT_ENTRY.KIND n (s.entryAt n)) ≠ 0 ∧ s.refusal n i.launchAt = 0) ∧
    (∃ (s : State) (n : Port) (i : SlotInfo) (c : Nat), s.u (Obj.SHOT_ENTRY.KIND n (s.entryAt n)) ≠ 0 ∧ s.refusal n i.launchAt = c ∧ c ≠ 0 ∧ c ≠ 6 ∧
        s.calHolds n = false ∧ s.u (causeCounter n c) + 1 < 2 ^ 32) ∧
    (∃ (s : State) (n : Port) (x : Shot), s.ports[n].shots = [x] ∧ x.loaded = false ∧ x.winClosed = false ∧ x.kind ≠ 2) ∧
    (∃ (s : State) (n : Port) (x : Shot), s.ports[n].shots = [x] ∧ x.loaded = true ∧ x.gateOn = false ∧ x.cut = false ∧ x.dark = false) ∧
    (∃ (s : State) (n : Port) (x : Shot), s.ports[n].shots = [x] ∧ x.launched = true ∧ x.winOpen = false) ∧
    (∃ (s : State) (n : Port) (x : Shot), s.ports[n].shots = [x] ∧ x.launched = true ∧ x.gateOff = false ∧ x.dataDone = false) ∧
    (∃ (s : State) (n : Port) (slot : SlotPoint), s.u Obj.HEALTH.BOOT_STATE ≠ 3) ∧
    (∃ (s : State) (n : Port) (x : Shot) (k : Nat), s.ports[n].shots = [x] ∧ x.loaded = true ∧ x.launched = false ∧ x.cal = false ∧ s.u
        (Obj.SCHEDULER.LAUNCHED n) + 1 < 2 ^ 32 ∧ k = clipCount (launchCodes s x) ∧ s.u (Obj.PORT_STATUS.CLIPS n) + k < 2 ^ 32) := by
  and_intros
  · refine ⟨(start.put Obj.HEALTH.BOOT_STATE (3)), ?_⟩
    decide +kernel
  · refine ⟨((start.put (Obj.SCHEDULER.AXIS (1 : Port)) (0)).put (Obj.SCHEDULER.ENABLE (1 : Port)) (0)), (1 : Port), ?_⟩
    decide +kernel
  · refine ⟨(held start).put (Obj.SHOT_ENTRY.KIND (1 : Port) (start.entryAt (1 : Port))) 1, 1, ⟨2^40, 0, 1, 2⟩, ?_⟩
    decide +kernel
  · refine ⟨start.put (Obj.SHOT_ENTRY.KIND (1 : Port) (start.entryAt (1 : Port))) 1, 1, ⟨2^40, 0, 1, 2⟩, 1, ?_⟩
    decide +kernel
  · refine ⟨{ start with ports := (start.ports.set (1 : Port) { start.ports[(1 : Port)] with shots := [({ loaded := false, winClosed := false } : Shot)] }) },
      (1 : Port), ({ loaded := false, winClosed := false } : Shot), ?_⟩
    decide +kernel
  · refine
      ⟨{ start with ports := (start.ports.set (1 : Port) { start.ports[(1 : Port)] with shots := [({ loaded := true, gateOn := false, cut := false, dark := false } : Shot)] }) },
      (1 : Port), ({ loaded := true, gateOn := false, cut := false, dark := false } : Shot), ?_⟩
    decide +kernel
  · refine ⟨{ start with ports := (start.ports.set (1 : Port) { start.ports[(1 : Port)] with shots := [({ launched := true, winOpen := false } : Shot)] }) }, (1
      : Port), ({ launched := true, winOpen := false } : Shot), ?_⟩
    decide +kernel
  · refine
      ⟨{ start with ports := (start.ports.set (1 : Port) { start.ports[(1 : Port)] with shots := [({ launched := true, gateOff := false, dataDone := false } : Shot)] }) },
      (1 : Port), ({ launched := true, gateOff := false, dataDone := false } : Shot), ?_⟩
    decide +kernel
  · refine ⟨start, 1, .line, ?_⟩
    decide +kernel
  · exact ⟨oneShot start ({ loaded := true, launched := false, cal := false } : Shot), 1, ({ loaded := true, launched := false, cal := false } : Shot),
        _, by decide +kernel, by decide +kernel, by decide +kernel, by decide +kernel, by decide +kernel, rfl, by decide +kernel⟩

theorem witness_MonAndInterlock :
    (∃ (s : State), s.lsi.a = true ∧ s.lsi.b = true) ∧
    (∃ (s : State), s.lsi.a = true ∧ s.lsi.b = true ∧ s.lsi.discord = false ∧ s.lsi.resumed = false) ∧
    (∃ (s : State), s.lsi.a ≠ s.lsi.b) ∧
    (∃ (s : State), s.lsi.discord = true) ∧
    (∃ (s : State) (n : Port) (ch : Fin 21) (x : Shot) (r : List Shot) (stamp : Nat), ch.val = n.val ∧ stampsFine s ch stamp ∧ s.ports[n].shots = x ::
        r ∧ x.launched = true ∧ x.stamp = none ∧ x.cal = false ∧ s.bit (Obj.PORT_STATUS.FLAGS n) Bit.PORT_STATUS.FLAGS.MON_LOST = false ∧ x.launchAt *
        256 ≤ stamp ∧ stamp ≤ (x.launchAt + x.monWindow) * 256) ∧
    (∃ (s : State) (n : Port) (ch : Fin 21) (stamp : Nat), ch.val = n.val ∧ stampsFine s ch stamp ∧ (∀ x ∈ s.ports[n].shots, x.launched = true →
        x.stamp = none → stamp < x.launchAt * 256 ∨ (x.launchAt + x.monWindow) * 256 < stamp)) ∧
    (∃ (s : State) (n : Port) (x : Shot) (r : List Shot), s.ports[n].shots = x :: r ∧ x.launched = true ∧ x.stamp = none ∧ x.cal = false ∧ (∀ y ∈ r,
        y.launched = true → y.stamp = none → x.monEnd ≤ y.monEnd) ∧ s.ports[n].missRun < 15 ∧ s.u (Obj.SCHEDULER.STAMP_MISS n) + 1 < 2 ^ 32) ∧
    (∃ (s : State) (n : Port), ∃ x ∈ (s.cutPort n).ports[n].shots, x.launched = false) := by
  and_intros
  · refine ⟨{ start with lsi := { start.lsi with a := true, b := true } }, ?_⟩
    decide +kernel
  · refine ⟨{ start with lsi := { start.lsi with a := true, b := true, discord := false, resumed := false } }, ?_⟩
    decide +kernel
  · refine ⟨{ start with lsi := { start.lsi with a := true, b := false } }, ?_⟩
    decide +kernel
  · refine ⟨{ start with lsi := { start.lsi with discord := true } }, ?_⟩
    decide +kernel
  · refine ⟨oneShot locked ({ launched := true, stamp := none, cal := false } : Shot), 1, 1, ({ launched := true, stamp := none, cal := false } : Shot),
        [], 0, ?_⟩
    unfold stampsFine
    decide +kernel
  · refine ⟨locked, 1, 1, 0, ?_⟩
    unfold stampsFine
    decide +kernel
  · refine ⟨oneShot start ({ launched := true, stamp := none, cal := false } : Shot), 1, ({ launched := true, stamp := none, cal := false } : Shot), [],
        ?_⟩
    decide +kernel
  · refine ⟨oneShot start {}, 1, ?_⟩
    decide +kernel

theorem witness_RecordWindowCloses :
    ∃ (s : State) (n : Port) (x : Shot) (raman : Option RamanRecord), s.ports[n].shots = [x] ∧ x.winOpen = true ∧ x.winClosed = false ∧ x.kind = 1 ∧
        x.cal = false ∧ x.auto = false ∧ x.trimAfter = false ∧ x.dataDone = false ∧ s.clk.switchDue = false ∧ x.inputs.testBit 0 = true ∧
        x.inputs.testBit 1 = true ∧ laneBits x.recX x.recY laneStuck = 0 ∧ s.u (Obj.PORT_STATUS.STUCK_LANES n) = 0 ∧ s.bit (Obj.PORT_STATUS.FLAGS n)
        Bit.PORT_STATUS.FLAGS.STUCK_X = false ∧ s.bit (Obj.PORT_STATUS.FLAGS n) Bit.PORT_STATUS.FLAGS.STUCK_Y = false ∧ overCount x.recX ≠ 0 ∧
        overCount x.recY = 0 ∧ s.u (Obj.PORT_STATUS.OVR_X n) + overCount x.recX < 2 ^ 32 ∧ rxPeak x.recX (s.u (Obj.RECEIVE.AGC_SKIP n)) < 2 ^ 16 ∧
        rxPeak x.recY (s.u (Obj.RECEIVE.AGC_SKIP n)) < 2 ^ 16 := by
  refine ⟨oneShot start
      ({ winOpen := true, winClosed := false, kind := 1, cal := false, auto := false, trimAfter := false, dataDone := false, inputs := 3, recX := [⟨2047, true, 2047⟩, ⟨5, false, 5⟩], recY := [⟨3, false, 3⟩] }
      : Shot), 1,
      ({ winOpen := true, winClosed := false, kind := 1, cal := false, auto := false, trimAfter := false, dataDone := false, inputs := 3, recX := [⟨2047, true, 2047⟩, ⟨5, false, 5⟩], recY := [⟨3, false, 3⟩] }
      : Shot), none, ?_⟩
  decide +kernel

theorem witness_AutoGainMovesByAtMostOne :
    (∃ (s : State) (n : Port) (a : AgcInput) (now : Nat), a.step = some now ∧ s.u (Obj.RECEIVE.AGC_MIN n) ≤ now ∧ now ≤ s.u (Obj.RECEIVE.AGC_MAX n)
      ∧ (∀ r ∈ a.peaks, r.ovr = false ∧ r.peak < s.u (Obj.RECEIVE.AGC_HI n) ∧ s.u (Obj.RECEIVE.AGC_HI n) ≤ 4 * r.peak)) ∧
    (∃ (s : State) (n : Port) (a : AgcInput) (now : Nat) (r : PeakRec), a.step = some now ∧ s.u (Obj.RECEIVE.AGC_MIN n) ≤ now ∧ now ≤ s.u
      (Obj.RECEIVE.AGC_MAX n) ∧ a.peaks = [r] ∧ r.step = now ∧ r.ovr = true) ∧
    (∃ (s : State) (n : Port) (a : AgcInput) (now : Nat), a.step = some now ∧ s.u (Obj.RECEIVE.AGC_MIN n) ≤ now ∧ now ≤ s.u (Obj.RECEIVE.AGC_MAX n)) := by
  refine ⟨?_, ?_, ?_⟩
  · refine ⟨(start.put (Obj.RECEIVE.AGC_MAX (1 : Port)) ((0 : Nat))), (1 : Port), ({ step := some (0 : Nat) } : AgcInput), 0, ?_⟩
    decide +kernel
  · refine ⟨(start.put (Obj.RECEIVE.AGC_MAX (1 : Port)) ((0 : Nat))), (1 : Port),
      ({ step := some (0 : Nat), peaks := [({ peak := 0, step := (0 : Nat), ovr := true } : PeakRec)] } : AgcInput), 0,
      ({ peak := 0, step := (0 : Nat), ovr := true } : PeakRec), ?_⟩
    decide +kernel
  · refine ⟨(start.put (Obj.RECEIVE.AGC_MAX (1 : Port)) ((0 : Nat))), (1 : Port), ({ step := some (0 : Nat) } : AgcInput), 0, ?_⟩
    decide +kernel

theorem witness_PortChecksAndFctl :
    (∃ (s : State) (n : Port) (k : Fin 16), s.isApplying (0x3010 + 0x100 * n + k) = true ∧ s.ports[n].crestDone = []) ∧
    (∃ (s : State) (n : Port), s.bit (Obj.PORT_STATUS.FLAGS n) Bit.PORT_STATUS.FLAGS.CM_X = true) ∧
    (∃ (s : State) (n : Port), s.u (Obj.LAUNCH.TX_CHECK n) = 1) ∧
    (∃ (s : State) (n : Port), s.u (Obj.LAUNCH.TX_CHECK n) ≠ 1) ∧
    (∃ (s : State) (n : Port) (b : BitVec 32), s.ports[n].fctl.busy = some b ∧ s.ports[n].fctl.busyGroup = none ∧ s.ports[n].fctl.lateCommit = false ∧
        s.ports[n].fctl.host = [] ∧ s.u (Obj.FCTL.SENT n) + 1 < 2 ^ 32) ∧
    (∃ (s : State) (n : Port) (w : BitVec 32), s.ports[n].live = true ∧ s.ports[n].fctl.busy = none ∧ s.ports[n].fctl.host = [] ∧
        s.ports[n].fctl.sched = []) ∧
    (∃ (s : State) (n : Port) (w : BitVec 32), (s.ports[n].live = false ∨ s.ports[n].fctl.busy.isSome = true) ∧ s.ports[n].fctl.host.length < 16) ∧
    (∃ (s : State) (n : Port) (w : SchedWord) (r : List SchedWord), s.ports[n].fctl.busy = none ∧ s.ports[n].fctl.sched = w :: r ∧ s.now < w.epoch) ∧
    (∃ (s : State) (n : Port) (w : SchedWord) (r : List SchedWord), s.ports[n].fctl.busy = none ∧ s.ports[n].fctl.sched = w :: r ∧ w.epoch ≤ s.now) ∧
    (∃ (s : State) (n : Port), s.ports[n].live = false) ∧
    (∃ (s : State) (n : Port), s.ports[n].live = true ∧ s.ports[n].fctl.busy = none) ∧
    (∃ (s : State) (n : Port), (∀ x ∈ s.ports[n].shots, x.loaded = true → x.launched = true) ∧ s.ports[n].dac = none) ∧
    (∃ (s : State) (n : Port) (r : DacRun) (i : Nat) (h : i < r.codes.length), (∀ x ∈ s.ports[n].shots, x.loaded = true → x.launched = true) ∧
        s.ports[n].dac = some r ∧ (s.now : Int) = r.start + i) ∧
    (∃ (s : State) (n : Port) (x : Shot) (i : Nat) (h : i < (launchRun s x).codes.length), s.ports[n].shots = [x] ∧ x.loaded = true ∧ x.launched =
        false ∧ (s.now : Int) = (launchRun s x).start + i) := by
  and_intros
  · refine
      ⟨{ (start.modPort (1 : Port) (fun q => { q with crestDone := [] })) with ledger := { start.ledger with applying := [⟨0x3010 + 0x100 * (1 : Port) + (1 : Fin 16), 0, 0⟩] } },
      (1 : Port), (1 : Fin 16), ?_⟩
    decide +kernel
  · refine ⟨(start.putBit (Obj.PORT_STATUS.FLAGS (1 : Port)) Bit.PORT_STATUS.FLAGS.CM_X true), (1 : Port), ?_⟩
    decide +kernel
  · refine ⟨(start.put (Obj.LAUNCH.TX_CHECK (1 : Port)) (1)), (1 : Port), ?_⟩
    decide +kernel
  · refine ⟨(start.put (Obj.LAUNCH.TX_CHECK (1 : Port)) 2), (1 : Port), ?_⟩
    decide +kernel
  · refine
      ⟨{ start with ports := (start.ports.set (1 : Port) { start.ports[(1 : Port)] with fctl := { start.ports[(1 : Port)].fctl with busy := some (1 : BitVec 32), busyGroup := none, lateCommit := false, host := [] } }) },
      (1 : Port), (1 : BitVec 32), ?_⟩
    decide +kernel
  · refine
        ⟨{ start with ports := start.ports.set (1 : Port) { start.ports[(1 : Port)] with live := true, fctl := { start.ports[(1 : Port)].fctl with busy := none, host := [], sched := [] } } },
        1, 5, ?_⟩
    decide +kernel
  · refine
        ⟨{ start with ports := start.ports.set (1 : Port) { start.ports[(1 : Port)] with fctl := { start.ports[(1 : Port)].fctl with busy := some 1 } } },
        1, 5, ?_⟩
    decide +kernel
  · refine
        ⟨{ start with ports := start.ports.set (1 : Port) { start.ports[(1 : Port)] with fctl := { start.ports[(1 : Port)].fctl with busy := none, sched := [({ value := 1, epoch := 5, group := 0, gen := 0 } : SchedWord)] } } },
        1, ({ value := 1, epoch := 5, group := 0, gen := 0 } : SchedWord), [], ?_⟩
    decide +kernel
  · refine
        ⟨{ start with ports := start.ports.set (1 : Port) { start.ports[(1 : Port)] with fctl := { start.ports[(1 : Port)].fctl with busy := none, sched := [({ value := 1, epoch := 0, group := 0, gen := 0 } : SchedWord)] } } },
        1, ({ value := 1, epoch := 0, group := 0, gen := 0 } : SchedWord), [], ?_⟩
    decide +kernel
  · refine ⟨{ start with ports := start.ports.set (1 : Port) { start.ports[(1 : Port)] with live := false } }, 1, ?_⟩
    decide +kernel
  · refine
        ⟨{ start with ports := start.ports.set (1 : Port) { start.ports[(1 : Port)] with live := true, fctl := { start.ports[(1 : Port)].fctl with busy := none } } },
        1, ?_⟩
    decide +kernel
  · refine ⟨start, 1, ?_⟩
    decide +kernel
  · refine ⟨{ start with ports := start.ports.set (1 : Port) { start.ports[(1 : Port)] with dac := some ⟨0, [7, 8]⟩ } }, 1, ⟨0, [7, 8]⟩, 0, by decide,
        ?_⟩
    decide +kernel
  · refine ⟨oneShot start ({ loaded := true, launchAt := 0, tones := [⟨0, 0, 0, 4, false, 0, 0, 0⟩] } : Shot), 1,
        ({ loaded := true, launchAt := 0, tones := [⟨0, 0, 0, 4, false, 0, 0, 0⟩] } : Shot), 0, by decide +kernel, ?_⟩
    decide +kernel

theorem witness_StateWordsAndGridPoints :
    (∃ (s : State) (n : Port), s.pipes[n].grid = [] ∧ s.u Obj.MEMORY.POISON_SEEN + 1 < 2 ^ 32) ∧
    (∃ (s : State) (n : Port) (p : Nat) (x : Shot), dasShot s n = some x ∧ x.pFirst ≤ p ∧ p ≤ x.pLast ∧ recAt s.pipes[n].grid p = none) ∧
    (∃ (s : State) (n : Port) (set : Fin 16) (p : Nat), s.pipes[n].grid = [] ∧ flipAt s.flips (branchAddr n set p) = none ∧ s.pipes[n].bad.contains
        (wordKey set p) = false) ∧
    (∃ (s : State) (n : Port) (set : Fin 16) (p : Nat) (x : Shot) (r : GridRec), dasShot s n = some x ∧ x.toneSet = set.val ∧ r ∈ s.pipes[n].grid ∧
        r.p = p ∧ flipAt s.flips (branchAddr n set p) = none ∧ s.pipes[n].bad.contains (wordKey set p) = false) ∧
    (∃ (s : State) (n : Port) (set : Fin 16) (p : Nat), s.pipes[n].grid = [] ∧ flipAt s.flips (branchAddr n set p) = none ∧ s.pipes[n].bad.contains
        (wordKey set p) = true ∧ s.u Obj.MEMORY.POISON_SEEN + 1 < 2 ^ 32) := by
  refine ⟨?_, ?_, ?_, ?_, ?_⟩
  · refine ⟨{ start with pipes := (start.pipes.set (1 : Port) { start.pipes[(1 : Port)] with grid := [] }) }, (1 : Port), ?_⟩
    decide +kernel
  · refine
      ⟨{ start with ports := start.ports.set (1 : Port) { start.ports[(1 : Port)] with shots := [({ launched := true, kind := 1, pFirst := 3, pLast := 9 } : Shot)] }, pipes := start.pipes.set (1 : Port) { start.pipes[(1 : Port)] with grid := [] } },
      1, 4, { launched := true, kind := 1, pFirst := 3, pLast := 9 }, ?_⟩
    decide +kernel
  · refine ⟨{ start with pipes := start.pipes.set (1 : Port) { start.pipes[(1 : Port)] with grid := [] } }, 1, 1, 7, ?_⟩
    decide +kernel
  · refine
        ⟨{ start with ports := start.ports.set (1 : Port) { start.ports[(1 : Port)] with shots := [({ launched := true, kind := 1, toneSet := (1 : Fin 16).val } : Shot)] }, pipes := start.pipes.set (1 : Port) { start.pipes[(1 : Port)] with grid := [({ p := 7, cOld := (1,2), cNew := (3,4), q := 5, dark := false, late := false, poisoned := false, suspect := false, word := 0, align := ([] : List (BitVec 5)), old := 0 } : GridRec)] } },
        1, 1, 7, ({ launched := true, kind := 1, toneSet := (1 : Fin 16).val } : Shot),
        ({ p := 7, cOld := (1,2), cNew := (3,4), q := 5, dark := false, late := false, poisoned := false, suspect := false, word := 0, align := ([] : List (BitVec 5)), old := 0 }
        : GridRec), ?_⟩
    decide +kernel
  · refine ⟨{ start with pipes := start.pipes.set (1 : Port) { start.pipes[(1 : Port)] with grid := [], bad := [wordKey 1 7] } }, 1, 1, 7, ?_⟩
    decide +kernel

theorem witness_PhaseRateQuality :
    (∃ (x : Shot) (r : GridRec) (a : GridRec) (b : GridRec), x.cfg.outMode = 0 ∧ a.q ≤ 255 ∧ b.q ≤ 255 ∧ x.cfg.qcapGain ≤ 255 ∧ x.cfg.qcapAmbig ≤
      255 ∧ x.cfg.qcapRelearn ≤ 255 ∧ x.cfg.qcapGain ≠ 0 ∧ x.cfg.qcapAmbig ≠ 0 ∧ x.cfg.qcapRelearn ≠ 0 ∧ forced0 x r = true) ∧
    (∃ (x : Shot) (r : GridRec) (a : GridRec) (b : GridRec), x.cfg.outMode = 0 ∧ a.q ≤ 255 ∧ b.q ≤ 255 ∧ x.cfg.qcapGain ≤ 255 ∧ x.cfg.qcapAmbig ≤
      255 ∧ x.cfg.qcapRelearn ≤ 255 ∧ x.cfg.qcapGain ≠ 0 ∧ x.cfg.qcapAmbig ≠ 0 ∧ x.cfg.qcapRelearn ≠ 0 ∧ wPrevValid r.word = false) ∧
    (∃ (x : Shot) (a : GridRec) (b : GridRec), x.cfg.outMode = 0 ∧ a.q ≤ 255 ∧ b.q ≤ 255 ∧ x.cfg.qcapGain ≤ 255 ∧ x.cfg.qcapAmbig ≤ 255 ∧
      x.cfg.qcapRelearn ≤ 255 ∧ x.cfg.qcapGain ≠ 0 ∧ x.cfg.qcapAmbig ≠ 0 ∧ x.cfg.qcapRelearn ≠ 0 ∧ min a.q b.q < x.cfg.qmin) ∧
    (∃ (x : Shot) (a : GridRec) (b : GridRec), x.cfg.outMode = 0 ∧ a.q ≤ 255 ∧ b.q ≤ 255 ∧ x.cfg.qcapGain ≤ 255 ∧ x.cfg.qcapAmbig ≤ 255 ∧
      x.cfg.qcapRelearn ≤ 255 ∧ x.cfg.qcapGain ≠ 0 ∧ x.cfg.qcapAmbig ≠ 0 ∧ x.cfg.qcapRelearn ≠ 0 ∧ x.cfg.unwrapOrder = 0) ∧
    (∃ (x : Shot) (a : GridRec) (b : GridRec), x.cfg.outMode = 0 ∧ a.q ≤ 255 ∧ b.q ≤ 255 ∧ x.cfg.qcapGain ≤ 255 ∧ x.cfg.qcapAmbig ≤ 255 ∧
      x.cfg.qcapRelearn ≤ 255 ∧ x.cfg.qcapGain ≠ 0 ∧ x.cfg.qcapAmbig ≠ 0 ∧ x.cfg.qcapRelearn ≠ 0) := by
  refine ⟨?_, ?_, ?_, ?_, ?_⟩
  · refine ⟨{ cfg := { ({} : Shot).cfg with outMode := 0, qcapGain := 100, qcapAmbig := 90, qcapRelearn := 80, unwrapOrder := 0 } },
      { p := 3, cOld := (1,2), cNew := (3,4), q := 9, dark := false, late := true, poisoned := false, suspect := false, word := 0x12345, align := [], old := 0 },
      { p := 3, cOld := (1,2), cNew := (3,4), q := 50, dark := false, late := false, poisoned := false, suspect := false, word := 0x12345, align := [], old := 0 },
      { p := 3, cOld := (1,2), cNew := (3,4), q := 60, dark := false, late := false, poisoned := false, suspect := false, word := 0x12345, align := [], old := 0 },
      ?_⟩
    decide +kernel
  · refine ⟨(let z1 := ({} : Shot); { z1 with cfg := { z1.cfg with outMode := 0, qcapGain := 1, qcapAmbig := 1, qcapRelearn := 1 } }),
      ({ p := 0, cOld := (0, 0), cNew := (0, 0), q := 0, dark := false, late := false, poisoned := false, suspect := false, word := (1 : BitVec 128), align := ([] : List (BitVec 5)), old := 0 }
      : GridRec),
      ({ p := 0, cOld := (0, 0), cNew := (0, 0), q := 0, dark := false, late := false, poisoned := false, suspect := false, word := (1 : BitVec 128), align := ([] : List (BitVec 5)), old := 0 }
      : GridRec),
      ({ p := 0, cOld := (0, 0), cNew := (0, 0), q := 0, dark := false, late := false, poisoned := false, suspect := false, word := (1 : BitVec 128), align := ([] : List (BitVec 5)), old := 0 }
      : GridRec), ?_⟩
    decide +kernel
  · refine ⟨(let z2 := ({} : Shot); { z2 with cfg := { z2.cfg with outMode := 0, qcapGain := 1, qcapAmbig := 1, qcapRelearn := 1 } }),
      ({ p := 0, cOld := (0, 0), cNew := (0, 0), q := 0, dark := false, late := false, poisoned := false, suspect := false, word := (1 : BitVec 128), align := ([] : List (BitVec 5)), old := 0 }
      : GridRec),
      ({ p := 0, cOld := (0, 0), cNew := (0, 0), q := 0, dark := false, late := false, poisoned := false, suspect := false, word := (1 : BitVec 128), align := ([] : List (BitVec 5)), old := 0 }
      : GridRec), ?_⟩
    decide +kernel
  · refine ⟨{ cfg := { ({} : Shot).cfg with outMode := 0, qcapGain := 100, qcapAmbig := 90, qcapRelearn := 80, unwrapOrder := 0 } },
      { p := 3, cOld := (1,2), cNew := (3,4), q := 50, dark := false, late := false, poisoned := false, suspect := false, word := 0x1234C, align := [], old := 0 },
      { p := 3, cOld := (1,2), cNew := (3,4), q := 60, dark := false, late := false, poisoned := false, suspect := false, word := 0x1234C, align := [], old := 0 },
      ?_⟩
    decide +kernel
  · refine ⟨(let z3 := ({} : Shot); { z3 with cfg := { z3.cfg with outMode := 0, qcapGain := 1, qcapAmbig := 1, qcapRelearn := 1 } }),
      ({ p := 0, cOld := (0, 0), cNew := (0, 0), q := 0, dark := false, late := false, poisoned := false, suspect := false, word := (1 : BitVec 128), align := ([] : List (BitVec 5)), old := 0 }
      : GridRec),
      ({ p := 0, cOld := (0, 0), cNew := (0, 0), q := 0, dark := false, late := false, poisoned := false, suspect := false, word := (1 : BitVec 128), align := ([] : List (BitVec 5)), old := 0 }
      : GridRec), ?_⟩
    decide +kernel

theorem witness_QueueAndShotEnd :
    (∃ (p : PipePart), p.sums.overrun = none ∧ 262144 < p.queued + 1 + 12) ∧
    (∃ (p : PipePart) (k : Nat), p.sums.overrun = some k) ∧
    (∃ (p : PipePart), p.queued ≤ 262144) ∧
    (∃ (p : PipePart) (pt : Nat) (w : BitVec 32) (d : Delivery), p.sums.overrun = none ∧ p.queue = [d] ∧ d.closed = false ∧ p.queued + 1 + 12 ≤ 262144
        ∧ d.rev = none) ∧
    (∃ (p : PipePart) (pt m : Nat) (w : BitVec 32) (d : Delivery), p.sums.overrun = none ∧ p.queue = [d] ∧ d.closed = false ∧ p.queued + 1 + 12 ≤
        262144 ∧ d.rev = some m) ∧
    (∃ (s : State) (n : Port) (x : Shot) (d : Delivery) (g : GridRec), s.ports[n].shots = [x] ∧ x.winClosed = true ∧ x.kind = 1 ∧ x.cal = false ∧
        x.dataDone = false ∧ s.pipes[n].grid = [g] ∧ s.pipes[n].queue = [d] ∧ d.closed = false ∧ s.pipes[n].sums.overrun = none ∧ d.rev = none ∧
        x.pFirst ≤ x.pLast ∧ x.pLast + 1 < 2 ^ 32) ∧
    (∃ (s : State) (n : Port) (x : Shot) (d : Delivery) (g : GridRec), s.ports[n].shots = [x] ∧ x.winClosed = true ∧ x.kind = 1 ∧ x.cal = false ∧
        x.dataDone = false ∧ x.cut = true ∧ s.pipes[n].grid = [g] ∧ s.pipes[n].queue = [d] ∧ d.closed = false ∧ s.pipes[n].sums.overrun = none ∧ d.rev
        = none ∧ shotDark x s.pipes[n].sums = false ∧ s.bit (Obj.PIPE_STATUS.FLAGS n) Bit.PIPE_STATUS.FLAGS.DARK = false ∧ x.stateGen =
        s.pipes[n].gen) ∧
    (∃ (s : State) (n : Port) (x : Shot), firstShot s n endingShot = some x) ∧
    (∃ (s : State) (n : Port), firstShot s n endingShot = none) ∧
    (∃ (s : State) (n : Port) (k : Nat), refuses s 2 = false) ∧
    (∃ (s : State) (n : Port) (k : Nat), refuses s 2 = true ∧ s.twinned n = false) ∧
    (∃ (s : State) (n : Port) (k : Nat) (d : Delivery), s.pipes[n].queue = [d] ∧ k < d.left ∧ refuses s 2 = false ∧ s.twinned n = false) ∧
    (∃ (s : State) (n : Port) (k : Nat) (d : Delivery), s.pipes[n].queue = [d] ∧ d.closed = true ∧ d.unheaded = false ∧ 0 < d.left ∧ d.left ≤ k ∧
        refuses s 2 = false ∧ s.twinned n = false) := by
  and_intros
  · refine ⟨{ queued := 262144 }, ?_⟩
    decide +kernel
  · refine ⟨(let z5 := ({  } : PipePart); { z5 with sums := { z5.sums with overrun := some (0 : Nat) } }), 0, ?_⟩
    decide +kernel
  · refine ⟨({  } : PipePart), ?_⟩
    decide +kernel
  · refine ⟨{ queue := [({ closed := false, rev := none } : Delivery)] }, 5, 1, ({ closed := false, rev := none } : Delivery), ?_⟩
    decide +kernel
  · refine ⟨{ queue := [({ closed := false, rev := some 3 } : Delivery)] }, 5, 3, 1, { closed := false, rev := some 3 }, ?_⟩
    decide +kernel
  · refine
        ⟨{ start with ports := start.ports.set (1 : Port) { start.ports[(1 : Port)] with shots := [({ launched := true, winClosed := true, kind := 1, cal := false, dataDone := false, cut := true } : Shot)] }, pipes := start.pipes.set (1 : Port) { start.pipes[(1 : Port)] with grid := [({ p := 7, cOld := (1,2), cNew := (3,4), q := 5, dark := false, late := false, poisoned := false, suspect := false, word := 0, align := ([] : List (BitVec 5)), old := 0 } : GridRec)], queue := [({ closed := false, rev := none } : Delivery)] } },
        1, ({ launched := true, winClosed := true, kind := 1, cal := false, dataDone := false, cut := true } : Shot), ({ closed := false, rev := none }
        : Delivery),
        ({ p := 7, cOld := (1,2), cNew := (3,4), q := 5, dark := false, late := false, poisoned := false, suspect := false, word := 0, align := ([] : List (BitVec 5)), old := 0 }
        : GridRec), ?_⟩
    decide +kernel
  · refine
        ⟨{ start with ports := start.ports.set (1 : Port) { start.ports[(1 : Port)] with shots := [({ launched := true, winClosed := true, kind := 1, cal := false, dataDone := false, cut := true } : Shot)] }, pipes := start.pipes.set (1 : Port) { start.pipes[(1 : Port)] with grid := [({ p := 7, cOld := (1,2), cNew := (3,4), q := 5, dark := false, late := false, poisoned := false, suspect := false, word := 0, align := ([] : List (BitVec 5)), old := 0 } : GridRec)], queue := [({ closed := false, rev := none } : Delivery)] } },
        1, ({ launched := true, winClosed := true, kind := 1, cal := false, dataDone := false, cut := true } : Shot), ({ closed := false, rev := none }
        : Delivery),
        ({ p := 7, cOld := (1,2), cNew := (3,4), q := 5, dark := false, late := false, poisoned := false, suspect := false, word := 0, align := ([] : List (BitVec 5)), old := 0 }
        : GridRec), ?_⟩
    decide +kernel
  · refine
        ⟨{ start with ports := start.ports.set (1 : Port) { start.ports[(1 : Port)] with shots := [({ launched := true, winClosed := true, kind := 1, cal := false, dataDone := false, cut := true } : Shot)] }, pipes := start.pipes.set (1 : Port) { start.pipes[(1 : Port)] with grid := [({ p := 7, cOld := (1,2), cNew := (3,4), q := 5, dark := false, late := false, poisoned := false, suspect := false, word := 0, align := ([] : List (BitVec 5)), old := 0 } : GridRec)], queue := [({ closed := false, rev := none } : Delivery)] } },
        1, ({ launched := true, winClosed := true, kind := 1, cal := false, dataDone := false, cut := true } : Shot), ?_⟩
    decide +kernel
  · refine ⟨start, 1, ?_⟩
    decide +kernel
  · refine ⟨start, 1, 5, ?_⟩
    decide +kernel
  · refine ⟨start.setBit Obj.CROSSINGS.PEER_RESET 2, 1, 5, ?_⟩
    decide +kernel
  · refine ⟨{ start with pipes := start.pipes.set (1 : Port) { start.pipes[(1 : Port)] with queue := [({ left := 9 } : Delivery)] } }, 1, 3,
        { left := 9 }, ?_⟩
    decide +kernel
  · refine
        ⟨{ start with pipes := start.pipes.set (1 : Port) { start.pipes[(1 : Port)] with queue := [({ closed := true, unheaded := false, left := 9 } : Delivery)] } },
        1, 12, { closed := true, unheaded := false, left := 9 }, ?_⟩
    decide +kernel

theorem witness_DtsShotsAndAverages :
    (∃ (s : State) (n : Port) (a : Fin 8) (c : Average), s.u (Obj.AVG_SET.N_AVG n a) ≤ (setOf s n a).cur.shots ∧ (setOf s n a).computing = some c ∧
        s.u (Obj.AVG_SET.DROPPED n a) + 1 < 2 ^ 32) ∧
    (∃ (s : State) (n : Port) (a : Fin 8) (x : Shot), x.aux = a.val ∧ (x.cut = true ∨ x.invalid = true) ∧ s.u (Obj.AVG_SET.DROPPED n a) + 1 < 2 ^ 32) ∧
    (∃ (s : State) (n : Port) (a : Fin 8) (x : Shot) (r : RamanRecord), x.aux = a.val ∧ x.cut = false ∧ x.invalid = false ∧ x.avgGen ≠ (setOf s n
        a).gen) ∧
    (∃ (s : State) (n : Port) (x : Shot) (r : RamanRecord), s.ports[n].shots = [x] ∧ x.winOpen = true ∧ x.winClosed = false ∧ x.kind = 2 ∧ x.cal =
        false ∧ x.trimAfter = false ∧ s.clk.switchDue = false) ∧
    (∃ (s : State) (n : Port) (a : Fin 8), s.u (Obj.AVG_SET.N_AVG n a) ≤ (setOf s n a).cur.shots ∧ (setOf s n a).computing = none ∧ s.flips = [] ∧
        (setOf s n a).cur.bad = []) ∧
    (∃ (s : State) (n : Port) (a : Fin 8) (x : Shot) (r : RamanRecord), x.aux = a.val ∧ x.cut = false ∧ x.invalid = false ∧ x.avgGen = (setOf s n
        a).gen ∧ s.flips = [] ∧ (setOf s n a).cur.bad = [] ∧ (setOf s n a).cur.shots < s.u (Obj.AVG_SET.N_AVG n a) ∧ s.u (Obj.AVG_SET.N_AVG n a) < 2 ^
        32) ∧
    (∃ (s : State) (n : Port) (a : Fin 8) (x : Shot) (r : RamanRecord), ∃ (b : Fin 8), x.aux = a.val ∧ x.cut = false ∧ x.invalid = false ∧ x.avgGen =
        (setOf s n a).gen ∧ s.flips = [] ∧ (setOf s n a).cur.bad = [] ∧ (setOf s n a).cur.shots < s.u (Obj.AVG_SET.N_AVG n a) ∧ s.u (Obj.AVG_SET.N_AVG
        n a) < 2 ^ 32 ∧ b ≠ a) := by
  and_intros
  · refine ⟨(start.put (Obj.AVG_SET.N_AVG (1 : Port) (1 : Fin 8)) 0).modRaman (1 : Port) (fun r =>
      { r with sets := r.sets.set (1 : Fin 8) { r.sets[(1 : Fin 8)] with computing := some ({} : Average) } }), (1 : Port), (1 : Fin 8), {}, ?_⟩
    decide +kernel
  · refine ⟨start, (1 : Port), (1 : Fin 8), ({ aux := (1 : Fin 8).val, cut := true } : Shot), ?_⟩
    decide +kernel
  · refine ⟨start, 1, 1, { aux := 1, avgGen := 3 }, ⟨[], [], [], []⟩, ?_⟩
    decide +kernel
  · refine ⟨oneShot start { winOpen := true, kind := 2 }, 1, { winOpen := true, kind := 2 }, ⟨[], [], [], []⟩, ?_⟩
    decide +kernel
  · refine ⟨start.put (Obj.AVG_SET.N_AVG (1 : Port) (1 : Fin 8)) 0, 1, 1, ?_⟩
    decide +kernel
  · refine ⟨start.put (Obj.AVG_SET.N_AVG (1 : Port) (1 : Fin 8)) 10, 1, 1, { aux := 1 }, ⟨[], [], [], []⟩, ?_⟩
    decide +kernel
  · refine ⟨start.put (Obj.AVG_SET.N_AVG (1 : Port) (1 : Fin 8)) 10, 1, 1, { aux := 1 }, ⟨[], [], [], []⟩, 2, ?_⟩
    decide +kernel

theorem witness_RamanTemperature :
    (∃ (s : State) (n : Port) (lnr : Rat) (dist : Rat), s.u (Obj.RAMAN.OUT_MODE n) = 0 ∧ s.raman[n].lnc - lnr - s.raman[n].dalpha * dist ≠ 0 ∧ 0 ≤
      f32Val (s.u (Obj.RAMAN.GAMMA n)) / (s.raman[n].lnc - lnr - s.raman[n].dalpha * dist) ∧ f32Val (s.u (Obj.RAMAN.GAMMA n)) / (s.raman[n].lnc -
      lnr - s.raman[n].dalpha * dist) ≤ 2047) ∧
    (∃ (s : State) (n : Port) (lnr : Rat) (dist : Rat), s.u (Obj.RAMAN.OUT_MODE n) = 0 ∧ (f32Val (s.u (Obj.RAMAN.GAMMA n)) / (s.raman[n].lnc - lnr -
      s.raman[n].dalpha * dist) < 0 ∨ 2047 < f32Val (s.u (Obj.RAMAN.GAMMA n)) / (s.raman[n].lnc - lnr - s.raman[n].dalpha * dist))) := by
  refine ⟨?_, ?_⟩
  · refine ⟨(start.put (Obj.RAMAN.OUT_MODE (1 : Port)) 0 |>.put (Obj.RAMAN.GAMMA (1 : Port)) 0x43F00000).modRaman (1 : Port) (fun r =>
      { r with lnc := 2, dalpha := 0 }), (1 : Port), 1, 1, ?_⟩
    decide +kernel
  · refine ⟨(start.put (Obj.RAMAN.OUT_MODE (1 : Port)) 0 |>.put (Obj.RAMAN.GAMMA (1 : Port)) 0x43F00000).modRaman (1 : Port) (fun r =>
      { r with lnc := 1, dalpha := 0 }), (1 : Port), 2, 1, ?_⟩
    decide +kernel

theorem witness_ProfileDelivered :
    ∃ (s : State) (n : Port) (a : Fin 8) (rest : List (Fin 8)) (v : Average) (d : DonePart), s.raman[n].ready = a :: rest ∧ (setOf s n a).computing
      = some v ∧ (setOf s n a).done = some d ∧ s.u (Obj.RAMAN.DUAL_PORT n) = 0xFF ∧ s.u (Obj.RAMAN.REF_MODE n) = 0 ∧ s.pipes[n].queued + 8 +
      d.points.length + 12 ≤ 262144 ∧ s.u (Obj.AVG_SET.PROFILES n a) + 1 < 2 ^ 32 := by
  refine ⟨((start.put (Obj.RAMAN.DUAL_PORT (1 : Port)) 0xFF).put (Obj.RAMAN.REF_MODE (1 : Port)) 0).modRaman (1 : Port) (fun r =>
    { r with ready := (1 : Fin 8) :: ([] : List (Fin 8)), sets := r.sets.set (1 : Fin 8) { r.sets[(1 : Fin 8)] with computing := some ({} : Average), done := some (⟨5, 16, 0, []⟩ : DonePart) } }),
    1, 1, [], {}, ⟨5, 16, 0, []⟩, ?_⟩
  decide +kernel

theorem witness_BrillouinShotAdds :
    (∃ (s : State) (n : Port) (x : Shot), s.ports[n].shots = [x] ∧ x.winClosed = true ∧ x.kind = 3 ∧ x.cal = false ∧ x.dataDone = false ∧ x.sweepGen =
        s.bril[n].gen ∧ s.bril[n].active = true ∧ wordLate s n x = false ∧ s.bril[n].shot < s.u (Obj.SWEEP_PROGRAM.DISCARD n s.bril[n].program) ∧
        s.bril[n].shot + 1 < perStep s n ∧ s.bril[n].shot + 1 < 2 ^ 16) ∧
    (∃ (b : Nat), 2 ≤ b) ∧
    (∃ (s : State) (n : Port) (x : Shot) (power : Rat) (base k sum : Nat), s.ports[n].shots = [x] ∧ x.winClosed = true ∧ x.kind = 3 ∧ x.cal = false ∧
        x.dataDone = false ∧ x.cut = false ∧ x.invalid = false ∧ x.sweepGen = s.bril[n].gen ∧ s.bril[n].active = true ∧ s.bril[n].skip = false ∧
        wordLate s n x = false ∧ s.u (Obj.SWEEP_PROGRAM.DISCARD n s.bril[n].program) ≤ s.bril[n].shot ∧ s.bril[n].shot + 1 < perStep s n ∧ base =
        bufferAddr s n (bufferOf s.bril[n]) ∧ k = s.bril[n].group % steps s n ∧ binPowers s n x = [power] ∧ sum = fromLe (s.load (base + 32 +
        addedBytes (steps s n) + k * 4) 4) + (roundEven (power / 2 ^ s.u (Obj.BRILLOUIN.P_SHIFT n))).toNat ∧ sum < 2 ^ 32 ∧ fromLe (s.load (base + 32
        + 2 * k) 2) + 1 < 2 ^ 16 ∧ memoryGood s ∧ sound s (base + 32 + addedBytes (steps s n) + k * 4) 4 ∧ sound s (base + 32 + 2 * k) 2) := by
  refine ⟨?_, ?_, ?_⟩
  · refine ⟨((((start.put (Obj.SWEEP_PROGRAM.SHOTS_PER_STEP (1 : Port) 0) 8).put (Obj.SWEEP_PROGRAM.DISCARD (1 : Port) 0) 3).put
      (Obj.BRIL_STATUS.BUF0_ADDR (1 : Port)) 0x1000).put (Obj.BRIL_STATUS.BUF1_ADDR (1 : Port)) 0x2000) |> fun (s : State) =>
      { s with ports := s.ports.set (1 : Port) { s.ports[(1 : Port)] with shots := [({ launched := true, winClosed := true, kind := 3, sweepGen := start.bril[1].gen, group := 0, launchAt := 1000000, pFirst := 4, pLast := 4 } : Shot)] }, bril := s.bril.set (1 : Port) { s.bril[(1 : Port)] with active := true, program := 0, shot := 1, skip := false, wordEnds := [(0, 5)] } },
      1, { launched := true, winClosed := true, kind := 3, sweepGen := start.bril[1].gen, group := 0, launchAt := 1000000, pFirst := 4, pLast := 4 },
      ?_⟩
    decide +kernel
  · refine ⟨2, ?_⟩
    decide +kernel
  · refine ⟨brilState, 1, brilShot, 0, bufferAddr brilState 1 (bufferOf brilState.bril[1]), brilState.bril[1].group % steps brilState 1, 0, ?_⟩
    unfold memoryGood sound
    decide +kernel

theorem witness_PorterTransfers :
    (∃ (s : State) (t : StallId) (g : Fin 16) (tr : Transaction), s.stalls[t].t[g].flight = some tr ∧ localGood tr.desc = false ∧ dKind tr.desc = 0) ∧
    (∃ (s : State) (t : StallId) (g : Fin 16) (tr : Transaction), s.stalls[t].t[g].flight = some tr ∧ localGood tr.desc = false ∧ dKind tr.desc = 1) ∧
    (∃ (s : State) (t : StallId) (g : Fin 16) (tr : Transaction), s.stalls[t].t[g].flight = some tr ∧ localGood tr.desc = false ∧ dKind tr.desc = 2) ∧
    (∃ (s : State) (t : StallId) (g : Fin 16) (tr : Transaction), s.stalls[t].t[g].flight = some tr ∧ localGood tr.desc = false ∧ dKind tr.desc = 3) ∧
    (∃ (s : State) (t : StallId) (g : Fin 16) (tr : Transaction), s.stalls[t].t[g].flight = some tr ∧ localGood tr.desc = true ∧ (dSpace tr.desc = 1 ∨
        dSpace tr.desc = 2) ∧ (∃ r ∈ dRowList tr.desc, remoteRow s t tr.desc r.2 = none) ∧ dKind tr.desc = 2) ∧
    (∃ (s : State) (t : StallId) (g : Fin 16) (tr : Transaction), s.stalls[t].t[g].flight = some tr ∧ localGood tr.desc = true ∧ (dSpace tr.desc = 1 ∨
        dSpace tr.desc = 2) ∧ (∃ r ∈ dRowList tr.desc, remoteRow s t tr.desc r.2 = none) ∧ dKind tr.desc = 3) ∧
    (∃ (k : Nat), k < 16) ∧
    (∃ (s : State) (t : StallId) (g : Fin 16) (tr : Transaction) (d : List Byte) (x : Stall) (a : Nat), x = s.stalls[t] ∧ memoryGood s ∧ x.t[g].flight
        = some tr ∧ d = tr.desc ∧ localGood d = true ∧ (dSpace d = 1 ∨ dSpace d = 2) ∧ remoteRow s t d 0 = some a ∧ a % 16 = 0 ∧ dKind d = 0 ∧ sound s
        a (16 * dLen d)) ∧
    (∃ (s : State) (t : StallId) (g : Fin 16) (tr : Transaction) (d : List Byte) (x : Stall) (a : Nat), x = s.stalls[t] ∧ memoryGood s ∧ x.t[g].flight
        = some tr ∧ d = tr.desc ∧ localGood d = true ∧ (dSpace d = 1 ∨ dSpace d = 2) ∧ remoteRow s t d 0 = some a ∧ a % 16 = 0 ∧ dKind d = 1 ∧ settled
        x = true ∧ sound s (stallData t + dLocal d) (16 * dLen d)) ∧
    (∃ (s : State) (t : StallId) (g : Fin 16) (tr : Transaction) (d : List Byte) (x : Stall), x = s.stalls[t] ∧ memoryGood s ∧ x.t[g].flight = some tr
        ∧ d = tr.desc ∧ localGood d = true ∧ (dSpace d = 1 ∨ dSpace d = 2) ∧ dKind d = 2 ∧ (∀ r ∈ dRowList d, ∃ a : Nat, remoteRow s t d r.2 = some a
        ∧ a % 16 = 0 ∧ sound s a (16 * dLen d)) ∧ (dRowList d).Pairwise (fun p q => p.1 + 16 * (dLen d : Int) ≤ q.1 ∨ q.1 + 16 * (dLen d : Int) ≤
        p.1)) ∧
    (∃ (s : State) (t : StallId) (g : Fin 16) (tr : Transaction) (d : List Byte) (x : Stall), x = s.stalls[t] ∧ memoryGood s ∧ x.t[g].flight = some tr
        ∧ d = tr.desc ∧ localGood d = true ∧ (dSpace d = 1 ∨ dSpace d = 2) ∧ dKind d = 3 ∧ settled x = true ∧ (∀ r ∈ dRowList d, (∃ a : Nat, remoteRow
        s t d r.2 = some a ∧ a % 16 = 0) ∧ sound s (stallData t + r.1.toNat) (16 * dLen d)) ∧ (dRowList d).Pairwise (fun p q => ∀ a b : Nat, remoteRow
        s t d p.2 = some a → remoteRow s t d q.2 = some b → a + 16 * dLen d ≤ b ∨ b + 16 * dLen d ≤ a)) := by
  and_intros
  · refine ⟨flying ((start.put (Obj.PROGRAM_SLOT.YARD_ALLOC 0) 1).put (Obj.PROGRAM_SLOT.DRAM_ALLOC 0) 1) (3 : StallId) (1 : Fin 16)
      ({ desc := desc 0 1 1 8 0 0 1 0 } : Transaction), (3 : StallId), (1 : Fin 16), { desc := desc 0 1 1 8 0 0 1 0 }, ?_⟩
    decide +kernel
  · refine ⟨flying ((start.put (Obj.PROGRAM_SLOT.YARD_ALLOC 0) 1).put (Obj.PROGRAM_SLOT.DRAM_ALLOC 0) 1) (3 : StallId) (1 : Fin 16)
      ({ desc := desc 1 1 1 8 0 0 1 0 } : Transaction), (3 : StallId), (1 : Fin 16), { desc := desc 1 1 1 8 0 0 1 0 }, ?_⟩
    decide +kernel
  · refine ⟨flying ((start.put (Obj.PROGRAM_SLOT.YARD_ALLOC 0) 1).put (Obj.PROGRAM_SLOT.DRAM_ALLOC 0) 1) (3 : StallId) (1 : Fin 16)
      ({ desc := desc 2 1 1 8 0 0 1 0 } : Transaction), (3 : StallId), (1 : Fin 16), { desc := desc 2 1 1 8 0 0 1 0 }, ?_⟩
    decide +kernel
  · refine ⟨flying ((start.put (Obj.PROGRAM_SLOT.YARD_ALLOC 0) 1).put (Obj.PROGRAM_SLOT.DRAM_ALLOC 0) 1) (3 : StallId) (1 : Fin 16)
      ({ desc := desc 3 1 1 8 0 0 1 0 } : Transaction), (3 : StallId), (1 : Fin 16), { desc := desc 3 1 1 8 0 0 1 0 }, ?_⟩
    decide +kernel
  · refine ⟨flying ((start.put (Obj.PROGRAM_SLOT.YARD_ALLOC 0) 1).put (Obj.PROGRAM_SLOT.DRAM_ALLOC 0) 1) (3 : StallId) (1 : Fin 16)
      ({ desc := desc 2 1 1 0 8 0 1 0 } : Transaction), (3 : StallId), (1 : Fin 16), { desc := desc 2 1 1 0 8 0 1 0 }, ?_⟩
    decide +kernel
  · refine ⟨flying ((start.put (Obj.PROGRAM_SLOT.YARD_ALLOC 0) 1).put (Obj.PROGRAM_SLOT.DRAM_ALLOC 0) 1) (3 : StallId) (1 : Fin 16)
      ({ desc := desc 3 1 1 0 8 0 1 0 } : Transaction), (3 : StallId), (1 : Fin 16), { desc := desc 3 1 1 0 8 0 1 0 }, ?_⟩
    decide +kernel
  · refine ⟨0, ?_⟩
    decide +kernel
  · exact ⟨buffered (desc 0 2 1 0 (2 ^ 63 + 0x1000) 0 1 0), 3, 1, { desc := desc 0 2 1 0 (2 ^ 63 + 0x1000) 0 1 0 }, _, _, 0x1000, rfl, memory_ok (by
        decide +kernel), by decide +kernel, rfl, by decide +kernel, by decide +kernel, by decide +kernel, by decide +kernel, by decide +kernel, sound_ok
        (by decide +kernel)⟩
  · exact ⟨buffered (desc 1 2 1 0 (2 ^ 63 + 0x1000) 0 1 0), 3, 1, { desc := desc 1 2 1 0 (2 ^ 63 + 0x1000) 0 1 0 }, _, _, 0x1000, rfl, memory_ok (by
        decide +kernel), by decide +kernel, rfl, by decide +kernel, by decide +kernel, by decide +kernel, by decide +kernel, by decide +kernel, by
        decide +kernel, sound_ok (by decide +kernel)⟩
  · exact ⟨buffered (desc 2 2 1 0 (2 ^ 63 + 0x1000) 0 1 0), 3, 1, { desc := desc 2 2 1 0 (2 ^ 63 + 0x1000) 0 1 0 }, _, _, rfl, memory_ok (by
        decide +kernel), by decide +kernel, rfl, by decide +kernel, by decide +kernel, by decide +kernel, rows_one (r := (0, 0)) (by decide +kernel)
        ⟨0x1000, by decide +kernel, by decide +kernel, sound_ok (by decide +kernel)⟩, pair_one (r := (0, 0)) (by decide +kernel)⟩
  · exact ⟨buffered (desc 3 2 1 0 (2 ^ 63 + 0x1000) 0 1 0), 3, 1, { desc := desc 3 2 1 0 (2 ^ 63 + 0x1000) 0 1 0 }, _, _, rfl, memory_ok (by
        decide +kernel), by decide +kernel, rfl, by decide +kernel, by decide +kernel, by decide +kernel, by decide +kernel, rows_one (r := (0, 0)) (by
        decide +kernel) ⟨⟨0x1000, by decide +kernel⟩, sound_ok (by decide +kernel)⟩, pair_one (r := (0, 0)) (by decide +kernel)⟩

theorem witness_DoneTrigMail :
    (∃ (s : State) (t : StallId) (g : Fin 16) (tr : Transaction), s.stalls[t].t[g].flight = some tr ∧ dKind tr.desc = 4 ∧ localGood tr.desc = true ∧
        resultPutPending s.stalls[t] tr.serial = true) ∧
    (∃ (s : State) (t : StallId) (g : Fin 16) (tr : Transaction), s.stalls[t].t[g].flight = some tr ∧ dKind tr.desc = 4 ∧ localGood tr.desc = true ∧
        resultPutPending s.stalls[t] tr.serial = false ∧ s.stalls[t].pitches[dFlags tr.desc / 32 % 4]? = none) ∧
    (∃ (s : State) (t : StallId) (g : Fin 16) (tr : Transaction), s.stalls[t].t[g].flight = some tr ∧ localGood tr.desc = true ∧ dKind tr.desc = 5 ∧
        s.array.trig.length < 64) ∧
    (∃ (s : State) (t : StallId) (g : Fin 16) (tr : Transaction), s.stalls[t].t[g].flight = some tr ∧ localGood tr.desc = true ∧ dKind tr.desc = 5 ∧
        64 ≤ s.array.trig.length) ∧
    (∃ (s : State) (t : StallId) (g : Fin 16) (tr : Transaction), s.stalls[t].t[g].flight = some tr ∧ localGood tr.desc = true ∧ dKind tr.desc = 6 ∧
        s.array.mail.length < 256) ∧
    (∃ (s : State) (t : StallId) (g : Fin 16) (tr : Transaction), s.stalls[t].t[g].flight = some tr ∧ localGood tr.desc = true ∧ dKind tr.desc = 6 ∧
        256 ≤ s.array.mail.length) ∧
    (∃ (s : State) (t : StallId) (g : Fin 16) (tr : Transaction), s.stalls[t].t[g].flight = some tr ∧ localGood tr.desc = false ∧ dKind tr.desc = 4 ∧
        resultPutPending s.stalls[t] tr.serial = false) ∧
    (∃ (s : State) (t : StallId) (g : Fin 16) (tr : Transaction), s.stalls[t].t[g].flight = some tr ∧ localGood tr.desc = false ∧ dKind tr.desc = 5) ∧
    (∃ (s : State) (t : StallId) (g : Fin 16) (tr : Transaction), s.stalls[t].t[g].flight = some tr ∧ localGood tr.desc = false ∧ dKind tr.desc = 6) ∧
    (∃ (s : State) (t : StallId) (g : Fin 16) (tr : Transaction), ∃ (k : Fin 192), s.stalls[t].t[g].flight = some tr ∧ dKind tr.desc = 4 ∧ localGood
        tr.desc = true ∧ resultPutPending s.stalls[t] tr.serial = false ∧ s.stalls[t].pitches[dFlags tr.desc / 32 % 4]? = some k ∧ dDeliv tr.desc ∈
        s.pitches[k].offers ∧ s.array.reorder.any (recFor (pitchSlot s k) (stallPort s k) (dDeliv tr.desc)) = false ∧ s.array.sweeps = [] ∧
        s.stalls[t].reload = false ∧ s.array.reorder = [] ∧ s.u (Obj.PITCH.LATE_DROP k) + 1 < 2 ^ 32) ∧
    (∃ (s : State) (t : StallId) (g : Fin 16) (tr : Transaction), ∃ (k : Fin 192), s.stalls[t].t[g].flight = some tr ∧ dKind tr.desc = 4 ∧ localGood
        tr.desc = true ∧ resultPutPending s.stalls[t] tr.serial = false ∧ s.stalls[t].pitches[dFlags tr.desc / 32 % 4]? = some k ∧ dDeliv tr.desc ∈
        s.pitches[k].offers ∧ s.array.reorder.any (recFor (pitchSlot s k) (stallPort s k) (dDeliv tr.desc)) = true ∧ s.stalls[t].reload = false) := by
  and_intros
  · refine ⟨((porting { desc := desc 4 0 1 0 7 0 0 0, serial := 5 }) |> fun (s : State) =>
        { s with stalls := s.stalls.set (3 : StallId) { s.stalls[(3 : StallId)] with t := s.stalls[(3 : StallId)].t.set 2 { flight := some { desc := desc 1 4 1 0 0 0 1 0, serial := 3 } } } }
        : State), 3, 1, { desc := desc 4 0 1 0 7 0 0 0, serial := 5 }, ?_⟩
    decide +kernel
  · refine ⟨porting { desc := desc 4 0 1 0 7 0 0 0 }, 3, 1, { desc := desc 4 0 1 0 7 0 0 0 }, ?_⟩
    decide +kernel
  · refine ⟨porting { desc := desc 5 0 1 0 7 0 0 0 }, 3, 1, { desc := desc 5 0 1 0 7 0 0 0 }, ?_⟩
    decide +kernel
  · refine ⟨((porting { desc := desc 5 0 1 0 7 0 0 0 }) |> fun (s : State) =>
        { s with array := { s.array with trig := List.replicate 64 ((3 : StallId), []) } } : State), 3, 1, { desc := desc 5 0 1 0 7 0 0 0 }, ?_⟩
    decide +kernel
  · refine ⟨porting { desc := desc 6 0 1 0 7 0 0 0 }, 3, 1, { desc := desc 6 0 1 0 7 0 0 0 }, ?_⟩
    decide +kernel
  · refine ⟨((porting { desc := desc 6 0 1 0 7 0 0 0 }) |> fun (s : State) =>
        { s with array := { s.array with mail := List.replicate 256 ((3 : StallId), []) } } : State), 3, 1, { desc := desc 6 0 1 0 7 0 0 0 }, ?_⟩
    decide +kernel
  · refine ⟨porting { desc := desc 4 0 0 0 7 0 0 0 }, 3, 1, { desc := desc 4 0 0 0 7 0 0 0 }, ?_⟩
    decide +kernel
  · refine ⟨porting { desc := desc 5 0 0 0 7 0 0 0 }, 3, 1, { desc := desc 5 0 0 0 7 0 0 0 }, ?_⟩
    decide +kernel
  · refine ⟨porting { desc := desc 6 0 0 0 7 0 0 0 }, 3, 1, { desc := desc 6 0 0 0 7 0 0 0 }, ?_⟩
    decide +kernel
  · refine ⟨(((porting { desc := desc 4 0 1 0 7 0 0 0 }) |> fun (s : State) =>
        { s with pitches := s.pitches.set (5 : Fin 192) { s.pitches[(5 : Fin 192)] with offers := [7] }, stalls := s.stalls.set (3 : StallId) { s.stalls[(3 : StallId)] with pitches := [(5 : Fin 192)] } })
        : State), 3, 1, { desc := desc 4 0 1 0 7 0 0 0 }, 5, ?_⟩
    decide +kernel
  · refine ⟨(((porting { desc := desc 4 0 1 0 7 0 0 0 }) |> fun (s : State) =>
        { s with pitches := s.pitches.set (5 : Fin 192) { s.pitches[(5 : Fin 192)] with offers := [7] }, stalls := s.stalls.set (3 : StallId) { s.stalls[(3 : StallId)] with pitches := [(5 : Fin 192)] }, array := { s.array with reorder := [{ slot := pitchSlot s (5 : Fin 192), port := stallPort s (5 : Fin 192), deliv := 7, kind := 1, header := [], trailer := [], pitches := [], blocks := [] }] } })
        : State), 3, 1, { desc := desc 4 0 1 0 7 0 0 0 }, 5, ?_⟩
    decide +kernel

theorem witness_ArrayService :
    (∃ (s : State) (n : Port) (d : Delivery) (q : List Delivery), s.pipes[n].queue = d :: q ∧ d.inRingWhole = true) ∧
    (∃ (s : State) (k : Fin 192) (t : StallId) (l : Fin 4), s.pitches[k].host = some (t, l) ∧ s.pitches[k].halted = false ∧ s.stalls[t].debugHalt =
      false ∧ s.pitches[k].offers.length ≤ 2 ∧ s.stalls[t].inq.length + s.stalls[t].held.length + (if s.stalls[t].lastPop.isSome then 1 else 0) < 4
      ∧ s.u (Obj.PITCH.OFFERED k) + 1 < 2 ^ 32) ∧
    (∃ (s : State) (k : Fin 192) (t : StallId) (l : Fin 4), s.pitches[k].host = some (t, l) ∧ s.pitches[k].halted = false ∧ s.stalls[t].debugHalt =
      false ∧ 3 ≤ s.pitches[k].offers.length ∧ s.pitches[k].skipNext = true ∧ s.pitches[k].lagRun < 15 ∧ s.u (Obj.PITCH.SKIPPED k) + 1 < 2 ^ 32) ∧
    (∃ (s : State) (t : StallId) (a : StallId), s.stalls[t].moveFrom = some a ∧ s.stalls[t].replacing = false ∧ a ≠ t ∧ s.stalls[t].held = [] ∧
      s.stalls[t].debugHalt = false) ∧
    (∃ (s : State) (t : StallId), s.stalls[t].state = .test) ∧
    (∃ (s : State) (t : StallId) (a : StallId), s.stalls[t].state = .loading ∧ s.stalls[t].replacing = true ∧ s.stalls[t].moveFrom = some a) := by
  and_intros
  · refine
      ⟨{ start with pipes := (start.pipes.set (1 : Port) { start.pipes[(1 : Port)] with queue := ({ closed := true, left := 0 } : Delivery) :: ([] : List Delivery) }) },
      (1 : Port), { closed := true, left := 0 }, ([] : List Delivery), ?_⟩
    decide +kernel
  · refine
      ⟨{ start with pitches := (start.pitches.set (1 : Fin 192) { start.pitches[(1 : Fin 192)] with host := some ((3 : StallId), (1 : Fin 4)), halted := false }), stalls := (start.stalls.set (3 : StallId) { start.stalls[(3 : StallId)] with debugHalt := false }) },
      (1 : Fin 192), (3 : StallId), (1 : Fin 4), ?_⟩
    decide +kernel
  · refine ⟨(start.put (Obj.PITCH.SKIPPED (5 : Fin 192)) 0) |> fun (s : State) =>
      { s with pitches := s.pitches.set (5 : Fin 192) { s.pitches[(5 : Fin 192)] with host := some ((3 : StallId), (1 : Fin 4)), offers := [1,2,3], skipNext := true, lagRun := 3, halted := false } },
      5, (3 : StallId), (1 : Fin 4), ?_⟩
    decide +kernel
  · refine
      ⟨{ start with stalls := (start.stalls.set (3 : StallId) { start.stalls[(3 : StallId)] with moveFrom := some (4 : StallId), replacing := false, held := [], debugHalt := false }) },
      (3 : StallId), 4, ?_⟩
    decide +kernel
  · refine ⟨{ start with stalls := (start.stalls.set (3 : StallId) { start.stalls[(3 : StallId)] with state := .test }) }, (3 : StallId), ?_⟩
    decide +kernel
  · refine
      ⟨{ start with stalls := (start.stalls.set (3 : StallId) { start.stalls[(3 : StallId)] with state := .loading, replacing := true, moveFrom := some (3 : StallId) }) },
      (3 : StallId), (3 : StallId), ?_⟩
    decide +kernel

theorem witness_VectorsShiftsAndMoves :
    (∃ (s : State) (t : StallId) (x : Stall), x = s.stalls[t] ∧ ready s t) ∧
    (∃ (s : State) (t : StallId) (n : BitVec 6) (x : Stall), x = s.stalls[t] ∧ ready s t ∧ n.toNat ≤ 23) ∧
    (∃ (s : State) (t : StallId) (n : BitVec 6), ready s t ∧ 23 < n.toNat) ∧
    (∃ (s : State) (t : StallId) (x : Stall), x = s.stalls[t] ∧ ready s t) := by
  refine ⟨?_, ?_, ?_, ?_⟩
  · exact ⟨serving, (3 : StallId), _, rfl, ready_ok (by decide +kernel)⟩
  · exact ⟨serving, (3 : StallId), (1 : BitVec 6), _, rfl, ready_ok (by decide +kernel), by decide +kernel⟩
  · exact ⟨serving, (3 : StallId), 24, ready_ok (by decide +kernel), by decide +kernel⟩
  · exact ⟨serving, (3 : StallId), _, rfl, ready_ok (by decide +kernel)⟩

theorem witness_ProductsAndAccumulators :
    (∃ (s : State) (t : StallId) (da : Fin 64) (db : Fin 64) (sm : BitVec 2) (bc : BitVec 3) (x : Stall) (p : Nat → Int) (q : Nat → Bool), x =
      s.stalls[t] ∧ ready s t ∧ sm ≠ 3 ∧ (bc = 0 ∨ 4 ≤ bc.toNat) ∧ (∀ i, p i = (if sm = 0 then ((x.getD da).get i).v.toInt else ((x.getD da).get
      i).v.toNat) * (if sm = 2 then (((x.getD db).get (if bc = 0 then i else bc.toNat - 4)).v.toNat : Int) else ((x.getD db).get (if bc = 0 then i
      else bc.toNat - 4)).v.toInt)) ∧ (∀ i, q i = (((x.getD da).get i).poison || ((x.getD db).get (if bc = 0 then i else bc.toNat - 4)).poison))) ∧
    (∃ (s : State) (t : StallId) (da : Fin 64) (db : Fin 64) (bc : BitVec 3) (cj : Bool) (x : Stall) (c : Nat → Int) (r : Nat → Bool) (ar : Nat →
      DLane) (ai : Nat → DLane) (br : Nat → DLane) (bi : Nat → DLane), x = s.stalls[t] ∧ ready s t ∧ (bc = 0 ∨ bc = 4 ∨ bc = 6) ∧ (∀ k, ai k =
      (x.getD da).get (2 * k) ∧ ar k = (x.getD da).get (2 * k + 1) ∧ bi k = (x.getD db).get (if bc = 0 then 2 * k else bc.toNat - 4) ∧ br k =
      (x.getD db).get (if bc = 0 then 2 * k + 1 else bc.toNat - 3)) ∧ (∀ k, c (2 * k + 1) = (ar k).v.toInt * (br k).v.toInt - (ai k).v.toInt * (if
      cj then -(bi k).v.toInt else (bi k).v.toInt) ∧ c (2 * k) = (ar k).v.toInt * (if cj then -(bi k).v.toInt else (bi k).v.toInt) + (ai k).v.toInt
      * (br k).v.toInt ∧ r (2 * k) = ((ai k).poison || (ar k).poison || (bi k).poison || (br k).poison) ∧ r (2 * k + 1) = r (2 * k))) ∧
    (∃ (s : State) (t : StallId) (sm : BitVec 2) (bc : BitVec 3), ready s t ∧ (sm = 3 ∨ bc = 1 ∨ bc = 2 ∨ bc = 3)) ∧
    (∃ (s : State) (t : StallId) (sm : BitVec 2) (bc : BitVec 3), ready s t ∧ (sm ≠ 0 ∨ (bc ≠ 0 ∧ bc ≠ 4 ∧ bc ≠ 6))) ∧
    (∃ (s : State) (t : StallId) (an : Fin 8) (am : Fin 8) (n : BitVec 6) (x : Stall) (a : AReg) (b : AReg), x = s.stalls[t] ∧ a = x.getA an ∧ b =
      x.getA am ∧ ready s t ∧ n.toNat ≤ 55) ∧
    (∃ (s : State) (t : StallId) (an : Fin 8) (am : Fin 8) (n : BitVec 6) (x : Stall) (a : AReg) (b : AReg), x = s.stalls[t] ∧ a = x.getA an ∧ b =
      x.getA am ∧ ready s t ∧ n.toNat ≤ 32) ∧
    (∃ (s : State) (t : StallId) (an : Fin 8) (am : Fin 8) (n : BitVec 6) (x : Stall) (a : AReg) (b : AReg), x = s.stalls[t] ∧ a = x.getA an ∧ b =
      x.getA am ∧ ready s t ∧ n.toNat ≤ 47) ∧
    (∃ (s : State) (t : StallId) (an : Fin 8) (am : Fin 8) (x : Stall) (a : AReg) (b : AReg), x = s.stalls[t] ∧ a = x.getA an ∧ b = x.getA am ∧
      ready s t) ∧
    (∃ (s : State) (t : StallId) (n : BitVec 6), ready s t ∧ 55 < n.toNat) ∧
    (∃ (s : State) (t : StallId) (n : BitVec 6), ready s t ∧ 32 < n.toNat) ∧
    (∃ (s : State) (t : StallId) (n : BitVec 6), ready s t ∧ 47 < n.toNat) := by
  and_intros
  · exact ⟨serving, (3 : StallId), (1 : Fin 64), (1 : Fin 64), (1 : BitVec 2), 0, _, (fun i => (if (1 : BitVec 2) = 0 then (((serving : State).stalls[(3
        : StallId)].getD (1 : Fin 64)).get i).v.toInt else (((serving : State).stalls[(3 : StallId)].getD (1 : Fin 64)).get i).v.toNat) * (if (1 :
        BitVec 2) = 2 then ((((serving : State).stalls[(3 : StallId)].getD (1 : Fin 64)).get (if (0 : BitVec 3) = 0 then i else (0 : BitVec 3).toNat
        - 4)).v.toNat : Int) else (((serving : State).stalls[(3 : StallId)].getD (1 : Fin 64)).get (if (0 : BitVec 3) = 0 then i else (0 : BitVec
        3).toNat - 4)).v.toInt)), (fun i => ((((serving : State).stalls[(3 : StallId)].getD (1 : Fin 64)).get i).poison || (((serving :
        State).stalls[(3 : StallId)].getD (1 : Fin 64)).get (if (0 : BitVec 3) = 0 then i else (0 : BitVec 3).toNat - 4)).poison)), rfl, ready_ok
        (by decide +kernel), by decide +kernel, by decide +kernel, fun _ => rfl, fun _ => rfl⟩
  · exact by
      refine ⟨cmacState, 3, 2, 4, 0, true, cmacState.stalls[(3 : StallId)], fun i => if i % 2 = 1 then 171 else -10, fun _ => false,
        fun _ => ⟨6, false⟩, fun _ => ⟨5, false⟩, fun _ => ⟨16, false⟩, fun _ => ⟨15, false⟩, rfl, ready_ok (by decide +kernel), by decide,
        fun k => ⟨quad_even (v := (⟨5, false⟩ : DLane)) (by decide +kernel) k, quad_odd (v := (⟨6, false⟩ : DLane)) (by decide +kernel) k, ?_, ?_⟩, fun k => ⟨?_, ?_, rfl, rfl⟩⟩
      · rw [if_pos rfl]; exact quad_even (v := (⟨15, false⟩ : DLane)) (by decide +kernel) k
      · rw [if_pos rfl]; exact quad_odd (v := (⟨16, false⟩ : DLane)) (by decide +kernel) k
      · show (if (2 * k + 1) % 2 = 1 then (171 : Int) else -10) = _
        rw [if_pos (by omega)]; rfl
      · show (if 2 * k % 2 = 1 then (171 : Int) else -10) = _
        rw [if_neg (by omega)]; rfl
  · exact ⟨serving, (3 : StallId), 3, (1 : BitVec 3), ready_ok (by decide +kernel), by decide +kernel⟩
  · exact ⟨serving, (3 : StallId), 1, (1 : BitVec 3), ready_ok (by decide +kernel), by decide +kernel⟩
  · exact ⟨serving, (3 : StallId), (1 : Fin 8), (1 : Fin 8), (1 : BitVec 6), _, (serving : State).stalls[(3 : StallId)].getA (1 : Fin 8), (serving :
        State).stalls[(3 : StallId)].getA (1 : Fin 8), rfl, by decide +kernel, by decide +kernel, ready_ok (by decide +kernel), by decide +kernel⟩
  · exact ⟨serving, (3 : StallId), (1 : Fin 8), (1 : Fin 8), (1 : BitVec 6), _, (serving : State).stalls[(3 : StallId)].getA (1 : Fin 8), (serving :
        State).stalls[(3 : StallId)].getA (1 : Fin 8), rfl, by decide +kernel, by decide +kernel, ready_ok (by decide +kernel), by decide +kernel⟩
  · exact ⟨serving, (3 : StallId), (1 : Fin 8), (1 : Fin 8), (1 : BitVec 6), _, (serving : State).stalls[(3 : StallId)].getA (1 : Fin 8), (serving :
        State).stalls[(3 : StallId)].getA (1 : Fin 8), rfl, by decide +kernel, by decide +kernel, ready_ok (by decide +kernel), by decide +kernel⟩
  · exact ⟨serving, (3 : StallId), (1 : Fin 8), (1 : Fin 8), _, (serving : State).stalls[(3 : StallId)].getA (1 : Fin 8), (serving : State).stalls[(3 :
        StallId)].getA (1 : Fin 8), rfl, by decide +kernel, by decide +kernel, ready_ok (by decide +kernel)⟩
  · exact ⟨serving, (3 : StallId), 56, ready_ok (by decide +kernel), by decide +kernel⟩
  · exact ⟨serving, (3 : StallId), 33, ready_ok (by decide +kernel), by decide +kernel⟩
  · exact ⟨serving, (3 : StallId), 48, ready_ok (by decide +kernel), by decide +kernel⟩

theorem witness_PointerFunctions :
    ∃ (s : State) (t : StallId) (ps : Fin 16) (pt : Fin 16) (x : Stall) (a : BitVec 24) (b : BitVec 24), x = s.stalls[t] ∧ a = x.getP ps ∧ b =
      x.getP pt ∧ ready s t := by
  exact ⟨serving, (3 : StallId), (1 : Fin 16), (1 : Fin 16), _, _, _, rfl, rfl, rfl, ready_ok (by decide +kernel)⟩

theorem witness_Loads :
    (∃ (s : State) (t : StallId) (dr : Fin 64) (pn : Fin 16) (mm : Fin 8) (am : BitVec 2) (ef : BitVec 3) (k : BitVec 8) (x y : Stall) (ad :
        Addressed) (sz a : Nat) (w : Nat → Nat), x = s.stalls[t] ∧ ready s t ∧ settled x = true ∧ sz = (if ef.toNat ≤ 3 then 4 else if ef = 4 then 2
        else 1) ∧ address x pn mm am sz k false = some ad ∧ a = ad.addr / sz * sz ∧ a + 4 * sz ≤ 0x30000 ∧ watchHit x a (4 * sz) false = false ∧ sound
        s (stallData t + a) (4 * sz) ∧ (∀ i, w i = fromLe (s.load (stallData t + a + sz * i) sz)) ∧ y = (x.setP pn ad.p).setM mm ad.m ∧ ef = 0) ∧
    (∃ (s : State) (t : StallId) (dr : Fin 64) (pn : Fin 16) (mm : Fin 8) (am : BitVec 2) (ef : BitVec 3) (k : BitVec 8) (x y : Stall) (ad :
        Addressed) (sz a : Nat) (w : Nat → Nat), x = s.stalls[t] ∧ ready s t ∧ settled x = true ∧ sz = (if ef.toNat ≤ 3 then 4 else if ef = 4 then 2
        else 1) ∧ address x pn mm am sz k false = some ad ∧ a = ad.addr / sz * sz ∧ a + 4 * sz ≤ 0x30000 ∧ watchHit x a (4 * sz) false = false ∧ sound
        s (stallData t + a) (4 * sz) ∧ (∀ i, w i = fromLe (s.load (stallData t + a + sz * i) sz)) ∧ y = (x.setP pn ad.p).setM mm ad.m ∧ ef = 1) ∧
    (∃ (s : State) (t : StallId) (dr : Fin 64) (pn : Fin 16) (mm : Fin 8) (am : BitVec 2) (ef : BitVec 3) (k : BitVec 8) (x y : Stall) (ad :
        Addressed) (sz a : Nat) (w : Nat → Nat), x = s.stalls[t] ∧ ready s t ∧ settled x = true ∧ sz = (if ef.toNat ≤ 3 then 4 else if ef = 4 then 2
        else 1) ∧ address x pn mm am sz k false = some ad ∧ a = ad.addr / sz * sz ∧ a + 4 * sz ≤ 0x30000 ∧ watchHit x a (4 * sz) false = false ∧ sound
        s (stallData t + a) (4 * sz) ∧ (∀ i, w i = fromLe (s.load (stallData t + a + sz * i) sz)) ∧ y = (x.setP pn ad.p).setM mm ad.m ∧ ef = 2) ∧
    (∃ (s : State) (t : StallId) (dr : Fin 64) (pn : Fin 16) (mm : Fin 8) (am : BitVec 2) (ef : BitVec 3) (k : BitVec 8) (x y : Stall) (ad :
        Addressed) (sz a : Nat) (w : Nat → Nat), x = s.stalls[t] ∧ ready s t ∧ settled x = true ∧ sz = (if ef.toNat ≤ 3 then 4 else if ef = 4 then 2
        else 1) ∧ address x pn mm am sz k false = some ad ∧ a = ad.addr / sz * sz ∧ a + 4 * sz ≤ 0x30000 ∧ watchHit x a (4 * sz) false = false ∧ sound
        s (stallData t + a) (4 * sz) ∧ (∀ i, w i = fromLe (s.load (stallData t + a + sz * i) sz)) ∧ y = (x.setP pn ad.p).setM mm ad.m ∧ ef = 3 ∧
        dr.val ≤ 62) ∧
    (∃ (s : State) (t : StallId) (dr : Fin 64) (pn : Fin 16) (mm : Fin 8) (am : BitVec 2) (ef : BitVec 3) (k : BitVec 8) (x y : Stall) (ad :
        Addressed) (sz a : Nat) (w : Nat → Nat), x = s.stalls[t] ∧ ready s t ∧ settled x = true ∧ sz = (if ef.toNat ≤ 3 then 4 else if ef = 4 then 2
        else 1) ∧ address x pn mm am sz k false = some ad ∧ a = ad.addr / sz * sz ∧ a + 4 * sz ≤ 0x30000 ∧ watchHit x a (4 * sz) false = false ∧ sound
        s (stallData t + a) (4 * sz) ∧ (∀ i, w i = fromLe (s.load (stallData t + a + sz * i) sz)) ∧ y = (x.setP pn ad.p).setM mm ad.m ∧ ef = 4) ∧
    (∃ (s : State) (t : StallId) (dr : Fin 64) (pn : Fin 16) (mm : Fin 8) (am : BitVec 2) (ef : BitVec 3) (k : BitVec 8) (x y : Stall) (ad :
        Addressed) (sz a : Nat) (w : Nat → Nat), x = s.stalls[t] ∧ ready s t ∧ settled x = true ∧ sz = (if ef.toNat ≤ 3 then 4 else if ef = 4 then 2
        else 1) ∧ address x pn mm am sz k false = some ad ∧ a = ad.addr / sz * sz ∧ a + 4 * sz ≤ 0x30000 ∧ watchHit x a (4 * sz) false = false ∧ sound
        s (stallData t + a) (4 * sz) ∧ (∀ i, w i = fromLe (s.load (stallData t + a + sz * i) sz)) ∧ y = (x.setP pn ad.p).setM mm ad.m ∧ ef = 5) ∧
    (∃ (s : State) (t : StallId) (an : Fin 8) (pd pn : Fin 16) (mm : Fin 8) (am : BitVec 2) (k : BitVec 8) (x : Stall) (ad : Addressed) (sz a : Nat),
        x = s.stalls[t] ∧ ready s t ∧ settled x = true ∧ address x pn mm am sz k false = some ad ∧ a = ad.addr / sz * sz ∧ a + sz ≤ 0x30000 ∧ watchHit
        x a sz false = false ∧ sound s (stallData t + a) sz ∧ sz = 4) ∧
    (∃ (s : State) (t : StallId) (an : Fin 8) (pd pn : Fin 16) (mm : Fin 8) (am : BitVec 2) (k : BitVec 8) (x : Stall) (ad : Addressed) (sz a : Nat),
        x = s.stalls[t] ∧ ready s t ∧ settled x = true ∧ address x pn mm am sz k false = some ad ∧ a = ad.addr / sz * sz ∧ a + sz ≤ 0x30000 ∧ watchHit
        x a sz false = false ∧ sound s (stallData t + a) sz ∧ sz = 32) ∧
    (∃ (s : State) (t : StallId) (dr : Fin 64) (pd pn : Fin 16) (mm : Fin 8) (am : BitVec 2) (k : BitVec 8) (x : Stall) (ad : Addressed), x =
        s.stalls[t] ∧ ready s t ∧ settled x = true ∧ address x pn mm am 4 k false = some ad ∧ ad.addr / 4 * 4 + 4 ≤ 0x30000 ∧ watchHit x (ad.addr / 4
        * 4) 4 false = false ∧ s.poisoned (stallData t + ad.addr / 4 * 4) = true ∧ (∀ e ∈ s.flips, e.1 + 16 ≤ stallData t + ad.addr / 4 * 4 ∨
        stallData t + ad.addr / 4 * 4 + 4 ≤ e.1) ∧ x.trapEn.getLsbD 2 = false) := by
  and_intros
  · exact ⟨serving, 3, 1, 1, 1, 1, 0, 1, _, _, loadAt 4, 4, _, _, rfl, ready_ok (by decide +kernel), by decide +kernel, by decide, by decide +kernel,
        rfl, by decide +kernel, by decide +kernel, sound_ok (by decide +kernel), fun _ => rfl, rfl, by decide +kernel⟩
  · exact ⟨serving, 3, 1, 1, 1, 1, 1, 1, _, _, loadAt 4, 4, _, _, rfl, ready_ok (by decide +kernel), by decide +kernel, by decide, by decide +kernel,
        rfl, by decide +kernel, by decide +kernel, sound_ok (by decide +kernel), fun _ => rfl, rfl, by decide +kernel⟩
  · exact ⟨serving, 3, 1, 1, 1, 1, 2, 1, _, _, loadAt 4, 4, _, _, rfl, ready_ok (by decide +kernel), by decide +kernel, by decide, by decide +kernel,
        rfl, by decide +kernel, by decide +kernel, sound_ok (by decide +kernel), fun _ => rfl, rfl, by decide +kernel⟩
  · exact ⟨serving, 3, 1, 1, 1, 1, 3, 1, _, _, loadAt 4, 4, _, _, rfl, ready_ok (by decide +kernel), by decide +kernel, by decide, by decide +kernel,
        rfl, by decide +kernel, by decide +kernel, sound_ok (by decide +kernel), fun _ => rfl, rfl, by decide +kernel⟩
  · exact ⟨serving, 3, 1, 1, 1, 1, 4, 1, _, _, loadAt 2, 2, _, _, rfl, ready_ok (by decide +kernel), by decide +kernel, by decide, by decide +kernel,
        rfl, by decide +kernel, by decide +kernel, sound_ok (by decide +kernel), fun _ => rfl, rfl, by decide +kernel⟩
  · exact ⟨serving, 3, 1, 1, 1, 1, 5, 1, _, _, loadAt 1, 1, _, _, rfl, ready_ok (by decide +kernel), by decide +kernel, by decide, by decide +kernel,
        rfl, by decide +kernel, by decide +kernel, sound_ok (by decide +kernel), fun _ => rfl, rfl, by decide +kernel⟩
  · exact ⟨serving, 3, 1, 1, 1, 1, 1, 1, _, loadAt 4, 4, _, rfl, ready_ok (by decide +kernel), by decide +kernel, by decide +kernel, rfl, by
        decide +kernel, by decide +kernel, sound_ok (by decide +kernel), rfl⟩
  · exact ⟨serving, 3, 1, 1, 1, 1, 1, 1, _, loadAt 32, 32, _, rfl, ready_ok (by decide +kernel), by decide +kernel, by decide +kernel, rfl, by
        decide +kernel, by decide +kernel, sound_ok (by decide +kernel), rfl⟩
  · refine
        ⟨{ start with stalls := start.stalls.set (3 : StallId) { start.stalls[(3 : StallId)] with state := .service, p := start.stalls[(3 : StallId)].p.set (2 : Fin 16) 16 }, poison := [stallData (3 : StallId) + 16] },
        3, 1, 1, 2, 1, 0, 0, _, (address
        ({ start with stalls := start.stalls.set (3 : StallId) { start.stalls[(3 : StallId)] with state := .service, p := start.stalls[(3 : StallId)].p.set (2 : Fin 16) 16 }, poison := [stallData (3 : StallId) + 16] }
        : State).stalls[(3 : StallId)] 2 1 0 4 0 false).getD ⟨0, 1, {}⟩, rfl, ?_, ?_⟩
    · exact ⟨⟨by decide +kernel, .inr (fun b hb => by simp_all [start, State.reset]), by decide +kernel, by decide +kernel⟩, by decide +kernel⟩
    · decide +kernel

theorem witness_Stores :
    (∃ (s : State) (t : StallId) (dr : Fin 64) (ef : BitVec 3), issues s t ∧ (6 ≤ ef.toNat ∨ (ef = 3 ∧ dr.val = 63))) ∧
    (∃ (s : State) (t : StallId) (pn : Fin 16) (mm : Fin 8) (am : BitVec 2) (k : BitVec 8), issues s t ∧ address s.stalls[t] pn mm am 4 k false =
        none) ∧
    (∃ (s : State) (t : StallId) (pn : Fin 16) (mm : Fin 8) (am : BitVec 2) (k : BitVec 8) (ad : Addressed), issues s t ∧ address s.stalls[t] pn mm am
        4 k false = some ad ∧ 0x30000 < ad.addr / 4 * 4 + 4) ∧
    (∃ (s : State) (t : StallId) (pn : Fin 16) (mm : Fin 8) (am : BitVec 2) (k : BitVec 8) (ad : Addressed), issues s t ∧ address s.stalls[t] pn mm am
        4 k true = some ad ∧ 0x2FB00 < ad.addr / 4 * 4 + 4) ∧
    (∃ (s : State) (t : StallId) (dr : Fin 64) (pn : Fin 16) (mm : Fin 8) (am : BitVec 2) (ef : BitVec 3) (k : BitVec 8) (x : Stall) (ad : Addressed)
        (sz a : Nat) (d q e : Nat → Int), x = s.stalls[t] ∧ ready s t ∧ memoryGood s ∧ ef.toNat < 6 ∧ ¬(ef = 3 ∧ dr.val = 63) ∧ sz = (if ef.toNat ≤ 3
        then 4 else if ef = 4 then 2 else 1) ∧ address x pn mm am sz k true = some ad ∧ a = ad.addr / sz * sz ∧ a + 4 * sz ≤ 0x2FB00 ∧ watchHit x a (4
        * sz) true = false ∧ sound s (stallData t + a) (4 * sz) ∧ (∀ i, ((x.getD dr).get i).poison = false ∧ (ef = 3 → ((x.getD (dr + 1)).get
        i).poison = false)) ∧ (∀ i, d i = ((x.getD dr).get i).v.toInt ∧ q i = ((x.getD (dr + 1)).get i).v.toInt) ∧ (∀ i, e i = (if ef = 0 then d i *
        256 else if ef = 1 then d i else if ef = 3 then d i * 256 + max 0 (min 255 (q i)) else if ef = 4 then max (-32768) (min 32767 (d i)) else max
        0 (min 255 (d i))))) ∧
    (∃ (s : State) (t : StallId) (an : Fin 8) (ps pn : Fin 16) (mm : Fin 8) (am : BitVec 2) (k : BitVec 8) (x : Stall) (ad : Addressed) (sz a : Nat),
        x = s.stalls[t] ∧ ready s t ∧ memoryGood s ∧ address x pn mm am sz k true = some ad ∧ a = ad.addr / sz * sz ∧ a + sz ≤ 0x2FB00 ∧ watchHit x a
        sz true = false ∧ sound s (stallData t + a) sz ∧ (∀ i, ((x.getA an).get i).poison = false) ∧ sz = 4) ∧
    (∃ (s : State) (t : StallId) (an : Fin 8) (ps pn : Fin 16) (mm : Fin 8) (am : BitVec 2) (k : BitVec 8) (x : Stall) (ad : Addressed) (sz a : Nat),
        x = s.stalls[t] ∧ ready s t ∧ memoryGood s ∧ address x pn mm am sz k true = some ad ∧ a = ad.addr / sz * sz ∧ a + sz ≤ 0x2FB00 ∧ watchHit x a
        sz true = false ∧ sound s (stallData t + a) sz ∧ (∀ i, ((x.getA an).get i).poison = false) ∧ sz = 32) := by
  and_intros
  · exact ⟨serving, (3 : StallId), (1 : Fin 64), 6, issues_ok (by decide +kernel), by decide +kernel⟩
  · exact by
      refine ⟨({ start with stalls := start.stalls.set (3 : StallId) { start.stalls[(3 : StallId)] with state := .service } }) |> fun (s : State) => { s with stalls := s.stalls.set (3 : StallId) { s.stalls[(3 : StallId)] with m := s.stalls[(3 : StallId)].m.set (1 : Fin 8) {} } }, (3 : StallId), (1 : Fin 16), (1 : Fin 8), 2, (1 : BitVec 8), ?_, ?_⟩
      · exact issues_ok (by decide +kernel)
      · decide +kernel
  · exact ⟨{ start with stalls := start.stalls.set (3 : StallId) { start.stalls[(3 : StallId)] with state := .service, p := start.stalls[(3 : StallId)].p.set (1 : Fin 16) 0x30004 } },
        (3 : StallId), (1 : Fin 16), (1 : Fin 8), 0, 0, (address
        ({ start with stalls := start.stalls.set (3 : StallId) { start.stalls[(3 : StallId)] with state := .service, p := start.stalls[(3 : StallId)].p.set (1 : Fin 16) 0x30004 } }
        : State).stalls[(3 : StallId)] (1 : Fin 16) (1 : Fin 8) (0 : BitVec 2) 4 (0 : BitVec 8) false).getD ⟨0,0,{}⟩, issues_ok (by decide +kernel),
        by decide +kernel⟩
  · exact ⟨{ start with stalls := start.stalls.set (3 : StallId) { start.stalls[(3 : StallId)] with state := .service, p := start.stalls[(3 : StallId)].p.set (1 : Fin 16) 0x2FB00 } },
        (3 : StallId), (1 : Fin 16), (1 : Fin 8), 0, 0, (address
        ({ start with stalls := start.stalls.set (3 : StallId) { start.stalls[(3 : StallId)] with state := .service, p := start.stalls[(3 : StallId)].p.set (1 : Fin 16) 0x2FB00 } }
        : State).stalls[(3 : StallId)] (1 : Fin 16) (1 : Fin 8) (0 : BitVec 2) 4 (0 : BitVec 8) true).getD ⟨0,0,{}⟩, issues_ok (by decide +kernel),
        by decide +kernel⟩
  · refine ⟨storeState, 3, 5, 2, 0, 0, 0, 0, storeState.stalls[(3 : StallId)], ⟨64, 64, {}⟩, 4, 64, fun i => ((storeState.stalls[(3 : StallId)].getD
        5).get i).v.toInt, fun i => ((storeState.stalls[(3 : StallId)].getD 6).get i).v.toInt, fun i => ((storeState.stalls[(3 : StallId)].getD 5).get
        i).v.toInt * 256, rfl, ready_ok (by decide +kernel), ?_, by decide, by decide, by decide, by decide +kernel, by decide, by decide, by
        decide +kernel, sound_ok (by decide +kernel), fun i => ⟨quad_all (P := fun l : DLane => l.poison = false) (by decide +kernel) i, fun h => absurd
        h (by decide)⟩, fun i => ⟨rfl, rfl⟩, fun i => rfl⟩
    exact memory_ok (by decide +kernel)
  · exact ⟨serving, 3, 1, 1, 1, 1, 1, 1, _, storeAt 4, 4, _, rfl, ready_ok (by decide +kernel), memory_ok (by decide +kernel), by decide +kernel, rfl,
        by decide +kernel, by decide +kernel, sound_ok (by decide +kernel), quad_all (P := fun l : ALane => l.poison = false) (by decide +kernel), rfl⟩
  · exact ⟨serving, 3, 1, 1, 1, 1, 1, 1, _, storeAt 32, 32, _, rfl, ready_ok (by decide +kernel), memory_ok (by decide +kernel), by decide +kernel, rfl,
        by decide +kernel, by decide +kernel, sound_ok (by decide +kernel), quad_all (P := fun l : ALane => l.poison = false) (by decide +kernel), rfl⟩

theorem witness_Addressing :
    (∃ (x : Stall) (mm : Fin 8) (m : Modifier), m = x.m[mm] ∧ (m.len = 0 ∨ m.step = 0)) ∧
    (∃ (x : Stall) (pn : Fin 16) (mm : Fin 8) (m : Modifier) (o : Nat), m = x.m[mm] ∧ m.len ≠ 0 ∧ m.step ≠ 0 ∧ x.p[pn].toNat = m.base.toNat + o ∧ o
      < m.len.toNat ∧ m.base.toNat + m.len.toNat ≤ 2 ^ 24) ∧
    (∃ (x : Stall) (pn : Fin 16) (mm : Fin 8) (m : Modifier) (o : Nat), m = x.m[mm] ∧ m.len ≠ 0 ∧ m.step ≠ 0 ∧ x.p[pn].toNat = m.base.toNat + o ∧ o
      < m.len.toNat ∧ m.staged ≠ 0 ∧ m.base.toNat + m.staged.toNat ≤ 2 ^ 24 ∧ (¬(0 ≤ (o : Int) + m.step.toInt ∧ (o : Int) + m.step.toInt <
      m.len.toNat))) ∧
    (∃ (x : Stall) (pn : Fin 16) (mm : Fin 8) (sz : Nat) (k : BitVec 8) (st : Bool) (am : BitVec 2) (ad : Addressed) (m : Modifier), m = x.m[mm] ∧ 2
      ≤ am.toNat ∧ m.base.toNat + m.len.toNat ≤ 2 ^ 24 ∧ address x pn mm am sz k st = some ad ∧ (¬(m.base.toNat ≤ x.p[pn].toNat ∧ x.p[pn].toNat <
      m.base.toNat + m.len.toNat))) ∧
    (∃ (x : Stall) (pn : Fin 16) (mm : Fin 8) (sz : Nat) (k : BitVec 8) (st : Bool) (am : BitVec 2) (ad : Addressed) (m : Modifier), m = x.m[mm] ∧ 2
      ≤ am.toNat ∧ m.base.toNat + m.len.toNat ≤ 2 ^ 24 ∧ address x pn mm am sz k st = some ad) := by
  refine ⟨?_, ?_, ?_, ?_, ?_⟩
  · refine ⟨({} : Stall), (1 : Fin 8), { ({} : Stall).m[(1 : Fin 8)] with len := 0 }, ?_⟩
    decide +kernel
  · refine
      ⟨{ p := (({} : Stall).p).set (1 : Fin 16) 0x104, m := (({} : Stall).m).set (1 : Fin 8) ({ base := 0x100, len := 0x20, step := 8, staged := 0 } : Modifier) },
      (1 : Fin 16), (1 : Fin 8), { base := 0x100, len := 0x20, step := 8, staged := 0 }, 4, ?_⟩
    decide +kernel
  · refine
      ⟨{ p := (({} : Stall).p).set (1 : Fin 16) 0x11C, m := (({} : Stall).m).set (1 : Fin 8) ({ base := 0x100, len := 0x20, step := 8, staged := 16 } : Modifier) },
      (1 : Fin 16), (1 : Fin 8), { base := 0x100, len := 0x20, step := 8, staged := 16 }, 28, ?_⟩
    decide +kernel
  · refine
      ⟨{ p := (({} : Stall).p).set (1 : Fin 16) 0x80, m := (({} : Stall).m).set (1 : Fin 8) ({ base := 0x100, len := 0x20, step := 8, staged := 0 } : Modifier) },
      (1 : Fin 16), (1 : Fin 8), 4, (1 : BitVec 8), false, 2, (address
      ({ p := (({} : Stall).p).set (1 : Fin 16) 0x80, m := (({} : Stall).m).set (1 : Fin 8) ({ base := 0x100, len := 0x20, step := 8, staged := 0 } : Modifier) }
      : Stall) (1 : Fin 16) (1 : Fin 8) (2 : BitVec 2) (4 : Nat) (1 : BitVec 8) false).getD ⟨0,0,{}⟩,
      { base := 0x100, len := 0x20, step := 8, staged := 0 }, ?_⟩
    decide +kernel
  · refine
      ⟨{ p := (({} : Stall).p).set (1 : Fin 16) 0x11C, m := (({} : Stall).m).set (1 : Fin 8) ({ base := 0x100, len := 0x20, step := 8, staged := 0 } : Modifier) },
      (1 : Fin 16), (1 : Fin 8), 4, (1 : BitVec 8), false, 2, (address
      ({ p := (({} : Stall).p).set (1 : Fin 16) 0x11C, m := (({} : Stall).m).set (1 : Fin 8) ({ base := 0x100, len := 0x20, step := 8, staged := 0 } : Modifier) }
      : Stall) (1 : Fin 16) (1 : Fin 8) (2 : BitVec 2) (4 : Nat) (1 : BitVec 8) false).getD ⟨0,0,{}⟩,
      { base := 0x100, len := 0x20, step := 8, staged := 0 }, ?_⟩
    decide +kernel

theorem witness_FlowInstructions :
    (∃ (s : State) (t : StallId) (off : BitVec 14) (x : Stall) (dst : BitVec 13), x = s.stalls[t] ∧ issuesControl s t ∧ dst = BitVec.ofInt 13
      (x.pc.toNat + off.toInt) ∧ x.rets.length < 8) ∧
    (∃ (s : State) (t : StallId) (off : BitVec 14) (x : Stall) (dst : BitVec 13), x = s.stalls[t] ∧ issuesControl s t ∧ dst = BitVec.ofInt 13
      (x.pc.toNat + off.toInt) ∧ 8 ≤ x.rets.length) ∧
    (∃ (s : State) (t : StallId) (off : BitVec 14) (x : Stall) (dst : BitVec 13) (a : BitVec 13) (r : List (BitVec 13)), x = s.stalls[t] ∧
      issuesControl s t ∧ dst = BitVec.ofInt 13 (x.pc.toNat + off.toInt) ∧ x.rets = a :: r ∧ x.masked = true) ∧
    (∃ (s : State) (t : StallId) (off : BitVec 14) (x : Stall) (dst : BitVec 13) (a : BitVec 13) (r : List (BitVec 13)), x = s.stalls[t] ∧
      issuesControl s t ∧ dst = BitVec.ofInt 13 (x.pc.toNat + off.toInt) ∧ x.rets = a :: r) ∧
    (∃ (s : State) (t : StallId) (off : BitVec 14) (x : Stall) (dst : BitVec 13), x = s.stalls[t] ∧ issuesControl s t ∧ dst = BitVec.ofInt 13
      (x.pc.toNat + off.toInt) ∧ x.rets = []) ∧
    (∃ (s : State) (t : StallId) (off : BitVec 14) (x : Stall) (dst : BitVec 13), x = s.stalls[t] ∧ issuesControl s t ∧ dst = BitVec.ofInt 13
      (x.pc.toNat + off.toInt) ∧ x.masked = false) ∧
    (∃ (s : State) (t : StallId) (off : BitVec 14) (x : Stall) (dst : BitVec 13), x = s.stalls[t] ∧ issuesControl s t ∧ dst = BitVec.ofInt 13
      (x.pc.toNat + off.toInt)) ∧
    (∃ (s : State) (t : StallId) (pa : Fin 16) (pb : Fin 16) (cc : BitVec 3) (x : Stall) (a : BitVec 24) (b : BitVec 24) (taken : Bool), x =
      s.stalls[t] ∧ issuesControl s t ∧ a = x.p[pa] ∧ b = x.p[pb] ∧ taken = (if cc = 0 then decide (a = b) else if cc = 1 then decide (a ≠ b) else
      if cc = 2 then decide (a.toInt < b.toInt) else if cc = 3 then decide (b.toInt ≤ a.toInt) else if cc = 4 then decide (a.toNat < b.toNat) else
      if cc = 5 then decide (b.toNat ≤ a.toNat) else if cc = 6 then decide (a.toNat = 0) else decide (a.toNat ≠ 0)) ∧ taken = false ∧ x.runsOut =
      false) ∧
    (∃ (s : State) (t : StallId) (pa : Fin 16) (pb : Fin 16) (cc : BitVec 3) (x : Stall) (a : BitVec 24) (b : BitVec 24) (taken : Bool), x =
      s.stalls[t] ∧ issuesControl s t ∧ a = x.p[pa] ∧ b = x.p[pb] ∧ taken = (if cc = 0 then decide (a = b) else if cc = 1 then decide (a ≠ b) else
      if cc = 2 then decide (a.toInt < b.toInt) else if cc = 3 then decide (b.toInt ≤ a.toInt) else if cc = 4 then decide (a.toNat < b.toNat) else
      if cc = 5 then decide (b.toNat ≤ a.toNat) else if cc = 6 then decide (a.toNat = 0) else decide (a.toNat ≠ 0)) ∧ taken = true) ∧
    (∃ (s : State) (t : StallId) (src : Bool) (cnt : BitVec 12) (body : BitVec 12) (x : Stall) (n : Nat), x = s.stalls[t] ∧ issuesControl s t ∧
      x.runsOut = false ∧ n = (if src then (x.p[(⟨cnt.toNat / 256, by have := cnt.isLt; omega⟩ : Fin 16)]).toNat else if cnt = 0 then 4096 else
      cnt.toNat) ∧ body ≠ 0 ∧ x.loops.length < 2 ∧ (∀ l ∈ x.loops.head?, l.depth = x.rets.length → x.pc.toNat + body.toNat < l.last) ∧ n ≠ 0) ∧
    (∃ (s : State) (t : StallId) (src : Bool) (cnt : BitVec 12) (body : BitVec 12) (x : Stall) (n : Nat), x = s.stalls[t] ∧ issuesControl s t ∧
      x.runsOut = false ∧ n = (if src then (x.p[(⟨cnt.toNat / 256, by have := cnt.isLt; omega⟩ : Fin 16)]).toNat else if cnt = 0 then 4096 else
      cnt.toNat) ∧ body ≠ 0 ∧ x.loops.length < 2 ∧ (∀ l ∈ x.loops.head?, l.depth = x.rets.length → x.pc.toNat + body.toNat < l.last) ∧ n = 0 ∧
      x.pc.toNat + body.toNat < 0x1FFF) ∧
    (∃ (s : State) (t : StallId) (body : BitVec 12), issuesControl s t ∧ (body = 0 ∨ s.stalls[t].loops.length = 2)) ∧
    (∃ (s : State) (t : StallId), issues s t) ∧
    (∃ (s : State) (t : StallId), issues s t ∧ s.stalls[t].lastOfBody = true) ∧
    (∃ (x : Stall), x.loops = []) ∧
    (∃ (x : Stall) (l : LoopLevel) (r : List LoopLevel), x.loops = l :: r ∧ x.lastOfBody = false) ∧
    (∃ (x : Stall) (l : LoopLevel) (r : List LoopLevel), x.loops = l :: r ∧ x.lastOfBody = true ∧ 1 < l.remaining) ∧
    (∃ (x : Stall) (l : LoopLevel) (r : List LoopLevel), x.loops = l :: r ∧ x.lastOfBody = true ∧ l.remaining ≤ 1) ∧
    (∃ (x : Stall) (l : LoopLevel) (r : List LoopLevel), x.loops = l :: r ∧ x.lastOfBody = true) := by
  and_intros
  · exact ⟨serving, (3 : StallId), (1 : BitVec 14), _, BitVec.ofInt 13 ((serving : State).stalls[(3 : StallId)].pc.toNat + (1 : BitVec 14).toInt), rfl,
        control_ok (by decide +kernel), by decide +kernel⟩
  · exact ⟨{ start with stalls := start.stalls.set (3 : StallId) { start.stalls[(3 : StallId)] with state := .service, rets := List.replicate 8 5 } }, (3 :
        StallId), (1 : BitVec 14), _, BitVec.ofInt 13
        (({ start with stalls := start.stalls.set (3 : StallId) { start.stalls[(3 : StallId)] with state := .service, rets := List.replicate 8 5 } } :
        State).stalls[(3 : StallId)].pc.toNat + (1 : BitVec 14).toInt), rfl, control_ok (by decide +kernel), by decide +kernel⟩
  · exact ⟨{ start with stalls := (start.stalls.set (3 : StallId) { start.stalls[(3 : StallId)] with state := .service, rets := (1 : BitVec 13) :: ([] : List (BitVec 13)), masked := true }) },
        (3 : StallId), (1 : BitVec 14), _, BitVec.ofInt 13
        (({ start with stalls := (start.stalls.set (3 : StallId) { start.stalls[(3 : StallId)] with state := .service, rets := (1 : BitVec 13) :: ([] : List (BitVec 13)), masked := true }) }
        : State).stalls[(3 : StallId)].pc.toNat + (1 : BitVec 14).toInt), (1 : BitVec 13), ([] : List (BitVec 13)), rfl, control_ok (by
        decide +kernel), by decide +kernel⟩
  · exact ⟨{ start with stalls := (start.stalls.set (3 : StallId) { start.stalls[(3 : StallId)] with state := .service, rets := (1 : BitVec 13) :: ([] : List (BitVec 13)) }) },
        (3 : StallId), (1 : BitVec 14), _, BitVec.ofInt 13
        (({ start with stalls := (start.stalls.set (3 : StallId) { start.stalls[(3 : StallId)] with state := .service, rets := (1 : BitVec 13) :: ([] : List (BitVec 13)) }) }
        : State).stalls[(3 : StallId)].pc.toNat + (1 : BitVec 14).toInt), (1 : BitVec 13), ([] : List (BitVec 13)), rfl, control_ok (by
        decide +kernel), by decide +kernel⟩
  · exact ⟨{ start with stalls := (start.stalls.set (3 : StallId) { start.stalls[(3 : StallId)] with state := .service, rets := [] }) }, (3 : StallId), (1 : BitVec
        14), _, BitVec.ofInt 13 (({ start with stalls := (start.stalls.set (3 : StallId) { start.stalls[(3 : StallId)] with state := .service, rets := [] }) } :
        State).stalls[(3 : StallId)].pc.toNat + (1 : BitVec 14).toInt), rfl, control_ok (by decide +kernel), by decide +kernel⟩
  · exact ⟨{ start with stalls := (start.stalls.set (3 : StallId) { start.stalls[(3 : StallId)] with state := .service, masked := false }) }, (3 : StallId), (1 :
        BitVec 14), _, BitVec.ofInt 13
        (({ start with stalls := (start.stalls.set (3 : StallId) { start.stalls[(3 : StallId)] with state := .service, masked := false }) } : State).stalls[(3 :
        StallId)].pc.toNat + (1 : BitVec 14).toInt), rfl, control_ok (by decide +kernel), by decide +kernel⟩
  · exact ⟨serving, (3 : StallId), (1 : BitVec 14), _, BitVec.ofInt 13 ((serving : State).stalls[(3 : StallId)].pc.toNat + (1 : BitVec 14).toInt), rfl,
        control_ok (by decide +kernel), by decide +kernel⟩
  · exact ⟨serving, (3 : StallId), (1 : Fin 16), (1 : Fin 16), (1 : BitVec 3), _, (serving : State).stalls[(3 : StallId)].p[(1 : Fin 16)], (serving :
        State).stalls[(3 : StallId)].p[(1 : Fin 16)], _, rfl, control_ok (by decide +kernel), by decide +kernel, by decide +kernel, rfl, by
        decide +kernel⟩
  · exact ⟨serving, (3 : StallId), (1 : Fin 16), (1 : Fin 16), 0, _, (serving : State).stalls[(3 : StallId)].p[(1 : Fin 16)], (serving :
        State).stalls[(3 : StallId)].p[(1 : Fin 16)], true, rfl, control_ok (by decide +kernel), by decide +kernel⟩
  · exact ⟨serving, (3 : StallId), false, (1 : BitVec 12), 1, _, (if false then ((serving : State).stalls[(3 : StallId)].p[(⟨(1 : BitVec 12).toNat /
        256, by have := (1 : BitVec 12).isLt; omega⟩ : Fin 16)]).toNat else if (1 : BitVec 12) = 0 then 4096 else (1 : BitVec 12).toNat), rfl,
        control_ok (by decide +kernel), by decide +kernel⟩
  · exact ⟨{ start with stalls := start.stalls.set (3 : StallId) { start.stalls[(3 : StallId)] with state := .service, p := start.stalls[(3 : StallId)].p.set 1 0, pc := 100, loops := [], debugHalt := false } },
        (3 : StallId), true, 0x100, 4, _, 0, rfl, control_ok (by decide +kernel), by decide +kernel⟩
  · exact ⟨serving, (3 : StallId), 0, control_ok (by decide +kernel), by decide +kernel⟩
  · refine ⟨serving, (3 : StallId), ?_⟩
    exact issues_ok (by decide +kernel)
  · exact ⟨{ start with stalls := start.stalls.set (3 : StallId) { start.stalls[(3 : StallId)] with state := .service, pc := 100, rets := [], loops := [⟨90, 100, 4, false, 0⟩] } },
        (3 : StallId), issues_ok (by decide +kernel), by decide +kernel⟩
  · refine ⟨({ loops := [] } : Stall), ?_⟩
    decide +kernel
  · refine ⟨{ loops := (⟨90, 100, 4, false, 0⟩ : LoopLevel) :: ([] : List LoopLevel), pc := 95 }, ⟨90, 100, 4, false, 0⟩, ([] : List LoopLevel), ?_⟩
    decide +kernel
  · refine ⟨{ loops := (⟨90, 100, 4, false, 0⟩ : LoopLevel) :: ([] : List LoopLevel), pc := 100 }, ⟨90, 100, 4, false, 0⟩, ([] : List LoopLevel),
      ?_⟩
    decide +kernel
  · refine ⟨{ loops := (⟨90, 100, 1, false, 0⟩ : LoopLevel) :: ([] : List LoopLevel), pc := 100 }, ⟨90, 100, 1, false, 0⟩, ([] : List LoopLevel),
      ?_⟩
    decide +kernel
  · refine ⟨{ loops := (⟨90, 100, 1, true, 0⟩ : LoopLevel) :: ([] : List LoopLevel), pc := 100 }, ⟨90, 100, 1, true, 0⟩, ([] : List LoopLevel), ?_⟩
    decide +kernel

theorem witness_StallRegistersAndPorter :
    (∃ (s : State) (t : StallId) (x : Stall) (sel : BitVec 8), x = s.stalls[t] ∧ ready s t ∧ 0x13 ≤ sel.toNat) ∧
    (∃ (s : State) (t : StallId) (x : Stall), x = s.stalls[t] ∧ ready s t) ∧
    (∃ (s : State) (t : StallId) (ps : Fin 16) (mm : Fin 8) (x : Stall) (m : Modifier) (v : BitVec 24), x = s.stalls[t] ∧ m = x.m[mm] ∧ v = x.p[ps] ∧
        ready s t ∧ v.toNat ≤ 0x30000 ∧ m.len ≠ 0) ∧
    (∃ (s : State) (t : StallId) (ps : Fin 16) (mm : Fin 8) (x : Stall) (m : Modifier) (v : BitVec 24), x = s.stalls[t] ∧ m = x.m[mm] ∧ v = x.p[ps] ∧
        ready s t ∧ v.toNat ≤ 0x30000 ∧ m.len = 0 ∧ v ≠ 0) ∧
    (∃ (s : State) (t : StallId) (ps : Fin 16) (mm : Fin 8) (x : Stall) (m : Modifier) (v : BitVec 24), x = s.stalls[t] ∧ m = x.m[mm] ∧ v = x.p[ps] ∧
        ready s t) ∧
    (∃ (s : State) (t : StallId) (tt : Fin 16) (pn : Fin 16) (x : Stall) (a : Nat) (d : List Byte), x = s.stalls[t] ∧ ready s t ∧ settled x = true ∧
        x.t[tt].flight = none ∧ a = (x.p[pn]).toNat / 16 * 16 ∧ a + 32 ≤ 0x30000 ∧ d = s.load (stallData t + a) 32 ∧ watchHit x a 32 false = false ∧
        dKind d ≤ 4) ∧
    (∃ (s : State) (t : StallId) (tt : Fin 16) (f : Transaction), issues s t ∧ s.stalls[t].t[tt].flight = some f ∧ s.u (Obj.STALL.TAG_HOLD t) + 1 < 2
        ^ 32) ∧
    (∃ (s : State) (t : StallId) (tt : Fin 16) (x : Stall), x = s.stalls[t] ∧ ready s t ∧ x.t[tt].flight = none) ∧
    (∃ (s : State) (t : StallId) (tt : Fin 16) (x : Stall) (f : Transaction), x = s.stalls[t] ∧ issues s t ∧ x.t[tt].flight = some f) ∧
    (∃ (s : State) (t : StallId) (x : Stall) (i : Fin 4) (r : List (Fin 4)), x = s.stalls[t] ∧ ready s t ∧ x.inq = i :: r) ∧
    (∃ (s : State) (t : StallId) (x : Stall), x = s.stalls[t] ∧ issues s t ∧ x.inq = []) ∧
    (∃ (s : State) (t : StallId) (tt pn : Fin 16) (x : Stall) (a : Nat) (d : List Byte), x = s.stalls[t] ∧ ready s t ∧ settled x = true ∧
        x.t[tt].flight = none ∧ a = (x.p[pn]).toNat / 16 * 16 ∧ a + 32 ≤ 0x30000 ∧ d = s.load (stallData t + a) 32 ∧ watchHit x a 32 false = false ∧
        (dKind d = 5 ∨ dKind d = 6) ∧ dLocal d + 16 ≤ 0x30000) ∧
    (∃ (s : State) (t : StallId) (tt pn : Fin 16) (x : Stall) (a : Nat) (d : List Byte), x = s.stalls[t] ∧ ready s t ∧ settled x = true ∧
        x.t[tt].flight = none ∧ a = (x.p[pn]).toNat / 16 * 16 ∧ a + 32 ≤ 0x30000 ∧ d = s.load (stallData t + a) 32 ∧ watchHit x a 32 false = false ∧ 7
        ≤ dKind d) := by
  and_intros
  · exact ⟨serving, (3 : StallId), _, 19, rfl, ready_ok (by decide +kernel), by decide +kernel⟩
  · exact ⟨serving, (3 : StallId), _, rfl, ready_ok (by decide +kernel)⟩
  · exact ⟨{ start with stalls := start.stalls.set (3 : StallId) { start.stalls[(3 : StallId)] with state := .service, m := start.stalls[(3 : StallId)].m.set (1 : Fin 8) { len := 8 }, p := start.stalls[(3 : StallId)].p.set (1 : Fin 16) 0x20 } },
        (3 : StallId), (1 : Fin 16), (1 : Fin 8), _, { len := 8 },
        ({ start with stalls := start.stalls.set (3 : StallId) { start.stalls[(3 : StallId)] with state := .service, m := start.stalls[(3 : StallId)].m.set (1 : Fin 8) { len := 8 }, p := start.stalls[(3 : StallId)].p.set (1 : Fin 16) 0x20 } }
        : State).stalls[(3 : StallId)].p[(1 : Fin 16)], rfl, by decide +kernel, by decide +kernel, ready_ok (by decide +kernel), by decide +kernel⟩
  · exact ⟨{ start with stalls := start.stalls.set (3 : StallId) { start.stalls[(3 : StallId)] with state := .service, m := start.stalls[(3 : StallId)].m.set (1 : Fin 8) { len := 0 }, p := start.stalls[(3 : StallId)].p.set (1 : Fin 16) 0x20 } },
        (3 : StallId), (1 : Fin 16), (1 : Fin 8), _, { len := 0 }, 0x20, rfl, by decide +kernel, by decide +kernel, ready_ok (by decide +kernel), by
        decide +kernel⟩
  · exact ⟨serving, (3 : StallId), (1 : Fin 16), (1 : Fin 8), _, (serving : State).stalls[(3 : StallId)].m[(1 : Fin 8)], (serving : State).stalls[(3 :
        StallId)].p[(1 : Fin 16)], rfl, by decide +kernel, by decide +kernel, ready_ok (by decide +kernel)⟩
  · exact ⟨{ start with stalls := (start.stalls.set (3 : StallId) { start.stalls[(3 : StallId)] with state := .service, t := (start.stalls[(3 : StallId)].t.set (1 : Fin 16) { start.stalls[(3 : StallId)].t[(1 : Fin 16)] with flight := none }) }) },
        (3 : StallId), (1 : Fin 16), (1 : Fin 16), _,
        (({ start with stalls := (start.stalls.set (3 : StallId) { start.stalls[(3 : StallId)] with state := .service, t := (start.stalls[(3 : StallId)].t.set (1 : Fin 16) { start.stalls[(3 : StallId)].t[(1 : Fin 16)] with flight := none }) }) }
        : State).stalls[(3 : StallId)].p[(1 : Fin 16)]).toNat / 16 * 16, _, rfl, ready_ok (by decide +kernel), by decide +kernel, by decide +kernel,
        by decide +kernel, by decide +kernel, rfl, by decide +kernel⟩
  · exact ⟨{ start with stalls := (start.stalls.set (3 : StallId) { start.stalls[(3 : StallId)] with state := .service, t := (start.stalls[(3 : StallId)].t.set (1 : Fin 16) { start.stalls[(3 : StallId)].t[(1 : Fin 16)] with flight := some ({ desc := ([] : List Byte) } : Transaction) }) }) },
        (3 : StallId), (1 : Fin 16), ({ desc := ([] : List Byte) } : Transaction), issues_ok (by decide +kernel), by decide +kernel⟩
  · exact ⟨{ start with stalls := (start.stalls.set (3 : StallId) { start.stalls[(3 : StallId)] with state := .service, t := (start.stalls[(3 : StallId)].t.set (1 : Fin 16) { start.stalls[(3 : StallId)].t[(1 : Fin 16)] with flight := none }) }) },
        (3 : StallId), (1 : Fin 16), _, rfl, ready_ok (by decide +kernel), by decide +kernel⟩
  · exact ⟨{ start with stalls := start.stalls.set (3 : StallId) { start.stalls[(3 : StallId)] with state := .service, t := start.stalls[(3 : StallId)].t.set (1 : Fin 16) { flight := some { desc := desc 0 1 1 0 0 0 1 0 } } } },
        (3 : StallId), (1 : Fin 16), _, { desc := desc 0 1 1 0 0 0 1 0 }, rfl, issues_ok (by decide +kernel), by decide +kernel⟩
  · exact ⟨{ start with stalls := (start.stalls.set (3 : StallId) { start.stalls[(3 : StallId)] with state := .service, inq := (1 : Fin 4) :: ([] : List (Fin 4)) }) },
        (3 : StallId), _, (1 : Fin 4), ([] : List (Fin 4)), rfl, ready_ok (by decide +kernel), by decide +kernel⟩
  · exact ⟨{ start with stalls := (start.stalls.set (3 : StallId) { start.stalls[(3 : StallId)] with state := .service, inq := [] }) }, (3 : StallId), _, rfl,
        issues_ok (by decide +kernel), by decide +kernel⟩
  · exact
        ⟨(({ start with stalls := start.stalls.set (3 : StallId) { start.stalls[(3 : StallId)] with state := .service, p := start.stalls[(3 : StallId)].p.set (1 : Fin 16) 64 } }
        : State) |> fun (s : State) => s.store (stallData 3 + 64) (desc 5 0 1 0 0 0 0 0) : State), 3, 1, 1, _, 64, _, rfl, ready_ok (by decide +kernel),
        by decide +kernel, by decide +kernel, rfl, by decide +kernel, rfl, by decide +kernel⟩
  · exact
        ⟨(({ start with stalls := start.stalls.set (3 : StallId) { start.stalls[(3 : StallId)] with state := .service, p := start.stalls[(3 : StallId)].p.set (1 : Fin 16) 64 } }
        : State) |> fun (s : State) => s.store (stallData 3 + 64) (desc 9 0 1 0 0 0 0 0) : State), 3, 1, 1, _, 64, _, rfl, ready_ok (by decide +kernel),
        by decide +kernel, by decide +kernel, rfl, by decide +kernel, rfl, by decide +kernel⟩

theorem witness_FlagsAndTraps :
    (∃ (s : State) (t : StallId) (x : Stall), x = s.stalls[t] ∧ x.entryTrap ≠ 0 ∧ x.masked = false ∧ x.rets.length < 8 ∧ s.u (Obj.STALL.TRAPS t) + 1
      < 2 ^ 32) ∧
    (∃ (s : State) (t : StallId), (s.stalls[t].entryTrap = 0 ∨ s.stalls[t].masked = true ∨ 8 ≤ s.stalls[t].rets.length)) ∧
    (∃ (s : State) (t : StallId) (b : Fin 6) (x : Stall), x = s.stalls[t] ∧ x.running = true ∧ (x.flags.getLsbD b = true ∨ x.trapEn.getLsbD b =
      false ∨ x.masked = true)) ∧
    (∃ (s : State) (t : StallId) (b : Fin 6) (x : Stall), x = s.stalls[t] ∧ x.running = true ∧ x.flags.getLsbD b = false ∧ x.trapEn.getLsbD b = true
      ∧ x.masked = false ∧ x.entryTrap ≠ 0 ∧ x.rets.length < 8) := by
  refine ⟨?_, ?_, ?_, ?_⟩
  · exact ⟨{ start with stalls := (start.stalls.set (3 : StallId) { start.stalls[(3 : StallId)] with entryTrap := 1, masked := false }) }, (3 : StallId), _, rfl, by
        decide +kernel⟩
  · refine ⟨{ start with stalls := (start.stalls.set (3 : StallId) { start.stalls[(3 : StallId)] with entryTrap := 0 }) }, (3 : StallId), ?_⟩
    decide +kernel
  · exact ⟨{ start with stalls := start.stalls.set (3 : StallId) { start.stalls[(3 : StallId)] with state := .service, flags := 0x3F } }, (3 : StallId), (1 : Fin
        6), _, rfl, by decide +kernel⟩
  · exact ⟨{ start with stalls := start.stalls.set (3 : StallId) { start.stalls[(3 : StallId)] with state := .service, flags := 0, trapEn := 0x3F, masked := false, entryTrap := 7, rets := [] } },
        (3 : StallId), (1 : Fin 6), _, rfl, by decide +kernel⟩

theorem witness_TriggersAndCaptureEvents :
    (∃ (s : State) (r : Fin 64), s.u (Obj.REGION.RSTATE r) = 0) ∧
    (∃ (s : State) (r : Fin 64), s.u (Obj.REGION.RSTATE r) = 1 ∧ s.u (Obj.REGION.TRIG_EARLY r) + 1 < 2 ^ 32) ∧
    (∃ (s : State) (r : Fin 64), s.u (Obj.REGION.RSTATE r) = 4 ∧ s.u (Obj.REGION.TRIG_REARM r) + 1 < 2 ^ 32) ∧
    (∃ (s : State) (r : Fin 64) (tr : Trigger), s.u (Obj.REGION.RSTATE r) = 2 ∧ tr.gone = false ∧ s.capture.regions[r].lastLeft = none ∧ (∀ e ∈
        s.capture.regions[r].ring, (e.stamp : Int) < tr.x)) ∧
    (∃ (s : State) (r : Fin 64) (tr : Trigger) (l : List AwnEntry) (m : List AwnEntry) (b : AwnEntry), s.u (Obj.REGION.RSTATE r) = 2 ∧ tr.gone = false
        ∧ s.capture.regions[r].lastLeft = none ∧ s.capture.regions[r].waiting = [] ∧ s.u (Obj.REGION.BELL_TX r) = 0xFF ∧ s.capture.regions[r].ring = l
        ++ b :: m ∧ (∀ e ∈ l, (e.stamp : Int) < tr.x) ∧ tr.x ≤ (b.stamp : Int)) ∧
    (∃ (k : Cond), k.type = 1) ∧
    (∃ (k : Cond), k.type = 5) ∧
    (∃ (s : State) (r : Fin 64), (∀ e ∈ s.capture.regions[r].ring, e.tested = true)) ∧
    (∃ (s : State) (r : Fin 64) (e : AwnEntry) (d : Delivery), s.capture.regions[r].ring = [e] ∧ e.tested = false ∧ s.u (Obj.REGION.PORT r) < 8 ∧
        sampleDelivery s ⟨s.u (Obj.REGION.PORT r) % 8, Nat.mod_lt _ (by decide)⟩ (s.u (Obj.REGION.SOURCE r) + 1) e.seq = some d ∧ d.closed = true ∧ (∀
        c < 8, pointType (s.u (Obj.CONDITIONS.C_TYPE r c)) = false)) ∧
    (∃ (s : State) (t : StallId) (q : List Byte) (rest : List (StallId × List Byte)), s.array.trig = (t, q) :: rest ∧ 64 ≤ imageField q 0 1 ∧ s.u
        Obj.CAPTURE.TRIG_BAD + 1 < 2 ^ 32) ∧
    (∃ (s : State), s.u Obj.CAN.CAN_EN ≠ 0 ∧ s.can.busOff = false ∧ s.u Obj.CAN.RX_FRAMES + 1 < 2 ^ 32) ∧
    (∃ (s : State), (s.u Obj.CAN.CAN_EN = 0 ∨ s.can.busOff = true)) ∧
    (∃ (s : State) (r : Fin 64) (c : RecordPart), s.capture.regions[r].record = some c ∧ c.complete = false) ∧
    (∃ (s : State) (r : Fin 64), s.u (Obj.REGION.RSTATE r) = 4) ∧
    (∃ (s : State) (e : Nat) (g : Nat) (mode : Nat), s.capture.arms = [(e, g, mode)] ∧ e ≤ s.now) ∧
    (∃ (s : State) (e : Nat) (g : Nat) (mode : Nat), s.capture.arms = [(e, g, mode)] ∧ s.now < e) ∧
    (∃ (s : State) (r : Fin 64) (n : Port) (e : AwnEntry) (d : Delivery), s.capture.regions[r].ring.find? (fun x => !x.tested) = some e ∧ s.u
        (Obj.REGION.PORT r) = n.val ∧ sampleDelivery s n (s.u (Obj.REGION.SOURCE r) + 1) e.seq = some d ∧ (∀ c < 8, pointType (s.u
        (Obj.CONDITIONS.C_TYPE r c)) = true → ∀ i < s.u (Obj.CONDITIONS.C_COUNT r c), wordKnown d (s.u (Obj.CONDITIONS.C_FIRST r c) + i) = true)) ∧
    (∃ (s u : State) (t : StallId) (q : List Byte) (rest : List (StallId × List Byte)) (r : Fin 64) (c : Fin 8), s.array.trig = (t, q) :: rest ∧
        imageField q 0 1 = r.val ∧ imageField q 1 1 = c.val ∧ u = { s with array := { s.array with trig := rest } } ∧ (s.u (Obj.CONDITIONS.C_TYPE r c)
        ≠ 7 ∨ requestPort s t r = false)) ∧
    (∃ (s u : State) (t : StallId) (q : List Byte) (rest : List (StallId × List Byte)) (r : Fin 64) (c : Fin 8), s.array.trig = (t, q) :: rest ∧
        imageField q 0 1 = r.val ∧ imageField q 1 1 = c.val ∧ u = { s with array := { s.array with trig := rest } } ∧ s.u (Obj.CONDITIONS.C_TYPE r c)
        = 7 ∧ requestPort s t r = true ∧ s.u (Obj.REGION.RSTATE r) = 0) ∧
    (∃ (s u : State) (t : StallId) (q : List Byte) (rest : List (StallId × List Byte)) (r : Fin 64) (c : Fin 8), s.array.trig = (t, q) :: rest ∧
        imageField q 0 1 = r.val ∧ imageField q 1 1 = c.val ∧ u = { s with array := { s.array with trig := rest } } ∧ s.u (Obj.CONDITIONS.C_TYPE r c)
        = 7 ∧ requestPort s t r = true ∧ s.u (Obj.REGION.RSTATE r) ≠ 0) ∧
    (∃ (s : State) (r : Fin 64) (c : RecordPart), s.capture.regions[r].record = some c ∧ c.complete = true ∧ (∀ e ∈ c.pre ++ c.post, e.poisoned = [])
        ∧ s.flips = [] ∧ s.capture.storePos + (recordBytes s r c).length ≤ s.u Obj.CAPTURE.STORE_LEN * 2 ^ 20 ∧ s.u (Obj.REGION.RECORDS r) + 1 < 2 ^
        32 ∧ c.preShort = false) ∧
    (∃ (s : State) (a : Arrival) (h : BitVec 8) (m : BellMsg), linkUp s a.link = true ∧ a.fseq = s.links[a.link].last + 1 ∧ m.origin = ownId s) ∧
    (∃ (s v w : State) (a : Arrival) (h : BitVec 8) (m : BellMsg), linkUp s a.link = true ∧ a.fseq = s.links[a.link].last + 1 ∧ a.poisoned = [] ∧
        m.origin ≠ ownId s ∧ (∀ e ∈ s.remembered, ¬(e.1 = m.origin ∧ e.2.1 = m.seq)) ∧ v =
        { s.acceptFrame a 0 with capture := { s.capture with seen := ((m.origin, m.seq, (s.now : Int)) :: s.remembered).take 4096 } } ∧ w = (if 1 <
        h.toNat then v.flood (some a.link) { vc := 0, kind := 1, src := m.origin, hops := h.toNat - 1, body := .bell m } else v)) ∧
    (∃ (s v w : State) (a : Arrival) (h : BitVec 8) (m : BellMsg), linkUp s a.link = true ∧ a.fseq = s.links[a.link].last + 1 ∧ a.poisoned = [] ∧
        m.origin ≠ ownId s ∧ (∀ e ∈ s.remembered, ¬(e.1 = m.origin ∧ e.2.1 = m.seq)) ∧ v =
        { s.acceptFrame a 0 with capture := { s.capture with seen := ((m.origin, m.seq, (s.now : Int)) :: s.remembered).take 4096 } } ∧ w = (if 1 <
        h.toNat then v.flood (some a.link) { vc := 0, kind := 1, src := m.origin, hops := h.toNat - 1, body := .bell m } else v) ∧ (m.armMode = 1 ∨
        m.armMode = 2)) ∧
    (∃ (s : State) (a : Arrival) (h : BitVec 8) (m : BellMsg), linkUp s a.link = true ∧ a.fseq = s.links[a.link].last + 1 ∧ a.poisoned = [] ∧ m.origin
        ≠ ownId s ∧ h.toNat ≤ 1 ∧ s.capture.seen = [] ∧ (∀ r : Fin 64, s.u (Obj.REGION.BELL_RX r) ≠ m.group.toNat) ∧ s.u Obj.CAPTURE.BELL_IN + 1 < 2 ^
        32) ∧
    (∃ (s : State) (a : Arrival) (h : BitVec 8) (m : BellMsg), linkUp s a.link = true ∧ a.fseq = s.links[a.link].last + 1 ∧ a.poisoned = [] ∧ m.origin
        ≠ ownId s ∧ h.toNat ≤ 1 ∧ s.capture.seen = [] ∧ (∀ r : Fin 64, s.u (Obj.REGION.BELL_RX r) ≠ m.group.toNat) ∧ s.u Obj.CAPTURE.BELL_IN + 1 < 2 ^
        32 ∧ s.now < m.epoch.toNat ∧ (m.armMode = 1 ∨ m.armMode = 2)) ∧
    (∃ (s : State) (a : Arrival) (h : BitVec 8) (m : BellMsg), linkUp s a.link = true ∧ a.fseq = s.links[a.link].last + 1 ∧ a.poisoned = [] ∧ m.origin
        ≠ ownId s ∧ h.toNat ≤ 1 ∧ s.capture.seen = [] ∧ (∀ r : Fin 64, s.u (Obj.REGION.BELL_RX r) ≠ m.group.toNat) ∧ s.u Obj.CAPTURE.BELL_IN + 1 < 2 ^
        32 ∧ s.now < m.epoch.toNat) := by
  and_intros
  · refine ⟨(start.put (Obj.REGION.RSTATE (1 : Fin 64)) (0)), (1 : Fin 64), ?_⟩
    decide +kernel
  · refine ⟨(start.put (Obj.REGION.RSTATE (1 : Fin 64)) (1)), (1 : Fin 64), ?_⟩
    decide +kernel
  · refine ⟨(start.put (Obj.REGION.RSTATE (1 : Fin 64)) (4)), (1 : Fin 64), ?_⟩
    decide +kernel
  · refine
      ⟨(({ start with capture := { start.capture with regions := (start.capture.regions.set (1 : Fin 64) { start.capture.regions[(1 : Fin 64)] with lastLeft := none }) } }
      : State).put (Obj.REGION.RSTATE (1 : Fin 64)) (2)), (1 : Fin 64),
      ({ x := 0, raw := 0, source := (1 : Fin 4), pre := 0, post := 0, gone := false } : Trigger), ?_⟩
    decide +kernel
  · refine ⟨((start.put (Obj.REGION.RSTATE (1 : Fin 64)) 2).put (Obj.REGION.BELL_TX (1 : Fin 64)) 0xFF) |> fun (s : State) =>
      { s with capture := { s.capture with regions := s.capture.regions.set (1 : Fin 64) { s.capture.regions[(1 : Fin 64)] with lastLeft := none, waiting := [], ring := ([{ seq := 1, stamp := 50 }] : List AwnEntry) ++ ({ seq := 2, stamp := 150 } : AwnEntry) :: ([{ seq := 3, stamp := 250 }] : List AwnEntry) } } },
      1, { x := 100, raw := 100, source := 1, pre := 1, post := 1 }, [{ seq := 1, stamp := 50 }], [{ seq := 3, stamp := 250 }],
      { seq := 2, stamp := 150 }, ?_⟩
    decide +kernel
  · refine ⟨({ pol := 0, a := 0, b := 0, ta := 0, tb := 0, qmin := 0, type := 1 } : Cond), ?_⟩
    decide +kernel
  · refine ⟨({ pol := 0, a := 0, b := 0, ta := 0, tb := 0, qmin := 0, type := 5 } : Cond), ?_⟩
    decide +kernel
  · refine ⟨start, (1 : Fin 64), ?_⟩
    decide +kernel
  · refine ⟨(start.put (Obj.REGION.PORT (1 : Fin 64)) 2) |> fun (s : State) =>
      { s with pipes := s.pipes.set 2 { s.pipes[2] with ring := [({ closed := true, kind := start.u (Obj.REGION.SOURCE (1 : Fin 64)) + 1, shotSeq := 2 } : Delivery)] }, capture := { s.capture with regions := s.capture.regions.set (1 : Fin 64) { s.capture.regions[(1 : Fin 64)] with ring := [({ seq := 2, stamp := 150 } : AwnEntry)] } } },
      1, { seq := 2, stamp := 150 }, { closed := true, kind := start.u (Obj.REGION.SOURCE (1 : Fin 64)) + 1, shotSeq := 2 }, ?_⟩
    decide +kernel
  · refine ⟨{ start with array := { start.array with trig := ((3 : StallId), ([64] : List Byte)) :: ([] : List (StallId × List Byte)) } }, (3 : StallId),
      [64], [], ?_⟩
    decide +kernel
  · refine ⟨(({ start with can := { start.can with busOff := false } } : State).put Obj.CAN.CAN_EN 1), ?_⟩
    decide +kernel
  · refine ⟨(start.put Obj.CAN.CAN_EN (0)), ?_⟩
    decide +kernel
  · refine
      ⟨{ start with capture := { start.capture with regions := (start.capture.regions.set (1 : Fin 64) { start.capture.regions[(1 : Fin 64)] with record := some ({ first := { x := 100, raw := 100, source := 1, pre := 1, post := 1 }, condMask := 1, sources := 1, wantPre := 1, wantPost := 5, pre := [], post := [], boundary := { seq := 2, stamp := 150 }, freeze := 1 } : RecordPart) }) } },
      (1 : Fin 64),
      { first := { x := 100, raw := 100, source := 1, pre := 1, post := 1 }, condMask := 1, sources := 1, wantPre := 1, wantPost := 5, pre := [], post := [], boundary := { seq := 2, stamp := 150 }, freeze := 1 },
      ?_⟩
    decide +kernel
  · refine ⟨(start.put (Obj.REGION.RSTATE (1 : Fin 64)) (4)), (1 : Fin 64), ?_⟩
    decide +kernel
  · refine ⟨{ start with capture := { start.capture with arms := [((0 : Nat), (0 : Nat), (0 : Nat))] } }, 0, 0, 0, ?_⟩
    decide +kernel
  · refine ⟨{ start with capture := { start.capture with arms := [((start.now + 100 : Nat), (0 : Nat), (0 : Nat))] } }, start.now + 100, 0, 0, ?_⟩
    decide +kernel
  · refine ⟨sampling, 1, 2, { seq := 2, stamp := 150 }, { closed := true, kind := start.u (Obj.REGION.SOURCE (1 : Fin 64)) + 1, shotSeq := 2 }, ?_⟩
    decide +kernel
  · exact ⟨asking 6 0, _, 3, [1, 1], [], 1, 1, by decide +kernel, by decide +kernel, by decide +kernel, rfl, by decide +kernel⟩
  · exact ⟨asking 7 0, _, 3, [1, 1], [], 1, 1, by decide +kernel, by decide +kernel, by decide +kernel, rfl, by decide +kernel⟩
  · exact ⟨asking 7 1, _, 3, [1, 1], [], 1, 1, by decide +kernel, by decide +kernel, by decide +kernel, rfl, by decide +kernel⟩
  · refine
        ⟨{ start with capture := { start.capture with regions := (start.capture.regions.set (1 : Fin 64) { start.capture.regions[(1 : Fin 64)] with record := some ({ first := ({ x := 0, raw := 0, source := (1 : Fin 4), pre := 0, post := 0 } : Trigger), condMask := (1 : BitVec 8), sources := (1 : BitVec 4), wantPre := 0, wantPost := 0, pre := ([] : List AwnEntry), post := ([] : List AwnEntry), boundary := ({ seq := (1 : BitVec 32), stamp := (0 : Stamp) } : AwnEntry), freeze := 0, preShort := false } : RecordPart) }) } },
        1,
        ({ first := ({ x := 0, raw := 0, source := (1 : Fin 4), pre := 0, post := 0 } : Trigger), condMask := (1 : BitVec 8), sources := (1 : BitVec 4), wantPre := 0, wantPost := 0, pre := ([] : List AwnEntry), post := ([] : List AwnEntry), boundary := ({ seq := (1 : BitVec 32), stamp := (0 : Stamp) } : AwnEntry), freeze := 0, preShort := false }
        : RecordPart), ?_⟩
    decide +kernel
  · refine ⟨linkOne, nextOn, 1, { bellMsg with origin := ownId linkOne }, ?_⟩
    decide +kernel
  · exact ⟨linkOne, _, _, nextOn, 1, bellMsg, by decide +kernel, by decide +kernel, by decide +kernel, by decide +kernel, by decide +kernel, rfl, rfl⟩
  · exact ⟨linkOne, _, _, nextOn, 1, bellMsg, by decide +kernel, by decide +kernel, by decide +kernel, by decide +kernel, by decide +kernel, rfl, rfl,
        by decide +kernel⟩
  · refine ⟨linkOne, nextOn, 1, bellMsg, ?_⟩
    decide +kernel
  · refine ⟨linkOne, nextOn, 1, bellMsg, ?_⟩
    decide +kernel
  · refine ⟨linkOne, nextOn, 1, { bellMsg with armMode := 0 }, ?_⟩
    decide +kernel

theorem witness_ReferencesLockAndCoast :
    (∃ (s : State) (r : Fin 3), s.clk.refs[r].present = true) ∧
    (∃ (s : State) (r : Fin 3), s.clk.refs[r].present = false) ∧
    (∃ (s : State) (r : Fin 3), inUse s r = false) ∧
    (∃ (s : State) (r : Fin 3), inUse s r = true ∧ s.u Obj.CLOCKS.PLL_STATE = 2) ∧
    (∃ (s : State) (r : Fin 3) (off : Int), s.clk.refs[r].present = true ∧ secondRef s r = none ∧ off.natAbs ≤ 250000000) ∧
    (∃ (s : State) (r : Fin 3) (off : Int), s.clk.refs[r].present = true ∧ secondRef s r = none ∧ 250000000 < off.natAbs) ∧
    (∃ (s : State) (r : Fin 3) (k : Fin 3) (off : Int), s.clk.refs[r].present = true ∧ secondRef s r = some k ∧ inUse s r = false ∧ off.natAbs ≤ s.u
        Obj.CLOCKS.QUAL_PPM * 1000) ∧
    (∃ (s : State) (r : Fin 3) (k : Fin 3) (off : Int), s.clk.refs[r].present = true ∧ secondRef s r = some k ∧ inUse s r = true ∧ off.natAbs ≤ s.u
        Obj.CLOCKS.QUAL_PPM * 1000) ∧
    (∃ (s : State) (r : Fin 3) (k : Fin 3) (off : Int), s.clk.refs[r].present = true ∧ secondRef s r = some k ∧ inUse s r = false ∧ s.u
        Obj.CLOCKS.QUAL_PPM * 1000 < off.natAbs ∧ (∀ j : Fin 3, j ≠ r → j ≠ k → s.clk.refs[j].present = false)) ∧
    (∃ (s : State) (r : Fin 3), bestRef s = some r ∧ s.u Obj.CLOCKS.PLL_STATE = 0) ∧
    (∃ (s : State) (r : Fin 3), bestRef s = some r ∧ s.u Obj.CLOCKS.PLL_STATE = 1) ∧
    (∃ (s : State) (r : Fin 3), bestRef s = some r ∧ s.u Obj.CLOCKS.PLL_STATE = 2) ∧
    (∃ (s : State), s.u Obj.CLOCKS.REF_KIND = 1 ∧ inUse s 1 = true) ∧
    (∃ (s : State), (¬(s.u Obj.CLOCKS.REF_KIND = 1 ∧ inUse s 1 = true))) ∧
    (∃ (s : State), s.u Obj.CLOCKS.COASTS + 1 < 2 ^ 32) ∧
    (∃ (s : State), s.clk.stopped = false ∧ s.coasting = false ∧ s.u Obj.CLOCKS.PLL_STATE = 1 ∧ s.u Obj.CLOCKS.SWITCHES + 4 < 2 ^ 32) ∧
    (∃ (s : State), s.clk.stopped = false ∧ s.coasting = true ∧ s.clk.acquiring ≠ 0) ∧
    (∃ (s : State), s.clk.stopped = true) ∧
    (∃ (s : State), s.coasting = true ∧ s.u Obj.CLOCKS.PLL_STATE = 3) ∧
    (∃ (s : State), s.coasting = false) ∧
    (∃ (s : State), s.coasting = true ∧ s.clk.atFloor = true ∧ (∀ a ∈ s.ledger.applying, a.index ≠ 0x7100 ∧ a.index ≠ 0x7200 ∧ a.index ≠ 0x7300)) ∧
    (∃ (s : State), s.coasting = true ∧ s.clk.atFloor = false) ∧
    (∃ (s : State) (d : Fin 16), (d = 2 ∨ d = 5 ∨ d = 6 ∨ d = 7) ∧ s.u Obj.CLOCKS.SWITCHES + 1 < 2 ^ 32 ∧ s.u Obj.CLOCKS.UNCLEAN + 1 < 2 ^ 32) ∧
    (∃ (d : Fin 16), (¬(d = 2 ∨ d = 5 ∨ d = 6 ∨ d = 7))) ∧
    (∃ (s : State), s.u Obj.CLOCKS.UNCLEAN + 4 < 2 ^ 32) ∧
    (∃ (s : State) (r : Fin 3) (off : Int), (inUse s r = false ∨ s.u Obj.CLOCKS.PLL_STATE ≠ 2)) ∧
    (∃ (s : State), s.u Obj.CLOCKS.PLL_STATE = 3 ∧ s.clk.mayAcquire = true ∧ (∀ a : Fin 3, refOfCode s.clk.acquiring = some a → refQualified s a =
        false)) ∧
    (∃ (s : State), s.clk.ovenLow = false) ∧
    (∃ (s : State), s.clk.ovenLow = true) ∧
    (∃ (s : State), (s.clk.switchDue = false ∨ s.anyWindow = true)) ∧
    (∃ (s : State), s.clk.switchDue = true ∧ s.anyWindow = false) ∧
    (∃ (s : State), ∃ (a : Fin 3), s.u Obj.CLOCKS.PLL_STATE = 3 ∧ s.clk.mayAcquire = true ∧ refOfCode s.clk.acquiring = some a ∧ refQualified s a =
        true) ∧
    (∃ (s : State), s.coasting = true ∧ s.clk.atFloor = true ∧ (∀ a ∈ s.ledger.applying, a.index ≠ 0x7000 ∧ a.index ≠ 0x7100 ∧ a.index ≠ 0x7200 ∧
        a.index ≠ 0x7300)) ∧
    (∃ (s : State) (r : Fin 3), s.coasting = false ∧ s.u Obj.CLOCKS.PLL_STATE = 2 ∧ s.u Obj.CLOCKS.REF_IN_USE = r.val + 1) ∧
    (∃ (s : State), (s.coasting = false ∨ s.clk.atFloor = false) ∧ s.u Obj.CLOCKS.PLL_STATE ≠ 2) ∧
    (∃ (s : State), s.coasting = true ∧ s.clk.atFloor = true ∧ s.u Obj.CLOCKS.PLL_STATE = 3) := by
  and_intros
  · refine ⟨{ start with clk := { start.clk with refs := (start.clk.refs.set (1 : Fin 3) { start.clk.refs[(1 : Fin 3)] with present := true }) } }, (1 : Fin 3), ?_⟩
    decide +kernel
  · refine ⟨{ start with clk := { start.clk with refs := (start.clk.refs.set (1 : Fin 3) { start.clk.refs[(1 : Fin 3)] with present := false }) } }, (1 : Fin 3),
      ?_⟩
    decide +kernel
  · refine ⟨start, (1 : Fin 3), ?_⟩
    decide +kernel
  · refine ⟨(start.put Obj.CLOCKS.PLL_STATE 2).put Obj.CLOCKS.REF_IN_USE 2, 1, ?_⟩
    decide +kernel
  · refine ⟨{ start with clk := { start.clk with refs := (start.clk.refs.set (1 : Fin 3) { start.clk.refs[(1 : Fin 3)] with present := true }) } }, (1 : Fin 3), 0,
      ?_⟩
    decide +kernel
  · refine ⟨{ start with clk := { start.clk with refs := (start.clk.refs.set (1 : Fin 3) { start.clk.refs[(1 : Fin 3)] with present := true }) } }, 1, 250000001,
      ?_⟩
    decide +kernel
  · refine ⟨(start.put Obj.CLOCKS.REF_IN_USE 1 |>.put Obj.CLOCKS.QUAL_PPM 5) |> fun (s : State) =>
      { s with clk := { s.clk with refs := (Vector.replicate 3 {} |>.set 1 { present := true }).set 0 { present := true } } }, 1, 0, 4000, ?_⟩
    decide +kernel
  · refine ⟨(start.put Obj.CLOCKS.REF_IN_USE 2 |>.put Obj.CLOCKS.QUAL_PPM 5) |> fun (s : State) =>
      { s with clk := { s.clk with refs := (Vector.replicate 3 {} |>.set 1 { present := true }).set 0 { present := true } } }, 1, 0, 4000, ?_⟩
    decide +kernel
  · refine ⟨(start.put Obj.CLOCKS.REF_IN_USE 1 |>.put Obj.CLOCKS.QUAL_PPM 5) |> fun (s : State) =>
      { s with clk := { s.clk with refs := (Vector.replicate 3 {} |>.set 1 { present := true }).set 0 { present := true } } }, 1, 0, 5001, ?_⟩
    decide +kernel
  · refine ⟨(start.put Obj.CLOCKS.PLL_STATE 0 |>.put Obj.CLOCKS.REF_ORDER 1) |> fun (s : State) =>
      { s with clk := { s.clk with refs := Vector.replicate 3 {} |>.set 0 { present := true, passed := true } } }, 0, ?_⟩
    decide +kernel
  · refine ⟨(start.put Obj.CLOCKS.PLL_STATE 1 |>.put Obj.CLOCKS.REF_ORDER 1) |> fun (s : State) =>
      { s with clk := { s.clk with refs := Vector.replicate 3 {} |>.set 0 { present := true, passed := true } } }, 0, ?_⟩
    decide +kernel
  · refine ⟨(start.put Obj.CLOCKS.PLL_STATE 2 |>.put Obj.CLOCKS.REF_ORDER 1) |> fun (s : State) =>
      { s with clk := { s.clk with refs := Vector.replicate 3 {} |>.set 0 { present := true, passed := true } } }, 0, ?_⟩
    decide +kernel
  · refine ⟨start.put Obj.CLOCKS.REF_KIND 1 |>.put Obj.CLOCKS.REF_IN_USE 2, ?_⟩
    decide +kernel
  · refine ⟨start, ?_⟩
    decide +kernel
  · refine ⟨start, ?_⟩
    decide +kernel
  · refine ⟨(({ start with clk := { start.clk with stopped := false } } : State).put Obj.CLOCKS.PLL_STATE (1)), ?_⟩
    decide +kernel
  · refine ⟨(({ start with clk := { start.clk with stopped := false, acquiring := 1 } } : State).setBit Obj.CLOCKS.FLAGS Bit.CLOCKS.FLAGS.CLK_COAST), ?_⟩
    decide +kernel
  · refine ⟨{ start with clk := { start.clk with stopped := true } }, ?_⟩
    decide +kernel
  · refine ⟨((start.setBit Obj.CLOCKS.FLAGS Bit.CLOCKS.FLAGS.CLK_COAST).put Obj.CLOCKS.PLL_STATE (3)), ?_⟩
    decide +kernel
  · refine ⟨start, ?_⟩
    decide +kernel
  · refine ⟨(({ start with clk := { start.clk with atFloor := true } } : State).setBit Obj.CLOCKS.FLAGS Bit.CLOCKS.FLAGS.CLK_COAST), ?_⟩
    decide +kernel
  · refine ⟨(({ start with clk := { start.clk with atFloor := false } } : State).setBit Obj.CLOCKS.FLAGS Bit.CLOCKS.FLAGS.CLK_COAST), ?_⟩
    decide +kernel
  · refine ⟨start, 2, ?_⟩
    decide +kernel
  · refine ⟨(1 : Fin 16), ?_⟩
    decide +kernel
  · refine ⟨start, ?_⟩
    decide +kernel
  · refine ⟨start, 1, 250000001, ?_⟩
    decide +kernel
  · refine ⟨((start.put Obj.CLOCKS.PLL_STATE 3) |> fun (s : State) => { s with clk := { s.clk with mayAcquire := true, acquiring := 1 } } : State), ?_⟩
    decide +kernel
  · refine ⟨{ start with clk := { start.clk with ovenLow := false } }, ?_⟩
    decide +kernel
  · refine ⟨{ start with clk := { start.clk with ovenLow := true } }, ?_⟩
    decide +kernel
  · refine ⟨start, ?_⟩
    decide +kernel
  · refine ⟨{ start with clk := { start.clk with switchDue := true } }, ?_⟩
    decide +kernel
  · refine
        ⟨{ start.put Obj.CLOCKS.PLL_STATE 3 with clk := { start.clk with mayAcquire := true, acquiring := 1, refs := start.clk.refs.set (0 : Fin 3) { start.clk.refs[(0 : Fin 3)] with passed := true } } },
        0, ?_⟩
    decide +kernel
  · refine ⟨coastAt 1, ?_⟩
    decide +kernel
  · refine ⟨(start.put Obj.CLOCKS.PLL_STATE 2).put Obj.CLOCKS.REF_IN_USE 2, 1, ?_⟩
    decide +kernel
  · refine ⟨start.put Obj.CLOCKS.PLL_STATE 3, ?_⟩
    decide +kernel
  · refine ⟨coastAt 3, ?_⟩
    decide +kernel

theorem witness_AgeingOfTheCrystal :
    (∃ (s : State), s.u Obj.CLOCKS.AGE_LEARN ≠ 1) ∧
    (∃ (s : State), s.u Obj.CLOCKS.AGE_LEARN = 1 ∧ s.u Obj.CLOCKS.REF_IN_USE = 1 ∧ (s.u Obj.EPOCH.SOURCE = 1 ∨ s.u Obj.EPOCH.SOURCE = 2 ∨ s.u
      Obj.EPOCH.SOURCE = 3) ∧ s.clk.adjStart < s.now) ∧
    (∃ (s : State), (s.i Obj.CLOCKS.XTAL_TRIM - s.clk.trimDaily).natAbs ≤ 500000) ∧
    (∃ (s : State), 500000 < (s.i Obj.CLOCKS.XTAL_TRIM - s.clk.trimDaily).natAbs) := by
  refine ⟨?_, ?_, ?_, ?_⟩
  · refine ⟨(start.put Obj.CLOCKS.AGE_LEARN 2), ?_⟩
    decide +kernel
  · refine ⟨(start.put Obj.CLOCKS.AGE_LEARN 1 |>.put Obj.CLOCKS.REF_IN_USE 1 |>.put Obj.EPOCH.SOURCE 1) |> fun (s : State) =>
      { s with ep := { s.ep with running := true, count := 50000 }, clk := { s.clk with adjStart := 5 } }, ?_⟩
    decide +kernel
  · refine ⟨start, ?_⟩
    decide +kernel
  · refine ⟨(start.puti Obj.CLOCKS.XTAL_TRIM 600001) |> fun (s : State) => { s with clk := { s.clk with trimDaily := 1 } }, ?_⟩
    decide +kernel

theorem witness_Stamps :
    (∃ (s : State) (ch : Fin 21) (st : Stamp), (ch = 10 ∨ ch = 11 ∨ ch = 12)) ∧
    (∃ (s : State) (k : Fin 4) (st : Stamp), linkUp s k = true) ∧
    (∃ (s : State) (k : Fin 4) (st : Stamp), linkUp s k = false) ∧
    (∃ (s : State) (ch : Fin 21) (stamp : Stamp) (l : Int), s.tdc.lastEdge[ch] = some l ∧ l ≤ stamp ∧ (stamp : Int) < l + 2048 ∧ ¬(10 ≤ ch.val ∧
        ch.val < 13)) ∧
    (∃ (s : State) (ch : Fin 21) (stamp : Stamp) (l : Int), s.tdc.lastEdge[ch] = some l ∧ l ≤ stamp ∧ (stamp : Int) < l + 2048 ∧ 10 ≤ ch.val ∧ ch.val
        < 13 ∧ s.u (Obj.CHANNEL.DEAD_MISS ch) + 1 < 2 ^ 32) ∧
    (∃ (s : State) (ch : Fin 21) (stamp st : Stamp), ¬(10 ≤ ch.val ∧ ch.val < 13) ∧ (∀ l : Int, s.tdc.lastEdge[ch] = some l → (stamp : Int) < l ∨ l +
        2048 ≤ stamp) ∧ st = (if s.u Obj.CLOCKS.PLL_STATE = 2 then stamp else stamp / 256 * 256) ∧ s.u (Obj.CHANNEL.EVENTS ch) + 1 < 2 ^ 32 ∧ s.u
        Obj.TDC.COARSE_STAMPS + 1 < 2 ^ 32) ∧
    (∃ (s : State) (ch : Fin 21) (stamp : Stamp), 10 ≤ ch.val ∧ ch.val < 13 ∧ (∀ l : Int, s.tdc.lastEdge[ch] = some l → (stamp : Int) < l ∨ l + 2048 ≤
        stamp)) ∧
    (∃ (s : State) (ch : Fin 21) (level : Bool) (e : RawEdge), rawOf s ch level = some e ∧ s.u (Obj.CHANNEL.EVENTS ch) + 1 < 2 ^ 32) ∧
    (∃ (s : State) (ch : Fin 21) (level : Bool) (e : RawEdge), ∃ (l : Bool), rawOf s ch level = some e ∧ s.u (Obj.CHANNEL.EVENTS ch) + 1 < 2 ^ 32) ∧
    (∃ (s : State) (ch : Fin 21) (level : Bool), rawOf s ch level = none) := by
  and_intros
  · refine ⟨start, 10, 0, ?_⟩
    decide +kernel
  · refine ⟨start.put (Obj.AGGON.LSTATE 1) 5, 1, 0, ?_⟩
    decide +kernel
  · refine ⟨start, 1, 0, ?_⟩
    decide +kernel
  · refine ⟨edgeWas 1 5000, 1, 5000, 5000, ?_⟩
    decide +kernel
  · refine ⟨edgeWas 10 5000, 10, 5000, 5000, ?_⟩
    decide +kernel
  · exact ⟨start, 1, 0, _, by decide +kernel, by decide +kernel, rfl, by decide +kernel⟩
  · refine ⟨start, 10, 0, ?_⟩
    decide +kernel
  · refine ⟨rawWaits 10, 10, true, ⟨10, true, 100, 0, false⟩, ?_⟩
    decide +kernel
  · refine ⟨rawWaits 10, 10, true, ⟨10, true, 100, 0, false⟩, true, ?_⟩
    decide +kernel
  · refine ⟨start, 10, true, ?_⟩
    decide +kernel

theorem witness_PairingAndIntervals :
    (∃ (s : State) (k : Fin 8), s.units[k].events = []) ∧
    (∃ (s : State) (k : Fin 8), (∀ e ∈ s.units[k].held, s.now * 256 ≤ e.stamp + s.u (Obj.MEASURE.PAIR_WIN k) * 256) ∧ s.units[k].start = none) ∧
    (∃ (s : State) (k : Fin 8) (a : UnitEv) (b : UnitEv) (x : Int), x = (b.stamp : Int) - a.stamp - (if s.u (Obj.MEASURE.SCALE k) = 0 then (b.corr -
        a.corr) * 256 else 0) ∧ s.units[k].count + 1 < s.u (Obj.MEASURE.N k) ∧ s.units[k].count + 1 < 2 ^ 32 ∧ s.u (Obj.MEASURE.PAIRED k) + 1 < 2 ^ 32
        ∧ -(2 ^ 63) ≤ x ∧ x < 2 ^ 63) ∧
    (∃ (s : State) (k : Fin 8), s.u (Obj.MEASURE.N k) ≤ s.units[k].count ∧ s.u (Obj.MEASURE.BLOCKS k) + 1 < 2 ^ 32 ∧ -(2 ^ 63) ≤ roundEven
        ((s.units[k].sum : Rat) * 256 / s.units[k].count) ∧ roundEven ((s.units[k].sum : Rat) * 256 / s.units[k].count) < 2 ^ 63) ∧
    (∃ (s : State) (k : Fin 8) (e : UnitEv) (l : List UnitEv), s.units[k].events = e :: l ∧ s.now * 256 < e.stamp + holdFine) ∧
    (∃ (s : State) (k : Fin 8) (e : UnitEv) (l : List UnitEv), s.units[k].events = e :: l ∧ e.stamp + holdFine ≤ s.now * 256 ∧ e.isStart = true ∧
        e.isStop = true ∧ s.units[k].start = none) ∧
    (∃ (s : State) (k : Fin 8) (e a : UnitEv) (c : Nat) (l : List UnitEv), s.units[k].events = e :: l ∧ e.stamp + holdFine ≤ s.now * 256 ∧ e.isStart =
        true ∧ e.isStop = true ∧ s.units[k].start = some (a, c) ∧ e.stamp ≤ a.stamp + s.u (Obj.MEASURE.PAIR_WIN k) * 256) ∧
    (∃ (s : State) (k : Fin 8) (e : UnitEv) (l : List UnitEv), s.units[k].events = e :: l ∧ e.stamp + holdFine ≤ s.now * 256 ∧ e.isStart = true ∧
        e.isStop = false ∧ s.u (Obj.MEASURE.MODE k) = 1 ∧ s.units[k].start = none) ∧
    (∃ (s : State) (k : Fin 8) (e a : UnitEv) (c : Nat) (l : List UnitEv), s.units[k].events = e :: l ∧ e.stamp + holdFine ≤ s.now * 256 ∧ e.isStart =
        false ∧ s.u (Obj.MEASURE.MODE k) = 1 ∧ s.units[k].start = some (a, c) ∧ a.stamp ≤ e.stamp ∧ e.stamp ≤ a.stamp + s.u (Obj.MEASURE.PAIR_WIN k) *
        256) ∧
    (∃ (s : State) (k : Fin 8) (e : UnitEv) (l : List UnitEv), s.units[k].events = e :: l ∧ e.stamp + holdFine ≤ s.now * 256 ∧ e.isStart = false ∧ s.u
        (Obj.MEASURE.MODE k) = 1 ∧ s.units[k].start = none) ∧
    (∃ (s : State) (k : Fin 8) (e a : UnitEv) (c : Nat) (l : List UnitEv), s.units[k].events = e :: l ∧ e.stamp + holdFine ≤ s.now * 256 ∧ e.isStart =
        false ∧ s.u (Obj.MEASURE.MODE k) = 0 ∧ s.units[k].start = some (a, c) ∧ e.stamp ≤ a.stamp + s.u (Obj.MEASURE.PAIR_WIN k) * 256 ∧ c < s.u
        (Obj.MEASURE.STOPS_MAX k)) ∧
    (∃ (s : State) (k : Fin 8) (e a : UnitEv) (c : Nat) (l : List UnitEv), s.units[k].events = e :: l ∧ e.stamp + holdFine ≤ s.now * 256 ∧ e.isStart =
        false ∧ s.u (Obj.MEASURE.MODE k) = 0 ∧ s.units[k].start = some (a, c) ∧ e.stamp ≤ a.stamp + s.u (Obj.MEASURE.PAIR_WIN k) * 256 ∧ s.u
        (Obj.MEASURE.STOPS_MAX k) ≤ c) ∧
    (∃ (s : State) (k : Fin 8) (e : UnitEv) (l : List UnitEv), s.units[k].events = e :: l ∧ e.stamp + holdFine ≤ s.now * 256 ∧ e.isStart = true ∧
        e.isStop = false ∧ s.u (Obj.MEASURE.MODE k) = 0 ∧ s.units[k].held = []) ∧
    (∃ (s : State) (k : Fin 8) (e : UnitEv) (l : List UnitEv), s.units[k].events = e :: l ∧ e.stamp + holdFine ≤ s.now * 256 ∧ e.isStart = false ∧ s.u
        (Obj.MEASURE.MODE k) = 0 ∧ s.units[k].start = none) ∧
    (∃ (s : State) (k : Fin 8) (a : UnitEv) (c : Nat), s.units[k].held = [] ∧ s.units[k].start = some (a, c) ∧ a.isStop = false ∧ a.stamp + s.u
        (Obj.MEASURE.PAIR_WIN k) * 256 < s.now * 256 ∧ s.u (Obj.MEASURE.MODE k) = 1 ∧ (∀ v ∈ s.units[k].events, a.stamp + s.u (Obj.MEASURE.PAIR_WIN k)
        * 256 < v.stamp)) ∧
    (∃ (s : State) (k : Fin 8) (a : UnitEv) (c : Nat), s.units[k].held = [] ∧ s.units[k].start = some (a, c) ∧ a.isStop = false ∧ a.stamp + s.u
        (Obj.MEASURE.PAIR_WIN k) * 256 < s.now * 256 ∧ s.u (Obj.MEASURE.MODE k) = 1 ∧ (∃ v ∈ s.units[k].events, v.stamp ≤ a.stamp + s.u
        (Obj.MEASURE.PAIR_WIN k) * 256)) ∧
    (∃ (s : State) (k : Fin 8) (h : UnitEv), s.units[k].held = [h] ∧ s.units[k].start = none ∧ s.units[k].events = [] ∧ h.stamp + s.u
        (Obj.MEASURE.PAIR_WIN k) * 256 < s.now * 256) ∧
    (∃ (s : State) (k : Fin 8) (a : UnitEv) (c : Nat), s.units[k].held = [] ∧ s.units[k].start = some (a, c) ∧ a.isStart = true ∧ a.isStop = true ∧
        a.stamp + s.u (Obj.MEASURE.PAIR_WIN k) * 256 < s.now * 256 ∧ (∀ v ∈ s.units[k].events, a.stamp + s.u (Obj.MEASURE.PAIR_WIN k) * 256 <
        v.stamp)) := by
  and_intros
  · refine ⟨{ start with units := (start.units.set (1 : Fin 8) { start.units[(1 : Fin 8)] with events := [] }) }, (1 : Fin 8), ?_⟩
    decide +kernel
  · refine ⟨{ start with units := (start.units.set (1 : Fin 8) { start.units[(1 : Fin 8)] with start := none }) }, (1 : Fin 8), ?_⟩
    decide +kernel
  · refine ⟨start.put (Obj.MEASURE.N (1 : Fin 8)) 9 |>.put (Obj.MEASURE.SCALE (1 : Fin 8)) 0, 1,
      { isStart := true, isStop := false, stamp := 90, corr := 3, coarse := false },
      { isStart := false, isStop := true, stamp := 500, corr := 4, coarse := true },
      (({ isStart := false, isStop := true, stamp := 500, corr := 4, coarse := true } : UnitEv).stamp : Int) -
      ({ isStart := true, isStop := false, stamp := 90, corr := 3, coarse := false } : UnitEv).stamp - (if (start.put (Obj.MEASURE.N (1 : Fin 8)) 9
      |>.put (Obj.MEASURE.SCALE (1 : Fin 8)) 0 : State).u (Obj.MEASURE.SCALE (1 : Fin 8)) = 0 then
      (({ isStart := false, isStop := true, stamp := 500, corr := 4, coarse := true } : UnitEv).corr -
      ({ isStart := true, isStop := false, stamp := 90, corr := 3, coarse := false } : UnitEv).corr) * 256 else 0), ?_⟩
    decide +kernel
  · refine ⟨(start.put (Obj.MEASURE.N (1 : Fin 8)) 2) |> fun (s : State) =>
      { s with units := s.units.set (1 : Fin 8) { s.units[(1 : Fin 8)] with count := 2, sum := 500 } }, (1 : Fin 8), ?_⟩
    decide +kernel
  · refine ⟨pairing (fun u => { u with events := [event true false 12800000] }) [], 1, event true false 12800000, [], ?_⟩
    decide +kernel
  · refine ⟨pairing (fun u => { u with events := [event true true 100] }) [], 1, event true true 100, [], ?_⟩
    decide +kernel
  · refine ⟨pairing (fun u => { u with events := [event true true 100], start := some (event true false 90, 0) }) [(Obj.MEASURE.PAIR_WIN 1, 10)], 1,
        event true true 100, event true false 90, 0, [], ?_⟩
    decide +kernel
  · refine ⟨pairing (fun u => { u with events := [event true false 100] }) [(Obj.MEASURE.MODE 1, 1)], 1, event true false 100, [], ?_⟩
    decide +kernel
  · refine ⟨pairing (fun u => { u with events := [event false true 100], start := some (event true false 90, 0) }) [(Obj.MEASURE.MODE 1, 1),
        (Obj.MEASURE.PAIR_WIN 1, 10)], 1, event false true 100, event true false 90, 0, [], ?_⟩
    decide +kernel
  · refine ⟨pairing (fun u => { u with events := [event false true 100] }) [(Obj.MEASURE.MODE 1, 1)], 1, event false true 100, [], ?_⟩
    decide +kernel
  · refine ⟨pairing (fun u => { u with events := [event false true 100], start := some (event true false 90, 0) }) [(Obj.MEASURE.MODE 1, 0),
        (Obj.MEASURE.PAIR_WIN 1, 10), (Obj.MEASURE.STOPS_MAX 1, 3)], 1, event false true 100, event true false 90, 0, [], ?_⟩
    decide +kernel
  · refine ⟨pairing (fun u => { u with events := [event false true 100], start := some (event true false 90, 3) }) [(Obj.MEASURE.MODE 1, 0),
        (Obj.MEASURE.PAIR_WIN 1, 10), (Obj.MEASURE.STOPS_MAX 1, 3)], 1, event false true 100, event true false 90, 3, [], ?_⟩
    decide +kernel
  · refine ⟨pairing (fun u => { u with events := [event true false 100] }) [(Obj.MEASURE.MODE 1, 0)], 1, event true false 100, [], ?_⟩
    decide +kernel
  · refine ⟨pairing (fun u => { u with events := [event false true 100] }) [(Obj.MEASURE.MODE 1, 0)], 1, event false true 100, [], ?_⟩
    decide +kernel
  · refine ⟨pairing (fun u => { u with start := some (event true false 90, 0) }) [(Obj.MEASURE.MODE 1, 1), (Obj.MEASURE.PAIR_WIN 1, 10)], 1, event true
        false 90, 0, ?_⟩
    decide +kernel
  · refine ⟨pairing (fun u => { u with start := some (event true false 90, 0), events := [event false true 95] }) [(Obj.MEASURE.MODE 1, 1),
        (Obj.MEASURE.PAIR_WIN 1, 10)], 1, event true false 90, 0, ?_⟩
    decide +kernel
  · refine ⟨pairing (fun u => { u with held := [event false true 90] }) [(Obj.MEASURE.PAIR_WIN 1, 10)], 1, event false true 90, ?_⟩
    decide +kernel
  · refine ⟨pairing (fun m => { m with start := some (event true true 1000, 0) }) [(Obj.MEASURE.PAIR_WIN (1 : Fin 8), 10)], 1, event true true 1000, 0,
        ?_⟩
    decide +kernel

theorem witness_BadWordsAndLaneRepair :
    (∃ (a : Nat), a < 32 * 2 ^ 20) ∧
    (∃ (a : Nat), a < 0x38000) ∧
    (∃ (s : State) (a : Nat), a < s.u (Obj.DRAM_CHANNEL.CAPACITY 0) + s.u (Obj.DRAM_CHANNEL.CAPACITY 1)) ∧
    (∃ (s : State) (a : Nat), a < 0x38000 ∧ s.u Obj.MEMORY.POISON_SEEN + 1 < 2 ^ 32) ∧
    (∃ (s : State) (a : Nat) (syn : BitVec 9), syn ≠ 3 ∧ a < 0x38000 ∧ s.u Obj.MEMORY.UNCORR + 1 < 2 ^ 32) ∧
    (∃ (s : State) (c : Fin 2) (k : Nat), s.dram[c].repair = none ∧ freeSpare s c = some k) ∧
    (∃ (s : State) (c : Fin 2), s.dram[c].repair ≠ none) ∧
    (∃ (s : State) (c : Fin 2), s.dram[c].repair = none) ∧
    (∃ (s : State) (c : Fin 2) (counts : List Nat) (bad : Nat), bad ≤ 1024 ∧ (∀ n ∈ counts, n < s.u (Obj.DRAM_CHANNEL.LANE_CE_MAX c))) ∧
    (∃ (s : State) (c : Fin 2) (counts : List Nat) (bad : Nat), 1024 < bad ∧ (∀ n ∈ counts, n < s.u (Obj.DRAM_CHANNEL.LANE_CE_MAX c))) ∧
    (∃ (s : State) (c : Fin 2) (n : Nat) (lane : Nat), s.u (Obj.DRAM_CHANNEL.LANE_CE_MAX c) ≤ n ∧ repairRefusal s c lane = 0) ∧
    (∃ (s : State) (a : Nat) (e : BitVec 137), holderOf s a = none) ∧
    (∃ (s : State) (a : Nat) (h : Holder), holderOf s a = some h ∧ flipAt s.flips a = none ∧ h.bad = false) ∧
    (∃ (s : State) (a : Nat) (h : Holder), holderOf s a = some h ∧ flipAt s.flips a = none ∧ h.bad = true) ∧
    (∃ (s : State) (a : Nat) (h : Holder), ∃ (e : BitVec 137) (d : BitVec 128), holderOf s a = some h ∧ flipAt s.flips a = none ∧ e ≠ 0 ∧ decodeWord
        (storedWord h.word h.bad e) = .single d) ∧
    (∃ (s : State) (a : Nat) (h : Holder), ∃ (e : BitVec 137) (y : BitVec 9), holderOf s a = some h ∧ flipAt s.flips a = none ∧ e ≠ 0 ∧ decodeWord
        (storedWord h.word h.bad e) = .bad y) ∧
    (∃ (s : State) (a b : Nat) (d : BitVec 128), b / 16 ≠ a / 16) ∧
    (∃ (s : State) (t : StallId) (a : Nat) (y : BitVec 9), y ≠ 3 ∧ a < 0x38000 ∧ s.u Obj.MEMORY.UNCORR + 1 < 2 ^ 32) ∧
    (∃ (s : State) (c : Fin 2) (p : RepairPart), ∃ (l : Nat) (rest : List Nat), s.dram[c].repair = some p ∧ s.dram[c].waiting = l :: rest) ∧
    (∃ (s : State) (c : Fin 2), s.dram[c].passed = []) ∧
    (∃ (s : State) (c : Fin 2) (lane : Nat), (s.dram[c].failed = true ∨ s.dram[c].trained = false)) ∧
    (∃ (s : State) (c : Fin 2) (p : RepairPart), s.dram[c].repair = none ∧ s.dram[c].passed = [p] ∧ p.spare < 7 ∧ p.lane < 256 ∧ spareLane s c p.spare
        = 0xFF ∧ s.u (Obj.DRAM_CHANNEL.REPAIRS c) + 1 < 2 ^ 32 ∧ 0 < s.u (Obj.DRAM_CHANNEL.SPARES_FREE c) ∧ s.u (Obj.DRAM_CHANNEL.SPARES_FREE c) < 2 ^
        8 ∧ s.u (Obj.DRAM_CHANNEL.REPAIR_MAP c) < 2 ^ 64) ∧
    (∃ (s : State) (x : Fin 9), x ≠ 4 ∧ x ≠ 6 ∧ x ≠ 7) ∧
    (∃ (s : State) (c : Fin 2) (p : RepairPart), s.dram[c].repair = some p ∧ s.dram[c].waiting = []) := by
  and_intros
  · refine ⟨0, ?_⟩
    decide +kernel
  · refine ⟨0, ?_⟩
    decide +kernel
  · refine ⟨start.put (Obj.DRAM_CHANNEL.CAPACITY 0) 4096, 16, ?_⟩
    decide +kernel
  · refine ⟨start, 0, ?_⟩
    decide +kernel
  · refine ⟨start, 0, (1 : BitVec 9), ?_⟩
    decide +kernel
  · refine ⟨{ start with dram := (start.dram.set (1 : Fin 2) { start.dram[(1 : Fin 2)] with repair := none }) }, (1 : Fin 2), (freeSpare
      ({ start with dram := (start.dram.set (1 : Fin 2) { start.dram[(1 : Fin 2)] with repair := none }) } : State) (1 : Fin 2)).getD 0, ?_⟩
    decide +kernel
  · refine ⟨{ start with dram := start.dram.set (1 : Fin 2) { start.dram[(1 : Fin 2)] with repair := some { lane := 5, spare := 0 } } }, (1 :
      Fin 2), ?_⟩
    decide +kernel
  · refine ⟨{ start with dram := (start.dram.set (1 : Fin 2) { start.dram[(1 : Fin 2)] with repair := none }) }, (1 : Fin 2), ?_⟩
    decide +kernel
  · refine ⟨start.put (Obj.DRAM_CHANNEL.LANE_CE_MAX (1 : Fin 2)) 10, (1 : Fin 2), [1, 2], 5, ?_⟩
    decide +kernel
  · refine ⟨start.put (Obj.DRAM_CHANNEL.LANE_CE_MAX (1 : Fin 2)) 10, (1 : Fin 2), [1, 2], 1025, ?_⟩
    decide +kernel
  · refine ⟨(start.put (Obj.DRAM_CHANNEL.LANE_CE_MAX (1 : Fin 2)) 10 |>.put (Obj.DRAM_CHANNEL.REPAIR_MAP (1 : Fin 2)) 0xFFFFFFFFFFFFFF |>.put
      (Obj.DRAM_CHANNEL.SPARES_FREE (1 : Fin 2)) 7) |> fun (s : State) =>
      { s with dram := s.dram.set (1 : Fin 2) { s.dram[(1 : Fin 2)] with trained := true } }, (1 : Fin 2), 10, 5, ?_⟩
    decide +kernel
  · refine ⟨start, 2 ^ 60, 1, ?_⟩
    decide +kernel
  · exact ⟨start, 0x10000000, _, holder_plain (by decide +kernel), by decide +kernel⟩
  · exact ⟨({ start with poison := [0x10000000] } : State), 0x10000000, _, holder_plain (by decide +kernel), by decide +kernel⟩
  · exact ⟨start, 0x10000000, _, 1 <<< 136, 0, holder_plain (by decide +kernel), by decide +kernel⟩
  · exact ⟨start, 0x10000000, _, 3 <<< 128, 3, holder_plain (by decide +kernel), by decide +kernel⟩
  · refine ⟨start, 0, 16, 1, ?_⟩
    decide +kernel
  · refine ⟨start, 3, 16, 5, ?_⟩
    decide +kernel
  · refine ⟨{ start with dram := start.dram.set (1 : Fin 2) { start.dram[(1 : Fin 2)] with repair := some { lane := 5, spare := 0 }, waiting := [7] } },
        1, { lane := 5, spare := 0 }, 7, [], ?_⟩
    decide +kernel
  · refine ⟨start, 1, ?_⟩
    decide +kernel
  · refine ⟨{ start with dram := start.dram.set (1 : Fin 2) { start.dram[(1 : Fin 2)] with failed := true } }, 1, 5, ?_⟩
    decide +kernel
  · refine ⟨((start.put (Obj.DRAM_CHANNEL.REPAIR_MAP (1 : Fin 2)) 0xFFFFFFFFFFFFFF |>.put (Obj.DRAM_CHANNEL.SPARES_FREE (1 : Fin 2)) 7) |> fun (s :
        State) => { s with dram := s.dram.set (1 : Fin 2) { s.dram[(1 : Fin 2)] with repair := none, passed := [{ lane := 5, spare := 0 }] } } : State),
        1, { lane := 5, spare := 0 }, ?_⟩
    decide +kernel
  · refine ⟨start, 1, ?_⟩
    decide +kernel
  · refine ⟨{ start with dram := start.dram.set (1 : Fin 2) { start.dram[(1 : Fin 2)] with repair := some { lane := 5, spare := 0 } } }, 1,
        { lane := 5, spare := 0 }, ?_⟩
    decide +kernel

theorem witness_EthernetPorts :
    (∃ (s : State) (p : Fin 4), netUp s = true ∧ s.eth[p].up = false ∧ s.eth[p].anRunning = true) ∧
    (∃ (s : State) (p : Fin 4), s.eth[p].up = true) ∧
    (∃ (s : State) (p : Fin 4) (rate : BitVec 8), netUp s = true ∧ s.eth[p].up = false ∧ s.eth[p].anRunning = true ∧ (rate = 2 ∨ rate = 3) ∧
        rate.toNat ∈ allowedRates s p) ∧
    (∃ (s : State) (p : Fin 4) (r : Nat), netUp s = true ∧ s.eth[p].up = false ∧ s.eth[p].anRunning = false ∧ s.eth[p].viaAn = false ∧ rateAfter
        (rateOrder s p) s.eth[p].trying = some r) ∧
    (∃ (s : State) (p : Fin 4), netUp s = true ∧ s.eth[p].up = false ∧ s.eth[p].anRunning = false ∧ s.eth[p].viaAn = false ∧ rateAfter (rateOrder s p)
        s.eth[p].trying = none) ∧
    (∃ (s : State) (p : Fin 4), netUp s = true ∧ s.eth[p].up = false ∧ s.eth[p].anRunning = false ∧ 0 < s.eth[p].trying ∧ s.eth[p].trying < 4) ∧
    (∃ (s : State) (p : Fin 4), s.eth[p].up = true ∧ s.u (Obj.ETH_PORT.LINK_DOWNS p) + 1 < 2 ^ 32) ∧
    (∃ (s : State) (p : Fin 4), s.eth[p].up = false) ∧
    (∃ (s : State) (k : Fin 2), s.u (Obj.INTERFACE.PRP_MODE k) ≠ 1) ∧
    (∃ (s : State) (k : Fin 2) (p : Fin 4) (q : Fin 4), p.val = 2 * k.val ∧ q.val = 2 * k.val + 1 ∧ s.u (Obj.INTERFACE.PRP_MODE k) = 1 ∧ s.eth[p].up =
        true ∧ s.eth[q].up = true) ∧
    (∃ (s : State) (p : Fin 4), s.u (Obj.INTERFACE.PRP_MODE (p.val / 2)) = 1) ∧
    (∃ (s : State) (p : Fin 4), s.u (Obj.INTERFACE.PRP_MODE (p.val / 2)) ≠ 1) ∧
    (∃ (s : State) (p : Fin 4) (target : BitVec 32), s.eth[p].up = true ∧ s.u (Obj.INTERFACE.PRP_MODE (p.val / 2)) = 0 ∧ target.toNat = portIpv4 s p ∧
        target ≠ 0) ∧
    (∃ (s : State) (p : Fin 4) (target : BitVec 32), s.eth[p].up = true ∧ target.toNat ≠ portIpv4 s p) ∧
    (∃ (s : State) (p : Fin 4) (target : BitVec 128), s.eth[p].up = true ∧ s.u (Obj.INTERFACE.PRP_MODE (p.val / 2)) = 0 ∧ net 16 target.toNat =
        portIpv6 s p ∧ target ≠ 0) ∧
    (∃ (s : State) (p : Fin 4) (ck : List Byte), s.eth[p].up = true ∧ s.u (Obj.INTERFACE.PRP_MODE (p.val / 2)) = 0 ∧ ck.length = 2) ∧
    (∃ (s : State) (p : Fin 4) (f : PrpTrailer), (s.u (Obj.INTERFACE.PRP_MODE (p.val / 2)) ≠ 1 ∨ s.eth[p].up = false)) ∧
    (∃ (s t : State) (p : Fin 4) (f : PrpTrailer), s.u (Obj.INTERFACE.PRP_MODE (p.val / 2)) = 1 ∧ s.eth[p].up = true ∧ t = ((if f.lan = lanOf p then s
        else s.setBit (Obj.INTERFACE.PRP_FLAGS (p.val / 2)) Bit.INTERFACE.PRP_FLAGS.WRONG_LAN).modEth p (fun e =>
        { e with silent := false })).pathFlag p ∧ (∃ e ∈ s.eth[firstPort p].seen, s.now < e.2 + 1280000000 ∧ e.1.src = f.src ∧ e.1.seq = f.seq)) ∧
    (∃ (s t : State) (p : Fin 4) (f : PrpTrailer), s.u (Obj.INTERFACE.PRP_MODE (p.val / 2)) = 1 ∧ s.eth[p].up = true ∧ t = ((if f.lan = lanOf p then s
        else s.setBit (Obj.INTERFACE.PRP_FLAGS (p.val / 2)) Bit.INTERFACE.PRP_FLAGS.WRONG_LAN).modEth p (fun e =>
        { e with silent := false })).pathFlag p ∧ (∀ e ∈ s.eth[firstPort p].seen, s.now < e.2 + 1280000000 → ¬(e.1.src = f.src ∧ e.1.seq = f.seq))) ∧
    (∃ (s : State) (p a b : Fin 4) (target : BitVec 32) (sender : List Byte), s.u (Obj.INTERFACE.PRP_MODE (p.val / 2)) = 1 ∧ a.val = 2 * (p.val / 2) ∧
        b.val = 2 * (p.val / 2) + 1 ∧ s.eth[a].up = true ∧ s.eth[b].up = true ∧ target.toNat = portIpv4 s p ∧ target ≠ 0) ∧
    (∃ (s : State) (ps : List (Fin 4)) (o : Out), ps ≠ [] ∧ refuses s 6 = true) ∧
    (∃ (s : State) (ps : List (Fin 4)) (o : Out), ps ≠ [] ∧ refuses s 6 = false) ∧
    (∃ (s : State) (k : Fin 2) (p q : Fin 4), p.val = 2 * k.val ∧ q.val = 2 * k.val + 1 ∧ s.u (Obj.INTERFACE.PRP_MODE k) = 1 ∧ s.eth[p].up = true ∧
        s.eth[q].up = true ∧ refuses s 6 = false) ∧
    (∃ (s : State) (p : Fin 4) (target : BitVec 32) (sender : List Byte), s.eth[p].up = true ∧ s.u (Obj.INTERFACE.PRP_MODE (p.val / 2)) = 0 ∧ refuses
        s 6 = false ∧ target.toNat = portIpv4 s p ∧ target ≠ 0) ∧
    (∃ (s : State) (p a b : Fin 4) (target : BitVec 32) (sender : List Byte), s.u (Obj.INTERFACE.PRP_MODE (p.val / 2)) = 1 ∧ a.val = 2 * (p.val / 2) ∧
        b.val = 2 * (p.val / 2) + 1 ∧ s.eth[a].up = true ∧ s.eth[b].up = true ∧ refuses s 6 = false ∧ target.toNat = portIpv4 s p ∧ target ≠ 0) ∧
    (∃ (s : State) (p : Fin 4) (target : BitVec 128) (sender : List Byte), s.eth[p].up = true ∧ s.u (Obj.INTERFACE.PRP_MODE (p.val / 2)) = 0 ∧ net 16
        target.toNat = portIpv6 s p ∧ target ≠ 0 ∧ refuses s 6 = false) ∧
    (∃ (s : State) (p : Fin 4) (code : Byte) (ck rest : List Byte), s.eth[p].up = true ∧ s.u (Obj.INTERFACE.PRP_MODE (p.val / 2)) = 0 ∧ ck.length = 2
        ∧ refuses s 6 = false) := by
  and_intros
  · refine
      ⟨{ start with boot := { start.boot with served := true }, eth := (start.eth.set (1 : Fin 4) { start.eth[(1 : Fin 4)] with up := false, anRunning := true }) },
      (1 : Fin 4), ?_⟩
    decide +kernel
  · refine ⟨{ start with eth := (start.eth.set (1 : Fin 4) { start.eth[(1 : Fin 4)] with up := true }) }, (1 : Fin 4), ?_⟩
    decide +kernel
  · refine
      ⟨{ start with boot := { start.boot with served := true }, eth := (start.eth.set (1 : Fin 4) { start.eth[(1 : Fin 4)] with up := false, anRunning := true }) },
      (1 : Fin 4), 2, ?_⟩
    decide +kernel
  · refine
      ⟨{ start with boot := { start.boot with served := true }, eth := start.eth.set (1 : Fin 4) { start.eth[(1 : Fin 4)] with up := false, anRunning := false, viaAn := false, trying := (rateOrder start (1 : Fin 4)).headD 0 } },
      1, (rateAfter (rateOrder
      ({ start with boot := { start.boot with served := true }, eth := start.eth.set (1 : Fin 4) { start.eth[(1 : Fin 4)] with up := false, anRunning := false, viaAn := false, trying := (rateOrder start (1 : Fin 4)).headD 0 } }
      : State) (1 : Fin 4))
      ({ start with boot := { start.boot with served := true }, eth := start.eth.set (1 : Fin 4) { start.eth[(1 : Fin 4)] with up := false, anRunning := false, viaAn := false, trying := (rateOrder start (1 : Fin 4)).headD 0 } }
      : State).eth[(1 : Fin 4)].trying).getD 0, ?_⟩
    decide +kernel
  · refine
      ⟨{ start with boot := { start.boot with served := true }, eth := (start.eth.set (1 : Fin 4) { start.eth[(1 : Fin 4)] with up := false, anRunning := false, viaAn := false }) },
      (1 : Fin 4), ?_⟩
    decide +kernel
  · refine
      ⟨{ start with boot := { start.boot with served := true }, eth := (start.eth.set (1 : Fin 4) { start.eth[(1 : Fin 4)] with up := false, anRunning := false, trying := 1 }) },
      (1 : Fin 4), ?_⟩
    decide +kernel
  · refine ⟨{ start with eth := (start.eth.set (1 : Fin 4) { start.eth[(1 : Fin 4)] with up := true }) }, (1 : Fin 4), ?_⟩
    decide +kernel
  · refine ⟨{ start with eth := (start.eth.set (1 : Fin 4) { start.eth[(1 : Fin 4)] with up := false }) }, (1 : Fin 4), ?_⟩
    decide +kernel
  · refine ⟨(start.put (Obj.INTERFACE.PRP_MODE (1 : Fin 2)) 2), (1 : Fin 2), ?_⟩
    decide +kernel
  · refine ⟨(start.put (Obj.INTERFACE.PRP_MODE (1 : Fin 2)) 1) |> fun (s : State) =>
      { s with eth := (s.eth.set (2 : Fin 4) { s.eth[(2 : Fin 4)] with up := true }).set (3 : Fin 4) { s.eth[(3 : Fin 4)] with up := true } }, 1, 2,
      3, ?_⟩
    decide +kernel
  · refine ⟨(start.put (Obj.INTERFACE.PRP_MODE ((1 : Fin 4).val / 2)) (1)), (1 : Fin 4), ?_⟩
    decide +kernel
  · refine ⟨(start.put (Obj.INTERFACE.PRP_MODE ((1 : Fin 4).val / 2)) 2), (1 : Fin 4), ?_⟩
    decide +kernel
  · refine ⟨(start.put (Obj.INTERFACE.PRP_MODE ((1 : Fin 4).val / 2)) 0 |>.put (Obj.INTERFACE.IPV4_A ((1 : Fin 4).val / 2)) 0x0A000001 |>.put
      (Obj.INTERFACE.IPV4_B ((1 : Fin 4).val / 2)) 0x0A000002) |> fun (s : State) =>
      { s with eth := s.eth.set (1 : Fin 4) { s.eth[(1 : Fin 4)] with up := true } }, 1, BitVec.ofNat 32 (portIpv4 ((start.put (Obj.INTERFACE.PRP_MODE
      ((1 : Fin 4).val / 2)) 0 |>.put (Obj.INTERFACE.IPV4_A ((1 : Fin 4).val / 2)) 0x0A000001 |>.put (Obj.INTERFACE.IPV4_B ((1 : Fin 4).val / 2))
      0x0A000002) |> fun (s : State) => { s with eth := s.eth.set (1 : Fin 4) { s.eth[(1 : Fin 4)] with up := true } } : State) (1 : Fin 4)), ?_⟩
    decide +kernel
  · refine ⟨{ start with eth := (start.eth.set (1 : Fin 4) { start.eth[(1 : Fin 4)] with up := true }) }, (1 : Fin 4), (1 : BitVec 32), ?_⟩
    decide +kernel
  · refine ⟨(start.put (Obj.INTERFACE.PRP_MODE ((1 : Fin 4).val / 2)) 0 |>.putBlob (Obj.INTERFACE.IPV6_A ((1 : Fin 4).val / 2)) (List.replicate 16 5)
      |>.putBlob (Obj.INTERFACE.IPV6_B ((1 : Fin 4).val / 2)) (List.replicate 16 6)) |> fun (s : State) =>
      { s with eth := s.eth.set (1 : Fin 4) { s.eth[(1 : Fin 4)] with up := true } }, 1, BitVec.ofNat 128 (fromLe (portIpv6 ((start.put
      (Obj.INTERFACE.PRP_MODE ((1 : Fin 4).val / 2)) 0 |>.putBlob (Obj.INTERFACE.IPV6_A ((1 : Fin 4).val / 2)) (List.replicate 16 5) |>.putBlob
      (Obj.INTERFACE.IPV6_B ((1 : Fin 4).val / 2)) (List.replicate 16 6)) |> fun (s : State) =>
      { s with eth := s.eth.set (1 : Fin 4) { s.eth[(1 : Fin 4)] with up := true } } : State) (1 : Fin 4)).reverse), ?_⟩
    decide +kernel
  · refine ⟨(({ start with eth := (start.eth.set (1 : Fin 4) { start.eth[(1 : Fin 4)] with up := true }) } : State).put (Obj.INTERFACE.PRP_MODE ((1 : Fin 4).val
      / 2)) (0)), (1 : Fin 4), [1, 2], ?_⟩
    decide +kernel
  · refine ⟨start, 1, (⟨5, 7, 0xB⟩ : PrpTrailer), ?_⟩
    decide +kernel
  · exact ⟨((((start) |> fun (s : State) =>
        { s with eth := (s.eth.set (0 : Fin 4) { s.eth[(0 : Fin 4)] with up := true, seen := [((⟨5, 7, 0xA⟩ : PrpTrailer), 0)] }).set (1 : Fin 4) { s.eth[(1 : Fin 4)] with up := true } }
        : State).put (Obj.INTERFACE.PRP_MODE ((1 : Fin 4).val / 2)) 1) : State), _, 1, (⟨5, 7, 0xB⟩ : PrpTrailer), by decide +kernel, by decide +kernel,
        rfl, by decide +kernel⟩
  · exact ⟨((((start) |> fun (s : State) =>
        { s with eth := (s.eth.set (0 : Fin 4) { s.eth[(0 : Fin 4)] with up := true }).set (1 : Fin 4) { s.eth[(1 : Fin 4)] with up := true } } :
        State).put (Obj.INTERFACE.PRP_MODE ((1 : Fin 4).val / 2)) 1) : State), _, 1, (⟨5, 7, 0xB⟩ : PrpTrailer), by decide +kernel, by decide +kernel,
        rfl, by decide +kernel⟩
  · refine ⟨arpState, 1, 0, 1, BitVec.ofNat 32 (portIpv4 arpState (1 : Fin 4)), [2, 0, 0, 0, 0, 7], ?_⟩
    decide +kernel
  · refine ⟨start.setBit Obj.CROSSINGS.PEER_RESET 6, [1], .clkmonPulse, ?_⟩
    decide +kernel
  · refine ⟨start, [1], .clkmonPulse, ?_⟩
    decide +kernel
  · refine ⟨((start.put (Obj.INTERFACE.PRP_MODE (1 : Fin 2)) 1) |> fun (s : State) =>
        { s with eth := (s.eth.set (2 : Fin 4) { s.eth[(2 : Fin 4)] with up := true }).set (3 : Fin 4) { s.eth[(3 : Fin 4)] with up := true } } :
        State), 1, 2, 3, ?_⟩
    decide +kernel
  · refine ⟨ip4State, 1, BitVec.ofNat 32 (portIpv4 ip4State (1 : Fin 4)), [], ?_⟩
    decide +kernel
  · refine ⟨arpState, 1, 0, 1, BitVec.ofNat 32 (portIpv4 arpState (1 : Fin 4)), [2, 0, 0, 0, 0, 7], ?_⟩
    decide +kernel
  · refine ⟨ip6State, 1, BitVec.ofNat 128 (fromLe (portIpv6 ip6State (1 : Fin 4)).reverse), [], ?_⟩
    decide +kernel
  · refine ⟨up1.put (Obj.INTERFACE.PRP_MODE ((1 : Fin 4).val / 2)) 0, 1, 0, [1, 2], [3], ?_⟩
    decide +kernel

theorem witness_PtpClock :
    (∃ (s : State) (p : Fin 4), s.eth[p].up = false) ∧
    (∃ (s : State) (p : Fin 4), s.eth[p].up = true ∧ s.u Obj.PTP.PTP_STATE ≠ 0 ∧ s.bit Obj.EPOCH_SOURCE.PTP_PORTMASK p = true ∧ s.ptp.heard = [] ∧
        s.ptp.bound = none ∧ s.ep.ptpUsable = false) ∧
    (∃ (s : State) (p : Fin 4), s.ptp.bound ≠ some p) ∧
    (∃ (s : State), s.ptp.bound = none) ∧
    (∃ (s : State) (p : Fin 4) (m : PtpMaster), s.ptp.bound = some p ∧ s.ptp.heard = [(p, m)] ∧ s.blob Obj.PTP.MASTER_ID = net 8 m.identity.toNat ∧
        s.u Obj.PTP.PTP_STATE ≠ 0) ∧
    (∃ (s : State) (p : Fin 4), s.ptp.bound = some p ∧ s.ptp.missing < 7) ∧
    (∃ (s : State) (p : Fin 4), s.ptp.bound = some p ∧ s.ptp.missing = 7 ∧ s.ep.ptpUsable = true) ∧
    (∃ (a b : Fin 4 × PtpMaster), a.2.grandmaster = b.2.grandmaster ∧ a.2.steps.toNat < b.2.steps.toNat) ∧
    (∃ (a b : Fin 4 × PtpMaster), a.2.grandmaster ≠ b.2.grandmaster ∧ (a.2.priority1.toNat < b.2.priority1.toNat ∨ (a.2.priority1 = b.2.priority1 ∧
        a.2.clockClass.toNat < b.2.clockClass.toNat))) ∧
    (∃ (a b : Fin 4 × PtpMaster), a.2 = b.2 ∧ a.1 < b.1) ∧
    (∃ (s : State) (p : Fin 4) (m : PathDelayMsg) (d : Int), s.ptp.bound = some p ∧ (s.u Obj.PTP.DELAY_MECH = 1 ∧ d = ptpTime m.back - ptpTime m.sent
        - scaled m.turn - m.corr ∨ s.u Obj.PTP.DELAY_MECH ≠ 1 ∧ ∃ y : PtpSyncMsg, s.ptp.sync = some y ∧ d = (ptpTime y.stamp - scaled y.origin -
        y.corr) + (scaled m.arrival - ptpTime m.sent - m.corr))) ∧
    (∃ (s : State) (p : Fin 4) (m : PathDelayMsg), s.u Obj.PTP.DELAY_MECH ≠ 1 ∧ s.ptp.sync = none) ∧
    (∃ (s : State) (p : Fin 4) (m : PtpMaster), s.eth[p].up = true ∧ (s.u Obj.PTP.PTP_STATE = 0 ∨ s.bit Obj.EPOCH_SOURCE.PTP_PORTMASK p = false ∨
        m.domain.toNat ≠ s.u Obj.PTP.DOMAIN ∨ m.transport.toNat ≠ s.u Obj.PTP.TRANSPORT)) ∧
    (∃ (s : State) (p : Fin 4) (m : PtpMaster), s.eth[p].up = true ∧ s.u Obj.PTP.PTP_STATE ≠ 0 ∧ s.bit Obj.EPOCH_SOURCE.PTP_PORTMASK p = true ∧
        ptpOurs s m.domain m.transport = true ∧ s.ptp.heard = [] ∧ s.ptp.bound = none ∧ s.ep.ptpUsable = false) ∧
    (∃ (s : State) (p : Fin 4), s.eth[p].up = true ∧ refuses s 6 = false) ∧
    (∃ (s : State) (p : Fin 4) (m : PtpSyncMsg), s.eth[p].up = true ∧ s.ptp.bound = some p ∧ ptpOurs s m.domain m.transport = true ∧ (s.u
        Obj.PTP.PTP_STATE ≠ 3 ∨ s.ptp.measured = false)) ∧
    (∃ (s : State) (p : Fin 4) (m : PtpSyncMsg) (o : Int), s.eth[p].up = true ∧ s.ptp.bound = some p ∧ ptpOurs s m.domain m.transport = true ∧ s.u
        Obj.PTP.PTP_STATE = 3 ∧ s.ptp.measured = true ∧ o = psOfScaled (ptpTime m.stamp - scaled m.origin - m.corr) - s.i Obj.PTP.MEAN_PATH_DELAY -
        s.i Obj.PTP.ASYMMETRY) ∧
    (∃ (s : State) (p : Fin 4) (m : PtpSyncMsg), s.eth[p].up = true ∧ ptpOurs s m.domain m.transport = false) := by
  and_intros
  · refine ⟨{ start with eth := (start.eth.set (1 : Fin 4) { start.eth[(1 : Fin 4)] with up := false }) }, (1 : Fin 4), ?_⟩
    decide +kernel
  · refine
      ⟨((({ start with eth := (start.eth.set (1 : Fin 4) { start.eth[(1 : Fin 4)] with up := true }), ptp := { start.ptp with heard := [], bound := none }, ep := { start.ep with ptpUsable := false } }
      : State).put Obj.PTP.PTP_STATE 1).putBit Obj.EPOCH_SOURCE.PTP_PORTMASK (1 : Fin 4) true), (1 : Fin 4), ?_⟩
    decide +kernel
  · refine ⟨start, (1 : Fin 4), ?_⟩
    decide +kernel
  · refine ⟨{ start with ptp := { start.ptp with bound := none } }, ?_⟩
    decide +kernel
  · refine ⟨((start.put Obj.PTP.PTP_STATE 3).putBlob Obj.PTP.MASTER_ID (net 8 5)) |> fun (s : State) =>
      { s with ptp := { s.ptp with bound := some (1 : Fin 4), heard := [((1 : Fin 4), master)] } }, 1, master, ?_⟩
    decide +kernel
  · refine ⟨{ start with ptp := { start.ptp with bound := some (1 : Fin 4) } }, (1 : Fin 4), ?_⟩
    decide +kernel
  · refine ⟨{ start with ptp := { start.ptp with bound := some (1 : Fin 4), missing := 7 }, ep := { start.ep with ptpUsable := true } }, (1 : Fin 4), ?_⟩
    decide +kernel
  · refine ⟨(1, master), (2, { master with steps := 3 }), ?_⟩
    decide +kernel
  · refine ⟨(1, master), (2, { master with grandmaster := 7, priority1 := 200 }), ?_⟩
    decide +kernel
  · refine ⟨(1, master), (2, master), ?_⟩
    decide +kernel
  · refine ⟨({ start with ptp := { start.ptp with bound := some (1 : Fin 4) } } |>.put Obj.PTP.DELAY_MECH 1 : State), 1, (⟨256000, 512000, 0, 0, 0⟩ :
        PathDelayMsg), 20480000, ?_⟩
    decide +kernel
  · refine ⟨({ start with ptp := { start.ptp with sync := none } } |>.put Obj.PTP.DELAY_MECH 0 : State), 1, (⟨256000, 512000, 0, 0, 0⟩ : PathDelayMsg),
        ?_⟩
    decide +kernel
  · refine ⟨up1.put Obj.PTP.PTP_STATE 0, 1, master, ?_⟩
    decide +kernel
  · refine ⟨(((({ up1 with ptp := { up1.ptp with heard := [], bound := none }, ep := { up1.ep with ptpUsable := false } } : State).put Obj.PTP.DOMAIN 0
        |>.put Obj.PTP.TRANSPORT 0 |>.put Obj.PTP.PTP_STATE 1).putBit Obj.EPOCH_SOURCE.PTP_PORTMASK (1 : Fin 4) true) : State), 1, master, ?_⟩
    decide +kernel
  · refine ⟨up1, 1, ?_⟩
    decide +kernel
  · refine ⟨((({ up1 with ptp := { up1.ptp with bound := some (1 : Fin 4), measured := false } } : State).put Obj.PTP.DOMAIN 0 |>.put Obj.PTP.TRANSPORT
        0 |>.put Obj.PTP.PTP_STATE 1) : State), 1, ⟨0, 0, 0, 0, 256000⟩, ?_⟩
    decide +kernel
  · exact ⟨((({ up1 with ptp := { up1.ptp with bound := some (1 : Fin 4), measured := true } } : State).put Obj.PTP.DOMAIN 0 |>.put Obj.PTP.TRANSPORT 0
        |>.put Obj.PTP.PTP_STATE 3) : State), 1, ⟨0, 0, 0, 0, 256000⟩, _, by decide +kernel, by decide +kernel, by decide +kernel, by decide +kernel,
        by decide +kernel, rfl⟩
  · refine ⟨up1, 1, ⟨9, 0, 0, 0, 256000⟩, ?_⟩
    decide +kernel

theorem witness_StreamControl :
    (∃ (s : State) (p : Fin 4), s.eth[p].up = false) ∧
    (∃ (s : State) (p : Fin 4) (src : Path) (m : Haggle), s.eth[p].up = true ∧ (∀ x ∈ sourcesOf src m.session, (sourceRec s x).limited = false) ∧
        sessionById s m.session = none) ∧
    (∃ (s : State) (t : State) (p : Fin 4) (src : Path) (m : Haggle) (d : List Byte) (x : Session) (code : Nat) (avail : Nat), s.eth[p].up = true ∧ (∀
        y ∈ sourcesOf src m.session, (sourceRec s y).limited = false) ∧ t = (s.bump (Obj.ETH_PORT.RX_FRAMES p)).modSession x.id (fun y =>
        { y with last := s.now }) ∧ subscriber (s.bump (Obj.ETH_PORT.RX_FRAMES p)) src m d = some x ∧ grantedBefore t m = none ∧ judge t p src m x =
        .inr (code, avail)) ∧
    (∃ (s : State) (t : State) (p : Fin 4) (src : Path) (m : Haggle) (d : List Byte) (x : Session) (k : Fin 256) (toll : Nat), s.eth[p].up = true ∧ (∀
        y ∈ sourcesOf src m.session, (sourceRec s y).limited = false) ∧ t = (s.bump (Obj.ETH_PORT.RX_FRAMES p)).modSession x.id (fun y =>
        { y with last := s.now }) ∧ subscriber (s.bump (Obj.ETH_PORT.RX_FRAMES p)) src m d = some x ∧ grantedBefore t m = none ∧ judge t p src m x =
        .inl toll ∧ freeStream t = some k) ∧
    (∃ (x : Session), x.level < 1) ∧
    (∃ (m : Haggle) (x : Session), 1 ≤ x.level ∧ haggleGood m = false) ∧
    (∃ (s : State) (p : Nat) (src : Path) (m : Haggle) (most : Nat), most = largestToll s p 256 m.maxDgram.toNat (lineOverhead (net 16 (destOf src
        m).toNat)) ∧ most < m.toll.toNat ∧ most < m.tollMin.toNat) ∧
    (∃ (s : State) (p : Nat) (src : Path) (m : Haggle) (most : Nat), most = largestToll s p 256 m.maxDgram.toNat (lineOverhead (net 16 (destOf src
        m).toNat)) ∧ (m.toll.toNat ≤ most ∨ m.tollMin.toNat ≤ most) ∧ freeStream s ≠ none ∧ queuesFit s 256 (min m.toll.toNat most) 20 = true) ∧
    (∃ (s : State) (k : Fin 256) (req : BitVec 32), s.streams[k].isOpen = true ∧ s.streams[k].bySubscribe = true ∧ s.streams[k].req = req) ∧
    (∃ (s : State) (k : Fin 256), s.streams[k].isOpen = false) ∧
    (∃ (s : State) (k : Fin 256), s.streams[k].isOpen = true) ∧
    (∃ (s : State) (k : Fin 256), s.streams[k].isOpen = true ∧ s.streams[k].bySubscribe = true) ∧
    (∃ (s : State) (k : Fin 256), s.streams[k].isOpen = true ∧ s.u (Obj.STREAM.LEASE k) ≠ 0) ∧
    (∃ (s : State) (src : Path), (sourceRec s (sourceOf src)).limited = false) ∧
    (∃ (s : State) (src : Path) (k : Fin 256) (req : BitVec 32) (n : BitVec 16) (d : List Byte), (∃ x ∈ sourcesOf src (controlSession s k), s.served x
        = false)) ∧
    (∃ (s : State) (src : Path) (k : Fin 256) (req : BitVec 32) (n : BitVec 16) (d : List Byte) (y : Session), (∀ x ∈ sourcesOf src (controlSession s
        k), (sourceRec s x).limited = false) ∧ s.streams[k].bySubscribe = true ∧ controller s k src d = some (some y) ∧ s.streams[k].req = req) ∧
    (∃ (s : State) (src : Path) (k : Fin 256) (req : BitVec 32) (n : BitVec 16) (d : List Byte) (y : Session), (∀ x ∈ sourcesOf src (controlSession s
        k), (sourceRec s x).limited = false) ∧ s.streams[k].bySubscribe = true ∧ controller s k src d = some (some y) ∧ s.streams[k].req ≠ req) ∧
    (∃ (s : State) (src : Path) (k : Fin 256) (req : BitVec 32) (n : BitVec 16) (d : List Byte) (y : Session), (∀ x ∈ sourcesOf src (controlSession s
        k), (sourceRec s x).limited = false) ∧ s.streams[k].bySubscribe = true ∧ controller s k src d = some (some y)) ∧
    (∃ (s : State) (src : Path) (k : Fin 256) (req : BitVec 32) (n : BitVec 16) (d : List Byte), (∀ x ∈ sourcesOf src (controlSession s k), (sourceRec
        s x).limited = false) ∧ s.streams[k].bySubscribe = false ∧ controller s k src d = some none) ∧
    (∃ (s : State) (src : Path) (k : Fin 256) (req : BitVec 32) (n : BitVec 16) (d : List Byte), (∀ x ∈ sourcesOf src (controlSession s k), (sourceRec
        s x).limited = false) ∧ controller s k src d = none) ∧
    (∃ (s : State) (k : Fin 256) (src : Path) (d : List Byte), ∃ (y : Session), s.streams[k].isOpen = true ∧ s.streams[k].bySubscribe = true ∧
        sessionById s s.streams[k].session = some y) ∧
    (∃ (s : State) (k : Fin 256) (src : Path) (d : List Byte), ∃ (a : BitVec 128) (q : BitVec 16) (p : Fin 4), s.streams[k].isOpen = true ∧
        s.streams[k].bySubscribe = false ∧ src = .udp a q p) := by
  and_intros
  · refine ⟨{ start with eth := (start.eth.set (1 : Fin 4) { start.eth[(1 : Fin 4)] with up := false }) }, (1 : Fin 4), ?_⟩
    decide +kernel
  · refine ⟨{ start with eth := (start.eth.set (1 : Fin 4) { start.eth[(1 : Fin 4)] with up := true }) }, (1 : Fin 4), (Path.udp 5 1000 0),
      ({ session := (1 : BitVec 32), req := (1 : BitVec 32), kind := (1 : BitVec 8), port := (1 : BitVec 8), slot := (1 : BitVec 8), output := (1 : BitVec 8), sel := (1 : BitVec 64), pFirst := (1 : BitVec 32), pCount := (1 : BitVec 32), decimT := (1 : BitVec 16), baleMs := (1 : BitVec 16), toll := (1 : BitVec 32), tollMin := (1 : BitVec 32), compress := (1 : BitVec 8), credit := (1 : BitVec 8), maxDgram := (1 : BitVec 16), lease := (1 : BitVec 16), destPort := (1 : BitVec 16), dest := (1 : BitVec 128), tag := ([] : List Byte) }
      : Haggle), ?_⟩
    decide +kernel
  · exact ⟨{ (RSb start).put (Obj.ETH_PORT.RATE (0 : Fin 4)) 2 with eth := (RSb start).eth.set (0 : Fin 4) { (RSb start).eth[(0 : Fin 4)] with up := true } }, _, 0,
        ses.path, { hag with maxDgram := 10 }, ([] : List Byte), ses, 0x0302, 0, by decide +kernel, by decide +kernel, rfl, by decide +kernel⟩
  · exact ⟨{ (RSb start).put (Obj.ETH_PORT.RATE (0 : Fin 4)) 2 with eth := (RSb start).eth.set (0 : Fin 4) { (RSb start).eth[(0 : Fin 4)] with up := true } }, _, 0,
        ses.path, hag, ([] : List Byte), ses, (freeStream
        ((({ (RSb start).put (Obj.ETH_PORT.RATE (0 : Fin 4)) 2 with eth := (RSb start).eth.set (0 : Fin 4) { (RSb start).eth[(0 : Fin 4)] with up := true } } :
        State).bump (Obj.ETH_PORT.RX_FRAMES (0 : Fin 4))).modSession ses.id (fun y =>
        { y with last := ({ (RSb start).put (Obj.ETH_PORT.RATE (0 : Fin 4)) 2 with eth := (RSb start).eth.set (0 : Fin 4) { (RSb start).eth[(0 : Fin 4)] with up := true } } : State).now })
        : State)).getD 0, match judge
        ((({ (RSb start).put (Obj.ETH_PORT.RATE (0 : Fin 4)) 2 with eth := (RSb start).eth.set (0 : Fin 4) { (RSb start).eth[(0 : Fin 4)] with up := true } } :
        State).bump (Obj.ETH_PORT.RX_FRAMES (0 : Fin 4))).modSession ses.id (fun y =>
        { y with last := ({ (RSb start).put (Obj.ETH_PORT.RATE (0 : Fin 4)) 2 with eth := (RSb start).eth.set (0 : Fin 4) { (RSb start).eth[(0 : Fin 4)] with up := true } } : State).now })
        : State) (0 : Fin 4) (ses.path : Path) hag ses with | .inl v => v | .inr _ => 0, by decide +kernel, by decide +kernel, rfl, by
        decide +kernel⟩
  · refine ⟨{ ses with level := 0 }, ?_⟩
    decide +kernel
  · refine ⟨{ hag with port := 9 }, ses, ?_⟩
    decide +kernel
  · refine ⟨start, 0, (Path.udp 5 1000 0), { hag with toll := 0xFFFFFFFF, tollMin := 0xFFFFFFFF }, largestToll start (0 : Nat) 256
      ({ hag with toll := 0xFFFFFFFF, tollMin := 0xFFFFFFFF } : Haggle).maxDgram.toNat (lineOverhead (net 16 (destOf (Path.udp 5 1000 0 : Path)
      ({ hag with toll := 0xFFFFFFFF, tollMin := 0xFFFFFFFF } : Haggle)).toNat)), ?_⟩
    decide +kernel
  · exact ⟨start, 0, (Path.udp 5 1000 0),
        ({ session := (1 : BitVec 32), req := (1 : BitVec 32), kind := (1 : BitVec 8), port := (1 : BitVec 8), slot := (1 : BitVec 8), output := (1 : BitVec 8), sel := (1 : BitVec 64), pFirst := (1 : BitVec 32), pCount := (1 : BitVec 32), decimT := (1 : BitVec 16), baleMs := (1 : BitVec 16), toll := (1 : BitVec 32), tollMin := (1 : BitVec 32), compress := (1 : BitVec 8), credit := (1 : BitVec 8), maxDgram := (1 : BitVec 16), lease := (1 : BitVec 16), destPort := (1 : BitVec 16), dest := (1 : BitVec 128), tag := ([] : List Byte) }
        : Haggle), _, rfl, by decide +kernel⟩
  · refine
      ⟨{ start with streams := (start.streams.set (1 : Fin 256) { start.streams[(1 : Fin 256)] with isOpen := true, bySubscribe := true, req := (1 : BitVec 32) }) },
      (1 : Fin 256), (1 : BitVec 32), ?_⟩
    decide +kernel
  · refine ⟨{ start with streams := (start.streams.set (1 : Fin 256) { start.streams[(1 : Fin 256)] with isOpen := false }) }, (1 : Fin 256), ?_⟩
    decide +kernel
  · refine ⟨{ start with streams := (start.streams.set (1 : Fin 256) { start.streams[(1 : Fin 256)] with isOpen := true }) }, (1 : Fin 256), ?_⟩
    decide +kernel
  · refine ⟨{ start with streams := (start.streams.set (1 : Fin 256) { start.streams[(1 : Fin 256)] with isOpen := true, bySubscribe := true }) }, (1 : Fin
      256), ?_⟩
    decide +kernel
  · refine ⟨(({ start with streams := (start.streams.set (1 : Fin 256) { start.streams[(1 : Fin 256)] with isOpen := true }) } : State).put (Obj.STREAM.LEASE (1
      : Fin 256)) 1), (1 : Fin 256), ?_⟩
    decide +kernel
  · refine ⟨start, (Path.udp 5 1000 0), ?_⟩
    decide +kernel
  · refine ⟨limitedState, (Path.udp 5 1000 0), 1, 1, 1, [], ?_⟩
    decide +kernel
  · refine ⟨streamed (fun x => { x with bySubscribe := true }), (Path.udp 5 1000 0), 1, 1, 1, zeroTag, ses, ?_⟩
    decide +kernel
  · refine ⟨streamed (fun x => { x with bySubscribe := true }), (Path.udp 5 1000 0), 1, 2, 1, zeroTag, ses, ?_⟩
    decide +kernel
  · refine ⟨streamed (fun x => { x with bySubscribe := true }), (Path.udp 5 1000 0), 1, 1, 1, zeroTag, ses, ?_⟩
    decide +kernel
  · refine ⟨(streamed (fun x => { x with bySubscribe := false })).putBlob (Obj.STREAM.DEST (1 : Fin 256)) (net 16 5), (Path.udp 5 1000 0), 1, 1, 1, [],
        ?_⟩
    decide +kernel
  · refine ⟨start, (Path.udp 5 1000 0), 1, 1, 1, [], ?_⟩
    decide +kernel
  · refine ⟨streamed (fun x => { x with bySubscribe := true }), 1, (Path.udp 5 1000 0), [], ses, ?_⟩
    decide +kernel
  · exact ⟨streamed (fun x => { x with bySubscribe := false }), 1, (Path.udp 5 1000 0), [], 5, 1000, 0, by decide +kernel, by decide +kernel, rfl⟩

theorem witness_BalesTravel :
    (∃ (s : State) (k : Fin 256), s.streams[k].bale = none ∧ s.book.unread = []) ∧
    (∃ (s : State), s.bale.waiting = []) ∧
    (∃ (s : State) (c : ClosedBale) (rest : List ClosedBale), s.bale.waiting = c :: rest ∧ (standby s = false ∨ s.u (Obj.STREAM.TWIN c.stream) = 0)) ∧
    (∃ (s : State) (k : Fin 256) (bale : List Byte) (first : Nat) (fs : List Fragment), active s = false ∧ fs = fragments s k bale first (s.u
        (Obj.STREAM.SEQ k)) s.streams[k].baleNo.toNat) ∧
    (∃ (s : State) (k : Fin 256) (bale : List Byte), 32 < s.u (Obj.STREAM.MAX_DGRAM k) ∧ bale ≠ []) ∧
    (∃ (s : State) (k : Fin 256), s.streams[k].queue = []) ∧
    (∃ (s : State), freeLaneOf s.bale.decode = none) ∧
    (∃ (s : State) (l : Fin 8) (a : List DecodeReq) (b : List DecodeReq) (d : DecodeReq), freeLaneOf s.bale.decode = some l ∧ s.bale.decode = a ++ d
        :: b ∧ (∀ e ∈ a, e.lane.isSome = true) ∧ d.lane = none) ∧
    (∃ (s : State) (l : Fin 8), (∀ d ∈ s.bale.decode, d.lane ≠ some l)) ∧
    (∃ (s : State) (l : Fin 8) (d : DecodeReq) (o : List Byte × List Byte), s.bale.decode = [d] ∧ d.lane = some l ∧ d.peer = none ∧ sessionById s
        d.owner = none ∧ decodeBale (d.use == 2) d.bytes = .ok o ∧ s.u Obj.COMPRESSION.DECODE_OK + 1 < 2 ^ 32) ∧
    (∃ (s : State) (l : Fin 8) (d : DecodeReq) (c : Nat), s.bale.decode = [d] ∧ d.lane = some l ∧ d.peer = none ∧ sessionById s d.owner = none ∧
        decodeBale (d.use == 2) d.bytes = .error c) ∧
    (∃ (s : State) (k : Fin 256) (b : OpenBale), s.streams[k].bale = some b ∧ s.now ≤ b.first + (s.u (Obj.STREAM.BALE_MS k) + 50) * 3200000) ∧
    (∃ (s : State) (k : Fin 256) (b : OpenBale), s.streams[k].bale = some b ∧ b.first + (s.u (Obj.STREAM.BALE_MS k) + 50) * 3200000 < s.now ∧
        s.book.unread = [] ∧ s.isApplying (0x6000 + k) = false ∧ s.u (Obj.STREAM.BALES k) + 1 < 2 ^ 32) ∧
    (∃ (s : State) (k : Fin 256) (f : Fragment) (rest : List Fragment), s.streams[k].queue = f :: rest ∧ (ifaceUp s k = false ∨ creditHeld s k = true
        ∨ bucketNow s k f < f.bytes.length * 3200000000)) ∧
    (∃ (s : State) (k : Fin 256) (f : Fragment) (rest : List Fragment) (i : Nat), s.streams[k].queue = f :: rest ∧ s.u (Obj.STREAM.IFACE k) = i ∧ i <
        4 ∧ ifaceUp s k = true ∧ creditHeld s k = false ∧ refuses s 6 = false ∧ f.bytes.length * 3200000000 ≤ bucketNow s k f) := by
  and_intros
  · refine
      ⟨{ start with streams := (start.streams.set (1 : Fin 256) { start.streams[(1 : Fin 256)] with bale := none }), book := { start.book with unread := [] } }, (1
      : Fin 256), ?_⟩
    decide +kernel
  · refine ⟨{ start with bale := { start.bale with waiting := [] } }, ?_⟩
    decide +kernel
  · refine
      ⟨{ start with bale := { start.bale with waiting := ({ stream := (1 : Fin 256), original := ([] : List Byte), first := 0, form := 0, level := 0, closedAt := 0 } : ClosedBale) :: ([] : List ClosedBale) } },
      ({ stream := (1 : Fin 256), original := ([] : List Byte), first := 0, form := 0, level := 0, closedAt := 0 } : ClosedBale), ([] : List
      ClosedBale), ?_⟩
    decide +kernel
  · exact ⟨start, (1 : Fin 256), ([] : List Byte), 0, _, by decide +kernel, rfl⟩
  · refine ⟨(start.put (Obj.STREAM.MAX_DGRAM (1 : Fin 256)) (32 + 1)), (1 : Fin 256), List.replicate 40 3, ?_⟩
    decide +kernel
  · refine ⟨{ start with streams := (start.streams.set (1 : Fin 256) { start.streams[(1 : Fin 256)] with queue := [] }) }, (1 : Fin 256), ?_⟩
    decide +kernel
  · refine ⟨{ start with bale := { start.bale with decode := (List.finRange 8).map (fun l => { use := 1, owner := 5, bytes := [], lane := some l }) } }, ?_⟩
    decide +kernel
  · refine
      ⟨{ start with bale := { start.bale with decode := ([] : List DecodeReq) ++ ({ use := (1 : Fin 3), owner := (1 : BitVec 32), bytes := ([] : List Byte), lane := none } : DecodeReq) :: ([] : List DecodeReq) } },
      (freeLaneOf
      ({ start with bale := { start.bale with decode := ([] : List DecodeReq) ++ ({ use := (1 : Fin 3), owner := (1 : BitVec 32), bytes := ([] : List Byte), lane := none } : DecodeReq) :: ([] : List DecodeReq) } }
      : State).bale.decode).getD (1 : Fin 8), ([] : List DecodeReq), ([] : List DecodeReq),
      ({ use := (1 : Fin 3), owner := (1 : BitVec 32), bytes := ([] : List Byte), lane := none } : DecodeReq), ?_⟩
    decide +kernel
  · refine ⟨start, (1 : Fin 8), ?_⟩
    decide +kernel
  · refine
      ⟨{ start with bale := { start.bale with decode := [({ use := 1, owner := 5, bytes := le 1 1 ++ le 1 0 ++ le 2 0 ++ le 4 4 ++ le 4 4 ++ le 4 (crc32c [1, 2, 3, 4]).toNat ++ [1, 2, 3, 4], lane := some (3 : Fin 8) } : DecodeReq)] } },
      3,
      { use := 1, owner := 5, bytes := le 1 1 ++ le 1 0 ++ le 2 0 ++ le 4 4 ++ le 4 4 ++ le 4 (crc32c [1, 2, 3, 4]).toNat ++ [1, 2, 3, 4], lane := some (3 : Fin 8) },
      okVal (decodeBale
      (({ use := 1, owner := 5, bytes := le 1 1 ++ le 1 0 ++ le 2 0 ++ le 4 4 ++ le 4 4 ++ le 4 (crc32c [1, 2, 3, 4]).toNat ++ [1, 2, 3, 4], lane := some (3 : Fin 8) }
      : DecodeReq).use == 2)
      ({ use := 1, owner := 5, bytes := le 1 1 ++ le 1 0 ++ le 2 0 ++ le 4 4 ++ le 4 4 ++ le 4 (crc32c [1, 2, 3, 4]).toNat ++ [1, 2, 3, 4], lane := some (3 : Fin 8) }
      : DecodeReq).bytes), ?_⟩
    decide +kernel
  · refine ⟨{ start with bale := { start.bale with decode := [({ use := 1, owner := 5, bytes := [1, 2], lane := some (3 : Fin 8) } : DecodeReq)] } }, 3,
      { use := 1, owner := 5, bytes := [1, 2], lane := some (3 : Fin 8) }, errCode (decodeBale
      (({ use := 1, owner := 5, bytes := [1, 2], lane := some (3 : Fin 8) } : DecodeReq).use == 2)
      ({ use := 1, owner := 5, bytes := [1, 2], lane := some (3 : Fin 8) } : DecodeReq).bytes), ?_⟩
    decide +kernel
  · refine
        ⟨{ start with ep := { start.ep with count := 100000 }, streams := (start.streams.set (1 : Fin 256) { start.streams[(1 : Fin 256)] with bale := some ({ bytes := [1], first := 0, firstShot := 0 } : OpenBale) }), book := { start.book with unread := [] } },
        1, ({ bytes := [1], first := 0, firstShot := 0 } : OpenBale), ?_⟩
    decide +kernel
  · refine
        ⟨{ start with ep := { start.ep with count := ((start.u (Obj.STREAM.BALE_MS (1 : Fin 256)) + 50) * 3200000 + 1) }, streams := (start.streams.set (1 : Fin 256) { start.streams[(1 : Fin 256)] with bale := some ({ bytes := [1], first := 0, firstShot := 0 } : OpenBale) }), book := { start.book with unread := [] } },
        1, ({ bytes := [1], first := 0, firstShot := 0 } : OpenBale), ?_⟩
    decide +kernel
  · refine
        ⟨{ start with streams := start.streams.set (1 : Fin 256) { start.streams[(1 : Fin 256)] with queue := [({ bytes := [1], firstFrag := false, seq := (1 : BitVec 32), total := 1 } : Fragment)] } },
        1, ({ bytes := [1], firstFrag := false, seq := (1 : BitVec 32), total := 1 } : Fragment), [], ?_⟩
    decide +kernel
  · refine ⟨((start.put (Obj.STREAM.IFACE (1 : Fin 256)) 0 |>.put (Obj.STREAM.CREDIT (1 : Fin 256)) 0) |> fun (s : State) =>
        { s with eth := s.eth.set 0 { s.eth[0] with up := true }, streams := s.streams.set (1 : Fin 256) { s.streams[(1 : Fin 256)] with queue := [({ bytes := [1], firstFrag := false, seq := (1 : BitVec 32), total := 1 } : Fragment)], bucket := 3200000000 } }
        : State), 1, ({ bytes := [1], firstFrag := false, seq := (1 : BitVec 32), total := 1 } : Fragment), [], 0, ?_⟩
    decide +kernel

theorem clause_RequestsAndWrites_10 :
    ∃ (s : State) (t : State) (x : Session) (r : Req) (idx : BitVec 16) (row : ObjRow) (u : State), gate s 0x11 r (le 2 idx.toNat ++ [0xFE] ++ le 1
      Ty.u8.code ++ [1]) = .go t x ∧ lookup t idx.toNat 0xFE = .ok row ∧ row.acc = .wo ∧ row.ty = .u8 ∧ row.level ≤ x.level ∧ (groupsOf
      idx.toNat).any t.isApplying = false ∧ standby t = false ∧ u = t.judgeSets idx.toNat 0 ∧ applyCode t idx.toNat = 0 ∧ 0x3000 ≤ idx.toNat ∧
      idx.toNat < 0x5110 ∧ ¬(0x4000 ≤ idx.toNat ∧ idx.toNat < 0x4800 ∧ 0x10 ≤ idx.toNat % 256 ∧ idx.toNat % 256 < 0x18) := by
  exact ⟨RSb start, (heardAs ((RSb start)) rq ses), ses, rq, 0x5000, okRow (lookup (heardAs ((RSb start)) rq ses : State) (0x5000 : BitVec 16).toNat 0xFE),
      (heardAs ((RSb start)) rq ses : State).judgeSets (0x5000 : BitVec 16).toNat 0, gate_go (by decide +kernel), by decide +kernel, by decide +kernel,
      by decide +kernel, by decide +kernel, by decide +kernel, by decide +kernel, rfl, by decide +kernel⟩

theorem clause_RequestsAndWrites_11 :
    ∃ (s t : State) (x : Session) (r : Req) (idx : BitVec 16) (row : ObjRow) (u : State) (n : Port) (k : Fin 8), gate s 0x11 r (le 2 idx.toNat ++ [0xFE]
      ++ le 1 Ty.u8.code ++ [1]) = .go t x ∧ lookup t idx.toNat 0xFE = .ok row ∧ row.acc = .wo ∧ row.ty = .u8 ∧ row.level ≤ x.level ∧ (groupsOf
      idx.toNat).any t.isApplying = false ∧ standby t = false ∧ idx.toNat = 0x4010 + 0x100 * n.val + k.val ∧ u =
      { t.judgeSets idx.toNat 0 with ledger := { t.ledger with applying := t.ledger.applying ++ [⟨idx.toNat, x.id, BitVec.ofNat 32 (sourceWord r.path)⟩] } } ∧
      applyCode t idx.toNat = 0 := by
  exact ⟨RSb start, (heardAs ((RSb start)) rq ses), ses, rq, 0x4112, okRow (lookup (heardAs ((RSb start)) rq ses : State) (0x4112 : BitVec 16).toNat 0xFE),
      _, 1, 2, gate_go (by decide +kernel), by decide +kernel, by decide +kernel, by decide +kernel, by decide +kernel, by decide +kernel,
      by decide +kernel, by decide +kernel, rfl, by decide +kernel⟩

theorem witness_RequestsAndWrites :
    (∃ (s : State) (r : Req), taken s r.path r.session = false) ∧
    (∃ (s : State) (t : State) (x : Session) (r : Req) (idx : BitVec 16) (sub : BitVec 8) (ty : BitVec 8) (v : List Byte) (c : Nat), gate s 0x11 r (le
        2 idx.toNat ++ le 1 sub.toNat ++ le 1 ty.toNat ++ v) = .go t x ∧ lookup t idx.toNat sub.toNat = .error c ∧ c ≠ 0) ∧
    (∃ (s : State) (t : State) (x : Session) (r : Req) (idx : BitVec 16) (sub : BitVec 8) (ty : BitVec 8) (v : List Byte) (row : ObjRow), gate s 0x11
        r (le 2 idx.toNat ++ le 1 sub.toNat ++ le 1 ty.toNat ++ v) = .go t x ∧ lookup t idx.toNat sub.toNat = .ok row ∧ row.acc = .ro ∧ row.w1c = 0) ∧
    (∃ (s : State) (t : State) (x : Session) (r : Req) (idx : BitVec 16) (sub : BitVec 8) (ty : BitVec 8) (v : List Byte) (row : ObjRow), gate s 0x11
        r (le 2 idx.toNat ++ le 1 sub.toNat ++ le 1 ty.toNat ++ v) = .go t x ∧ lookup t idx.toNat sub.toNat = .ok row ∧ row.acc ≠ .ro ∧ x.level <
        row.level) ∧
    (∃ (s : State) (t : State) (x : Session) (r : Req) (idx : BitVec 16) (sub : BitVec 8) (ty : BitVec 8) (v : List Byte) (row : ObjRow), gate s 0x11
        r (le 2 idx.toNat ++ le 1 sub.toNat ++ le 1 ty.toNat ++ v) = .go t x ∧ lookup t idx.toNat sub.toNat = .ok row ∧ accessCode t x (idx.toNat *
        256 + sub.toNat) row ty.toNat v = 0 ∧ isBlob row.ty = false ∧ isW1c row = false ∧ inRange row (unreserved row (fromLe v)) = false ∧ sub ≠
        0xFE) ∧
    (∃ (s : State) (t : State) (x : Session) (r : Req) (idx : BitVec 16) (sub : BitVec 8) (ty : BitVec 8) (v : List Byte) (row : ObjRow) (key : Nat),
        gate s 0x11 r (le 2 idx.toNat ++ le 1 sub.toNat ++ le 1 ty.toNat ++ v) = .go t x ∧ lookup t idx.toNat sub.toNat = .ok row ∧ key = idx.toNat *
        256 + sub.toNat ∧ accessCode t x key row ty.toNat v = 0 ∧ effectCode t key row v true = 0 ∧ sub ≠ 0xFE ∧ enters key row = true ∧ isBlob row.ty
        = false) ∧
    (∃ (s : State) (t : State) (x : Session) (r : Req) (v : BitVec 32), gate s 0x11 r (le 2 0x2100 ++ le 1 4 ++ le 1 Ty.bits32.code ++ le 4 v.toNat) =
        .go t x ∧ t.u Obj.HEALTH.BOOT_STATE ≠ 4 ∧ 1 ≤ x.level ∧ transferTo t Obj.EPOCH.FLAGS.key = false) ∧
    (∃ (s : State) (t : State) (x : Session) (r : Req) (idx : BitVec 16) (row : ObjRow) (c : Nat), gate s 0x11 r (le 2 idx.toNat ++ [0xFE] ++ le 1
        Ty.u8.code ++ [1]) = .go t x ∧ lookup t idx.toNat 0xFE = .ok row ∧ row.acc = .wo ∧ row.ty = .u8 ∧ row.level ≤ x.level ∧ (groupsOf
        idx.toNat).any t.isApplying = false ∧ standby t = false ∧ c ≠ 0 ∧ applyCode t idx.toNat = c) ∧
    (∃ (s : State) (r : Req) (op : Nat) (b : List Byte), taken s r.path r.session = true ∧ clerksFull s = true) ∧
    (∃ (s : State) (r : Req) (op : Nat) (b : List Byte), heard s r.path r.session ∧ bodyGood op b.length = true ∧ sessionById (counted s r) r.session
        = none) ∧
    (∃ (s : State) (r : Req) (op : Nat) (b : List Byte) (x : Session), heard s r.path r.session ∧ bodyGood op b.length = true ∧ sessionById (counted s
        r) r.session = some x ∧ x.verifies (counted s r) op r b = true ∧ x.kept.find? (fun e => e.1 == r.seq) = none ∧ x.seq < r.seq.toNat) ∧
    (∃ (s : State) (r : Req) (op : Nat) (b : List Byte) (x : Session) (u : State), heard s r.path r.session ∧ bodyGood op b.length = true ∧
        sessionById (counted s r) r.session = some x ∧ x.verifies (counted s r) op r b = true ∧ x.kept.find? (fun e => e.1 == r.seq) = none ∧
        r.seq.toNat ≤ x.seq ∧ u = (counted s r).modSession x.id (fun y => { y with last := s.now })) ∧
    (∃ (s t : State) (x : Session) (r : Req) (idx : BitVec 16) (row : ObjRow), ∃ (u : State), gate s 0x11 r (le 2 idx.toNat ++ [0xFE] ++ le 1
        Ty.u8.code ++ [1]) = .go t x ∧ lookup t idx.toNat 0xFE = .ok row ∧ row.acc = .wo ∧ row.ty = .u8 ∧ row.level ≤ x.level ∧ (groupsOf
        idx.toNat).any t.isApplying = false ∧ standby t = false ∧ u = t.judgeSets idx.toNat 0 ∧ applyCode t idx.toNat = 0 ∧ 0x3000 ≤ idx.toNat ∧
        idx.toNat < 0x5110 ∧ ¬(0x4000 ≤ idx.toNat ∧ idx.toNat < 0x4800 ∧ 0x10 ≤ idx.toNat % 256 ∧ idx.toNat % 256 < 0x18)) ∧
    (∃ (s t : State) (x : Session) (r : Req) (idx : BitVec 16) (row : ObjRow), ∃ (u : State) (n : Port) (k : Fin 8), gate s 0x11 r (le 2 idx.toNat ++
        [0xFE] ++ le 1 Ty.u8.code ++ [1]) = .go t x ∧ lookup t idx.toNat 0xFE = .ok row ∧ row.acc = .wo ∧ row.ty = .u8 ∧ row.level ≤ x.level ∧
        (groupsOf idx.toNat).any t.isApplying = false ∧ standby t = false ∧ idx.toNat = 0x4010 + 0x100 * n.val + k.val ∧ u =
        { t.judgeSets idx.toNat 0 with ledger := { t.ledger with applying := t.ledger.applying ++ [⟨idx.toNat, x.id, BitVec.ofNat 32 (sourceWord r.path)⟩] } }
        ∧ applyCode t idx.toNat = 0) := by
  and_intros
  · refine ⟨start, rq, ?_⟩
    decide +kernel
  · exact ⟨RSb start, (heardAs ((RSb start)) rq ses), ses, rq, 0x1FFF, 1, (1 : BitVec 8), ([] : List Byte), errCode (lookup (heardAs ((RSb start)) rq ses : State)
        (0x1FFF : BitVec 16).toNat (1 : BitVec 8).toNat), gate_go (by decide +kernel), by decide +kernel⟩
  · exact ⟨RSb start, (heardAs ((RSb start)) rq ses), ses, rq, 0x2100, 1, 5, [], okRow (lookup (heardAs ((RSb start)) rq ses : State) (0x2100 : BitVec 16).toNat (1
        : BitVec 8).toNat), gate_go (by decide +kernel), by decide +kernel⟩
  · exact ⟨RSx start ({ ses with level := 0 } : Session), (heardAs ((RSx start ({ ses with level := 0 } : Session) : State)) rq ({ ses with level := 0 } :
        Session)), { ses with level := 0 }, rq, 0x2000, 1, 5, [], okRow (lookup (heardAs ((RSx start ({ ses with level := 0 } : Session) : State)) rq
        ({ ses with level := 0 } : Session) : State) (0x2000 : BitVec 16).toNat (1 : BitVec 8).toNat), gate_go (by decide +kernel), by
        decide +kernel⟩
  · exact ⟨RSb start, (heardAs ((RSb start)) rq ses), ses, rq, 0x1100, 2, BitVec.ofNat 8 ((okRow (lookup (heardAs ((RSb start)) rq ses : State) (0x1100 : BitVec
        16).toNat (2 : BitVec 8).toNat) : ObjRow).ty.code), [7], okRow (lookup (heardAs ((RSb start)) rq ses : State) (0x1100 : BitVec 16).toNat (2 :
        BitVec 8).toNat), gate_go (by decide +kernel), by decide +kernel⟩
  · exact ⟨RSb start, (heardAs ((RSb start)) rq ses), ses, rq, 0x2000, 1, BitVec.ofNat 8 ((okRow (lookup (heardAs ((RSb start)) rq ses : State) (0x2000 : BitVec
        16).toNat (1 : BitVec 8).toNat) : ObjRow).ty.code), le (okRow (lookup (heardAs ((RSb start)) rq ses : State) (0x2000 : BitVec 16).toNat (1 :
        BitVec 8).toNat) : ObjRow).ty.bytes 0, okRow (lookup (heardAs ((RSb start)) rq ses : State) (0x2000 : BitVec 16).toNat (1 : BitVec 8).toNat),
        (0x2000 : BitVec 16).toNat * 256 + (1 : BitVec 8).toNat, gate_go (by decide +kernel), by decide +kernel⟩
  · exact ⟨RSb start, (heardAs ((RSb start)) rq ses), ses, rq, 1, gate_go (by decide +kernel), by decide +kernel⟩
  · exact ⟨RSb { start with staged := rfSet (rfSet start.staged (Obj.CLOCKS.CLKMON_SRC).key 1) (Obj.CLOCKS.CLKMON_DIV).key 3 }, (heardAs ((RSb
        { start with staged := rfSet (rfSet start.staged (Obj.CLOCKS.CLKMON_SRC).key 1) (Obj.CLOCKS.CLKMON_DIV).key 3 } : State)) rq ses), ses, rq, 0x2000,
        okRow (lookup (heardAs ((RSb { start with staged := rfSet (rfSet start.staged (Obj.CLOCKS.CLKMON_SRC).key 1) (Obj.CLOCKS.CLKMON_DIV).key 3 } :
        State)) rq ses : State) (0x2000 : BitVec 16).toNat 0xFE), applyCode (heardAs ((RSb
        { start with staged := rfSet (rfSet start.staged (Obj.CLOCKS.CLKMON_SRC).key 1) (Obj.CLOCKS.CLKMON_DIV).key 3 } : State)) rq ses : State) (0x2000 :
        BitVec 16).toNat, gate_go (by decide +kernel), by decide +kernel⟩
  · refine ⟨crowded, rq, 4, [], ?_⟩
    decide +kernel
  · refine ⟨RSb start, { rq with session := 9 }, 4, [], ?_⟩
    unfold heard
    decide +kernel
  · refine ⟨RSb start, rq, 4, [], ses, ?_⟩
    unfold heard
    decide +kernel
  · exact ⟨RSx start ({ ses with seq := 5 } : Session), rq, 4, [], { ses with seq := 5 }, _, by unfold heard; decide +kernel, by decide +kernel,
        by decide +kernel, by decide +kernel, by decide +kernel, by decide +kernel, rfl⟩
  · exact clause_RequestsAndWrites_10
  · exact clause_RequestsAndWrites_11

/-- One byte of the checksum of R203. -/
def crcByte (c : BitVec 32) (b : Byte) : BitVec 32 := crcStep 8 (c ^^^ b.setWidth 32)

/-- The first 80 bytes of an image of R203 with no code: VERSION_OF_HEADER 1 and zeros. -/
def imageHead : List Byte := le 2 1 ++ List.replicate 8 0 ++ (List.replicate 10 0 ++ (List.replicate 10 0 ++ (List.replicate 10 0 ++ (List.replicate 10 0 ++
  (List.replicate 10 0 ++ (List.replicate 10 0 ++ List.replicate 10 0))))))

theorem crc_head : (le 2 1 ++ List.replicate 8 0).foldl crcByte 0xFFFFFFFF#32 = 0xD7747431#32 := by decide +kernel
theorem crc_zeros_a : (List.replicate 10 0).foldl crcByte 0xD7747431#32 = 0x74795E7C#32 := by decide +kernel
theorem crc_zeros_b : (List.replicate 10 0).foldl crcByte 0x74795E7C#32 = 0x0248020B#32 := by decide +kernel
theorem crc_zeros_c : (List.replicate 10 0).foldl crcByte 0x0248020B#32 = 0x7B605D09#32 := by decide +kernel
theorem crc_zeros_d : (List.replicate 10 0).foldl crcByte 0x7B605D09#32 = 0x815884D4#32 := by decide +kernel
theorem crc_zeros_e : (List.replicate 10 0).foldl crcByte 0x815884D4#32 = 0xD04F5E95#32 := by decide +kernel
theorem crc_zeros_f : (List.replicate 10 0).foldl crcByte 0xD04F5E95#32 = 0x8195CA49#32 := by decide +kernel
theorem crc_zeros_g : (List.replicate 10 0).foldl crcByte 0x8195CA49#32 = 0xD7F0730F#32 := by decide +kernel

theorem crc_image : crc32c imageHead = 0x280F8CF0#32 := by
  have h : imageHead.foldl crcByte 0xFFFFFFFF#32 = 0xD7F0730F#32 := by
    unfold imageHead
    rw [List.foldl_append, crc_head]
    rw [List.foldl_append, crc_zeros_a, List.foldl_append, crc_zeros_b, List.foldl_append, crc_zeros_c, List.foldl_append, crc_zeros_d,
      List.foldl_append, crc_zeros_e, List.foldl_append, crc_zeros_f, crc_zeros_g]
  show imageHead.foldl crcByte 0xFFFFFFFF#32 ^^^ 0xFFFFFFFF#32 = _
  rw [h]
  decide

/-- A whole image: the header and its CRC-32C, with no code. -/
def imageWhole : List Byte := imageHead ++ le 4 0x280F8CF0

theorem imageWhole_good : imageGood imageWhole = true := by
  have hl : codeLen imageWhole = 0 := by decide +kernel
  have ht : imageWhole.take 80 = imageHead := by decide +kernel
  unfold imageGood
  rw [hl, ht, crc_image]
  decide +kernel

theorem clause_HostCommands_6 :
    ∃ (s : State) (t : State) (x : Session) (r : Req) (g : Fin 16) (l : List Byte), wrote s t x r (0x5110 + g.val) 1 .blob l 2 ∧ imageGood l = true
      ∧ t.programs[g].placing = false ∧ imageSpare t g l = 0 ∧ t.u (Obj.PROGRAM_SLOT.USERS g) = 0 ∧ t.u Obj.TWIN.TWIN_EN = 0 := by
  exact ⟨RSb start, (heardAs ((RSb start)) rq ses), ses, rq, 1, imageWhole, wrote_ok (by decide +kernel),
    imageWhole_good, by decide +kernel⟩

theorem witness_HostCommands :
    (∃ (s : State) (t : State) (x : Session) (r : Req) (v : BitVec 64), wrote s t x r 0x2100 9 .u64 (le 8 v.toNat) 2) ∧
    (∃ (s : State) (t : State) (x : Session) (r : Req) (v : BitVec 32), wrote s t x r 0x2102 7 .i32 (le 4 v.toNat) 2) ∧
    (∃ (s : State) (t : State) (x : Session) (r : Req) (n : Port) (w : BitVec 32), wrote s t x r (0x3003 + 0x100 * n.val) 5 .u32 (le 4 w.toNat) 2 ∧
        t.ports[n].fctl.host.length < 16) ∧
    (∃ (s : State) (t : State) (x : Session) (r : Req) (n : Port) (w : BitVec 32), wrote s t x r (0x3003 + 0x100 * n.val) 5 .u32 (le 4 w.toNat) 2 ∧ 16
        ≤ t.ports[n].fctl.host.length) ∧
    (∃ (s : State) (t : State) (x : Session) (r : Req) (n : Port), wrote s t x r (0x3801 + 0x100 * n.val) 9 .u8 [1] 2) ∧
    (∃ (s : State) (t : State) (x : Session) (r : Req) (n : Port) (b : Fin 2), wrote s t x r (0x4800 + 0x100 * n.val) 5 .u8 (le 1 b.val) 2) ∧
    (∃ (s : State) (t : State) (x : Session) (r : Req) (g : Fin 16) (l : List Byte), wrote s t x r (0x5110 + g.val) 1 .blob l 2 ∧ imageGood l = false) ∧
    (∃ (s : State) (t : State) (x : Session) (r : Req) (v : BitVec 8), wrote s t x r 0x5280 8 .u8 (le 1 v.toNat) 2) ∧
    (∃ (s : State) (t : State) (x : Session) (r : Req) (v : BitVec 16), wrote s t x r 0x5280 9 .u16 (le 2 v.toNat) 2) ∧
    (∃ (s : State) (t : State) (x : Session) (r : Req) (v : BitVec 8), wrote s t x r 0x5280 9 .u16 (le 2 v.toNat) 2) ∧
    (∃ (g : Nat) (mode : Nat), g < 256 ∧ mode < 3) ∧
    (∃ (s : State) (t : State) (x : Session) (r : Req) (c : Fin 2) (lane : BitVec 8), wrote s t x r (0x7A41 + c.val) 7 .u8 (le 1 lane.toNat) 3 ∧
        lane.toNat ≤ 136 ∧ repairRefusal t c lane.toNat = 0) ∧
    (∃ (s : State) (t : State) (x : Session) (r : Req) (c : Fin 2) (lane : BitVec 8), wrote s t x r (0x7A41 + c.val) 7 .u8 (le 1 lane.toNat) 3 ∧
        lane.toNat ≤ 136 ∧ repairRefusal t c lane.toNat ≠ 0) ∧
    (∃ (s : State) (t : State) (x : Session) (r : Req), wrote s t x r 0x6300 0xC .u8 [1] 2 ∧ active t = true) ∧
    (∃ (s : State) (t : State) (x : Session) (r : Req) (id : BitVec 32), wrote s t x r 0x1280 3 .u32 (le 4 id.toNat) 3 ∧ id ≠ x.id) ∧
    (∃ (s : State) (t : State) (x : Session) (r : Req) (id : BitVec 32), wrote s t x r 0x1280 3 .u32 (le 4 id.toNat) 3 ∧ id = x.id) ∧
    (∃ (s : State) (t : State) (x : Session) (r : Req) (k : Fin 16) (m : List Byte), wrote s t x r (0x1200 + k.val) 1 .blob m 3 ∧ m.length = 32 ∧
        t.isApplying (0x1200 + k.val) = false) ∧
    (∃ (s : State) (t : State) (x : Session) (r : Req) (v : BitVec 32), wrote s t x r 0x7F00 4 .u32 (le 4 v.toNat) 0) ∧
    (∃ (s t : State) (x : Session) (r : Req) (g : Fin 16) (l : List Byte), wrote s t x r (0x5110 + g.val) 1 .blob l 2 ∧ imageGood l = true ∧
        t.programs[g].placing = false ∧ imageSpare t g l = 0 ∧ t.u (Obj.PROGRAM_SLOT.USERS g) = 0 ∧ t.u Obj.TWIN.TWIN_EN = 0) ∧
    (∃ (s t : State) (x : Session) (r : Req) (g : Fin 16) (l : List Byte), wrote s t x r (0x5110 + g.val) 1 .blob l 2 ∧ imageGood l = true ∧
        t.programs[g].placing = false ∧ imageSpare t g l ≠ 0) ∧
    (∃ (s t : State) (x : Session) (r : Req) (v : BitVec 16), wrote s t x r 0x5280 9 .u16 (le 2 v.toNat) 2 ∧ v.toNat / 256 % 4 ≠ 3) ∧
    (∃ (s t : State) (x : Session) (r : Req) (v : BitVec 16), wrote s t x r 0x5280 9 .u16 (le 2 v.toNat) 2 ∧ v.toNat / 256 % 4 = 3) := by
  and_intros
  · refine ⟨RSb start, (heardAs ((RSb start)) rq ses), ses, rq, (1 : BitVec 64), ?_⟩
    exact wrote_ok (by decide +kernel)
  · refine ⟨RSb start, (heardAs ((RSb start)) rq ses), ses, rq, (1 : BitVec 32), ?_⟩
    exact wrote_ok (by decide +kernel)
  · exact ⟨RSb start, (heardAs ((RSb start)) rq ses), ses, rq, (1 : Port), (1 : BitVec 32), wrote_ok (by decide +kernel), by decide +kernel⟩
  · exact ⟨RSb (start.modPort (1 : Port) (fun q => { q with fctl := { q.fctl with host := List.replicate 16 5 } })), (heardAs ((RSb (start.modPort (1 : Port)
        (fun q => { q with fctl := { q.fctl with host := List.replicate 16 5 } })) : State)) rq ses), ses, rq, 1, (1 : BitVec 32), wrote_ok (by
        decide +kernel), by decide +kernel⟩
  · refine ⟨RSb start, (heardAs ((RSb start)) rq ses), ses, rq, (1 : Port), ?_⟩
    exact wrote_ok (by decide +kernel)
  · refine ⟨RSb start, (heardAs ((RSb start)) rq ses), ses, rq, (1 : Port), (1 : Fin 2), ?_⟩
    exact wrote_ok (by decide +kernel)
  · exact ⟨RSb start, (heardAs ((RSb start)) rq ses), ses, rq, (1 : Fin 16), ([] : List Byte), wrote_ok (by decide +kernel), by decide +kernel⟩
  · refine ⟨RSb start, (heardAs ((RSb start)) rq ses), ses, rq, (1 : BitVec 8), ?_⟩
    exact wrote_ok (by decide +kernel)
  · refine ⟨RSb start, (heardAs ((RSb start)) rq ses), ses, rq, (1 : BitVec 16), ?_⟩
    exact wrote_ok (by decide +kernel)
  · refine ⟨RSb start, (heardAs ((RSb start)) rq ses), ses, rq, (1 : BitVec 8), ?_⟩
    exact wrote_ok (by decide +kernel)
  · refine ⟨0, 0, ?_⟩
    decide +kernel
  · exact ⟨RSb trainedOne, heardAs (RSb trainedOne) rq ses, ses, rq, (1 : Fin 2), (1 : BitVec 8), wrote_ok (by decide +kernel), by decide +kernel⟩
  · exact ⟨RSb (start.put (Obj.DRAM_CHANNEL.SPARES_FREE (1 : Fin 2)) 0), (heardAs ((RSb (start.put (Obj.DRAM_CHANNEL.SPARES_FREE (1 : Fin 2)) 0) : State)) rq
        ses), ses, rq, 1, 5, wrote_ok (by decide +kernel), by decide +kernel⟩
  · exact ⟨RSb (start.put Obj.TWIN.TWIN_EN 1 |>.put Obj.TWIN.ROLE 2), (heardAs ((RSb (start.put Obj.TWIN.TWIN_EN 1 |>.put Obj.TWIN.ROLE 2) : State)) rq ses),
        ses, rq, wrote_ok (by decide +kernel), by decide +kernel⟩
  · exact ⟨RSb start, (heardAs ((RSb start)) rq ses), ses, rq, (1 : BitVec 32), wrote_ok (by decide +kernel), by decide +kernel⟩
  · exact ⟨RSb start, (heardAs ((RSb start)) rq ses), ses, rq, ses.id, wrote_ok (by decide +kernel), by decide +kernel⟩
  · exact ⟨RSb start, (heardAs ((RSb start)) rq ses), ses, rq, 3, List.replicate 32 7, wrote_ok (by decide +kernel), by decide +kernel⟩
  · refine ⟨RSb start, (heardAs ((RSb start)) rq ses), ses, rq, (1 : BitVec 32), ?_⟩
    exact wrote_ok (by decide +kernel)
  · exact clause_HostCommands_6
  · exact ⟨RSb ((start.put (Obj.PROGRAM_SLOT.YARD_ALLOC 1) 4096).put (Obj.PROGRAM_SLOT.YARD_ALLOC 2) (2 ^ 31)), (heardAs ((RSb ((start.put (Obj.PROGRAM_SLOT.YARD_ALLOC 1) 4096).put (Obj.PROGRAM_SLOT.YARD_ALLOC 2) (2 ^ 31))))
        rq ses), ses, rq, 1, imageWhole, wrote_ok (by decide +kernel), imageWhole_good, by decide +kernel⟩
  · exact ⟨RSb start, (heardAs (RSb start) rq ses), ses, rq, (1 : BitVec 16), wrote_ok (by decide +kernel), by decide +kernel⟩
  · exact ⟨RSb start, (heardAs (RSb start) rq ses), ses, rq, (0x300 : BitVec 16), wrote_ok (by decide +kernel), by decide +kernel⟩

theorem clause_SessionsAndReads_1 :
    ∃ (s : State) (t : State) (r : Req) (slot : BitVec 8) (key : List Byte) (id : BitVec 32), heard s r.path 0 ∧ id ≠ 0 ∧ sessionById s id =
      none ∧ r.session = 0 ∧ r.seq = 0 ∧ r.tag = zeroTag ∧ t = counted s r ∧ slotKey t slot.toNat = some key ∧ t.ledger.sessions.length < 32 := by
  refine ⟨(RSb (start.put (Obj.KEY_SLOT.ENABLE 3) 1)) |> fun (s : State) => { s with ledger := { s.ledger with keys := [(3, List.replicate 32 7)] } },
    counted ((RSb (start.put (Obj.KEY_SLOT.ENABLE 3) 1)) |> fun (s : State) =>
    { s with ledger := { s.ledger with keys := [(3, List.replicate 32 7)] } } : State) ({ rq with session := 0, seq := 0, tag := zeroTag } : Req),
    { rq with session := 0, seq := 0, tag := zeroTag }, 3, List.replicate 32 7, 99, ?_⟩
  unfold heard; decide +kernel

theorem clause_SessionsAndReads_2 :
    ∃ (s : State) (t : State) (r : Req) (slot : BitVec 8) (id : BitVec 32), heard s r.path 0 ∧ id ≠ 0 ∧ sessionById s id = none ∧ r.session =
      0 ∧ r.seq = 0 ∧ r.tag = zeroTag ∧ t = counted s r ∧ slotKey t slot.toNat = none ∧ t.u Obj.LEDGER_UDP.ANON_OBSERVE = 0 := by
  refine ⟨(RSb (start.put (Obj.KEY_SLOT.ENABLE 4) 0 |>.put Obj.LEDGER_UDP.ANON_OBSERVE 0)), counted (RSb (start.put (Obj.KEY_SLOT.ENABLE 4) 0 |>.put
    Obj.LEDGER_UDP.ANON_OBSERVE 0) : State) ({ rq with session := 0, seq := 0, tag := zeroTag } : Req),
    { rq with session := 0, seq := 0, tag := zeroTag }, 4, 99, by unfold heard; decide +kernel, by decide, ?_⟩
  exact ⟨by decide +kernel, rfl, rfl, rfl, rfl, by decide +kernel⟩

theorem clause_SessionsAndReads_3 :
    ∃ (s : State) (t : State) (r : Req) (proof : List Byte) (k : List Byte) (x : Session), heard s r.path r.session ∧ sessionById s r.session
      = some x ∧ x.authed = false ∧ x.path.same r.path = true ∧ t = counted s r ∧ slotKey t x.slot.toNat = some k ∧ requestTag t x.key 2 r (padTo 32 proof) =
      r.tag ∧ r.seq ≠ 0 ∧ sessionHmac k 0x41 x = proof := by
  refine ⟨keyedState, Sys2Proof.counted keyedState (keyedReq (sessionHmac (List.replicate 32 7) 0x41 keyed)), keyedReq (sessionHmac
    (List.replicate 32 7) 0x41 keyed), sessionHmac (List.replicate 32 7) 0x41 keyed, List.replicate 32 7, keyed, ?_⟩
  unfold heard; decide +kernel

theorem clause_SessionsAndReads_4 :
    ∃ (s : State) (t : State) (r : Req) (proof : List Byte) (k : List Byte) (x : Session), heard s r.path r.session ∧ sessionById s r.session
      = some x ∧ x.authed = false ∧ x.path.same r.path = true ∧ t = counted s r ∧ slotKey t x.slot.toNat = some k ∧ requestTag t x.key 2 r (padTo 32 proof) =
      r.tag ∧ r.seq ≠ 0 ∧ sessionHmac k 0x41 x ≠ proof := by
  refine ⟨keyedState, Sys2Proof.counted keyedState (keyedReq ([1])), keyedReq ([1]), [1], List.replicate 32 7, keyed, ?_⟩
  unfold heard; decide +kernel

theorem witness_SessionsAndReads :
    (∃ (s : State) (r : Req), taken s r.path 0 = false) ∧
    (∃ (s : State) (t : State) (r : Req) (slot : BitVec 8) (key : List Byte) (id : BitVec 32), heard s r.path 0 ∧ id ≠ 0 ∧ sessionById s id =
      none ∧ r.session = 0 ∧ r.seq = 0 ∧ r.tag = zeroTag ∧ t = counted s r ∧ slotKey t slot.toNat = some key ∧ t.ledger.sessions.length < 32) ∧
    (∃ (s : State) (t : State) (r : Req) (slot : BitVec 8) (id : BitVec 32), heard s r.path 0 ∧ id ≠ 0 ∧ sessionById s id = none ∧ r.session
      = 0 ∧ r.seq = 0 ∧ r.tag = zeroTag ∧ t = counted s r ∧ slotKey t slot.toNat = none ∧ t.u Obj.LEDGER_UDP.ANON_OBSERVE = 0) ∧
    (∃ (s : State) (t : State) (r : Req) (proof : List Byte) (k : List Byte) (x : Session), heard s r.path r.session ∧ sessionById s
      r.session = some x ∧ x.authed = false ∧ x.path.same r.path = true ∧ t = counted s r ∧ slotKey t x.slot.toNat = some k ∧ requestTag t x.key 2 r (padTo 32
      proof) = r.tag ∧ r.seq ≠ 0 ∧ sessionHmac k 0x41 x = proof) ∧
    (∃ (s : State) (t : State) (r : Req) (proof : List Byte) (k : List Byte) (x : Session), heard s r.path r.session ∧ sessionById s
      r.session = some x ∧ x.authed = false ∧ x.path.same r.path = true ∧ t = counted s r ∧ slotKey t x.slot.toNat = some k ∧ requestTag t x.key 2 r (padTo 32
      proof) = r.tag ∧ r.seq ≠ 0 ∧ sessionHmac k 0x41 x ≠ proof) ∧
    (∃ (s : State) (t : State) (r : Req) (x : Session), gate s 3 r [] = .go t x) ∧
    (∃ (s : State) (t : State) (r : Req) (x : Session), gate s 4 r [] = .go t x) ∧
    (∃ (s : State) (id : BitVec 32) (x : Session), sessionById s id = some x ∧ x.authed = true) ∧
    (∃ (s : State) (id : BitVec 32) (x : Session), sessionById s id = some x ∧ x.authed = false) ∧
    (∃ (s : State), (∀ k : Fin 256, s.streams[k].bySubscribe = false)) ∧
    (∃ (s : State) (t : State) (x : Session) (r : Req) (idx : BitVec 16) (sub : BitVec 8) (staged : Bool) (row : ObjRow), asked s t x r idx.toNat
      sub.toNat staged ∧ lookup t idx.toNat sub.toNat = .ok row ∧ row.acc ≠ .wo ∧ isBlob row.ty = false) ∧
    (∃ (s : State) (t : State) (x : Session) (r : Req) (idx : BitVec 16) (sub : BitVec 8) (staged : Bool) (row : ObjRow), asked s t x r idx.toNat
      sub.toNat staged ∧ lookup t idx.toNat sub.toNat = .ok row ∧ row.acc = .wo) ∧
    (∃ (s : State) (t : State) (x : Session) (r : Req), asked s t x r 0x7F00 5 false) ∧
    (∃ (s : State) (t : State) (x : Session) (r : Req) (n : Port), asked s t x r (0x3803 + 0x100 * n.val) 6 false) ∧
    (∃ (s : State) (t : State) (x : Session) (r : Req), asked s t x r 0x6100 6 false) ∧
    (∃ (s : State) (t : State) (x : Session) (r : Req), asked s t x r 0x7A00 9 false) := by
  and_intros
  · refine ⟨start, rq, ?_⟩
    decide +kernel
  · exact clause_SessionsAndReads_1
  · exact clause_SessionsAndReads_2
  · exact clause_SessionsAndReads_3
  · exact clause_SessionsAndReads_4
  · refine ⟨RSb start, (heardAs ((RSb start)) rq ses), rq, ses, ?_⟩
    exact gate_go (by decide +kernel)
  · refine ⟨RSb start, (heardAs ((RSb start)) rq ses), rq, ses, ?_⟩
    exact gate_go (by decide +kernel)
  · refine ⟨RSx start ({ ses with authed := true } : Session), 7, { ses with authed := true }, ?_⟩
    decide +kernel
  · refine ⟨RSx start ({ ses with authed := false } : Session), 7, { ses with authed := false }, ?_⟩
    decide +kernel
  · refine ⟨start, ?_⟩
    decide +kernel
  · exact ⟨RSb start, (heardAs ((RSb start)) rq ses), ses, rq, 0x2000, 1, false, okRow (lookup (heardAs ((RSb start)) rq ses : State) (0x2000 : BitVec 16).toNat (1
        : BitVec 8).toNat), asked_ok (by decide +kernel), by decide +kernel⟩
  · exact ⟨RSb start, (heardAs ((RSb start)) rq ses), ses, rq, 0x2000, 0xFE, false, okRow (lookup (heardAs ((RSb start)) rq ses : State) (0x2000 : BitVec 16).toNat
        (0xFE : BitVec 8).toNat), asked_ok (by decide +kernel), by decide +kernel⟩
  · refine ⟨RSb start, (heardAs ((RSb start)) rq ses), ses, rq, ?_⟩
    exact asked_ok (by decide +kernel)
  · refine ⟨RSb start, (heardAs ((RSb start)) rq ses), ses, rq, (1 : Port), ?_⟩
    exact asked_ok (by decide +kernel)
  · refine ⟨RSb start, (heardAs ((RSb start)) rq ses), ses, rq, ?_⟩
    exact asked_ok (by decide +kernel)
  · refine ⟨RSb start, (heardAs ((RSb start)) rq ses), ses, rq, ?_⟩
    exact asked_ok (by decide +kernel)

theorem witness_TransfersAndRoutes :
    (∃ (s : State) (t : State) (x : Session) (r : Req) (idx : BitVec 16) (sub : BitVec 8) (bale : Bool) (total : BitVec 32) (row : ObjRow) (c : Nat),
        gate s 0x12 r (le 2 idx.toNat ++ le 1 sub.toNat ++ le 1 (if bale then 1 else 0) ++ le 4 total.toNat) = .go t x ∧ lookup t idx.toNat sub.toNat
        = .ok row ∧ c ≠ 0 ∧ beginCode t x (idx.toNat * 256 + sub.toNat) row bale total.toNat = c) ∧
    (∃ (s : State) (t : State) (x : Session) (r : Req) (off : BitVec 32) (b : List Byte), gate s 0x13 r (le 4 off.toNat ++ b) = .go t x ∧ x.transfer =
        none) ∧
    (∃ (s : State) (t : State) (x : Session) (r : Req) (off : BitVec 32) (b : List Byte) (y : Transfer), gate s 0x13 r (le 4 off.toNat ++ b) = .go t x
        ∧ x.transfer = some y ∧ y.bale = false ∧ y.requested = none ∧ y.key ≠ fwImageKey ∧ off.toNat = y.bytes.length ∧ y.bytes.length + b.length ≤
        y.total ∧ t.bale.decode.length ≤ 64) ∧
    (∃ (s : State) (t : State) (x : Session) (r : Req) (off : BitVec 32) (b : List Byte) (y : Transfer), gate s 0x13 r (le 4 off.toNat ++ b) = .go t x
        ∧ x.transfer = some y ∧ off.toNat ≠ y.bytes.length) ∧
    (∃ (s : State) (t : State) (x : Session) (r : Req) (crc : BitVec 32) (y : Transfer), gate s 0x14 r (le 4 crc.toNat) = .go t x ∧ x.transfer = some
        y ∧ y.requested = none ∧ y.bytes.length < y.total) ∧
    (∃ (s : State) (t : State) (x : Session) (r : Req) (crc : BitVec 32) (y : Transfer), gate s 0x14 r (le 4 crc.toNat) = .go t x ∧ x.transfer = some
        y ∧ y.requested = none ∧ y.total ≤ y.bytes.length ∧ crc32c y.bytes ≠ crc) ∧
    (∃ (s : State) (t : State) (x : Session) (r : Req) (crc : BitVec 32) (y : Transfer), gate s 0x14 r (le 4 crc.toNat) = .go t x ∧ x.transfer = some
        y ∧ y.requested = none ∧ y.total ≤ y.bytes.length ∧ crc32c y.bytes = crc ∧ y.bale = false ∧ y.failed = none) ∧
    (∃ (s : State) (t : State) (x : Session) (r : Req) (idx : BitVec 16) (sub : BitVec 8) (off : BitVec 32) (max : BitVec 16) (e : Nat × List Byte)
        (row : ObjRow), gate s 0x15 r (le 2 idx.toNat ++ le 1 sub.toNat ++ le 1 0 ++ le 4 off.toNat ++ le 2 max.toNat) = .go t x ∧ lookup t idx.toNat
        sub.toNat = .ok row ∧ row.acc ≠ .wo ∧ isBlob row.ty = true ∧ 0 < max.toNat ∧ max.toNat ≤ 1400 ∧ off ≠ 0 ∧ x.snapshot = some e ∧ e.1 =
        idx.toNat * 256 + sub.toNat) ∧
    (∃ (s : State) (src : Source), (sourceRec s src).limited = false) ∧
    (∃ (s : State) (src : Source), (sourceRec s src).limited = true) ∧
    (∃ (s : State) (id : BitVec 29), canForUs s id = false) ∧
    (∃ (s : State) (id : BitVec 29) (pci : Byte), canForUs s id = true ∧ (∀ e ∈ s.can.partials, e.1 ≠ Fin.ofNat 16 (id.toNat / 2 ^ 19)) ∧ pci = 0x80) ∧
    (∃ (s : State) (id : BitVec 29) (l : List Byte) (chan : Fin 16), canForUs s id = true ∧ chan = Fin.ofNat 16 (id.toNat / 2 ^ 19) ∧ s.can.partials =
        [(chan, l, 1)]) ∧
    (∃ (s : State) (c : Fin 16), (∀ e ∈ s.can.partials, e.1 ≠ c)) ∧
    (∃ (s : State) (c : Fin 16) (l : List Byte) (n : Nat), (c, l, n) ∈ s.can.partials) ∧
    (∃ (s : State), s.u Obj.CAN.CAN_EN = 1 ∧ s.can.busOff = false) ∧
    (∃ (s : State), s.can.busOff = true) ∧
    (∃ (s : State) (p : Path), taken s p 0 = false) ∧
    (∃ (s : State) (p : Path) (b : List Byte), taken s p 0 = true ∧ b.length < 32) ∧
    (∃ (s : State) (k : SummaryKey), summaryOf s k = none) ∧
    (∃ (s : State) (k : SummaryKey) (r : SummaryRec), summaryOf s k = some r ∧ r.count = 0) ∧
    (∃ (s : State) (k : SummaryKey) (r : SummaryRec), summaryOf s k = some r ∧ r.count ≠ 0) ∧
    (∃ (s : State) (stream : Fin 256) (d : List Byte) (origin : BitVec 11) (no : BitVec 32), origin = BitVec.ofNat 11 (fromLe (slice d 6 2)) ∧ no =
        BitVec.ofNat 32 (fromLe (slice d 12 4))) ∧
    (∃ (s t : State) (x : Session) (r : Req) (idx : BitVec 16) (sub : BitVec 8) (bale : Bool) (total : BitVec 32) (row : ObjRow), ∃ (u : State), gate
        s 0x12 r (le 2 idx.toNat ++ le 1 sub.toNat ++ le 1 (if bale then 1 else 0) ++ le 4 total.toNat) = .go t x ∧ lookup t idx.toNat sub.toNat = .ok
        row ∧ u = t.modSession x.id (fun y =>
        { y with transfer := some { serial := t.ledger.serial, key := idx.toNat * 256 + sub.toNat, bale := bale, total := total.toNat } }) ∧ beginCode
        t x (idx.toNat * 256 + sub.toNat) row bale total.toNat = 0 ∧ idx.toNat * 256 + sub.toNat ≠ fwImageKey) ∧
    (∃ (s : State) (p : Path) (m : List Byte), (m.length < 32 ∨ (fromLe (slice m 12 2)).testBit 15 = false)) ∧
    (∃ (s : State) (p : Path) (m : List Byte), 32 ≤ m.length ∧ (fromLe (slice m 12 2)).testBit 15 = true ∧ taken s p 0 = false) ∧
    (∃ (s : State) (p : Path) (m : List Byte), 32 ≤ m.length ∧ (fromLe (slice m 12 2)).testBit 15 = true ∧ heard s p 0 ∧ BitVec.ofNat 11 (fromLe
        (slice m 12 2)) ≠ ownId s) ∧
    (∃ (s t : State) (p : Path) (target : BitVec 11) (m : List Byte), heard s p 0 ∧ target ≠ ownId s ∧ 32 ≤ m.length ∧ t = s.takeUp p 0 ∧ holds t
        target = false) ∧
    (∃ (s t : State) (p : Path) (target : BitVec 11) (m : List Byte), heard s p 0 ∧ target ≠ ownId s ∧ 32 ≤ m.length ∧ t = s.takeUp p 0 ∧ holds t
        target = true) ∧
    (∃ (s : State) (target : BitVec 11) (q : BitVec 32) (m : List Byte), (∀ f ∈ s.ledger.forwards, f.answeredBy target q m = false)) ∧
    (∃ (s : State) (f : ForwardRec) (m : List Byte), s.ledger.forwards = [f] ∧ f.op = fromLe (slice m 1 1) % 128 ∧ (f.op = 1 ∨ f.session = sessionOf
        m)) ∧
    (∃ (s : State) (src : BitVec 11) (q : BitVec 32), (∀ e ∈ s.cluster.partials, ¬(e.1 = src ∧ e.2.1 = q))) ∧
    (∃ (s : State) (src : BitVec 11) (q : BitVec 32), (∃ e ∈ s.cluster.partials, e.1 = src ∧ e.2.1 = q)) ∧
    (∃ (s : State) (k : Fin 4) (f : List Byte) (ce : Nat) (q : List Nat), linkUp s k = true ∧ headerGood f = false) ∧
    (∃ (s : State) (k : Fin 4) (f : List Byte) (ce : Nat) (q : List Nat), linkUp s k = true ∧ headerGood f = true ∧ (arrivalOf k f ce q).fseq =
        s.links[k].last + 1) ∧
    (∃ (s : State) (k : Fin 4) (f : List Byte) (q : List Nat) (dest src : BitVec 11), dest = BitVec.ofNat 11 (fromLe (slice f 2 2)) ∧ src =
        BitVec.ofNat 11 (fromLe (slice f 4 2)) ∧ dest = ownId s ∧ fromLe (f.take 1) = 33 ∧ q = []) ∧
    (∃ (s t : State) (a : Arrival) (stream : Fin 256) (dest : BitVec 128) (port : BitVec 16) (d : List Byte) (dg : List (List Byte)), linkUp s a.link
        = true ∧ a.fseq = s.links[a.link].last + 1 ∧ t = (s.acceptFrame a 3).peerNumbered stream d ∧ (inFragOrder (d :: dg) = none ∨ a.poisoned ≠ [])) ∧
    (∃ (s t : State) (a : Arrival) (stream : Fin 256) (dest : BitVec 128) (port : BitVec 16) (d : List Byte) (dg : List (List Byte)), ∃ (l : List
        (List Byte)), linkUp s a.link = true ∧ a.fseq = s.links[a.link].last + 1 ∧ t = (s.acceptFrame a 3).peerNumbered stream d ∧ inFragOrder (d ::
        dg) = some l ∧ a.poisoned = [] ∧ s.bale.decode.length < 64) ∧
    (∃ (s t : State) (a : Arrival) (stream : Fin 256) (dest : BitVec 128) (port : BitVec 16) (d : List Byte) (dg : List (List Byte)), ∃ (l : List
        (List Byte)), linkUp s a.link = true ∧ a.fseq = s.links[a.link].last + 1 ∧ t = (s.acceptFrame a 3).peerNumbered stream d ∧ inFragOrder (d ::
        dg) = some l ∧ a.poisoned = [] ∧ 64 ≤ s.bale.decode.length) ∧
    (∃ (l m : List (List Byte)), inFragOrder l = some m) ∧
    (∃ (l m : List (List Byte)), ∃ (i : Nat) (h : i < m.length), inFragOrder l = some m) ∧
    (∃ (s : State) (k : Fin 4) (f : List Byte) (q : List Nat) (dest src : BitVec 11), dest = BitVec.ofNat 11 (fromLe (slice f 2 2)) ∧ src =
        BitVec.ofNat 11 (fromLe (slice f 4 2)) ∧ dest ≠ ownId s) := by
  and_intros
  · exact ⟨RSb start, (heardAs ((RSb start)) rq ses), ses, rq, 0x2000, 1, false, 8, okRow (lookup (heardAs ((RSb start)) rq ses : State) (0x2000 : BitVec 16).toNat
        (1 : BitVec 8).toNat), beginCode (heardAs ((RSb start)) rq ses : State) ses ((0x2000 : BitVec 16).toNat * 256 + (1 : BitVec 8).toNat) (okRow
        (lookup (heardAs ((RSb start)) rq ses : State) (0x2000 : BitVec 16).toNat (1 : BitVec 8).toNat) : ObjRow) false (8 : BitVec 32).toNat, gate_go
        (by decide +kernel), by decide +kernel⟩
  · exact ⟨RSb start, (heardAs ((RSb start)) rq ses), ses, rq, 0, [1], gate_go (by decide +kernel), by decide +kernel⟩
  · exact ⟨RSx start ({ ses with transfer := some ({ key := 0x511101, bale := false, total := 9, bytes := [1, 2] } : Transfer) } : Session), (heardAs ((RSx
        start ({ ses with transfer := some ({ key := 0x511101, bale := false, total := 9, bytes := [1, 2] } : Transfer) } : Session) : State)) rq
        ({ ses with transfer := some ({ key := 0x511101, bale := false, total := 9, bytes := [1, 2] } : Transfer) } : Session)),
        { ses with transfer := some ({ key := 0x511101, bale := false, total := 9, bytes := [1, 2] } : Transfer) }, rq, 2, [3],
        { key := 0x511101, bale := false, total := 9, bytes := [1, 2] }, gate_go (by decide +kernel), by decide +kernel⟩
  · exact ⟨RSx start ({ ses with transfer := some ({ key := 0x511101, bale := false, total := 9, bytes := [1, 2] } : Transfer) } : Session), (heardAs ((RSx
        start ({ ses with transfer := some ({ key := 0x511101, bale := false, total := 9, bytes := [1, 2] } : Transfer) } : Session) : State)) rq
        ({ ses with transfer := some ({ key := 0x511101, bale := false, total := 9, bytes := [1, 2] } : Transfer) } : Session)),
        { ses with transfer := some ({ key := 0x511101, bale := false, total := 9, bytes := [1, 2] } : Transfer) }, rq, 3, [3],
        { key := 0x511101, bale := false, total := 9, bytes := [1, 2] }, gate_go (by decide +kernel), by decide +kernel⟩
  · exact ⟨RSx start ({ ses with transfer := some ({ key := 0x511101, bale := false, total := 9, bytes := [1, 2] } : Transfer) } : Session), (heardAs ((RSx
        start ({ ses with transfer := some ({ key := 0x511101, bale := false, total := 9, bytes := [1, 2] } : Transfer) } : Session) : State)) rq
        ({ ses with transfer := some ({ key := 0x511101, bale := false, total := 9, bytes := [1, 2] } : Transfer) } : Session)),
        { ses with transfer := some ({ key := 0x511101, bale := false, total := 9, bytes := [1, 2] } : Transfer) }, rq, 7,
        { key := 0x511101, bale := false, total := 9, bytes := [1, 2] }, gate_go (by decide +kernel), by decide +kernel⟩
  · exact ⟨RSx start ({ ses with transfer := some ({ key := 0x511101, bale := false, total := 2, bytes := [1, 2] } : Transfer) } : Session), (heardAs ((RSx
        start ({ ses with transfer := some ({ key := 0x511101, bale := false, total := 2, bytes := [1, 2] } : Transfer) } : Session) : State)) rq
        ({ ses with transfer := some ({ key := 0x511101, bale := false, total := 2, bytes := [1, 2] } : Transfer) } : Session)),
        { ses with transfer := some ({ key := 0x511101, bale := false, total := 2, bytes := [1, 2] } : Transfer) }, rq, 7,
        { key := 0x511101, bale := false, total := 2, bytes := [1, 2] }, gate_go (by decide +kernel), by decide +kernel⟩
  · exact ⟨RSx start ({ ses with transfer := some ({ key := 0x511101, bale := false, total := 2, bytes := [1, 2] } : Transfer) } : Session), (heardAs ((RSx
        start ({ ses with transfer := some ({ key := 0x511101, bale := false, total := 2, bytes := [1, 2] } : Transfer) } : Session) : State)) rq
        ({ ses with transfer := some ({ key := 0x511101, bale := false, total := 2, bytes := [1, 2] } : Transfer) } : Session)),
        { ses with transfer := some ({ key := 0x511101, bale := false, total := 2, bytes := [1, 2] } : Transfer) }, rq, crc32c [1, 2],
        { key := 0x511101, bale := false, total := 2, bytes := [1, 2] }, gate_go (by decide +kernel), by decide +kernel⟩
  · exact ⟨RSx start ({ ses with snapshot := some ((0x112008, [1, 2]) : Nat × List Byte) } : Session), (heardAs ((RSx start
        ({ ses with snapshot := some ((0x112008, [1, 2]) : Nat × List Byte) } : Session) : State)) rq
        ({ ses with snapshot := some ((0x112008, [1, 2]) : Nat × List Byte) } : Session)),
        { ses with snapshot := some ((0x112008, [1, 2]) : Nat × List Byte) }, rq, 0x1120, 8, 1, 100, (0x112008, [1, 2]), okRow (lookup (heardAs
        ((RSx start ({ ses with snapshot := some ((0x112008, [1, 2]) : Nat × List Byte) } : Session) : State)) rq
        ({ ses with snapshot := some ((0x112008, [1, 2]) : Nat × List Byte) } : Session) : State) (0x1120 : BitVec 16).toNat (8 : BitVec 8).toNat),
        gate_go (by decide +kernel), by decide +kernel⟩
  · refine ⟨start, Source.fabric, ?_⟩
    decide +kernel
  · refine ⟨start.putSource { src := (Source.session 7 : Source), limited := true }, Source.session 7, ?_⟩
    decide +kernel
  · refine ⟨start, (1 : BitVec 29), ?_⟩
    decide +kernel
  · refine ⟨((start.put Obj.CAN.CAN_EN 1 |>.put Obj.CAN.LEDGER_EN 1) |> fun (s : State) =>
      { s with can := { s.can with busOff := false, partials := [] } }), BitVec.ofNat 29 (((start.put Obj.CAN.CAN_EN 1 |>.put Obj.CAN.LEDGER_EN 1) |>
      fun (s : State) => { s with can := { s.can with busOff := false, partials := [] } } : State).u Obj.CAN.CAN_BASE * 2 ^ 24 + 3 * 2 ^ 19 + (ownId
      ((start.put Obj.CAN.CAN_EN 1 |>.put Obj.CAN.LEDGER_EN 1) |> fun (s : State) => { s with can := { s.can with busOff := false, partials := [] } } :
      State)).toNat), 0x80, ?_⟩
    decide +kernel
  · refine ⟨((start.put Obj.CAN.CAN_EN 1 |>.put Obj.CAN.LEDGER_EN 1) |> fun (s : State) =>
      { s with can := { s.can with busOff := false, partials := [(3, ([1,2] : List Byte), 1)] } }), BitVec.ofNat 29 (((start.put Obj.CAN.CAN_EN 1 |>.put
      Obj.CAN.LEDGER_EN 1) |> fun (s : State) => { s with can := { s.can with busOff := false, partials := [(3, ([1,2] : List Byte), 1)] } } :
      State).u Obj.CAN.CAN_BASE * 2 ^ 24 + 3 * 2 ^ 19 + (ownId ((start.put Obj.CAN.CAN_EN 1 |>.put Obj.CAN.LEDGER_EN 1) |> fun (s : State) =>
      { s with can := { s.can with busOff := false, partials := [(3, ([1,2] : List Byte), 1)] } } : State)).toNat), [1,2], 3, ?_⟩
    decide +kernel
  · refine ⟨start, (1 : Fin 16), ?_⟩
    decide +kernel
  · refine ⟨((start.put Obj.CAN.CAN_EN 1 |>.put Obj.CAN.LEDGER_EN 1) |> fun (s : State) =>
      { s with can := { s.can with busOff := false, partials := [(3, ([1,2] : List Byte), 1)] } }), 3, [1,2], 1, ?_⟩
    decide +kernel
  · refine ⟨((start.put Obj.CAN.CAN_EN 1 |>.put Obj.CAN.LEDGER_EN 1) |> fun (s : State) =>
      { s with can := { s.can with busOff := false, partials := [] } }), ?_⟩
    decide +kernel
  · refine ⟨{ start with can := { start.can with busOff := true } }, ?_⟩
    decide +kernel
  · refine ⟨start, (Path.udp 5 1000 0), ?_⟩
    decide +kernel
  · refine ⟨RSb start, ses.path, [1], ?_⟩
    decide +kernel
  · refine ⟨start, (SummaryKey.crowd 0), ?_⟩
    decide +kernel
  · refine ⟨{ start with book := { start.book with summaries := [({ key := (SummaryKey.crowd 0 : SummaryKey), count := 0 } : SummaryRec)] } },
      SummaryKey.crowd 0, { key := (SummaryKey.crowd 0 : SummaryKey), count := 0 }, ?_⟩
    decide +kernel
  · refine ⟨{ start with book := { start.book with summaries := [({ key := (SummaryKey.crowd 0 : SummaryKey), count := 3 } : SummaryRec)] } },
      SummaryKey.crowd 0, { key := (SummaryKey.crowd 0 : SummaryKey), count := 3 }, ?_⟩
    decide +kernel
  · exact ⟨start, 1, [1], _, _, rfl, rfl⟩
  · exact ⟨RSb start, heardAs (RSb start) rq ses, ses, rq, 0x5111, 1, false, 88, okRow (lookup (heardAs ((RSb start)) rq ses : State) (0x5111 : BitVec
        16).toNat (1 : BitVec 8).toNat), _, gate_go (by decide +kernel), by decide +kernel, rfl, by decide +kernel⟩
  · refine ⟨start, ses.path, [], ?_⟩
    decide +kernel
  · refine ⟨start, ses.path, to77, ?_⟩
    decide +kernel
  · refine ⟨RSb start, ses.path, to77, ?_⟩
    unfold heard
    decide +kernel
  · exact ⟨RSb start, _, ses.path, 77, to77, by unfold heard; decide +kernel, by decide +kernel, by decide +kernel, rfl, by decide +kernel⟩
  · exact ⟨(((RSb (start.put (Obj.AGGON.LSTATE 2) 5 |>.put (Obj.AGGON.PEER 2) 77))) : State), _, ses.path, 77, to77, by unfold heard; decide +kernel,
        by decide +kernel, by decide +kernel, rfl, by decide +kernel⟩
  · refine ⟨start, 1, 1, [], ?_⟩
    decide +kernel
  · refine
        ⟨{ start with ledger := { start.ledger with forwards := [({ target := 1, op := 0, session := 0, seq := 1, path := Path.udp 5 1000 0 } : ForwardRec)] } },
        ({ target := 1, op := 0, session := 0, seq := 1, path := Path.udp 5 1000 0 } : ForwardRec), [], ?_⟩
    decide +kernel
  · refine ⟨start, 1, 1, ?_⟩
    decide +kernel
  · refine ⟨{ start with cluster := { start.cluster with partials := [(1, 1, [])] } }, 1, 1, ?_⟩
    decide +kernel
  · refine ⟨linkOne, 1, [1], 0, [], ?_⟩
    decide +kernel
  · refine ⟨linkOne, 1, [], 0, [], ?_⟩
    decide +kernel
  · exact ⟨start, 1, [33, 0] ++ le 2 (ownId start).toNat, [], _, _, rfl, rfl, rfl, by decide +kernel, rfl⟩
  · exact ⟨linkOne, _, nextOn, 1, 0, 0, [1], [], by decide +kernel, by decide +kernel, rfl, by decide +kernel⟩
  · exact ⟨linkOne, _, nextOn, 1, 0, 0, frag1, [], [frag1], by decide +kernel, by decide +kernel, rfl, by decide +kernel⟩
  · exact ⟨{ linkOne with bale := { linkOne.bale with decode := List.replicate 64 { use := 1, owner := 5, bytes := [] } } }, _, nextOn, 1, 0, 0, frag1,
        [], [frag1], by decide +kernel, by decide +kernel, rfl, by decide +kernel⟩
  · refine ⟨[frag1], [frag1], ?_⟩
    decide +kernel
  · refine ⟨[frag1], [frag1], 0, by decide +kernel, ?_⟩
    decide +kernel
  · exact ⟨start, 1, 0 :: 0 :: 77 :: [], [], _, _, rfl, rfl, by decide +kernel⟩

theorem witness_AggonLinks :
    (∃ (s : State) (k : Fin 4), s.u (Obj.AGGON.LSTATE k) ≠ 0 ∧ s.u (Obj.AGGON.LSTATE k) ≠ 5 ∧ s.links[k].waiting = false ∧ s.u (Obj.AGGON.RETRAINS k)
        + 1 < 2 ^ 32) ∧
    (∃ (s : State) (k : Fin 4), s.links[k].waiting = true) ∧
    (∃ (s : State) (k : Fin 4), s.links[k].waiting = false) ∧
    (∃ (s : State) (k : Fin 4) (lane : Fin 5), training s k = true ∧ lane ∉ s.links[k].locked) ∧
    (∃ (s : State) (k : Fin 4) (f : Fin 5) (sp : Fin 5), s.u (Obj.AGGON.LSTATE k) = 5 ∧ s.links[k].move = some f ∧ s.links[k].spare = some sp ∧ s.u
        (Obj.AGGON.LANE_SWITCHES k) + 1 < 2 ^ 32) ∧
    (∃ (s : State) (k : Fin 4), s.u (Obj.AGGON.LSTATE k) = 0) ∧
    (∃ (s : State) (k : Fin 4), s.u (Obj.AGGON.LSTATE k) = 5 ∧ standby s = false) ∧
    (∃ (s : State) (k : Fin 4), s.u (Obj.AGGON.LSTATE k) < 3) ∧
    (∃ (h : LinkHaggle), h.version ≠ 1) ∧
    (∃ (s : State) (h : LinkHaggle), h.version = 1 ∧ h.cluster.toNat ≠ s.u Obj.AGGON.CLUSTER) ∧
    (∃ (s : State) (h : LinkHaggle), h.version = 1 ∧ h.cluster.toNat = s.u Obj.AGGON.CLUSTER ∧ h.fwMajor.toNat ≠ fwMajor s) ∧
    (∃ (s : State) (h : LinkHaggle), h.version = 1 ∧ h.cluster.toNat = s.u Obj.AGGON.CLUSTER ∧ h.fwMajor.toNat = fwMajor s ∧ h.deviceId = ownId s) ∧
    (∃ (s : State) (k : Fin 4), s.u (Obj.AGGON.LSTATE k) ≠ 5) ∧
    (∃ (s : State) (k : Fin 4) (f : AggonFrame) (n : Nat) (l : List (AggonFrame × Nat)), s.u (Obj.AGGON.LSTATE k) = 5 ∧ s.links[k].unacked = (f, n) ::
        l ∧ 8 ≤ n) ∧
    (∃ (s t : State) (k : Fin 4) (ack : BitVec 16) (c : BitVec 32), s.u (Obj.AGGON.LSTATE k) = 5 ∧ t = s.modLink k (fun x =>
        { x with unacked := x.unacked.filter (fun e => !seqLe e.1.fseq ack), credit := withCredit x.credit c })) ∧
    (∃ (s : State) (k : Fin 4) (f : AggonFrame), s.u (Obj.AGGON.LSTATE k) = 5 ∧ f.vc ≤ 4 ∧ bodyWords f ≤ 16 ∧ freeLink s k f.vc) ∧
    (∃ (x : LinkPart) (f : AggonFrame) (a b : List AggonFrame), x.vcq = a ++ f :: b ∧ f.vc = 0 ∧ (∀ e ∈ a, e.vc ≠ 0)) ∧
    (∃ (x : LinkPart) (f : AggonFrame) (a b : List AggonFrame), x.vcq = a ++ f :: b ∧ (∀ e ∈ x.vcq, e.vc ≠ 0) ∧ f.vc = x.turn % 4 + 1 ∧ (∀ e ∈ a, e.vc
        ≠ f.vc) ∧ 0 < x.credit.getD (f.vc - 1) 0) ∧
    (∃ (s : State) (k : Fin 4), s.u (Obj.AGGON.LSTATE k) = 5 ∧ freeLink s k 0) ∧
    (∃ (s : State) (k : Fin 4) (lane phys : Fin 5) (l : Option (Fin 4)) (map : List (Fin 5)) (f : Option (Fin 5)), l.map (·.val) ≠ map.idxOf? phys) ∧
    (∃ (s : State) (k : Fin 4) (lane phys : Fin 5) (l : Option (Fin 4)) (map : List (Fin 5)) (f : Option (Fin 5)), l.map (·.val) = map.idxOf? phys ∧
        training s k = true ∧ lane ∈ s.links[k].locked ∧ lane ∉ s.links[k].aligned) ∧
    (∃ (s : State) (k : Fin 4) (lane phys f : Fin 5) (l : Option (Fin 4)) (map : List (Fin 5)), s.u (Obj.AGGON.LSTATE k) = 5 ∧ l.map (·.val) =
        map.idxOf? phys) ∧
    (∃ (s : State) (k : Fin 4) (lane p : Fin 5), s.u (Obj.AGGON.LSTATE k) = 5 ∧ s.links[k].senderOf lane = some p ∧ p ∈ s.links[k].rx ∧
        s.links[k].rxSpare.isSome = true ∧ s.links[k].failed = none) ∧
    (∃ (s : State) (k : Fin 4) (lane p : Fin 5), s.u (Obj.AGGON.LSTATE k) = 5 ∧ s.links[k].senderOf lane = some p ∧ p ∈ s.links[k].rx ∧
        s.links[k].failed = some p) ∧
    (∃ (s : State) (k : Fin 4) (lane p : Fin 5), s.u (Obj.AGGON.LSTATE k) = 5 ∧ s.links[k].senderOf lane = some p ∧ p ∈ s.links[k].rx ∧
        s.links[k].rxSpare = none ∧ s.links[k].failed ≠ some p) ∧
    (∃ (s : State) (k : Fin 4), training s k = true ∧ 3 ≤ s.u (Obj.AGGON.LSTATE k) ∧ refuses s 7 = false) ∧
    (∃ (s : State) (k : Fin 4) (h : LinkHaggle), s.links[k].tx.length < 4) ∧
    (∃ (s : State) (k : Fin 4) (h : LinkHaggle), training s k = true ∧ 3 ≤ s.u (Obj.AGGON.LSTATE k) ∧ 4 ≤ s.links[k].tx.length ∧ h.version = 1 ∧
        h.cluster.toNat = s.u Obj.AGGON.CLUSTER ∧ h.fwMajor.toNat = fwMajor s ∧ h.deviceId ≠ ownId s ∧ s.twin.queue = [] ∧ s.twin.outbox = []) ∧
    (∃ (s : State) (k : Fin 4) (h : LinkHaggle) (c : Nat), training s k = true ∧ 3 ≤ s.u (Obj.AGGON.LSTATE k) ∧ 4 ≤ s.links[k].tx.length ∧ haggleCause
        s h = c ∧ c ≠ 0 ∧ s.links[k].told = c) ∧
    (∃ (s : State) (k : Fin 4) (h : LinkHaggle) (c : Nat), training s k = true ∧ 3 ≤ s.u (Obj.AGGON.LSTATE k) ∧ 4 ≤ s.links[k].tx.length ∧ haggleCause
        s h = c ∧ c ≠ 0 ∧ s.links[k].told ≠ c) ∧
    (∃ (s : State) (k : Fin 4) (f : AggonFrame), s.u (Obj.AGGON.LSTATE k) = 5 ∧ s.links[k].vcq = [] ∧ 1 ≤ f.vc ∧ f.vc ≤ 4 ∧ (s.links[k].credit.getD
        (f.vc - 1) 0 = 0 ∨ refuses s 7 = true)) ∧
    (∃ (l : List (BitVec 64)) (x : LinkPart), x.nextLane < 4) ∧
    (∃ (l : List (BitVec 64)) (x : LinkPart), ∃ (i : Nat) (h : i < (stripe l x).2.length), x.nextLane < 4) ∧
    (∃ (st : BitVec 58) (b : BitVec 64) (i : Nat), i < 64) ∧
    (∃ (s : State) (k : Fin 4) (f : AggonFrame) (n : Nat) (l : List (AggonFrame × Nat)), s.u (Obj.AGGON.LSTATE k) = 5 ∧ s.links[k].unacked = (f, n) ::
        l ∧ n < 8 ∧ refuses s 7 = false ∧ s.u (Obj.AGGON.REPLAYS k) + 1 < 2 ^ 32) ∧
    (∃ (s : State) (a : Arrival) (vc : Nat) (act : State → State), linkUp s a.link = false) ∧
    (∃ (s : State) (a : Arrival) (vc : Nat) (act : State → State), linkUp s a.link = true ∧ a.fseq = s.links[a.link].last + 1) ∧
    (∃ (s : State) (a : Arrival) (vc : Nat) (act : State → State), linkUp s a.link = true ∧ a.fseq ≠ s.links[a.link].last + 1 ∧ (seqLe a.fseq
        s.links[a.link].last = true ∨ s.links[a.link].discarding = true)) ∧
    (∃ (s : State) (a : Arrival) (vc : Nat) (act : State → State), linkUp s a.link = true ∧ a.fseq ≠ s.links[a.link].last + 1 ∧ seqLe a.fseq
        s.links[a.link].last = false ∧ s.links[a.link].discarding = false) ∧
    (∃ (s : State) (a : Arrival) (vc : Nat), vc ≤ 4 ∧ s.links[a.link].vcq = []) ∧
    (∃ (s : State) (k : Fin 4) (f : AggonFrame), s.u (Obj.AGGON.LSTATE k) = 5 ∧ freeLink s k 0 ∧ f = sentAs s k
        { vc := 0, kind := 2, src := ownId s, dest := BitVec.ofNat 11 (s.u (Obj.AGGON.PEER k)), body := .crier none }) := by
  and_intros
  · refine ⟨((({ start with links := (start.links.set (1 : Fin 4) { start.links[(1 : Fin 4)] with waiting := false }) } : State).put (Obj.AGGON.LSTATE (1 : Fin
      4)) 1).put (Obj.AGGON.LSTATE (1 : Fin 4)) 6), (1 : Fin 4), ?_⟩
    decide +kernel
  · refine ⟨{ start with links := (start.links.set (1 : Fin 4) { start.links[(1 : Fin 4)] with waiting := true }) }, (1 : Fin 4), ?_⟩
    decide +kernel
  · refine ⟨{ start with links := (start.links.set (1 : Fin 4) { start.links[(1 : Fin 4)] with waiting := false }) }, (1 : Fin 4), ?_⟩
    decide +kernel
  · refine ⟨(start.put (Obj.AGGON.LSTATE (1 : Fin 4)) 1), (1 : Fin 4), (1 : Fin 5), ?_⟩
    decide +kernel
  · refine ⟨(({ start with links := (start.links.set (1 : Fin 4) { start.links[(1 : Fin 4)] with move := some (1 : Fin 5), spare := some (1 : Fin 5) }) } :
      State).put (Obj.AGGON.LSTATE (1 : Fin 4)) (5)), (1 : Fin 4), (1 : Fin 5), (1 : Fin 5), ?_⟩
    decide +kernel
  · refine ⟨(start.put (Obj.AGGON.LSTATE (1 : Fin 4)) (0)), (1 : Fin 4), ?_⟩
    decide +kernel
  · refine ⟨(start.put (Obj.AGGON.LSTATE (1 : Fin 4)) (5)), (1 : Fin 4), ?_⟩
    decide +kernel
  · refine ⟨start, (1 : Fin 4), ?_⟩
    decide +kernel
  · refine ⟨{ (⟨1, 0, 9, 0, 0, 0, 0, 0x8000⟩ : LinkHaggle) with version := 2 }, ?_⟩
    decide +kernel
  · refine ⟨start, { (⟨1, 0, 9, 0, 0, 0, 0, 0x8000⟩ : LinkHaggle) with cluster := BitVec.ofNat _ (start.u Obj.AGGON.CLUSTER + 1) }, ?_⟩
    decide +kernel
  · refine ⟨start,
      { (⟨1, 0, 9, 0, 0, 0, 0, 0x8000⟩ : LinkHaggle) with cluster := BitVec.ofNat _ (start.u Obj.AGGON.CLUSTER), fwMajor := BitVec.ofNat _ (fwMajor start + 1) },
      ?_⟩
    decide +kernel
  · refine ⟨start, { (⟨1, 0, 9, 0, 0, 0, 0, 0x8000⟩ : LinkHaggle) with version := 1, deviceId := ownId start }, ?_⟩
    decide +kernel
  · refine ⟨(start.put (Obj.AGGON.LSTATE (1 : Fin 4)) 6), (1 : Fin 4), ?_⟩
    decide +kernel
  · refine
      ⟨(({ start with links := (start.links.set (1 : Fin 4) { start.links[(1 : Fin 4)] with unacked := (({ vc := 1, kind := 4, src := 9, body := .empty } : AggonFrame), (8 : Nat)) :: ([] : List (AggonFrame × Nat)) }) }
      : State).put (Obj.AGGON.LSTATE (1 : Fin 4)) (5)), (1 : Fin 4), ({ vc := 1, kind := 4, src := 9, body := .empty } : AggonFrame), 8, ([] : List
      (AggonFrame × Nat)), ?_⟩
    decide +kernel
  · exact ⟨start.put (Obj.AGGON.LSTATE (1 : Fin 4)) 5, _, 1, 3, 5, by decide +kernel, rfl⟩
  · refine ⟨linked { credit := [1, 1, 1, 1] }, 1, ({ vc := 2, kind := 8, src := 1, body := .empty } : AggonFrame), ?_⟩
    unfold freeLink
    decide +kernel
  · refine ⟨{ vcq := [({ vc := 0, kind := 8, src := 1, body := .empty } : AggonFrame)] }, ({ vc := 0, kind := 8, src := 1, body := .empty } :
        AggonFrame), [], [], ?_⟩
    decide +kernel
  · refine ⟨{ vcq := [({ vc := 2, kind := 8, src := 1, body := .empty } : AggonFrame)], turn := 1, credit := [0, 1, 0, 0] },
        ({ vc := 2, kind := 8, src := 1, body := .empty } : AggonFrame), [], [], ?_⟩
    decide +kernel
  · refine ⟨start.put (Obj.AGGON.LSTATE (1 : Fin 4)) 5, 1, ?_⟩
    unfold freeLink
    decide +kernel
  · refine ⟨start, 1, 0, 0, some 1, [0, 1, 2, 3], none, ?_⟩
    decide +kernel
  · refine ⟨linkAs 2 { locked := [3] }, 1, 3, 0, some 0, [0, 1, 2, 3], none, ?_⟩
    decide +kernel
  · refine ⟨linkOne, 1, 0, 0, 4, some 0, [0, 1, 2, 3], ?_⟩
    decide +kernel
  · refine ⟨linkAs 5 { crossed := [(0, 1)], rx := [1], rxSpare := some 4 }, 1, 0, 1, ?_⟩
    decide +kernel
  · refine ⟨linkAs 5 { crossed := [(0, 1)], rx := [1], failed := some 1 }, 1, 0, 1, ?_⟩
    decide +kernel
  · refine ⟨linkAs 5 { crossed := [(0, 1)], rx := [1] }, 1, 0, 1, ?_⟩
    decide +kernel
  · refine ⟨linkAs 3 {}, 1, ?_⟩
    decide +kernel
  · refine ⟨start, 1, hagFit, ?_⟩
    decide +kernel
  · refine ⟨linkAs 3 { tx := [0, 1, 2, 3] }, 1, hagFit, ?_⟩
    decide +kernel
  · refine ⟨linkAs 3 { tx := [0, 1, 2, 3], told := haggleCause start hagBad }, 1, hagBad, haggleCause start hagBad, ?_⟩
    decide +kernel
  · refine ⟨linkAs 3 { tx := [0, 1, 2, 3] }, 1, hagBad, haggleCause start hagBad, ?_⟩
    decide +kernel
  · refine ⟨linkAs 5 {}, 1, emptyFrame 2, ?_⟩
    decide +kernel
  · refine ⟨[0], {}, ?_⟩
    decide +kernel
  · refine ⟨[0], {}, 0, by decide +kernel, ?_⟩
    decide +kernel
  · refine ⟨0, 0, 0, ?_⟩
    decide +kernel
  · refine ⟨linkAs 5 { unacked := [(emptyFrame 1, 0)] }, 1, emptyFrame 1, 0, [], ?_⟩
    decide +kernel
  · refine ⟨start, nextOn, 0, id, ?_⟩
    decide +kernel
  · refine ⟨linkOne, nextOn, 0, id, ?_⟩
    decide +kernel
  · refine ⟨linkOne, { nextOn with fseq := 0xFFFF }, 0, id, ?_⟩
    decide +kernel
  · refine ⟨linkOne, { nextOn with fseq := 5 }, 0, id, ?_⟩
    decide +kernel
  · refine ⟨start, nextOn, 1, ?_⟩
    decide +kernel
  · exact ⟨linkOne, 1, _, by decide +kernel, by unfold freeLink; decide +kernel, rfl⟩

theorem witness_ClusterTable :
    (∃ (s : State) (k : Fin 4), s.u (Obj.AGGON.LSTATE k) ≠ 5) ∧
    (∃ (l : List Rank) (r : Rank), bestRank l = some r) ∧
    (∃ (s : State) (r : Rank), r ∈ eligible s) ∧
    (∃ (s : State), upstream s = none) ∧
    (∃ (s : State), upstream s ≠ none) ∧
    (∃ (s : State) (k : Fin 4), s.u (Obj.AGGON.LSTATE k) = 5 ∧ s.links[k].inMean < 15 ∧ upstream s = none) ∧
    (∃ (s : State) (k : Fin 4) (t1 : Stamp) (t2 : Stamp) (t3 : Stamp) (t4 : Stamp) (d : Int) (o : Int), s.u (Obj.AGGON.LSTATE k) = 5 ∧
        s.links[k].inMean = 15 ∧ upstream s = none ∧ s.cluster.root = none ∧ s.links[k].sumDelay + (((t2 : Int) - t1) + ((t4 : Int) - t3)) = 16384 * d
        ∧ s.links[k].sumOffset + (((t2 : Int) - t1) - ((t4 : Int) - t3)) = 16384 * o ∧ 0 ≤ d ∧ d * 625 < 2 ^ 32 ∧ s.i (Obj.AGGON.ASYMMETRY k) = 0 ∧
        -(2 ^ 40) < o ∧ o < 2 ^ 40) ∧
    (∃ (s : State), (∀ k : Fin 4, linkUp s k = true → freeLink s k 4)) ∧
    (∃ (s : State) (k : Fin 4) (x : Stamp), s.u (Obj.AGGON.LSTATE k) = 5 ∧ stampsFine s ⟨13 + k.val, by omega⟩ x ∧ freeLink s k 0) ∧
    (∃ (s : State) (k : Fin 4) (t1 t2 t3 t4 : Stamp) (err : BitVec 32), s.u (Obj.AGGON.LSTATE k) = 5 ∧ s.links[k].inMean < 15 ∧ upstream s = none ∧ t1
        = s.links[k].sent ∧ t4 = s.links[k].marker) ∧
    (∃ (s : State) (k : Fin 4) (t1 t2 t3 t4 : Stamp) (err : BitVec 32) (d o : Int), s.u (Obj.AGGON.LSTATE k) = 5 ∧ s.links[k].inMean = 15 ∧ upstream s
        = none ∧ s.cluster.root = none ∧ t1 = s.links[k].sent ∧ t4 = s.links[k].marker ∧ s.links[k].sumDelay + (((t2 : Int) - t1) + ((t4 : Int) - t3))
        = 16384 * d ∧ s.links[k].sumOffset + (((t2 : Int) - t1) - ((t4 : Int) - t3)) = 16384 * o ∧ 0 ≤ d ∧ d * 625 < 2 ^ 32 ∧ s.i (Obj.AGGON.ASYMMETRY
        k) = 0 ∧ -(2 ^ 40) < o ∧ o < 2 ^ 40) ∧
    (∃ (s : State) (a : Arrival) (f : TopoFrame), s.u (Obj.AGGON.LSTATE a.link) ≠ 5) ∧
    (∃ (s u : State) (a : Arrival) (f : TopoFrame), inOrder s a 4 u ∧ a.poisoned ≠ []) ∧
    (∃ (s u : State) (a : Arrival) (f : TopoFrame), inOrder s a 4 u ∧ a.poisoned = [] ∧ f.deviceId ≠ ownId u ∧ (∀ r ∈ u.cluster.table,
        r.frame.deviceId ≠ f.deviceId) ∧ u.cluster.table.length < 2047 ∧ (∀ j : Fin 4, j ≠ a.link → linkUp u j = true → freeLink u j 4)) ∧
    (∃ (s u : State) (a : Arrival) (f : TopoFrame) (r : TopoRec), inOrder s a 4 u ∧ a.poisoned = [] ∧ f.deviceId ≠ ownId u ∧ u.cluster.table = [r] ∧
        r.frame.deviceId = f.deviceId ∧ r.frame.serialCrc = f.serialCrc ∧ f.seq ∈ r.seen) ∧
    (∃ (s u : State) (a : Arrival) (f : TopoFrame), inOrder s a 4 u ∧ a.poisoned = [] ∧ f.deviceId = ownId u ∧ f.serialCrc ≠ crc32c (u.blob
        Obj.IDENTITY.SERIAL) ∧ f.deviceId ∉ u.cluster.dups) ∧
    (∃ (s : State) (k : Fin 4) (x : Stamp) (l : Int) (ch : Fin 21), s.u (Obj.AGGON.LSTATE k) = 5 ∧ ch.val = 13 + k.val ∧ s.tdc.lastEdge[ch] = some l ∧
        l ≤ (x : Int) ∧ (x : Int) < l + 2048) ∧
    (∃ (s : State) (a : Arrival) (t2 t3 : Stamp) (err : BitVec 32), s.u (Obj.AGGON.LSTATE a.link) ≠ 5) ∧
    (∃ (s₀ s : State) (a : Arrival) (t2 t3 : Stamp) (err : BitVec 32), inOrder s₀ a 0 s ∧ a.poisoned ≠ []) ∧
    (∃ (s₀ s : State) (a : Arrival) (k : Fin 4) (t1 t2 t3 t4 : Stamp) (err : BitVec 32), inOrder s₀ a 0 s ∧ a.poisoned = [] ∧ a.link = k ∧
        s.links[k].inMean < 15 ∧ upstream s = none ∧ t1 = s.links[k].sent ∧ t4 = s.links[k].marker) ∧
    (∃ (s₀ s : State) (a : Arrival) (k : Fin 4) (t1 t2 t3 t4 : Stamp) (err : BitVec 32) (d o : Int), inOrder s₀ a 0 s ∧ a.poisoned = [] ∧ a.link = k ∧
        s.links[k].inMean = 15 ∧ upstream s = none ∧ s.cluster.root = none ∧ t1 = s.links[k].sent ∧ t4 = s.links[k].marker ∧ s.links[k].sumDelay +
        (((t2 : Int) - t1) + ((t4 : Int) - t3)) = 16384 * d ∧ s.links[k].sumOffset + (((t2 : Int) - t1) - ((t4 : Int) - t3)) = 16384 * o ∧ 0 ≤ d ∧ d *
        625 < 2 ^ 32 ∧ s.i (Obj.AGGON.ASYMMETRY k) = 0 ∧ -(2 ^ 40) < o ∧ o < 2 ^ 40) := by
  and_intros
  · refine ⟨(start.put (Obj.AGGON.LSTATE (1 : Fin 4)) 6), (1 : Fin 4), ?_⟩
    decide +kernel
  · refine ⟨[⟨false, false, 1, 5⟩], ⟨false, false, 1, 5⟩, ?_⟩
    decide +kernel
  · refine ⟨start.put Obj.AGGON.ROOT_PRI 9, ownRank (start.put Obj.AGGON.ROOT_PRI 9 : State), ?_⟩
    decide +kernel
  · refine ⟨start, ?_⟩
    decide +kernel
  · refine ⟨(start.put (Obj.AGGON.LSTATE 2) 5 |>.put (Obj.AGGON.PEER 2) 77 |>.put Obj.AGGON.DEVICE_ID 5) |> fun (s : State) =>
      { s with cluster := { s.cluster with root := some 77 } }, ?_⟩
    decide +kernel
  · refine ⟨(start.put (Obj.AGGON.LSTATE (1 : Fin 4)) (5)), (1 : Fin 4), ?_⟩
    decide +kernel
  · refine ⟨((({ start with links := (start.links.set (1 : Fin 4) { start.links[(1 : Fin 4)] with inMean := 15 }), cluster := { start.cluster with root := none } }
      : State).put (Obj.AGGON.LSTATE (1 : Fin 4)) (5)).puti (Obj.AGGON.ASYMMETRY (1 : Fin 4)) (0)), (1 : Fin 4), (0 : Stamp), (0 : Stamp), (0 :
      Stamp), (0 : Stamp), 0, 0, ?_⟩
    decide +kernel
  · refine ⟨start, ?_⟩
    unfold freeLink
    decide +kernel
  · refine ⟨locked.put (Obj.AGGON.LSTATE (1 : Fin 4)) 5, 1, 1000, ?_⟩
    unfold freeLink stampsFine
    decide +kernel
  · exact ⟨linked { sent := 1000, marker := 5000 }, 1, 1000, 2000, 3000, 5000, 0, by decide +kernel, by decide +kernel, by decide +kernel, rfl, rfl⟩
  · exact ⟨linked { sent := 0, marker := 16384, inMean := 15 }, 1, 0, 0, 0, 16384, 0, 1, -1, by decide +kernel, by decide +kernel, by decide +kernel,
        by decide +kernel, rfl, rfl, by decide +kernel⟩
  · refine ⟨start, nextOn, topo0, ?_⟩
    decide +kernel
  · exact ⟨linkOne, _, { nextOn with poisoned := [0] }, topo0, ⟨by decide +kernel, by decide +kernel, rfl⟩, by decide +kernel⟩
  · exact ⟨linkOne, _, nextOn, { topo0 with deviceId := ownId start + 1 }, ⟨by decide +kernel, by decide +kernel, rfl⟩,
        by unfold freeLink; decide +kernel⟩
  · exact ⟨{ linkOne with cluster := { linkOne.cluster with table := [{ frame := { topo0 with deviceId := ownId start + 1 }, seen := [topo0.seq] }] } },
        _, nextOn, { topo0 with deviceId := ownId start + 1 }, { frame := { topo0 with deviceId := ownId start + 1 }, seen := [topo0.seq] }, ⟨by
        decide +kernel, by decide +kernel, rfl⟩, by decide +kernel⟩
  · exact ⟨linkOne, _, nextOn, { topo0 with deviceId := ownId linkOne }, ⟨by decide +kernel, by decide +kernel, rfl⟩, by decide +kernel⟩
  · refine ⟨(edgeWas 14 5000).put (Obj.AGGON.LSTATE (1 : Fin 4)) 5, 1, 5000, 5000, 14, ?_⟩
    decide +kernel
  · refine ⟨start, nextOn, 0, 0, 0, ?_⟩
    decide +kernel
  · exact ⟨linkOne, _, { nextOn with poisoned := [0] }, 0, 0, 0, ⟨by decide +kernel, by decide +kernel, rfl⟩, by decide +kernel⟩
  · exact ⟨linkAs 5 { sent := 1000, marker := 5000 }, _, nextOn, 1, _, 2000, 3000, _, 0, ⟨by decide +kernel, by decide +kernel, rfl⟩, by decide +kernel,
        by decide +kernel, by decide +kernel, by decide +kernel, rfl, rfl⟩
  · exact ⟨linkAs 5 { sent := 0, marker := 16384, inMean := 15 }, _, nextOn, 1, _, 0, 0, _, 0, 1, -1, ⟨by decide +kernel, by decide +kernel, rfl⟩,
        by decide +kernel, by decide +kernel, by decide +kernel, by decide +kernel, by decide +kernel, rfl, rfl, by decide +kernel⟩

theorem witness_Twins :
    (∃ (s : State), s.u Obj.TWIN.TWIN_EN = 0) ∧
    (∃ (s : State) (m : CrierMsg), s.u Obj.TWIN.TWIN_EN = 1 ∧ m.claim.toNat % 2048 ≠ s.u Obj.TWIN.PEER_ID) ∧
    (∃ (s : State) (m : CrierMsg), s.u Obj.TWIN.TWIN_EN = 1 ∧ m.claim.toNat % 2048 = s.u Obj.TWIN.PEER_ID ∧ s.u Obj.TWIN.ROLE = 0 ∧ m.role = 2 ∧ s.u
        Obj.TWIN.PRIORITY ≤ 4095) ∧
    (∃ (s : State) (m : CrierMsg), s.u Obj.TWIN.TWIN_EN = 1 ∧ m.claim.toNat % 2048 = s.u Obj.TWIN.PEER_ID ∧ s.u Obj.TWIN.ROLE = 1 ∧ m.role = 3) ∧
    (∃ (s : State) (m : CrierMsg), s.u Obj.TWIN.TWIN_EN = 1 ∧ m.claim.toNat % 2048 = s.u Obj.TWIN.PEER_ID ∧ s.u Obj.TWIN.ROLE = 2 ∧ m.role = 1 ∧
        s.twin.peerRole = some 1 ∧ m.cflags.getLsbD 0 = true) ∧
    (∃ (f : BitVec 40), ((f >>> 32).setWidth 8 ≠ 0xB4#8 ∨ f.setWidth 8 ≠ crc8 ((f >>> 8).setWidth 24))) ∧
    (∃ (s : State) (c : BitVec 24) (f : BitVec 40), f = 0xB4#8 ++ c ++ crc8 c ∧ (s.u Obj.TWIN.TWIN_EN = 0 ∨ (c.toNat ≤ s.u Obj.TWIN.CLAIM ∧ standby s
        = false))) ∧
    (∃ (s : State) (c : BitVec 24) (f : BitVec 40), f = 0xB4#8 ++ c ++ crc8 c ∧ s.u Obj.TWIN.TWIN_EN = 1 ∧ s.u Obj.TWIN.ROLE = 2 ∧ s.u Obj.TWIN.CLAIM
        < c.toNat ∧ s.u Obj.TWIN.PRIORITY ≤ 4095) ∧
    (∃ (s : State) (c : BitVec 24) (f : BitVec 40), f = 0xB4#8 ++ c ++ crc8 c ∧ s.u Obj.TWIN.TWIN_EN = 1 ∧ s.u Obj.TWIN.ROLE = 1 ∧ c.toNat / 2048 = 0) ∧
    (∃ (s : State) (n : Port), s.twin.yieldReq = true ∧ s.u Obj.TWIN.TWIN_EN = 1 ∧ s.u Obj.TWIN.ROLE = 2 ∧ s.twinned n = true) ∧
    (∃ (s : State), s.u Obj.TWIN.MIRROR_LOST + 1 < 2 ^ 32) ∧
    (∃ (s : State) (k : Fin 4) (m : CrierMsg), s.u Obj.TWIN.TWIN_EN = 1 ∧ twinLinks s = [k] ∧ freeLink s k 0 ∧ m = ⟨BitVec.ofNat 8 (s.u
        Obj.TWIN.ROLE), if s.bit Obj.TWIN.FLAGS Bit.TWIN.FLAGS.IN_STEP then 1 else 0, BitVec.ofNat 24 (s.u Obj.TWIN.CLAIM), s.twin.cseq, BitVec.ofNat
        64 s.now⟩) ∧
    (∃ (s u : State) (a : Arrival) (m : CrierMsg), inOrder s a 0 u ∧ (a.poisoned ≠ [] ∨ u.u Obj.TWIN.TWIN_EN = 0 ∨ m.claim.toNat % 2048 ≠ u.u
        Obj.TWIN.PEER_ID)) ∧
    (∃ (s u : State) (a : Arrival) (m : CrierMsg), inOrder s a 0 u) ∧
    (∃ (s u : State) (a : Arrival) (m : CrierMsg), inOrder s a 0 u ∧ a.poisoned = []) ∧
    (∃ (s : State) (p q : Fin 4), s.u Obj.TWIN.TWIN_EN = 1 ∧ p.val = 2 * s.u Obj.TWIN.TWIN_IFACE ∧ q.val = p.val + 1 ∧ s.eth[p].up = true ∧
        s.eth[q].up = true ∧ refuses s 6 = false) ∧
    (∃ (s : State), s.u Obj.TWIN.TWIN_EN = 1 ∧ s.u Obj.TWIN.ROLE = 1 ∧ s.twin.lateEth = true ∧ s.twin.fresh = false) ∧
    (∃ (s : State), s.u Obj.TWIN.TWIN_EN = 1 ∧ s.u Obj.TWIN.ROLE = 1 ∧ (s.twin.lateEth = false ∨ s.twin.fresh = true)) ∧
    (∃ (s : State), s.u Obj.TWIN.TWIN_EN = 1 ∧ s.u Obj.TWIN.ROLE = 0 ∧ s.twin.lateAggon = true ∧ (s.twin.fresh = false ∨ peerPriority s < 4096)) ∧
    (∃ (s : State), standby s = false ∧ (s.u Obj.TWIN.TWIN_EN = 0 ∨ s.u Obj.TWIN.ROLE ≠ 0 ∨ s.twin.lateAggon = false ∨ s.twin.lateEth = false)) ∧
    (∃ (s : State), s.u Obj.TWIN.TWIN_EN = 1 ∧ s.u Obj.TWIN.ROLE = 0 ∧ s.twin.lateAggon = true ∧ s.twin.lateEth = true) ∧
    (∃ (s : State), s.u Obj.TWIN.TWIN_EN = 1 ∧ s.u Obj.TWIN.ROLE = 1 ∧ s.twin.lateAggon = true ∧ s.twin.lateEth = true) ∧
    (∃ (s u : State) (a : Arrival) (n : Port) (d : BitVec 32) (i : Nat) (z : Bool) (b : List Byte), inOrder s a 2 u ∧ standby u = false) ∧
    (∃ (s u : State) (a : Arrival) (n : Port) (d : BitVec 32) (i : Nat) (b : List Byte), inOrder s a 2 u ∧ u.u Obj.TWIN.TWIN_EN = 1 ∧ u.u
        Obj.TWIN.ROLE = 1 ∧ u.twinned n = true ∧ 0 < i ∧ u.twin.arriving = [] ∧ 0 ∉ a.poisoned) ∧
    (∃ (s : State) (n : Port) (k : Fin 192), s.pitches[k].host.isSome = true ∧ s.u (Obj.PITCH.PORT k) = n.val ∧ s.u (Obj.PITCH.SKIPPED k) + 1 < 2 ^
        32) ∧
    (∃ (s u : State) (a : Arrival) (m : MirrorCommit), inOrder s a 2 u ∧ (standby u = false ∨ (mirrored u m.index.toNat = false ∧ (m.index.toNat <
        0x6000 ∨ 0x6100 ≤ m.index.toNat)))) ∧
    (∃ (s u : State) (a : Arrival) (m : MirrorCommit), inOrder s a 2 u ∧ a.poisoned = [] ∧ standby u = true ∧ mirrored u m.index.toNat = true ∧
        m.index.toNat < 0x5000) ∧
    (∃ (s u : State) (a : Arrival) (m : BaleMarkMsg), inOrder s a 2 u ∧ standby u = false) ∧
    (∃ (s u : State) (a : Arrival) (m : BaleMarkMsg), inOrder s a 2 u ∧ a.poisoned = [] ∧ standby u = true ∧ u.streams[m.stream].isOpen = true ∧
        u.streams[m.stream].held = []) ∧
    (∃ (s : State) (c : Nat), c < 2 ^ 24 ∧ s.u Obj.TWIN.CLAIM ≠ c) ∧
    (∃ (s : State), s.twin.wireSince < claimStart s) := by
  and_intros
  · refine ⟨(start.put Obj.TWIN.TWIN_EN (0)), ?_⟩
    decide +kernel
  · refine ⟨(start.put Obj.TWIN.TWIN_EN (1)),
      { (⟨0,0,0,0,0⟩ : CrierMsg) with claim := BitVec.ofNat 24 ((start.put Obj.TWIN.TWIN_EN (1) : State).u Obj.TWIN.PEER_ID + 1) }, ?_⟩
    decide +kernel
  · refine ⟨((start.put Obj.TWIN.TWIN_EN (1)).put Obj.TWIN.ROLE (0)), { (⟨0, 0, 0, 0, 0⟩ : CrierMsg) with role := 2 }, ?_⟩
    decide +kernel
  · refine ⟨((start.put Obj.TWIN.TWIN_EN (1)).put Obj.TWIN.ROLE (1)), { (⟨0, 0, 0, 0, 0⟩ : CrierMsg) with role := 3 }, ?_⟩
    decide +kernel
  · refine ⟨(start.put Obj.TWIN.TWIN_EN 1 |>.put Obj.TWIN.ROLE 2) |> fun (s : State) => { s with twin := { s.twin with peerRole := some 1 } }, ⟨1, 1,
      BitVec.ofNat 24 (start.u Obj.TWIN.PEER_ID), 0, 0⟩, ?_⟩
    decide +kernel
  · refine ⟨(1 : BitVec 40), ?_⟩
    decide +kernel
  · exact ⟨(start.put Obj.TWIN.TWIN_EN (0)), (1 : BitVec 24), _, rfl, by decide +kernel⟩
  · exact ⟨((start.put Obj.TWIN.TWIN_EN (1)).put Obj.TWIN.ROLE (2)), (1 : BitVec 24), _, rfl, by decide +kernel⟩
  · exact ⟨((start.put Obj.TWIN.TWIN_EN (1)).put Obj.TWIN.ROLE (1)), (1 : BitVec 24), _, rfl, by decide +kernel⟩
  · refine ⟨(((({ start with twin := { start.twin with yieldReq := true } } : State).put Obj.TWIN.TWIN_EN (1)).put Obj.TWIN.ROLE (2)).put Obj.TWIN.TWIN_EN 1
      |>.setBit Obj.TWIN.TWIN_PORTS (1 : Port)), (1 : Port), ?_⟩
    decide +kernel
  · refine ⟨start, ?_⟩
    decide +kernel
  · exact ⟨(linkOne.put Obj.TWIN.TWIN_EN 1).setBit (Obj.AGGON.LFLAGS (1 : Fin 4)) Bit.AGGON.LFLAGS.TWIN_LINK, 1, _, by decide +kernel,
        by decide +kernel, by unfold freeLink; decide +kernel, rfl⟩
  · exact ⟨linkOne, _, { nextOn with poisoned := [0] }, ⟨0, 0, 0, 0, 0⟩, ⟨by decide +kernel, by decide +kernel, rfl⟩, by decide +kernel⟩
  · exact ⟨linkOne, _, nextOn, ⟨0, 0, 0, 0, 0⟩, ⟨by decide +kernel, by decide +kernel, rfl⟩⟩
  · exact ⟨linkOne, _, nextOn, ⟨0, 0, 0, 0, 0⟩, ⟨by decide +kernel, by decide +kernel, rfl⟩, by decide +kernel⟩
  · refine ⟨((start.put Obj.TWIN.TWIN_EN 1 |>.put Obj.TWIN.TWIN_IFACE 0) |> fun (s : State) =>
        { s with eth := (s.eth.set (0 : Fin 4) { s.eth[(0 : Fin 4)] with up := true }).set (1 : Fin 4) { s.eth[(1 : Fin 4)] with up := true } } :
        State), 0, 1, ?_⟩
    decide +kernel
  · refine ⟨lately 1 false true, ?_⟩
    decide +kernel
  · refine ⟨lately 1 false false, ?_⟩
    decide +kernel
  · refine ⟨lately 0 true false, ?_⟩
    decide +kernel
  · refine ⟨start, ?_⟩
    decide +kernel
  · refine ⟨lately 0 true true, ?_⟩
    decide +kernel
  · refine ⟨lately 1 true true, ?_⟩
    decide +kernel
  · exact ⟨linkOne, _, nextOn, 1, 0, 0, false, [], ⟨by decide +kernel, by decide +kernel, rfl⟩, by decide +kernel⟩
  · exact ⟨twinState 1, _, nextOn, 1, 0, 1, [], ⟨by decide +kernel, by decide +kernel, rfl⟩, by decide +kernel⟩
  · refine ⟨((start.put (Obj.PITCH.PORT (5 : Fin 192)) 1) |> fun (s : State) =>
        { s with pitches := s.pitches.set (5 : Fin 192) { s.pitches[(5 : Fin 192)] with host := some (3, 0) } } : State), 1, 5, ?_⟩
    decide +kernel
  · exact ⟨linkOne, _, nextOn, ⟨0x5200, [], [], 0⟩, ⟨by decide +kernel, by decide +kernel, rfl⟩, by decide +kernel⟩
  · exact ⟨twinState 1, _, nextOn, ⟨0x3110, [], [], 0⟩, ⟨by decide +kernel, by decide +kernel, rfl⟩, by decide +kernel⟩
  · exact ⟨linkOne, _, nextOn, mark1, ⟨by decide +kernel, by decide +kernel, rfl⟩, by decide +kernel⟩
  · exact
        ⟨{ twinState 1 with streams := (twinState 1).streams.set mark1.stream { (twinState 1).streams[mark1.stream] with isOpen := true, held := [] } },
        _, nextOn, mark1, ⟨by decide +kernel, by decide +kernel, rfl⟩, by decide +kernel⟩
  · refine ⟨start, 5, ?_⟩
    decide +kernel
  · refine ⟨{ start with twin := { start.twin with wireSince := -1 } }, ?_⟩
    decide +kernel

theorem witness_SensorFrontEnd :
    (∃ (x : SfeChannel) (q : Nat) (m : Nat), x.chopped = false ∧ x.quadRun = 3 ∧ m < q) ∧
    (∃ (x : SfeChannel) (q : Nat) (m : Nat), x.chopped = false ∧ (q ≤ m ∨ x.quadRun < 3) ∧ q ≤ m) ∧
    (∃ (x : SfeChannel) (q : Nat) (m : Nat), x.chopped = false ∧ (q ≤ m ∨ x.quadRun < 3)) ∧
    (∃ (s : State), s.plant.live = true ∧ s.u Obj.SFE.CONV_MODE = 0 ∧ s.plant.pair = none) ∧
    (∃ (s : State) (c : Fin 8) (a : Nat) (b : Nat), s.plant.live = true ∧ s.u Obj.SFE.CONV_MODE = 0 ∧ s.plant.pair = some (c, a, b) ∧
        s.plant.sfe[c].taken = true ∧ s.isApplying 0x7000 = false ∧ 2 * 1000000 * ((a : Int) - b).natAbs ≤ s.u Obj.SFE.PLAUS_TOL * (a + b) ∧
        s.plant.passRun < 7) ∧
    (∃ (s : State) (c : Fin 8) (a : Nat) (b : Nat), s.plant.live = true ∧ s.u Obj.SFE.CONV_MODE = 0 ∧ s.plant.pair = some (c, a, b) ∧
        s.plant.sfe[c].taken = true ∧ s.isApplying 0x7000 = false ∧ s.u Obj.SFE.PLAUS_TOL * (a + b) < 2 * 1000000 * ((a : Int) - b).natAbs ∧ sfeFault
        s c.val = 0 ∧ s.u Obj.SFE.PLAUS_FAILS + 1 < 2 ^ 32) ∧
    (∃ (s : State) (c : Fin 8) (x : SfeSample) (y : Option SfeSample) (p : Stamp) (n : Nat), sfeRuns s c = false) ∧
    (∃ (s : State) (c : Fin 8) (x : SfeSample) (y : Option SfeSample), sfeRuns s c = true ∧ s.u (Obj.SFE.GAIN c) = 0xFF ∧ 970 < x.peak ∧ 0 <
        s.plant.sfe[c].step ∧ s.u (Obj.SFE.REPEATS c) + 1 < 2 ^ 32) ∧
    (∃ (s : State) (c : Fin 8) (x : SfeSample) (y : Option SfeSample), sfeRuns s c = true ∧ s.u (Obj.SFE.GAIN c) = 0xFF ∧ 970 < x.peak ∧
        s.plant.sfe[c].step = 0 ∧ s.plant.sfe[c].held = none) ∧
    (∃ (s : State) (c : Fin 8) (x : SfeSample) (y : Option SfeSample), sfeRuns s c = true ∧ s.u (Obj.SFE.GAIN c) < 8 ∧ s.u (Obj.SFE.CURVE c) ≠ 0 ∧
        s.plant.sfe[c].held = none) ∧
    (∃ (s : State) (c : Fin 8) (x : SfeSample), sfeRuns s c = true ∧ s.u (Obj.SFE.GAIN c) = 0xFF ∧ x.peak < 400 ∧ s.plant.sfe[c].step < 7) ∧
    (∃ (s : State) (c : Fin 8) (p : Stamp), sfeRuns s c = true ∧ sfeStep s c < 8) ∧
    (∃ (s : State) (c : Fin 8), sfeRuns s c = true) ∧
    (∃ (s : State) (c : Fin 8) (n : Nat), s.u Obj.SFE.TONE_PERIOD = 0 ∧ s.plant.sfe[c].held = none) ∧
    (∃ (s : State) (c : Fin 8) (n : Nat), sfeRuns s c = true ∧ (s.u Obj.SFE.TONE_PERIOD ≠ 0 ∨ s.plant.sfe[c].held ≠ none) ∧ sfeStep s c < 8 ∧ (n = 1 ∨
        n = 2 ∨ n = 6)) ∧
    (∃ (s : State) (d : BitVec 32) (c : Fin 8), s.plant.live = true ∧ s.u Obj.SFE.CONV_MODE = 1 ∧ (∀ e : Fin 8, s.plant.sfe[e].taken = decide (e = c))
        ∧ s.isApplying 0x7000 = false ∧ s.u Obj.SFE.PLAUS_TOL * checkValue s < 1000000 * ((d.toNat : Int) - checkValue s).natAbs ∧ sfeFault s c.val =
        0) := by
  and_intros
  · refine ⟨({ chopped := false, quadRun := 3 } : SfeChannel), 5, 4, ?_⟩
    decide +kernel
  · refine ⟨({ chopped := false } : SfeChannel), 0, 0, ?_⟩
    decide +kernel
  · refine ⟨({ chopped := false } : SfeChannel), 0, 0, ?_⟩
    decide +kernel
  · refine ⟨(({ start with plant := { start.plant with live := true, pair := none } } : State).put Obj.SFE.CONV_MODE (0)), ?_⟩
    decide +kernel
  · refine
      ⟨(({ start with plant := { start.plant with live := true, pair := some ((1 : Fin 8), (0 : Nat), (0 : Nat)), sfe := (start.plant.sfe.set (1 : Fin 8) { start.plant.sfe[(1 : Fin 8)] with taken := true }) } }
      : State).put Obj.SFE.CONV_MODE (0)), (1 : Fin 8), 0, 0, ?_⟩
    decide +kernel
  · refine ⟨(start.put Obj.SFE.CONV_MODE 0 |>.put (Obj.SFE.CSTAT (1 : Fin 8)) 0) |> fun (s : State) =>
      { s with plant := { s.plant with live := true, pair := some ((1 : Fin 8), (100 : Nat), (0 : Nat)), sfe := s.plant.sfe.set (1 : Fin 8) { s.plant.sfe[(1 : Fin 8)] with taken := true } } },
      1, 100, 0, ?_⟩
    decide +kernel
  · refine ⟨start, 1, (⟨100, 500, 0, 256⟩ : SfeSample), none, 0, 0, ?_⟩
    decide +kernel
  · refine
        ⟨((({ start with plant := { start.plant with live := true, sfe := (start.plant.sfe.set (1 : Fin 8) { start.plant.sfe[(1 : Fin 8)] with step := 1 }) } }
        : State).setBit Obj.SFE.CH_EN (1 : Fin 8) |>.put (Obj.SFE.GAIN (1 : Fin 8)) 255) : State), 1, (⟨100, 971, 0, 256⟩ : SfeSample), none, ?_⟩
    decide +kernel
  · refine
        ⟨((({ start with plant := { start.plant with live := true, sfe := (start.plant.sfe.set (1 : Fin 8) { start.plant.sfe[(1 : Fin 8)] with step := 0, held := none }) } }
        : State).setBit Obj.SFE.CH_EN (1 : Fin 8) |>.put (Obj.SFE.GAIN (1 : Fin 8)) 255) : State), 1, (⟨100, 971, 0, 256⟩ : SfeSample), none, ?_⟩
    decide +kernel
  · refine
        ⟨((({ start with plant := { start.plant with live := true, sfe := (start.plant.sfe.set (1 : Fin 8) { start.plant.sfe[(1 : Fin 8)] with held := none }) } }
        : State).setBit Obj.SFE.CH_EN (1 : Fin 8) |>.put (Obj.SFE.GAIN (1 : Fin 8)) 2 |>.put (Obj.SFE.CURVE (1 : Fin 8)) 3) : State), 1, (⟨100, 500, 0,
        256⟩ : SfeSample), none, ?_⟩
    decide +kernel
  · refine
        ⟨((({ start with plant := { start.plant with live := true, sfe := (start.plant.sfe.set (1 : Fin 8) { start.plant.sfe[(1 : Fin 8)] with step := 6 }) } }
        : State).setBit Obj.SFE.CH_EN (1 : Fin 8) |>.put (Obj.SFE.GAIN (1 : Fin 8)) 255) : State), 1, (⟨100, 300, 0, 256⟩ : SfeSample), ?_⟩
    decide +kernel
  · refine
        ⟨((({ start with plant := { start.plant with live := true, sfe := (start.plant.sfe.set (1 : Fin 8) { start.plant.sfe[(1 : Fin 8)] with step := 6 }) } }
        : State).setBit Obj.SFE.CH_EN (1 : Fin 8) |>.put (Obj.SFE.GAIN (1 : Fin 8)) 2) : State), 1, 0, ?_⟩
    decide +kernel
  · refine
        ⟨((({ start with plant := { start.plant with live := true, sfe := (start.plant.sfe.set (1 : Fin 8) { start.plant.sfe[(1 : Fin 8)] with step := 6 }) } }
        : State).setBit Obj.SFE.CH_EN (1 : Fin 8) |>.put (Obj.SFE.GAIN (1 : Fin 8)) 2) : State), 1, ?_⟩
    decide +kernel
  · refine ⟨start.put Obj.SFE.TONE_PERIOD 0, 1, 1, ?_⟩
    decide +kernel
  · refine
        ⟨((({ start with plant := { start.plant with live := true, sfe := (start.plant.sfe.set (1 : Fin 8) { start.plant.sfe[(1 : Fin 8)] with held := none }) } }
        : State).setBit Obj.SFE.CH_EN (1 : Fin 8) |>.put (Obj.SFE.GAIN (1 : Fin 8)) 2 |>.put Obj.SFE.TONE_PERIOD 5) : State), 1, 1, ?_⟩
    decide +kernel
  · refine ⟨(((start.put Obj.SFE.CONV_MODE 1).put (Obj.SFE.CSTAT (1 : Fin 8)) 0) |> fun (s : State) =>
        { s with plant := { s.plant with live := true, sfe := s.plant.sfe.set (1 : Fin 8) { s.plant.sfe[(1 : Fin 8)] with taken := true } } } |> fun (s
        : State) => s.modCal 17 (fun y => { y with inForce := le 4 100000 }) : State), 1000000, 1, ?_⟩
    decide +kernel

theorem witness_PlantOutputs :
    (∃ (s : State) (o : Fin 8), (plantOff s = true ∨ s.u (Obj.LOOP.SOURCE o) = 0)) ∧
    (∃ (s : State) (o : Fin 8), plantOff s = false ∧ s.u (Obj.LOOP.SOURCE o) ≠ 0) ∧
    (∃ (s : State) (r : Reg) (b : Nat) (x : Bool), s.bit r b ≠ x) ∧
    (∃ (s : State) (o : Fin 8) (v : Int) (d : Int) (q : Int), s.i (Obj.LOOP.VAL_HI o) - s.i (Obj.LOOP.VAL_LO o) = d ∧ d ≠ 0 ∧ 16000 * (v - s.i
        (Obj.LOOP.VAL_LO o)) = q * d) ∧
    (∃ (s : State) (o : Fin 8), plantOff s = false ∧ clerksUp s = true ∧ s.u (Obj.LOOP.SOURCE o) = 2 ∧ s.bit (Obj.LOOP.LSTAT o)
        Bit.LOOP.LSTAT.FAULT_LEVEL = false ∧ s.u (Obj.LOOP.TRIPS o) + 1 < 2 ^ 32 ∧ s.plant.loops[o].good ≤ 21000) ∧
    (∃ (s : State) (o : Fin 8), s.u (Obj.LOOP.FAULT_MODE o) = 0) ∧
    (∃ (s : State) (o : Fin 8), s.u (Obj.LOOP.FAULT_MODE o) = 1) ∧
    (∃ (s : State) (o : Fin 8), s.u (Obj.LOOP.FAULT_MODE o) = 2) ∧
    (∃ (s : State) (o : Fin 8), s.u (Obj.LOOP.SOURCE o) = 3) ∧
    (∃ (s : State), s.array.mail = []) ∧
    (∃ (s : State) (m : StallId × List Byte) (rest : List (StallId × List Byte)), s.array.mail = m :: rest ∧ clerksUp s = true ∧ s.plant.live = true ∧
        fromLe (m.2.take 1) ≠ 1 ∧ fromLe (m.2.take 1) ≠ 2 ∧ s.u Obj.LOOP.MAIL_BAD + 1 < 2 ^ 32) ∧
    (∃ (s : State) (m : StallId × List Byte) (rest : List (StallId × List Byte)) (o : Fin 8), s.array.mail = m :: rest ∧ clerksUp s = true ∧
        s.plant.live = true ∧ fromLe (m.2.take 1) = 1 ∧ fromLe (slice m.2 1 1) = o.val ∧ s.u (Obj.LOOP.SOURCE o) = 2 ∧ (m.2.getD 2 0).getLsbD 0 =
        false ∧ plantOff s = false) ∧
    (∃ (s : State) (p : Nat), p ≤ 1500 ∧ p < 2 ^ 16 ∧ s.u Obj.SINK.SCALE_NOW = 0xFFFF) ∧
    (∃ (s : State) (p : Nat) (f : Nat), 1500 < p ∧ p < 2 ^ 16 ∧ s.u Obj.SINK.SCALE_NOW * 1500 = p * f ∧ s.u Obj.SINK.SCALE_NOW < 2 ^ 16) ∧
    (∃ (s : State) (p : Nat), p ≤ 1500 ∧ s.u Obj.SINK.SCALE_NOW < 2 ^ 16) ∧
    (∃ (s : State) (k : Fin 16), (plantOff s = true ∨ s.u (Obj.SINK.MODE k) = 0 ∨ s.bit (Obj.SINK.SSTAT k) Bit.SINK.SSTAT.SHORT = true)) ∧
    (∃ (s : State) (k : Fin 16) (mv : Nat), plantOff s = false ∧ s.u (Obj.SINK.MODE k) ≠ 0 ∧ s.bit (Obj.SINK.SSTAT k) Bit.SINK.SSTAT.SHORT = false ∧
        mv < 2 ^ 16) ∧
    (∃ (s : State) (k : Fin 16), plantOff s = false ∧ s.u (Obj.SINK.TEST_EN k) ≠ 0 ∧ s.bit (Obj.SINK.SSTAT k) Bit.SINK.SSTAT.SHORT = false ∧
        testBarred s k = false) ∧
    (∃ (s : State) (k : Fin 16), plantOff s = false ∧ s.u (Obj.SINK.TEST_EN k) ≠ 0 ∧ s.bit (Obj.SINK.SSTAT k) Bit.SINK.SSTAT.SHORT = false ∧
        testBarred s k = true ∧ s.plant.tests[k] < 3) ∧
    (∃ (s : State) (k : Fin 16), plantOff s = false ∧ s.u (Obj.SINK.TEST_EN k) ≠ 0 ∧ s.bit (Obj.SINK.SSTAT k) Bit.SINK.SSTAT.SHORT = false ∧
        testBarred s k = true ∧ 3 ≤ s.plant.tests[k]) ∧
    (∃ (s : State) (k : Fin 16), s.u (Obj.SINK.TEST_EN k) = 0) ∧
    (∃ (s : State) (t : State) (x : Session) (r : Req) (mask : BitVec 16), wrote s t x r 0x7200 7 .bits32 (le 4 mask.toNat) 2) ∧
    (∃ (s : State) (t : State) (x : Session) (r : Req) (bits : List Byte), wrote s t x r 0x7300 6 .blob bits 2 ∧ bits.length = 128 ∧ chainLive t =
        false) ∧
    (∃ (s : State), s.u Obj.CHAIN.REFRESH = 0) ∧
    (∃ (s : State), s.u Obj.CHAIN.REFRESH ≠ 0 ∧ chainLive s = true ∧ s.plant.chain.busy = false) ∧
    (∃ (s : State), s.plant.chain.busy = false) ∧
    (∃ (s : State), s.plant.chain.busy = true ∧ s.plant.chain.fresh = true) ∧
    (∃ (s : State) (l : List Byte), s.plant.chain.busy = true ∧ s.plant.chain.fresh = false ∧ s.bit Obj.CHAIN.CFLAGS Bit.CHAIN.CFLAGS.CHAIN_FAULT =
        false ∧ within s (padTo 128 l) = within s (padTo 128 s.plant.chain.shifted)) ∧
    (∃ (s : State) (l : List Byte), s.plant.chain.busy = true ∧ s.plant.chain.fresh = false ∧ s.u Obj.CHAIN.MISMATCHES + 1 < 2 ^ 32 ∧ within s (padTo
        128 l) ≠ within s (padTo 128 s.plant.chain.shifted) ∧ s.plant.chain.tries < s.u Obj.CHAIN.RETRIES) ∧
    (∃ (s : State) (l : List Byte), s.plant.chain.busy = true ∧ s.plant.chain.fresh = false ∧ s.u Obj.CHAIN.MISMATCHES + 1 < 2 ^ 32 ∧ within s (padTo
        128 l) ≠ within s (padTo 128 s.plant.chain.shifted) ∧ s.u Obj.CHAIN.RETRIES ≤ s.plant.chain.tries ∧ s.u Obj.CHAIN.FAILS + 1 < 2 ^ 32) ∧
    (∃ (s : State) (k : Fin 16) (mv vs : Nat), sinkOn s k = true) ∧
    (∃ (s : State) (k : Fin 16) (mv vs : Nat), plantOff s = false ∧ s.u (Obj.SINK.TEST_EN k) ≠ 0 ∧ s.bit (Obj.SINK.SSTAT k) Bit.SINK.SSTAT.SHORT =
        false ∧ sinkOn s k = false ∧ testBarred s k = false) ∧
    (∃ (s : State) (k : Fin 16) (mv vs : Nat), plantOff s = false ∧ s.u (Obj.SINK.TEST_EN k) ≠ 0 ∧ s.bit (Obj.SINK.SSTAT k) Bit.SINK.SSTAT.SHORT =
        false ∧ sinkOn s k = false ∧ testBarred s k = true ∧ s.plant.tests[k] < 3) ∧
    (∃ (s : State) (k : Fin 16) (mv vs : Nat), plantOff s = false ∧ s.u (Obj.SINK.TEST_EN k) ≠ 0 ∧ s.bit (Obj.SINK.SSTAT k) Bit.SINK.SSTAT.SHORT =
        false ∧ sinkOn s k = false ∧ testBarred s k = true ∧ 3 ≤ s.plant.tests[k]) ∧
    (∃ (s : State) (o : Fin 8) (k : Fin 16), plantOff s = true) ∧
    (∃ (s : State) (k : Fin 16), sinkOn s k = true ∧ s.u Obj.SINK.GLOBAL = 65535 ∧ s.u Obj.SINK.SCALE_NOW = 65535) ∧
    (∃ (s : State) (k : Fin 16), sinkOn s k = true ∧ s.u Obj.SINK.GLOBAL = 32768 ∧ s.u Obj.SINK.SCALE_NOW = 65535) ∧
    (∃ (s : State) (o : Fin 8), plantOff s = false ∧ clerksUp s = true ∧ s.u (Obj.LOOP.SOURCE o) = 1 ∧ s.u (Obj.SFE.CURVE (s.u (Obj.LOOP.SRC_INDEX o)
        % 8)) = 0 ∧ s.bit (Obj.LOOP.LSTAT o) Bit.LOOP.LSTAT.FAULT_LEVEL = false ∧ s.u (Obj.LOOP.TRIPS o) + 1 < 2 ^ 32 ∧ s.plant.loops[o].good ≤ 21000) ∧
    (∃ (s : State) (k : Fin 16), (notActive s = true ∨ s.bit (Obj.SINK.SSTAT k) Bit.SINK.SSTAT.SHORT = true)) ∧
    (∃ (s : State) (k : Fin 16) (mv vs : Nat), s.plant.live = true ∧ s.u (Obj.SINK.TEST_EN k) ≠ 0 ∧ sinkOn s k = false ∧ testBarred s k = false) ∧
    (∃ (s : State) (k : Fin 16) (mv vs : Nat), s.plant.live = true ∧ s.u (Obj.SINK.TEST_EN k) ≠ 0 ∧ sinkOn s k = false ∧ testBarred s k = true ∧
        s.plant.tests[k] < 3) ∧
    (∃ (s : State) (k : Fin 16) (mv vs : Nat), s.plant.live = true ∧ s.u (Obj.SINK.TEST_EN k) ≠ 0 ∧ sinkOn s k = false ∧ testBarred s k = true ∧ 3 ≤
        s.plant.tests[k]) := by
  and_intros
  · refine ⟨start, (1 : Fin 8), ?_⟩
    decide +kernel
  · refine ⟨(({ start with plant := { start.plant with live := true } } : State).put (Obj.LOOP.SOURCE (1 : Fin 8)) 1), (1 : Fin 8), ?_⟩
    decide +kernel
  · refine ⟨start.putBit Obj.EPOCH.FLAGS 0 false, Obj.EPOCH.FLAGS, 0, true, ?_⟩
    decide +kernel
  · refine ⟨start, (1 : Fin 8), 0, start.i (Obj.LOOP.VAL_HI (1 : Fin 8)) - start.i (Obj.LOOP.VAL_LO (1 : Fin 8)), 0, ?_⟩
    decide +kernel
  · refine ⟨((({ start with plant := { start.plant with live := true } } : State).put (Obj.LOOP.SOURCE (1 : Fin 8)) (2)).putBit (Obj.LOOP.LSTAT (1 : Fin 8))
      Bit.LOOP.LSTAT.FAULT_LEVEL false), (1 : Fin 8), ?_⟩
    decide +kernel
  · refine ⟨(start.put (Obj.LOOP.FAULT_MODE (1 : Fin 8)) (0)), (1 : Fin 8), ?_⟩
    decide +kernel
  · refine ⟨(start.put (Obj.LOOP.FAULT_MODE (1 : Fin 8)) (1)), (1 : Fin 8), ?_⟩
    decide +kernel
  · refine ⟨(start.put (Obj.LOOP.FAULT_MODE (1 : Fin 8)) (2)), (1 : Fin 8), ?_⟩
    decide +kernel
  · refine ⟨(start.put (Obj.LOOP.SOURCE (1 : Fin 8)) (3)), (1 : Fin 8), ?_⟩
    decide +kernel
  · refine ⟨{ start with array := { start.array with mail := [] } }, ?_⟩
    decide +kernel
  · refine
      ⟨{ start with array := { start.array with mail := (((3 : StallId), ([] : List Byte)) : StallId × List Byte) :: ([] : List (StallId × List Byte)) }, plant := { start.plant with live := true } },
      ((3 : StallId), ([] : List Byte)), ([] : List (StallId × List Byte)), ?_⟩
    decide +kernel
  · refine ⟨(start.put (Obj.LOOP.SOURCE (2 : Fin 8)) 2) |> fun (s : State) =>
      { s with plant := { s.plant with live := true }, array := { s.array with mail := ((3, [1, 2, 0, 4, 5, 6, 7]) : StallId × List Byte) :: ([] : List (StallId × List Byte)) } },
      (3, [1, 2, 0, 4, 5, 6, 7]), [], 2, ?_⟩
    decide +kernel
  · refine ⟨(start.put Obj.SINK.SCALE_NOW (0xFFFF)), 0, ?_⟩
    decide +kernel
  · refine ⟨start.put Obj.SINK.SCALE_NOW 2, 3000, 1, ?_⟩
    decide +kernel
  · refine ⟨start, 0, ?_⟩
    decide +kernel
  · refine ⟨start, (1 : Fin 16), ?_⟩
    decide +kernel
  · refine ⟨((({ start with plant := { start.plant with live := true } } : State).put (Obj.SINK.MODE (1 : Fin 16)) 1).putBit (Obj.SINK.SSTAT (1 : Fin 16))
      Bit.SINK.SSTAT.SHORT false), (1 : Fin 16), 0, ?_⟩
    decide +kernel
  · refine ⟨(held start).put (Obj.SINK.TEST_EN (1 : Fin 16)) 1 |> fun (s : State) => { s with plant := { s.plant with live := true } }, (1 : Fin 16),
      ?_⟩
    decide +kernel
  · refine ⟨((({ start with plant := { start.plant with live := true } } : State).put (Obj.SINK.TEST_EN (1 : Fin 16)) 1).putBit (Obj.SINK.SSTAT (1 : Fin
      16)) Bit.SINK.SSTAT.SHORT false), (1 : Fin 16), ?_⟩
    decide +kernel
  · refine ⟨((({ start with plant := { start.plant with live := true, tests := (start.plant.tests.set (1 : Fin 16) 3) } } : State).put (Obj.SINK.TEST_EN (1 :
      Fin 16)) 1).putBit (Obj.SINK.SSTAT (1 : Fin 16)) Bit.SINK.SSTAT.SHORT false), (1 : Fin 16), ?_⟩
    decide +kernel
  · refine ⟨(start.put (Obj.SINK.TEST_EN (1 : Fin 16)) (0)), (1 : Fin 16), ?_⟩
    decide +kernel
  · refine ⟨RSb start, (heardAs ((RSb start)) rq ses), ses, rq, (1 : BitVec 16), ?_⟩
    exact wrote_ok (by decide +kernel)
  · exact ⟨RSb start, (heardAs ((RSb start)) rq ses), ses, rq, List.replicate 128 5, wrote_ok (by decide +kernel), by decide +kernel⟩
  · refine ⟨(start.put Obj.CHAIN.REFRESH (0)), ?_⟩
    decide +kernel
  · refine ⟨(start.put Obj.CHAIN.CH_EN 1 |>.put Obj.CHAIN.REFRESH 5 |>.put Obj.CHAIN.RETRIES 3 |>.put Obj.CHAIN.LENGTH 16) |> fun (s : State) =>
      { s with plant := { s.plant with live := true, chain := { s.plant.chain with busy := false, fresh := false, tries := 1 } } }, ?_⟩
    decide +kernel
  · refine ⟨{ start with plant := { start.plant with chain := { start.plant.chain with busy := false } } }, ?_⟩
    decide +kernel
  · refine ⟨{ start with plant := { start.plant with chain := { start.plant.chain with busy := true, fresh := true } } }, ?_⟩
    decide +kernel
  · refine ⟨(({ start with plant := { start.plant with chain := { start.plant.chain with busy := true, fresh := false } } } : State).putBit Obj.CHAIN.CFLAGS
      Bit.CHAIN.CFLAGS.CHAIN_FAULT false), ([] : List Byte), ?_⟩
    decide +kernel
  · refine ⟨(start.put Obj.CHAIN.CH_EN 1 |>.put Obj.CHAIN.REFRESH 5 |>.put Obj.CHAIN.RETRIES 3 |>.put Obj.CHAIN.LENGTH 16) |> fun (s : State) =>
      { s with plant := { s.plant with live := true, chain := { s.plant.chain with busy := true, fresh := false, tries := 1 } } }, List.replicate
      128 5, ?_⟩
    decide +kernel
  · refine ⟨(start.put Obj.CHAIN.CH_EN 1 |>.put Obj.CHAIN.REFRESH 5 |>.put Obj.CHAIN.RETRIES 1 |>.put Obj.CHAIN.LENGTH 16) |> fun (s : State) =>
      { s with plant := { s.plant with live := true, chain := { s.plant.chain with busy := true, fresh := false, tries := 1 } } }, List.replicate
      128 5, ?_⟩
    decide +kernel
  · refine ⟨((({ start with plant := { start.plant with live := true } } : State).put (Obj.SINK.LCLASS (1 : Fin 16)) 0 |>.put (Obj.SINK.MODE (1 : Fin
        16)) 1) : State), 1, 0, 0, ?_⟩
    decide +kernel
  · refine ⟨((({ start with plant := { start.plant with live := true } } : State).put (Obj.SINK.LCLASS (1 : Fin 16)) 0 |>.put (Obj.SINK.TEST_EN (1 : Fin
        16)) 1) : State), 1, 0, 0, ?_⟩
    decide +kernel
  · refine ⟨((({ start with plant := { start.plant with live := true } } : State).put (Obj.SINK.TEST_EN (1 : Fin 16)) 1 |>.put (Obj.SINK.LCLASS (1 : Fin
        16)) 1) : State), 1, 0, 0, ?_⟩
    decide +kernel
  · refine ⟨((({ start with plant := { start.plant with live := true, tests := (start.plant.tests.set (1 : Fin 16) 3) } } : State).put (Obj.SINK.TEST_EN
        (1 : Fin 16)) 1 |>.put (Obj.SINK.LCLASS (1 : Fin 16)) 1) : State), 1, 0, 0, ?_⟩
    decide +kernel
  · refine ⟨start, 1, 1, ?_⟩
    decide +kernel
  · refine ⟨((({ start with plant := { start.plant with live := true } } : State).put (Obj.SINK.LCLASS (1 : Fin 16)) 0 |>.put (Obj.SINK.MODE (1 : Fin
        16)) 1 |>.put Obj.SINK.GLOBAL 65535 |>.put Obj.SINK.SCALE_NOW 65535) : State), 1, ?_⟩
    decide +kernel
  · refine ⟨((({ start with plant := { start.plant with live := true } } : State).put (Obj.SINK.LCLASS (1 : Fin 16)) 0 |>.put (Obj.SINK.MODE (1 : Fin
        16)) 1 |>.put Obj.SINK.GLOBAL 32768 |>.put Obj.SINK.SCALE_NOW 65535) : State), 1, ?_⟩
    decide +kernel
  · refine ⟨((({ start with plant := { start.plant with live := true } } : State)).put (Obj.LOOP.SOURCE (1 : Fin 8)) 1).put (Obj.SFE.CURVE 0) 0, 1, ?_⟩
    decide +kernel
  · refine ⟨start.setBit (Obj.SINK.SSTAT (1 : Fin 16)) Bit.SINK.SSTAT.SHORT, 1, ?_⟩
    decide +kernel
  · refine ⟨(({ start with plant := { start.plant with live := true } } : State).put (Obj.SINK.LCLASS (1 : Fin 16)) 0 |>.put (Obj.SINK.TEST_EN (1 : Fin
        16)) 1 : State), 1, 0, 0, ?_⟩
    decide +kernel
  · refine ⟨(({ start with plant := { start.plant with live := true } } : State).put (Obj.SINK.TEST_EN (1 : Fin 16)) 1 |>.put (Obj.SINK.LCLASS (1 : Fin
        16)) 1 : State), 1, 0, 0, ?_⟩
    decide +kernel
  · refine ⟨(({ start with plant := { start.plant with live := true, tests := (start.plant.tests.set (1 : Fin 16) 3) } } : State).put (Obj.SINK.TEST_EN
        (1 : Fin 16)) 1 |>.put (Obj.SINK.LCLASS (1 : Fin 16)) 1 : State), 1, 0, 0, ?_⟩
    decide +kernel

theorem witness_Calibrations :
    (∃ (s : State) (t : State) (x : Session) (r : Req) (k : Fin 20), wrote s t x r (0x7810 + k.val) 1 .u8 [1] 2 ∧ calRefusal t k.val ≠ 0) ∧
    (∃ (s : State) (t : State) (x : Session) (r : Req) (k : Fin 20), wrote s t x r (0x7810 + k.val) 1 .u8 [1] 2 ∧ calRefusal t k.val = 0 ∧ t.u
        (Obj.CAL_TARGET.RUNS k.val) + 1 < 2 ^ 32) ∧
    (∃ (s : State), s.coasting = true) ∧
    (∃ (k : Fin 20), 16 ≤ k.val) ∧
    (∃ (s : State) (k : Fin 20), k.val < 16 ∧ bwSum s.u (calPort k.val) (s.u Obj.CALIBRATION.CAL_SET) < 100000) ∧
    (∃ (s : State) (k : Fin 20), k.val < 16 ∧ (s.u (Obj.PIPELINE.DAS_SETS (calPort k.val).val)).testBit (s.u Obj.CALIBRATION.CAL_SET) = false) ∧
    (∃ (s : State) (t : State) (x : Session) (r : Req) (k : Fin 20), wrote s t x r (0x7810 + k.val) 1 .u8 [0] 2) ∧
    (∃ (s : State) (k : Fin 20), (s.calOf k.val).running = false) ∧
    (∃ (s : State) (k : Fin 20), k.val < 16 ∧ (s.calOf k.val).computing = false) ∧
    (∃ (s : State) (k : Fin 20), s.bit Obj.CALIBRATION.AUTO_EN (autoBit k.val) = true ∧ (calDue s k.val = true ∨ untrimmed s k.val = true) ∧
        calRefusal s k.val = 0) ∧
    (∃ (s : State) (k : Fin 20), (s.bit Obj.CALIBRATION.AUTO_EN (autoBit k.val) = false ∨ (calDue s k.val = false ∧ untrimmed s k.val = false) ∨
        calRefusal s k.val ≠ 0)) ∧
    (∃ (s : State), s.tdc.shadow = []) ∧
    (∃ (s : State) (c : Fin 21) (b : List Byte) (l : List (Fin 21 × List Byte)), s.tdc.shadow = (c, b) :: l) ∧
    (∃ (s : State) (k : Fin 20) (m : CalMeasure) (c : Nat), (s.calOf k.val).running = true ∧ (16 ≤ k.val ∨ (s.calOf k.val).computing = true) ∧
        (preCheck s k.val m = false ∧ c = 1 ∨ preCheck s k.val m = true ∧ beyondRange k.val (trimsAsked s k.val m) = true ∧ c = 3) ∧ s.u
        (Obj.CAL_TARGET.FAILS k.val) + 1 < 2 ^ 32) ∧
    (∃ (s : State) (k : Fin 20) (m : CalMeasure), (s.calOf k.val).running = true ∧ (16 ≤ k.val ∨ (s.calOf k.val).computing = true) ∧ preCheck s k.val
        m = true ∧ beyondRange k.val (trimsAsked s k.val m) = false ∧ lastComp s k.val = false) ∧
    (∃ (s : State) (k : Fin 20), (s.calOf k.val).running = false ∧ (s.calOf k.val).journalling = false) ∧
    (∃ (s : State) (k : Fin 20), (s.calOf k.val).running = false ∧ (s.calOf k.val).journalling = true ∧ s.u (Obj.CAL_TARGET.FAILS k.val) + 1 < 2 ^ 32) ∧
    (∃ (s : State) (k : Fin 20), (s.calOf k.val).running = true ∧ (s.calOf k.val).journalling = false ∧ s.u (Obj.CAL_TARGET.FAILS k.val) + 1 < 2 ^ 32) ∧
    (∃ (s : State) (k : Fin 20) (m : CalMeasure), (s.calOf k.val).running = true ∧ (16 ≤ k.val ∨ (s.calOf k.val).computing = true) ∧ preCheck s k.val
        m = true ∧ beyondRange k.val (trimsAsked s k.val m) = false ∧ lastComp s k.val = true ∧ qualityBad k.val (calFigures s k.val m) = true ∧ -(2 ^
        31) ≤ (calFigures s k.val m).quality ∧ (calFigures s k.val m).quality < 2 ^ 31) ∧
    (∃ (s : State) (k : Fin 20) (m : CalMeasure), 8 ≤ k.val ∧ k.val < 16) ∧
    (∃ (s : State) (k : Fin 20) (m : CalMeasure), (s.calOf k.val).running = true ∧ (16 ≤ k.val ∨ (s.calOf k.val).computing = true) ∧ preCheck s k.val
        m = true ∧ beyondRange k.val (trimsAsked s k.val m) = false ∧ lastComp s k.val = true ∧ qualityBad k.val (calFigures s k.val m) = false ∧ -(2
        ^ 31) ≤ (calFigures s k.val m).quality ∧ (calFigures s k.val m).quality < 2 ^ 31) := by
  and_intros
  · exact ⟨RSb start, (heardAs ((RSb start)) rq ses), ses, rq, (1 : Fin 20), wrote_ok (by decide +kernel), by decide +kernel⟩
  · exact ⟨RSb start, (heardAs ((RSb start)) rq ses), ses, rq, 17, wrote_ok (by decide +kernel), by decide +kernel⟩
  · refine ⟨(start.setBit Obj.CLOCKS.FLAGS Bit.CLOCKS.FLAGS.CLK_COAST), ?_⟩
    decide +kernel
  · refine ⟨17, ?_⟩
    decide +kernel
  · refine ⟨start, (1 : Fin 20), ?_⟩
    decide +kernel
  · refine ⟨start.put (Obj.PIPELINE.DAS_SETS (calPort (2 : Fin 20).val).val) 0, 2, ?_⟩
    decide +kernel
  · refine ⟨RSb start, (heardAs ((RSb start)) rq ses), ses, rq, (1 : Fin 20), ?_⟩
    exact wrote_ok (by decide +kernel)
  · refine ⟨(start.modCal (1 : Fin 20).val (fun c => { c with running := false })), (1 : Fin 20), ?_⟩
    decide +kernel
  · refine ⟨(start.modCal (1 : Fin 20).val (fun c => { c with computing := false })), (1 : Fin 20), ?_⟩
    decide +kernel
  · refine ⟨(start.setBit Obj.CALIBRATION.AUTO_EN (autoBit (17 : Fin 20).val) |>.put (Obj.CAL_TARGET.DONE (17 : Fin 20).val) 5 |>.put
      Obj.CALIBRATION.CAL_DT 1 |>.puti (Obj.CAL_TARGET.TEMP (17 : Fin 20).val) 30 |>.puti Obj.HEALTH.T_ANALOGUE 1000), 17, ?_⟩
    decide +kernel
  · refine ⟨(start.putBit Obj.CALIBRATION.AUTO_EN (autoBit (1 : Fin 20).val) false), (1 : Fin 20), ?_⟩
    decide +kernel
  · refine ⟨{ start with tdc := { start.tdc with shadow := [] } }, ?_⟩
    decide +kernel
  · refine ⟨{ start with tdc := { start.tdc with shadow := ((1 : Fin 21), ([] : List Byte)) :: ([] : List (Fin 21 × List Byte)) } }, (1 : Fin 21), ([] :
      List Byte), ([] : List (Fin 21 × List Byte)), ?_⟩
    decide +kernel
  · refine ⟨start.modCal 17 (fun y => { y with running := true }), 17, (⟨false, 0, true, [], []⟩ : CalMeasure), 1, ?_⟩
    decide +kernel
  · exact ⟨noisyState, 8, ⟨true, 0, true, [], []⟩, by decide +kernel, by decide +kernel, noisy_checked, by decide +kernel⟩
  · refine ⟨start, 1, ?_⟩
    decide +kernel
  · refine ⟨start.modCal 1 (fun y => { y with journalling := true }), 1, ?_⟩
    decide +kernel
  · refine ⟨start.modCal 1 (fun y => { y with running := true }), 1, ?_⟩
    decide +kernel
  · refine ⟨start.modCal 17 (fun y => { y with running := true }), 17, ⟨true, 500, true, [], []⟩, ?_⟩
    decide +kernel
  · refine ⟨start, 8, ⟨true, 0, true, [], []⟩, ?_⟩
    decide +kernel
  · refine ⟨start.modCal 17 (fun y => { y with running := true }), 17, ⟨true, 0, true, [], []⟩, ?_⟩
    decide +kernel

theorem witness_FlashJournals :
    (∃ (s : State) (j : Fin 18), (s.flash.journals[j].job ≠ none ∨ s.bit Obj.FLASH.PENDING j.val = false ∨ s.bit Obj.FLASH.FLAGS
        Bit.FLASH.FLAGS.WRITE_BLOCKED = true ∨ clerksUp s = false ∨ s.boot.switching = true)) ∧
    (∃ (s : State) (j : Fin 18), s.flash.journals[j].job = none ∧ s.bit Obj.FLASH.PENDING j.val = true ∧ s.bit Obj.FLASH.FLAGS
        Bit.FLASH.FLAGS.WRITE_BLOCKED = false ∧ clerksUp s = true ∧ s.boot.switching = false) ∧
    (∃ (s : State) (j : Fin 18), s.flash.journals[j].job = none) ∧
    (∃ (s : State) (j : Fin 18) (w : WriteJob), s.flash.journals[j].job = some w ∧ w.held = true) ∧
    (∃ (s : State) (j : Fin 18) (w : WriteJob), s.flash.journals[j].job = some w ∧ w.held = false ∧ w.step = 0 ∧ s.flash.journals[j].erases.getD
        (nextPlace j s.flash.journals[j]).1 0 + 1 < 2 ^ 32 ∧ s.u Obj.FLASH.ERASE_MAX < 2 ^ 32) ∧
    (∃ (s : State) (j : Fin 18) (w : WriteJob), s.flash.journals[j].job = some w ∧ w.held = false ∧ w.step = 1) ∧
    (∃ (s : State) (j : Fin 18) (ok : Bool) (w : WriteJob), s.flash.journals[j].job = some w ∧ w.held = false ∧ w.step = 2 ∧ ok = true) ∧
    (∃ (s : State) (j : Fin 18) (ok : Bool) (w : WriteJob), s.flash.journals[j].job = some w ∧ w.held = false ∧ w.step = 2 ∧ ok = false ∧ w.again =
        false) ∧
    (∃ (s : State) (j : Fin 18) (ok : Bool) (w : WriteJob), s.flash.journals[j].job = some w ∧ w.held = false ∧ w.step = 2 ∧ ok = false ∧ w.again =
        true) ∧
    (∃ (s : State) (j : Fin 18) (w : WriteJob), s.flash.journals[j].job = some w ∧ w.held = false ∧ w.step = 3) ∧
    (∃ (j : Fin 18), j.val ≠ 1) ∧
    (∃ (j : Fin 18) (x : JournalPart), j.val = 1 ∧ x.position < 15) ∧
    (∃ (j : Fin 18) (x : JournalPart), j.val = 1 ∧ 15 ≤ x.position) ∧
    (∃ (s : State), s.boot.switching = false) ∧
    (∃ (s : State) (j : Fin 18) (i : Fin 18), i ≠ j ∧ s.flash.journals[i].job ≠ none) ∧
    (∃ (s : State), s.bit Obj.HEALTH.FLAGS Bit.HEALTH.FLAGS.EARLY_WARN = false ∧ s.u Obj.FLASH.WARNINGS + 1 < 2 ^ 32) ∧
    (∃ (s : State) (b : Int), s.flash.journals[(1 : Fin 18)].began = some b ∧ b ≤ s.now ∧ s.now < b + ticksPerSecond / 4) ∧
    (∃ (s : State) (j : Fin 18), s.flash.journals[j].job = none ∧ s.bit Obj.FLASH.PENDING j.val = true ∧ s.bit Obj.FLASH.FLAGS
        Bit.FLASH.FLAGS.WRITE_BLOCKED = false ∧ clerksUp s = true ∧ s.boot.switching = false ∧ (j.val = 1 → ∀ b : Nat, s.flash.journals[j].began =
        some b → s.now < b ∨ b + ticksPerSecond / 4 ≤ s.now)) ∧
    (∃ (s : State) (j : Fin 18), s.flash.journals[j].job = none ∧ s.bit Obj.FLASH.PENDING j.val = true ∧ s.bit Obj.FLASH.FLAGS
        Bit.FLASH.FLAGS.WRITE_BLOCKED = false ∧ clerksUp s = true ∧ s.boot.switching = false ∧ (j.val = 1 → ∀ b : Int, s.flash.journals[j].began =
        some b → s.now < b ∨ b + ticksPerSecond / 4 ≤ s.now)) ∧
    (∃ (s : State) (k : Nat) (b : List Byte), (s.calOf (trimTarget k)).running = true ∧ (s.calOf (trimTarget k)).saved = [(k, b)]) ∧
    (∃ (s : State) (k : Nat), (s.calOf (trimTarget k)).running = false ∧ (s.calOf (trimTarget k)).newTrims = []) := by
  and_intros
  · refine ⟨start, (1 : Fin 18), ?_⟩
    decide +kernel
  · refine
      ⟨((({ start with flash := { start.flash with journals := (start.flash.journals.set (1 : Fin 18) { start.flash.journals[(1 : Fin 18)] with job := none }) }, boot := { start.boot with switching := false } }
      : State).putBit Obj.FLASH.PENDING (1 : Fin 18).val true).putBit Obj.FLASH.FLAGS Bit.FLASH.FLAGS.WRITE_BLOCKED false), (1 : Fin 18), ?_⟩
    decide +kernel
  · refine
      ⟨{ start with flash := { start.flash with journals := (start.flash.journals.set (1 : Fin 18) { start.flash.journals[(1 : Fin 18)] with job := none }) } }, (1
      : Fin 18), ?_⟩
    decide +kernel
  · refine
      ⟨{ start with flash := { start.flash with journals := (start.flash.journals.set (1 : Fin 18) { start.flash.journals[(1 : Fin 18)] with job := some ({ held := true } : WriteJob) }) } },
      (1 : Fin 18), ({ held := true } : WriteJob), ?_⟩
    decide +kernel
  · refine
      ⟨{ start with flash := { start.flash with journals := (start.flash.journals.set (1 : Fin 18) { start.flash.journals[(1 : Fin 18)] with job := some ({ held := false, step := 0 } : WriteJob) }) } },
      (1 : Fin 18), ({ held := false, step := 0 } : WriteJob), ?_⟩
    decide +kernel
  · refine
      ⟨{ start with flash := { start.flash with journals := (start.flash.journals.set (1 : Fin 18) { start.flash.journals[(1 : Fin 18)] with job := some ({ held := false, step := 1 } : WriteJob) }) } },
      (1 : Fin 18), ({ held := false, step := 1 } : WriteJob), ?_⟩
    decide +kernel
  · refine
      ⟨{ start with flash := { start.flash with journals := (start.flash.journals.set (1 : Fin 18) { start.flash.journals[(1 : Fin 18)] with job := some ({ held := false, step := 2 } : WriteJob) }) } },
      (1 : Fin 18), true, ({ held := false, step := 2 } : WriteJob), ?_⟩
    decide +kernel
  · refine
      ⟨{ start with flash := { start.flash with journals := (start.flash.journals.set (1 : Fin 18) { start.flash.journals[(1 : Fin 18)] with job := some ({ held := false, step := 2, again := false } : WriteJob) }) } },
      (1 : Fin 18), false, ({ held := false, step := 2, again := false } : WriteJob), ?_⟩
    decide +kernel
  · refine
      ⟨{ start with flash := { start.flash with journals := (start.flash.journals.set (1 : Fin 18) { start.flash.journals[(1 : Fin 18)] with job := some ({ held := false, step := 2, again := true } : WriteJob) }) } },
      (1 : Fin 18), false, ({ held := false, step := 2, again := true } : WriteJob), ?_⟩
    decide +kernel
  · refine
      ⟨{ start with flash := { start.flash with journals := (start.flash.journals.set (1 : Fin 18) { start.flash.journals[(1 : Fin 18)] with job := some ({ held := false, step := 3 } : WriteJob) }) } },
      (1 : Fin 18), ({ held := false, step := 3 } : WriteJob), ?_⟩
    decide +kernel
  · refine ⟨2, ?_⟩
    decide +kernel
  · refine ⟨1, { position := 3 }, ?_⟩
    decide +kernel
  · refine ⟨(1 : Fin 18), ({ position := 15 } : JournalPart), ?_⟩
    decide +kernel
  · refine ⟨{ start with boot := { start.boot with switching := false } }, ?_⟩
    decide +kernel
  · refine
      ⟨{ start with flash := { start.flash with journals := start.flash.journals.set (2 : Fin 18) { start.flash.journals[(2 : Fin 18)] with job := some {} } } }, 1,
      2, ?_⟩
    decide +kernel
  · refine ⟨(start.putBit Obj.HEALTH.FLAGS Bit.HEALTH.FLAGS.EARLY_WARN false), ?_⟩
    decide +kernel
  · refine
        ⟨{ start with flash := { start.flash with journals := start.flash.journals.set (1 : Fin 18) { start.flash.journals[(1 : Fin 18)] with began := some 0 } } },
        0, ?_⟩
    decide +kernel
  · exact
        ⟨((({ start with flash := { start.flash with journals := (start.flash.journals.set (2 : Fin 18) { start.flash.journals[(2 : Fin 18)] with job := none }) }, boot := { start.boot with switching := false } }
        : State).putBit Obj.FLASH.PENDING (2 : Fin 18).val true).putBit Obj.FLASH.FLAGS Bit.FLASH.FLAGS.WRITE_BLOCKED false), 2, by decide +kernel, by
        decide +kernel, by decide +kernel, by decide +kernel, by decide +kernel, fun h => absurd h (by decide)⟩
  · exact ⟨toWrite, 2, by decide +kernel, by decide +kernel, by decide +kernel, by decide +kernel, by decide +kernel, fun h => absurd h (by decide)⟩
  · refine ⟨start.modCal (trimTarget 5) (fun y => { y with running := true, saved := [(5, [1])] }), 5, [1], ?_⟩
    decide +kernel
  · refine ⟨start, 5, ?_⟩
    decide +kernel

theorem witness_ResetsAndBringUp :
    (∃ (s : State) (c : Nat), s.boot.zeroize = false ∧ c < 256 ∧ storesGood s) ∧
    (∃ (s : State), s.boot.zeroize = true) ∧
    (∃ (s : State) (t : State) (x : Session) (r : Req), wrote s t x r 0x7A00 0x19 .u8 [1] 3) ∧
    (∃ (s : State) (t : State) (x : Session) (r : Req) (n : BitVec 32), wrote s t x r 0x7A00 0x1A .u32 (le 4 n.toNat) 3 ∧ n.toNat = serialCrc t) ∧
    (∃ (s : State) (t : State) (x : Session) (r : Req) (n : BitVec 32), wrote s t x r 0x7A00 0x1A .u32 (le 4 n.toNat) 3 ∧ n.toNat ≠ serialCrc t) ∧
    (∃ (s : State), s.u Obj.HEALTH.BOOT_STATE ≠ 0) ∧
    (∃ (s : State), s.u Obj.HEALTH.BOOT_STATE = 0 ∧ resetHeld s = true) ∧
    (∃ (s : State), s.u Obj.HEALTH.BOOT_STATE = 0 ∧ resetHeld s = false ∧ s.boot.zeroize = true) ∧
    (∃ (s : State), s.u Obj.HEALTH.BOOT_STATE = 0 ∧ resetHeld s = false ∧ s.boot.zeroize = false ∧ (∀ j : Fin 18, s.flash.journals[j].valid =
      false)) ∧
    (∃ (s : State), s.boot.zeroize = true ∧ s.u Obj.HEALTH.BOOT_STATE = 1 ∧ s.boot.loader = false) ∧
    (∃ (s : State), s.boot.zeroize = false) ∧
    (∃ (s : State), (s.u Obj.HEALTH.BOOT_STATE ≠ 1 ∨ s.boot.loader = false)) ∧
    (∃ (s : State), s.u Obj.HEALTH.BOOT_STATE = 1 ∧ s.boot.loader = true ∧ bankGood s 0 = false ∧ bankGood s 1 = false) ∧
    (∃ (s : State) (b : Fin 2), s.u Obj.HEALTH.BOOT_STATE = 1 ∧ s.boot.loader = true ∧ s.boot.trialBank = none ∧ s.boot.confirmed = b ∧ bankGood s b
      = true) ∧
    (∃ (s : State) (b : Fin 2), s.u Obj.HEALTH.BOOT_STATE = 1 ∧ s.boot.loader = true ∧ s.boot.trialBank = some b ∧ bankGood s b = true) ∧
    (∃ (s : State) (c : Fin 2), (s.u Obj.HEALTH.BOOT_STATE ≠ 2 ∨ s.boot.served = true ∨ c.val ∈ s.boot.trained)) ∧
    (∃ (s : State) (n : Nat) (l : List Nat), s.u Obj.HEALTH.BOOT_STATE = 2 ∧ s.boot.served = false ∧ s.boot.trained = [] ∧ l.Nodup ∧ n < 2 ^ 32 ∧
      l.length ≤ 7) ∧
    (∃ (s : State) (n : Nat) (l : List Nat), s.u Obj.HEALTH.BOOT_STATE = 2 ∧ s.boot.served = false ∧ s.boot.trained = [] ∧ l.Nodup ∧ n < 2 ^ 32 ∧ 7
      < l.length) ∧
    (∃ (s : State), (s.u Obj.HEALTH.BOOT_STATE ≠ 2 ∨ s.boot.served = true ∨ s.boot.trained.length < 2)) ∧
    (∃ (s : State), s.u Obj.HEALTH.BOOT_STATE = 2 ∧ s.boot.served = false ∧ 2 ≤ s.boot.trained.length ∧ memoryGood s) ∧
    (∃ (s : State), (s.u Obj.HEALTH.BOOT_STATE ≠ 2 ∨ s.boot.served = false)) ∧
    (∃ (s : State), s.u Obj.HEALTH.BOOT_STATE = 2 ∧ s.boot.served = true) := by
  and_intros
  · refine ⟨{ start with boot := { start.boot with zeroize := false } }, 0, ?_⟩
    unfold storesGood memoryGood rising; decide +kernel
  · refine ⟨{ start with boot := { start.boot with zeroize := true } }, ?_⟩
    decide +kernel
  · refine ⟨RSb start, (heardAs ((RSb start)) rq ses), ses, rq, ?_⟩
    exact wrote_ok (by decide +kernel)
  · exact ⟨RSb start, (heardAs ((RSb start)) rq ses), ses, rq, BitVec.ofNat 32 (serialCrc (heardAs ((RSb start)) rq ses : State)), wrote_ok (by decide +kernel), by
        decide +kernel⟩
  · exact ⟨RSb start, (heardAs ((RSb start)) rq ses), ses, rq, (1 : BitVec 32), wrote_ok (by decide +kernel), by decide +kernel⟩
  · refine ⟨(start.put Obj.HEALTH.BOOT_STATE 1), ?_⟩
    decide +kernel
  · refine ⟨start.put Obj.HEALTH.BOOT_STATE 0 |> fun (s : State) => { s with boot := { s.boot with held := true } }, ?_⟩
    decide +kernel
  · refine ⟨(({ start with boot := { start.boot with zeroize := true } } : State).put Obj.HEALTH.BOOT_STATE (0)), ?_⟩
    decide +kernel
  · refine ⟨(({ start with boot := { start.boot with zeroize := false } } : State).put Obj.HEALTH.BOOT_STATE (0)), ?_⟩
    decide +kernel
  · refine ⟨(({ start with boot := { start.boot with zeroize := true, loader := false } } : State).put Obj.HEALTH.BOOT_STATE (1)), ?_⟩
    decide +kernel
  · refine ⟨{ start with boot := { start.boot with zeroize := false } }, ?_⟩
    decide +kernel
  · refine ⟨(start.put Obj.HEALTH.BOOT_STATE 2), ?_⟩
    decide +kernel
  · refine ⟨(start.put Obj.HEALTH.BOOT_STATE 1) |> fun (s : State) => { s with boot := { s.boot with loader := true, banks := Vector.replicate 2 {} } },
      ?_⟩
    decide +kernel
  · refine ⟨(start.put Obj.HEALTH.BOOT_STATE 1) |> fun (s : State) =>
      { s with boot := { s.boot with loader := true, banks := Vector.replicate 2 factoryBank, trialBank := none, confirmed := (0 : Fin 2), revoked := 0, rollback := 0 } },
      0, ?_⟩
    decide +kernel
  · refine ⟨(start.put Obj.HEALTH.BOOT_STATE 1) |> fun (s : State) =>
      { s with boot := { s.boot with loader := true, banks := Vector.replicate 2 factoryBank, trialBank := some (1 : Fin 2), confirmed := 0, revoked := 0, rollback := 0 } },
      1, ?_⟩
    decide +kernel
  · refine ⟨(start.put Obj.HEALTH.BOOT_STATE 3), (1 : Fin 2), ?_⟩
    decide +kernel
  · refine ⟨(({ start with boot := { start.boot with served := false, trained := [] } } : State).put Obj.HEALTH.BOOT_STATE (2)), 0, ([] : List Nat), ?_⟩
    decide +kernel
  · refine ⟨(start.put Obj.HEALTH.BOOT_STATE 2) |> fun (s : State) => { s with boot := { s.boot with served := false, trained := [] } }, 0, List.range
      8, ?_⟩
    decide +kernel
  · refine ⟨(start.put Obj.HEALTH.BOOT_STATE 3), ?_⟩
    decide +kernel
  · refine ⟨(start.put Obj.HEALTH.BOOT_STATE 2) |> fun (s : State) => { s with boot := { s.boot with served := false, trained := [0, 1] } }, ?_⟩
    unfold memoryGood; decide +kernel
  · refine ⟨(start.put Obj.HEALTH.BOOT_STATE 3), ?_⟩
    decide +kernel
  · refine ⟨(({ start with boot := { start.boot with served := true } } : State).put Obj.HEALTH.BOOT_STATE (2)), ?_⟩
    decide +kernel

theorem witness_FirmwareAndHealth :
    (∃ (s : State), (s.boot.clerks = false ∨ s.boot.restarting = true)) ∧
    (∃ (s : State), s.boot.halted = true) ∧
    (∃ (s : State), s.boot.clerks = true ∧ s.boot.restarting = false) ∧
    (∃ (s : State), s.boot.restarting = false) ∧
    (∃ (s : State), s.boot.restarting = true ∧ s.u Obj.HEALTH.TRIAL_S ≠ 0) ∧
    (∃ (s : State), s.boot.programming = none) ∧
    (∃ (s : State) (l : List Byte), s.boot.programming = some l) ∧
    (∃ (s : State), s.dramFailed = false) ∧
    (∃ (l : List Byte), l.length ≠ 256 + fwField l 20 4) ∧
    (∃ (s : State) (l : List Byte), fwField l 0 4 = 0x46524457 ∧ fwField l 4 2 = 1 ∧ l.length = 256 + fwField l 20 4 ∧ l.length ≤ 16777216 ∧ s.u
        Obj.IDENTITY.SILICON < fwField l 16 2) ∧
    (∃ (s : State) (l : List Byte), fwField l 0 4 = 0x46524457 ∧ fwField l 4 2 = 1 ∧ l.length = 256 + fwField l 20 4 ∧ l.length ≤ 16777216 ∧ fwField l
        16 2 ≤ s.u Obj.IDENTITY.SILICON ∧ s.boot.revoked.toNat.testBit (fwField l 6 1) = true) ∧
    (∃ (s : State) (l : List Byte), fwField l 0 4 = 0x46524457 ∧ fwField l 4 2 = 1 ∧ l.length = 256 + fwField l 20 4 ∧ l.length ≤ 16777216 ∧ fwField l
        16 2 ≤ s.u Obj.IDENTITY.SILICON ∧ fwField l 6 1 < 4 ∧ s.boot.revoked.toNat.testBit (fwField l 6 1) = false ∧ fwRollback l < s.boot.rollback) ∧
    (∃ (s : State) (t : State) (x : Session) (r : Req) (v : Nat), wrote s t x r 0x7A00 0x15 .enum8 (le 1 v) 3 ∧ (v = 1 ∨ v = 2) ∧ switchCode t v ≠ 0 ∧
        v = 1) ∧
    (∃ (s : State) (t : State) (x : Session) (r : Req) (v : Nat), wrote s t x r 0x7A00 0x15 .enum8 (le 1 v) 3 ∧ (v = 1 ∨ v = 2) ∧ switchCode t v ≠ 0 ∧
        v = 2) ∧
    (∃ (s : State) (t : State) (x : Session) (r : Req) (v : Nat), wrote s t x r 0x7A00 0x15 .enum8 (le 1 v) 3 ∧ (v = 1 ∨ v = 2) ∧ switchCode t v = 0 ∧
        v = 1) ∧
    (∃ (s : State) (t : State) (x : Session) (r : Req) (v : Nat), wrote s t x r 0x7A00 0x15 .enum8 (le 1 v) 3 ∧ (v = 1 ∨ v = 2) ∧ switchCode t v = 0 ∧
        v = 2) ∧
    (∃ (s : State), bankGood s (otherBank s.boot.inUse) = false) ∧
    (∃ (s : State), s.boot.zeroize = false) ∧
    (∃ (s : State), (∀ j : Fin 18, s.flash.journals[j].job = none)) ∧
    (∃ (s : State) (j : Fin 18), s.flash.journals[j].job ≠ none) ∧
    (∃ (s : State) (t : State) (x : Session) (r : Req), wrote s t x r 0x7A00 0x16 .u8 [1] 3) ∧
    (∃ (s : State), s.boot.trial = true) ∧
    (∃ (s : State), s.boot.trial = false) ∧
    (∃ (s : State), s.boot.trial = true ∧ s.u Obj.HEALTH.TRIAL_S ≠ 0 ∧ s.boot.trialLive = true) ∧
    (∃ (s : State), s.boot.trial = true ∧ s.u Obj.HEALTH.TRIAL_S ≠ 0 ∧ s.boot.trialLive = false ∧ s.boot.zeroize = false) ∧
    (∃ (s : State) (a : Int) (b : Int) (c : Int), (∀ v ∈ [a, b, c], -32768 ≤ v ∧ v < 32768) ∧ s.u Obj.HEALTH.T_MAX < 2 ^ 16) ∧
    (∃ (s : State), s.boot.clerks = true ∧ s.boot.restarting = false ∧ s.boot.trial = false ∧ (s.boot.restarts.filter (fun e => decide ((s.now : Int)
        < e + 600 * ticksPerSecond))).length < 3 ∧ s.u Obj.HEALTH.CLERK_RESTARTS + 1 < 2 ^ 32) ∧
    (∃ (s : State), s.boot.clerks = true ∧ s.boot.restarting = false ∧ s.boot.halted = false) ∧
    (∃ (s : State), s.boot.clerks = true ∧ s.boot.restarting = false ∧ s.boot.zeroize = false ∧ 3 ≤ (s.boot.restarts.filter (fun e => decide ((s.now :
        Int) < e + 600 * ticksPerSecond))).length) := by
  and_intros
  · refine ⟨{ start with boot := { start.boot with clerks := false } }, ?_⟩
    decide +kernel
  · refine ⟨{ start with boot := { start.boot with halted := true } }, ?_⟩
    decide +kernel
  · refine ⟨{ start with boot := { start.boot with clerks := true, restarting := false } }, ?_⟩
    decide +kernel
  · refine ⟨{ start with boot := { start.boot with restarting := false } }, ?_⟩
    decide +kernel
  · refine ⟨(({ start with boot := { start.boot with restarting := true } } : State).put Obj.HEALTH.TRIAL_S 1), ?_⟩
    decide +kernel
  · refine ⟨{ start with boot := { start.boot with programming := none } }, ?_⟩
    decide +kernel
  · refine ⟨{ start with boot := { start.boot with programming := some ([] : List Byte) } }, ([] : List Byte), ?_⟩
    decide +kernel
  · refine ⟨start, ?_⟩
    decide +kernel
  · refine ⟨([] : List Byte), ?_⟩
    decide +kernel
  · refine ⟨start.put Obj.IDENTITY.SILICON 3, le 4 0x46524457 ++ le 2 1 ++ le 2 0 ++ le 4 0 ++ le 4 0 ++ le 2 900 ++ le 2 0 ++ le 4 0 ++ List.replicate
      232 0, ?_⟩
    decide +kernel
  · refine ⟨(start.put Obj.HEALTH.BOOT_STATE 3) |> fun (s : State) => { s with boot := { s.boot with revoked := 2 } }, le 4 0x46524457 ++ le 2 1 ++ le 2
      1 ++ le 4 0 ++ le 4 0 ++ le 2 0 ++ le 2 0 ++ le 4 0 ++ List.replicate 232 0, ?_⟩
    decide +kernel
  · refine ⟨(start.put Obj.HEALTH.BOOT_STATE 3) |> fun (s : State) => { s with boot := { s.boot with revoked := 0, rollback := 3 } }, le 4 0x46524457 ++
      le 2 1 ++ le 2 1 ++ le 4 0 ++ le 4 0 ++ le 2 0 ++ le 2 0 ++ le 4 0 ++ List.replicate 232 0, ?_⟩
    decide +kernel
  · exact ⟨RSb { start with boot := { start.boot with banks := Vector.replicate 2 {} } }, (heardAs ((RSb
        { start with boot := { start.boot with banks := Vector.replicate 2 {} } } : State)) rq ses), ses, rq, 1, wrote_ok (by decide +kernel), by
        decide +kernel⟩
  · exact ⟨RSb { start with boot := { start.boot with banks := Vector.replicate 2 {} } }, (heardAs ((RSb
        { start with boot := { start.boot with banks := Vector.replicate 2 {} } } : State)) rq ses), ses, rq, 2, wrote_ok (by decide +kernel), by
        decide +kernel⟩
  · exact by
      refine ⟨RSb ((start.put Obj.IDENTITY.FIRMWARE 0) |> fun (s : State) => { s with boot := { s.boot with banks := Vector.replicate 2 factoryBank, revoked := 0, rollback := 0 } }), (heardAs ((RSb ((start.put Obj.IDENTITY.FIRMWARE 0) |> fun (s : State) => { s with boot := { s.boot with banks := Vector.replicate 2 factoryBank, revoked := 0, rollback := 0 } }) : State)) rq ses), ses, rq, 1, ?_, ?_, ?_, ?_⟩
      · exact wrote_ok (by decide +kernel)
      · decide +kernel
      · decide +kernel
      · decide +kernel
  · exact by
      refine ⟨RSb ((start.put Obj.IDENTITY.FIRMWARE 0) |> fun (s : State) => { s with boot := { s.boot with banks := Vector.replicate 2 factoryBank, revoked := 0, rollback := 0 } }), (heardAs ((RSb ((start.put Obj.IDENTITY.FIRMWARE 0) |> fun (s : State) => { s with boot := { s.boot with banks := Vector.replicate 2 factoryBank, revoked := 0, rollback := 0 } }) : State)) rq ses), ses, rq, 2, ?_, ?_, ?_, ?_⟩
      · exact wrote_ok (by decide +kernel)
      · decide +kernel
      · decide +kernel
      · decide +kernel
  · refine ⟨start, ?_⟩
    decide +kernel
  · refine ⟨{ start with boot := { start.boot with zeroize := false } }, ?_⟩
    decide +kernel
  · refine ⟨start, ?_⟩
    decide +kernel
  · refine
      ⟨{ start with flash := { start.flash with journals := start.flash.journals.set (1 : Fin 18) { start.flash.journals[(1 : Fin 18)] with job := some {} } } }, (1
      : Fin 18), ?_⟩
    decide +kernel
  · refine ⟨RSb start, (heardAs ((RSb start)) rq ses), ses, rq, ?_⟩
    exact wrote_ok (by decide +kernel)
  · refine ⟨{ start with boot := { start.boot with trial := true } }, ?_⟩
    decide +kernel
  · refine ⟨{ start with boot := { start.boot with trial := false } }, ?_⟩
    decide +kernel
  · refine ⟨(({ start with boot := { start.boot with trial := true, trialLive := true } } : State).put Obj.HEALTH.TRIAL_S 1), ?_⟩
    decide +kernel
  · refine ⟨(({ start with boot := { start.boot with trial := true, trialLive := false, zeroize := false } } : State).put Obj.HEALTH.TRIAL_S 1), ?_⟩
    decide +kernel
  · refine ⟨start, 0, 0, 0, ?_⟩
    decide +kernel
  · refine ⟨clerksState [], ?_⟩
    decide +kernel
  · refine ⟨clerksState [], ?_⟩
    decide +kernel
  · refine ⟨clerksState [0, 0, 0], ?_⟩
    decide +kernel

theorem witness_DebugPort :
    (∃ (s : State), tapHolds s = false) ∧
    (∃ (s : State), tapHolds s = true ∧ s.boot.zeroize = false) ∧
    (∃ (s : State), tapHolds s = false ∧ s.boot.lockout = false) ∧
    (∃ (s : State), tapHolds s = false ∧ s.boot.lockout = true) ∧
    (∃ (s : State) (level : BitVec 8) (b : List Byte) (c : List Byte), tapHolds s = false ∧ s.boot.challenge = some c ∧ (level = 2 ∧ ed25519
        Config.debugKey c b = true ∨ level = 1 ∧ ed25519 (padTo 32 (s.blob Obj.HEALTH.DBG_KEY)) c b = true)) ∧
    (∃ (s : State) (level : BitVec 8) (b : List Byte), tapHolds s = false ∧ responseGood s level.toNat b = false ∧ s.u Obj.HEALTH.DBG_FAILS + 1 < 2 ^
        32) ∧
    (∃ (s : State) (t : State) (x : Session) (r : Req), wrote s t x r 0x7A00 0x1E .u8 [1] 2) ∧
    (∃ (s : State) (a : BitVec 40) (v : BitVec 128) (g : DbgTarget) (i : StallId) (f : BitVec 8) (x : BitVec 8) (p : BitVec 13) (w : BitVec 18) (k :
        Fin 4) (j : Fin 2) (rd : Bool) (wr : Bool) (c : Instr), s.u Obj.HEALTH.DBG_STATE = 0 ∧ c ∈ [.memRead a, .memWrite a v, .halt g, .resume g,
        .step i, .bpSet i k p, .bpClear i k, .watchSet i j w rd wr, .regRead i f x, .regWrite i f x v, .status g]) ∧
    (∃ (s : State) (a : BitVec 40), dbgLevel s ≠ 0 ∧ debugMapped s (a.toNat / 16 * 16) = true ∧ inReserve s (a.toNat / 16 * 16) = false ∧ memKind s
        (a.toNat / 16 * 16) ≠ .yard ∧ s.poisoned (a.toNat / 16 * 16) = false) ∧
    (∃ (s : State) (a : BitVec 40), dbgLevel s ≠ 0 ∧ debugMapped s (a.toNat / 16 * 16) = true ∧ inReserve s (a.toNat / 16 * 16) = false ∧ memoryGood
        s) ∧
    (∃ (s : State) (a : BitVec 40), (debugMapped s (a.toNat / 16 * 16) = false ∨ (inReserve s (a.toNat / 16 * 16) = true ∧ dbgLevel s < 2))) ∧
    (∃ (s : State) (t : StallId), dbgLevel s ≠ 0 ∧ s.stalls[t].debugHalt = true) ∧
    (∃ (s : State) (t : StallId), dbgLevel s ≠ 0 ∧ s.stalls[t].debugHalt = false) ∧
    (∃ (s : State), dbgLevel s ≠ 0) ∧
    (∃ (s : State) (t : StallId), dbgLevel s ≠ 0 ∧ stallHalted s.stalls[t] = false) ∧
    (∃ (s : State) (t : StallId), dbgLevel s ≠ 0 ∧ stallHalted s.stalls[t] = true) ∧
    (∃ (s : State), dbgLevel s = 1) ∧
    (∃ (s : State), 2 ≤ dbgLevel s) ∧
    (∃ (s : State), tapHolds s = false ∧ s.u Obj.HEALTH.DBG_STATE = 0) ∧
    (∃ (s : State) (t : State), tapHolds s = false ∧ dbgLevel s ≠ 0 ∧ t = { s with boot := { s.boot with tap := .dbgreg } }) ∧
    (∃ (s : State) (a : Nat), memKind s a = .stall) ∧
    (∃ (s : State) (a : Nat), memKind s a = .outside) ∧
    (∃ (s : State) (a : BitVec 40), dbgLevel s ≠ 0 ∧ debugMapped s (a.toNat / 16 * 16) = true ∧ inReserve s (a.toNat / 16 * 16) = false ∧ holderOf s
        (a.toNat / 16 * 16) = some (plainHolder s (a.toNat / 16 * 16)) ∧ sound s (a.toNat / 16 * 16) 16) ∧
    (∃ (s : State) (a : BitVec 40) (v : BitVec 128), dbgLevel s ≠ 0 ∧ debugMapped s (a.toNat / 16 * 16) = true ∧ inReserve s (a.toNat / 16 * 16) =
        false ∧ memoryGood s ∧ holderOf s (a.toNat / 16 * 16) = some (plainHolder s (a.toNat / 16 * 16))) ∧
    (∃ (s : State) (arg : BitVec 40) (data : BitVec 128) (i : StallId), tapHolds s = false ∧ dbgLevel s ≠ 0 ∧ s.stalls[i].debugHalt = true) := by
  and_intros
  · refine ⟨start, ?_⟩
    decide +kernel
  · refine ⟨{ start with boot := { start.boot with tap := .extest, zeroize := false } }, ?_⟩
    decide +kernel
  · refine ⟨{ start with boot := { start.boot with lockout := false } }, ?_⟩
    decide +kernel
  · refine ⟨{ start with boot := { start.boot with lockout := true } }, ?_⟩
    decide +kernel
  · refine ⟨(start.putBlob Obj.HEALTH.DBG_KEY ([1] ++ List.replicate 31 0)) |> fun (s : State) =>
      { s with boot := { s.boot with tap := .bypass, challenge := some ([1, 2, 3] : List Byte) } }, 1, [1] ++ List.replicate 63 0, [1, 2, 3], ?_⟩
    decide +kernel
  · refine ⟨start, (1 : BitVec 8), ([] : List Byte), ?_⟩
    decide +kernel
  · refine ⟨RSb start, (heardAs ((RSb start)) rq ses), ses, rq, ?_⟩
    exact wrote_ok (by decide +kernel)
  · refine ⟨(start.put Obj.HEALTH.DBG_STATE (0)), (1 : BitVec 40), (1 : BitVec 128), DbgTarget.stall 3, (3 : StallId), (1 : BitVec 8), (1 : BitVec 8),
      (1 : BitVec 13), (1 : BitVec 18), (1 : Fin 4), (1 : Fin 2), false, false, .halt (DbgTarget.stall 3 : DbgTarget), ?_⟩
    decide +kernel
  · refine ⟨start.put Obj.HEALTH.DBG_STATE 1, 0x10000000, ?_⟩
    decide +kernel
  · refine ⟨(start.put Obj.HEALTH.DBG_STATE 1), (1 : BitVec 40), ?_⟩
    unfold memoryGood; decide +kernel
  · refine ⟨start.put Obj.HEALTH.DBG_STATE 1, 0xFFFFFFFFFF, ?_⟩
    decide +kernel
  · refine ⟨(({ start with stalls := (start.stalls.set (3 : StallId) { start.stalls[(3 : StallId)] with debugHalt := true }) } : State).put Obj.HEALTH.DBG_STATE
      1), (3 : StallId), ?_⟩
    decide +kernel
  · refine ⟨(({ start with stalls := (start.stalls.set (3 : StallId) { start.stalls[(3 : StallId)] with debugHalt := false }) } : State).put
      Obj.HEALTH.DBG_STATE 1), (3 : StallId), ?_⟩
    decide +kernel
  · refine ⟨(start.put Obj.HEALTH.DBG_STATE 1), ?_⟩
    decide +kernel
  · refine ⟨(start.put Obj.HEALTH.DBG_STATE 1), (3 : StallId), ?_⟩
    decide +kernel
  · refine ⟨(start.put Obj.HEALTH.DBG_STATE 1) |> fun (s : State) =>
      { s with stalls := s.stalls.set (3 : StallId) { s.stalls[(3 : StallId)] with debugHalt := true } }, (3 : StallId), ?_⟩
    decide +kernel
  · refine ⟨start.put Obj.HEALTH.DBG_STATE 1, ?_⟩
    decide +kernel
  · refine ⟨start.put Obj.HEALTH.DBG_STATE 2, ?_⟩
    decide +kernel
  · refine ⟨(start.put Obj.HEALTH.DBG_STATE (0)), ?_⟩
    decide +kernel
  · exact ⟨(start.put Obj.HEALTH.DBG_STATE 1), _, by decide +kernel, by decide +kernel, rfl⟩
  · refine ⟨start, 0x10000000, ?_⟩
    decide +kernel
  · refine ⟨start, 2 ^ 60, ?_⟩
    decide +kernel
  · exact ⟨debugOne, 0x10000000, by decide +kernel, by decide +kernel, by decide +kernel, holder_plain (by decide +kernel), sound_ok (by
        decide +kernel)⟩
  · exact ⟨debugOne, 0x10000000, 1, by decide +kernel, by decide +kernel, by decide +kernel, memory_ok (by decide +kernel), holder_plain (by
        decide +kernel)⟩
  · refine ⟨{ debugOne with stalls := debugOne.stalls.set (3 : StallId) { debugOne.stalls[(3 : StallId)] with debugHalt := true } }, 0, 0, 3, ?_⟩
    decide +kernel

theorem witness_StepTakesFront :
    (∃ (s : State), s.pending = []) ∧
    (∃ (s : State), s.pending = [] ∧ (s.ep.running = false ∨ s.clk.stopped = true)) := by
  refine ⟨?_, ?_⟩
  · refine ⟨{ start with pending := [] }, ?_⟩
    decide +kernel
  · refine ⟨{ start with pending := [], ep := { start.ep with running := false } }, ?_⟩
    decide +kernel

theorem witness_RollbackFuseNeverFalls :
    ∃ (s : State) (t : State), step s = .next t := by
  refine ⟨{ start with pending := [.trstN] }, (match exec .trstN start with | .next u => u | _ => start), ?_⟩
  exact rfl

theorem witness_QualityZeroValue :
    ∃ (x : Shot) (r : GridRec) (ea : Option GridRec) (eb : Option GridRec) (free : BitVec 24), x.cfg.outMode = 0 ∧ (∀ a ∈ ea, a.q ≤ 255) ∧ (∀ b ∈
      eb, b.q ≤ 255) ∧ x.cfg.qcapGain ≤ 255 ∧ x.cfg.qcapAmbig ≤ 255 ∧ x.cfg.qcapRelearn ≤ 255 ∧ (phasePoint x r ea eb free).word.toNat % 256 = 0 := by
  refine ⟨(let z6 := ({} : Shot); { z6 with cfg := { z6.cfg with outMode := 0 } }),
    ({ p := 0, cOld := (0, 0), cNew := (0, 0), q := 0, dark := false, late := false, poisoned := false, suspect := false, word := (1 : BitVec 128), align := ([] : List (BitVec 5)), old := 0 }
    : GridRec), (none : Option GridRec), (none : Option GridRec), (1 : BitVec 24), ?_⟩
  decide +kernel

theorem witness_RotationBase :
    (∃ (n : Fin 64), 32 ≤ n.val) ∧
    (∃ (n : Fin 64), n.val < 32) ∧
    (∃ (s : State) (t : StallId), ready s t) ∧
    (∃ (s : State) (u : State) (t : StallId) (n : Fin 64) (m : Fin 64), ready s t ∧ 32 ≤ n.val ∧ m.val = n.val + 1 ∧ exec (.rotb t) s = .next u) := by
  refine ⟨?_, ?_, ?_, ?_⟩
  · refine ⟨40, ?_⟩
    decide +kernel
  · refine ⟨(1 : Fin 64), ?_⟩
    decide +kernel
  · refine ⟨serving, (3 : StallId), ?_⟩
    exact ready_ok (by decide +kernel)
  · exact ⟨serving, match exec (.rotb 3) serving with | .next u => u | _ => start, 3, 40, 41, ready_ok (by decide +kernel), by decide, rfl, rfl⟩

end Sys2Proof.Tests
end

section
/-! SUPPORT. Registers and frames: what a write leaves of the registers a statement lists, and what the day book, the stream engine and the CAN
port leave as it is whatever they do. -/

namespace Sys2Proof.Machine

/-! ## Registers -/

/-- A flag written and the other flags of its word. -/
theorem State.bit_putBit (s : State) (r : Reg) (b c : Nat) (x : Bool) (hc : c < r.width) :
    (s.putBit r b x).bit r c = if b = c then x else s.bit r c := by
  simp [State.bit, State.putBit_eq, State.u_put_self, Nat.testBit_mod_two_pow, hc, withBit_testBit]

theorem State.u_put_of_lt (s : State) (r : Reg) (v : Nat) (h : v < 2 ^ r.width) : (s.put r v).u r = v := by
  rw [State.u_put_self, Nat.mod_eq_of_lt h]

theorem State.u_add_self (s : State) (r : Reg) (n : Nat) (h : s.u r + n < 2 ^ r.width) : (s.add r n).u r = s.u r + n := by
  rw [State.add_eq, counted_eq _ _ _ h, State.u_put_of_lt _ _ _ h]

theorem State.u_bump_self (s : State) (r : Reg) (h : s.u r + 1 < 2 ^ r.width) : (s.bump r).u r = s.u r + 1 :=
  s.u_add_self r 1 h

/-- A register reads the same in two states whose registers are the same. -/
theorem State.u_of_regs {s t : State} (e : t.regs = s.regs) (r : Reg) : t.u r = s.u r := by
  simp only [State.u, e]

end Sys2Proof.Machine

namespace Sys2Proof
open Machine

/-! ## The registers a statement lists -/

theorem regsKept.refl (s : State) (l : List Reg) : regsKept s s l := fun _ _ => rfl

theorem regsKept.put {s t : State} {l : List Reg} (h : regsKept s t l) {r : Reg} (hr : r ∈ l) (v : Nat) : regsKept s (t.put r v) l :=
  fun x hx => (State.u_put_ne _ _ _ _ (hx r hr)).trans (h x hx)

theorem regsKept.of_regs {s t u : State} {l : List Reg} (h : regsKept s t l) (e : u.regs = t.regs) : regsKept s u l :=
  fun x hx => (State.u_of_regs e x).trans (h x hx)

theorem regsKept.trans {s t u : State} {l : List Reg} (h : regsKept s t l) (g : regsKept t u l) : regsKept s u l :=
  fun x hx => (g x hx).trans (h x hx)

theorem regsKept.mono {s t : State} {l m : List Reg} (h : regsKept s t l) (hl : ∀ x ∈ l, x ∈ m) : regsKept s t m :=
  fun x hx => h x fun y hy => hx y (hl y hy)

theorem onlyRegs.refl (s : State) (l : List Reg) : onlyRegs s s l := ⟨rfl, regsKept.refl s l⟩

theorem onlyRegs.put {s t : State} {l : List Reg} (h : onlyRegs s t l) {r : Reg} (hr : r ∈ l) (v : Nat) : onlyRegs s (t.put r v) l :=
  ⟨by conv_lhs => rw [State.put, h.1]
      rfl, h.2.put hr v⟩

theorem onlyRegs.mono {s t : State} {l m : List Reg} (h : onlyRegs s t l) (hl : ∀ x ∈ l, x ∈ m) : onlyRegs s t m := ⟨h.1, h.2.mono hl⟩

end Sys2Proof
end

section
/-! SUPPORT. What the day book, the stream engine, the links and the CAN port leave as it is, whatever they do: every part of State outside them,
and the registers of the clocks, the epoch, the ports and the array. -/

namespace Sys2Proof.Machine

/-! ## What lies apart from the day book, the streams, the links and the CAN port -/

/-- A state without the parts that belong to the day book, the streams, the network, the links and the CAN port. -/
def State.bare (s : State) : State :=
  { s with regs := [], blobs := [], staged := [], stagedBlobs := [], flips := [], eth := Vector.replicate 4 {},
           streams := Vector.replicate 256 {}, bale := {}, ledger := {}, can := {}, book := {}, links := Vector.replicate 4 {}, twin := {},
           netHeld := [], out := [], fresh := 0 }

/-- The registers of the records 2000h to 527Fh: clocks, epoch, axes, time-interval unit, fibre ports, engines, stalls and regions. -/
def innerReg (r : Reg) : Bool := decide (0x200000 ≤ r.key) && decide (r.key < 0x528000)

/-- What the day book, the stream engine, the links and the CAN port do not touch: the other parts of State, and what the inner registers read. -/
def State.apart (s : State) : State × (Reg → Nat) := (s.bare, fun r => if innerReg r then s.u r else 0)

theorem innerReg_of_high {r : Reg} (h : 0x528000 ≤ r.key) : innerReg r = false := by
  simp [innerReg, Nat.not_lt.mpr h]

theorem innerReg_of_low {r : Reg} (h : r.key < 0x200000) : innerReg r = false := by
  simp [innerReg, Nat.not_le.mpr h]

theorem State.u_of_apart {s t : State} (h : t.apart = s.apart) (r : Reg) (hr : innerReg r = true) : t.u r = s.u r := by
  simpa only [State.apart, hr, if_true] using congrFun (congrArg Prod.snd h) r

theorem State.bit_of_apart {s t : State} (h : t.apart = s.apart) (r : Reg) (b : Nat) (hr : innerReg r = true) : t.bit r b = s.bit r b := by
  rw [State.bit, State.u_of_apart h r hr, State.bit]

theorem State.ep_of_apart {s t : State} (h : t.apart = s.apart) : t.ep = s.ep := congrArg (fun p => p.1.ep) h
theorem State.mem_of_apart {s t : State} (h : t.apart = s.apart) : t.mem = s.mem := congrArg (fun p => p.1.mem) h
theorem State.ports_of_apart {s t : State} (h : t.apart = s.apart) : t.ports = s.ports := congrArg (fun p => p.1.ports) h
theorem State.stalls_of_apart {s t : State} (h : t.apart = s.apart) : t.stalls = s.stalls := congrArg (fun p => p.1.stalls) h

/-! ## One rule per way an operation is built -/

theorem State.apart_of {s t : State} (h : t.bare = s.bare) (hr : ∀ r : Reg, innerReg r = true → t.u r = s.u r) : t.apart = s.apart := by
  refine Prod.ext h (funext fun r => ?_)
  change (if innerReg r then t.u r else 0) = if innerReg r then s.u r else 0
  split
  · exact hr r ‹_›
  · rfl

theorem State.apart_foldl {α : Type} {f : State → α → State} (h : ∀ t a, (f t a).apart = t.apart) (l : List α) (s : State) :
    (l.foldl f s).apart = s.apart := by
  induction l generalizing s with
  | nil => rfl
  | cons a l ih => exact (ih _).trans (h s a)

theorem State.apart_overAll {n : Nat} {f : State → Fin n → State} (h : ∀ t a, (f t a).apart = t.apart) (s : State) :
    (overAll s f).apart = s.apart := State.apart_foldl h _ s

theorem State.apart_ite {c : Prop} [Decidable c] {a b s : State} (ha : a.apart = s.apart) (hb : b.apart = s.apart) :
    (if c then a else b).apart = s.apart := by
  split
  · exact ha
  · exact hb

theorem State.apart_put (s : State) {r : Reg} (v : Nat) (hr : innerReg r = false) : (s.put r v).apart = s.apart :=
  State.apart_of rfl fun x hx => State.u_put_ne _ _ _ _ fun e => by
    rw [innerReg, e, ← innerReg, hx] at hr
    exact Bool.noConfusion hr

theorem State.apart_add (s : State) {r : Reg} (n : Nat) (hr : innerReg r = false) : (s.add r n).apart = s.apart := s.apart_put _ hr
theorem State.apart_bump (s : State) {r : Reg} (hr : innerReg r = false) : (s.bump r).apart = s.apart := s.apart_put _ hr
theorem State.apart_setBit (s : State) {r : Reg} (b : Nat) (hr : innerReg r = false) : (s.setBit r b).apart = s.apart := s.apart_put _ hr

@[simp] theorem State.apart_modStream (s : State) (k : Fin 256) (f : StreamPart → StreamPart) : (s.modStream k f).apart = s.apart := rfl
@[simp] theorem State.apart_modEth (s : State) (p : Fin 4) (f : EthPort → EthPort) : (s.modEth p f).apart = s.apart := rfl
@[simp] theorem State.apart_modLink (s : State) (k : Fin 4) (f : LinkPart → LinkPart) : (s.modLink k f).apart = s.apart := rfl
@[simp] theorem State.apart_emit (s : State) (o : Out) : (s.emit o).apart = s.apart := rfl
@[simp] theorem State.apart_drawn (s : State) : s.drawn.apart = s.apart := rfl

/-! ## Links and frames -/

@[simp] theorem State.apart_putFrame (s : State) (k : Fin 4) (f : AggonFrame) : (s.putFrame k f).apart = s.apart :=
  (State.apart_emit _ _).trans (State.apart_modLink _ _ _)

@[simp] theorem State.apart_sendNow (s : State) (k : Fin 4) (f : AggonFrame) : (s.sendNow k f).apart = s.apart :=
  (State.apart_putFrame _ _ _).trans (State.apart_modLink _ _ _)

@[simp] theorem State.apart_pump (n : Nat) (s : State) (k : Fin 4) : (State.pump n s k).apart = s.apart := by
  induction n generalizing s with
  | zero => rfl
  | succ n ih =>
    rw [State.pump]
    split
    · rfl
    · exact State.apart_ite ((ih _).trans (State.apart_sendNow _ _ _)) rfl

@[simp] theorem State.apart_sendFrame (s : State) (k : Fin 4) (f : AggonFrame) : (s.sendFrame k f).apart = s.apart :=
  State.apart_ite rfl ((State.apart_ite rfl (State.apart_pump _ _ _)).trans (State.apart_modLink _ _ _))

@[simp] theorem State.apart_sendMirror (s : State) (b : AggonBody) : (s.sendMirror b).apart = s.apart := by
  rw [State.sendMirror]
  split
  · exact State.apart_sendFrame _ _ _
  · rfl

theorem State.apart_mirrorCommit (s : State) (idx : Nat) : (s.mirrorCommit idx).apart = s.apart :=
  State.apart_ite (State.apart_foldl (fun _ _ => State.apart_sendMirror _ _) _ _) rfl

/-! ## Frames on Ethernet and CAN -/

theorem State.apart_sentOn (s : State) (qs : List (Fin 4)) (o : Out) : (s.sentOn qs o).apart = s.apart :=
  State.apart_ite rfl ((State.apart_emit _ _).trans (State.apart_foldl (fun t q =>
    t.apart_bump (innerReg_of_low (by dsimp [Obj.ETH_PORT.TX_FRAMES]; omega))) _ _))

theorem State.apart_sendOn (s : State) (p : Nat) (f : Option (BitVec 16) → Out) : (s.sendOn p f).apart = s.apart := by
  have hl : ∀ qs o, (s.leave qs o).apart = s.apart := fun qs o => State.apart_ite rfl (State.apart_sentOn _ _ _)
  exact (State.apart_ite (State.apart_modEth _ _ _) rfl).trans (hl _ _)

theorem State.apart_sendControl (s : State) (p : Path) (d : List Byte) : (s.sendControl p d).apart = s.apart := by
  cases p
  case udp => exact State.apart_sendOn _ _ _
  all_goals rfl

theorem State.apart_withCan (s : State) (c : CanPart) : ({ s with can := c }).apart = s.apart := rfl

theorem State.apart_canPassed (s : State) (r : Reg) (most weight : Nat) (hr : innerReg r = false) :
    (s.canPassed r most weight).apart = s.apart :=
  (State.apart_drawn _).trans ((State.apart_withCan _ _).trans (s.apart_put _ hr))

theorem State.apart_canFlush (s : State) : s.canFlush.apart = s.apart :=
  State.apart_ite ((State.apart_withCan _ _).trans
    (State.apart_foldl (fun t _ => (State.apart_emit _ _).trans (t.apart_canPassed _ _ _ rfl)) _ _)) rfl

/-! ## The day book -/

theorem State.apart_overtake (s : State) (gone : Item → Bool) : (s.overtake gone).apart = s.apart := by
  refine State.apart_overAll (fun t k => ?_) s
  dsimp only
  split
  · rfl
  · split
    · rw [State.apart_add _ _ (innerReg_of_high (by decide)),
        State.apart_add _ _ (innerReg_of_high (by dsimp [Obj.STREAM.LOST]; omega)), State.apart_modStream]
    · rfl

theorem State.apart_flushCells (s : State) : s.flushCells.apart = s.apart := State.apart_ite rfl rfl

theorem State.apart_withBook (s : State) (b : DayBook) (l : LedgerPart) (x : List (Nat × BitVec 137)) :
    ({ s with flips := x, book := b, ledger := l }).apart = s.apart := rfl

theorem State.apart_logRaw (s : State) (e : Ev) : (s.logRaw e).apart = s.apart := by
  rw [State.logRaw]
  split
  · exact s.apart_bump (innerReg_of_high (by decide))
  · dsimp only
    refine (State.apart_ite (State.apart_setBit _ _ (innerReg_of_high (by decide))) rfl).trans ?_
    rw [State.apart_flushCells, State.apart_put _ _ (innerReg_of_high (by decide)), State.apart_put _ _ (innerReg_of_high (by decide))]
    exact (State.apart_ite rfl (State.apart_overtake _ _)).trans (State.apart_withBook s _ _ _)

/-! ## Commits of groups outside -/

theorem rf_foldl_rfSet (l : List (Nat × Nat)) (r : List (Nat × Nat)) (k d : Nat) (h : ∀ e ∈ l, e.1 ≠ k) :
    rf (l.foldl (fun m e => rfSet m e.1 e.2) r) k d = rf r k d := by
  induction l generalizing r with
  | nil => rfl
  | cons e l ih =>
    rw [List.foldl_cons, ih _ (fun x hx => h x (List.mem_cons_of_mem _ hx)), rf_rfSet_ne _ _ _ _ _ (h e List.mem_cons_self)]

/-- A staged copy taken leaves the registers of other records. -/
theorem State.u_takeStaged_other (s : State) (idxs : List Nat) (r : Reg) (h : r.key / 256 ∉ idxs) : (s.takeStaged idxs).u r = s.u r := by
  refine rf_foldl_rfSet _ _ _ _ fun e he hk => h ?_
  rw [← hk]
  simpa using (List.mem_filter.mp he).2

/-- A group outside 2000h to 527Fh is one record. -/
theorem groupIndices_outer (idx : Nat) (h : idx < 0x2000 ∨ 0x5280 ≤ idx) : groupIndices idx = [idx] := by
  rw [groupIndices, if_neg (by omega)]

theorem State.apart_takeStaged (s : State) (idx : Nat) (h : idx < 0x2000 ∨ 0x5280 ≤ idx) :
    (s.takeStaged (groupIndices idx)).apart = s.apart := by
  rw [groupIndices_outer idx h]
  refine State.apart_of rfl fun r hr => s.u_takeStaged_other _ _ ?_
  simp only [innerReg, Bool.and_eq_true, decide_eq_true_eq] at hr
  simp only [List.mem_singleton]
  omega

theorem State.apart_withLedger (s : State) (l : LedgerPart) : ({ s with ledger := l }).apart = s.apart := rfl

theorem State.apart_commitRaw (s : State) (idx : Nat) (h : idx < 0x2000 ∨ 0x5280 ≤ idx) : (s.commitRaw idx).apart = s.apart := by
  rw [State.commitRaw, State.apart_logRaw, State.apart_mirrorCommit, State.apart_withLedger,
    State.apart_setBit _ _ (innerReg_of_high (by decide)), State.apart_takeStaged _ _ h]

theorem State.apart_toStreams (s : State) (kind : Nat) (takes : Fin 256 → Bool) (it : Fin 256 → Item) :
    (s.toStreams kind takes it).apart = s.apart :=
  State.apart_overAll (fun _ _ => State.apart_ite (State.apart_modStream _ _ _) rfl) s

theorem State.apart_readBook (s : State) : s.readBook.apart = s.apart :=
  (State.apart_foldl (fun _ _ => State.apart_toStreams _ _ _ _) _ _).trans (State.apart_withBook s _ _ _)

theorem State.apart_settleBook (s : State) : s.settleBook.apart = s.apart :=
  State.apart_ite (State.apart_commitRaw _ _ (by decide)) rfl

/-- An entry of the day book leaves what lies apart from it. -/
theorem State.apart_log (s : State) (e : Ev) : (s.log e).apart = s.apart := by
  rw [State.log, State.apart_readBook, State.apart_settleBook, State.apart_logRaw]

theorem State.apart_commit (s : State) (idx : Nat) (h : idx < 0x2000 ∨ 0x5280 ≤ idx) : (s.commit idx).apart = s.apart := by
  rw [State.commit, State.apart_readBook, State.apart_settleBook, State.apart_commitRaw _ _ h]

theorem State.apart_canRest (s : State) : s.canRest.apart = s.apart :=
  State.apart_ite ((State.apart_canFlush _).trans (State.apart_commit _ _ (by decide))) rfl

/-! ## The stream engine -/

theorem State.apart_tollSums (s : State) : s.tollSums.apart = s.apart := by
  simp only [State.tollSums, List.foldl_cons, List.foldl_nil]
  rw [State.apart_put _ _ (innerReg_of_low (by decide)), State.apart_put _ _ (innerReg_of_low (by decide))]

theorem State.apart_withBale (s : State) (b : BalePart) : ({ s with bale := b }).apart = s.apart := rfl

theorem State.apart_closeStream (s : State) (k : Fin 256) : (s.closeStream k).apart = s.apart := by
  rw [State.closeStream]
  refine State.apart_ite rfl ?_
  dsimp only
  rw [State.apart_setBit _ _ (innerReg_of_high (by decide)), State.apart_tollSums]
  simp only [List.foldl_cons, List.foldl_nil]
  repeat rw [State.apart_put _ _ (innerReg_of_high (by
    dsimp [Obj.STREAM.ENABLE, Obj.STREAM.LEASE, Obj.STREAM.TWIN, Obj.STREAM.SSTATE, Obj.STREAM.BACKLOG, Obj.STREAM.TOLL_USE, Obj.STREAM.OWNER]
    omega))]
  rw [State.apart_modStream, State.apart_withBale]
  exact State.apart_ite (State.apart_sendControl _ _ _) rfl

theorem State.apart_streamBoundary (s : State) (k : Fin 256) : (s.streamBoundary k).apart = s.apart := by
  have hc : ((s.settleBucket k).commitRaw (0x6000 + k)).apart = s.apart :=
    (State.apart_commitRaw _ _ (by omega)).trans (State.apart_modStream _ _ _)
  exact State.apart_ite (State.apart_ite ((State.apart_closeStream _ _).trans hc) ((State.apart_tollSums _).trans hc)) rfl

theorem State.apart_closeBale (s : State) (k : Fin 256) : (s.closeBale k).apart = s.apart := by
  rw [State.closeBale]
  split
  · rfl
  · rw [State.apart_streamBoundary, State.apart_bump _ (innerReg_of_high (by dsimp [Obj.STREAM.BALES]; omega)), State.apart_modStream,
      State.apart_withBale]

theorem apart_feed (f : Nat) (s : State) (k : Fin 256) (it : Item) (off : Nat) : (feed f s k it off).apart = s.apart := by
  induction f generalizing s off with
  | zero => rfl
  | succ f ih =>
    rw [feed]
    dsimp only
    split
    · rfl
    · split
      · exact State.apart_ite ((State.apart_closeBale _ _).trans rfl) rfl
      · refine State.apart_ite ((ih _ _).trans (State.apart_closeBale _ _)) ?_
        exact (ih _ _).trans ((State.apart_closeBale _ _).trans (State.apart_modStream _ _ _))

theorem apart_readOn (f : Nat) (s : State) (k : Fin 256) (n : Nat) : (readOn f s k n).apart = s.apart := by
  induction f generalizing s n with
  | zero => rfl
  | succ f ih =>
    rw [readOn]
    split
    · rfl
    · refine State.apart_ite (State.apart_modStream _ _ _) ?_
      rw [ih, State.appendItem, apart_feed]
      refine (State.apart_ite rfl (State.apart_add _ _ (innerReg_of_high (by decide)))).trans ?_
      exact (State.apart_ite rfl (State.apart_add _ _ (innerReg_of_high (by dsimp [Obj.STREAM.POISON_WORDS]; omega)))).trans
        (State.apart_modStream _ _ _)

theorem State.apart_engineRead (s : State) : s.engineRead.apart = s.apart := by
  rw [State.engineRead]
  split
  · rfl
  · exact (State.apart_readBook _).trans ((apart_readOn _ _ _ _).trans (State.apart_drawn _))

end Sys2Proof.Machine
end

section
/-! SUPPORT. Signed registers, and changes made over every number of a range. -/

namespace Sys2Proof.Machine

/-! ## Two's complement (R7) -/

theorem ofSigned_lt (w : Nat) (v : Int) : ofSigned w v < 2 ^ w := by
  have hp : (0 : Int) < 2 ^ w := by positivity
  have h1 := Int.emod_nonneg v hp.ne'
  have h2 := Int.emod_lt_of_pos v hp
  rw [ofSigned]
  zify
  rw [Int.toNat_of_nonneg h1]
  exact h2

theorem State.i_puti_self (s : State) (r : Reg) (v : Int) : (s.puti r v).i r = toSigned r.width (ofSigned r.width v) := by
  rw [State.i, State.puti_eq, State.u_put_of_lt _ _ _ (ofSigned_lt _ _)]

/-- A number cut to a width and read back is the one the bit vector of that width spells. -/
theorem toSigned_ofSigned (w : Nat) (v : Int) : toSigned w (ofSigned w v) = (BitVec.ofInt w v).toInt := by
  have hn : (BitVec.ofInt w v).toNat = ofSigned w v := by
    rw [BitVec.toNat_ofInt, ofSigned]
    norm_cast
  rw [toSigned, BitVec.toInt_eq_toNat_cond, hn]
  have : (2 * ofSigned w v < 2 ^ w) ↔ ofSigned w v < 2 ^ (w - 1) := by
    cases w with
    | zero => simp [ofSigned]
    | succ w => rw [Nat.pow_succ, Nat.add_sub_cancel]; omega
  simp only [this]
  norm_cast

/-- A number within the range of 32 bits reads back as it is. -/
theorem toSigned_ofSigned_of_range (v : Int) (h1 : -(2 ^ 31) ≤ v) (h2 : v < 2 ^ 31) : toSigned 32 (ofSigned 32 v) = v := by
  rw [toSigned_ofSigned, BitVec.toInt_ofInt]
  exact Int.bmod_eq_of_le (by norm_num; omega) (by norm_num; omega)

/-! ## Changes over every number of a range -/

/-- What a change over a list brings about at one of its members and never undoes holds after it. -/
theorem foldl_reaches {α : Type} {f : State → α → State} {P : State → Prop} {l : List α} {a : α} (ha : a ∈ l) (hit : ∀ t, P (f t a))
    (keep : ∀ t b, P t → P (f t b)) (s : State) : P (l.foldl f s) := by
  have stays : ∀ (m : List α) (t : State), P t → P (m.foldl f t) := by
    intro m
    induction m with
    | nil => exact fun _ h => h
    | cons b m ih => exact fun t h => ih _ (keep t b h)
  obtain ⟨l₁, l₂, rfl⟩ := List.append_of_mem ha
  rw [List.foldl_append, List.foldl_cons]
  exact stays l₂ _ (hit _)

theorem overAll_reaches {n : Nat} {f : State → Fin n → State} {P : State → Prop} (a : Fin n) (hit : ∀ t, P (f t a))
    (keep : ∀ t b, P t → P (f t b)) (s : State) : P (overAll s f) :=
  foldl_reaches (List.mem_finRange a) hit keep s

/-- What every change of a list keeps holds after it where it held before. -/
theorem overAll_induct {n : Nat} {f : State → Fin n → State} {P : State → Prop} (keep : ∀ t b, P t → P (f t b)) (s : State) (h : P s) :
    P (overAll s f) := by
  rw [overAll]
  induction List.finRange n generalizing s with
  | nil => exact h
  | cons b l ih => exact ih _ (keep s b h)

end Sys2Proof.Machine
end

section
/-! SUPPORT. The epoch counter (R16, R26): a correction of the count, and a second of holdover. -/

namespace Sys2Proof.Machine

theorem epochCorrectionOverflow_corrects (s : State) (hr : s.ep.running = true) (hc : s.coasting = false)
    (hf : s.i Obj.EPOCH.FREQ_ADJ ≠ 0) :
    exec .epochCorrectionOverflow s = .next { s with ep := { s.ep with
      count := s.ep.count + (if 0 < s.i Obj.EPOCH.FREQ_ADJ then 2 else 0), phase := s.ep.phase + 1,
      acc := s.ep.acc + Config.accStep (s.i Obj.EPOCH.FREQ_ADJ),
      corrected := s.ep.corrected + (if 0 < s.i Obj.EPOCH.FREQ_ADJ then 1 else -1),
      recent := ((s.now, if 0 < s.i Obj.EPOCH.FREQ_ADJ then 1 else -1) :: s.ep.recent).take 128 } } := by
  change execEpochCorrectionOverflow s = _
  by_cases hp : 0 < s.i Obj.EPOCH.FREQ_ADJ <;> simp [execEpochCorrectionOverflow, hr, hc, hf, hp, EpochPart.advance]

theorem holdoverErrGrowth_holdover (s : State) (h : s.u Obj.EPOCH.SOURCE = 4) :
    exec .holdoverErrGrowth s = .next (s.bump Obj.EPOCH.HOLDOVER_ERR).degradedFlag := by
  change execHoldoverErrGrowth s = _
  rw [execHoldoverErrGrowth, if_pos h]

theorem State.u_degradedFlag (s : State) (r : Reg) (h : Obj.EPOCH.FLAGS.key ≠ r.key) : s.degradedFlag.u r = s.u r :=
  State.u_put_ne _ _ _ _ h

theorem State.degraded_degradedFlag (s : State) :
    s.degradedFlag.bit Obj.EPOCH.FLAGS Bit.EPOCH.FLAGS.DEGRADED =
      (s.u Obj.EPOCH.SOURCE == 4 && decide (s.u Obj.EPOCH_SOURCE.HOLD_ERR_MAX < s.u Obj.EPOCH.HOLDOVER_ERR)) :=
  State.bit_putBit_self _ _ _ _ (by decide)

/-- Settles O1: the count by the branch of the overflow, the bound by the counter's step and the flag that follows it. -/
theorem epochCorrectionAndHoldover : Obligations.EpochCorrectionAndHoldover := by
  refine ⟨epochCorrectionOverflow_corrects, fun s h4 hlt => ⟨_, holdoverErrGrowth_holdover s h4, ?_, ?_, ?_⟩⟩
  · rw [State.u_degradedFlag _ _ (by decide), State.u_bump_self _ _ hlt]
  · rw [State.degraded_degradedFlag, State.u_bump_self _ _ hlt, State.bump_eq, State.u_put_ne _ _ _ _ (by decide),
      State.u_put_ne _ _ _ _ (by decide), h4]
    rfl
  · exact ((onlyRegs.refl s _).put (by simp) _).put (by simp) _

end Sys2Proof.Machine
end

section
/-! SUPPORT. A root cycle in which no command waits (R16, R27, R36; Machine/Tick.lean). -/

namespace Sys2Proof.Machine

theorem step_empty (s : State) (h : s.pending = []) : step s = .next s.tick := by rw [step, h]

/-! ## The parts of a cycle -/

/-- The stream engine has nothing to read. -/
theorem State.engineRead_idle (s : State) (h : ∀ k : Fin 256, s.streams[k].unread = []) : s.engineRead = s := by
  have hl : (List.finRange 256).filter (fun k => !s.streams[k].unread.isEmpty) = [] := by simpa using h
  rw [State.engineRead, hl]
  rfl

theorem State.canRest_idle (s : State) (h : s.isApplying 0x1140 = false) : s.canRest = s := by simp [State.canRest, h]

theorem State.takePreset_none (s : State) (h : s.enc.preset = none) : s.takePreset = s := by rw [State.takePreset, h]

theorem State.takePreset_some (s : State) (v : Nat) (h : s.enc.preset = some v) :
    s.takePreset = ({ s with enc := { s.enc with preset := none } }).put Obj.AXIS_STATUS.LINE_POS v := by rw [State.takePreset, h]

/-- A preset taken changes LINE_POS and the preset that waits. -/
theorem State.takePreset_eq (s : State) :
    s.takePreset = { s with regs := s.takePreset.regs, enc := { s.enc with preset := none } } := by
  cases h : s.enc.preset with
  | none =>
    rw [s.takePreset_none h, ← h]
  | some v => rw [s.takePreset_some v h]; rfl

theorem State.u_takePreset_other (s : State) (r : Reg) (h : Obj.AXIS_STATUS.LINE_POS.key ≠ r.key) : s.takePreset.u r = s.u r := by
  cases hp : s.enc.preset with
  | none => rw [s.takePreset_none hp]
  | some v => rw [s.takePreset_some v hp, State.u_put_ne _ _ _ _ h]; rfl

/-- The ticks of a cycle of the counter's own: one, or the next of 1, 1, 1, 2 while the root coasts (R16, R27). -/
def cycleTicks (s : State) : Nat := if s.coasting then coastTicks s.ep.coastPhase else 1

theorem State.count1_eq (s : State) : ∃ e : EpochPart, s.count1 = { s with ep := e } ∧ e.count = s.ep.count + BitVec.ofNat 64 (cycleTicks s) := by
  rw [State.count1, cycleTicks]
  split
  · exact ⟨_, rfl, rfl⟩
  · exact ⟨_, rfl, rfl⟩

theorem cycleTicks_le (s : State) : cycleTicks s ≤ 2 := by
  rw [cycleTicks, coastTicks]
  split
  · split <;> decide
  · decide

theorem State.coasting_of_apart {s t : State} (h : t.apart = s.apart) : t.coasting = s.coasting := State.bit_of_apart h _ _ rfl

theorem cycleTicks_of_apart {s t : State} (h : t.apart = s.apart) : cycleTicks t = cycleTicks s := by
  rw [cycleTicks, cycleTicks, State.coasting_of_apart h, State.ep_of_apart h]

theorem cycleTicks_takePreset (s : State) : cycleTicks s.takePreset = cycleTicks s := by
  have hc : s.takePreset.coasting = s.coasting := by
    rw [State.coasting, State.bit, s.u_takePreset_other _ (by decide), State.coasting, State.bit]
  rw [cycleTicks, cycleTicks, hc, s.takePreset_eq]

/-! ## What a cycle does -/

/-- A cycle in which the counter stands still lets the engine read; another one puts the command due before the queue, or moves the counter. -/
theorem State.tick_cases (s : State) :
    ((s.ep.running = false ∨ s.clk.stopped = true) ∧ s.tick = s.engineRead) ∨
    ∃ t, t = s.takePreset ∧ (s.ep.running = true ∧ s.clk.stopped = false) ∧
      ((∃ i, s.tick = { t with pending := [i] }) ∨ ∃ x, s.tick = { t.engineRead.count1.canRest with flips := x }) := by
  rw [State.tick]
  split
  · rename_i h
    exact .inl ⟨by simpa [Bool.not_eq_true'] using h, rfl⟩
  · rename_i h
    refine .inr ⟨_, rfl, by simpa using h, ?_⟩
    dsimp only
    split
    · exact .inl ⟨_, rfl⟩
    · split
      · exact .inl ⟨_, rfl⟩
      · exact .inr ⟨_, rfl⟩

theorem State.tick_stopped (s : State) (h : s.ep.running = false ∨ s.clk.stopped = true) : s.tick = s.engineRead := by
  rw [State.tick, if_pos (by simpa using h)]

/-- A cycle that moves the counter: the count by its ticks, and memory, ports and stalls as they were. -/
theorem State.countedCycle (s t : State) (x : List (Nat × BitVec 137)) (ht : t = { s.takePreset.engineRead.count1.canRest with flips := x }) :
    t.ep.count = s.ep.count + BitVec.ofNat 64 (cycleTicks s) ∧ t.mem = s.mem ∧ t.ports = s.ports ∧ t.stalls = s.stalls := by
  obtain ⟨e, he, hcount⟩ := s.takePreset.engineRead.count1_eq
  have hr := s.takePreset.apart_engineRead
  have hc := s.takePreset.engineRead.count1.apart_canRest
  rw [ht]
  dsimp only
  rw [State.ep_of_apart hc, State.mem_of_apart hc, State.ports_of_apart hc, State.stalls_of_apart hc, he]
  dsimp only
  rw [State.mem_of_apart hr, State.ports_of_apart hr, State.stalls_of_apart hr, hcount, cycleTicks_of_apart hr, cycleTicks_takePreset,
    State.ep_of_apart hr, s.takePreset_eq]
  exact ⟨rfl, rfl, rfl, rfl⟩

/-- A cycle with an empty queue moves the count by at most two ticks, in its own by those of `cycleTicks`. -/
theorem State.tick_moves (s : State) :
    (∃ k : Nat, k ≤ 2 ∧ s.tick.ep.count = s.ep.count + BitVec.ofNat 64 k ∧
      (s.coasting = true → s.tick.pending = [] → s.ep.running = true → s.clk.stopped = false →
        k = if s.ep.coastPhase = 3 then 2 else 1)) ∧
    s.tick.mem = s.mem ∧ s.tick.ports = s.ports ∧ s.tick.stalls = s.stalls := by
  rcases s.tick_cases with ⟨hstop, ht⟩ | ⟨t, rfl, -, ⟨i, ht⟩ | ⟨x, ht⟩⟩
  · have hr := s.apart_engineRead
    rw [ht, State.ep_of_apart hr, State.mem_of_apart hr, State.ports_of_apart hr, State.stalls_of_apart hr]
    refine ⟨⟨0, by decide, by simp, fun _ _ hrun hclk => ?_⟩, rfl, rfl, rfl⟩
    simp [hrun, hclk] at hstop
  · rw [ht, s.takePreset_eq]
    exact ⟨⟨0, by decide, by simp, fun _ hp => absurd hp (by simp)⟩, rfl, rfl, rfl⟩
  · obtain ⟨hcount, hmem, hports, hstalls⟩ := s.countedCycle s.tick x ht
    refine ⟨⟨cycleTicks s, cycleTicks_le s, hcount, fun hco _ _ _ => ?_⟩, hmem, hports, hstalls⟩
    rw [cycleTicks, if_pos hco, coastTicks]

/-- Where nothing waits to be read and no CAN commit waits, a cycle changes streams, output and registers only by the preset it takes. -/
theorem State.tick_idle (s : State) (hu : ∀ k : Fin 256, s.streams[k].unread = []) (hc : s.isApplying 0x1140 = false) :
    ((s.ep.running = false ∨ s.clk.stopped = true) ∧ s.tick = s) ∨
    s.tick.streams = s.streams ∧ s.tick.out = s.out ∧ s.tick.regs = s.takePreset.regs ∧ s.tick.enc = s.takePreset.enc := by
  have hp := s.takePreset_eq
  have hstreams : s.takePreset.streams = s.streams := by rw [hp]
  have hout : s.takePreset.out = s.out := by rw [hp]
  rcases s.tick_cases with ⟨hstop, ht⟩ | ⟨t, rfl, -, ⟨i, ht⟩ | ⟨x, ht⟩⟩
  · exact .inl ⟨hstop, ht.trans (s.engineRead_idle hu)⟩
  · rw [ht]
    exact .inr ⟨hstreams, hout, rfl, rfl⟩
  · obtain ⟨e, he, -⟩ := s.takePreset.count1_eq
    have hidle : s.takePreset.engineRead.count1.canRest = { s.takePreset with ep := e } := by
      rw [State.engineRead_idle _ (by rw [hstreams]; exact hu), he]
      refine State.canRest_idle _ ?_
      rw [hp]
      exact hc
    rw [ht, hidle]
    exact .inr ⟨hstreams, hout, rfl, rfl⟩

/-- Settles O2: the cycle by its cases; what reads on, logs or commits in it lies apart from memory, ports, stalls and the epoch. -/
theorem rootCycleMovesAtMostTwoTicks : Obligations.RootCycleMovesAtMostTwoTicks := by
  refine ⟨fun s h => ⟨_, step_empty s h, s.tick_moves⟩, fun s h hu hc => ⟨_, step_empty s h, ?_⟩,
    fun s h hstop => (step_empty s h).trans (by rw [s.tick_stopped hstop])⟩
  rcases s.tick_idle hu hc with ⟨hstop, ht⟩ | ⟨hstreams, hout, hregs, henc⟩
  · rw [ht]
    refine ⟨rfl, rfl, fun _ => ⟨rfl, rfl⟩, fun v _ _ hrun hclk => ?_⟩
    simp [hrun, hclk] at hstop
  · refine ⟨hstreams, hout, fun hn => ?_, fun v hv hlt _ _ => ?_⟩
    · rw [hregs, henc, s.takePreset_none hn]
      exact ⟨rfl, rfl⟩
    · rw [s.takePreset_some v hv] at hregs henc
      refine ⟨(State.u_of_regs hregs _).trans (State.u_put_of_lt _ _ _ hlt), henc, ?_⟩
      exact (((regsKept.refl s _).of_regs rfl).put (List.mem_singleton_self _) v).of_regs hregs

end Sys2Proof.Machine
end

section
/-! SUPPORT. Epoch seconds, changes of source and PPS edges (R18 to R21, R26, R62; Machine/Source.lean). -/

namespace Sys2Proof.Machine

/-! ## A change of source (R21, R26) -/

/-- A selected source is one of the codes 0 to 4. -/
theorem State.selected_lt (s : State) : s.selected < 256 := by
  rw [State.selected]
  split
  · rename_i c hc
    have hm := List.mem_of_find?_eq_some hc
    simp only [List.mem_cons, List.not_mem_nil, or_false] at hm
    omega
  · split <;> decide

theorem regsKept_putCorrection (s : State) : regsKept s s.putCorrection [Obj.EPOCH.FREQ_ADJ] :=
  (((regsKept.refl s _).of_regs rfl).put (by simp) _)

/-- Entry to HOLDOVER touches the correction, the bound and the flags, and stops the slew term. -/
theorem regsKept_enterHoldover (s : State) :
    regsKept s s.enterHoldover [Obj.EPOCH.FREQ_ADJ, Obj.EPOCH.HOLDOVER_ERR, Obj.EPOCH.FLAGS] :=
  (((((regsKept.refl s _).of_regs rfl).put (by simp) _).put (by simp) _).put (by simp) _)

theorem State.bit_degradedFlag (s : State) (b : Nat) (hb : b < 32) (h : Bit.EPOCH.FLAGS.DEGRADED ≠ b) :
    s.degradedFlag.bit Obj.EPOCH.FLAGS b = s.bit Obj.EPOCH.FLAGS b := by
  rw [State.degradedFlag, State.bit_putBit _ _ _ _ _ hb, if_neg h]

theorem State.bit_enterHoldover (s : State) (b : Nat) (hb : b < 32) (h : Bit.EPOCH.FLAGS.DEGRADED ≠ b) :
    s.enterHoldover.bit Obj.EPOCH.FLAGS b = s.bit Obj.EPOCH.FLAGS b := by
  rw [State.enterHoldover]
  dsimp only
  rw [State.bit_degradedFlag _ _ hb h, State.bit_put_ne _ _ _ _ _ (by decide), State.putCorrection, State.puti_eq,
    State.bit_put_ne _ _ _ _ _ (by decide)]
  rfl

theorem State.holdoverErr_enterHoldover (s : State) :
    s.enterHoldover.u Obj.EPOCH.HOLDOVER_ERR = ceilDiv (s.i Obj.EPOCH.OFFSET).natAbs 1000 % 2 ^ 32 := by
  rw [State.enterHoldover]
  dsimp only
  rw [State.u_degradedFlag _ _ (by decide), State.u_put_self]
  rfl

/-- The state in which a newly selected source stands in force, before the day book hears of it. -/
def State.sourceTaken (s : State) : State :=
  let t := (s.put Obj.EPOCH.SOURCE s.selected).putBit Obj.EPOCH.FLAGS Bit.EPOCH.FLAGS.HOLDOVER (s.selected == 4)
  (if s.selected = 4 then t.enterHoldover else (t.put Obj.EPOCH.HOLDOVER_ERR 0).degradedFlag).setBit Obj.EPOCH.FLAGS
    Bit.EPOCH.FLAGS.SOURCE_CHANGE

theorem State.changeSource_new (s : State) (h : s.selected ≠ s.u Obj.EPOCH.SOURCE) :
    s.changeSource = s.sourceTaken.log
      { cls := 1, sub := 12, index := 0x2100, osub := 4, bit := 4, detail := s.sourceTaken.u Obj.EPOCH.FLAGS } := by
  rw [State.changeSource, if_neg h]
  rfl

theorem State.changeSource_same (s : State) (h : s.selected = s.u Obj.EPOCH.SOURCE) : s.changeSource = s := by
  rw [State.changeSource, if_pos h]

theorem State.source_sourceTaken (s : State) : s.sourceTaken.u Obj.EPOCH.SOURCE = s.selected := by
  rw [State.sourceTaken, State.setBit_eq, State.putBit_eq, State.u_put_ne _ _ _ _ (by decide)]
  have hput : ((s.put Obj.EPOCH.SOURCE s.selected).putBit Obj.EPOCH.FLAGS Bit.EPOCH.FLAGS.HOLDOVER (s.selected == 4)).u
      Obj.EPOCH.SOURCE = s.selected := by
    rw [State.putBit_eq, State.u_put_ne _ _ _ _ (by decide), State.u_put_of_lt _ _ _ s.selected_lt]
  split
  · rw [regsKept_enterHoldover _ _ (by decide), hput]
  · rw [State.u_degradedFlag _ _ (by decide), State.u_put_ne _ _ _ _ (by decide), hput]

theorem State.sourceChange_sourceTaken (s : State) :
    s.sourceTaken.bit Obj.EPOCH.FLAGS Bit.EPOCH.FLAGS.SOURCE_CHANGE = true :=
  State.bit_putBit_self _ _ _ _ (by decide)

theorem State.holdover_sourceTaken (s : State) :
    s.sourceTaken.bit Obj.EPOCH.FLAGS Bit.EPOCH.FLAGS.HOLDOVER = (s.selected == 4) := by
  rw [State.sourceTaken, State.setBit_eq, State.bit_putBit _ _ _ _ _ (by decide), if_neg (by decide)]
  split
  · rw [State.bit_enterHoldover _ _ (by decide) (by decide), State.bit_putBit_self _ _ _ _ (by decide)]
  · rw [State.bit_degradedFlag _ _ (by decide) (by decide), State.bit_put_ne _ _ _ _ _ (by decide),
      State.bit_putBit_self _ _ _ _ (by decide)]

/-- Entry to HOLDOVER through a change of source: the slew term stops and the bound starts at the last offset. -/
theorem State.bound_sourceTaken (s : State) (h : s.selected = 4) :
    s.sourceTaken.ep.slew = 0 ∧ s.sourceTaken.u Obj.EPOCH.HOLDOVER_ERR = ceilDiv (s.i Obj.EPOCH.OFFSET).natAbs 1000 % 2 ^ 32 := by
  rw [State.sourceTaken, if_pos h]
  refine ⟨rfl, ?_⟩
  rw [State.setBit_eq, State.putBit_eq, State.u_put_ne _ _ _ _ (by decide), State.holdoverErr_enterHoldover, State.i, State.putBit_eq,
    State.u_put_ne _ _ _ _ (by decide), State.u_put_ne _ _ _ _ (by decide), State.i]

/-- A change of source before its entry leaves ports, memory, streams and the count. -/
theorem State.frame_sourceTaken (s : State) :
    s.sourceTaken.ports = s.ports ∧ s.sourceTaken.mem = s.mem ∧ s.sourceTaken.streams = s.streams ∧
      s.sourceTaken.ep.count = s.ep.count := by
  rw [State.sourceTaken]
  split <;> exact ⟨rfl, rfl, rfl, rfl⟩

/-! ## Stamped edges (R304, R307, R310) -/

/-- A stamp handed to the measurement units changes them alone. -/
theorem State.overAll_toUnit (s : State) (ch : Nat) (stamp : Stamp) (coarse : Bool) (corr : Int) :
    ∃ us, overAll s (fun v u => v.toUnit ch stamp coarse corr u) = { s with units := us } := by
  rw [overAll]
  induction List.finRange 8 generalizing s with
  | nil => exact ⟨_, rfl⟩
  | cons u l ih =>
    obtain ⟨us, hus⟩ := ih (s.toUnit ch stamp coarse corr u)
    rw [List.foldl_cons, hus, State.toUnit]
    split <;> exact ⟨_, rfl⟩

end Sys2Proof.Machine

namespace Sys2Proof
open Machine

theorem edged_cases (s : State) (ch : Fin 21) (stamp : Stamp) :
    ∃ us, edged s ch stamp =
      { ((s.edgeAt ch stamp).put (Obj.CHANNEL.LAST ch) (epochVal stamp)).bump (Obj.CHANNEL.EVENTS ch) with units := us } :=
  State.overAll_toUnit _ _ _ _ _

/-- A stamped edge changes LAST and EVENTS, the last edge and the events that wait in the units. -/
theorem edged_eq (s : State) (ch : Fin 21) (stamp : Stamp) :
    ∃ rs us td, edged s ch stamp = { s with regs := rs, units := us, tdc := td } := by
  obtain ⟨us, hus⟩ := edged_cases s ch stamp
  exact ⟨_, us, _, hus⟩

theorem regsKept_edged (s : State) (ch : Fin 21) (stamp : Stamp) : regsKept s (edged s ch stamp) (edgeRegs ch) := by
  obtain ⟨us, hus⟩ := edged_cases s ch stamp
  rw [hus]
  exact ((((regsKept.refl s _).of_regs rfl).put (by simp [edgeRegs]) _).put (by simp [edgeRegs]) _).of_regs rfl

end Sys2Proof

namespace Sys2Proof.Machine

/-- An edge that `stampsFine` describes reaches its consumer with its own stamp. -/
theorem State.stampChannel_fine (s : State) (ch : Fin 21) (stamp : Stamp) (consumer : Stamp → State → State) (h : stampsFine s ch stamp) :
    s.stampChannel ch stamp consumer = consumer stamp (edged s ch stamp) := by
  obtain ⟨hlock, hdead⟩ := h
  have hcoarse : coarseNow s = false := by simp [coarseNow, hlock]
  have hin : inDead s ch stamp = false := by
    rw [inDead]
    split
    · rename_i l hl
      have := hdead l hl
      simp only [Bool.and_eq_false_iff, decide_eq_false_iff_not]
      omega
    · rfl
  rw [State.stampChannel, hin, if_neg (by decide), stampNow, hcoarse]
  rfl

/-- An edge in its channel's dead time only counts (R307). -/
theorem State.stampChannel_dead (s : State) (ch : Fin 21) (stamp : Stamp) (consumer : Stamp → State → State) (l : Int)
    (hl : s.tdc.lastEdge[ch] = some l) (h1 : l ≤ stamp) (h2 : (stamp : Int) < l + deadFine) :
    s.stampChannel ch stamp consumer = s.bump (Obj.CHANNEL.DEAD_MISS ch) := by
  have hin : inDead s ch stamp = true := by
    rw [inDead, hl]
    simp [h1, h2]
  rw [State.stampChannel, if_pos hin]

theorem edged_ep (s : State) (ch : Fin 21) (stamp : Stamp) : (edged s ch stamp).ep = s.ep := by
  obtain ⟨rs, us, td, h⟩ := edged_eq s ch stamp
  rw [h]

/-- An edge leaves a register that is not its channel's. -/
theorem edged_u (s : State) (ch : Fin 21) (stamp : Stamp) (r : Reg) (h : ∀ x ∈ edgeRegs ch, x.key ≠ r.key) :
    (edged s ch stamp).u r = s.u r := regsKept_edged s ch stamp r h

/-! ## PPS edges (R19, R20) -/

/-- The state in which an edge of REF.PPS has been judged, and PPS_UNLABELLED follows. -/
def State.ppsTaken (s : State) (stamp run : Nat) (label : Option Nat) : State :=
  ({ s with ep := { s.ep with pps := ⟨some stamp, run, label⟩ } }).ppsFlag

theorem ppsEdge_fine (s : State) (stamp : Nat) (h : stampsFine s 8 stamp) :
    exec (.ppsEdge stamp) s = .next ((edged s 8 stamp).ppsEdge stamp) :=
  congrArg Host.Outcome.next (s.stampChannel_fine 8 stamp _ h)

/-- An edge without a label offers no offset. -/
theorem State.ppsEdge_unlabelled (s : State) (stamp l : Nat) (hl : s.ep.pps.last = some l)
    (hin : ((stamp : Int) - l - secondFine).natAbs ≤ microFine) (hn : s.ep.pps.label = none) (hp : s.ep.ptpUsable = false) :
    s.ppsEdge stamp = s.ppsTaken stamp (min 4 (s.ep.pps.run + 1)) none := by
  simp [State.ppsEdge, State.edgeSecond, State.ppsTaken, hl, hin, hn, hp]

/-- The host's label counts on; the offset of an edge against it is taken once the source is qualified. -/
theorem State.ppsEdge_labelled (s v : State) (stamp l sec : Nat) (hl : s.ep.pps.last = some l)
    (hin : ((stamp : Int) - l - secondFine).natAbs ≤ microFine) (hs : s.ep.pps.label = some sec)
    (hv : v = s.ppsTaken stamp (min 4 (s.ep.pps.run + 1)) (some (sec + 1))) :
    s.ppsEdge stamp = if v.ppsQualified then v.measure 2 (psOfFine
      ((stamp : Int) - freeRound (s.i Obj.EPOCH_SOURCE.PPS_DELAY * 512) 625 - sec * secondFine)) else v := by
  have hlab : v.ppsLabelled = true := by
    rw [hv]
    exact Bool.or_true _
  have huse : v.usable 2 = v.ppsQualified := by rw [State.usable, hlab, Bool.and_true]
  rw [← huse, hv, State.ppsTaken]
  simp only [State.ppsEdge, State.edgeSecond, hl, hin, hs, decide_true, if_true, Option.map_some]

/-- A source with fewer than four edges in time behind it is not qualified. -/
theorem State.usable_unqualified (s : State) (h : s.ep.pps.run < 4) : s.usable 2 = false := by
  simp [State.usable, State.ppsQualified, Nat.not_le.mpr h]

theorem State.usable_ppsTaken_zero (s : State) (stamp : Nat) (label : Option Nat) : (s.ppsTaken stamp 0 label).usable 2 = false :=
  State.usable_unqualified _ (Nat.zero_lt_succ 3)

/-- An edge outside its time loses the source, and its offset is not taken. -/
theorem State.ppsEdge_late (s : State) (stamp l : Nat) (hl : s.ep.pps.last = some l)
    (hout : microFine < ((stamp : Int) - l - secondFine).natAbs) :
    s.ppsEdge stamp = s.ppsTaken stamp 0 (s.ep.pps.label.map (· + 1)) := by
  have hu := s.usable_ppsTaken_zero stamp (s.ep.pps.label.map (· + 1))
  rw [State.ppsTaken] at hu
  simp only [State.ppsEdge, State.ppsTaken, hl, Nat.not_le.mpr hout, decide_false, Bool.false_eq_true, if_false]
  split
  · rfl
  · rw [hu, if_neg (by decide)]

theorem ppsTaken_onlyRegs (s u : State) (stamp run : Nat) (label : Option Nat) (hu : u = edged s 8 stamp) :
    onlyRegs s { u.ppsTaken stamp run label with ep := s.ep, units := s.units, tdc := s.tdc } (edgeRegs 8 ++ [Obj.EPOCH.FLAGS]) := by
  refine ⟨?_, fun r hr => ?_⟩
  · obtain ⟨rs, us, td, he⟩ := edged_eq s 8 stamp
    rw [hu, he]
    rfl
  · refine (State.u_put_ne _ _ _ _ (hr Obj.EPOCH.FLAGS (by simp))).trans ?_
    exact (congrArg (fun v => v.u r) hu).trans (edged_u s 8 stamp r fun x hx => hr x (List.mem_append_left _ hx))

theorem ppsEdge_late_changes (s : State) (stamp l : Nat) (h : stampsFine s 8 stamp) (hl : s.ep.pps.last = some l)
    (hout : microFine < ((stamp : Int) - l - secondFine).natAbs) :
    ∃ t : State, exec (.ppsEdge stamp) s = .next t ∧ t.ep.pps.run = 0 ∧ t.usable 2 = false ∧
      onlyRegs s { t with ep := s.ep, units := s.units, tdc := s.tdc } (edgeRegs 8 ++ [Obj.EPOCH.FLAGS]) := by
  have hep := edged_ep s 8 stamp
  refine ⟨(edged s 8 stamp).ppsTaken stamp 0 ((edged s 8 stamp).ep.pps.label.map (· + 1)), ?_, rfl, State.usable_ppsTaken_zero _ _ _,
    ppsTaken_onlyRegs s _ _ _ _ rfl⟩
  rw [ppsEdge_fine s stamp h, State.ppsEdge_late _ stamp l (by rw [hep, hl]) hout]

theorem ppsTimeout_drops (s : State) :
    ∃ t : State, exec .ppsTimeout s = .next t ∧ t.ep.pps = ⟨none, 0, none⟩ ∧ t.usable 2 = false ∧
      t.bit Obj.EPOCH.FLAGS Bit.EPOCH.FLAGS.PPS_UNLABELLED = false ∧ onlyRegs s { t with ep := s.ep } [Obj.EPOCH.FLAGS] := by
  refine ⟨_, rfl, rfl, State.usable_unqualified _ (Nat.zero_lt_succ 3), ?_, rfl, ?_⟩
  · rw [State.ppsFlag, State.bit_putBit_self _ _ _ _ (by decide)]
    rfl
  · exact ((regsKept.refl s _).of_regs rfl).put (List.mem_singleton_self _) _

/-! ## Epoch seconds (R21, R62) -/

theorem epochSecond_serves (s : State) (h : s.now / ticksPerSecond ≠ s.ep.served) :
    exec .epochSecond s = .next
      (((({ s with ep := { s.ep with served := s.now / ticksPerSecond } }).commitSources).changeSource.clkmonSecond.tollUse.mirrorRate).dueFlag) := by
  change execEpochSecond s = _
  rw [execEpochSecond, if_neg h]

/-- Settles O3: the second by its branch, the source by what it stands at before its entry, the edges by what `ppsEdge` makes of each. -/
theorem secondsSourcesAndPps : Obligations.SecondsSourcesAndPps := by
  refine ⟨epochSecond_serves, ⟨fun s h => ?_, State.changeSource_same⟩, fun s u stamp l hs hu hl hin hn hp => ?_,
    fun s stamp l sec hs hl hin hsec => ?_, ppsEdge_late_changes, fun s stamp l hl h1 h2 => ?_, ppsTimeout_drops⟩
  · obtain ⟨hports, hmem, hstreams, hcount⟩ := s.frame_sourceTaken
    exact ⟨_, s.changeSource_new h, s.source_sourceTaken, s.sourceChange_sourceTaken, s.holdover_sourceTaken, s.bound_sourceTaken, hports, hmem,
      hstreams, hcount⟩
  · have hep : u.ep = s.ep := hu ▸ edged_ep s 8 stamp
    rw [ppsEdge_fine s stamp hs, ← hu, u.ppsEdge_unlabelled stamp l (hep ▸ hl) hin (hep ▸ hn) (hep ▸ hp), State.ppsTaken, hep]
  · have hep := edged_ep s 8 stamp
    have hdelay : (edged s 8 stamp).i Obj.EPOCH_SOURCE.PPS_DELAY = s.i Obj.EPOCH_SOURCE.PPS_DELAY := by
      rw [State.i, edged_u s 8 stamp _ (by decide), State.i]
    refine ⟨edged s 8 stamp, (edged s 8 stamp).ppsTaken stamp (min 4 (s.ep.pps.run + 1)) (some (sec + 1)), rfl, ?_, ?_⟩
    · rw [State.ppsTaken]
    · rw [ppsEdge_fine s stamp hs, State.ppsEdge_labelled _ _ stamp l sec (by rw [hep, hl]) hin (by rw [hep, hsec]) rfl, hdelay, hep]
  · exact congrArg Host.Outcome.next (s.stampChannel_dead 8 stamp _ l hl h1 h2)

end Sys2Proof.Machine
end

section
/-! SUPPORT. Offsets, steps and slews of the epoch (R22 to R24, R28; Machine/Source.lean). -/

namespace Sys2Proof.Machine

/-! ## The correction in force (R23) -/

/-- The largest correction, in the unit of FREQ_ADJ. -/
def slewLimit (s : State) : Int := s.u Obj.EPOCH_SOURCE.SLEW_MAX * 1000

theorem State.freqAdj_putCorrection (s : State) (h : s.u Obj.EPOCH_SOURCE.SLEW_MAX * 1000 < 2 ^ 31) :
    s.putCorrection.i Obj.EPOCH.FREQ_ADJ = max (-slewLimit s) (min (slewLimit s) (s.ep.track + s.ep.slew)) := by
  rw [State.putCorrection, State.i_puti_self, slewLimit]
  refine toSigned_ofSigned_of_range _ ?_ ?_
  · omega
  · omega

theorem State.freqAdj_putCorrection_le (s : State) (h : s.u Obj.EPOCH_SOURCE.SLEW_MAX * 1000 < 2 ^ 31) :
    (s.putCorrection.i Obj.EPOCH.FREQ_ADJ).natAbs ≤ s.u Obj.EPOCH_SOURCE.SLEW_MAX * 1000 := by
  rw [s.freqAdj_putCorrection h, slewLimit]
  omega

/-! ## Measured offsets (R23, R24, R28) -/

theorem State.measure_coasting (s : State) (code : Nat) (off : Int) (h : s.coasting = true) : s.measure code off = s := by
  rw [State.measure, h]
  rfl

/-- The state with a measured offset shown and the reacquisition after coasting noted. -/
def State.offsetTaken (s : State) (off : Int) : State :=
  { s.puti Obj.EPOCH.OFFSET off with ep := { s.ep with
      reacquire := s.bit Obj.EPOCH.FLAGS Bit.EPOCH.FLAGS.UNCERTAIN && !s.ep.uncertainHeld } }

/-- An offset of the selected source that starts a step. -/
theorem State.measure_step (s : State) (code : Nat) (off : Int) (hc : s.coasting = false) (hn : s.ep.step = none)
    (hs : s.u Obj.EPOCH.SOURCE = code)
    (h : (s.u Obj.EPOCH_SOURCE.STEP_THRESH : Int) * 1000 < off.natAbs ∨ (s.traceable code = true ∧ s.u Obj.EPOCH.ORIGIN = 0)) :
    s.measure code off = ({ s.offsetTaken off with ep := { (s.offsetTaken off).ep with
      step := some ⟨-(freeRound (off * 2) 625), s.traceable code && s.u Obj.EPOCH.ORIGIN == 0⟩
      slew := 0
      slewing := false } }).putCorrection := by
  rw [State.measure, hc, hn, hs]
  have hor : ((s.traceable code && s.u Obj.EPOCH.ORIGIN == 0) = true ∨ (s.u Obj.EPOCH_SOURCE.STEP_THRESH : Int) * 1000 < off.natAbs) := by
    rcases h with h | ⟨h1, h2⟩
    · exact .inr h
    · exact .inl (by simp [h1, h2])
  simp only [Option.isSome_none, bne_self_eq_false, Bool.or_self, Bool.false_eq_true, if_false, if_pos hor]
  rfl

/-- An offset removed by frequency correction: the slew term runs from here on. -/
theorem State.measure_slew (s : State) (code : Nat) (off : Int) (hc : s.coasting = false) (hn : s.ep.step = none)
    (hs : s.u Obj.EPOCH.SOURCE = code) (hle : (off.natAbs : Int) ≤ (s.u Obj.EPOCH_SOURCE.STEP_THRESH : Int) * 1000)
    (ht : s.traceable code = false ∨ s.u Obj.EPOCH.ORIGIN ≠ 0) (h0 : off ≠ 0) :
    s.measure code off = ({ s.offsetTaken off with ep := { (s.offsetTaken off).ep with
      track := Config.trackedFreq s.fresh, slew := Config.slewRate off, slewing := true } }).drawn.putCorrection := by
  rw [State.measure, hc, hn, hs]
  have hor : ¬ ((s.traceable code && s.u Obj.EPOCH.ORIGIN == 0) = true ∨ (s.u Obj.EPOCH_SOURCE.STEP_THRESH : Int) * 1000 < off.natAbs) := by
    rintro (h | h)
    · rcases ht with h1 | h1 <;> simp [h1] at h
    · omega
  simp only [Option.isSome_none, bne_self_eq_false, Bool.or_self, Bool.false_eq_true, if_false, if_neg hor, if_neg h0, bne_iff_ne.mpr h0]
  rfl

theorem State.slewMax_offsetTaken (s : State) (off : Int) :
    (s.offsetTaken off).u Obj.EPOCH_SOURCE.SLEW_MAX = s.u Obj.EPOCH_SOURCE.SLEW_MAX := State.u_put_ne _ _ _ _ (by decide)

/-! ## The end of a slew (R23, R28) -/

theorem State.removedOffset_ep (s : State) : s.removedOffset.ep = { s.ep with reacquire := false } := by
  rw [State.removedOffset]
  split
  · rfl
  · rename_i h
    rw [← Bool.eq_false_iff.mpr h]

theorem State.regsKept_removedOffset (s : State) : regsKept s s.removedOffset [Obj.EPOCH.FLAGS] := by
  rw [State.removedOffset]
  split
  · exact ((regsKept.refl s _).of_regs rfl).put (by simp) _
  · exact regsKept.refl s _

/-- Past its epoch part and the flags, an offset removed leaves a state as it is. -/
theorem State.removedOffset_eq (s : State) : ∃ rs e, s.removedOffset = { s with regs := rs, ep := e } := by
  rw [State.removedOffset]
  split
  · exact ⟨_, _, rfl⟩
  · exact ⟨_, _, rfl⟩

theorem State.bit_removedOffset (s : State) (b : Nat) (hb : b < 32) (h : Bit.EPOCH.FLAGS.UNCERTAIN ≠ b) :
    s.removedOffset.bit Obj.EPOCH.FLAGS b = s.bit Obj.EPOCH.FLAGS b := by
  rw [State.removedOffset]
  split
  · rw [State.clrBit_eq, State.bit_putBit _ _ _ _ _ hb, if_neg h]
    rfl
  · rfl

theorem State.uncertain_removedOffset (s : State) (h : s.ep.reacquire = true) :
    s.removedOffset.bit Obj.EPOCH.FLAGS Bit.EPOCH.FLAGS.UNCERTAIN = false := by
  rw [State.removedOffset, if_pos h]
  exact State.bit_putBit_self _ _ _ _ (by decide)

theorem slewEnd_slewing (s : State) (h : s.ep.slewing = true) :
    exec .slewEnd s = .next (({ s with ep := { s.ep with slew := 0, slewing := false } }).putCorrection).removedOffset := by
  change execSlewEnd s = _
  rw [execSlewEnd, if_pos h]

theorem slewEnd_idle (s : State) (h : s.ep.slewing = false) : exec .slewEnd s = .next s := by
  change execSlewEnd s = _
  rw [execSlewEnd, h, if_neg (by decide)]

theorem slewEnd_ends (s : State) (h : s.ep.slewing = true) :
    ∃ t : State, exec .slewEnd s = .next t ∧ t.ep = { s.ep with slew := 0, slewing := false, reacquire := false } ∧
      (s.u Obj.EPOCH_SOURCE.SLEW_MAX * 1000 < 2 ^ 31 → t.i Obj.EPOCH.FREQ_ADJ =
        max (-(s.u Obj.EPOCH_SOURCE.SLEW_MAX * 1000 : Int)) (min (s.u Obj.EPOCH_SOURCE.SLEW_MAX * 1000) s.ep.track)) ∧
      (s.ep.reacquire = true → t.bit Obj.EPOCH.FLAGS Bit.EPOCH.FLAGS.UNCERTAIN = false) ∧
      regsKept s t [Obj.EPOCH.FREQ_ADJ, Obj.EPOCH.FLAGS] ∧ t.mem = s.mem ∧ t.ports = s.ports ∧ t.stalls = s.stalls := by
  refine ⟨_, slewEnd_slewing s h, State.removedOffset_ep _, fun hm => ?_, fun hre => State.uncertain_removedOffset _ hre, ?_, ?_⟩
  · have hf := State.freqAdj_putCorrection { s with ep := { s.ep with slew := 0, slewing := false } } hm
    rw [State.i, State.regsKept_removedOffset _ _ (by decide)]
    refine hf.trans ?_
    rw [slewLimit, Int.add_zero]
    rfl
  · intro r hr
    rw [State.regsKept_removedOffset _ r (fun x hx => hr x (List.mem_cons_of_mem _ hx)),
      regsKept_putCorrection _ r (fun x hx => hr x (by simp_all))]
    rfl
  · obtain ⟨rs, e, he⟩ := State.removedOffset_eq ({ s with ep := { s.ep with slew := 0, slewing := false } }).putCorrection
    rw [he]
    exact ⟨rfl, rfl, rfl⟩

/-! ## Events discarded (R319) -/

theorem regsKept_discardEvents (s : State) (l : List Reg) (hl : ∀ u : Fin 8, Obj.MEASURE.MFLAGS u ∈ l) : regsKept s s.discardEvents l := by
  rw [State.discardEvents]
  refine overAll_induct (P := fun t => regsKept s t l) (fun t u h => ?_) s (regsKept.refl s l)
  exact (h.of_regs (u := t.modUnit u _) rfl).put (hl u) _

theorem State.discardEvents_eq (s : State) : ∃ rs us, s.discardEvents = { s with regs := rs, units := us } := by
  rw [State.discardEvents]
  refine overAll_induct (P := fun t => ∃ rs us, t = { s with regs := rs, units := us }) ?_ s ⟨_, _, rfl⟩
  rintro _ u ⟨rs, us, rfl⟩
  exact ⟨_, _, rfl⟩

/-- No unit keeps a pending start, a held stop or an event that waits. -/
theorem State.discardEvents_empty (s : State) (u : Fin 8) :
    s.discardEvents.units[u].events = [] ∧ s.discardEvents.units[u].start = none ∧ s.discardEvents.units[u].held = [] := by
  rw [State.discardEvents]
  refine overAll_reaches (P := fun t => t.units[u].events = [] ∧ t.units[u].start = none ∧ t.units[u].held = []) u (fun t => ?_)
    (fun t v h => ?_) s
  · rw [State.setBit_eq, State.putBit_eq, State.put_units, State.modUnit_self]
    exact ⟨rfl, rfl, rfl⟩
  · rw [State.setBit_eq, State.putBit_eq, State.put_units]
    by_cases hv : v = u
    · rw [hv, State.modUnit_self]
      exact ⟨rfl, rfl, rfl⟩
    · rw [State.modUnit_other _ _ _ _ hv]
      exact h

/-! ## STEP_LOAD (R22, R24, R28) -/

theorem any_open_window (s : State) :
    s.ports.toList.any (fun p => p.shots.any (fun x => !x.winClosed)) = true ↔ ∃ n : Port, ∃ x ∈ s.ports[n].shots, x.winClosed = false := by
  simp only [List.any_eq_true, Vector.mem_toList_iff, Vector.mem_iff_getElem, Bool.not_eq_true']
  constructor
  · rintro ⟨p, ⟨i, hi, rfl⟩, x, hx, hc⟩
    exact ⟨⟨i, hi⟩, x, hx, hc⟩
  · rintro ⟨n, x, hx, hc⟩
    exact ⟨_, ⟨n, n.isLt, rfl⟩, x, hx, hc⟩

theorem stepLoad_none (s : State) (h : s.ep.step = none) : exec .stepLoad s = .next s := by
  change execStepLoad s = _
  rw [execStepLoad, h]

theorem stepLoad_waits (s : State) (st : EpochStep) (h : s.ep.step = some st)
    (ho : ∃ n : Port, ∃ x ∈ s.ports[n].shots, x.winClosed = false) : exec .stepLoad s = .next s := by
  change execStepLoad s = _
  rw [execStepLoad, h]
  dsimp only
  rw [if_pos ((any_open_window s).mpr ho)]

/-- What the Ledger shows of a step made: STEPPED, STEPS, and the origin of a step to TAI. -/
def State.stepShown (s : State) (tai : Bool) : State :=
  let t := (s.setBit Obj.EPOCH.FLAGS Bit.EPOCH.FLAGS.STEPPED).bump Obj.EPOCH.STEPS
  if tai then (t.put Obj.EPOCH.ORIGIN 1).setBit Obj.EPOCH.FLAGS Bit.EPOCH.FLAGS.ORIGIN_TAI else t

/-- With every window closed the state is restated in the corrected epoch; then flags and counters, events and the reacquisition follow. -/
theorem stepLoad_restates (s : State) (st : EpochStep) (h : s.ep.step = some st)
    (hc : ∀ n : Port, ∀ x ∈ s.ports[n].shots, x.winClosed = true) :
    ∃ u : State, exec .stepLoad s = .next ((u.stepShown st.tai).discardEvents).removedOffset ∧ u.regs = s.regs ∧
      u.ep.count = BitVec.ofInt 64 ((s.ep.count.toNat : Int) + st.ticks) ∧ u.ep.step = none ∧ u.ep.phase = s.ep.phase ∧
      u.ports = s.ports.map (FibrePort.restated st.ticks) ∧ u.mem = s.mem ∧ u.stalls = s.stalls ∧
      u.streams = s.streams.map (StreamPart.restated st.ticks) := by
  have hno : ¬ s.ports.toList.any (fun p => p.shots.any (fun x => !x.winClosed)) = true := by
    rw [any_open_window]
    rintro ⟨n, x, hx, ho⟩
    rw [hc n x hx] at ho
    exact Bool.noConfusion ho
  refine ⟨?u, ?h, ?fields⟩
  case h =>
    change execStepLoad s = _
    rw [execStepLoad, h]
    dsimp only
    rw [if_neg hno]
    rfl
  case fields => exact ⟨rfl, rfl, rfl, rfl, rfl, rfl, rfl, rfl⟩

theorem State.stepShown_eq (s : State) (tai : Bool) : ∃ rs, s.stepShown tai = { s with regs := rs } := by
  cases tai
  · exact ⟨_, rfl⟩
  · exact ⟨_, rfl⟩

theorem State.regsKept_stepShown (s : State) (tai : Bool) :
    regsKept s (s.stepShown tai) [Obj.EPOCH.FLAGS, Obj.EPOCH.STEPS, Obj.EPOCH.ORIGIN] := by
  have h := ((regsKept.refl s [Obj.EPOCH.FLAGS, Obj.EPOCH.STEPS, Obj.EPOCH.ORIGIN]).put (r := Obj.EPOCH.FLAGS) (by simp)
    (withBit (s.u Obj.EPOCH.FLAGS) Bit.EPOCH.FLAGS.STEPPED true)).put (r := Obj.EPOCH.STEPS) (by simp)
      (counted Obj.EPOCH.STEPS ((s.setBit Obj.EPOCH.FLAGS Bit.EPOCH.FLAGS.STEPPED).u Obj.EPOCH.STEPS) 1)
  cases tai
  · exact h
  · exact (h.put (by simp) _).put (by simp) _

theorem State.stepped_stepShown (s : State) (tai : Bool) :
    (s.stepShown tai).bit Obj.EPOCH.FLAGS Bit.EPOCH.FLAGS.STEPPED = true := by
  have h : ((s.setBit Obj.EPOCH.FLAGS Bit.EPOCH.FLAGS.STEPPED).bump Obj.EPOCH.STEPS).bit Obj.EPOCH.FLAGS Bit.EPOCH.FLAGS.STEPPED = true := by
    rw [State.bump_eq, State.bit_put_ne _ _ _ _ _ (by decide), State.setBit_eq, State.bit_putBit_self _ _ _ _ (by decide)]
  cases tai
  · exact h
  · rw [State.stepShown, if_pos rfl, State.setBit_eq, State.bit_putBit _ _ _ _ _ (by decide), if_neg (by decide),
      State.bit_put_ne _ _ _ _ _ (by decide), h]

theorem State.steps_stepShown (s : State) (tai : Bool) (h : s.u Obj.EPOCH.STEPS + 1 < 2 ^ 32) :
    (s.stepShown tai).u Obj.EPOCH.STEPS = s.u Obj.EPOCH.STEPS + 1 := by
  have hu : (s.setBit Obj.EPOCH.FLAGS Bit.EPOCH.FLAGS.STEPPED).u Obj.EPOCH.STEPS = s.u Obj.EPOCH.STEPS :=
    State.u_put_ne _ _ _ _ (by decide)
  have hb := State.u_bump_self (s.setBit Obj.EPOCH.FLAGS Bit.EPOCH.FLAGS.STEPPED) Obj.EPOCH.STEPS (by rw [hu]; exact h)
  rw [hu] at hb
  cases tai
  · exact hb
  · rw [State.stepShown, if_pos rfl, State.setBit_eq, State.putBit_eq, State.u_put_ne _ _ _ _ (by decide),
      State.u_put_ne _ _ _ _ (by decide), hb]

/-- A step to TAI sets the origin; another one leaves it. -/
theorem State.origin_stepShown (s : State) :
    ((s.stepShown true).u Obj.EPOCH.ORIGIN = 1 ∧ (s.stepShown true).bit Obj.EPOCH.FLAGS Bit.EPOCH.FLAGS.ORIGIN_TAI = true) ∧
    (s.stepShown false).u Obj.EPOCH.ORIGIN = s.u Obj.EPOCH.ORIGIN := by
  refine ⟨⟨?_, State.bit_putBit_self _ _ _ _ (by decide)⟩, ?_⟩
  · rw [State.stepShown, if_pos rfl, State.setBit_eq, State.putBit_eq, State.u_put_ne _ _ _ _ (by decide)]
    exact State.u_put_of_lt _ _ _ (by decide)
  · exact (State.u_put_ne _ _ _ _ (by decide)).trans (State.u_put_ne _ _ _ _ (by decide))

/-- The registers a step may change. -/
def stepRegs : List Reg :=
  [Obj.EPOCH.FLAGS, Obj.EPOCH.STEPS, Obj.EPOCH.ORIGIN] ++ (List.finRange 8).map (fun u => Obj.MEASURE.MFLAGS u)

/-- What follows a step's flags leaves every register but MFLAGS and UNCERTAIN's word. -/
theorem State.u_discarded (s : State) (r : Reg) (hf : Obj.EPOCH.FLAGS.key ≠ r.key) (hm : r.key < 0x2200 * 256) :
    s.discardEvents.removedOffset.u r = s.u r := by
  rw [State.regsKept_removedOffset _ r (by simpa using hf)]
  refine regsKept_discardEvents s ((List.finRange 8).map fun u => Obj.MEASURE.MFLAGS u) (by simp) r fun x hx => ?_
  obtain ⟨u, -, rfl⟩ : ∃ u, u ∈ List.finRange 8 ∧ Obj.MEASURE.MFLAGS u = x := by simpa using hx
  dsimp only [Obj.MEASURE.MFLAGS]
  omega

theorem State.bit_discarded (s : State) (b : Nat) (hb : b < 32) (h : Bit.EPOCH.FLAGS.UNCERTAIN ≠ b) :
    s.discardEvents.removedOffset.bit Obj.EPOCH.FLAGS b = s.bit Obj.EPOCH.FLAGS b := by
  rw [State.bit_removedOffset _ _ hb h, State.bit,
    regsKept_discardEvents s ((List.finRange 8).map fun u => Obj.MEASURE.MFLAGS u) (by simp) _ (by decide), State.bit]

theorem mflags_mem_stepRegs (u : Fin 8) : Obj.MEASURE.MFLAGS u ∈ stepRegs := by simp [stepRegs]

theorem regsKept_discarded (s : State) : regsKept s s.discardEvents.removedOffset stepRegs :=
  (regsKept_discardEvents s _ mflags_mem_stepRegs).trans ((State.regsKept_removedOffset _).mono (by simp [stepRegs]))

/-- Past registers, units and the reacquisition, events discarded with an offset removed leave a state as it is. -/
theorem State.discarded_eq (s : State) : ∃ rs us, s.discardEvents.removedOffset =
    { s with regs := rs, units := us, ep := { s.ep with reacquire := false } } ∧ us = s.discardEvents.units := by
  obtain ⟨rs, us, hd⟩ := s.discardEvents_eq
  obtain ⟨rs', e, hr⟩ := s.discardEvents.removedOffset_eq
  have he : e = { s.discardEvents.ep with reacquire := false } := by
    rw [← State.removedOffset_ep, hr]
  refine ⟨rs', us, ?_, by rw [hd]⟩
  rw [hr, he, hd]

theorem stepLoad_loads (s : State) (st : EpochStep) (h : s.ep.step = some st)
    (hc : ∀ n : Port, ∀ x ∈ s.ports[n].shots, x.winClosed = true) :
    ∃ t : State, exec .stepLoad s = .next t ∧ t.ep.count = BitVec.ofInt 64 ((s.ep.count.toNat : Int) + st.ticks) ∧ t.ep.step = none ∧
      t.ep.phase = s.ep.phase ∧ t.bit Obj.EPOCH.FLAGS Bit.EPOCH.FLAGS.STEPPED = true ∧
      (s.u Obj.EPOCH.STEPS + 1 < 2 ^ 32 → t.u Obj.EPOCH.STEPS = s.u Obj.EPOCH.STEPS + 1) ∧
      (st.tai = true → t.u Obj.EPOCH.ORIGIN = 1 ∧ t.bit Obj.EPOCH.FLAGS Bit.EPOCH.FLAGS.ORIGIN_TAI = true) ∧
      (st.tai = false → t.u Obj.EPOCH.ORIGIN = s.u Obj.EPOCH.ORIGIN) ∧
      (∀ n : Port, t.ports[n].stepped = true) ∧
      (∀ u : Fin 8, t.units[u].events = [] ∧ t.units[u].start = none ∧ t.units[u].held = []) ∧
      regsKept s t stepRegs ∧ t.mem = s.mem ∧ t.stalls = s.stalls ∧ (∀ k : Fin 256, t.streams[k] = s.streams[k].restated st.ticks) := by
  obtain ⟨u, hu, hregs, hcount, hstep, hphase, hports, hmem, hstalls, hstreams⟩ := stepLoad_restates s st h hc
  have hread : ∀ r, u.u r = s.u r := State.u_of_regs hregs
  obtain ⟨ru, hv⟩ := u.stepShown_eq st.tai
  obtain ⟨rs, us, ht, hus⟩ := (u.stepShown st.tai).discarded_eq
  have hfields : (u.stepShown st.tai).discardEvents.removedOffset =
      { u with regs := rs, units := us, ep := { u.ep with reacquire := false } } := by rw [ht, hv]
  have hkept : regsKept s (u.stepShown st.tai).discardEvents.removedOffset stepRegs :=
    ((((regsKept.refl s _).of_regs hregs).trans ((u.regsKept_stepShown st.tai).mono (by simp [stepRegs]))).trans (regsKept_discarded _))
  refine ⟨_, hu, ?_, ?_, ?_, ?_, fun hlt => ?_, fun htai => ?_, fun htai => ?_, fun n => ?_, fun k => ?_, hkept, ?_, ?_, fun k => ?_⟩
  · rw [hfields]; exact hcount
  · rw [hfields]; exact hstep
  · rw [hfields]; exact hphase
  · rw [State.bit_discarded _ _ (by decide) (by decide), State.stepped_stepShown]
  · rw [State.u_discarded _ _ (by decide) (by decide), State.steps_stepShown _ _ (by rw [hread]; exact hlt), hread]
  · rw [State.u_discarded _ _ (by decide) (by decide), State.bit_discarded _ _ (by decide) (by decide), htai]
    exact u.origin_stepShown.1
  · rw [State.u_discarded _ _ (by decide) (by decide), htai, u.origin_stepShown.2, hread]
  · rw [hfields, Fin.getElem_fin]
    simp only [hports, Vector.getElem_map]
    rfl
  · have hempty := (u.stepShown st.tai).discardEvents_empty k
    rw [← hus] at hempty
    rw [ht]
    exact hempty
  · rw [hfields]; exact hmem
  · rw [hfields]; exact hstalls
  · rw [hfields, Fin.getElem_fin, Fin.getElem_fin]
    simp only [hstreams, Vector.getElem_map]

/-- Settles O4: a measurement by the branch it takes, STEP_LOAD by the state it restates and what its flags and events leave of it. -/
theorem offsetsStepsAndSlews : Obligations.OffsetsStepsAndSlews := by
  refine ⟨⟨fun s code off h => s.measure_coasting code off h, fun s code off hc hn hs h => ?_, fun s code off hc hn hs hle ht h0 => ?_⟩,
    stepLoad_loads, stepLoad_waits, stepLoad_none, slewEnd_ends, slewEnd_idle⟩
  · rw [s.measure_step code off hc hn hs h]
    exact ⟨rfl, rfl⟩
  · rw [s.measure_slew code off hc hn hs hle ht h0]
    refine ⟨hn, rfl, rfl, fun hm => ?_⟩
    have hmax : ∀ e, ({ s.offsetTaken off with ep := e } : State).drawn.u Obj.EPOCH_SOURCE.SLEW_MAX = s.u Obj.EPOCH_SOURCE.SLEW_MAX :=
      fun _ => s.slewMax_offsetTaken off
    rw [← hmax] at hm ⊢
    exact State.freqAdj_putCorrection_le _ hm

end Sys2Proof.Machine
end

section
/-! SUPPORT. The mains tracker (R31, R32; Machine/Source.lean): what each edge moves. -/

namespace Sys2Proof.Machine

/-- The instant of a mains edge, in fine LSBs: its stamp less MAINS_DELAY. -/
def mainsInstant (s : State) (stamp : Stamp) : Rat := (stamp : Rat) - (s.i Obj.AXIS_CONFIG.MAINS_DELAY : Rat) * 512 / 625

theorem mainsEdge_fine (s : State) (stamp : Nat) (h : stampsFine s 9 stamp) :
    exec (.mainsEdge stamp) s = .next ((edged s 9 stamp).mainsEdge stamp) :=
  congrArg Host.Outcome.next (s.stampChannel_fine 9 stamp _ h)

theorem edged_mains (s : State) (ch : Fin 21) (stamp : Stamp) : (edged s ch stamp).mains = s.mains := by
  obtain ⟨rs, us, td, h⟩ := edged_eq s ch stamp
  rw [h]

theorem mainsInstant_edged (s : State) (stamp : Stamp) : mainsInstant (edged s 9 stamp) stamp = mainsInstant s stamp := by
  rw [mainsInstant, State.i, edged_u s 9 stamp _ (by decide), mainsInstant, State.i]

theorem mainsN_edged (s : State) (stamp : Stamp) : mainsN (edged s 9 stamp) = mainsN s := by
  rw [mainsN, edged_u s 9 stamp _ (by decide), mainsN]

/-! ## What an edge at an instant does -/

theorem State.mainsEdge_first (s : State) (stamp : Stamp) (hl : s.mains.last = none) :
    s.mainsEdge stamp =
      { s with mains := { s.mains with last := some (mainsInstant s stamp), cycle := s.mains.cycle + 1, synth := 0 } } := by
  rw [State.mainsEdge, hl]
  rfl

theorem State.mainsEdge_second (s : State) (stamp : Stamp) (l : Rat) (hl : s.mains.last = some l) (hp : s.mains.period = none)
    (h : mainsMin ≤ mainsInstant s stamp - l) :
    s.mainsEdge stamp = ({ s with mains := { s.mains with
      last := some (mainsInstant s stamp)
      period := some (mainsInstant s stamp - l)
      cycle := s.mains.cycle + 1
      synth := 0 } }).put Obj.AXIS_STATUS.MAINS_PERIOD (nsOfFine (mainsInstant s stamp - l)).toNat := by
  rw [State.mainsEdge, hl, hp]
  exact if_neg (not_lt.mpr h)

theorem State.mainsEdge_early (s : State) (stamp : Stamp) (l p : Rat) (hl : s.mains.last = some l) (hp : s.mains.period = some p)
    (h : mainsInstant s stamp - l < p * 3 / 4) : s.mainsEdge stamp = s.bump Obj.AXIS_STATUS.MAINS_REJECT := by
  rw [State.mainsEdge, hl, hp]
  exact if_pos h

theorem State.mainsEdge_accepted (s : State) (stamp : Stamp) (l p : Rat) (hl : s.mains.last = some l) (hp : s.mains.period = some p)
    (h : p * 3 / 4 ≤ mainsInstant s stamp - l) : s.mainsEdge stamp = s.mainsAccept (mainsInstant s stamp) l p := by
  rw [State.mainsEdge, hl, hp]
  exact if_neg (not_lt.mpr h)

/-- The tracker as an accepted edge leaves it and what the Ledger then shows: the period, the residual and perhaps the lock. -/
def State.mainsShown (s : State) (m : MainsPart) (q r : Rat) : State :=
  let u := (({ s with mains := m }).put Obj.AXIS_STATUS.MAINS_PERIOD (nsOfFine q).toNat).puti Obj.AXIS_STATUS.MAINS_RESID (nsOfFine r)
  if 8 ≤ m.good then u.put Obj.AXIS_STATUS.MAINS_LOCK 1 else u

theorem State.mainsShown_eq (s : State) (m : MainsPart) (q r : Rat) : ∃ rs, s.mainsShown m q r = { s with regs := rs, mains := m } := by
  rw [State.mainsShown]
  split
  · exact ⟨_, rfl⟩
  · exact ⟨_, rfl⟩

theorem State.regsKept_mainsShown (s : State) (m : MainsPart) (q r : Rat) :
    regsKept s (s.mainsShown m q r) [Obj.AXIS_STATUS.MAINS_PERIOD, Obj.AXIS_STATUS.MAINS_RESID, Obj.AXIS_STATUS.MAINS_LOCK] := by
  rw [State.mainsShown]
  split
  · exact ((((regsKept.refl s _).of_regs rfl).put (by simp) _).put (by simp) _).put (by simp) _
  · exact (((regsKept.refl s _).of_regs rfl).put (by simp) _).put (by simp) _

/-- An accepted edge whose residual is within a fiftieth of the period loses no lock. -/
theorem State.mainsAccept_near (s : State) (t l p : Rat) (h : |t - (l + p)| ≤ p / 50) :
    ∃ good, s.mainsAccept t l p = s.mainsShown { s.mains with
      last := some t, period := some (p + (t - (l + p)) / mainsN s), cycle := s.mains.cycle + 1, synth := 0, good := good, bad := 0 }
        (p + (t - (l + p)) / mainsN s) (t - (l + p)) := by
  rw [State.mainsAccept]
  simp only [if_neg (not_lt.mpr h), if_neg (by decide : ¬ 4 ≤ 0)]
  exact ⟨_, rfl⟩

theorem State.put_withMains (s : State) (m : MainsPart) (r : Reg) (v : Nat) :
    ({ s with mains := m }).put r v = { s with regs := rfSet s.regs r.key (v % 2 ^ r.width), mains := m } := rfl

theorem regsKept_put_withMains (s : State) (m : MainsPart) (r : Reg) (v : Nat) : regsKept s (({ s with mains := m }).put r v) [r] :=
  ((regsKept.refl s _).of_regs rfl).put (List.mem_singleton_self r) v

/-- An edge and what its consumer changes of the mains tracker and the registers listed. -/
theorem onlyRegs_mains (s u : State) (stamp : Stamp) (rs : List (Nat × Nat)) (m : MainsPart) (l : List Reg)
    (hu : u = { edged s 9 stamp with regs := rs, mains := m }) (hk : regsKept (edged s 9 stamp) u l) :
    onlyRegs s { u with mains := s.mains, units := s.units, tdc := s.tdc } (edgeRegs 9 ++ l) := by
  refine ⟨?_, ?_⟩
  · obtain ⟨es, us, td, he⟩ := edged_eq s 9 stamp
    rw [hu, he]
  · exact (((regsKept_edged s 9 stamp).mono fun _ => List.mem_append_left _).trans (hk.mono fun _ => List.mem_append_right _)).of_regs rfl

/-! ## Synthetic edges -/

theorem mainsSyntheticEdge_moves (s : State) (l p : Rat) (hl : s.mains.last = some l) (hp : s.mains.period = some p)
    (h : s.mains.synth < 3) :
    exec .mainsSyntheticEdge s = .next { s with mains := { s.mains with
      last := some (l + p), cycle := s.mains.cycle + 1, good := 0, synth := s.mains.synth + 1 } } := by
  change execMainsSyntheticEdge s = _
  rw [execMainsSyntheticEdge, hl, hp]
  exact congrArg Host.Outcome.next (if_neg (by dsimp only; omega))

theorem mainsSyntheticEdge_unlocks (s : State) (l p : Rat) (hl : s.mains.last = some l) (hp : s.mains.period = some p)
    (h : s.mains.synth = 3) (hlock : s.u Obj.AXIS_STATUS.MAINS_LOCK = 1) :
    exec .mainsSyntheticEdge s = .next ((({ s with mains := { s.mains with
      last := some (l + p), cycle := s.mains.cycle + 1, good := 0, bad := 0, synth := 0 } }).put Obj.AXIS_STATUS.MAINS_LOCK 0).log
        { cls := 2, sub := 12, index := 0x2103, osub := 4, bit := 0 }) := by
  change execMainsSyntheticEdge s = _
  rw [execMainsSyntheticEdge, hl, hp]
  refine congrArg Host.Outcome.next ((if_pos (by dsimp only; omega)).trans ?_)
  rw [State.mainsUnlock]
  exact if_pos hlock

theorem mainsSyntheticEdge_untracked (s : State) (h : s.mains.last = none ∨ s.mains.period = none) :
    exec .mainsSyntheticEdge s = .next s := by
  change execMainsSyntheticEdge s = _
  rw [execMainsSyntheticEdge]
  rcases h with h | h <;> rw [h]
  split
  · rename_i h2
    cases h2
  · rfl

/-! ## The mains half of O5 -/

/-- A mains edge within its time moves the tracker by its residual. -/
theorem mainsEdge_tracks (s : State) (stamp : Nat) (l p : Rat) (h : stampsFine s 9 stamp) (hl : s.mains.last = some l)
    (hp : s.mains.period = some p) (ht : p * 3 / 4 ≤ mainsInstant s stamp - l) (hr : |mainsInstant s stamp - (l + p)| ≤ p / 50) :
    ∃ u : State, exec (.mainsEdge stamp) s = .next u ∧ u.mains.last = some (mainsInstant s stamp) ∧
      u.mains.period = some (p + (mainsInstant s stamp - (l + p)) / mainsN s) ∧ u.mains.cycle = s.mains.cycle + 1 ∧ u.mains.synth = 0 ∧
      onlyRegs s { u with mains := s.mains, units := s.units, tdc := s.tdc }
        (edgeRegs 9 ++ [Obj.AXIS_STATUS.MAINS_PERIOD, Obj.AXIS_STATUS.MAINS_RESID, Obj.AXIS_STATUS.MAINS_LOCK]) := by
  have hm := edged_mains s 9 stamp
  have ha := (edged s 9 stamp).mainsEdge_accepted stamp l p (by rw [hm, hl]) (by rw [hm, hp]) (by rw [mainsInstant_edged]; exact ht)
  rw [mainsInstant_edged] at ha
  obtain ⟨good, hn⟩ := (edged s 9 stamp).mainsAccept_near (mainsInstant s stamp) l p hr
  obtain ⟨rs, he⟩ := (edged s 9 stamp).mainsShown_eq _ _ _
  refine ⟨_, (mainsEdge_fine s stamp h).trans (congrArg _ (ha.trans hn)), ?_, ?_, ?_, ?_,
    onlyRegs_mains s _ stamp rs _ _ he (State.regsKept_mainsShown _ _ _ _)⟩
  · rw [he]
  · rw [he, mainsN_edged]
  · rw [he, hm]
  · rw [he]

/-- The second edge gives the first period. -/
theorem mainsEdge_firstPeriod (s : State) (stamp : Nat) (l : Rat) (h : stampsFine s 9 stamp) (hl : s.mains.last = some l)
    (hp : s.mains.period = none) (ht : mainsMin ≤ mainsInstant s stamp - l) :
    ∃ u : State, exec (.mainsEdge stamp) s = .next u ∧ u.mains.last = some (mainsInstant s stamp) ∧
      u.mains.period = some (mainsInstant s stamp - l) ∧ u.mains.cycle = s.mains.cycle + 1 ∧
      onlyRegs s { u with mains := s.mains, units := s.units, tdc := s.tdc } (edgeRegs 9 ++ [Obj.AXIS_STATUS.MAINS_PERIOD]) := by
  have hm := edged_mains s 9 stamp
  have ha := (edged s 9 stamp).mainsEdge_second stamp l (by rw [hm, hl]) (by rw [hm, hp]) (by rw [mainsInstant_edged]; exact ht)
  rw [mainsInstant_edged, hm] at ha
  exact ⟨_, (mainsEdge_fine s stamp h).trans (congrArg _ ha), rfl, rfl, rfl,
    onlyRegs_mains s _ stamp _ _ _ (State.put_withMains _ _ _ _) (regsKept_put_withMains _ _ _ _)⟩

end Sys2Proof.Machine
end

section
/-! SUPPORT. The encoder (R35 to R37, R62; Machine/Source.lean, Machine/Tdc.lean): what a filtered sample moves. -/

namespace Sys2Proof.Machine

/-! ## What a counted stamp may change -/

/-- A later state differs only in the stamps and draws of channels and in registers, and of those only in the ones listed. -/
def stampsKept (s t : State) (l : List Reg) : Prop :=
  (∃ rs us td f, t = { s with regs := rs, units := us, tdc := td, fresh := f }) ∧ regsKept s t l

theorem stampsKept.refl (s : State) (l : List Reg) : stampsKept s s l := ⟨⟨_, _, _, _, rfl⟩, regsKept.refl s l⟩

theorem stampsKept.trans {s t u : State} {l : List Reg} (h : stampsKept s t l) (g : stampsKept t u l) : stampsKept s u l := by
  obtain ⟨⟨rs, us, td, f, rfl⟩, hk⟩ := h
  obtain ⟨⟨rs', us', td', f', rfl⟩, hk'⟩ := g
  exact ⟨⟨_, _, _, _, rfl⟩, hk.trans hk'⟩

theorem stampsKept.mono {s t : State} {l m : List Reg} (h : stampsKept s t l) (hl : ∀ x ∈ l, x ∈ m) : stampsKept s t m :=
  ⟨h.1, h.2.mono hl⟩

theorem stampsKept_put (s : State) {r : Reg} {l : List Reg} (hr : r ∈ l) (v : Nat) : stampsKept s (s.put r v) l :=
  ⟨⟨_, _, _, _, rfl⟩, (regsKept.refl s l).put hr v⟩

theorem stampsKept_bump (s : State) {r : Reg} {l : List Reg} (hr : r ∈ l) : stampsKept s (s.bump r) l := stampsKept_put s hr _

theorem stampsKept_of_regs {s t : State} (h : ∃ us td f, t = { s with units := us, tdc := td, fresh := f }) (l : List Reg) :
    stampsKept s t l := by
  obtain ⟨us, td, f, rfl⟩ := h
  exact ⟨⟨_, _, _, _, rfl⟩, (regsKept.refl s l).of_regs rfl⟩

theorem stampsKept_ite {s a b : State} {l : List Reg} {c : Prop} [Decidable c] (ha : stampsKept s a l) (hb : stampsKept s b l) :
    stampsKept s (if c then a else b) l := by
  split
  · exact ha
  · exact hb

theorem stampsKept.enc {s t : State} {l : List Reg} (h : stampsKept s t l) : t.enc = s.enc := by
  obtain ⟨⟨rs, us, td, f, rfl⟩, -⟩ := h
  rfl

theorem stampsKept.ports {s t : State} {l : List Reg} (h : stampsKept s t l) : t.ports = s.ports := by
  obtain ⟨⟨rs, us, td, f, rfl⟩, -⟩ := h
  rfl

/-- In the frame of a statement that gives the encoder, its stamps and its draws back, registers alone differ. -/
theorem stampsKept.onlyRegs {s t : State} {e : EncPart} {l : List Reg} (h : stampsKept { s with enc := e } t l) :
    onlyRegs s { t with enc := s.enc, units := s.units, tdc := s.tdc, fresh := s.fresh } l := by
  obtain ⟨⟨rs, us, td, f, rfl⟩, hk⟩ := h
  exact ⟨rfl, hk.of_regs rfl⟩

/-! ## Edges that count (R308, R310) -/

/-- The registers a counted stamp of a channel may change. -/
def stampRegs (ch : Fin 21) : List Reg := Obj.TDC.COARSE_STAMPS :: edgeRegs ch

theorem stampsKept_countStamp (s : State) (ch : Fin 21) (st : Stamp) (coarse : Bool) (corr : Int) :
    stampsKept s (s.countStamp ch st coarse corr) (stampRegs ch) := by
  have units : ∀ t, stampsKept s t (stampRegs ch) → stampsKept s (overAll t (fun v u => v.toUnit ch st coarse corr u)) (stampRegs ch) := by
    intro t ht
    obtain ⟨us, hus⟩ := t.overAll_toUnit ch st coarse corr
    rw [hus]
    exact ht.trans (stampsKept_of_regs ⟨us, _, _, rfl⟩ _)
  have hedge : stampsKept s ((s.put (Obj.CHANNEL.LAST ch) (epochVal st)).bump (Obj.CHANNEL.EVENTS ch)) (stampRegs ch) :=
    (stampsKept_put s (by simp [stampRegs, edgeRegs]) _).trans (stampsKept_bump _ (by simp [stampRegs, edgeRegs]))
  exact units _ (stampsKept_ite (hedge.trans (stampsKept_bump _ List.mem_cons_self)) hedge)

theorem stampsKept_acceptEdge (s : State) (ch : Fin 21) (lv : Bool) : stampsKept s (s.acceptEdge ch lv) (stampRegs ch) := by
  rw [State.acceptEdge]
  split
  · exact stampsKept.refl _ _
  · exact (stampsKept_of_regs ⟨_, _, _, rfl⟩ _).trans (stampsKept_countStamp _ _ _ _ _)

/-! ## Slot points of the LINE axis (R35, R37) -/

/-- A port that is not on the LINE axis is offered nothing. -/
theorem State.offerLine_none (s : State) (mv : Int) (stamp : Stamp) (h : ∀ n : Port, s.u (Obj.SCHEDULER.AXIS n) ≠ 2) :
    s.offerLine mv stamp = s := by
  refine overAll_induct (P := fun t => t = s) (fun t n ht => ?_) s rfl
  rw [lineSlot, beq_eq_false_iff_ne.mpr (h n)]
  exact ht

/-! ## The sample (R35, R36, R308) -/

/-- The state in which the edges of a sample have counted, before the decoder moves. -/
def sampleStamped (a b z : Bool) (s : State) : State :=
  let e := s.enc
  let t := { s with enc := { e with taken := true, a := a, b := b, z := z } }
  let t := if (if e.a != a then rawOf s 10 a else rawOf s 11 b).isNone then t.drawn else t
  let t := if e.a != a then t.acceptEdge 10 a else t
  let t := if e.b != b then t.acceptEdge 11 b else t
  if z && !e.z then t.acceptEdge 12 true else t

/-- The stamp the decoder takes for a sample. -/
def sampleStamp (a b : Bool) (s : State) : Stamp :=
  ((if s.enc.a != a then rawOf s 10 a else rawOf s 11 b).map (·.stamp)).getD (Config.measured s.fresh)

theorem encLevelAccept_first (s : State) (a b z : Bool) (h : s.enc.taken = false) :
    exec (.encLevelAccept a b z) s =
      .next (({ s with enc := { s.enc with taken := true, a := a, b := b, z := z } }).firstLevels a b z).takePreset := by
  change execEncLevelAccept a b z s = _
  rw [execEncLevelAccept]
  exact congrArg Host.Outcome.next (if_pos (by rw [h]; rfl))

/-- A later sample: its edges count, the decoder moves by one step or marks an illegal transition, and an index edge and a preset follow. -/
theorem encLevelAccept_next (s : State) (a b z : Bool) (h : s.enc.taken = true) :
    exec (.encLevelAccept a b z) s = .next (
      let t := if s.enc.a != a && s.enc.b != b then (sampleStamped a b z s).encIllegal
        else ((sampleStamped a b z s).put Obj.AXIS_STATUS.LINE_POS
          (ofSigned 32 (s.lineCount.toInt + encMove s.enc.a s.enc.b a b))).offerLine (encMove s.enc.a s.enc.b a b) (sampleStamp a b s)
      (if z && !s.enc.z then t.indexEdge else t).takePreset) := by
  change execEncLevelAccept a b z s = _
  rw [execEncLevelAccept]
  exact congrArg Host.Outcome.next (if_neg (by rw [h]; decide))

theorem stampsKept_sample (s : State) (a b z : Bool) (l : List Reg) (ha : s.enc.a ≠ a → ∀ r ∈ stampRegs 10, r ∈ l)
    (hb : s.enc.b ≠ b → ∀ r ∈ stampRegs 11, r ∈ l) (hz : (z && !s.enc.z) = true → ∀ r ∈ stampRegs 12, r ∈ l) :
    stampsKept { s with enc := { s.enc with taken := true, a := a, b := b, z := z } } (sampleStamped a b z s) l := by
  have edge : ∀ {t u : State} {c : Bool} {ch : Fin 21} {lv : Bool}, (c = true → ∀ r ∈ stampRegs ch, r ∈ l) → stampsKept t u l →
      stampsKept t (if c then u.acceptEdge ch lv else u) l := by
    intro t u c ch lv hc h
    split
    · exact h.trans ((stampsKept_acceptEdge u ch lv).mono (hc ‹_›))
    · exact h
  rw [sampleStamped]
  refine edge hz (edge (fun h => hb (by simpa using h)) (edge (fun h => ha (by simpa using h)) (stampsKept_ite ?_ (stampsKept.refl _ _))))
  exact stampsKept_of_regs ⟨_, _, _, rfl⟩ _

/-- What a sample's edges read of a register that no stamp changes. -/
theorem sampleStamped_u (s : State) (a b z : Bool) (r : Reg) (h : r.key < 0x2200 * 256 ∨ 0x2300 * 256 ≤ r.key) :
    (sampleStamped a b z s).u r = s.u r := by
  have hs := stampsKept_sample s a b z (stampRegs 10 ++ stampRegs 11 ++ stampRegs 12)
    (fun _ r hr => by simp [hr]) (fun _ r hr => by simp [hr]) (fun _ r hr => by simp [hr])
  refine hs.2 r fun x hx => ?_
  have hkey : 0x2200 * 256 ≤ x.key ∧ x.key < 0x2300 * 256 := by
    simp only [stampRegs, edgeRegs, List.cons_append, List.nil_append, List.mem_cons, List.not_mem_nil, or_false] at hx
    rcases hx with rfl | rfl | rfl | rfl | rfl | rfl | rfl | rfl | rfl <;> decide
  omega

theorem sampleStamped_enc (s : State) (a b z : Bool) :
    (sampleStamped a b z s).enc = { s.enc with taken := true, a := a, b := b, z := z } :=
  (stampsKept_sample s a b z (stampRegs 10 ++ stampRegs 11 ++ stampRegs 12)
    (fun _ r hr => by simp [hr]) (fun _ r hr => by simp [hr]) (fun _ r hr => by simp [hr])).enc

theorem sampleStamped_ports (s : State) (a b z : Bool) : (sampleStamped a b z s).ports = s.ports :=
  (stampsKept_sample s a b z (stampRegs 10 ++ stampRegs 11 ++ stampRegs 12)
    (fun _ r hr => by simp [hr]) (fun _ r hr => by simp [hr]) (fun _ r hr => by simp [hr])).ports

theorem axis_key_high (n : Port) : 0x2300 * 256 ≤ (Obj.SCHEDULER.AXIS n).key := by
  dsimp only [Obj.SCHEDULER.AXIS]
  omega

/-! ## A step of one input (R36) -/

theorem ofInt_toSigned (u : Nat) : BitVec.ofInt 32 (toSigned 32 u) = BitVec.ofNat 32 u := by
  rw [toSigned]
  split
  · rw [BitVec.ofInt_natCast]
  · apply BitVec.eq_of_toNat_eq
    rw [BitVec.toNat_ofInt, BitVec.toNat_ofNat]
    omega

/-- The count a step gives, as LINE_POS spells it. -/
theorem lineCount_moved (s : State) (mv : Int) :
    toSigned 32 (ofSigned 32 (s.lineCount.toInt + mv)) = (BitVec.ofInt 32 (s.i Obj.AXIS_STATUS.LINE_POS + mv)).toInt := by
  rw [toSigned_ofSigned, BitVec.ofInt_add, BitVec.ofInt_add, BitVec.ofInt_toInt, State.lineCount, State.i]
  exact congrArg (fun x => BitVec.toInt (x + BitVec.ofInt 32 mv)) (ofInt_toSigned _).symm

/-- The state in which the decoder has moved by a step and offered its slot points, where no port is on the LINE axis. -/
theorem offerLine_sample (s : State) (a b z : Bool) (v : Nat) (mv : Int) (stamp : Stamp)
    (h : ∀ n : Port, s.u (Obj.SCHEDULER.AXIS n) ≠ 2) :
    ((sampleStamped a b z s).put Obj.AXIS_STATUS.LINE_POS v).offerLine mv stamp =
      (sampleStamped a b z s).put Obj.AXIS_STATUS.LINE_POS v := by
  refine State.offerLine_none _ _ _ fun n => ?_
  rw [State.u_put_ne _ _ _ _ (by have := axis_key_high n; dsimp only [Obj.AXIS_STATUS.LINE_POS]; omega),
    sampleStamped_u _ _ _ _ _ (.inr (axis_key_high n))]
  exact h n

theorem encLevelAccept_moves (s : State) (a b : Bool) (ht : s.enc.taken = true) (hp : s.enc.preset = none) (hone : a = s.enc.a ∨ b = s.enc.b)
    (hx : ∀ n : Port, s.u (Obj.SCHEDULER.AXIS n) ≠ 2) :
    ∃ t : State, exec (.encLevelAccept a b false) s = .next t ∧
      t.i Obj.AXIS_STATUS.LINE_POS = (BitVec.ofInt 32 (s.i Obj.AXIS_STATUS.LINE_POS + encMove s.enc.a s.enc.b a b)).toInt ∧
      t.enc = { s.enc with a := a, b := b, z := false } ∧
      onlyRegs s { t with enc := s.enc, units := s.units, tdc := s.tdc, fresh := s.fresh }
        ([Obj.AXIS_STATUS.LINE_POS, Obj.TDC.COARSE_STAMPS] ++ edgeRegs 10 ++ edgeRegs 11) := by
  have hboth : (s.enc.a != a && s.enc.b != b) = false := by rcases hone with rfl | rfl <;> simp
  have henc := sampleStamped_enc s a b false
  have hkept := stampsKept_sample s a b false ([Obj.AXIS_STATUS.LINE_POS, Obj.TDC.COARSE_STAMPS] ++ edgeRegs 10 ++ edgeRegs 11)
    (fun _ r hr => by simp only [stampRegs, List.mem_cons] at hr; rcases hr with rfl | hr <;> simp [*])
    (fun _ r hr => by simp only [stampRegs, List.mem_cons] at hr; rcases hr with rfl | hr <;> simp [*]) (fun h => by simp at h)
  refine ⟨(sampleStamped a b false s).puti Obj.AXIS_STATUS.LINE_POS (s.lineCount.toInt + encMove s.enc.a s.enc.b a b), ?_, ?_, ?_, ?_⟩
  · rw [encLevelAccept_next s a b false ht]
    simp only [hboth, Bool.false_and, Bool.false_eq_true, if_false]
    rw [offerLine_sample s a b false _ _ _ hx, State.takePreset_none _ (by rw [State.put_enc, henc]; exact hp)]
    rfl
  · rw [State.i_puti_self]
    exact lineCount_moved s _
  · rw [State.puti_eq, State.put_enc, henc]
    exact congrArg (fun x => ({ s.enc with taken := x, a := a, b := b, z := false } : EncPart)) ht.symm
  · exact (hkept.trans (stampsKept_put _ (by simp) _)).onlyRegs

/-- Along 00, 10, 11, 01 the count goes up, and the same step back goes down (R36). -/
theorem encMove_directions : encMove false false true false = 1 ∧ encMove true false true true = 1 ∧ encMove true true false true = 1 ∧
    encMove false true false false = 1 ∧ ∀ a b a' b', encMove a' b' a b = - encMove a b a' b' := by decide

/-! ## An illegal transition (R35) -/

theorem State.encIllegal_eq (s : State) : ∃ ps, s.encIllegal = { s.bump Obj.AXIS_STATUS.ENC_ILLEGAL with ports := ps } := by
  rw [State.encIllegal]
  refine overAll_induct (P := fun t => ∃ ps, t = { s.bump Obj.AXIS_STATUS.ENC_ILLEGAL with ports := ps }) ?_ _ ⟨_, rfl⟩
  rintro _ n ⟨ps, rfl⟩
  split
  · exact ⟨_, rfl⟩
  · exact ⟨_, rfl⟩

/-- An illegal transition marks the ports that are on the LINE axis. -/
theorem State.lineBad_encIllegal (s : State) (n : Port) :
    s.encIllegal.ports[n].lineBad = (s.ports[n].lineBad || s.u (Obj.SCHEDULER.AXIS n) == 2) := by
  rw [State.encIllegal]
  by_cases hn : s.u (Obj.SCHEDULER.AXIS n) = 2
  · rw [beq_iff_eq.mpr hn, Bool.or_true]
    refine overAll_reaches (P := fun t => t.ports[n].lineBad = true) n (fun t => ?_) (fun t m h => ?_) _
    · rw [if_pos hn, State.modPort_self]
    · split
      · by_cases hm : m = n
        · subst hm
          rw [State.modPort_self]
        · rw [State.modPort_other _ _ _ _ hm]
          exact h
      · exact h
  · rw [beq_eq_false_iff_ne.mpr hn, Bool.or_false]
    refine overAll_induct (P := fun t => t.ports[n].lineBad = s.ports[n].lineBad) (fun t m h => ?_) _ rfl
    split
    · rename_i hm
      rw [State.modPort_other _ _ _ _ (fun e : m = n => hn (by rw [← e]; exact hm))]
      exact h
    · exact h

theorem encLevelAccept_illegal (s : State) (a b : Bool) (ht : s.enc.taken = true) (hp : s.enc.preset = none) (ha : a ≠ s.enc.a)
    (hb : b ≠ s.enc.b) (hlt : s.u Obj.AXIS_STATUS.ENC_ILLEGAL + 1 < 2 ^ 32) :
    ∃ t : State, exec (.encLevelAccept a b false) s = .next t ∧ t.u Obj.AXIS_STATUS.ENC_ILLEGAL = s.u Obj.AXIS_STATUS.ENC_ILLEGAL + 1 ∧
      regsKept s t ([Obj.AXIS_STATUS.ENC_ILLEGAL, Obj.TDC.COARSE_STAMPS] ++ edgeRegs 10 ++ edgeRegs 11) ∧
      ∀ n : Port, t.ports[n].lineBad = (s.ports[n].lineBad || s.u (Obj.SCHEDULER.AXIS n) == 2) := by
  have hboth : (s.enc.a != a && s.enc.b != b) = true := by simp [ha.symm, hb.symm]
  have hkept := stampsKept_sample s a b false ([Obj.AXIS_STATUS.ENC_ILLEGAL, Obj.TDC.COARSE_STAMPS] ++ edgeRegs 10 ++ edgeRegs 11)
    (fun _ r hr => by simp only [stampRegs, List.mem_cons] at hr; rcases hr with rfl | hr <;> simp [*])
    (fun _ r hr => by simp only [stampRegs, List.mem_cons] at hr; rcases hr with rfl | hr <;> simp [*]) (fun h => by simp at h)
  have hcount : (sampleStamped a b false s).u Obj.AXIS_STATUS.ENC_ILLEGAL = s.u Obj.AXIS_STATUS.ENC_ILLEGAL :=
    sampleStamped_u s a b false _ (.inl (by decide))
  obtain ⟨ps, hi⟩ := (sampleStamped a b false s).encIllegal_eq
  refine ⟨(sampleStamped a b false s).encIllegal, ?_, ?_, ?_, fun n => ?_⟩
  · rw [encLevelAccept_next s a b false ht]
    simp only [hboth, Bool.false_and, Bool.false_eq_true, if_false, if_true]
    rw [State.takePreset_none _ (by rw [hi]; exact (congrArg (·.preset) (sampleStamped_enc s a b false)).trans hp)]
  · rw [hi, ← hcount]
    exact State.u_bump_self _ _ (by rw [hcount]; exact hlt)
  · rw [hi]
    exact ((((regsKept.refl s _).of_regs rfl).trans hkept.2).put (by simp) _).of_regs rfl
  · rw [State.lineBad_encIllegal, sampleStamped_ports, sampleStamped_u _ _ _ _ _ (.inr (axis_key_high n))]

/-! ## An index edge (R36) -/

theorem State.indexEdge_zeroes (s : State) (h : s.u Obj.AXIS_CONFIG.ENC_INDEX = 1) :
    s.indexEdge = (s.bump Obj.AXIS_STATUS.LINE_INDEX).put Obj.AXIS_STATUS.LINE_POS 0 := by
  simp only [State.indexEdge, h]

theorem encLevelAccept_index (s : State) (ht : s.enc.taken = true) (hp : s.enc.preset = none) (hz : s.enc.z = false)
    (hi : s.u Obj.AXIS_CONFIG.ENC_INDEX = 1) (hlt : s.u Obj.AXIS_STATUS.LINE_INDEX + 1 < 2 ^ 32)
    (hx : ∀ n : Port, s.u (Obj.SCHEDULER.AXIS n) ≠ 2) :
    ∃ t : State, exec (.encLevelAccept s.enc.a s.enc.b true) s = .next t ∧ t.u Obj.AXIS_STATUS.LINE_POS = 0 ∧
      t.u Obj.AXIS_STATUS.LINE_INDEX = s.u Obj.AXIS_STATUS.LINE_INDEX + 1 ∧
      onlyRegs s { t with enc := s.enc, units := s.units, tdc := s.tdc, fresh := s.fresh }
        ([Obj.AXIS_STATUS.LINE_POS, Obj.AXIS_STATUS.LINE_INDEX, Obj.TDC.COARSE_STAMPS] ++ edgeRegs 12) := by
  have hkept := stampsKept_sample s s.enc.a s.enc.b true
    ([Obj.AXIS_STATUS.LINE_POS, Obj.AXIS_STATUS.LINE_INDEX, Obj.TDC.COARSE_STAMPS] ++ edgeRegs 12) (fun h => absurd rfl h) (fun h => absurd rfl h)
    (fun _ r hr => by simp only [stampRegs, List.mem_cons] at hr; rcases hr with rfl | hr <;> simp [*])
  have henc := sampleStamped_enc s s.enc.a s.enc.b true
  have hread : ∀ r : Reg, r.key < 0x2200 * 256 → (sampleStamped s.enc.a s.enc.b true s).u r = s.u r :=
    fun r hr => sampleStamped_u _ _ _ _ r (.inl hr)
  generalize hm : sampleStamped s.enc.a s.enc.b true s = m at hkept henc hread
  refine ⟨((m.put Obj.AXIS_STATUS.LINE_POS (ofSigned 32 (s.lineCount.toInt + encMove s.enc.a s.enc.b s.enc.a s.enc.b))).bump
    Obj.AXIS_STATUS.LINE_INDEX).put Obj.AXIS_STATUS.LINE_POS 0, ?_, ?_, ?_, ?_⟩
  · rw [encLevelAccept_next s _ _ true ht]
    simp only [bne_self_eq_false, Bool.false_and, Bool.false_eq_true, if_false, hz, Bool.not_false, Bool.and_true, if_true]
    rw [offerLine_sample s _ _ true _ _ _ hx, hm,
      State.indexEdge_zeroes _ (by rw [State.u_put_ne _ _ _ _ (by decide), hread _ (by decide), hi]),
      State.takePreset_none _ (by rw [State.put_enc, State.bump_eq, State.put_enc, State.put_enc, henc]; exact hp)]
  · exact State.u_put_of_lt _ _ _ (by decide)
  · have hli : (m.put Obj.AXIS_STATUS.LINE_POS (ofSigned 32 (s.lineCount.toInt + encMove s.enc.a s.enc.b s.enc.a s.enc.b))).u
        Obj.AXIS_STATUS.LINE_INDEX = s.u Obj.AXIS_STATUS.LINE_INDEX := by rw [State.u_put_ne _ _ _ _ (by decide), hread _ (by decide)]
    rw [State.u_put_ne _ _ _ _ (by decide), State.u_bump_self _ _ (by rw [hli]; exact hlt), hli]
  · exact (((hkept.trans (stampsKept_put _ (by simp) _)).trans (stampsKept_bump _ (by simp))).trans (stampsKept_put _ (by simp) _)).onlyRegs

/-! ## A preset that waits (R36) -/

/-- A preset waits and a sample has been taken. -/
def presetWaits (v : Nat) (s : State) : Prop := s.enc.preset = some v ∧ s.enc.taken = true

theorem presetWaits_encIllegal {v : Nat} {s : State} (h : presetWaits v s) : presetWaits v s.encIllegal := by
  obtain ⟨ps, he⟩ := s.encIllegal_eq
  rw [he]
  exact h

theorem presetWaits_offerLine {v : Nat} {s : State} (mv : Int) (stamp : Stamp) (h : presetWaits v s) : presetWaits v (s.offerLine mv stamp) := by
  refine overAll_induct (P := presetWaits v) (fun t n ht => ?_) s h
  split
  · exact ht
  · exact ht

theorem presetWaits_indexEdge {v : Nat} {s : State} (h : presetWaits v s) : presetWaits v s.indexEdge := by
  rw [State.indexEdge]
  split
  · exact h
  · split
    · exact h
    · exact h
  · exact h

theorem presetWaits_taken {v : Nat} {s : State} (h : presetWaits v s) (hv : v < 2 ^ 32) :
    s.takePreset.u Obj.AXIS_STATUS.LINE_POS = v ∧ s.takePreset.enc.preset = none ∧ s.takePreset.enc.taken = true := by
  obtain ⟨hp, ht⟩ := h
  rw [s.takePreset_some v hp]
  exact ⟨State.u_put_of_lt _ _ _ hv, rfl, ht⟩

/-- Whatever a sample moves, a preset that waits then replaces the count. -/
theorem encLevelAccept_preset (s : State) (a b z : Bool) (v : Nat) (hp : s.enc.preset = some v) (hv : v < 2 ^ 32) :
    ∃ t : State, exec (.encLevelAccept a b z) s = .next t ∧ t.u Obj.AXIS_STATUS.LINE_POS = v ∧ t.enc.preset = none ∧ t.enc.taken = true := by
  cases ht : s.enc.taken with
  | false =>
    refine ⟨_, encLevelAccept_first s a b z ht, ?_⟩
    exact presetWaits_taken (s := State.firstLevels _ a b z) ⟨hp, rfl⟩ hv
  | true =>
    have hs : presetWaits v (sampleStamped a b z s) := by
      rw [presetWaits, sampleStamped_enc]
      exact ⟨hp, rfl⟩
    refine ⟨_, encLevelAccept_next s a b z ht, presetWaits_taken ?_ hv⟩
    have hmoved : presetWaits v (if s.enc.a != a && s.enc.b != b then (sampleStamped a b z s).encIllegal
        else ((sampleStamped a b z s).put Obj.AXIS_STATUS.LINE_POS
          (ofSigned 32 (s.lineCount.toInt + encMove s.enc.a s.enc.b a b))).offerLine (encMove s.enc.a s.enc.b a b) (sampleStamp a b s)) := by
      split
      · exact presetWaits_encIllegal hs
      · exact presetWaits_offerLine _ _ hs
    split
    · exact presetWaits_indexEdge hmoved
    · exact hmoved

theorem encLevelAccept_firstSample (s : State) (a b z : Bool) (ht : s.enc.taken = false) (hp : s.enc.preset = none) :
    exec (.encLevelAccept a b z) s = .next { s with
      enc := { s.enc with taken := true, a := a, b := b, z := z },
      tdc := { s.tdc with levels := ((s.tdc.levels.set 10 a).set 11 b).set 12 z, raw := [] } } := by
  rw [encLevelAccept_first s a b z ht, State.takePreset_none _ (by exact hp)]
  rfl

/-- Every 10 ms the net change, times 100 (R62). -/
theorem lineRateUpdate_shows (s : State) :
    ∃ t : State, exec .lineRateUpdate s = .next t ∧ t.enc.at10ms = s.lineCount ∧
      t.i Obj.AXIS_STATUS.LINE_RATE = (BitVec.ofInt 32 ((s.lineCount - s.enc.at10ms).toInt * 100)).toInt ∧
      onlyRegs s { t with enc := s.enc } [Obj.AXIS_STATUS.LINE_RATE] := by
  refine ⟨_, rfl, rfl, ?_, rfl, ((regsKept.refl s _).of_regs rfl).put (by simp) _⟩
  exact (State.i_puti_self _ _ _).trans (toSigned_ofSigned 32 _)

/-- Settles O5: a mains edge by the branch of the tracker it takes, a sample by its edges, its move, its index edge and its preset in turn. -/
theorem mainsAndEncoder : Obligations.MainsAndEncoder := by
  refine ⟨⟨fun s stamp l p h hl hp ht => ?_, fun s stamp l p t h hl hp htt ht hr => ?_, fun s u stamp t h hu htt hl => ?_,
    fun s stamp l t h hl hp htt ht => ?_, mainsSyntheticEdge_moves, fun s l p hl hp hy hlock => ?_, mainsSyntheticEdge_untracked⟩,
    encLevelAccept_firstSample, encLevelAccept_moves, encMove_directions, encLevelAccept_illegal, encLevelAccept_index, fun _ _ => rfl,
    encLevelAccept_preset, lineRateUpdate_shows⟩
  · have hm := edged_mains s 9 stamp
    rw [mainsEdge_fine s stamp h, State.mainsEdge_early _ stamp l p (by rw [hm, hl]) (by rw [hm, hp]) (by rw [mainsInstant_edged]; exact ht)]
  · subst htt
    exact mainsEdge_tracks s stamp l p h hl hp ht hr
  · have hm := edged_mains s 9 stamp
    rw [mainsEdge_fine s stamp h, State.mainsEdge_first _ stamp (by rw [hm, hl]), mainsInstant_edged, hm, hu, htt]
    rfl
  · subst htt
    exact mainsEdge_firstPeriod s stamp l h hl hp ht
  · refine ⟨_, mainsSyntheticEdge_unlocks s l p hl hp hy hlock, State.u_put_of_lt _ _ _ (by decide), rfl, rfl, rfl, ?_⟩
    exact (regsKept_put_withMains s _ _ _).of_regs rfl

end Sys2Proof.Machine
end

section
/-! SUPPORT. Slot points (R40, R45, R47 to R50; Machine/Shots.lean, Machine/Slots.lean): consumed, refused or committed. -/

namespace Sys2Proof.Machine

/-! ## Changes of one port -/

theorem State.modPort_congr (s : State) (n : Port) {f g : FibrePort → FibrePort} (h : f s.ports[n] = g s.ports[n]) :
    s.modPort n f = s.modPort n g := by
  rw [State.modPort, State.modPort, h]

theorem State.modPort_modPort (s : State) (n : Port) (f g : FibrePort → FibrePort) :
    (s.modPort n f).modPort n g = s.modPort n (fun q => g (f q)) := by
  have hself : (s.modPort n f).ports[n] = f s.ports[n] := s.modPort_self n f
  rw [State.modPort, hself, State.modPort, State.modPort]
  simp only [Vector.set_set]

/-- A port with one shot in hand: a change of its first shot that meets a test is the change of that shot. -/
theorem State.modShot_single (s : State) (n : Port) (x : Shot) (p : Shot → Bool) (f : Shot → Shot) (h : s.ports[n].shots = [x])
    (hp : p x = true) : s.modShot n p f = s.modPort n (fun q => { q with shots := [f x] }) := by
  refine s.modPort_congr n ?_
  rw [h, changeFirst, if_pos hp]

/-! ## The enable decision (R47) -/

theorem State.refusal_eq (s : State) (n : Port) (l : Nat) : s.refusal n l =
    if s.lsiHeld = false then 1 else if s.coasting = true then 2 else if s.calHolds n = true then 3
    else if s.claimBars n = true then 4 else if s.axisBars n = true then 5 else if l < s.clearAt n then 6 else 0 := by
  rw [State.refusal]
  simp only [Bool.not_eq_true']

/-- Cause 3 is a port that a calibration holds. -/
theorem State.refusal_ne_three (s : State) (n : Port) (l : Nat) (h : s.calHolds n = false) : s.refusal n l ≠ 3 := by
  rw [s.refusal_eq, h]
  split
  · decide
  · split
    · decide
    · rw [if_neg (by decide)]
      split
      · decide
      · split
        · decide
        · split <;> decide

theorem State.decideSlot_refuses (s : State) (n : Port) (i : SlotInfo) (c : Nat) (hk : s.u (Obj.SHOT_ENTRY.KIND n (s.entryAt n)) ≠ 0)
    (hr : s.refusal n i.launchAt = c) (h0 : c ≠ 0) (h6 : c ≠ 6) (hcal : s.calHolds n = false) :
    s.decideSlot n i = (s.bump (causeCounter n c)).modPort n (fun q => { q with gap := true }) := by
  have h3 : c ≠ 3 := hr ▸ s.refusal_ne_three n _ hcal
  rw [State.decideSlot]
  simp only [hr]
  rw [if_neg (fun h => hk h.1), if_neg h0, State.refuseSlot]
  simp only [hcal]
  rw [if_neg h3, if_neg (fun h => Bool.noConfusion h.2), State.refuseShot]
  simp only [if_neg h6]

theorem causeCounter_width (n : Port) (c : Nat) : (causeCounter n c).width = 32 := by
  unfold causeCounter
  split <;> rfl

theorem decideSlot_refused (s : State) (n : Port) (i : SlotInfo) (c : Nat) (hk : s.u (Obj.SHOT_ENTRY.KIND n (s.entryAt n)) ≠ 0)
    (hr : s.refusal n i.launchAt = c) (h0 : c ≠ 0) (h6 : c ≠ 6) (hcal : s.calHolds n = false) (hlt : s.u (causeCounter n c) + 1 < 2 ^ 32) :
    ∃ t : State, s.decideSlot n i = t ∧ t.u (causeCounter n c) = s.u (causeCounter n c) + 1 ∧ t.ports[n].gap = true ∧
      t.ports[n].shots = s.ports[n].shots ∧ regsKept s t [causeCounter n c] := by
  refine ⟨_, s.decideSlot_refuses n i c hk hr h0 h6 hcal, ?_, ?_, ?_, ?_⟩
  · exact (State.u_of_regs rfl _).trans (State.u_bump_self _ _ (by rw [causeCounter_width]; exact hlt))
  · rw [State.modPort_self]
  · rw [State.modPort_self]
    rfl
  · exact ((regsKept.refl s _).put (by simp) _).of_regs rfl

/-! ## The commit of a shot (R48) -/

/-- Auto-gain's state is the only part of a port that the steps of a shot may change. -/
theorem gainOf_port (s : State) (n : Port) (e : Nat) : ∃ l, (gainOf s n e).2.2 = { s.ports[n] with agc := l } := ⟨_, rfl⟩

theorem State.stepWord_regs (s : State) (n : Port) (x : Shot) : (s.stepWord n x).regs = s.regs := by
  rw [State.stepWord]
  split <;> rfl

theorem State.stepWord_shots (s : State) (n : Port) (x : Shot) : (s.stepWord n x).ports[n].shots = s.ports[n].shots := by
  rw [State.stepWord]
  split
  · rw [State.modPort_self]
    rfl
  · rfl

theorem State.commitShot_shots (s : State) (n : Port) (e : Nat) (i : SlotInfo) :
    (s.commitShot n e i).ports[n].shots = s.ports[n].shots ++ [newShot s n e i (nextSeq s n) (gainOf s n e).1 (gainOf s n e).2.1] ∧
      (s.commitShot n e i).regs = s.regs := by
  generalize hx : newShot s n e i (nextSeq s n) (gainOf s n e).1 (gainOf s n e).2.1 = x
  have hgain : (if x.kind = 2 then s else { s with ports := s.ports.set n (gainOf s n e).2.2 }).ports[n].shots = s.ports[n].shots ∧
      (if x.kind = 2 then s else { s with ports := s.ports.set n (gainOf s n e).2.2 }).regs = s.regs := by
    split
    · exact ⟨rfl, rfl⟩
    · obtain ⟨l, hl⟩ := gainOf_port s n e
      refine ⟨?_, rfl⟩
      simp [hl]
  generalize hu : (if x.kind = 2 then s else { s with ports := s.ports.set n (gainOf s n e).2.2 }) = u at hgain
  have hshots : ∀ v, ((u.stepWord n x).modPort n (fun q => { q with shots := q.shots ++ [x], stepped := v })).ports[n].shots =
      s.ports[n].shots ++ [x] := by
    intro v
    rw [State.modPort_self]
    dsimp only
    rw [State.stepWord_shots, hgain.1]
  have hregs : (u.stepWord n x).regs = s.regs := (u.stepWord_regs n x).trans hgain.2
  rw [State.commitShot]
  simp only [hx, hu]
  split
  · exact ⟨hshots false, hregs⟩
  · exact ⟨hshots false, hregs⟩

theorem decideSlot_commits (s : State) (n : Port) (i : SlotInfo) (hk : s.u (Obj.SHOT_ENTRY.KIND n (s.entryAt n)) ≠ 0)
    (hr : s.refusal n i.launchAt = 0) :
    ∃ x : Shot, (s.decideSlot n i).ports[n].shots = s.ports[n].shots ++ [x] ∧ x.launchAt = i.launchAt ∧ x.entry = s.entryAt n ∧
      x.seq = nextSeq s n ∧ x.epochStep = s.ports[n].stepped ∧ x.launched = false ∧ (s.decideSlot n i).regs = s.regs := by
  have hd : s.decideSlot n i = s.commitShot n (s.entryAt n) i := by
    rw [State.decideSlot]
    simp only [hr]
    rw [if_neg (fun h => hk h.1), if_pos trivial]
  obtain ⟨hshots, hregs⟩ := s.commitShot_shots n (s.entryAt n) i
  rw [hd]
  exact ⟨_, hshots, rfl, rfl, rfl, rfl, rfl, hregs⟩

/-! ## Slot points consumed (R40, R45) -/

theorem State.slotPoint_consumed (s : State) (n : Port) (k : Int) (hx : s.u (Obj.SCHEDULER.AXIS n) = 0) (hw : s.withheld n = false)
    (h : s.u (Obj.SCHEDULER.ENABLE n) = 0 ∨ (s.u (Obj.SHOT_ENTRY.KIND n (s.entryAt n)) = 0 ∧ s.calHolds n = false)) :
    s.slotPoint n (.time k) = s.advanceTable n := by
  rw [State.slotPoint, slotInfo, if_pos hx]
  simp only [hw, Bool.false_eq_true, false_or, if_false]
  rcases h with h | ⟨hkind, hcal⟩
  · rw [if_pos h]
    rfl
  · have hd : ∀ i, s.decideSlot n i = s := fun i => by
      rw [State.decideSlot]
      exact if_pos ⟨hkind, by rw [hcal]; rfl⟩
    rw [hd, ite_self]
    rfl

theorem commitPoint_serves (s : State) (n : Port) (slot : SlotPoint) (h : s.u Obj.HEALTH.BOOT_STATE = 3) :
    exec (.commitPoint n slot) s = .next ((((s.commitPair n).commitOwn n).budgetFlag n).slotPoint n slot) := by
  change execCommitPoint n slot s = _
  rw [execCommitPoint, if_neg (not_not_intro h)]

theorem commitPoint_stopped (s : State) (n : Port) (slot : SlotPoint) (h : s.u Obj.HEALTH.BOOT_STATE ≠ 3) :
    exec (.commitPoint n slot) s = .next (s.takeOffer n slot) := by
  change execCommitPoint n slot s = _
  rw [execCommitPoint, if_pos h]

end Sys2Proof.Machine
end

section
/-! SUPPORT. The steps of a launch (R57, R60, R70, R78, R80, R86 to R89; Machine/Slots.lean), each on the shot of a port with one in hand. -/

namespace Sys2Proof.Machine

theorem firstShot_single {s : State} {n : Port} {x : Shot} {p : Shot → Bool} (h : s.ports[n].shots = [x]) (hp : p x = true) :
    firstShot s n p = some x := by
  rw [firstShot, h, List.find?_cons_of_pos hp]

/-! ## TONE_LOAD -/

theorem State.gainInForce_first (s : State) (n : Port) (x : Shot) (r : List Shot) (h : s.ports[n].shots = x :: r)
    (hw : x.winClosed = false) (hl : x.loaded = true) (hk : x.kind ≠ 2) :
    s.gainInForce n = s.put (Obj.PORT_STATUS.STEP n) (x.stepY * 16 + x.stepX) := by
  rw [State.gainInForce, h, List.find?_cons_of_pos (by rw [hw]; rfl)]
  simp [hl, hk]

theorem toneLoad_loads (s : State) (n : Port) (x : Shot) (h : s.ports[n].shots = [x]) (hl : x.loaded = false) (hw : x.winClosed = false)
    (hk : x.kind ≠ 2) :
    ∃ t : State, exec (.toneLoad n) s = .next t ∧ t.ports[n].shots = [{ x with loaded := true }] ∧
      t.u (Obj.PORT_STATUS.STEP n) = (x.stepY * 16 + x.stepX) % 256 := by
  have hshots : (s.modPort n (fun q => { q with shots := [{ x with loaded := true }] })).ports[n].shots = [{ x with loaded := true }] := by
    rw [State.modPort_self]
  refine ⟨_, rfl, ?_⟩
  rw [s.modShot_single n x _ _ h (by rw [hl]; rfl), State.gainInForce_first _ n _ _ hshots hw rfl hk]
  exact ⟨hshots, State.u_put_self _ _ _⟩

/-! ## GATE_ASSERT and GATE_RELEASE -/

theorem gateAssert_raises (s : State) (n : Port) (x : Shot) (h : s.ports[n].shots = [x]) (hl : x.loaded = true) (hg : x.gateOn = false)
    (hc : x.cut = false) (hd : x.dark = false) :
    exec (.gateAssert n) s = .next (s.modPort n (fun q => { q with shots := [{ x with gateOn := true }], gateHigh := true })) := by
  have hnext : riseNext s.ports[n].shots = some x := by
    rw [h, riseNext, List.filter_cons_of_pos (by rw [hl, hg]; rfl)]
    rfl
  change execGateAssert n s = _
  simp only [execGateAssert, hnext]
  rw [if_neg (by simp [hc, hd]), s.modShot_single n x _ _ h (by simp [hl, hg]), State.modPort_modPort]

theorem gateRelease_lowers (s : State) (n : Port) (x : Shot) (h : s.ports[n].shots = [x]) (hl : x.launched = true) (hg : x.gateOff = false)
    (hd : x.dataDone = false) :
    exec (.gateRelease n) s = .next (s.modPort n (fun q => { q with shots := [{ x with gateOff := true }], gateHigh := false })) := by
  have hnext : gateNext s.ports[n].shots = some x := by
    rw [h, gateNext, List.filter_cons_of_pos (by rw [hl, hg]; rfl)]
    rfl
  change execGateRelease n s = _
  simp only [execGateRelease, hnext, State.dropOver]
  rw [s.modShot_single n x _ _ h (by simp [hl, hg]), State.modPort_modPort, State.modPort_modPort]
  simp [Shot.holdsGate, Shot.over, hd]

/-! ## RECORD_WINDOW_OPEN -/

theorem rxRecord_length (s : State) (n : Port) (x : Shot) (y : Nat) (l : List RxRaw) (hk : x.kind ≠ 2) (hy : x.inputs.testBit y = true) :
    (rxRecord s n x y l).length = min x.winLen l.length := by
  simp [rxRecord, hk, hy]

theorem rxRecord_disabled (s : State) (n : Port) (x : Shot) (y : Nat) (l : List RxRaw) (hy : x.inputs.testBit y = false) :
    rxRecord s n x y l = [] := by
  simp [rxRecord, hy]

theorem recordWindowOpen_records (s : State) (n : Port) (x : Shot) (a b : List RxRaw) (h : s.ports[n].shots = [x])
    (hl : x.launched = true) (hw : x.winOpen = false) :
    ∃ (t : State) (y : Shot), exec (.recordWindowOpen n a b) s = .next t ∧ t = s.modPort n (fun q => { q with shots := [y] }) ∧
      y.winOpen = true ∧ y.recX = rxRecord s n x 0 a ∧ y.recY = rxRecord s n x 1 b ∧ y.launched = true ∧ y.winClosed = x.winClosed ∧
      (x.kind ≠ 2 → x.inputs.testBit 0 = true → y.recX.length = min x.winLen a.length) ∧ (x.inputs.testBit 0 = false → y.recX = []) :=
  ⟨_, _, rfl, s.modShot_single n x _ _ h (by rw [hl, hw]; rfl), rfl, rfl, rfl, hl, rfl,
    fun hk h0 => rxRecord_length s n x 0 a hk h0, fun h0 => rxRecord_disabled s n x 0 a h0⟩

/-! ## LAUNCH -/

/-- What a launch counts: its sequence number, LAUNCHED, and a change of gain. -/
def State.countLaunch (s : State) (n : Port) (seq : Nat) (changed : Bool) : State :=
  let t := (s.put (Obj.SCHEDULER.SEQ n) seq).bump (Obj.SCHEDULER.LAUNCHED n)
  if changed then t.bump (Obj.PORT_STATUS.GAIN_CHANGES n) else t

theorem State.countLaunch_ports (s : State) (n : Port) (q : Nat) (g : Bool) : (s.countLaunch n q g).ports = s.ports := by
  rw [State.countLaunch]
  split <;> rfl

theorem State.countLaunch_u (s : State) (n : Port) (q : Nat) (g : Bool) (r : Reg) (hr : r.key ≠ (Obj.PORT_STATUS.GAIN_CHANGES n).key) :
    (s.countLaunch n q g).u r = ((s.put (Obj.SCHEDULER.SEQ n) q).bump (Obj.SCHEDULER.LAUNCHED n)).u r := by
  rw [State.countLaunch]
  split
  · exact State.u_put_ne _ _ _ _ hr.symm
  · rfl

theorem State.countLaunch_seq (s : State) (n : Port) (q : Nat) (g : Bool) (hq : q < 2 ^ 32) :
    (s.countLaunch n q g).u (Obj.SCHEDULER.SEQ n) = q := by
  rw [State.countLaunch_u _ _ _ _ _ (by dsimp only [Obj.SCHEDULER.SEQ, Obj.PORT_STATUS.GAIN_CHANGES]; omega), State.bump_eq,
    State.u_put_ne _ _ _ _ (by dsimp only [Obj.SCHEDULER.SEQ, Obj.SCHEDULER.LAUNCHED]; omega)]
  exact State.u_put_of_lt _ _ _ hq

theorem State.countLaunch_launched (s : State) (n : Port) (q : Nat) (g : Bool) (h : s.u (Obj.SCHEDULER.LAUNCHED n) + 1 < 2 ^ 32) :
    (s.countLaunch n q g).u (Obj.SCHEDULER.LAUNCHED n) = s.u (Obj.SCHEDULER.LAUNCHED n) + 1 := by
  have hs : (s.put (Obj.SCHEDULER.SEQ n) q).u (Obj.SCHEDULER.LAUNCHED n) = s.u (Obj.SCHEDULER.LAUNCHED n) :=
    State.u_put_ne _ _ _ _ (by dsimp only [Obj.SCHEDULER.SEQ, Obj.SCHEDULER.LAUNCHED]; omega)
  rw [State.countLaunch_u _ _ _ _ _ (by dsimp only [Obj.SCHEDULER.LAUNCHED, Obj.PORT_STATUS.GAIN_CHANGES]; omega),
    State.u_bump_self _ _ (by rw [hs]; exact h), hs]

theorem State.regsKept_countLaunch (s : State) (n : Port) (q : Nat) (g : Bool) : regsKept s (s.countLaunch n q g)
    [Obj.SCHEDULER.SEQ n, Obj.SCHEDULER.LAUNCHED n, Obj.PORT_STATUS.GAIN_CHANGES n] := by
  have ht : regsKept s ((s.put (Obj.SCHEDULER.SEQ n) q).bump (Obj.SCHEDULER.LAUNCHED n))
      [Obj.SCHEDULER.SEQ n, Obj.SCHEDULER.LAUNCHED n, Obj.PORT_STATUS.GAIN_CHANGES n] :=
    ((regsKept.refl s _).put (by simp) _).put (by simp) _
  rw [State.countLaunch]
  split
  · exact ht.put (by simp) _
  · exact ht

theorem State.clipped_ports (s : State) (n : Port) (k : Nat) : (s.clipped n k).ports = s.ports := by
  rw [State.clipped]
  split <;> rfl

theorem State.regsKept_clipped (s : State) (n : Port) (k : Nat) :
    regsKept s (s.clipped n k) [Obj.PORT_STATUS.CLIPS n, Obj.PORT_STATUS.FLAGS n] := by
  rw [State.clipped]
  split
  · exact regsKept.refl _ _
  · exact ((regsKept.refl s _).put (by simp) _).put (by simp) _

theorem State.clipped_clips (s : State) (n : Port) (k : Nat) (h : s.u (Obj.PORT_STATUS.CLIPS n) + k < 2 ^ 32) :
    (s.clipped n k).u (Obj.PORT_STATUS.CLIPS n) = s.u (Obj.PORT_STATUS.CLIPS n) + k := by
  rw [State.clipped]
  split
  · simp [*]
  · exact (State.u_put_ne _ _ _ _ (by dsimp only [Obj.PORT_STATUS.FLAGS, Obj.PORT_STATUS.CLIPS]; omega)).trans (State.u_add_self _ _ _ h)

theorem State.clipped_flag (s : State) (n : Port) (k : Nat) (h : 0 < k) :
    (s.clipped n k).bit (Obj.PORT_STATUS.FLAGS n) Bit.PORT_STATUS.FLAGS.CLIP = true := by
  rw [State.clipped, if_neg h.ne']
  exact State.bit_putBit_self _ _ _ _ (show 8 < 32 by decide)

/-- What a launch leaves on its port: the shot `x` at place `j` of its set's relearn, its waveform `d`, and what the next shots compare with. -/
def FibrePort.launch (q : FibrePort) (j : Nat) (x : Shot) (d : DacRun) : FibrePort :=
  { q with
    shots := changeFirst (fun z => z.loaded && !z.launched) (fun _ => launchedShot q j x) q.shots
    clearAt := some x.clear
    gap := q.gap && x.cal
    lastWin := some (x.launchAt + 2 * x.winStart, x.launchAt + 2 * (x.winStart + x.winLen))
    dac := some d
    lastGain := if x.kind != 2 && !x.cal then some (x.stepX, x.stepY) else q.lastGain }

/-- The place of a DAS shot in its set's relearn as its launch finds it; 0 of another shot. -/
def relearnPlace (s : State) (n : Port) (x : Shot) : Nat :=
  if x.kind == 1 && !x.cal then ((s.pipes[n].relearn.find? (fun e => e.1 == x.toneSet)).map (·.2)).getD 33 else 0

theorem State.modPipe_ite (s : State) (c : Prop) [Decidable c] (n : Port) (f : PipePart → PipePart) :
    (if c then s.modPipe n f else s).ports = s.ports ∧ (if c then s.modPipe n f else s).regs = s.regs := by
  split
  · exact ⟨rfl, rfl⟩
  · exact ⟨rfl, rfl⟩

theorem launch_eq (s : State) (n : Port) (x : Shot) (hfirst : firstShot s n (fun z => z.loaded && !z.launched) = some x)
    (hcal : ¬ x.cal = true) :
    ∃ u : State, exec (.launch n) s =
        .next ((u.countLaunch n x.seq.toNat (gainChanged s.ports[n] x)).clipped n (clipCount (launchCodes s x))) ∧
      u.ports = (s.modPort n (fun q => q.launch (relearnPlace s n x) x (launchRun s x))).ports ∧ u.regs = s.regs := by
  change ∃ u : State, execLaunch n s = _ ∧ _
  simp only [execLaunch, hfirst, if_neg hcal]
  exact ⟨_, rfl, (State.modPipe_ite _ _ n _).1.trans (congrArg State.ports (s.modPort_congr n rfl)), (State.modPipe_ite _ _ n _).2⟩

theorem launch_launches (s : State) (n : Port) (x : Shot) (k : Nat) (h : s.ports[n].shots = [x]) (hload : x.loaded = true)
    (hlau : x.launched = false) (hcal : x.cal = false) (hlt : s.u (Obj.SCHEDULER.LAUNCHED n) + 1 < 2 ^ 32)
    (hk : k = clipCount (launchCodes s x)) (hclips : s.u (Obj.PORT_STATUS.CLIPS n) + k < 2 ^ 32) :
    ∃ (t : State) (y : Shot), exec (.launch n) s = .next t ∧ t.ports[n].shots = [y] ∧ y.launched = true ∧ y.seq = x.seq ∧
      y.launchAt = x.launchAt ∧ y.gap = s.ports[n].gap ∧ y.gainChange = gainChanged s.ports[n] x ∧ t.ports[n].gap = false ∧
      t.u (Obj.SCHEDULER.SEQ n) = x.seq.toNat ∧ t.u (Obj.SCHEDULER.LAUNCHED n) = s.u (Obj.SCHEDULER.LAUNCHED n) + 1 ∧
      t.ports[n].clearAt = some x.clear ∧ t.ports[n].dac = some (launchRun s x) ∧
      t.u (Obj.PORT_STATUS.CLIPS n) = s.u (Obj.PORT_STATUS.CLIPS n) + k ∧
      (0 < k → t.bit (Obj.PORT_STATUS.FLAGS n) Bit.PORT_STATUS.FLAGS.CLIP = true) ∧
      (k = 0 → t.u (Obj.PORT_STATUS.FLAGS n) = s.u (Obj.PORT_STATUS.FLAGS n)) ∧
      regsKept s t [Obj.SCHEDULER.SEQ n, Obj.SCHEDULER.LAUNCHED n, Obj.PORT_STATUS.GAIN_CHANGES n, Obj.PORT_STATUS.CLIPS n,
        Obj.PORT_STATUS.FLAGS n] := by
  obtain ⟨u, hexec, hports, hregs⟩ := launch_eq s n x (firstShot_single h (by rw [hload, hlau]; rfl)) (by simp [hcal])
  rw [← hk] at hexec
  have hport : u.ports[n] = s.ports[n].launch (relearnPlace s n x) x (launchRun s x) := by
    rw [hports, State.modPort_self]
  have hshots : u.ports[n].shots = [launchedShot s.ports[n] (relearnPlace s n x) x] := by
    rw [hport, FibrePort.launch, h, changeFirst, if_pos (by rw [hload, hlau]; rfl)]
  have hu : ∀ r, u.u r = s.u r := State.u_of_regs hregs
  have hclip := u.regsKept_countLaunch n x.seq.toNat (gainChanged s.ports[n] x)
  have hseq := u.countLaunch_seq n x.seq.toNat (gainChanged s.ports[n] x) x.seq.isLt
  have hlaunched := u.countLaunch_launched n x.seq.toNat (gainChanged s.ports[n] x) (by rw [hu]; exact hlt)
  have hp := u.countLaunch_ports n x.seq.toNat (gainChanged s.ports[n] x)
  generalize u.countLaunch n x.seq.toNat (gainChanged s.ports[n] x) = v at *
  have hkept := v.regsKept_clipped n k
  have hc : v.u (Obj.PORT_STATUS.CLIPS n) = s.u (Obj.PORT_STATUS.CLIPS n) := (hclip _ (by
    simp [Obj.PORT_STATUS.CLIPS, Obj.SCHEDULER.SEQ, Obj.SCHEDULER.LAUNCHED, Obj.PORT_STATUS.GAIN_CHANGES]; omega)).trans (hu _)
  have hf : v.u (Obj.PORT_STATUS.FLAGS n) = s.u (Obj.PORT_STATUS.FLAGS n) := (hclip _ (by
    simp [Obj.PORT_STATUS.FLAGS, Obj.SCHEDULER.SEQ, Obj.SCHEDULER.LAUNCHED, Obj.PORT_STATUS.GAIN_CHANGES]; omega)).trans (hu _)
  have hcp : (v.clipped n k).ports = u.ports := (v.clipped_ports n k).trans hp
  refine ⟨_, _, hexec,
    (congrArg (fun p : Vector FibrePort 8 => p[n].shots) hcp).trans hshots,
    rfl, rfl, rfl, ?_, rfl, ?_, ?_, ?_, ?_, ?_, ?_, v.clipped_flag n k, ?_, ?_⟩
  · simp [launchedShot, hcal]
  · rw [hcp, hport, FibrePort.launch, hcal, Bool.and_false]
  · refine (hkept _ ?_).trans hseq
    simp [Obj.PORT_STATUS.FLAGS, Obj.PORT_STATUS.CLIPS, Obj.SCHEDULER.SEQ]; omega
  · refine (hkept _ ?_).trans (hlaunched.trans (by rw [hu]))
    simp [Obj.PORT_STATUS.FLAGS, Obj.PORT_STATUS.CLIPS, Obj.SCHEDULER.LAUNCHED]; omega
  · rw [hcp, hport]
    rfl
  · rw [hcp, hport]
    rfl
  · rw [v.clipped_clips n k (by rw [hc]; exact hclips), hc]
  · intro h0
    rw [State.clipped, if_pos h0, hf]
  · exact ((((regsKept.refl s _).of_regs hregs).trans hclip).mono (by simp)).trans (hkept.mono (by simp))

/-- Settles O6: the slot point's three ways out, and each step of a launch on the shot it falls to. -/
theorem slotsAndLaunches : Obligations.SlotsAndLaunches := by
  unfold Obligations.SlotsAndLaunches
  exact ⟨⟨commitPoint_serves, commitPoint_stopped, State.slotPoint_consumed, decideSlot_commits, decideSlot_refused, State.refusal_eq⟩,
    toneLoad_loads, gateAssert_raises, launch_launches, recordWindowOpen_records, gateRelease_lowers⟩

end Sys2Proof.Machine
end

section
/-! SUPPORT. MON stamps (R57, R59, R90, R91) and the laser interlock (R53 to R56; Machine/Slots.lean, Machine/Deliver.lean). -/

namespace Sys2Proof.Machine

/-- A flag that has its value already makes no entry. -/
theorem State.logFlag_same (s : State) (r : Reg) (b : Nat) (x : Bool) (sub inst : Nat) (fault : Bool) (h : s.bit r b = x) :
    s.logFlag r b x sub inst fault = s := by
  rw [State.logFlag, if_pos h]

/-! ## An edge of Fn.MON -/

theorem Shot.takesMon_iff (x : Shot) (stamp : Nat) : x.takesMon stamp = true ↔
    (x.launched = true ∧ x.stamp = none) ∧ x.launchAt * 256 ≤ stamp ∧ stamp ≤ (x.launchAt + x.monWindow) * 256 := by
  simp [Shot.takesMon, Shot.waitsMon, and_assoc]

theorem State.monEdge_first (s : State) (n : Port) (x : Shot) (r : List Shot) (stamp : Stamp) (h : s.ports[n].shots = x :: r)
    (hx : x.takesMon stamp = true) : s.monEdge n stamp = (s.monStamp n x stamp).stamped n x := by
  rw [State.monEdge, firstShot, h, List.find?_cons_of_pos hx]

theorem State.monEdge_outside (s : State) (n : Port) (stamp : Stamp) (h : ∀ x ∈ s.ports[n].shots, x.takesMon stamp = false) :
    s.monEdge n stamp = s := by
  have hnone : firstShot s n (Shot.takesMon stamp) = none := List.find?_eq_none.mpr fun x hx => by simp [h x hx]
  rw [State.monEdge, hnone]

/-- The stamp of a shot that is no calibration's, with MON_LOST clear: its header's stamp and MON_LAT. -/
theorem State.monStamp_eq (s : State) (n : Port) (x : Shot) (r : List Shot) (stamp : Stamp) (h : s.ports[n].shots = x :: r)
    (hx : x.takesMon stamp = true) (hcal : x.cal = false)
    (hlost : s.bit (Obj.PORT_STATUS.FLAGS n) Bit.PORT_STATUS.FLAGS.MON_LOST = false) :
    s.monStamp n x stamp = (s.modPort n (fun q => { q with
      shots := { x with stamp := some ((stamp : Int) - freeRound (s.i (Obj.LAUNCH.MON_DELAY n) * 512) 625).toNat } :: r
      missRun := 0 })).puti (Obj.PORT_STATUS.MON_LAT n) (psOfFine ((stamp : Int) - x.launchAt * 256)) := by
  have hne : ¬ x.cal = true := by simp [hcal]
  rw [State.monStamp]
  simp only [if_neg hne]
  rw [State.logFlag_same _ _ _ _ _ _ _ (by
    rw [State.puti_eq, State.bit_put_ne _ _ _ _ _ (by dsimp only [Obj.PORT_STATUS.FLAGS, Obj.PORT_STATUS.MON_LAT]; omega)]
    exact hlost)]
  refine congrArg (State.puti · _ _) (s.modPort_congr n ?_)
  simp only [h, changeFirst, hx, if_true]

theorem monStamp_fine (s : State) (n : Port) (ch : Fin 21) (stamp : Nat) (hch : ch.val = n.val) (h : stampsFine s ch stamp) :
    exec (.monStamp n stamp) s = .next ((edged s ch stamp).monEdge n stamp) := by
  obtain rfl : ch = ⟨n.val, n.isLt.trans (by decide)⟩ := Fin.ext hch
  exact congrArg Host.Outcome.next (s.stampChannel_fine _ stamp _ h)

theorem edged_parts (s : State) (ch : Fin 21) (stamp : Stamp) : (edged s ch stamp).ports = s.ports ∧
    (edged s ch stamp).pipes = s.pipes ∧ (edged s ch stamp).mem = s.mem := by
  obtain ⟨rs, us, td, he⟩ := edged_eq s ch stamp
  rw [he]
  exact ⟨rfl, rfl, rfl⟩

/-- The registers of an edge's channel are none of a port's. -/
theorem edged_u_port (s : State) (ch : Fin 21) (stamp : Stamp) (r : Reg) (hr : 0x300000 ≤ r.key) : (edged s ch stamp).u r = s.u r := by
  refine edged_u s ch stamp r fun x hx => ?_
  simp only [edgeRegs, List.mem_cons, List.not_mem_nil, or_false] at hx
  rcases hx with rfl | rfl
  · dsimp only [Obj.CHANNEL.LAST]
    omega
  · dsimp only [Obj.CHANNEL.EVENTS]
    omega

theorem monStamp_accepted (s : State) (n : Port) (ch : Fin 21) (x : Shot) (r : List Shot) (stamp : Nat) (hch : ch.val = n.val)
    (hfine : stampsFine s ch stamp) (h : s.ports[n].shots = x :: r) (hl : x.launched = true) (hs : x.stamp = none) (hcal : x.cal = false)
    (hlost : s.bit (Obj.PORT_STATUS.FLAGS n) Bit.PORT_STATUS.FLAGS.MON_LOST = false) (h1 : x.launchAt * 256 ≤ stamp)
    (h2 : stamp ≤ (x.launchAt + x.monWindow) * 256) :
    ∃ u : State, exec (.monStamp n stamp) s = .next (u.stamped n x) ∧
      u.ports[n].shots = { x with stamp := some ((stamp : Int) - freeRound (s.i (Obj.LAUNCH.MON_DELAY n) * 512) 625).toNat } :: r ∧
      u.i (Obj.PORT_STATUS.MON_LAT n) = toSigned 32 (ofSigned 32 (psOfFine ((stamp : Int) - x.launchAt * 256))) ∧
      u.ports[n].missRun = 0 ∧ u.pipes = s.pipes ∧ u.mem = s.mem ∧ regsKept s u (Obj.PORT_STATUS.MON_LAT n :: edgeRegs ch) := by
  have htakes := (x.takesMon_iff stamp).mpr ⟨⟨hl, hs⟩, h1, h2⟩
  obtain ⟨hports, hpipes, hmem⟩ := edged_parts s ch stamp
  have hflags := edged_u_port s ch stamp (Obj.PORT_STATUS.FLAGS n) (by dsimp only [Obj.PORT_STATUS.FLAGS]; omega)
  have hdelay := edged_u_port s ch stamp (Obj.LAUNCH.MON_DELAY n) (by dsimp only [Obj.LAUNCH.MON_DELAY]; omega)
  have hkept := regsKept_edged s ch stamp
  rw [monStamp_fine s n ch stamp hch hfine]
  generalize edged s ch stamp = v at *
  have hshots : v.ports[n].shots = x :: r := by rw [hports, h]
  have hi : s.i (Obj.LAUNCH.MON_DELAY n) = v.i (Obj.LAUNCH.MON_DELAY n) := by rw [State.i, State.i, hdelay]
  refine ⟨_, congrArg Host.Outcome.next (v.monEdge_first n x r stamp hshots htakes), ?_⟩
  rw [v.monStamp_eq n x r stamp hshots htakes hcal (by rw [State.bit, hflags]; exact hlost), hi]
  rw [State.puti_eq, State.put_ports, State.modPort_self]
  exact ⟨rfl, State.i_puti_self _ _ _, rfl, hpipes, hmem, ((hkept.mono fun _ => List.mem_cons_of_mem _).of_regs rfl).put (by simp) _⟩

theorem monStamp_ignored (s : State) (n : Port) (ch : Fin 21) (stamp : Nat) (hch : ch.val = n.val) (hfine : stampsFine s ch stamp)
    (h : ∀ x ∈ s.ports[n].shots, x.launched = true → x.stamp = none → stamp < x.launchAt * 256 ∨ (x.launchAt + x.monWindow) * 256 < stamp) :
    exec (.monStamp n stamp) s = .next (edged s ch stamp) := by
  rw [monStamp_fine s n ch stamp hch hfine, State.monEdge_outside]
  rw [(edged_parts s ch stamp).1]
  intro x hx
  rw [← Bool.not_eq_true, Shot.takesMon_iff]
  rintro ⟨⟨hl, hs⟩, h1, h2⟩
  have := h x hx hl hs
  omega

/-! ## A window without an edge -/

/-- The head of a list is the earliest where none is earlier. -/
theorem earliest_cons (f : Shot → Int) (x : Shot) (l : List Shot) (h : ∀ y ∈ l, f x ≤ f y) : earliest f (x :: l) = some x := by
  rw [earliest, List.foldl_cons]
  induction l with
  | nil => rfl
  | cons y l ih =>
    rw [List.foldl_cons]
    simp only [if_neg (not_lt.mpr (h y List.mem_cons_self))]
    exact ih fun z hz => h z (List.mem_cons_of_mem _ hz)

theorem missNext_cons (x : Shot) (r : List Shot) (hx : x.waitsMon = true)
    (h : ∀ y ∈ r, y.launched = true → y.stamp = none → x.monEnd ≤ y.monEnd) : missNext (x :: r) = some x := by
  rw [missNext, List.filter_cons_of_pos hx]
  refine earliest_cons _ x _ fun y hy => ?_
  obtain ⟨hmem, hw⟩ := List.mem_filter.mp hy
  simp only [Shot.waitsMon, Bool.and_eq_true, Option.isNone_iff_eq_none] at hw
  exact h y hmem hw.1 hw.2

/-- A miss that is not the sixteenth in a row. -/
theorem State.stampMiss_eq (s : State) (n : Port) (x : Shot) (r : List Shot) (h : s.ports[n].shots = x :: r) (hx : x.waitsMon = true)
    (hcal : x.cal = false) (hrun : s.ports[n].missRun < 15) :
    s.stampMiss n x = (s.modPort n (fun q => { q with
      shots := { x with stamp := some (x.launchAt * 256), miss := true } :: r
      missRun := s.ports[n].missRun + 1 })).bump (Obj.SCHEDULER.STAMP_MISS n) := by
  have hne : ¬ x.cal = true := by simp [hcal]
  have hmin : min 16 (s.ports[n].missRun + 1) = s.ports[n].missRun + 1 := by omega
  have hport : s.modPort n (fun q => { q with
        shots := changeFirst (fun z => z.waitsMon && z.monEnd == x.monEnd)
          (fun z => { z with stamp := some (x.launchAt * 256), miss := true }) q.shots
        missRun := min 16 (q.missRun + 1) }) =
      s.modPort n (fun q => { q with
        shots := { x with stamp := some (x.launchAt * 256), miss := true } :: r
        missRun := s.ports[n].missRun + 1 }) := by
    refine s.modPort_congr n ?_
    simp only [h, changeFirst, hx, beq_self_eq_true, Bool.and_self, if_true, hmin]
  rw [State.stampMiss]
  simp only [if_neg hne, hport]
  refine if_neg ?_
  have hself : ((s.modPort n (fun q => { q with
      shots := { x with stamp := some (x.launchAt * 256), miss := true } :: r
      missRun := s.ports[n].missRun + 1 })).bump (Obj.SCHEDULER.STAMP_MISS n)).ports[n].missRun = s.ports[n].missRun + 1 := by
    rw [State.bump_eq, State.put_ports, State.modPort_self]
  rw [hself]
  omega

theorem stampMiss_misses (s : State) (n : Port) (x : Shot) (r : List Shot) (h : s.ports[n].shots = x :: r) (hl : x.launched = true)
    (hs : x.stamp = none) (hcal : x.cal = false) (hr : ∀ y ∈ r, y.launched = true → y.stamp = none → x.monEnd ≤ y.monEnd)
    (hrun : s.ports[n].missRun < 15) (hlt : s.u (Obj.SCHEDULER.STAMP_MISS n) + 1 < 2 ^ 32) :
    ∃ u : State, exec (.stampMiss n) s = .next (u.stamped n x) ∧
      u.ports[n].shots = { x with stamp := some (x.launchAt * 256), miss := true } :: r ∧
      u.u (Obj.SCHEDULER.STAMP_MISS n) = s.u (Obj.SCHEDULER.STAMP_MISS n) + 1 ∧
      u.ports[n].missRun = s.ports[n].missRun + 1 ∧ u.pipes = s.pipes ∧ u.mem = s.mem ∧ regsKept s u [Obj.SCHEDULER.STAMP_MISS n] := by
  have hw : x.waitsMon = true := by simp [Shot.waitsMon, hl, hs]
  have hexec : exec (.stampMiss n) s = .next ((s.stampMiss n x).stamped n x) := by
    change execStampMiss n s = _
    rw [execStampMiss, h, missNext_cons x r hw hr]
  refine ⟨_, hexec, ?_⟩
  rw [s.stampMiss_eq n x r h hw hcal hrun]
  rw [State.bump_eq, State.put_ports, State.modPort_self]
  exact ⟨rfl, State.u_bump_self _ _ hlt, rfl, rfl, rfl, ((regsKept.refl s _).of_regs rfl).put (by simp) _⟩

/-! ## The laser interlock -/

theorem lsiRelease_cuts (s : State) (ch : Fin 2) (ha : s.lsi.a = true) (hb : s.lsi.b = true) :
    ∃ u : State, exec (.lsiRelease ch) s = .next (overAll (u.log { cls := 1, sub := 12 }) State.cutPort) ∧ u.lsiHeld = false ∧
      u = { s with lsi := u.lsi } ∧ (u.lsi.a = true ↔ ch = 1) ∧ (u.lsi.b = true ↔ ch = 0) := by
  refine ⟨{ s with lsi := { s.lsi with
    a := if ch = 0 then false else s.lsi.a
    b := if ch = 1 then false else s.lsi.b
    resumed := false
    sawReleased := s.lsi.sawReleased || (s.lsi.discord && !(if ch = 0 then false else s.lsi.a) && !(if ch = 1 then false else s.lsi.b)) } },
    ?_, ?_, rfl, ?_, ?_⟩
  · change execLsiRelease ch s = _
    rw [execLsiRelease]
    simp only [ha, hb, Bool.and_self, if_true]
  · simp [State.lsiHeld]
  · dsimp only
    rw [ha]
    revert ch
    decide
  · dsimp only
    rw [hb]
    revert ch
    decide

theorem cutPort_cuts (s : State) (n : Port) : (s.cutPort n).ports[n].gateHigh = false ∧ (s.cutPort n).ports[n].dac = none ∧
    (∀ x ∈ (s.cutPort n).ports[n].shots, x.launched = false → x.cut = true) ∧ regsKept s (s.cutPort n) [Obj.SCHEDULER.LAUNCH_CUT n] := by
  have hport : (s.cutPort n).ports[n] = { s.ports[n] with
      shots := s.ports[n].shots.map (Shot.cutNow s.now)
      gateHigh := false
      dac := none } := by
    rw [State.cutPort, State.add_eq, State.put_ports, State.modPort_self]
  rw [hport]
  refine ⟨rfl, rfl, fun x hx hl => ?_, ((regsKept.refl s _).of_regs rfl).put (by simp) _⟩
  obtain ⟨y, -, rfl⟩ := List.mem_map.mp hx
  have hy : y.launched = false := hl
  simp [Shot.cutNow, Shot.cuttable, hy]

/-- A channel held again while the other one is released, or none has been found released since the disagreement, leaves it latched. -/
theorem lsiHold_a (s : State) : ∃ t : State, exec (.lsiHold 0) s = .next t ∧ t = { s with lsi := t.lsi } ∧ t.lsi.a = true ∧
    t.lsi.b = s.lsi.b ∧ (t.lsi.discord = true ↔ s.lsi.discord = true ∧ ¬ (s.lsi.b = true ∧ s.lsi.sawReleased = true)) := by
  have hclear : ∀ b d w : Bool, (d && !(true && b && d && w)) = true ↔ d = true ∧ ¬ (b = true ∧ w = true) := by decide
  exact ⟨_, rfl, rfl, rfl, rfl, hclear _ _ _⟩

theorem lsiHold_b (s : State) : ∃ t : State, exec (.lsiHold 1) s = .next t ∧ t = { s with lsi := t.lsi } ∧ t.lsi.b = true ∧
    t.lsi.a = s.lsi.a := ⟨_, rfl, rfl, rfl, rfl⟩

theorem lsiResume_resumes (s : State) (ha : s.lsi.a = true) (hb : s.lsi.b = true) (hd : s.lsi.discord = false) (hr : s.lsi.resumed = false) :
    exec .lsiResume s = .next (({ s with lsi := { s.lsi with resumed := true } }).log { cls := 2, sub := 12 }) := by
  change execLsiResume s = _
  rw [execLsiResume, if_pos (by rw [ha, hb, hd, hr]; rfl)]

theorem lsiDiscord_latches (s : State) (h : s.lsi.a ≠ s.lsi.b) :
    exec .lsiDiscord s = .next { s with lsi := { s.lsi with
      discord := true, sawReleased := s.lsi.discord && s.lsi.sawReleased, resumed := false } } := by
  change execLsiDiscord s = _
  rw [execLsiDiscord, if_pos (bne_iff_ne.mpr h)]

theorem refusal_discord (s : State) (n : Port) (l : Nat) (h : s.lsi.discord = true) : s.refusal n l = 1 := by
  rw [s.refusal_eq, if_pos (by simp [State.lsiHeld, h])]

/-- Settles O7: the accepted edge, the ignored one and the miss, then each step of the interlock. -/
theorem monAndInterlock : Obligations.MonAndInterlock := by
  unfold Obligations.MonAndInterlock
  exact ⟨⟨monStamp_accepted, monStamp_ignored, stampMiss_misses⟩, lsiRelease_cuts, cutPort_cuts, lsiHold_a, lsiHold_b,
    lsiResume_resumes, lsiDiscord_latches, refusal_discord⟩

end Sys2Proof.Machine
end

section
/-! SUPPORT. The close of a record window (R57, R70, R74, R77, R96; Machine/Ports.lean). -/

namespace Sys2Proof.Machine

/-! ## Stuck lanes (R77) -/

/-- A flag's entry leaves every other inner register. -/
theorem State.u_logFlag_ne (s : State) (r y : Reg) (b : Nat) (x : Bool) (sub inst : Nat) (fault : Bool) (hy : innerReg y = true)
    (hne : r.key ≠ y.key) : (s.logFlag r b x sub inst fault).u y = s.u y := by
  rw [State.logFlag]
  split
  · rfl
  · exact (State.u_of_apart (State.apart_log _ _) y hy).trans (State.u_put_ne _ _ _ _ hne)

theorem stuckLanes_shown (s : State) (n : Port) (x : Shot) : (s.stuckLanes n x).u (Obj.PORT_STATUS.STUCK_LANES n) =
    ((BitVec.ofNat 16 (s.u (Obj.PORT_STATUS.STUCK_LANES n)) ||| laneBits x.recX x.recY laneStuck) &&&
      ~~~(laneBits x.recX x.recY laneMoves)).toNat := by
  have hin : innerReg (Obj.PORT_STATUS.STUCK_LANES n) = true := by
    rw [innerReg, Bool.and_eq_true, decide_eq_true_eq, decide_eq_true_eq]
    dsimp only [Obj.PORT_STATUS.STUCK_LANES]
    omega
  have hne : (Obj.PORT_STATUS.FLAGS n).key ≠ (Obj.PORT_STATUS.STUCK_LANES n).key := by
    dsimp only [Obj.PORT_STATUS.FLAGS, Obj.PORT_STATUS.STUCK_LANES]
    omega
  rw [State.stuckLanes]
  simp only [State.u_logFlag_ne _ _ _ _ _ _ _ _ hin hne]
  exact State.u_put_of_lt _ _ _ (BitVec.isLt _)

/-- No lane stuck and none named: the register stays 0 and no flag changes. -/
theorem State.stuckLanes_none (s : State) (n : Port) (x : Shot) (h : laneBits x.recX x.recY laneStuck = 0)
    (hu : s.u (Obj.PORT_STATUS.STUCK_LANES n) = 0) (hx : s.bit (Obj.PORT_STATUS.FLAGS n) Bit.PORT_STATUS.FLAGS.STUCK_X = false)
    (hy : s.bit (Obj.PORT_STATUS.FLAGS n) Bit.PORT_STATUS.FLAGS.STUCK_Y = false) :
    s.stuckLanes n x = s.put (Obj.PORT_STATUS.STUCK_LANES n) 0 := by
  have hzero : ((BitVec.ofNat 16 0 ||| (0 : BitVec 16)) &&& ~~~(laneBits x.recX x.recY laneMoves)).toNat = 0 := by simp
  have hbit : ∀ b, (s.put (Obj.PORT_STATUS.STUCK_LANES n) 0).bit (Obj.PORT_STATUS.FLAGS n) b = s.bit (Obj.PORT_STATUS.FLAGS n) b :=
    fun b => State.bit_put_ne _ _ _ _ _ (by dsimp only [Obj.PORT_STATUS.FLAGS, Obj.PORT_STATUS.STUCK_LANES]; omega)
  rw [State.stuckLanes]
  simp only [hu, h, hzero]
  rw [State.logFlag_same _ _ _ (0 % 256 != 0) _ _ _ ((hbit _).trans hx), State.logFlag_same _ _ _ (0 / 256 != 0) _ _ _ ((hbit _).trans hy)]

/-! ## Overrange (R74, R96) -/

theorem State.onlyRegs_overrangeIn (s : State) (r fl : Reg) (a b c st : Nat) : onlyRegs s (s.overrangeIn r fl a b c st) [r, fl] := by
  have hset : onlyRegs s ((s.add r c).setBit fl a) [r, fl] := ((onlyRegs.refl s _).put (by simp) _).put (by simp) _
  rw [State.overrangeIn]
  split
  · exact onlyRegs.refl _ _
  · dsimp only
    split
    · exact hset.put (by simp) _
    · exact hset

theorem State.overrangeIn_none (s : State) (r fl : Reg) (a b st : Nat) : s.overrangeIn r fl a b 0 st = s := by
  rw [State.overrangeIn, if_pos rfl]

/-- The counter takes the window's overrange samples; the flags are a word of their own. -/
theorem State.overrangeIn_count (s : State) (r fl : Reg) (a b c st : Nat) (hne : fl.key ≠ r.key) (hc : c ≠ 0) (h : s.u r + c < 2 ^ r.width) :
    (s.overrangeIn r fl a b c st).u r = s.u r + c := by
  have hset : ((s.add r c).setBit fl a).u r = s.u r + c := (State.u_put_ne _ _ _ _ hne).trans (State.u_add_self _ _ _ h)
  rw [State.overrangeIn, if_neg hc]
  dsimp only
  split
  · exact (State.u_put_ne _ _ _ _ hne).trans hset
  · exact hset

/-- The flags after an overrange: the input's own, SAT where the step is 0, and every other as it was. -/
theorem State.overrangeIn_bit (s : State) (r fl : Reg) (a b c st k : Nat) (hne : r.key ≠ fl.key) (hc : c ≠ 0) (hk : k < fl.width) :
    (s.overrangeIn r fl a b c st).bit fl k = if st = 0 ∧ b = k then true else if a = k then true else s.bit fl k := by
  have hset : ((s.add r c).setBit fl a).bit fl k = if a = k then true else s.bit fl k := by
    rw [State.setBit, State.bit_putBit _ _ _ _ _ hk, State.add_eq, State.bit_put_ne _ _ _ _ _ hne]
  rw [State.overrangeIn, if_neg hc]
  dsimp only
  by_cases h : st = 0
  · rw [if_pos h, State.setBit, State.bit_putBit _ _ _ _ _ hk, hset]
    simp only [h, true_and]
  · rw [if_neg h, hset, if_neg (c := st = 0 ∧ b = k) (fun e => h e.1)]

/-! ## The peaks and the window (R71, R97) -/

theorem State.putPeaks_both (s : State) (n : Port) (x : Shot) (h0 : x.inputs.testBit 0 = true) (h1 : x.inputs.testBit 1 = true) :
    s.putPeaks n x = (s.put (Obj.PORT_STATUS.PEAK_X n) (rxPeak x.recX (s.u (Obj.RECEIVE.AGC_SKIP n)))).put (Obj.PORT_STATUS.PEAK_Y n)
      (rxPeak x.recY (s.u (Obj.RECEIVE.AGC_SKIP n))) := by
  rw [State.putPeaks]
  simp only [h0, h1, if_true]

theorem State.coherentWindow_eq (s : State) (n : Port) (x : Shot) (hcal : x.cal = false) (hauto : x.auto = false) (hy : overCount x.recY = 0) :
    s.coherentWindow n x = ((s.overrangeIn (Obj.PORT_STATUS.OVR_X n) (Obj.PORT_STATUS.FLAGS n) Bit.PORT_STATUS.FLAGS.OVR_X
      Bit.PORT_STATUS.FLAGS.SAT_X (overCount x.recX) x.stepX).stuckLanes n x).putPeaks n x := by
  rw [State.coherentWindow]
  simp only [hcal, hauto, hy, State.overrangeIn_none]
  rfl

/-- The lanes and the peaks are registers 03h, 04h and 0Ah of a port's status. -/
theorem State.u_shown (s : State) (n : Port) (a b : Nat) (r : Reg)
    (hr : r.key % 256 ≠ 3 ∧ r.key % 256 ≠ 4 ∧ r.key % 256 ≠ 10) :
    (((s.put (Obj.PORT_STATUS.STUCK_LANES n) 0).put (Obj.PORT_STATUS.PEAK_X n) a).put (Obj.PORT_STATUS.PEAK_Y n) b).u r = s.u r := by
  rw [State.u_put_ne _ _ _ _ (by dsimp only [Obj.PORT_STATUS.PEAK_Y]; omega),
    State.u_put_ne _ _ _ _ (by dsimp only [Obj.PORT_STATUS.PEAK_X]; omega),
    State.u_put_ne _ _ _ _ (by dsimp only [Obj.PORT_STATUS.STUCK_LANES]; omega)]

/-- A shot whose X record alone is overrange, both inputs recorded, at a port whose lanes are free, with room in the registers that show it. -/
structure OverrangeX (s : State) (n : Port) (x : Shot) : Prop where
  cal : x.cal = false
  auto : x.auto = false
  inX : x.inputs.testBit 0 = true
  inY : x.inputs.testBit 1 = true
  free : laneBits x.recX x.recY laneStuck = 0
  lanes : s.u (Obj.PORT_STATUS.STUCK_LANES n) = 0
  stuckX : s.bit (Obj.PORT_STATUS.FLAGS n) Bit.PORT_STATUS.FLAGS.STUCK_X = false
  stuckY : s.bit (Obj.PORT_STATUS.FLAGS n) Bit.PORT_STATUS.FLAGS.STUCK_Y = false
  overX : overCount x.recX ≠ 0
  overY : overCount x.recY = 0
  count : s.u (Obj.PORT_STATUS.OVR_X n) + overCount x.recX < 2 ^ 32
  peakX : rxPeak x.recX (s.u (Obj.RECEIVE.AGC_SKIP n)) < 2 ^ 16
  peakY : rxPeak x.recY (s.u (Obj.RECEIVE.AGC_SKIP n)) < 2 ^ 16

theorem OverrangeX.of_regs {s t : State} {n : Port} {x : Shot} (h : OverrangeX s n x) (e : t.regs = s.regs) : OverrangeX t n x := by
  obtain ⟨hcal, hauto, hinX, hinY, hfree, hlanes, hsx, hsy, hx, hy, hcount, hpx, hpy⟩ := h
  have hu : t.u = s.u := funext (State.u_of_regs e)
  have hb : t.bit = s.bit := by
    funext r b
    rw [State.bit, hu, State.bit]
  rw [← hu] at hlanes hcount hpx hpy
  rw [← hb] at hsx hsy
  exact ⟨hcal, hauto, hinX, hinY, hfree, hlanes, hsx, hsy, hx, hy, hcount, hpx, hpy⟩

/-- What the registers of state `p` show of a shot's window that state `s` comes from. -/
structure ShowsWindow (s p : State) (n : Port) (x : Shot) : Prop where
  peakX : p.u (Obj.PORT_STATUS.PEAK_X n) = rxPeak x.recX (s.u (Obj.RECEIVE.AGC_SKIP n))
  peakY : p.u (Obj.PORT_STATUS.PEAK_Y n) = rxPeak x.recY (s.u (Obj.RECEIVE.AGC_SKIP n))
  count : p.u (Obj.PORT_STATUS.OVR_X n) = s.u (Obj.PORT_STATUS.OVR_X n) + overCount x.recX
  overX : p.bit (Obj.PORT_STATUS.FLAGS n) Bit.PORT_STATUS.FLAGS.OVR_X = true
  satX : x.stepX = 0 → p.bit (Obj.PORT_STATUS.FLAGS n) Bit.PORT_STATUS.FLAGS.SAT_X = true
  overY : p.bit (Obj.PORT_STATUS.FLAGS n) Bit.PORT_STATUS.FLAGS.OVR_Y = s.bit (Obj.PORT_STATUS.FLAGS n) Bit.PORT_STATUS.FLAGS.OVR_Y
  kept : regsKept s p [Obj.PORT_STATUS.PEAK_X n, Obj.PORT_STATUS.PEAK_Y n, Obj.PORT_STATUS.OVR_X n, Obj.PORT_STATUS.FLAGS n,
    Obj.PORT_STATUS.STUCK_LANES n]

/-- The coherent receive path's findings change registers alone. -/
theorem State.coherentWindow_finds (s : State) (n : Port) (x : Shot) (h : OverrangeX s n x) :
    ∃ p : State, s.coherentWindow n x = p ∧ p = { s with regs := p.regs } ∧ ShowsWindow s p n x := by
  obtain ⟨hcal, hauto, hinX, hinY, hfree, hlanes, hsx, hsy, hx, hy, hovr, hpx, hpy⟩ := h
  rw [s.coherentWindow_eq n x hcal hauto hy]
  have honly := s.onlyRegs_overrangeIn (Obj.PORT_STATUS.OVR_X n) (Obj.PORT_STATUS.FLAGS n) Bit.PORT_STATUS.FLAGS.OVR_X
    Bit.PORT_STATUS.FLAGS.SAT_X (overCount x.recX) x.stepX
  have hcount := s.overrangeIn_count (Obj.PORT_STATUS.OVR_X n) (Obj.PORT_STATUS.FLAGS n) Bit.PORT_STATUS.FLAGS.OVR_X
    Bit.PORT_STATUS.FLAGS.SAT_X (overCount x.recX) x.stepX (by dsimp only [Obj.PORT_STATUS.FLAGS, Obj.PORT_STATUS.OVR_X]; omega) hx hovr
  have hbit := fun k => s.overrangeIn_bit (Obj.PORT_STATUS.OVR_X n) (Obj.PORT_STATUS.FLAGS n) Bit.PORT_STATUS.FLAGS.OVR_X
    Bit.PORT_STATUS.FLAGS.SAT_X (overCount x.recX) x.stepX k (by dsimp only [Obj.PORT_STATUS.FLAGS, Obj.PORT_STATUS.OVR_X]; omega) hx
  generalize s.overrangeIn (Obj.PORT_STATUS.OVR_X n) (Obj.PORT_STATUS.FLAGS n) Bit.PORT_STATUS.FLAGS.OVR_X
    Bit.PORT_STATUS.FLAGS.SAT_X (overCount x.recX) x.stepX = w at *
  have hother : ∀ r : Reg, (Obj.PORT_STATUS.OVR_X n).key ≠ r.key → (Obj.PORT_STATUS.FLAGS n).key ≠ r.key → w.u r = s.u r :=
    fun r ho hf => honly.2 r (by simp [ho, hf])
  have hwlanes : w.u (Obj.PORT_STATUS.STUCK_LANES n) = 0 := (hother _ (by
    dsimp only [Obj.PORT_STATUS.OVR_X, Obj.PORT_STATUS.STUCK_LANES]; omega) (by
    dsimp only [Obj.PORT_STATUS.FLAGS, Obj.PORT_STATUS.STUCK_LANES]; omega)).trans hlanes
  have hskip : (w.put (Obj.PORT_STATUS.STUCK_LANES n) 0).u (Obj.RECEIVE.AGC_SKIP n) = s.u (Obj.RECEIVE.AGC_SKIP n) :=
    (State.u_put_ne _ _ _ _ (by dsimp only [Obj.RECEIVE.AGC_SKIP, Obj.PORT_STATUS.STUCK_LANES]; omega)).trans (hother _
      (by dsimp only [Obj.PORT_STATUS.OVR_X, Obj.RECEIVE.AGC_SKIP]; omega) (by dsimp only [Obj.PORT_STATUS.FLAGS, Obj.RECEIVE.AGC_SKIP]; omega))
  have hclear : ∀ b, Bit.PORT_STATUS.FLAGS.OVR_X ≠ b → Bit.PORT_STATUS.FLAGS.SAT_X ≠ b → b < 32 →
      w.bit (Obj.PORT_STATUS.FLAGS n) b = s.bit (Obj.PORT_STATUS.FLAGS n) b :=
    fun b ho hs hb => (hbit b hb).trans (by rw [if_neg (fun e => hs e.2), if_neg ho])
  rw [w.stuckLanes_none n x hfree hwlanes ((hclear _ (by decide) (by decide) (by decide)).trans hsx)
    ((hclear _ (by decide) (by decide) (by decide)).trans hsy), State.putPeaks_both _ n x hinX hinY, hskip]
  have hu := w.u_shown n (rxPeak x.recX (s.u (Obj.RECEIVE.AGC_SKIP n))) (rxPeak x.recY (s.u (Obj.RECEIVE.AGC_SKIP n)))
  have hlast := (((honly.mono (m := [Obj.PORT_STATUS.PEAK_X n, Obj.PORT_STATUS.PEAK_Y n, Obj.PORT_STATUS.OVR_X n, Obj.PORT_STATUS.FLAGS n,
    Obj.PORT_STATUS.STUCK_LANES n]) (by simp)).put (r := Obj.PORT_STATUS.STUCK_LANES n) (by simp) 0).put (r := Obj.PORT_STATUS.PEAK_X n)
    (by simp) (rxPeak x.recX (s.u (Obj.RECEIVE.AGC_SKIP n)))).put (r := Obj.PORT_STATUS.PEAK_Y n) (by simp)
    (rxPeak x.recY (s.u (Obj.RECEIVE.AGC_SKIP n)))
  refine ⟨_, rfl, hlast.1, ?_, State.u_put_of_lt _ _ _ hpy, ?_, ?_, fun hstep => ?_, ?_, hlast.2⟩
  · rw [State.u_put_ne _ _ _ _ (by dsimp only [Obj.PORT_STATUS.PEAK_X, Obj.PORT_STATUS.PEAK_Y]; omega)]
    exact State.u_put_of_lt _ _ _ hpx
  · exact (hu _ (by dsimp only [Obj.PORT_STATUS.OVR_X]; omega)).trans hcount
  · rw [State.bit, hu _ (by dsimp only [Obj.PORT_STATUS.FLAGS]; omega)]
    exact (hbit _ (show 0 < 32 by decide)).trans ((if_neg (fun e => absurd e.2 (by decide))).trans (if_pos rfl))
  · rw [State.bit, hu _ (by dsimp only [Obj.PORT_STATUS.FLAGS]; omega)]
    exact (hbit _ (show 2 < 32 by decide)).trans (if_pos ⟨hstep, rfl⟩)
  · rw [State.bit, hu _ (by dsimp only [Obj.PORT_STATUS.FLAGS]; omega)]
    exact hclear _ (by decide) (by decide) (by decide)

/-! ## The end of the step -/

/-- The steps in force stay where no window is open. -/
theorem State.gainInForce_closed (s : State) (n : Port) (x : Shot) (h : s.ports[n].shots = [x]) (hw : x.winClosed = true) :
    s.gainInForce n = s := by
  rw [State.gainInForce, h, List.find?_cons_of_neg (by simp [hw]), List.find?_nil]

/-- A shot whose data are still to come stays in hand. -/
theorem State.dropOver_shots (s : State) (n : Port) (x : Shot) (h : s.ports[n].shots = [x]) (hd : x.dataDone = false) :
    (s.dropOver n).ports[n].shots = [x] := by
  rw [State.dropOver, State.modPort_self]
  dsimp only
  rw [h, List.filter_cons_of_pos (by simp [Shot.over, hd]), List.filter_nil]

theorem State.settleSwitch_none (s : State) (h : s.clk.switchDue = false) : s.settleSwitch = s := by
  rw [State.settleSwitch, h]
  rfl

/-- The close of a DAS shot's window: the shot closed, then what the receive path finds, then the shots that are over. -/
theorem recordWindowClose_eq (s : State) (n : Port) (x : Shot) (raman : Option RamanRecord) (h : s.ports[n].shots = [x])
    (ho : x.winOpen = true) (hw : x.winClosed = false) (hk : x.kind = 1) (hcal : x.cal = false) (htrim : x.trimAfter = false)
    (hd : x.dataDone = false) :
    exec (.recordWindowClose n raman) s = .next ((((((s.modPort n (fun q => { q with shots := [{ x with winClosed := true }] })).coherentWindow
      n x).gainInForce n).dropOver n)).settleSwitch) := by
  have hopen : openWindow x = true := by simp [openWindow, ho, hw]
  have hclosed : ({ x with winClosed := true, dataDone := x.dataDone || x.cal || x.kind == 2 } : Shot) = { x with winClosed := true } := by
    simp [hd, hcal, hk]
  have hdts : ¬ x.kind = 2 := by simp [hk]
  change execRecordWindowClose n raman s = _
  rw [execRecordWindowClose, firstShot_single h hopen]
  simp only [s.modShot_single n x _ _ h hopen, hclosed, if_neg hdts, if_neg (Bool.eq_false_iff.mp hcal), if_neg (Bool.eq_false_iff.mp htrim)]
  split
  · exact absurd ‹x.kind = 2› hdts
  · rfl

theorem recordWindowClose_shows (s : State) (n : Port) (x : Shot) (raman : Option RamanRecord) (h : s.ports[n].shots = [x])
    (ho : x.winOpen = true) (hw : x.winClosed = false) (hk : x.kind = 1) (htrim : x.trimAfter = false) (hd : x.dataDone = false)
    (hswitch : s.clk.switchDue = false) (hx : OverrangeX s n x) :
    ∃ t : State, exec (.recordWindowClose n raman) s = .next t ∧ t.ports[n].shots = [{ x with winClosed := true }] ∧
      t.mem = s.mem ∧ t.pipes = s.pipes ∧ ShowsWindow s t n x := by
  have hexec := recordWindowClose_eq s n x raman h ho hw hk hx.cal htrim hd
  obtain ⟨v, hv⟩ : ∃ v : State, v = s.modPort n (fun q => { q with shots := [{ x with winClosed := true }] }) := ⟨_, rfl⟩
  have hregs : v.regs = s.regs := by rw [hv, State.modPort_regs]
  have hshots : v.ports[n].shots = [{ x with winClosed := true }] := by rw [hv, State.modPort_self]
  have hclk : v.clk = s.clk := by rw [hv, State.modPort_clk]
  have hmem : v.mem = s.mem := by rw [hv, State.modPort_mem]
  have hpipes : v.pipes = s.pipes := by rw [hv, State.modPort_pipes]
  obtain ⟨p, hfind, hp, hshow⟩ := v.coherentWindow_finds n x (hx.of_regs hregs)
  have hports : p.ports = v.ports := by rw [hp]
  have hpclk : p.clk = v.clk := by rw [hp]
  have hpshots : p.ports[n].shots = [{ x with winClosed := true }] := by rw [hports, hshots]
  rw [← hv, hfind, p.gainInForce_closed n _ hpshots rfl,
    (p.dropOver n).settleSwitch_none ((congrArg (·.switchDue) (hpclk.trans hclk)).trans hswitch)] at hexec
  obtain ⟨hpx, hpy, hcount, hovr, hsat, hovy, hkept⟩ := hshow
  have hu : v.u = s.u := funext (State.u_of_regs hregs)
  refine ⟨_, hexec, p.dropOver_shots n _ hpshots hd, (congrArg State.mem hp).trans hmem, (congrArg State.pipes hp).trans hpipes, ?_⟩
  rw [hu] at hpx hpy hcount
  exact ⟨hpx, hpy, hcount, hovr, hsat, hovy.trans (by rw [State.bit, hu, State.bit]), ((regsKept.refl s _).of_regs hregs).trans hkept⟩

/-- Settles O8: the receive path's findings one by one, then the end of the step, which changes none of them. -/
theorem recordWindowCloses : Obligations.RecordWindowCloses := by
  unfold Obligations.RecordWindowCloses
  refine ⟨fun s n x raman h ho hw hk hcal hauto htrim hd hswitch hinX hinY hfree hlanes hsx hsy hx hy hcount hpx hpy => ?_, stuckLanes_shown⟩
  obtain ⟨t, hexec, hshots, hmem, hpipes, hshow⟩ := recordWindowClose_shows s n x raman h ho hw hk htrim hd hswitch
    ⟨hcal, hauto, hinX, hinY, hfree, hlanes, hsx, hsy, hx, hy, hcount, hpx, hpy⟩
  exact ⟨t, hexec, hshots, hshow.peakX, hshow.peakY, hshow.count, hshow.overX, hshow.satX, hshow.overY, hmem, hpipes, hshow.kept⟩

end Sys2Proof.Machine
end

section
/-! SUPPORT. Auto-gain (R71 to R73; Machine/Slots.lean): what one unused peak makes of the step of its entry and input. -/

namespace Sys2Proof.Machine

/-- The step that a peak recorded at the step in force leads to (R72). -/
def agcMoved (s : State) (n : Port) (now : Nat) (r : PeakRec) : Nat :=
  if r.ovr = true ∨ s.u (Obj.RECEIVE.AGC_HI n) ≤ r.peak then max (now - 1) (s.u (Obj.RECEIVE.AGC_MIN n))
  else if 4 * r.peak < s.u (Obj.RECEIVE.AGC_HI n) then min (now + 1) (s.u (Obj.RECEIVE.AGC_MAX n)) else now

/-- Auto-gain uses at most one peak, one recorded at the step in force: without one the step stays. -/
theorem agcStep_cases (s : State) (n : Port) (a : AgcInput) (now : Nat) (h : a.step = some now) :
    (a.peaks.find? (fun r => r.step == now) = none ∧ agcStep s n a = (now, a)) ∨
    ∃ r ∈ a.peaks, a.peaks.find? (fun r => r.step == now) = some r ∧
      agcStep s n a = (agcMoved s n now r, { a with step := some (agcMoved s n now r), peaks := a.peaks.erase r }) := by
  cases hf : a.peaks.find? (fun r => r.step == now) with
  | none =>
    refine .inl ⟨rfl, ?_⟩
    rw [agcStep]
    simp only [h, Option.getD_some, hf]
    rw [← h]
  | some r =>
    refine .inr ⟨r, List.mem_of_find?_eq_some hf, rfl, ?_⟩
    rw [agcStep]
    simp only [h, Option.getD_some, hf]
    rfl

/-- Whatever the peak, a step of the range moves by at most one and stays in it. -/
theorem agcMoved_bounds (s : State) (n : Port) (now : Nat) (r : PeakRec) (hmin : s.u (Obj.RECEIVE.AGC_MIN n) ≤ now)
    (hmax : now ≤ s.u (Obj.RECEIVE.AGC_MAX n)) :
    agcMoved s n now r ≤ now + 1 ∧ now ≤ agcMoved s n now r + 1 ∧
      s.u (Obj.RECEIVE.AGC_MIN n) ≤ agcMoved s n now r ∧ agcMoved s n now r ≤ s.u (Obj.RECEIVE.AGC_MAX n) := by
  rw [agcMoved]
  split
  · omega
  · split <;> omega

theorem agcMoved_between (s : State) (n : Port) (now : Nat) (r : PeakRec) (hovr : r.ovr = false)
    (hhi : r.peak < s.u (Obj.RECEIVE.AGC_HI n)) (hlo : s.u (Obj.RECEIVE.AGC_HI n) ≤ 4 * r.peak) : agcMoved s n now r = now := by
  rw [agcMoved, if_neg (by simp [hovr, hhi]), if_neg hlo.not_gt]

theorem agcMoved_overrange (s : State) (n : Port) (now : Nat) (r : PeakRec) (hovr : r.ovr = true) :
    agcMoved s n now r = max (now - 1) (s.u (Obj.RECEIVE.AGC_MIN n)) := by
  rw [agcMoved, if_pos (.inl hovr)]

theorem agcStep_bounds (s : State) (n : Port) (a : AgcInput) (now : Nat) (h : a.step = some now)
    (hmin : s.u (Obj.RECEIVE.AGC_MIN n) ≤ now) (hmax : now ≤ s.u (Obj.RECEIVE.AGC_MAX n)) :
    (agcStep s n a).1 ≤ now + 1 ∧ now ≤ (agcStep s n a).1 + 1 ∧
      s.u (Obj.RECEIVE.AGC_MIN n) ≤ (agcStep s n a).1 ∧ (agcStep s n a).1 ≤ s.u (Obj.RECEIVE.AGC_MAX n) := by
  obtain ⟨-, heq⟩ | ⟨r, -, -, heq⟩ := agcStep_cases s n a now h
  · rw [heq]
    exact ⟨now.le_succ, now.le_succ, hmin, hmax⟩
  · rw [heq]
    exact agcMoved_bounds s n now r hmin hmax

theorem agcStep_keeps_step (s : State) (n : Port) (a : AgcInput) (now : Nat) (h : a.step = some now) :
    (agcStep s n a).2.step = some (agcStep s n a).1 := by
  obtain ⟨-, heq⟩ | ⟨r, -, -, heq⟩ := agcStep_cases s n a now h
  · rw [heq, h]
  · rw [heq]

theorem agcStep_between (s : State) (n : Port) (a : AgcInput) (now : Nat) (h : a.step = some now)
    (hp : ∀ r ∈ a.peaks, r.ovr = false ∧ r.peak < s.u (Obj.RECEIVE.AGC_HI n) ∧ s.u (Obj.RECEIVE.AGC_HI n) ≤ 4 * r.peak) :
    (agcStep s n a).1 = now := by
  obtain ⟨-, heq⟩ | ⟨r, hr, -, heq⟩ := agcStep_cases s n a now h
  · rw [heq]
  · obtain ⟨hovr, hhi, hlo⟩ := hp r hr
    rw [heq]
    exact agcMoved_between s n now r hovr hhi hlo

theorem agcStep_overrange (s : State) (n : Port) (a : AgcInput) (now : Nat) (h : a.step = some now) (r : PeakRec) (hp : a.peaks = [r])
    (hr : r.step = now) (hovr : r.ovr = true) :
    (agcStep s n a).1 = max (now - 1) (s.u (Obj.RECEIVE.AGC_MIN n)) ∧ (agcStep s n a).2.peaks = [] := by
  have hfound : a.peaks.find? (fun r => r.step == now) = some r := by
    rw [hp, List.find?_cons_of_pos (by simp [hr])]
  obtain ⟨hnone, -⟩ | ⟨q, -, hq, heq⟩ := agcStep_cases s n a now h
  · exact absurd (hnone.symm.trans hfound) (Option.some_ne_none r).symm
  · obtain rfl : r = q := Option.some.inj (hfound.symm.trans hq)
    rw [heq]
    exact ⟨agcMoved_overrange s n now r hovr, by simp [hp]⟩

/-- Settles O9: one peak at most is used, and what each kind of peak makes of the step. -/
theorem autoGainMovesByAtMostOne : Obligations.AutoGainMovesByAtMostOne := by
  unfold Obligations.AutoGainMovesByAtMostOne
  intro s n a now h hmin hmax
  obtain ⟨hup, hdown, hge, hle⟩ := agcStep_bounds s n a now h hmin hmax
  exact ⟨hup, hdown, hge, hle, agcStep_keeps_step s n a now h, agcStep_between s n a now h, agcStep_overrange s n a now h⟩

end Sys2Proof.Machine
end

section
/-! SUPPORT. The ends of crest computations and the faults of a port (R85, R96; Machine/Ports.lean). -/

namespace Sys2Proof.Machine

theorem crestComputationEnd_waits (s : State) (n : Port) (k : Fin 16) (ha : s.isApplying (0x3010 + 0x100 * n + k) = true)
    (hc : s.ports[n].crestDone = []) :
    exec (.crestComputationEnd n k) s = .next (s.modPort n (fun q =>
      { q with crestDone := [(k.val, crestResult (execCrestComputationEnd.stagedSet s n k) n k)] })) := by
  change execCrestComputationEnd n k s = _
  rw [execCrestComputationEnd, if_pos (by rw [ha, hc]; rfl)]
  refine congrArg Host.Outcome.next (s.modPort_congr n ?_)
  rw [hc]
  rfl

/-- The voltage that COMMON_MODE_FAULT brings is shown, whatever becomes of the flag. -/
theorem commonMode_shown (s : State) (n : Port) (y : Bool) (mv : BitVec 16) :
    (s.put (if y then Obj.PORT_STATUS.CM_Y n else Obj.PORT_STATUS.CM_X n) mv.toNat).u
      (if y then Obj.PORT_STATUS.CM_Y n else Obj.PORT_STATUS.CM_X n) = mv.toNat := by
  refine State.u_put_of_lt _ _ _ ?_
  cases y
  · exact mv.isLt
  · exact mv.isLt

theorem commonModeFault_flags (s : State) (n : Port) (y out : Bool) (mv : BitVec 16) :
    ∃ u : State, exec (.commonModeFault n y out mv) s = .next (u.logFlag (Obj.PORT_STATUS.FLAGS n)
        (if y then Bit.PORT_STATUS.FLAGS.CM_Y else Bit.PORT_STATUS.FLAGS.CM_X) out 1 n) ∧
      u.u (if y then Obj.PORT_STATUS.CM_Y n else Obj.PORT_STATUS.CM_X n) = mv.toNat ∧
      onlyRegs s u [if y then Obj.PORT_STATUS.CM_Y n else Obj.PORT_STATUS.CM_X n] :=
  ⟨_, rfl, commonMode_shown s n y mv, (onlyRegs.refl s _).put (by simp) _⟩

/-- The flag is set already: the voltage alone changes. -/
theorem commonModeFault_again (s : State) (n : Port) (mv : BitVec 16)
    (h : s.bit (Obj.PORT_STATUS.FLAGS n) Bit.PORT_STATUS.FLAGS.CM_X = true) :
    ∃ t : State, exec (.commonModeFault n false true mv) s = .next t ∧ t.u (Obj.PORT_STATUS.CM_X n) = mv.toNat ∧
      onlyRegs s t [Obj.PORT_STATUS.CM_X n] := by
  have hflag : (s.put (Obj.PORT_STATUS.CM_X n) mv.toNat).bit (Obj.PORT_STATUS.FLAGS n) Bit.PORT_STATUS.FLAGS.CM_X = true :=
    (State.bit_put_ne _ _ _ _ _ (by dsimp only [Obj.PORT_STATUS.CM_X, Obj.PORT_STATUS.FLAGS]; omega)).trans h
  exact ⟨_, congrArg Host.Outcome.next (State.logFlag_same _ _ _ _ _ _ _ hflag), commonMode_shown s n false mv,
    (onlyRegs.refl s _).put (by simp) _⟩

theorem txCheck_flags (s : State) (n : Port) (o h : Bool) (hc : s.u (Obj.LAUNCH.TX_CHECK n) = 1) :
    exec (.txCheck n o h) s = .next ((s.logFlag (Obj.PORT_STATUS.FLAGS n) Bit.PORT_STATUS.FLAGS.TX_OPEN o 1 n).logFlag
      (Obj.PORT_STATUS.FLAGS n) Bit.PORT_STATUS.FLAGS.TX_SHORT h 1 n) := by
  change execTxCheck n o h s = _
  rw [execTxCheck, if_pos hc]

theorem txCheck_off (s : State) (n : Port) (o h : Bool) (hc : s.u (Obj.LAUNCH.TX_CHECK n) ≠ 1) : exec (.txCheck n o h) s = .next s := by
  change execTxCheck n o h s = _
  rw [execTxCheck, if_neg hc]

end Sys2Proof.Machine
end

section
/-! SUPPORT. FCTL words (R92 to R94; Machine/Ports.lean). -/

namespace Sys2Proof.Machine

/-! ## The next host word -/

theorem State.modFctl_self (s : State) (n : Port) (f : FctlPart → FctlPart) : (s.modFctl n f).ports[n].fctl = f s.ports[n].fctl := by
  rw [State.modFctl, State.modPort_self]

theorem State.modFctl_live (s : State) (n : Port) (f : FctlPart → FctlPart) : (s.modFctl n f).ports[n].live = s.ports[n].live := by
  rw [State.modFctl, State.modPort_self]

theorem State.modFctl_modFctl (s : State) (n : Port) (f g : FctlPart → FctlPart) :
    (s.modFctl n f).modFctl n g = s.modFctl n (fun q => g (f q)) := s.modPort_modPort n _ _

theorem State.countQueued_shows (s : State) (n : Port) (h : s.ports[n].fctl.host.length ≤ 16) :
    (s.countQueued n).u (Obj.FCTL.QUEUED n) = s.ports[n].fctl.host.length := by
  refine State.u_put_of_lt _ _ _ ?_
  change _ < 256
  omega

@[simp] theorem State.countQueued_ports (s : State) (n : Port) : (s.countQueued n).ports = s.ports := rfl

theorem State.regsKept_countQueued (s : State) (n : Port) : regsKept s (s.countQueued n) [Obj.FCTL.QUEUED n] :=
  (regsKept.refl s _).put (by simp) _

/-- No host word waits, or FCTL or the port's outputs are not free for one: only the count is renewed (log entry 89). -/
theorem State.startHost_waits (s : State) (n : Port)
    (h : s.ports[n].fctl.host = [] ∨ s.ports[n].live = false ∨ s.ports[n].fctl.busy.isSome = true) : s.startHost n = s.countQueued n := by
  rw [State.startHost]
  dsimp only
  split
  next w rest hbusy hhost =>
    rcases h with hempty | hlive | hsome
    · exact absurd (hhost.symm.trans hempty) (List.cons_ne_nil _ _)
    · rw [hlive, Bool.false_and, if_neg Bool.false_ne_true]
    · rw [hbusy] at hsome
      exact Bool.noConfusion hsome
  next => rfl

/-- FCTL and the port's outputs are free and no word is scheduled: the first host word starts. -/
theorem State.startHost_starts (s : State) (n : Port) (w : BitVec 32) (rest : List (BitVec 32)) (hlive : s.ports[n].live = true)
    (hbusy : s.ports[n].fctl.busy = none) (hhost : s.ports[n].fctl.host = w :: rest) (hsched : s.ports[n].fctl.sched = []) :
    s.startHost n = ((s.modFctl n (fun f => { f with host := rest, busy := some w, since := s.now, busyGroup := none })).sendWord n
      w).countQueued n := by
  rw [State.startHost]
  simp only [hbusy, hhost, hsched, hlive, Bool.and_self, if_true]

/-- A word queued on a free FCTL leaves the queue in the step that brought it. -/
theorem sendEff_free (s : State) (n : Port) (w : BitVec 32) (hlive : s.ports[n].live = true) (hbusy : s.ports[n].fctl.busy = none)
    (hhost : s.ports[n].fctl.host = []) (hsched : s.ports[n].fctl.sched = []) :
    sendEff s n w = ((s.modFctl n (fun f => { f with host := [], busy := some w, since := s.now, busyGroup := none })).sendWord n
      w).countQueued n := by
  rw [sendEff, State.startHost_starts _ n w [] (by rw [State.modFctl_live, hlive]) (by rw [State.modFctl_self, hbusy])
    (by rw [State.modFctl_self, hhost, List.nil_append]) (by rw [State.modFctl_self, hsched]), State.modFctl_modFctl]
  rfl

theorem sendEff_starts (s : State) (n : Port) (w : BitVec 32) (hlive : s.ports[n].live = true) (hbusy : s.ports[n].fctl.busy = none)
    (hhost : s.ports[n].fctl.host = []) (hsched : s.ports[n].fctl.sched = []) :
    ∃ t : State, sendEff s n w = t ∧ t.ports[n].fctl.busy = some w ∧ t.ports[n].fctl.since = s.now ∧ t.ports[n].fctl.host = [] ∧
      t.out = s.out ++ [.fctl n (BitVec.ofNat 32 (w.toNat % 2 ^ s.u (Obj.FCTL.WORD_BITS n))) (s.u (Obj.FCTL.WORD_BITS n))] ∧
      t.u (Obj.FCTL.QUEUED n) = 0 ∧ regsKept s t [Obj.FCTL.QUEUED n] := by
  obtain ⟨u, hu⟩ : ∃ u : State,
    u = (s.modFctl n (fun f => { f with host := [], busy := some w, since := s.now, busyGroup := none })).sendWord n w := ⟨_, rfl⟩
  have hsend : sendEff s n w = u.countQueued n := hu ▸ sendEff_free s n w hlive hbusy hhost hsched
  have hfctl : u.ports[n].fctl = { s.ports[n].fctl with host := [], busy := some w, since := s.now, busyGroup := none } := by
    rw [hu, State.sendWord, State.emit_ports, State.modFctl_self]
  have hregs : u.regs = s.regs := by rw [hu]; rfl
  have hqueued := u.countQueued_shows n (by rw [hfctl]; exact Nat.zero_le _)
  refine ⟨_, hsend, ?_, ?_, ?_, ?_, ?_, ((regsKept.refl s _).of_regs hregs).trans (u.regsKept_countQueued n)⟩
  · rw [u.countQueued_ports, hfctl]
  · rw [u.countQueued_ports, hfctl]
  · rw [u.countQueued_ports, hfctl]
  · rw [hu]; rfl
  · rw [hqueued, hfctl]
    rfl

theorem sendEff_waits (s : State) (n : Port) (w : BitVec 32) (h : s.ports[n].live = false ∨ s.ports[n].fctl.busy.isSome = true)
    (hroom : s.ports[n].fctl.host.length < 16) :
    ∃ t : State, sendEff s n w = t ∧ t.ports[n].fctl.host = s.ports[n].fctl.host ++ [w] ∧ t.ports[n].fctl.busy = s.ports[n].fctl.busy ∧
      t.out = s.out ∧ t.u (Obj.FCTL.QUEUED n) = s.ports[n].fctl.host.length + 1 ∧ regsKept s t [Obj.FCTL.QUEUED n] := by
  obtain ⟨u, hu⟩ : ∃ u : State, u = s.modFctl n (fun f => { f with host := f.host ++ [w] }) := ⟨_, rfl⟩
  have hfctl : u.ports[n].fctl = { s.ports[n].fctl with host := s.ports[n].fctl.host ++ [w] } := by rw [hu, State.modFctl_self]
  have hlive : u.ports[n].live = s.ports[n].live := by rw [hu, State.modFctl_live]
  have hregs : u.regs = s.regs := by rw [hu]; rfl
  have hlen : u.ports[n].fctl.host.length = s.ports[n].fctl.host.length + 1 := by rw [hfctl, List.length_append]; rfl
  have hwait : u.startHost n = u.countQueued n := u.startHost_waits n (.inr (by rw [hlive, hfctl]; exact h))
  refine ⟨u.countQueued n, by rw [sendEff, ← hu, hwait], ?_, ?_, ?_, ?_,
    ((regsKept.refl s _).of_regs hregs).trans (u.regsKept_countQueued n)⟩
  · rw [u.countQueued_ports, hfctl]
  · rw [u.countQueued_ports, hfctl]
  · rw [hu]; rfl
  · rw [u.countQueued_shows n (by omega), hlen]

/-! ## The end of a frame -/

theorem fctlWordEnd_counts (s : State) (n : Port) (b : BitVec 32) (hbusy : s.ports[n].fctl.busy = some b)
    (hgroup : s.ports[n].fctl.busyGroup = none) (hlate : s.ports[n].fctl.lateCommit = false) (hhost : s.ports[n].fctl.host = [])
    (hlt : s.u (Obj.FCTL.SENT n) + 1 < 2 ^ 32) :
    ∃ t : State, exec (.fctlWordEnd n) s = .next t ∧ t.ports[n].fctl.busy = none ∧ t.u (Obj.FCTL.SENT n) = s.u (Obj.FCTL.SENT n) + 1 ∧
      t.out = s.out ∧ regsKept s t [Obj.FCTL.SENT n, Obj.FCTL.QUEUED n] := by
  obtain ⟨u, hu⟩ : ∃ u : State,
    u = (s.modFctl n (fun f => { f with busy := none, busyGroup := none, lateCommit := false })).bump (Obj.FCTL.SENT n) := ⟨_, rfl⟩
  have hfctl : u.ports[n].fctl = { s.ports[n].fctl with busy := none, busyGroup := none, lateCommit := false } := by
    rw [hu, State.bump_eq, State.put_ports, State.modFctl_self]
  have hexec : exec (.fctlWordEnd n) s = .next (u.countQueued n) := by
    change execFctlWordEnd n s = _
    rw [← u.startHost_waits n (.inl (by rw [hfctl]; exact hhost)), execFctlWordEnd]
    simp only [hbusy, hgroup, hlate, ← hu]
    rfl
  refine ⟨_, hexec, ?_, ?_, ?_, ?_⟩
  · rw [u.countQueued_ports, hfctl]
  · rw [State.countQueued, State.u_put_ne _ _ _ _ (by dsimp only [Obj.FCTL.QUEUED, Obj.FCTL.SENT]; omega), hu]
    exact State.u_bump_self _ _ hlt
  · rw [hu]; rfl
  · rw [State.countQueued, hu]
    exact (((regsKept.refl s _).of_regs rfl).put (by simp) _).put (by simp) _

/-! ## Scheduled words -/

theorem scheduledWordStart_early (s : State) (n : Port) (w : SchedWord) (r : List SchedWord) (hbusy : s.ports[n].fctl.busy = none)
    (hsched : s.ports[n].fctl.sched = w :: r) (h : s.now < w.epoch) : exec (.scheduledWordStart n) s = .next s := by
  change execScheduledWordStart n s = _
  rw [execScheduledWordStart]
  simp only [hbusy, hsched, if_pos h]

/-- The first scheduled word in progress. -/
def State.startScheduled (s : State) (n : Port) (w : SchedWord) (r : List SchedWord) : State :=
  (s.modFctl n (fun f =>
    { f with sched := r, busy := some w.value, since := s.now, busyGroup := some (w.group, w.gen) })).sendWord n w.value

/-- From its epoch on the first scheduled word starts; a start more than one FCK period late changes LATE and LATE_MAX and nothing else. -/
theorem scheduledWordStart_cases (s : State) (n : Port) (w : SchedWord) (r : List SchedWord) (hbusy : s.ports[n].fctl.busy = none)
    (hsched : s.ports[n].fctl.sched = w :: r) (h : w.epoch ≤ s.now) :
    (s.now ≤ w.epoch + fckTicks s n ∧ exec (.scheduledWordStart n) s = .next (s.startScheduled n w r)) ∨
    (w.epoch + fckTicks s n < s.now ∧ ∃ v, exec (.scheduledWordStart n) s =
      .next (((s.startScheduled n w r).bump (Obj.FCTL.LATE n)).put (Obj.FCTL.LATE_MAX n) v)) := by
  have hexec : exec (.scheduledWordStart n) s = execScheduledWordStart n s := rfl
  rw [hexec, execScheduledWordStart]
  simp only [hbusy, hsched, if_neg h.not_gt]
  split
  next hlate => exact .inr ⟨by omega, _, rfl⟩
  next htime => exact .inl ⟨by omega, rfl⟩

theorem State.startScheduled_regs (s : State) (n : Port) (w : SchedWord) (r : List SchedWord) : (s.startScheduled n w r).regs = s.regs := rfl

theorem State.startScheduled_out (s : State) (n : Port) (w : SchedWord) (r : List SchedWord) : (s.startScheduled n w r).out =
    s.out ++ [.fctl n (BitVec.ofNat 32 (w.value.toNat % 2 ^ s.u (Obj.FCTL.WORD_BITS n))) (s.u (Obj.FCTL.WORD_BITS n))] := rfl

theorem State.startScheduled_fctl (s : State) (n : Port) (w : SchedWord) (r : List SchedWord) : (s.startScheduled n w r).ports[n].fctl =
    { s.ports[n].fctl with sched := r, busy := some w.value, since := s.now, busyGroup := some (w.group, w.gen) } := by
  rw [State.startScheduled, State.sendWord, State.emit_ports, State.modFctl_self]

theorem scheduledWordStart_starts (s : State) (n : Port) (w : SchedWord) (r : List SchedWord) (hbusy : s.ports[n].fctl.busy = none)
    (hsched : s.ports[n].fctl.sched = w :: r) (h : w.epoch ≤ s.now) :
    ∃ t : State, exec (.scheduledWordStart n) s = .next t ∧ t.ports[n].fctl.busy = some w.value ∧ t.ports[n].fctl.sched = r ∧
      t.out = s.out ++ [.fctl n (BitVec.ofNat 32 (w.value.toNat % 2 ^ s.u (Obj.FCTL.WORD_BITS n))) (s.u (Obj.FCTL.WORD_BITS n))] ∧
      (s.now ≤ w.epoch + 64 * max 1 (s.u (Obj.FCTL.FCK_DIV n)) → t.regs = s.regs) ∧
      (w.epoch + 64 * max 1 (s.u (Obj.FCTL.FCK_DIV n)) < s.now → s.u (Obj.FCTL.LATE n) + 1 < 2 ^ 32 →
        t.u (Obj.FCTL.LATE n) = s.u (Obj.FCTL.LATE n) + 1) ∧
      regsKept s t [Obj.FCTL.LATE n, Obj.FCTL.LATE_MAX n] := by
  have hkept : regsKept s (s.startScheduled n w r) [Obj.FCTL.LATE n, Obj.FCTL.LATE_MAX n] :=
    (regsKept.refl s _).of_regs (s.startScheduled_regs n w r)
  have hfctl := s.startScheduled_fctl n w r
  have hfck : 64 * max 1 (s.u (Obj.FCTL.FCK_DIV n)) = fckTicks s n := rfl
  rw [hfck]
  obtain ⟨htime, hexec⟩ | ⟨hlate, v, hexec⟩ := scheduledWordStart_cases s n w r hbusy hsched h
  · exact ⟨_, hexec, by rw [hfctl], by rw [hfctl], s.startScheduled_out n w r, fun _ => s.startScheduled_regs n w r,
      fun hl => absurd htime hl.not_ge, hkept⟩
  · refine ⟨_, hexec, ?_, ?_, s.startScheduled_out n w r, fun ht => absurd hlate ht.not_gt, fun _ hlt => ?_,
      (hkept.put (by simp) _).put (by simp) _⟩
    · rw [State.put_ports, State.bump_eq, State.put_ports, hfctl]
    · rw [State.put_ports, State.bump_eq, State.put_ports, hfctl]
    · rw [State.u_put_ne _ _ _ _ (by dsimp only [Obj.FCTL.LATE, Obj.FCTL.LATE_MAX]; omega)]
      exact State.u_bump_self (s.startScheduled n w r) _ hlt

end Sys2Proof.Machine
end

section
/-! SUPPORT. The levels of the launch DAC, GATE and FCTL (R66, R87, R92; Machine/Pins.lean). -/

namespace Sys2Proof.Machine

/-! ## The launch DAC -/

/-- Every loaded shot is launched: the waveform is that of the last launch. -/
theorem dacNow_launched (s : State) (n : Port) (h : ∀ x ∈ s.ports[n].shots, x.loaded = true → x.launched = true) :
    dacNow s n = s.ports[n].dac := by
  have hnone : firstShot s n (fun x => x.loaded && !x.launched) = none := List.find?_eq_none.mpr fun x hx hw => by
    obtain ⟨hload, hlau⟩ := Bool.and_eq_true_iff.mp hw
    rw [h x hx hload] at hlau
    exact Bool.noConfusion hlau
  rw [dacNow, hnone]

/-- What the equaliser of the one shot in hand reaches ahead of its launch streams already. -/
theorem dacNow_ahead (s : State) (n : Port) (x : Shot) (h : s.ports[n].shots = [x]) (hl : x.loaded = true) (hn : x.launched = false)
    (hstart : (launchRun s x).start ≤ (s.now : Int)) : dacNow s n = some (launchRun s x) := by
  rw [dacNow, firstShot_single h (by rw [hl, hn]; rfl)]
  exact if_pos hstart

theorem dacCode_idle (s : State) (n : Port) (h : dacNow s n = none) : dacCode s n = 0 := by
  rw [dacCode, h]

theorem dacCode_sample (s : State) (n : Port) (r : DacRun) (i : Nat) (hi : i < r.codes.length) (h : dacNow s n = some r)
    (hnow : (s.now : Int) = r.start + i) : dacCode s n = r.codes[i] := by
  have hplace : ((s.now : Int) - r.start).toNat = i := by omega
  rw [dacCode, h]
  dsimp only
  rw [if_neg (by omega), hplace, List.getElem?_eq_getElem hi, Option.getD_some]

theorem dacCode_silent (s : State) (n : Port) (h : ∀ x ∈ s.ports[n].shots, x.loaded = true → x.launched = true)
    (hd : s.ports[n].dac = none) : dacCode s n = 0 :=
  dacCode_idle s n ((dacNow_launched s n h).trans hd)

theorem dacCode_launched (s : State) (n : Port) (r : DacRun) (i : Nat) (hi : i < r.codes.length)
    (h : ∀ x ∈ s.ports[n].shots, x.loaded = true → x.launched = true) (hd : s.ports[n].dac = some r)
    (hnow : (s.now : Int) = r.start + i) : dacCode s n = r.codes[i] :=
  dacCode_sample s n r i hi ((dacNow_launched s n h).trans hd) hnow

theorem dacCode_ahead (s : State) (n : Port) (x : Shot) (i : Nat) (hi : i < (launchRun s x).codes.length) (h : s.ports[n].shots = [x])
    (hl : x.loaded = true) (hn : x.launched = false) (hnow : (s.now : Int) = (launchRun s x).start + i) :
    dacCode s n = (launchRun s x).codes[i] :=
  dacCode_sample s n _ i hi (dacNow_ahead s n x h hl hn (by omega)) hnow

/-! ## FCTL, and the levels of the reset state -/

theorem fctlPins_held (s : State) (n : Port) (h : s.ports[n].live = false) : fckPin s n = false ∧ fdaPin s n = false ∧ flePin s n = false := by
  rw [fckPin, fdaPin, flePin, h]
  exact ⟨rfl, rfl, rfl⟩

theorem fctlPins_idle (s : State) (n : Port) (h : s.ports[n].live = true) (hb : s.ports[n].fctl.busy = none) :
    fckPin s n = (s.u (Obj.FCTL.FCK_POL n) == 1) ∧ flePin s n = (s.u (Obj.FCTL.MODE n) == 1) := by
  have hat : fctlAt s n = none := by
    rw [fctlAt]
    simp only [hb, Option.map_none]
  rw [fckPin, flePin, h, hat]
  exact ⟨rfl, rfl⟩

theorem reset_ports (n : Port) : State.reset.ports[n] = {} := by
  simp [State.reset]

theorem resetPins_low (n : Port) : gatePin State.reset n = false ∧ dacCode State.reset n = 0 ∧ State.reset.ports[n].live = false := by
  refine ⟨?_, dacCode_silent _ n (fun x hx => ?_) ?_, ?_⟩
  · rw [gatePin, reset_ports]
  · rw [reset_ports] at hx
    exact absurd hx List.not_mem_nil
  · rw [reset_ports]
  · rw [reset_ports]

/-- Settles O10: the checks of a port, the ways of an FCTL word, and the levels. -/
theorem portChecksAndFctl : Obligations.PortChecksAndFctl := by
  unfold Obligations.PortChecksAndFctl
  exact ⟨⟨crestComputationEnd_waits, commonModeFault_again, commonModeFault_flags, txCheck_flags, txCheck_off⟩,
    ⟨sendEff_starts, sendEff_waits, fctlWordEnd_counts,
      fun s n w r hb hs => ⟨scheduledWordStart_early s n w r hb hs, scheduledWordStart_starts s n w r hb hs⟩⟩,
    resetPins_low, fctlPins_held, fctlPins_idle, dacCode_silent, dacCode_launched, dacCode_ahead⟩

end Sys2Proof.Machine
end

section
/-! SUPPORT. The word of a point of PHASE_RATE mode (R130, R134; Machine/Pipe.lean). -/

namespace Sys2Proof.Machine

/-! ## Value and quality of a word -/

theorem valueWord_toNat (v : Int) (q : Nat) : (valueWord v q).toNat = ofSigned 24 v * 256 + q % 256 := by
  have hv := ofSigned_lt 24 v
  rw [valueWord, BitVec.toNat_ofNat, Nat.mod_eq_of_lt (by omega)]

theorem valueWord_quality (v : Int) (q : Nat) : (valueWord v q).toNat % 256 = q % 256 := by
  rw [valueWord_toNat]
  omega

theorem valueWord_value (v : Int) (q : Nat) : ((valueWord v q).extractLsb' 8 24).toInt = (BitVec.ofInt 24 v).toInt := by
  have hv := ofSigned_lt 24 v
  have hshift : (ofSigned 24 v * 256 + q % 256) / 2 ^ 8 = ofSigned 24 v := by omega
  refine congrArg BitVec.toInt (BitVec.eq_of_toNat_eq ?_)
  rw [BitVec.extractLsb'_toNat, valueWord_toNat, Nat.shiftRight_eq_div_pow, hshift, Nat.mod_eq_of_lt hv, BitVec.toNat_ofInt]
  rfl

/-! ## The prediction (R130) -/

theorem predOf_eq (x : Shot) (r : GridRec) :
    predOf x r = if x.cfg.unwrapOrder = 1 ∧ wRateValid r.word = true then (wRate r.word).toInt * 256 else 0 := by
  simp only [predOf, Bool.and_eq_true, beq_iff_eq, and_comm]

/-- A prediction is a 16-bit rate times 256, so it fits the value field. -/
theorem predOf_fits (x : Shot) (r : GridRec) : (BitVec.ofInt 24 (predOf x r)).toInt = predOf x r := by
  have hlow := BitVec.le_toInt (wRate r.word)
  have hhigh := BitVec.toInt_lt (x := wRate r.word)
  rw [BitVec.toInt_ofInt]
  refine Int.bmod_eq_of_le ?_ ?_ <;> rw [predOf] <;> split <;> omega

/-! ## Points (R132 to R135) -/

/-- QMIN and the caps only lower a quality (R135). -/
theorem capped_le (x : Shot) (ambig : Bool) (q : Nat) : capped x ambig q ≤ q := by
  rw [capped]
  split
  · exact Nat.zero_le q
  · dsimp only
    split_ifs <;> omega

/-- A word of PHASE_RATE mode carries the prediction where its quality is 0, whatever its gauge ends. -/
theorem phasePoint_rateWord (x : Shot) (r : GridRec) (ea eb : Option GridRec) (free : BitVec 24) (hmode : x.cfg.outMode = 0) :
    ∃ (v : Int) (q : Nat), q ≤ 255 ∧
      (phasePoint x r ea eb free).word = if q = 0 then valueWord (predOf x r) 0 else valueWord v q := by
  have hphase : ¬ x.cfg.outMode = 1 := by omega
  cases ea with
  | none => exact ⟨0, 0, by omega, by simp only [phasePoint, if_neg hphase, if_true]⟩
  | some a =>
    cases eb with
    | none => exact ⟨0, 0, by omega, by simp only [phasePoint, if_neg hphase, if_true]⟩
    | some b =>
      simp only [phasePoint, if_neg hphase]
      refine ⟨_, _, ?_, rfl⟩
      have hq := (wQ r.word).isLt
      split
      · exact (capped_le _ _ _).trans (by omega)
      · omega

/-- Settles O59: a word of quality 0 is the one that carries the prediction, and the prediction fits its value field. -/
theorem qualityZeroValue : Obligations.QualityZeroValue := by
  intro x r ea eb free hmode _ _ _ _ _ hzero
  obtain ⟨v, q, hq, hword⟩ := phasePoint_rateWord x r ea eb free hmode
  have hq0 : q = 0 := by
    by_contra hne
    rw [hword, if_neg hne, valueWord_quality] at hzero
    omega
  rw [hword, if_pos hq0, valueWord_value, predOf_fits, predOf_eq]

end Sys2Proof.Machine
end

section
/-! SUPPORT. The point queue (R143, R144, R342, R442; Machine/Pipe.lean, Machine/Capture.lean): the words offered to it and the words drained from it. -/

namespace Sys2Proof.Machine

/-! ## Words offered (R144, R442) -/

/-- A delivery that alone stands in the queue, without its trailer, is the one that changes. -/
theorem changeOpen_single (f : Delivery → Delivery) (d : Delivery) (h : d.closed = false) : changeOpen f [d] = [f d] := by
  simp only [changeOpen, h, Bool.false_eq_true, if_false]

theorem PipePart.offerWord_admits (p : PipePart) (pt : Nat) (w : BitVec 32) (hover : p.sums.overrun = none)
    (hroom : p.queued + 1 + 12 ≤ 262144) :
    p.offerWord pt w = { p with queue := changeOpen (fun d => d.addWord pt w) p.queue, queued := p.queued + 1 } := by
  have hfits : p.queued + 13 ≤ queueWords := hroom
  simp only [PipePart.offerWord, hover, Option.isSome_none, Bool.false_eq_true, if_false, if_pos hfits]

theorem PipePart.offerWord_single (p : PipePart) (pt : Nat) (w : BitVec 32) (d : Delivery) (hover : p.sums.overrun = none)
    (hq : p.queue = [d]) (hopen : d.closed = false) (hroom : p.queued + 1 + 12 ≤ 262144) :
    p.offerWord pt w = { p with queue := [d.addWord pt w], queued := p.queued + 1 } := by
  rw [p.offerWord_admits pt w hover hroom, hq, changeOpen_single _ d hopen]

theorem PipePart.offerWord_refuses (p : PipePart) (pt : Nat) (w : BitVec 32) (hover : p.sums.overrun = none)
    (hfull : 262144 < p.queued + 1 + 12) : p.offerWord pt w = { p with sums := { p.sums with overrun := some pt } } := by
  have hfits : ¬ p.queued + 13 ≤ queueWords := Nat.not_le.mpr hfull
  simp only [PipePart.offerWord, hover, Option.isSome_none, Bool.false_eq_true, if_false, if_neg hfits]

theorem PipePart.offerWord_ended (p : PipePart) (pt k : Nat) (w : BitVec 32) (hover : p.sums.overrun = some k) : p.offerWord pt w = p := by
  simp only [PipePart.offerWord, hover, Option.isSome_some, if_true]

theorem PipePart.offerWord_queued_le (p : PipePart) (pt : Nat) (w : BitVec 32) (h : p.queued ≤ 262144) :
    (p.offerWord pt w).queued ≤ 262144 := by
  cases hover : p.sums.overrun with
  | some k => rwa [p.offerWord_ended pt k w hover]
  | none =>
    by_cases hroom : p.queued + 1 + 12 ≤ 262144
    · rw [p.offerWord_admits pt w hover hroom]
      exact (Nat.le_add_right _ 12).trans hroom
    · rwa [p.offerWord_refuses pt w hover (Nat.not_le.mp hroom)]

/-! ## The awnings and the twin as words are drained (R259, R443) -/

/-- Words that reach an awning change the capture regions alone. -/
theorem State.fillSamples_eq (s : State) (n : Port) (d : Delivery) : ∃ c, s.fillSamples n d = { s with capture := c } := by
  refine overAll_induct (P := fun t => ∃ c, t = { s with capture := c }) (fun t r h => ?_) s ⟨s.capture, rfl⟩
  obtain ⟨c, rfl⟩ := h
  dsimp only
  split
  · exact ⟨_, rfl⟩
  · exact ⟨_, rfl⟩

theorem State.fillNew_eq (s : State) (n : Port) (old new : List Delivery) : ∃ c, s.fillNew n old new = { s with capture := c } := by
  rw [State.fillNew]
  generalize (old.zip new).filter _ = l
  induction l generalizing s with
  | nil => exact ⟨s.capture, rfl⟩
  | cons e l ih =>
    obtain ⟨c, hc⟩ := s.fillSamples_eq n e.2
    rw [List.foldl_cons, hc]
    obtain ⟨c', hc'⟩ := ih { s with capture := c }
    exact ⟨c', hc'⟩

/-- No delivery becomes whole where none changes. -/
theorem State.fillNew_same (s : State) (n : Port) (l : List Delivery) : s.fillNew n l l = s := by
  have hnone : (l.zip l).filter (fun e => !e.1.inRingWhole && e.2.inRingWhole) = [] := by
    rw [List.filter_eq_nil_iff]
    intro e he
    rw [List.mem_iff_getElem] at he
    obtain ⟨i, hi, rfl⟩ := he
    simp
  rw [State.fillNew, hnone, List.foldl_nil]

theorem State.fillNew_single (s : State) (n : Port) (d e : Delivery) :
    s.fillNew n [d] [e] = if !d.inRingWhole && e.inRingWhole then s.fillSamples n e else s := by
  rw [State.fillNew, List.zip_cons_cons, List.zip_nil_left, List.filter_cons, List.filter_nil]
  split
  · rw [List.foldl_cons, List.foldl_nil]
  · rw [List.foldl_nil]

theorem State.apart_sendPiece (s : State) (b : AggonBody) : (s.sendPiece b).apart = s.apart := by
  rw [State.sendPiece]
  dsimp only
  split
  · exact State.apart_sendFrame _ _ _
  · rfl

theorem State.apart_sendPieces (s : State) (ps : List AggonBody) (bytes : Nat) : (s.sendPieces ps bytes).apart = s.apart :=
  State.apart_ite rfl (State.apart_foldl State.apart_sendPiece _ _)

theorem State.apart_putSending (s : State) (e : MirrorSend) : (s.putSending e).apart = s.apart := rfl

theorem State.apart_mirrorWords (s : State) (n : Port) (d : Delivery) (whole : Bool) : (s.mirrorWords n d whole).apart = s.apart := by
  rw [State.mirrorWords]
  refine State.apart_ite rfl (State.apart_ite rfl (State.apart_ite ?_ ?_))
  · exact (State.apart_bump _ (innerReg_of_high (by decide))).trans (State.apart_putSending _ _)
  · exact (State.apart_sendPieces _ _ _).trans (State.apart_putSending _ _)

theorem State.apart_mirrorQueue (s : State) (n : Port) : (s.mirrorQueue n).apart = s.apart :=
  State.apart_foldl (fun _ _ => State.apart_mirrorWords _ _ _ _) _ _

/-- A port that is not twinned mirrors nothing. -/
theorem State.mirrorQueue_untwinned (s : State) (n : Port) (h : s.twinned n = false) : s.mirrorQueue n = s := by
  rw [State.mirrorQueue]
  induction s.pipes[n].queue with
  | nil => rfl
  | cons d l ih =>
    have hwords : s.mirrorWords n d false = s := by simp only [State.mirrorWords, h, Bool.and_false, Bool.not_false, if_true]
    rw [List.foldl_cons, hwords, ih]

/-! ## The drain (R143, R342) -/

theorem drain_zero (l : List Delivery) : drain 0 l = l := by
  induction l with
  | nil => rfl
  | cons d l ih => rw [drain, Nat.zero_sub, ih, Nat.sub_zero]

/-- The words that a drain takes: none while the crossing to the memory refuses them. -/
def drained (s : State) (n : Port) (k : Nat) : Nat := if refuses s 2 then 0 else min k (s.pipes[n].queue.map (·.left)).sum

/-- The pipeline after a drain, before awnings and twin have what it brought them. -/
def State.drainPipe (s : State) (n : Port) (k : Nat) : State :=
  s.modPipe n (fun p => { p with queue := drain k p.queue, queued := p.queued - k })

theorem queueDrain_eq (s : State) (n : Port) (k : Nat) : exec (.queueDrain n k) s =
    .next (((s.drainPipe n (drained s n k)).fillNew n s.pipes[n].queue (drain (drained s n k) s.pipes[n].queue)).mirrorQueue n) := rfl

theorem queueDrain_untwinned (s : State) (n : Port) (k : Nat) (h : s.twinned n = false) : exec (.queueDrain n k) s =
    .next ((s.drainPipe n (drained s n k)).fillNew n s.pipes[n].queue (drain (drained s n k) s.pipes[n].queue)) := by
  rw [queueDrain_eq, State.mirrorQueue_untwinned]
  obtain ⟨c, hc⟩ := (s.drainPipe n (drained s n k)).fillNew_eq n s.pipes[n].queue (drain (drained s n k) s.pipes[n].queue)
  rw [hc]
  exact h

theorem queueDrain_takes (s : State) (n : Port) (k : Nat) (h : refuses s 2 = false) :
    ∃ t : State, exec (.queueDrain n k) s = .next t ∧
      t.pipes[n].queue = drain (min k (s.pipes[n].queue.map (·.left)).sum) s.pipes[n].queue ∧
      t.pipes[n].queued = s.pipes[n].queued - min k (s.pipes[n].queue.map (·.left)).sum ∧
      (∀ m : Port, m ≠ n → t.pipes[m] = s.pipes[m]) ∧ t.mem = s.mem ∧ t.stalls = s.stalls ∧ t.ports = s.ports := by
  have hk : drained s n k = min k (s.pipes[n].queue.map (·.left)).sum := by simp only [drained, h, Bool.false_eq_true, if_false]
  obtain ⟨c, hc⟩ := (s.drainPipe n (drained s n k)).fillNew_eq n s.pipes[n].queue (drain (drained s n k) s.pipes[n].queue)
  refine ⟨_, queueDrain_eq s n k, ?_⟩
  rw [hc, ← hk]
  generalize drained s n k = j
  have hapart := State.apart_mirrorQueue ({ s.drainPipe n j with capture := c }) n
  have hpipes := congrArg (fun p => p.1.pipes) hapart
  dsimp only [State.apart, State.bare] at hpipes
  rw [State.mem_of_apart hapart, State.stalls_of_apart hapart, State.ports_of_apart hapart, hpipes]
  have hself := s.modPipe_self n (fun p => { p with queue := drain j p.queue, queued := p.queued - j })
  exact ⟨congrArg PipePart.queue hself, congrArg PipePart.queued hself, fun m hm => s.modPipe_other n _ m hm.symm, rfl, rfl, rfl⟩

theorem queueDrain_refused (s : State) (n : Port) (k : Nat) (h : refuses s 2 = true) (hn : s.twinned n = false) :
    ∃ t : State, exec (.queueDrain n k) s = .next t ∧ t.pipes[n].queue = s.pipes[n].queue ∧ t.pipes[n].queued = s.pipes[n].queued ∧
      t.regs = s.regs ∧ t.mem = s.mem ∧ t.stalls = s.stalls := by
  have hk : drained s n k = 0 := by simp only [drained, h, if_true]
  refine ⟨s.drainPipe n 0, ?_, ?_, ?_, rfl, rfl, rfl⟩
  · rw [queueDrain_untwinned s n k hn, hk, drain_zero, State.fillNew_same]
  · rw [State.drainPipe, State.modPipe_self, drain_zero]
  · rw [State.drainPipe, State.modPipe_self, Nat.sub_zero]

/-- The drain of a queue that holds one delivery. -/
theorem queueDrain_single (s : State) (n : Port) (k : Nat) (d : Delivery) (hq : s.pipes[n].queue = [d]) (h : refuses s 2 = false)
    (hn : s.twinned n = false) : exec (.queueDrain n k) s =
      .next ((s.modPipe n (fun p => { p with queue := [{ d with left := d.left - min k d.left }], queued := p.queued - min k d.left })).fillNew n
        [d] [{ d with left := d.left - min k d.left }]) := by
  have hk : drained s n k = min k d.left := by
    simp only [drained, h, Bool.false_eq_true, if_false, hq, List.map_cons, List.map_nil, List.sum_cons, List.sum_nil, Nat.add_zero]
  rw [queueDrain_untwinned s n k hn, hk, hq, State.drainPipe]
  refine congrArg (fun t : State => Host.Outcome.next (t.fillNew n _ _)) ?_
  rw [State.modPipe, State.modPipe, hq]
  rfl

theorem queueDrain_part (s : State) (n : Port) (k : Nat) (d : Delivery) (hq : s.pipes[n].queue = [d]) (hk : k < d.left)
    (h : refuses s 2 = false) (hn : s.twinned n = false) : exec (.queueDrain n k) s =
      .next (s.modPipe n (fun p => { p with queue := [{ d with left := d.left - k }], queued := p.queued - k })) := by
  have hleft : (d.left - k == 0) = false := by simp only [beq_eq_false_iff_ne]; omega
  rw [queueDrain_single s n k d hq h hn, Nat.min_eq_left hk.le, State.fillNew_single]
  simp only [Delivery.inRingWhole, hleft, Bool.and_false, Bool.false_and, Bool.false_eq_true, if_false]

theorem queueDrain_whole (s : State) (n : Port) (k : Nat) (d : Delivery) (hq : s.pipes[n].queue = [d]) (hc : d.closed = true)
    (hu : d.unheaded = false) (h0 : 0 < d.left) (hk : d.left ≤ k) (h : refuses s 2 = false) (hn : s.twinned n = false) :
    exec (.queueDrain n k) s = .next ((s.modPipe n (fun p =>
      { p with queue := [{ d with left := d.left - d.left }], queued := p.queued - d.left })).fillSamples n
      { d with left := d.left - d.left }) := by
  have hold : (d.left == 0) = false := by simp only [beq_eq_false_iff_ne]; omega
  rw [queueDrain_single s n k d hq h hn, Nat.min_eq_right hk, State.fillNew_single]
  simp only [Delivery.inRingWhole, hold, hc, hu, Nat.sub_self, beq_self_eq_true, Bool.and_false, Bool.false_and, Bool.not_false, Bool.and_self,
    if_true]

end Sys2Proof.Machine
end

section
/-! SUPPORT. The end of a DAS shot (R115, R138 to R143, R147, R150; Machine/Pipe.lean): the delivery it closes, the trackers it moves, and what it
leaves for the shots after it. -/

namespace Sys2Proof
open Machine

theorem onlyRegs.parts {s t : Machine.State} {l : List Reg} (h : onlyRegs s t l) :
    t.ports = s.ports ∧ t.pipes = s.pipes ∧ t.mem = s.mem ∧ t.stalls = s.stalls ∧ t.out = s.out := by
  rw [h.1]
  exact ⟨rfl, rfl, rfl, rfl, rfl⟩

theorem onlyRegs.foldl {α : Type} {s t : Machine.State} {l : List Reg} {f : Machine.State → α → Machine.State} {as : List α} (h : onlyRegs s t l)
    (hf : ∀ u, ∀ a ∈ as, onlyRegs s u l → onlyRegs s (f u a) l) : onlyRegs s (as.foldl f t) l := by
  induction as generalizing t with
  | nil => exact h
  | cons a as ih => exact ih (hf t a List.mem_cons_self h) fun u b hb => hf u b (List.mem_cons_of_mem _ hb)

end Sys2Proof

namespace Sys2Proof.Machine

/-! ## The trailer (R147) -/

theorem fromLe_le (n v : Nat) : fromLe (le n v) = v % 256 ^ n := by
  induction n generalizing v with
  | zero => simp [le, fromLe, Nat.mod_one]
  | succ n ih =>
    have hpow : 256 ^ (n + 1) = 256 * 256 ^ n := Nat.pow_succ'
    rw [le, fromLe, ih, BitVec.toNat_ofNat, hpow]
    exact Nat.mod_mul.symm

/-- The flags of a shot's trailer. -/
def trailerFlags (x : Shot) (m : ShotSums) (dark : Bool) : Nat :=
  bit8 x.gaugeReset 6 + bit8 (decide (1 ≤ x.relearn) && decide (x.relearn ≤ 32)) 5 + bit8 m.overrun.isSome 4 + bit8 m.late 3 +
    bit8 m.suspect 2 + bit8 (x.cut || x.invalid) 1 + bit8 dark 0

/-- Seven flags in the bits of a byte: the two lowest read back as they were put. -/
theorem flagBits_low (a b c d e f g : Bool) :
    (BitVec.ofNat 8 (bit8 a 6 + bit8 b 5 + bit8 c 4 + bit8 d 3 + bit8 e 2 + bit8 f 1 + bit8 g 0)).getLsbD 1 = f ∧
    (BitVec.ofNat 8 (bit8 a 6 + bit8 b 5 + bit8 c 4 + bit8 d 3 + bit8 e 2 + bit8 f 1 + bit8 g 0)).getLsbD 0 = g := by
  revert a b c d e f g
  decide

theorem pointTrailer_seq (seq first last faded flags set : Nat) (h : seq < 2 ^ 32) :
    fromLe (slice (pointTrailer seq first last faded flags set) 0 4) = seq := by
  change fromLe (le 4 seq) = seq
  exact (fromLe_le 4 _).trans (Nat.mod_eq_of_lt h)

theorem pointTrailer_validEnd (seq first last faded flags set : Nat) (h : last < 2 ^ 32) :
    fromLe (slice (pointTrailer seq first last faded flags set) 8 4) = last := by
  change fromLe (le 4 last) = last
  exact (fromLe_le 4 _).trans (Nat.mod_eq_of_lt h)

theorem pointTrailer_flags (seq first last faded flags set : Nat) :
    BitVec.ofNat 8 (fromLe (slice (pointTrailer seq first last faded flags set) 14 1)) = BitVec.ofNat 8 flags := by
  change BitVec.ofNat 8 (fromLe (le 1 flags)) = BitVec.ofNat 8 flags
  rw [fromLe_le]
  exact BitVec.eq_of_toNat_eq (by simp)

/-! ## Changes of one pipeline -/

theorem State.modPipe_congr (s : State) (n : Port) {f g : PipePart → PipePart} (h : f s.pipes[n] = g s.pipes[n]) :
    s.modPipe n f = s.modPipe n g := by
  rw [State.modPipe, h, State.modPipe]

theorem State.modPipe_modPipe (s : State) (n : Port) (f g : PipePart → PipePart) :
    (s.modPipe n f).modPipe n g = s.modPipe n (fun p => g (f p)) := by
  simp only [State.modPipe, Vector.set_set, Fin.getElem_fin, Vector.getElem_set_self]

/-! ## The delivery closes (R143, R147) -/

/-- An open delivery, its points not mapped, as the end of its shot leaves it. -/
def closedDelivery (n : Port) (x : Shot) (p : PipePart) (dark : Bool) (d : Delivery) : Delivery :=
  { d with
    header := header n x, unheaded := x.stamp.isNone, first := x.pFirst, validEnd := x.pLast + 1, last := x.pLast,
    body := shotWords p x d.body,
    trailer := pointTrailer x.seq.toNat x.pFirst (x.pLast + 1) p.sums.dark (trailerFlags x p.sums dark) x.toneSet,
    closed := true, left := d.left + 4 }

theorem State.closeShot_single (s : State) (n : Port) (x : Shot) (dark : Bool) (d : Delivery) (g : GridRec) (hgrid : s.pipes[n].grid = [g])
    (hq : s.pipes[n].queue = [d]) (hopen : d.closed = false) (hover : s.pipes[n].sums.overrun = none) (hrev : d.rev = none) :
    s.closeShot n x dark =
      s.modPipe n (fun p => { p with queue := [closedDelivery n x s.pipes[n] dark d], queued := p.queued + 4 }) := by
  have hsome : ¬ s.pipes[n].grid.isEmpty = true := by
    rw [hgrid]
    exact Bool.false_ne_true
  rw [State.closeShot]
  simp only [if_neg hsome]
  refine s.modPipe_congr n ?_
  rw [PipePart.closeQueue, hq, changeOpen_single _ d hopen]
  simp only [closedDelivery, trailerFlags, closePoints, hover, hrev, Option.getD_none, Option.isSome_none, Bool.false_eq_true, if_false]

/-- The end of a shot changes its own port's pipeline alone as it closes the delivery. -/
theorem State.closeShot_eq (s : State) (n : Port) (x : Shot) (dark : Bool) :
    ∃ f : PipePart → PipePart, s.closeShot n x dark = s.modPipe n f := by
  rw [State.closeShot]
  dsimp only
  split
  · exact ⟨_, s.modPipe_modPipe n _ _⟩
  · exact ⟨_, rfl⟩

/-! ## The words of a cut or invalid shot (R115) -/

theorem maskedWord_quality (w : BitVec 32) : (w &&& ~~~(0xFF#32)).toNat % 256 = 0 := by
  have hmask : (~~~(0xFF#32)).toNat % 2 ^ 8 = 0 := by decide
  rw [BitVec.toNat_and]
  change (w.toNat &&& (~~~(0xFF#32)).toNat) % 2 ^ 8 = 0
  rw [Nat.and_mod_two_pow, hmask, Nat.and_zero]

theorem spoiltWord_quality (x : Shot) (r : Option GridRec) (w : BitVec 32) (h : x.cfg.outMode ≠ 3) :
    (spoiltWord x r w).toNat % 256 = 0 := by
  rw [spoiltWord.eq_def]
  split
  · cases r with
    | none => exact maskedWord_quality w
    | some r => exact valueWord_quality _ 0
  · exact absurd ‹_› h
  · exact maskedWord_quality w

theorem shotWords_sound (p : PipePart) (x : Shot) (l : List (BitVec 32)) (hcut : x.cut = false) (hinv : x.invalid = false) :
    shotWords p x l = l := by
  simp [shotWords, hcut, hinv]

theorem shotWords_cut (p : PipePart) (x : Shot) (l : List (BitVec 32)) (hcut : x.cut = true) :
    shotWords p x l = (l.zipIdx x.pFirst).map (fun e => spoiltWord x (recAt p.grid e.2) e.1) := by
  simp [shotWords, hcut]

theorem shotWords_cut_quality (p : PipePart) (x : Shot) (l : List (BitVec 32)) (hcut : x.cut = true) (h : x.cfg.outMode ≠ 3) :
    ∀ w ∈ shotWords p x l, w.toNat % 256 = 0 := by
  rw [shotWords_cut p x l hcut]
  intro w hw
  obtain ⟨e, _, rfl⟩ := List.mem_map.mp hw
  exact spoiltWord_quality x _ _ h

/-- A set's words whose PREV_VALID is clear. -/
def prevClear (set : Nat) (l : List (Nat × BitVec 128)) : Prop := ∀ w ∈ l, w.1 / 2 ^ 22 = set → wPrevValid w.2 = false

theorem prevClear_clearSet (set : Nat) (l : List (Nat × BitVec 128)) : prevClear set (clearSet set l) := by
  intro w hw hset
  obtain ⟨e, _, rfl⟩ := List.mem_map.mp hw
  by_cases hin : e.1 / 2 ^ 22 = set
  · rw [if_pos hin]
    simp [wPrevValid, clearValid]
  · rw [if_neg hin] at hset
    exact absurd hset hin

theorem prevClear_spoiltWords (p : PipePart) (x : Shot) (hgen : x.stateGen = p.gen) : prevClear x.toneSet (spoiltWords p x) := by
  intro w hw hset
  rw [spoiltWords] at hw
  simp only [hgen, ne_eq, not_true_eq_false, if_false] at hw
  obtain ⟨e, _, rfl⟩ := List.mem_map.mp hw
  by_cases hin : e.1 / 2 ^ 22 = x.toneSet
  · rw [if_pos hin]
    split
    · simp [wPrevValid]
    · simp [wPrevValid]
  · rw [if_neg hin] at hset
    exact absurd hset hin

/-! ## The trackers (R138 to R142, R150) -/

/-- The trackers of a port leave the ports, the memory, the stalls, the other pipelines, and the port's own queue. -/
structure TrackKept (n : Port) (s t : State) : Prop where
  ports : t.ports = s.ports
  mem : t.mem = s.mem
  stalls : t.stalls = s.stalls
  queue : t.pipes[n].queue = s.pipes[n].queue
  others : ∀ m : Port, m ≠ n → t.pipes[m] = s.pipes[m]

theorem TrackKept.refl (n : Port) (s : State) : TrackKept n s s := ⟨rfl, rfl, rfl, rfl, fun _ _ => rfl⟩

theorem TrackKept.trans {n : Port} {s t u : State} (h : TrackKept n s t) (g : TrackKept n t u) : TrackKept n s u :=
  ⟨g.ports.trans h.ports, g.mem.trans h.mem, g.stalls.trans h.stalls, g.queue.trans h.queue,
    fun m hm => (g.others m hm).trans (h.others m hm)⟩

theorem TrackKept.of_pipes {n : Port} {s t u : State} (h : TrackKept n s t) (hports : u.ports = t.ports) (hmem : u.mem = t.mem)
    (hstalls : u.stalls = t.stalls) (hpipes : u.pipes = t.pipes) : TrackKept n s u :=
  h.trans ⟨hports, hmem, hstalls, by rw [hpipes], fun _ _ => by rw [hpipes]⟩

theorem TrackKept.of_apart {n : Port} {s t u : State} (h : TrackKept n s t) (hu : u.apart = t.apart) : TrackKept n s u :=
  h.of_pipes (State.ports_of_apart hu) (State.mem_of_apart hu) (State.stalls_of_apart hu) (congrArg (fun p => p.1.pipes) hu)

theorem TrackKept.put {n : Port} {s t : State} (h : TrackKept n s t) (r : Reg) (v : Nat) : TrackKept n s (t.put r v) :=
  h.of_pipes rfl rfl rfl rfl

theorem TrackKept.bump {n : Port} {s t : State} (h : TrackKept n s t) (r : Reg) : TrackKept n s (t.bump r) := h.put r _

theorem TrackKept.putBit {n : Port} {s t : State} (h : TrackKept n s t) (r : Reg) (b : Nat) (x : Bool) : TrackKept n s (t.putBit r b x) :=
  h.put r _

theorem TrackKept.modPipe {n : Port} {s t : State} {f : PipePart → PipePart} (h : TrackKept n s t) (hf : ∀ p, (f p).queue = p.queue) :
    TrackKept n s (t.modPipe n f) :=
  h.trans ⟨rfl, rfl, rfl, by rw [State.modPipe_self, hf], fun m hm => t.modPipe_other n f m hm.symm⟩

theorem TrackKept.ite {n : Port} {s a b : State} {c : Prop} [Decidable c] (ha : TrackKept n s a) (hb : TrackKept n s b) :
    TrackKept n s (if c then a else b) := by
  split
  · exact ha
  · exact hb

theorem TrackKept.logFlag {n : Port} {s t : State} (h : TrackKept n s t) (r : Reg) (b : Nat) (x : Bool) (sub inst : Nat) (fault : Bool) :
    TrackKept n s (t.logFlag r b x sub inst fault) :=
  TrackKept.ite h ((h.put _ _).of_apart (State.apart_log _ _))

theorem TrackKept.summary {n : Port} {s t : State} (h : TrackKept n s t) (k : SummaryKey) : TrackKept n s (t.summary k) := by
  rw [State.summary]
  split
  · exact (h.of_apart (State.apart_log _ _)).of_pipes rfl rfl rfl rfl
  · exact h.of_pipes rfl rfl rfl rfl

theorem TrackKept.trackDark {n : Port} {s t : State} (h : TrackKept n s t) (dark : Bool) : TrackKept n s (t.trackDark n dark) := by
  have hrun : TrackKept n s (t.modPipe n (fun p => { p with darkRun := if dark then min 8 (p.darkRun + 1) else 0 })) := h.modPipe fun _ => rfl
  have hcount := TrackKept.ite (c := dark = true) (hrun.bump (Obj.PIPE_STATUS.DARK_SHOTS n)) hrun
  exact TrackKept.ite (TrackKept.ite (hcount.logFlag _ _ _ _ _ _) hcount) (hcount.logFlag _ _ _ _ _ _)

theorem TrackKept.moveNoise {n : Port} {s t : State} (h : TrackKept n s t) (x : Shot) : TrackKept n s (t.moveNoise n x) := by
  rw [State.moveNoise]
  refine TrackKept.ite (TrackKept.putBit ?_ _ _ _) (TrackKept.ite (h.putBit _ _ _) (h.putBit _ _ _))
  exact h.modPipe fun _ => rfl

theorem TrackKept.trackEnd {n : Port} {s t : State} (h : TrackKept n s t) (x : Shot) : TrackKept n s (t.trackEnd n x) := by
  have hdrawn : TrackKept n s t.drawn := h.of_pipes rfl rfl rfl rfl
  rw [State.trackEnd]
  extract_lets cells fe u v bm p ends lo steady ref0 setRef ref short cf sr lr w z
  have hz : TrackKept n s z := TrackKept.modPipe (((hdrawn.put _ _).putBit _ _ _).put _ _) fun _ => rfl
  refine TrackKept.ite (TrackKept.ite (h.put _ _) h) ?_
  exact TrackKept.ite ((hz.put _ _).logFlag _ _ _ _ _ _) (TrackKept.ite (hz.logFlag _ _ _ _ _ _) hz)

/-- The branch status a shot's end shows: the branches it summed, and the sixteen of the port (R150). -/
theorem State.branchStatus_onlyRegs (s : State) (n : Port) (x : Shot) :
    onlyRegs s (s.branchStatus n x) ((s.pipes[n].sums.share.map (·.1) ++ List.range 16).flatMap (branchRegs n)) := by
  have hmem : ∀ b ∈ s.pipes[n].sums.share.map (·.1) ++ List.range 16, ∀ r ∈ branchRegs n b,
      r ∈ (s.pipes[n].sums.share.map (·.1) ++ List.range 16).flatMap (branchRegs n) :=
    fun b hb r hr => List.mem_flatMap.mpr ⟨b, hb, hr⟩
  generalize hl : (s.pipes[n].sums.share.map (·.1) ++ List.range 16).flatMap (branchRegs n) = l at hmem ⊢
  refine onlyRegs.foldl (onlyRegs.foldl (onlyRegs.refl s l) fun u e he hu => ?_) fun u b hb hu => ?_
  · have hin := hmem e.1 (List.mem_append_left _ (List.mem_map_of_mem he))
    exact ((((hu.put (hin _ (by simp [branchRegs])) _).put (hin _ (by simp [branchRegs])) _).put (hin _ (by simp [branchRegs])) _).put
      (hin _ (by simp [branchRegs])) _).put (hin _ (by simp [branchRegs])) _
  · have hin := hmem b (List.mem_append_right _ hb)
    split
    · exact hu
    · exact ((hu.put (hin _ (by simp [branchRegs])) _).put (hin _ (by simp [branchRegs])) _).put (hin _ (by simp [branchRegs])) _

theorem TrackKept.branchStatus {n : Port} {s t : State} (h : TrackKept n s t) (x : Shot) : TrackKept n s (t.branchStatus n x) := by
  obtain ⟨hports, hpipes, hmem, hstalls, _⟩ := (t.branchStatus_onlyRegs n x).parts
  exact h.of_pipes hports hmem hstalls hpipes

/-- A light shot on a port whose DARK flag is clear ends the run of dark shots and no more (R139). -/
theorem State.trackDark_light (s : State) (n : Port) (h : s.bit (Obj.PIPE_STATUS.FLAGS n) Bit.PIPE_STATUS.FLAGS.DARK = false) :
    s.trackDark n false = s.modPipe n (fun p => { p with darkRun := 0 }) :=
  State.logFlag_same _ _ _ _ _ _ _ h

/-! ## The two halves of a shot's end -/

/-- The delivery is closed and the trackers have taken the shot. -/
def State.shotTracked (s : State) (n : Port) (x : Shot) : State :=
  let m := s.pipes[n].sums
  let dark := shotDark x m
  let t := s.closeShot n x dark
  let t := if m.overrun.isSome then
      (((t.bump (Obj.PIPE_STATUS.OVERRUN_SHOTS n)).setBit (Obj.PIPE_STATUS.FLAGS n) Bit.PIPE_STATUS.FLAGS.OVERRUN)).summary (.overrun n)
    else t
  let t := t.trackDark n dark
  let t := if x.cut || x.invalid then t else (t.moveNoise n x).trackEnd n x
  (t.branchStatus n x).put (Obj.PIPE_STATUS.LATENCY n)
    (freeRound (((s.now : Int) - (x.launchAt + 2 * (x.winStart + x.winLen) : Nat)) * 5) 16).toNat

/-- The shot's data are done, and its grid and sums are cleared for the shots after it. -/
def State.shotCleared (s : State) (n : Port) (x : Shot) : State :=
  ((s.clearShot n x).modShot n endingShot (fun z => { z with dataDone := true })).dropOver n

theorem dasShotEnd_none (s : State) (n : Port) (h : firstShot s n endingShot = none) : exec (.dasShotEnd n) s = .next s := by
  change execDasShotEnd n s = _
  rw [execDasShotEnd, h]

theorem dasShotEnd_eq (s : State) (n : Port) (x : Shot) (h : firstShot s n endingShot = some x) : exec (.dasShotEnd n) s =
    .next (queuePeak (((s.shotTracked n x).shotCleared n x).putBit (Obj.PIPE_STATUS.FLAGS n) Bit.PIPE_STATUS.FLAGS.RELEARN_ACTIVE
      (relearning (((s.shotTracked n x).clearShot n x).modShot n endingShot (fun z => { z with dataDone := true })) n)) n) := by
  change execDasShotEnd n s = _
  rw [execDasShotEnd, h]
  rfl

theorem onlyRegs_queuePeak {s t : State} {l : List Reg} (h : onlyRegs s t l) {n : Port} (hr : Obj.PIPE_STATUS.QUEUE_PEAK n ∈ l) :
    onlyRegs s (queuePeak t n) l := by
  rw [queuePeak]
  split
  · exact h.put hr _
  · exact h

theorem dasShotEnd_ends (s : State) (n : Port) (x : Shot) (h : firstShot s n endingShot = some x) :
    ∃ t : State, exec (.dasShotEnd n) s = .next t ∧
      onlyRegs ((s.shotTracked n x).shotCleared n x) t [Obj.PIPE_STATUS.FLAGS n, Obj.PIPE_STATUS.QUEUE_PEAK n] :=
  ⟨_, dasShotEnd_eq s n x h, onlyRegs_queuePeak ((onlyRegs.refl _ _).put (r := Obj.PIPE_STATUS.FLAGS n) (by simp) _) (by simp)⟩

theorem State.shotTracked_kept (s : State) (n : Port) (x : Shot) :
    TrackKept n (s.closeShot n x (shotDark x s.pipes[n].sums)) (s.shotTracked n x) := by
  have hclose := TrackKept.refl n (s.closeShot n x (shotDark x s.pipes[n].sums))
  have hover := TrackKept.ite (c := s.pipes[n].sums.overrun.isSome = true)
    (((hclose.bump (Obj.PIPE_STATUS.OVERRUN_SHOTS n)).putBit (Obj.PIPE_STATUS.FLAGS n) Bit.PIPE_STATUS.FLAGS.OVERRUN true).summary
      (.overrun n)) hclose
  have hdark := hover.trackDark (shotDark x s.pipes[n].sums)
  exact ((TrackKept.ite hdark ((hdark.moveNoise x).trackEnd x)).branchStatus x).put _ _

/-- A cut shot that is neither dark nor overrun moves no estimate: the run of dark shots ends, and the branch status and LATENCY follow. -/
theorem State.shotTracked_cut (s : State) (n : Port) (x : Shot) (d : Delivery) (g : GridRec) (hcut : x.cut = true)
    (hgrid : s.pipes[n].grid = [g]) (hq : s.pipes[n].queue = [d]) (hopen : d.closed = false) (hover : s.pipes[n].sums.overrun = none)
    (hrev : d.rev = none) (hlight : shotDark x s.pipes[n].sums = false)
    (hflag : s.bit (Obj.PIPE_STATUS.FLAGS n) Bit.PIPE_STATUS.FLAGS.DARK = false) :
    onlyRegs (s.modPipe n (fun p =>
        { p with queue := [closedDelivery n x s.pipes[n] false d], queued := p.queued + 4, darkRun := 0 }))
      (s.shotTracked n x)
      (Obj.PIPE_STATUS.LATENCY n :: (s.pipes[n].sums.share.map (·.1) ++ List.range 16).flatMap (branchRegs n)) := by
  have hclose : (s.closeShot n x false).trackDark n false = s.modPipe n (fun p =>
      { p with queue := [closedDelivery n x s.pipes[n] false d], queued := p.queued + 4, darkRun := 0 }) := by
    rw [State.closeShot_single s n x false d g hgrid hq hopen hover hrev, State.trackDark_light (State.modPipe _ _ _) n hflag, State.modPipe_modPipe]
  have hbranch := State.branchStatus_onlyRegs ((s.closeShot n x false).trackDark n false) n x
  rw [hclose, State.modPipe_self] at hbranch
  have htracked := (hbranch.mono fun _ => List.mem_cons_of_mem _).put (r := Obj.PIPE_STATUS.LATENCY n) List.mem_cons_self
    (freeRound (((s.now : Int) - (x.launchAt + 2 * (x.winStart + x.winLen) : Nat)) * 5) 16).toNat
  rw [State.shotTracked]
  simp only [hlight, hover, hcut, Option.isSome_none, Bool.false_eq_true, if_false, Bool.true_or, if_true, hclose]
  exact htracked

/-- The pipeline that a shot leaves to the next. -/
theorem State.shotCleared_pipe (s : State) (n : Port) (x : Shot) : (s.shotCleared n x).pipes[n].grid = [] ∧
    (s.shotCleared n x).pipes[n].sums = {} ∧ (s.shotCleared n x).pipes[n].queue = s.pipes[n].queue ∧
    (s.shotCleared n x).pipes[n].noise = s.pipes[n].noise ∧ (s.shotCleared n x).pipes[n].cells = s.pipes[n].cells := by
  have hpipe : (s.shotCleared n x).pipes[n] = (s.clearShot n x).pipes[n] := rfl
  rw [hpipe, State.clearShot, State.modPipe_self]
  exact ⟨rfl, rfl, rfl, rfl, rfl⟩

/-- A cut shot leaves no valid previous value in its set (R115). -/
theorem State.shotCleared_words (s : State) (n : Port) (x : Shot) (hcut : x.cut = true) (hgen : x.stateGen = s.pipes[n].gen) :
    prevClear x.toneSet (s.shotCleared n x).pipes[n].words := by
  have hpipe : (s.shotCleared n x).pipes[n] = (s.clearShot n x).pipes[n] := rfl
  have hspoilt := prevClear_spoiltWords s.pipes[n] x hgen
  rw [hpipe, State.clearShot, State.modPipe_self]
  simp only [hcut, Bool.true_or, if_true]
  split
  · exact prevClear_clearSet _ _
  · exact hspoilt

theorem State.shotCleared_others (s : State) (n : Port) (x : Shot) (m : Port) (h : m ≠ n) :
    (s.shotCleared n x).pipes[m] = s.pipes[m] ∧ (s.shotCleared n x).ports[m] = s.ports[m] := by
  have hports : (s.shotCleared n x).ports[m] = ((s.clearShot n x).modShot n endingShot (fun z => { z with dataDone := true })).ports[m] :=
    State.modPort_other _ _ _ _ h.symm
  have hpipes : (s.shotCleared n x).pipes[m] = (s.clearShot n x).pipes[m] := rfl
  rw [State.clearShot] at hpipes
  exact ⟨hpipes.trans (s.modPipe_other n _ m h.symm), hports.trans (State.modPort_other _ _ _ _ h.symm)⟩

/-! ## DAS_SHOT_END -/

theorem dasShotEnd_frame (s : State) (n : Port) (x : Shot) (h : firstShot s n endingShot = some x) :
    ∃ t : State, exec (.dasShotEnd n) s = .next t ∧ t.pipes[n].grid = [] ∧ t.pipes[n].sums = {} ∧
      t.pipes[n].queue = (s.closeShot n x (shotDark x s.pipes[n].sums)).pipes[n].queue ∧
      (∀ m : Port, m ≠ n → t.pipes[m] = s.pipes[m] ∧ t.ports[m] = s.ports[m]) ∧ t.mem = s.mem ∧ t.stalls = s.stalls := by
  obtain ⟨t, hexec, hregs⟩ := dasShotEnd_ends s n x h
  obtain ⟨hports, hpipes, hmem, hstalls, _⟩ := hregs.parts
  obtain ⟨hgrid, hsums, hqueue, _, _⟩ := (s.shotTracked n x).shotCleared_pipe n x
  have hkept := s.shotTracked_kept n x
  obtain ⟨f, hf⟩ := s.closeShot_eq n x (shotDark x s.pipes[n].sums)
  refine ⟨t, hexec, ?_⟩
  rw [hpipes, hports, hmem, hstalls]
  refine ⟨hgrid, hsums, hqueue.trans hkept.queue, fun m hm => ?_, hkept.mem.trans (by rw [hf]; rfl), hkept.stalls.trans (by rw [hf]; rfl)⟩
  obtain ⟨hpipe, hport⟩ := (s.shotTracked n x).shotCleared_others n x m hm
  refine ⟨hpipe.trans ((hkept.others m hm).trans ?_), hport.trans ?_⟩
  · rw [hf]
    exact s.modPipe_other n f m hm.symm
  · rw [hkept.ports, hf]
    rfl

theorem firstShot_ending {s : State} {n : Port} {x : Shot} (hs : s.ports[n].shots = [x]) (hwin : x.winClosed = true) (hkind : x.kind = 1)
    (hcal : x.cal = false) (hdone : x.dataDone = false) : firstShot s n endingShot = some x :=
  firstShot_single hs (by simp [endingShot, hwin, hkind, hcal, hdone])

theorem dasShotEnd_closes (s : State) (n : Port) (x : Shot) (d : Delivery) (g : GridRec) (hs : s.ports[n].shots = [x])
    (hwin : x.winClosed = true) (hkind : x.kind = 1) (hcal : x.cal = false) (hdone : x.dataDone = false) (hgrid : s.pipes[n].grid = [g])
    (hq : s.pipes[n].queue = [d]) (hopen : d.closed = false) (hover : s.pipes[n].sums.overrun = none) (hrev : d.rev = none)
    (_ : x.pFirst ≤ x.pLast) (hlast : x.pLast + 1 < 2 ^ 32) :
    ∃ (t : State) (e : Delivery), exec (.dasShotEnd n) s = .next t ∧ t.pipes[n].queue = [e] ∧ e.closed = true ∧ e.header = header n x ∧
      e.left = d.left + 4 ∧ fromLe (slice e.trailer 0 4) = x.seq.toNat ∧ fromLe (slice e.trailer 8 4) = x.pLast + 1 ∧
      (BitVec.ofNat 8 (fromLe (slice e.trailer 14 1))).getLsbD 1 = (x.cut || x.invalid) ∧
      (BitVec.ofNat 8 (fromLe (slice e.trailer 14 1))).getLsbD 0 = shotDark x s.pipes[n].sums ∧
      (x.cut = false → x.invalid = false → e.body = d.body) ∧ t.pipes[n].grid = [] ∧ t.mem = s.mem := by
  obtain ⟨t, hexec, hcleared, _, hqueue, _, hmem, _⟩ := dasShotEnd_frame s n x (firstShot_ending hs hwin hkind hcal hdone)
  rw [State.closeShot_single s n x _ d g hgrid hq hopen hover hrev, State.modPipe_self] at hqueue
  refine ⟨t, _, hexec, hqueue, rfl, rfl, rfl, pointTrailer_seq _ _ _ _ _ _ x.seq.isLt, pointTrailer_validEnd _ _ _ _ _ _ hlast, ?_, ?_,
    shotWords_sound _ x _, hcleared, hmem⟩
  · rw [closedDelivery, pointTrailer_flags]
    exact (flagBits_low _ _ _ _ _ _ _).1
  · rw [closedDelivery, pointTrailer_flags]
    exact (flagBits_low _ _ _ _ _ _ _).2

theorem dasShotEnd_cut (s : State) (n : Port) (x : Shot) (d : Delivery) (g : GridRec) (hs : s.ports[n].shots = [x])
    (hwin : x.winClosed = true) (hkind : x.kind = 1) (hcal : x.cal = false) (hdone : x.dataDone = false) (hcut : x.cut = true)
    (hgrid : s.pipes[n].grid = [g]) (hq : s.pipes[n].queue = [d]) (hopen : d.closed = false) (hover : s.pipes[n].sums.overrun = none)
    (hrev : d.rev = none) (hlight : shotDark x s.pipes[n].sums = false)
    (hflag : s.bit (Obj.PIPE_STATUS.FLAGS n) Bit.PIPE_STATUS.FLAGS.DARK = false) (hgen : x.stateGen = s.pipes[n].gen) :
    ∃ (t : State) (e : Delivery), exec (.dasShotEnd n) s = .next t ∧ t.pipes[n].queue = [e] ∧ e.body.length = d.body.length ∧
      (x.cfg.outMode ≠ 3 → ∀ w ∈ e.body, w.toNat % 256 = 0) ∧
      t.pipes[n].noise = s.pipes[n].noise ∧ t.pipes[n].cells = s.pipes[n].cells ∧
      (∀ w ∈ t.pipes[n].words, w.1 / 2 ^ 22 = x.toneSet → wPrevValid w.2 = false) ∧ t.mem = s.mem ∧ t.out = s.out ∧
      regsKept s t ([Obj.PIPE_STATUS.LATENCY n, Obj.PIPE_STATUS.FLAGS n, Obj.PIPE_STATUS.QUEUE_PEAK n] ++
        (s.pipes[n].sums.share.map (·.1) ++ List.range 16).flatMap (branchRegs n)) := by
  obtain ⟨t, hexec, hend⟩ := dasShotEnd_ends s n x (firstShot_ending hs hwin hkind hcal hdone)
  obtain ⟨_, hpipes, hmem, _, hout⟩ := hend.parts
  have htracked := State.shotTracked_cut s n x d g hcut hgrid hq hopen hover hrev hlight hflag
  obtain ⟨_, hpipes', hmem', _, hout'⟩ := htracked.parts
  obtain ⟨_, _, hqueue, hnoise, hcells⟩ := (s.shotTracked n x).shotCleared_pipe n x
  have hpipe := s.modPipe_self n (fun p =>
    { p with queue := [closedDelivery n x s.pipes[n] false d], queued := p.queued + 4, darkRun := 0 })
  have hwords := (s.shotTracked n x).shotCleared_words n x hcut (by rw [hpipes', hpipe]; exact hgen)
  rw [hpipes', hpipe] at hqueue hnoise hcells
  rw [← hpipes] at hqueue hnoise hcells hwords
  refine ⟨t, _, hexec, hqueue, ?_, shotWords_cut_quality _ x _ hcut, hnoise, hcells, hwords, hmem.trans hmem', hout.trans hout', ?_⟩
  · rw [closedDelivery, shotWords_cut _ x _ hcut, List.length_map, List.length_zipIdx]
  · refine regsKept.trans (t := s.shotTracked n x) (htracked.2.mono fun r hr => ?_) (regsKept.mono (hend.2.of_regs rfl) fun r hr => ?_)
    · rcases List.mem_cons.mp hr with rfl | hr
      · exact List.mem_append_left _ (by simp)
      · exact List.mem_append_right _ hr
    · exact List.mem_append_left _ (List.mem_cons_of_mem _ hr)

/-- Settles O13: the queue's own rules, the two halves of a shot's end, and the drain by what it takes. -/
theorem queueAndShotEnd : Obligations.QueueAndShotEnd :=
  ⟨⟨fun p pt w d hover hq hopen hroom hrev => by rw [p.offerWord_single pt w d hover hq hopen hroom, Delivery.addWord, hrev],
    fun p pt m w d hover hq hopen hroom hrev => by rw [p.offerWord_single pt w d hover hq hopen hroom, Delivery.addWord, hrev],
    PipePart.offerWord_refuses, PipePart.offerWord_ended, PipePart.offerWord_queued_le⟩,
   dasShotEnd_closes, dasShotEnd_cut, dasShotEnd_frame, dasShotEnd_none, queueDrain_takes, queueDrain_refused, queueDrain_part, queueDrain_whole⟩

end Sys2Proof.Machine
end

section
/-! SUPPORT. Sessions of the Ledger (R392, R393, R398 to R400; Machine/Session.lean): opened, authenticated, kept and ended. -/

namespace Sys2Proof.Machine

/-! ## OPEN (R398, R399) -/

theorem openSession_untaken (s : State) (r : Req) (slot level : BitVec 8) (nc nd : List Byte) (id : BitVec 32)
    (h : taken s r.path 0 = false) : exec (.openSession r slot level nc nd id) s = .next s := by
  change execOpenSession r slot level nc nd id s = _
  simp only [execOpenSession, h, Bool.not_false, true_or, if_true]

/-- What becomes of a well-formed OPEN that is heard, by its slot's key and the sessions there are. -/
theorem openSession_heard (s : State) (r : Req) (slot level : BitVec 8) (nc nd : List Byte) (id : BitVec 32) (hheard : heard s r.path 0)
    (hid : id ≠ 0) (hnew : sessionById s id = none) (hses : r.session = 0) (hseq : r.seq = 0) (htag : r.tag = zeroTag) :
    exec (.openSession r slot level nc nd id) s = .next (
      if (slotKey (Sys2Proof.counted s r) slot.toNat).isNone ∧
          !(slot == 0xFF && (Sys2Proof.counted s r).u Obj.LEDGER_UDP.ANON_OBSERVE == 1) then
        (((Sys2Proof.counted s r).refuse0503 r.path 1 0 0).bump Obj.LEDGER_UDP.AUTH_FAIL).violate 18 r.path none 0x0503
      else if 32 ≤ (Sys2Proof.counted s r).ledger.sessions.length then
        ((Sys2Proof.counted s r).sendResponse r.path (responseBytes (Sys2Proof.counted s r) r.path 1 0 0 0x0601 [] none)).violate 18 r.path none 0x0601
      else (Sys2Proof.counted s r).openWith r slot
        (if slot == 0xFF && (Sys2Proof.counted s r).u Obj.LEDGER_UDP.ANON_OBSERVE == 1 then 0 else level.toNat) nc nd id
        (slotKey (Sys2Proof.counted s r) slot.toNat)) := by
  obtain ⟨htaken, hroom⟩ := hheard
  have hfirst : ¬ ((!taken s r.path 0) = true ∨ id = 0 ∨ (sessionById s id).isSome = true) := by
    rw [htaken, hnew]
    simpa using hid
  have hform : ¬ (r.session ≠ 0 ∨ r.seq ≠ 0 ∨ r.tag ≠ zeroTag) := by simp [hses, hseq, htag]
  have hcount : Sys2Proof.counted s r = s.takeUp r.path 0 := by rw [Sys2Proof.counted, hses]
  change execOpenSession r slot level nc nd id s = _
  rw [execOpenSession, if_neg hfirst, if_neg (by simp [hroom]), hcount]
  simp only [if_neg hform]

/-- A slot that has a key is one of the sixteen. -/
theorem slotKey_lt {s : State} {slot : Nat} {key : List Byte} (h : slotKey s slot = some key) : slot < 16 := by
  by_contra hge
  rw [slotKey, if_neg fun hc => hge hc.1] at h
  exact absurd h (Option.some_ne_none key).symm

/-- The session that an OPEN under a slot's key begins. -/
def keyedSession (t : State) (r : Req) (slot : BitVec 8) (level : Nat) (nc nd key : List Byte) (id : BitVec 32) : Session :=
  { id := id, slot := slot, asked := level, nonceC := nc, nonceD := nd, path := r.path, index := freeIndex t, last := t.now,
    key := hmac key ([0x53] ++ nc ++ nd ++ le 4 id.toNat) }

/-- A session recorded, and counted in OPEN. -/
def State.withSession (t : State) (x : Session) : State :=
  let u : State := { t with ledger := { t.ledger with sessions := t.ledger.sessions ++ [x] } }
  u.put Obj.SESSIONS.OPEN u.ledger.sessions.length

theorem State.withSession_open (t : State) (x : Session) (hlen : t.ledger.sessions.length < 32) :
    (t.withSession x).u Obj.SESSIONS.OPEN = t.ledger.sessions.length + 1 := by
  have hone : (t.ledger.sessions ++ [x]).length = t.ledger.sessions.length + 1 := List.length_append
  refine (State.u_put_of_lt _ _ _ ?_).trans hone
  refine lt_of_eq_of_lt hone (?_ : t.ledger.sessions.length + 1 < 2 ^ 8)
  omega

theorem State.withSession_onlyRegs (t : State) (x : Session) :
    onlyRegs { t with ledger := (t.withSession x).ledger } (t.withSession x) [Obj.SESSIONS.OPEN] :=
  (onlyRegs.refl _ _).put (by simp) _

theorem State.openWith_keyed (t : State) (r : Req) (slot : BitVec 8) (level : Nat) (nc nd key : List Byte) (id : BitVec 32)
    (hseq : r.seq = 0) : t.openWith r slot level nc nd id (some key) =
      (t.withSession (keyedSession t r slot level nc nd key id)).sendResponse r.path
        (responseBytes (t.withSession (keyedSession t r slot level nc nd key id)) r.path 1 id 0 0 ([slot, 0] ++ padTo 16 nd) none) := by
  rw [State.openWith, hseq]
  rfl

theorem openSession_opens (s t : State) (r : Req) (slot level : BitVec 8) (nc nd key : List Byte) (id : BitVec 32) (hheard : heard s r.path 0)
    (hid : id ≠ 0) (hnew : sessionById s id = none) (hses : r.session = 0) (hseq : r.seq = 0) (htag : r.tag = zeroTag)
    (ht : t = Sys2Proof.counted s r) (hkey : slotKey t slot.toNat = some key) (hlen : t.ledger.sessions.length < 32) :
    ∃ (u : State) (x : Session), exec (.openSession r slot level nc nd id) s =
        .next (u.sendResponse r.path (responseBytes u r.path 1 id 0 0 ([slot, 0] ++ padTo 16 nd) none)) ∧
      u.ledger.sessions = t.ledger.sessions ++ [x] ∧ x.id = id ∧ x.slot = slot ∧ x.authed = false ∧ x.anon = false ∧
      x.path = r.path ∧ x.seq = 0 ∧ x.key = hmac key ([0x53] ++ nc ++ nd ++ le 4 id.toNat) ∧
      u.u Obj.SESSIONS.OPEN = t.ledger.sessions.length + 1 ∧ onlyRegs { t with ledger := u.ledger } u [Obj.SESSIONS.OPEN] := by
  have hslot : (slot == 0xFF) = false := by
    have hlt := slotKey_lt hkey
    rw [beq_eq_false_iff_ne]
    rintro rfl
    exact absurd hlt (by decide)
  refine ⟨t.withSession (keyedSession t r slot level.toNat nc nd key id), _, ?_, rfl, rfl, rfl, rfl, rfl, rfl, rfl, rfl,
    t.withSession_open _ hlen, t.withSession_onlyRegs _⟩
  rw [openSession_heard s r slot level nc nd id hheard hid hnew hses hseq htag, ← ht, hkey]
  simp only [hslot, Option.isNone_some, Bool.false_eq_true, false_and, Bool.false_and, if_false, if_neg (Nat.not_le.mpr hlen),
    t.openWith_keyed r slot level.toNat nc nd key id hseq]

theorem openSession_keyless (s t : State) (r : Req) (slot level : BitVec 8) (nc nd : List Byte) (id : BitVec 32) (hheard : heard s r.path 0)
    (hid : id ≠ 0) (hnew : sessionById s id = none) (hses : r.session = 0) (hseq : r.seq = 0) (htag : r.tag = zeroTag)
    (ht : t = Sys2Proof.counted s r) (hkey : slotKey t slot.toNat = none) (hanon : t.u Obj.LEDGER_UDP.ANON_OBSERVE = 0) :
    exec (.openSession r slot level nc nd id) s =
      .next (((t.refuse0503 r.path 1 0 0).bump Obj.LEDGER_UDP.AUTH_FAIL).violate 18 r.path none 0x0503) := by
  rw [openSession_heard s r slot level nc nd id hheard hid hnew hses hseq htag, ← ht, hkey]
  simp [hanon]

/-! ## AUTH (R398) -/

theorem auth_proves (s t : State) (r : Req) (proof k : List Byte) (x : Session) (hheard : heard s r.path r.session)
    (hx : sessionById s r.session = some x) (hauth : x.authed = false) (hpath : x.path.same r.path = true) (ht : t = Sys2Proof.counted s r)
    (hkey : slotKey t x.slot.toNat = some k) (htag : requestTag t x.key 2 r (padTo 32 proof) = r.tag) (hseq : r.seq ≠ 0) :
    exec (.auth r proof) s = .next (if sessionHmac k 0x41 x ≠ proof then t.authFails r x else t.authDone r x k) := by
  obtain ⟨htaken, hroom⟩ := hheard
  rw [ht, Sys2Proof.counted] at hkey htag ⊢
  change execAuth r proof s = _
  rw [execAuth, if_neg (by simp [htaken]), if_neg (by simp [hroom]), hx]
  simp only [hauth, hpath, hkey, htag, hseq, Bool.false_eq_true, Bool.not_true, ne_eq, not_true_eq_false, if_false]

theorem auth_answers (s t : State) (r : Req) (proof k : List Byte) (x : Session) (hheard : heard s r.path r.session)
    (hx : sessionById s r.session = some x) (hauth : x.authed = false) (hpath : x.path.same r.path = true) (ht : t = Sys2Proof.counted s r)
    (hkey : slotKey t x.slot.toNat = some k) (htag : requestTag t x.key 2 r (padTo 32 proof) = r.tag) (hseq : r.seq ≠ 0) :
    (sessionHmac k 0x41 x = proof → exec (.auth r proof) s = .next (t.authDone r x k)) ∧
    (sessionHmac k 0x41 x ≠ proof → exec (.auth r proof) s = .next (t.authFails r x)) := by
  rw [auth_proves s t r proof k x hheard hx hauth hpath ht hkey htag hseq]
  exact ⟨fun h => by rw [if_neg (not_not.mpr h)], fun h => by rw [if_pos h]⟩

/-- The session of a number as a change leaves it. -/
theorem State.mem_modSession {s : State} {id : BitVec 32} {f : Session → Session} {y : Session}
    (hy : y ∈ (s.modSession id f).ledger.sessions) (h : y.id = id) : ∃ z, y = f z := by
  obtain ⟨z, _, rfl⟩ := List.mem_map.mp hy
  by_cases hz : z.id = id
  · exact ⟨z, if_pos hz⟩
  · rw [if_neg hz] at h
    exact absurd h hz

theorem State.authDone_authenticates (s : State) (r : Req) (x : Session) (k : List Byte) :
    ∃ u : State, s.authDone r x k = u.reply x 2 r 0 (le 1 (min x.asked (s.u (Obj.KEY_SLOT.LEVEL x.slot.toNat))) ++ [0] ++
        le 2 (s.u Obj.LEDGER_UDP.TIMEOUT) ++ le 2 0 ++ sessionHmac k 0x44 x) ∧
      (∀ y ∈ u.ledger.sessions, y.id = x.id → y.authed = true ∧ y.level = min x.asked (s.u (Obj.KEY_SLOT.LEVEL x.slot.toNat))) := by
  have htimeout : ∀ t : State, (t.bump (Obj.KEY_SLOT.USES x.slot.toNat)).u Obj.LEDGER_UDP.TIMEOUT = t.u Obj.LEDGER_UDP.TIMEOUT :=
    fun t => State.u_put_ne _ _ _ _ (by dsimp only [Obj.KEY_SLOT.USES, Obj.LEDGER_UDP.TIMEOUT]; omega)
  refine ⟨_, by rw [State.authDone, htimeout]; rfl, fun y hy h => ?_⟩
  rw [State.bump_eq, State.put_ledger] at hy
  obtain ⟨z, rfl⟩ := State.mem_modSession hy h
  exact ⟨rfl, rfl⟩

/-! ## KEEPALIVE, CLOSE and what ends a session (R400) -/

theorem closeSession_closes (s t : State) (r : Req) (x : Session) (h : gate s 3 r [] = .go t x) :
    exec (.closeSession r) s = .next ((t.reply x 3 r 0 []).endSession x.id) := by
  change execCloseSession r s = _
  rw [execCloseSession, h]

theorem keepalive_answers (s t : State) (r : Req) (x : Session) (h : gate s 4 r [] = .go t x) :
    exec (.keepalive r) s = .next (t.reply x 4 r 0 []) := by
  change execKeepalive r s = _
  rw [execKeepalive, answered, h]

theorem timeouts_authed (s : State) (id : BitVec 32) (x : Session) (hx : sessionById s id = some x) (h : x.authed = true) :
    exec (.sessionExpiry id) s = .next (s.endSession id) ∧ exec (.authTimeout id) s = .next s := by
  change execSessionExpiry id s = _ ∧ execAuthTimeout id s = _
  simp only [execSessionExpiry, execAuthTimeout, hx, h, if_true, and_self]

theorem timeouts_unauthed (s : State) (id : BitVec 32) (x : Session) (hx : sessionById s id = some x) (h : x.authed = false) :
    exec (.authTimeout id) s = .next (s.endSession id) ∧ exec (.sessionExpiry id) s = .next s := by
  change execAuthTimeout id s = _ ∧ execSessionExpiry id s = _
  simp only [execSessionExpiry, execAuthTimeout, hx, h, Bool.false_eq_true, if_false, and_self]

/-- The records of the sessions but one, and the count of those that stay. -/
def State.withoutSession (s : State) (id : BitVec 32) : State :=
  let t : State := { s with ledger := { s.ledger with sessions := s.ledger.sessions.filter (fun x => x.id != id) } }
  t.put Obj.SESSIONS.OPEN t.ledger.sessions.length

/-- A session that subscribed to no stream leaves its record, and OPEN counts those that stay. -/
theorem State.endSession_leaves (s : State) (id : BitVec 32) (h : ∀ k : Fin 256, s.streams[k].bySubscribe = false) :
    ∃ u : State, s.endSession id = u ∧ u.ledger.sessions = s.ledger.sessions.filter (fun x => x.id != id) ∧
      u.u Obj.SESSIONS.OPEN = u.ledger.sessions.length % 2 ^ 8 ∧ u.streams = s.streams ∧ u.mem = s.mem := by
  have hone : s.endSession id = s.withoutSession id := by
    rw [State.endSession]
    refine overAll_induct (P := (· = s.withoutSession id)) (fun t k ht => ?_) _ rfl
    subst ht
    exact if_neg fun hk => Bool.false_ne_true ((h k).symm.trans hk.1)
  exact ⟨_, hone, rfl, State.u_put_self _ _ _, rfl, rfl⟩

end Sys2Proof.Machine
end

section
/-! SUPPORT. READ of an object (R149, R381, R386, R392 to R394, R415, R528; Machine/Objs.lean): its type and bytes, and the measures a read
restarts. -/

namespace Sys2Proof.Machine

/-! ## Bytes -/

theorem le_length (n v : Nat) : (le n v).length = n := by
  induction n generalizing v with
  | zero => rfl
  | succ n ih => rw [le, List.length_cons, ih]

/-- `n` bytes hold a number up to 2 to the power 8 n. -/
theorem le_mod (n v : Nat) : le n (v % 2 ^ (8 * n)) = le n v := by
  induction n generalizing v with
  | zero => rfl
  | succ n ih =>
    have hlow : v % 2 ^ (8 * (n + 1)) % 256 = v % 256 :=
      Nat.mod_mod_of_dvd v ⟨2 ^ (8 * n), by rw [Nat.mul_add, Nat.pow_add]; exact Nat.mul_comm _ _⟩
    have hhigh : v % 2 ^ (8 * (n + 1)) / 256 = v / 256 % 2 ^ (8 * n) := by
      rw [Nat.mul_add, Nat.pow_add, Nat.mul_comm]
      exact Nat.mod_mul_right_div_self v 256 (2 ^ (8 * n))
    have hbyte : BitVec.ofNat 8 (v % 2 ^ (8 * (n + 1))) = BitVec.ofNat 8 v := BitVec.eq_of_toNat_eq (by simpa using hlow)
    rw [le, le, hbyte, hhigh, ih]

/-- An entry of the day book is 32 bytes (R413). -/
theorem DbEntry.bytes_length (e : DbEntry) : e.bytes.length = 32 := by
  simp only [DbEntry.bytes, List.length_append, le_length]

/-! ## What a READ answers -/

theorem readMsg_asked {s t : State} {x : Session} {r : Req} {idx sub : Nat} {staged : Bool} (h : asked s t x r idx sub staged) :
    s.readMsg r idx sub (if staged then 1 else 0) =
      (t.readFor x idx sub staged).1.reply x 0x10 r (t.readFor x idx sub staged).2.1 (t.readFor x idx sub staged).2.2 := by
  have hbit : (if staged = true then 1 else 0 : Nat).testBit 0 = staged := by cases staged <;> rfl
  rw [State.readMsg, h.1]
  simp only [hbit]

theorem State.readFor_value (t : State) (x : Session) (idx sub : Nat) (staged : Bool) (row : ObjRow) (hl : lookup t idx sub = .ok row)
    (hacc : row.acc ≠ .wo) (hty : isBlob row.ty = false) : t.readFor x idx sub staged =
      (t.afterRead x (idx * 256 + sub), 0, le 1 row.ty.code ++ [0] ++ le row.ty.bytes (valueOf t x staged (idx * 256 + sub) row)) := by
  have hcode : readCode t x staged (idx * 256 + sub) row = 0 := by simp [readCode, hacc, hty]
  rw [State.readFor, hl]
  simp only [hcode, ne_eq, not_true_eq_false, if_false, objBytes, hty, Bool.false_eq_true]
  rfl

theorem readObj_value (s t : State) (x : Session) (r : Req) (idx : BitVec 16) (sub : BitVec 8) (staged : Bool) (row : ObjRow)
    (h : asked s t x r idx.toNat sub.toNat staged) (hl : lookup t idx.toNat sub.toNat = .ok row) (hacc : row.acc ≠ .wo)
    (hty : isBlob row.ty = false) : exec (.readObj r idx sub staged) s =
      .next ((t.afterRead x (idx.toNat * 256 + sub.toNat)).reply x 0x10 r 0
        (le 1 row.ty.code ++ [0] ++ le row.ty.bytes (valueOf t x staged (idx.toNat * 256 + sub.toNat) row))) := by
  refine congrArg Host.Outcome.next ((readMsg_asked h).trans ?_)
  rw [t.readFor_value x _ _ staged row hl hacc hty]

theorem readObj_writeOnly (s t : State) (x : Session) (r : Req) (idx : BitVec 16) (sub : BitVec 8) (staged : Bool) (row : ObjRow)
    (h : asked s t x r idx.toNat sub.toNat staged) (hl : lookup t idx.toNat sub.toNat = .ok row) (hacc : row.acc = .wo) :
    exec (.readObj r idx sub staged) s = .next (t.reply x 0x10 r 0x0203 []) := by
  have hfor : t.readFor x idx.toNat sub.toNat staged = (t, 0x0203, []) := by
    rw [State.readFor, hl]
    simp [readCode, hacc]
  refine congrArg Host.Outcome.next ((readMsg_asked h).trans ?_)
  rw [hfor]

/-! ## Objects that are there outside RECOVERY (R390, R516) -/

theorem lookup_serving {t : State} {idx sub base k : Nat} {rows : List ObjRow} {row : ObjRow} (hb : t.u Obj.HEALTH.BOOT_STATE ≠ 4)
    (hrec : Obj.record idx = some (base, rows)) (hrow : Obj.rowOf rows sub = some (row, k)) : lookup t idx sub = .ok row := by
  rw [lookup, if_neg fun hc => hb hc.1, hrec]
  simp only [hrow]

/-- A READ of an object that a register holds: its bytes are the register's, whatever the read then restarts. -/
theorem readMsg_register {s t : State} {x : Session} {r : Req} {idx sub base k : Nat} {rows : List ObjRow} {row : ObjRow} (reg : Reg)
    (h : asked s t x r idx sub false) (hrec : Obj.record idx = some (base, rows)) (hrow : Obj.rowOf rows sub = some (row, k))
    (hacc : row.acc ≠ .wo) (hty : isBlob row.ty = false) (hkey : idx * 256 + sub = reg.key) (hheld : computed t x reg.key = none)
    (hdflt : defaultOf reg.key row = reg.dflt) :
    ∃ b : List Byte, s.readMsg r idx sub 0 = (t.afterRead x reg.key).reply x 0x10 r 0 b ∧ b.drop 2 = le (b.length - 2) (t.u reg) := by
  have hvalue : valueOf t x false reg.key row = t.u reg % 2 ^ (8 * row.ty.bytes) := by
    simp only [valueOf, hheld, hdflt, Option.getD_none, Bool.false_eq_true, if_false]
    rfl
  have hread := readMsg_asked h
  rw [t.readFor_value x idx sub false row (lookup_serving h.2 hrec hrow) hacc hty, hkey, hvalue, le_mod] at hread
  refine ⟨_, hread, ?_⟩
  simp only [List.length_append, le_length, List.length_cons, List.length_nil, Nat.zero_add, Nat.reduceAdd, Nat.add_sub_cancel_left]
  rfl

/-! ## Measures that a read restarts -/

/-- QUEUE_PEAK of each port is an object that its register holds. -/
theorem queuePeak_object (n : Port) : Obj.record (0x3803 + 0x100 * n.val) = some (0x3803, Obj.PIPE_STATUS.rows) ∧
    queuePeakOf (Obj.PIPE_STATUS.QUEUE_PEAK n).key = some n ∧
    defaultOf (Obj.PIPE_STATUS.QUEUE_PEAK n).key { sub := 0x06, ty := .u32, acc := .ro } = 0 := by
  revert n
  decide

theorem queuePeak_computed (t : State) (x : Session) (n : Port) : computed t x (Obj.PIPE_STATUS.QUEUE_PEAK n).key = none := by
  fin_cases n <;> rfl

theorem queuePeak_restarts (s t : State) (x : Session) (r : Req) (n : Port) (h : asked s t x r (0x3803 + 0x100 * n.val) 6 false) :
    ∃ b : List Byte, exec (.queuePeak r n) s = .next ((t.put (Obj.PIPE_STATUS.QUEUE_PEAK n) t.pipes[n].queued).reply x 0x10 r 0 b) ∧
      b.drop 2 = le (b.length - 2) (t.u (Obj.PIPE_STATUS.QUEUE_PEAK n)) := by
  obtain ⟨hrec, hport, hdflt⟩ := queuePeak_object n
  obtain ⟨b, hread, hbytes⟩ := readMsg_register (Obj.PIPE_STATUS.QUEUE_PEAK n) h hrec rfl (by decide) rfl rfl (queuePeak_computed t x n) hdflt
  rw [State.afterRead, hport] at hread
  exact ⟨b, congrArg Host.Outcome.next hread, hbytes⟩

theorem compLatMax_restarts (s t : State) (x : Session) (r : Req) (h : asked s t x r 0x6100 6 false) :
    ∃ b : List Byte, exec (.compLatMax r) s = .next ((t.put Obj.COMPRESSION.COMP_LAT_MAX 0).reply x 0x10 r 0 b) ∧
      b.drop 2 = le (b.length - 2) (t.u Obj.COMPRESSION.COMP_LAT_MAX) := by
  obtain ⟨b, hread, hbytes⟩ := readMsg_register Obj.COMPRESSION.COMP_LAT_MAX h rfl rfl (by decide) rfl rfl rfl rfl
  exact ⟨b, congrArg Host.Outcome.next hread, hbytes⟩

theorem tMax_restarts (s t : State) (x : Session) (r : Req) (h : asked s t x r 0x7A00 9 false) :
    ∃ b : List Byte, exec (.tMax r) s = .next (t.restartTMax.reply x 0x10 r 0 b) ∧ b.drop 2 = le (b.length - 2) (t.u Obj.HEALTH.T_MAX) := by
  obtain ⟨b, hread, hbytes⟩ := readMsg_register Obj.HEALTH.T_MAX h rfl rfl (by decide) rfl rfl rfl rfl
  exact ⟨b, congrArg Host.Outcome.next hread, hbytes⟩

/-! ## The day book (R415) -/

/-- A read takes at most 40 entries, so the answer holds them all. -/
theorem readEntries_fits (t : State) (x : Session) : ((readEntries t x).1.flatMap DbEntry.bytes).length ≤ 1400 := by
  have hsum : ∀ l : List DbEntry, (l.flatMap DbEntry.bytes).length = 32 * l.length := fun l => by
    induction l with
    | nil => rfl
    | cons e l ih => rw [List.flatMap_cons, List.length_append, DbEntry.bytes_length, ih, List.length_cons]; omega
  have hforty : (readEntries t x).1.length ≤ 40 := List.length_take_le _ _
  rw [hsum]
  omega

theorem entries_reads (s t : State) (x : Session) (r : Req) (h : asked s t x r 0x7F00 5 false) :
    exec (.entries r) s = .next ((t.modSession x.id (fun y =>
        { y with frm := some (readEntries t x).2.1, lost := y.lost + (readEntries t x).2.2 })).reply x 0x10 r 0
      (le 1 Ty.blob.code ++ [0] ++ (readEntries t x).1.flatMap DbEntry.bytes)) := by
  have hl : lookup t 0x7F00 5 = .ok { sub := 0x05, ty := .blob, acc := .ro } := lookup_serving h.2 rfl rfl
  have hbytes : blobBytes t x false (0x7F00 * 256 + 5) = (readEntries t x).1.flatMap DbEntry.bytes := rfl
  have hcode : readCode t x false (0x7F00 * 256 + 5) { sub := 0x05, ty := .blob, acc := .ro } = 0 := by
    rw [readCode, hbytes, if_neg (by decide), if_neg fun hc => Nat.not_lt.mpr (readEntries_fits t x) hc.2]
  refine congrArg Host.Outcome.next ((readMsg_asked h).trans ?_)
  rw [State.readFor, hl]
  simp only [hcode, ne_eq, not_true_eq_false, if_false]
  rfl

/-- Settles O42: OPEN, AUTH, KEEPALIVE and CLOSE by their checks, the ends of a session, and the reads by what each returns and restarts. -/
theorem sessionsAndReads : Obligations.SessionsAndReads :=
  ⟨openSession_untaken, openSession_opens, openSession_keyless, auth_answers, State.authDone_authenticates, closeSession_closes,
   keepalive_answers, timeouts_authed, timeouts_unauthed, State.endSession_leaves, fun _ _ => rfl, readObj_value, readObj_writeOnly,
   entries_reads, queuePeak_restarts, compLatMax_restarts, tMax_restarts⟩

end Sys2Proof.Machine
end

section
/-! SUPPORT. The words of a profile in TEMPERATURE mode (R160; Machine/Raman.lean). -/

namespace Sys2Proof.Machine

/-! ## Round half to even -/

theorem floor_le_roundEven (q : Rat) : q.floor ≤ roundEven q := by
  rw [roundEven]
  split_ifs <;> omega

theorem roundEven_le_add_half (q : Rat) : (roundEven q : Rat) ≤ q + 1 / 2 := by
  have hle := q.floor_le
  rw [roundEven]
  split_ifs <;> push_cast <;> linarith

/-- A number between two whole ones rounds to one between them. -/
theorem roundEven_mem {q : Rat} {a b : Int} (ha : (a : Rat) ≤ q) (hb : q ≤ b) : a ≤ roundEven q ∧ roundEven q ≤ b := by
  refine ⟨(Rat.le_floor_iff.mpr ha).trans (floor_le_roundEven q), Int.lt_add_one_iff.mp ?_⟩
  have hlt : (roundEven q : Rat) < (b + 1 : Int) := by
    have := roundEven_le_add_half q
    push_cast
    linarith
  exact_mod_cast hlt

/-! ## The word (R160) -/

/-- A value within 24 bits stands in its field as it is. -/
theorem field24_fits (v : Int) (q : Nat) (hlow : -(2 ^ 23) ≤ v) (hhigh : v < 2 ^ 23) : field24 v q = valueWord v q := by
  rw [field24, if_pos ⟨hlow, hhigh⟩]

/-- The temperature of R160 at a log ratio and a distance; 0 where the denominator is 0. -/
def pointKelvin (s : State) (n : Port) (lnr dist : Rat) : Rat :=
  f32Val (s.u (Obj.RAMAN.GAMMA n)) / (s.raman[n].lnc - lnr - s.raman[n].dalpha * dist)

/-- A temperature within the range of R160 fits the field in 1/4,096 K. -/
theorem profileWord_inside (s : State) (n : Port) (lnr dist : Rat) (q : Nat) (hmode : s.u (Obj.RAMAN.OUT_MODE n) = 0)
    (hden : s.raman[n].lnc - lnr - s.raman[n].dalpha * dist ≠ 0) (hlow : 0 ≤ pointKelvin s n lnr dist)
    (hhigh : pointKelvin s n lnr dist ≤ 2047) :
    profileWord s n lnr dist q = valueWord (roundEven (pointKelvin s n lnr dist * 4096)) q := by
  have hword : profileWord s n lnr dist q = field24 (roundEven (pointKelvin s n lnr dist * 4096)) q := by
    rw [profileWord, if_neg (by rw [hmode]; decide)]
    exact if_neg fun h => h.elim hden fun h => h.elim (not_lt.mpr hlow) (not_lt.mpr hhigh)
  obtain ⟨h0, h1⟩ := roundEven_mem (q := pointKelvin s n lnr dist * 4096) (a := 0) (b := 2047 * 4096)
    (by push_cast; linarith) (by push_cast; linarith)
  rw [hword, field24_fits _ q (by omega) (by omega)]

/-- A temperature outside the range of R160 leaves value and quality 0. -/
theorem profileWord_outside (s : State) (n : Port) (lnr dist : Rat) (q : Nat) (hmode : s.u (Obj.RAMAN.OUT_MODE n) = 0)
    (hout : pointKelvin s n lnr dist < 0 ∨ 2047 < pointKelvin s n lnr dist) : profileWord s n lnr dist q = 0 := by
  rw [profileWord, if_neg (by rw [hmode]; decide)]
  exact if_pos (.inr hout)

/-- Settles O15: the word by the side of the range its temperature lies on. -/
theorem ramanTemperature : Obligations.RamanTemperature :=
  ⟨profileWord_inside, profileWord_outside⟩

end Sys2Proof.Machine
end

section
/-! SUPPORT. The averaging sets (R153 to R159; Machine/Raman.lean, Machine/Ports.lean): an average handed to the computation, and the record of a
DTS shot as its window closes. -/

namespace Sys2Proof.Machine

/-! ## The sets of a port -/

@[simp] theorem State.setOf_modSet_self (s : State) (n : Port) (a : Fin 8) (f : AvgSet → AvgSet) :
    setOf (s.modSet n a f) n a = f (setOf s n a) := by
  rw [setOf, State.modSet, State.modRaman_self]
  exact Vector.getElem_set_self _

theorem State.setOf_modSet_other (s : State) (n : Port) (a b : Fin 8) (f : AvgSet → AvgSet) (h : b ≠ a) :
    setOf (s.modSet n a f) n b = setOf s n b := by
  rw [setOf, State.modSet, State.modRaman_self]
  exact Vector.getElem_set_ne a.isLt b.isLt fun e => h (Fin.ext e.symm)

@[simp] theorem State.setOf_put (s : State) (n : Port) (a : Fin 8) (r : Reg) (v : Nat) : setOf (s.put r v) n a = setOf s n a := rfl

/-- A change of a port's Raman engine that leaves its sets. -/
theorem State.setOf_modRaman (s : State) (n : Port) (a : Fin 8) (f : RamanPart → RamanPart) (h : ∀ r, (f r).sets = r.sets) :
    setOf (s.modRaman n f) n a = setOf s n a := by
  rw [setOf, State.modRaman_self, h, setOf]

theorem State.ready_modSet (s : State) (n : Port) (a : Fin 8) (f : AvgSet → AvgSet) : (s.modSet n a f).raman[n].ready = s.raman[n].ready := by
  rw [State.modSet, State.modRaman_self]

/-- Sums whose words are neither poisoned nor in error read back as they lie. -/
theorem State.readSums_sound (s : State) (n : Port) (a : Fin 8) (hflips : s.flips = []) (hbad : (setOf s n a).cur.bad = []) :
    s.readSums n a = s := by
  simp [State.readSums, hflips, hbad]

/-! ## An average is complete (R157, R158) -/

/-- What an average completed now leaves its dual-ended partner to read (R165). -/
def doneNow (s : State) (n : Port) (v : Average) : DonePart := ⟨s.now, ramanBin s n, firstPoint s n v, ramanPoints s n v⟩

/-- NOISE_A after an average (R161). -/
def noiseShown (v : Average) : Nat := (freeRound (sigmaOf v).num (sigmaOf v).den).toNat

theorem State.completeAverage_computes (s : State) (n : Port) (a : Fin 8) (hidle : (setOf s n a).computing = none) (hflips : s.flips = [])
    (hbad : (setOf s n a).cur.bad = []) : s.completeAverage n a =
      (((((s.modSet n a (fun x => { x with cur := {} })).put (Obj.AVG_SET.PROGRESS n a) 0).modSet n a (fun x => { x with
        computing := some { (setOf s n a).cur with epoch := s.now }, done := some (doneNow s n (setOf s n a).cur),
        swapped := !x.swapped })).modRaman n (fun r => { r with ready := r.ready ++ [a] })).put (Obj.AVG_SET.DONE n a)
        (epochVal (s.now * 256))).put (Obj.RAMAN_STATUS.NOISE_A n) (noiseShown (setOf s n a).cur) := by
  rw [State.completeAverage]
  simp only [hidle, Option.isSome_none, Bool.false_eq_true, if_false, s.readSums_sound n a hflips hbad]
  rfl

theorem State.completeAverage_discards (s : State) (n : Port) (a : Fin 8) (hbusy : (setOf s n a).computing.isSome = true) :
    s.completeAverage n a = ((s.modSet n a (fun x => { x with cur := {} })).put (Obj.AVG_SET.PROGRESS n a) 0).dropAverage n a := by
  rw [State.completeAverage]
  simp only [hbusy, if_true]

theorem averageComplete_eq (s : State) (n : Port) (a : Fin 8) (h : s.u (Obj.AVG_SET.N_AVG n a) ≤ (setOf s n a).cur.shots) :
    exec (.averageComplete n a) s = .next (s.completeAverage n a) := by
  change execAverageComplete n a s = _
  rw [execAverageComplete, if_pos h]

theorem averageComplete_swaps (s : State) (n : Port) (a : Fin 8) (hfull : s.u (Obj.AVG_SET.N_AVG n a) ≤ (setOf s n a).cur.shots)
    (hidle : (setOf s n a).computing = none) (hflips : s.flips = []) (hbad : (setOf s n a).cur.bad = []) :
    ∃ t : State, exec (.averageComplete n a) s = .next t ∧ (setOf t n a).cur = {} ∧
      (setOf t n a).computing = some { (setOf s n a).cur with epoch := s.now } ∧ t.raman[n].ready = s.raman[n].ready ++ [a] ∧
      t.u (Obj.AVG_SET.PROGRESS n a) = 0 ∧ t.mem = s.mem ∧ t.pipes = s.pipes ∧
      regsKept s t [Obj.AVG_SET.PROGRESS n a, Obj.AVG_SET.DONE n a, Obj.RAMAN_STATUS.NOISE_A n] := by
  refine ⟨_, averageComplete_eq s n a hfull, ?_⟩
  rw [s.completeAverage_computes n a hidle hflips hbad]
  refine ⟨?_, ?_, ?_, ?_, rfl, rfl, ?_⟩
  · simp only [State.setOf_put, State.setOf_modRaman, implies_true, State.setOf_modSet_self]
  · simp only [State.setOf_put, State.setOf_modRaman, implies_true, State.setOf_modSet_self]
  · simp only [State.put_raman, State.modRaman_self, State.ready_modSet]
  · rw [State.u_put_ne _ _ _ _ (by dsimp only [Obj.RAMAN_STATUS.NOISE_A, Obj.AVG_SET.PROGRESS]; omega),
      State.u_put_ne _ _ _ _ (by dsimp only [Obj.AVG_SET.DONE, Obj.AVG_SET.PROGRESS]; omega)]
    exact State.u_put_self _ _ _
  · exact ((((regsKept.refl s _).put (t := s.modSet n a _) (by simp) _).put (t := State.modRaman _ n _) (by simp) _)).put (by simp) _

theorem averageComplete_discards (s : State) (n : Port) (a : Fin 8) (c : Average)
    (hfull : s.u (Obj.AVG_SET.N_AVG n a) ≤ (setOf s n a).cur.shots) (hbusy : (setOf s n a).computing = some c)
    (hroom : s.u (Obj.AVG_SET.DROPPED n a) + 1 < 2 ^ 32) :
    ∃ t : State, exec (.averageComplete n a) s = .next t ∧ (setOf t n a).cur = {} ∧ (setOf t n a).computing = some c ∧
      t.u (Obj.AVG_SET.DROPPED n a) = s.u (Obj.AVG_SET.DROPPED n a) + 1 ∧
      regsKept s t [Obj.AVG_SET.PROGRESS n a, Obj.AVG_SET.DROPPED n a] := by
  have heq := s.completeAverage_discards n a (by rw [hbusy]; rfl)
  have hdropped : ((s.modSet n a (fun x => { x with cur := {} })).put (Obj.AVG_SET.PROGRESS n a) 0).u (Obj.AVG_SET.DROPPED n a) =
      s.u (Obj.AVG_SET.DROPPED n a) := State.u_put_ne _ _ _ _ (by dsimp only [Obj.AVG_SET.PROGRESS, Obj.AVG_SET.DROPPED]; omega)
  refine ⟨_, averageComplete_eq s n a hfull, ?_⟩
  rw [heq, State.dropAverage]
  refine ⟨?_, ?_, ?_, ?_⟩
  · simp only [State.bump_eq, State.setOf_put, State.setOf_modSet_self]
  · simp only [State.bump_eq, State.setOf_put, State.setOf_modSet_self, hbusy]
  · rw [State.u_bump_self _ _ (by rw [hdropped]; exact hroom), hdropped]
  · exact ((regsKept.refl s _).put (t := s.modSet n a _) (by simp) _).put (by simp) _

/-! ## The record of a shot (R153 to R159) -/

/-- The registers that show what a DTS record holds before its shot is added or left out: its baseline and its overrange samples. -/
def recordRegs (n : Nat) : List Reg :=
  [Obj.RAMAN_STATUS.BASE_S n, Obj.RAMAN_STATUS.BASE_A n, Obj.RAMAN_STATUS.OVR_S n, Obj.RAMAN_STATUS.OVR_A n, Obj.RAMAN_STATUS.FLAGS n]

/-- The overrange samples of one input's record, counted and flagged (R155). -/
def State.showOver (s : State) (r fl : Reg) (b : Nat) (l : List Int) : State :=
  if (overAt l).length = 0 then s else (s.add r (overAt l).length).setBit fl b

/-- A record's baseline and overrange samples shown, as `State.addDts` begins. -/
def State.showRecord (s : State) (n : Port) (x : Shot) (r : RamanRecord) : State :=
  let b := baseline (setOf s n ⟨x.aux % 8, Nat.mod_lt _ (by decide)⟩) x r
  let fl := Obj.RAMAN_STATUS.FLAGS n
  (((s.puti (Obj.RAMAN_STATUS.BASE_S n) b.meanS).puti (Obj.RAMAN_STATUS.BASE_A n) b.meanA).showOver (Obj.RAMAN_STATUS.OVR_S n) fl
    Bit.RAMAN_STATUS.FLAGS.SAT_S (ramanSamples x r.stokes)).showOver (Obj.RAMAN_STATUS.OVR_A n) fl Bit.RAMAN_STATUS.FLAGS.SAT_A
    (ramanSamples x r.anti)

theorem onlyRegs_showOver {s t : State} {l : List Reg} (h : onlyRegs s t l) {r fl : Reg} (hr : r ∈ l) (hfl : fl ∈ l) (b : Nat) (m : List Int) :
    onlyRegs s (t.showOver r fl b m) l := by
  rw [State.showOver]
  split
  · exact h
  · exact (h.put hr _).put hfl _

theorem State.onlyRegs_showRecord (s : State) (n : Port) (x : Shot) (r : RamanRecord) : onlyRegs s (s.showRecord n x r) (recordRegs n) :=
  onlyRegs_showOver (onlyRegs_showOver (((onlyRegs.refl s _).put (by simp [recordRegs]) _).put (by simp [recordRegs]) _)
    (by simp [recordRegs]) (by simp [recordRegs]) _ _) (by simp [recordRegs]) (by simp [recordRegs]) _ _

theorem State.showRecord_raman (s : State) (n : Port) (x : Shot) (r : RamanRecord) : (s.showRecord n x r).raman = s.raman :=
  by rw [(s.onlyRegs_showRecord n x r).1]

theorem State.showRecord_setOf (s : State) (n : Port) (x : Shot) (r : RamanRecord) (a : Fin 8) :
    setOf (s.showRecord n x r) n a = setOf s n a := by
  rw [setOf, s.showRecord_raman, setOf]

theorem State.showRecord_flips (s : State) (n : Port) (x : Shot) (r : RamanRecord) : (s.showRecord n x r).flips = s.flips :=
  by rw [(s.onlyRegs_showRecord n x r).1]

/-- A set's own registers are none of those that show a record. -/
theorem State.showRecord_dropped (s : State) (n : Port) (x : Shot) (r : RamanRecord) (a : Fin 8) :
    (s.showRecord n x r).u (Obj.AVG_SET.DROPPED n a) = s.u (Obj.AVG_SET.DROPPED n a) := by
  refine (s.onlyRegs_showRecord n x r).2 _ ?_
  simp only [recordRegs, List.forall_mem_cons, Obj.RAMAN_STATUS.BASE_S, Obj.RAMAN_STATUS.BASE_A, Obj.RAMAN_STATUS.OVR_S,
    Obj.RAMAN_STATUS.OVR_A, Obj.RAMAN_STATUS.FLAGS, Obj.AVG_SET.DROPPED, List.not_mem_nil, false_implies, implies_true, and_true]
  omega

/-- A set after one more shot of its average (R157), with the baseline that later shots may fall back on (R154). -/
def withShot (v : AvgSet) (x : Shot) (i : Int) (r : RamanRecord) : AvgSet :=
  { addedTo v x i r with lastBase := if baseOverlaps x then v.lastBase else some (baselineOf r) }

/-- A shot joins the average of its set, as `State.addDts` ends; `most` is N_AVG. -/
def State.joinSet (s : State) (n : Port) (a : Fin 8) (x : Shot) (r : RamanRecord) (i : Int) (most : Nat) : State :=
  let t := if most ≤ (setOf s n a).cur.shots then s.completeAverage n a else s
  let t := if baseOverlaps x then t.setBit (Obj.RAMAN_STATUS.FLAGS n) Bit.RAMAN_STATUS.FLAGS.BASE_OLD else t
  let t := if (setOf t n a).cur.shots = 0 then t else t.readSums n a
  let t := t.modSet n a (fun v => withShot v x i r)
  t.put (Obj.AVG_SET.PROGRESS n a) (setOf t n a).cur.shots

/-- The record of a DTS shot is shown; the shot is then dropped, of an average given up, or joins its set. -/
theorem State.addDts_eq (s : State) (n : Port) (a : Fin 8) (x : Shot) (r : RamanRecord) (ha : x.aux % 8 = a.val) : s.addDts n x r =
    if x.cut || x.invalid then (s.showRecord n x r).dropAverage n a
    else if x.avgGen ≠ (setOf (s.showRecord n x r) n a).gen then s.showRecord n x r
    else (s.showRecord n x r).joinSet n a x r (index0 s n x) (s.u (Obj.AVG_SET.N_AVG n a)) := by
  obtain rfl : a = ⟨x.aux % 8, Nat.mod_lt _ (by decide)⟩ := Fin.ext ha.symm
  rfl

theorem State.joinSet_gathers (s : State) (n : Port) (a : Fin 8) (x : Shot) (r : RamanRecord) (i : Int) (most : Nat)
    (hroom : (setOf s n a).cur.shots < most) (hflips : s.flips = []) (hbad : (setOf s n a).cur.bad = []) :
    ∃ t : State, t.raman = s.raman ∧ s.joinSet n a x r i most =
      (t.modSet n a (fun v => withShot v x i r)).put (Obj.AVG_SET.PROGRESS n a) ((setOf s n a).cur.shots + 1) := by
  obtain ⟨t, ht⟩ : ∃ t, t = if baseOverlaps x then s.setBit (Obj.RAMAN_STATUS.FLAGS n) Bit.RAMAN_STATUS.FLAGS.BASE_OLD else s := ⟨_, rfl⟩
  have hraman : t.raman = s.raman := by rw [ht]; split <;> rfl
  have hset : setOf t n a = setOf s n a := by rw [setOf, hraman, setOf]
  have hread : t.readSums n a = t := t.readSums_sound n a (by rw [ht]; split <;> exact hflips) (by rw [hset]; exact hbad)
  refine ⟨t, hraman, ?_⟩
  rw [State.joinSet]
  simp only [if_neg (Nat.not_le.mpr hroom), ← ht, hread, ite_self, State.setOf_modSet_self, hset]
  rfl

theorem State.addDts_gathers (s : State) (n : Port) (a : Fin 8) (x : Shot) (r : RamanRecord) (ha : x.aux = a.val) (hcut : x.cut = false)
    (hinv : x.invalid = false) (hgen : x.avgGen = (setOf s n a).gen) (hflips : s.flips = []) (hbad : (setOf s n a).cur.bad = [])
    (hroom : (setOf s n a).cur.shots < s.u (Obj.AVG_SET.N_AVG n a)) :
    ∃ t : State, t.raman = s.raman ∧ s.addDts n x r =
      (t.modSet n a (fun v => withShot v x (index0 s n x) r)).put (Obj.AVG_SET.PROGRESS n a) ((setOf s n a).cur.shots + 1) := by
  have hset := s.showRecord_setOf n x r a
  rw [s.addDts_eq n a x r (by omega), hcut, hinv, if_neg (by decide), hset, if_neg (not_not_intro hgen), ← hset]
  obtain ⟨t, hraman, heq⟩ := (s.showRecord n x r).joinSet_gathers n a x r (index0 s n x) (s.u (Obj.AVG_SET.N_AVG n a)) (by rwa [hset])
    ((s.showRecord_flips n x r).trans hflips) (by rwa [hset])
  exact ⟨t, hraman.trans (s.showRecord_raman n x r), heq⟩

/-- A sound record of the average in hand: the sums grow by its samples at their positions, and no other set changes. -/
theorem State.addDts_adds (s : State) (n : Port) (a : Fin 8) (x : Shot) (r : RamanRecord) (ha : x.aux = a.val) (hcut : x.cut = false)
    (hinv : x.invalid = false) (hgen : x.avgGen = (setOf s n a).gen) (hflips : s.flips = []) (hbad : (setOf s n a).cur.bad = [])
    (hroom : (setOf s n a).cur.shots < s.u (Obj.AVG_SET.N_AVG n a)) (hmost : s.u (Obj.AVG_SET.N_AVG n a) < 2 ^ 32) :
    (setOf (s.addDts n x r) n a).cur.shots = (setOf s n a).cur.shots + 1 ∧
    (setOf (s.addDts n x r) n a).cur.stokes = addInts (setOf s n a).cur.stokes (byPosition (index0 s n x) (ramanSamples x r.stokes)) ∧
    (setOf (s.addDts n x r) n a).cur.anti = addInts (setOf s n a).cur.anti (byPosition (index0 s n x) (ramanSamples x r.anti)) ∧
    (s.addDts n x r).u (Obj.AVG_SET.PROGRESS n a) = (setOf s n a).cur.shots + 1 ∧
    (∀ b : Fin 8, b ≠ a → setOf (s.addDts n x r) n b = setOf s n b) := by
  obtain ⟨t, hraman, heq⟩ := s.addDts_gathers n a x r ha hcut hinv hgen hflips hbad hroom
  have hset : ∀ b, setOf t n b = setOf s n b := fun b => by rw [setOf, hraman, setOf]
  have hnew : setOf (s.addDts n x r) n a = withShot (setOf s n a) x (index0 s n x) r := by
    rw [heq, State.setOf_put, State.setOf_modSet_self, hset]
  rw [hnew]
  refine ⟨rfl, rfl, rfl, ?_, fun b hb => ?_⟩
  · rw [heq]
    exact State.u_put_of_lt _ _ _ (show _ < 2 ^ 32 by omega)
  · rw [heq, State.setOf_put, State.setOf_modSet_other _ _ _ _ _ hb, hset]

theorem State.addDts_drops (s : State) (n : Port) (a : Fin 8) (x : Shot) (r : RamanRecord) (ha : x.aux = a.val)
    (hspoilt : x.cut = true ∨ x.invalid = true) (hroom : s.u (Obj.AVG_SET.DROPPED n a) + 1 < 2 ^ 32) :
    (s.addDts n x r).raman = s.raman ∧ (s.addDts n x r).u (Obj.AVG_SET.DROPPED n a) = s.u (Obj.AVG_SET.DROPPED n a) + 1 := by
  have hdropped := s.showRecord_dropped n x r a
  rw [s.addDts_eq n a x r (by omega), if_pos (by simpa using hspoilt), State.dropAverage]
  exact ⟨s.showRecord_raman n x r, (State.u_bump_self _ _ (by rwa [hdropped])).trans (congrArg (· + 1) hdropped)⟩

theorem State.addDts_stale (s : State) (n : Port) (a : Fin 8) (x : Shot) (r : RamanRecord) (ha : x.aux = a.val) (hcut : x.cut = false)
    (hinv : x.invalid = false) (hgen : x.avgGen ≠ (setOf s n a).gen) :
    (s.addDts n x r).raman = s.raman ∧ (s.addDts n x r).u (Obj.AVG_SET.DROPPED n a) = s.u (Obj.AVG_SET.DROPPED n a) := by
  rw [s.addDts_eq n a x r (by omega), hcut, hinv, if_neg (by decide), if_pos (by rwa [s.showRecord_setOf])]
  exact ⟨s.showRecord_raman n x r, s.showRecord_dropped n x r a⟩

/-! ## What a record does not touch -/

/-- A state with the ports, the memory and the clocks of another, which the averaging sets neither read nor change. -/
def State.beside (s : State) (p : Vector FibrePort 8) (m : List Host.Cell) (c : ClockPart) : State :=
  { s with ports := p, mem := m, clk := c }

section
variable (s : State) (p : Vector FibrePort 8) (m : List Host.Cell) (c : ClockPart) (n : Port) (a : Fin 8)

theorem State.beside_put (r : Reg) (v : Nat) : (s.beside p m c).put r v = (s.put r v).beside p m c := rfl

theorem State.beside_bump (r : Reg) : (s.beside p m c).bump r = (s.bump r).beside p m c := rfl

theorem State.beside_modSet (f : AvgSet → AvgSet) : (s.beside p m c).modSet n a f = (s.modSet n a f).beside p m c := rfl

theorem State.beside_ite (q : Prop) [Decidable q] (t : State) :
    (if q then s.beside p m c else t.beside p m c) = (if q then s else t).beside p m c :=
  (apply_ite (State.beside · p m c) q s t).symm

theorem State.beside_setOf : setOf (s.beside p m c) n a = setOf s n a := rfl

theorem State.beside_showOver (r fl : Reg) (b : Nat) (l : List Int) :
    (s.beside p m c).showOver r fl b l = (s.showOver r fl b l).beside p m c := by
  rw [State.showOver, State.showOver]
  split <;> rfl

theorem State.beside_showRecord (x : Shot) (r : RamanRecord) :
    (s.beside p m c).showRecord n x r = (s.showRecord n x r).beside p m c := by
  simp only [State.showRecord, State.puti_eq, State.beside_put, State.beside_showOver]
  rfl

/-- A word of a set's sums is put back into the set alone. -/
theorem sumsHolder_beside {t : State} {w : Nat} {h : Holder} (e : sumsHolder t n a w = some h) (d : BitVec 128) (b : Bool) :
    h.put d b (s.beside p m c) = (h.put d b s).beside p m c := by
  rw [sumsHolder] at e
  split_ifs at e
  · obtain rfl := Option.some.inj e
    rfl
  · obtain ⟨v, -, rfl⟩ := Option.map_eq_some_iff.mp e
    rfl

theorem State.beside_countSingle (w : Nat) : (s.beside p m c).countSingle w = (s.countSingle w).beside p m c := by
  have hkind : memKind (s.beside p m c) w = memKind s w := rfl
  rw [State.countSingle, State.countSingle, hkind]
  cases memKind s w <;> rfl

theorem State.beside_countUncorr (w : Nat) (y : BitVec 9) : (s.beside p m c).countUncorr w y = (s.countUncorr w y).beside p m c := by
  have hkind : memKind (s.beside p m c) w = memKind s w := rfl
  rw [State.countUncorr, State.countUncorr, hkind]
  split_ifs <;> rfl

theorem State.beside_meet {t : State} {w : Nat} {h : Holder} (e : sumsHolder t n a w = some h) :
    (s.beside p m c).meet w h = (s.meet w h).beside p m c := by
  have hput := fun u d b => sumsHolder_beside u p m c n a e d b
  have hflip : flipAt (s.beside p m c).flips w = flipAt s.flips w := rfl
  have hfinds : (s.beside p m c).finds w h = s.finds w h := rfl
  rw [State.meet, State.meet, hflip, hfinds]
  cases flipAt s.flips w with
  | none => rfl
  | some f =>
    cases s.finds w h with
    | clean d => exact hput { s with flips := s.flips.filter (fun g => g.1 != w) } d false
    | single d =>
      exact (congrArg (·.countSingle w) (hput { s with flips := s.flips.filter (fun g => g.1 != w) } d false)).trans
        (State.beside_countSingle _ p m c w)
    | bad y =>
      exact (congrArg (·.countUncorr w y) (hput { s with flips := s.flips.filter (fun g => g.1 != w) } _ true)).trans
        (State.beside_countUncorr _ p m c w y)

theorem State.beside_readAt {t : State} {w : Nat} {h : Holder} (e : sumsHolder t n a w = some h) :
    (s.beside p m c).readAt w h = (s.readAt w h).beside p m c := by
  have hpoison : (s.beside p m c).findsPoison w h = s.findsPoison w h := rfl
  rw [State.readAt, State.readAt, hpoison]
  split
  · exact State.beside_meet (s.bump _) p m c n a e
  · exact s.beside_meet p m c n a e

theorem State.beside_readSums : (s.beside p m c).readSums n a = (s.readSums n a).beside p m c := by
  refine List.foldl_hom (State.beside · p m c) fun t w => ?_
  have hholder : sumsHolder (t.beside p m c) n a w = sumsHolder t n a w := rfl
  rw [hholder]
  cases e : sumsHolder t n a w with
  | none => rfl
  | some h => exact t.beside_readAt p m c n a e

theorem State.beside_now : (s.beside p m c).now = s.now := rfl

theorem ramanBin_beside : ramanBin (s.beside p m c) n = ramanBin s n := rfl

theorem firstPoint_beside (v : Average) : firstPoint (s.beside p m c) n v = firstPoint s n v := rfl

theorem ramanPoint_beside (v : Average) (k : Nat) : ramanPoint (s.beside p m c) n v k = ramanPoint s n v k := by
  have hu : (s.beside p m c).u = s.u := rfl
  rw [ramanPoint, ramanPoint, ramanBin_beside, hu]

theorem ramanPoints_beside (v : Average) : ramanPoints (s.beside p m c) n v = ramanPoints s n v := by
  have hend : endPoint (s.beside p m c) n v = endPoint s n v := rfl
  simp only [ramanPoints, hend, firstPoint_beside, ramanPoint_beside]

theorem State.beside_completeAverage : (s.beside p m c).completeAverage n a = (s.completeAverage n a).beside p m c := by
  have hready : ∀ (t : State) (f : RamanPart → RamanPart), (t.beside p m c).modRaman n f = (t.modRaman n f).beside p m c := fun _ _ => rfl
  rw [State.completeAverage, State.completeAverage]
  simp only [State.dropAverage, State.beside_setOf, State.beside_readSums, State.beside_ite, State.beside_now, ramanBin_beside,
    firstPoint_beside, ramanPoints_beside, State.beside_modSet, State.beside_put, State.beside_bump, hready]

theorem State.beside_joinSet (x : Shot) (r : RamanRecord) (i : Int) (most : Nat) :
    (s.beside p m c).joinSet n a x r i most = (s.joinSet n a x r i most).beside p m c := by
  have hflag : ∀ (t : State) (g : Reg) (b : Nat), (t.beside p m c).setBit g b = (t.setBit g b).beside p m c := fun _ _ _ => rfl
  rw [State.joinSet, State.joinSet]
  simp only [State.beside_setOf, State.beside_completeAverage, State.beside_readSums, State.beside_ite, State.beside_modSet,
    State.beside_put, hflag]

theorem State.beside_addDts (x : Shot) (r : RamanRecord) : (s.beside p m c).addDts n x r = (s.addDts n x r).beside p m c := by
  obtain ⟨a, ha⟩ : ∃ a : Fin 8, x.aux % 8 = a.val := ⟨⟨x.aux % 8, Nat.mod_lt _ (by decide)⟩, rfl⟩
  rw [State.addDts_eq _ n a x r ha, State.addDts_eq _ n a x r ha, State.beside_showRecord, State.beside_joinSet, State.beside_setOf]
  split_ifs <;> rfl

end

/-- The frame of a record: the ports, the memory and the clocks stay, and what else changes does not depend on them. -/
theorem State.addDts_modPort (s : State) (n : Port) (f : FibrePort → FibrePort) (x : Shot) (r : RamanRecord) :
    (s.modPort n f).addDts n x r = (s.addDts n x r).beside (s.modPort n f).ports s.mem s.clk :=
  s.beside_addDts (s.modPort n f).ports s.mem s.clk n x r

/-! ## The close of its window (R57, R155) -/

theorem recordWindowClose_dts (s : State) (n : Port) (x : Shot) (r : RamanRecord) (h : s.ports[n].shots = [x]) (ho : x.winOpen = true)
    (hw : x.winClosed = false) (hk : x.kind = 2) (hcal : x.cal = false) (htrim : x.trimAfter = false) :
    exec (.recordWindowClose n (some r)) s = .next (((((s.modPort n (fun q => { q with shots :=
      [{ x with winClosed := true, dataDone := true }] })).addDts n x r).gainInForce n).dropOver n).settleSwitch) := by
  have hopen : openWindow x = true := by simp [openWindow, ho, hw]
  have hclosed : ({ x with winClosed := true, dataDone := x.dataDone || x.cal || x.kind == 2 } : Shot) =
      { x with winClosed := true, dataDone := true } := by simp [hk]
  change execRecordWindowClose n (some r) s = _
  rw [execRecordWindowClose, firstShot_single h hopen]
  simp only [s.modShot_single n x _ _ h hopen, hclosed, if_pos hk, if_neg (Bool.eq_false_iff.mp hcal), if_neg (Bool.eq_false_iff.mp htrim)]
  split
  · rename_i r' _ hr
    rw [Option.some.inj hr]
  · rename_i hno
    exact absurd rfl (hno r hk)

theorem recordWindowClose_adds (s : State) (n : Port) (x : Shot) (r : RamanRecord) (h : s.ports[n].shots = [x]) (ho : x.winOpen = true)
    (hw : x.winClosed = false) (hk : x.kind = 2) (hcal : x.cal = false) (htrim : x.trimAfter = false) (hswitch : s.clk.switchDue = false) :
    ∃ t : State, exec (.recordWindowClose n (some r)) s = .next t ∧ t.raman = (s.addDts n x r).raman ∧ t.regs = (s.addDts n x r).regs ∧
      (∀ z ∈ t.ports[n].shots, z = { x with winClosed := true, dataDone := true }) ∧ t.mem = s.mem := by
  have hexec := recordWindowClose_dts s n x r h ho hw hk hcal htrim
  obtain ⟨v, hv⟩ : ∃ v, v = s.modPort n (fun q => { q with shots := [{ x with winClosed := true, dataDone := true }] }) := ⟨_, rfl⟩
  have hshots : v.ports[n].shots = [{ x with winClosed := true, dataDone := true }] := by rw [hv, State.modPort_self]
  have hframe : v.addDts n x r = (s.addDts n x r).beside v.ports s.mem s.clk := by rw [hv, s.addDts_modPort]
  rw [← hv, hframe, ((s.addDts n x r).beside v.ports s.mem s.clk).gainInForce_closed n _ hshots rfl,
    (((s.addDts n x r).beside v.ports s.mem s.clk).dropOver n).settleSwitch_none hswitch] at hexec
  refine ⟨_, hexec, rfl, rfl, fun z hz => ?_, rfl⟩
  have hz' : z ∈ v.ports[n].shots.filter (fun x => !x.over) := by rwa [State.dropOver, State.modPort_self] at hz
  rw [hshots] at hz'
  exact List.mem_singleton.mp (List.mem_of_mem_filter hz')

/-- Settles O14: an average complete by whether the last one still computes, a record by its shot, and the window's close by the record's frame. -/
theorem dtsShotsAndAverages : Obligations.DtsShotsAndAverages :=
  ⟨⟨averageComplete_swaps, averageComplete_discards⟩,
   State.addDts_adds, State.addDts_drops, State.addDts_stale, recordWindowClose_adds⟩

end Sys2Proof.Machine
end

section
/-! SUPPORT. PROFILE_DELIVERY (R160 to R167; Machine/Raman.lean, Machine/Capture.lean): a single-ended profile, its constants fixed, enters the
point queue. -/

namespace Sys2Proof

theorem onlyRegs.pipes {s t : Machine.State} {l : List Reg} (h : onlyRegs s t l) : t.pipes = s.pipes := by rw [h.1]

theorem onlyRegs.raman {s t : Machine.State} {l : List Reg} (h : onlyRegs s t l) : t.raman = s.raman := by rw [h.1]

theorem onlyRegs.mem {s t : Machine.State} {l : List Reg} (h : onlyRegs s t l) : t.mem = s.mem := by rw [h.1]

end Sys2Proof

namespace Sys2Proof.Machine

/-! ## The constants (R162) -/

/-- The registers that REFERENCE_UPDATE writes with no reference section in use. -/
def referenceRegs (n : Nat) : List Reg :=
  [Obj.RAMAN_STATUS.LNC_USED n, Obj.RAMAN_STATUS.DALPHA_USED n, Obj.RAMAN_STATUS.FLAGS n, Obj.RAMAN_STATUS.HELD_RUN n]

/-- With the constants fixed, what the update changes of the Raman engine is the constants. -/
def State.constantsFixed (s : State) (n : Port) : State :=
  s.modRaman n (fun r => { r with lnc := f32Val (s.u (Obj.RAMAN.LNC n)), dalpha := fixedAlpha s n })

theorem State.moveReference_fixed (s : State) (n : Port) (d : DonePart) (h : s.u (Obj.RAMAN.REF_MODE n) = 0) :
    onlyRegs (s.constantsFixed n) (s.moveReference n d) (referenceRegs n) := by
  have hmode : refMode s n = 0 := by simp [refMode, h]
  have htarget : refTarget s n d = some (f32Val (s.u (Obj.RAMAN.LNC n)), fixedAlpha s n) := by
    simp only [refTarget, hmode]
  rw [State.moveReference, htarget]
  simp only [hmode, if_true, Nat.zero_le]
  exact (((((onlyRegs.refl _ _).put (by simp [referenceRegs]) _).put (by simp [referenceRegs]) _).put (by simp [referenceRegs]) _).put
    (by simp [referenceRegs]) _).put (by simp [referenceRegs]) _

/-! ## The profile enters the queue (R167) -/

theorem queuePeak_onlyRegs (s : State) (n : Port) : onlyRegs s (queuePeak s n) [Obj.PIPE_STATUS.QUEUE_PEAK n] := by
  rw [queuePeak]
  split
  · exact (onlyRegs.refl s _).put (by simp) _
  · exact onlyRegs.refl s _

/-- A state in which a set's profile has entered the queue as delivery `e`, before the queue's peak is shown. -/
def State.profileQueued (s : State) (n : Port) (a : Fin 8) (rest : List (Fin 8)) (e : Delivery) : State :=
  (((s.modPipe n (fun p => p.pushWhole e)).modSet n a (fun x => { x with computing := none })).modRaman n (fun r =>
    { r with ready := rest })).bump (Obj.AVG_SET.PROFILES n a)

/-- A delivery that holds the whole profile of a set's average (R167). -/
structure HoldsProfile (n : Port) (a : Fin 8) (v : Average) (d : DonePart) (e : Delivery) : Prop where
  kind : e.kind = 2
  set : e.set = a
  seq : e.shotSeq = v.last.seq
  header : e.header = header n v.last
  body : e.body.length = d.points.length

theorem State.handProfile_single (s : State) (n : Port) (a : Fin 8) (rest : List (Fin 8)) (v : Average) (d : DonePart)
    (hready : s.raman[n].ready = a :: rest) (hcomp : (setOf s n a).computing = some v) (hdone : (setOf s n a).done = some d)
    (hdual : s.u (Obj.RAMAN.DUAL_PORT n) = 0xFF) (hroom : s.pipes[n].queued + 8 + d.points.length + 12 ≤ 262144) :
    ∃ e : Delivery, HoldsProfile n a v d e ∧ s.handProfile n = queuePeak ((s.moveReference n d).profileQueued n a rest e) n := by
  have hall : min (queueWords - 12 - (s.pipes[n].queued + 8)) d.points.length = d.points.length := by
    rw [queueWords]
    omega
  have hsingle : (s.u (Obj.RAMAN.DUAL_PORT n) != 0xFF) = false := by simp [hdual]
  rw [State.handProfile, hready]
  simp only [hcomp, hdone, hall, hsingle, Bool.false_and, Nat.lt_irrefl, decide_false, Bool.false_eq_true, if_false]
  exact ⟨_, ⟨rfl, rfl, rfl, rfl, by simp⟩, rfl⟩

/-! ## The step -/

theorem profileDelivery_opens (s : State) (n : Port) (l : List Delivery) (e : Delivery) (hq : (s.handProfile n).pipes[n].queue = l ++ [e])
    (hnew : (s.handProfile n).pipes[n].nextDeliv ≠ s.pipes[n].nextDeliv) :
    exec (.profileDelivery n) s = .next ((s.handProfile n).openSample n 2 e.set e.shotSeq
      (imageField e.header 8 8 * 256 + imageField e.header 16 1)) := by
  change execProfileDelivery n s = _
  rw [execProfileDelivery]
  simp only [if_neg hnew, hq, List.getLast?_concat]

/-- What a profile in the queue changes, seen from the state before its constants moved. -/
theorem State.profileQueued_parts (s : State) (n : Port) (a : Fin 8) (rest : List (Fin 8)) (e : Delivery) :
    (s.profileQueued n a rest e).pipes[n] = s.pipes[n].pushWhole e ∧ (s.profileQueued n a rest e).raman[n].ready = rest ∧
      (setOf (s.profileQueued n a rest e) n a).computing = none ∧ (s.profileQueued n a rest e).mem = s.mem := by
  refine ⟨s.modPipe_self n fun p => p.pushWhole e, ?_, ?_, rfl⟩
  · rw [State.profileQueued, State.bump_eq, State.put_raman, State.modRaman_self]
  · simp only [State.profileQueued, State.bump_eq, State.setOf_put, State.setOf_modRaman, implies_true, State.setOf_modSet_self]

theorem State.profileQueued_regs (s : State) (n : Port) (a : Fin 8) (rest : List (Fin 8)) (e : Delivery) :
    regsKept s (s.profileQueued n a rest e) [Obj.AVG_SET.PROFILES n a] := by
  rw [State.profileQueued, State.bump_eq]
  exact regsKept.put (fun _ _ => rfl) (by simp) _

theorem State.profileQueued_count (s : State) (n : Port) (a : Fin 8) (rest : List (Fin 8)) (e : Delivery)
    (h : s.u (Obj.AVG_SET.PROFILES n a) + 1 < 2 ^ 32) :
    (s.profileQueued n a rest e).u (Obj.AVG_SET.PROFILES n a) = s.u (Obj.AVG_SET.PROFILES n a) + 1 := by
  rw [State.profileQueued, State.u_bump_self]
  · rfl
  · exact h

/-- No register of the constants is one of the set's, nor is the queue's peak. -/
theorem profiles_apart (n : Port) (a : Fin 8) (x : Reg) (h : x ∈ Obj.PIPE_STATUS.QUEUE_PEAK n :: referenceRegs n) :
    x.key ≠ (Obj.AVG_SET.PROFILES n a).key := by
  revert x
  simp only [referenceRegs, List.forall_mem_cons, Obj.RAMAN_STATUS.LNC_USED, Obj.RAMAN_STATUS.DALPHA_USED, Obj.RAMAN_STATUS.FLAGS,
    Obj.RAMAN_STATUS.HELD_RUN, Obj.PIPE_STATUS.QUEUE_PEAK, Obj.AVG_SET.PROFILES, List.not_mem_nil, false_implies, implies_true, and_true]
  omega

/-- A profile that waits, on a port whose constants are fixed, after it has entered the queue as delivery `e`. -/
theorem handProfile_leaves (s w : State) (n : Port) (a : Fin 8) (rest : List (Fin 8)) (d : DonePart) (e : Delivery)
    (href : s.u (Obj.RAMAN.REF_MODE n) = 0) (hw : w = queuePeak ((s.moveReference n d).profileQueued n a rest e) n)
    (hcount : s.u (Obj.AVG_SET.PROFILES n a) + 1 < 2 ^ 32) :
    w.pipes[n] = s.pipes[n].pushWhole e ∧ w.raman[n].ready = rest ∧ (setOf w n a).computing = none ∧ w.mem = s.mem ∧
      w.u (Obj.AVG_SET.PROFILES n a) = s.u (Obj.AVG_SET.PROFILES n a) + 1 ∧
      regsKept s w (Obj.AVG_SET.PROFILES n a :: Obj.PIPE_STATUS.QUEUE_PEAK n :: referenceRegs n) := by
  have hconst := s.moveReference_fixed n d href
  obtain ⟨u, hu⟩ : ∃ u, u = (s.moveReference n d).profileQueued n a rest e := ⟨_, rfl⟩
  obtain ⟨hpipe, hready, hcomp, hmem⟩ := (s.moveReference n d).profileQueued_parts n a rest e
  rw [← hu] at hw hpipe hready hcomp hmem
  have hpeak := hw ▸ queuePeak_onlyRegs u n
  have hprofiles : (s.moveReference n d).u (Obj.AVG_SET.PROFILES n a) = s.u (Obj.AVG_SET.PROFILES n a) :=
    hconst.2 _ fun x hx => profiles_apart n a x (List.mem_cons_of_mem _ hx)
  have hmoved : regsKept s (s.moveReference n d) (Obj.AVG_SET.PROFILES n a :: Obj.PIPE_STATUS.QUEUE_PEAK n :: referenceRegs n) :=
    hconst.2.mono fun x hx => by simp [hx]
  refine ⟨?_, ?_, ?_, hpeak.mem.trans (hmem.trans hconst.mem), ?_, ?_⟩
  · rw [hpeak.pipes, hpipe, hconst.pipes]
    rfl
  · rw [hpeak.raman, hready]
  · rw [setOf, hpeak.raman, ← setOf, hcomp]
  · rw [hpeak.2 _ fun x hx => profiles_apart n a x (by simpa using Or.inl (List.mem_singleton.mp hx)), hu,
      State.profileQueued_count _ n a rest e (by rwa [hprofiles]), hprofiles]
  · have hqueued := (s.moveReference n d).profileQueued_regs n a rest e
    rw [← hu] at hqueued
    exact (hmoved.trans (hqueued.mono (by simp))).trans (hpeak.2.mono (by simp))

/-- Settles O16: the whole profile that the computation leaves, then the queue, the set and the registers once it is handed over. -/
theorem profileDelivered : Obligations.ProfileDelivered := by
  intro s n a rest v d hready hcomp hdone hdual href hroom hcount
  obtain ⟨e, hholds, heq⟩ := s.handProfile_single n a rest v d hready hcomp hdone hdual hroom
  obtain ⟨hkind, hset, hseq, hheader, hbody⟩ := hholds
  obtain ⟨hpipe, hrest, hidle, hmem, hprofiles, hkept⟩ := handProfile_leaves s _ n a rest d e href heq hcount
  have hnew : (s.handProfile n).pipes[n].nextDeliv = s.pipes[n].nextDeliv + 1 := congrArg PipePart.nextDeliv hpipe
  have hexec := profileDelivery_opens s n _ _ (congrArg PipePart.queue hpipe) (by rw [hnew]; simp)
  refine ⟨_, { e with deliv := s.pipes[n].nextDeliv, closed := true, left := 8 + e.body.length + 4 },
    imageField e.header 8 8 * 256 + imageField e.header 16 1, ?_, congrArg PipePart.queue hpipe, ?_, rfl, hnew, hkind, rfl,
    hheader, hbody, hrest, hidle, hprofiles, hmem, hkept.mono ?_⟩
  · rw [hexec, hset, hseq]
  · rw [hpipe, ← hbody, PipePart.pushWhole]
    dsimp only
    omega
  · simp [referenceRegs]

end Sys2Proof.Machine
end

section
/-! SUPPORT. Bytes of memory and stores of a part of a word (R325; Machine/Ops.lean). -/

namespace Sys2Proof.Machine

/-! ## Bytes -/

/-- An address below all that a memory lists. -/
theorem Memory.read_below (m : List Host.Cell) (j : Nat) (h : ∀ c ∈ m, j < c.1) : Memory.read m j = unwritten := by
  cases m with
  | nil => rfl
  | cons c r =>
    have hlt := h c List.mem_cons_self
    rw [Memory.read, if_neg hlt.ne', if_pos hlt]

theorem Memory.read_write (m : List Host.Cell) (k j : Nat) (v : Byte) (h : Memory.wf m = true) :
    Memory.read (Memory.write m k v) j = if k = j then v else Memory.read m j := by
  have hrise := ((Memory.wf_iff m).mp h).1
  clear h
  induction m with
  | nil =>
    by_cases hv : v = unwritten <;> simp [Memory.write, Memory.read, hv]
  | cons c r ih =>
    obtain ⟨a, x⟩ := c
    obtain ⟨habove, hrest⟩ := List.pairwise_cons.mp hrise
    have hlow : ∀ i, i ≤ a → Memory.read r i = unwritten := fun i hi =>
      Memory.read_below r i fun c hc => hi.trans_lt (habove c.1 (List.mem_map_of_mem hc))
    specialize ih hrest
    rcases Nat.lt_trichotomy k a with hk | rfl | hk
    · rw [Memory.write, if_neg hk.ne', if_pos hk]
      by_cases hv : v = unwritten <;> grind [Memory.read]
    · rw [Memory.write, if_pos rfl]
      by_cases hv : v = unwritten <;> grind [Memory.read]
    · rw [Memory.write, if_neg hk.ne, if_neg hk.not_gt]
      grind [Memory.read]

theorem Memory.read_writeBytes_outside (m : List Host.Cell) (a j : Nat) (l : List Byte) (h : Memory.wf m = true) (hj : j < a ∨ a + l.length ≤ j) :
    Memory.read (Memory.writeBytes m a l) j = Memory.read m j := by
  induction l generalizing m a with
  | nil => rfl
  | cons b r ih =>
    rw [List.length_cons] at hj
    rw [Memory.writeBytes, ih _ _ (Memory.write_wf h) (by omega), Memory.read_write m a j b h, if_neg (by omega)]

theorem Memory.readBytes_congr {m w : List Host.Cell} (a n : Nat) (h : ∀ j, a ≤ j → j < a + n → Memory.read m j = Memory.read w j) :
    Memory.readBytes m a n = Memory.readBytes w a n := by
  induction n generalizing a with
  | zero => rfl
  | succ n ih => rw [Memory.readBytes, Memory.readBytes, h a le_rfl (by omega), ih (a + 1) fun j h1 h2 => h j (by omega) (by omega)]

theorem Memory.readBytes_writeBytes (m : List Host.Cell) (a : Nat) (l : List Byte) (h : Memory.wf m = true) :
    Memory.readBytes (Memory.writeBytes m a l) a l.length = l := by
  induction l generalizing m a with
  | nil => rfl
  | cons b r ih =>
    rw [List.length_cons, Memory.readBytes, Memory.writeBytes, ih _ _ (Memory.write_wf h),
      Memory.read_writeBytes_outside _ _ _ _ (Memory.write_wf h) (.inl (Nat.lt_succ_self a)), Memory.read_write m a a b h, if_pos rfl]

theorem Memory.readBytes_writeBytes_apart (m : List Host.Cell) (a c n : Nat) (l : List Byte) (h : Memory.wf m = true)
    (hc : c + n ≤ a ∨ a + l.length ≤ c) : Memory.readBytes (Memory.writeBytes m a l) c n = Memory.readBytes m c n :=
  Memory.readBytes_congr c n fun j h1 h2 => Memory.read_writeBytes_outside m a j l h (by omega)

/-! ## Reads and stores of sound words -/

/-- Bytes in words without an error: a read corrects nothing. -/
theorem State.meetWords_sound (s : State) (a n : Nat) (h : sound s a n) : s.meetWords a n = s := by
  have hnone : s.flips.filter (fun e => decide (a < e.1 + 16) && decide (e.1 < a + n)) = [] := by
    rw [List.filter_eq_nil_iff]
    intro e he
    have := h.2 e he
    simp only [Bool.and_eq_true, decide_eq_true_eq]
    omega
  rw [State.meetWords, hnone, List.foldl_nil]

theorem State.poisonIn_sound (s : State) (a n : Nat) (h : sound s a n) : s.poisonIn a n = 0 := by
  rw [State.poisonIn]
  simp only [Nat.add_eq_zero_iff, List.length_eq_zero_iff, List.filter_eq_nil_iff, Bool.and_eq_true, decide_eq_true_eq, not_and]
  refine ⟨fun p hp hit => ?_, fun e he hit => ?_⟩
  · have := h.1 p hp
    omega
  · have := h.2 e he
    omega

/-- A part of a sound word takes the bytes stored. -/
theorem State.store_sound (s : State) (a : Nat) (l : List Byte) (h : sound s a l.length) (hl : l.length < 16) :
    s.store a l = { s with mem := Memory.writeBytes s.mem a l } := by
  have hpart : (a % 16 = 0 && l.length == 16) = false := by simp [hl.ne]
  have hsee : s.seePoison a l.length = s := by rw [State.seePoison, s.poisonIn_sound a _ h, if_pos rfl, s.meetWords_sound a _ h]
  rw [State.store, hpart, hsee]
  rfl

end Sys2Proof.Machine
end

section
/-! SUPPORT. The Brillouin controller (R169 to R174, R178; Machine/Brillouin.lean): a shot counted in its group, its power added to the spectrum, and
a buffer released. -/

namespace Sys2Proof.Machine

/-! ## The shot is counted (R169) -/

/-- A group that takes more shots counts this one. -/
theorem State.countShot_within (s : State) (n : Port) (x : Shot) (h : s.bril[n].shot + 1 < perStep s n) :
    s.countShot n x = ((s.modBril n (fun b => { b with shot := b.shot + 1 })).put (Obj.BRIL_STATUS.STEP n)
      (s.bril[n].group % steps s n)).put (Obj.BRIL_STATUS.SHOT_IN_STEP n) (s.bril[n].shot + 1) := by
  have hopen : decide (perStep s n ≤ s.bril[n].shot + 1) = false := decide_eq_false (Nat.not_le.mpr h)
  rw [State.countShot]
  simp only [hopen, Bool.false_eq_true, if_false, false_and, State.put_bril, State.modBril_self]

theorem State.countShot_counts (s : State) (n : Port) (x : Shot) (h : s.bril[n].shot + 1 < perStep s n) :
    (s.countShot n x).bril[n].shot = s.bril[n].shot + 1 ∧ (s.countShot n x).bril[n].group = s.bril[n].group ∧
      (s.countShot n x).mem = s.mem ∧ regsKept s (s.countShot n x) [Obj.BRIL_STATUS.STEP n, Obj.BRIL_STATUS.SHOT_IN_STEP n] := by
  rw [s.countShot_within n x h]
  simp only [State.put_bril, State.modBril_self]
  exact ⟨trivial, trivial, rfl, (regsKept.put (fun _ _ => rfl) (by simp) _).put (by simp) _⟩

theorem State.countShot_shown (s : State) (n : Port) (x : Shot) (h : s.bril[n].shot + 1 < perStep s n) (hroom : s.bril[n].shot + 1 < 2 ^ 16) :
    (s.countShot n x).u (Obj.BRIL_STATUS.SHOT_IN_STEP n) = s.bril[n].shot + 1 := by
  rw [s.countShot_within n x h]
  exact State.u_put_of_lt _ _ _ hroom

/-! ## The power is added (R172, R173) -/

/-- Where a spectrum's buffer keeps the sum of its first bin at a step (R173). -/
def sumAt (s : State) (n : Port) (base k : Nat) : Nat := base + 32 + addedBytes (steps s n) + k * 4

/-- Where it counts the shots added at a step (R173). -/
def countAt (base k : Nat) : Nat := base + 32 + 2 * k

/-- A step's count lies below every sum. -/
theorem countAt_below (s : State) (n : Port) (base k : Nat) (h : k < steps s n) : countAt base k + 2 ≤ sumAt s n base k := by
  rw [countAt, sumAt, addedBytes, ceilDiv]
  omega

theorem State.addBin_first (s : State) (n : Port) (base k shift : Nat) (power : Rat) (hs : sound s (sumAt s n base k) 4)
    (hsum : fromLe (s.load (sumAt s n base k) 4) + (roundEven (power / 2 ^ shift)).toNat < 2 ^ 32) :
    s.addBin n base k shift 0 power = { s with
      mem := Memory.writeBytes s.mem (sumAt s n base k)
        (le 4 (fromLe (s.load (sumAt s n base k) 4) + (roundEven (power / 2 ^ shift)).toNat)) } := by
  have hat : base + 32 + addedBytes (steps s n) + (0 * steps s n + k) * 4 = sumAt s n base k := by
    rw [Nat.zero_mul, Nat.zero_add, sumAt]
  rw [State.addBin, hat]
  simp only [s.meetWords_sound _ 4 hs, if_pos hsum]
  exact s.store_sound _ _ (by rwa [le_length]) (by rw [le_length]; decide)

/-- The memory after a shot whose one bin's new sum is given. -/
def withPower (s : State) (n : Port) (base k sum : Nat) : List Host.Cell :=
  Memory.writeBytes (Memory.writeBytes s.mem (sumAt s n base k) (le 4 sum)) (countAt base k)
    (le 2 (fromLe (s.load (countAt base k) 2) + 1))

theorem State.addSpectrum_single (s : State) (n : Port) (x : Shot) (power : Rat) (base k sum : Nat)
    (hbase : base = bufferAddr s n (bufferOf s.bril[n])) (hk : k = s.bril[n].group % steps s n) (hpower : binPowers s n x = [power])
    (hsum : sum = fromLe (s.load (sumAt s n base k) 4) + (roundEven (power / 2 ^ s.u (Obj.BRILLOUIN.P_SHIFT n))).toNat)
    (hfits : sum < 2 ^ 32) (hgood : memoryGood s) (hs : sound s (sumAt s n base k) 4) (hc : sound s (countAt base k) 2) :
    s.addSpectrum n x = { s with mem := withPower s n base k sum } := by
  have hbelow := countAt_below s n base k (hk ▸ Nat.mod_lt _ (Nat.le_max_left 1 _))
  obtain ⟨t, ht⟩ : ∃ t : State, t = { s with mem := Memory.writeBytes s.mem (sumAt s n base k) (le 4 sum) } := ⟨_, rfl⟩
  have hload : t.load (countAt base k) 2 = s.load (countAt base k) 2 := by
    rw [ht]
    exact Memory.readBytes_writeBytes_apart _ _ _ _ _ hgood (.inl hbelow)
  have hct : sound t (countAt base k) 2 := ht ▸ hc
  have hstore := t.store_sound (countAt base k) (le 2 (fromLe (s.load (countAt base k) 2) + 1)) (by rwa [le_length])
    (by rw [le_length]; decide)
  rw [State.addSpectrum]
  simp only [← hbase, ← hk, hpower, addBins]
  rw [s.addBin_first n base k _ power hs (hsum ▸ hfits), ← hsum, ← ht]
  change (t.meetWords (countAt base k) 2).store (countAt base k) (le 2 (fromLe ((t.meetWords (countAt base k) 2).load (countAt base k) 2) + 1)) = _
  rw [t.meetWords_sound _ 2 hct, hload, hstore, ht, withPower]

/-- Afterwards the sum and the count read as they were put, and every other byte as before. -/
theorem withPower_reads (s t : State) (n : Port) (base k sum : Nat) (hk : k < steps s n) (hfits : sum < 2 ^ 32)
    (hcount : fromLe (s.load (countAt base k) 2) + 1 < 2 ^ 16) (hgood : memoryGood s) (ht : t.mem = withPower s n base k sum) :
    fromLe (t.load (sumAt s n base k) 4) = sum ∧
    fromLe (t.load (countAt base k) 2) = fromLe (s.load (countAt base k) 2) + 1 ∧
    (∀ b : Nat, (b < sumAt s n base k ∨ sumAt s n base k + 4 ≤ b) → (b < countAt base k ∨ countAt base k + 2 ≤ b) →
      Memory.read t.mem b = Memory.read s.mem b) := by
  have hbelow := countAt_below s n base k hk
  have hgood' := Memory.writeBytes_wf (a := sumAt s n base k) (l := le 4 sum) hgood
  rw [State.load, State.load, ht, withPower]
  refine ⟨?_, ?_, fun b hb hc => ?_⟩
  · rw [Memory.readBytes_writeBytes_apart _ _ _ _ _ hgood' (.inr (by rw [le_length]; exact hbelow))]
    have hread := Memory.readBytes_writeBytes s.mem (sumAt s n base k) (le 4 sum) hgood
    rw [le_length] at hread
    rw [hread]
    exact (fromLe_le 4 _).trans (Nat.mod_eq_of_lt hfits)
  · have hread := Memory.readBytes_writeBytes (Memory.writeBytes s.mem (sumAt s n base k) (le 4 sum)) (countAt base k)
      (le 2 (fromLe (s.load (countAt base k) 2) + 1)) hgood'
    rw [le_length] at hread
    rw [hread]
    exact (fromLe_le 2 _).trans (Nat.mod_eq_of_lt hcount)
  · rw [Memory.read_writeBytes_outside _ _ _ _ hgood' (by rwa [le_length]), Memory.read_writeBytes_outside _ _ _ _ hgood (by rwa [le_length])]

/-! ## BRIL_SHOT_ADD (R169 to R172) -/

/-- The shots whose record a sweep waits for. -/
def awaitsAdd (x : Shot) : Bool := x.winClosed && x.kind == 3 && !x.cal && !x.dataDone

/-- A port whose first such shot has its data done, without the shots that are over. -/
def FibrePort.added (p : FibrePort) : FibrePort :=
  { p with shots := (changeFirst awaitsAdd (fun z => { z with dataDone := true }) p.shots).filter (fun x => !x.over) }

/-- R171 keeps a shot out of the sweep's spectrum, with its step word in time. -/
def leftOut (s : State) (n : Port) (x : Shot) : Bool :=
  x.cut || x.invalid || decide (s.bril[n].shot < s.u (Obj.SWEEP_PROGRAM.DISCARD n s.bril[n].program)) || s.bril[n].skip

theorem brilShotAdd_eq (s : State) (n : Port) (x : Shot) (h : s.ports[n].shots = [x]) (hx : awaitsAdd x = true)
    (hgen : x.sweepGen = s.bril[n].gen) (hactive : s.bril[n].active = true) (hlate : wordLate s n x = false) :
    exec (.brilShotAdd n) s = .next ((if leftOut s n x then s.modPort n FibrePort.added
      else (s.modPort n FibrePort.added).addSpectrum n x).countShot n x) := by
  have hfirst : firstShot s n (fun y => y.winClosed && y.kind == 3 && !y.cal && !y.dataDone) = some x := firstShot_single h hx
  have hport : (s.modShot n (fun y => y.winClosed && y.kind == 3 && !y.cal && !y.dataDone) (fun z =>
      { z with dataDone := true })).dropOver n = s.modPort n FibrePort.added := s.modPort_modPort n _ _
  have hbril : (s.modPort n FibrePort.added).bril = s.bril := rfl
  have hword : wordLate (s.modPort n FibrePort.added) n x = false := hlate
  change execBrilShotAdd n s = _
  rw [execBrilShotAdd, hfirst]
  simp only [hport, hbril, hword, hgen, ne_eq, not_true_eq_false, hactive, if_true, if_false, Bool.false_eq_true, Bool.false_or]
  rfl

theorem brilShotAdd_discards (s : State) (n : Port) (x : Shot) (h : s.ports[n].shots = [x]) (hwin : x.winClosed = true) (hkind : x.kind = 3)
    (hcal : x.cal = false) (hdone : x.dataDone = false) (hgen : x.sweepGen = s.bril[n].gen) (hactive : s.bril[n].active = true)
    (hlate : wordLate s n x = false) (hdiscard : s.bril[n].shot < s.u (Obj.SWEEP_PROGRAM.DISCARD n s.bril[n].program))
    (hmore : s.bril[n].shot + 1 < perStep s n) (hroom : s.bril[n].shot + 1 < 2 ^ 16) :
    ∃ t : State, exec (.brilShotAdd n) s = .next t ∧ t.mem = s.mem ∧ t.bril[n].shot = s.bril[n].shot + 1 ∧
      t.bril[n].group = s.bril[n].group ∧ t.u (Obj.BRIL_STATUS.SHOT_IN_STEP n) = s.bril[n].shot + 1 ∧
      regsKept s t [Obj.BRIL_STATUS.STEP n, Obj.BRIL_STATUS.SHOT_IN_STEP n] := by
  have hexec := brilShotAdd_eq s n x h (by simp [awaitsAdd, hwin, hkind, hcal, hdone]) hgen hactive hlate
  rw [if_pos (by rw [leftOut, decide_eq_true hdiscard, Bool.or_true, Bool.true_or])] at hexec
  obtain ⟨hshot, hgroup, hmem, hkept⟩ := (s.modPort n FibrePort.added).countShot_counts n x hmore
  exact ⟨_, hexec, hmem, hshot, hgroup, State.countShot_shown _ n x hmore hroom, hkept⟩

theorem brilShotAdd_adds (s : State) (n : Port) (x : Shot) (power : Rat) (base k sum : Nat) (h : s.ports[n].shots = [x])
    (hwin : x.winClosed = true) (hkind : x.kind = 3) (hcal : x.cal = false) (hdone : x.dataDone = false) (hcut : x.cut = false)
    (hinv : x.invalid = false) (hgen : x.sweepGen = s.bril[n].gen) (hactive : s.bril[n].active = true) (hskip : s.bril[n].skip = false)
    (hlate : wordLate s n x = false) (hkeep : s.u (Obj.SWEEP_PROGRAM.DISCARD n s.bril[n].program) ≤ s.bril[n].shot)
    (hmore : s.bril[n].shot + 1 < perStep s n) (hbase : base = bufferAddr s n (bufferOf s.bril[n])) (hk : k = s.bril[n].group % steps s n)
    (hpower : binPowers s n x = [power])
    (hsum : sum = fromLe (s.load (sumAt s n base k) 4) + (roundEven (power / 2 ^ s.u (Obj.BRILLOUIN.P_SHIFT n))).toNat)
    (hfits : sum < 2 ^ 32) (hcount : fromLe (s.load (countAt base k) 2) + 1 < 2 ^ 16) (hgood : memoryGood s)
    (hs : sound s (sumAt s n base k) 4) (hc : sound s (countAt base k) 2) :
    ∃ t : State, exec (.brilShotAdd n) s = .next t ∧ t.bril[n].shot = s.bril[n].shot + 1 ∧
      fromLe (t.load (sumAt s n base k) 4) = sum ∧
      fromLe (t.load (countAt base k) 2) = fromLe (s.load (countAt base k) 2) + 1 ∧
      (∀ b : Nat, (b < sumAt s n base k ∨ sumAt s n base k + 4 ≤ b) → (b < countAt base k ∨ countAt base k + 2 ≤ b) →
        Memory.read t.mem b = Memory.read s.mem b) := by
  have hexec := brilShotAdd_eq s n x h (by simp [awaitsAdd, hwin, hkind, hcal, hdone]) hgen hactive hlate
  have hadd := (s.modPort n FibrePort.added).addSpectrum_single n x power base k sum hbase hk hpower hsum hfits hgood hs hc
  rw [if_neg (by rw [leftOut, hcut, hinv, hskip, decide_eq_false (Nat.not_lt.mpr hkeep)]; decide), hadd] at hexec
  obtain ⟨hshot, -, hmem, -⟩ := State.countShot_counts { s.modPort n FibrePort.added with
    mem := withPower (s.modPort n FibrePort.added) n base k sum } n x hmore
  exact ⟨_, hexec, hshot, withPower_reads s _ n base k sum (hk ▸ Nat.mod_lt _ (Nat.le_max_left 1 _)) hfits hcount hgood hmem⟩

/-! ## A release (R174, R178) -/

theorem releaseEff_frees (s : State) (n : Port) (b : Fin 2) :
    (releaseEff s n b).bit (Obj.BRIL_STATUS.BUF_HELD n) b = false ∧ onlyRegs s (releaseEff s n b) [Obj.BRIL_STATUS.BUF_HELD n] := by
  rw [releaseEff, if_pos b.isLt]
  exact ⟨State.bit_putBit_self _ _ _ _ (show b.val < 8 by omega), (onlyRegs.refl s _).put (by simp) _⟩

theorem releaseEff_none (s : State) (n : Port) (b : Nat) (h : 2 ≤ b) : releaseEff s n b = s := by
  rw [releaseEff, if_neg (by omega)]

/-- Settles O17: the shot counted whatever it adds, the two stores of one that adds, and the bit a release clears. -/
theorem brillouinShotAdds : Obligations.BrillouinShotAdds :=
  ⟨brilShotAdd_discards, brilShotAdd_adds, releaseEff_frees, releaseEff_none⟩

end Sys2Proof.Machine
end

section
/-! SUPPORT. Whole words of memory and the rows of a porter transfer (R187, R188, R225, R325, R326; Machine/Ops.lean, Machine/Porter.lean): what a
transfer reads, what it stores, and which bytes it leaves. -/

namespace Sys2Proof.Machine

/-! ## Bytes -/

theorem Memory.readBytes_length (m : List Host.Cell) (a n : Nat) : (Memory.readBytes m a n).length = n := by
  induction n generalizing a with
  | zero => rfl
  | succ n ih => rw [Memory.readBytes, List.length_cons, ih]

theorem Memory.readBytes_add (m : List Host.Cell) (a k n : Nat) :
    Memory.readBytes m a (k + n) = Memory.readBytes m a k ++ Memory.readBytes m (a + k) n := by
  induction k generalizing a with
  | zero => rw [Nat.zero_add, Nat.add_zero, Memory.readBytes, List.nil_append]
  | succ k ih => rw [Nat.succ_add, Memory.readBytes, Memory.readBytes, ih, List.cons_append, Nat.add_assoc, Nat.add_comm 1]

theorem Memory.writeBytes_append (m : List Host.Cell) (a : Nat) (l r : List Byte) :
    Memory.writeBytes m a (l ++ r) = Memory.writeBytes (Memory.writeBytes m a l) (a + l.length) r := by
  induction l generalizing m a with
  | nil => rfl
  | cons b l ih => rw [List.cons_append, Memory.writeBytes, ih, Memory.writeBytes, List.length_cons, Nat.add_assoc, Nat.add_comm 1]

/-- A memory with several runs of bytes written, one after another. -/
def Memory.writeRuns : List Host.Cell → List (Nat × List Byte) → List Host.Cell
  | m, [] => m
  | m, e :: r => Memory.writeRuns (Memory.writeBytes m e.1 e.2) r

theorem Memory.read_writeRuns_outside (l : List (Nat × List Byte)) (m : List Host.Cell) (b : Nat) (h : Memory.wf m = true)
    (hb : ∀ e ∈ l, b < e.1 ∨ e.1 + e.2.length ≤ b) : Memory.read (Memory.writeRuns m l) b = Memory.read m b := by
  induction l generalizing m with
  | nil => rfl
  | cons e r ih =>
    rw [Memory.writeRuns, ih _ (Memory.writeBytes_wf h) fun x hx => hb x (List.mem_cons_of_mem _ hx),
      Memory.read_writeBytes_outside _ _ _ _ h (hb e List.mem_cons_self)]

/-- Of runs that lie apart each stands in memory as it was written. -/
theorem Memory.readBytes_writeRuns (l : List (Nat × List Byte)) (m : List Host.Cell) (h : Memory.wf m = true)
    (hp : l.Pairwise fun p q => p.1 + p.2.length ≤ q.1 ∨ q.1 + q.2.length ≤ p.1) :
    ∀ e ∈ l, Memory.readBytes (Memory.writeRuns m l) e.1 e.2.length = e.2 := by
  induction l generalizing m with
  | nil => exact fun _ he => absurd he List.not_mem_nil
  | cons x r ih =>
    obtain ⟨hx, hr⟩ := List.pairwise_cons.mp hp
    refine List.forall_mem_cons.mpr ⟨?_, ih _ (Memory.writeBytes_wf h) hr⟩
    rw [Memory.writeRuns, Memory.readBytes_congr x.1 x.2.length fun j h1 h2 => Memory.read_writeRuns_outside r _ j (Memory.writeBytes_wf h)
      fun e he => by
        have := hx e he
        omega]
    exact Memory.readBytes_writeBytes m x.1 x.2 h

/-! ## Words read -/

theorem State.seePoison_sound (s : State) (a n : Nat) (h : sound s a n) : s.seePoison a n = s := by
  rw [State.seePoison, s.poisonIn_sound a n h, if_pos rfl, s.meetWords_sound a n h]

/-- No word that holds one of some sound bytes is poisoned. -/
theorem State.poisoned_sound (s : State) (a n b : Nat) (h : sound s a n) (hb : a ≤ b) (hn : b < a + n) : s.poisoned b = false := by
  rw [State.poisoned, List.contains_eq_mem, decide_eq_false_iff_not]
  intro hmem
  have := h.1 _ hmem
  omega

/-- The bytes of some words. -/
def wordBytes (ws : List (List Byte × Bool)) : List Byte := (ws.map Prod.fst).flatten

/-- Words read from whole, sound memory: 16 bytes each, none marked, together the bytes of the range. -/
theorem State.loadWords_sound (s : State) (a n : Nat) (ha : a % 16 = 0) (h : sound s a (16 * n)) :
    (∀ w ∈ s.loadWords a n, w.1.length = 16 ∧ w.2 = false) ∧ wordBytes (s.loadWords a n) = s.load a (16 * n) := by
  induction n generalizing a with
  | zero => exact ⟨fun _ hw => absurd hw List.not_mem_nil, rfl⟩
  | succ n ih =>
    have hrest : sound s (a + 16) (16 * n) :=
      ⟨fun p hp => by have := h.1 p hp; omega, fun e he => by have := h.2 e he; omega⟩
    obtain ⟨hwords, hbytes⟩ := ih (a + 16) (by omega) hrest
    refine ⟨List.forall_mem_cons.mpr ⟨⟨Memory.readBytes_length _ _ _, s.poisoned_sound a _ a h le_rfl (by omega)⟩, hwords⟩, ?_⟩
    calc wordBytes (s.loadWords a (n + 1)) = s.load a 16 ++ wordBytes (s.loadWords (a + 16) n) := rfl
      _ = s.load a 16 ++ s.load (a + 16) (16 * n) := by rw [hbytes]
      _ = s.load a (16 * (n + 1)) := by rw [Nat.mul_succ, Nat.add_comm (16 * n), State.load, State.load, State.load, Memory.readBytes_add]

/-! ## Words stored -/

theorem padTo_self (n : Nat) (l : List Byte) (h : l.length = n) : padTo n l = l := by
  rw [padTo, h, Nat.sub_self, List.replicate_zero, List.append_nil, ← h, List.take_length]

/-- A state with another memory, other poison marks and other bits in error. -/
def State.holding (s : State) (m : List Host.Cell) (p : List Nat) (f : List (Nat × BitVec 137)) : State := { s with mem := m, poison := p, flips := f }

theorem State.store_whole (s : State) (a : Nat) (l : List Byte) (x : Bool) (ha : a % 16 = 0) (hl : l.length = 16) :
    ∃ p f, (s.store a l).setPoison a x = s.holding (Memory.writeBytes s.mem a l) p f := by
  rw [State.store, hl, ha]
  exact ⟨_, _, rfl⟩

/-- Whole words stored change memory, poison marks and bits in error only (R325). -/
theorem State.storeWords_whole (ws : List (List Byte × Bool)) (s : State) (a : Nat) (ha : a % 16 = 0) (h : ∀ w ∈ ws, w.1.length = 16) :
    ∃ p f, s.storeWords a ws = s.holding (Memory.writeBytes s.mem a (wordBytes ws)) p f := by
  induction ws generalizing s a with
  | nil => exact ⟨_, _, rfl⟩
  | cons w r ih =>
    obtain ⟨hw, hr⟩ := List.forall_mem_cons.mp h
    obtain ⟨p, f, hfirst⟩ := s.store_whole a w.1 w.2 ha hw
    obtain ⟨p', f', hrest⟩ := ih (s.holding (Memory.writeBytes s.mem a w.1) p f) (a + 16) (by omega) hr
    have hbytes : Memory.writeBytes s.mem a (wordBytes (w :: r)) = Memory.writeBytes (Memory.writeBytes s.mem a w.1) (a + 16) (wordBytes r) := by
      rw [wordBytes, List.map_cons, List.flatten_cons, Memory.writeBytes_append, hw, wordBytes]
    exact ⟨p', f', by rw [State.storeWords, padTo_self 16 _ hw, hfirst, hrest, hbytes]; rfl⟩

/-- The rows of a transfer as runs of bytes. -/
def rowRuns (l : List (Nat × List (List Byte × Bool))) : List (Nat × List Byte) := l.map fun e => (e.1, wordBytes e.2)

theorem storeRemote_whole (l : List (Nat × List (List Byte × Bool))) (s : State) (h : ∀ e ∈ l, e.1 % 16 = 0 ∧ ∀ w ∈ e.2, w.1.length = 16) :
    ∃ p f, storeRemote s l = s.holding (Memory.writeRuns s.mem (rowRuns l)) p f := by
  induction l generalizing s with
  | nil => exact ⟨_, _, rfl⟩
  | cons e r ih =>
    obtain ⟨⟨ha, hw⟩, hr⟩ := List.forall_mem_cons.mp h
    obtain ⟨p, f, hfirst⟩ := State.storeWords_whole e.2 s e.1 ha hw
    obtain ⟨p', f', hrest⟩ := ih (s.holding (Memory.writeBytes s.mem e.1 (wordBytes e.2)) p f) hr
    exact ⟨p', f', by rw [storeRemote, hfirst, hrest]; rfl⟩

theorem storeRows_eq_storeRemote (t : StallId) (l : List ((Int × Int) × List (List Byte × Bool))) (s : State) :
    storeRows t s l = storeRemote s (l.map fun e => (stallData t + e.1.1.toNat, e.2)) := by
  induction l generalizing s with
  | nil => rfl
  | cons e r ih => exact ih _

/-! ## Rows moved -/

/-- Rows of `n` words, each from one address to another, are whole words, and those read hold no error. -/
def rowsSound (s : State) (n : Nat) (q : List (Nat × Nat)) : Prop :=
  ∀ e ∈ q, e.1 % 16 = 0 ∧ e.2 % 16 = 0 ∧ sound s e.1 (16 * n)

/-- The rows' destinations lie apart. -/
def rowsApart (n : Nat) (q : List (Nat × Nat)) : Prop := q.Pairwise fun e f => e.2 + 16 * n ≤ f.2 ∨ f.2 + 16 * n ≤ e.2

/-- The rows as a transfer stores them: each with the words read at its source. -/
def rowsRead (s : State) (n : Nat) (q : List (Nat × Nat)) : List (Nat × List (List Byte × Bool)) := q.map fun e => (e.2, s.loadWords e.1 n)

/-- A memory that has taken some rows of another one: each stands at its destination, and what lies beside them all is as before. -/
def rowsMoved (m w : List Host.Cell) (n : Nat) (q : List (Nat × Nat)) : Prop :=
  (∀ e ∈ q, Memory.readBytes w e.2 (16 * n) = Memory.readBytes m e.1 (16 * n)) ∧
  ∀ b, (∀ e ∈ q, b < e.2 ∨ e.2 + 16 * n ≤ b) → Memory.read w b = Memory.read m b

theorem rowsRead_unmarked (s : State) (n : Nat) (q : List (Nat × Nat)) (h : rowsSound s n q) :
    (rowsRead s n q).any (fun r => r.2.any (·.2)) = false := by
  simp only [rowsRead, List.any_map, List.any_eq_false, Function.comp_apply, Bool.not_eq_true]
  intro e he w hw
  obtain ⟨ha, -, hs⟩ := h e he
  exact ((s.loadWords_sound e.1 n ha hs).1 w hw).2

theorem rowRuns_rowsRead (s : State) (n : Nat) (q : List (Nat × Nat)) (h : rowsSound s n q) :
    rowRuns (rowsRead s n q) = q.map fun e => (e.2, s.load e.1 (16 * n)) := by
  rw [rowRuns, rowsRead, List.map_map]
  refine List.map_congr_left fun e he => ?_
  obtain ⟨ha, -, hs⟩ := h e he
  exact congrArg (Prod.mk e.2) (s.loadWords_sound e.1 n ha hs).2

/-- Sound rows read and stored: every row is moved, and beside memory only poison marks and bits in error change. -/
theorem storeRemote_moves (s : State) (n : Nat) (q : List (Nat × Nat)) (hgood : memoryGood s) (h : rowsSound s n q) (hp : rowsApart n q) :
    ∃ m p f, storeRemote s (rowsRead s n q) = s.holding m p f ∧ rowsMoved s.mem m n q := by
  have hwhole : ∀ e ∈ rowsRead s n q, e.1 % 16 = 0 ∧ ∀ w ∈ e.2, w.1.length = 16 := List.forall_mem_map.mpr fun e he => by
    obtain ⟨ha, hb, hs⟩ := h e he
    exact ⟨hb, fun w hw => ((s.loadWords_sound e.1 n ha hs).1 w hw).1⟩
  have hlen : ∀ a, (s.load a (16 * n)).length = 16 * n := fun a => Memory.readBytes_length s.mem a (16 * n)
  obtain ⟨p, f, hstore⟩ := storeRemote_whole _ s hwhole
  refine ⟨_, p, f, hstore, fun e he => ?_, fun b hb => Memory.read_writeRuns_outside _ _ _ hgood ?_⟩ <;> rw [rowRuns_rowsRead s n q h]
  · have hrun := Memory.readBytes_writeRuns (q.map fun e => (e.2, s.load e.1 (16 * n))) s.mem hgood
      (List.pairwise_map.mpr (hp.imp fun hef => by simpa only [hlen] using hef)) _ (List.mem_map_of_mem he)
    rwa [hlen] at hrun
  · exact List.forall_mem_map.mpr fun e he => by simpa only [hlen] using hb e he

end Sys2Proof.Machine
end

section
/-! SUPPORT. Porter transfers (R187, R188, R225, R233, R199, R324; Machine/Porter.lean): GET, PUT, GET2D and PUT2D of the yard and DRAM, those that
are wrong, and what the path does to them. -/

namespace Sys2Proof.Machine

/-! ## The transaction on a tag -/

theorem withFlight_some (s : State) (t : StallId) (g : Fin 16) (kind : Nat) (f : Transaction → State) (tr : Transaction)
    (h : s.stalls[t].t[g].flight = some tr) (hk : dKind tr.desc = kind) : withFlight s t g kind f = .next (f tr) := by
  rw [withFlight, inFlight, h]
  simp only [hk, if_true]

/-- What a transfer of a kind does by the outcome of its path (R199, R324). -/
theorem withPorter_some (s : State) (t : StallId) (g : Fin 16) (kind : Nat) (f : State → List Byte → State) (tr : Transaction)
    (h : s.stalls[t].t[g].flight = some tr) (hk : dKind tr.desc = kind) : withPorter s t g kind .clean f = .next (f s tr.desc) ∧
    withPorter s t g kind .single f = withPorter (s.bump Obj.MEMORY.PATH_CE) t g kind .clean f ∧
    withPorter s t g kind .broken f = .next (s.fatalFault t) := by
  have hbump : (s.bump Obj.MEMORY.PATH_CE).stalls[t].t[g].flight = some tr := h
  simp only [withPorter, withFlight_some _ t g kind _ tr h hk, withFlight_some _ t g kind _ tr hbump hk, and_self]

theorem get_paths (s : State) (t : StallId) (g : Fin 16) (tr : Transaction) (h : s.stalls[t].t[g].flight = some tr) (hk : dKind tr.desc = 0) :
    exec (.get t g .clean) s = .next (s.doGet t g tr.desc) ∧
    exec (.get t g .single) s = exec (.get t g .clean) (s.bump Obj.MEMORY.PATH_CE) ∧ exec (.get t g .broken) s = .next (s.fatalFault t) :=
  withPorter_some s t g 0 (fun u d => u.doGet t g d) tr h hk

theorem put_paths (s : State) (t : StallId) (g : Fin 16) (tr : Transaction) (h : s.stalls[t].t[g].flight = some tr) (hk : dKind tr.desc = 1) :
    exec (.put t g .clean) s = .next (s.doPut t g tr.desc) ∧
    exec (.put t g .single) s = exec (.put t g .clean) (s.bump Obj.MEMORY.PATH_CE) ∧ exec (.put t g .broken) s = .next (s.fatalFault t) :=
  withPorter_some s t g 1 (fun u d => u.doPut t g d) tr h hk

theorem get2d_paths (s : State) (t : StallId) (g : Fin 16) (tr : Transaction) (h : s.stalls[t].t[g].flight = some tr) (hk : dKind tr.desc = 2) :
    exec (.get2d t g .clean) s = .next (s.doGet t g tr.desc) ∧
    exec (.get2d t g .single) s = exec (.get2d t g .clean) (s.bump Obj.MEMORY.PATH_CE) ∧ exec (.get2d t g .broken) s = .next (s.fatalFault t) :=
  withPorter_some s t g 2 (fun u d => u.doGet t g d) tr h hk

theorem put2d_paths (s : State) (t : StallId) (g : Fin 16) (tr : Transaction) (h : s.stalls[t].t[g].flight = some tr) (hk : dKind tr.desc = 3) :
    exec (.put2d t g .clean) s = .next (s.doPut t g tr.desc) ∧
    exec (.put2d t g .single) s = exec (.put2d t g .clean) (s.bump Obj.MEMORY.PATH_CE) ∧ exec (.put2d t g .broken) s = .next (s.fatalFault t) :=
  withPorter_some s t g 3 (fun u d => u.doPut t g d) tr h hk

/-! ## Rows of a transfer -/

theorem dRowList_single (d : List Byte) (h : is2d d = false) : dRowList d = [((dLocal d : Int), 0)] := by
  simp [dRowList, h]

/-- A row of a good descriptor lies in the stall's data, on whole words. -/
theorem localGood_row {d : List Byte} (h : localGood d = true) {r : Int × Int} (hr : r ∈ dRowList d) : 0 ≤ r.1 ∧ r.1 % 16 = 0 := by
  simp only [localGood, Bool.and_eq_true, List.all_eq_true, decide_eq_true_eq, beq_iff_eq] at h
  obtain ⟨⟨⟨⟨⟨-, hlocal⟩, hstride⟩, -⟩, -⟩, hspan⟩ := h
  refine ⟨(hspan r hr).1, ?_⟩
  obtain ⟨i, -, rfl⟩ := List.mem_map.mp hr
  have : ((i : Int) * dLStride d) % 16 = 0 := by rw [Int.mul_emod, hstride, Int.mul_zero, Int.zero_emod]
  omega

theorem stallData_row {d : List Byte} (t : StallId) (h : localGood d = true) {r : Int × Int} (hr : r ∈ dRowList d) :
    (stallData t + r.1.toNat) % 16 = 0 := by
  have := localGood_row h hr
  rw [stallData]
  omega

/-- The remote address of a row that has one. -/
def rowAddr (s : State) (t : StallId) (d : List Byte) (r : Int × Int) : Nat := (remoteRow s t d r.2).getD 0

theorem rowAddr_some {s : State} {t : StallId} {d : List Byte} {r : Int × Int} {a : Nat} (h : remoteRow s t d r.2 = some a) :
    rowAddr s t d r = a := by rw [rowAddr, h, Option.getD_some]

/-- Every row of a transfer has a remote address. -/
def rowsFound (s : State) (t : StallId) (d : List Byte) : Prop := ∀ r ∈ dRowList d, ∃ a, remoteRow s t d r.2 = some a

theorem rowsFound.addr {s : State} {t : StallId} {d : List Byte} (h : rowsFound s t d) {r : Int × Int} (hr : r ∈ dRowList d) :
    remoteRow s t d r.2 = some (rowAddr s t d r) := by
  obtain ⟨a, ha⟩ := h r hr
  rw [ha, rowAddr_some ha]

theorem allSome_map {α β : Type} (l : List α) (f : α → Option β) (v : α → β) (h : ∀ a ∈ l, f a = some (v a)) :
    allSome (l.map f) = some (l.map v) := by
  induction l with
  | nil => rfl
  | cons a r ih =>
    obtain ⟨ha, hr⟩ := List.forall_mem_cons.mp h
    rw [List.map_cons, ha, allSome, ih hr]
    rfl

theorem allSome_none {α : Type} (l : List (Option α)) (h : none ∈ l) : allSome l = none := by
  induction l with
  | nil => exact absurd h List.not_mem_nil
  | cons a r ih =>
    cases a with
    | none => rfl
    | some a => rw [allSome, ih ((List.mem_cons.mp h).resolve_left nofun), Option.map_none]

/-- A GET's rows, from their remote to their local address. -/
def getRows (s : State) (t : StallId) (d : List Byte) : List (Nat × Nat) :=
  (dRowList d).map fun r => (rowAddr s t d r, stallData t + r.1.toNat)

/-- A PUT's rows, from their local to their remote address. -/
def putRows (s : State) (t : StallId) (d : List Byte) : List (Nat × Nat) :=
  (dRowList d).map fun r => (stallData t + r.1.toNat, rowAddr s t d r)

theorem State.readRows_sound (s : State) (n : Nat) (l : List Nat) (h : ∀ a ∈ l, sound s a (16 * n)) : s.readRows n l = s := by
  induction l with
  | nil => rfl
  | cons a r ih =>
    obtain ⟨ha, hr⟩ := List.forall_mem_cons.mp h
    rw [State.readRows, List.foldl_cons, s.seePoison_sound a _ ha]
    exact ih hr

/-- Where every GET has been waited for, local words are those of memory (R225). -/
theorem State.localWords_settled (s : State) (t : StallId) (h : settled s.stalls[t] = true) (a n base : Nat) :
    s.localWords t a n base = s.loadWords (stallData t + a) n := by
  induction n generalizing a base with
  | zero => rfl
  | succ n ih => rw [State.localWords, State.loadWords, ih, State.localBytes, State.localPoison, if_pos h, if_pos h, Nat.add_assoc]

theorem localRows_settled (s : State) (t : StallId) (d : List Byte) (h : settled s.stalls[t] = true) :
    (localRows s t d).map (·.2) = (dRowList d).map fun r => s.loadWords (stallData t + r.1.toNat) (dLen d) := by
  simp only [localRows, List.map_map, Function.comp_def, s.localWords_settled t h]
  rw [← Function.comp_def (fun r : Int × Int => s.loadWords (stallData t + r.1.toNat) (dLen d)) Prod.fst, ← List.map_map, List.zipIdx_map_fst]

/-! ## Transfers that complete -/

theorem State.doGet_moves (s : State) (t : StallId) (g : Fin 16) (d : List Byte) (hlocal : localGood d = true) (hspace : dSpace d = 1 ∨ dSpace d = 2)
    (hgood : memoryGood s) (hfound : rowsFound s t d) (hsound : rowsSound s (dLen d) (getRows s t d))
    (hapart : rowsApart (dLen d) (getRows s t d)) :
    ∃ m p f, s.doGet t g d = (s.holding m p f).completeTag t g 1 ∧ rowsMoved s.mem m (dLen d) (getRows s t d) := by
  have hall : allSome ((dRowList d).map fun r => (remoteRow s t d r.2).map fun a => (r, a)) =
      some ((dRowList d).map fun r => (r, rowAddr s t d r)) := allSome_map _ _ _ fun r hr => by rw [hfound.addr hr, Option.map_some]
  have hread : s.readRows (dLen d) (((dRowList d).map fun r => (r, rowAddr s t d r)).map (·.2)) = s :=
    s.readRows_sound _ _ (List.forall_mem_map.mpr (List.forall_mem_map.mpr fun r hr => (hsound _ (List.mem_map_of_mem hr)).2.2))
  have hrows : (((dRowList d).map fun r => (r, rowAddr s t d r)).map fun r => (r.1, s.loadWords r.2 (dLen d))).map
      (fun e => (stallData t + e.1.1.toNat, e.2)) = rowsRead s (dLen d) (getRows s t d) := by
    simp only [rowsRead, getRows, List.map_map, Function.comp_def]
  have hmark := rowsRead_unmarked s (dLen d) (getRows s t d) hsound
  rw [← hrows, List.any_map] at hmark
  obtain ⟨m, p, f, hstore, hmoved⟩ := storeRemote_moves s (dLen d) (getRows s t d) hgood hsound hapart
  refine ⟨m, p, f, ?_, hmoved⟩
  rw [State.doGet, hlocal, if_neg (by decide), if_neg (by omega), if_pos hspace, hall]
  simp only [hread]
  rw [storeRows_eq_storeRemote, hrows, hstore]
  exact congrArg _ (if_neg (by simpa only [Function.comp_def] using Bool.eq_false_iff.mp hmark))

theorem State.doPut_moves (s : State) (t : StallId) (g : Fin 16) (d : List Byte) (hlocal : localGood d = true) (hspace : dSpace d = 1 ∨ dSpace d = 2)
    (hset : settled s.stalls[t] = true) (hgood : memoryGood s) (hfound : rowsFound s t d) (hsound : rowsSound s (dLen d) (putRows s t d))
    (hapart : rowsApart (dLen d) (putRows s t d)) :
    ∃ m p f, s.doPut t g d = (s.holding m p f).completeTag t g 1 ∧ rowsMoved s.mem m (dLen d) (putRows s t d) := by
  have hall : allSome ((dRowList d).map fun r => remoteRow s t d r.2) = some ((dRowList d).map (rowAddr s t d)) :=
    allSome_map _ _ _ fun r hr => hfound.addr hr
  have hread : s.readRows (dLen d) ((dRowList d).map fun r => stallData t + r.1.toNat) = s :=
    s.readRows_sound _ _ (List.forall_mem_map.mpr fun r hr => (hsound _ (List.mem_map_of_mem hr)).2.2)
  have hrows : ((dRowList d).map (rowAddr s t d)).zip ((localRows s t d).map (·.2)) = rowsRead s (dLen d) (putRows s t d) := by
    rw [localRows_settled s t d hset, List.zip_map', rowsRead, putRows, List.map_map]
    rfl
  obtain ⟨m, p, f, hstore, hmoved⟩ := storeRemote_moves s (dLen d) (putRows s t d) hgood hsound hapart
  refine ⟨m, p, f, ?_, hmoved⟩
  rw [State.doPut, hlocal, if_neg (by decide), if_neg (by omega), if_pos hspace, hall]
  simp only [hread]
  rw [hrows, rowsRead_unmarked s _ _ hsound, State.drewLocal, if_pos hset, hstore, if_neg (by decide)]

/-! ## Transfers that are wrong (R233) -/

theorem State.doGet_bad (s : State) (t : StallId) (g : Fin 16) (d : List Byte) (h : localGood d = false) : s.doGet t g d = s.completeTag t g 4 := by
  rw [State.doGet, h]
  rfl

theorem State.doPut_bad (s : State) (t : StallId) (g : Fin 16) (d : List Byte) (h : localGood d = false) : s.doPut t g d = s.completeTag t g 4 := by
  rw [State.doPut, h]
  rfl

theorem State.doGet_lost (s : State) (t : StallId) (g : Fin 16) (d : List Byte) (hlocal : localGood d = true) (hspace : dSpace d = 1 ∨ dSpace d = 2)
    (h : ∃ r ∈ dRowList d, remoteRow s t d r.2 = none) : s.doGet t g d = s.completeTag t g 4 := by
  obtain ⟨r, hr, hnone⟩ := h
  have hall : allSome ((dRowList d).map fun r => (remoteRow s t d r.2).map fun a => (r, a)) = none :=
    allSome_none _ (List.mem_map.mpr ⟨r, hr, by rw [hnone, Option.map_none]⟩)
  rw [State.doGet, hlocal, if_neg (by decide), if_neg (by omega), if_pos hspace, hall]

theorem State.doPut_lost (s : State) (t : StallId) (g : Fin 16) (d : List Byte) (hlocal : localGood d = true) (hspace : dSpace d = 1 ∨ dSpace d = 2)
    (h : ∃ r ∈ dRowList d, remoteRow s t d r.2 = none) : s.doPut t g d = s.completeTag t g 4 := by
  obtain ⟨r, hr, hnone⟩ := h
  rw [State.doPut, hlocal, if_neg (by decide), if_neg (by omega), if_pos hspace, allSome_none _ (List.mem_map.mpr ⟨r, hr, hnone⟩)]

/-! ## The steps -/

/-- The tag after a transfer that ended OK. -/
def Stall.tagOk (x : Stall) (g : Fin 16) : Stall := { x with t := x.t.set g { x.t[g] with status := 1, flight := none } }

/-- A transfer ended OK: the tag holds it, and beside memory nothing that the Ledger or the pitches show has changed. -/
structure EndedOk (s u : State) (t : StallId) (g : Fin 16) : Prop where
  regs : u.regs = s.regs
  pitches : u.pitches = s.pitches
  stalls : u.stalls = s.stalls.set t (s.stalls[t].tagOk g)

theorem State.completeTag_ok (s : State) (t : StallId) (g : Fin 16) : s.completeTag t g 1 = s.modStall t (fun x => x.tagOk g) := rfl

theorem State.completeTag_ended (s : State) (m : List Host.Cell) (p : List Nat) (f : List (Nat × BitVec 137)) (t : StallId) (g : Fin 16) :
    EndedOk s ((s.holding m p f).completeTag t g 1) t g := by
  rw [State.completeTag_ok]
  exact ⟨rfl, rfl, rfl⟩

theorem State.completeTag_ok_mem (s : State) (m : List Host.Cell) (p : List Nat) (f : List (Nat × BitVec 137)) (t : StallId) (g : Fin 16) :
    ((s.holding m p f).completeTag t g 1).mem = m := by
  rw [State.completeTag_ok]
  rfl

theorem getRows_single {s : State} {t : StallId} {d : List Byte} {a : Nat} (hk : is2d d = false) (ha : remoteRow s t d 0 = some a) :
    rowsFound s t d ∧ getRows s t d = [(a, stallData t + dLocal d)] ∧ putRows s t d = [(stallData t + dLocal d, a)] := by
  have haddr : rowAddr s t d ((dLocal d : Int), 0) = a := rowAddr_some (r := ((dLocal d : Int), 0)) ha
  rw [rowsFound, getRows, putRows, dRowList_single d hk, List.map_singleton, List.map_singleton, haddr]
  exact ⟨List.forall_mem_singleton.mpr ⟨a, ha⟩, rfl, rfl⟩

theorem rowsApart_single (n : Nat) (e : Nat × Nat) : rowsApart n [e] := List.pairwise_singleton _ _

theorem rowsMoved_single {s u : State} {n : Nat} {e : Nat × Nat} (h : rowsMoved s.mem u.mem n [e]) :
    u.load e.2 (16 * n) = s.load e.1 (16 * n) ∧ bytesKept s u e.2 (16 * n) :=
  ⟨h.1 e List.mem_cons_self, fun b hb => h.2 b (List.forall_mem_singleton.mpr hb)⟩

section
variable (s : State) (t : StallId) (g : Fin 16) (tr : Transaction) (d : List Byte) (hgood : memoryGood s) (hf : s.stalls[t].t[g].flight = some tr)
  (hd : d = tr.desc) (hlocal : localGood d = true) (hspace : dSpace d = 1 ∨ dSpace d = 2)
include hgood hf hd hlocal hspace

theorem get_single (a : Nat) (ha : remoteRow s t d 0 = some a) (ha16 : a % 16 = 0) (hk : dKind d = 0) (hs : sound s a (16 * dLen d)) :
    ∃ u : State, exec (.get t g .clean) s = .next u ∧ u.load (stallData t + dLocal d) (16 * dLen d) = s.load a (16 * dLen d) ∧
      bytesKept s u (stallData t + dLocal d) (16 * dLen d) ∧ EndedOk s u t g := by
  subst hd
  have hkind : is2d tr.desc = false := by rw [is2d, hk]; rfl
  have hrow : (stallData t + dLocal tr.desc) % 16 = 0 := by
    simpa using stallData_row t hlocal (r := ((dLocal tr.desc : Int), 0)) (by rw [dRowList_single _ hkind]; exact List.mem_cons_self)
  obtain ⟨hfound, hrows, -⟩ := getRows_single hkind ha
  obtain ⟨m, p, f, hget, hmoved⟩ := s.doGet_moves t g tr.desc hlocal hspace hgood hfound
    (hrows ▸ List.forall_mem_singleton.mpr ⟨ha16, hrow, hs⟩) (hrows ▸ rowsApart_single _ _)
  rw [hrows, ← s.completeTag_ok_mem m p f t g] at hmoved
  obtain ⟨hload, hkept⟩ := rowsMoved_single hmoved
  exact ⟨_, (get_paths s t g tr hf hk).1.trans (congrArg Host.Outcome.next hget), hload, hkept, s.completeTag_ended m p f t g⟩

theorem put_single (a : Nat) (ha : remoteRow s t d 0 = some a) (ha16 : a % 16 = 0) (hk : dKind d = 1) (hset : settled s.stalls[t] = true)
    (hs : sound s (stallData t + dLocal d) (16 * dLen d)) :
    ∃ u : State, exec (.put t g .clean) s = .next u ∧ u.load a (16 * dLen d) = s.load (stallData t + dLocal d) (16 * dLen d) ∧
      bytesKept s u a (16 * dLen d) ∧ EndedOk s u t g := by
  subst hd
  have hkind : is2d tr.desc = false := by rw [is2d, hk]; rfl
  have hrow : (stallData t + dLocal tr.desc) % 16 = 0 := by
    simpa using stallData_row t hlocal (r := ((dLocal tr.desc : Int), 0)) (by rw [dRowList_single _ hkind]; exact List.mem_cons_self)
  obtain ⟨hfound, -, hrows⟩ := getRows_single hkind ha
  obtain ⟨m, p, f, hput, hmoved⟩ := s.doPut_moves t g tr.desc hlocal hspace hset hgood hfound
    (hrows ▸ List.forall_mem_singleton.mpr ⟨hrow, ha16, hs⟩) (hrows ▸ rowsApart_single _ _)
  rw [hrows, ← s.completeTag_ok_mem m p f t g] at hmoved
  obtain ⟨hload, hkept⟩ := rowsMoved_single hmoved
  exact ⟨_, (put_paths s t g tr hf hk).1.trans (congrArg Host.Outcome.next hput), hload, hkept, s.completeTag_ended m p f t g⟩

theorem get2d_rows (hk : dKind d = 2) (hrows : ∀ r ∈ dRowList d, ∃ a : Nat, remoteRow s t d r.2 = some a ∧ a % 16 = 0 ∧ sound s a (16 * dLen d))
    (hp : (dRowList d).Pairwise (fun p q => p.1 + 16 * (dLen d : Int) ≤ q.1 ∨ q.1 + 16 * (dLen d : Int) ≤ p.1)) :
    ∃ u : State, exec (.get2d t g .clean) s = .next u ∧ EndedOk s u t g ∧
      (∀ r ∈ dRowList d, ∀ a : Nat, remoteRow s t d r.2 = some a → u.load (stallData t + r.1.toNat) (16 * dLen d) = s.load a (16 * dLen d)) ∧
      (∀ b : Nat, (∀ r ∈ dRowList d, b < stallData t + r.1.toNat ∨ stallData t + r.1.toNat + 16 * dLen d ≤ b) →
        Memory.read u.mem b = Memory.read s.mem b) := by
  subst hd
  have hsound : rowsSound s (dLen tr.desc) (getRows s t tr.desc) := List.forall_mem_map.mpr fun r hr => by
    obtain ⟨a, ha, h16, hs⟩ := hrows r hr
    rw [rowAddr_some ha]
    exact ⟨h16, stallData_row t hlocal hr, hs⟩
  have hapart : rowsApart (dLen tr.desc) (getRows s t tr.desc) := List.pairwise_map.mpr (hp.imp_of_mem fun {r q} hr hq h => by
    have := localGood_row hlocal hr
    have := localGood_row hlocal hq
    simp only
    omega)
  obtain ⟨m, p, f, hget, hrow, hkept⟩ := s.doGet_moves t g tr.desc hlocal hspace hgood (fun r hr => (hrows r hr).imp fun _ h => h.1) hsound hapart
  rw [← s.completeTag_ok_mem m p f t g] at hrow hkept
  refine ⟨_, (get2d_paths s t g tr hf hk).1.trans (congrArg Host.Outcome.next hget), s.completeTag_ended m p f t g, fun r hr a ha => ?_,
    fun b hb => hkept b (List.forall_mem_map.mpr hb)⟩
  exact rowAddr_some ha ▸ hrow _ (List.mem_map_of_mem hr)

theorem put2d_rows (hk : dKind d = 3) (hset : settled s.stalls[t] = true)
    (hrows : ∀ r ∈ dRowList d, (∃ a : Nat, remoteRow s t d r.2 = some a ∧ a % 16 = 0) ∧ sound s (stallData t + r.1.toNat) (16 * dLen d))
    (hp : (dRowList d).Pairwise (fun p q => ∀ a b : Nat, remoteRow s t d p.2 = some a → remoteRow s t d q.2 = some b →
      a + 16 * dLen d ≤ b ∨ b + 16 * dLen d ≤ a)) :
    ∃ u : State, exec (.put2d t g .clean) s = .next u ∧ EndedOk s u t g ∧
      (∀ r ∈ dRowList d, ∀ a : Nat, remoteRow s t d r.2 = some a → u.load a (16 * dLen d) = s.load (stallData t + r.1.toNat) (16 * dLen d)) ∧
      (∀ b : Nat, (∀ r ∈ dRowList d, ∀ a : Nat, remoteRow s t d r.2 = some a → b < a ∨ a + 16 * dLen d ≤ b) →
        Memory.read u.mem b = Memory.read s.mem b) := by
  subst hd
  have hfound : rowsFound s t tr.desc := fun r hr => (hrows r hr).1.imp fun _ h => h.1
  have hsound : rowsSound s (dLen tr.desc) (putRows s t tr.desc) := List.forall_mem_map.mpr fun r hr => by
    obtain ⟨⟨a, ha, h16⟩, hs⟩ := hrows r hr
    rw [rowAddr_some ha]
    exact ⟨stallData_row t hlocal hr, h16, hs⟩
  have hapart : rowsApart (dLen tr.desc) (putRows s t tr.desc) :=
    List.pairwise_map.mpr (hp.imp_of_mem fun hr hq h => h _ _ (hfound.addr hr) (hfound.addr hq))
  obtain ⟨m, p, f, hput, hrow, hkept⟩ := s.doPut_moves t g tr.desc hlocal hspace hset hgood hfound hsound hapart
  rw [← s.completeTag_ok_mem m p f t g] at hrow hkept
  refine ⟨_, (put2d_paths s t g tr hf hk).1.trans (congrArg Host.Outcome.next hput), s.completeTag_ended m p f t g, fun r hr a ha => ?_,
    fun b hb => hkept b (List.forall_mem_map.mpr fun r hr => hb r hr _ (hfound.addr hr))⟩
  exact rowAddr_some ha ▸ hrow _ (List.mem_map_of_mem hr)

end

/-- Settles O18: rows moved as a list of pairs of addresses, of which a one-dimensional transfer has one; a wrong transfer ends before any of it. -/
theorem porterTransfers : Obligations.PorterTransfers := by
  refine ⟨fun s t g tr d x a hx hgood hf hd hl hs ha h16 => ?_, fun s t g tr hf hl => ?_, fun s t g tr hf hl hs hnone => ?_,
    fun s t g tr d x hx hgood hf hd hl hs hk hrows hp => ?_, fun s t g tr d x hx hgood hf hd hl hs hk hset hrows hp => ?_,
    fun s t g tr hf => ?_, fun s t g k _ => rfl⟩
  · subst hx
    refine ⟨fun hk hsound => ?_, fun hk hset hsound => ?_⟩
    · obtain ⟨u, hexec, hload, hkept, hend⟩ := get_single s t g tr d hgood hf hd hl hs a ha h16 hk hsound
      exact ⟨u, hexec, hload, hkept, hend.stalls, hend.regs, hend.pitches⟩
    · obtain ⟨u, hexec, hload, hkept, hend⟩ := put_single s t g tr d hgood hf hd hl hs a ha h16 hk hset hsound
      exact ⟨u, hexec, hload, hkept, hend.stalls, hend.regs, hend.pitches⟩
  · exact ⟨fun hk => (get_paths s t g tr hf hk).1.trans (congrArg Host.Outcome.next (s.doGet_bad t g _ hl)),
      fun hk => (put_paths s t g tr hf hk).1.trans (congrArg Host.Outcome.next (s.doPut_bad t g _ hl)),
      fun hk => (get2d_paths s t g tr hf hk).1.trans (congrArg Host.Outcome.next (s.doGet_bad t g _ hl)),
      fun hk => (put2d_paths s t g tr hf hk).1.trans (congrArg Host.Outcome.next (s.doPut_bad t g _ hl))⟩
  · exact ⟨fun hk => (get2d_paths s t g tr hf hk).1.trans (congrArg Host.Outcome.next (s.doGet_lost t g _ hl hs hnone)),
      fun hk => (put2d_paths s t g tr hf hk).1.trans (congrArg Host.Outcome.next (s.doPut_lost t g _ hl hs hnone))⟩
  · subst hx
    obtain ⟨u, hexec, hend, hload, hkept⟩ := get2d_rows s t g tr d hgood hf hd hl hs hk hrows hp
    exact ⟨u, hexec, hend.regs, hend.stalls, hload, hkept⟩
  · subst hx
    obtain ⟨u, hexec, hend, hload, hkept⟩ := put2d_rows s t g tr d hgood hf hd hl hs hk hset hrows hp
    exact ⟨u, hexec, hend.regs, hend.stalls, hload, hkept⟩
  · exact ⟨fun hk => (get_paths s t g tr hf hk).2, fun hk => (put_paths s t g tr hf hk).2,
      fun hk => (get2d_paths s t g tr hf hk).2, fun hk => (put2d_paths s t g tr hf hk).2⟩

end Sys2Proof.Machine
end

section
/-! SUPPORT. The issue of a stall's instruction (R225, R236, R240, R527; Machine/StallCore.lean): what it leaves where it goes on, and where it holds. -/

namespace Sys2Proof.Machine

/-! ## Issue -/

/-- A stall about to carry out the instruction at its PC: a breakpoint it stood at is behind it. -/
def Stall.resumed (x : Stall) : Stall := { x with skipBp := false }

def State.resumed (s : State) (t : StallId) : State := s.modStall t Stall.resumed

theorem State.issue_issues (s : State) (t : StallId) (f : State → Stall → StallOut) (h : issues s t) :
    s.issue t false f = .next ((s.resumed t).finish t s.stalls[t] (f (s.resumed t) s.stalls[t])) := by
  obtain ⟨hrun, hbp, hsound⟩ := h
  have hstop : (s.stalls[t].bps.toList.any (fun b => b == some s.stalls[t].pc) && !s.stalls[t].skipBp) = false := by
    rcases hbp with h | h
    · rw [h, Bool.not_true, Bool.and_false]
    · rw [List.any_eq_false.mpr fun b hb => by simpa using h b hb, Bool.false_and]
  have hgood := s.poisoned_sound _ _ (stallProg t + 4 * s.stalls[t].pc.toNat) hsound le_rfl (by omega)
  rw [State.issue, hrun, hstop, s.seePoison_sound _ _ hsound]
  simp only [hgood, Bool.not_true, Bool.false_and, Bool.false_eq_true, if_false]
  rfl

/-- Where the stall was resumed from does not matter to where it goes on. -/
theorem Stall.advance_resumed (x : Stall) : x.resumed.advance.resumed = x.advance.resumed := by
  have hlast : x.resumed.lastOfBody = x.lastOfBody := rfl
  have hloops : x.resumed.loops = x.loops := rfl
  cases h : x.loops with
  | nil =>
    simp only [Stall.advance, hloops, h]
    rfl
  | cons l r =>
    simp only [Stall.advance, hloops, h, hlast]
    split
    · split <;> split <;> rfl
    · rfl

theorem State.modStall_modStall (s : State) (t : StallId) (f g : Stall → Stall) :
    (s.modStall t f).modStall t g = s.modStall t (fun x => g (f x)) := by
  simp [State.modStall]

theorem State.resumed_after (s : State) (t : StallId) (f : Stall → Stall) (y : Stall) (hf : f s.stalls[t].resumed = y.resumed) :
    ((s.resumed t).modStall t f).modStall t (fun x => x.advance.resumed) = after s t y := by
  rw [State.resumed, State.modStall_modStall, State.modStall_modStall, State.modStall, hf, Stall.advance_resumed]
  rfl

/-- An instruction that sets no flag, touches no memory and goes on. -/
theorem State.issue_goes (s u : State) (t : StallId) (f : State → Stall → StallOut) (h : ready s t)
    (hf : f (s.resumed t) s.stalls[t] = { st := u }) : s.issue t false f = .next (u.modStall t (fun x => x.advance.resumed)) := by
  rw [s.issue_issues t f h.1, hf, State.finish, h.2]
  rfl

/-- An instruction that changes the stall's registers only. -/
theorem State.issue_after (s : State) (t : StallId) (f : State → Stall → StallOut) (F : Stall → Stall) (y : Stall) (h : ready s t)
    (hf : f (s.resumed t) s.stalls[t] = { st := (s.resumed t).modStall t F }) (hF : F s.stalls[t].resumed = y.resumed) :
    s.issue t false f = .next (after s t y) := by
  rw [s.issue_goes _ t f h hf, s.resumed_after t F y hF]

/-- An instruction that changes nothing. -/
theorem State.issue_idle (s : State) (t : StallId) (f : State → Stall → StallOut) (h : ready s t)
    (hf : f (s.resumed t) s.stalls[t] = { st := s.resumed t }) : s.issue t false f = .next (after s t s.stalls[t]) := by
  rw [s.issue_goes _ t f h hf, State.resumed, State.modStall_modStall, State.modStall, Stall.advance_resumed]
  rfl

/-- An instruction that holds. -/
theorem State.issue_holds (s u : State) (t : StallId) (f : State → Stall → StallOut) (h : issues s t)
    (hf : f (s.resumed t) s.stalls[t] = { st := u, flow := .hold }) : s.issue t false f = .next u := by
  rw [s.issue_issues t f h, hf]
  rfl

end Sys2Proof.Machine
end

section
/-! SUPPORT. The stall-local registers and modifiers (R208, R228, R229, R248; Machine/StallRegs.lean). -/

namespace Sys2Proof.Machine

/-! ## MFS and MTS (R208, R248) -/

theorem takeSnapshot_other (s : State) (x : Stall) (r : Nat) (h : 0x13 ≤ r) : takeSnapshot s x r = x := by
  obtain ⟨k, rfl⟩ := Nat.exists_eq_add_of_le' h
  rfl

theorem localRegister_other (s : State) (t : StallId) (x : Stall) (r : Nat) (h : 0x13 ≤ r) : localRegister s t x r = 0 := by
  obtain ⟨k, rfl⟩ := Nat.exists_eq_add_of_le' h
  rfl

/-- A register that has no snapshot and is neither INQ_POP nor a tag's status. -/
def plainRegister (sel : BitVec 8) : Prop :=
  sel ∉ [3#8, 4#8, 6#8, 0x11#8, 0x0A#8, 0x0B#8, 0x0C#8]

theorem mfs_plain (s : State) (t : StallId) (pd : Fin 16) (sel : BitVec 8) (h : ready s t) (hsel : plainRegister sel)
    (hsnap : ∀ x, takeSnapshot (s.resumed t) x sel.toNat = x) :
    exec (.mfs t pd sel) s = .next (after s t (s.stalls[t].setP pd
      (BitVec.ofNat 24 (localRegister (s.resumed t) t s.stalls[t] sel.toNat)))) := by
  simp only [plainRegister, List.mem_cons, List.not_mem_nil, or_false, not_or] at hsel
  obtain ⟨h3, h4, h6, h11, hA, hB, hC⟩ := hsel
  change execMfs t pd sel s = _
  rw [execMfs]
  refine s.issue_after t _ (fun z => z.setP pd (BitVec.ofNat 24 (localRegister (s.resumed t) t s.stalls[t] sel.toNat))) _ h ?_ rfl
  simp only [h3, h4, h6, h11, hA, hB, hC, or_self, if_false, hsnap]

theorem plainRegister_other {sel : BitVec 8} (h : 0x13 ≤ sel.toNat) : plainRegister sel := fun hmem => by
  simp only [List.mem_cons, List.not_mem_nil, or_false] at hmem
  rcases hmem with rfl | rfl | rfl | rfl | rfl | rfl | rfl <;> exact absurd h (by decide)

theorem mfs_epoch (s : State) (t : StallId) (pd : Fin 16) (h : ready s t) : exec (.mfs t pd 0x06) s =
    .next (after s t (({ s.stalls[t] with snapEpoch := s.ep.count }).setP pd (BitVec.ofNat 24 s.ep.count.toNat))) := by
  change execMfs t pd 0x06 s = _
  rw [execMfs]
  exact s.issue_after t _ (fun z => ({ z with snapEpoch := s.ep.count }).setP pd (BitVec.ofNat 24 s.ep.count.toNat)) _ h rfl rfl

theorem mfs_reads (s : State) (t : StallId) (pd : Fin 16) (x : Stall) (hx : x = s.stalls[t]) (h : ready s t) :
    exec (.mfs t pd 0x00) s = .next (after s t (x.setP pd (BitVec.ofNat 24 t.val))) ∧
    exec (.mfs t pd 0x02) s = .next (after s t (x.setP pd (BitVec.ofNat 24 x.inq.length))) ∧
    exec (.mfs t pd 0x0D) s = .next (after s t (x.setP pd (BitVec.ofNat 24 x.flags.toNat))) ∧
    exec (.mfs t pd 0x0E) s = .next (after s t (x.setP pd (BitVec.ofNat 24 x.trapEn.toNat))) ∧
    exec (.mfs t pd 0x0F) s = .next (after s t (x.setP pd (BitVec.ofNat 24 x.trapCause.toNat))) ∧
    exec (.mfs t pd 0x06) s = .next (after s t (({ x with snapEpoch := s.ep.count }).setP pd (BitVec.ofNat 24 s.ep.count.toNat))) ∧
    exec (.mfs t pd 0x07) s = .next (after s t (x.setP pd (BitVec.ofNat 24 (x.snapEpoch.toNat / 2 ^ 24)))) ∧
    exec (.mfs t pd 0x08) s = .next (after s t (x.setP pd (BitVec.ofNat 24 (x.snapEpoch.toNat / 2 ^ 48)))) := by
  subst hx
  have hplain : ∀ sel ∈ [0x00#8, 0x02#8, 0x0D#8, 0x0E#8, 0x0F#8, 0x07#8, 0x08#8], plainRegister sel := by
    simp only [plainRegister]
    decide
  exact ⟨mfs_plain s t pd 0x00 h (hplain _ (by decide)) fun _ => rfl, mfs_plain s t pd 0x02 h (hplain _ (by decide)) fun _ => rfl,
    mfs_plain s t pd 0x0D h (hplain _ (by decide)) fun _ => rfl, mfs_plain s t pd 0x0E h (hplain _ (by decide)) fun _ => rfl,
    mfs_plain s t pd 0x0F h (hplain _ (by decide)) fun _ => rfl, mfs_epoch s t pd h,
    mfs_plain s t pd 0x07 h (hplain _ (by decide)) fun _ => rfl, mfs_plain s t pd 0x08 h (hplain _ (by decide)) fun _ => rfl⟩

theorem mfs_other (s : State) (t : StallId) (pd : Fin 16) (sel : BitVec 8) (h : ready s t) (hsel : 0x13 ≤ sel.toNat) :
    exec (.mfs t pd sel) s = .next (after s t (s.stalls[t].setP pd 0)) := by
  rw [mfs_plain s t pd sel h (plainRegister_other hsel) fun x => takeSnapshot_other _ x _ hsel, localRegister_other _ _ _ _ hsel]
  rfl

theorem mts_other (s : State) (t : StallId) (ps : Fin 16) (sel : BitVec 8) (h : ready s t) (hsel : sel ≠ 0x0D#8 ∧ sel ≠ 0x0E#8) :
    exec (.mts t sel ps) s = .next (after s t s.stalls[t]) := by
  change execMts t sel ps s = _
  rw [execMts]
  exact s.issue_idle t _ h (by simp only [hsel.1, hsel.2, if_false])

theorem mts_trapEn (s : State) (t : StallId) (ps : Fin 16) (h : ready s t) :
    exec (.mts t 0x0E ps) s = .next (after s t { s.stalls[t] with trapEn := BitVec.ofNat 6 (s.stalls[t].p[ps]).toNat }) := by
  change execMts t 0x0E ps s = _
  rw [execMts]
  exact s.issue_after t _ (fun z => { z with trapEn := BitVec.ofNat 6 (s.stalls[t].p[ps]).toNat }) _ h rfl rfl

/-- FLAGS is cleared where the value written has a bit, in the stall and in its Ledger record. -/
theorem mts_flags (s : State) (t : StallId) (ps : Fin 16) (h : ready s t) :
    ∃ u : State, exec (.mts t 0x0D ps) s = .next u ∧
      u.stalls = (after s t { s.stalls[t] with flags := s.stalls[t].flags &&& ~~~(BitVec.ofNat 6 (s.stalls[t].p[ps]).toNat) }).stalls ∧
      onlyRegs { s with stalls := u.stalls } u [Obj.STALL.FLAGS t] := by
  have hafter := congrArg State.stalls <| s.resumed_after t (fun z => { z with flags := z.flags &&& ~~~(BitVec.ofNat 6 (s.stalls[t].p[ps]).toNat) })
    { s.stalls[t] with flags := s.stalls[t].flags &&& ~~~(BitVec.ofNat 6 (s.stalls[t].p[ps]).toNat) } rfl
  change ∃ u, execMts t 0x0D ps s = .next u ∧ _
  rw [execMts]
  exact ⟨_, s.issue_goes _ t _ h rfl, hafter, rfl, regsKept.put (regsKept.refl _ _) List.mem_cons_self _⟩

/-! ## MFM and MTM (R228, R229) -/

theorem mfm_reads (s : State) (t : StallId) (pd : Fin 16) (mm : Fin 8) (fld : BitVec 8) (h : ready s t) (hf : fld.toNat ≤ 6) :
    exec (.mfm t pd mm fld) s = .next (after s t (s.stalls[t].setP pd (s.stalls[t].m[mm].field (s.resumed t).anyWord fld.toNat))) := by
  change execMfm t pd mm fld s = _
  rw [execMfm]
  exact s.issue_after t _ (fun z => z.setP pd (s.stalls[t].m[mm].field (s.resumed t).anyWord fld.toNat)) _ h
    (by simp only [Nat.not_lt.mpr hf, if_false]; rfl) rfl

theorem mtm_writes (s : State) (t : StallId) (mm : Fin 8) (fld : BitVec 8) (ps : Fin 16) (h : ready s t) (hf : fld ≠ 1#8) :
    exec (.mtm t mm fld ps) s =
      .next (after s t (s.stalls[t].setM mm (s.stalls[t].m[mm].write (s.resumed t).anyWord fld.toNat s.stalls[t].p[ps]))) := by
  change execMtm t mm fld ps s = _
  rw [execMtm]
  exact s.issue_after t _ (fun z => z.setM mm (s.stalls[t].m[mm].write (s.resumed t).anyWord fld.toNat s.stalls[t].p[ps])) _ h
    (by simp only [hf, if_false]; rfl) rfl

theorem Stall.setM_self (x : Stall) (mm : Fin 8) : x.setM mm x.m[mm] = x := by
  rw [Stall.setM, show x.m.set mm x.m[mm] = x.m from Vector.set_getElem_self mm.isLt]

/-- A length written; the draw is that of a length beyond 3_0000h. -/
theorem mtm_length (s : State) (t : StallId) (mm : Fin 8) (ps : Fin 16) (m : Modifier) (h : ready s t)
    (hm : s.stalls[t].m[mm].write (s.resumed t).anyWord 1 s.stalls[t].p[ps] = m) :
    ∃ u : State, exec (.mtm t mm 1 ps) s = .next u ∧ u.stalls = (after s t (s.stalls[t].setM mm m)).stalls ∧ u.regs = s.regs ∧ u.mem = s.mem := by
  have hafter := congrArg State.stalls <| s.resumed_after t
    (fun z => z.setM mm (s.stalls[t].m[mm].write (s.resumed t).anyWord 1 s.stalls[t].p[ps])) (s.stalls[t].setM mm m) (by rw [hm]; rfl)
  change ∃ u, execMtm t mm 1 ps s = .next u ∧ _
  rw [execMtm]
  exact ⟨_, s.issue_goes _ t _ h rfl, hafter, rfl, rfl⟩

theorem Modifier.write_length (m : Modifier) (any v : BitVec 24) (hv : v.toNat ≤ 0x30000) :
    (m.len ≠ 0 → m.write any 1 v = { m with staged := v }) ∧
    (m.len = 0 → v ≠ 0 → m.write any 1 v = { m with len := v, prevLen := 0, staged := 0 }) := by
  refine ⟨fun hl => ?_, fun hl hne => ?_⟩
  · simp only [Modifier.write, Nat.not_lt.mpr hv, hl, if_false]
  · simp only [Modifier.write, Nat.not_lt.mpr hv, hl, if_true, if_false, Modifier.takeStaged, hne]

theorem Modifier.field_flags (m : Modifier) (any : BitVec 24) :
    m.field any 6 = BitVec.ofNat 24 ((if m.trim then 1 else 0) + if m.staged = 0 then 0 else 2) := by
  rw [Modifier.field]
  split <;> split <;> simp_all

theorem Modifier.write_flags (m : Modifier) (any v : BitVec 24) :
    m.write any 6 v = { m with trim := m.trim && decide (v.toNat % 2 = 0) } := by
  have hbit : (!v.getLsbD 0) = decide (v.toNat % 2 = 0) := by
    rw [BitVec.getLsbD, Nat.testBit_zero, ← decide_not]
    exact decide_eq_decide.mpr Nat.mod_two_ne_one
  rw [Modifier.write, hbit]

end Sys2Proof.Machine
end

section
/-! SUPPORT. ISSUE, WAIT and INQ_POP (R188, R189, R193, R225, R232, R235, R247; Machine/StallRegs.lean). -/

namespace Sys2Proof.Machine

/-! ## ISSUE (R189, R232) -/

/-- The next transaction of the porter has the next number. -/
def State.nextSerial (s : State) : State := { s with array := { s.array with serial := s.array.serial + 1 } }

theorem State.nextSerial_modStall (s : State) (t : StallId) (f : Stall → Stall) : s.nextSerial.modStall t f = (s.modStall t f).nextSerial := rfl

/-- A stall whose transaction is in flight on a tag. -/
def Stall.issued (x : Stall) (tt : Fin 16) (d pay : List Byte) (serial : Nat) : Stall :=
  { x with t := x.t.set tt ⟨0, some ⟨d, pay, serial⟩, if dKind d = 0 ∨ dKind d = 2 then d :: x.t[tt].gets else x.t[tt].gets⟩ }

theorem State.accept_known (s : State) (t : StallId) (tt : Fin 16) (d pay : List Byte) (h : dKind d < 7) :
    s.accept t tt d pay = (s.modStall t (fun x => x.issued tt d pay s.array.serial)).nextSerial := by
  rw [State.accept, if_neg (by omega)]
  rfl

/-- A transaction of an unknown KIND ends with FAULT as it is issued (R233). -/
theorem State.accept_unknown (s : State) (t : StallId) (tt : Fin 16) (d pay : List Byte) (h : 7 ≤ dKind d) :
    s.accept t tt d pay = (s.modStall t (fun x => { x with t := x.t.set tt ⟨4, none, x.t[tt].gets⟩ })).nextSerial := by
  have hkind : ¬(dKind d = 0 ∨ dKind d = 2) := by omega
  rw [State.accept, if_pos h]
  simp only [hkind, if_false]
  change (State.nextSerial _).modStall t _ = _
  rw [State.nextSerial_modStall, State.modStall_modStall]
  simp [State.modStall]

/-- The payload copied with a descriptor (R232). -/
def payloadOf (s : State) (t : StallId) (d : List Byte) : List Byte :=
  if dKind d = 5 ∨ dKind d = 6 then (if dLocal d + 16 ≤ 0x30000 then s.load (stallData t + dLocal d) 16 else []) else []

section
variable (s : State) (t : StallId) (tt pn : Fin 16) (x : Stall) (a : Nat) (d : List Byte) (hx : x = s.stalls[t]) (h : ready s t)
  (hset : settled x = true) (hfree : x.t[tt].flight = none) (ha : a = (x.p[pn]).toNat / 16 * 16) (hin : a + 32 ≤ 0x30000)
  (hd : d = s.load (stallData t + a) 32) (hwatch : watchHit x a 32 false = false)
include hx h hset hfree ha hin hd hwatch

/-- An ISSUE on a free tag takes the descriptor, goes on, and then sets the flag of one that is unknown. -/
theorem issue_takes (v : State) (hv : v = ((s.resumed t).accept t tt d (payloadOf s t d)).modStall t (fun y => y.advance.resumed)) :
    exec (.issue t tt pn) s = .next (if 7 ≤ dKind d then v.raiseFlag t 4 else v) := by
  subst hx
  have hset' : settled (s.resumed t).stalls[t] = true := by rw [State.resumed, State.modStall_self]; exact hset
  have haligned : aligned (s.stalls[t].getP pn).toNat 16 = a := ha.symm
  have hok : localOk a 32 false = true := by simpa [localOk] using hin
  have hbytes : ∀ b n base, (s.resumed t).localBytes t b n base = s.load (stallData t + b) n := fun b n base => by
    rw [State.localBytes, if_pos hset']
    rfl
  change execIssue t tt pn s = _
  rw [execIssue, s.issue_issues t _ h.1, hv]
  simp only [haligned, hfree, hok, hbytes, ← hd, State.drewLocal, hset', Option.isSome_none, Bool.false_eq_true, if_false, if_true]
  rw [State.finish]
  by_cases hkind : 7 ≤ dKind d <;> simp only [h.2, hwatch, hkind, Bool.false_eq_true, and_false, if_false, if_true] <;> rfl

theorem issue_known (hk : dKind d < 7) :
    exec (.issue t tt pn) s = .next (after s t (x.issued tt d (payloadOf s t d) s.array.serial)).nextSerial := by
  rw [issue_takes s t tt pn x a d hx h hset hfree ha hin hd hwatch _ rfl, if_neg (by omega), State.accept_known _ _ _ _ _ hk,
    State.nextSerial_modStall, s.resumed_after t _ (x.issued tt d (payloadOf s t d) s.array.serial) (by rw [hx]; rfl)]

theorem issue_unknown (hk : 7 ≤ dKind d) :
    exec (.issue t tt pn) s =
      .next ((after s t { x with t := x.t.set tt ⟨4, none, x.t[tt].gets⟩ }).nextSerial.raiseFlag t 4) := by
  rw [issue_takes s t tt pn x a d hx h hset hfree ha hin hd hwatch _ rfl, if_pos hk, State.accept_unknown _ _ _ _ _ hk,
    State.nextSerial_modStall, s.resumed_after t _ { x with t := x.t.set tt ⟨4, none, x.t[tt].gets⟩ } (by rw [hx]; rfl)]

end

/-- While its tag is in flight an ISSUE holds, and counts. -/
theorem issue_waits (s : State) (t : StallId) (tt pn : Fin 16) (f : Transaction) (h : issues s t) (hf : s.stalls[t].t[tt].flight = some f) :
    exec (.issue t tt pn) s = .next ((s.resumed t).bump (Obj.STALL.TAG_HOLD t)) := by
  change execIssue t tt pn s = _
  rw [execIssue]
  exact s.issue_holds _ t _ h (by simp only [hf, Option.isSome_some, if_true])

/-! ## WAIT (R225, R235, R247) -/

theorem wait_returns (s : State) (t : StallId) (tt pd : Fin 16) (x : Stall) (hx : x = s.stalls[t]) (h : ready s t) (hf : x.t[tt].flight = none) :
    exec (.wait t tt pd) s = .next (after s t ({ x with t := x.t.set tt { x.t[tt] with gets := [] } }.setP pd
      (BitVec.ofNat 24 x.t[tt].status.toNat))) := by
  subst hx
  change execWait t tt pd s = _
  rw [execWait, BitVec.ofNat_toNat]
  exact s.issue_after t _ (fun y => { y.setP pd (s.stalls[t].t[tt].status.setWidth 24) with t := y.t.set tt { y.t[tt] with gets := [] } }) _ h
    (by simp only [hf, Option.isSome_none, Bool.false_eq_true, if_false]) rfl

theorem wait_holds (s : State) (t : StallId) (tt pd : Fin 16) (f : Transaction) (h : issues s t) (hf : s.stalls[t].t[tt].flight = some f) :
    exec (.wait t tt pd) s = .next (s.resumed t) := by
  change execWait t tt pd s = _
  rw [execWait]
  exact s.issue_holds _ t _ h (by simp only [hf, Option.isSome_some, if_true])

/-! ## INQ_POP (R193) -/

theorem inqPop_takes (s : State) (t : StallId) (pd : Fin 16) (x : Stall) (i : Fin 4) (r : List (Fin 4)) (hx : x = s.stalls[t]) (h : ready s t)
    (hq : x.inq = i :: r) :
    exec (.inqPop t pd) s = .next (after s t ({ x with inq := r, lastPop := some i }.setP pd (BitVec.ofNat 24 (0x2FB00 + 64 * i.val)))) := by
  subst hx
  change execInqPop t pd s = _
  rw [execInqPop]
  exact s.issue_after t _ (fun y => { y.setP pd (BitVec.ofNat 24 (descriptorAddr i)) with inq := r, lastPop := some i }) _ h
    (by rw [popDescriptor, hq]) rfl

theorem inqPop_holds (s : State) (t : StallId) (pd : Fin 16) (x : Stall) (hx : x = s.stalls[t]) (h : issues s t) (hq : x.inq = []) :
    exec (.inqPop t pd) s = .next { s with stalls := s.stalls.set t { x with lastPop := none, skipBp := false } } := by
  subst hx
  change execInqPop t pd s = _
  rw [execInqPop, s.issue_holds _ t _ h (by rw [popDescriptor, hq]), State.resumed, State.modStall_modStall]
  rfl

/-- INQ_POP is the read of register 03h (R193, R248). -/
theorem mfs_inqPop (s : State) (t : StallId) (pd : Fin 16) : exec (.mfs t pd 0x03) s = exec (.inqPop t pd) s := rfl

/-- Settles O28, instruction by instruction: each goes on with the stall's registers changed, or holds. -/
theorem stallRegistersAndPorter : Obligations.StallRegistersAndPorter := by
  refine ⟨⟨fun s t pd ps x hx h => ?_, fun s t pd ps mm x m v hx hm hv h => ?_⟩, fun s t tt pn x a d hx h hset hfree ha hin hd hw hk => ?_,
    fun s t tt pn x a d hx h hset hfree ha hin hd hw => ⟨fun hk hin' => ?_, fun hk => ?_⟩, fun s t tt pn f h hf hroom => ?_,
    fun s t tt pd x hx => ⟨fun h hf => wait_returns s t tt pd x hx h hf, fun f h hf => ?_⟩,
    fun s t pd x hx => ⟨fun i r h hq => ⟨inqPop_takes s t pd x i r hx h hq, mfs_inqPop s t pd⟩, fun h hq => inqPop_holds s t pd x hx h hq⟩⟩
  · obtain ⟨h0, h2, hD, hE, hF, h6, h7, h8⟩ := mfs_reads s t pd x hx h
    subst hx
    exact ⟨h0, h2, hD, hE, hF, h6, h7, h8, fun sel hsel => ⟨mfs_other s t pd sel h hsel, mts_other s t ps sel h
        ⟨fun e => absurd (e ▸ hsel) (by decide), fun e => absurd (e ▸ hsel) (by decide)⟩⟩,
      mts_trapEn s t ps h, mts_other s t ps 0x00 h (by decide), mts_other s t ps 0x0F h (by decide), mts_flags s t ps h⟩
  · subst hx hm hv
    have hlen := s.stalls[t].m[mm].write_length (s.resumed t).anyWord s.stalls[t].p[ps]
    refine ⟨mfm_reads s t pd mm 0 h (by decide), mfm_reads s t pd mm 1 h (by decide), mfm_reads s t pd mm 2 h (by decide),
      mfm_reads s t pd mm 3 h (by decide), mfm_reads s t pd mm 4 h (by decide), mfm_reads s t pd mm 5 h (by decide), ?_,
      mtm_writes s t mm 0 ps h (by decide), mtm_writes s t mm 2 ps h (by decide), ?_, ?_, mtm_writes s t mm 5 ps h (by decide), ?_,
      fun hv hl => mtm_length s t mm ps _ h ((hlen hv).1 hl), fun hv hl hne => mtm_length s t mm ps _ h ((hlen hv).2 hl hne)⟩
    · have hread := mfm_reads s t pd mm 6 h (by decide)
      rwa [show (6 : BitVec 8).toNat = 6 from rfl, Modifier.field_flags] at hread
    · exact (mtm_writes s t mm 3 ps h (by decide)).trans (congrArg (fun y => Host.Outcome.next (after s t y)) (s.stalls[t].setM_self mm))
    · exact (mtm_writes s t mm 4 ps h (by decide)).trans (congrArg (fun y => Host.Outcome.next (after s t y)) (s.stalls[t].setM_self mm))
    · have hwrite := mtm_writes s t mm 6 ps h (by decide)
      rwa [show (6 : BitVec 8).toNat = 6 from rfl, Modifier.write_flags] at hwrite
  · rw [issue_known s t tt pn x a d hx h hset hfree ha hin hd hw (by omega), payloadOf, if_neg (by omega)]
    rfl
  · rw [issue_known s t tt pn x a d hx h hset hfree ha hin hd hw (by omega), payloadOf, if_pos hk, if_pos hin', Stall.issued, if_neg (by omega)]
    rfl
  · exact issue_unknown s t tt pn x a d hx h hset hfree ha hin hd hw hk
  · exact ⟨_, issue_waits s t tt pn f h hf, State.u_bump_self (s.resumed t) _ hroom, rfl, (regsKept.refl s _).put List.mem_cons_self _, rfl, rfl⟩
  · subst hx
    exact wait_holds s t tt pd f h hf

end Sys2Proof.Machine
end

section
/-! SUPPORT. What a read of memory leaves (R323 to R326; Machine/Ops.lean): every part of State beside the memories, and the registers of the
records below 7A40h. -/

namespace Sys2Proof.Machine

/-! ## What lies beside the memories -/

/-- The parts of State other than memory, poison marks and bits in error, and what the registers below the memory's own records read. -/
def State.besideMemory (s : State) : State × (Reg → Nat) :=
  ({ s with regs := [], mem := [], poison := [], flips := [] }, fun r => if r.key < 0x7A4000 then s.u r else 0)

theorem State.u_of_besideMemory {s t : State} (h : t.besideMemory = s.besideMemory) (r : Reg) (hr : r.key < 0x7A4000) : t.u r = s.u r := by
  simpa only [State.besideMemory, hr, if_true] using congrFun (congrArg Prod.snd h) r

theorem State.stalls_of_besideMemory {s t : State} (h : t.besideMemory = s.besideMemory) : t.stalls = s.stalls := congrArg (fun p => p.1.stalls) h
theorem State.pitches_of_besideMemory {s t : State} (h : t.besideMemory = s.besideMemory) : t.pitches = s.pitches := congrArg (fun p => p.1.pitches) h

theorem State.besideMemory_put (s : State) {r : Reg} (v : Nat) (hr : 0x7A4000 ≤ r.key) : (s.put r v).besideMemory = s.besideMemory := by
  refine Prod.ext rfl (funext fun x => ?_)
  change (if x.key < 0x7A4000 then (s.put r v).u x else 0) = if x.key < 0x7A4000 then s.u x else 0
  split
  · exact State.u_put_ne _ _ _ _ (by omega)
  · rfl

theorem State.besideMemory_foldl {α : Type} {f : State → α → State} (h : ∀ t a, (f t a).besideMemory = t.besideMemory) (l : List α) (s : State) :
    (l.foldl f s).besideMemory = s.besideMemory := by
  induction l generalizing s with
  | nil => rfl
  | cons a l ih => exact (ih _).trans (h s a)

/-! ## Reads -/

theorem State.besideMemory_countSingle (s : State) (a : Nat) : (s.countSingle a).besideMemory = s.besideMemory := by
  rw [State.countSingle]
  cases memKind s a with
  | yard => exact s.besideMemory_put _ (by decide)
  | stall => exact s.besideMemory_put _ (by decide)
  | dram => exact s.besideMemory_put _ (by simp only [Obj.DRAM_CHANNEL.CE]; omega)
  | outside => rfl

theorem State.besideMemory_countUncorr (s : State) (a : Nat) (y : BitVec 9) : (s.countUncorr a y).besideMemory = s.besideMemory := by
  have hshown : ((((s.bump Obj.MEMORY.UNCORR).put Obj.MEMORY.LAST_UNCORR (a / 16 * 16)).setBit Obj.MEMORY.FLAGS
      Bit.MEMORY.FLAGS.UNCORR)).besideMemory = s.besideMemory :=
    (State.besideMemory_put _ _ (by decide)).trans ((State.besideMemory_put _ _ (by decide)).trans (State.besideMemory_put _ _ (by decide)))
  rw [State.countUncorr]
  split
  · rfl
  · simp only
    split
    · exact (State.besideMemory_put _ _ (by simp only [Obj.DRAM_CHANNEL.UNCORR]; omega)).trans hshown
    · exact hshown

/-- A word of the memories that State.mem lists is met. -/
theorem State.besideMemory_meet (s t : State) (a : Nat) : (s.meet a (plainHolder t a)).besideMemory = s.besideMemory := by
  rw [State.meet]
  split
  · rfl
  · simp only
    split
    · rfl
    · exact State.besideMemory_countSingle _ a
    · exact State.besideMemory_countUncorr _ a _

theorem State.besideMemory_seePoison (s : State) (a n : Nat) : (s.seePoison a n).besideMemory = s.besideMemory := by
  rw [State.seePoison, State.meetWords]
  refine (State.besideMemory_foldl (fun t (e : Nat × BitVec 137) => t.besideMemory_meet t e.1) _ _).trans ?_
  split
  · rfl
  · exact s.besideMemory_put _ (by decide)

theorem State.besideMemory_copyWords (s : State) (a b n : Nat) : (s.copyWords a b n).besideMemory = s.besideMemory :=
  s.besideMemory_seePoison a n

theorem State.besideMemory_placeWords (s : State) (a : Nat) (l : List Byte) : (s.placeWords a l).besideMemory = s.besideMemory := rfl

end Sys2Proof.Machine
end

section
/-! SUPPORT. DONE, TRIG and MAIL (R191, R197, R233, R234; Machine/Porter.lean, Machine/Array.lean). -/

namespace Sys2Proof.Machine

/-! ## What the reorder buffers' service leaves -/

/-- Stalls, pitches and the LATE_DROP of every pitch stay. -/
structure PitchesKept (s u : State) : Prop where
  stalls : u.stalls = s.stalls
  pitches : u.pitches = s.pitches
  lateDrop : ∀ k : Fin 192, u.u (Obj.PITCH.LATE_DROP k) = s.u (Obj.PITCH.LATE_DROP k)

theorem PitchesKept.refl (s : State) : PitchesKept s s := ⟨rfl, rfl, fun _ => rfl⟩

theorem PitchesKept.trans {s t u : State} (h : PitchesKept s t) (g : PitchesKept t u) : PitchesKept s u :=
  ⟨g.stalls.trans h.stalls, g.pitches.trans h.pitches, fun k => (g.lateDrop k).trans (h.lateDrop k)⟩

theorem PitchesKept.withArray {s t : State} (h : PitchesKept s t) (a : ArrayPart) : PitchesKept s { t with array := a } :=
  ⟨h.stalls, h.pitches, h.lateDrop⟩

theorem PitchesKept.of_besideMemory {s t : State} (h : t.besideMemory = s.besideMemory) : PitchesKept s t :=
  ⟨State.stalls_of_besideMemory h, State.pitches_of_besideMemory h,
    fun k => State.u_of_besideMemory h _ (by simp only [Obj.PITCH.LATE_DROP]; omega)⟩

/-- Beside that memory stays, and the reorder buffers hold no record that they did not hold. -/
structure RecordsLeave (s u : State) : Prop extends PitchesKept s u where
  mem : u.mem = s.mem
  records : ∀ r ∈ u.array.reorder, r ∈ s.array.reorder

theorem RecordsLeave.refl (s : State) : RecordsLeave s s := ⟨PitchesKept.refl s, rfl, fun _ h => h⟩

theorem RecordsLeave.trans {s t u : State} (h : RecordsLeave s t) (g : RecordsLeave t u) : RecordsLeave s u :=
  ⟨h.toPitchesKept.trans g.toPitchesKept, g.mem.trans h.mem, fun r hr => h.records r (g.records r hr)⟩

theorem RecordsLeave.foldl {α : Type} {f : State → α → State} (h : ∀ t a, RecordsLeave t (f t a)) (l : List α) (s : State) :
    RecordsLeave s (l.foldl f s) := by
  induction l generalizing s with
  | nil => exact RecordsLeave.refl s
  | cons a l ih => exact (h s a).trans (ih _)

theorem RecordsLeave.ite {s a b : State} {c : Prop} [Decidable c] (ha : RecordsLeave s a) (hb : RecordsLeave s b) :
    RecordsLeave s (if c then a else b) := by
  split
  · exact ha
  · exact hb

theorem RecordsLeave.put (s : State) (r : Reg) (v : Nat) (hr : ∀ k : Fin 192, r.key ≠ (Obj.PITCH.LATE_DROP k).key) :
    RecordsLeave s (s.put r v) :=
  ⟨⟨rfl, rfl, fun k => State.u_put_ne _ _ _ _ (hr k)⟩, rfl, fun _ h => h⟩

/-- Some records leave the buffers, whatever else of them is kept. -/
theorem RecordsLeave.withArray {s t : State} (h : RecordsLeave s t) (a : ArrayPart) (ha : ∀ r ∈ a.reorder, r ∈ t.array.reorder) :
    RecordsLeave s { t with array := a } :=
  ⟨h.toPitchesKept.withArray a, h.mem, fun r hr => h.records r (ha r hr)⟩

theorem RecordsLeave.erase {s t : State} (h : RecordsLeave s t) (r : ReorderRec) (l : List ReorderRec) :
    RecordsLeave s { t with array := { t.array with reorder := t.array.reorder.erase r, sweeps := l } } :=
  h.withArray _ fun _ hx => List.mem_of_mem_erase hx

theorem RecordsLeave.takeItem (s : State) (k : Fin 256) (it : Item) : RecordsLeave s (s.takeItem k it) :=
  ⟨⟨rfl, rfl, fun _ => rfl⟩, rfl, fun _ h => h⟩

theorem RecordsLeave.withFresh (s : State) (n : Nat) : RecordsLeave s { s with fresh := n } := ⟨⟨rfl, rfl, fun _ => rfl⟩, rfl, fun _ h => h⟩

theorem State.toStreams_records (s : State) (kind : Nat) (takes : Fin 256 → Bool) (it : Fin 256 → Item) :
    RecordsLeave s (s.toStreams kind takes it) := by
  rw [State.toStreams, overAll]
  exact RecordsLeave.foldl (fun t k => RecordsLeave.ite (RecordsLeave.takeItem t k _) (RecordsLeave.refl t)) _ s

theorem late_lateDrop (k : Nat) (j : Fin 192) : (Obj.PITCH.LATE k).key ≠ (Obj.PITCH.LATE_DROP j).key := by
  simp only [Obj.PITCH.LATE, Obj.PITCH.LATE_DROP]
  omega

theorem State.releaseOutput_records (s : State) (r : ReorderRec) (o : Fin 4) : RecordsLeave s (s.releaseOutput r o) := by
  rw [State.releaseOutput]
  refine RecordsLeave.ite (RecordsLeave.refl s) ?_
  refine RecordsLeave.trans ?_ (RecordsLeave.foldl (fun t (e : Fin 192 × Resolved) => RecordsLeave.put t _ _ (late_lateDrop e.1)) _ _)
  exact (RecordsLeave.withFresh s _).trans (State.toStreams_records _ _ _ _)

/-- The oldest record of a slot's and port's buffers is released. -/
def State.releaseRecord (s : State) (r : ReorderRec) : State :=
  let t := (List.finRange 4).foldl (fun u o => u.releaseOutput r o) s
  { t with array := { t.array with reorder := t.array.reorder.erase r, sweeps := keepSweep t.array.sweeps r } }

theorem State.releaseRecord_records (s : State) (r : ReorderRec) : RecordsLeave s (s.releaseRecord r) := by
  have hleave := RecordsLeave.foldl (fun t o => t.releaseOutput_records r o) (List.finRange 4) s
  rw [State.releaseRecord]
  generalize (List.finRange 4).foldl (fun u o => u.releaseOutput r o) s = t at hleave ⊢
  exact hleave.erase r _

theorem releaseFrom_records (f : Nat) (s : State) (g : Fin 16) (n : Port) (now : BitVec 32) : RecordsLeave s (releaseFrom f s g n now) := by
  induction f generalizing s with
  | zero => exact RecordsLeave.refl s
  | succ f ih =>
    rw [releaseFrom]
    cases s.array.reorder.find? (fun r => r.slot == g && r.port == n) with
    | none => exact RecordsLeave.refl s
    | some r =>
      refine RecordsLeave.ite (RecordsLeave.trans ?_ (ih _)) (RecordsLeave.refl s)
      exact s.releaseRecord_records r

theorem State.release_records (s : State) (g : Fin 16) (n : Port) : RecordsLeave s (s.release g n) := releaseFrom_records _ s g n _

theorem releaseEff_records (s : State) (n : Port) (b : Nat) : RecordsLeave s (releaseEff s n b) :=
  RecordsLeave.ite (RecordsLeave.put s _ _ fun k => by
    simp only [Obj.BRIL_STATUS.BUF_HELD, Obj.PITCH.LATE_DROP]
    omega) (RecordsLeave.refl s)

theorem State.releaseBuffer_records (s : State) (n : Port) (d : BitVec 32) : RecordsLeave s (s.releaseBuffer n d) := by
  rw [State.releaseBuffer]
  simp only
  split
  · exact RecordsLeave.refl s
  · exact RecordsLeave.ite ((releaseEff_records s n _).withArray _ fun _ h => h) (RecordsLeave.refl s)

/-- Without a record of the delivery no buffer is released. -/
theorem State.releaseBuffer_none (s : State) (n : Port) (d : BitVec 32) (h : s.array.reorder = []) (hs : s.array.sweeps = []) :
    s.releaseBuffer n d = s := by
  rw [State.releaseBuffer, h, hs]
  rfl

theorem State.fitBlock_kept (s : State) (g : Fin 16) (n : Port) (d : BitVec 32) (k : Fin 192) : PitchesKept s (s.fitBlock g n d k) := by
  have hread : (s.readSpectrum n d k g).besideMemory = s.besideMemory := by
    rw [State.readSpectrum]
    split
    · rfl
    · exact (State.besideMemory_seePoison _ _ _).trans (s.besideMemory_seePoison _ _)
  rw [State.fitBlock]
  split
  · exact (PitchesKept.of_besideMemory hread).withArray _
  · exact PitchesKept.refl s

/-! ## A pitch is resolved (R197) -/

/-- No record of a delivery holds a pitch unresolved. -/
def resolvedIn (l : List ReorderRec) (g : Fin 16) (n : Port) (d : BitVec 32) (k : Fin 192) : Prop :=
  ∀ r ∈ l, recFor g n d r = true → ∀ e ∈ r.pitches, e.1 = k → e.2.isOpen = false

theorem State.resolve_resolves (s : State) (g : Fin 16) (n : Port) (d : BitVec 32) (k : Fin 192) (v : Resolved) (hv : v.isOpen = false) :
    resolvedIn (s.resolve g n d k v).array.reorder g n d k := by
  intro r hr hfor e he hk
  obtain ⟨x, -, rfl⟩ := List.mem_map.mp hr
  split at hfor <;> rename_i hx
  · rw [if_pos hx] at he
    obtain ⟨y, -, rfl⟩ := List.mem_map.mp he
    split at hk <;> rename_i hy
    · rw [if_pos hy]
      exact hv
    · rw [if_neg hy]
      exact Bool.eq_false_iff.mpr fun ho => hy ⟨hk, ho⟩
  · exact absurd hfor hx

/-! ## DONE (R191, R197, R198, R233) -/

theorem done_eq (s : State) (t : StallId) (g : Fin 16) (tr : Transaction) (hf : s.stalls[t].t[g].flight = some tr) (hk : dKind tr.desc = 4) :
    exec (.done t g) s = .next (if resultPutPending s.stalls[t] tr.serial then s else s.doDone t g tr.desc) :=
  withFlight_some s t g 4 (fun x => if resultPutPending s.stalls[t] x.serial then s else s.doDone t g x.desc) tr hf hk

theorem State.doDone_bad (s : State) (t : StallId) (g : Fin 16) (d : List Byte) (h : localGood d = false) : s.doDone t g d = s.completeTag t g 4 := by
  rw [State.doDone, h]
  rfl

theorem State.doDone_stranger (s : State) (t : StallId) (g : Fin 16) (d : List Byte) (h : localGood d = true)
    (hp : s.stalls[t].pitches[dFlags d / 32 % 4]? = none) : s.doDone t g d = s.completeTag t g 4 := by
  rw [State.doDone, h, hp]
  rfl

/-- A tag ends OK, of a stall that does not reload at its DONE. -/
theorem State.completeTag_stays (s : State) (t : StallId) (g : Fin 16) (h : s.stalls[t].reload = false) :
    (s.completeTag t g 1).reloadAtDone t = s.modStall t (fun x => x.tagOk g) := by
  have hstays : (s.modStall t (fun x => x.tagOk g)).stalls[t].reload = false := by rw [State.modStall_self]; exact h
  rw [State.completeTag_ok, State.reloadAtDone, hstays, if_neg Bool.false_ne_true]

theorem State.modStall_tagOk (s : State) (t : StallId) (g : Fin 16) : (s.modStall t (fun x => x.tagOk g)).stalls[t].t[g].status = 1 ∧
    (s.modStall t (fun x => x.tagOk g)).stalls[t].t[g].flight = none := by
  have htag : (s.stalls[t].tagOk g).t[g] = { s.stalls[t].t[g] with status := 1, flight := none } := Vector.getElem_set_self g.isLt
  rw [State.modStall_self, htag]
  exact ⟨rfl, rfl⟩

/-- What a DONE's descriptor tells its pitch. -/
def doneOf (d : List Byte) : Resolved := .done (BitVec.ofNat 4 (dFlags d)) (dFlags d / 16 % 2 == 1)

section
variable (s : State) (t : StallId) (g : Fin 16) (d : List Byte) (k : Fin 192) (hlocal : localGood d = true)
  (hp : s.stalls[t].pitches[dFlags d / 32 % 4]? = some k) (hmem : dDeliv d ∈ s.pitches[k].offers)
include hlocal hp hmem

theorem State.doDone_live (hlive : s.array.reorder.any (recFor (pitchSlot s k) (stallPort s k) (dDeliv d)) = true) :
    s.doDone t g d = ((((((s.seeDone t k (dDeliv d)).fitBlock (pitchSlot s k) (stallPort s k) (dDeliv d) k).resolve (pitchSlot s k) (stallPort s k)
      (dDeliv d) k (doneOf d)).releaseBuffer (stallPort s k) (dDeliv d)).release (pitchSlot s k) (stallPort s k)).completeTag t g 1).reloadAtDone t := by
  rw [State.doDone, hlocal, hp]
  simp only [List.contains_eq_mem, hmem, hlive, decide_true, Bool.not_true, Bool.false_eq_true, if_false, if_true]
  rfl

theorem State.doDone_late (hlive : s.array.reorder.any (recFor (pitchSlot s k) (stallPort s k) (dDeliv d)) = false) :
    s.doDone t g d = (((((s.seeDone t k (dDeliv d)).bump (Obj.PITCH.LATE_DROP k)).resolve (pitchSlot s k) (stallPort s k)
      (dDeliv d) k (doneOf d)).releaseBuffer (stallPort s k) (dDeliv d)).completeTag t g 1).reloadAtDone t := by
  rw [State.doDone, hlocal, hp]
  simp only [List.contains_eq_mem, hmem, hlive, decide_true, Bool.not_true, Bool.false_eq_true, if_false, if_true]
  rfl

end

/-- The LAG, CYCLES_LAST and CYCLES_MAX that a DONE shows. -/
def doneRegs (t : StallId) (k : Fin 192) : List Reg := [Obj.PITCH.LAG k, Obj.STALL.CYCLES_LAST t, Obj.STALL.CYCLES_MAX t]

theorem State.seeDone_shows (s : State) (t : StallId) (k : Fin 192) (v : BitVec 32) :
    (s.seeDone t k v).stalls = s.stalls ∧ (s.seeDone t k v).pitches[k].offers = s.pitches[k].offers.erase v ∧ (s.seeDone t k v).mem = s.mem ∧
    (s.seeDone t k v).array = s.array ∧ regsKept s (s.seeDone t k v) (doneRegs t k) := by
  refine ⟨rfl, ?_, rfl, rfl, ?_⟩
  · exact congrArg PitchPart.offers (s.modPitch_self k (fun x => { x with offers := x.offers.erase v }))
  · exact (((regsKept.refl s _).put List.mem_cons_self _).put (List.mem_cons_of_mem _ List.mem_cons_self) _).put
      (List.mem_cons_of_mem _ (List.mem_cons_of_mem _ List.mem_cons_self)) _

theorem doneRegs_apart (t : StallId) (k : Fin 192) (r : Reg) (h : r = Obj.PITCH.LATE_DROP k ∨ 0x511000 ≤ r.key ∧ r.key < 0x514000) :
    ∀ x ∈ doneRegs t k, x.key ≠ r.key := by
  have ht := t.isLt
  simp only [doneRegs, List.forall_mem_cons, List.not_mem_nil, false_implies, implies_true, and_true, Obj.PITCH.LAG, Obj.STALL.CYCLES_LAST,
    Obj.STALL.CYCLES_MAX]
  rcases h with rfl | h
  · simp only [Obj.PITCH.LATE_DROP]
    omega
  · omega

theorem State.resolve_kept (s : State) (g : Fin 16) (n : Port) (d : BitVec 32) (k : Fin 192) (v : Resolved) :
    PitchesKept s (s.resolve g n d k v) ∧ (s.resolve g n d k v).mem = s.mem := ⟨⟨rfl, rfl, fun _ => rfl⟩, rfl⟩

theorem runsFit_seeDone (s : State) (t : StallId) (k : Fin 192) (v : BitVec 32) (g : Fin 16) : runsFit (s.seeDone t k v) g = runsFit s g := by
  obtain ⟨-, -, -, -, hregs⟩ := s.seeDone_shows t k v
  rw [runsFit, runsFit, hregs (Obj.PROGRAM_SLOT.LIB_ID g) (doneRegs_apart t k _ (.inr (by simp only [Obj.PROGRAM_SLOT.LIB_ID]; omega))),
    hregs (Obj.PROGRAM_SLOT.SIGNED g) (doneRegs_apart t k _ (.inr (by simp only [Obj.PROGRAM_SLOT.SIGNED]; omega)))]

section
variable (s : State) (t : StallId) (g : Fin 16) (tr : Transaction) (k : Fin 192) (hf : s.stalls[t].t[g].flight = some tr) (hk : dKind tr.desc = 4)
  (hlocal : localGood tr.desc = true) (hfree : resultPutPending s.stalls[t] tr.serial = false)
  (hp : s.stalls[t].pitches[dFlags tr.desc / 32 % 4]? = some k) (hmem : dDeliv tr.desc ∈ s.pitches[k].offers) (hstays : s.stalls[t].reload = false)
include hf hk hlocal hfree hp hmem hstays

/-- A DONE that comes after its delivery was released (R198). -/
theorem done_late (hlive : s.array.reorder.any (recFor (pitchSlot s k) (stallPort s k) (dDeliv tr.desc)) = false) (hsweeps : s.array.sweeps = [])
    (hrec : s.array.reorder = []) (hroom : s.u (Obj.PITCH.LATE_DROP k) + 1 < 2 ^ 32) :
    ∃ u : State, exec (.done t g) s = .next u ∧ u.pitches[k].offers = s.pitches[k].offers.erase (dDeliv tr.desc) ∧
      u.u (Obj.PITCH.LATE_DROP k) = s.u (Obj.PITCH.LATE_DROP k) + 1 ∧ u.stalls[t].t[g].status = 1 ∧ u.stalls[t].t[g].flight = none ∧
      u.mem = s.mem ∧ regsKept s u (Obj.PITCH.LATE_DROP k :: doneRegs t k) := by
  obtain ⟨hstalls, hoffers, hm, harray, hregs⟩ := s.seeDone_shows t k (dDeliv tr.desc)
  have hcount : (s.seeDone t k (dDeliv tr.desc)).u (Obj.PITCH.LATE_DROP k) = s.u (Obj.PITCH.LATE_DROP k) := hregs _ (doneRegs_apart t k _ (.inl rfl))
  have hexec := done_eq s t g tr hf hk
  rw [hfree, if_neg Bool.false_ne_true, s.doDone_late t g tr.desc k hlocal hp hmem hlive,
    State.releaseBuffer_none _ _ _ (by rw [State.resolve, State.bump_eq, State.put_array, harray, hrec]; rfl)
      (by rw [State.resolve, State.bump_eq, State.put_array, harray, hsweeps]; rfl), State.completeTag_stays _ t g (by exact hstays)] at hexec
  exact ⟨_, hexec, hoffers, (State.u_bump_self _ _ (by rw [hcount]; exact hroom)).trans (congrArg (· + 1) hcount),
    (State.modStall_tagOk _ t g).1, (State.modStall_tagOk _ t g).2, hm,
    (hregs.mono fun _ hx => List.mem_cons_of_mem _ hx).put List.mem_cons_self _⟩

/-- A DONE whose delivery still waits in the reorder buffers (R197). -/
theorem done_live (hlive : s.array.reorder.any (recFor (pitchSlot s k) (stallPort s k) (dDeliv tr.desc)) = true) :
    ∃ u : State, exec (.done t g) s = .next u ∧ u.pitches[k].offers = s.pitches[k].offers.erase (dDeliv tr.desc) ∧
      u.stalls[t].t[g].status = 1 ∧ u.stalls[t].t[g].flight = none ∧ u.u (Obj.PITCH.LATE_DROP k) = s.u (Obj.PITCH.LATE_DROP k) ∧
      resolvedIn u.array.reorder (pitchSlot s k) (stallPort s k) (dDeliv tr.desc) k ∧ (runsFit s (pitchSlot s k) = false → u.mem = s.mem) := by
  obtain ⟨hstalls, hoffers, hm, harray, hregs⟩ := s.seeDone_shows t k (dDeliv tr.desc)
  have hcount : (s.seeDone t k (dDeliv tr.desc)).u (Obj.PITCH.LATE_DROP k) = s.u (Obj.PITCH.LATE_DROP k) := hregs _ (doneRegs_apart t k _ (.inl rfl))
  have hfitted := (s.seeDone t k (dDeliv tr.desc)).fitBlock_kept (pitchSlot s k) (stallPort s k) (dDeliv tr.desc) k
  have hexec := done_eq s t g tr hf hk
  rw [hfree, if_neg Bool.false_ne_true, s.doDone_live t g tr.desc k hlocal hp hmem hlive] at hexec
  have hmemory : runsFit s (pitchSlot s k) = false →
      ((s.seeDone t k (dDeliv tr.desc)).fitBlock (pitchSlot s k) (stallPort s k) (dDeliv tr.desc) k).mem = s.mem := fun h => by
    rw [State.fitBlock, runsFit_seeDone, h, if_neg Bool.false_ne_true, hm]
  generalize (s.seeDone t k (dDeliv tr.desc)).fitBlock (pitchSlot s k) (stallPort s k) (dDeliv tr.desc) k = v at hexec hfitted hmemory
  have hopen := v.resolve_resolves (pitchSlot s k) (stallPort s k) (dDeliv tr.desc) k (doneOf tr.desc) rfl
  obtain ⟨hresolved, hresolvedMem⟩ := v.resolve_kept (pitchSlot s k) (stallPort s k) (dDeliv tr.desc) k (doneOf tr.desc)
  generalize v.resolve (pitchSlot s k) (stallPort s k) (dDeliv tr.desc) k (doneOf tr.desc) = w at hexec hopen hresolved hresolvedMem
  have hleave := (w.releaseBuffer_records (stallPort s k) (dDeliv tr.desc)).trans (State.release_records _ (pitchSlot s k) (stallPort s k))
  generalize (w.releaseBuffer (stallPort s k) (dDeliv tr.desc)).release (pitchSlot s k) (stallPort s k) = y at hexec hleave
  have hkept := (hfitted.trans hresolved).trans hleave.toPitchesKept
  rw [State.completeTag_stays y t g (by rw [hkept.stalls, hstalls, hstays])] at hexec
  exact ⟨_, hexec, (congrArg (fun p => p[k].offers) hkept.pitches).trans hoffers, (y.modStall_tagOk t g).1, (y.modStall_tagOk t g).2,
    (hkept.lateDrop k).trans hcount, fun r hr => hopen r (hleave.records r hr), fun h => hleave.mem.trans (hresolvedMem.trans (hmemory h))⟩

end

/-! ## TRIG and MAIL (R187, R234, R272) -/

theorem trig_eq (s : State) (t : StallId) (g : Fin 16) (tr : Transaction) (hf : s.stalls[t].t[g].flight = some tr) (hk : dKind tr.desc = 5) :
    exec (.trig t g) s = .next (if !localGood tr.desc then s.completeTag t g 4
      else if 64 ≤ s.array.trig.length then (s.bump Obj.CAPTURE.TRIG_QFULL).completeTag t g 6
      else ({ s with array := { s.array with trig := s.array.trig ++ [(t, tr.payload)] } }).completeTag t g 1) := by
  change execTrig t g s = _
  rw [execTrig]
  exact withFlight_some s t g 5 _ tr hf hk

theorem mail_eq (s : State) (t : StallId) (g : Fin 16) (tr : Transaction) (hf : s.stalls[t].t[g].flight = some tr) (hk : dKind tr.desc = 6) :
    exec (.mail t g) s = .next (if !localGood tr.desc then s.completeTag t g 4
      else if 256 ≤ s.array.mail.length then s.completeTag t g 6
      else ({ s with array := { s.array with mail := s.array.mail ++ [(t, tr.payload)] } }).completeTag t g 1) := by
  change execMail t g s = _
  rw [execMail]
  exact withFlight_some s t g 6 _ tr hf hk

/-- Settles O19: of a DONE the released delivery and the one that still waits, and of TRIG and MAIL the queue with room and the full one. -/
theorem doneTrigMail : Obligations.DoneTrigMail := by
  refine ⟨fun s t g tr hf hk hlocal => ⟨fun hpend => ?_, fun hfree hp => ?_, fun k hfree hp hmem hlive hsweeps hstays hrec hroom => ?_,
    fun k hfree hp hmem hlive hstays => ?_⟩, fun s t g tr hf hlocal => ⟨fun hk hroom => ?_, fun hk hfull => ?_, fun hk hroom => ?_, fun hk hfull => ?_⟩,
    fun s t g tr hf hlocal => ⟨fun hk hfree => ?_, fun hk => ?_, fun hk => ?_⟩⟩
  · rw [done_eq s t g tr hf hk, if_pos hpend]
  · rw [done_eq s t g tr hf hk, hfree, if_neg Bool.false_ne_true, s.doDone_stranger t g _ hlocal hp]
  · exact done_late s t g tr k hf hk hlocal hfree hp hmem hstays hlive hsweeps hrec hroom
  · exact done_live s t g tr k hf hk hlocal hfree hp hmem hstays hlive
  · have hexec := trig_eq s t g tr hf hk
    rw [hlocal, if_neg (by decide), if_neg (by omega)] at hexec
    exact ⟨_, hexec, rfl, (State.modStall_tagOk _ t g).1, (State.modStall_tagOk _ t g).2, rfl⟩
  · rw [trig_eq s t g tr hf hk, hlocal, if_neg (by decide), if_pos hfull]
  · have hexec := mail_eq s t g tr hf hk
    rw [hlocal, if_neg (by decide), if_neg (by omega)] at hexec
    exact ⟨_, hexec, rfl, (State.modStall_tagOk _ t g).1, (State.modStall_tagOk _ t g).2, rfl⟩
  · rw [mail_eq s t g tr hf hk, hlocal, if_neg (by decide), if_pos hfull]
  · rw [done_eq s t g tr hf hk, hfree, if_neg Bool.false_ne_true, s.doDone_bad t g _ hlocal]
  · rw [trig_eq s t g tr hf hk, hlocal, if_pos (by decide)]
  · rw [mail_eq s t g tr hf hk, hlocal, if_pos (by decide)]

end Sys2Proof.Machine
end

section
/-! SUPPORT. Offers (R183, R194; Machine/Array.lean): what a completed delivery does to one pitch. -/

namespace Sys2Proof.Machine

theorem deliveryComplete_front (s : State) (n : Port) (d : Delivery) (q : List Delivery) (hq : s.pipes[n].queue = d :: q)
    (hd : d.inRingWhole = true) : exec (.deliveryComplete n) s =
    .next ((((s.modPipe n (fun p => { p with queue := q })).regionsAt n).completeDelivery n d).mirrorDelivery n d) := by
  change execDeliveryComplete n s = _
  rw [execDeliveryComplete, hq]
  simp only [hd, Bool.not_true, Bool.false_eq_true, if_false]

/-! ## An offer (R193, R194) -/

theorem State.modPitch_congr (s : State) (k : Fin 192) {f g : PitchPart → PitchPart} (h : f s.pitches[k] = g s.pitches[k]) :
    s.modPitch k f = s.modPitch k g := by
  rw [State.modPitch, State.modPitch, h]

/-- A pitch that a delivery meets: with a lag of 3 or more offers and skips alternate, and their run grows. -/
def PitchPart.met (x : PitchPart) : PitchPart :=
  { x with
    skipNext := if 3 ≤ x.offers.length then !x.skipNext else true,
    lagRun := if 3 ≤ x.offers.length then min 16 (x.lagRun + 1) else 0,
    sinceMove := x.sinceMove.bind fun c => if c + 1 < 1024 then some (c + 1) else none }

section
variable (s : State) (n : Port) (d : Delivery) (k : Fin 192) (t : StallId) (l : Fin 4) (hhost : s.pitches[k].host = some (t, l))
  (hhalted : s.pitches[k].halted = false) (hdebug : s.stalls[t].debugHalt = false)
include hhost hhalted hdebug

theorem State.offer_prompt (hlag : s.pitches[k].offers.length ≤ 2) :
    s.offer n d k = (s.modPitch k PitchPart.met).offerTo n d k t false := by
  have hlag' : ¬3 ≤ s.pitches[k].offers.length := by omega
  rw [State.offer, hhost]
  simp only [hhalted, hdebug, hlag', Bool.false_eq_true, or_self, if_false, decide_false, Bool.false_and]
  exact (if_neg (by decide)).trans (congrArg (fun u => State.offerTo u n d k t false)
    (s.modPitch_congr k (by rw [PitchPart.met, if_neg hlag', if_neg hlag']; cases s.pitches[k].sinceMove <;> rfl)))

theorem State.offer_skips (hlag : 3 ≤ s.pitches[k].offers.length) (hskip : s.pitches[k].skipNext = true) (hrun : s.pitches[k].lagRun < 15) :
    s.offer n d k = (s.modPitch k PitchPart.met).skipFor n d k := by
  have hrun' : min 16 (s.pitches[k].lagRun + 1) ≠ 16 := by omega
  rw [State.offer, hhost]
  simp only [hhalted, hdebug, hlag, hskip, hrun', Bool.false_eq_true, or_self, if_false, if_true, decide_true, Bool.and_self]
  exact congrArg (fun u => State.skipFor u n d k) (s.modPitch_congr k (by
    simp only [PitchPart.met, hlag, hskip, if_true]
    cases s.pitches[k].sinceMove <;> rfl))

end

/-- A delivery on its way to a stall: held back while it loads, else its descriptor is written. -/
def State.handed (s : State) (t : StallId) (k : Fin 192) (d : Delivery) (flags : Nat) : State :=
  if s.stalls[t].state = .loading then s.modStall t (fun y => { y with held := y.held ++ [(k, d.deliv, flags)] })
  else s.writeDescriptor t k d flags

theorem State.handed_kept (s : State) (t : StallId) (k : Fin 192) (d : Delivery) (flags : Nat) :
    (s.handed t k d flags).pitches = s.pitches ∧ (s.handed t k d flags).regs = s.regs := by
  rw [State.handed]
  split
  · exact ⟨rfl, rfl⟩
  · rw [State.writeDescriptor]
    split <;> exact ⟨rfl, rfl⟩

/-- Where the stall has a free descriptor slot the delivery becomes an offer, which OFFERED and LAG show. -/
theorem State.offerTo_offers (s : State) (n : Port) (d : Delivery) (k : Fin 192) (t : StallId)
    (hroom : s.stalls[t].inq.length + s.stalls[t].held.length + (if s.stalls[t].lastPop.isSome then 1 else 0) < 4)
    (hlag : s.pitches[k].offers.length ≤ 2) (hcount : s.u (Obj.PITCH.OFFERED k) + 1 < 2 ^ 32) :
    (s.offerTo n d k t false).pitches[k].offers = s.pitches[k].offers ++ [d.deliv] ∧
    (s.offerTo n d k t false).u (Obj.PITCH.OFFERED k) = s.u (Obj.PITCH.OFFERED k) + 1 ∧
    (s.offerTo n d k t false).u (Obj.PITCH.LAG k) = s.pitches[k].offers.length + 1 ∧
    (s.offerTo n d k t false).u (Obj.PITCH.SKIPPED k) = s.u (Obj.PITCH.SKIPPED k) := by
  obtain ⟨flags, v, hv, heq⟩ : ∃ flags v, v = s.handed t k d flags ∧ s.offerTo n d k t false =
      (((v.modPitch k (fun y => { y with offers := y.offers ++ [d.deliv], migrated := false })).bump (Obj.PITCH.OFFERED k)).put (Obj.PITCH.LAG k)
        (v.modPitch k (fun y => { y with offers := y.offers ++ [d.deliv], migrated := false })).pitches[k].offers.length) := by
    rw [State.offerTo, if_neg (by omega)]
    exact ⟨_, _, rfl, rfl⟩
  obtain ⟨hpitches, hregs⟩ := s.handed_kept t k d flags
  rw [← hv] at hpitches hregs
  have hoffers : (v.modPitch k (fun y => { y with offers := y.offers ++ [d.deliv], migrated := false })).pitches[k].offers =
      s.pitches[k].offers ++ [d.deliv] := by rw [State.modPitch_self, hpitches]
  have hu : ∀ r, (v.modPitch k (fun y => { y with offers := y.offers ++ [d.deliv], migrated := false })).u r = s.u r := fun r =>
    State.u_of_regs hregs r
  rw [heq, hoffers]
  refine ⟨hoffers, ?_, ?_, ?_⟩
  · rw [State.u_put_ne _ _ _ _ (by simp only [Obj.PITCH.LAG, Obj.PITCH.OFFERED]; omega), State.u_bump_self _ _ (by rw [hu]; exact hcount), hu]
  · rw [State.u_put_of_lt, List.length_append, List.length_singleton]
    rw [List.length_append, List.length_singleton]
    exact (by omega : s.pitches[k].offers.length + 1 < 2 ^ 8)
  · rw [State.u_put_ne _ _ _ _ (by simp only [Obj.PITCH.LAG, Obj.PITCH.SKIPPED]; omega), State.bump_eq,
      State.u_put_ne _ _ _ _ (by simp only [Obj.PITCH.OFFERED, Obj.PITCH.SKIPPED]; omega), hu]

theorem State.skipFor_skips (s : State) (n : Port) (d : Delivery) (k : Fin 192) (hcount : s.u (Obj.PITCH.SKIPPED k) + 1 < 2 ^ 32) :
    (s.skipFor n d k).pitches = s.pitches ∧ (s.skipFor n d k).u (Obj.PITCH.SKIPPED k) = s.u (Obj.PITCH.SKIPPED k) + 1 ∧
    (s.skipFor n d k).u (Obj.PITCH.OFFERED k) = s.u (Obj.PITCH.OFFERED k) :=
  ⟨rfl, State.u_bump_self s _ hcount, State.u_put_ne s _ _ _ (by simp only [Obj.PITCH.SKIPPED, Obj.PITCH.OFFERED]; omega)⟩

end Sys2Proof.Machine
end

section
/-! SUPPORT. Migration, test and load of stalls (R199, R204, R207, R214; Machine/Array.lean). -/

namespace Sys2Proof.Machine

/-! ## The state of a stall (R179, R180) -/

/-- The registers of the array's own record follow the stalls; those of the records behind it stay. -/
theorem State.u_countStalls (s : State) (r : Reg) (hr : 0x500100 ≤ r.key) : s.countStalls.u r = s.u r := by
  rw [State.countStalls, State.u_put_ne _ _ _ _ (by simp only [Obj.ARRAY.FAILED]; omega), State.u_put_ne _ _ _ _ (by simp only [Obj.ARRAY.SPARES]; omega),
    State.u_put_ne _ _ _ _ (by simp only [Obj.ARRAY.IN_SERVICE]; omega)]

theorem State.setStall_stalls (s : State) (t : StallId) (st : StallState) :
    (s.setStall t st).stalls = s.stalls.set t { s.stalls[t] with state := st } := rfl

theorem State.setStall_shown (s : State) (t : StallId) (st : StallState) (h : s.stalls[t].debugHalt = false) :
    (s.setStall t st).u (Obj.STALL.STATE t) = stallCode st := by
  have hcode : stallCode st < 2 ^ 8 := by cases st <;> decide
  rw [State.setStall, State.u_countStalls _ _ (by simp only [Obj.STALL.STATE]; omega), h, State.u_put_of_lt _ _ _ hcode]
  rfl

theorem State.setStall_other (s : State) (a t : StallId) (st : StallState) (h : a ≠ t) :
    (s.setStall a st).u (Obj.STALL.STATE t) = s.u (Obj.STALL.STATE t) := by
  have hne : a.val ≠ t.val := Fin.val_ne_of_ne h
  rw [State.setStall, State.u_countStalls _ _ (by simp only [Obj.STALL.STATE]; omega),
    State.u_put_ne _ _ _ _ (by simp only [Obj.STALL.STATE]; omega)]
  rfl

theorem State.vacate_stalls (s : State) (a : StallId) :
    (s.vacate a).stalls = s.stalls.set a { bps := s.stalls[a].bps, watches := s.stalls[a].watches } := by
  rw [State.vacate, State.setStall_stalls]
  simp [State.modStall]

theorem State.vacate_other (s : State) (a t : StallId) (h : a ≠ t) : (s.vacate a).u (Obj.STALL.STATE t) = s.u (Obj.STALL.STATE t) := by
  rw [State.vacate, State.setStall_other _ _ _ _ h, State.u_put_ne _ _ _ _ (by simp only [Obj.STALL.FLAGS, Obj.STALL.STATE]; omega),
    State.u_put_ne _ _ _ _ (by simp only [Obj.STALL.SLOT, Obj.STALL.STATE]; omega)]
  rfl

/-! ## Entry (R204, R214) -/

theorem State.besideMemory_writeParams (s : State) (t : StallId) : (s.writeParams t).besideMemory = s.besideMemory :=
  State.besideMemory_foldl (fun u _ => u.besideMemory_placeWords _ _) _ s

theorem State.besideMemory_copyStall (s : State) (a b : StallId) (n : Nat) : (s.copyStall a b n).besideMemory = s.besideMemory :=
  (State.besideMemory_copyWords _ _ _ _).trans ((State.besideMemory_copyWords _ _ _ _).trans (s.besideMemory_copyWords _ _ _))

/-- A stall for which no offer was held back enters SERVICE. -/
theorem State.enterService_enters (s : State) (t : StallId) (img : List Byte) (resume : Bool) (hheld : s.stalls[t].held = [])
    (hdebug : s.stalls[t].debugHalt = false) :
    (s.enterService t img resume).stalls = s.stalls.set t { s.stalls[t].entered img resume with held := [], state := .service } ∧
    (s.enterService t img resume).u (Obj.STALL.STATE t) = 1 := by
  have hbeside := (s.modStall t (fun x => { x.entered img resume with held := [] })).besideMemory_writeParams t
  have hstalls := State.stalls_of_besideMemory hbeside
  rw [State.enterService, hheld]
  generalize (s.modStall t (fun x => { x.entered img resume with held := [] })).writeParams t = v at hstalls ⊢
  have hself : v.stalls[t] = { s.stalls[t].entered img resume with held := [] } := by
    simp only [hstalls]
    exact s.modStall_self t _
  refine ⟨?_, State.setStall_shown _ t .service ?_⟩
  · rw [List.foldl_nil, State.setStall_stalls]
    simp [hstalls, State.modStall]
  · rw [State.put_stalls, hself]
    exact hdebug

/-! ## The end of a migration's copy (R199) -/

/-- The state in which a migration's copy has ended, from the one in which the words are copied. -/
def State.moved (v : State) (t a : StallId) (img : List Byte) (reload : Bool) : State :=
  ((((v.enterService t img true).modStall t (fun y => { y with reload := reload })).vacate a).setStall a .test)

theorem migrationCopyEnd_eq (s : State) (t a : StallId) (hfrom : s.stalls[t].moveFrom = some a) (hrep : s.stalls[t].replacing = false) :
    ∃ v : State, v.besideMemory = s.besideMemory ∧
      exec (.migrationCopyEnd t) s = .next (v.moved t a (s.imageAt t (s.stalls[t].slot.getD 0)) s.stalls[t].reload) := by
  change ∃ v : State, _ ∧ execMigrationCopyEnd t s = _
  rw [execMigrationCopyEnd, hfrom, hrep]
  exact ⟨_, s.besideMemory_copyStall a t _, rfl⟩

/-- The spare runs from ENTRY_RESUME with the pitches given to it, and the old stall is in its test without any. -/
theorem State.moved_stalls (v : State) (t a : StallId) (img : List Byte) (reload : Bool) (hne : a ≠ t) (hheld : v.stalls[t].held = [])
    (hdebug : v.stalls[t].debugHalt = false) :
    (v.moved t a img reload).stalls[t] = { v.stalls[t].entered img true with held := [], state := .service, reload := reload } ∧
    (v.moved t a img reload).stalls[a] = { bps := v.stalls[a].bps, watches := v.stalls[a].watches, state := .test } := by
  obtain ⟨hstalls, -⟩ := v.enterService_enters t img true hheld hdebug
  have hval : a.val ≠ t.val := Fin.val_ne_of_ne hne
  rw [State.moved, State.setStall_stalls, State.vacate_stalls]
  constructor
  · simp [State.modStall, hstalls, hval, Vector.getElem_set]
  · simp [State.modStall, hstalls, hval.symm]

theorem State.moved_shown (v : State) (t a : StallId) (img : List Byte) (reload : Bool) (hne : a ≠ t) (hheld : v.stalls[t].held = [])
    (hdebug : v.stalls[t].debugHalt = false) :
    (v.moved t a img reload).u (Obj.STALL.STATE t) = 1 ∧ (v.moved t a img reload).u (Obj.STALL.STATE a) = 3 := by
  refine ⟨?_, State.setStall_shown _ a .test ?_⟩
  · rw [State.moved, State.setStall_other _ _ _ _ hne, State.vacate_other _ _ _ hne, State.modStall_u]
    exact (v.enterService_enters t img true hheld hdebug).2
  · simp [State.vacate_stalls]

theorem migrationCopyEnd_moves (s : State) (t a : StallId) (hfrom : s.stalls[t].moveFrom = some a) (hrep : s.stalls[t].replacing = false)
    (hne : a ≠ t) (hheld : s.stalls[t].held = []) (hdebug : s.stalls[t].debugHalt = false) :
    ∃ u : State, exec (.migrationCopyEnd t) s = .next u ∧ u.stalls[t].state = .service ∧ u.stalls[t].pitches = s.stalls[t].pitches ∧
      u.stalls[t].pc = BitVec.ofNat 13 (imageField (s.imageAt t (s.stalls[t].slot.getD 0)) 42 2) ∧ u.stalls[t].p[14] = 1 ∧
      u.stalls[t].p[15] = 0x2FC00 ∧ u.stalls[t].moveFrom = none ∧ u.stalls[a].state = .test ∧ u.stalls[a].pitches = [] ∧
      u.u (Obj.STALL.STATE t) = 1 ∧ u.u (Obj.STALL.STATE a) = 3 := by
  obtain ⟨v, hv, hexec⟩ := migrationCopyEnd_eq s t a hfrom hrep
  have hstalls := State.stalls_of_besideMemory hv
  obtain ⟨hspare, hold⟩ := v.moved_stalls t a (s.imageAt t (s.stalls[t].slot.getD 0)) s.stalls[t].reload hne (by rw [hstalls, hheld])
    (by rw [hstalls, hdebug])
  obtain ⟨ht, ha⟩ := v.moved_shown t a (s.imageAt t (s.stalls[t].slot.getD 0)) s.stalls[t].reload hne (by rw [hstalls, hheld])
    (by rw [hstalls, hdebug])
  refine ⟨_, hexec, ?_⟩
  rw [hspare, hold, hstalls]
  exact ⟨rfl, rfl, rfl, rfl, rfl, rfl, rfl, rfl, ht, ha⟩

/-! ## The ends of a test and of a load (R199, R207) -/

theorem stlTestEnd_ends (s : State) (t : StallId) (h : s.stalls[t].state = .test) :
    exec (.stlTestEnd t true) s = .next ((s.put (Obj.STALL.TEST_RESULT t) 1).setStall t .spare) ∧
    exec (.stlTestEnd t false) s = .next (((s.put (Obj.STALL.TEST_RESULT t) 2).setStall t .failed).stallEvent 5 t) := by
  constructor
  · change execStlTestEnd t true s = _
    rw [execStlTestEnd, if_pos (.inl h)]
    rfl
  · change execStlTestEnd t false s = _
    rw [execStlTestEnd, if_pos (.inl h)]
    rfl

theorem programLoadEnd_ready (s : State) (t a : StallId) (hload : s.stalls[t].state = .loading) (hrep : s.stalls[t].replacing = true)
    (hfrom : s.stalls[t].moveFrom = some a) :
    exec (.programLoadEnd t) s = .next { s with stalls := s.stalls.set t { s.stalls[t] with ready := true } } := by
  change execProgramLoadEnd t s = _
  rw [execProgramLoadEnd, if_pos ⟨hload, hrep, by rw [hfrom]; rfl⟩]
  rfl

/-- Settles O20: the delivery at the front of its queue, a pitch that is offered one and a pitch that is skipped, and the three ends. -/
theorem arrayService : Obligations.ArrayService := by
  refine ⟨deliveryComplete_front, fun s n d k t l hhost hhalted hdebug hlag hroom hcount => ?_,
    fun s n d k t l hhost hhalted hdebug hlag hskip hrun hcount => ?_, migrationCopyEnd_moves, stlTestEnd_ends, programLoadEnd_ready⟩
  · have hoffers : (s.modPitch k PitchPart.met).pitches[k].offers = s.pitches[k].offers := by rw [State.modPitch_self]; rfl
    rw [s.offer_prompt n d k t l hhost hhalted hdebug hlag]
    have hoffer := (s.modPitch k PitchPart.met).offerTo_offers n d k t hroom (by rw [hoffers]; exact hlag) hcount
    rwa [hoffers] at hoffer
  · rw [s.offer_skips n d k t l hhost hhalted hdebug hlag hskip hrun]
    obtain ⟨hpitches, hskipped, hoffered⟩ := (s.modPitch k PitchPart.met).skipFor_skips n d k hcount
    rw [hpitches, State.modPitch_self]
    exact ⟨rfl, hskipped, by rw [PitchPart.met, if_pos hlag, hskip]; rfl, hoffered⟩

end Sys2Proof.Machine
end

section
/-! SUPPORT. How a stall's instruction ends (R236, R240, R243 to R245; Machine/StallCore.lean): its registers changed, a flag set where something
happened, a jump, or a trap. -/

namespace Sys2Proof.Machine

/-- An instruction of R240 is issued where it does not end a loop's body. -/
theorem State.issue_control (s : State) (t : StallId) (f : State → Stall → StallOut) (h : issuesControl s t) :
    s.issue t true f = .next ((s.resumed t).finish t s.stalls[t] (f (s.resumed t) s.stalls[t])) := by
  rw [← s.issue_issues t f h.1, State.issue, State.issue, h.2]
  rfl

theorem State.issue_bodyEnd (s : State) (t : StallId) (f : State → Stall → StallOut) (h : issues s t) (hl : s.stalls[t].lastOfBody = true) :
    s.issue t true f = .next (trapped s t 8) := by
  have htrap := s.issue_issues t (fun u _ => trapOut u causeIllegal) h
  rw [State.issue] at htrap ⊢
  rw [hl]
  exact htrap

theorem State.finish_trap (s u : State) (t : StallId) (c : Nat) : (s.resumed t).finish t s.stalls[t] (trapOut u c) = trapped s t c := rfl

theorem State.issue_traps (s u : State) (t : StallId) (f : State → Stall → StallOut) (c : Nat) (h : issues s t)
    (hf : f (s.resumed t) s.stalls[t] = trapOut u c) : s.issue t false f = .next (trapped s t c) := by
  rw [s.issue_issues t f h, hf, s.finish_trap]

/-- An instruction that goes on, having set a flag where something happened and touched bytes that no watchpoint watches. -/
theorem State.finish_flagged (s u : State) (t : StallId) (b : Fin 6) (c : Bool) (touch : Option (Nat × Nat × Bool)) (x : Stall)
    (h : x.runsOut = false) (hwatch : ∀ w ∈ touch, watchHit x w.1 w.2.1 w.2.2 = false) :
    s.finish t x { st := u, flag := if c then some b else none, touch := touch } =
      flagged (u.modStall t (fun x => x.advance.resumed)) t b c := by
  cases touch with
  | none => cases c <;> simp only [State.finish, h, flagged] <;> rfl
  | some w =>
    have hw := hwatch w rfl
    cases c <;> simp only [State.finish, h, hw, flagged] <;> rfl

/-- An instruction that changes registers of the state other than the stall's, and memory, as in `w`, then the stall's own. -/
theorem State.issue_ends (s w : State) (t : StallId) (f : State → Stall → StallOut) (F : Stall → Stall) (y : Stall) (b : Fin 6) (c : Bool)
    (touch : Option (Nat × Nat × Bool)) (h : ready s t) (hw : w.stalls[t] = s.stalls[t])
    (hf : f (s.resumed t) s.stalls[t] = { st := (w.resumed t).modStall t F, flag := if c then some b else none, touch := touch })
    (hF : F s.stalls[t].resumed = y.resumed) (hwatch : ∀ w ∈ touch, watchHit s.stalls[t] w.1 w.2.1 w.2.2 = false) :
    s.issue t false f = .next (flagged (after w t y) t b c) := by
  rw [s.issue_issues t f h.1, hf, State.finish_flagged _ _ t b c touch _ h.2 hwatch, w.resumed_after t F y (by rw [hw, hF])]

/-- An instruction that changes the stall's registers and sets a flag where something happened. -/
theorem State.issue_flagged (s : State) (t : StallId) (f : State → Stall → StallOut) (F : Stall → Stall) (y : Stall) (b : Fin 6) (c : Bool)
    (h : ready s t) (hf : f (s.resumed t) s.stalls[t] = { st := (s.resumed t).modStall t F, flag := if c then some b else none })
    (hF : F s.stalls[t].resumed = y.resumed) : s.issue t false f = .next (flagged (after s t y) t b c) :=
  s.issue_ends s t f F y b c none h rfl hf hF fun _ hw => nomatch hw

theorem State.stalls_after (s : State) (t : StallId) (x : Stall) : (after s t x).stalls[t] = x.advance.resumed := Vector.getElem_set_self _

theorem regOp_after (s : State) (t : StallId) (f : Stall → Stall) (h : ready s t)
    (hf : f s.stalls[t].resumed = (f s.stalls[t]).resumed) : regOp t f s = .next (after s t (f s.stalls[t])) :=
  s.issue_after t _ f _ h rfl hf

end Sys2Proof.Machine
end

section
/-! SUPPORT. The scalar instructions of a stall (R215, R242, R251, R254; Machine/Scalar.lean). -/

namespace Sys2Proof.Machine

/-! ## Numbers of 24 bits -/

theorem setWidth_toNat_five (b : BitVec 24) : (b.setWidth 5).toNat = b.toNat % 32 := BitVec.toNat_setWidth 5 b

theorem add_signExtend (a : BitVec 24) (i : BitVec 18) : a + i.signExtend 24 = BitVec.ofInt 24 (a.toNat + i.toInt) := by
  rw [BitVec.ofInt_add, BitVec.signExtend, BitVec.ofInt_natCast, BitVec.ofNat_toNat, BitVec.setWidth_eq]

theorem mul_toNat (a b : BitVec 24) : a * b = BitVec.ofNat 24 (a.toNat * b.toNat) := by
  rw [BitVec.ofNat_mul, BitVec.ofNat_toNat, BitVec.ofNat_toNat, BitVec.setWidth_eq, BitVec.setWidth_eq]

theorem flag24_slt (a b : BitVec 24) : flag24 (a.slt b) = if a.toInt < b.toInt then 1 else 0 := by
  simp [flag24, BitVec.slt]

theorem flag24_ult (a b : BitVec 24) : flag24 (a.ult b) = if a.toNat < b.toNat then 1 else 0 := by
  simp [flag24, BitVec.ult]

theorem min_toInt (a b : BitVec 24) : (if a.slt b then a else b) = BitVec.ofInt 24 (min a.toInt b.toInt) := by
  by_cases h : a.toInt < b.toInt
  · rw [min_eq_left h.le, BitVec.ofInt_toInt, if_pos (by simpa [BitVec.slt] using h)]
  · rw [min_eq_right (not_lt.mp h), BitVec.ofInt_toInt, if_neg (by simpa [BitVec.slt] using h)]

theorem max_toInt (a b : BitVec 24) : (if a.slt b then b else a) = BitVec.ofInt 24 (max a.toInt b.toInt) := by
  by_cases h : a.toInt < b.toInt
  · rw [max_eq_right h.le, BitVec.ofInt_toInt, if_pos (by simpa [BitVec.slt] using h)]
  · rw [max_eq_left (not_lt.mp h), BitVec.ofInt_toInt, if_neg (by simpa [BitVec.slt] using h)]

/-! ## The instructions -/

theorem rotb_after (s : State) (t : StallId) (h : ready s t) :
    exec (.rotb t) s = .next (after s t { s.stalls[t] with rb := s.stalls[t].rb - 1 }) := regOp_after s t _ h rfl

/-- Settles O23: each is a change of the stall's registers by the function stated, of bit vectors or of the numbers they spell. -/
theorem pointerFunctions : Obligations.PointerFunctions := by
  intro s t pd ps pt n i22 i18 x a b hx ha hb h
  subst hx ha hb
  rw [← setWidth_toNat_five, ← add_signExtend, ← mul_toNat, ← flag24_slt, ← flag24_ult, ← min_toInt, ← max_toInt,
    BitVec.ofNat_toNat, BitVec.ofNat_toNat]
  and_intros <;> exact regOp_after s t _ h rfl

end Sys2Proof.Machine
end

section
/-! SUPPORT. The rotation base (R213, R239, R242): ROTB at the end of a ROT loop's body, where RB turns twice. -/

namespace Sys2Proof.Machine

/-- A stall at a ROTB that ends the body of a ROT loop with one more pass to make; of the upper registers only D32 is not zero. -/
def rotbEndsBody : Stall :=
  { state := .service, loops := [⟨0, 0, 2, true, 0⟩], d := (Vector.replicate 64 ⟨{}, {}, {}, {}⟩).set 32 ⟨⟨1, false⟩, {}, {}, {}⟩ }

theorem rotbEndsBody_turnsTwice :
    { rotbEndsBody with rb := rotbEndsBody.rb - 1 }.advance.rb = rotbEndsBody.rb - 2 ∧
    { rotbEndsBody with rb := rotbEndsBody.rb - 1 }.advance.getD 33 ≠ rotbEndsBody.getD 32 := by decide

/-- A machine whose stall 0 stands there. -/
def rotbEndsBodyState : State := { stalls := (Vector.replicate 132 {}).set 0 rotbEndsBody }

theorem rotbEndsBodyState_stall : rotbEndsBodyState.stalls[(0 : StallId)] = rotbEndsBody := Vector.getElem_set_self _

theorem rotbEndsBodyState_ready : ready rotbEndsBodyState 0 := by
  have hbps : ∀ b ∈ rotbEndsBody.bps.toList, b ≠ some rotbEndsBody.pc := by simp [rotbEndsBody]
  refine ⟨⟨?_, .inr ?_, fun _ h => absurd h List.not_mem_nil, fun _ h => absurd h List.not_mem_nil⟩, ?_⟩
  · rw [rotbEndsBodyState_stall]
    rfl
  · rw [rotbEndsBodyState_stall]
    exact hbps
  · rw [rotbEndsBodyState_stall]
    rfl

/-- Refutes O60: a ROTB that ends the body of a ROT loop turns RB by two, by itself and by the end of the pass (R239, R242), so that D33 after it
is not what D32 was. -/
theorem not_rotationBase : ¬ Obligations.RotationBase := by
  rintro ⟨-, -, -, hturn⟩
  have hread := hturn _ _ 0 32 33 rotbEndsBodyState_ready (by decide) rfl (rotb_after _ 0 rotbEndsBodyState_ready)
  rw [State.stalls_after, rotbEndsBodyState_stall] at hread
  exact rotbEndsBody_turnsTwice.2 hread

end Sys2Proof.Machine
end

section
/-! SUPPORT. The vector instructions of a stall (R216, R222, R226, R251, R252; Machine/Vector.lean). -/

namespace Sys2Proof.Machine

/-! ## Functions of lanes -/

theorem held24_eq (v : Int) : held24 v = sat24 v := rfl

theorem ofInt_toInt_add (a b : BitVec 24) : BitVec.ofInt 24 (a.toInt + b.toInt) = a + b := by
  rw [BitVec.ofInt_add, BitVec.ofInt_toInt, BitVec.ofInt_toInt]

theorem ofInt_toInt_sub (a b : BitVec 24) : BitVec.ofInt 24 (a.toInt - b.toInt) = a - b := by
  rw [Int.sub_eq_add_neg, BitVec.ofInt_add, BitVec.ofInt_neg, BitVec.ofInt_toInt, BitVec.ofInt_toInt, BitVec.sub_eq_add_neg]

theorem ite_toInt_le (a b c d : BitVec 24) (h : a = b → c = d) : (if a.toInt ≤ b.toInt then c else d) = if a.slt b then c else d := by
  by_cases hab : a = b
  · rw [h hab, ite_self, ite_self]
  · have hne : a.toInt ≠ b.toInt := fun e => hab (BitVec.eq_of_toInt_eq e)
    simp only [BitVec.slt, decide_eq_true_eq, le_iff_lt_or_eq, hne, or_false]

theorem ite_toInt_lt (a b : BitVec 24) : (if b.toInt < a.toInt then 0xFFFFFF else 0) = allOnes24 (b.slt a) := by
  simp only [allOnes24, BitVec.slt, decide_eq_true_eq]
  rfl

theorem ite_eq_lane (a b : BitVec 24) : (if a = b then 0xFFFFFF else 0) = allOnes24 (a == b) := by
  simp only [allOnes24, beq_iff_eq]
  rfl

theorem shiftCount_eq (b : BitVec 24) : shiftCount b = b.toNat % 32 := setWidth_toNat_five b

/-! ## Registers of lanes -/

theorem lanes_eq_zip (f g : BitVec 24 → BitVec 24 → BitVec 24) (p q : DReg) (hfg : ∀ a b, g a b = f a b) : p.zip (lane2 f) q = lanes g p q := by
  obtain rfl : g = f := funext fun a => funext (hfg a)
  rfl

/-- A function of one register, as one of two that are the same. -/
theorem lanes_eq_map (f : BitVec 24 → BitVec 24) (g : BitVec 24 → BitVec 24 → BitVec 24) (p : DReg) (hfg : ∀ a, g a a = f a) :
    p.map (lane1 f) = lanes g p p := by
  simp only [Quad.map, lane1, lanes, Quad.build, ← hfg, Bool.or_self]
  rfl

theorem valu2_after (s : State) (t : StallId) (f : BitVec 24 → BitVec 24 → BitVec 24) (dd da db : Fin 64) (y : DReg) (h : ready s t)
    (hy : (s.stalls[t].getD da).zip (lane2 f) (s.stalls[t].getD db) = y) :
    valu2 f t dd da db s = .next (after s t (s.stalls[t].setD dd y)) := by
  subst hy
  exact regOp_after s t _ h rfl

theorem valu1_after (s : State) (t : StallId) (f : BitVec 24 → BitVec 24) (dd da : Fin 64) (y : DReg) (h : ready s t)
    (hy : (s.stalls[t].getD da).map (lane1 f) = y) : valu1 f t dd da s = .next (after s t (s.stalls[t].setD dd y)) := by
  subst hy
  exact regOp_after s t _ h rfl

theorem vshi_after (s : State) (t : StallId) (f : BitVec 24 → Nat → BitVec 24) (dd da : Fin 64) (n : BitVec 6) (h : ready s t) (hn : n.toNat ≤ 23) :
    vshi f t dd da n s =
      .next (after s t (s.stalls[t].setD dd (lanes (fun a _ => f a n.toNat) (s.stalls[t].getD da) (s.stalls[t].getD da)))) := by
  rw [vshi, ← lanes_eq_map (fun v => f v n.toNat) _ _ fun _ => rfl]
  exact s.issue_after t _ (fun y => y.setD dd ((s.stalls[t].getD da).map (lane1 fun v => f v n.toNat))) _ h (if_neg (by omega)) rfl

theorem vshi_traps (s : State) (t : StallId) (f : BitVec 24 → Nat → BitVec 24) (dd da : Fin 64) (n : BitVec 6) (h : ready s t) (hn : 23 < n.toNat) :
    vshi f t dd da n s = .next (trapped s t 8) := s.issue_traps _ t _ _ h.1 (if_pos hn)

/-! ## The instructions -/

theorem movpd_after (s : State) (t : StallId) (dd : Fin 64) (ps : Fin 16) (sel : BitVec 8) (h : ready s t) :
    exec (.movpd t dd ps sel) s = .next (after s t (s.stalls[t].setD dd (Quad.build fun i =>
      if sel.toNat / 2 ^ i % 2 = 1 then ⟨s.stalls[t].getP ps, false⟩ else (s.stalls[t].getD dd).get i))) := by
  have hbit : ∀ i, (sel.toNat / 2 ^ i % 2 = 1) = (sel.getLsbD i = true) := fun i => by
    rw [BitVec.getLsbD, Nat.testBit_eq_decide_div_mod_eq, decide_eq_true_eq]
  simp only [hbit]
  exact regOp_after s t _ h rfl

theorem movdp_after (s : State) (t : StallId) (pd : Fin 16) (da : Fin 64) (sel : BitVec 8) (h : ready s t) :
    exec (.movdp t pd da sel) s = .next (flagged (after s t (s.stalls[t].setP pd ((s.stalls[t].getD da).get (sel.toNat % 4)).v)) t 2
      ((s.stalls[t].getD da).get (sel.toNat % 4)).poison) := by
  change execMovdp t pd da sel s = _
  rw [execMovdp]
  exact s.issue_flagged t _ (fun y => y.setP pd ((s.stalls[t].getD da).get (sel.toNat % 4)).v) _ 2 _ h rfl rfl

/-- Settles O21: each function as one of lanes, and each instruction as a change of the stall's registers, a flag or a trap. -/
theorem vectorsShiftsAndMoves : Obligations.VectorsShiftsAndMoves := by
  refine ⟨fun s t dd da db x hx h => ?_, fun s t dd da n x hx h hn => ?_,
    fun s t dd da n h hn => ⟨vshi_traps s t _ dd da n h hn, vshi_traps s t _ dd da n h hn, vshi_traps s t _ dd da n h hn⟩,
    fun s t dd da sel ps pd x hx h => ?_⟩ <;> subst hx
  · exact ⟨valu2_after s t _ dd da db _ h (lanes_eq_zip _ _ _ _ ofInt_toInt_add), valu2_after s t _ dd da db _ h (lanes_eq_zip _ _ _ _ ofInt_toInt_sub),
      valu2_after s t _ dd da db _ h rfl, valu2_after s t _ dd da db _ h rfl, valu2_after s t _ dd da db _ h rfl, valu2_after s t _ dd da db _ h rfl,
      valu2_after s t _ dd da db _ h rfl, valu2_after s t _ dd da db _ h (lanes_eq_zip _ _ _ _ fun a b => ite_toInt_le a b a b id),
      valu2_after s t _ dd da db _ h (lanes_eq_zip _ _ _ _ fun a b => ite_toInt_le a b b a Eq.symm),
      valu1_after s t _ dd da _ h (lanes_eq_map _ _ _ fun a => by rw [Int.abs_eq_natAbs, held24_eq]),
      valu1_after s t _ dd da _ h (lanes_eq_map _ _ _ fun _ => rfl), valu1_after s t _ dd da _ h rfl,
      valu2_after s t _ dd da db _ h (lanes_eq_zip _ _ _ _ fun a b => by rw [shiftCount_eq]),
      valu2_after s t _ dd da db _ h (lanes_eq_zip _ _ _ _ fun a b => by rw [shiftCount_eq]),
      valu2_after s t _ dd da db _ h (lanes_eq_zip _ _ _ _ ite_toInt_lt), valu2_after s t _ dd da db _ h (lanes_eq_zip _ _ _ _ ite_eq_lane)⟩
  · exact ⟨vshi_after s t _ dd da n h hn, vshi_after s t _ dd da n h hn, vshi_after s t _ dd da n h hn⟩
  · exact ⟨regOp_after s t _ h rfl, regOp_after s t _ h rfl, movpd_after s t dd ps sel h, movdp_after s t pd da sel h⟩

end Sys2Proof.Machine
end

section
/-! SUPPORT. Lanes of an accumulator (R217 to R220; Machine/Accum.lean, Safety.lean): exact results, their limits and their flags. -/

namespace Sys2Proof.Machine

/-! ## Results held to the range of a lane (R218) -/

theorem accFits_iff (v : Int) : accFits v = true ↔ -(2 ^ 55) ≤ v ∧ v < 2 ^ 55 := by
  rw [accFits, Bool.and_eq_true, decide_eq_true_eq, decide_eq_true_eq, accMin, accMax, Int.le_sub_one_iff]

theorem accOver_eq (v : Int) : accOver v = !accFits v := by
  rw [accOver, Bool.not_inj_iff, Bool.eq_iff_iff, decide_eq_true_eq, accFits_iff]

theorem accResult_eq_accLane (v : Int) (poison : Bool) : accResult v false poison = accLane v poison := by
  rw [accLane]
  by_cases h : accFits v = true
  · rw [accResult, if_pos h, if_pos ((accFits_iff v).mp h)]
  · rw [accResult, if_neg h, if_neg (mt (accFits_iff v).mpr h)]
    rfl

theorem accResult_eq_accNew (l : ALane) (v : Int) : accResult v l.ovs l.poison = accNew l v := by
  rw [accNew, ← accResult_eq_accLane, accOver_eq, accResult, accResult]
  cases accFits v <;> simp

theorem accResult_of_fits (v : Int) (ovs poison : Bool) (h : -(2 ^ 55) ≤ v ∧ v < 2 ^ 55) :
    accResult v ovs poison = ⟨BitVec.ofInt 56 v, ovs, poison⟩ :=
  if_pos ((accFits_iff v).mpr h)

theorem accAdd_eq (l : ALane) (v : Int) (poison : Bool) : accAdd l v poison = accMore l v poison := by
  rw [accAdd, accMore, accResult_eq_accLane]

theorem addOverflows_eq (l : ALane) (v : Int) : addOverflows l v = accMoreOver l v := by rw [addOverflows, accMoreOver, accOver_eq]

theorem any_four (p : Nat → Bool) : [0, 1, 2, 3].any p = (p 0 || p 1 || p 2 || p 3) := by
  simp only [List.any_cons, List.any_nil, Bool.or_false, Bool.or_assoc]

/-- Four exact values added to the lanes of an accumulator. -/
theorem accumulate_build (l : AReg) (v : Nat → Int × Bool) :
    accumulate l (Quad.build v) = (Quad.build fun i => accMore (l.get i) (v i).1 (v i).2, [0, 1, 2, 3].any fun i => accMoreOver (l.get i) (v i).1) := by
  simp only [any_four, ← accAdd_eq, ← addOverflows_eq]
  rfl

theorem rescale_eq (l : AReg) (f : Int → Int) :
    rescale l f = (Quad.build fun i => accNew (l.get i) (f (l.get i).v.toInt), [0, 1, 2, 3].any fun i => accOver (f (l.get i).v.toInt)) := by
  simp only [any_four, ← accResult_eq_accNew, accOver_eq]
  rfl

theorem Quad.build_congr {α : Type} {f g : Nat → α} (h : ∀ i < 4, f i = g i) : Quad.build f = Quad.build g := by
  rw [Quad.build, h 0 (by decide), h 1 (by decide), h 2 (by decide), h 3 (by decide)]
  rfl

theorem laneValues_build (a : AReg) : laneValues a = Quad.build fun i => ((a.get i).v.toInt, (a.get i).poison) := rfl

theorem negated_build (v : Nat → Int × Bool) : negated (Quad.build v) = Quad.build fun i => (-(v i).1, (v i).2) := rfl

/-! ## Products (R217) -/

theorem operand_bounds (uns : Bool) (v : BitVec 24) : |operand uns v| ≤ 2 ^ 24 := by
  have hlt := v.isLt
  have hle := v.le_toInt
  have hint := v.toInt_lt
  rw [abs_le]
  cases uns <;> simp only [operand, Bool.false_eq_true, if_true, if_false] <;> omega

theorem product_fits (sm : BitVec 2) (a b : DLane) : -(2 ^ 55) ≤ (product sm a b).1 ∧ (product sm a b).1 < 2 ^ 55 := by
  have hle : |(product sm a b).1| ≤ 2 ^ 24 * 2 ^ 24 := by
    rw [product, abs_mul]
    exact mul_le_mul (operand_bounds _ _) (operand_bounds _ _) (abs_nonneg _) (by norm_num)
  have := abs_le.mp hle
  omega

theorem product_eq (sm : BitVec 2) (a b : DLane) (h : sm ≠ 3) :
    product sm a b = ((if sm = 0 then a.v.toInt else a.v.toNat) * (if sm = 2 then (b.v.toNat : Int) else b.v.toInt), a.poison || b.poison) := by
  have hsm : sm = 0 ∨ sm = 1 ∨ sm = 2 := by revert sm; decide
  rcases hsm with rfl | rfl | rfl <;> rfl

theorem productLegal_iff (sm : BitVec 2) (bc : BitVec 3) : productLegal sm bc = true ↔ sm ≠ 3 ∧ (bc = 0 ∨ 4 ≤ bc.toNat) := by
  revert sm bc
  decide

theorem broadcast_eq (bc : BitVec 3) (b : DReg) (i : Nat) (h : bc = 0 ∨ 4 ≤ bc.toNat) :
    broadcast bc b i = b.get (if bc = 0 then i else bc.toNat - 4) := by
  have hbc : bc = 0 ∨ bc ≠ 0 ∧ bc.getLsbD 2 = true ∧ bc.toNat % 4 = bc.toNat - 4 := by revert bc; decide
  rcases hbc with rfl | ⟨hne, hbit, hmod⟩
  · rfl
  · rw [broadcast, if_pos hbit, if_neg hne, hmod]

theorem products_build (x : Stall) (da db : Fin 64) (sm : BitVec 2) (bc : BitVec 3) (v : Nat → Int × Bool)
    (hv : ∀ i, v i = product sm ((x.getD da).get i) (broadcast bc (x.getD db) i)) : products x da db sm bc = Quad.build v :=
  Quad.build_congr fun i _ => (hv i).symm

/-- What MPY leaves of four products: each fits its lane. -/
theorem products_fit (v : Nat → Int × Bool) (h : ∀ i, ∃ sm a b, v i = product sm a b) :
    (Quad.build v).map (fun p => accResult p.1 false p.2) = Quad.build fun i => ⟨BitVec.ofInt 56 (v i).1, false, (v i).2⟩ := by
  refine Quad.build_congr (f := fun i => accResult (v i).1 false (v i).2) fun i _ => ?_
  obtain ⟨sm, a, b, hi⟩ := h i
  rw [hi]
  exact accResult_of_fits _ _ _ (product_fits sm a b)

/-- The broadcasts of CMAC: none, or one pair of lanes. -/
theorem complexProducts_eq (x : Stall) (da db : Fin 64) (bc : BitVec 3) (cj : Bool) (c : Nat → Int) (r : Nat → Bool) (ar ai br bi : Nat → DLane)
    (hbc : bc = 0 ∨ bc = 4 ∨ bc = 6)
    (hl : ∀ k, ai k = (x.getD da).get (2 * k) ∧ ar k = (x.getD da).get (2 * k + 1) ∧
      bi k = (x.getD db).get (if bc = 0 then 2 * k else bc.toNat - 4) ∧ br k = (x.getD db).get (if bc = 0 then 2 * k + 1 else bc.toNat - 3))
    (hc : ∀ k, c (2 * k + 1) = (ar k).v.toInt * (br k).v.toInt - (ai k).v.toInt * (if cj then -(bi k).v.toInt else (bi k).v.toInt) ∧
      c (2 * k) = (ar k).v.toInt * (if cj then -(bi k).v.toInt else (bi k).v.toInt) + (ai k).v.toInt * (br k).v.toInt ∧
      r (2 * k) = ((ai k).poison || (ar k).poison || (bi k).poison || (br k).poison) ∧ r (2 * k + 1) = r (2 * k)) :
    complexProducts x da db bc cj = Quad.build fun i => (c i, r i) := by
  have hpair : ∀ k, (if bc = 0 then 2 * k else bc.toNat - 4) = 2 * (if bc.getLsbD 2 then bc.toNat % 4 / 2 else k) ∧
      (if bc = 0 then 2 * k + 1 else bc.toNat - 3) = 2 * (if bc.getLsbD 2 then bc.toNat % 4 / 2 else k) + 1 := fun k => by
    rcases hbc with rfl | rfl | rfl <;> exact ⟨rfl, rfl⟩
  refine Quad.build_congr fun i _ => ?_
  obtain ⟨hai, har, hbi, hbr⟩ := hl (i / 2)
  obtain ⟨hre, him, hpoison, hsame⟩ := hc (i / 2)
  rw [(hpair _).1] at hbi
  rw [(hpair _).2] at hbr
  simp only [← hai, ← har, ← hbi, ← hbr]
  rcases Nat.mod_two_eq_zero_or_one i with hi | hi
  · have heven : 2 * (i / 2) = i := by omega
    rw [heven] at him hpoison
    rw [if_neg (by omega), him, hpoison]
  · have hodd : 2 * (i / 2) + 1 = i := by omega
    rw [hodd] at hre hsame
    rw [if_pos hi, hre, hsame, hpoison]

/-! ## Shifts and stores of a lane (R219, R221) -/

theorem toInt_fits (v : BitVec 56) : -(2 ^ 55) ≤ v.toInt ∧ v.toInt < 2 ^ 55 := ⟨v.le_toInt, v.toInt_lt⟩

theorem accResult_shiftRight (l : ALane) (n : Nat) :
    accResult (l.v.toInt / 2 ^ n) l.ovs l.poison = { l with v := l.v.sshiftRight n } ∧ accFits (l.v.toInt / 2 ^ n) = true := by
  obtain ⟨hlow, hhigh⟩ := toInt_fits l.v
  have hp : (0 : Int) < 2 ^ n := by positivity
  have hfits : -(2 ^ 55) ≤ l.v.toInt / 2 ^ n ∧ l.v.toInt / 2 ^ n < 2 ^ 55 := by
    refine ⟨(Int.le_ediv_iff_mul_le hp).mpr ?_, Int.ediv_lt_of_lt_mul hp ?_⟩ <;> nlinarith
  refine ⟨?_, (accFits_iff _).mpr hfits⟩
  rw [accResult_of_fits _ _ _ hfits, BitVec.sshiftRight, Int.shiftRight_eq_div_pow]
  norm_cast

theorem shiftLeft_fits (v : BitVec 24) (n : Nat) (hn : n ≤ 32) : -(2 ^ 55) ≤ v.toInt * 2 ^ n ∧ v.toInt * 2 ^ n < 2 ^ 55 := by
  have hlow := v.le_toInt
  have hhigh := v.toInt_lt
  have hp : (0 : Int) ≤ 2 ^ n := by positivity
  have hle : (2 : Int) ^ n ≤ 2 ^ 32 := pow_le_pow_right₀ (by norm_num) hn
  have hleft := mul_le_mul_of_nonneg_right hlow hp
  have hright := mul_le_mul_of_nonneg_right (Int.le_sub_one_of_lt hhigh) hp
  omega

theorem staLane_eq (l : ALane) (n : Nat) : staLane n l = (⟨(staValue l n).1, l.poison⟩, (staValue l n).2) := by
  by_cases h : l.ovs = true
  · simp only [staLane, staValue, h, if_true, BitVec.msb_eq_toInt, decide_eq_true_eq]
    rfl
  · simp only [staLane, staValue, h, shiftEven, inRange24, held24_eq, Bool.decide_and]
    rfl

end Sys2Proof.Machine
end

section
/-! SUPPORT. The accumulator instructions of a stall (R217 to R221, R250, R251, R253; Machine/Accum.lean). -/

namespace Sys2Proof.Machine

theorem accWrite_after (s : State) (t : StallId) (an : Fin 8) (legal : Bool) (f : Stall → AReg × Bool) (r : AReg × Bool) (h : ready s t)
    (hl : legal = true) (hf : f s.stalls[t] = r) : accWrite t an legal f s = .next (flagged (after s t (s.stalls[t].setA an r.1)) t 0 r.2) := by
  subst hf hl
  exact s.issue_flagged t _ (fun y => y.setA an (f s.stalls[t]).1) _ 0 _ h rfl rfl

theorem accWrite_traps (s : State) (t : StallId) (an : Fin 8) (legal : Bool) (f : Stall → AReg × Bool) (h : ready s t) (hl : legal = false) :
    accWrite t an legal f s = .next (trapped s t 8) := by
  subst hl
  exact s.issue_traps _ t _ _ h.1 rfl

/-! ## Products -/

theorem cmac_traps (s : State) (t : StallId) (an : Fin 8) (da db : Fin 64) (sm : BitVec 2) (bc : BitVec 3) (cj : Bool) (h : ready s t)
    (hbad : sm ≠ 0 ∨ (bc ≠ 0 ∧ bc ≠ 4 ∧ bc ≠ 6)) : exec (.cmac t an da db sm bc cj) s = .next (trapped s t 8) := by
  have hfalse : (sm == 0#2 && (bc == 0#3 || bc == 4#3 || bc == 6#3)) = false := by
    revert sm bc
    decide
  change execCmac t an da db sm bc cj s = _
  rw [execCmac, accWrite_traps s t an _ _ h hfalse]

theorem productLegal_false (sm : BitVec 2) (bc : BitVec 3) (h : sm = 3 ∨ bc = 1 ∨ bc = 2 ∨ bc = 3) : productLegal sm bc = false := by
  revert sm bc
  decide

section
variable (s : State) (t : StallId) (an : Fin 8) (da db : Fin 64) (sm : BitVec 2) (bc : BitVec 3) (h : ready s t)
include h

/-- Of four legal products: MPY takes them, MAC adds them and MSU takes them away. -/
theorem products_after (v : Nat → Int × Bool) (hlegal : productLegal sm bc = true)
    (hv : ∀ i, v i = product sm ((s.stalls[t].getD da).get i) (broadcast bc (s.stalls[t].getD db) i)) :
    exec (.mpy t an da db sm bc) s = .next (after s t (s.stalls[t].setA an (Quad.build fun i => ⟨BitVec.ofInt 56 (v i).1, false, (v i).2⟩))) ∧
    exec (.mac t an da db sm bc) s = .next (flagged (after s t (s.stalls[t].setA an (Quad.build fun i =>
      accMore ((s.stalls[t].getA an).get i) (v i).1 (v i).2))) t 0 ([0, 1, 2, 3].any fun i => accMoreOver ((s.stalls[t].getA an).get i) (v i).1)) ∧
    exec (.msu t an da db sm bc) s = .next (flagged (after s t (s.stalls[t].setA an (Quad.build fun i =>
      accMore ((s.stalls[t].getA an).get i) (-(v i).1) (v i).2))) t 0
      ([0, 1, 2, 3].any fun i => accMoreOver ((s.stalls[t].getA an).get i) (-(v i).1))) := by
  have hbuild := products_build s.stalls[t] da db sm bc v hv
  refine ⟨?_, ?_, ?_⟩
  · change execMpy t an da db sm bc s = _
    rw [execMpy, accWrite_after s t an _ _ _ h hlegal rfl, hbuild, products_fit v fun i => ⟨_, _, _, hv i⟩]
    rfl
  · change execMac t an da db sm bc s = _
    rw [execMac, accWrite_after s t an _ _ _ h hlegal rfl, hbuild, accumulate_build]
  · change execMsu t an da db sm bc s = _
    rw [execMsu, accWrite_after s t an _ _ _ h hlegal rfl, hbuild, negated_build, accumulate_build]

theorem products_trap (hbad : sm = 3 ∨ bc = 1 ∨ bc = 2 ∨ bc = 3) :
    exec (.mpy t an da db sm bc) s = .next (trapped s t 8) ∧ exec (.mac t an da db sm bc) s = .next (trapped s t 8) ∧
    exec (.msu t an da db sm bc) s = .next (trapped s t 8) := by
  have hfalse := productLegal_false sm bc hbad
  refine ⟨?_, ?_, ?_⟩
  · change execMpy t an da db sm bc s = _
    rw [execMpy, accWrite_traps s t an _ _ h hfalse]
  · change execMac t an da db sm bc s = _
    rw [execMac, accWrite_traps s t an _ _ h hfalse]
  · change execMsu t an da db sm bc s = _
    rw [execMsu, accWrite_traps s t an _ _ h hfalse]

end

theorem cmac_after (s : State) (t : StallId) (an : Fin 8) (da db : Fin 64) (bc : BitVec 3) (cj : Bool) (v : Nat → Int × Bool) (h : ready s t)
    (hbc : bc = 0 ∨ bc = 4 ∨ bc = 6) (hv : complexProducts s.stalls[t] da db bc cj = Quad.build v) :
    exec (.cmac t an da db 0 bc cj) s = .next (flagged (after s t (s.stalls[t].setA an (Quad.build fun i =>
      accMore ((s.stalls[t].getA an).get i) (v i).1 (v i).2))) t 0 ([0, 1, 2, 3].any fun i => accMoreOver ((s.stalls[t].getA an).get i) (v i).1)) := by
  have hlegal : ((0 : BitVec 2) == 0#2 && (bc == 0#3 || bc == 4#3 || bc == 6#3)) = true := by rcases hbc with rfl | rfl | rfl <;> rfl
  change execCmac t an da db 0 bc cj s = _
  rw [execCmac, accWrite_after s t an _ _ _ h hlegal rfl, hv, accumulate_build]

/-! ## Functions of an accumulator (R218 to R221, R253) -/

section
variable (s : State) (t : StallId) (an am : Fin 8) (dx : Fin 64) (n : BitVec 6) (x : Stall) (hx : x = s.stalls[t]) (h : ready s t)
include hx h

theorem acc_sums (a b : AReg) (ha : a = x.getA an) (hb : b = x.getA am) :
    exec (.adda t an am dx n) s = .next (flagged (after s t (x.setA an (Quad.build fun i =>
      accMore (a.get i) (b.get i).v.toInt (b.get i).poison))) t 0 ([0, 1, 2, 3].any fun i => accMoreOver (a.get i) (b.get i).v.toInt)) ∧
    exec (.suba t an am dx n) s = .next (flagged (after s t (x.setA an (Quad.build fun i =>
      accMore (a.get i) (-(b.get i).v.toInt) (b.get i).poison))) t 0 ([0, 1, 2, 3].any fun i => accMoreOver (a.get i) (-(b.get i).v.toInt))) := by
  subst ha hb hx
  constructor
  · change execAdda t an am dx n s = _
    rw [execAdda, accWrite_after s t an _ _ _ h rfl rfl, laneValues_build, accumulate_build]
  · change execSuba t an am dx n s = _
    rw [execSuba, accWrite_after s t an _ _ _ h rfl rfl, laneValues_build, negated_build, accumulate_build]

theorem acc_reda (b : AReg) (hb : b = x.getA am) : exec (.reda t an am dx n) s = .next (flagged (after s t (x.setA an
    ⟨accNew ⟨0, (b.get 0).ovs || (b.get 1).ovs || (b.get 2).ovs || (b.get 3).ovs,
      (b.get 0).poison || (b.get 1).poison || (b.get 2).poison || (b.get 3).poison⟩
      ((b.get 0).v.toInt + (b.get 1).v.toInt + (b.get 2).v.toInt + (b.get 3).v.toInt), {}, {}, {}⟩)) t 0
    (accOver ((b.get 0).v.toInt + (b.get 1).v.toInt + (b.get 2).v.toInt + (b.get 3).v.toInt))) := by
  subst hb hx
  change execReda t an am dx n s = _
  rw [execReda, accWrite_after s t an _ _ _ h rfl rfl, ← accResult_eq_accNew, accOver_eq]
  rfl

/-- The functions that keep a lane's OVS. -/
theorem acc_rescaled (a : AReg) (ha : a = x.getA an) :
    exec (.nega t an am dx n) s = .next (flagged (after s t (x.setA an (Quad.build fun i => accNew (a.get i) (-(a.get i).v.toInt)))) t 0
      ([0, 1, 2, 3].any fun i => accOver (-(a.get i).v.toInt))) ∧
    exec (.absa t an am dx n) s = .next (flagged (after s t (x.setA an (Quad.build fun i => accNew (a.get i) |(a.get i).v.toInt|))) t 0
      ([0, 1, 2, 3].any fun i => accOver |(a.get i).v.toInt|)) ∧
    (n.toNat ≤ 55 → exec (.shla t an am dx n) s = .next (flagged (after s t (x.setA an (Quad.build fun i =>
      accNew (a.get i) ((a.get i).v.toInt * 2 ^ n.toNat)))) t 0 ([0, 1, 2, 3].any fun i => accOver ((a.get i).v.toInt * 2 ^ n.toNat)))) := by
  subst ha hx
  refine ⟨?_, ?_, fun hn => ?_⟩
  · change execNega t an am dx n s = _
    rw [execNega, accWrite_after s t an _ _ _ h rfl rfl, rescale_eq]
  · change execAbsa t an am dx n s = _
    rw [execAbsa, accWrite_after s t an _ _ _ h rfl rfl, rescale_eq]
    simp only [Int.abs_eq_natAbs]
  · change execShla t an am dx n s = _
    rw [execShla, accWrite_after s t an _ _ _ h (decide_eq_true hn) rfl, rescale_eq]

theorem acc_sraa (a : AReg) (ha : a = x.getA an) (hn : n.toNat ≤ 55) : exec (.sraa t an am dx n) s = .next (after s t (x.setA an (Quad.build fun i =>
    { a.get i with v := (a.get i).v.sshiftRight n.toNat }))) := by
  subst ha hx
  have hshift (l : AReg) : rescale l (fun v => v / 2 ^ n.toNat) =
      (Quad.build fun i => { l.get i with v := (l.get i).v.sshiftRight n.toNat }, false) := by
    simp only [rescale, Quad.any, accResult_shiftRight, Bool.not_true, Bool.or_false]
    rfl
  change execSraa t an am dx n s = _
  rw [execSraa, accWrite_after s t an _ _ _ h (decide_eq_true hn) (hshift _)]
  rfl

theorem acc_lda (hn : n.toNat ≤ 32) : exec (.lda t an am dx n) s = .next (after s t (x.setA an (Quad.build fun i =>
    ⟨BitVec.ofInt 56 (((x.getD dx).get i).v.toInt * 2 ^ n.toNat), false, ((x.getD dx).get i).poison⟩))) := by
  subst hx
  change execLda t an am dx n s = _
  rw [execLda, accWrite_after s t an _ _ _ h (decide_eq_true hn) rfl]
  simp only [accResult_of_fits _ _ _ (shiftLeft_fits _ _ hn)]
  rfl

theorem acc_sta (a : AReg) (ha : a = x.getA an) (hn : n.toNat ≤ 47) : exec (.sta t an dx n) s = .next (flagged (after s t (x.setD dx (Quad.build fun i =>
    ⟨(staValue (a.get i) n.toNat).1, (a.get i).poison⟩))) t 1 ([0, 1, 2, 3].any fun i => (staValue (a.get i) n.toNat).2)) := by
  subst ha hx
  have hlanes (l : AReg) : l.map (staLane n.toNat) =
      Quad.build fun i => (⟨(staValue (l.get i) n.toNat).1, (l.get i).poison⟩, (staValue (l.get i) n.toNat).2) := by
    simp only [Quad.map, staLane_eq]
    rfl
  change execSta t an dx n s = _
  rw [execSta, any_four]
  refine s.issue_flagged t _ (fun y => y.setD dx _) _ 1 _ h ?_ rfl
  rw [if_neg (by omega), hlanes]
  rfl

end

theorem acc_shiftsTrap (s : State) (t : StallId) (an am : Fin 8) (dx : Fin 64) (n : BitVec 6) (h : ready s t) :
    (55 < n.toNat → exec (.shla t an am dx n) s = .next (trapped s t 8) ∧ exec (.sraa t an am dx n) s = .next (trapped s t 8)) ∧
    (32 < n.toNat → exec (.lda t an am dx n) s = .next (trapped s t 8)) ∧ (47 < n.toNat → exec (.sta t an dx n) s = .next (trapped s t 8)) := by
  refine ⟨fun hn => ?_, fun hn => ?_, fun hn => ?_⟩
  · have hbad := decide_eq_false (Nat.not_le.mpr hn)
    constructor
    · change execShla t an am dx n s = _
      rw [execShla, accWrite_traps s t an _ _ h hbad]
    · change execSraa t an am dx n s = _
      rw [execSraa, accWrite_traps s t an _ _ h hbad]
  · change execLda t an am dx n s = _
    rw [execLda, accWrite_traps s t an _ _ h (decide_eq_false (Nat.not_le.mpr hn))]
  · change execSta t an dx n s = _
    rw [execSta, s.issue_traps (s.resumed t) t _ causeIllegal h.1 (if_pos hn)]
    rfl

/-- Settles O22: products as four exact values, and each function as what it makes of a lane. -/
theorem productsAndAccumulators : Obligations.ProductsAndAccumulators := by
  refine ⟨⟨fun s t an da db sm bc x p q hx h hsm hbc hp hq => ?_, fun s t an da db bc cj x c r ar ai br bi hx h hbc hl hc => ?_,
    fun s t an da db sm bc cj h => ⟨products_trap s t an da db sm bc h, cmac_traps s t an da db sm bc cj h⟩⟩,
    fun s t an am dx n x a b hx ha hb h => ?_, acc_shiftsTrap, by decide⟩
  · subst hx
    refine products_after s t an da db sm bc h (fun i => (p i, q i)) ((productLegal_iff sm bc).mpr ⟨hsm, hbc⟩) fun i => ?_
    rw [hp, hq, broadcast_eq bc _ i hbc, product_eq sm _ _ hsm]
  · subst hx
    exact cmac_after s t an da db bc cj (fun i => (c i, r i)) h hbc (complexProducts_eq _ da db bc cj c r ar ai br bi hbc hl hc)
  · obtain ⟨hadda, hsuba⟩ := acc_sums s t an am dx n x hx h a b ha hb
    obtain ⟨hnega, habsa, hshla⟩ := acc_rescaled s t an am dx n x hx h a ha
    refine ⟨?_, ?_, hadda, hsuba, hnega, habsa, acc_reda s t an am dx n x hx h b hb, ?_, ?_, hshla, acc_sraa s t an am dx n x hx h a ha,
      acc_lda s t an am dx n x hx h, acc_sta s t an dx n x hx h a ha⟩ <;> subst ha hb hx
    · exact accWrite_after s t an true (fun _ => (Quad.build fun _ => ⟨0, false, false⟩, false)) _ h rfl rfl
    · exact accWrite_after s t an true (fun x => (x.getA am, false)) _ h rfl rfl
    · exact regOp_after s t _ h rfl
    · exact regOp_after s t _ h rfl

end Sys2Proof.Machine
end

section
/-! SUPPORT. The flow instructions of a stall (R236 to R241, R250, R254; Machine/Flow.lean): where it goes on, and what its return stack and its loop
levels become. -/

namespace Sys2Proof.Machine

/-! ## Jumps, and the end of a loop's body -/

theorem State.control_jumps (s : State) (t : StallId) (f : State → Stall → StallOut) (F : Stall → Stall) (y : Stall) (a : BitVec 13)
    (h : issuesControl s t) (hf : f (s.resumed t) s.stalls[t] = { st := (s.resumed t).modStall t F, flow := .jump a })
    (hF : F s.stalls[t].resumed = y.resumed) : s.issue t true f = .next (jumped s t y a) := by
  rw [s.issue_control t f h, hf, State.resumed, State.modStall_modStall]
  change Host.Outcome.next ((s.modStall t _).modStall t fun x => { x with pc := a }) = _
  rw [State.modStall_modStall, State.modStall, hF]
  rfl

theorem State.control_traps (s u : State) (t : StallId) (f : State → Stall → StallOut) (c : Nat) (h : issuesControl s t)
    (hf : f (s.resumed t) s.stalls[t] = trapOut u c) : s.issue t true f = .next (trapped s t c) := by
  rw [s.issue_control t f h, hf, s.finish_trap]

theorem State.control_after (s : State) (t : StallId) (f : State → Stall → StallOut) (F : Stall → Stall) (y : Stall) (h : issuesControl s t)
    (hruns : s.stalls[t].runsOut = false) (hf : f (s.resumed t) s.stalls[t] = { st := (s.resumed t).modStall t F })
    (hF : F s.stalls[t].resumed = y.resumed) : s.issue t true f = .next (after s t y) := by
  rw [s.issue_control t f h, ← s.issue_issues t f h.1, s.issue_after t f F y ⟨h.1, hruns⟩ hf hF]

theorem State.resumed_idle (s : State) (t : StallId) : s.resumed t = (s.resumed t).modStall t fun x => x := by
  rw [State.resumed, State.modStall_modStall]

theorem Stall.advance_within (x : Stall) (h : x.lastOfBody = false) : x.advance = { x with pc := x.pc + 1 } := by
  rw [Stall.advance]
  split
  · rw [h, if_neg Bool.false_ne_true]
  · rfl

theorem Stall.advance_bodyEnd (x : Stall) (l : LoopLevel) (r : List LoopLevel) (hl : x.loops = l :: r) (h : x.lastOfBody = true) :
    x.advance.rb = (if l.rot then x.rb - 1 else x.rb) ∧
    (1 < l.remaining → x.advance.pc = l.start ∧ x.advance.loops = { l with remaining := l.remaining - 1 } :: r) ∧
    (l.remaining ≤ 1 → x.advance.pc = x.pc + 1 ∧ x.advance.loops = r) := by
  simp only [Stall.advance, hl, h, if_true]
  split
  · rename_i hmore
    exact ⟨by split <;> rfl, fun _ => ⟨rfl, rfl⟩, fun hend => absurd hmore (Nat.not_lt.mpr hend)⟩
  · rename_i hend
    exact ⟨by split <;> rfl, fun hmore => absurd hmore hend, fun _ => ⟨rfl, rfl⟩⟩

/-! ## Branches, calls and returns (R237, R238, R241, R246) -/

theorem target_eq (x : Stall) (off : BitVec 14) : target x off = BitVec.ofInt 13 (x.pc.toNat + off.toInt) := by
  rw [target, BitVec.ofInt_add, BitVec.ofInt_natCast, BitVec.ofNat_toNat, BitVec.setWidth_eq,
    ← BitVec.signExtend_eq_setWidth_of_le off (by decide), BitVec.signExtend]

theorem endLoops_eq (x : Stall) (dst : BitVec 13) :
    endLoops x dst = x.loops.filter fun l => !(decide (l.depth = x.rets.length) && !decide (l.start.toNat ≤ dst.toNat ∧ dst.toNat ≤ l.last)) := by
  have hout (l : LoopLevel) : (decide (dst.toNat < l.start.toNat) || decide (l.last < dst.toNat)) =
      !decide (l.start.toNat ≤ dst.toNat ∧ dst.toNat ≤ l.last) := by
    rw [← Bool.decide_or, ← decide_not]
    exact decide_eq_decide.mpr (by omega)
  simp only [endLoops, hout]
  rfl

section
variable (s : State) (t : StallId) (off : BitVec 14) (x : Stall) (dst : BitVec 13) (hx : x = s.stalls[t]) (h : issuesControl s t)
include hx h

theorem br_jumps (hdst : dst = BitVec.ofInt 13 (x.pc.toNat + off.toInt)) :
    exec (.br t off) s = .next (jumped s t { x with loops := x.loops.filter fun l =>
      !(decide (l.depth = x.rets.length) && !decide (l.start.toNat ≤ dst.toNat ∧ dst.toNat ≤ l.last)) } dst) := by
  subst hx
  rw [← endLoops_eq, hdst, ← target_eq]
  change execBr t off s = _
  rw [execBr]
  exact s.control_jumps t _ (fun y => { y with loops := endLoops s.stalls[t] (target s.stalls[t] off) }) _ _ h rfl rfl

theorem call_jumps (hdst : dst = BitVec.ofInt 13 (x.pc.toNat + off.toInt)) (hroom : x.rets.length < 8) :
    exec (.call t off) s = .next (jumped s t { x with rets := (x.pc + 1) :: x.rets } dst) := by
  subst hx
  rw [hdst, ← target_eq]
  change execCall t off s = _
  rw [execCall]
  exact s.control_jumps t _ (fun y => { y with rets := (s.stalls[t].pc + 1) :: y.rets }) _ _ h (if_neg (by omega)) rfl

theorem call_traps (hfull : 8 ≤ x.rets.length) : exec (.call t off) s = .next (trapped s t 10) := by
  subst hx
  change execCall t off s = _
  rw [execCall]
  exact s.control_traps (s.resumed t) t _ causeStack h (if_pos hfull)

theorem ret_jumps (a : BitVec 13) (r : List (BitVec 13)) (hr : x.rets = a :: r) :
    exec (.ret t) s = .next (jumped s t { x with rets := r, loops := x.loops.filter fun l => decide (l.depth ≤ r.length) } a) := by
  subst hx
  change execRet t s = _
  rw [execRet]
  exact s.control_jumps t _ (fun y => { y with rets := r, loops := y.loops.filter fun l => decide (l.depth ≤ r.length) }) _ _ h
    (by rw [popTo, hr]) rfl

theorem ret_traps (hr : x.rets = []) : exec (.ret t) s = .next (trapped s t 10) := by
  subst hx
  change execRet t s = _
  rw [execRet]
  exact s.control_traps (s.resumed t) t _ causeStack h (by rw [popTo, hr])

theorem trapret_jumps (a : BitVec 13) (r : List (BitVec 13)) (hr : x.rets = a :: r) (hm : x.masked = true) :
    exec (.trapret t) s = .next (jumped s t { x with
      rets := r, masked := false, loops := x.loops.filter fun l => decide (l.depth ≤ r.length) } a) := by
  subst hx
  change execTrapret t s = _
  rw [execTrapret]
  exact s.control_jumps t _ (fun y => { y with masked := false, rets := r, loops := y.loops.filter fun l => decide (l.depth ≤ r.length) }) _ _ h
    (by rw [if_pos hm, popTo, hr]) rfl

theorem trapret_traps (hm : x.masked = false) : exec (.trapret t) s = .next (trapped s t 8) := by
  subst hx
  change execTrapret t s = _
  rw [execTrapret]
  exact s.control_traps (s.resumed t) t _ causeIllegal h (by rw [hm, if_neg Bool.false_ne_true])

end

/-! ## Conditional branches (R237, R254) -/

theorem condition_eq (cc : BitVec 3) (a b : BitVec 24) :
    condition cc a b = (if cc = 0 then decide (a = b) else if cc = 1 then decide (a ≠ b) else if cc = 2 then decide (a.toInt < b.toInt)
      else if cc = 3 then decide (b.toInt ≤ a.toInt) else if cc = 4 then decide (a.toNat < b.toNat) else if cc = 5 then decide (b.toNat ≤ a.toNat)
      else if cc = 6 then decide (a.toNat = 0) else decide (a.toNat ≠ 0)) := by
  have hcc : cc = 0 ∨ cc = 1 ∨ cc = 2 ∨ cc = 3 ∨ cc = 4 ∨ cc = 5 ∨ cc = 6 ∨ cc = 7 := by revert cc; decide
  have hzero : (a == 0) = decide (a.toNat = 0) := decide_eq_decide.mpr ⟨fun e => by rw [e]; rfl, fun e => BitVec.eq_of_toNat_eq e⟩
  have hslt : (!a.slt b) = decide (b.toInt ≤ a.toInt) := by rw [BitVec.slt, ← decide_not]; exact decide_eq_decide.mpr not_lt
  have hult : (!a.ult b) = decide (b.toNat ≤ a.toNat) := by rw [BitVec.ult, ← decide_not]; exact decide_eq_decide.mpr not_lt
  rcases hcc with rfl | rfl | rfl | rfl | rfl | rfl | rfl | rfl
  · rfl
  · exact (decide_not (p := a = b)).symm
  · rfl
  · exact hslt
  · rfl
  · exact hult
  · exact hzero
  · exact (congrArg (!·) hzero).trans decide_not.symm

theorem bcc_stays (s : State) (t : StallId) (pa pb : Fin 16) (cc : BitVec 3) (off : BitVec 14) (h : issuesControl s t)
    (hc : condition cc (s.stalls[t].getP pa) (s.stalls[t].getP pb) = false) (hruns : s.stalls[t].runsOut = false) :
    exec (.bcc t pa pb cc off) s = .next (after s t s.stalls[t]) := by
  change execBcc t pa pb cc off s = _
  rw [execBcc]
  refine s.control_after t _ (fun y => y) _ h hruns ?_ rfl
  rw [hc, if_neg Bool.false_ne_true, ← State.resumed_idle]

theorem bcc_branches (s : State) (t : StallId) (pa pb : Fin 16) (cc : BitVec 3) (off : BitVec 14) (h : issuesControl s t)
    (hc : condition cc (s.stalls[t].getP pa) (s.stalls[t].getP pb) = true) : exec (.bcc t pa pb cc off) s = exec (.br t off) s := by
  change execBcc t pa pb cc off s = execBr t off s
  rw [execBcc, execBr, s.issue_control t _ h, s.issue_control t _ h, if_pos hc]

/-! ## Loops (R239, R240) -/

section
variable (s : State) (t : StallId) (rot src : Bool) (cnt body : BitVec 12) (h : issuesControl s t)
include h

theorem loop_traps (hbad : loopLegal s.stalls[t] (s.stalls[t].pc.toNat + body.toNat) body = false) :
    exec (.loop t rot src cnt body) s = .next (trapped s t 8) := by
  change execLoop t rot src cnt body s = _
  rw [execLoop]
  exact s.control_traps (s.resumed t) t _ causeIllegal h (if_pos (by rw [hbad]; rfl))

variable (hlegal : loopLegal s.stalls[t] (s.stalls[t].pc.toNat + body.toNat) body = true)
include hlegal

theorem loop_enters (hruns : s.stalls[t].runsOut = false) (hn : loopCount s.stalls[t] src cnt ≠ 0) :
    exec (.loop t rot src cnt body) s = .next (after s t { s.stalls[t] with loops :=
      ⟨s.stalls[t].pc + 1, s.stalls[t].pc.toNat + body.toNat, loopCount s.stalls[t] src cnt, rot, s.stalls[t].rets.length⟩ ::
        s.stalls[t].loops }) := by
  change execLoop t rot src cnt body s = _
  rw [execLoop]
  refine s.control_after t _ (fun y => { y with loops :=
    ⟨s.stalls[t].pc + 1, s.stalls[t].pc.toNat + body.toNat, loopCount s.stalls[t] src cnt, rot, s.stalls[t].rets.length⟩ :: y.loops }) _ h hruns ?_ rfl
  simp only [hlegal, hn, Bool.not_true, Bool.false_eq_true, if_false]

theorem loop_skips (hn : loopCount s.stalls[t] src cnt = 0) (hin : s.stalls[t].pc.toNat + body.toNat < 0x1FFF) :
    exec (.loop t rot src cnt body) s =
      .next (jumped s t s.stalls[t] (BitVec.ofNat 13 (s.stalls[t].pc.toNat + body.toNat + 1))) := by
  change execLoop t rot src cnt body s = _
  rw [execLoop]
  refine s.control_jumps t _ (fun y => y) _ _ h ?_ rfl
  simp only [hlegal, hn, Nat.not_le.mpr hin, ← State.resumed_idle, Bool.not_true, Bool.false_eq_true, if_false, if_true]

end

theorem loopLegal_true (x : Stall) (last : Nat) (body : BitVec 12) (hbody : body ≠ 0) (hroom : x.loops.length < 2)
    (hnest : ∀ l ∈ x.loops.head?, l.depth = x.rets.length → last < l.last) : loopLegal x last body = true := by
  simp only [loopLegal, Bool.and_eq_true, bne_iff_ne, decide_eq_true_eq]
  refine ⟨⟨hbody, hroom⟩, ?_⟩
  cases hl : x.loops with
  | nil => rfl
  | cons l r =>
    rw [hl] at hnest
    by_cases hd : l.depth = x.rets.length
    · simp [hd, hnest l rfl hd]
    · simp [hd]

theorem loopLegal_false (x : Stall) (last : Nat) (body : BitVec 12) (h : body = 0 ∨ x.loops.length = 2) : loopLegal x last body = false := by
  rcases h with rfl | h
  · rfl
  · simp [loopLegal, h]

/-- Settles O27: each instruction by where it goes on. -/
theorem flowInstructions : Obligations.FlowInstructions := by
  refine ⟨fun s t off x dst hx h hdst => ⟨br_jumps s t off x dst hx h hdst, call_jumps s t off x dst hx h hdst, call_traps s t off x hx h,
      fun a r hr => ⟨ret_jumps s t x hx h a r hr, trapret_jumps s t x hx h a r hr⟩, ret_traps s t x hx h, trapret_traps s t x hx h⟩,
    fun s t pa pb cc off x a b taken hx h ha hb htaken => ?_, fun s t rot src cnt body x n hx h hruns hn hbody hroom hnest => ?_,
    fun s t rot src cnt body h hbad => loop_traps s t rot src cnt body h (loopLegal_false _ _ _ hbad), fun s t h => ?_, fun s t off h hl => ?_,
    fun x => ⟨fun hl => x.advance_within (by rw [Stall.lastOfBody, hl]), fun l r hl => ⟨x.advance_within, x.advance_bodyEnd l r hl⟩⟩⟩
  · rw [← condition_eq] at htaken
    subst hx ha hb htaken
    exact ⟨bcc_stays s t pa pb cc off h, bcc_branches s t pa pb cc off h⟩
  · subst hx hn
    have hlegal := loopLegal_true _ _ body hbody hroom hnest
    exact ⟨loop_enters s t rot src cnt body h hlegal hruns, loop_skips s t rot src cnt body h hlegal⟩
  · change execIllegalOpcode t s = _
    rw [execIllegalOpcode]
    exact s.issue_traps (s.resumed t) t _ causeIllegal h rfl
  · refine ⟨?_, s.issue_bodyEnd t _ h hl, ?_⟩
    · change execBr t off s = _
      rw [execBr, s.issue_bodyEnd t _ h hl]
    · change execCall t off s = _
      rw [execCall, s.issue_bodyEnd t _ h hl]

end Sys2Proof.Machine
end

section
/-! SUPPORT. Flags and traps of a stall (R243 to R246; Machine/Porter.lean). -/

namespace Sys2Proof.Machine

/-- A stall that has entered its trap handler. -/
def Stall.trapsAt (x : Stall) (c : Nat) : Stall :=
  { x with trapCause := BitVec.ofNat 11 (2 ^ c), rets := x.pc :: x.rets, masked := true, pend := none, pc := x.entryTrap }

theorem State.takeTrap_enters (s : State) (t : StallId) (c : Nat) (he : s.stalls[t].entryTrap ≠ 0) (hm : s.stalls[t].masked = false)
    (hr : s.stalls[t].rets.length < 8) : s.takeTrap t c = (s.modStall t (·.trapsAt c)).bump (Obj.STALL.TRAPS t) := by
  have hno : ¬(s.stalls[t].entryTrap = 0 ∨ s.stalls[t].masked = true ∨ 8 ≤ s.stalls[t].rets.length) := by
    rintro (h | h | h)
    · exact he h
    · rw [hm] at h
      exact Bool.false_ne_true h
    · omega
  rw [State.takeTrap, if_neg hno]
  rfl

/-- A stall whose flag hardware has set. -/
def Stall.raised (x : Stall) (b : Fin 6) : Stall := { x with flags := x.flags ||| BitVec.ofNat 6 (2 ^ b.val) }

theorem Stall.raised_flag (x : Stall) (b : Fin 6) : (x.raised b).flags.getLsbD b = true := by
  have hbit : (BitVec.ofNat 6 (2 ^ b.val)).getLsbD b = true := by revert b; decide
  rw [Stall.raised, BitVec.getLsbD_or, hbit, Bool.or_true]

/-- A flag that no trap follows. -/
theorem State.raiseFlag_quiet (s : State) (t : StallId) (b : Fin 6)
    (h : s.stalls[t].flags.getLsbD b = true ∨ s.stalls[t].trapEn.getLsbD b = false ∨ s.stalls[t].masked = true) :
    s.raiseFlag t b = (s.modStall t (·.raised b)).syncFlags t := by
  have hstale : (!s.stalls[t].flags.getLsbD b && s.stalls[t].trapEn.getLsbD b && !s.stalls[t].masked) = false := by
    rcases h with h | h | h <;> rw [h]
    · rfl
    · rw [Bool.and_false, Bool.false_and]
    · rw [Bool.not_true, Bool.and_false]
  rw [State.raiseFlag]
  simp only [hstale, Bool.false_and, Bool.false_eq_true, if_false]
  rfl

/-- A flag that a trap follows. -/
theorem State.raiseFlag_traps (s : State) (t : StallId) (b : Fin 6) (hrun : s.stalls[t].running = true) (hf : s.stalls[t].flags.getLsbD b = false)
    (hen : s.stalls[t].trapEn.getLsbD b = true) (hm : s.stalls[t].masked = false) :
    s.raiseFlag t b = ((s.modStall t fun x => { x.raised b with pend := some b }).syncFlags t).takeTrap t b := by
  rw [State.raiseFlag]
  simp only [hf, hen, hm, hrun, Bool.not_false, Bool.and_self, if_true]
  change State.takePending ((s.modStall t fun x => { x.raised b with pend := some b }).syncFlags t) t = _
  rw [State.takePending, State.syncFlags, State.put_stalls, State.modStall_self]
  change (if s.stalls[t].masked = true then _ else _) = _
  rw [hm, if_neg Bool.false_ne_true]

/-- Settles O29: a trap by whether it can be entered, a flag by whether one follows it. -/
theorem flagsAndTraps : Obligations.FlagsAndTraps := by
  refine ⟨fun s t c x hx he hm hr hroom => ?_, fun s t c hno => ?_, fun s t b x hx _ hquiet => ?_, fun s t b x hx hrun hf hen hm he hr => ?_⟩ <;>
    try subst hx
  · rw [s.takeTrap_enters t c he hm hr]
    exact ⟨rfl, State.u_bump_self _ _ hroom, rfl, (regsKept.refl s _).put List.mem_cons_self _⟩
  · rw [State.takeTrap, if_pos hno]
  · rw [s.raiseFlag_quiet t b hquiet]
    exact ⟨rfl, rfl, (regsKept.refl s _).put List.mem_cons_self _⟩
  · have hstall : ((s.modStall t fun x => { x.raised b with pend := some b }).syncFlags t).stalls[t] =
        { s.stalls[t].raised b with pend := some b } := by
      rw [State.syncFlags, State.put_stalls, State.modStall_self]
    rw [s.raiseFlag_traps t b hrun hf hen hm, State.takeTrap_enters _ t b (by rw [hstall]; exact he) (by rw [hstall]; exact hm)
      (by rw [hstall]; exact hr), State.bump_eq, State.put_stalls, State.modStall_self, hstall]
    exact ⟨rfl, rfl, rfl, s.stalls[t].raised_flag b, rfl, rfl⟩

end Sys2Proof.Machine
end

section
/-! SUPPORT. Addressing (R227 to R231; Machine/StallCore.lean): the address used, and the pointer and the modifier after it. -/

namespace Sys2Proof.Machine

/-! ## Offsets in a ring -/

theorem pullIn_within (m : Modifier) (o : Int) (h : 0 ≤ o ∧ o < m.len.toNat) : pullIn m o = (o, m) := if_pos h

/-- A pointer outside its ring is brought back to BASE, and TRIM is set (R230). -/
theorem pullIn_outside (m : Modifier) (o : Int) (h : ¬(0 ≤ o ∧ o < m.len.toNat)) : (pullIn m o).1 = 0 ∧ (pullIn m o).2.trim = true := by
  rw [pullIn, if_neg h]
  exact ⟨rfl, rfl⟩

theorem Modifier.takeStaged_trim (m : Modifier) : m.takeStaged.trim = m.trim := by
  rw [Modifier.takeStaged]
  split <;> rfl

theorem modStep_trim (m : Modifier) (o : Int) (st : Bool) : (modStep m o st).2.trim = m.trim := by
  rw [modStep]
  dsimp only
  split
  · rfl
  · split
    · exact m.takeStaged_trim
    · rfl

theorem brevStep_trim (m : Modifier) (o : Int) (st : Bool) : (brevStep m o st).2.trim = m.trim := by
  rw [brevStep]
  dsimp only
  split
  · exact m.takeStaged_trim
  · rfl

/-- A load's modulo step, within its ring or around it. -/
theorem modStep_load (m : Modifier) (o : Int) : modStep m o false = ((o + m.step.toInt) % m.len.toNat, m) := by
  by_cases h : 0 ≤ o + m.step.toInt ∧ o + m.step.toInt < m.len.toNat
  · rw [modStep, if_pos h, Int.emod_eq_of_lt h.1 h.2]
  · rw [modStep, if_neg h]
    simp only [Bool.false_eq_true, if_false, Int.emod_emod_of_dvd _ dvd_rfl]

/-- A store that wraps takes the length staged (R229). -/
theorem modStep_wraps (m : Modifier) (o : Int) (hs : m.staged ≠ 0) (h : ¬(0 ≤ o + m.step.toInt ∧ o + m.step.toInt < m.len.toNat)) :
    modStep m o true = ((o + m.step.toInt) % m.len.toNat % m.staged.toNat, { m with prevLen := m.len, len := m.staged, staged := 0 }) := by
  rw [modStep, if_neg h]
  simp only [if_true, Modifier.takeStaged, if_neg hs]

/-- An offset from BASE within 24 bits. -/
theorem base_add (b : BitVec 24) (o : Int) (h0 : 0 ≤ o) (h : b.toNat + o < 2 ^ 24) : ((b + BitVec.ofInt 24 o).toNat : Int) = b.toNat + o := by
  obtain ⟨k, rfl⟩ := Int.eq_ofNat_of_zero_le h0
  rw [BitVec.ofInt_natCast, BitVec.toNat_add, BitVec.toNat_ofNat, Nat.add_mod_mod, Nat.mod_eq_of_lt (by omega)]
  rfl

/-! ## The modes MOD and BREV -/

/-- The step of MOD or of BREV from an offset. -/
def ringStep (am : BitVec 2) (st : Bool) (q : Int × Modifier) : Int × Modifier :=
  if am.toNat = 2 then modStep q.2 q.1 st else brevStep q.2 q.1 st

theorem ringStep_trim (am : BitVec 2) (st : Bool) (q : Int × Modifier) : (ringStep am st q).2.trim = q.2.trim := by
  rw [ringStep]
  split
  · exact modStep_trim _ _ _
  · exact brevStep_trim _ _ _

/-- What an access at an offset of a ring yields. -/
def ringAddressed (m : Modifier) (am : BitVec 2) (st : Bool) (q : Int × Modifier) : Addressed :=
  ⟨(m.base + BitVec.ofInt 24 q.1).toNat, m.base + BitVec.ofInt 24 (ringStep am st q).1, (ringStep am st q).2⟩

section
variable (x : Stall) (pn : Fin 16) (mm : Fin 8) (sz : Nat) (k : BitVec 8) (st : Bool) (m : Modifier) (hm : m = x.m[mm])
include hm

theorem address_ring (am : BitVec 2) (ham : am = 2 ∨ am = 3) :
    address x pn mm am sz k st = if m.len = 0 ∨ m.step = 0 then none
      else if am.toNat = 3 ∧ ¬(powerOfTwo m.len.toNat ∧ powerOfTwo m.step.toInt.natAbs ∧ m.step.toInt.natAbs < m.len.toNat) then none
      else some (ringAddressed m am st (pullIn m ((x.p[pn].toNat : Int) - m.base.toNat))) := by
  subst hm
  rcases ham with rfl | rfl <;> rfl

theorem address_ring_illegal (am : BitVec 2) (ham : am = 2 ∨ am = 3) (h : m.len = 0 ∨ m.step = 0) : address x pn mm am sz k st = none := by
  rw [address_ring x pn mm sz k st m hm am ham, if_pos h]

theorem address_mod (o : Nat) (hl : m.len ≠ 0) (hs : m.step ≠ 0) (hp : x.p[pn].toNat = m.base.toNat + o) (ho : o < m.len.toNat) :
    address x pn mm 2 sz k st = some ⟨m.base.toNat + o, m.base + BitVec.ofInt 24 (modStep m o st).1, (modStep m o st).2⟩ := by
  have hoff : (x.p[pn].toNat : Int) - m.base.toNat = o := by omega
  have hbase : (m.base + BitVec.ofInt 24 (o : Int)).toNat = m.base.toNat + o := by
    have := x.p[pn].isLt
    exact_mod_cast base_add m.base o (by omega) (by omega)
  rw [address_ring x pn mm sz k st m hm 2 (.inl rfl), if_neg (not_or.mpr ⟨hl, hs⟩), if_neg fun h => absurd h.1 (by decide), hoff,
    pullIn_within m o ⟨by omega, by omega⟩, ringAddressed, hbase]
  rfl

/-- A ring's pointer is used inside the ring, where it came from outside at BASE (R230). -/
theorem address_ring_inside (am : BitVec 2) (ham : am = 2 ∨ am = 3) (ad : Addressed)
    (h : address x pn mm am sz k st = some ad) :
    m.base.toNat ≤ ad.addr ∧ ad.addr < m.base.toNat + m.len.toNat ∧
    (¬(m.base.toNat ≤ x.p[pn].toNat ∧ x.p[pn].toNat < m.base.toNat + m.len.toNat) → ad.addr = m.base.toNat ∧ ad.m.trim = true) := by
  rw [address_ring x pn mm sz k st m hm am ham] at h
  by_cases hnone : m.len = 0 ∨ m.step = 0
  · rw [if_pos hnone] at h
    exact absurd h (by simp)
  rw [if_neg hnone] at h
  have hlen := BitVec.toNat_pos_of_ne_zero fun e => hnone (.inl e)
  obtain rfl := Option.some.inj (Option.ite_none_left_eq_some.mp h).2
  by_cases hring : m.base.toNat ≤ x.p[pn].toNat ∧ x.p[pn].toNat < m.base.toNat + m.len.toNat
  · have haddr : ((ringAddressed m am st ((x.p[pn].toNat : Int) - m.base.toNat, m)).addr : Int) = m.base.toNat + _ :=
      base_add m.base ((x.p[pn].toNat : Int) - m.base.toNat) (by omega) (by omega)
    rw [pullIn_within m ((x.p[pn].toNat : Int) - m.base.toNat) (by omega)]
    exact ⟨by omega, by omega, fun hout => absurd hring hout⟩
  · obtain ⟨hzero, htrim⟩ := pullIn_outside m ((x.p[pn].toNat : Int) - m.base.toNat) (by omega)
    have haddr : ((ringAddressed m am st (pullIn m ((x.p[pn].toNat : Int) - m.base.toNat))).addr : Int) = m.base.toNat + 0 := by
      rw [ringAddressed, hzero]
      exact base_add m.base 0 le_rfl (by omega)
    exact ⟨by omega, by omega, fun _ => ⟨by omega, (ringStep_trim _ _ _).trans htrim⟩⟩

end

/-- Settles O26: by the mode, and in a ring by where the pointer stands and where the step leads. -/
theorem addressing : Obligations.Addressing := by
  refine ⟨fun x pn mm sz k st => ⟨rfl, rfl⟩, fun x pn mm sz k st m hm h => ⟨address_ring_illegal x pn mm sz k st m hm 2 (.inl rfl) h,
      address_ring_illegal x pn mm sz k st m hm 3 (.inr rfl) h⟩, fun x pn mm sz k m o hm hl hs hp ho hin => ?_,
    fun x pn mm sz k m o hm hl hs hp ho hst hin hwrap => ?_, fun x pn mm sz k st am ad m hm ham _ h => ?_, by decide⟩
  · have hlen : (0 : Int) < m.len.toNat := by exact_mod_cast BitVec.toNat_pos_of_ne_zero hl
    have h0 := Int.emod_nonneg (o + m.step.toInt) hlen.ne'
    have hlt := Int.emod_lt_of_pos (o + m.step.toInt) hlen
    exact ⟨_, address_mod x pn mm sz k false m hm o hl hs hp ho, rfl, by rw [modStep_load], by rw [modStep_load, base_add _ _ h0 (by omega)]⟩
  · have hlen : (0 : Int) < m.staged.toNat := by exact_mod_cast BitVec.toNat_pos_of_ne_zero hst
    have h0 := Int.emod_nonneg ((o + m.step.toInt) % m.len.toNat) hlen.ne'
    have hlt := Int.emod_lt_of_pos ((o + m.step.toInt) % m.len.toNat) hlen
    refine ⟨_, address_mod x pn mm sz k true m hm o hl hs hp ho, rfl, ?_⟩
    rw [modStep_wraps m o hst hwrap]
    exact ⟨rfl, rfl, rfl, base_add _ _ h0 (by omega)⟩
  · have hmode : ∀ am : BitVec 2, 2 ≤ am.toNat → am = 2 ∨ am = 3 := by decide
    exact address_ring_inside x pn mm sz k st m hm am (hmode am ham) ad h

end Sys2Proof.Machine
end

section
/-! SUPPORT. Accesses of a stall to its local memory (R223, R225 to R227; Machine/LoadStore.lean): the pointer and modifier after them, and what they
find in memory. -/

namespace Sys2Proof.Machine

/-- A stall whose pointer and modifier have moved on with an access. -/
def Stall.pointed (x : Stall) (pn : Fin 16) (mm : Fin 8) (ad : Addressed) : Stall := (x.setP pn ad.p).setM mm ad.m

/-- The state in which the bytes of an access are read or written. -/
def State.pointed (s : State) (t : StallId) (pn : Fin 16) (mm : Fin 8) (ad : Addressed) : State := (s.resumed t).modStall t (·.pointed pn mm ad)

theorem State.pointed_modStall (s : State) (t : StallId) (pn : Fin 16) (mm : Fin 8) (ad : Addressed) (f : Stall → Stall) :
    (s.pointed t pn mm ad).modStall t f = (s.resumed t).modStall t fun x => f (x.pointed pn mm ad) := State.modStall_modStall _ _ _ _

theorem State.pointed_settled (s : State) (t : StallId) (pn : Fin 16) (mm : Fin 8) (ad : Addressed) (h : settled s.stalls[t] = true) :
    settled (s.pointed t pn mm ad).stalls[t] = true := by
  rw [State.pointed, State.modStall_self, State.resumed, State.modStall_self]
  exact h

/-! ## The access, or its trap -/

section
variable (s : State) (t : StallId) (pn : Fin 16) (mm : Fin 8) (am : BitVec 2) (size n : Nat) (k : BitVec 8) (st : Bool)
  (f : State → Stall → Nat → StallOut)

theorem memOp_reaches (ad : Addressed) (a : Nat) (had : address s.stalls[t] pn mm am size k st = some ad) (ha : a = ad.addr / size * size)
    (hok : localOk a n st = true) : memOp t pn mm am size n k st f (s.resumed t) s.stalls[t] =
      { f (s.pointed t pn mm ad) s.stalls[t] a with touch := some (a, n, st) } := by
  subst ha
  rw [memOp, had]
  exact if_pos hok

theorem memOp_illegal (had : address s.stalls[t] pn mm am size k st = none) :
    memOp t pn mm am size n k st f (s.resumed t) s.stalls[t] = trapOut (s.resumed t) 8 := by
  rw [memOp, had]
  rfl

theorem memOp_beyond (ad : Addressed) (had : address s.stalls[t] pn mm am size k st = some ad)
    (hok : localOk (ad.addr / size * size) n st = false) : memOp t pn mm am size n k st f (s.resumed t) s.stalls[t] = trapOut (s.resumed t) 9 := by
  rw [memOp, had]
  exact if_neg (by rw [aligned, hok]; exact Bool.false_ne_true)

end

theorem localOk_load (a n : Nat) (h : a + n ≤ 0x30000) : localOk a n false = true := by simp [localOk, h]

theorem localOk_store (a n : Nat) (h : a + n ≤ 0x2FB00) : localOk a n true = true := by
  simp only [localOk, Bool.not_true, Bool.false_or, Bool.and_eq_true, decide_eq_true_eq]
  omega

/-! ## Bytes of a stall whose GETs have all been waited for (R225) -/

theorem State.localBytes_settled (s : State) (t : StallId) (a n base : Nat) (h : settled s.stalls[t] = true) :
    s.localBytes t a n base = s.load (stallData t + a) n := if_pos h

theorem State.localPoison_settled (s : State) (t : StallId) (a base : Nat) (h : settled s.stalls[t] = true) :
    s.localPoison t a base = s.poisoned (stallData t + a) := if_pos h

theorem State.drewLocal_settled (s : State) (t : StallId) (n : Nat) (h : settled s.stalls[t] = true) : s.drewLocal t n = s := if_pos h

theorem elements_sound (s : State) (t : StallId) (a size : Nat) (hset : settled s.stalls[t] = true) (hsize : 0 < size)
    (hs : sound s (stallData t + a) (4 * size)) :
    elements s t a size = Quad.build fun i => (fromLe (s.load (stallData t + a + size * i) size), false) := by
  refine Quad.build_congr fun i hi => ?_
  have hin : size * i + size ≤ 4 * size := by
    rw [← Nat.mul_succ, Nat.mul_comm]
    exact Nat.mul_le_mul_right size hi
  rw [s.localBytes_settled t _ _ _ hset, s.localPoison_settled t _ _ hset, Nat.mul_comm i, ← Nat.add_assoc,
    s.poisoned_sound _ _ _ hs (by omega) (by omega)]

/-- A read of words without bits in error changes POISON_SEEN only (R323). -/
theorem State.seePoison_counts (s : State) (a n : Nat) (h : ∀ e ∈ s.flips, e.1 + 16 ≤ a ∨ a + n ≤ e.1) :
    onlyRegs s (s.seePoison a n) [Obj.MEMORY.POISON_SEEN] := by
  have hmeet : ∀ u : State, u.flips = s.flips → u.meetWords a n = u := fun u hu => by
    have hnone : u.flips.filter (fun e => decide (a < e.1 + 16) && decide (e.1 < a + n)) = [] := by
      rw [hu, List.filter_eq_nil_iff]
      intro e he
      have := h e he
      simp only [Bool.and_eq_true, decide_eq_true_eq]
      omega
    rw [State.meetWords, hnone, List.foldl_nil]
  rw [State.seePoison]
  split
  · rw [hmeet s rfl]
    exact onlyRegs.refl s _
  · rw [hmeet (s.add Obj.MEMORY.POISON_SEEN _) rfl]
    exact (onlyRegs.refl s _).put List.mem_cons_self _

theorem State.pointed_seePoison (s : State) (t : StallId) (pn : Fin 16) (mm : Fin 8) (ad : Addressed) (a n : Nat)
    (h : ∀ e ∈ s.flips, e.1 + 16 ≤ a ∨ a + n ≤ e.1) : ∃ w : State, onlyRegs s w [Obj.MEMORY.POISON_SEEN] ∧ (sound s a n → w = s) ∧
      (s.pointed t pn mm ad).seePoison a n = w.pointed t pn mm ad := by
  obtain ⟨hregs, hkept⟩ := (s.pointed t pn mm ad).seePoison_counts a n h
  refine ⟨{ s with regs := ((s.pointed t pn mm ad).seePoison a n).regs }, ⟨rfl, hkept⟩, fun hsound => ?_, hregs⟩
  rw [State.seePoison_sound (s.pointed t pn mm ad) a n hsound]
  rfl

end Sys2Proof.Machine
end

section
/-! SUPPORT. The loads of a stall (R223 to R228, R251; Machine/LoadStore.lean). -/

namespace Sys2Proof.Machine

/-! ## LD (R224) -/

theorem fromLe_lt (l : List Byte) : fromLe l < 256 ^ l.length := by
  induction l with
  | nil => decide
  | cons b r ih =>
    have hb := b.isLt
    rw [fromLe, List.length_cons, Nat.pow_succ']
    omega

theorem ofNat_ofSigned (w : Nat) (v : Int) : BitVec.ofNat w (ofSigned w v) = BitVec.ofInt w v := by
  refine BitVec.eq_of_toNat_eq ?_
  rw [BitVec.toNat_ofNat, Nat.mod_eq_of_lt (ofSigned_lt w v), BitVec.toNat_ofInt, ofSigned]
  norm_cast

theorem toSigned_eq_toInt (n : Nat) (h : n < 2 ^ 16) : toSigned 16 n = (BitVec.ofNat 16 n).toInt := by
  rw [toSigned, BitVec.toInt_eq_toNat_cond, BitVec.toNat_ofNat, Nat.mod_eq_of_lt h]
  split <;> split <;> omega

theorem elemSize_eq (ef : BitVec 3) (h : ef.toNat < 6) : elemSize ef = if ef.toNat ≤ 3 then 4 else if ef = 4 then 2 else 1 := by
  revert ef
  decide

theorem efLegal_iff (ef : BitVec 3) (dr : Fin 64) : efLegal ef dr = true ↔ ef.toNat < 6 ∧ ¬(ef = 3 ∧ dr.val = 63) := by
  rw [efLegal, Bool.and_eq_true, decide_eq_true_eq, Bool.not_eq_true', Bool.and_eq_false_iff, beq_eq_false_iff_ne, beq_eq_false_iff_ne, not_and_or]
  rfl

/-- A stall whose data register has taken four elements, under PQ its next one their low bytes. -/
def Stall.loaded (y : Stall) (ef : BitVec 3) (dr : Fin 64) (e : Quad (Nat × Bool)) : Stall :=
  if ef = 3#3 then (y.setD dr (e.map (loadLane ef))).setD (nextName dr) (e.map fun v => ⟨BitVec.ofNat 24 (v.1 % 256), v.2⟩)
  else y.setD dr (e.map (loadLane ef))

theorem ld_after (s : State) (t : StallId) (dr : Fin 64) (pn : Fin 16) (mm : Fin 8) (am : BitVec 2) (ef : BitVec 3) (k : BitVec 8) (ad : Addressed)
    (sz a : Nat) (w : Nat → Nat) (h : ready s t) (hset : settled s.stalls[t] = true) (hef : ef.toNat < 6) (hdr : ¬(ef = 3 ∧ dr.val = 63))
    (hsz : sz = elemSize ef) (had : address s.stalls[t] pn mm am sz k false = some ad) (ha : a = ad.addr / sz * sz) (hin : a + 4 * sz ≤ 0x30000)
    (hwatch : watchHit s.stalls[t] a (4 * sz) false = false) (hsound : sound s (stallData t + a) (4 * sz))
    (hw : ∀ i, w i = fromLe (s.load (stallData t + a + sz * i) sz)) :
    exec (.ld t dr pn mm am ef k) s = .next (after s t ((s.stalls[t].pointed pn mm ad).loaded ef dr (Quad.build fun i => (w i, false)))) := by
  have hlegal := (efLegal_iff ef dr).mpr ⟨hef, hdr⟩
  have hpos : 0 < sz := by
    rw [hsz]
    unfold elemSize
    split <;> [decide; split <;> decide]
  have hset' := s.pointed_settled t pn mm ad hset
  have hsee : (s.pointed t pn mm ad).seePoison (stallData t + a) (4 * sz) = s.pointed t pn mm ad := State.seePoison_sound _ _ _ hsound
  have hel : elements (s.pointed t pn mm ad) t a sz = Quad.build fun i => (w i, false) :=
    (elements_sound (s.pointed t pn mm ad) t a sz hset' hpos hsound).trans (Quad.build_congr fun i _ => by rw [hw]; rfl)
  change execLd t dr pn mm am ef k s = _
  rw [execLd]
  refine s.issue_ends s t _ (fun y => (y.pointed pn mm ad).loaded ef dr (Quad.build fun i => (w i, false))) _ 2 false
    (some (a, 4 * sz, false)) h rfl ?_ ?_ ?_
  · rw [if_pos hlegal, ← hsz, memOp_reaches s t pn mm am sz _ k false _ ad a had ha (localOk_load _ _ hin)]
    simp only [hsee, hel, State.drewLocal_settled _ t _ hset', State.pointed_modStall]
    rfl
  · rw [Stall.loaded, Stall.loaded]
    split <;> rfl
  · rintro w ⟨⟩
    exact hwatch

/-- The lane of a 16-bit element: its sign extended. -/
theorem loadLane_half (l : List Byte) (hl : l.length = 2) :
    loadLane 4 (fromLe l, false) = ⟨BitVec.ofInt 24 (BitVec.ofNat 16 (fromLe l)).toInt, false⟩ := by
  have hlt := fromLe_lt l
  rw [hl] at hlt
  change DLane.mk (BitVec.ofNat 24 (ofSigned 24 (toSigned 16 (fromLe l)))) false = _
  rw [ofNat_ofSigned, toSigned_eq_toInt _ hlt]

/-! ## LDP and LDAM (R226, R251) -/

section
variable (s : State) (t : StallId) (pn : Fin 16) (mm : Fin 8) (am : BitVec 2) (k : BitVec 8) (ad : Addressed) (a : Nat)
  (h : ready s t) (hset : settled s.stalls[t] = true)
include h hset

/-- An LDP whose word carries no bits in error: the pointer takes it, POISON is set where it is poisoned, and the read may count it. -/
theorem ldp_after (pd : Fin 16) (c : Bool) (had : address s.stalls[t] pn mm am 4 k false = some ad) (ha : a = ad.addr / 4 * 4) (hin : a + 4 ≤ 0x30000)
    (hwatch : watchHit s.stalls[t] a 4 false = false) (hc : s.poisoned (stallData t + a) = c)
    (hclean : ∀ e ∈ s.flips, e.1 + 16 ≤ stallData t + a ∨ stallData t + a + 4 ≤ e.1) :
    ∃ w : State, onlyRegs s w [Obj.MEMORY.POISON_SEEN] ∧ (sound s (stallData t + a) 4 → w = s) ∧
      exec (.ldp t pd pn mm am k) s = .next (flagged (after w t ((s.stalls[t].pointed pn mm ad).setP pd
        (BitVec.ofNat 24 (fromLe (s.load (stallData t + a) 4))))) t 2 c) := by
  obtain ⟨w, hw, hsame, hsee⟩ := s.pointed_seePoison t pn mm ad (stallData t + a) 4 hclean
  obtain ⟨-, -, hmem, hstalls, -⟩ := hw.parts
  have hset' : settled (w.pointed t pn mm ad).stalls[t] = true := w.pointed_settled t pn mm ad (by rw [hstalls]; exact hset)
  have hload : (w.pointed t pn mm ad).load (stallData t + a) 4 = s.load (stallData t + a) 4 := congrArg (Memory.readBytes · _ 4) hmem
  have hbad : (w.pointed t pn mm ad).poisoned (stallData t + a) = c := (congrArg (fun u : State => u.poisoned (stallData t + a)) hw.1).trans hc
  refine ⟨w, hw, hsame, ?_⟩
  change execLdp t pd pn mm am k s = _
  rw [execLdp]
  refine s.issue_ends w t _ (fun y => (y.pointed pn mm ad).setP pd (BitVec.ofNat 24 (fromLe (s.load (stallData t + a) 4)))) _ 2 c
    (some (a, 4, false)) h (by rw [hstalls]) ?_ rfl ?_
  · rw [memOp_reaches s t pn mm am 4 _ k false _ ad a had ha (localOk_load _ _ hin)]
    simp only [hsee, State.drewLocal_settled _ t _ hset', State.localBytes_settled _ t _ _ _ hset', State.localPoison_settled _ t _ _ hset',
      hload, hbad, State.pointed_modStall]
  · rintro w ⟨⟩
    exact hwatch

theorem ldam_after (an : Fin 8) (had : address s.stalls[t] pn mm am 32 k false = some ad) (ha : a = ad.addr / 32 * 32) (hin : a + 32 ≤ 0x30000)
    (hwatch : watchHit s.stalls[t] a 32 false = false) (hsound : sound s (stallData t + a) 32) :
    exec (.ldam t an pn mm am k) s = .next (after s t ((s.stalls[t].pointed pn mm ad).setA an (Quad.build fun i =>
      ⟨BitVec.ofNat 56 (fromLe (s.load (stallData t + a + 8 * i) 8)), (fromLe (s.load (stallData t + a + 8 * i) 8)).testBit 56,
        (fromLe (s.load (stallData t + a + 8 * i) 8)).testBit 57⟩))) := by
  have hset' := s.pointed_settled t pn mm ad hset
  have hsee : (s.pointed t pn mm ad).seePoison (stallData t + a) 32 = s.pointed t pn mm ad := State.seePoison_sound _ _ _ hsound
  have hel := elements_sound (s.pointed t pn mm ad) t a 8 hset' (by decide) hsound
  have hlane (v : Nat) : (⟨BitVec.ofNat 56 v, v.testBit 56, v.testBit 57 || false⟩ : ALane) = ⟨BitVec.ofNat 56 v, v.testBit 56, v.testBit 57⟩ := by
    rw [Bool.or_false]
  change execLdam t an pn mm am k s = _
  rw [execLdam]
  simp only [← hlane]
  refine s.issue_ends s t _ (fun y => (y.pointed pn mm ad).setA an _) _ 2 false (some (a, 32, false)) h rfl ?_ rfl ?_
  · rw [memOp_reaches s t pn mm am 32 _ k false _ ad a had ha (localOk_load _ _ hin)]
    simp only [hsee, hel, State.drewLocal_settled _ t _ hset', State.pointed_modStall]
    rfl
  · rintro w ⟨⟩
    exact hwatch

end

/-! ## What stays of a stall as its PC goes on and a flag is set -/

theorem Stall.advance_kept (x : Stall) : x.advance = { x with rb := x.advance.rb, pc := x.advance.pc, loops := x.advance.loops } := by
  rw [Stall.advance]
  split
  · split
    · split <;> split <;> rfl
    · rfl
  · rfl

/-- A flag set without a trap, after an instruction: the flag stands, the stall's registers and memory stay. -/
theorem raiseFlag_after (w : State) (t : StallId) (y : Stall) (b : Fin 6) (hen : y.trapEn.getLsbD b = false) :
    (((after w t y).raiseFlag t b).stalls[t].flags.getLsbD b = true ∧ ((after w t y).raiseFlag t b).stalls[t].p = y.p) ∧
    ((after w t y).raiseFlag t b).mem = w.mem ∧ regsKept w ((after w t y).raiseFlag t b) [Obj.STALL.FLAGS t] := by
  have hstall : (after w t y).stalls[t] = y.advance.resumed := w.stalls_after t y
  have hquiet : (after w t y).stalls[t].trapEn.getLsbD b = false := by
    rw [hstall, Stall.advance_kept]
    exact hen
  rw [State.raiseFlag_quiet _ t b (.inr (.inl hquiet)), State.syncFlags, State.put_stalls, State.modStall_self]
  refine ⟨⟨Stall.raised_flag _ b, ?_⟩, rfl, ((regsKept.refl w _).of_regs rfl).put List.mem_cons_self _⟩
  rw [hstall, Stall.advance_kept]
  rfl

/-- Settles O24: LD by its element format, LDP and LDAM by the bytes of one element, and LDP of a poisoned word by the flag it sets. -/
theorem loads : Obligations.Loads := by
  refine ⟨fun s t dr pn mm am ef k x y ad sz a w hx h hset hsz had ha hin hwatch hsound hw hy => ?_,
    fun s t an pd pn mm am k x ad sz a hx h hset had ha hin hwatch hsound => ⟨fun hsz => ?_, fun hsz => ?_⟩,
    fun s t dr pd pn mm am k x ad hx h hset had hin hwatch hpoison hclean hen => ?_⟩
  · subst hx hy
    have hload (hef : ef.toNat < 6) (hdr : ¬(ef = 3 ∧ dr.val = 63)) :=
      ld_after s t dr pn mm am ef k ad sz a w h hset hef hdr (hsz.trans (elemSize_eq ef hef).symm) had ha hin hwatch hsound hw
    refine ⟨?_, ?_, ?_, ?_, ?_, ?_⟩
    · rintro rfl
      exact hload (by decide) fun h => absurd h.1 (by decide)
    · rintro rfl
      exact hload (by decide) fun h => absurd h.1 (by decide)
    · rintro rfl
      exact hload (by decide) fun h => absurd h.1 (by decide)
    · rintro rfl hdr
      exact hload (by decide) fun h => absurd h.2 (by omega)
    · rintro rfl
      rw [hload (by decide) fun h => absurd h.1 (by decide)]
      have hlanes : (Quad.build fun i => (w i, false)).map (loadLane 4) =
          Quad.build fun i => ⟨BitVec.ofInt 24 (BitVec.ofNat 16 (w i)).toInt, false⟩ := by
        refine Quad.build_congr (f := fun i => loadLane 4 (w i, false)) fun i _ => ?_
        subst hsz
        rw [hw]
        exact loadLane_half _ (Memory.readBytes_length _ _ _)
      rw [← hlanes]
      rfl
    · rintro rfl
      exact hload (by decide) fun h => absurd h.1 (by decide)
  · subst hx hsz
    obtain ⟨w, -, hw, hnext⟩ := ldp_after s t pn mm am k ad a h hset pd false had ha hin hwatch
      (s.poisoned_sound _ _ _ hsound le_rfl (by omega)) hsound.2
    rw [hw hsound] at hnext
    exact hnext
  · subst hx hsz
    exact ldam_after s t pn mm am k ad a h hset an had ha hin hwatch hsound
  · subst hx
    obtain ⟨w, ⟨hregs, hkept⟩, -, hnext⟩ := ldp_after s t pn mm am k ad _ h hset pd true had rfl hin hwatch hpoison hclean
    obtain ⟨⟨hflag, hp⟩, hmem, hflags⟩ := raiseFlag_after w t ((s.stalls[t].pointed pn mm ad).setP pd
      (BitVec.ofNat 24 (fromLe (s.load (stallData t + ad.addr / 4 * 4) 4)))) 2 hen
    refine ⟨_, hnext, hflag, ?_, ?_, ?_⟩
    · change ((after w t _).raiseFlag t 2).stalls[t].p[pd] = _
      rw [hp]
      exact Vector.getElem_set_self _
    · change ((after w t _).raiseFlag t 2).mem = _
      rw [hmem, hregs]
    · exact (hkept.mono fun r hr => List.mem_cons_of_mem _ hr).trans (hflags.mono fun r hr => by simpa using .inl (by simpa using hr))

end Sys2Proof.Machine
end

section
/-! SUPPORT. Elements stored one behind another into words that are good (R223 to R226, R325; Machine/Ops.lean, Machine/LoadStore.lean). -/

namespace Sys2Proof.Machine

/-- A state whose memory has taken some bytes from an address on. -/
def State.wrote (s : State) (a : Nat) (l : List Byte) : State := { s with mem := Memory.writeBytes s.mem a l }

theorem State.wrote_mem (s : State) (a : Nat) (l : List Byte) : s.wrote a l = { s with mem := (s.wrote a l).mem } := rfl

theorem State.pointed_wrote (s : State) (t : StallId) (pn : Fin 16) (mm : Fin 8) (ad : Addressed) (a : Nat) (l : List Byte) :
    (s.pointed t pn mm ad).wrote a l = (s.wrote a l).pointed t pn mm ad := rfl

/-- Bytes stored within sound words: memory takes them, and nothing else changes. -/
theorem State.store_good (s : State) (a : Nat) (l : List Byte) (h : sound s a l.length) :
    s.store a l = s.wrote a l := by
  rw [State.store]
  split
  · rename_i hwhole
    obtain ⟨ha, hl⟩ : a % 16 = 0 ∧ l.length = 16 := by simpa using hwhole
    rw [hl] at h
    have hpoison : s.poison.filter (fun w => w != a / 16 * 16) = s.poison := List.filter_eq_self.mpr fun p hp => by
      have := h.1 p hp
      rw [bne_iff_ne]
      omega
    have hflips : s.flips.filter (fun e => decide (e.1 < a) || decide (a + 16 ≤ e.1)) = s.flips := List.filter_eq_self.mpr fun e he => by
      have := h.2 e he
      rw [Bool.or_eq_true, decide_eq_true_eq, decide_eq_true_eq]
      omega
    simp only [State.setPoison, State.dropFlips, Bool.false_eq_true, if_false, hpoison, hflips, State.wrote]
  · simp only [s.seePoison_sound a _ h, State.wrote]

/-- A word stored, and bytes behind it. -/
theorem State.store_store_good (s : State) (a : Nat) (l r : List Byte) (hl : l.length = 16) (h : sound s a (16 + r.length)) :
    (s.store a l).store (a + 16) r = s.wrote a (l ++ r) := by
  have hfirst : sound s a l.length := ⟨fun p hp => by have := h.1 p hp; omega, fun e he => by have := h.2 e he; omega⟩
  have hsecond : sound s (a + 16) r.length := ⟨fun p hp => by have := h.1 p hp; omega, fun e he => by have := h.2 e he; omega⟩
  rw [s.store_good a l hfirst, State.store_good (s.wrote a l) (a + 16) r hsecond, State.wrote, State.wrote, State.wrote, Memory.writeBytes_append, hl]

theorem markLanes_none (s : State) (a size : Nat) (ps : List Bool) (h : ∀ p ∈ ps, p = false) : markLanes s a size ps = s := by
  have hnone : ∀ e ∈ ps.zipIdx, e.1 = false := fun e he => h _ (List.fst_mem_of_mem_zipIdx he)
  rw [markLanes]
  generalize ps.zipIdx = l at hnone
  induction l with
  | nil => rfl
  | cons e r ih =>
    obtain ⟨he, hr⟩ := List.forall_mem_cons.mp hnone
    rw [List.foldl_cons, he]
    exact ih hr

theorem flatten_length_of (l : List (List Byte)) (size : Nat) (h : ∀ r ∈ l, r.length = size) : l.flatten.length = size * l.length := by
  induction l with
  | nil => rfl
  | cons r l ih =>
    obtain ⟨hr, hl⟩ := List.forall_mem_cons.mp h
    rw [List.flatten_cons, List.length_append, ih hl, hr, List.length_cons, Nat.mul_succ, Nat.add_comm]

theorem Memory.readBytes_flatten (m : List Host.Cell) (l : List (List Byte)) (size a : Nat) (hl : ∀ r ∈ l, r.length = size)
    (h : Memory.readBytes m a (size * l.length) = l.flatten) :
    ∀ i (hi : i < l.length), Memory.readBytes m (a + size * i) size = l[i] := by
  induction l generalizing a with
  | nil => exact fun i hi => absurd hi (Nat.not_lt_zero i)
  | cons r l ih =>
    obtain ⟨hr, hrest⟩ := List.forall_mem_cons.mp hl
    rw [List.length_cons, Nat.mul_succ, Nat.add_comm, Memory.readBytes_add, List.flatten_cons] at h
    obtain ⟨hfirst, hothers⟩ := List.append_inj h ((Memory.readBytes_length m a size).trans hr.symm)
    rintro (- | i) hi
    · exact hfirst
    · have hnext : a + size * (i + 1) = a + size + size * i := by rw [Nat.mul_succ, Nat.add_comm _ size, Nat.add_assoc]
      rw [hnext]
      exact ih (a + size) hrest hothers i (Nat.lt_of_succ_lt_succ hi)

theorem State.wrote_elements (s : State) (a size : Nat) (l : List (List Byte)) (hgood : memoryGood s) (hl : ∀ r ∈ l, r.length = size) :
    bytesKept s (s.wrote a l.flatten) a (size * l.length) ∧
    ∀ i (hi : i < l.length), (s.wrote a l.flatten).load (a + size * i) size = l[i] := by
  have hlen := flatten_length_of l size hl
  refine ⟨fun b hb => Memory.read_writeBytes_outside _ _ _ _ hgood (by rwa [hlen]), Memory.readBytes_flatten _ l size a hl ?_⟩
  rw [← hlen]
  exact Memory.readBytes_writeBytes _ _ _ hgood

theorem fromLe_ofSigned (size : Nat) (v : Int) : (fromLe (le size (ofSigned (8 * size) v)) : Int) = v % 2 ^ (8 * size) := by
  have hlt := ofSigned_lt (8 * size) v
  rw [pow_mul, show 2 ^ 8 = 256 from rfl] at hlt
  rw [fromLe_le, Nat.mod_eq_of_lt hlt, ofSigned, Int.toNat_of_nonneg (Int.emod_nonneg _ (by positivity))]

end Sys2Proof.Machine
end

section
/-! SUPPORT. The stores of a stall (R223 to R227, R251; Machine/LoadStore.lean). -/

namespace Sys2Proof.Machine

/-! ## Elements of a format (R224) -/

theorem clip_eq (lo hi v : Int) : clip lo hi v = (max lo (min hi v), !decide (lo ≤ v ∧ v ≤ hi)) := by
  have hout : (decide (v < lo) || decide (hi < v)) = !decide (lo ≤ v ∧ v ≤ hi) := by
    rw [← Bool.decide_or, ← decide_not]
    exact decide_eq_decide.mpr (by omega)
  rw [clip, hout]

theorem storeElem_eq (ef : BitVec 3) (d q : DLane) (h : ef.toNat < 6) : storeElem ef d q =
    (if ef = 0 then d.v.toInt * 256 else if ef = 1 then d.v.toInt else if ef = 3 then d.v.toInt * 256 + max 0 (min 255 q.v.toInt)
      else if ef = 4 then max (-32768) (min 32767 d.v.toInt) else max 0 (min 255 d.v.toInt),
    if ef = 0 ∨ ef = 1 then false else if ef = 3 then !decide (0 ≤ q.v.toInt ∧ q.v.toInt ≤ 255)
      else if ef = 4 then !decide (-32768 ≤ d.v.toInt ∧ d.v.toInt ≤ 32767) else !decide (0 ≤ d.v.toInt ∧ d.v.toInt ≤ 255)) := by
  have hef : ∀ ef : BitVec 3, ef.toNat < 6 → ef = 0 ∨ ef = 1 ∨ ef = 2 ∨ ef = 3 ∨ ef = 4 ∨ ef = 5 := by decide
  rcases hef ef h with rfl | rfl | rfl | rfl | rfl | rfl
  · rfl
  · rfl
  · exact clip_eq 0 255 d.v.toInt
  · change (let c := clip 0 255 q.v.toInt; (d.v.toInt * 256 + c.1, c.2)) = _
    rw [clip_eq]
    rfl
  · exact clip_eq (-32768) 32767 d.v.toInt
  · exact clip_eq 0 255 d.v.toInt

/-- The second register counts under PQ only. -/
theorem storeElem_pair (ef : BitVec 3) (d q : DLane) (h : ef.toNat < 6) (hne : ef ≠ 3) : storeElem ef d d = storeElem ef d q := by
  simp only [storeElem_eq ef _ _ h, hne, if_false]

/-! ## Lanes of an accumulator (R251) -/

theorem laneBytes_length (l : ALane) : (laneBytes l).length = 8 := le_length _ _

theorem fromLe_laneBytes (l : ALane) (h : l.poison = false) : fromLe (laneBytes l) = l.v.toNat + if l.ovs then 2 ^ 56 else 0 := by
  have hlt := l.v.isLt
  rw [laneBytes, fromLe_le, h, if_neg Bool.false_ne_true, Nat.add_zero]
  exact Nat.mod_eq_of_lt (by split <;> omega)

/-! ## Stores that complete -/

section
variable (s : State) (t : StallId) (pn : Fin 16) (mm : Fin 8) (am : BitVec 2) (k : BitVec 8) (ad : Addressed) (a : Nat) (h : ready s t)
include h

theorem st_after (dr : Fin 64) (ef : BitVec 3) (sz : Nat) (v : Nat → Int × Bool) (hef : ef.toNat < 6) (hdr : ¬(ef = 3 ∧ dr.val = 63))
    (hsz : sz = elemSize ef)
    (had : address s.stalls[t] pn mm am sz k true = some ad) (ha : a = ad.addr / sz * sz) (hin : a + 4 * sz ≤ 0x2FB00)
    (hwatch : watchHit s.stalls[t] a (4 * sz) true = false) (hsound : sound s (stallData t + a) (4 * sz))
    (hgood : ∀ i, ((s.stalls[t].getD dr).get i).poison = false ∧ (ef = 3 → ((s.stalls[t].getD (dr + 1)).get i).poison = false))
    (hv : ∀ i, v i = storeElem ef ((s.stalls[t].getD dr).get i) ((s.stalls[t].getD (dr + 1)).get i)) :
    exec (.st t dr pn mm am ef k) s = .next (flagged (after (s.wrote (stallData t + a)
      ([0, 1, 2, 3].map fun i => le sz (ofSigned (8 * sz) (v i).1)).flatten) t (s.stalls[t].pointed pn mm ad)) t 1
      ([0, 1, 2, 3].any fun i => (v i).2)) := by
  have hlegal := (efLegal_iff ef dr).mpr ⟨hef, hdr⟩
  generalize hq : (if ef = 3#3 then s.stalls[t].getD (nextName dr) else s.stalls[t].getD dr) = q
  have hlane : ∀ i, storeElem ef ((s.stalls[t].getD dr).get i) (q.get i) = v i ∧
      (((s.stalls[t].getD dr).get i).poison || (q.get i).poison) = false := by
    intro i
    obtain ⟨hd, hnext⟩ := hgood i
    subst hq
    by_cases hpq : ef = 3#3
    · rw [if_pos hpq, hv, hd]
      exact ⟨rfl, hnext hpq⟩
    · rw [if_neg hpq, hv, hd]
      exact ⟨storeElem_pair ef _ _ hef hpq, rfl⟩
  have hlanes : ((s.stalls[t].getD dr).zip (storeElem ef) q).toList = [0, 1, 2, 3].map v := by
    rw [← funext fun i => (hlane i).1]
    rfl
  have hmarks : ∀ p ∈ ((s.stalls[t].getD dr).zip (fun a b => a.poison || b.poison) q).toList, p = false := by
    change ∀ p ∈ [0, 1, 2, 3].map fun i => ((s.stalls[t].getD dr).get i).poison || (q.get i).poison, p = false
    simp only [List.mem_map, forall_exists_index, and_imp]
    rintro p i - rfl
    exact (hlane i).2
  have hlen : ([0, 1, 2, 3].map fun i => le sz (ofSigned (8 * sz) (v i).1)).flatten.length = 4 * sz := by
    rw [flatten_length_of _ sz (by simp [le_length]), Nat.mul_comm]
    rfl
  have hstore : (s.pointed t pn mm ad).store (stallData t + a) ([0, 1, 2, 3].map fun i => le sz (ofSigned (8 * sz) (v i).1)).flatten =
      (s.wrote (stallData t + a) ([0, 1, 2, 3].map fun i => le sz (ofSigned (8 * sz) (v i).1)).flatten).pointed t pn mm ad := by
    rw [State.store_good _ _ _ (by rw [hlen]; exact hsound), State.pointed_wrote]
  change execSt t dr pn mm am ef k s = _
  rw [execSt]
  refine s.issue_ends _ t _ (·.pointed pn mm ad) _ 1 _ (some (a, 4 * sz, true)) h rfl ?_ rfl ?_
  · rw [if_pos hlegal, ← hsz, memOp_reaches s t pn mm am sz _ k true _ ad a had ha (localOk_store _ _ hin)]
    simp only [hq, hlanes, List.map_map, Function.comp_def, List.any_map]
    rw [hstore, markLanes_none _ _ _ _ hmarks]
    rfl
  · rintro w ⟨⟩
    exact hwatch

theorem stp_after (ps : Fin 16) (had : address s.stalls[t] pn mm am 4 k true = some ad) (ha : a = ad.addr / 4 * 4) (hin : a + 4 ≤ 0x2FB00)
    (hwatch : watchHit s.stalls[t] a 4 true = false) (hsound : sound s (stallData t + a) 4) :
    exec (.stp t ps pn mm am k) s = .next (after (s.wrote (stallData t + a) (le 4 (ofSigned 32 (s.stalls[t].getP ps).toInt))) t
      (s.stalls[t].pointed pn mm ad)) := by
  have hstore : (s.pointed t pn mm ad).store (stallData t + a) (le 4 (ofSigned 32 (s.stalls[t].getP ps).toInt)) =
      (s.wrote (stallData t + a) (le 4 (ofSigned 32 (s.stalls[t].getP ps).toInt))).pointed t pn mm ad := by
    rw [State.store_good _ _ _ (by rw [le_length]; exact hsound), State.pointed_wrote]
  change execStp t ps pn mm am k s = _
  rw [execStp]
  refine s.issue_ends _ t _ (·.pointed pn mm ad) _ 1 false (some (a, 4, true)) h rfl ?_ rfl ?_
  · rw [memOp_reaches s t pn mm am 4 _ k true _ ad a had ha (localOk_store _ _ hin), hstore]
    rfl
  · rintro w ⟨⟩
    exact hwatch

theorem stam_after (an : Fin 8) (had : address s.stalls[t] pn mm am 32 k true = some ad) (ha : a = ad.addr / 32 * 32) (hin : a + 32 ≤ 0x2FB00)
    (hwatch : watchHit s.stalls[t] a 32 true = false) (hsound : sound s (stallData t + a) 32)
    (hgood : ∀ i, ((s.stalls[t].getA an).get i).poison = false) (l : List Byte)
    (hl : l = ([0, 1, 2, 3].map fun i => laneBytes ((s.stalls[t].getA an).get i)).flatten) :
    exec (.stam t an pn mm am k) s = .next (after (s.wrote (stallData t + a) l) t (s.stalls[t].pointed pn mm ad)) := by
  generalize hq : s.stalls[t].getA an = q at hgood hl
  have hhalf : ∀ l r : ALane, (laneBytes l ++ laneBytes r).length = 16 := fun l r => by rw [List.length_append, laneBytes_length, laneBytes_length]
  have hbytes : (laneBytes q.l0 ++ laneBytes q.l1) ++ (laneBytes q.l2 ++ laneBytes q.l3) = l := by
    rw [List.append_assoc, hl, ← List.append_nil (laneBytes q.l3)]
    rfl
  have hstore : ((s.pointed t pn mm ad).store (stallData t + a) (laneBytes q.l0 ++ laneBytes q.l1)).store (stallData t + a + 16)
      (laneBytes q.l2 ++ laneBytes q.l3) = (s.wrote (stallData t + a) l).pointed t pn mm ad := by
    rw [State.store_store_good (s.pointed t pn mm ad) _ _ _ (hhalf _ _) (by rw [hhalf]; exact hsound), hbytes, State.pointed_wrote]
  have hmarks : ∀ p ∈ (q.map (·.poison)).toList, p = false := by
    change ∀ p ∈ [0, 1, 2, 3].map fun i => (q.get i).poison, p = false
    simp only [List.mem_map, forall_exists_index, and_imp]
    rintro p i - rfl
    exact hgood i
  change execStam t an pn mm am k s = _
  rw [execStam]
  refine s.issue_ends _ t _ (·.pointed pn mm ad) _ 1 false (some (a, 32, true)) h rfl ?_ rfl ?_
  · rw [memOp_reaches s t pn mm am 32 _ k true _ ad a had ha (localOk_store _ _ hin)]
    simp only [hq, hstore, markLanes_none _ _ _ _ hmarks]
    rfl
  · rintro w ⟨⟩
    exact hwatch

end

/-! ## Accesses that trap (R223, R227, R245) -/

section
variable (s : State) (t : StallId) (dr : Fin 64) (pd pn : Fin 16) (mm : Fin 8) (am : BitVec 2) (ef : BitVec 3) (k : BitVec 8) (h : issues s t)
include h

theorem ld_st_trap (hbad : efLegal ef dr = false) :
    exec (.ld t dr pn mm am ef k) s = .next (trapped s t 8) ∧ exec (.st t dr pn mm am ef k) s = .next (trapped s t 8) := by
  have hne : ¬efLegal ef dr = true := Bool.eq_false_iff.mp hbad
  constructor
  · change execLd t dr pn mm am ef k s = _
    rw [execLd]
    exact s.issue_traps (s.resumed t) t _ causeIllegal h (if_neg hne)
  · change execSt t dr pn mm am ef k s = _
    rw [execSt]
    exact s.issue_traps (s.resumed t) t _ causeIllegal h (if_neg hne)

theorem ldp_illegal (had : address s.stalls[t] pn mm am 4 k false = none) : exec (.ldp t pd pn mm am k) s = .next (trapped s t 8) := by
  change execLdp t pd pn mm am k s = _
  rw [execLdp]
  exact s.issue_traps _ t _ 8 h (memOp_illegal s t pn mm am 4 4 k false _ had)

theorem ldp_beyond (ad : Addressed) (had : address s.stalls[t] pn mm am 4 k false = some ad) (hout : 0x30000 < ad.addr / 4 * 4 + 4) :
    exec (.ldp t pd pn mm am k) s = .next (trapped s t 9) := by
  change execLdp t pd pn mm am k s = _
  rw [execLdp]
  exact s.issue_traps _ t _ 9 h (memOp_beyond s t pn mm am 4 4 k false _ ad had (by simp [localOk]; omega))

theorem stp_beyond (ad : Addressed) (had : address s.stalls[t] pn mm am 4 k true = some ad) (hout : 0x2FB00 < ad.addr / 4 * 4 + 4) :
    exec (.stp t pd pn mm am k) s = .next (trapped s t 9) := by
  change execStp t pd pn mm am k s = _
  rw [execStp]
  exact s.issue_traps _ t _ 9 h (memOp_beyond s t pn mm am 4 4 k true _ ad had (by simp [localOk]; omega))

end

/-- Settles O25: each store as elements written one behind another, each trap by its check. -/
theorem stores : Obligations.Stores := by
  have hlane : ∀ i (hi : i < 4), [0, 1, 2, 3][i] = i := by decide
  refine ⟨fun s t dr pn mm am ef k x ad sz a d q e hx h hmem hef hdr hsz had ha hin hwatch hsound hgood hdq he => ?_,
    fun s t an ps pn mm am k x ad sz a hx h hmem had ha hin hwatch hsound hgood => ⟨fun hsz => ?_, fun hsz => ?_⟩,
    fun s t dr an pd pn mm am ef k h => ⟨fun hbad => ?_, ldp_illegal s t pd pn mm am k h, ldp_beyond s t pd pn mm am k h,
      stp_beyond s t pd pn mm am k h⟩⟩
  · subst hx
    have hflag := st_after s t pn mm am k ad a h dr ef sz
      (fun i => storeElem ef ((s.stalls[t].getD dr).get i) ((s.stalls[t].getD (dr + 1)).get i)) hef hdr (hsz.trans (elemSize_eq ef hef).symm) had ha hin
      hwatch hsound hgood fun _ => rfl
    have hvalue : ∀ i, storeElem ef ((s.stalls[t].getD dr).get i) ((s.stalls[t].getD (dr + 1)).get i) = (e i,
        if ef = 0 ∨ ef = 1 then false else if ef = 3 then !decide (0 ≤ q i ∧ q i ≤ 255) else if ef = 4 then !decide (-32768 ≤ d i ∧ d i ≤ 32767)
          else !decide (0 ≤ d i ∧ d i ≤ 255)) := fun i => by
      rw [storeElem_eq ef _ _ hef, ← (hdq i).1, ← (hdq i).2, he]
    simp only [hvalue] at hflag
    obtain ⟨hkept, hread⟩ := s.wrote_elements (stallData t + a) sz ([0, 1, 2, 3].map fun i => le sz (ofSigned (8 * sz) (e i))) hmem
      (by simp [le_length])
    refine ⟨_, hflag, s.wrote_mem _ _, ?_, fun i hi => ?_⟩
    · rw [Nat.mul_comm 4]
      exact hkept
    · rw [hread i hi, List.getElem_map, hlane i hi, fromLe_ofSigned]
  · subst hx hsz
    have hlen := le_length 4 (ofSigned 32 (s.stalls[t].getP ps).toInt)
    refine ⟨_, stp_after s t pn mm am k ad a h ps had ha hin hwatch hsound, s.wrote_mem _ _,
      fun b hb => Memory.read_writeBytes_outside _ _ _ _ hmem (by rwa [hlen]), ?_⟩
    have hread := Memory.readBytes_writeBytes s.mem (stallData t + a) (le 4 (ofSigned 32 (s.stalls[t].getP ps).toInt)) hmem
    rw [hlen] at hread
    exact (congrArg (fun l => (fromLe l : Int)) hread).trans (fromLe_ofSigned 4 _)
  · subst hx hsz
    obtain ⟨hkept, hread⟩ := s.wrote_elements (stallData t + a) 8 ([0, 1, 2, 3].map fun i => laneBytes ((s.stalls[t].getA an).get i)) hmem
      (by simp [laneBytes_length])
    refine ⟨_, stam_after s t pn mm am k ad a h an had ha hin hwatch hsound hgood _ rfl, s.wrote_mem _ _, ?_, fun i hi => ?_⟩
    · change bytesKept _ _ _ (8 * 4)
      exact hkept
    · rw [hread i hi, List.getElem_map, hlane i hi, fromLe_laneBytes _ (hgood i)]
  · refine ld_st_trap s t dr pn mm am ef k h (Bool.eq_false_iff.mpr fun hlegal => ?_)
    obtain ⟨hef, hdr⟩ := (efLegal_iff ef dr).mp hlegal
    exact hbad.elim (by omega) hdr

end Sys2Proof.Machine
end

section
/-! SUPPORT. The ageing of the crystal (R291, R292; Machine/Clocks.lean): the step that a learning interval adds to the trim, and the daily save. -/

namespace Sys2Proof.Machine

/-! ## Signed registers -/

/-- A number within the range of a register of 32 bits reads back as it was put. -/
theorem State.i_puti_of_range (s : State) (r : Reg) (v : Int) (hw : r.width = 32) (hlo : -(2 ^ 31) ≤ v) (hhi : v < 2 ^ 31) :
    (s.puti r v).i r = v := by
  rw [State.i_puti_self, hw, toSigned_ofSigned_of_range v hlo hhi]

theorem State.i_put_ne (s : State) (r x : Reg) (v : Nat) (h : r.key ≠ x.key) : (s.put r v).i x = s.i x :=
  congrArg (toSigned x.width) (s.u_put_ne r x v h)

/-! ## A write of the trim awaited (R292, R497) -/

theorem State.pending_journal (s : State) (j : Nat) (hj : j < 32) : (s.journal j).bit Obj.FLASH.PENDING j = true :=
  s.bit_putBit_self Obj.FLASH.PENDING j true hj

theorem State.clk_trimMoved (s : State) : s.trimMoved.clk = s.clk := by
  rw [State.trimMoved]
  split <;> rfl

theorem State.trim_trimMoved (s : State) : s.trimMoved.i Obj.CLOCKS.XTAL_TRIM = s.i Obj.CLOCKS.XTAL_TRIM := by
  rw [State.trimMoved]
  split
  · exact s.i_put_ne _ _ _ (by decide)
  · rfl

theorem onlyRegs_trimMoved {s t : State} {l : List Reg} (h : onlyRegs s t l) (hl : Obj.FLASH.PENDING ∈ l) : onlyRegs s t.trimMoved l := by
  rw [State.trimMoved]
  split
  · exact h.put hl _
  · exact h

/-! ## Learning (R291) -/

/-- The state in which an interval of learning begins. -/
def State.intervalBegun (s : State) : State :=
  { s with clk := { s.clk with adjSum := 0, adjSince := s.now, adjStart := s.now } }

/-- A sixteenth of the mean of FREQ_ADJ over the interval that ends now. -/
def State.learnStep (s : State) : Int :=
  freeRound (s.clk.adjSum + s.i Obj.EPOCH.FREQ_ADJ * ((s.now : Int) - s.clk.adjSince)) (16 * ((s.now : Int) - s.clk.adjStart))

/-- The trim with that step added, within its range. -/
def State.learntTrim (s : State) : Int := max (-50000000) (min 50000000 (s.i Obj.CLOCKS.XTAL_TRIM + s.learnStep))

/-- The state in which the learnt trim stands. -/
def State.learnt (s : State) : State := (s.intervalBegun.puti Obj.CLOCKS.XTAL_TRIM s.learntTrim).trimMoved

/-- Without AGE_LEARN nothing is learnt, and a new interval begins. -/
theorem exec_ageLearnTick_idle (s : State) (h : s.u Obj.CLOCKS.AGE_LEARN ≠ 1) : exec .ageLearnTick s = .next s.intervalBegun := by
  change execAgeLearnTick s = _
  rw [execAgeLearnTick]
  dsimp only
  rw [if_neg fun ⟨hlearn, _⟩ => h hlearn]
  rfl

theorem exec_ageLearnTick_learns (s : State) (hlearn : s.u Obj.CLOCKS.AGE_LEARN = 1) (href : s.u Obj.CLOCKS.REF_IN_USE = 1)
    (hsrc : s.u Obj.EPOCH.SOURCE = 1 ∨ s.u Obj.EPOCH.SOURCE = 2 ∨ s.u Obj.EPOCH.SOURCE = 3) (hd : s.clk.adjStart < s.now) :
    exec .ageLearnTick s = .next s.learnt := by
  have hlong : ¬(s.now : Int) - s.clk.adjStart ≤ 0 := by omega
  change execAgeLearnTick s = _
  rw [execAgeLearnTick]
  dsimp only
  rw [if_pos ⟨hlearn, href, hsrc⟩, if_neg hlong]
  rfl

theorem State.clk_learnt (s : State) : s.learnt.clk = s.intervalBegun.clk := State.clk_trimMoved _

theorem State.trim_learnt (s : State) : s.learnt.i Obj.CLOCKS.XTAL_TRIM = s.learntTrim := by
  have hrange : -50000000 ≤ s.learntTrim ∧ s.learntTrim ≤ 50000000 := by
    rw [State.learntTrim]
    omega
  rw [State.learnt, State.trim_trimMoved, State.i_puti_of_range _ _ _ rfl (by omega) (by omega)]

theorem onlyRegs_learnt (s : State) :
    onlyRegs { s with clk := s.learnt.clk } s.learnt [Obj.CLOCKS.XTAL_TRIM, Obj.FLASH.PENDING] := by
  rw [State.clk_learnt]
  exact onlyRegs_trimMoved ((onlyRegs.refl s.intervalBegun _).put (by simp) _) (by simp)

/-! ## The daily save (R292) -/

/-- The change of the trim since the last daily save. -/
def State.dailyChange (s : State) : Int := s.i Obj.CLOCKS.XTAL_TRIM - s.clk.trimDaily

/-- The state after the daily save and before an alert: the journal waits, AGE_RATE reports the change, and the next day's change counts from
here. -/
def State.dailySaved (s : State) : State :=
  ({ s with clk := { s.clk with trimDaily := s.i Obj.CLOCKS.XTAL_TRIM } }.journal 0).puti Obj.CLOCKS.AGE_RATE s.dailyChange

theorem exec_xtalTrimSave (s : State) : exec .xtalTrimSave s =
    .next (if 500000 < s.dailyChange.natAbs then s.dailySaved.logEvent Obj.CLOCKS.FLAGS Bit.CLOCKS.FLAGS.AGE_ALERT 13 else s.dailySaved) :=
  rfl

theorem exec_xtalTrimSave_quiet (s : State) (h : s.dailyChange.natAbs ≤ 500000) : exec .xtalTrimSave s = .next s.dailySaved := by
  rw [exec_xtalTrimSave, if_neg (Nat.not_lt.mpr h)]

theorem exec_xtalTrimSave_alert (s : State) (h : 500000 < s.dailyChange.natAbs) :
    exec .xtalTrimSave s = .next (s.dailySaved.logEvent Obj.CLOCKS.FLAGS Bit.CLOCKS.FLAGS.AGE_ALERT 13) := by
  rw [exec_xtalTrimSave, if_pos h]

theorem State.ageRate_dailySaved (s : State) (h : s.dailyChange.natAbs ≤ 500000) : s.dailySaved.i Obj.CLOCKS.AGE_RATE = s.dailyChange :=
  State.i_puti_of_range _ _ _ rfl (by omega) (by omega)

theorem State.pending_dailySaved (s : State) : s.dailySaved.bit Obj.FLASH.PENDING 0 = true := by
  rw [State.dailySaved, State.puti_eq, State.bit_put_ne _ _ _ _ _ (by decide), State.pending_journal _ _ (by decide)]

theorem onlyRegs_dailySaved (s : State) :
    onlyRegs { s with clk := s.dailySaved.clk } s.dailySaved [Obj.CLOCKS.AGE_RATE, Obj.FLASH.PENDING] :=
  ((onlyRegs.refl _ _).put (by simp) _).put (by simp) _

/-- Settles O32: the tick by whether it learns, the daily save by whether the change of the day alerts. -/
theorem ageingOfTheCrystal : Obligations.AgeingOfTheCrystal := by
  refine ⟨exec_ageLearnTick_idle, fun s hlearn href hsrc hd => ?_, fun s hquiet => ?_, fun s halert => ?_⟩
  · exact ⟨s.learnt, exec_ageLearnTick_learns s hlearn href hsrc hd, congrArg ClockPart.adjSum s.clk_learnt,
      congrArg ClockPart.adjStart s.clk_learnt, s.trim_learnt, onlyRegs_learnt s⟩
  · exact ⟨s.dailySaved, exec_xtalTrimSave_quiet s hquiet, s.ageRate_dailySaved hquiet, rfl, s.pending_dailySaved, onlyRegs_dailySaved s⟩
  · exact ⟨s.dailySaved, exec_xtalTrimSave_alert s halert, rfl, s.pending_dailySaved, onlyRegs_dailySaved s⟩

end Sys2Proof.Machine
end

section
/-! SUPPORT. Stamps (R304 to R313; Machine/Tdc.lean, Machine/Aggon.lean): what an edge leaves in its channel and in the measurement units, and
who takes its stamp. -/

namespace Sys2Proof.Machine

/-! ## A change over every number of a range, seen at one of them -/

/-- What the changes at the other numbers keep, before and after, is decided by the change at a number's own turn. -/
theorem overAll_turn {n : Nat} {f : State → Fin n → State} {P Q : State → Prop} (k : Fin n) (before : ∀ t b, b ≠ k → P t → P (f t b))
    (turn : ∀ t, P t → Q (f t k)) (after : ∀ t b, b ≠ k → Q t → Q (f t b)) (s : State) (h : P s) : Q (overAll s f) := by
  have stays : ∀ {R : State → Prop}, (∀ t b, b ≠ k → R t → R (f t b)) → ∀ l : List (Fin n), k ∉ l → ∀ t, R t → R (l.foldl f t) := by
    intro R keep l hl
    induction l with
    | nil => exact fun _ h => h
    | cons b l ih =>
      rw [List.mem_cons, not_or] at hl
      exact fun t h => ih hl.2 _ (keep t b (Ne.symm hl.1) h)
  obtain ⟨l₁, l₂, hl⟩ := List.append_of_mem (List.mem_finRange k)
  have hnodup := List.nodup_finRange n
  rw [hl, List.nodup_middle, List.nodup_cons, List.mem_append, not_or] at hnodup
  obtain ⟨⟨h₁, h₂⟩, -⟩ := hnodup
  rw [overAll, hl, List.foldl_append, List.foldl_cons]
  exact stays after l₂ h₂ _ (turn _ (stays before l₁ h₁ s h))

/-! ## Dead time and coarse stamps (R307, R310) -/

theorem inDead_iff (s : State) (ch : Fin 21) (stamp : Stamp) :
    inDead s ch stamp = true ↔ ∃ l : Int, s.tdc.lastEdge[ch] = some l ∧ l ≤ stamp ∧ (stamp : Int) < l + 2048 := by
  rw [inDead]
  split
  · rename_i l hl
    rw [Bool.and_eq_true, decide_eq_true_eq, decide_eq_true_eq]
    exact ⟨fun h => ⟨l, hl, h⟩, fun ⟨m, hm, h⟩ => Option.some.inj (hl.symm.trans hm) ▸ h⟩
  · rename_i hl
    simp [hl]

/-- An edge before the last one or 2.5 ns after it is in no dead time. -/
theorem inDead_eq_false (s : State) (ch : Fin 21) (stamp : Stamp)
    (h : ∀ l : Int, s.tdc.lastEdge[ch] = some l → (stamp : Int) < l ∨ l + 2048 ≤ stamp) : inDead s ch stamp = false := by
  rw [← Bool.not_eq_true, inDead_iff]
  rintro ⟨l, hl, h1, h2⟩
  have := h l hl
  omega

theorem stampNow_eq (s : State) (stamp : Stamp) :
    stampNow s stamp = if s.u Obj.CLOCKS.PLL_STATE = 2 then stamp else stamp / 256 * 256 := by
  by_cases h : s.u Obj.CLOCKS.PLL_STATE = 2 <;> simp [stampNow, coarseNow, h]

theorem epochVal_lt (t : Stamp) : epochVal t < 2 ^ 72 := by
  rw [epochVal]
  omega

/-! ## A stamp that counts (R304, R310) -/

/-- What a stamp leaves in its channel, before the units hear of it. -/
def State.stampCounted (s : State) (ch : Fin 21) (st : Stamp) (coarse : Bool) : State :=
  let t := (s.put (Obj.CHANNEL.LAST ch) (epochVal st)).bump (Obj.CHANNEL.EVENTS ch)
  if coarse then t.bump Obj.TDC.COARSE_STAMPS else t

theorem State.countStamp_eq (s : State) (ch : Fin 21) (st : Stamp) (coarse : Bool) (corr : Int) :
    s.countStamp ch st coarse corr = overAll (s.stampCounted ch st coarse) (fun v u => v.toUnit ch st coarse corr u) := rfl

theorem coarseStamps_ne_channel (ch : Fin 21) (i : Nat) : Obj.TDC.COARSE_STAMPS.key ≠ (0x2220 + ch.val) * 256 + i := by
  dsimp only [Obj.TDC.COARSE_STAMPS]
  omega

theorem State.last_stampCounted (s : State) (ch : Fin 21) (st : Stamp) (coarse : Bool) :
    (s.stampCounted ch st coarse).u (Obj.CHANNEL.LAST ch) = epochVal st := by
  have h : ((s.put (Obj.CHANNEL.LAST ch) (epochVal st)).bump (Obj.CHANNEL.EVENTS ch)).u (Obj.CHANNEL.LAST ch) = epochVal st := by
    rw [State.bump_eq, State.u_put_ne _ _ _ _ (by dsimp only [Obj.CHANNEL.EVENTS, Obj.CHANNEL.LAST]; omega)]
    exact State.u_put_of_lt _ _ _ (epochVal_lt st)
  cases coarse
  · exact h
  · exact (State.u_put_ne _ _ _ _ (coarseStamps_ne_channel ch 1)).trans h

theorem State.events_stampCounted (s : State) (ch : Fin 21) (st : Stamp) (coarse : Bool) (hlt : s.u (Obj.CHANNEL.EVENTS ch) + 1 < 2 ^ 32) :
    (s.stampCounted ch st coarse).u (Obj.CHANNEL.EVENTS ch) = s.u (Obj.CHANNEL.EVENTS ch) + 1 := by
  have hput : (s.put (Obj.CHANNEL.LAST ch) (epochVal st)).u (Obj.CHANNEL.EVENTS ch) = s.u (Obj.CHANNEL.EVENTS ch) :=
    State.u_put_ne _ _ _ _ (by dsimp only [Obj.CHANNEL.EVENTS, Obj.CHANNEL.LAST]; omega)
  have h : ((s.put (Obj.CHANNEL.LAST ch) (epochVal st)).bump (Obj.CHANNEL.EVENTS ch)).u (Obj.CHANNEL.EVENTS ch) =
      s.u (Obj.CHANNEL.EVENTS ch) + 1 := by
    rw [State.u_bump_self _ _ (by rw [hput]; exact hlt), hput]
  cases coarse
  · exact h
  · exact (State.u_put_ne _ _ _ _ (coarseStamps_ne_channel ch 2)).trans h

theorem State.coarseStamps_stampCounted (s : State) (ch : Fin 21) (st : Stamp) (coarse : Bool) (hlt : s.u Obj.TDC.COARSE_STAMPS + 1 < 2 ^ 32) :
    (s.stampCounted ch st coarse).u Obj.TDC.COARSE_STAMPS = s.u Obj.TDC.COARSE_STAMPS + (if coarse then 1 else 0) := by
  have h : ((s.put (Obj.CHANNEL.LAST ch) (epochVal st)).bump (Obj.CHANNEL.EVENTS ch)).u Obj.TDC.COARSE_STAMPS = s.u Obj.TDC.COARSE_STAMPS := by
    rw [State.bump_eq, State.u_put_ne _ _ _ _ (coarseStamps_ne_channel ch 2).symm, State.u_put_ne _ _ _ _ (coarseStamps_ne_channel ch 1).symm]
  cases coarse
  · exact h
  · exact (State.u_bump_self _ _ (by rw [h]; exact hlt)).trans (congrArg (· + 1) h)

theorem onlyRegs_stampCounted (s : State) (ch : Fin 21) (st : Stamp) (coarse : Bool) :
    onlyRegs s (s.stampCounted ch st coarse) [Obj.CHANNEL.LAST ch, Obj.CHANNEL.EVENTS ch, Obj.TDC.COARSE_STAMPS] := by
  rw [State.stampCounted]
  split
  · exact (((onlyRegs.refl s _).put (by simp) _).put (by simp) _).put (by simp) _
  · exact ((onlyRegs.refl s _).put (by simp) _).put (by simp) _

/-- A counted stamp leaves the registers of the units. -/
theorem State.u_stampCounted_measure (s : State) (ch : Fin 21) (st : Stamp) (coarse : Bool) (k : Fin 8) (r : Reg) (i : Nat) (hi : i < 256)
    (hr : r.key = (0x2210 + k.val) * 256 + i) : (s.stampCounted ch st coarse).u r = s.u r := by
  refine (onlyRegs_stampCounted s ch st coarse).2 r fun x hx => ?_
  simp only [List.mem_cons, List.not_mem_nil, or_false] at hx
  rcases hx with rfl | rfl | rfl
  · dsimp only [Obj.CHANNEL.LAST]
    omega
  · dsimp only [Obj.CHANNEL.EVENTS]
    omega
  · dsimp only [Obj.TDC.COARSE_STAMPS]
    omega

/-! ## A stamp in the measurement units (R304, R312, R313) -/

/-- The event that a stamp is to a unit: a start, a stop or both. -/
def State.stampEvent (s : State) (ch : Nat) (st : Stamp) (coarse : Bool) (corr : Int) (k : Fin 8) : UnitEv :=
  ⟨s.u (Obj.MEASURE.START k) == ch, s.u (Obj.MEASURE.STOP k) == ch, st, corr, coarse⟩

/-- A unit as a stamp leaves it: where it runs and names the channel, the stamp waits among its events. -/
def State.unitStamped (s : State) (ch : Nat) (st : Stamp) (coarse : Bool) (corr : Int) (k : Fin 8) : MeasurePart :=
  if s.u (Obj.MEASURE.ENABLE k) = 1 ∧ (s.u (Obj.MEASURE.START k) = ch ∨ s.u (Obj.MEASURE.STOP k) = ch) then
    { s.units[k] with events := insertEvent (s.stampEvent ch st coarse corr k) s.units[k].events }
  else s.units[k]

theorem State.unitStamped_congr {s t : State} {k : Fin 8} (hu : ∀ i < 256, ∀ w d, t.u ⟨(0x2210 + k.val) * 256 + i, w, d⟩ =
    s.u ⟨(0x2210 + k.val) * 256 + i, w, d⟩) (hm : t.units[k] = s.units[k]) (ch : Nat) (st : Stamp) (coarse : Bool) (corr : Int) :
    t.unitStamped ch st coarse corr k = s.unitStamped ch st coarse corr k := by
  have he : t.u (Obj.MEASURE.ENABLE k) = s.u (Obj.MEASURE.ENABLE k) := hu 1 (by decide) _ _
  have ha : t.u (Obj.MEASURE.START k) = s.u (Obj.MEASURE.START k) := hu 2 (by decide) _ _
  have hb : t.u (Obj.MEASURE.STOP k) = s.u (Obj.MEASURE.STOP k) := hu 3 (by decide) _ _
  rw [State.unitStamped, State.unitStamped, State.stampEvent, State.stampEvent, he, ha, hb, hm]

theorem State.toUnit_self (s : State) (ch : Nat) (st : Stamp) (coarse : Bool) (corr : Int) (k : Fin 8) :
    (s.toUnit ch st coarse corr k).units[k] = s.unitStamped ch st coarse corr k := by
  simp only [State.toUnit, State.unitStamped, State.stampEvent, beq_iff_eq]
  split
  · rw [State.modUnit_self]
  · rfl

theorem State.toUnit_regs (s : State) (ch : Nat) (st : Stamp) (coarse : Bool) (corr : Int) (k : Fin 8) :
    (s.toUnit ch st coarse corr k).regs = s.regs := by
  rw [State.toUnit]
  split <;> rfl

theorem State.toUnit_other (s : State) (ch : Nat) (st : Stamp) (coarse : Bool) (corr : Int) (j k : Fin 8) (h : j ≠ k) :
    (s.toUnit ch st coarse corr j).units[k] = s.units[k] := by
  rw [State.toUnit]
  split
  · exact State.modUnit_other _ _ _ _ h
  · rfl

theorem State.units_countStamp (s : State) (ch : Fin 21) (st : Stamp) (coarse : Bool) (corr : Int) (k : Fin 8) :
    (s.countStamp ch st coarse corr).units[k] = s.unitStamped ch st coarse corr k := by
  have hcounted : (s.stampCounted ch st coarse).unitStamped ch st coarse corr k = s.unitStamped ch st coarse corr k := by
    refine State.unitStamped_congr (fun i hi w d => s.u_stampCounted_measure ch st coarse k _ i hi rfl) ?_ _ _ _ _
    rw [(onlyRegs_stampCounted s ch st coarse).1]
  rw [State.countStamp_eq, ← hcounted]
  generalize s.stampCounted ch st coarse = t
  refine overAll_turn (P := fun v => v.regs = t.regs ∧ v.units[k] = t.units[k])
    (Q := fun v => v.units[k] = t.unitStamped ch st coarse corr k) k ?_ ?_ ?_ t ⟨rfl, rfl⟩
  · rintro v j hj ⟨hr, hm⟩
    exact ⟨(v.toUnit_regs _ _ _ _ j).trans hr, (v.toUnit_other _ _ _ _ j k hj).trans hm⟩
  · rintro v ⟨hr, hm⟩
    exact (v.toUnit_self _ _ _ _ k).trans (State.unitStamped_congr (fun _ _ _ _ => State.u_of_regs hr _) hm _ _ _ _)
  · exact fun v j hj h => (v.toUnit_other _ _ _ _ j k hj).trans h

theorem onlyRegs_withUnits {s t : State} {l : List Reg} (h : onlyRegs s t l) (us : Vector MeasurePart 8) :
    onlyRegs { s with units := us } { t with units := us } l := by
  obtain ⟨hs, hk⟩ := h
  obtain ⟨rs, rfl⟩ : ∃ rs, t = { s with regs := rs } := ⟨_, hs⟩
  exact ⟨rfl, hk⟩

/-- Beside the units a counted stamp leaves its channel's registers and no more. -/
theorem State.countStamp_cases (s : State) (ch : Fin 21) (st : Stamp) (coarse : Bool) (corr : Int) :
    ∃ us, s.countStamp ch st coarse corr = { s.stampCounted ch st coarse with units := us } := State.overAll_toUnit _ _ _ _ _

theorem State.u_countStamp (s : State) (ch : Fin 21) (st : Stamp) (coarse : Bool) (corr : Int) (r : Reg) :
    (s.countStamp ch st coarse corr).u r = (s.stampCounted ch st coarse).u r := by
  obtain ⟨us, h⟩ := s.countStamp_cases ch st coarse corr
  rw [h]
  rfl

theorem onlyRegs_countStamp (s : State) (ch : Fin 21) (st : Stamp) (coarse : Bool) (corr : Int) :
    onlyRegs { s with units := (s.countStamp ch st coarse corr).units } (s.countStamp ch st coarse corr)
      [Obj.CHANNEL.LAST ch, Obj.CHANNEL.EVENTS ch, Obj.TDC.COARSE_STAMPS] := by
  obtain ⟨us, h⟩ := s.countStamp_cases ch st coarse corr
  rw [h]
  exact onlyRegs_withUnits (onlyRegs_stampCounted s ch st coarse) us

theorem State.tdc_countStamp (s : State) (ch : Fin 21) (st : Stamp) (coarse : Bool) (corr : Int) :
    (s.countStamp ch st coarse corr).tdc = s.tdc := by
  obtain ⟨us, h⟩ := s.countStamp_cases ch st coarse corr
  rw [h, State.stampCounted]
  cases coarse <;> rfl

/-! ## An edge that is stamped (R304, R310) -/

/-- The state in which an edge outside its channel's dead time has counted, before its consumer takes it. -/
def State.edgeCounted (s : State) (ch : Fin 21) (stamp : Stamp) : State :=
  (s.edgeAt ch stamp).countStamp ch (stampNow s stamp) (coarseNow s) (s.correctedAt stamp)

theorem tdcStamp_dead (s : State) (ch : Fin 21) (stamp : Stamp) (l : Int) (hl : s.tdc.lastEdge[ch] = some l) (h1 : l ≤ stamp)
    (h2 : (stamp : Int) < l + 2048) (hch : ¬(10 ≤ ch.val ∧ ch.val < 13)) :
    exec (.tdcStamp ch stamp) s = .next (s.bump (Obj.CHANNEL.DEAD_MISS ch)) := by
  change execTdcStamp ch stamp s = _
  rw [execTdcStamp, if_neg hch, s.stampChannel_dead ch stamp _ l hl h1 h2]

theorem tdcStamp_hands (s : State) (ch : Fin 21) (stamp : Stamp) (hch : ¬(10 ≤ ch.val ∧ ch.val < 13)) (h : inDead s ch stamp = false) :
    exec (.tdcStamp ch stamp) s = .next ((s.edgeCounted ch stamp).handStamp ch (stampNow s stamp)) := by
  change execTdcStamp ch stamp s = _
  rw [execTdcStamp, if_neg hch, State.stampChannel, h, if_neg (by decide)]
  rfl

theorem State.tdc_edgeCounted (s : State) (ch : Fin 21) (stamp : Stamp) :
    (s.edgeCounted ch stamp).tdc = { s.tdc with lastEdge := s.tdc.lastEdge.set ch (some (stamp : Int)) } :=
  State.tdc_countStamp _ _ _ _ _

theorem onlyRegs_edgeCounted (s : State) (ch : Fin 21) (stamp : Stamp) :
    onlyRegs { s with units := (s.edgeCounted ch stamp).units, tdc := (s.edgeCounted ch stamp).tdc } (s.edgeCounted ch stamp)
      [Obj.CHANNEL.LAST ch, Obj.CHANNEL.EVENTS ch, Obj.TDC.COARSE_STAMPS] := by
  rw [State.tdc_edgeCounted]
  exact onlyRegs_countStamp (s.edgeAt ch stamp) ch _ _ _

/-- What a stamped edge leaves in its channel, its units and the TDC, before its consumer takes it. -/
theorem edgeCounted_shows (s : State) (ch : Fin 21) (stamp : Stamp) (hev : s.u (Obj.CHANNEL.EVENTS ch) + 1 < 2 ^ 32)
    (hco : s.u Obj.TDC.COARSE_STAMPS + 1 < 2 ^ 32) :
    (s.edgeCounted ch stamp).u (Obj.CHANNEL.LAST ch) = epochVal (stampNow s stamp) ∧
      (s.edgeCounted ch stamp).u (Obj.CHANNEL.EVENTS ch) = s.u (Obj.CHANNEL.EVENTS ch) + 1 ∧
      (s.edgeCounted ch stamp).u Obj.TDC.COARSE_STAMPS =
        s.u Obj.TDC.COARSE_STAMPS + (if s.u Obj.CLOCKS.PLL_STATE = 2 then 0 else 1) ∧
      ∀ k : Fin 8, (s.edgeCounted ch stamp).units[k] = s.unitStamped ch (stampNow s stamp) (coarseNow s) (s.correctedAt stamp) k := by
  refine ⟨?_, ?_, ?_, fun k => State.units_countStamp _ _ _ _ _ k⟩
  · exact (State.u_countStamp _ _ _ _ _ _).trans (State.last_stampCounted _ _ _ _)
  · exact (State.u_countStamp _ _ _ _ _ _).trans (State.events_stampCounted _ _ _ _ hev)
  · refine ((State.u_countStamp _ _ _ _ _ _).trans (State.coarseStamps_stampCounted _ _ _ _ (by exact hco))).trans ?_
    by_cases h : s.u Obj.CLOCKS.PLL_STATE = 2
    · rw [if_pos h, if_neg (by simp [coarseNow, h])]
      rfl
    · rw [if_neg h, if_pos (by simp [coarseNow, h])]
      rfl

/-! ## The encoder's channels (R308; log entry 101) -/

/-- The level a raw edge leads into: an encoder input's other one, and of ENC_Z always the high one. -/
def State.rawLevel (s : State) (ch : Fin 21) : Bool := ch.val == 12 || !s.tdc.levels[ch]

theorem tdcStamp_raw (s : State) (ch : Fin 21) (stamp : Stamp) (hch : 10 ≤ ch.val ∧ ch.val < 13) :
    exec (.tdcStamp ch stamp) s = .next (s.rawEdge ch stamp) := by
  change execTdcStamp ch stamp s = _
  rw [execTdcStamp, if_pos hch]

theorem State.rawEdge_dead (s : State) (ch : Fin 21) (stamp : Stamp) (h : inDead s ch stamp = true) :
    s.rawEdge ch stamp = ({ s with tdc := { s.tdc with levels := s.tdc.levels.set ch (s.rawLevel ch) } }).bump (Obj.CHANNEL.DEAD_MISS ch) := by
  rw [State.rawEdge]
  exact if_pos h

theorem State.rawEdge_waits (s : State) (ch : Fin 21) (stamp : Stamp) (h : inDead s ch stamp = false) :
    s.rawEdge ch stamp = { s with tdc := { s.tdc with
      lastEdge := s.tdc.lastEdge.set ch (some (stamp : Int))
      levels := s.tdc.levels.set ch (s.rawLevel ch)
      raw := ⟨ch, s.rawLevel ch, stampNow s stamp, s.correctedAt stamp, coarseNow s⟩ ::
        s.tdc.raw.filter (fun x => !(x.ch == ch && x.level == s.rawLevel ch)) } } := by
  rw [State.rawEdge]
  exact if_neg (by rw [h]; decide)

theorem rawOf_cons (s : State) (e : RawEdge) (l : List RawEdge) (h : s.tdc.raw = e :: l) : rawOf s e.ch e.level = some e := by
  simp [rawOf, h]

/-- A raw edge outside dead time waits as the last one into its level. -/
theorem rawEdge_shows (s : State) (ch : Fin 21) (stamp : Stamp) (h : inDead s ch stamp = false) :
    s.rawEdge ch stamp = { s with tdc := (s.rawEdge ch stamp).tdc } ∧
      (s.rawEdge ch stamp).tdc.lastEdge = s.tdc.lastEdge.set ch (some (stamp : Int)) ∧
      (s.rawEdge ch stamp).tdc.levels = s.tdc.levels.set ch (s.rawLevel ch) ∧
      rawOf (s.rawEdge ch stamp) ch (s.rawLevel ch) =
        some ⟨ch, s.rawLevel ch, stampNow s stamp, s.correctedAt stamp, coarseNow s⟩ := by
  rw [s.rawEdge_waits ch stamp h]
  exact ⟨rfl, rfl, rfl, rawOf_cons _ ⟨ch, s.rawLevel ch, _, _, _⟩ _ rfl⟩

theorem rawEdge_dead_shows (s : State) (ch : Fin 21) (stamp : Stamp) (h : inDead s ch stamp = true)
    (hlt : s.u (Obj.CHANNEL.DEAD_MISS ch) + 1 < 2 ^ 32) :
    (s.rawEdge ch stamp).u (Obj.CHANNEL.DEAD_MISS ch) = s.u (Obj.CHANNEL.DEAD_MISS ch) + 1 ∧ (s.rawEdge ch stamp).tdc.raw = s.tdc.raw ∧
      onlyRegs { s with tdc := (s.rawEdge ch stamp).tdc } (s.rawEdge ch stamp) [Obj.CHANNEL.DEAD_MISS ch] := by
  rw [s.rawEdge_dead ch stamp h]
  exact ⟨State.u_bump_self _ _ hlt, rfl, (onlyRegs.refl _ _).put (List.mem_singleton_self _) _⟩

theorem State.acceptEdge_none (s : State) (ch : Fin 21) (level : Bool) (h : rawOf s ch level = none) : s.acceptEdge ch level = s := by
  rw [State.acceptEdge, h]

theorem State.acceptEdge_some (s : State) (ch : Fin 21) (level : Bool) (e : RawEdge) (h : rawOf s ch level = some e) :
    s.acceptEdge ch level =
      ({ s with tdc := { s.tdc with raw := s.tdc.raw.filter (fun x => x.ch != ch) } }).countStamp ch e.stamp e.coarse e.corr := by
  rw [State.acceptEdge, h]

/-- An input whose edges have left has none into either level. -/
theorem rawOf_filtered (s : State) (ch : Fin 21) (l : List RawEdge) (h : s.tdc.raw = l.filter (fun x => x.ch != ch)) (level : Bool) :
    rawOf s ch level = none := by
  rw [rawOf, h, List.find?_eq_none]
  intro e he
  have hne : e.ch ≠ ch := by simpa using (List.mem_filter.mp he).2
  simp [hne]

theorem acceptEdge_shows (s : State) (ch : Fin 21) (level : Bool) (e : RawEdge) (h : rawOf s ch level = some e)
    (hlt : s.u (Obj.CHANNEL.EVENTS ch) + 1 < 2 ^ 32) :
    (s.acceptEdge ch level).u (Obj.CHANNEL.LAST ch) = epochVal e.stamp ∧
      (s.acceptEdge ch level).u (Obj.CHANNEL.EVENTS ch) = s.u (Obj.CHANNEL.EVENTS ch) + 1 ∧
      ∀ l : Bool, rawOf (s.acceptEdge ch level) ch l = none := by
  rw [s.acceptEdge_some ch level e h]
  refine ⟨?_, ?_, rawOf_filtered _ _ s.tdc.raw ?_⟩
  · exact (State.u_countStamp _ _ _ _ _ _).trans (State.last_stampCounted _ _ _ _)
  · exact (State.u_countStamp _ _ _ _ _ _).trans (State.events_stampCounted _ _ _ _ hlt)
  · rw [State.tdc_countStamp]

/-! ## The consumers of stamps (R304) -/

theorem State.handStamp_port (s : State) (n : Port) (st : Stamp) : s.handStamp ⟨n.val, by omega⟩ st = s.monEdge n st := by
  rw [State.handStamp, dif_pos n.isLt]

theorem State.handStamp_encoder (s : State) (ch : Fin 21) (st : Stamp) (h : ch = 10 ∨ ch = 11 ∨ ch = 12) : s.handStamp ch st = s := by
  rcases h with rfl | rfl | rfl <;> rfl

theorem State.handStamp_sent (s : State) (k : Fin 4) (st : Stamp) :
    s.handStamp ⟨13 + k.val, by omega⟩ st = if linkUp s k then s.sendTime k st else s := by
  have hk : Fin.ofNat 4 (13 + k.val - 13) = k := Fin.ext (by simp [Fin.ofNat])
  simp only [State.handStamp, hk]
  rw [dif_neg (by omega), if_neg (by omega), if_neg (by omega), if_neg (by omega), if_pos (by omega)]

theorem State.handStamp_received (s : State) (k : Fin 4) (st : Stamp) :
    s.handStamp ⟨17 + k.val, by omega⟩ st = s.modLink k (fun x => { x with marker := st }) := by
  have hk : Fin.ofNat 4 (17 + k.val - 17) = k := Fin.ext (by simp [Fin.ofNat])
  simp only [State.handStamp, hk]
  rw [dif_neg (by omega), if_neg (by omega), if_neg (by omega), if_neg (by omega), if_neg (by omega)]

/-- Settles O33: an edge by its channel and its dead time, an accepted level by whether a raw edge waits for it, a stamp by its consumer. -/
theorem stamps : Obligations.Stamps := by
  refine ⟨fun s ch stamp l hl h1 h2 => ⟨tdcStamp_dead s ch stamp l hl h1 h2, fun hch hlt => ?_⟩,
    fun s ch stamp st hch hlive hst hev hco => ?_, fun s ch stamp h10 h13 hlive => ?_, acceptEdge_shows, State.acceptEdge_none,
    State.handStamp_port, fun s st => ⟨rfl, rfl⟩, State.handStamp_encoder, fun s k st => ⟨fun hup => ?_, fun hup => ?_, s.handStamp_received k st⟩⟩
  · have hdead := (inDead_iff s ch stamp).mpr ⟨l, hl, h1, h2⟩
    exact ⟨_, tdcStamp_raw s ch stamp hch, rawEdge_dead_shows s ch stamp hdead hlt⟩
  · obtain rfl : st = stampNow s stamp := hst.trans (stampNow_eq s stamp).symm
    obtain ⟨hlast, hevents, hcoarse, hunits⟩ := edgeCounted_shows s ch stamp hev hco
    exact ⟨_, tdcStamp_hands s ch stamp hch (inDead_eq_false s ch stamp hlive), hlast, hevents, hcoarse, s.tdc_edgeCounted ch stamp, hunits,
      onlyRegs_edgeCounted s ch stamp⟩
  · rw [← stampNow_eq]
    exact ⟨_, tdcStamp_raw s ch stamp ⟨h10, h13⟩, rawEdge_shows s ch stamp (inDead_eq_false s ch stamp hlive)⟩
  · rw [s.handStamp_sent k st, if_pos hup]
  · rw [s.handStamp_sent k st, if_neg (by rw [hup]; decide)]

end Sys2Proof.Machine
end

section
/-! SUPPORT. Pairing (R312, R315 to R317; log entry 58; Machine/Tdc.lean): what the earliest event of a unit and the end of a pairing
window change. -/

namespace Sys2Proof.Machine

/-! ## Changes of one unit -/

theorem State.modUnit_congr (s : State) (k : Fin 8) {f g : MeasurePart → MeasurePart} (h : f s.units[k] = g s.units[k]) :
    s.modUnit k f = s.modUnit k g := by
  rw [State.modUnit, State.modUnit, h]

theorem State.modUnit_modUnit (s : State) (k : Fin 8) (f g : MeasurePart → MeasurePart) :
    (s.modUnit k f).modUnit k g = s.modUnit k (fun m => g (f m)) := by
  have hself : (s.modUnit k f).units[k] = f s.units[k] := s.modUnit_self k f
  rw [State.modUnit, hself, State.modUnit, State.modUnit]
  simp only [Vector.set_set]

/-- A change that leaves a unit as it is changes nothing. -/
theorem State.modUnit_same (s : State) (k : Fin 8) {f : MeasurePart → MeasurePart} (h : f s.units[k] = s.units[k]) : s.modUnit k f = s := by
  rw [State.modUnit, h, show s.units.set k s.units[k] = s.units from Vector.set_getElem_self k.isLt]

/-! ## The earliest event (R312) -/

/-- The state in which a unit's earliest event has left its queue. -/
def State.eventTaken (s : State) (k : Fin 8) (l : List UnitEv) : State := s.modUnit k (fun m => { m with events := l })

theorem State.start_eventTaken (s : State) (k : Fin 8) (l : List UnitEv) : (s.eventTaken k l).units[k].start = s.units[k].start := by
  rw [State.eventTaken, State.modUnit_self]

theorem State.held_eventTaken (s : State) (k : Fin 8) (l : List UnitEv) : (s.eventTaken k l).units[k].held = s.units[k].held := by
  rw [State.eventTaken, State.modUnit_self]

theorem unitEvent_none (s : State) (k : Fin 8) (h : s.units[k].events = []) : exec (.unitEvent k) s = .next s := by
  change execUnitEvent k s = _
  rw [execUnitEvent, h]

/-- An event waits until it has been held for 64 ns. -/
theorem unitEvent_early (s : State) (k : Fin 8) (e : UnitEv) (l : List UnitEv) (h : s.units[k].events = e :: l)
    (ht : s.now * 256 < e.stamp + holdFine) : exec (.unitEvent k) s = .next s := by
  change execUnitEvent k s = _
  rw [execUnitEvent, h]
  exact congrArg Host.Outcome.next (if_pos ht)

/-- The earliest event of a unit, held for its 64 ns. -/
structure Due (s : State) (k : Fin 8) (e : UnitEv) (l : List UnitEv) : Prop where
  first : s.units[k].events = e :: l
  held : e.stamp + holdFine ≤ s.now * 256

theorem Due.period {s : State} {k : Fin 8} {e : UnitEv} {l : List UnitEv} (h : Due s k e l) (hstart : e.isStart = true)
    (hstop : e.isStop = true) : exec (.unitEvent k) s = .next ((s.eventTaken k l).periodEvent k e) := by
  change execUnitEvent k s = _
  rw [execUnitEvent, h.first]
  dsimp only
  rw [if_neg (Nat.not_lt.mpr h.held), if_pos (by rw [hstart, hstop]; rfl), State.eventTaken]

theorem Due.oneMany {s : State} {k : Fin 8} {e : UnitEv} {l : List UnitEv} (h : Due s k e l) (hone : (e.isStart && e.isStop) = false)
    (hmode : s.u (Obj.MEASURE.MODE k) = 0) : exec (.unitEvent k) s = .next ((s.eventTaken k l).oneMany k e) := by
  change execUnitEvent k s = _
  rw [execUnitEvent, h.first]
  dsimp only
  rw [if_neg (Nat.not_lt.mpr h.held), if_neg (by rw [hone]; decide), if_pos hmode, State.eventTaken]

theorem Due.oneOne {s : State} {k : Fin 8} {e : UnitEv} {l : List UnitEv} (h : Due s k e l) (hone : (e.isStart && e.isStop) = false)
    (hmode : s.u (Obj.MEASURE.MODE k) = 1) : exec (.unitEvent k) s = .next ((s.eventTaken k l).oneOne k e) := by
  change execUnitEvent k s = _
  rw [execUnitEvent, h.first]
  dsimp only
  rw [if_neg (Nat.not_lt.mpr h.held), if_neg (by rw [hone]; decide), if_neg (by rw [hmode]; decide), State.eventTaken]

theorem UnitEv.notBoth_of_notStart {e : UnitEv} (h : e.isStart = false) : (e.isStart && e.isStop) = false := by rw [h, Bool.false_and]

theorem UnitEv.notBoth_of_notStop {e : UnitEv} (h : e.isStop = false) : (e.isStart && e.isStop) = false := by rw [h, Bool.and_false]

/-! ## What an event opens, closes or leaves (R315 to R317) -/

/-- A start that becomes the pending one as it leaves the queue. -/
theorem State.setStart_eventTaken (s : State) (k : Fin 8) (l : List UnitEv) (x : Option (UnitEv × Nat)) :
    (s.eventTaken k l).setStart k x = s.modUnit k (fun m => { m with events := l, start := x }) :=
  s.modUnit_modUnit k _ _

theorem State.periodEvent_opens (s : State) (k : Fin 8) (e : UnitEv) (h : s.units[k].start = none) :
    s.periodEvent k e = s.setStart k (some (e, 0)) := by
  rw [State.periodEvent, h]

theorem State.periodEvent_closes (s : State) (k : Fin 8) (e a : UnitEv) (c : Nat) (h : s.units[k].start = some (a, c))
    (hw : e.stamp ≤ a.stamp + s.u (Obj.MEASURE.PAIR_WIN k) * 256) :
    s.periodEvent k e = (s.pair k a e false).setStart k (some (e, 0)) := by
  rw [State.periodEvent, h]
  exact if_neg (Nat.not_lt.mpr hw)

theorem State.oneOne_opens (s : State) (k : Fin 8) (e : UnitEv) (he : e.isStart = true) (h : s.units[k].start = none) :
    s.oneOne k e = s.setStart k (some (e, 0)) := by
  rw [State.oneOne, h]
  exact if_pos he

theorem State.oneOne_unpaired (s : State) (k : Fin 8) (e : UnitEv) (he : e.isStart = false) (h : s.units[k].start = none) :
    s.oneOne k e = s.bump (Obj.MEASURE.UNPAIRED k) := by
  rw [State.oneOne, h]
  exact if_neg (by rw [he]; decide)

/-- The first stop at or after a pending start and within PAIR_WIN of it pairs with it. -/
theorem State.oneOne_closes (s : State) (k : Fin 8) (e a : UnitEv) (c : Nat) (he : e.isStart = false) (h : s.units[k].start = some (a, c))
    (ha : a.stamp ≤ e.stamp) (hw : e.stamp ≤ a.stamp + s.u (Obj.MEASURE.PAIR_WIN k) * 256) :
    s.oneOne k e = (s.pair k a e false).setStart k none := by
  have hlate : decide (a.stamp + pairFine s k < e.stamp) = false := decide_eq_false (Nat.not_lt.mpr hw)
  rw [State.oneOne, h]
  simp only [hlate, he, Bool.false_eq_true, if_false]
  exact if_neg (Nat.not_lt.mpr ha)

theorem State.oneMany_opens (s : State) (k : Fin 8) (e : UnitEv) (he : e.isStart = true) (h : s.units[k].held = []) :
    s.oneMany k e = s.setStart k (some (e, 0)) := by
  rw [State.oneMany, if_pos he, h]
  dsimp only
  rw [meetHeld, s.modUnit_same k (by rw [← h])]

theorem State.oneMany_holds (s : State) (k : Fin 8) (e : UnitEv) (he : e.isStart = false) (h : s.units[k].start = none) :
    s.oneMany k e = s.modUnit k (fun m => { m with held := m.held ++ [e] }) := by
  rw [State.oneMany, if_neg (by rw [he]; decide), h]

theorem State.oneMany_pairs (s : State) (k : Fin 8) (e a : UnitEv) (c : Nat) (he : e.isStart = false) (h : s.units[k].start = some (a, c))
    (hw : e.stamp ≤ a.stamp + s.u (Obj.MEASURE.PAIR_WIN k) * 256) (hc : c < s.u (Obj.MEASURE.STOPS_MAX k)) :
    s.oneMany k e = (s.pair k a e false).setStart k (some (a, c + 1)) := by
  rw [State.oneMany, if_neg (by rw [he]; decide), h]
  exact (if_pos hw).trans (if_pos hc)

/-- A stop beyond STOPS_MAX. -/
theorem State.oneMany_unpaired (s : State) (k : Fin 8) (e a : UnitEv) (c : Nat) (he : e.isStart = false)
    (h : s.units[k].start = some (a, c)) (hw : e.stamp ≤ a.stamp + s.u (Obj.MEASURE.PAIR_WIN k) * 256)
    (hc : s.u (Obj.MEASURE.STOPS_MAX k) ≤ c) : s.oneMany k e = s.bump (Obj.MEASURE.UNPAIRED k) := by
  rw [State.oneMany, if_neg (by rw [he]; decide), h]
  exact (if_pos hw).trans (if_neg (Nat.not_lt.mpr hc))

/-! ## The end of a window (R315 to R317) -/

/-- An event whose PAIR_WIN has passed, with no event of that time still waiting. -/
def State.overdue (s : State) (k : Fin 8) (e : UnitEv) : Bool :=
  decide (e.stamp + pairFine s k < s.now * 256) && !(s.units[k].events.any (fun v => decide (v.stamp ≤ e.stamp + pairFine s k)))

theorem State.overdue_iff (s : State) (k : Fin 8) (e : UnitEv) : s.overdue k e = true ↔
    e.stamp + s.u (Obj.MEASURE.PAIR_WIN k) * 256 < s.now * 256 ∧
      ∀ v ∈ s.units[k].events, e.stamp + s.u (Obj.MEASURE.PAIR_WIN k) * 256 < v.stamp := by
  rw [State.overdue, Bool.and_eq_true, Bool.not_eq_true', List.any_eq_false]
  simp only [decide_eq_true_eq, Nat.not_le]
  rfl

/-- The state without the held stops whose window has passed, each counted. -/
def State.heldDropped (s : State) (k : Fin 8) : State :=
  let gone := s.units[k].held.filter (s.overdue k)
  let t := s.modUnit k (fun m => { m with held := m.held.filter (fun e => !s.overdue k e) })
  if gone.isEmpty then t else t.add (Obj.MEASURE.UNPAIRED k) gone.length

theorem State.heldDropped_none (s : State) (k : Fin 8) (h : ∀ e ∈ s.units[k].held, s.overdue k e = false) : s.heldDropped k = s := by
  have hgone : s.units[k].held.filter (s.overdue k) = [] := List.filter_eq_nil_iff.mpr fun e he => by rw [h e he]; decide
  have hkeep : s.units[k].held.filter (fun e => !s.overdue k e) = s.units[k].held :=
    List.filter_eq_self.mpr fun e he => by rw [h e he]; rfl
  simp only [State.heldDropped, hgone, List.isEmpty_nil, if_true]
  exact s.modUnit_same k (by rw [hkeep])

theorem State.heldDropped_nil (s : State) (k : Fin 8) (h : s.units[k].held = []) : s.heldDropped k = s :=
  s.heldDropped_none k (by rw [h]; exact List.forall_mem_nil _)

theorem State.heldDropped_one (s : State) (k : Fin 8) (e : UnitEv) (hheld : s.units[k].held = [e]) (h : s.overdue k e = true) :
    s.heldDropped k = (s.modUnit k (fun m => { m with held := [] })).add (Obj.MEASURE.UNPAIRED k) 1 := by
  have hgone : s.units[k].held.filter (s.overdue k) = [e] := by rw [hheld, List.filter_cons_of_pos h, List.filter_nil]
  have hmod : s.modUnit k (fun m => { m with held := m.held.filter (fun e => !s.overdue k e) }) =
      s.modUnit k (fun m => { m with held := [] }) := by
    refine s.modUnit_congr k ?_
    rw [hheld, List.filter_cons_of_neg (by rw [h]; decide), List.filter_nil]
  simp only [State.heldDropped, hgone, hmod]
  rfl

theorem pairWinExpiry_noStart (s : State) (k : Fin 8) (h : s.units[k].start = none) :
    exec (.pairWinExpiry k) s = .next (s.heldDropped k) := by
  change execPairWinExpiry k s = _
  rw [execPairWinExpiry]
  dsimp only
  rw [h]
  rfl

theorem pairWinExpiry_startWaits (s : State) (k : Fin 8) (a : UnitEv) (c : Nat) (h : s.units[k].start = some (a, c))
    (ho : s.overdue k a = false) : exec (.pairWinExpiry k) s = .next (s.heldDropped k) := by
  change execPairWinExpiry k s = _
  rw [execPairWinExpiry]
  dsimp only
  rw [h]
  exact congrArg Host.Outcome.next (if_pos (congrArg not ho))

/-- The pending start of periods, or of MODE 1, counts as it leaves. -/
theorem pairWinExpiry_timesOut (s : State) (k : Fin 8) (a : UnitEv) (c : Nat) (h : s.units[k].start = some (a, c))
    (ho : s.overdue k a = true) (hm : (a.isStart && a.isStop) = true ∨ s.u (Obj.MEASURE.MODE k) = 1) :
    exec (.pairWinExpiry k) s = .next (((s.heldDropped k).bump (Obj.MEASURE.TIMEOUTS k)).setStart k none) := by
  have hcounts : ¬((!(a.isStart && a.isStop)) = true ∧ s.u (Obj.MEASURE.MODE k) = 0) := by
    rintro ⟨hb, h0⟩
    rcases hm with hm | hm
    · rw [hm] at hb
      exact Bool.noConfusion hb
    · omega
  change execPairWinExpiry k s = _
  rw [execPairWinExpiry]
  dsimp only
  rw [h]
  have hover : (!s.overdue k a) = false := congrArg not ho
  exact congrArg Host.Outcome.next ((if_neg (Bool.eq_false_iff.mp hover)).trans (if_neg hcounts))

end Sys2Proof.Machine
end

section
/-! SUPPORT. Intervals and blocks (R313, R314, R318; Machine/Tdc.lean): what a pair adds to its block, and what a full block writes. -/

namespace Sys2Proof.Machine

/-! ## The registers of a unit -/

/-- Two objects of a unit's record have keys of their own. -/
theorem measureKey_ne (k : Fin 8) {i j : Nat} (h : i ≠ j) : (0x2210 + k.val) * 256 + i ≠ (0x2210 + k.val) * 256 + j := by omega

/-- A signed number reads back as it was put where its register holds it. -/
theorem State.i_puti_of_fits (s : State) (r : Reg) (v : Int) (hw : 0 < r.width) (hlo : -2 ^ (r.width - 1) ≤ v) (hhi : v < 2 ^ (r.width - 1)) :
    (s.puti r v).i r = v := by
  rw [State.i_puti_self, toSigned_ofSigned, BitVec.toInt_ofInt_eq_self hw hlo hhi]

/-! ## A pair (R313, R314, R318) -/

/-- The block in progress with one more interval. -/
def MeasurePart.added (m : MeasurePart) (x : Int) (f : BitVec 5) : MeasurePart :=
  { m with
    sum := m.sum + x, sumSq := m.sumSq + x.natAbs ^ 2, lo := if m.count = 0 then x else min m.lo x,
    hi := if m.count = 0 then x else max m.hi x, count := m.count + 1, flags := m.flags ||| f }

/-- The flags of an interval: a coarse stamp, an order reversed, an interval of 0. -/
def intervalFlags (coarse rev zero : Bool) : BitVec 5 := BitVec.ofNat 5 (bit8 coarse 4 + bit8 rev 1 + bit8 zero 0)

theorem intervalFlags_bits (coarse rev zero : Bool) : (intervalFlags coarse rev zero).toNat.testBit 4 = coarse ∧
    (intervalFlags coarse rev zero).toNat.testBit 1 = rev ∧ (intervalFlags coarse rev zero).toNat.testBit 0 = zero := by
  revert coarse rev zero
  decide

/-- The state in which an interval stands in LAST, PAIRED and MFLAGS and in its block, before the block closes. -/
def State.intervalTaken (s : State) (k : Fin 8) (x : Int) (f : BitVec 5) : State :=
  let t := ((s.modUnit k (·.added x f)).puti (Obj.MEASURE.LAST k) x).bump (Obj.MEASURE.PAIRED k)
  t.put (Obj.MEASURE.MFLAGS k) (Nat.lor (t.u (Obj.MEASURE.MFLAGS k)) f.toNat)

theorem State.pair_eq (s : State) (k : Fin 8) (a b : UnitEv) (rev : Bool) :
    s.pair k a b rev = (s.intervalTaken k (interval s k a b)
      (intervalFlags (a.coarse || b.coarse) rev (interval s k a b == 0))).closeBlock k := rfl

section
variable (s : State) (k : Fin 8) (x : Int) (f : BitVec 5)

theorem State.units_intervalTaken : (s.intervalTaken k x f).units[k] = s.units[k].added x f :=
  s.modUnit_self k (·.added x f)

theorem onlyRegs_intervalTaken : onlyRegs { s with units := (s.intervalTaken k x f).units } (s.intervalTaken k x f)
    [Obj.MEASURE.LAST k, Obj.MEASURE.PAIRED k, Obj.MEASURE.MFLAGS k, Obj.MEASURE.PROGRESS k] :=
  (((onlyRegs.refl (s.modUnit k (·.added x f)) _).put (by simp) _).put (by simp) _).put (by simp) _

theorem State.n_intervalTaken : (s.intervalTaken k x f).u (Obj.MEASURE.N k) = s.u (Obj.MEASURE.N k) := by
  refine (onlyRegs_intervalTaken s k x f).2 _ fun r hr => ?_
  simp only [List.mem_cons, List.not_mem_nil, or_false] at hr
  rcases hr with rfl | rfl | rfl | rfl
  all_goals exact measureKey_ne k (by decide)

theorem State.last_intervalTaken (hlo : -(2 ^ 63) ≤ x) (hhi : x < 2 ^ 63) : (s.intervalTaken k x f).i (Obj.MEASURE.LAST k) = x := by
  refine (State.i_put_ne _ _ _ _ (measureKey_ne k (by decide))).trans ?_
  refine (State.i_put_ne _ _ _ _ (measureKey_ne k (by decide))).trans ?_
  exact State.i_puti_of_fits _ _ _ (Nat.succ_pos 63) hlo hhi

theorem State.paired_intervalTaken (hlt : s.u (Obj.MEASURE.PAIRED k) + 1 < 2 ^ 32) :
    (s.intervalTaken k x f).u (Obj.MEASURE.PAIRED k) = s.u (Obj.MEASURE.PAIRED k) + 1 := by
  have hput : ((s.modUnit k (·.added x f)).puti (Obj.MEASURE.LAST k) x).u (Obj.MEASURE.PAIRED k) = s.u (Obj.MEASURE.PAIRED k) :=
    State.u_put_ne _ _ _ _ (measureKey_ne k (by decide))
  refine (State.u_put_ne _ _ _ _ (measureKey_ne k (by decide))).trans ?_
  rw [State.u_bump_self _ _ (by rw [hput]; exact hlt), hput]

/-- A flag of an interval stands in MFLAGS. -/
theorem State.mflags_intervalTaken (b : Nat) (hb : b < 32) (h : f.toNat.testBit b = true) :
    (s.intervalTaken k x f).bit (Obj.MEASURE.MFLAGS k) b = true := by
  rw [State.intervalTaken, State.bit, State.u_put_self, Nat.testBit_mod_two_pow]
  refine Bool.and_eq_true_iff.mpr ⟨decide_eq_true hb, ?_⟩
  exact (Nat.testBit_lor _ _ _).trans (by rw [h, Bool.or_true])

end

/-! ## A block (R318) -/

theorem State.closeBlock_goesOn (s : State) (k : Fin 8) (h : s.units[k].count < s.u (Obj.MEASURE.N k)) :
    s.closeBlock k = s.put (Obj.MEASURE.PROGRESS k) s.units[k].count := by
  rw [State.closeBlock]
  exact if_pos h

/-- A pair whose block goes on. -/
theorem pair_goesOn (s : State) (k : Fin 8) (a b : UnitEv) (rev : Bool) (x : Int) (hx : x = interval s k a b)
    (hn : s.units[k].count + 1 < s.u (Obj.MEASURE.N k)) :
    s.pair k a b rev = (s.intervalTaken k x (intervalFlags (a.coarse || b.coarse) rev (x == 0))).put (Obj.MEASURE.PROGRESS k)
      (s.units[k].count + 1) := by
  subst hx
  rw [s.pair_eq, State.closeBlock_goesOn, State.units_intervalTaken]
  · rfl
  · rw [State.units_intervalTaken, State.n_intervalTaken]
    exact hn

theorem pair_adds (s : State) (k : Fin 8) (a b : UnitEv) (rev : Bool) (x : Int) (hx : x = interval s k a b)
    (hn : s.units[k].count + 1 < s.u (Obj.MEASURE.N k)) (hc : s.units[k].count + 1 < 2 ^ 32)
    (hp : s.u (Obj.MEASURE.PAIRED k) + 1 < 2 ^ 32) (hlo : -(2 ^ 63) ≤ x) (hhi : x < 2 ^ 63) :
    ∃ u : State, s.pair k a b rev = u ∧ u.units[k].sum = s.units[k].sum + x ∧ u.units[k].sumSq = s.units[k].sumSq + x.natAbs ^ 2 ∧
      u.units[k].count = s.units[k].count + 1 ∧ u.units[k].lo = (if s.units[k].count = 0 then x else min s.units[k].lo x) ∧
      u.units[k].hi = (if s.units[k].count = 0 then x else max s.units[k].hi x) ∧ u.i (Obj.MEASURE.LAST k) = x ∧
      u.u (Obj.MEASURE.PAIRED k) = s.u (Obj.MEASURE.PAIRED k) + 1 ∧ u.u (Obj.MEASURE.PROGRESS k) = s.units[k].count + 1 ∧
      (rev = true → u.bit (Obj.MEASURE.MFLAGS k) 1 = true) ∧ (x = 0 → u.bit (Obj.MEASURE.MFLAGS k) 0 = true) ∧
      ((a.coarse || b.coarse) = true → u.bit (Obj.MEASURE.MFLAGS k) 4 = true) ∧
      onlyRegs { s with units := u.units } u [Obj.MEASURE.LAST k, Obj.MEASURE.PAIRED k, Obj.MEASURE.MFLAGS k, Obj.MEASURE.PROGRESS k] := by
  refine ⟨_, pair_goesOn s k a b rev x hx hn, ?_⟩
  obtain ⟨hcoarse, hrev, hzero⟩ := intervalFlags_bits (a.coarse || b.coarse) rev (x == 0)
  generalize intervalFlags (a.coarse || b.coarse) rev (x == 0) = f at *
  have hflag : ∀ i < 32, f.toNat.testBit i = true →
      ((s.intervalTaken k x f).put (Obj.MEASURE.PROGRESS k) (s.units[k].count + 1)).bit (Obj.MEASURE.MFLAGS k) i = true := fun i hi h =>
    (State.bit_put_ne _ _ _ _ _ (measureKey_ne k (by decide))).trans (s.mflags_intervalTaken k x f i hi h)
  rw [State.put_units, State.units_intervalTaken]
  refine ⟨rfl, rfl, rfl, rfl, rfl, ?_, ?_, State.u_put_of_lt _ _ _ hc, fun h => ?_, fun h => ?_, fun h => ?_, ?_⟩
  · exact (State.i_put_ne _ _ _ _ (measureKey_ne k (by decide))).trans (s.last_intervalTaken k x f hlo hhi)
  · exact (State.u_put_ne _ _ _ _ (measureKey_ne k (by decide))).trans (s.paired_intervalTaken k x f hp)
  · exact hflag 1 (by decide) (hrev.trans h)
  · exact hflag 0 (by decide) (hzero.trans (beq_iff_eq.mpr h))
  · exact hflag 4 (by decide) (hcoarse.trans h)
  · exact (onlyRegs_intervalTaken s k x f).put (by simp) _

/-- The state in which a full block's results stand, before they are flagged and counted. -/
def State.blockMeasured (s : State) (k : Fin 8) : State :=
  let m := s.units[k]
  let t := s.puti (Obj.MEASURE.MEAN k) (roundEven ((m.sum : Rat) * 256 / m.count))
  let t := t.put (Obj.MEASURE.STDEV k) (blockDev m.sum m.sumSq m.count)
  (t.puti (Obj.MEASURE.MIN k) m.lo).puti (Obj.MEASURE.MAX k) m.hi

/-- The state in which a full block has been written out, before the next one starts. -/
def State.blockWritten (s : State) (k : Fin 8) : State :=
  (((s.blockMeasured k).put (Obj.MEASURE.BFLAGS k) s.units[k].flags.toNat).bump (Obj.MEASURE.BLOCKS k)).put (Obj.MEASURE.PROGRESS k) 0

theorem State.closeBlock_full (s : State) (k : Fin 8) (h : s.u (Obj.MEASURE.N k) ≤ s.units[k].count) :
    s.closeBlock k = (s.blockWritten k).modUnit k (fun m => { m with sum := 0, sumSq := 0, lo := 0, hi := 0, count := 0, flags := 0 }) := by
  rw [State.closeBlock]
  exact if_neg (Nat.not_lt.mpr h)

theorem State.mean_blockMeasured (s : State) (k : Fin 8) (hlo : -(2 ^ 63) ≤ roundEven ((s.units[k].sum : Rat) * 256 / s.units[k].count))
    (hhi : roundEven ((s.units[k].sum : Rat) * 256 / s.units[k].count) < 2 ^ 63) :
    (s.blockMeasured k).i (Obj.MEASURE.MEAN k) = roundEven ((s.units[k].sum : Rat) * 256 / s.units[k].count) := by
  refine (State.i_put_ne _ _ _ _ (measureKey_ne k (by decide))).trans ?_
  refine (State.i_put_ne _ _ _ _ (measureKey_ne k (by decide))).trans ?_
  refine (State.i_put_ne _ _ _ _ (measureKey_ne k (by decide))).trans ?_
  exact State.i_puti_of_fits _ _ _ (Nat.succ_pos 63) hlo hhi

theorem State.stdev_blockMeasured (s : State) (k : Fin 8) (h : s.units[k].count = 1) :
    (s.blockMeasured k).u (Obj.MEASURE.STDEV k) = 0 := by
  refine (State.u_put_ne _ _ _ _ (measureKey_ne k (by decide))).trans ?_
  refine (State.u_put_ne _ _ _ _ (measureKey_ne k (by decide))).trans ?_
  rw [State.u_put_self, blockDev, if_pos (Nat.le_of_eq h)]
  rfl

theorem onlyRegs_blockWritten (s : State) (k : Fin 8) : onlyRegs s (s.blockWritten k) [Obj.MEASURE.MEAN k, Obj.MEASURE.STDEV k,
    Obj.MEASURE.MIN k, Obj.MEASURE.MAX k, Obj.MEASURE.BFLAGS k, Obj.MEASURE.BLOCKS k, Obj.MEASURE.PROGRESS k] :=
  (((((((onlyRegs.refl s _).put (by simp) _).put (by simp) _).put (by simp) _).put (by simp) _).put (by simp) _).put (by simp) _).put (by simp) _

/-- What BFLAGS, BLOCKS and PROGRESS leave of the results. -/
theorem State.u_blockWritten_result (s : State) (k : Fin 8) (i w d : Nat) (hi : i < 14) :
    (s.blockWritten k).u ⟨(0x2210 + k.val) * 256 + i, w, d⟩ = (s.blockMeasured k).u ⟨(0x2210 + k.val) * 256 + i, w, d⟩ := by
  refine (State.u_put_ne _ _ _ _ (measureKey_ne k (by omega))).trans ?_
  refine (State.u_put_ne _ _ _ _ (measureKey_ne k (by omega))).trans ?_
  exact State.u_put_ne _ _ _ _ (measureKey_ne k (by omega))

theorem State.bflags_blockWritten (s : State) (k : Fin 8) : (s.blockWritten k).u (Obj.MEASURE.BFLAGS k) = s.units[k].flags.toNat := by
  refine (State.u_put_ne _ _ _ _ (measureKey_ne k (by decide))).trans ?_
  refine (State.u_put_ne _ _ _ _ (measureKey_ne k (by decide))).trans ?_
  exact State.u_put_of_lt _ _ _ (s.units[k].flags.isLt.trans (show 2 ^ 5 < 2 ^ 32 by decide))

theorem State.blocks_blockWritten (s : State) (k : Fin 8) (hlt : s.u (Obj.MEASURE.BLOCKS k) + 1 < 2 ^ 32) :
    (s.blockWritten k).u (Obj.MEASURE.BLOCKS k) = s.u (Obj.MEASURE.BLOCKS k) + 1 := by
  have hput : ((s.blockMeasured k).put (Obj.MEASURE.BFLAGS k) s.units[k].flags.toNat).u (Obj.MEASURE.BLOCKS k) =
      s.u (Obj.MEASURE.BLOCKS k) := by
    refine (((((regsKept.refl s [Obj.MEASURE.MEAN k, Obj.MEASURE.STDEV k, Obj.MEASURE.MIN k, Obj.MEASURE.MAX k, Obj.MEASURE.BFLAGS k]).put
      (by simp) _).put (by simp) _).put (by simp) _).put (by simp) _).put (by simp) _ (Obj.MEASURE.BLOCKS k) fun r hr => ?_
    simp only [List.mem_cons, List.not_mem_nil, or_false] at hr
    rcases hr with rfl | rfl | rfl | rfl | rfl
    all_goals exact measureKey_ne k (by decide)
  refine (State.u_put_ne _ _ _ _ (measureKey_ne k (by decide))).trans ?_
  rw [State.u_bump_self _ _ (by rw [hput]; exact hlt), hput]

theorem closeBlock_writes (s : State) (k : Fin 8) (hn : s.u (Obj.MEASURE.N k) ≤ s.units[k].count)
    (hb : s.u (Obj.MEASURE.BLOCKS k) + 1 < 2 ^ 32) (hlo : -(2 ^ 63) ≤ roundEven ((s.units[k].sum : Rat) * 256 / s.units[k].count))
    (hhi : roundEven ((s.units[k].sum : Rat) * 256 / s.units[k].count) < 2 ^ 63) :
    ∃ u : State, s.closeBlock k = u ∧ u.i (Obj.MEASURE.MEAN k) = roundEven ((s.units[k].sum : Rat) * 256 / s.units[k].count) ∧
      u.u (Obj.MEASURE.BFLAGS k) = s.units[k].flags.toNat ∧ u.u (Obj.MEASURE.BLOCKS k) = s.u (Obj.MEASURE.BLOCKS k) + 1 ∧
      u.u (Obj.MEASURE.PROGRESS k) = 0 ∧ u.units[k] = { s.units[k] with sum := 0, sumSq := 0, lo := 0, hi := 0, count := 0, flags := 0 } ∧
      (s.units[k].count = 1 → u.u (Obj.MEASURE.STDEV k) = 0) ∧
      onlyRegs { s with units := u.units } u [Obj.MEASURE.MEAN k, Obj.MEASURE.STDEV k, Obj.MEASURE.MIN k, Obj.MEASURE.MAX k,
        Obj.MEASURE.BFLAGS k, Obj.MEASURE.BLOCKS k, Obj.MEASURE.PROGRESS k] := by
  obtain ⟨hs, hk⟩ := onlyRegs_blockWritten s k
  refine ⟨_, s.closeBlock_full k hn, ?_, s.bflags_blockWritten k, s.blocks_blockWritten k hb, State.u_put_of_lt _ _ _ (Nat.two_pow_pos _), ?_,
    fun h => ?_, ?_, hk⟩
  · exact (congrArg (toSigned 64) (s.u_blockWritten_result k 0xA 64 0 (by decide))).trans (s.mean_blockMeasured k hlo hhi)
  · rw [State.modUnit_self]
    rfl
  · exact (s.u_blockWritten_result k 0xB 32 0 (by decide)).trans (s.stdev_blockMeasured k h)
  · rw [State.modUnit, hs]

/-- Settles O34: the earliest event by its kind, its unit's MODE and the pending start, the end of a window by what stands in it, and the block by
whether it is full. -/
theorem pairingAndIntervals : Obligations.PairingAndIntervals := by
  refine ⟨⟨unitEvent_none, unitEvent_early, fun s k e l hl ht hstart hstop h => ?_, fun s k e a c l hl ht hstart hstop h hw => ?_,
    fun s k e l hl ht hstart hstop hm h => ?_, fun s k e a c l hl ht hstart hm h ha hw => ?_, fun s k e l hl ht hstart hm h => ?_,
    fun s k e a c l hl ht hstart hm h hw hc => ?_, fun s k e a c l hl ht hstart hm h hw hc => ?_, fun s k e l hl ht hstart hstop hm h => ?_,
    fun s k e l hl ht hstart hm h => ?_, fun s k hheld h => ?_, fun s k a c hheld h hstop hw hm => ⟨fun hlater => ?_, fun hwaits => ?_⟩,
    fun s k a c hheld h hstart hstop hw hlater => ?_, fun s k e hheld h hev hw => ?_⟩, fun s k a b rev x hx => ?_, closeBlock_writes⟩
  · rw [Due.period ⟨hl, ht⟩ hstart hstop, State.periodEvent_opens _ k e ((s.start_eventTaken k l).trans h), State.setStart_eventTaken]
  · rw [Due.period ⟨hl, ht⟩ hstart hstop, State.periodEvent_closes _ k e a c ((s.start_eventTaken k l).trans h) hw, State.eventTaken]
  · rw [Due.oneOne ⟨hl, ht⟩ (UnitEv.notBoth_of_notStop hstop) hm, State.oneOne_opens _ k e hstart ((s.start_eventTaken k l).trans h),
      State.setStart_eventTaken]
  · rw [Due.oneOne ⟨hl, ht⟩ (UnitEv.notBoth_of_notStart hstart) hm, State.oneOne_closes _ k e a c hstart ((s.start_eventTaken k l).trans h) ha hw,
      State.eventTaken]
  · rw [Due.oneOne ⟨hl, ht⟩ (UnitEv.notBoth_of_notStart hstart) hm, State.oneOne_unpaired _ k e hstart ((s.start_eventTaken k l).trans h),
      State.eventTaken]
  · rw [Due.oneMany ⟨hl, ht⟩ (UnitEv.notBoth_of_notStart hstart) hm, State.oneMany_pairs _ k e a c hstart ((s.start_eventTaken k l).trans h) hw hc,
      State.eventTaken]
  · rw [Due.oneMany ⟨hl, ht⟩ (UnitEv.notBoth_of_notStart hstart) hm, State.oneMany_unpaired _ k e a c hstart ((s.start_eventTaken k l).trans h) hw
      hc, State.eventTaken]
  · rw [Due.oneMany ⟨hl, ht⟩ (UnitEv.notBoth_of_notStop hstop) hm, State.oneMany_opens _ k e hstart ((s.held_eventTaken k l).trans h),
      State.setStart_eventTaken]
  · rw [Due.oneMany ⟨hl, ht⟩ (UnitEv.notBoth_of_notStart hstart) hm, State.oneMany_holds _ k e hstart ((s.start_eventTaken k l).trans h),
      State.eventTaken, State.modUnit_modUnit]
  · rw [pairWinExpiry_noStart s k h, s.heldDropped_none k fun e he => ?_]
    rw [← Bool.not_eq_true, State.overdue_iff]
    exact fun ho => Nat.not_lt.mpr (hheld e he) ho.1
  · rw [pairWinExpiry_timesOut s k a c h ((s.overdue_iff k a).mpr ⟨hw, hlater⟩) (.inr hm), s.heldDropped_nil k hheld]
  · obtain ⟨v, hv, hle⟩ := hwaits
    have ho : s.overdue k a = false := by
      rw [← Bool.not_eq_true, State.overdue_iff]
      exact fun ho => Nat.not_lt.mpr hle (ho.2 v hv)
    rw [pairWinExpiry_startWaits s k a c h ho, s.heldDropped_nil k hheld]
  · rw [pairWinExpiry_timesOut s k a c h ((s.overdue_iff k a).mpr ⟨hw, hlater⟩) (.inl (by rw [hstart, hstop]; rfl)),
      s.heldDropped_nil k hheld]
  · rw [pairWinExpiry_noStart s k h, s.heldDropped_one k e hheld ((s.overdue_iff k e).mpr ⟨hw, by rw [hev]; exact List.forall_mem_nil _⟩)]
  · exact pair_adds s k a b rev x hx

end Sys2Proof.Machine
end

section
/-! SUPPORT. Words the scrubber reads (R322 to R324, R344; Machine/Ops.lean, Machine/Dram.lean): what it makes of the bits in error of a word, and
where it counts them. -/

namespace Sys2Proof.Machine

/-! ## Bits in error -/

theorem flipAt_eq_none_iff (l : List (Nat × BitVec 137)) (a : Nat) : flipAt l a = none ↔ ∀ f ∈ l, (f.1 != a) = true := by
  simp [flipAt]

section
variable {l : List (Nat × BitVec 137)} {a : Nat} {e : BitVec 137}

/-- Bits in error of a word that had none. -/
theorem addFlip_of_none (h : flipAt l a = none) (he : e ≠ 0) : addFlip l a e = (a, e) :: l := by
  have hx : (flipAt l a).getD 0 ^^^ e = e := by rw [h]; exact BitVec.zero_xor
  rw [addFlip, hx, if_neg he, List.filter_eq_self.mpr ((flipAt_eq_none_iff l a).mp h), List.singleton_append]

theorem flipAt_addFlip (h : flipAt l a = none) (he : e ≠ 0) : flipAt (addFlip l a e) a = some e := by
  rw [addFlip_of_none h he, flipAt, List.find?_cons_of_pos (by exact beq_self_eq_true a), Option.map_some]

/-- The word met, no bits in error are left that were not there before. -/
theorem filter_addFlip (h : flipAt l a = none) (he : e ≠ 0) : (addFlip l a e).filter (fun f => f.1 != a) = l := by
  rw [addFlip_of_none h he, List.filter_cons_of_neg (by simp), List.filter_eq_self.mpr ((flipAt_eq_none_iff l a).mp h)]

end

/-! ## A word read -/

section
variable (s : State) (a : Nat) (h : Holder)

theorem State.readAt_unflipped (hf : flipAt s.flips a = none) :
    s.readAt a h = if h.bad then s.bump Obj.MEMORY.POISON_SEEN else s := by
  have hmeet : ∀ t : State, t.flips = s.flips → t.meet a h = t := fun t ht => by rw [State.meet, ht, hf]
  have hpoison : s.findsPoison a h = h.bad := by
    rw [State.findsPoison, State.finds, hf]
    cases h.bad <;> simp [readWord]
  rw [State.readAt, hpoison]
  split
  · exact hmeet _ rfl
  · exact hmeet _ rfl

variable {s a h} {e : BitVec 137}

theorem State.finds_flipBits (hf : flipAt s.flips a = none) (he : e ≠ 0) :
    (s.flipBits a e).finds a h = decodeWord (storedWord h.word h.bad e) := by
  rw [State.finds, State.flipBits, flipAt_addFlip hf he, readWord]

theorem State.meet_flipBits_single {d : BitVec 128} (hf : flipAt s.flips a = none) (he : e ≠ 0)
    (hd : decodeWord (storedWord h.word h.bad e) = .single d) : (s.flipBits a e).meet a h = (h.put d false s).countSingle a := by
  rw [State.meet, State.finds_flipBits hf he, hd, State.flipBits, flipAt_addFlip hf he]
  simp only [filter_addFlip hf he]

theorem State.meet_flipBits_bad {y : BitVec 9} (hf : flipAt s.flips a = none) (he : e ≠ 0)
    (hd : decodeWord (storedWord h.word h.bad e) = .bad y) :
    (s.flipBits a e).meet a h = (h.put (h.word ^^^ e.setWidth 128) true s).countUncorr a y := by
  rw [State.meet, State.finds_flipBits hf he, hd, State.flipBits, flipAt_addFlip hf he]
  simp only [filter_addFlip hf he]

theorem State.readAt_flipBits_single {d : BitVec 128} (hf : flipAt s.flips a = none) (he : e ≠ 0)
    (hd : decodeWord (storedWord h.word h.bad e) = .single d) : (s.flipBits a e).readAt a h = (h.put d false s).countSingle a := by
  have hpoison : (s.flipBits a e).findsPoison a h = false := by rw [State.findsPoison, State.finds_flipBits hf he, hd]; rfl
  rw [State.readAt, hpoison]
  exact State.meet_flipBits_single hf he hd

/-- The poison pattern counts as seen before the word is marked (R323). -/
theorem State.readAt_flipBits_bad {y : BitVec 9} (hf : flipAt s.flips a = none) (he : e ≠ 0)
    (hd : decodeWord (storedWord h.word h.bad e) = .bad y) :
    (s.flipBits a e).readAt a h = (h.put (h.word ^^^ e.setWidth 128) true
      (if y = 3 then s.bump Obj.MEMORY.POISON_SEEN else s)).countUncorr a y := by
  rw [State.readAt, State.findsPoison, State.finds_flipBits hf he, hd]
  by_cases hy : y = 3
  · rw [if_pos hy, if_pos (by rw [hy]; decide)]
    exact State.meet_flipBits_bad (s := s.bump Obj.MEMORY.POISON_SEEN) hf he hd
  · rw [if_neg hy, if_neg (by simpa using hy)]
    exact State.meet_flipBits_bad hf he hd

end

/-! ## SCRUB (R344) -/

section
variable {s : State} {a : Nat}

theorem scrub_outside (e : BitVec 137) (hh : holderOf s a = none) : exec (.scrub a e) s = .next s := by
  change execScrub a e s = _
  rw [execScrub, hh]

theorem scrub_whole {h : Holder} (hh : holderOf s a = some h) : exec (.scrub a 0) s = .next (s.readAt a h) := by
  change execScrub a 0 s = _
  rw [execScrub, hh]
  exact congrArg (fun t : State => Host.Outcome.next (t.readAt a h)) (if_pos rfl)

theorem scrub_flips {h : Holder} {e : BitVec 137} (hh : holderOf s a = some h) (he : e ≠ 0) :
    exec (.scrub a e) s = .next ((s.flipBits a e).readAt a h) := by
  change execScrub a e s = _
  rw [execScrub, hh]
  exact congrArg (fun t : State => Host.Outcome.next (t.readAt a h)) (if_neg he)

end

/-! ## The memory an address lies in (R343) -/

section
variable (s : State) {a : Nat}

theorem memKind_yard (h : a < 32 * 2 ^ 20) : memKind s a = .yard := if_pos h

theorem memKind_stallData (t : StallId) (h : a < 0x38000) : memKind s (stallData t + a) = .stall := by
  have ht := t.isLt
  rw [memKind, stallData, if_neg (by rw [yardBytes]; omega), if_pos (by omega)]

theorem memKind_dram (h : a < fitted s) : memKind s (dramBase + a) = .dram := by
  rw [memKind, if_neg (by rw [yardBytes, dramBase]; omega), if_neg (by rw [dramBase]; omega), if_pos (by omega)]

/-- The channels take turns every 256 bytes from the start of DRAM on (R331). -/
theorem channelOf_dramBase (a : Nat) : channelOf (dramBase + a) = a / 256 % 2 := by
  rw [channelOf, dramBase]
  omega

theorem holderOf_stallData (t : StallId) (h : a < 0x38000) :
    holderOf s (stallData t + a) = some (plainHolder s (stallData t + a)) := by
  simp [holderOf, memKind_stallData s t h]

theorem State.countSingle_yard (h : a < 32 * 2 ^ 20) : s.countSingle a = s.bump Obj.MEMORY.YARD_CE := by
  rw [State.countSingle, memKind_yard s h]

theorem State.countSingle_stallData (t : StallId) (h : a < 0x38000) : s.countSingle (stallData t + a) = s.bump Obj.MEMORY.SRAM_CE := by
  rw [State.countSingle, memKind_stallData s t h]

theorem State.countSingle_dram (h : a < fitted s) :
    s.countSingle (dramBase + a) = s.bump (Obj.DRAM_CHANNEL.CE (a / 256 % 2)) := by
  rw [State.countSingle, memKind_dram s h, channelOf_dramBase]

end

/-! ## Poison marks (R323) -/

theorem mem_insertSorted (a x : Nat) (l : List Nat) : x ∈ insertSorted a l ↔ x = a ∨ x ∈ l := by
  induction l with
  | nil => simp [insertSorted]
  | cons b l ih =>
    rw [insertSorted]
    split
    · subst a
      simp
    · split
      · simp
      · rw [List.mem_cons, ih, List.mem_cons, or_left_comm]

theorem State.poisoned_setPoison (s : State) (a b : Nat) :
    (s.setPoison a true).poisoned b = (decide (b / 16 = a / 16) || s.poisoned b) := by
  rw [Bool.eq_iff_iff]
  simp only [State.poisoned, State.setPoison, if_true, List.contains_iff_mem, mem_insertSorted, Bool.or_eq_true, decide_eq_true_eq]
  exact or_congr_left (by omega)

/-- A word marked bad (R323): it alone is poisoned by it, and no register changes. -/
theorem plainHolder_marks (s : State) (a b : Nat) (d : BitVec 128) : ((plainHolder s a).put d true s).poisoned a = true ∧
    (b / 16 ≠ a / 16 → ((plainHolder s a).put d true s).poisoned b = s.poisoned b) ∧ ((plainHolder s a).put d true s).regs = s.regs := by
  refine ⟨?_, fun h => ?_, rfl⟩
  · exact (State.poisoned_setPoison _ a a).trans (by simp)
  · refine (State.poisoned_setPoison _ a b).trans ?_
    rw [decide_eq_false h, Bool.false_or]
    rfl

/-! ## Uncorrectable words counted (R323) -/

theorem State.countUncorr_poison (s : State) (a : Nat) : s.countUncorr a 3 = s := if_pos rfl

theorem State.countUncorr_stallData (s : State) (t : StallId) {a : Nat} {y : BitVec 9} (hy : y ≠ 3) (h : a < 0x38000) :
    s.countUncorr (stallData t + a) y = ((s.bump Obj.MEMORY.UNCORR).put Obj.MEMORY.LAST_UNCORR ((stallData t + a) / 16 * 16)).setBit
      Obj.MEMORY.FLAGS Bit.MEMORY.FLAGS.UNCORR := by
  have hk : ∀ u : State, memKind u (stallData t + a) ≠ .dram := fun u => by rw [memKind_stallData u t h]; decide
  rw [State.countUncorr, if_neg hy]
  exact if_neg (hk _)

/-- An uncorrectable word of a stall's memory is counted, recorded and flagged. -/
theorem countUncorr_stallData_records (s : State) (t : StallId) (a : Nat) (y : BitVec 9) (hy : y ≠ 3) (h : a < 0x38000)
    (hlt : s.u Obj.MEMORY.UNCORR + 1 < 2 ^ 32) :
    ∃ u : State, s.countUncorr (stallData t + a) y = u ∧ u.u Obj.MEMORY.UNCORR = s.u Obj.MEMORY.UNCORR + 1 ∧
      u.u Obj.MEMORY.LAST_UNCORR = (stallData t + a) / 16 * 16 ∧ u.bit Obj.MEMORY.FLAGS Bit.MEMORY.FLAGS.UNCORR = true ∧
      onlyRegs s u [Obj.MEMORY.UNCORR, Obj.MEMORY.LAST_UNCORR, Obj.MEMORY.FLAGS] := by
  have ht := t.isLt
  refine ⟨_, s.countUncorr_stallData t hy h, ?_, ?_, ?_, ?_⟩
  · exact ((State.u_put_ne _ _ _ _ (by decide)).trans (State.u_put_ne _ _ _ _ (by decide))).trans (s.u_bump_self _ hlt)
  · exact (State.u_put_ne _ _ _ _ (by decide)).trans (State.u_put_of_lt _ _ _ (by
      change _ < 2 ^ 64
      rw [stallData]
      omega))
  · exact State.bit_putBit_self _ _ _ _ (by decide)
  · exact (((onlyRegs.refl s _).put (by simp) _).put (by simp) _).put (by simp) _

end Sys2Proof.Machine
end

section
/-! SUPPORT. Lane repair (R332 to R336; log entries 59 and 60; Machine/Dram.lean): how a repair begins and ends, and what a second's counts do. -/

namespace Sys2Proof.Machine

/-! ## Changes of one channel -/

section
variable (s : State) (c : Fin 2) (f : DramChannel → DramChannel)

@[simp] theorem State.modDram_self : (s.modDram c f).dram[c] = f s.dram[c] := by
  simp [State.modDram]

theorem State.modDram_congr {g : DramChannel → DramChannel} (h : f s.dram[c] = g s.dram[c]) : s.modDram c f = s.modDram c g := by
  rw [State.modDram, State.modDram, h]

end

/-- Two objects of a channel's record have keys of their own. -/
theorem dramKey_ne (c : Fin 2) {i j : Nat} (h : i ≠ j) : (0x7A41 + c.val) * 256 + i ≠ (0x7A41 + c.val) * 256 + j := by omega

theorem memoryFlagsKey_ne (c : Fin 2) (i : Nat) : Obj.MEMORY.FLAGS.key ≠ (0x7A41 + c.val) * 256 + i := by
  change 0x7A40 * 256 + 1 ≠ _
  omega

/-! ## REPAIR_ACTIVE (R335) -/

@[simp] theorem State.dram_repairFlag (s : State) : s.repairFlag.dram = s.dram := rfl

theorem State.u_repairFlag (s : State) {r : Reg} (h : Obj.MEMORY.FLAGS.key ≠ r.key) : s.repairFlag.u r = s.u r :=
  State.u_put_ne _ _ _ _ h

theorem onlyRegs_repairFlag {s t : State} {l : List Reg} (h : onlyRegs s t l) (hl : Obj.MEMORY.FLAGS ∈ l) : onlyRegs s t.repairFlag l :=
  h.put hl _

theorem State.bit_repairFlag_active (s : State) (c : Fin 2) (h : s.dram[c].inHand ≠ []) :
    s.repairFlag.bit Obj.MEMORY.FLAGS Bit.MEMORY.FLAGS.REPAIR_ACTIVE = true := by
  refine (State.bit_putBit_self _ _ _ _ (by decide)).trans ?_
  have hc := congrArg not (List.isEmpty_eq_false_iff.mpr h)
  match c, hc with
  | 0, hc => exact Bool.or_eq_true_iff.mpr (.inl hc)
  | 1, hc => exact Bool.or_eq_true_iff.mpr (.inr hc)

theorem State.bit_repairFlag_sparesLow (s : State) :
    s.repairFlag.bit Obj.MEMORY.FLAGS Bit.MEMORY.FLAGS.SPARES_LOW = s.bit Obj.MEMORY.FLAGS Bit.MEMORY.FLAGS.SPARES_LOW :=
  State.bit_putBit _ _ _ _ _ (by decide)

/-! ## A repair begins (R334, R335) -/

section
variable (s : State) (c : Fin 2) (lane : Nat)

theorem repairEff_begins (h : s.dram[c].repair = none) : repairEff s c lane = s.startRepair c lane := by
  rw [repairEff, h]
  rfl

theorem repairEff_waits (h : s.dram[c].repair ≠ none) :
    repairEff s c lane = s.modDram c (fun d => { d with waiting := d.waiting ++ [lane] }) := by
  rw [repairEff, if_pos (Option.isSome_iff_ne_none.mpr h)]

theorem State.startRepair_on {k : Nat} (h : freeSpare s c = some k) :
    s.startRepair c lane = (((s.modDram c (fun d => { d with repair := some ⟨lane, k, s.now⟩ })).put (Obj.DRAM_CHANNEL.STATE c) 2).put
      (Obj.DRAM_CHANNEL.PROGRESS c) 0).repairFlag := by
  rw [State.startRepair, h]

theorem repairEff_shows (k : Nat) (hr : s.dram[c].repair = none) (hk : freeSpare s c = some k) :
    ∃ u : State, repairEff s c lane = u ∧ u.dram[c] = { s.dram[c] with repair := some ⟨lane, k, s.now⟩ } ∧ u.u (Obj.DRAM_CHANNEL.STATE c) = 2 ∧
      u.u (Obj.DRAM_CHANNEL.PROGRESS c) = 0 ∧ u.bit Obj.MEMORY.FLAGS Bit.MEMORY.FLAGS.REPAIR_ACTIVE = true ∧
      onlyRegs { s with dram := u.dram } u [Obj.DRAM_CHANNEL.STATE c, Obj.DRAM_CHANNEL.PROGRESS c, Obj.MEMORY.FLAGS] := by
  refine ⟨_, (repairEff_begins s c lane hr).trans (s.startRepair_on c lane hk), ?_, ?_, ?_, ?_, ?_⟩
  · rw [State.dram_repairFlag, State.put_dram, State.put_dram, State.modDram_self]
  · refine (State.u_repairFlag _ (memoryFlagsKey_ne c _)).trans ?_
    exact (State.u_put_ne _ _ _ _ (dramKey_ne c (by decide))).trans (State.u_put_self _ _ _)
  · exact (State.u_repairFlag _ (memoryFlagsKey_ne c _)).trans (State.u_put_self _ _ _)
  · refine State.bit_repairFlag_active _ c ?_
    rw [State.put_dram, State.put_dram, State.modDram_self]
    exact List.cons_ne_nil _ _
  · refine onlyRegs_repairFlag ?_ (by simp)
    exact ((onlyRegs.refl (s.modDram c _) _).put (by simp) _).put (by simp) _

/-- A channel that is out of service takes no repair (log entry 59). -/
theorem repairRefusal_outOfService (h : s.dram[c].failed = true ∨ s.dram[c].trained = false) : repairRefusal s c lane = 0x0601 := by
  refine if_pos ?_
  rcases h with h | h
  · exact .inl h
  · exact .inr (.inl (by rw [h]; rfl))

end

/-! ## The end of a pass (R335) -/

section
variable {s : State} {c : Fin 2}

theorem repairPassEnd_idle (h : s.dram[c].repair = none) : exec (.repairPassEnd c) s = .next s := by
  change execRepairPassEnd c s = _
  rw [execRepairPassEnd, h]

theorem repairPassEnd_last {p : RepairPart} (h : s.dram[c].repair = some p) (hw : s.dram[c].waiting = []) :
    exec (.repairPassEnd c) s = .next ((s.modDram c (fun d => { d with repair := none, passed := d.passed ++ [p] })).put
      (Obj.DRAM_CHANNEL.PROGRESS c) (Config.beyond 65536)) := by
  change execRepairPassEnd c s = _
  rw [execRepairPassEnd, h]
  simp only [hw]
  rw [State.modDram_congr s c (fun d => { d with repair := none, waiting := d.waiting.drop 1, passed := d.passed ++ [p] })
    (g := fun d => { d with repair := none, passed := d.passed ++ [p] }) (by simp only [hw, List.drop_nil])]

theorem repairPassEnd_next {p : RepairPart} {l : Nat} {rest : List Nat} (h : s.dram[c].repair = some p)
    (hw : s.dram[c].waiting = l :: rest) :
    exec (.repairPassEnd c) s = .next (((s.modDram c (fun d => { d with repair := none, waiting := rest, passed := d.passed ++ [p] })).put
      (Obj.DRAM_CHANNEL.PROGRESS c) (Config.beyond 65536)).startRepair c l) := by
  change execRepairPassEnd c s = _
  rw [execRepairPassEnd, h]
  simp only [hw]
  rw [State.modDram_congr s c (fun d => { d with repair := none, waiting := d.waiting.drop 1, passed := d.passed ++ [p] })
    (g := fun d => { d with repair := none, waiting := rest, passed := d.passed ++ [p] }) (by simp only [hw, List.drop_succ_cons, List.drop_zero])]

end

/-! ## The bytes of REPAIR_MAP -/

/-- A word whose byte `k` is FFh, and the word with that byte replaced, share the bytes above it and below it. -/
theorem mapByte_replaced {m k : Nat} (l : Nat) (h : m / 256 ^ k % 256 = 0xFF) : ∃ q lo : Nat, lo < 256 ^ k ∧
    m = (q * 256 + 0xFF) * 256 ^ k + lo ∧ m - 0xFF * 256 ^ k + l * 256 ^ k = (q * 256 + l) * 256 ^ k + lo := by
  refine ⟨m / 256 ^ k / 256, m % 256 ^ k, Nat.mod_lt _ (Nat.pow_pos (by decide)), ?_⟩
  have hm : m = (m / 256 ^ k / 256 * 256 + 0xFF) * 256 ^ k + m % 256 ^ k := by
    have hd : m / 256 ^ k / 256 * 256 + 0xFF = m / 256 ^ k := by omega
    rw [hd, Nat.div_add_mod']
  refine ⟨hm, ?_⟩
  conv_lhs => rw [hm]
  rw [Nat.add_mul, Nat.add_mul]
  omega

section
variable {x lo k : Nat} (hlo : lo < 256 ^ k)
include hlo

theorem byte_at_split : (x * 256 ^ k + lo) / 256 ^ k = x := by
  rw [Nat.mul_comm, Nat.mul_add_div (Nat.pow_pos (by decide)), Nat.div_eq_of_lt hlo, Nat.add_zero]

theorem bytes_above_split {j : Nat} (q d : Nat) (hd : d < 256) (hj : k < j) :
    ((q * 256 + d) * 256 ^ k + lo) / 256 ^ j = q / 256 ^ (j - k - 1) := by
  obtain ⟨i, rfl⟩ := Nat.exists_eq_add_of_lt hj
  have hq : (q * 256 + d) / 256 = q := by omega
  rw [show k + i + 1 = k + (1 + i) by omega, Nat.pow_add, Nat.pow_add, Nat.pow_one, ← Nat.div_div_eq_div_mul, ← Nat.div_div_eq_div_mul,
    byte_at_split hlo, hq, show k + (1 + i) - k - 1 = i by omega]

end

theorem byte_below_split {j k : Nat} (x lo : Nat) (hj : j < k) : (x * 256 ^ k + lo) / 256 ^ j % 256 = lo / 256 ^ j % 256 := by
  obtain ⟨i, rfl⟩ := Nat.exists_eq_add_of_lt hj
  have hx : x * 256 ^ (j + i + 1) + lo = lo + 256 ^ j * (256 * (256 ^ i * x)) := by ring
  rw [hx, Nat.add_mul_div_left _ _ (Nat.pow_pos (by decide)), Nat.add_mul_mod_self_left]

section
variable {m k l : Nat} (h : m / 256 ^ k % 256 = 0xFF) (hl : l < 256)
include h hl

theorem mapByte_self : (m - 0xFF * 256 ^ k + l * 256 ^ k) / 256 ^ k % 256 = l := by
  obtain ⟨q, lo, hlo, -, hnew⟩ := mapByte_replaced l h
  rw [hnew, byte_at_split hlo]
  omega

theorem mapByte_other {j : Nat} (hj : j ≠ k) : (m - 0xFF * 256 ^ k + l * 256 ^ k) / 256 ^ j % 256 = m / 256 ^ j % 256 := by
  obtain ⟨q, lo, hlo, hold, hnew⟩ := mapByte_replaced l h
  rw [hnew, hold]
  rcases Nat.lt_or_gt_of_ne hj with hlt | hgt
  · rw [byte_below_split _ _ hlt, byte_below_split _ _ hlt]
  · rw [bytes_above_split hlo q l hl hgt, bytes_above_split hlo q 0xFF (by decide) hgt]

theorem mapByte_le : m - 0xFF * 256 ^ k + l * 256 ^ k ≤ m := by
  obtain ⟨q, lo, -, hold, hnew⟩ := mapByte_replaced l h
  rw [hnew, hold]
  gcongr
  omega

end

/-! ## A repair ends at a refresh (R333, R335, R336) -/

/-- The state in which reads take the spare of a repair, before STATE and the flags follow. -/
def State.spareTaken (s : State) (c : Fin 2) (p : RepairPart) : State :=
  let t := s.put (Obj.DRAM_CHANNEL.REPAIR_MAP c)
    (s.u (Obj.DRAM_CHANNEL.REPAIR_MAP c) - 0xFF * 256 ^ p.spare + p.lane * 256 ^ p.spare)
  let t := t.put (Obj.DRAM_CHANNEL.SPARES_FREE c) (s.u (Obj.DRAM_CHANNEL.SPARES_FREE c) - 1)
  (t.bump (Obj.DRAM_CHANNEL.REPAIRS c)).modDram c (fun d => { d with passed := d.passed.erase p })

/-- The state in which a repair has ended, before its entry. -/
def State.repairEnded (s : State) (c : Fin 2) (p : RepairPart) : State := ((s.spareTaken c p).channelState c).repairFlag

/-- The entry of a repair's end. -/
def repairEntry (s : State) (c : Fin 2) : Ev :=
  { cls := 0, sub := 9, inst := c, index := 0x7A41 + c, osub := 0x0C, detail := s.u (Obj.DRAM_CHANNEL.REPAIRS c) }

theorem State.finishRepair_eq (s : State) (c : Fin 2) (p : RepairPart) :
    s.finishRepair c p = (s.repairEnded c p).log (repairEntry (s.repairEnded c p) c) := by
  have hfree : ∀ v : Nat, (s.put (Obj.DRAM_CHANNEL.REPAIR_MAP c) v).u (Obj.DRAM_CHANNEL.SPARES_FREE c) = s.u (Obj.DRAM_CHANNEL.SPARES_FREE c) :=
    fun v => State.u_put_ne _ _ _ _ (dramKey_ne c (by decide))
  simp only [State.finishRepair, hfree]
  rfl

section
variable (s : State) (c : Fin 2) (p : RepairPart)

theorem State.dram_spareTaken : (s.spareTaken c p).dram[c] = { s.dram[c] with passed := s.dram[c].passed.erase p } := by
  rw [State.spareTaken, State.modDram_self]
  rfl

theorem State.map_spareTaken (hs : spareLane s c p.spare = 0xFF) (hl : p.lane < 256) (hm : s.u (Obj.DRAM_CHANNEL.REPAIR_MAP c) < 2 ^ 64) :
    (s.spareTaken c p).u (Obj.DRAM_CHANNEL.REPAIR_MAP c) =
      s.u (Obj.DRAM_CHANNEL.REPAIR_MAP c) - 0xFF * 256 ^ p.spare + p.lane * 256 ^ p.spare := by
  refine (State.u_put_ne _ _ _ _ (dramKey_ne c (by decide))).trans ?_
  refine (State.u_put_ne _ _ _ _ (dramKey_ne c (by decide))).trans ?_
  exact State.u_put_of_lt _ _ _ (Nat.lt_of_le_of_lt (mapByte_le hs hl) hm)

theorem State.sparesFree_spareTaken (h : s.u (Obj.DRAM_CHANNEL.SPARES_FREE c) < 2 ^ 8) :
    (s.spareTaken c p).u (Obj.DRAM_CHANNEL.SPARES_FREE c) = s.u (Obj.DRAM_CHANNEL.SPARES_FREE c) - 1 := by
  refine (State.u_put_ne _ _ _ _ (dramKey_ne c (by decide))).trans ?_
  exact State.u_put_of_lt _ _ _ (Nat.lt_of_le_of_lt (Nat.sub_le _ _) h)

theorem State.repairs_spareTaken (h : s.u (Obj.DRAM_CHANNEL.REPAIRS c) + 1 < 2 ^ 32) :
    (s.spareTaken c p).u (Obj.DRAM_CHANNEL.REPAIRS c) = s.u (Obj.DRAM_CHANNEL.REPAIRS c) + 1 := by
  have hput : ∀ v w : Nat, ((s.put (Obj.DRAM_CHANNEL.REPAIR_MAP c) v).put (Obj.DRAM_CHANNEL.SPARES_FREE c) w).u (Obj.DRAM_CHANNEL.REPAIRS c) =
      s.u (Obj.DRAM_CHANNEL.REPAIRS c) := fun v w =>
    (State.u_put_ne _ _ _ _ (dramKey_ne c (by decide))).trans (State.u_put_ne _ _ _ _ (dramKey_ne c (by decide)))
  exact (State.u_bump_self _ _ (by rw [hput]; exact h)).trans (by rw [hput])

theorem onlyRegs_spareTaken : onlyRegs { s with dram := (s.spareTaken c p).dram } (s.spareTaken c p)
    [Obj.DRAM_CHANNEL.REPAIR_MAP c, Obj.DRAM_CHANNEL.SPARES_FREE c, Obj.DRAM_CHANNEL.REPAIRS c, Obj.DRAM_CHANNEL.STATE c, Obj.MEMORY.FLAGS] :=
  (((onlyRegs.refl (s.modDram c (fun d => { d with passed := d.passed.erase p })) _).put (by simp) _).put (by simp) _).put (by simp) _

/-! ### STATE and SPARES_LOW -/

theorem State.channelState_idle (h : s.dram[c].inHand = []) : s.channelState c =
    if s.u (Obj.DRAM_CHANNEL.SPARES_FREE c) = 0 then
      (s.put (Obj.DRAM_CHANNEL.STATE c) 3).setBit Obj.MEMORY.FLAGS Bit.MEMORY.FLAGS.SPARES_LOW
    else s.put (Obj.DRAM_CHANNEL.STATE c) 1 := by
  simp only [State.channelState, h, List.isEmpty_nil, Bool.not_true, Bool.false_eq_true, if_false, beq_iff_eq]
  split
  · rfl
  · rfl

theorem onlyRegs_channelState {t : State} {l : List Reg} (h : onlyRegs s t l) (hs : Obj.DRAM_CHANNEL.STATE c ∈ l) (hf : Obj.MEMORY.FLAGS ∈ l) :
    onlyRegs s (t.channelState c) l := by
  rw [State.channelState]
  split
  · exact (h.put hs _).put hf _
  · exact h.put hs _

/-- STATE alone of a channel's record follows the spares. -/
theorem State.u_channelState {i w d : Nat} (h : i ≠ 1) :
    (s.channelState c).u ⟨(0x7A41 + c.val) * 256 + i, w, d⟩ = s.u ⟨(0x7A41 + c.val) * 256 + i, w, d⟩ := by
  refine (onlyRegs_channelState s c (onlyRegs.refl s [Obj.DRAM_CHANNEL.STATE c, Obj.MEMORY.FLAGS]) (by simp) (by simp)).2 _ fun x hx => ?_
  simp only [List.mem_cons, List.not_mem_nil, or_false] at hx
  rcases hx with rfl | rfl
  · exact dramKey_ne c (Ne.symm h)
  · exact memoryFlagsKey_ne c i

@[simp] theorem State.dram_channelState : (s.channelState c).dram = s.dram := by
  rw [State.channelState]
  split <;> rfl

theorem State.state_channelState (h : s.dram[c].inHand = []) : (s.channelState c).u (Obj.DRAM_CHANNEL.STATE c) =
    if s.u (Obj.DRAM_CHANNEL.SPARES_FREE c) = 0 then 3 else 1 := by
  rw [s.channelState_idle c h]
  split
  · exact (State.u_put_ne _ _ _ _ (memoryFlagsKey_ne c _)).trans (State.u_put_self _ _ _)
  · exact State.u_put_self _ _ _

theorem State.sparesLow_channelState (h : s.u (Obj.DRAM_CHANNEL.SPARES_FREE c) = 0) :
    (s.channelState c).bit Obj.MEMORY.FLAGS Bit.MEMORY.FLAGS.SPARES_LOW = true := by
  rw [State.channelState, if_pos (by rw [h]; rfl)]
  exact State.bit_putBit_self _ _ _ _ (by decide)

/-! ### The refresh -/

theorem State.dram_repairEnded : (s.repairEnded c p).dram[c] = { s.dram[c] with passed := s.dram[c].passed.erase p } := by
  rw [State.repairEnded, State.dram_repairFlag, State.dram_channelState, State.dram_spareTaken]

/-- Beside STATE the objects of the channel stand as the spare's taking left them. -/
theorem State.u_repairEnded {i w d : Nat} (h : i ≠ 1) :
    (s.repairEnded c p).u ⟨(0x7A41 + c.val) * 256 + i, w, d⟩ = (s.spareTaken c p).u ⟨(0x7A41 + c.val) * 256 + i, w, d⟩ :=
  (State.u_repairFlag _ (memoryFlagsKey_ne c i)).trans (State.u_channelState _ c h)

theorem State.map_repairEnded (hs : spareLane s c p.spare = 0xFF) (hl : p.lane < 256) (hm : s.u (Obj.DRAM_CHANNEL.REPAIR_MAP c) < 2 ^ 64) :
    (s.repairEnded c p).u (Obj.DRAM_CHANNEL.REPAIR_MAP c) =
      s.u (Obj.DRAM_CHANNEL.REPAIR_MAP c) - 0xFF * 256 ^ p.spare + p.lane * 256 ^ p.spare :=
  (s.u_repairEnded c p (by decide)).trans (s.map_spareTaken c p hs hl hm)

theorem onlyRegs_repairEnded : onlyRegs { s with dram := (s.repairEnded c p).dram } (s.repairEnded c p)
    [Obj.DRAM_CHANNEL.REPAIR_MAP c, Obj.DRAM_CHANNEL.SPARES_FREE c, Obj.DRAM_CHANNEL.REPAIRS c, Obj.DRAM_CHANNEL.STATE c, Obj.MEMORY.FLAGS] := by
  rw [State.repairEnded, State.dram_repairFlag, State.dram_channelState]
  exact onlyRegs_repairFlag (onlyRegs_channelState _ c (onlyRegs_spareTaken s c p) (by simp) (by simp)) (by simp)

theorem dramRefresh_none (h : s.dram[c].passed = []) : exec (.dramRefresh c) s = .next s := by
  change execDramRefresh c s = _
  rw [execDramRefresh, h, List.foldl_nil]

theorem dramRefresh_one (h : s.dram[c].passed = [p]) :
    exec (.dramRefresh c) s = .next ((s.repairEnded c p).log (repairEntry (s.repairEnded c p) c)) := by
  change execDramRefresh c s = _
  rw [execDramRefresh, h, List.foldl_cons, List.foldl_nil, State.finishRepair_eq]

theorem dramRefresh_shows (hr : s.dram[c].repair = none) (h : s.dram[c].passed = [p]) (hl : p.lane < 256)
    (hs : spareLane s c p.spare = 0xFF) (hreps : s.u (Obj.DRAM_CHANNEL.REPAIRS c) + 1 < 2 ^ 32)
    (hpos : 0 < s.u (Obj.DRAM_CHANNEL.SPARES_FREE c)) (hfree : s.u (Obj.DRAM_CHANNEL.SPARES_FREE c) < 2 ^ 8)
    (hm : s.u (Obj.DRAM_CHANNEL.REPAIR_MAP c) < 2 ^ 64) :
    ∃ (u : State) (e : Ev), exec (.dramRefresh c) s = .next (u.log e) ∧ e.sub = 9 ∧ u.dram[c] = { s.dram[c] with passed := [] } ∧
      spareLane u c p.spare = p.lane ∧ (∀ k : Nat, k < 7 → k ≠ p.spare → spareLane u c k = spareLane s c k) ∧
      u.u (Obj.DRAM_CHANNEL.SPARES_FREE c) = s.u (Obj.DRAM_CHANNEL.SPARES_FREE c) - 1 ∧
      u.u (Obj.DRAM_CHANNEL.REPAIRS c) = s.u (Obj.DRAM_CHANNEL.REPAIRS c) + 1 ∧
      u.u (Obj.DRAM_CHANNEL.STATE c) = (if s.u (Obj.DRAM_CHANNEL.SPARES_FREE c) = 1 then 3 else 1) ∧
      (s.u (Obj.DRAM_CHANNEL.SPARES_FREE c) = 1 → u.bit Obj.MEMORY.FLAGS Bit.MEMORY.FLAGS.SPARES_LOW = true) ∧
      onlyRegs { s with dram := u.dram } u [Obj.DRAM_CHANNEL.REPAIR_MAP c, Obj.DRAM_CHANNEL.SPARES_FREE c, Obj.DRAM_CHANNEL.REPAIRS c,
        Obj.DRAM_CHANNEL.STATE c, Obj.MEMORY.FLAGS] := by
  have hmap := s.map_repairEnded c p hs hl hm
  have hspares := s.sparesFree_spareTaken c p hfree
  have hidle : (s.spareTaken c p).dram[c].inHand = [] := by
    rw [State.dram_spareTaken, DramChannel.inHand, h, hr, List.erase_cons_head]
    rfl
  refine ⟨_, _, dramRefresh_one s c p h, rfl, ?_, ?_, fun k _ hk => ?_, ?_, ?_, ?_, fun hlast => ?_, onlyRegs_repairEnded s c p⟩
  · rw [State.dram_repairEnded, h, List.erase_cons_head]
  · rw [spareLane, hmap]
    exact mapByte_self hs hl
  · rw [spareLane, hmap]
    exact mapByte_other hs hl hk
  · exact (s.u_repairEnded c p (by decide)).trans hspares
  · exact (s.u_repairEnded c p (by decide)).trans (s.repairs_spareTaken c p hreps)
  · refine (State.u_repairFlag _ (memoryFlagsKey_ne c _)).trans ?_
    rw [State.state_channelState _ c hidle, hspares]
    exact if_congr (by omega) rfl rfl
  · rw [State.repairEnded, State.bit_repairFlag_sparesLow]
    exact State.sparesLow_channelState _ c (by rw [hspares, hlast])

end

/-! ## A second's counts (R334, R336) -/

section
variable (s : State) (c : Fin 2)

theorem State.laneSecond_below (e : Nat × Nat) (h : e.1 < s.u (Obj.DRAM_CHANNEL.LANE_CE_MAX c)) : s.laneSecond c e = s :=
  if_neg fun ⟨hle, _⟩ => Nat.not_le.mpr h hle

theorem State.laneSecond_reached {n lane : Nat} (h : s.u (Obj.DRAM_CHANNEL.LANE_CE_MAX c) ≤ n) (hr : repairRefusal s c lane = 0) :
    s.laneSecond c (n, lane) = repairEff s c lane := if_pos ⟨h, hr⟩

theorem State.foldl_laneSecond_below (l : List (Nat × Nat)) (h : ∀ e ∈ l, e.1 < s.u (Obj.DRAM_CHANNEL.LANE_CE_MAX c)) :
    l.foldl (fun t e => t.laneSecond c e) s = s := by
  induction l with
  | nil => rfl
  | cons e l ih =>
    rw [List.foldl_cons, s.laneSecond_below c e (h e List.mem_cons_self)]
    exact ih fun x hx => h x (List.mem_cons_of_mem e hx)

/-- Where no lane reached LANE_CE_MAX, only WORST_LANE and a channel fault are left of the second. -/
theorem channelSecond_below (counts : List Nat) (bad : Nat) (h : ∀ n ∈ counts, n < s.u (Obj.DRAM_CHANNEL.LANE_CE_MAX c)) :
    exec (.channelSecond c counts bad) s = .next (if 1024 < bad then
        (s.put (Obj.DRAM_CHANNEL.WORST_LANE c) (worstLane (counts.take 144))).logFlag Obj.MEMORY.FLAGS
          (if c = 0 then Bit.MEMORY.FLAGS.CH_FAULT_M0 else Bit.MEMORY.FLAGS.CH_FAULT_M1) true 9 c true
      else s.put (Obj.DRAM_CHANNEL.WORST_LANE c) (worstLane (counts.take 144))) := by
  change execChannelSecond c counts bad s = _
  rw [execChannelSecond, State.foldl_laneSecond_below]
  intro e he
  rw [State.u_put_ne _ _ _ _ (dramKey_ne c (by decide))]
  exact h _ (List.mem_of_mem_take (List.fst_mem_of_mem_zipIdx he))

end

/-! ## Crossings (R342) -/

/-- A side of one crossing is reset. -/
theorem State.peerReset_one (s : State) (x : Nat) : s.peerReset [x] =
    ((s.setBit Obj.CROSSINGS.PEER_RESET x).add (Obj.CROSSINGS.DRAINED x) (Config.measured s.fresh)).drawn := rfl

theorem peerReset_shows (s : State) (x : Fin 9) : ∃ u : State, s.peerReset [x.val] = u ∧ u.bit Obj.CROSSINGS.PEER_RESET x = true ∧
    u.fresh = s.fresh + 1 ∧ onlyRegs { s with fresh := u.fresh } u [Obj.CROSSINGS.PEER_RESET, Obj.CROSSINGS.DRAINED x] := by
  refine ⟨_, s.peerReset_one x, ?_, rfl, ?_⟩
  · have hkey : (Obj.CROSSINGS.DRAINED x).key ≠ Obj.CROSSINGS.PEER_RESET.key := by
      change 0x7A48 * 256 + (0x02 + x.val) ≠ 0x7A48 * 256 + 0x01
      omega
    refine (State.bit_put_ne _ _ _ _ _ hkey).trans (State.bit_putBit_self _ _ _ _ ?_)
    change x.val < 32
    omega
  · exact ((onlyRegs.refl s.drawn _).put (by simp) _).put (by simp) _

theorem peerResetClear_clears (s : State) (x : Fin 9) :
    exec (.peerResetClear x) s = .next ((s.clrBit Obj.CROSSINGS.PEER_RESET x).offerAgain x) := rfl

/-- The crossings whose senders keep nothing: all but CAN's, Ethernet's and the links'. -/
theorem State.offerAgain_none (s : State) {x : Fin 9} (h4 : x ≠ 4) (h6 : x ≠ 6) (h7 : x ≠ 7) : s.offerAgain x = s := by
  rw [State.offerAgain, if_neg h4, if_neg h6, if_neg h7]

theorem peerResetClear_shows (s : State) (x : Fin 9) (h4 : x ≠ 4) (h6 : x ≠ 6) (h7 : x ≠ 7) :
    ∃ u : State, exec (.peerResetClear x) s = .next u ∧ refuses u x = false ∧
      (∀ y : Nat, y < 32 → y ≠ x.val → u.bit Obj.CROSSINGS.PEER_RESET y = s.bit Obj.CROSSINGS.PEER_RESET y) ∧
      onlyRegs s u [Obj.CROSSINGS.PEER_RESET] := by
  refine ⟨s.clrBit Obj.CROSSINGS.PEER_RESET x, ?_, ?_, fun y hy hyx => ?_, (onlyRegs.refl s _).put (by simp) _⟩
  · rw [peerResetClear_clears, State.offerAgain_none _ h4 h6 h7]
  · refine State.bit_putBit_self _ _ _ _ ?_
    change x.val < 32
    omega
  · rw [State.clrBit_eq, State.bit_putBit _ _ _ _ _ hy, if_neg hyx.symm]

/-- Settles O35: a word read by what its code makes of the bits in error, a repair by whether one is in hand or waits, the second by the lanes that
reached their limit, a crossing by the bit of its reset side. -/
theorem badWordsAndLaneRepair : Obligations.BadWordsAndLaneRepair := by
  refine ⟨⟨fun s a e hh => scrub_outside e hh, fun s a h hh hf => ⟨fun hb => ?_, fun hb => ?_, fun e d he hd => ?_, fun e y he hy => ?_⟩,
    fun s t a ha => holderOf_stallData s t ha, fun s a ha => s.countSingle_yard ha, fun s t a ha => s.countSingle_stallData t ha,
    fun s a ha => s.countSingle_dram ha, plainHolder_marks, State.countUncorr_poison, countUncorr_stallData_records⟩,
    fun s c lane k => repairEff_shows s c lane k, repairEff_waits, fun s c p h => ⟨fun hw => ?_, fun l rest hw => repairPassEnd_next h hw⟩,
    fun s c h => repairPassEnd_idle h, dramRefresh_none, repairRefusal_outOfService,
    fun s c p hr h _ hl hs hreps hpos hfree hm => dramRefresh_shows s c p hr h hl hs hreps hpos hfree hm,
    fun s c counts bad hbad h => ?_, fun s c counts bad hbad h => ?_, fun s c n lane h hr => s.laneSecond_reached c h hr,
    fun s c => ⟨rfl, rfl⟩, peerReset_shows, peerResetClear_clears, peerResetClear_shows⟩
  · rw [scrub_whole hh, State.readAt_unflipped s a h hf, hb, if_neg Bool.false_ne_true]
  · rw [scrub_whole hh, State.readAt_unflipped s a h hf, if_pos hb]
  · rw [scrub_flips hh he, State.readAt_flipBits_single hf he hd]
  · rw [scrub_flips hh he, State.readAt_flipBits_bad hf he hy]
  · refine ⟨_, repairPassEnd_last h hw, ?_, ?_⟩
    · rw [State.put_dram, State.modDram_self]
    · exact (onlyRegs.refl (s.modDram c _) _).put (by simp) _
  · rw [channelSecond_below s c counts bad h, if_neg (Nat.not_lt.mpr hbad)]
  · rw [channelSecond_below s c counts bad h, if_pos hbad]

end Sys2Proof.Machine
end

section
/-! SUPPORT. Registers by record and object, and what a frame that leaves on Ethernet changes (R342, R347; Machine/Book.lean). -/

namespace Sys2Proof.Machine

/-! ## Keys (R382) -/

/-- Objects of one record are different registers. -/
theorem objectKey_ne (b : Nat) {i j : Nat} (h : i ≠ j) : b * 256 + i ≠ b * 256 + j := by omega

/-- Objects of different records are different registers. -/
theorem recordKey_ne {b c i j : Nat} (h : b ≠ c) (hi : i < 256) (hj : j < 256) : b * 256 + i ≠ c * 256 + j := by omega

theorem State.u_bump_ne (s : State) (r x : Reg) (h : r.key ≠ x.key) : (s.bump r).u x = s.u x := State.u_put_ne _ _ _ _ h

theorem refuses_put (s : State) (r : Reg) (v : Nat) (x : Fin 9) (h : r.key ≠ Obj.CROSSINGS.PEER_RESET.key) :
    refuses (s.put r v) x = refuses s x := State.bit_put_ne _ _ _ _ _ h

/-! ## Frames that leave (R342, R347) -/

section
variable (s : State) (p : Fin 4)

theorem State.leave_refused {qs : List (Fin 4)} (o : Out) (hqs : qs ≠ []) (h : refuses s 6 = true) :
    s.leave qs o = { s with netHeld := s.netHeld ++ [⟨qs, o⟩] } := by
  rw [State.leave, if_pos h, if_neg (by simpa using hqs)]

theorem State.leave_taken {qs : List (Fin 4)} (o : Out) (hqs : qs ≠ []) (h : refuses s 6 = false) :
    s.leave qs o = (qs.foldl (fun t q => t.bump (Obj.ETH_PORT.TX_FRAMES q)) s).emit o := by
  rw [State.leave, if_neg (by simp [h]), State.sentOn, if_neg (by simpa using hqs)]

theorem State.ethOut_up (kind : Nat) (b : List Byte) (rct : Option (BitVec 16)) (hup : s.eth[p].up = true) (h : refuses s 6 = false) :
    s.ethOut p kind b rct = (s.bump (Obj.ETH_PORT.TX_FRAMES p)).emit (.eth p kind b rct) := by
  rw [State.ethOut, if_pos hup, s.leave_taken _ (List.cons_ne_nil _ _) h]
  rfl

theorem refuses_counted (r : Reg) (x : Fin 9) (h : r.key < 0x7A4800) : refuses (s.bump r) x = refuses s x :=
  refuses_put _ _ _ _ (by change r.key ≠ 0x7A48 * 256 + 1; omega)

/-- Without PRP a port that has link sends for itself. -/
theorem sendingPorts_single (hup : s.eth[p].up = true) (h : s.u (Obj.INTERFACE.PRP_MODE (p.val / 2)) ≠ 1) : sendingPorts s p = [p] := by
  have hmine : ∀ q : Fin 4, (s.eth[q].up && (q.val == p.val || (q.val / 2 == p.val / 2 && s.u (Obj.INTERFACE.PRP_MODE (p.val / 2)) == 1))) =
      decide (q = p) := by
    intro q
    by_cases hq : q = p
    · subst hq
      rw [hup]
      simp
    · simp [h, hq, Fin.val_inj]
  have hlist : ∀ q : Fin 4, (List.finRange 4).filter (fun r => decide (r = q)) = [q] := by decide
  simp only [sendingPorts, hmine]
  exact hlist p

/-- Of a PRP pair both ports with link send, the first one first. -/
theorem sendingPorts_pair (a b : Fin 4) (ha : a.val = 2 * (p.val / 2)) (hb : b.val = 2 * (p.val / 2) + 1) (hua : s.eth[a].up = true)
    (hub : s.eth[b].up = true) (h : s.u (Obj.INTERFACE.PRP_MODE (p.val / 2)) = 1) : sendingPorts s p = [a, b] := by
  have hpair : ∀ q : Fin 4, (s.eth[q].up && (q.val == p.val || (q.val / 2 == p.val / 2 && s.u (Obj.INTERFACE.PRP_MODE (p.val / 2)) == 1))) =
      decide (q = a ∨ q = b) := by
    intro q
    by_cases hq : q = a ∨ q = b
    · have hup : s.eth[q].up = true := by
        rcases hq with rfl | rfl
        · exact hua
        · exact hub
      have hhalf : q.val / 2 = p.val / 2 := by
        rcases hq with rfl | rfl <;> omega
      rw [hup, hhalf, h]
      simp [hq]
    · have hne : ¬ q.val / 2 = p.val / 2 := by
        simp only [Fin.ext_iff] at hq
        omega
      have hnp : ¬ q.val = p.val := fun e => hne (by rw [e])
      simp [hq, hne, hnp]
  have hlist : ∀ a b : Fin 4, a.val % 2 = 0 → b.val = a.val + 1 →
      (List.finRange 4).filter (fun q => decide (q = a ∨ q = b)) = [a, b] := by decide
  simp only [sendingPorts, hpair]
  exact hlist a b (by omega) (by omega)

theorem rctOf_single (i : Nat) (h : s.u (Obj.INTERFACE.PRP_MODE (i / 2)) ≠ 1) : rctOf s i = none := if_neg h

theorem rctOf_pair (i : Nat) (h : s.u (Obj.INTERFACE.PRP_MODE (i / 2)) = 1) : rctOf s i = some s.eth[firstPort i].prpSeq := if_pos h

theorem State.nextRct_single (i : Nat) (h : s.u (Obj.INTERFACE.PRP_MODE (i / 2)) ≠ 1) : s.nextRct i = s := if_neg h

theorem State.nextRct_pair (i : Nat) (h : s.u (Obj.INTERFACE.PRP_MODE (i / 2)) = 1) :
    s.nextRct i = s.modEth (firstPort i) (fun e => { e with prpSeq := e.prpSeq + 1 }) := if_pos h

end

end Sys2Proof.Machine
end

section
/-! SUPPORT. Link start-up and a link's rise and fall (R345, R346; Machine/Eth.lean). -/

namespace Sys2Proof.Machine

/-! ## Clause 73 and the sequence of rates -/

section
variable (s : State) (p : Fin 4)

theorem anTimeout_runs (hn : netUp s = true) (hup : s.eth[p].up = false) (ha : s.eth[p].anRunning = true) :
    exec (.anTimeout p) s = .next (s.modEth p (fun e => { e with anRunning := false, trying := (rateOrder s p).headD 0 })) := by
  change execAnTimeout p s = _
  rw [execAnTimeout, if_pos (by rw [hn, hup, ha]; rfl)]

/-- A port with link is not starting up. -/
theorem startUp_done (hup : s.eth[p].up = true) :
    exec (.anTimeout p) s = .next s ∧ exec (.rateTryTimeout p) s = .next s ∧ exec (.linkUp p) s = .next s := by
  refine ⟨?_, ?_, ?_⟩
  · change execAnTimeout p s = _
    rw [execAnTimeout, if_neg (by rw [hup]; simp)]
  · change execRateTryTimeout p s = _
    rw [execRateTryTimeout]
    exact congrArg _ (if_pos (by rw [hup]; simp))
  · change execLinkUp p s = _
    rw [execLinkUp]
    exact congrArg _ (if_pos (by rw [hup]; simp))

theorem anDone_takes (rate fec : BitVec 8) (hn : netUp s = true) (hup : s.eth[p].up = false) (ha : s.eth[p].anRunning = true)
    (hr : rate = 2 ∨ rate = 3) (hal : rate.toNat ∈ allowedRates s p) :
    exec (.anDone p rate fec) s = .next ((s.modEth p (fun e => { e with
      anRunning := false, trying := rate.toNat, viaAn := true, fec := fec.toNat })).setBit (Obj.ETH_PORT.FLAGS p) Bit.ETH_PORT.FLAGS.AN_DONE) := by
  have hok : ((rate == 2 || rate == 3) && (allowedRates s p).contains rate.toNat) = true := by
    simpa using ⟨hr, hal⟩
  change execAnDone p rate fec s = _
  rw [execAnDone, if_pos (by rw [hn, hup, ha, hok]; rfl)]

theorem rateTry_next (r : Nat) (hn : netUp s = true) (hup : s.eth[p].up = false) (ha : s.eth[p].anRunning = false) (hv : s.eth[p].viaAn = false)
    (hr : rateAfter (rateOrder s p) s.eth[p].trying = some r) :
    exec (.rateTryTimeout p) s = .next (s.modEth p (fun x => { x with trying := r })) := by
  change execRateTryTimeout p s = _
  simp only [execRateTryTimeout]
  rw [if_neg (by rw [hn, hup, ha]; simp), if_neg (by rw [hv]; simp), hr]

theorem rateTry_repeats (hn : netUp s = true) (hup : s.eth[p].up = false) (ha : s.eth[p].anRunning = false) (hv : s.eth[p].viaAn = false)
    (hr : rateAfter (rateOrder s p) s.eth[p].trying = none) :
    exec (.rateTryTimeout p) s = .next (s.startUp p) := by
  change execRateTryTimeout p s = _
  simp only [execRateTryTimeout]
  rw [if_neg (by rw [hn, hup, ha]; simp), if_neg (by rw [hv]; simp), hr]

/-! ## Start-up -/

theorem flagBit_lt (b : Nat) (h : b < 32) : b < (Obj.ETH_PORT.FLAGS p).width := h

/-- A port as R345 begins on it. -/
def startPort (e : EthPort) : EthPort :=
  { e with
    up := false, anRunning := s.u (Obj.ETH_PORT.AN_EN p) == 1, viaAn := false, fec := 0,
    trying := if s.u (Obj.ETH_PORT.AN_EN p) == 1 then 0 else (rateOrder s p).headD 0 }

theorem State.startUp_eth : (s.startUp p).eth[p] = startPort s p s.eth[p] := s.modEth_self p (startPort s p)

theorem State.startUp_rate : (s.startUp p).u (Obj.ETH_PORT.RATE p) = 0 := by
  simp only [State.startUp, State.clrBit_eq, State.putBit_eq]
  rw [State.u_put_ne _ _ _ _ (objectKey_ne _ (by decide)), State.u_put_ne _ _ _ _ (objectKey_ne _ (by decide)),
    State.u_put_ne _ _ _ _ (objectKey_ne _ (by decide)), State.u_put_self, Nat.zero_mod]

theorem State.startUp_link : (s.startUp p).bit (Obj.ETH_PORT.FLAGS p) Bit.ETH_PORT.FLAGS.LINK = false := by
  simp only [State.startUp, State.clrBit_eq]
  rw [State.bit_putBit _ _ _ _ _ (flagBit_lt p _ (by decide)), if_neg (by decide), State.bit_putBit_self _ _ _ _ (flagBit_lt p _ (by decide))]

theorem State.startUp_regs : onlyRegs { s with eth := (s.startUp p).eth } (s.startUp p)
    [Obj.ETH_PORT.RATE p, Obj.ETH_PORT.FEC_USED p, Obj.ETH_PORT.FLAGS p] :=
  (((((onlyRegs.refl (s.modEth p (startPort s p)) _).put (by simp) _).put (by simp) _).put (by simp) _).put (by simp) _)

/-! ## A link comes up -/

/-- A state whose port has just come up, before its PATH flag follows. -/
def risen : State :=
  (((s.modEth p (fun x => { x with up := true, lastUp := x.trying, silent := false })).put (Obj.ETH_PORT.RATE p) s.eth[p].trying).put
    (Obj.ETH_PORT.FEC_USED p) (fecUsed s p)).setBit (Obj.ETH_PORT.FLAGS p) Bit.ETH_PORT.FLAGS.LINK

theorem linkUp_rises (hn : netUp s = true) (hup : s.eth[p].up = false) (ha : s.eth[p].anRunning = false) (ht : 0 < s.eth[p].trying) :
    exec (.linkUp p) s = .next ((risen s p).pathFlag p) := by
  have htry : (s.eth[p].trying == 0) = false := beq_eq_false_iff_ne.mpr (by omega)
  change execLinkUp p s = _
  simp only [execLinkUp]
  rw [if_neg (by rw [hn, hup, ha, htry]; simp)]
  rfl

theorem risen_rate (ht : s.eth[p].trying < 4) : (risen s p).u (Obj.ETH_PORT.RATE p) = s.eth[p].trying := by
  simp only [risen, State.setBit_eq, State.putBit_eq]
  rw [State.u_put_ne _ _ _ _ (objectKey_ne _ (by decide)), State.u_put_ne _ _ _ _ (objectKey_ne _ (by decide)),
    State.u_put_of_lt _ _ _ (lt_trans ht (show 4 < 2 ^ 8 by decide))]

/-- At 1 Gb/s there is no FEC. -/
theorem risen_fec (ht : s.eth[p].trying = 1) : (risen s p).u (Obj.ETH_PORT.FEC_USED p) = 0 := by
  simp only [risen, State.setBit_eq, State.putBit_eq]
  rw [State.u_put_ne _ _ _ _ (objectKey_ne _ (by decide)), State.u_put_self, fecUsed, if_pos (.inl ht), Nat.zero_mod]

theorem risen_link : (risen s p).bit (Obj.ETH_PORT.FLAGS p) Bit.ETH_PORT.FLAGS.LINK = true :=
  State.bit_putBit_self _ _ _ _ (flagBit_lt p _ (by decide))

theorem risen_regs : onlyRegs { s with eth := (risen s p).eth } (risen s p)
    [Obj.ETH_PORT.RATE p, Obj.ETH_PORT.FEC_USED p, Obj.ETH_PORT.FLAGS p] :=
  ((((onlyRegs.refl (s.modEth p _) _).put (by simp) _).put (by simp) _).put (by simp) _)

/-! ## A link goes down -/

/-- A state whose port has just gone down, before its PATH flag follows. -/
def fallen : State :=
  (((s.dropHeld p).startUp p).setBit (Obj.ETH_PORT.FLAGS p) Bit.ETH_PORT.FLAGS.LINK_LOST).bump (Obj.ETH_PORT.LINK_DOWNS p)

theorem linkDown_falls (hup : s.eth[p].up = true) : exec (.linkDown p) s = .next ((fallen s p).pathFlag p) := by
  change execLinkDown p s = _
  rw [execLinkDown, if_pos hup, State.linkDown, if_pos hup]
  rfl

theorem linkDown_idle (hup : s.eth[p].up = false) : exec (.linkDown p) s = .next s := by
  change execLinkDown p s = _
  rw [execLinkDown, if_neg (by rw [hup]; simp)]

theorem fallen_eth : (fallen s p).eth[p].up = false := congrArg EthPort.up (State.startUp_eth (s.dropHeld p) p)

theorem fallen_rate : (fallen s p).u (Obj.ETH_PORT.RATE p) = 0 := by
  rw [fallen, State.u_bump_ne _ _ _ (objectKey_ne _ (by decide)), State.setBit_eq, State.putBit_eq,
    State.u_put_ne _ _ _ _ (objectKey_ne _ (by decide)), State.startUp_rate]

theorem fallen_link : (fallen s p).bit (Obj.ETH_PORT.FLAGS p) Bit.ETH_PORT.FLAGS.LINK = false := by
  rw [fallen, State.bump_eq, State.bit_put_ne _ _ _ _ _ (objectKey_ne _ (by decide)), State.setBit_eq,
    State.bit_putBit _ _ _ _ _ (flagBit_lt p _ (by decide)), if_neg (by decide), State.startUp_link]

theorem fallen_lost : (fallen s p).bit (Obj.ETH_PORT.FLAGS p) Bit.ETH_PORT.FLAGS.LINK_LOST = true := by
  rw [fallen, State.bump_eq, State.bit_put_ne _ _ _ _ _ (objectKey_ne _ (by decide)), State.setBit_eq,
    State.bit_putBit_self _ _ _ _ (flagBit_lt p _ (by decide))]

theorem fallen_counted (h : s.u (Obj.ETH_PORT.LINK_DOWNS p) + 1 < 2 ^ 32) :
    (fallen s p).u (Obj.ETH_PORT.LINK_DOWNS p) = s.u (Obj.ETH_PORT.LINK_DOWNS p) + 1 := by
  have hbefore : (((s.dropHeld p).startUp p).setBit (Obj.ETH_PORT.FLAGS p) Bit.ETH_PORT.FLAGS.LINK_LOST).u (Obj.ETH_PORT.LINK_DOWNS p) =
      s.u (Obj.ETH_PORT.LINK_DOWNS p) := by
    rw [State.setBit_eq, State.putBit_eq, State.u_put_ne _ _ _ _ (objectKey_ne _ (by decide))]
    refine (State.startUp_regs (s.dropHeld p) p).2 _ fun x hx => ?_
    simp only [List.mem_cons, List.not_mem_nil, or_false] at hx
    rcases hx with rfl | rfl | rfl <;> exact objectKey_ne _ (by decide)
  rw [fallen, State.u_bump_self _ _ (by rw [hbefore]; exact h), hbefore]

/-- Nothing waits for a port whose link went down. -/
theorem fallen_held (h : NetHeld) (hh : h ∈ (fallen s p).netHeld) : p ∉ h.ports := by
  change h ∈ (s.dropHeld p).netHeld at hh
  simp only [State.dropHeld, List.mem_filter, List.mem_map] at hh
  obtain ⟨⟨g, -, rfl⟩, -⟩ := hh
  simp

end

end Sys2Proof.Machine
end

section
/-! SUPPORT. A PRP pair's frames and the frames that a port answers (R347, R348, R349; Machine/Eth.lean). -/

namespace Sys2Proof.Machine

theorem net_length (n v : Nat) : (net n v).length = n := by
  rw [net, List.length_reverse, le_length]

theorem refuses_emit (s : State) (o : Out) (x : Fin 9) : refuses (s.emit o) x = refuses s x := rfl

section
variable (s : State) (p : Fin 4)

/-! ## A frame on both ports of a pair -/

/-- A frame counted and sent on two ports. -/
def State.sentBoth (a b : Fin 4) (oa ob : Out) : State :=
  (((s.bump (Obj.ETH_PORT.TX_FRAMES a)).emit oa).bump (Obj.ETH_PORT.TX_FRAMES b)).emit ob

theorem State.ethOut_both (a b : Fin 4) (kind : Nat) (ba bb : List Byte) (rct : Option (BitVec 16)) (hua : s.eth[a].up = true)
    (hub : s.eth[b].up = true) (h : refuses s 6 = false) :
    (s.ethOut a kind ba rct).ethOut b kind bb rct = s.sentBoth a b (.eth a kind ba rct) (.eth b kind bb rct) := by
  rw [s.ethOut_up a kind ba rct hua h]
  refine State.ethOut_up ((s.bump _).emit _) b kind bb rct hub ?_
  rw [refuses_emit, refuses_counted _ _ _ (by change (0x1100 + a.val) * 256 + 8 < _; omega), h]

theorem State.sentBoth_out (a b : Fin 4) (oa ob : Out) : (s.sentBoth a b oa ob).out = s.out ++ [oa, ob] :=
  List.append_assoc s.out [oa] [ob]

theorem State.sentBoth_regs (a b : Fin 4) (oa ob : Out) : onlyRegs { s with out := (s.sentBoth a b oa ob).out } (s.sentBoth a b oa ob)
    [Obj.ETH_PORT.TX_FRAMES a, Obj.ETH_PORT.TX_FRAMES b] :=
  (((onlyRegs.refl { s with out := (s.sentBoth a b oa ob).out } _).put (by simp) _).put (by simp) _)

theorem State.answerOn_single (kind : Nat) (b : List Byte) (hup : s.eth[p].up = true) (hm : s.u (Obj.INTERFACE.PRP_MODE (p.val / 2)) ≠ 1)
    (h : refuses s 6 = false) : s.answerOn p kind b = (s.bump (Obj.ETH_PORT.TX_FRAMES p)).emit (.eth p kind b none) := by
  rw [State.answerOn, sendingPorts_single s p hup hm, rctOf_single s p hm, List.foldl_cons, List.foldl_nil, s.ethOut_up p kind b none hup h]
  refine State.nextRct_single _ _ ?_
  change (s.bump (Obj.ETH_PORT.TX_FRAMES p)).u _ ≠ 1
  rwa [State.u_bump_ne _ _ _ (recordKey_ne (by omega) (by decide) (by decide))]

theorem State.answerOn_pair (a b : Fin 4) (kind : Nat) (body : List Byte) (ha : a.val = 2 * (p.val / 2)) (hb : b.val = 2 * (p.val / 2) + 1)
    (hua : s.eth[a].up = true) (hub : s.eth[b].up = true) (hm : s.u (Obj.INTERFACE.PRP_MODE (p.val / 2)) = 1) (h : refuses s 6 = false) :
    s.answerOn p kind body = (s.sentBoth a b (.eth a kind body (some s.eth[firstPort p].prpSeq))
      (.eth b kind body (some s.eth[firstPort p].prpSeq))).modEth (firstPort p) (fun e => { e with prpSeq := e.prpSeq + 1 }) := by
  rw [State.answerOn, sendingPorts_pair s p a b ha hb hua hub hm, rctOf_pair s p hm, List.foldl_cons, List.foldl_cons, List.foldl_nil,
    s.ethOut_both a b kind body body _ hua hub h]
  refine State.nextRct_pair _ _ ?_
  change ((s.bump (Obj.ETH_PORT.TX_FRAMES a)).bump (Obj.ETH_PORT.TX_FRAMES b)).u _ = 1
  rwa [State.u_bump_ne _ _ _ (recordKey_ne (by omega) (by decide) (by decide)),
    State.u_bump_ne _ _ _ (recordKey_ne (by omega) (by decide) (by decide))]

/-! ## Supervision and duplicates -/

theorem prpSupervision_single (k : Fin 2) (h : s.u (Obj.INTERFACE.PRP_MODE k) ≠ 1) : exec (.prpSupervision k) s = .next s := by
  change execPrpSupervision k s = _
  rw [execPrpSupervision, if_neg h]

theorem prpSupervision_both (k : Fin 2) (a b : Fin 4) (ha : a.val = 2 * k.val) (hb : b.val = 2 * k.val + 1)
    (hm : s.u (Obj.INTERFACE.PRP_MODE k) = 1) (hua : s.eth[a].up = true) (hub : s.eth[b].up = true) (h : refuses s 6 = false) :
    exec (.prpSupervision k) s = .next (s.sentBoth a b (.eth a 0x88FB (net 6 (portMac s a)) none) (.eth b 0x88FB (net 6 (portMac s b)) none)) := by
  have h0 : (⟨(2 * k.val + 0) % 4, Nat.mod_lt _ (by decide)⟩ : Fin 4) = a := Fin.ext (by simp only; omega)
  have h1 : (⟨(2 * k.val + 1) % 4, Nat.mod_lt _ (by decide)⟩ : Fin 4) = b := Fin.ext (by simp only; omega)
  change execPrpSupervision k s = _
  rw [execPrpSupervision, if_pos hm]
  simp only [List.foldl_cons, List.foldl_nil, h0, h1]
  rw [s.ethOut_both a b _ _ _ _ hua hub h]

theorem prpDuplicate_untaken (f : PrpTrailer) (h : s.u (Obj.INTERFACE.PRP_MODE (p.val / 2)) ≠ 1 ∨ s.eth[p].up = false) :
    exec (.prpDuplicate p f) s = .next s := by
  change execPrpDuplicate p f s = _
  rw [execPrpDuplicate]
  refine congrArg _ (if_neg fun hc => ?_)
  obtain ⟨hm, hup⟩ := hc
  rcases h with h | h
  · exact h hm
  · rw [h] at hup
    cases hup

/-- The state after a partner is heard on a port: the other LAN's identifier marked, and the port's PATH flag. -/
def State.partnerHeard (f : PrpTrailer) : State :=
  ((if f.lan = lanOf p then s else s.setBit (Obj.INTERFACE.PRP_FLAGS (p.val / 2)) Bit.INTERFACE.PRP_FLAGS.WRONG_LAN).modEth p
    (fun e => { e with silent := false })).pathFlag p

theorem prpDuplicate_taken (f : PrpTrailer) (hm : s.u (Obj.INTERFACE.PRP_MODE (p.val / 2)) = 1) (hup : s.eth[p].up = true) :
    exec (.prpDuplicate p f) s = .next (if (seenOf s p).any (sameFrame f) then
      ((s.partnerHeard p f).bump (Obj.ETH_PORT.RX_FRAMES p)).bump (Obj.INTERFACE.PRP_DUP (p.val / 2))
    else (s.partnerHeard p f).modEth (firstPort p) (fun e => { e with seen := ((f, (s.now : Int)) :: seenOf s p).take prpEntries })) := by
  have hlan : (if (f.lan != lanOf p) = true then s.setBit (Obj.INTERFACE.PRP_FLAGS (p.val / 2)) Bit.INTERFACE.PRP_FLAGS.WRONG_LAN else s) =
      if f.lan = lanOf p then s else s.setBit (Obj.INTERFACE.PRP_FLAGS (p.val / 2)) Bit.INTERFACE.PRP_FLAGS.WRONG_LAN := by
    by_cases hl : f.lan = lanOf p <;> simp [hl]
  change execPrpDuplicate p f s = _
  rw [execPrpDuplicate]
  refine congrArg _ ((if_pos ⟨hm, hup⟩).trans ?_)
  simp only [hlan]
  rfl

/-- A frame is a duplicate when an entry that is not forgotten has its source and sequence number. -/
theorem seen_iff (f : PrpTrailer) : (seenOf s p).any (sameFrame f) = true ↔
    ∃ e ∈ s.eth[firstPort p].seen, s.now < e.2 + 1280000000 ∧ e.1.src = f.src ∧ e.1.seq = f.seq := by
  simp only [seenOf, sameFrame, List.any_eq_true, List.mem_filter, Bool.and_eq_true, beq_iff_eq, decide_eq_true_iff, and_assoc]
  rfl

theorem prpPathTimeout_pair (h : s.u (Obj.INTERFACE.PRP_MODE (p.val / 2)) = 1) :
    exec (.prpPathTimeout p) s = .next ((s.modEth p (fun e => { e with silent := true })).pathFlag p) := by
  change execPrpPathTimeout p s = _
  rw [execPrpPathTimeout, if_pos h]

theorem prpPathTimeout_single (h : s.u (Obj.INTERFACE.PRP_MODE (p.val / 2)) ≠ 1) : exec (.prpPathTimeout p) s = .next s := by
  change execPrpPathTimeout p s = _
  rw [execPrpPathTimeout, if_neg h]

/-! ## Answers -/

/-- A received frame counted leaves the port, its interface and the crossing as they are. -/
theorem rxCounted_same : (s.bump (Obj.ETH_PORT.RX_FRAMES p)).u (Obj.INTERFACE.PRP_MODE (p.val / 2)) = s.u (Obj.INTERFACE.PRP_MODE (p.val / 2)) ∧
    refuses (s.bump (Obj.ETH_PORT.RX_FRAMES p)) 6 = refuses s 6 :=
  ⟨State.u_bump_ne _ _ _ (recordKey_ne (by omega) (by decide) (by decide)),
    refuses_counted _ _ _ (by change (0x1100 + p.val) * 256 + 7 < _; omega)⟩

/-- The answer of a port without PRP, behind the count of the frame that asked. -/
theorem answered_single (kind : Nat) (b : List Byte) (hup : s.eth[p].up = true) (hm : s.u (Obj.INTERFACE.PRP_MODE (p.val / 2)) = 0)
    (h : refuses s 6 = false) : (s.bump (Obj.ETH_PORT.RX_FRAMES p)).answerOn p kind b =
      ((s.bump (Obj.ETH_PORT.RX_FRAMES p)).bump (Obj.ETH_PORT.TX_FRAMES p)).emit (.eth p kind b none) := by
  obtain ⟨hmode, hcross⟩ := rxCounted_same s p
  exact State.answerOn_single _ _ _ _ hup (by rw [hmode, hm]; decide) (by rw [hcross, h])

/-- The answer to a request for a port's address (R349). -/
def arpReply (target : BitVec 32) (sender : List Byte) : List Byte :=
  net 2 1 ++ net 2 0x0800 ++ [6, 4] ++ net 2 2 ++ net 6 (portMac s p) ++ net 4 target.toNat ++ padTo 10 sender

theorem arpRequest_answers (target : BitVec 32) (sender : List Byte) (hup : s.eth[p].up = true) (ht : target.toNat = portIpv4 s p)
    (h0 : target ≠ 0) :
    exec (.arpRequest p target sender) s = .next ((s.bump (Obj.ETH_PORT.RX_FRAMES p)).answerOn p 0x0806 (arpReply s p target sender)) := by
  have hne : (target.toNat != 0) = true := by
    rw [bne_iff_ne]
    exact fun h => h0 (BitVec.eq_of_toNat_eq h)
  change execArpRequest p target sender s = _
  rw [execArpRequest]
  refine congrArg _ ((if_pos ?_).trans ?_)
  · rw [hup, beq_iff_eq.mpr ht, hne]
    rfl
  · rfl

theorem arpRequest_other (target : BitVec 32) (sender : List Byte) (hup : s.eth[p].up = true) (ht : target.toNat ≠ portIpv4 s p) :
    exec (.arpRequest p target sender) s = .next (s.bump (Obj.ETH_PORT.RX_FRAMES p)) := by
  change execArpRequest p target sender s = _
  rw [execArpRequest]
  refine congrArg _ ((if_neg ?_).trans (if_pos hup))
  rw [beq_eq_false_iff_ne.mpr ht, hup]
  simp

/-- Both ports of a pair answer, with the interface's next trailer (R347). -/
theorem arpRequest_pair (a b : Fin 4) (target : BitVec 32) (sender : List Byte) (hm : s.u (Obj.INTERFACE.PRP_MODE (p.val / 2)) = 1)
    (ha : a.val = 2 * (p.val / 2)) (hb : b.val = 2 * (p.val / 2) + 1) (hua : s.eth[a].up = true) (hub : s.eth[b].up = true)
    (h : refuses s 6 = false) (ht : target.toNat = portIpv4 s p) (h0 : target ≠ 0) :
    ∃ (u : State) (body : List Byte), exec (.arpRequest p target sender) s = .next u ∧
      u.out = s.out ++ [.eth a 0x0806 body (some s.eth[firstPort p].prpSeq), .eth b 0x0806 body (some s.eth[firstPort p].prpSeq)] ∧
      u.eth[firstPort p].prpSeq = s.eth[firstPort p].prpSeq + 1 ∧
      onlyRegs { s with eth := u.eth, out := u.out } u [Obj.ETH_PORT.RX_FRAMES p, Obj.ETH_PORT.TX_FRAMES a, Obj.ETH_PORT.TX_FRAMES b] := by
  have hup : s.eth[p].up = true := by
    have hp : p = a ∨ p = b := by
      simp only [Fin.ext_iff]
      omega
    rcases hp with rfl | rfl
    · exact hua
    · exact hub
  obtain ⟨hmode, hcross⟩ := rxCounted_same s p
  have hans := State.answerOn_pair (s.bump (Obj.ETH_PORT.RX_FRAMES p)) p a b 0x0806 (arpReply s p target sender) ha hb hua hub
    (by rw [hmode, hm]) (by rw [hcross, h])
  refine ⟨_, arpReply s p target sender, (arpRequest_answers s p target sender hup ht h0).trans (congrArg _ hans), ?_, ?_, ?_⟩
  · exact State.sentBoth_out _ _ _ _ _
  · rw [State.modEth_self]
    rfl
  · exact ((((onlyRegs.refl { s with
      eth := _, out := _ } _).put (by simp) _).put (by simp) _).put (by simp) _)

/-- A neighbor advertisement (R349) of an address and a MAC, with its checksum. -/
theorem advertisement_fields (c addr mac : List Byte) (hc : c.length = 2) (ha : addr.length = 16) :
    (net 2 0x8800 ++ c ++ (net 4 0x60000000 ++ addr ++ net 1 2 ++ net 1 1 ++ mac)).take 2 = [0x88, 0] ∧
    slice (net 2 0x8800 ++ c ++ (net 4 0x60000000 ++ addr ++ net 1 2 ++ net 1 1 ++ mac)) 4 4 = [0x60, 0, 0, 0] ∧
    slice (net 2 0x8800 ++ c ++ (net 4 0x60000000 ++ addr ++ net 1 2 ++ net 1 1 ++ mac)) 8 16 = addr ∧
    (net 2 0x8800 ++ c ++ (net 4 0x60000000 ++ addr ++ net 1 2 ++ net 1 1 ++ mac)).drop 24 = [2, 1] ++ mac := by
  have htype : net 2 0x8800 = [0x88, 0] := by decide
  have hflags : net 4 0x60000000 = [0x60, 0, 0, 0] := by decide
  have hopt : net 1 2 = [2] ∧ net 1 1 = [1] := by decide
  obtain ⟨x, y, rfl⟩ := List.length_eq_two.mp hc
  rw [htype, hflags, hopt.1, hopt.2]
  refine ⟨rfl, rfl, ?_, ?_⟩
  · simp [slice, ha]
  · simp [ha]

theorem neighborSolicitation_answers (target : BitVec 128) (sender : List Byte) (hup : s.eth[p].up = true)
    (hm : s.u (Obj.INTERFACE.PRP_MODE (p.val / 2)) = 0) (ht : net 16 target.toNat = portIpv6 s p) (h0 : target ≠ 0) (h : refuses s 6 = false) :
    ∃ b : List Byte, exec (.neighborSolicitation p target sender) s =
        .next (((s.bump (Obj.ETH_PORT.RX_FRAMES p)).bump (Obj.ETH_PORT.TX_FRAMES p)).emit (.eth p 0x86DD b none)) ∧
      b.take 2 = [0x88, 0] ∧ slice b 4 4 = [0x60, 0, 0, 0] ∧ slice b 8 16 = net 16 target.toNat ∧
      b.drop 24 = [2, 1] ++ net 6 (portMac s p) := by
  have hcond : (s.eth[p].up && net 16 target.toNat == portIpv6 s p && target != 0) = true := by
    rw [hup, beq_iff_eq.mpr ht, bne_iff_ne.mpr h0]
    rfl
  change ∃ b, execNeighborSolicitation p target sender s = _ ∧ _
  exact ⟨_, congrArg _ ((if_pos hcond).trans (answered_single s p _ _ hup hm h)),
    advertisement_fields _ (net 16 target.toNat) _ (net_length 2 _) (net_length 16 _)⟩

/-- The checksum of an echo reply, moved from the request's by the change of type. -/
def echoChecksum (x y : Byte) : Nat := 65535 - fold16 ((65535 - sum16 [x, y]) + (65535 - 8 * 256) + 0 * 256)

theorem icmpEcho_replies (code : Byte) (ck rest : List Byte) (hup : s.eth[p].up = true) (hm : s.u (Obj.INTERFACE.PRP_MODE (p.val / 2)) = 0)
    (hc : ck.length = 2) (h : refuses s 6 = false) :
    ∃ c : List Byte, c.length = 2 ∧ exec (.icmpEcho p (8 :: code :: ck ++ rest)) s =
        .next (((s.bump (Obj.ETH_PORT.RX_FRAMES p)).bump (Obj.ETH_PORT.TX_FRAMES p)).emit (.eth p 0x0800 (0 :: 0 :: c ++ rest) none)) := by
  obtain ⟨x, y, rfl⟩ := List.length_eq_two.mp hc
  refine ⟨net 2 (echoChecksum x y), net_length 2 _, ?_⟩
  have hkind : fromLe ((8 :: code :: [x, y] ++ rest).take 1) = 8 := rfl
  have hck : slice (8 :: code :: [x, y] ++ rest) 2 2 = [x, y] := rfl
  have hrest : (8 :: code :: [x, y] ++ rest).drop 4 = rest := rfl
  have hbody : net 1 0 ++ net 1 0 ++ net 2 (echoChecksum x y) ++ rest = 0 :: 0 :: net 2 (echoChecksum x y) ++ rest := rfl
  change execIcmpEcho p (8 :: code :: [x, y] ++ rest) s = _
  rw [execIcmpEcho]
  simp only [hkind, hck, hrest]
  rw [← hbody]
  exact congrArg _ ((if_pos hup).trans (answered_single s p _ _ hup hm h))

end

end Sys2Proof.Machine

namespace Sys2Proof
open Machine

/-- Settles O36: the conditions of each command are met or not met one by one; a frame that leaves is counted and emitted on the ports that send
for the interface, or kept while the crossing refuses items. -/
theorem ethernetPorts : Obligations.EthernetPorts := by
  refine ⟨anTimeout_runs, startUp_done, ?_, rateTry_next, rateTry_repeats, ?_, ?_, ?_, linkDown_idle, ?_,
    prpSupervision_single, ?_, prpDuplicate_untaken, ?_,
    prpPathTimeout_pair, prpPathTimeout_single, fun _ _ => rfl, ?_, ?_, arpRequest_other, ?_, icmpEcho_replies⟩
  · intro s p rate fec hn hup ha hr hal
    exact ⟨_, anDone_takes s p rate fec hn hup ha hr hal, rfl, State.bit_putBit_self _ _ _ _ (flagBit_lt p _ (by decide)),
      (onlyRegs.refl (s.modEth p _) _).put (by simp) _⟩
  · intro s p
    refine ⟨_, rfl, ?_, ?_, fun han => ?_, s.startUp_rate p, s.startUp_link p, s.startUp_regs p⟩
    · rw [s.startUp_eth p, startPort]
    · rw [s.startUp_eth p, startPort]
    · rw [s.startUp_eth p, startPort, beq_eq_false_iff_ne.mpr han]
      rfl
  · exact fun s p hn hup ha h0 h4 => ⟨risen s p, linkUp_rises s p hn hup ha h0, rfl, risen_rate s p h4, risen_link s p, risen_fec s p,
      risen_regs s p⟩
  · exact fun s p hup hd => ⟨fallen s p, linkDown_falls s p hup, fallen_eth s p, fallen_rate s p, fallen_link s p, fallen_lost s p,
      fallen_counted s p hd, fallen_held s p, rfl, rfl⟩
  · exact fun s ps o hps => ⟨s.leave_refused o hps, s.leave_taken o hps⟩
  · exact fun s k p q hp hq hm hup huq h => ⟨_, prpSupervision_both s k p q hp hq hm hup huq h, s.sentBoth_out p q _ _, s.sentBoth_regs p q _ _⟩
  · rintro s t p f hm hup rfl
    refine ⟨fun hseen => ?_, fun hnew => ?_⟩
    · rw [prpDuplicate_taken s p f hm hup, if_pos ((seen_iff s p f).mpr hseen)]
      rfl
    · rw [prpDuplicate_taken s p f hm hup, if_neg]
      · rfl
      · intro hseen
        obtain ⟨e, he, hage, hsame⟩ := (seen_iff s p f).mp hseen
        exact hnew e he hage hsame
  · exact fun s p target sender hup hm h ht h0 => (arpRequest_answers s p target sender hup ht h0).trans
      (congrArg _ (answered_single s p _ _ hup hm h))
  · exact arpRequest_pair
  · exact neighborSolicitation_answers

end Sys2Proof
end

section
/-! SUPPORT. The PTP clock (R350, R351, R352; Machine/Eth.lean): its best master, the binding to it, its path delay and its Syncs. -/

namespace Sys2Proof.Machine

/-! ## The best master -/

/-- Of two lists of figures only one is lower. -/
theorem rankLess_asymm (x y : List Nat) (h : rankLess x y = true) : rankLess y x = false := by
  induction x, y using rankLess.induct with
  | case1 => rfl
  | case2 => rfl
  | case3 => cases h
  | case4 a r q ih =>
    rw [rankLess, if_pos rfl] at h ⊢
    exact ih h
  | case5 a r b q hab =>
    rw [rankLess, if_neg hab] at h
    rw [rankLess, if_neg (Ne.symm hab)]
    simpa using (of_decide_eq_true h).le

theorem betterMaster_of_lower (a b : Fin 4 × PtpMaster) (h : rankLess (masterRanks a.2 b.2) (masterRanks b.2 a.2) = true) :
    betterMaster a b = true ∧ betterMaster b a = false := by
  have hback := rankLess_asymm _ _ h
  have hne : masterRanks a.2 b.2 ≠ masterRanks b.2 a.2 := by
    intro he
    rw [he] at h hback
    rw [h] at hback
    cases hback
  rw [betterMaster, if_neg hne, betterMaster, if_neg hne.symm]
  exact ⟨h, hback⟩

/-- Masters that compare the same: the lower port is the better. -/
theorem betterMaster_of_port (a b : Fin 4 × PtpMaster) (he : a.2 = b.2) (hp : a.1 < b.1) : betterMaster a b = true ∧ betterMaster b a = false := by
  rw [betterMaster, betterMaster, he, if_pos rfl, if_pos rfl]
  exact ⟨decide_eq_true hp, decide_eq_false (Nat.lt_asymm hp)⟩

theorem bestMaster_pair (a b : Fin 4 × PtpMaster) (h : betterMaster a b = true ∧ betterMaster b a = false) :
    bestMaster [a, b] = some a ∧ bestMaster [b, a] = some a := by
  obtain ⟨hab, hba⟩ := h
  simp [bestMaster, hab, hba]

/-- Of one grandmaster the master with fewer steps removed is the best. -/
theorem bestMaster_steps (a b : Fin 4 × PtpMaster) (hg : a.2.grandmaster = b.2.grandmaster) (hs : a.2.steps.toNat < b.2.steps.toNat) :
    bestMaster [a, b] = some a ∧ bestMaster [b, a] = some a := by
  refine bestMaster_pair a b (betterMaster_of_lower a b ?_)
  rw [masterRanks, if_pos hg, masterRanks, if_pos hg.symm, rankLess, if_neg hs.ne]
  exact decide_eq_true hs

/-- Of two grandmasters PRIORITY1 decides, and the clock class where that is the same. -/
theorem bestMaster_quality (a b : Fin 4 × PtpMaster) (hg : a.2.grandmaster ≠ b.2.grandmaster)
    (hq : a.2.priority1.toNat < b.2.priority1.toNat ∨ (a.2.priority1 = b.2.priority1 ∧ a.2.clockClass.toNat < b.2.clockClass.toNat)) :
    bestMaster [a, b] = some a ∧ bestMaster [b, a] = some a := by
  refine bestMaster_pair a b (betterMaster_of_lower a b ?_)
  rw [masterRanks, if_neg hg, masterRanks, if_neg hg.symm, rankLess]
  rcases hq with hp | ⟨hp, hc⟩
  · rw [if_neg hp.ne]
    exact decide_eq_true hp
  · rw [if_pos (congrArg _ hp), rankLess, if_neg hc.ne]
    exact decide_eq_true hc

section
variable (s : State) (p : Fin 4)

/-- A byte string reads as it was put. -/
theorem State.blob_putBlob_self (k : Nat) (v : List Byte) : (s.putBlob k v).blob k = v := by
  simp [State.blob, State.putBlob, blobSet, blobOf]

/-! ## Loss of the source and the binding -/

theorem State.ptpLose_unused (h : s.ep.ptpUsable = false) : s.ptpLose = s := by
  rw [State.ptpLose, if_neg (by rw [h]; simp)]

theorem State.ptpLose_used (h : s.ep.ptpUsable = true) :
    s.ptpLose = (({ s with ep := { s.ep with ptpUsable := false } }).bump Obj.PTP.LOSSES).ppsFlag := by
  rw [State.ptpLose, if_pos h]

/-- A lost source is not usable; its loss is counted where it was, and PPS_UNLABELLED follows (R19). -/
theorem State.ptpLose_ep : s.ptpLose.ep = { s.ep with ptpUsable := false } := by
  cases h : s.ep.ptpUsable with
  | false => rw [s.ptpLose_unused h, ← h]
  | true => rw [s.ptpLose_used h]; rfl

theorem State.ptpLose_regs : onlyRegs { s with ep := s.ptpLose.ep } s.ptpLose [Obj.PTP.LOSSES, Obj.EPOCH.FLAGS] := by
  cases h : s.ep.ptpUsable with
  | false => rw [s.ptpLose_unused h]; exact onlyRegs.refl s _
  | true =>
    rw [s.ptpLose_used h]
    exact ((onlyRegs.refl { s with ep := { s.ep with ptpUsable := false } } _).put (by simp) _).put (by simp) _

/-- The clock's state without a master or a measurement of its own. -/
def PtpPart.unmeasured (t : PtpPart) (b : Option (Fin 4)) : PtpPart := { t with bound := b, measured := false, missing := 0, sync := none }

theorem State.ptpBind_best (e : Fin 4 × PtpMaster) (hb : bestMaster s.ptp.heard = some e) (hn : s.ptp.bound = none) :
    s.ptpBind = (((({ s.ptpLose with ptp := s.ptp.unmeasured (some e.1) }).put Obj.PTP.PTP_PORT e.1).putBlob Obj.PTP.MASTER_ID
      (net 8 e.2.identity.toNat)).put Obj.PTP.PTP_STATE 2) := by
  rw [State.ptpBind, hb]
  refine if_neg fun hc => ?_
  rw [hn] at hc
  cases hc.1

theorem State.ptpBind_unheard (hb : s.ptp.heard = []) (hs : s.u Obj.PTP.PTP_STATE ≠ 0) :
    s.ptpBind = ((({ s.ptpLose with ptp := s.ptp.unmeasured none }).put Obj.PTP.PTP_PORT 0xFF).putBlob Obj.PTP.MASTER_ID (List.replicate 8 0)).put
      Obj.PTP.PTP_STATE 1 := by
  rw [State.ptpBind, hb]
  refine if_neg ?_
  change ((({ s.ptpLose with ptp := s.ptp.unmeasured none }).put Obj.PTP.PTP_PORT 0xFF)).u Obj.PTP.PTP_STATE ≠ 0
  rw [State.u_put_ne _ _ _ _ (by decide)]
  change s.ptpLose.u Obj.PTP.PTP_STATE ≠ 0
  rw [s.ptpLose_regs.2 _ (by decide)]
  exact hs

/-! ## Announce -/

theorem ptpAnnounce_down (m : PtpMaster) (h : s.eth[p].up = false) : exec (.ptpAnnounce p m) s = .next s := by
  change execPtpAnnounce p m s = _
  rw [execPtpAnnounce]
  exact congrArg _ (if_pos (by rw [h]; rfl))

theorem ptpAnnounce_foreign (m : PtpMaster) (hup : s.eth[p].up = true) (h : s.u Obj.PTP.PTP_STATE = 0 ∨
    s.bit Obj.EPOCH_SOURCE.PTP_PORTMASK p = false ∨ m.domain.toNat ≠ s.u Obj.PTP.DOMAIN ∨ m.transport.toNat ≠ s.u Obj.PTP.TRANSPORT) :
    exec (.ptpAnnounce p m) s = .next (s.bump (Obj.ETH_PORT.RX_FRAMES p)) := by
  have hours : s.u Obj.PTP.PTP_STATE = 0 ∨ s.bit Obj.EPOCH_SOURCE.PTP_PORTMASK p = false ∨ !ptpOurs s m.domain m.transport := by
    refine h.imp_right (Or.imp_right fun h => ?_)
    rcases h with h | h <;> simp [ptpOurs, h]
  change execPtpAnnounce p m s = _
  rw [execPtpAnnounce]
  exact congrArg _ ((if_neg (by rw [hup]; simp)).trans (if_pos hours))

/-- A state whose clock has heard one master. -/
def heardFirst (m : PtpMaster) : State := { s.bump (Obj.ETH_PORT.RX_FRAMES p) with ptp := { s.ptp with heard := [(p, m)] } }

/-- The first master heard is the one the clock binds to. -/
theorem ptpAnnounce_first (m : PtpMaster) (hup : s.eth[p].up = true) (hs : s.u Obj.PTP.PTP_STATE ≠ 0)
    (hm : s.bit Obj.EPOCH_SOURCE.PTP_PORTMASK p = true) (ho : ptpOurs s m.domain m.transport = true) (hh : s.ptp.heard = []) :
    exec (.ptpAnnounce p m) s = .next (heardFirst s p m).ptpBind := by
  change execPtpAnnounce p m s = _
  rw [execPtpAnnounce]
  refine congrArg _ ((if_neg (by rw [hup]; simp)).trans ((if_neg ?_).trans ?_))
  · rw [hm, ho]
    simp [hs]
  · change State.ptpBind { s.bump (Obj.ETH_PORT.RX_FRAMES p) with ptp := { s.ptp with heard := (p, m) :: s.ptp.heard.filter _ } } = _
    rw [hh]
    rfl

theorem ptpAnnounce_binds (m : PtpMaster) (hup : s.eth[p].up = true) (hs : s.u Obj.PTP.PTP_STATE ≠ 0)
    (hm : s.bit Obj.EPOCH_SOURCE.PTP_PORTMASK p = true) (ho : ptpOurs s m.domain m.transport = true) (hh : s.ptp.heard = [])
    (hn : s.ptp.bound = none) (hu : s.ep.ptpUsable = false) :
    ∃ u : State, exec (.ptpAnnounce p m) s = .next u ∧
      u.ptp = { s.ptp with heard := [(p, m)], bound := some p, measured := false, missing := 0, sync := none } ∧
      u.u Obj.PTP.PTP_PORT = p.val ∧ u.blob Obj.PTP.MASTER_ID = net 8 m.identity.toNat ∧ u.u Obj.PTP.PTP_STATE = 2 ∧ u.ep = s.ep ∧
      regsKept s u [Obj.ETH_PORT.RX_FRAMES p, Obj.PTP.PTP_PORT, Obj.PTP.PTP_STATE] := by
  have hbind := State.ptpBind_best (heardFirst s p m) (p, m) rfl hn
  rw [State.ptpLose_unused (heardFirst s p m) hu] at hbind
  refine ⟨_, (ptpAnnounce_first s p m hup hs hm ho hh).trans (congrArg _ hbind), rfl, ?_, ?_, State.u_put_of_lt _ _ _ (by decide), rfl, ?_⟩
  · rw [State.u_put_ne _ _ _ _ (by decide)]
    exact State.u_put_of_lt _ _ _ (show p.val < 2 ^ 8 by omega)
  · exact State.blob_putBlob_self _ _ _
  · exact ((((regsKept.refl s _).put (by simp) _).put (by simp) _).of_regs rfl).put (by simp) _

/-! ## The path delay -/

theorem pathDelay_slave (m : PathDelayMsg) (d : Int) (hb : s.ptp.bound = some p) (hd : pathTwice s m = some d) :
    exec (.pathDelayMeasurement p m) s = .next ((({ s.askDelay p with ptp := { (s.askDelay p).ptp with measured := true } }).puti
      Obj.PTP.MEAN_PATH_DELAY (freeRound (d * 125) 16384)).put Obj.PTP.PTP_STATE 3) := by
  change execPathDelayMeasurement p m s = _
  rw [execPathDelayMeasurement, hb, hd]
  exact congrArg _ (if_pos rfl)

theorem pathDelay_unbound (m : PathDelayMsg) (hb : s.ptp.bound ≠ some p) : exec (.pathDelayMeasurement p m) s = .next s := by
  change execPathDelayMeasurement p m s = _
  rw [execPathDelayMeasurement]
  cases hq : s.ptp.bound with
  | none => rfl
  | some q =>
    have hne : q ≠ p := fun e => hb (hq.trans (congrArg some e))
    cases pathTwice s m with
    | none => rfl
    | some d => exact congrArg _ (if_neg hne)

theorem pathDelay_unsynced (m : PathDelayMsg) (hd : pathTwice s m = none) : exec (.pathDelayMeasurement p m) s = .next s := by
  change execPathDelayMeasurement p m s = _
  rw [execPathDelayMeasurement, hd]
  cases s.ptp.bound <;> rfl

theorem pathTwice_peer (m : PathDelayMsg) (h : s.u Obj.PTP.DELAY_MECH = 1) :
    pathTwice s m = some (ptpTime m.back - ptpTime m.sent - scaled m.turn - m.corr) := if_pos h

theorem pathTwice_sync (m : PathDelayMsg) (h : s.u Obj.PTP.DELAY_MECH ≠ 1) :
    pathTwice s m = s.ptp.sync.map (fun y => syncLag y + (scaled m.arrival - ptpTime m.sent - m.corr)) := if_neg h

theorem State.askDelay_leaves (hup : s.eth[p].up = true) (h : refuses s 6 = false) :
    s.askDelay p = { (s.bump (Obj.ETH_PORT.TX_FRAMES p)).emit (.eth p (ptpKind s) (delayRequest s p) none) with
      ptp := { s.ptp with request := s.ptp.request + 1 } } := by
  rw [State.askDelay, s.ethOut_up p _ _ none hup h]
  rfl

/-! ## Sync -/

theorem ptpSync_down (m : PtpSyncMsg) (h : s.eth[p].up = false) : exec (.ptpSync p m) s = .next s := by
  change execPtpSync p m s = _
  rw [execPtpSync]
  exact congrArg _ (if_pos (by rw [h]; rfl))

theorem ptpSync_foreign (m : PtpSyncMsg) (hup : s.eth[p].up = true) (ho : ptpOurs s m.domain m.transport = false) :
    exec (.ptpSync p m) s = .next (s.bump (Obj.ETH_PORT.RX_FRAMES p)) := by
  change execPtpSync p m s = _
  rw [execPtpSync]
  exact congrArg _ ((if_neg (by rw [hup]; simp)).trans (if_pos (.inr (by rw [ho]; rfl))))

/-- The state after a Sync of the clock's master is counted and taken. -/
def synced (m : PtpSyncMsg) : State := { s.bump (Obj.ETH_PORT.RX_FRAMES p) with ptp := { s.ptp with missing := 0, sync := some m } }

theorem synced_state (m : PtpSyncMsg) : (synced s p m).u Obj.PTP.PTP_STATE = s.u Obj.PTP.PTP_STATE :=
  State.u_bump_ne s _ _ (recordKey_ne (by omega) (by decide) (by decide))

theorem ptpSync_taken (m : PtpSyncMsg) (hup : s.eth[p].up = true) (hb : s.ptp.bound = some p) (ho : ptpOurs s m.domain m.transport = true) :
    exec (.ptpSync p m) s = .next (if (synced s p m).u Obj.PTP.PTP_STATE = 3 ∧ s.ptp.measured = true then
      ({ synced s p m with ep := { s.ep with ptpUsable := true, ptpOffset := syncOffset s m } }).ppsFlag.measure 1 (syncOffset s m)
    else synced s p m) := by
  change execPtpSync p m s = _
  rw [execPtpSync]
  refine congrArg _ ((if_neg (by rw [hup]; simp)).trans ((if_neg ?_).trans rfl))
  rw [hb, ho]
  simp

theorem ptpSync_unmeasured (m : PtpSyncMsg) (hup : s.eth[p].up = true) (hb : s.ptp.bound = some p) (ho : ptpOurs s m.domain m.transport = true)
    (h : s.u Obj.PTP.PTP_STATE ≠ 3 ∨ s.ptp.measured = false) : exec (.ptpSync p m) s = .next (synced s p m) := by
  rw [ptpSync_taken s p m hup hb ho, synced_state, if_neg]
  rintro ⟨hs, hm⟩
  rcases h with h | h
  · exact h hs
  · rw [h] at hm
    cases hm

theorem ptpSync_usable (m : PtpSyncMsg) (hup : s.eth[p].up = true) (hb : s.ptp.bound = some p) (ho : ptpOurs s m.domain m.transport = true)
    (hs : s.u Obj.PTP.PTP_STATE = 3) (hm : s.ptp.measured = true) : exec (.ptpSync p m) s =
      .next (({ synced s p m with ep := { s.ep with ptpUsable := true, ptpOffset := syncOffset s m } }).ppsFlag.measure 1 (syncOffset s m)) := by
  rw [ptpSync_taken s p m hup hb ho, synced_state, if_pos ⟨hs, hm⟩]

/-! ## Missing messages -/

theorem ptpTimeouts_unbound (h : s.ptp.bound = none) : exec .announceReceiptTimeout s = .next s ∧ exec .syncMissed s = .next s := by
  constructor
  · change execAnnounceReceiptTimeout s = _
    rw [execAnnounceReceiptTimeout, h]
  · change execSyncMissed s = _
    rw [execSyncMissed, h]

/-- A state whose clock has lost its only master. -/
def unheard : State := ({ s with ptp := { s.ptp with heard := [] } }).ptpLose

theorem announceReceiptTimeout_only (m : PtpMaster) (hb : s.ptp.bound = some p) (hh : s.ptp.heard = [(p, m)])
    (hi : s.blob Obj.PTP.MASTER_ID = net 8 m.identity.toNat) : exec .announceReceiptTimeout s = .next (unheard s).ptpBind := by
  change execAnnounceReceiptTimeout s = _
  rw [execAnnounceReceiptTimeout, hb, hh]
  refine congrArg _ ?_
  simp only [hi, beq_self_eq_true, Bool.and_self, Bool.not_true, Bool.false_eq_true, not_false_eq_true, List.filter_cons_of_neg, List.filter_nil]
  rfl

theorem announceReceiptTimeout_loses (m : PtpMaster) (hb : s.ptp.bound = some p) (hh : s.ptp.heard = [(p, m)])
    (hi : s.blob Obj.PTP.MASTER_ID = net 8 m.identity.toNat) (hs : s.u Obj.PTP.PTP_STATE ≠ 0) :
    ∃ u : State, exec .announceReceiptTimeout s = .next u ∧
      u.ptp = { s.ptp with heard := [], bound := none, measured := false, missing := 0, sync := none } ∧
      u.ep = { s.ep with ptpUsable := false } ∧ u.u Obj.PTP.PTP_STATE = 1 ∧ u.u Obj.PTP.PTP_PORT = 0xFF ∧
      regsKept s u [Obj.PTP.LOSSES, Obj.PTP.PTP_PORT, Obj.PTP.PTP_STATE, Obj.EPOCH.FLAGS] := by
  have hlost := State.ptpLose_regs { s with ptp := { s.ptp with heard := [] } }
  have hep : (unheard s).ep = { s.ep with ptpUsable := false } := State.ptpLose_ep _
  have hptp : (unheard s).ptp = { s.ptp with heard := [] } := congrArg State.ptp hlost.1
  have hbind := State.ptpBind_unheard (unheard s) (congrArg PtpPart.heard hptp) (fun h => hs ((hlost.2 _ (by decide)).symm.trans h))
  rw [State.ptpLose_unused (unheard s) (congrArg EpochPart.ptpUsable hep), hptp] at hbind
  refine ⟨_, (announceReceiptTimeout_only s p m hb hh hi).trans (congrArg _ hbind), rfl, hep, State.u_put_of_lt _ _ _ (by decide), ?_, ?_⟩
  · rw [State.u_put_ne _ _ _ _ (by decide)]
    exact State.u_put_of_lt _ _ _ (by decide)
  · have hkept : regsKept s (unheard s) [Obj.PTP.LOSSES, Obj.PTP.PTP_PORT, Obj.PTP.PTP_STATE, Obj.EPOCH.FLAGS] := hlost.2.mono (by simp)
    exact ((((hkept.of_regs rfl).put (by simp) _).of_regs rfl).put (by simp) _)

/-- A state in which one more Sync is missing. -/
def syncLess : State := ({ s with ptp := { s.ptp with missing := min 8 (s.ptp.missing + 1) } }).bump Obj.PTP.SYNC_MISSED

theorem syncMissed_counts (hb : s.ptp.bound = some p) :
    exec .syncMissed s = .next (if 8 ≤ min 8 (s.ptp.missing + 1) then (syncLess s).ptpLose else syncLess s) := by
  change execSyncMissed s = _
  rw [execSyncMissed, hb]
  rfl

theorem syncMissed_few (hb : s.ptp.bound = some p) (h : s.ptp.missing < 7) :
    exec .syncMissed s = .next (({ s with ptp := { s.ptp with missing := s.ptp.missing + 1 } }).bump Obj.PTP.SYNC_MISSED) := by
  rw [syncMissed_counts s p hb, if_neg (by omega), syncLess, Nat.min_eq_right (by omega)]

/-- The eighth Sync missing in a row loses the source. -/
theorem syncMissed_eighth (hb : s.ptp.bound = some p) (h : s.ptp.missing = 7) :
    ∃ u : State, exec .syncMissed s = .next u ∧ u.ep = { s.ep with ptpUsable := false } ∧ u.ptp = { s.ptp with missing := 8 } ∧
      onlyRegs { s with ep := u.ep, ptp := u.ptp } u [Obj.PTP.SYNC_MISSED, Obj.PTP.LOSSES, Obj.EPOCH.FLAGS] := by
  have hlost := State.ptpLose_regs (syncLess s)
  have hptp : (syncLess s).ptpLose.ptp = (syncLess s).ptp := by rw [hlost.1]
  have hmissing : (syncLess s).ptp = { s.ptp with missing := 8 } := by
    change { s.ptp with missing := min 8 (s.ptp.missing + 1) } = _
    rw [h]
    rfl
  refine ⟨(syncLess s).ptpLose, ?_, State.ptpLose_ep _, hptp.trans hmissing, ?_, ?_⟩
  · rw [syncMissed_counts s p hb, h]
    rfl
  · rw [hptp]
    exact hlost.1
  · have hcounted : regsKept s (syncLess s) [Obj.PTP.SYNC_MISSED, Obj.PTP.LOSSES, Obj.EPOCH.FLAGS] :=
      ((regsKept.refl s _).of_regs rfl).put (by simp) _
    exact hcounted.trans (hlost.2.mono (by simp))

end

end Sys2Proof.Machine

namespace Sys2Proof
open Machine

/-- Settles O37: masters compare by the first figure in which they differ; a message is taken or counted only by its port, domain and transport; and
each binding, and each loss of the source, starts from a clock without a measurement. -/
theorem ptpClock : Obligations.PtpClock := by
  refine ⟨fun s p m o hup => ⟨ptpAnnounce_down s p m hup, ptpSync_down s p o hup⟩, ptpAnnounce_foreign, ptpAnnounce_binds, ?_,
    bestMaster_quality,
    fun a b he hp => bestMaster_pair a b (betterMaster_of_port a b he hp), ?_, State.askDelay_leaves, pathDelay_unbound, ?_, ptpSync_unmeasured, ?_,
    ptpSync_foreign, ptpTimeouts_unbound, announceReceiptTimeout_loses, syncMissed_few, fun s p hb h _ => syncMissed_eighth s p hb h⟩
  · exact fun a b hg hs => ⟨(bestMaster_steps a b hg hs).1, (bestMaster_steps a b hg hs).2, rfl⟩
  · rintro s p m d hb (⟨hmech, rfl⟩ | ⟨hmech, y, hy, rfl⟩)
    · exact pathDelay_slave s p m _ hb (pathTwice_peer s m hmech)
    · exact pathDelay_slave s p m _ hb (by rw [pathTwice_sync s m hmech, hy]; rfl)
  · exact fun s p m hmech hy => pathDelay_unsynced s p m (by rw [pathTwice_sync s m hmech, hy]; rfl)
  · rintro s p m o hup hb ho hs hm rfl
    exact ⟨{ synced s p m with ep := { s.ep with ptpUsable := true, ptpOffset := syncOffset s m } }, ptpSync_usable s p m hup hb ho hs hm, rfl, rfl,
      (onlyRegs.refl { s with ep := _, ptp := _ } _).put (by simp) _⟩

end Sys2Proof
end

section
/-! SUPPORT. SUBSCRIBE and the other control datagrams of a stream, and a stream's close (R359 to R361, R364, R406; Machine/Streams.lean). -/

namespace Sys2Proof.Machine

/-! ## What a frame that leaves does not touch -/

/-- A state without its registers and without what waits for or has left by the ports. -/
def State.unsent (s : State) : State := { s with regs := [], eth := Vector.replicate 4 {}, netHeld := [], out := [] }

theorem State.mem_of_unsent {s t : State} (h : t.unsent = s.unsent) : t.mem = s.mem := congrArg (fun u => u.mem) h
theorem State.streams_of_unsent {s t : State} (h : t.unsent = s.unsent) : t.streams = s.streams := congrArg (fun u => u.streams) h
theorem State.bale_of_unsent {s t : State} (h : t.unsent = s.unsent) : t.bale = s.bale := congrArg (fun u => u.bale) h
theorem State.ledger_of_unsent {s t : State} (h : t.unsent = s.unsent) : t.ledger = s.ledger := congrArg (fun u => u.ledger) h

theorem State.unsent_counted (s : State) (qs : List (Fin 4)) : (qs.foldl (fun t q => t.bump (Obj.ETH_PORT.TX_FRAMES q)) s).unsent = s.unsent := by
  induction qs generalizing s with
  | nil => rfl
  | cons q qs ih => exact ih (s.bump (Obj.ETH_PORT.TX_FRAMES q))

theorem State.unsent_sentOn (s : State) (qs : List (Fin 4)) (o : Out) : (s.sentOn qs o).unsent = s.unsent := by
  rw [State.sentOn]
  split
  · rfl
  · exact s.unsent_counted qs

theorem State.unsent_sendOn (s : State) (p : Nat) (f : Option (BitVec 16) → Out) : (s.sendOn p f).unsent = s.unsent := by
  have hleave : (s.leave (sendingPorts s p) (f (rctOf s p))).unsent = s.unsent := by
    rw [State.leave]
    split
    · rfl
    · exact s.unsent_sentOn _ _
  rw [State.sendOn, State.nextRct]
  split
  · exact hleave
  · exact hleave

theorem State.unsent_sendControl (s : State) (p : Path) (d : List Byte) : (s.sendControl p d).unsent = s.unsent := by
  cases p with
  | udp a q port => exact s.unsent_sendOn _ _
  | can c => rfl
  | fwd a b => rfl

/-! ## Sources that are not limited (R406) -/

theorem State.served_unlimited (s : State) (x : Source) (h : (sourceRec s x).limited = false) : s.served x = true := by
  rw [State.served, h]
  rfl

theorem State.serve_unlimited (s : State) (l : List Source) (h : ∀ x ∈ l, (sourceRec s x).limited = false) : s.serve l = s := by
  rw [State.serve]
  induction l with
  | nil => rfl
  | cons x l ih =>
    rw [List.foldl_cons, if_neg (by rw [h x List.mem_cons_self]; simp)]
    exact ih fun y hy => h y (List.mem_cons_of_mem _ hy)

theorem State.all_served (s : State) (l : List Source) (h : ∀ x ∈ l, (sourceRec s x).limited = false) : l.all s.served = true :=
  List.all_eq_true.mpr fun x hx => s.served_unlimited x (h x hx)

/-! ## SUBSCRIBE -/

section
variable (s : State) (p : Fin 4) (src : Path) (m : Haggle) (d : List Byte)

theorem subscribe_down (h : s.eth[p].up = false) : exec (.subscribe p src m d) s = .next s := by
  change execSubscribe p src m d s = _
  rw [execSubscribe]
  exact congrArg _ (if_pos (by rw [h]; rfl))

/-- A SUBSCRIBE of sources that are not limited meets the state with its frame counted. -/
theorem subscribe_heard (hup : s.eth[p].up = true) (hl : ∀ x ∈ sourcesOf src m.session, (sourceRec s x).limited = false) :
    exec (.subscribe p src m d) s = .next (match subscriber (s.bump (Obj.ETH_PORT.RX_FRAMES p)) src m d with
      | none => (s.bump (Obj.ETH_PORT.RX_FRAMES p)).refuseStream src m 0x0503 0 none
      | some x =>
        let t := (s.bump (Obj.ETH_PORT.RX_FRAMES p)).modSession x.id (fun y => { y with last := s.now })
        match grantedBefore t m with
        | some k => t.sendControl src t.streams[k].grant
        | none => match judge t p src m x, freeStream t with
          | .inl toll, some k => t.grantStream k p src m toll x
          | .inr e, _ => t.refuseStream src m e.1 e.2 (some x.id)
          | .inl _, none => t.refuseStream src m 0x0601 0 (some x.id)) := by
  have hall : (sourcesOf src m.session).all (s.bump (Obj.ETH_PORT.RX_FRAMES p)).served = true := State.all_served _ _ hl
  have hserve : (s.bump (Obj.ETH_PORT.RX_FRAMES p)).serve (sourcesOf src m.session) = s.bump (Obj.ETH_PORT.RX_FRAMES p) :=
    State.serve_unlimited _ _ hl
  change execSubscribe p src m d s = _
  rw [execSubscribe]
  refine congrArg _ ((if_neg (by rw [hup]; simp)).trans ((if_neg (by rw [hall]; simp)).trans ?_))
  simp only [hserve]
  rfl

theorem subscribe_unknown (hup : s.eth[p].up = true) (hl : ∀ x ∈ sourcesOf src m.session, (sourceRec s x).limited = false)
    (hx : sessionById s m.session = none) :
    exec (.subscribe p src m d) s = .next ((s.bump (Obj.ETH_PORT.RX_FRAMES p)).refuseStream src m 0x0503 0 none) := by
  have hsession : sessionById (s.bump (Obj.ETH_PORT.RX_FRAMES p)) m.session = none := hx
  have hnone : subscriber (s.bump (Obj.ETH_PORT.RX_FRAMES p)) src m d = none := by
    rw [subscriber, hsession]
  rw [subscribe_heard s p src m d hup hl, hnone]

theorem subscribe_refused (t : State) (x : Session) (code avail : Nat) (hup : s.eth[p].up = true)
    (hl : ∀ y ∈ sourcesOf src m.session, (sourceRec s y).limited = false)
    (ht : t = (s.bump (Obj.ETH_PORT.RX_FRAMES p)).modSession x.id (fun y => { y with last := s.now }))
    (hx : subscriber (s.bump (Obj.ETH_PORT.RX_FRAMES p)) src m d = some x) (hg : grantedBefore t m = none)
    (hj : judge t p src m x = .inr (code, avail)) :
    exec (.subscribe p src m d) s = .next (t.refuseStream src m code avail (some x.id)) := by
  rw [subscribe_heard s p src m d hup hl, hx]
  simp only [← ht, hg, hj]

theorem subscribe_granted (t : State) (x : Session) (k : Fin 256) (toll : Nat) (hup : s.eth[p].up = true)
    (hl : ∀ y ∈ sourcesOf src m.session, (sourceRec s y).limited = false)
    (ht : t = (s.bump (Obj.ETH_PORT.RX_FRAMES p)).modSession x.id (fun y => { y with last := s.now }))
    (hx : subscriber (s.bump (Obj.ETH_PORT.RX_FRAMES p)) src m d = some x) (hg : grantedBefore t m = none) (hj : judge t p src m x = .inl toll)
    (hf : freeStream t = some k) : exec (.subscribe p src m d) s = .next (t.grantStream k p src m toll x) := by
  rw [subscribe_heard s p src m d hup hl, hx]
  simp only [← ht, hg, hj, hf]

end

section
variable (s : State) (p : Nat) (src : Path) (m : Haggle)

theorem judge_level (x : Session) (h : x.level < 1) : judge s p src m x = .inr (0x0201, 0) := if_pos h

theorem judge_fields (x : Session) (h : 1 ≤ x.level) (hg : haggleGood m = false) : judge s p src m x = .inr (0x0302, 0) :=
  (if_neg (Nat.not_lt.mpr h)).trans (if_pos (.inl (by rw [hg]; rfl)))

theorem grant_little (most : Nat) (hm : most = largestToll s p 256 m.maxDgram.toNat (lineOverhead (net 16 (destOf src m).toNat)))
    (ht : most < m.toll.toNat) (hmin : most < m.tollMin.toNat) : grant s p src m = .inr (0x0601, most) := by
  subst hm
  exact if_pos ⟨(Nat.min_le_right _ _).trans_lt ht, (Nat.min_le_right _ _).trans_lt hmin⟩

theorem grant_fits (most : Nat) (hm : most = largestToll s p 256 m.maxDgram.toNat (lineOverhead (net 16 (destOf src m).toNat)))
    (ht : m.toll.toNat ≤ most ∨ m.tollMin.toNat ≤ most) (hf : freeStream s ≠ none) (hq : queuesFit s 256 (min m.toll.toNat most) 20 = true) :
    grant s p src m = .inl (min m.toll.toNat most) := by
  have hroom : ¬(min m.toll.toNat most < m.toll.toNat ∧ min m.toll.toNat most < m.tollMin.toNat) := by omega
  have hfree : ¬((freeStream s).isNone = true ∨ (!queuesFit s 256 (min m.toll.toNat most) 20) = true) := by
    rw [hq]
    simpa using hf
  subst hm
  exact (if_neg hroom).trans (if_neg hfree)

end

/-! ## The other control datagrams -/

section
variable (s : State) (k : Fin 256) (src : Path) (d : List Byte)

theorem controller_closed (h : s.streams[k].isOpen = false) : controller s k src d = none := if_pos (by rw [h]; rfl)

theorem controller_subscribed (y : Session) (ho : s.streams[k].isOpen = true) (hb : s.streams[k].bySubscribe = true)
    (hy : sessionById s s.streams[k].session = some y) : controller s k src d =
      if y.path.same src && y.authed && dgramTag y (d.take (d.length - 16)) == d.drop (d.length - 16) then some (some y) else none := by
  refine (if_neg (by rw [ho]; simp)).trans ((if_pos hb).trans ?_)
  rw [hy]

theorem controller_ledger (a : BitVec 128) (q : BitVec 16) (p : Fin 4) (ho : s.streams[k].isOpen = true) (hb : s.streams[k].bySubscribe = false) :
    controller s k (.udp a q p) d = if net 16 a.toNat == padTo 16 (s.blob (Obj.STREAM.DEST k)) then some none else none :=
  (if_neg (by rw [ho]; simp)).trans (if_neg (by rw [hb]; simp))

variable (good : Bool) (act : State → State)

/-- A control datagram of a source that is not served waits. -/
theorem State.control_waits (h : ∃ x ∈ sourcesOf src (controlSession s k), s.served x = false) : s.control k src d good act = s := by
  have hall : (sourcesOf src (controlSession s k)).all s.served = false := by
    obtain ⟨x, hx, hs⟩ := h
    exact List.all_eq_false.mpr ⟨x, hx, by rw [hs]; simp⟩
  exact if_pos (by rw [hall]; rfl)

section
variable (hl : ∀ x ∈ sourcesOf src (controlSession s k), (sourceRec s x).limited = false)
include hl

theorem State.control_heard : s.control k src d good act = match controller s k src d with
    | some y => if good then act (match y with
        | some z => s.modSession z.id (fun w => { w with last := s.now })
        | none => s) else s.violate 15 src none 0
    | none => s.violate 15 src none 0 := by
  refine (if_neg (by rw [s.all_served _ hl]; simp)).trans ?_
  simp only [s.serve_unlimited _ hl] <;> rfl

theorem State.control_stranger (hc : controller s k src d = none) : s.control k src d good act = s.violate 15 src none 0 := by
  rw [s.control_heard k src d good act hl, hc]

/-- A control datagram that does not fit its stream's kind is a violation, whoever sends it. -/
theorem State.control_bad : s.control k src d false act = s.violate 15 src none 0 := by
  rw [s.control_heard k src d false act hl]
  cases controller s k src d <;> rfl

theorem State.control_session (y : Session) (hc : controller s k src d = some (some y)) :
    s.control k src d true act = act (s.modSession y.id (fun w => { w with last := s.now })) := by
  rw [s.control_heard k src d true act hl, hc]
  rfl

theorem State.control_ledger (hc : controller s k src d = some none) : s.control k src d true act = act s := by
  rw [s.control_heard k src d true act hl, hc]
  rfl

end

theorem streamKeepalive_eq (req : BitVec 32) : exec (.streamKeepalive src k req d) s =
    .next (s.control k src d (s.streams[k].bySubscribe && s.streams[k].req == req) id) := rfl

theorem credit_eq (n : BitVec 16) : exec (.credit src k n d) s =
    .next (s.control k src d true (fun t => t.modStream k (fun x => { x with credit := min 65535 (x.credit + n.toNat) }))) := rfl

theorem streamClose_eq : exec (.streamClose src k d) s = .next (s.control k src d s.streams[k].bySubscribe (fun t => t.endStream k)) := rfl

theorem streamViolation_unlimited (b : List Byte) (h : (sourceRec s (sourceOf src)).limited = false) :
    exec (.streamViolation src b) s = .next (s.violate 15 src none 0) := by
  change execStreamViolation src b s = _
  rw [execStreamViolation, if_pos (s.served_unlimited _ h), s.serve_unlimited _ (by simpa using h)]

end

/-! ## A stream's end -/

section
variable (s : State) (k : Fin 256)

theorem State.endStream_open (h : s.streams[k].isOpen = true) : s.endStream k = (s.closeStream k).mirrorStream k := if_pos h

theorem leaseExpiry_ends (h : s.streams[k].isOpen = true) (hl : s.u (Obj.STREAM.LEASE k) ≠ 0) :
    exec (.leaseExpiry k) s = .next ((s.closeStream k).mirrorStream k) := by
  change execLeaseExpiry k s = _
  rw [execLeaseExpiry, if_pos (by rw [h, bne_iff_ne.mpr hl]; rfl), s.endStream_open k h]

theorem leaseExpiry_closed (h : s.streams[k].isOpen = false) : exec (.leaseExpiry k) s = .next s := by
  change execLeaseExpiry k s = _
  rw [execLeaseExpiry, if_neg (by rw [h]; simp)]

/-- A state whose stream has been told of its end and given up its bales and its part of the engine. -/
def State.streamLeft : State :=
  let t := if s.streams[k].bySubscribe then s.sendControl s.streams[k].peer (streamHeader s 8 0 k s.streams[k].req.toNat 0 0 0 0 0) else s
  ({ t with bale := { t.bale with waiting := t.bale.waiting.filter (fun b => b.stream != k) } }).modStream k (fun _ => {})

theorem State.streamLeft_unsent : (s.streamLeft k).unsent =
    (({ s with bale := { s.bale with waiting := s.bale.waiting.filter (fun b => b.stream != k) } }).modStream k (fun _ => {})).unsent := by
  have htold : (if s.streams[k].bySubscribe then
      s.sendControl s.streams[k].peer (streamHeader s 8 0 k s.streams[k].req.toNat 0 0 0 0 0) else s).unsent = s.unsent := by
    split
    · exact s.unsent_sendControl _ _
    · rfl
  exact congrArg (fun t : State => ({ t with bale := { t.bale with waiting := t.bale.waiting.filter (fun b => b.stream != k) } }).modStream k
    (fun _ => {})) htold

/-- The record of a closed stream: what it held is 0. -/
def State.streamZeroed (t : State) : State :=
  (((((((t.put (Obj.STREAM.ENABLE k) 0).put (Obj.STREAM.LEASE k) 0).put (Obj.STREAM.TWIN k) 0).put (Obj.STREAM.SSTATE k) 0).put
    (Obj.STREAM.BACKLOG k) 0).put (Obj.STREAM.TOLL_USE k) 0).put (Obj.STREAM.OWNER k) 0)

/-- TOLL_SUM follows a closed stream, and the journal is to take its record (R361). -/
def State.streamFreed (t : State) : State := (State.streamZeroed k t).tollSums.setBit Obj.FLASH.PENDING 1

theorem State.closeStream_open (h : s.streams[k].isOpen = true) : s.closeStream k = State.streamFreed k (s.streamLeft k) :=
  if_neg (by rw [h]; simp)

theorem State.streamFreed_u (t : State) (x : Reg) (hlo : 0x600000 ≤ x.key) (hhi : x.key < 0x790000) :
    (State.streamFreed k t).u x = (State.streamZeroed k t).u x := by
  rw [State.streamFreed, State.setBit_eq, State.putBit_eq, State.u_put_ne _ _ _ _ (by change 0x7900 * 256 + 9 ≠ _; omega), State.tollSums,
    List.foldl_cons, List.foldl_cons, List.foldl_nil, State.u_put_ne _ _ _ _ (by change (0x1110 + 1) * 256 + 12 ≠ _; omega),
    State.u_put_ne _ _ _ _ (by change (0x1110 + 0) * 256 + 12 ≠ _; omega)]

theorem State.streamFreed_enable (t : State) : (State.streamFreed k t).u (Obj.STREAM.ENABLE k) = 0 := by
  have hkey : (Obj.STREAM.ENABLE k).key = (0x6000 + k.val) * 256 + 1 := rfl
  rw [State.streamFreed_u k t _ (by omega) (by omega), State.streamZeroed]
  iterate 6 rw [State.u_put_ne _ _ _ _ (objectKey_ne _ (by decide))]
  rw [State.u_put_self, Nat.zero_mod]

theorem State.streamFreed_backlog (t : State) : (State.streamFreed k t).u (Obj.STREAM.BACKLOG k) = 0 := by
  have hkey : (Obj.STREAM.BACKLOG k).key = (0x6000 + k.val) * 256 + 25 := rfl
  rw [State.streamFreed_u k t _ (by omega) (by omega), State.streamZeroed]
  iterate 2 rw [State.u_put_ne _ _ _ _ (objectKey_ne _ (by decide))]
  rw [State.u_put_self, Nat.zero_mod]

theorem State.closeStream_frees (h : s.streams[k].isOpen = true) :
    ∃ u : State, s.closeStream k = u ∧ u.streams = s.streams.set k {} ∧ u.u (Obj.STREAM.ENABLE k) = 0 ∧ u.u (Obj.STREAM.BACKLOG k) = 0 ∧
      u.bale.waiting = s.bale.waiting.filter (fun b => b.stream != k) ∧ u.bale.decode = s.bale.decode ∧ u.mem = s.mem ∧
      u.ledger = s.ledger := by
  have hleft := s.streamLeft_unsent k
  have hbale := State.bale_of_unsent hleft
  exact ⟨State.streamFreed k (s.streamLeft k), s.closeStream_open k h, State.streams_of_unsent hleft, State.streamFreed_enable k _,
    State.streamFreed_backlog k _, congrArg BalePart.waiting hbale, (congrArg BalePart.decode hbale :), (State.mem_of_unsent hleft :),
    (State.ledger_of_unsent hleft :)⟩

end

end Sys2Proof.Machine

namespace Sys2Proof
open Machine

/-- Settles O38: sources that are not limited are served without a change, so that a SUBSCRIBE meets its judgement and a control datagram its
stream's controller. -/
theorem streamControl : Obligations.StreamControl := by
  refine ⟨subscribe_down, subscribe_unknown, fun s t p src m d x code avail hup hl ht => subscribe_refused s p src m d t x code avail hup hl ht,
    fun s t p src m d x k toll hup hl ht => subscribe_granted s p src m d t x k toll hup hl ht, judge_level, judge_fields,
    fun s p src m most hm => ⟨grant_little s p src m most hm, grant_fits s p src m most hm⟩, ?_, ?_, ?_, ?_, ?_, State.endStream_open,
    leaseExpiry_ends, leaseExpiry_closed, State.closeStream_frees, fun s src => streamViolation_unlimited s src⟩
  · intro s src k req n d h
    rw [streamKeepalive_eq, credit_eq, streamClose_eq, s.control_waits k src d _ _ h, s.control_waits k src d _ _ h, s.control_waits k src d _ _ h]
    exact ⟨rfl, rfl, rfl⟩
  · intro s src k req n d y hl hb hc
    rw [streamKeepalive_eq, credit_eq, streamClose_eq, hb, s.control_session k src d _ hl y hc, s.control_session k src d _ hl y hc]
    refine ⟨fun hreq => ?_, fun hreq => ?_, rfl, rfl⟩
    · rw [beq_iff_eq.mpr hreq, Bool.and_self, s.control_session k src d _ hl y hc]
      rfl
    · rw [beq_eq_false_iff_ne.mpr hreq, Bool.and_false, s.control_bad k src d _ hl]
  · intro s src k req n d hl hb hc
    rw [streamKeepalive_eq, credit_eq, streamClose_eq, hb, s.control_ledger k src d _ hl hc, Bool.false_and, s.control_bad k src d _ hl,
      s.control_bad k src d _ hl]
    exact ⟨rfl, rfl, rfl⟩
  · intro s src k req n d hl hc
    rw [streamKeepalive_eq, credit_eq, streamClose_eq, s.control_stranger k src d _ _ hl hc, s.control_stranger k src d _ _ hl hc,
      s.control_stranger k src d _ _ hl hc]
    exact ⟨rfl, rfl, rfl⟩
  · intro s k src d
    refine ⟨controller_closed s k src d, controller_subscribed s k src d, ?_⟩
    rintro a q p ho hb rfl
    exact controller_ledger s k d a q p ho hb

end Sys2Proof
end

section
/-! SUPPORT. The sessions that are open stay so while entries are made in the day book (R406, R413, R539; Machine/Book.lean). -/

namespace Sys2Proof.Machine

/-- The ids of the open sessions. -/
def State.sessionIds (s : State) : List (BitVec 32) := s.ledger.sessions.map (·.id)

theorem sessionById_none_iff (s : State) (id : BitVec 32) : sessionById s id = none ↔ id ∉ s.sessionIds := by
  simp only [sessionById, State.sessionIds, List.find?_eq_none, beq_iff_eq, List.mem_map, not_exists, not_and]

theorem State.sessionIds_ite {c : Prop} [Decidable c] {a b s : State} (ha : a.sessionIds = s.sessionIds) (hb : b.sessionIds = s.sessionIds) :
    (if c then a else b).sessionIds = s.sessionIds := by
  split
  · exact ha
  · exact hb

theorem State.sessionIds_foldl {α : Type} {f : State → α → State} (h : ∀ t a, (f t a).sessionIds = t.sessionIds) (l : List α) (s : State) :
    (l.foldl f s).sessionIds = s.sessionIds := by
  induction l generalizing s with
  | nil => rfl
  | cons a l ih => exact (ih _).trans (h s a)

theorem State.sessionIds_overAll {n : Nat} {f : State → Fin n → State} (h : ∀ t a, (f t a).sessionIds = t.sessionIds) (s : State) :
    (overAll s f).sessionIds = s.sessionIds := State.sessionIds_foldl h _ s

theorem State.sessionIds_setBit (s : State) (r : Reg) (b : Nat) : (s.setBit r b).sessionIds = s.sessionIds := rfl
theorem State.sessionIds_modStream (s : State) (k : Fin 256) (f : StreamPart → StreamPart) : (s.modStream k f).sessionIds = s.sessionIds := rfl

/-! ## Frames to the twin -/

theorem State.sessionIds_pump (n : Nat) (s : State) (k : Fin 4) : (State.pump n s k).sessionIds = s.sessionIds := by
  induction n generalizing s with
  | zero => rfl
  | succ n ih =>
    rw [State.pump]
    split
    · rfl
    · exact State.sessionIds_ite (ih _) rfl

theorem State.sessionIds_sendMirror (s : State) (b : AggonBody) : (s.sendMirror b).sessionIds = s.sessionIds := by
  rw [State.sendMirror]
  split
  · exact State.sessionIds_ite rfl (State.sessionIds_ite rfl (State.sessionIds_pump _ _ _))
  · rfl

theorem State.sessionIds_mirrorCommit (s : State) (idx : Nat) : (s.mirrorCommit idx).sessionIds = s.sessionIds :=
  State.sessionIds_ite (State.sessionIds_foldl (fun _ _ => State.sessionIds_sendMirror _ _) _ _) rfl

/-! ## Entries of the day book -/

theorem moveReader_id (b : DayBook) (x : Session) : (moveReader b x).id = x.id := by
  rw [moveReader]
  split <;> rfl

theorem State.sessionIds_overtake (s : State) (gone : Item → Bool) : (s.overtake gone).sessionIds = s.sessionIds := by
  refine State.sessionIds_overAll (fun t k => ?_) s
  dsimp only
  split
  · rfl
  · split <;> rfl

theorem State.sessionIds_flushCells (s : State) : s.flushCells.sessionIds = s.sessionIds := State.sessionIds_ite rfl rfl

theorem State.sessionIds_logRaw (s : State) (e : Ev) : (s.logRaw e).sessionIds = s.sessionIds := by
  have hmoved : (s.ledger.sessions.map (moveReader s.book)).map (·.id) = s.sessionIds := by
    rw [List.map_map]
    exact List.map_congr_left fun x _ => moveReader_id _ x
  rw [State.logRaw]
  split
  · rfl
  · dsimp only
    refine (State.sessionIds_ite (State.sessionIds_setBit _ _ _) rfl).trans ((State.sessionIds_flushCells _).trans ?_)
    exact (State.sessionIds_ite rfl (State.sessionIds_overtake _ _)).trans hmoved

theorem State.sessionIds_commitRaw (s : State) (idx : Nat) : (s.commitRaw idx).sessionIds = s.sessionIds :=
  (State.sessionIds_logRaw _ _).trans (State.sessionIds_mirrorCommit _ _)

theorem State.sessionIds_toStreams (s : State) (kind : Nat) (takes : Fin 256 → Bool) (it : Fin 256 → Item) :
    (s.toStreams kind takes it).sessionIds = s.sessionIds :=
  State.sessionIds_overAll (fun _ _ => State.sessionIds_ite (State.sessionIds_modStream _ _ _) rfl) s

theorem State.sessionIds_readBook (s : State) : s.readBook.sessionIds = s.sessionIds :=
  State.sessionIds_foldl (fun _ _ => State.sessionIds_toStreams _ _ _ _) _ { s with book := { s.book with unread := [] } }

theorem State.sessionIds_settleBook (s : State) : s.settleBook.sessionIds = s.sessionIds :=
  State.sessionIds_ite (State.sessionIds_commitRaw _ _) rfl

theorem State.sessionIds_log (s : State) (e : Ev) : (s.log e).sessionIds = s.sessionIds :=
  (State.sessionIds_readBook _).trans ((State.sessionIds_settleBook _).trans (State.sessionIds_logRaw _ _))

theorem State.sessionIds_summary (s : State) (k : SummaryKey) : (s.summary k).sessionIds = s.sessionIds := by
  rw [State.summary]
  split
  · exact State.sessionIds_log _ _
  · rfl

end Sys2Proof.Machine
end

section
/-! SUPPORT. A bale's way from its close to its datagrams, and the decompressor (R357, R358, R362, R364, R374, R376 to R380; Machine/Streams.lean). -/

namespace Sys2Proof.Machine

/-! ## The close of a bale and the compressor -/

section
variable (s : State) (k : Fin 256)

theorem State.streamBoundary_idle (h : s.isApplying (0x6000 + k) = false) : s.streamBoundary k = s := if_neg (by rw [h]; simp)

theorem DayBook.read_self (b : DayBook) (h : b.unread = []) : { b with unread := [] } = b := by rw [← h]

theorem State.readBook_read (h : s.book.unread = []) : s.readBook = s := by
  have hread : s.readBook = { s with book := { s.book with unread := [] } } := by
    rw [State.readBook, h, List.foldl_nil]
  rw [hread, s.book.read_self h]

theorem baleTimeout_open (h : s.streams[k].bale = none) : exec (.baleTimeout k) s = .next s := by
  change execBaleTimeout k s = _
  rw [execBaleTimeout, if_neg]
  rw [baleDue, h]
  exact Bool.false_ne_true

theorem baleDue_iff (b : OpenBale) (h : s.streams[k].bale = some b) :
    baleDue s k = true ↔ b.first + (s.u (Obj.STREAM.BALE_MS k) + 50) * 3200000 < s.now := by
  rw [baleDue, h, Option.any_some, decide_eq_true_iff]

theorem baleTimeout_early (b : OpenBale) (h : s.streams[k].bale = some b) (he : s.now ≤ b.first + (s.u (Obj.STREAM.BALE_MS k) + 50) * 3200000) :
    exec (.baleTimeout k) s = .next s := by
  change execBaleTimeout k s = _
  rw [execBaleTimeout, if_neg]
  rw [baleDue_iff s k b h]
  omega

/-- A state whose stream's open bale has closed into the compressor. -/
def closedInto (b : OpenBale) : State :=
  (({ s with bale := { s.bale with waiting :=
      s.bale.waiting ++ [(⟨k, b.bytes, b.firstShot, s.u (Obj.STREAM.COMPRESS k), s.u Obj.COMPRESSION.LEVEL, s.now⟩ : ClosedBale)] } }).modStream k
    (fun x => { x with bale := none })).bump (Obj.STREAM.BALES k)

theorem baleTimeout_closes (b : OpenBale) (h : s.streams[k].bale = some b) (hd : b.first + (s.u (Obj.STREAM.BALE_MS k) + 50) * 3200000 < s.now)
    (hu : s.book.unread = []) (ha : s.isApplying (0x6000 + k) = false) : exec (.baleTimeout k) s = .next (closedInto s k b) := by
  change execBaleTimeout k s = _
  rw [execBaleTimeout, if_pos ((baleDue_iff s k b h).mpr hd), State.closeBale, h]
  exact congrArg _ ((congrArg State.readBook ((closedInto s k b).streamBoundary_idle k ha)).trans ((closedInto s k b).readBook_read hu))

theorem baleCompressed_none (h : s.bale.waiting = []) : exec .baleCompressed s = .next s := by
  change execBaleCompressed s = _
  rw [execBaleCompressed, h]

/-- The registers of the compression counters. -/
def countRegs : List Reg := [Obj.COMPRESSION.BALES_IN, Obj.COMPRESSION.ORIG_BYTES, Obj.COMPRESSION.COMP_BYTES, Obj.COMPRESSION.FALLBACKS,
  Obj.COMPRESSION.COMP_LAT_MAX]

theorem State.countBale_regs (c : ClosedBale) (bytes : List Byte) (fallback : Bool) : onlyRegs s (s.countBale c bytes fallback) countRegs := by
  have hform : onlyRegs s (if c.form = 0 then s
      else ((s.bump Obj.COMPRESSION.BALES_IN).add Obj.COMPRESSION.ORIG_BYTES c.original.length).add Obj.COMPRESSION.COMP_BYTES bytes.length)
      countRegs := by
    split
    · exact onlyRegs.refl s _
    · exact (((onlyRegs.refl s _).put (by simp [countRegs]) _).put (by simp [countRegs]) _).put (by simp [countRegs]) _
  rw [State.countBale]
  refine onlyRegs.put ?_ (by simp [countRegs]) _
  split
  · exact hform.put (by simp [countRegs]) _
  · exact hform

/-- Counted bales leave the registers of the streams and the twin. -/
theorem State.countBale_u (c : ClosedBale) (bytes : List Byte) (fallback : Bool) (r : Reg) (h : r.key < 0x610000 ∨ 0x620000 ≤ r.key) :
    (s.countBale c bytes fallback).u r = s.u r := by
  refine (s.countBale_regs c bytes fallback).2 r fun x hx => ?_
  have hkeys : ∀ y ∈ countRegs, 0x610000 ≤ y.key ∧ y.key < 0x620000 := by decide
  obtain ⟨hlo, hhi⟩ := hkeys x hx
  omega

theorem State.baleOut_split (bale : List Byte) (first : Nat) (h : standby s = false ∨ s.u (Obj.STREAM.TWIN k) = 0) :
    s.baleOut k bale first = s.splitBale k bale first := by
  refine if_neg fun hc => ?_
  obtain ⟨hs, ht⟩ := hc
  rcases h with h | h
  · rw [h] at hs
    cases hs
  · rw [h] at ht
    cases ht

theorem baleCompressed_splits (c : ClosedBale) (rest : List ClosedBale) (h : s.bale.waiting = c :: rest)
    (ht : standby s = false ∨ s.u (Obj.STREAM.TWIN c.stream) = 0) :
    exec .baleCompressed s = .next ((State.countBale { s with bale := { s.bale with waiting := rest } } c (compress c.form c.level c.original).1
      (compress c.form c.level c.original).2).splitBale c.stream (compress c.form c.level c.original).1 c.first) := by
  change execBaleCompressed s = _
  rw [execBaleCompressed, h]
  refine congrArg _ (State.baleOut_split _ _ _ _ ?_)
  rw [standby, State.countBale_u _ _ _ _ _ (.inr (by decide)), State.countBale_u _ _ _ _ _ (.inr (by decide)),
    State.countBale_u _ _ _ _ _ (.inl (by change (0x6000 + c.stream.val) * 256 + 0x14 < _; omega))]
  exact ht

theorem compress_none (level : Nat) (l : List Byte) : compress 0 level l = (baleHeader 0 false l.length l.length (crc32c l).toNat ++ l, false) := by
  rw [compress]
  exact if_pos rfl

/-! ## The split -/

theorem streamHeader_length (type dflags stream seq bale frag frags len epoch : Nat) :
    (streamHeader s type dflags stream seq bale frag frags len epoch).length = 32 := by
  simp [streamHeader, le_length]

/-- Slices of one length in a row are the start of a list. -/
theorem flatMap_slices (l : List Byte) (n m : Nat) : (List.range m).flatMap (fun i => slice l (i * n) n) = l.take (m * n) := by
  induction m with
  | zero => simp
  | succ m ih =>
    rw [List.range_succ, List.flatMap_append, ih, List.flatMap_singleton, slice, Nat.succ_mul, List.take_add]

theorem ceilDiv_mul (a n : Nat) (hn : 0 < n) : a ≤ ceilDiv a n * n := by
  have hdiv := Nat.div_add_mod (a + n - 1) n
  have hmod := Nat.mod_lt (a + n - 1) hn
  rw [ceilDiv, Nat.mul_comm]
  omega

theorem fragments_whole (bale : List Byte) (first seq no : Nat) (h : 32 < s.u (Obj.STREAM.MAX_DGRAM k)) :
    (fragments s k bale first seq no).flatMap (fun f => f.bytes.drop 32) = bale := by
  have hbody : ∀ (hd d : List Byte), hd.length = 32 → (hd ++ d).drop 32 = d := fun hd d hl => by rw [← hl, List.drop_left]
  have hn : max 1 (s.u (Obj.STREAM.MAX_DGRAM k) - 32) = s.u (Obj.STREAM.MAX_DGRAM k) - 32 := by omega
  simp only [fragments, List.flatMap_map, hbody _ _ (streamHeader_length _ _ _ _ _ _ _ _ _ _), hn]
  rw [flatMap_slices, List.take_of_length_le (ceilDiv_mul _ _ (by omega))]

theorem fragments_length (bale : List Byte) (first seq no : Nat) (h : 32 < s.u (Obj.STREAM.MAX_DGRAM k)) (f : Fragment)
    (hf : f ∈ fragments s k bale first seq no) : f.bytes.length ≤ s.u (Obj.STREAM.MAX_DGRAM k) := by
  simp only [fragments, List.mem_map] at hf
  obtain ⟨i, -, rfl⟩ := hf
  rw [List.length_append, streamHeader_length, slice, List.length_take]
  omega

theorem State.modStream_modStream (f g : StreamPart → StreamPart) : (s.modStream k f).modStream k g = s.modStream k (fun x => g (f x)) := by
  simp [State.modStream]

/-- A stream that admits a bale's datagrams, and one that drops them (R362). -/
def admitPart (fs : List Fragment) (x : StreamPart) : StreamPart := { x with built := x.built + fragBytes fs, queue := x.queue ++ fs }
def dropPart (fs : List Fragment) (x : StreamPart) : StreamPart := { x with built := x.built + fragBytes fs, droppedFlag := true }

/-- A state whose stream admits a bale's datagrams. -/
def admitted (fs : List Fragment) : State := ((s.modStream k (admitPart fs)).add (Obj.STREAM.BACKLOG k) (fragBytes fs)).streamState k

/-- A state whose stream drops a bale. -/
def droppedBale (fs : List Fragment) : State := (s.modStream k (dropPart fs)).bump (Obj.STREAM.DROPPED k)

theorem State.letIn_admits (fs : List Fragment) (h : s.u (Obj.STREAM.BACKLOG k) * 1000 < s.u (Obj.STREAM.TOLL k) * s.u (Obj.STREAM.ADMIT_MS k)) :
    s.letIn k fs = admitted s k fs := by
  rw [State.letIn, if_pos h, State.modStream_modStream]
  rfl

theorem State.letIn_drops (fs : List Fragment) (h : s.u (Obj.STREAM.TOLL k) * s.u (Obj.STREAM.ADMIT_MS k) ≤ s.u (Obj.STREAM.BACKLOG k) * 1000) :
    s.letIn k fs = droppedBale s k fs := by
  rw [State.letIn, if_neg (Nat.not_lt.mpr h), State.modStream_modStream]
  rfl

theorem admitted_part (fs : List Fragment) : (admitted s k fs).streams[k] = admitPart fs s.streams[k] := s.modStream_self k (admitPart fs)
theorem droppedBale_part (fs : List Fragment) : (droppedBale s k fs).streams[k] = dropPart fs s.streams[k] := s.modStream_self k (dropPart fs)

/-- A bale let in, or dropped, keeps its stream's numbers and the other streams. -/
theorem State.letIn_frame (fs : List Fragment) : (s.letIn k fs).streams[k].baleNo = s.streams[k].baleNo ∧
    (∀ j : Fin 256, j ≠ k → (s.letIn k fs).streams[j] = s.streams[j]) ∧
    onlyRegs { s with streams := (s.letIn k fs).streams } (s.letIn k fs) [Obj.STREAM.BACKLOG k, Obj.STREAM.SSTATE k, Obj.STREAM.DROPPED k] := by
  rcases lt_or_ge (s.u (Obj.STREAM.BACKLOG k) * 1000) (s.u (Obj.STREAM.TOLL k) * s.u (Obj.STREAM.ADMIT_MS k)) with h | h
  · rw [s.letIn_admits k fs h, admitted_part]
    exact ⟨rfl, fun j hj => s.modStream_other k (admitPart fs) j (Ne.symm hj),
      ((onlyRegs.refl { s with streams := (admitted s k fs).streams } _).put (by simp) _).put (by simp) _⟩
  · rw [s.letIn_drops k fs h, droppedBale_part]
    exact ⟨rfl, fun j hj => s.modStream_other k (dropPart fs) j (Ne.symm hj),
      (onlyRegs.refl { s with streams := (droppedBale s k fs).streams } _).put (by simp) _⟩

/-- A state whose stream has numbered a bale's datagrams. -/
def numberedFor (fs : List Fragment) : State := s.numbered k (s.u (Obj.STREAM.SEQ k)) s.streams[k].baleNo.toNat fs.length

theorem splitBale_numbers (bale : List Byte) (first : Nat) (ha : active s = false) (fs : List Fragment)
    (hf : fs = fragments s k bale first (s.u (Obj.STREAM.SEQ k)) s.streams[k].baleNo.toNat) :
    s.splitBale k bale first = (numberedFor s k fs).letIn k fs := by
  subst hf
  exact if_neg (by rw [ha]; simp)

theorem numberedFor_part (fs : List Fragment) : (numberedFor s k fs).streams[k] = { s.streams[k] with baleNo := s.streams[k].baleNo + 1 } := by
  have hnext : BitVec.ofNat 32 (s.streams[k].baleNo.toNat + 1) = s.streams[k].baleNo + 1 := by
    rw [BitVec.ofNat_add, BitVec.ofNat_toNat, BitVec.setWidth_eq]
    rfl
  refine (State.modStream_self _ _ _).trans ?_
  rw [hnext]
  rfl

theorem numberedFor_u (fs : List Fragment) (x : Reg) (h : (Obj.STREAM.SEQ k).key ≠ x.key) : (numberedFor s k fs).u x = s.u x :=
  State.u_put_ne _ _ _ _ h

theorem splitBale_splits (bale : List Byte) (first : Nat) (fs : List Fragment) (ha : active s = false)
    (hf : fs = fragments s k bale first (s.u (Obj.STREAM.SEQ k)) s.streams[k].baleNo.toNat) :
    ∃ u : State, s.splitBale k bale first = u ∧ u.u (Obj.STREAM.SEQ k) = (s.u (Obj.STREAM.SEQ k) + fs.length) % 2 ^ 32 ∧
      u.streams[k].baleNo = s.streams[k].baleNo + 1 ∧
      (s.u (Obj.STREAM.BACKLOG k) * 1000 < s.u (Obj.STREAM.TOLL k) * s.u (Obj.STREAM.ADMIT_MS k) →
        u.streams[k].queue = s.streams[k].queue ++ fs ∧ u.streams[k].droppedFlag = s.streams[k].droppedFlag) ∧
      (s.u (Obj.STREAM.TOLL k) * s.u (Obj.STREAM.ADMIT_MS k) ≤ s.u (Obj.STREAM.BACKLOG k) * 1000 →
        u.streams[k].queue = s.streams[k].queue ∧ u.streams[k].droppedFlag = true) ∧
      (∀ j : Fin 256, j ≠ k → u.streams[j] = s.streams[j]) ∧
      onlyRegs { s with streams := u.streams } u [Obj.STREAM.SEQ k, Obj.STREAM.BACKLOG k, Obj.STREAM.SSTATE k, Obj.STREAM.DROPPED k] := by
  have hpart := numberedFor_part s k fs
  have hback : (numberedFor s k fs).u (Obj.STREAM.BACKLOG k) = s.u (Obj.STREAM.BACKLOG k) := numberedFor_u s k fs _ (objectKey_ne _ (by decide))
  have htoll : (numberedFor s k fs).u (Obj.STREAM.TOLL k) = s.u (Obj.STREAM.TOLL k) := numberedFor_u s k fs _ (objectKey_ne _ (by decide))
  have hadmit : (numberedFor s k fs).u (Obj.STREAM.ADMIT_MS k) = s.u (Obj.STREAM.ADMIT_MS k) := numberedFor_u s k fs _ (objectKey_ne _ (by decide))
  obtain ⟨hno, hother, hregs⟩ := (numberedFor s k fs).letIn_frame k fs
  refine ⟨_, splitBale_numbers s k bale first ha fs hf, ?_, ?_, fun hroom => ?_, fun hfull => ?_, fun j hj => ?_, ?_, ?_⟩
  · rw [hregs.2 (Obj.STREAM.SEQ k) ?_]
    · exact State.u_put_self s (Obj.STREAM.SEQ k) _
    · intro x hx
      simp only [List.mem_cons, List.not_mem_nil, or_false] at hx
      rcases hx with rfl | rfl | rfl <;> exact objectKey_ne _ (by decide)
  · rw [hno, hpart]
  · rw [← hback, ← htoll, ← hadmit] at hroom
    rw [State.letIn_admits _ k fs hroom, admitted_part, hpart]
    exact ⟨rfl, rfl⟩
  · rw [← hback, ← htoll, ← hadmit] at hfull
    rw [State.letIn_drops _ k fs hfull, droppedBale_part, hpart]
    exact ⟨rfl, rfl⟩
  · rw [hother j hj]
    exact State.modStream_other _ _ _ _ (Ne.symm hj)
  · exact hregs.1
  · have hseq : regsKept s (numberedFor s k fs) [Obj.STREAM.SEQ k, Obj.STREAM.BACKLOG k, Obj.STREAM.SSTATE k, Obj.STREAM.DROPPED k] :=
      ((regsKept.refl s _).put (by simp) _).of_regs rfl
    exact hseq.trans (hregs.2.mono (by simp))

/-! ## A datagram leaves -/

theorem datagramSend_empty (h : s.streams[k].queue = []) : exec (.datagramSend k) s = .next s := by
  change execDatagramSend k s = _
  rw [execDatagramSend, h]

/-- A state whose stream's toll bucket is filled up to now for a datagram (R362). -/
def filledFor (f : Fragment) : State := s.modStream k (fun y => { y with bucket := bucketNow s k f, filled := s.now })

theorem filledFor_part (f : Fragment) : (filledFor s k f).streams[k] = { s.streams[k] with bucket := bucketNow s k f, filled := s.now } :=
  s.modStream_self k _

theorem creditHeld_filledFor (f : Fragment) : creditHeld (filledFor s k f) k = creditHeld s k := by
  rw [creditHeld, filledFor_part]
  rfl

/-- The datagram at the head of a queue, as it leaves with the DROPPED of the bales before it. -/
def headBytes (f : Fragment) : List Byte := if s.streams[k].droppedFlag then withDropped f.bytes else f.bytes

/-- A stream that has sent the head of its queue. -/
def sentPart (f : Fragment) (rest : List Fragment) (x : StreamPart) : StreamPart :=
  { x with
    bucket := bucketNow s k f - f.bytes.length * bucketByte, filled := s.now, queue := rest, droppedFlag := false,
    credit := if f.firstFrag && s.u (Obj.STREAM.CREDIT k) == 1 then x.credit - 1 else x.credit }

/-- A state whose stream's queue has given up its head. -/
def unqueued (f : Fragment) (rest : List Fragment) : State :=
  (s.modStream k (sentPart s k f rest)).put (Obj.STREAM.BACKLOG k) (s.u (Obj.STREAM.BACKLOG k) - f.bytes.length)

theorem unqueued_u (f : Fragment) (rest : List Fragment) (x : Reg) (h : (Obj.STREAM.BACKLOG k).key ≠ x.key) : (unqueued s k f rest).u x = s.u x :=
  State.u_put_ne _ _ _ _ h

theorem datagramSend_head (f : Fragment) (rest : List Fragment) (hq : s.streams[k].queue = f :: rest) :
    exec (.datagramSend k) s = .next (if !ifaceUp (filledFor s k f) k || creditHeld (filledFor s k f) k ||
        decide (bucketNow s k f < f.bytes.length * bucketByte) then (filledFor s k f).streamState k
      else (State.sendData ((((filledFor s k f).modStream k (fun y => { y with bucket := bucketNow s k f - f.bytes.length * bucketByte })).modStream k
        (fun y => { y with
          queue := rest, droppedFlag := false,
          credit := if f.firstFrag && s.u (Obj.STREAM.CREDIT k) == 1 then y.credit - 1 else y.credit })).put (Obj.STREAM.BACKLOG k)
          (s.u (Obj.STREAM.BACKLOG k) - f.bytes.length)) k (headBytes (filledFor s k f) k f)).streamState k) := by
  change execDatagramSend k s = _
  rw [execDatagramSend, hq]
  rfl

theorem datagramSend_waits (f : Fragment) (rest : List Fragment) (hq : s.streams[k].queue = f :: rest)
    (h : ifaceUp s k = false ∨ creditHeld s k = true ∨ bucketNow s k f < f.bytes.length * 3200000000) :
    exec (.datagramSend k) s = .next ((filledFor s k f).streamState k) := by
  have hheld : (!ifaceUp s k || creditHeld s k || decide (bucketNow s k f < f.bytes.length * 3200000000)) = true := by
    rcases h with h | h | h <;> simp [h]
  rw [datagramSend_head s k f rest hq, creditHeld_filledFor]
  exact congrArg _ (if_pos hheld)

theorem datagramSend_sends (f : Fragment) (rest : List Fragment) (hq : s.streams[k].queue = f :: rest) (hi : ifaceUp s k = true)
    (hc : creditHeld s k = false) (hb : f.bytes.length * 3200000000 ≤ bucketNow s k f) :
    exec (.datagramSend k) s = .next (((unqueued s k f rest).sendData k (headBytes s k f)).streamState k) := by
  have hfree : ¬(!ifaceUp s k || creditHeld s k || decide (bucketNow s k f < f.bytes.length * 3200000000)) = true := by
    simp [hi, hc, hb]
  have hdropped : headBytes (filledFor s k f) k f = headBytes s k f := by
    rw [headBytes, filledFor_part, headBytes]
  rw [datagramSend_head s k f rest hq, creditHeld_filledFor, hdropped, filledFor, State.modStream_modStream, State.modStream_modStream]
  exact congrArg _ (if_neg hfree)

/-! ## What leaves -/

/-- A frame leaves for an interface that has a port with link, with the interface's next trailer. -/
theorem State.sendOn_out (i : Nat) (g : Option (BitVec 16) → Out) (hs : sendingPorts s i ≠ []) (h : refuses s 6 = false) :
    (s.sendOn i g).out = s.out ++ [g (rctOf s i)] := by
  have hcounted : ∀ (qs : List (Fin 4)) (t : State), (qs.foldl (fun t q => t.bump (Obj.ETH_PORT.TX_FRAMES q)) t).out = t.out := by
    intro qs
    induction qs with
    | nil => exact fun _ => rfl
    | cons q qs ih => exact fun t => ih (t.bump (Obj.ETH_PORT.TX_FRAMES q))
  have hsent : (s.leave (sendingPorts s i) (g (rctOf s i))).out = s.out ++ [g (rctOf s i)] := by
    rw [s.leave_taken _ hs h]
    exact congrArg (· ++ [g (rctOf s i)]) (hcounted _ s)
  rw [State.sendOn, State.nextRct]
  split
  · exact hsent
  · exact hsent

/-- A datagram's stream, as its DEST and DEST_PORT name where it goes. -/
def dataOut (i : Nat) (bytes : List Byte) (rct : Option (BitVec 16)) : Out :=
  .stream (ifaceOf s i) (BitVec.ofNat 128 (fromLe (s.blob (Obj.STREAM.DEST k)).reverse)) (s.u (Obj.STREAM.DEST_PORT k)) bytes rct

theorem State.sendData_port (i : Nat) (bytes : List Byte) (hi : s.u (Obj.STREAM.IFACE k) = i) (h4 : i < 4) :
    s.sendData k bytes = s.sendOn i (dataOut s k i bytes) := by
  subst hi
  exact if_neg (by omega)

theorem ifaceUp_sends (i : Nat) (hi : s.u (Obj.STREAM.IFACE k) = i) (h4 : i < 4) (hup : ifaceUp s k = true) : sendingPorts s i ≠ [] := by
  have hports : ifaceUp s k = !(sendingPorts s i).isEmpty := by
    subst hi
    exact if_neg (by omega)
  rw [hports] at hup
  simpa using hup

/-- A queue without its head leaves what a datagram's frame is made of. -/
theorem unqueued_frame (f : Fragment) (rest : List Fragment) (i : Nat) (bytes : List Byte) (h4 : i < 4) :
    dataOut (unqueued s k f rest) k i bytes = dataOut s k i bytes ∧ sendingPorts (unqueued s k f rest) i = sendingPorts s i ∧
      rctOf (unqueued s k f rest) i = rctOf s i ∧ refuses (unqueued s k f rest) 6 = refuses s 6 := by
  have hmode : (unqueued s k f rest).u (Obj.INTERFACE.PRP_MODE (i / 2)) = s.u (Obj.INTERFACE.PRP_MODE (i / 2)) :=
    unqueued_u s k f rest _ (recordKey_ne (by omega) (by decide) (by decide))
  refine ⟨?_, ?_, ?_, refuses_put _ _ _ _ (recordKey_ne (by omega) (by decide) (by decide))⟩
  · funext rct
    rw [dataOut, ifaceOf, hmode, unqueued_u s k f rest (Obj.STREAM.DEST_PORT k) (objectKey_ne _ (by decide))]
    rfl
  · rw [sendingPorts, hmode]
    rfl
  · rw [rctOf, hmode]
    rfl

theorem datagramSend_leaves (f : Fragment) (rest : List Fragment) (i : Nat) (hq : s.streams[k].queue = f :: rest)
    (hi : s.u (Obj.STREAM.IFACE k) = i) (h4 : i < 4) (hup : ifaceUp s k = true) (hc : creditHeld s k = false) (hr : refuses s 6 = false)
    (hb : f.bytes.length * 3200000000 ≤ bucketNow s k f) :
    ∃ u : State, exec (.datagramSend k) s = .next u ∧ u.streams = (s.modStream k (sentPart s k f rest)).streams ∧
      u.out = s.out ++ [dataOut s k i (headBytes s k f) (rctOf s i)] ∧ u.mem = s.mem ∧ u.bale = s.bale := by
  obtain ⟨hdata, hports, hrct, hcross⟩ := unqueued_frame s k f rest i (headBytes s k f) h4
  have hiface : (unqueued s k f rest).u (Obj.STREAM.IFACE k) = i :=
    (unqueued_u s k f rest (Obj.STREAM.IFACE k) (objectKey_ne _ (by decide))).trans hi
  have hsend := State.sendData_port (unqueued s k f rest) k i (headBytes s k f) hiface h4
  have hout := State.sendOn_out (unqueued s k f rest) i (dataOut s k i (headBytes s k f))
    (by rw [hports]; exact ifaceUp_sends s k i hi h4 hup) (by rw [hcross, hr])
  have hsame := State.unsent_sendOn (unqueued s k f rest) i (dataOut s k i (headBytes s k f))
  rw [hdata] at hsend
  rw [hrct] at hout
  exact ⟨((unqueued s k f rest).sendOn i (dataOut s k i (headBytes s k f))).streamState k,
    (datagramSend_sends s k f rest hq hup hc hb).trans (by rw [hsend]), (State.streams_of_unsent hsame :), hout,
    (State.mem_of_unsent hsame :), (State.bale_of_unsent hsame :)⟩

end

/-! ## The decompressor -/

section
variable (s : State)

theorem decodeStart_full (h : freeLaneOf s.bale.decode = none) : exec .decodeStart s = .next s := by
  change execDecodeStart s = _
  rw [execDecodeStart, h]

/-- A lane goes to the first request that has none. -/
theorem giveLane_first (l : Fin 8) (a b : List DecodeReq) (d : DecodeReq) (ha : ∀ e ∈ a, e.lane.isSome = true) (hd : d.lane = none) :
    giveLane l (a ++ d :: b) = a ++ { d with lane := some l } :: b := by
  induction a with
  | nil => exact if_pos (by rw [hd]; rfl)
  | cons e a ih =>
    have he : e.lane.isNone = false := by simpa using ha e List.mem_cons_self
    rw [List.cons_append, giveLane, if_neg (by rw [he]; simp), ih fun x hx => ha x (List.mem_cons_of_mem _ hx), List.cons_append]

theorem decodeStart_gives (l : Fin 8) (a b : List DecodeReq) (d : DecodeReq) (hl : freeLaneOf s.bale.decode = some l)
    (hq : s.bale.decode = a ++ d :: b) (ha : ∀ e ∈ a, e.lane.isSome = true) (hd : d.lane = none) :
    exec .decodeStart s = .next { s with bale := { s.bale with decode := a ++ { d with lane := some l } :: b } } := by
  change execDecodeStart s = _
  simp only [execDecodeStart, hl]
  rw [hq, giveLane_first l a b d ha hd]

theorem decodeEnd_idle (l : Fin 8) (h : ∀ d ∈ s.bale.decode, d.lane ≠ some l) : exec (.decodeEnd l) s = .next s := by
  have hnone : s.bale.decode.find? (fun d => d.lane == some l) = none :=
    List.find?_eq_none.mpr fun d hd => by simpa using h d hd
  change execDecodeEnd l s = _
  rw [execDecodeEnd, hnone]

theorem State.transferDecoded_closed (d : DecodeReq) (out : Except Nat (List Byte)) (h : sessionById s d.owner = none) :
    s.transferDecoded d out = s := by
  rw [State.transferDecoded, h]

/-- What the counters make of a decode leaves the open sessions. -/
theorem State.sessionIds_countDecode (use : Fin 3) (err : Option Nat) : (s.countDecode use err).sessionIds = s.sessionIds := by
  cases err with
  | none => rfl
  | some c => exact State.sessionIds_summary _ _

/-- A state whose one decode has ended. -/
def decodeLeft : State := { s with bale := { s.bale with decode := [] } }

/-- A lane's bale that belongs to no stream and no open session is only counted. -/
theorem decodeEnd_counts (l : Fin 8) (d : DecodeReq) (hq : s.bale.decode = [d]) (hl : d.lane = some l) (hp : d.peer = none)
    (hs : sessionById s d.owner = none) : exec (.decodeEnd l) s = .next ((decodeLeft s).countDecode d.use
      (match decodeBale (d.use == 2) d.bytes with | .error c => some c | .ok _ => none)) := by
  have hlane : (d.lane == some l) = true := by rw [hl]; exact beq_self_eq_true _
  have hfind : [d].find? (fun e => e.lane == some l) = some d := by simp [hlane]
  have hleft : [d].filter (fun e => e.lane != some l) = [] := by simp [hl]
  have hclosed : ∀ err, sessionById ((decodeLeft s).countDecode d.use err) d.owner = none := fun err => by
    rw [sessionById_none_iff, State.sessionIds_countDecode]
    exact (sessionById_none_iff s d.owner).mp hs
  change execDecodeEnd l s = _
  simp only [execDecodeEnd, hq, hfind, hleft, hp]
  cases decodeBale (d.use == 2) d.bytes with
  | error c => exact congrArg _ (State.transferDecoded_closed _ d _ (hclosed _))
  | ok o => exact congrArg _ (State.transferDecoded_closed _ d _ (hclosed _))

end

end Sys2Proof.Machine

namespace Sys2Proof
open Machine

/-- Settles O39: each stage of a bale's way is one state written out (closed, counted, numbered, let in, sent), and its datagrams are slices of the
bale behind headers of 32 bytes. -/
theorem balesTravel : Obligations.BalesTravel := by
  refine ⟨baleTimeout_open, baleTimeout_early, ?_, baleCompressed_none, ?_, compress_none, splitBale_splits, ?_, datagramSend_empty,
    fun _ _ _ => rfl, datagramSend_waits, ?_, decodeStart_full, decodeStart_gives, decodeEnd_idle, ?_, ?_⟩
  · intro s k b hb hd hu ha hn
    exact ⟨closedInto s k b, baleTimeout_closes s k b hb hd hu ha, rfl, rfl, State.u_bump_self _ _ hn,
      (onlyRegs.refl { s with streams := (closedInto s k b).streams, bale := (closedInto s k b).bale } _).put (by simp) _⟩
  · intro s c rest hw ht
    have hregs := State.countBale_regs { s with bale := { s.bale with waiting := rest } } c (compress c.form c.level c.original).1
      (compress c.form c.level c.original).2
    have hbale := congrArg State.bale hregs.1
    refine ⟨_, baleCompressed_splits s c rest hw ht, hbale, ?_⟩
    rw [hbale]
    exact hregs
  · exact fun s k bale first seq no hm _ => ⟨fragments_whole s k bale first seq no hm, fragments_length s k bale first seq no hm⟩
  · intro s k f rest i hq hi h4 hup hc hr hb
    obtain ⟨u, hu, hstreams, hout, hmem, hbale⟩ := datagramSend_leaves s k f rest i hq hi h4 hup hc hr hb
    have hpart : u.streams[k] = sentPart s k f rest s.streams[k] := by
      rw [hstreams]
      exact s.modStream_self k (sentPart s k f rest)
    refine ⟨u, hu, ?_, ?_, ?_, hout, ?_, ?_, fun j hj => ?_, hmem, hbale⟩
    · rw [hpart, sentPart]
    · rw [hpart, sentPart]
    · rw [hpart, sentPart]
    · rw [hpart, sentPart]
      rfl
    · rw [hpart, sentPart]
    · rw [hstreams]
      exact s.modStream_other k (sentPart s k f rest) j (Ne.symm hj)
  · intro s l d o hq hl hp hs ho hn
    have hend := decodeEnd_counts s l d hq hl hp hs
    rw [ho] at hend
    refine ⟨_, hend, rfl, ?_, State.u_put_self _ _ _, (((onlyRegs.refl (decodeLeft s) _).put (by simp) _).put (by simp) _)⟩
    exact (State.u_put_ne _ _ _ _ (by decide)).trans (State.u_bump_self (decodeLeft s) _ hn)
  · intro s l d c hq hl hp hs he
    have hend := decodeEnd_counts s l d hq hl hp hs
    rw [he] at hend
    exact hend

end Sys2Proof
end

section
/-! SUPPORT. What a request meets before its object (R391, R393, R404, R406; Machine/Session.lean). -/

namespace Sys2Proof.Machine

/-- Serving its sources changes the Ledger's part of a state alone. -/
theorem State.serve_ledger (s : State) (l : List Source) : s.serve l = { s with ledger := (s.serve l).ledger } := by
  rw [State.serve]
  refine List.foldlRecOn (motive := fun t : State => t = { s with ledger := t.ledger }) l _ rfl fun t ht x _ => ?_
  split
  · exact congrArg (fun u : State => { u with ledger := (t.putSource { sourceRec t x with lastServed := some s.now }).ledger }) ht
  · exact ht

/-- A request counted at its arrival takes no time. -/
theorem counted_now (s : State) (r : Req) : (Sys2Proof.counted s r).now = s.now := by
  change (s.serve (sourcesOf r.path r.session)).now = s.now
  rw [s.serve_ledger]
  rfl

theorem clerksFull_iff (s : State) : clerksFull s = true ↔ (s.ledger.cycle = s.now ∧ 64 ≤ s.ledger.arrived) := by
  simp only [clerksFull, Bool.and_eq_true, beq_iff_eq, decide_eq_true_eq]

section
variable (s : State) (r : Req) (op : Nat) (b : List Byte)

theorem gate_untaken (h : taken s r.path r.session = false) : gate s op r b = .stop s := if_pos (by rw [h]; rfl)

theorem gate_full (ht : taken s r.path r.session = true) (hf : clerksFull s = true) :
    gate s op r b = .stop (s.queueRefusal r.path op r.session r.seq) :=
  (if_neg (by rw [ht]; decide)).trans (if_pos hf)

/-- A request that is heard and whose form is good, of no session that is open. -/
theorem gate_unknown (hh : heard s r.path r.session) (hb : bodyGood op b.length = true) (hx : sessionById (Sys2Proof.counted s r) r.session = none) :
    gate s op r b = .stop (((Sys2Proof.counted s r).refuse0503 r.path op r.session r.seq).violate 18 r.path none 0x0503) := by
  rw [Sys2Proof.counted] at hx ⊢
  obtain ⟨htaken, hroom⟩ := hh
  rw [gate, if_neg (by simp [htaken]), if_neg (by simp [hroom])]
  simp only [hb, hx, Bool.not_true, Bool.false_eq_true, if_false]

/-- A request that its session verifies goes on unless its SEQ is no new one (R393, R401). -/
theorem gate_verified (x : Session) (hh : heard s r.path r.session) (hb : bodyGood op b.length = true)
    (hx : sessionById (Sys2Proof.counted s r) r.session = some x) (hv : x.verifies (Sys2Proof.counted s r) op r b = true)
    (hk : x.kept.find? (fun e => e.1 == r.seq) = none) (u : State)
    (hu : u = (Sys2Proof.counted s r).modSession x.id (fun y => { y with last := s.now })) :
    gate s op r b = if r.seq.toNat ≤ x.seq then
      .stop ((u.sendResponse r.path (responseBytes u r.path op r.session r.seq 0x0502 [] x.tagKey)).violate 18 r.path (some r.session) 0x0502)
    else .go u x := by
  have hnow := counted_now s r
  rw [Sys2Proof.counted] at hx hv hu hnow
  obtain ⟨htaken, hroom⟩ := hh
  rw [gate, if_neg (by simp [htaken]), if_neg (by simp [hroom])]
  simp only [hb, hx, hv, hk, hnow, ← hu, Bool.not_true, Bool.false_eq_true, if_false]

end

end Sys2Proof.Machine
end

section
/-! SUPPORT. WRITE and APPLY of an object (R382, R383, R386, R387, R390, R393; Machine/Objs.lean, Machine/Write.lean): the codes of a WRITE in their
order, the staged copy, W1C bits, and a group whose APPLY passes. -/

namespace Sys2Proof.Machine

/-! ## Rows of the dictionary (R390) -/

/-- The row that the dictionary has for an object. -/
def rowAt (idx sub : Nat) : Option ObjRow := (Obj.record idx).bind (fun e => (Obj.rowOf e.2 sub).map (·.1))

/-- An object that is found has the dictionary's row. -/
theorem rowAt_of_lookup {t : State} {idx sub : Nat} {row : ObjRow} (h : lookup t idx sub = .ok row) : rowAt idx sub = some row := by
  rw [lookup] at h
  rw [rowAt]
  split at h
  · cases h
  · cases hrec : Obj.record idx with
    | none => rw [hrec] at h; cases h
    | some e =>
      rw [hrec] at h
      cases hrow : Obj.rowOf e.2 sub with
      | none => simp only [hrow] at h; cases h
      | some w =>
        simp only [hrow] at h
        cases h
        simp only [Option.bind_some, hrow, Option.map_some]

/-- The key of a slot is of varying length. -/
theorem rowAt_key (k : Fin 16) : (rowAt (0x1200 + k.val) 1).any (fun w => isBlob w.ty) = true := by
  revert k
  decide

/-- Whether an object is the KEY of a key slot, which is staged under a mask (R402). -/
def isKey (key : Nat) : Prop := 0x1200 ≤ key / 256 ∧ key / 256 < 0x1210 ∧ key % 256 = 1

theorem not_isKey {t : State} {idx sub : Nat} {row : ObjRow} (hl : lookup t idx sub = .ok row) (hs : sub < 256) (hb : isBlob row.ty = false) :
    ¬isKey (idx * 256 + sub) := by
  rintro ⟨hlow, hhigh, hsub⟩
  obtain rfl : sub = 1 := by omega
  have hkey := rowAt_key ⟨idx - 0x1200, by omega⟩
  rw [show 0x1200 + (idx - 0x1200) = idx by omega, rowAt_of_lookup hl, Option.any_some, hb] at hkey
  cases hkey

/-- Beside the keys, the objects of the staged copies are RWP (R386). -/
theorem acc_of_enters {t : State} {idx sub : Nat} {row : ObjRow} (hl : lookup t idx sub = .ok row) (hs : sub < 256)
    (he : enters (idx * 256 + sub) row = true) (hb : isBlob row.ty = false) : row.acc = .rwp := by
  have hkey := not_isKey hl hs hb
  simp only [isKey] at hkey
  simp only [enters, Bool.or_eq_true, Bool.and_eq_true, beq_iff_eq, decide_eq_true_eq, and_assoc] at he
  exact (he.resolve_right hkey).1

/-- The objects whose writes act once the answer has left (R400, R504, R514, R520). -/
def lateKeys : List Nat := [Obj.SESSIONS.KILL.key, Obj.HEALTH.RESET.key, Obj.HEALTH.SWITCH.key, Obj.HEALTH.ZEROIZE.key]

theorem State.afterWrite_none (s : State) (x : Session) (key v : Nat) (h : key ∉ lateKeys) : s.afterWrite x key v = s := by
  simp only [lateKeys, List.mem_cons, List.not_mem_nil, or_false, not_or] at h
  obtain ⟨hkill, hreset, hswitch, hzero⟩ := h
  rw [State.afterWrite, if_neg hkill, if_neg hreset, if_neg hswitch, if_neg hzero]

theorem not_late_of_rwp {t : State} {idx sub : Nat} {row : ObjRow} (hl : lookup t idx sub = .ok row) (hs : sub < 256) (ha : row.acc = .rwp) :
    idx * 256 + sub ∉ lateKeys := by
  have hwo : ∀ i j : Nat, j < 256 → (rowAt i j).any (fun w => w.acc == .wo) = true → idx * 256 + sub ≠ i * 256 + j := fun i j hj hw he => by
    obtain ⟨rfl, rfl⟩ : idx = i ∧ sub = j := by omega
    rw [rowAt_of_lookup hl, Option.any_some, ha] at hw
    cases hw
  simp only [lateKeys, List.mem_cons, List.not_mem_nil, or_false, not_or]
  exact ⟨hwo 0x1280 3 (by decide) rfl, hwo 0x7A00 0x19 (by decide) rfl, hwo 0x7A00 0x15 (by decide) rfl, hwo 0x7A00 0x1A (by decide) rfl⟩

/-! ## A WRITE that its session has heard -/

section
variable {s t u : State} {x : Session} {r : Req} {idx sub ty : Nat} {v : List Byte}
variable (hg : gate s 0x11 r (le 2 idx ++ le 1 sub ++ le 1 ty ++ v) = .go t x)
include hg

theorem writeMsg_refused {c : Nat} (hw : t.writeFor x r idx sub ty v = (u, c)) (hc : c ≠ 0) :
    s.writeMsg r idx sub ty v = u.reply x 0x11 r c [] := by
  rw [State.writeMsg, hg]
  simp only [hw, if_neg hc]

theorem writeMsg_granted (hw : t.writeFor x r idx sub ty v = (u, 0)) (hk : idx * 256 + sub ∉ lateKeys) :
    s.writeMsg r idx sub ty v = granted u x r := by
  rw [State.writeMsg, hg]
  simp only [hw, if_true]
  exact State.afterWrite_none _ x _ _ hk

end

/-! ## The codes of a WRITE in their order (R393) -/

theorem firstCode_first {c : Nat} {l : List Nat} (h : c ≠ 0) : firstCode (c :: l) = c := if_neg h

/-- LOAD_STATUS tells refusals of an image for its form or its place alone. -/
theorem State.loadStatus_other (s : State) (key code : Nat) (h1 : code ≠ 0x0301) (h4 : code ≠ 0x0401) : s.loadStatus key code = s := by
  rw [State.loadStatus]
  split
  · exact if_neg (by omega)
  · rfl

section
variable {t : State} {x : Session} {key ty : Nat} {row : ObjRow} {v : List Byte}

theorem accessCode_readOnly (ha : row.acc = .ro) (hw : row.w1c = 0) : accessCode t x key row ty v = 0x0202 :=
  if_pos ⟨ha, by simp [isW1c, hw]⟩

theorem isW1c_of_not_ro (ha : row.acc ≠ .ro) : isW1c row = false := by simp [isW1c, ha]

theorem levelOf_plain (hw : isW1c row = false) : levelOf row = row.level := if_neg (by rw [hw]; decide)

theorem accessCode_level (ha : row.acc ≠ .ro) (hl : x.level < row.level) : accessCode t x key row ty v = 0x0201 :=
  (if_neg fun h => ha h.1).trans (if_pos (by rwa [levelOf_plain (isW1c_of_not_ro ha)]))

/-- The access to an object that can be written at the session's level, under its own type and size, while no APPLY of its group is pending. -/
theorem accessCode_passes (ha : row.acc ≠ .ro ∨ isW1c row = true) (hl : levelOf row ≤ x.level) (hs : sizeGood key row v = true)
    (hf : formCode key v = 0) (hp : applyPends t key row = false) : accessCode t x key row row.ty.code v = 0 := by
  have hro : ¬(row.acc = .ro ∧ (!isW1c row) = true) := fun ⟨h, hn⟩ => by
    rcases ha with ha | ha
    · exact ha h
    · simp [ha] at hn
  rw [accessCode, if_neg hro, if_neg (Nat.not_lt.mpr hl), if_neg (by simp [hs]), hf, hp]
  rfl

theorem effectCode_range (hb : isBlob row.ty = false) (hw : isW1c row = false) (hr : inRange row (unreserved row (fromLe v)) = false) (o : Bool) :
    effectCode t key row v o = 0x0302 := by
  have hrange : rangeCode t key row (fromLe v) = 0x0302 := if_pos (by rw [hb, hw, hr]; rfl)
  simp only [effectCode, hb, Bool.false_eq_true, if_false, hrange]
  exact firstCode_first (by decide)

end

section
variable {t : State} {x : Session} {r : Req} {idx sub ty : Nat} {row : ObjRow} {v : List Byte}

theorem State.writeFor_unknown {c : Nat} (hl : lookup t idx sub = .error c) : t.writeFor x r idx sub ty v = (t, c) := by
  rw [State.writeFor, hl]

variable (hl : lookup t idx sub = .ok row)
include hl

theorem State.writeFor_access {c : Nat} (ha : accessCode t x (idx * 256 + sub) row ty v = c) (h0 : c ≠ 0) (h1 : c ≠ 0x0301) (h4 : c ≠ 0x0401) :
    t.writeFor x r idx sub ty v = (t, c) := by
  rw [State.writeFor, hl]
  simp only [ha, ne_eq, h0, not_false_eq_true, if_true, t.loadStatus_other _ c h1 h4]

variable (ha : accessCode t x (idx * 256 + sub) row ty v = 0)
include ha

theorem State.writeFor_effect {c : Nat} (hs : sub ≠ 0xFE) (he : effectCode t (idx * 256 + sub) row v true = c) (h0 : c ≠ 0) (h1 : c ≠ 0x0301)
    (h4 : c ≠ 0x0401) : t.writeFor x r idx sub ty v = (t, c) := by
  rw [State.writeFor, hl]
  simp only [ha, he, hs, ne_eq, h0, not_true_eq_false, not_false_eq_true, if_false, if_true, t.loadStatus_other _ c h1 h4]

theorem State.writeFor_passes (hs : sub ≠ 0xFE) (he : effectCode t (idx * 256 + sub) row v true = 0) :
    t.writeFor x r idx sub ty v = t.writeEff x r (idx * 256 + sub) row v := by
  rw [State.writeFor, hl]
  simp only [ha, he, hs, ne_eq, not_true_eq_false, if_false]

theorem State.writeFor_apply (hs : sub = 0xFE) (hv : fromLe v = 1) : t.writeFor x r idx sub ty v = t.applyFor x r idx := by
  rw [State.writeFor, hl]
  simp only [ha, if_pos hs, hv, ne_eq, not_true_eq_false, if_false, if_true]

end

/-! ## The staged copy (R386) -/

theorem State.writeEff_stages (t : State) (x : Session) (r : Req) (key : Nat) (row : ObjRow) (v : List Byte) (ha : row.acc = .rwp)
    (he : enters key row = true) (hb : isBlob row.ty = false) (hk : ¬isKey key) :
    t.writeEff x r key row v = ({ t with staged := rfSet t.staged key (unreserved row (fromLe v)) }, 0) := by
  have hw : isW1c row = false := isW1c_of_not_ro (by rw [ha]; decide)
  have hstage : t.stage x r key row v = { t with staged := rfSet t.staged key (unreserved row (fromLe v)) } :=
    (if_neg hk).trans (if_neg (by rw [hb]; decide))
  rw [State.writeEff, if_neg (by rw [hw]; decide), if_pos he, hstage]

/-! ## W1C bits (R383) -/

theorem and_mod_two (a m : Nat) : (a &&& m) % 2 = 1 ↔ a % 2 = 1 ∧ m % 2 = 1 := by
  have hbit := Nat.testBit_and a m 0
  simpa only [Nat.testBit_zero, ← Bool.decide_and, decide_eq_decide] using hbit

/-- A number less the bits that it has in common with another. -/
theorem testBit_sub_and (a m i : Nat) : (a - (a &&& m)).testBit i = (a.testBit i && !m.testBit i) := by
  induction i generalizing a m with
  | zero =>
    have hle : a &&& m ≤ a := Nat.and_le_left
    have hlow := and_mod_two a m
    simp only [Nat.testBit_zero, ← decide_not, ← Bool.decide_and, decide_eq_decide]
    omega
  | succ i ih =>
    have hle : a &&& m ≤ a := Nat.and_le_left
    have hlow := and_mod_two a m
    have hhalf : (a &&& m) / 2 = a / 2 &&& m / 2 := Nat.and_div_two
    have hsub : (a - (a &&& m)) / 2 = a / 2 - (a / 2 &&& m / 2) := by omega
    rw [Nat.testBit_succ, Nat.testBit_succ, Nat.testBit_succ, hsub, ih]

/-- The dictionary's row of FLAGS of 2100h. -/
def epochFlagsRow : ObjRow := { sub := 0x04, ty := .bits32, acc := .ro, w1c := 0x52 }

/-- No rule beyond access and type refuses a W1C write of the epoch's FLAGS while no transfer to them is open. -/
theorem effectCode_epochFlags (t : State) (v : List Byte) (h : transferTo t Obj.EPOCH.FLAGS.key = false) :
    effectCode t Obj.EPOCH.FLAGS.key epochFlagsRow v true = 0 := by
  have hrange : ∀ n, rangeCode t Obj.EPOCH.FLAGS.key epochFlagsRow n = 0 := fun _ => rfl
  have hheld : ∀ n, heldCode t Obj.EPOCH.FLAGS.key epochFlagsRow n = 0 := fun _ => rfl
  have hspare : ∀ n, spareCode t Obj.EPOCH.FLAGS.key n = 0 := fun _ => rfl
  have himage : imageCode t Obj.EPOCH.FLAGS.key v = 0 := rfl
  simp only [effectCode, hrange, hheld, hspare, himage, h]
  rfl

/-- The epoch's flags with the W1C bits of a written value clear. -/
theorem State.clearBits_bit (t : State) (v b : Nat) : (t.clearBits Obj.EPOCH.FLAGS.key epochFlagsRow v).bit Obj.EPOCH.FLAGS b =
    (t.bit Obj.EPOCH.FLAGS b && !(v.testBit b && (0x52 : Nat).testBit b)) := by
  have hread : (t.clearBits Obj.EPOCH.FLAGS.key epochFlagsRow v).u Obj.EPOCH.FLAGS =
      t.u Obj.EPOCH.FLAGS - (t.u Obj.EPOCH.FLAGS &&& (v &&& 0x52)) :=
    (rf_rfSet_self _ _ _ _).trans (by rw [Nat.and_assoc]; rfl)
  rw [State.bit, hread, testBit_sub_and, Nat.testBit_and, State.bit]

theorem State.clearBits_onlyRegs (t : State) (row : ObjRow) (r : Reg) (v : Nat) : onlyRegs t (t.clearBits r.key row v) [r] :=
  ⟨rfl, fun _ hx => rf_rfSet_ne _ _ _ _ _ (hx r List.mem_cons_self)⟩

theorem w1cClear_clears (s t : State) (x : Session) (r : Req) (v : BitVec 32)
    (hg : gate s 0x11 r (le 2 0x2100 ++ le 1 4 ++ le 1 Ty.bits32.code ++ le 4 v.toNat) = .go t x) (hb : t.u Obj.HEALTH.BOOT_STATE ≠ 4)
    (hl : 1 ≤ x.level) (ht : transferTo t Obj.EPOCH.FLAGS.key = false) :
    exec (.w1cClear r 0x2100 4 v) s = .next (granted (t.clearBits Obj.EPOCH.FLAGS.key epochFlagsRow v.toNat) x r) := by
  have hrow : lookup t 0x2100 4 = .ok epochFlagsRow := lookup_serving hb rfl rfl
  have hvalue : fromLe (le 4 v.toNat) = v.toNat := (fromLe_le _ _).trans (Nat.mod_eq_of_lt v.isLt)
  have haccess : accessCode t x Obj.EPOCH.FLAGS.key epochFlagsRow Ty.bits32.code (le 4 v.toNat) = 0 :=
    accessCode_passes (.inr rfl) hl rfl rfl rfl
  have hwrite : t.writeFor x r 0x2100 4 Ty.bits32.code (le 4 v.toNat) = (t.clearBits Obj.EPOCH.FLAGS.key epochFlagsRow v.toNat, 0) := by
    rw [State.writeFor_passes hrow haccess (by decide) (effectCode_epochFlags t _ ht), State.writeEff,
      if_pos (show isW1c epochFlagsRow = true from rfl), hvalue]
    rfl
  exact congrArg Host.Outcome.next (writeMsg_granted hg hwrite (by decide))

/-! ## APPLY (R387) -/

theorem standbyHolds_alone {t : State} (h : standby t = false) (key : Nat) : standbyHolds t key = false := by
  simp only [standbyHolds, h, Bool.false_and]

/-- A state whose group has passed its checks and waits, its APPLY pending. -/
def State.applyPending (t : State) (x : Session) (r : Req) (idx : Nat) : State :=
  { t.judgeSets idx 0 with ledger := { (t.judgeSets idx 0).ledger with
      applying := (t.judgeSets idx 0).ledger.applying ++ [⟨idx, x.id, BitVec.ofNat 32 (sourceWord r.path)⟩] } }

section
variable {t : State} (x : Session) (r : Req) {idx : Nat} (hs : standby t = false)
include hs

theorem State.applyFor_refused {c : Nat} (hc : applyCode t idx = c) (h0 : c ≠ 0) : t.applyFor x r idx = (t.judgeSets idx c, c) := by
  simp only [State.applyFor, hc, standbyHolds_alone hs, Bool.false_eq_true, if_false, ite_self, ne_eq, h0, not_false_eq_true, if_true]

theorem State.applyFor_passes (hc : applyCode t idx = 0) : t.applyFor x r idx = ((t.applyPending x r idx).applied idx, 0) := by
  simp only [State.applyFor, hc, standbyHolds_alone hs, Bool.false_eq_true, if_false, ite_self, ne_eq, not_true_eq_false]
  rfl

end

/-- The groups of ports and of the array wait for their boundaries. -/
theorem State.applied_waits (t : State) (idx : Nat) (hlow : 0x3000 ≤ idx) (hhigh : idx < 0x5110)
    (hset : ¬(0x4000 ≤ idx ∧ idx < 0x4800 ∧ 0x10 ≤ idx % 256 ∧ idx % 256 < 0x18)) : t.applied idx = t := by
  have hgroup : t.groupApplied idx = t := by
    rw [State.groupApplied, dif_neg (by omega), dif_neg (by omega), if_neg (by omega), if_neg (by omega), if_neg hset, if_neg (by omega),
      if_neg (by omega), dif_neg (by omega), if_pos hhigh]
  exact (if_neg (by omega)).trans hgroup

/-- An averaging set shows at once the memory that its staged copy asks for. -/
theorem State.applied_avgSet (t : State) (idx : Nat) (n : Port) (k : Fin 8) (h : idx = 0x4010 + 0x100 * n.val + k.val) :
    t.applied idx = t.put (Obj.AVG_SET.MEM n k) (ramanBytes (groupReader t idx) n k) := by
  have hport : groupPort idx = n := Fin.ext (by change idx / 256 % 8 = n.val; omega)
  have hset : idx % 256 - 0x10 = k.val := by omega
  have hgroup : t.groupApplied idx = t.put (Obj.AVG_SET.MEM n k) (ramanBytes (groupReader t idx) n k) := by
    rw [State.groupApplied, dif_neg (by omega), dif_neg (by omega), if_neg (by omega), if_neg (by omega), if_pos (by omega), hport, hset]
  exact (if_neg (by omega)).trans hgroup

/-- The APPLY of an averaging set judges no tone set. -/
theorem State.judgeSets_avgSet (t : State) (idx code : Nat) (hlow : 0x4000 ≤ idx) : t.judgeSets idx code = t := by
  rw [State.judgeSets, if_neg (by omega), if_neg (by omega)]

section
variable {s t : State} {x : Session} {r : Req} {idx : BitVec 16} {row : ObjRow}
  (hg : gate s 0x11 r (le 2 idx.toNat ++ [0xFE] ++ le 1 Ty.u8.code ++ [1]) = .go t x) (hl : lookup t idx.toNat 0xFE = .ok row) (ha : row.acc = .wo)
  (hty : row.ty = .u8) (hlevel : row.level ≤ x.level) (hp : (groupsOf idx.toNat).any t.isApplying = false)

include hl ha hty hlevel hp in
/-- A WRITE of 1 to APPLY is the APPLY of its group. -/
theorem State.writeFor_applies : t.writeFor x r idx.toNat 0xFE Ty.u8.code (le 1 1) = t.applyFor x r idx.toNat := by
  have himage : imageSlot (idx.toNat * 256 + 0xFE) = none := dif_neg (by omega)
  have hgroup : (idx.toNat * 256 + 0xFE) / 256 = idx.toNat := by omega
  have hform : formCode (idx.toNat * 256 + 0xFE) (le 1 1) = 0 := by rw [formCode, himage]
  have hpends : applyPends t (idx.toNat * 256 + 0xFE) row = false := by rw [applyPends, hgroup, hp, Bool.and_false]
  have hsize : sizeGood (idx.toNat * 256 + 0xFE) row (le 1 1) = true := by rw [sizeGood, hty]; rfl
  have hro : row.acc ≠ .ro := by rw [ha]; decide
  refine State.writeFor_apply hl ?_ rfl rfl
  rw [← hty]
  exact accessCode_passes (.inl hro) (by rwa [levelOf_plain (isW1c_of_not_ro hro)]) hsize hform hpends

variable (hs : standby t = false)
include hg hl ha hty hlevel hp hs

theorem apply_refused {c : Nat} (h0 : c ≠ 0) (hc : applyCode t idx.toNat = c) :
    exec (.apply r idx) s = .next ((t.judgeSets idx.toNat c).reply x 0x11 r c []) :=
  congrArg Host.Outcome.next (writeMsg_refused hg
    ((State.writeFor_applies hl ha hty hlevel hp).trans (State.applyFor_refused x r hs hc h0)) h0)

theorem apply_passes (hc : applyCode t idx.toNat = 0) :
    exec (.apply r idx) s = .next (granted ((t.applyPending x r idx.toNat).applied idx.toNat) x r) := by
  refine congrArg Host.Outcome.next (writeMsg_granted hg
    ((State.writeFor_applies hl ha hty hlevel hp).trans (State.applyFor_passes x r hs hc)) ?_)
  have hlate : ∀ k ∈ lateKeys, k % 256 ≠ 0xFE := by decide
  exact fun hk => hlate _ hk (by omega)

end

end Sys2Proof.Machine

namespace Sys2Proof
open Machine

/-- Settles O40: the gate by what stops a request, a WRITE by the first code that refuses it or by the store its value enters, and APPLY by its
own checks and the boundary of its group. -/
theorem requestsAndWrites : Obligations.RequestsAndWrites := by
  refine ⟨fun s r op b => gate_untaken s r op b, fun s r op b ht hf => ⟨_, gate_full s r op b ht hf, rfl⟩, clerksFull_iff,
    fun s r op b => gate_unknown s r op b, ?_, ?_, ?_, ?_, ?_, ?_, ?_⟩
  · intro s r op b x hh hb hx hv hk hseq
    exact (gate_verified s r op b x hh hb hx hv hk _ rfl).trans (if_neg (Nat.not_le.mpr hseq))
  · intro s r op b x u hh hb hx hv hk hseq hu
    exact (gate_verified s r op b x hh hb hx hv hk u hu).trans (if_pos hseq)
  · intro s t x r idx sub ty v c hg hl h0
    exact congrArg Host.Outcome.next (writeMsg_refused hg (State.writeFor_unknown hl) h0)
  · intro s t x r idx sub ty v row hg hl
    refine ⟨fun ha hw => ?_, fun ha hlevel => ?_, fun ha hb hw hr hs => ?_⟩
    · exact congrArg Host.Outcome.next (writeMsg_refused hg
        (State.writeFor_access hl (accessCode_readOnly ha hw) (by decide) (by decide) (by decide)) (by decide))
    · exact congrArg Host.Outcome.next (writeMsg_refused hg
        (State.writeFor_access hl (accessCode_level ha hlevel) (by decide) (by decide) (by decide)) (by decide))
    · have hsub : sub.toNat ≠ 0xFE := fun h => hs (BitVec.eq_of_toNat_eq h)
      exact congrArg Host.Outcome.next (writeMsg_refused hg
        (State.writeFor_effect hl ha hsub (effectCode_range hb hw hr true) (by decide) (by decide) (by decide)) (by decide))
  · rintro s t x r idx sub ty v row key hg hl rfl ha he hs henters hb
    have hsub : sub.toNat ≠ 0xFE := fun h => hs (BitVec.eq_of_toNat_eq h)
    have hacc := acc_of_enters hl sub.isLt henters hb
    have hstaged := (State.writeFor_passes (r := r) hl ha hsub he).trans
      (t.writeEff_stages x r _ row v hacc henters hb (not_isKey hl sub.isLt hb))
    exact congrArg Host.Outcome.next (writeMsg_granted hg hstaged (not_late_of_rwp hl sub.isLt hacc))
  · intro s t x r v hg hb hl ht
    refine ⟨_, w1cClear_clears s t x r v hg hb hl ht, t.clearBits_onlyRegs _ _ _, fun hv => ?_, fun hv => ?_⟩
    · rw [State.clearBits_bit, show v.toNat.testBit Bit.EPOCH.FLAGS.STEPPED = true from hv]
      exact Bool.and_false _
    · rw [State.clearBits_bit, show v.toNat.testBit Bit.EPOCH.FLAGS.STEPPED = false from hv]
      exact Bool.and_true _
  · intro s t x r idx row hg hl ha hty hlevel hp hs
    refine ⟨?_, ?_, fun c h0 hc => apply_refused hg hl ha hty hlevel hp hs h0 hc⟩
    · rintro u rfl hc hlow hhigh hset
      rw [apply_passes hg hl ha hty hlevel hp hs hc, State.applied_waits _ _ hlow hhigh hset]
      rfl
    · rintro u n k hidx rfl hc
      rw [apply_passes hg hl ha hty hlevel hp hs hc, State.applied_avgSet _ _ n k hidx, State.applyPending,
        t.judgeSets_avgSet _ _ (by omega)]

end Sys2Proof
end

section
/-! SUPPORT. Segmented transfers and snapshots (R395 to R397; Machine/Segment.lean): what each message of a session makes of its transfer. -/

namespace Sys2Proof.Machine

/-- A request that goes on to its object checks is answered with the code of its effect. -/
theorem answered_go {s t u : State} {x : Session} {op c : Nat} {r : Req} {b : List Byte} {f : State → Session → State × Nat}
    (hg : gate s op r b = .go t x) (hf : f t x = (u, c)) : answered s op r b f = u.reply x op r c [] := by
  rw [answered, hg]
  simp only [hf]

/-- Firmware alone goes to a bank as its bytes arrive (R338). -/
theorem State.fwArrives_other (s : State) (key : Nat) (l : List Byte) (h : key ≠ fwImageKey) : s.fwArrives key l = s := if_neg fun hc => h hc.1

/-! ## SEG_BEGIN -/

section
variable {t : State} {x : Session} {idx sub total : Nat} {bale : Bool} {row : ObjRow} (hl : lookup t idx sub = .ok row)
include hl

theorem State.beginFor_refused {c : Nat} (hc : beginCode t x (idx * 256 + sub) row bale total = c) (h0 : c ≠ 0) :
    t.beginFor x idx sub bale total = (t, c) := by
  rw [State.beginFor, hl]
  simp only [hc, ne_eq, h0, not_false_eq_true, if_true]

theorem State.beginFor_begins (u : State) (hu : u = t.modSession x.id (fun y =>
      { y with transfer := some { serial := t.ledger.serial, key := idx * 256 + sub, bale := bale, total := total } }))
    (hc : beginCode t x (idx * 256 + sub) row bale total = 0) (hk : idx * 256 + sub ≠ fwImageKey) :
    t.beginFor x idx sub bale total = ({ u with ledger := { u.ledger with serial := t.ledger.serial + 1 } }, 0) := by
  subst hu
  rw [State.beginFor, hl]
  simp only [hc, ne_eq, not_true_eq_false, if_false, State.fwArrives_other _ _ _ hk]

end

/-! ## SEG_DATA -/

section
variable (t : State) (x : Session) (off : Nat) (b : List Byte)

theorem State.dataFor_none (h : x.transfer = none) : t.dataFor x off b = (t, 0x0502) := by
  rw [State.dataFor, h]

theorem State.dataFor_misplaced (y : Transfer) (h : x.transfer = some y) (ho : off ≠ y.bytes.length) : t.dataFor x off b = (t, 0x0502) := by
  rw [State.dataFor, h]
  exact if_pos (.inl ho)

/-- The bytes of a transfer without BALE join those before them. -/
theorem State.dataFor_joins (y : Transfer) (h : x.transfer = some y) (hb : y.bale = false) (hr : y.requested = none) (hk : y.key ≠ fwImageKey)
    (ho : off = y.bytes.length) (ht : y.bytes.length + b.length ≤ y.total) (hq : t.bale.decode.length ≤ 64) :
    t.dataFor x off b = (t.modSession x.id (fun z =>
      { z with transfer := z.transfer.map (fun w => { w with bytes := y.bytes ++ b, seen := y.seen, bales := y.bales }) }), 0) := by
  have hplace : ¬(off ≠ y.bytes.length ∨ y.requested.isSome = true) := by simp [ho, hr]
  have hdecode : ∀ p : BalePart, { p with decode := p.decode ++ [] } = p := fun p => by rw [List.append_nil]
  rw [State.dataFor, h]
  simp only [if_neg hplace, if_neg (Nat.not_lt.mpr ht), hb, Bool.false_eq_true, if_false, List.length_nil, Nat.add_zero,
    if_neg (Nat.not_lt.mpr hq), List.zipIdx_nil, List.map_nil, List.sum_nil, hdecode, State.fwArrives_other _ _ _ hk]
  rfl

end

/-! ## SEG_END -/

theorem segEnd_heard {s t : State} {x : Session} {r : Req} {crc : BitVec 32} (hg : gate s 0x14 r (le 4 crc.toNat) = .go t x) :
    exec (.segEnd r crc) s = .next (t.endFor x r crc) := by
  change execSegEnd r crc s = _
  rw [execSegEnd, hg]

section
variable (t : State) (x : Session) (r : Req) (crc : BitVec 32) (y : Transfer) (h : x.transfer = some y) (hr : y.requested = none)
include h hr

theorem State.endFor_short (hs : y.bytes.length < y.total) : t.endFor x r crc = t.reply x 0x14 r 0x0301 [] := by
  rw [State.endFor, h]
  simp only [hr, if_pos hs]

theorem State.endFor_corrupt (hs : y.total ≤ y.bytes.length) (hc : crc32c y.bytes ≠ crc) : t.endFor x r crc = t.endTransfer x r 0x0301 := by
  rw [State.endFor, h]
  simp only [hr, if_neg (Nat.not_lt.mpr hs), if_pos hc]

theorem State.endFor_writes (hs : y.total ≤ y.bytes.length) (hc : crc32c y.bytes = crc) (hb : y.bale = false) (hf : y.failed = none) :
    t.endFor x r crc = (t.writeWhole x r y.key y.bytes).1.endTransfer x r (t.writeWhole x r y.key y.bytes).2 := by
  rw [State.endFor, h]
  simp only [hr, if_neg (Nat.not_lt.mpr hs), hc, hb, ne_eq, not_true_eq_false, Bool.false_eq_true, false_and, if_false, State.finishTransfer, hf]

end

/-! ## SEG_READ -/

/-- A SEG_READ of the snapshot that its session holds of the object. -/
theorem State.segReadFor_snapshot {t : State} {x : Session} {idx sub off max : Nat} {row : ObjRow} (e : Nat × List Byte)
    (hl : lookup t idx sub = .ok row) (ha : row.acc ≠ .wo) (hb : isBlob row.ty = true) (h0 : 0 < max) (hmax : max ≤ 1400) (ho : off ≠ 0)
    (he : x.snapshot = some e) (hk : e.1 = idx * 256 + sub) : t.segReadFor x idx sub off max = (t, 0, segBody e.2 off max) := by
  have hrange : ¬(max = 0 ∨ 1400 < max) := by omega
  rw [State.segReadFor, hl]
  simp only [if_neg ha, hb, Bool.not_true, Bool.false_eq_true, if_false, if_neg hrange, if_neg ho, he, if_pos hk]

theorem segRead_snapshot (s t : State) (x : Session) (r : Req) (idx : BitVec 16) (sub : BitVec 8) (off : BitVec 32) (max : BitVec 16)
    (e : Nat × List Byte) (row : ObjRow)
    (hg : gate s 0x15 r (le 2 idx.toNat ++ le 1 sub.toNat ++ le 1 0 ++ le 4 off.toNat ++ le 2 max.toNat) = .go t x)
    (hl : lookup t idx.toNat sub.toNat = .ok row) (ha : row.acc ≠ .wo) (hb : isBlob row.ty = true) (h0 : 0 < max.toNat) (hmax : max.toNat ≤ 1400)
    (ho : off ≠ 0) (he : x.snapshot = some e) (hk : e.1 = idx.toNat * 256 + sub.toNat) :
    exec (.segRead r idx sub off max) s = .next (t.reply x 0x15 r 0 (le 2 0 ++ le 4 e.2.length ++ slice e.2 off.toNat max.toNat)) := by
  have hoff : off.toNat ≠ 0 := fun h => ho (BitVec.eq_of_toNat_eq h)
  change execSegRead r idx sub off max s = _
  rw [execSegRead, hg]
  simp only [State.segReadFor_snapshot e hl ha hb h0 hmax hoff he hk]
  rfl

end Sys2Proof.Machine
end

section
/-! SUPPORT. The limit of a source (R406; Machine/Source.lean) and the summary entries of the day book (R539; Machine/Book.lean,
Machine/Mirrored.lean). -/

namespace Sys2Proof.Machine

/-! ## Sources -/

theorem sourceRec_src (s : State) (x : Source) : (sourceRec s x).src = x := by
  rw [sourceRec]
  cases h : s.ledger.sources.find? (fun r => r.src == x) with
  | none => rfl
  | some r => exact beq_iff_eq.mp (List.find?_some (p := fun r : SourceRec => r.src == x) h)

theorem sourceRec_putSource_self (s : State) (r : SourceRec) : sourceRec (s.putSource r) r.src = r := by
  simp [sourceRec, State.putSource]

theorem sourceRec_putSource_ne (s : State) (r : SourceRec) (y : Source) (h : y ≠ r.src) : sourceRec (s.putSource r) y = sourceRec s y := by
  have hfind : (s.ledger.sources.filter (fun x => x.src != r.src)).find? (fun x => x.src == y) = s.ledger.sources.find? (fun x => x.src == y) := by
    rw [List.find?_filter]
    refine congrArg (fun p => s.ledger.sources.find? p) (funext fun x => ?_)
    by_cases hx : x.src = y
    · simp [hx, h]
    · simp [hx]
  rw [sourceRec, State.putSource, List.find?_cons_of_neg (by simpa using Ne.symm h), hfind, sourceRec]

theorem rateLimitEnd_unlimited (s : State) (src : Source) (h : (sourceRec s src).limited = false) : exec (.rateLimitEnd src) s = .next s :=
  congrArg Host.Outcome.next (if_neg (by rw [h]; decide))

theorem rateLimitEnd_frees (s : State) (src : Source) (h : (sourceRec s src).limited = true) :
    ∃ u : State, exec (.rateLimitEnd src) s = .next u ∧ (sourceRec u src).limited = false ∧ (sourceRec u src).recent = [] ∧
      (∀ y : Source, y ≠ src → sourceRec u y = sourceRec s y) ∧ u.regs = s.regs := by
  let freed : SourceRec := { sourceRec s src with limited := false, recent := [], lastServed := none }
  have hsrc : freed.src = src := sourceRec_src s src
  have hself : sourceRec (s.putSource freed) src = freed := by
    have hput := sourceRec_putSource_self s freed
    rwa [hsrc] at hput
  refine ⟨s.putSource freed, congrArg Host.Outcome.next (if_pos h), by rw [hself], by rw [hself], fun y hy => ?_, rfl⟩
  exact sourceRec_putSource_ne s freed y (by rwa [hsrc])

/-! ## Summary entries -/

theorem summaryEntry_none (s : State) (k : SummaryKey) (h : summaryOf s k = none) : exec (.summaryEntry k) s = .next s := by
  change execSummaryEntry k s = _
  rw [execSummaryEntry, h]

theorem summaryOf_setSummary_none (s : State) (k : SummaryKey) : summaryOf (setSummary s k none) k = none := by
  refine List.find?_eq_none.mpr fun x hx => ?_
  simpa using (List.mem_filter.mp hx).2

/-- A key whose second passes without an event rests. -/
theorem summaryEntry_rests (s : State) (k : SummaryKey) (r : SummaryRec) (h : summaryOf s k = some r) (h0 : r.count = 0) :
    ∃ u : State, exec (.summaryEntry k) s = .next u ∧ summaryOf u k = none ∧ u = { s with book := u.book } := by
  refine ⟨setSummary s k none, ?_, summaryOf_setSummary_none s k, rfl⟩
  change execSummaryEntry k s = _
  rw [execSummaryEntry, h]
  exact congrArg _ (if_pos h0)

theorem summaryEntry_enters (s : State) (k : SummaryKey) (r : SummaryRec) (h : summaryOf s k = some r) (h0 : r.count ≠ 0) :
    exec (.summaryEntry k) s = .next (setSummary (summaryEntry s k r.count r.first) k (some ⟨k, 0, 0⟩)) := by
  change execSummaryEntry k s = _
  rw [execSummaryEntry, h]
  exact congrArg _ (if_neg h0)

end Sys2Proof.Machine
end

section
/-! SUPPORT. The CAN port (R408, R409, R411, R412; Machine/Message.lean, Machine/Pins.lean): Ledger messages in segments, and bus-off. -/

namespace Sys2Proof.Machine

/-! ## Segments -/

section
variable (s : State) (id : BitVec 29) (cl : Bool)

theorem canLedgerFrame_other (d : List Byte) (h : canForUs s id = false) : exec (.canLedgerFrame id cl d) s = .next s :=
  congrArg Host.Outcome.next (if_pos (by rw [h]; rfl))

/-- The channel of a Ledger frame (R411). -/
def canChan (id : BitVec 29) : Fin 16 := Fin.ofNat 16 (id.toNat / 2 ^ 19)

/-- A first frame that others follow, on a channel with no partial message. -/
theorem canLedgerFrame_first (d : List Byte) (h : canForUs s id = true) (hp : ∀ e ∈ s.can.partials, e.1 ≠ canChan id) :
    exec (.canLedgerFrame id cl (0x80 :: d)) s = .next { s with can := { s.can with partials := (canChan id, d, 1) :: s.can.partials } } := by
  have hfind : s.can.partials.find? (fun e => e.1 == canChan id) = none := List.find?_eq_none.mpr fun e he => by simpa using hp e he
  have hrest : s.can.partials.filter (fun e => e.1 != canChan id) = s.can.partials := List.filter_eq_self.mpr fun e he => by simpa using hp e he
  have hjoin : s.canJoin (canChan id) d 0 false = { s with can := { s.can with partials := (canChan id, d, 1) :: s.can.partials } } := by
    rw [State.canJoin, hrest]
    rfl
  refine congrArg Host.Outcome.next ((if_neg (by rw [h]; decide)).trans ?_)
  rw [← canChan]
  simp only [hfind, List.getD_cons_zero, List.drop_one, List.tail_cons]
  exact (if_pos (by decide)).trans ((if_neg (by decide)).trans hjoin)

/-- The second and last frame of a message, on a channel that waits for it. -/
theorem canLedgerFrame_last (d l : List Byte) (h : canForUs s id = true) (hp : s.can.partials = [(canChan id, l, 1)]) :
    exec (.canLedgerFrame id cl (0x41 :: d)) s =
      .next (({ s with can := { s.can with partials := [] } }).arrived (.can (canChan id)) (unfilled (l ++ d))) := by
  have hfind : s.can.partials.find? (fun e => e.1 == canChan id) = some (canChan id, l, 1) := by simp [hp]
  have hrest : s.can.partials.filter (fun e => e.1 != canChan id) = [] := by simp [hp]
  have hjoin : s.canJoin (canChan id) (l ++ d) 1 true =
      ({ s with can := { s.can with partials := [] } }).arrived (.can (canChan id)) (unfilled (l ++ d)) := by
    rw [State.canJoin, hrest]
    rfl
  refine congrArg Host.Outcome.next ((if_neg (by rw [h]; decide)).trans ?_)
  rw [← canChan]
  simp only [hfind, List.getD_cons_zero, List.drop_one, List.tail_cons]
  exact (if_neg (by decide)).trans ((if_neg (by decide)).trans hjoin)

end

theorem canSegmentTimeout_none (s : State) (c : Fin 16) (h : ∀ e ∈ s.can.partials, e.1 ≠ c) : exec (.canSegmentTimeout c) s = .next s :=
  congrArg Host.Outcome.next (if_neg (by simpa using fun l n he => h (c, l, n) he rfl))

theorem canSegmentTimeout_discards (s : State) (c : Fin 16) (l : List Byte) (n : Nat) (h : (c, l, n) ∈ s.can.partials) :
    exec (.canSegmentTimeout c) s = .next ((({ s with can := { s.can with partials := s.can.partials.filter (fun e => e.1 != c) } }).bump
      Obj.CAN.SEQ_ERR).violate 19 (.can c) none 0) := by
  have hany : s.can.partials.any (fun e => e.1 == c) = true := List.any_eq_true.mpr ⟨_, h, beq_self_eq_true c⟩
  refine congrArg Host.Outcome.next ((if_pos hany).trans ?_)
  rw [State.canDiscard, hany]
  rfl

/-! ## Bus-off -/

theorem canStb_iff (s : State) : canStb s = true ↔ s.u Obj.CAN.CAN_EN = 0 := beq_iff_eq

theorem busOff_enters (s : State) (h : s.u Obj.CAN.CAN_EN = 1) (hb : s.can.busOff = false) :
    ∃ (u : State) (e : Ev), exec .busOff s = .next (u.log e) ∧
      u = (({ s with can := { s.can with busOff := true } }).put Obj.CAN.TEC 255).bump Obj.CAN.BUS_OFFS ∧ e.sub = 19 :=
  ⟨_, _, congrArg Host.Outcome.next (if_neg (by simp [h, hb])), rfl, rfl⟩

theorem busOff_stays (s : State) (h : s.can.busOff = true) : exec .busOff s = .next s := congrArg Host.Outcome.next (if_pos (.inr h))

theorem busOffRecovery_recovers (s : State) (h : s.can.busOff = true) : exec .busOffRecovery s =
    .next (((({ s with can := { s.can with busOff := false } }).put Obj.CAN.TEC 0).put Obj.CAN.REC 0).canFlush) :=
  congrArg Host.Outcome.next (if_pos h)

end Sys2Proof.Machine
end

section
/-! SUPPORT. What frames over Aggon leave as it is (R427, R428, R438; Machine/Links.lean, Machine/Route.lean). -/

namespace Sys2Proof.Machine

/-- A state without its links and without what has left by them. -/
def State.unlinked (s : State) : State := { s with links := Vector.replicate 4 {}, out := [] }

theorem State.unlinked_modLink (s : State) (k : Fin 4) (f : LinkPart → LinkPart) : (s.modLink k f).unlinked = s.unlinked := rfl

theorem State.unlinked_putFrame (s : State) (k : Fin 4) (f : AggonFrame) : (s.putFrame k f).unlinked = s.unlinked := rfl

theorem State.unlinked_sendNow (s : State) (k : Fin 4) (f : AggonFrame) : (s.sendNow k f).unlinked = s.unlinked := by
  rw [State.sendNow, State.unlinked_putFrame, State.unlinked_modLink]

theorem State.unlinked_pump (n : Nat) (s : State) (k : Fin 4) : (State.pump n s k).unlinked = s.unlinked := by
  induction n generalizing s with
  | zero => rfl
  | succ n ih =>
    rw [State.pump]
    split
    · rfl
    · split
      · exact (ih _).trans (s.unlinked_sendNow k _)
      · rfl

theorem State.unlinked_pumpLink (s : State) (k : Fin 4) : (s.pumpLink k).unlinked = s.unlinked := by
  rw [State.pumpLink]
  split
  · rfl
  · exact s.unlinked_pump _ k

theorem State.unlinked_sendTo (s : State) (d : BitVec 11) (f : AggonFrame) : (s.sendTo d f).unlinked = s.unlinked := by
  rw [State.sendTo]
  split
  · rw [State.sendFrame]
    split
    · rfl
    · exact State.unlinked_pumpLink _ _
  · rfl

/-- A Ledger message sent takes the next message number, whatever its frames do on the links. -/
theorem State.unlinked_sendLedger (s : State) (d : BitVec 11) (m : List Byte) :
    (s.sendLedger d m).unlinked = ({ s with cluster := { s.cluster with msg := s.cluster.msg + 1 } }).unlinked := by
  rw [State.sendLedger, State.sendMessage]
  exact List.foldlRecOn (motive := fun t : State => t.unlinked = _) _ _ rfl fun t ht _ _ => (t.unlinked_sendTo _ _).trans ht

theorem State.acceptFrame_bale (s : State) (a : Arrival) (vc : Nat) : (s.acceptFrame a vc).bale = s.bale :=
  congrArg (fun t => t.bale) (State.unlinked_pumpLink _ a.link)

/-- The next frame in order is accepted and has its effect (R428). -/
theorem State.receive_next (s : State) (a : Arrival) (vc : Nat) (act : State → State) (hup : linkUp s a.link = true)
    (hf : a.fseq = s.links[a.link].last + 1) : s.receive a vc act = act (s.acceptFrame a vc) :=
  (if_neg (by rw [hup]; decide)).trans (if_pos hf)

end Sys2Proof.Machine
end

section
/-! SUPPORT. Forwarded messages and unicast frames (R391, R403, R424, R438; Machine/Message.lean). -/

namespace Sys2Proof.Machine

/-! ## Messages for this device and for others (R403) -/

theorem State.takeUp_cluster (s : State) (p : Path) (ses : BitVec 32) : (s.takeUp p ses).cluster = s.cluster :=
  congrArg (fun t => t.cluster) (s.serve_ledger (sourcesOf p ses))

theorem State.takeUp_mem (s : State) (p : Path) (ses : BitVec 32) : (s.takeUp p ses).mem = s.mem :=
  congrArg (fun t => t.mem) (s.serve_ledger (sourcesOf p ses))

section
variable (s : State) (p : Path) (target : BitVec 11) (m : List Byte)

theorem State.forwardTo_other (hroom : clerksFull s = false) (ht : target ≠ ownId s) : s.forwardTo p target m = s.passOn p target m :=
  (if_neg ht).trans (if_neg (by rw [hroom]; decide))

theorem State.arrived_own (h : m.length < 32 ∨ (fromLe (slice m 12 2)).testBit 15 = false) : s.arrived p m = s.takeMessage p m :=
  if_neg fun ⟨hlen, hbit⟩ => by
    rcases h with h | h
    · omega
    · rw [hbit] at h
      cases h

theorem State.arrived_forwarded (hlen : 32 ≤ m.length) (hbit : (fromLe (slice m 12 2)).testBit 15 = true) :
    s.arrived p m = if taken s p 0 then s.forwardTo p (BitVec.ofNat 11 (fromLe (slice m 12 2))) m else s := if_pos ⟨hlen, hbit⟩

theorem ledgerForward_untaken (h : taken s p 0 = false) : exec (.ledgerForward p target m) s = .next s :=
  congrArg Host.Outcome.next (if_pos (by rw [h]; rfl))

theorem ledgerForward_passes (h : heard s p 0) (ht : target ≠ ownId s) : exec (.ledgerForward p target m) s = .next (s.passOn p target m) :=
  congrArg Host.Outcome.next ((if_neg (by rw [h.1]; decide)).trans (s.forwardTo_other p target m h.2 ht))

/-- What is kept of a message until its answer returns. -/
def forwardRec : ForwardRec := ⟨target, fromLe (slice m 1 1) % 128, sessionOf m, seqOf m, p⟩

/-- A state in which a message has been sent on, and is remembered until its answer. -/
def State.forwarded (t : State) : State :=
  { t.sendLedger target (withForwarded m) with ledger := { (t.sendLedger target (withForwarded m)).ledger with
      forwards := (t.sendLedger target (withForwarded m)).ledger.forwards ++ [forwardRec p target m] } }

theorem State.passOn_fails (hlen : 32 ≤ m.length) (hh : holds (s.takeUp p 0) target = false) : s.passOn p target m =
    ((s.takeUp p 0).sendResponse p (fwdFailBytes target m)).violate 18 p none 0x0101 :=
  (if_neg (Nat.not_lt.mpr hlen)).trans (if_pos (by rw [hh]; rfl))

theorem State.passOn_forwards (hlen : 32 ≤ m.length) (hh : holds (s.takeUp p 0) target = true) :
    s.passOn p target m = State.forwarded p target m (s.takeUp p 0) :=
  (if_neg (Nat.not_lt.mpr hlen)).trans (if_neg (by rw [hh]; decide))

theorem State.forwarded_mem : forwardRec p target m ∈ (State.forwarded p target m s).ledger.forwards :=
  List.mem_append_right _ List.mem_cons_self

theorem State.forwarded_msg : (State.forwarded p target m s).cluster.msg = s.cluster.msg + 1 :=
  congrArg (fun t => t.cluster.msg) (s.unlinked_sendLedger target (withForwarded m))

theorem State.forwarded_memory : (State.forwarded p target m s).mem = s.mem :=
  congrArg (fun t => t.mem) (s.unlinked_sendLedger target (withForwarded m))

theorem State.forwarded_sessions : (State.forwarded p target m s).ledger.sessions = s.ledger.sessions :=
  congrArg (fun t => t.ledger.sessions) (s.unlinked_sendLedger target (withForwarded m))

end

/-! ## Answers that return -/

theorem forwardResponse_stray (s : State) (target : BitVec 11) (q : BitVec 32) (m : List Byte)
    (h : ∀ f ∈ s.ledger.forwards, f.answeredBy target q m = false) : exec (.forwardResponse target q m) s = .next s := by
  have hfind : s.ledger.forwards.find? (fun e => e.answeredBy target q m) = none := List.find?_eq_none.mpr fun f hf => by simpa using h f hf
  change Host.Outcome.next (s.answerForward target q m) = _
  rw [State.answerForward, hfind]

theorem forwardResponse_returns (s : State) (f : ForwardRec) (m : List Byte) (h : s.ledger.forwards = [f]) (ho : f.op = fromLe (slice m 1 1) % 128)
    (hs : f.op = 1 ∨ f.session = sessionOf m) :
    exec (.forwardResponse f.target f.seq m) s = .next (({ s with ledger := { s.ledger with forwards := [] } }).sendResponse f.path m) := by
  have hop : f.op = opOf m := ho
  have hanswers : f.answeredBy f.target f.seq m = true := by
    simp only [ForwardRec.answeredBy, ← hop, beq_self_eq_true, Bool.true_and, Bool.or_eq_true, beq_iff_eq]
    exact hs
  have hfind : s.ledger.forwards.find? (fun e => e.answeredBy f.target f.seq m) = some f := by rw [h]; exact List.find?_cons_of_pos hanswers
  have hleft : s.ledger.forwards.erase f = [] := by rw [h]; exact List.erase_cons_head f []
  change Host.Outcome.next (s.answerForward f.target f.seq m) = _
  rw [State.answerForward, hfind]
  simp only [hleft]

/-! ## Frames that join others (R438) -/

theorem forwardedFrameTimeout_none (s : State) (src : BitVec 11) (q : BitVec 32) (h : ∀ e ∈ s.cluster.partials, ¬(e.1 = src ∧ e.2.1 = q)) :
    exec (.forwardedFrameTimeout src q) s = .next s :=
  congrArg Host.Outcome.next (if_neg (by simpa using fun l he => h (src, q, l) he ⟨rfl, rfl⟩))

theorem forwardedFrameTimeout_discards (s : State) (src : BitVec 11) (q : BitVec 32) (h : ∃ e ∈ s.cluster.partials, e.1 = src ∧ e.2.1 = q) :
    exec (.forwardedFrameTimeout src q) s =
      .next (({ s with cluster := { s.cluster with partials := s.cluster.partials.filter (fun e => !(e.1 == src && e.2.1 == q)) } }).violate 17
        (.fwd src 0) none 0) :=
  congrArg Host.Outcome.next (if_pos (by simpa using h))

section
variable (s : State) (k : Fin 4) (f : List Byte) (q : List Nat)

theorem forwardedFrame_bad (ce : Nat) (hup : linkUp s k = true) (hh : headerGood f = false) :
    exec (.forwardedFrame k f ce q) s = .next (s.discardFrame k) :=
  congrArg Host.Outcome.next ((if_neg (by rw [hup]; decide)).trans (if_pos (by rw [hh]; rfl)))

theorem forwardedFrame_joins (ce : Nat) (hup : linkUp s k = true) (hh : headerGood f = true)
    (hf : (arrivalOf k f ce q).fseq = s.links[k].last + 1) :
    exec (.forwardedFrame k f ce q) s = .next ((s.acceptFrame (arrivalOf k f ce q) (fromLe (f.take 1) % 8)).joinFrame k f q) :=
  congrArg Host.Outcome.next ((if_neg (by rw [hup]; decide)).trans ((if_neg (by rw [hh]; decide)).trans
    (s.receive_next (arrivalOf k f ce q) _ _ hup hf)))

theorem State.joinFrame_other (h : BitVec.ofNat 11 (fromLe (slice f 2 2)) ≠ ownId s) :
    s.joinFrame k f q = s.passFrame (BitVec.ofNat 11 (fromLe (slice f 2 2))) (BitVec.ofNat 11 (fromLe (slice f 4 2))) f q := if_pos h

theorem State.joinFrame_own (h : BitVec.ofNat 11 (fromLe (slice f 2 2)) = ownId s) (hk : fromLe (f.take 1) = 33) :
    s.joinFrame k f [] = s.ledgerFrame k (BitVec.ofNat 11 (fromLe (slice f 4 2))) (BitVec.ofNat 32 (fromLe (slice f 12 4)))
      ((fromLe (slice f 1 1)).testBit 0) ((fromLe (slice f 1 1)).testBit 1) (f.drop 24) :=
  (if_neg (not_not.mpr h)).trans (if_neg (by simp [hk]))

end

/-! ## Messages too short to answer (R393) -/

theorem malformedMessage_untaken (s : State) (p : Path) (b : List Byte) (h : taken s p 0 = false) : exec (.malformedMessage p b) s = .next s :=
  congrArg Host.Outcome.next (if_pos (by rw [h]; rfl))

theorem malformedMessage_short (s : State) (p : Path) (b : List Byte) (h : taken s p 0 = true) (hlen : b.length < 32) :
    exec (.malformedMessage p b) s = .next ((s.takeUp p 0).violate 18 p none 0) :=
  congrArg Host.Outcome.next ((if_neg (by rw [h]; decide)).trans (if_pos hlen))

end Sys2Proof.Machine
end

section
/-! SUPPORT. The bales of peer streams (R358, R368, R380, R439; Machine/Segment.lean): their numbers, and their datagrams in FRAG order. -/

namespace Sys2Proof.Machine

/-! ## Numbers -/

/-- A state that holds the number of a peer stream's last bale. -/
def State.withPeer (s : State) (o : BitVec 11 × Fin 256) (no : BitVec 32) : State :=
  { s with twin := { s.twin with peers := (o, no) :: s.twin.peers.filter (fun e => e.1 != o) } }

/-- The bales lost before the one that some datagram belongs to. -/
def gapBefore (s : State) (stream : Fin 256) (d : List Byte) : Nat :=
  baleGap s (BitVec.ofNat 11 (fromLe (slice d 6 2))) stream (BitVec.ofNat 32 (fromLe (slice d 12 4))) ((d.getD 2 0).getLsbD 3)

section
variable (s : State) (stream : Fin 256)

theorem baleGap_first (o : BitVec 11) (no : BitVec 32) (x : Bool) (h : ∀ e ∈ s.twin.peers, e.1 ≠ (o, stream)) :
    baleGap s o stream no x = 0 := by
  have hfind : s.twin.peers.find? (fun e => e.1 == (o, stream)) = none := List.find?_eq_none.mpr fun e he => by simpa using h e he
  rw [baleGap, hfind]

theorem baleGap_dropped (o : BitVec 11) (no : BitVec 32) : baleGap s o stream no true = 0 := by
  rw [baleGap]
  split
  · exact if_pos (.inl rfl)
  · rfl

theorem baleGap_missing (o : BitVec 11) (no old : BitVec 32) (h : s.twin.peers = [((o, stream), old)]) (hlt : old.toNat < no.toNat) :
    baleGap s o stream no false = no.toNat - old.toNat - 1 := by
  have hfind : s.twin.peers.find? (fun e => e.1 == (o, stream)) = some ((o, stream), old) := by simp [h]
  rw [baleGap, hfind]
  exact if_neg (by simp [hlt])

variable (d : List Byte)

theorem State.peerNumbered_bale : (s.peerNumbered stream d).bale = s.bale := by
  simp only [State.peerNumbered]
  split <;> rfl

theorem State.peerNumbered_twin : (s.peerNumbered stream d).twin =
    (s.withPeer (BitVec.ofNat 11 (fromLe (slice d 6 2)), stream) (BitVec.ofNat 32 (fromLe (slice d 12 4)))).twin := by
  simp only [State.peerNumbered]
  split <;> rfl

theorem State.peerNumbered_onlyRegs :
    onlyRegs { s with twin := (s.peerNumbered stream d).twin } (s.peerNumbered stream d) [Obj.STREAM.LOST stream] := by
  rw [s.peerNumbered_twin stream d]
  simp only [State.peerNumbered]
  split
  · exact onlyRegs.refl _ _
  · exact (onlyRegs.refl _ _).put List.mem_cons_self _

/-- LOST counts the bales missing, up to its largest value. -/
theorem State.peerNumbered_lost (h : s.u (Obj.STREAM.LOST stream) + gapBefore s stream d < 2 ^ 32) :
    (s.peerNumbered stream d).u (Obj.STREAM.LOST stream) = s.u (Obj.STREAM.LOST stream) + gapBefore s stream d := by
  rw [gapBefore] at h ⊢
  simp only [State.peerNumbered]
  split
  case isTrue h0 => rw [h0]; rfl
  case isFalse => exact State.u_add_self _ _ _ h

theorem State.peerNumbered_none (h : gapBefore s stream d = 0) :
    (s.peerNumbered stream d).u (Obj.STREAM.LOST stream) = s.u (Obj.STREAM.LOST stream) := by
  rw [gapBefore] at h
  simp only [State.peerNumbered, if_pos h]
  rfl

end

/-! ## Datagrams in FRAG order -/

/-- The datagram of each FRAG of a bale. -/
def fragsOf (l : List (List Byte)) : List (Option (List Byte)) :=
  (List.range (fromLe (slice (l.headD []) 18 2))).map (fun i =>
    l.find? (fun d => fromLe (slice d 16 2) == i && fromLe (slice d 18 2) == fromLe (slice (l.headD []) 18 2)))

theorem map_some_filterMap {α : Type} (l : List (Option α)) (h : l.all Option.isSome = true) : (l.filterMap id).map some = l := by
  induction l with
  | nil => rfl
  | cons a l ih =>
    rw [List.all_cons, Bool.and_eq_true] at h
    obtain ⟨b, rfl⟩ := Option.isSome_iff_exists.mp h.1
    rw [List.filterMap_cons_some (f := id) rfl, List.map_cons, ih h.2]

/-- The datagrams found are those of the FRAGs, each there, and as many as came. -/
theorem fragsOf_inFragOrder {l m : List (List Byte)} (h : inFragOrder l = some m) : fragsOf l = m.map some ∧ m.length = l.length := by
  change (if (fragsOf l).all Option.isSome = true ∧ (fragsOf l).length = l.length then some ((fragsOf l).filterMap id) else none) = some m at h
  split at h
  case isTrue hall =>
    obtain rfl := Option.some.inj h
    have hmap := map_some_filterMap _ hall.1
    refine ⟨hmap.symm, ?_⟩
    rw [← hall.2, ← hmap, List.length_map, hmap]
  case isFalse => cases h

theorem inFragOrder_at {l m : List (List Byte)} (h : inFragOrder l = some m) (i : Nat) (hi : i < m.length) :
    m[i] ∈ l ∧ fromLe (slice m[i] 16 2) = i := by
  have hfrags := (fragsOf_inFragOrder h).1
  have hfind : (fragsOf l)[i]? = some (some m[i]) := by rw [hfrags, List.getElem?_map, List.getElem?_eq_getElem hi]; rfl
  rw [fragsOf, List.getElem?_map] at hfind
  obtain ⟨j, hj, hd⟩ := Option.map_eq_some_iff.mp hfind
  obtain ⟨_, rfl⟩ := List.getElem?_eq_some_iff.mp hj
  rw [List.getElem_range] at hd
  have hgood := List.find?_some hd
  simp only [Bool.and_eq_true, beq_iff_eq] at hgood
  exact ⟨List.mem_of_find?_eq_some hd, hgood.1⟩

theorem inFragOrder_permutes (l m : List (List Byte)) (h : inFragOrder l = some m) :
    m.length = l.length ∧ (∀ x ∈ m, x ∈ l) ∧ ∀ (i : Nat) (hi : i < m.length), fromLe (slice m[i] 16 2) = i := by
  refine ⟨(fragsOf_inFragOrder h).2, fun x hx => ?_, fun i hi => (inFragOrder_at h i hi).2⟩
  obtain ⟨i, hi, rfl⟩ := List.mem_iff_getElem.mp hx
  exact (inFragOrder_at h i hi).1

/-! ## The bale for the decompressor -/

section
variable (s : State) (stream : Fin 256) (dest : BitVec 128) (port : BitVec 16) (dg : List (List Byte)) (clean : Bool)

/-- A bale that is not whole, or that brought poisoned words, is lost. -/
theorem State.peerBale_lost (h : inFragOrder dg = none ∨ clean = false) :
    s.peerBale stream dest port dg clean = (s.peerNumbered stream (dg.headD [])).bump (Obj.STREAM.LOST stream) := by
  rw [State.peerBale]
  cases hl : inFragOrder dg with
  | none => rfl
  | some l =>
    rw [hl] at h
    exact if_pos (by rw [h.resolve_left (Option.some_ne_none l)]; rfl)

theorem State.peerBale_whole (l : List (List Byte)) (h : inFragOrder dg = some l) : s.peerBale stream dest port dg true =
    if 64 ≤ s.bale.decode.length then (s.peerNumbered stream (dg.headD [])).bump Obj.COMPRESSION.QUEUE_FULL
    else { s.peerNumbered stream (dg.headD []) with bale := { s.bale with decode := s.bale.decode ++
      [{ use := 2, owner := 0, bytes := l.flatMap (fun x => x.drop 32), peer := some (stream, dest, port.toNat, l) }] } } := by
  rw [State.peerBale, h]
  simp only [Bool.not_true, Bool.false_eq_true, if_false, s.peerNumbered_bale]
  rfl

end

theorem peerStreamBale_next (s : State) (a : Arrival) (stream : Fin 256) (dest : BitVec 128) (port : BitVec 16) (dg : List (List Byte))
    (hup : linkUp s a.link = true) (hf : a.fseq = s.links[a.link].last + 1) :
    exec (.peerStreamBale a stream dest port dg) s = .next ((s.acceptFrame a 3).peerBale stream dest port dg a.poisoned.isEmpty) :=
  congrArg Host.Outcome.next (s.receive_next a 3 _ hup hf)

end Sys2Proof.Machine

namespace Sys2Proof
open Machine

/-- Settles O43: each message of a transfer by the transfer its session holds, each message that comes over CAN or Aggon by whom it is for, and
a peer stream's bale by whether it is whole. -/
theorem transfersAndRoutes : Obligations.TransfersAndRoutes := by
  refine ⟨?_, ?_, ?_, segRead_snapshot, fun _ _ => ⟨_, rfl, rfl, rfl, rfl, rfl⟩, rateLimitEnd_unlimited, rateLimitEnd_frees,
    fun s id cl d => canLedgerFrame_other s id cl d, ?_, ?_, ?_, canSegmentTimeout_none, canSegmentTimeout_discards, canStb_iff, busOff_enters,
    fun s h => ⟨busOff_stays s h, busOffRecovery_recovers s h⟩, ledgerForward_untaken, ?_, forwardResponse_stray, forwardResponse_returns,
    fun _ _ _ => rfl, fun s src q => ⟨forwardedFrameTimeout_none s src q, forwardedFrameTimeout_discards s src q⟩,
    fun s k f ce q => forwardedFrame_bad s k f q ce, fun s k f ce q => forwardedFrame_joins s k f q ce, ?_, malformedMessage_short,
    malformedMessage_untaken, summaryEntry_none, summaryEntry_rests, summaryEntry_enters, ?_, inFragOrder_permutes, ?_⟩
  · intro s t x r idx sub bale total row hg hl
    refine ⟨fun c h0 hc => ?_, fun u hu hc hk => ?_⟩
    · exact congrArg Host.Outcome.next (answered_go hg (State.beginFor_refused hl hc h0))
    · exact congrArg Host.Outcome.next (answered_go hg (State.beginFor_begins hl u hu hc hk))
  · intro s t x r off b hg
    refine ⟨fun h => ?_, fun y h hb hr hk ho ht hq => ?_, fun y h ho => ?_⟩
    · exact congrArg Host.Outcome.next (answered_go hg (t.dataFor_none x _ b h))
    · exact congrArg Host.Outcome.next (answered_go hg (t.dataFor_joins x _ b y h hb hr hk ho ht hq))
    · exact congrArg Host.Outcome.next (answered_go hg (t.dataFor_misplaced x _ b y h ho))
  · intro s t x r crc y hg h hr
    rw [segEnd_heard hg]
    refine ⟨fun hs => ?_, fun hs hc => ?_, fun hs hc hb hf => ?_⟩
    · rw [t.endFor_short x r crc y h hr hs]
    · rw [t.endFor_corrupt x r crc y h hr hs hc]
    · rw [t.endFor_writes x r crc y h hr hs hc hb hf]
  · rintro s id cl _ d h hp rfl
    exact canLedgerFrame_first s id cl d h hp
  · rintro s id cl d l _ h rfl hp
    exact canLedgerFrame_last s id cl d l h hp
  · intro s p m
    refine ⟨s.arrived_own p m, fun hlen hbit ht => ?_, fun hlen hbit hh ht => ?_⟩
    · rw [s.arrived_forwarded p m hlen hbit, if_neg (by rw [ht]; decide)]
    · rw [s.arrived_forwarded p m hlen hbit, if_pos hh.1, s.forwardTo_other p _ m hh.2 ht]
  · rintro s t p target m hh ht hlen rfl
    rw [ledgerForward_passes s p target m hh ht]
    refine ⟨fun hno => by rw [s.passOn_fails p target m hlen hno], fun hyes => ⟨_, by rw [s.passOn_forwards p target m hlen hyes], ?_⟩⟩
    refine ⟨State.forwarded_mem _ p target m, ?_, ?_, State.forwarded_sessions _ p target m⟩
    · rw [State.forwarded_msg, s.takeUp_cluster]
    · rw [State.forwarded_memory, s.takeUp_mem]
  · rintro s k f q dest src rfl rfl
    refine ⟨s.joinFrame_other k f q, ?_⟩
    rintro h hk rfl
    exact s.joinFrame_own k f h hk
  · rintro s t a stream dest port d dg hup hf rfl
    rw [peerStreamBale_next s a stream dest port _ hup hf]
    refine ⟨fun h => ?_, fun l hl hclean => ?_⟩
    · rw [State.peerBale_lost _ _ _ _ _ _ (h.imp_right List.isEmpty_eq_false_iff.mpr)]
      rfl
    · rw [List.isEmpty_iff.mpr hclean, State.peerBale_whole _ _ _ _ _ l hl, s.acceptFrame_bale]
      exact ⟨fun hroom => by rw [if_neg (Nat.not_le.mpr hroom)]; rfl, fun hfull => by rw [if_pos hfull]; rfl⟩
  · rintro s stream d _ _ rfl rfl
    refine ⟨_, rfl, congrArg TwinPart.peers (s.peerNumbered_twin stream d), s.peerNumbered_onlyRegs stream d, fun hfirst => ?_, fun hdrop => ?_,
      fun old hold hkept hlt hfits => ?_⟩
    · exact s.peerNumbered_none stream d (baleGap_first s stream _ _ _ hfirst)
    · refine s.peerNumbered_none stream d ?_
      rw [gapBefore, hdrop, baleGap_dropped]
    · have hgap : gapBefore s stream d = (BitVec.ofNat 32 (fromLe (slice d 12 4))).toNat - old.toNat - 1 := by
        rw [gapBefore, hkept, baleGap_missing s stream _ _ old hold hlt]
      rw [← hgap] at hfits ⊢
      exact s.peerNumbered_lost stream d hfits

end Sys2Proof
end

section
/-! SUPPORT. Whole steps: every command completes and keeps what `Keeps` says, and so does a cycle in which none waits (Machine/Dispatch.lean,
Machine/Tick.lean, Machine/Step.lean). -/

namespace Sys2Proof.Machine

/-- Every command completes and keeps what Keeps says, by the lemma of its meaning. -/
theorem exec_completes {s₀ s : State} (h : Keeps s₀ s) (c : Instr) : Completes s₀ (exec c s) := by
  unfold exec
  cases c with
  | epochCorrectionOverflow => exact execEpochCorrectionOverflow_keeps h
  | epochSecond => exact execEpochSecond_keeps h
  | ppsEdge => exact execPpsEdge_keeps h
  | ppsTimeout => exact execPpsTimeout_keeps h
  | secLabel => exact execSecLabel_keeps h
  | stepLoad => exact execStepLoad_keeps h
  | slewEnd => exact execSlewEnd_keeps h
  | holdoverErrGrowth => exact execHoldoverErrGrowth_keeps h
  | mainsEdge => exact execMainsEdge_keeps h
  | mainsSyntheticEdge => exact execMainsSyntheticEdge_keeps h
  | encLevelAccept => exact execEncLevelAccept_keeps h
  | encPreset => exact execEncPreset_keeps h
  | lineRateUpdate => exact execLineRateUpdate_keeps h
  | commitPoint => exact execCommitPoint_keeps h
  | toneLoad => exact execToneLoad_keeps h
  | gateAssert => exact execGateAssert_keeps h
  | launch => exact execLaunch_keeps h
  | monStamp => exact execMonStamp_keeps h
  | stampMiss => exact execStampMiss_keeps h
  | recordWindowOpen => exact execRecordWindowOpen_keeps h
  | gateRelease => exact execGateRelease_keeps h
  | recordWindowClose => exact execRecordWindowClose_keeps h
  | lsiRelease => exact execLsiRelease_keeps h
  | lsiHold => exact execLsiHold_keeps h
  | lsiResume => exact execLsiResume_keeps h
  | lsiDiscord => exact execLsiDiscord_keeps h
  | crestComputationEnd => exact execCrestComputationEnd_keeps h
  | commonModeFault => exact execCommonModeFault_keeps h
  | txCheck => exact execTxCheck_keeps h
  | send => exact execSend_keeps h
  | fctlWordEnd => exact execFctlWordEnd_keeps h
  | scheduledWordStart => exact execScheduledWordStart_keeps h
  | stateWordArrival => exact execStateWordArrival_keeps h
  | gridPoint => exact execGridPoint_keeps h
  | dasShotEnd => exact execDasShotEnd_keeps h
  | relearn => exact execRelearn_keeps h
  | queueDrain => exact execQueueDrain_keeps h
  | averageComplete => exact execAverageComplete_keeps h
  | profileDelivery => exact execProfileDelivery_keeps h
  | brilShotAdd => exact execBrilShotAdd_keeps h
  | release => exact execRelease_keeps h
  | deliveryComplete => exact execDeliveryComplete_keeps h
  | migrationCopyEnd => exact execMigrationCopyEnd_keeps h
  | stlTestEnd => exact execStlTestEnd_keeps h
  | image => exact execImage_keeps h
  | programLoadEnd => exact execProgramLoadEnd_keeps h
  | inqPop => exact execInqPop_keeps h
  | get => exact execGet_keeps h
  | put => exact execPut_keeps h
  | get2d => exact execGet2d_keeps h
  | put2d => exact execPut2d_keeps h
  | done => exact execDone_keeps h
  | trig => exact execTrig_keeps h
  | mail => exact execMail_keeps h
  | nop => exact execNop_keeps h
  | vadd => exact execVadd_keeps h
  | vsub => exact execVsub_keeps h
  | vadds => exact execVadds_keeps h
  | vsubs => exact execVsubs_keeps h
  | vand => exact execVand_keeps h
  | vor => exact execVor_keeps h
  | vxor => exact execVxor_keeps h
  | vmin => exact execVmin_keeps h
  | vmax => exact execVmax_keeps h
  | vabs => exact execVabs_keeps h
  | vneg => exact execVneg_keeps h
  | vshl => exact execVshl_keeps h
  | vsra => exact execVsra_keeps h
  | vcgt => exact execVcgt_keeps h
  | vceq => exact execVceq_keeps h
  | vmov => exact execVmov_keeps h
  | vshli => exact execVshli_keeps h
  | vsrai => exact execVsrai_keeps h
  | vsrli => exact execVsrli_keeps h
  | vswz => exact execVswz_keeps h
  | mpy => exact execMpy_keeps h
  | mac => exact execMac_keeps h
  | msu => exact execMsu_keeps h
  | cmac => exact execCmac_keeps h
  | clra => exact execClra_keeps h
  | mova => exact execMova_keeps h
  | adda => exact execAdda_keeps h
  | suba => exact execSuba_keeps h
  | shla => exact execShla_keeps h
  | sraa => exact execSraa_keeps h
  | norm => exact execNorm_keeps h
  | exp => exact execExp_keeps h
  | reda => exact execReda_keeps h
  | lda => exact execLda_keeps h
  | nega => exact execNega_keeps h
  | absa => exact execAbsa_keeps h
  | sta => exact execSta_keeps h
  | ld => exact execLd_keeps h
  | st => exact execSt_keeps h
  | ldp => exact execLdp_keeps h
  | stp => exact execStp_keeps h
  | ldam => exact execLdam_keeps h
  | stam => exact execStam_keeps h
  | lip => exact execLip_keeps h
  | addpi => exact execAddpi_keeps h
  | add => exact execAdd_keeps h
  | sub => exact execSub_keeps h
  | and => exact execAnd_keeps h
  | or => exact execOr_keeps h
  | xor => exact execXor_keeps h
  | shl => exact execShl_keeps h
  | shr => exact execShr_keeps h
  | sra => exact execSra_keeps h
  | shli => exact execShli_keeps h
  | shri => exact execShri_keeps h
  | srai => exact execSrai_keeps h
  | mul => exact execMul_keeps h
  | slt => exact execSlt_keeps h
  | sltu => exact execSltu_keeps h
  | min => exact execMin_keeps h
  | max => exact execMax_keeps h
  | br => exact execBr_keeps h
  | bcc => exact execBcc_keeps h
  | call => exact execCall_keeps h
  | ret => exact execRet_keeps h
  | loop => exact execLoop_keeps h
  | trapret => exact execTrapret_keeps h
  | issue => exact execIssue_keeps h
  | wait => exact execWait_keeps h
  | mfs => exact execMfs_keeps h
  | mts => exact execMts_keeps h
  | movdp => exact execMovdp_keeps h
  | movpd => exact execMovpd_keeps h
  | mfm => exact execMfm_keeps h
  | mtm => exact execMtm_keeps h
  | mfrb => exact execMfrb_keeps h
  | mtrb => exact execMtrb_keeps h
  | rotb => exact execRotb_keeps h
  | vdup => exact execVdup_keeps h
  | pointCondition => exact execPointCondition_keeps h
  | stallTrigRequest => exact execStallTrigRequest_keeps h
  | canFrame => exact execCanFrame_keeps h
  | recordWritten => exact execRecordWritten_keeps h
  | rearmEnd => exact execRearmEnd_keeps h
  | bellArm => exact execBellArm_keeps h
  | bellDisarm => exact execBellDisarm_keeps h
  | bellFire => exact execBellFire_keeps h
  | armAtEpoch => exact execArmAtEpoch_keeps h
  | fireGroup => exact execFireGroup_keeps h
  | armGroup => exact execArmGroup_keeps h
  | armGroupDisarm => exact execArmGroupDisarm_keeps h
  | refEdgeLoss => exact execRefEdgeLoss_keeps h
  | coastAcquire => exact execCoastAcquire_keeps h
  | pllLock => exact execPllLock_keeps h
  | coastExit => exact execCoastExit_keeps h
  | pllLockLoss => exact execPllLockLoss_keeps h
  | qualWindowEnd => exact execQualWindowEnd_keeps h
  | ovenRdyRise => exact execOvenRdyRise_keeps h
  | ovenRdyFall => exact execOvenRdyFall_keeps h
  | ovenHoldExpiry => exact execOvenHoldExpiry_keeps h
  | ageLearnTick => exact execAgeLearnTick_keeps h
  | xtalTrimSave => exact execXtalTrimSave_keeps h
  | domainSourceLoss => exact execDomainSourceLoss_keeps h
  | rootStop => exact execRootStop_keeps h
  | tdcStamp => exact execTdcStamp_keeps h
  | unitEvent => exact execUnitEvent_keeps h
  | pairWinExpiry => exact execPairWinExpiry_keeps h
  | scrub => exact execScrub_keeps h
  | repair => exact execRepair_keeps h
  | channelSecond => exact execChannelSecond_keeps h
  | repairPassEnd => exact execRepairPassEnd_keeps h
  | dramRefresh => exact execDramRefresh_keeps h
  | timingTracking => exact execTimingTracking_keeps h
  | zqCalibration => exact execZqCalibration_keeps h
  | peerResetClear => exact execPeerResetClear_keeps h
  | anTimeout => exact execAnTimeout_keeps h
  | rateTryTimeout => exact execRateTryTimeout_keeps h
  | linkUp => exact execLinkUp_keeps h
  | linkDown => exact execLinkDown_keeps h
  | prpSupervision => exact execPrpSupervision_keeps h
  | prpPathTimeout => exact execPrpPathTimeout_keeps h
  | arpRequest => exact execArpRequest_keeps h
  | neighborSolicitation => exact execNeighborSolicitation_keeps h
  | icmpEcho => exact execIcmpEcho_keeps h
  | ptpAnnounce => exact execPtpAnnounce_keeps h
  | ptpSync => exact execPtpSync_keeps h
  | pathDelayMeasurement => exact execPathDelayMeasurement_keeps h
  | announceReceiptTimeout => exact execAnnounceReceiptTimeout_keeps h
  | syncMissed => exact execSyncMissed_keeps h
  | subscribe => exact execSubscribe_keeps h
  | streamKeepalive => exact execStreamKeepalive_keeps h
  | credit => exact execCredit_keeps h
  | streamClose => exact execStreamClose_keeps h
  | leaseExpiry => exact execLeaseExpiry_keeps h
  | baleTimeout => exact execBaleTimeout_keeps h
  | baleCompressed => exact execBaleCompressed_keeps h
  | datagramSend => exact execDatagramSend_keeps h
  | decodeStart => exact execDecodeStart_keeps h
  | decodeEnd => exact execDecodeEnd_keeps h
  | openSession => exact execOpenSession_keeps h
  | auth => exact execAuth_keeps h
  | closeSession => exact execCloseSession_keeps h
  | keepalive => exact execKeepalive_keeps h
  | readObj => exact execReadObj_keeps h
  | writeObj => exact execWriteObj_keeps h
  | segBegin => exact execSegBegin_keeps h
  | segData => exact execSegData_keeps h
  | segEnd => exact execSegEnd_keeps h
  | segRead => exact execSegRead_keeps h
  | w1cClear => exact execW1cClear_keeps h
  | apply => exact execApply_keeps h
  | key => exact execKey_keeps h
  | kill => exact execKill_keeps h
  | fromPos => exact execFromPos_keeps h
  | entries => exact execEntries_keeps h
  | sessionExpiry => exact execSessionExpiry_keeps h
  | authTimeout => exact execAuthTimeout_keeps h
  | segIdleTimeout => exact execSegIdleTimeout_keeps h
  | rateLimitEnd => exact execRateLimitEnd_keeps h
  | ledgerForward => exact execLedgerForward_keeps h
  | forwardResponse => exact execForwardResponse_keeps h
  | forwardTimeout => exact execForwardTimeout_keeps h
  | canLedgerFrame => exact execCanLedgerFrame_keeps h
  | canSegmentTimeout => exact execCanSegmentTimeout_keeps h
  | busOff => exact execBusOff_keeps h
  | busOffRecovery => exact execBusOffRecovery_keeps h
  | summaryEntry => exact execSummaryEntry_keeps h
  | trainingTimeout => exact execTrainingTimeout_keeps h
  | retrain => exact execRetrain_keeps h
  | alignmentMarker => exact execAlignmentMarker_keeps h
  | laneFailure => exact execLaneFailure_keeps h
  | haggleSend => exact execHaggleSend_keeps h
  | haggle => exact execHaggle_keeps h
  | linkFrame => exact execLinkFrame_keeps h
  | replayTimeout => exact execReplayTimeout_keeps h
  | linkCrierSend => exact execLinkCrierSend_keeps h
  | linkSilent => exact execLinkSilent_keeps h
  | topoSend => exact execTopoSend_keeps h
  | topo => exact execTopo_keeps h
  | topoAgeOut => exact execTopoAgeOut_keeps h
  | rootSelection => exact execRootSelection_keeps h
  | clusterSourceLoss => exact execClusterSourceLoss_keeps h
  | timingMarker => exact execTimingMarker_keeps h
  | timeFrame => exact execTimeFrame_keeps h
  | mirrorFrame => exact execMirrorFrame_keeps h
  | mirroredCommit => exact execMirroredCommit_keeps h
  | baleMark => exact execBaleMark_keeps h
  | peerStreamBale => exact execPeerStreamBale_keeps h
  | twinCrierSend => exact execTwinCrierSend_keeps h
  | crier => exact execCrier_keeps h
  | crierTimeout => exact execCrierTimeout_keeps h
  | claimFrame => exact execClaimFrame_keeps h
  | claimStale => exact execClaimStale_keeps h
  | yield => exact execYield_keeps h
  | conversionEnd => exact execConversionEnd_keeps h
  | excCompliance => exact execExcCompliance_keeps h
  | toneCheck => exact execToneCheck_keeps h
  | sfeCycleEnd => exact execSfeCycleEnd_keeps h
  | loopControl => exact execLoopControl_keeps h
  | srcAgeExpiry => exact execSrcAgeExpiry_keeps h
  | loopOpen => exact execLoopOpen_keeps h
  | loopDev => exact execLoopDev_keeps h
  | plantMail => exact execPlantMail_keeps h
  | sinkPowerAverage => exact execSinkPowerAverage_keeps h
  | sinkPinSample => exact execSinkPinSample_keeps h
  | sinkTestPulse => exact execSinkTestPulse_keeps h
  | clearShort => exact execClearShort_keeps h
  | chainImage => exact execChainImage_keeps h
  | chainRefresh => exact execChainRefresh_keeps h
  | chainFrameEnd => exact execChainFrameEnd_keeps h
  | calStart => exact execCalStart_keeps h
  | calStop => exact execCalStop_keeps h
  | calComputationEnd => exact execCalComputationEnd_keeps h
  | calTimeout => exact execCalTimeout_keeps h
  | calAutoStart => exact execCalAutoStart_keeps h
  | tdcShadowSwap => exact execTdcShadowSwap_keeps h
  | journalWrite => exact execJournalWrite_keeps h
  | flashOperationEnd => exact execFlashOperationEnd_keeps h
  | earlyWarn => exact execEarlyWarn_keeps h
  | earlyWarnClear => exact execEarlyWarnClear_keeps h
  | railOvervoltage => exact execRailOvervoltage_keeps h
  | porstN => exact execPorstN_keeps h
  | srstN => exact execSrstN_keeps h
  | supplyReset => exact execSupplyReset_keeps h
  | thermalReset => exact execThermalReset_keeps h
  | reset => exact execReset_keeps h
  | zeroizePin => exact execZeroizePin_keeps h
  | zeroize => exact execZeroize_keeps h
  | zeroizeEraseEnd => exact execZeroizeEraseEnd_keeps h
  | lockstepMismatch => exact execLockstepMismatch_keeps h
  | watchdogExpiry => exact execWatchdogExpiry_keeps h
  | clerkPoisonRead => exact execClerkPoisonRead_keeps h
  | clerkRestartEnd => exact execClerkRestartEnd_keeps h
  | loaderStart => exact execLoaderStart_keeps h
  | clerksStart => exact execClerksStart_keeps h
  | dramTrainingEnd => exact execDramTrainingEnd_keeps h
  | dramClearEnd => exact execDramClearEnd_keeps h
  | schedulerStart => exact execSchedulerStart_keeps h
  | fwProgrammingEnd => exact execFwProgrammingEnd_keeps h
  | switchLive => exact execSwitchLive_keeps h
  | switchReset => exact execSwitchReset_keeps h
  | confirm => exact execConfirm_keeps h
  | trialTimeout => exact execTrialTimeout_keeps h
  | temperatureRead => exact execTemperatureRead_keeps h
  | extest => exact execExtest_keeps h
  | idcode => exact execIdcode_keeps h
  | samplePreload => exact execSamplePreload_keeps h
  | clamp => exact execClamp_keeps h
  | bypass => exact execBypass_keeps h
  | extestExit => exact execExtestExit_keeps h
  | chal => exact execChal_keeps h
  | resp => exact execResp_keeps h
  | chalLockoutEnd => exact execChalLockoutEnd_keeps h
  | trstN => exact execTrstN_keeps h
  | dbgLock => exact execDbgLock_keeps h
  | dbgreg => exact execDbgreg_keeps h
  | memRead => exact execMemRead_keeps h
  | memWrite => exact execMemWrite_keeps h
  | halt => exact execHalt_keeps h
  | resume => exact execResume_keeps h
  | step => exact execStep_keeps h
  | bpSet => exact execBpSet_keeps h
  | bpClear => exact execBpClear_keeps h
  | watchSet => exact execWatchSet_keeps h
  | regRead => exact execRegRead_keeps h
  | regWrite => exact execRegWrite_keeps h
  | status => exact execStatus_keeps h
  | refEdgesPresent => exact execRefEdgesPresent_keeps h
  | anDone => exact execAnDone_keeps h
  | blockLock => exact execBlockLock_keeps h
  | alignmentMarkerSend => exact execAlignmentMarkerSend_keeps h
  | forwardedFrame => exact execForwardedFrame_keeps h
  | forwardedFrameTimeout => exact execForwardedFrameTimeout_keeps h
  | badFrame => exact execBadFrame_keeps h
  | malformedMessage => exact execMalformedMessage_keeps h
  | streamViolation => exact execStreamViolation_keeps h
  | bellTypeViolation => exact execBellTypeViolation_keeps h
  | snapshotExpiry => exact execSnapshotExpiry_keeps h
  | prpDuplicate => exact execPrpDuplicate_keeps h
  | ipFragment => exact execIpFragment_keeps h
  | illegalOpcode => exact execIllegalOpcode_keeps h
  | queuePeak => exact execQueuePeak_keeps h
  | compLatMax => exact execCompLatMax_keeps h
  | tMax => exact execTMax_keeps h

/-! ## Whole steps -/

theorem storesGood_of_keeps {s t : State} (h : Keeps s t) (g : storesGood s) : storesGood t := by
  obtain ⟨hmem, hpoison, hregs, hstaged⟩ := g
  exact ⟨h.mem hmem, h.poison hpoison, h.regs hregs, h.staged hstaged⟩

/-- A command changes a state that has it no more in its queue. -/
theorem step_command {s t : State} {c : Instr} {rest : List Instr} (hp : s.pending = c :: rest) (h : step s = .next t) :
    Keeps { s with pending := rest } t := by
  rw [step, hp] at h
  obtain ⟨u, hu, keeps⟩ := exec_completes (Keeps.refl { s with pending := rest }) c
  obtain rfl : u = t := Host.Outcome.next.inj (hu.symm.trans h)
  exact keeps

/-- A cycle keeps stores and fuses; the queue is the one thing beside them that it may fill. -/
theorem State.tick_keeps (s : State) : ∃ t, Keeps s t ∧ ∃ q x, s.tick = { t with pending := q, flips := x } := by
  rcases s.tick_cases with ⟨-, ht⟩ | ⟨t, rfl, -, ⟨i, ht⟩ | ⟨x, ht⟩⟩
  · exact ⟨_, State.engineRead_keeps (Keeps.refl s), _, _, ht⟩
  · exact ⟨_, State.takePreset_keeps (Keeps.refl s), _, _, ht⟩
  · exact ⟨_, State.canRest_keeps (State.count1_keeps (State.engineRead_keeps (State.takePreset_keeps (Keeps.refl s)))), _, x, ht⟩

/-- What a step from any state keeps, whether it takes a command or lets a cycle pass. -/
theorem step_keeps {s t : State} (h : step s = .next t) : (storesGood s → storesGood t) ∧ s.boot.rollback ≤ t.boot.rollback := by
  rcases hp : s.pending with _ | ⟨c, rest⟩
  · obtain ⟨u, keeps, q, x, ht⟩ := s.tick_keeps
    obtain rfl : s.tick = t := Host.Outcome.next.inj ((step_empty s hp).symm.trans h)
    rw [ht]
    exact ⟨fun good => let stays := storesGood_of_keeps keeps good; stays, keeps.rollback⟩
  · have keeps := step_command hp h
    exact ⟨fun good => storesGood_of_keeps keeps (s := { s with pending := rest }) good, keeps.rollback⟩

/-- Commands one after another, as a statement runs them. -/
theorem commands_keep (l : List Instr) {s₀ s : State} (h : Keeps s₀ s) :
    Completes s₀ (l.foldl (fun (o : Host.Outcome State Fault Refusal) c => match o with
      | .next u => exec c u
      | o => o) (.next s)) := by
  induction l generalizing s with
  | nil => exact Completes.next h
  | cons c l ih =>
    obtain ⟨t, ht, keeps⟩ := exec_completes h c
    rw [List.foldl_cons]
    dsimp only
    rw [ht]
    exact ih keeps

/-- Settles O58: a step by what it keeps, a list of commands by induction over it. -/
theorem rollbackFuseNeverFalls : Obligations.RollbackFuseNeverFalls := by
  refine ⟨fun _ _ h => (step_keeps h).2, fun l s => ?_⟩
  obtain ⟨t, ht, keeps⟩ := commands_keep l (Keeps.refl s)
  exact ⟨t, ht, keeps.rollback⟩

/-- Settles O56: a command keeps the form of the stores, and so does a cycle. -/
theorem stepKeepsStores : Obligations.StepKeepsStores := fun _ _ good h => (step_keeps h).1 good

/-- Settles O57: by the lemma of each command's meaning. -/
theorem everyCommandCompletes : Obligations.EveryCommandCompletes := by
  intro c s
  obtain ⟨t, ht, keeps⟩ := exec_completes (Keeps.refl s) c
  exact ⟨t, ht, keeps.pending, keeps.out, keeps.fresh⟩

/-- Settles O55: the values of `State.reset` as they stand. -/
theorem resetGood : Obligations.ResetGood := by
  refine ⟨⟨rfl, List.Pairwise.nil, List.Pairwise.nil, List.Pairwise.nil⟩, rfl, rfl, rfl, rfl, rfl, fun k => ?_⟩
  fin_cases k <;> rfl

end Sys2Proof.Machine
end

section
/-! SUPPORT. Writes of command objects (R383, R393; Machine/Write.lean): the checks that no object's own rule adds to, and the effect that is answered. -/

namespace Sys2Proof.Machine

/-! ## Objects whose writes no rule of a chapter refuses -/

/-- Whether an object is none of those whose writes a rule of their chapter refuses by their value or for what the device does: images, firmware,
allocations, START, ARM_GROUP, SWITCH and ZEROIZE. -/
def unruledKey (key : Nat) : Bool :=
  (imageSlot key).isNone && (startTarget key).isNone && key != fwImageKey && key != Obj.CAPTURE.ARM_GROUP.key && key != Obj.HEALTH.SWITCH.key &&
  key != Obj.HEALTH.ZEROIZE.key && !(decide (0x5110 ≤ key / 256) && decide (key / 256 < 0x5120))

/-- Whether no rule refuses a write of an object for want of room either. -/
def plainKey (key : Nat) : Bool := unruledKey key && (sendPort key).isNone && (repairChannel key).isNone

/-- A written value lies in its row's range, where the row has one. -/
def valueGood (row : ObjRow) (v : List Byte) : Prop := isBlob row.ty = true ∨ inRange row (unreserved row (fromLe v)) = true

section
variable {t : State} {key : Nat} {row : ObjRow} {v : List Byte}

theorem allocHeld_other (h : (decide (0x5110 ≤ key / 256) && decide (key / 256 < 0x5120)) = false) (n : Nat) : allocHeld t key n = false := by
  rw [allocHeld, h, Bool.false_and, Bool.false_and]

theorem formCode_other (hk : imageSlot key = none) : formCode key v = 0 := by rw [formCode, hk]

theorem imageCode_other (hk : imageSlot key = none) : imageCode t key v = 0 := by rw [imageCode, hk]

theorem spareCode_other (hs : sendPort key = none) (hr : repairChannel key = none) (n : Nat) : spareCode t key n = 0 := by rw [spareCode, hs, hr]

theorem rangeCode_other (hg : valueGood row v) (ha : key ≠ Obj.CAPTURE.ARM_GROUP.key) (hw : key ≠ Obj.HEALTH.SWITCH.key)
    (hz : key ≠ Obj.HEALTH.ZEROIZE.key) (hs : startTarget key = none) : rangeCode t key row (if isBlob row.ty then 0 else fromLe v) = 0 := by
  have hin : ¬(!isBlob row.ty && !isW1c row && !inRange row (unreserved row (if isBlob row.ty then 0 else fromLe v))) = true := by
    rcases hg with h | h
    · simp [h]
    · cases hb : isBlob row.ty <;> simp [h]
  rw [rangeCode, if_neg hin, if_neg (fun h => ha h.1), if_neg hw, if_neg hz, hs]

/-- No rule of 0401h holds a write of an object that is no image, no firmware, no START and no allocation. -/
theorem heldCode_other (hs : standby t = false) (hi : imageSlot key = none) (hf : key ≠ fwImageKey) (ht : startTarget key = none)
    (ha : (decide (0x5110 ≤ key / 256) && decide (key / 256 < 0x5120)) = false) (n : Nat) : heldCode t key row n = 0 := by
  simp [heldCode, standbyHolds_alone hs, allocHeld_other ha, hi, ht, hf]

theorem imageSlot_unruled (hk : unruledKey key = true) : imageSlot key = none := by
  simp only [unruledKey, Bool.and_eq_true, Option.isNone_iff_eq_none] at hk
  exact hk.1.1.1.1.1.1

/-- Of such an object's rules those of 0601h are left, on a device that is no standby while no transfer to the object is open. -/
theorem effectCode_unruled (hk : unruledKey key = true) (hg : valueGood row v) (ht : transferTo t key = false) (hs : standby t = false) :
    effectCode t key row v true = spareCode t key (if isBlob row.ty then 0 else fromLe v) := by
  have himage := imageSlot_unruled hk
  simp only [unruledKey, Bool.and_eq_true, Option.isNone_iff_eq_none, bne_iff_ne, Bool.not_eq_true'] at hk
  obtain ⟨⟨⟨⟨⟨⟨-, hstart⟩, hfw⟩, harm⟩, hswitch⟩, hzero⟩, halloc⟩ := hk
  simp only [effectCode, rangeCode_other hg harm hswitch hzero hstart, heldCode_other hs himage hfw hstart halloc, imageCode_other himage, ht]
  simp only [Bool.and_false, Bool.false_eq_true, if_false, firstCode, if_true]
  split <;> simp_all

/-- A write that no rule of a chapter speaks of passes. -/
theorem effectCode_plain (hk : plainKey key = true) (hg : valueGood row v) (ht : transferTo t key = false) (hs : standby t = false) :
    effectCode t key row v true = 0 := by
  simp only [plainKey, Bool.and_eq_true, Option.isNone_iff_eq_none] at hk
  obtain ⟨⟨hrule, hsend⟩, hrepair⟩ := hk
  rw [effectCode_unruled hrule hg ht hs, spareCode_other hsend hrepair]

end

/-! ## A WRITE of a session that has the level (R393) -/

section
variable {s t u : State} {x : Session} {r : Req} {idx sub level : Nat} {ty : Ty} {v : List Byte} {row : ObjRow}

theorem lookup_of_rowAt (hb : t.u Obj.HEALTH.BOOT_STATE ≠ 4) (hr : rowAt idx sub = some row) : lookup t idx sub = .ok row := by
  simp only [rowAt, Option.bind_eq_some_iff, Option.map_eq_some_iff] at hr
  obtain ⟨⟨base, rows⟩, hrec, ⟨w, k⟩, hrow, rfl⟩ := hr
  exact lookup_serving hb hrec hrow

/-- An object whose row takes writes of a type at a level: what the general checks of R393 need. -/
structure Takes (idx sub : Nat) (ty : Ty) (level : Nat) (row : ObjRow) : Prop where
  found : rowAt idx sub = some row
  typed : row.ty = ty
  writable : row.acc ≠ .ro
  level_le : row.level ≤ level
  not_apply : sub ≠ 0xFE

/-- The general checks of a WRITE that is heard: access, level, type and size, form, and no APPLY pending. -/
theorem wrote_access (h : wrote s t x r idx sub ty v level) (w : Takes idx sub ty level row) (hs : sizeGood (idx * 256 + sub) row v = true)
    (hf : formCode (idx * 256 + sub) v = 0) (hp : applyPends t (idx * 256 + sub) row = false) :
    accessCode t x (idx * 256 + sub) row ty.code v = 0 := by
  obtain ⟨-, -, hlevel, -, -⟩ := h
  rw [← w.typed]
  refine accessCode_passes (.inl w.writable) ?_ hs hf hp
  rw [levelOf_plain (isW1c_of_not_ro w.writable)]
  exact Nat.le_trans w.level_le hlevel

/-- A WRITE whose checks pass acts and is answered with code 0; what acts after the answer acts then. -/
theorem wrote_acts (h : wrote s t x r idx sub ty v level) (w : Takes idx sub ty level row) (hs : sizeGood (idx * 256 + sub) row v = true)
    (hf : formCode (idx * 256 + sub) v = 0) (hp : applyPends t (idx * 256 + sub) row = false) (he : effectCode t (idx * 256 + sub) row v true = 0)
    (hu : t.writeEff x r (idx * 256 + sub) row v = (u, 0)) :
    s.writeMsg r idx sub ty.code v = (granted u x r).afterWrite x (idx * 256 + sub) (fromLe v) := by
  have ha := wrote_access h w hs hf hp
  obtain ⟨hg, hb, -, -, -⟩ := h
  have hw := (State.writeFor_passes (r := r) (lookup_of_rowAt hb w.found) ha w.not_apply he).trans hu
  rw [State.writeMsg, hg]
  simp only [hw, if_true]
  rfl

/-- A WRITE whose effect a rule of a chapter refuses is answered with that rule's code. -/
theorem wrote_refused (h : wrote s t x r idx sub ty v level) (w : Takes idx sub ty level row) (hs : sizeGood (idx * 256 + sub) row v = true)
    (hf : formCode (idx * 256 + sub) v = 0) (hp : applyPends t (idx * 256 + sub) row = false) {c : Nat}
    (he : effectCode t (idx * 256 + sub) row v true = c) (h0 : c ≠ 0) (h1 : c ≠ 0x0301) (h4 : c ≠ 0x0401) :
    s.writeMsg r idx sub ty.code v = t.reply x 0x11 r c [] := by
  have ha := wrote_access h w hs hf hp
  obtain ⟨hg, hb, -, -, -⟩ := h
  exact writeMsg_refused hg (State.writeFor_effect (lookup_of_rowAt hb w.found) ha w.not_apply he h0 h1 h4) h0

end

/-! ## Command objects: WO, of a fixed size (R382) -/

/-- Whether an object takes commands of a type from a level on: its row is WO without reserved bits, and it is no key of a key slot. -/
def commandRow (idx sub : Nat) (ty : Ty) (level : Nat) : Bool :=
  (rowAt idx sub).any (fun w => w.ty == ty && w.acc == .wo && decide (w.level ≤ level) && w.mask == none) &&
  sub != 0xFE && decide (sub < 0xFE) && !(decide (0x1200 ≤ idx) && decide (idx < 0x1210))

/-- Its row states no range either, and no rule refuses its writes. -/
def plainCommand (idx sub : Nat) (ty : Ty) (level : Nat) : Bool :=
  commandRow idx sub ty level && plainKey (idx * 256 + sub) && (rowAt idx sub).any (fun w => w.range == none)

structure CommandRow (idx sub : Nat) (ty : Ty) (level : Nat) (row : ObjRow) : Prop extends Takes idx sub ty level row where
  wo : row.acc = .wo
  unmasked : row.mask = none
  sub_lt : sub < 256
  no_key : ¬(0x1200 ≤ idx ∧ idx < 0x1210)

theorem commandRow_iff {idx sub : Nat} {ty : Ty} {level : Nat} (h : commandRow idx sub ty level = true) : ∃ row, CommandRow idx sub ty level row := by
  simp only [commandRow, Option.any_eq_true, Bool.and_eq_true, beq_iff_eq, decide_eq_true_eq, bne_iff_ne, Bool.not_eq_true'] at h
  obtain ⟨⟨⟨⟨row, hr, ⟨⟨hty, hacc⟩, hl⟩, hm⟩, hs⟩, hlt⟩, hk⟩ := h
  exact ⟨row, ⟨hr, hty, by rw [hacc]; decide, hl, hs⟩, hacc, hm, by omega, by simpa using hk⟩

section
variable {s t : State} {x : Session} {r : Req} {idx sub level : Nat} {ty : Ty} {row : ObjRow}

namespace CommandRow

theorem not_enters (w : CommandRow idx sub ty level row) : enters (idx * 256 + sub) row = false := by
  have hkey := w.no_key
  have hlt := w.sub_lt
  have hidx : (idx * 256 + sub) / 256 = idx := by omega
  simp only [enters, w.wo, hidx]
  simp
  omega

theorem not_pends (w : CommandRow idx sub ty level row) : applyPends t (idx * 256 + sub) row = false := by
  have hsub : (idx * 256 + sub) % 256 = sub := by have := w.sub_lt; omega
  simp [applyPends, w.not_enters, hsub, w.not_apply]

theorem not_from (w : CommandRow idx sub ty level row) : idx * 256 + sub ≠ Obj.DAYBOOK.FROM.key := by
  intro h
  have hlt := w.sub_lt
  have hrow : rowAt 0x7F00 4 = some row := by
    rw [← w.found]
    congr 1 <;> simp only [Obj.DAYBOOK.FROM] at h <;> omega
  have hacc : (rowAt 0x7F00 4).any (fun e => e.acc == .wo) = true := by rw [hrow]; simp [w.wo]
  exact absurd hacc (by decide)

theorem writeEff (w : CommandRow idx sub ty level row) (v : List Byte) : t.writeEff x r (idx * 256 + sub) row v =
    if isBlob ty then t.blobCommand (idx * 256 + sub) v else (t.command x (idx * 256 + sub) (fromLe v), 0) := by
  rw [State.writeEff, isW1c_of_not_ro w.writable, w.not_enters, if_neg w.not_from, unreserved, w.unmasked, w.typed]
  rfl

end CommandRow

theorem fromLe_le_lt {n v : Nat} (h : v < 256 ^ n) : fromLe (le n v) = v := by rw [fromLe_le, Nat.mod_eq_of_lt h]

theorem sizeGood_le (hb : isBlob row.ty = false) (key v : Nat) : sizeGood key row (le row.ty.bytes v) = true := by
  simp [sizeGood, hb, le_length]

variable {v : Nat}

/-- A command of fixed size whose rules refuse nothing acts, and is answered with code 0. -/
theorem command_acts (h : wrote s t x r idx sub ty (le ty.bytes v) level) (w : CommandRow idx sub ty level row) (hb : isBlob ty = false)
    (hv : v < 256 ^ ty.bytes) (hf : imageSlot (idx * 256 + sub) = none) (he : effectCode t (idx * 256 + sub) row (le ty.bytes v) true = 0) :
    s.writeObject r idx sub ty v = (granted (t.command x (idx * 256 + sub) v) x r).afterWrite x (idx * 256 + sub) v := by
  have hu : t.writeEff x r (idx * 256 + sub) row (le ty.bytes v) = (t.command x (idx * 256 + sub) v, 0) := by
    rw [w.writeEff, hb, fromLe_le_lt hv]
    rfl
  have hacts := wrote_acts h w.toTakes (by rw [← w.typed]; exact sizeGood_le (w.typed ▸ hb) _ v) (formCode_other hf) w.not_pends he hu
  rwa [fromLe_le_lt hv] at hacts

theorem command_refused (h : wrote s t x r idx sub ty (le ty.bytes v) level) (w : CommandRow idx sub ty level row) (hb : isBlob ty = false)
    (hf : imageSlot (idx * 256 + sub) = none) {c : Nat} (he : effectCode t (idx * 256 + sub) row (le ty.bytes v) true = c)
    (h0 : c ≠ 0) (h1 : c ≠ 0x0301) (h4 : c ≠ 0x0401) : s.writeObject r idx sub ty v = t.reply x 0x11 r c [] :=
  wrote_refused h w.toTakes (by rw [← w.typed]; exact sizeGood_le (w.typed ▸ hb) _ v) (formCode_other hf) w.not_pends he h0 h1 h4

/-- A command whose value is in range, and that only a want of room can refuse. -/
theorem roomCommand (h : wrote s t x r idx sub ty (le ty.bytes v) level) (w : commandRow idx sub ty level = true)
    (hk : unruledKey (idx * 256 + sub) = true) (hr : ∀ row, rowAt idx sub = some row → inRange row v = true) (hb : isBlob ty = false)
    (hv : v < 256 ^ ty.bytes) :
    (spareCode t (idx * 256 + sub) v = 0 →
      s.writeObject r idx sub ty v = (granted (t.command x (idx * 256 + sub) v) x r).afterWrite x (idx * 256 + sub) v) ∧
    (spareCode t (idx * 256 + sub) v = 0x0601 → s.writeObject r idx sub ty v = t.reply x 0x11 r 0x0601 []) := by
  obtain ⟨row, hrow⟩ := commandRow_iff w
  have hgood : valueGood row (le ty.bytes v) := .inr (by rw [unreserved, hrow.unmasked, fromLe_le_lt hv]; exact hr row hrow.found)
  have hcode : effectCode t (idx * 256 + sub) row (le ty.bytes v) true = spareCode t (idx * 256 + sub) v := by
    obtain ⟨-, -, -, ht, hs⟩ := h
    rw [effectCode_unruled hk hgood ht hs, hrow.typed, hb, fromLe_le_lt hv]
    rfl
  exact ⟨fun h0 => command_acts h hrow hb hv (imageSlot_unruled hk) (hcode.trans h0),
    fun h6 => command_refused h hrow hb (imageSlot_unruled hk) (hcode.trans h6) (by decide) (by decide) (by decide)⟩

/-- A command that no rule refuses acts at its write. -/
theorem plainCommand_acts (h : wrote s t x r idx sub ty (le ty.bytes v) level) (w : plainCommand idx sub ty level = true) (hb : isBlob ty = false)
    (hv : v < 256 ^ ty.bytes) :
    s.writeObject r idx sub ty v = (granted (t.command x (idx * 256 + sub) v) x r).afterWrite x (idx * 256 + sub) v := by
  simp only [plainCommand, plainKey, Bool.and_eq_true, Option.isNone_iff_eq_none] at w
  obtain ⟨⟨hrow, ⟨hrule, hsend⟩, hrepair⟩, hrange⟩ := w
  refine (roomCommand h hrow hrule (fun row hr => ?_) hb hv).1 (spareCode_other hsend hrepair v)
  have hnone : row.range = none := by simpa [hr] using hrange
  rw [inRange, hnone]

/-- One whose key is not among those that act after the answer. -/
theorem plainCommand_granted (h : wrote s t x r idx sub ty (le ty.bytes v) level) (w : plainCommand idx sub ty level = true) (hb : isBlob ty = false)
    (hv : v < 256 ^ ty.bytes) (hk : (lateKeys.contains (idx * 256 + sub)) = false) :
    s.writeObject r idx sub ty v = granted (t.command x (idx * 256 + sub) v) x r :=
  (plainCommand_acts h w hb hv).trans (State.afterWrite_none _ _ _ _ (by simpa using hk))

end
end Sys2Proof.Machine
end

section
/-! SUPPORT. The command objects of a session (R19, R36, R94, R149, R178, R203, R279, R334, R400, R402, R415, R453; Machine/Write.lean). -/

namespace Sys2Proof.Machine

/-! ## The rows of the command objects (R382, R383) -/

theorem portCommands_rows (n : Port) : commandRow (0x3003 + 0x100 * n.val) 5 .u32 2 = true ∧
    (rowAt (0x3003 + 0x100 * n.val) 5).any (fun w => w.range == none) = true ∧ unruledKey ((0x3003 + 0x100 * n.val) * 256 + 5) = true ∧
    plainCommand (0x3801 + 0x100 * n.val) 9 .u8 2 = true ∧ plainCommand (0x4800 + 0x100 * n.val) 5 .u8 2 = true := by
  revert n
  decide

theorem repair_row (c : Fin 2) : commandRow (0x7A41 + c.val) 7 .u8 3 = true ∧
    (rowAt (0x7A41 + c.val) 7).any (fun w => w.range == some (0, 136) && w.ty == .u8) = true ∧ unruledKey ((0x7A41 + c.val) * 256 + 7) = true ∧
    (0x7A41 + c.val) * 256 + 7 ∉ lateKeys := by
  revert c
  decide

theorem image_row (g : Fin 16) : commandRow (0x5110 + g.val) 1 .blob 2 = true := by
  revert g
  decide

theorem key_row (k : Fin 16) : (rowAt (0x1200 + k.val) 1).any
    (fun w => w.ty == .blob && w.acc != .ro && decide (w.level ≤ 3)) = true ∧ plainKey ((0x1200 + k.val) * 256 + 1) = true ∧
    fixedSize ((0x1200 + k.val) * 256 + 1) = 32 := by
  revert k
  decide

/-- A check that refuses with one code. -/
theorem code_of_ne_zero {p : Prop} [Decidable p] {c : Nat} (h : (if p then c else 0) ≠ 0) : (if p then c else 0) = c := by
  split at h
  · next hp => exact if_pos hp
  · exact absurd rfl h

section
variable {s t : State} {x : Session} {r : Req}

/-! ## Commands of the epoch, the encoder and the ports (R19, R36, R94, R149, R178) -/

theorem secLabel_acts {v : BitVec 64} (h : wrote s t x r 0x2100 9 .u64 (le 8 v.toNat) 2) :
    exec (.secLabel r v) s = .next (granted (secLabelEff t v.toNat) x r) :=
  congrArg _ (plainCommand_granted h (by decide) rfl v.isLt (by decide))

theorem encPreset_acts {v : BitVec 32} (h : wrote s t x r 0x2102 7 .i32 (le 4 v.toNat) 2) :
    exec (.encPreset r v) s = .next (granted (encPresetEff t v.toNat) x r) :=
  congrArg _ (plainCommand_granted h (by decide) rfl v.isLt (by decide))

/-- The effect of a write of a port's command object. -/
theorem State.command_port (t : State) (x : Session) (key v : Nat) (hp : isPortGroup (key / 256) = true) :
    t.command x key v = t.portCommand key v := by
  have hpart := hp
  simp only [isPortGroup, Bool.and_eq_true, decide_eq_true_eq] at hpart
  have hstart : startTarget key = none := by rw [startTarget, if_neg (by omega)]
  have hrepair : repairChannel key = none := by rw [repairChannel, dif_neg (by omega)]
  have hother : ∀ k : Nat, isPortGroup (k / 256) = false → key ≠ k := by
    rintro k hk rfl
    rw [hp] at hk
    cases hk
  rw [State.command, hstart, hrepair]
  dsimp only
  rw [if_neg (hother _ (by decide)), if_neg (hother _ (by decide)), if_neg (hother _ (by decide)), if_pos hp]

theorem isPortGroup_of (n : Port) {base sub : Nat} (h0 : 0x3000 ≤ base) (h1 : base < 0x4900) (hs : sub < 256) :
    isPortGroup (((base + 0x100 * n.val) * 256 + sub) / 256) = true := by
  have := n.isLt
  simp only [isPortGroup, Bool.and_eq_true, decide_eq_true_eq]
  omega

theorem groupPort_of (n : Port) {base sub : Nat} (hb : base / 256 % 8 = 0) (hs : sub < 256) :
    groupPort (((base + 0x100 * n.val) * 256 + sub) / 256) = n := by
  refine Fin.ext ?_
  have := n.isLt
  simp only [groupPort]
  omega

/-- A key that is no session's end, no reset, no switch and no zeroize. -/
theorem not_late_port {key : Nat} (hp : isPortGroup (key / 256) = true) : key ∉ lateKeys := by
  intro h
  have hall : ∀ k ∈ lateKeys, isPortGroup (k / 256) = false := by decide
  rw [hall key h] at hp
  cases hp

theorem send_cases {n : Port} {w : BitVec 32} (h : wrote s t x r (0x3003 + 0x100 * n.val) 5 .u32 (le 4 w.toNat) 2) :
    exec (.send r n w) s = .next (if 16 ≤ t.ports[n].fctl.host.length then t.reply x 0x11 r 0x0601 [] else granted (sendEff t n w) x r) := by
  obtain ⟨hrow, hrange, hrule, -, -⟩ := portCommands_rows n
  obtain ⟨hacts, hrefused⟩ := roomCommand h hrow hrule (fun row hr => by simp [hr] at hrange; rw [inRange, hrange]) rfl w.isLt
  have hn := n.isLt
  have hport : groupPort (((0x3003 + 0x100 * n.val) * 256 + 5) / 256) = n := groupPort_of n (by decide) (by decide)
  have hgroup : isPortGroup (((0x3003 + 0x100 * n.val) * 256 + 5) / 256) = true := isPortGroup_of n (by decide) (by decide) (by decide)
  have hsend : sendPort ((0x3003 + 0x100 * n.val) * 256 + 5) = some n := by rw [sendPort, if_pos (by omega), hport]
  have hcode : spareCode t ((0x3003 + 0x100 * n.val) * 256 + 5) w.toNat = if 16 ≤ t.ports[n].fctl.host.length then 0x0601 else 0 := by
    rw [spareCode, hsend]
  refine congrArg Host.Outcome.next ?_
  split
  · next hfull => exact hrefused (by rw [hcode, if_pos hfull])
  · next hroom =>
    have heff : t.command x ((0x3003 + 0x100 * n.val) * 256 + 5) w.toNat = sendEff t n w := by
      rw [State.command_port _ _ _ _ hgroup, State.portCommand]
      simp only [hport, BitVec.ofNat_toNat, BitVec.setWidth_eq]
      exact if_pos (by omega)
    refine (hacts (by rw [hcode, if_neg hroom])).trans ?_
    rw [heff]
    exact State.afterWrite_none _ _ _ _ (not_late_port hgroup)

theorem relearn_acts {n : Port} (h : wrote s t x r (0x3801 + 0x100 * n.val) 9 .u8 [1] 2) :
    exec (.relearn r n 1) s = .next (granted (relearnEff t n 1) x r) := by
  obtain ⟨-, -, -, hrow, -⟩ := portCommands_rows n
  have hn := n.isLt
  have hgroup : isPortGroup (((0x3801 + 0x100 * n.val) * 256 + 9) / 256) = true := isPortGroup_of n (by decide) (by decide) (by decide)
  have heff : t.command x ((0x3801 + 0x100 * n.val) * 256 + 9) 1 = relearnEff t n 1 := by
    rw [State.command_port _ _ _ _ hgroup, State.portCommand]
    simp only [groupPort_of n (show (0x3801 : Nat) / 256 % 8 = 0 by decide) (show 9 < 256 by decide)]
    rw [if_neg (by omega), if_pos (by omega)]
  refine congrArg Host.Outcome.next ((plainCommand_acts h hrow rfl (by decide)).trans ?_)
  rw [heff]
  exact State.afterWrite_none _ _ _ _ (not_late_port hgroup)

theorem release_acts {n : Port} {b : Fin 2} (h : wrote s t x r (0x4800 + 0x100 * n.val) 5 .u8 (le 1 b.val) 2) :
    exec (.release r n (BitVec.ofNat 8 b.val)) s = .next (granted (releaseEff t n b.val) x r) := by
  obtain ⟨-, -, -, -, hrow⟩ := portCommands_rows n
  have hn := n.isLt
  have hb := b.isLt
  have hval : (BitVec.ofNat 8 b.val).toNat = b.val := by simp; omega
  have hgroup : isPortGroup (((0x4800 + 0x100 * n.val) * 256 + 5) / 256) = true := isPortGroup_of n (by decide) (by decide) (by decide)
  have heff : t.command x ((0x4800 + 0x100 * n.val) * 256 + 5) b.val = releaseEff t n b.val := by
    rw [State.command_port _ _ _ _ hgroup, State.portCommand]
    simp only [groupPort_of n (show (0x4800 : Nat) / 256 % 8 = 0 by decide) (show 5 < 256 by decide)]
    rw [if_neg (by omega), if_neg (by omega)]
  have hacts : s.writeObject r (0x4800 + 0x100 * n.val) 5 .u8 b.val = _ := plainCommand_acts h hrow rfl (by simp [Ty.bytes]; omega)
  have hexec : exec (.release r n (BitVec.ofNat 8 b.val)) s = .next (s.writeObject r (0x4800 + 0x100 * n.val) 5 .u8 b.val) :=
    congrArg (fun k => Host.Outcome.next (s.writeObject r (0x4800 + 0x100 * n.val) 5 .u8 k)) hval
  rw [hexec, hacts, heff]
  exact congrArg _ (State.afterWrite_none _ _ _ _ (not_late_port hgroup))

/-! ## Groups of regions (R279) -/

theorem fireGroup_acts {v : BitVec 8} (h : wrote s t x r 0x5280 8 .u8 (le 1 v.toNat) 2) :
    exec (.fireGroup r v) s = .next (granted (fireGroupEff t v.toNat) x r) :=
  congrArg _ (plainCommand_granted h (by decide) rfl v.isLt (by decide))

/-- ARM_GROUP refuses ARM_MODE 3, the value that names none (log entry 99). -/
theorem armGroup_cases {v : Nat} (hv : v < 2 ^ 16) (h : wrote s t x r 0x5280 9 .u16 (le 2 v) 2) :
    s.writeObject r 0x5280 9 .u16 v = if v / 256 % 4 = 3 then t.reply x 0x11 r 0x0302 [] else granted (armGroupEff t v) x r := by
  obtain ⟨row, hrow⟩ := commandRow_iff (show commandRow 0x5280 9 .u16 2 = true by decide)
  have hnone : row.range = none := by
    have hany : (rowAt 0x5280 9).any (fun w => w.range == none) = true := by decide
    rw [hrow.found] at hany
    simpa using hany
  have hval : fromLe (le 2 v) = v := fromLe_le_lt hv
  have hin : ¬(!isBlob row.ty && !isW1c row && !inRange row (unreserved row v)) = true := by simp [inRange, hnone]
  have hrange : rangeCode t (0x5280 * 256 + 9) row v = if v / 256 % 4 = 3 then 0x0302 else 0 := by
    rw [rangeCode, if_neg hin]
    split
    · next hthree => rw [if_pos hthree.2]
    · next hthree => rw [if_neg fun e => hthree ⟨rfl, e⟩]; rfl
  have hb : isBlob row.ty = false := by rw [hrow.typed]; rfl
  obtain ⟨-, -, -, htrans, hstand⟩ := id h
  have hheld : heldCode t (0x5280 * 256 + 9) row v = 0 := heldCode_other hstand rfl (by decide) rfl (by decide) v
  have hcode : effectCode t (0x5280 * 256 + 9) row (le 2 v) true = if v / 256 % 4 = 3 then 0x0302 else 0 := by
    simp only [effectCode, hb, Bool.false_eq_true, if_false, hval, hrange, hheld, htrans]
    split <;> rfl
  split
  · next hthree => exact command_refused h hrow rfl rfl (hcode.trans (if_pos hthree)) (by decide) (by decide) (by decide)
  · next hthree =>
    exact (command_acts h hrow rfl hv rfl (hcode.trans (if_neg hthree))).trans (State.afterWrite_none _ _ _ _ (by decide))

theorem armGroupEff_eq {g mode : Nat} (hg : g < 256) (hm : mode < 3) : armGroupEff s (g + 256 * mode) =
    (s.sendBell (hostMessage (if mode = 0 then 2 else 1) g s.now mode)).armGroup g mode s.now := by
  have hgroup : (g + 256 * mode) % 256 = g := by omega
  have hmode : (g + 256 * mode) / 256 % 4 = mode := by omega
  simp only [armGroupEff, hgroup, hmode]
  exact if_neg (by omega)

/-! ## REPAIR, YIELD and KILL (R334, R453, R400) -/

theorem repair_cases {c : Fin 2} {lane : BitVec 8} (h : wrote s t x r (0x7A41 + c.val) 7 .u8 (le 1 lane.toNat) 3) (hl : lane.toNat ≤ 136) :
    (repairRefusal t c lane.toNat = 0 → exec (.repair r c lane) s = .next (granted (repairEff t c lane.toNat) x r)) ∧
    (repairRefusal t c lane.toNat ≠ 0 → exec (.repair r c lane) s = .next (t.reply x 0x11 r 0x0601 [])) := by
  obtain ⟨hrow, hrange, hrule, hlate⟩ := repair_row c
  have hin : ∀ row, rowAt (0x7A41 + c.val) 7 = some row → inRange row lane.toNat = true := fun row hr => by
    simp [hr] at hrange
    simp [inRange, hrange.1, hrange.2, Ty.signed, hl]
  obtain ⟨hacts, hrefused⟩ := roomCommand h hrow hrule hin rfl lane.isLt
  have hc := c.isLt
  have hchannel : repairChannel ((0x7A41 + c.val) * 256 + 7) = some c := by
    rw [repairChannel, dif_pos (by omega)]
    exact congrArg some (Fin.ext (by simp only; omega))
  have hsend : sendPort ((0x7A41 + c.val) * 256 + 7) = none := by rw [sendPort, if_neg (by omega)]
  have hstart : startTarget ((0x7A41 + c.val) * 256 + 7) = none := by rw [startTarget, if_neg (by omega)]
  have hcode : spareCode t ((0x7A41 + c.val) * 256 + 7) lane.toNat = repairRefusal t c lane.toNat := by rw [spareCode, hsend, hchannel]
  rw [hcode] at hacts hrefused
  refine ⟨fun h0 => congrArg _ ((hacts h0).trans ?_), fun h6 => congrArg _ (hrefused ?_)⟩
  · rw [State.command, hstart, hchannel]
    exact State.afterWrite_none _ _ _ _ hlate
  · exact code_of_ne_zero h6

theorem yield_acts (h : wrote s t x r 0x6300 0xC .u8 [1] 2) : exec (.yield r 1) s = .next (granted (yieldEff t 1) x r) :=
  congrArg _ (plainCommand_granted h (by decide) rfl (by decide) (by decide))

theorem kill_acts {id : BitVec 32} (h : wrote s t x r 0x1280 3 .u32 (le 4 id.toNat) 3) :
    exec (.kill r id) s = .next (if id = x.id then (granted t x r).endSession x.id else granted (t.endSession id) x r) := by
  refine congrArg Host.Outcome.next ((plainCommand_acts h (by decide) rfl id.isLt).trans ?_)
  have heff : t.command x (0x1280 * 256 + 3) id.toNat = t.killOther x id.toNat := rfl
  have hafter : ∀ u : State, u.afterWrite x (0x1280 * 256 + 3) id.toNat = if id.toNat = x.id.toNat then u.endSession x.id else u := fun _ => rfl
  rw [heff, hafter, State.killOther]
  by_cases hid : id = x.id
  · subst hid
    rw [if_pos rfl, if_pos rfl, if_pos rfl]
  · have hne : id.toNat ≠ x.id.toNat := fun e => hid (BitVec.eq_of_toNat_eq e)
    rw [if_neg hne, if_neg (Ne.symm hne), if_neg hid, BitVec.ofNat_toNat, BitVec.setWidth_eq]

/-! ## KEY, FROM and IMAGE (R402, R415, R203) -/

theorem key_acts {k : Fin 16} {m : List Byte} (h : wrote s t x r (0x1200 + k.val) 1 .blob m 3) (hm : m.length = 32)
    (hp : t.isApplying (0x1200 + k.val) = false) : exec (.key r k m) s = .next (granted
      ({ t with stagedBlobs := blobSet t.stagedBlobs (Obj.KEY_SLOT.KEY k) (xorBytes m (keyMask x r.seq)) }) x r) := by
  obtain ⟨hrow, hplain, hfixed⟩ := key_row k
  simp only [Option.any_eq_true, Bool.and_eq_true, beq_iff_eq, bne_iff_ne, decide_eq_true_eq] at hrow
  obtain ⟨row, hfound, ⟨hty, hacc⟩, hlevel⟩ := hrow
  have hk := k.isLt
  have hidx : ((0x1200 + k.val) * 256 + 1) / 256 = 0x1200 + k.val := by omega
  have hblob : isBlob row.ty = true := by rw [hty]; rfl
  have hkey : 0x1200 ≤ ((0x1200 + k.val) * 256 + 1) / 256 ∧ ((0x1200 + k.val) * 256 + 1) / 256 < 0x1210 ∧ ((0x1200 + k.val) * 256 + 1) % 256 = 1 := by
    omega
  have henters : enters ((0x1200 + k.val) * 256 + 1) row = true := by simp [enters, hkey]
  have hsize : sizeGood ((0x1200 + k.val) * 256 + 1) row m = true := by simp [sizeGood, hblob, hfixed, hm]
  have hpends : applyPends t ((0x1200 + k.val) * 256 + 1) row = false := by
    have hgroups : groupsOf (0x1200 + k.val) = [0x1200 + k.val] := if_neg (by omega)
    simp [applyPends, hidx, hgroups, hp]
  have heff : t.writeEff x r ((0x1200 + k.val) * 256 + 1) row m =
      ({ t with stagedBlobs := blobSet t.stagedBlobs (Obj.KEY_SLOT.KEY k) (xorBytes m (keyMask x r.seq)) }, 0) := by
    rw [State.writeEff, isW1c_of_not_ro hacc, henters, State.stage, if_pos hkey]
    rfl
  have hslot : imageSlot ((0x1200 + k.val) * 256 + 1) = none := by rw [imageSlot, dif_neg (by omega)]
  obtain ⟨-, -, -, htrans, hstand⟩ := id h
  have hacts := wrote_acts h ⟨hfound, hty, hacc, hlevel, by decide⟩ hsize (formCode_other hslot) hpends
    (effectCode_plain hplain (.inl hblob) htrans hstand) heff
  refine congrArg Host.Outcome.next (hacts.trans (State.afterWrite_none _ _ _ _ ?_))
  simp only [lateKeys, List.mem_cons, List.not_mem_nil, or_false, Obj.SESSIONS.KILL, Obj.HEALTH.RESET, Obj.HEALTH.SWITCH, Obj.HEALTH.ZEROIZE]
  omega

theorem fromPos_acts {v : BitVec 32} (h : wrote s t x r 0x7F00 4 .u32 (le 4 v.toNat) 0) :
    exec (.fromPos r v) s = .next (granted (t.modSession x.id (fun y => { y with frm := some v })) x r) := by
  have hrow : (rowAt 0x7F00 4).any (fun w => w.ty == .u32 && w.acc == .rw && decide (w.level ≤ 0) && w.range == none) = true := by decide
  simp only [Option.any_eq_true, Bool.and_eq_true, beq_iff_eq, decide_eq_true_eq] at hrow
  obtain ⟨row, hfound, ⟨⟨hty, hacc⟩, hlevel⟩, hrange⟩ := hrow
  have hro : row.acc ≠ .ro := by rw [hacc]; decide
  have hb : isBlob row.ty = false := by rw [hty]; rfl
  have henters : enters (0x7F00 * 256 + 4) row = false := by simp [enters, hacc]
  have heff : t.writeEff x r (0x7F00 * 256 + 4) row (le 4 v.toNat) = (t.modSession x.id (fun y => { y with frm := some v }), 0) := by
    have hval : fromLe (le 4 v.toNat) = v.toNat := fromLe_le_lt v.isLt
    rw [State.writeEff, isW1c_of_not_ro hro, henters, if_neg (by decide), if_neg (by decide), if_pos (by decide), hval, BitVec.ofNat_toNat,
      BitVec.setWidth_eq]
  obtain ⟨-, -, -, htrans, hstand⟩ := id h
  have hsize : sizeGood (0x7F00 * 256 + 4) row (le 4 v.toNat) = true := by
    rw [show le 4 v.toNat = le row.ty.bytes v.toNat by rw [hty]; rfl]
    exact sizeGood_le hb _ _
  have hacts := wrote_acts h ⟨hfound, hty, hro, hlevel, by decide⟩ hsize (formCode_other rfl) (by simp [applyPends, henters])
    (effectCode_plain (by decide) (.inr (by rw [inRange, hrange])) htrans hstand) heff
  exact congrArg Host.Outcome.next (hacts.trans (State.afterWrite_none _ _ _ _ (by decide)))

section
variable {g : Fin 16} {l : List Byte}

/-- The places of a slot's IMAGE among the rules of a WRITE. -/
theorem image_key (g : Fin 16) : imageSlot ((0x5110 + g.val) * 256 + 1) = some g ∧ startTarget ((0x5110 + g.val) * 256 + 1) = none ∧
    sendPort ((0x5110 + g.val) * 256 + 1) = none ∧ repairChannel ((0x5110 + g.val) * 256 + 1) = none ∧
    fixedSize ((0x5110 + g.val) * 256 + 1) = 0 ∧ (0x5110 + g.val) * 256 + 1 ∉ fwImageKey :: Obj.CAPTURE.ARM_GROUP.key :: lateKeys := by
  revert g
  decide

theorem image_allocHeld (g : Fin 16) (n : Nat) : allocHeld t ((0x5110 + g.val) * 256 + 1) n = false := by
  have hidx : ((0x5110 + g.val) * 256 + 1) / 256 - 0x5110 = g.val := by omega
  have hyard : ((0x5110 + g.val) * 256 + 1 == (Obj.PROGRAM_SLOT.YARD_ALLOC g.val).key) = false := by revert g; decide
  have hdram : ((0x5110 + g.val) * 256 + 1 == (Obj.PROGRAM_SLOT.DRAM_ALLOC g.val).key) = false := by revert g; decide
  simp only [allocHeld, hidx, hyard, hdram, Bool.false_and, Bool.or_self, Bool.and_false]

theorem image_sizeGood {row : ObjRow} (w : CommandRow (0x5110 + g.val) 1 .blob 2 row) : sizeGood ((0x5110 + g.val) * 256 + 1) row l = true := by
  obtain ⟨-, -, -, -, hfixed, -⟩ := image_key g
  have hb : isBlob row.ty = true := by rw [w.typed]; rfl
  simp [sizeGood, hb, hfixed]

/-- An image that passes the checks of R203 while the slot places none is refused for want of yard or pool alone. -/
theorem image_effectCode {row : ObjRow} (w : CommandRow (0x5110 + g.val) 1 .blob 2 row) (h : wrote s t x r (0x5110 + g.val) 1 .blob l 2)
    (hp : t.programs[g].placing = false) : effectCode t ((0x5110 + g.val) * 256 + 1) row l true = imageSpare t g l := by
  obtain ⟨hslot, hstart, hsend, hrepair, -, hlate⟩ := image_key g
  simp only [lateKeys, List.mem_cons, List.not_mem_nil, or_false, not_or] at hlate
  obtain ⟨hfw, harm, -, -, hswitch, hzero⟩ := hlate
  have hb : isBlob row.ty = true := by rw [w.typed]; rfl
  obtain ⟨-, -, -, htrans, hstand⟩ := h
  have hheld : heldCode t ((0x5110 + g.val) * 256 + 1) row 0 = 0 := by
    simp only [heldCode, standbyHolds_alone hstand, image_allocHeld, hslot, hstart, hp, beq_false_of_ne hfw, Bool.and_false, Bool.false_and,
      Bool.or_self, Bool.false_eq_true, if_false]
  have hrange : rangeCode t ((0x5110 + g.val) * 256 + 1) row (if isBlob row.ty then 0 else fromLe l) = 0 :=
    rangeCode_other (.inl hb) harm hswitch hzero hstart
  simp only [hb, if_true] at hrange
  simp only [effectCode, hb, if_true, hrange, hheld, spareCode_other hsend hrepair, imageCode, hslot, htrans]
  simp only [Bool.and_false, Bool.false_eq_true, if_false, firstCode, if_true]
  split <;> simp_all

theorem image_acts (h : wrote s t x r (0x5110 + g.val) 1 .blob l 2) (hl : imageGood l = true) (hp : t.programs[g].placing = false)
    (hroom : imageSpare t g l = 0) : exec (.image r g l) s = .next (granted (t.takeImage g l) x r) := by
  obtain ⟨row, w⟩ := commandRow_iff (image_row g)
  obtain ⟨hslot, -, -, -, -, hlate⟩ := image_key g
  have hform : formCode ((0x5110 + g.val) * 256 + 1) l = 0 := by rw [formCode, hslot]; exact if_pos hl
  have heff : t.writeEff x r ((0x5110 + g.val) * 256 + 1) row l = (t.takeImage g l, 0) := by
    rw [w.writeEff, State.blobCommand, hslot]
    rfl
  have hacts := wrote_acts h w.toTakes (image_sizeGood w) hform w.not_pends ((image_effectCode w h hp).trans hroom) heff
  exact congrArg Host.Outcome.next (hacts.trans (State.afterWrite_none _ _ _ _ fun hmem => hlate (by simp [hmem])))

theorem image_noRoom (h : wrote s t x r (0x5110 + g.val) 1 .blob l 2) (hl : imageGood l = true) (hp : t.programs[g].placing = false)
    (hroom : imageSpare t g l ≠ 0) : exec (.image r g l) s = .next (t.reply x 0x11 r 0x0601 []) := by
  obtain ⟨row, w⟩ := commandRow_iff (image_row g)
  obtain ⟨hslot, -, -, -, -, -⟩ := image_key g
  have hform : formCode ((0x5110 + g.val) * 256 + 1) l = 0 := by rw [formCode, hslot]; exact if_pos hl
  have hcode : imageSpare t g l = 0x0601 := code_of_ne_zero hroom
  exact congrArg Host.Outcome.next (wrote_refused h w.toTakes (image_sizeGood w) hform w.not_pends ((image_effectCode w h hp).trans hcode) (by decide)
    (by decide) (by decide))

theorem image_badForm (h : wrote s t x r (0x5110 + g.val) 1 .blob l 2) (hl : imageGood l = false) :
    exec (.image r g l) s = .next ((t.put (Obj.PROGRAM_SLOT.LOAD_STATUS g) 0x0301).reply x 0x11 r 0x0301 []) := by
  obtain ⟨row, w⟩ := commandRow_iff (image_row g)
  obtain ⟨hslot, -, -, -, -, -⟩ := image_key g
  obtain ⟨hg, hb, hlevel, -, -⟩ := h
  have hform : formCode ((0x5110 + g.val) * 256 + 1) l = 0x0301 := by rw [formCode, hslot]; exact if_neg (by simp [hl])
  have hcode : accessCode t x ((0x5110 + g.val) * 256 + 1) row Ty.blob.code l = 0x0301 := by
    have hw := isW1c_of_not_ro w.writable
    have hlev : levelOf row ≤ x.level := by rw [levelOf_plain hw]; exact Nat.le_trans w.level_le hlevel
    rw [accessCode, if_neg (fun e => w.writable e.1), if_neg (Nat.not_lt.mpr hlev), if_neg (by simp [image_sizeGood w, w.typed]), hform]
    rfl
  have hwrite : t.writeFor x r (0x5110 + g.val) 1 Ty.blob.code l = (t.put (Obj.PROGRAM_SLOT.LOAD_STATUS g) 0x0301, 0x0301) := by
    rw [State.writeFor, lookup_of_rowAt hb w.found]
    simp only [hcode, State.loadStatus, hslot]
    rfl
  exact congrArg Host.Outcome.next (writeMsg_refused hg hwrite (by decide))

/-- A slot that no pitch runs, with an image it has accepted (R203). -/
def State.slotFilled (t : State) (g : Fin 16) (l : List Byte) : State :=
  ((((((t.modProgram g (fun p => { p with image := l, old := p.image, placing := false })).put
    (Obj.PROGRAM_SLOT.PROG_ID g) (imageField l 4 4)).put (Obj.PROGRAM_SLOT.VERSION g) (imageField l 8 4)).put
    (Obj.PROGRAM_SLOT.YARD_ALLOC g) (imageField l 32 4)).put (Obj.PROGRAM_SLOT.DRAM_ALLOC g) (imageField l 36 4)).put
    (Obj.PROGRAM_SLOT.LOAD_STATUS g) 0).put (Obj.PROGRAM_SLOT.SIGNED g) 0

theorem imageEff_unused (hu : t.u (Obj.PROGRAM_SLOT.USERS g) = 0) : imageEff t g l false = t.slotFilled g l := by
  simp [imageEff, hu, State.slotFilled]

theorem imageField_lt (k n : Nat) : imageField l k n < 256 ^ n :=
  Nat.lt_of_lt_of_le (fromLe_lt _) (Nat.pow_le_pow_right (by decide) (by simp [slice]))

/-- The registers of a slot that its image fills. -/
theorem State.slotFilled_regs : (t.slotFilled g l).u (Obj.PROGRAM_SLOT.PROG_ID g) = imageField l 4 4 ∧
    (t.slotFilled g l).u (Obj.PROGRAM_SLOT.VERSION g) = imageField l 8 4 ∧ (t.slotFilled g l).u (Obj.PROGRAM_SLOT.LOAD_STATUS g) = 0 ∧
    (t.slotFilled g l).u (Obj.PROGRAM_SLOT.SIGNED g) = 0 ∧ (t.slotFilled g l).u Obj.TWIN.TWIN_EN = t.u Obj.TWIN.TWIN_EN := by
  have hid : imageField l 4 4 < 2 ^ 32 := imageField_lt 4 4
  have hversion : imageField l 8 4 < 2 ^ 32 := imageField_lt 8 4
  have hother : ∀ k < 256, (0x5110 + g.val) * 256 + k ≠ Obj.TWIN.TWIN_EN.key := fun k hk => by
    have := g.isLt
    simp only [Obj.TWIN.TWIN_EN]
    omega
  simp only [State.slotFilled, State.u_put, Obj.PROGRAM_SLOT.PROG_ID, Obj.PROGRAM_SLOT.VERSION, Obj.PROGRAM_SLOT.YARD_ALLOC,
    Obj.PROGRAM_SLOT.DRAM_ALLOC, Obj.PROGRAM_SLOT.LOAD_STATUS, Obj.PROGRAM_SLOT.SIGNED]
  simp [hother]
  exact ⟨hid, hversion⟩

/-- What an accepted image of a slot that no pitch runs leaves, on a device that is no twin (R203). -/
theorem State.takeImage_unused (hu : t.u (Obj.PROGRAM_SLOT.USERS g) = 0) (ht : t.u Obj.TWIN.TWIN_EN = 0) :
    (t.takeImage g l).programs[g].image = l ∧ (t.takeImage g l).programs[g].placing = false ∧
    (t.takeImage g l).u (Obj.PROGRAM_SLOT.PROG_ID g) = imageField l 4 4 ∧ (t.takeImage g l).u (Obj.PROGRAM_SLOT.VERSION g) = imageField l 8 4 ∧
    (t.takeImage g l).u (Obj.PROGRAM_SLOT.LOAD_STATUS g) = 0 ∧ (t.takeImage g l).u (Obj.PROGRAM_SLOT.SIGNED g) = 0 ∧
    (t.takeImage g l).bit Obj.FLASH.PENDING (2 + g.val) = true ∧ (∀ h : Fin 16, h ≠ g → (t.takeImage g l).programs[h] = t.programs[h]) ∧
    (t.takeImage g l).stalls = t.stalls ∧ (t.takeImage g l).mem = t.mem := by
  have hg := g.isLt
  have hkept : ∀ r : Reg, r.key / 256 ≠ 0x7900 → ((t.slotFilled g l).journal (2 + g.val)).u r = (t.slotFilled g l).u r := fun r hr =>
    State.u_put_ne _ _ _ _ fun e => hr (by rw [← e]; rfl)
  obtain ⟨hid, hversion, hstatus, hsigned, htwin⟩ := State.slotFilled_regs (t := t) (g := g) (l := l)
  have hactive : active ((t.slotFilled g l).journal (2 + g.val)) = false := by
    rw [active, hkept _ (by decide), htwin, ht]
    rfl
  have heff : t.takeImage g l = (t.slotFilled g l).journal (2 + g.val) := by
    rw [State.takeImage, imageEff_unused hu]
    exact if_neg (by rw [hactive]; decide)
  have hpart : (t.modProgram g (fun p => { p with image := l, old := p.image, placing := false })).programs[g] =
    { t.programs[g] with image := l, old := t.programs[g].image, placing := false } := State.modProgram_self _ _ _
  have hothers : ∀ h : Fin 16, h ≠ g → (t.modProgram g (fun p => { p with image := l, old := p.image, placing := false })).programs[h] =
    t.programs[h] := fun h hne => State.modProgram_other _ _ _ _ hne.symm
  have hslot : ∀ k < 256, ((0x5110 + g.val) * 256 + k) / 256 ≠ 0x7900 := fun k hk => by omega
  rw [heff]
  exact ⟨congrArg ProgramPart.image hpart, congrArg ProgramPart.placing hpart, (hkept _ (hslot 3 (by decide))).trans hid,
    (hkept _ (hslot 4 (by decide))).trans hversion, (hkept _ (hslot 8 (by decide))).trans hstatus, (hkept _ (hslot 9 (by decide))).trans hsigned,
    State.bit_putBit_self _ _ _ _ (by simp only [Obj.FLASH.PENDING]; omega), hothers, rfl, rfl⟩

end

end

end Sys2Proof.Machine

namespace Sys2Proof
open Machine

/-- Settles O41: each object by the checks that its write meets and its effect. -/
theorem hostCommands : Obligations.HostCommands := by
  refine ⟨fun _ _ _ _ _ h => secLabel_acts h, fun _ _ _ _ _ h => encPreset_acts h, fun _ _ _ _ _ _ h hroom => ?_, fun _ _ _ _ _ _ h hfull => ?_,
    fun _ _ _ _ _ h => ?_, fun _ _ _ _ _ _ h => ?_, fun _ t x r g l h hgood hplacing hspare husers htwin => ?_,
    fun _ _ _ _ _ _ h hgood hplacing hspare => image_noRoom h hgood hplacing hspare, fun _ _ _ _ _ _ h hbad => image_badForm h hbad,
    fun _ _ _ _ _ h => fireGroup_acts h, fun _ _ _ _ v h => ?_, fun _ _ _ _ v h => ?_, fun _ _ => rfl, fun _ _ _ hg hm => armGroupEff_eq hg hm,
    fun _ _ _ _ _ _ h hl => repair_cases h hl, fun _ _ _ _ h hactive => ?_, fun _ _ _ _ _ h => ?_, fun _ _ _ _ _ _ h hm hp => key_acts h hm hp,
    fun _ _ _ _ _ h => fromPos_acts h⟩
  · rw [send_cases h, if_neg (Nat.not_le.mpr hroom)]
  · rw [send_cases h, if_pos hfull]
  · exact relearn_acts h
  · rw [release_acts h, releaseEff, if_pos (Fin.is_lt _)]
  · exact ⟨t.takeImage g l, image_acts h hgood hplacing hspare, State.takeImage_unused husers htwin⟩
  · have hcases := armGroup_cases v.isLt h
    exact ⟨fun hne => congrArg _ (hcases.trans (if_neg hne)), fun he => congrArg _ (hcases.trans (if_pos he))⟩
  · have hv := v.isLt
    exact congrArg _ ((armGroup_cases (by omega) h).trans (if_neg (by omega)))
  · rw [yield_acts h, yieldEff, if_pos ⟨rfl, hactive⟩]
  · have hkill := kill_acts h
    exact ⟨fun hne => hkill.trans (congrArg _ (if_neg hne)), fun he => hkill.trans (congrArg _ (if_pos he))⟩

end Sys2Proof
end

section
/-! SUPPORT. What an operation leaves as it is, said once by the parts of State and the registers that it may change; and the day book's scope. -/

namespace Sys2Proof.Machine

/-! ## Scopes -/

/-- What an operation may change: the parts of State that `blank` wipes out, registers among them, and of these the keys of `regs`. -/
structure Scope where
  blank : State → State
  regs : Nat → Bool
  blind : ∀ (s : State) (l : List (Nat × Nat)), blank { s with regs := l } = blank s

/-- A state is reached from another by changes within a scope. -/
structure Within (c : Scope) (s t : State) : Prop where
  parts : c.blank t = c.blank s
  reads : ∀ r : Reg, c.regs r.key = false → t.u r = s.u r

namespace Within

variable {c d : Scope} {s t u : State}

theorem refl (c : Scope) (s : State) : Within c s s := ⟨rfl, fun _ _ => rfl⟩

theorem trans (h : Within c s t) (g : Within c t u) : Within c s u :=
  ⟨g.parts.trans h.parts, fun r hr => (g.reads r hr).trans (h.reads r hr)⟩

/-- A change of parts alone. -/
theorem part (hp : c.blank t = c.blank s) (hr : t.regs = s.regs) : Within c s t := ⟨hp, fun r _ => State.u_of_regs hr r⟩

/-- A write of a register of the scope. -/
theorem put (h : Within c s t) {r : Reg} (hr : c.regs r.key = true) (v : Nat) : Within c s (t.put r v) :=
  ⟨(c.blind t _).trans h.parts, fun x hx => (State.u_put_ne _ _ _ _ fun e => by rw [← e, hr] at hx; cases hx).trans (h.reads x hx)⟩

theorem putBit (h : Within c s t) {r : Reg} (hr : c.regs r.key = true) (b : Nat) (x : Bool) : Within c s (t.putBit r b x) := h.put hr _

theorem setBit (h : Within c s t) {r : Reg} (hr : c.regs r.key = true) (b : Nat) : Within c s (t.setBit r b) := h.put hr _

theorem clrBit (h : Within c s t) {r : Reg} (hr : c.regs r.key = true) (b : Nat) : Within c s (t.clrBit r b) := h.put hr _

theorem add (h : Within c s t) {r : Reg} (hr : c.regs r.key = true) (n : Nat) : Within c s (t.add r n) := h.put hr _

theorem bump (h : Within c s t) {r : Reg} (hr : c.regs r.key = true) : Within c s (t.bump r) := h.put hr _

theorem ite {p : Prop} [Decidable p] (ht : p → Within c s t) (hu : ¬p → Within c s u) : Within c s (if p then t else u) := by
  split
  · exact ht ‹_›
  · exact hu ‹_›

theorem foldl {α : Type} {f : State → α → State} (h : Within c s t) (hf : ∀ v a, Within c s v → Within c s (f v a)) (l : List α) :
    Within c s (l.foldl f t) := by
  induction l generalizing t with
  | nil => exact h
  | cons a l ih => exact ih (hf _ _ h)

theorem overAll {n : Nat} {f : State → Fin n → State} (h : Within c s t) (hf : ∀ v a, Within c s v → Within c s (f v a)) :
    Within c s (overAll t f) := h.foldl hf _

/-- What lies in a scope lies in a wider one. -/
theorem widen (h : Within c s t) (hb : ∀ v w : State, c.blank v = c.blank w → d.blank v = d.blank w)
    (hr : ∀ k, d.regs k = false → c.regs k = false) : Within d s t := ⟨hb _ _ h.parts, fun r hk => h.reads r (hr _ hk)⟩

/-- A bit of a register outside the scope. -/
theorem bit (h : Within c s t) {r : Reg} (hr : c.regs r.key = false) (b : Nat) : t.bit r b = s.bit r b := by
  rw [State.bit, h.reads r hr, State.bit]

end Within

/-! ## The day book (R339, R340, R355, R413, R414) -/

/-- The registers that an entry of the day book may change: 7F00h, the losses of streams and of the capture store, and FLASH.PENDING. -/
def bookReg (k : Nat) : Bool :=
  k / 256 == 0x7F00 || (decide (0x6000 ≤ k / 256) && decide (k / 256 < 0x6100)) || k == Obj.CAPTURE.STORE_LOST.key || k == Obj.FLASH.PENDING.key

/-- What an entry of the day book may change: the book, its readers, what 7F00h had staged, and bits in error of the ring. -/
def bookScope : Scope where
  blank s := { s with regs := [], blobs := [], staged := [], stagedBlobs := [], flips := [], streams := Vector.replicate 256 {},
                      ledger := { s.ledger with sessions := [], applying := [] }, book := {} }
  regs := bookReg
  blind _ _ := rfl

section
variable {s t : State}

theorem bookReg_stream (k : Nat) (h : k < 256) : bookReg (Obj.STREAM.LOST k).key = true := by
  have hidx : (Obj.STREAM.LOST k).key / 256 = 0x6000 + k := by simp only [Obj.STREAM.LOST]; omega
  simp [bookReg, hidx]
  omega

theorem State.overtake_within (h : Within bookScope s t) (gone : Item → Bool) : Within bookScope s (t.overtake gone) := by
  refine h.overAll fun v k hv => ?_
  dsimp only
  refine Within.ite (fun _ => hv) fun _ => ?_
  have hcut : Within bookScope s (v.modStream k (fun y => y.overtake gone)) := hv.trans (.part rfl rfl)
  exact Within.ite (fun _ => (hcut.add (bookReg_stream k k.isLt) _).add rfl _) fun _ => hcut

theorem State.logRaw_within (h : Within bookScope s t) (e : Ev) : Within bookScope s (t.logRaw e) := by
  rw [State.logRaw]
  refine Within.ite (fun _ => h.bump rfl) fun _ => ?_
  dsimp only
  have hring : ∀ (b : DayBook) (x : Session → Session), Within bookScope s { t.dropBookFlips (wrapBook t.book).pos with
      book := b, ledger := { t.ledger with sessions := t.ledger.sessions.map x } } := fun b x => h.trans (.part rfl rfl)
  have hcells : ∀ v, Within bookScope s v → Within bookScope s v.flushCells := fun v hv =>
    Within.ite (fun _ => hv) fun _ => hv.trans (.part rfl rfl)
  have hheld : ∀ v, Within bookScope s v → ∀ a b, Within bookScope s ((v.put Obj.DAYBOOK.HELD a).put Obj.DAYBOOK.HEAD b).flushCells :=
    fun v hv a b => hcells _ ((hv.put rfl _).put rfl _)
  have hcut : ∀ (p : Prop) [Decidable p] (v : State) (g : Item → Bool), Within bookScope s v → Within bookScope s (if p then v else v.overtake g) :=
    fun p _ v g hv => Within.ite (fun _ => hv) fun _ => State.overtake_within hv g
  refine Within.ite (fun _ => Within.setBit ?_ rfl _) fun _ => ?_
  · exact hheld _ (hcut _ _ _ (hring _ _)) _ _
  · exact hheld _ (hcut _ _ _ (hring _ _)) _ _

theorem State.takeStaged_within (h : Within bookScope s t) : Within bookScope s (t.takeStaged (groupIndices 0x7F00)) := by
  refine h.trans ⟨rfl, fun r hr => t.u_takeStaged_other _ r fun hmem => ?_⟩
  rw [groupIndices_outer _ (by decide), List.mem_singleton] at hmem
  simp [bookScope, bookReg, hmem] at hr

theorem State.settleBook_within (h : Within bookScope s t) : Within bookScope s t.settleBook := by
  have hmirror : ∀ v : State, v.mirrorCommit 0x7F00 = v := fun v => if_neg (by simp [mirrored])
  refine Within.ite (fun _ => ?_) fun _ => h
  rw [State.commitRaw]
  refine State.logRaw_within ?_ _
  rw [hmirror]
  exact ((State.takeStaged_within h).setBit rfl _).trans (.part rfl rfl)

theorem State.toStreams_within (h : Within bookScope s t) (kind : Nat) (takes : Fin 256 → Bool) (it : Fin 256 → Item) :
    Within bookScope s (t.toStreams kind takes it) :=
  h.overAll fun _ _ hv => Within.ite (fun _ => hv.trans (.part rfl rfl)) fun _ => hv

theorem State.readBook_within (h : Within bookScope s t) : Within bookScope s t.readBook := by
  rw [State.readBook]
  refine Within.foldl (h.trans ?_) (fun _ _ hv => State.toStreams_within hv _ _ _) _
  exact .part rfl rfl

/-- An entry of the day book changes nothing beyond it and its readers. -/
theorem State.log_within (h : Within bookScope s t) (e : Ev) : Within bookScope s (t.log e) :=
  State.readBook_within (State.settleBook_within (State.logRaw_within h e))

theorem State.within_log (s : State) (e : Ev) : Within bookScope s (s.log e) := State.log_within (.refl _ _) e

end

/-! ## What an entry of the day book leaves -/

section
variable (s : State) (e : Ev)

/-- A register that no entry changes. -/
theorem State.u_log {r : Reg} (hr : bookReg r.key = false) : (s.log e).u r = s.u r := (s.within_log e).reads r hr

theorem State.bit_log {r : Reg} (hr : bookReg r.key = false) (b : Nat) : (s.log e).bit r b = s.bit r b := (s.within_log e).bit hr b

/-- The parts of State that no entry changes. -/
theorem State.log_rest : bookScope.blank (s.log e) = bookScope.blank s := (s.within_log e).parts

@[simp] theorem State.log_ep : (s.log e).ep = s.ep := congrArg (fun t => t.ep) (s.log_rest e)
@[simp] theorem State.log_ports : (s.log e).ports = s.ports := congrArg (fun t => t.ports) (s.log_rest e)
@[simp] theorem State.log_stalls : (s.log e).stalls = s.stalls := congrArg (fun t => t.stalls) (s.log_rest e)
@[simp] theorem State.log_clk : (s.log e).clk = s.clk := congrArg (fun t => t.clk) (s.log_rest e)
@[simp] theorem State.log_mem : (s.log e).mem = s.mem := congrArg (fun t => t.mem) (s.log_rest e)
@[simp] theorem State.log_cal : (s.log e).cal = s.cal := congrArg (fun t => t.cal) (s.log_rest e)
@[simp] theorem State.log_flash : (s.log e).flash = s.flash := congrArg (fun t => t.flash) (s.log_rest e)
@[simp] theorem State.log_links : (s.log e).links = s.links := congrArg (fun t => t.links) (s.log_rest e)
@[simp] theorem State.log_cluster : (s.log e).cluster = s.cluster := congrArg (fun t => t.cluster) (s.log_rest e)
@[simp] theorem State.log_twin : (s.log e).twin = s.twin := congrArg (fun t => t.twin) (s.log_rest e)
@[simp] theorem State.log_plant : (s.log e).plant = s.plant := congrArg (fun t => t.plant) (s.log_rest e)
@[simp] theorem State.log_boot : (s.log e).boot = s.boot := congrArg (fun t => t.boot) (s.log_rest e)
@[simp] theorem State.log_out : (s.log e).out = s.out := congrArg (fun t => t.out) (s.log_rest e)
@[simp] theorem State.log_capture : (s.log e).capture = s.capture := congrArg (fun t => t.capture) (s.log_rest e)
@[simp] theorem State.log_pipes : (s.log e).pipes = s.pipes := congrArg (fun t => t.pipes) (s.log_rest e)
@[simp] theorem State.log_dram : (s.log e).dram = s.dram := congrArg (fun t => t.dram) (s.log_rest e)
@[simp] theorem State.log_tdc : (s.log e).tdc = s.tdc := congrArg (fun t => t.tdc) (s.log_rest e)

end

end Sys2Proof.Machine
end

section
/-! SUPPORT. Resets and the debug port (R503, R504, R522 to R527; Machine/Boot.lean, Machine/Debug.lean): what a reset clears, the TAP, unlocking, and
the commands of DBGREG. -/

namespace Sys2Proof.Machine

/-! ## What a reset clears (R503, R504) -/

theorem rf_eq_dflt {l : List (Nat × Nat)} {k d : Nat} (h : ∀ e ∈ l, e.1 ≠ k) : rf l k d = d := by
  induction l with
  | nil => rfl
  | cons e l ih =>
    have hne := h e List.mem_cons_self
    rw [rf, if_neg hne, ih fun x hx => h x (List.mem_cons_of_mem _ hx), ite_self]

/-- A register that no reset keeps is at its default. -/
theorem State.u_cleared (s : State) (held : Bool) (r : Reg) (h : keptReg r.key = false) : (s.cleared held).u r = r.dflt :=
  rf_eq_dflt fun e he hk => by
    have hkept := (List.mem_filter.mp he).2
    rw [hk, h] at hkept
    cases hkept

/-- A reset tells its cause, and BOOT_STATE starts anew. -/
theorem State.resetOnce_regs (s : State) (cause : Nat) (hc : cause < 256) :
    (s.resetOnce cause).u Obj.HEALTH.RESET_CAUSE = cause ∧ (s.resetOnce cause).u Obj.HEALTH.BOOT_STATE = 0 := by
  simp only [State.resetOnce, State.putBit, State.bump, State.add, State.u_put]
  exact ⟨by simp [Obj.HEALTH.FLAGS, Obj.HEALTH.RESET_CAUSE, Obj.HEALTH.ROLLBACK, Nat.mod_eq_of_lt hc],
    by simpa [Obj.HEALTH.FLAGS, Obj.HEALTH.RESET_CAUSE, Obj.HEALTH.ROLLBACK, Obj.HEALTH.RESETS, Obj.HEALTH.BOOT_STATE] using
      s.u_cleared (cause == 1) Obj.HEALTH.BOOT_STATE (by decide)⟩

theorem State.resetTo_plain (s : State) (cause : Nat) (h : s.boot.zeroize = false) : s.resetTo cause = s.resetOnce cause :=
  if_neg (by simp [h])

/-! ## Flags with an entry of the day book -/

section
variable (s : State) (r : Reg) (b sub : Nat)

/-- A flag that is marked stands, and no register beyond it and the day book's changes. -/
theorem State.markFlag_bit (hb : b < r.width) (hr : bookReg r.key = false) (inst : Nat) : (s.markFlag r b sub inst).bit r b = true :=
  (State.bit_log _ _ hr b).trans (State.bit_putBit_self _ _ _ _ hb)

theorem State.markFlag_u (x : Reg) (hx : bookReg x.key = false) (hne : r.key ≠ x.key) (inst : Nat) : (s.markFlag r b sub inst).u x = s.u x :=
  (State.u_log _ _ hx).trans (State.u_put_ne _ _ _ _ hne)

theorem State.logFlag_bit (x : Bool) (hb : b < r.width) (hr : bookReg r.key = false) (inst : Nat) (fault : Bool) :
    (s.logFlag r b x sub inst fault).bit r b = x := by
  rw [State.logFlag]
  split
  · assumption
  · exact (State.bit_log _ _ hr b).trans (State.bit_putBit_self _ _ _ _ hb)

/-- A flag's change with its entry, within a scope that holds the day book and the flag's register. -/
theorem State.logFlag_u (x : Bool) (y : Reg) (hy : bookReg y.key = false) (hne : r.key ≠ y.key) (inst : Nat) (fault : Bool) :
    (s.logFlag r b x sub inst fault).u y = s.u y := by
  rw [State.logFlag]
  split
  · rfl
  · exact (State.u_log _ _ hy).trans (State.u_put_ne _ _ _ _ hne)

theorem State.logFlag_rest (x : Bool) (inst : Nat) (fault : Bool) : bookScope.blank (s.logFlag r b x sub inst fault) = bookScope.blank s := by
  rw [State.logFlag]
  split
  · rfl
  · exact State.log_rest _ _

end

/-! ## The TAP (R522, R523) -/

section
variable {s : State}

/-- A TAP instruction while the logic is free selects its register and nothing else. -/
theorem State.selectTap_free (h : tapHolds s = false) (x : Tap) : s.selectTap x = { s with boot := { s.boot with tap := x } } := by
  rw [State.selectTap, h]
  rfl

theorem State.holdTap_free (h : tapHolds s = false) (x : Tap) :
    s.holdTap x = (s.cleared s.boot.held).modBoot (fun b => { b with tap := x }) := by
  rw [State.holdTap, h]
  rfl

/-- EXTEST and CLAMP hold the functional logic in reset. -/
theorem State.holdTap_resets (h : tapHolds s = false) (x : Tap) (hx : x = .extest ∨ x = .clamp) :
    (s.holdTap x).boot.tap = x ∧ tapHolds (s.holdTap x) = true ∧ (s.holdTap x).u Obj.HEALTH.BOOT_STATE = 0 ∧ (s.holdTap x).ledger.sessions = [] ∧
    (s.holdTap x).plant.live = false ∧ (s.holdTap x).mem = [] := by
  rw [State.holdTap_free h]
  refine ⟨rfl, ?_, s.u_cleared s.boot.held Obj.HEALTH.BOOT_STATE (by decide), rfl, rfl, rfl⟩
  rcases hx with rfl | rfl <;> rfl

theorem loaderStart_held (h : resetHeld s = true) : exec .loaderStart s = .next s := congrArg Host.Outcome.next (if_pos (.inr h))

theorem resetHeld_of_tapHolds (h : tapHolds s = true) : resetHeld s = true := by
  rw [resetHeld, Bool.or_assoc]
  exact (congrArg (s.boot.held || ·) h).trans (Bool.or_true _)

theorem extestExit_resets (h : tapHolds s = true) (hz : s.boot.zeroize = false) : ∃ t : State, exec .extestExit s = .next t ∧ t.boot.tap = .bypass ∧
    t.u Obj.HEALTH.RESET_CAUSE = 8 ∧ t.u Obj.HEALTH.BOOT_STATE = 0 := by
  have hexec : exec .extestExit s = .next ((s.resetOnce 8).modBoot (fun b => { b with tap := .bypass })) := by
    refine congrArg Host.Outcome.next ((if_pos h).trans ?_)
    rw [State.selectTap, if_pos h, State.resetTo_plain s 8 hz]
  obtain ⟨hcause, hstate⟩ := s.resetOnce_regs 8 (by decide)
  exact ⟨_, hexec, rfl, hcause, hstate⟩

/-! ## Unlocking (R524) -/

theorem chal_fresh (nonce : List Byte) (h : tapHolds s = false) (hl : s.boot.lockout = false) : exec (.chal nonce) s =
    .next (({ s with boot := { s.boot with tap := .chal, challenge := some (challengeBytes s nonce) } }).emit (.tap (challengeBytes s nonce))) := by
  change execChal nonce s = _
  rw [execChal, State.selectTap_free h]
  exact congrArg Host.Outcome.next (if_neg (by simp [hl]))

theorem chal_lockout (nonce : List Byte) (h : tapHolds s = false) (hl : s.boot.lockout = true) : exec (.chal nonce) s =
    .next (({ s with boot := { s.boot with tap := .chal, challenge := none } }).emit (.tap (List.replicate 44 0))) := by
  change execChal nonce s = _
  rw [execChal, State.selectTap_free h]
  exact congrArg Host.Outcome.next (if_pos hl)

/-- The state of a TAP that has selected RESP. -/
def State.responding (s : State) : State := { s with boot := { s.boot with tap := .resp } }

theorem resp_eq (level : BitVec 8) (b : List Byte) (h : tapHolds s = false) : exec (.resp level b) s =
    .next (if responseGood s level.toNat b then s.responding.unlock level.toNat
      else (s.responding.bump Obj.HEALTH.DBG_FAILS).modBoot (fun x =>
        { x with badRun := if 3 ≤ s.boot.badRun + 1 then 0 else s.boot.badRun + 1, lockout := x.lockout || decide (3 ≤ s.boot.badRun + 1) })) := by
  change execResp level b s = _
  rw [execResp, State.selectTap_free h]
  rfl

theorem State.unlock_unlocks (t : State) (level : Nat) (hl : level < 256) : (t.unlock level).u Obj.HEALTH.DBG_STATE = level ∧
    (t.unlock level).boot.badRun = 0 ∧ (t.unlock level).bit Obj.HEALTH.FLAGS Bit.HEALTH.FLAGS.DEBUG_UNLOCKED = true ∧ (t.unlock level).mem = t.mem := by
  refine ⟨?_, ?_, State.markFlag_bit _ _ _ _ (by decide) (by decide) _, State.log_mem _ _⟩
  · exact (State.markFlag_u _ _ _ _ _ (by decide) (by decide) _).trans ((State.u_put_self t Obj.HEALTH.DBG_STATE level).trans (Nat.mod_eq_of_lt hl))
  · exact congrArg BootPart.badRun (State.log_boot _ _)

theorem resp_good (level : BitVec 8) (b c : List Byte) (h : tapHolds s = false) (hc : s.boot.challenge = some c)
    (hgood : level = 2 ∧ ed25519 Config.debugKey c b = true ∨ level = 1 ∧ ed25519 (padTo 32 (s.blob Obj.HEALTH.DBG_KEY)) c b = true) :
    ∃ t : State, exec (.resp level b) s = .next t ∧ t.u Obj.HEALTH.DBG_STATE = level.toNat ∧ t.boot.badRun = 0 ∧
      t.bit Obj.HEALTH.FLAGS Bit.HEALTH.FLAGS.DEBUG_UNLOCKED = true ∧ t.mem = s.mem := by
  have hresp : responseGood s level.toNat b = true := by
    rw [responseGood, hc]
    rcases hgood with ⟨rfl, hsig⟩ | ⟨rfl, hsig⟩
    · exact hsig
    · exact hsig
  exact ⟨_, (resp_eq level b h).trans (congrArg _ (if_pos hresp)), s.responding.unlock_unlocks level.toNat level.isLt⟩

theorem resp_bad (level : BitVec 8) (b : List Byte) (h : tapHolds s = false) (hbad : responseGood s level.toNat b = false)
    (hroom : s.u Obj.HEALTH.DBG_FAILS + 1 < 2 ^ 32) : ∃ t : State, exec (.resp level b) s = .next t ∧
      t.u Obj.HEALTH.DBG_FAILS = s.u Obj.HEALTH.DBG_FAILS + 1 ∧ t.u Obj.HEALTH.DBG_STATE = s.u Obj.HEALTH.DBG_STATE ∧
      (2 ≤ s.boot.badRun → t.boot.lockout = true ∧ t.boot.badRun = 0) ∧
      (s.boot.badRun < 2 → t.boot.lockout = s.boot.lockout ∧ t.boot.badRun = s.boot.badRun + 1) := by
  refine ⟨_, (resp_eq level b h).trans (congrArg _ (if_neg (by simp [hbad]))), State.u_bump_self _ _ hroom, State.u_put_ne _ _ _ _ (by decide),
    fun h2 => ⟨?_, if_pos (by omega)⟩, fun h2 => ⟨?_, if_neg (by omega)⟩⟩
  · exact (congrArg (s.boot.lockout || ·) (decide_eq_true (show 3 ≤ s.boot.badRun + 1 by omega))).trans (Bool.or_true _)
  · exact (congrArg (s.boot.lockout || ·) (decide_eq_false (show ¬3 ≤ s.boot.badRun + 1 by omega))).trans (Bool.or_false _)

/-- The unlock ends. -/
theorem State.lockDebug_locks (t : State) : t.lockDebug.boot = t.boot ∧ t.lockDebug.u Obj.HEALTH.DBG_STATE = 0 ∧
    t.lockDebug.bit Obj.HEALTH.FLAGS Bit.HEALTH.FLAGS.DEBUG_UNLOCKED = false := by
  have hrest := (t.put Obj.HEALTH.DBG_STATE 0).logFlag_rest Obj.HEALTH.FLAGS Bit.HEALTH.FLAGS.DEBUG_UNLOCKED 26 false 0xFF false
  have hboot := congrArg (fun v : State => v.boot) hrest
  refine ⟨hboot, ?_,
    State.logFlag_bit _ _ _ _ _ (by decide) (by decide) _ _⟩
  exact (State.logFlag_u _ _ _ _ _ _ (by decide) (by decide) _ _).trans (State.u_put_self _ _ _)

theorem dbgLock_acts {t : State} {x : Session} {r : Req} (h : wrote s t x r 0x7A00 0x1E .u8 [1] 2) :
    exec (.dbgLock r 1) s = .next (granted t.lockDebug x r) :=
  congrArg _ (plainCommand_granted h (by decide) rfl (by decide) (by decide))

end

end Sys2Proof.Machine
end

section
/-! SUPPORT. The debug commands (R525 to R527; Machine/Debug.lean): memory, stalls and clerks. -/

namespace Sys2Proof.Machine

/-! ## Memory (R325, R343) -/

section
variable {s : State} {a : Nat}

theorem holderOf_outside (h : memKind s a = .outside) : holderOf s a = none := if_pos h

theorem holderOf_stall (h : memKind s a = .stall) : holderOf s a = some (plainHolder s a) := by
  simp [holderOf, h]

/-- What a debug address reaches holds its word somewhere. -/
theorem holderOf_mapped (h : debugMapped s a = true) : ∃ x : Holder, holderOf s a = some x := by
  have hk : memKind s a ≠ .outside := fun hk => by
    rw [debugMapped, hk] at h
    cases h
  exact ⟨_, if_neg hk⟩

/-- Whether MEM_READ and MEM_WRITE refuse an address: locked, not mapped, or in the clerks' reserve below level 2. -/
theorem debugRefused (h : dbgLevel s = 0 ∨ debugMapped s (a / 16 * 16) = false ∨ (inReserve s (a / 16 * 16) = true ∧ dbgLevel s < 2)) (v : BitVec 128) :
    s.debugRead a = s.answer stLocked 0 ∧ s.debugWrite a v = s.answer stLocked 0 := by
  have hc : dbgLevel s = 0 ∨ (!debugMapped s (a / 16 * 16)) = true ∨ (inReserve s (a / 16 * 16) = true ∧ dbgLevel s < 2) := by
    simpa using h
  exact ⟨if_pos hc, if_pos hc⟩

variable (hl : dbgLevel s ≠ 0) (hm : debugMapped s (a / 16 * 16) = true) (hr : inReserve s (a / 16 * 16) = false)
include hl hm hr

theorem not_debugRefused : ¬(dbgLevel s = 0 ∨ (!debugMapped s (a / 16 * 16)) = true ∨ (inReserve s (a / 16 * 16) = true ∧ dbgLevel s < 2)) := by
  simp [hl, hm, hr]

variable {x : Holder} (hx : holderOf s (a / 16 * 16) = some x)
include hx

theorem debugRead_found : s.debugRead a = match s.finds (a / 16 * 16) x with
    | .clean d | .single d => (s.readAt (a / 16 * 16) x).answer stOk d.toNat
    | .bad _ => (s.readAt (a / 16 * 16) x).answer stPoison x.word.toNat := by
  simp only [State.debugRead]
  rw [if_neg (not_debugRefused hl hm hr), if_neg (by simp [hr]), hx] <;> rfl

theorem debugWrite_put (v : BitVec 128) : s.debugWrite a v = ((x.put v false s).dropFlips (a / 16 * 16) 16).answer stOk 0 := by
  simp only [State.debugWrite]
  rw [if_neg (not_debugRefused hl hm hr), if_neg (by simp [hr]), hx]

end

theorem State.answer_toNat (s : State) (c : Nat) (d : BitVec 128) : s.answer c d.toNat = s.emit (.debug c d) := by
  rw [State.answer, BitVec.ofNat_toNat, BitVec.setWidth_eq]

/-- A sound word of the memories that State.mem lists reads as it stands. -/
theorem finds_sound {s : State} {a : Nat} (ha : a % 16 = 0) (h : sound s a 16) :
    s.finds a (plainHolder s a) = .clean (BitVec.ofNat 128 (fromLe (s.load a 16))) ∧ s.readAt a (plainHolder s a) = s := by
  have hflip : flipAt s.flips a = none := (flipAt_eq_none_iff _ _).mpr fun f hf => by
    have := h.2 f hf
    simp
    omega
  have hbad : (plainHolder s a).bad = false := s.poisoned_sound a 16 a h le_rfl (by omega)
  refine ⟨?_, ?_⟩
  · rw [State.finds, hflip, hbad]
    rfl
  · rw [State.readAt_unflipped s a _ hflip, hbad]
    rfl

/-- A whole word written at its place: its bytes, and none beside them. -/
theorem plainHolder_writes (s : State) (a : Nat) (v : BitVec 128) (h : memoryGood s) :
    (∀ i : Fin 16, Memory.read ((plainHolder s a).put v false s).mem (a + i.val) = (le 16 v.toNat).getD i.val 0) ∧
    bytesKept s ((plainHolder s a).put v false s) a 16 := by
  have hlen : (le 16 v.toNat).length = 16 := le_length _ _
  have hall := Memory.readBytes_writeBytes s.mem a (le 16 v.toNat) h
  refine ⟨fun i => ?_, fun b hb => Memory.read_writeBytes_outside _ _ _ _ h (by rw [hlen]; exact hb)⟩
  have hget : ∀ (m : List Host.Cell) (n b j : Nat), j < n → (Memory.readBytes m b n).getD j 0 = Memory.read m (b + j) := by
    intro m n
    induction n with
    | zero => exact fun _ _ h => absurd h (Nat.not_lt_zero _)
    | succ n ih =>
      intro b j hj
      cases j with
      | zero => rfl
      | succ j =>
        have hnext := ih (b + 1) j (by omega)
        rw [Nat.add_right_comm] at hnext
        exact hnext
  rw [← hget _ 16 a i.val i.isLt]
  exact congrArg (fun l : List Byte => l.getD i.val 0) (hlen ▸ hall)

/-! ## Stalls (R525, R527) -/

section
variable {s : State} {t : StallId}

theorem targetCmd_locked (h : dbgLevel s = 0) (g : DbgTarget) (c : StallCmd) : s.targetCmd g c = s.answer stLocked 0 := if_pos h

theorem targetCmd_stall (h : dbgLevel s ≠ 0) (c : StallCmd) : s.targetCmd (.stall t) c = s.stallCmd t c := if_neg h

/-- The reorder buffers' service of a port changes no stall. -/
theorem State.releasePort_stalls (s : State) (n : Port) : (s.releasePort n).stalls = s.stalls :=
  (RecordsLeave.foldl (fun u g => u.release_records g n) (List.finRange 16) s).stalls

/-- A halt by the debugger leaves the stall's registers and PC as they stand. -/
theorem State.debugHaltStall_stall (s : State) (t : StallId) : (s.debugHaltStall t).stalls[t] = { s.stalls[t] with debugHalt := true } := by
  have hstalls : (s.debugHaltStall t).stalls = (s.modStall t (fun x => { x with debugHalt := true })).stalls := by
    rw [State.debugHaltStall]
    refine List.foldlRecOn (motive := fun u : State => u.stalls = _) _ _ rfl fun u hu k _ => ?_
    exact (State.releasePort_stalls _ _).trans hu
  rw [hstalls]
  exact State.modStall_self _ _ _

/-- A stall that runs under the debugger. -/
def unhalted (t : StallId) (u : State) : Prop := u.stalls[t].debugHalt = false

theorem unhalted.of_stalls {u v : State} (h : unhalted t u) (e : v.stalls = u.stalls) : unhalted t v := by
  rw [unhalted, e]
  exact h

theorem unhalted.put {u : State} (h : unhalted t u) (r : Reg) (v : Nat) : unhalted t (u.put r v) := h

/-- A change of some stall that halts none. -/
theorem unhalted.modStall {u : State} (h : unhalted t u) (a : StallId) {f : Stall → Stall}
    (hf : ∀ x : Stall, x.debugHalt = false → (f x).debugHalt = false) : unhalted t (u.modStall a f) := by
  by_cases hat : a = t
  · subst hat
    rw [unhalted, State.modStall_self]
    exact hf _ h
  · rw [unhalted, State.modStall_other _ _ _ _ hat]
    exact h

theorem unhalted.setStall {u : State} (h : unhalted t u) (a : StallId) (st : StallState) : unhalted t (u.setStall a st) :=
  (h.modStall a (f := fun x => { x with state := st }) fun _ hx => hx).of_stalls rfl

theorem unhalted.vacate {u : State} (h : unhalted t u) (a : StallId) : unhalted t (u.vacate a) :=
  (h.modStall a (f := fun x => { bps := x.bps, watches := x.watches }) fun _ _ => rfl).setStall a .spare

theorem unhalted.foldl {α : Type} {f : State → α → State} (hf : ∀ v a, unhalted t v → unhalted t (f v a)) (l : List α) {u : State} (h : unhalted t u) :
    unhalted t (l.foldl f u) := by
  induction l generalizing u with
  | nil => exact h
  | cons a l ih => exact ih (hf _ _ h)

theorem unhalted.placedCheck {u : State} (h : unhalted t u) (g : Fin 16) : unhalted t (u.placedCheck g) := by
  rw [State.placedCheck]
  split
  · exact h
  · exact h.of_stalls rfl

theorem unhalted.haltPitch {u : State} (h : unhalted t u) (k : Fin 192) : unhalted t (u.haltPitch k) := by
  refine unhalted.of_stalls ?_ (State.releasePort_stalls _ _)
  exact h.of_stalls rfl

theorem unhalted.dropLoads {u : State} (h : unhalted t u) (a : StallId) : unhalted t (u.dropLoads a) := by
  rw [State.dropLoads]
  refine unhalted.placedCheck (unhalted.modStall ?_ a (f := fun x => { x with reload := false }) fun _ hx => hx) _
  refine unhalted.foldl (fun v p hv => ?_) _ h
  split
  · exact hv.vacate p
  · exact hv

theorem State.arrayFlags_stalls (s : State) : s.arrayFlags.stalls = s.stalls := rfl

theorem unhalted.haltStall {u : State} (h : unhalted t u) (a : StallId) : unhalted t (u.haltStall a) := by
  rw [State.haltStall]
  have hpitches : unhalted t (u.stalls[a].pitches.foldl (fun v k => v.haltPitch k) u) := unhalted.foldl (fun v k hv => hv.haltPitch k) _ h
  exact ((hpitches.dropLoads a).setStall a .halted).of_stalls (State.arrayFlags_stalls _)

theorem unhalted.give {u : State} (h : unhalted t u) (b : StallId) (g : Fin 16) (ks : List (Fin 192)) : unhalted t (u.give b g ks) := by
  rw [State.give, State.writeHosts]
  refine unhalted.foldl (fun v e hv => ?_) _ ?_
  · exact hv.of_stalls rfl
  · exact (h.modStall b (f := fun x => { x with slot := some g, pitches := ks }) fun _ hx => hx).of_stalls rfl

theorem unhalted.mapStalls {u : State} (h : unhalted t u) {f : Stall → Stall} (hf : ∀ x : Stall, x.debugHalt = false → (f x).debugHalt = false) :
    unhalted t { u with stalls := u.stalls.map f } := by
  rw [unhalted, Fin.getElem_fin, Vector.getElem_map]
  exact hf _ h

theorem unhalted.startMove {u : State} (h : unhalted t u) (a b : StallId) : unhalted t (u.startMove a b) := by
  rw [State.startMove]
  refine unhalted.of_stalls (unhalted.setStall ?_ b .loading) rfl
  refine unhalted.foldl (fun v k hv => ?_) _ (unhalted.mapStalls ?_ fun x hx => ?_)
  · exact hv.of_stalls rfl
  · refine unhalted.modStall (unhalted.give ?_ b _ _) b fun _ hx => hx
    exact h.modStall a fun _ hx => hx
  · split
    · exact hx
    · exact hx

theorem unhalted.fatalFault {u : State} (h : unhalted t u) (a : StallId) : unhalted t (u.fatalFault a) := by
  have habort := h.modStall a (f := Stall.aborted) fun _ hy => hy
  rw [State.fatalFault]
  split
  · exact habort
  · split
    · split
      · exact habort.haltStall a
      · exact habort.startMove a _
    · exact (habort.haltStall a).of_stalls (State.log_stalls _ _)

theorem unhalted.takePending {u : State} (h : unhalted t u) (a : StallId) : unhalted t (u.takePending a) := by
  rw [State.takePending]
  split
  · exact h
  · split
    · exact h.modStall a fun _ hx => hx
    · rw [State.takeTrap]
      split
      · exact h.fatalFault a
      · refine unhalted.put (unhalted.modStall h a fun x hx => ?_) _ _
        exact hx

/-- RESUME sets the stall free. -/
theorem State.freeStall_unhalted (s : State) (t : StallId) : unhalted t (s.freeStall t) := by
  have hfree : unhalted t (s.modStall t (fun x => { x with debugHalt := false, skipBp := true })) := by rw [unhalted, State.modStall_self]
  rw [State.freeStall]
  exact unhalted.takePending (hfree.put _ _) t

end

/-! ## Registers and STATUS of a stall (R526; log entry 31) -/

/-- The number that four lanes of 24 bits and four bits of poison make. -/
def lanesNum (a b c d w x y z : Nat) : Nat :=
  a + 2 ^ 24 * (b + 2 ^ 24 * (c + 2 ^ 24 * d)) + 2 ^ 96 * (w + 2 * (x + 2 * (y + 2 * z)))

theorem lanesNum_lane {a b c d w x y z : Nat} (ha : a < 2 ^ 24) (hb : b < 2 ^ 24) (hc : c < 2 ^ 24) (hd : d < 2 ^ 24)
    (hw : w < 2) (hx : x < 2) (hy : y < 2) (hz : z < 2) : lanesNum a b c d w x y z < 2 ^ 128 ∧ ∀ i : Fin 4,
    lanesNum a b c d w x y z / 2 ^ (24 * i.val) % 2 ^ 24 = [a, b, c, d].getD i.val 0 ∧
    lanesNum a b c d w x y z / 2 ^ (96 + i.val) % 2 = [w, x, y, z].getD i.val 0 := by
  simp only [lanesNum]
  refine ⟨by omega, fun i => ?_⟩
  fin_cases i <;> refine ⟨?_, ?_⟩ <;> simp <;> omega

/-- A lane of a data register as DATA shows it, and its poison bit. -/
theorem dregBits_lane (q : DReg) (i : Fin 4) : (BitVec.ofNat 128 (dregBits q)).extractLsb' (24 * i.val) 24 = (q.get i).v ∧
    (BitVec.ofNat 128 (dregBits q)).getLsbD (96 + i.val) = (q.get i).poison := by
  obtain ⟨a, b, c, d⟩ := q
  have hbit : ∀ x : Bool, (if x = true then 1 else 0) = x.toNat := fun x => by cases x <;> rfl
  have hnum : dregBits ⟨a, b, c, d⟩ = lanesNum a.v.toNat b.v.toNat c.v.toNat d.v.toNat a.poison.toNat b.poison.toNat c.poison.toNat d.poison.toNat := by
    simp [dregBits, Quad.toList, packed, lanesNum, hbit]
  obtain ⟨hlt, hall⟩ := lanesNum_lane a.v.isLt b.v.isLt c.v.isLt d.v.isLt a.poison.toNat_lt b.poison.toNat_lt c.poison.toNat_lt d.poison.toNat_lt
  obtain ⟨hlane, hpoison⟩ := hall i
  refine ⟨BitVec.eq_of_toNat_eq ?_, ?_⟩
  · rw [BitVec.extractLsb'_toNat, BitVec.toNat_ofNat, hnum, Nat.mod_eq_of_lt hlt, Nat.shiftRight_eq_div_pow, hlane]
    fin_cases i <;> rfl
  · rw [BitVec.getLsbD, BitVec.toNat_ofNat, hnum, Nat.mod_eq_of_lt hlt, Nat.testBit_eq_decide_div_mod_eq, hpoison]
    fin_cases i
    · cases h : a.poison <;> simp [Quad.get, h]
    · cases h : b.poison <;> simp [Quad.get, h]
    · cases h : c.poison <;> simp [Quad.get, h]
    · cases h : d.poison <;> simp [Quad.get, h]

/-- What STATUS tells of a stall: whether it stands, in bit 0, and its PC from bit 32 on. -/
theorem statusBits_shows (s : State) (x : Stall) : (BitVec.ofNat 128 (statusBits s x)).getLsbD 0 = stallHalted x ∧
    (BitVec.ofNat 128 (statusBits s x)).extractLsb' 32 13 = x.pc := by
  have hpc := x.pc.isLt
  have hcause : Config.measured s.fresh % 256 < 256 := Nat.mod_lt _ (by decide)
  have hbit : ∀ b : Bool, (if b = true then 1 else 0) = b.toNat := fun b => by cases b <;> rfl
  have hone := (stallHalted x).toNat_lt
  have hlt : statusBits s x < 2 ^ 128 := by
    simp only [statusBits, hbit]
    omega
  refine ⟨?_, BitVec.eq_of_toNat_eq ?_⟩
  · rw [BitVec.getLsbD, BitVec.toNat_ofNat, Nat.mod_eq_of_lt hlt, Nat.testBit_zero]
    have hlow : statusBits s x % 2 = (stallHalted x).toNat := by
      simp only [statusBits, hbit]
      omega
    rw [hlow]
    cases stallHalted x <;> rfl
  · rw [BitVec.extractLsb'_toNat, BitVec.toNat_ofNat, Nat.mod_eq_of_lt hlt, Nat.shiftRight_eq_div_pow]
    simp only [statusBits, hbit]
    omega

section
variable {s : State} {t : StallId} (hl : dbgLevel s ≠ 0)
include hl

theorem status_shows : ∃ v : BitVec 128, s.targetCmd (.stall t) .status = s.drawn.emit (.debug 0 v) ∧ v.getLsbD 0 = stallHalted s.stalls[t] ∧
    v.extractLsb' 32 13 = s.stalls[t].pc := ⟨_, targetCmd_stall hl _, statusBits_shows s s.stalls[t]⟩

theorem regRead_running (f x : Nat) (h : stallHalted s.stalls[t] = false) : s.targetCmd (.stall t) (.regRead f x) = s.answer stNotHalted 0 :=
  (targetCmd_stall hl _).trans (if_pos (by rw [h]; rfl))

theorem regWrite_running (f x : Nat) (v : BitVec 128) (h : stallHalted s.stalls[t] = false) :
    s.targetCmd (.stall t) (.regWrite f x v) = s.answer stNotHalted 0 :=
  (targetCmd_stall hl _).trans (if_pos (by rw [h]; rfl))

/-- A register of a halted stall that DATA can show whole. -/
theorem regRead_halted {f x v : Nat} (h : stallHalted s.stalls[t] = true) (hv : readFile s s.stalls[t] f x = some v) :
    s.targetCmd (.stall t) (.regRead f x) = (s.drew 8).answer stOk v := by
  refine (targetCmd_stall hl _).trans ((if_neg (by rw [h]; decide)).trans ?_)
  rw [hv]

theorem regWrite_halted {f x : Nat} {v : BitVec 128} {y : Stall} (h : stallHalted s.stalls[t] = true)
    (hv : writeFile s s.stalls[t] f x v.toNat = some y) : ∃ u : State, s.targetCmd (.stall t) (.regWrite f x v) = u ∧
      u.out = s.out ++ [.debug 0 0] ∧ u.stalls[t] = y ∧ (∀ j : StallId, j ≠ t → u.stalls[j] = s.stalls[j]) ∧ u.mem = s.mem := by
  have hself := s.modStall_self t (fun _ => y)
  have hother : ∀ j : StallId, j ≠ t → (s.modStall t (fun _ => y)).stalls[j] = s.stalls[j] := fun j hj => State.modStall_other _ _ _ _ hj.symm
  refine ⟨(((s.modStall t (fun _ => y)).syncFlags t).drew 8).answer stOk 0, ?_, rfl, hself, hother, rfl⟩
  refine (targetCmd_stall hl _).trans ((if_neg (by rw [h]; decide)).trans ?_)
  rw [hv]

/-- A change of one stall that the debugger makes and answers with OK. -/
theorem stallChanged {c : StallCmd} {f : Stall → Stall} (hc : s.stallCmd t c = (s.modStall t f).answer stOk 0) :
    s.targetCmd (.stall t) c = (s.modStall t f).answer stOk 0 ∧ (s.modStall t f).stalls[t] = f s.stalls[t] ∧
    ∀ j : StallId, j ≠ t → (s.modStall t f).stalls[j] = s.stalls[j] :=
  ⟨(targetCmd_stall hl _).trans hc, State.modStall_self _ _ _, fun _ hj => State.modStall_other _ _ _ _ hj.symm⟩

end

/-! ## DBGREG (R525) -/

theorem dbgTarget_stall (i : StallId) : dbgTarget (BitVec.ofNat 8 i.val) = .stall i := by
  have hi := i.isLt
  have hval : (BitVec.ofNat 8 i.val).toNat = i.val := by simp; omega
  rw [dbgTarget, dif_pos (by omega)]
  exact congrArg DbgTarget.stall (Fin.ext hval)

section
variable {s : State} (h : tapHolds s = false)
include h

/-- The state of a TAP that has selected DBGREG. -/
theorem dbgreg_locked (cmd target : BitVec 8) (arg : BitVec 40) (data : BitVec 128) (hl : s.u Obj.HEALTH.DBG_STATE = 0) :
    exec (.dbgreg cmd target arg data) s = .next (({ s with boot := { s.boot with tap := .dbgreg } }).emit (.debug 2 0)) := by
  change execDbgreg cmd target arg data s = _
  rw [execDbgreg, State.selectTap_free h]
  exact congrArg Host.Outcome.next (if_pos hl)

variable (hl : dbgLevel s ≠ 0)
include hl

/-- A command other than those of memory goes to its target. -/
theorem dbgreg_command {cmd target : BitVec 8} {arg : BitVec 40} {data : BitVec 128} {c : StallCmd} (hc : dbgCommand cmd arg data = some c)
    (h1 : cmd ≠ 1#8) (h2 : cmd ≠ 2#8) : exec (.dbgreg cmd target arg data) s =
      .next (({ s with boot := { s.boot with tap := .dbgreg } } : State).targetCmd (dbgTarget target) c) := by
  change execDbgreg cmd target arg data s = _
  rw [execDbgreg, State.selectTap_free h, hc]
  refine congrArg Host.Outcome.next ((if_neg hl).trans (if_neg ?_))
  simp [h1, h2]

theorem dbgreg_memory (arg : BitVec 40) (data : BitVec 128) :
    exec (.dbgreg 1 0xFF arg data) s = .next (({ s with boot := { s.boot with tap := .dbgreg } } : State).debugRead arg.toNat) ∧
    exec (.dbgreg 2 0xFF arg data) s = .next (({ s with boot := { s.boot with tap := .dbgreg } } : State).debugWrite arg.toNat data) := by
  have hmem : ¬dbgTarget 0xFF ≠ .memory := by simp [dbgTarget]
  change execDbgreg 1 0xFF arg data s = _ ∧ execDbgreg 2 0xFF arg data s = _
  rw [execDbgreg, execDbgreg, State.selectTap_free h]
  exact ⟨congrArg Host.Outcome.next ((if_neg hl).trans ((if_pos (by decide)).trans ((if_neg hmem).trans (if_pos rfl)))),
    congrArg Host.Outcome.next ((if_neg hl).trans ((if_pos (by decide)).trans ((if_neg hmem).trans (if_neg (by decide)))))⟩

end

end Sys2Proof.Machine
end

section
/-! SUPPORT. The debug port's statement (R522 to R527). -/

namespace Sys2Proof.Machine

section
variable {s : State}

/-- Commands of the debug port while it is locked. -/
theorem debug_locked (h : s.u Obj.HEALTH.DBG_STATE = 0) (a : BitVec 40) (v : BitVec 128) (g : DbgTarget) (i : StallId) (f x : BitVec 8) (p : BitVec 13)
    (w : BitVec 18) (k : Fin 4) (j : Fin 2) (rd wr : Bool) (c : Instr) (hc : c ∈ [Instr.memRead a, .memWrite a v, .halt g, .resume g, .step i,
      .bpSet i k p, .bpClear i k, .watchSet i j w rd wr, .regRead i f x, .regWrite i f x v, .status g]) :
    exec c s = .next (s.emit (.debug 2 0)) := by
  have hmem := debugRefused (a := a.toNat) (.inl h) v
  have htarget : ∀ (g : DbgTarget) (c : StallCmd), s.targetCmd g c = s.answer stLocked 0 := targetCmd_locked h
  simp only [List.mem_cons, List.not_mem_nil, or_false] at hc
  rcases hc with rfl | rfl | rfl | rfl | rfl | rfl | rfl | rfl | rfl | rfl | rfl
  · exact congrArg Host.Outcome.next hmem.1
  · exact congrArg Host.Outcome.next hmem.2
  all_goals exact congrArg Host.Outcome.next (htarget _ _)

/-- A memory word as the debug port reads and writes it. -/
theorem debugMemory_found {a : BitVec 40} (hl : dbgLevel s ≠ 0) (hm : debugMapped s (a.toNat / 16 * 16) = true)
    (hr : inReserve s (a.toNat / 16 * 16) = false) : ∃ h : Holder, holderOf s (a.toNat / 16 * 16) = some h ∧
      (∀ d : BitVec 128, s.finds (a.toNat / 16 * 16) h = .clean d ∨ s.finds (a.toNat / 16 * 16) h = .single d →
        exec (.memRead a) s = .next ((s.readAt (a.toNat / 16 * 16) h).emit (.debug 0 d))) ∧
      (∀ y : BitVec 9, s.finds (a.toNat / 16 * 16) h = .bad y →
        exec (.memRead a) s = .next ((s.readAt (a.toNat / 16 * 16) h).emit (.debug 3 h.word))) ∧
      (∀ v : BitVec 128, exec (.memWrite a v) s = .next (((h.put v false s).dropFlips (a.toNat / 16 * 16) 16).emit (.debug 0 0))) := by
  obtain ⟨h, hh⟩ := holderOf_mapped hm
  have hread := debugRead_found hl hm hr hh
  refine ⟨h, hh, fun d hd => congrArg Host.Outcome.next (hread.trans ?_), fun y hy => congrArg Host.Outcome.next (hread.trans ?_),
    fun v => congrArg Host.Outcome.next (debugWrite_put hl hm hr hh v)⟩
  · rcases hd with hd | hd
    · rw [hd]
      exact State.answer_toNat _ _ _
    · rw [hd]
      exact State.answer_toNat _ _ _
  · rw [hy]
    exact State.answer_toNat _ _ _

theorem debugRead_plain {a : BitVec 40} (hl : dbgLevel s ≠ 0) (hm : debugMapped s (a.toNat / 16 * 16) = true)
    (hr : inReserve s (a.toNat / 16 * 16) = false) (hp : holderOf s (a.toNat / 16 * 16) = some (plainHolder s (a.toNat / 16 * 16)))
    (hs : sound s (a.toNat / 16 * 16) 16) :
    exec (.memRead a) s = .next (s.emit (.debug 0 (BitVec.ofNat 128 (fromLe (s.load (a.toNat / 16 * 16) 16))))) := by
  obtain ⟨hfinds, hreads⟩ := finds_sound (by omega) hs
  refine congrArg Host.Outcome.next ((debugRead_found hl hm hr hp).trans ?_)
  rw [hfinds, hreads]
  exact State.answer_toNat _ _ _

theorem debugWrite_plain {a : BitVec 40} (v : BitVec 128) (hl : dbgLevel s ≠ 0) (hm : debugMapped s (a.toNat / 16 * 16) = true)
    (hr : inReserve s (a.toNat / 16 * 16) = false) (hg : memoryGood s)
    (hp : holderOf s (a.toNat / 16 * 16) = some (plainHolder s (a.toNat / 16 * 16))) :
    ∃ t : State, exec (.memWrite a v) s = .next t ∧ (∀ i : Fin 16, Memory.read t.mem (a.toNat / 16 * 16 + i.val) = (le 16 v.toNat).getD i.val 0) ∧
      bytesKept s t (a.toNat / 16 * 16) 16 ∧ t.out = s.out ++ [.debug 0 0] ∧ t.regs = s.regs ∧ t.stalls = s.stalls := by
  have hwrite := debugWrite_put hl hm hr hp v
  generalize a.toNat / 16 * 16 = w at hwrite ⊢
  obtain ⟨hbytes, hkept⟩ := plainHolder_writes s w v hg
  have hregs : ((plainHolder s w).put v false s).regs = s.regs := rfl
  have hstalls : ((plainHolder s w).put v false s).stalls = s.stalls := rfl
  have hout : ((plainHolder s w).put v false s).out = s.out := rfl
  rw [bytesKept] at hkept
  generalize (plainHolder s w).put v false s = u at *
  exact ⟨_, congrArg Host.Outcome.next hwrite, hbytes, hkept, congrArg (· ++ _) hout, hregs, hstalls⟩

section
variable {t : StallId} (hl : dbgLevel s ≠ 0)
include hl

theorem halt_stands (h : s.stalls[t].debugHalt = true) : exec (.halt (.stall t)) s = .next (s.emit (.debug 0 0)) := by
  have hstands : s.haltTarget t = s := if_pos h
  refine congrArg Host.Outcome.next ((targetCmd_stall hl _).trans ?_)
  rw [State.stallCmd, hstands]
  rfl

theorem halt_halts (h : s.stalls[t].debugHalt = false) : ∃ u : State, exec (.halt (.stall t)) s = .next u ∧ u.stalls[t].debugHalt = true ∧
    u.stalls[t].pc = s.stalls[t].pc ∧ u.stalls[t].d = s.stalls[t].d := by
  have hhalts : s.haltTarget t = s.debugHaltStall t := if_neg (by rw [h]; decide)
  have hstall : ((s.haltTarget t).answer stOk 0).stalls[t] = { s.stalls[t] with debugHalt := true } := by
    rw [hhalts]
    exact s.debugHaltStall_stall t
  refine ⟨_, congrArg Host.Outcome.next (targetCmd_stall hl _), ?_⟩
  rw [State.stallCmd, hstall]
  exact ⟨rfl, rfl, rfl⟩

theorem resume_step_running (h : s.stalls[t].debugHalt = false) : exec (.resume (.stall t)) s = .next (s.emit (.debug 5 0)) ∧
    exec (.step t) s = .next (s.emit (.debug 5 0)) :=
  ⟨congrArg Host.Outcome.next ((targetCmd_stall hl _).trans (if_neg (by rw [h]; decide))),
    congrArg Host.Outcome.next ((targetCmd_stall hl _).trans (if_pos (by rw [h]; rfl)))⟩

theorem resume_resumes (h : s.stalls[t].debugHalt = true) :
    ∃ u : State, exec (.resume (.stall t)) s = .next u ∧ u.stalls[t].debugHalt = false ∧ .debug 0 0 ∈ u.out :=
  ⟨_, congrArg Host.Outcome.next ((targetCmd_stall hl _).trans (if_pos h)), s.freeStall_unhalted t, List.mem_append_right _ List.mem_cons_self⟩

theorem step_steps (h : s.stalls[t].debugHalt = true) :
    ∃ u : State, exec (.step t) s = .next u ∧ u.stalls[t].debugHalt = true ∧ .debug 0 0 ∈ u.out := by
  have hstands : ∀ v : State, (((v.modStall t (fun x => { x with debugHalt := true })).put (Obj.STALL.STATE t) 5).answer stOk 0).stalls[t].debugHalt = true :=
    fun v => congrArg Stall.debugHalt (v.modStall_self t (fun x => { x with debugHalt := true }))
  exact ⟨_, congrArg Host.Outcome.next ((targetCmd_stall hl _).trans (if_neg (by rw [h]; decide))), hstands _,
    List.mem_append_right _ List.mem_cons_self⟩

end

end
end Sys2Proof.Machine

namespace Sys2Proof
open Machine

/-- Settles O53: the TAP and the unlock by their own lemmas, and each command of DBGREG by the one of its target. -/
theorem debugPort : Obligations.DebugPort := by
  refine ⟨fun s h => ?_, fun s h => ?_, fun s h hz => extestExit_resets h hz, fun s nonce h hl => chal_fresh nonce h hl,
    fun s nonce h hl => chal_lockout nonce h hl, fun s level b c h hc hgood => resp_good level b c h hc hgood,
    fun s level b h hbad hroom => resp_bad level b h hbad hroom, fun s => rfl, fun s h => ?_, fun s t x r h => dbgLock_acts h,
    fun s a v g i f x p w k j rd wr h => debug_locked h a v g i f x p w k j rd wr, fun s a hl hm hr => debugMemory_found hl hm hr,
    fun s a => ⟨holderOf_stall, holderOf_outside⟩, fun s a hl hm hr hp hs => debugRead_plain hl hm hr hp hs,
    fun s a v hl hm hr hg hp => debugWrite_plain v hl hm hr hg hp, fun s a v h => ?_, fun s t hl h => halt_stands hl h, fun s t hl h => halt_halts hl h,
    fun s t hl h => resume_step_running hl h, fun s t hl h => ⟨resume_resumes hl h, step_steps hl h⟩, fun s t k p hl => ?_,
    fun s t k a rd wr hl => ?_, fun s t f x v hl h => ?_, fun s t x hl h => ?_, fun s t x hl h => ?_, fun s t x v hl h => ?_, fun s t hl => ?_,
    fun s hl => ?_, fun s hl => ?_, fun s n hl => ?_, fun s cmd target arg data h hl => dbgreg_locked h cmd target arg data hl,
    fun s t arg data i h hl ht => ?_, fun s arg data i h hl => ?_⟩
  · have hselect : ∀ x : Tap, s.selectTap x = { s with boot := { s.boot with tap := x } } := State.selectTap_free h
    refine ⟨congrArg Host.Outcome.next (hselect _), congrArg Host.Outcome.next (hselect _), congrArg Host.Outcome.next (if_neg (by rw [h]; decide)), ?_⟩
    change execIdcode s = _
    rw [execIdcode, hselect]
    rfl
  · obtain ⟨htap, hheld, hboot, hsessions, hlive, hmem⟩ := State.holdTap_resets h .extest (.inl rfl)
    obtain ⟨htapC, hheldC, -⟩ := State.holdTap_resets h .clamp (.inr rfl)
    exact ⟨_, _, rfl, rfl, htap, htapC, hheld, hheldC, hboot, hsessions, hlive, hmem, loaderStart_held (resetHeld_of_tapHolds hheld)⟩
  · obtain ⟨hboot, hstate, hflag⟩ := (s.selectTap .idcode).lockDebug_locks
    refine ⟨_, rfl, ?_, hstate, hflag⟩
    rw [hboot, State.selectTap_free h]
  · obtain ⟨hread, hwrite⟩ := debugRefused (.inr h) v
    exact ⟨congrArg Host.Outcome.next hread, congrArg Host.Outcome.next hwrite⟩
  · obtain ⟨hset, hsetStall, hsetOther⟩ := stallChanged (t := t) hl (c := .bpSet k p) (f := fun x => { x with bps := x.bps.set k (some p) }) rfl
    obtain ⟨hclear, hclearStall, hclearOther⟩ := stallChanged (t := t) hl (c := .bpClear k) (f := fun x => { x with bps := x.bps.set k none }) rfl
    exact ⟨⟨_, congrArg Host.Outcome.next hset, hsetStall, rfl, hsetOther⟩, ⟨_, congrArg Host.Outcome.next hclear, hclearStall, rfl, hclearOther⟩⟩
  · obtain ⟨hset, hstall, hother⟩ := stallChanged (t := t) hl (c := .watch k a (watchBits rd wr))
      (f := fun x => { x with watches := x.watches.set k (some (a, 1, watchBits rd wr)) }) rfl
    exact ⟨_, congrArg Host.Outcome.next hset, rfl, hstall, hother⟩
  · exact ⟨congrArg Host.Outcome.next (regRead_running hl _ _ h), congrArg Host.Outcome.next (regWrite_running hl _ _ _ h)⟩
  · have hval : (BitVec.ofNat 8 x.val).toNat = x.val := by have := x.isLt; simp; omega
    have hread : readFile s s.stalls[t] 2 (BitVec.ofNat 8 x.val).toNat = some s.stalls[t].p[x].toNat := by
      rw [hval]
      exact dif_pos x.isLt
    refine ⟨_, congrArg Host.Outcome.next (regRead_halted hl h hread), ?_, rfl, rfl⟩
    exact congrArg (fun v => s.out ++ [Out.debug 0 v]) (BitVec.ofNat_toNat 128 s.stalls[t].p[x])
  · have hval : (BitVec.ofNat 8 x.val).toNat = x.val := by have := x.isLt; simp; omega
    have hread : readFile s s.stalls[t] 0 (BitVec.ofNat 8 x.val).toNat = some (dregBits s.stalls[t].d[x]) := by
      rw [hval]
      exact dif_pos x.isLt
    exact ⟨_, congrArg Host.Outcome.next (regRead_halted hl h hread), rfl, _, rfl, dregBits_lane _⟩
  · have hval : (BitVec.ofNat 8 x.val).toNat = x.val := by have := x.isLt; simp; omega
    have hwrite : writeFile s s.stalls[t] 2 (BitVec.ofNat 8 x.val).toNat v.toNat =
        some { s.stalls[t] with p := s.stalls[t].p.set x (v.setWidth 24) } := by
      rw [hval]
      exact dif_pos x.isLt
    obtain ⟨u, hu, hrest⟩ := regWrite_halted hl h hwrite
    exact ⟨u, congrArg Host.Outcome.next hu, hrest⟩
  · obtain ⟨v, hstatus, hbits⟩ := status_shows (t := t) hl
    exact ⟨_, v, congrArg Host.Outcome.next hstatus, rfl, rfl, hbits⟩
  · exact congrArg Host.Outcome.next ((if_neg (by omega)).trans (if_pos (by omega)))
  · exact ⟨_, congrArg Host.Outcome.next ((if_neg (by omega)).trans (if_neg (by omega))), rfl, rfl, rfl⟩
  · exact ⟨congrArg Host.Outcome.next (if_neg hl), congrArg Host.Outcome.next (if_neg hl)⟩
  · subst ht
    obtain ⟨hread, hwrite⟩ := dbgreg_memory h hl arg data
    have hstall := dbgTarget_stall i
    refine ⟨hread, hwrite, ?_, ?_, ?_, dbgreg_command h hl (c := .status) rfl (by decide) (by decide)⟩
    · exact (dbgreg_command h hl (c := .halt) rfl (by decide) (by decide)).trans (by rw [hstall]; rfl)
    · exact (dbgreg_command h hl (c := .resume) rfl (by decide) (by decide)).trans (by rw [hstall]; rfl)
    · exact (dbgreg_command h hl (c := .step) rfl (by decide) (by decide)).trans (by rw [hstall]; rfl)
  · have hstall := dbgTarget_stall i
    have hselected : dbgLevel { s with boot := { s.boot with tap := .dbgreg } } ≠ 0 := hl
    refine ⟨?_, fun hhalt => ?_⟩
    · obtain ⟨v, hstatus, hbits⟩ := status_shows (t := i) hselected
      have hexec := dbgreg_command h hl (cmd := 0x20) (target := BitVec.ofNat 8 i.val) (arg := arg) (data := data) (c := .status) rfl (by decide) (by decide)
      rw [hstall, hstatus] at hexec
      exact ⟨_, v, hexec, rfl, rfl, rfl, hbits⟩
    · refine (dbgreg_command h hl (c := .halt) rfl (by decide) (by decide)).trans ?_
      rw [hstall]
      exact halt_stands hselected hhalt


end Sys2Proof
end

section
/-! SUPPORT. Changes made in turn over a list, the journals of the flash and the runs of calibrations, each changed by its number. -/

namespace Sys2Proof.Machine

/-! ## One turn of a list -/

/-- What an element of a list does at its turn stands after the whole list, where the others keep what goes before it and what comes after. -/
theorem foldl_turn {α : Type} {f : State → α → State} {P Q : State → Prop} {l : List α} (hn : l.Nodup) {k : α} (hk : k ∈ l)
    (before : ∀ t b, b ≠ k → P t → P (f t b)) (turn : ∀ t, P t → Q (f t k)) (after : ∀ t b, b ≠ k → Q t → Q (f t b)) (s : State) (h : P s) :
    Q (l.foldl f s) := by
  have stays : ∀ {R : State → Prop}, (∀ t b, b ≠ k → R t → R (f t b)) → ∀ l : List α, k ∉ l → ∀ t, R t → R (l.foldl f t) := by
    intro R keep l hl
    induction l with
    | nil => exact fun _ h => h
    | cons b l ih =>
      rw [List.mem_cons, not_or] at hl
      exact fun t h => ih hl.2 _ (keep t b (Ne.symm hl.1) h)
  obtain ⟨l₁, l₂, rfl⟩ := List.append_of_mem hk
  rw [List.nodup_append] at hn
  obtain ⟨-, hn₂, hne⟩ := hn
  rw [List.foldl_append, List.foldl_cons]
  exact stays after l₂ (List.nodup_cons.mp hn₂).1 _ (turn _ (stays before l₁ (fun hmem => hne k hmem k List.mem_cons_self rfl) _ h))

theorem foldl_keeps {α : Type} {f : State → α → State} {P : State → Prop} (keep : ∀ t b, P t → P (f t b)) (l : List α) {s : State} (h : P s) :
    P (l.foldl f s) := by
  induction l generalizing s with
  | nil => exact h
  | cons b l ih => exact ih (keep s b h)

/-! ## Journals (R495) -/

section
variable (s : State)

@[simp] theorem State.modJournal_self (j : Fin 18) (f : JournalPart → JournalPart) : (s.modJournal j f).flash.journals[j] = f s.flash.journals[j] := by
  simp [State.modJournal]

theorem State.modJournal_other (i j : Fin 18) (f : JournalPart → JournalPart) (h : i ≠ j) :
    (s.modJournal j f).flash.journals[i] = s.flash.journals[i] := by
  have : j.val ≠ i.val := fun e => h (Fin.ext e.symm)
  simp [State.modJournal, this]

/-! ## Calibrations (R483) -/

theorem State.calOf_eq (k : Fin 20) : s.calOf k.val = s.cal[k] := by
  simp [State.calOf]

theorem State.calOf_modCal_self (k : Fin 20) (f : CalRun → CalRun) : (s.modCal k.val f).calOf k.val = f (s.calOf k.val) := by
  simp [State.calOf_eq, State.modCal]

theorem State.calOf_modCal_other (j : Nat) (k : Nat) (f : CalRun → CalRun) (h : j ≠ k) : (s.modCal k f).calOf j = s.calOf j := by
  simp only [State.modCal, State.calOf]
  split
  · simp [List.getD_eq_getElem?_getD, Vector.toList_set, List.getElem?_set_ne h.symm]
  · rfl

end

end Sys2Proof.Machine
end

section
/-! SUPPORT. The flash journals (R495 to R500, R517, R518; Machine/Flash.lean). -/

namespace Sys2Proof.Machine

section
variable {s : State} {j : Fin 18}

/-! ## A write begins (R497, R498, R506, R514) -/

/-- What holds back the write of a journal. -/
def writeWaits (s : State) (j : Fin 18) : Bool :=
  s.flash.journals[j].job.isSome || !s.bit Obj.FLASH.PENDING j || writeBlocked s || !clerksUp s || s.boot.switching || writtenLately s j

theorem journalWrite_waits (h : writeWaits s j = true) : exec (.journalWrite j) s = .next s := congrArg Host.Outcome.next (if_pos h)

/-- The state in which a journal's write has begun. -/
def State.writing (s : State) (j : Fin 18) : State :=
  ((s.clrBit Obj.FLASH.PENDING j).modJournal j (fun x => { x with job := some { data := journalData s j }, began := some s.now })).calCarried j

theorem journalWrite_begins (h : writeWaits s j = false) : exec (.journalWrite j) s = .next (s.writing j) :=
  congrArg Host.Outcome.next (if_neg (Bool.eq_false_iff.mp h))

theorem writtenLately_iff (b : Int) (hb : s.flash.journals[(1 : Fin 18)].began = some b) :
    writtenLately s 1 = true ↔ b ≤ s.now ∧ s.now < b + ticksPerSecond / 4 := by
  rw [writtenLately, hb]
  simp [ticksPerSecond]

theorem State.calCarried_flash (s : State) (j : Fin 18) : (s.calCarried j).flash = s.flash ∧ (s.calCarried j).regs = s.regs := by
  rw [State.calCarried]
  split
  · exact ⟨rfl, rfl⟩
  · exact ⟨rfl, rfl⟩

theorem State.writing_writes (s : State) (j : Fin 18) : (s.writing j).bit Obj.FLASH.PENDING j.val = false ∧ regsKept s (s.writing j) [Obj.FLASH.PENDING] ∧
    (s.writing j).flash.journals[j].job = some { data := journalData s j } ∧ (s.writing j).flash.journals[j].began = some s.now ∧
    (s.writing j).flash.journals[j].valid = s.flash.journals[j].valid ∧ (s.writing j).flash.journals[j].data = s.flash.journals[j].data ∧
    (∀ i : Fin 18, i ≠ j → (s.writing j).flash.journals[i] = s.flash.journals[i]) ∧
    (j.val = 0 → ∀ k : Fin 20, ((s.writing j).calOf k.val).carried = (s.calOf k.val).journalling) ∧ (j.val ≠ 0 → (s.writing j).cal = s.cal) := by
  have hbegun := (s.clrBit Obj.FLASH.PENDING j).modJournal_self j (fun x => { x with job := some { data := journalData s j }, began := some s.now })
  have hj := j.isLt
  obtain ⟨hflash, hregs⟩ := State.calCarried_flash
    ((s.clrBit Obj.FLASH.PENDING j).modJournal j (fun x => { x with job := some { data := journalData s j }, began := some s.now })) j
  rw [State.writing, State.bit, State.u_of_regs hregs, hflash, hbegun]
  refine ⟨State.bit_putBit_self s _ _ _ (by simp only [Obj.FLASH.PENDING]; omega), ((regsKept.refl s _).put List.mem_cons_self _).of_regs hregs, rfl, rfl, rfl,
    rfl, fun i hi => State.modJournal_other _ _ _ _ hi, fun h0 k => ?_, fun h0 => ?_⟩
  · obtain rfl : j = 0 := Fin.ext h0
    rw [State.calCarried, if_pos rfl, State.calOf_eq, State.calOf_eq]
    simp [State.modJournal]
    rfl
  · rw [State.calCarried, if_neg fun e => h0 (by rw [e]; rfl)]
    rfl

/-! ## What the journals carry (R495, R498) -/

theorem provedTrim_running {k : Nat} {b : List Byte} (hr : (s.calOf (trimTarget k)).running = true) (hs : (s.calOf (trimTarget k)).saved = [(k, b)]) :
    provedTrim s k = b := by
  simp [provedTrim, hr, hs]

theorem provedTrim_standing {k : Nat} (hr : (s.calOf (trimTarget k)).running = false) (hn : (s.calOf (trimTarget k)).newTrims = []) :
    provedTrim s k = s.blob k := by
  simp [provedTrim, hr, hn]

theorem nextPlace_eq (j : Fin 18) (x : JournalPart) : (j.val ≠ 1 → nextPlace j x = (1 - x.slot, x.position)) ∧
    (j.val = 1 → x.position < 15 → nextPlace j x = (x.slot, x.position + 1)) ∧ (j.val = 1 → 15 ≤ x.position → nextPlace j x = (1 - x.slot, 0)) :=
  ⟨fun h => if_neg h, fun h hp => (if_pos h).trans (if_pos hp), fun h hp => (if_pos h).trans (if_neg (by omega))⟩

/-! ## The steps of a write (R497, R500) -/

section
variable {w : WriteJob} {ok : Bool}

theorem flashEnd_idle (h : s.flash.journals[j].job = none) : s.flashEnd j ok = s := by rw [State.flashEnd, h]

theorem flashEnd_held (h : s.flash.journals[j].job = some w) (hw : w.held = true) : s.flashEnd j ok = s := by
  rw [State.flashEnd, h]
  exact if_pos hw

variable (h : s.flash.journals[j].job = some w) (hw : w.held = false)
include h hw

theorem flashEnd_erased (h0 : w.step = 0) : s.flashEnd j ok = (s.countErase j).modJournal j (fun x =>
    { x with job := some { w with step := 1, held := writeBlocked (s.countErase j) } }) := by
  rw [State.flashEnd, h]
  simp only [hw, h0]
  rfl

theorem flashEnd_written (h1 : w.step = 1) : s.flashEnd j ok = s.modJournal j (fun x =>
    { x with job := some { w with step := 2, held := writeBlocked s } }) := by
  rw [State.flashEnd, h]
  simp only [hw, h1]
  rfl

theorem flashEnd_verified (h2 : w.step = 2) : s.flashEnd j true = s.modJournal j (fun x =>
    { x with job := some { w with step := 3, held := writeBlocked s } }) := by
  rw [State.flashEnd, h]
  simp only [hw, h2]
  rfl

theorem flashEnd_again (h2 : w.step = 2) (ha : w.again = false) : s.flashEnd j false = s.modJournal j (fun x =>
    { x with job := some { w with step := 0, again := true, held := writeBlocked s } }) := by
  rw [State.flashEnd, h]
  simp only [hw, h2, ha]
  rfl

/-- The event of a journal whose second verify has failed. -/
def flashFault (s : State) (j : Fin 18) : Ev :=
  { cls := 5, sub := 25, inst := j, index := 0x7900, osub := 1, bit := 2, detail := s.u Obj.FLASH.FLAGS }

theorem flashEnd_fails (h2 : w.step = 2) (ha : w.again = true) : s.flashEnd j false =
    ((s.modJournal j (fun x => { x with job := none })).setBit Obj.FLASH.FLAGS Bit.FLASH.FLAGS.FLASH_FAULT).log (flashFault s j) := by
  rw [State.flashEnd, h]
  simp only [hw, h2, ha, flashFault]
  rfl

theorem flashEnd_commits (h3 : 2 < w.step) : s.flashEnd j ok = s.commitJournal j w := by
  obtain ⟨n, hn⟩ := Nat.exists_eq_add_of_lt h3
  have hstep : w.step = n + 3 := by omega
  rw [State.flashEnd, h]
  simp only [hw, hstep]
  rfl

end

/-! ## Erases (R495) -/

theorem State.countErase_counts (s : State) (j : Fin 18) (he : s.flash.journals[j].erases.getD (nextPlace j s.flash.journals[j]).1 0 + 1 < 2 ^ 32)
    (hm : s.u Obj.FLASH.ERASE_MAX < 2 ^ 32) :
    (s.countErase j).u Obj.FLASH.ERASE_MAX = max (s.u Obj.FLASH.ERASE_MAX) (s.flash.journals[j].erases.getD (nextPlace j s.flash.journals[j]).1 0 + 1) ∧
    (s.countErase j).bit Obj.FLASH.FLAGS Bit.FLASH.FLAGS.WEAR_ALERT = decide (80000 < (s.countErase j).u Obj.FLASH.ERASE_MAX) ∧
    writeBlocked (s.countErase j) = s.bit Obj.FLASH.FLAGS Bit.FLASH.FLAGS.WRITE_BLOCKED := by
  have hmax : max (s.u Obj.FLASH.ERASE_MAX) (s.flash.journals[j].erases.getD (nextPlace j s.flash.journals[j]).1 0 + 1) < 2 ^ Obj.FLASH.ERASE_MAX.width :=
    max_lt hm he
  rw [State.countErase]
  generalize s.flash.journals[j].erases.getD (nextPlace j s.flash.journals[j]).1 0 + 1 = n at *
  have hput := State.u_put_of_lt (s.modJournal j (fun x => { x with erases := x.erases.set (nextPlace j s.flash.journals[j]).1 n })) _ _ hmax
  refine ⟨?_, ?_, ?_⟩
  · rw [State.putBit, State.u_put_ne _ _ _ _ (by decide), hput]
  · refine (State.bit_putBit_self _ _ _ _ (by decide)).trans ?_
    rw [State.putBit, State.u_put_ne _ Obj.FLASH.FLAGS Obj.FLASH.ERASE_MAX _ (by decide)]
  · rw [writeBlocked, State.bit_putBit _ _ _ _ _ (by decide), if_neg (by decide), State.bit_put_ne _ _ _ _ _ (by decide)]
    rfl

/-! ## The commit (R496, R498) -/

/-- A run whose result stands in the flash. -/
def CalRun.stored (c : CalRun) : CalRun := { c with journalling := false, carried := false }

def State.calStored (t : State) (k : Nat) : State :=
  (((t.modCal k CalRun.stored).put (Obj.CAL_TARGET.RESULT k) 0).put (Obj.CAL_TARGET.DONE k)
    (epochVal (t.now * 256))).put (Obj.CAL_TARGET.PHASE k) 0

/-- One calibration at the commit of journal 0. -/
def State.calProved (t : State) (k : Nat) : State :=
  if (t.calOf k).carried then (t.calStored k).put (Obj.CAL_TARGET.TEMP k) ((t.calStored k).u Obj.HEALTH.T_ANALOGUE) else t

theorem State.calCommitted_eq (s : State) : s.calCommitted = (List.range 20).foldl State.calProved s := rfl

/-- The registers of a calibration's record. -/
def calTargetReg (k : Nat) : Bool := decide (0x7810 ≤ k / 256) && decide (k / 256 < 0x7824)

/-- What the end of calibrations may change: their runs and their records. -/
def calScope : Scope where
  blank s := { s with regs := [], cal := Vector.replicate 20 {} }
  regs := calTargetReg
  blind _ _ := rfl

theorem calTargetReg_key (k : Nat) (hk : k < 20) (b : Nat) (hb : b < 256) : calTargetReg ((0x7810 + k) * 256 + b) = true := by
  have hidx : ((0x7810 + k) * 256 + b) / 256 = 0x7810 + k := by omega
  simp [calTargetReg, hidx]
  omega

theorem State.calProved_within {t : State} (h : Within calScope s t) (k : Nat) (hk : k < 20) : Within calScope s (t.calProved k) := by
  refine Within.ite (fun _ => ?_) fun _ => h
  have hpart : Within calScope s (t.modCal k CalRun.stored) := h.trans (.part rfl rfl)
  exact (((hpart.put (r := Obj.CAL_TARGET.RESULT k) (calTargetReg_key k hk 2 (by decide)) _).put (r := Obj.CAL_TARGET.DONE k)
    (calTargetReg_key k hk 5 (by decide)) _).put (r := Obj.CAL_TARGET.PHASE k) (calTargetReg_key k hk 9 (by decide)) _).put
    (r := Obj.CAL_TARGET.TEMP k) (calTargetReg_key k hk 8 (by decide)) _

theorem State.calCommitted_within (s : State) : Within calScope s s.calCommitted := by
  rw [State.calCommitted_eq]
  have hall : ∀ (l : List Nat) (t : State), (∀ k ∈ l, k < 20) → Within calScope s t → Within calScope s (l.foldl State.calProved t) := by
    intro l
    induction l with
    | nil => exact fun _ _ h => h
    | cons k l ih => exact fun t hl h => ih _ (fun x hx => hl x (List.mem_cons_of_mem _ hx)) (State.calProved_within h k (hl k List.mem_cons_self))
  exact hall _ _ (fun k hk => List.mem_range.mp hk) (.refl _ _)

theorem State.calProved_other (t : State) (j k : Nat) (h : j ≠ k) : (t.calProved k).calOf j = t.calOf j ∧
    (t.calProved k).u (Obj.CAL_TARGET.RESULT j) = t.u (Obj.CAL_TARGET.RESULT j) := by
  rw [State.calProved]
  split
  · refine ⟨State.calOf_modCal_other t j k CalRun.stored h, ?_⟩
    rw [State.u_put_ne _ _ _ _ (by simp only [Obj.CAL_TARGET.TEMP, Obj.CAL_TARGET.RESULT]; omega), State.calStored,
      State.u_put_ne _ _ _ _ (by simp only [Obj.CAL_TARGET.PHASE, Obj.CAL_TARGET.RESULT]; omega),
      State.u_put_ne _ _ _ _ (by simp only [Obj.CAL_TARGET.DONE, Obj.CAL_TARGET.RESULT]; omega),
      State.u_put_ne _ _ _ _ (by simp only [Obj.CAL_TARGET.RESULT]; omega)]
    rfl
  · exact ⟨rfl, rfl⟩

theorem State.calProved_self (t : State) (k : Fin 20) : ((t.calOf k.val).carried = true →
      (t.calProved k.val).u (Obj.CAL_TARGET.RESULT k.val) = 0 ∧ ((t.calProved k.val).calOf k.val).journalling = false) ∧
    ((t.calOf k.val).carried = false → t.calProved k.val = t) := by
  refine ⟨fun h => ?_, fun h => if_neg (by simp [h])⟩
  rw [State.calProved, if_pos h]
  refine ⟨?_, congrArg CalRun.journalling (t.calOf_modCal_self k CalRun.stored)⟩
  rw [State.u_put_ne _ _ _ _ (by simp only [Obj.CAL_TARGET.TEMP, Obj.CAL_TARGET.RESULT]; omega), State.calStored,
    State.u_put_ne _ _ _ _ (by simp only [Obj.CAL_TARGET.PHASE, Obj.CAL_TARGET.RESULT]; omega),
    State.u_put_ne _ _ _ _ (by simp only [Obj.CAL_TARGET.DONE, Obj.CAL_TARGET.RESULT]; omega), State.u_put_self]
  rfl

theorem State.calCommitted_cal (s : State) (k : Fin 20) : ((s.calOf k.val).carried = true →
      s.calCommitted.u (Obj.CAL_TARGET.RESULT k.val) = 0 ∧ (s.calCommitted.calOf k.val).journalling = false) ∧
    ((s.calOf k.val).carried = false → s.calCommitted.calOf k.val = s.calOf k.val) := by
  have hturn : ∀ Q : State → Prop, (∀ t : State, t.calOf k.val = s.calOf k.val → Q (t.calProved k.val)) →
      (∀ t b, b ≠ k.val → Q t → Q (State.calProved t b)) → Q s.calCommitted := fun Q hk hother => by
    rw [State.calCommitted_eq]
    exact foldl_turn (P := fun t => t.calOf k.val = s.calOf k.val) List.nodup_range (List.mem_range.mpr k.isLt)
      (fun t b hb ht => (t.calProved_other k.val b hb.symm).1.trans ht) hk hother s rfl
  refine ⟨fun hc => hturn (fun t => t.u (Obj.CAL_TARGET.RESULT k.val) = 0 ∧ (t.calOf k.val).journalling = false)
    (fun t ht => (t.calProved_self k).1 (by rw [ht]; exact hc)) fun t b hb hq => ?_,
    fun hc => hturn (fun t => t.calOf k.val = s.calOf k.val) (fun t ht => ?_) fun t b hb hq => (t.calProved_other k.val b hb.symm).1.trans hq⟩
  · obtain ⟨hcal, hres⟩ := t.calProved_other k.val b hb.symm
    rw [hcal, hres]
    exact hq
  · rw [(t.calProved_self k).2 (by rw [ht]; exact hc)]
    exact ht

/-- The parts of State outside the calibrations' scope. -/
theorem calScope_parts {t : State} (h : Within calScope s t) : t.flash = s.flash ∧ t.out = s.out ∧ t.mem = s.mem ∧ t.boot = s.boot :=
  ⟨congrArg (fun v => v.flash) h.parts, congrArg (fun v => v.out) h.parts, congrArg (fun v => v.mem) h.parts, congrArg (fun v => v.boot) h.parts⟩

/-- A journal whose write is committed (R496, R497). -/
def JournalPart.committed (x : JournalPart) (j : Fin 18) (w : WriteJob) : JournalPart :=
  { x with valid := true, seq := x.seq + 1, slot := (nextPlace j x).1, position := (nextPlace j x).2, data := w.data, job := none }

/-- The commit word of a journal's write, before what is its own of journals 0 and 1. -/
def State.committed (s : State) (j : Fin 18) (w : WriteJob) : State :=
  ((s.modJournal j (fun _ => s.flash.journals[j].committed j w)).bump Obj.FLASH.WRITES).put Obj.FLASH.LAST_WRITE (epochVal (s.now * 256))

/-- The state in which journal 0 tells its SEQ, before the calibrations it carries are done. -/
def State.calSeq (t : State) (w : WriteJob) (q : Nat) : State :=
  ({ t with clk := { t.clk with trimSaved := toSigned 32 (rf w.data.regs trimKey 0) } }).put Obj.FLASH.CAL_SEQ q

/-- What the commit of journals 0 and 1 tells, and whose calibrations it ends. -/
def State.tellSeq (t : State) (j : Fin 18) (w : WriteJob) (q : Nat) : State :=
  if j.val = 0 then (t.calSeq w q).calCommitted else if j.val = 1 then t.put Obj.FLASH.LEDGER_SEQ q else t

theorem commitJournal_eq (s : State) (j : Fin 18) (w : WriteJob) :
    s.commitJournal j w = (s.committed j w).tellSeq j w (s.flash.journals[j].seq + 1).toNat := by
  rw [State.commitJournal, State.tellSeq]
  split
  · next h => rw [if_pos h]; rfl
  · next h => rw [if_neg (by omega), if_pos h]; rfl
  · next h0 h1 => rw [if_neg h0, if_neg h1]; rfl

theorem State.committed_journal (s : State) (j : Fin 18) (w : WriteJob) :
    (s.committed j w).flash.journals[j] = s.flash.journals[j].committed j w := State.modJournal_self s j (fun _ => s.flash.journals[j].committed j w)

theorem State.committed_other (s : State) (i j : Fin 18) (w : WriteJob) (h : i ≠ j) : (s.committed j w).flash.journals[i] = s.flash.journals[i] :=
  State.modJournal_other s i j (fun _ => s.flash.journals[j].committed j w) h

theorem State.committed_writes (s : State) (j : Fin 18) (w : WriteJob) :
    (s.committed j w).u Obj.FLASH.WRITES = (s.bump Obj.FLASH.WRITES).u Obj.FLASH.WRITES :=
  (State.u_put_ne _ _ _ _ (by decide)).trans ((State.u_put_self _ _ _).trans (State.u_put_self _ _ _).symm)

theorem State.committed_parts (s : State) (j : Fin 18) (w : WriteJob) :
    (s.committed j w).out = s.out ∧ (s.committed j w).mem = s.mem ∧ (s.committed j w).boot = s.boot := ⟨rfl, rfl, rfl⟩

theorem State.calSeq_parts {t v : State} {w : WriteJob} {q : Nat} (h : Within calScope (t.calSeq w q) v) :
    v.flash = t.flash ∧ v.out = t.out ∧ v.mem = t.mem ∧ v.boot = t.boot ∧ v.u Obj.FLASH.WRITES = t.u Obj.FLASH.WRITES := by
  obtain ⟨hflash, hout, hmem, hboot⟩ := calScope_parts h
  exact ⟨hflash, hout, hmem, hboot, (h.reads Obj.FLASH.WRITES (by decide)).trans (State.u_put_ne _ _ _ _ (by decide))⟩

/-- What the telling of SEQ leaves. -/
theorem State.tellSeq_parts (t : State) (j : Fin 18) (w : WriteJob) (q : Nat) : (t.tellSeq j w q).flash = t.flash ∧ (t.tellSeq j w q).out = t.out ∧
    (t.tellSeq j w q).mem = t.mem ∧ (t.tellSeq j w q).boot = t.boot ∧ (t.tellSeq j w q).u Obj.FLASH.WRITES = t.u Obj.FLASH.WRITES := by
  rw [State.tellSeq]
  by_cases h0 : j.val = 0
  · rw [if_pos h0]
    exact State.calSeq_parts (State.calCommitted_within _)
  rw [if_neg h0]
  by_cases h1 : j.val = 1
  · rw [if_pos h1]
    exact ⟨rfl, rfl, rfl, rfl, State.u_put_ne _ _ _ _ (by decide)⟩
  · rw [if_neg h1]
    exact ⟨rfl, rfl, rfl, rfl, rfl⟩

theorem State.tellSeq_tells (t : State) (j : Fin 18) (w : WriteJob) (q : Nat) (hq : q < 2 ^ 32) :
    (j.val = 1 → (t.tellSeq j w q).u Obj.FLASH.LEDGER_SEQ = q) ∧ (j.val = 0 → (t.tellSeq j w q).u Obj.FLASH.CAL_SEQ = q) := by
  refine ⟨fun h1 => ?_, fun h0 => ?_⟩
  · rw [State.tellSeq, if_neg (by omega), if_pos h1]
    exact State.u_put_of_lt _ _ _ hq
  · rw [State.tellSeq, if_pos h0]
    exact ((State.calCommitted_within _).reads Obj.FLASH.CAL_SEQ (by decide)).trans (State.u_put_of_lt _ _ _ hq)

theorem State.tellSeq_cal (t : State) (j : Fin 18) (w : WriteJob) (q : Nat) (h0 : j.val = 0) (k : Fin 20) :
    ((t.calOf k.val).carried = true →
      (t.tellSeq j w q).u (Obj.CAL_TARGET.RESULT k.val) = 0 ∧ ((t.tellSeq j w q).calOf k.val).journalling = false) ∧
    ((t.calOf k.val).carried = false → (t.tellSeq j w q).calOf k.val = t.calOf k.val) := by
  rw [State.tellSeq, if_pos h0]
  exact State.calCommitted_cal (t.calSeq w q) k

theorem flashEnd_committed {w : WriteJob} {ok : Bool} (h : s.flash.journals[j].job = some w) (hw : w.held = false) (h3 : w.step = 3) :
    ∃ t : State, s.flashEnd j ok = t ∧ t.flash.journals[j].valid = true ∧ t.flash.journals[j].seq = s.flash.journals[j].seq + 1 ∧
      t.flash.journals[j].data = w.data ∧ t.flash.journals[j].job = none ∧
      (t.flash.journals[j].slot, t.flash.journals[j].position) = nextPlace j s.flash.journals[j] ∧
      (s.u Obj.FLASH.WRITES + 1 < 2 ^ 32 → t.u Obj.FLASH.WRITES = s.u Obj.FLASH.WRITES + 1) ∧
      (j.val = 1 → t.u Obj.FLASH.LEDGER_SEQ = (s.flash.journals[j].seq + 1).toNat) ∧ (j.val = 0 → t.u Obj.FLASH.CAL_SEQ = (s.flash.journals[j].seq + 1).toNat) ∧
      (j.val = 0 → ∀ k : Fin 20, ((s.calOf k.val).carried = true → t.u (Obj.CAL_TARGET.RESULT k.val) = 0 ∧ (t.calOf k.val).journalling = false) ∧
        ((s.calOf k.val).carried = false → t.calOf k.val = s.calOf k.val)) ∧
      (∀ i : Fin 18, i ≠ j → t.flash.journals[i] = s.flash.journals[i]) ∧ t.out = s.out ∧ t.mem = s.mem := by
  obtain ⟨hflash, hout, hmem, -, hwrites⟩ := (s.committed j w).tellSeq_parts j w (s.flash.journals[j].seq + 1).toNat
  obtain ⟨hledger, hcal⟩ := (s.committed j w).tellSeq_tells j w _ (BitVec.isLt (s.flash.journals[j].seq + 1))
  obtain ⟨hout', hmem', -⟩ := s.committed_parts j w
  have hends := (s.committed j w).tellSeq_cal j w (s.flash.journals[j].seq + 1).toNat
  have hcalOf : ∀ k, (s.committed j w).calOf k = s.calOf k := fun _ => rfl
  have hother := fun i hi => s.committed_other i j w hi
  have hjournal := s.committed_journal j w
  have hroom : s.u Obj.FLASH.WRITES + 1 < 2 ^ 32 → (s.committed j w).u Obj.FLASH.WRITES = s.u Obj.FLASH.WRITES + 1 :=
    fun h => (s.committed_writes j w).trans (State.u_bump_self _ _ h)
  have hexec := (flashEnd_commits (ok := ok) h hw (by omega)).trans (commitJournal_eq s j w)
  refine ⟨_, hexec, ?_⟩
  generalize s.committed j w = c at *
  generalize c.tellSeq j w (s.flash.journals[j].seq + 1).toNat = t at *
  simp only [hcalOf] at hends
  rw [hflash, hjournal]
  exact ⟨rfl, rfl, rfl, rfl, rfl, fun h => hwrites.trans (hroom h), hledger, hcal, hends, hother, hout.trans hout', hmem.trans hmem'⟩

/-! ## Early warning (R500, R518) -/

/-- What one journal's erase may be abandoned to: nothing of another journal changes, and of the registers ABANDONED alone. -/
theorem State.abandonErase_other (t : State) (i k : Fin 18) (h : i ≠ k) : (t.abandonErase k).flash.journals[i] = t.flash.journals[i] := by
  rw [State.abandonErase]
  split
  · split
    · exact State.modJournal_other _ _ _ _ h
    · rfl
  · rfl

theorem State.abandonErase_erasing (t : State) (w : WriteJob) (h : t.flash.journals[j].job = some w) (h0 : w.step = 0) (hw : w.held = false) :
    (t.abandonErase j).flash.journals[j].job = some { w with held := true } := by
  rw [State.abandonErase, h]
  simp only [h0, hw, Bool.not_false, and_self, if_true]
  exact congrArg JournalPart.job (State.modJournal_self _ _ _)

theorem State.abandonErase_later (t : State) (w : WriteJob) (h : t.flash.journals[j].job = some w) (h0 : w.step ≠ 0) : t.abandonErase j = t := by
  rw [State.abandonErase, h]
  exact if_neg fun hc => h0 hc.1

/-- What early warning and its end may change: the flash, the day book's cells, and the registers of the flash and of the rails. -/
def warnScope : Scope where
  blank s := { s with regs := [], flash := {}, book := {} }
  regs k := k == Obj.FLASH.ABANDONED.key
  blind _ _ := rfl

theorem State.abandonErase_within {t : State} (h : Within warnScope s t) (k : Fin 18) : Within warnScope s (t.abandonErase k) := by
  rw [State.abandonErase]
  split
  · refine Within.ite (fun _ => ?_) fun _ => h
    exact (h.bump (r := Obj.FLASH.ABANDONED) rfl).trans (.part rfl rfl)
  · exact h

/-- The state of a device whose writes early warning has just stopped. -/
def State.warned (s : State) (rails : BitVec 32) : State :=
  ((((s.put Obj.HEALTH.RAIL_UV (s.u Obj.HEALTH.RAIL_UV ||| railMask rails)).setBit Obj.HEALTH.FLAGS Bit.HEALTH.FLAGS.UV).setBit
    Obj.FLASH.FLAGS Bit.FLASH.FLAGS.WRITE_BLOCKED).setBit Obj.HEALTH.FLAGS Bit.HEALTH.FLAGS.EARLY_WARN).bump Obj.FLASH.WARNINGS

theorem State.warned_regs (s : State) (rails : BitVec 32) (hroom : s.u Obj.FLASH.WARNINGS + 1 < 2 ^ 32) :
    (s.warned rails).bit Obj.FLASH.FLAGS Bit.FLASH.FLAGS.WRITE_BLOCKED = true ∧
    (s.warned rails).bit Obj.HEALTH.FLAGS Bit.HEALTH.FLAGS.EARLY_WARN = true ∧ (s.warned rails).bit Obj.HEALTH.FLAGS Bit.HEALTH.FLAGS.UV = true ∧
    (s.warned rails).u Obj.FLASH.WARNINGS = s.u Obj.FLASH.WARNINGS + 1 ∧
    (∀ b : Fin 8, rails.getLsbD b.val = true → (s.warned rails).bit Obj.HEALTH.RAIL_UV b.val = true) := by
  have hflag : ∀ (r : Reg) (b : Nat), r.key ≠ Obj.FLASH.WARNINGS.key → (s.warned rails).bit r b =
      ((((s.put Obj.HEALTH.RAIL_UV (s.u Obj.HEALTH.RAIL_UV ||| railMask rails)).setBit Obj.HEALTH.FLAGS Bit.HEALTH.FLAGS.UV).setBit
        Obj.FLASH.FLAGS Bit.FLASH.FLAGS.WRITE_BLOCKED).setBit Obj.HEALTH.FLAGS Bit.HEALTH.FLAGS.EARLY_WARN).bit r b :=
    fun r b hr => State.bit_put_ne _ _ _ _ _ hr.symm
  refine ⟨?_, ?_, ?_, ?_, fun b hb => ?_⟩
  · rw [hflag _ _ (by decide), State.setBit_eq, State.putBit, State.bit_put_ne _ _ _ _ _ (by decide)]
    exact State.bit_putBit_self _ _ _ _ (by decide)
  · rw [hflag _ _ (by decide)]
    exact State.bit_putBit_self _ _ _ _ (by decide)
  · rw [hflag _ _ (by decide), State.setBit_eq, State.bit_putBit _ _ _ _ _ (by decide), if_neg (by decide), State.setBit_eq, State.putBit,
      State.bit_put_ne _ _ _ _ _ (by decide)]
    exact State.bit_putBit_self _ _ _ _ (by decide)
  · rw [State.warned, State.setBit_eq, State.setBit_eq, State.setBit_eq]
    have hkept : ((((s.put Obj.HEALTH.RAIL_UV (s.u Obj.HEALTH.RAIL_UV ||| railMask rails)).putBit Obj.HEALTH.FLAGS Bit.HEALTH.FLAGS.UV true).putBit
        Obj.FLASH.FLAGS Bit.FLASH.FLAGS.WRITE_BLOCKED true).putBit Obj.HEALTH.FLAGS Bit.HEALTH.FLAGS.EARLY_WARN true).u Obj.FLASH.WARNINGS =
        s.u Obj.FLASH.WARNINGS := by
      simp only [State.putBit]
      rw [State.u_put_ne _ _ _ _ (by decide), State.u_put_ne _ _ _ _ (by decide), State.u_put_ne _ _ _ _ (by decide), State.u_put_ne _ _ _ _ (by decide)]
    rw [State.u_bump_self _ _ (by rw [hkept]; exact hroom), hkept]
  · have hb8 := b.isLt
    rw [hflag _ _ (by decide)]
    simp only [State.setBit_eq, State.putBit]
    rw [State.bit_put_ne _ _ _ _ _ (by decide), State.bit_put_ne _ _ _ _ _ (by decide), State.bit_put_ne _ _ _ _ _ (by decide), State.bit, State.u_put_self,
      Nat.testBit_mod_two_pow, decide_eq_true (show b.val < Obj.HEALTH.RAIL_UV.width by simp only [Obj.HEALTH.RAIL_UV]; omega), Bool.true_and,
      Nat.testBit_or, railMask, show (256 : Nat) = 2 ^ 8 by rfl, Nat.testBit_mod_two_pow, decide_eq_true hb8, Bool.true_and]
    exact (congrArg (_ || ·) hb).trans (Bool.or_true _)

end

end Sys2Proof.Machine
end

section
/-! SUPPORT. The end of a flash operation, early warning and its end (R497, R500, R514, R518), and the statement on the journals. -/

namespace Sys2Proof.Machine

section
variable {s : State} {j : Fin 18}

/-! ## What the end of a flash operation leaves -/

theorem State.countErase_other (s : State) (i j : Fin 18) (h : i ≠ j) : (s.countErase j).flash.journals[i] = s.flash.journals[i] := by
  rw [State.countErase]
  generalize (nextPlace j s.flash.journals[j]).1 = n
  exact s.modJournal_other i j (fun x => { x with erases := x.erases.set n (s.flash.journals[j].erases.getD n 0 + 1) }) h

/-- The end of a flash operation touches the firmware banks never, and one journal only. -/
theorem flashEnd_leaves (s : State) (j : Fin 18) (ok : Bool) : (s.flashEnd j ok).boot = s.boot ∧
    ∀ i : Fin 18, i ≠ j → (s.flashEnd j ok).flash.journals[i] = s.flash.journals[i] := by
  have hmod : ∀ (t : State) f, (t.modJournal j f).boot = t.boot ∧ ∀ i : Fin 18, i ≠ j → (t.modJournal j f).flash.journals[i] = t.flash.journals[i] :=
    fun t f => ⟨rfl, fun i hi => t.modJournal_other i j f hi⟩
  cases h : s.flash.journals[j].job with
  | none => rw [flashEnd_idle h]; exact ⟨rfl, fun _ _ => rfl⟩
  | some w =>
    cases hw : w.held with
    | true => rw [flashEnd_held h hw]; exact ⟨rfl, fun _ _ => rfl⟩
    | false =>
      obtain h0 | h1 | h2 | h3 : w.step = 0 ∨ w.step = 1 ∨ w.step = 2 ∨ 2 < w.step := by omega
      · rw [flashEnd_erased h hw h0]
        exact ⟨rfl, fun i hi => (State.modJournal_other _ i j _ hi).trans (s.countErase_other i j hi)⟩
      · rw [flashEnd_written h hw h1]
        exact hmod s _
      · cases ok with
        | true => rw [flashEnd_verified h hw h2]; exact hmod s _
        | false =>
          cases ha : w.again with
          | false => rw [flashEnd_again h hw h2 ha]; exact hmod s _
          | true =>
            obtain ⟨hboot, hother⟩ := hmod s (fun x => { x with job := none })
            rw [flashEnd_fails h hw h2 ha, State.log_boot, State.log_flash]
            exact ⟨hboot, hother⟩
      · obtain ⟨hflash, -, -, hboot, -⟩ := (s.committed j w).tellSeq_parts j w (s.flash.journals[j].seq + 1).toNat
        obtain ⟨-, -, hboot'⟩ := s.committed_parts j w
        rw [flashEnd_commits h hw h3, commitJournal_eq, hflash, hboot]
        exact ⟨hboot', fun i hi => s.committed_other i j w hi⟩

theorem flashOperationEnd_stays (s : State) (j : Fin 18) (ok : Bool) (h : s.boot.switching = false ∨ ∃ i : Fin 18, i ≠ j ∧ s.flash.journals[i].job ≠ none) :
    exec (.flashOperationEnd j ok) s = .next (s.flashEnd j ok) := by
  obtain ⟨hboot, hother⟩ := flashEnd_leaves s j ok
  have hexec : exec (.flashOperationEnd j ok) s = .next (s.flashEnd j ok).switchCheck := rfl
  generalize s.flashEnd j ok = t at *
  refine hexec.trans (congrArg Host.Outcome.next (if_neg ?_))
  rintro ⟨hswitch, hall⟩
  rcases h with h | ⟨i, hi, hjob⟩
  · rw [hboot, h] at hswitch
    cases hswitch
  · have hidle := List.all_eq_true.mp hall t.flash.journals[i] (by simp)
    rw [hother i hi, Option.isNone_iff_eq_none] at hidle
    exact hjob hidle

/-- A second verify that fails ends the write and tells FLASH_FAULT. -/
theorem flashEnd_faults {w : WriteJob} (h : s.flash.journals[j].job = some w) (hw : w.held = false) (h2 : w.step = 2) (ha : w.again = true) :
    ∃ (t : State) (e : Ev), s.flashEnd j false = t.log e ∧ e.cls = 5 ∧ e.sub = 25 ∧ t.flash.journals[j].job = none ∧
      t.bit Obj.FLASH.FLAGS Bit.FLASH.FLAGS.FLASH_FAULT = true ∧ t.flash.journals[j].data = s.flash.journals[j].data := by
  have hend := s.modJournal_self j (fun x => { x with job := none })
  have hjob := congrArg JournalPart.job hend
  have hdata := congrArg JournalPart.data hend
  exact ⟨_, _, flashEnd_fails h hw h2 ha, rfl, rfl, hjob, State.bit_putBit_self _ _ _ _ (by decide), hdata⟩

/-! ## Early warning -/

theorem earlyWarn_warned {rails : BitVec 32} (h : s.bit Obj.HEALTH.FLAGS Bit.HEALTH.FLAGS.EARLY_WARN = false) :
    exec (.earlyWarn rails) s = .next (overAll (s.warned rails) State.abandonErase) :=
  congrArg Host.Outcome.next (if_neg (Bool.eq_false_iff.mp h))

theorem abandoned_erasing {w : WriteJob} (h : s.flash.journals[j].job = some w) (h0 : w.step = 0) (hw : w.held = false) :
    (overAll s State.abandonErase).flash.journals[j].job = some { w with held := true } :=
  overAll_turn (P := fun t => t.flash.journals[j].job = some w) (Q := fun t => t.flash.journals[j].job = some { w with held := true }) j
    (fun t b hb ht => by rw [t.abandonErase_other j b hb.symm]; exact ht) (fun t ht => t.abandonErase_erasing w ht h0 hw)
    (fun t b hb ht => by rw [t.abandonErase_other j b hb.symm]; exact ht) s h

theorem abandoned_later {w : WriteJob} (h : s.flash.journals[j].job = some w) (h0 : w.step ≠ 0) :
    (overAll s State.abandonErase).flash.journals[j] = s.flash.journals[j] := by
  refine overAll_induct (P := fun t => t.flash.journals[j] = s.flash.journals[j]) (fun t b ht => ?_) s rfl
  by_cases hb : b = j
  · subst hb
    rw [t.abandonErase_later w (by rw [ht]; exact h) h0]
    exact ht
  · rw [t.abandonErase_other j b (Ne.symm hb)]
    exact ht

/-! ## The end of early warning -/

theorem State.resumeWrite_other (t : State) (i k : Fin 18) (h : i ≠ k) : (t.resumeWrite k).flash.journals[i] = t.flash.journals[i] := by
  rw [State.resumeWrite]
  split
  · split
    · exact State.modJournal_other _ _ _ _ h
    · rfl
  · rfl

theorem State.resumeWrite_held (t : State) {w : WriteJob} (h : t.flash.journals[j].job = some w) (hw : w.held = true) :
    (t.resumeWrite j).flash.journals[j].job = some { w with held := false, step := 0 } := by
  rw [State.resumeWrite, h]
  simp only [hw, if_true]
  exact congrArg JournalPart.job (State.modJournal_self _ _ _)

theorem State.resumeWrite_kept (t : State) (h : ∀ w : WriteJob, t.flash.journals[j].job = some w → w.held = false) : t.resumeWrite j = t := by
  rw [State.resumeWrite]
  split
  · next w hjob => exact if_neg (Bool.eq_false_iff.mp (h w hjob))
  · rfl

theorem resumed_held {w : WriteJob} (h : s.flash.journals[j].job = some w) (hw : w.held = true) :
    (overAll s State.resumeWrite).flash.journals[j].job = some { w with held := false, step := 0 } :=
  overAll_turn (P := fun t => t.flash.journals[j].job = some w) (Q := fun t => t.flash.journals[j].job = some { w with held := false, step := 0 }) j
    (fun t b hb ht => by rw [t.resumeWrite_other j b hb.symm]; exact ht) (fun t ht => t.resumeWrite_held ht hw)
    (fun t b hb ht => by rw [t.resumeWrite_other j b hb.symm]; exact ht) s h

theorem resumed_kept (h : ∀ w : WriteJob, s.flash.journals[j].job = some w → w.held = false) :
    (overAll s State.resumeWrite).flash.journals[j] = s.flash.journals[j] := by
  refine overAll_induct (P := fun t => t.flash.journals[j] = s.flash.journals[j]) (fun t b ht => ?_) s rfl
  by_cases hb : b = j
  · subst hb
    rw [t.resumeWrite_kept (by rw [ht]; exact h)]
    exact ht
  · rw [t.resumeWrite_other j b (Ne.symm hb)]
    exact ht

/-- The flash alone changes where writes go on. -/
def flashScope : Scope where
  blank s := { s with regs := [], flash := {} }
  regs _ := false
  blind _ _ := rfl

theorem resumed_within (s : State) : Within flashScope s (overAll s State.resumeWrite) := by
  refine (Within.refl flashScope s).overAll fun v k hv => ?_
  rw [State.resumeWrite]
  split
  · exact Within.ite (fun _ => hv.trans (.part rfl rfl)) fun _ => hv
  · exact hv

theorem flashScope_parts {t : State} (h : Within flashScope s t) : t.book = s.book ∧ t.mem = s.mem :=
  ⟨congrArg (fun v => v.book) h.parts, congrArg (fun v => v.mem) h.parts⟩

theorem warnScope_mem {t : State} (h : Within warnScope s t) : t.mem = s.mem := congrArg (fun v => v.mem) h.parts

/-- The registers of a device whose rails stand again. -/
def State.railsBack (s : State) : State :=
  (((s.clrBit Obj.FLASH.FLAGS Bit.FLASH.FLAGS.WRITE_BLOCKED).put Obj.HEALTH.RAIL_UV 0).clrBit Obj.HEALTH.FLAGS Bit.HEALTH.FLAGS.UV).clrBit
    Obj.HEALTH.FLAGS Bit.HEALTH.FLAGS.EARLY_WARN

theorem earlyWarnClear_resumes (s : State) : exec .earlyWarnClear s = .next (overAll s.railsBack.flushCells State.resumeWrite) := rfl

theorem State.railsBack_onlyRegs (s : State) : onlyRegs s s.railsBack [Obj.FLASH.FLAGS, Obj.HEALTH.FLAGS, Obj.HEALTH.RAIL_UV] :=
  ((((onlyRegs.refl s _).put (by simp) _).put (by simp) _).put (by simp) _).put (by simp) _

theorem State.railsBack_regs (s : State) : s.railsBack.bit Obj.FLASH.FLAGS Bit.FLASH.FLAGS.WRITE_BLOCKED = false ∧
    s.railsBack.bit Obj.HEALTH.FLAGS Bit.HEALTH.FLAGS.EARLY_WARN = false ∧ s.railsBack.bit Obj.HEALTH.FLAGS Bit.HEALTH.FLAGS.UV = false ∧
    s.railsBack.u Obj.HEALTH.RAIL_UV = 0 := by
  refine ⟨?_, State.bit_putBit_self _ _ _ _ (by decide), ?_, ?_⟩
  · refine (State.bit_put_ne _ _ _ _ _ (by decide)).trans ((State.bit_put_ne _ _ _ _ _ (by decide)).trans ((State.bit_put_ne _ _ _ _ _ (by decide)).trans ?_))
    exact State.bit_putBit_self _ _ _ _ (by decide)
  · refine (State.bit_putBit _ _ _ _ _ (by decide)).trans ((if_neg (by decide)).trans ?_)
    exact State.bit_putBit_self _ _ _ _ (by decide)
  · refine (State.u_put_ne _ _ _ _ (by decide)).trans ((State.u_put_ne _ _ _ _ (by decide)).trans ?_)
    exact State.u_put_self _ _ _

theorem State.flushCells_free (s : State) (h : s.bit Obj.FLASH.FLAGS Bit.FLASH.FLAGS.WRITE_BLOCKED = false) : s.flushCells.book.unjournalled = [] ∧
    s.flushCells.regs = s.regs ∧ s.flushCells.flash = s.flash ∧ s.flushCells.mem = s.mem := by
  rw [State.flushCells]
  split
  · next hc =>
    rw [h] at hc
    exact ⟨by simpa using hc, rfl, rfl, rfl⟩
  · exact ⟨rfl, rfl, rfl, rfl⟩

theorem State.railsBack_parts (s : State) : s.railsBack.flash = s.flash ∧ s.railsBack.mem = s.mem := ⟨rfl, rfl⟩

theorem earlyWarnClear_clears (s : State) : ∃ t : State, exec .earlyWarnClear s = .next t ∧ t.bit Obj.FLASH.FLAGS Bit.FLASH.FLAGS.WRITE_BLOCKED = false ∧
    t.bit Obj.HEALTH.FLAGS Bit.HEALTH.FLAGS.EARLY_WARN = false ∧ t.bit Obj.HEALTH.FLAGS Bit.HEALTH.FLAGS.UV = false ∧ t.u Obj.HEALTH.RAIL_UV = 0 ∧
    t.book.unjournalled = [] ∧
    (∀ (j : Fin 18) (w : WriteJob), s.flash.journals[j].job = some w → w.held = true →
      t.flash.journals[j].job = some { w with held := false, step := 0 }) ∧
    (∀ j : Fin 18, (∀ w : WriteJob, s.flash.journals[j].job = some w → w.held = false) → t.flash.journals[j] = s.flash.journals[j]) ∧
    regsKept s t [Obj.FLASH.FLAGS, Obj.HEALTH.FLAGS, Obj.HEALTH.RAIL_UV] ∧ t.mem = s.mem := by
  obtain ⟨hblocked, hwarn, huv, hrail⟩ := s.railsBack_regs
  obtain ⟨-, hkept⟩ := s.railsBack_onlyRegs
  obtain ⟨hflash, hmem⟩ := s.railsBack_parts
  refine ⟨_, earlyWarnClear_resumes s, ?_⟩
  generalize s.railsBack = c at *
  obtain ⟨hbook, hregs', hflash', hmem'⟩ := c.flushCells_free hblocked
  obtain ⟨hbook'', hmem''⟩ := flashScope_parts (resumed_within c.flushCells)
  have hreads : ∀ r : Reg, (overAll c.flushCells State.resumeWrite).u r = c.u r :=
    fun r => ((resumed_within _).reads r rfl).trans (State.u_of_regs hregs' r)
  have hbits : ∀ (r : Reg) (b : Nat), (overAll c.flushCells State.resumeWrite).bit r b = c.bit r b := fun r b => by rw [State.bit, State.bit, hreads]
  have hjournals := hflash'.trans hflash
  refine ⟨(hbits _ _).trans hblocked, (hbits _ _).trans hwarn, (hbits _ _).trans huv, (hreads _).trans hrail, by rw [hbook'', hbook], fun j w h hw => ?_,
    fun j h => ?_, fun r hr => (hreads r).trans (hkept r hr), hmem''.trans (hmem'.trans hmem)⟩
  · exact resumed_held (by rw [hjournals]; exact h) hw
  · exact (resumed_kept (by rw [hjournals]; exact h)).trans (by rw [hjournals])

theorem State.warned_parts (s : State) (rails : BitVec 32) : (s.warned rails).flash = s.flash ∧ (s.warned rails).mem = s.mem := ⟨rfl, rfl⟩

theorem earlyWarn_warns {rails : BitVec 32} (h : s.bit Obj.HEALTH.FLAGS Bit.HEALTH.FLAGS.EARLY_WARN = false) (hroom : s.u Obj.FLASH.WARNINGS + 1 < 2 ^ 32) :
    ∃ t : State, exec (.earlyWarn rails) s = .next t ∧ t.bit Obj.FLASH.FLAGS Bit.FLASH.FLAGS.WRITE_BLOCKED = true ∧
      t.bit Obj.HEALTH.FLAGS Bit.HEALTH.FLAGS.EARLY_WARN = true ∧ t.bit Obj.HEALTH.FLAGS Bit.HEALTH.FLAGS.UV = true ∧
      t.u Obj.FLASH.WARNINGS = s.u Obj.FLASH.WARNINGS + 1 ∧
      (∀ b : Fin 8, rails.getLsbD b.val = true → t.bit Obj.HEALTH.RAIL_UV b.val = true) ∧
      (∀ (j : Fin 18) (w : WriteJob), s.flash.journals[j].job = some w → w.step = 0 → w.held = false →
        t.flash.journals[j].job = some { w with held := true }) ∧
      (∀ (j : Fin 18) (w : WriteJob), s.flash.journals[j].job = some w → w.step ≠ 0 → t.flash.journals[j] = s.flash.journals[j]) ∧ t.mem = s.mem := by
  obtain ⟨hblocked, hwarn, huv, hcount, hrail⟩ := s.warned_regs rails hroom
  obtain ⟨hflash, hmem⟩ := s.warned_parts rails
  refine ⟨_, earlyWarn_warned h, ?_⟩
  generalize s.warned rails = c at *
  have hwithin : Within warnScope c (overAll c State.abandonErase) := (Within.refl warnScope c).overAll fun v k hv => State.abandonErase_within hv k
  refine ⟨(hwithin.bit (by decide) _).trans hblocked, (hwithin.bit (by decide) _).trans hwarn, (hwithin.bit (by decide) _).trans huv,
    (hwithin.reads _ (by decide)).trans hcount, fun b hb => (hwithin.bit (by decide) _).trans (hrail b hb), fun j w hj h0 hw => ?_, fun j w hj h0 => ?_, ?_⟩
  · exact abandoned_erasing (by rw [hflash]; exact hj) h0 hw
  · exact (abandoned_later (by rw [hflash]; exact hj) h0).trans (by rw [hflash])
  · exact (warnScope_mem hwithin).trans hmem

/-! ## What holds a journal's write back -/

theorem writeWaits_of (h : s.flash.journals[j].job ≠ none ∨ s.bit Obj.FLASH.PENDING j.val = false ∨
    s.bit Obj.FLASH.FLAGS Bit.FLASH.FLAGS.WRITE_BLOCKED = true ∨ clerksUp s = false ∨ s.boot.switching = true) : writeWaits s j = true := by
  rw [writeWaits, writeBlocked]
  rcases h with h | h | h | h | h
  · rw [Option.isSome_iff_ne_none.mpr h]
    simp only [Bool.true_or]
  all_goals simp [h]

theorem writtenLately_ledger {b : Int} (hb : s.flash.journals[(1 : Fin 18)].began = some b) (h : b ≤ s.now) (h' : s.now < b + ticksPerSecond / 4) :
    writeWaits s 1 = true := by
  rw [writeWaits, (writtenLately_iff b hb).mpr ⟨h, h'⟩, Bool.or_true]

theorem writtenLately_not (h : j.val = 1 → ∀ b : Int, s.flash.journals[j].began = some b → s.now < b ∨ b + ticksPerSecond / 4 ≤ s.now) :
    writtenLately s j = false := by
  by_cases hj : j = 1
  · subst hj
    cases hb : s.flash.journals[(1 : Fin 18)].began with
    | none => rw [writtenLately, hb, Bool.and_false]
    | some b =>
      have hlate := h rfl b hb
      rw [Bool.eq_false_iff, Ne, writtenLately_iff b hb]
      omega
  · have hne : (j.val == 1) = false := beq_false_of_ne fun e => hj (Fin.ext e)
    rw [writtenLately, hne, Bool.false_and]

theorem writeWaits_not (hjob : s.flash.journals[j].job = none) (hp : s.bit Obj.FLASH.PENDING j.val = true)
    (hb : s.bit Obj.FLASH.FLAGS Bit.FLASH.FLAGS.WRITE_BLOCKED = false) (hc : clerksUp s = true) (hs : s.boot.switching = false)
    (hl : writtenLately s j = false) : writeWaits s j = false := by
  rw [writeWaits, writeBlocked, hjob, hp, hb, hc, hs, hl]
  rfl

end

end Sys2Proof.Machine

namespace Sys2Proof
open Machine

/-- Settles O50: a write that begins is one update of its journal and of PENDING; each step of it is a case of flashEnd by the step's number, whose
commit ends in turn the calibrations that it carries; early warning and its end go over the journals one by one. -/
theorem flashJournals : Obligations.FlashJournals := by
  unfold Obligations.FlashJournals
  refine ⟨fun s j h => journalWrite_waits (writeWaits_of h), fun s b hb h h' => journalWrite_waits (writtenLately_ledger hb h h'),
    fun s j hjob hp hb hc hs hl => ⟨_, journalWrite_begins (writeWaits_not hjob hp hb hc hs (writtenLately_not hl)), s.writing_writes j⟩,
    fun s e => ?_, fun s e => ?_, fun s k b => provedTrim_running, fun s k => provedTrim_standing, fun s j ok => flashEnd_idle, fun s j ok w => flashEnd_held,
    fun s j ok w h hw h0 he hm => ?_, fun s j ok w h hw => ⟨flashEnd_written h hw, ?_, ?_, ?_⟩, fun s j ok w => flashEnd_committed, nextPlace_eq,
    fun s j ok h => flashOperationEnd_stays s j ok (.inl h), fun s j i ok hi h => flashOperationEnd_stays s j ok (.inr ⟨i, hi, h⟩),
    fun s rails => earlyWarn_warns, earlyWarnClear_clears⟩
  · simp [journalData]
  · simp [journalData]
  · obtain ⟨hmax, hwear, hblocked⟩ := s.countErase_counts j he hm
    refine ⟨_, flashEnd_erased h hw h0, ?_, hmax, hwear.trans (by rfl)⟩
    rw [State.modJournal_self, hblocked]
  · rintro h2 rfl
    exact flashEnd_verified h hw h2
  · rintro h2 rfl
    exact flashEnd_again h hw h2
  · rintro h2 rfl
    exact flashEnd_faults h hw h2

end Sys2Proof
end

section
/-! SUPPORT. What a calibration's start, its end, its failure and its next phase change (R484 to R489; Machine/Calib.lean). -/

namespace Sys2Proof.Machine

/-! ## What calibrations may change -/

/-- The runs of calibrations, the shots of ports, the TDC's tables and the registers of a list. -/
def runScope (l : List Reg) : Scope where
  blank s := { s with regs := [], cal := Vector.replicate 20 {}, ports := Vector.replicate 8 {}, tdc := {} }
  regs k := l.any (fun x => x.key == k)
  blind _ _ := rfl

section
variable {s t u : State} {l : List Reg} {k : Fin 20}

theorem runScope_regs {r : Reg} (h : r ∈ l) : (runScope l).regs r.key = true := List.any_eq_true.mpr ⟨r, h, beq_self_eq_true _⟩

theorem runScope_kept (h : Within (runScope l) s t) : regsKept s t l := fun r hr => h.reads r (by simpa [runScope] using hr)

/-- The parts of State outside the scope that the statements speak of. -/
theorem runScope_parts (h : Within (runScope l) s t) : t.blobs = s.blobs ∧ t.mem = s.mem ∧ t.flash = s.flash ∧ t.out = s.out :=
  ⟨congrArg (fun v => v.blobs) h.parts, congrArg (fun v => v.mem) h.parts, congrArg (fun v => v.flash) h.parts, congrArg (fun v => v.out) h.parts⟩

/-! ## Shots and trims (R485, R487, R489) -/

/-- The shots of a port with those of calibration discarded. -/
def shotsDiscarded (l : List Shot) : List Shot := l.map (fun x => if x.cal ∧ !x.winClosed then { x with relDiscard := true } else x)

theorem State.discardCalShots_within (h : Within (runScope l) s t) (k : Nat) : Within (runScope l) s (t.discardCalShots k) :=
  Within.ite (fun _ => h) fun _ => h.trans (.part rfl rfl)

theorem State.discardCalShots_self (s : State) (hk : k.val < 16) :
    (s.discardCalShots k.val).ports[calPort k.val].shots = shotsDiscarded s.ports[calPort k.val].shots := by
  rw [State.discardCalShots, if_neg (by omega), State.modPort_self]
  rfl

theorem State.discardCalShots_other (s : State) (k : Nat) {n : Port} (hn : n ≠ calPort k) : (s.discardCalShots k).ports[n] = s.ports[n] := by
  rw [State.discardCalShots]
  split
  · rfl
  · exact State.modPort_other _ _ _ _ hn.symm

theorem State.discardCalShots_cal (s : State) (k : Nat) : (s.discardCalShots k).cal = s.cal ∧ (s.discardCalShots k).tdc = s.tdc := by
  rw [State.discardCalShots]
  split
  · exact ⟨rfl, rfl⟩
  · exact ⟨rfl, rfl⟩

theorem State.calOf_of_cal (h : t.cal = s.cal) (k : Nat) : t.calOf k = s.calOf k := by rw [State.calOf, State.calOf, h]

theorem State.giveTrims_within (h : Within (runScope l) s t) (k : Nat) (m : List (Nat × List Byte)) : Within (runScope l) s (t.giveTrims k m) :=
  Within.ite (fun _ => h.trans (.part rfl rfl)) fun _ => h.trans (.part rfl rfl)

theorem State.giveTrims_receive (s : State) (m : List (Nat × List Byte)) (hk : k.val < 16) :
    (s.giveTrims k.val m).calOf k.val = { s.calOf k.val with newTrims := overTrims m (s.calOf k.val).newTrims } := by
  rw [State.giveTrims, if_pos hk, State.calOf_modCal_self]
  rfl

/-- The trims in force of a target that no object shows, after some are given. -/
theorem State.giveTrims_hidden (s : State) (m : List (Nat × List Byte)) (hk : 16 ≤ k.val) : (s.giveTrims k.val m).calOf k.val =
    { s.calOf k.val with inForce := ((m.find? (fun e => e.1 == hiddenTrim k.val)).map (·.2)).getD (s.calOf k.val).inForce } := by
  rw [State.giveTrims, if_neg (by omega), State.calOf_modCal_self]

theorem State.giveTrims_rest (s : State) (k : Nat) (m : List (Nat × List Byte)) : (s.giveTrims k m).ports = s.ports ∧ (s.giveTrims k m).tdc = s.tdc ∧
    (s.giveTrims k m).regs = s.regs := by
  rw [State.giveTrims]
  split
  · exact ⟨rfl, rfl, rfl⟩
  · exact ⟨rfl, rfl, rfl⟩

/-! ## The flag of calibrations in hand -/

theorem State.calFlag_within (h : Within (runScope l) s t) (hl : Obj.CALIBRATION.FLAGS ∈ l) : Within (runScope l) s t.calFlag :=
  h.putBit (runScope_regs hl) _ _

theorem State.calFlag_u (s : State) {r : Reg} (hr : Obj.CALIBRATION.FLAGS.key ≠ r.key) : s.calFlag.u r = s.u r := State.u_put_ne _ _ _ _ hr

theorem State.calFlag_busy (s : State) (h : calBusy s k.val = true) : s.calFlag.bit Obj.CALIBRATION.FLAGS Bit.CALIBRATION.FLAGS.CAL_RUNNING = true := by
  rw [State.calFlag, State.bit_putBit_self _ _ _ _ (by decide)]
  exact List.any_eq_true.mpr ⟨k.val, List.mem_range.mpr k.isLt, h⟩

/-! ## A run ends (R485, R489) -/

/-- A run whose result is known. -/
def CalRun.ended (c : CalRun) : CalRun := { c with running := false, computing := false, records := [], journalling := false, carried := false }

/-- The registers that the end of a run changes. -/
def endRegs (k : Nat) : List Reg := [Obj.CAL_TARGET.PHASE k, Obj.CAL_TARGET.CAL_TIME k, Obj.CALIBRATION.FLAGS]

theorem State.calEnd_within (h : Within (runScope l) s t) (hl : ∀ r ∈ endRegs k.val, r ∈ l) : Within (runScope l) s (t.calEnd k.val) := by
  have hput : ∀ v, Within (runScope l) s v → ∀ r ∈ endRegs k.val, ∀ x, Within (runScope l) s (v.put r x) := fun v hv r hr x => hv.put (runScope_regs (hl r hr)) x
  have hclosed := hput _ (hput _ (State.discardCalShots_within h k.val) (Obj.CAL_TARGET.CAL_TIME k.val) (by simp [endRegs]) (calTime t k.val))
    (Obj.CAL_TARGET.PHASE k.val) (by simp [endRegs]) 0
  exact State.calFlag_within (hclosed.trans (.part rfl rfl)) (hl _ (by simp [endRegs]))

theorem State.calEnd_phase (s : State) : (s.calEnd k.val).u (Obj.CAL_TARGET.PHASE k.val) = 0 := by
  rw [State.calEnd, State.calFlag_u _ (by simp only [Obj.CALIBRATION.FLAGS, Obj.CAL_TARGET.PHASE]; omega)]
  exact State.u_put_self _ _ _

theorem State.calEnd_run (s : State) : (s.calEnd k.val).calOf k.val = (s.calOf k.val).ended := by
  refine (State.calOf_modCal_self _ k CalRun.ended).trans ?_
  exact congrArg CalRun.ended (State.calOf_of_cal (s.discardCalShots_cal k.val).1 k.val)

theorem State.calEnd_rest (s : State) : (s.calEnd k.val).tdc = s.tdc ∧ (s.calEnd k.val).ports = (s.discardCalShots k.val).ports :=
  ⟨(s.discardCalShots_cal k.val).2, rfl⟩

/-! ## A run fails (R485) -/

/-- The trims of a run that is not done are restored, with what a journal has carried of them. -/
def State.restored (s : State) (k : Nat) : State :=
  if (s.calOf k).journalling then (s.giveTrims k (s.calOf k).saved).takeBack k
  else if (s.calOf k).comps = 0 then s else s.giveTrims k (s.calOf k).saved

theorem calFail_eq (s : State) (k result : Nat) :
    s.calFail k result = (((s.restored k).put (Obj.CAL_TARGET.RESULT k) result).bump (Obj.CAL_TARGET.FAILS k)).calEnd k := by
  rw [State.calFail, State.restored]
  cases (s.calOf k).journalling with
  | true => simp only [Bool.not_true, and_false, if_false, if_true, Bool.false_eq_true]
  | false => simp only [Bool.not_false, and_true, Bool.false_eq_true, if_false]

/-- The registers that a failure changes. -/
def failRegs (k : Nat) : List Reg :=
  [Obj.CAL_TARGET.RESULT k, Obj.CAL_TARGET.FAILS k, Obj.CAL_TARGET.PHASE k, Obj.CAL_TARGET.CAL_TIME k, Obj.CALIBRATION.FLAGS]

/-- The registers that the trims taken back change. -/
def backRegs (k : Nat) : List Reg := [Obj.RX_TRIMS.SOURCE (k % 8), Obj.FLASH.PENDING]

theorem State.takeBack_within (h : Within (runScope l) s t) (hl : ∀ r ∈ backRegs k.val, r ∈ l) : Within (runScope l) s (t.takeBack k.val) := by
  refine Within.setBit ?_ (runScope_regs (hl _ (by simp [backRegs]))) _
  have hshadow : Within (runScope l) s (if k.val = 16 then { t with tdc := { t.tdc with shadow := shadowsOf (((t.calOf k.val).saved.head?.map (·.2)).getD []) } } else t) :=
    Within.ite (fun _ => h.trans (.part rfl rfl)) fun _ => h
  exact Within.ite (fun _ => hshadow.put (runScope_regs (hl _ (by simp [backRegs]))) _) fun _ => hshadow

theorem State.takeBack_rest (s : State) (k : Nat) : (s.takeBack k).cal = s.cal ∧ (s.takeBack k).ports = s.ports := by
  rw [State.takeBack]
  have hshadow : ∀ v : State, v.cal = s.cal ∧ v.ports = s.ports → (if k < 16 then v.put (Obj.RX_TRIMS.SOURCE (k % 8)) (s.calOf k).source else v).cal = s.cal ∧
      (if k < 16 then v.put (Obj.RX_TRIMS.SOURCE (k % 8)) (s.calOf k).source else v).ports = s.ports := fun v hv => by
    split
    · exact hv
    · exact hv
  refine hshadow _ ?_
  split
  · exact ⟨rfl, rfl⟩
  · exact ⟨rfl, rfl⟩

theorem State.takeBack_pending (s : State) (k : Nat) : (s.takeBack k).bit Obj.FLASH.PENDING 0 = true := State.pending_journal _ 0 (by decide)

theorem State.takeBack_source (s : State) (hk : k.val < 16) :
    (s.takeBack k.val).u (Obj.RX_TRIMS.SOURCE (k.val % 8)) = (s.calOf k.val).source % 2 ^ 8 := by
  rw [State.takeBack, if_pos hk, State.journal, State.setBit_eq, State.putBit,
    State.u_put_ne _ _ _ _ (by simp only [Obj.FLASH.PENDING, Obj.RX_TRIMS.SOURCE]; omega), State.u_put_self]
  rfl

theorem State.takeBack_tables (s : State) {b : List Byte} (h : (s.calOf 16).saved = [(hiddenTrim 16, b)]) : (s.takeBack 16).tdc.shadow = shadowsOf b := by
  rw [State.takeBack, if_pos rfl, if_neg (by decide), h]
  rfl

theorem State.restored_within (s : State) (h : (s.calOf k.val).journalling = false) : Within (runScope l) s (s.restored k.val) := by
  rw [State.restored, h]
  exact Within.ite (fun hj => absurd hj (by decide)) fun _ => Within.ite (fun _ => .refl _ _) fun _ => State.giveTrims_within (.refl _ _) _ _

theorem State.restored_within_back (s : State) (hl : ∀ r ∈ backRegs k.val, r ∈ l) : Within (runScope l) s (s.restored k.val) := by
  refine Within.ite (fun _ => ?_) fun _ => Within.ite (fun _ => .refl _ _) fun _ => State.giveTrims_within (.refl _ _) _ _
  exact State.takeBack_within (State.giveTrims_within (.refl _ _) _ _) hl

theorem State.restored_ports (s : State) (k : Nat) : (s.restored k).ports = s.ports := by
  rw [State.restored]
  split
  · rw [(State.takeBack_rest _ k).2, (s.giveTrims_rest k _).1]
  · split
    · rfl
    · exact (s.giveTrims_rest k _).1

theorem State.restored_trims (s : State) (h : 0 < (s.calOf k.val).comps ∨ (s.calOf k.val).journalling = true) :
    (s.restored k.val).calOf k.val = (s.giveTrims k.val (s.calOf k.val).saved).calOf k.val := by
  rw [State.restored]
  split
  · exact State.calOf_of_cal (State.takeBack_rest _ k.val).1 k.val
  · next hj =>
    rw [if_neg]
    rcases h with h | h
    · omega
    · exact absurd h hj

theorem State.restored_none (s : State) (h : (s.calOf k.val).comps = 0) (hj : (s.calOf k.val).journalling = false) : s.restored k.val = s := by
  rw [State.restored, hj]
  exact if_pos h

/-- The trims that stand before a run's first computation are those that the run found. -/
theorem State.restored_receive (s : State) (h : 0 < (s.calOf k.val).comps ∨ (s.calOf k.val).journalling = true) (hk : k.val < 16) :
    ((s.restored k.val).calOf k.val).newTrims = overTrims (s.calOf k.val).saved (s.calOf k.val).newTrims := by
  rw [s.restored_trims h, s.giveTrims_receive _ hk]

theorem State.calFail_within (s : State) (result : Nat) (h : Within (runScope l) s (s.restored k.val)) (hl : ∀ r ∈ failRegs k.val, r ∈ l) :
    Within (runScope l) s (s.calFail k.val result) := by
  rw [calFail_eq]
  refine State.calEnd_within ((h.put (runScope_regs (hl _ ?_)) result).bump (runScope_regs (hl _ ?_))) fun r hr => hl r ?_
  · simp [failRegs]
  · simp [failRegs]
  · simp only [endRegs, failRegs, List.mem_cons] at hr ⊢
    exact .inr (.inr hr)

theorem State.calFail_within_back (s : State) (result : Nat) : Within (runScope (failRegs k.val ++ backRegs k.val)) s (s.calFail k.val result) :=
  s.calFail_within result (s.restored_within_back fun _ hr => List.mem_append_right _ hr) fun _ hr => List.mem_append_left _ hr

theorem State.calFail_run (s : State) (result : Nat) : (s.calFail k.val result).calOf k.val = ((s.restored k.val).calOf k.val).ended := by
  rw [calFail_eq, State.calEnd_run]
  rfl

theorem State.calFail_tdc (s : State) (result : Nat) : (s.calFail k.val result).tdc = (s.restored k.val).tdc := by
  rw [calFail_eq, (State.calEnd_rest _).1]
  rfl

theorem State.calFail_phase (s : State) (result : Nat) : (s.calFail k.val result).u (Obj.CAL_TARGET.PHASE k.val) = 0 := by
  rw [calFail_eq, State.calEnd_phase]

theorem State.calFail_shots (s : State) (result : Nat) (hk : k.val < 16) :
    (s.calFail k.val result).ports[calPort k.val].shots = shotsDiscarded s.ports[calPort k.val].shots := by
  rw [calFail_eq, (State.calEnd_rest _).2, State.discardCalShots_self _ hk, State.bump_eq, State.put_ports, State.put_ports, State.restored_ports]

/-- A register that neither the end of a run nor its journal changes. -/
theorem endRegs_reads (s : State) {r : Reg} (hr : ∀ x ∈ endRegs k.val, x.key ≠ r.key) : (s.calEnd k.val).u r = s.u r :=
  runScope_kept (State.calEnd_within (.refl _ _) fun _ h => h) r hr

theorem State.calFail_result (s : State) (result : Nat) : (s.calFail k.val result).u (Obj.CAL_TARGET.RESULT k.val) = result % 2 ^ 8 := by
  rw [calFail_eq, endRegs_reads _ (by simp [endRegs, Obj.CAL_TARGET.PHASE, Obj.CAL_TARGET.CAL_TIME, Obj.CALIBRATION.FLAGS, Obj.CAL_TARGET.RESULT]; omega),
    State.bump_eq, State.u_put_ne _ _ _ _ (by simp only [Obj.CAL_TARGET.FAILS, Obj.CAL_TARGET.RESULT]; omega), State.u_put_self]
  rfl

theorem State.calFail_fails (s : State) (result : Nat) (h : s.u (Obj.CAL_TARGET.FAILS k.val) + 1 < 2 ^ 32) :
    (s.calFail k.val result).u (Obj.CAL_TARGET.FAILS k.val) = s.u (Obj.CAL_TARGET.FAILS k.val) + 1 := by
  have hrestored : (s.restored k.val).u (Obj.CAL_TARGET.FAILS k.val) = s.u (Obj.CAL_TARGET.FAILS k.val) :=
    runScope_kept (s.restored_within_back (l := backRegs k.val) fun _ hr => hr) _
      (by simp [backRegs, Obj.RX_TRIMS.SOURCE, Obj.FLASH.PENDING, Obj.CAL_TARGET.FAILS]; omega)
  have hput : ((s.restored k.val).put (Obj.CAL_TARGET.RESULT k.val) result).u (Obj.CAL_TARGET.FAILS k.val) = s.u (Obj.CAL_TARGET.FAILS k.val) :=
    (State.u_put_ne _ _ _ _ (by simp only [Obj.CAL_TARGET.FAILS, Obj.CAL_TARGET.RESULT]; omega)).trans hrestored
  rw [calFail_eq, endRegs_reads _ (by simp [endRegs, Obj.CAL_TARGET.PHASE, Obj.CAL_TARGET.CAL_TIME, Obj.CALIBRATION.FLAGS, Obj.CAL_TARGET.FAILS]; omega),
    State.u_bump_self _ _ (by rw [hput]; exact h), hput]

end

end Sys2Proof.Machine
end

section
/-! SUPPORT. Calibrations started by the host, computations by their outcome, and the statement on calibrations (R484 to R493). -/

namespace Sys2Proof.Machine

section
variable {s t u : State} {x : Session} {r : Req} {k : Fin 20} {m : CalMeasure}

/-! ## START and its refusals (R484) -/

/-- START is a command object of each target. -/
theorem startRow (k : Fin 20) : commandRow (0x7810 + k.val) 1 .u8 2 = true := by revert k; decide

/-- START takes 0 and 1. -/
theorem startRow_range (k : Fin 20) (v : Fin 2) : (rowAt (0x7810 + k.val) 1).all (fun row => inRange row v.val) = true := by revert k v; decide

theorem startTarget_start (k : Fin 20) : startTarget ((0x7810 + k.val) * 256 + 1) = some k.val := by revert k; decide

theorem startKey_other (k : Fin 20) : imageSlot ((0x7810 + k.val) * 256 + 1) = none ∧ sendPort ((0x7810 + k.val) * 256 + 1) = none ∧
    repairChannel ((0x7810 + k.val) * 256 + 1) = none ∧ lateKeys.contains ((0x7810 + k.val) * 256 + 1) = false := by revert k; decide

theorem startKey_ne (k : Fin 20) : (0x7810 + k.val) * 256 + 1 ≠ Obj.CAPTURE.ARM_GROUP.key ∧ (0x7810 + k.val) * 256 + 1 ≠ Obj.HEALTH.SWITCH.key ∧
    (0x7810 + k.val) * 256 + 1 ≠ Obj.HEALTH.ZEROIZE.key ∧ (0x7810 + k.val) * 256 + 1 ≠ fwImageKey ∧
    (decide (0x5110 ≤ ((0x7810 + k.val) * 256 + 1) / 256) && decide (((0x7810 + k.val) * 256 + 1) / 256 < 0x5120)) = false := by revert k; decide

theorem calRefusal_codes (s : State) (k : Nat) : calRefusal s k = 0 ∨ calRefusal s k = 0x0302 ∨ calRefusal s k = 0x0401 := by
  rw [calRefusal]
  generalize (if k < 8 then k + 8 else k - 8) = j
  split
  · exact .inr (.inl rfl)
  · split
    · exact .inr (.inr rfl)
    · split
      · exact .inr (.inr rfl)
      · exact .inl rfl

/-- The rules on START leave its refusal, where it asks for a start. -/
theorem effectCode_start {row : ObjRow} (hrow : rowAt (0x7810 + k.val) 1 = some row) (w : CommandRow (0x7810 + k.val) 1 .u8 2 row) (v : Fin 2)
    (ht : transferTo t ((0x7810 + k.val) * 256 + 1) = false) (hs : standby t = false) :
    effectCode t ((0x7810 + k.val) * 256 + 1) row (le Ty.u8.bytes v.val) true = if v.val = 1 then calRefusal t k.val else 0 := by
  have hv : fromLe (le Ty.u8.bytes v.val) = v.val := fromLe_le_lt (Nat.lt_trans v.isLt (by decide))
  have hb : isBlob row.ty = false := by rw [w.typed]; rfl
  have hin : inRange row (unreserved row v.val) = true := by
    have hall := startRow_range k v
    rw [hrow] at hall
    rw [unreserved, w.unmasked]
    exact hall
  obtain ⟨himage, hsend, hrepair, -⟩ := startKey_other k
  obtain ⟨harm, hswitch, hzero, hfw, halloc⟩ := startKey_ne k
  have hrange : rangeCode t ((0x7810 + k.val) * 256 + 1) row v.val = if v.val = 1 ∧ calRefusal t k.val = 0x0302 then 0x0302 else 0 := by
    rw [rangeCode, hin, Bool.not_true, Bool.and_false, if_neg Bool.false_ne_true, if_neg fun h => harm h.1, if_neg hswitch, if_neg hzero, startTarget_start]
  have hheld : heldCode t ((0x7810 + k.val) * 256 + 1) row v.val = if v.val = 1 ∧ calRefusal t k.val = 0x0401 then 0x0401 else 0 := by
    simp [heldCode, standbyHolds_alone hs, allocHeld_other halloc, himage, hfw, startTarget_start]
  have hspare := spareCode_other (t := t) hsend hrepair v.val
  rw [effectCode, hb]
  simp only [if_false, Bool.false_eq_true, hv, hrange, hheld, hspare, imageCode_other himage, ht, Bool.and_false]
  rcases Fin.exists_fin_two.mp ⟨v, rfl⟩ with rfl | rfl
  · simp [firstCode]
  · rcases calRefusal_codes t k.val with h | h | h <;> simp [firstCode, h]

/-- A refused START is answered with its code and changes nothing else. -/
theorem calStart_refused (h : wrote s t x r (0x7810 + k.val) 1 .u8 [1] 2) (hc : calRefusal t k.val ≠ 0) :
    exec (.calStart r k) s = .next (t.reply x 0x11 r (calRefusal t k.val) []) := by
  obtain ⟨row, w⟩ := commandRow_iff (startRow k)
  have hsize : sizeGood ((0x7810 + k.val) * 256 + 1) row (le Ty.u8.bytes 1) = true := by
    have hgood := sizeGood_le (row := row) (by rw [w.typed]; rfl) ((0x7810 + k.val) * 256 + 1) 1
    rwa [w.typed] at hgood
  obtain ⟨himage, -⟩ := startKey_other k
  have haccess := wrote_access (v := le Ty.u8.bytes 1) h w.toTakes hsize (formCode_other himage) w.not_pends
  obtain ⟨hgate, hboot, -, htransfer, hstandby⟩ := h
  have heffect : effectCode t ((0x7810 + k.val) * 256 + 1) row (le Ty.u8.bytes 1) true = calRefusal t k.val :=
    effectCode_start w.found w 1 htransfer hstandby
  have hwrite : t.writeFor x r (0x7810 + k.val) 1 Ty.u8.code (le Ty.u8.bytes 1) = (t, calRefusal t k.val) := by
    rw [State.writeFor, lookup_of_rowAt hboot w.found]
    dsimp only
    rw [haccess, heffect, if_neg (by simp), if_neg (by decide), if_pos hc, State.loadStatus, himage]
  exact congrArg Host.Outcome.next (writeMsg_refused hgate hwrite hc)

/-- A write of START that its rules pass acts and is answered with code 0. -/
theorem start_granted (v : Fin 2) (h : wrote s t x r (0x7810 + k.val) 1 .u8 (le Ty.u8.bytes v.val) 2) (hc : v.val = 1 → calRefusal t k.val = 0) :
    s.writeObject r (0x7810 + k.val) 1 .u8 v.val = granted (if v.val = 1 then calStartEff t k.val else t.calAbort k.val) x r := by
  obtain ⟨row, w⟩ := commandRow_iff (startRow k)
  obtain ⟨himage, -, -, hlate⟩ := startKey_other k
  have hpass : effectCode t ((0x7810 + k.val) * 256 + 1) row (le Ty.u8.bytes v.val) true = 0 := by
    rw [effectCode_start w.found w v h.2.2.2.1 h.2.2.2.2]
    split
    · exact hc ‹_›
    · rfl
  have hcommand : t.command x ((0x7810 + k.val) * 256 + 1) v.val = if v.val = 1 then calStartEff t k.val else t.calAbort k.val := by
    rw [State.command, startTarget_start]
    dsimp only
    split
    · rfl
    · exact if_pos (by have := v.isLt; omega)
  rw [command_acts h w rfl (Nat.lt_trans v.isLt (by decide)) himage hpass, State.afterWrite_none _ _ _ _ (by simpa using hlate), hcommand]

/-! ## A calibration begins -/

/-- The registers that a start changes. -/
def startRegs (k : Nat) : List Reg := [Obj.CAL_TARGET.RUNS k, Obj.CAL_TARGET.PHASE k, Obj.CALIBRATION.FLAGS]

/-- A run that begins at a state. -/
def runBegun (s : State) (k : Nat) (c : CalRun) : CalRun :=
  { c with running := true, started := s.now, used := 0, comps := 0, records := [], refused := 0, computing := false, saved := trimsOf s k,
           quality := 0, within := true, source := s.u (Obj.RX_TRIMS.SOURCE (k % 8)) }

theorem calStartEff_eq (s : State) (k : Nat) :
    calStartEff s k = (((s.modCal k (runBegun s k)).bump (Obj.CAL_TARGET.RUNS k)).put (Obj.CAL_TARGET.PHASE k) 1).calFlag := rfl

theorem calStartEff_kept (s : State) (k : Nat) : regsKept s (calStartEff s k) (startRegs k) := by
  have hbegun : regsKept s (s.modCal k (runBegun s k)) (startRegs k) := (regsKept.refl s _).of_regs rfl
  exact ((hbegun.put (by simp [startRegs]) _).put (by simp [startRegs]) _).put (by simp [startRegs]) _

theorem calStartEff_run (s : State) : (calStartEff s k.val).calOf k.val = runBegun s k.val (s.calOf k.val) := State.calOf_modCal_self s k (runBegun s k.val)

theorem calStartEff_other (s : State) {j : Nat} (h : j ≠ k.val) : (calStartEff s k.val).calOf j = s.calOf j :=
  State.calOf_modCal_other s j k.val (runBegun s k.val) h

theorem calStartEff_runs (s : State) (h : s.u (Obj.CAL_TARGET.RUNS k.val) + 1 < 2 ^ 32) :
    (calStartEff s k.val).u (Obj.CAL_TARGET.RUNS k.val) = s.u (Obj.CAL_TARGET.RUNS k.val) + 1 := by
  rw [calStartEff_eq, State.calFlag_u _ (by simp only [Obj.CALIBRATION.FLAGS, Obj.CAL_TARGET.RUNS]; omega),
    State.u_put_ne _ _ _ _ (by simp only [Obj.CAL_TARGET.PHASE, Obj.CAL_TARGET.RUNS]; omega)]
  exact State.u_bump_self (s.modCal k.val (runBegun s k.val)) _ h

theorem calStartEff_phase (s : State) : (calStartEff s k.val).u (Obj.CAL_TARGET.PHASE k.val) = 1 := by
  rw [calStartEff_eq, State.calFlag_u _ (by simp only [Obj.CALIBRATION.FLAGS, Obj.CAL_TARGET.PHASE]; omega), State.u_put_self]
  rfl

theorem calStartEff_flag (s : State) : (calStartEff s k.val).bit Obj.CALIBRATION.FLAGS Bit.CALIBRATION.FLAGS.CAL_RUNNING = true := by
  rw [calStartEff_eq]
  refine State.calFlag_busy (k := k) _ ?_
  have hrun : (((s.modCal k.val (runBegun s k.val)).bump (Obj.CAL_TARGET.RUNS k.val)).put (Obj.CAL_TARGET.PHASE k.val) 1).calOf k.val =
      runBegun s k.val (s.calOf k.val) := State.calOf_modCal_self s k (runBegun s k.val)
  rw [calBusy, hrun]
  rfl

/-! ## A computation whose result stands (R489, R498) -/

/-- The tables and the source that a run's result brings. -/
def State.resultOf (s : State) (k : Nat) (m : CalMeasure) : State :=
  if k = 16 then { s with tdc := { s.tdc with shadow := shadowsOf m.tables } }
  else if k < 16 then s.put (Obj.RX_TRIMS.SOURCE (k % 8)) 2 else s

/-- A run that waits for its journal. -/
def CalRun.awaiting (c : CalRun) : CalRun := { c with journalling := true }

theorem calDone_eq (s : State) (k : Nat) (m : CalMeasure) :
    s.calDone k m = (((((s.resultOf k m).calEnd k).modCal k CalRun.awaiting).put (Obj.CAL_TARGET.PHASE k) 4).journal 0).calFlag := by
  rw [State.calDone, State.resultOf]
  by_cases h : k = 16
  · simp only [h, if_true, if_false, show ¬16 < 16 by decide]
    rfl
  · simp only [h, if_false]
    rfl

theorem State.resultOf_cal (s : State) (k : Nat) (m : CalMeasure) : (s.resultOf k m).cal = s.cal := by
  rw [State.resultOf]
  split
  · rfl
  · split
    · rfl
    · rfl

/-- The registers that a run's result changes. -/
def resultRegs (k : Nat) : List Reg := endRegs k ++ backRegs k

theorem calDone_kept (s : State) (m : CalMeasure) : regsKept s (s.calDone k.val m) (resultRegs k.val) := by
  have hresult : Within (runScope (resultRegs k.val)) s (s.resultOf k.val m) :=
    Within.ite (fun _ => .part rfl rfl) fun _ => Within.ite (fun _ => (Within.refl _ s).put (runScope_regs (by simp [resultRegs, backRegs])) _) fun _ => .refl _ _
  rw [calDone_eq]
  have hend := (State.calEnd_within (k := k) hresult fun r hr => List.mem_append_left _ hr).trans
    (u := ((s.resultOf k.val m).calEnd k.val).modCal k.val CalRun.awaiting) (.part rfl rfl)
  exact runScope_kept (State.calFlag_within ((hend.put (runScope_regs (by simp [resultRegs, endRegs])) 4).setBit
    (runScope_regs (r := Obj.FLASH.PENDING) (by simp [resultRegs, backRegs])) 0) (by simp [resultRegs, endRegs]))

theorem calDone_run (s : State) (m : CalMeasure) : (s.calDone k.val m).calOf k.val = (s.calOf k.val).ended.awaiting := by
  rw [calDone_eq]
  refine (State.calOf_modCal_self ((s.resultOf k.val m).calEnd k.val) k CalRun.awaiting).trans ?_
  rw [State.calEnd_run, State.calOf_of_cal (s.resultOf_cal k.val m)]

theorem calDone_phase (s : State) (m : CalMeasure) : (s.calDone k.val m).u (Obj.CAL_TARGET.PHASE k.val) = 4 := by
  rw [calDone_eq, State.calFlag_u _ (by simp only [Obj.CALIBRATION.FLAGS, Obj.CAL_TARGET.PHASE]; omega), State.journal, State.setBit_eq, State.putBit,
    State.u_put_ne _ _ _ _ (by simp only [Obj.FLASH.PENDING, Obj.CAL_TARGET.PHASE]; omega), State.u_put_self]
  rfl

theorem calDone_pending (s : State) (m : CalMeasure) : (s.calDone k.val m).bit Obj.FLASH.PENDING 0 = true := by
  rw [calDone_eq, State.calFlag, State.putBit, State.bit_put_ne _ _ _ _ _ (by decide)]
  exact State.pending_journal _ 0 (by decide)

theorem calDone_flag (s : State) (m : CalMeasure) : (s.calDone k.val m).bit Obj.CALIBRATION.FLAGS Bit.CALIBRATION.FLAGS.CAL_RUNNING = true := by
  rw [calDone_eq]
  refine State.calFlag_busy (k := k) _ ?_
  have hrun : ∀ v : State, (((v.modCal k.val CalRun.awaiting).put (Obj.CAL_TARGET.PHASE k.val) 4).journal 0).calOf k.val = (v.calOf k.val).awaiting :=
    fun v => State.calOf_modCal_self v k CalRun.awaiting
  rw [calBusy, hrun, CalRun.awaiting, Bool.or_true]

theorem calDone_tdc (s : State) (m : CalMeasure) : (s.calDone k.val m).tdc = (s.resultOf k.val m).tdc := by
  rw [calDone_eq, ← (State.calEnd_rest (k := k) (s.resultOf k.val m)).1]
  rfl

theorem calDone_source (s : State) (m : CalMeasure) (hk : k.val < 16) : (s.calDone k.val m).u (Obj.RX_TRIMS.SOURCE (k.val % 8)) = 2 := by
  have hresult : (s.resultOf k.val m).u (Obj.RX_TRIMS.SOURCE (k.val % 8)) = 2 := by
    rw [State.resultOf, if_neg (by omega), if_pos hk, State.u_put_self]
    rfl
  have hend := endRegs_reads (k := k) (s.resultOf k.val m) (r := Obj.RX_TRIMS.SOURCE (k.val % 8))
    (by simp [endRegs, Obj.CAL_TARGET.PHASE, Obj.CAL_TARGET.CAL_TIME, Obj.CALIBRATION.FLAGS, Obj.RX_TRIMS.SOURCE]; omega)
  rw [calDone_eq, State.calFlag_u _ (by simp only [Obj.CALIBRATION.FLAGS, Obj.RX_TRIMS.SOURCE]; omega), State.journal, State.setBit_eq, State.putBit,
    State.u_put_ne _ _ _ _ (by simp only [Obj.FLASH.PENDING, Obj.RX_TRIMS.SOURCE]; omega),
    State.u_put_ne _ _ _ _ (by simp only [Obj.CAL_TARGET.PHASE, Obj.RX_TRIMS.SOURCE]; omega)]
  exact hend.trans hresult

end

end Sys2Proof.Machine
end

section
/-! SUPPORT. The end of a computation by its outcome, what a calibration's timeout leaves, and the statement on calibrations (R484 to R493). -/

namespace Sys2Proof.Machine

section
variable {s : State} {k : Fin 20} {m : CalMeasure}

/-! ## The refusals of START (R484) -/

theorem calRefusal_coasting (h : s.coasting = true) (k : Nat) : calRefusal s k = 0x0302 ∨ calRefusal s k = 0x0401 := by
  rw [calRefusal]
  split
  · exact .inl rfl
  · exact .inr (if_pos (.inr h))

theorem calRefusal_local {k : Nat} (h : 16 ≤ k) : calRefusal s k = 0 ↔ calBusy s k = false ∧ s.coasting = false := by
  have hk : ¬k < 16 := by omega
  rw [calRefusal, if_neg fun hc => hk hc.1, if_neg (c := k < 16 ∧ _) fun hc => hk hc.1]
  cases calBusy s k <;> cases s.coasting <;> simp

theorem calRefusal_range {k : Nat} (hk : k < 16)
    (h : (s.u (Obj.PIPELINE.DAS_SETS (calPort k).val)).testBit (s.u Obj.CALIBRATION.CAL_SET) = false ∨
      bwSum s.u (calPort k) (s.u Obj.CALIBRATION.CAL_SET) < 100000) : calRefusal s k = 0x0302 := by
  refine if_pos ⟨hk, h.imp_left fun h => ?_⟩
  rw [h]
  rfl

/-! ## The end of a run that is not done (R485) -/

theorem calBusy_false (hr : (s.calOf k.val).running = false) (hj : (s.calOf k.val).journalling = false) : s.calAbort k.val = s :=
  if_neg (by rw [calBusy, hr, hj]; decide)

theorem calAbort_fails (h : (s.calOf k.val).running = true ∨ (s.calOf k.val).journalling = true) : s.calAbort k.val = s.calFail k.val 4 :=
  if_pos (by rw [calBusy, Bool.or_eq_true]; exact h)

theorem CalRun.ended_run (c : CalRun) : c.ended.running = false ∧ c.ended.journalling = false ∧ c.ended.carried = false ∧ c.ended.newTrims = c.newTrims ∧
    c.ended.inForce = c.inForce := ⟨rfl, rfl, rfl, rfl, rfl⟩

theorem State.calFail_receive (s : State) (result : Nat) (h : 0 < (s.calOf k.val).comps ∨ (s.calOf k.val).journalling = true) (hk : k.val < 16) :
    ((s.calFail k.val result).calOf k.val).newTrims = overTrims (s.calOf k.val).saved (s.calOf k.val).newTrims := by
  rw [State.calFail_run, (CalRun.ended_run _).2.2.2.1, s.restored_receive h hk]

theorem State.calFail_pending (s : State) (result : Nat) (hj : (s.calOf k.val).journalling = true) :
    (s.calFail k.val result).bit Obj.FLASH.PENDING 0 = true := by
  rw [State.bit, calFail_eq, endRegs_reads _ (by simp [endRegs, Obj.CAL_TARGET.PHASE, Obj.CAL_TARGET.CAL_TIME, Obj.CALIBRATION.FLAGS, Obj.FLASH.PENDING]; omega),
    State.bump_eq, State.u_put_ne _ _ _ _ (by simp only [Obj.CAL_TARGET.FAILS, Obj.FLASH.PENDING]; omega),
    State.u_put_ne _ _ _ _ (by simp only [Obj.CAL_TARGET.RESULT, Obj.FLASH.PENDING]; omega), State.restored, hj]
  exact State.takeBack_pending _ k.val

theorem State.calFail_source (s : State) (result : Nat) (hj : (s.calOf k.val).journalling = true) (hk : k.val < 16) :
    (s.calFail k.val result).u (Obj.RX_TRIMS.SOURCE (k.val % 8)) = (s.calOf k.val).source % 2 ^ 8 := by
  rw [calFail_eq, endRegs_reads _ (by simp [endRegs, Obj.CAL_TARGET.PHASE, Obj.CAL_TARGET.CAL_TIME, Obj.CALIBRATION.FLAGS, Obj.RX_TRIMS.SOURCE]; omega),
    State.bump_eq, State.u_put_ne _ _ _ _ (by simp only [Obj.CAL_TARGET.FAILS, Obj.RX_TRIMS.SOURCE]; omega),
    State.u_put_ne _ _ _ _ (by simp only [Obj.CAL_TARGET.RESULT, Obj.RX_TRIMS.SOURCE]; omega), State.restored, hj, if_pos rfl,
    State.takeBack_source _ hk, s.giveTrims_receive _ hk]

theorem State.calFail_tables (s : State) (result : Nat) (hj : (s.calOf 16).journalling = true) {b : List Byte} (hb : (s.calOf 16).saved = [(hiddenTrim 16, b)]) :
    (s.calFail 16 result).tdc.shadow = shadowsOf b ∧ ((s.calFail 16 result).calOf 16).inForce = b := by
  have htrims : (s.giveTrims 16 (s.calOf 16).saved).calOf 16 =
      { s.calOf 16 with inForce := (((s.calOf 16).saved.find? (fun e => e.1 == hiddenTrim 16)).map (·.2)).getD (s.calOf 16).inForce } :=
    s.giveTrims_hidden (k := 16) _ (by decide)
  have hrestored : s.restored 16 = (s.giveTrims 16 (s.calOf 16).saved).takeBack 16 := if_pos hj
  constructor
  · have htdc : (s.calFail 16 result).tdc = (s.restored 16).tdc := s.calFail_tdc (k := 16) result
    rw [htdc, hrestored]
    refine State.takeBack_tables _ ?_
    rw [htrims]
    exact hb
  · have hrun : (s.calFail 16 result).calOf 16 = ((s.restored 16).calOf 16).ended := s.calFail_run (k := 16) result
    rw [hrun, (CalRun.ended_run _).2.2.2.2, hrestored, State.calOf_of_cal (State.takeBack_rest _ 16).1 16, htrims, hb]
    rfl

theorem State.calFail_first (s : State) (result : Nat) (h0 : (s.calOf k.val).comps = 0) (hj : (s.calOf k.val).journalling = false) :
    (s.calFail k.val result).calOf k.val = { s.calOf k.val with running := false, computing := false, records := [], carried := false } := by
  rw [State.calFail_run, s.restored_none h0 hj, CalRun.ended, ← hj]

/-- What every failure does to its registers, its run and the rest. -/
theorem State.calFail_marks (s : State) (result : Nat) (hroom : s.u (Obj.CAL_TARGET.FAILS k.val) + 1 < 2 ^ 32) :
    (s.calFail k.val result).u (Obj.CAL_TARGET.FAILS k.val) = s.u (Obj.CAL_TARGET.FAILS k.val) + 1 ∧
    (s.calFail k.val result).u (Obj.CAL_TARGET.PHASE k.val) = 0 ∧ ((s.calFail k.val result).calOf k.val).running = false :=
  ⟨s.calFail_fails result hroom, s.calFail_phase result, by rw [State.calFail_run]; rfl⟩

/-! ## The end of a computation (R487 to R492) -/

section
variable (hr : (s.calOf k.val).running = true) (hc : 16 ≤ k.val ∨ (s.calOf k.val).computing = true)

theorem calComputationEnd_idle (h : (s.calOf k.val).running = false ∨ k.val < 16 ∧ (s.calOf k.val).computing = false) :
    exec (.calComputationEnd k m) s = .next s := by
  refine congrArg Host.Outcome.next (if_pos ?_)
  rcases h with h | ⟨hk, h⟩
  · rw [h]
    rfl
  · rw [h, decide_eq_true hk, Bool.or_eq_true]
    exact .inr rfl

include hr hc

theorem calComputation_runs : ¬(!(s.calOf k.val).running || (decide (k.val < 16) && !(s.calOf k.val).computing)) = true := by
  rw [hr]
  rcases hc with hc | hc
  · simp [show ¬k.val < 16 by omega]
  · simp [hc]

theorem calComputationEnd_unfit (hp : preCheck s k.val m = false) :
    exec (.calComputationEnd k m) s = .next ((s.discardCalShots k.val).calFail k.val 1) :=
  congrArg Host.Outcome.next ((if_neg (calComputation_runs hr hc)).trans (if_pos (by rw [hp]; rfl)))

variable (hp : preCheck s k.val m = true)
include hp

theorem calComputationEnd_beyond (hb : beyondRange k.val (trimsAsked s k.val m) = true) :
    exec (.calComputationEnd k m) s = .next ((s.discardCalShots k.val).calFail k.val 3) :=
  congrArg Host.Outcome.next ((if_neg (calComputation_runs hr hc)).trans ((if_neg (by rw [hp]; decide)).trans (if_pos hb)))

variable (hb : beyondRange k.val (trimsAsked s k.val m) = false)
include hb

theorem calComputationEnd_bad (hl : lastComp s k.val = true) (hq : qualityBad k.val (calFigures s k.val m) = true) :
    exec (.calComputationEnd k m) s =
      .next (((s.discardCalShots k.val).puti (Obj.CAL_TARGET.QUALITY k.val) (calFigures s k.val m).quality).calFail k.val 2) :=
  congrArg Host.Outcome.next ((if_neg (calComputation_runs hr hc)).trans ((if_neg (by rw [hp]; decide)).trans
    ((if_neg (Bool.eq_false_iff.mp hb)).trans (if_pos (by rw [hl, hq]; rfl)))))

theorem calComputationEnd_done (hl : lastComp s k.val = true) (hq : qualityBad k.val (calFigures s k.val m) = false) :
    exec (.calComputationEnd k m) s = .next ((((s.discardCalShots k.val).giveTrims k.val (trimBytes k.val (trimsAsked s k.val m))).puti
      (Obj.CAL_TARGET.QUALITY k.val) (calFigures s k.val m).quality).calDone k.val m) :=
  congrArg Host.Outcome.next ((if_neg (calComputation_runs hr hc)).trans ((if_neg (by rw [hp]; decide)).trans
    ((if_neg (Bool.eq_false_iff.mp hb)).trans ((if_neg (by rw [hl, hq]; decide)).trans (if_pos hl)))))

theorem calComputationEnd_next (hl : lastComp s k.val = false) :
    exec (.calComputationEnd k m) s = .next ((((s.discardCalShots k.val).giveTrims k.val (trimBytes k.val (trimsAsked s k.val m))).calNext k.val).put
      (Obj.CAL_TARGET.PHASE k.val) (calPhase k.val ((s.calOf k.val).comps + 1))) :=
  congrArg Host.Outcome.next ((if_neg (calComputation_runs hr hc)).trans ((if_neg (by rw [hp]; decide)).trans
    ((if_neg (Bool.eq_false_iff.mp hb)).trans ((if_neg (by rw [hl, Bool.false_and]; decide)).trans (if_neg (by rw [hl]; decide))))))

end

/-- The shots of calibration that are discarded leave the run and the registers. -/
theorem State.discardCalShots_leaves (s : State) (k : Nat) : (s.discardCalShots k).calOf k = s.calOf k ∧ (s.discardCalShots k).blobs = s.blobs ∧
    (s.discardCalShots k).flash = s.flash ∧ (s.discardCalShots k).tdc = s.tdc ∧ ∀ r, (s.discardCalShots k).u r = s.u r := by
  have hwithin := State.discardCalShots_within (Within.refl (runScope []) s) k
  obtain ⟨hblobs, -, hflash, -⟩ := runScope_parts hwithin
  exact ⟨State.calOf_of_cal (s.discardCalShots_cal k).1 k, hblobs, hflash, (s.discardCalShots_cal k).2, fun r => hwithin.reads r rfl⟩

theorem calPhase_lt (k n : Nat) : calPhase k n < 2 ^ 8 := by
  rw [calPhase]
  generalize (if k < 8 then 4 else 8) = c
  split
  · decide
  · split
    · decide
    · decide

/-- The figures that a run keeps at the end of a phase that is not its last. -/
def nextFigures (s : State) (k : Nat) : Int × Bool :=
  if 8 ≤ k ∧ k < 16 ∧ 1 ≤ (s.calOf k).comps then pairFigures s (k % 8) (s.calOf k).records (s.calOf k).comps (s.calOf k)
  else ((s.calOf k).quality, (s.calOf k).within)

theorem State.calNext_within {t : State} {l : List Reg} (h : Within (runScope l) s t) (k : Nat) : Within (runScope l) s (t.calNext k) :=
  h.trans (.part rfl rfl)

theorem State.calNext_run (s : State) : (s.calNext k.val).calOf k.val =
    { s.calOf k.val with comps := (s.calOf k.val).comps + 1, used := 0, records := [], computing := false, quality := (nextFigures s k.val).1,
                         within := (nextFigures s k.val).2 } := by
  rw [State.calNext, State.calOf_modCal_self, nextFigures]

theorem lastComp_false (h : lastComp s k.val = false) : k.val < 16 := by
  by_contra hk
  rw [lastComp, if_neg (by omega), if_neg hk] at h
  cases h

/-! ## Quality (R483) -/

theorem qualityBad_iff (k : Fin 20) (m : CalMeasure) : qualityBad k.val m = true ↔ m.within = false ∨ (k.val < 8 ∧ -700 < m.quality) ∨
    (8 ≤ k.val ∧ k.val < 16 ∧ 10 < m.quality.natAbs) ∨ (k.val = 16 ∧ 300 < m.quality.natAbs) ∨
    (16 < k.val ∧ k.val < 19 ∧ 100 < m.quality.natAbs) ∨ (k.val = 19 ∧ 50 < m.quality.natAbs) := by
  have hk := k.isLt
  rw [qualityBad, Bool.or_eq_true, Bool.not_eq_true']
  refine or_congr_right ?_
  generalize m.quality.natAbs = a
  split_ifs <;> rw [decide_eq_true_eq] <;> omega

end

end Sys2Proof.Machine
end

section
/-! SUPPORT. The statement on calibrations, by its cases (R484 to R493). -/

namespace Sys2Proof
open Machine

section
variable {s : State} {k : Fin 20} {m : CalMeasure}

theorem calStart_begins {t : State} {x : Session} {r : Req} (h : wrote s t x r (0x7810 + k.val) 1 .u8 [1] 2) (hc : calRefusal t k.val = 0)
    (hroom : t.u (Obj.CAL_TARGET.RUNS k.val) + 1 < 2 ^ 32) :
    ∃ u : State, exec (.calStart r k) s = .next (granted u x r) ∧ (u.calOf k.val).running = true ∧ (u.calOf k.val).comps = 0 ∧ (u.calOf k.val).used = 0 ∧
      (u.calOf k.val).records = [] ∧ (u.calOf k.val).started = t.now ∧ (u.calOf k.val).saved = trimsOf t k.val ∧
      (u.calOf k.val).source = t.u (Obj.RX_TRIMS.SOURCE (k.val % 8)) ∧ u.u (Obj.CAL_TARGET.RUNS k.val) = t.u (Obj.CAL_TARGET.RUNS k.val) + 1 ∧
      u.u (Obj.CAL_TARGET.PHASE k.val) = 1 ∧ u.bit Obj.CALIBRATION.FLAGS Bit.CALIBRATION.FLAGS.CAL_RUNNING = true ∧
      regsKept t u [Obj.CAL_TARGET.RUNS k.val, Obj.CAL_TARGET.PHASE k.val, Obj.CALIBRATION.FLAGS] ∧ u.ports = t.ports ∧ u.out = t.out ∧
      (∀ j : Nat, j ≠ k.val → u.calOf j = t.calOf j) := by
  have hrun := calStartEff_run (k := k) t
  have hports : (calStartEff t k.val).ports = t.ports := rfl
  have hout : (calStartEff t k.val).out = t.out := rfl
  refine ⟨calStartEff t k.val, congrArg Host.Outcome.next (start_granted 1 h fun _ => hc), ?_⟩
  rw [hrun]
  exact ⟨rfl, rfl, rfl, rfl, rfl, rfl, rfl, calStartEff_runs t hroom, calStartEff_phase t, calStartEff_flag t, calStartEff_kept t k.val, hports, hout,
    fun j hj => calStartEff_other t hj⟩

theorem calAbort_journalling (hj : (s.calOf k.val).journalling = true)
    (hroom : s.u (Obj.CAL_TARGET.FAILS k.val) + 1 < 2 ^ 32) :
    ∃ t : State, exec (.calTimeout k) s = .next t ∧ s.calAbort k.val = t ∧ t.u (Obj.CAL_TARGET.RESULT k.val) = 4 ∧
      t.u (Obj.CAL_TARGET.FAILS k.val) = s.u (Obj.CAL_TARGET.FAILS k.val) + 1 ∧ t.u (Obj.CAL_TARGET.PHASE k.val) = 0 ∧
      (t.calOf k.val).journalling = false ∧ (t.calOf k.val).carried = false ∧ t.bit Obj.FLASH.PENDING 0 = true ∧
      (k.val < 16 → (t.calOf k.val).newTrims = overTrims (s.calOf k.val).saved (s.calOf k.val).newTrims ∧
        t.u (Obj.RX_TRIMS.SOURCE (k.val % 8)) = (s.calOf k.val).source % 2 ^ 8) ∧
      (∀ b : List Byte, k.val = 16 → (s.calOf 16).saved = [(hiddenTrim 16, b)] → t.tdc.shadow = shadowsOf b ∧ (t.calOf 16).inForce = b) ∧
      t.blobs = s.blobs ∧ t.mem = s.mem ∧ t.flash = s.flash := by
  have habort := calAbort_fails (k := k) (s := s) (.inr hj)
  obtain ⟨hfails, hphase, -⟩ := s.calFail_marks (k := k) 4 hroom
  obtain ⟨hblobs, hmem, hflash, -⟩ := runScope_parts (s.calFail_within_back (k := k) 4)
  have hrun := s.calFail_run (k := k) 4
  obtain ⟨-, hend, hcarried, -, -⟩ := CalRun.ended_run ((s.restored k.val).calOf k.val)
  refine ⟨_, congrArg Host.Outcome.next habort, habort, s.calFail_result 4, hfails, hphase, by rw [hrun, hend], by rw [hrun, hcarried], s.calFail_pending 4 hj,
    fun hk => ⟨s.calFail_receive 4 (.inr hj) hk, s.calFail_source 4 hj hk⟩, fun b hk hb => ?_, hblobs, hmem, hflash⟩
  rw [hk] at hj ⊢
  exact s.calFail_tables 4 hj hb

theorem calAbort_running (hr : (s.calOf k.val).running = true) (hj : (s.calOf k.val).journalling = false)
    (hroom : s.u (Obj.CAL_TARGET.FAILS k.val) + 1 < 2 ^ 32) :
    ∃ t : State, exec (.calTimeout k) s = .next t ∧ s.calAbort k.val = t ∧ t.u (Obj.CAL_TARGET.RESULT k.val) = 4 ∧
      t.u (Obj.CAL_TARGET.FAILS k.val) = s.u (Obj.CAL_TARGET.FAILS k.val) + 1 ∧ t.u (Obj.CAL_TARGET.PHASE k.val) = 0 ∧ (t.calOf k.val).running = false ∧
      ((s.calOf k.val).comps = 0 → t.calOf k.val = { s.calOf k.val with running := false, computing := false, records := [], carried := false }) ∧
      (0 < (s.calOf k.val).comps → k.val < 16 → (t.calOf k.val).newTrims = overTrims (s.calOf k.val).saved (s.calOf k.val).newTrims) ∧
      (k.val < 16 → t.ports[calPort k.val].shots =
        s.ports[calPort k.val].shots.map (fun x => if x.cal ∧ !x.winClosed then { x with relDiscard := true } else x)) ∧
      regsKept s t [Obj.CAL_TARGET.RESULT k.val, Obj.CAL_TARGET.FAILS k.val, Obj.CAL_TARGET.PHASE k.val, Obj.CAL_TARGET.CAL_TIME k.val, Obj.CALIBRATION.FLAGS] ∧
      t.blobs = s.blobs ∧ t.mem = s.mem ∧ t.flash = s.flash := by
  have habort := calAbort_fails (k := k) (s := s) (.inl hr)
  obtain ⟨hfails, hphase, hended⟩ := s.calFail_marks (k := k) 4 hroom
  have hwithin := s.calFail_within (l := failRegs k.val) 4 (s.restored_within hj) fun _ h => h
  obtain ⟨hblobs, hmem, hflash, -⟩ := runScope_parts hwithin
  exact ⟨_, congrArg Host.Outcome.next habort, habort, s.calFail_result 4, hfails, hphase, hended, fun h0 => s.calFail_first 4 h0 hj,
    fun h0 hk => s.calFail_receive 4 (.inl h0) hk, fun hk => s.calFail_shots 4 hk, runScope_kept hwithin, hblobs, hmem, hflash⟩

theorem calComputation_fails {c : Nat} (hr : (s.calOf k.val).running = true) (hc : 16 ≤ k.val ∨ (s.calOf k.val).computing = true)
    (hcode : preCheck s k.val m = false ∧ c = 1 ∨ preCheck s k.val m = true ∧ beyondRange k.val (trimsAsked s k.val m) = true ∧ c = 3)
    (hroom : s.u (Obj.CAL_TARGET.FAILS k.val) + 1 < 2 ^ 32) :
    ∃ t : State, exec (.calComputationEnd k m) s = .next t ∧ t.u (Obj.CAL_TARGET.RESULT k.val) = c ∧
      t.u (Obj.CAL_TARGET.FAILS k.val) = s.u (Obj.CAL_TARGET.FAILS k.val) + 1 ∧ t.u (Obj.CAL_TARGET.PHASE k.val) = 0 ∧ (t.calOf k.val).running = false ∧
      (0 < (s.calOf k.val).comps → k.val < 16 → (t.calOf k.val).newTrims = overTrims (s.calOf k.val).saved (s.calOf k.val).newTrims) ∧
      t.u (Obj.CAL_TARGET.QUALITY k.val) = s.u (Obj.CAL_TARGET.QUALITY k.val) ∧ t.blobs = s.blobs ∧ t.flash = s.flash := by
  have hexec : exec (.calComputationEnd k m) s = .next ((s.discardCalShots k.val).calFail k.val c) := by
    rcases hcode with ⟨hp, rfl⟩ | ⟨hp, hb, rfl⟩
    · exact calComputationEnd_unfit hr hc hp
    · exact calComputationEnd_beyond hr hc hp hb
  have hlt : c % 2 ^ 8 = c := by
    rcases hcode with ⟨-, rfl⟩ | ⟨-, -, rfl⟩
    · rfl
    · rfl
  obtain ⟨hrun, hblobs, hflash, -, hreads⟩ := s.discardCalShots_leaves k.val
  refine ⟨_, hexec, ?_⟩
  generalize s.discardCalShots k.val = v at *
  rw [← hreads, ← hreads, ← hrun, ← hblobs, ← hflash]
  rw [← hreads] at hroom
  obtain ⟨hfails, hphase, hended⟩ := v.calFail_marks (k := k) c hroom
  have hwithin := v.calFail_within_back (k := k) c
  obtain ⟨hblobs, -, hflash, -⟩ := runScope_parts hwithin
  exact ⟨(v.calFail_result c).trans hlt, hfails, hphase, hended, fun h0 hk => v.calFail_receive c (.inl h0) hk,
    runScope_kept hwithin _ (by simp [failRegs, backRegs, Obj.CAL_TARGET.RESULT, Obj.CAL_TARGET.FAILS, Obj.CAL_TARGET.PHASE, Obj.CAL_TARGET.CAL_TIME,
      Obj.CALIBRATION.FLAGS, Obj.RX_TRIMS.SOURCE, Obj.FLASH.PENDING, Obj.CAL_TARGET.QUALITY]; omega), hblobs, hflash⟩

section
variable (hr : (s.calOf k.val).running = true) (hc : 16 ≤ k.val ∨ (s.calOf k.val).computing = true) (hp : preCheck s k.val m = true)
  (hb : beyondRange k.val (trimsAsked s k.val m) = false)
include hr hc hp hb

theorem calComputation_bad (hl : lastComp s k.val = true) (hq : qualityBad k.val (calFigures s k.val m) = true)
    (hlo : -(2 ^ 31) ≤ (calFigures s k.val m).quality) (hhi : (calFigures s k.val m).quality < 2 ^ 31) :
    ∃ t : State, exec (.calComputationEnd k m) s = .next t ∧ t.u (Obj.CAL_TARGET.RESULT k.val) = 2 ∧
      t.i (Obj.CAL_TARGET.QUALITY k.val) = (calFigures s k.val m).quality ∧ (t.calOf k.val).running = false ∧
      (0 < (s.calOf k.val).comps → k.val < 16 → (t.calOf k.val).newTrims = overTrims (s.calOf k.val).saved (s.calOf k.val).newTrims) := by
  obtain ⟨hrun, -⟩ := s.discardCalShots_leaves k.val
  refine ⟨_, calComputationEnd_bad hr hc hp hb hl hq, ?_⟩
  have hquality := State.i_puti_of_range (s.discardCalShots k.val) (Obj.CAL_TARGET.QUALITY k.val) _ rfl hlo hhi
  have hcal : ((s.discardCalShots k.val).puti (Obj.CAL_TARGET.QUALITY k.val) (calFigures s k.val m).quality).calOf k.val = s.calOf k.val := hrun
  generalize (s.discardCalShots k.val).puti (Obj.CAL_TARGET.QUALITY k.val) (calFigures s k.val m).quality = v at *
  rw [← hcal, ← hquality]
  have hkept := runScope_kept (v.calFail_within_back (k := k) 2) (Obj.CAL_TARGET.QUALITY k.val)
    (by simp [failRegs, backRegs, Obj.CAL_TARGET.RESULT, Obj.CAL_TARGET.FAILS, Obj.CAL_TARGET.PHASE, Obj.CAL_TARGET.CAL_TIME,
      Obj.CALIBRATION.FLAGS, Obj.RX_TRIMS.SOURCE, Obj.FLASH.PENDING, Obj.CAL_TARGET.QUALITY]; omega)
  exact ⟨v.calFail_result 2, congrArg (toSigned _) hkept, by rw [v.calFail_run]; rfl, fun h0 hk => v.calFail_receive 2 (.inl h0) hk⟩

theorem calComputation_goes_on (hl : lastComp s k.val = false) :
    ∃ t : State, exec (.calComputationEnd k m) s = .next t ∧ (t.calOf k.val).comps = (s.calOf k.val).comps + 1 ∧ (t.calOf k.val).used = 0 ∧
      (t.calOf k.val).records = [] ∧ (t.calOf k.val).running = true ∧ (t.calOf k.val).computing = false ∧
      (t.calOf k.val).newTrims = overTrims (trimBytes k.val (trimsAsked s k.val m)) (s.calOf k.val).newTrims ∧
      t.u (Obj.CAL_TARGET.PHASE k.val) = calPhase k.val ((s.calOf k.val).comps + 1) ∧ regsKept s t [Obj.CAL_TARGET.PHASE k.val] ∧ t.blobs = s.blobs ∧
      t.ports[calPort k.val].shots = s.ports[calPort k.val].shots.map (fun x => if x.cal ∧ !x.winClosed then { x with relDiscard := true } else x) ∧
      (∀ n : Port, n ≠ calPort k.val → t.ports[n] = s.ports[n]) := by
  have hk := lastComp_false hl
  obtain ⟨hrun, -⟩ := s.discardCalShots_leaves k.val
  refine ⟨_, calComputationEnd_next hr hc hp hb hl, ?_⟩
  generalize trimBytes k.val (trimsAsked s k.val m) = b
  have hwithin : Within (runScope [Obj.CAL_TARGET.PHASE k.val]) s ((((s.discardCalShots k.val).giveTrims k.val b).calNext k.val).put
      (Obj.CAL_TARGET.PHASE k.val) (calPhase k.val ((s.calOf k.val).comps + 1))) :=
    (State.calNext_within (State.giveTrims_within (State.discardCalShots_within (.refl _ s) k.val) k.val b) k.val).put (runScope_regs List.mem_cons_self) _
  have hports : ((((s.discardCalShots k.val).giveTrims k.val b).calNext k.val).put (Obj.CAL_TARGET.PHASE k.val)
      (calPhase k.val ((s.calOf k.val).comps + 1))).ports = (s.discardCalShots k.val).ports := (State.giveTrims_rest _ k.val b).1
  have hshots := s.discardCalShots_self hk
  have hother := fun n hn => s.discardCalShots_other k.val (n := n) hn
  have hnext := ((s.discardCalShots k.val).giveTrims k.val b).calNext_run (k := k)
  rw [State.giveTrims_receive _ b hk, hrun] at hnext
  obtain ⟨hblobs, -⟩ := runScope_parts hwithin
  have hphase := State.u_put_of_lt (((s.discardCalShots k.val).giveTrims k.val b).calNext k.val) (Obj.CAL_TARGET.PHASE k.val) _
    (calPhase_lt k.val ((s.calOf k.val).comps + 1))
  have hcal : ((((s.discardCalShots k.val).giveTrims k.val b).calNext k.val).put (Obj.CAL_TARGET.PHASE k.val)
      (calPhase k.val ((s.calOf k.val).comps + 1))).calOf k.val = (((s.discardCalShots k.val).giveTrims k.val b).calNext k.val).calOf k.val := rfl
  rw [hports, hcal, hnext, hshots]
  exact ⟨rfl, rfl, rfl, hr, rfl, rfl, hphase, runScope_kept hwithin, hblobs, rfl, hother⟩

theorem calComputation_done (hl : lastComp s k.val = true) (hq : qualityBad k.val (calFigures s k.val m) = false)
    (hlo : -(2 ^ 31) ≤ (calFigures s k.val m).quality) (hhi : (calFigures s k.val m).quality < 2 ^ 31) :
    ∃ t : State, exec (.calComputationEnd k m) s = .next t ∧ t.i (Obj.CAL_TARGET.QUALITY k.val) = (calFigures s k.val m).quality ∧ (t.calOf k.val).running = false ∧
      (t.calOf k.val).journalling = true ∧ t.u (Obj.CAL_TARGET.PHASE k.val) = 4 ∧ t.bit Obj.FLASH.PENDING 0 = true ∧
      t.bit Obj.CALIBRATION.FLAGS Bit.CALIBRATION.FLAGS.CAL_RUNNING = true ∧
      (k.val = 16 → t.tdc.shadow = shadowsOf m.tables ∧ t.tdc.tables = s.tdc.tables) ∧
      (k.val < 16 → t.u (Obj.RX_TRIMS.SOURCE (k.val % 8)) = 2 ∧
        (t.calOf k.val).newTrims = overTrims (trimBytes k.val (trimsAsked s k.val m)) (s.calOf k.val).newTrims) ∧
      t.u (Obj.CAL_TARGET.FAILS k.val) = s.u (Obj.CAL_TARGET.FAILS k.val) := by
  obtain ⟨hrun, -, -, htdc, hreads⟩ := s.discardCalShots_leaves k.val
  refine ⟨_, calComputationEnd_done hr hc hp hb hl hq, ?_⟩
  generalize trimBytes k.val (trimsAsked s k.val m) = b
  obtain ⟨-, htdc', hregs'⟩ := (s.discardCalShots k.val).giveTrims_rest k.val b
  have htrims := fun hk => (s.discardCalShots k.val).giveTrims_receive (k := k) b hk
  have hgiven := htdc'.trans htdc
  have hgivenReads : ∀ r, ((s.discardCalShots k.val).giveTrims k.val b).u r = s.u r := fun r => (State.u_of_regs hregs' r).trans (hreads r)
  rw [hrun] at htrims
  generalize (s.discardCalShots k.val).giveTrims k.val b = w at *
  have hquality := State.i_puti_of_range w (Obj.CAL_TARGET.QUALITY k.val) _ rfl hlo hhi
  have hfails : (w.puti (Obj.CAL_TARGET.QUALITY k.val) (calFigures s k.val m).quality).u (Obj.CAL_TARGET.FAILS k.val) = s.u (Obj.CAL_TARGET.FAILS k.val) :=
    (State.u_put_ne _ _ _ _ (by simp only [Obj.CAL_TARGET.QUALITY, Obj.CAL_TARGET.FAILS]; omega)).trans (hgivenReads _)
  have hcal : (w.puti (Obj.CAL_TARGET.QUALITY k.val) (calFigures s k.val m).quality).calOf k.val = w.calOf k.val := rfl
  have hv : (w.puti (Obj.CAL_TARGET.QUALITY k.val) (calFigures s k.val m).quality).tdc = s.tdc := hgiven
  generalize w.puti (Obj.CAL_TARGET.QUALITY k.val) (calFigures s k.val m).quality = v at *
  have hkept := calDone_kept (k := k) v m
  have hdone := calDone_run (k := k) v m
  refine ⟨?_, by rw [hdone]; rfl, by rw [hdone]; rfl, calDone_phase v m, calDone_pending v m, calDone_flag v m, fun hk => ?_, fun hk => ⟨calDone_source v m hk, ?_⟩, ?_⟩
  · rw [← hquality]
    exact congrArg (toSigned _) (hkept _ (by simp [resultRegs, endRegs, backRegs, Obj.CAL_TARGET.PHASE, Obj.CAL_TARGET.CAL_TIME,
      Obj.CALIBRATION.FLAGS, Obj.RX_TRIMS.SOURCE, Obj.FLASH.PENDING, Obj.CAL_TARGET.QUALITY]; omega))
  · rw [calDone_tdc, State.resultOf, if_pos hk]
    have htables : v.tdc.tables = s.tdc.tables := by rw [hv]
    exact ⟨rfl, htables⟩
  · rw [hdone, hcal, htrims hk]
    rfl
  · exact (hkept _ (by simp [resultRegs, endRegs, backRegs, Obj.CAL_TARGET.PHASE, Obj.CAL_TARGET.CAL_TIME,
      Obj.CALIBRATION.FLAGS, Obj.RX_TRIMS.SOURCE, Obj.FLASH.PENDING, Obj.CAL_TARGET.FAILS]; omega)).trans hfails

end

/-! ## What starts of itself, and the tables of the TDC (R491, R493) -/

theorem calAutoStart_starts (ha : s.bit Obj.CALIBRATION.AUTO_EN (autoBit k.val) = true) (hd : calDue s k.val = true ∨ untrimmed s k.val = true)
    (hc : calRefusal s k.val = 0) : exec (.calAutoStart k) s = .next (calStartEff s k.val) :=
  congrArg Host.Outcome.next (if_pos (by rw [ha, hc, Bool.and_eq_true, Bool.and_eq_true, Bool.or_eq_true]; exact ⟨⟨rfl, hd⟩, rfl⟩))

theorem calAutoStart_waits (h : s.bit Obj.CALIBRATION.AUTO_EN (autoBit k.val) = false ∨ (calDue s k.val = false ∧ untrimmed s k.val = false) ∨
    calRefusal s k.val ≠ 0) : exec (.calAutoStart k) s = .next s := by
  refine congrArg Host.Outcome.next (if_neg ?_)
  rw [Bool.and_eq_true, Bool.and_eq_true, Bool.or_eq_true, beq_iff_eq]
  rintro ⟨⟨ha, hd⟩, hc⟩
  rcases h with h | ⟨hn, hu⟩ | h
  · rw [h] at ha
    cases ha
  · rw [hn, hu] at hd
    exact hd.elim Bool.false_ne_true Bool.false_ne_true
  · exact h hc

theorem tdcShadowSwap_none (h : s.tdc.shadow = []) : exec .tdcShadowSwap s = .next s := by
  refine congrArg Host.Outcome.next ?_
  rw [h]

theorem tdcShadowSwap_swaps {c : Fin 21} {b : List Byte} {l : List (Fin 21 × List Byte)} (h : s.tdc.shadow = (c, b) :: l) :
    ∃ t : State, exec .tdcShadowSwap s = .next t ∧ t.tdc.tables[c] = b ∧ t.tdc.shadow = l ∧ (∀ d : Fin 21, d ≠ c → t.tdc.tables[d] = s.tdc.tables[d]) ∧
      t = { s with tdc := t.tdc } := by
  have hexec : exec .tdcShadowSwap s = .next { s with tdc := { s.tdc with tables := s.tdc.tables.set c b, shadow := l } } := by
    refine congrArg Host.Outcome.next ?_
    rw [h]
  refine ⟨_, hexec, ?_, rfl, fun d hd => ?_, rfl⟩
  · simp
  · have hne : c.val ≠ d.val := fun e => hd (Fin.ext e.symm)
    simp [hne]

end

/-- Settles O49: START through the checks of a write, a run's end through the trims that are restored first, a computation by its outcome. -/
theorem calibrations : Obligations.Calibrations := by
  unfold Obligations.Calibrations
  refine ⟨fun s t x r k h => ⟨calStart_refused h, calStart_begins h⟩,
    fun s k => ⟨fun h => calRefusal_coasting h k.val, calRefusal_local, fun hk h => calRefusal_range hk (.inr h), fun hk h => calRefusal_range hk (.inl h)⟩,
    fun s t x r k h => congrArg Host.Outcome.next (start_granted 0 h fun h0 => absurd h0 (by decide)),
    fun s k hr => ⟨fun m => calComputationEnd_idle (.inl hr), fun hj => ⟨congrArg Host.Outcome.next (calBusy_false hr hj), calBusy_false hr hj⟩⟩,
    fun s k _ => calAbort_journalling, fun s k => calAbort_running, fun s k m hk hc => calComputationEnd_idle (.inr ⟨hk, hc⟩),
    fun s k m c => calComputation_fails, fun s k m => calComputation_bad, fun s k m => ⟨fun h8 h16 => ?_, fun hk => ?_⟩,
    fun s k m => calComputation_goes_on, fun s k m => calComputation_done, qualityBad_iff, fun s k => ⟨calAutoStart_starts, calAutoStart_waits⟩,
    fun s => tdcShadowSwap_none, fun s c b l => tdcShadowSwap_swaps⟩
  · rw [calFigures, if_neg (by omega), if_pos h16]
    exact ⟨rfl, rfl⟩
  · rw [calFigures, if_neg (by omega), if_neg (by omega)]

end Sys2Proof
end

section
/-! SUPPORT. APPLYs that an entry of the day book leaves pending, loops that follow their sources, and the readings of the sensor front end
(R387, R413, R467, R471; Machine/Plant.lean). -/

namespace Sys2Proof.Machine

/-! ## What waits for its boundary while entries are made (R387, R413) -/

section
variable {s t : State} {g : Nat}

theorem isApplying_of_applying (h : t.ledger.applying = s.ledger.applying) (g : Nat) : t.isApplying g = s.isApplying g := by
  rw [State.isApplying, State.isApplying, h]

theorem State.overtake_ledger (s : State) (gone : Item → Bool) : (s.overtake gone).ledger = s.ledger := by
  refine overAll_induct (P := fun t => t.ledger = s.ledger) (fun t k ht => ?_) s rfl
  dsimp only
  split
  · exact ht
  · split
    · exact ht
    · exact ht

theorem State.logRaw_applying (s : State) (e : Ev) : (s.logRaw e).ledger.applying = s.ledger.applying := by
  have hite : ∀ (p : Prop) [Decidable p] (v w : State), v.ledger.applying = s.ledger.applying → w.ledger.applying = s.ledger.applying →
      (if p then v else w).ledger.applying = s.ledger.applying := fun p _ v w hv hw => by
    split
    · exact hv
    · exact hw
  have hcells : ∀ v : State, v.ledger.applying = s.ledger.applying → v.flushCells.ledger.applying = s.ledger.applying := fun v hv => hite _ v _ hv hv
  have hcut : ∀ (p : Prop) [Decidable p] (v : State) (gone : Item → Bool) (a b : Nat), v.ledger.applying = s.ledger.applying →
      (((if p then v else v.overtake gone).put Obj.DAYBOOK.HELD a).put Obj.DAYBOOK.HEAD b).ledger.applying = s.ledger.applying := fun p _ v gone a b hv =>
    hite p v (v.overtake gone) hv ((congrArg LedgerPart.applying (v.overtake_ledger gone)).trans hv)
  rw [State.logRaw]
  refine hite _ (s.bump Obj.DAYBOOK.DROPPED) _ rfl ?_
  refine hite _ (State.setBit _ _ _) _ ?_ ?_
  · exact hcells _ (hcut _ _ _ _ _ rfl)
  · exact hcells _ (hcut _ _ _ _ _ rfl)

theorem State.readBook_ledger (s : State) : s.readBook.ledger = s.ledger := by
  refine foldl_keeps (P := fun t => t.ledger = s.ledger) (fun t e ht => ?_) s.book.unread rfl
  refine overAll_induct (P := fun t => t.ledger = s.ledger) (fun t k ht => ?_) t ht
  split
  · exact ht
  · exact ht

theorem State.settleBook_isApplying (s : State) (hg : g ≠ 0x7F00) : s.settleBook.isApplying g = s.isApplying g := by
  rw [State.settleBook]
  split
  · have hmirror : ∀ v : State, v.mirrorCommit 0x7F00 = v := fun v => if_neg (by simp [mirrored])
    rw [State.commitRaw, State.isApplying, State.logRaw_applying, hmirror, State.isApplying, Bool.eq_iff_iff, List.any_eq_true, List.any_eq_true]
    refine exists_congr fun a => ?_
    rw [beq_iff_eq]
    refine and_congr_left fun ha => ?_
    have hkept : (a.index != 0x7F00) = true := by rw [ha]; exact bne_iff_ne.mpr hg
    rw [List.mem_filter]
    exact and_iff_left hkept
  · rfl

/-- An entry leaves the APPLY of another group pending, or not. -/
theorem State.log_isApplying (s : State) (e : Ev) (hg : g ≠ 0x7F00) : (s.log e).isApplying g = s.isApplying g := by
  rw [State.log, isApplying_of_applying (congrArg LedgerPart.applying (State.readBook_ledger _)) g, State.settleBook_isApplying _ hg,
    isApplying_of_applying (s.logRaw_applying e) g]

theorem State.logFlag_isApplying (s : State) (r : Reg) (b sub inst : Nat) (x fault : Bool) (hg : g ≠ 0x7F00) :
    (s.logFlag r b x sub inst fault).isApplying g = s.isApplying g := by
  rw [State.logFlag]
  split
  · rfl
  · exact State.log_isApplying _ _ hg

/-- The commit of a group that is not mirrored changes the book, its readers, what was staged, and registers. -/
theorem State.commit_rest (s : State) (hm : ∀ v, mirrored v g = false) : bookScope.blank (s.commit g) = bookScope.blank s := by
  have hmirror : ∀ v : State, v.mirrorCommit g = v := fun v => if_neg (by rw [hm]; simp)
  have hraw : bookScope.blank (s.commitRaw g) = bookScope.blank s := by
    rw [State.commitRaw, hmirror]
    exact (State.logRaw_within (.refl bookScope _) _).parts
  exact (State.readBook_within (State.settleBook_within (.refl bookScope _))).parts.trans hraw

theorem State.commitIf_rest (s : State) (hm : ∀ v, mirrored v g = false) : bookScope.blank (s.commitIf g) = bookScope.blank s := by
  rw [State.commitIf]
  split
  · exact s.commit_rest hm
  · rfl

end

/-! ## Loops (R471, R472) -/

/-- The loops and their group's registers. -/
def loopScope : Scope where
  blank s := { s with regs := [], plant := { s.plant with loops := Vector.replicate 8 {} } }
  regs k := k / 256 == 0x7100
  blind _ _ := rfl

section
variable {s t : State} {c : Fin 8}

/-- A register of the loops' group. -/
theorem loopReg {k : Nat} (h0 : 0x7100 * 256 ≤ k) (h1 : k < 0x7101 * 256) : (k / 256 == 0x7100) = true := by
  rw [beq_iff_eq]
  omega

theorem loopScope_set (o : Fin 8) : loopScope.regs (Obj.LOOP.I_SET o).key = true := loopReg (by simp only [Obj.LOOP.I_SET]; omega) (by simp only [Obj.LOOP.I_SET]; omega)

theorem loopScope_stat (o : Fin 8) : loopScope.regs (Obj.LOOP.LSTAT o).key = true := loopReg (by simp only [Obj.LOOP.LSTAT]; omega) (by simp only [Obj.LOOP.LSTAT]; omega)

theorem loopScope_trips (o : Fin 8) : loopScope.regs (Obj.LOOP.TRIPS o).key = true := loopReg (by simp only [Obj.LOOP.TRIPS]; omega) (by simp only [Obj.LOOP.TRIPS]; omega)

theorem State.modLoop_within (h : Within loopScope s t) (o : Fin 8) (f : LoopPart → LoopPart) : Within loopScope s (t.modLoop o f) := h.trans (.part rfl rfl)

theorem State.loopTrip_within (h : Within loopScope s t) (o : Fin 8) : Within loopScope s (t.loopTrip o) := by
  have hcount : Within loopScope s (if t.bit (Obj.LOOP.LSTAT o) Bit.LOOP.LSTAT.FAULT_LEVEL then t else t.bump (Obj.LOOP.TRIPS o)) :=
    Within.ite (fun _ => h) fun _ => h.bump (loopScope_trips o)
  exact (hcount.put (loopScope_set o) _).putBit (loopScope_stat o) _ _

theorem State.loopGood_within (h : Within loopScope s t) (o : Fin 8) (ua : Nat) : Within loopScope s (t.loopGood o ua) :=
  ((State.modLoop_within h o _).put (loopScope_set o) _).putBit (loopScope_stat o) _ _

theorem State.loopFollow_within (h : Within loopScope s t) (o : Fin 8) : Within loopScope s (t.loopFollow o) := by
  rw [State.loopFollow]
  refine Within.ite (fun _ => (h.put (loopScope_set o) _).putBit (loopScope_stat o) _ _) fun _ => ?_
  refine Within.ite (fun _ => Within.ite (fun _ => State.loopTrip_within h o) fun _ => h) fun _ => ?_
  refine Within.ite (fun _ => State.loopGood_within h o _) fun _ => ?_
  split
  · exact h
  · exact State.loopTrip_within h o
  · exact State.loopGood_within h o _

theorem State.loopsFollow_within (h : Within loopScope s t) : Within loopScope s t.loopsFollow := h.overAll fun _ o hv => State.loopFollow_within hv o

theorem State.loopsOfChannel_within (h : Within loopScope s t) (c : Fin 8) : Within loopScope s (t.loopsOfChannel c) :=
  h.overAll fun _ o hv => Within.ite (fun _ => State.loopFollow_within (State.modLoop_within hv o _) o) fun _ => hv

/-- The parts of State outside the loops' scope. -/
theorem loopScope_parts (h : Within loopScope s t) : t.plant.sfe = s.plant.sfe ∧ t.plant.pair = s.plant.pair ∧ t.plant.cycle = s.plant.cycle ∧
    t.plant.failRun = s.plant.failRun ∧ t.plant.passRun = s.plant.passRun ∧ t.mem = s.mem ∧ t.ledger = s.ledger ∧ t.out = s.out :=
  ⟨congrArg (fun v => v.plant.sfe) h.parts, congrArg (fun v => v.plant.pair) h.parts, congrArg (fun v => v.plant.cycle) h.parts,
    congrArg (fun v => v.plant.failRun) h.parts, congrArg (fun v => v.plant.passRun) h.parts, congrArg (fun v => v.mem) h.parts,
    congrArg (fun v => v.ledger) h.parts, congrArg (fun v => v.out) h.parts⟩

/-! ## A channel's part -/

@[simp] theorem State.modSfe_self (s : State) (c : Fin 8) (f : SfeChannel → SfeChannel) : (s.modSfe c f).plant.sfe[c] = f s.plant.sfe[c] := by
  simp [State.modSfe]

theorem State.modSfe_other (s : State) (c d : Fin 8) (f : SfeChannel → SfeChannel) (h : d ≠ c) : (s.modSfe c f).plant.sfe[d] = s.plant.sfe[d] := by
  have hne : c.val ≠ d.val := fun e => h (Fin.ext e.symm)
  simp [State.modSfe, hne]

theorem State.modSfe_id (s : State) (c : Fin 8) (f : SfeChannel → SfeChannel) (h : f s.plant.sfe[c] = s.plant.sfe[c]) : s.modSfe c f = s := by
  rw [State.modSfe, h]
  simp

/-! ## A reading (R467, R469) -/

/-- The registers of a reading. -/
def State.read (s : State) (c : Fin 8) (code value res : Nat) (stamp : Stamp) (flags : Nat) : State :=
  let t := (((s.put (Obj.SFE.VALUE c) (if code = 0 then value else 0x80000000 + code)).put (Obj.SFE.RES c) res).put (Obj.SFE.STAMP c)
    (epochVal stamp)).put (Obj.SFE.CSTAT c) (code * 256 + flags)
  if code = 0 then t else t.bump (Obj.SFE.FAULTS c)

/-- What a reading may change beside its own registers: the book and its readers, and the loops. -/
def readingScope : Scope where
  blank s := loopScope.blank (bookScope.blank s)
  regs k := bookReg k || loopScope.regs k
  blind _ _ := rfl

/-- A channel with a result in the cycle at hand. -/
def SfeChannel.read (x : SfeChannel) : SfeChannel := { x with hasResult := true, taken := true }

theorem readingScope_log (s : State) (e : Ev) (c : Fin 8) (f : SfeChannel → SfeChannel) : Within readingScope (s.modSfe c f) ((s.log e).modSfe c f) := by
  have hparts := congrArg (fun v => readingScope.blank (State.modSfe v c f)) (s.log_rest e)
  exact ⟨hparts, fun r hr => s.u_log e (Bool.or_eq_false_iff.mp hr).1⟩

theorem readingScope_comm (v : State) : loopScope.blank (bookScope.blank v) = bookScope.blank (loopScope.blank v) := rfl

theorem readingScope_loops {t : State} (h : Within loopScope s t) : Within readingScope s t := by
  refine ⟨?_, fun r hr => h.reads r (Bool.or_eq_false_iff.mp hr).2⟩
  rw [readingScope, readingScope_comm, readingScope_comm, h.parts]

/-- Whether a reading's entry is made: the channel's fault comes or goes (R469). -/
def State.readLogged (t s : State) (c : Fin 8) (code : Nat) : State :=
  if decide (sfeFault s c = 0) = decide (code = 0) then t
  else t.log { cls := 0, sub := 20, inst := c, index := 0x7000, osub := 0x48 + c, detail := t.u (Obj.SFE.CSTAT c) }

theorem putReading_eq (s : State) (c : Fin 8) (code value res : Nat) (stamp : Stamp) (flags : Nat) : s.putReading c code value res stamp flags =
    (((s.read c code value res stamp flags).readLogged s c code).modSfe c SfeChannel.read).loopsOfChannel c := rfl

/-- A reading's registers and its channel, then what follows from them. -/
theorem State.putReading_within (s : State) (c : Fin 8) (code value res : Nat) (stamp : Stamp) (flags : Nat) :
    Within readingScope ((s.read c code value res stamp flags).modSfe c SfeChannel.read) (s.putReading c code value res stamp flags) := by
  rw [putReading_eq]
  generalize s.read c code value res stamp flags = v
  refine Within.trans ?_ (readingScope_loops (State.loopsOfChannel_within (.refl _ _) c))
  rw [State.readLogged]
  split
  · exact .refl _ _
  · exact readingScope_log _ _ c _

end

end Sys2Proof.Machine
end

section
/-! SUPPORT. Readings, conversions and the cycle of the sensor front end (R461 to R469; Machine/Plant.lean). -/

namespace Sys2Proof.Machine

section
variable {s t : State} {c : Fin 8} {code value res flags : Nat} {stamp : Stamp}

/-! ## The registers of a reading -/

/-- The registers that a reading writes. -/
def readRegs (c : Nat) : List Reg := [Obj.SFE.VALUE c, Obj.SFE.RES c, Obj.SFE.STAMP c, Obj.SFE.CSTAT c, Obj.SFE.FAULTS c]

theorem State.read_kept (s : State) (c : Fin 8) (code value res : Nat) (stamp : Stamp) (flags : Nat) :
    regsKept s (s.read c code value res stamp flags) (readRegs c) := by
  have hput : regsKept s ((((s.put (Obj.SFE.VALUE c) (if code = 0 then value else 0x80000000 + code)).put (Obj.SFE.RES c) res).put (Obj.SFE.STAMP c)
      (epochVal stamp)).put (Obj.SFE.CSTAT c) (code * 256 + flags)) (readRegs c) :=
    ((((regsKept.refl s _).put (by simp [readRegs]) _).put (by simp [readRegs]) _).put (by simp [readRegs]) _).put (by simp [readRegs]) _
  rw [State.read]
  generalize (if code = 0 then value else 0x80000000 + code) = v at *
  split
  · exact hput
  · exact hput.put (r := Obj.SFE.FAULTS c) (by simp [readRegs]) _

/-- Before FAULTS counts, a reading's registers stand as put. -/
theorem State.read_regs (s : State) (c : Fin 8) (code value res : Nat) (stamp : Stamp) (flags : Nat) :
    (s.read c code value res stamp flags).u (Obj.SFE.VALUE c) = (if code = 0 then value else 0x80000000 + code) % 2 ^ 32 ∧
    (s.read c code value res stamp flags).u (Obj.SFE.RES c) = res % 2 ^ 32 ∧
    (s.read c code value res stamp flags).u (Obj.SFE.STAMP c) = epochVal stamp % 2 ^ (Obj.SFE.STAMP c).width ∧
    (s.read c code value res stamp flags).u (Obj.SFE.CSTAT c) = (code * 256 + flags) % 2 ^ 16 := by
  have hcount : ∀ (v : State) (r : Reg), (Obj.SFE.FAULTS c).key ≠ r.key → (if code = 0 then v else v.bump (Obj.SFE.FAULTS c)).u r = v.u r := fun v r hr => by
    split
    · rfl
    · exact State.u_put_ne _ _ _ _ hr
  simp only [State.read]
  refine ⟨?_, ?_, ?_, ?_⟩
  · rw [hcount _ _ (by simp only [Obj.SFE.FAULTS, Obj.SFE.VALUE]; omega), State.u_put_ne _ _ _ _ (by simp only [Obj.SFE.CSTAT, Obj.SFE.VALUE]; omega),
      State.u_put_ne _ _ _ _ (by simp only [Obj.SFE.STAMP, Obj.SFE.VALUE]; omega), State.u_put_ne _ _ _ _ (by simp only [Obj.SFE.RES, Obj.SFE.VALUE]; omega),
      State.u_put_self]
    rfl
  · rw [hcount _ _ (by simp only [Obj.SFE.FAULTS, Obj.SFE.RES]; omega), State.u_put_ne _ _ _ _ (by simp only [Obj.SFE.CSTAT, Obj.SFE.RES]; omega),
      State.u_put_ne _ _ _ _ (by simp only [Obj.SFE.STAMP, Obj.SFE.RES]; omega), State.u_put_self]
    rfl
  · rw [hcount _ _ (by simp only [Obj.SFE.FAULTS, Obj.SFE.STAMP]; omega), State.u_put_ne _ _ _ _ (by simp only [Obj.SFE.CSTAT, Obj.SFE.STAMP]; omega),
      State.u_put_self]
  · rw [hcount _ _ (by simp only [Obj.SFE.FAULTS, Obj.SFE.CSTAT]; omega), State.u_put_self]
    rfl

theorem State.read_faults (s : State) (hc : code ≠ 0) (h : s.u (Obj.SFE.FAULTS c) + 1 < 2 ^ 32) :
    (s.read c code value res stamp flags).u (Obj.SFE.FAULTS c) = s.u (Obj.SFE.FAULTS c) + 1 := by
  have hbefore : ((((s.put (Obj.SFE.VALUE c) (if code = 0 then value else 0x80000000 + code)).put (Obj.SFE.RES c) res).put (Obj.SFE.STAMP c)
      (epochVal stamp)).put (Obj.SFE.CSTAT c) (code * 256 + flags)).u (Obj.SFE.FAULTS c) = s.u (Obj.SFE.FAULTS c) := by
    rw [State.u_put_ne _ _ _ _ (by simp only [Obj.SFE.CSTAT, Obj.SFE.FAULTS]; omega), State.u_put_ne _ _ _ _ (by simp only [Obj.SFE.STAMP, Obj.SFE.FAULTS]; omega),
      State.u_put_ne _ _ _ _ (by simp only [Obj.SFE.RES, Obj.SFE.FAULTS]; omega), State.u_put_ne _ _ _ _ (by simp only [Obj.SFE.VALUE, Obj.SFE.FAULTS]; omega)]
  rw [State.read]
  simp only [if_neg hc] at hbefore ⊢
  rw [State.u_bump_self _ _ (by rw [hbefore]; exact h), hbefore]

/-- A register of the sensor front end. -/
theorem sfeReg {k : Nat} (h0 : 0x7000 * 256 ≤ k) (h1 : k < 0x7001 * 256) : readingScope.regs k = false := by
  have hidx : k / 256 = 0x7000 := by omega
  simp only [readingScope, bookReg, loopScope, hidx, Bool.or_eq_false_iff, beq_eq_false_iff_ne]
  refine ⟨⟨⟨⟨by decide, by decide⟩, ?_⟩, ?_⟩, by decide⟩
  · simp only [Obj.CAPTURE.STORE_LOST]
    omega
  · simp only [Obj.FLASH.PENDING]
    omega

/-- What a reading leaves a register of the front end with. -/
theorem State.putReading_u (s : State) (c : Fin 8) (code value res : Nat) (stamp : Stamp) (flags : Nat) {r : Reg} (h0 : 0x7000 * 256 ≤ r.key)
    (h1 : r.key < 0x7001 * 256) : (s.putReading c code value res stamp flags).u r = (s.read c code value res stamp flags).u r :=
  (s.putReading_within c code value res stamp flags).reads r (sfeReg h0 h1)

theorem State.putReading_other (s : State) (c : Fin 8) (code value res : Nat) (stamp : Stamp) (flags : Nat) {r : Reg} (h0 : 0x7000 * 256 ≤ r.key)
    (h1 : r.key < 0x7001 * 256) (hr : ∀ x ∈ readRegs c, x.key ≠ r.key) : (s.putReading c code value res stamp flags).u r = s.u r :=
  (s.putReading_u c code value res stamp flags h0 h1).trans (s.read_kept c code value res stamp flags r hr)

/-- A reading's registers, with a code of one byte and flags of one byte. -/
theorem State.putReading_regs (s : State) (c : Fin 8) (code value res : Nat) (stamp : Stamp) (flags : Nat) (hc : code < 256) (hf : flags < 256) :
    (s.putReading c code value res stamp flags).u (Obj.SFE.VALUE c) = (if code = 0 then value else 0x80000000 + code) % 2 ^ 32 ∧
    (s.putReading c code value res stamp flags).u (Obj.SFE.RES c) = res % 2 ^ 32 ∧
    (s.putReading c code value res stamp flags).u (Obj.SFE.STAMP c) = epochVal stamp % 2 ^ (Obj.SFE.STAMP c).width ∧
    (s.putReading c code value res stamp flags).u (Obj.SFE.CSTAT c) = code * 256 + flags ∧
    sfeFault (s.putReading c code value res stamp flags) c.val = code := by
  obtain ⟨hvalue, hres, hstamp, hstat⟩ := s.read_regs c code value res stamp flags
  have hput := fun (r : Reg) (h0 : 0x7000 * 256 ≤ r.key) (h1 : r.key < 0x7001 * 256) => s.putReading_u c code value res stamp flags h0 h1
  rw [Nat.mod_eq_of_lt (by omega)] at hstat
  have hstat' := (hput (Obj.SFE.CSTAT c) (by simp only [Obj.SFE.CSTAT]; omega) (by simp only [Obj.SFE.CSTAT]; omega)).trans hstat
  refine ⟨(hput _ ?_ ?_).trans hvalue, (hput _ ?_ ?_).trans hres, (hput _ ?_ ?_).trans hstamp, hstat', ?_⟩
  · simp only [Obj.SFE.VALUE]; omega
  · simp only [Obj.SFE.VALUE]; omega
  · simp only [Obj.SFE.RES]; omega
  · simp only [Obj.SFE.RES]; omega
  · simp only [Obj.SFE.STAMP]; omega
  · simp only [Obj.SFE.STAMP]; omega
  · rw [sfeFault, hstat']
    omega

theorem State.putReading_faults (s : State) (hc : code ≠ 0) (h : s.u (Obj.SFE.FAULTS c) + 1 < 2 ^ 32) :
    (s.putReading c code value res stamp flags).u (Obj.SFE.FAULTS c) = s.u (Obj.SFE.FAULTS c) + 1 :=
  (s.putReading_u c code value res stamp flags (by simp only [Obj.SFE.FAULTS]; omega) (by simp only [Obj.SFE.FAULTS]; omega)).trans (s.read_faults hc h)

/-- The parts of State that a reading leaves, and its channel. -/
theorem readingScope_parts (h : Within readingScope s t) : t.plant.sfe = s.plant.sfe ∧ t.plant.pair = s.plant.pair ∧ t.plant.cycle = s.plant.cycle ∧
    t.plant.failRun = s.plant.failRun ∧ t.plant.passRun = s.plant.passRun ∧ t.plant.live = s.plant.live ∧ t.mem = s.mem :=
  ⟨congrArg (fun v => v.plant.sfe) h.parts, congrArg (fun v => v.plant.pair) h.parts, congrArg (fun v => v.plant.cycle) h.parts,
    congrArg (fun v => v.plant.failRun) h.parts, congrArg (fun v => v.plant.passRun) h.parts, congrArg (fun v => v.plant.live) h.parts,
    congrArg (fun v => v.mem) h.parts⟩

theorem State.read_parts (s : State) (c : Fin 8) (code value res : Nat) (stamp : Stamp) (flags : Nat) :
    (s.read c code value res stamp flags).plant = s.plant ∧ (s.read c code value res stamp flags).mem = s.mem := by
  rw [State.read]
  split
  · exact ⟨rfl, rfl⟩
  · exact ⟨rfl, rfl⟩

theorem State.putReading_parts (s : State) (c : Fin 8) (code value res : Nat) (stamp : Stamp) (flags : Nat) :
    (s.putReading c code value res stamp flags).plant.sfe = (s.modSfe c SfeChannel.read).plant.sfe ∧
    (s.putReading c code value res stamp flags).plant.pair = s.plant.pair ∧ (s.putReading c code value res stamp flags).plant.cycle = s.plant.cycle ∧
    (s.putReading c code value res stamp flags).plant.failRun = s.plant.failRun ∧
    (s.putReading c code value res stamp flags).plant.passRun = s.plant.passRun ∧
    (s.putReading c code value res stamp flags).plant.live = s.plant.live ∧ (s.putReading c code value res stamp flags).mem = s.mem := by
  have h := s.putReading_within c code value res stamp flags
  obtain ⟨hplant, hmem⟩ := s.read_parts c code value res stamp flags
  generalize s.putReading c code value res stamp flags = t at *
  generalize s.read c code value res stamp flags = v at *
  obtain ⟨hsfe, hpair, hcycle, hfail, hpass, hlive, hmem'⟩ := readingScope_parts h
  rw [hsfe, hpair, hcycle, hfail, hpass, hlive, hmem', State.modSfe, State.modSfe, hplant]
  exact ⟨rfl, rfl, rfl, rfl, rfl, rfl, hmem⟩

theorem State.putReading_isApplying (s : State) (c : Fin 8) (code value res : Nat) (stamp : Stamp) (flags : Nat) {g : Nat} (hg : g ≠ 0x7F00) :
    (s.putReading c code value res stamp flags).isApplying g = s.isApplying g := by
  have hread : (s.read c code value res stamp flags).isApplying g = s.isApplying g := by
    rw [State.read]
    split
    · rfl
    · rfl
  have hlogged : ((s.read c code value res stamp flags).readLogged s c code).isApplying g = s.isApplying g := by
    rw [State.readLogged]
    split
    · exact hread
    · exact (State.log_isApplying _ _ hg).trans hread
  rw [putReading_eq]
  generalize (s.read c code value res stamp flags).readLogged s c code = v at *
  obtain ⟨-, -, -, -, -, -, hledger, -⟩ := loopScope_parts (State.loopsOfChannel_within (.refl loopScope (v.modSfe c SfeChannel.read)) c)
  exact (isApplying_of_applying (congrArg LedgerPart.applying hledger) g).trans hlogged

/-! ## CSTAT (R467) -/

theorem sfeFlags_lt {step : Nat} (h : step < 8) (s : State) (chop rep : Bool) : sfeFlags s step chop rep < 256 := by
  rw [sfeFlags]
  cases chop <;> cases rep <;> cases s.u Obj.SFE.CONV_MODE == 1 <;> simp only [bit8] <;> simp <;> omega

/-- The fields of a result without a fault. -/
theorem sfeFlags_fields {step : Nat} (h : step < 8) (s : State) (chop rep : Bool) (code : Nat) : (code * 256 + sfeFlags s step chop rep) / 32 % 8 = step ∧
    (code * 256 + sfeFlags s step chop rep).testBit Bit.SFE.CSTAT.LOWPOWER = (s.u Obj.SFE.CONV_MODE == 1) ∧
    (code * 256 + sfeFlags s step chop rep).testBit Bit.SFE.CSTAT.CHECKED = false ∧
    (code * 256 + sfeFlags s step chop rep).testBit Bit.SFE.CSTAT.REPEAT = rep := by
  rw [sfeFlags, Nat.testBit_eq_decide_div_mod_eq, Nat.testBit_eq_decide_div_mod_eq, Nat.testBit_eq_decide_div_mod_eq]
  generalize (s.u Obj.SFE.CONV_MODE == 1) = low
  simp only [Bit.SFE.CSTAT.LOWPOWER, Bit.SFE.CSTAT.CHECKED, Bit.SFE.CSTAT.REPEAT]
  have hchop : bit8 chop 4 = 0 ∨ bit8 chop 4 = 16 := by cases chop <;> simp [bit8]
  have hlow : bit8 low 1 = if low then 2 else 0 := by cases low <;> rfl
  have hrep : bit8 rep 3 = if rep then 8 else 0 := by cases rep <;> rfl
  rw [hlow, hrep]
  refine ⟨?_, ?_, ?_, ?_⟩
  · split <;> split <;> omega
  · cases low <;> simp only [Bool.false_eq_true, if_true, if_false, decide_eq_true_eq, decide_eq_false_iff_not] <;> split <;> omega
  · refine decide_eq_false ?_
    split <;> split <;> omega
  · cases rep <;> simp only [Bool.false_eq_true, if_true, if_false, decide_eq_true_eq, decide_eq_false_iff_not] <;> split <;> omega

/-! ## Temperatures (R466) -/

theorem freeRound_bounds {num den : Int} {n : Int} (hd : 0 < den) (h0 : 0 ≤ num) (h1 : num ≤ n * den) : 0 ≤ freeRound num den ∧ freeRound num den ≤ n := by
  have hlo := Int.ediv_nonneg h0 hd.le
  have hhi : num / den ≤ n := Int.ediv_le_of_le_mul hd h1
  rw [freeRound]
  split
  · exact ⟨hlo, hhi⟩
  · next hne =>
    have hlt : num / den < n := by
      refine lt_of_le_of_ne hhi fun e => hne ?_
      have hdiv := Int.mul_ediv_add_emod num den
      have hnonneg := Int.emod_nonneg num hd.ne'
      rw [e, mul_comm] at hdiv
      omega
    split
    · omega
    · exact ⟨hlo, hhi⟩

theorem temperature_bounds (s : State) (c : Fin 8) (res : Nat) : ∀ v ∈ temperature s c res, 0 ≤ v ∧ v ≤ 2047 * 4096 := by
  intro v hv
  rw [temperature] at hv
  split at hv
  · cases hv
  · next q _ =>
    split at hv
    · next hq =>
      obtain rfl : _ = v := Option.some.inj hv
      have hden : (0 : Int) < (q * 4096).den := by exact_mod_cast (q * 4096).den_pos
      have hnum : 0 ≤ (q * 4096).num := Rat.num_nonneg.mpr (by linarith [hq.1])
      have hle : q * 4096 ≤ ((2047 * 4096 : Int) : Rat) := by push_cast; linarith [hq.2]
      refine freeRound_bounds hden hnum ?_
      have hmul : ((q * 4096).num : Rat) = q * 4096 * ((q * 4096).den : Rat) := (Rat.mul_den_eq_num _).symm
      have hdenQ : (0 : Rat) < ((q * 4096).den : Rat) := by exact_mod_cast (q * 4096).den_pos
      have hQ : ((q * 4096).num : Rat) ≤ ((2047 * 4096 : Int) : Rat) * ((q * 4096).den : Rat) := by
        rw [hmul]
        exact mul_le_mul_of_nonneg_right hle hdenQ.le
      exact_mod_cast hQ
    · cases hv

end

end Sys2Proof.Machine
end

section
/-! SUPPORT. Conversions, compliance and tone checks, and the statement on the sensor front end (R461 to R469). -/

namespace Sys2Proof.Machine

section
variable {s : State} {c : Fin 8} {x : SfeSample} {y : Option SfeSample}

/-! ## Conversions (R464 to R466) -/

/-- The fault code of a conversion that is neither discarded nor over range. -/
def convCode (s : State) (c : Fin 8) (x : SfeSample) : Nat :=
  if s.u (Obj.SFE.CURVE c) = 0 then s.plant.sfe[c].held.getD 0
  else match s.plant.sfe[c].held, temperature s c x.res.toNat with
    | some f, _ => f
    | none, some _ => 0
    | none, none => 5

/-- Its value, where it has one. -/
def convValue (s : State) (c : Fin 8) (x : SfeSample) : Nat :=
  if s.u (Obj.SFE.CURVE c) = 0 then 0
  else match s.plant.sfe[c].held, temperature s c x.res.toNat with
    | none, some v => ofSigned 32 v
    | _, _ => 0

/-- The step and the excitation of a channel's next conversions. -/
def SfeChannel.stepped (s : State) (c : Fin 8) (x : SfeSample) (y : SfeChannel) : SfeChannel :=
  let y := { y with repeating := false, step := if s.u (Obj.SFE.GAIN c) == 0xFF && decide (x.peak < 400) then min 7 (y.step + 1) else y.step }
  if s.u (Obj.SFE.EXC_MODE c) = 2 then y.choose (sfeChop s c) x.quad (s.u Obj.SFE.QUAD_MAX) else y

def State.withPair (s : State) (p : Option (Fin 8 × Nat × Nat)) : State := { s with plant := { s.plant with pair := p } }

theorem State.withPair_self (s : State) : s.withPair s.plant.pair = s := rfl

/-- What the two converters gave for a channel, where the second gave a sample. -/
def pairOf (c : Fin 8) (x : SfeSample) : Option SfeSample → Option (Fin 8 × Nat × Nat) → Option (Fin 8 × Nat × Nat)
  | some y, _ => some (c, x.res.toNat, y.res.toNat)
  | none, p => p

/-- A conversion's reading. -/
def State.conversion (s : State) (c : Fin 8) (x : SfeSample) : State :=
  s.putReading c (convCode s c x) (convValue s c x) x.res.toNat x.stamp (sfeFlags s (sfeStep s c) (sfeChop s c) s.plant.sfe[c].repeating)

theorem convert_eq (s : State) (c : Fin 8) (x : SfeSample) (y : Option SfeSample) : s.convert c x y =
    ((s.conversion c x).modSfe c (SfeChannel.stepped s c x)).withPair (pairOf c x y ((s.conversion c x).modSfe c (SfeChannel.stepped s c x)).plant.pair) := by
  have hread : (if s.u (Obj.SFE.CURVE c) = 0 then s.putReading c (s.plant.sfe[c].held.getD 0) 0 x.res.toNat x.stamp (sfeFlags s (sfeStep s c) (sfeChop s c) s.plant.sfe[c].repeating)
      else match s.plant.sfe[c].held, temperature s c x.res.toNat with
        | some f, _ => s.putReading c f 0 x.res.toNat x.stamp (sfeFlags s (sfeStep s c) (sfeChop s c) s.plant.sfe[c].repeating)
        | none, some v => s.putReading c 0 (ofSigned 32 v) x.res.toNat x.stamp (sfeFlags s (sfeStep s c) (sfeChop s c) s.plant.sfe[c].repeating)
        | none, none => s.putReading c 5 0 x.res.toNat x.stamp (sfeFlags s (sfeStep s c) (sfeChop s c) s.plant.sfe[c].repeating)) = s.conversion c x := by
    rw [State.conversion, convCode, convValue]
    by_cases h : s.u (Obj.SFE.CURVE c) = 0
    · rw [if_pos h, if_pos h, if_pos h]
    · rw [if_neg h, if_neg h, if_neg h]
      cases s.plant.sfe[c].held with
      | some f => rfl
      | none =>
        cases temperature s c x.res.toNat with
        | some v => rfl
        | none => rfl
  cases y with
  | some z => exact congrArg (fun v : State => (v.modSfe c (SfeChannel.stepped s c x)).withPair (some (c, x.res.toNat, z.res.toNat))) hread
  | none =>
    rw [pairOf, State.withPair_self]
    exact congrArg (fun v : State => v.modSfe c (SfeChannel.stepped s c x)) hread

theorem sfeStep_lt_of_gain (h : s.u (Obj.SFE.GAIN c) < 8) : sfeStep s c = s.u (Obj.SFE.GAIN c) := if_neg (by omega)

/-- Two parts of a channel with the same step and the same result. -/
def SameResult (x z : SfeChannel) : Prop := z.step = x.step ∧ z.repeating = x.repeating ∧ z.hasResult = x.hasResult ∧ z.taken = x.taken

theorem SameResult.ite {x a b : SfeChannel} {p : Prop} [Decidable p] (ha : SameResult x a) (hb : SameResult x b) : SameResult x (if p then a else b) := by
  split
  · exact ha
  · exact hb

/-- The choice of excitation leaves the step and the result. -/
theorem SfeChannel.choose_keeps (x : SfeChannel) (chop : Bool) (q m : Nat) : SameResult x (x.choose chop q m) :=
  .ite (.ite (.ite ⟨rfl, rfl, rfl, rfl⟩ ⟨rfl, rfl, rfl, rfl⟩) ⟨rfl, rfl, rfl, rfl⟩) (.ite ⟨rfl, rfl, rfl, rfl⟩ ⟨rfl, rfl, rfl, rfl⟩)

theorem SfeChannel.stepped_keeps (s : State) (c : Fin 8) (x : SfeSample) (y : SfeChannel) : (y.stepped s c x).repeating = false ∧
    (y.stepped s c x).hasResult = y.hasResult ∧ (y.stepped s c x).taken = y.taken ∧
    (y.stepped s c x).step = if s.u (Obj.SFE.GAIN c) = 0xFF ∧ x.peak < 400 then min 7 (y.step + 1) else y.step := by
  have hstep : (if s.u (Obj.SFE.GAIN c) == 0xFF && decide (x.peak < 400) then min 7 (y.step + 1) else y.step) =
      if s.u (Obj.SFE.GAIN c) = 0xFF ∧ x.peak < 400 then min 7 (y.step + 1) else y.step := if_congr (by simp) rfl rfl
  rw [SfeChannel.stepped, hstep]
  split
  · obtain ⟨h1, h2, h3, h4⟩ := SfeChannel.choose_keeps
      { y with repeating := false, step := if s.u (Obj.SFE.GAIN c) = 0xFF ∧ x.peak < 400 then min 7 (y.step + 1) else y.step }
      (sfeChop s c) x.quad (s.u Obj.SFE.QUAD_MAX)
    exact ⟨h2, h3, h4, h1⟩
  · exact ⟨rfl, rfl, rfl, rfl⟩

/-- A quadrature above its limit for the fourth time in a row chops. -/
theorem SfeChannel.choose_chops {z : SfeChannel} {q m : Nat} (h : z.chopped = false) (hr : z.quadRun = 3) (hm : m < q) :
    (z.choose false q m).chopped = true := by
  rw [SfeChannel.choose, h]
  simp [hm, hr]

theorem SfeChannel.choose_stays {z : SfeChannel} {q m : Nat} {chop : Bool} (h : z.chopped = false) (hr : q ≤ m ∨ z.quadRun < 3) :
    (z.choose chop q m).chopped = false ∧ (q ≤ m → (z.choose chop q m).quadRun = 0) := by
  rw [SfeChannel.choose, h]
  by_cases hm : m < q
  · have hrun : ¬4 ≤ z.quadRun + 1 := by omega
    simp [hm, hrun]
  · simp [hm]

/-! ## When a channel gives results (R460, R492) -/

theorem conversionEnd_stopped (h : sfeRuns s c = false) : exec (.conversionEnd c x y) s = .next s :=
  congrArg Host.Outcome.next (if_pos (by rw [h]; rfl))

theorem excCompliance_stopped (h : sfeRuns s c = false) (p : Stamp) : exec (.excCompliance c p) s = .next s :=
  congrArg Host.Outcome.next (if_neg (by rw [h]; decide))

theorem toneCheck_stopped (h : sfeRuns s c = false) (n : Nat) : exec (.toneCheck c n) s = .next s :=
  congrArg Host.Outcome.next (if_pos (.inl (by rw [h]; rfl)))

theorem toneCheck_untimed (h0 : s.u Obj.SFE.TONE_PERIOD = 0) (hh : s.plant.sfe[c].held = none) (n : Nat) : exec (.toneCheck c n) s = .next s :=
  congrArg Host.Outcome.next (if_pos (.inr ⟨h0, hh⟩))

section
variable (hr : sfeRuns s c = true)
include hr

theorem conversionEnd_repeats (ha : s.u (Obj.SFE.GAIN c) = 0xFF) (hp : 970 < x.peak) (h0 : 0 < s.plant.sfe[c].step) : exec (.conversionEnd c x y) s =
    .next ((s.modSfe c (fun y => { y with step := y.step - 1, repeating := true })).bump (Obj.SFE.REPEATS c)) :=
  congrArg Host.Outcome.next ((if_neg (by rw [hr]; decide)).trans ((if_pos (by simp [ha, hp])).trans (if_neg (by omega))))

theorem conversionEnd_overranges (ha : s.u (Obj.SFE.GAIN c) = 0xFF) (hp : 970 < x.peak) (h0 : s.plant.sfe[c].step = 0) : exec (.conversionEnd c x y) s =
    .next ((s.putReading c (s.plant.sfe[c].held.getD 3) 0 x.res.toNat x.stamp (sfeFlags s 0 (sfeChop s c) s.plant.sfe[c].repeating)).modSfe c
      (fun y => { y with repeating := false })) :=
  congrArg Host.Outcome.next ((if_neg (by rw [hr]; decide)).trans ((if_pos (by simp [ha, hp])).trans (if_pos h0)))

theorem conversionEnd_converts (ha : s.u (Obj.SFE.GAIN c) ≠ 0xFF ∨ x.peak ≤ 970) :
    exec (.conversionEnd c x y) s = .next (s.convert c x (if bothSense s c then y else none)) :=
  congrArg Host.Outcome.next ((if_neg (by rw [hr]; decide)).trans (if_neg (by
    rw [Bool.and_eq_true, beq_iff_eq, decide_eq_true_eq]
    omega)))

theorem excCompliance_faults (p : Stamp) : exec (.excCompliance c p) s =
    .next ((s.modSfe c (fun y => { y with held := some 1, repeating := false })).putReading c 1 0 (Config.measured s.fresh % 2 ^ 32) p
      (sfeFlags s (sfeStep s c) (sfeChop s c) false)).drawn := congrArg Host.Outcome.next (if_pos hr)

theorem toneCheck_passes : exec (.toneCheck c 0) s = .next (s.modSfe c (fun x => { x with held := none })) := by
  by_cases h : s.u Obj.SFE.TONE_PERIOD = 0 ∧ s.plant.sfe[c].held = none
  · rw [toneCheck_untimed h.1 h.2, s.modSfe_id c _ (by rw [← h.2])]
  · exact congrArg Host.Outcome.next ((if_neg (by rw [hr]; simpa using h)).trans (if_pos rfl))

theorem toneCheck_faults {n : Nat} (hc : s.u Obj.SFE.TONE_PERIOD ≠ 0 ∨ s.plant.sfe[c].held ≠ none) (hn : n = 1 ∨ n = 2 ∨ n = 6) : exec (.toneCheck c n) s =
    .next ((s.modSfe c (fun y => { y with held := some n })).putReading c n 0 (Config.measured s.fresh % 2 ^ 32) (s.now * 256)
      (sfeFlags s (sfeStep s c) (sfeChop s c) false)).drawn := by
  refine congrArg Host.Outcome.next ((if_neg ?_).trans ((if_neg (by omega)).trans (if_pos hn)))
  rw [hr]
  rintro (h | ⟨h0, hh⟩)
  · cases h
  · exact hc.elim (fun h => h h0) (fun h => h hh)

end

end

end Sys2Proof.Machine

namespace Sys2Proof
open Machine

section
variable {s : State} {c : Fin 8} {x : SfeSample} {y : Option SfeSample}

theorem conversion_repeats (hr : sfeRuns s c = true) (ha : s.u (Obj.SFE.GAIN c) = 0xFF) (hp : 970 < x.peak) (h0 : 0 < s.plant.sfe[c].step)
    (hroom : s.u (Obj.SFE.REPEATS c) + 1 < 2 ^ 32) :
    ∃ t : State, exec (.conversionEnd c x y) s = .next t ∧ t.plant.sfe[c].step = s.plant.sfe[c].step - 1 ∧ t.plant.sfe[c].repeating = true ∧
      t.u (Obj.SFE.REPEATS c) = s.u (Obj.SFE.REPEATS c) + 1 ∧ regsKept s t [Obj.SFE.REPEATS c] ∧ (∀ d : Fin 8, d ≠ c → t.plant.sfe[d] = s.plant.sfe[d]) ∧
      t.out = s.out := by
  have hself := s.modSfe_self c (fun y => { y with step := y.step - 1, repeating := true })
  have hstep := congrArg SfeChannel.step hself
  have hrep := congrArg SfeChannel.repeating hself
  have hother := fun d hd => s.modSfe_other c d (fun y => { y with step := y.step - 1, repeating := true }) hd
  have hkept : regsKept s (s.modSfe c (fun y => { y with step := y.step - 1, repeating := true })) [Obj.SFE.REPEATS c] := (regsKept.refl s _).of_regs rfl
  exact ⟨_, conversionEnd_repeats hr ha hp h0, hstep, hrep, State.u_bump_self _ _ hroom, hkept.put List.mem_cons_self _, hother, rfl⟩

theorem conversion_overranges (hr : sfeRuns s c = true) (ha : s.u (Obj.SFE.GAIN c) = 0xFF) (hp : 970 < x.peak) (h0 : s.plant.sfe[c].step = 0)
    (hh : s.plant.sfe[c].held = none) :
    ∃ t : State, exec (.conversionEnd c x y) s = .next t ∧ t.u (Obj.SFE.VALUE c) = 0x80000003 ∧ sfeFault t c.val = 3 ∧ t.u (Obj.SFE.RES c) = x.res.toNat := by
  obtain ⟨hvalue, hres, -, -, hfault⟩ := s.putReading_regs c 3 0 x.res.toNat x.stamp (sfeFlags s 0 (sfeChop s c) s.plant.sfe[c].repeating) (by decide)
    (sfeFlags_lt (by decide) s _ _)
  have hexec := conversionEnd_overranges (y := y) hr ha hp h0
  rw [hh, Option.getD_none] at hexec
  rw [if_neg (by decide), Nat.mod_eq_of_lt (by decide)] at hvalue
  rw [Nat.mod_eq_of_lt x.res.isLt] at hres
  generalize s.putReading c 3 0 x.res.toNat x.stamp (sfeFlags s 0 (sfeChop s c) s.plant.sfe[c].repeating) = v at *
  exact ⟨v.modSfe c (fun y => { y with repeating := false }), hexec, hvalue, hfault, hres⟩

theorem conversion_parts (s : State) (c : Fin 8) (x : SfeSample) : (s.conversion c x).plant.sfe = (s.modSfe c SfeChannel.read).plant.sfe ∧
    (s.conversion c x).plant.pair = s.plant.pair ∧ (s.conversion c x).mem = s.mem := by
  obtain ⟨hsfe, hpair, -, -, -, -, hmem⟩ := s.putReading_parts c (convCode s c x) (convValue s c x) x.res.toNat x.stamp
    (sfeFlags s (sfeStep s c) (sfeChop s c) s.plant.sfe[c].repeating)
  rw [State.conversion]
  generalize s.putReading c (convCode s c x) (convValue s c x) x.res.toNat x.stamp
    (sfeFlags s (sfeStep s c) (sfeChop s c) s.plant.sfe[c].repeating) = v at *
  exact ⟨hsfe, hpair, hmem⟩

theorem conversion_regs (s : State) (c : Fin 8) (x : SfeSample) (hc : convCode s c x < 256) (hs : sfeStep s c < 8) :
    (s.conversion c x).u (Obj.SFE.VALUE c) = (if convCode s c x = 0 then convValue s c x else 0x80000000 + convCode s c x) % 2 ^ 32 ∧
    (s.conversion c x).u (Obj.SFE.RES c) = x.res.toNat % 2 ^ 32 ∧
    (s.conversion c x).u (Obj.SFE.STAMP c) = epochVal x.stamp % 2 ^ (Obj.SFE.STAMP c).width ∧
    (s.conversion c x).u (Obj.SFE.CSTAT c) = convCode s c x * 256 + sfeFlags s (sfeStep s c) (sfeChop s c) s.plant.sfe[c].repeating ∧
    sfeFault (s.conversion c x) c.val = convCode s c x := by
  rw [State.conversion]
  exact s.putReading_regs c _ _ _ _ _ hc (sfeFlags_lt hs s _ _)

/-- What every conversion does to its channel beside the reading. -/
theorem conversion_channel (s : State) (c : Fin 8) (x : SfeSample) (z : Option SfeSample) :
    (s.convert c x z).plant.sfe[c] = (s.plant.sfe[c].read).stepped s c x ∧ (s.convert c x z).mem = s.mem ∧
    (s.convert c x z).plant.pair = pairOf c x z s.plant.pair ∧ ∀ r : Reg, (s.convert c x z).u r = (s.conversion c x).u r := by
  obtain ⟨hsfe, hpair, hmem⟩ := conversion_parts s c x
  rw [convert_eq]
  generalize s.conversion c x = v at *
  have hread : v.plant.sfe[c] = s.plant.sfe[c].read := by rw [hsfe, State.modSfe_self]
  have hself := (v.modSfe_self c (SfeChannel.stepped s c x)).trans (congrArg (SfeChannel.stepped s c x) hread)
  have hpair' : (v.modSfe c (SfeChannel.stepped s c x)).plant.pair = s.plant.pair := hpair
  refine ⟨hself, hmem, ?_, fun r => rfl⟩
  rw [hpair']
  rfl

theorem conversion_converts (hr : sfeRuns s c = true) (hg : s.u (Obj.SFE.GAIN c) < 8) (hc : s.u (Obj.SFE.CURVE c) ≠ 0) (hh : s.plant.sfe[c].held = none) :
    ∃ t : State, exec (.conversionEnd c x y) s = .next t ∧ t.u (Obj.SFE.RES c) = x.res.toNat ∧
      (match temperature s c x.res.toNat with
        | some v => t.i (Obj.SFE.VALUE c) = v ∧ sfeFault t c.val = 0
        | none => t.u (Obj.SFE.VALUE c) = 0x80000005 ∧ sfeFault t c.val = 5) ∧
      t.u (Obj.SFE.STAMP c) = epochVal x.stamp % 2 ^ (Obj.SFE.STAMP c).width ∧ t.u (Obj.SFE.CSTAT c) / 32 % 8 = s.u (Obj.SFE.GAIN c) ∧
      t.bit (Obj.SFE.CSTAT c) Bit.SFE.CSTAT.LOWPOWER = (s.u Obj.SFE.CONV_MODE == 1) ∧ t.bit (Obj.SFE.CSTAT c) Bit.SFE.CSTAT.CHECKED = false ∧
      t.bit (Obj.SFE.CSTAT c) Bit.SFE.CSTAT.REPEAT = s.plant.sfe[c].repeating ∧ t.plant.sfe[c].hasResult = true ∧ t.plant.sfe[c].taken = true ∧
      t.plant.sfe[c].repeating = false ∧ t.plant.sfe[c].step = s.plant.sfe[c].step ∧ t.mem = s.mem ∧
      (bothSense s c = true → ∀ z ∈ y, t.plant.pair = some (c, x.res.toNat, z.res.toNat)) ∧
      (bothSense s c = false ∨ y = none → t.plant.pair = s.plant.pair) := by
  obtain ⟨hchannel, hmem, hpair, hreads⟩ := conversion_channel s c x (if bothSense s c then y else none)
  refine ⟨_, conversionEnd_converts hr (.inl (by omega)), ?_⟩
  generalize s.convert c x (if bothSense s c then y else none) = t at *
  have hcode : convCode s c x < 256 := by
    rw [convCode, if_neg hc, hh]
    cases temperature s c x.res.toNat with
    | some v => exact (by decide : 0 < 256)
    | none => exact (by decide : 5 < 256)
  have hstep : sfeStep s c < 8 := by rw [sfeStep_lt_of_gain hg]; exact hg
  have hregs := conversion_regs s c x hcode hstep
  simp only [sfeFault, ← hreads] at hregs
  obtain ⟨hvalue, hres, hstamp, hstat, hfault⟩ := hregs
  obtain ⟨hgain, hlow, hchecked, hrepeat⟩ := sfeFlags_fields hstep s (sfeChop s c) s.plant.sfe[c].repeating (convCode s c x)
  obtain ⟨hrep, hhas, htaken, hnext⟩ := SfeChannel.stepped_keeps s c x s.plant.sfe[c].read
  refine ⟨hres.trans (Nat.mod_eq_of_lt x.res.isLt), ?_, hstamp, by rw [hstat, hgain, sfeStep_lt_of_gain hg], by rw [State.bit, hstat]; exact hlow,
    by rw [State.bit, hstat]; exact hchecked, by rw [State.bit, hstat]; exact hrepeat, by rw [hchannel, hhas]; rfl, by rw [hchannel, htaken]; rfl,
    by rw [hchannel, hrep], ?_, hmem, fun hb z hz => ?_, fun hb => ?_⟩
  · rw [convCode, if_neg hc, hh] at hfault
    rw [convValue, convCode, if_neg hc, if_neg hc, hh] at hvalue
    cases htemp : temperature s c x.res.toNat with
    | some v =>
      rw [htemp] at hfault hvalue
      obtain ⟨h0, h1⟩ := temperature_bounds s c x.res.toNat v htemp
      refine ⟨?_, hfault⟩
      rw [State.i, hvalue]
      have hmod : ofSigned 32 v % 2 ^ 32 = ofSigned 32 v := by
        rw [ofSigned]
        omega
      rw [if_pos rfl, hmod]
      exact toSigned_ofSigned_of_range v (by omega) (by omega)
    | none =>
      rw [htemp] at hfault hvalue
      exact ⟨hvalue, hfault⟩
  · rw [hchannel, hnext, if_neg (by omega)]
    rfl
  · rw [hpair, if_pos hb, hz]
    rfl
  · rw [hpair]
    rcases hb with hb | hb
    · rw [hb]
      rfl
    · rw [hb, ite_self]
      rfl

theorem conversion_steps (hr : sfeRuns s c = true) (ha : s.u (Obj.SFE.GAIN c) = 0xFF) (hp : x.peak < 400) (h7 : s.plant.sfe[c].step < 7) :
    ∃ t : State, exec (.conversionEnd c x none) s = .next t ∧ t.plant.sfe[c].step = s.plant.sfe[c].step + 1 := by
  obtain ⟨hchannel, -⟩ := conversion_channel s c x none
  have hexec := conversionEnd_converts (y := none) hr (.inr (by omega : x.peak ≤ 970))
  rw [ite_self] at hexec
  refine ⟨_, hexec, ?_⟩
  obtain ⟨-, -, -, hnext⟩ := SfeChannel.stepped_keeps s c x s.plant.sfe[c].read
  rw [hchannel, hnext, if_pos ⟨ha, hp⟩]
  exact Nat.min_eq_right h7

/-- A fault that holds: what its reading does. -/
theorem reading_holds (s : State) (c : Fin 8) (n res : Nat) (p : Stamp) (flags : Nat) (f : SfeChannel → SfeChannel) (hf : (f s.plant.sfe[c]).held = some n)
    (h0 : n ≠ 0) (hn : n < 256) (hflags : flags < 256) :
    (((s.modSfe c f).putReading c n 0 res p flags).drawn).u (Obj.SFE.VALUE c) = (0x80000000 + n) % 2 ^ 32 ∧
    sfeFault (((s.modSfe c f).putReading c n 0 res p flags).drawn) c.val = n ∧
    (((s.modSfe c f).putReading c n 0 res p flags).drawn).plant.sfe[c].held = some n ∧
    (((s.modSfe c f).putReading c n 0 res p flags).drawn).u (Obj.SFE.STAMP c) = epochVal p % 2 ^ (Obj.SFE.STAMP c).width ∧
    (s.u (Obj.SFE.FAULTS c) + 1 < 2 ^ 32 →
      (((s.modSfe c f).putReading c n 0 res p flags).drawn).u (Obj.SFE.FAULTS c) = s.u (Obj.SFE.FAULTS c) + 1) ∧
    (((s.modSfe c f).putReading c n 0 res p flags).drawn).mem = s.mem := by
  obtain ⟨hvalue, -, hstamp, -, hfault⟩ := (s.modSfe c f).putReading_regs c n 0 res p flags hn hflags
  obtain ⟨hsfe, -, -, -, -, -, hmem⟩ := (s.modSfe c f).putReading_parts c n 0 res p flags
  have hcount := (s.modSfe c f).putReading_faults (c := c) (value := 0) (res := res) (flags := flags) (stamp := p) h0
  have hheld : ((s.modSfe c f).modSfe c SfeChannel.read).plant.sfe[c].held = some n := by
    rw [State.modSfe_self, State.modSfe_self]
    exact hf
  rw [← hsfe] at hheld
  rw [if_neg h0] at hvalue
  have hroom : (s.modSfe c f).u (Obj.SFE.FAULTS c) = s.u (Obj.SFE.FAULTS c) := rfl
  rw [hroom] at hcount
  have hmem' : (s.modSfe c f).mem = s.mem := rfl
  rw [hmem'] at hmem
  generalize (s.modSfe c f).putReading c n 0 res p flags = v at *
  exact ⟨hvalue, hfault, hheld, hstamp, hcount, hmem⟩

end

end Sys2Proof
end

section
/-! SUPPORT. The end of a conversion cycle (R461, R462), and the statement on the sensor front end. -/

namespace Sys2Proof.Machine

section
variable {s t : State} {c : Fin 8}

/-! ## The group's commit at a cycle's start (R459) -/

theorem mirrored_sfe (v : State) : mirrored v 0x7000 = false := by simp [mirrored]

/-- A new cycle begins, before what waits for it commits. -/
def State.nextCycle (s : State) : State := { s with plant := s.plant.nextCycle }

theorem State.nextCycle_parts (s : State) : s.nextCycle.plant.cycle = s.plant.cycle + 1 ∧ s.nextCycle.plant.pair = none ∧
    s.nextCycle.plant.failRun = s.plant.failRun ∧ s.nextCycle.plant.passRun = s.plant.passRun ∧
    (∀ c : Fin 8, s.nextCycle.plant.sfe[c].taken = false) ∧ s.nextCycle.regs = s.regs ∧ s.nextCycle.ledger = s.ledger := by
  refine ⟨rfl, rfl, rfl, rfl, fun c => ?_, rfl, rfl⟩
  have hmap : s.nextCycle.plant.sfe[c] = s.plant.sfe[c].untaken := by simp [State.nextCycle, PlantPart.nextCycle]
  rw [hmap]
  rfl

/-- The parts of the front end that its group's commit leaves. -/
theorem sfeCommit_parts (s : State) : s.sfeCommit.plant.sfe = s.plant.sfe ∧ s.sfeCommit.plant.pair = s.plant.pair ∧
    s.sfeCommit.plant.cycle = s.plant.cycle ∧ s.sfeCommit.plant.failRun = s.plant.failRun ∧ s.sfeCommit.plant.passRun = s.plant.passRun := by
  have hcommit : (if s.coasting then s else s.commitIf 0x7000).plant = s.plant := by
    split
    · rfl
    · exact congrArg (fun v => v.plant) (s.commitIf_rest mirrored_sfe)
  rw [State.sfeCommit]
  generalize (if s.coasting then s else s.commitIf 0x7000) = v at *
  obtain ⟨hsfe, hpair, hcycle, hfail, hpass, -⟩ := loopScope_parts (State.loopsFollow_within (.refl loopScope (v.put Obj.SFE.CYCLE_TIME (cycleTime v))))
  rw [hsfe, hpair, hcycle, hfail, hpass, State.put_plant, hcommit]
  exact ⟨rfl, rfl, rfl, rfl, rfl⟩

/-- With no APPLY of the group pending, its registers but CYCLE_TIME stand. -/
theorem sfeCommit_u (h : s.isApplying 0x7000 = false) {r : Reg} (h0 : 0x7000 * 256 ≤ r.key) (h1 : r.key < 0x7001 * 256) (hr : Obj.SFE.CYCLE_TIME.key ≠ r.key) :
    s.sfeCommit.u r = s.u r := by
  have hcommit : (if s.coasting then s else s.commitIf 0x7000) = s := by
    rw [State.commitIf, h]
    exact ite_self _
  rw [State.sfeCommit, hcommit]
  have hloop : loopScope.regs r.key = false := beq_eq_false_iff_ne.mpr (by omega)
  exact ((State.loopsFollow_within (.refl loopScope _)).reads r hloop).trans (State.u_put_ne _ _ _ _ hr)

/-! ## Plausibility (R461) -/

theorem State.plausible_passes (h : s.plant.sfe[c].taken = true) : s.plausible c true = s.setBit (Obj.SFE.CSTAT c) Bit.SFE.CSTAT.CHECKED := by
  rw [State.plausible, h]
  rfl

theorem State.plausible_fails (h : s.plant.sfe[c].taken = true) (hf : sfeFault s c.val = 0) : s.plausible c false =
    s.putReading c 4 0 (s.u (Obj.SFE.RES c)) (stampOf (s.u (Obj.SFE.STAMP c))) (s.u (Obj.SFE.CSTAT c) % 256) := by
  rw [State.plausible, h, hf]
  rfl

/-- The runs of passing and of failing cycles, before their alarm. -/
def State.cycleRuns (s : State) (fail pass : Nat) : State := { s with plant := { s.plant with failRun := fail, passRun := pass } }

theorem State.plausAlarm_passes (h : s.plant.passRun < 7) : s.plausAlarm true = s.cycleRuns 0 (s.plant.passRun + 1) := by
  have hrun : min 8 (s.plant.passRun + 1) = s.plant.passRun + 1 := by omega
  have hcycle : { s with plant := { s.plant with failRun := 0, passRun := min 8 (s.plant.passRun + 1) } } = s.cycleRuns 0 (s.plant.passRun + 1) := by
    rw [hrun]
    rfl
  rw [State.plausAlarm]
  simp only [if_true]
  rw [hcycle, if_neg (by decide), if_neg (by omega)]

/-- What a failing cycle does to the runs, the alarm and the rest. -/
theorem State.plausAlarm_fails (s : State) : (s.plausAlarm false).plant.failRun = min 3 (s.plant.failRun + 1) ∧ (s.plausAlarm false).plant.passRun = 0 ∧
    (s.plausAlarm false).isApplying 0x7000 = s.isApplying 0x7000 ∧
    (∀ r : Reg, bookReg r.key = false → Obj.SFE.FLAGS.key ≠ r.key → (s.plausAlarm false).u r = s.u r) ∧
    (2 ≤ s.plant.failRun → (s.plausAlarm false).bit Obj.SFE.FLAGS Bit.SFE.FLAGS.PLAUS_ALARM = true) := by
  have halarm : s.plausAlarm false = if 3 ≤ min 3 (s.plant.failRun + 1) then
      (s.cycleRuns (min 3 (s.plant.failRun + 1)) 0).logFlag Obj.SFE.FLAGS Bit.SFE.FLAGS.PLAUS_ALARM true 20
    else s.cycleRuns (min 3 (s.plant.failRun + 1)) 0 := rfl
  rw [halarm]
  split
  · have hrest := State.logFlag_rest (s.cycleRuns (min 3 (s.plant.failRun + 1)) 0) Obj.SFE.FLAGS Bit.SFE.FLAGS.PLAUS_ALARM 20 true 0xFF false
    have hplant := congrArg (fun v : State => v.plant) hrest
    refine ⟨congrArg PlantPart.failRun hplant, congrArg PlantPart.passRun hplant, State.logFlag_isApplying _ _ _ _ _ _ _ (by decide),
      fun r hb hr => State.logFlag_u _ _ _ _ _ r hb hr _ _, fun _ => State.logFlag_bit _ _ _ _ _ (by decide) (by decide) _ _⟩
  · next h => exact ⟨rfl, rfl, rfl, fun r _ _ => rfl, fun hf => absurd (by omega) h⟩

/-! ## A cycle ends (R461, R462) -/

theorem sfeCycleEnd_unchecked {d : BitVec 32} (hl : s.plant.live = true) (h : cycleCheck s d.toNat = none) : exec (.sfeCycleEnd d) s = .next s.nextCycle.sfeCommit := by
  refine congrArg Host.Outcome.next ((if_pos hl).trans ?_)
  rw [h]
  rfl

theorem sfeCycleEnd_checked {d : BitVec 32} {pass : Bool} (hl : s.plant.live = true) (h : cycleCheck s d.toNat = some ([c], pass)) :
    exec (.sfeCycleEnd d) s = .next ((if pass then s.plausible c pass else (s.plausible c pass).bump Obj.SFE.PLAUS_FAILS).plausAlarm pass).nextCycle.sfeCommit := by
  refine congrArg Host.Outcome.next ((if_pos hl).trans ?_)
  rw [h]
  rfl

theorem cycleCheck_pair {d a b : Nat} (hm : s.u Obj.SFE.CONV_MODE = 0) (hp : s.plant.pair = some (c, a, b)) : cycleCheck s d =
    some ([c], decide (2 * 1000000 * ((a : Int) - b).natAbs ≤ s.u Obj.SFE.PLAUS_TOL * (a + b))) := by
  rw [cycleCheck, hm, hp]
  rfl

theorem cycleCheck_none {d : Nat} (hm : s.u Obj.SFE.CONV_MODE = 0) (hp : s.plant.pair = none) : cycleCheck s d = none := by
  rw [cycleCheck, hm, hp]
  rfl

theorem filter_finRange_eq {n : Nat} (c : Fin n) (p : Fin n → Bool) (h : ∀ e, p e = decide (e = c)) : (List.finRange n).filter p = [c] := by
  have hp : p = (· == c) := funext fun e => by rw [h, beq_eq_decide]
  rw [hp, List.filter_beq, List.count_eq_one_of_mem (List.nodup_finRange n) (List.mem_finRange c)]
  rfl

theorem cycleCheck_slot8 {d : Nat} (hm : s.u Obj.SFE.CONV_MODE = 1) (ht : ∀ e : Fin 8, s.plant.sfe[e].taken = decide (e = c)) : cycleCheck s d =
    some ([c], decide (1000000 * ((d : Int) - checkValue s).natAbs ≤ s.u Obj.SFE.PLAUS_TOL * checkValue s)) := by
  rw [cycleCheck, if_pos hm, filter_finRange_eq c _ ht]

/-- The registers of a reading stand over what follows in the cycle. -/
theorem cycle_reads (v : State) (ha : v.isApplying 0x7000 = false) {r : Reg} (h0 : 0x7000 * 256 ≤ r.key) (h1 : r.key < 0x7001 * 256)
    (hc : Obj.SFE.CYCLE_TIME.key ≠ r.key) (hf : Obj.SFE.FLAGS.key ≠ r.key) (hp : Obj.SFE.PLAUS_FAILS.key ≠ r.key) :
    ((v.bump Obj.SFE.PLAUS_FAILS).plausAlarm false).nextCycle.sfeCommit.u r = v.u r := by
  obtain ⟨-, -, happly, hreads, -⟩ := (v.bump Obj.SFE.PLAUS_FAILS).plausAlarm_fails
  have hbook : bookReg r.key = false := (Bool.or_eq_false_iff.mp (sfeReg h0 h1)).1
  have hnext : ((v.bump Obj.SFE.PLAUS_FAILS).plausAlarm false).nextCycle.isApplying 0x7000 = false := happly.trans ha
  rw [sfeCommit_u hnext h0 h1 hc]
  exact (hreads r hbook hf).trans (State.u_put_ne _ _ _ _ hp)

/-- A failing cycle: its channel's reading, the count and the runs. -/
theorem cycle_fails (h : s.plant.sfe[c].taken = true) (ha : s.isApplying 0x7000 = false) (hf : sfeFault s c.val = 0) :
    sfeFault (((s.plausible c false).bump Obj.SFE.PLAUS_FAILS).plausAlarm false).nextCycle.sfeCommit c.val = 4 ∧
    (((s.plausible c false).bump Obj.SFE.PLAUS_FAILS).plausAlarm false).nextCycle.sfeCommit.u (Obj.SFE.VALUE c) = 0x80000004 ∧
    (((s.plausible c false).bump Obj.SFE.PLAUS_FAILS).plausAlarm false).nextCycle.sfeCommit.u (Obj.SFE.RES c) = s.u (Obj.SFE.RES c) % 2 ^ 32 ∧
    (s.u Obj.SFE.PLAUS_FAILS + 1 < 2 ^ 32 →
      (((s.plausible c false).bump Obj.SFE.PLAUS_FAILS).plausAlarm false).nextCycle.sfeCommit.u Obj.SFE.PLAUS_FAILS = s.u Obj.SFE.PLAUS_FAILS + 1) ∧
    (((s.plausible c false).bump Obj.SFE.PLAUS_FAILS).plausAlarm false).nextCycle.sfeCommit.plant.failRun = min 3 (s.plant.failRun + 1) ∧
    (((s.plausible c false).bump Obj.SFE.PLAUS_FAILS).plausAlarm false).nextCycle.sfeCommit.plant.passRun = 0 ∧
    (2 ≤ s.plant.failRun →
      (((s.plausible c false).bump Obj.SFE.PLAUS_FAILS).plausAlarm false).nextCycle.sfeCommit.bit Obj.SFE.FLAGS Bit.SFE.FLAGS.PLAUS_ALARM = true) := by
  have hflags : s.u (Obj.SFE.CSTAT c) % 256 < 256 := Nat.mod_lt _ (by decide)
  rw [State.plausible_fails h hf]
  obtain ⟨hvalue, hres, -, hstat, hfault⟩ := s.putReading_regs c 4 0 (s.u (Obj.SFE.RES c)) (stampOf (s.u (Obj.SFE.STAMP c))) _ (by decide) hflags
  obtain ⟨-, -, -, hfail, -⟩ := s.putReading_parts c 4 0 (s.u (Obj.SFE.RES c)) (stampOf (s.u (Obj.SFE.STAMP c))) (s.u (Obj.SFE.CSTAT c) % 256)
  have happly := (s.putReading_isApplying c 4 0 (s.u (Obj.SFE.RES c)) (stampOf (s.u (Obj.SFE.STAMP c))) (s.u (Obj.SFE.CSTAT c) % 256)
    (g := 0x7000) (by decide)).trans ha
  have hcount := s.putReading_other c 4 0 (s.u (Obj.SFE.RES c)) (stampOf (s.u (Obj.SFE.STAMP c))) (s.u (Obj.SFE.CSTAT c) % 256) (r := Obj.SFE.PLAUS_FAILS)
    (by decide) (by decide) (by simp [readRegs, Obj.SFE.VALUE, Obj.SFE.RES, Obj.SFE.STAMP, Obj.SFE.CSTAT, Obj.SFE.FAULTS, Obj.SFE.PLAUS_FAILS]; omega)
  generalize s.putReading c 4 0 (s.u (Obj.SFE.RES c)) (stampOf (s.u (Obj.SFE.STAMP c))) (s.u (Obj.SFE.CSTAT c) % 256) = v at *
  rw [if_neg (by decide), Nat.mod_eq_of_lt (by decide)] at hvalue
  obtain ⟨hfail', hpass, happly', hreads, halarm⟩ := (v.bump Obj.SFE.PLAUS_FAILS).plausAlarm_fails
  obtain ⟨-, -, -, hfailed, hpassed⟩ := sfeCommit_parts ((v.bump Obj.SFE.PLAUS_FAILS).plausAlarm false).nextCycle
  have hnext : ((v.bump Obj.SFE.PLAUS_FAILS).plausAlarm false).nextCycle.isApplying 0x7000 = false := happly'.trans happly
  have hstat' := cycle_reads v happly (r := Obj.SFE.CSTAT c) (by simp only [Obj.SFE.CSTAT]; omega) (by simp only [Obj.SFE.CSTAT]; omega)
    (by simp only [Obj.SFE.CSTAT, Obj.SFE.CYCLE_TIME]; omega) (by simp only [Obj.SFE.CSTAT, Obj.SFE.FLAGS]; omega)
    (by simp only [Obj.SFE.CSTAT, Obj.SFE.PLAUS_FAILS]; omega)
  refine ⟨by rw [sfeFault, hstat']; exact hfault, ?_, ?_, fun hroom => ?_, ?_, hpassed.trans hpass, fun h2 => ?_⟩
  · exact (cycle_reads v happly (by simp only [Obj.SFE.VALUE]; omega) (by simp only [Obj.SFE.VALUE]; omega)
      (by simp only [Obj.SFE.VALUE, Obj.SFE.CYCLE_TIME]; omega) (by simp only [Obj.SFE.VALUE, Obj.SFE.FLAGS]; omega)
      (by simp only [Obj.SFE.VALUE, Obj.SFE.PLAUS_FAILS]; omega)).trans hvalue
  · exact (cycle_reads v happly (by simp only [Obj.SFE.RES]; omega) (by simp only [Obj.SFE.RES]; omega)
      (by simp only [Obj.SFE.RES, Obj.SFE.CYCLE_TIME]; omega) (by simp only [Obj.SFE.RES, Obj.SFE.FLAGS]; omega)
      (by simp only [Obj.SFE.RES, Obj.SFE.PLAUS_FAILS]; omega)).trans hres
  · rw [sfeCommit_u hnext (by decide) (by decide) (by decide)]
    refine (hreads Obj.SFE.PLAUS_FAILS (by decide) (by decide)).trans ?_
    rw [State.u_bump_self _ _ (by rw [hcount]; exact hroom), hcount]
  · refine hfailed.trans (hfail'.trans ?_)
    rw [← hfail]
    rfl
  · rw [State.bit, sfeCommit_u hnext (by decide) (by decide) (by decide)]
    exact halarm (by rw [← hfail] at h2; exact h2)

end

end Sys2Proof.Machine

namespace Sys2Proof
open Machine

section
variable {s : State} {d : BitVec 32} {c : Fin 8}

theorem sfeCycle_unchecked (hl : s.plant.live = true) (hm : s.u Obj.SFE.CONV_MODE = 0) (hp : s.plant.pair = none) :
    ∃ t : State, exec (.sfeCycleEnd d) s = .next t ∧ t.plant.cycle = s.plant.cycle + 1 ∧ t.plant.pair = none ∧ t.plant.failRun = s.plant.failRun ∧
      t.plant.passRun = s.plant.passRun ∧ (∀ c : Fin 8, t.plant.sfe[c].taken = false) := by
  obtain ⟨hsfe, hpair, hcycle, hfail, hpass⟩ := sfeCommit_parts s.nextCycle
  obtain ⟨hcycle', hpair', hfail', hpass', htaken, -, -⟩ := s.nextCycle_parts
  refine ⟨_, sfeCycleEnd_unchecked hl (cycleCheck_none hm hp), hcycle.trans hcycle', hpair.trans hpair', hfail.trans hfail', hpass.trans hpass', fun c => ?_⟩
  rw [hsfe]
  exact htaken c

theorem sfeCycle_passes {a b : Nat} (hl : s.plant.live = true) (hm : s.u Obj.SFE.CONV_MODE = 0) (hp : s.plant.pair = some (c, a, b))
    (ht : s.plant.sfe[c].taken = true) (ha : s.isApplying 0x7000 = false)
    (htol : 2 * 1000000 * ((a : Int) - b).natAbs ≤ s.u Obj.SFE.PLAUS_TOL * (a + b)) (h7 : s.plant.passRun < 7) :
    ∃ t : State, exec (.sfeCycleEnd d) s = .next t ∧ t.bit (Obj.SFE.CSTAT c) Bit.SFE.CSTAT.CHECKED = true ∧ t.plant.failRun = 0 ∧
      t.plant.passRun = s.plant.passRun + 1 ∧ t.bit Obj.SFE.FLAGS Bit.SFE.FLAGS.PLAUS_ALARM = s.bit Obj.SFE.FLAGS Bit.SFE.FLAGS.PLAUS_ALARM ∧
      t.u Obj.SFE.PLAUS_FAILS = s.u Obj.SFE.PLAUS_FAILS := by
  have hcheck := cycleCheck_pair (d := d.toNat) hm hp
  rw [decide_eq_true htol] at hcheck
  have hexec := sfeCycleEnd_checked hl hcheck
  have hpass7 : (s.setBit (Obj.SFE.CSTAT c) Bit.SFE.CSTAT.CHECKED).plant.passRun < 7 := h7
  rw [if_pos rfl, State.plausible_passes ht, State.plausAlarm_passes hpass7] at hexec
  refine ⟨_, hexec, ?_⟩
  obtain ⟨-, -, -, hfail, hpass⟩ := sfeCommit_parts
    ((s.setBit (Obj.SFE.CSTAT c) Bit.SFE.CSTAT.CHECKED).cycleRuns 0 ((s.setBit (Obj.SFE.CSTAT c) Bit.SFE.CSTAT.CHECKED).plant.passRun + 1)).nextCycle
  have hreads := fun (r : Reg) => sfeCommit_u (r := r) (s := ((s.setBit (Obj.SFE.CSTAT c) Bit.SFE.CSTAT.CHECKED).cycleRuns 0
    ((s.setBit (Obj.SFE.CSTAT c) Bit.SFE.CSTAT.CHECKED).plant.passRun + 1)).nextCycle) ha
  have hchecked : (s.setBit (Obj.SFE.CSTAT c) Bit.SFE.CSTAT.CHECKED).bit (Obj.SFE.CSTAT c) Bit.SFE.CSTAT.CHECKED = true :=
    State.bit_putBit_self s (Obj.SFE.CSTAT c) Bit.SFE.CSTAT.CHECKED true (by simp only [Obj.SFE.CSTAT, Bit.SFE.CSTAT.CHECKED]; decide)
  refine ⟨?_, hfail, hpass, ?_, ?_⟩
  · rw [State.bit, hreads _ (by simp only [Obj.SFE.CSTAT]; omega) (by simp only [Obj.SFE.CSTAT]; omega)
      (by simp only [Obj.SFE.CSTAT, Obj.SFE.CYCLE_TIME]; omega)]
    exact hchecked
  · rw [State.bit, hreads _ (by decide) (by decide) (by decide)]
    exact State.bit_put_ne s (Obj.SFE.CSTAT c) _ _ _ (by simp only [Obj.SFE.CSTAT, Obj.SFE.FLAGS]; omega)
  · rw [hreads _ (by decide) (by decide) (by decide)]
    exact State.u_put_ne s (Obj.SFE.CSTAT c) _ _ (by simp only [Obj.SFE.CSTAT, Obj.SFE.PLAUS_FAILS]; omega)

theorem sfeCycle_fails {a b : Nat} (hl : s.plant.live = true) (hm : s.u Obj.SFE.CONV_MODE = 0) (hp : s.plant.pair = some (c, a, b))
    (ht : s.plant.sfe[c].taken = true) (ha : s.isApplying 0x7000 = false)
    (htol : s.u Obj.SFE.PLAUS_TOL * (a + b) < 2 * 1000000 * ((a : Int) - b).natAbs) (hf : sfeFault s c.val = 0) (hroom : s.u Obj.SFE.PLAUS_FAILS + 1 < 2 ^ 32) :
    ∃ t : State, exec (.sfeCycleEnd d) s = .next t ∧ sfeFault t c.val = 4 ∧ t.u (Obj.SFE.VALUE c) = 0x80000004 ∧ t.u (Obj.SFE.RES c) = s.u (Obj.SFE.RES c) % 2 ^ 32 ∧
      t.u Obj.SFE.PLAUS_FAILS = s.u Obj.SFE.PLAUS_FAILS + 1 ∧ t.plant.failRun = min 3 (s.plant.failRun + 1) ∧ t.plant.passRun = 0 ∧
      (2 ≤ s.plant.failRun → t.bit Obj.SFE.FLAGS Bit.SFE.FLAGS.PLAUS_ALARM = true) := by
  have hcheck := cycleCheck_pair (d := d.toNat) hm hp
  rw [decide_eq_false (by omega)] at hcheck
  have hexec := sfeCycleEnd_checked hl hcheck
  rw [if_neg Bool.false_ne_true] at hexec
  obtain ⟨hfault, hvalue, hres, hcount, hfail, hpass, halarm⟩ := cycle_fails ht ha hf
  exact ⟨_, hexec, hfault, hvalue, hres, hcount hroom, hfail, hpass, halarm⟩

theorem sfeCycle_slot8 (hl : s.plant.live = true) (hm : s.u Obj.SFE.CONV_MODE = 1) (ht : ∀ e : Fin 8, s.plant.sfe[e].taken = decide (e = c))
    (ha : s.isApplying 0x7000 = false)
    (htol : s.u Obj.SFE.PLAUS_TOL * checkValue s < 1000000 * ((d.toNat : Int) - checkValue s).natAbs) (hf : sfeFault s c.val = 0) :
    ∃ t : State, exec (.sfeCycleEnd d) s = .next t ∧ sfeFault t c.val = 4 ∧ t.u (Obj.SFE.VALUE c) = 0x80000004 := by
  have hcheck := cycleCheck_slot8 (d := d.toNat) hm ht
  rw [decide_eq_false (by omega)] at hcheck
  have hexec := sfeCycleEnd_checked hl hcheck
  rw [if_neg Bool.false_ne_true] at hexec
  obtain ⟨hfault, hvalue, -⟩ := cycle_fails ((ht c).trans (decide_eq_true rfl)) ha hf
  exact ⟨_, hexec, hfault, hvalue⟩

end

/-- Settles O47: a conversion, a fault and a failing cycle each end in one reading, whose registers stand over what follows it. -/
theorem sensorFrontEnd : Obligations.SensorFrontEnd := by
  unfold Obligations.SensorFrontEnd
  refine ⟨fun s c x y p n h => ⟨conversionEnd_stopped h, excCompliance_stopped h p, toneCheck_stopped h n⟩, fun s c => rfl,
    fun s c x y => conversion_repeats, fun s c x y => conversion_overranges, fun s c x y => conversion_converts, temperature_bounds,
    fun s c x => conversion_steps, fun x q m => SfeChannel.choose_chops, fun x q m chop => SfeChannel.choose_stays, fun s c p hr hs => ?_,
    fun s c => toneCheck_passes, fun s c n h0 hh => toneCheck_untimed h0 hh n, fun s c n hr hc hs hn => ?_, fun s d => sfeCycle_unchecked,
    fun s d c a b => sfeCycle_passes, fun s d c a b => sfeCycle_fails, fun s d c => sfeCycle_slot8⟩
  · obtain ⟨hvalue, hfault, hheld, hstamp, hcount, hmem⟩ := reading_holds s c 1 (Config.measured s.fresh % 2 ^ 32) p
      (sfeFlags s (sfeStep s c) (sfeChop s c) false) (fun y => { y with held := some 1, repeating := false }) rfl (by decide) (by decide) (sfeFlags_lt hs s _ _)
    exact ⟨_, excCompliance_faults hr p, hvalue, hfault, hheld, hstamp, hcount, hmem⟩
  · have hlt : n < 256 := by omega
    obtain ⟨hvalue, hfault, hheld, -, hcount, hmem⟩ := reading_holds s c n (Config.measured s.fresh % 2 ^ 32) (s.now * 256)
      (sfeFlags s (sfeStep s c) (sfeChop s c) false) (fun y => { y with held := some n }) rfl (by omega) hlt (sfeFlags_lt hs s _ _)
    exact ⟨_, toneCheck_faults hr hc hn, hvalue.trans (Nat.mod_eq_of_lt (by omega)), hfault, hheld, hcount, hmem⟩

end Sys2Proof
end

section
/-! SUPPORT. Loop outputs, plant mail and emitter sinks (R446, R458, R471 to R479; Machine/Plant.lean). -/

namespace Sys2Proof.Machine

/-! ## Flags and quotients -/

/-- A flag's change leaves the other bits of its register. -/
theorem State.logFlag_bit_other (s : State) (r : Reg) (b b' sub : Nat) (x : Bool) (inst : Nat) (hb : b' < r.width) (hne : b ≠ b')
    (hr : bookReg r.key = false) : (s.logFlag r b x sub inst).bit r b' = s.bit r b' := by
  rw [State.logFlag]
  split
  · rfl
  · rw [State.bit_log _ _ hr, State.bit_putBit _ _ _ _ _ hb, if_neg hne]

theorem State.logFlag_mem (s : State) (r : Reg) (b sub : Nat) (x : Bool) (inst : Nat) : (s.logFlag r b x sub inst).mem = s.mem := by
  have hmem := congrArg (fun w : State => w.mem) (s.logFlag_rest r b sub x inst false)
  exact hmem

theorem State.logFlag_changes (s : State) (r : Reg) (b sub inst : Nat) (x : Bool) (h : s.bit r b ≠ x) :
    ∃ e : Ev, s.logFlag r b x sub inst = (s.putBit r b x).log e ∧ e.cls = (if x then 1 else 2) ∧ e.sub = sub ∧ e.inst = inst ∧ e.bit = b :=
  ⟨_, if_neg h, rfl, rfl, rfl, rfl⟩

/-- A quotient without a rest is exact. -/
theorem freeRound_mul {a d : Int} (hd : d ≠ 0) : freeRound (a * d) d = a := by
  rw [freeRound, if_pos (Int.mul_emod_left a d), Int.mul_ediv_cancel _ hd]

/-- A quotient is at least what its divisor holds in it. -/
theorem le_freeRound {num den n : Int} (hd : 0 < den) (h : n * den ≤ num) : n ≤ freeRound num den := by
  have hdiv : n ≤ num / den := Int.le_ediv_of_mul_le hd h
  rw [freeRound]
  split
  · exact hdiv
  · split
    · omega
    · exact hdiv

section
variable {s t : State} {o : Fin 8}

/-! ## Loop outputs (R446, R458, R471 to R473) -/

theorem loopControl_measures (s : State) (o : Fin 8) (m : BitVec 16) : ∃ t : State, exec (.loopControl o m) s = .next t ∧ t.u (Obj.LOOP.I_MEAS o) = m.toNat ∧
    (500 ≤ m.toNat → t.bit (Obj.LOOP.LSTAT o) Bit.LOOP.LSTAT.OPEN = false) ∧
    (m.toNat < 500 → t.bit (Obj.LOOP.LSTAT o) Bit.LOOP.LSTAT.OPEN = s.bit (Obj.LOOP.LSTAT o) Bit.LOOP.LSTAT.OPEN) ∧
    (((m.toNat : Int) - s.u (Obj.LOOP.I_SET o)).natAbs ≤ 100 → t.bit (Obj.LOOP.LSTAT o) Bit.LOOP.LSTAT.DEV = false) ∧
    t.u (Obj.LOOP.I_SET o) = s.u (Obj.LOOP.I_SET o) ∧ t.mem = s.mem := by
  have hstat : bookReg (Obj.LOOP.LSTAT o).key = false := by revert o; decide
  have hmeas : bookReg (Obj.LOOP.I_MEAS o).key = false := by revert o; decide
  have hset : bookReg (Obj.LOOP.I_SET o).key = false := by revert o; decide
  have hput : (s.put (Obj.LOOP.I_MEAS o) m.toNat).u (Obj.LOOP.I_MEAS o) = m.toNat := State.u_put_of_lt s (Obj.LOOP.I_MEAS o) _ m.isLt
  have hopen : (s.put (Obj.LOOP.I_MEAS o) m.toNat).bit (Obj.LOOP.LSTAT o) Bit.LOOP.LSTAT.OPEN = s.bit (Obj.LOOP.LSTAT o) Bit.LOOP.LSTAT.OPEN :=
    State.bit_put_ne s (Obj.LOOP.I_MEAS o) _ _ _ (by simp only [Obj.LOOP.I_MEAS, Obj.LOOP.LSTAT]; omega)
  have hkept : (s.put (Obj.LOOP.I_MEAS o) m.toNat).u (Obj.LOOP.I_SET o) = s.u (Obj.LOOP.I_SET o) :=
    State.u_put_ne s (Obj.LOOP.I_MEAS o) _ _ (by simp only [Obj.LOOP.I_MEAS, Obj.LOOP.I_SET]; omega)
  have hmem : (s.put (Obj.LOOP.I_MEAS o) m.toNat).mem = s.mem := rfl
  -- what the change of one flag of the loop leaves
  have hflag : ∀ (v : State) (b : Nat), (v.logFlag (Obj.LOOP.LSTAT o) b false 21 o).u (Obj.LOOP.I_MEAS o) = v.u (Obj.LOOP.I_MEAS o) ∧
      (v.logFlag (Obj.LOOP.LSTAT o) b false 21 o).u (Obj.LOOP.I_SET o) = v.u (Obj.LOOP.I_SET o) ∧
      (v.logFlag (Obj.LOOP.LSTAT o) b false 21 o).mem = v.mem := fun v b =>
    ⟨State.logFlag_u v _ b _ _ _ hmeas (by simp only [Obj.LOOP.LSTAT, Obj.LOOP.I_MEAS]; omega) _ _,
      State.logFlag_u v _ b _ _ _ hset (by simp only [Obj.LOOP.LSTAT, Obj.LOOP.I_SET]; omega) _ _,
      v.logFlag_mem _ _ _ _ _⟩
  have hclear := State.logFlag_bit (s.put (Obj.LOOP.I_MEAS o) m.toNat) (Obj.LOOP.LSTAT o) Bit.LOOP.LSTAT.OPEN 21 false (by simp only [Obj.LOOP.LSTAT]; decide)
    hstat o false
  have hdev : ∀ v : State, (v.logFlag (Obj.LOOP.LSTAT o) Bit.LOOP.LSTAT.DEV false 21 o).bit (Obj.LOOP.LSTAT o) Bit.LOOP.LSTAT.DEV = false := fun v =>
    v.logFlag_bit (Obj.LOOP.LSTAT o) Bit.LOOP.LSTAT.DEV 21 false (by simp only [Obj.LOOP.LSTAT]; decide) hstat o false
  have hother : ∀ v : State, (v.logFlag (Obj.LOOP.LSTAT o) Bit.LOOP.LSTAT.DEV false 21 o).bit (Obj.LOOP.LSTAT o) Bit.LOOP.LSTAT.OPEN =
      v.bit (Obj.LOOP.LSTAT o) Bit.LOOP.LSTAT.OPEN := fun v =>
    v.logFlag_bit_other (Obj.LOOP.LSTAT o) Bit.LOOP.LSTAT.DEV Bit.LOOP.LSTAT.OPEN 21 false o (by simp only [Obj.LOOP.LSTAT]; decide) (by decide) hstat
  obtain ⟨hmeas1, hset1, hmem1⟩ := hflag (s.put (Obj.LOOP.I_MEAS o) m.toNat) Bit.LOOP.LSTAT.OPEN
  refine ⟨_, rfl, ?_⟩
  generalize hv : (s.put (Obj.LOOP.I_MEAS o) m.toNat).logFlag (Obj.LOOP.LSTAT o) Bit.LOOP.LSTAT.OPEN false 21 o = v at *
  have hfirst : ∃ w : State, (if 500 ≤ m.toNat then v else s.put (Obj.LOOP.I_MEAS o) m.toNat) = w ∧ w.u (Obj.LOOP.I_MEAS o) = m.toNat ∧
      w.u (Obj.LOOP.I_SET o) = s.u (Obj.LOOP.I_SET o) ∧ w.mem = s.mem ∧ (500 ≤ m.toNat → w.bit (Obj.LOOP.LSTAT o) Bit.LOOP.LSTAT.OPEN = false) ∧
      (m.toNat < 500 → w.bit (Obj.LOOP.LSTAT o) Bit.LOOP.LSTAT.OPEN = s.bit (Obj.LOOP.LSTAT o) Bit.LOOP.LSTAT.OPEN) := by
    by_cases h : 500 ≤ m.toNat
    · exact ⟨v, if_pos h, hmeas1.trans hput, hset1.trans hkept, hmem1.trans hmem, fun _ => hclear, fun h' => absurd h (by omega)⟩
    · exact ⟨_, if_neg h, hput, hkept, hmem, fun h' => absurd h' h, fun _ => hopen⟩
  obtain ⟨w, hw, hmeas, hset, hmem, hclear, hopen⟩ := hfirst
  rw [hw]
  obtain ⟨hmeas2, hset2, hmem2⟩ := hflag w Bit.LOOP.LSTAT.DEV
  by_cases h : ((m.toNat : Int) - s.u (Obj.LOOP.I_SET o)).natAbs ≤ 100
  · rw [if_pos h, hother]
    exact ⟨hmeas2.trans hmeas, hclear, hopen, fun _ => hdev w, hset2.trans hset, hmem2.trans hmem⟩
  · rw [if_neg h]
    exact ⟨hmeas, hclear, hopen, fun h' => absurd h' h, hset, hmem⟩

theorem loopOpen_off (h : plantOff s = true ∨ s.u (Obj.LOOP.SOURCE o) = 0) : exec (.loopOpen o) s = .next s ∧ exec (.loopDev o) s = .next s :=
  ⟨congrArg Host.Outcome.next (if_pos h), congrArg Host.Outcome.next (if_pos h)⟩

theorem loopOpen_on (h : plantOff s = false) (h0 : s.u (Obj.LOOP.SOURCE o) ≠ 0) :
    exec (.loopOpen o) s = .next (s.logFlag (Obj.LOOP.LSTAT o) Bit.LOOP.LSTAT.OPEN true 21 o) ∧
    exec (.loopDev o) s = .next (s.logFlag (Obj.LOOP.LSTAT o) Bit.LOOP.LSTAT.DEV true 21 o) := by
  have hoff : ¬(plantOff s = true ∨ s.u (Obj.LOOP.SOURCE o) = 0) := by simp [h, h0]
  exact ⟨congrArg Host.Outcome.next (if_neg hoff), congrArg Host.Outcome.next (if_neg hoff)⟩

theorem loopFollow_off (h : plantOff s = true ∨ s.u (Obj.LOOP.SOURCE o) = 0) : ∃ t : State, s.loopFollow o = t ∧ t.u (Obj.LOOP.I_SET o) = 0 ∧
    t.bit (Obj.LOOP.LSTAT o) Bit.LOOP.LSTAT.FAULT_LEVEL = false ∧ onlyRegs s t [Obj.LOOP.I_SET o, Obj.LOOP.LSTAT o] := by
  refine ⟨(s.put (Obj.LOOP.I_SET o) 0).loopLevel o false, if_pos h, ?_, State.bit_putBit_self _ _ _ _ (by simp only [Obj.LOOP.LSTAT]; decide),
    ((onlyRegs.refl s _).put (by simp) _).put (by simp) _⟩
  exact (State.u_put_ne _ _ _ _ (by simp only [Obj.LOOP.LSTAT, Obj.LOOP.I_SET]; omega)).trans (State.u_put_of_lt s _ 0 (Nat.two_pow_pos _))

theorem setpoint_exact (s : State) (o : Fin 8) (v d q : Int) (hd : s.i (Obj.LOOP.VAL_HI o) - s.i (Obj.LOOP.VAL_LO o) = d) (h0 : d ≠ 0)
    (hq : 16000 * (v - s.i (Obj.LOOP.VAL_LO o)) = q * d) : setpoint s o v = (max 3800 (min 20500 (4000 + q))).toNat := by
  have hquot : freeRound (16000 * (v - s.i (Obj.LOOP.VAL_LO o)) * (if d < 0 then -1 else 1)) (d.natAbs : Int) = q := by
    have hsign : d * (if d < 0 then -1 else 1) = (d.natAbs : Int) := by
      split
      · omega
      · omega
    rw [hq, mul_assoc, hsign]
    exact freeRound_mul (by omega)
  rw [setpoint, hd, if_neg h0, hquot]

theorem setpoint_lt (s : State) (o : Fin 8) (v : Int) : setpoint s o v < 2 ^ 16 := by
  rw [setpoint]
  generalize (if s.i (Obj.LOOP.VAL_HI o) - s.i (Obj.LOOP.VAL_LO o) = 0 then (4000 : Int) else _) = q
  omega

theorem faultLevel_modes (s : State) (o : Fin 8) : (s.u (Obj.LOOP.FAULT_MODE o) = 0 → faultLevel s o = 3600) ∧
    (s.u (Obj.LOOP.FAULT_MODE o) = 1 → faultLevel s o = 21000) ∧ (s.u (Obj.LOOP.FAULT_MODE o) = 2 → faultLevel s o = s.plant.loops[o].good) :=
  ⟨fun h => by simp only [faultLevel, h], fun h => by simp only [faultLevel, h], fun h => by simp only [faultLevel, h]⟩

theorem faultLevel_le (h : s.plant.loops[o].good ≤ 21000) : faultLevel s o < 2 ^ 16 := by
  rw [faultLevel]
  split
  · decide
  · decide
  · omega

/-- A loop that was not at its fault level goes to it, and TRIPS counts. -/
theorem loopTrip_trips (hf : s.bit (Obj.LOOP.LSTAT o) Bit.LOOP.LSTAT.FAULT_LEVEL = false) (hroom : s.u (Obj.LOOP.TRIPS o) + 1 < 2 ^ 32)
    (hg : s.plant.loops[o].good ≤ 21000) : (s.loopTrip o).u (Obj.LOOP.I_SET o) = faultLevel s o ∧
    (s.loopTrip o).bit (Obj.LOOP.LSTAT o) Bit.LOOP.LSTAT.FAULT_LEVEL = true ∧ (s.loopTrip o).u (Obj.LOOP.TRIPS o) = s.u (Obj.LOOP.TRIPS o) + 1 ∧
    onlyRegs s (s.loopTrip o) [Obj.LOOP.I_SET o, Obj.LOOP.LSTAT o, Obj.LOOP.TRIPS o] := by
  have htrip : s.loopTrip o = ((s.bump (Obj.LOOP.TRIPS o)).put (Obj.LOOP.I_SET o) (faultLevel s o)).loopLevel o true := by
    rw [State.loopTrip, hf]
    rfl
  rw [htrip]
  refine ⟨?_, State.bit_putBit_self _ _ _ _ (by simp only [Obj.LOOP.LSTAT]; decide), ?_, (((onlyRegs.refl s _).put (by simp) _).put (by simp) _).put (by simp) _⟩
  · exact (State.u_put_ne _ _ _ _ (by simp only [Obj.LOOP.LSTAT, Obj.LOOP.I_SET]; omega)).trans (State.u_put_of_lt _ _ _ (faultLevel_le hg))
  · refine (State.u_put_ne _ _ _ _ (by simp only [Obj.LOOP.LSTAT, Obj.LOOP.TRIPS]; omega)).trans ((State.u_put_ne _ _ _ _
      (by simp only [Obj.LOOP.I_SET, Obj.LOOP.TRIPS]; omega)).trans ?_)
    exact State.u_bump_self s _ hroom

@[simp] theorem State.modLoop_self (s : State) (o : Fin 8) (f : LoopPart → LoopPart) : (s.modLoop o f).plant.loops[o] = f s.plant.loops[o] := by
  simp [State.modLoop]

section
variable (h : plantOff s = false) (hc : clerksUp s = true) (h0 : s.u (Obj.LOOP.SOURCE o) ≠ 0) (h3 : s.u (Obj.LOOP.SOURCE o) ≠ 3)
include h hc h0 h3

/-- A loop with a source follows it while the outputs are on and the clerks up: a fault of it trips the loop. -/
theorem loopFollow_fault (hs : loopSource s o = .fault) : s.loopFollow o = s.loopTrip o := by
  rw [State.loopFollow]
  simp only [h, hc, h0, h3, hs, Bool.false_eq_true, false_or, if_false, Bool.not_true]

theorem loopFollow_value {v : Int} (hs : loopSource s o = .value v) : s.loopFollow o = s.loopGood o (setpoint s o v) := by
  rw [State.loopFollow]
  simp only [h, hc, h0, h3, hs, Bool.false_eq_true, false_or, if_false, Bool.not_true]

end

theorem srcAgeExpiry_trips (h : plantOff s = false) (hc : clerksUp s = true) (h2 : s.u (Obj.LOOP.SOURCE o) = 2)
    (hf : s.bit (Obj.LOOP.LSTAT o) Bit.LOOP.LSTAT.FAULT_LEVEL = false) (hroom : s.u (Obj.LOOP.TRIPS o) + 1 < 2 ^ 32) (hg : s.plant.loops[o].good ≤ 21000) :
    ∃ t : State, exec (.srcAgeExpiry o) s = .next t ∧ t.u (Obj.LOOP.I_SET o) = faultLevel s o ∧
      t.bit (Obj.LOOP.LSTAT o) Bit.LOOP.LSTAT.FAULT_LEVEL = true ∧ t.u (Obj.LOOP.TRIPS o) = s.u (Obj.LOOP.TRIPS o) + 1 ∧
      regsKept s t [Obj.LOOP.I_SET o, Obj.LOOP.LSTAT o, Obj.LOOP.TRIPS o] ∧ t.out = s.out ∧ t.mem = s.mem := by
  have hloop := s.modLoop_self o (fun l => { l with aged := true })
  have haged : loopSource (s.modLoop o (fun l => { l with aged := true })) o = .fault := by
    rw [loopSource, hloop]
    rfl
  have hlevel : faultLevel (s.modLoop o (fun l => { l with aged := true })) o = faultLevel s o := by
    rw [faultLevel, faultLevel, hloop]
    rfl
  have hgood : (s.modLoop o (fun l => { l with aged := true })).plant.loops[o].good ≤ 21000 := by
    rw [hloop]
    exact hg
  have hsource : (s.modLoop o (fun l => { l with aged := true })).u (Obj.LOOP.SOURCE o) = 2 := h2
  have hfollow := loopFollow_fault (s := s.modLoop o (fun l => { l with aged := true })) (o := o) h hc (by rw [hsource]; decide)
    (by rw [hsource]; decide) haged
  have hexec : exec (.srcAgeExpiry o) s = .next ((s.modLoop o (fun l => { l with aged := true })).loopTrip o) :=
    congrArg Host.Outcome.next ((if_pos ⟨hc, .inr h2⟩).trans hfollow)
  obtain ⟨hset, hstat, htrips, honly⟩ := loopTrip_trips (s := s.modLoop o (fun l => { l with aged := true })) hf hroom hgood
  obtain ⟨-, -, hmem, -, hout⟩ := honly.parts
  exact ⟨_, hexec, hset.trans hlevel, hstat, htrips, honly.2, hout, hmem⟩

theorem srcAgeExpiry_host (h : s.u (Obj.LOOP.SOURCE o) = 3) : exec (.srcAgeExpiry o) s = .next s :=
  congrArg Host.Outcome.next (if_neg (by omega))

theorem loopFollow_uncurved (h : plantOff s = false) (hc : clerksUp s = true) (h1 : s.u (Obj.LOOP.SOURCE o) = 1)
    (hcurve : s.u (Obj.SFE.CURVE (s.u (Obj.LOOP.SRC_INDEX o) % 8)) = 0) (hf : s.bit (Obj.LOOP.LSTAT o) Bit.LOOP.LSTAT.FAULT_LEVEL = false)
    (hroom : s.u (Obj.LOOP.TRIPS o) + 1 < 2 ^ 32) (hg : s.plant.loops[o].good ≤ 21000) :
    ∃ t : State, s.loopFollow o = t ∧ t.u (Obj.LOOP.I_SET o) = faultLevel s o ∧ t.bit (Obj.LOOP.LSTAT o) Bit.LOOP.LSTAT.FAULT_LEVEL = true ∧
      t.u (Obj.LOOP.TRIPS o) = s.u (Obj.LOOP.TRIPS o) + 1 ∧ regsKept s t [Obj.LOOP.I_SET o, Obj.LOOP.LSTAT o, Obj.LOOP.TRIPS o] := by
  have hfault : loopSource s o = .fault := by
    rw [loopSource, h1, if_pos rfl, if_pos hcurve]
    exact ite_self _
  have hfollow := loopFollow_fault h hc (by rw [h1]; decide) (by rw [h1]; decide) hfault
  obtain ⟨hset, hstat, htrips, honly⟩ := loopTrip_trips hf hroom hg
  exact ⟨_, hfollow, hset, hstat, htrips, honly.2⟩

/-- A good current is set. -/
theorem loopGood_sets (s : State) (o : Fin 8) {ua : Nat} (hu : ua < 2 ^ 16) : (s.loopGood o ua).u (Obj.LOOP.I_SET o) = ua ∧
    (s.loopGood o ua).bit (Obj.LOOP.LSTAT o) Bit.LOOP.LSTAT.FAULT_LEVEL = false ∧ regsKept s (s.loopGood o ua) [Obj.LOOP.I_SET o, Obj.LOOP.LSTAT o] ∧
    (s.loopGood o ua).array = s.array ∧ (s.loopGood o ua).plant.loops[o] = { s.plant.loops[o] with good := ua } := by
  have hloop := s.modLoop_self o (fun l => { l with good := ua })
  have hkept : regsKept s (s.modLoop o (fun l => { l with good := ua })) [Obj.LOOP.I_SET o, Obj.LOOP.LSTAT o] := (regsKept.refl s _).of_regs rfl
  refine ⟨?_, State.bit_putBit_self _ _ _ _ (by simp only [Obj.LOOP.LSTAT]; decide), (hkept.put (by simp) _).put (by simp) _, rfl, hloop⟩
  exact (State.u_put_ne _ _ _ _ (by simp only [Obj.LOOP.LSTAT, Obj.LOOP.I_SET]; omega)).trans (State.u_put_of_lt _ _ _ hu)

end

end Sys2Proof.Machine
end

section
/-! SUPPORT. Plant mail and emitter sinks (R446, R474 to R479; Machine/Plant.lean). -/

namespace Sys2Proof.Machine

section
variable {s t : State}

/-! ## Plant mail (R474) -/

/-- A state whose oldest plant mail has been taken. -/
def State.mailTaken (s : State) (rest : List (StallId × List Byte)) : State := { s with array := { s.array with mail := rest } }

theorem plantMail_none (h : s.array.mail = []) : exec .plantMail s = .next s := by
  refine congrArg Host.Outcome.next ?_
  rw [h]

section
variable {m : StallId × List Byte} {rest : List (StallId × List Byte)} (h : s.array.mail = m :: rest) (hc : clerksUp s = true) (hl : s.plant.live = true)
include h hc hl

theorem plantMail_takes : exec .plantMail s = .next ((s.mailTaken rest).plantMail m.2) := by
  refine congrArg Host.Outcome.next ?_
  rw [h]
  exact if_pos ⟨hc, hl⟩

theorem plantMail_bad (h1 : fromLe (m.2.take 1) ≠ 1) (h2 : fromLe (m.2.take 1) ≠ 2) (hroom : s.u Obj.LOOP.MAIL_BAD + 1 < 2 ^ 32) :
    ∃ t : State, exec .plantMail s = .next t ∧ t.u Obj.LOOP.MAIL_BAD = s.u Obj.LOOP.MAIL_BAD + 1 ∧ t.array.mail = rest ∧ regsKept s t [Obj.LOOP.MAIL_BAD] ∧
      t.plant = s.plant := by
  have hbad : (s.mailTaken rest).plantMail m.2 = (s.mailTaken rest).bump Obj.LOOP.MAIL_BAD := by
    rw [State.plantMail, if_neg fun hc => h1 hc.1, if_neg fun hc => h2 hc.1]
  have hkept : regsKept s (s.mailTaken rest) [Obj.LOOP.MAIL_BAD] := (regsKept.refl s _).of_regs rfl
  exact ⟨_, (plantMail_takes h hc hl).trans (congrArg Host.Outcome.next hbad), State.u_bump_self (s.mailTaken rest) _ hroom, rfl,
    hkept.put List.mem_cons_self _, rfl⟩

theorem plantMail_sets {o : Fin 8} (h1 : fromLe (m.2.take 1) = 1) (ho : fromLe (slice m.2 1 1) = o.val) (h2 : s.u (Obj.LOOP.SOURCE o) = 2)
    (hf : (m.2.getD 2 0).getLsbD 0 = false) (hoff : plantOff s = false) :
    ∃ t : State, exec .plantMail s = .next t ∧ t.array.mail = rest ∧ t.u (Obj.LOOP.I_SET o) = setpoint s o (toSigned 32 (fromLe (slice m.2 4 4))) ∧
      t.plant.loops[o].mail = some (toSigned 32 (fromLe (slice m.2 4 4))) ∧ t.bit (Obj.LOOP.LSTAT o) Bit.LOOP.LSTAT.FAULT_LEVEL = false ∧
      regsKept s t [Obj.LOOP.I_SET o, Obj.LOOP.LSTAT o] := by
  generalize hv : toSigned 32 (fromLe (slice m.2 4 4)) = v
  have hindex : (⟨fromLe (slice m.2 1 1) % 8, Nat.mod_lt _ (by decide)⟩ : Fin 8) = o := Fin.ext (by rw [ho]; exact Nat.mod_eq_of_lt o.isLt)
  have hmail : (s.mailTaken rest).plantMail m.2 =
      ((s.mailTaken rest).modLoop o (fun l => { l with mail := some v, mailFault := false, aged := false })).loopFollow o := by
    rw [State.plantMail]
    simp only [hindex, hv, hf]
    have hsource : (s.mailTaken rest).u (Obj.LOOP.SOURCE (fromLe (slice m.2 1 1) % 8)) = 2 := by
      rw [ho, Nat.mod_eq_of_lt o.isLt]
      exact h2
    exact if_pos ⟨h1, by rw [ho]; exact o.isLt, hsource⟩
  have hloop := (s.mailTaken rest).modLoop_self o (fun l => { l with mail := some v, mailFault := false, aged := false })
  have hsource : ((s.mailTaken rest).modLoop o (fun l => { l with mail := some v, mailFault := false, aged := false })).u (Obj.LOOP.SOURCE o) = 2 := h2
  have hvalue : loopSource ((s.mailTaken rest).modLoop o (fun l => { l with mail := some v, mailFault := false, aged := false })) o = .value v := by
    rw [loopSource, hloop, hsource]
    rfl
  have hpoint : setpoint ((s.mailTaken rest).modLoop o (fun l => { l with mail := some v, mailFault := false, aged := false })) o v = setpoint s o v := rfl
  have hfollow := loopFollow_value (s := (s.mailTaken rest).modLoop o (fun l => { l with mail := some v, mailFault := false, aged := false })) (o := o)
    hoff hc (by rw [hsource]; decide) (by rw [hsource]; decide) hvalue
  have hkept : regsKept s ((s.mailTaken rest).modLoop o (fun l => { l with mail := some v, mailFault := false, aged := false }))
      [Obj.LOOP.I_SET o, Obj.LOOP.LSTAT o] := (regsKept.refl s _).of_regs rfl
  have harray : ((s.mailTaken rest).modLoop o (fun l => { l with mail := some v, mailFault := false, aged := false })).array.mail = rest := rfl
  refine ⟨_, (plantMail_takes h hc hl).trans (congrArg Host.Outcome.next (hmail.trans hfollow)), ?_⟩
  rw [hpoint]
  generalize (s.mailTaken rest).modLoop o (fun l => { l with mail := some v, mailFault := false, aged := false }) = w at *
  obtain ⟨hset, hstat, hgood, harray', hloop'⟩ := loopGood_sets w o (setpoint_lt s o v)
  exact ⟨by rw [harray', harray], hset, by rw [hloop', hloop], hstat, hkept.trans hgood⟩

end

/-! ## The common scale of the sinks (R477) -/

/-- The factor after a mean power. -/
def scaleAfter (s : State) (p : Nat) : Nat :=
  if 1500 < p then (if p = 0 then 65535 else (freeRound ((s.u Obj.SINK.SCALE_NOW * 1500 : Nat) : Int) p).toNat)
  else min (min 65535 (s.u Obj.SINK.SCALE_NOW + 4096)) (if p = 0 then 65535 else (freeRound ((s.u Obj.SINK.SCALE_NOW * 1500 : Nat) : Int) p).toNat)

/-- The state after a mean power. -/
def State.powered (s : State) (p : Nat) : State :=
  ((s.put Obj.SINK.P_TOTAL p).put Obj.SINK.SCALE_NOW (scaleAfter s p)).putBit Obj.SINK.FLAGS Bit.SINK.FLAGS.SINK_LIMIT (scaleAfter s p != 65535)

theorem sinkPowerAverage_powers (s : State) (p : Nat) : exec (.sinkPowerAverage p) s = .next (s.powered p) := rfl

theorem State.powered_regs (s : State) (p : Nat) (hp : p < 2 ^ 16) : (s.powered p).u Obj.SINK.P_TOTAL = p ∧
    (s.powered p).u Obj.SINK.SCALE_NOW = scaleAfter s p % 2 ^ 16 ∧ (s.powered p).bit Obj.SINK.FLAGS Bit.SINK.FLAGS.SINK_LIMIT = (scaleAfter s p != 65535) ∧
    onlyRegs s (s.powered p) [Obj.SINK.P_TOTAL, Obj.SINK.SCALE_NOW, Obj.SINK.FLAGS] := by
  rw [State.powered]
  generalize scaleAfter s p = f
  refine ⟨?_, ?_, State.bit_putBit_self _ _ _ _ (by decide), (((onlyRegs.refl s _).put (by simp) _).put (by simp) _).put (by simp) _⟩
  · rw [State.putBit, State.u_put_ne _ _ _ _ (by decide), State.u_put_ne _ _ _ _ (by decide)]
    exact State.u_put_of_lt s _ _ hp
  · rw [State.putBit, State.u_put_ne _ _ _ _ (by decide), State.u_put_self]
    rfl

/-- A sum within 1.5 W leaves the whole scale. -/
theorem scaleAfter_whole {p : Nat} (hp : p ≤ 1500) (h : s.u Obj.SINK.SCALE_NOW = 0xFFFF) : scaleAfter s p = 0xFFFF := by
  have hallowed : 65535 ≤ (if p = 0 then 65535 else (freeRound ((s.u Obj.SINK.SCALE_NOW * 1500 : Nat) : Int) p).toNat) := by
    split
    · exact Nat.le_refl _
    · have hquot : (65535 : Int) ≤ freeRound ((s.u Obj.SINK.SCALE_NOW * 1500 : Nat) : Int) p := le_freeRound (by omega) (by rw [h]; omega)
      omega
  rw [scaleAfter, if_neg (by omega)]
  generalize (if p = 0 then 65535 else (freeRound ((s.u Obj.SINK.SCALE_NOW * 1500 : Nat) : Int) p).toNat) = a at *
  omega

theorem scaleAfter_exact {p f : Nat} (hp : 1500 < p) (h : s.u Obj.SINK.SCALE_NOW * 1500 = p * f) : scaleAfter s p = f := by
  have hquot : freeRound ((s.u Obj.SINK.SCALE_NOW * 1500 : Nat) : Int) p = f := by
    have hcast : ((s.u Obj.SINK.SCALE_NOW * 1500 : Nat) : Int) = (f : Int) * p := by rw [h]; push_cast; ring
    rw [hcast]
    exact freeRound_mul (by omega)
  rw [scaleAfter, if_pos hp, if_neg (by omega), hquot]
  rfl

theorem scaleAfter_le {p : Nat} (hp : p ≤ 1500) : scaleAfter s p ≤ s.u Obj.SINK.SCALE_NOW + 4096 := by
  rw [scaleAfter, if_neg (by omega)]
  omega

/-! ## Pins (R478) -/

section
variable {k : Fin 16} {mv vs : Nat}

theorem sinkPinSample_off (h : plantOff s = true ∨ s.u (Obj.SINK.MODE k) = 0 ∨ s.bit (Obj.SINK.SSTAT k) Bit.SINK.SSTAT.SHORT = true) :
    exec (.sinkPinSample k mv vs) s = .next s := congrArg Host.Outcome.next (if_pos h)

theorem sinkOn_short (h : s.bit (Obj.SINK.SSTAT k) Bit.SINK.SSTAT.SHORT = true) : sinkOn s k = false := by
  rw [sinkOn, h, Bool.not_true, Bool.and_false, Bool.false_and, Bool.false_and]

/-- A pin's sample, before it is judged. -/
def State.pinRead (s : State) (k : Fin 16) (mv : Nat) : State :=
  let t := (s.put (Obj.SINK.V_PIN k) mv).clrBit (Obj.SINK.SSTAT k) Bit.SINK.SSTAT.UNTESTED
  { t with plant := { t.plant with tests := t.plant.tests.set k 0 } }

/-- OPEN as a sample finds it. -/
def State.pinOpen (s : State) (k : Fin 16) (mv : Nat) : State :=
  if mv < 400 then
    (if s.bit (Obj.SINK.SSTAT k) Bit.SINK.SSTAT.OPEN then s else (s.setBit (Obj.SINK.SSTAT k) Bit.SINK.SSTAT.OPEN).bump (Obj.SINK.OPENS k))
  else s.clrBit (Obj.SINK.SSTAT k) Bit.SINK.SSTAT.OPEN

/-- SHORT as a sample finds it. -/
def State.pinShort (s : State) (k : Fin 16) (mv vs : Nat) : State :=
  if vs ≤ mv + 200 then
    (if s.bit (Obj.SINK.SSTAT k) Bit.SINK.SSTAT.SHORT then s else (s.setBit (Obj.SINK.SSTAT k) Bit.SINK.SSTAT.SHORT).bump (Obj.SINK.SHORTS k))
  else s

theorem judgePin_eq (s : State) (k : Fin 16) (mv vs : Nat) : s.judgePin k mv vs = ((s.pinRead k mv).pinOpen k mv).pinShort k mv vs := rfl

/-- The registers that a pin's sample may change. -/
def pinRegs (k : Nat) : List Reg := [Obj.SINK.V_PIN k, Obj.SINK.SSTAT k, Obj.SINK.OPENS k, Obj.SINK.SHORTS k]

theorem State.pinOpen_sets (s : State) (k : Fin 16) (mv : Nat) : (s.pinOpen k mv).bit (Obj.SINK.SSTAT k) Bit.SINK.SSTAT.OPEN = decide (mv < 400) ∧
    (∀ b, b < 8 → b ≠ Bit.SINK.SSTAT.OPEN → (s.pinOpen k mv).bit (Obj.SINK.SSTAT k) b = s.bit (Obj.SINK.SSTAT k) b) ∧
    (s.pinOpen k mv).u (Obj.SINK.V_PIN k) = s.u (Obj.SINK.V_PIN k) ∧ onlyRegs s (s.pinOpen k mv) (pinRegs k) := by
  have hwidth : Bit.SINK.SSTAT.OPEN < (Obj.SINK.SSTAT k).width := by simp only [Obj.SINK.SSTAT]; decide
  have hput : ∀ x : Bool, (s.putBit (Obj.SINK.SSTAT k) Bit.SINK.SSTAT.OPEN x).bit (Obj.SINK.SSTAT k) Bit.SINK.SSTAT.OPEN = x ∧
      (∀ b, b < 8 → b ≠ Bit.SINK.SSTAT.OPEN → (s.putBit (Obj.SINK.SSTAT k) Bit.SINK.SSTAT.OPEN x).bit (Obj.SINK.SSTAT k) b = s.bit (Obj.SINK.SSTAT k) b) ∧
      (s.putBit (Obj.SINK.SSTAT k) Bit.SINK.SSTAT.OPEN x).u (Obj.SINK.V_PIN k) = s.u (Obj.SINK.V_PIN k) ∧
      onlyRegs s (s.putBit (Obj.SINK.SSTAT k) Bit.SINK.SSTAT.OPEN x) (pinRegs k) := fun x =>
    ⟨State.bit_putBit_self _ _ _ _ hwidth, fun b hb hne => (State.bit_putBit _ _ _ _ _ hb).trans (if_neg fun e => hne e.symm),
      State.u_put_ne _ _ _ _ (by simp only [Obj.SINK.SSTAT, Obj.SINK.V_PIN]; omega), (onlyRegs.refl s _).put (by simp [pinRegs]) _⟩
  rw [State.pinOpen]
  by_cases h : mv < 400
  · rw [if_pos h, decide_eq_true h]
    cases ho : s.bit (Obj.SINK.SSTAT k) Bit.SINK.SSTAT.OPEN with
    | true => exact ⟨ho, fun _ _ _ => rfl, rfl, onlyRegs.refl s _⟩
    | false =>
      obtain ⟨hopen, hbits, hpin, honly⟩ := hput true
      rw [← State.setBit_eq] at hopen hbits hpin honly
      have hstat : ∀ v : State, (v.bump (Obj.SINK.OPENS k)).u (Obj.SINK.SSTAT k) = v.u (Obj.SINK.SSTAT k) := fun v =>
        State.u_put_ne _ _ _ _ (by simp only [Obj.SINK.OPENS, Obj.SINK.SSTAT]; omega)
      rw [if_neg Bool.false_ne_true]
      refine ⟨by rw [State.bit, hstat]; exact hopen, fun b hb hne => by rw [State.bit, hstat]; exact hbits b hb hne,
        (State.u_put_ne _ _ _ _ (by simp only [Obj.SINK.OPENS, Obj.SINK.V_PIN]; omega)).trans hpin, honly.put (by simp [pinRegs]) _⟩
  · rw [if_neg h, decide_eq_false h]
    exact hput false

theorem State.pinShort_sets (s : State) (k : Fin 16) (mv vs : Nat) (h0 : s.bit (Obj.SINK.SSTAT k) Bit.SINK.SSTAT.SHORT = false) :
    (s.pinShort k mv vs).bit (Obj.SINK.SSTAT k) Bit.SINK.SSTAT.SHORT = decide (vs ≤ mv + 200) ∧
    (∀ b, b < 8 → b ≠ Bit.SINK.SSTAT.SHORT → (s.pinShort k mv vs).bit (Obj.SINK.SSTAT k) b = s.bit (Obj.SINK.SSTAT k) b) ∧
    (s.pinShort k mv vs).u (Obj.SINK.V_PIN k) = s.u (Obj.SINK.V_PIN k) ∧ onlyRegs s (s.pinShort k mv vs) (pinRegs k) := by
  rw [State.pinShort]
  by_cases h : vs ≤ mv + 200
  · have hstat : ∀ v : State, (v.bump (Obj.SINK.SHORTS k)).u (Obj.SINK.SSTAT k) = v.u (Obj.SINK.SSTAT k) := fun v =>
      State.u_put_ne _ _ _ _ (by simp only [Obj.SINK.SHORTS, Obj.SINK.SSTAT]; omega)
    rw [if_pos h, decide_eq_true h, h0, if_neg Bool.false_ne_true, State.setBit_eq]
    refine ⟨?_, fun b hb hne => ?_, ?_, ((onlyRegs.refl s _).put (by simp [pinRegs]) _).put (by simp [pinRegs]) _⟩
    · rw [State.bit, hstat]
      exact State.bit_putBit_self _ _ _ _ (by simp only [Obj.SINK.SSTAT]; decide)
    · rw [State.bit, hstat]
      exact (State.bit_putBit _ _ _ _ _ hb).trans (if_neg fun e => hne e.symm)
    · exact (State.u_put_ne _ _ _ _ (by simp only [Obj.SINK.SHORTS, Obj.SINK.V_PIN]; omega)).trans
        (State.u_put_ne _ _ _ _ (by simp only [Obj.SINK.SSTAT, Obj.SINK.V_PIN]; omega))
  · rw [if_neg h, decide_eq_false h]
    exact ⟨h0, fun _ _ _ => rfl, rfl, onlyRegs.refl s _⟩

theorem sinkPinSample_judges (hoff : plantOff s = false) (hm : s.u (Obj.SINK.MODE k) ≠ 0) (hshort : s.bit (Obj.SINK.SSTAT k) Bit.SINK.SSTAT.SHORT = false)
    (hmv : mv < 2 ^ 16) :
    ∃ t : State, exec (.sinkPinSample k mv vs) s = .next t ∧ t.u (Obj.SINK.V_PIN k) = mv ∧
      t.bit (Obj.SINK.SSTAT k) Bit.SINK.SSTAT.OPEN = decide (mv < 400) ∧ t.bit (Obj.SINK.SSTAT k) Bit.SINK.SSTAT.SHORT = decide (vs ≤ mv + 200) ∧
      t.bit (Obj.SINK.SSTAT k) Bit.SINK.SSTAT.UNTESTED = false ∧ (vs ≤ mv + 200 → sinkOn t k = false) ∧
      regsKept s t [Obj.SINK.V_PIN k, Obj.SINK.SSTAT k, Obj.SINK.OPENS k, Obj.SINK.SHORTS k] ∧ t.out = s.out ∧ t.mem = s.mem := by
  have hexec : exec (.sinkPinSample k mv vs) s = .next (s.judgePin k mv vs) := congrArg Host.Outcome.next (if_neg (by simp [hoff, hm, hshort]))
  have hread : (s.pinRead k mv).u (Obj.SINK.V_PIN k) = mv := by
    refine (State.u_put_ne (s.put (Obj.SINK.V_PIN k) mv) (Obj.SINK.SSTAT k) _ _ (by simp only [Obj.SINK.SSTAT, Obj.SINK.V_PIN]; omega)).trans ?_
    exact State.u_put_of_lt s _ _ hmv
  have hbits : ∀ b, b < 8 → (s.pinRead k mv).bit (Obj.SINK.SSTAT k) b =
      if Bit.SINK.SSTAT.UNTESTED = b then false else s.bit (Obj.SINK.SSTAT k) b := fun b hb => by
    refine (State.bit_putBit (s.put (Obj.SINK.V_PIN k) mv) (Obj.SINK.SSTAT k) Bit.SINK.SSTAT.UNTESTED b false hb).trans ?_
    rw [State.bit_put_ne _ _ _ _ _ (by simp only [Obj.SINK.SSTAT, Obj.SINK.V_PIN]; omega)]
  have hkept : regsKept s (s.pinRead k mv) (pinRegs k) :=
    (((regsKept.refl s _).put (by simp [pinRegs]) mv).put (r := Obj.SINK.SSTAT k) (by simp [pinRegs]) _).of_regs rfl
  have hparts : (s.pinRead k mv).out = s.out ∧ (s.pinRead k mv).mem = s.mem := ⟨rfl, rfl⟩
  refine ⟨_, hexec.trans (congrArg Host.Outcome.next (judgePin_eq s k mv vs)), ?_⟩
  generalize s.pinRead k mv = w at *
  obtain ⟨hopen, hbits', hpin, honly⟩ := w.pinOpen_sets k mv
  have hshort' : (w.pinOpen k mv).bit (Obj.SINK.SSTAT k) Bit.SINK.SSTAT.SHORT = false := by
    rw [hbits' _ (by decide) (by decide), hbits _ (by decide)]
    exact hshort
  obtain ⟨hset, hbits'', hpin', honly'⟩ := (w.pinOpen k mv).pinShort_sets k mv vs hshort'
  have huntested : ((w.pinOpen k mv).pinShort k mv vs).bit (Obj.SINK.SSTAT k) Bit.SINK.SSTAT.UNTESTED = false := by
    rw [hbits'' _ (by decide) (by decide), hbits' _ (by decide) (by decide), hbits _ (by decide), if_pos rfl]
  obtain ⟨-, -, hmem, -, hout⟩ := honly.parts
  obtain ⟨-, -, hmem', -, hout'⟩ := honly'.parts
  exact ⟨hpin'.trans (hpin.trans hread), (hbits'' _ (by decide) (by decide)).trans hopen, hset, huntested,
    fun h => sinkOn_short (hset.trans (decide_eq_true h)), (hkept.trans honly.2).trans honly'.2, hout'.trans (hout.trans hparts.1), hmem'.trans (hmem.trans hparts.2)⟩

/-! ## Test pulses (R479) -/

theorem testBarred_held (h : notActive s = true ∨ s.bit (Obj.SINK.SSTAT k) Bit.SINK.SSTAT.SHORT = true) : testBarred s k = true := by
  rw [testBarred]
  rcases h with h | h
  · rw [h]
    simp only [Bool.true_or]
  · rw [h]
    simp only [Bool.or_true, Bool.true_or]

theorem sinkTestPulse_none (h : sinkOn s k = true ∨ s.u (Obj.SINK.TEST_EN k) = 0) : exec (.sinkTestPulse k mv vs) s = .next s :=
  congrArg Host.Outcome.next (if_pos (.inr h.symm))

section
variable (hl : s.plant.live = true) (ht : s.u (Obj.SINK.TEST_EN k) ≠ 0) (hs : sinkOn s k = false)
include hl ht hs

theorem sinkTestPulse_due : ¬((!s.plant.live) = true ∨ s.u (Obj.SINK.TEST_EN k) = 0 ∨ sinkOn s k = true) := by simp [hl, ht, hs]

theorem sinkTestPulse_pulses (hb : testBarred s k = false) :
    exec (.sinkTestPulse k mv vs) s = .next ((s.emit (.sinkPulse k (s.u Obj.SINK.TEST_MA))).judgePin k mv vs) :=
  congrArg Host.Outcome.next ((if_neg (sinkTestPulse_due hl ht hs)).trans (if_neg (Bool.eq_false_iff.mp hb)))

/-- A test that is barred counts. -/
def State.testsAre (s : State) (k : Fin 16) (n : Nat) : State := { s with plant := { s.plant with tests := s.plant.tests.set k n } }

theorem sinkTestPulse_barred (hb : testBarred s k = true) : exec (.sinkTestPulse k mv vs) s = .next (if min 4 (s.plant.tests[k] + 1) = 4
    then (s.testsAre k (min 4 (s.plant.tests[k] + 1))).setBit (Obj.SINK.SSTAT k) Bit.SINK.SSTAT.UNTESTED else s.testsAre k (min 4 (s.plant.tests[k] + 1))) :=
  congrArg Host.Outcome.next ((if_neg (sinkTestPulse_due hl ht hs)).trans (if_pos hb))

theorem sinkTestPulse_counts (hb : testBarred s k = true) (h3 : s.plant.tests[k] < 3) :
    exec (.sinkTestPulse k mv vs) s = .next (s.testsAre k (s.plant.tests[k] + 1)) := by
  have hmin : min 4 (s.plant.tests[k] + 1) = s.plant.tests[k] + 1 := by omega
  rw [sinkTestPulse_barred hl ht hs hb, hmin, if_neg (by omega)]

theorem sinkTestPulse_untested (hb : testBarred s k = true) (h3 : 3 ≤ s.plant.tests[k]) :
    ∃ t : State, exec (.sinkTestPulse k mv vs) s = .next t ∧ t.bit (Obj.SINK.SSTAT k) Bit.SINK.SSTAT.UNTESTED = true ∧ t.out = s.out := by
  have hmin : min 4 (s.plant.tests[k] + 1) = 4 := by omega
  have hexec := sinkTestPulse_barred (mv := mv) (vs := vs) hl ht hs hb
  rw [hmin, if_pos rfl] at hexec
  exact ⟨_, hexec, State.bit_putBit_self _ _ _ _ (by simp only [Obj.SINK.SSTAT]; decide), rfl⟩

end

end

/-! ## The current of a sink (R458, R475, R477) -/

theorem sinkCurrent_off {k : Fin 16} (h : plantOff s = true) : sinkCurrent s k = 0 := by
  have hoff : sinkOn s k = false := by rw [sinkOn, h, Bool.not_true, Bool.false_and, Bool.false_and, Bool.false_and]
  rw [sinkCurrent, hoff]
  rfl

theorem sinkCurrent_whole {k : Fin 16} (h : sinkOn s k = true) (hg : s.u Obj.SINK.GLOBAL = 65535) (hn : s.u Obj.SINK.SCALE_NOW = 65535) :
    sinkCurrent s k = s.u (Obj.SINK.SET k) := by
  rw [sinkCurrent, h, hg, hn]
  simp

theorem sinkCurrent_half {k : Fin 16} (h : sinkOn s k = true) (hg : s.u Obj.SINK.GLOBAL = 32768) (hn : s.u Obj.SINK.SCALE_NOW = 65535) :
    2 * sinkCurrent s k = s.u (Obj.SINK.SET k) := by
  rw [sinkCurrent, h, hg, hn]
  simp only [if_true, show ¬((32768 : Nat) = 65535) by decide, if_false]
  push_cast
  ring

end

end Sys2Proof.Machine
end

section
/-! SUPPORT. The latch chain and the writes of CLEAR_SHORT and IMAGE (R478, R480, R481), and the statement on the plant's outputs. -/

namespace Sys2Proof.Machine

section
variable {s t : State} {x : Session} {r : Req}

/-! ## CLEAR_SHORT (R478) -/

/-- CLEAR_SHORT takes commands of level 2, of which the lower 16 bits count. -/
theorem clearShortRow : ∃ row, Takes 0x7200 7 .bits32 2 row ∧ row.acc = .wo ∧ row.mask = some 0xFFFF ∧ row.range = none :=
  ⟨_, ⟨rfl, rfl, by decide, by decide, by decide⟩, rfl, rfl, rfl⟩

theorem clearShort_command (t : State) (x : Session) (v : Nat) : t.command x (0x7200 * 256 + 7) v = clearShortEff t v := rfl

theorem clearShort_acts {mask : BitVec 16} (h : wrote s t x r 0x7200 7 .bits32 (le 4 mask.toNat) 2) :
    exec (.clearShort r mask) s = .next (granted (clearShortEff t mask.toNat) x r) := by
  obtain ⟨row, w, hwo, hmask, hrange⟩ := clearShortRow
  have hlt := mask.isLt
  have hv : fromLe (le 4 mask.toNat) = mask.toNat := fromLe_le_lt (by omega)
  have hbits : unreserved row mask.toNat = mask.toNat := by
    rw [unreserved, hmask]
    exact (Nat.and_two_pow_sub_one_eq_mod mask.toNat 16).trans (Nat.mod_eq_of_lt hlt)
  have hblob : isBlob row.ty = false := by rw [w.typed]; rfl
  have henters : enters (0x7200 * 256 + 7) row = false := by
    rw [enters, hwo]
    rfl
  have hsize : sizeGood (0x7200 * 256 + 7) row (le 4 mask.toNat) = true := by
    rw [sizeGood, hblob, w.typed]
    simp [le_length, Ty.bytes]
  have hpends : applyPends t (0x7200 * 256 + 7) row = false := by rw [applyPends, henters]; rfl
  have heffect : effectCode t (0x7200 * 256 + 7) row (le 4 mask.toNat) true = 0 :=
    effectCode_plain (by decide) (.inr (by rw [inRange, hrange])) h.2.2.2.1 h.2.2.2.2
  have hwrite : t.writeEff x r (0x7200 * 256 + 7) row (le 4 mask.toNat) = (clearShortEff t mask.toNat, 0) := by
    rw [State.writeEff, isW1c_of_not_ro w.writable, henters, hblob, hv, hbits, clearShort_command]
    rfl
  have hacts := wrote_acts h w hsize (formCode_other (by decide)) hpends heffect hwrite
  rw [State.afterWrite_none _ _ _ _ (by decide)] at hacts
  exact congrArg Host.Outcome.next hacts

/-- One sink's part of CLEAR_SHORT. -/
def State.shortCleared (t : State) (mask : Nat) (k : Fin 16) : State := if mask.testBit k then t.clrBit (Obj.SINK.SSTAT k) Bit.SINK.SSTAT.SHORT else t

theorem State.shortCleared_other (t : State) (mask : Nat) {j k : Fin 16} (h : k ≠ j) (b : Nat) :
    (t.shortCleared mask j).bit (Obj.SINK.SSTAT k) b = t.bit (Obj.SINK.SSTAT k) b := by
  have hne : k.val ≠ j.val := fun e => h (Fin.ext e)
  rw [State.shortCleared]
  split
  · exact State.bit_put_ne _ _ _ _ _ (by simp only [Obj.SINK.SSTAT]; omega)
  · rfl

theorem State.shortCleared_self (t : State) (mask : Nat) (k : Fin 16) (b : Nat) (hb : b < 8) : (t.shortCleared mask k).bit (Obj.SINK.SSTAT k) b =
    if Bit.SINK.SSTAT.SHORT = b then (t.bit (Obj.SINK.SSTAT k) b && !mask.testBit k) else t.bit (Obj.SINK.SSTAT k) b := by
  rw [State.shortCleared]
  cases hm : mask.testBit k with
  | false => simp
  | true =>
    rw [if_pos rfl, Bool.not_true, Bool.and_false]
    exact State.bit_putBit _ _ _ _ _ hb

theorem clearShort_clears (t : State) (mask : BitVec 16) :
    onlyRegs t (clearShortEff t mask.toNat) ((List.finRange 16).map (fun k => Obj.SINK.SSTAT k)) ∧
    (∀ (k : Fin 16) (b : Nat), b < 8 → (clearShortEff t mask.toNat).bit (Obj.SINK.SSTAT k) b =
      if Bit.SINK.SSTAT.SHORT = b then (t.bit (Obj.SINK.SSTAT k) b && !mask.getLsbD k.val) else t.bit (Obj.SINK.SSTAT k) b) := by
  have hfold : clearShortEff t mask.toNat = overAll t (fun u k => u.shortCleared mask.toNat k) := rfl
  rw [hfold]
  refine ⟨?_, fun k b hb => ?_⟩
  · refine overAll_induct (P := fun u => onlyRegs t u ((List.finRange 16).map (fun k => Obj.SINK.SSTAT k))) (fun u k hu => ?_) t (onlyRegs.refl t _)
    rw [State.shortCleared]
    split
    · exact hu.put (List.mem_map.mpr ⟨k.val, by simp, rfl⟩) _
    · exact hu
  · refine overAll_turn (P := fun u => u.bit (Obj.SINK.SSTAT k) b = t.bit (Obj.SINK.SSTAT k) b) (Q := fun u => u.bit (Obj.SINK.SSTAT k) b =
      if Bit.SINK.SSTAT.SHORT = b then (t.bit (Obj.SINK.SSTAT k) b && !mask.getLsbD k.val) else t.bit (Obj.SINK.SSTAT k) b) k (fun u j hj hu => ?_) (fun u hu => ?_) (fun u j hj hu => ?_) t rfl
    · exact (u.shortCleared_other mask.toNat hj.symm b).trans hu
    · rw [u.shortCleared_self mask.toNat k b hb, hu]
      rfl
    · exact (u.shortCleared_other mask.toNat hj.symm b).trans hu

/-! ## IMAGE (R480) -/

/-- IMAGE takes writes of level 2, and they act at once. -/
theorem chainImageRow : ∃ row, Takes 0x7300 6 .blob 2 row ∧ row.acc = .rwp :=
  ⟨_, ⟨rfl, rfl, by decide, by decide, by decide⟩, rfl⟩

theorem chainImage_command (t : State) (v : List Byte) : t.blobCommand (0x7300 * 256 + 6) v = (chainImageEff t v, 0) := rfl

theorem chainImage_acts {bits : List Byte} (h : wrote s t x r 0x7300 6 .blob bits 2) (hlen : bits.length = 128) :
    exec (.chainImage r bits) s = .next (granted (chainImageEff t bits) x r) := by
  obtain ⟨row, w, hacc⟩ := chainImageRow
  have hblob : isBlob row.ty = true := by rw [w.typed]; rfl
  have henters : enters (0x7300 * 256 + 6) row = false := by
    rw [enters, hacc]
    rfl
  have hsize : sizeGood (0x7300 * 256 + 6) row bits = true := by
    rw [sizeGood, hblob, if_pos rfl, hlen]
    rfl
  have hpends : applyPends t (0x7300 * 256 + 6) row = false := by rw [applyPends, henters]; rfl
  have heffect : effectCode t (0x7300 * 256 + 6) row bits true = 0 := effectCode_plain (by decide) (.inl hblob) h.2.2.2.1 h.2.2.2.2
  have hwrite : t.writeEff x r (0x7300 * 256 + 6) row bits = (chainImageEff t bits, 0) := by
    rw [State.writeEff, isW1c_of_not_ro w.writable, henters, hblob, chainImage_command]
    rfl
  have hacts := wrote_acts h w hsize (formCode_other (by decide)) hpends heffect hwrite
  rw [State.afterWrite_none _ _ _ _ (by decide)] at hacts
  exact congrArg Host.Outcome.next hacts

theorem padTo_length (n : Nat) (l : List Byte) : (padTo n l).length = n := by
  rw [padTo, List.length_append, List.length_take, List.length_replicate]
  omega

/-- A bit of one image where a mask has it, of another elsewhere. -/
theorem imageHas_merge {m a b : List Byte} (hm : m.length = 128) (ha : a.length = 128) (hb : b.length = 128) {i : Nat} (hi : i < 1024) :
    imageHas (bytesOr (bytesAnd m a) (bytesAnd (bytesNot m) b)) i = if imageHas m i then imageHas a i else imageHas b i := by
  have hi8 : i / 8 < 128 := by omega
  have hbit : i % 8 < 8 := Nat.mod_lt _ (by decide)
  have hget : ∀ l : List Byte, l.length = 128 → ∃ y, l[i / 8]? = some y := fun l hl => ⟨_, List.getElem?_eq_getElem (by omega)⟩
  obtain ⟨ym, hym⟩ := hget m hm
  obtain ⟨ya, hya⟩ := hget a ha
  obtain ⟨yb, hyb⟩ := hget b hb
  have hzip : (bytesOr (bytesAnd m a) (bytesAnd (bytesNot m) b))[i / 8]? = some ((ym &&& ya) ||| (~~~ym &&& yb)) := by
    simp [bytesOr, bytesAnd, bytesNot, List.getElem?_zipWith, hym, hya, hyb]
  simp only [imageHas, List.getD_eq_getElem?_getD, hzip, hym, hya, hyb, Option.getD_some]
  rw [BitVec.getLsbD_or, BitVec.getLsbD_and, BitVec.getLsbD_and, BitVec.getLsbD_not]
  cases ym.getLsbD (i % 8) <;> simp [hbit]

theorem State.chainStart_dead (h : chainLive s = false) : s.chainStart = s := if_neg (by rw [h]; simp)

theorem State.chainFollow_dead (h : chainLive s = false) : s.chainFollow = s := by
  rw [State.chainFollow]
  split
  · exact s.chainStart_dead h
  · rfl

theorem chainImage_takes (bits : List Byte) (hlen : bits.length = 128) (h : chainLive t = false) :
    (∀ i : Nat, i < 1024 → imageHas ((chainImageEff t bits).blob Obj.CHAIN.IMAGE) i =
      (if imageHas (chainBlob t Obj.CHAIN.MAIL_MASK) i then imageHas (chainBlob t Obj.CHAIN.IMAGE) i else imageHas bits i)) ∧
    (chainImageEff t bits).bit Obj.FLASH.PENDING 1 = true ∧ (chainImageEff t bits).plant = t.plant ∧ (chainImageEff t bits).mem = t.mem ∧
    (chainImageEff t bits).out = t.out := by
  have hlive : ∀ v : List Byte, chainLive ((t.putBlob Obj.CHAIN.IMAGE v).setBit Obj.FLASH.PENDING 1) = chainLive t := fun v => by
    simp only [chainLive, plantOff, notActive, State.setBit_eq, State.putBit]
    rw [State.u_put_ne _ _ _ _ (by decide), State.u_put_ne _ _ _ _ (by decide), State.u_put_ne _ _ _ _ (by decide), State.u_put_ne _ _ _ _ (by decide)]
    rfl
  rw [chainImageEff, padTo_self 128 bits hlen]
  generalize hv : bytesOr (bytesAnd (chainBlob t Obj.CHAIN.MAIL_MASK) (chainBlob t Obj.CHAIN.IMAGE)) (bytesAnd (bytesNot (chainBlob t Obj.CHAIN.MAIL_MASK)) bits) = v
  rw [State.chainFollow_dead ((hlive v).trans h)]
  have hblob : ((t.putBlob Obj.CHAIN.IMAGE v).setBit Obj.FLASH.PENDING 1).blob Obj.CHAIN.IMAGE = v := t.blob_putBlob_self Obj.CHAIN.IMAGE v
  refine ⟨fun i hi => ?_, State.bit_putBit_self (t.putBlob Obj.CHAIN.IMAGE v) _ _ _ (by decide), rfl, rfl, rfl⟩
  rw [hblob, ← hv]
  exact imageHas_merge (padTo_length _ _) (padTo_length _ _) hlen hi

/-! ## Frames of the chain (R480, R481) -/

theorem chainRefresh_never (h : s.u Obj.CHAIN.REFRESH = 0) : exec .chainRefresh s = .next s := congrArg Host.Outcome.next (if_pos h)

/-- A frame begins with the wanted image. -/
theorem State.chainStart_starts (h : chainLive s = true) (hb : s.plant.chain.busy = false) : s.chainStart =
    (s.modChain (fun x => { x with busy := true, shifting := wanted s, resting := false })).emit
      (.chainFrame (Machine.within s (wanted s)) (s.u Obj.CHAIN.LENGTH)) := if_pos (by rw [h, hb]; rfl)

theorem chainRefresh_starts (h0 : s.u Obj.CHAIN.REFRESH ≠ 0) (h : chainLive s = true) (hb : s.plant.chain.busy = false) :
    ∃ t : State, exec .chainRefresh s = .next t ∧ t.plant.chain.busy = true ∧ t.plant.chain.shifting = wanted s ∧ t.regs = s.regs ∧
      t.out = s.out ++ [.chainFrame ((wanted s).take (s.u Obj.CHAIN.LENGTH / 8)) (s.u Obj.CHAIN.LENGTH)] :=
  ⟨_, congrArg Host.Outcome.next ((if_neg h0).trans (State.chainStart_starts h hb)), rfl, rfl, rfl, rfl⟩

theorem chainFrameEnd_idle (l : List Byte) (h : s.plant.chain.busy = false) : exec (.chainFrameEnd l) s = .next s :=
  congrArg Host.Outcome.next (if_pos (by rw [h]; rfl))

/-- What a frame that may follow leaves: the registers and blobs, what the last frame was, and all that was sent. -/
theorem State.chainFollow_leaves (s : State) : s.chainFollow.regs = s.regs ∧ s.chainFollow.blobs = s.blobs ∧
    s.chainFollow.plant.chain.fresh = s.plant.chain.fresh ∧ s.chainFollow.plant.chain.shifted = s.plant.chain.shifted ∧
    (∀ e ∈ s.out, e ∈ s.chainFollow.out) := by
  rw [State.chainFollow]
  split
  · rw [State.chainStart]
    split
    · exact ⟨rfl, rfl, rfl, rfl, fun e he => List.mem_append_left _ he⟩
    · exact ⟨rfl, rfl, rfl, rfl, fun e he => he⟩
  · exact ⟨rfl, rfl, rfl, rfl, fun e he => he⟩

theorem State.blob_of_blobs (h : t.blobs = s.blobs) (k : Nat) : t.blob k = s.blob k := by rw [State.blob, State.blob, h]

/-- LATCHED and FRAMES after a frame, before CFLAGS. -/
def State.latched (s : State) : State :=
  (s.putBlob Obj.CHAIN.LATCHED (padTo 128 (Machine.within s s.plant.chain.shifting))).bump Obj.CHAIN.FRAMES

theorem State.latched_blob (s : State) : s.latched.blob Obj.CHAIN.LATCHED = padTo 128 (Machine.within s s.plant.chain.shifting) :=
  s.blob_putBlob_self Obj.CHAIN.LATCHED _

/-- The state of the chain after a frame has latched. -/
def ChainPart.latched (x : ChainPart) : ChainPart := { x with busy := false, fresh := false, tries := 0, shifted := x.shifting }

theorem State.chainLatch_first (h : (s.plant.chain.fresh || s.bit Obj.CHAIN.CFLAGS Bit.CHAIN.CFLAGS.CHAIN_FAULT) = true) :
    s.chainLatch = ((s.latched.put Obj.CHAIN.CFLAGS 0).modChain ChainPart.latched).emit .chainLatch := by
  rw [State.chainLatch]
  simp only [h, if_true]
  rfl

theorem State.chainLatch_next (h : (s.plant.chain.fresh || s.bit Obj.CHAIN.CFLAGS Bit.CHAIN.CFLAGS.CHAIN_FAULT) = false) :
    s.chainLatch = ((s.latched.setBit Obj.CHAIN.CFLAGS Bit.CHAIN.CFLAGS.VERIFIED).modChain ChainPart.latched).emit .chainLatch := by
  rw [State.chainLatch]
  simp only [h, Bool.false_eq_true, if_false]
  rfl

section
variable {l : List Byte} (hb : s.plant.chain.busy = true)
include hb

theorem chainFrameEnd_latches (hm : s.plant.chain.fresh = true ∨ Machine.within s (padTo 128 l) = Machine.within s (padTo 128 s.plant.chain.shifted)) :
    exec (.chainFrameEnd l) s = .next s.chainLatch.chainFollow :=
  congrArg Host.Outcome.next ((if_neg (by rw [hb]; decide)).trans (if_pos hm))

theorem chainFrameEnd_first (hf : s.plant.chain.fresh = true) :
    ∃ t : State, exec (.chainFrameEnd l) s = .next t ∧ t.blob Obj.CHAIN.LATCHED = padTo 128 (Machine.within s s.plant.chain.shifting) ∧
      t.bit Obj.CHAIN.CFLAGS Bit.CHAIN.CFLAGS.CHAIN_FAULT = false ∧ t.bit Obj.CHAIN.CFLAGS Bit.CHAIN.CFLAGS.VERIFIED = false ∧ t.plant.chain.fresh = false ∧
      .chainLatch ∈ t.out := by
  have hexec := chainFrameEnd_latches (l := l) hb (.inl hf)
  rw [State.chainLatch_first (by rw [hf, Bool.true_or])] at hexec
  have hblob := s.latched_blob
  have hflags := State.u_put_self s.latched Obj.CHAIN.CFLAGS 0
  refine ⟨_, hexec, ?_⟩
  obtain ⟨hregs, hblobs, hfresh, -, hout⟩ := (((s.latched.put Obj.CHAIN.CFLAGS 0).modChain ChainPart.latched).emit .chainLatch).chainFollow_leaves
  have hread : (((s.latched.put Obj.CHAIN.CFLAGS 0).modChain ChainPart.latched).emit .chainLatch).chainFollow.u Obj.CHAIN.CFLAGS = 0 :=
    (State.u_of_regs hregs _).trans hflags
  refine ⟨(State.blob_of_blobs hblobs _).trans hblob, ?_, ?_, hfresh, hout _ (List.mem_append_right _ List.mem_cons_self)⟩
  · rw [State.bit, hread]
    rfl
  · rw [State.bit, hread]
    rfl

section
variable (hf : s.plant.chain.fresh = false)
include hf

theorem chainFrameEnd_verified (h0 : s.bit Obj.CHAIN.CFLAGS Bit.CHAIN.CFLAGS.CHAIN_FAULT = false)
    (hm : Machine.within s (padTo 128 l) = Machine.within s (padTo 128 s.plant.chain.shifted)) :
    ∃ t : State, exec (.chainFrameEnd l) s = .next t ∧ t.blob Obj.CHAIN.LATCHED = padTo 128 (Machine.within s s.plant.chain.shifting) ∧
      t.bit Obj.CHAIN.CFLAGS Bit.CHAIN.CFLAGS.VERIFIED = true ∧ t.plant.chain.shifted = s.plant.chain.shifting := by
  have hexec := chainFrameEnd_latches (l := l) hb (.inr hm)
  rw [State.chainLatch_next (by rw [hf, h0]; rfl)] at hexec
  have hblob := s.latched_blob
  have hset := State.bit_putBit_self s.latched Obj.CHAIN.CFLAGS Bit.CHAIN.CFLAGS.VERIFIED true (by decide)
  refine ⟨_, hexec, ?_⟩
  obtain ⟨hregs, hblobs, -, hshifted, -⟩ :=
    (((s.latched.setBit Obj.CHAIN.CFLAGS Bit.CHAIN.CFLAGS.VERIFIED).modChain ChainPart.latched).emit .chainLatch).chainFollow_leaves
  refine ⟨(State.blob_of_blobs hblobs _).trans hblob, ?_, hshifted⟩
  rw [State.bit, State.u_of_regs hregs]
  exact hset

/-- A frame that did not match: MISMATCHES, and the image last shifted. -/
def State.mismatched (s : State) : State := (s.modChain (fun x => { x with shifted := x.shifting })).bump Obj.CHAIN.MISMATCHES

theorem chainFrameEnd_misses (hm : Machine.within s (padTo 128 l) ≠ Machine.within s (padTo 128 s.plant.chain.shifted)) :
    exec (.chainFrameEnd l) s = .next s.chainMiss := by
  refine congrArg Host.Outcome.next ((if_neg (by rw [hb]; decide)).trans (if_neg ?_))
  rw [hf]
  exact fun h => h.elim Bool.false_ne_true hm

theorem chainFrameEnd_retries (hroom : s.u Obj.CHAIN.MISMATCHES + 1 < 2 ^ 32)
    (hm : Machine.within s (padTo 128 l) ≠ Machine.within s (padTo 128 s.plant.chain.shifted)) (ht : s.plant.chain.tries < s.u Obj.CHAIN.RETRIES) :
    ∃ t : State, exec (.chainFrameEnd l) s = .next t ∧ t.u Obj.CHAIN.MISMATCHES = s.u Obj.CHAIN.MISMATCHES + 1 ∧ t.plant.chain.tries = s.plant.chain.tries + 1 ∧
      t.plant.chain.busy = true ∧ t.plant.chain.shifted = s.plant.chain.shifting ∧ t.blobs = s.blobs ∧ regsKept s t [Obj.CHAIN.MISMATCHES] ∧
      t.out = s.out ++ [.chainFrame (Machine.within s s.plant.chain.shifting) (s.u Obj.CHAIN.LENGTH)] := by
  have hmiss : s.chainMiss = (s.mismatched.modChain (fun x => { x with tries := x.tries + 1 })).emit
      (.chainFrame (Machine.within s s.plant.chain.shifting) (s.u Obj.CHAIN.LENGTH)) := if_pos ht
  have hkept : regsKept s s.mismatched [Obj.CHAIN.MISMATCHES] :=
    ((regsKept.refl s _).of_regs (u := s.modChain (fun x => { x with shifted := x.shifting })) rfl).put List.mem_cons_self _
  exact ⟨_, (chainFrameEnd_misses hb hf hm).trans (congrArg Host.Outcome.next hmiss),
    State.u_bump_self (s.modChain (fun x => { x with shifted := x.shifting })) _ hroom, rfl, hb, rfl, rfl, hkept.of_regs rfl, rfl⟩

theorem chainFrameEnd_fails (hroom : s.u Obj.CHAIN.MISMATCHES + 1 < 2 ^ 32)
    (hm : Machine.within s (padTo 128 l) ≠ Machine.within s (padTo 128 s.plant.chain.shifted)) (ht : s.u Obj.CHAIN.RETRIES ≤ s.plant.chain.tries)
    (hroom' : s.u Obj.CHAIN.FAILS + 1 < 2 ^ 32) :
    ∃ t : State, exec (.chainFrameEnd l) s = .next t ∧ t.u Obj.CHAIN.MISMATCHES = s.u Obj.CHAIN.MISMATCHES + 1 ∧ t.u Obj.CHAIN.FAILS = s.u Obj.CHAIN.FAILS + 1 ∧
      t.bit Obj.CHAIN.CFLAGS Bit.CHAIN.CFLAGS.CHAIN_FAULT = true ∧ t.plant.chain.busy = false ∧ t.plant.chain.resting = true ∧
      ∃ (v : State) (e : Ev), t = v.log e ∧ e.cls = 1 ∧ e.sub = 23 := by
  have hmiss : s.chainMiss = (((s.mismatched.modChain (fun x => { x with busy := false, tries := 0, resting := true })).bump Obj.CHAIN.FAILS).clrBit
      Obj.CHAIN.CFLAGS Bit.CHAIN.CFLAGS.CHAIN_FAULT).logFlag Obj.CHAIN.CFLAGS Bit.CHAIN.CFLAGS.CHAIN_FAULT true 23 := if_neg (by omega)
  have hcount : s.mismatched.u Obj.CHAIN.MISMATCHES = s.u Obj.CHAIN.MISMATCHES + 1 :=
    State.u_bump_self (s.modChain (fun x => { x with shifted := x.shifting })) _ hroom
  have hkept : s.mismatched.u Obj.CHAIN.FAILS = s.u Obj.CHAIN.FAILS :=
    State.u_put_ne (s.modChain (fun x => { x with shifted := x.shifting })) Obj.CHAIN.MISMATCHES _ _ (by decide)
  have hrested : (((s.mismatched.modChain (fun x => { x with busy := false, tries := 0, resting := true })).bump Obj.CHAIN.FAILS).clrBit
      Obj.CHAIN.CFLAGS Bit.CHAIN.CFLAGS.CHAIN_FAULT).plant.chain.busy = false ∧
      (((s.mismatched.modChain (fun x => { x with busy := false, tries := 0, resting := true })).bump Obj.CHAIN.FAILS).clrBit
      Obj.CHAIN.CFLAGS Bit.CHAIN.CFLAGS.CHAIN_FAULT).plant.chain.resting = true := ⟨rfl, rfl⟩
  have hfails : (((s.mismatched.modChain (fun x => { x with busy := false, tries := 0, resting := true })).bump Obj.CHAIN.FAILS).clrBit
      Obj.CHAIN.CFLAGS Bit.CHAIN.CFLAGS.CHAIN_FAULT).u Obj.CHAIN.FAILS = s.u Obj.CHAIN.FAILS + 1 := by
    refine (State.u_put_ne _ _ _ _ (by decide)).trans ((State.u_bump_self _ _ ?_).trans (congrArg (· + 1) hkept))
    exact (congrArg (· + 1) hkept).trans_lt hroom'
  have hmisses : (((s.mismatched.modChain (fun x => { x with busy := false, tries := 0, resting := true })).bump Obj.CHAIN.FAILS).clrBit
      Obj.CHAIN.CFLAGS Bit.CHAIN.CFLAGS.CHAIN_FAULT).u Obj.CHAIN.MISMATCHES = s.u Obj.CHAIN.MISMATCHES + 1 :=
    (State.u_put_ne _ _ _ _ (by decide)).trans ((State.u_put_ne _ _ _ _ (by decide)).trans hcount)
  have hclear : (((s.mismatched.modChain (fun x => { x with busy := false, tries := 0, resting := true })).bump Obj.CHAIN.FAILS).clrBit
      Obj.CHAIN.CFLAGS Bit.CHAIN.CFLAGS.CHAIN_FAULT).bit Obj.CHAIN.CFLAGS Bit.CHAIN.CFLAGS.CHAIN_FAULT = false := State.bit_putBit_self _ _ _ _ (by decide)
  refine ⟨_, (chainFrameEnd_misses hb hf hm).trans (congrArg Host.Outcome.next hmiss), ?_⟩
  generalize (((s.mismatched.modChain (fun x => { x with busy := false, tries := 0, resting := true })).bump Obj.CHAIN.FAILS).clrBit
    Obj.CHAIN.CFLAGS Bit.CHAIN.CFLAGS.CHAIN_FAULT) = v at *
  obtain ⟨e, hlog, hcls, hsub, -⟩ := v.logFlag_changes Obj.CHAIN.CFLAGS Bit.CHAIN.CFLAGS.CHAIN_FAULT 23 0xFF true (by rw [hclear]; decide)
  have hplant := congrArg (fun w : State => w.plant) (State.logFlag_rest v Obj.CHAIN.CFLAGS Bit.CHAIN.CFLAGS.CHAIN_FAULT 23 true 0xFF false)
  have hbusy : (v.logFlag Obj.CHAIN.CFLAGS Bit.CHAIN.CFLAGS.CHAIN_FAULT true 23).plant = v.plant := hplant
  refine ⟨(State.logFlag_u _ _ _ _ _ _ (by decide) (by decide) _ _).trans hmisses, (State.logFlag_u _ _ _ _ _ _ (by decide) (by decide) _ _).trans hfails,
    State.logFlag_bit _ _ _ _ _ (by decide) (by decide) _ _, by rw [hbusy, hrested.1], by rw [hbusy, hrested.2], _, e, hlog, hcls, hsub⟩

end

end

/-! ## The outputs in their off state (R446, R458) -/

theorem plantOff_drives (h : plantOff s = true) (o : Fin 8) (k : Fin 16) : drvLow s o = true ∧ sinkCurrent s k = 0 ∧ chainDriven s = false :=
  ⟨by rw [drvLow, h, Bool.true_or], sinkCurrent_off h, by rw [chainDriven, h, Bool.not_true, Bool.and_false]⟩

theorem drvLow_on (h : plantOff s = false) (o : Fin 8) : drvLow s o = (s.u (Obj.LOOP.SOURCE o) == 0) := by rw [drvLow, h, Bool.false_or]

end

end Sys2Proof.Machine

namespace Sys2Proof
open Machine

/-- Settles O48: loops by what their source gives, sinks by the pin's sample and the test's bars, the chain by whether its frame matched. -/
theorem plantOutputs : Obligations.PlantOutputs := by
  unfold Obligations.PlantOutputs
  refine ⟨loopControl_measures, fun s o h => ⟨(loopOpen_off h).1, (loopOpen_off h).2, loopFollow_off h⟩, fun s o => loopOpen_on,
    fun s r b sub inst x => s.logFlag_changes r b sub inst x, setpoint_exact, fun s o => srcAgeExpiry_trips, faultLevel_modes, fun s o => loopFollow_uncurved,
    fun s o => srcAgeExpiry_host, fun s => plantMail_none, fun s m rest h hc hl => ⟨plantMail_bad h hc hl, fun o => plantMail_sets h hc hl⟩,
    fun s p hp hlt hs => ?_, fun s p f hp hlt h hs => ?_, fun s p hp hs => ?_, fun s k mv vs => sinkPinSample_off, fun s k mv vs => sinkPinSample_judges,
    fun s k mv vs h => sinkTestPulse_none (.inl h), fun s k => testBarred_held,
    fun s k mv vs hl ht hs => ⟨sinkTestPulse_pulses hl ht hs, sinkTestPulse_counts hl ht hs, sinkTestPulse_untested hl ht hs⟩,
    fun s k mv vs h => sinkTestPulse_none (.inr h), fun s t x r mask h => ?_,
    fun s t x r bits h hlen hl => ⟨_, chainImage_acts h hlen, chainImage_takes bits hlen hl⟩, fun s => chainRefresh_never, fun s => chainRefresh_starts,
    fun s l => chainFrameEnd_idle l, fun s l => chainFrameEnd_first, fun s l => chainFrameEnd_verified,
    fun s l hb hf hroom hm => ⟨chainFrameEnd_retries hb hf hroom hm, chainFrameEnd_fails hb hf hroom hm⟩, fun s o k h => plantOff_drives h o k,
    fun s o h => drvLow_on h o, fun s k => sinkCurrent_whole, fun s k => sinkCurrent_half⟩
  · obtain ⟨hpower, hscale, hlimit, honly⟩ := s.powered_regs p hlt
    rw [scaleAfter_whole hp hs] at hscale hlimit
    exact ⟨_, sinkPowerAverage_powers s p, hpower, hscale, hlimit, honly⟩
  · obtain ⟨hpower, hscale, hlimit, -⟩ := s.powered_regs p hlt
    have hf : f < 65535 := by
      by_contra hge
      have hmul : p * 65535 ≤ p * f := Nat.mul_le_mul_left p (by omega)
      omega
    rw [scaleAfter_exact hp h] at hscale hlimit
    exact ⟨_, sinkPowerAverage_powers s p, hpower, hscale.trans (Nat.mod_eq_of_lt (by omega)), by rw [hlimit, bne_iff_ne]; omega⟩
  · obtain ⟨-, hscale, -⟩ := s.powered_regs p (by omega)
    exact ⟨_, sinkPowerAverage_powers s p, hscale.trans_le ((Nat.mod_le _ _).trans (scaleAfter_le hp))⟩
  · obtain ⟨honly, hbits⟩ := clearShort_clears t mask
    exact ⟨_, clearShort_acts h, honly, fun k => (hbits k _ (by decide)).trans (if_pos rfl), fun k => (hbits k _ (by decide)).trans (if_neg (by decide))⟩

end Sys2Proof
end

section
/-! SUPPORT. Firmware banks, trials and clerk restarts (R504 to R506, R510 to R515; Machine/Boot.lean), and the writes of RESET, ZEROIZE, SWITCH and
CONFIRM. -/

namespace Sys2Proof.Machine

/-! ## Commands of HEALTH (R504, R514, R515, R520) -/

section
variable {t : State} {key : Nat} {row : ObjRow} {v : List Byte}

/-- Of the rules of a command that is no image, no firmware, no START and no allocation, those of 0302h are left. -/
theorem effectCode_ranged (hi : imageSlot key = none) (hf : key ≠ fwImageKey) (hst : startTarget key = none)
    (ha : (decide (0x5110 ≤ key / 256) && decide (key / 256 < 0x5120)) = false) (hsend : sendPort key = none) (hr : repairChannel key = none)
    (ht : transferTo t key = false) (hs : standby t = false) :
    effectCode t key row v true = rangeCode t key row (if isBlob row.ty then 0 else fromLe v) := by
  simp only [effectCode, heldCode_other hs hi hf hst ha, imageCode_other hi, spareCode_other hsend hr, ht]
  simp only [Bool.and_false, Bool.false_eq_true, if_false, firstCode]
  split <;> simp_all

end

section
variable {s t : State} {x : Session} {r : Req}

theorem reset_acts (h : wrote s t x r 0x7A00 0x19 .u8 [1] 3) : exec (.reset r 1) s = .next ((granted t x r).resetTo 5) :=
  congrArg Host.Outcome.next (plainCommand_acts (v := 1) h (by decide) rfl (by decide))

theorem confirm_acts (h : wrote s t x r 0x7A00 0x16 .u8 [1] 3) : exec (.confirm r) s = .next (granted t.confirmTrial x r) :=
  congrArg Host.Outcome.next (plainCommand_granted (v := 1) h (by decide) rfl (by decide) (by decide))

/-- SWITCH takes 1 and 2; R514 alone refuses them. -/
theorem switchRow : ∃ row, CommandRow 0x7A00 0x15 .enum8 3 row ∧ inRange row 1 = true ∧ inRange row 2 = true :=
  ⟨_, ⟨⟨rfl, rfl, by decide, by decide, by decide⟩, rfl, rfl, by decide, by decide⟩, rfl, rfl⟩

theorem switch_code {row : ObjRow} {v : Nat} (h : wrote s t x r 0x7A00 0x15 .enum8 (le 1 v) 3) (w : CommandRow 0x7A00 0x15 .enum8 3 row)
    (hin : inRange row v = true) (hv : v < 256) : effectCode t (0x7A00 * 256 + 0x15) row (le 1 v) true = switchCode t v := by
  have hbits : unreserved row v = v := by rw [unreserved, w.unmasked]
  rw [effectCode_ranged (by decide) (by decide) (by decide) (by decide) (by decide) (by decide) h.2.2.2.1 h.2.2.2.2, w.typed,
    show (if isBlob .enum8 then 0 else fromLe (le 1 v)) = v from fromLe_le_lt (by omega), rangeCode, hbits, hin, Bool.not_true, Bool.and_false]
  rfl

/-- A write of SWITCH is refused, or acts once it is answered. -/
theorem switch_answers {v : Nat} (h : wrote s t x r 0x7A00 0x15 .enum8 (le 1 v) 3) (hv : v = 1 ∨ v = 2) :
    (switchCode t v ≠ 0 → s.writeObject r 0x7A00 0x15 .enum8 v = t.reply x 0x11 r 0x0302 []) ∧
    (switchCode t v = 0 → s.writeObject r 0x7A00 0x15 .enum8 v = switchEff (granted t x r) v) := by
  obtain ⟨row, w, h1, h2⟩ := switchRow
  have hin : inRange row v = true := by rcases hv with rfl | rfl <;> assumption
  have hcode := switch_code h w hin (by omega)
  refine ⟨fun hne => ?_, fun h0 => ?_⟩
  · have hrange : switchCode t v = 0x0302 := by
      revert hne
      simp only [switchCode]
      split
      · exact fun _ => rfl
      · split
        · exact fun _ => rfl
        · exact fun hne => absurd rfl hne
    exact command_refused h w rfl (by decide) (hcode.trans hrange) (by decide) (by decide) (by decide)
  · exact command_acts h w rfl (by simp only [Ty.bytes]; omega) (by decide) (hcode.trans h0)

theorem zeroizeRow : ∃ row, CommandRow 0x7A00 0x1A .u32 3 row ∧ row.range = none :=
  ⟨_, ⟨⟨rfl, rfl, by decide, by decide, by decide⟩, rfl, rfl, by decide, by decide⟩, rfl⟩

theorem zeroize_answers {n : BitVec 32} (h : wrote s t x r 0x7A00 0x1A .u32 (le 4 n.toNat) 3) :
    (n.toNat = serialCrc t → exec (.zeroize r n) s = .next (granted t x r).zeroizeNow) ∧
    (n.toNat ≠ serialCrc t → exec (.zeroize r n) s = .next (t.reply x 0x11 r 0x0302 [])) := by
  obtain ⟨row, w, hrange⟩ := zeroizeRow
  have hlt := n.isLt
  have hbits : unreserved row n.toNat = n.toNat := by rw [unreserved, w.unmasked]
  have hcode : effectCode t (0x7A00 * 256 + 0x1A) row (le 4 n.toNat) true = if n.toNat = serialCrc t then 0 else 0x0302 := by
    rw [effectCode_ranged (by decide) (by decide) (by decide) (by decide) (by decide) (by decide) h.2.2.2.1 h.2.2.2.2, w.typed,
      show (if isBlob .u32 then 0 else fromLe (le 4 n.toNat)) = n.toNat from fromLe_le_lt (by omega), rangeCode, hbits, inRange, hrange,
      Bool.not_true, Bool.and_false]
    rfl
  exact ⟨fun hn => congrArg Host.Outcome.next (command_acts h w rfl (by simp only [Ty.bytes]; omega) (by decide) (hcode.trans (if_pos hn))),
    fun hn => congrArg Host.Outcome.next (command_refused h w rfl (by decide) (hcode.trans (if_neg hn)) (by decide) (by decide) (by decide))⟩

end

/-! ## The figures of the banks (R510) -/

/-- The registers of a bank's figures. -/
def figureReg (k : Nat) : Bool :=
  [Obj.HEALTH.BANK_A_VER, Obj.HEALTH.BANK_B_VER, Obj.HEALTH.BANK_STATE, Obj.HEALTH.BANK_IN_USE, Obj.HEALTH.ROLLBACK, Obj.HEALTH.FLAGS,
    Obj.IDENTITY.FIRMWARE].any (fun r => r.key == k)

def figureScope : Scope where
  blank s := { s with regs := [] }
  regs := figureReg
  blind _ _ := rfl

section
variable (s : State)

theorem State.bankFigures_within : Within figureScope s s.bankFigures := by
  rw [State.bankFigures]
  exact (((((Within.refl _ s).put (r := Obj.HEALTH.BANK_A_VER) rfl _).put (r := Obj.HEALTH.BANK_B_VER) rfl _).put (r := Obj.HEALTH.BANK_STATE) rfl _).put
    (r := Obj.HEALTH.BANK_IN_USE) rfl _).put (r := Obj.HEALTH.ROLLBACK) rfl _ |>.putBit (r := Obj.HEALTH.FLAGS) rfl _ _

theorem State.takeFirmware_within : Within figureScope s s.takeFirmware :=
  ((Within.refl _ s).put (r := Obj.IDENTITY.FIRMWARE) rfl _).trans (State.bankFigures_within _)

theorem State.bankFigures_trial : s.bankFigures.bit Obj.HEALTH.FLAGS Bit.HEALTH.FLAGS.TRIAL = s.boot.trial :=
  State.bit_putBit_self _ _ _ _ (by decide)

theorem State.bankFigures_inUse : s.bankFigures.u Obj.HEALTH.BANK_IN_USE = s.boot.inUse.val := by
  rw [State.bankFigures, State.putBit, State.u_put_ne _ _ _ _ (by decide), State.u_put_ne _ _ _ _ (by decide), State.u_put_self]
  exact Nat.mod_eq_of_lt (by have := s.boot.inUse.isLt; simp only [Obj.HEALTH.BANK_IN_USE]; omega)

theorem State.bankFigures_firmware : s.bankFigures.u Obj.IDENTITY.FIRMWARE = s.u Obj.IDENTITY.FIRMWARE := by
  simp only [State.bankFigures, State.putBit]
  rw [State.u_put_ne _ _ _ _ (by decide), State.u_put_ne _ _ _ _ (by decide), State.u_put_ne _ _ _ _ (by decide), State.u_put_ne _ _ _ _ (by decide),
    State.u_put_ne _ _ _ _ (by decide), State.u_put_ne _ _ _ _ (by decide)]

theorem State.takeFirmware_firmware : s.takeFirmware.u Obj.IDENTITY.FIRMWARE = fwVersion s.boot.banks[s.boot.inUse].image % 2 ^ 32 :=
  (State.bankFigures_firmware _).trans (State.u_put_self _ _ _)

end

/-- The parts of State that figures leave. -/
theorem figureScope_parts {s t : State} (h : Within figureScope s t) : t.boot = s.boot ∧ t.mem = s.mem ∧ t.ports = s.ports ∧ t.ledger = s.ledger ∧
    t.flash = s.flash :=
  ⟨congrArg (fun v => v.boot) h.parts, congrArg (fun v => v.mem) h.parts, congrArg (fun v => v.ports) h.parts, congrArg (fun v => v.ledger) h.parts,
    congrArg (fun v => v.flash) h.parts⟩

/-! ## Banks -/

section
variable (s : State)

theorem otherBank_ne (b : Fin 2) : otherBank b ≠ b := by revert b; decide

@[simp] theorem State.putBank_self (b : Fin 2) (x : BankPart) : (s.putBank b x).boot.banks[b] = x := by
  simp [State.putBank, State.modBoot]

theorem State.putBank_other (b c : Fin 2) (x : BankPart) (h : b ≠ c) : (s.putBank b x).boot.banks[c] = s.boot.banks[c] := by
  have : b.val ≠ c.val := fun e => h (Fin.ext e)
  simp [State.putBank, State.modBoot, this]

end

/-! ## Images (R512, R513) -/

section
variable {s : State} {l : List Byte}

theorem fwProgrammingEnd_programs (h : s.boot.programming = some l) :
    ∃ t : State, exec .fwProgrammingEnd s = .next t ∧ t.boot.programming = none ∧ t.boot.banks[otherBank s.boot.inUse].image = l ∧
      t.boot.banks[otherBank s.boot.inUse].valid = true ∧ t.boot.banks[s.boot.inUse] = s.boot.banks[s.boot.inUse] ∧ t.u Obj.HEALTH.FW_STATUS = 0 := by
  have hexec : exec .fwProgrammingEnd s = .next
      ((((s.putBank (otherBank s.boot.inUse) ⟨l, true⟩).modBoot (fun p => { p with programming := none })).put Obj.HEALTH.FW_STATUS 0).bankFigures) := by
    change execFwProgrammingEnd s = _
    rw [execFwProgrammingEnd, h]
  have hself := s.putBank_self (otherBank s.boot.inUse) ⟨l, true⟩
  have hwithin := State.bankFigures_within
    (((s.putBank (otherBank s.boot.inUse) ⟨l, true⟩).modBoot (fun p => { p with programming := none })).put Obj.HEALTH.FW_STATUS 0)
  exact ⟨_, hexec, rfl, congrArg BankPart.image hself, congrArg BankPart.valid hself, s.putBank_other _ _ _ (otherBank_ne _),
    (hwithin.reads _ rfl).trans (State.u_put_self _ _ _)⟩

theorem fwCheck_le (s : State) (l : List Byte) : fwCheck s l ≤ 6 := by
  simp only [fwCheck]
  split_ifs <;> decide

theorem fwImage_checked (hd : s.dramFailed = false) :
    ∃ t : State, fwImageEff s l = (t, if fwCheck s l = 0 then 0 else 0x0301) ∧ t.u Obj.HEALTH.FW_STATUS = (if fwCheck s l = 0 then 8 else fwCheck s l) ∧
      t.boot.programming = (if fwCheck s l = 0 then some l else s.boot.programming) ∧
      t.boot.banks[otherBank s.boot.inUse].valid = (s.boot.banks[otherBank s.boot.inUse].valid && fwCheck s l != 0) ∧
      t.boot.banks[s.boot.inUse] = s.boot.banks[s.boot.inUse] := by
  have hstatus : ∀ (v : State) (n : Nat), n < 2 ^ 8 → (v.put Obj.HEALTH.FW_STATUS n).bankFigures.u Obj.HEALTH.FW_STATUS = n := fun v n hn =>
    ((State.bankFigures_within _).reads _ rfl).trans ((State.u_put_self _ _ _).trans (Nat.mod_eq_of_lt hn))
  by_cases hc : fwCheck s l = 0
  · simp only [hc, if_true]
    have heff : fwImageEff s l = ((((s.putBank (otherBank s.boot.inUse) ⟨l, false⟩).modBoot (fun p => { p with programming := some l })).put
        Obj.HEALTH.FW_STATUS 8).bankFigures, 0) := by
      rw [fwImageEff]
      exact if_neg (not_not.mpr hc)
    refine ⟨_, heff, hstatus _ _ (by decide), rfl, ?_, s.putBank_other _ _ _ (otherBank_ne _)⟩
    exact (congrArg BankPart.valid (s.putBank_self (otherBank s.boot.inUse) ⟨l, false⟩)).trans (by simp)
  · simp only [hc, if_false]
    have heff : fwImageEff s l = ((s.put Obj.HEALTH.FW_STATUS (fwCheck s l)).bankFigures, 0x0301) := by
      rw [fwImageEff, hd]
      exact if_pos hc
    refine ⟨_, heff, hstatus _ _ (lt_of_le_of_lt (fwCheck_le s l) (by decide)), rfl, ?_, rfl⟩
    have hne : (fwCheck s l != 0) = true := by simpa using hc
    rw [hne, Bool.and_true]
    rfl

/-- The checks of R512 in their order. -/
theorem fwCheck_orders (s : State) (l : List Byte) : (l.length ≠ 256 + fwField l 20 4 → fwCheck s l = 1) ∧
    (fwField l 0 4 = 0x46524457 → fwField l 4 2 = 1 → l.length = 256 + fwField l 20 4 → l.length ≤ 16777216 →
      (s.u Obj.IDENTITY.SILICON < fwField l 16 2 → fwCheck s l = 2) ∧
      (fwField l 16 2 ≤ s.u Obj.IDENTITY.SILICON → s.boot.revoked.toNat.testBit (fwField l 6 1) = true → fwCheck s l = 3) ∧
      (fwField l 16 2 ≤ s.u Obj.IDENTITY.SILICON → fwField l 6 1 < 4 → s.boot.revoked.toNat.testBit (fwField l 6 1) = false →
        fwRollback l < s.boot.rollback → fwCheck s l = 4)) ∧
    (fwCheck s l ≠ 0 ∨ s.boot.rollback ≤ fwRollback l ∧ s.boot.revoked.toNat.testBit (fwField l 6 1) = false ∧ l.length = 256 + fwField l 20 4) := by
  refine ⟨fun h => if_pos (.inr (.inr (.inl h))), fun hm hv hl hmax => ?_, ?_⟩
  · have hform : ¬(fwField l 0 4 ≠ 0x46524457 ∨ fwField l 4 2 ≠ 1 ∨ l.length ≠ 256 + fwField l 20 4 ∨ 16777216 < l.length) := by
      simp only [not_or, not_not, not_lt]
      exact ⟨hm, hv, hl, hmax⟩
    have hrest : fwCheck s l = _ := if_neg hform
    refine ⟨fun h => hrest.trans (if_pos h), fun hs hr => ?_, fun hs hk hr hb => ?_⟩
    · exact hrest.trans ((if_neg (by omega)).trans (if_pos (.inr hr)))
    · exact hrest.trans ((if_neg (by omega)).trans ((if_neg (by simp [hr, hk])).trans (if_pos hb)))
  · by_cases hform : fwField l 0 4 ≠ 0x46524457 ∨ fwField l 4 2 ≠ 1 ∨ l.length ≠ 256 + fwField l 20 4 ∨ 16777216 < l.length
    · exact .inl (by rw [fwCheck, if_pos hform]; decide)
    have hrest : fwCheck s l = _ := if_neg hform
    by_cases hsil : s.u Obj.IDENTITY.SILICON < fwField l 16 2
    · exact .inl (by rw [hrest, if_pos hsil]; decide)
    by_cases hkey : 4 ≤ fwField l 6 1 ∨ s.boot.revoked.toNat.testBit (fwField l 6 1)
    · exact .inl (by rw [hrest, if_neg hsil, if_pos hkey]; decide)
    by_cases hroll : fwRollback l < s.boot.rollback
    · exact .inl (by rw [hrest, if_neg hsil, if_neg hkey, if_pos hroll]; decide)
    simp only [not_or, not_not, Bool.not_eq_true] at hform hkey
    exact .inr ⟨by omega, hkey.2, hform.2.2.1⟩

end

/-! ## Switches and trials (R514, R515) -/

section
variable {s : State}

theorem switchCode_bad {v : Nat} (h : bankGood s (otherBank s.boot.inUse) = false) : switchCode s v = 0x0302 := if_pos (by rw [h]; rfl)

/-- A reset with a cause, where no zeroize is pending, keeps the boot record. -/
theorem State.resetTo_boot (s : State) (c : Nat) (hz : s.boot.zeroize = false) : (s.resetTo c).boot = s.boot.kept (c == 1) := by
  rw [State.resetTo_plain s c hz]
  rfl

theorem State.resetTo_regs (s : State) (c : Nat) (hz : s.boot.zeroize = false) (hc : c < 256) :
    (s.resetTo c).u Obj.HEALTH.RESET_CAUSE = c ∧ (s.resetTo c).u Obj.HEALTH.BOOT_STATE = 0 := by
  rw [State.resetTo_plain s c hz]
  exact s.resetOnce_regs c hc

theorem switchReset_resets (hz : s.boot.zeroize = false) : ∃ t : State, switchEff s 2 = t ∧ t.boot.trialBank = some (otherBank s.boot.inUse) ∧
    t.u Obj.HEALTH.RESET_CAUSE = 5 ∧ t.boot.banks = s.boot.banks := by
  have hboot := State.resetTo_boot (s.modBoot (fun b => { b with trialBank := some (otherBank b.inUse) })) 5 hz
  have hcause := State.resetTo_regs (s.modBoot (fun b => { b with trialBank := some (otherBank b.inUse) })) 5 hz (by decide)
  have heff : switchEff s 2 = (s.modBoot (fun b => { b with trialBank := some (otherBank b.inUse) })).resetTo 5 := rfl
  rw [heff]
  exact ⟨_, rfl, congrArg BootPart.trialBank hboot, hcause.1, (congrArg BootPart.banks hboot).trans rfl⟩

theorem State.liveTo_within (s : State) (b : Fin 2) (trial : Bool) : Within figureScope (s.modBoot (fun p =>
    { p with inUse := b, restarting := true, switching := false, trial := trial, trialLive := trial })) (s.liveTo b trial) :=
  State.takeFirmware_within _

theorem switchEff_live (s : State) : switchEff s 1 = (s.modBoot (fun b => { b with switching := true })).switchCheck := rfl

theorem switchLive_switches (h : ∀ j : Fin 18, s.flash.journals[j].job = none) : ∃ t : State, switchEff s 1 = t ∧
    t.boot.inUse = otherBank s.boot.inUse ∧ t.boot.restarting = true ∧ t.boot.trial = true ∧ t.boot.trialLive = true ∧
    t.bit Obj.HEALTH.FLAGS Bit.HEALTH.FLAGS.TRIAL = true ∧ t.ports = s.ports ∧ t.mem = s.mem ∧ t.ledger = s.ledger := by
  have hall : s.flash.journals.toList.all (fun j => j.job.isNone) = true := by
    rw [List.all_eq_true]
    intro x hx
    obtain ⟨i, hi, rfl⟩ := List.mem_iff_getElem.mp hx
    have hi' : i < 18 := by simpa using hi
    simpa using h ⟨i, hi'⟩
  have hgo : (s.modBoot (fun b => { b with switching := true })).switchCheck =
      (s.modBoot (fun b => { b with switching := true })).liveTo (otherBank s.boot.inUse) true := if_pos ⟨rfl, hall⟩
  have heff : switchEff s 1 = (s.modBoot (fun b => { b with switching := true })).liveTo (otherBank s.boot.inUse) true :=
    (switchEff_live s).trans hgo
  obtain ⟨hboot, hmem, hports, hledger, -⟩ := figureScope_parts ((s.modBoot (fun b => { b with switching := true })).liveTo_within (otherBank s.boot.inUse) true)
  exact ⟨_, heff, by rw [hboot]; rfl, by rw [hboot]; rfl, by rw [hboot]; rfl, by rw [hboot]; rfl, State.bankFigures_trial _, hports, hmem, hledger⟩

theorem switchLive_waits {j : Fin 18} (h : s.flash.journals[j].job ≠ none) :
    switchEff s 1 = { s with boot := { s.boot with switching := true } } := by
  refine (switchEff_live s).trans (if_neg fun hc => h ?_)
  have hj := List.all_eq_true.mp hc.2 _ (List.getElem_mem (l := s.flash.journals.toList) (n := j.val) (by simp))
  simpa using hj

/-- The boot record and the fuses that a confirmed trial writes. -/
def BootPart.confirming (b : BootPart) : BootPart :=
  let count := fwRollback b.banks[b.inUse].image
  { b with confirmed := b.inUse, rollback := max b.rollback (min 64 count), trial := false, trialLive := false }

theorem State.confirmTrial_on (h : s.boot.trial = true) : s.confirmTrial = (s.modBoot BootPart.confirming).bankFigures := if_neg (by simp [h])

theorem confirmTrial_confirms (h : s.boot.trial = true) : ∃ t : State, s.confirmTrial = t ∧ t.boot.trial = false ∧ t.boot.confirmed = s.boot.inUse ∧
    t.boot.rollback = max s.boot.rollback (min 64 (fwRollback s.boot.banks[s.boot.inUse].image)) ∧
    t.bit Obj.HEALTH.FLAGS Bit.HEALTH.FLAGS.TRIAL = false ∧ t.mem = s.mem := by
  rw [State.confirmTrial_on h]
  obtain ⟨hboot, hmem, -, -, -⟩ := figureScope_parts (State.bankFigures_within (s.modBoot BootPart.confirming))
  exact ⟨_, rfl, by rw [hboot]; rfl, by rw [hboot]; rfl, by rw [hboot]; rfl, State.bankFigures_trial _, hmem⟩

theorem State.confirmTrial_none (h : s.boot.trial = false) : s.confirmTrial = s := if_pos (by rw [h]; rfl)

theorem trialTimeout_fails (h : s.boot.trial = true) (hs : s.u Obj.HEALTH.TRIAL_S ≠ 0) :
    (s.boot.trialLive = true → ∃ t : State, exec .trialTimeout s = .next t ∧ t.boot.inUse = s.boot.confirmed ∧ t.boot.trial = false ∧ t.boot.restarting = true) ∧
    (s.boot.trialLive = false → s.boot.zeroize = false → ∃ t : State, exec .trialTimeout s = .next t ∧ t.u Obj.HEALTH.RESET_CAUSE = 7 ∧
      t.boot.trial = false ∧ t.boot.confirmed = s.boot.confirmed) := by
  have hexec : exec .trialTimeout s = .next s.trialFails := congrArg Host.Outcome.next (if_pos ⟨h, hs⟩)
  refine ⟨fun hl => ?_, fun hl hz => ?_⟩
  · obtain ⟨hboot, -, -, -, -⟩ := figureScope_parts (s.liveTo_within s.boot.confirmed false)
    have hlive : s.trialFails = s.liveTo s.boot.confirmed false := if_pos hl
    exact ⟨_, hexec.trans (congrArg _ hlive), by rw [hboot]; rfl, by rw [hboot]; rfl, by rw [hboot]; rfl⟩
  · have hreset : s.trialFails = s.resetTo 7 := if_neg (by simp [hl])
    have hboot := s.resetTo_boot 7 hz
    exact ⟨_, hexec.trans (congrArg _ hreset), (s.resetTo_regs 7 hz (by decide)).1, by rw [hboot]; rfl, by rw [hboot]; rfl⟩

end

/-! ## Clerk restarts (R504 to R506) -/

section
variable {s : State}

/-- The restarts within the last 600 s. -/
def recentRestarts (s : State) : List Int := s.boot.restarts.filter (fun e => decide ((s.now : Int) < e + 600 * ticksPerSecond))

/-- The state of a device that has counted and told a clerk restart. -/
def State.restartTold (s : State) : State :=
  let t := (s.bump Obj.HEALTH.CLERK_RESTARTS).setBit Obj.HEALTH.FLAGS Bit.HEALTH.FLAGS.CLERK_RESTART
  (t.log { cls := 5, sub := 26, index := 0x7A00, osub := 0x0D, detail := t.u Obj.HEALTH.CLERK_RESTARTS }).modBoot
    (fun b => { b with restarts := recentRestarts s ++ [(s.now : Int)] })

theorem State.restartTold_boot (s : State) : s.restartTold.boot = { s.boot with restarts := recentRestarts s ++ [(s.now : Int)] } := by
  rw [State.restartTold, State.modBoot, State.log_boot]
  rfl

theorem State.restartTold_parts (s : State) : s.restartTold.ports = s.ports ∧ s.restartTold.stalls = s.stalls ∧ s.restartTold.mem = s.mem :=
  ⟨State.log_ports _ _, State.log_stalls _ _, State.log_mem _ _⟩

theorem State.restartTold_u (s : State) {r : Reg} (hr : bookReg r.key = false) (h1 : Obj.HEALTH.CLERK_RESTARTS.key ≠ r.key)
    (h2 : Obj.HEALTH.FLAGS.key ≠ r.key) : s.restartTold.u r = s.u r :=
  (State.u_log _ _ hr).trans ((State.u_put_ne _ _ _ _ h2).trans (State.u_put_ne _ _ _ _ h1))

theorem State.restartTold_counts (s : State) (h : s.u Obj.HEALTH.CLERK_RESTARTS + 1 < 2 ^ 32) :
    s.restartTold.u Obj.HEALTH.CLERK_RESTARTS = s.u Obj.HEALTH.CLERK_RESTARTS + 1 ∧
    s.restartTold.bit Obj.HEALTH.FLAGS Bit.HEALTH.FLAGS.CLERK_RESTART = true :=
  ⟨(State.u_log _ _ (by decide)).trans ((State.u_put_ne _ _ _ _ (by decide)).trans (State.u_bump_self _ _ h)),
    (State.bit_log _ _ (by decide) _).trans (State.bit_putBit_self _ _ _ _ (by decide))⟩

/-- Clerks that run restart: the fourth within 600 s resets the device, one during a trial ends it. -/
theorem State.clerkRestart_runs (hc : s.boot.clerks = true) (hr : s.boot.restarting = false) : s.clerkRestart =
    if 4 ≤ (recentRestarts s ++ [(s.now : Int)]).length then s.restartTold.resetTo 6
    else if s.boot.trial then s.restartTold.trialFails else s.restartTold.modBoot (fun b => { b with restarting := true }) := by
  have htrial : s.restartTold.boot.trial = s.boot.trial := by rw [s.restartTold_boot]
  have hrun : s.clerkRestart = if 4 ≤ (recentRestarts s ++ [(s.now : Int)]).length then s.restartTold.resetTo 6
      else if s.restartTold.boot.trial then s.restartTold.trialFails else s.restartTold.modBoot (fun b => { b with restarting := true }) :=
    if_neg (by simp [hc, hr])
  rw [hrun, htrial]

theorem clerkPoisonRead_runs (hc : s.boot.clerks = true) (hr : s.boot.restarting = false) :
    exec .clerkPoisonRead s = .next (s.bump Obj.MEMORY.POISON_SEEN).clerkRestart :=
  congrArg Host.Outcome.next (if_neg (by simp [hc, hr]))

theorem clerks_stopped (h : s.boot.clerks = false ∨ s.boot.restarting = true) :
    exec .lockstepMismatch s = .next s ∧ exec .watchdogExpiry s = .next s ∧ exec .clerkPoisonRead s = .next s := by
  have hstop : (!s.boot.clerks) = true ∨ s.boot.restarting = true := by simpa using h
  refine ⟨congrArg Host.Outcome.next (if_pos hstop), congrArg Host.Outcome.next ?_, congrArg Host.Outcome.next (if_pos hstop)⟩
  split
  · rfl
  · exact if_pos hstop

/-- A restart that is no fourth within 600 s, and in no trial. -/
theorem State.clerkRestart_goesOn (hc : s.boot.clerks = true) (hr : s.boot.restarting = false) (ht : s.boot.trial = false)
    (hl : (recentRestarts s).length < 3) : s.clerkRestart = s.restartTold.modBoot (fun b => { b with restarting := true }) := by
  rw [State.clerkRestart_runs hc hr, if_neg (by rw [List.length_append, List.length_singleton]; omega), if_neg (by simp [ht])]

theorem State.clerkRestart_fourth (hc : s.boot.clerks = true) (hr : s.boot.restarting = false) (hl : 3 ≤ (recentRestarts s).length) :
    s.clerkRestart = s.restartTold.resetTo 6 := by
  rw [State.clerkRestart_runs hc hr, if_pos (by rw [List.length_append, List.length_singleton]; omega)]

theorem State.recentRestarts_bump (s : State) (r : Reg) : recentRestarts (s.bump r) = recentRestarts s := rfl

theorem clerkPoisonRead_restarts (hc : s.boot.clerks = true) (hr : s.boot.restarting = false) (ht : s.boot.trial = false)
    (hl : (recentRestarts s).length < 3) (hroom : s.u Obj.HEALTH.CLERK_RESTARTS + 1 < 2 ^ 32) :
    ∃ t : State, exec .clerkPoisonRead s = .next t ∧ t.boot.restarting = true ∧ t.u Obj.HEALTH.CLERK_RESTARTS = s.u Obj.HEALTH.CLERK_RESTARTS + 1 ∧
      t.bit Obj.HEALTH.FLAGS Bit.HEALTH.FLAGS.CLERK_RESTART = true ∧ t.ports = s.ports ∧ t.stalls = s.stalls ∧ t.mem = s.mem ∧
      (s.u Obj.MEMORY.POISON_SEEN + 1 < 2 ^ 32 → t.u Obj.MEMORY.POISON_SEEN = s.u Obj.MEMORY.POISON_SEEN + 1) := by
  have hrecent := s.recentRestarts_bump Obj.MEMORY.POISON_SEEN
  have hkept : (s.bump Obj.MEMORY.POISON_SEEN).u Obj.HEALTH.CLERK_RESTARTS = s.u Obj.HEALTH.CLERK_RESTARTS := State.u_put_ne _ _ _ _ (by decide)
  have hseen := s.u_bump_self Obj.MEMORY.POISON_SEEN
  obtain ⟨hboot, hports, hstalls, hmem⟩ : (s.bump Obj.MEMORY.POISON_SEEN).boot = s.boot ∧ (s.bump Obj.MEMORY.POISON_SEEN).ports = s.ports ∧
      (s.bump Obj.MEMORY.POISON_SEEN).stalls = s.stalls ∧ (s.bump Obj.MEMORY.POISON_SEEN).mem = s.mem := ⟨rfl, rfl, rfl, rfl⟩
  have hexec := clerkPoisonRead_runs hc hr
  generalize s.bump Obj.MEMORY.POISON_SEEN = v at hrecent hkept hseen hboot hports hstalls hmem hexec
  rw [← hboot] at hc hr ht
  rw [← hrecent] at hl
  rw [← hkept] at hroom
  rw [State.clerkRestart_goesOn hc hr ht hl] at hexec
  obtain ⟨hcount, hflag⟩ := v.restartTold_counts hroom
  obtain ⟨tports, tstalls, tmem⟩ := v.restartTold_parts
  have hpoison := State.restartTold_u v (r := Obj.MEMORY.POISON_SEEN) (by decide) (by decide) (by decide)
  generalize v.restartTold = w at hexec hcount hflag tports tstalls tmem hpoison
  exact ⟨_, hexec, rfl, hcount.trans (congrArg (· + 1) hkept), hflag, tports.trans hports, tstalls.trans hstalls, tmem.trans hmem,
    fun h => hpoison.trans (hseen h)⟩

theorem clerkPoisonRead_resets (hc : s.boot.clerks = true) (hr : s.boot.restarting = false) (hz : s.boot.zeroize = false)
    (hl : 3 ≤ (recentRestarts s).length) : ∃ t : State, exec .clerkPoisonRead s = .next t ∧ t.u Obj.HEALTH.RESET_CAUSE = 6 ∧
      t.u Obj.HEALTH.BOOT_STATE = 0 := by
  have hrun := State.clerkRestart_fourth (s := s.bump Obj.MEMORY.POISON_SEEN) hc hr hl
  have hz' : (s.bump Obj.MEMORY.POISON_SEEN).restartTold.boot.zeroize = false := by rw [State.restartTold_boot]; exact hz
  obtain ⟨hcause, hstate⟩ := State.resetTo_regs _ 6 hz' (by decide)
  exact ⟨_, (clerkPoisonRead_runs hc hr).trans (congrArg _ hrun), hcause, hstate⟩

end

end Sys2Proof.Machine
end

section
/-! SUPPORT. Temperature and rails (R504, R517, R518), and the statement on firmware and health. -/

namespace Sys2Proof.Machine

section
variable {s : State}

/-! ## Temperature (R504, R517) -/

/-- The dies' figures after a reading. -/
def State.temperatures (s : State) (a b c : Int) : State :=
  (((s.puti Obj.HEALTH.T_DIGITAL a).puti Obj.HEALTH.T_ANALOGUE b).puti Obj.HEALTH.T_FLASH c).puti Obj.HEALTH.T_MAX (tMaxOf s (max a (max b c)))

/-- A thermal reset lets go at 110 °C. -/
def State.letGo (s : State) (hi : Int) : State := if hi ≤ 1100 then s.modBoot (fun b => { b with held := false }) else s

/-- THERM_WARN with its hysteresis. -/
def State.thermWarn (s : State) (w hi : Int) : State :=
  if w ≤ hi then s.logFlag Obj.HEALTH.FLAGS Bit.HEALTH.FLAGS.THERM_WARN true 26
  else if hi < w - 50 then s.logFlag Obj.HEALTH.FLAGS Bit.HEALTH.FLAGS.THERM_WARN false 26 else s

theorem temperatureRead_eq (a b c : Int) : exec (.temperatureRead a b c) s =
    .next (((s.temperatures a b c).letGo (max a (max b c))).thermWarn (s.i Obj.HEALTH.T_WARN) (max a (max b c))) := rfl

/-- A bound of 16 bits, as T_DIGITAL and its like hold it. -/
theorem i_puti_short (s : State) (r : Reg) (v : Int) (hw : r.width = 16) (hv : -32768 ≤ v ∧ v < 32768) : (s.puti r v).i r = v :=
  s.i_puti_of_fits r v (by omega) (by rw [hw]; exact hv.1) (by rw [hw]; exact hv.2)

theorem i_puti_other (s : State) (r x : Reg) (v : Int) (h : r.key ≠ x.key) : (s.puti r v).i x = s.i x := s.i_put_ne r x _ h

theorem i_short (s : State) (r : Reg) (hw : r.width = 16) (h : s.u r < 2 ^ 16) : -32768 ≤ s.i r ∧ s.i r < 32768 := by
  rw [State.i, hw, toSigned]
  split <;> omega

/-- The greatest reading lies between the new one and what 16 bits hold. -/
theorem tMaxOf_bounds {v : Int} (hv : -32768 ≤ v ∧ v < 32768) (h : s.u Obj.HEALTH.T_MAX < 2 ^ 16) :
    v ≤ tMaxOf s v ∧ -32768 ≤ tMaxOf s v ∧ tMaxOf s v < 32768 := by
  have hmax := i_short s Obj.HEALTH.T_MAX rfl h
  rw [tMaxOf]
  split <;> omega

theorem State.temperatures_reads (s : State) {a b c : Int} (ha : -32768 ≤ a ∧ a < 32768) (hb : -32768 ≤ b ∧ b < 32768) (hc : -32768 ≤ c ∧ c < 32768)
    (h : s.u Obj.HEALTH.T_MAX < 2 ^ 16) : (s.temperatures a b c).i Obj.HEALTH.T_DIGITAL = a ∧ (s.temperatures a b c).i Obj.HEALTH.T_ANALOGUE = b ∧
      (s.temperatures a b c).i Obj.HEALTH.T_FLASH = c ∧ max a (max b c) ≤ (s.temperatures a b c).i Obj.HEALTH.T_MAX := by
  have hmax := tMaxOf_bounds (s := s) (v := max a (max b c)) (by omega) h
  refine ⟨?_, ?_, ?_, ?_⟩
  · rw [State.temperatures, i_puti_other _ _ _ _ (by decide), i_puti_other _ _ _ _ (by decide), i_puti_other _ _ _ _ (by decide),
      i_puti_short _ _ _ rfl ha]
  · rw [State.temperatures, i_puti_other _ _ _ _ (by decide), i_puti_other _ _ _ _ (by decide), i_puti_short _ _ _ rfl hb]
  · rw [State.temperatures, i_puti_other _ _ _ _ (by decide), i_puti_short _ _ _ rfl hc]
  · rw [State.temperatures, i_puti_short _ _ _ rfl hmax.2]
    exact hmax.1

theorem State.temperatures_flags (s : State) (a b c : Int) (n : Nat) : (s.temperatures a b c).bit Obj.HEALTH.FLAGS n = s.bit Obj.HEALTH.FLAGS n ∧
    (s.temperatures a b c).boot = s.boot := by
  refine ⟨?_, rfl⟩
  simp only [State.temperatures, State.puti_eq]
  rw [State.bit_put_ne _ _ _ _ _ (by decide), State.bit_put_ne _ _ _ _ _ (by decide), State.bit_put_ne _ _ _ _ _ (by decide),
    State.bit_put_ne _ _ _ _ _ (by decide)]

theorem State.letGo_regs (s : State) (hi : Int) : (s.letGo hi).regs = s.regs := by
  rw [State.letGo]
  split <;> rfl

theorem State.letGo_held (s : State) (hi : Int) : (s.letGo hi).boot.held = (s.boot.held && decide (1100 < hi)) := by
  rw [State.letGo]
  split
  · rw [decide_eq_false (by omega), Bool.and_false]
    rfl
  · rw [decide_eq_true (by omega), Bool.and_true]

theorem State.thermWarn_leaves (s : State) (w hi : Int) : (s.thermWarn w hi).boot = s.boot ∧
    ∀ r : Reg, bookReg r.key = false → Obj.HEALTH.FLAGS.key ≠ r.key → (s.thermWarn w hi).u r = s.u r := by
  have hboot : ∀ x : Bool, (s.logFlag Obj.HEALTH.FLAGS Bit.HEALTH.FLAGS.THERM_WARN x 26).boot = s.boot := fun x => by
    have h := congrArg (fun v : State => v.boot) (s.logFlag_rest Obj.HEALTH.FLAGS Bit.HEALTH.FLAGS.THERM_WARN 26 x 0xFF false)
    exact h
  rw [State.thermWarn]
  split
  · exact ⟨hboot _, fun r hr hne => State.logFlag_u _ _ _ _ _ _ hr hne _ _⟩
  · split
    · exact ⟨hboot _, fun r hr hne => State.logFlag_u _ _ _ _ _ _ hr hne _ _⟩
    · exact ⟨rfl, fun _ _ _ => rfl⟩

theorem State.thermWarn_flag (s : State) (w hi : Int) :
    (w ≤ hi → (s.thermWarn w hi).bit Obj.HEALTH.FLAGS Bit.HEALTH.FLAGS.THERM_WARN = true) ∧
    (hi < w - 50 → (s.thermWarn w hi).bit Obj.HEALTH.FLAGS Bit.HEALTH.FLAGS.THERM_WARN = false) ∧
    (w - 50 ≤ hi → hi < w → s.thermWarn w hi = s) := by
  refine ⟨fun h => ?_, fun h => ?_, fun h h' => ?_⟩
  · rw [State.thermWarn, if_pos h]
    exact State.logFlag_bit _ _ _ _ _ (by decide) (by decide) _ _
  · rw [State.thermWarn, if_neg (by omega), if_pos h]
    exact State.logFlag_bit _ _ _ _ _ (by decide) (by decide) _ _
  · rw [State.thermWarn, if_neg (by omega), if_neg (by omega)]

theorem temperatureRead_judges (a b c : Int) (hv : ∀ v ∈ [a, b, c], -32768 ≤ v ∧ v < 32768) (hmax : s.u Obj.HEALTH.T_MAX < 2 ^ 16) :
    ∃ t : State, exec (.temperatureRead a b c) s = .next t ∧ t.i Obj.HEALTH.T_DIGITAL = a ∧ t.i Obj.HEALTH.T_ANALOGUE = b ∧ t.i Obj.HEALTH.T_FLASH = c ∧
      max a (max b c) ≤ t.i Obj.HEALTH.T_MAX ∧
      (s.i Obj.HEALTH.T_WARN ≤ max a (max b c) → t.bit Obj.HEALTH.FLAGS Bit.HEALTH.FLAGS.THERM_WARN = true) ∧
      (max a (max b c) < s.i Obj.HEALTH.T_WARN - 50 → t.bit Obj.HEALTH.FLAGS Bit.HEALTH.FLAGS.THERM_WARN = false) ∧
      (s.i Obj.HEALTH.T_WARN - 50 ≤ max a (max b c) → max a (max b c) < s.i Obj.HEALTH.T_WARN →
        t.bit Obj.HEALTH.FLAGS Bit.HEALTH.FLAGS.THERM_WARN = s.bit Obj.HEALTH.FLAGS Bit.HEALTH.FLAGS.THERM_WARN) ∧
      t.boot.held = (s.boot.held && decide (1100 < max a (max b c))) := by
  have hread := s.temperatures_reads (hv a (by simp)) (hv b (by simp)) (hv c (by simp)) hmax
  obtain ⟨hflags, hboot⟩ := s.temperatures_flags a b c Bit.HEALTH.FLAGS.THERM_WARN
  have hexec := temperatureRead_eq (s := s) a b c
  generalize max a (max b c) = hi at *
  generalize s.temperatures a b c = v at *
  have hregs := v.letGo_regs hi
  have hheld := v.letGo_held hi
  generalize v.letGo hi = w at *
  obtain ⟨tboot, tregs⟩ := w.thermWarn_leaves (s.i Obj.HEALTH.T_WARN) hi
  obtain ⟨hset, hclr, hstay⟩ := w.thermWarn_flag (s.i Obj.HEALTH.T_WARN) hi
  have hi' : ∀ r : Reg, bookReg r.key = false → Obj.HEALTH.FLAGS.key ≠ r.key → (w.thermWarn (s.i Obj.HEALTH.T_WARN) hi).i r = v.i r := fun r hr hne => by
    rw [State.i, tregs r hr hne, State.u_of_regs hregs, State.i]
  obtain ⟨hd, ha, hf, hm⟩ := hread
  refine ⟨_, hexec, (hi' _ rfl (by decide)).trans hd, (hi' _ rfl (by decide)).trans ha, (hi' _ rfl (by decide)).trans hf,
    (hi' Obj.HEALTH.T_MAX rfl (by decide)).symm ▸ hm, hset, hclr, fun h h' => ?_, ?_⟩
  · rw [hstay h h', State.bit, State.u_of_regs hregs]
    exact hflags
  · rw [tboot, hheld, hboot]

/-! ## Rails (R517, R518) -/

/-- RAIL_OV with the rails that stand too high, and OV. -/
def State.overvolted (s : State) (rails : BitVec 32) : State :=
  (s.put Obj.HEALTH.RAIL_OV (s.u Obj.HEALTH.RAIL_OV ||| railMask rails)).setBit Obj.HEALTH.FLAGS Bit.HEALTH.FLAGS.OV

theorem railOvervoltage_tells (rails : BitVec 32) : ∃ (t : State) (e : Ev), exec (.railOvervoltage rails) s = .next (t.log e) ∧ e.sub = 26 ∧
    t.bit Obj.HEALTH.FLAGS Bit.HEALTH.FLAGS.OV = true ∧ (∀ b : Fin 8, rails.getLsbD b.val = true → t.bit Obj.HEALTH.RAIL_OV b.val = true) ∧
    onlyRegs s t [Obj.HEALTH.FLAGS, Obj.HEALTH.RAIL_OV] := by
  refine ⟨s.overvolted rails, _, rfl, rfl, State.bit_putBit_self _ _ _ _ (by decide), fun b hb => ?_, ?_⟩
  · have hb8 := b.isLt
    rw [State.overvolted, State.setBit_eq, State.putBit, State.bit_put_ne _ _ _ _ _ (by decide), State.bit, State.u_put_self,
      Nat.testBit_mod_two_pow, decide_eq_true (show b.val < Obj.HEALTH.RAIL_OV.width by simp only [Obj.HEALTH.RAIL_OV]; omega), Bool.true_and,
      Nat.testBit_or, railMask, show (256 : Nat) = 2 ^ 8 by rfl, Nat.testBit_mod_two_pow, decide_eq_true hb8, Bool.true_and]
    exact (congrArg (_ || ·) hb).trans (Bool.or_true _)
  · exact ((onlyRegs.refl s _).put (by simp) _).put (by simp) _

end

end Sys2Proof.Machine

namespace Sys2Proof

open Machine

/-- Settles O52: a restart is counted, told and judged by the restarts of the last 600 s; the banks' figures change no more than their registers. -/
theorem firmwareAndHealth : Obligations.FirmwareAndHealth := by
  unfold Obligations.FirmwareAndHealth
  refine ⟨fun s h => clerks_stopped h, fun s hc hr ht hl hroom => clerkPoisonRead_restarts hc hr ht hl hroom,
    fun s hc hr => ⟨clerkPoisonRead_runs hc hr, fun hh => congrArg Host.Outcome.next (if_neg (by simp [hh]))⟩,
    fun s hh => congrArg Host.Outcome.next (if_pos hh), fun s hc hr hz hl => clerkPoisonRead_resets hc hr hz hl,
    fun s hc hr => congrArg Host.Outcome.next (if_neg (by simp [hc, hr])), fun s hr => congrArg Host.Outcome.next (if_pos (by rw [hr]; rfl)),
    fun s hr ht => congrArg Host.Outcome.next ((if_neg (by simp [hr])).trans (if_neg fun hc => ht hc.1)), fun s h => ?_,
    fun s l h => fwProgrammingEnd_programs h, fun s l hd => fwImage_checked hd, fwCheck_orders, fun s t x r v h hv => ⟨fun hne => ⟨?_, ?_⟩, fun h0 => ⟨?_, ?_⟩⟩,
    fun s v h => switchCode_bad h, fun s hz => switchReset_resets hz, fun s h => switchLive_switches h, fun s j h => switchLive_waits h,
    fun s t x r h => confirm_acts h, fun s h => confirmTrial_confirms h,
    fun s h => ⟨State.confirmTrial_none h, congrArg Host.Outcome.next (if_neg (by simp [h]))⟩, fun s h hs => trialTimeout_fails h hs,
    fun s a b c hv hmax => temperatureRead_judges a b c hv hmax, fun s rails => railOvervoltage_tells rails⟩
  · change execFwProgrammingEnd s = _
    rw [execFwProgrammingEnd, h]
  · rintro rfl
    exact congrArg Host.Outcome.next ((switch_answers h hv).1 hne)
  · rintro rfl
    exact congrArg Host.Outcome.next ((switch_answers h hv).1 hne)
  · rintro rfl
    exact congrArg Host.Outcome.next ((switch_answers h hv).2 h0)
  · rintro rfl
    exact congrArg Host.Outcome.next ((switch_answers h hv).2 h0)

end Sys2Proof
end

section
/-! SUPPORT. What the references and the root PLL may change: flags, the choice of a reference, and a coast (R286 to R290, R298;
Machine/Clocks.lean). -/

namespace Sys2Proof.Machine

/-! ## Registers far from the device's own -/

/-- Whether a register is none of IDENTITY, AGGON, TWIN and HEALTH. -/
def farReg (k : Nat) : Bool := !(k / 256 == 0x1000 || k / 256 == 0x6200 || k / 256 == 0x6300 || k / 256 == 0x7A00)

theorem farReg_of {k : Nat} (h : 0x1001 * 256 ≤ k ∧ k < 0x6200 * 256 ∨ 0x6301 * 256 ≤ k ∧ k < 0x7A00 * 256 ∨ 0x7A01 * 256 ≤ k) : farReg k = true := by
  simp [farReg]
  omega

theorem farReg_book {k : Nat} (h : farReg k = false) : bookReg k = false := by
  simp only [farReg, Bool.not_eq_false', Bool.or_eq_true, beq_iff_eq] at h
  simp only [bookReg, Bool.or_eq_false_iff, beq_eq_false_iff_ne, Bool.and_eq_false_iff, decide_eq_false_iff_not]
  refine ⟨⟨⟨by omega, by omega⟩, fun e => ?_⟩, fun e => ?_⟩
  · simp only [Obj.CAPTURE.STORE_LOST] at e
    omega
  · simp only [Obj.FLASH.PENDING] at e
    omega

/-! ## Flags of the clocks (R287, R301, R311) -/

/-- The registers of the PLL's state, its flags and the time base. -/
def pllReg (k : Nat) : Bool :=
  [Obj.CLOCKS.FLAGS, Obj.CLOCKS.REF_IN_USE, Obj.CLOCKS.PLL_STATE, Obj.EPOCH.FLAGS, Obj.TDC.FLAGS, Obj.TDC.TBASE].any (fun r => r.key == k) ||
  (decide (0x2210 ≤ k / 256) && decide (k / 256 < 0x2218))

theorem pllReg_units (u : Fin 8) : pllReg (Obj.MEASURE.MFLAGS u).key = true := by
  have hlt := u.isLt
  have hidx : (Obj.MEASURE.MFLAGS u).key / 256 = 0x2210 + u.val := by simp only [Obj.MEASURE.MFLAGS]; omega
  rw [pllReg, hidx, decide_eq_true (by omega), decide_eq_true (by omega)]
  simp

theorem pllReg_far {k : Nat} (h : farReg k = false) : pllReg k = false := by
  simp only [farReg, Bool.not_eq_false', Bool.or_eq_true, beq_iff_eq] at h
  simp only [pllReg, List.any_cons, List.any_nil, Bool.or_false, Bool.or_eq_false_iff, beq_eq_false_iff_ne, Bool.and_eq_false_iff,
    decide_eq_false_iff_not, Obj.CLOCKS.FLAGS, Obj.CLOCKS.REF_IN_USE, Obj.CLOCKS.PLL_STATE, Obj.EPOCH.FLAGS, Obj.TDC.FLAGS, Obj.TDC.TBASE]
  omega

/-- Flags of the clocks and of the units. -/
def flagScope : Scope where
  blank s := { s with regs := [], units := Vector.replicate 8 {} }
  regs := pllReg
  blind _ _ := rfl

/-- Flags, and the reference that a coasting PLL acquires. -/
def pllScope : Scope where
  blank s := { s with regs := [], units := Vector.replicate 8 {}, clk := { s.clk with acquiring := 0, atFloor := false } }
  regs := pllReg
  blind _ _ := rfl

section
variable {s t : State}

theorem pllScope_flags (h : Within flagScope s t) : Within pllScope s t :=
  h.widen (fun _ _ hvw => by have hc := congrArg pllScope.blank hvw; exact hc) fun _ hk => hk

theorem State.refFlags_within (s : State) : Within flagScope s s.refFlags := by
  rw [State.refFlags]
  exact ((((Within.refl _ s).putBit (r := Obj.CLOCKS.FLAGS) rfl _ _).putBit (r := Obj.CLOCKS.FLAGS) rfl _ _).putBit (r := Obj.CLOCKS.FLAGS) rfl _ _).putBit
    (r := Obj.CLOCKS.FLAGS) rfl _ _

theorem State.serdesFlag_within (s : State) : Within flagScope s s.serdesFlag := (Within.refl _ s).putBit (r := Obj.CLOCKS.FLAGS) rfl _ _

theorem State.ppsFlag_within (s : State) : Within flagScope s s.ppsFlag := (Within.refl _ s).putBit (r := Obj.EPOCH.FLAGS) rfl _ _

/-- TBASE and the flags of 2200h take a base, which MFLAGS of the units tell where it is another. -/
def State.takeBase (s : State) (b : Nat) : State :=
  let t := s.putBit Obj.TDC.FLAGS 0 (s.u Obj.CLOCKS.PLL_STATE != 2)
  let t := (t.putBit Obj.TDC.FLAGS 1 (b == 3)).put Obj.TDC.TBASE b
  if b = s.u Obj.TDC.TBASE then t
  else overAll (t.setBit Obj.TDC.FLAGS 2) (fun v u =>
    (v.modUnit u (fun m => { m with flags := m.flags ||| 8#5 })).setBit (Obj.MEASURE.MFLAGS u) Bit.MEASURE.MFLAGS.TBASE_CHANGE)

theorem State.timeBase_takes (s : State) : ∃ b, s.timeBase = s.takeBase b := ⟨_, rfl⟩

theorem State.timeBase_within (s : State) : Within flagScope s s.timeBase := by
  obtain ⟨b, hb⟩ := s.timeBase_takes
  rw [hb]
  have hbase := (((Within.refl flagScope s).putBit (r := Obj.TDC.FLAGS) rfl 0 (s.u Obj.CLOCKS.PLL_STATE != 2)).putBit (r := Obj.TDC.FLAGS) rfl 1
    (b == 3)).put (r := Obj.TDC.TBASE) rfl b
  exact Within.ite (fun _ => hbase) fun _ => (hbase.setBit (r := Obj.TDC.FLAGS) rfl _).overAll fun v u hv =>
    (hv.trans (.part (t := v.modUnit u _) rfl rfl)).setBit (pllReg_units u) _

theorem State.chooseRef_within (s : State) : Within pllScope s s.chooseRef := by
  rw [State.chooseRef]
  refine Within.ite (fun _ => Within.ite (fun _ => .part rfl rfl) fun _ => .refl _ _) fun _ => ?_
  split
  · exact .refl _ _
  · have huse := fun c => (Within.refl pllScope s).put (r := Obj.CLOCKS.REF_IN_USE) rfl c
    dsimp only
    split
    · exact (huse _).put (r := Obj.CLOCKS.PLL_STATE) rfl _
    · exact huse _
    · exact (huse _).trans (pllScope_flags (State.ppsFlag_within _))

theorem State.useRef_within (s : State) : Within pllScope s s.useRef := s.chooseRef_within.trans (pllScope_flags (State.timeBase_within _))

end

/-! ## A coast begins (R298) -/

/-- What follows a coast's entry may change: shots, pipelines, calibrations, the TDC's tables, and registers. -/
def coastScope : Scope where
  blank s := { s with regs := [], units := Vector.replicate 8 {}, ports := Vector.replicate 8 {}, pipes := Vector.replicate 8 {},
                      cal := Vector.replicate 20 {}, tdc := {} }
  regs := farReg
  blind _ _ := rfl

section
variable {s t : State}

theorem coastScope_flags (h : Within flagScope s t) : Within coastScope s t :=
  h.widen (fun _ _ hvw => by have hc := congrArg coastScope.blank hvw; exact hc) fun _ hk => pllReg_far hk

theorem State.dropShots_within (s : State) : Within coastScope s s.dropShots := by
  refine (Within.refl _ s).overAll fun v n hv => Within.ite (fun _ => hv) fun _ => ?_
  have hlt := n.isLt
  exact (hv.add (r := Obj.SCHEDULER.SHOT_COAST n) (farReg_of (by simp only [Obj.SCHEDULER.SHOT_COAST]; omega)) _).trans (.part rfl rfl)

theorem State.invalidateOpen_within (s : State) : Within coastScope s s.invalidateOpen := (Within.refl _ s).overAll fun _ _ hv => hv.trans (.part rfl rfl)

theorem State.calAbort_within (s : State) (k : Fin 20) : Within coastScope s (s.calAbort k.val) := by
  refine Within.ite (fun _ => (s.calFail_within_back (k := k) 4).widen (fun _ _ hvw => by have hc := congrArg coastScope.blank hvw; exact hc)
    fun key hk => ?_) fun _ => .refl _ _
  have hlt := k.isLt
  simp only [runScope, List.any_eq_false, beq_iff_eq]
  intro r hr hkey
  have hfar : farReg r.key = true := farReg_of (by
    simp only [failRegs, backRegs, List.cons_append, List.nil_append, List.mem_cons, List.not_mem_nil, or_false] at hr
    rcases hr with rfl | rfl | rfl | rfl | rfl | rfl | rfl <;>
      simp only [Obj.CAL_TARGET.RESULT, Obj.CAL_TARGET.FAILS, Obj.CAL_TARGET.PHASE, Obj.CAL_TARGET.CAL_TIME, Obj.CALIBRATION.FLAGS,
        Obj.RX_TRIMS.SOURCE, Obj.FLASH.PENDING] <;> omega)
  rw [hkey] at hfar
  exact absurd hfar (by rw [show farReg key = false from hk]; decide)

/-- Some property of a state, kept by a step for each number below a bound, holds after all of them. -/
theorem range_keeps {P : State → Prop} {f : State → Nat → State} {n : Nat} (keep : ∀ t k, k < n → P t → P (f t k)) {s : State} (h : P s) :
    P ((List.range n).foldl f s) :=
  List.foldlRecOn _ _ h fun t ht k hk => keep t k (List.mem_range.mp hk) ht

theorem State.abortCals_within (s : State) : Within coastScope s s.abortCals :=
  range_keeps (P := fun v => Within coastScope s v) (fun v k hk hv => hv.trans (v.calAbort_within ⟨k, hk⟩)) (.refl _ _)

theorem State.dramRate_within (s : State) (rate : Nat) : Within coastScope s (s.dramRate rate) :=
  (Within.refl _ s).overAll fun v c hv => Within.ite (fun _ => hv) fun _ => by
    have hlt := c.isLt
    exact hv.put (r := Obj.DRAM_CHANNEL.RATE c) (farReg_of (by simp only [Obj.DRAM_CHANNEL.RATE]; omega)) _

/-- The registers as a coast begins. -/
def State.coastRegs (s : State) : State :=
  ((((((s.setBit Obj.CLOCKS.FLAGS Bit.CLOCKS.FLAGS.CLK_COAST).clrBit Obj.CLOCKS.FLAGS Bit.CLOCKS.FLAGS.LOCKED).put Obj.CLOCKS.PLL_STATE 3).put
    Obj.CLOCKS.REF_IN_USE 0).bump Obj.CLOCKS.COASTS).setBit Obj.EPOCH.FLAGS Bit.EPOCH.FLAGS.UNCERTAIN)

/-- The registers and the clock as a coast begins, before shots and calibrations follow. -/
def State.coastBegun (s : State) : State :=
  { s.coastRegs with clk := { s.coastRegs.clk with coastAt := s.now, acquiring := 0, mayAcquire := false, atFloor := false },
                     ep := { s.coastRegs.ep with coastPhase := 0, reacquire := false } }

theorem State.enterCoast_eq (s : State) :
    s.enterCoast = ((s.coastBegun.dropShots.invalidateOpen.abortCals).dramRate 2560).serdesFlag.ppsFlag.timeBase := rfl

theorem State.coastRegs_within (s : State) : Within coastScope s s.coastRegs :=
  ((((((Within.refl _ s).setBit (r := Obj.CLOCKS.FLAGS) rfl _).clrBit (r := Obj.CLOCKS.FLAGS) rfl _).put (r := Obj.CLOCKS.PLL_STATE) rfl _).put
    (r := Obj.CLOCKS.REF_IN_USE) rfl _).bump (r := Obj.CLOCKS.COASTS) rfl).setBit (r := Obj.EPOCH.FLAGS) rfl _

theorem State.enterCoast_begun (s : State) : Within coastScope s.coastBegun s.enterCoast := by
  rw [State.enterCoast_eq]
  generalize s.coastBegun = v
  exact v.dropShots_within.trans ((State.invalidateOpen_within _).trans ((State.abortCals_within _).trans ((State.dramRate_within _ _).trans
    (coastScope_flags ((State.serdesFlag_within _).trans ((State.ppsFlag_within _).trans (State.timeBase_within _)))))))

end

/-! ## A reference fails (R289) -/

/-- What a reference that fails may change: the clock, the epoch, shots, pipelines, units, calibrations and the day book. -/
def clockScope : Scope where
  blank s := { s with regs := [], blobs := [], staged := [], stagedBlobs := [], flips := [], streams := Vector.replicate 256 {},
                      ledger := { s.ledger with sessions := [], applying := [] }, book := {}, clk := {}, ep := {}, ports := Vector.replicate 8 {},
                      pipes := Vector.replicate 8 {}, units := Vector.replicate 8 {}, cal := Vector.replicate 20 {}, tdc := {} }
  regs := farReg
  blind _ _ := rfl

section
variable {s t : State}

theorem clockScope_coast (h : Within coastScope s t) : Within clockScope s t :=
  h.widen (fun _ _ hvw => by have hc := congrArg clockScope.blank hvw; exact hc) fun _ hk => hk

theorem clockScope_pll (h : Within pllScope s t) : Within clockScope s t :=
  h.widen (fun _ _ hvw => by have hc := congrArg clockScope.blank hvw; exact hc) fun _ hk => pllReg_far hk

theorem clockScope_book (h : Within bookScope s t) : Within clockScope s t :=
  h.widen (fun _ _ hvw => by have hc := congrArg clockScope.blank hvw; exact hc) fun _ hk => farReg_book hk

theorem State.logEvent_within (s : State) {r : Reg} (hr : farReg r.key = true) (b sub : Nat) : Within clockScope s (s.logEvent r b sub) :=
  ((Within.refl clockScope s).setBit hr b).trans (clockScope_book (State.within_log _ _))

theorem State.logEvent_clk (s : State) (r : Reg) (b sub : Nat) : (s.logEvent r b sub).clk = s.clk := State.log_clk _ _

theorem State.enterCoast_within (s : State) : Within clockScope s s.enterCoast :=
  ((clockScope_coast s.coastRegs_within).trans (.part (t := s.coastBegun) rfl rfl)).trans (clockScope_coast s.enterCoast_begun)

theorem State.refFail_within (s : State) : Within clockScope s s.refFail := by
  have hlog := s.logEvent_within (r := Obj.CLOCKS.FLAGS) rfl Bit.CLOCKS.FLAGS.REF_FAIL 13
  exact Within.ite (fun _ => hlog.trans (State.enterCoast_within _)) fun _ => Within.ite
    (fun _ => (hlog.put (r := Obj.CLOCKS.PLL_STATE) rfl _).put (r := Obj.CLOCKS.REF_IN_USE) rfl _) fun _ => hlog

/-- A reference that ceases to be qualified changes nothing of the cluster, the twins, the memory and the boot record. -/
theorem State.disqualify_within (s : State) (r : Fin 3) : Within clockScope s (s.disqualify r) := by
  have hmod : Within clockScope s (s.modRef r (fun x => { x with passed := false })) := .part rfl rfl
  have hflags := hmod.trans (clockScope_pll (pllScope_flags (State.refFlags_within _)))
  exact (Within.ite (fun _ => hflags.trans (State.refFail_within _)) fun _ => hflags).trans (clockScope_pll (State.useRef_within _))

/-! ## The references through all that -/

theorem pllScope_refs (h : Within pllScope s t) : t.clk.refs = s.clk.refs := by
  have hp := congrArg (fun v : State => v.clk.refs) h.parts
  exact hp

theorem coastScope_parts (h : Within coastScope s t) : t.clk = s.clk ∧ t.ep = s.ep ∧ t.mem = s.mem ∧ t.stalls = s.stalls ∧ t.streams = s.streams :=
  ⟨congrArg (fun v => v.clk) h.parts, congrArg (fun v => v.ep) h.parts, congrArg (fun v => v.mem) h.parts, congrArg (fun v => v.stalls) h.parts,
    congrArg (fun v => v.streams) h.parts⟩

theorem State.enterCoast_clk (s : State) : s.enterCoast.clk = { s.clk with coastAt := s.now, acquiring := 0, mayAcquire := false, atFloor := false } :=
  (coastScope_parts s.enterCoast_begun).1.trans (congrArg (fun c : ClockPart =>
    { c with coastAt := s.now, acquiring := 0, mayAcquire := false, atFloor := false }) (coastScope_parts s.coastRegs_within).1)

theorem State.refFail_refs (s : State) : s.refFail.clk.refs = s.clk.refs := by
  have hlog := congrArg ClockPart.refs (s.logEvent_clk Obj.CLOCKS.FLAGS Bit.CLOCKS.FLAGS.REF_FAIL 13)
  rw [State.refFail]
  split
  · rw [State.enterCoast_clk]
    exact hlog
  · split
    · exact hlog
    · exact hlog

theorem State.modRef_self (s : State) (r : Fin 3) (f : RefPart → RefPart) : (s.modRef r f).clk.refs[r] = f s.clk.refs[r] := by
  simp [State.modRef]

theorem State.disqualify_refs (s : State) (r : Fin 3) : (s.disqualify r).clk.refs = (s.modRef r (fun x => { x with passed := false })).clk.refs := by
  have hflags := pllScope_refs (pllScope_flags (State.refFlags_within (s.modRef r (fun x => { x with passed := false }))))
  refine (pllScope_refs (State.useRef_within _)).trans ?_
  split
  · exact (State.refFail_refs _).trans hflags
  · exact hflags

end

end Sys2Proof.Machine
end

section
/-! SUPPORT. A link that leaves service, the cluster that follows, and the mirrored deliveries it carried (R420, R428 to R433, R444;
Machine/Aggon.lean, Machine/Route.lean): what they may change. -/

namespace Sys2Proof.Machine

/-! ## The cluster (R430 to R433) -/

/-- The registers that follow from the cluster's table: those of 6200h that are neither set nor a link's, and those of the bell. -/
def clusterReg (k : Nat) : Bool :=
  (k / 256 == 0x6200 && (decide (6 ≤ k % 256) && decide (k % 256 < 0x20))) || (decide (0x5200 ≤ k / 256) && decide (k / 256 < 0x5240)) || k == Obj.CAPTURE.BELL_WORST.key

/-- What follows from the cluster's table in the Ledger alone. -/
def figureRegs : Scope where
  blank s := { s with regs := [] }
  regs := clusterReg
  blind _ _ := rfl

def clusterScope : Scope where
  blank s := { s with regs := [], cluster := {}, ep := {} }
  regs := clusterReg
  blind _ _ := rfl

section
variable {s t : State}

theorem clusterReg_region (r : Fin 64) : clusterReg (Obj.REGION.FLAGS r).key = true := by
  have hlt := r.isLt
  have hidx : (Obj.REGION.FLAGS r).key / 256 = 0x5200 + r.val := by simp only [Obj.REGION.FLAGS]; omega
  rw [clusterReg, hidx, decide_eq_true (show 0x5200 ≤ 0x5200 + r.val by omega), decide_eq_true (show 0x5200 + r.val < 0x5240 by omega)]
  simp

theorem State.clusterFigures_regs (s : State) : Within figureRegs s s.clusterFigures := by
  rw [State.clusterFigures]
  have hhead := ((((Within.refl figureRegs s).put (r := Obj.AGGON.ROOT_ID) rfl ((s.cluster.root.map (·.toNat)).getD 0)).put (r := Obj.AGGON.ROOT_HOPS) rfl
    (((upstream s).map (·.hops)).getD 0)).put (r := Obj.AGGON.UPSTREAM) rfl (((upstream s).map (fun h => h.link.val)).getD 0xFF)).put
    (r := Obj.AGGON.CLUSTER_SIZE) rfl (1 + s.cluster.table.length)
  have hroot := fun m => Within.ite (p := decide (s.cluster.root = some (ownId s)) = true) (fun _ => (hhead.put (r := Obj.AGGON.MAX_HOPS) rfl m).put
    (r := Obj.AGGON.CLUSTER_ERR) rfl 0) fun _ => hhead.put (r := Obj.AGGON.MAX_HOPS) rfl m
  exact ((((((hroot _).putBit (r := Obj.AGGON.FLAGS) rfl _ _).putBit (r := Obj.AGGON.FLAGS) rfl _ _).putBit (r := Obj.AGGON.FLAGS) rfl _ _).put
    (r := Obj.CAPTURE.BELL_WORST) rfl _).overAll fun v r hv => hv.putBit (clusterReg_region r) _ _)

theorem State.clusterFigures_within (s : State) : Within clusterScope s s.clusterFigures :=
  s.clusterFigures_regs.widen (fun _ _ hvw => by have hc := congrArg clusterScope.blank hvw; exact hc) fun _ hk => hk

theorem State.clusterUpdate_within (s : State) : Within clusterScope s s.clusterUpdate := by
  have hroot : Within clusterScope s { s with cluster := { s.cluster with root := rootNow s } } := .part rfl rfl
  have hfigures := hroot.trans (State.clusterFigures_within _)
  rw [State.clusterUpdate]
  generalize { s with cluster := { s.cluster with root := rootNow s } }.clusterFigures = v at hfigures
  exact hfigures.trans (.part rfl rfl)

theorem clusterScope_parts (h : Within clusterScope s t) : t.clk = s.clk ∧ t.links = s.links ∧ t.mem = s.mem ∧ t.stalls = s.stalls ∧ t.boot = s.boot ∧
    t.out = s.out ∧ t.twin = s.twin :=
  ⟨congrArg (fun v => v.clk) h.parts, congrArg (fun v => v.links) h.parts, congrArg (fun v => v.mem) h.parts, congrArg (fun v => v.stalls) h.parts,
    congrArg (fun v => v.boot) h.parts, congrArg (fun v => v.out) h.parts, congrArg (fun v => v.twin) h.parts⟩

end

/-! ## The device's own state -/

/-- Whether a register is none of IDENTITY and HEALTH. -/
def ownReg (k : Nat) : Bool := !(k / 256 == 0x1000 || k / 256 == 0x7A00)

theorem ownReg_of {k : Nat} (h : 0x1001 * 256 ≤ k ∧ k < 0x7A00 * 256 ∨ 0x7A01 * 256 ≤ k) : ownReg k = true := by
  simp [ownReg]
  omega

/-- All but IDENTITY, HEALTH and the boot record. -/
def bootScope : Scope where
  blank s := { boot := s.boot }
  regs := ownReg
  blind _ _ := rfl

section
variable {s t : State}

theorem bootScope_boot (h : Within bootScope s t) : t.boot = s.boot := congrArg (fun v => v.boot) h.parts

theorem ownReg_far {k : Nat} (h : ownReg k = false) : farReg k = false := by
  simp only [ownReg, Bool.not_eq_false', Bool.or_eq_true, beq_iff_eq] at h
  simp only [farReg, Bool.not_eq_false', Bool.or_eq_true, beq_iff_eq]
  omega

theorem bootScope_clock (h : Within clockScope s t) : Within bootScope s t :=
  h.widen (fun _ _ hvw => by have hc := congrArg bootScope.blank hvw; exact hc) fun _ hk => ownReg_far hk

theorem bootScope_book (h : Within bookScope s t) : Within bootScope s t := bootScope_clock (clockScope_book h)

theorem bootScope_cluster (h : Within clusterScope s t) : Within bootScope s t :=
  h.widen (fun _ _ hvw => by have hc := congrArg bootScope.blank hvw; exact hc) fun k hk => by
    simp only [show bootScope.regs k = ownReg k from rfl, ownReg, Bool.not_eq_false', Bool.or_eq_true, beq_iff_eq] at hk
    simp only [show clusterScope.regs k = clusterReg k from rfl, clusterReg, Bool.or_eq_false_iff, beq_eq_false_iff_ne, Bool.and_eq_false_iff,
      decide_eq_false_iff_not, Obj.CAPTURE.BELL_WORST]
    omega

/-- A change of parts other than the boot record. -/
theorem bootScope_part (h : Within bootScope s t) {u : State} (hb : u.boot = t.boot) (hr : u.regs = t.regs) : Within bootScope s u :=
  h.trans (.part (congrArg (fun b : BootPart => ({ boot := b } : State)) hb) hr)

theorem bootScope_twin (h : Within bootScope s t) (x : TwinPart) : Within bootScope s { t with twin := x } := bootScope_part h rfl rfl

/-! ## Deliveries that are lost (R197, R444) -/

/-- What the loss of a mirrored delivery may change: all but the boot record, the twin's part and the registers of IDENTITY, AGGON, TWIN and HEALTH. -/
def lossScope : Scope where
  blank s := { boot := s.boot, twin := s.twin }
  regs := farReg
  blind _ _ := rfl

theorem lossScope_twin (h : Within lossScope s t) : t.twin = s.twin := congrArg (fun v => v.twin) h.parts

theorem lossScope_book (h : Within bookScope s t) : Within lossScope s t :=
  h.widen (fun _ _ hvw => by have hc := congrArg lossScope.blank hvw; exact hc) fun _ hk => farReg_book hk

theorem lossScope_part (h : Within lossScope s t) {u : State} (hb : u.boot = t.boot) (hw : u.twin = t.twin) (hr : u.regs = t.regs) : Within lossScope s u :=
  h.trans (.part (by rw [show lossScope.blank u = { boot := u.boot, twin := u.twin } from rfl, hb, hw]; rfl) hr)

theorem bootScope_loss (h : Within lossScope s t) : Within bootScope s t :=
  h.widen (fun _ _ hvw => by have hc := congrArg bootScope.blank hvw; exact hc) fun _ hk => ownReg_far hk

theorem lossScope_pitch (h : Within lossScope s t) (r : Nat → Reg) (b : Nat) (hb : b < 256) (hr : ∀ k, (r k).key = (0x5140 + k) * 256 + b) (k : Fin 192)
    (v : Nat) : Within lossScope s (t.put (r k) v) := by
  have hlt := k.isLt
  exact h.put (farReg_of (by rw [hr]; omega)) v

theorem State.resolve_loss (h : Within lossScope s t) (g : Fin 16) (n : Port) (d : BitVec 32) (k : Fin 192) (v : Resolved) :
    Within lossScope s (t.resolve g n d k v) := lossScope_part h rfl rfl rfl

theorem State.toStreams_loss (h : Within lossScope s t) (kind : Nat) (takes : Fin 256 → Bool) (it : Fin 256 → Item) :
    Within lossScope s (t.toStreams kind takes it) := h.trans (lossScope_book (State.toStreams_within (.refl _ _) kind takes it))

theorem State.releaseOutput_loss (h : Within lossScope s t) (r : ReorderRec) (o : Fin 4) : Within lossScope s (t.releaseOutput r o) := by
  refine Within.ite (fun _ => h) fun _ => ?_
  refine Within.foldl (State.toStreams_loss (t := { t with fresh := t.fresh + (resultItem t r o).data.length }) (lossScope_part h rfl rfl rfl) _ _ _)
    (fun v e hv => ?_) _
  exact lossScope_pitch hv Obj.PITCH.LATE 0x10 (by decide) (fun _ => rfl) e.1 _

theorem State.releaseFrom_loss (h : Within lossScope s t) (f : Nat) (g : Fin 16) (n : Port) (now : BitVec 32) : Within lossScope s (releaseFrom f t g n now) := by
  induction f generalizing t with
  | zero => exact h
  | succ f ih =>
    rw [releaseFrom]
    split
    · exact h
    · rename_i r _
      have hout : Within lossScope s ((List.finRange 4).foldl (fun u o => u.releaseOutput r o) t) := h.foldl (fun v o hv => State.releaseOutput_loss hv r o) _
      dsimp only
      generalize (List.finRange 4).foldl (fun u o => u.releaseOutput r o) t = v at hout
      exact Within.ite (fun _ => ih (lossScope_part hout rfl rfl rfl)) fun _ => h

theorem State.releasePort_loss (h : Within lossScope s t) (n : Port) : Within lossScope s (t.releasePort n) :=
  h.foldl (fun _ g hv => State.releaseFrom_loss hv _ g n _) _

theorem State.openRecords_loss (h : Within lossScope s t) (n : Port) (d : Delivery) : Within lossScope s (t.openRecords n d) := by
  rw [State.openRecords]
  refine h.foldl (fun v g hv => ?_) _
  exact Within.ite (fun _ => hv) fun _ => lossScope_part hv rfl rfl rfl

theorem State.skipFor_loss (h : Within lossScope s t) (n : Port) (d : Delivery) (k : Fin 192) : Within lossScope s (t.skipFor n d k) :=
  State.resolve_loss (lossScope_pitch h Obj.PITCH.SKIPPED 0x0F (by decide) (fun _ => rfl) k _) _ _ _ _ _

theorem State.skipLost_loss (h : Within lossScope s t) (n : Port) (d : Option Delivery) : Within lossScope s (t.skipLost n d) := by
  cases d with
  | some x =>
    refine State.releasePort_loss (Within.foldl (State.openRecords_loss h n x) (fun v k hv => ?_) _) n
    exact Within.ite (fun _ => Within.ite (fun _ => State.resolve_loss hv _ _ _ _ _) fun _ => State.skipFor_loss hv _ _ _) fun _ => hv
  | none =>
    refine h.foldl (fun v k hv => ?_) _
    exact Within.ite (fun _ => lossScope_pitch hv Obj.PITCH.SKIPPED 0x0F (by decide) (fun _ => rfl) k _) fun _ => hv

theorem State.mirrorLost_own (h : Within bootScope s t) (n : Port) (d : Option Delivery) : Within bootScope s (t.mirrorLost n d) := by
  have hregs : Within bootScope s (t.bump Obj.TWIN.MIRROR_LOST).outOfStep := (h.bump (r := Obj.TWIN.MIRROR_LOST) rfl).putBit (r := Obj.TWIN.FLAGS) rfl _ false
  rw [State.mirrorLost]
  exact (bootScope_twin hregs _).trans (bootScope_loss (State.skipLost_loss (.refl _ _) n d))

theorem State.loseParts_own (h : Within bootScope s t) (p : MirrorPart → Bool) : Within bootScope s (t.loseParts p) := by
  rw [State.loseParts]
  refine Within.foldl (bootScope_twin h _) (fun v m hv => ?_) _
  exact State.mirrorLost_own hv _ _

/-! ## A link leaves service (R420, R428) -/

theorem linkReg {k : Fin 4} {r : Reg} {b : Nat} (hb : 0x20 ≤ b) (hb' : b < 0x30) (hr : r.key = 0x6200 * 256 + (b + 16 * k.val)) :
    farReg r.key = false ∧ clusterReg r.key = false ∧ ownReg r.key = true ∧ bookReg r.key = false := by
  have hlt := k.isLt
  have hidx : r.key / 256 = 0x6200 := by omega
  have hfar : farReg r.key = false := by simp [farReg, hidx]
  refine ⟨hfar, ?_, ownReg_of (by omega), farReg_book hfar⟩
  simp only [clusterReg, hidx, Obj.CAPTURE.BELL_WORST, Bool.or_eq_false_iff, Bool.and_eq_false_iff, decide_eq_false_iff_not, beq_eq_false_iff_ne]
  omega

theorem State.startLink_own (h : Within bootScope s t) (k : Fin 4) : Within bootScope s (t.startLink k) := by
  obtain ⟨-, -, hown, -⟩ := linkReg (k := k) (r := Obj.AGGON.LSTATE k) (b := 0x22) (by decide) (by decide) rfl
  exact Within.put (t := t.modLink k _) (bootScope_part h rfl rfl) hown _

theorem State.linkGone_own (h : Within bootScope s t) (k : Fin 4) : Within bootScope s (t.linkGone k) := by
  obtain ⟨-, -, hpeer, -⟩ := linkReg (k := k) (r := Obj.AGGON.PEER k) (b := 0x23) (by decide) (by decide) rfl
  obtain ⟨-, -, hlanes, -⟩ := linkReg (k := k) (r := Obj.AGGON.LANES k) (b := 0x24) (by decide) (by decide) rfl
  obtain ⟨-, -, hflags, -⟩ := linkReg (k := k) (r := Obj.AGGON.LFLAGS k) (b := 0x2C) (by decide) (by decide) rfl
  have hregs := ((h.put hpeer 0xFFFF).put hlanes 0).clrBit hflags Bit.AGGON.LFLAGS.TWIN_LINK
  exact Within.ite (fun _ => State.loseParts_own hregs _) fun _ => hregs

/-- A link that starts anew after its service, with the entry of its departure. -/
def State.linkLeft (s : State) (k : Fin 4) : State :=
  ((s.linkGone k).startLink k).log { cls := 1, sub := 17, inst := k.val, index := 0x6200, osub := 0x22 + 0x10 * k.val }

/-- The Aggon clock goes with the link that gives it. -/
def State.refLeft (s : State) (k : Fin 4) : State :=
  if suppliesRef s k then ((s.linkLeft k).modRef 2 (fun x => { x with present := false })).disqualify 2 else s.linkLeft k

theorem State.leaveService_up {k : Fin 4} (h : linkUp s k = true) : s.leaveService k = (s.refLeft k).clusterUpdate := by
  simp only [State.leaveService, h, Bool.not_true, Bool.false_eq_true, if_false, State.refLeft, State.linkLeft]

theorem State.leaveService_down {k : Fin 4} (h : linkUp s k = false) : s.leaveService k = s := if_pos (by rw [h]; decide)

theorem State.refLeft_within (s : State) (k : Fin 4) : Within clockScope (s.linkLeft k) (s.refLeft k) := by
  rw [State.refLeft]
  generalize s.linkLeft k = v
  have hmod : Within clockScope v (v.modRef 2 (fun x => { x with present := false })) := .part rfl rfl
  exact Within.ite (fun _ => hmod.trans (State.disqualify_within _ 2)) fun _ => .refl _ _

theorem State.leaveService_own (s : State) (k : Fin 4) : Within bootScope s (s.leaveService k) := by
  cases hup : linkUp s k with
  | false => rw [State.leaveService_down hup]; exact .refl _ _
  | true =>
    rw [State.leaveService_up hup]
    have hleft : Within bootScope s (s.linkLeft k) := (State.startLink_own (State.linkGone_own (.refl _ s) k) k).trans (bootScope_book (State.within_log _ _))
    exact (hleft.trans (bootScope_clock (s.refLeft_within k))).trans (bootScope_cluster (State.clusterUpdate_within _))

theorem State.relink_own (h : Within bootScope s t) (k : Fin 4) (again : Bool) : Within bootScope s (t.relink k again) := by
  obtain ⟨-, -, hown, -⟩ := linkReg (k := k) (r := Obj.AGGON.LSTATE k) (b := 0x22) (by decide) (by decide) rfl
  have hleave := h.trans (t.leaveService_own k)
  rw [State.relink]
  refine Within.ite (fun _ => Within.ite (fun _ => hleave) fun _ => Within.ite (fun _ => State.startLink_own h k) fun _ => h) fun _ => ?_
  exact Within.put (t := (t.leaveService k).modLink k _) (bootScope_part hleave rfl rfl) hown _

end

end Sys2Proof.Machine
end

section
/-! SUPPORT. What placing changes (R507 steps 10 and 11): program slots, ports, regions, pitches and streams; none of it the device's own state. -/

namespace Sys2Proof.Machine

section
variable {s t : State}

/-- A write of a register of the chapters' own groups. -/
theorem bootScope_put (h : Within bootScope s t) {r : Reg} (hr : 0x1001 * 256 ≤ r.key ∧ r.key < 0x7A00 * 256) (v : Nat) : Within bootScope s (t.put r v) :=
  h.put (ownReg_of (.inl hr)) v

/-! ## Stalls and program slots (R178 to R207) -/

theorem State.modStall_own (h : Within bootScope s t) (d : StallId) (f : Stall → Stall) : Within bootScope s (t.modStall d f) := bootScope_part h rfl rfl

theorem State.modPitch_own (h : Within bootScope s t) (k : Fin 192) (f : PitchPart → PitchPart) : Within bootScope s (t.modPitch k f) :=
  bootScope_part h rfl rfl

theorem State.modProgram_own (h : Within bootScope s t) (g : Fin 16) (f : ProgramPart → ProgramPart) : Within bootScope s (t.modProgram g f) :=
  bootScope_part h rfl rfl

theorem State.placeWords_own (h : Within bootScope s t) (a : Nat) (l : List Byte) : Within bootScope s (t.placeWords a l) := bootScope_part h rfl rfl

theorem stallKey {b : Nat} (hb : b < 256) (d : StallId) : 0x1001 * 256 ≤ (0x5010 + d.val) * 256 + b ∧ (0x5010 + d.val) * 256 + b < 0x7A00 * 256 := by
  have hlt := d.isLt
  omega

theorem pitchKey {b : Nat} (hb : b < 256) (k : Fin 192) : 0x1001 * 256 ≤ (0x5140 + k.val) * 256 + b ∧ (0x5140 + k.val) * 256 + b < 0x7A00 * 256 := by
  have hlt := k.isLt
  omega

theorem programKey {b : Nat} (hb : b < 256) (g : Fin 16) : 0x1001 * 256 ≤ (0x5110 + g.val) * 256 + b ∧ (0x5110 + g.val) * 256 + b < 0x7A00 * 256 := by
  have hlt := g.isLt
  omega

theorem State.countStalls_own (h : Within bootScope s t) : Within bootScope s t.countStalls := by
  rw [State.countStalls]
  exact ((bootScope_put h (by decide) _).put (r := Obj.ARRAY.SPARES) rfl _).put (r := Obj.ARRAY.FAILED) rfl _

theorem State.setStall_own (h : Within bootScope s t) (d : StallId) (st : StallState) : Within bootScope s (t.setStall d st) := by
  rw [State.setStall]
  exact State.countStalls_own (bootScope_put (State.modStall_own h d _) (stallKey (b := 1) (by decide) d) _)

theorem State.placedCheck_own (h : Within bootScope s t) (g : Fin 16) : Within bootScope s (t.placedCheck g) :=
  Within.ite (fun _ => h) fun _ => State.modProgram_own h g _

theorem State.vacate_own (h : Within bootScope s t) (d : StallId) : Within bootScope s (t.vacate d) := by
  rw [State.vacate]
  exact State.setStall_own (bootScope_put (bootScope_put (State.modStall_own h d _) (stallKey (b := 2) (by decide) d) _) (stallKey (b := 3) (by decide) d) _) d _

theorem State.dropLoads_own (h : Within bootScope s t) (d : StallId) : Within bootScope s (t.dropLoads d) := by
  rw [State.dropLoads]
  exact State.placedCheck_own (State.modStall_own (h.foldl (fun v p hv => Within.ite (fun _ => State.vacate_own hv p) fun _ => hv) _) d _) _

theorem State.endMove_own (h : Within bootScope s t) (d : StallId) : Within bootScope s (t.endMove d) := by
  rw [State.endMove]
  split
  · exact State.setStall_own (State.vacate_own h _) _ _
  · exact h

theorem State.abandon_own (h : Within bootScope s t) (k : Fin 192) : Within bootScope s (t.abandon k) :=
  bootScope_put (State.modPitch_own h k _) (pitchKey (b := 0x0C) (by decide) k) _

theorem State.writeHosts_own (h : Within bootScope s t) (d : StallId) : Within bootScope s (t.writeHosts d) := by
  rw [State.writeHosts]
  exact h.foldl (fun v e hv => bootScope_put (State.modPitch_own hv e.1 _) (pitchKey (b := 0x0B) (by decide) e.1) _) _

theorem State.give_own (h : Within bootScope s t) (d : StallId) (g : Fin 16) (ks : List (Fin 192)) : Within bootScope s (t.give d g ks) := by
  rw [State.give]
  exact State.writeHosts_own (bootScope_put (State.modStall_own h d _) (stallKey (b := 2) (by decide) d) _) d

theorem State.writeParams_own (h : Within bootScope s t) (d : StallId) : Within bootScope s (t.writeParams d) := by
  rw [State.writeParams]
  exact h.foldl (fun v e hv => State.placeWords_own hv _ _) _

theorem State.writeDescriptor_own (h : Within bootScope s t) (d : StallId) (k : Fin 192) (x : Delivery) (flags : Nat) :
    Within bootScope s (t.writeDescriptor d k x flags) := by
  rw [State.writeDescriptor]
  split
  · exact State.modStall_own (State.placeWords_own h _ _) d _
  · exact h

theorem State.enterService_own (h : Within bootScope s t) (d : StallId) (img : List Byte) (resume : Bool) :
    Within bootScope s (t.enterService d img resume) := by
  rw [State.enterService]
  refine Within.foldl (State.setStall_own (bootScope_put (State.writeParams_own (State.modStall_own h d _) d) (stallKey (b := 3) (by decide) d) _) d _)
    (fun v e hv => ?_) _
  dsimp only
  split
  · exact State.writeDescriptor_own hv _ _ _ _
  · exact hv

theorem State.startStall_own (h : Within bootScope s t) (d : StallId) (g : Fin 16) (ks : List (Fin 192)) : Within bootScope s (t.startStall d g ks) := by
  have hgiven := State.give_own (State.endMove_own (State.dropLoads_own h d) d) d g ks
  rw [State.startStall]
  exact State.placedCheck_own (State.enterService_own (State.modStall_own (State.placeWords_own
    (hgiven.foldl (fun v j hv => State.abandon_own hv j) _) _ _) d _) d _ _) g

theorem State.markMoved_own (h : Within bootScope s t) (ks : List (Fin 192)) : Within bootScope s (t.markMoved ks) := by
  rw [State.markMoved]
  exact h.foldl (fun v k hv => bootScope_put (State.modPitch_own hv k _) (pitchKey (b := 0x12) (by decide) k) _) _

theorem State.reloadInPlace_own (h : Within bootScope s t) (d : StallId) : Within bootScope s (t.reloadInPlace d) :=
  State.setStall_own (State.markMoved_own (State.modStall_own h d _) _) d _

theorem State.startReplacement_own (h : Within bootScope s t) (g : Fin 16) : Within bootScope s (t.startReplacement g) := by
  rw [State.startReplacement]
  refine h.foldl (fun v d hv => ?_) _
  refine Within.ite (fun _ => ?_) fun _ => hv
  split
  · exact State.setStall_own (State.modStall_own hv _ _) _ _
  · exact Within.ite (fun _ => State.reloadInPlace_own hv d) fun _ => State.modStall_own hv d _

/-- A slot that has taken an image, before one in use is replaced. -/
def State.slotTaken (s : State) (g : Fin 16) (l : List Byte) (signed : Bool) : State :=
  let inUse := s.u (Obj.PROGRAM_SLOT.USERS g) != 0
  let t := s.modProgram g (fun p => { p with image := l, old := p.image, placing := inUse })
  let t := t.put (Obj.PROGRAM_SLOT.PROG_ID g) (imageField l 4 4)
  let t := t.put (Obj.PROGRAM_SLOT.VERSION g) (imageField l 8 4)
  let t := t.put (Obj.PROGRAM_SLOT.YARD_ALLOC g) (max (if inUse then s.u (Obj.PROGRAM_SLOT.YARD_ALLOC g) else 0) (imageField l 32 4))
  let t := t.put (Obj.PROGRAM_SLOT.DRAM_ALLOC g) (max (if inUse then s.u (Obj.PROGRAM_SLOT.DRAM_ALLOC g) else 0) (imageField l 36 4))
  let t := t.put (Obj.PROGRAM_SLOT.LOAD_STATUS g) 0
  t.put (Obj.PROGRAM_SLOT.SIGNED g) (if signed then 1 else 0)

theorem imageEff_eq (s : State) (g : Fin 16) (l : List Byte) (signed : Bool) : imageEff s g l signed =
    if s.u (Obj.PROGRAM_SLOT.USERS g) != 0 then ((s.slotTaken g l signed).startReplacement g).placedCheck g else s.slotTaken g l signed := rfl

theorem State.slotTaken_own (h : Within bootScope s t) (g : Fin 16) (l : List Byte) (signed : Bool) : Within bootScope s (t.slotTaken g l signed) := by
  have hput : ∀ (v : State) (b : Nat), b < 256 → Within bootScope s v → ∀ r : Reg, r.key = (0x5110 + g.val) * 256 + b → ∀ x, Within bootScope s (v.put r x) :=
    fun v b hb hv r hr x => bootScope_put hv (by rw [hr]; exact programKey hb g) x
  rw [State.slotTaken]
  exact hput _ 9 (by decide) (hput _ 8 (by decide) (hput _ 6 (by decide) (hput _ 5 (by decide) (hput _ 4 (by decide) (hput _ 3 (by decide)
    (State.modProgram_own h g _) _ rfl _) _ rfl _) _ rfl _) _ rfl _) _ rfl _) _ rfl _

theorem imageEff_own (h : Within bootScope s t) (g : Fin 16) (l : List Byte) (signed : Bool) : Within bootScope s (imageEff t g l signed) := by
  have htaken := State.slotTaken_own h g l signed
  rw [imageEff_eq]
  exact Within.ite (fun _ => State.placedCheck_own (State.startReplacement_own htaken g) g) fun _ => htaken

theorem State.restoreSlot_own (h : Within bootScope s t) (g : Fin 16) : Within bootScope s (t.restoreSlot g) := by
  rw [State.restoreSlot]
  refine Within.ite (fun _ => h) fun _ => Within.ite (fun _ => ?_) fun _ => bootScope_put h (programKey (b := 8) (by decide) g) _
  exact bootScope_put (bootScope_put (imageEff_own h g _ _) (programKey (b := 5) (by decide) g) _) (programKey (b := 6) (by decide) g) _

theorem State.countUsers_own (h : Within bootScope s t) : Within bootScope s t.countUsers := by
  rw [State.countUsers]
  refine List.foldlRecOn (motive := fun v : State => Within bootScope s v) _ _ h fun v hv g hg => ?_
  obtain ⟨a, rfl⟩ : ∃ a : Fin 16, g = a.val := by simpa using hg
  exact bootScope_put hv (programKey (b := 7) (by decide) a) _

theorem State.placePitch_own (h : Within bootScope s t) (k : Fin 192) : Within bootScope s (t.placePitch k) := by
  rw [State.placePitch]
  refine Within.ite (fun _ => h) fun _ => ?_
  split
  · exact State.startStall_own h _ _ _
  · exact h

/-! ## Ports (R82 to R84, R106, R182) -/

/-- The groups of ports. -/
theorem portKey {idx b : Nat} (hidx : 0x3000 ≤ idx) (hidx' : idx < 0x5000) (hb : b < 256) : 0x1001 * 256 ≤ idx * 256 + b ∧ idx * 256 + b < 0x7A00 * 256 := by
  omega

theorem State.putFigures_own (h : Within bootScope s t) (n : Port) (k : Nat) (hk : k < 16) (res : CrestResult) : Within bootScope s (t.putFigures n k res) := by
  have hn := n.isLt
  have hset : ∀ (v : State) (b : Nat), b < 256 → Within bootScope s v → ∀ r : Reg, r.key = ((0x3010 + 0x100 * n.val) + k) * 256 + b → ∀ x,
      Within bootScope s (v.put r x) := fun v b hb hv r hr x => bootScope_put hv (by rw [hr]; exact portKey (by omega) (by omega) hb) x
  rw [State.putFigures]
  have htones : Within bootScope s ((List.range 8).foldl (fun v i =>
      v.put (Obj.TONE.PHASE_USED n (tone k i)) (phaseOf (v.u (Obj.TONE.PHASE n (tone k i))) res.cand i)) t) :=
    range_keeps (P := fun v => Within bootScope s v) (fun v i hi hv =>
      bootScope_put hv (portKey (idx := (0x3080 + 0x100 * n.val) + tone k i) (by omega) (by rw [tone]; omega) (by decide)) _) h
  exact hset _ 8 (by decide) (hset _ 7 (by decide) (hset _ 6 (by decide) (hset _ 5 (by decide) (hset _ 4 (by decide) htones _ rfl _) _ rfl _) _ rfl _) _ rfl _)
    _ rfl _

theorem State.restoreTones_own (h : Within bootScope s t) (n : Port) (k : Nat) (hk : k < 16) : Within bootScope s (t.restoreTones n k) :=
  Within.ite (fun _ => h) fun _ => State.putFigures_own h n k hk _

theorem State.judgeSet_own (h : Within bootScope s t) (n : Port) (k : Nat) (hk : k < 16) (g : Reg → Nat) : Within bootScope s (t.judgeSet n k g) := by
  have hn := n.isLt
  have hplan : ∀ (v : State) (b : Nat), b < 256 → Within bootScope s v → ∀ r : Reg, r.key = ((0x3810 + 0x100 * n.val) + k) * 256 + b → ∀ x,
      Within bootScope s (v.put r x) := fun v b hb hv r hr x => bootScope_put hv (by rw [hr]; exact portKey (by omega) (by omega) hb) x
  rw [State.judgeSet]
  refine Within.ite (fun _ => ?_) fun _ => hplan _ 8 (by decide) h _ rfl _
  rw [State.putPlan]
  exact hplan _ 7 (by decide) (hplan _ 6 (by decide) (hplan _ 5 (by decide) (hplan _ 4 (by decide) (hplan _ 3 (by decide) (hplan _ 2 (by decide)
    (hplan _ 1 (by decide) (hplan _ 8 (by decide) h _ rfl _) _ rfl _) _ rfl _) _ rfl _) _ rfl _) _ rfl _) _ rfl _) _ rfl _

theorem State.allocSpectrum_own (h : Within bootScope s t) (n : Port) : Within bootScope s (t.allocSpectrum n) := by
  have hn := n.isLt
  rw [State.allocSpectrum]
  exact bootScope_part (bootScope_put (bootScope_put h (portKey (idx := 0x4801 + 0x100 * n.val) (by omega) (by omega) (by decide)) _)
    (portKey (idx := 0x4801 + 0x100 * n.val) (by omega) (by omega) (by decide)) _) rfl rfl

theorem State.modPipe_own (h : Within bootScope s t) (n : Port) (f : PipePart → PipePart) : Within bootScope s (t.modPipe n f) := bootScope_part h rfl rfl

theorem State.modPort_own (h : Within bootScope s t) (n : Port) (f : FibrePort → FibrePort) : Within bootScope s (t.modPort n f) := bootScope_part h rfl rfl

theorem State.modSet_own (h : Within bootScope s t) (n : Port) (a : Fin 8) (f : AvgSet → AvgSet) : Within bootScope s (t.modSet n a f) :=
  bootScope_part h rfl rfl

theorem State.placeDram_own (h : Within bootScope s t) (n : Port) : Within bootScope s (t.placeDram n) := by
  have hn := n.isLt
  rw [State.placeDram]
  refine State.allocSpectrum_own ((State.modPipe_own h n _).overAll fun v a hv => ?_) n
  have ha := a.isLt
  exact bootScope_put (State.modSet_own hv n a _) (portKey (idx := (0x4010 + 0x100 * n.val) + a.val) (by omega) (by omega) (by decide)) _

theorem State.placePort_own (h : Within bootScope s t) (n : Port) : Within bootScope s (t.placePort n) := by
  rw [State.placePort]
  have htones := range_keeps (P := fun v => Within bootScope s v) (f := fun u k => u.restoreTones n k) (n := 16)
    (fun v k hk hv => State.restoreTones_own hv n k hk) h
  have hsets := range_keeps (P := fun v => Within bootScope s v) (f := fun u k => if inDas u.u n k then u.judgeSet n k u.u else u) (n := 16)
    (fun v k hk hv => Within.ite (fun _ => State.judgeSet_own hv n k hk _) fun _ => hv) htones
  have hpipe := fun f g => State.modPipe_own (State.modPort_own hsets n f) n g
  exact bootScope_part (Within.ite (fun _ => hpipe _ _) fun _ => State.placeDram_own (hpipe _ _) n) rfl rfl

/-! ## Regions (R260, R263, R279) -/

theorem regionKey {b : Nat} (hb : b < 256) (r : Fin 64) : 0x1001 * 256 ≤ (0x5200 + r.val) * 256 + b ∧ (0x5200 + r.val) * 256 + b < 0x7A00 * 256 := by
  have hlt := r.isLt
  omega

theorem State.modRegion_own (h : Within bootScope s t) (r : Fin 64) (f : RegionPart → RegionPart) : Within bootScope s (t.modRegion r f) :=
  bootScope_part h rfl rfl

theorem State.settleRegion_own (h : Within bootScope s t) (r : Fin 64) : Within bootScope s (t.settleRegion r) := by
  have hput := bootScope_put h (r := Obj.REGION.RSTATE r) (regionKey (b := 0x0F) (by decide) r)
  exact Within.ite (fun _ => h) fun _ => Within.ite (fun _ => hput _) fun _ => State.modRegion_own (hput _) r _

theorem State.armRegion_own (h : Within bootScope s t) (r : Fin 64) (mode : Nat) : Within bootScope s (t.armRegion r mode) := by
  have harm := bootScope_put h (r := Obj.REGION.ARM_MODE r) (regionKey (b := 1) (by decide) r) mode
  rw [State.armRegion]
  exact Within.ite (fun _ => State.settleRegion_own harm r) fun _ => Within.ite (fun _ => State.modRegion_own harm r _) fun _ =>
    State.settleRegion_own (bootScope_put harm (regionKey (b := 0x0F) (by decide) r) _) r

theorem State.placeRegion_own (h : Within bootScope s t) (r : Fin 64) : Within bootScope s (t.placeRegion r) := by
  have hlen := fun f => State.modRegion_own h r f
  rw [State.placeRegion, State.putShallow]
  exact bootScope_put (Within.ite (fun _ => hlen _) fun _ => State.armRegion_own (hlen _) r _) (regionKey (b := 0x10) (by decide) r) _

/-! ## Streams (R355, R360, R361) -/

theorem streamKey {b : Nat} (hb : b < 256) (k : Fin 256) : 0x1001 * 256 ≤ (0x6000 + k.val) * 256 + b ∧ (0x6000 + k.val) * 256 + b < 0x7A00 * 256 := by
  have hlt := k.isLt
  omega

theorem State.twinStreams_own (h : Within bootScope s t) : Within bootScope s t.twinStreams := by
  rw [State.twinStreams]
  exact h.overAll fun v k hv => bootScope_put hv (streamKey (b := 0x14) (by decide) k) _

theorem State.tollSums_own (h : Within bootScope s t) : Within bootScope s t.tollSums := by
  rw [State.tollSums]
  exact bootScope_put (bootScope_put h (by decide) _) (by decide) _

theorem State.readHeld_own (h : Within bootScope s t) (k : Fin 256) : Within bootScope s (t.readHeld k) := by
  rw [State.readHeld]
  refine Within.ite (fun _ => h.foldl (fun v e hv => ?_) _) fun _ => h
  exact bootScope_part hv rfl rfl

theorem State.openStream_own (h : Within bootScope s t) (k : Fin 256) (part : StreamPart) : Within bootScope s (t.openStream k part) := by
  have hopen : ∀ f, Within bootScope s (t.modStream k f) := fun f => bootScope_part h rfl rfl
  rw [State.openStream]
  exact State.readHeld_own (State.twinStreams_own (State.tollSums_own (bootScope_put (bootScope_put (bootScope_put (bootScope_put (hopen _)
    (streamKey (b := 0x16) (by decide) k) _) (streamKey (b := 0x19) (by decide) k) _) (streamKey (b := 0x15) (by decide) k) _)
    (streamKey (b := 1) (by decide) k) _))) k

theorem State.placeStream_own (h : Within bootScope s t) (k : Fin 256) : Within bootScope s (t.placeStream k) :=
  Within.ite (fun _ => State.openStream_own h k _) fun _ => h

/-- Placing leaves IDENTITY, HEALTH and the boot record. -/
theorem State.placeAll_own (s : State) : Within bootScope s s.placeAll := by
  have hslots : Within bootScope s (if s.dramFailed then s else overAll s State.restoreSlot) :=
    Within.ite (fun _ => .refl _ _) fun _ => (Within.refl _ s).overAll fun v g hv => State.restoreSlot_own hv g
  rw [State.placeAll]
  generalize (if s.dramFailed then s else overAll s State.restoreSlot) = t at hslots
  have hregions : Within bootScope s (overAll (overAll t State.placePort) State.placeRegion) :=
    (hslots.overAll fun v n hv => State.placePort_own hv n).overAll fun v r hv => State.placeRegion_own hv r
  generalize overAll (overAll t State.placePort) State.placeRegion = u at hregions
  have hpoints := bootScope_put hregions (r := Obj.CAPTURE.COND_POINTS) (by decide) (condPoints u)
  exact (State.countStalls_own (State.countUsers_own (hpoints.overAll fun v k hv => State.placePitch_own hv k))).overAll fun v k hv =>
    State.placeStream_own hv k

end

end Sys2Proof.Machine
end

section
/-! SUPPORT. Resets and what outlives them, zeroize and the loader (R503, R504, R507 to R509, R519 to R521; Machine/Boot.lean). -/

namespace Sys2Proof.Machine

/-! ## Registers and bytes that a filter by their key keeps -/

theorem rf_filter {l : List (Nat × Nat)} (h : rising (l.map Prod.fst)) {p : Nat → Bool} {k : Nat} (hk : p k = true) (d : Nat) :
    rf (l.filter (fun e => p e.1)) k d = rf l k d := by
  induction l with
  | nil => rfl
  | cons e l ih =>
    obtain ⟨a, v⟩ := e
    obtain ⟨habove, hrest⟩ := List.pairwise_cons.mp h
    have hlow : k < a → rf (l.filter (fun e => p e.1)) k d = d := fun hlt => rf_eq_dflt fun e he hek => by
      have := habove e.1 (List.mem_map_of_mem (List.mem_of_mem_filter he))
      omega
    rw [List.filter_cons]
    by_cases hak : a = k
    · rw [if_pos (by simp only [hak, hk]), rf, rf, if_pos hak, if_pos hak]
    · split
      · rw [rf, rf, ih hrest]
      · by_cases hlt : k < a
        · rw [hlow hlt, rf, if_neg hak, if_pos hlt]
        · rw [ih hrest, rf, if_neg hak, if_neg hlt]

theorem Memory.read_filter {m : List Host.Cell} (h : Memory.wf m = true) (p : Nat → Bool) (k : Nat) :
    Memory.read (m.filter (fun c => p c.1)) k = if p k then Memory.read m k else unwritten := by
  have hrise := ((Memory.wf_iff m).mp h).1
  clear h
  induction m with
  | nil => simp [Memory.read]
  | cons c m ih =>
    obtain ⟨a, v⟩ := c
    obtain ⟨habove, hrest⟩ := List.pairwise_cons.mp hrise
    have hlow : k ≤ a → ∀ q : Host.Cell → Bool, Memory.read (m.filter q) k = unwritten := fun hle q => Memory.read_below _ k fun c hc =>
      lt_of_le_of_lt hle (habove c.1 (List.mem_map_of_mem (List.mem_of_mem_filter hc)))
    have hsame : Memory.read ((a, v) :: m) k = if a = k then v else if k < a then unwritten else Memory.read m k := rfl
    specialize ih hrest
    rw [List.filter_cons, hsame]
    by_cases hak : a = k
    · subst hak
      cases hp : p a
      · simp only [Bool.false_eq_true, if_false]
        exact hlow le_rfl _
      · simp [Memory.read]
    · rw [if_neg hak]
      by_cases hlt : k < a
      · rw [if_pos hlt, ite_self]
        split
        · rw [Memory.read, if_neg hak, if_pos hlt]
        · exact hlow hlt.le _
      · rw [if_neg hlt, ← ih]
        split
        · rw [Memory.read, if_neg hak, if_neg hlt]
        · rfl

/-- What a cleared range of memory leaves. -/
theorem State.clearWords_read (s : State) (a n k : Nat) (h : memoryGood s) :
    Memory.read (s.clearWords a n).mem k = if k < a ∨ a + n ≤ k then Memory.read s.mem k else 0 := by
  refine (Memory.read_filter h (fun j => decide (j < a) || decide (a + n ≤ j)) k).trans ?_
  simp only [Bool.or_eq_true, decide_eq_true_eq]
  rfl

/-! ## A reset (R503, R504) -/

section
variable {s : State}

theorem State.u_cleared_kept (s : State) (held : Bool) (r : Reg) (h : rising (s.regs.map Prod.fst)) (hr : keptReg r.key = true) :
    (s.cleared held).u r = s.u r := rf_filter h hr _

theorem State.blob_cleared (s : State) (held : Bool) : (s.cleared held).blob Obj.IDENTITY.SERIAL = s.blob Obj.IDENTITY.SERIAL := by
  have hfind : ∀ l : List (Nat × List Byte), (l.filter (fun e => e.1 == Obj.IDENTITY.SERIAL)).find? (fun e => e.1 == Obj.IDENTITY.SERIAL) =
      l.find? (fun e => e.1 == Obj.IDENTITY.SERIAL) := fun l => by
    rw [List.find?_filter]
    exact congrArg (fun p => List.find? p l) (funext fun _ => by simp only [and_self, Bool.decide_eq_true])
  exact congrArg (fun o : Option (Nat × List Byte) => (o.map (·.2)).getD []) (hfind s.blobs)

/-- A register of a reset state that the reset itself does not write. -/
theorem State.u_resetOnce (s : State) (cause : Nat) {r : Reg} (h1 : Obj.HEALTH.RESETS.key ≠ r.key) (h2 : Obj.HEALTH.RESET_CAUSE.key ≠ r.key)
    (h3 : Obj.HEALTH.ROLLBACK.key ≠ r.key) (h4 : Obj.HEALTH.FLAGS.key ≠ r.key) : (s.resetOnce cause).u r = (s.cleared (cause == 1)).u r := by
  simp only [State.resetOnce, State.putBit, State.bump_eq]
  rw [State.u_put_ne _ _ _ _ h4, State.u_put_ne _ _ _ _ h4, State.u_put_ne _ _ _ _ h3, State.u_put_ne _ _ _ _ h2, State.u_put_ne _ _ _ _ h1]

theorem State.resetOnce_counts (s : State) (cause : Nat) (h : rising (s.regs.map Prod.fst)) (hroom : s.u Obj.HEALTH.RESETS + 1 < 2 ^ 32) :
    (s.resetOnce cause).u Obj.HEALTH.RESETS = s.u Obj.HEALTH.RESETS + 1 := by
  have hkept := s.u_cleared_kept (cause == 1) Obj.HEALTH.RESETS h (by decide)
  simp only [State.resetOnce, State.putBit]
  rw [State.u_put_ne _ _ _ _ (by decide), State.u_put_ne _ _ _ _ (by decide), State.u_put_ne _ _ _ _ (by decide), State.u_put_ne _ _ _ _ (by decide),
    State.u_bump_self _ _ (by rw [hkept]; exact hroom), hkept]

theorem State.resetOnce_flags (s : State) (cause : Nat) : (s.resetOnce cause).bit Obj.HEALTH.FLAGS Bit.HEALTH.FLAGS.THERM_TRIPPED = (cause == 1) ∧
    (s.resetOnce cause).bit Obj.HEALTH.FLAGS Bit.HEALTH.FLAGS.ZEROIZE_PENDING = s.boot.zeroize := by
  rw [State.resetOnce]
  refine ⟨?_, State.bit_putBit_self _ _ _ _ (by decide)⟩
  rw [State.bit_putBit _ _ _ _ _ (by decide), if_neg (by decide)]
  exact State.bit_putBit_self _ _ _ _ (by decide)

/-- The parts of State that a reset leaves, and those it begins anew. -/
theorem State.resetOnce_parts (s : State) (cause : Nat) : (s.resetOnce cause).boot = s.boot.kept (cause == 1) ∧
    (s.resetOnce cause).ledger = { keys := s.ledger.keys } ∧ (s.resetOnce cause).plant = {} ∧ (s.resetOnce cause).mem = [] ∧
    (s.resetOnce cause).stalls = Vector.replicate 132 {} ∧ (s.resetOnce cause).staged = [] ∧ (s.resetOnce cause).book.cells = s.book.cells ∧
    (s.resetOnce cause).out = s.out ∧ (s.resetOnce cause).clk = { ovenLow := s.clk.ovenLow } ∧
    (s.resetOnce cause).flash = { journals := s.flash.journals.map (fun j => { j with job := none, began := none }) } ∧
    (s.resetOnce cause).blobs = (s.cleared (cause == 1)).blobs := ⟨rfl, rfl, rfl, rfl, rfl, rfl, rfl, rfl, rfl, rfl, rfl⟩

theorem resetTo_leaves {c : Nat} (hz : s.boot.zeroize = false) (hc : c < 256) (hg : storesGood s) :
    ∃ t : State, s.resetTo c = t ∧ t.u Obj.HEALTH.RESET_CAUSE = c ∧ t.u Obj.HEALTH.BOOT_STATE = 0 ∧
      (s.u Obj.HEALTH.RESETS + 1 < 2 ^ 32 → t.u Obj.HEALTH.RESETS = s.u Obj.HEALTH.RESETS + 1) ∧
      t.bit Obj.HEALTH.FLAGS Bit.HEALTH.FLAGS.THERM_TRIPPED = decide (c = 1) ∧ t.boot.held = decide (c = 1) ∧
      t.u Obj.IDENTITY.SILICON = s.u Obj.IDENTITY.SILICON ∧ t.blob Obj.IDENTITY.SERIAL = s.blob Obj.IDENTITY.SERIAL ∧
      t.ledger.keys = s.ledger.keys ∧ t.ledger.sessions = [] ∧ t.boot.banks = s.boot.banks ∧ t.boot.confirmed = s.boot.confirmed ∧
      t.boot.rollback = s.boot.rollback ∧ t.boot.revoked = s.boot.revoked ∧ t.boot.clerks = false ∧ t.plant.live = false ∧ t.mem = [] ∧
      t.stalls = Vector.replicate 132 {} ∧ t.staged = [] ∧ t.book.cells = s.book.cells ∧ t.out = s.out ∧
      t.clk = { ovenLow := s.clk.ovenLow } ∧
      (∀ j : Fin 18, t.flash.journals[j] = { s.flash.journals[j] with job := none, began := none }) := by
  rw [State.resetTo_plain s c hz]
  obtain ⟨-, -, hregs, -⟩ := hg
  obtain ⟨hcause, hstate⟩ := s.resetOnce_regs c hc
  have hcount := s.resetOnce_counts c hregs
  obtain ⟨htherm, -⟩ := s.resetOnce_flags c
  have hsilicon : (s.resetOnce c).u Obj.IDENTITY.SILICON = s.u Obj.IDENTITY.SILICON :=
    (s.u_resetOnce c (by decide) (by decide) (by decide) (by decide)).trans (s.u_cleared_kept _ _ hregs (by decide))
  obtain ⟨hboot, hledger, hplant, hmem, hstalls, hstaged, hcells, hout, hclk, hflash, hblobs⟩ := s.resetOnce_parts c
  have hserial : (s.resetOnce c).blob Obj.IDENTITY.SERIAL = s.blob Obj.IDENTITY.SERIAL := (State.blob_of_blobs hblobs _).trans (s.blob_cleared _)
  have hone : (c == 1) = decide (c = 1) := beq_eq_decide c 1
  generalize s.resetOnce c = t at *
  refine ⟨t, rfl, hcause, hstate, hcount, htherm.trans hone, ?_, hsilicon, hserial, by rw [hledger], by rw [hledger], by rw [hboot]; rfl,
    by rw [hboot]; rfl, by rw [hboot]; rfl, by rw [hboot]; rfl, by rw [hboot]; rfl, by rw [hplant], hmem, hstalls, hstaged, hcells, hout, hclk, fun j => ?_⟩
  · rw [hboot]
    exact hone
  · rw [hflash]
    exact Vector.getElem_map _ _

/-! ## Zeroize (R519 to R521) -/

theorem zeroizePin_zeroizes (s : State) : ∃ t : State, exec .zeroizePin s = .next t ∧ t.u Obj.HEALTH.RESET_CAUSE = 3 ∧
    t.ledger.keys = [(0, Config.commissioningKey)] ∧ t.boot.zeroize = true ∧ t.bit Obj.HEALTH.FLAGS Bit.HEALTH.FLAGS.ZEROIZE_PENDING = true ∧
    t.ledger.sessions = [] ∧ t.boot.banks = s.boot.banks ∧ t.boot.rollback = s.boot.rollback ∧ t.book.cells = s.book.cells ∧ t.mem = [] := by
  have hexec : exec .zeroizePin s = .next (((s.modBoot (fun b => { b with zeroize := true })).eraseKeys).resetOnce 3) :=
    rfl
  obtain ⟨hcause, -⟩ := State.resetOnce_regs ((s.modBoot (fun b => { b with zeroize := true })).eraseKeys) 3 (by decide)
  obtain ⟨-, hpending⟩ := State.resetOnce_flags ((s.modBoot (fun b => { b with zeroize := true })).eraseKeys) 3
  obtain ⟨hboot, hledger, -, hmem, -, -, hcells, -, -, -, -⟩ := State.resetOnce_parts ((s.modBoot (fun b => { b with zeroize := true })).eraseKeys) 3
  exact ⟨_, hexec, hcause, by rw [hledger]; rfl, by rw [hboot]; rfl, hpending, by rw [hledger], by rw [hboot]; rfl, by rw [hboot]; rfl, hcells, hmem⟩

theorem resetTo_zeroizes {c : Nat} (hz : s.boot.zeroize = true) : ∃ t : State, s.resetTo c = t ∧ t.u Obj.HEALTH.RESET_CAUSE = 3 ∧ t.boot.zeroize = true ∧
    (c ≠ 3 → t.ledger.keys = [(0, Config.commissioningKey)]) := by
  by_cases hc : c = 3
  · subst hc
    have hreset : s.resetTo 3 = s.resetOnce 3 := if_neg fun h => h.2 rfl
    rw [hreset]
    exact ⟨_, rfl, (s.resetOnce_regs 3 (by decide)).1, hz, fun h => absurd rfl h⟩
  · have hreset : s.resetTo c = (s.resetOnce c).eraseKeys.resetOnce 3 := if_pos ⟨hz, hc⟩
    rw [hreset]
    exact ⟨_, rfl, (State.resetOnce_regs _ 3 (by decide)).1, hz, fun _ => rfl⟩

end

/-! ## What journalled values bring (R291, R339, R508) -/

/-- What a twin's role and its outputs may change: its claim, the plant's loops and chain, and what is sent. -/
def turnScope : Scope where
  blank s := { s with regs := [], plant := { s.plant with loops := Vector.replicate 8 {}, chain := {} }, out := [] }
  regs k := k / 256 == 0x7100
  blind _ _ := rfl

section
variable {s t : State}

theorem turnScope_loops (h : Within loopScope s t) : Within turnScope s t :=
  h.widen (fun _ _ hvw => by have hc := congrArg turnScope.blank hvw; exact hc) fun _ hk => hk

theorem State.chainEnable_within (s : State) : Within turnScope s s.chainEnable := by
  have hmod : ∀ f, Within turnScope s (s.modChain f) := fun f => .part rfl rfl
  have hstart : ∀ v, Within turnScope s v → Within turnScope s v.chainStart := fun v hv => Within.ite (fun _ => hv.trans (.part rfl rfl)) fun _ => hv
  exact hstart _ (hmod _)

theorem State.plantTurn_within (s : State) : Within turnScope s s.plantTurn := by
  have hloops := turnScope_loops (State.loopsFollow_within (.refl _ s))
  rw [State.plantTurn]
  generalize s.loopsFollow = v at hloops
  exact Within.ite (fun _ => hloops.trans (.part rfl rfl)) fun _ => Within.ite (fun _ => hloops.trans v.chainEnable_within) fun _ => hloops

/-- The registers that journalled values may change: none of IDENTITY's and none from 7900h on. -/
def valueReg (k : Nat) : Bool := decide (0x1001 * 256 ≤ k) && decide (k < 0x7900 * 256)

theorem valueReg_of {k : Nat} (h : 0x1001 * 256 ≤ k) (h' : k < 0x7900 * 256) : valueReg k = true := by simp [valueReg, h, h']

/-- What journalled values may change. -/
def valueScope : Scope where
  blank s := { s with regs := [], book := {}, clk := {}, enc := {}, units := Vector.replicate 8 {}, twin := {}, plant := {}, out := [] }
  regs := valueReg
  blind _ _ := rfl

theorem valueScope_flags (h : Within flagScope s t) : Within valueScope s t :=
  h.widen (fun _ _ hvw => by have hc := congrArg valueScope.blank hvw; exact hc) fun k hk => by
    simp only [show valueScope.regs k = valueReg k from rfl, valueReg, Bool.and_eq_false_iff, decide_eq_false_iff_not] at hk
    simp only [show flagScope.regs k = pllReg k from rfl, pllReg, List.any_cons, List.any_nil, Bool.or_false, Bool.or_eq_false_iff, beq_eq_false_iff_ne,
      Bool.and_eq_false_iff, decide_eq_false_iff_not, Obj.CLOCKS.FLAGS, Obj.CLOCKS.REF_IN_USE, Obj.CLOCKS.PLL_STATE, Obj.EPOCH.FLAGS, Obj.TDC.FLAGS,
      Obj.TDC.TBASE]
    omega

theorem valueScope_turn (h : Within turnScope s t) : Within valueScope s t :=
  h.widen (fun _ _ hvw => by have hc := congrArg valueScope.blank hvw; exact hc) fun k hk => by
    simp only [show valueScope.regs k = valueReg k from rfl, valueReg, Bool.and_eq_false_iff, decide_eq_false_iff_not] at hk
    simp only [show turnScope.regs k = (k / 256 == 0x7100) from rfl, beq_eq_false_iff_ne]
    omega

theorem State.putClaim_values (h : Within valueScope s t) (v : Nat) : Within valueScope s (t.putClaim v) := by
  have hold : ∀ x, Within valueScope s { t with twin := x } := fun x => h.trans (.part rfl rfl)
  refine Within.ite (fun _ => h) fun _ => ?_
  exact ((hold _).put (r := Obj.TWIN.CLAIM) rfl v).trans (.part rfl rfl)

theorem State.twinStreams_values (h : Within valueScope s t) : Within valueScope s t.twinStreams := by
  rw [State.twinStreams]
  refine h.overAll fun v k hv => ?_
  have hlt := k.isLt
  exact hv.put (r := Obj.STREAM.TWIN k) (valueReg_of (by simp only [Obj.STREAM.TWIN]; omega) (by simp only [Obj.STREAM.TWIN]; omega)) _

theorem State.takeRole_values (h : Within valueScope s t) (role prio : Nat) : Within valueScope s (t.takeRole role prio) := by
  rw [State.takeRole, State.setClaim]
  exact State.twinStreams_values ((State.putClaim_values (h.put (r := Obj.TWIN.ROLE) rfl role) _).trans (valueScope_turn (State.plantTurn_within _)))

theorem State.takeValues_within (s : State) : Within valueScope s s.takeValues := by
  have hparts : ∀ b c e, Within valueScope s { s with book := b, clk := c, enc := e } := fun b c e => .part rfl rfl
  have hflags := fun b c e => (hparts b c e).trans (valueScope_flags ((State.refFlags_within _).trans (State.serdesFlag_within _)))
  rw [State.takeValues]
  exact Within.ite (fun _ => State.takeRole_values (hflags _ _ _) 0 0) fun _ => hflags _ _ _

/-! ## The loader (R498, R507) -/

/-- Boot record, flash and memory stand, whatever registers journals bring. -/
def loadScope : Scope where
  blank s := { boot := s.boot, flash := s.flash, mem := s.mem }
  regs _ := true
  blind _ _ := rfl

theorem loadScope_parts (h : Within loadScope s t) : t.boot = s.boot ∧ t.flash = s.flash ∧ t.mem = s.mem :=
  ⟨congrArg (fun v => v.boot) h.parts, congrArg (fun v => v.flash) h.parts, congrArg (fun v => v.mem) h.parts⟩

theorem State.markFlag_load (s : State) (r : Reg) (b sub : Nat) : Within loadScope s (s.markFlag r b sub) :=
  ((Within.refl loadScope s).setBit rfl b).trans ((State.within_log _ _).widen (fun _ _ hvw => by have hc := congrArg loadScope.blank hvw; exact hc)
    fun _ hk => by cases hk)

theorem loadScope_regs (s : State) (r : List (Nat × Nat)) (b : List (Nat × List Byte)) : Within loadScope s { s with regs := r, blobs := b } :=
  ⟨rfl, fun _ hr => by cases hr⟩

theorem State.takeJournal_load (s : State) (j : Fin 18) : Within loadScope s (s.takeJournal j) := by
  rw [State.takeJournal]
  exact Within.ite (fun _ => s.markFlag_load _ _ _) fun _ => Within.ite (fun _ => loadScope_regs s _ _) fun _ => .refl _ _

/-- The journals' values, before the registers that tell of them. -/
def State.journalsTaken (s : State) : State :=
  let t := overAll s State.takeJournal
  if s.flash.journals[(0 : Fin 18)].valid then overAll t.takeHidden (fun u (n : Port) => u.put (Obj.RX_TRIMS.SOURCE n) 1) else t

/-- The registers that tell of the journals. -/
def State.journalsTold (t : State) (js : Vector JournalPart 18) : State :=
  let seqOf := fun (j : Fin 18) => if js[j].valid then js[j].seq.toNat else 0
  let t := (t.put Obj.FLASH.CAL_SEQ (seqOf 0)).put Obj.FLASH.LEDGER_SEQ (seqOf 1)
  let t := overAll t (fun u (j : Fin 18) => if js[j].valid ∧ js[j].slot = 1 then u.setBit Obj.FLASH.BOOT_SLOTS j else u)
  let m := (js.toList.flatMap (·.erases)).foldl max 0
  (t.put Obj.FLASH.ERASE_MAX m).putBit Obj.FLASH.FLAGS Bit.FLASH.FLAGS.WEAR_ALERT (decide (80000 < m))

theorem State.loadJournals_eq (s : State) : s.loadJournals =
    ((s.journalsTaken.journalsTold s.flash.journals).modBoot (fun b => { b with loader := true })).takeValues := rfl

theorem State.journalsTaken_load (s : State) : Within loadScope s s.journalsTaken := by
  have htake : Within loadScope s (overAll s State.takeJournal) := (Within.refl _ s).overAll fun v j hv => hv.trans (v.takeJournal_load j)
  rw [State.journalsTaken]
  generalize overAll s State.takeJournal = v at htake
  have hhidden : Within loadScope s v.takeHidden := htake.trans (.part rfl rfl)
  exact Within.ite (fun _ => hhidden.overAll fun w n hw => hw.put rfl _) fun _ => htake

theorem State.journalsTold_load (t : State) (js : Vector JournalPart 18) : Within loadScope t (t.journalsTold js) := by
  rw [State.journalsTold]
  have hseq : ∀ a b, Within loadScope t ((t.put Obj.FLASH.CAL_SEQ a).put Obj.FLASH.LEDGER_SEQ b) := fun a b => ((Within.refl _ t).put rfl a).put rfl b
  exact Within.putBit (Within.put (Within.overAll (hseq _ _) fun v j hv => Within.ite (fun _ => hv.setBit rfl _) fun _ => hv) rfl _) rfl _ _

theorem State.loadJournals_parts (s : State) : s.loadJournals.boot = { s.boot with loader := true } ∧ s.loadJournals.flash = s.flash ∧
    s.loadJournals.mem = s.mem := by
  obtain ⟨hboot, hflash, hmem⟩ := loadScope_parts (s.journalsTaken_load.trans (State.journalsTold_load _ s.flash.journals))
  rw [State.loadJournals_eq]
  generalize s.journalsTaken.journalsTold s.flash.journals = v at hboot hflash hmem
  have hvalues := (v.modBoot (fun b => { b with loader := true })).takeValues_within
  generalize (v.modBoot (fun b => { b with loader := true })).takeValues = w at hvalues
  have wboot := congrArg (fun x : State => x.boot) hvalues.parts
  have wflash := congrArg (fun x : State => x.flash) hvalues.parts
  have wmem := congrArg (fun x : State => x.mem) hvalues.parts
  exact ⟨wboot.trans (congrArg (fun b : BootPart => { b with loader := true }) hboot), wflash.trans hflash, wmem.trans hmem⟩

/-- Journals of which none is valid: JOURNAL_EMPTY, and no register beyond the flash's and the day book's. -/
theorem State.journalsTaken_empty (s : State) (h : ∀ j : Fin 18, s.flash.journals[j].valid = false) :
    s.journalsTaken.bit Obj.FLASH.FLAGS Bit.FLASH.FLAGS.JOURNAL_EMPTY = true ∧
    ∀ r : Reg, bookReg r.key = false → Obj.FLASH.FLAGS.key ≠ r.key → s.journalsTaken.u r = s.u r := by
  have hmark : ∀ (v : State) (j : Fin 18), v.flash = s.flash → v.takeJournal j = v.markFlag Obj.FLASH.FLAGS Bit.FLASH.FLAGS.JOURNAL_EMPTY 25 :=
    fun v j hv => if_pos (by rw [hv, h j]; rfl)
  have hflash : ∀ (v : State) (j : Fin 18), v.flash = s.flash → (v.takeJournal j).flash = s.flash := fun v j hv =>
    (loadScope_parts (v.takeJournal_load j)).2.1.trans hv
  have htaken : s.journalsTaken = overAll s State.takeJournal := if_neg (by rw [h 0]; decide)
  rw [htaken]
  refine ⟨?_, fun r hr hne => ?_⟩
  · have hturn := overAll_turn (f := State.takeJournal) (P := fun v => v.flash = s.flash)
      (Q := fun v => v.flash = s.flash ∧ v.bit Obj.FLASH.FLAGS Bit.FLASH.FLAGS.JOURNAL_EMPTY = true) (0 : Fin 18) (fun v j _ hv => hflash v j hv)
      (fun v hv => ⟨hflash v 0 hv, by rw [hmark v 0 hv]; exact State.markFlag_bit _ _ _ _ (by decide) (by decide) _⟩)
      (fun v j _ hv => ⟨hflash v j hv.1, by rw [hmark v j hv.1]; exact State.markFlag_bit _ _ _ _ (by decide) (by decide) _⟩) s rfl
    exact hturn.2
  · have hall := overAll_induct (f := State.takeJournal) (P := fun v => v.flash = s.flash ∧ v.u r = s.u r)
      (fun v j hv => ⟨hflash v j hv.1, by rw [hmark v j hv.1]; exact (State.markFlag_u _ _ _ _ r hr hne _).trans hv.2⟩) s ⟨rfl, rfl⟩
    exact hall.2

theorem State.journalsTold_empty (t : State) {js : Vector JournalPart 18} (h : ∀ j : Fin 18, js[j].valid = false) :
    (t.journalsTold js).u Obj.FLASH.CAL_SEQ = 0 ∧ (t.journalsTold js).u Obj.FLASH.LEDGER_SEQ = 0 ∧
    (t.journalsTold js).bit Obj.FLASH.FLAGS Bit.FLASH.FLAGS.JOURNAL_EMPTY = t.bit Obj.FLASH.FLAGS Bit.FLASH.FLAGS.JOURNAL_EMPTY ∧
    ∀ r : Reg, r.key < 0x7900 * 256 ∨ 0x7901 * 256 ≤ r.key → (t.journalsTold js).u r = t.u r := by
  have hslots : ∀ v : State, overAll v (fun u (j : Fin 18) => if js[j].valid ∧ js[j].slot = 1 then u.setBit Obj.FLASH.BOOT_SLOTS j else u) = v := fun v =>
    overAll_induct (P := fun u => u = v) (fun u j hu => by rw [if_neg (by rw [h j]; simp)]; exact hu) v rfl
  have htold : ∃ m w, t.journalsTold js = (((t.put Obj.FLASH.CAL_SEQ 0).put Obj.FLASH.LEDGER_SEQ 0).put Obj.FLASH.ERASE_MAX m).putBit Obj.FLASH.FLAGS
      Bit.FLASH.FLAGS.WEAR_ALERT w := by
    refine ⟨(js.toList.flatMap (·.erases)).foldl max 0, decide (80000 < (js.toList.flatMap (·.erases)).foldl max 0), ?_⟩
    rw [State.journalsTold, hslots]
    simp only [h, Bool.false_eq_true, if_false]
  obtain ⟨m, w, htold⟩ := htold
  rw [htold]
  refine ⟨?_, ?_, ?_, fun r hr => ?_⟩
  · rw [State.putBit, State.u_put_ne _ _ _ _ (by decide), State.u_put_ne _ _ _ _ (by decide), State.u_put_ne _ _ _ _ (by decide), State.u_put_self]
    rfl
  · rw [State.putBit, State.u_put_ne _ _ _ _ (by decide), State.u_put_ne _ _ _ _ (by decide), State.u_put_self]
    rfl
  · rw [State.bit_putBit _ _ _ _ _ (by decide), if_neg (by decide), State.bit_put_ne _ _ _ _ _ (by decide), State.bit_put_ne _ _ _ _ _ (by decide),
      State.bit_put_ne _ _ _ _ _ (by decide)]
  · have hne : ∀ b, b < 256 → 0x7900 * 256 + b ≠ r.key := fun b hb => by omega
    rw [State.putBit, State.u_put_ne _ _ _ _ (hne 1 (by decide)), State.u_put_ne _ _ _ _ (hne 5 (by decide)), State.u_put_ne _ _ _ _ (hne 3 (by decide)),
      State.u_put_ne _ _ _ _ (hne 2 (by decide))]

/-- No journal holds anything: the device comes up with every value at its default. -/
theorem State.loadJournals_empty (s : State) (h : ∀ j : Fin 18, s.flash.journals[j].valid = false) :
    s.loadJournals.bit Obj.FLASH.FLAGS Bit.FLASH.FLAGS.JOURNAL_EMPTY = true ∧ s.loadJournals.u Obj.FLASH.CAL_SEQ = 0 ∧
    s.loadJournals.u Obj.FLASH.LEDGER_SEQ = 0 ∧ s.loadJournals.u Obj.HEALTH.BOOT_STATE = s.u Obj.HEALTH.BOOT_STATE := by
  obtain ⟨hempty, htaken⟩ := s.journalsTaken_empty h
  obtain ⟨hcal, hledger, hbit, htold⟩ := s.journalsTaken.journalsTold_empty h
  have hboot := (htold Obj.HEALTH.BOOT_STATE (by decide)).trans (htaken Obj.HEALTH.BOOT_STATE (by decide) (by decide))
  rw [State.loadJournals_eq]
  generalize s.journalsTaken.journalsTold s.flash.journals = v at hcal hledger hbit hboot
  have hvalues := (v.modBoot (fun b => { b with loader := true })).takeValues_within
  generalize (v.modBoot (fun b => { b with loader := true })).takeValues = w at hvalues
  exact ⟨(hvalues.bit (r := Obj.FLASH.FLAGS) (by decide) _).trans (hbit.trans hempty), (hvalues.reads Obj.FLASH.CAL_SEQ (by decide)).trans hcal,
    (hvalues.reads Obj.FLASH.LEDGER_SEQ (by decide)).trans hledger, (hvalues.reads Obj.HEALTH.BOOT_STATE (by decide)).trans hboot⟩

/-! ## Erased journals (R520) -/

/-- Every journal but the first erased. -/
def State.journalsErased (s : State) : State := overAll s (fun u (j : Fin 18) => if j = 0 then u else u.modJournal j JournalPart.erased)

theorem State.journalsErased_one (s : State) (j : Fin 18) (hj : j ≠ 0) : s.journalsErased.flash.journals[j] = s.flash.journals[j].erased := by
  refine overAll_turn (P := fun v => v.flash.journals[j] = s.flash.journals[j]) (Q := fun v => v.flash.journals[j] = s.flash.journals[j].erased) j
    (fun v i hi hv => ?_) (fun v hv => ?_) (fun v i hi hv => ?_) s rfl
  · split
    · exact hv
    · exact (v.modJournal_other j i JournalPart.erased hi.symm).trans hv
  · rw [if_neg hj, State.modJournal_self, hv]
  · split
    · exact hv
    · exact (v.modJournal_other j i JournalPart.erased hi.symm).trans hv

theorem State.journalsErased_first (s : State) : s.journalsErased.flash.journals[(0 : Fin 18)] = s.flash.journals[(0 : Fin 18)] ∧
    s.journalsErased.boot = s.boot :=
  overAll_induct (P := fun v => v.flash.journals[(0 : Fin 18)] = s.flash.journals[(0 : Fin 18)] ∧ v.boot = s.boot) (fun v j hv => by
    split
    · exact hv
    · rename_i hj
      exact ⟨(v.modJournal_other 0 j JournalPart.erased (Ne.symm hj)).trans hv.1, hv.2⟩) s ⟨rfl, rfl⟩

theorem zeroizeEraseEnd_erases (hz : s.boot.zeroize = true) (hb : s.u Obj.HEALTH.BOOT_STATE = 1) (hl : s.boot.loader = false) :
    ∃ t : State, exec .zeroizeEraseEnd s = .next t ∧ t.boot.zeroize = false ∧ t.boot.loader = true ∧
      (∀ j : Fin 18, j ≠ 0 → t.flash.journals[j].valid = false ∧ t.flash.journals[j].data = {} ∧
        t.flash.journals[j].erases = s.flash.journals[j].erases.map (· + 1)) ∧
      t.flash.journals[(0 : Fin 18)] = s.flash.journals[(0 : Fin 18)] := by
  have hexec : exec .zeroizeEraseEnd s = .next ((s.journalsErased.modBoot (fun b => { b with zeroize := false })).clrBit Obj.HEALTH.FLAGS
      Bit.HEALTH.FLAGS.ZEROIZE_PENDING).loadJournals := congrArg Host.Outcome.next (if_neg (by rw [hz, hb, hl]; simp))
  have hone := fun j hj => s.journalsErased_one j hj
  obtain ⟨hfirst, -⟩ := s.journalsErased_first
  generalize s.journalsErased = v at hexec hone hfirst
  obtain ⟨hboot, hflash, -⟩ := State.loadJournals_parts ((v.modBoot (fun b => { b with zeroize := false })).clrBit Obj.HEALTH.FLAGS
      Bit.HEALTH.FLAGS.ZEROIZE_PENDING)
  generalize ((v.modBoot (fun b => { b with zeroize := false })).clrBit Obj.HEALTH.FLAGS Bit.HEALTH.FLAGS.ZEROIZE_PENDING).loadJournals = w at hexec hboot hflash
  have hjournals : w.flash.journals = v.flash.journals := congrArg FlashPart.journals hflash
  refine ⟨w, hexec, by rw [hboot]; rfl, by rw [hboot], fun j hj => ?_, by rw [hjournals, hfirst]⟩
  rw [hjournals, hone j hj]
  exact ⟨rfl, rfl, rfl⟩

end

end Sys2Proof.Machine
end

section
/-! SUPPORT. The steps of bring-up (R507 to R509; Machine/Boot.lean). -/

namespace Sys2Proof.Machine

/-! ## Ethernet, the plant and the CAN port start (R345, R458, R507 step 9) -/

/-- What a start of the interfaces leaves: the boot record, memory, and the registers of IDENTITY and HEALTH. -/
def netScope : Scope where
  blank s := { boot := s.boot, mem := s.mem }
  regs := ownReg
  blind _ _ := rfl

section
variable {s t : State}

theorem netScope_parts (h : Within netScope s t) : t.boot = s.boot ∧ t.mem = s.mem :=
  ⟨congrArg (fun v => v.boot) h.parts, congrArg (fun v => v.mem) h.parts⟩

theorem netScope_book (h : Within bookScope s t) : Within netScope s t :=
  h.widen (fun _ _ hvw => by have hc := congrArg netScope.blank hvw; exact hc) fun _ hk => farReg_book (ownReg_far hk)

theorem netScope_turn (h : Within turnScope s t) : Within netScope s t :=
  h.widen (fun _ _ hvw => by have hc := congrArg netScope.blank hvw; exact hc) fun k hk => by
    simp only [show netScope.regs k = ownReg k from rfl, ownReg, Bool.not_eq_false', Bool.or_eq_true, beq_iff_eq] at hk
    simp only [show turnScope.regs k = (k / 256 == 0x7100) from rfl, beq_eq_false_iff_ne]
    omega

theorem netScope_part (h : Within netScope s t) {u : State} (hb : u.boot = t.boot) (hm : u.mem = t.mem) (hr : u.regs = t.regs) : Within netScope s u :=
  h.trans (.part (congrArg₂ (fun (b : BootPart) (m : List Host.Cell) => ({ boot := b, mem := m } : State)) hb hm) hr)

theorem State.logFlag_net (h : Within netScope s t) {r : Reg} (hr : ownReg r.key = true) (b : Nat) (x : Bool) (sub inst : Nat) :
    Within netScope s (t.logFlag r b x sub inst) :=
  Within.ite (fun _ => h) fun _ => (h.putBit hr b x).trans (netScope_book (State.within_log _ _))

/-- A register of an Ethernet port. -/
theorem ethKey (p : Fin 4) {b : Nat} (hb : b < 256) : ownReg ((0x1100 + p.val) * 256 + b) = true := ownReg_of (by omega)

theorem State.startUp_net (h : Within netScope s t) (p : Fin 4) : Within netScope s (t.startUp p) := by
  have hmod : ∀ f, Within netScope s (t.modEth p f) := fun f => netScope_part h rfl rfl rfl
  rw [State.startUp]
  exact ((((hmod _).put (r := Obj.ETH_PORT.RATE p) (ethKey p (b := 4) (by decide)) 0).put (r := Obj.ETH_PORT.FEC_USED p)
    (ethKey p (b := 5) (by decide)) 0).clrBit (r := Obj.ETH_PORT.FLAGS p) (ethKey p (b := 6) (by decide)) _).clrBit (r := Obj.ETH_PORT.FLAGS p)
    (ethKey p (b := 6) (by decide)) _

theorem State.startEthernet_net (h : Within netScope s t) : Within netScope s t.startEthernet := by
  rw [State.startEthernet]
  refine (h.overAll fun v p hv => State.startUp_net hv p).overAll fun v p hv => State.logFlag_net hv (ownReg_of ?_) _ _ _ _
  simp only [Obj.INTERFACE.PRP_FLAGS]
  omega

/-- What a CAN port that transmits again changes: its count of errors, its queue and what is sent. -/
def canScope : Scope where
  blank s := { s with regs := [], can := {}, out := [], fresh := 0 }
  regs k := k / 256 == 0x1140
  blind _ _ := rfl

theorem State.canPassed_within (h : Within canScope s t) (most weight : Nat) : Within canScope s (t.canPassed Obj.CAN.TEC most weight) := by
  have hput := h.put (r := Obj.CAN.TEC) rfl (errorCount (min most (t.u Obj.CAN.TEC)) (Config.busErrors t.fresh) weight)
  rw [State.canPassed]
  generalize t.put Obj.CAN.TEC (errorCount (min most (t.u Obj.CAN.TEC)) (Config.busErrors t.fresh) weight) = v at hput
  exact hput.trans (.part rfl rfl)

theorem State.canFlush_within (s : State) : Within canScope s s.canFlush := by
  rw [State.canFlush]
  refine Within.ite (fun _ => ?_) fun _ => .refl _ _
  have hall : Within canScope s (s.can.txQueue.foldl (fun u e => (u.canPassed Obj.CAN.TEC 255 8).emit (.can e.1 e.2)) s) := by
    refine Within.foldl (.refl _ s) (fun v e hv => ?_) _
    exact (State.canPassed_within hv 255 8).trans (.part rfl rfl)
  exact hall.trans (.part rfl rfl)

theorem netScope_can (h : Within canScope s t) : Within netScope s t :=
  h.widen (fun _ _ hvw => by have hc := congrArg netScope.blank hvw; exact hc) fun k hk => by
    simp only [show netScope.regs k = ownReg k from rfl, ownReg, Bool.not_eq_false', Bool.or_eq_true, beq_iff_eq] at hk
    simp only [show canScope.regs k = (k / 256 == 0x1140) from rfl, beq_eq_false_iff_ne]
    omega

/-- Step 9: the Ledger answers, and the plant's outputs leave their off state. -/
theorem State.serveNow_serves (s : State) : s.serveNow.boot = { s.boot with served := true } ∧ s.serveNow.mem = s.mem ∧ s.serveNow.plant.live = true := by
  have hnet := netScope_parts (State.startEthernet_net (.refl netScope (s.modBoot (fun b => { b with served := true }))))
  rw [State.serveNow]
  generalize (s.modBoot (fun b => { b with served := true })).startEthernet = v at hnet
  have hlive : v.plantBegins.plant.live = true := rfl
  have hbegun : v.plantBegins.boot = v.boot ∧ v.plantBegins.mem = v.mem := ⟨rfl, rfl⟩
  generalize v.plantBegins = w at hlive hbegun
  have hturn := w.plantTurn_within
  generalize w.plantTurn = x at hturn
  have hflush := x.canFlush_within
  generalize x.canFlush = y at hflush
  obtain ⟨hboot, hmem⟩ := netScope_parts ((netScope_turn hturn).trans (netScope_can hflush))
  have hlate := congrArg (fun q : State => q.plant.live) hflush.parts
  have hearly := congrArg (fun q : State => q.plant.live) hturn.parts
  exact ⟨hboot.trans (hbegun.1.trans hnet.1), hmem.trans (hbegun.2.trans hnet.2), hlate.trans (hearly.trans hlive)⟩

end

/-! ## The loader and the clerks (R507 steps 3 to 5, R512, R515, R516) -/

section
variable {s : State}

theorem loaderStart_loads (hb : s.u Obj.HEALTH.BOOT_STATE = 0) (hh : resetHeld s = false) (hz : s.boot.zeroize = false)
    (hj : ∀ j : Fin 18, s.flash.journals[j].valid = false) : ∃ t : State, exec .loaderStart s = .next t ∧ t.boot.loader = true ∧
      t.bit Obj.FLASH.FLAGS Bit.FLASH.FLAGS.JOURNAL_EMPTY = true ∧ t.u Obj.HEALTH.BOOT_STATE = 1 ∧ t.u Obj.FLASH.CAL_SEQ = 0 ∧
      t.u Obj.FLASH.LEDGER_SEQ = 0 ∧ t.mem = s.mem := by
  have hnone : ¬ (s.u Obj.HEALTH.BOOT_STATE ≠ 0 ∨ resetHeld s = true) := by rw [hb, hh]; decide
  have hexec : exec .loaderStart s = .next (s.put Obj.HEALTH.BOOT_STATE 1).loadJournals := by
    refine congrArg Host.Outcome.next ((if_neg hnone).trans (if_neg ?_))
    rw [State.put_boot, hz]
    decide
  have hstate : (s.put Obj.HEALTH.BOOT_STATE 1).u Obj.HEALTH.BOOT_STATE = 1 := State.u_put_of_lt _ _ _ (by decide)
  have hkept : (s.put Obj.HEALTH.BOOT_STATE 1).flash = s.flash ∧ (s.put Obj.HEALTH.BOOT_STATE 1).mem = s.mem := ⟨rfl, rfl⟩
  generalize s.put Obj.HEALTH.BOOT_STATE 1 = v at hexec hstate hkept
  obtain ⟨hempty, hcal, hledger, hsame⟩ := v.loadJournals_empty (by rw [hkept.1]; exact hj)
  obtain ⟨hboot, -, hmem⟩ := v.loadJournals_parts
  generalize v.loadJournals = w at *
  exact ⟨w, hexec, by rw [hboot], hempty, hsame.trans hstate, hcal, hledger, hmem.trans hkept.2⟩

theorem loaderStart_waits (hb : s.u Obj.HEALTH.BOOT_STATE = 0) (hh : resetHeld s = false) (hz : s.boot.zeroize = true) :
    exec .loaderStart s = .next (s.put Obj.HEALTH.BOOT_STATE 1) := by
  have hnone : ¬ (s.u Obj.HEALTH.BOOT_STATE ≠ 0 ∨ resetHeld s = true) := by rw [hb, hh]; decide
  refine congrArg Host.Outcome.next ((if_neg hnone).trans (if_pos ?_))
  rw [State.put_boot, hz]

theorem clerksStart_recovery (hb : s.u Obj.HEALTH.BOOT_STATE = 1) (hl : s.boot.loader = true) (h0 : bankGood s 0 = false) (h1 : bankGood s 1 = false) :
    ∃ t : State, exec .clerksStart s = .next t ∧ t.u Obj.HEALTH.BOOT_STATE = 4 ∧ t.boot = s.boot := by
  have hgood : ∀ b : Fin 2, bankGood s b = false := fun b => by
    fin_cases b
    · exact h0
    · exact h1
  have hchoice : bankChoice s = none := by simp [bankChoice, hgood]
  have hexec : exec .clerksStart s = .next ((s.put Obj.HEALTH.BOOT_STATE 4).bankFigures).startEthernet := by
    show execClerksStart s = _
    rw [execClerksStart, if_neg (by rw [hb, hl]; decide), hchoice]
  have hstate : (s.put Obj.HEALTH.BOOT_STATE 4).u Obj.HEALTH.BOOT_STATE = 4 := State.u_put_of_lt _ _ _ (by decide)
  have hboot : (s.put Obj.HEALTH.BOOT_STATE 4).boot = s.boot := rfl
  generalize s.put Obj.HEALTH.BOOT_STATE 4 = v at hexec hstate hboot
  have hfigures := v.bankFigures_within
  generalize v.bankFigures = w at hexec hfigures
  have hnet := State.startEthernet_net (.refl netScope w)
  generalize w.startEthernet = x at hexec hnet
  exact ⟨x, hexec, (hnet.reads _ (by decide)).trans ((hfigures.reads _ (by decide)).trans hstate),
    (netScope_parts hnet).1.trans ((figureScope_parts hfigures).1.trans hboot)⟩

/-- The boot record of clerks that run a bank. -/
def BootPart.running (b : BootPart) (bank : Fin 2) (trial : Bool) : BootPart := { b with clerks := true, inUse := bank, trial := trial, trialBank := none }

theorem clerksStart_runs {bank : Fin 2} {trial : Bool} (hb : s.u Obj.HEALTH.BOOT_STATE = 1) (hl : s.boot.loader = true)
    (hchoice : bankChoice s = some (bank, trial)) : ∃ t : State, exec .clerksStart s = .next t ∧ t.u Obj.HEALTH.BOOT_STATE = 2 ∧
      t.boot = s.boot.running bank trial ∧ t.u Obj.IDENTITY.FIRMWARE = fwVersion s.boot.banks[bank].image % 2 ^ 32 ∧
      t.u Obj.HEALTH.BANK_IN_USE = bank.val ∧ t.bit Obj.HEALTH.FLAGS Bit.HEALTH.FLAGS.TRIAL = trial := by
  have hexec : ∃ e : Ev, exec .clerksStart s = .next (overAll
      (((((s.modBoot (fun b => b.running bank trial)).takeFirmware).put Obj.HEALTH.BOOT_STATE 2).put Obj.PTP.PTP_STATE 1).log e)
      (fun u k => u.relink k false)) := by
    show ∃ e : Ev, execClerksStart s = _
    rw [execClerksStart, if_neg (by rw [hb, hl]; decide), hchoice]
    exact ⟨_, rfl⟩
  obtain ⟨e, hexec⟩ := hexec
  have hfirmware := (s.modBoot (fun b => b.running bank trial)).takeFirmware_firmware
  have hinUse : (s.modBoot (fun b => b.running bank trial)).takeFirmware.u Obj.HEALTH.BANK_IN_USE = bank.val := State.bankFigures_inUse _
  have htrial : (s.modBoot (fun b => b.running bank trial)).takeFirmware.bit Obj.HEALTH.FLAGS Bit.HEALTH.FLAGS.TRIAL = trial := State.bankFigures_trial _
  have hboot := (figureScope_parts (s.modBoot (fun b => b.running bank trial)).takeFirmware_within).1
  generalize (s.modBoot (fun b => b.running bank trial)).takeFirmware = v at hexec hfirmware hinUse htrial hboot
  have hlogged : Within bookScope ((v.put Obj.HEALTH.BOOT_STATE 2).put Obj.PTP.PTP_STATE 1) (((v.put Obj.HEALTH.BOOT_STATE 2).put Obj.PTP.PTP_STATE 1).log e) :=
    State.within_log _ _
  have hstate : ((v.put Obj.HEALTH.BOOT_STATE 2).put Obj.PTP.PTP_STATE 1).u Obj.HEALTH.BOOT_STATE = 2 := by
    rw [State.u_put_ne _ _ _ _ (by decide), State.u_put_of_lt _ _ _ (by decide)]
  have hother : ∀ r : Reg, Obj.HEALTH.BOOT_STATE.key ≠ r.key → Obj.PTP.PTP_STATE.key ≠ r.key →
      ((v.put Obj.HEALTH.BOOT_STATE 2).put Obj.PTP.PTP_STATE 1).u r = v.u r := fun r h1 h2 => by
    rw [State.u_put_ne _ _ _ _ h2, State.u_put_ne _ _ _ _ h1]
  have hkept : ((v.put Obj.HEALTH.BOOT_STATE 2).put Obj.PTP.PTP_STATE 1).boot = v.boot := rfl
  generalize (v.put Obj.HEALTH.BOOT_STATE 2).put Obj.PTP.PTP_STATE 1 = w at *
  have hlinks : Within bootScope w (overAll (w.log e) (fun u k => u.relink k false)) :=
    (bootScope_book hlogged).overAll fun u k hu => State.relink_own hu k false
  generalize overAll (w.log e) (fun u k => u.relink k false) = x at hexec hlinks
  refine ⟨x, hexec, (hlinks.reads _ (by decide)).trans hstate, (bootScope_boot hlinks).trans (hkept.trans hboot), ?_, ?_, ?_⟩
  · exact (hlinks.reads _ (by decide)).trans ((hother _ (by decide) (by decide)).trans hfirmware)
  · exact (hlinks.reads _ (by decide)).trans ((hother _ (by decide) (by decide)).trans hinUse)
  · refine (hlinks.bit (r := Obj.HEALTH.FLAGS) (by decide) _).trans ?_
    exact (congrArg (fun v => v.testBit Bit.HEALTH.FLAGS.TRIAL) (hother Obj.HEALTH.FLAGS (by decide) (by decide))).trans htrial

end

/-! ## Memory (R330, R332, R507 steps 6 to 8) -/

theorem eraseDups_of_nodup {l : List Nat} (h : l.Nodup) : l.eraseDups = l := by
  induction l with
  | nil => rfl
  | cons a l ih =>
    obtain ⟨ha, hl⟩ := List.nodup_cons.mp h
    rw [List.eraseDups_cons, List.filter_eq_self.mpr fun b hb => ?_, ih hl]
    simp only [Bool.not_eq_true', beq_eq_false_iff_ne]
    rintro rfl
    exact ha hb

section
variable {s : State}

/-- The registers of a channel's state. -/
def channelScope : Scope where
  blank s := { s with regs := [] }
  regs k := k % 256 == 1
  blind _ _ := rfl

theorem State.channelState_within (s : State) (c : Fin 2) : Within channelScope s (s.channelState c) := by
  have hlt := c.isLt
  have hput : ∀ v, Within channelScope s (s.put (Obj.DRAM_CHANNEL.STATE c) v) := fun v => (Within.refl _ s).put (by
    simp only [channelScope, Obj.DRAM_CHANNEL.STATE, beq_iff_eq]
    omega) v
  rw [State.channelState]
  exact Within.ite (fun _ => (hput _).setBit (by decide) _) fun _ => hput _

/-- The registers of a channel that has trained, before what its spares decide. -/
def State.channelTrained (s : State) (c : Fin 2) (n : Nat) (l : List Nat) : State :=
  let t := (s.modBoot (fun b => { b with trained := c.val :: b.trained })).put (Obj.DRAM_CHANNEL.CAPACITY c) n
  let map := fromLe ((l.take 7).map (BitVec.ofNat 8) ++ List.replicate (7 - l.length) 0xFF)
  (t.put (Obj.DRAM_CHANNEL.REPAIR_MAP c) map).put (Obj.DRAM_CHANNEL.SPARES_FREE c) (7 - l.length)

theorem State.channelTrained_regs (s : State) (c : Fin 2) {n : Nat} (l : List Nat) (hn : n < 2 ^ 32) :
    (s.channelTrained c n l).u (Obj.DRAM_CHANNEL.CAPACITY c) = n ∧ (s.channelTrained c n l).u (Obj.DRAM_CHANNEL.SPARES_FREE c) = 7 - l.length := by
  have hkeys : (Obj.DRAM_CHANNEL.SPARES_FREE c).key ≠ (Obj.DRAM_CHANNEL.CAPACITY c).key ∧
      (Obj.DRAM_CHANNEL.REPAIR_MAP c).key ≠ (Obj.DRAM_CHANNEL.CAPACITY c).key := by
    simp only [Obj.DRAM_CHANNEL.SPARES_FREE, Obj.DRAM_CHANNEL.CAPACITY, Obj.DRAM_CHANNEL.REPAIR_MAP]
    omega
  rw [State.channelTrained]
  refine ⟨?_, State.u_put_of_lt _ _ _ (by simp only [Obj.DRAM_CHANNEL.SPARES_FREE]; omega)⟩
  rw [State.u_put_ne _ _ _ _ hkeys.1, State.u_put_ne _ _ _ _ hkeys.2, State.u_put_of_lt _ _ _ (hn.trans (by decide : 2 ^ 32 < 2 ^ 64))]

theorem State.trainingDone_first {c : Nat} (h : s.boot.trained = [c]) : s.trainingDone = s := if_pos (.inl (by rw [h]; exact Nat.one_lt_two))

/-- A channel that has trained and has spares left or used up: its rate, and what its state leaves. -/
theorem State.channelRuns_regs (s : State) (c : Fin 2) (rate : Nat) (h : rate < 2 ^ 16) :
    ∀ t : State, t = ((s.put (Obj.DRAM_CHANNEL.RATE c) rate).modDram c (fun d => { d with trained := true })).channelState c →
      t.boot = s.boot ∧ t.mem = s.mem ∧ t.dram[c].trained = true ∧ t.u (Obj.DRAM_CHANNEL.RATE c) = rate ∧
      ∀ r : Reg, r = Obj.DRAM_CHANNEL.CAPACITY c ∨ r = Obj.DRAM_CHANNEL.SPARES_FREE c → t.u r = s.u r := by
  rintro t rfl
  have hrate : ((s.put (Obj.DRAM_CHANNEL.RATE c) rate).modDram c (fun d => { d with trained := true })).u (Obj.DRAM_CHANNEL.RATE c) = rate :=
    State.u_put_of_lt _ _ _ h
  have hother : ∀ r : Reg, r = Obj.DRAM_CHANNEL.CAPACITY c ∨ r = Obj.DRAM_CHANNEL.SPARES_FREE c →
      ((s.put (Obj.DRAM_CHANNEL.RATE c) rate).modDram c (fun d => { d with trained := true })).u r = s.u r := fun r hr => State.u_put_ne _ _ _ _ (by
    obtain rfl | rfl := hr <;> simp only [Obj.DRAM_CHANNEL.CAPACITY, Obj.DRAM_CHANNEL.SPARES_FREE, Obj.DRAM_CHANNEL.RATE] <;> omega)
  have hdram : ((s.put (Obj.DRAM_CHANNEL.RATE c) rate).modDram c (fun d => { d with trained := true })).dram[c].trained = true := by
    rw [State.modDram]
    simp
  have hkept : ((s.put (Obj.DRAM_CHANNEL.RATE c) rate).modDram c (fun d => { d with trained := true })).boot = s.boot ∧
      ((s.put (Obj.DRAM_CHANNEL.RATE c) rate).modDram c (fun d => { d with trained := true })).mem = s.mem := ⟨rfl, rfl⟩
  generalize (s.put (Obj.DRAM_CHANNEL.RATE c) rate).modDram c (fun d => { d with trained := true }) = v at *
  have hstate := v.channelState_within c
  generalize v.channelState c = w at hstate
  have hreads : ∀ r : Reg, r = Obj.DRAM_CHANNEL.CAPACITY c ∨ r = Obj.DRAM_CHANNEL.SPARES_FREE c ∨ r = Obj.DRAM_CHANNEL.RATE c → w.u r = v.u r := fun r hr =>
    hstate.reads r (by
      obtain rfl | rfl | rfl := hr <;> simp [channelScope, Obj.DRAM_CHANNEL.CAPACITY, Obj.DRAM_CHANNEL.SPARES_FREE, Obj.DRAM_CHANNEL.RATE])
  have hparts := hstate.parts
  refine ⟨?_, ?_, ?_, (hreads _ (.inr (.inr rfl))).trans hrate, fun r hr => (hreads r ?_).trans (hother r hr)⟩
  · exact (congrArg (fun q : State => q.boot) hparts).trans hkept.1
  · exact (congrArg (fun q : State => q.mem) hparts).trans hkept.2
  · exact (congrArg (fun q : State => q.dram[c].trained) hparts).trans hdram
  · exact hr.imp_right .inl

theorem dramTrainingEnd_trains {c : Fin 2} {n : Nat} {l : List Nat} (hb : s.u Obj.HEALTH.BOOT_STATE = 2) (hserved : s.boot.served = false)
    (ht : s.boot.trained = []) (hl : l.Nodup) (hn : n < 2 ^ 32) :
    (l.length ≤ 7 → ∃ t : State, exec (.dramTrainingEnd c n l) s = .next t ∧ t.boot.trained = [c.val] ∧ t.dram[c].trained = true ∧
      t.u (Obj.DRAM_CHANNEL.CAPACITY c) = n ∧ t.u (Obj.DRAM_CHANNEL.SPARES_FREE c) = 7 - l.length ∧
      t.u (Obj.DRAM_CHANNEL.RATE c) = (if s.coasting then 2560 else 3200) ∧ t.mem = s.mem) ∧
    (7 < l.length → ∃ t : State, exec (.dramTrainingEnd c n l) s = .next t ∧ t.dram[c].failed = true ∧ t.u (Obj.DRAM_CHANNEL.STATE c) = 4) := by
  have hexec : exec (.dramTrainingEnd c n l) s = .next (s.trainedChannel c n l).trainingDone := by
    show execDramTrainingEnd c n l s = _
    rw [execDramTrainingEnd, if_neg (by rw [hb, hserved, ht]; simp), eraseDups_of_nodup hl]
  have htrained : (s.channelTrained c n l).boot.trained = [c.val] := by
    show c.val :: s.boot.trained = _
    rw [ht]
  have hmem : (s.channelTrained c n l).mem = s.mem := rfl
  obtain ⟨hcapacity, hspares⟩ := s.channelTrained_regs c l hn
  refine ⟨fun hle => ?_, fun hlt => ?_⟩
  · have hchannel : s.trainedChannel c n l = (((s.channelTrained c n l).put (Obj.DRAM_CHANNEL.RATE c) (if s.coasting then 2560 else 3200)).modDram c
        (fun d => { d with trained := true })).channelState c := if_neg (by omega)
    generalize s.channelTrained c n l = v at *
    obtain ⟨hboot, hram, hdram, hrate, hother⟩ := v.channelRuns_regs c (if s.coasting then 2560 else 3200) (by split <;> decide) _ rfl
    generalize ((v.put (Obj.DRAM_CHANNEL.RATE c) (if s.coasting then 2560 else 3200)).modDram c (fun d => { d with trained := true })).channelState c = w at *
    have hdone : (s.trainedChannel c n l).trainingDone = s.trainedChannel c n l := State.trainingDone_first (by rw [hchannel, hboot]; exact htrained)
    rw [hdone, hchannel] at hexec
    exact ⟨w, hexec, by rw [hboot]; exact htrained, hdram, (hother _ (.inl rfl)).trans hcapacity, (hother _ (.inr rfl)).trans hspares, hrate, hram.trans hmem⟩
  · have hchannel : s.trainedChannel c n l = ((s.channelTrained c n l).put (Obj.DRAM_CHANNEL.STATE c) 4).modDram c
        (fun d => { d with trained := true, failed := true }) := if_pos hlt
    generalize s.channelTrained c n l = v at *
    have hdone : (s.trainedChannel c n l).trainingDone = s.trainedChannel c n l := State.trainingDone_first (by rw [hchannel]; exact htrained)
    rw [hdone, hchannel] at hexec
    refine ⟨_, hexec, ?_, State.u_put_of_lt _ _ _ (by simp only [Obj.DRAM_CHANNEL.STATE]; decide)⟩
    rw [State.modDram]
    simp

theorem dramClearEnd_clears (hb : s.u Obj.HEALTH.BOOT_STATE = 2) (hserved : s.boot.served = false) (ht : 2 ≤ s.boot.trained.length) (hm : memoryGood s) :
    ∃ t : State, exec .dramClearEnd s = .next t ∧ t.boot.served = true ∧ t.plant.live = true ∧
      (∀ a : Nat, dramBase ≤ a → a < dramBase + fitted s → Memory.read t.mem a = 0) ∧
      (∀ a : Nat, a < dramBase → Memory.read t.mem a = Memory.read s.mem a) := by
  have hexec : exec .dramClearEnd s = .next (s.clearWords dramBase (fitted s)).serveNow :=
    congrArg Host.Outcome.next (if_neg (by rw [hb, hserved]; simp; omega))
  have hread := fun k => s.clearWords_read dramBase (fitted s) k hm
  generalize s.clearWords dramBase (fitted s) = v at hexec hread
  obtain ⟨hboot, hmem, hlive⟩ := v.serveNow_serves
  refine ⟨_, hexec, by rw [hboot], hlive, fun a hlow hhigh => ?_, fun a hlow => ?_⟩
  · rw [hmem, hread, if_neg (by omega)]
  · rw [hmem, hread, if_pos (.inl hlow)]

/-! ## The scheduler (R507 steps 10 and 11, R515) -/

/-- The state in which the scheduler starts. -/
def State.scheduled (p : State) : State :=
  let t := (p.put Obj.HEALTH.BOOT_STATE 3).drawn
  let t := t.put Obj.HEALTH.BOOT_TIME (Config.measured (t.fresh - 1))
  if t.u Obj.HEALTH.TRIAL_S = 0 then t.confirmTrial else t

theorem State.scheduled_eq (p : State) : ∃ v : Nat, p.scheduled =
    if (((p.put Obj.HEALTH.BOOT_STATE 3).drawn).put Obj.HEALTH.BOOT_TIME v).u Obj.HEALTH.TRIAL_S = 0 then
      (((p.put Obj.HEALTH.BOOT_STATE 3).drawn).put Obj.HEALTH.BOOT_TIME v).confirmTrial
    else ((p.put Obj.HEALTH.BOOT_STATE 3).drawn).put Obj.HEALTH.BOOT_TIME v := ⟨_, rfl⟩

theorem execSchedulerStart_eq (hb : s.u Obj.HEALTH.BOOT_STATE = 2) (hserved : s.boot.served = true) :
    execSchedulerStart s = .next s.placeAll.scheduled := by
  have hnone : ¬ (s.u Obj.HEALTH.BOOT_STATE ≠ 2 ∨ (!s.boot.served) = true) := by rw [hb, hserved]; decide
  rw [execSchedulerStart, if_neg hnone, State.scheduled]

theorem State.confirmTrial_runs (s : State) : s.confirmTrial.u Obj.HEALTH.BOOT_STATE = s.u Obj.HEALTH.BOOT_STATE ∧ s.confirmTrial.boot.trial = false := by
  cases hon : s.boot.trial with
  | false => rw [State.confirmTrial_none hon]; exact ⟨rfl, hon⟩
  | true =>
    rw [State.confirmTrial_on hon]
    have hfigures := (s.modBoot BootPart.confirming).bankFigures_within
    exact ⟨hfigures.reads Obj.HEALTH.BOOT_STATE (by decide), congrArg BootPart.trial (figureScope_parts hfigures).1⟩

theorem schedulerStart_runs (hb : s.u Obj.HEALTH.BOOT_STATE = 2) (hserved : s.boot.served = true) :
    ∃ t : State, exec .schedulerStart s = .next t ∧ t.u Obj.HEALTH.BOOT_STATE = 3 ∧ (s.u Obj.HEALTH.TRIAL_S = 0 → t.boot.trial = false) := by
  have hplaced := s.placeAll_own
  have hexec : exec .schedulerStart s = .next s.placeAll.scheduled := execSchedulerStart_eq hb hserved
  generalize s.placeAll = p at hplaced hexec
  obtain ⟨v, hscheduled⟩ := p.scheduled_eq
  have htrial : (((p.put Obj.HEALTH.BOOT_STATE 3).drawn).put Obj.HEALTH.BOOT_TIME v).u Obj.HEALTH.TRIAL_S = s.u Obj.HEALTH.TRIAL_S := by
    rw [State.u_put_ne _ _ _ _ (by decide), State.drawn_u, State.u_put_ne _ _ _ _ (by decide)]
    exact hplaced.reads _ (by decide)
  have hstate : (((p.put Obj.HEALTH.BOOT_STATE 3).drawn).put Obj.HEALTH.BOOT_TIME v).u Obj.HEALTH.BOOT_STATE = 3 := by
    rw [State.u_put_ne _ _ _ _ (by decide), State.drawn_u, State.u_put_of_lt _ _ _ (by decide)]
  generalize ((p.put Obj.HEALTH.BOOT_STATE 3).drawn).put Obj.HEALTH.BOOT_TIME v = w at hscheduled htrial hstate
  obtain ⟨hkept, hended⟩ := w.confirmTrial_runs
  by_cases hz : s.u Obj.HEALTH.TRIAL_S = 0
  · rw [hscheduled, if_pos (htrial.trans hz)] at hexec
    exact ⟨_, hexec, hkept.trans hstate, fun _ => hended⟩
  · rw [hscheduled, if_neg fun h => hz (htrial.symm.trans h)] at hexec
    exact ⟨w, hexec, hstate, fun h => absurd h hz⟩

end

end Sys2Proof.Machine
end

namespace Sys2Proof

open Machine

/-- Settles O51, by one lemma per reset, per step of zeroize and per step of bring-up; the log's choices 76 and 78 stand in the model. -/
theorem resetsAndBringUp : Obligations.ResetsAndBringUp := by
  unfold Obligations.ResetsAndBringUp
  refine ⟨fun _ => ⟨rfl, rfl, rfl, rfl⟩, fun _ _ hz hc hg => resetTo_leaves hz hc hg, zeroizePin_zeroizes, fun _ _ hz => resetTo_zeroizes hz,
    fun _ _ _ _ h => reset_acts h, fun _ _ _ _ _ h => zeroize_answers h, fun _ h => ?_, fun _ _ hh => loaderStart_held hh,
    fun _ hb hh hz => loaderStart_waits hb hh hz, fun _ hb hh hz hj => loaderStart_loads hb hh hz hj, fun _ hz hb hl => zeroizeEraseEnd_erases hz hb hl,
    fun _ hz => ?_, fun _ h => ?_, fun _ hb hl h0 h1 => clerksStart_recovery hb hl h0 h1, fun s b hb hl ht hc hg => ?_, fun s b hb hl ht hg => ?_,
    fun _ _ _ _ h => ?_, fun _ _ _ _ hb hs ht hl hn => dramTrainingEnd_trains hb hs ht hl hn, fun _ h => ?_,
    fun _ hb hs ht hm => dramClearEnd_clears hb hs ht hm, fun _ h => ?_, fun _ hb hs => schedulerStart_runs hb hs⟩
  case refine_1 => exact congrArg Host.Outcome.next (if_pos (.inl h))
  case refine_2 => exact congrArg Host.Outcome.next (if_pos (.inl (by rw [hz]; rfl)))
  case refine_3 => exact congrArg Host.Outcome.next (if_pos (h.imp_right fun hl => by rw [hl]; rfl))
  case refine_4 =>
    have hchoice : bankChoice s = some (b, false) := by simp [bankChoice, ht, hc, hg]
    obtain ⟨t, hexec, hstate, hboot, hfirmware, hbank, -⟩ := clerksStart_runs hb hl hchoice
    exact ⟨t, hexec, hstate, by rw [hboot]; rfl, by rw [hboot]; rfl, by rw [hboot]; rfl, hfirmware, hbank⟩
  case refine_5 =>
    have hchoice : bankChoice s = some (b, true) := by simp [bankChoice, ht, hg]
    obtain ⟨t, hexec, -, hboot, -, -, htrial⟩ := clerksStart_runs hb hl hchoice
    exact ⟨t, hexec, by rw [hboot]; rfl, by rw [hboot]; rfl, by rw [hboot]; rfl, htrial⟩
  case refine_6 => exact congrArg Host.Outcome.next (if_pos (h.imp_right fun hs => hs.imp_right fun hm => List.contains_iff_mem.mpr hm))
  case refine_7 => exact congrArg Host.Outcome.next (if_pos h)
  case refine_8 => exact congrArg Host.Outcome.next (if_pos (h.imp_right fun hs => by rw [hs]; rfl))

end Sys2Proof

namespace Sys2Proof

open Machine

/-- A calibration of receive channel 0 runs, and its shot has been launched. -/
def calibrationInFlight : State :=
  { ports := (Vector.replicate 8 {}).set 0 { shots := [{ cal := true, launched := true }] }
    cal := (Vector.replicate 20 {}).set 0 { running := true } }

/-- A coast that begins aborts the calibration, and its shot in flight will be discarded (R485, R487). -/
theorem calibrationInFlight_discarded : (calibrationInFlight.enterCoast.ports[(0 : Fin 8)].shots.map (·.relDiscard)) = [true] := by decide +kernel

/-- Refutes O31: the clause on coast entry says that the launched shots are kept but for an open window's invalidity. Coasting aborts the calibrations that
run, and an abort marks their shots in flight to be discarded (R485, R487). -/
theorem not_referencesLockAndCoast : ¬ Obligations.ReferencesLockAndCoast := by
  unfold Obligations.ReferencesLockAndCoast
  rintro ⟨-, hcoast, -⟩
  obtain ⟨u, hu, -, -, -, -, -, -, -, -, -, hports, -⟩ := hcoast calibrationInFlight (by decide)
  obtain ⟨hshots, -⟩ := hports 0
  have hdiscarded := calibrationInFlight_discarded
  rw [hu, hshots] at hdiscarded
  exact absurd hdiscarded (by decide)

end Sys2Proof

section
/-! SUPPORT. Triggers, boundaries and conditions (R260, R261, R264, R268, R270; Machine/Capture.lean). -/

namespace Sys2Proof.Machine

section
variable {s : State} {r : Fin 64} {tr : Trigger}

/-! ## A trigger by the region's state -/

theorem State.trigger_disarmed (h : s.u (Obj.REGION.RSTATE r) = 0) : s.trigger r tr = s := by simp only [State.trigger, h]

/-- An ignored trigger: what it counts and the flag it sets. -/
theorem State.ignored_counts (count : Reg) (bit : Nat) (hw : count.width = 32) (hbit : bit < 32) (hkey : (Obj.REGION.FLAGS r).key ≠ count.key)
    (h : s.u count + 1 < 2 ^ 32) : ((s.bump count).regionFlag r bit).u count = s.u count + 1 ∧
      ((s.bump count).regionFlag r bit).bit (Obj.REGION.FLAGS r) bit = true ∧
      onlyRegs s ((s.bump count).regionFlag r bit) [count, Obj.REGION.FLAGS r] := by
  refine ⟨?_, State.bit_putBit_self _ _ _ _ hbit, ?_⟩
  · rw [State.regionFlag, State.setBit, State.putBit, State.u_put_ne _ _ _ _ hkey, State.u_bump_self _ _ (by rw [hw]; exact h)]
  · exact ((onlyRegs.refl s _).put (by simp) _).put (by simp) _

theorem State.trigger_filling (h : s.u (Obj.REGION.RSTATE r) = 1) (hroom : s.u (Obj.REGION.TRIG_EARLY r) + 1 < 2 ^ 32) :
    ∃ u : State, s.trigger r tr = u.summary (.trigEarly r) ∧ u.u (Obj.REGION.TRIG_EARLY r) = s.u (Obj.REGION.TRIG_EARLY r) + 1 ∧
      u.bit (Obj.REGION.FLAGS r) Bit.REGION.FLAGS.TRIG_EARLY = true ∧ onlyRegs s u [Obj.REGION.TRIG_EARLY r, Obj.REGION.FLAGS r] :=
  ⟨_, by simp only [State.trigger, h]; rfl, State.ignored_counts _ _ rfl (by decide) (by simp only [Obj.REGION.FLAGS, Obj.REGION.TRIG_EARLY]; omega) hroom⟩

theorem State.trigger_rearm (h : s.u (Obj.REGION.RSTATE r) = 4) (hroom : s.u (Obj.REGION.TRIG_REARM r) + 1 < 2 ^ 32) :
    ∃ u : State, s.trigger r tr = u.summary (.trigRearm r) ∧ u.u (Obj.REGION.TRIG_REARM r) = s.u (Obj.REGION.TRIG_REARM r) + 1 ∧
      u.bit (Obj.REGION.FLAGS r) Bit.REGION.FLAGS.TRIG_REARM = true ∧ onlyRegs s u [Obj.REGION.TRIG_REARM r, Obj.REGION.FLAGS r] :=
  ⟨_, by simp only [State.trigger, h]; rfl, State.ignored_counts _ _ rfl (by decide) (by simp only [Obj.REGION.FLAGS, Obj.REGION.TRIG_REARM]; omega) hroom⟩

/-! ## Boundaries (R268, R270) -/

@[simp] theorem State.modRegion_self (s : State) (r : Fin 64) (f : RegionPart → RegionPart) : (s.modRegion r f).capture.regions[r] = f s.capture.regions[r] := by
  simp [State.modRegion]

/-- Where no sample has left the awning, a boundary is the first sample at or after the target. -/
theorem boundaryOf_held {x : RegionPart} (hg : tr.gone = false) (hl : x.lastLeft = none) :
    boundaryOf x tr = (x.ring.findIdx? (fun e => decide (tr.x ≤ e.stamp))).map (fun i => (i, false)) := by
  simp only [boundaryOf, hg, hl, Bool.or_false, Bool.false_eq_true, if_false]

theorem State.trigger_waits (h : s.u (Obj.REGION.RSTATE r) = 2) (hg : tr.gone = false) (hl : (regionOf s r).lastLeft = none)
    (hring : ∀ e ∈ (regionOf s r).ring, (e.stamp : Int) < tr.x) :
    s.trigger r tr = s.modRegion r (fun x => { x with waiting := x.waiting ++ [tr] }) := by
  have hnone : boundaryOf (regionOf s r) tr = none := by
    rw [boundaryOf_held hg hl, List.findIdx?_eq_none_iff.mpr fun e he => decide_eq_false (by have := hring e he; omega)]
    rfl
  simp only [State.trigger, h, hnone]

/-- The record in hand of a boundary that no sample's loss makes late. -/
def recordAt (s : State) (r : Fin 64) (tr : Trigger) (i : Nat) (b : AwnEntry) : RecordPart :=
  let x := regionOf s r
  let pre := lastN tr.pre (x.ring.take i)
  { first := tr, condMask := condBit tr.cond, sources := sourceBit tr.source, trigPoint := tr.point, late := false,
    preShort := false || decide (pre.length < tr.pre), wantPre := tr.pre, wantPost := tr.post, pre := pre,
    post := (x.ring.drop i).take tr.post, boundary := b, freeze := s.now,
    port := s.u (Obj.REGION.PORT r), pFirst := s.u (Obj.REGION.P_FIRST r), pCount := s.u (Obj.REGION.P_COUNT r) }

theorem State.fixBoundary_quiet {i : Nat} {b : AwnEntry} (hb : (regionOf s r).ring[i]? = some b) (hbell : s.u (Obj.REGION.BELL_TX r) = 0xFF)
    (hw : (regionOf s r).waiting = []) : s.fixBoundary r tr i false =
      (s.modRegion r (fun y => { y with record := some (recordAt s r tr i b), waiting := [] })).put (Obj.REGION.RSTATE r) 3 := by
  simp only [State.fixBoundary, hb, hw, hbell, ne_eq, not_true_eq_false, false_and, if_false, Bool.false_eq_true, List.erase_nil, List.foldl_nil, recordAt]

theorem State.trigger_fixes {l m : List AwnEntry} {b : AwnEntry} (h : s.u (Obj.REGION.RSTATE r) = 2) (hg : tr.gone = false)
    (hleft : (regionOf s r).lastLeft = none) (hwait : (regionOf s r).waiting = []) (hbell : s.u (Obj.REGION.BELL_TX r) = 0xFF)
    (hring : (regionOf s r).ring = l ++ b :: m) (hbefore : ∀ e ∈ l, (e.stamp : Int) < tr.x) (hat : tr.x ≤ (b.stamp : Int)) :
    ∃ (t : State) (c : RecordPart), s.trigger r tr = t ∧ t.capture.regions[r].record = some c ∧ t.u (Obj.REGION.RSTATE r) = 3 ∧ c.boundary = b ∧
      c.first = tr ∧ c.late = false ∧ c.pre = l.drop (l.length - tr.pre) ∧ c.post = (b :: m).take tr.post ∧ c.preShort = decide (l.length < tr.pre) ∧
      t.mem = s.mem ∧ t.out = s.out ∧ regsKept s t [Obj.REGION.RSTATE r] := by
  have hfound : boundaryOf (regionOf s r) tr = some (l.length, false) := by
    have hnone : l.findIdx? (fun e => decide (tr.x ≤ e.stamp)) = none :=
      List.findIdx?_eq_none_iff.mpr fun e he => decide_eq_false (by have := hbefore e he; omega)
    rw [boundaryOf_held hg hleft, hring, List.findIdx?_append, hnone, List.findIdx?_cons, if_pos (decide_eq_true hat)]
    simp
  have hb : (regionOf s r).ring[l.length]? = some b := by
    rw [hring]
    simp
  have hpre : (recordAt s r tr l.length b).pre = l.drop (l.length - tr.pre) := by
    show lastN tr.pre ((regionOf s r).ring.take l.length) = _
    rw [hring, List.take_left' rfl, lastN]
  have hpost : (recordAt s r tr l.length b).post = (b :: m).take tr.post := by
    show ((regionOf s r).ring.drop l.length).take tr.post = _
    rw [hring, List.drop_left' rfl]
  have hshort : (recordAt s r tr l.length b).preShort = decide (l.length < tr.pre) := by
    show (false || decide ((recordAt s r tr l.length b).pre.length < tr.pre)) = _
    rw [hpre, Bool.false_or, List.length_drop]
    exact decide_eq_decide.mpr (by omega)
  refine ⟨(s.modRegion r (fun y => { y with record := some (recordAt s r tr l.length b), waiting := [] })).put (Obj.REGION.RSTATE r) 3,
    recordAt s r tr l.length b, ?_, ?_, State.u_put_of_lt _ _ _ (by simp only [Obj.REGION.RSTATE]; decide), rfl, rfl, rfl, hpre, hpost, hshort, rfl, rfl,
    (regsKept.of_regs (regsKept.refl s _) rfl).put (by simp) _⟩
  · simp only [State.trigger, h, hfound]
    exact State.fixBoundary_quiet hb hbell hwait
  · rw [State.put_capture, State.modRegion_self]

/-! ## Conditions on points (R264) -/

theorem metAt_crossing {k : Cond} (p : PointState) (v u : Int) (h : k.type = 1) : metAt k { p with prev := none } v = polTest k.pol v k.a ∧
    metAt k { p with prev := some u } v = (polTest k.pol v k.a && !polTest k.pol u k.a) := by
  simp [metAt, h]

theorem metAt_run {k : Cond} (p : PointState) (v : Int) (h : k.type = 5) : metAt k p v = (polTest k.pol v k.a && decide (p.run + 1 = k.ta)) := by
  simp only [metAt, h, beq_eq_decide]

theorem polTest_eq (v x : Int) : polTest 0 v x = decide (x ≤ v) ∧ polTest 1 v x = decide (v ≤ x) ∧ polTest 2 v x = decide (|x| ≤ |v|) ∧
    polTest 3 v x = decide (|v| < |x|) := by
  refine ⟨rfl, rfl, ?_, ?_⟩
  · exact decide_eq_decide.mpr (by rw [Int.abs_eq_natAbs, Int.abs_eq_natAbs]; omega)
  · exact decide_eq_decide.mpr (by rw [Int.abs_eq_natAbs, Int.abs_eq_natAbs]; omega)

end

end Sys2Proof.Machine
end

section
/-! SUPPORT. The events of conditions, requests, CAN frames and bell messages (R264, R267, R272, R277, R279, R410; Machine/Capture.lean). -/

namespace Sys2Proof.Machine

section
variable {s : State} {r : Fin 64}

/-! ## Conditions tested on a sample (R264) -/

theorem pointCondition_idle (h : ∀ e ∈ (regionOf s r).ring, e.tested = true) : exec (.pointCondition r) s = .next s := by
  have hnone : (regionOf s r).ring.find? (fun e => !e.tested) = none := List.find?_eq_none.mpr fun e he => by rw [h e he]; decide
  show execPointCondition r s = _
  simp only [execPointCondition, hnone]

/-- The region's sample marked as tested. -/
def State.markTested (s : State) (r : Fin 64) (e : AwnEntry) : State :=
  s.modRegion r (fun x => { x with ring := x.ring.map (fun y => if y.seq = e.seq then { y with tested := true } else y) })

theorem pointCondition_tests {n : Port} {e : AwnEntry} {d : Delivery} (hfind : (regionOf s r).ring.find? (fun x => !x.tested) = some e)
    (hport : (⟨s.u (Obj.REGION.PORT r) % 8, Nat.mod_lt _ (by decide)⟩ : Port) = n)
    (hd : sampleDelivery s n (s.u (Obj.REGION.SOURCE r) + 1) e.seq = some d)
    (hknown : ∀ c < 8, pointType (s.u (Obj.CONDITIONS.C_TYPE r c)) = true →
      ∀ i < s.u (Obj.CONDITIONS.C_COUNT r c), wordKnown d (s.u (Obj.CONDITIONS.C_FIRST r c) + i) = true) :
    exec (.pointCondition r) s = .next ((s.markTested r e).testSample r e d) := by
  have hall : (List.range 8).all (fun c => !pointType (s.u (Obj.CONDITIONS.C_TYPE r c)) ||
      (List.range (s.u (Obj.CONDITIONS.C_COUNT r c))).all (fun i => wordKnown d (s.u (Obj.CONDITIONS.C_FIRST r c) + i))) = true := by
    refine List.all_eq_true.mpr fun c hc => ?_
    cases ht : pointType (s.u (Obj.CONDITIONS.C_TYPE r c)) with
    | false => rfl
    | true => exact List.all_eq_true.mpr fun i hi => hknown c (List.mem_range.mp hc) ht i (List.mem_range.mp hi)
  show execPointCondition r s = _
  simp only [execPointCondition, hfind, hport, hd, hall, if_true]
  rfl

/-- A sample that no condition tests changes nothing. -/
theorem State.testSample_none (e : AwnEntry) (d : Delivery) (h : ∀ c < 8, pointType (s.u (Obj.CONDITIONS.C_TYPE r c)) = false) :
    s.testSample r e d = s :=
  List.foldlRecOn (motive := fun t => t = s) _ _ rfl fun t ht c _ => by
    rw [ht, h c.val c.isLt]
    rfl

theorem pointCondition_untested {e : AwnEntry} {d : Delivery} (hring : (regionOf s r).ring = [e]) (he : e.tested = false)
    (hd : sampleDelivery s ⟨s.u (Obj.REGION.PORT r) % 8, Nat.mod_lt _ (by decide)⟩ (s.u (Obj.REGION.SOURCE r) + 1) e.seq = some d)
    (hc : ∀ c < 8, pointType (s.u (Obj.CONDITIONS.C_TYPE r c)) = false) :
    exec (.pointCondition r) s = .next (s.modRegion r (fun x => { x with ring := [{ e with tested := true }] })) := by
  have hfind : (regionOf s r).ring.find? (fun x => !x.tested) = some e := by rw [hring, List.find?_cons, he]; rfl
  rw [pointCondition_tests hfind rfl hd fun c hlt ht => absurd ht (by rw [hc c hlt]; decide), State.testSample_none (s := s.markTested r e) e d hc,
    State.markTested, State.modRegion, State.modRegion, show s.capture.regions[r].ring = [e] from hring]
  simp

/-! ## Stall requests (R272) -/

section
variable {t : StallId} {q : List Byte} {rest : List (StallId × List Byte)}

/-- The request at the head leaves the queue. -/
def State.requestsLeft (s : State) (rest : List (StallId × List Byte)) : State := { s with array := { s.array with trig := rest } }

theorem stallTrigRequest_bad (hq : s.array.trig = (t, q) :: rest) (h : 64 ≤ imageField q 0 1) :
    exec .stallTrigRequest s = .next ((s.requestsLeft rest).bump Obj.CAPTURE.TRIG_BAD) := by
  show execStallTrigRequest s = _
  simp only [execStallTrigRequest, hq]
  rw [dif_neg fun hlt => absurd hlt.1 (by omega)]
  rfl

/-- A request that names a region and a condition. -/
theorem stallTrigRequest_named {c : Fin 8} (hq : s.array.trig = (t, q) :: rest) (hr : imageField q 0 1 = r.val) (hc : imageField q 1 1 = c.val) :
    exec .stallTrigRequest s = .next (
      if s.u (Obj.CONDITIONS.C_TYPE r c) ≠ 7 ∨ !requestPort s t r then (s.requestsLeft rest).bump Obj.CAPTURE.TRIG_BAD
      else if s.u (Obj.REGION.RSTATE r) = 0 then s.requestsLeft rest
      else ((s.requestsLeft rest).bump (Obj.CONDITIONS.MET r c)).trigger r
        (condTrigger (s.requestsLeft rest) r c 1 (requestStamp s r q).1 (s.i (Obj.CONDITIONS.C_OFFSET r c)) none (requestStamp s r q).2)) := by
  have hlt : imageField q 0 1 < 64 ∧ imageField q 1 1 < 8 := ⟨by rw [hr]; exact r.isLt, by rw [hc]; exact c.isLt⟩
  show execStallTrigRequest s = _
  simp only [execStallTrigRequest, hq]
  rw [dif_pos hlt]
  simp only [hr, hc, State.requestsLeft]

end

/-! ## CAN frames (R267, R410) -/

theorem canFrame_ignored (id : BitVec 29) (ext : Bool) (data : List Byte) (stamp : Stamp) (h : s.u Obj.CAN.CAN_EN = 0 ∨ s.can.busOff = true) :
    exec (.canFrame id ext data stamp) s = .next s := congrArg Host.Outcome.next (if_pos h)

theorem canFrame_counts (id : BitVec 29) (data : List Byte) (stamp : Stamp) (hen : s.u Obj.CAN.CAN_EN ≠ 0) (hoff : s.can.busOff = false)
    (hroom : s.u Obj.CAN.RX_FRAMES + 1 < 2 ^ 32) :
    ∃ u : State, exec (.canFrame id false data stamp) s = .next u ∧ u.u Obj.CAN.RX_FRAMES = s.u Obj.CAN.RX_FRAMES + 1 ∧
      u.u Obj.CAN.REC = errorCount (min 128 (s.u Obj.CAN.REC)) (Config.busErrors s.fresh) 1 ∧
      onlyRegs { s with can := u.can, fresh := u.fresh } u [Obj.CAN.RX_FRAMES, Obj.CAN.REC] := by
  have hrec : (s.bump Obj.CAN.RX_FRAMES).u Obj.CAN.REC = s.u Obj.CAN.REC := State.u_bump_ne _ _ _ (by decide)
  have hcount : errorCount (min 128 (s.u Obj.CAN.REC)) (Config.busErrors s.fresh) 1 < 2 ^ Obj.CAN.REC.width :=
    lt_of_le_of_lt (Nat.min_le_left _ _) (by decide)
  refine ⟨(s.bump Obj.CAN.RX_FRAMES).canPassed Obj.CAN.REC 128 1, congrArg Host.Outcome.next (if_neg (by simp [hen, hoff])), ?_, ?_, ?_⟩
  · show ((s.bump Obj.CAN.RX_FRAMES).put Obj.CAN.REC _).u Obj.CAN.RX_FRAMES = _
    rw [State.u_put_ne _ _ _ _ (by decide), State.u_bump_self _ _ (hroom.trans_le (by decide))]
  · show ((s.bump Obj.CAN.RX_FRAMES).put Obj.CAN.REC (errorCount (min 128 ((s.bump Obj.CAN.RX_FRAMES).u Obj.CAN.REC)) (Config.busErrors s.fresh) 1)).u
      Obj.CAN.REC = _
    rw [hrec, State.u_put_of_lt _ _ _ hcount]
  · exact ⟨rfl, ((regsKept.refl s _).put (by simp) _).put (by simp) _⟩

end

end Sys2Proof.Machine
end

section
/-! SUPPORT. Records and the record store, REARM and bell messages (R260, R262, R273, R275, R277, R279; Machine/Capture.lean). -/

namespace Sys2Proof.Machine

/-! ## Records lost to readers (R275, R365) -/

/-- The registers that count what streams lose. -/
def lostReg (k : Nat) : Bool := k == Obj.CAPTURE.STORE_LOST.key || (List.range 256).any (fun j => (Obj.STREAM.LOST j).key == k)

/-- What records that leave the store change: streams, what they lost, and the store. -/
def storeScope : Scope where
  blank s := { s with regs := [], streams := Vector.replicate 256 {}, flips := [], capture := {} }
  regs := lostReg
  blind _ _ := rfl

section
variable {s t : State} {r : Fin 64} {c : RecordPart}

theorem lostReg_lost (k : Fin 256) : lostReg (Obj.STREAM.LOST k).key = true := by
  simp only [lostReg, Bool.or_eq_true]
  exact .inr (List.any_eq_true.mpr ⟨k.val, List.mem_range.mpr k.isLt, beq_self_eq_true _⟩)

theorem lostReg_region (r : Fin 64) {b : Nat} (hb : b < 256) : lostReg ((0x5200 + r.val) * 256 + b) = false := by
  have hlt := r.isLt
  simp only [lostReg, Bool.or_eq_false_iff, beq_eq_false_iff_ne, List.any_eq_false, List.mem_range, beq_iff_eq, Obj.CAPTURE.STORE_LOST, Obj.STREAM.LOST]
  exact ⟨by omega, fun j hj => by omega⟩

theorem storeScope_mem (h : Within storeScope s t) : t.mem = s.mem := congrArg (fun v => v.mem) h.parts

theorem State.overtake_store (s : State) (gone : Item → Bool) : Within storeScope s (s.overtake gone) := by
  refine (Within.refl _ s).overAll fun v k hv => ?_
  dsimp only
  refine Within.ite (fun _ => hv) fun _ => ?_
  have hmod : Within storeScope s (v.modStream k (fun y => y.overtake gone)) := hv.trans (.part rfl rfl)
  exact Within.ite (fun _ => (hmod.add (lostReg_lost k) _).add (by decide) _) fun _ => hmod

theorem State.overtake_capture (s : State) (gone : Item → Bool) : (s.overtake gone).capture = s.capture :=
  overAll_induct (P := fun v => v.capture = s.capture) (fun v k hv => by
    dsimp only
    split
    · exact hv
    · split
      · exact hv
      · exact hv) s rfl

theorem State.keepRecords_store (s : State) (stays : StoredRecord → Bool) : Within storeScope s (s.keepRecords stays) ∧
    (s.keepRecords stays).capture = { s.capture with store := s.capture.store.filter stays } := by
  have hpart : ∀ x, Within storeScope s { s with capture := x } := fun x => .part rfl rfl
  rw [State.keepRecords]
  dsimp only
  split
  · exact ⟨hpart _, rfl⟩
  · exact ⟨(hpart _).trans (State.overtake_store _ _), State.overtake_capture _ _⟩

/-- A record that fits enters the store behind those that stay. -/
theorem State.storeRecord_fits (b : List Byte) (h : s.capture.storePos + b.length ≤ s.u Obj.CAPTURE.STORE_LEN * 2 ^ 20) :
    Within storeScope s (s.storeRecord r b) ∧ (s.storeRecord r b).capture.regions = s.capture.regions ∧
      (⟨r, (regionOf s r).recordSeq, s.capture.storePos, b, []⟩ : StoredRecord) ∈ (s.storeRecord r b).capture.store := by
  rw [State.storeRecord, if_pos h]
  obtain ⟨hwithin, hcapture⟩ := s.keepRecords_store (fun e => decide (e.stop ≤ s.capture.storePos) || decide (s.capture.storePos + b.length ≤ e.place))
  dsimp only
  generalize s.keepRecords (fun e => decide (e.stop ≤ s.capture.storePos) || decide (s.capture.storePos + b.length ≤ e.place)) = v at hwithin hcapture
  have hregions : v.capture.regions = s.capture.regions := by rw [hcapture]
  exact ⟨hwithin.trans (.part rfl rfl), hregions, List.mem_append_right v.capture.store (List.mem_singleton.mpr rfl)⟩

theorem State.toStreams_capture (s : State) (kind : Nat) (takes : Fin 256 → Bool) (it : Fin 256 → Item) :
    (s.toStreams kind takes it).capture = s.capture ∧ (s.toStreams kind takes it).mem = s.mem ∧ (s.toStreams kind takes it).regs = s.regs :=
  overAll_induct (P := fun v => v.capture = s.capture ∧ v.mem = s.mem ∧ v.regs = s.regs) (fun v k hv => by
    split
    · exact hv
    · exact hv) s ⟨rfl, rfl, rfl⟩

/-! ## A record is written (R260, R273) -/

/-- A record whose words are sound is read as it stands. -/
theorem State.readAwning_clean (hp : ∀ e ∈ c.pre ++ c.post, e.poisoned = []) (hf : s.flips = []) : s.readAwning r c = s := by
  have hwords : (c.pre ++ c.post).flatMap (fun e =>
      e.poisoned.map (fun i => awnArea r + e.place * awnEntryBytes s r + 16 * i) ++
      (s.flips.map (·.1)).filter (fun w => decide (awnArea r + e.place * awnEntryBytes s r ≤ w) &&
        decide (w < awnArea r + (e.place + 1) * awnEntryBytes s r) &&
        !e.poisoned.contains ((w - (awnArea r + e.place * awnEntryBytes s r)) / 16))) = [] :=
    List.flatMap_eq_nil_iff.mpr fun e he => by rw [hp e he, hf]; rfl
  rw [State.readAwning]
  rw [hwords]
  rfl

/-- The state in which a stored record's region stands: its counters have moved and it is DISARMED or in REARM. -/
def State.recorded (s : State) (r : Fin 64) (q : Nat) : State :=
  let t := s.modRegion r (fun x => { x with record := none, recordSeq := x.recordSeq + 1 })
  let t := ((t.bump (Obj.REGION.RECORDS r)).bump Obj.CAPTURE.RECORDS).put (Obj.REGION.LAST_SEQ r) q
  if t.u (Obj.REGION.ARM_MODE r) = 0 then t.put (Obj.REGION.RSTATE r) 0 else t.put (Obj.REGION.RSTATE r) 4

theorem recordWritten_writes (hrec : (regionOf s r).record = some c) (hdone : c.complete = true) (hp : ∀ e ∈ c.pre ++ c.post, e.poisoned = [])
    (hf : s.flips = []) (hshort : c.preShort = false) :
    exec (.recordWritten r) s = .next (((s.storeRecord r (recordBytes s r c)).recorded r (regionOf s r).recordSeq.toNat).toStreams 2
      (fun k => (s.u (Obj.STREAM.SEL k)).testBit r) (fun _ => recordItem ⟨r, (regionOf s r).recordSeq, 0, recordBytes s r c, []⟩ s.now)) := by
  show execRecordWritten r s = _
  simp only [execRecordWritten, hrec, hdone, Bool.not_true, Bool.false_eq_true, if_false, State.readAwning_clean hp hf, Option.getD_some, hshort,
    State.recorded]

theorem recordWritten_waits (hrec : (regionOf s r).record = some c) (hdone : c.complete = false) : exec (.recordWritten r) s = .next s := by
  show execRecordWritten r s = _
  simp only [execRecordWritten, hrec, hdone, Bool.not_false, if_true]

/-- The registers of a region that a record changes lie apart. -/
theorem recordKeys (r : Fin 64) : (Obj.REGION.RECORDS r).key ≠ Obj.CAPTURE.RECORDS.key ∧ (Obj.REGION.RSTATE r).key ≠ (Obj.REGION.RECORDS r).key ∧
    (Obj.REGION.LAST_SEQ r).key ≠ (Obj.REGION.RECORDS r).key ∧ (Obj.REGION.RECORDS r).key ≠ (Obj.REGION.ARM_MODE r).key ∧
    Obj.CAPTURE.RECORDS.key ≠ (Obj.REGION.ARM_MODE r).key ∧ (Obj.REGION.LAST_SEQ r).key ≠ (Obj.REGION.ARM_MODE r).key := by
  have hlt := r.isLt
  simp only [Obj.REGION.RECORDS, Obj.CAPTURE.RECORDS, Obj.REGION.RSTATE, Obj.REGION.LAST_SEQ, Obj.REGION.ARM_MODE]
  omega

theorem State.recorded_regs (s : State) (r : Fin 64) (q : Nat) (h : s.u (Obj.REGION.RECORDS r) + 1 < 2 ^ 32) :
    (s.recorded r q).u (Obj.REGION.RECORDS r) = s.u (Obj.REGION.RECORDS r) + 1 ∧
    (s.recorded r q).u (Obj.REGION.RSTATE r) = (if s.u (Obj.REGION.ARM_MODE r) = 0 then 0 else 4) ∧
    regsKept s (s.recorded r q) [Obj.REGION.RECORDS r, Obj.CAPTURE.RECORDS, Obj.REGION.LAST_SEQ r, Obj.REGION.RSTATE r] := by
  obtain ⟨hcapture, hstate, hlast, hmode, hmode', hmode''⟩ := recordKeys r
  have hmod : ∀ x : Reg, (s.modRegion r (fun x => { x with record := none, recordSeq := x.recordSeq + 1 })).u x = s.u x := fun _ => rfl
  have hkept := regsKept.of_regs (regsKept.refl s [Obj.REGION.RECORDS r, Obj.CAPTURE.RECORDS, Obj.REGION.LAST_SEQ r, Obj.REGION.RSTATE r])
    (u := s.modRegion r (fun x => { x with record := none, recordSeq := x.recordSeq + 1 })) rfl
  rw [State.recorded]
  generalize s.modRegion r (fun x => { x with record := none, recordSeq := x.recordSeq + 1 }) = v at hmod hkept
  have hcount : (((v.bump (Obj.REGION.RECORDS r)).bump Obj.CAPTURE.RECORDS).put (Obj.REGION.LAST_SEQ r) q).u (Obj.REGION.RECORDS r) =
      s.u (Obj.REGION.RECORDS r) + 1 := by
    rw [State.u_put_ne _ _ _ _ hlast, State.u_bump_ne _ _ _ hcapture.symm, State.u_bump_self _ _ (by rw [hmod]; exact h), hmod]
  have harm : (((v.bump (Obj.REGION.RECORDS r)).bump Obj.CAPTURE.RECORDS).put (Obj.REGION.LAST_SEQ r) q).u (Obj.REGION.ARM_MODE r) =
      s.u (Obj.REGION.ARM_MODE r) := by
    rw [State.u_put_ne _ _ _ _ hmode'', State.u_bump_ne _ _ _ hmode', State.u_bump_ne _ _ _ hmode, hmod]
  have hkept : regsKept s (((v.bump (Obj.REGION.RECORDS r)).bump Obj.CAPTURE.RECORDS).put (Obj.REGION.LAST_SEQ r) q)
      [Obj.REGION.RECORDS r, Obj.CAPTURE.RECORDS, Obj.REGION.LAST_SEQ r, Obj.REGION.RSTATE r] :=
    ((hkept.put (by simp) _).put (by simp) _).put (by simp) _
  generalize ((v.bump (Obj.REGION.RECORDS r)).bump Obj.CAPTURE.RECORDS).put (Obj.REGION.LAST_SEQ r) q = w at hcount harm hkept
  rw [harm]
  split
  · exact ⟨(State.u_put_ne _ _ _ _ hstate).trans hcount, State.u_put_of_lt _ _ _ (by simp only [Obj.REGION.RSTATE]; decide), hkept.put (by simp) _⟩
  · exact ⟨(State.u_put_ne _ _ _ _ hstate).trans hcount, State.u_put_of_lt _ _ _ (by simp only [Obj.REGION.RSTATE]; decide), hkept.put (by simp) _⟩

theorem State.recorded_capture (s : State) (r : Fin 64) (q : Nat) : (s.recorded r q).capture.regions[r] =
    { s.capture.regions[r] with record := none, recordSeq := s.capture.regions[r].recordSeq + 1 } ∧ (s.recorded r q).capture.store = s.capture.store ∧
    (s.recorded r q).mem = s.mem := by
  have hself := s.modRegion_self r (fun x => { x with record := none, recordSeq := x.recordSeq + 1 })
  have hrest : (s.modRegion r (fun x => { x with record := none, recordSeq := x.recordSeq + 1 })).capture.store = s.capture.store ∧
      (s.modRegion r (fun x => { x with record := none, recordSeq := x.recordSeq + 1 })).mem = s.mem := ⟨rfl, rfl⟩
  rw [State.recorded]
  generalize s.modRegion r (fun x => { x with record := none, recordSeq := x.recordSeq + 1 }) = v at hself hrest
  split
  · exact ⟨hself, hrest⟩
  · exact ⟨hself, hrest⟩

theorem recordWritten_stores (hrec : (regionOf s r).record = some c) (hdone : c.complete = true) (hp : ∀ e ∈ c.pre ++ c.post, e.poisoned = [])
    (hf : s.flips = []) (hroom : s.u (Obj.REGION.RECORDS r) + 1 < 2 ^ 32) (hshort : c.preShort = false) :
    s.capture.storePos + (recordBytes s r c).length ≤ s.u Obj.CAPTURE.STORE_LEN * 2 ^ 20 → ∃ u : State, exec (.recordWritten r) s = .next u ∧ u.capture.regions[r].record = none ∧
      (⟨r, s.capture.regions[r].recordSeq, s.capture.storePos, recordBytes s r c, []⟩ : StoredRecord) ∈ u.capture.store ∧
      u.capture.regions[r].recordSeq = s.capture.regions[r].recordSeq + 1 ∧ u.u (Obj.REGION.RECORDS r) = s.u (Obj.REGION.RECORDS r) + 1 ∧
      u.u (Obj.REGION.RSTATE r) = (if s.u (Obj.REGION.ARM_MODE r) = 0 then 0 else 4) ∧ u.mem = s.mem ∧
      regsKept s u ([Obj.REGION.RECORDS r, Obj.CAPTURE.RECORDS, Obj.REGION.LAST_SEQ r, Obj.REGION.RSTATE r, Obj.CAPTURE.STORE_LOST] ++
        (List.range 256).map Obj.STREAM.LOST) := by
  intro hfits
  have hexec := recordWritten_writes hrec hdone hp hf hshort
  obtain ⟨hwithin, hregions, hmember⟩ := State.storeRecord_fits (r := r) (recordBytes s r c) hfits
  generalize s.storeRecord r (recordBytes s r c) = v at hexec hwithin hregions hmember
  have hstored : ∀ x : Reg, lostReg x.key = false → v.u x = s.u x := fun x hx => hwithin.reads x hx
  have hregion : lostReg (Obj.REGION.RECORDS r).key = false ∧ lostReg (Obj.REGION.ARM_MODE r).key = false :=
    ⟨lostReg_region r (b := 0x11) (by decide), lostReg_region r (b := 1) (by decide)⟩
  obtain ⟨hcount, hstate, hkept⟩ := v.recorded_regs r (regionOf s r).recordSeq.toNat (by rw [hstored _ hregion.1]; exact hroom)
  obtain ⟨hentry, hstore, hmem⟩ := v.recorded_capture r (regionOf s r).recordSeq.toNat
  rw [hstored _ hregion.1] at hcount
  rw [hstored _ hregion.2] at hstate
  generalize v.recorded r (regionOf s r).recordSeq.toNat = w at hexec hcount hstate hkept hentry hstore hmem
  obtain ⟨hc, hm, hr⟩ := w.toStreams_capture 2 (fun k => (s.u (Obj.STREAM.SEL k)).testBit r)
    (fun _ => recordItem ⟨r, (regionOf s r).recordSeq, 0, recordBytes s r c, []⟩ s.now)
  generalize w.toStreams 2 (fun k => (s.u (Obj.STREAM.SEL k)).testBit r)
    (fun _ => recordItem ⟨r, (regionOf s r).recordSeq, 0, recordBytes s r c, []⟩ s.now) = x at hexec hc hm hr
  refine ⟨x, hexec, by rw [hc, hentry], ?_, ?_, ?_, ?_, hm.trans (hmem.trans (storeScope_mem hwithin)), fun y hy => ?_⟩
  · rw [hc, hstore]
    exact hmember
  · rw [hc, hentry, hregions]
  · exact (State.u_of_regs hr _).trans hcount
  · exact (State.u_of_regs hr _).trans hstate
  · have hlost : lostReg y.key = false := by
      simp only [lostReg, Bool.or_eq_false_iff, beq_eq_false_iff_ne, List.any_eq_false, List.mem_range, beq_iff_eq]
      exact ⟨(hy Obj.CAPTURE.STORE_LOST (List.mem_append_left _ (by simp))).symm,
        fun j hj => hy (Obj.STREAM.LOST j) (List.mem_append_right _ (List.mem_map.mpr ⟨j, List.mem_range.mpr hj, rfl⟩))⟩
    refine (State.u_of_regs hr _).trans ((hkept y fun z hz => hy z (List.mem_append_left _ ?_)).trans (hstored y hlost))
    exact List.mem_append_left [Obj.CAPTURE.STORE_LOST] hz

end

end Sys2Proof.Machine
end

section
/-! SUPPORT. The end of REARM and bell messages (R262, R277, R279; Machine/Capture.lean). -/

namespace Sys2Proof.Machine

section
variable {s : State} {r : Fin 64}

/-! ## REARM (R262) -/

/-- A region without a record takes the state its mode and fill give it. -/
theorem State.settled (s : State) (r : Fin 64) : ((s.put (Obj.REGION.RSTATE r) 0).settleRegion r).u (Obj.REGION.RSTATE r) = idleState s r ∧
    ((s.put (Obj.REGION.RSTATE r) 0).settleRegion r).mem = s.mem ∧ regsKept s ((s.put (Obj.REGION.RSTATE r) 0).settleRegion r) [Obj.REGION.RSTATE r] := by
  have hzero : (s.put (Obj.REGION.RSTATE r) 0).u (Obj.REGION.RSTATE r) = 0 := State.u_put_of_lt _ _ _ (by simp only [Obj.REGION.RSTATE]; decide)
  have hmode : (s.put (Obj.REGION.RSTATE r) 0).u (Obj.REGION.ARM_MODE r) = s.u (Obj.REGION.ARM_MODE r) :=
    State.u_put_ne _ _ _ _ (by simp only [Obj.REGION.RSTATE, Obj.REGION.ARM_MODE]; omega)
  have hidle : idleState (s.put (Obj.REGION.RSTATE r) 0) r = idleState s r := by
    rw [idleState, idleState, hmode]
    rfl
  have hlt : idleState s r < 2 ^ (Obj.REGION.RSTATE r).width := by
    rw [idleState]
    split
    · exact Nat.two_pow_pos _
    · split
      · exact (by simp only [Obj.REGION.RSTATE]; decide)
      · exact (by simp only [Obj.REGION.RSTATE]; decide)
  have hstate : ((s.put (Obj.REGION.RSTATE r) 0).put (Obj.REGION.RSTATE r) (idleState s r)).u (Obj.REGION.RSTATE r) = idleState s r :=
    State.u_put_of_lt _ _ _ hlt
  have hkept : regsKept s ((s.put (Obj.REGION.RSTATE r) 0).put (Obj.REGION.RSTATE r) (idleState s r)) [Obj.REGION.RSTATE r] :=
    ((regsKept.refl s _).put (by simp) _).put (by simp) _
  rw [State.settleRegion, hzero, if_neg (by decide), hidle]
  split
  · exact ⟨hstate, rfl, hkept⟩
  · exact ⟨hstate, rfl, hkept.of_regs rfl⟩

theorem rearmEnd_ends (h : s.u (Obj.REGION.RSTATE r) = 4) :
    ∃ u : State, exec (.rearmEnd r) s = .next u ∧
      (s.u (Obj.REGION.ARM_MODE r) = 1 → u.u (Obj.REGION.ARM_MODE r) = 0 ∧ u.u (Obj.REGION.RSTATE r) = 0) ∧
      (s.u (Obj.REGION.ARM_MODE r) = 2 → u.u (Obj.REGION.ARM_MODE r) = 2 ∧
        u.u (Obj.REGION.RSTATE r) = (if s.capture.regions[r].ring.length < s.capture.regions[r].len then 1 else 2)) ∧
      u.mem = s.mem ∧ regsKept s u [Obj.REGION.ARM_MODE r, Obj.REGION.RSTATE r] := by
  have hexec : exec (.rearmEnd r) s = .next (((if s.u (Obj.REGION.ARM_MODE r) = 1 then s.put (Obj.REGION.ARM_MODE r) 0 else s).put
      (Obj.REGION.RSTATE r) 0).settleRegion r) := congrArg Host.Outcome.next (if_neg (not_not.mpr h))
  have hkey : (Obj.REGION.RSTATE r).key ≠ (Obj.REGION.ARM_MODE r).key := by simp only [Obj.REGION.RSTATE, Obj.REGION.ARM_MODE]; omega
  have hmode : ∀ v : State, regsKept v ((v.put (Obj.REGION.RSTATE r) 0).settleRegion r) [Obj.REGION.RSTATE r] →
      ((v.put (Obj.REGION.RSTATE r) 0).settleRegion r).u (Obj.REGION.ARM_MODE r) = v.u (Obj.REGION.ARM_MODE r) := fun v hv =>
    hv _ fun x hx => by rw [List.mem_singleton.mp hx]; exact hkey
  by_cases h1 : s.u (Obj.REGION.ARM_MODE r) = 1
  · rw [if_pos h1] at hexec
    obtain ⟨hstate, hmem, hkept⟩ := (s.put (Obj.REGION.ARM_MODE r) 0).settled r
    have hzero : (s.put (Obj.REGION.ARM_MODE r) 0).u (Obj.REGION.ARM_MODE r) = 0 := State.u_put_of_lt _ _ _ (Nat.two_pow_pos _)
    refine ⟨_, hexec, fun _ => ⟨(hmode _ hkept).trans hzero, hstate.trans (if_pos hzero)⟩, fun h2 => absurd (h1.symm.trans h2) (by decide), hmem, ?_⟩
    exact ((regsKept.refl s _).put (by simp) _).trans (hkept.mono (by simp))
  · rw [if_neg h1] at hexec
    obtain ⟨hstate, hmem, hkept⟩ := s.settled r
    refine ⟨_, hexec, fun h => absurd h h1, fun h2 => ⟨(hmode _ hkept).trans h2, hstate.trans (if_neg (by rw [h2]; decide))⟩, hmem, hkept.mono (by simp)⟩

/-! ## A message accepted (R428) -/

/-- The parts of State that the acceptance of a frame leaves. -/
theorem State.acceptFrame_rest (s : State) (a : Arrival) (vc : Nat) : (s.acceptFrame a vc).capture = s.capture ∧ (s.acceptFrame a vc).ep = s.ep ∧
    ∀ x : Reg, (Obj.AGGON.CE a.link).key ≠ x.key → Obj.MEMORY.POISON_SEEN.key ≠ x.key → (s.acceptFrame a vc).u x = s.u x := by
  have hsent := State.unlinked_pumpLink (((s.modLink a.link (fun x => { x.acked a.ack a.credit with
    last := a.fseq, discarding := false,
    owed := if vc = 0 then x.owed else x.owed.set (vc - 1) (x.owed.getD (vc - 1) 0 + 1) })).add (Obj.AGGON.CE a.link) a.ce).add Obj.MEMORY.POISON_SEEN
      a.poisoned.length) a.link
  refine ⟨congrArg (fun t => t.capture) hsent, congrArg (fun t => t.ep) hsent, fun x hce hpoison => ?_⟩
  exact (State.u_of_regs (congrArg (fun t => t.regs) hsent) x).trans ((State.u_put_ne _ _ _ _ hpoison).trans (State.u_put_ne _ _ _ _ hce))

theorem State.acceptFrame_u (s : State) (a : Arrival) (vc : Nat) {x : Reg} (h : x.key < 0x6200 * 256 ∨ x.key < 0x6200 * 256 + 0x20) :
    (s.acceptFrame a vc).u x = s.u x :=
  (s.acceptFrame_rest a vc).2.2 x (by simp only [Obj.AGGON.CE]; omega) (by simp only [Obj.MEMORY.POISON_SEEN]; omega)

theorem State.acceptFrame_own (s : State) (a : Arrival) (vc : Nat) : ownId (s.acceptFrame a vc) = ownId s :=
  congrArg (BitVec.ofNat 11) (s.acceptFrame_u a vc (.inr (by decide)))

theorem State.acceptFrame_remembered (s : State) (a : Arrival) (vc : Nat) : (s.acceptFrame a vc).remembered = s.remembered := by
  obtain ⟨hcapture, hep, -⟩ := s.acceptFrame_rest a vc
  have hnow : (s.acceptFrame a vc).now = s.now := congrArg (fun e : EpochPart => e.count.toNat) hep
  rw [State.remembered, State.remembered, hcapture, hnow]

/-! ## Bell messages (R277, R279) -/

section
variable {a : Arrival} {h : BitVec 8} {m : BellMsg}

theorem State.bellIn_next (f : State → State) (hup : linkUp s a.link = true) (hf : a.fseq = s.links[a.link].last + 1) :
    s.bellIn a h m f = .next (ifClean a (fun t => t.bellOnce a.link h m f) (s.acceptFrame a 0)) :=
  congrArg Host.Outcome.next (s.receive_next a 0 _ hup hf)

/-- The device's own message is not acted on. -/
theorem State.bellIn_own (f : State → State) (hup : linkUp s a.link = true) (hf : a.fseq = s.links[a.link].last + 1) (hm : m.origin = ownId s) :
    s.bellIn a h m f = .next (s.acceptFrame a 0) := by
  have honce : (s.acceptFrame a 0).bellOnce a.link h m f = s.acceptFrame a 0 := if_pos (.inl (hm.trans (s.acceptFrame_own a 0).symm))
  rw [State.bellIn_next f hup hf, ifClean, honce, ite_self]

/-- The state in which a new message is remembered. -/
def State.bellSeen (s : State) (a : Arrival) (m : BellMsg) : State :=
  { s.acceptFrame a 0 with capture := { s.capture with seen := ((m.origin, m.seq, (s.now : Int)) :: s.remembered).take 4096 } }

/-- A new message goes on while hops remain, and is acted on. -/
theorem State.bellIn_new (f : State → State) (hup : linkUp s a.link = true) (hf : a.fseq = s.links[a.link].last + 1) (hp : a.poisoned = [])
    (hm : m.origin ≠ ownId s) (hnew : ∀ e ∈ s.remembered, ¬(e.1 = m.origin ∧ e.2.1 = m.seq)) : s.bellIn a h m f = .next (f (
      if 1 < h.toNat then (s.bellSeen a m).flood (some a.link) { vc := 0, kind := 1, src := m.origin, hops := h.toNat - 1, body := .bell m }
      else s.bellSeen a m)) := by
  obtain ⟨hcapture, hep, -⟩ := s.acceptFrame_rest a 0
  have hnow : (s.acceptFrame a 0).now = s.now := congrArg (fun e : EpochPart => e.count.toNat) hep
  have hnone : ¬(m.origin = ownId (s.acceptFrame a 0) ∨ ((s.acceptFrame a 0).remembered.any (fun e => e.1 == m.origin && e.2.1 == m.seq)) = true) := by
    rw [s.acceptFrame_own, s.acceptFrame_remembered]
    rintro (h | h)
    · exact hm h
    · obtain ⟨e, he, hsame⟩ := List.any_eq_true.mp h
      rw [Bool.and_eq_true, beq_iff_eq, beq_iff_eq] at hsame
      exact hnew e he hsame
  rw [State.bellIn_next f hup hf, ifClean, hp, List.isEmpty_nil, if_pos rfl, State.bellOnce]
  dsimp only
  rw [if_neg hnone, s.acceptFrame_remembered, hcapture, hnow]
  rfl

/-- An action on a group that no region listens to. -/
theorem State.onGroup_none (g : Nat) (f : State → Fin 64 → State) (hg : ∀ r : Fin 64, s.u (Obj.REGION.BELL_RX r) ≠ g) : s.onGroup g f = s :=
  overAll_induct (P := fun t => t = s) (fun t r ht => by rw [ht, if_neg fun hc => hg r hc.1]) s rfl

theorem remembered_nil (h : s.capture.seen = []) : s.remembered = [] := by
  rw [State.remembered, h]
  rfl

/-- A new message that goes no further and that no region of its group awaits. -/
theorem bell_alone (hup : linkUp s a.link = true) (hf : a.fseq = s.links[a.link].last + 1) (hp : a.poisoned = []) (hm : m.origin ≠ ownId s)
    (hh : h.toNat ≤ 1) (hseen : s.capture.seen = []) (hg : ∀ r : Fin 64, s.u (Obj.REGION.BELL_RX r) ≠ m.group.toNat)
    (hroom : s.u Obj.CAPTURE.BELL_IN + 1 < 2 ^ 32) :
    (∃ u : State, exec (.bellFire a h m) s = .next u ∧ u.capture.seen = [(m.origin, m.seq, (s.now : Int))] ∧
      u.u Obj.CAPTURE.BELL_IN = s.u Obj.CAPTURE.BELL_IN + 1 ∧ u.capture.regions = s.capture.regions ∧
      regsKept (s.acceptFrame a 0) u [Obj.CAPTURE.BELL_IN]) ∧
    (s.now < m.epoch.toNat → (m.armMode = 1 ∨ m.armMode = 2) → ∃ u : State, exec (.bellArm a h m) s = .next u ∧
      u.capture.arms = s.capture.arms ++ [(m.epoch.toNat, m.group.toNat, m.armMode.toNat)] ∧ u.capture.regions = s.capture.regions) ∧
    (s.now < m.epoch.toNat → ∃ u : State, exec (.bellDisarm a h m) s = .next u ∧
      u.capture.arms = s.capture.arms ++ [(m.epoch.toNat, m.group.toNat, 0)] ∧ u.capture.regions = s.capture.regions) := by
  have hempty := remembered_nil hseen
  have hall : ∀ f, s.bellIn a h m f = .next (f (s.bellSeen a m)) := fun f => by
    rw [State.bellIn_new f hup hf hp hm (by rw [hempty]; simp), if_neg (by omega)]
  have hregs : ∀ x : Reg, (s.bellSeen a m).u x = (s.acceptFrame a 0).u x := fun _ => rfl
  have hremembered : (s.bellSeen a m).capture.seen = [(m.origin, m.seq, (s.now : Int))] := by
    rw [State.bellSeen, hempty]
    rfl
  have hregions : (s.bellSeen a m).capture.regions = s.capture.regions := rfl
  have harms : (s.bellSeen a m).capture.arms = s.capture.arms := rfl
  have hnow : (s.bellSeen a m).now = s.now := congrArg (fun e : EpochPart => e.count.toNat) (s.acceptFrame_rest a 0).2.1
  have hgroup : ∀ r : Fin 64, (s.bellSeen a m).u (Obj.REGION.BELL_RX r) ≠ m.group.toNat := fun r => by
    rw [hregs, s.acceptFrame_u a 0 (.inl (by simp only [Obj.REGION.BELL_RX]; omega))]
    exact hg r
  have hcount : (s.bellSeen a m).u Obj.CAPTURE.BELL_IN = s.u Obj.CAPTURE.BELL_IN := by rw [hregs, s.acceptFrame_u a 0 (.inl (by decide))]
  generalize s.bellSeen a m = v at hall hregs hremembered hregions harms hnow hgroup hcount
  have hlater : ∀ mode : Nat, s.now < m.epoch.toNat → v.armGroup m.group.toNat mode m.epoch.toNat =
      { v with capture := { v.capture with arms := v.capture.arms ++ [(m.epoch.toNat, m.group.toNat, mode)] } } := fun mode hlt =>
    if_neg (by rw [hnow]; omega)
  refine ⟨⟨v.bump Obj.CAPTURE.BELL_IN, ?_, ?_, ?_, ?_, ?_⟩, fun hlt harm => ⟨({ v with capture := { v.capture with
    arms := v.capture.arms ++ [(m.epoch.toNat, m.group.toNat, m.armMode.toNat)] } }).bump Obj.CAPTURE.BELL_IN, ?_, ?_, ?_⟩, fun hlt => ⟨({ v with
    capture := { v.capture with arms := v.capture.arms ++ [(m.epoch.toNat, m.group.toNat, 0)] } }).bump Obj.CAPTURE.BELL_IN, ?_, ?_, ?_⟩⟩
  · refine (hall _).trans ?_
    rw [State.fire, State.onGroup_none _ _ hgroup]
  · exact hremembered
  · rw [State.u_bump_self _ _ (by rw [hcount]; exact hroom), hcount]
  · exact hregions
  · exact fun x hx => (State.u_bump_ne _ _ _ (hx _ (by simp))).trans (hregs x)
  · refine (hall _).trans ?_
    dsimp only
    rw [if_pos harm, hlater _ hlt]
  · exact congrArg (· ++ [(m.epoch.toNat, m.group.toNat, m.armMode.toNat)]) harms
  · exact hregions
  · refine (hall _).trans ?_
    dsimp only
    rw [hlater _ hlt]
  · exact congrArg (· ++ [(m.epoch.toNat, m.group.toNat, 0)]) harms
  · exact hregions

theorem armAtEpoch_one {e g mode : Nat} (harms : s.capture.arms = [(e, g, mode)]) :
    (e ≤ s.now → exec .armAtEpoch s = .next (({ s with capture := { s.capture with arms := [] } }).onGroup g (fun v r => v.armRegion r mode))) ∧
    (s.now < e → exec .armAtEpoch s = .next s) := by
  refine ⟨fun hle => ?_, fun hlt => ?_⟩
  · show execArmAtEpoch s = _
    have hdue : decide (e ≤ s.now) = true := decide_eq_true hle
    have hleft : decide (s.now < e) = false := decide_eq_false (by omega)
    simp only [execArmAtEpoch, harms, List.filter_cons, hdue, hleft, if_true, Bool.false_eq_true, if_false, List.filter_nil, List.insertionSort_cons,
      List.insertionSort_nil, List.orderedInsert_nil, List.foldl_cons, List.foldl_nil]
  · show execArmAtEpoch s = _
    have hdue : decide (e ≤ s.now) = false := decide_eq_false (by omega)
    have hleft : decide (s.now < e) = true := decide_eq_true hlt
    simp only [execArmAtEpoch, harms, List.filter_cons, hdue, hleft, if_true, Bool.false_eq_true, if_false, List.filter_nil, List.insertionSort_nil,
      List.foldl_nil]
    rw [← harms]

end

end

end Sys2Proof.Machine
end

namespace Sys2Proof

open Machine

/-- Settles O30, by one lemma per state of a region and per event; the log's choices 56 and 66 stand in the model. -/
theorem triggersAndCaptureEvents : Obligations.TriggersAndCaptureEvents := by
  unfold Obligations.TriggersAndCaptureEvents
  refine ⟨⟨fun _ _ _ h => State.trigger_disarmed h, fun _ _ _ h hroom => State.trigger_filling h hroom, fun _ _ _ h hroom => State.trigger_rearm h hroom,
    fun _ _ _ h hg hl hring => State.trigger_waits h hg hl hring,
    fun _ _ _ _ _ _ h hg hl hw hb hring hbefore hat => State.trigger_fixes h hg hl hw hb hring hbefore hat, fun _ p v u h => metAt_crossing p v u h,
    fun _ p v h => metAt_run p v h, polTest_eq⟩, fun _ _ h => pointCondition_idle h, fun _ _ _ _ hring he _ hd hc => pointCondition_untested hring he hd hc,
    fun s r n e d hfind hport hd hknown => ?_, fun s _ _ rest hq h hroom => ?_, fun s u t q rest r c hq hr hc hu => ?_,
    fun _ id data stamp hen hoff hroom => canFrame_counts id data stamp hen hoff hroom, fun _ id ext data stamp h => canFrame_ignored id ext data stamp h,
    fun _ _ _ hrec hdone hp hf hfits hroom hshort => recordWritten_stores hrec hdone hp hf hroom hshort hfits,
    fun _ _ _ hrec hdone => recordWritten_waits hrec hdone, fun _ _ h => rearmEnd_ends h, fun _ _ _ _ hup hf hm =>
      ⟨State.bellIn_own _ hup hf hm, State.bellIn_own _ hup hf hm, State.bellIn_own _ hup hf hm, State.bellIn_own _ hup hf hm⟩,
    fun s v w a h m hup hf hp hm hnew hv hw => ?_, fun _ _ _ _ hup hf hp hm hh hseen hg hroom => bell_alone hup hf hp hm hh hseen hg hroom,
    fun _ _ _ _ harms => armAtEpoch_one harms⟩
  case refine_1 => exact pointCondition_tests hfind (Fin.ext (by rw [hport]; exact Nat.mod_eq_of_lt n.isLt)) hd hknown
  case refine_2 =>
    refine ⟨_, stallTrigRequest_bad hq h, rfl, ?_, ⟨rfl, (regsKept.of_regs (regsKept.refl s _) rfl).put (by simp) _⟩⟩
    rw [State.u_bump_self (s.requestsLeft rest) _ (hroom.trans_le (by decide))]
    rfl
  case refine_3 =>
    subst hu
    have hexec := stallTrigRequest_named hq hr hc
    refine ⟨fun h => hexec.trans (congrArg _ (if_pos ?_)), fun h7 hp h0 => hexec.trans (congrArg _ ((if_neg ?_).trans (if_pos h0))),
      fun h7 hp h0 => hexec.trans (congrArg _ ((if_neg ?_).trans (if_neg h0)))⟩
    · exact h.imp_right fun hp => by rw [hp]; rfl
    · rw [h7, hp]; decide
    · rw [h7, hp]; decide
  case refine_4 =>
    subst hv hw
    have hall := fun f => State.bellIn_new (h := h) f hup hf hp hm hnew
    refine ⟨hall _, fun harm => (hall _).trans ?_, hall _, hall _⟩
    dsimp only
    rw [if_pos harm]
    rfl

end Sys2Proof

section
/-! SUPPORT. Frames on the lanes of an Aggon link and the frame that goes next (R418, R427; Machine/Coding.lean, Machine/Links.lean). -/

namespace Sys2Proof.Machine

/-! ## The lanes (R418) -/

/-- Blocks on the lanes change a link's scramblers and the lane that is next, and nothing else of it. -/
theorem stripe_link (l : List (BitVec 64)) (x : LinkPart) :
    (stripe l x).1 = { x with scramblers := (stripe l x).1.scramblers, nextLane := (stripe l x).1.nextLane } := by
  induction l generalizing x with
  | nil => rfl
  | cons b l ih => exact ih _

/-- What blocks become depends on a link's lanes, its scramblers and the lane that is next. -/
theorem stripe_of_lanes (l : List (BitVec 64)) {x y : LinkPart} (ht : x.tx = y.tx) (hs : x.scramblers = y.scramblers) (hn : x.nextLane = y.nextLane) :
    (stripe l x).2 = (stripe l y).2 := by
  induction l generalizing x y with
  | nil => rfl
  | cons b l ih =>
    simp only [stripe, ht, hs, hn]
    exact congrArg (List.cons _) (ih rfl rfl rfl)

theorem stripe_length (l : List (BitVec 64)) (x : LinkPart) : (stripe l x).2.length = l.length := by
  induction l generalizing x with
  | nil => rfl
  | cons b l ih => exact congrArg (· + 1) (ih _)

theorem stripe_nextLane (l : List (BitVec 64)) (x : LinkPart) (h : x.nextLane < 4) : (stripe l x).1.nextLane = (x.nextLane + l.length) % 4 := by
  induction l generalizing x with
  | nil => exact (Nat.mod_eq_of_lt h).symm
  | cons b l ih =>
    refine (ih _ (Nat.mod_lt _ (by decide))).trans ?_
    simp only [List.length_cons]
    omega

/-- The sync header of a data block is 01 (IEEE 802.3 Clause 49). -/
theorem dataBlock_sync (v : BitVec 64) : (dataBlock v).toNat % 4 = 2 := by
  have hor : ((v.setWidth 66 <<< 2) ||| 2#66).setWidth 2 = 2#2 := by
    ext i hi
    have h : i = 0 ∨ i = 1 := by omega
    rcases h with rfl | rfl <;> simp
  have ht := congrArg BitVec.toNat hor
  rw [BitVec.toNat_setWidth] at ht
  exact ht

/-- Consecutive blocks go to the logical lanes in turn. -/
theorem stripe_turn (l : List (BitVec 64)) (x : LinkPart) (hx : x.nextLane < 4) (i : Nat) (h : i < (stripe l x).2.length) :
    (stripe l x).2[i].1 = x.tx.getD ((x.nextLane + i) % 4) 0 ∧ (stripe l x).2[i].2.toNat % 4 = 2 := by
  induction l generalizing x i with
  | nil => exact absurd h (Nat.not_lt_zero i)
  | cons b l ih =>
    cases i with
    | zero => exact ⟨by simp only [stripe, List.getElem_cons_zero, Nat.add_zero, Nat.mod_eq_of_lt hx], dataBlock_sync _⟩
    | succ i =>
      obtain ⟨hl, hb⟩ := ih _ (Nat.mod_lt (x.nextLane + 1) (by decide)) i (Nat.lt_of_succ_lt_succ h)
      refine ⟨Eq.trans hl (congrArg (fun n => x.tx.getD n 0) ?_), hb⟩
      dsimp only
      omega

/-! ## The scrambler (R418) -/

/-- One step of the scrambler. -/
def scrambleBit (b : BitVec 64) (a : BitVec 58 × BitVec 64) (i : Nat) : BitVec 58 × BitVec 64 :=
  let o := b.getLsbD i ^^ a.1.getLsbD 38 ^^ a.1.getLsbD 57
  ((a.1 <<< 1) ||| (if o then 1 else 0), if o then a.2 ||| (1#64 <<< i) else a.2)

/-- The scrambler after its first `n` bits. -/
def scrambled (st : BitVec 58) (b : BitVec 64) (n : Nat) : BitVec 58 × BitVec 64 := (List.range n).foldl (scrambleBit b) (st, 0)

theorem scrambled_succ (st : BitVec 58) (b : BitVec 64) (n : Nat) : scrambled st b (n + 1) = scrambleBit b (scrambled st b n) n := by
  rw [scrambled, List.range_succ, List.foldl_append]
  rfl

/-- The bit that the scrambler puts out next. -/
def scrambleOut (b : BitVec 64) (a : BitVec 58 × BitVec 64) (i : Nat) : Bool := b.getLsbD i ^^ a.1.getLsbD 38 ^^ a.1.getLsbD 57

theorem scrambleBit_state (b : BitVec 64) (a : BitVec 58 × BitVec 64) (i j : Nat) (hj : j < 58) :
    (scrambleBit b a i).1.getLsbD j = if j = 0 then scrambleOut b a i else a.1.getLsbD (j - 1) := by
  have hs : (scrambleBit b a i).1 = (a.1 <<< 1) ||| (if scrambleOut b a i then 1 else 0) := rfl
  rw [hs]
  rcases Nat.eq_zero_or_pos j with rfl | hp
  · cases ho : scrambleOut b a i <;> simp
  · have hone : (1#58).getLsbD j = false := by
      rw [BitVec.getLsbD_one]
      simp
      omega
    rw [if_neg (show ¬j = 0 by omega), BitVec.getLsbD_or, BitVec.getLsbD_shiftLeft, decide_eq_true hj, decide_eq_false (by omega : ¬j < 1)]
    cases ho : scrambleOut b a i
    · simp
    · simpa using (fun h : j = 0 => absurd h (by omega))

theorem scrambleBit_out (b : BitVec 64) (a : BitVec 58 × BitVec 64) (i j : Nat) (hi : i < 64) (ha : a.2.getLsbD i = false) :
    (scrambleBit b a i).2.getLsbD j = if j = i then scrambleOut b a i else a.2.getLsbD j := by
  have hs : (scrambleBit b a i).2 = if scrambleOut b a i then a.2 ||| (1#64 <<< i) else a.2 := rfl
  rw [hs]
  cases ho : scrambleOut b a i
  · by_cases h : j = i
    · rw [if_neg Bool.false_ne_true, if_pos h, h, ha]
    · rw [if_neg Bool.false_ne_true, if_neg h]
  · by_cases h : j = i
    · subst h
      simp [hi]
    · rw [if_pos rfl, if_neg h, BitVec.getLsbD_or]
      have hone : (1#64 <<< i).getLsbD j = false := by
        simp
        omega
      rw [hone, Bool.or_false]

/-- The scrambler holds the bits it has put out, newest first, before those it began with; no bit to come has been put out. -/
theorem scrambled_holds (st : BitVec 58) (b : BitVec 64) (n : Nat) (hn : n ≤ 64) :
    (∀ j, j < 58 → (scrambled st b n).1.getLsbD j = if j < n then (scrambled st b n).2.getLsbD (n - 1 - j) else st.getLsbD (j - n)) ∧
    ∀ j, n ≤ j → (scrambled st b n).2.getLsbD j = false := by
  induction n with
  | zero => exact ⟨fun j _ => rfl, fun j _ => BitVec.getLsbD_zero⟩
  | succ n ih =>
    obtain ⟨hstate, hout⟩ := ih (Nat.le_of_succ_le hn)
    have hbit := fun j => scrambleBit_out b (scrambled st b n) n j hn (hout n le_rfl)
    rw [scrambled_succ]
    refine ⟨fun j hj => ?_, fun j hj => ?_⟩
    · rw [scrambleBit_state b _ n j hj, hbit]
      rcases Nat.eq_zero_or_pos j with rfl | hp
      · rw [if_pos rfl, if_pos (Nat.succ_pos n), if_pos (by omega)]
      · rw [if_neg (by omega), hstate (j - 1) (by omega)]
        by_cases h : j - 1 < n
        · rw [if_pos h, if_pos (by omega), if_neg (by omega), show n - 1 - (j - 1) = n + 1 - 1 - j by omega]
        · rw [if_neg h, if_neg (by omega), show j - 1 - n = j - (n + 1) by omega]
    · rw [hbit, if_neg (by omega), hout j (by omega)]

/-- A bit put out stands. -/
theorem scrambled_stands (st : BitVec 58) (b : BitVec 64) (i n : Nat) (hi : i < n) (hn : n ≤ 64) :
    (scrambled st b n).2.getLsbD i = (scrambled st b (i + 1)).2.getLsbD i := by
  induction n with
  | zero => exact absurd hi (Nat.not_lt_zero i)
  | succ n ih =>
    rcases Nat.lt_succ_iff_lt_or_eq.mp hi with h | rfl
    · rw [scrambled_succ, scrambleBit_out b _ n i hn ((scrambled_holds st b n (by omega)).2 n le_rfl), if_neg (by omega)]
      exact ih h (Nat.le_of_succ_le hn)
    · rfl

/-- The bit put out is the bit that comes in, by those put out 39 and 58 bits before (R418). -/
theorem scramble_bit (st : BitVec 58) (b : BitVec 64) (i : Nat) (hi : i < 64) :
    (scramble st b).2.getLsbD i = (b.getLsbD i ^^ (if i < 39 then st.getLsbD (38 - i) else (scramble st b).2.getLsbD (i - 39)) ^^
      (if i < 58 then st.getLsbD (57 - i) else (scramble st b).2.getLsbD (i - 58))) := by
  have hs : scramble st b = scrambled st b 64 := rfl
  obtain ⟨hstate, hout⟩ := scrambled_holds st b i (Nat.le_of_lt hi)
  have hearly : ∀ j, j < i → (scrambled st b i).2.getLsbD j = (scrambled st b 64).2.getLsbD j := fun j hj =>
    (scrambled_stands st b j i hj (Nat.le_of_lt hi)).trans (scrambled_stands st b j 64 (by omega) le_rfl).symm
  have hown : (scrambled st b 64).2.getLsbD i = scrambleOut b (scrambled st b i) i := by
    rw [scrambled_stands st b i 64 hi le_rfl, scrambled_succ, scrambleBit_out b _ i i hi (hout i le_rfl), if_pos rfl]
  have htap : ∀ d, 0 < d → d ≤ 58 → (scrambled st b i).1.getLsbD (d - 1) =
      if i < d then st.getLsbD (d - 1 - i) else (scrambled st b 64).2.getLsbD (i - d) := fun d hp hd => by
    rw [hstate (d - 1) (by omega)]
    by_cases h : i < d
    · rw [if_neg (by omega), if_pos h]
    · rw [if_pos (by omega), if_neg h, hearly _ (by omega), show i - 1 - (d - 1) = i - d by omega]
  rw [hs, hown, scrambleOut, htap 39 (by decide) (by decide), htap 58 (by decide) (by decide)]

/-! ## The frame that goes next (R427) -/

theorem find_first {α : Type} (p : α → Bool) (f : α) (a b : List α) (hf : p f = true) (ha : ∀ e ∈ a, p e = false) :
    (a ++ f :: b).find? p = some f := by
  rw [List.find?_append, List.find?_eq_none.mpr (fun e he => by rw [ha e he]; decide), List.find?_cons_of_pos hf]
  rfl

/-- VC0 goes first. -/
theorem nextFrame_vc0 {x : LinkPart} {f : AggonFrame} {a b : List AggonFrame} (hx : x.vcq = a ++ f :: b) (hf : f.vc = 0) (ha : ∀ e ∈ a, e.vc ≠ 0) :
    nextFrame x = some f := by
  rw [nextFrame, hx, find_first _ f a b (by rw [hf]; rfl) (fun e he => beq_false_of_ne (ha e he))]

/-- With no VC0 frame, the other channels have their turn. -/
theorem nextFrame_turn {x : LinkPart} (hx : ∀ e ∈ x.vcq, e.vc ≠ 0) : nextFrame x = [1, 2, 3, 4].findSome? (fun i =>
    if 0 < x.credit.getD ((x.turn + i - 1) % 4 + 1 - 1) 0 then x.vcq.find? (fun f => f.vc == (x.turn + i - 1) % 4 + 1) else none) := by
  rw [nextFrame, List.find?_eq_none.mpr (fun e he h => hx e he (beq_iff_eq.mp h))]

/-- The channel whose turn it is sends the first of its frames if it holds credit. -/
theorem nextFrame_own {x : LinkPart} {f : AggonFrame} {a b : List AggonFrame} (hx : x.vcq = a ++ f :: b) (h0 : ∀ e ∈ x.vcq, e.vc ≠ 0)
    (hf : f.vc = x.turn % 4 + 1) (ha : ∀ e ∈ a, e.vc ≠ f.vc) (hc : 0 < x.credit.getD (f.vc - 1) 0) : nextFrame x = some f := by
  rw [nextFrame_turn h0, List.findSome?_cons]
  have hv : (x.turn + 1 - 1) % 4 + 1 = f.vc := by omega
  simp only [hv]
  rw [if_pos hc, hx, find_first (fun g : AggonFrame => g.vc == f.vc) f a b (beq_self_eq_true f.vc) (fun e he => beq_false_of_ne (ha e he))]

theorem find_alone {α : Type} (p : α → Bool) (f : α) : [f].find? p = if p f then some f else none := by
  cases h : p f <;> simp [h]

/-- A frame that waits alone goes next if its channel holds credit. -/
theorem nextFrame_alone {x : LinkPart} {f : AggonFrame} (hx : x.vcq = [f]) (hv : f.vc ≤ 4) (hc : f.vc = 0 ∨ 0 < x.credit.getD (f.vc - 1) 0) :
    nextFrame x = some f := by
  rcases Nat.eq_zero_or_pos f.vc with h0 | hp
  · exact nextFrame_vc0 (a := []) hx h0 (fun e he => absurd he List.not_mem_nil)
  · have hcr : 0 < x.credit.getD (f.vc - 1) 0 := hc.resolve_left (by omega)
    rw [nextFrame_turn (fun e he => by rw [hx, List.mem_singleton] at he; subst he; omega), hx]
    have hsome : ∀ g, (∃ i ∈ [1, 2, 3, 4], (if 0 < x.credit.getD ((x.turn + i - 1) % 4 + 1 - 1) 0 then
        [f].find? (fun f => f.vc == (x.turn + i - 1) % 4 + 1) else none) = some g) → g = f := by
      rintro g ⟨i, -, hg⟩
      rw [find_alone] at hg
      split at hg
      · split at hg
        · exact (Option.some.inj hg).symm
        · cases hg
      · cases hg
    have hi : (f.vc + 3 - x.turn % 4) % 4 + 1 ∈ [1, 2, 3, 4] := by
      have h4 := Nat.mod_lt (f.vc + 3 - x.turn % 4) (show 0 < 4 by decide)
      have h : (f.vc + 3 - x.turn % 4) % 4 = 0 ∨ (f.vc + 3 - x.turn % 4) % 4 = 1 ∨ (f.vc + 3 - x.turn % 4) % 4 = 2 ∨
          (f.vc + 3 - x.turn % 4) % 4 = 3 := by omega
      rcases h with h | h | h | h <;> rw [h] <;> decide
    have hturn : (x.turn + ((f.vc + 3 - x.turn % 4) % 4 + 1) - 1) % 4 + 1 = f.vc := by omega
    cases hr : [1, 2, 3, 4].findSome? (fun i => if 0 < x.credit.getD ((x.turn + i - 1) % 4 + 1 - 1) 0 then
        [f].find? (fun f => f.vc == (x.turn + i - 1) % 4 + 1) else none) with
    | some g => exact congrArg some (hsome g (List.exists_of_findSome?_eq_some hr))
    | none =>
      have hnone := List.findSome?_eq_none_iff.mp hr _ hi
      rw [hturn, if_pos hcr, find_alone, if_pos (beq_self_eq_true _)] at hnone
      cases hnone

/-- A channel without credit sends nothing. -/
theorem nextFrame_none {x : LinkPart} {f : AggonFrame} (hx : x.vcq = [f]) (hv : 1 ≤ f.vc) (hc : x.credit.getD (f.vc - 1) 0 = 0) :
    nextFrame x = none := by
  rw [nextFrame_turn (fun e he => by rw [hx, List.mem_singleton] at he; subst he; omega), List.findSome?_eq_none_iff]
  intro i _
  split
  · next h =>
    rw [hx, find_alone, if_neg]
    intro he
    rw [← beq_iff_eq.mp he, hc] at h
    exact absurd h (by decide)
  · rfl

end Sys2Proof.Machine
end

section
/-! SUPPORT. A frame leaves a link that is free for it; a broadcast frame leaves every such link (R424, R427, R430; Machine/Links.lean). -/

namespace Sys2Proof.Machine

theorem frameBytes_le (f : AggonFrame) : frameBytes f ≤ 312 := by
  rw [frameBytes, bodyWords]
  omega

theorem State.modLink_self (s : State) (k : Fin 4) (f : LinkPart → LinkPart) : (s.modLink k f).links[k] = f s.links[k] :=
  Vector.getElem_set_self _

theorem State.modLink_other (s : State) {j k : Fin 4} (f : LinkPart → LinkPart) (h : j ≠ k) : (s.modLink k f).links[j] = s.links[j] :=
  Vector.getElem_set_ne k.isLt j.isLt fun e => h (Fin.ext e.symm)

theorem State.modLink_modLink (s : State) (k : Fin 4) (f g : LinkPart → LinkPart) : (s.modLink k f).modLink k g = s.modLink k (fun x => g (f x)) := by
  have hset : (s.links.set k (f s.links[k])).set k (g (s.links.set k (f s.links[k]))[k]) = s.links.set k (g (f s.links[k])) := by
    rw [Vector.set_set]
    exact congrArg (fun y => s.links.set k (g y)) (Vector.getElem_set_self _)
  exact congrArg (fun l => { s with links := l }) hset

/-- A frame alone waits on a link. -/
def State.queued (s : State) (k : Fin 4) (f : AggonFrame) : State := s.modLink k (fun x => { x with vcq := [f] })

/-- A frame that waited alone on a link has left. -/
def State.departed (s : State) (k : Fin 4) (f : AggonFrame) : State := (s.queued k f).sendNow k f

/-- A link as a frame leaves it, but for its lanes (R424, R427, R428). -/
def LinkPart.sends (x : LinkPart) (f g : AggonFrame) : LinkPart :=
  { x with
    fseq := if f.isLink then x.fseq else x.fseq + 1, unacked := if f.isLink then x.unacked else x.unacked ++ [(g, 0)],
    vcq := [], owed := x.owed.map (fun n => n - 255),
    credit := if f.vc = 0 then x.credit else x.credit.set (f.vc - 1) (x.credit.getD (f.vc - 1) 0 - 1),
    turn := if f.vc = 0 then x.turn else f.vc % 4 }

section
variable (s : State) (k : Fin 4) (f : AggonFrame)

theorem State.putFrame_out : (s.putFrame k f).out = s.out ++ [onLanes s k f] := rfl

theorem State.putFrame_links : (s.putFrame k f).links = (s.modLink k (fun _ => (stripe (blocksOf (frameWire f)) s.links[k]).1)).links := rfl

theorem State.putFrame_self :
    ∃ (sc : Vector (BitVec 58) 5) (n : Nat), (s.putFrame k f).links[k] = { s.links[k] with scramblers := sc, nextLane := n } := by
  rw [State.putFrame_links, s.modLink_self k]
  exact ⟨_, _, stripe_link _ _⟩

theorem State.putFrame_other {j : Fin 4} (h : j ≠ k) : (s.putFrame k f).links[j] = s.links[j] := by
  rw [State.putFrame_links, s.modLink_other _ h]

/-- A link whose queue a frame leaves. -/
def LinkPart.erases (x : LinkPart) (f g : AggonFrame) : LinkPart := { x.sends f g with vcq := x.vcq.erase f }

theorem State.sendNow_eq : s.sendNow k f = (s.modLink k (fun x => x.erases f (sentAs s k f))).putFrame k (sentAs s k f) := rfl

theorem State.departed_eq : s.departed k f = (s.modLink k (fun x => x.sends f (sentAs s k f))).putFrame k (sentAs s k f) := by
  have hg : sentAs (s.queued k f) k f = sentAs s k f := by
    rw [sentAs, sentAs, State.queued, s.modLink_self k]
  rw [State.departed, State.sendNow_eq, hg, State.queued, State.modLink_modLink]
  simp only [LinkPart.erases, List.erase_cons_head]
  rfl

/-- What leaves stands on the lanes as the link stood before. -/
theorem State.departed_out : (s.departed k f).out = s.out ++ [onLanes s k (sentAs s k f)] := by
  rw [s.departed_eq, State.putFrame_out, onLanes, onLanes, s.modLink_self k, stripe_of_lanes (x := s.links[k].sends f (sentAs s k f)) (y := s.links[k]) _ rfl rfl rfl]
  rfl

theorem State.departed_unlinked : (s.departed k f).unlinked = s.unlinked := (State.unlinked_sendNow _ k f).trans (s.unlinked_modLink k _)

theorem State.departed_regs : (s.departed k f).regs = s.regs := by
  have h := congrArg (fun t => State.regs t) (s.departed_unlinked k f)
  exact h

/-- The link as the frame leaves it; its lanes go on. -/
theorem State.departed_link : ∃ (sc : Vector (BitVec 58) 5) (n : Nat),
    (s.departed k f).links[k] = { s.links[k].sends f (sentAs s k f) with scramblers := sc, nextLane := n } := by
  obtain ⟨sc, n, h⟩ := State.putFrame_self (s.modLink k (fun x => x.sends f (sentAs s k f))) k (sentAs s k f)
  rw [s.modLink_self k] at h
  rw [s.departed_eq]
  exact ⟨sc, n, h⟩

theorem State.departed_other {j : Fin 4} (h : j ≠ k) : (s.departed k f).links[j] = s.links[j] := by
  rw [s.departed_eq]
  exact (State.putFrame_other _ k _ h).trans (s.modLink_other _ h)

end

section
variable {s : State} {k : Fin 4} {f : AggonFrame}

theorem linkUp_of (h : s.u (Obj.AGGON.LSTATE k) = 5) : linkUp s k = true := by rw [linkUp, h]; rfl

theorem linkUp_not (h : s.u (Obj.AGGON.LSTATE k) ≠ 5) : linkUp s k = false := beq_false_of_ne h

theorem State.sendFrame_down (h : linkUp s k = false) : s.sendFrame k f = s := if_pos (by rw [h]; rfl)

/-- On a link that is UP with nothing that waits, the frame waits alone for its turn. -/
theorem State.sendFrame_up (hup : linkUp s k = true) (hq : s.links[k].vcq = []) : s.sendFrame k f = (s.queued k f).pumpLink k := by
  rw [State.sendFrame, if_neg (by rw [hup]; decide), State.queued, State.modLink, State.modLink, hq]
  rfl

theorem State.queued_link : (s.queued k f).links[k] = { s.links[k] with vcq := [f] } := s.modLink_self k _

theorem State.pump_queued : (s.queued k f).pumpLink k = if refuses s 7 then s.queued k f else State.pump 1 (s.queued k f) k := by
  rw [State.pumpLink, State.queued_link]
  rfl

theorem State.pump_none (n : Nat) (h : nextFrame s.links[k] = none) : State.pump n s k = s := by
  cases n with
  | zero => rfl
  | succ n => rw [State.pump, h]

theorem State.pumpLink_idle (h : s.links[k].vcq = []) : s.pumpLink k = s := by
  rw [State.pumpLink, h]
  exact ite_self _

/-- One leaves at once on a free link (R427, R428). -/
theorem State.sendFrame_free (hup : linkUp s k = true) (hv : f.vc ≤ 4) (hf : freeLink s k f.vc) : s.sendFrame k f = s.departed k f := by
  obtain ⟨href, hq, hcr, hroom⟩ := hf
  have hnext : nextFrame (s.queued k f).links[k] = some f := by
    rw [State.queued_link]
    exact nextFrame_alone rfl hv hcr
  have hr : replayRoom (s.queued k f).links[k] f = true := by
    rw [State.queued_link]
    have hb := frameBytes_le f
    exact decide_eq_true (Nat.le_trans (Nat.add_le_add_left hb _) hroom)
  rw [State.sendFrame_up hup hq, State.pump_queued, if_neg (by rw [href]; decide), State.pump, hnext]
  dsimp only
  rw [if_pos hr]
  rfl

/-- Without credit, or while the crossing refuses it, the frame waits (R342, R427). -/
theorem State.sendFrame_waits (hup : linkUp s k = true) (hq : s.links[k].vcq = []) (hv : 1 ≤ f.vc)
    (h : s.links[k].credit.getD (f.vc - 1) 0 = 0 ∨ refuses s 7 = true) : s.sendFrame k f = s.queued k f := by
  rw [State.sendFrame_up hup hq, State.pump_queued]
  split
  · rfl
  · next href =>
    have hc := h.resolve_right href
    refine State.pump_none 1 ?_
    rw [State.queued_link]
    exact nextFrame_none rfl hv hc

end

/-! ## Broadcast (R430) -/

/-- The step of a broadcast on one link. -/
def floodStep (except : Option (Fin 4)) (f : AggonFrame) (t : State) (k : Fin 4) : State :=
  if except = some k then t else t.sendFrame k { f with bcast := true }

/-- A broadcast takes the links in turn, and what a link sends depends on that link alone. -/
theorem floodStep_foldl (except : Option (Fin 4)) (f : AggonFrame) (hv : f.vc ≤ 4) (p : Fin 4 → Bool) (l : List (Fin 4)) (hl : l.Nodup) (s : State)
    (hp : ∀ k ∈ l, p k = (linkUp s k && decide (except ≠ some k))) (hf : ∀ k ∈ l, p k = true → freeLink s k f.vc) :
    (l.foldl (floodStep except f) s).unlinked = s.unlinked ∧
    (l.foldl (floodStep except f) s).out = s.out ++ (l.filter p).map (fun k => onLanes s k (sentAs s k { f with bcast := true })) := by
  induction l generalizing s with
  | nil => exact ⟨rfl, (List.append_nil _).symm⟩
  | cons k l ih =>
    obtain ⟨hk, hnd⟩ := List.nodup_cons.mp hl
    have hpk := hp k List.mem_cons_self
    rw [List.foldl_cons]
    cases hb : p k with
    | false =>
      have hstep : floodStep except f s k = s := by
        rw [floodStep]
        split
        · rfl
        · next hx =>
          rw [hb, decide_eq_true (show except ≠ some k from hx), Bool.and_true] at hpk
          exact State.sendFrame_down hpk.symm
      rw [hstep, List.filter_cons_of_neg (by rw [hb]; decide)]
      exact ih hnd s (fun j hj => hp j (List.mem_cons_of_mem _ hj)) (fun j hj => hf j (List.mem_cons_of_mem _ hj))
    | true =>
      rw [hb, eq_comm, Bool.and_eq_true, decide_eq_true_eq] at hpk
      have hstep : floodStep except f s k = s.departed k { f with bcast := true } :=
        (if_neg hpk.2).trans (State.sendFrame_free hpk.1 hv (hf k List.mem_cons_self hb))
      have hregs := s.departed_regs k { f with bcast := true }
      have hlink : ∀ j ∈ l, (s.departed k { f with bcast := true }).links[j] = s.links[j] := fun j hj =>
        s.departed_other k _ fun e => hk (e ▸ hj)
      have hup : ∀ j, linkUp (s.departed k { f with bcast := true }) j = linkUp s j := fun j => by
        rw [linkUp, linkUp, State.u_of_regs hregs]
      obtain ⟨hu, ho⟩ := ih hnd (s.departed k { f with bcast := true }) (fun j hj => (hp j (List.mem_cons_of_mem _ hj)).trans (by rw [hup]))
        (fun j hj hpj => by
          obtain ⟨h1, h2, h3, h4⟩ := hf j (List.mem_cons_of_mem _ hj) hpj
          refine ⟨?_, ?_, ?_, ?_⟩
          · exact (show refuses (s.departed k { f with bcast := true }) 7 = refuses s 7 by
              rw [refuses, refuses, State.bit, State.bit, State.u_of_regs hregs]).trans h1
          all_goals rw [hlink j hj]; assumption)
      rw [hstep, List.filter_cons_of_pos hb, List.map_cons]
      refine ⟨hu.trans (s.departed_unlinked k _), ho.trans ?_⟩
      rw [s.departed_out, List.append_assoc, List.singleton_append]
      refine congrArg (fun m => s.out ++ onLanes s k (sentAs s k { f with bcast := true }) :: m) (List.map_congr_left fun j hj => ?_)
      rw [onLanes, onLanes, sentAs, sentAs, hlink j (List.mem_of_mem_filter hj)]

/-- A broadcast frame leaves every link that is UP and free, but the one it came by. -/
theorem State.flood_free (s : State) (except : Option (Fin 4)) (f : AggonFrame) (p : Fin 4 → Bool) (hv : f.vc ≤ 4)
    (hp : ∀ k, p k = (linkUp s k && decide (except ≠ some k))) (hf : ∀ k, p k = true → freeLink s k f.vc) :
    (s.flood except f).unlinked = s.unlinked ∧
    (s.flood except f).out = s.out ++ ((List.finRange 4).filter p).map (fun k => onLanes s k (sentAs s k { f with bcast := true })) :=
  floodStep_foldl except f hv p (List.finRange 4) (List.nodup_finRange 4) s (fun k _ => hp k) (fun k _ => hf k)

end Sys2Proof.Machine
end

section
/-! SUPPORT. Training of an Aggon link, its lanes and the move to the spare (R419 to R421; Machine/Aggon.lean). -/

namespace Sys2Proof.Machine

section
variable {s : State} {k : Fin 4}

theorem State.put_link (s : State) (r : Reg) (v : Nat) (k : Fin 4) : (s.put r v).links[k] = s.links[k] := by rw [State.put_links]

/-! ## Training (R420) -/

theorem lstate_lt (k : Fin 4) {v : Nat} (hv : v ≤ 5) : v < 2 ^ (Obj.AGGON.LSTATE k).width :=
  Nat.lt_of_le_of_lt hv (by simp only [Obj.AGGON.LSTATE]; decide)

theorem training_iff : training s k = true ↔ (0 < s.u (Obj.AGGON.LSTATE k) ∧ s.u (Obj.AGGON.LSTATE k) < 5) ∧ s.links[k].waiting = false := by
  rw [training, Bool.and_eq_true, Bool.and_eq_true, decide_eq_true_eq, decide_eq_true_eq, Bool.not_eq_true']

theorem training_down (h : training s k = true) : linkUp s k = false := linkUp_not fun e => by
  obtain ⟨⟨-, hlt⟩, -⟩ := training_iff.mp h
  omega

/-- A link whose training has timed out waits, and its retrain counts. -/
def State.timedOut (s : State) (k : Fin 4) : State := (s.bump (Obj.AGGON.RETRAINS k)).modLink k (fun x => { x with waiting := true })

theorem trainingTimeout_fires (h0 : s.u (Obj.AGGON.LSTATE k) ≠ 0) (h5 : s.u (Obj.AGGON.LSTATE k) ≠ 5) (hw : s.links[k].waiting = false) :
    exec (.trainingTimeout k) s = .next (s.timedOut k) :=
  congrArg Host.Outcome.next (if_neg fun h => by
    rw [hw] at h
    rcases h with h | h | h
    · exact h0 h
    · exact h5 h
    · cases h)

theorem trainingTimeout_passed (hw : s.links[k].waiting = true) : exec (.trainingTimeout k) s = .next s :=
  congrArg Host.Outcome.next (if_pos (Or.inr (Or.inr hw)))

theorem State.timedOut_link : (s.timedOut k).links[k].waiting = true := congrArg LinkPart.waiting (State.modLink_self _ k _)

theorem retrain_starts (hw : s.links[k].waiting = true) : exec (.retrain k) s = .next (s.startLink k) := congrArg Host.Outcome.next (if_pos hw)

theorem retrain_idle (hw : s.links[k].waiting = false) : exec (.retrain k) s = .next s :=
  congrArg Host.Outcome.next (if_neg (by rw [hw]; decide))

theorem State.startLink_lstate (s : State) (k : Fin 4) : (s.startLink k).u (Obj.AGGON.LSTATE k) = 1 := State.u_put_of_lt _ _ _ (lstate_lt k (by decide))

theorem State.startLink_kept (s : State) (k : Fin 4) : regsKept s (s.startLink k) [Obj.AGGON.LSTATE k] :=
  regsKept.put (t := s.modLink k _) (.of_regs (.refl s _) rfl) List.mem_cons_self 1

theorem State.startLink_links (s : State) (k : Fin 4) : (s.startLink k).links =
    (s.modLink k (fun x => { peerTwin := x.peerTwin, sent := x.sent, marker := x.marker })).links := rfl

theorem State.startLink_link (s : State) (k : Fin 4) :
    (s.startLink k).links[k] = { peerTwin := s.links[k].peerTwin, sent := s.links[k].sent, marker := s.links[k].marker } := by
  rw [s.startLink_links, s.modLink_self k]

theorem State.startLink_other (s : State) {j k : Fin 4} (h : j ≠ k) : (s.startLink k).links[j] = s.links[j] := by
  rw [s.startLink_links, s.modLink_other _ h]

theorem State.startLink_trains (s : State) (k : Fin 4) : training (s.startLink k) k = true := by
  rw [training_iff, State.startLink_lstate, State.startLink_link]
  exact ⟨by decide, rfl⟩

theorem contains_false {a : Fin 5} {l : List (Fin 5)} (h : a ∉ l) : l.contains a = false :=
  Bool.eq_false_iff.mpr fun e => h (List.contains_iff_mem.mp e)

theorem contains_true {a : Fin 5} {l : List (Fin 5)} (h : a ∈ l) : l.contains a = true := List.contains_iff_mem.mpr h

/-- A lane with block lock (R420). -/
def State.laneLocked (s : State) (k : Fin 4) (lane : Fin 5) : State := s.modLink k (fun x => { x with locked := lane :: x.locked })

theorem blockLock_locks {lane : Fin 5} (ht : training s k = true) (hl : lane ∉ s.links[k].locked) :
    exec (.blockLock k lane) s = .next (if s.u (Obj.AGGON.LSTATE k) = 1 then (s.laneLocked k lane).put (Obj.AGGON.LSTATE k) 2 else s.laneLocked k lane) :=
  congrArg Host.Outcome.next (if_neg (by rw [ht, contains_false hl]; decide))

theorem State.laneLocked_effect {lane : Fin 5} (ht : training s k = true) {t : State}
    (h : t = if s.u (Obj.AGGON.LSTATE k) = 1 then (s.laneLocked k lane).put (Obj.AGGON.LSTATE k) 2 else s.laneLocked k lane) :
    t.links[k].locked = lane :: s.links[k].locked ∧ t.u (Obj.AGGON.LSTATE k) = max 2 (s.u (Obj.AGGON.LSTATE k)) ∧ regsKept s t [Obj.AGGON.LSTATE k] := by
  obtain ⟨⟨hpos, -⟩, -⟩ := training_iff.mp ht
  have hlink : (s.laneLocked k lane).links[k] = { s.links[k] with locked := lane :: s.links[k].locked } := s.modLink_self k _
  have hkept : regsKept s (s.laneLocked k lane) [Obj.AGGON.LSTATE k] := .of_regs (.refl s _) rfl
  subst h
  split
  · next h1 =>
    exact ⟨congrArg LinkPart.locked hlink, by rw [State.u_put_of_lt _ _ _ (lstate_lt k (by decide)), h1]; decide, hkept.put List.mem_cons_self 2⟩
  · have hu : (s.laneLocked k lane).u (Obj.AGGON.LSTATE k) = s.u (Obj.AGGON.LSTATE k) := rfl
    exact ⟨congrArg LinkPart.locked hlink, by rw [hu]; omega, hkept⟩

end

/-! ## Alignment markers (R419 to R421) -/

section
variable (x : LinkPart) (lane phys : Fin 5)

theorem LinkPart.senderOf_crosses : (x.crosses lane phys).senderOf lane = some phys := by
  have hfirst : ((lane, phys) :: x.crossed.filter (fun e => e.1 != lane)).find? (fun e => e.1 == lane) = some (lane, phys) :=
    List.find?_cons_of_pos (beq_self_eq_true lane)
  exact congrArg (Option.map Prod.snd) hfirst

theorem LinkPart.senderOf_crosses_other {q : Fin 5} (h : q ≠ lane) : (x.crosses lane phys).senderOf q = x.senderOf q := by
  have hfind : (x.crossed.filter (fun e => e.1 != lane)).find? (fun e => e.1 == q) = x.crossed.find? (fun e => e.1 == q) := by
    rw [List.find?_filter]
    refine List.find?_congr fun e _ => ?_
    cases he : e.1 == q
    · exact decide_eq_false (by simp)
    · exact decide_eq_true ⟨bne_iff_ne.mpr fun e' => h ((beq_iff_eq.mp he).symm.trans e'), rfl⟩
  have hrest : ((lane, phys) :: x.crossed.filter (fun e => e.1 != lane)).find? (fun e => e.1 == q) = x.crossed.find? (fun e => e.1 == q) :=
    (List.find?_cons_of_neg (by simpa using h.symm)).trans hfind
  exact congrArg (Option.map Prod.snd) hrest

end

section
variable {s : State} {k : Fin 4} {lane phys : Fin 5} {l : Option (Fin 4)} {map : List (Fin 5)} {f : Option (Fin 5)}

theorem alignmentMarker_none (h : l.map (·.val) ≠ map.idxOf? phys) : exec (.alignmentMarker k lane phys l map f) s = .next s :=
  congrArg Host.Outcome.next (if_pos h)

theorem alignmentMarker_unlocked (ht : training s k = true) (hl : lane ∉ s.links[k].locked) : exec (.alignmentMarker k lane phys l map f) s = .next s := by
  show execAlignmentMarker k lane phys l map f s = _
  rw [execAlignmentMarker]
  split
  · rfl
  · rw [if_neg (by rw [training_down ht]; decide), if_pos (Or.inr (by rw [contains_false hl]; rfl))]

/-- A link after a marker in training on a lane that was not aligned. -/
def LinkPart.aligns (x : LinkPart) (lane phys : Fin 5) (map : List (Fin 5)) : LinkPart :=
  { (({ x with aligned := lane :: x.aligned } : LinkPart).crosses lane phys).choose with rx := map }

theorem alignmentMarker_aligns (hm : l.map (·.val) = map.idxOf? phys) (ht : training s k = true) (hl : lane ∈ s.links[k].locked)
    (ha : lane ∉ s.links[k].aligned) : exec (.alignmentMarker k lane phys l map f) s =
      .next (if s.u (Obj.AGGON.LSTATE k) = 2 ∧ 3 ≤ s.links[k].aligned.length then
        (s.modLink k (fun x => x.aligns lane phys map)).put (Obj.AGGON.LSTATE k) 3 else s.modLink k (fun x => x.aligns lane phys map)) := by
  have hadd : (if s.links[k].aligned.contains lane then s.links[k] else { s.links[k] with aligned := lane :: s.links[k].aligned }) =
      { s.links[k] with aligned := lane :: s.links[k].aligned } := if_neg (by rw [contains_false ha]; decide)
  have hmod : s.modLink k (fun x => { (((if x.aligned.contains lane then x else { x with aligned := lane :: x.aligned }).crosses lane phys).choose) with rx := map })
      = s.modLink k (fun x => x.aligns lane phys map) := by
    rw [State.modLink, State.modLink]
    simp only [hadd, LinkPart.aligns]
  show execAlignmentMarker k lane phys l map f s = _
  rw [execAlignmentMarker, if_neg (not_not_intro hm), if_neg (by rw [training_down ht]; decide), if_neg (by rw [ht, contains_true hl]; decide)]
  dsimp only
  rw [hmod, s.modLink_self k]
  have hlen : (s.links[k].aligns lane phys map).aligned.length = s.links[k].aligned.length + 1 := rfl
  have hu : (s.modLink k (fun x => x.aligns lane phys map)).u (Obj.AGGON.LSTATE k) = s.u (Obj.AGGON.LSTATE k) := rfl
  rw [hlen, hu]
  refine congrArg Host.Outcome.next (if_congr ?_ rfl rfl)
  omega

theorem LinkPart.aligns_fields (x : LinkPart) :
    (x.aligns lane phys map).aligned = lane :: x.aligned ∧ (x.aligns lane phys map).rx = map ∧ (x.aligns lane phys map).senderOf lane = some phys ∧
    (∀ q : Fin 5, q ≠ lane → (x.aligns lane phys map).senderOf q = x.senderOf q) ∧
    (x.aligns lane phys map).tx = ((List.finRange 5).filter (fun a => a = lane ∨ a ∈ x.aligned)).take 4 ∧
    (x.aligns lane phys map).spare = ((List.finRange 5).filter (fun a => a = lane ∨ a ∈ x.aligned))[4]? := by
  have hfilter : (List.finRange 5).filter (fun a => (lane :: x.aligned).contains a) = (List.finRange 5).filter (fun a => a = lane ∨ a ∈ x.aligned) :=
    List.filter_congr fun a _ => by simp
  refine ⟨rfl, rfl, LinkPart.senderOf_crosses _ lane phys, fun q hq => LinkPart.senderOf_crosses_other _ lane phys hq, ?_, ?_⟩
  · exact congrArg (List.take 4) hfilter
  · rw [← hfilter, ← List.head?_drop]
    rfl

/-- A marker in training: LSTATE goes from 2 to 3 with the fourth lane. -/
theorem State.aligns_lstate (s : State) (k : Fin 4) (g : LinkPart → LinkPart) (n : Nat) {t : State}
    (h : t = if s.u (Obj.AGGON.LSTATE k) = 2 ∧ 3 ≤ n then (s.modLink k g).put (Obj.AGGON.LSTATE k) 3 else s.modLink k g) :
    t.links[k] = g s.links[k] ∧ (t.u (Obj.AGGON.LSTATE k) = 3 ↔ (s.u (Obj.AGGON.LSTATE k) = 2 ∧ 3 ≤ n) ∨ s.u (Obj.AGGON.LSTATE k) = 3) := by
  subst h
  split
  · next hc =>
    refine ⟨s.modLink_self k g, iff_of_true (State.u_put_of_lt _ _ _ (lstate_lt k (by decide))) (Or.inl hc)⟩
  · next hc =>
    exact ⟨s.modLink_self k g, ⟨Or.inr, fun h => h.resolve_left hc⟩⟩

theorem alignmentMarker_serves (hm : l.map (·.val) = map.idxOf? phys) (hu : s.u (Obj.AGGON.LSTATE k) = 5) :
    exec (.alignmentMarker k lane phys l map f) s = .next (s.modLink k (fun x => (x.crosses lane phys).inService map f)) :=
  congrArg Host.Outcome.next ((if_neg (not_not_intro hm)).trans (if_pos (linkUp_of hu)))

end

/-! ## The move to the spare (R421) -/

section
variable {s : State} {k : Fin 4}

/-- The markers of a link as they leave. -/
theorem emit_foldl {α : Type} (o : α → Out) (l : List α) (s : State) :
    (l.foldl (fun u a => u.emit (o a)) s).regs = s.regs ∧ (l.foldl (fun u a => u.emit (o a)) s).links = s.links ∧
    (l.foldl (fun u a => u.emit (o a)) s).out = s.out ++ l.map o := by
  induction l generalizing s with
  | nil => exact ⟨rfl, rfl, (List.append_nil _).symm⟩
  | cons a l ih =>
    obtain ⟨hr, hl, ho⟩ := ih (s.emit (o a))
    exact ⟨hr, hl, ho.trans (List.append_assoc s.out [o a] _)⟩

theorem alignmentMarkerSend_off (h : s.u (Obj.AGGON.LSTATE k) = 0) : exec (.alignmentMarkerSend k) s = .next s :=
  congrArg Host.Outcome.next (if_pos h)

/-- The links as the move to the spare leaves them. -/
def LinkPart.moved (x : LinkPart) (f sp : Fin 5) : LinkPart :=
  { x with tx := x.tx.map (fun l => if l = f then sp else l), spare := none, move := none }

theorem State.moveLane_moves {f sp : Fin 5} (hm : s.links[k].move = some f) (hs : s.links[k].spare = some sp) : s.moveLane k =
    ((s.modLink k (fun x => x.moved f sp)).bump (Obj.AGGON.LANE_SWITCHES k)).put (Obj.AGGON.LANES k) (lanesOf (s.modLink k (fun x => x.moved f sp)).links[k]) := by
  rw [State.moveLane, hm, hs]
  rfl

theorem State.moveLane_effect {f sp : Fin 5} (hm : s.links[k].move = some f) (hs : s.links[k].spare = some sp)
    (hn : s.u (Obj.AGGON.LANE_SWITCHES k) + 1 < 2 ^ (Obj.AGGON.LANE_SWITCHES k).width) :
    (s.moveLane k).links[k] = s.links[k].moved f sp ∧ (s.moveLane k).out = s.out ∧
    (s.moveLane k).u (Obj.AGGON.LANE_SWITCHES k) = s.u (Obj.AGGON.LANE_SWITCHES k) + 1 ∧
    regsKept s (s.moveLane k) [Obj.AGGON.LANE_SWITCHES k, Obj.AGGON.LANES k] := by
  have hkept : regsKept s (s.modLink k (fun x => x.moved f sp)) [Obj.AGGON.LANE_SWITCHES k, Obj.AGGON.LANES k] := .of_regs (.refl s _) rfl
  rw [State.moveLane_moves hm hs]
  refine ⟨((State.put_link _ _ _ k).trans (State.put_link _ _ _ k)).trans (s.modLink_self k _), rfl, ?_, (hkept.put List.mem_cons_self _).put (List.mem_cons_of_mem _ List.mem_cons_self) _⟩
  rw [State.u_put_ne _ _ _ _ (by simp only [Obj.AGGON.LANES, Obj.AGGON.LANE_SWITCHES]; omega)]
  exact State.u_bump_self (s.modLink k _) _ hn

theorem alignmentMarkerSend_serves (hu : s.u (Obj.AGGON.LSTATE k) = 5) : exec (.alignmentMarkerSend k) s =
    .next (overAll (s.moveLane k) (fun u (l : Fin 5) => u.emit (.marker k l ((s.moveLane k).links[k].tx.idxOf? l) (s.moveLane k).links[k].tx
      (s.moveLane k).links[k].failed))) := by
  show execAlignmentMarkerSend k s = _
  rw [execAlignmentMarkerSend, if_neg (by rw [hu]; decide), linkUp_of hu]
  rfl

/-! ## Lanes that fail (R420, R421) -/

variable {lane p : Fin 5}

theorem laneFailure_serves (hu : s.u (Obj.AGGON.LSTATE k) = 5) (hp : s.links[k].senderOf lane = some p) :
    exec (.laneFailure k lane) s = .next (s.serviceLoss k p) := by
  show execLaneFailure k lane s = _
  rw [execLaneFailure, if_neg (by rw [linkUp_of hu]; decide), hp]

theorem State.serviceLoss_named (h : s.links[k].failed = some p) : s.serviceLoss k p = s := if_pos h

theorem State.serviceLoss_names (hf : s.links[k].failed = none) (hr : p ∈ s.links[k].rx) (hs : s.links[k].rxSpare.isSome = true) :
    s.serviceLoss k p = s.modLink k (fun y => { y with failed := some p, rxSpare := none }) := by
  rw [State.serviceLoss]
  rw [if_neg (by rw [hf]; simp), if_neg (by rw [contains_true hr]; decide), if_pos ⟨hs, by rw [hf]; rfl⟩]

theorem State.serviceLoss_leaves (hf : s.links[k].failed ≠ some p) (hr : p ∈ s.links[k].rx) (hs : s.links[k].rxSpare = none) :
    s.serviceLoss k p = s.leaveService k := by
  rw [State.serviceLoss]
  rw [if_neg hf, if_neg (by rw [contains_true hr]; decide), if_neg (by rw [hs]; simp)]

theorem laneFailure_trains (hu : s.u (Obj.AGGON.LSTATE k) ≠ 5) : exec (.laneFailure k lane) s = .next (s.trainingLoss k lane) :=
  congrArg Host.Outcome.next (if_pos (by rw [linkUp_not hu]; rfl))

/-- A link after a lane is lost in training. -/
def LinkPart.loses (x : LinkPart) (lane : Fin 5) : LinkPart :=
  ({ x with locked := x.locked.filter (· != lane), aligned := x.aligned.filter (· != lane) } : LinkPart).choose

theorem LinkPart.loses_tx (x : LinkPart) (lane : Fin 5) : lane ∉ (x.loses lane).tx := fun h => by
  have hmem : lane ∈ (List.finRange 5).filter (fun a => (x.aligned.filter (· != lane)).contains a) := List.mem_of_mem_take h
  simp at hmem

theorem State.trainingLoss_effect (s : State) (k : Fin 4) (lane : Fin 5) :
    (s.trainingLoss k lane).links[k] = s.links[k].loses lane ∧
    (s.trainingLoss k lane).u (Obj.AGGON.LSTATE k) =
      (if 2 < s.u (Obj.AGGON.LSTATE k) ∧ (s.links[k].loses lane).aligned.length < 4 then 2 else s.u (Obj.AGGON.LSTATE k)) ∧
    regsKept s (s.trainingLoss k lane) [Obj.AGGON.LSTATE k] := by
  have hkept : regsKept s (s.modLink k (fun y => y.loses lane)) [Obj.AGGON.LSTATE k] := .of_regs (.refl s _) rfl
  have hu : (s.modLink k (fun y => y.loses lane)).u (Obj.AGGON.LSTATE k) = s.u (Obj.AGGON.LSTATE k) := rfl
  have h : s.trainingLoss k lane = if 2 < s.u (Obj.AGGON.LSTATE k) ∧ (s.links[k].loses lane).aligned.length < 4 then
      (s.modLink k (fun y => y.loses lane)).put (Obj.AGGON.LSTATE k) 2 else s.modLink k (fun y => y.loses lane) := by
    rw [← s.modLink_self k (fun y => y.loses lane)]
    rfl
  rw [h]
  split
  · exact ⟨(State.put_link _ _ _ k).trans (s.modLink_self k _), State.u_put_of_lt _ _ _ (lstate_lt k (by decide)), hkept.put List.mem_cons_self 2⟩
  · exact ⟨s.modLink_self k _, hu, hkept⟩

end

end Sys2Proof.Machine
end

section
/-! SUPPORT. Haggle, acknowledgement, replay and departure of an Aggon link (R422 to R429; Machine/Aggon.lean, Machine/Links.lean). -/

namespace Sys2Proof.Machine

/-! ## Haggle (R422, R423) -/

section
variable {s : State} {k : Fin 4}

theorem onLanes_of_lanes {s t : State} {k : Fin 4} (f : AggonFrame) (ht : t.links[k].tx = s.links[k].tx)
    (hs : t.links[k].scramblers = s.links[k].scramblers) (hn : t.links[k].nextLane = s.links[k].nextLane) : onLanes t k f = onLanes s k f := by
  rw [onLanes, onLanes, stripe_of_lanes _ ht hs hn]

theorem haggleSend_sends (ht : training s k = true) (h3 : 3 ≤ s.u (Obj.AGGON.LSTATE k)) (hr : refuses s 7 = false) : exec (.haggleSend k) s =
    .next ((s.put (Obj.AGGON.LSTATE k) 4).putFrame k { vc := 4, kind := 7, src := ownId s, body := .haggle (haggleOf s k) }) := by
  show execHaggleSend k s = _
  rw [execHaggleSend, if_neg (by rw [ht]; simpa using h3)]
  dsimp only
  rw [if_neg (by rw [hr]; decide)]

theorem haggleSend_early (h : s.u (Obj.AGGON.LSTATE k) < 3) : exec (.haggleSend k) s = .next s := congrArg Host.Outcome.next (if_pos (Or.inr h))

theorem haggle_early {h : LinkHaggle} (hl : s.links[k].tx.length < 4) : exec (.haggle k h) s = .next s :=
  congrArg Host.Outcome.next (if_pos (Or.inr (Or.inr hl)))

/-- The state in which a haggle has been judged. -/
def State.haggled (s : State) (k : Fin 4) (c : Nat) : State := (s.put (Obj.AGGON.LSTATE k) 4).put (Obj.AGGON.HAGGLE_CAUSE k) c

theorem haggle_judged {h : LinkHaggle} (ht : training s k = true) (h3 : 3 ≤ s.u (Obj.AGGON.LSTATE k)) (hl : 4 ≤ s.links[k].tx.length) :
    exec (.haggle k h) s = .next (if haggleCause s h = 0 then (s.haggled k (haggleCause s h)).linkComesUp k h
      else if s.links[k].told = haggleCause s h then s.haggled k (haggleCause s h)
      else ((s.haggled k (haggleCause s h)).modLink k (fun x => { x with told := haggleCause s h })).log
        { cls := 1, sub := 17, inst := k.val, index := 0x6200, osub := 0x25 + 0x10 * k.val, detail := haggleCause s h }) :=
  congrArg Host.Outcome.next (if_neg fun hn => by
    rw [ht] at hn
    rcases hn with hn | hn | hn
    · cases hn
    · omega
    · omega)

theorem haggleCause_cases (s : State) (h : LinkHaggle) : (h.version ≠ 1 → haggleCause s h = 1) ∧
    (h.version = 1 → h.cluster.toNat ≠ s.u Obj.AGGON.CLUSTER → haggleCause s h = 2) ∧
    (h.version = 1 → h.cluster.toNat = s.u Obj.AGGON.CLUSTER → h.fwMajor.toNat ≠ fwMajor s → haggleCause s h = 3) ∧
    (h.version = 1 → h.cluster.toNat = s.u Obj.AGGON.CLUSTER → h.fwMajor.toNat = fwMajor s → h.deviceId = ownId s → haggleCause s h = 4) :=
  ⟨fun h1 => if_pos h1, fun h1 h2 => (if_neg (not_not_intro h1)).trans (if_pos h2),
    fun h1 h2 h3 => (if_neg (not_not_intro h1)).trans ((if_neg (not_not_intro h2)).trans (if_pos h3)),
    fun h1 h2 h3 h4 => (if_neg (not_not_intro h1)).trans ((if_neg (not_not_intro h2)).trans ((if_neg (not_not_intro h3)).trans (if_pos h4)))⟩

theorem haggleCause_none {h : LinkHaggle} (h1 : h.version = 1) (h2 : h.cluster.toNat = s.u Obj.AGGON.CLUSTER) (h3 : h.fwMajor.toNat = fwMajor s)
    (h4 : h.deviceId ≠ ownId s) : haggleCause s h = 0 :=
  (if_neg (not_not_intro h1)).trans ((if_neg (not_not_intro h2)).trans ((if_neg (not_not_intro h3)).trans (if_neg h4)))

/-! ## Coming UP (R420, R423, R427) -/

theorem State.drainMirror_idle (ho : s.twin.outbox = []) (hq : s.twin.queue = []) : ∃ w : TwinPart, s.drainMirror = { s with twin := w } := by
  rw [State.drainMirror]
  split
  · exact ⟨s.twin, rfl⟩
  · rw [State.flushOutbox, ho]
    dsimp only [List.foldl_nil]
    rw [hq]
    exact ⟨_, rfl⟩

/-- The link as it comes UP. -/
def LinkPart.comesUp (x : LinkPart) (h : LinkHaggle) : LinkPart :=
  { x with
    peerTwin := h.twinPeer, fseq := 0, last := 0xFFFF, unacked := [], failed := none, move := none,
    rxSpare := (x.crossed.find? (fun e => x.aligned.contains e.1 && !x.rx.contains e.2)).map (·.2), discarding := false,
    exchanges := 0, inMean := 0, sumDelay := 0, sumOffset := 0, vcq := [], credit := [0, 0, 0, 0],
    owed := (List.range 4).map (fun v => Config.linkBuffers (v + 1)), turn := 0 }

/-- The Ledger as a link comes UP. -/
def State.comesUp (s : State) (k : Fin 4) (h : LinkHaggle) : State :=
  (((s.modLink k (fun x => x.comesUp h)).put (Obj.AGGON.LSTATE k) 5).put (Obj.AGGON.PEER k) h.deviceId.toNat).put (Obj.AGGON.LANES k)
    (lanesOf (s.modLink k (fun x => x.comesUp h)).links[k])

theorem State.linkComesUp_eq (s : State) (k : Fin 4) (h : LinkHaggle) : s.linkComesUp k h = (s.comesUp k h).markTwinLinks.clusterUpdate := rfl

theorem State.comesUp_link (s : State) (k : Fin 4) (h : LinkHaggle) : (s.comesUp k h).links[k] = s.links[k].comesUp h :=
  (State.put_link _ _ _ k).trans ((State.put_link _ _ _ k).trans ((State.put_link _ _ _ k).trans (s.modLink_self k _)))

/-- The registers of the links that say what a twin link is. -/
def twinLinkRegs : List Reg := (List.finRange 4).map (fun j => Obj.AGGON.LFLAGS j.val)

theorem twinLinkRegs_other {r : Reg} (h : ∀ j : Fin 4, r.key ≠ (Obj.AGGON.LFLAGS j).key) : ∀ x ∈ twinLinkRegs, x.key ≠ r.key := fun x hx => by
  obtain ⟨j, -, rfl⟩ := List.mem_map.mp hx
  exact (h j).symm

/-- Whether a link is a twin link does not lie in LFLAGS. -/
theorem isTwinLink_of {s t : State} (h : onlyRegs s t twinLinkRegs) (k : Fin 4) : isTwinLink t k = isTwinLink s k := by
  have hu : ∀ r : Reg, (∀ j : Fin 4, r.key ≠ (Obj.AGGON.LFLAGS j).key) → t.u r = s.u r := fun r hr => h.2 r (twinLinkRegs_other hr)
  have hlinks : t.links = s.links := by have hl := congrArg State.links h.1; exact hl
  have hnear : ∀ r : Reg, (r.key < 0x6200 * 256 + 0x20 ∨ 0x6300 * 256 ≤ r.key) → t.u r = s.u r := fun r hr =>
    hu r fun j => by have hj := j.isLt; simp only [Obj.AGGON.LFLAGS]; omega
  have hpeer : t.u (Obj.AGGON.PEER k) = s.u (Obj.AGGON.PEER k) := hu _ fun j => by simp only [Obj.AGGON.PEER, Obj.AGGON.LFLAGS]; omega
  have hlstate : t.u (Obj.AGGON.LSTATE k) = s.u (Obj.AGGON.LSTATE k) := hu _ fun j => by simp only [Obj.AGGON.LSTATE, Obj.AGGON.LFLAGS]; omega
  rw [isTwinLink, isTwinLink, linkUp, linkUp, hlstate, hpeer, hlinks, hnear Obj.TWIN.TWIN_EN (.inr (by decide)), hnear Obj.TWIN.PEER_ID (.inr (by decide)),
    State.bit, State.bit, hnear Obj.TWIN.TWIN_LINKS (.inr (by decide)), ownId, ownId, hnear _ (.inl (by decide))]

/-- TWIN_LINK of a link after all have been marked. -/
theorem markTwinLinks_marks (s : State) (k : Fin 4) :
    onlyRegs s (overAll s (fun t (k : Fin 4) => t.putBit (Obj.AGGON.LFLAGS k) Bit.AGGON.LFLAGS.TWIN_LINK (isTwinLink t k))) twinLinkRegs ∧
    (overAll s (fun t (k : Fin 4) => t.putBit (Obj.AGGON.LFLAGS k) Bit.AGGON.LFLAGS.TWIN_LINK (isTwinLink t k))).bit (Obj.AGGON.LFLAGS k)
      Bit.AGGON.LFLAGS.TWIN_LINK = isTwinLink s k := by
  have hmem : ∀ j : Fin 4, Obj.AGGON.LFLAGS j ∈ twinLinkRegs := fun j => List.mem_map.mpr ⟨j, List.mem_finRange j, rfl⟩
  have hstep : ∀ (t : State) (j : Fin 4), onlyRegs s t twinLinkRegs →
      onlyRegs s (t.putBit (Obj.AGGON.LFLAGS j) Bit.AGGON.LFLAGS.TWIN_LINK (isTwinLink t j)) twinLinkRegs := fun t j h => h.put (hmem j) _
  refine overAll_turn (P := fun t => onlyRegs s t twinLinkRegs) (Q := fun t => onlyRegs s t twinLinkRegs ∧
    t.bit (Obj.AGGON.LFLAGS k) Bit.AGGON.LFLAGS.TWIN_LINK = isTwinLink s k) k (fun t j _ h => hstep t j h) (fun t h => ⟨hstep t k h, ?_⟩)
    (fun t j hj h => ⟨hstep t j h.1, ?_⟩) s (.refl _ _)
  · rw [State.bit_putBit_self _ _ _ _ (by simp only [Obj.AGGON.LFLAGS]; decide), isTwinLink_of h]
  · have hne : j.val ≠ k.val := fun e => hj (Fin.ext e)
    rw [State.putBit_eq, State.bit_put_ne _ _ _ _ _ (by simp only [Obj.AGGON.LFLAGS]; omega)]
    exact h.2

/-- What a link that comes UP leaves (R420, R423, R427). -/
theorem State.linkComesUp_effect (s : State) (k : Fin 4) (h : LinkHaggle) (ho : s.twin.outbox = []) (hq : s.twin.queue = []) :
    (s.linkComesUp k h).links[k] = s.links[k].comesUp h ∧
    (∀ b, 0x22 ≤ b → b < 0x2C → ∀ r : Reg, r.key = 0x6200 * 256 + (b + 16 * k.val) → (s.linkComesUp k h).u r = (s.comesUp k h).u r) ∧
    (s.linkComesUp k h).bit (Obj.AGGON.LFLAGS k) Bit.AGGON.LFLAGS.TWIN_LINK = isTwinLink (s.comesUp k h) k := by
  obtain ⟨hregs, hbit⟩ := markTwinLinks_marks (s.comesUp k h) k
  have hlinks := congrArg State.links hregs.1
  have htwin := congrArg State.twin hregs.1
  generalize hm : overAll (s.comesUp k h) (fun t (k : Fin 4) => t.putBit (Obj.AGGON.LFLAGS k) Bit.AGGON.LFLAGS.TWIN_LINK (isTwinLink t k)) = m at *
  obtain ⟨w, hw⟩ := State.drainMirror_idle (s := m) (by rw [htwin]; exact ho) (by rw [htwin]; exact hq)
  have hmark : (s.comesUp k h).markTwinLinks = { m with twin := w } := by
    rw [State.markTwinLinks, hm, hw]
  have hup := State.clusterUpdate_within ({ m with twin := w })
  obtain ⟨-, hcl, -⟩ := clusterScope_parts hup
  rw [State.linkComesUp_eq, hmark]
  refine ⟨?_, fun b hb hb' r hr => ?_, ?_⟩
  · rw [hcl]
    have hml : m.links[k] = (s.comesUp k h).links[k] := by rw [hlinks]
    exact hml.trans (s.comesUp_link k h)
  · obtain ⟨-, hc, -, -⟩ := linkReg (k := k) (by omega : 0x20 ≤ b) (by omega) hr
    refine (hup.reads r hc).trans (hregs.2 r (twinLinkRegs_other fun j => ?_))
    simp only [Obj.AGGON.LFLAGS]
    omega
  · obtain ⟨-, hc, -, -⟩ := linkReg (k := k) (r := Obj.AGGON.LFLAGS k) (b := 0x2C) (by decide) (by decide) rfl
    exact (hup.bit hc _).trans hbit

end

/-! ## Acknowledgement and replay (R428) -/

section
variable {s : State} {k : Fin 4}

theorem linkFrame_acks (nak : Bool) (ack : BitVec 16) (c : BitVec 32) (hu : s.u (Obj.AGGON.LSTATE k) = 5) :
    exec (.linkFrame k nak ack c) s = .next ((if nak then (s.modLink k (fun x => x.acked ack c)).replay k else s.modLink k (fun x => x.acked ack c)).pumpLink k) :=
  congrArg Host.Outcome.next (if_neg (by rw [linkUp_of hu]; decide))

theorem withCredit_bytes (a b c d : Nat) (v : BitVec 32) : withCredit [a, b, c, d] v =
    [a + v.toNat % 256, b + v.toNat / 256 % 256, c + v.toNat / 65536 % 256, d + v.toNat / 16777216 % 256] := by
  have h0 : v.toNat / 256 ^ 0 = v.toNat := by rw [Nat.pow_zero, Nat.div_one]
  simp only [withCredit, List.range_succ, List.range_zero, List.nil_append, List.map_append, List.map_cons, List.map_nil, h0]
  rfl

theorem linkFrame_down (nak : Bool) (ack : BitVec 16) (c : BitVec 32) (hu : s.u (Obj.AGGON.LSTATE k) ≠ 5) : exec (.linkFrame k nak ack c) s = .next s :=
  congrArg Host.Outcome.next (if_pos (by rw [linkUp_not hu]; rfl))

theorem replayTimeout_up (hu : s.u (Obj.AGGON.LSTATE k) = 5) : exec (.replayTimeout k) s = .next (s.replay k) :=
  congrArg Host.Outcome.next (if_pos (linkUp_of hu))

theorem replayTimeout_down (hu : s.u (Obj.AGGON.LSTATE k) ≠ 5) : exec (.replayTimeout k) s = .next s :=
  congrArg Host.Outcome.next (if_neg (by rw [linkUp_not hu]; decide))

theorem badFrame_up (hu : s.u (Obj.AGGON.LSTATE k) = 5) : exec (.badFrame k) s = .next (s.discardFrame k) :=
  congrArg Host.Outcome.next (if_pos (linkUp_of hu))

theorem badFrame_down (hu : s.u (Obj.AGGON.LSTATE k) ≠ 5) : exec (.badFrame k) s = .next s :=
  congrArg Host.Outcome.next (if_neg (by rw [linkUp_not hu]; decide))

theorem linkSilent_up (hu : s.u (Obj.AGGON.LSTATE k) = 5) : exec (.linkSilent k) s =
    .next ((s.logFlag (Obj.AGGON.LFLAGS k) Bit.AGGON.LFLAGS.LINK_SILENT true 17 k.val).leaveService k) :=
  congrArg Host.Outcome.next (if_pos (linkUp_of hu))

theorem linkSilent_down (hu : s.u (Obj.AGGON.LSTATE k) ≠ 5) : exec (.linkSilent k) s = .next s :=
  congrArg Host.Outcome.next (if_neg (by rw [linkUp_not hu]; decide))

/-- Frames go over a link's lanes one after the other, as copies that stay in the replay buffer. -/
theorem putFrames_effect (k : Fin 4) (ack : BitVec 16) (l : List (AggonFrame × Nat)) (s : State) :
    (l.foldl (fun u e => u.putFrame k { e.1 with ack := ack }) s).regs = s.regs ∧
    (l.foldl (fun u e => u.putFrame k { e.1 with ack := ack }) s).links[k].unacked = s.links[k].unacked ∧
    ∃ es : List (List (Fin 5 × BitVec 66)), es.length = l.length ∧
      (l.foldl (fun u e => u.putFrame k { e.1 with ack := ack }) s).out =
        s.out ++ List.zipWith (fun e b => Out.frame k { e.1 with ack := ack } b) l es := by
  induction l generalizing s with
  | nil => exact ⟨rfl, rfl, [], rfl, (List.append_nil _).symm⟩
  | cons e l ih =>
    obtain ⟨hr, hu, es, hlen, ho⟩ := ih (s.putFrame k { e.1 with ack := ack })
    obtain ⟨sc, n, hself⟩ := s.putFrame_self k { e.1 with ack := ack }
    have hun := congrArg LinkPart.unacked hself
    refine ⟨hr, hu.trans hun, (stripe (blocksOf (frameWire { e.1 with ack := ack })) s.links[k]).2 :: es, congrArg (· + 1) hlen, ho.trans ?_⟩
    rw [State.putFrame_out, List.append_assoc]
    rfl

theorem zipWith_counted (g : AggonFrame → List (Fin 5 × BitVec 66) → Out) (l : List (AggonFrame × Nat)) (es : List (List (Fin 5 × BitVec 66))) :
    List.zipWith (fun e b => g e.1 b) (l.map (fun e => (e.1, e.2 + 1))) es = List.zipWith (fun e b => g e.1 b) l es :=
  List.zipWith_map_left ..

/-- The replay buffer as its frames are replayed once more. -/
def State.recounted (s : State) (k : Fin 4) : State :=
  (s.modLink k (fun x => { x with unacked := x.unacked.map (fun e => (e.1, e.2 + 1)) })).bump (Obj.AGGON.REPLAYS k)

theorem State.recounted_link (s : State) (k : Fin 4) :
    (s.recounted k).links[k] = { s.links[k] with unacked := s.links[k].unacked.map (fun e => (e.1, e.2 + 1)) } :=
  (State.put_link _ _ _ k).trans (s.modLink_self k _)

variable {f : AggonFrame} {n : Nat} {l : List (AggonFrame × Nat)}

theorem State.replay_spent (hx : s.links[k].unacked = (f, n) :: l) (hn : 8 ≤ n) : s.replay k = s.leaveService k := by
  rw [State.replay, hx]
  exact if_pos hn

theorem State.replay_replays (hx : s.links[k].unacked = (f, n) :: l) (hn : n < 8) (hr : refuses s 7 = false) : s.replay k =
    (s.recounted k).links[k].unacked.foldl (fun u e => u.putFrame k { e.1 with ack := (s.recounted k).links[k].last }) (s.recounted k) := by
  rw [State.replay, hx]
  exact (if_neg (by omega)).trans (if_neg (by rw [hr]; decide))

/-- Every frame not acknowledged is replayed, in order, with the ACK of what has arrived since (R428). -/
theorem State.replay_effect (hx : s.links[k].unacked = (f, n) :: l) (hn : n < 8) (hr : refuses s 7 = false)
    (hc : s.u (Obj.AGGON.REPLAYS k) + 1 < 2 ^ (Obj.AGGON.REPLAYS k).width) :
    (s.replay k).u (Obj.AGGON.REPLAYS k) = s.u (Obj.AGGON.REPLAYS k) + 1 ∧ regsKept s (s.replay k) [Obj.AGGON.REPLAYS k] ∧
    (s.replay k).links[k].unacked = ((f, n) :: l).map (fun e => (e.1, e.2 + 1)) ∧
    ∃ es : List (List (Fin 5 × BitVec 66)), es.length = l.length + 1 ∧
      (s.replay k).out = s.out ++ List.zipWith (fun e b => Out.frame k { e.1 with ack := s.links[k].last } b) ((f, n) :: l) es := by
  have hlink := s.recounted_link k
  rw [hx] at hlink
  have hkept : regsKept s (s.recounted k) [Obj.AGGON.REPLAYS k] :=
    regsKept.put (t := s.modLink k _) (.of_regs (.refl s _) rfl) List.mem_cons_self _
  have hcount : (s.recounted k).u (Obj.AGGON.REPLAYS k) = s.u (Obj.AGGON.REPLAYS k) + 1 := State.u_bump_self (s.modLink k _) _ hc
  have hout : (s.recounted k).out = s.out := rfl
  rw [State.replay_replays hx hn hr]
  obtain ⟨hregs, hun, es, hlen, ho⟩ := putFrames_effect k (s.recounted k).links[k].last (s.recounted k).links[k].unacked (s.recounted k)
  rw [hlink] at hregs hun hlen ho ⊢
  refine ⟨(State.u_of_regs hregs _).trans hcount, hkept.of_regs hregs, hun, es, hlen.trans (congrArg (· + 1) (List.length_map ..)), ?_⟩
  rw [ho, hout]
  exact congrArg (s.out ++ ·) (zipWith_counted (fun g b => Out.frame k { g with ack := s.links[k].last } b) ((f, n) :: l) es)

end

/-! ## Acceptance (R428) -/

section
variable (s : State) (a : Arrival) (vc : Nat)

/-- The link after a frame has been accepted in order. -/
def LinkPart.accepts (x : LinkPart) (a : Arrival) (vc : Nat) : LinkPart :=
  { x.acked a.ack a.credit with
    last := a.fseq, discarding := false, owed := if vc = 0 then x.owed else x.owed.set (vc - 1) (x.owed.getD (vc - 1) 0 + 1) }

/-- The state in which a frame's arrival has been counted. -/
def State.accepted (s : State) (a : Arrival) (vc : Nat) : State :=
  ((s.modLink a.link (fun x => x.accepts a vc)).add (Obj.AGGON.CE a.link) a.ce).add Obj.MEMORY.POISON_SEEN a.poisoned.length

theorem State.accepted_link : (s.accepted a vc).links[a.link] = s.links[a.link].accepts a vc :=
  (State.put_link _ _ _ _).trans ((State.put_link _ _ _ _).trans (s.modLink_self _ _))

variable {s a}

/-- With nothing that waits on the link no frame leaves with the acceptance. -/
theorem State.acceptFrame_idle (hq : s.links[a.link].vcq = []) : s.acceptFrame a vc = s.accepted a vc :=
  State.pumpLink_idle (s := s.accepted a vc) ((congrArg LinkPart.vcq (s.accepted_link a vc)).trans hq)

theorem State.accepted_only : onlyRegs { s with links := (s.accepted a vc).links } (s.accepted a vc) [Obj.AGGON.CE a.link, Obj.MEMORY.POISON_SEEN] := by
  have h : onlyRegs (s.modLink a.link (fun x => x.accepts a vc)) (s.accepted a vc) [Obj.AGGON.CE a.link, Obj.MEMORY.POISON_SEEN] :=
    ((onlyRegs.refl _ _).put List.mem_cons_self _).put (List.mem_cons_of_mem _ List.mem_cons_self) _
  exact h

theorem State.accepted_ce (h : s.u (Obj.AGGON.CE a.link) + a.ce < 2 ^ 32) : (s.accepted a vc).u (Obj.AGGON.CE a.link) = s.u (Obj.AGGON.CE a.link) + a.ce := by
  rw [State.accepted, State.add_eq _ Obj.MEMORY.POISON_SEEN, State.u_put_ne _ _ _ _ (by simp only [Obj.MEMORY.POISON_SEEN, Obj.AGGON.CE]; omega)]
  exact State.u_add_self (s.modLink a.link _) _ _ h

theorem State.accepted_poison (h : s.u Obj.MEMORY.POISON_SEEN + a.poisoned.length < 2 ^ 32) :
    (s.accepted a vc).u Obj.MEMORY.POISON_SEEN = s.u Obj.MEMORY.POISON_SEEN + a.poisoned.length := by
  have hu : ((s.modLink a.link (fun x => x.accepts a vc)).add (Obj.AGGON.CE a.link) a.ce).u Obj.MEMORY.POISON_SEEN = s.u Obj.MEMORY.POISON_SEEN :=
    State.u_put_ne _ _ _ _ (by simp only [Obj.MEMORY.POISON_SEEN, Obj.AGGON.CE]; omega)
  rw [State.accepted, State.u_add_self _ _ _ (by rw [hu]; exact h), hu]

theorem State.receive_down {act : State → State} (h : linkUp s a.link = false) : s.receive a vc act = s := if_pos (by rw [h]; rfl)

theorem State.receive_old {act : State → State} (hup : linkUp s a.link = true) (hf : a.fseq ≠ s.links[a.link].last + 1)
    (h : seqLe a.fseq s.links[a.link].last = true ∨ s.links[a.link].discarding = true) : s.receive a vc act = s :=
  (if_neg (by rw [hup]; decide)).trans ((if_neg hf).trans (if_pos h))

theorem State.receive_gap {act : State → State} (hup : linkUp s a.link = true) (hf : a.fseq ≠ s.links[a.link].last + 1)
    (h : seqLe a.fseq s.links[a.link].last = false) (hd : s.links[a.link].discarding = false) : s.receive a vc act = s.discardFrame a.link :=
  (if_neg (by rw [hup]; decide)).trans ((if_neg hf).trans (if_neg (by rw [h, hd]; decide)))

end

/-! ## A bad frame (R425, R428) -/

/-- A NAK goes out at once on a free link. -/
theorem State.discardFrame_free {s : State} {k : Fin 4} (hu : s.u (Obj.AGGON.LSTATE k) = 5) (hf : freeLink s k 0) :
    (s.discardFrame k).links[k].discarding = true ∧ (s.discardFrame k).links[k].last = s.links[k].last ∧
    (s.discardFrame k).links[k].fseq = s.links[k].fseq ∧ (s.discardFrame k).links[k].unacked = s.links[k].unacked ∧ (s.discardFrame k).regs = s.regs ∧
    (s.discardFrame k).out = s.out ++ [onLanes s k
      (sentAs s k { vc := 0, kind := 0, src := ownId s, dest := BitVec.ofNat 11 (s.u (Obj.AGGON.PEER k)), nak := true, body := .empty })] := by
  have hself : (s.modLink k (fun x => { x with discarding := true })).links[k] = { s.links[k] with discarding := true } := s.modLink_self k _
  have hfree : freeLink (s.modLink k (fun x => { x with discarding := true })) k 0 := by
    rw [freeLink, hself]
    exact hf
  have hsend := State.sendFrame_free (s := s.modLink k (fun x => { x with discarding := true })) (k := k)
    (f := { vc := 0, kind := 0, src := ownId s, dest := BitVec.ofNat 11 (s.u (Obj.AGGON.PEER k)), nak := true, body := .empty }) (linkUp_of hu) (Nat.zero_le 4) hfree
  have hd : s.discardFrame k = (s.modLink k (fun x => { x with discarding := true })).departed k
    { vc := 0, kind := 0, src := ownId s, dest := BitVec.ofNat 11 (s.u (Obj.AGGON.PEER k)), nak := true, body := .empty } := hsend
  obtain ⟨sc, n, hlink⟩ := (s.modLink k (fun x => { x with discarding := true })).departed_link k
    { vc := 0, kind := 0, src := ownId s, dest := BitVec.ofNat 11 (s.u (Obj.AGGON.PEER k)), nak := true, body := .empty }
  rw [hself] at hlink
  rw [hd, hlink]
  refine ⟨rfl, rfl, rfl, rfl, State.departed_regs _ _ _, (State.departed_out _ _ _).trans ?_⟩
  rw [onLanes_of_lanes (s := s) _ (by rw [hself]) (by rw [hself]) (by rw [hself]), sentAs, sentAs, hself]
  rfl

end Sys2Proof.Machine
end

section
/-! SUPPORT. Departure of an Aggon link from service (R289, R420, R428, R429; Machine/Aggon.lean). -/

namespace Sys2Proof.Machine

section
variable {s : State} {k : Fin 4}

theorem standby_of {s t : State} (he : t.u Obj.TWIN.TWIN_EN = s.u Obj.TWIN.TWIN_EN) (hr : t.u Obj.TWIN.ROLE = s.u Obj.TWIN.ROLE) : standby t = standby s := by
  rw [standby, standby, he, hr]

/-- The Ledger of a link that is no longer UP. -/
def State.linkOff (s : State) (k : Fin 4) : State :=
  ((s.put (Obj.AGGON.PEER k) 0xFFFF).put (Obj.AGGON.LANES k) 0).clrBit (Obj.AGGON.LFLAGS k) Bit.AGGON.LFLAGS.TWIN_LINK

theorem State.linkOff_far (s : State) (k : Fin 4) {r : Reg} (hr : r.key < 0x6200 * 256 + 0x20 ∨ 0x6300 * 256 ≤ r.key) : (s.linkOff k).u r = s.u r := by
  rw [State.linkOff, State.clrBit_eq, State.putBit_eq, State.u_put_ne _ _ _ _ (by simp only [Obj.AGGON.LFLAGS]; omega),
    State.u_put_ne _ _ _ _ (by simp only [Obj.AGGON.LANES]; omega), State.u_put_ne _ _ _ _ (by simp only [Obj.AGGON.PEER]; omega)]

/-- A device that is not STANDBY holds no mirrored deliveries to lose. -/
theorem State.linkGone_idle (h : standby s = false) : s.linkGone k = s.linkOff k :=
  have hst : standby (s.linkOff k) = false := (standby_of (s.linkOff_far k (.inr (by decide))) (s.linkOff_far k (.inr (by decide)))).trans h
  if_neg (show ¬standby (s.linkOff k) = true by rw [hst]; decide)

/-- The registers of a link that has left service. -/
theorem State.linkOff_regs (s : State) (k : Fin 4) : ((s.linkOff k).startLink k).u (Obj.AGGON.LSTATE k) = 1 ∧
    ((s.linkOff k).startLink k).u (Obj.AGGON.PEER k) = 0xFFFF ∧ ((s.linkOff k).startLink k).u (Obj.AGGON.LANES k) = 0 ∧
    ((s.linkOff k).startLink k).bit (Obj.AGGON.LFLAGS k) Bit.AGGON.LFLAGS.TWIN_LINK = false := by
  have hkept := State.startLink_kept (s.linkOff k) k
  have hne : ∀ r : Reg, (Obj.AGGON.LSTATE k).key ≠ r.key → ((s.linkOff k).startLink k).u r = (s.linkOff k).u r := fun r hr =>
    hkept r fun x hx => by rw [List.mem_singleton.mp hx]; exact hr
  refine ⟨State.startLink_lstate _ k, ?_, ?_, ?_⟩
  · rw [hne _ (by simp only [Obj.AGGON.LSTATE, Obj.AGGON.PEER]; omega), State.linkOff, State.clrBit_eq, State.putBit_eq,
      State.u_put_ne _ _ _ _ (by simp only [Obj.AGGON.LFLAGS, Obj.AGGON.PEER]; omega),
      State.u_put_ne _ _ _ _ (by simp only [Obj.AGGON.LANES, Obj.AGGON.PEER]; omega), State.u_put_of_lt _ _ _ (by simp only [Obj.AGGON.PEER]; decide)]
  · rw [hne _ (by simp only [Obj.AGGON.LSTATE, Obj.AGGON.LANES]; omega), State.linkOff, State.clrBit_eq, State.putBit_eq,
      State.u_put_ne _ _ _ _ (by simp only [Obj.AGGON.LFLAGS, Obj.AGGON.LANES]; omega), State.u_put_of_lt _ _ _ (by simp only [Obj.AGGON.LANES]; decide)]
  · rw [State.bit, hne _ (by simp only [Obj.AGGON.LSTATE, Obj.AGGON.LFLAGS]; omega)]
    exact State.bit_putBit_self _ _ _ _ (by simp only [Obj.AGGON.LFLAGS]; decide)

theorem State.linkLeft_idle (h : standby s = false) : s.linkLeft k =
    ((s.linkOff k).startLink k).log { cls := 1, sub := 17, inst := k.val, index := 0x6200, osub := 0x22 + 0x10 * k.val } := by
  rw [State.linkLeft, State.linkGone_idle h]

/-- What stands as a link has left service. -/
theorem State.linkLeft_effect (h : standby s = false) :
    (∀ b, 0x20 ≤ b → b < 0x30 → ∀ r : Reg, r.key = 0x6200 * 256 + (b + 16 * k.val) → (s.linkLeft k).u r = ((s.linkOff k).startLink k).u r) ∧
    (s.linkLeft k).links = ((s.linkOff k).startLink k).links ∧ (s.linkLeft k).mem = s.mem ∧ (s.linkLeft k).stalls = s.stalls := by
  rw [State.linkLeft_idle h]
  refine ⟨fun b hb hb' r hr => ?_, State.log_links _ _, State.log_mem _ _, State.log_stalls _ _⟩
  obtain ⟨-, -, -, hbook⟩ := linkReg (k := k) hb hb' hr
  exact State.u_log _ _ hbook

theorem clockScope_links (h : Within clockScope s t) : t.links = s.links ∧ t.mem = s.mem ∧ t.stalls = s.stalls :=
  ⟨congrArg (fun v => v.links) h.parts, congrArg (fun v => v.mem) h.parts, congrArg (fun v => v.stalls) h.parts⟩

/-- A reference that fails with its link is neither present nor passed. -/
theorem State.refLeft_ref (h : suppliesRef s k = true) : (s.refLeft k).clk.refs[(2 : Fin 3)] = { present := false, passed := false } := by
  rw [State.refLeft, if_pos h, State.disqualify_refs]
  generalize s.linkLeft k = v
  exact (State.modRef_self _ 2 _).trans (congrArg (fun x : RefPart => { x with passed := false }) (State.modRef_self v 2 _))

theorem State.leaveService_regs (hup : linkUp s k = true) (h : standby s = false) {b : Nat} (hb : 0x20 ≤ b) (hb' : b < 0x30) {r : Reg}
    (hr : r.key = 0x6200 * 256 + (b + 16 * k.val)) : (s.leaveService k).u r = ((s.linkOff k).startLink k).u r := by
  obtain ⟨hfar, hcluster, -, -⟩ := linkReg (k := k) hb hb' hr
  obtain ⟨hregs, -⟩ := State.linkLeft_effect (k := k) h
  rw [State.leaveService_up hup, (State.clusterUpdate_within _).reads r hcluster, (State.refLeft_within s k).reads r hfar, hregs b hb hb' r hr]

theorem State.leaveService_links (hup : linkUp s k = true) (h : standby s = false) :
    (s.leaveService k).links = ((s.linkOff k).startLink k).links ∧ (s.leaveService k).mem = s.mem ∧ (s.leaveService k).stalls = s.stalls := by
  obtain ⟨-, hl, hm, hst⟩ := State.linkLeft_effect (k := k) h
  obtain ⟨hl', hm', hst'⟩ := clockScope_links (State.refLeft_within s k)
  obtain ⟨-, hl'', hm'', hst'', -⟩ := clusterScope_parts (State.clusterUpdate_within (s.refLeft k))
  rw [State.leaveService_up hup]
  exact ⟨hl''.trans (hl'.trans hl), hm''.trans (hm'.trans hm), hst''.trans (hst'.trans hst)⟩

/-- What a departure from service leaves (R289, R420, R429). -/
theorem State.leaveService_effect (hup : linkUp s k = true) (h : standby s = false) :
    (s.leaveService k).u (Obj.AGGON.LSTATE k) = 1 ∧ (s.leaveService k).u (Obj.AGGON.PEER k) = 0xFFFF ∧ (s.leaveService k).u (Obj.AGGON.LANES k) = 0 ∧
    (s.leaveService k).bit (Obj.AGGON.LFLAGS k) Bit.AGGON.LFLAGS.TWIN_LINK = false ∧ (s.leaveService k).links[k].unacked = [] ∧
    (s.leaveService k).links[k].exchanges = 0 ∧
    (suppliesRef s k = true → (s.leaveService k).clk.refs[(2 : Fin 3)] = { present := false, passed := false }) ∧
    (∀ j : Fin 4, j ≠ k → (s.leaveService k).links[j] = s.links[j]) ∧ (s.leaveService k).mem = s.mem ∧ (s.leaveService k).stalls = s.stalls := by
  obtain ⟨hls, hpeer, hlanes, hflag⟩ := s.linkOff_regs k
  obtain ⟨hlinks, hmem, hst⟩ := State.leaveService_links hup h
  have hregs : ∀ b, 0x20 ≤ b → b < 0x30 → ∀ r : Reg, r.key = 0x6200 * 256 + (b + 16 * k.val) → (s.leaveService k).u r = ((s.linkOff k).startLink k).u r :=
    fun b hb hb' r hr => State.leaveService_regs hup h hb hb' hr
  have hself := State.startLink_link (s.linkOff k) k
  have hother : ∀ j : Fin 4, j ≠ k → ((s.linkOff k).startLink k).links[j] = s.links[j] := fun j hj => State.startLink_other (s.linkOff k) hj
  generalize (s.linkOff k).startLink k = v at *
  refine ⟨(hregs 0x22 (by decide) (by decide) _ rfl).trans hls,
    (hregs 0x23 (by decide) (by decide) _ rfl).trans hpeer,
    (hregs 0x24 (by decide) (by decide) _ rfl).trans hlanes, ?_, ?_, ?_, fun hs => ?_, fun j hj => ?_, hmem, hst⟩
  · rw [State.bit, hregs 0x2C (by decide) (by decide) (Obj.AGGON.LFLAGS k) rfl]
    exact hflag
  · rw [hlinks, hself]
  · rw [hlinks, hself]
  · rw [State.leaveService_up hup, (clusterScope_parts (State.clusterUpdate_within (s.refLeft k))).1]
    exact State.refLeft_ref hs
  · rw [hlinks]
    exact hother j hj

end

end Sys2Proof.Machine
end

section
/-! SUPPORT. A silent link, and criers to a neighbour (R429; Machine/Aggon.lean). -/

namespace Sys2Proof.Machine

section
variable {s : State} {k : Fin 4}

/-- A link that leaves service keeps its other flags. -/
theorem State.linkOff_flag (s : State) (k : Fin 4) :
    ((s.linkOff k).startLink k).bit (Obj.AGGON.LFLAGS k) Bit.AGGON.LFLAGS.LINK_SILENT = s.bit (Obj.AGGON.LFLAGS k) Bit.AGGON.LFLAGS.LINK_SILENT := by
  have hstart : ((s.linkOff k).startLink k).u (Obj.AGGON.LFLAGS k) = (s.linkOff k).u (Obj.AGGON.LFLAGS k) := State.startLink_kept (s.linkOff k) k _ fun x hx => by
    rw [List.mem_singleton.mp hx]
    simp only [Obj.AGGON.LSTATE, Obj.AGGON.LFLAGS]
    omega
  rw [State.bit, hstart]
  refine (State.bit_putBit _ _ _ Bit.AGGON.LFLAGS.LINK_SILENT false (by simp only [Obj.AGGON.LFLAGS]; decide)).trans ?_
  rw [if_neg (by decide), State.bit_put_ne _ _ _ _ _ (by simp only [Obj.AGGON.LANES, Obj.AGGON.LFLAGS]; omega),
    State.bit_put_ne _ _ _ _ _ (by simp only [Obj.AGGON.PEER, Obj.AGGON.LFLAGS]; omega)]

/-- A link found silent is flagged and leaves service (R429). -/
theorem State.silent_leaves (hu : s.u (Obj.AGGON.LSTATE k) = 5) (hst : standby s = false) {t : State}
    (ht : t = s.logFlag (Obj.AGGON.LFLAGS k) Bit.AGGON.LFLAGS.LINK_SILENT true 17 k.val) :
    (t.leaveService k).bit (Obj.AGGON.LFLAGS k) Bit.AGGON.LFLAGS.LINK_SILENT = true ∧ (t.leaveService k).u (Obj.AGGON.LSTATE k) = 1 := by
  obtain ⟨-, -, -, hflags⟩ := linkReg (k := k) (r := Obj.AGGON.LFLAGS k) (b := 0x2C) (by decide) (by decide) rfl
  obtain ⟨-, -, -, hls⟩ := linkReg (k := k) (r := Obj.AGGON.LSTATE k) (b := 0x22) (by decide) (by decide) rfl
  have hbit : t.bit (Obj.AGGON.LFLAGS k) Bit.AGGON.LFLAGS.LINK_SILENT = true := by
    rw [ht]
    exact State.logFlag_bit _ _ _ _ true (by simp only [Obj.AGGON.LFLAGS]; decide) hflags _ _
  have hup : linkUp t k = true := linkUp_of (by
    rw [ht, State.logFlag_u _ _ _ _ true _ hls (by simp only [Obj.AGGON.LFLAGS, Obj.AGGON.LSTATE]; omega)]
    exact hu)
  have hfar : ∀ r : Reg, bookReg r.key = false → 0x6300 * 256 ≤ r.key → t.u r = s.u r := fun r hb hr => by
    rw [ht, State.logFlag_u _ _ _ _ true _ hb (by simp only [Obj.AGGON.LFLAGS]; omega)]
  have hstand : standby t = false := (standby_of (hfar _ rfl (by decide)) (hfar _ rfl (by decide))).trans hst
  refine ⟨?_, (State.leaveService_effect hup hstand).1⟩
  rw [State.bit, State.leaveService_regs hup hstand (b := 0x2C) (r := Obj.AGGON.LFLAGS k) (by decide) (by decide) rfl]
  exact (t.linkOff_flag k).trans hbit

/-- A crier leaves a free link at once. -/
theorem linkCrierSend_free (hu : s.u (Obj.AGGON.LSTATE k) = 5) (hf : freeLink s k 0) : exec (.linkCrierSend k) s =
    .next (s.departed k { vc := 0, kind := 2, src := ownId s, dest := BitVec.ofNat 11 (s.u (Obj.AGGON.PEER k)), body := .crier none }) :=
  congrArg Host.Outcome.next (State.sendFrame_free (linkUp_of hu) (Nat.zero_le 4) hf)

theorem linkCrierSend_down (hu : s.u (Obj.AGGON.LSTATE k) ≠ 5) : exec (.linkCrierSend k) s = .next s :=
  congrArg Host.Outcome.next (State.sendFrame_down (linkUp_not hu))

/-! ## A haggle judged (R420, R423) -/

section
variable {h : LinkHaggle} {c : Nat} (ht : training s k = true) (h3 : 3 ≤ s.u (Obj.AGGON.LSTATE k)) (hl : 4 ≤ s.links[k].tx.length)
  (hc : haggleCause s h = c)
include ht h3 hl hc

theorem haggle_agrees (h0 : c = 0) : exec (.haggle k h) s = .next ((s.haggled k 0).linkComesUp k h) := by
  subst h0
  have hj := haggle_judged (h := h) ht h3 hl
  rw [hc, if_pos rfl] at hj
  exact hj

theorem haggle_told (h0 : c ≠ 0) (htold : s.links[k].told = c) : exec (.haggle k h) s = .next (s.haggled k c) := by
  have hj := haggle_judged (h := h) ht h3 hl
  rw [hc, if_neg h0, if_pos htold] at hj
  exact hj

theorem haggle_tells (h0 : c ≠ 0) (htold : s.links[k].told ≠ c) : exec (.haggle k h) s = .next (((s.haggled k c).modLink k (fun x => { x with told := c })).log
    { cls := 1, sub := 17, inst := k.val, index := 0x6200, osub := 0x25 + 0x10 * k.val, detail := c }) := by
  have hj := haggle_judged (h := h) ht h3 hl
  rw [hc, if_neg h0, if_neg htold] at hj
  exact hj

end

theorem State.comesUp_far (s : State) (k : Fin 4) (h : LinkHaggle) {r : Reg} (hls : (Obj.AGGON.LSTATE k).key ≠ r.key) (hp : (Obj.AGGON.PEER k).key ≠ r.key)
    (hl : (Obj.AGGON.LANES k).key ≠ r.key) : (s.comesUp k h).u r = s.u r := by
  rw [State.comesUp, State.u_put_ne _ _ _ _ hl, State.u_put_ne _ _ _ _ hp, State.u_put_ne _ _ _ _ hls]
  rfl

theorem State.comesUp_own (s : State) (k : Fin 4) (h : LinkHaggle) :
    (s.comesUp k h).u (Obj.AGGON.LSTATE k) = 5 ∧ (s.comesUp k h).u (Obj.AGGON.PEER k) = h.deviceId.toNat := by
  have hid : h.deviceId.toNat < 2 ^ (Obj.AGGON.PEER k).width := Nat.lt_of_lt_of_le h.deviceId.isLt (by simp only [Obj.AGGON.PEER]; decide)
  rw [State.comesUp]
  refine ⟨?_, ?_⟩
  · rw [State.u_put_ne _ _ _ _ (by simp only [Obj.AGGON.LANES, Obj.AGGON.LSTATE]; omega),
      State.u_put_ne _ _ _ _ (by simp only [Obj.AGGON.PEER, Obj.AGGON.LSTATE]; omega), State.u_put_of_lt _ _ _ (lstate_lt k (by decide))]
  · rw [State.u_put_ne _ _ _ _ (by simp only [Obj.AGGON.LANES, Obj.AGGON.PEER]; omega), State.u_put_of_lt _ _ _ hid]

/-- Whether the link that comes UP is a twin link (R423). -/
theorem comesUp_twin (s : State) (k : Fin 4) (h : LinkHaggle) : isTwinLink (s.comesUp k h) k =
    (s.u Obj.TWIN.TWIN_EN == 1 && h.deviceId.toNat == s.u Obj.TWIN.PEER_ID && h.twinPeer == (ownId s).setWidth 16 && s.bit Obj.TWIN.TWIN_LINKS k.val) := by
  obtain ⟨hls, hpeer⟩ := s.comesUp_own k h
  have hfar : ∀ r : Reg, r.key < 0x6200 * 256 + 0x20 ∨ 0x6300 * 256 ≤ r.key → (s.comesUp k h).u r = s.u r := fun r hr =>
    s.comesUp_far k h (by simp only [Obj.AGGON.LSTATE]; omega) (by simp only [Obj.AGGON.PEER]; omega) (by simp only [Obj.AGGON.LANES]; omega)
  rw [isTwinLink, linkUp_of hls, hpeer, s.comesUp_link, State.bit, State.bit, hfar Obj.TWIN.TWIN_EN (.inr (by decide)),
    hfar Obj.TWIN.PEER_ID (.inr (by decide)), hfar Obj.TWIN.TWIN_LINKS (.inr (by decide)), ownId, ownId, hfar _ (.inl (by decide)), Bool.true_and]
  rfl

theorem State.haggled_far (s : State) (k : Fin 4) (c : Nat) {r : Reg} (hr : r.key < 0x6200 * 256 + 0x20 ∨ 0x6300 * 256 ≤ r.key) :
    (s.haggled k c).u r = s.u r := by
  rw [State.haggled, State.u_put_ne _ _ _ _ (by simp only [Obj.AGGON.HAGGLE_CAUSE]; omega), State.u_put_ne _ _ _ _ (by simp only [Obj.AGGON.LSTATE]; omega)]

end

end Sys2Proof.Machine
end

section

namespace Sys2Proof
open Machine

/-- Settles O44, a link at a time: training and lanes by LSTATE, and frames by what leaves a link that is free. -/
theorem aggonLinks : Obligations.AggonLinks := by
  unfold Obligations.AggonLinks
  refine ⟨fun s k h0 h5 hw hn => ?timeout, fun s k hw => ?retrain, fun s k hw => retrain_idle hw, fun s k lane ht hl => ?locks,
    fun s k lane phys l map f => ⟨alignmentMarker_none, alignmentMarker_unlocked⟩, fun s k lane phys l map f hm ht hl ha => ?aligns,
    fun s k lane phys f l map hu hm => ?serves, fun s k f sp hu hm hs hn => ?moves, fun s k h => alignmentMarkerSend_off h,
    fun s k lane p hu hp hr => ⟨fun hs hf => ?names, fun hf => ?named, fun hs hf => ?last⟩, fun s k lane hu => ?lost, fun s k hu hst => ?leaves,
    fun s k ht h3 hr => ?haggles, fun s k h => haggleSend_early h, fun s k h hl => haggle_early hl,
    fun s k h ht h3 hl h1 h2 hfw hid hq ho => ?comesUp, fun s k h c ht h3 hl hc hne => ⟨fun htold => ?told, fun htold => ?tells⟩,
    fun s h => haggleCause_cases s h, fun s t k ack c hu ht => ?acks, withCredit_bytes, fun s k f hu => State.sendFrame_down (linkUp_not hu),
    fun s k f hu hv hf => ?sends, fun s k f hu hq h1 hv hc => State.sendFrame_waits (linkUp_of hu) hq h1 hc,
    fun l x hx => ⟨stripe_length l x, stripe_nextLane l x hx, fun i hi => stripe_turn l x hx i hi⟩, scramble_bit,
    fun x f a b hx hf ha => nextFrame_vc0 hx hf ha, fun x f a b hx h0 hf ha hc => nextFrame_own hx h0 hf ha hc,
    fun s k ack c nak hu => ⟨linkFrame_down nak ack c hu, replayTimeout_down hu, badFrame_down hu, linkSilent_down hu, linkCrierSend_down hu⟩,
    fun s k f n l hu hx => ⟨fun hn => ?spent, fun hn hr hc => ?replays⟩, fun s k hu hf => ?discards,
    fun s a vc act => ⟨State.receive_down vc, State.receive_next s a vc act, State.receive_old vc, State.receive_gap vc⟩,
    fun s a vc _ hq => ?accepts, fun s k f hu hf hform => ?criers, fun s k hu hst => ?silent⟩
  case timeout =>
    refine ⟨_, trainingTimeout_fires h0 h5 hw, State.u_bump_self s _ hn, State.timedOut_link, ?_,
      .of_regs ((regsKept.refl s _).put List.mem_cons_self _) rfl, trainingTimeout_passed State.timedOut_link⟩
    exact Bool.eq_false_iff.mpr fun ht => by
      obtain ⟨-, hwait⟩ := training_iff.mp ht
      rw [State.timedOut_link] at hwait
      cases hwait
  case retrain =>
    have hlink := State.startLink_link s k
    exact ⟨_, retrain_starts hw, State.startLink_lstate s k, State.startLink_trains s k, by rw [hlink], by rw [hlink], by rw [hlink], State.startLink_kept s k,
      fun j hj => State.startLink_other s hj⟩
  case locks => exact ⟨_, blockLock_locks ht hl, State.laneLocked_effect ht rfl⟩
  case aligns =>
    obtain ⟨hlink, hls⟩ := State.aligns_lstate s k (fun x => x.aligns lane phys map) s.links[k].aligned.length rfl
    obtain ⟨hal, hrx, hown, hother, htx, hsp⟩ := LinkPart.aligns_fields (lane := lane) (phys := phys) (map := map) s.links[k]
    refine ⟨_, alignmentMarker_aligns hm ht hl ha, ?_⟩
    rw [hlink]
    exact ⟨hal, hrx, hown, hother, htx, hsp, hls⟩
  case serves =>
    refine ⟨_, alignmentMarker_serves hm hu, ?_⟩
    rw [State.modLink_self]
    exact ⟨rfl, LinkPart.senderOf_crosses _ lane phys, fun h => if_pos (contains_true h), fun h => if_neg fun hc => h (List.contains_iff_mem.mp hc),
      .of_regs (.refl s _) rfl, rfl⟩
  case moves =>
    obtain ⟨hlink, hout, hcount, hkept⟩ := State.moveLane_effect hm hs hn
    refine ⟨_, alignmentMarkerSend_serves hu, ?_⟩
    obtain ⟨hregs, hlinks, hmarks⟩ := emit_foldl (fun l : Fin 5 => Out.marker k l ((s.moveLane k).links[k].tx.idxOf? l) (s.moveLane k).links[k].tx
      (s.moveLane k).links[k].failed) (List.finRange 5) (s.moveLane k)
    have hself : (overAll (s.moveLane k) (fun u (l : Fin 5) => u.emit (.marker k l ((s.moveLane k).links[k].tx.idxOf? l) (s.moveLane k).links[k].tx
      (s.moveLane k).links[k].failed))).links[k] = s.links[k].moved f sp := (congrArg (fun v : Vector LinkPart 4 => v[k]) hlinks).trans hlink
    rw [hself]
    refine ⟨rfl, rfl, rfl, (State.u_of_regs hregs _).trans hcount, hkept.of_regs hregs, hmarks.trans ?_⟩
    rw [hout, hlink]
    rfl
  case names =>
    have ht := State.serviceLoss_names hf hr hs
    refine ⟨_, laneFailure_serves hu hp, ?_⟩
    rw [ht, State.modLink_self]
    exact ⟨rfl, rfl, rfl, rfl⟩
  case named => exact (laneFailure_serves hu hp).trans (congrArg Host.Outcome.next (State.serviceLoss_named hf))
  case last => exact (laneFailure_serves hu hp).trans (congrArg Host.Outcome.next (State.serviceLoss_leaves hf hr hs))
  case lost =>
    obtain ⟨hlink, hls, hkept⟩ := State.trainingLoss_effect s k lane
    refine ⟨_, laneFailure_trains hu, ?_⟩
    rw [hlink]
    exact ⟨rfl, rfl, LinkPart.loses_tx _ _, fun h2 h4 => hls.trans (if_pos ⟨h2, h4⟩), fun h4 => hls.trans (if_neg fun h => Nat.not_lt.mpr h4 h.2), hkept⟩
  case leaves =>
    obtain ⟨hls, hpeer, hlanes, hflag, hun, hex, href, hother, hmem, hstalls⟩ := State.leaveService_effect (linkUp_of hu) hst
    exact ⟨_, rfl, hls, hpeer, hlanes, hflag, hun, hex, href, fun _ => hother, hmem, hstalls⟩
  case haggles =>
    refine ⟨_, haggleSend_sends ht h3 hr, (onlyRegs.refl (s.putFrame k _) _).put List.mem_cons_self 4, ?_, rfl⟩
    exact State.u_put_of_lt _ _ _ (lstate_lt k (by decide))
  case comesUp =>
    obtain ⟨hlink, hregs, htwin⟩ := State.linkComesUp_effect (s.haggled k 0) k h ho hq
    obtain ⟨hls, hpeer⟩ := (s.haggled k 0).comesUp_own k h
    have hfar : ∀ r : Reg, r.key < 0x6200 * 256 + 0x20 ∨ 0x6300 * 256 ≤ r.key → (s.haggled k 0).u r = s.u r := fun r hr => s.haggled_far k 0 hr
    have hcause : ((s.haggled k 0).comesUp k h).u (Obj.AGGON.HAGGLE_CAUSE k) = 0 := by
      rw [State.comesUp_far _ k h (by simp only [Obj.AGGON.LSTATE, Obj.AGGON.HAGGLE_CAUSE]; omega) (by simp only [Obj.AGGON.PEER, Obj.AGGON.HAGGLE_CAUSE]; omega)
        (by simp only [Obj.AGGON.LANES, Obj.AGGON.HAGGLE_CAUSE]; omega)]
      exact State.u_put_of_lt _ _ _ (by simp only [Obj.AGGON.HAGGLE_CAUSE]; decide)
    refine ⟨_, haggle_agrees ht h3 hl (haggleCause_none h1 h2 hfw hid) rfl, ?_⟩
    rw [hlink, hregs 0x22 (by decide) (by decide) _ rfl, hregs 0x23 (by decide) (by decide) _ rfl, hregs 0x25 (by decide) (by decide) _ rfl, htwin, hls, hpeer,
      hcause, comesUp_twin, State.bit, State.bit, hfar Obj.TWIN.TWIN_EN (.inr (by decide)), hfar Obj.TWIN.PEER_ID (.inr (by decide)),
      hfar Obj.TWIN.TWIN_LINKS (.inr (by decide)), ownId, hfar _ (.inl (by decide))]
    exact ⟨rfl, rfl, rfl, rfl, rfl, rfl, rfl, rfl, rfl, rfl⟩
  case told => exact haggle_told ht h3 hl hc hne htold
  case tells => exact ⟨_, haggle_tells ht h3 hl hc hne htold, rfl, rfl, rfl⟩
  case acks =>
    subst ht
    exact ⟨linkFrame_acks false ack c hu, linkFrame_acks true ack c hu⟩
  case sends =>
    obtain ⟨sc, n, hlink⟩ := s.departed_link k f
    refine ⟨_, State.sendFrame_free (linkUp_of hu) hv hf, s.departed_out k f, ?_⟩
    rw [hlink]
    exact ⟨rfl, fun h => ⟨if_pos h, if_pos h⟩, fun h => ⟨if_neg (by rw [h]; decide), if_neg (by rw [h]; decide)⟩, rfl, rfl, s.departed_regs k f⟩
  case spent => exact (replayTimeout_up hu).trans (congrArg Host.Outcome.next (State.replay_spent hx hn))
  case replays => exact ⟨_, replayTimeout_up hu, State.replay_effect hx hn hr hc⟩
  case discards => exact ⟨_, badFrame_up hu, State.discardFrame_free hu hf⟩
  case accepts =>
    have hlink := s.accepted_link a vc
    refine ⟨_, State.acceptFrame_idle vc hq, State.accepted_only vc, ?_⟩
    rw [hlink]
    exact ⟨rfl, rfl, rfl, rfl, fun h => if_pos h, fun h => if_neg h, State.accepted_ce vc, State.accepted_poison vc⟩
  case criers =>
    obtain ⟨sc, n, hlink⟩ := s.departed_link k { vc := 0, kind := 2, src := ownId s, dest := BitVec.ofNat 11 (s.u (Obj.AGGON.PEER k)), body := .crier none }
    subst hform
    refine ⟨_, linkCrierSend_free hu hf, State.departed_out _ _ _, ?_⟩
    rw [hlink]
    exact ⟨rfl, rfl, State.departed_regs _ _ _⟩
  case silent => exact ⟨_, linkSilent_up hu, State.silent_leaves hu hst rfl⟩

end Sys2Proof
end

section
/-! SUPPORT. The cluster's table and its root: what follows from a change (R430 to R433; Machine/Route.lean). -/

namespace Sys2Proof.Machine

/-! ## Root ranks (R432) -/

/-- A rank goes before another by its items in order. -/
theorem Rank.better_iff (a b : Rank) : a.better b = true ↔ b.privileged.toNat < a.privileged.toNat ∨ (a.privileged.toNat = b.privileged.toNat ∧
    (b.tai.toNat < a.tai.toNat ∨ (a.tai.toNat = b.tai.toNat ∧ (b.pri < a.pri ∨ (a.pri = b.pri ∧ a.dev.toNat < b.dev.toNat))))) := by
  obtain ⟨ap, at', apri, ad⟩ := a
  obtain ⟨bp, bt, bpri, bd⟩ := b
  by_cases hpri : apri = bpri
  · cases ap <;> cases bp <;> cases at' <;> cases bt <;> simp [Rank.better, hpri]
  · cases ap <;> cases bp <;> cases at' <;> cases bt <;> simp [Rank.better, hpri]

theorem Rank.better_irrefl (a : Rank) : a.better a = false := by
  rw [Bool.eq_false_iff, Ne, Rank.better_iff]
  omega

theorem Rank.better_trans {a b c : Rank} (hab : a.better b = true) (hbc : b.better c = true) : a.better c = true := by
  rw [Rank.better_iff] at *
  omega

/-- Of some ranks the best is one of them, and none is better. -/
theorem bestRank_best (l : List Rank) (r : Rank) (h : bestRank l = some r) : r ∈ l ∧ ∀ x ∈ l, x.better r = false := by
  induction l generalizing r with
  | nil => cases h
  | cons a l ih =>
    rw [bestRank] at h
    cases hb : bestRank l with
    | none =>
      rw [hb] at h
      cases h
      have hnil : l = [] := by
        cases l with
        | nil => rfl
        | cons c l =>
          rw [bestRank] at hb
          split at hb <;> cases hb
      subst hnil
      exact ⟨List.mem_cons_self, fun x hx => by rw [List.mem_singleton.mp hx, Rank.better_irrefl]⟩
    | some b =>
      rw [hb] at h
      obtain ⟨hmem, hbest⟩ := ih b hb
      cases hab : a.better b with
      | true =>
        simp only [hab, if_true, Option.some.injEq] at h
        subst h
        refine ⟨List.mem_cons_self, fun x hx => ?_⟩
        rcases List.mem_cons.mp hx with rfl | hx
        · exact Rank.better_irrefl x
        · exact Bool.eq_false_iff.mpr fun hxa => Bool.eq_false_iff.mp (hbest x hx) (Rank.better_trans hxa hab)
      | false =>
        simp only [hab, Bool.false_eq_true, if_false, Option.some.injEq] at h
        subst h
        refine ⟨List.mem_cons_of_mem _ hmem, fun x hx => ?_⟩
        rcases List.mem_cons.mp hx with rfl | hx
        · exact hab
        · exact hbest x hx

theorem eligible_iff (s : State) (r : Rank) : r ∈ eligible s ↔ r ∈ ownRank s :: s.cluster.table.map (fun r => rankOf r.frame) ∧ 0 < r.pri ∧ r.dev ∉ s.cluster.dups := by
  rw [eligible, List.mem_filter, Bool.and_eq_true, decide_eq_true_eq, Bool.not_eq_true', ← Bool.not_eq_true, List.contains_iff_mem]

/-- An eligible device stands in the table. -/
theorem eligible_inTable {s : State} {r : Rank} (h : r ∈ eligible s) : inTable s r.dev = true := by
  obtain ⟨hmem, -, -⟩ := (eligible_iff s r).mp h
  rw [inTable]
  rcases List.mem_cons.mp hmem with rfl | hmem
  · exact Bool.or_eq_true _ _ ▸ Or.inl (beq_self_eq_true _)
  · obtain ⟨x, hx, rfl⟩ := List.mem_map.mp hmem
    exact Bool.or_eq_true _ _ ▸ Or.inr (List.any_eq_true.mpr ⟨x, hx, beq_self_eq_true _⟩)

/-! ## What follows from the table -/

section
variable {s t : State}

theorem figureRegs_cluster (h : Within figureRegs s t) : t.cluster = s.cluster := congrArg (fun v => v.cluster) h.parts

/-- The device as the root is judged anew. -/
def State.rooted (s : State) : State := { s with cluster := { s.cluster with root := rootNow s } }

theorem State.clusterUpdate_regs (s : State) : s.clusterUpdate.regs = s.rooted.clusterFigures.regs := by
  rw [State.clusterUpdate, State.rooted]

theorem State.clusterUpdate_cluster (s : State) : s.clusterUpdate.cluster = { s.cluster with root := rootNow s } := by
  have hkept : s.rooted.clusterFigures.cluster = s.rooted.cluster := figureRegs_cluster s.rooted.clusterFigures_regs
  rw [State.clusterUpdate]
  rw [State.rooted] at hkept
  generalize { s with cluster := { s.cluster with root := rootNow s } }.clusterFigures = v at hkept ⊢
  exact hkept

theorem State.clusterUpdate_u (s : State) (r : Reg) : s.clusterUpdate.u r = s.rooted.clusterFigures.u r := State.u_of_regs s.clusterUpdate_regs r

theorem State.clusterUpdate_bit (s : State) (r : Reg) (b : Nat) : s.clusterUpdate.bit r b = s.rooted.clusterFigures.bit r b := by
  rw [State.bit, State.bit, s.clusterUpdate_u]

/-- No time comes from the cluster to its root, or while none is. -/
theorem State.clusterUpdate_own (s : State) (h : s.clusterUpdate.cluster.root = none ∨ s.clusterUpdate.cluster.root = some (ownId s)) :
    s.clusterUpdate.ep.clusterUsable = false := by
  have hkept : s.rooted.clusterFigures.cluster = s.rooted.cluster := figureRegs_cluster s.rooted.clusterFigures_regs
  have hown : ownId s.rooted.clusterFigures = ownId s := congrArg (BitVec.ofNat 11) ((s.rooted.clusterFigures_regs).reads Obj.AGGON.DEVICE_ID rfl)
  rw [s.clusterUpdate_cluster] at h
  rw [State.clusterUpdate]
  rw [State.rooted] at hkept hown
  generalize { s with cluster := { s.cluster with root := rootNow s } }.clusterFigures = v at hkept hown ⊢
  dsimp only
  rw [hkept, hown, decide_eq_true h]
  rfl

/-- The figures of the table but for its flags. -/
def State.tablePlaced (s : State) : State :=
  let up := upstream s
  let maxHops := ((reach s).filter (fun h => inTable s h.dev)).foldl (fun m h => max m h.hops) 0
  let t := (s.put Obj.AGGON.ROOT_ID ((s.cluster.root.map (·.toNat)).getD 0)).put Obj.AGGON.ROOT_HOPS ((up.map (·.hops)).getD 0)
  let t := (t.put Obj.AGGON.UPSTREAM ((up.map (fun h => h.link.val)).getD 0xFF)).put Obj.AGGON.CLUSTER_SIZE (1 + s.cluster.table.length)
  let t := t.put Obj.AGGON.MAX_HOPS maxHops
  if decide (s.cluster.root = some (ownId s)) then t.put Obj.AGGON.CLUSTER_ERR 0 else t

/-- The flags of the table. -/
def State.tableFlagged (s : State) : State :=
  let maxHops := ((reach s).filter (fun h => inTable s h.dev)).foldl (fun m h => max m h.hops) 0
  ((s.tablePlaced.putBit Obj.AGGON.FLAGS Bit.AGGON.FLAGS.IS_ROOT (decide (s.cluster.root = some (ownId s)))).putBit Obj.AGGON.FLAGS
    Bit.AGGON.FLAGS.NO_ROOT (eligible s).isEmpty).putBit Obj.AGGON.FLAGS Bit.AGGON.FLAGS.DIAM_LIMIT (maxHops == 64)

theorem State.clusterFigures_eq (s : State) :
    s.clusterFigures = overAll (s.tableFlagged.put Obj.CAPTURE.BELL_WORST (bellWorst s)) State.putShallow := rfl

/-- The registers of the cluster are not the bell's. -/
theorem State.clusterFigures_u (s : State) {r : Reg} (hr : 0x6200 * 256 ≤ r.key) : s.clusterFigures.u r = s.tableFlagged.u r := by
  rw [State.clusterFigures_eq]
  refine overAll_induct (P := fun v => v.u r = s.tableFlagged.u r) (fun v q hv => ?_) _ (State.u_put_ne _ _ _ _ (by simp only [Obj.CAPTURE.BELL_WORST]; omega))
  have hlt := q.isLt
  exact (State.u_put_ne _ _ _ _ (by simp only [Obj.REGION.FLAGS]; omega)).trans hv

theorem State.tablePlaced_flag (s : State) (b : Nat) : s.tablePlaced.bit Obj.AGGON.FLAGS b = s.bit Obj.AGGON.FLAGS b := by
  rw [State.tablePlaced]
  have hhead : ∀ (v : State) (r : Reg) (x : Nat), v.bit Obj.AGGON.FLAGS b = s.bit Obj.AGGON.FLAGS b → r.key ≠ Obj.AGGON.FLAGS.key →
      (v.put r x).bit Obj.AGGON.FLAGS b = s.bit Obj.AGGON.FLAGS b := fun v r x hv hr => (State.bit_put_ne _ _ _ _ _ hr).trans hv
  have hmax := hhead _ Obj.AGGON.MAX_HOPS (((reach s).filter (fun h => inTable s h.dev)).foldl (fun m h => max m h.hops) 0)
    (hhead _ Obj.AGGON.CLUSTER_SIZE (1 + s.cluster.table.length) (hhead _ Obj.AGGON.UPSTREAM (((upstream s).map (fun h => h.link.val)).getD 0xFF)
      (hhead _ Obj.AGGON.ROOT_HOPS (((upstream s).map (·.hops)).getD 0) (hhead s Obj.AGGON.ROOT_ID ((s.cluster.root.map (·.toNat)).getD 0) rfl (by decide))
        (by decide)) (by decide)) (by decide)) (by decide)
  split
  · exact hhead _ Obj.AGGON.CLUSTER_ERR 0 hmax (by decide)
  · exact hmax

/-- The flags of the table after a change. -/
theorem State.clusterFigures_flag (s : State) {b : Nat} (hb : b < 32) : s.clusterFigures.bit Obj.AGGON.FLAGS b =
    if b = Bit.AGGON.FLAGS.DIAM_LIMIT then ((reach s).filter (fun h => inTable s h.dev)).foldl (fun m h => max m h.hops) 0 == 64
    else if b = Bit.AGGON.FLAGS.NO_ROOT then (eligible s).isEmpty
    else if b = Bit.AGGON.FLAGS.IS_ROOT then decide (s.cluster.root = some (ownId s)) else s.bit Obj.AGGON.FLAGS b := by
  have hwidth : b < Obj.AGGON.FLAGS.width := hb
  have hu : s.clusterFigures.bit Obj.AGGON.FLAGS b = s.tableFlagged.bit Obj.AGGON.FLAGS b := by
    rw [State.bit, State.bit, s.clusterFigures_u (by decide)]
  rw [hu, State.tableFlagged, State.bit_putBit _ _ _ _ _ hwidth, State.bit_putBit _ _ _ _ _ hwidth, State.bit_putBit _ _ _ _ _ hwidth, s.tablePlaced_flag]
  simp only [eq_comm]

/-- The number of devices of the cluster: those of the table and this one. -/
theorem State.clusterFigures_size (s : State) (h : 1 + s.cluster.table.length < 2 ^ 16) : s.clusterFigures.u Obj.AGGON.CLUSTER_SIZE = 1 + s.cluster.table.length := by
  have hput : ∀ (v : State) (r : Reg) (x : Nat), r.key ≠ Obj.AGGON.CLUSTER_SIZE.key → (v.put r x).u Obj.AGGON.CLUSTER_SIZE = v.u Obj.AGGON.CLUSTER_SIZE :=
    fun v r x hr => State.u_put_ne _ _ _ _ hr
  rw [s.clusterFigures_u (by decide), State.tableFlagged, State.putBit_eq, State.putBit_eq, State.putBit_eq, hput _ _ _ (by decide), hput _ _ _ (by decide),
    hput _ _ _ (by decide), State.tablePlaced]
  split
  · rw [hput _ _ _ (by decide), hput _ _ _ (by decide), State.u_put_of_lt _ _ _ h]
  · rw [hput _ _ _ (by decide), State.u_put_of_lt _ _ _ h]

/-- The root is the source of the cluster's time. -/
theorem State.clusterFigures_root (s : State) (h : s.cluster.root = some (ownId s)) : s.clusterFigures.u Obj.AGGON.CLUSTER_ERR = 0 := by
  have hput : ∀ (v : State) (r : Reg) (x : Nat), r.key ≠ Obj.AGGON.CLUSTER_ERR.key → (v.put r x).u Obj.AGGON.CLUSTER_ERR = v.u Obj.AGGON.CLUSTER_ERR :=
    fun v r x hr => State.u_put_ne _ _ _ _ hr
  rw [s.clusterFigures_u (by decide), State.tableFlagged, State.putBit_eq, State.putBit_eq, State.putBit_eq, hput _ _ _ (by decide), hput _ _ _ (by decide),
    hput _ _ _ (by decide), State.tablePlaced]
  rw [if_pos (decide_eq_true h), State.u_put_of_lt _ _ _ (by decide)]

/-- A change of the table leaves DUP_ID. -/
theorem State.clusterUpdate_dupId (s : State) :
    s.clusterUpdate.bit Obj.AGGON.FLAGS Bit.AGGON.FLAGS.DUP_ID = s.bit Obj.AGGON.FLAGS Bit.AGGON.FLAGS.DUP_ID := by
  rw [s.clusterUpdate_bit, s.rooted.clusterFigures_flag (by decide), if_neg (by decide), if_neg (by decide), if_neg (by decide)]
  rfl

theorem State.clusterUpdate_size (s : State) (h : 1 + s.cluster.table.length < 2 ^ 16) :
    s.clusterUpdate.u Obj.AGGON.CLUSTER_SIZE = 1 + s.cluster.table.length := by
  rw [s.clusterUpdate_u]
  exact s.rooted.clusterFigures_size h

/-- A root that stands in the table stays the root while a device is eligible. -/
theorem rootNow_stays {r : BitVec 11} (hr : s.cluster.root = some r) (he : eligible s ≠ []) (hin : inTable s r = true) : rootNow s = some r := by
  rw [rootNow, hr]
  exact (if_neg (by rw [List.isEmpty_iff]; exact he)).trans (if_pos hin)

theorem rootNow_none (h : s.cluster.root = none) : rootNow s = none := by rw [rootNow, h]

theorem upstream_none (h : s.cluster.root = none) : upstream s = none := by rw [upstream, h]

/-- The root selected stays the root. -/
theorem rootNow_selected (s : State) (hroot : s.cluster.root = (bestRank (eligible s)).map Rank.dev) : rootNow s = s.cluster.root := by
  cases hb : bestRank (eligible s) with
  | none =>
    rw [hb] at hroot
    rw [rootNow_none hroot, hroot]
    rfl
  | some r =>
    rw [hb] at hroot
    obtain ⟨hmem, -⟩ := bestRank_best _ _ hb
    rw [rootNow_stays hroot (List.ne_nil_of_mem hmem) (eligible_inTable hmem), hroot]
    rfl

/-- ROOT_SELECTION takes the best of the eligible devices (R432). -/
theorem rootSelection_selects (s t : State) (h : t = { s with cluster := { s.cluster with root := (bestRank (eligible s)).map Rank.dev } }) :
    t.clusterUpdate.cluster.root = (bestRank (eligible s)).map Rank.dev ∧ t.clusterUpdate.cluster.table = s.cluster.table ∧
    (t.clusterUpdate.bit Obj.AGGON.FLAGS Bit.AGGON.FLAGS.NO_ROOT = (eligible s).isEmpty) ∧
    (t.clusterUpdate.bit Obj.AGGON.FLAGS Bit.AGGON.FLAGS.IS_ROOT = decide (t.clusterUpdate.cluster.root = some (ownId s))) ∧
    (t.clusterUpdate.cluster.root = some (ownId s) → t.clusterUpdate.u Obj.AGGON.CLUSTER_ERR = 0 ∧ t.clusterUpdate.ep.clusterUsable = false) ∧
    t.clusterUpdate.mem = s.mem ∧ t.clusterUpdate.out = s.out := by
  have he : eligible t = eligible s := by rw [h]; rfl
  have hself : ownId t = ownId s := by rw [h]; rfl
  have hroot : t.cluster.root = (bestRank (eligible t)).map Rank.dev := by rw [he, h]
  have hnow : t.clusterUpdate.cluster.root = (bestRank (eligible s)).map Rank.dev := by
    rw [t.clusterUpdate_cluster, ← he, ← hroot]
    exact rootNow_selected t hroot
  have hrooted : t.rooted.cluster.root = t.clusterUpdate.cluster.root := by rw [t.clusterUpdate_cluster]; rfl
  obtain ⟨-, -, hmem, -, -, hout, -⟩ := clusterScope_parts t.clusterUpdate_within
  refine ⟨hnow, ?_, ?_, ?_, fun hr => ⟨?_, ?_⟩, hmem.trans (by rw [h]), hout.trans (by rw [h])⟩
  · rw [t.clusterUpdate_cluster, h]
  · rw [t.clusterUpdate_bit, t.rooted.clusterFigures_flag (by decide), if_neg (by decide), if_pos rfl]
    exact congrArg List.isEmpty he
  · rw [t.clusterUpdate_bit, t.rooted.clusterFigures_flag (by decide), if_neg (by decide), if_neg (by decide), if_pos rfl, hrooted, ← hself]
    rfl
  · rw [t.clusterUpdate_u, t.rooted.clusterFigures_root (by rw [hrooted, hr, ← hself]; rfl)]
  · exact t.clusterUpdate_own (.inr (by rw [hr, hself]))

end

end Sys2Proof.Machine
end

section
/-! SUPPORT. TOPO frames and the time exchange (R430, R431, R434, R435; Machine/Aggon.lean). -/

namespace Sys2Proof.Machine

/-! ## Frames taken in order (R428) -/

section
variable {s u : State} {a : Arrival} {vc : Nat} {act : State → State}

theorem inOrder_receive (h : inOrder s a vc u) : s.receive a vc act = act u := by
  obtain ⟨hup, hf, rfl⟩ := h
  exact s.receive_next a vc act hup hf

theorem ifClean_clean (hp : a.poisoned = []) : ifClean a act u = act u := if_pos (by rw [hp]; rfl)

theorem ifClean_poisoned (hp : a.poisoned ≠ []) : ifClean a act u = u := if_neg (by rw [List.isEmpty_iff]; exact hp)

theorem receive_clean (h : inOrder s a vc u) (hp : a.poisoned = []) : s.receive a vc (ifClean a act) = act u :=
  (inOrder_receive h).trans (ifClean_clean hp)

theorem receive_poisoned (h : inOrder s a vc u) (hp : a.poisoned ≠ []) : s.receive a vc (ifClean a act) = u :=
  (inOrder_receive h).trans (ifClean_poisoned hp)

end

/-! ## TOPO frames (R430, R431) -/

section
variable {s : State}

theorem State.of_unlinked {t : State} (h : t.unlinked = s.unlinked) : t.regs = s.regs ∧ t.cluster = s.cluster := by
  have hr := congrArg (fun v => State.regs v) h
  have hc := congrArg (fun v => State.cluster v) h
  exact ⟨hr, hc⟩

/-- TOPO_SEND floods this device's own frame. -/
theorem topoSend_floods (hf : ∀ k : Fin 4, linkUp s k = true → freeLink s k 4) :
    (s.flood none { vc := 4, kind := 8, src := ownId s, body := .topo (ownTopo s) }).unlinked = s.unlinked ∧
    (s.flood none { vc := 4, kind := 8, src := ownId s, body := .topo (ownTopo s) }).out = s.out ++ ((List.finRange 4).filter (linkUp s)).map
      (fun k => onLanes s k (sentAs s k { vc := 4, kind := 8, bcast := true, src := ownId s, body := .topo (ownTopo s) })) :=
  s.flood_free none _ (linkUp s) (le_refl 4) (fun k => by rw [decide_eq_true (by simp), Bool.and_true]) hf

variable {k : Fin 4} {f : TopoFrame}

/-- A frame that goes on leaves every other link that is UP and free, while hops remain. -/
theorem State.passTopo_passes (hf : ∀ j : Fin 4, j ≠ k → linkUp s j = true → freeLink s j 4) : (s.passTopo k f).unlinked = s.unlinked ∧
    (s.passTopo k f).out = s.out ++ (if f.hops ≤ 1 then [] else ((List.finRange 4).filter (fun j => linkUp s j && decide (j ≠ k))).map (fun j => onLanes s j
      (sentAs s j { vc := 4, kind := 8, bcast := true, src := f.deviceId, hops := f.hops - 1, body := .topo { f with hops := f.hops - 1 } }))) := by
  rw [State.passTopo]
  split
  · exact ⟨rfl, (List.append_nil _).symm⟩
  · refine s.flood_free (some k) _ (fun j => linkUp s j && decide (j ≠ k)) (le_refl 4) (fun j => ?_) (fun j hj => ?_)
    · simp only [ne_eq, Option.some.injEq, eq_comm]
    · obtain ⟨hup, hne⟩ := Bool.and_eq_true_iff.mp hj
      exact hf j (of_decide_eq_true hne) hup

theorem State.passTopo_cluster (s : State) (k : Fin 4) (f : TopoFrame) : (s.passTopo k f).cluster = s.cluster ∧ (s.passTopo k f).regs = s.regs := by
  have hflood : ∀ (e : Option (Fin 4)) (g : AggonFrame), (s.flood e g).unlinked = s.unlinked := fun e g =>
    overAll_induct (P := fun v => v.unlinked = s.unlinked) (fun v j hv => by
      split
      · exact hv
      · rw [State.sendFrame]
        split
        · exact hv
        · exact (State.unlinked_pumpLink _ _).trans hv) s rfl
  rw [State.passTopo]
  split
  · exact ⟨rfl, rfl⟩
  · obtain ⟨hr, hc⟩ := State.of_unlinked (hflood (some k) { vc := 4, kind := 8, src := f.deviceId, hops := f.hops - 1, body := .topo { f with hops := f.hops - 1 } })
    exact ⟨hc, hr⟩

/-- The table with one more device. -/
def State.tableJoined (s : State) (f : TopoFrame) : State :=
  { s with cluster := { s.cluster with table := s.cluster.table ++ [({ frame := f, seen := [f.seq] } : TopoRec)] } }

theorem State.topoOther_new (hn : ∀ r ∈ s.cluster.table, r.frame.deviceId ≠ f.deviceId) : s.topoOther k f = ((s.tableJoined f).passTopo k f).clusterUpdate := by
  have hfind : s.cluster.table.find? (fun r => r.frame.deviceId == f.deviceId) = none :=
    List.find?_eq_none.mpr fun r hr h => hn r hr (beq_iff_eq.mp h)
  rw [State.topoOther, hfind]
  rfl

/-- A device not in the table joins it, and its frame goes on (R430, R431). -/
theorem State.topoOther_joins (hn : ∀ r ∈ s.cluster.table, r.frame.deviceId ≠ f.deviceId) (hlen : s.cluster.table.length < 2047)
    (hf : ∀ j : Fin 4, j ≠ k → linkUp s j = true → freeLink s j 4) :
    (s.topoOther k f).cluster.table = s.cluster.table ++ [{ frame := f, seen := [f.seq] }] ∧
    (s.topoOther k f).u Obj.AGGON.CLUSTER_SIZE = s.cluster.table.length + 2 ∧
    (s.topoOther k f).out = s.out ++ (if f.hops ≤ 1 then [] else ((List.finRange 4).filter (fun j => linkUp s j && decide (j ≠ k))).map (fun j => onLanes s j
      (sentAs s j { vc := 4, kind := 8, bcast := true, src := f.deviceId, hops := f.hops - 1, body := .topo { f with hops := f.hops - 1 } }))) := by
  obtain ⟨hun, hout⟩ := State.passTopo_passes (s := s.tableJoined f) (k := k) (f := f) hf
  obtain ⟨-, hcl⟩ := State.of_unlinked hun
  have htable : ((s.tableJoined f).passTopo k f).cluster.table = s.cluster.table ++ [{ frame := f, seen := [f.seq] }] := by rw [hcl]; rfl
  rw [State.topoOther_new hn]
  generalize (s.tableJoined f).passTopo k f = v at hout htable ⊢
  obtain ⟨-, -, -, -, -, hup, -⟩ := clusterScope_parts v.clusterUpdate_within
  have hsize : v.cluster.table.length = s.cluster.table.length + 1 := by rw [htable, List.length_append]; rfl
  refine ⟨?_, ?_, hup.trans hout⟩
  · rw [v.clusterUpdate_cluster]
    exact htable
  · rw [v.clusterUpdate_size (by omega), hsize]
    omega

/-- A frame of a device of the table that has been seen already goes no further. -/
theorem State.topoOther_seen {r : TopoRec} (ht : s.cluster.table = [r]) (hd : r.frame.deviceId = f.deviceId) (hc : r.frame.serialCrc = f.serialCrc)
    (hs : f.seq ∈ r.seen) : s.topoOther k f = s := by
  have hfind : s.cluster.table.find? (fun r => r.frame.deviceId == f.deviceId) = some r := by
    rw [ht]
    exact List.find?_cons_of_pos (beq_iff_eq.mpr hd)
  rw [State.topoOther, hfind]
  dsimp only
  rw [if_neg (not_not_intro hc), if_pos (List.contains_iff_mem.mpr hs)]

/-- Two frames of one ID with different SERIAL_CRC set DUP_ID (R431). -/
theorem State.dupId_flags {d : BitVec 11} (hd : d ∉ s.cluster.dups) : (s.dupId d).bit Obj.AGGON.FLAGS Bit.AGGON.FLAGS.DUP_ID = true ∧
    d ∈ (s.dupId d).cluster.dups := by
  rw [State.dupId, if_neg fun h => hd (List.contains_iff_mem.mp h)]
  dsimp only
  refine ⟨State.logFlag_bit _ _ _ _ true (by decide) rfl _ _, ?_⟩
  have hrest := State.logFlag_rest ({ s with cluster := { s.cluster with dups := d :: s.cluster.dups } }.clrBit Obj.AGGON.FLAGS Bit.AGGON.FLAGS.DUP_ID)
    Obj.AGGON.FLAGS Bit.AGGON.FLAGS.DUP_ID 17 true 0xFF false
  have hcl := congrArg (fun v => State.cluster v) hrest
  have hkept : (({ s with cluster := { s.cluster with dups := d :: s.cluster.dups } }.clrBit Obj.AGGON.FLAGS Bit.AGGON.FLAGS.DUP_ID).logFlag Obj.AGGON.FLAGS
      Bit.AGGON.FLAGS.DUP_ID true 17).cluster = { s.cluster with dups := d :: s.cluster.dups } := hcl
  rw [hkept]
  exact List.mem_cons_self

/-- A TOPO frame of another device with this one's ID. -/
theorem State.topoOwn_flags (hc : f.serialCrc ≠ (ownTopo s).serialCrc) (hd : f.deviceId ∉ s.cluster.dups) :
    (s.topoOwn k f).bit Obj.AGGON.FLAGS Bit.AGGON.FLAGS.DUP_ID = true ∧ f.deviceId ∈ (s.topoOwn k f).cluster.dups := by
  obtain ⟨hbit, hmem⟩ := State.dupId_flags hd
  rw [State.topoOwn, if_neg hc]
  dsimp only
  generalize s.dupId f.deviceId = v at hbit hmem ⊢
  split
  · exact ⟨hbit, hmem⟩
  · obtain ⟨hcl, hregs⟩ := State.passTopo_cluster { v with cluster := { v.cluster with ownSeen := (f.seq :: v.cluster.ownSeen).take 4096 } } k f
    generalize State.passTopo { v with cluster := { v.cluster with ownSeen := (f.seq :: v.cluster.ownSeen).take 4096 } } k f = w at hcl hregs ⊢
    refine ⟨w.clusterUpdate_dupId.trans ?_, ?_⟩
    · rw [State.bit, State.u_of_regs hregs]
      exact hbit
    · rw [w.clusterUpdate_cluster, hcl]
      exact hmem

theorem route_dup {d : BitVec 11} (h : d ∈ s.cluster.dups) : route s d = none := if_pos (List.contains_iff_mem.mpr h)

/-- The table without a device. -/
def State.agedOut (s : State) (d : BitVec 11) : State :=
  { s with cluster := { s.cluster with
      table := s.cluster.table.filter (fun (r : TopoRec) => r.frame.deviceId != d), dups := s.cluster.dups.filter (· != d) } }

theorem topoAgeOut_eq (s : State) (d : BitVec 11) : exec (.topoAgeOut d) s = .next (if (s.agedOut d).cluster.dups.isEmpty then
    ((s.agedOut d).logFlag Obj.AGGON.FLAGS Bit.AGGON.FLAGS.DUP_ID false 17).clusterUpdate else (s.agedOut d).clusterUpdate) := rfl

theorem State.agedOut_effect (s : State) (d : BitVec 11) {t : State} (ht : t = if (s.agedOut d).cluster.dups.isEmpty then
    ((s.agedOut d).logFlag Obj.AGGON.FLAGS Bit.AGGON.FLAGS.DUP_ID false 17).clusterUpdate else (s.agedOut d).clusterUpdate) :
    t.cluster.table = s.cluster.table.filter (fun r => r.frame.deviceId != d) ∧ t.cluster.dups = s.cluster.dups.filter (fun x => x != d) ∧
    (t.cluster.dups = [] → t.bit Obj.AGGON.FLAGS Bit.AGGON.FLAGS.DUP_ID = false) ∧ t.stalls = s.stalls ∧ t.mem = s.mem := by
  have hupdate : ∀ v : State, v.cluster = (s.agedOut d).cluster → v.stalls = s.stalls → v.mem = s.mem →
      v.clusterUpdate.cluster.table = s.cluster.table.filter (fun r => r.frame.deviceId != d) ∧
      v.clusterUpdate.cluster.dups = s.cluster.dups.filter (fun x => x != d) ∧ v.clusterUpdate.stalls = s.stalls ∧ v.clusterUpdate.mem = s.mem := by
    intro v hcl hst hmem
    obtain ⟨-, -, hm, hs, -⟩ := clusterScope_parts v.clusterUpdate_within
    rw [v.clusterUpdate_cluster, hcl]
    exact ⟨rfl, rfl, hs.trans hst, hm.trans hmem⟩
  subst ht
  split
  · have hrest := State.logFlag_rest (s.agedOut d) Obj.AGGON.FLAGS Bit.AGGON.FLAGS.DUP_ID 17 false 0xFF false
    have hbit := State.logFlag_bit (s.agedOut d) Obj.AGGON.FLAGS Bit.AGGON.FLAGS.DUP_ID 17 false (by decide) rfl 0xFF false
    have hcl := congrArg (fun v => State.cluster v) hrest
    have hst := congrArg (fun v => State.stalls v) hrest
    have hmem := congrArg (fun v => State.mem v) hrest
    generalize (s.agedOut d).logFlag Obj.AGGON.FLAGS Bit.AGGON.FLAGS.DUP_ID false 17 = v at hcl hst hmem hbit ⊢
    obtain ⟨htab, hdup, hs, hm⟩ := hupdate v hcl hst hmem
    exact ⟨htab, hdup, fun _ => v.clusterUpdate_dupId.trans hbit, hs, hm⟩
  · next hne =>
    obtain ⟨htab, hdup, hs, hm⟩ := hupdate (s.agedOut d) rfl rfl rfl
    exact ⟨htab, hdup, fun h => absurd (List.isEmpty_iff.mpr (hdup.symm.trans h)) hne, hs, hm⟩

end

end Sys2Proof.Machine
end

section
/-! SUPPORT. The time exchange over a link (R434, R435; Machine/Aggon.lean). -/

namespace Sys2Proof.Machine

section
variable {s : State} {k : Fin 4}

theorem freeLink_of {s t : State} {k : Fin 4} {v : Nat} (hl : t.links[k].vcq = s.links[k].vcq ∧ t.links[k].credit = s.links[k].credit ∧
    t.links[k].unacked = s.links[k].unacked) (hr : refuses t 7 = refuses s 7) (h : freeLink s k v) : freeLink t k v := by
  obtain ⟨hq, hc, hu⟩ := hl
  rw [freeLink, hq, hc, hu, hr]
  exact h

theorem stampsFine_emit {ch : Fin 21} {x : Stamp} (o : Out) (h : stampsFine s ch x) : stampsFine (s.emit o) ch x := h

/-- A timing marker's edge leaves the links and the registers of Aggon and of the crossings. -/
theorem edged_links (s : State) (ch : Fin 21) (x : Stamp) : (edged s ch x).links = s.links ∧ (edged s ch x).out = s.out := by
  obtain ⟨rs, us, td, h⟩ := edged_eq s ch x
  rw [h]
  exact ⟨rfl, rfl⟩

theorem edged_aggon (s : State) (ch : Fin 21) (x : Stamp) {r : Reg} (hr : 0x6200 * 256 ≤ r.key) : (edged s ch x).u r = s.u r := by
  refine edged_u s ch x r fun y hy => ?_
  have hlt := ch.isLt
  rcases List.mem_cons.mp hy with rfl | hy
  · simp only [Obj.CHANNEL.LAST]; omega
  · rw [List.mem_singleton.mp hy]
    simp only [Obj.CHANNEL.EVENTS]
    omega

theorem timingMarker_down (x : Stamp) (hu : s.u (Obj.AGGON.LSTATE k) ≠ 5) : exec (.timingMarker k x) s = .next s :=
  congrArg Host.Outcome.next (if_pos (by rw [linkUp_not hu]; rfl))

theorem timingMarker_fine (x : Stamp) (hu : s.u (Obj.AGGON.LSTATE k) = 5) (hf : stampsFine s ⟨13 + k.val, by omega⟩ x) : exec (.timingMarker k x) s =
    .next ((edged (s.emit (.timing k)) ⟨13 + k.val, by omega⟩ x).sendTime k x) :=
  congrArg Host.Outcome.next ((if_neg (by rw [linkUp_of hu]; decide)).trans (State.stampChannel_fine _ _ x _ (stampsFine_emit _ hf)))

theorem timingMarker_dead {x : Stamp} {l : Int} {ch : Fin 21} (hu : s.u (Obj.AGGON.LSTATE k) = 5) (hc : ch.val = 13 + k.val) (hl : s.tdc.lastEdge[ch] = some l)
    (h1 : l ≤ (x : Int)) (h2 : (x : Int) < l + 2048) :
    exec (.timingMarker k x) s = .next ((s.emit (.timing k)).bump (Obj.CHANNEL.DEAD_MISS (13 + k.val))) := by
  obtain ⟨c, hlt⟩ := ch
  obtain rfl : c = 13 + k.val := hc
  exact congrArg Host.Outcome.next ((if_neg (by rw [linkUp_of hu]; decide)).trans (State.stampChannel_dead _ _ x _ l hl h1 h2))

/-- The TIME frame of a marker. -/
def timeOf (s : State) (k : Fin 4) (x : Stamp) : AggonFrame :=
  { vc := 0, kind := 3, src := ownId s, dest := BitVec.ofNat 11 (s.u (Obj.AGGON.PEER k)), body := .time x s.links[k].marker (s.u Obj.AGGON.CLUSTER_ERR) }

/-- A TIME frame leaves a free link with the stamp of its marker (R434). -/
theorem State.sendTime_free (x : Stamp) (hup : linkUp s k = true) (hf : freeLink s k 0) : (s.sendTime k x).links[k].sent = x ∧
    (s.sendTime k x).regs = s.regs ∧ (s.sendTime k x).out = s.out ++ [onLanes s k (sentAs s k (timeOf s k x))] := by
  have hself : (s.modLink k (fun y => { y with sent := x })).links[k] = { s.links[k] with sent := x } := s.modLink_self k _
  have hfree : freeLink (s.modLink k (fun y => { y with sent := x })) k 0 := freeLink_of (s := s) (by rw [hself]; exact ⟨rfl, rfl, rfl⟩) rfl hf
  have hsend : s.sendTime k x = (s.modLink k (fun y => { y with sent := x })).departed k (timeOf s k x) :=
    State.sendFrame_free (s := s.modLink k (fun y => { y with sent := x })) hup (Nat.zero_le 4) hfree
  obtain ⟨sc, n, hlink⟩ := (s.modLink k (fun y => { y with sent := x })).departed_link k (timeOf s k x)
  rw [hself] at hlink
  rw [hsend, hlink]
  refine ⟨rfl, State.departed_regs _ _ _, (State.departed_out _ _ _).trans ?_⟩
  rw [onLanes_of_lanes (s := s) _ (by rw [hself]) (by rw [hself]) (by rw [hself]), sentAs, sentAs, hself]
  rfl

/-- A TIME frame as it leaves after an edge, which changes neither links nor their registers. -/
theorem State.sendTime_after {w : State} (x : Stamp) (o : Out) (hlinks : w.links = s.links) (hout : w.out = s.out ++ [o])
    (hfar : ∀ r : Reg, 0x6200 * 256 ≤ r.key → w.u r = s.u r) (hup : linkUp s k = true) (hf : freeLink s k 0) :
    (w.sendTime k x).links[k].sent = x ∧ (w.sendTime k x).regs = w.regs ∧
    (w.sendTime k x).out = s.out ++ [o, onLanes s k (sentAs s k (timeOf s k x))] := by
  have hwup : linkUp w k = true := by rw [linkUp, hfar _ (by simp only [Obj.AGGON.LSTATE]; omega)]; exact hup
  have hid : ownId w = ownId s := congrArg (BitVec.ofNat 11) (hfar _ (by decide))
  have hpeer : w.u (Obj.AGGON.PEER k) = s.u (Obj.AGGON.PEER k) := hfar _ (by simp only [Obj.AGGON.PEER]; omega)
  have herr : w.u Obj.AGGON.CLUSTER_ERR = s.u Obj.AGGON.CLUSTER_ERR := hfar _ (by decide)
  have href : refuses w 7 = refuses s 7 := by rw [refuses, refuses, State.bit, State.bit, hfar _ (by decide)]
  have hlink : w.links[k] = s.links[k] := congrArg (fun v : Vector LinkPart 4 => v[k]) hlinks
  obtain ⟨hsent, hregs, hsends⟩ := State.sendTime_free x hwup (freeLink_of (s := s) (by rw [hlink]; exact ⟨rfl, rfl, rfl⟩) href hf)
  have hframe : timeOf w k x = timeOf s k x := by rw [timeOf, timeOf, hid, hpeer, herr, hlink]
  refine ⟨hsent, hregs, ?_⟩
  rw [hsends, hout, hframe, onLanes, onLanes, sentAs, sentAs, hlink]
  exact List.append_assoc s.out [o] _

theorem State.sendTime_edged (x : Stamp) (ch : Fin 21) (hup : linkUp s k = true) (hf : freeLink s k 0) :
    ((edged (s.emit (.timing k)) ch x).sendTime k x).links[k].sent = x ∧
    ((edged (s.emit (.timing k)) ch x).sendTime k x).regs = (edged (s.emit (.timing k)) ch x).regs ∧
    ((edged (s.emit (.timing k)) ch x).sendTime k x).out = s.out ++ [.timing k, onLanes s k (sentAs s k (timeOf s k x))] := by
  obtain ⟨hlinks, hout⟩ := edged_links (s.emit (.timing k)) ch x
  have hfar : ∀ r : Reg, 0x6200 * 256 ≤ r.key → (edged (s.emit (.timing k)) ch x).u r = s.u r := fun r hr => edged_aggon (s.emit (.timing k)) ch x hr
  generalize edged (s.emit (.timing k)) ch x = w at hlinks hout hfar ⊢
  exact State.sendTime_after x (.timing k) hlinks hout hfar hup hf

/-! ## Exchanges (R434, R435) -/

variable {t1 t2 t3 t4 : Stamp} {err : BitVec 32}

/-- A link that counts one exchange more. -/
def LinkPart.exchanged (x : LinkPart) (t3 t2 : Stamp) : LinkPart :=
  { x with
    exchanges := min 16 (x.exchanges + 1), inMean := x.inMean + 1,
    sumDelay := x.sumDelay + (((t2 : Int) - x.sent) + ((x.marker : Int) - t3)),
    sumOffset := x.sumOffset + (((t2 : Int) - x.sent) - ((x.marker : Int) - t3)) }

theorem State.exchange_counted (hup : upstream s = none) : s.exchange k t3 t2 err =
    if 16 ≤ s.links[k].inMean + 1 then (s.modLink k (fun x => x.exchanged t3 t2)).closeMean k else s.modLink k (fun x => x.exchanged t3 t2) := by
  have hself : (s.modLink k (fun x => x.exchanged t3 t2)).links[k] = s.links[k].exchanged t3 t2 := s.modLink_self k _
  have hup' : upstream (s.modLink k (fun x => x.exchanged t3 t2)) = none := hup
  have heq : s.exchange k t3 t2 err = if 16 ≤ (s.modLink k (fun x => x.exchanged t3 t2)).links[k].inMean then
      (s.modLink k (fun x => x.exchanged t3 t2)).closeMean k else s.modLink k (fun x => x.exchanged t3 t2) := by
    have hmod : s.modLink k (fun x => { x with
        exchanges := min 16 (x.exchanges + 1), inMean := x.inMean + 1, sumDelay := x.sumDelay + (((t2 : Int) - s.links[k].sent) + ((s.links[k].marker : Int) - t3)),
        sumOffset := x.sumOffset + (((t2 : Int) - s.links[k].sent) - ((s.links[k].marker : Int) - t3)) }) = s.modLink k (fun x => x.exchanged t3 t2) := rfl
    rw [State.exchange]
    rw [hmod, hup']
    rfl
  rw [heq, hself]
  rfl

end

end Sys2Proof.Machine
end

section
/-! SUPPORT. The mean of 16 exchanges (R435; Machine/Aggon.lean). -/

namespace Sys2Proof.Machine

section
variable {s : State} {k : Fin 4}

/-- A mean as the Ledger shows it; the next begins. -/
def State.meanShown (s : State) (k : Fin 4) (d : Nat) (off : Int) : State :=
  ((s.modLink k (fun y => { y with inMean := 0, sumDelay := 0, sumOffset := 0 })).put (Obj.AGGON.MEAN_DELAY k) d).puti (Obj.AGGON.OFFSET k) off

theorem State.meanShown_link (s : State) (k : Fin 4) (d : Nat) (off : Int) :
    (s.meanShown k d off).links[k] = { s.links[k] with inMean := 0, sumDelay := 0, sumOffset := 0 } :=
  (State.put_link _ _ _ k).trans ((State.put_link _ _ _ k).trans (s.modLink_self k _))

theorem State.meanShown_regs (s : State) (k : Fin 4) {d : Nat} {off : Int} (hd : d < 2 ^ 32) (hlo : -(2 ^ 63) ≤ off) (hhi : off < 2 ^ 63) :
    (s.meanShown k d off).u (Obj.AGGON.MEAN_DELAY k) = d ∧ (s.meanShown k d off).i (Obj.AGGON.OFFSET k) = off := by
  refine ⟨?_, ?_⟩
  · rw [State.meanShown, State.puti_eq, State.u_put_ne _ _ _ _ (by simp only [Obj.AGGON.OFFSET, Obj.AGGON.MEAN_DELAY]; omega), State.u_put_of_lt _ _ _ hd]
  · rw [State.meanShown, State.i_puti_self]
    exact (toSigned_ofSigned 64 off).trans (BitVec.toInt_ofInt_eq_self (by decide) hlo hhi)

/-- While no root is known a mean of exchanges goes no further than its registers. -/
theorem State.closeMean_eq (hroot : s.cluster.root = none) {d o : Int} (hd : s.links[k].sumDelay = 16384 * d) (ho : s.links[k].sumOffset = 16384 * o)
    (hpos : 0 ≤ d) (ha : s.i (Obj.AGGON.ASYMMETRY k) = 0) : s.closeMean k = (s.meanShown k (d * 625).toNat (o * 625)).clusterUpdate := by
  have hoff : freeRound (s.links[k].sumOffset * 625 - s.i (Obj.AGGON.ASYMMETRY k) * 512 * 16) (512 * 32) = o * 625 := by
    rw [ho, ha, show (16384 * o * 625 - 0 * 512 * 16 : Int) = o * 625 * (512 * 32) by omega]
    exact freeRound_mul (by decide)
  have hdel : freeRound (s.links[k].sumDelay * 625) (512 * 32) = d * 625 := by
    rw [hd, show (16384 * d * 625 : Int) = d * 625 * (512 * 32) by omega]
    exact freeRound_mul (by decide)
  have hup : upstream (s.meanShown k (d * 625).toNat (o * 625)).clusterUpdate = none :=
    upstream_none (by rw [State.clusterUpdate_cluster]; exact rootNow_none hroot)
  rw [State.closeMean, hoff, hdel, if_neg (show ¬d * 625 < 0 by omega)]
  rw [State.meanShown] at hup ⊢
  rw [hup]
  exact if_neg fun h => Bool.false_ne_true h.1

theorem State.clusterUpdate_links (s : State) : s.clusterUpdate.links = s.links := (clusterScope_parts s.clusterUpdate_within).2.1

end

end Sys2Proof.Machine
end

section

namespace Sys2Proof
open Machine

/-- Settles O45, frame by frame: what a flood sends on links that are free, the table and its flags, the root, and the sums of exchanges. -/
theorem clusterTable : Obligations.ClusterTable := by
  unfold Obligations.ClusterTable
  refine ⟨fun s hf => ?sends, fun s a f hu => congrArg Host.Outcome.next (State.receive_down 4 (linkUp_not hu)),
    fun s u a f h hp => congrArg Host.Outcome.next (receive_poisoned h hp), fun s u a f h hp hid hn hlen hf => ?joins,
    fun s u a f r h hp hid ht hd hc hs => ?seen, fun s u a f h hp hid hc hd => ?doubled, fun s d => ⟨_, topoAgeOut_eq s d, s.agedOut_effect d rfl⟩,
    fun s => ⟨_, rfl, rootSelection_selects s _ rfl⟩, bestRank_best, fun s r h => ((eligible_iff s r).mp h).2,
    fun s => ⟨fun hup => congrArg Host.Outcome.next (if_neg (by rw [hup]; decide)), fun hup => congrArg Host.Outcome.next (if_pos (Option.isSome_iff_ne_none.mpr hup))⟩,
    fun s k x hu => timingMarker_down x hu, fun s k x hu hfine hf => ?marks, fun s k x l ch hu hc hl h1 h2 => timingMarker_dead hu hc hl h1 h2,
    fun s a t2 t3 err hu => congrArg Host.Outcome.next (State.receive_down 0 (linkUp_not hu)),
    fun s₀ s a t2 t3 err h hp => congrArg Host.Outcome.next (receive_poisoned h hp), fun s₀ s a k t1 t2 t3 t4 err h hp hk hm hup h1 h4 => ?exchanges,
    fun s₀ s a k t1 t2 t3 t4 err d o h hp hk hm hup hroot h1 h4 hd ho hpos hdlt ha hlo hhi => ?closes⟩
  case sends =>
    obtain ⟨hun, hout⟩ := topoSend_floods hf
    obtain ⟨hregs, hcl⟩ := State.of_unlinked hun
    exact ⟨_, rfl, congrArg (fun c : ClusterPart => c.topoSeq + 1) hcl, hregs, hout⟩
  case joins =>
    have ht : exec (.topo a f) s = .next (u.topoOther a.link f) := congrArg Host.Outcome.next ((receive_clean h hp).trans (if_neg hid))
    exact ⟨_, ht, State.topoOther_joins hn hlen hf⟩
  case seen =>
    exact congrArg Host.Outcome.next ((receive_clean h hp).trans ((if_neg hid).trans (State.topoOther_seen ht hd hc hs)))
  case doubled =>
    have ht : exec (.topo a f) s = .next (u.topoOwn a.link f) := congrArg Host.Outcome.next ((receive_clean h hp).trans (if_pos hid))
    obtain ⟨hbit, hmem⟩ := State.topoOwn_flags (s := u) (k := a.link) (f := f) hc hd
    exact ⟨_, ht, hbit, hmem, route_dup hmem⟩
  case marks =>
    obtain ⟨hsent, hregs, hout⟩ := State.sendTime_edged x ⟨13 + k.val, by omega⟩ (linkUp_of hu) hf
    exact ⟨_, timingMarker_fine x hu hfine, hsent, .of_regs (regsKept_edged (s.emit (.timing k)) _ x) hregs, hout⟩
  case exchanges =>
    subst hk h1 h4
    have ht : exec (.timeFrame a t3 t2 err) s₀ = .next (s.modLink a.link (fun x => x.exchanged t3 t2)) := congrArg Host.Outcome.next
      ((receive_clean h hp).trans ((State.exchange_counted hup).trans (if_neg (by omega))))
    have hlink := s.modLink_self a.link (fun x => x.exchanged t3 t2)
    refine ⟨_, ht, ?_⟩
    rw [hlink]
    exact ⟨rfl, rfl, rfl, rfl, rfl, rfl⟩
  case closes =>
    subst hk h1 h4
    have hlink := s.modLink_self a.link (fun x => x.exchanged t3 t2)
    have hclose := State.closeMean_eq (s := s.modLink a.link (fun x => x.exchanged t3 t2)) (k := a.link) (d := d) (o := o) hroot (by rw [hlink]; exact hd)
      (by rw [hlink]; exact ho) hpos ha
    have ht : exec (.timeFrame a t3 t2 err) s₀ =
        .next ((s.modLink a.link (fun x => x.exchanged t3 t2)).meanShown a.link (d * 625).toNat (o * 625)).clusterUpdate := congrArg Host.Outcome.next
      ((receive_clean h hp).trans ((State.exchange_counted hup).trans ((if_pos (by omega)).trans hclose)))
    have hmean := State.meanShown_link (s.modLink a.link (fun x => x.exchanged t3 t2)) a.link (d * 625).toNat (o * 625)
    obtain ⟨hdelay, hoffset⟩ := State.meanShown_regs (s.modLink a.link (fun x => x.exchanged t3 t2)) a.link (d := (d * 625).toNat) (off := o * 625)
      (by omega) (by omega) (by omega)
    refine ⟨_, ht, ?_⟩
    generalize (s.modLink a.link (fun x => x.exchanged t3 t2)).meanShown a.link (d * 625).toNat (o * 625) = v at hmean hdelay hoffset ⊢
    obtain ⟨-, hcd, -, -⟩ := linkReg (k := a.link) (r := Obj.AGGON.MEAN_DELAY a.link) (b := 0x26) (by decide) (by decide) rfl
    obtain ⟨-, hco, -, -⟩ := linkReg (k := a.link) (r := Obj.AGGON.OFFSET a.link) (b := 0x27) (by decide) (by decide) rfl
    rw [v.clusterUpdate_links, hmean, v.clusterUpdate_within.reads _ hcd, State.i, v.clusterUpdate_within.reads _ hco]
    exact ⟨rfl, rfl, rfl, hdelay, hoffset⟩

end Sys2Proof
end

section
/-! SUPPORT. Roles, claims and what follows them (R446, R447, R450, R451, R453; Machine/Twin.lean). -/

namespace Sys2Proof.Machine

/-! ## The twin's own part -/

/-- A twin's part without what its CLAIM wire shows and what waits for a twin link. -/
def TwinPart.standing (x : TwinPart) : TwinPart := { x with wireOld := 0, wireSince := 0, outbox := [] }

/-- All but the registers of TWIN and the twin's part. -/
def pairScope : Scope where
  blank s := { twin := s.twin.standing }
  regs k := !(k / 256 == 0x6300)
  blind _ _ := rfl

section
variable {s t : State}

theorem pairScope_twin (h : Within pairScope s t) : t.twin.standing = s.twin.standing := congrArg (fun v => v.twin) h.parts

theorem pairReg_of {k : Nat} (h : k / 256 ≠ 0x6300) : pairScope.regs k = true := by
  rw [show pairScope.regs k = !(k / 256 == 0x6300) from rfl, beq_false_of_ne h]
  rfl

theorem pairReg_twin {k : Nat} (h : pairScope.regs k = false) : k / 256 = 0x6300 := by
  rw [show pairScope.regs k = !(k / 256 == 0x6300) from rfl, Bool.not_eq_false', beq_iff_eq] at h
  exact h

theorem pairScope_loss (h : Within lossScope s t) : Within pairScope s t :=
  h.widen (fun _ _ hvw => by have hc := congrArg pairScope.blank hvw; exact hc) fun k hk => by
    rw [show lossScope.regs k = farReg k from rfl, farReg, pairReg_twin hk]
    rfl

theorem pairScope_book (h : Within bookScope s t) : Within pairScope s t := pairScope_loss (lossScope_book h)

theorem pairScope_turn (h : Within turnScope s t) : Within pairScope s t :=
  h.widen (fun _ _ hvw => by have hc := congrArg pairScope.blank hvw; exact hc) fun k hk => by
    rw [show turnScope.regs k = (k / 256 == 0x7100) from rfl, pairReg_twin hk]
    rfl

theorem State.twinStreams_pair (s : State) : Within pairScope s s.twinStreams := by
  refine (Within.refl _ s).overAll fun v k hv => hv.put (pairReg_of ?_) _
  have hlt := k.isLt
  simp only [Obj.STREAM.TWIN]
  omega

theorem pairScope_part (h : Within pairScope s t) {u : State} (hw : u.twin.standing = t.twin.standing) (hr : u.regs = t.regs) : Within pairScope s u :=
  h.trans (.part (congrArg (fun x : TwinPart => ({ twin := x } : State)) hw) hr)

end

/-! ## The own claim (R450, R451) -/

section
variable {s : State}

theorem State.putClaim_new {v : Nat} (h : s.u Obj.TWIN.CLAIM ≠ v) : s.putClaim v =
    ({ s with twin := { s.twin with wireOld := claimOnWire s, wireSince := s.now } }.put Obj.TWIN.CLAIM v).emit (.claim (claimFrame (BitVec.ofNat 24 v))) :=
  if_neg h

theorem State.putClaim_same {v : Nat} (h : s.u Obj.TWIN.CLAIM = v) : s.putClaim v = s := if_pos h

theorem State.putClaim_effect (s : State) {v : Nat} (hv : v < 2 ^ 32) : (s.putClaim v).u Obj.TWIN.CLAIM = v ∧
    (∀ r : Reg, Obj.TWIN.CLAIM.key ≠ r.key → (s.putClaim v).u r = s.u r) ∧ (s.putClaim v).twin.standing = s.twin.standing := by
  by_cases h : s.u Obj.TWIN.CLAIM = v
  · rw [State.putClaim_same h]
    exact ⟨h, fun _ _ => rfl, rfl⟩
  · rw [State.putClaim_new h]
    exact ⟨State.u_put_of_lt _ _ _ hv, fun r hr => State.u_put_ne _ _ _ _ hr, rfl⟩

/-- A change of the claim shows from the next frame on (R450). -/
theorem claimOnWire_put (s : State) {v : Nat} (h : s.u Obj.TWIN.CLAIM ≠ v) : claimOnWire (s.putClaim v) = claimOnWire s := by
  rw [State.putClaim_new h]
  refine if_pos ?_
  have hstart : claimStart (({ s with twin := { s.twin with wireOld := claimOnWire s, wireSince := s.now } }.put Obj.TWIN.CLAIM v).emit
      (.claim (claimFrame (BitVec.ofNat 24 v)))) = s.now / claimTicks * claimTicks := rfl
  rw [hstart]
  exact Int.ofNat_le.mpr (Nat.div_mul_le_self _ _)

theorem claimOf_lt (prio : Nat) (d : BitVec 11) : min 8191 prio * 2048 + d.toNat < 2 ^ 32 := by
  have hd := d.isLt
  omega

theorem priorityOf (prio : Nat) (d : BitVec 11) : (min 8191 prio * 2048 + d.toNat) / 2048 = min 8191 prio := by
  have hd := d.isLt
  omega

/-! ## A role taken (R446, R447) -/

/-- A role and its claim, before the plant and the streams follow. -/
def State.roleClaimed (s : State) (role prio : Nat) : State := (s.put Obj.TWIN.ROLE role).setClaim prio

theorem State.takeRole_eq (s : State) (role prio : Nat) : s.takeRole role prio = ((s.roleClaimed role prio).plantTurn).twinStreams := rfl

theorem State.roleClaimed_effect (s : State) {role : Nat} (prio : Nat) (hr : role < 256) :
    (s.roleClaimed role prio).u Obj.TWIN.ROLE = role ∧ (s.roleClaimed role prio).u Obj.TWIN.CLAIM = min 8191 prio * 2048 + (ownId s).toNat ∧
    (∀ r : Reg, Obj.TWIN.ROLE.key ≠ r.key → Obj.TWIN.CLAIM.key ≠ r.key → (s.roleClaimed role prio).u r = s.u r) ∧
    (s.roleClaimed role prio).twin.standing = s.twin.standing := by
  have hid : ownId (s.put Obj.TWIN.ROLE role) = ownId s := congrArg (BitVec.ofNat 11) (State.u_put_ne _ _ _ _ (by decide))
  obtain ⟨hclaim, hkept, htwin⟩ := (s.put Obj.TWIN.ROLE role).putClaim_effect (claimOf_lt prio (ownId (s.put Obj.TWIN.ROLE role)))
  rw [hid] at hclaim hkept htwin
  rw [State.roleClaimed, State.setClaim, hid]
  exact ⟨(hkept _ (by decide)).trans (State.u_put_of_lt _ _ _ hr), hclaim, fun r h1 h2 => (hkept r h2).trans (State.u_put_ne _ _ _ _ h1), htwin⟩

theorem State.takeRole_pair (s : State) (role prio : Nat) : Within pairScope (s.roleClaimed role prio) (s.takeRole role prio) := by
  rw [State.takeRole_eq]
  exact (pairScope_turn (State.plantTurn_within _)).trans (State.twinStreams_pair _)

/-- What a role taken leaves of the registers of TWIN and of the twin's part. -/
theorem State.takeRole_effect (s : State) {role : Nat} (prio : Nat) (hr : role < 256) :
    (s.takeRole role prio).u Obj.TWIN.ROLE = role ∧ ownPriority (s.takeRole role prio) = min 8191 prio ∧
    (∀ r : Reg, r.key / 256 = 0x6300 → Obj.TWIN.ROLE.key ≠ r.key → Obj.TWIN.CLAIM.key ≠ r.key → (s.takeRole role prio).u r = s.u r) ∧
    (s.takeRole role prio).twin.standing = s.twin.standing := by
  obtain ⟨hrole, hclaim, hkept, htwin⟩ := s.roleClaimed_effect prio hr
  have hpair := s.takeRole_pair role prio
  have hreads : ∀ r : Reg, r.key / 256 = 0x6300 → (s.takeRole role prio).u r = (s.roleClaimed role prio).u r := fun r h => hpair.reads r (by
    rw [show pairScope.regs r.key = !(r.key / 256 == 0x6300) from rfl, h]
    rfl)
  refine ⟨(hreads _ rfl).trans hrole, ?_, fun r h h1 h2 => (hreads r h).trans (hkept r h1 h2), (pairScope_twin hpair).trans htwin⟩
  rw [ownPriority, hreads _ rfl, hclaim]
  exact priorityOf prio (ownId s)

theorem State.outOfStep_u (s : State) {r : Reg} (hr : Obj.TWIN.FLAGS.key ≠ r.key) : s.outOfStep.u r = s.u r := State.u_put_ne _ _ _ _ hr

theorem State.outOfStep_step (s : State) : s.outOfStep.bit Obj.TWIN.FLAGS Bit.TWIN.FLAGS.IN_STEP = false := State.bit_putBit_self _ _ _ _ (by decide)

theorem State.outOfStep_bit (s : State) {b : Nat} (hb : b < 32) (h : Bit.TWIN.FLAGS.IN_STEP ≠ b) : s.outOfStep.bit Obj.TWIN.FLAGS b = s.bit Obj.TWIN.FLAGS b := by
  rw [State.outOfStep, State.bit_putBit _ _ _ _ _ hb, if_neg h]

theorem State.outOfStep_twin (s : State) : s.outOfStep.twin = s.twin := State.put_twin _ _ _

/-- A twin's part as it joins out of step. -/
def TwinPart.joins (x : TwinPart) : TwinPart := { x with runs := Vector.replicate 8 0, arriving := [], tags := [], met := [], yieldReq := false }

/-- A twin that joins, with its part as it does. -/
def State.joining (s : State) : State := { s with twin := s.twin.joins }

theorem State.toStandby_eq (s : State) : s.toStandby = (s.joining.takeRole 1 (s.u Obj.TWIN.PRIORITY)).outOfStep := rfl

theorem State.joining_u (s : State) (r : Reg) : s.joining.u r = s.u r := rfl

/-- A twin that becomes STANDBY does so at PRIORITY, out of step (R444, R447). -/
theorem State.toStandby_effect (s : State) : s.toStandby.u Obj.TWIN.ROLE = 1 ∧ ownPriority s.toStandby = min 8191 (s.u Obj.TWIN.PRIORITY) ∧
    s.toStandby.bit Obj.TWIN.FLAGS Bit.TWIN.FLAGS.IN_STEP = false ∧ s.toStandby.twin.standing = s.twin.joins.standing ∧
    s.toStandby.u Obj.TWIN.PEER_CLAIM = s.u Obj.TWIN.PEER_CLAIM := by
  obtain ⟨hrole, hprio, hkept, htwin⟩ := s.joining.takeRole_effect (role := 1) (s.u Obj.TWIN.PRIORITY) (by decide)
  have hpeer := hkept Obj.TWIN.PEER_CLAIM rfl (by decide) (by decide)
  rw [State.joining_u] at hpeer
  rw [ownPriority] at hprio
  rw [State.toStandby_eq, ownPriority, State.outOfStep_step, State.outOfStep_twin, State.outOfStep_u _ (by decide), State.outOfStep_u _ (by decide),
    State.outOfStep_u _ (by decide)]
  exact ⟨hrole, hprio, rfl, htwin, hpeer⟩

end

end Sys2Proof.Machine
end

section
/-! SUPPORT. Mirrored deliveries lost, and takeover (R444, R449, R452; Machine/Twin.lean). -/

namespace Sys2Proof.Machine

/-! ## Lost deliveries (R197, R444) -/

/-- What lost deliveries leave: the registers of TWIN but MIRROR_LOST, its flags but IN_STEP, and the deliveries in arrival. -/
def lossKeeps (s t : State) : Prop :=
  (∀ r : Reg, r.key / 256 = 0x6300 → Obj.TWIN.MIRROR_LOST.key ≠ r.key → Obj.TWIN.FLAGS.key ≠ r.key → t.u r = s.u r) ∧
  (∀ b : Nat, b < 32 → Bit.TWIN.FLAGS.IN_STEP ≠ b → t.bit Obj.TWIN.FLAGS b = s.bit Obj.TWIN.FLAGS b) ∧ t.twin.arriving = s.twin.arriving

section
variable {s t u : State}

theorem lossKeeps.refl (s : State) : lossKeeps s s := ⟨fun _ _ _ _ => rfl, fun _ _ _ => rfl, rfl⟩

theorem lossKeeps.trans (h : lossKeeps s t) (g : lossKeeps t u) : lossKeeps s u := by
  obtain ⟨hr, hb, ha⟩ := h
  obtain ⟨gr, gb, ga⟩ := g
  exact ⟨fun r h1 h2 h3 => (gr r h1 h2 h3).trans (hr r h1 h2 h3), fun b h1 h2 => (gb b h1 h2).trans (hb b h1 h2), ga.trans ha⟩

theorem lossScope_u (h : Within lossScope s t) {r : Reg} (hr : r.key / 256 = 0x6300) : t.u r = s.u r :=
  h.reads r (by rw [show lossScope.regs r.key = farReg r.key from rfl, farReg, hr]; rfl)

theorem lossScope_bit (h : Within lossScope s t) (b : Nat) : t.bit Obj.TWIN.FLAGS b = s.bit Obj.TWIN.FLAGS b := by
  rw [State.bit, State.bit, lossScope_u h rfl]

/-- A delivery lost, before it is resolved as skipped. -/
def State.lossCounted (s : State) (n : Port) : State :=
  { (s.bump Obj.TWIN.MIRROR_LOST).outOfStep with twin := { s.twin with runs := s.twin.runs.set n 0 } }

theorem State.mirrorLost_eq (s : State) (n : Port) (d : Option Delivery) : s.mirrorLost n d = (s.lossCounted n).skipLost n d := rfl

theorem State.lossCounted_regs (s : State) (n : Port) : (s.lossCounted n).regs = (s.bump Obj.TWIN.MIRROR_LOST).outOfStep.regs := rfl

theorem State.lossCounted_twin (s : State) (n : Port) : (s.lossCounted n).twin = { s.twin with runs := s.twin.runs.set n 0 } := rfl

theorem State.lossCounted_u (s : State) (n : Port) {r : Reg} (h : Obj.TWIN.MIRROR_LOST.key ≠ r.key) (h' : Obj.TWIN.FLAGS.key ≠ r.key) :
    (s.lossCounted n).u r = s.u r := by
  rw [State.u_of_regs (s.lossCounted_regs n), State.outOfStep_u _ h', State.u_bump_ne _ _ _ h]

theorem State.lossCounted_bit (s : State) (n : Port) (b : Nat) : (s.lossCounted n).bit Obj.TWIN.FLAGS b = (s.bump Obj.TWIN.MIRROR_LOST).outOfStep.bit Obj.TWIN.FLAGS b := by
  rw [State.bit, State.bit, State.u_of_regs (s.lossCounted_regs n)]

theorem State.lossCounted_step (s : State) (n : Port) : (s.lossCounted n).bit Obj.TWIN.FLAGS Bit.TWIN.FLAGS.IN_STEP = false := by
  rw [s.lossCounted_bit, State.outOfStep_step]

theorem State.lossCounted_lost (s : State) (n : Port) (h : s.u Obj.TWIN.MIRROR_LOST + 1 < 2 ^ 32) :
    (s.lossCounted n).u Obj.TWIN.MIRROR_LOST = s.u Obj.TWIN.MIRROR_LOST + 1 := by
  rw [State.u_of_regs (s.lossCounted_regs n), State.outOfStep_u _ (by decide), State.u_bump_self _ _ h]

theorem State.lossCounted_keeps_twin (s : State) (n : Port) : lossKeeps s (s.lossCounted n) := by
  refine ⟨fun r _ h1 h2 => s.lossCounted_u n h1 h2, fun b hb hne => ?_, by rw [s.lossCounted_twin]⟩
  rw [s.lossCounted_bit, State.outOfStep_bit _ hb hne, State.bump_eq, State.bit_put_ne _ _ _ _ _ (by decide)]

theorem lossKeeps_loss (h : Within lossScope s t) : lossKeeps s t :=
  ⟨fun _ hr _ _ => lossScope_u h hr, fun b _ _ => lossScope_bit h b, by rw [lossScope_twin h]⟩

theorem State.mirrorLost_leaves (s : State) (n : Port) (d : Option Delivery) : lossKeeps s (s.mirrorLost n d) := by
  rw [s.mirrorLost_eq]
  exact (s.lossCounted_keeps_twin n).trans (lossKeeps_loss (State.skipLost_loss (.refl _ _) n d))

/-- A loss puts the twin out of step and begins its port's run anew, whatever is skipped for it. -/
theorem State.mirrorLost_step (s : State) (n : Port) (d : Option Delivery) :
    (s.mirrorLost n d).bit Obj.TWIN.FLAGS Bit.TWIN.FLAGS.IN_STEP = false ∧ (s.mirrorLost n d).twin.runs[n] = 0 := by
  have hskip : Within lossScope (s.lossCounted n) ((s.lossCounted n).skipLost n d) := State.skipLost_loss (.refl _ _) n d
  rw [s.mirrorLost_eq, lossScope_bit hskip, s.lossCounted_step, lossScope_twin hskip, s.lossCounted_twin]
  exact ⟨rfl, Vector.getElem_set_self _⟩

/-- A state with no delivery in arrival. -/
def State.noneArriving (s : State) : State := { s with twin := { s.twin with arriving := [] } }

theorem State.noneArriving_u (s : State) (r : Reg) : s.noneArriving.u r = s.u r := rfl

theorem State.noneArriving_arriving (s : State) : s.noneArriving.twin.arriving = [] := rfl

theorem State.loseParts_leaves (s : State) : lossKeeps s.noneArriving (s.loseParts (fun _ => true)) := by
  have hempty : s.twin.arriving.filter (fun m => !(fun _ => true) m) = [] := List.filter_eq_nil_iff.mpr fun m _ => Bool.false_ne_true
  rw [State.loseParts]
  rw [hempty]
  exact List.foldlRecOn (motive := fun v : State => lossKeeps s.noneArriving v) _ _ (lossKeeps.refl _)
    fun v hv m _ => hv.trans (v.mirrorLost_leaves _ _)

/-! ## Takeover (R445, R449, R452) -/

theorem State.letIn_pair (h : Within pairScope s t) (k : Fin 256) (fs : List Fragment) : Within pairScope s (t.letIn k fs) := by
  have hlt := k.isLt
  have hmod : ∀ f g, Within pairScope s ((t.modStream k f).modStream k g) := fun f g => pairScope_part h rfl rfl
  rw [State.letIn]
  refine Within.ite (fun _ => ?_) fun _ => Within.bump (hmod _ _) (r := Obj.STREAM.DROPPED k) (pairReg_of (by simp only [Obj.STREAM.DROPPED]; omega))
  have hadd := Within.add (hmod (fun x => { x with built := x.built + fragBytes fs }) fun x => { x with queue := x.queue ++ fs }) (r := Obj.STREAM.BACKLOG k)
    (pairReg_of (by simp only [Obj.STREAM.BACKLOG]; omega)) (fragBytes fs)
  exact hadd.put (r := Obj.STREAM.SSTATE k) (pairReg_of (by simp only [Obj.STREAM.SSTATE]; omega)) _

theorem State.sendMirror_pair (h : Within pairScope s t) (b : AggonBody) : Within pairScope s (t.sendMirror b) := by
  rw [State.sendMirror]
  split
  · rename_i k _ _
    have hun : (t.sendFrame k (mirrorFrame t b)).unlinked = t.unlinked := by
      rw [State.sendFrame]
      split
      · rfl
      · exact State.unlinked_pumpLink _ _
    have hregs := (State.of_unlinked hun).1
    have htwin := congrArg (fun v => State.twin v) hun
    have hst := congrArg TwinPart.standing htwin
    exact pairScope_part h hst hregs
  · exact pairScope_part h rfl rfl

theorem State.splitBale_pair (h : Within pairScope s t) (k : Fin 256) (bale : List Byte) (first : Nat) : Within pairScope s (t.splitBale k bale first) := by
  have hlt := k.isLt
  have hnumbered : ∀ a b c, Within pairScope s (t.numbered k a b c) := fun a b c =>
    pairScope_part (h.put (r := Obj.STREAM.SEQ k) (pairReg_of (by simp only [Obj.STREAM.SEQ]; omega)) (a + c)) rfl rfl
  exact Within.ite (fun _ => State.sendMirror_pair (State.letIn_pair (hnumbered _ _ _) k _) _) fun _ => State.letIn_pair (hnumbered _ _ _) k _

theorem State.flushHeld_pair (h : Within pairScope s t) : Within pairScope s t.flushHeld := by
  rw [State.flushHeld]
  refine h.overAll fun v k hv => ?_
  have hemptied : Within pairScope s (v.modStream k (fun x => { x with held := [], marks := [] })) := pairScope_part hv rfl rfl
  exact hemptied.foldl (fun w (b : List Byte × Nat) hw => State.splitBale_pair hw k b.1 b.2) _

theorem State.relearnAll_pair (h : Within pairScope s t) (n : Port) : Within pairScope s (t.relearnAll n) := by
  have hlt := n.isLt
  refine h.foldl (fun v k hv => ?_) _
  have hpipe : ∀ f, Within pairScope s (v.modPipe n f) := fun f => pairScope_part hv rfl rfl
  exact ((hpipe _).bump (r := Obj.PIPE_STATUS.RELEARNS n) (pairReg_of (by simp only [Obj.PIPE_STATUS.RELEARNS]; omega))).setBit
    (r := Obj.PIPE_STATUS.FLAGS n) (pairReg_of (by simp only [Obj.PIPE_STATUS.FLAGS]; omega)) _

/-- A takeover, to the entry that tells of it. -/
def State.tookOver (s : State) : State :=
  ((s.toActive (min 8191 (max 4096 (peerPriority s + 1)))).bump Obj.TWIN.TAKEOVERS).put Obj.TWIN.LAST_TAKEOVER (epochVal (s.now * 256))

/-- A takeover told. -/
def State.takeoverTold (s : State) : State :=
  s.tookOver.log { cls := 5, sub := 17, index := 0x6300, osub := 0x11, detail := s.tookOver.u Obj.TWIN.TAKEOVERS }

/-- Twinned ports after a takeover: the next shot carries GAP, and branch state relearns. -/
def State.portsResumed (s : State) : State :=
  overAll s (fun u (n : Port) => if u.twinned n then (u.modPort n (fun p => { p with gap := true })).relearnAll n else u)

theorem State.unitFault_eq (s : State) : s.unitFault = ((s.takeoverTold.loseParts (fun _ => true)).portsResumed).flushHeld := rfl

theorem State.portsResumed_pair (h : Within pairScope s t) : Within pairScope s t.portsResumed :=
  h.overAll fun v n hv => Within.ite (fun _ => State.relearnAll_pair (t := v.modPort n _) (pairScope_part hv rfl rfl) n) fun _ => hv

theorem pairScope_u (h : Within pairScope s t) {r : Reg} (hr : r.key / 256 = 0x6300) : t.u r = s.u r :=
  h.reads r (by rw [show pairScope.regs r.key = !(r.key / 256 == 0x6300) from rfl, hr]; rfl)

theorem pairScope_arriving (h : Within pairScope s t) : t.twin.arriving = s.twin.arriving := by
  have ha := congrArg TwinPart.arriving (pairScope_twin h)
  exact ha

theorem State.takeoverTold_u (s : State) {r : Reg} (hr : r.key / 256 = 0x6300) : s.takeoverTold.u r = s.tookOver.u r :=
  pairScope_u (pairScope_book (State.within_log _ _)) hr

/-- After its entry a takeover changes of the twin's registers MIRROR_LOST and IN_STEP alone, and no delivery is in arrival. -/
theorem State.unitFault_leaves (s : State) :
    (∀ r : Reg, r.key / 256 = 0x6300 → Obj.TWIN.MIRROR_LOST.key ≠ r.key → Obj.TWIN.FLAGS.key ≠ r.key → s.unitFault.u r = s.tookOver.u r) ∧
    (∀ b : Nat, b < 32 → Bit.TWIN.FLAGS.IN_STEP ≠ b → s.unitFault.bit Obj.TWIN.FLAGS b = s.tookOver.bit Obj.TWIN.FLAGS b) ∧ s.unitFault.twin.arriving = [] := by
  have hpair : Within pairScope (s.takeoverTold.loseParts (fun _ => true)) s.unitFault := by
    rw [State.unitFault_eq]
    exact State.flushHeld_pair (State.portsResumed_pair (.refl _ _))
  obtain ⟨hregs, hbits, harr⟩ := s.takeoverTold.loseParts_leaves
  generalize s.takeoverTold.loseParts (fun _ => true) = v at hpair hregs hbits harr
  have hbase : ∀ r : Reg, r.key / 256 = 0x6300 → s.takeoverTold.noneArriving.u r = s.tookOver.u r := fun r hr => by
    rw [State.noneArriving_u, s.takeoverTold_u hr]
  rw [State.noneArriving_arriving] at harr
  generalize s.takeoverTold.noneArriving = w at hregs hbits hbase
  refine ⟨fun r hr h1 h2 => ?_, fun b hb hne => ?_, (pairScope_arriving hpair).trans harr⟩
  · rw [pairScope_u hpair hr, hregs r hr h1 h2, hbase r hr]
  · have hb' := hbits b hb hne
    rw [State.bit, State.bit, hbase _ rfl] at hb'
    rw [State.bit, State.bit, pairScope_u hpair rfl, hb']

/-- The registers as a takeover sets them. -/
theorem State.tookOver_effect (s : State) : s.tookOver.u Obj.TWIN.ROLE = 2 ∧
    ownPriority s.tookOver = min 8191 (max 4096 (peerPriority s + 1)) ∧
    (s.u Obj.TWIN.TAKEOVERS + 1 < 2 ^ 32 → s.tookOver.u Obj.TWIN.TAKEOVERS = s.u Obj.TWIN.TAKEOVERS + 1) ∧ s.tookOver.u Obj.TWIN.FLAGS = s.u Obj.TWIN.FLAGS := by
  obtain ⟨hrole, hprio, hkept, -⟩ := s.takeRole_effect (role := 2) (min 8191 (max 4096 (peerPriority s + 1))) (by decide)
  have htakes := hkept Obj.TWIN.TAKEOVERS rfl (by decide) (by decide)
  have hflags := hkept Obj.TWIN.FLAGS rfl (by decide) (by decide)
  rw [State.tookOver, State.toActive]
  generalize s.takeRole 2 (min 8191 (max 4096 (peerPriority s + 1))) = v at hrole hprio htakes hflags ⊢
  have hlast : ∀ (w : State) (r : Reg), Obj.TWIN.LAST_TAKEOVER.key ≠ r.key → (w.put Obj.TWIN.LAST_TAKEOVER (epochVal (s.now * 256))).u r = w.u r :=
    fun w r hr => State.u_put_ne _ _ _ _ hr
  have hcount : ∀ r : Reg, Obj.TWIN.TAKEOVERS.key ≠ r.key → (v.bump Obj.TWIN.TAKEOVERS).u r = v.u r := fun r hr => State.u_bump_ne _ _ _ hr
  rw [ownPriority] at hprio
  rw [ownPriority, hlast _ _ (by decide), hlast _ _ (by decide), hlast _ _ (by decide), hlast _ _ (by decide), hcount Obj.TWIN.ROLE (by decide),
    hcount Obj.TWIN.CLAIM (by decide), hcount Obj.TWIN.FLAGS (by decide)]
  refine ⟨hrole, hprio.trans (by omega), fun h => ?_, hflags⟩
  rw [State.u_bump_self _ _ (by rw [htakes]; exact h), htakes]

/-- A unit fault makes the standby ACTIVE above the peer's claim (R449, R452). -/
theorem State.unitFault_effect (s : State) : s.unitFault.u Obj.TWIN.ROLE = 2 ∧
    ownPriority s.unitFault = min 8191 (max 4096 (peerPriority s + 1)) ∧
    (s.u Obj.TWIN.TAKEOVERS + 1 < 2 ^ 32 → s.unitFault.u Obj.TWIN.TAKEOVERS = s.u Obj.TWIN.TAKEOVERS + 1) ∧ s.unitFault.twin.arriving = [] ∧
    (∀ b : Nat, b < 32 → Bit.TWIN.FLAGS.IN_STEP ≠ b → s.unitFault.bit Obj.TWIN.FLAGS b = s.bit Obj.TWIN.FLAGS b) := by
  obtain ⟨hregs, hbits, harr⟩ := s.unitFault_leaves
  obtain ⟨hrole, hprio, htakes, hflags⟩ := s.tookOver_effect
  refine ⟨(hregs _ rfl (by decide) (by decide)).trans hrole, ?_, fun h => (hregs _ rfl (by decide) (by decide)).trans (htakes h), harr, fun b hb hne => ?_⟩
  · rw [ownPriority] at hprio ⊢
    rw [hregs _ rfl (by decide) (by decide), hprio]
  · refine (hbits b hb hne).trans ?_
    rw [State.bit, State.bit, hflags]

end

end Sys2Proof.Machine
end

section
/-! SUPPORT. Criers and their timeouts (R447 to R449, R453, R454; Machine/Twin.lean). -/

namespace Sys2Proof.Machine

section
variable {s : State} {path : TwinPath} {m : CrierMsg}

/-! ## A crier that counts (R448) -/

theorem State.crierIn_ignored (h : s.u Obj.TWIN.TWIN_EN = 0 ∨ m.claim.toNat % 2048 ≠ s.u Obj.TWIN.PEER_ID) : s.crierIn path m = s := if_pos h

/-- The twin's part as a crier of its peer has come. -/
def TwinPart.hears (x : TwinPart) (path : TwinPath) (m : CrierMsg) : TwinPart :=
  { x with peerRole := some m.role.toNat, peerInStep := m.cflags.getLsbD 0, lateAggon := x.lateAggon && decide (path = TwinPath.eth),
           lateEth := x.lateEth && decide (path = TwinPath.aggon) }

/-- A state with another part of its twin, and a flag of a path set or cleared. -/
def State.pathTold (s : State) (x : TwinPart) (path : TwinPath) (late : Bool) : State :=
  State.logFlag { s with twin := x } Obj.TWIN.FLAGS (pathFlagOf path) late 17

theorem State.crierIn_counts (he : s.u Obj.TWIN.TWIN_EN = 1) (hc : m.claim.toNat % 2048 = s.u Obj.TWIN.PEER_ID) :
    s.crierIn path m = (s.pathTold (s.twin.hears path m) path false).crierRole m s.twin.peerRole :=
  if_neg fun h => by
    rcases h with h | h
    · rw [he] at h
      cases h
    · exact h hc

theorem State.pathTold_u (s : State) (x : TwinPart) (path : TwinPath) (late : Bool) {r : Reg} (hb : bookReg r.key = false) (hr : Obj.TWIN.FLAGS.key ≠ r.key) :
    (s.pathTold x path late).u r = s.u r := State.logFlag_u { s with twin := x } _ _ _ late _ hb hr _ _

theorem pathFlagOf_lt (path : TwinPath) : pathFlagOf path < 32 := by
  cases path <;> decide

theorem State.pathTold_flag (s : State) (x : TwinPart) (path : TwinPath) (late : Bool) :
    (s.pathTold x path late).bit Obj.TWIN.FLAGS (pathFlagOf path) = late :=
  State.logFlag_bit { s with twin := x } _ _ _ late (pathFlagOf_lt path) rfl _ _

theorem State.pathTold_twin (s : State) (x : TwinPart) (path : TwinPath) (late : Bool) : (s.pathTold x path late).twin = x := by
  have hrest := State.logFlag_rest { s with twin := x } Obj.TWIN.FLAGS (pathFlagOf path) 17 late 0xFF false
  have htwin := congrArg (fun v => State.twin v) hrest
  exact htwin

theorem State.crierRole_starting (before : Option Nat) (h : s.u Obj.TWIN.ROLE = 0) (hm : m.role = 2) : s.crierRole m before = s.toStandby := by
  rw [State.crierRole, h]
  exact if_pos hm

theorem State.crierRole_standby (before : Option Nat) (h : s.u Obj.TWIN.ROLE = 1) (hm : m.role = 3) : s.crierRole m before = s.unitFault := by
  rw [State.crierRole, h]
  exact if_pos hm

/-- An ACTIVE twin that hears its standby in step lowers its claim to 4,096 (R454). -/
theorem State.crierRole_active (h : s.u Obj.TWIN.ROLE = 2) (hm : m.role = 1) (hin : m.cflags.getLsbD 0 = true) :
    s.crierRole m (some 1) = if 4096 < ownPriority s then s.setClaim 4096 else s := by
  have hjoin : (if m.role = 1 ∧ some 1 ≠ some 1 then s.sendJoin else s) = s := if_neg fun hn => hn.2 rfl
  rw [State.crierRole, h]
  dsimp only
  rw [hjoin]
  exact if_congr ⟨fun hc => hc.2.2, fun hc => ⟨hm, hin, hc⟩⟩ rfl rfl

/-! ## Timeouts (R447, R449) -/

/-- The twin's part as nothing has come on a path. -/
def TwinPart.misses (x : TwinPart) (path : TwinPath) : TwinPart :=
  { x with lateAggon := x.lateAggon || path == .aggon, lateEth := x.lateEth || path == .eth,
           peerRole := if (x.lateAggon || path == .aggon) && (x.lateEth || path == .eth) then none else x.peerRole }

theorem crierTimeout_off (h : s.u Obj.TWIN.TWIN_EN = 0) : exec (.crierTimeout path) s = .next s := congrArg Host.Outcome.next (if_pos h)

theorem crierTimeout_on (h : s.u Obj.TWIN.TWIN_EN = 1) : exec (.crierTimeout path) s =
    .next (((s.pathTold (s.twin.misses path) path true).startCheck).faultCheck) :=
  congrArg Host.Outcome.next (if_neg (by rw [h]; decide))

theorem standby_iff : standby s = true ↔ s.u Obj.TWIN.TWIN_EN = 1 ∧ s.u Obj.TWIN.ROLE = 1 := by
  rw [standby, Bool.and_eq_true, beq_iff_eq, beq_iff_eq]

theorem standby_not (h : s.u Obj.TWIN.ROLE ≠ 1) : standby s = false := Bool.eq_false_iff.mpr fun hs => h (standby_iff.mp hs).2

theorem active_iff : active s = true ↔ s.u Obj.TWIN.TWIN_EN = 1 ∧ s.u Obj.TWIN.ROLE = 2 := by
  rw [active, Bool.and_eq_true, beq_iff_eq, beq_iff_eq]

theorem State.startCheck_none (h : ¬(s.u Obj.TWIN.TWIN_EN = 1 ∧ s.u Obj.TWIN.ROLE = 0 ∧ s.twin.lateAggon = true ∧ s.twin.lateEth = true)) : s.startCheck = s :=
  if_neg fun hc => h ⟨hc.1, hc.2.1, hc.2.2.1, hc.2.2.2.1⟩

theorem State.startCheck_starts (he : s.u Obj.TWIN.TWIN_EN = 1) (hr : s.u Obj.TWIN.ROLE = 0) (ha : s.twin.lateAggon = true) (hl : s.twin.lateEth = true)
    (hf : s.twin.fresh = false ∨ peerPriority s < 4096) : s.startCheck = s.toActive 4096 := by
  refine if_pos ⟨he, hr, ha, hl, ?_⟩
  rcases hf with hf | hf
  · rw [hf]
    rfl
  · rw [decide_eq_false (Nat.not_le.mpr hf), Bool.and_false]
    rfl

theorem State.faultCheck_none (h : standby s = false ∨ s.twin.lateAggon = false ∨ s.twin.lateEth = false ∨ s.twin.fresh = true) : s.faultCheck = s :=
  if_neg fun hc => by
    rcases h with h | h | h | h <;> rw [h] at hc <;> simp at hc

theorem State.faultCheck_faults (hs : standby s = true) (ha : s.twin.lateAggon = true) (he : s.twin.lateEth = true) (hf : s.twin.fresh = false) :
    s.faultCheck = s.unitFault := if_pos (by rw [hs, ha, he, hf]; rfl)

/-- A STARTING twin that hears nothing on either path, without a fresh claim of 4,096 or more, becomes ACTIVE at 4,096 (R447). -/
theorem State.startCheck_active (he : s.u Obj.TWIN.TWIN_EN = 1) (hr : s.u Obj.TWIN.ROLE = 0) (ha : s.twin.lateAggon = true) (hl : s.twin.lateEth = true)
    (hf : s.twin.fresh = false ∨ peerPriority s < 4096) :
    s.startCheck.faultCheck.u Obj.TWIN.ROLE = 2 ∧ ownPriority s.startCheck.faultCheck = 4096 := by
  obtain ⟨hrole, hprio, -, -⟩ := s.takeRole_effect (role := 2) 4096 (by decide)
  rw [State.startCheck_starts he hr ha hl hf, State.toActive]
  generalize s.takeRole 2 4096 = v at hrole hprio ⊢
  rw [State.faultCheck_none (.inl (standby_not (by rw [hrole]; decide)))]
  exact ⟨hrole, hprio⟩

/-- A standby that hears nothing on either path, without a fresh claim, takes over (R449). -/
theorem State.faultCheck_active (he : s.u Obj.TWIN.TWIN_EN = 1) (hr : s.u Obj.TWIN.ROLE = 1) (ha : s.twin.lateAggon = true) (hl : s.twin.lateEth = true)
    (hf : s.twin.fresh = false) : s.startCheck.faultCheck = s.unitFault := by
  rw [State.startCheck_none fun h => by rw [hr] at h; exact absurd h.2.1 (by decide)]
  exact State.faultCheck_faults (standby_iff.mpr ⟨he, hr⟩) ha hl hf

end

end Sys2Proof.Machine
end

section
/-! SUPPORT. The CLAIM wire, mirrored frames and bale marks (R441, R443 to R445, R450, R451, R453; Machine/Twin.lean, Machine/Streams.lean). -/

namespace Sys2Proof.Machine

/-! ## CLAIM frames (R450) -/

/-- The bits of a CLAIM frame: CRC, claim and sync byte. -/
theorem claimBits (c : BitVec 24) (d : BitVec 8) (i : Nat) : ((0xB4#8 ++ c ++ d : BitVec 40)).getLsbD i =
    if i < 8 then d.getLsbD i else if i - 8 < 24 then c.getLsbD (i - 8) else (0xB4#8).getLsbD (i - 8 - 24) := by
  refine (BitVec.getLsbD_append (x := 0xB4#8 ++ c) (y := d)).trans ?_
  rw [BitVec.getLsbD_append]

theorem claim_sync (c : BitVec 24) (d : BitVec 8) : ((0xB4#8 ++ c ++ d : BitVec 40) >>> 32).setWidth 8 = 0xB4#8 := by
  ext i hi
  rw [BitVec.getElem_setWidth, BitVec.getLsbD_ushiftRight, claimBits, if_neg (by omega), if_neg (by omega), show 32 + i - 8 - 24 = i by omega]
  exact BitVec.getLsbD_eq_getElem hi

theorem claim_crc (c : BitVec 24) (d : BitVec 8) : (0xB4#8 ++ c ++ d : BitVec 40).setWidth 8 = d := by
  ext i hi
  rw [BitVec.getElem_setWidth, claimBits, if_pos hi]
  exact BitVec.getLsbD_eq_getElem hi

theorem claim_value (c : BitVec 24) (d : BitVec 8) : ((0xB4#8 ++ c ++ d : BitVec 40) >>> 8).setWidth 24 = c := by
  ext i hi
  rw [BitVec.getElem_setWidth, BitVec.getLsbD_ushiftRight, claimBits, if_neg (by omega), if_pos (by omega), show 8 + i - 8 = i by omega]
  exact BitVec.getLsbD_eq_getElem hi

section
variable {s : State} {c : BitVec 24}

/-- A good CLAIM frame taken. -/
def State.claimTaken (s : State) (c : BitVec 24) : State :=
  (State.put { s with twin := { s.twin with fresh := true } } Obj.TWIN.PEER_CLAIM c.toNat).putBit Obj.TWIN.FLAGS Bit.TWIN.FLAGS.CLAIM_STALE false

theorem claimFrame_bad {f : BitVec 40} (h : (f >>> 32).setWidth 8 ≠ 0xB4#8 ∨ f.setWidth 8 ≠ crc8 ((f >>> 8).setWidth 24)) :
    exec (.claimFrame f) s = .next s := congrArg Host.Outcome.next (if_pos h)

theorem claimFrame_good {f : BitVec 40} (hf : f = 0xB4#8 ++ c ++ crc8 c) : exec (.claimFrame f) s = .next (if s.u Obj.TWIN.TWIN_EN = 0 then s.claimTaken c
    else if standby s ∧ c.toNat / 2048 = 0 then (s.claimTaken c).claimAbove.unitFault else (s.claimTaken c).claimAbove) := by
  have hv : (f >>> 8).setWidth 24 = c := by rw [hf]; exact claim_value c (crc8 c)
  have hsync : (f >>> 32).setWidth 8 = 0xB4#8 := by rw [hf]; exact claim_sync c (crc8 c)
  have hcrc : f.setWidth 8 = crc8 c := by rw [hf]; exact claim_crc c (crc8 c)
  show execClaimFrame f s = _
  rw [execClaimFrame, hv, if_neg (by rw [hsync, hcrc]; simp)]
  rfl

theorem State.claimTaken_u (s : State) (c : BitVec 24) {r : Reg} (hp : Obj.TWIN.PEER_CLAIM.key ≠ r.key) (hf : Obj.TWIN.FLAGS.key ≠ r.key) :
    (s.claimTaken c).u r = s.u r := by
  rw [State.claimTaken, State.putBit_eq, State.u_put_ne _ _ _ _ hf, State.u_put_ne _ _ _ _ hp]
  rfl

theorem State.claimTaken_peer (s : State) (c : BitVec 24) : (s.claimTaken c).u Obj.TWIN.PEER_CLAIM = c.toNat := by
  rw [State.claimTaken, State.putBit_eq, State.u_put_ne _ _ _ _ (by decide), State.u_put_of_lt _ _ _ (Nat.lt_trans c.isLt (by decide))]

theorem State.claimTaken_kept (s : State) (c : BitVec 24) : regsKept s (s.claimTaken c) [Obj.TWIN.PEER_CLAIM, Obj.TWIN.FLAGS] :=
  fun _ hr => s.claimTaken_u c (hr _ List.mem_cons_self) (hr _ (List.mem_cons_of_mem _ List.mem_cons_self))

theorem State.claimTaken_fresh (s : State) (c : BitVec 24) : (s.claimTaken c).twin.fresh = true ∧
    (s.claimTaken c).bit Obj.TWIN.FLAGS Bit.TWIN.FLAGS.CLAIM_STALE = false ∧ (s.claimTaken c).ports = s.ports ∧ (s.claimTaken c).mem = s.mem :=
  ⟨rfl, State.bit_putBit_self _ _ _ _ (by decide), rfl, rfl⟩

/-- The twinned ports' launches cut (R56). -/
def State.twinnedCut (s : State) : State := overAll s (fun u (n : Port) => if u.twinned n then u.cutPort n else u)

theorem State.twinnedCut_pair (s : State) : Within pairScope s s.twinnedCut := by
  refine (Within.refl _ s).overAll fun v n hv => Within.ite (fun _ => ?_) fun _ => hv
  have hlt := n.isLt
  exact Within.add (t := v.modPort n _) (pairScope_part hv rfl rfl) (r := Obj.SCHEDULER.LAUNCH_CUT n)
    (pairReg_of (by simp only [Obj.SCHEDULER.LAUNCH_CUT]; omega)) _

theorem State.claimAbove_not (h : s.u Obj.TWIN.PEER_CLAIM ≤ s.u Obj.TWIN.CLAIM) : s.claimAbove = s := if_pos h

theorem State.claimAbove_above (h : s.u Obj.TWIN.CLAIM < s.u Obj.TWIN.PEER_CLAIM) :
    s.claimAbove = if active s then s.twinnedCut.toStandby else s.twinnedCut := by
  rw [State.claimAbove, if_neg (Nat.not_le.mpr h)]
  rfl

/-- A twin that is not ACTIVE keeps its role under a claim above its own. -/
theorem State.claimAbove_pair (h : active s = false) : Within pairScope s s.claimAbove := by
  rcases Nat.lt_or_ge (s.u Obj.TWIN.CLAIM) (s.u Obj.TWIN.PEER_CLAIM) with hlt | hle
  · rw [State.claimAbove_above hlt, if_neg (by rw [h]; decide)]
    exact s.twinnedCut_pair
  · rw [State.claimAbove_not hle]
    exact .refl _ _

/-- The frame tells of a peer that is above this ACTIVE twin: it becomes STANDBY (R453). -/
theorem State.claimTaken_yields (he : s.u Obj.TWIN.TWIN_EN = 1) (hr : s.u Obj.TWIN.ROLE = 2) (hc : s.u Obj.TWIN.CLAIM < c.toNat) :
    (s.claimTaken c).claimAbove = (s.claimTaken c).twinnedCut.toStandby := by
  have hact : active (s.claimTaken c) = true := active_iff.mpr
    ⟨(s.claimTaken_u c (by decide) (by decide)).trans he, (s.claimTaken_u c (by decide) (by decide)).trans hr⟩
  rw [State.claimAbove_above (by rw [s.claimTaken_peer, s.claimTaken_u c (by decide) (by decide)]; exact hc), if_pos hact]

theorem State.claimTaken_standby (hr : s.u Obj.TWIN.ROLE = 1) : Within pairScope (s.claimTaken c) (s.claimTaken c).claimAbove :=
  State.claimAbove_pair (Bool.eq_false_iff.mpr fun h => by
    have hrole := (active_iff.mp h).2
    rw [s.claimTaken_u c (by decide) (by decide), hr] at hrole
    exact absurd hrole (by decide))

/-! ## A stale claim (R447, R449, R451) -/

/-- No good CLAIM frame has come for 10 µs. -/
def State.claimLost (s : State) : State :=
  State.putBit { s with twin := { s.twin with fresh := false } } Obj.TWIN.FLAGS Bit.TWIN.FLAGS.CLAIM_STALE true

theorem claimStale_eq (s : State) : exec .claimStale s = .next s.claimLost.startCheck.faultCheck := rfl

theorem State.claimLost_u (s : State) {r : Reg} (hr : Obj.TWIN.FLAGS.key ≠ r.key) : s.claimLost.u r = s.u r := State.u_put_ne _ _ _ _ hr

theorem State.claimLost_kept (s : State) : s.claimLost.twin = { s.twin with fresh := false } ∧
    s.claimLost.bit Obj.TWIN.FLAGS Bit.TWIN.FLAGS.CLAIM_STALE = true ∧ regsKept s s.claimLost [Obj.TWIN.FLAGS] ∧ s.claimLost.mem = s.mem ∧
    s.claimLost.ports = s.ports :=
  ⟨rfl, State.bit_putBit_self _ _ _ _ (by decide), fun _ hr => s.claimLost_u (hr _ List.mem_cons_self), rfl, rfl⟩

end

/-! ## Mirrored frames and commits (R441, R443, R444) -/

section
variable {s : State}

theorem State.lossCounted_only (s : State) (n : Port) :
    onlyRegs { s with twin := (s.lossCounted n).twin } (s.lossCounted n) [Obj.TWIN.MIRROR_LOST, Obj.TWIN.FLAGS] :=
  ((onlyRegs.refl { s with twin := (s.lossCounted n).twin } _).put List.mem_cons_self _).put (List.mem_cons_of_mem _ List.mem_cons_self) _

/-- A pitch of the port counts the delivery that it skips. -/
theorem State.skipLost_counts (s : State) (n : Port) (k : Fin 192) (hh : s.pitches[k].host.isSome = true) (hp : s.u (Obj.PITCH.PORT k) = n.val)
    (hn : s.u (Obj.PITCH.SKIPPED k) + 1 < 2 ^ 32) : (s.skipLost n none).u (Obj.PITCH.SKIPPED k) = s.u (Obj.PITCH.SKIPPED k) + 1 := by
  have hother : ∀ (t : State) (j : Fin 192), j ≠ k → (if s.pitches[j].host.isSome && s.u (Obj.PITCH.PORT j) == n.val then t.bump (Obj.PITCH.SKIPPED j) else t).u
      (Obj.PITCH.SKIPPED k) = t.u (Obj.PITCH.SKIPPED k) := fun t j hj => by
    have hne : j.val ≠ k.val := fun e => hj (Fin.ext e)
    split
    · exact State.u_bump_ne _ _ _ (by simp only [Obj.PITCH.SKIPPED]; omega)
    · rfl
  refine overAll_turn (P := fun t => t.u (Obj.PITCH.SKIPPED k) = s.u (Obj.PITCH.SKIPPED k))
    (Q := fun t => t.u (Obj.PITCH.SKIPPED k) = s.u (Obj.PITCH.SKIPPED k) + 1) k (fun t j hj ht => (hother t j hj).trans ht) (fun t ht => ?_)
    (fun t j hj ht => (hother t j hj).trans ht) s rfl
  rw [if_pos (by rw [hh, hp]; exact beq_self_eq_true _), State.u_bump_self _ _ (by rw [ht]; exact hn), ht]

theorem State.mirrorPiece_idle (h : standby s = false) (a : Arrival) (n : Port) (d : BitVec 32) (i : Nat) (z : Bool) (b : List Byte) :
    s.mirrorPiece a n d i z b = s := if_pos (by rw [h]; rfl)

/-- The words of a delivery, the first that come of it. -/
theorem State.mirrorPiece_first (hs : standby s = true) (hn : s.twinned n = true) (ha : s.twin.arriving = []) (a : Arrival) (hp : 0 ∉ a.poisoned)
    (d : BitVec 32) {i : Nat} (hi : 0 < i) (b : List Byte) : s.mirrorPiece a n d i false b = { s with twin := { s.twin with
      arriving := [{ port := n, deliv := d, pieces := [(i, b)], total := none, poisoned := a.poisoned.map (fun w => i + w - 1), links := [a.link] }] } } := by
  have hclean : a.poisoned.filter (fun w => w != 0) = a.poisoned := List.filter_eq_self.mpr fun w hw => bne_iff_ne.mpr fun e => hp (e ▸ hw)
  rw [State.mirrorPiece, if_neg (by rw [hs, hn]; decide), if_neg (by omega)]
  dsimp only
  rw [ha, hclean]
  rfl

theorem State.mirroredCommit_idle {m : MirrorCommit}
    (h : standby s = false ∨ (mirrored s m.index.toNat = false ∧ (m.index.toNat < 0x6000 ∨ 0x6100 ≤ m.index.toNat))) : s.mirroredCommit m = s := by
  refine if_pos ?_
  rcases h with h | ⟨hmir, hidx⟩
  · exact Or.inl (by rw [h]; rfl)
  · have hrange : (decide (0x6000 ≤ m.index.toNat) && decide (m.index.toNat < 0x6100)) = false := by
      rw [Bool.and_eq_false_iff, decide_eq_false_iff_not, decide_eq_false_iff_not]
      omega
    exact Or.inr (by rw [mirroredHere, hmir, hrange]; rfl)

/-- A group of the active waits with its tag for its boundary (R441). -/
theorem State.mirroredCommit_waits {m : MirrorCommit} (hs : standby s = true) (hm : mirrored s m.index.toNat = true) (hlt : m.index.toNat < 0x5000) :
    ∃ x : TwinPart, s.mirroredCommit m = { s.takeMirrored m with twin := x } ∧ (m.index.toNat, m.boundary) ∈ x.tags := by
  have htag : tagged m.index.toNat = true := by
    rw [tagged, decide_eq_true hlt]
    rfl
  have hwait : waitsFor (s.takeMirrored m) m.index.toNat = true := by
    rw [waitsFor, htag, decide_eq_true hlt]
    rfl
  have himage : imageOf m = none := dif_neg (by omega)
  rw [State.mirroredCommit, if_neg (by rw [hs, mirroredHere, hm]; simp), himage]
  dsimp only
  rw [if_pos hlt, if_pos hwait]
  exact ⟨_, rfl, List.mem_append_right _ List.mem_cons_self⟩

end

/-! ## Bale marks (R445) -/

section
variable {s : State} {k : Fin 256}

theorem meetMarks_none (h : s.streams[k].held = []) (f : Nat) : meetMarks f s k = s := by
  cases f with
  | zero => rfl
  | succ f => rw [meetMarks, h]

/-- Whether a bale's mark is other than the active's, and the state before the numbering follows that (R445). -/
def State.met (s : State) (k : Fin 256) (bale : List Byte) (first : Nat) (m : BaleMarkMsg) : State :=
  if markOf k bale s.streams[k].baleNo.toNat (s.u (Obj.STREAM.SEQ k)) (fragments s k bale first (s.u (Obj.STREAM.SEQ k)) s.streams[k].baleNo.toNat).length = m then
    s.letIn k (fragments s k bale first (s.u (Obj.STREAM.SEQ k)) s.streams[k].baleNo.toNat)
  else s.bump Obj.TWIN.WITHHELD

theorem State.meetMark_eq (s : State) (k : Fin 256) (bale : List Byte) (first : Nat) (m : BaleMarkMsg) :
    s.meetMark k bale first m = (s.met k bale first m).numbered k m.firstSeq.toNat m.bale.toNat m.frags.toNat := rfl

/-- The numbering of a stream, and what it leaves. -/
theorem State.numbered_effect (s : State) (k : Fin 256) (seq no frags : Nat) : (s.numbered k seq no frags).u (Obj.STREAM.SEQ k) = (seq + frags) % 2 ^ 32 ∧
    (s.numbered k seq no frags).streams[k].baleNo = BitVec.ofNat 32 (no + 1) ∧
    (s.numbered k seq no frags).u Obj.TWIN.WITHHELD = s.u Obj.TWIN.WITHHELD ∧ (s.numbered k seq no frags).eth = s.eth ∧ (s.numbered k seq no frags).out = s.out := by
  have hlt := k.isLt
  refine ⟨State.u_put_self s _ _, ?_, State.u_put_ne _ _ _ _ (by simp only [Obj.STREAM.SEQ, Obj.TWIN.WITHHELD]; omega), rfl, rfl⟩
  exact congrArg StreamPart.baleNo (State.modStream_self (s.put (Obj.STREAM.SEQ k) (seq + frags)) k _)

/-- A bale other than its mark is withheld (R445). -/
theorem State.met_withholds {bale : List Byte} {first : Nat} {m : BaleMarkMsg} (h : markOf k bale s.streams[k].baleNo.toNat (s.u (Obj.STREAM.SEQ k))
    (fragments s k bale first (s.u (Obj.STREAM.SEQ k)) s.streams[k].baleNo.toNat).length ≠ m) : s.met k bale first m = s.bump Obj.TWIN.WITHHELD := if_neg h

end

/-! ## Criers sent (R448) -/

section
variable {s : State} {k : Fin 4}

theorem twinCrierSend_off (path : TwinPath) (h : s.u Obj.TWIN.TWIN_EN = 0) : exec (.twinCrierSend path) s = .next s :=
  congrArg Host.Outcome.next (if_pos h)

/-- The next crier takes the next CSEQ. -/
def State.crierCounted (s : State) : State := { s with twin := { s.twin with cseq := s.twin.cseq + 1 } }

/-- A crier's frame to the twin. -/
def crierFrame (s : State) : AggonFrame :=
  { vc := 0, kind := 2, src := ownId s, dest := BitVec.ofNat 11 (s.u Obj.TWIN.PEER_ID), body := .crier (some (crierOf s)) }

theorem twinLinks_up (h : k ∈ twinLinks s) : linkUp s k = true := (Bool.and_eq_true_iff.mp (List.mem_filter.mp h).2).1

/-- On one free twin link a crier leaves at once. -/
theorem twinCrierSend_free (he : s.u Obj.TWIN.TWIN_EN = 1) (hl : twinLinks s = [k]) (hf : freeLink s k 0) :
    exec (.twinCrierSend .aggon) s = .next (s.crierCounted.departed k (crierFrame s)) := by
  have hsend : s.crierCounted.sendFrame k (crierFrame s) = s.crierCounted.departed k (crierFrame s) :=
    State.sendFrame_free (s := s.crierCounted) (twinLinks_up (s := s) (by rw [hl]; exact List.mem_cons_self)) (Nat.zero_le 4) hf
  show execTwinCrierSend .aggon s = _
  rw [execTwinCrierSend, if_neg (by rw [he]; decide)]
  dsimp only
  rw [hl]
  exact congrArg Host.Outcome.next hsend

/-- What a crier puts on one port of the pair. -/
def crierOut (s : State) (p : Fin 4) : Out :=
  .crier p (s.u Obj.TWIN.PEER_MAC % 2 ^ 48) (crierBytes (crierOf s)) (rctOf s (2 * s.u Obj.TWIN.TWIN_IFACE))

theorem twinCrierSend_ports (he : s.u Obj.TWIN.TWIN_EN = 1) : exec (.twinCrierSend .eth) s = .next ((overAll s.crierCounted (fun u (p : Fin 4) =>
    if p.val / 2 = s.u Obj.TWIN.TWIN_IFACE ∧ s.eth[p].up then u.leave [p] (crierOut s p) else u)).nextRct (2 * s.u Obj.TWIN.TWIN_IFACE)) :=
  congrArg Host.Outcome.next (if_neg (by rw [he]; decide))

/-- Of the four ports the two of the pair send, the first one first. -/
theorem overAll_pair (f : State → Fin 4 → State) {p q : Fin 4} (hp : p.val % 2 = 0) (hq : q.val = p.val + 1) (h : ∀ t j, j ≠ p → j ≠ q → f t j = t) (t : State) :
    overAll t f = f (f t p) q := by
  have hlist : List.finRange 4 = [0, 1, 2, 3] := rfl
  rw [overAll, hlist, List.foldl_cons, List.foldl_cons, List.foldl_cons, List.foldl_cons, List.foldl_nil]
  have hcases : (p = 0 ∧ q = 1) ∨ (p = 2 ∧ q = 3) := by omega
  rcases hcases with ⟨rfl, rfl⟩ | ⟨rfl, rfl⟩
  · rw [h _ 3 (by decide) (by decide), h _ 2 (by decide) (by decide)]
  · rw [h _ 0 (by decide) (by decide), h _ 1 (by decide) (by decide)]

theorem State.leave_one (s : State) (p : Fin 4) (o : Out) (h : refuses s 6 = false) : s.leave [p] o = (s.bump (Obj.ETH_PORT.TX_FRAMES p)).emit o := by
  rw [s.leave_taken o (List.cons_ne_nil _ _) h]
  rfl

/-- Both ports of the pair send a crier (R448). -/
theorem twinCrierSend_pair {p q : Fin 4} (he : s.u Obj.TWIN.TWIN_EN = 1) (hp : p.val = 2 * s.u Obj.TWIN.TWIN_IFACE) (hq : q.val = p.val + 1)
    (hup : s.eth[p].up = true) (huq : s.eth[q].up = true) (hr : refuses s 6 = false) :
    exec (.twinCrierSend .eth) s = .next ((s.crierCounted.sentBoth p q (crierOut s p) (crierOut s q)).nextRct (2 * s.u Obj.TWIN.TWIN_IFACE)) := by
  have hother : ∀ (t : State) (j : Fin 4), j ≠ p → j ≠ q → (if j.val / 2 = s.u Obj.TWIN.TWIN_IFACE ∧ s.eth[j].up then t.leave [j] (crierOut s j) else t) = t :=
    fun t j h1 h2 => if_neg fun h => by omega
  have hr' : refuses ((s.crierCounted.bump (Obj.ETH_PORT.TX_FRAMES p)).emit (crierOut s p)) 6 = false := by
    rw [refuses_emit, refuses_counted _ _ _ (by change (0x1100 + p.val) * 256 + 8 < _; omega)]
    exact hr
  rw [twinCrierSend_ports he, overAll_pair _ (by omega) hq hother, if_pos (show q.val / 2 = s.u Obj.TWIN.TWIN_IFACE ∧ s.eth[q].up = true from ⟨by omega, huq⟩),
    if_pos (show p.val / 2 = s.u Obj.TWIN.TWIN_IFACE ∧ s.eth[p].up = true from ⟨by omega, hup⟩),
    State.leave_one s.crierCounted p (crierOut s p) hr, State.leave_one _ q (crierOut s q) hr']
  rfl

/-- The trailer's counter moves with what is sent (R347). -/
theorem State.sentBoth_rct (s : State) (a b : Fin 4) (oa ob : Out) (i : Nat) :
    onlyRegs { s with eth := ((s.sentBoth a b oa ob).nextRct i).eth, out := ((s.sentBoth a b oa ob).nextRct i).out } ((s.sentBoth a b oa ob).nextRct i)
      [Obj.ETH_PORT.TX_FRAMES a, Obj.ETH_PORT.TX_FRAMES b] ∧
    ((s.sentBoth a b oa ob).nextRct i).out = s.out ++ [oa, ob] ∧ ((s.sentBoth a b oa ob).nextRct i).twin = s.twin := by
  have hout := s.sentBoth_out a b oa ob
  by_cases h : (s.sentBoth a b oa ob).u (Obj.INTERFACE.PRP_MODE (i / 2)) = 1
  · rw [State.nextRct_pair _ i h]
    exact ⟨((onlyRegs.refl { s with
      eth := ((s.sentBoth a b oa ob).modEth (firstPort i) (fun e => { e with prpSeq := e.prpSeq + 1 })).eth, out := (s.sentBoth a b oa ob).out } _).put
      List.mem_cons_self _).put (List.mem_cons_of_mem _ List.mem_cons_self) _, hout, rfl⟩
  · rw [State.nextRct_single _ i h]
    exact ⟨s.sentBoth_regs a b oa ob, hout, rfl⟩

end

end Sys2Proof.Machine
end

section
/-! SUPPORT. What criers do to roles, and what a frame accepted leaves of a twin (R428, R447, R454; Machine/Twin.lean). -/

namespace Sys2Proof.Machine

section
variable {s : State}

/-- A frame accepted in order leaves the twin's role and the streams. -/
theorem inOrder_twin {u : State} {a : Arrival} {vc : Nat} (h : inOrder s a vc u) : standby u = standby s ∧ u.streams = s.streams := by
  obtain ⟨-, -, rfl⟩ := h
  obtain ⟨-, -, hregs⟩ := s.acceptFrame_rest a vc
  have hfar : ∀ r : Reg, 0x6300 * 256 ≤ r.key → r.key < 0x6301 * 256 → (s.acceptFrame a vc).u r = s.u r := fun r h1 h2 =>
    hregs r (by simp only [Obj.AGGON.CE]; omega) (by simp only [Obj.MEMORY.POISON_SEEN]; omega)
  have hun : (s.acceptFrame a vc).unlinked = (s.accepted a vc).unlinked := State.unlinked_pumpLink _ _
  have hstreams := congrArg (fun v => State.streams v) hun
  exact ⟨standby_of (hfar _ (by decide) (by decide)) (hfar _ (by decide) (by decide)), hstreams⟩

/-- A YIELD that acts is no longer asked for. -/
def State.yielding (s : State) : State := { s with twin := { s.twin with yieldReq := false } }

theorem State.yieldNow_yields {n : Port} (hy : s.twin.yieldReq = true) (ha : active s = true) (hn : s.twinned n = true) : s.yieldNow n = s.yielding.takeRole 3 0 :=
  if_pos (by rw [hy, ha, hn]; rfl)

theorem standing_yieldReq {x y : TwinPart} (h : x.standing = y.standing) : x.yieldReq = y.yieldReq := by
  have hreq := congrArg TwinPart.yieldReq h
  exact hreq

theorem State.yielding_req (s : State) : s.yielding.twin.yieldReq = false := rfl

/-- A twin that yields claims nothing (R453). -/
theorem State.yielding_effect (s : State) : (s.yielding.takeRole 3 0).u Obj.TWIN.ROLE = 3 ∧ ownPriority (s.yielding.takeRole 3 0) = 0 ∧
    (s.yielding.takeRole 3 0).twin.yieldReq = false := by
  have hreq := s.yielding_req
  generalize s.yielding = v at hreq ⊢
  obtain ⟨hrole, hprio, -, htwin⟩ := v.takeRole_effect (role := 3) 0 (by decide)
  exact ⟨hrole, hprio, (standing_yieldReq htwin).trans hreq⟩

/-- A crier on Ethernet that counts makes a STARTING twin STANDBY of an ACTIVE peer (R447). -/
theorem crier_makesStandby {m : CrierMsg} (he : s.u Obj.TWIN.TWIN_EN = 1) (hc : m.claim.toNat % 2048 = s.u Obj.TWIN.PEER_ID) (hr : s.u Obj.TWIN.ROLE = 0)
    (hm : m.role = 2) : s.crierIn .eth m = (s.pathTold (s.twin.hears .eth m) .eth false).toStandby :=
  (State.crierIn_counts he hc).trans (State.crierRole_starting _ ((s.pathTold_u _ _ _ rfl (by decide)).trans hr) hm)

theorem crier_takesOver {m : CrierMsg} (he : s.u Obj.TWIN.TWIN_EN = 1) (hc : m.claim.toNat % 2048 = s.u Obj.TWIN.PEER_ID) (hr : s.u Obj.TWIN.ROLE = 1)
    (hm : m.role = 3) : s.crierIn .eth m = (s.pathTold (s.twin.hears .eth m) .eth false).unitFault :=
  (State.crierIn_counts he hc).trans (State.crierRole_standby _ ((s.pathTold_u _ _ _ rfl (by decide)).trans hr) hm)

/-- The claim of an ACTIVE twin that hears its standby in step (R454). -/
theorem crier_lowers {m : CrierMsg} (he : s.u Obj.TWIN.TWIN_EN = 1) (hc : m.claim.toNat % 2048 = s.u Obj.TWIN.PEER_ID) (hr : s.u Obj.TWIN.ROLE = 2)
    (hm : m.role = 1) (hp : s.twin.peerRole = some 1) (hin : m.cflags.getLsbD 0 = true) :
    (s.crierIn .eth m).u Obj.TWIN.ROLE = 2 ∧ ownPriority (s.crierIn .eth m) = min 4096 (ownPriority s) := by
  have hrole : (s.pathTold (s.twin.hears .eth m) .eth false).u Obj.TWIN.ROLE = 2 := (s.pathTold_u _ _ _ rfl (by decide)).trans hr
  have hprio : ownPriority (s.pathTold (s.twin.hears .eth m) .eth false) = ownPriority s := congrArg (· / 2048) (s.pathTold_u _ _ _ rfl (by decide))
  rw [State.crierIn_counts he hc, hp]
  generalize s.pathTold (s.twin.hears .eth m) .eth false = v at hrole hprio ⊢
  rw [State.crierRole_active hrole hm hin, hprio]
  split
  · next hlt =>
    obtain ⟨hclaim, hkept, -⟩ := v.putClaim_effect (claimOf_lt 4096 (ownId v))
    have hset : v.setClaim 4096 = v.putClaim (min 8191 4096 * 2048 + (ownId v).toNat) := rfl
    rw [hset, ownPriority, hclaim, hkept _ (by decide), priorityOf]
    exact ⟨hrole, by omega⟩
  · next hle => exact ⟨hrole, hprio.trans (by omega)⟩

end

end Sys2Proof.Machine
end

section

namespace Sys2Proof
open Machine

/-- Settles O46, by what a role taken, a unit fault and a lost delivery leave of the twin's registers and part. -/
theorem twins : Obligations.Twins := by
  unfold Obligations.Twins
  refine ⟨fun s path h => ⟨twinCrierSend_off path h, crierTimeout_off h⟩, fun s k m he hl hf hm => ?sends,
    fun s m he hc => congrArg Host.Outcome.next (State.crierIn_ignored (.inr hc)), fun s u a m h => ⟨fun hi => ?ignored, ?plain, fun hp => ?counts⟩,
    fun s p q he hp hq hup huq hr => ?ports, fun s m he hc hr hm hp => ?joins, fun s m he hc hr hm => ?succeeds, fun s m he hc hr hm hp hin => ?lowers,
    fun s he hr hl hf => ?silent, fun s he hr hor => ?waits, fun s he hr hl hor => ?starts, fun s f hf => claimFrame_bad hf,
    fun s c f hf hor => ?below, fun s c f hf he hr hc hp => ?above, fun s c f hf he hr hc => ?yields, fun s hs hor => ?stale, fun s he hr ha hl => ?staleStarts,
    fun s he hr ha hl => ?staleFaults, fun s n hy he hr hn => ?yieldsNow, fun s u a n d i z b h hs => ?idle, fun s u a n d i b h he hr hn hi ha hp => ?piece,
    fun s n d hn => ?lost, fun s n k hh hp hn => ?skipped, fun s u a m h hor => ?uncommitted, fun s u a m h hp hs hm hlt => ?committed,
    fun s u a m h hs => ?unmarked, fun s u a m h hp hs ho hh => ?marked, fun s c hc hne => ?claims, fun s h => if_neg (Int.not_le.mpr h),
    fun s k bale first m => ?met⟩
  case sends =>
    subst hm
    obtain ⟨hregs, -⟩ := State.of_unlinked (s.crierCounted.departed_unlinked k (crierFrame s))
    have htwin := congrArg (fun v => State.twin v) (s.crierCounted.departed_unlinked k (crierFrame s))
    have hcseq := congrArg TwinPart.cseq htwin
    exact ⟨_, twinCrierSend_free he hl hf, State.departed_out _ _ _, hcseq, hregs⟩
  case ignored =>
    refine congrArg Host.Outcome.next ?_
    by_cases hp : a.poisoned = []
    · exact (receive_clean h hp).trans (State.crierIn_ignored (hi.resolve_left (not_not_intro hp)))
    · exact receive_poisoned h hp
  case plain =>
    refine congrArg Host.Outcome.next ?_
    by_cases hp : a.poisoned = []
    · exact receive_clean h hp
    · exact receive_poisoned h hp
  case counts => exact congrArg Host.Outcome.next (receive_clean h hp)
  case ports =>
    obtain ⟨honly, hout, htwin⟩ := s.crierCounted.sentBoth_rct p q (crierOut s p) (crierOut s q) (2 * s.u Obj.TWIN.TWIN_IFACE)
    refine ⟨_, twinCrierSend_pair he hp hq hup huq hr, congrArg TwinPart.cseq htwin, ?_, ?_⟩
    · rw [hout, hp]
      rfl
    · rw [htwin]
      exact honly
  case joins =>
    obtain ⟨hrole, hprio, hstep, htwin, -⟩ := (s.pathTold (s.twin.hears .eth m) .eth false).toStandby_effect
    have hpri : (s.pathTold (s.twin.hears .eth m) .eth false).u Obj.TWIN.PRIORITY = s.u Obj.TWIN.PRIORITY := s.pathTold_u _ _ _ rfl (by decide)
    rw [State.pathTold_twin] at htwin
    refine ⟨_, congrArg Host.Outcome.next (crier_makesStandby he hc hr hm), ?_⟩
    generalize (s.pathTold (s.twin.hears .eth m) .eth false).toStandby = v at hrole hprio hstep htwin ⊢
    have hruns := congrArg TwinPart.runs htwin
    have hlate := congrArg TwinPart.lateEth htwin
    exact ⟨hrole, by rw [hprio, hpri]; omega, hstep, hruns, hlate.trans (Bool.and_false _)⟩
  case succeeds =>
    obtain ⟨hrole, hprio, -⟩ := (s.pathTold (s.twin.hears .eth m) .eth false).unitFault_effect
    have hpeer : peerPriority (s.pathTold (s.twin.hears .eth m) .eth false) = peerPriority s := congrArg (· / 2048) (s.pathTold_u _ _ _ rfl (by decide))
    exact ⟨_, congrArg Host.Outcome.next (crier_takesOver he hc hr hm), hrole, by rw [hprio, hpeer]⟩
  case lowers => exact ⟨_, rfl, crier_lowers he hc hr hm hp hin⟩
  case silent =>
    have hu : ∀ r : Reg, bookReg r.key = false → Obj.TWIN.FLAGS.key ≠ r.key → (s.pathTold (s.twin.misses .aggon) .aggon true).u r = s.u r := fun r h1 h2 =>
      s.pathTold_u _ _ _ h1 h2
    have hflag := s.pathTold_flag (s.twin.misses .aggon) .aggon true
    have htwin := s.pathTold_twin (s.twin.misses .aggon) .aggon true
    refine ⟨_, crierTimeout_on he, ?_⟩
    generalize s.pathTold (s.twin.misses .aggon) .aggon true = v at hu hflag htwin ⊢
    have hpeer : peerPriority v = peerPriority s := congrArg (· / 2048) (hu _ rfl (by decide))
    obtain ⟨hrole, hprio, htakes, harr, hbits⟩ := v.unitFault_effect
    rw [State.faultCheck_active ((hu _ rfl (by decide)).trans he) ((hu _ rfl (by decide)).trans hr) (by rw [htwin]; exact Bool.or_true _)
      (by rw [htwin]; exact congrArg (fun b => b || false) hl) (by rw [htwin]; exact hf)]
    rw [hu Obj.TWIN.TAKEOVERS rfl (by decide)] at htakes
    exact ⟨hrole, by rw [hprio, hpeer], htakes, harr, (hbits _ (by decide) (by decide)).trans hflag⟩
  case waits =>
    have hu : ∀ r : Reg, bookReg r.key = false → Obj.TWIN.FLAGS.key ≠ r.key → (s.pathTold (s.twin.misses .aggon) .aggon true).u r = s.u r := fun r h1 h2 =>
      s.pathTold_u _ _ _ h1 h2
    have hflag := s.pathTold_flag (s.twin.misses .aggon) .aggon true
    have htwin := s.pathTold_twin (s.twin.misses .aggon) .aggon true
    refine ⟨_, crierTimeout_on he, ?_⟩
    generalize s.pathTold (s.twin.misses .aggon) .aggon true = v at hu hflag htwin ⊢
    have hrole : v.u Obj.TWIN.ROLE = 1 := (hu _ rfl (by decide)).trans hr
    have hstay : v.startCheck.faultCheck = v := by
      rw [State.startCheck_none fun h => by rw [hrole] at h; exact absurd h.2.1 (by decide)]
      refine State.faultCheck_none (.inr (.inr ?_))
      rw [htwin]
      exact hor.imp (fun h => (Bool.or_false s.twin.lateEth).trans h) id
    rw [hstay]
    exact ⟨hrole, by rw [htwin]; exact Bool.or_true _, hflag⟩
  case starts =>
    have hu : ∀ r : Reg, bookReg r.key = false → Obj.TWIN.FLAGS.key ≠ r.key → (s.pathTold (s.twin.misses .eth) .eth true).u r = s.u r := fun r h1 h2 =>
      s.pathTold_u _ _ _ h1 h2
    have htwin := s.pathTold_twin (s.twin.misses .eth) .eth true
    refine ⟨_, crierTimeout_on he, ?_⟩
    generalize s.pathTold (s.twin.misses .eth) .eth true = v at hu htwin ⊢
    have hpeer : peerPriority v = peerPriority s := congrArg (· / 2048) (hu _ rfl (by decide))
    refine State.startCheck_active ((hu _ rfl (by decide)).trans he) ((hu _ rfl (by decide)).trans hr) (by rw [htwin]; exact congrArg (fun b => b || false) hl)
      (by rw [htwin]; exact Bool.or_true _) ?_
    rw [htwin, hpeer]
    exact hor
  case below =>
    have hkept : (if s.u Obj.TWIN.TWIN_EN = 0 then s.claimTaken c else if standby s ∧ c.toNat / 2048 = 0 then (s.claimTaken c).claimAbove.unitFault
        else (s.claimTaken c).claimAbove) = s.claimTaken c := by
      rcases hor with h | ⟨hle, hs⟩
      · exact if_pos h
      · have hnot : (s.claimTaken c).claimAbove = s.claimTaken c :=
          State.claimAbove_not (by rw [s.claimTaken_peer, s.claimTaken_u c (by decide) (by decide)]; exact hle)
        rw [if_neg (show ¬(standby s = true ∧ c.toNat / 2048 = 0) from fun h => Bool.false_ne_true (hs.symm.trans h.1)), hnot]
        exact ite_self _
    obtain ⟨hfresh, hstale, hports, hmem⟩ := s.claimTaken_fresh c
    exact ⟨_, (claimFrame_good hf).trans (congrArg Host.Outcome.next hkept), s.claimTaken_peer c, hfresh, hstale, s.claimTaken_kept c, hports, hmem⟩
  case above =>
    have ht : exec (.claimFrame f) s = .next (s.claimTaken c).twinnedCut.toStandby := by
      rw [claimFrame_good hf, if_neg (by rw [he]; decide), if_neg (fun h => by rw [standby_not (by rw [hr]; decide)] at h; exact Bool.false_ne_true h.1),
        State.claimTaken_yields he hr hc]
    obtain ⟨hrole, hprio, -, -, hpeer⟩ := (s.claimTaken c).twinnedCut.toStandby_effect
    have hcut := (s.claimTaken c).twinnedCut_pair
    have hpri : (s.claimTaken c).twinnedCut.u Obj.TWIN.PRIORITY = s.u Obj.TWIN.PRIORITY :=
      (pairScope_u hcut rfl).trans (s.claimTaken_u c (by decide) (by decide))
    exact ⟨_, ht, hrole, by rw [hprio, hpri]; omega, by rw [hpeer, pairScope_u hcut rfl, s.claimTaken_peer]⟩
  case yields =>
    have ht : exec (.claimFrame f) s = .next (s.claimTaken c).claimAbove.unitFault := by
      rw [claimFrame_good hf, if_neg (by rw [he]; decide), if_pos ⟨standby_iff.mpr ⟨he, hr⟩, hc⟩]
    obtain ⟨hrole, hprio, -⟩ := (s.claimTaken c).claimAbove.unitFault_effect
    have hpeer : peerPriority (s.claimTaken c).claimAbove = 0 := by
      rw [peerPriority, pairScope_u (State.claimTaken_standby hr) rfl, s.claimTaken_peer, hc]
    exact ⟨_, ht, hrole, by rw [hprio, hpeer]; rfl⟩
  case stale =>
    obtain ⟨htwin, hstale, hkept, hmem, hports⟩ := s.claimLost_kept
    have hu : ∀ r : Reg, Obj.TWIN.FLAGS.key ≠ r.key → s.claimLost.u r = s.u r := fun r h => s.claimLost_u h
    refine ⟨_, claimStale_eq s, ?_⟩
    generalize s.claimLost = v at htwin hstale hkept hmem hports hu ⊢
    have hstay : v.startCheck.faultCheck = v := by
      rw [State.startCheck_none fun h => ?_]
      · exact State.faultCheck_none (.inl ((standby_of (hu _ (by decide)) (hu _ (by decide))).trans hs))
      · rw [hu _ (by decide), hu _ (by decide), htwin] at h
        obtain ⟨h1, h2, h3, h4⟩ := h
        rcases hor with h | h | h | h
        · omega
        · exact h h2
        · exact Bool.false_ne_true (h.symm.trans h3)
        · exact Bool.false_ne_true (h.symm.trans h4)
    rw [hstay]
    exact ⟨by rw [htwin], hstale, hkept, hmem, hports⟩
  case staleStarts =>
    obtain ⟨htwin, -⟩ := s.claimLost_kept
    have hu : ∀ r : Reg, Obj.TWIN.FLAGS.key ≠ r.key → s.claimLost.u r = s.u r := fun r h => s.claimLost_u h
    refine ⟨_, claimStale_eq s, ?_⟩
    generalize s.claimLost = v at htwin hu ⊢
    exact State.startCheck_active ((hu _ (by decide)).trans he) ((hu _ (by decide)).trans hr) (by rw [htwin]; exact ha) (by rw [htwin]; exact hl)
      (.inl (by rw [htwin]))
  case staleFaults =>
    obtain ⟨htwin, -⟩ := s.claimLost_kept
    have hu : ∀ r : Reg, Obj.TWIN.FLAGS.key ≠ r.key → s.claimLost.u r = s.u r := fun r h => s.claimLost_u h
    refine ⟨_, claimStale_eq s, ?_⟩
    generalize s.claimLost = v at htwin hu ⊢
    have hpeer : peerPriority v = peerPriority s := congrArg (· / 2048) (hu _ (by decide))
    obtain ⟨hrole, hprio, -⟩ := v.unitFault_effect
    rw [State.faultCheck_active ((hu _ (by decide)).trans he) ((hu _ (by decide)).trans hr) (by rw [htwin]; exact ha) (by rw [htwin]; exact hl) (by rw [htwin])]
    exact ⟨hrole, by rw [hprio, hpeer]⟩
  case yieldsNow => exact ⟨_, State.yieldNow_yields hy (active_iff.mpr ⟨he, hr⟩) hn, s.yielding_effect⟩
  case idle =>
    refine congrArg Host.Outcome.next ((inOrder_receive h).trans ?_)
    split
    · rfl
    · exact State.mirrorPiece_idle hs _ _ _ _ _ _
  case piece =>
    have ht : exec (.mirrorFrame a n d i false b) s = .next (u.mirrorPiece a n d i false b) :=
      congrArg Host.Outcome.next ((inOrder_receive h).trans (if_neg fun hc => hp (List.contains_iff_mem.mp hc)))
    rw [State.mirrorPiece_first (standby_iff.mpr ⟨he, hr⟩) hn ha a hp d hi b] at ht
    exact ⟨_, ht, rfl, rfl⟩
  case lost =>
    exact ⟨s.lossCounted n, s.mirrorLost_eq n d, s.lossCounted_lost n hn, s.lossCounted_step n, by rw [s.lossCounted_twin]; exact Vector.getElem_set_self _,
      s.lossCounted_only n⟩
  case skipped =>
    obtain ⟨hstep, hruns⟩ := s.mirrorLost_step n none
    have hu : ∀ j b : Nat, j < 192 → b < 256 → ∀ r : Reg, r.key = (0x5140 + j) * 256 + b → (s.lossCounted n).u r = s.u r := fun j b hj hb r hr =>
      s.lossCounted_u n (by rw [hr]; simp only [Obj.TWIN.MIRROR_LOST]; omega) (by rw [hr]; simp only [Obj.TWIN.FLAGS]; omega)
    have hskip : (s.lossCounted n).u (Obj.PITCH.SKIPPED k) = s.u (Obj.PITCH.SKIPPED k) := hu k 0x0F k.isLt (by decide) _ rfl
    have hport : (s.lossCounted n).u (Obj.PITCH.PORT k) = s.u (Obj.PITCH.PORT k) := hu k 0x02 k.isLt (by decide) _ rfl
    have hcount := (s.lossCounted n).skipLost_counts n k hh (hport.trans hp) (by rw [hskip]; exact hn)
    exact ⟨_, rfl, by rw [s.mirrorLost_eq, hcount, hskip], hstep, hruns⟩
  case uncommitted =>
    refine congrArg Host.Outcome.next ?_
    by_cases hp : a.poisoned = []
    · exact (receive_clean h hp).trans (State.mirroredCommit_idle hor)
    · exact receive_poisoned h hp
  case committed =>
    obtain ⟨x, hx, htag⟩ := State.mirroredCommit_waits hs hm hlt
    have ht : exec (.mirroredCommit a m) s = .next { u.takeMirrored m with twin := x } := congrArg Host.Outcome.next ((receive_clean h hp).trans hx)
    exact ⟨_, ht, htag, List.mem_cons_self, rfl, rfl, rfl⟩
  case unmarked =>
    refine congrArg Host.Outcome.next ?_
    by_cases hp : a.poisoned = []
    · exact (receive_clean h hp).trans (if_neg fun hc => Bool.false_ne_true (hs.symm.trans ((inOrder_twin h).1.trans hc.1)))
    · exact receive_poisoned h hp
  case marked =>
    obtain ⟨hstand, hstreams⟩ := inOrder_twin h
    have hopen : s.streams[m.stream].isOpen = true := by rw [← hstreams]; exact ho
    refine congrArg Host.Outcome.next ((receive_clean h hp).trans ((if_pos ⟨hstand.symm.trans hs, hopen⟩).trans (meetMarks_none ?_ 1)))
    rw [State.modStream_self]
    exact hh
  case claims =>
    have hw : c < 2 ^ 32 := Nat.lt_trans hc (by decide)
    refine ⟨_, rfl, (s.putClaim_effect hw).1, ?_, ?_, claimOnWire_put s hne⟩
    · rw [State.putClaim_new hne]
      rfl
    · rw [State.putClaim_new hne]
      exact (onlyRegs.refl _ _).put List.mem_cons_self _
  case met =>
    obtain ⟨hseq, hno, hheld, heth, hout⟩ := (s.met k bale first m).numbered_effect k m.firstSeq.toNat m.bale.toNat m.frags.toNat
    refine ⟨_, s.meetMark_eq k bale first m, hseq, hno.trans ?_, fun hmark hn => ⟨?_, ?_, ?_⟩⟩
    · rw [BitVec.ofNat_add, BitVec.ofNat_toNat, BitVec.setWidth_eq]
      rfl
    · rw [hheld, State.met_withholds hmark, State.u_bump_self _ _ hn]
    · rw [heth, State.met_withholds hmark]
      rfl
    · rw [hout, State.met_withholds hmark]
      rfl

end Sys2Proof
end
